-- ==== Sys2Proof/Word.lean ====
section
/-! DEFINITION. The word types of the module (R4: little-endian, bit 0 least significant) and the index
types of its parts (R5 and the index names of 00_scope.md). -/

namespace Sys2Proof

/-- One byte. -/
abbrev Byte := BitVec 8
/-- A 16-bit half word (editions, tags, authority GEN). -/
abbrev Half16 := BitVec 16
/-- A register, token or record word. -/
abbrev Word := BitVec 32
/-- A device address, a scalar register, a seed. -/
abbrev DWord := BitVec 64
/-- A stream instruction (R112). -/
abbrev IWord := BitVec 128

/-- A built core by its global number (R5): half × 72 + cluster × 9 + core. -/
abbrev Core := Fin 144
/-- A stream of a core: 0 LOAD, 1 OPTIC, 2 VECTOR, 3 STORE (R109). -/
abbrev Str := Fin 4
/-- A token queue of a core (R26). -/
abbrev Queue := Fin 16
/-- An optical tensor engine of a core (R17). -/
abbrev Eng := Fin 4
/-- A cluster by its code 8 × half + cluster (R43). -/
abbrev Clu := Fin 16
/-- A job context (R32). -/
abbrev Ctx := Fin 4
/-- A fabric plane, and the chiplet that serves it (R1). -/
abbrev Plane := Fin 16
/-- A transmit or receive lane of a chiplet, or the pair of a transmit lane (R216, R254). -/
abbrev Lane := Fin 16
/-- A module of the pod (R13). -/
abbrev Modu := Fin 32
/-- A ring pair (R179). -/
abbrev RingIx := Fin 64
/-- A DDR channel and its device (R150). -/
abbrev Chan := Fin 12
/-- A compute half: 0 A, 1 B. -/
abbrev Hlf := Fin 2

end Sys2Proof
end

