-- ==== Sys2Proof/Syntax.lean ====
section
/-! DEFINITION. The commands of the block: one constructor per row of spec/opcode_table.json, with the operands
the row's rule gives it. The table gives no row any bits. A stream instruction (SIGNAL to VSTAT) names the core
and the stream that issues; its 128-bit word is the one the stream's fetch buffer holds at its PC (R111, R112).
A ring command names the ring; its 64 bytes are the oldest waiting entry of that ring (R181, R183). What the
module only measures (light, noise, temperature) or has checked (a signature) is an operand of the command
that reports it. -/

namespace Sys2Proof

/-- Where a token that is not a stream's own comes from (R27), with the source kind of R43. -/
inductive TokSrc
  | remoteStream | copyEngine | fabric | host
  deriving DecidableEq, Repr

/-- A tunable optical element held by a dither loop (R102). -/
inductive Element
  | rowTrim (g : Core) (e : Eng) (row : Fin 65)
  | compComb (c : Clu) (n : Fin 4)
  | fabComb (p : Plane) (n : Fin 2)
  | fabDemux (p : Plane) (line : Fin 32)
  | fabXbar (p : Plane) (l : Lane)
  | fabDrop (p : Plane) (l : Lane)
  deriving DecidableEq, Repr

/-- How a pilot check ends (R104). `neighbour d`: the tone found lies `d` channels from the expected one. -/
inductive PilotResult
  | pass
  | neighbour (d : Int)
  | order
  deriving DecidableEq, Repr

/-- What the calibration unit has measured at the end of a slot (R96, R98), in register units. -/
structure CalMeas where
  sc : Half16        -- 0.001 code units
  kappa : Half16     -- 10⁻⁶ units
  gainErr : Nat      -- mean gain error |d| under the previous drive map, 0.0001 %
  sigma1 : Half16    -- residual noise of the slot's K = 1 samples, 0.001 % FS units
  tunerOk : Bool     -- every knot within the tuner's range
  offsetOk : Bool    -- the offset within the offset DAC's range
  offTrim : BitVec 14   -- the offset DAC trim that phase 0 finds (R55, R94)
  drive : List Nat   -- tuner drives at the 9 knots, resonator by resonator (R96)
  pilotOk : Bool     -- the row's pilot check could be passed
  deriving DecidableEq, Repr

/-- What the SEC-DED code found in the memory a command read (R21, R22): nothing, a corrected word, or a double-bit
error, with the byte offset in that memory. -/
inductive Ecc
  | clean
  | corrected (off : Nat)
  | double (off : Nat)
  deriving DecidableEq, Repr

/-- How the bursts of a DDR unit came out at the burst code (R153): clean, one corrected, one beyond the code, or one beyond it together
with another unit of the stripe. -/
inductive BurstResult
  | clean | corrected | bad | badTwo
  deriving DecidableEq, Repr

/-- How a read of host memory ended (R175). -/
inductive HostFail
  | timeout | unsupported | aborted
  deriving DecidableEq, Repr

/-- What the host programs in configuration space beside Bus Master and Memory Space Enable (R171): the largest payload and read request in
bytes, relaxed ordering, ECRC generation and checking, the completion timeout's range and its disable. -/
structure PciCtl where
  payload : Nat := 128
  readReq : Nat := 512
  relaxed : Bool := true
  ecrcGen : Bool := false
  ecrcCheck : Bool := false
  ctoRange : Nat := 0
  ctoOff : Bool := false
  deriving DecidableEq, Repr

/-- A read request of the host: of BAR0, in 32-bit words, or of the doorbell page of BAR2, in bytes. -/
inductive ReadReq
  | bar0 (off lenDw : Nat)
  | doorbell (off size : Nat)
  deriving DecidableEq, Repr

/-- Who issued a host read that failed: the fetch of a ring, an entry of a ring, or an instruction of a stream. -/
inductive HostReader
  | ringFetch (r : RingIx)
  | ringEntry (r : RingIx)
  | stream (g : Core) (st : Str) (i : Nat)
  deriving DecidableEq, Repr

/-- The requester of a DDR access (R160), with its context where it has one. -/
inductive Requester
  | uplink (k : Clu) (c : Ctx)      -- a stream or the copy engine of a cluster
  | hubCopy (c : Option Ctx)        -- a hub copy engine, for the context its ring is bound to
  | bar4
  | firmware                        -- migration, patrol scrub, zeroing, the hub's own writes
  deriving DecidableEq, Repr

/-- The header of a control-network message (R279). `src` 0–31 a module, 0x20 the external arbiter, 0x21 the
operator tool. -/
structure Hdr where
  src : Nat
  msgid : Half16
  epoch : Word
  configEpoch : Word
  ackReq : Bool
  fabric : Bool      -- a fabric copy (R280)
  deriving DecidableEq, Repr

/-- The link-level fields of a flit (R237) arriving on the receive lane of pair `l` of plane `p`, as flit `slot` of
its superframe; `lost`: the superframe's codewords that could not be corrected (R232). -/
structure FlitHdr where
  p : Plane
  l : Lane
  slot : Fin 1285
  lost : List (Fin 1024)
  tc : Fin 4
  seq : BitVec 12
  ack : BitVec 12
  nak : Bool
  cr0 : Byte
  cr1 : Byte
  cr2 : Byte
  crc : Word
  deriving DecidableEq, Repr

/-- A training frame as it arrived (R235). -/
structure TrainFrame where
  mark : Word
  phase : Nat
  modu : Modu
  plane : Plane
  chan : Fin 32
  txLane : Lane
  code : Fin 4
  from_ : Half16
  ber : Word
  cwidx : Fin 1024
  crc : Word
  deriving DecidableEq, Repr

/-- The segment descriptor of a SEG flit, with its KIND, and of an RDREQ (R241, R242). -/
structure SegDesc where
  kind : Byte := 0
  sgen : Byte
  dgen : Byte
  sctx : Ctx
  dctx : Ctx
  smod : Modu
  edition : Half16
  length : Nat
  tag : BitVec 12
  daddr : BitVec 55
  poison : Bool
  poff : Nat
  token : Bool
  tvcore : Nat
  tq : Queue
  tpayload : Word
  deriving DecidableEq, Repr

/-- One notice entry (R243): KIND 1 DONE, 2 GONE, 3 REFUSED. -/
structure NoticeEntry where
  kind : Nat
  cause : Byte
  sgen : Byte
  sctx : Ctx
  tag : BitVec 12
  bytes : Nat
  deriving DecidableEq, Repr

/-- The report a LANE flit carries (R250). -/
structure LaneReport where
  fromEd : Half16
  edition : Half16
  ber10s : Word
  ber1ms : Word
  held : Bool
  retrain : Bool
  deriving DecidableEq, Repr

/-- A beacon as received (R251), times in ns and 2⁻³² ns: its send time, the echo of our last beacon (arrival
there, send time here), its quality, and our arrival time of it. -/
structure BeaconMsg where
  sendT : Nat
  echoArr : Nat
  echoSend : Nat
  quality : Byte
  code : Byte
  arrT : Nat
  deriving DecidableEq, Repr

/-- A frame read on a channel during a survey sweep (R257, R258). -/
structure SurveyFrame where
  plane : Plane
  chan : Fin 32
  modu : Modu
  txChan : Fin 32
  txLane : Lane
  deriving DecidableEq, Repr

/-- A pair reported not UP in APPLIED (R265). -/
structure NotUp where
  plane : Plane
  peer : Modu
  reason : Nat
  deriving DecidableEq, Repr

/-- A gazetteer plane record (R256), with the most frequent nonzero δ and its sender (R265). -/
structure GazRec where
  offset : Byte
  state : Nat
  loopch : Fin 32
  mismatch : Byte
  seen : Word
  delta : Nat
  deltaFrom : Nat
  deriving DecidableEq, Repr

/-- A pod configuration (R277). -/
structure PodCfg where
  epoch : Word
  active : Byte
  standby : Byte
  arbiter : Byte
  members : Word
  spares : Word
  arbAddr : BitVec 128
  addrs : List (BitVec 128)
  deriving DecidableEq, Repr

/-- One record of a lease request (R281 kind 0x0201). -/
structure LeaseReq where
  renew : Bool
  ret : Bool
  role : Nat
  twinLost : Bool
  mirror : Nat
  lastSeq : Nat
  deriving DecidableEq, Repr

/-- What a member's heartbeat says (R293). -/
structure HeartbeatBody where
  state : Nat
  steer : Nat
  edition : Half16
  risk : Nat
  gens : List Byte
  taps : List (Plane × Bool × Fin 32 × Nat)
  deriving DecidableEq, Repr

/-- A logbook record's code and contents as reported to the steward (R281 kind 0x020C). -/
structure FaultRec where
  code : Half16
  source : Half16
  p0 : Word
  p1 : Word
  p2 : Word
  p3 : Word
  deriving DecidableEq, Repr

/-- A journal entry (R301). -/
structure Journal where
  job : Word
  step : Word
  dataPos : DWord
  rng : DWord
  time : DWord
  deriving DecidableEq, Repr

/-- What a job report brings (R281 kind 0x0210, R300, R301). -/
inductive JobBody
  | register (ctx : Ctx) (gen : Byte) (members : List (Nat × Nat × Byte))
  | journal (ctx : Ctx) (entries : List Journal)
  | checkpoint (number step : Word) (slotOf : Nat) (state : Nat) (full : Bool) (digest : DWord)
  deriving DecidableEq, Repr

/-- A checkpoint in a member's well as its STATUS tells it: job, context, well slot B, number, step, state (2 COMMITTED, 3 DRAINED), whether it
has a FULL delta, the first 8 bytes of its trailer's digest. -/
structure CkptInfo where
  job : Nat
  ctx : Nat
  slotB : Bool
  number : Nat
  step : Nat
  state : Nat
  full : Bool := false
  digest : DWord := 0
  deriving DecidableEq, Repr

/-- What a STATUS reply brings (R281 kind 0x0212); `chart`: the chart in force, [] where it was not asked for. -/
structure StatusBody where
  edition : Half16
  staged : Half16
  gens : List Byte
  ckpts : List CkptInfo
  journals : List (Nat × Journal)
  chart : List Byte
  deriving DecidableEq, Repr

/-- A mirror record (R286): its sequence and type 1–9, with one word of content. -/
structure MirrorRec where
  seq : Nat
  kind : Nat
  data : List Nat
  deriving DecidableEq, Repr

/-- A section of an image (R322): its kind (1 tensor, 2 job state, 3 DDR region, 9 staging), ID, source address and length. -/
structure Section where
  kind : Nat
  id : Nat
  addr : Nat
  len : Nat
  deriving DecidableEq, Repr

/-- A granule of an image (R317): its section's index, its number there, its bytes other than zero (offset in the granule, byte), its poisoned
units (number in the granule), METHOD and STORED of its record. `coded`: the record's payload and DIGEST as another module's image holds them, from
which the bytes are decoded (R318). -/
structure Granule where
  sec : Nat
  ix : Nat
  cells : List (Nat × Byte)
  poison : List Nat
  method : Nat := 0
  stored : Nat := 0
  coded : Option (List Byte × List Byte) := none
  deriving DecidableEq, Repr

/-- A weight plane of a FULL delta: its digital copy with row scales and its flags. -/
structure ChipPlane where
  copy : List Byte
  codeSat : Bool
  digitalOnly : Bool
  written : Bool
  deriving DecidableEq, Repr

/-- An engine of a FULL delta: its planes, the physical core and engine it was taken from, and its calibration record (λ, σ_n(1), r_i by
physical row). -/
structure ChipEngine where
  live : ChipPlane
  shadow : ChipPlane
  core : Core
  eng : Eng
  lambdaF : Half16
  lambdaT : Half16
  sigma1 : Half16
  rates : List (Nat × Half16)
  deriving DecidableEq, Repr

/-- A stream of a FULL delta: PC, s0–s15, state (1: it ran at the freeze) and sticky flags. -/
structure ChipStream where
  pc : Word
  sregs : List (Nat × DWord)
  state : Nat
  flags : BitVec 6
  deriving DecidableEq, Repr

/-- A token queue of a FULL delta. -/
structure ChipQueue where
  cfg : Word
  toks : List Word
  ovf : Nat
  rej : Nat
  deriving DecidableEq, Repr

/-- A virtual core of a FULL delta: its SRAM's bytes other than zero, streams, queues and engines. -/
structure ChipCore where
  sram : List (Nat × Byte)
  streams : List ChipStream
  queues : List ChipQueue
  engines : List ChipEngine
  deriving DecidableEq, Repr

/-- A cistern window of a FULL delta: cluster code, BASE, SIZE, its bytes other than zero by offset in the window. -/
structure ChipWin where
  code : Nat
  base : Nat
  size : Nat
  cells : List (Nat × Byte)
  deriving DecidableEq, Repr

/-- The on-chip state of a FULL delta (R305). -/
structure OnChip where
  cores : List ChipCore
  wins : List ChipWin
  deriving DecidableEq, Repr

/-- An image (R321): its header, what its job-state section holds, its sections and granules. `stored`: its bytes. Of its trailer (R323): `records`
the tensor records, `secStored` and `sums` the stored bytes and the digest of each section's descriptor, `root` ROOT. -/
structure Image where
  full : Bool := false
  offline : Bool := false
  context : Nat := 0
  job : Nat := 0
  number : Word := 0
  step : Word := 0
  gen : Byte := 0
  vcores : Nat := 0
  cut : DWord := 0
  serial : DWord := 0
  deviceL : Bool := true
  seed : DWord := 0
  journal : List Byte := []
  modeEd : Half16 := 0
  modeTab : List Nat := []
  sections : List Section := []
  grans : List Granule := []
  chip : Option OnChip := none
  stored : Nat := 0
  slotB : Bool := false
  records : List Byte := []
  secStored : List Nat := []
  sums : List (List Byte) := []
  root : List Byte := []
  deriving DecidableEq, Repr

/-- Ways an image check ends at boot (R413, R415), as the boot ROM reports it. -/
structure ImageCheck where
  sigs : Bool
  copyOk : Bool
  deriving DecidableEq, Repr

/-- What a BOOT step's own work found (R397 to R399, R324, R345): fields of other steps are not read. -/
structure BootFinding where
  identityOk : Bool          -- step 2
  staged : ImageCheck        -- step 4: the staged image, if there is one
  bankOk : Bool              -- step 4: the bank in force verifies
  otherBankOk : Bool         -- step 4: the other bank verifies
  trainFail : List Chan      -- step 6: devices in service that failed training
  wellBytes : Nat            -- step 7: capacity the well reports; 0 absent
  wellBlank : Bool           -- step 7
  tornSlots : List (Ctx × Bool)  -- step 7: slots whose locator, ROOT or signatures fail (false A, true B)
  dumpOk : Bool              -- step 7: the DDR dump's header checks
  deriving DecidableEq, Repr

/-- What a CAL step's own work found (R400): combs that could not lock, cores failing self-test, engines with a
failed row. -/
structure CalFinding where
  combs : List (Clu × Fin 4)
  fabCombs : List Plane
  selftest : List Core
  engines : List (Core × Eng × Fin 65)
  powers : List (Clu × Fin 4 × Half16 × Fin 64 × Half16)
  deriving DecidableEq, Repr

/-- The class of an input excursion (R382). -/
inductive Excursion
  | sag | surge
  deriving DecidableEq, Repr

/-- PTP port (R357): 0 the control port, 1–4 the OSFP cages 0–3. -/
abbrev PtpPort := Fin 5

/-- The commands, in the order of spec/opcode_table.json. -/
inductive Instr
  -- 02 tokens, router, cores
  | signal (g : Core) (st : Str)
  | signalResume (g : Core) (st : Str)
  | wait (g : Core) (st : Str)
  | waitResume (g : Core) (st : Str)
  | remoteTokenArrival (src : TokSrc) (ctx : Ctx) (gen : Byte) (g : Core) (q : Queue) (payload : Word)
  | coreTqCfgWrite (g : Core) (q : Queue) (v : Word)
  | tqClear (g : Core) (q : Queue) (v : Word)
  /-- `needs`: a REQ that needs a response. `held`: the output takes no beat now. `parity`: the buffered beat has a parity error and was
  for the oldest long instruction of stream `st` of core `g`. -/
  | routerBeat (c : Clu) (inp out : Fin 12) (rsp needs held : Bool) (parity : Option (Core × Str))
  | sramCeRateExpiry (g : Core)
  | scrubComplete (g : Core) (selftestOk : Bool)
  -- 03, 04 optical tensor engine
  | loadw (g : Core) (st : Str)
  | loadwReadStart (g : Core) (e : Eng)
  | loadwReadEnd (g : Core) (e : Eng) (ecc : Ecc)
  | loadwWriteStart (g : Core) (e : Eng)
  | loadwComplete (g : Core) (e : Eng)
  | flip (g : Core) (st : Str)
  | flipStart (g : Core) (e : Eng)
  | flipComplete (g : Core) (e : Eng)
  | swapCopyEnd (g : Core) (e : Eng)
  | mvm (g : Core) (st : Str)
  | mvmStart (g : Core) (e : Eng)
  /-- `held`: SRAM has not taken the tile (R19, R65). `ecc`: found in the vector's bytes. -/
  | outputTileReady (g : Core) (e : Eng) (held : Bool) (ecc : Ecc)
  | writeBufferResume (g : Core) (e : Eng)
  | mvmComplete (g : Core) (e : Eng)
  | reissueFeedStop (g : Core) (e : Eng)
  | reissueRun (g : Core) (e : Eng)
  | reissueResume (g : Core) (e : Eng)
  /-- `ecc`: found in the vector's bytes. -/
  | dveRecomputeDone (g : Core) (e : Eng) (ecc : Ecc)
  | shadowVectorDone (g : Core) (e : Eng)
  | failTileLogFlush (g : Core) (e : Eng)
  -- 05 calibration, locks, combs
  /-- `ms`: the benchmark row's results at the end of phase 9; in CAL those of the 65 physical rows (R100). -/
  | calPhaseEnd (g : Core) (e : Eng) (ms : List CalMeas)
  | swapReadyDeferred (g : Core) (e : Eng)
  | exerciseBurst (g : Core) (e : Eng)
  | swapWaitAlarm (g : Core) (e : Eng)
  | lockLost (el : Element)
  | relockComplete (el : Element)
  | pilotCheckEnd (el : Element) (res : PilotResult)
  | combRelockTimeout (c : Clu) (n : Fin 4)
  /-- `want`: the SCLK slots that each of the cluster's 36 built engines asked for in the interval, by core and engine (R106). -/
  | governorIntervalEnd (c : Clu) (want : List Nat)
  /-- Losses in 0.01 dB against commissioning: the mean, and the worst line with its own. -/
  | combPowerCheck (c : Clu) (n : Fin 4) (loss : Half16) (line : Fin 64) (lineLoss : Half16)
  | cluCombGo (c : Clu) (v : Word)
  | handoverStandbyLocked (c : Clu)
  | handoverEnginesHeld (c : Clu)
  | handoverHoldTimeout (c : Clu)
  | handoverSwitchDone (c : Clu)
  /-- `inRange`: every p_j within −3 dB to +0.5 dB; `fitOk`: the second fit within 0.1 %; `trims`: the 64 trims of each of the slot's 12
  engines, by core and engine. -/
  | handoverConfirmEnd (c : Clu) (inRange fitOk : Bool) (trims : List (List Half16))
  | handoverRetry (c : Clu)
  | oteRowSelWrite (g : Core) (e : Eng) (v : Word)
  | oteChanSelWrite (g : Core) (e : Eng) (v : Word)
  -- 06, 07 sequencer and vector engine
  | nop (g : Core) (st : Str)
  | halt (g : Core) (st : Str)
  | rsignal (g : Core) (st : Str)
  | li (g : Core) (st : Str)
  | alu (g : Core) (st : Str)
  | br (g : Core) (st : Str)
  | rdsys (g : Core) (st : Str)
  | fence (g : Core) (st : Str)
  | releaseComplete (g : Core) (st : Str)
  | get (g : Core) (st : Str)
  /-- The `i`-th outstanding long instruction of the LOAD stream, a GET, has ended its copying. -/
  | getComplete (g : Core) (i : Nat) (ecc : Ecc)
  | put (g : Core) (st : Str)
  | putComplete (g : Core) (i : Nat) (ecc : Ecc)
  | stepmark (g : Core) (st : Str)
  | modesync (g : Core) (st : Str)
  | modeEditionTimeout (c : Ctx)
  | vew (g : Core) (st : Str)
  | vfma (g : Core) (st : Str)
  | vun (g : Core) (st : Str)
  | vred (g : Core) (st : Str)
  | vcvt (g : Core) (st : Str)
  | vmm (g : Core) (st : Str)
  | vstat (g : Core) (st : Str)
  | vectorComplete (g : Core) (ecc : Ecc)
  | fetchFill (g : Core) (st : Str) (ecc : Ecc)
  | start (g : Core) (st : Str) (v : Word)
  | stop (g : Core) (st : Str) (v : Word)
  | streamStopped (g : Core) (st : Str)
  -- 08 DDR and copy engines
  | ddrReadRequest (req : Requester) (u : Nat) (res : BurstResult) (held delayed : Bool)
  | ddrWriteRequest (req : Requester) (u : Nat) (off : Nat) (data : List Byte) (held delayed : Bool)
  | stripeGatherTimeout (stripe : Nat)
  | patrolScrubStep (res : BurstResult)
  | watchClearTimeout (ch : Chan)
  | deviceFailed (ch : Chan) (cause : Nat)
  | ddrRetire (r : RingIx)
  | migrationChunk
  | guardRegionZero (reg : Fin 16)
  | copy (r : RingIx)
  | fill (r : RingIx)
  | paged (r : RingIx)
  | copyDescriptorStart (eng : Fin 20)
  | copyDescriptorComplete (eng : Fin 20) (ecc : Ecc)
  | copyListWake (c : Clu) (ctx : Ctx)
  | copyListRestart (c : Clu) (v : Word)
  -- 09 host interface
  | functionLevelReset
  | hotReset
  | linkDownTimeout
  | busMasterEnableChange (bme d3hot mse : Bool) (ctl : PciCtl)
  | hostReadFailure (who : HostReader) (why : HostFail) (bus : DWord)
  | poisonedTlpReceived (who : Option HostReader) (bus : DWord)
  | bar4Read (off len : Nat)
  | bar4Write (off : Nat) (data : List (Option Byte))
  | sqTailDoorbell (off : Nat) (size : Nat) (v : DWord)
  | cqHeadDoorbell (off : Nat) (size : Nat) (v : DWord)
  | ringFetchComplete (r : RingIx)
  | msixTimeExpiry (r : RingIx)
  | ringEnable (r : RingIx)
  | ringDisable (r : RingIx)
  | ringDrainComplete (r : RingIx)
  | post (r : RingIx)
  | awaitStep (r : RingIx)
  | awaitDone (r : RingIx)
  | ctxCreate (r : RingIx)
  | ctxStart (r : RingIx)
  | ctxTeardown (r : RingIx)
  | teardownComplete (c : Ctx)
  | modeStage (r : RingIx)
  | coreFence (r : RingIx)
  | fenceClear (r : RingIx)
  | protCommit (v : Word)
  | protSetRetire (ed : Half16)
  -- 10 registers
  /-- `v`: the data, of a 32-bit write in bits 31:0. -/
  | registerWrite (off : Nat) (lenDw : Nat) (be : BitVec 4) (v : DWord)
  | rcRead (q : ReadReq)
  | pwWriteEffect (off : Nat)
  | pwWriteDrop (off : Nat)
  | idTestSet (v : Word)
  -- 11 fabric optics
  | laneRetuneComplete (p : Plane) (l : Lane) (rx : Bool)
  | rxPowerLow (p : Plane) (l : Lane) (cdbm : Half16)
  /-- New readings (tap code, index, 0.01 dBm) of the chiplet's taps, and the mean line powers of its combs. -/
  | tapRefresh (p : Plane) (reads : List (Fin 6 × Fin 32 × Half16)) (means : List (Fin 2 × Half16))
  | fabCombGo (p : Plane)
  | fabSpareLocked (p : Plane)
  /-- `load`: the TC0 and TC1 load of the plane's transmit lanes over the last 100 µs, in percent of their capacity. -/
  | fabLowTraffic (p : Plane) (load : Nat)
  | fabHandoverWindowExpiry (p : Plane)
  | fabHandoverDrainDone (p : Plane)
  | fabHandoverDrainTimeout (p : Plane)
  | fabSwitchDone (p : Plane)
  | fabRelockDone (p : Plane) (ok : Bool) (stallUs : Nat)
  | fabHandoverRetry (p : Plane)
  | fabCombRelockTimeout (p : Plane)
  | fabTapSelWrite (p : Plane) (v : Word)
  -- 12 the Ullos link
  /-- Both ends have reached the end of the pair's phase: `f`, a training frame of the peer's; `ber`: the BER measured here
  (MEASURE); `us`: how long the training took. -/
  | trainingPhaseComplete (p : Plane) (l : Lane) (f : TrainFrame) (ber : Word) (us : Nat)
  | trainingPhaseTimeout (p : Plane) (l : Lane) (cause : Nat)
  | codeSwitch (p : Plane) (l : Lane)
  | shortCodeBerExceeded (p : Plane) (l : Lane)
  | flitSlot (p : Plane) (l : Lane)
  /-- An IDLE flit, or one of TYPE 8 to 15 with its payload. -/
  | idle (h : FlitHdr) (type : Fin 16) (payload : List Byte)
  | writeSegment (h : FlitHdr) (d : SegDesc)
  | tokenOnly (h : FlitHdr) (d : SegDesc)
  | readResp (h : FlitHdr) (d : SegDesc)
  | data (h : FlitHdr) (tag : BitVec 12) (index : Byte) (last : Bool) (bytes : List Byte)
  | rdreq (h : FlitHdr) (d : SegDesc)
  | notice (h : FlitHdr) (es : List NoticeEntry)
  | noticeFlush (p : Plane) (l : Lane)
  | ctrl (h : FlitHdr) (kind : Half16) (msgid : Half16) (frag : Nat) (lastFrag : Bool) (bytes : List Byte)
  | genChange (sender : Modu) (pctx : Ctx) (newGen oldGen : Byte)
  | lane (h : FlitHdr) (rep : LaneReport)
  /-- `ber10s`, `ber1ms`: the pre-FEC BER of the partner lane as measured here. -/
  | laneReportDue (p : Plane) (l : Lane) (ber10s ber1ms : Word)
  | beacon (h : FlitHdr) (b : BeaconMsg)
  | beaconDue
  | ackTimeout (p : Plane) (l : Lane)
  | segmentTimeout (m : Modu) (tag : BitVec 12)
  | pairRetrainCmd (p : Plane) (mask : Half16)
  -- 13 steering
  | surveySweepEnd (frames : List SurveyFrame)
  | chartPart (h : Hdr) (edition : Half16) (part parts : Nat) (crc : Word) (bytes : List Byte)
  | chartCommit
  | chartApplyDeadline
  | chartControlResend (m : Modu)
  | staged (h : Hdr) (edition : Half16) (cause : Nat) (m : Modu)
  | applied (h : Hdr) (edition : Half16) (m : Modu) (us : Nat) (notUp : List NotUp)
  /-- `addr`: the control-network address that the report came from. -/
  | surveyReport (h : Hdr) (m : Modu) (recs : List GazRec) (addr : BitVec 128)
  | surveyCmd (h : Hdr) (mask : Half16)
  | lateModule (m : Modu)
  | retryWaitExpiry (m : Modu)
  | survey (r : RingIx)
  | chartRead (r : RingIx)
  /-- A ring entry; or, at the steward, a demand that a member has passed on: its module, context and 32 wishes. -/
  | demand (r : RingIx) (passed : Option (Modu × Ctx × List Byte))
  | demandTimeout (r : RingIx)
  | chartSubmit (r : RingIx)
  | loopTest (r : RingIx)
  | loopTestEnd (p : Plane) (ber : Word) (unc : Word)
  -- 14 steward pair and continuity
  | leaseReq (h : Hdr) (b : LeaseReq)
  | leaseGrant (h : Hdr) (epoch : Word) (holder : Nat) (solicited : Bool)
  | leaseDeny (h : Hdr) (cause : Nat) (holder : Nat) (epoch : Word)
  | leaseEnd (h : Hdr) (epoch : Word) (cause : Nat)
  | released (h : Hdr) (epoch : Word) (finalSeq : Nat)
  | takeover (h : Hdr) (epoch : Word) (holder : Nat) (prev : Nat) (kind : Nat)
  | heartbeat (h : Hdr) (b : HeartbeatBody)
  | heartbeatAck (h : Hdr) (edition : Half16) (cfgFollows : Bool)
  | mirror (rec : MirrorRec)
  | mirrorAck (seq : Nat)
  | mirrorAckLate (seq : Nat)
  | snapshot (base part parts : Nat) (recs : List MirrorRec)
  | eventReport (h : Hdr) (f : FaultRec)
  | moduleEvent (h : Hdr) (m : Modu) (cause : Nat) (ctx : Nat) (newGen : Byte)
  | bind (h : Hdr) (c : Ctx) (bs : List (Bool × Ctx × Byte))
  | jobCtl (h : Hdr) (job : Word) (c : Ctx) (action : Nat) (step number : Word)
  | jobReport (h : Hdr) (job : Word) (b : JobBody)
  | statusReq (h : Hdr) (chart : Bool)
  | status (h : Hdr) (b : StatusBody)
  | podConfig (h : Hdr) (cfg : PodCfg)
  | probe (h : Hdr)
  | ack (h : Hdr) (of : Half16)
  | ackRetransmit (of : Half16)
  | leaseRenewDue
  | candidacyDue
  | holderLeaseTimerEnd
  | arbiterLeaseExpiry
  | arbiterStartingEnd
  | rebuildStatusWait
  | quietPointReturn
  | twinLost (flapping : Bool)
  | twinRestored
  | holdEntry
  | heartbeatDue
  | memberSilent (m : Modu)
  | probeTimeout (m : Modu)
  /-- What the module's own counts say of the inputs of R295 that no register of it holds: pairs with a raised BER, and cores above 100 corrected
  errors per second. -/
  | riskScoreUpdate (berPairs ceCores : Nat)
  | authorityClaim (h : Hlf)
  | authorityHeartbeatTimeout
  -- 15 checkpoint and restore
  | ckptRegister (r : RingIx)
  | ckptBegin (r : RingIx)
  | journal (r : RingIx)
  | drain (r : RingIx)
  | restore (r : RingIx)
  /-- How the restore into context `c` ended: a status of R332 (0 OK), the failing section and granule. `img`: the image read from the
  operator's storage, where this module did not drain it. -/
  | restoreComplete (c : Ctx) (status : Half16) (sect gran : Nat) (ms : Nat) (img : Option Image)
  | target (r : RingIx)
  | targetConnected (r : RingIx)
  | abort (r : RingIx)
  | invalidate (r : RingIx)
  | fullFreezeComplete (c : Ctx) (us : Nat)
  | periodicCheckpoint (c : Ctx)
  | granuleCopy (c : Ctx)
  | copyAheadRelease (c : Ctx)
  | locatorWriteComplete (c : Ctx) (ms : Nat)
  | drainComplete (c : Ctx) (slotB : Bool) (ms : Nat)
  | drainFail (c : Ctx) (slotB : Bool) (cause : Nat) (nvme : Word)
  | miniWriteComplete (us : Nat)
  -- 16 resets, hangs, dumps
  | coreReset (g : Core) (cause : Nat)
  | clusterReset (c : Clu) (cause : Nat)
  | halfReset (h : Hlf) (cause : Nat)
  | computeReset (cause : Nat)
  | fabricLaneReset (p : Plane) (l : Lane) (cause : Nat)
  | moduleWarmReset (cause : Nat)
  | moduleColdReset (cause : Nat)
  | resetDrainEnd
  | resetSampleWritten
  | resetRelease (us : Nat)
  | resetEscalation
  | streamWaitHang (g : Core) (st : Str)
  | streamIssueHang (g : Core) (st : Str)
  | progressHang (g : Core) (st : Str)
  | stopHang (g : Core) (st : Str)
  | routerHang (c : Clu) (port : Fin 12) (rsp : Bool)
  | pairHang (p : Plane) (l : Lane)
  | chipletWatchdog (p : Plane)
  | halfControllerWatchdog (h : Hlf)
  | hubWatchdog (hpc : Word)
  | hubFirmwareException (hpc : Word)
  | hubMemoryUe (hpc : Word)
  | ddrControllerFault (hpc : Word)
  | dumpWritten (kib us : Nat)
  | dumpWellCopyEnd (result : Nat) (us : Nat)
  | dumpClear (v : Word)
  | rstHangCfgWrite (v : Word)
  -- 17 pod time
  | timeNowCapture
  /-- `adj`: INCR_ADJ as the loop filter gives it. -/
  | servoUpdate (adj : Int)
  | sourceLost
  | holdoffEnd
  | lockAcquired
  | sync (port : PtpPort) (twoStep : Bool) (origin arr : Nat)
  | followUp (port : PtpPort) (origin : Nat)
  | announce (port : PtpPort) (grandmaster : DWord) (better : Bool)
  | delayResp (port : PtpPort) (recvT : Nat)
  | pdelayReq (port : PtpPort) (arr : Nat)
  | pdelayResp (port : PtpPort) (reqRecv : Nat) (arr : Nat)
  | pdelayRespFollowUp (port : PtpPort) (respSend : Nat)
  | ppsEdge (t : Nat)
  | timeStepGo
  | manualSet
  | manualClear
  | alarmArm (a : Fin 8)
  | alarmFire (a : Fin 8)
  | todEnable (n : Fin 4)
  | todDisable (n : Fin 4)
  | todPulseStart (n : Fin 4)
  | todPulseEnd (n : Fin 4)
  -- 18 counters, sampling, logbook
  | counterCfgWrite (off : Nat) (v : Word)
  | counterWrap (off : Nat)
  | snapshotCmd (v : Word)
  | periodicSnapshot
  | sampleTag (g : Core) (st : Str)
  | sampleRecordWrite
  | samplingEnable (v : Word)
  | samplingDisable (v : Word)
  | samplingDrainEnd
  | logbookRecord
  -- 19 power, clocks, heat
  | inputExcursionEnd (cls : Excursion) (extreme : Nat) (us : Nat) (watts : Nat)
  | dropout (cv : Nat) (watts : Nat)
  | overvolt (cv : Nat) (watts : Nat)
  | holdupExhausted
  | inputRestored
  | powerCapExceeded (watts : Nat)
  | powerCapRelease
  /-- Temperatures in 0.1 °C of the eight sensors of R393, the twelve DDR devices (°C), and the input reading. -/
  | dieSensorRead (temps : List Int) (ddr : List Nat) (cv watts : Nat)
  | throttleStep (h : Hlf)
  | thermalTrip (s : Fin 8) (reading : Int)
  | thermalRestart
  | coolantWarning (rise : Bool) (inlet outlet : Int)
  | clockLost (bit : Fin 7)
  | clrExtremes (v : Word)
  -- 20 start-up
  | bootStepComplete (f : BootFinding)
  | bootPwrfailRelease
  | calStepComplete (f : CalFinding)
  | surveyWaitTimeout
  -- 21 update and identity
  | updOpen (r : RingIx)
  | updWrite (r : RingIx) (wellOk : Bool)
  | updCommit (r : RingIx) (wellOk : Bool)
  | updAbort (r : RingIx)
  | updStatus (r : RingIx)
  | updSessionIdle
  | attest (r : RingIx)
  | sidebandAttest (nonce : List Byte)
  -- 23 pins, removal, Ethernet, sideband
  | pwrfailNAssert (toggling : Bool) (edges : Nat) (cv watts : Nat)
  | rackAttn
  | rackAttnMask (masked : Bool)
  | perstN
  | slotIdChange (v : Fin 32)
  | ejectorOpen
  | ejectorClose
  | ethPortEnable (p : Fin 4)
  | ethPortDisable (p : Fin 4)
  | ethPortDrainEnd (p : Fin 4)
  | osfpModuleChange (p : Fin 4) (what : Fin 3) (powerClass : Nat)
  | ethernetFrame (p : Fin 4) (frame : List Byte) (ce ue : Nat)
  | controlLinkChange (link : Fin 3)
  | locate (v : Word)
  | setEndpointId (eid : Byte) (i3c : Bool)
  | getEndpointId
  | getMctpVersionSupport (mtype : Byte)
  | getMessageTypeSupport
  | getVendorDefinedMessageSupport (ix : Byte)
  | getTid
  | setTid (tid : Byte)
  | getPldmVersion (ptype : Byte)
  | getPldmTypes
  | getPldmCommands (ptype : Byte)
  | getPdr (handle : Word)
  | getSensorReading (sensor : Nat)
  | getStateSensorReadings (sensor : Nat)
  | getFruRecordTableMetadata
  | getFruRecordTable
  -- later rows
  | linkRateOrWidthChange (rate10 : Nat) (width : Nat)
  | hostInterfaceResetComplete
  | bar0ReadRefused (off : Nat) (lenDw : Nat) (be : BitVec 4)
  | codewordLockLost (p : Plane) (l : Lane)
  | preFecBerExceeded (p : Plane) (l : Lane)
  | ppsLost
  deriving DecidableEq, Repr

end Sys2Proof
end

