-- ==== Sys2Proof/Config.lean ====
section
/-! DEFINITION. The values the spec leaves open, as constants without a body: no proof can see what they are.
They are applied to the operands they depend on or to the state's counter of free values. -/

namespace Sys2Proof.Config

/-- The ADC code of one row of one vector (R56, R71): noise and calibration decide it. Arguments: the draw, the
exact sum S_i and the gain G. -/
opaque adcCode : Nat → Int → Nat → Int

/-- What the function of a VUN gives, in FP32 bits, from the function and the operand's FP32 bits (R137 bounds it
within 2 ulp of the exact function and states no bits). -/
opaque vunBits : Nat → Word → Word

/-- A number the spec leaves open, by what it stands for and the draw. -/
opaque open_ : Nat → Nat → Nat

/-- A byte at a place whose contents the spec sizes and does not lay out, by the draw and the position. -/
opaque openByte : Nat → Nat → Byte

end Sys2Proof.Config
end

