-- ==== Sys2Proof/Machine/StateParts.lean ====
section
/-! DEFINITION. The parts of the block's state as plain data, chapters 02 to 10, 16 and 18 of spec/. Every field
starts at its reset value; a table is a list of (index, record) pairs in rising order of index, and an index that
is not listed holds the record's reset value. -/

namespace Sys2Proof.Machine

/-- A table by index: pairs in strictly rising order, an unlisted index holding the reset value. -/
abbrev Tbl (α : Type) := List (Nat × α)

/-! ### 02 queues, 06 streams -/

/-- A token queue (R26 to R30). `ovfPend`: the consumer faults at its next WAIT (R28). -/
structure TokQueue where
  cfg : Word := 0
  toks : List Word := []
  ovf : Nat := 0
  rej : Nat := 0
  ovfPend : Bool := false
  deriving DecidableEq, Repr

/-- CORE_STR_STAT.STATE (R126). -/
inductive StrState
  | stopped | running | stopping | halted | faulted
  deriving DecidableEq, Repr

/-- A long GET, PUT or VECTOR instruction issued and not completed: its word, its PC, the scalar registers read at
its issue (R119), the context, GEN, virtual core, protection edition and seed in force then (R196, R140). `xfer`: the
fabric transfer it began, 0 none (R241). `bad`: how an execution failure was reported for it (cause of R127, info). -/
structure LongOp where
  word : IWord
  pc : Word
  sregs : Tbl DWord := []
  ctx : Ctx := 0
  gen : Byte := 0
  vcore : Nat := 0
  edition : Half16 := 0
  issuedAt : Nat := 0
  xfer : Nat := 0
  bad : Option (Nat × Nat) := none
  deriving DecidableEq, Repr

/-- A stream of a core (R109 to R129). `fbuf`: the fetch buffer as (PC, word) pairs, `wbase` the first PC of its
window. `flags`: the sticky exception flags of R141. `arrived`: waits at MODESYNC (R124), and `modeOut` the outcome
it is released with. `stall0`: the first STALL code held since the instruction before (R372). `stopAt`: when it became STOPPING (R342). -/
structure Stream where
  state : StrState := .stopped
  pending : Bool := false
  stall : Nat := 0
  stallQ : Nat := 0
  stallAt : Nat := 0
  stall0 : Nat := 0
  pc : Word := 0
  fault : Word := 0
  faultPc : Word := 0
  faultInfo : Word := 0
  sregs : Tbl DWord := []
  fbuf : List (Word × IWord) := []
  wbase : Word := 0
  outst : List LongOp := []
  flags : BitVec 6 := 0
  arrived : Bool := false
  stopAt : Nat := 0
  deriving DecidableEq, Repr

/-! ### 03 to 05 optical engines -/

/-- One plane (R46 to R49, R121). `codes`: the 4,160 bytes the resonators hold, [] for all codes 0 and all scales
0x00 (R51); `copy`: the digital copy; `written`: a program's LOADW has run its write phase into it since reset or scrub;
`drives`: by logical row, the drive map that its codes were set with (R96). -/
structure PlaneSt where
  codes : List Byte := []
  copy : List Byte := []
  codeSat : Bool := false
  digitalOnly : Bool := false
  written : Bool := false
  drives : List (List Nat) := []
  deriving DecidableEq, Repr

/-- The parameters of an MVM (R63) as read at its issue. -/
structure MvmP where
  trans : Bool
  k : Nat
  k1t : Bool        -- a transpose MVM that named K = 1 (R62)
  g : Nat
  count : Nat
  inA : Nat
  inStride : Nat
  bf16 : Bool
  outA : Nat
  outStride : Nat
  resA : Nat
  tol : Nat
  fallback : Nat
  deriving DecidableEq, Repr

/-- How far a running MVM is (R60, R87, R89). `plane`, `map`, `bench`: the plane and the rows it runs on; `next`: vectors
whose first result is formed; `tiles`: vectors that hold their final result; `clip` to `nan`: the counts of its summary
record, `fell` its fallback bit; `feed`: new vectors are fed, `fedTo`: how many have been fed once a stop of the feed is
due; `done`: its reissue procedure has ended; `list`: the reissue list as (vector, K′, AGED); `dve`: vectors
waiting for the DVE with CLIP and AGED; `digital`: every vector goes to the DVE; `skip`: an exposure on a DIGITAL_ONLY
plane; `stopAt`: the fault (cause, info) that ended its feed. -/
structure MvmRun where
  plane : PlaneSt := {}
  map : Tbl Nat := []
  bench : Nat := 64
  next : Nat := 0
  tiles : Nat := 0
  fedTo : Option Nat := none
  clip : Nat := 0
  flush : Nat := 0
  ovf : Nat := 0
  udf : Nat := 0
  nan : Nat := 0
  fell : Bool := false
  feed : Bool := true
  reissuing : Bool := false
  done : Bool := false
  dve : List (Nat × Bool × Bool) := []
  list : List (Nat × Nat × Bool) := []
  digital : Bool := false
  skip : Bool := false
  stopAt : Option (Nat × Nat) := none
  deriving DecidableEq, Repr

/-- An operation of an engine's queue (R64). -/
inductive OpKind
  | loadw (addr : Nat) (digitalOnly : Bool)
  | flip
  | mvm (p : MvmP)
  deriving DecidableEq, Repr

/-- Phase of an operation: LOADW 0 queued, 1 reading, 2 read, 3 writing; FLIP 0 queued, 1 running; MVM 0 queued,
1 running. `buf`: the load buffer of a LOADW. `failed`: its read met an error (R128). `cal`: issued by the calibration
unit (R97). -/
structure EngOp where
  kind : OpKind
  pc : Word := 0
  phase : Nat := 0
  buf : List Byte := []
  failed : Bool := false
  cal : Bool := false
  at_ : Nat := 0
  run : MvmRun := {}
  ctx : Ctx := 0
  gen : Byte := 0
  deriving DecidableEq, Repr

/-- A tile in the write buffer with its residual word: the core SRAM offsets they go to (R60, R65). -/
structure Tile where
  addr : Nat
  bytes : List Byte
  wordAddr : Nat
  word : Nat
  deriving DecidableEq, Repr

/-- A vector in the shadow queue (R101): its direction, K and G, and for each of the 64 rows its number, the exact
sum, the measured sum in pu and the physical row that served it; Σ var_i in units of 10⁻¹² pu². -/
structure ShadowVec where
  trans : Bool
  k : Nat
  g : Nat
  rows : List (Nat × Int × Int × Nat)
  varSum : Nat
  deriving DecidableEq, Repr

/-- A sample of the calibration unit (R95): the benchmark row's ADC code, the vector's DAC codes, its K. -/
structure CalSample where
  adc : Int
  dac : List Int
  k : Nat
  deriving DecidableEq, Repr

/-- What a physical row's calibration keeps (R96, R98, R102 to R105): registers OTE_ROW_CAL, OTE_ROW_DRIFT,
OTE_ROW_STAT. `calAt`: the time its calibration ended (its age starts there). `rate` starts at 0.01 % per ms, as an identity record would
give it (log 98). `offTrim`: its offset DAC trim; `drive`: its drive map, 9 knots for each resonator. -/
structure RowCal where
  sc : Half16 := 0
  kappa : Half16 := 0
  rate : Half16 := 100
  calAt : Nat := 0
  fails : Nat := 0
  pilotFails : Nat := 0
  attempts : Nat := 0
  retired : Bool := false
  unlocked : Bool := false
  offTrim : BitVec 14 := 0
  drive : List Nat := []
  deriving DecidableEq, Repr

/-- An optical tensor engine (R44 to R101). `calState`: OTE_CAL_STAT.STATE 0 CAL, 1 ROTATING, 2 HELD, 3 FAILED.
`phase`: 0–9, 15 slot ended, begun at `phaseAt`; `samples`: samples taken in it, `sampleSet` those of operation vectors, newest first;
`ringPos`: SCLK into the current 16-SCLK interval; `idleAt`: since when exercise vectors run; `sampSq`: Σ x² of the last 64 sampled
vectors (R95). `map`: logical → physical row where it differs from the identity. `slotHist`: the last 64
slots, newest first, true for a priority slot (R99). `gain`: Σ terms (e·S, S²) of a logical row's last 64 shadow
vectors, newest first. `histF`, `histT`: (Σe², Σvar) of the last 64 shadow vectors, newest first (R80). `stopped`: slot
timers stopped by a hand-over; `held`: held at its flip boundary; `hoPause`: its input stage paused by a forced hand-over (R107). -/
structure Ote where
  live : PlaneSt := {}
  shadow : PlaneSt := {}
  queue : List EngOp := []
  copying : Bool := false
  wbuf : List Tile := []
  paused : Bool := false
  map : Tbl Nat := []
  bench : Nat := 64
  ptr : Nat := 0
  nextBench : Nat := 0
  prio : List Nat := []
  slotHist : List Bool := []
  calState : Nat := 0
  phase : Nat := 0
  phaseAt : Nat := 0
  samples : Nat := 0
  sampleSet : List CalSample := []
  ringPos : Nat := 0
  idleAt : Nat := 0
  sampSq : List Nat := List.replicate 64 230400
  swapReady : Bool := false
  swapLatched : Bool := false
  readyAt : Nat := 0
  slotAt : Nat := 0
  void : Bool := false
  rows : Tbl RowCal := []
  sigma1 : Half16 := 1190
  lambdaF : Half16 := 0x0100
  lambdaT : Half16 := 0x0100
  histF : List (Nat × Nat) := []
  histT : List (Nat × Nat) := []
  gain : Tbl (List (Int × Nat)) := []
  lfsr : Half16 := 0xFFFF
  shadowQ : List ShadowVec := []
  failTiles : Nat := 0
  failTol : Nat := 0
  failFb : Nat := 0
  burst : Bool := false
  rowSel : Word := 0
  selCal : Word := 0
  selDrift : Word := 0
  selStat : Word := 0
  chanSel : Word := 0
  selTrim : Word := 0
  trims : List Half16 := []
  digMvms : Nat := 0
  stopped : Bool := false
  held : Bool := false
  hoPause : Bool := false
  deriving DecidableEq, Repr

/-- CORE_STATE.STATE (R36). -/
inductive CState
  | absent | free | assigned | scrub | fenced
  deriving DecidableEq, Repr

/-- An instruction followed by sampling (R370, R371): its word and the registers it read, its context (0xFF: none), the first STALL code it met,
its pod time of issue. `cut`: a reset abandoned it; `fell`, `k`: of an MVM that has completed, whether it took a fallback and the K it ran at. -/
structure SampTag where
  stream : Nat
  word : IWord
  sregs : Tbl DWord
  pc : Word
  ctx : Nat
  gen : Byte
  stall : Nat
  issue : Nat
  cut : Bool := false
  fell : Bool := false
  k : Option Nat := none
  deriving DecidableEq, Repr

/-- A built core (R17 to R43). `ueLines`: SRAM lines that hold a double-bit error now; `ueHist`: (time, line) of
each one counted (R37). `hangFree`: when the CORE reset that a hang raised last released it (R342). `sampNext`: the instruction that took
the sampling countdown to 0. -/
structure CoreSt where
  state : CState := .free
  fenceCause : Byte := 0
  vcore : Nat := 0
  gen : Byte := 0
  ctx : Ctx := 0
  fault : Word := 0
  eccCe : Word := 0
  eccUe : Word := 0
  eccAddr : Word := 0
  ueLines : List Nat := []
  ueHist : List (Nat × Nat) := []
  queues : Tbl TokQueue := []
  streams : Tbl Stream := []
  engines : Tbl Ote := []
  seqCfg : Word := 256
  shadowCfg : Word := 8
  shadowDrop : Nat := 0
  assignedAt : Nat := 0
  hangFree : Option Nat := none
  sampLfsr : Word := 0
  sampLeft : Nat := 0
  sampTag : Option SampTag := none
  sampNext : Option SampTag := none
  deriving DecidableEq, Repr

/-- A beat held in a router input buffer: its output, its class, and whether it is a REQ that needs a response (R24). -/
structure Beat where
  out : Nat
  rsp : Bool
  needs : Bool := false
  deriving DecidableEq, Repr

/-- A copy list of a cluster (R164): CLU_CE_LIST_c, CLU_CE_LIST_STAT_c. -/
structure CeList where
  reg : Word := 0
  head : Nat := 0
  state : Nat := 0
  err : Nat := 0
  deriving DecidableEq, Repr

/-- A compute comb: CLU_COMB_STAT_n (R107). -/
structure CombSt where
  state : Nat := 0
  unlocked : Bool := false
  pilotFails : Nat := 0
  loss : Half16 := 0
  warned : Bool := false
  relocking : Bool := false
  attempts : Nat := 0
  lostAt : Nat := 0
  deriving DecidableEq, Repr

/-- A comb hand-over in progress (R107): slot, step 1–4, 0 waiting for its retry; forced; already retried; since when in its step. -/
structure Handover where
  slot : Nat
  step : Nat
  forced : Bool
  retried : Bool
  since : Nat := 0
  deriving DecidableEq, Repr

/-- A cluster (R22 to R25, R35, R42, R106, R107). `rspRes`: RSP beats of an input port's buffer that the agent behind the port has reserved for
responses (R24). `beatAt`: by 2 × input port + class (1 RSP), when a beat last left a buffer class or entered it empty (R342). `handWait`: slots whose forced hand-over waits for the one that runs. `driven`: slots driven in the last interval, of
`drivenOf`. -/
structure CluSt where
  fault : Word := 0
  cwin : Tbl Word := []
  cisternCe : Word := 0
  cisternUe : Word := 0
  ueLines : List Nat := []
  beats : Tbl (List Beat) := []
  rspRes : Tbl Nat := []
  beatAt : Tbl Nat := []
  lists : Tbl CeList := []
  combMap : Word := 0x1E4         -- STBY_VALID 1, STBY 3, slots 2, 1, 0
  combs : Tbl CombSt := []
  handover : Option Handover := none
  handWait : List Nat := []
  driven : Nat := 0
  drivenOf : Nat := 0
  ceil : Nat := 0
  duty : Nat := 0
  deriving DecidableEq, Repr

/-! ### 02, 06 contexts -/

/-- A staged mode edition (R123 to R125) with the entry that staged it. -/
structure StagedMode where
  edition : Half16
  applyStep : Word
  timeout : Nat
  table : List Nat
  arrived : List Nat := []
  firstAt : Option Nat := none
  ring : Option (Nat × Half16 × Bool) := none
  deriving DecidableEq, Repr

/-- A job context (R32 to R40, R116, R123, R140). `gen`: its GEN while created, else the last one used for its
number. `map`: the context core table. `marks`: completed step by virtual core. -/
structure CtxSt where
  created : Bool := false
  gen : Byte := 0
  map : List (Option Core) := []
  seed : DWord := 0
  marks : Tbl Word := []
  modeEd : Half16 := 0
  modeTab : List Nat := []
  staged : Option StagedMode := none
  tearing : Bool := false
  tearRing : Option (Nat × Half16 × Bool) := none
  doneReported : Bool := false
  deriving DecidableEq, Repr

/-- A submission entry in flight (R181, R183): 64 bytes, the captured edition and GEN. `started`: its work has begun
(an AWAIT that waits, an accepted MODE_STAGE, a copy taken by an engine, a command whose completion comes later). `seq`: its number since
power-on, for entries may be equal byte by byte. -/
structure Entry where
  bytes : List Byte
  edition : Half16
  gen : Byte
  started : Bool := false
  seq : Nat := 0
  deriving DecidableEq, Repr

/-! ### 08 memory -/

/-- A request in a channel's queue (R160): the holder of its credit, whether it writes, its unit, how a read will come out, since when. -/
structure DdrReq where
  holder : Nat
  write : Bool
  unit : Nat
  res : BurstResult
  since : Nat
  deriving DecidableEq, Repr

/-- A DDR channel: DDR_CH_* (R157), with the times of its reconstructions (24 h) and corrected bursts (3 h), newest
first, and when a threshold was last crossed. `dead`: its device has failed, whatever became of it; `serving`: its queue serves writes. -/
structure DdrChan where
  state : Nat := 0
  temp : Nat := 0
  dead : Bool := false
  reqs : List DdrReq := []
  serving : Bool := false
  ce : Word := 0
  recon : Word := 0
  ue : Word := 0
  ecs : Word := 0
  reconAt : List Nat := []
  ceAt : List Nat := []
  crossedAt : Nat := 0
  retirePosted : Bool := false
  deriving DecidableEq, Repr

/-- A stripe in the gather buffer (R152): its units written, each with the mask of its bytes, and since when. -/
structure Gather where
  stripe : Nat
  units : List (Nat × Nat)
  since : Nat
  deriving DecidableEq, Repr

/-- What ends a copy descriptor (R170): the code, the failing address, and what the failure has to report: a refused address of which access,
or the line or unit that cannot be read. -/
structure RowFail where
  code : Nat
  addr : Nat
  guard : Option (Nat × Nat) := none
  window : Option (Nat × Nat) := none
  write : Bool := false
  line : Option Nat := none
  deriving DecidableEq, Repr

/-- A descriptor on a copy engine (R163): the ring entry or list index it came from, whether it has been started, the rows it is through
with, the bytes and units written, the fabric transfer of the rows under way, 0 none, the row behind these and the failure that ends it there. `told`: its
token has been sent to a peer. `hostBad`: the bus address of read data that arrived poisoned (R175). -/
structure CopyDesc where
  ring : Option Nat
  ctx : Option Ctx
  index : Nat
  entry : Entry
  running : Bool := false
  row : Nat := 0
  bytes : Nat := 0
  units : Nat := 0
  xfer : Nat := 0
  behind : Nat := 0
  bad : Option RowFail := none
  told : Bool := false
  hostBad : Option Nat := none
  deriving DecidableEq, Repr

/-- The DDR unit and the copy engines (R150 to R170). `poison`: poisoned units. `pos`: patrol position (unit).
`migChan`: the devices being retired, in order; `badParity`: stripes, by their first unit, whose parity is poisoned; `patrolPar`: the patrol
stands at the parity of its unit's stripe. `engines`: descriptors in progress, engines 0–3 hub, 4–19 cluster. -/
structure DdrSt where
  chans : Tbl DdrChan := []
  retired : Nat := 0
  inService : BitVec 12 := 0xFFF
  migrating : Bool := false
  migChan : List Nat := []
  badParity : List Nat := []
  patrolPar : Bool := false
  migAt : Nat := 0
  watermark : Nat := 0            -- in bytes
  capMb : Nat := 960000
  limit : Nat := 457216           -- U in 2 MiB units
  share : Word := 0x1819
  poison : List Nat := []
  gather : List Gather := []
  patrol : Nat := 0
  engines : Tbl (List CopyDesc) := []
  lastErr : Tbl Nat := []
  zeroing : List (Nat × Nat × Nat) := []
  deriving DecidableEq, Repr

/-! ### 09, 10 host interface -/

/-- RING_STAT.STATE (R193). -/
inductive RingState
  | disabled | active | draining | error
  deriving DecidableEq, Repr

/-- A ring pair (R179 to R193). `since`: completions since the last message, and the time of the first (R192). -/
structure RingSt where
  sqLo : Word := 0
  sqHi : Word := 0
  cqLo : Word := 0
  cqHi : Word := 0
  cfg : Word := 0
  mod : Word := 1
  enable : Bool := false
  state : RingState := .disabled
  pending : Bool := false
  err : Nat := 0
  sqHead : Nat := 0
  sqTail : Nat := 0
  cqHead : Nat := 0
  cqTail : Nat := 0
  pass : Bool := true
  inflight : List Entry := []
  since : Nat := 0
  sinceAt : Nat := 0
  deriving DecidableEq, Repr

/-- An error reported through AER (R175, R200): its class, and the header of the request: write or read, address, length in 32-bit words,
byte enables. -/
structure AerRec where
  cls : Nat
  write : Bool
  addr : Nat
  len : Nat
  be : Nat
  deriving DecidableEq, Repr

/-- The host interface, the rings and the keeper (R171 to R198). `staged`, `force`: the keeper page by offset;
`older`: live older sets with their editions. `aer`: reported errors, newest first. `waitCq`: records of a ring
whose write waits for Bus Master Enable (R174). `entSeq`: entries fetched; `lastAdmin`, `lastCopy`: the ring served last (R181, R189). -/
structure HostIf where
  rate10 : Nat := 320
  width : Nat := 8
  bme : Bool := true
  mse : Bool := true
  d3hot : Bool := false
  resetting : Bool := false
  rings : Tbl RingSt := []
  evtDrop : Word := 0
  evtLost : Nat := 0
  staged : Tbl Word := []
  force : Tbl Word := []
  edition : Half16 := 0
  refused : Bool := false
  commitPending : Option (Tbl Word) := none
  older : List (Half16 × Tbl Word) := []
  msix : Tbl Word := []
  pba : BitVec 128 := 0
  waitCq : List (Nat × Nat × List Byte) := []
  aer : List AerRec := []
  pci : PciCtl := {}
  entSeq : Nat := 0
  lastAdmin : Nat := 63
  lastCopy : Tbl Nat := []
  deriving DecidableEq, Repr

/-- A posted write accepted and not yet in effect (R205): its offset, value and the value before it. -/
structure PwWrite where
  off : Nat
  value : Word
  before : Word
  deriving DecidableEq, Repr

/-- The ID block and the access machinery (R199 to R213). `pw`: writes accepted and not in effect, at most one a
block; `pwLast`: what each PW register accepted last, by offset, for those whose fields start an action; `comm`: the launch power of each fabric
comb line at commissioning (R218), by 33 × (2 × plane + comb) + line, line 32 being the mean, in 0.01 dBm. -/
structure IdSt where
  deviceL : Bool := true          -- KRG-3216-L
  serial : DWord := 0
  vendor : Half16 := 0
  recFormat : Byte := 0
  assyStep : BitVec 4 := 0
  siStep : BitVec 4 := 0
  good : BitVec 144 := BitVec.allOnes 144
  fenceList : Tbl Byte := []      -- core → cause
  setVer : Word := 0
  fwVer : Tbl Word := []
  busErr : Word := 0
  busErrLast : Word := 0
  testRw : Word := 0
  testMw : Half16 := 0
  testRc : Half16 := 0
  pw : List PwWrite := []
  pwLast : Tbl Word := []
  comm : Tbl Half16 := []
  mac : BitVec 48 := 0
  subIds : Word := 0
  sections : List Byte := []
  deriving DecidableEq, Repr

/-! ### 16 resets -/

/-- A reset running (R336): kind, index, cause, phase, trigger time and its pod time, affected contexts, cores to sample, cores to fence at
its release. -/
structure ResetRun where
  kind : Nat
  index : Nat
  cause : Nat
  phase : Nat
  at_ : Nat
  pod : Nat := 0
  ctxs : List Nat
  cores : List Nat
  remap : List Nat := []
  deriving DecidableEq, Repr

/-- RST block (R334 to R349). `held`: context commands held until release, as (ring, entry position) in order. -/
structure RstSt where
  runs : List ResetRun := []
  lastKind : Nat := 0
  lastCause : Nat := 0
  lastIndex : Nat := 0
  hangCfg : Word := 0x0332190A
  counts : Tbl Nat := []          -- kind 1–7 and 8 for hangs
  lateDrop : Word := 0
  lateSince : Nat := 0
  sampleSeq : Nat := 0
  samplePos : Nat := 0
  sampleNext : Nat := 0
  dumpValid : Bool := false
  dumpSource : Bool := false
  dumpWell : Nat := 0
  dumpHalf : Bool := false
  dumpCause : Nat := 0
  dumpLen : Nat := 0                  -- bytes of the DDR dump
  wellDump : List Byte := []          -- the well's newest complete dump image, decoded
  held : List (Nat × Entry) := []
  dumpPending : Option Nat := none    -- a fatal error or commanded dump not yet written
  deriving DecidableEq, Repr

/-! ### 18 counters, sampling, logbook -/

/-- A counter (R364): its CFG, live count with overflow bit, and the captured count. -/
structure Counter where
  cfg : Word := 0x001F0000
  was : Bool := false
  live : Nat := 0
  ovf : Bool := false
  snap : Nat := 0
  snapOvf : Bool := false
  deriving DecidableEq, Repr

/-- A sample record queued (R372), as its 64 bytes. -/
structure SampRec where
  bytes : List Byte
  deriving DecidableEq, Repr

/-- TALLY block (R364 to R373). Counters by the BAR0 offset of their CFG register. -/
structure TallySt where
  counters : Tbl Counter := []
  snapCount : Word := 0
  snapTime : DWord := 0
  period : Word := 0
  periodAt : Nat := 0
  sampCfg : Word := 0x00F0000C
  enabled : Bool := false
  draining : Bool := false
  pending : Bool := false
  sampSeed : Word := 1
  sampBase : Word := 0
  sampSize : Word := 1
  sampWrite : Word := 0
  sampRead : Word := 0
  sampSeq : Word := 0
  sampDrop : Word := 0
  sampCores : Tbl Word := []
  sampQueue : List SampRec := []
  deriving DecidableEq, Repr

/-- A logbook record (R374). -/
structure LogRec where
  time : DWord
  code : Half16
  source : Half16
  p0 : Word
  p1 : Word
  p2 : Word
  p3 : Word
  deriving DecidableEq, Repr

/-- LOG block (R374 to R380). `ring`: by slot; `lostNow`: lost since the last 0x0501; `last`: the time of the last
record of each rate-limited code. -/
structure LogSt where
  ring : Tbl (Word × LogRec) := []
  head : Word := 0
  lost : Word := 0
  lostNow : Nat := 0
  queue : List LogRec := []
  restored : Bool := false
  last : Tbl Nat := []
  deriving DecidableEq, Repr

/-- A token sent into the router and not yet arrived (RSIGNAL, R113): context, GEN, core, queue, payload. -/
structure Transit where
  ctx : Nat
  gen : Byte
  g : Nat
  q : Nat
  payload : Word
  deriving DecidableEq, Repr

/-- Where the module sends something outside itself. -/
inductive Chan_
  | ctl | flit | train | twin | msix | completion | dma | pin | pldm | eth | ddr
  deriving DecidableEq, Repr

/-- A message the module has sent: its channel, its kind and its contents as numbers. -/
structure Msg where
  chan : Chan_
  kind : Nat
  args : List Nat
  deriving DecidableEq, Repr

end Sys2Proof.Machine
end

