-- ==== Sys2Proof/Machine/StateParts2.lean ====
section
/-! DEFINITION. The parts of the block's state as plain data, chapters 11 to 14 and 17 of spec/. -/

namespace Sys2Proof.Machine

/-! ### 11 fabric optics -/

/-- Optical state of a lane (R217). -/
inductive OptState
  | dark | tuning | checking | lit | held | failed
  deriving DecidableEq, Repr

/-- A transmit or receive lane: FAB_TX_LANE_l, FAB_RX_LANE_l. -/
structure LaneSt where
  state : OptState := .dark
  unlocked : Bool := false
  attempts : Nat := 0
  pilotFails : Nat := 0
  chan : Nat := 0
  deriving DecidableEq, Repr

/-- A fabric comb: FAB_COMB_STAT_c. STATE 0 OFF, 1 LOCKING, 2 STANDBY, 3 ACTIVE, 4 FAILED, 5 HANDOVER. `checked`: locked
and pilot-checked beside the primary. `lostAt`: when it lost lock. -/
structure FabComb where
  state : Nat := 0
  unlocked : Bool := false
  pilotFails : Nat := 0
  attempts : Nat := 0
  loss : Half16 := 0
  warned : Bool := false
  scheduled : Bool := false
  forced : Bool := false
  checked : Bool := false
  lostAt : Nat := 0
  deriving DecidableEq, Repr

/-- A fabric comb hand-over (R224). `step`: 1–5, 6 waiting for low traffic, 0 waiting for its retry or, with `turn`, for its
turn (R225). `low`, `window`: LOWTRAFFIC in percent and WINDOW in s as read when the wait began; `asked`: when the threshold was reached. -/
structure FabHand where
  step : Nat
  forced : Bool
  retried : Bool := false
  turn : Bool := false
  since : Nat := 0
  asked : Nat := 0
  low : Nat := 25
  window : Nat := 60
  deriving DecidableEq, Repr

/-! ### 12 link -/

/-- Link state of a pair (R236). -/
inductive PairState
  | off | train | up | active | retrain | down
  deriving DecidableEq, Repr

/-- What a sequenced flit carries (R238). `kind`: KIND of a SEG flit, 0 WRITE, 1 READ_RESP, 2 TOKEN_ONLY. -/
inductive FlitBody
  | seg (kind : Nat) (d : SegDesc)
  | rdreq (d : SegDesc)
  | data (tag index : Nat) (last : Bool) (bytes : List Byte)
  | notice (es : List NoticeEntry)
  | ctrl (kind msgid frag : Nat) (last : Bool) (bytes : List Byte)
  deriving DecidableEq, Repr

/-- A sequenced flit: its class, its SEQ once sent, whether it has been held on its edition, its body. -/
structure Flit where
  tc : Nat
  seq : Nat := 0
  held : Bool := false
  body : FlitBody
  deriving DecidableEq, Repr

/-- A segment being received on a pair: its descriptor, kind and class, the memory address its bytes go to (none: its flits
are discarded), the bytes delivered, and those kept to be written on to another peer. -/
structure OpenSeg where
  kind : Nat
  tc : Nat
  d : SegDesc
  place : Option Nat
  got : Nat := 0
  buf : List Byte := []
  deriving DecidableEq, Repr

/-- A lane pair, by its transmit lane, `assigned` by a chart or a loop test: the ULL_PAIR registers (R254), replay and flow state (R239, R240). `unacked`: the
replay buffer, oldest first; `replay`: flits of it still to be resent; `nakAt`: the ACK of the NAK being served; `queue`: flits
waiting to be sent; `cred`: credits held for TC0 to TC2 and `peerCr` the last CR counts taken; `freed`: this end's CR counts;
`ackAt`: since when the replay buffer has had flits and no advance; `phaseAt`: since when in its training phase; `expect`: the receiver's next SEQ; `nak`: it asks for a replay; `wait`: received flits held behind a newer edition (R248);
`notices`: entries waiting with the time of the oldest. -/
structure Pair where
  assigned : Bool := false
  state : PairState := .off
  held : Bool := false
  code : Nat := 0
  codeNext : Nat := 0
  rxcode : Nat := 0
  phase : Nat := 0
  attempt : Nat := 0
  fails : Nat := 0
  quick : Bool := false
  fresh : Bool := true
  rxLane : Nat := 0
  peer : Nat := 0
  loop : Bool := false
  from_ : Half16 := 0
  peerFrom : Half16 := 0
  peerEd : Half16 := 0
  berTx : Word := 0xFFFFFFFF
  berRx : Word := 0xFFFFFFFF
  berMs : Word := 0xFFFFFFFF
  retrains : Nat := 0
  trainFails : Nat := 0
  replays : Nat := 0
  next : Nat := 0
  acked : Nat := 0xFFF
  unacked : List Flit := []
  replay : List Flit := []
  nakAt : Option Nat := none
  sameReplays : Nat := 0
  timeouts : Nat := 0
  ackAt : Nat := 0
  phaseAt : Nat := 0
  queue : List Flit := []
  turn : Nat := 0
  cred : Nat × Nat × Nat := (0, 0, 0)
  peerCr : Nat × Nat × Nat := (0, 0, 0)
  freed : Nat × Nat × Nat := (0, 0, 0)
  expect : Nat := 0
  nak : Bool := false
  wait : List Flit := []
  segs : List OpenSeg := []
  frags : List (Nat × Nat × List Byte) := []
  notices : List NoticeEntry := []
  noticeAt : Nat := 0
  laneDue : Bool := false
  beaconDue : Bool := false
  beaconIn : Option (Nat × Nat) := none
  beaconOut : List Nat := []
  edDrops : Nat := 0
  discards : Nat := 0
  retrainAt : List Nat := []
  deriving DecidableEq, Repr

/-- A fabric chiplet: FAB block n (R228, R254). `taps`, `bases`: readings and baselines by 32 × code + index in 0.01 dBm; a
reading that is not listed is 0x8000. `located`: the losses located (cause, index). -/
structure FabSt where
  combs : Tbl FabComb := []
  switch_ : Nat := 0
  txRetired : Bool := false
  hand : Option FabHand := none
  tx : Tbl LaneSt := []
  rx : Tbl LaneSt := []
  pairs : Tbl Pair := []
  handCfg : Word := 0x0019003C
  ullCfg : Word := 0x00010014
  tapSel : Word := 0
  tapPwr : Half16 := 0
  tapBase : Half16 := 0
  taps : Tbl Half16 := []
  bases : Tbl Half16 := []
  located : List (Nat × Nat) := []
  deriving DecidableEq, Repr

/-- A piece of a fabric transfer not yet begun (R241): peer, inner address, bytes; the memory address here, or the bytes
themselves; a read that is to be written on to another peer; how its transfer ends once the piece is written (code and address). -/
structure Piece where
  peer : Nat
  read : Bool
  inner : Nat
  len : Nat
  here : Nat := 0
  data : Option (List Byte) := none
  fwd : Option (Nat × Nat) := none
  ends : Option (Nat × Nat) := none
  deriving DecidableEq, Repr

/-- A fabric transfer of a long instruction or copy descriptor. `token`: the TOKEN_ONLY segment still to be sent (peer, inner
address, virtual core, queue, payload). `err`: how it failed (code of R170 or 0x0D REMOTE, address or peer). `live`: segments and
reads without an answer. -/
structure Xfer where
  ctx : Option Ctx
  gen : Byte
  tc : Nat
  todo : List Piece := []
  serial : Bool := false
  live : Nat := 0
  token : Option (Nat × Nat × Nat × Nat × Word) := none
  err : Option (Nat × Nat) := none
  wrote : Nat := 0
  deriving DecidableEq, Repr

/-- A segment or read sent and not answered (R241, R244). `kind`: 0 WRITE, 2 TOKEN_ONLY, 3 RDREQ. `since`: when its first flit left, and `limit`
its timeout in ms as it was then. -/
structure SegOut where
  peer : Nat
  tag : Nat
  plane : Nat
  lane : Nat
  kind : Nat
  tc : Nat
  piece : Piece
  d : SegDesc
  xfer : Nat
  resent : Bool := false
  since : Option Nat := none
  limit : Nat := 20
  deriving DecidableEq, Repr

/-- The fabric side of the hub (R241 to R247). `nextX`: the next transfer number, counted from 1. `msgid`: the next control message number. -/
structure LinkSt where
  xfers : Tbl Xfer := []
  nextX : Nat := 1
  outs : List SegOut := []
  msgid : Nat := 0
  unknown : Nat := 0
  deriving DecidableEq, Repr

/-! ### 13 steering -/

/-- STEER_STAT.STATE (R266). -/
inductive SteerState
  | surveying | uncharted | steady | staged | applying | excluded
  deriving DecidableEq, Repr

/-- A gazetteer record (R256), with the nonzero δ recorded: (sender, δ, count). STATE 0 UNSURVEYED, 1 DARK, 2 SURVEYED,
3 INCONSISTENT, 4 ABSENT. -/
structure Gaz where
  offset : Nat := 0xFF
  state : Nat := 0
  loopch : Nat := 0
  mismatch : Nat := 0
  seen : Word := 0
  deltas : List (Nat × Nat × Nat) := []
  deriving DecidableEq, Repr

/-- A survey running (R257): its planes, the sweeps finished, loop channels found by plane, the frames that are not loop
frames by plane as (sender's estimate, sender, channel), and the ring entry that asked. -/
structure SurveyRun where
  planes : List Nat
  sweeps : Nat := 0
  loops : Tbl (List Nat) := []
  others : Tbl (List (Nat × Nat × Nat)) := []
  ring : Option (Nat × Nat) := none
  deriving DecidableEq, Repr

/-- A chart arriving in parts (R265). -/
structure ChartIn where
  edition : Half16
  crc : Word
  parts : Nat
  got : List (Nat × List Byte) := []
  deriving DecidableEq, Repr

/-- A loop test (R273): plane, its lanes, its ring and its entry's TAG, and when its duration has passed. -/
structure LoopRun where
  plane : Nat
  tx : Nat
  rx : Nat
  ring : Nat
  tag : Nat
  till : Nat := 0
  deriving DecidableEq, Repr

/-- An edition this module has issued as steward (R268, R270): the chart's bytes, members that have it staged, members that have applied,
retries by module, and the CHART_SUBMIT entry that waits for it. -/
structure Issued where
  chart : List Byte
  staged : List Nat := []
  applied : List Nat := []
  contained : List Nat := []
  retries : Tbl Nat := []
  retryAt : Tbl Nat := []
  submit : Option (Nat × Nat) := none
  deriving DecidableEq, Repr

/-- The STEER block and the steering state (R256 to R275). `slot`: this module's harness input (R13). `bind`: STEER_BIND by 32 × context
+ module. Charts are kept as the bytes of R260. `chart`: the chart in force; `kept`: what a chart not lit here for PLANE lists. `demand`: the
demands held, by 4 × module + context, `demandFor`: the entries waiting (context, ring, tag, accepted in edition, since when). `joining`: the pairs (plane, peer)
that the chart in force adds; `deferred`: planes whose change of chart waits for step 4 of a hand-over (R225). The rest is the steward's: reports,
pod offsets, editions issued, modules excluded for SLOT_ID, pairs reported failed (plane, a, b), by module its pairs that failed the identity check (plane,
other end), members one of whose pairs has trained, the network
address that first reported as each module, and offsets recorded as disagreeing (member, plane) (R259). -/
structure SteerSt where
  slot : Nat := 0
  bind : Tbl Word := []
  gaz : Tbl Gaz := []
  state : SteerState := .surveying
  charted : Bool := false
  edition : Half16 := 0
  chart : List Byte := []
  staged : List Byte := []
  epoch : Word := 0
  cfg : Word := 0x0000011E
  late : Nat := 0
  containedCnt : Nat := 0
  notUp : Nat := 0
  applyUs : Nat := 0
  applyAt : Nat := 0
  parts : Option ChartIn := none
  latestPart : Option Half16 := none
  survey : Option SurveyRun := none
  unlit : List (Nat × Nat) := []
  joining : List (Nat × Nat) := []
  deferred : List Nat := []
  demand : Tbl (List Nat) := []
  demandFor : List (Nat × Nat × Nat × Nat × Nat) := []
  loops : List LoopRun := []
  lastApplied : List Nat := []
  reports : Tbl (List GazRec) := []
  reportOrder : List Nat := []
  podOffset : Tbl Nat := []
  wrongSlot : List Nat := []
  issued : List Issued := []
  failedPairs : List (Nat × Nat × Nat) := []
  retiredLanes : List (Nat × Nat) := []
  trainFail3 : Tbl (List (Nat × Nat)) := []
  trained : List Nat := []
  reporter : Tbl (BitVec 128) := []
  disagree : List (Nat × Nat) := []
  deriving DecidableEq, Repr

/-! ### 14 steward and continuity -/

/-- The lease at the arbiter (R283, R284). `state`: 0 STARTING, 1 FREE, 2 HELD, 3 ENDING. `expiry` and the times in `lastReq` (by
module) and `freeAt` are on the model's clock. `seen`: the highest epoch in any request's header. `mirrorOf`: the mirror state in a module's last request. -/
structure ArbSt where
  state : Nat := 0
  holder : Nat := 0xFF
  expiry : Nat := 0
  epoch : Nat := 0
  lastReq : Tbl Nat := []
  mirrorOf : Tbl Nat := []
  freeAt : Nat := 0
  seen : Nat := 0
  returning : Nat := 0xFF
  deriving DecidableEq, Repr

/-- A member as the steward holds it (R293, R294, R300). `state`: 0 not a member, 1 MEMBER, 2 SPARE, 3 RESERVED, 4 EXCLUDED, 5 FAILED. `up`:
its start-up state; `level`: its risk level; `taps`: tap falls of its last heartbeat (plane, input, channel, 0.1 dB). -/
structure Member where
  state : Nat := 0
  wide : Bool := false
  risk : Nat := 0
  level : Nat := 0
  ctlLost : Bool := false
  heardAt : Nat := 0
  probing : Bool := false
  probeAt : Nat := 0
  up : Nat := 0
  edition : Half16 := 0
  gens : List Byte := []
  taps : List (Nat × Bool × Nat × Nat) := []
  lastCkpt : Nat := 0
  deriving DecidableEq, Repr

/-- A slot of a job: its module, its context and that context's GEN. -/
structure JobSlot where
  modu : Nat
  ctx : Nat
  gen : Byte
  deriving DecidableEq, Repr

/-- A checkpoint of a job in the ledger (R300): number, step, and by slot its well slot B and state (1 WRITING, 2 COMMITTED, 3
DRAINED, 4 LOST). -/
structure JobCkpt where
  number : Nat
  step : Nat
  slots : Tbl (Bool × Nat) := []
  full : Bool := false
  digests : Tbl Nat := []
  deriving DecidableEq, Repr

/-- A spare placement under way (R298): the failed module, the slot, the spare, the checkpoint's number and step, the phase (3 stopped,
4 charted, 5 restoring, 6 resumed, 0 stalled) and when it began. -/
structure Placement where
  failed : Nat
  slot : Nat
  spare : Nat
  number : Nat
  step : Nat
  phase : Nat
  since : Nat
  deriving DecidableEq, Repr

/-- A job in the ledger. `leaving`: a module at ALERT that is replaced once the checkpoint of this number is drained. -/
structure Job where
  slots : List JobSlot := []
  ckpts : List JobCkpt := []
  journals : List Journal := []
  place : Option Placement := none
  reserved : Option Nat := none
  leaving : Option (Nat × Nat) := none
  deriving DecidableEq, Repr

/-- What the steward does once its mirror record is acknowledged (R286). -/
inductive StewAct
  | none_
  | chart (bytes : List Byte) (submit : Option (Nat × Nat))
  | bind (m c : Nat) (words : List Nat)
  | jobCtl (m job c action step number : Nat)
  | event (m cause c gen : Nat)
  deriving DecidableEq, Repr

/-- A control message that waits for its ACK (R280), and when it was last sent. -/
structure CtlMsg where
  dst : Nat
  kind : Nat
  msgid : Nat
  body : List Nat
  tries : Nat := 0
  at_ : Nat := 0
  deriving DecidableEq, Repr

/-- The steward pair, the arbiter, heartbeats, risk and authority (R276 to R302). `role`: 0 not designated, 1 IDLE, 2 SYNCING, 3
STANDBY, 4 TWIN_LOST, 5 ACTIVE. `active`: the active steward as this module knows it. `reqAt`: when its last lease request was sent,
`basis` and `until_`: its lease. `twinPower`: the four twin lanes are powered (R431); `twinUp`: their bond is up. `mirror`: 0 CURRENT, 1 LAGGING, 2 NONE. `queue`: records sent and not acknowledged, with what waits for
them. `contrib`: risk contributions by input row, with the value and the time they hold to. `startAt`: when the module last started (R292). -/
structure StewSt where
  cfg : Option PodCfg := none
  role : Nat := 0
  active : Option Nat := none
  leaseEpoch : Nat := 0
  reqAt : Nat := 0
  basis : Nat := 0
  until_ : Nat := 0
  twinPower : Bool := false
  twinUp : Bool := false
  mirror : Nat := 2
  seq : Nat := 0
  applied : Nat := 0
  queue : List (Nat × StewAct) := []
  kept : Nat := 0
  overflow : Bool := false
  snapParts : List Nat := []
  snapBase : Nat := 0
  rebuilding : Bool := false
  statuses : List (Nat × StatusBody) := []
  hold : Bool := false
  holdAt : Nat := 0
  reports : List (List Nat) := []
  dropped : Nat := 0
  lastAck : Nat := 0
  arb : ArbSt := {}
  members : Tbl Member := []
  jobs : Tbl Job := []
  ledger : List MirrorRec := []
  authHolder : Option Nat := none
  authGen : Half16 := 0
  startAt : Nat := 0
  risk : Nat := 0
  level : Nat := 0
  contrib : Tbl (Nat × Nat) := []
  ctlLost : Bool := false
  msgid : Nat := 0
  unacked : List CtlMsg := []
  seen : List (Nat × Nat × Nat × Nat) := []
  discards : Nat := 0
  returning : Bool := false
  deriving DecidableEq, Repr

/-! ### 17 pod time -/

/-- TIME_STAT.STATE (R355). -/
inductive TimeState
  | freerun | acquiring | locked | holdover | manual
  deriving DecidableEq, Repr

/-- An alarm (R359, R360). -/
structure Alarm where
  target : DWord := 0
  armed : Bool := false
  deriving DecidableEq, Repr

/-- A time output (R361): TOD_n registers, its level, when its next pulse starts, when the pulse that is high ends. -/
structure Tod where
  start : DWord := 0
  period : Word := 0
  width : Word := 0
  enable : Bool := false
  pending : Bool := false
  high : Bool := false
  nextAt : Nat := 0
  endAt : Nat := 0
  deriving DecidableEq, Repr

/-- A PTP port (R357): messages are exchanged, its grandmaster and whether the best master clock algorithm prefers it, the Sync that waits for its
Follow_Up or Delay_Resp (arrival, origin), when the last delay request left, the Pdelay_Resp received (request receipt, arrival), the path delay. -/
structure PtpPortSt where
  up : Bool := false
  gm : DWord := 0
  syncArr : Nat := 0
  syncOrigin : Nat := 0
  waiting : Bool := false
  reqAt : Nat := 0
  respRecv : Nat := 0
  respArr : Nat := 0
  delay : Int := 0
  deriving DecidableEq, Repr

/-- A peer's beacons (R354): quality, when the last one came. -/
structure BeaconIn where
  quality : Byte := 0
  at_ : Nat := 0
  deriving DecidableEq, Repr

/-- The pod time counter and the TIME block (R350 to R362). `nowNs`, `nowFrac`: captured by a read of TIME_NOW_LO. `source`: TIME_STAT.SOURCE. `adjHist`:
INCR_ADJ of the last 10 s, newest first. `samples`: offset samples in 2⁻³² ns, newest first, and `need` how many the loop waits for. `closeAt`: since
when the median offset has stayed within ±20 ns; `lostAt`: when the hold-off began. `ppsRun`:
accepted edges in a row spaced 1 s ± 1 ms, `ppsLast` the last one, `ppsAt` when it came; `ppsAligned`: the last edge lay within 1 µs of a second. -/
structure TimeSt where
  ns : DWord := 0
  frac : Word := 0
  nowNs : DWord := 0
  nowFrac : Word := 0
  state : TimeState := .freerun
  source : Nat := 0
  peer : Nat := 0
  quality : Byte := 0
  offset : Word := 0
  incrAdj : Word := 0
  adjHist : List Int := []
  samples : List Int := []
  need : Nat := 8
  closeAt : Option Nat := none
  holdoff : Bool := false
  lostAt : Nat := 0
  cfg : Word := 0x00000E0A
  stepLo : Word := 0
  stepHi : Word := 0
  alarmStat : Byte := 0
  alarms : Tbl Alarm := []
  tods : Tbl Tod := []
  beacons : Tbl BeaconIn := []
  ptpCfg : Word := 1
  slave : Nat := 7
  ports : Tbl PtpPortSt := []
  ppsIgnored : Nat := 0
  ppsLast : Option Nat := none
  ppsAt : Nat := 0
  ppsRun : Nat := 0
  ppsOk : Bool := false
  ppsAligned : Bool := false
  deriving DecidableEq, Repr

end Sys2Proof.Machine
end

