-- ==== Sys2Proof/Machine/StateParts3.lean ====
section
/-! DEFINITION. The parts of the block's state as plain data, chapters 15, 19, 20, 21 and 23 of spec/. -/

namespace Sys2Proof.Machine

/-! ### 15 checkpoints -/

/-- A checkpoint template (R331 REGISTER). -/
structure Template where
  auto : Bool
  full : Bool
  gate : Bool
  gateq : Nat
  job : Nat
  manifest : Nat
  mlen : Nat
  stagingUnits : Nat
  staging : Nat
  lbaA : Nat
  lbaB : Nat
  deriving DecidableEq, Repr

/-- Slot states (R312). -/
inductive SlotState
  | empty | writing | committed | draining | drained
  deriving DecidableEq, Repr

/-- A slot of the well. `order`: rises with each commit in the module. `drainer`: the DRAIN entry that waits, ring and TAG. `lba`: where it
drains to. `reading`: a restore reads it. `locator`: the 64 bytes that end its image. -/
structure Slot_ where
  state : SlotState := .empty
  full : Bool := false
  extents : Nat := 0
  number : Word := 0
  step : Word := 0
  stored : Nat := 0
  image : Image := {}
  order : Nat := 0
  drainer : Option (Nat × Nat) := none
  lba : Nat := 0
  reading : Bool := false
  locator : List Byte := []
  deriving DecidableEq, Repr

/-- A checkpoint in progress (R308 to R316). `cut`: the cut is taken; `freezing`: the FULL freeze runs, and `froze` the streams it stopped (core,
stream), `stage` its staging section; `sec`, `gran`: where the scan stands; `copied`: granules copied ahead of it, `buffer` those of them whose writes are still held; `secBytes`:
record bytes stored by section. -/
structure CkptRun where
  number : Word := 0
  step : Word := 0
  full : Bool := false
  slotB : Bool := false
  cut : Bool := false
  freezing : Bool := false
  froze : List (Nat × Nat) := []
  stage : Option Section := none
  sec : Nat := 0
  gran : Nat := 0
  copied : List (Nat × Nat) := []
  buffer : List (Nat × Nat) := []
  done : Nat := 0
  ahead : Nat := 0
  secBytes : Tbl Nat := []
  image : Image := {}
  ring : Option (Nat × Nat) := none
  deriving DecidableEq, Repr

/-- A restore running into a context: its slot (none: the target at `lba`), flags, ring and TAG. -/
structure RestoreRun where
  slot : Option Bool
  lba : Nat
  full : Bool
  start : Bool
  offline : Bool
  map : List (Nat × Nat)
  ring : Nat
  tag : Nat
  deriving DecidableEq, Repr

/-- CKPT_STAT.WELL. -/
inductive WellState
  | absent | formatting | ready | failed | unusable
  deriving DecidableEq, Repr

/-- A MINI image (R325): its half, the logbook ring and head, the journals, the steward's ledger, charts, the directory. -/
structure Mini where
  half : Nat
  ring : Tbl (Word × LogRec)
  head : Word
  ledger : List MirrorRec
  chart : List Byte
  staged : List Byte
  gaz : Tbl Gaz
  journals : Tbl (List (List Byte))
  dir : Tbl Slot_
  deriving DecidableEq, Repr

/-- Checkpoint and restore. `runs`: the checkpoint in progress of each context. `slots` by 2 × context + slot. `journals`: the last 64 entries of
each context, newest first, 32 bytes each. `target`: the record of R326, and `target_` who waits for its connection. `images`: what this module has
drained, by LBA. `known`: the highest number known of each context; `startAt`: when its last checkpoint started, `commitAt` when one committed.
`commits`: commits so far. `dirSeq`: the sequence number of the directory's newest copy, which stands in copy `dirSeq` mod 2 (R311, R324). -/
structure CkptSt where
  well : WellState := .absent
  cfg : Word := 0x0200000A
  drain : Word := 10
  runs : Tbl (Option CkptRun) := []
  templates : Tbl (Option Template) := []
  slots : Tbl Slot_ := []
  journals : Tbl (List (List Byte)) := []
  restores : Tbl (Option RestoreRun) := []
  target : List Byte := []
  connected : Bool := false
  target_ : Option (Nat × Nat) := none
  images : Tbl Image := []
  caCount : Word := 0
  caLong : Word := 0
  known : Tbl Nat := []
  startAt : Tbl Nat := []
  commitAt : Tbl Nat := []
  commits : Nat := 0
  dirSeq : Nat := 0
  mini : Option Mini := none
  miniBusy : Bool := false
  deriving DecidableEq, Repr

/-! ### 19 power -/

/-- Power, clocks, heat (R381 to R393). `failing`: the power-fail action that runs, its cause; `tripped`: off after a thermal trip. `heatA`, `heatB`: each
half's throttle for heat, `capped`: the module's for its power cap. `temps`: now and highest by sensor, 0.1 °C. `sags`: times of the last sags, newest
first; `dropped`: a dropout is in the settings store and no READY has counted it. -/
structure PwrSt where
  pwrfail : Bool := false
  failing : Option Nat := none
  tripped : Bool := false
  heatA : Bool := false
  heatB : Bool := false
  capped : Bool := false
  lastCause : Nat := 0
  cv : Nat := 0
  watts : Nat := 0
  vmax : Half16 := 0
  vmin : Half16 := 0xFFFF
  sag : Nat := 0
  surge : Nat := 0
  dropout : Nat := 0
  overvolt : Nat := 0
  cfg : Word := 0x07080000 + 95
  capA : Nat := 100
  capB : Nat := 100
  capAt : Tbl Nat := []
  overAt : Nat := 0
  temps : Tbl (Int × Int) := []
  locks : BitVec 7 := 0x7F
  sags : List Nat := []
  dropped : Bool := false
  deriving DecidableEq, Repr

/-! ### 20 start-up -/

/-- UPD_BOOT_STAT.STATE (R395); `off`: the module is OFF and reports nothing. -/
inductive BootState
  | off | boot | cal | survey | ready | degraded | fenced
  deriving DecidableEq, Repr

/-- Start-up (R395 to R405). `step`: BOOT or CAL steps completed. `warm`: it follows a MODULE-WARM reset. `hold`: PWRFAIL_N holds BOOT, `held` that 0x0704 has
been written. `reported`: the survey report of this start has been sent, at `reportAt`. `fenceMask`: conditions of R403 kept in the settings store. -/
structure BootSt where
  state : BootState := .boot
  step : Nat := 0
  fenceCause : Nat := 0
  warm : Bool := false
  hold : Bool := false
  held : Bool := false
  reported : Bool := false
  reportAt : Nat := 0
  fenceMask : Nat := 0
  deriving DecidableEq, Repr

/-! ### 21 update -/

/-- A part entry of a manifest: p, version, offset and length in the image, SHA-512 (R412). -/
structure FwPart where
  part : Nat
  ver : Nat
  off : Nat
  len : Nat
  digest : List Byte
  deriving DecidableEq, Repr

/-- A manifest of R412 as the module reads it: its bytes, SET_VER, SECVER, DEVICES, MIN_SI_STEP, SETTINGS_FMT, part entries. -/
structure Manifest where
  raw : List Byte := []
  setVer : Nat := 0
  secVer : Nat := 0
  devices : Nat := 0
  minStep : Nat := 0
  settingsFmt : Nat := 0
  parts : List FwPart := []
  deriving DecidableEq, Repr

/-- An update session (R410). -/
structure UpdSession where
  id : Nat
  source : Nat
  ring : Nat
  lastAt : Nat
  deriving DecidableEq, Repr

/-- Firmware and identity (R407 to R420). `bank0`, `bank1`: the set each bank holds; `selector`: the bank in force. `blocks`: 4 KiB blocks written in
the session; `staging`: the staging partition, an offset that is not listed holding zero. `staged`: the committed image's manifest and its
session's ID. `log`: the measured boot log as (kind, version, part, SHA-512). -/
structure UpdSt where
  bank0 : Manifest := {}
  bank1 : Manifest := {}
  selector : Nat := 0
  fallback : Bool := false
  lastAct : Nat := 0
  secVer : Word := 0
  settingsFmt : Nat := 0
  session : Option UpdSession := none
  staged : Option (Manifest × Nat) := none
  stagedSource : Nat := 0
  stagedRing : Nat := 0
  blocks : List Nat := []
  staging : List Host.Cell := []
  log : List (Nat × Nat × Nat × List Byte) := []
  deriving DecidableEq, Repr

/-! ### 23 connectors -/

/-- CTL_REMOVE.STATE (R439). -/
inductive RemoveState
  | none_ | requested | safe
  deriving DecidableEq, Repr

/-- The pins and the CTL block (R430, R435, R437, R439, R440). `attnAt`: when the last event 0x4040 was posted, plus 1. -/
structure PinSt where
  pwrfailN : Bool := false
  attnMasked : Bool := false
  ejectOpen : Bool := false
  slotChanged : Bool := false
  slotNow : Nat := 0
  attnCount : Nat := 0
  attnAt : Nat := 0
  attnOn : Nat := 0
  perst : Bool := false
  ctlCfg : Word := 1
  led : Word := 0
  remove : RemoveState := .none_
  link : Nat := 0
  deriving DecidableEq, Repr

/-- ETH_PORT_STAT.STATE (R440). -/
inductive EthState
  | disabled | noModule | down | up | draining
  deriving DecidableEq, Repr

/-- A faceplate port. `rx`: the frames it has taken for the front end, oldest first, each with its priority; `pfcHeld`: the priorities that
the link partner's PFC holds back. -/
structure EthPort where
  rx : List (Nat × List Byte) := []
  pfcHeld : Byte := 0
  ctl : Word := 0
  state : EthState := .disabled
  pending : Bool := false
  present : Bool := false
  fecLock : Bool := false
  feCe : Word := 0
  feUe : Word := 0
  drop : Word := 0
  deriving DecidableEq, Repr

/-- The sideband (R438): the MCTP EID (0: null) and the bus it was assigned on, SB_ALERT_N, the PLDM terminus ID. -/
structure SideSt where
  i3c : Bool := false
  alert : Bool := false
  eid : Byte := 0
  tid : Byte := 0
  deriving DecidableEq, Repr

end Sys2Proof.Machine
end

