-- ==== Sys2Proof/Machine/State.lean ====
section
/-! DEFINITION. The state of the block as plain data: everything the spec gives the module, the queue of waiting
commands, the model's clock and its counter of free values; the reasons a step can stop; the state at power-on. -/

namespace Sys2Proof.Machine

/-- Memory: (address, byte) pairs with addresses strictly rising and no entry equal to what an unlisted address
reads as (log 5). Core SRAM, cisterns and DDR lie at their device addresses (R147); host memory at 2⁶⁴ plus its bus
address. -/
abbrev Memory := List Host.Cell

/-- The state of the module. `now`: nanoseconds since power-on, the model's own clock for rate limits and windows.
`freeCtr`: the model's own counter of free values drawn. `sent`: what the module has sent outside itself, newest
first (log 4). `pending`: the queue of waiting commands. -/
structure State where
  now : Nat := 0
  freeCtr : Nat := 0
  mem : Memory := []
  cores : Tbl CoreSt := []
  clus : Tbl CluSt := []
  ctxs : Tbl CtxSt := []
  transit : List Transit := []
  ddr : DdrSt := {}
  hst : HostIf := {}
  idb : IdSt := {}
  rst : RstSt := {}
  tally : TallySt := {}
  log : LogSt := {}
  fab : Tbl FabSt := []
  link : LinkSt := {}
  steer : SteerSt := {}
  stew : StewSt := {}
  ckpt : CkptSt := {}
  time : TimeSt := {}
  boot : BootSt := {}
  pwr : PwrSt := {}
  upd : UpdSt := {}
  pins : PinSt := {}
  eth : Tbl EthPort := []
  side : SideSt := {}
  sent : List Msg := []
  pending : List Instr := []
  deriving DecidableEq, Repr

/-- No command of this block ends in a fault: what the spec calls a fault (of a stream, a descriptor, a transfer) is
an effect on State. Nobody raises it; safe. -/
inductive Fault
  deriving DecidableEq, Repr

/-- Why a command is refused. -/
inductive Refusal
  /-- A command without a meaning yet, raised by its arm in Dispatch.lean; safe. -/
  | notModelled (mnemonic : String)
  deriving DecidableEq, Repr

/-- The module right after power-on (R396, R397): BOOT, nothing trained, every table empty. -/
def State.reset : State := {}

end Sys2Proof.Machine
end

