-- ==== Sys2Proof/Machine/Ops.lean ====
section
/-! DEFINITION. The named operations over tables, memory, the logbook and outbox, and the accessors of State. -/

namespace Sys2Proof.Machine

abbrev Out := Host.Outcome State Fault Refusal

/-! ### Tables -/

/-- The record at an index, or the reset value `d`. -/
def Tbl.get {α : Type} (d : α) : Tbl α → Nat → α
  | [], _ => d
  | (k', v) :: t, k => if k = k' then v else Tbl.get d t k

/-- The table with one record written, rising order kept. -/
def Tbl.set {α : Type} : Tbl α → Nat → α → Tbl α
  | [], k, v => [(k, v)]
  | (k', v') :: t, k, v =>
    if k < k' then (k, v) :: (k', v') :: t
    else if k = k' then (k, v) :: t
    else (k', v') :: Tbl.set t k v

/-- The table with one record changed. -/
def Tbl.upd {α : Type} (d : α) (t : Tbl α) (k : Nat) (f : α → α) : Tbl α := Tbl.set t k (f (Tbl.get d t k))

/-- Indices strictly rising. -/
def Tbl.sorted {α : Type} : Tbl α → Bool
  | [] => true
  | [_] => true
  | a :: b :: t => decide (a.1 < b.1) && Tbl.sorted (b :: t)

/-! ### Numbers -/

/-- Bits `lo` to `lo + n - 1` of a number. -/
def bits (v lo n : Nat) : Nat := (v >>> lo) % 2 ^ n

/-- The field of a word. -/
def fld {w : Nat} (v : BitVec w) (lo n : Nat) : Nat := bits v.toNat lo n

/-- One bit of a word. -/
def bit {w : Nat} (v : BitVec w) (i : Nat) : Bool := v.getLsbD i

/-- The word with one field replaced. -/
def setFld {w : Nat} (v : BitVec w) (lo n x : Nat) : BitVec w :=
  BitVec.ofNat w (v.toNat - bits v.toNat lo n * 2 ^ lo + x % 2 ^ n * 2 ^ lo)

/-- A counter that saturates. -/
def satAdd (m a b : Nat) : Nat := if a + b ≤ m then a + b else m

/-- A 32-bit counter that saturates at 0xFFFF_FFFF. -/
def incSat (v : Word) (n : Nat) : Word := BitVec.ofNat 32 (satAdd 0xFFFFFFFF v.toNat n)

/-- 1 or 0. -/
def b2n (b : Bool) : Nat := if b then 1 else 0

/-- A signed number as 32 bits, saturating. -/
def satWord (x : Int) : Nat :=
  if x > 2147483647 then 0x7FFFFFFF else if x < -2147483648 then 0x80000000
  else (BitVec.ofInt 32 x).toNat

/-- Nonnegative part of a difference of 32-bit words taken as signed (R375, R124). -/
def sdiff32 (a b : Word) : Int := (a - b).toInt

/-! ### Bytes, little-endian (R4) -/

/-- The `n` bytes of a number. -/
def toBytes : Nat → Nat → List Byte
  | _, 0 => []
  | v, n + 1 => BitVec.ofNat 8 v :: toBytes (v / 256) n

/-- The number that bytes spell. -/
def ofBytes : List Byte → Nat
  | [] => 0
  | b :: bs => b.toNat + 256 * ofBytes bs

/-- The number at byte `i` of a record, `n` bytes wide. -/
def getN (bs : List Byte) (i n : Nat) : Nat := ofBytes ((bs.drop i).take n)

/-- One CRC-32C step over a bit (R237: reflected polynomial 0x82F6_3B78). -/
def crcBit (c : Nat) : Nat := if c % 2 = 1 then (c / 2) ^^^ 0x82F63B78 else c / 2

/-- CRC-32C register after one byte. -/
def crcByte (c : Nat) (b : Byte) : Nat :=
  crcBit (crcBit (crcBit (crcBit (crcBit (crcBit (crcBit (crcBit (c ^^^ b.toNat))))))))

/-- CRC-32C of a byte string (initial value and final XOR 0xFFFF_FFFF). -/
def crc32c (bs : List Byte) : Nat := (bs.foldl crcByte 0xFFFFFFFF) ^^^ 0xFFFFFFFF

/-! ### Memory -/

/-- What an address that the list does not hold reads as (log 5). -/
def memDefault : Byte := 0

/-- One byte of memory. -/
def Memory.read : Memory → Nat → Byte
  | [], _ => memDefault
  | (a', b) :: m, a => if a = a' then b else Memory.read m a

/-- Memory with one byte written, in canonical form. -/
def Memory.write : Memory → Nat → Byte → Memory
  | [], a, b => if b = memDefault then [] else [(a, b)]
  | (a', b') :: m, a, b =>
    if a < a' then (if b = memDefault then (a', b') :: m else (a, b) :: (a', b') :: m)
    else if a = a' then (if b = memDefault then m else (a, b) :: m)
    else (a', b') :: Memory.write m a b

/-- The canonical form: addresses strictly rising, no entry at the default. -/
def Memory.wf : Memory → Bool
  | [] => true
  | [(_, b)] => decide (b ≠ memDefault)
  | (a, b) :: (a', b') :: m => decide (b ≠ memDefault) && decide (a < a') && Memory.wf ((a', b') :: m)

/-- `n` bytes from an address. -/
def Memory.readN (m : Memory) (a : Nat) : Nat → List Byte
  | 0 => []
  | n + 1 => m.read a :: Memory.readN m (a + 1) n

/-- Bytes written from an address. -/
def Memory.writeN (m : Memory) (a : Nat) : List Byte → Memory
  | [] => m
  | b :: bs => Memory.writeN (m.write a b) (a + 1) bs

/-- Memory with every byte of a range at the default (a scrub or a zeroing). -/
def Memory.zero (m : Memory) (a n : Nat) : Memory := m.filter fun c => c.1 < a || a + n ≤ c.1

/-- Bytes written into the module's memory. -/
def writeMem (a : Nat) (bs : List Byte) (s : State) : State := { s with mem := s.mem.writeN a bs }

/-- A number read from memory. -/
def readNum (s : State) (a n : Nat) : Nat := ofBytes (s.mem.readN a n)

/-! ### Where things lie (R147) -/

/-- Half, cluster and core of a global core number (R5). -/
def coreHalf (g : Nat) : Nat := g / 72
def coreClu (g : Nat) : Nat := g % 72 / 9
def coreK (g : Nat) : Nat := g % 9
/-- Cluster code 8 × half + cluster of a core. -/
def coreCode (g : Nat) : Nat := 8 * coreHalf g + coreClu g
/-- Global number of core `k` of a cluster code. -/
def codeCore (c k : Nat) : Nat := c / 8 * 72 + c % 8 * 9 + k

/-- Memory address of a byte of a core's SRAM, by physical core. -/
def sramKey (g off : Nat) : Nat :=
  2 * 0x1000000000000000 + coreHalf g * 0x800000000000000 + coreClu g * 0x100000000000000 + coreK g * 0x10000000000000 + off

/-- Memory address of a byte of a cistern. -/
def cisternKey (c off : Nat) : Nat := 0x1000000000000000 + c / 8 * 0x800000000000000 + c % 8 * 0x100000000000000 + off

/-- Memory address of a byte of host memory. -/
def hostKey (bus : Nat) : Nat := 0x10000000000000000 + bus

/-- The user limit U in bytes (R156). -/
def userLimit (s : State) : Nat := s.ddr.limit * 2097152

/-- DDR capacity C in bytes (R150). -/
def capacity (s : State) : Nat := s.ddr.capMb * 1000000

/-! ### Accessors -/

def core (s : State) (g : Nat) : CoreSt := Tbl.get {} s.cores g
def setCore (g : Nat) (c : CoreSt) (s : State) : State := { s with cores := Tbl.set s.cores g c }
def updCore (g : Nat) (f : CoreSt → CoreSt) (s : State) : State := setCore g (f (core s g)) s

def strm (s : State) (g st : Nat) : Stream := Tbl.get {} (core s g).streams st
def setStrm (g st : Nat) (r : Stream) (s : State) : State :=
  updCore g (fun c => { c with streams := Tbl.set c.streams st r }) s
def updStrm (g st : Nat) (f : Stream → Stream) (s : State) : State := setStrm g st (f (strm s g st)) s

def queue (s : State) (g q : Nat) : TokQueue := Tbl.get {} (core s g).queues q
def setQueue (g q : Nat) (k : TokQueue) (s : State) : State :=
  updCore g (fun c => { c with queues := Tbl.set c.queues q k }) s

def ote (s : State) (g e : Nat) : Ote := Tbl.get {} (core s g).engines e
def setOte (g e : Nat) (o : Ote) (s : State) : State :=
  updCore g (fun c => { c with engines := Tbl.set c.engines e o }) s
def updOte (g e : Nat) (f : Ote → Ote) (s : State) : State := setOte g e (f (ote s g e)) s

def clu (s : State) (c : Nat) : CluSt := Tbl.get {} s.clus c
def setClu (c : Nat) (k : CluSt) (s : State) : State := { s with clus := Tbl.set s.clus c k }
def updClu (c : Nat) (f : CluSt → CluSt) (s : State) : State := setClu c (f (clu s c)) s

def ctx (s : State) (c : Nat) : CtxSt := Tbl.get {} s.ctxs c
def setCtx (c : Nat) (x : CtxSt) (s : State) : State := { s with ctxs := Tbl.set s.ctxs c x }
def updCtx (c : Nat) (f : CtxSt → CtxSt) (s : State) : State := setCtx c (f (ctx s c)) s

def ring (s : State) (r : Nat) : RingSt := Tbl.get {} s.hst.rings r
def setRing (r : Nat) (k : RingSt) (s : State) : State :=
  { s with hst := { s.hst with rings := Tbl.set s.hst.rings r k } }
def updRing (r : Nat) (f : RingSt → RingSt) (s : State) : State := setRing r (f (ring s r)) s

def chan (s : State) (n : Nat) : DdrChan := Tbl.get {} s.ddr.chans n
def setChan (n : Nat) (k : DdrChan) (s : State) : State :=
  { s with ddr := { s.ddr with chans := Tbl.set s.ddr.chans n k } }
def updChan (n : Nat) (f : DdrChan → DdrChan) (s : State) : State := setChan n (f (chan s n)) s

/-- A scalar register (R110: s0 reads 0). -/
def sreg (t : Tbl DWord) (n : Nat) : DWord := if n = 0 then 0 else Tbl.get 0 t n

/-- A scalar register written (R110: writes to s0 are discarded). -/
def setSreg (n : Nat) (v : DWord) (r : Stream) : Stream :=
  if n = 0 then r else { r with sregs := Tbl.set r.sregs n v }

/-- A bit of a status field set. -/
def orBit {w : Nat} (v : BitVec w) (i : Nat) : BitVec w := v ||| BitVec.ofNat w (2 ^ i)

/-- A CORE_FAULT bit set. -/
def coreFault (g i : Nat) (s : State) : State := updCore g (fun c => { c with fault := orBit c.fault i }) s

/-- A CLU_FAULT bit set. -/
def cluFault (c i : Nat) (s : State) : State := updClu c (fun k => { k with fault := orBit k.fault i }) s

/-! ### Free values, messages out, pod time -/

/-- `n` bytes that the spec sizes and does not lay out, of one draw. -/
def openBytes (d n : Nat) : List Byte := (List.range n).map (Config.openByte d)

/-- The next free value of a kind: the value, and the state with the draw used up. -/
def drawFree (kind : Nat) (s : State) : Nat × State :=
  (Config.open_ kind s.freeCtr, { s with freeCtr := s.freeCtr + 1 })

/-- The state that a meaning leaves, where another's effect includes it. -/
def after (o : Out) (s : State) : State := match o with
  | .next t => t
  | _ => s

/-- Something sent outside the module. -/
def send (ch : Chan_) (kind : Nat) (args : List Nat) (s : State) : State :=
  { s with sent := ⟨ch, kind, args⟩ :: s.sent }

/-! ### Counters (R364 to R368): occurrence events -/

/-- `n` occurrences for one counter (R365). `ranged`: the event has a qualifier. -/
def countOne (ev qual n : Nat) (ranged : Bool) (c : Counter) : Counter :=
  let sel := fld c.cfg 0 8
  let q := fld c.cfg 16 5
  if sel = ev ∧ (ranged = false ∨ q = 31 ∨ q = qual) ∧ 0 < n then
    let v := c.live + (if bit c.cfg 8 then 1 else n)
    if v < 0x1000000000000 then { c with live := v } else { c with live := v % 0x1000000000000, ovf := true }
  else c

/-- `n` occurrences of an event at the block whose `k` counters start at BAR0 offset `base`. -/
def countAt (base k ev qual n : Nat) (ranged : Bool) (s : State) : State :=
  let f := fun (p : Nat × Counter) =>
    if base ≤ p.1 ∧ p.1 < base + 16 * k then (p.1, countOne ev qual n ranged p.2) else p
  { s with tally := { s.tally with counters := s.tally.counters.map f } }

/-- BAR0 offset of a cluster's region and of a core's (R42, R212). -/
def cluBase (c : Nat) : Nat := (if c / 8 = 0 then 0x800000 else 0xC00000) + c % 8 * 0x80000
def coreBase (g : Nat) : Nat := cluBase (coreCode g) + 0x8000 + 0x8000 * coreK g

/-- Whether a core event's qualifier has a range (R368); QUAL of the others is ignored. -/
def coreRanged (ev : Nat) : Bool := decide (2 ≤ ev ∧ ev ≤ 0x0D) || ev == 0x16 || ev == 0x18 || ev == 0x19

def countCore (g ev qual : Nat) (s : State) : State := countAt (coreBase g + 0x4000) 8 ev qual 1 (coreRanged ev) s
def countCoreN (g ev qual n : Nat) (s : State) : State := countAt (coreBase g + 0x4000) 8 ev qual n (coreRanged ev) s
def countClu (c ev qual : Nat) (s : State) : State := countAt (cluBase c + 0x4000) 8 ev qual 1 true s
def countFab (p ev qual : Nat) (s : State) : State := countAt (0x104000 + 0x10000 * p) 16 ev qual 1 true s
def countDdr (n ev : Nat) (s : State) : State := countAt (0x062000 + 0x100 * n) 8 ev 0 1 false s
def countHub (ev qual : Nat) (ranged : Bool) (s : State) : State := countAt 0x061000 32 ev qual 1 ranged s

/-! ### The logbook (R374 to R376) -/

/-- A record offered to the logbook's input queue; a full queue loses it (R376). -/
def logRec (code source p0 p1 p2 p3 : Nat) (s : State) : State :=
  let l := s.log
  if l.queue.length < 256 then
    { s with log := { l with queue := l.queue ++
      [⟨s.time.ns, BitVec.ofNat 16 code, BitVec.ofNat 16 source, BitVec.ofNat 32 p0, BitVec.ofNat 32 p1,
        BitVec.ofNat 32 p2, BitVec.ofNat 32 p3⟩] } }
  else countHub 0x0F 0 false { s with log := { l with lost := incSat l.lost 1, lostNow := l.lostNow + 1 } }

/-- Whether a rate limit of `period` ns lets a record with this key pass now. -/
def rateOk (s : State) (key period : Nat) : Bool :=
  let t := Tbl.get 0 s.log.last key
  t == 0 || decide (t - 1 + period ≤ s.now)

/-- The rate limit's clock started again. -/
def rateMark (key : Nat) (s : State) : State := { s with log := { s.log with last := Tbl.set s.log.last key (s.now + 1) } }

/-- A record written at most once per `period` ns for its key; the limit applies before the queue (R376). -/
def logRate (key period code source p0 p1 p2 p3 : Nat) (s : State) : State :=
  if rateOk s key period then logRec code source p0 p1 p2 p3 (rateMark key s) else s

/-- A code of the halves: high byte 0x80 or 0xC0 (R43). -/
def hcode (half low : Nat) : Nat := (if half = 0 then 0x8000 else 0xC000) + low

/-- Source of a cluster event (R43). -/
def cluSrc (c : Nat) : Nat := 0x100 + c

/-- A record of a core event, source its global number. -/
def logCore (g low p0 p1 p2 p3 : Nat) (s : State) : State := logRec (hcode (coreHalf g) low) g p0 p1 p2 p3 s

/-- A record of a cluster event. -/
def logClu (c low p0 p1 p2 p3 : Nat) (s : State) : State := logRec (hcode (c / 8) low) (cluSrc c) p0 p1 p2 p3 s

/-! ### Issue of an instruction (R111, R119, R370) -/

/-- PC layout (CORE_STR_PC): the PC plus `n` instructions, in its own space. -/
def pcAdd (pc : Word) (n : Int) : Word :=
  setFld pc 0 27 (((fld pc 0 27 : Int) + 16 * n) % 134217728).toNat

/-- The instruction the stream's fetch buffer holds at its PC. -/
def fetched (r : Stream) : Option IWord := (r.fbuf.find? fun p => p.1 = r.pc).map Prod.snd

/-- The fetch window slid to a new PC: at most 8 instructions are kept before it (R111). -/
def slide (pc : Word) (r : Stream) : Stream :=
  let base := max (fld r.wbase 0 27) (fld pc 0 27 - 128)
  { r with pc := pc, wbase := setFld pc 0 27 base, fbuf := r.fbuf.filter fun p => base ≤ fld p.1 0 27 }

/-- Whether sampling follows a stream of a core. -/
def sampled (s : State) (g st : Nat) : Bool :=
  s.tally.enabled && bit s.tally.sampCfg (20 + st) && bit (Tbl.get 0 s.tally.sampCores (g / 32)) (g % 32)

/-- An instruction as sampling records it at its issue. -/
def sampOf (s : State) (k : CoreSt) (st : Nat) (r : Stream) (w : IWord) : SampTag :=
  { stream := st, word := w, sregs := r.sregs, pc := r.pc, ctx := if k.state = .assigned then k.ctx.val else 0xFF, gen := k.gen, stall := r.stall0,
    issue := s.time.ns.toNat }

/-- Sampling's countdown: one issued instruction of an enabled stream; the one that takes it to 0 is to be tagged (R370). -/
def sampTick (g st : Nat) (r : Stream) (s : State) : State :=
  if sampled s g st then
    updCore g (fun k => { k with
      sampLeft := k.sampLeft - 1
      sampNext := if k.sampLeft = 1 then (fetched r).map (sampOf s k st r) else k.sampNext }) s
  else s

/-- An instruction issued: the PC moves on, the event is counted (R368 event 0x02). -/
def issued (g st : Nat) (s : State) : State :=
  sampTick g st (strm s g st) (countCore g 2 st (updStrm g st (fun r =>
    slide (pcAdd r.pc 1) { r with stall := 0, stallQ := 0, stall0 := 0 }) s))

/-! ### Blocks of BAR0 (R212) -/

/-- The high byte of a block's logbook codes (R212). -/
def blockHigh (off : Nat) : Nat :=
  if 0xC00000 ≤ off then 0xC0 else if 0x800000 ≤ off then 0x80
  else if 0x400000 ≤ off then 0x40 else if 0x300000 ≤ off then 0x30 else if 0x200000 ≤ off then 0x20
  else off / 0x10000

/-- The source of a record of the ID block about a register: the block's high byte shifted left by 8, plus n for FAB n (R213). -/
def blockSrc (off : Nat) : Nat :=
  blockHigh off * 256 + (if 0x100000 ≤ off ∧ off < 0x200000 then off / 0x10000 - 0x10 else 0)

/-- A pending enable discarded at the end of a drain: the offset of the enable register, the bit and the end state (R211, R213). -/
def enableLost (off at_ state : Nat) (s : State) : State := logRec 0x0105 (blockSrc off) off at_ state 0 s

end Sys2Proof.Machine
end

