-- ==== Sys2Proof/Machine/Wire.lean ====
section
/-! DEFINITION. What a fabric lane carries: the bytes of flits (R237 to R243, R249 to R251) and of training frames (R235), and how they become
symbols (R232, R233). -/

namespace Sys2Proof.Machine

/-! ### Flits (R237, R238) -/

/-- Bytes 0 to 11 of a flit. -/
def flitHead (type tc seq ack : Nat) (nak : Bool) (cr : Nat × Nat × Nat) (tag index : Nat) (last : Bool) : List Byte :=
  toBytes (type % 16 + 16 * (tc % 4)) 1 ++ toBytes (seq % 4096) 2 ++ toBytes (ack % 4096 + 4096 * b2n nak) 2
    ++ toBytes cr.1 1 ++ toBytes cr.2.1 1 ++ toBytes cr.2.2 1 ++ [0] ++ toBytes (tag % 4096 + 4096 * (index % 256) + 0x100000 * b2n last) 3

/-- Bytes 0 to 251: the payload's unused bytes are 0. -/
def flitImage (head payload : List Byte) : List Byte := head ++ payload.take 240 ++ List.replicate (240 - payload.length) 0

/-- A flit's 256 bytes. -/
def flitBytes (head payload : List Byte) : List Byte :=
  let b := flitImage head payload
  b ++ toBytes (crc32c b) 4

/-- Bytes 0 to 15 of a segment descriptor or read request (R241, R242). -/
def descBytes (kind : Nat) (d : SegDesc) : List Byte :=
  toBytes kind 1 ++ toBytes (b2n d.token + 2 * b2n d.poison) 1 ++ [d.sgen, d.dgen] ++ toBytes (d.sctx.val + 4 * d.dctx.val) 1
    ++ toBytes d.smod.val 1 ++ toBytes d.edition.toNat 2 ++ toBytes d.length 4 ++ toBytes d.tag.toNat 2 ++ toBytes d.poff 2

/-- The payload of a SEG flit. -/
def segPayload (kind : Nat) (d : SegDesc) : List Byte :=
  descBytes kind d ++ toBytes d.daddr.toNat 8 ++ toBytes d.tvcore 1 ++ toBytes d.tq.val 1 ++ [0, 0] ++ toBytes d.tpayload.toNat 4

/-- The payload of an RDREQ. -/
def rdreqPayload (d : SegDesc) : List Byte := descBytes 3 d ++ toBytes d.daddr.toNat 8

/-- A notice entry (R243). -/
def noticePayload (e : NoticeEntry) : List Byte :=
  toBytes e.kind 1 ++ [e.cause, e.sgen] ++ toBytes e.sctx.val 1 ++ toBytes e.tag.toNat 2 ++ [0, 0] ++ toBytes e.bytes 4 ++ [0, 0, 0, 0]

/-- A control message fragment (R249). -/
def ctrlPayload (kind msgid frag : Nat) (last : Bool) (bs : List Byte) : List Byte :=
  toBytes kind 2 ++ toBytes msgid 2 ++ toBytes frag 1 ++ toBytes (b2n last) 1 ++ toBytes bs.length 2 ++ bs

/-- A lane report (R250). -/
def lanePayload (r : LaneReport) : List Byte :=
  toBytes r.fromEd.toNat 2 ++ toBytes r.edition.toNat 2 ++ toBytes r.ber10s.toNat 4 ++ toBytes r.ber1ms.toNat 4
    ++ toBytes (b2n r.held + 2 * b2n r.retrain) 1

/-- A pod time of 64 bits of ns and a 32-bit fraction. -/
def podBytes (t : Nat) : List Byte := toBytes (t / 0x100000000) 8 ++ toBytes (t % 0x100000000) 4

/-- A beacon (R251): its send time, the arrival of the last one received and that one's send time, the time quality, the lane's code. -/
def beaconPayload (sendT echoArr echoSend quality code : Nat) : List Byte :=
  podBytes sendT ++ podBytes echoArr ++ podBytes echoSend ++ toBytes quality 1 ++ toBytes code 1

/-- TYPE of a sequenced flit. -/
def bodyType : FlitBody → Nat
  | .seg _ _ => 1 | .data _ _ _ _ => 2 | .rdreq _ => 3 | .notice _ => 4 | .ctrl _ _ _ _ _ => 5

/-- TAG, INDEX and LAST of a sequenced flit. -/
def bodyTag : FlitBody → Nat × Nat × Bool
  | .data tag i last _ => (tag, i, last)
  | _ => (0, 0, false)

/-- The payload of a sequenced flit. -/
def bodyPayload : FlitBody → List Byte
  | .seg k d => segPayload k d
  | .rdreq d => rdreqPayload d
  | .data _ _ _ bs => bs
  | .notice es => es.flatMap noticePayload
  | .ctrl k id fr last bs => ctrlPayload k id fr last bs

/-! ### Symbols (R232, R233) -/

/-- Flits of a superframe. -/
def superFlits : Nat := 1285

/-- The PAM4 level of a pair of bits, the first the less significant. -/
def grayLevel (first second : Bool) : Nat :=
  match second, first with
  | false, false => 0
  | false, true => 1
  | true, true => 2
  | true, false => 3

/-- Multiplication by x in GF(2¹⁰), modulo x¹⁰ + x³ + 1. -/
def gfX (a : Nat) : Nat := if a < 512 then 2 * a else (2 * a) ^^^ 0x409

/-- The product in GF(2¹⁰), by the bits of `b` from the highest. -/
def gfMul (a b : Nat) : Nat := (List.range 10).foldl (fun r i => gfX r ^^^ (if b.testBit (9 - i) then a else 0)) 0

/-- αⁱ, with α = x. -/
def gfPow : Nat → Nat
  | 0 => 1
  | i + 1 => gfX (gfPow i)

/-- The generator polynomial of a code: the product of (x − αⁱ) for i = 0 to 2t − 1, coefficients from the highest. -/
def rsGen (t : Nat) : List Nat :=
  (List.range (2 * t)).foldl (fun g i => List.zipWith (· ^^^ ·) (g ++ [0]) (0 :: g.map (gfMul (gfPow i)))) [1]

/-- The parity symbols of a message: its remainder by the generator polynomial. -/
def rsParity (t : Nat) (msg : List Nat) : List Nat :=
  let g := (rsGen t).drop 1
  msg.foldl (fun r m =>
    let f := r.headD 0 ^^^ m
    List.zipWith (· ^^^ ·) (r.drop 1 ++ [0]) (g.map (gfMul f))) (List.replicate (2 * t) 0)

/-- t of a code: RS(544,514), or RS(272,257). -/
def rsT (short : Bool) : Nat := if short then 7 else 15
/-- Message symbols of a codeword. -/
def rsK (short : Bool) : Nat := if short then 257 else 514

/-- The first `n` bits of the scrambling sequence x³¹ + x²⁸ + 1, its register all ones at the start. -/
def prbs31 (n : Nat) : List Bool :=
  ((List.range n).foldl (fun (x : Nat × List Bool) _ =>
    let b := x.1.testBit 30 ^^ x.1.testBit 27
    ((2 * x.1 + b2n b) % 0x80000000, b :: x.2)) (0x7FFFFFFF, [])).2.reverse

/-- The bits of bytes, bit 0 first. -/
def byteBits (bs : List Byte) : List Bool := bs.flatMap fun b => (List.range 8).map fun i => b.getLsbD i

/-- A number from its bits, the first least significant. -/
def ofBits (bs : List Bool) : Nat := bs.foldr (fun b n => b2n b + 2 * n) 0

/-- A list cut into `n` runs of `k`. -/
def runsOf {α : Type} (k n : Nat) (xs : List α) : List (List α) := (List.range n).map fun i => (xs.drop (k * i)).take k

/-- The codewords of a superframe, of 10-bit symbols: its flits' bits, scrambled, each message followed by its parity. -/
def superframe (short : Bool) (flits : List (List Byte)) : List (List Nat) :=
  let bits := byteBits (flits.take superFlits).flatten
  let bits := List.zipWith (· ^^ ·) bits (prbs31 bits.length)
  let n := if short then 1024 else 512
  (runsOf (rsK short) n ((runsOf 10 (rsK short * n) bits).map ofBits)).map fun m => m ++ rsParity (rsT short) m

/-- The levels of a codeword on the lane. -/
def wireLevels (cw : List Nat) : List Nat :=
  let bits := cw.flatMap fun s => (List.range 10).map s.testBit
  (List.range (bits.length / 2)).map fun i => grayLevel (bits.getD (2 * i) false) (bits.getD (2 * i + 1) false)

/-- The codewords that flit `f` of a superframe has a bit in. -/
def flitWords (short : Bool) (f : Nat) : List Nat :=
  let n := 10 * rsK short
  [2048 * f / n, (2048 * f + 2047) / n].dedup

/-- Whether a flit has a bit in an uncorrectable codeword. -/
def flitLost (short : Bool) (h : FlitHdr) : Bool := (flitWords short h.slot.val).any fun w => h.lost.any fun x => x.val == w

/-- Whether the received CRC is that of the flit's bytes. -/
def crcGood (h : FlitHdr) (type tag index : Nat) (last : Bool) (payload : List Byte) : Bool :=
  h.crc.toNat == crc32c (flitImage (flitHead type h.tc.val h.seq.toNat h.ack.toNat h.nak (h.cr0.toNat, h.cr1.toNat, h.cr2.toNat) tag index last) payload)

/-! ### Training frames (R235) -/

/-- Bytes 0 to 59 of a training frame. -/
def trainImage (f : TrainFrame) : List Byte :=
  toBytes f.mark.toNat 4 ++ toBytes f.phase 1 ++ toBytes f.modu.val 1 ++ toBytes f.plane.val 1 ++ toBytes f.chan.val 1 ++ toBytes f.txLane.val 1
    ++ toBytes f.code.val 1 ++ toBytes f.from_.toNat 2 ++ toBytes f.ber.toNat 4 ++ toBytes f.cwidx.val 2 ++ List.replicate 42 0

/-! ### Ethernet frames (R434) -/

/-- One bit step of the reflected CRC-32 of IEEE 802.3, and a byte. -/
def fcsBit (c : Nat) : Nat := if c % 2 = 1 then (c / 2) ^^^ 0xEDB88320 else c / 2
def fcsByte (c : Nat) (b : Byte) : Nat := (List.range 8).foldl (fun c _ => fcsBit c) (c ^^^ b.toNat)

/-- The FCS of a frame's bytes before it. -/
def fcs32 (bs : List Byte) : Nat := (bs.foldl fcsByte 0xFFFFFFFF) ^^^ 0xFFFFFFFF

/-- Whether a frame's last four bytes are its FCS. -/
def fcsGood (fr : List Byte) : Bool := ofBytes (fr.drop (fr.length - 4)) == fcs32 (fr.take (fr.length - 4))

/-- Two bytes of a frame in network order. -/
def frame16 (fr : List Byte) (at_ : Nat) : Nat := (fr.getD at_ 0).toNat * 256 + (fr.getD (at_ + 1) 0).toNat

/-- Whether a frame carries an IEEE 802.1Q tag, and its priority. -/
def tagged (fr : List Byte) : Bool := frame16 fr 12 == 0x8100
def framePrio (fr : List Byte) : Nat := if tagged fr then (fr.getD 14 0).toNat / 32 else 0

/-- The opcode of a MAC control frame: 0x0001 PAUSE, 0x0101 PFC. -/
def macControl (fr : List Byte) : Option Nat := if frame16 fr 12 = 0x8808 then some (frame16 fr 14) else none

/-- The priorities held back after a PFC frame: those it names whose time is not 0, of the ones honoured. -/
def pfcAfter (honour was : Byte) (fr : List Byte) : Byte :=
  (List.range 8).foldl (fun h q =>
    if (fr.getD 17 0).getLsbD q && honour.getLsbD q then
      if frame16 fr (18 + 2 * q) = 0 then h &&& ~~~(BitVec.ofNat 8 (2 ^ q)) else h ||| BitVec.ofNat 8 (2 ^ q)
    else h) was

/-- Whether a training frame arrived whole. -/
def trainGood (f : TrainFrame) : Bool := f.mark == 0x554C4C4F && f.crc.toNat == crc32c (trainImage f)

/-- Whether a frame passes the identity check at module `d`, on the plane and channel of its receive lane, with the gazetteer's offset. -/
def trainIdOk (f : TrainFrame) (d p k o : Nat) : Bool := f.plane.val == p && f.modu.val == (d + 64 - k % 32 - o % 32) % 32

end Sys2Proof.Machine
end

