-- ==== Sys2Proof/Machine/Link0.lean ====
section
/-! DEFINITION. Accessors of the fabric chiplets, pairs and bonds, and what is put on a pair's transmit queue (R231, R240,
R249). -/

namespace Sys2Proof.Machine

/-! ### Accessors -/

def fab (s : State) (p : Nat) : FabSt := Tbl.get {} s.fab p
def setFab (p : Nat) (f : FabSt) (s : State) : State := { s with fab := Tbl.set s.fab p f }
def updFab (p : Nat) (f : FabSt → FabSt) (s : State) : State := setFab p (f (fab s p)) s

def pair (s : State) (p l : Nat) : Pair := Tbl.get {} (fab s p).pairs l
def setPair (p l : Nat) (k : Pair) (s : State) : State := updFab p (fun f => { f with pairs := Tbl.set f.pairs l k }) s
def updPair (p l : Nat) (f : Pair → Pair) (s : State) : State := setPair p l (f (pair s p l)) s

def txLane (s : State) (p l : Nat) : LaneSt := Tbl.get {} (fab s p).tx l
def rxLane (s : State) (p l : Nat) : LaneSt := Tbl.get {} (fab s p).rx l
def setTx (p l : Nat) (k : LaneSt) (s : State) : State := updFab p (fun f => { f with tx := Tbl.set f.tx l k }) s
def setRx (p l : Nat) (k : LaneSt) (s : State) : State := updFab p (fun f => { f with rx := Tbl.set f.rx l k }) s

/-- The planes this module has (R10). -/
def planeCount (s : State) : Nat := if s.idb.deviceL then 16 else 8

/-- The source code of a chiplet's records (R229, R255): element `l` of FAB n. -/
def fabSrc (p l : Nat) : Nat := (0x10 + p) * 256 + l
/-- A record of a FAB block: its code's high byte is 0x10 + n. -/
def logFab (p low l p0 p1 p2 p3 : Nat) (s : State) : State := logRec (fabSrc p low) (fabSrc p l) p0 p1 p2 p3 s
/-- The same, at most once per `period` ns for its element. -/
def logFabRate (period p low l p0 p1 p2 p3 : Nat) (s : State) : State :=
  logRate (fabSrc p low * 4096 + l) period (fabSrc p low) (fabSrc p l) p0 p1 p2 p3 s

/-! ### Bonds (R231) -/

/-- Every pair that is not OFF, as (plane, transmit lane). -/
def allPairs (s : State) : List (Nat × Nat) :=
  (List.range 16).flatMap fun p => ((fab s p).pairs.filter fun q => q.2.state ≠ .off).map fun q => (p, q.1)

/-- The ACTIVE pairs to a module whose transmit lane is not HELD, lowest plane first. -/
def bond (s : State) (m : Nat) : List (Nat × Nat) :=
  (allPairs s).filter fun x =>
    let k := pair s x.1 x.2
    k.state = .active && !k.held && !k.loop && k.peer == m

/-- Flits queued on a pair's transmit lane. -/
def queued (k : Pair) : Nat := k.queue.length + k.replay.length

/-- The pair of a bond with the fewest flits queued, ties to the lowest plane. -/
def pickPair (s : State) (m : Nat) : Option (Nat × Nat) :=
  match bond s m with
  | [] => none
  | x :: xs => some (xs.foldl (fun b y =>
      if queued (pair s y.1 y.2) < queued (pair s b.1 b.2) then y else b) x)

/-- Flits put on a pair's transmit queue. -/
def enqueue (p l : Nat) (fs : List Flit) (s : State) : State := updPair p l (fun k => { k with queue := k.queue ++ fs }) s

/-! ### Control messages (R249) -/

/-- The fragments of a control message, 232 bytes each. -/
def fragments (kind msgid : Nat) (bs : List Byte) : List Flit :=
  let n := max 1 ((bs.length + 231) / 232)
  (List.range n).map fun i =>
    { tc := 2, body := .ctrl kind msgid i (i + 1 == n) ((bs.drop (232 * i)).take 232) }

/-- A control message queued on a pair of the bond to a module; without an ACTIVE pair it is not sent. -/
def sendCtrl (m kind : Nat) (bs : List Byte) (s : State) : State :=
  match pickPair s m with
  | some (p, l) =>
    let id := s.link.msgid
    enqueue p l (fragments kind id bs) { s with link := { s.link with msgid := (id + 1) % 65536 } }
  | none => s

/-! ### What a pair's transmit lane sends (R235, R237, R250) -/

/-- A flit sent, with the link fields of its pair: the last SEQ accepted, the request for a replay, the flits freed. -/
def sendFlit (p l type tc seq : Nat) (tag : Nat × Nat × Bool) (payload : List Byte) (s : State) : State :=
  let k := pair s p l
  let head := flitHead type tc seq (k.expect + 4095) k.nak k.freed tag.1 tag.2.1 tag.2.2
  countFab p 2 l (send .flit type ([p, l] ++ (flitBytes head payload).map BitVec.toNat) s)

/-- A LANE flit, with or without a request to retrain. -/
def issueLane (p l : Nat) (retrain : Bool) (s : State) : State :=
  let k := pair s p l
  let r : LaneReport := ⟨k.from_, s.steer.edition, k.berRx, k.berMs, k.held, retrain⟩
  sendFlit p l 6 2 k.next (0, 0, false) (lanePayload r) (setPair p l { k with laneDue := false } s)

/-- A training frame as it leaves: the first of its superframe, its CRC set. -/
def trainFrame (s : State) (p l phase : Nat) : TrainFrame :=
  let k := pair s p l
  let f : TrainFrame :=
    { mark := 0x554C4C4F, phase := phase, modu := Fin.ofNat 32 s.steer.slot, plane := Fin.ofNat 16 p, chan := Fin.ofNat 32 (txLane s p l).chan,
      txLane := Fin.ofNat 16 l, code := Fin.ofNat 4 k.rxcode, from_ := k.from_, ber := if phase < 4 then 0xFFFFFFFF else k.berRx,
      cwidx := 0, crc := 0 }
  { f with crc := BitVec.ofNat 32 (crc32c (trainImage f)) }

/-- What a lane sends in a phase (R234): the PRBS31Q pattern, or training frames. -/
def sendPhase (p l phase : Nat) (s : State) : State :=
  if phase = 0 then s
  else
    let f := trainFrame s p l phase
    send .train phase ([p, l] ++ (if phase = 1 then [] else (trainImage f ++ toBytes f.crc.toNat 4).map BitVec.toNat)) s

/-- A pair's training phase entered: its time, and what its lane sends. -/
def sendTrain (p l : Nat) (s : State) : State := sendPhase p l (pair s p l).phase (updPair p l (fun k => { k with phaseAt := s.now }) s)

end Sys2Proof.Machine
end

