-- ==== Sys2Proof/Machine/Chart.lean ====
section
/-! DEFINITION. Charts as bytes: the header and the pair entries (R260, R261), and the checks of R262 that need no state. -/

namespace Sys2Proof.Machine

/-- A pair entry. -/
structure ChEnt where
  plane : Nat
  loop : Bool
  a : Nat
  b : Nat
  from_ : Half16
  deriving DecidableEq, Repr

/-! ### Fields (R260) -/

def chEdition (c : List Byte) : Half16 := BitVec.ofNat 16 (getN c 4 2)
def chFlags (c : List Byte) : Nat := getN c 6 2
def chRemoveOnly (c : List Byte) : Bool := bits (chFlags c) 0 1 == 1
def chTest (c : List Byte) : Bool := bits (chFlags c) 2 1 == 1
def chCommit (c : List Byte) : Nat := getN c 8 8
def chEpoch (c : List Byte) : Nat := getN c 16 4
def chMembers (c : List Byte) : Nat := getN c 20 4
def chWide (c : List Byte) : Nat := getN c 24 4
def chPairs (c : List Byte) : Nat := getN c 28 2
def chSteward (c : List Byte) : Nat := getN c 30 1
def chOffset (c : List Byte) (p : Nat) : Nat := getN c (32 + p) 1
def chCrc (c : List Byte) : Nat := getN c 60 4

/-- Whether a module is charted. -/
def chMember (c : List Byte) (m : Nat) : Bool := bits (chMembers c) m 1 == 1

/-- The entry at index `i`. -/
def chEnt (c : List Byte) (i : Nat) : ChEnt :=
  let o := 64 + 8 * i
  let b := getN c o 1
  ⟨bits b 0 4, bits b 7 1 == 1, bits (getN c (o + 1) 1) 0 5, bits (getN c (o + 2) 1) 0 5, BitVec.ofNat 16 (getN c (o + 4) 2)⟩

/-- Every entry. -/
def chEnts (c : List Byte) : List ChEnt := (List.range (chPairs c)).map (chEnt c)

/-! ### Writing a chart -/

/-- The 8 bytes of an entry. -/
def entBytes (e : ChEnt) : List Byte :=
  [BitVec.ofNat 8 (e.plane + 128 * b2n e.loop), BitVec.ofNat 8 e.a, BitVec.ofNat 8 e.b, 0] ++ toBytes e.from_.toNat 2 ++ [0, 0]

/-- A chart from its fields, CRC included. -/
def mkChart (edition : Half16) (flags commit epoch members wide steward : Nat) (offs : List Nat) (es : List ChEnt) :
    List Byte :=
  let head := toBytes 0x54524843 4 ++ toBytes edition.toNat 2 ++ toBytes flags 2 ++ toBytes commit 8 ++ toBytes epoch 4
    ++ toBytes members 4 ++ toBytes wide 4 ++ toBytes es.length 2 ++ toBytes steward 1 ++ [0]
    ++ ((List.range 16).map fun p => BitVec.ofNat 8 (offs.getD p 0xFF)) ++ List.replicate 12 0
  let body := es.flatMap entBytes
  head ++ toBytes (crc32c (head ++ body)) 4 ++ body

/-! ### Channels (R14, R261) -/

/-- The channel that module `a` lights towards `b` on a plane of offset `o`. -/
def chanTo (a b o : Nat) : Nat := (b + 64 - a % 32 - o % 32) % 32

/-- An entry's channels at module `m`: the one it lights and the one it selects. -/
def entChans (e : ChEnt) (m o : Nat) : Nat × Nat :=
  if e.loop then ((32 - o % 32) % 32, (32 - o % 32) % 32)
  else
    let other := if e.a = m then e.b else e.a
    (chanTo m other o, chanTo other m o)

/-- The other module of an entry. -/
def entPeer (e : ChEnt) (m : Nat) : Nat := if e.a = m then e.b else e.a

/-- The entries that name a module. -/
def entsOf (c : List Byte) (m : Nat) : List ChEnt := (chEnts c).filter fun e => e.a == m || e.b == m

/-! ### Checks (R262) -/

/-- Whether the reserved bits of a chart are 0. -/
def chReserved (c : List Byte) : Bool :=
  decide (chFlags c < 8) && decide (bits (getN c 28 2) 13 3 = 0) && decide (getN c 30 1 < 32) && decide (getN c 31 1 = 0)
    && decide (getN c 48 12 = 0)
    && (List.range (chPairs c)).all fun i =>
      let o := 64 + 8 * i
      decide (bits (getN c o 1) 4 3 = 0) && decide (getN c (o + 1) 1 < 32) && decide (getN c (o + 2) 1 < 32)
        && decide (getN c (o + 3) 1 = 0) && decide (getN c (o + 6) 2 = 0)

/-- FORMAT: magic, length, CRC and reserved fields. -/
def chFormat (c : List Byte) : Bool :=
  decide (64 ≤ c.length) && decide (getN c 0 4 = 0x54524843) && decide (chPairs c ≤ 4096)
    && decide (c.length = 64 + 8 * chPairs c) && chReserved c
    && decide (chCrc c = crc32c (c.take 60 ++ c.drop 64))

/-- The key that orders entries. -/
def entKey (e : ChEnt) : Nat := e.plane * 1024 + e.a * 32 + e.b

/-- Strictly ascending keys. -/
def ascending : List Nat → Bool
  | [] => true
  | [_] => true
  | x :: y :: t => decide (x < y) && ascending (y :: t)

/-- ORDER: entries ascending, each pair's modules in order, loops only in a test chart. -/
def chOrder (c : List Byte) : Bool :=
  let es := chEnts c
  ascending (es.map entKey) && es.all fun e => if e.loop then e.a == e.b && chTest c else decide (e.a < e.b)

/-- LIMIT: at most 16 pairs of a module on a plane, members only, and planes that both ends have. -/
def chLimit (c : List Byte) : Bool :=
  let es := chEnts c
  let wide := fun m => bits (chWide c) m 1 == 1
  (es.all fun e => chMember c e.a && chMember c e.b && (decide (e.plane < 8) || (wide e.a && wide e.b)))
    && (List.range 32).all fun m => (List.range 16).all fun p =>
      decide (((es.filter fun e => e.plane == p && (e.a == m || e.b == m)).length) ≤ 16)

/-- Signed 16-bit difference of editions. -/
def edDiff (a b : Half16) : Int := (a - b).toInt

/-- FROM: none newer than the edition. -/
def chFrom (c : List Byte) : Bool := (chEnts c).all fun e => decide (edDiff e.from_ (chEdition c) ≤ 0)

/-- A chart without its RETRY bit and its CRC. -/
def chCore (c : List Byte) : List Byte :=
  (c.take 6) ++ [BitVec.ofNat 8 (getN c 6 1 - bits (getN c 6 1) 1 1 * 2)] ++ (c.drop 7).take 53 ++ c.drop 64

end Sys2Proof.Machine
end

