-- ==== Sys2Proof/Machine/Ctl.lean ====
section
/-! DEFINITION. What the module sends on the pod control network and the twin port (R279 to R281, R290, R292), the bytes of its messages, and its
fault reports to the steward. -/

namespace Sys2Proof.Machine

/-- The module's own number, SLOT_ID[4:0] (R13). -/
def me (s : State) : Nat := s.steer.slot

/-- CONFIG_EPOCH of the configuration held. -/
def cfgEpoch (s : State) : Nat := match s.stew.cfg with
  | some c => c.epoch.toNat
  | none => 0

/-- Whether a half controller holds the authority token: what the holder's firmware does runs only then (R9, R292). -/
def hasAuthority (s : State) : Bool := s.stew.authHolder.isSome

/-- Kinds sent with ACK requested: those whose loss nothing else repairs (log 30). -/
def wantsAck (kind : Nat) : Bool :=
  kind == 0x101 || kind == 0x104 || kind == 0x105 || kind == 0x206 || kind == 0x20C || kind == 0x20D || kind == 0x20E || kind == 0x20F
    || kind == 0x210 || kind == 0x213 || kind == 0x214

/-! ### Bodies (R265, R277, R281, R293) -/

/-- The widths in bytes of a body's leading numbers, and of those that repeat after them; reserved bytes are numbers of value 0. -/
def bodyLayout (kind : Nat) : List Nat × List Nat :=
  match kind with
  | 0x101 => ([2, 1, 1, 4], [1])
  | 0x102 => ([2, 1, 1], [1])
  | 0x103 => ([2, 1, 1, 4], [1])
  | 0x104 => ([1, 1], [1, 1, 1, 1, 4, 1, 1, 2])
  | 0x105 => ([2], [1])
  | 0x200 => ([2], [1])
  | 0x201 => ([1, 1, 1, 1, 8], [1])
  | 0x202 => ([4, 1, 1, 2], [1])
  | 0x203 => ([1, 1, 2, 4], [1])
  | 0x204 => ([4, 1], [1])
  | 0x205 => ([4, 8], [1])
  | 0x206 => ([4, 1, 1, 1], [1])
  | 0x207 => ([1, 1, 2, 2, 1, 1, 1, 1, 1], [1])
  | 0x208 => ([2, 1], [1])
  | 0x20C => ([4, 8, 2, 2, 4, 4, 4, 4], [1])
  | 0x20E => ([1], [2])
  | 0x20F => ([4, 1, 1, 2, 4, 4], [1])
  | 0x210 => ([4, 1], [4, 4, 8, 8, 8])
  | 0x212 => ([], [4])
  | 0x213 => ([4, 1, 1, 1, 1, 4, 4, 16], [16])
  | _ => ([], [1])

/-- The numbers of a body by their widths. -/
def layOut : List Nat → List Nat → List Nat → List Byte
  | w :: ws, rep, x :: xs => toBytes x w ++ layOut ws rep xs
  | [], rep, xs => xs.zipIdx.flatMap fun x => toBytes x.1 (rep.getD (x.2 % rep.length) 1)
  | _, _, [] => []

/-- A body's bytes. -/
def bodyBytes (kind : Nat) (b : List Nat) : List Byte := layOut (bodyLayout kind).1 (bodyLayout kind).2 b

/-- A message: the 32-byte header and the body (R279). -/
def ctlBytes (s : State) (dst kind id flags : Nat) (body : List Byte) : List Byte :=
  let h := toBytes 0x4B47 2 ++ [1, BitVec.ofNat 8 flags] ++ toBytes kind 2 ++ toBytes id 2 ++ toBytes (me s) 1 ++ toBytes dst 1 ++ toBytes body.length 2
    ++ toBytes s.steer.epoch.toNat 4 ++ toBytes (cfgEpoch s) 4 ++ toBytes s.time.ns.toNat 8
  h ++ toBytes (crc32c (h ++ body)) 4 ++ body

/-- A datagram that leaves through the control port, by the half that holds the authority. -/
def ctlOut (dst kind id flags : Nat) (body : List Nat) (s : State) : State :=
  if hasAuthority s then send .ctl kind (dst :: (ctlBytes s dst kind id flags (bodyBytes kind body)).map BitVec.toNat) s else s

/-- A message sent on the control network. -/
def ctlSend (dst kind : Nat) (body : List Nat) (s : State) : State :=
  let w := s.stew
  let id := w.msgid
  let ack := wantsAck kind
  ctlOut dst kind id (b2n ack) body
    { s with stew := { w with msgid := (id + 1) % 65536,
                              unacked := if ack then w.unacked ++ [{ dst := dst, kind := kind, msgid := id, body := body, at_ := s.now }] else w.unacked } }

/-- A message sent over the twin port, while its lanes are powered and its bond is up (R285, R431). -/
def twinSend (kind : Nat) (body : List Nat) (s : State) : State :=
  if s.stew.twinPower ∧ s.stew.twinUp ∧ hasAuthority s then send .twin kind body s else s

/-! ### Reports (R281, R290) -/

/-- The words of a logbook record as a report carries them. -/
def recWords (code source p0 p1 p2 p3 : Nat) : List Nat := [code, source, p0, p1, p2, p3]

/-- The record just written, as EVENT_REPORT carries it (R374): SEQ, TIME, code, source, parameters. -/
def recordBody (s : State) (body : List Nat) : List Nat :=
  [(s.log.head.toNat + s.log.queue.length + 0xFFFFFFFF) % 0x100000000, s.time.ns.toNat] ++ body

/-- A fault reported to the active steward; in HOLD it is queued, up to 256 (R290). -/
def report (body : List Nat) (s : State) : State :=
  let w := s.stew
  if w.hold then
    if w.reports.length < 256 then { s with stew := { w with reports := w.reports ++ [recordBody s body] } }
    else { s with stew := { w with dropped := w.dropped + 1 } }
  else match w.active with
    | some m => ctlSend m 0x20C (recordBody s body) s
    | none => s

end Sys2Proof.Machine
end

