-- ==== Sys2Proof/Machine/Stripe.lean ====
section
/-! DEFINITION. The layout of DDR over its devices, unit and stripe writes and the gather buffer (R150 to R152, R158). -/

namespace Sys2Proof.Machine

/-! ### Layout (R151, R158) -/

/-- The channels in service, in rising order. -/
def inServ (s : State) : List Nat := (List.range 12).filter fun n => bit s.ddr.inService n

/-- The devices over which an offset is striped: at or above the watermark of a migration, those that remain. -/
def devices (s : State) (off : Nat) : List Nat :=
  match s.ddr.migrating, s.ddr.migChan with
  | true, m :: _ => if s.ddr.watermark ≤ off then (inServ s).filter fun n => n ≠ m else inServ s
  | _, _ => inServ s

/-- The stripe of a unit. -/
def stripeOf (ds : List Nat) (u : Nat) : Nat := u / (ds.length - 1)
/-- The device that holds a unit's data. -/
def unitDev (ds : List Nat) (u : Nat) : Nat :=
  let n := ds.length
  ds.getD ((stripeOf ds u % n + 1 + u % (n - 1)) % n) 0
/-- The device that holds a stripe's parity. -/
def parityDev (ds : List Nat) (st : Nat) : Nat := ds.getD (st % ds.length) 0
/-- The units of a stripe. -/
def stripeUnits (ds : List Nat) (st : Nat) : List Nat := (List.range (ds.length - 1)).map fun p => st * (ds.length - 1) + p

/-- The channel of a unit. -/
def chanOf (s : State) (u : Nat) : Nat := unitDev (devices s (256 * u)) u

/-! ### Stripe writes (R152) -/

/-- Unit writes and reads counted, one per device. -/
def countWrites (ds : List Nat) (s : State) : State := ds.foldl (fun s d => countDdr d 3 s) s
def countReads (ds : List Nat) (s : State) : State := ds.foldl (fun s d => countDdr d 2 s) s

/-- A stripe's parity written anew: it is good again (R154). -/
def parityGood (st : Nat) (ds : List Nat) (s : State) : State :=
  { s with ddr := { s.ddr with badParity := s.ddr.badParity.filter fun x => x ≠ st * (ds.length - 1) } }

/-- A stripe written full: every unit and its parity, with no reads. -/
def fullStripe (st : Nat) (ds : List Nat) (s : State) : State :=
  parityGood st ds (countDdr (parityDev ds st) 4 (countWrites ds s))

/-- A stripe written in part: min(W − k, k + 1) reads, then k + 1 writes. Which reads are made when both counts are equal is a
free value. -/
def partialStripe (st : Nat) (ds : List Nat) (us : List Nat) (s : State) : State :=
  let w := ds.length - 1
  let k := us.length
  let rest := (stripeUnits ds st).filter fun v => !us.contains v
  let old := us.map (unitDev ds) ++ [parityDev ds st]
  let x := drawFree 4 s
  let unchanged := decide (w - k < k + 1) || (decide (w - k = k + 1) && x.1 % 2 == 0)
  parityGood st ds (countDdr (parityDev ds st) 5 (countWrites old (countReads (if unchanged then rest.map (unitDev ds) else old) x.2)))

/-- A byte mask of a unit: `n` bytes from `o`. -/
def unitMask (o n : Nat) : Nat := 2 ^ (o + n) - 2 ^ o

/-- Whether a gathered stripe has every byte of its units. -/
def gatherWhole (ds : List Nat) (g : Gather) : Bool :=
  decide (ds.length - 1 ≤ g.units.length) && g.units.all fun p => p.2 == 2 ^ 256 - 1

/-- A stripe that leaves the gather buffer. -/
def flushStripe (g : Gather) (s : State) : State :=
  let ds := devices s (256 * (g.units.headD (0, 0)).1)
  let s := { s with ddr := { s.ddr with gather := s.ddr.gather.erase g } }
  if gatherWhole ds g then fullStripe g.stripe ds s else partialStripe g.stripe ds (g.units.map Prod.fst) s

/-- Bytes of a unit, by mask, gathered into its stripe; a stripe that is whole leaves at once, and a full buffer gives up its oldest. -/
def gatherUnit (u mask : Nat) (s : State) : State :=
  let ds := devices s (256 * u)
  let st := stripeOf ds u
  match s.ddr.gather.find? fun g => g.stripe = st with
  | some g =>
    let old := ((g.units.find? fun p => p.1 = u).map Prod.snd).getD 0
    let g' := { g with units := (g.units.filter fun p => p.1 ≠ u) ++ [(u, old ||| mask)] }
    let s := { s with ddr := { s.ddr with gather := s.ddr.gather.map fun x => if x.stripe = st then g' else x } }
    if gatherWhole ds g' then flushStripe g' s else s
  | none =>
    let s := match s.ddr.gather with
      | g :: _ => if 512 ≤ s.ddr.gather.length then flushStripe g s else s
      | [] => s
    { s with ddr := { s.ddr with gather := s.ddr.gather ++ [⟨st, [(u, mask)], s.now⟩] } }

/-- The units of a DDR range with the mask of the bytes in it. -/
def rangeUnits (off len : Nat) : List (Nat × Nat) :=
  if len = 0 then []
  else (List.range ((off + len - 1) / 256 + 1 - off / 256)).map fun i =>
    let u := off / 256 + i
    let lo := max off (256 * u) - 256 * u
    (u, unitMask lo (min (off + len) (256 * u + 256) - 256 * u - lo))

/-- A DDR range written through the gather buffer: units that it covers whole are good again (R152, R154). -/
def gatherRange (off len : Nat) (s : State) : State :=
  let s := { s with ddr := { s.ddr with poison := s.ddr.poison.filter fun u => ¬ (off ≤ 256 * u ∧ 256 * u + 256 ≤ off + len) } }
  (rangeUnits off len).foldl (fun s p => gatherUnit p.1 p.2 s) s

/-- A DDR range written by the hub's own engines, stripe by stripe: full where the range covers it whole (R158, R159). -/
def stripeRange (ds : List Nat) (lo hi : Nat) (s : State) : State :=
  if ds.length < 2 ∨ hi ≤ lo then s
  else (List.range (stripeOf ds (hi - 1) + 1 - stripeOf ds lo)).foldl (fun s i =>
    let st := stripeOf ds lo + i
    let us := (stripeUnits ds st).filter fun u => lo ≤ u ∧ u < hi
    if ds.length - 1 ≤ us.length then fullStripe st ds s else partialStripe st ds us s) s

end Sys2Proof.Machine
end

