-- ==== Sys2Proof/Machine/Hub.lean ====
section
/-! DEFINITION. Operations of the hub that many commands share: completion entries and MSI-X (R184, R192), events
(R191), remote tokens (R28), GEN advances and rewinds (R40, R339), scrubs and fences (R36 to R39), the pre-reset
sample (R341), writes under copy-ahead (R315). -/

namespace Sys2Proof.Machine

/-! ### Rings and protection sets -/

def ringType (k : RingSt) : Nat := fld k.cfg 0 3
def ringN (k : RingSt) : Nat := 2 ^ fld k.cfg 4 5
def ringEngine (k : RingSt) : Nat := fld k.cfg 9 2
def ringSqBase (k : RingSt) : Nat := k.sqHi.toNat * 0x100000000 + k.sqLo.toNat / 4096 * 4096
def ringCqBase (k : RingSt) : Nat := k.cqHi.toNat * 0x100000000 + k.cqLo.toNat / 4096 * 4096

/-- Completion slots that hold no unconsumed entry and that no entry in flight has reserved (R179). -/
def cqFree (k : RingSt) : Nat :=
  ringN k - 1 - (k.cqTail + ringN k - k.cqHead) % ringN k - k.inflight.length

/-- The protection set of an edition: the one in force, or a live older one (R196, R197). -/
def protSet (s : State) (ed : Half16) : Tbl Word :=
  if ed = s.hst.edition then s.hst.force
  else match s.hst.older.find? (fun p => p.1 = ed) with
    | some p => p.2
    | none => s.hst.force

/-- The context a ring is bound to in a protection set (KEEPER_RBIND_r). -/
def ringCtx (set : Tbl Word) (r : Nat) : Option Nat :=
  let w := Tbl.get 0 set (0x200 + 4 * r)
  if bit w 31 then some (fld w 28 2) else none

/-- Whether the module may issue DMA and MSI-X now (R174). -/
def canDma (s : State) : Bool := s.hst.bme && !s.hst.d3hot

/-- A word of the MSI-X table: vectors are masked at reset. -/
def msixWord (s : State) (off : Nat) : Word := Tbl.get (if off % 16 = 12 then 1 else 0) s.hst.msix off

/-- An MSI-X vector sent, or its PBA bit set while it is masked or DMA is off (R192, R174). -/
def sendMsix (v : Nat) (s : State) : State :=
  if bit (msixWord s (16 * v + 12)) 0 || !canDma s then
    { s with hst := { s.hst with pba := orBit s.hst.pba v } }
  else
    countHub 6 0 false (send .msix v [(msixWord s (16 * v)).toNat, (msixWord s (16 * v + 4)).toNat,
      (msixWord s (16 * v + 8)).toNat] s)

/-- A 32-byte record put into the next slot of a completion ring, PHASE in byte 30, and the interrupt condition of
R192 on COUNT. -/
def putCq (r : Nat) (bs : List Byte) (s : State) : State :=
  let k := ring s r
  let rec_ := bs.take 30 ++ [if k.pass then 1 else 0, 0]
  let at_ := hostKey (ringCqBase k + 32 * k.cqTail)
  let tail := (k.cqTail + 1) % ringN k
  let s := if canDma s then countHub 9 0 false (writeMem at_ rec_ s)
    else { s with hst := { s.hst with waitCq := s.hst.waitCq ++ [(r, at_, rec_)] } }
  let n := k.since + 1
  let fire := bit k.cfg 23 && decide (max 1 (fld k.mod 0 8) ≤ n)
  let k := { k with cqTail := tail, pass := if tail = 0 then !k.pass else k.pass,
                    since := if fire then 0 else n, sinceAt := if k.since = 0 then s.now else k.sinceAt }
  let s := countHub 5 (ringType k) true (setRing r k s)
  if fire then sendMsix (fld k.cfg 16 7) s else s

def entOpcode (e : Entry) : Nat := getN e.bytes 0 1
def entFlags (e : Entry) : Nat := getN e.bytes 1 1
def entTag (e : Entry) : Nat := getN e.bytes 2 2

/-- A submission entry's completion: taken out of flight, and its completion entry written unless NOCQE and success
(R183 to R185). MODE_APPLIED counts as success. -/
def complete (r : Nat) (e : Entry) (status : Nat) (result : List Byte) (s : State) : State :=
  let s := updRing r (fun k => { k with inflight := k.inflight.filter fun x => x.seq ≠ e.seq }) s
  if bits (entFlags e) 0 1 = 1 ∧ (status = 0 ∨ status = 0x20) then s
  else
    putCq r ((result ++ List.replicate 24 0).take 24 ++ toBytes (entTag e) 2 ++ toBytes (ring s r).sqHead 2
      ++ toBytes status 2) s

/-- The lowest ring that takes an event of this context, or of none (R191). -/
def eventRing (s : State) (c : Option Nat) : Option Nat :=
  (List.range 64).find? fun r =>
    let k := ring s r
    k.state = .active ∧ ringType k = 6 ∧ ringCtx s.hst.force r = c

/-- The 32 bytes of an event record. -/
def eventBytes (code source : Nat) (c : Option Nat) (gen p0 p1 p2 p3 : Nat) : List Byte :=
  toBytes code 2 ++ toBytes source 2 ++ toBytes (c.getD 0xFF) 1 ++ toBytes gen 1 ++ [0, 0]
    ++ toBytes p0 4 ++ toBytes p1 4 ++ toBytes p2 4 ++ toBytes p3 4 ++ List.replicate 6 0

/-- An event dropped and counted (R191). -/
def dropEvent (s : State) : State :=
  countHub 7 0 false { s with hst := { s.hst with evtDrop := incSat s.hst.evtDrop 1, evtLost := s.hst.evtLost + 1 } }

/-- An event posted (R191): directly behind an EVENTS_LOST record when events were dropped before. -/
def postEvent (code source : Nat) (c : Option Nat) (p0 p1 p2 p3 : Nat) (s : State) : State :=
  match eventRing s c with
  | none => dropEvent s
  | some r =>
    let gen := match c with
      | some i => (ctx s i).gen.toNat
      | none => 0
    let rec_ := eventBytes code source c gen p0 p1 p2 p3
    if s.hst.evtLost = 0 then
      if 1 ≤ cqFree (ring s r) then putCq r rec_ s else dropEvent s
    else if 2 ≤ cqFree (ring s r) then
      let s := putCq r (eventBytes 0x0217 0 none 0 s.hst.evtLost 0 0 0) s
      putCq r rec_ { s with hst := { s.hst with evtLost := 0 } }
    else dropEvent s

/-! ### Start-up state (R395, R403, R404) -/

def inGood (s : State) (g : Nat) : Bool := bit s.idb.good g
def inFence (s : State) (g : Nat) : Bool := Tbl.get 0 s.idb.fenceList g ≠ 0
/-- A core set in the good-core map and absent from the fence list (R38). -/
def usable (s : State) (g : Nat) : Bool := inGood s g && !inFence s g
def usableCores (s : State) : Nat := ((List.range 144).filter (usable s)).length

def bootCode : BootState → Nat
  | .off => 0 | .boot => 1 | .cal => 2 | .survey => 3 | .ready => 4 | .degraded => 5 | .fenced => 6

/-- A PLDM platform event; on SMBus SB_ALERT_N is raised (R438). The power-fail action does not serve the sideband. -/
def platformEvent (code : Nat) (s : State) : State :=
  if s.pwr.failing.isSome then s else send .pldm 0x0A [code] { s with side := { s.side with alert := s.side.alert || !s.side.i3c } }

/-- Logbook 0x0A08, event 0x0A40, the PLDM platform event and SB_ALERT_N of a state change (R403, R438). -/
def announceState (code param : Nat) (s : State) : State :=
  let n := usableCores s
  platformEvent code (postEvent 0x0A40 0x0A00 none code param n 0 (logRec 0x0A08 0x0A00 code param n 0 s))

/-- A ring entry in flight by its opcode and TAG. -/
def findEntry (s : State) (r opc tag : Nat) : Option Entry :=
  (ring s r).inflight.find? fun e => e.started && entOpcode e == opc && entTag e == tag

/-- The completion of a started entry named by ring, opcode and TAG. -/
def completeBy (r opc tag status : Nat) (result : List Byte) (s : State) : State :=
  match findEntry s r opc tag with
  | some e => complete r e status result s
  | none => s

/-! ### Contexts -/

/-- The physical cores of a context, in virtual order. -/
def coresOf (s : State) (c : Nat) : List Nat := (ctx s c).map.filterMap fun x => x.map Fin.val

/-- The core serving virtual core 0, or 0x00FF when it is unmapped (R191). -/
def core0 (s : State) (c : Nat) : Nat :=
  match (ctx s c).map with
  | some g :: _ => g.val
  | _ => 0xFF

/-- The GEN after another: modulo 256, 0 skipped (R32). -/
def nextGen (g : Byte) : Byte := if g = 255 then 1 else g + 1

/-- A context's last completed step: the smallest mark of its virtual cores, or 0xFFFF_FFFF (R116). -/
def lastStep (s : State) (c : Nat) : Word :=
  let x := ctx s c
  let ms := (List.range x.map.length).map fun v => x.marks.find? fun p => p.1 = v
  if ms.any Option.isNone || ms.isEmpty then 0xFFFFFFFF
  else BitVec.ofNat 32 ((ms.filterMap id).foldl (fun a p => min a p.2.toNat) 0xFFFFFFFF)

/-- Whether a virtual core of the context is unmapped (R39). -/
def hasUnmapped (s : State) (c : Nat) : Bool := (ctx s c).map.any Option.isNone

/-- Whether an entry in flight is an AWAIT of a context, begun or not (R187). -/
def isAwait (s : State) (c r : Nat) (e : Entry) : Bool :=
  decide (ringType (ring s r) = 1) && decide (ringCtx (protSet s e.edition) r = some c) && (entOpcode e == 2 || entOpcode e == 3)

/-- The AWAIT entries of a context on every ring. -/
def awaits (s : State) (c : Nat) : List (Nat × Entry) :=
  (List.range 64).flatMap fun r => ((ring s r).inflight.filter (isAwait s c r)).map fun e => (r, e)

/-- Every outstanding AWAIT of a context completed with one status and result (R187). -/
def completeAwaits (c status : Nat) (result : List Byte) (s : State) : State :=
  (awaits s c).foldl (fun s p => complete p.1 p.2 status result s) s


/-- GEN_CHANGE to every peer with a VALID binding of the context (R246): a CTRL message of kind 1 with the context, the
new and the old GEN. -/
def sendGenChange (c : Nat) (new old : Byte) (s : State) : State :=
  (List.range 32).foldl (fun s m =>
    if bit (Tbl.get 0 s.steer.bind (32 * c + m)) 31 then sendCtrl m 1 [BitVec.ofNat 8 c, new, old] s else s) s

/-! ### Remote tokens (R27, R28) -/

/-- An arrival with an old GEN, dropped and counted (R339), logged at most once per ms (0x0805). -/
def lateDrop (c : Nat) (old : Byte) (s : State) : State :=
  let s := { s with rst := { s.rst with lateDrop := incSat s.rst.lateDrop 1, lateSince := s.rst.lateSince + 1 } }
  if rateOk s 0x0805 1000000 then
    let n := s.rst.lateSince
    logRec 0x0805 0x0800 n c old.toNat (ctx s c).gen.toNat
      (rateMark 0x0805 { s with rst := { s.rst with lateSince := 0 } })
  else s

/-- A token appended to a queue with room (R26, R29). -/
def appendToken (g q : Nat) (payload : Word) (s : State) : State :=
  let k := queue s g q
  countCore g 0x18 q (setQueue g q { k with toks := k.toks ++ [payload] } s)

/-- A token rejected because its source is not enabled (R28). -/
def rejectToken (g q : Nat) (s : State) : State :=
  let k := queue s g q
  coreFault g 8 (countCore g 0x19 q (setQueue g q { k with rej := satAdd 255 k.rej 1 } s))

/-- A token from a source other than a stream of the core: the GEN, enable and room checks in this order (R28). -/
def remoteToken (kind c : Nat) (gen : Byte) (g q : Nat) (payload : Word) (s : State) : State :=
  let k := queue s g q
  if ¬ ((ctx s c).created ∧ (ctx s c).gen = gen) then
    coreFault g 9 (countCore g 0x19 q (lateDrop c gen s))
  else if ¬ (bit k.cfg 31 ∧ bit k.cfg 8) then rejectToken g q s
  else if 64 ≤ k.toks.length then
    let n := satAdd 255 k.ovf 1
    logCore g 0x03 q kind payload.toNat n
      (coreFault g 7 (countCore g 0x19 q (setQueue g q { k with ovf := n, ovfPend := true } s)))
  else appendToken g q payload s

/-! ### Entries that succeed (R183, R187) -/

/-- Whether an entry asks for a token, suppresses its completion, or is a barrier. -/
def entToken (e : Entry) : Bool := bits (entFlags e) 1 1 == 1
def entBarrier (e : Entry) : Bool := bits (entFlags e) 2 1 == 1

/-- The bound context of a ring under an entry's captured edition. -/
def entCtx (s : State) (r : Nat) (e : Entry) : Option Nat := ringCtx (protSet s e.edition) r

/-- The token action of a successful entry (R27, R183): the status that it leaves. -/
def entryToken (kind r : Nat) (e : Entry) (s : State) : Nat × State :=
  if entToken e then
    match entCtx s r e with
    | some c =>
      match (ctx s c).map[getN e.bytes 56 1]? with
      | some (some g) =>
        (0, remoteToken kind c e.gen g.val (getN e.bytes 57 1 % 16) (BitVec.ofNat 32 (getN e.bytes 60 4)) s)
      | some none => (0x1E, s)
      | none => (0, lateDrop c e.gen s)
    | none => (0, s)
  else (0, s)

/-- An entry's success: its token, then its completion. -/
def succeed (kind r : Nat) (e : Entry) (result : List Byte) (s : State) : State :=
  let x := entryToken kind r e s
  complete r e x.1 result x.2

/-- The success, or the failure, of a started entry named by ring, opcode and TAG. -/
def endBy (r opc tag status : Nat) (result : List Byte) (s : State) : State :=
  match findEntry s r opc tag with
  | some e => if status = 0 then succeed 4 r e result s else complete r e status result s
  | none => s

/-- AWAIT_STEP entries whose step the last completed step has reached (R187). -/
def satisfyAwaits (c : Nat) (s : State) : State :=
  let last := lastStep s c
  if last = 0xFFFFFFFF then s
  else (awaits s c).foldl (fun s p =>
    if entOpcode p.2 = 2 ∧ 0 ≤ sdiff32 last (BitVec.ofNat 32 (getN p.2.bytes 8 4)) then
      succeed 4 p.1 p.2 (toBytes last.toNat 4) s else s) s

/-! ### DDR writes under copy-ahead (R315) -/

/-- Bytes per granule (R317). -/
def granule : Nat := 65536

/-- Granules of a section, and of all of them. -/
def secGrans (x : Section) : Nat := (x.len + 65535) / granule
def totalGrans (xs : List Section) : Nat := xs.foldl (fun n x => n + secGrans x) 0

/-- Whether a granule has been copied: by the scan, or ahead of it. -/
def isCopied (k : CkptRun) (i g : Nat) : Bool := decide (i < k.sec) || (i == k.sec && decide (g < k.gran)) || k.copied.contains (i, g)

/-- A granule as memory holds it now. Poisoned units read as zeros and are marked (R316). -/
def readGranule (mem : Memory) (poison : List Nat) (x : Section) (i g : Nat) : Granule :=
  let b := x.addr + g * granule
  let e := x.addr + min x.len ((g + 1) * granule)
  let bad := poison.filter fun u => b < 256 * u + 256 ∧ 256 * u < e
  { sec := i, ix := g, poison := bad.map fun u => u - b / 256
    cells := (mem.filter fun c => decide (b ≤ c.1 ∧ c.1 < e) && !bad.contains (c.1 / 256)).map fun c => (c.1 - b, c.2) }

/-- One granule of one checkpoint copied ahead of a write. -/
def copyGranule (mem : Memory) (poison : List Nat) (i : Nat) (x : Section) (g : Nat) (k : CkptRun) : CkptRun :=
  if isCopied k i g then k
  else { k with copied := (i, g) :: k.copied, buffer := k.buffer ++ [(i, g)], ahead := k.ahead + 1,
                image := { k.image with grans := k.image.grans ++ [readGranule mem poison x i g] } }

/-- The armed granules of a checkpoint that a DDR range touches, copied ahead of a write (R315). -/
def aheadOf (mem : Memory) (poison : List Nat) (a len : Nat) (k : CkptRun) : CkptRun :=
  k.image.sections.zipIdx.foldl (fun k p =>
    let x := p.1
    if x.kind ≠ 2 ∧ x.addr < a + len ∧ a < x.addr + x.len then
      let lo := (a - x.addr) / granule
      let hi := (min (a + len) (x.addr + x.len) - 1 - x.addr) / granule
      (List.range (hi + 1 - lo)).foldl (fun k j => copyGranule mem poison p.2 x (lo + j) k) k
    else k) k

/-- Granules copied ahead over every checkpoint in progress. -/
def aheadSum (s : State) : Nat := s.ckpt.runs.foldl (fun n p => n + match p.2 with
  | some k => k.ahead
  | none => 0) 0

/-- Copy-ahead before a DDR write (R315). -/
def copyAhead (a len : Nat) (s : State) : State :=
  if 0x1000000000000000 ≤ a ∨ len = 0 ∨ s.ckpt.runs.isEmpty then s
  else
    let f := fun (p : Nat × Option CkptRun) => (p.1, p.2.map (aheadOf s.mem s.ddr.poison a len))
    let n := aheadSum s
    let s := { s with ckpt := { s.ckpt with runs := s.ckpt.runs.map f } }
    let d := aheadSum s - n
    if d = 0 then s
    else countAt 0x061000 32 0x0C 0 d false { s with ckpt := { s.ckpt with caCount := incSat s.ckpt.caCount d } }

/-- Lines (byte offsets) of a range that it covers whole. -/
def wholeLine (off len l : Nat) : Bool := decide (off ≤ l ∧ l + 128 ≤ off + len)

/-- The memory an address lies in: DDR, a cistern, a core's SRAM or host memory, with the offset in it. -/
inductive Mem
  | ddr (off : Nat)
  | cistern (c off : Nat)
  | sram (g off : Nat)
  | host (bus : Nat)
  deriving DecidableEq, Repr

/-- The memory of a memory address. -/
def memOf (a : Nat) : Mem :=
  if 0x10000000000000000 ≤ a then .host (a - 0x10000000000000000)
  else if 2 * 0x1000000000000000 ≤ a then .sram (bits a 59 1 * 72 + bits a 56 3 * 9 + bits a 52 4) (bits a 0 24)
  else if 0x1000000000000000 ≤ a then .cistern (bits a 56 4) (bits a 0 27)
  else .ddr a

/-- Bytes written at a memory address. In DDR copy-ahead comes first, the write enters the gather buffer, and a write of a whole unit clears
its poison (R315, R152, R154); in SRAM and cisterns a write of a whole line clears its error (R21, R22), each piece of a transfer judged by itself (log 94). -/
def store (a : Nat) (bs : List Byte) (s : State) : State :=
  let n := bs.length
  match memOf a with
  | .ddr _ =>
    gatherRange a n (writeMem a bs (copyAhead a n s))
  | .cistern c off =>
    updClu c (fun k => { k with ueLines := k.ueLines.filter fun l => !wholeLine off n l }) (writeMem a bs s)
  | .sram g off =>
    updCore g (fun k => { k with ueLines := k.ueLines.filter fun l => !wholeLine off n l }) (writeMem a bs s)
  | .host _ => writeMem a bs s

/-! ### Register words of a core (R42, R129) -/

def cstateCode : CState → Nat
  | .absent => 0 | .free => 1 | .assigned => 2 | .scrub => 3 | .fenced => 4

/-- CORE_STATE. -/
def coreStateWord (c : CoreSt) : Nat :=
  c.fenceCause.toNat * 0x1000000 + c.vcore * 65536 + c.gen.toNat * 256 + c.ctx.val * 16 + cstateCode c.state

def strCode : StrState → Nat
  | .stopped => 0 | .running => 1 | .stopping => 2 | .halted => 3 | .faulted => 4

/-- Operations of the OPTIC stream that its engines hold. -/
def opticOut (c : CoreSt) : Nat :=
  (List.range 4).foldl (fun n e => n + ((Tbl.get {} c.engines e).queue.filter fun o => !o.cal).length) 0

/-- Long instructions of a stream issued and not completed (OUTSTANDING). -/
def outstanding (c : CoreSt) (st : Nat) : Nat :=
  (Tbl.get {} c.streams st).outst.length + (if st = 1 then opticOut c else 0)

/-- CORE_STR_STAT. -/
def strStatWord (c : CoreSt) (st : Nat) : Nat :=
  let r := Tbl.get {} c.streams st
  strCode r.state * 0x20000000 + b2n r.pending * 0x10000000 + r.stall * 0x1000000 + r.stallQ * 0x100000 + outstanding c st

/-- CORE_TQ_STAT and CORE_TQ_HEAD. -/
def tqStatWord (k : TokQueue) : Nat := k.rej * 65536 + k.ovf * 256 + k.toks.length
def tqHeadWord (k : TokQueue) : Nat := (k.toks.headD 0).toNat

/-! ### The pre-reset sample (R341) -/

/-- The core record of a sample set. `prev`: the GEN has already advanced. -/
def sampleCore (s : State) (prev : Bool) (g : Nat) : List Byte :=
  let c := core s g
  let owned := c.state = .assigned
  let gen := if ¬ owned then 0 else if prev then (if c.gen = 1 then 255 else c.gen.toNat - 1) else c.gen.toNat
  toBytes g 2 ++ toBytes (if owned then c.ctx.val else 0xFF) 1 ++ toBytes gen 1 ++ toBytes (coreStateWord c) 4
    ++ (List.range 4).flatMap (fun st =>
      let r := strm s g st
      toBytes r.pc.toNat 4 ++ toBytes (strStatWord c st) 4 ++ toBytes r.fault.toNat 4 ++ toBytes r.faultPc.toNat 4)
    ++ (List.range 16).flatMap (fun q => toBytes (tqStatWord (queue s g q)) 4 ++ toBytes (tqHeadWord (queue s g q)) 4)
    ++ List.replicate 56 0 ++ s.mem.readN (sramKey g 0) 4096

/-- A sample set written into the sample ring at U, and RST_SAMPLE (R341). -/
def sampleSet (kind cause index : Nat) (prev : Bool) (t : Nat) (gs : List Nat) (s : State) : State :=
  let gs := gs.filter fun g => (core s g).state ≠ .absent ∧ (core s g).state ≠ .fenced
  let size := 256 + 4352 * gs.length
  let pos := if 16777216 < s.rst.sampleNext + size then 0 else s.rst.sampleNext
  let seq := s.rst.sampleSeq + 1
  let head := toBytes 0x4C504D53 4 ++ toBytes seq 4 ++ toBytes kind 1 ++ toBytes cause 1 ++ toBytes index 2
    ++ toBytes gs.length 2 ++ [0, 0] ++ toBytes t 8 ++ List.replicate 228 0
  let body := gs.flatMap (sampleCore s prev)
  let s := store (userLimit s + pos) (head ++ toBytes (crc32c (head ++ body)) 4 ++ body) s
  { s with rst := { s.rst with sampleSeq := seq, samplePos := pos, sampleNext := (pos + size + 4095) / 4096 * 4096 } }

/-! ### Disposing of work in flight (R339) -/

/-- A stream stopped with nothing outstanding (R126, R339). -/
def haltStream (r : Stream) : Stream :=
  { r with state := .stopped, pending := false, stall := 0, stallQ := 0, outst := [], arrived := false }

/-- An engine whose operations end: tiles in the write buffer are to be written by the caller; a LOADW begun leaves
its shadow plane with all codes 0 and CODE_SAT clear (R128). -/
def dropOps (now : Nat) (o : Ote) : Ote :=
  let cut := o.queue.any fun q => match q.kind with
    | .loadw _ _ => decide (1 ≤ q.phase)
    | _ => false
  { o with queue := [], wbuf := [], paused := false, held := false, hoPause := false, shadowQ := [],
           idleAt := if o.queue.isEmpty then o.idleAt else now
           shadow := if cut then {} else o.shadow }

/-- The tiles in an engine's write buffer written to SRAM (R65, R339). -/
def flushTiles (g e : Nat) (s : State) : State :=
  let s' := (ote s g e).wbuf.foldl (fun s t =>
    store (sramKey g t.wordAddr) (toBytes t.word 2) (store (sramKey g t.addr) t.bytes s)) s
  updOte g e (fun o => { o with wbuf := [], paused := false }) s'

/-- The drain of one core (R339). -/
def disposeCore (g : Nat) (s : State) : State :=
  let s := (List.range 4).foldl (fun s e => flushTiles g e s) s
  updCore g (fun c => { c with
    engines := c.engines.map fun p => (p.1, dropOps s.now p.2)
    streams := c.streams.map fun p => (p.1, haltStream p.2) }) s

/-- COPY ring entries of a context in flight. -/
def copyEntries (s : State) (c : Nat) : List (Nat × Entry) :=
  (List.range 64).flatMap fun r =>
    if ringType (ring s r) = 2 then
      ((ring s r).inflight.filter fun e => ringCtx (protSet s e.edition) r = some c).map fun e => (r, e)
    else []

/-- Hub copy entries of a context under an old GEN complete ABORTED, its cluster lists stop at their heads
(R339). -/
def disposeCopies (c : Nat) (s : State) : State :=
  let mine := fun (d : CopyDesc) => decide (d.ctx = some (Fin.ofNat 4 c))
  let es := copyEntries s c
  let engs := s.ddr.engines.map fun p => (p.1, p.2.filter fun d => !mine d)
  let s := { s with ddr := { s.ddr with engines := engs } }
  let stop := fun (l : CeList) => if l.state = 1 then { l with state := 2 } else l
  let one := fun (q : Nat × CeList) => if q.1 = c then (q.1, stop q.2) else q
  let all := s.clus.map fun p => (p.1, { p.2 with lists := p.2.lists.map one })
  let s := { s with clus := all }
  es.foldl (fun s p => complete p.1 p.2 0x1C [] s) s

/-- Every OPTIC stream of a context that waits at MODESYNC released with an outcome in s[D] (R124, R125). -/
def releaseSync (c outcome : Nat) (s : State) : State :=
  (coresOf s c).foldl (fun s g =>
    let r := strm s g 1
    if r.arrived then
      let d := match fetched r with
        | some w => fld w 8 4
        | none => 0
      issued g 1 (setStrm g 1 (setSreg d (BitVec.ofNat 64 outcome) { r with arrived := false }) s)
    else s) s

/-- The arrival of a core's OPTIC stream at MODESYNC withdrawn, when it waits there (R125, log 107). -/
def withdrawSync (g st : Nat) (s : State) : State :=
  let k := core s g
  if (strm s g st).arrived then
    updStrm g st (fun r => { r with arrived := false }) (updCtx k.ctx.val (fun x => { x with staged := x.staged.map fun m =>
      { m with arrived := m.arrived.erase k.vcore } }) s)
  else s

/-- The ADMIN entry that staged a mode edition completed (R189). -/
def completeMode (m : StagedMode) (status : Nat) (result : List Byte) (s : State) : State :=
  match m.ring with
  | some (r, tag, _) =>
    match (ring s r).inflight.find? fun e => e.started && entOpcode e == 0x13 && entTag e == tag.toNat with
    | some e => complete r e status result s
    | none => s
  | none => s

/-- A context's staged mode edition withdrawn (R125): the command completes MODE_ABORTED, 0x8043 is written. -/
def modeAbort (c cause : Nat) (s : State) : State :=
  match (ctx s c).staged with
  | none => s
  | some m =>
    let s := updCtx c (fun x => { x with staged := none }) s
    let s := releaseSync c 2 s
    let s := completeMode m 0x21 (toBytes cause 1) s
    logCore (core0 s c) 0x43 c m.edition.toNat cause m.arrived.length s

/-! ### Removal (R439) -/

def removeCode : RemoveState → Nat
  | .none_ => 0 | .requested => 1 | .safe => 2

/-- Contexts that exist, as a mask. -/
def ctxMask (s : State) : Nat := ((List.range 4).filter fun c => (ctx s c).created).foldl (fun n c => n + 2 ^ c) 0

/-- The removal state changed: 0x4004, event 0x4041 and the PLDM platform event (R438). -/
def setRemove (r : RemoveState) (s : State) : State :=
  let old := removeCode s.pins.remove
  let s := { s with pins := { s.pins with remove := r } }
  platformEvent (0x100 + removeCode r) <| postEvent 0x4041 0x4000 none (removeCode r) 0 0 0 (logRec 0x4004 0x4000 old (removeCode r) (ctxMask s) 0 s)

/-- Whether a slot of the well is busy. -/
def slotsBusy (s : State) : Bool := s.ckpt.slots.any fun p => p.2.state == .writing || p.2.state == .draining

/-- Whether the pod configuration held gives a module a steward's or the arbiter's role. -/
def holdsRole (s : State) (m : Nat) : Bool := match s.stew.cfg with
  | some c => c.active.toNat == m || c.standby.toNat == m || c.arbiter.toNat == m
  | none => false

/-- A requested removal becomes SAFE: no role, outside MEMBERS, no context, no busy slot. -/
def removeCheck (s : State) : State :=
  if s.pins.remove = .requested ∧ holdsRole s (me s) = false ∧ chMember s.steer.chart (me s) = false ∧ ctxMask s = 0 ∧ slotsBusy s = false then
    setRemove .safe s
  else s

/-! ### START and STOP (R126) -/

/-- A stream made RUNNING: the fetch buffer emptied and its window begun at CORE_STR_PC, CORE_STR_FAULT cleared. -/
def startStream (g st : Nat) (s : State) : State :=
  updStrm g st (fun r => { r with state := .running, pending := false, stall := 0, stall0 := 0, fault := 0, fbuf := [], wbase := r.pc })
    (updCtx (core s g).ctx.val (fun x => { x with doneReported := false }) s)

/-- A stop of a stream (R126): issue stops, an instruction stalled at issue is abandoned, an arrival at MODESYNC is
withdrawn (R125). -/
def stopStream (g st : Nat) (s : State) : State :=
  updStrm g st (fun r => { r with state := .stopping, stall := 0, stallQ := 0, stall0 := 0, stopAt := s.now }) (withdrawSync g st s)

/-! ### Checkpoints that fail (R310, R312) -/

def onCkpt (f : CkptSt → CkptSt) (s : State) : State := { s with ckpt := f s.ckpt }

/-- A slot of the well, and a context's template and checkpoint in progress. -/
def slotSt (s : State) (c : Nat) (b : Bool) : Slot_ := Tbl.get {} s.ckpt.slots (2 * c + b2n b)
def setSlot (c : Nat) (b : Bool) (k : Slot_) (s : State) : State :=
  onCkpt (fun t => { t with slots := Tbl.set t.slots (2 * c + b2n b) k, dirSeq := t.dirSeq + 1 }) s
def template (s : State) (c : Nat) : Option Template := Tbl.get none s.ckpt.templates c
def ckptRun (s : State) (c : Nat) : Option CkptRun := Tbl.get none s.ckpt.runs c

/-- JOB_REPORT CHECKPOINT_STATE to the active steward: 1 WRITING, 2 COMMITTED, 3 DRAINED, 4 LOST. -/
def ckptReport (c : Nat) (number step : Word) (b : Bool) (state : Nat) (s : State) : State :=
  match template s c, s.stew.active with
  | some t, some m =>
    let k := slotSt s c b
    ctlSend m 0x210 [t.job, 3, number.toNat, step.toNat, b2n b, state, b2n k.full, ofBytes (k.image.root.take 8)] s
  | _, _ => s

/-- A checkpoint in progress fails: its slot is freed, 0x0903, event 0x0942, and its BEGIN completes CKPT_FAILED; streams stopped
for its FULL freeze run again unless a reset took them. -/
def ckptFail (c cause : Nat) (s : State) : State :=
  match ckptRun s c with
  | none => s
  | some k =>
    let s := setSlot c k.slotB {} (onCkpt (fun t => { t with runs := Tbl.set t.runs c none }) s)
    let s := logRec 0x0903 (0x0900 + c) c k.number.toNat cause k.done s
    let s := postEvent 0x0942 (0x0900 + c) (some c) c k.number.toNat cause 0 s
    let s := ckptReport c k.number k.step k.slotB 4 s
    let s := if k.freezing ∧ cause ≠ 4 then k.froze.foldl (fun s x => startStream x.1 x.2 s) s else s
    removeCheck (match k.ring with
    | some (r, tag) =>
      completeBy r 2 tag 0x203 ([BitVec.ofNat 8 (b2n k.slotB), 0, 0, 0] ++ toBytes k.number.toNat 4 ++ List.replicate 12 0 ++ toBytes cause 1) s
    | none => s)

/-- A checkpoint whose cut has not been taken fails with cause RESET (R308). -/
def ckptResetBeforeCut (c : Nat) (s : State) : State :=
  match ckptRun s c with
  | some k => if k.cut then s else ckptFail c 4 s
  | none => s

/-- The cores of a reset domain by kind and index (R334). -/
def domainCores (kind index : Nat) : List Nat :=
  match kind with
  | 1 => [index]
  | 2 => (List.range 9).map (codeCore index)
  | 3 => (List.range 72).map fun k => 72 * index + k
  | 5 => []
  | _ => List.range 144

/-- Whether a running reset affects a context: its GEN has advanced and its report follows at the release (R338). -/
def ctxResets (s : State) (c : Nat) : Bool := s.rst.runs.any fun x => x.ctxs.contains c
/-- Whether a core lies in a domain that resets. -/
def coreResets (s : State) (g : Nat) : Bool := s.rst.runs.any fun x => (domainCores x.kind x.index).contains g

/-- A GEN advance (R40, R336 phase 1): the context's GEN moves on, its streams stop issuing, its peers are told. Within one reset sequence it
advances once (R338). -/
def genAdvance (c : Nat) (s : State) : State :=
  if ctxResets s c then s
  else
  let old := (ctx s c).gen
  let new := nextGen old
  let s := updCtx c (fun x => { x with gen := new, doneReported := false }) s
  let halt := fun (p : Nat × Stream) =>
    (p.1, { p.2 with state := StrState.stopping, pending := false, stall := 0, arrived := false })
  let s := (coresOf s c).foldl (fun s g =>
    updCore g (fun k => { k with gen := new, streams := k.streams.map halt }) s) s
  sendGenChange c new old s

/-- The tag of a segment or read of a context that has not been started, as a queued flit names it. -/
def waitingTag (c : Nat) (f : Flit) : Option Nat :=
  match f.body with
  | .seg k d => if k ≠ 1 ∧ d.sctx.val = c then some d.tag.toNat else none
  | .rdreq d => if d.sctx.val = c then some d.tag.toNat else none
  | _ => none

/-- Whether a flit belongs to a segment that is not sent. -/
def flitOf (tags : List Nat) (c : Nat) (f : Flit) : Bool :=
  match f.body with
  | .data t _ _ _ => tags.contains t
  | _ => (waitingTag c f).isSome

/-- A pair's queue without the segments of a context that have not been started. -/
def dropWaiting (c : Nat) (k : Pair) : Pair :=
  let tags := k.queue.filterMap (waitingTag c)
  { k with queue := k.queue.filter fun f => !flitOf tags c f }

/-- Outbound fabric work of a context at a GEN advance (R339): what is not started is not sent, and its transfers end. -/
def dropLink (c : Nat) (s : State) : State :=
  let gone := (allPairs s).flatMap fun x => ((pair s x.1 x.2).queue.filterMap (waitingTag c)).map fun t =>
    ((pair s x.1 x.2).peer, t)
  let s := (allPairs s).foldl (fun s x => updPair x.1 x.2 (dropWaiting c) s) s
  let l := s.link
  { s with link := { l with
      outs := l.outs.filter fun o => !gone.contains (o.peer, o.tag)
      xfers := l.xfers.filter fun p => p.2.ctx.map Fin.val ≠ some c } }

/-- The drain of a context (R339). -/
def disposeCtx (c : Nat) (s : State) : State :=
  let s := modeAbort c 3 s
  let s := (coresOf s c).foldl (fun s g => disposeCore g s) s
  dropLink c (ckptResetBeforeCut c (disposeCopies c s))

/-- A rewound context's report (R40, R187): outstanding AWAITs and event CTX_REWOUND. -/
def reportRewound (c : Nat) (s : State) : State :=
  let last := (lastStep s c).toNat
  let un := hasUnmapped s c
  let s := completeAwaits c (if un then 0x1E else 0x1D) (toBytes last 4) s
  postEvent 0x0211 (core0 s c) (some c) last (b2n un) 0 0 s

/-! ### Scrub, fence, re-map (R36 to R40) -/

/-- An engine after a scrub: both planes 0, the identity map with row 64 as benchmark row, λ 1, the LFSR 0xFFFF
(R51, R80, R100, R101). Calibration results stay. -/
def scrubOte (now : Nat) (o : Ote) : Ote :=
  { o with live := {}, shadow := {}, queue := [], copying := false, wbuf := [], paused := false, map := [],
           bench := 64, ptr := 0, prio := [], phase := 0, phaseAt := now, samples := 0, sampleSet := [], idleAt := now,
           swapReady := false, swapLatched := false, void := false,
           lambdaF := 0x0100, lambdaT := 0x0100, histF := [], histT := [], lfsr := 0xFFFF, shadowQ := [],
           slotAt := now }

/-- A scrub: SRAM zeroed, queues emptied and their counts zeroed, planes and maps reset (R36, R51). -/
def scrubCore (g : Nat) (s : State) : State :=
  updCore g (fun c => { c with
    ueLines := []
    queues := c.queues.map fun p => (p.1, { p.2 with toks := [], ovf := 0, rej := 0, ovfPend := false })
    engines := c.engines.map fun p => (p.1, scrubOte s.now p.2) })
    { s with mem := s.mem.zero (sramKey g 0) 16777216 }

/-- The FREE core that replaces a fenced one: lowest in its cluster, else its half, else the other (R39). -/
def replacement (s : State) (g : Nat) : Option Nat :=
  let free := (List.range 144).filter fun x => (core s x).state = .free
  match free.find? fun x => coreCode x = coreCode g with
  | some x => some x
  | none => match free.find? fun x => coreHalf x = coreHalf g with
    | some x => some x
    | none => free.head?

/-- A fenced core of a context replaced in the context core table, or its virtual core unmapped (R39). -/
def remap (c v g : Nat) (s : State) : State :=
  match replacement s g with
  | some x =>
    let s := updCtx c (fun k => { k with map := k.map.set v (some (Fin.ofNat 144 x)) }) s
    let s := updCore x (fun k => { k with state := .assigned, ctx := Fin.ofNat 4 c, gen := (ctx s c).gen, vcore := v,
                                          assignedAt := s.now }) (scrubCore x s)
    logCore g 0x02 c v g x s
  | none =>
    logCore g 0x02 c v g 0xFF (updCtx c (fun k => { k with map := k.map.set v none }) s)

/-- Entry into DEGRADED from READY when a condition of R403 arises; `mask` as R421 states. -/
def degradeMask (s : State) : Nat :=
  (if usableCores s < 128 then 1 else 0)
    + (if (List.range 12).any fun n => decide (3 ≤ (chan s n).state) then 2 else 0)
    + (if s.fab.any fun p => p.2.txRetired then 4 else 0)

/-- Steps 1 to 4 of a teardown: GEN, issue, GEN_CHANGE, drain; outstanding AWAITs end ABORTED (R187). `by_`: the ring
and tag of the command that ordered it. -/
def teardown (c : Nat) (by_ : Option (Nat × Half16 × Bool)) (s : State) : State :=
  let s := completeAwaits c 0x1C [] (disposeCtx c (genAdvance c s))
  updCtx c (fun x => { x with tearing := true, tearRing := by_ }) s

/-- Every lane dark and every pair OFF, as a FENCED module leaves its fabric (R404). -/
def darkAll (s : State) : State :=
  let dark := fun (q : Nat × LaneSt) => (q.1, if q.2.state = .failed then q.2 else { q.2 with state := .dark })
  let off := fun (q : Nat × Pair) =>
    (q.1, ({ retrains := q.2.retrains, trainFails := q.2.trainFails, replays := q.2.replays, discards := q.2.discards } : Pair))
  let one := fun (p : Nat × FabSt) => (p.1, { p.2 with tx := p.2.tx.map dark, rx := p.2.rx.map dark, pairs := p.2.pairs.map off, hand := none })
  { s with fab := s.fab.map one, link := { s.link with outs := [], xfers := [] } }

/-- Entries that no state of a FENCED module carries out complete ABORTED (R404, R405). -/
def abortHeld (s : State) : State :=
  (List.range 64).foldl (fun s r =>
    ((ring s r).inflight.filter fun e => !(ringType (ring s r) == 5 && decide (0x20 ≤ entOpcode e))).foldl (fun s e => complete r e 0x1C [] s) s) s

/-- FENCED entered for a cause of R404: contexts torn down, lanes darkened. -/
def enterFenced (cause : Nat) (s : State) : State :=
  let s := ((List.range 4).filter fun c => (ctx s c).created).foldl (fun s c => teardown c none s) s
  let s := abortHeld (darkAll { s with boot := { s.boot with state := .fenced, fenceCause := cause } })
  announceState 6 cause s

/-- A condition of R403 or of too few cores (R404) acted on. -/
def recheckState (s : State) : State :=
  if usableCores s < 64 ∧ (s.boot.state = .cal ∨ s.boot.state = .survey ∨ s.boot.state = .ready ∨ s.boot.state = .degraded) then enterFenced 4 s
  else if s.boot.state = .ready ∧ degradeMask s ≠ 0 then
    announceState 5 (degradeMask s) { s with boot := { s.boot with state := .degraded } }
  else s

/-- One core of a group being fenced: sampled, isolated, on the fence list, 0x8001 with the GEN after the rewind's advance (log 93). -/
def fenceMark (cause : Nat) (k : CoreSt) (g : Nat) (s : State) : State :=
  let owned := k.state = .assigned
  let s := sampleSet 0 4 g owned s.time.ns.toNat [g] s
  let s := updCore g (fun k => { k with state := .fenced, fenceCause := BitVec.ofNat 8 cause, vcore := 0, gen := 0,
                                        ctx := 0 }) s
  let s := { s with idb := { s.idb with fenceList := Tbl.set s.idb.fenceList g (BitVec.ofNat 8 cause) } }
  logCore g 0x01 cause (if owned then k.ctx.val else 0xFF) (if owned then k.gen.toNat else 0) 0 s

/-- A fence trigger on a core whose domain resets: the core joins the fence list and is fenced at the release (R338). -/
def fenceLater (cause : Nat) (s : State) (g : Nat) : State :=
  let one := fun (x : ResetRun) => if (domainCores x.kind x.index).contains g then { x with remap := (g :: x.remap).dedup } else x
  { s with idb := { s.idb with fenceList := Tbl.set s.idb.fenceList g (BitVec.ofNat 8 cause) }, rst := { s.rst with runs := s.rst.runs.map one } }

/-- The cores of a group isolated and re-mapped, the contexts' work disposed of (R36, R39). -/
def fenceNow (gs : List Nat) (cause : Nat → Nat) (s : State) : State :=
  let was := gs.map fun g => (g, core s g)
  let own := was.filter fun p => p.2.state = .assigned
  let s := was.foldl (fun s p => fenceMark (cause p.1) p.2 p.1 (disposeCore p.1 s)) s
  own.foldl (fun s p => remap p.2.ctx.val p.2.vcore p.1 s) s

/-- Contexts that own a core of a group. -/
def ownersOf (s : State) (gs : List Nat) : List Nat :=
  ((gs.filter fun g => (core s g).state = .assigned).map fun g => (core s g).ctx.val).dedup

/-- Cores fenced together (R36, R37): streams stopped, each sampled and isolated, and every context that owned one
re-mapped and rewound once (R39, R40). Cores in a domain that resets wait for its release (R338). -/
def fenceCores (gs : List Nat) (cause : Nat) (s : State) : State :=
  let gs := gs.filter fun g => (core s g).state ≠ .absent ∧ (core s g).state ≠ .fenced
  let s := (gs.filter (coreResets s)).foldl (fenceLater cause) s
  let gs := gs.filter fun g => coreResets s g = false
  let cs := ownersOf s gs
  let s := cs.foldl (fun s c => disposeCtx c (genAdvance c s)) s
  let s := fenceNow gs (fun _ => cause) s
  let s := (cs.filter fun c => ctxResets s c = false).foldl (fun s c => reportRewound c s) s
  if gs.isEmpty then s else recheckState s

/-- One core fenced. -/
def fenceCore (g cause : Nat) (s : State) : State := fenceCores [g] cause s

/-- A rewind of a context that fences no core (R40, R342); a running reset of it takes its place (R338). -/
def rewind (c : Nat) (s : State) : State := if ctxResets s c then s else reportRewound c (disposeCtx c (genAdvance c s))

end Sys2Proof.Machine
end

