-- ==== Sys2Proof/Machine/Protect.lean ====
section
/-! DEFINITION. The protection of DDR: device states, correction, reconstruction and poison of a unit (R153, R154, R157). -/

namespace Sys2Proof.Machine

/-! ### Device states (R157) -/

/-- Nanoseconds in an hour. -/
def hourNs : Nat := 3600000000000

/-- Events of a list within a window that ends now. -/
def within (now win : Nat) (l : List Nat) : Nat := (l.filter fun t => now < t + win).length

/-- Reconstructions of a channel in 24 h, and corrected bursts in the last hour. -/
def recon24 (s : State) (n : Nat) : Nat := within s.now (24 * hourNs) (chan s n).reconAt
def ce1 (s : State) (n : Nat) : Nat := within s.now hourNs (chan s n).ceAt

/-- The source of a channel's records. -/
def ddrSrc (n : Nat) : Nat := 0x0B00 + n

/-- RETIRE_REQUEST, once for a device. -/
def retireRequest (n : Nat) (s : State) : State :=
  if (chan s n).retirePosted then s
  else postEvent 0x0213 (ddrSrc n) none n (chan s n).state 0 0 (updChan n (fun k => { k with retirePosted := true }) s)

/-- A device declared failed (R157): 0x0B07, its reads served by reconstruction. One that migrates goes on migrating (log 109). -/
def failDevice (n cause : Nat) (s : State) : State :=
  if 5 ≤ (chan s n).state ∨ (chan s n).dead then s
  else if (chan s n).state = 4 then updChan n (fun k => { k with dead := true }) s
  else recheckState (retireRequest n (logRec 0x0B07 (ddrSrc n) n cause 0 0 (updChan n (fun k => { k with state := 3, dead := true }) s)))

/-- Whether the request threshold of corrected bursts holds: above 10,000 in each of the last three hours. -/
def ceRequest (now : Nat) (l : List Nat) : Bool :=
  (List.range 3).all fun i => decide (10000 < within now ((i + 1) * hourNs) l - within now (i * hourNs) l)

/-- Whether a threshold of R157 holds now. -/
def overThreshold (s : State) (n : Nat) : Bool :=
  decide (4 ≤ recon24 s n) || decide (2500 < ce1 s n) || ceRequest s.now (chan s n).ceAt

/-- The thresholds of R157 applied to a channel after an event. -/
def thresholds (n : Nat) (s : State) : State :=
  let k := chan s n
  let r := recon24 s n
  let c := ce1 s n
  if 16 ≤ within s.now 1000000 k.reconAt then failDevice n 2 s
  else if 16 ≤ r ∨ ceRequest s.now k.ceAt then
    let s := updChan n (fun k => { k with crossedAt := s.now }) s
    if k.state ≤ 1 then
      retireRequest n (logRec 0x0B04 (ddrSrc n) n r c 0 (updChan n (fun k => { k with state := 2 }) s))
    else s
  else if 4 ≤ r ∨ 2500 < c then
    let s := updChan n (fun k => { k with crossedAt := s.now }) s
    if k.state = 0 then logRec 0x0B01 (ddrSrc n) n r c 0 (updChan n (fun k => { k with state := 1 }) s) else s
  else s

/-! ### Correction (R153, R154) -/

/-- A unit poisoned: DDR_CH_UE and 0x0B03. -/
def poisonUnit (u cause : Nat) (s : State) : State :=
  if s.ddr.poison.contains u then s
  else
    let n := chanOf s u
    let s := updChan n (fun k => { k with ue := incSat k.ue 1 }) s
    let s := { s with ddr := { s.ddr with poison := u :: s.ddr.poison } }
    logRec 0x0B03 (ddrSrc n) n u cause (chan s n).ue.toNat s

/-- A parity unit that cannot be reconstructed: it has no offset, so the record's is a free value (log 109). -/
def poisonParity (st : Nat) (ds : List Nat) (s : State) : State :=
  let key := st * (ds.length - 1)
  let n := parityDev ds st
  if s.ddr.badParity.contains key then s
  else
    let x := drawFree 14 s
    let s := updChan n (fun k => { k with ue := incSat k.ue 1 }) x.2
    let s := { s with ddr := { s.ddr with badParity := key :: s.ddr.badParity } }
    logRec 0x0B03 (ddrSrc n) n x.1 1 (chan s n).ue.toNat s

/-- Whether a stripe's data units but `u`, and its parity unless that is what is rebuilt, can all be read. -/
def stripeWhole (s : State) (ds : List Nat) (st : Nat) (u : Option Nat) : Bool :=
  let skip := match u with
    | some v => unitDev ds v
    | none => parityDev ds st
  (ds.all fun d => d == skip || !(chan s d).dead)
    && ((stripeUnits ds st).all fun v => some v == u || !s.ddr.poison.contains v)
    && (u.isNone || !s.ddr.badParity.contains (st * (ds.length - 1)))

/-- A burst corrected: the unit is written back and the event counted. -/
def burstCorrect (n : Nat) (s : State) : State :=
  thresholds n (countDdr n 3 (countDdr n 6 (updChan n (fun k =>
    { k with ce := incSat k.ce 1, ceAt := s.now :: k.ceAt.filter fun t => s.now < t + 3 * hourNs }) s)))

/-- A unit rebuilt from the others of its stripe: N − 1 reads, the write back, DDR_CH_RECON, 0x0B02. `p1`: the record's offset. -/
def rebuild (ds : List Nat) (n p1 : Nat) (s : State) : State :=
  let s := countDdr n 3 (countReads (ds.filter fun d => d ≠ n) s)
  let s := countDdr n 7 (updChan n (fun k =>
    { k with recon := incSat k.recon 1, reconAt := s.now :: k.reconAt.filter fun t => s.now < t + 24 * hourNs }) s)
  thresholds n (logRate (0x0B02 * 4096 + n) 1000000000 0x0B02 (ddrSrc n) n p1 0 (chan s n).recon.toNat s)

/-- A unit that the burst code cannot correct: reconstructed from the rest of its stripe, or poisoned. `alone`: no other unit of the stripe
turned out bad on the way. -/
def unitBad (u : Nat) (alone : Bool) (s : State) : State :=
  let ds := devices s (256 * u)
  if alone ∧ stripeWhole s ds (stripeOf ds u) (some u) then rebuild ds (chanOf s u) u s else poisonUnit u 1 s

/-- How a unit read comes out. A poisoned unit goes on failing; a unit of a FAILED device is reconstructed. -/
def readUnit (u : Nat) (res : BurstResult) (s : State) : State :=
  let n := chanOf s u
  if s.ddr.poison.contains u then countDdr n 2 s
  else if (chan s n).dead then unitBad u (res != .badTwo) s
  else
    let s := countDdr n 2 s
    match res with
    | .clean => s
    | .corrected => burstCorrect n s
    | .bad => unitBad u true s
    | .badTwo => unitBad u false s

/-- How the read of a stripe's parity unit comes out. -/
def readParity (st : Nat) (ds : List Nat) (res : BurstResult) (s : State) : State :=
  let n := parityDev ds st
  let x := drawFree 14 s
  let bad := fun (alone : Bool) (s : State) =>
    if alone ∧ stripeWhole s ds st none then parityGood st ds (rebuild ds n x.1 s) else poisonParity st ds s
  if s.ddr.badParity.contains (st * (ds.length - 1)) then countDdr n 2 s
  else if (chan s n).dead then bad (res != .badTwo) x.2
  else match res with
    | .clean => countDdr n 2 s
    | .corrected => burstCorrect n (countDdr n 2 s)
    | .bad => bad true (countDdr n 2 x.2)
    | .badTwo => bad false (countDdr n 2 x.2)

/-- Whether a unit is held in the gather buffer, which then answers its reads (R152). -/
def gathered (s : State) (u : Nat) : Bool := s.ddr.gather.any fun g => g.units.any fun p => p.1 = u

/-! ### Guard regions (R159) -/

/-- A guard region's base and size in pages. -/
def guardAt (set : Tbl Word) (g : Nat) : Nat × Nat :=
  (fld (Tbl.get 0 set (0x100 + 8 * g)) 0 19, fld (Tbl.get 0 set (0x104 + 8 * g)) 0 19)

/-- A guard region refusal's record. -/
def guardLog (g c off write : Nat) (s : State) : State := logRec 0x0B08 (0x0B20 + g) g c (off / 256) write s

/-- Stripes of the gather buffer with a unit in a range are written. -/
def flushIn (lo hi : Nat) (s : State) : State :=
  (s.ddr.gather.filter fun g => g.units.any fun p => decide (lo ≤ 256 * p.1 ∧ 256 * p.1 < hi)).foldl (fun s g => flushStripe g s) s

/-- A range of DDR zeroed with full-stripe writes (R159). -/
def zeroRange (a n : Nat) (s : State) : State :=
  let s := stripeRange (devices s a) (a / 256) ((a + n) / 256) (flushIn a (a + n) (copyAhead a n s))
  { s with mem := s.mem.zero a n, ddr := { s.ddr with poison := s.ddr.poison.filter fun u => ¬ (a ≤ 256 * u ∧ 256 * u < a + n) } }

/-- A guard region of the set in force zeroed. -/
def zeroGuard (s : State) (g : Nat) : State :=
  let x := guardAt s.hst.force g
  if x.2 = 0 then s else zeroRange (x.1 * 2097152) (x.2 * 2097152) s

/-- A region that waits for its zeroing is zeroed. -/
def zeroWaiting (x : Nat × Nat × Nat) (s : State) : State :=
  zeroRange x.2.1 x.2.2 { s with ddr := { s.ddr with zeroing := s.ddr.zeroing.erase x } }

/-- Before a context's access to a range, the regions in it that wait for their zeroing are zeroed (R159, log 39). -/
def clearFirst (a len : Nat) (s : State) : State :=
  match memOf a with
  | .ddr off =>
    (s.ddr.zeroing.filter fun x => off < x.2.1 + x.2.2 ∧ x.2.1 < off + len).foldl (fun s x => zeroWaiting x s) s
  | _ => s

/-! ### Ranges read -/

/-- The units of a range of memory read, where it lies in DDR. -/
def readRange (a len : Nat) (s : State) : State :=
  match memOf a with
  | .ddr off => (rangeUnits off len).foldl (fun s p => if gathered s p.1 then s else readUnit p.1 .clean s) s
  | _ => s

end Sys2Proof.Machine
end

