-- ==== Sys2Proof/Machine/Operands.lean ====
section
/-! DEFINITION. Operand forms: device addresses and their checks (R147, R148, R35, R159, R195), rows, instruction
words and their reserved bits (R112 to R118), stream faults (R126, R127), issue, SEC-DED findings (R21, R22). -/

namespace Sys2Proof.Machine

/-! ### Addresses -/

/-- What an address check refuses with: SPACE, ADDRESS, XCTX, a cistern window, a host window, a guard region. -/
inductive AccErr
  | space | address | xctx
  | cwindow (c off : Nat)
  | hwindow
  | guard (g off : Nat)
  deriving DecidableEq, Repr

/-- Where an access goes: memory of this module or its host by memory address, or a peer by its inner address (the
DA it names at the peer, with core fields virtual). -/
inductive Place
  | here (a : Nat)
  | peer (m : Nat) (inner : Nat)
  deriving DecidableEq, Repr

/-- A requester: its context, whether core fields name virtual cores, its protection set, and the rings whose host
windows it may use. -/
structure Who where
  ctx : Option Nat
  virt : Bool
  set : Tbl Word
  rings : List Nat

/-- A stream of a context: windows bound to any ring bound to the context (R195). -/
def whoStream (s : State) (c : Nat) (ed : Half16) : Who :=
  let set := protSet s ed
  ⟨some c, true, set, (List.range 64).filter fun r => ringCtx set r = some c⟩

/-- Whether a range lies in a cistern window of the context (R35). -/
def inWindow (s : State) (c code off len : Nat) : Bool :=
  (List.range 4).any fun w =>
    let v := Tbl.get 0 (clu s code).cwin w
    bit v 31 && decide (fld v 28 2 = c) && decide (fld v 0 11 * 65536 ≤ off)
      && decide (off + len ≤ (fld v 0 11 + fld v 16 11) * 65536)

/-- The guard region of a set that a DDR range touches and whose mask lacks the context (R159). -/
def guardHit (set : Tbl Word) (c off len : Nat) : Option Nat :=
  (List.range 16).find? fun g =>
    let b := fld (Tbl.get 0 set (0x100 + 8 * g)) 0 19 * 2097152
    let w := Tbl.get 0 set (0x104 + 8 * g)
    let z := fld w 0 19 * 2097152
    0 < z ∧ 0 < len ∧ off < b + z ∧ b < off + len ∧ bit w (28 + c) = false

/-- A host window's bus base and size in bytes. -/
def winBase (set : Tbl Word) (w : Nat) : Nat :=
  (Tbl.get 0 set (0x1000 + 16 * w)).toNat / 4096 * 4096 + (Tbl.get 0 set (0x1004 + 16 * w)).toNat * 0x100000000
def winSize (set : Tbl Word) (w : Nat) : Nat :=
  ((Tbl.get 0 set (0x1008 + 16 * w)).toNat + fld (Tbl.get 0 set (0x100C + 16 * w)) 0 8 * 0x100000000) * 4096

/-- Whether a window is bound to a ring in a set (KEEPER_RBIND_r). -/
def winBound (set : Tbl Word) (r w : Nat) : Bool :=
  let v := Tbl.get 0 set (0x200 + 4 * r)
  decide (fld v 0 8 ≤ w) && decide (w < fld v 0 8 + fld v 16 9)

/-- The physical core that a core field names, by virtual number for a context (R34, R148). -/
def coreNamed (s : State) (w : Who) (n : Nat) : Except AccErr Nat :=
  match w.virt, w.ctx with
  | true, some c =>
    match (ctx s c).map[n]? with
    | none => .error .xctx
    | some none => .error .address
    | some (some g) => .ok g.val
  | _, _ =>
    if (core s n).state = .absent ∨ (core s n).state = .fenced then .error .address else .ok n

/-- An access of `len` bytes within the local spaces 0 to 4 and the others' refusals (R147, R148). -/
def checkLocal (s : State) (w : Who) (da len : Nat) (write : Bool) : Except AccErr Place :=
  match bits da 60 4 with
  | 0 =>
    let off := bits da 0 60
    if userLimit s < off + len then .error .address
    else match w.ctx with
      | some c => match guardHit w.set c off len with
        | some g => .error (.guard g off)
        | none => .ok (.here off)
      | none => .ok (.here off)
  | 1 =>
    let off := bits da 0 27
    if bits da 27 29 ≠ 0 ∨ 0x6000000 < off + len then .error .address
    else match w.ctx with
      | some c =>
        if inWindow s c (bits da 56 4) off len then .ok (.here (cisternKey (bits da 56 4) off))
        else .error (.cwindow (bits da 56 4) off)
      | none => .ok (.here (cisternKey (bits da 56 4) off))
  | 2 =>
    let off := bits da 0 24
    if bits da 24 28 ≠ 0 ∨ 9 ≤ bits da 52 4 ∨ 0x1000000 < off + len then .error .address
    else match coreNamed s w (bits da 59 1 * 72 + bits da 56 3 * 9 + bits da 52 4) with
      | .ok g => .ok (.here (sramKey g off))
      | .error x => .error x
  | 4 =>
    let n := bits da 52 8
    let off := bits da 0 52
    if winSize w.set n = 0 ∨ winSize w.set n < off + len
        ∨ bit (Tbl.get 0 w.set (0x100C + 16 * n)) (if write then 30 else 31) = false
        ∨ w.rings.any (fun r => winBound w.set r n) = false then .error .hwindow
    else .ok (.here (hostKey (winBase w.set n + off)))
  | _ => .error .space

/-- The local form of a peer's inner address (R147). -/
def innerDa (da : Nat) : Nat :=
  match bits da 53 2 with
  | 0 => bits da 0 40
  | 1 => 0x1000000000000000 + bits da 49 4 * 0x100000000000000 + bits da 0 27
  | _ => 2 * 0x1000000000000000 + bits da 49 4 * 0x100000000000000 + bits da 45 4 * 0x10000000000000 + bits da 0 24

/-- The form checks of a peer's inner address: zero bits, core field, offset beyond its space. -/
def innerOk (da len : Nat) : Bool :=
  match bits da 53 2 with
  | 0 => decide (bits da 40 13 = 0)
  | 1 => decide (bits da 27 22 = 0) && decide (bits da 0 27 + len ≤ 0x6000000)
  | _ => decide (bits da 24 21 = 0) && decide (bits da 45 4 < 9) && decide (bits da 0 24 + len ≤ 0x1000000)

/-- An access of `len` bytes at a device address (R148). A peer address that names this module is local. -/
def checkAt (s : State) (w : Who) (da len : Nat) (write : Bool) : Except AccErr Place :=
  if bits da 60 4 = 8 then
    if bits da 53 2 = 3 then .error .space
    else if innerOk da len = false then .error .address
    else if bits da 55 5 = s.steer.slot then checkLocal s w (innerDa da) len write
    else .ok (.peer (bits da 55 5) (innerDa da))
  else checkLocal s w da len write

/-- The device addresses of `rows` rows. -/
def rowAddrs (base rows stride : Nat) : List Nat := (List.range rows).map fun r => base + r * stride

/-- Every row checked; the first refusal in row order, with its address. -/
def checkRows (s : State) (w : Who) (as : List Nat) (len : Nat) (write : Bool) : Option (AccErr × Nat) :=
  as.findSome? fun a =>
    if 0x10000000000000000 ≤ a then some (.address, a)
    else match checkAt s w a len write with
      | .error e => some (e, a)
      | .ok _ => none

/-- The place of an address that has passed its check. -/
def placeOf (s : State) (w : Who) (da len : Nat) (write : Bool) : Option Place :=
  match checkAt s w da len write with
  | .ok p => some p
  | .error _ => none

/-! ### SEC-DED findings (R21, R22) and poison (R154) -/

/-- A corrected word counted (R21, R22), or a burst (R153). -/
def eccCorrected (a : Nat) (s : State) : State :=
  match memOf a with
  | .ddr off => burstCorrect (chanOf s (off / 256)) s
  | .sram g _ => countCore g 0x17 0 (updCore g (fun k => { k with eccCe := incSat k.eccCe 1 }) s)
  | .cistern c _ => updClu c (fun k => { k with cisternCe := incSat k.cisternCe 1 }) s
  | _ => s

/-- Whether a double-bit error counted now in a line of a core makes the fence trigger of R37. -/
def ueTrigger (hist : List (Nat × Nat)) (now line : Nat) : Bool :=
  hist.any (fun p => p.2 == line)
    || decide (2 ≤ ((hist.filter fun p => now ≤ p.1 + 3600000000000 ∧ p.2 ≠ line).map Prod.snd).dedup.length)

/-- A double-bit error met by a read: counted, recorded and logged the first time in a line, and on each read the
fault bit set (R21, R22). -/
def eccDouble (a : Nat) (s : State) : State :=
  match memOf a with
  | .sram g off =>
    let line := off / 128 * 128
    let s := coreFault g 0 s
    let k := core s g
    if line ∈ k.ueLines then s
    else
      let s := setCore g { k with eccUe := incSat k.eccUe 1, eccAddr := BitVec.ofNat 32 (0x80000000 + line),
                                  ueLines := line :: k.ueLines, ueHist := (s.now, line) :: k.ueHist } s
      let s := logCore g 0x05 line 0 (core s g).eccUe.toNat 0 s
      if ueTrigger k.ueHist s.now line then fenceCore g 1 s else s
  | .cistern c off =>
    let line := off / 128 * 128
    let s := cluFault c 1 s
    let k := clu s c
    if line ∈ k.ueLines then s
    else
      let s := setClu c { k with cisternUe := incSat k.cisternUe 1, ueLines := line :: k.ueLines } s
      logClu c 0x05 line 1 (clu s c).cisternUe.toNat 0 s
  | _ => s

/-- The first address of a range that reads as uncorrectable or poisoned. -/
def badByte (s : State) (a len : Nat) : Option Nat :=
  match memOf a with
  | .ddr off => ((s.ddr.poison.filter fun u => off < 256 * u + 256 ∧ 256 * u < off + len).map fun u =>
      max off (256 * u)).min?
  | .cistern c off => (((clu s c).ueLines.filter fun l => off < l + 128 ∧ l < off + len).map fun l =>
      a + (max off l - off)).min?
  | .sram g off => (((core s g).ueLines.filter fun l => off < l + 128 ∧ l < off + len).map fun l =>
      a + (max off l - off)).min?
  | .host _ => none

/-- A range read by a unit that then judges its bytes: units of DDR come out as their codes say, a line that cannot be read is found. -/
def readNoted (a n : Nat) (s : State) : State :=
  let s := readRange a n s
  match badByte s a n with
  | some z => eccDouble z s
  | none => s

/-- The memory address that an ECC finding names, in the memory that holds `a`. -/
def eccAddrOf (a off : Nat) : Nat :=
  match memOf a with
  | .sram g _ => sramKey g off
  | .cistern c _ => cisternKey c off
  | .ddr _ => off
  | .host _ => a

/-- A finding applied to the memory that holds `a`: the address of an uncorrectable one, and the state. A unit of DDR beyond the burst code is
reconstructed, or poisoned (R153); host memory has none of the module's codes. -/
def applyEcc (a : Nat) (ecc : Ecc) (s : State) : Option Nat × State :=
  match memOf a, ecc with
  | _, .clean => (none, s)
  | .host _, _ => (none, s)
  | _, .corrected off => (none, eccCorrected (eccAddrOf a off) s)
  | .ddr _, .double off =>
    let s := unitBad (off / 256) true s
    (if s.ddr.poison.contains (off / 256) then some off else none, s)
  | _, .double off => (some (eccAddrOf a off), eccDouble (eccAddrOf a off) s)

/-! ### Stream faults (R126 to R128) -/

/-- A stream fault recorded. Only the first of a FAULTED stream is kept; a further one is logged alone (R126). A pending START is
discarded with 0x0105 (R211), an arrival at MODESYNC withdrawn (log 107). -/
def strFault (g st cause info : Nat) (atIssue : Bool) (opc : Nat) (fpc : Word) (s : State) : State :=
  let s := withdrawSync g st s
  let r := strm s g st
  let s := logCore g 0x40 st cause fpc.toNat info s
  let s := if r.pending then enableLost (coreBase g + 0x200 + 0x100 * st) 31 4 s else s
  if r.state = .faulted then setStrm g st { r with pending := false } s
  else
    let k := core s g
    let s := setStrm g st { r with
      state := .faulted, pending := false, stall := 0, stallQ := 0,
      fault := BitVec.ofNat 32 (b2n atIssue * 65536 + opc * 256 + cause),
      faultPc := fpc, faultInfo := BitVec.ofNat 32 info } s
    if k.state = .assigned then
      let s := completeAwaits k.ctx.val 0x1F (toBytes k.vcore 4 ++ toBytes st 1 ++ toBytes cause 1) s
      postEvent 0x0212 g (some k.ctx.val) k.vcore st cause fpc.toNat s
    else s

/-- A refusal of an address as a stream reports it: cause and info, with the window and guard reports (R35, R159). -/
def accFault (g st : Nat) (x : AccErr) (da : Nat) (write : Bool) (opc : Nat) (fpc : Word) (s : State) : State :=
  let c := (core s g).ctx.val
  match x with
  | .space => strFault g st 7 0 true opc fpc s
  | .address => strFault g st 6 da true opc fpc s
  | .xctx => strFault g st 9 0 true opc fpc (coreFault g 6 s)
  | .cwindow k off =>
    strFault g st 8 da true opc fpc (logCore g 0x06 k off c 0 (cluFault k 2 (coreFault g 5 s)))
  | .hwindow => strFault g st 8 da true opc fpc s
  | .guard n off => strFault g st 8 da true opc fpc (guardLog n c off (b2n write) s)

/-- A long instruction that faults during execution: it ends, the fault is recorded (R127, R128). -/
def execFault (g st : Nat) (op : LongOp) (cause info : Nat) (s : State) : State :=
  strFault g st cause info false (fld op.word 0 8) op.pc
    (updStrm g st (fun r => { r with outst := r.outst.erase op }) s)

/-! ### Instruction words (R112 to R118) -/

/-- The stream that owns an opcode (R109, R113): none for a common one; undefined opcodes answer 5. -/
def opcodeStream (o : Nat) : Option Nat :=
  if o ≤ 5 ∨ (7 ≤ o ∧ o ≤ 10) then none
  else if o = 0x10 then some 0
  else if o = 0x20 ∨ o = 0x21 then some 3
  else if 0x30 ≤ o ∧ o ≤ 0x33 then some 1
  else if 0x40 ≤ o ∧ o ≤ 0x46 then some 2
  else some 5

/-- A run of ones: bits `lo` to `hi`. -/
def ones (hi lo : Nat) : Nat := 2 ^ (hi + 1) - 2 ^ lo

/-- The bits an instruction's field map names (R114 to R118). -/
def namedBits (o : Nat) : Nat :=
  if o = 2 then ones 15 0
  else if o = 3 then ones 16 0 + ones 63 32
  else if o = 4 then ones 15 0 + ones 31 24
  else if o = 5 then ones 11 0 + ones 16 16 + ones 63 32
  else if o = 7 then ones 24 0 + ones 63 32
  else if o = 8 then ones 7 0 + ones 23 12 + ones 63 32
  else if o = 9 then ones 11 0 + ones 23 16
  else if o = 0x10 then ones 111 0
  else if o = 0x20 then ones 120 0
  else if o = 0x21 then ones 7 0 + ones 15 12
  else if o = 0x30 then ones 35 0
  else if o = 0x31 then ones 95 0
  else if o = 0x32 then ones 9 0
  else if o = 0x33 then ones 15 0
  else if 0x40 ≤ o ∧ o ≤ 0x46 then ones 69 0 + ones 107 72
  else ones 7 0

/-- The lowest set bit of a number below 2¹²⁸. -/
def lowestBit (v : Nat) : Nat := ((List.range 128).find? fun i => bits v i 1 = 1).getD 0

/-- The reserved bits of a word that are set. -/
def reservedSet (w : IWord) : Nat := w.toNat &&& (2 ^ 128 - 1 - namedBits (fld w 0 8))

/-- A stream held at issue with a STALL code. -/
def stallAt (g st code q : Nat) (s : State) : State :=
  updStrm g st (fun r => { r with stall := code, stallQ := q, stallAt := if r.stall = code then r.stallAt else s.now,
                                  stall0 := if r.stall0 = 0 then code else r.stall0 }) s

/-- The front of every instruction: the stream is RUNNING and not held by a stall that has its own resume row, the
word is in the fetch buffer (else STALL 6), and the checks of R127 order 2 pass: ILLEGAL, STREAM, RESERVED. A
word of another opcode is not this command's (log 2). -/
def front (opc : Nat) (g st : Nat) (s : State) (body : Stream → IWord → State) : State :=
  let r := strm s g st
  if r.state ≠ .running ∨ r.stall = 1 ∨ r.stall = 2 ∨ r.stall = 3 ∨ r.stall = 5 then s
  else match fetched r with
    | none => stallAt g st 6 0 s
    | some w =>
      let o := fld w 0 8
      if opcodeStream o = some 5 then strFault g st 1 0 true o r.pc s
      else if opcodeStream o ≠ none ∧ opcodeStream o ≠ some st then strFault g st 2 0 true o r.pc s
      else if reservedSet w ≠ 0 then strFault g st 3 (lowestBit (reservedSet w)) true o r.pc s
      else if o ≠ opc then s
      else body r w

/-- Whether every earlier long instruction of the stream has completed (R119). -/
def quiet (s : State) (g st : Nat) : Bool := outstanding (core s g) st == 0

/-- A release instruction: held with STALL 3 until earlier long instructions complete (R119). -/
def release (g st : Nat) (s : State) (act : State) : State := if quiet s g st then act else stallAt g st 3 0 s

/-- Whether every stream of a core is STOPPED, HALTED or FAULTED with nothing outstanding (R30). -/
def coreQuiet (s : State) (g : Nat) : Bool :=
  (List.range 4).all fun st =>
    let r := strm s g st
    (r.state == .stopped || r.state == .halted || r.state == .faulted) && outstanding (core s g) st == 0

end Sys2Proof.Machine
end

