-- ==== Sys2Proof/Machine/Reset0.lean ====
section
/-! DEFINITION. Which register blocks are held in reset (R201, R397), and the record of a write that meets one. -/

namespace Sys2Proof.Machine

/-- Whether a reset running in phase 5 clears the domain of a HALF block offset (R336, R201). -/
def domainHeld (s : State) (off : Nat) : Bool :=
  let half := if 0xC00000 ≤ off then 1 else 0
  let c := off % 0x400000 / 0x80000
  let k := off % 0x80000 / 0x8000
  s.rst.runs.any fun x => x.phase == 5 &&
    (x.kind == 4 || (x.kind == 3 && x.index == half) || (x.kind == 2 && x.index == 8 * half + c)
      || (x.kind == 1 && decide (1 ≤ k) && x.index == codeCore (8 * half + c) (k - 1)))

/-- Whether a FAB block's register is one of a pair whose FABRIC-LANE domain is held (R334, R336). -/
def pairHeld (s : State) (off : Nat) : Bool :=
  let o := off % 0x10000
  decide (0x100000 ≤ off ∧ off < 0x200000 ∧ 0x1000 ≤ o ∧ o < 0x1200)
    && s.rst.runs.any fun x => x.phase == 5 && x.kind == 5 && x.index == 16 * (off / 0x10000 - 0x10) + (o - 0x1000) / 0x20

/-- Whether the block of a BAR0 offset is held in reset: before BOOT step 8 every block but ID and UPD (R397); in
FENCED all but ID, UPD, LOG, KEEPER, RING and MSIX, and DDR for causes 4 and 5 (R404). The power-fail action sheds the
halves' clocks (R383). -/
def blockHeld (s : State) (off : Nat) : Bool :=
  let b := off / 0x10000
  match s.boot.state with
  | .off => true
  | .boot => !(b == 1 || b == 0xA)
  | .fenced => !(b == 0 || b == 1 || b == 2 || b == 3 || b == 5 || b == 0xA || (b == 0xB && 4 ≤ s.boot.fenceCause))
  | _ => (decide (0x800000 ≤ off) && (s.pwr.failing.isSome || domainHeld s off)) || pairHeld s off

/-- A write to a block held in reset: discarded, 0x0104 at most once per ms (R201, R213). -/
def heldWrite (off : Nat) (v : Word) (s : State) : State :=
  logRate 0x0104 1000000 0x0104 (blockSrc off) off v.toNat 0 0 s

/-- A write to a core's register that its row carries out: discarded in a held block, ignored on an unpowered core
(R201). -/
def coreWrite (g off : Nat) (v : Word) (s : State) (act : State) : State :=
  if blockHeld s (coreBase g + off) then heldWrite (coreBase g + off) v s
  else if (core s g).state = .absent ∨ (core s g).state = .fenced then s
  else act

/-- A write to a cluster's register that its row carries out. -/
def cluWrite (c off : Nat) (v : Word) (s : State) (act : State) : State :=
  if blockHeld s (cluBase c + off) then heldWrite (cluBase c + off) v s else act

end Sys2Proof.Machine
end

