-- ==== Sys2Proof/Machine/Codec.lean ====
section
/-! DEFINITION. The bytes of checkpoint images (R317 to R323): granule records, how a decoder reads their payloads, and the SHA-512 that digests are. -/

namespace Sys2Proof.Machine

/-! ### SHA-512 (FIPS 180-4, which R317, R412 and R419 name by its name only) -/

/-- The round constants. -/
def shaK : List Nat :=
  [0x428A2F98D728AE22, 0x7137449123EF65CD, 0xB5C0FBCFEC4D3B2F, 0xE9B5DBA58189DBBC,
      0x3956C25BF348B538, 0x59F111F1B605D019, 0x923F82A4AF194F9B, 0xAB1C5ED5DA6D8118,
      0xD807AA98A3030242, 0x12835B0145706FBE, 0x243185BE4EE4B28C, 0x550C7DC3D5FFB4E2,
      0x72BE5D74F27B896F, 0x80DEB1FE3B1696B1, 0x9BDC06A725C71235, 0xC19BF174CF692694,
      0xE49B69C19EF14AD2, 0xEFBE4786384F25E3, 0x0FC19DC68B8CD5B5, 0x240CA1CC77AC9C65]
    ++ [0x2DE92C6F592B0275, 0x4A7484AA6EA6E483, 0x5CB0A9DCBD41FBD4, 0x76F988DA831153B5,
      0x983E5152EE66DFAB, 0xA831C66D2DB43210, 0xB00327C898FB213F, 0xBF597FC7BEEF0EE4,
      0xC6E00BF33DA88FC2, 0xD5A79147930AA725, 0x06CA6351E003826F, 0x142929670A0E6E70,
      0x27B70A8546D22FFC, 0x2E1B21385C26C926, 0x4D2C6DFC5AC42AED, 0x53380D139D95B3DF,
      0x650A73548BAF63DE, 0x766A0ABB3C77B2A8, 0x81C2C92E47EDAEE6, 0x92722C851482353B]
    ++ [0xA2BFE8A14CF10364, 0xA81A664BBC423001, 0xC24B8B70D0F89791, 0xC76C51A30654BE30,
      0xD192E819D6EF5218, 0xD69906245565A910, 0xF40E35855771202A, 0x106AA07032BBD1B8,
      0x19A4C116B8D2D0C8, 0x1E376C085141AB53, 0x2748774CDF8EEB99, 0x34B0BCB5E19B48A8,
      0x391C0CB3C5C95A63, 0x4ED8AA4AE3418ACB, 0x5B9CCA4F7763E373, 0x682E6FF3D6B2B8A3,
      0x748F82EE5DEFB2FC, 0x78A5636F43172F60, 0x84C87814A1F0AB72, 0x8CC702081A6439EC]
    ++ [0x90BEFFFA23631E28, 0xA4506CEBDE82BDE9, 0xBEF9A3F7B2C67915, 0xC67178F2E372532B,
      0xCA273ECEEA26619C, 0xD186B8C721C0C207, 0xEADA7DD6CDE0EB1E, 0xF57D4F7FEE6ED178,
      0x06F067AA72176FBA, 0x0A637DC5A2C898A6, 0x113F9804BEF90DAE, 0x1B710B35131C471B,
      0x28DB77F523047D84, 0x32CAAB7B40C72493, 0x3C9EBE0A15C9BEBC, 0x431D67C49C100D4C,
      0x4CC5D4BECB3E42B6, 0x597F299CFC657E2A, 0x5FCB6FAB3AD6FAEC, 0x6C44198C4A475817]

/-- The first hash value. -/
def shaInit : List Nat :=
  [0x6A09E667F3BCC908, 0xBB67AE8584CAA73B, 0x3C6EF372FE94F82B, 0xA54FF53A5F1D36F1,
   0x510E527FADE682D1, 0x9B05688C2B3E6C1F, 0x1F83D9ABFB41BD6B, 0x5BE0CD19137E2179]

def word64 : Nat := 0x10000000000000000
def rotr (n x : Nat) : Nat := (x >>> n) ||| ((x <<< (64 - n)) % word64)

/-- The number that bytes spell, the first the most significant. -/
def ofBytesBE (bs : List Byte) : Nat := bs.foldl (fun n b => n * 256 + b.toNat) 0

/-- A number in `n` bytes, the most significant first. -/
def toBytesBE (x n : Nat) : List Byte := (toBytes x n).reverse

/-- The message padded: a one bit, zeros, its length in bits. -/
def shaPad (bs : List Byte) : List Byte :=
  bs ++ [0x80] ++ List.replicate ((239 - bs.length % 128) % 128) 0 ++ toBytesBE (8 * bs.length) 16

/-- The 64 further words of a block's schedule; words newest first. -/
def shaExtend : Nat → List Nat → List Nat
  | 0, w => w
  | n + 1, w =>
    let a := w.getD 1 0
    let b := w.getD 14 0
    let s1 := rotr 19 a ^^^ rotr 61 a ^^^ (a >>> 6)
    let s0 := rotr 1 b ^^^ rotr 8 b ^^^ (b >>> 7)
    shaExtend n (((s1 + w.getD 6 0 + s0 + w.getD 15 0) % word64) :: w)

/-- One round over the working values a to h. -/
def shaRound (v : List Nat) (kw : Nat × Nat) : List Nat :=
  match v with
  | [a, b, c, d, e, f, g, h] =>
    let t1 := h + (rotr 14 e ^^^ rotr 18 e ^^^ rotr 41 e) + ((e &&& f) ^^^ ((word64 - 1 - e) &&& g)) + kw.1 + kw.2
    let t2 := (rotr 28 a ^^^ rotr 34 a ^^^ rotr 39 a) + ((a &&& b) ^^^ (a &&& c) ^^^ (b &&& c))
    [(t1 + t2) % word64, a, b, c, (d + t1) % word64, e, f, g]
  | _ => v

/-- One block of 128 bytes. -/
def shaBlock (v : List Nat) (blk : List Byte) : List Nat :=
  let w := (shaExtend 64 (((List.range 16).map fun i => ofBytesBE ((blk.drop (8 * i)).take 8)).reverse)).reverse
  (v.zip ((shaK.zip w).foldl shaRound v)).map fun x => (x.1 + x.2) % word64

/-- The SHA-512 of bytes. -/
def sha512 (bs : List Byte) : List Byte :=
  let p := shaPad bs
  ((List.range (p.length / 128)).foldl (fun v i => shaBlock v ((p.drop (128 * i)).take 128)) shaInit).flatMap fun x => toBytesBE x 8

/-! ### LZ payloads (R319) -/

/-- A count of 4 bits, with the extension bytes that follow a 15. -/
def lzExt : Nat → List Byte → Option (Nat × List Byte)
  | _, [] => none
  | n, b :: bs => if b = 0xFF then lzExt (n + 255) bs else some (n + b.toNat, bs)
def lzCount (n : Nat) (bs : List Byte) : Option (Nat × List Byte) := if n = 15 then lzExt 15 bs else some (n, bs)

/-- A match copied byte by byte; the output stands newest first. -/
def lzCopy (off : Nat) : Nat → List Byte → List Byte
  | 0, out => out
  | n + 1, out => lzCopy off n (out.getD (off - 1) 0 :: out)

/-- The sequences of a payload, at most `fuel` of them, up to `len` bytes of output. -/
def lzSeqs (len : Nat) : Nat → List Byte → List Byte → Option (List Byte)
  | fuel + 1, t :: bs, out =>
    match lzCount (t.toNat / 16) bs with
    | none => none
    | some (n, bs) =>
      let out := (bs.take n).reverse ++ out
      if bs.length < n ∨ len < out.length then none
      else if out.length = len then (if t.toNat % 16 = 0 ∧ bs.length = n then some out.reverse else none)
      else match bs.drop n with
        | o0 :: o1 :: bs =>
          let off := o0.toNat + 256 * o1.toNat
          if off = 0 ∨ out.length < off then none
          else match lzCount (t.toNat % 16) bs with
            | none => none
            | some (m, bs) => lzSeqs len fuel bs (lzCopy off (m + 4) out)
        | _ => none
  | _, _, _ => none

/-- The bytes that an LZ payload decodes to; none is a decode error. -/
def lzDecode (len : Nat) (bs : List Byte) : Option (List Byte) := lzSeqs len bs.length bs []

/-! ### LZ_HUF payloads (R320) -/

/-- The code lengths of the 256 symbols. -/
def hufLens (bs : List Byte) : List Nat := (bs.take 128).flatMap fun b => [b.toNat % 16, b.toNat / 16]

/-- Whether lengths make a code: a Kraft sum of exactly 1, or one symbol of length 1. -/
def hufOk (ls : List Nat) : Bool :=
  let used := ls.filter fun l => l != 0
  used == [1] || (used.map fun l => 2 ^ (15 - l)).sum == 32768

/-- The symbols in the order of their codes: by length, then by number. -/
def hufSyms (ls : List Nat) : List Byte :=
  (List.range 16).flatMap fun l => ls.zipIdx.filterMap fun x => if x.1 = l ∧ l ≠ 0 then some (BitVec.ofNat 8 x.2) else none

/-- One symbol read: `k` bits may follow; `len` bits are being compared, whose codes begin at `first` and whose symbols at `at_`. -/
def hufSym (ls : List Nat) (syms : List Byte) : Nat → Nat → Nat → Nat → Nat → List Bool → Option (Byte × List Bool)
  | k + 1, len, code, first, at_, b :: bits =>
    let code := 2 * code + b2n b
    let n := ls.count len
    if code < first + n then (syms[at_ + code - first]?).map fun x => (x, bits)
    else hufSym ls syms k (len + 1) code (2 * (first + n)) (at_ + n) bits
  | _, _, _, _, _, _ => none

/-- `n` symbols read. -/
def hufRead (ls : List Nat) (syms : List Byte) : Nat → List Bool → Option (List Byte)
  | 0, _ => some []
  | n + 1, bits =>
    match hufSym ls syms 15 1 0 0 0 bits with
    | some (x, bits) => (hufRead ls syms n bits).map fun xs => x :: xs
    | none => none

/-- The bytes that an LZ_HUF payload decodes to: code lengths, T, the bits of T bytes of an LZ payload. -/
def lzHufDecode (len : Nat) (bs : List Byte) : Option (List Byte) :=
  let ls := hufLens bs
  if bs.length < 132 ∨ hufOk ls = false then none
  else match hufRead ls (hufSyms ls) (getN bs 128 4) (byteBits (bs.drop 132)) with
    | some lz => lzDecode len lz
    | none => none

/-! ### Granule records (R317, R318) -/

/-- A payload decoded by its METHOD: 0 RAW, 1 LZ, 2 LZ_HUF, 3 ZERO. -/
def decodeGranule (method len : Nat) (payload : List Byte) : Option (List Byte) :=
  match method with
  | 0 => if payload.length = len then some payload else none
  | 1 => lzDecode len payload
  | 2 => lzHufDecode len payload
  | 3 => if payload.isEmpty then some (List.replicate len 0) else none
  | _ => none

/-- PMAP: the poisoned units of a granule. -/
def pmapBytes (units : List Nat) : List Byte := toBytes ((List.range 256).foldl (fun n u => if units.contains u then n + 2 ^ u else n) 0) 32

/-- The 128 bytes ahead of a payload. -/
def recordHead (ix len stored method : Nat) (digest : List Byte) (poison : List Nat) : List Byte :=
  toBytes ix 4 ++ toBytes len 4 ++ toBytes stored 4 ++ toBytes method 1 ++ toBytes (b2n !poison.isEmpty) 1 ++ [0, 0] ++ digest ++ pmapBytes poison
    ++ List.replicate 16 0

end Sys2Proof.Machine
end

