-- ==== Sys2Proof/Machine/Funcs.lean ====
section
/-! DEFINITION. Enclosures of the VUN functions (R137), exact rational arithmetic rounded outwards at 512 binary places, and the FP32 results
that lie within 2 steps of them. -/

namespace Sys2Proof.Machine

/-- 1 at 512 binary places. -/
def fxOne : Nat := 2 ^ 512

/-- Division rounded up. -/
def cdiv (a b : Nat) : Nat := (a + b - 1) / b

/-- A magnitude between `lo` and `hi`, both times 2^512. -/
structure Enc where
  lo : Nat
  hi : Nat

def Enc.exact (x : Nat) : Enc := ⟨x, x⟩
def Enc.mul (a b : Enc) : Enc := ⟨a.lo * b.lo / fxOne, cdiv (a.hi * b.hi) fxOne⟩
def Enc.div (a b : Enc) : Enc := ⟨a.lo * fxOne / b.hi, cdiv (a.hi * fxOne) b.lo⟩
def Enc.add (a b : Enc) : Enc := ⟨a.lo + b.lo, a.hi + b.hi⟩
/-- A difference that is not negative. -/
def Enc.sub (a b : Enc) : Enc := ⟨a.lo - b.hi, a.hi - b.lo⟩
def Enc.one : Enc := Enc.exact fxOne
/-- Between 1 and 2: the tail of a series whose terms at least halve. -/
def Enc.tail : Enc := ⟨fxOne, 2 * fxOne⟩
/-- Below 2^−170, which is below the least FP32 magnitude. -/
def Enc.tiny : Enc := ⟨0, 2 ^ 342⟩

/-- 1 + x/d · acc. -/
def Enc.horner (x : Enc) (d : Nat) (acc : Enc) : Enc :=
  ⟨fxOne + x.lo * acc.lo / (fxOne * d), fxOne + cdiv (x.hi * acc.hi) (fxOne * d)⟩

/-- e^x for 0 ≤ x < 300: the power series of x / 4096, squared 12 times. -/
def encExp (x : Enc) : Enc :=
  let r : Enc := ⟨x.lo / 4096, cdiv x.hi 4096⟩
  let y := (List.range 80).foldr (fun n acc => Enc.horner r (n + 1) acc) Enc.tail
  (List.range 12).foldl (fun y _ => Enc.mul y y) y

/-- 1 / √(2π). -/
def encPhi0 : Enc :=
  let c := 0x662114cf50d942343f2cf1402eae38bfd3829f30512706d8c0471b4802639d2e9df8ac55447d3db723f5d3abb374e88deb14277970be1513278e993445f08cff
  ⟨c, c + 1⟩

/-- φ(x) · (x + x³/3 + x⁵/15 + …) = Φ(x) − ½ for 0 ≤ x ≤ 16. -/
def encPhi (x : Enc) : Enc :=
  let q := Enc.mul x x
  let series := (List.range 700).foldr (fun n acc => Enc.horner q (2 * n + 3) acc) Enc.tail
  let dens := Enc.div encPhi0 (encExp ⟨q.lo / 2, cdiv q.hi 2⟩)
  Enc.mul dens (Enc.mul x series)

/-- x less a part in 2^170 of it, and x. -/
def encNear (x : Nat) : Enc := ⟨x - cdiv x (2 ^ 170), x⟩

/-- The magnitude of a VUN function of ±x, x times 2^512 given (R137): EXP, RECIP, RSQRT, TANH, GELU, SILU. -/
def vunEnc (f : Nat) (neg : Bool) (x : Nat) : Enc :=
  let e := Enc.exact x
  let half := Enc.exact (fxOne / 2)
  match f with
  | 0 =>
    if 128 * fxOne ≤ x then (if neg then Enc.tiny else Enc.exact (2 ^ 700)) else if neg then Enc.div Enc.one (encExp e) else encExp e
  | 1 => Enc.div Enc.one e
  | 2 =>
    let q := 2 ^ 1536 / x
    let r := Nat.sqrt q
    ⟨r, if r * r * x = 2 ^ 1536 then r else r + 1⟩
  | 3 =>
    if 128 * fxOne ≤ x then encNear fxOne
    else
      let y := encExp (Enc.exact (2 * x))
      ⟨(y.lo - fxOne) * fxOne / (y.lo + fxOne), cdiv ((y.hi - fxOne) * fxOne) (y.hi + fxOne)⟩
  | 4 =>
    if 16 * fxOne < x then (if neg then Enc.tiny else encNear x)
    else Enc.mul e (if neg then Enc.sub half (encPhi e) else Enc.add half (encPhi e))
  | _ =>
    if 128 * fxOne ≤ x then (if neg then Enc.tiny else encNear x)
    else if neg then Enc.div e (Enc.add Enc.one (encExp e))
    else Enc.div e (Enc.add Enc.one (Enc.div Enc.one (encExp e)))

/-- The FP32 magnitude pattern next below a magnitude times 2^512; above the largest finite one the patterns go on. -/
def patDown (v : Nat) : Nat :=
  let top := Nat.log2 v
  if top < 386 then v / 2 ^ 363 else (top - 385) * 2 ^ 23 + v * 2 ^ 23 / 2 ^ top - 2 ^ 23

/-- The magnitude times 2^512 of such a pattern. -/
def patVal (p : Nat) : Nat :=
  if p < 2 ^ 23 then p * 2 ^ 363 else (2 ^ 23 + p % 2 ^ 23) * 2 ^ (362 + p / 2 ^ 23)

/-- The FP32 magnitude pattern next above. -/
def patUp (v : Nat) : Nat := if patVal (patDown v) = v then patDown v else patDown v + 1

/-- The result pattern that a draw picks out of those within 2 steps of the exact value, infinity from 2^128 on (R137, R142). -/
def patPick (x : Enc) (draw : Nat) : Nat :=
  let lo := patUp x.lo - 2
  min 0x7F800000 (lo + draw % (patDown x.hi + 3 - lo))

end Sys2Proof.Machine
end

