-- ==== Sys2Proof/Machine/Flags.lean ====
section
/-! DEFINITION. Number formats, rounding and the exception flags of the vector engine (R131 to R146), and the exact
helpers that the optical engines' output stage shares (R53, R58). -/

namespace Sys2Proof.Machine

/-- A value: (−1)^neg · m · 2^e, an infinity, or NaN. Zero has m = 0 and keeps its sign. -/
inductive Val
  | fin (neg : Bool) (m : Nat) (e : Int)
  | inf (neg : Bool)
  | nan
  deriving DecidableEq, Repr

/-- Flag bits of R141. -/
def fInvalid : BitVec 6 := 1
def fDivzero : BitVec 6 := 2
def fOverflow : BitVec 6 := 4
def fUnderflow : BitVec 6 := 8
def fSaturate : BitVec 6 := 16
def fNanin : BitVec 6 := 32

/-- A result with the flags it raised. -/
abbrev Flagged := Val × BitVec 6

/-- The binary logarithm, rounded down. -/
def ilog2 (n : Nat) : Nat := Nat.log2 n

/-- m · 2^e as an integer when e ≥ 0, m shifted right otherwise. -/
def shiftZ (m : Nat) (e : Int) : Nat := if 0 ≤ e then m * 2 ^ e.toNat else m / 2 ^ (-e).toNat

/-- Compare m₁ · 2^e₁ ≤ m₂ · 2^e₂. -/
def leMag (m₁ : Nat) (e₁ : Int) (m₂ : Nat) (e₂ : Int) : Bool :=
  let e := min e₁ e₂
  decide (m₁ * 2 ^ (e₁ - e).toNat ≤ m₂ * 2 ^ (e₂ - e).toNat)

/-- A floating-point format: stored mantissa bits, exponent of the least normal, exponent bits, the largest finite
magnitude, whether it has infinities. -/
structure Fmt where
  mb : Nat
  emin : Int
  eb : Nat
  maxM : Nat
  maxE : Int
  hasInf : Bool
  deriving DecidableEq, Repr

def fp32 : Fmt := ⟨23, -126, 8, 0xFFFFFF, 104, true⟩
def bf16 : Fmt := ⟨7, -126, 8, 0xFF, 120, true⟩
def e4m3 : Fmt := ⟨3, -6, 4, 14, 5, false⟩
def e5m2 : Fmt := ⟨2, -14, 5, 7, 13, true⟩
def e2m3 : Fmt := ⟨3, 0, 2, 15, -1, false⟩
def e3m2 : Fmt := ⟨2, -2, 3, 7, 2, false⟩
def e2m1 : Fmt := ⟨1, 0, 2, 3, 1, false⟩

/-- How a rounding goes: to nearest even, or stochastic with a 24-bit draw (R138, R139). -/
inductive Rnd
  | rne
  | sto (r : Nat)
  deriving DecidableEq, Repr

/-- m / 2^k rounded to an integer. -/
def roundShift (rnd : Rnd) (m k : Nat) : Nat :=
  let q := m / 2 ^ k
  let rem := m % 2 ^ k
  match rnd with
  | .rne =>
    if 2 * rem < 2 ^ k ∨ k = 0 then q
    else if 2 ^ k < 2 * rem then q + 1
    else if q % 2 = 1 then q + 1 else q
  | .sto r => if 0x1000000 ≤ rem * 0x1000000 / 2 ^ k + r then q + 1 else q

/-- m · 2^e rounded to an integer multiple of 2^q: the multiple, and whether bits were lost. -/
def roundAt (rnd : Rnd) (m : Nat) (e q : Int) : Nat × Bool :=
  if q ≤ e then (m * 2 ^ (e - q).toNat, false)
  else
    let k := (q - e).toNat
    (roundShift rnd m k, m % 2 ^ k ≠ 0)

/-- A value rounded to a floating-point format with unbounded results clamped as R142 states. `mx`: an element of an
MX format, which saturates. -/
def roundFp (f : Fmt) (mx : Bool) (rnd : Rnd) (v : Val) : Flagged :=
  match v with
  | .nan => (.nan, 0)
  | .inf n => if f.hasInf then (.inf n, 0) else (.fin n f.maxM f.maxE, fSaturate)
  | .fin n 0 _ => (.fin n 0 0, 0)
  | .fin n m e =>
    let top := e + (ilog2 m : Int)
    let q := max (top - f.mb) (f.emin - f.mb)
    let r := roundAt rnd m e q
    if leMag r.1 q f.maxM f.maxE = false then
      if f.hasInf && !mx then (.inf n, fOverflow) else (.fin n f.maxM f.maxE, fSaturate)
    else (.fin n r.1 q, if r.2 && decide (top < f.emin) then fUnderflow else 0)

/-- The bits of a finite rounded value in a format with a sign bit on top. -/
def encodeFp (f : Fmt) (v : Val) : Nat :=
  let sign := 2 ^ (f.mb + f.eb)
  match v with
  | .nan => (2 ^ f.eb - 1) * 2 ^ f.mb + (if f.hasInf ∧ 2 < f.mb then 2 ^ (f.mb - 1) else 2 ^ f.mb - 1)
  | .inf n => b2n n * sign + (2 ^ f.eb - 1) * 2 ^ f.mb
  | .fin n 0 _ => b2n n * sign
  | .fin n m e =>
    let top := e + (ilog2 m : Int)
    if top < f.emin then b2n n * sign + shiftZ m (e - (f.emin - f.mb))
    else
      let frac := shiftZ m (e - (top - f.mb)) - 2 ^ f.mb
      b2n n * sign + (top - f.emin + 1).toNat * 2 ^ f.mb + frac

/-- The value of a bit pattern in a format with a sign bit on top. `ieee`: the top exponent is infinities and NaN;
`allNan`: only the all-ones pattern is NaN (E4M3). -/
def decodeFp (f : Fmt) (ieee allNan : Bool) (b : Nat) : Val :=
  let neg := bits b (f.mb + f.eb) 1 = 1
  let ef := bits b f.mb f.eb
  let mf := bits b 0 f.mb
  if ieee ∧ ef = 2 ^ f.eb - 1 then (if mf = 0 then .inf neg else .nan)
  else if allNan ∧ ef = 2 ^ f.eb - 1 ∧ mf = 2 ^ f.mb - 1 then .nan
  else if ef = 0 then .fin neg mf (f.emin - f.mb)
  else .fin neg (2 ^ f.mb + mf) (f.emin - f.mb + ef - 1)

/-- A signed integer as a value, scaled by 2^e. -/
def ofInt (i : Int) (e : Int) : Val := .fin (decide (i < 0)) i.natAbs e

/-! ### Format codes (R118, R131) -/

def isMx (f : Nat) : Bool := decide (6 ≤ f ∧ f ≤ 11)
def isF (f : Nat) : Bool := decide (f ≤ 3) || isMx f
def isI (f : Nat) : Bool := f == 4 || f == 5

/-- Bits of one element. -/
def elemBits (f : Nat) : Nat :=
  match f with
  | 0 => 32 | 1 => 16 | 2 => 8 | 3 => 8 | 4 => 8 | 5 => 32 | 6 => 8 | 7 => 8 | 8 => 6 | 9 => 6 | 10 => 4 | _ => 8

/-- The element format of a floating-point code. -/
def fmtOf (f : Nat) : Fmt :=
  match f with
  | 0 => fp32 | 1 => bf16 | 2 => e4m3 | 3 => e5m2 | 6 => e4m3 | 7 => e5m2 | 8 => e2m3 | 9 => e3m2 | _ => e2m1

/-- e_max of R133. -/
def mxEmax (f : Nat) : Int :=
  match f with
  | 6 => 8 | 7 => 15 | 8 => 2 | 9 => 4 | 10 => 2 | _ => 0

/-- The value of an element's bits, without an MX scale. -/
def decodeElem (f b : Nat) : Val :=
  match f with
  | 0 => decodeFp fp32 true false b
  | 1 => decodeFp bf16 true false b
  | 2 => decodeFp e4m3 false true b
  | 3 => decodeFp e5m2 true false b
  | 4 => ofInt (BitVec.ofNat 8 b).toInt 0
  | 5 => ofInt (BitVec.ofNat 32 b).toInt 0
  | 6 => decodeFp e4m3 false true b
  | 7 => decodeFp e5m2 true false b
  | 8 => decodeFp e2m3 false false b
  | 9 => decodeFp e3m2 false false b
  | 10 => decodeFp e2m1 false false b
  | _ => ofInt (BitVec.ofNat 8 b).toInt (-6)

/-- A value times 2^(E − 127), or NaN for the scale 0xFF (R131). -/
def scaleVal (sc : Nat) (v : Val) : Val :=
  if sc = 255 then .nan
  else match v with
    | .fin n m e => .fin n m (e + sc - 127)
    | x => x

/-- Bytes of a row of `n` elements (R132). -/
def rowBytes (f n : Nat) : Nat :=
  if isMx f then n / 64 * (8 * elemBits f + 2) + (if n % 64 = 0 then 0 else 4 * elemBits f + 1)
  else n * (elemBits f / 8)

/-- Byte offset and bit offset of element `i` in a row of `n`, and the byte offset of its scale (R132). -/
def elemAt (f n i : Nat) : Nat × Nat × Nat :=
  if isMx f then
    let eb := elemBits f
    let start := i / 64 * (8 * eb + 2)
    let j := i % 64
    let data := if 64 ≤ n - i / 64 * 64 then 8 * eb else 4 * eb
    (start + eb * j / 8, eb * j % 8, start + data + j / 32)
  else (i * (elemBits f / 8), 0, 0)

/-- Element `i` of a row of `n` at a memory address (R131, R132). -/
def readElem (m : Memory) (a f n i : Nat) : Val :=
  let p := elemAt f n i
  let eb := elemBits f
  let b := bits (ofBytes (m.readN (a + p.1) ((p.2.1 + eb + 7) / 8))) p.2.1 eb
  if isMx f then scaleVal (m.read (a + p.2.2)).toNat (decodeElem f b) else decodeElem f b

/-! ### Arithmetic (R137) -/

/-- A value widened to FP32. -/
def widen (v : Val) : Flagged := roundFp fp32 false .rne v

/-- NANIN when an operand is NaN. -/
def nanIn (vs : List Val) : BitVec 6 := if vs.any (· == .nan) then fNanin else 0

/-- The exact sum of two values. -/
def addExact : Val → Val → Flagged
  | .nan, _ => (.nan, 0)
  | _, .nan => (.nan, 0)
  | .inf a, .inf b => if a = b then (.inf a, 0) else (.nan, fInvalid)
  | .inf a, _ => (.inf a, 0)
  | _, .inf b => (.inf b, 0)
  | .fin n₁ m₁ e₁, .fin n₂ m₂ e₂ =>
    let e := min e₁ e₂
    let x : Int := (if n₁ then -1 else 1) * (m₁ * 2 ^ (e₁ - e).toNat : Nat)
    let y : Int := (if n₂ then -1 else 1) * (m₂ * 2 ^ (e₂ - e).toNat : Nat)
    if x + y = 0 then (.fin (n₁ && n₂ && (m₁ == 0) && (m₂ == 0)) 0 0, 0) else (ofInt (x + y) e, 0)

/-- The exact product of two values. -/
def mulExact : Val → Val → Flagged
  | .nan, _ => (.nan, 0)
  | _, .nan => (.nan, 0)
  | .inf a, .inf b => (.inf (a != b), 0)
  | .inf a, .fin n m _ => if m = 0 then (.nan, fInvalid) else (.inf (a != n), 0)
  | .fin n m _, .inf b => if m = 0 then (.nan, fInvalid) else (.inf (n != b), 0)
  | .fin n₁ m₁ e₁, .fin n₂ m₂ e₂ => (.fin (n₁ != n₂) (m₁ * m₂) (e₁ + e₂), 0)

/-- The negative of a value. -/
def negVal : Val → Val
  | .fin n m e => .fin (!n) m e
  | .inf n => .inf (!n)
  | .nan => .nan

/-- Whether a < b, with −0 below +0 (R137). -/
def ltVal : Val → Val → Bool
  | .nan, _ => false
  | _, .nan => false
  | .inf a, .inf b => a && !b
  | .inf a, _ => a
  | _, .inf b => !b
  | .fin n₁ m₁ e₁, .fin n₂ m₂ e₂ =>
    match n₁, n₂ with
    | true, false => true
    | false, true => false
    | false, false => !leMag m₂ e₂ m₁ e₁
    | true, true => !leMag m₁ e₁ m₂ e₂

def maxVal (a b : Val) : Val := if a = .nan ∨ b = .nan then .nan else if ltVal a b then b else a
def minVal (a b : Val) : Val := if a = .nan ∨ b = .nan then .nan else if ltVal b a then b else a

/-- A VEW function on widened operands (R118, R137). -/
def vewFn (f : Nat) (a b : Val) : Flagged :=
  match f with
  | 0 => addExact a b
  | 1 => addExact a (negVal b)
  | 2 => mulExact a b
  | 3 => (maxVal a b, 0)
  | _ => (minVal a b, 0)

/-- FP32 bits of a value and back. -/
def toFp32Bits (v : Val) : Nat := encodeFp fp32 v
def ofFp32Bits (b : Nat) : Val := decodeFp fp32 true false b

/-- A magnitude that the spec bounds within 2 FP32 steps, as the free value of the function and operand picks it; its flags (R137, R141,
R142). -/
def vunPick (f : Nat) (v : Val) (neg : Bool) (x : Enc) : Flagged :=
  let p := patPick x (Config.vunBits f (BitVec.ofNat 32 (toFp32Bits v))).toNat
  let y := ofFp32Bits (p + b2n neg * 2 ^ 31)
  (y, if p = 0x7F800000 then fOverflow else if p < 2 ^ 23 ∧ ¬ (x.lo = x.hi ∧ patVal p = x.lo) then fUnderflow else 0)

/-- A VUN function on a widened operand (R137, R142): ABS and NEG exact, the others within 2 steps of the exact function (log 11). -/
def vunFn (f : Nat) (v : Val) : Flagged :=
  match f, v with
  | 6, .fin _ m e => (.fin false m e, 0)
  | 6, .inf _ => (.inf false, 0)
  | 7, x => (negVal x, 0)
  | _, .nan => (.nan, 0)
  | 1, .fin n 0 _ => (.inf n, fDivzero)
  | 2, .fin n 0 _ => (.inf n, fDivzero)
  | 2, .fin true _ _ => (.nan, fInvalid)
  | 2, .inf true => (.nan, fInvalid)
  | 1, .inf n => vunPick 1 v n (Enc.exact 0)
  | 2, .inf false => vunPick 2 v false (Enc.exact 0)
  | 0, .inf true => vunPick 0 v false (Enc.exact 0)
  | 3, .inf n => vunPick 3 v n Enc.one
  | _, .inf false => (.inf false, 0)
  | f, .inf true => (ofFp32Bits (Config.vunBits f (BitVec.ofNat 32 (toFp32Bits v))).toNat, 0)
  | f, .fin n m e => vunPick f v (n && f != 0 && f != 2) (vunEnc f n (shiftZ m (e + 512)))

/-! ### Stochastic draws (R139) -/

def mix64 (z k : DWord) (sh : Nat) : DWord := (z ^^^ (z >>> sh)) * k

/-- The 24-bit draw of element `e`. -/
def stoDraw (seed : DWord) (v : Nat) (c : DWord) (e : Nat) : Nat :=
  let z := seed + (BitVec.ofNat 64 v <<< 48) + (c + BitVec.ofNat 64 e) * 0x9e3779b97f4a7c15
  let z := mix64 z 0xbf58476d1ce4e5b9 30
  let z := mix64 z 0x94d049bb133111eb 27
  let z := z ^^^ (z >>> 31)
  (z >>> 40).toNat

/-! ### Writing results (R133, R137, R138, R142) -/

/-- A value rounded to a whole number, to nearest even, and saturated to `w` bits. -/
def toIntSat (w : Nat) (v : Val) : Int × BitVec 6 :=
  let hi : Int := 2 ^ (w - 1) - 1
  let lo : Int := -(2 ^ (w - 1))
  match v with
  | .nan => (0, fInvalid)
  | .inf n => (if n then lo else hi, fSaturate)
  | .fin n m e =>
    let r := (roundAt .rne m e 0).1
    let x : Int := if n then -r else r
    if hi < x then (hi, fSaturate) else if x < lo then (lo, fSaturate) else (x, 0)

/-- The exact result rounded towards a destination that is not MX (R137): its bits and flags. -/
def writeScalar (fd : Nat) (rnd : Rnd) (v : Val) : Nat × BitVec 6 :=
  if fd = 4 ∨ fd = 5 then
    let w := elemBits fd
    let r := toIntSat w v
    ((BitVec.ofInt w r.1).toNat, r.2)
  else if fd = 0 then
    let r := roundFp fp32 false rnd v
    (encodeFp fp32 r.1, r.2)
  else
    let r := roundFp fp32 false .rne v
    let q := roundFp (fmtOf fd) false rnd r.1
    (encodeFp (fmtOf fd) q.1, r.2 ||| q.2)

/-- The largest magnitude's ⌊log₂⌋ over the finite nonzero values of a block. -/
def blockTop (vs : List Val) : Option Int :=
  (vs.filterMap fun v => match v with
    | .fin _ 0 _ => none
    | .fin _ m e => some (e + (ilog2 m : Int))
    | _ => none).max?

/-- A block of values, already FP32, written in an MX format: the scale, and each element's bits and flags (R133,
R142). -/
def mxBlock (f : Nat) (rnds : List Rnd) (vs : List Val) : Nat × List (Nat × BitVec 6) :=
  let bad := vs.any fun v => match v with
    | .nan => true
    | .inf _ => decide (f ≠ 7)
    | _ => false
  if bad then (255, vs.map fun _ => (0, 0))
  else
    let sc := match blockTop vs with
      | none => 0
      | some x => (min 254 (max 0 (x - mxEmax f + 127))).toNat
    let one := fun (p : Val × Rnd) => match p.1 with
      | .fin n m e =>
        let y : Val := .fin n m (e - sc + 127)
        if f = 11 then
          let r := (roundAt p.2 m (e - sc + 127) (-6)).1
          let x : Int := if n then -(min r 127 : Nat) else (min r 127 : Nat)
          ((BitVec.ofInt 8 x).toNat, if 127 < r then fSaturate else 0)
        else
          let r := roundFp (fmtOf f) true p.2 y
          (encodeFp (fmtOf f) r.1, r.2)
      | v => (encodeFp (fmtOf f) v, (0 : BitVec 6))
    (sc, (vs.zip rnds).map one)

/-- Elements packed from bit 0 upwards. -/
def packElems (eb : Nat) (es : List Nat) : List Byte :=
  toBytes (es.zipIdx.foldl (fun a p => a + p.1 * 2 ^ (eb * p.2)) 0) (es.length * eb / 8)

/-- A row of FP32 values written in an MX format: groups of two blocks, their elements and then their scales (R132),
with the flags of each element. -/
def mxRow (f : Nat) : List (List (Val × Rnd)) → List Byte × List (BitVec 6)
  | [] => ([], [])
  | [b] =>
    let x := mxBlock f (b.map Prod.snd) (b.map Prod.fst)
    (packElems (elemBits f) (x.2.map Prod.fst) ++ [BitVec.ofNat 8 x.1], x.2.map Prod.snd)
  | a :: b :: t =>
    let x := mxBlock f (a.map Prod.snd) (a.map Prod.fst)
    let y := mxBlock f (b.map Prod.snd) (b.map Prod.fst)
    let r := mxRow f t
    (packElems (elemBits f) ((x.2 ++ y.2).map Prod.fst) ++ [BitVec.ofNat 8 x.1, BitVec.ofNat 8 y.1] ++ r.1,
      (x.2 ++ y.2).map Prod.snd ++ r.2)

/-- A list cut into runs of `n`. -/
def chunks {α : Type} (n : Nat) (l : List α) : List (List α) :=
  (List.range ((l.length + n - 1) / n)).map fun i => (l.drop (n * i)).take n

/-- A row of exact results written in a format: its bytes, and the flags of each element. -/
def writeRow (fd : Nat) (vs : List (Val × Rnd)) : List Byte × List (BitVec 6) :=
  if isMx fd then
    let w := vs.map fun p => (roundFp fp32 false .rne p.1, p.2)
    let r := mxRow fd (chunks 32 (w.map fun p => (p.1.1, p.2)))
    (r.1, (w.zip r.2).map fun p => p.1.1.2 ||| p.2)
  else
    let w := vs.map fun p => writeScalar fd p.2 p.1
    (w.flatMap fun p => toBytes p.1 (elemBits fd / 8), w.map Prod.snd)

/-! ### Sums (R144, R145) -/

/-- A sum of two FP32 values rounded to FP32. -/
def add32 (a b : Flagged) : Flagged :=
  let x := addExact a.1 b.1
  let r := roundFp fp32 false .rne x.1
  (r.1, a.2 ||| b.2 ||| x.2 ||| r.2)

/-- One level of the pairwise tree. -/
def pairUp : List Flagged → List Flagged
  | a :: b :: t => add32 a b :: pairUp t
  | l => l

/-- A run of 32 summed by the fixed tree of five levels, padded with zeros. -/
def treeSum (run : List Flagged) : Flagged :=
  let z : Flagged := (.fin false 0 0, 0)
  (pairUp (pairUp (pairUp (pairUp (pairUp (run ++ List.replicate (32 - run.length) z)))))).headD z

/-- Runs of 32 added in order into an accumulator. -/
def runSum (start : Flagged) (vs : List Flagged) : Flagged :=
  (chunks 32 vs).foldl (fun acc run => add32 acc (treeSum run)) start

end Sys2Proof.Machine
end

