-- ==== Sys2Proof/Machine/Peer.lean ====
section
/-! DEFINITION. Fabric transfers at the sender: pieces, tags, the pair a segment takes, and how a transfer ends (R231,
R241 to R245). -/

namespace Sys2Proof.Machine

/-- The binding of a context to a peer, when VALID (R245). -/
def binding (s : State) (c m : Nat) : Option Word :=
  let w := Tbl.get 0 s.steer.bind (32 * c + m)
  if bit w 31 then some w else none

def xfer (s : State) (i : Nat) : Option Xfer := (s.link.xfers.find? fun p => p.1 = i).map Prod.snd
/-- The fabric transfer of a long instruction or descriptor; one that is not there any more, or none, has ended. -/
def xferOf (s : State) (i : Nat) : Xfer := (xfer s i).getD { ctx := none, gen := 0, tc := 0 }
def setXfer (i : Nat) (x : Xfer) (s : State) : State := { s with link := { s.link with xfers := Tbl.set s.link.xfers i x } }
def updXfer (i : Nat) (f : Xfer → Xfer) (s : State) : State :=
  match xfer s i with
  | some x => setXfer i (f x) s
  | none => s
def dropXfer (i : Nat) (s : State) : State :=
  { s with link := { s.link with xfers := s.link.xfers.filter fun p => p.1 ≠ i } }

/-- A transfer fails: its first failure stands, and nothing more of it is begun. -/
def xferFail (i code info : Nat) (s : State) : State :=
  updXfer i (fun x => { x with err := some (x.err.getD (code, info)), todo := [], token := none }) s

/-- A transfer that has ended. -/
def xferDone (x : Xfer) : Bool := x.err.isSome || (x.todo.isEmpty && x.live == 0 && x.token.isNone)

/-- Whether the chart in force holds a pair to a module, or a pair to it is in service. -/
def charted (s : State) (m : Nat) : Bool :=
  (allPairs s).any (fun q => (pair s q.1 q.2).peer == m && !(pair s q.1 q.2).loop)
    || (entsOf s.steer.chart s.steer.slot).any fun e => !e.loop && entPeer e s.steer.slot == m

/-- The lowest tag of a bond not in use (R241). -/
def freeTag (s : State) (m : Nat) : Option Nat :=
  let used := (s.link.outs.filter fun o => o.peer = m).map SegOut.tag
  if 4096 ≤ used.length then none else (List.range 4096).find? fun t => !used.contains t

/-- The descriptor of a segment or read of a context towards a bound peer (R241, R245). EDITION is set when the flit is sent. -/
def segDesc (s : State) (c : Ctx) (gen : Byte) (b : Word) (len tag inner : Nat) : SegDesc :=
  { sgen := gen, dgen := BitVec.ofNat 8 (fld b 0 8), sctx := c, dctx := Fin.ofNat 4 (fld b 8 2), smod := Fin.ofNat 32 s.steer.slot,
    edition := 0, length := len, tag := BitVec.ofNat 12 tag, daddr := BitVec.ofNat 55 inner, poison := false, poff := 0,
    token := false, tvcore := 0, tq := 0, tpayload := 0 }

/-- The DATA flits of a segment. -/
def dataFlits (tc tag : Nat) (bs : List Byte) : List Flit :=
  let n := (bs.length + 239) / 240
  (List.range n).map fun i => { tc := tc, body := .data tag i (i + 1 == n) ((bs.drop (240 * i)).take 240) }

/-- The flits of a segment or read. -/
def segFlits (kind tc : Nat) (d : SegDesc) (bs : List Byte) : List Flit :=
  if kind = 3 then [{ tc := tc, body := .rdreq d }]
  else { tc := tc, body := .seg kind d } :: dataFlits tc d.tag.toNat bs

/-- The bytes a piece sends. -/
def pieceBytes (s : State) (pc : Piece) : List Byte :=
  match pc.data with
  | some bs => bs
  | none => if pc.read then [] else s.mem.readN pc.here pc.len

/-- A segment or read put on a pair and recorded. -/
def sendSeg (i kind : Nat) (x : Xfer) (pc : Piece) (d : SegDesc) (at_ : Nat × Nat) (s : State) : State :=
  let o : SegOut := { peer := pc.peer, tag := d.tag.toNat, plane := at_.1, lane := at_.2, kind := kind, tc := x.tc, piece := pc,
                      d := d, xfer := i }
  let s := enqueue at_.1 at_.2 (segFlits kind x.tc d (pieceBytes s pc)) s
  { s with link := { s.link with outs := s.link.outs ++ [o] } }

/-- The bytes of the units before the one that holds byte `n` of a piece whose destination begins `o` bytes into a unit (R170). -/
def goodUnits (o n : Nat) : Nat := (o + n) / 256 * 256 - o

/-- The first piece of a transfer begun, if a pair and a tag are free for it; it ends REMOTE where the context has no
binding or the chart no pair. A serial transfer has one piece under way. The units of a local source before one that cannot be read are sent
(R170), then it fails. -/
def beginPiece (i : Nat) (s : State) : State :=
  match xfer s i with
  | none => s
  | some x =>
    match x.todo, x.ctx with
    | [], _ => s
    | pc :: _, none => xferFail i 6 pc.peer s
    | pc :: rest, some c =>
      match binding s c.val pc.peer with
      | none => xferFail i 6 pc.peer s
      | some b =>
        if charted s pc.peer = false then xferFail i 6 pc.peer s
        else if x.serial ∧ 0 < x.live then s
        else
          let local_ := !pc.read && pc.data.isNone
          let s := if local_ then readRange pc.here pc.len (clearFirst pc.here pc.len s) else s
          match (if local_ then badByte s pc.here pc.len else none) with
          | some a =>
            let n := goodUnits (pc.inner % 256) (a - pc.here)
            match freeTag s pc.peer, pickPair s pc.peer with
            | some t, some at_ =>
              if n = 0 then eccDouble a (xferFail i 4 a s)
              else
                let front := { pc with len := n }
                let back := { pc with len := pc.len - n, here := pc.here + n, inner := pc.inner + n }
                sendSeg i 0 x front (segDesc s c x.gen b n t pc.inner) at_
                  (setXfer i { x with todo := back :: rest, live := x.live + 1 } s)
            | _, _ => if n = 0 then eccDouble a (xferFail i 4 a s) else s
          | none => match freeTag s pc.peer, pickPair s pc.peer with
            | some t, some at_ =>
              sendSeg i (if pc.read then 3 else 0) x pc (segDesc s c x.gen b pc.len t pc.inner) at_
                (setXfer i { x with todo := rest, live := x.live + 1 } s)
            | _, _ => s

/-- A transfer's TOKEN_ONLY segment sent once every data segment is DONE (R243). -/
def beginToken (i : Nat) (s : State) : State :=
  match xfer s i with
  | none => s
  | some x =>
    match x.token, x.ctx with
    | some (m, inner, v, q, pay), some c =>
      if x.live = 0 ∧ x.todo.isEmpty ∧ x.err.isNone then
        match binding s c.val m with
        | none => xferFail i 6 m s
        | some b =>
          if charted s m = false then xferFail i 6 m s
          else match freeTag s m, pickPair s m with
            | some t, some at_ =>
              let d := { segDesc s c x.gen b 0 t inner with token := true, tvcore := v, tq := Fin.ofNat 16 q, tpayload := pay }
              sendSeg i 2 x { peer := m, read := false, inner := inner, len := 0, data := some [] } d at_
                (setXfer i { x with token := none, live := 1 } s)
            | _, _ => s
      else s
    | _, _ => s

/-- A transfer driven on as far as pairs and tags allow. -/
def driveX (i : Nat) (s : State) : State :=
  let n := match xfer s i with
    | some x => x.todo.length
    | none => 0
  beginToken i ((List.range n).foldl (fun s _ => beginPiece i s) s)

/-- Every transfer driven on. -/
def pump (s : State) : State := (s.link.xfers.map Prod.fst).foldl (fun s i => driveX i s) s

/-- The pieces of one row (R241). -/
def rowPieces (m : Nat) (read : Bool) (inner here len : Nat) : List Piece :=
  (List.range ((len + 61439) / 61440)).map fun j =>
    { peer := m, read := read, inner := inner + 61440 * j, len := min 61440 (len - 61440 * j), here := here + 61440 * j }

/-- A new transfer begun; its number. -/
def newXfer (x : Xfer) (s : State) : Nat × State :=
  let i := s.link.nextX
  (i, driveX i (setXfer i x { s with link := { s.link with nextX := i + 1 } }))

/-- The DA layout inside a peer of an inner address's core field: the virtual core it names. -/
def innerCore (inner : Nat) : Nat := bits inner 52 1 * 72 + bits inner 49 3 * 9 + bits inner 45 4

/-- The stream fault cause of a failure code of R170 (R127). -/
def streamCause (code : Nat) : Nat :=
  match code with
  | 1 => 7 | 2 => 6 | 3 => 8 | 4 => 0x0C | _ => 0x0D

end Sys2Proof.Machine
end

