-- ==== Sys2Proof/Machine/Well.lean ====
section
/-! DEFINITION. Checkpoint triggers, slots and the cut (R305 to R313). -/

namespace Sys2Proof.Machine

/-! ### Slots and extents (R311 to R313) -/

/-- Whether a slot holds a valid image. -/
def slotValid (k : Slot_) : Bool := k.state == .committed || k.state == .draining || k.state == .drained

/-- The slot that a new checkpoint takes: not the newer valid image's, or A. -/
def chooseSlot (s : State) (c : Nat) : Bool :=
  let a := slotSt s c false
  let b := slotSt s c true
  match slotValid a, slotValid b with
  | true, false => true
  | true, true => decide (b.order < a.order)
  | false, _ => false

/-- Free pool extents. -/
def freeExtents (s : State) : Nat := 14861 - s.ckpt.slots.foldl (fun n p => n + p.2.extents) 0

/-- Slots that may be reclaimed for a checkpoint of context `c` writing slot `b`, in order (R313). -/
def reclaimable (s : State) (c : Nat) (b : Bool) : List (Nat × Bool) :=
  let drained := fun x y => (slotSt s x y).state == .drained && !(slotSt s x y).reading
  let older := fun x y => slotValid (slotSt s x (!y)) && decide ((slotSt s x y).order < (slotSt s x (!y)).order)
  if bit s.ckpt.cfg 24 = false then []
  else
    (if drained c (!b) then [(c, !b)] else [])
      ++ (((List.range 4).filter fun x => x ≠ c).flatMap fun x => [false, true].filterMap fun y => if drained x y && older x y then some (x, y) else none)

/-- A slot reclaimed: EMPTY, 0x0905. -/
def reclaim (c : Nat) (b : Bool) (s : State) : State :=
  let k := slotSt s c b
  ckptReport c k.number k.step b 4 (logRec 0x0905 (0x0900 + c) c (b2n b) k.number.toNat k.extents (setSlot c b {} s))

/-! ### The image's size (R317, R321, R323) -/

/-- Up to a multiple. -/
def roundUp (n m : Nat) : Nat := (n + m - 1) / m * m

/-- Where section `i`'s first record stands: behind the header and the sections before it, at a multiple of 4 KiB. With the number of sections it is
where the trailer stands. -/
def sectionAt (stored : List Nat) (i : Nat) : Nat := (stored.take i).foldl (fun n x => n + roundUp x 4096) 4096

/-- Bytes of a trailer. -/
def trailerLen (secs : List Section) : Nat := 76 + 128 * secs.length + 256 * (secs.filter fun x => x.kind = 1 ∨ x.kind = 3).length + 64 + 3309

/-- The stored bytes of sections, in order. -/
def storedOf (secs : List Section) (stored : Tbl Nat) : List Nat := (List.range secs.length).map (Tbl.get 0 stored)

/-- Bytes of an image: header, sections, trailer, locator at its end. -/
def imageBytes (secs : List Section) (stored : Tbl Nat) : Nat :=
  roundUp (sectionAt (storedOf secs stored) secs.length + trailerLen secs + 64) 4096

/-! ### What an image holds (R321 to R323) -/

/-- The image header. -/
def imageHeader (i : Image) : List Byte :=
  let head := toBytes 0x54504B43 4 ++ toBytes 1 2 ++ toBytes (1 + 2 * b2n i.full + 8 * b2n i.offline) 1 ++ toBytes i.context 1 ++ toBytes i.job 4
    ++ toBytes i.number.toNat 4 ++ toBytes i.step.toNat 4 ++ [i.gen] ++ toBytes (b2n i.slotB) 1 ++ toBytes i.vcores 2 ++ toBytes i.cut.toNat 8
    ++ toBytes i.serial.toNat 8 ++ toBytes (if i.deviceL then 0x3216 else 0x3208) 2
  head ++ List.replicate 4054 0

/-- The job-state section. -/
def jobState (i : Image) : List Byte :=
  let b := toBytes i.seed.toNat 8 ++ (i.journal ++ List.replicate 32 0).take 32 ++ toBytes i.modeEd.toNat 2
    ++ ((i.modeTab ++ List.replicate 16 0).take 16).flatMap fun x => toBytes x 2
  b ++ List.replicate (128 - b.length) 0

/-- Bytes of a granule of a section. -/
def granLen (x : Section) (g : Nat) : Nat := min granule (x.len - g * granule)

/-- A granule's logical bytes; none where its record does not decode. -/
def granBytes (x : Section) (y : Granule) : Option (List Byte) := match y.coded with
  | some p => decodeGranule y.method (granLen x y.ix) p.1
  | none => some (Memory.readN y.cells 0 (granLen x y.ix))

/-- A granule's DIGEST. -/
def granDigest (x : Section) (y : Granule) : List Byte := match y.coded with
  | some p => p.2
  | none => sha512 (Memory.readN y.cells 0 (granLen x y.ix))

/-- Granule `g` of section `i`. -/
def granAt (img : Image) (i g : Nat) : Option Granule := img.grans.find? fun y => y.sec == i && y.ix == g

/-- A section's digest: the SHA-512 of its granules' digests. -/
def sectionSum (img : Image) (i : Nat) (x : Section) : List Byte :=
  if x.kind = 2 then sha512 (sha512 (jobState img))
  else sha512 ((List.range (secGrans x)).flatMap fun g => (granAt img i g).elim [] (granDigest x))

/-- A section's descriptor in the trailer. -/
def sectionDesc (img : Image) (i : Nat) (x : Section) : List Byte :=
  toBytes x.kind 1 ++ [0, 0, 0] ++ toBytes x.id 4 ++ toBytes x.len 8 ++ toBytes (sectionAt img.secStored i) 8 ++ toBytes (img.secStored.getD i 0) 8
    ++ img.sums.getD i [] ++ List.replicate 32 0

def sectionDescs (img : Image) : List Byte := img.sections.zipIdx.flatMap fun p => sectionDesc img p.2 p.1

/-- ROOT: the SHA-512 over the image header, the descriptors and the records. -/
def rootOf (img : Image) : List Byte := sha512 (imageHeader img ++ sectionDescs img ++ img.records)

/-- The trailer up to its signatures. -/
def trailerHead (img : Image) : List Byte :=
  toBytes 0x4C494154 4 ++ toBytes img.sections.length 4 ++ toBytes (img.records.length / 256) 4 ++ img.root ++ sectionDescs img ++ img.records

/-- The locator. -/
def locatorBytes (img : Image) : List Byte :=
  let b := toBytes 0x434F4C54 4 ++ toBytes (sectionAt img.secStored img.sections.length) 8 ++ toBytes (trailerLen img.sections) 4
    ++ toBytes img.stored 8 ++ List.replicate 36 0
  b ++ toBytes (crc32c b) 4

/-! ### Triggers (R310) -/

/-- Bits of a step word ahead of the context's last completed step (R308). -/
def stepAhead (s : State) (c : Nat) (step : Word) : Bool := decide (1 ≤ sdiff32 step (lastStep s c))

/-- A drain given up for a checkpoint that takes its slot (R312). -/
def dropDrain (c : Nat) (b : Bool) (cause : Nat) (s : State) : State :=
  let k := slotSt s c b
  if k.state ≠ .draining then s
  else
    let s := logRec 0x0907 (0x0900 + c) c (b2n b) cause 0 s
    match k.drainer with
    | some (r, tag) => completeBy r 4 tag 0x20A [] s
    | none => s

/-- A checkpoint accepted: its slot is chosen and WRITING. -/
def acceptCkpt (c : Nat) (number step : Word) (full : Bool) (ring : Option (Nat × Nat)) (s : State) : State :=
  let b := chooseSlot s c
  let s := dropDrain c b 3 s
  let s := setSlot c b { state := .writing, number := number, step := step, full := full } s
  let s := onCkpt (fun t => { t with
    runs := Tbl.set t.runs c (some { number := number, step := step, full := full, slotB := b, ring := ring })
    known := Tbl.set t.known c (max (Tbl.get 0 t.known c) number.toNat)
    startAt := Tbl.set t.startAt c (s.now + 1) }) s
  ckptReport c number step b 1 s

/-- A trigger inside the module: 1 steward, 2 risk, 3 periodic. -/
def trigger (c kind : Nat) (number step : Word) (s : State) : State :=
  match template s c with
  | none => if kind = 1 then postEvent 0x0940 (0x0900 + c) (some c) c number.toNat step.toNat 0 s else s
  | some t =>
    if t.auto = false then if kind = 1 then postEvent 0x0940 (0x0900 + c) (some c) c number.toNat step.toNat 0 s else s
    else match ckptRun s c with
      | some k => logRec 0x0904 (0x0900 + c) c kind k.number.toNat 0 s
      | none =>
        if s.ckpt.well ≠ .ready ∨ (ctx s c).created = false then s
        else if (slotSt s c (chooseSlot s c)).reading then logRec 0x0904 (0x0900 + c) c kind 0 0 s
        else acceptCkpt c number step t.full none s

/-- The number and step of a checkpoint that the module starts by itself. -/
def nextNumber (s : State) (c : Nat) : Word := BitVec.ofNat 32 (Tbl.get 0 s.ckpt.known c + 1)
def nextStep (s : State) (c : Nat) : Word := lastStep s c + 1

/-- The module's own risk level reaches WARN (R296, R310). -/
def riskTrigger (s : State) : State :=
  (List.range 4).foldl (fun s c =>
    let at_ := Tbl.get 0 s.ckpt.startAt c
    if (ctx s c).created ∧ (at_ = 0 ∨ at_ - 1 + 600000000000 ≤ s.now) then trigger c 2 (nextNumber s c) (nextStep s c) s else s) s

/-! ### The manifest (R322) -/

/-- The fields of a tensor record. -/
def recDims (bs : List Byte) (at_ : Nat) : List Nat := (List.range 8).map fun i => getN bs (at_ + 4 * i) 4

/-- Bytes of a slice, row-major. -/
def sliceBytes (fmt : Nat) (ds : List Nat) : Nat :=
  let n := ds.getLastD 0
  (ds.dropLast.foldl (fun a b => a * b) 1) * rowBytes fmt n

/-- Whether a tensor record is valid. -/
def recOk (bs : List Byte) : Bool :=
  let fmt := getN bs 4 1
  let rank := getN bs 5 1
  let g := recDims bs 88
  let o := recDims bs 120
  let e := recDims bs 152
  let used := fun (l : List Nat) => l.take rank
  decide (1 ≤ rank ∧ rank ≤ 8) && decide (fmt ≤ 11) && decide (getN bs 6 1 = 1 ∨ getN bs 6 1 = 3) && decide (getN bs 7 1 = 0)
    && (bs.drop 184).all (fun b => b == 0) && (g.drop rank).all (fun x => x == 1)
    && ((List.range rank).all fun i => decide (o.getD i 0 + e.getD i 0 ≤ g.getD i 0))
    && (if getN bs 6 1 = 3 then decide (rank = 1) && decide (g.getD 0 0 = getN bs 16 8)
        else decide (getN bs 16 8 = sliceBytes fmt (used e))
          && (!isMx fmt || (decide ((used o).getLastD 0 % 32 = 0) && decide ((used e).getLastD 0 % 32 = 0))))

/-- The section of a record, where its range lies in DDR within the context's reach. -/
def recSection (s : State) (w : Who) (bs : List Byte) : Option Section :=
  let da := getN bs 8 8
  let n := getN bs 16 8
  if recOk bs = false then none
  else match checkAt s w da n false with
    | .ok (.here a) => if a < 0x1000000000000000 then some { kind := getN bs 6 1, id := getN bs 0 4, addr := a, len := n } else none
    | _ => none

/-- Strictly distinct IDs. -/
def idsDistinct (xs : List Section) : Bool := (xs.map Section.id).dedup.length == xs.length

/-- The tensor records of a manifest that an image takes over. -/
def manifestRecs (s : State) (c : Nat) (t : Template) (full : Bool) : List Byte :=
  match checkAt s (whoStream s c s.hst.edition) t.manifest t.mlen false with
  | .ok (.here a) => (List.range (t.mlen / 256)).flatMap fun i =>
      let bs := s.mem.readN (a + 256 * i) 256
      if full ∨ getN bs 6 1 = 1 then bs else []
  | _ => []

/-- A context's manifest as sections; none where it cannot be read, a record is invalid or a range is out of reach. -/
def readManifest (s : State) (c : Nat) (t : Template) : Option (List Section) :=
  let w := whoStream s c s.hst.edition
  if t.mlen = 0 then some []
  else match checkAt s w t.manifest t.mlen false with
    | .ok (.here a) =>
      if (badByte s a t.mlen).isSome then none
      else
        let rs := (List.range (t.mlen / 256)).map fun i => recSection s w (s.mem.readN (a + 256 * i) 256)
        if rs.any Option.isNone ∨ idsDistinct (rs.filterMap id) = false then none else some (rs.filterMap id)
    | _ => none

/-! ### On-chip state (R305) -/

/-- A plane's record. -/
def chipPlane (k : PlaneSt) : ChipPlane := { copy := k.copy, codeSat := k.codeSat, digitalOnly := k.digitalOnly, written := k.written }

/-- The bytes of a range other than zero, by offset. -/
def cellsOf (m : Memory) (a n : Nat) : List (Nat × Byte) :=
  (m.filter fun c => decide (a ≤ c.1 ∧ c.1 < a + n)).map fun c => (c.1 - a, c.2)

/-- An engine's record. -/
def chipEngine (s : State) (g e : Nat) : ChipEngine :=
  let o := ote s g e
  { live := chipPlane o.live, shadow := chipPlane o.shadow, core := Fin.ofNat 144 g, eng := Fin.ofNat 4 e, lambdaF := o.lambdaF, lambdaT := o.lambdaT,
    sigma1 := o.sigma1, rates := o.rows.map fun p => (p.1, p.2.rate) }

/-- A virtual core's record; `ran`: the streams stopped for the freeze. -/
def chipCore (s : State) (ran : List (Nat × Nat)) (g : Nat) : ChipCore :=
  { sram := cellsOf s.mem (sramKey g 0) 16777216
    streams := (List.range 4).map fun st =>
      let r := strm s g st
      { pc := r.pc, sregs := r.sregs, state := if ran.contains (g, st) then 1 else strCode r.state, flags := r.flags }
    queues := (List.range 16).map fun q =>
      let k := queue s g q
      { cfg := k.cfg, toks := k.toks, ovf := k.ovf, rej := k.rej }
    engines := (List.range 4).map (chipEngine s g) }

/-- The cistern windows of a context: (cluster code, BASE, SIZE) in rising order. -/
def windowsOf (s : State) (c : Nat) : List (Nat × Nat × Nat) :=
  (List.range 16).flatMap fun k => (List.range 4).filterMap fun w =>
    let v := Tbl.get 0 (clu s k).cwin w
    if bit v 31 && decide (fld v 28 2 = c) then some (k, fld v 0 11, fld v 16 11) else none

/-- The whole on-chip state of a context. -/
def onChip (s : State) (c : Nat) (ran : List (Nat × Nat)) : OnChip :=
  { cores := (coresOf s c).map (chipCore s ran)
    wins := (windowsOf s c).map fun w =>
      { code := w.1, base := w.2.1, size := w.2.2, cells := cellsOf s.mem (cisternKey w.1 (w.2.1 * 65536)) (w.2.2 * 65536) } }

/-- The on-chip bytes B of a context: SRAM, windows, and `rest`, the streams, queues and planes, which the spec sizes as about 5 MB only. -/
def chipBytes (s : State) (c rest : Nat) : Nat :=
  16777216 * (coresOf s c).length + (windowsOf s c).foldl (fun n w => n + 65536 * w.2.2) 0 + rest

/-! ### The cut (R307, R308) -/

/-- The gate token of a step appended at every virtual core. -/
def gateTokens (c : Nat) (step : Word) (s : State) : State :=
  match template s c with
  | some t =>
    if t.gate then (coresOf s c).foldl (fun s g => remoteToken 4 c (ctx s c).gen g t.gateq step s) s else s
  | none => s

/-- The image of a checkpoint at its cut, without sections. -/
def cutImage (s : State) (c : Nat) (k : CkptRun) : Image :=
  let x := ctx s c
  let js := Tbl.get [] s.ckpt.journals c
  { full := k.full, context := c, job := (template s c).elim 0 Template.job, number := k.number, step := k.step, gen := x.gen, vcores := x.map.length,
    cut := s.time.ns, serial := s.idb.serial, deviceL := s.idb.deviceL, seed := x.seed,
    journal := (js.find? fun j => getN j 4 4 = k.step.toNat).getD (List.replicate 32 0), modeEd := x.modeEd, modeTab := x.modeTab }

/-- The streams of a context that run now, as (core, stream). -/
def runningOf (s : State) (c : Nat) : List (Nat × Nat) :=
  (coresOf s c).flatMap fun g => ((List.range 4).filter fun st => (strm s g st).state == .running).map fun st => (g, st)

/-- The record of a cut: the checkpoint's copying begins, 0x0901. -/
def cutTaken (c us : Nat) (k : CkptRun) (s : State) : State :=
  logRec 0x0901 (0x0900 + c) c k.number.toNat k.step.toNat us
    (onCkpt (fun t => { t with runs := Tbl.set t.runs c (some { k with cut := true, freezing := false }) }) s)

/-- The freeze of a FULL checkpoint begins: the context's running streams stop, its staging section lies at `a`. -/
def beginFreeze (c n a : Nat) (k : CkptRun) (s : State) : State :=
  let ran := runningOf s c
  let k := { k with freezing := true, froze := ran, stage := some { kind := 9, id := 0, addr := a, len := n } }
  ran.foldl (fun s x => stopStream x.1 x.2 s) (onCkpt (fun t => { t with runs := Tbl.set t.runs c (some k) }) s)

/-- Where a template's staging region lies, where it can take `n` bytes: in DDR within the context's reach. -/
def stagingAt (s : State) (c n : Nat) (t : Template) : Option Nat :=
  if t.stagingUnits * 2097152 < n then none
  else match checkAt s (whoStream s c s.hst.edition) t.staging (t.stagingUnits * 2097152) true with
    | .ok (.here a) => if a < 0x1000000000000000 then some a else none
    | _ => none

/-- What the read of a context's manifest shows beside its bytes. -/
def manifestRead (c : Nat) (t : Template) (s : State) : State :=
  if t.mlen = 0 then s
  else match checkAt s (whoStream s c s.hst.edition) t.manifest t.mlen false with
    | .ok (.here a) => readNoted a t.mlen (clearFirst a t.mlen s)
    | _ => s

/-- The cut of a FULL checkpoint: the freeze, or it fails for its staging region. -/
def fullCut (c : Nat) (t : Template) (k : CkptRun) (s : State) : State :=
  let (rest, s) := drawFree 8 s
  let n := chipBytes s c rest
  (stagingAt s c n t).elim (gateTokens c k.step (ckptFail c 7 s)) fun a => beginFreeze c n a k s

/-- The cut of a pending checkpoint: PORTABLE at once, with FULL the freeze begins; a bad manifest or staging region fails it. -/
def takeCut (c : Nat) (k : CkptRun) (s : State) : State :=
  let t := (template s c).getD ⟨false, false, false, 0, 0, 0, 0, 0, 0, 0, 0⟩
  let s := manifestRead c t s
  match readManifest s c t with
  | none => gateTokens c k.step (ckptFail c 7 s)
  | some xs =>
    let xs := xs.filter fun x => x.kind = 1 ∨ k.full
    let k := { k with image := { cutImage s c k with sections := { kind := 2, id := 0, addr := 0, len := 128 } :: xs, slotB := k.slotB,
                                                     records := if t.mlen = 0 then [] else manifestRecs s c t k.full } }
    if k.full = false then gateTokens c k.step (cutTaken c 0 k s) else fullCut c t k s

/-- The gate token of a step and a cut pending at it (R307, R308). -/
def atStep (c : Nat) (step : Word) (s : State) : State :=
  match ckptRun s c with
  | some k => if k.cut = false ∧ k.freezing = false ∧ k.step = step then takeCut c k s else gateTokens c step s
  | none => gateTokens c step s

end Sys2Proof.Machine
end

