-- ==== Sys2Proof/Machine/StepHook.lean ====
section
/-! DEFINITION. What follows a change of a context's last completed step and its completion (R126, R187, R307, R308). -/

namespace Sys2Proof.Machine

/-- A context's last completed step has changed from `old`: AWAIT_STEP entries are satisfied (R187), a cut pending at it is taken
and the gate token appended (R307, R308). -/
def onStep (c : Nat) (old : Word) (s : State) : State :=
  if lastStep s c = old then s else atStep c (lastStep s c) (satisfyAwaits c s)

/-- Whether all four streams of each of a context's cores are HALTED (R126). -/
def ctxComplete (s : State) (c : Nat) : Bool :=
  (ctx s c).created && !(ctx s c).map.isEmpty && !hasUnmapped s c
    && (coresOf s c).all fun g => (List.range 4).all fun st => (strm s g st).state == .halted

/-- A context that has become complete reports so, once: event CTX_DONE and its AWAIT_DONE entries (R126, R187). -/
def checkDone (c : Nat) (s : State) : State :=
  if ctxComplete s c && !(ctx s c).doneReported then
    let last := (lastStep s c).toNat
    let s := updCtx c (fun x => { x with doneReported := true }) s
    let s := (awaits s c).foldl (fun s p =>
      if entOpcode p.2 = 3 then succeed 4 p.1 p.2 (toBytes last 4) s else s) s
    postEvent 0x0210 (core0 s c) (some c) last 0 0 0 s
  else s

end Sys2Proof.Machine
end

