-- ==== Sys2Proof/Machine/Ring.lean ====
section
/-! DEFINITION. The rings: entries and their checks, fetch, doorbells, enable and drain, the WORK entries, interrupts
(R179 to R187, R191 to R193). -/

namespace Sys2Proof.Machine

/-! ### Entries (R183, R187 to R189, R273, R331, R408) -/

/-- The bits of bytes `a` to `b` of an entry. -/
def bytesMask (a b : Nat) : Nat := ones (8 * b + 7) (8 * a)

/-- The payload bits an opcode of a ring type uses; `none` for an opcode that is not defined. -/
def payloadMask (type opc : Nat) : Option Nat :=
  let m := bytesMask
  match type, opc with
  | 1, 1 => some 0
  | 1, 2 => some (m 8 11)
  | 1, 3 => some 0
  | 2, 0x10 => some (m 8 39)
  | 2, 0x11 => some (m 16 31 + m 36 47)
  | 2, 0x12 => some (m 8 39 + 2 ^ 320)
  | 3, 1 => some (m 8 9)
  | 3, 2 => some (m 8 8 + m 16 27)
  | 3, 3 => some (m 8 8 + m 16 23)
  | 3, 4 => some (m 16 23)
  | 3, 5 => some (m 8 8 + m 12 15)
  | 4, 1 => some (m 8 8 + ones 74 72 + m 10 10 + m 12 55)
  | 4, 2 => some (m 8 8 + ones 73 72 + m 12 19)
  | 4, 3 => some (m 8 39)
  | 4, 4 => some (m 8 9 + m 16 23)
  | 4, 5 => some (m 8 9 + ones 82 80 + m 16 43)
  | 4, 6 => some (m 16 23)
  | 4, 7 => some (m 8 8)
  | 4, 8 => some (m 8 9)
  | 5, 0x10 => some (m 8 8 + 2 ^ 72 + m 10 31)
  | 5, 0x11 => some (m 8 8 + m 16 23)
  | 5, 0x12 => some (m 8 8)
  | 5, 0x13 => some (m 8 8 + m 10 19 + ((List.range 16).map fun i => 0x1FF * 2 ^ (192 + 16 * i)).foldl (· + ·) 0)
  | 5, 0x18 => some (m 8 9)
  | 5, 0x19 => some (m 8 9)
  | 5, 0x1A => some (m 8 8)
  | 5, 0x20 => some (m 8 8 + 2 ^ 72)
  | 5, 0x21 => some (m 8 19 + m 24 31)
  | 5, 0x22 => some (m 8 19)
  | 5, 0x23 => some (m 8 11)
  | 5, 0x24 => some 0
  | 5, 0x28 => some (m 8 51)
  | _, _ => none


/-- Whether a FENCED module carries out an entry: update and attestation commands (R404). -/
def fencedRuns (type opc : Nat) : Bool := type == 5 && decide (0x20 ≤ opc)

/-- Whether an entry waits for a later start-up state (R405); in the power-fail action nothing runs (R383). -/
def workHeld (s : State) (type opc : Nat) : Bool :=
  s.pwr.failing.isSome || match s.boot.state with
  | .ready => false
  | .degraded => false
  | .fenced => !fencedRuns type opc
  | _ =>
    (type == 5 && (opc == 0x10 || opc == 0x11 || opc == 0x13 || opc == 0x18 || opc == 0x19))
      || (type == 4 && (opc == 1 || opc == 2 || opc == 5)) || type == 3

/-- The status an entry is refused with at its fetch (R180, R183). -/
def entryRefusal (s : State) (r : Nat) (e : Entry) : Option Nat :=
  let type := ringType (ring s r)
  let c := entCtx s r e
  let open_ : Bool := match c with
    | some i => (ctx s i).created
    | none => false
  if s.boot.state = .fenced ∧ fencedRuns type (entOpcode e) = false then some 0x1C
  else if type = 1 ∧ open_ = false then some 0x12
  else match payloadMask type (entOpcode e) with
    | none => some 0x1B
    | some m =>
      let used := bytesMask 0 0 + ones 10 8 + bytesMask 2 3 + m
        + (if entToken e then bytesMask 56 56 + ones 459 456 + bytesMask 60 63 else 0)
      if getN e.bytes 0 64 &&& (2 ^ 512 - 1 - used) ≠ 0 then some 0x10
      else if entBarrier e ∧ type ≠ 2 then some 0x10
      else if entToken e then
        match c with
        | some i => if type = 3 ∨ type = 4 ∨ type = 5 ∨ (ctx s i).map.length ≤ getN e.bytes 56 1 then some 0x10 else none
        | none => some 0x10
      else none

/-- A fetched entry placed in flight, or completed with its refusal. -/
def acceptEntry (r : Nat) (bs : List Byte) (s : State) : State :=
  let set := s.hst.force
  let gen := match ringCtx set r with
    | some c => (ctx s c).gen
    | none => 0
  let e : Entry := { bytes := bs, edition := s.hst.edition, gen := gen, seq := s.hst.entSeq }
  let s := { s with hst := { s.hst with entSeq := s.hst.entSeq + 1 } }
  let n := ringN (ring s r)
  let s := countHub 4 (ringType (ring s r)) true (updRing r (fun k => { k with sqHead := (k.sqHead + 1) % n, inflight := k.inflight ++ [e] }) s)
  match entryRefusal s r e with
  | some status => complete r e status [] s
  | none => s

/-- Up to 16 entries arrive from the SQ head, never past the tail, each with a reserved completion slot (R179, R181). -/
def execRingFetchComplete (r : RingIx) (s : State) : Out :=
  let k := ring s r
  if k.state = .active ∧ ringType k ≠ 6 ∧ canDma s then
    let n := min 16 (min ((k.sqTail + ringN k - k.sqHead) % ringN k) (cqFree k))
    .next ((List.range n).foldl (fun s i =>
      acceptEntry r (s.mem.readN (hostKey (ringSqBase k + 64 * ((k.sqHead + i) % ringN k))) 64) s) (if n = 0 then s else countHub 8 0 false s))
  else .next s

/-- The oldest entry of a ring whose work has not begun. -/
def oldest (s : State) (r : Nat) : Option Entry := (ring s r).inflight.find? fun e => !e.started

/-- Whether a ring of a type has an entry to be served now by the unit that serves this one: ADMIN rings share the hub, COPY rings an engine. -/
def servable (s : State) (type en r : Nat) : Bool :=
  decide (ringType (ring s r) = type) && (type != 2 || ringEngine (ring s r) == en)
    && (oldest s r).any fun e => !workHeld s type (entOpcode e)

/-- The ring served last by the unit that serves a ring. -/
def lastServed (s : State) (type en : Nat) : Nat := if type = 2 then Tbl.get 63 s.hst.lastCopy en else s.hst.lastAdmin

/-- Whether it is a ring's turn (R181, R189): the next one by rising index behind the ring served last. Other types are not served in turn. -/
def myTurn (s : State) (r type : Nat) : Bool :=
  let en := ringEngine (ring s r)
  let at_ := lastServed s type en
  (type != 2 && type != 5)
    || ((List.range 64).map fun i => (at_ + 1 + i) % 64).find? (servable s type en) == some r

/-- The turn of a ring has been taken. -/
def turnTaken (r type : Nat) (s : State) : State :=
  if type = 2 then { s with hst := { s.hst with lastCopy := Tbl.set s.hst.lastCopy (ringEngine (ring s r)) r } }
  else if type = 5 then { s with hst := { s.hst with lastAdmin := r } }
  else s

/-- The oldest entry of a ring whose work has not begun, when it has this opcode, the ring this type, and it is the ring's turn. -/
def takeEntry (s : State) (r type opc : Nat) : Option Entry :=
  if ringType (ring s r) ≠ type then none
  else match oldest s r with
    | some e => if entOpcode e = opc ∧ workHeld s type opc = false ∧ myTurn s r type then some e else none
    | none => none

/-- An entry's work begun. -/
def startEntry (r : Nat) (e : Entry) (s : State) : State :=
  updRing r (fun k => { k with inflight := k.inflight.map fun x => if x.seq = e.seq then { x with started := true } else x }) s

/-- Work done for a ring's entry of a type and opcode, if it is the oldest waiting there. -/
def onEntry (r type opc : Nat) (s : State) (act : Entry → State) : State :=
  match takeEntry s r type opc with
  | some e =>
    let s' := act e
    if oldest s' r = some e then s' else turnTaken r type s'
  | none => s

/-- An entry's number at byte `i`. -/
def ent (e : Entry) (i n : Nat) : Nat := getN e.bytes i n

/-! ### WORK entries (R187) -/

/-- POST. -/
def execPost (r : RingIx) (s : State) : Out := .next (onEntry r 1 1 s fun e => succeed 4 r e [] s)

/-- AWAIT_STEP waits until the context's last completed step reaches STEP. -/
def execAwaitStep (r : RingIx) (s : State) : Out :=
  .next (onEntry r 1 2 s fun e =>
    match entCtx s r e with
    | none => s
    | some c =>
      let last := lastStep s c
      if last ≠ 0xFFFFFFFF ∧ 0 ≤ sdiff32 last (BitVec.ofNat 32 (ent e 8 4)) then
        succeed 4 r e (toBytes last.toNat 4) s
      else startEntry r e s)

/-- AWAIT_DONE waits until the context is complete. -/
def execAwaitDone (r : RingIx) (s : State) : Out :=
  .next (onEntry r 1 3 s fun e =>
    match entCtx s r e with
    | none => s
    | some c =>
      if ctxComplete s c then succeed 4 r e (toBytes (lastStep s c).toNat 4) s else startEntry r e s)

/-! ### Ring states (R192, R193) -/

/-- STATE of RING_STAT. -/
def ringCode : RingState → Nat
  | .disabled => 0 | .active => 1 | .draining => 2 | .error => 3

/-- An ACTIVE ring sent to ERROR (R193): 0x0204 and RING_ERROR. In any other state the event has no row. -/
def ringError (r err v : Nat) (s : State) : State :=
  let k := ring s r
  if k.state ≠ .active then s else
  let c := ringCtx s.hst.force r
  let s := setRing r { k with state := .error, err := err } s
  postEvent 0x0215 r c r err k.sqHead 0 (logRec 0x0204 r r err k.sqHead v s)

/-- Whether a ring's configuration may be enabled. -/
def ringOk (k : RingSt) : Bool :=
  decide (1 ≤ ringType k ∧ ringType k ≤ 6) && decide (6 ≤ fld k.cfg 4 5 ∧ fld k.cfg 4 5 ≤ 16)

/-- A DISABLED ring activated, or its bad configuration refused. -/
def activate (r : Nat) (s : State) : State :=
  let k := ring s r
  if ringOk k then
    setRing r { k with state := .active, enable := true, pending := false, err := 0, sqHead := 0, sqTail := 0, cqHead := 0,
                       cqTail := 0, pass := true, inflight := [], since := 0 } s
  else
    logRec 0x0201 r r k.cfg.toNat 0 0 (setRing r { k with state := .disabled, enable := false, pending := false } s)

/-- Offset of a ring's register in BAR0. -/
def ringOff (r off : Nat) : Nat := 0x20000 + 0x40 * r + off

/-- RING_CTL written with ENABLE 1 (R193). -/
def execRingEnable (r : RingIx) (s : State) : Out :=
  if blockHeld s (ringOff r 0x18) then .next (heldWrite (ringOff r 0x18) 1 s)
  else match (ring s r).state with
    | .disabled => .next (activate r s)
    | .draining => .next (updRing r (fun k => { k with enable := true, pending := true }) s)
    | _ => .next s

/-- Entries that a drain aborts: AWAITs, and MODE_STAGE commands whose edition is staged. -/
def drainAborts (k : RingSt) (e : Entry) : Bool :=
  (ringType k == 1 && (entOpcode e == 2 || entOpcode e == 3)) || (ringType k == 5 && e.started && entOpcode e == 0x13)

/-- A staged mode edition whose deferred completion was aborted stays staged (R193). -/
def forgetStage (r : Nat) (s : State) : State :=
  (List.range 4).foldl (fun s c => updCtx c (fun x => { x with staged := x.staged.map fun m =>
    { m with ring := match m.ring with
        | some p => if p.1 = r then none else some p
        | none => none } }) s) s

/-- RING_CTL written with ENABLE 0 (R193). -/
def execRingDisable (r : RingIx) (s : State) : Out :=
  if blockHeld s (ringOff r 0x18) then .next (heldWrite (ringOff r 0x18) 0 s)
  else
    let k := ring s r
    if k.state = .active ∨ k.state = .error then
      let s := setRing r { k with state := .draining, enable := false, pending := false } s
      let s := (k.inflight.filter (drainAborts k)).foldl (fun s e => complete r e 0x1C [] s) s
      .next (forgetStage r s)
    else if k.state = .draining then .next (setRing r { k with enable := false, pending := false } s)
    else .next s

/-- The last completion of a draining ring is written (R193). -/
def execRingDrainComplete (r : RingIx) (s : State) : Out :=
  let k := ring s r
  if k.state = .draining ∧ k.inflight.isEmpty ∧ (s.hst.waitCq.any fun w => w.1 == r.val) = false then
    if k.pending then .next (activate r (setRing r { k with state := .disabled } s))
    else .next (setRing r { k with state := .disabled } s)
  else .next s

/-- TIME µs after the first completion that no message has covered (R192). -/
def execMsixTimeExpiry (r : RingIx) (s : State) : Out :=
  let k := ring s r
  if bit k.cfg 23 ∧ k.since ≠ 0 ∧ fld k.mod 8 16 ≠ 0 ∧ k.sinceAt + fld k.mod 8 16 * 1000 ≤ s.now then
    .next (sendMsix (fld k.cfg 16 7) (setRing r { k with since := 0 } s))
  else .next s

/-! ### Requests of the host (R173 to R175) -/

/-- An error reported through AER. -/
def aer (x : AerRec) (s : State) : State := { s with hst := { s.hst with aer := x :: s.hst.aer } }

/-- A BAR request: while Memory Space Enable is 0 it completes with Unsupported Request status (R174); while the module is off or the reset of
its host interface runs nothing answers. `len`: the request's length as its header has it, with every byte enabled. -/
def onBar (write : Bool) (addr len : Nat) (s : State) (act : State → State) : State :=
  if s.boot.state = .off ∨ s.hst.resetting then s
  else if s.hst.mse then act s
  else
    let s := aer ⟨2, write, addr, len, 0xF⟩ s
    if write then s else send .completion 1 [addr] s

/-! ### Doorbells (R182) -/

/-- A doorbell discarded and logged. -/
def doorbellDrop (off size state : Nat) (s : State) : State :=
  logRec 0x0203 (if off < 0x200 then off / 8 else 0xFF) off size state 0 s

/-- An SQ tail value written to a ring. -/
def sqTail (r off size : Nat) (t : Nat) (s : State) : State :=
  let k := ring s r
  let n := ringN k
  match k.state with
  | .active =>
    if ringType k = 6 then s
    else if t < n ∧ (k.sqTail + n - k.sqHead) % n ≤ (t + n - k.sqHead) % n then setRing r { k with sqTail := t } s
    else ringError r 1 t s
  | _ => doorbellDrop off size (ringCode k.state) s

/-- A CQ head value written to a ring. -/
def cqHead (r off size : Nat) (c : Nat) (s : State) : State :=
  let k := ring s r
  let n := ringN k
  let ok := c < n ∧ (c + n - k.cqHead) % n ≤ (k.cqTail + n - k.cqHead) % n
  match k.state with
  | .active => if ok then setRing r { k with cqHead := c } s else ringError r 1 c s
  | .error => if ok then setRing r { k with cqHead := c } s else doorbellDrop off size 3 s
  | _ => doorbellDrop off size (ringCode k.state) s

/-- A write to a doorbell page offset: an 8-byte write sets both halves, 4 bytes one. -/
def doorbell (off size : Nat) (v : DWord) (s : State) : State :=
  if 0x200 ≤ off then doorbellDrop off size 0 s
  else
    let r := off / 8
    if off % 8 = 0 ∧ size = 8 then
      if (ring s r).state = .disabled ∨ (ring s r).state = .draining then
        doorbellDrop off size (ringCode (ring s r).state) s
      else cqHead r off size (fld v 32 32) (sqTail r off size (fld v 0 32) s)
    else if off % 8 = 0 ∧ size = 4 then sqTail r off size (fld v 0 32) s
    else if off % 8 = 4 ∧ size = 4 then cqHead r off size (fld v 0 32) s
    else doorbellDrop off size (ringCode (ring s r).state) s

/-- A doorbell write that names an SQ tail. -/
def execSqTailDoorbell (off size : Nat) (v : DWord) (s : State) : Out :=
  .next (onBar true off size s (doorbell off size v))

/-- A doorbell write that names a CQ head. -/
def execCqHeadDoorbell (off size : Nat) (v : DWord) (s : State) : Out :=
  .next (onBar true off size s (doorbell off size v))

/-- What a doorbell read returns (R182): the SQ head and the CQ tail of the ring, or the half that is asked for; 0 for any other size or offset. -/
def doorbellValue (s : State) (off size : Nat) : List Nat :=
  let k := ring s (off / 8)
  if 0x200 ≤ off then [0]
  else if off % 8 = 0 ∧ size = 8 then [k.sqHead, k.cqTail]
  else if off % 8 = 0 ∧ size = 4 then [k.sqHead]
  else if off % 8 = 4 ∧ size = 4 then [k.cqTail]
  else [0]

end Sys2Proof.Machine
end

