-- ==== Sys2Proof/Machine/Tokens.lean ====
section
/-! DEFINITION. Token queues, the cluster router, core scrub and the corrected-error fence (R24 to R37). -/

namespace Sys2Proof.Machine

/-- The queue and payload of a SIGNAL (R114). -/
def signalQ (w : IWord) : Nat := fld w 12 4
def signalPayload (r : Stream) (w : IWord) : Word :=
  if bit w 16 then w.extractLsb' 32 32 else (sreg r.sregs (fld w 8 4)).extractLsb' 0 32

/-- A SIGNAL past its release point (R26, R28, R114): dropped and counted where its stream is no producer or the
queue is off, stalled by a full queue (STALL 2), else its token appended. -/
def doSignal (g st : Nat) (r : Stream) (w : IWord) (s : State) : State :=
  let q := signalQ w
  let k := queue s g q
  if ¬ (bit k.cfg 31 ∧ bit k.cfg (4 + st)) then issued g st (rejectToken g q s)
  else if 64 ≤ k.toks.length then stallAt g st 2 q s
  else issued g st (appendToken g q (signalPayload r w) s)

/-- SIGNAL (R26, R113, R119). -/
def execSignal (g : Core) (st : Str) (s : State) : Out :=
  .next (front 3 g st s fun r w => release g st s (doSignal g st r w s))

/-- A SIGNAL stalled on a full queue appends its token once an entry frees (R26). -/
def execSignalResume (g : Core) (st : Str) (s : State) : Out :=
  let r := strm s g st
  match r.state, fetched r with
  | .running, some w =>
    if r.stall = 2 ∧ (queue s g (signalQ w)).toks.length < 64 then
      .next (issued g st (appendToken g (signalQ w) (signalPayload r w) s))
    else .next s
  | _, _ => .next s

/-- The head token of a queue taken into s[D], zero-extended (R114). -/
def takeToken (g st q d : Nat) (s : State) : State :=
  let k := queue s g q
  issued g st (updStrm g st (setSreg d ((k.toks.headD 0).setWidth 64)) (setQueue g q { k with toks := k.toks.tail } s))

/-- WAIT (R26, R28): faults QUEUE on a queue that is off, by a stream that is not the consumer, or at the first WAIT
after an overflow; stalls on an empty queue (STALL 1); else takes the head token. -/
def execWait (g : Core) (st : Str) (s : State) : Out :=
  .next (front 2 g st s fun r w =>
    let q := fld w 12 4
    let k := queue s g q
    if ¬ (bit k.cfg 31 ∧ fld k.cfg 0 2 = st.val) then strFault g st 0x0A q true 2 r.pc s
    else if k.ovfPend then strFault g st 0x0A q true 2 r.pc (setQueue g q { k with ovfPend := false } s)
    else if k.toks.isEmpty then stallAt g st 1 q s
    else takeToken g st q (fld w 8 4) s)

/-- A WAIT stalled on an empty queue takes the token that has arrived (R29). -/
def execWaitResume (g : Core) (st : Str) (s : State) : Out :=
  let r := strm s g st
  match r.state, fetched r with
  | .running, some w =>
    if r.stall = 1 ∧ (queue s g (fld w 12 4)).toks ≠ [] then .next (takeToken g st (fld w 12 4) (fld w 8 4) s)
    else .next s
  | _, _ => .next s

/-- The source kind of a token (R43). -/
def srcKind : TokSrc → Nat
  | .remoteStream => 1 | .copyEngine => 2 | .fabric => 3 | .host => 4

/-- A remote token reaches a queue (R28). A core that the context does not own has no queue of it: the token is late. -/
def execRemoteTokenArrival (src : TokSrc) (c : Ctx) (gen : Byte) (g : Core) (q : Queue) (payload : Word) (s : State) :
    Out :=
  let s := { s with transit := s.transit.erase ⟨c.val, gen, g.val, q.val, payload⟩ }
  if (core s g).state = .assigned ∧ (core s g).ctx = c then .next (remoteToken (srcKind src) c gen g q payload s)
  else .next (lateDrop c gen s)

/-- The fields of CORE_TQ_CFG (R7: reserved fields ignore writes). -/
def tqCfgMask : Word := 0x807F01F3

/-- PRELOAD tokens 0 to p − 1 (R30); values above 64 act as 64. -/
def preload (v : Word) : List Word := (List.range (min 64 (fld v 16 7))).map fun i => BitVec.ofNat 32 i

/-- A write to CORE_TQ_CFG (R30). -/
def execCoreTqCfgWrite (g : Core) (q : Queue) (v : Word) (s : State) : Out :=
  let off := 0x100 + 0x10 * q.val
  .next (coreWrite g off v s (
    if coreQuiet s g then
      let k := queue s g q
      let v := v &&& tqCfgMask
      setQueue g q { k with cfg := v, toks := if bit v 31 && !bit k.cfg 31 then preload v else k.toks } s
    else logCore g 0x04 q off v.toNat 0 s))

/-- A write to CORE_TQ_CTL (R30): CLEAR empties the queue and zeroes its counts. A write with CLEAR 0 asks for nothing, so nothing is discarded
or logged whatever the streams do (log 92). -/
def execTqClear (g : Core) (q : Queue) (v : Word) (s : State) : Out :=
  let off := 0x10C + 0x10 * q.val
  .next (coreWrite g off v s (
    if bit v 0 = false then s
    else if coreQuiet s g then setQueue g q { queue s g q with toks := [], ovf := 0, rej := 0 } s
    else logCore g 0x04 q off v.toNat 0 s))

/-- The beats of an input port. -/
def beats (s : State) (c p : Nat) : List Beat := Tbl.get [] (clu s c).beats p
def setBeats (c p : Nat) (b : List Beat) (s : State) : State :=
  updClu c (fun k => { k with beats := Tbl.set k.beats p b }) s

/-- Beats of one class that an input port holds. -/
def heldBeats (s : State) (c p : Nat) (rsp : Bool) : Nat := ((beats s c p).filter fun x => x.rsp == rsp).length

/-- RSP beats of an input port's buffer neither held nor reserved for a response (R24). -/
def rspRoom (s : State) (c p : Nat) : Nat := 32 - heldBeats s c p true - Tbl.get 0 (clu s c).rspRes p

/-- The reservation count of an input port changed. -/
def setRes (c p n : Nat) (s : State) : State := updClu c (fun k => { k with rspRes := Tbl.set k.rspRes p n }) s

/-- The beats of one class for one output that leave a buffer, oldest first, while a REQ that needs a response finds RSP space to reserve
(R24): those that stay, how many left, how many reserved. -/
def drainBeats (out : Nat) (rsp : Bool) : Nat → List Beat → List Beat × Nat × Nat
  | _, [] => ([], 0, 0)
  | room, b :: bs =>
    if b.out = out ∧ b.rsp = rsp then
      if b.needs then
        if room = 0 then (b :: bs, 0, 0)
        else
          let r := drainBeats out rsp (room - 1) bs
          (r.1, r.2.1 + 1, r.2.2 + 1)
      else
        let r := drainBeats out rsp room bs
        (r.1, r.2.1 + 1, r.2.2)
    else
      let r := drainBeats out rsp room bs
      (b :: r.1, r.2)

/-- A buffer class of an input port has moved: its hang time begins anew (R342). -/
def beatMoved (c inp : Nat) (rsp : Bool) (s : State) : State :=
  updClu c (fun k => { k with beatAt := Tbl.set k.beatAt (2 * inp + b2n rsp) s.now }) s

/-- An output takes the beats of a class that an input port holds for it, and their credits return (R24, log 81). -/
def routerDrain (c inp out : Nat) (rsp : Bool) (s : State) : State :=
  let r := drainBeats out rsp (rspRoom s c out) (beats s c inp)
  let s := if r.2.1 = 0 then s else beatMoved c inp rsp s
  countAt (cluBase c + 0x4000) 8 3 out r.2.1 true
    (setRes c out (Tbl.get 0 (clu s c).rspRes out + r.2.2) (setBeats c inp r.1 s))

/-- A beat enters an input port; a response uses the space reserved for it (R24). -/
def enterBeat (c inp : Nat) (b : Beat) (s : State) : State :=
  let s := if heldBeats s c inp b.rsp = 0 then beatMoved c inp b.rsp s else s
  let s := countClu c 2 inp (setBeats c inp (beats s c inp ++ [b]) s)
  if b.rsp then setRes c inp (Tbl.get 0 (clu s c).rspRes inp - 1) s else s

/-- A beat enters a router input port on a credit of its class; its output, unless it takes none now, takes the beats held for it in that
class in the order they came, this one last (R24). A parity error drops this beat, sets RTR_PARITY and faults the receiving stream's
instruction (R42, R127). -/
def execRouterBeat (c : Clu) (inp out : Fin 12) (rsp needs held : Bool) (parity : Option (Core × Str)) (s : State) : Out :=
  let s := if held then s else routerDrain c inp out rsp s
  if 32 ≤ heldBeats s c inp rsp then .next s
  else
    let b : Beat := { out := out.val, rsp := rsp, needs := needs && !rsp }
    let before := beats s c inp
    let s := enterBeat c inp b s
    if held then .next s
    else match parity with
    | none => .next (routerDrain c inp out rsp s)
    | some (g, st) =>
      let s := cluFault c 0 (setBeats c inp before s)
      match (strm s g st).outst with
      | op :: _ => .next (execFault g st op 0x0E 0 s)
      | [] => .next s

/-- More than 1,000 corrected errors per second for 10 s: the core is fenced with cause SRAM_CE (R37). -/
def execSramCeRateExpiry (g : Core) (s : State) : Out :=
  if (core s g).state = .absent ∨ (core s g).state = .fenced then .next s
  else .next (fenceCore g 2 (coreFault g 1 s))

/-- The scrub of a core ends (R36): context and GEN cleared, self-test run; a failure fences it. -/
def execScrubComplete (g : Core) (selftestOk : Bool) (s : State) : Out :=
  if (core s g).state = .scrub then
    let s := updCore g (fun k => { k with state := .free, ctx := 0, gen := 0, vcore := 0 }) (scrubCore g s)
    if selftestOk then .next s else .next (fenceCore g 3 (coreFault g 2 s))
  else .next s

end Sys2Proof.Machine
end

