-- ==== Sys2Proof/Machine/Sequencer.lean ====
section
/-! DEFINITION. The common instructions, GET, PUT, STEPMARK, MODESYNC, fetch and the stream states (R110 to R130). -/

namespace Sys2Proof.Machine

/-- NOP (R113). -/
def execNop (g : Core) (st : Str) (s : State) : Out := .next (front 0 g st s fun _ _ => issued g st s)

/-- HALT past its release point: the stream enters HALTED, and the context may become complete (R126). -/
def doHalt (g st : Nat) (s : State) : State :=
  checkDone (core s g).ctx.val (updStrm g st (fun r => { r with state := .halted }) (issued g st s))

/-- HALT (R113, R119). -/
def execHalt (g : Core) (st : Str) (s : State) : Out :=
  .next (front 1 g st s fun _ _ => release g st s (doHalt g st s))

/-- RSIGNAL past its release point: the token goes into the router, stamped with the context's GEN (R27, R113). -/
def doRsignal (g st : Nat) (r : Stream) (w : IWord) (s : State) : State :=
  let k := core s g
  match (ctx s k.ctx.val).map[fld w 24 8]? with
  | some (some x) =>
    issued g st { s with transit := s.transit ++
      [⟨k.ctx.val, k.gen, x.val, fld w 12 4, (sreg r.sregs (fld w 8 4)).extractLsb' 0 32⟩] }
  | _ => strFault g st 6 0 true 4 r.pc s

/-- RSIGNAL (R113, R114): a VCORE of n or more faults XCTX. -/
def execRsignal (g : Core) (st : Str) (s : State) : Out :=
  .next (front 4 g st s fun r w =>
    if (ctx s (core s g).ctx.val).map.length ≤ fld w 24 8 then strFault g st 9 0 true 4 r.pc (coreFault g 6 s)
    else release g st s (doRsignal g st r w s))

/-- The 32-bit immediate of LI, ALU and BR. -/
def imm32 (w : IWord) : Word := w.extractLsb' 32 32

/-- LI (R114). -/
def execLi (g : Core) (st : Str) (s : State) : Out :=
  .next (front 5 g st s fun r w =>
    let d := fld w 8 4
    let v : DWord := if bit w 16 then (imm32 w) ++ (sreg r.sregs d).extractLsb' 0 32 else (imm32 w).setWidth 64
    issued g st (updStrm g st (setSreg d v) s))

/-- The result of an ALU function (R114); `none` for an undefined one. -/
def aluOp (f : Nat) (a b : DWord) : Option DWord :=
  match f with
  | 0 => some (a + b)
  | 1 => some (a - b)
  | 2 => some (a &&& b)
  | 3 => some (a ||| b)
  | 4 => some (a ^^^ b)
  | 5 => some (a <<< fld b 0 6)
  | 6 => some (a >>> fld b 0 6)
  | 7 => some (a * b)
  | 8 => some (if a.toNat ≤ b.toNat then a else b)
  | 9 => some (if a.toNat ≤ b.toNat then b else a)
  | _ => none

/-- ALU (R114). -/
def execAlu (g : Core) (st : Str) (s : State) : Out :=
  .next (front 7 g st s fun r w =>
    let b := if bit w 24 then (imm32 w).signExtend 64 else sreg r.sregs (fld w 16 4)
    match aluOp (fld w 20 4) (sreg r.sregs (fld w 12 4)) b with
    | some v => issued g st (updStrm g st (setSreg (fld w 8 4) v) s)
    | none => strFault g st 4 20 true 7 r.pc s)

/-- The condition of a BR (R114); `none` for an undefined one. -/
def brCond (c : Nat) (a b : DWord) : Option Bool :=
  match c with
  | 0 => some true
  | 1 => some (a == b)
  | 2 => some (a != b)
  | 3 => some (decide (a.toNat < b.toNat))
  | 4 => some (decide (b.toNat ≤ a.toNat))
  | 5 => some (decide (a.toInt < b.toInt))
  | 6 => some (decide (b.toInt ≤ a.toInt))
  | _ => none

/-- A taken branch: to a target in the fetch buffer, or with the buffer emptied and its window begun at the target
(R111). -/
def jump (t : Word) (r : Stream) : Stream :=
  if r.fbuf.any fun p => p.1 = t then slide t r else { r with pc := t, fbuf := [], wbase := t }

/-- BR (R114): the target is the BR's own address plus 16 × OFFSET. -/
def execBr (g : Core) (st : Str) (s : State) : Out :=
  .next (front 8 g st s fun r w =>
    match brCond (fld w 20 4) (sreg r.sregs (fld w 12 4)) (sreg r.sregs (fld w 16 4)) with
    | none => strFault g st 4 20 true 8 r.pc s
    | some false => issued g st s
    | some true =>
      updStrm g st (fun r' => jump (pcAdd r.pc (imm32 w).toInt) { r' with wbase := r.wbase, fbuf := r.fbuf }) (issued g st s))

/-- RDSYS values (R114). -/
def sysValue (s : State) (g st sel : Nat) : Option Nat :=
  let k := core s g
  match sel with
  | 0 => some k.vcore
  | 1 => some (ctx s k.ctx.val).map.length
  | 2 => some k.ctx.val
  | 3 => some k.gen.toNat
  | 4 => some (ctx s k.ctx.val).modeEd.toNat
  | 5 => some st
  | 6 => some ((s.now - k.assignedAt) * 8 / 5)
  | _ => none

/-- RDSYS (R114). -/
def execRdsys (g : Core) (st : Str) (s : State) : Out :=
  .next (front 9 g st s fun r w =>
    match sysValue s g st (fld w 16 8) with
    | some v => issued g st (updStrm g st (setSreg (fld w 8 4) (BitVec.ofNat 64 v)) s)
    | none => strFault g st 4 16 true 9 r.pc s)

/-- FENCE (R113, R119). -/
def execFence (g : Core) (st : Str) (s : State) : Out :=
  .next (front 0x0A g st s fun _ _ => release g st s (issued g st s))

/-- STEPMARK past its release point: the mark of the virtual core (R116). -/
def doStepmark (g st : Nat) (r : Stream) (w : IWord) (s : State) : State :=
  let k := core s g
  let c := k.ctx.val
  let old := lastStep s c
  let v := (sreg r.sregs (fld w 12 4)).extractLsb' 0 32
  onStep c old (updCtx c (fun x => { x with marks := Tbl.set x.marks k.vcore v }) (issued g st s))

/-- STEPMARK (R116, R119). -/
def execStepmark (g : Core) (st : Str) (s : State) : Out :=
  .next (front 0x21 g st s fun r w => release g st s (doStepmark g st r w s))

/-- VSTAT past its wait: the sticky flags read and cleared (R141). -/
def doVstat (g st : Nat) (r : Stream) (w : IWord) (s : State) : State :=
  issued g st (updStrm g st (fun x => setSreg (fld w 8 4) (r.flags.setWidth 64) { x with flags := 0 }) s)

/-- The lowest bit position of a VSTAT field that breaks the VECTOR instructions' shared layout: the element count, the formats, RND (R118,
log 108). -/
def vstatBad (t : Tbl DWord) (w : IWord) : Option Nat :=
  let n := fld w 24 4
  if n ≠ 0 ∧ ((sreg t n).toNat = 0 ∨ 16777215 < (sreg t n).toNat) then some 24
  else if n = 0 ∧ fld w 28 24 = 0 then some 28
  else if 12 ≤ fld w 52 4 then some 52
  else if 12 ≤ fld w 56 4 then some 56
  else if 12 ≤ fld w 60 4 then some 60
  else if 2 ≤ fld w 68 2 then some 68
  else none

/-- VSTAT (R113, R118): after earlier VECTOR instructions complete; meanwhile STALL 8. -/
def execVstat (g : Core) (st : Str) (s : State) : Out :=
  .next (front 0x46 g st s fun r w =>
    match vstatBad r.sregs w with
    | some b => strFault g st 4 b true 0x46 r.pc s
    | none => if quiet s g st then doVstat g st r w s else stallAt g st 8 0 s)

/-- A release instruction (or VSTAT) stalled for earlier work takes effect when that work has completed (R119). -/
def execReleaseComplete (g : Core) (st : Str) (s : State) : Out :=
  let r := strm s g st
  if r.state = .running ∧ (r.stall = 3 ∨ r.stall = 8) ∧ quiet s g st then
    match fetched r with
    | some w =>
      match fld w 0 8 with
      | 0x01 => .next (doHalt g st s)
      | 0x03 => .next (doSignal g st r w s)
      | 0x04 => .next (doRsignal g st r w s)
      | 0x0A => .next (issued g st s)
      | 0x21 => .next (doStepmark g st r w s)
      | 0x46 => .next (doVstat g st r w s)
      | _ => .next s
    | none => .next s
  else .next s

/-! ### GET and PUT (R115) -/

/-- The fields of a GET or PUT as captured at issue. -/
structure Xfer_ where
  len : Nat
  rows : Nat
  sramBase : Nat
  sramStride : Nat
  da : Nat
  daStride : Nat

/-- GET's operands. -/
def getXfer (t : Tbl DWord) (w : IWord) : Xfer_ :=
  ⟨fld w 16 24, fld w 40 16 + 1, (sreg t (fld w 8 4)).toNat, fld w 56 24, (sreg t (fld w 12 4)).toNat, fld w 80 32⟩

/-- PUT's operands. -/
def putXfer (t : Tbl DWord) (w : IWord) : Xfer_ :=
  ⟨fld w 16 24, fld w 40 16 + 1, (sreg t (fld w 12 4)).toNat, fld w 56 24, (sreg t (fld w 8 4)).toNat, fld w 80 32⟩

/-- The first row of a core SRAM footprint that leaves the SRAM (R18, R110). -/
def sramBad (base len rows stride : Nat) : Option Nat :=
  (rowAddrs base rows stride).find? fun a => 0x1000000 < a + len

/-- A long instruction's record at its issue (R119). -/
def longOp (s : State) (g : Nat) (r : Stream) (w : IWord) : LongOp :=
  let k := core s g
  { word := w, pc := r.pc, sregs := r.sregs, ctx := k.ctx, gen := k.gen, vcore := k.vcore, edition := s.hst.edition,
    issuedAt := s.now }

/-- The pieces of a transfer's rows that lie in a peer. -/
def xferPieces (s : State) (who : Who) (g : Nat) (x : Xfer_) (write : Bool) : List Piece :=
  (List.range x.rows).flatMap fun r =>
    match placeOf s who (x.da + r * x.daStride) x.len write with
    | some (.peer m _) => rowPieces m (!write) (bits (x.da + r * x.daStride) 0 55) (sramKey g (x.sramBase + r * x.sramStride)) x.len
    | _ => []

/-- The TOKEN_ONLY segment a PUT into a peer ends with (R115, R243). -/
def xferToken (s : State) (who : Who) (op : LongOp) (x : Xfer_) (write : Bool) : Option (Nat × Nat × Nat × Nat × Word) :=
  if write ∧ bit op.word 112 then
    match placeOf s who x.da x.len write with
    | some (.peer m _) => some (m, bits x.da 0 55, innerCore (bits x.da 0 55), fld op.word 113 4,
        (sreg op.sregs (fld op.word 117 4)).extractLsb' 0 32)
    | _ => none
  else none

/-- A GET or PUT issued: towards memory of this module, or a fabric transfer. -/
def issueXfer (g st : Nat) (w : IWord) (r : Stream) (x : Xfer_) (write : Bool) (s : State) : State :=
  let op := longOp s g r w
  let who := whoStream s op.ctx.val op.edition
  let ps := xferPieces s who g x write
  let tok := xferToken s who op x write
  let s := issued g st s
  if ps.isEmpty then updStrm g st (fun r => { r with outst := r.outst ++ [op] }) s
  else
    let n := newXfer { ctx := some op.ctx, gen := op.gen, tc := 1, todo := ps, token := tok } s
    updStrm g st (fun r => { r with outst := r.outst ++ [{ op with xfer := n.1 }] }) n.2

/-- GET (R115, R127): operand checks, then the footprints of the destination and of the source. -/
def execGet (g : Core) (st : Str) (s : State) : Out :=
  .next (front 0x10 g st s fun r w =>
    let x := getXfer r.sregs w
    let who := whoStream s (core s g).ctx.val s.hst.edition
    if x.len = 0 then strFault g st 4 16 true 0x10 r.pc s
    else match sramBad x.sramBase x.len x.rows x.sramStride with
      | some a => strFault g st 6 a true 0x10 r.pc s
      | none => match checkRows s who (rowAddrs x.da x.rows x.daStride) x.len false with
        | some (e, a) => accFault g st e a false 0x10 r.pc s
        | none => issueXfer g st w r x false s)

/-- The virtual core that a core SRAM address names, when its core field names one. -/
def sramVcore (da : Nat) : Option Nat :=
  if bits da 60 4 = 2 ∧ bits da 52 4 < 9 then some (bits da 59 1 * 72 + bits da 56 3 * 9 + bits da 52 4) else none

/-- Whether a PUT's destination can take a token: core SRAM of a virtual core of the context, here or inside a peer (R115). The count of a
peer's cores is the peer's to check. -/
def tokenDest (s : State) (c da : Nat) : Bool :=
  let mine := fun (d : Nat) => match sramVcore d with
    | some v => decide (v < (ctx s c).map.length)
    | none => false
  if bits da 60 4 = 8 then bits da 53 2 == 2 && (bits da 55 5 != s.steer.slot || mine (innerDa da)) else mine da

/-- PUT (R115, R127). -/
def execPut (g : Core) (st : Str) (s : State) : Out :=
  .next (front 0x20 g st s fun r w =>
    let x := putXfer r.sregs w
    let who := whoStream s (core s g).ctx.val s.hst.edition
    if x.len = 0 then strFault g st 4 16 true 0x20 r.pc s
    else if bit w 112 ∧ tokenDest s (core s g).ctx.val x.da = false then strFault g st 4 112 true 0x20 r.pc s
    else match checkRows s who (rowAddrs x.da x.rows x.daStride) x.len true with
      | some (e, a) => accFault g st e a true 0x20 r.pc s
      | none => match sramBad x.sramBase x.len x.rows x.sramStride with
        | some a => strFault g st 6 a true 0x20 r.pc s
        | none => issueXfer g st w r x true s)

/-- Rows copied in order, source to destination memory addresses. -/
def copyRows (len : Nat) : List (Nat × Nat) → State → State
  | [], s => s
  | (a, b) :: t, s => copyRows len t (store b (s.mem.readN a len) s)

/-- The (source, destination) memory addresses of each row of a transfer whose rows all lie in this module. -/
def xferPairs (s : State) (who : Who) (g : Nat) (x : Xfer_) (write : Bool) : List (Nat × Nat) :=
  (List.range x.rows).filterMap fun r =>
    let a := sramKey g (x.sramBase + r * x.sramStride)
    match placeOf s who (x.da + r * x.daStride) x.len write with
    | some (.here b) => some (if write then (a, b) else (b, a))
    | _ => none

/-- The pieces (offset in the row, length) of a row that lie in the 128-byte destination lines which `keep` names, neighbours joined. -/
def linePieces (keep : Nat → Bool) (dst len : Nat) : List (Nat × Nat) :=
  (List.range ((dst + len + 127) / 128 - dst / 128)).foldl (fun ps i =>
    let line := dst / 128 + i
    let lo := max dst (128 * line) - dst
    let n := min (dst + len) (128 * line + 128) - dst - lo
    if keep line = false then ps
    else match ps.getLast? with
      | some (a, m) => if a + m = lo then ps.dropLast ++ [(a, m + n)] else ps ++ [(lo, n)]
      | none => [(lo, n)]) []

/-- What a faulted transfer has written: each destination line holds its old or its new content, which of them is a free value (R128). -/
def copyLines (keep : Nat → Bool) (len : Nat) : List (Nat × Nat) → State → State
  | [], s => s
  | (a, b) :: t, s =>
    copyLines keep len t ((linePieces keep b len).foldl (fun s p => store (b + p.1) (s.mem.readN (a + p.1) p.2) s) s)

/-- Before rows of this module's DDR are read or written: regions that wait for their zeroing are zeroed, and the units read come out as their
codes say (R153, R159). -/
def ddrReady (ps : List (Nat × Nat)) (len : Nat) (s : State) : State :=
  ps.foldl (fun s p => readRange p.1 len (clearFirst p.2 len (clearFirst p.1 len s))) s

/-- Whether rows that lie in host memory wait for Bus Master Enable (R174). -/
def hostWaits (s : State) (ps : List (Nat × Nat)) : Bool :=
  !canDma s && ps.any fun p => decide (0x10000000000000000 ≤ p.1 ∨ 0x10000000000000000 ≤ p.2)

/-- The rows of a transfer that faults: which destination lines are new is a free value (R128). -/
def xferPart (ps : List (Nat × Nat)) (len : Nat) (s : State) : State :=
  let n := drawFree 2 s
  copyLines (fun l => (Config.openByte n.1 l).getLsbD 0) len ps n.2

/-- The end of a GET's or PUT's copying: failures found during execution (R127, R128), else every row copied. An SEC-DED finding is of the
source: of a PUT its own core's SRAM, of a GET the memory of its first row in this module (R21, R22). -/
def finishXfer (g st : Nat) (op : LongOp) (x : Xfer_) (write : Bool) (ecc : Ecc) (s : State) (done : State → State) :
    State :=
  let ps := xferPairs s (whoStream s op.ctx.val op.edition) g x write
  let fail := fun (cause info : Nat) (s : State) => dropXfer op.xfer (execFault g st op cause info (xferPart ps x.len s))
  let fx := xferOf s op.xfer
  match op.bad.orElse fun _ => fx.err.map fun p => (streamCause p.1, p.2) with
  | some (cause, info) => fail cause info (ddrReady ps x.len s)
  | none =>
    if xferDone fx = false ∨ hostWaits s ps then s
    else
      let src := if write then sramKey g 0 else (ps.headD (hostKey 0, 0)).1
      let e := applyEcc src ecc (ddrReady ps x.len s)
      match e.1.orElse fun _ => ps.findSome? fun p => badByte e.2 p.1 x.len with
      | some a => fail 0x0C a (if e.1.isSome then e.2 else eccDouble a e.2)
      | none => done (dropXfer op.xfer (updStrm g st (fun r => { r with outst := r.outst.erase op }) (copyRows x.len ps e.2)))

/-- The `i`-th outstanding long instruction of a stream, when it has this opcode. -/
def outstAt (s : State) (g st i opc : Nat) : Option LongOp :=
  match (strm s g st).outst[i]? with
  | some op => if fld op.word 0 8 = opc then some op else none
  | none => none

/-- A GET completes: every byte written to core SRAM (R115). -/
def execGetComplete (g : Core) (i : Nat) (ecc : Ecc) (s : State) : Out :=
  match outstAt s g 0 i 0x10 with
  | some op => .next (finishXfer g 0 op (getXfer op.sregs op.word) false ecc s id)
  | none => .next s

/-- The completion token of a PUT at its destination core in this module (R115, R27). -/
def putToken (op : LongOp) (da : Nat) (s : State) : State :=
  if bit op.word 112 then
    let v := bits da 59 1 * 72 + bits da 56 3 * 9 + bits da 52 4
    match (ctx s op.ctx.val).map[v]? with
    | some (some x) =>
      remoteToken 1 op.ctx.val op.gen x.val (fld op.word 113 4)
        ((sreg op.sregs (fld op.word 117 4)).extractLsb' 0 32) s
    | _ => s
  else s

/-- A PUT completes: every byte visible at the destination, then its token (R115). A transfer to a peer carries its
token there. -/
def execPutComplete (g : Core) (i : Nat) (ecc : Ecc) (s : State) : Out :=
  match outstAt s g 3 i 0x20 with
  | some op =>
    let x := putXfer op.sregs op.word
    let da := if bits x.da 60 4 = 8 ∧ bits x.da 55 5 = s.steer.slot then innerDa x.da else x.da
    .next (finishXfer g 3 op x true ecc s fun s => if bits da 60 4 = 2 then putToken op da s else s)
  | none => .next s

/-! ### MODESYNC (R124, R125) -/

/-- MODESYNC completed at once with an outcome. -/
def syncDone (g st d outcome : Nat) (s : State) : State :=
  issued g st (updStrm g st (setSreg d (BitVec.ofNat 64 outcome)) s)

/-- All virtual cores have arrived: the staged table becomes current, every waiting stream is released, MODE_APPLIED
and 0x8042 (R124). -/
def modeApply (c : Nat) (m : StagedMode) (s : State) : State :=
  let s := updCtx c (fun x => { x with modeEd := m.edition, modeTab := m.table, staged := none }) s
  logCore (core0 s c) 0x42 c m.edition.toNat m.applyStep.toNat 0 (completeMode m 0x20 [] (releaseSync c 1 s))

/-- MODESYNC (R124). -/
def execModesync (g : Core) (st : Str) (s : State) : Out :=
  .next (front 0x33 g st s fun r w =>
    let k := core s g
    let c := k.ctx.val
    let d := fld w 8 4
    match (ctx s c).staged with
    | none => syncDone g st d 0 s
    | some m =>
      let diff := sdiff32 ((sreg r.sregs (fld w 12 4)).extractLsb' 0 32) m.applyStep
      if diff < 0 then syncDone g st d 0 s
      else if 0 < diff then syncDone g st d 2 (modeAbort c 2 s)
      else
        let m := { m with arrived := if k.vcore ∈ m.arrived then m.arrived else m.arrived ++ [k.vcore],
                          firstAt := some (m.firstAt.getD s.now) }
        let s := stallAt g st 5 0 (updStrm g st (fun r => { r with arrived := true })
          (updCtx c (fun x => { x with staged := some m }) s))
        if (ctx s c).map.length ≤ m.arrived.length then modeApply c m s else s)

/-- TIMEOUT has elapsed since the first arrival: the staged edition is aborted (R125). -/
def execModeEditionTimeout (c : Ctx) (s : State) : Out :=
  match (ctx s c).staged with
  | some m => if m.firstAt.any (fun t => decide (t + m.timeout * 1000 ≤ s.now)) then .next (modeAbort c 1 s) else .next s
  | none => .next s

/-! ### Fetch (R111) -/

/-- The next instruction address of a stream to fetch: the first from the PC on that is not in the buffer, while it
lies in the window of 16. -/
def nextFetch (r : Stream) : Option Word :=
  ((List.range 16).map fun i => pcAdd r.pc i).find? fun p =>
    !(r.fbuf.any fun q => q.1 = p) && decide (fld p 0 27 ≤ fld r.wbase 0 27 + 240)

/-- The memory address of an instruction, or the fault its fetch meets: 0x0B FETCH, 0x08 WINDOW (R111). -/
def fetchAt (s : State) (g : Nat) (pc : Word) : Except Nat Nat :=
  let off := fld pc 0 27
  if off % 16 ≠ 0 then .error 0x0B
  else if bit pc 31 then
    if 0x6000000 < off + 16 then .error 0x0B
    else if inWindow s (core s g).ctx.val (fld pc 27 4) off 16 then .ok (cisternKey (fld pc 27 4) off)
    else .error 8
  else if 0x1000000 < off + 16 then .error 0x0B
  else .ok (sramKey g off)

/-- A fetch fault found at the PC; the opcode of an instruction that was not decoded is a free value. -/
def fetchFault (g st cause : Nat) (pc : Word) (s : State) : State :=
  let n := drawFree 1 s
  if cause = 8 then
    let c := fld pc 27 4
    strFault g st 8 (fld pc 0 27) true (n.1 % 256) pc
      (logCore g 0x06 c (fld pc 0 27) (core s g).ctx.val 0 (cluFault c 2 (coreFault g 5 n.2)))
  else strFault g st cause 0 true (n.1 % 256) pc n.2

/-- The stream fetches its next instruction (R111). -/
def execFetchFill (g : Core) (st : Str) (ecc : Ecc) (s : State) : Out :=
  let r := strm s g st
  if r.state ≠ .running then .next s
  else match nextFetch r with
    | none => .next s
    | some p =>
      match fetchAt s g p with
      | .error cause => .next (if p = r.pc then fetchFault g st cause p s else s)
      | .ok a =>
        let e := applyEcc a ecc s
        match e.1, badByte s a 16 with
        | none, none =>
          let w : IWord := BitVec.ofNat 128 (readNum s a 16)
          .next (updStrm g st (fun r => { r with fbuf := r.fbuf ++ [(p, w)], stall := if r.stall = 6 then 0 else r.stall }) e.2)
        | none, some b => .next (if p = r.pc then eccDouble b (fetchFault g st 0x0B p e.2) else e.2)
        | some _, _ => .next (if p = r.pc then (applyEcc a ecc (fetchFault g st 0x0B p s)).2 else e.2)

/-! ### START, STOP (R126) -/

/-- START by CORE_STR_CTL, `v` the value written (R126). -/
def execStart (g : Core) (st : Str) (v : Word) (s : State) : Out :=
  let off := 0x200 + 0x100 * st.val
  .next (coreWrite g off v s (
    let k := core s g
    let r := strm s g st
    if k.state ≠ .assigned then
      if r.state = .stopped ∨ r.state = .halted ∨ r.state = .faulted then
        logCore g 0x41 st off v.toNat (strCode r.state) s
      else s
    else match r.state with
      | .stopped => startStream g st s
      | .running => s
      | .stopping => updStrm g st (fun r => { r with pending := true }) s
      | .halted => startStream g st s
      | .faulted => if quiet s g st then startStream g st s else updStrm g st (fun r => { r with pending := true }) s))

/-- STOP by CORE_STR_CTL, `v` the value written (R126). -/
def execStop (g : Core) (st : Str) (v : Word) (s : State) : Out :=
  let off := 0x200 + 0x100 * st.val
  .next (coreWrite g off v s (
    let r := strm s g st
    if r.pending then updStrm g st (fun r => { r with pending := false }) s
    else if r.state = .running then stopStream g st s
    else s))

/-- Every issued long instruction of a STOPPING stream has completed: STOPPED, or RUNNING with PENDING set; a FAULTED
stream with PENDING set runs (R126). -/
def execStreamStopped (g : Core) (st : Str) (s : State) : Out :=
  let r := strm s g st
  if quiet s g st then
    match r.state, r.pending with
    | .stopping, true => .next (startStream g st s)
    | .faulted, true => .next (startStream g st s)
    | .stopping, false => .next (updStrm g st (fun r => { r with state := .stopped }) s)
    | _, _ => .next s
  else .next s

end Sys2Proof.Machine
end

