-- ==== Sys2Proof/Machine/Admin.lean ====
section
/-! DEFINITION. The ADMIN commands on contexts, cores and mode editions, and the protection sets (R32 to R41, R123,
R189, R190, R194 to R197, R340). -/

namespace Sys2Proof.Machine

/-! ### Reading what an entry names -/

/-- The requester of a ring entry (R195): its ring's windows, physical core numbers, guard checks as `c`. -/
def whoEntry (s : State) (r : Nat) (e : Entry) (c : Option Nat) : Who := ⟨c, false, protSet s e.edition, [r]⟩

/-- The completion status of an address refusal (R170, R186). -/
def accStatus : AccErr → Nat
  | .space => 1
  | .address => 2
  | .xctx => 2
  | .cwindow _ _ => 3
  | .hwindow => 3
  | .guard _ _ => 3

/-- Bytes that an entry names by device address, or the status its command fails with. -/
def readTable (s : State) (r : Nat) (e : Entry) (da n : Nat) : Except Nat (List Byte) :=
  if 0x10000000000000000 < da + n then .error 2
  else match checkAt s (whoEntry s r e none) da n false with
    | .error x => .error (accStatus x)
    | .ok (.peer _ _) => .error 6
    | .ok (.here a) => if (badByte s a n).isSome then .error 4 else .ok (s.mem.readN a n)

/-- What the read of a table shows beside its bytes: units of DDR read, and a line that cannot be read (R21, R22, R153). -/
def tableRead (r : Nat) (e : Entry) (da n : Nat) (s : State) : State :=
  match checkAt s (whoEntry s r e none) da n false with
  | .ok (.here a) => readNoted a n s
  | _ => s

/-- Whether a table waits for Bus Master Enable: it lies in host memory (R174). -/
def tableWaits (s : State) (da : Nat) : Bool := bits da 60 4 == 4 && !canDma s

/-- A command carried out on the table that its entry names; it fails with the read's status, and stays where it is while the read waits. -/
def withTable (r : Nat) (e : Entry) (da n : Nat) (s : State) (act : List Byte → State → State) : State :=
  if tableWaits s da then s
  else
    let s := tableRead r e da n s
    match readTable s r e da n with
    | .error x => complete r e x [] s
    | .ok bs => act bs s

/-- Bytes that a command writes where its entry names; the status. -/
def writeTable (r : Nat) (e : Entry) (da : Nat) (bs : List Byte) (s : State) : Nat × State :=
  if 0x10000000000000000 < da + bs.length then (2, s)
  else match checkAt s (whoEntry s r e none) da bs.length true with
    | .error x => (accStatus x, s)
    | .ok (.peer _ _) => (6, s)
    | .ok (.here a) => (0, store a bs s)

/-- An ADMIN command taken from its ring; one that a reset holds waits for the release (R338). -/
def onAdmin (r opc : Nat) (s : State) (act : Entry → State) : State := onEntry r 5 opc s act

/-! ### CTX_CREATE (R33, R35, R190) -/

/-- A context table read: cores, windows (cluster, base, size), lists (cluster, log2n, base). -/
structure CtxTable where
  cores : List Nat := []
  wins : List (Nat × Nat × Nat) := []
  lists : List (Nat × Nat × Nat) := []

/-- One 8-byte entry of a context table; `none` when it is out of range. -/
def tableEntry (count : Bool) (bs : List Byte) (t : CtxTable) : Option CtxTable :=
  let b := fun i => getN bs i 1
  let h := fun i => getN bs i 2
  match b 0 with
  | 1 =>
    if count = false ∧ b 1 = 0 ∧ getN bs 4 4 = 0 ∧ h 2 < 144 ∧ (t.cores.contains (h 2)) = false then
      some { t with cores := t.cores ++ [h 2] }
    else none
  | 2 =>
    if b 1 < 16 ∧ h 6 = 0 ∧ 1 ≤ h 4 ∧ h 2 + h 4 ≤ 1536 then some { t with wins := t.wins ++ [(b 1, h 2, h 4)] } else none
  | 3 =>
    if b 1 < 16 ∧ 6 ≤ b 2 ∧ b 2 ≤ 12 ∧ b 3 = 0 ∧ (t.lists.any fun l => l.1 == b 1) = false then
      some { t with lists := t.lists ++ [(b 1, b 2, getN bs 4 4)] }
    else none
  | _ => none

/-- A whole context table. -/
def parseTable (count : Bool) (bs : List Byte) : Nat → Nat → CtxTable → Option CtxTable
  | 0, _, t => some t
  | n + 1, i, t =>
    match tableEntry count ((bs.drop (8 * i)).take 8) t with
    | some t' => parseTable count bs n (i + 1) t'
    | none => none

/-- Whether a copy list lies inside a window of the table (R190). -/
def listInside (t : CtxTable) (l : Nat × Nat × Nat) : Bool :=
  t.wins.any fun w => w.1 == l.1 && decide (w.2.1 * 65536 ≤ 64 * l.2.2)
    && decide (64 * l.2.2 + 64 + 64 * 2 ^ l.2.1 ≤ (w.2.1 + w.2.2) * 65536)

/-- The windows of a cluster not in use. -/
def freeWins (s : State) (c : Nat) : List Nat := (List.range 4).filter fun w => bit (Tbl.get 0 (clu s c).cwin w) 31 = false

/-- Whether a window overlaps a window of another context (R35). -/
def overlaps (s : State) (w : Nat × Nat × Nat) : Bool :=
  (List.range 4).any fun i =>
    let v := Tbl.get 0 (clu s w.1).cwin i
    bit v 31 && decide (w.2.1 < fld v 0 11 + fld v 16 11) && decide (fld v 0 11 < w.2.1 + w.2.2)

/-- The cores a create gets, or its status (R33). -/
def grant (s : State) (count : Option Nat) (cores : List Nat) : Except Nat (List Nat) :=
  match count with
  | none => if cores.all fun g => (core s g).state == .free then .ok cores else .error 0x14
  | some n =>
    let free := (List.range 144).filter fun g => (core s g).state = .free
    if n ≤ free.length then .ok (free.take n) else .error 0x15

/-- A window word (CLU_CWIN_w). -/
def cwinWord (c : Nat) (w : Nat × Nat × Nat) : Word := BitVec.ofNat 32 (0x80000000 + c * 0x10000000 + w.2.2 * 65536 + w.2.1)

/-- One window and one list of a new context set. -/
def setWindow (c : Nat) (s : State) (w : Nat × Nat × Nat) : State :=
  match (freeWins s w.1).head? with
  | some i => updClu w.1 (fun k => { k with cwin := Tbl.set k.cwin i (cwinWord c w) }) s
  | none => s
def setList (c : Nat) (s : State) (l : Nat × Nat × Nat) : State :=
  updClu l.1 (fun k => { k with lists := Tbl.set k.lists c { reg := BitVec.ofNat 32 (0x80000000 + l.2.1 * 0x200000 + l.2.2) } }) s

/-- The context made (R32, R34). -/
def makeCtx (c : Nat) (gs : List Nat) (t : CtxTable) (seed : DWord) (s : State) : State :=
  let gen := nextGen (ctx s c).gen
  let s := setCtx c { created := true, gen := gen, map := gs.map fun g => some (Fin.ofNat 144 g), seed := seed } s
  let s := gs.zipIdx.foldl (fun s p => updCore p.1 (fun k => { k with
    state := .assigned, ctx := Fin.ofNat 4 c, gen := gen, vcore := p.2, assignedAt := s.now }) s) s
  t.lists.foldl (setList c) (t.wins.foldl (setWindow c) s)

/-- The status of a create that fails after its form checks, in the order of R190, or the cores it gets. -/
def createCheck (s : State) (c : Nat) (count : Option Nat) (t : CtxTable) : Except Nat (List Nat) :=
  if (ctx s c).created then .error 0x13
  else match grant s count t.cores with
    | .error x => .error x
    | .ok gs =>
      if (List.range 16).any fun k => decide ((freeWins s k).length < (t.wins.filter fun w => w.1 = k).length) then .error 0x17
      else if t.wins.any (overlaps s) then .error 0x16
      else .ok gs

/-- CTX_CREATE carried out. -/
def doCreate (r : Nat) (e : Entry) (s : State) : State :=
  let c := ent e 8 1
  let count := ent e 9 1 % 2 = 1
  let n := ent e 12 4
  if 3 < c ∨ 224 < n ∨ (count ∧ ent e 10 2 = 0) then complete r e 0x10 [] s
  else
    let act := fun (bs : List Byte) (s : State) => match parseTable count bs n 0 {} with
      | none => complete r e 0x10 [] s
      | some t =>
        if (count = false ∧ t.cores.isEmpty) ∨ t.lists.all (listInside t) = false then complete r e 0x10 [] s
        else match createCheck s c (if count then some (ent e 10 2) else none) t with
          | .error x => complete r e x [] s
          | .ok gs =>
            let s := makeCtx c gs t (BitVec.ofNat 64 (ent e 24 8)) s
            complete r e 0 (toBytes (ctx s c).gen.toNat 1 ++ [0] ++ toBytes gs.length 2) s
    if n = 0 then act [] s else withTable r e (ent e 16 8) (8 * n) s act

/-- CTX_CREATE (R33, R190). -/
def execCtxCreate (r : RingIx) (s : State) : Out := .next (onAdmin r 0x10 s fun e => doCreate r e s)

/-! ### CTX_START (R189) -/

/-- One stream of a context started from its PC table. -/
def startFrom (g st pc : Nat) (s : State) : State :=
  startStream g st (updStrm g st (fun r => { r with sregs := [], flags := 0, pc := BitVec.ofNat 32 pc }) s)

/-- Every stream of a context started. -/
def startAll (c : Nat) (bs : List Byte) (s : State) : State :=
  (ctx s c).map.zipIdx.foldl (fun s p => match p.1 with
    | some g => (List.range 4).foldl (fun s st => startFrom g.val st (getN bs (16 * p.2 + 4 * st) 4) s) s
    | none => s) s

/-- CTX_START carried out. -/
def doStart (r : Nat) (e : Entry) (s : State) : State :=
  let c := ent e 8 1
  if 3 < c then complete r e 0x10 [] s
  else if (ctx s c).created = false ∨ (ctx s c).tearing then complete r e 0x12 [] s
  else if hasUnmapped s c then complete r e 0x1E [] s
  else if (coresOf s c).all (coreQuiet s) = false then complete r e 0x11 [] s
  else withTable r e (ent e 16 8) (16 * (ctx s c).map.length) s fun bs s => complete r e 0 [] (startAll c bs s)

/-- A context command, held while a reset affects its context (R338). -/
def heldCommand (r : Nat) (e : Entry) (s : State) (act : State) : State :=
  if ctxResets s (ent e 8 1) then
    { startEntry r e s with rst := { s.rst with held := s.rst.held ++ [(r, { e with started := true })] } }
  else act

/-- CTX_START (R189, R338). -/
def execCtxStart (r : RingIx) (s : State) : Out :=
  .next (onAdmin r 0x11 s fun e => heldCommand r e s (doStart r e s))

/-! ### CTX_TEARDOWN (R340) -/

/-- CTX_TEARDOWN carried out up to its drain. -/
def doTeardown (r : Nat) (e : Entry) (s : State) : State :=
  let c := ent e 8 1
  if 3 < c then complete r e 0x10 [] s
  else if (ctx s c).created = false ∨ (ctx s c).tearing then complete r e 0x12 [] s
  else teardown c (some (r, BitVec.ofNat 16 (entTag e), false)) (startEntry r e s)

/-- CTX_TEARDOWN (R338, R340). -/
def execCtxTeardown (r : RingIx) (s : State) : Out :=
  .next (onAdmin r 0x12 s fun e => heldCommand r e s (doTeardown r e s))

/-- Guard regions whose owners are all torn down wait to be zeroed (R159). -/
def guardsLeft (c : Nat) (s : State) : State :=
  let gone := (List.range 16).filter fun g =>
    let w := Tbl.get 0 s.hst.force (0x104 + 8 * g)
    fld w 0 19 ≠ 0 ∧ bit w (28 + c) ∧ ((List.range 4).all fun x => !(bit w (28 + x)) || !(ctx s x).created)
  let rs := gone.map fun g => (g, (guardAt s.hst.force g).1 * 2097152, (guardAt s.hst.force g).2 * 2097152)
  { s with ddr := { s.ddr with zeroing := (s.ddr.zeroing ++ rs).dedup } }

/-- Windows, copy lists and bindings of a context released (R340). -/
def releaseCtx (c : Nat) (s : State) : State :=
  let win := fun (p : Nat × Word) => if bit p.2 31 ∧ fld p.2 28 2 = c then (p.1, (0 : Word)) else p
  let one := fun (p : Nat × CluSt) => (p.1, { p.2 with cwin := p.2.cwin.map win, lists := Tbl.set p.2.lists c {} })
  let binds := s.steer.bind.filter fun p => p.1 / 32 ≠ c
  { s with clus := s.clus.map one, steer := { s.steer with bind := binds } }

/-- Step 5 of a teardown: scrub and release; the command completes (R340). -/
def execTeardownComplete (c : Ctx) (s : State) : Out :=
  let x := ctx s c
  if x.tearing then
    let last := (lastStep s c).toNat
    let s := completeAwaits c 0x1C [] s
    let s := (coresOf s c).foldl (fun s g => updCore g (fun k => { k with state := .scrub }) (scrubCore g s)) s
    let s := releaseCtx c (setCtx c { gen := x.gen } s)
    let s := guardsLeft c s
    match x.tearRing with
    | some (r, tag, _) =>
      match (ring s r).inflight.find? fun e => e.started && entOpcode e == 0x12 && entTag e == tag.toNat with
      | some e => .next (removeCheck (complete r e 0 (toBytes last 4) s))
      | none => .next (removeCheck s)
    | none => .next (removeCheck s)
  else .next s

/-! ### MODE_STAGE (R123) -/

/-- The 16 entries of a MODE_STAGE. -/
def modeEntries (e : Entry) : List Nat := (List.range 16).map fun i => ent e (24 + 2 * i) 2 % 512

/-- MODE_STAGE (R123, R189). -/
def execModeStage (r : RingIx) (s : State) : Out :=
  .next (onAdmin r 0x13 s fun e =>
    let c := ent e 8 1
    let x := ctx s c
    let ed := ent e 10 2
    let t := ent e 16 4
    let tab := modeEntries e
    if 3 < c then complete r e 0x10 [] s
    else if x.created = false then complete r e 0x12 [] s
    else if ed ≠ (x.modeEd.toNat + 1) % 65536 then complete r e 0x18 [] s
    else if x.staged.isSome then complete r e 0x11 [] s
    else if tab.any (fun v => decide (5 ≤ bits v 0 3) || decide (8 ≤ bits v 3 4)) ∨ t = 0 ∨ 100000 < t then
      complete r e 0x10 [] s
    else
      let m : StagedMode :=
        { edition := BitVec.ofNat 16 ed, applyStep := BitVec.ofNat 32 (ent e 12 4), timeout := t, table := tab,
          ring := some (r.val, BitVec.ofNat 16 (entTag e), false) }
      updCtx c (fun x => { x with staged := some m }) (startEntry r e s))

/-! ### CORE_FENCE and FENCE_CLEAR (R38, R189) -/

/-- CORE_FENCE. -/
def execCoreFence (r : RingIx) (s : State) : Out :=
  .next (onAdmin r 0x18 s fun e =>
    let g := ent e 8 2
    if 144 ≤ g ∨ inGood s g = false then complete r e 0x10 [] s
    else complete r e 0 [] (fenceCore g 7 s))

/-- FENCE_CLEAR: entries of the fence list cleared, effective at the next power-on. -/
def execFenceClear (r : RingIx) (s : State) : Out :=
  .next (onAdmin r 0x19 s fun e =>
    let g := ent e 8 2
    if g = 0xFFFF then complete r e 0 [] { s with idb := { s.idb with fenceList := [] } }
    else if 144 ≤ g then complete r e 0x10 [] s
    else complete r e 0 [] { s with idb := { s.idb with fenceList := s.idb.fenceList.filter fun p => p.1 ≠ g } })

/-! ### Protection sets (R196, R197) -/


/-- Why a staged set is refused: the cause and the guard region (R196, R198). -/
def commitRefusal (s : State) (set : Tbl Word) : Option (Nat × Nat) :=
  let rs := (List.range 16).filter fun g => (guardAt set g).2 ≠ 0
  let lap := fun g h =>
    let a := guardAt set g
    let b := guardAt set h
    g != h && decide (a.1 < b.1 + b.2) && decide (b.1 < a.1 + a.2)
  match rs.find? fun g => rs.any (lap g) with
  | some g => some (1, g)
  | none => match rs.find? fun g => decide (s.ddr.limit < (guardAt set g).1 + (guardAt set g).2) with
    | some g => some (2, g)
    | none =>
      let b := Tbl.get 0 set 0x0C
      if bit b 31 ∧ capacity s ≤ fld b 0 19 * 2097152 then some (3, 0) else none

/-- Whether an entry or instruction still uses the set of an edition (R197). -/
def setUsed (s : State) (ed : Half16) : Bool :=
  ((List.range 64).any fun r => (ring s r).inflight.any fun e => e.edition == ed)
    || (s.cores.any fun p => p.2.streams.any fun q => q.2.outst.any fun op => op.edition == ed)
    || (s.ddr.engines.any fun p => p.2.any fun d => d.entry.edition == ed)

/-- The oldest live edition (KEEPER_OLDEST). -/
def oldestEdition (s : State) : Half16 := ((s.hst.older.head?).map Prod.fst).getD s.hst.edition

/-- A set put in force with the next edition: the acknowledgement and PROT_ACK (R196). -/
def putInForce (set : Tbl Word) (s : State) : State :=
  let h := s.hst
  let older := if setUsed s h.edition then h.older ++ [(h.edition, h.force)] else h.older
  let s := { s with hst := { h with edition := h.edition + 1, force := set, older := older, refused := false, commitPending := none } }
  postEvent 0x0216 0 none s.hst.edition.toNat (oldestEdition s).toNat 0 0 s

/-- A write to KEEPER_CTL (R196, R197). -/
def execProtCommit (v : Word) (s : State) : Out :=
  if blockHeld s 0 then .next (heldWrite 0 v s)
  else if bit v 0 = false then .next s
  else if s.hst.commitPending.isSome then
    .next (logRec 0x0001 0 s.hst.edition.toNat (oldestEdition s).toNat 0 0 s)
  else match commitRefusal s s.hst.staged with
    | some (cause, g) =>
      .next (logRec 0x0002 0 cause g 0 0 { s with hst := { s.hst with refused := true } })
    | none =>
      if 3 ≤ s.hst.older.length then .next { s with hst := { s.hst with commitPending := some s.hst.staged } }
      else .next (putInForce s.hst.staged s)

/-- The last user of an older set has finished: it retires, and a pending commit is carried out (R197). -/
def execProtSetRetire (ed : Half16) (s : State) : Out :=
  if (s.hst.older.any fun p => p.1 = ed) ∧ setUsed s ed = false then
    let s := { s with hst := { s.hst with older := s.hst.older.filter fun p => p.1 ≠ ed } }
    match s.hst.commitPending with
    | some set => .next (putInForce set s)
    | none => .next s
  else .next s

end Sys2Proof.Machine
end

