-- ==== Sys2Proof/Machine/OteMath.lean ====
section
/-! DEFINITION. The arithmetic of an optical engine: tiles, alignment, sums, the error estimate, tolerance classes and
output formats (R46 to R62, R79 to R88). -/

namespace Sys2Proof.Machine

/-- A byte as a signed number. -/
def byteInt (b : Byte) : Int := b.toInt

/-- A weight code limited to −63…+63 (R47). -/
def clampCode (b : Byte) : Byte :=
  if 63 < b.toInt then 63 else if b.toInt < -63 then 0xC1 else b

/-- A tile's bytes with its codes limited, and whether any was out of range (R46, R47). -/
def clampTile (bs : List Byte) : List Byte := (bs.take 4096).map clampCode ++ (bs.drop 4096).take 64
def tileSat (bs : List Byte) : Bool := (bs.take 4096).any fun b => clampCode b != b

/-- The codes of logical row `i` and its scale; [] is the plane after reset (R51). -/
def rowCodes (t : List Byte) (i : Nat) : List Int :=
  if t.isEmpty then List.replicate 64 0 else ((t.drop (64 * i)).take 64).map byteInt
def rowScale (t : List Byte) (i : Nat) : Nat := (t.getD (4096 + i) 0).toNat

/-- All 64 rows, and all 64 columns. -/
def tileRows (t : List Byte) : List (List Int) := (List.range 64).map (rowCodes t)
def tileCols (t : List Byte) : List (List Int) :=
  (tileRows t).foldr (fun r acc => List.zipWith (· :: ·) r acc) (List.replicate 64 [])

def sumInt (l : List Int) : Int := l.foldl (· + ·) 0
def dot (a b : List Int) : Int := sumInt (List.zipWith (· * ·) a b)
def sumSq (a : List Int) : Int := dot a a
def sumRat (l : List Rat) : Rat := l.foldl (· + ·) 0

/-- x · 2^(−k), to nearest even (R53). -/
def rneDown (x : Int) (k : Nat) : Int :=
  let m := roundShift .rne x.natAbs k
  if x < 0 then -(m : Int) else m

/-- A vector after the input stage (R53, R62): its aligned elements, the exponent M or M_T, the elements flushed, and
whether the vector is NaN. -/
structure Aligned where
  xs : List Int
  m : Int
  flush : Nat
  nan : Bool

/-- One element aligned by its shift, with 1 when it flushes. -/
def alignOne (x : Int) (k : Int) : Int × Nat :=
  let y := if 8 ≤ k then 0 else rneDown x k.toNat
  (y, if x ≠ 0 ∧ y = 0 then 1 else 0)

/-- Forward alignment (R53). -/
def alignF (vec : List Byte) : Aligned :=
  let xs := (vec.take 64).map byteInt
  let e0 := (vec.getD 64 0).toNat
  let e1 := (vec.getD 65 0).toNat
  if e0 = 255 ∨ e1 = 255 then ⟨List.replicate 64 0, 0, 0, true⟩
  else
    let nz0 := (xs.take 32).any (· ≠ 0)
    let nz1 := (xs.drop 32).any (· ≠ 0)
    let m : Nat := if nz0 ∧ ¬ nz1 then e0 else if nz1 ∧ ¬ nz0 then e1 else max e0 e1
    let ys := xs.zipIdx.map fun p => alignOne p.1 ((m : Int) - (if p.2 < 32 then e0 else e1))
    ⟨ys.map Prod.fst, m, (ys.map Prod.snd).foldl (· + ·) 0, false⟩

/-- Transpose alignment, with the row scales folded in (R62). -/
def alignT (t : List Byte) (vec : List Byte) : Aligned :=
  let ys := (vec.take 64).map byteInt
  let e0 := (vec.getD 64 0).toNat
  let e1 := (vec.getD 65 0).toNat
  let scales := (List.range 64).map (rowScale t)
  if e0 = 255 ∨ e1 = 255 ∨ scales.any (· = 255) then ⟨List.replicate 64 0, 0, 0, true⟩
  else
    let key := fun i => (if i < 32 then e0 else e1) + rowScale t i
    let q : List Bool := ys.zipIdx.map fun p => decide (p.1 ≠ 0) && (rowCodes t p.2).any (· ≠ 0)
    let keys := (List.range 64).filterMap fun i => if q.getD i false then some (key i) else none
    match keys.max? with
    | some m =>
      let zs := ys.zipIdx.map fun p => if q.getD p.2 false then alignOne p.1 ((m : Int) - key p.2) else (0, 0)
      ⟨zs.map Prod.fst, m, (zs.map Prod.snd).foldl (· + ·) 0, false⟩
    | none =>
      let m := ((List.range 64).map key).max?.getD 0
      let zs := ys.zipIdx.map fun p => alignOne p.1 ((m : Int) - key p.2)
      ⟨zs.map Prod.fst, m, (zs.map Prod.snd).foldl (· + ·) 0, false⟩

/-- The exact sums S of a vector: one per row, or one per column in transpose direction (R55, R62, R88). -/
def exactSums (t : List Byte) (trans : Bool) (a : Aligned) : List Int :=
  if trans then (tileCols t).map fun c => dot c a.xs else (tileRows t).map fun r => dot r a.xs

/-- The aligned vector of a direction. -/
def alignVec (t : List Byte) (trans : Bool) (vec : List Byte) : Aligned := if trans then alignT t vec else alignF vec

/-- Whether result `i` is NaN (R59). -/
def nanAt (t : List Byte) (trans : Bool) (a : Aligned) (i : Nat) : Bool := a.nan || (!trans && rowScale t i == 255)

/-- The exponent of result `i`'s value: v = a · 2^e (R57, R62). -/
def valExp (t : List Byte) (trans : Bool) (a : Aligned) (g i : Nat) : Int :=
  if trans then (g : Int) - 12 + a.m - 254 else (g : Int) - 12 + (rowScale t i - 127) + (a.m - 127)

/-- The values of a tile from its codes (`sub` 0) or from exact sums (`sub` the gain, R88). -/
def tileVals (t : List Byte) (trans : Bool) (a : Aligned) (g sub : Nat) (codes : List Int) : List Val :=
  codes.zipIdx.map fun p => if nanAt t trans a p.2 then .nan else ofInt p.1 (valExp t trans a g p.2 - sub)

/-- One output tile in its format with its overflow and underflow counts (R58, R59). -/
def outTile (bf16Out : Bool) (vs : List Val) : List Byte × Nat × Nat :=
  if bf16Out then
    let rs := vs.map fun v => (v, (roundFp bf16 false .rne v).1)
    let ovs := (rs.filter fun p => match p.1, p.2 with
      | .fin _ _ _, .inf _ => true
      | _, _ => false).length
    let under := (rs.filter fun p => match p.1, p.2 with
      | .fin _ (_ + 1) _, .fin _ m e => !leMag 1 (-126) m e
      | _, _ => false).length
    (rs.flatMap fun p => toBytes (encodeFp bf16 p.2) 2, ovs, under)
  else
    let r := mxRow 11 (chunks 32 (vs.map fun v => (v, Rnd.rne)))
    let blocks := (chunks 32 vs).zip (chunks 32 r.2)
    let tops := blocks.map fun b => (blockTop b.1, b)
    let ovs := tops.map fun p => match p.1 with
      | some x => if 127 < x then (p.2.2.filter fun f => bit f 4).length else 0
      | none => 0
    let under := tops.map fun p => match p.1 with
      | some x => if x < -127 then (p.2.1.filter fun v => match v with
          | .fin _ (_ + 1) _ => true
          | _ => false).length else 0
      | none => 0
    let any := fun (b : List Val) => b.any (· == .nan)
    (r.1, ((ovs.zip blocks).map fun p => if any p.2.1 then 0 else p.1).foldl (· + ·) 0,
      ((under.zip blocks).map fun p => if any p.2.1 then 0 else p.1).foldl (· + ·) 0)

/-! ### The estimate (R71, R79, R80, R82) -/

/-- Full scale in pu (R56). -/
def fullScale (g : Nat) : Rat := (128 * 2 ^ g : Nat)

/-- σ_n(K)² in pu², transpose taking forward K/2 (R71, R96). -/
def noiseVar (sigma1 : Nat) (trans : Bool) (k g : Nat) : Rat :=
  ((sigma1 : Rat) / 100000 * fullScale g) ^ 2 * (if trans then 2 else 1) / k

/-- What the estimate reads of the physical row that serves a logical row. -/
structure RowEst where
  sc : Rat
  kappa : Rat
  d : Rat        -- r·t + g_t
  aged : Bool
  unlocked : Bool

/-- The calibration age of a row in ns (R75). -/
def rowAge (now : Nat) (r : RowCal) : Nat := now - r.calAt

/-- A row's estimate terms at a time. -/
def rowEst (now : Nat) (combLost : Bool) (r : RowCal) : RowEst :=
  { sc := (r.sc.toNat : Rat) / 1000, kappa := (r.kappa.toNat : Rat) / 1000000,
    d := (r.rate.toNat : Rat) * rowAge now r / 1000000000000 + 5 / 10000,
    aged := decide (32500000 < rowAge now r), unlocked := r.unlocked || combLost }

/-- The physical row that serves a logical row. -/
def physOf (m : Tbl Nat) (i : Nat) : Nat := Tbl.get i m i

/-- The light term Σ sc²·u² over channels or rows. -/
def lightSum (xs : List Int) : Int := sumInt (xs.map fun x => (x + 128) * (x + 128))

/-- var_i of every row in forward direction (R79); an unlocked row has FS² (R102). -/
def varF (t : List Byte) (es : List RowEst) (sigma1 k g : Nat) (a : Aligned) (codes : List Int) : List Rat :=
  let step : Rat := ((4 ^ g : Nat) : Rat) / 12
  let u2 : Rat := lightSum a.xs
  let xi2 : Rat := (sumSq a.xs : Rat) / 64
  (es.zip codes).zipIdx.map fun p =>
    let e := p.1.1
    let r := rowCodes t p.2
    let rs : Int := sumInt r
    if e.unlocked then fullScale g ^ 2
    else noiseVar sigma1 false k g + step + e.sc ^ 2 * u2
      + e.kappa ^ 2 * (((256 * rs * (256 * rs) : Int) : Rat) + ((2 * sumSq r : Int) : Rat) * xi2)
      + (e.d * ((p.1.2 * 2 ^ g + 128 * rs : Int) : Rat)) ^ 2

/-- var_j of every column in transpose direction (R79); each unlocked row adds FS² to the tile. -/
def varT (t : List Byte) (es : List RowEst) (sigma1 k g : Nat) (a : Aligned) (codes : List Int) : List Rat :=
  let step : Rat := ((4 ^ g : Nat) : Rat) / 12
  let cols := tileCols t
  let cs := cols.map sumInt
  let csq := cols.map sumSq
  let yi2 : Rat := (sumSq a.xs : Rat) / 64
  let light := sumRat (List.zipWith (fun (e : RowEst) (y : Int) => e.sc ^ 2 * (((y + 128) * (y + 128) : Int) : Rat)) es a.xs)
  let kmax := (es.map RowEst.kappa).foldl max 0
  let dmax := (es.map RowEst.d).foldl max 0
  let near := fun (l : List Int) (j : Nat) => (if j = 0 then 0 else l.getD (j - 1) 0) + l.getD (j + 1) 0
  let lost : Rat := ((es.filter RowEst.unlocked).length : Rat) * fullScale g ^ 2
  codes.zipIdx.map fun p =>
    noiseVar sigma1 true k g + step + light
      + kmax ^ 2 * ((((128 * near cs p.2 * (128 * near cs p.2)) : Int) : Rat) + ((near csq p.2 : Int) : Rat) * yi2)
      + (dmax * ((p.1 * 2 ^ g + 128 * cs.getD p.2 0 : Int) : Rat)) ^ 2 + (if p.2 = 0 then lost else 0)

/-- The ADC's code of an exact sum (R56): outside the ADC range the output clips (R76), else a free value of the draw, the sum and the
gain. -/
def adcOf (draw : Nat) (exact : Int) (g : Nat) : Int :=
  if 127 * 2 ^ g < exact then 127 else if exact < -(128 * 2 ^ g) then -128
  else max (-128) (min 127 (Config.adcCode draw exact g))

/-- λ of a history of shadow vectors: 1 until 64 are held, then the ratio limited to 1…16 (R80); where no variance is predicted, 1 without an
error, else 16 (log 101). -/
def lambdaOf (h : List (Nat × Nat)) : Rat :=
  if h.length < 64 then 1
  else
    let e : Nat := (h.map Prod.fst).foldl (· + ·) 0
    let v : Nat := (h.map Prod.snd).foldl (· + ·) 0
    if v = 0 then (if e = 0 then 1 else 16) else max 1 (min 16 ((e : Rat) / v))

/-- ρ² from Σ var over the rows that are not NaN. -/
def rhoSq (lam : Rat) (g : Nat) (sum : Rat) : Rat := lam * sum / 64 / fullScale g ^ 2

/-- EST: the smallest code that decodes to ρ or more (R82). -/
def estCode (rho2 : Rat) : Nat :=
  let x := (rho2 * 0x40000000000).ceil.toNat
  let r := Nat.sqrt x
  let n := if r * r = x then r else r + 1
  if n < 64 then n
  else
    let e := Nat.log2 n - 5
    min 0x3FF (64 * e + ((n + 2 ^ (e - 1) - 1) / 2 ^ (e - 1) - 64))

/-- The class of a TOL in 0.1 % FS (R84). -/
def tolLimit (tol : Nat) : Nat :=
  match tol with
  | 1 => 40 | 2 => 20 | 3 => 14 | 4 => 10 | 5 => 7 | _ => 5

/-- Whether a tile passes its class (R84). -/
def tolPass (tol : Nat) (rho2 : Rat) (clip : Bool) : Bool :=
  tol == 0 || (!clip && decide (rho2 * 1000000 ≤ ((tolLimit tol) ^ 2 : Nat)))

/-- A residual word (R81); EST of a NaN tile is 0x3FF, of a digital one too (log 105). -/
def resWord (clip fail aged nan : Bool) (src est : Nat) : Nat :=
  b2n clip * 32768 + b2n fail * 16384 + b2n aged * 8192 + b2n nan * 4096 + src * 1024 + (if nan then 0x3FF else est)

end Sys2Proof.Machine
end

