-- ==== Sys2Proof/Machine/Optic.lean ====
section
/-! DEFINITION. The OPTIC operations and how an engine runs them: LOADW, FLIP, MVM, fallbacks, the digital shadow
(R44 to R68, R79 to R91, R99, R101, R117, R120 to R122). -/

namespace Sys2Proof.Machine

/-! ### Issue (R64, R117, R120, R121) -/

/-- A count register or the COUNTM1 field (R117). -/
def countOf (t : Tbl DWord) (w : IWord) (cnt m1 : Nat) : Nat :=
  if fld w cnt 4 = 0 then fld w m1 16 + 1 else (sreg t (fld w cnt 4)).toNat

/-- AUTO_MIN: values above 65,536 act as 65,536 (R120). -/
def autoMin (c : CoreSt) : Nat := min 65536 (fld c.seqCfg 0 17)

/-- An operation put on its engine's queue of 4, or STALL 4 while the queue is full (R64). `after`: the registers that
AINC moves. -/
def enqueueOp (g st e : Nat) (kind : OpKind) (r : Stream) (after : Stream → Stream) (s : State) : State :=
  let k := core s g
  if 4 ≤ (ote s g e).queue.length then stallAt g st 4 0 s
  else
    issued g st (updStrm g st after
      (updOte g e (fun o => { o with queue := o.queue ++ [{ kind, pc := r.pc, at_ := s.now, ctx := k.ctx, gen := k.gen }] }) s))

/-- LOADW (R46, R48, R117). -/
def execLoadw (g : Core) (st : Str) (s : State) : Out :=
  .next (front 0x30 g st s fun r w =>
    let a := (sreg r.sregs (fld w 8 4)).toNat
    let n := countOf r.sregs w 16 20
    if a % 64 ≠ 0 then strFault g st 5 0 true 0x30 r.pc s
    else if 0x1000000 < a + 4160 then strFault g st 6 a true 0x30 r.pc s
    else
      enqueueOp g st (fld w 12 2) (.loadw a (bit w 14 && decide (n < autoMin (core s g)))) r
        (fun r => if bit w 15 then setSreg (fld w 8 4) (BitVec.ofNat 64 (a + 4160)) r else r) s)

/-- FLIP (R49, R117). -/
def execFlip (g : Core) (st : Str) (s : State) : Out :=
  .next (front 0x32 g st s fun r w => enqueueOp g st (fld w 8 2) .flip r id s)

/-- Bytes of one output tile. -/
def tileBytes (p : MvmP) : Nat := if p.tol = 8 then 66 else if p.bf16 then 128 else 66

/-- Offset of the summary record behind the residual words (R60). -/
def summaryOff (p : MvmP) : Nat := p.resA + (2 * p.count + 7) / 8 * 8

/-- The parameters of an MVM word: from the word, or K, TOL and FALLBACK from the mode table (R117, R123). -/
def mvmParams (s : State) (g : Nat) (t : Tbl DWord) (w : IWord) : MvmP :=
  let c := core s g
  let entry := (ctx s c.ctx.val).modeTab.getD (fld w 91 4) 0
  let mtab := bit w 90
  let kc := if mtab then bits entry 0 3 else fld w 75 3
  let tol := if mtab then bits entry 3 4 else fld w 83 4
  let fb := if mtab then bits entry 7 2 else fld w 87 2
  let n := countOf t w 20 24
  let trans := bit w 74
  { trans, k := if trans ∧ kc = 0 then 2 else 2 ^ kc, k1t := trans && kc == 0, g := fld w 78 4, count := n,
    inA := (sreg t (fld w 8 4)).toNat, inStride := fld w 40 16, bf16 := bit w 82,
    outA := (sreg t (fld w 12 4)).toNat, outStride := fld w 56 16, resA := (sreg t (fld w 16 4)).toNat,
    tol := if bit w 89 && decide (n < autoMin c) then 7 else tol, fallback := fb }

/-- The first breach of an MVM's own fields, in rising order of bit position: cause and info (R117, R127). -/
def mvmBad (w : IWord) (p : MvmP) : Option (Nat × Nat) :=
  let mtab := bit w 90
  let expose := !mtab && fld w 83 4 == 8
  if p.inA % 2 = 1 ∨ p.outA % 2 = 1 ∨ p.resA % 8 ≠ 0 then some (5, 0)
  else if p.count = 0 ∨ 65536 < p.count then some (4, 20)
  else if p.inStride < 66 ∨ p.inStride % 2 = 1 then some (4, 40)
  else if p.outStride < (if expose then 66 else if p.bf16 then 128 else 66) ∨ p.outStride % 2 = 1 then some (4, 56)
  else if mtab = false ∧ 5 ≤ fld w 75 3 then some (4, 75)
  else if p.g < 6 ∨ 13 < p.g then some (4, 78)
  else if mtab = false ∧ 9 ≤ fld w 83 4 then some (4, 83)
  else if bit w 89 ∧ expose then some (4, 89)
  else none

/-- The first operand whose footprint leaves core SRAM (R117). -/
def mvmOut (p : MvmP) : Option Nat :=
  if 0x1000000 < p.inA + (p.count - 1) * p.inStride + 66 then some p.inA
  else if 0x1000000 < p.outA + (p.count - 1) * p.outStride + tileBytes p then some p.outA
  else if 0x1000000 < summaryOff p + 16 then some p.resA
  else none

/-- AINC of an MVM (R117). -/
def mvmAinc (w : IWord) (p : MvmP) (r : Stream) : Stream :=
  let up := fun (f n : Nat) (r : Stream) => setSreg f (sreg r.sregs f + BitVec.ofNat 64 n) r
  up (fld w 16 4) ((2 * p.count + 7) / 8 * 8 + 16)
    (up (fld w 12 4) (p.count * p.outStride) (up (fld w 8 4) (p.count * p.inStride) r))

/-- MVM (R63, R117). -/
def execMvm (g : Core) (st : Str) (s : State) : Out :=
  .next (front 0x31 g st s fun r w =>
    let p := mvmParams s g r.sregs w
    match mvmBad w p with
    | some (cause, info) => strFault g st cause info true 0x31 r.pc s
    | none => match mvmOut p with
      | some a => strFault g st 6 a true 0x31 r.pc s
      | none => enqueueOp g st (fld w 72 2) (.mvm p) r (fun r => if bit w 95 then mvmAinc w p r else r) s)

/-! ### The queue of an engine -/

/-- The position of the first operation that satisfies a test. -/
def opIndex (o : Ote) (f : EngOp → Bool) : Option Nat := o.queue.findIdx? f

def isLoadw (q : EngOp) : Bool := match q.kind with
  | .loadw _ _ => true
  | _ => false
def isFlip (q : EngOp) : Bool := match q.kind with
  | .flip => true
  | _ => false

/-- An operation changed in place, or removed. -/
def setOp (i : Nat) (q : EngOp) (o : Ote) : Ote := { o with queue := o.queue.set i q }
def endOp (i : Nat) (o : Ote) : Ote := { o with queue := o.queue.eraseIdx i }

/-! ### LOADW (R48, R64) -/

/-- A LOADW begins its read phase (R64). -/
def execLoadwReadStart (g : Core) (e : Eng) (s : State) : Out :=
  let o := ote s g e
  match opIndex o fun q => isLoadw q && q.phase == 0 with
  | some i =>
    let before := (o.queue.take i).filter isLoadw
    if before.all (fun q => decide (2 ≤ q.phase)) ∧ before.length < 2 then
      .next (updOte g e (fun o => { o with queue := o.queue.modify i fun q => { q with phase := 1, at_ := s.now } }) s)
    else .next s
  | none => .next s

/-- A LOADW's read phase ends: its load buffer holds the tile (R48). A read that meets an uncorrectable word faults the
stream, and the LOADW will leave an empty plane (R128). A tile of the calibration unit is all zero (R97). -/
def execLoadwReadEnd (g : Core) (e : Eng) (ecc : Ecc) (s : State) : Out :=
  match opIndex (ote s g e) fun q => isLoadw q && q.phase == 1 with
  | none => .next s
  | some i =>
    match (ote s g e).queue[i]? with
    | none => .next s
    | some q =>
      match q.kind with
      | .loadw a _ =>
        if q.cal then .next (updOte g e (setOp i { q with phase := 2, buf := List.replicate 4160 0 }) s)
        else
          let x := applyEcc (sramKey g a) ecc s
          match x.1, badByte s (sramKey g a) 4160 with
          | none, none =>
            .next (updOte g e (setOp i { q with phase := 2, at_ := s.now, buf := s.mem.readN (sramKey g a) 4160 }) x.2)
          | some b, _ => .next (applyEcc (sramKey g a) ecc (strFault g 1 0x0C b false 0x30 q.pc
              (updOte g e (setOp i { q with phase := 2, failed := true }) s))).2
          | none, some b => .next (eccDouble b (strFault g 1 0x0C b false 0x30 q.pc
              (updOte g e (setOp i { q with phase := 2, failed := true }) s)))
      | _ => .next s

/-- The row map after a swap: the logical row of the next benchmark row moves into the old one (R93). -/
def swapMap (m : Tbl Nat) (b x : Nat) : Tbl Nat :=
  match (List.range 64).find? fun i => physOf m i = x with
  | some i => Tbl.set m i b
  | none => m

/-- The drive maps that a LOADW sets the codes of the logical rows with: those of the physical rows that serve them, after the swap it has
latched (R50, R96). -/
def rowDrives (o : Ote) : List (List Nat) :=
  let m := if o.swapLatched then swapMap o.map o.bench o.nextBench else o.map
  (List.range 64).map fun i => (Tbl.get {} o.rows (physOf m i)).drive

/-- The shadow plane that a LOADW makes (R46 to R48); the calibration unit's own leaves every code 0, as after reset (R51, R97). -/
def loadedPlane (o : Ote) (q : EngOp) : PlaneSt :=
  if q.cal then {}
  else { codes := clampTile q.buf, copy := clampTile q.buf, codeSat := tileSat q.buf, written := true, drives := rowDrives o }

/-- A LOADW begins its write phase (R64), latching a ready row swap (R50). A digital-only load moves its copy and sums
and completes (R121); a failed one leaves the plane empty (R128). -/
def execLoadwWriteStart (g : Core) (e : Eng) (s : State) : Out :=
  let o := ote s g e
  match opIndex o fun q => isLoadw q || isFlip q with
  | none => .next s
  | some i =>
    match o.queue[i]? with
    | none => .next s
    | some q =>
      match q.kind with
      | .loadw _ digital =>
        if q.phase ≠ 2 then .next s
        else if q.failed then .next (updOte g e (fun o => { endOp i o with shadow := {} }) s)
        else if digital then
          .next (updOte g e (fun o => { endOp i o with shadow := { o.shadow with
            copy := clampTile q.buf, codeSat := tileSat q.buf, digitalOnly := true } }) s)
        else
          .next (updOte g e (fun o => { setOp i { q with phase := 3, at_ := s.now } o with
            swapLatched := o.swapLatched || o.swapReady, swapReady := false }) s)
      | _ => .next s

/-- A LOADW completes: its tile is the shadow plane, its buffer is free (R48). -/
def execLoadwComplete (g : Core) (e : Eng) (s : State) : Out :=
  let o := ote s g e
  match opIndex o fun q => isLoadw q && q.phase == 3 with
  | none => .next s
  | some i =>
    match o.queue[i]? with
    | none => .next s
    | some q => .next (updOte g e (fun o => { endOp i o with shadow := loadedPlane o q }) s)

/-! ### FLIP (R49, R50, R64, R89) -/

/-- Whether an MVM's operand allows a reissue list (R87). -/
def canRaise (p : MvmP) : Bool :=
  (p.fallback == 1 || p.fallback == 3) && decide (1 ≤ p.tol ∧ p.tol ≤ 6) && decide (p.k < 16)

/-- Whether an MVM's vectors may go to the DVE after their first result (R85). -/
def mayDve (p : MvmP) : Bool := (p.fallback == 2 || p.fallback == 3) && decide (1 ≤ p.tol ∧ p.tol ≤ 6)

/-- Whether every vector of an MVM's feed has its first result. -/
def allFormed (p : MvmP) (r : MvmRun) : Bool := r.skip || r.next == p.count || r.stopAt.isSome

/-- The vectors that can lie in the pipeline over a stretch of `n` SCLK, one every K SCLK (R44, R66). -/
def inPipe (p : MvmP) (n : Nat) : Nat := (n + p.k - 1) / p.k

/-- SCLK from the rings to the write buffer, and from the input stage to it, less K (R44, R62). -/
def ringLag (p : MvmP) : Nat := if p.trans then 367 else 343
def feedLag (p : MvmP) : Nat := if p.trans then 407 else 383

/-- Whether the last vector of an MVM may have left the rings: all others have their first result but as many as the pipeline holds
behind the rings (R64, log 95). -/
def offRings (p : MvmP) (r : MvmRun) : Bool := allFormed p r || decide (p.count ≤ r.next + inPipe p (ringLag p))

/-- Whether the input stage may have taken an MVM's last vector (R64, log 95). -/
def allFed (p : MvmP) (r : MvmRun) : Bool := allFormed p r || r.digital || decide (p.count ≤ r.next + inPipe p (feedLag p + p.k))

/-- Whether an MVM lets a later FLIP start: its last symbol has left the rings, its reissue procedure has ended, and every DVE
recomputation that it can still ask for has read its digital copy (R64, R89). -/
def mvmPast (q : EngOp) : Bool :=
  match q.kind with
  | .mvm p =>
    q.phase == 1 && q.run.dve.isEmpty
      && (if q.run.digital then allFormed p q.run
          else if canRaise p then q.run.done || q.run.skip
          else if mayDve p then allFormed p q.run
          else offRings p q.run)
  | _ => true

/-- Shadow vectors not yet started are discarded and counted (R101). -/
def discardShadow (g e : Nat) (s : State) : State :=
  let n := (ote s g e).shadowQ.length
  countCoreN g 0x0D e n (updCore g (fun c => { c with shadowDrop := satAdd 0xFFFF c.shadowDrop n })
    (updOte g e (fun o => { o with shadowQ := [] }) s))

/-- A FLIP starts (R64, R89, R101). -/
def execFlipStart (g : Core) (e : Eng) (s : State) : Out :=
  let o := ote s g e
  match opIndex o isFlip with
  | none => .next s
  | some i =>
    match o.queue[i]? with
    | none => .next s
    | some q =>
      if q.phase = 0 ∧ o.copying = false ∧ o.held = false ∧ ((o.queue.take i).any isLoadw) = false
          ∧ (o.queue.take i).all mvmPast then
        .next (discardShadow g e (updOte g e (setOp i { q with phase := 1, at_ := s.now }) s))
      else .next s

/-- A calibration phase begun: no sample of it taken (R94). -/
def newPhase (now n : Nat) (o : Ote) : Ote := { o with phase := n, phaseAt := now, samples := 0, sampleSet := [] }

/-- A calibration slot begun with phase 0 (R93). -/
def newSlot (now : Nat) (o : Ote) : Ote := { newPhase now 0 o with slotAt := now, void := false }

/-- The latched swap applied at a FLIP (R50, R93): the old benchmark row's calibration ends, the new one's slot
begins. -/
def applySwap (now : Nat) (o : Ote) : Ote :=
  let b := o.bench
  let x := o.nextBench
  newSlot now { o with
    map := swapMap o.map b x
    bench := x
    rows := Tbl.upd {} o.rows b (fun r => { r with calAt := now })
    swapLatched := false, copying := true }

/-- A FLIP ends: the planes exchange, and a latched swap is applied (R49, R50). -/
def execFlipComplete (g : Core) (e : Eng) (s : State) : Out :=
  let o := ote s g e
  match opIndex o fun q => isFlip q && q.phase == 1 with
  | none => .next s
  | some i =>
    .next (updOte g e (fun o =>
      let o := { endOp i o with live := o.shadow, shadow := o.live }
      if o.swapLatched then applySwap s.now o else o) s)

/-- The copy of the moved row of the outgoing plane ends (R50). -/
def execSwapCopyEnd (g : Core) (e : Eng) (s : State) : Out :=
  .next (updOte g e (fun o => { o with copying := false }) s)

/-! ### Samples of the calibration unit (R94, R95) -/

/-- The knot codes, and the code that resonator `j` of the benchmark row holds in a phase (R94). -/
def knots : List Int := [-63, -47, -31, -15, 0, 15, 31, 47, 63]
def benchCode (phase j : Nat) : Int := if 1 ≤ phase ∧ phase ≤ 9 then knots.getD ((j + phase - 1) % 9) 0 else 0

/-- Whether an operation drives the rings of an engine. -/
def ringsBusy (o : Ote) : Bool := o.queue.any fun q => match q.kind with
  | .mvm _ => q.phase == 1 && !q.run.digital && !q.run.skip
  | _ => false

/-- Samples taken of exercise vectors since the phase began, one vector every 16 SCLK while no operation is on the rings (R95, log 97). -/
def exSamples (now : Nat) (o : Ote) : Nat := if ringsBusy o then 0 else (now - max o.idleAt o.phaseAt) / 2

/-- The amplitude of exercise vectors: √3 times the rms of the last 4,096 sampled elements, at most 127 (R95). -/
def exAmp (o : Ote) : Nat :=
  let x := 3 * (o.sampSq.foldl (· + ·) 0) / 1024
  min 127 ((Nat.sqrt x + 1) / 2)

/-- An operation boundary: exercise vectors run from or to here, and a burst that waits is inserted, 512 vectors in 32 intervals of 16 SCLK
(R95). -/
def boundary (now : Nat) (o : Ote) : Ote :=
  { o with samples := o.samples + exSamples now o + (if o.burst then 32 else 0), burst := false, idleAt := now }

/-- A forward vector on the rings, sampled when it is the first of its 16-SCLK interval or K is 16 (R95). `code`: the draw of the benchmark
row's ADC code. -/
def takeSample (draw : Nat) (p : MvmP) (k : Nat) (a : Aligned) (o : Ote) : Ote :=
  if p.trans then o
  else
    let o' := { o with ringPos := (o.ringPos + k) % 16 }
    if k = 16 ∨ o.ringPos = 0 then
      let exact := sumInt (a.xs.zipIdx.map fun x => benchCode o.phase x.2 * x.1)
      let x : CalSample := { adc := adcOf draw exact p.g, dac := a.xs.map (· + 128), k := k }
      { o' with samples := o.samples + 1, sampleSet := x :: o.sampleSet, sampSq := ((sumSq a.xs).toNat :: o.sampSq).take 64 }
    else o'

/-! ### MVM start (R64, R121, R122) -/

/-- An MVM starts: it takes the live plane and the row map as they are; on a DIGITAL_ONLY plane it runs digitally, or as
an exposure not at all (R122). -/
def execMvmStart (g : Core) (e : Eng) (s : State) : Out :=
  let o := ote s g e
  match opIndex o fun q => !isLoadw q && q.phase == 0 with
  | none => .next s
  | some i =>
    match o.queue[i]? with
    | none => .next s
    | some q =>
      match q.kind with
      | .mvm p =>
        let before := o.queue.take i
        let over_ := before.all fun q => match q.kind with
          | .mvm p => if canRaise p && !q.run.digital && !q.run.skip then q.run.done else allFed p q.run
          | _ => true
        if before.any isFlip ∨ over_ = false ∨ (o.held = true ∧ o.queue.any isFlip = false) then .next s
        else
          let dig := o.live.digitalOnly
          let run : MvmRun := { plane := o.live, map := o.map, bench := o.bench, digital := p.tol == 7 || (dig && p.tol != 8),
                                skip := dig && p.tol == 8 }
          let s := updOte g e (fun o => { setOp i { q with phase := 1, at_ := s.now, run := run } (boundary s.now o) with digMvms := o.digMvms + b2n dig }) s
          .next (if dig then logRate (0x8044 * 4096 + g.val * 4 + e.val) 10000000 (hcode (coreHalf g) 0x44) g e p.tol p.count 0 s
            else s)
      | _ => .next s

/-! ### Results (R53 to R60, R79 to R89) -/

/-- The first result of a vector, or a reissue's: codes, the estimate's parts and flags. -/
structure VecRes where
  align : Aligned
  codes : List Int
  aged : Bool
  clip : Bool
  nan : Bool
  sum : Rat        -- Σ var over the rows that are not NaN (R79)
  all : Rat        -- Σ var over all 64 rows (R80)

/-- Whether the comb that lights a core has lost lock (R102). -/
def combLost (s : State) (g : Nat) : Bool :=
  let k := clu s (coreCode g)
  (Tbl.get {} k.combs (fld k.combMap (2 * (coreK g / 3)) 2)).unlocked

/-- The estimate's terms of the 64 logical rows of a running MVM. -/
def rowEsts (s : State) (g e : Nat) (m : Tbl Nat) : List RowEst :=
  let o := ote s g e
  (List.range 64).map fun i => rowEst s.now (combLost s g) (Tbl.get {} o.rows (physOf m i))

/-- var of the 64 rows or columns at an integration factor (R79, R86). -/
def varRows (s : State) (g e : Nat) (run : MvmRun) (p : MvmP) (k : Nat) (a : Aligned) (codes : List Int) : List Rat :=
  let es := rowEsts s g e run.map
  let sg := (ote s g e).sigma1.toNat
  let t := run.plane.codes
  if p.trans then varT t es sg k p.g a codes else varF t es sg k p.g a codes

/-- Σ var over the rows that are not NaN (R79). -/
def varSum (t : List Byte) (trans : Bool) (a : Aligned) (vs : List Rat) : Rat :=
  sumRat (vs.zipIdx.map fun x => if nanAt t trans a x.2 then 0 else x.1)

/-- The optical result of a vector (R55, R56): each code is the ADC's, 0 on a plane that no LOADW has written
(R51). -/
def optical (s : State) (g e : Nat) (run : MvmRun) (p : MvmP) (k : Nat) (vec : List Byte) : VecRes :=
  let t := run.plane.codes
  let a := alignVec t p.trans vec
  let exact := exactSums t p.trans a
  let codes := exact.zipIdx.map fun x => if run.plane.written then adcOf (s.freeCtr + x.2) x.1 p.g else 0
  let vs := varRows s g e run p k a codes
  { align := a, codes := codes, aged := (rowEsts s g e run.map).any RowEst.aged,
    clip := codes.any fun c => c = -128 ∨ c = 127,
    nan := (List.range 64).any (nanAt t p.trans a), sum := varSum t p.trans a vs, all := sumRat vs }

/-- The engine's λ of a direction: until 64 shadow vectors have been taken the register's value, 1 or a restored one (R80, R306). -/
def lambdaDir (o : Ote) (trans : Bool) : Rat :=
  let h := if trans then o.histT else o.histF
  if h.length < 64 then ((if trans then o.lambdaT else o.lambdaF).toNat : Rat) / 256 else lambdaOf h

/-- The smallest raised factor that is predicted to pass, else 16 (R86). -/
def raisedK (s : State) (g e : Nat) (run : MvmRun) (p : MvmP) (r : VecRes) : Nat :=
  let lam := lambdaDir (ote s g e) p.trans
  let ks := [2, 4, 8, 16].filter fun k => p.k < k ∧ (p.trans = false ∨ 4 ≤ k)
  let sum := fun k => varSum run.plane.codes p.trans r.align (varRows s g e run p k r.align r.codes)
  (ks.find? fun k => tolPass p.tol (rhoSq lam p.g (sum k)) false).getD 16

/-- A tile handed to the write buffer: kept while SRAM does not take it, the buffer's 64 tiles pausing the input stage;
else the buffered tiles and then this one are written (R19, R65). -/
def putTile (g e : Nat) (held : Bool) (t : Tile) (s : State) : State :=
  let o := ote s g e
  let o := { o with wbuf := o.wbuf ++ [t] }
  if held then setOte g e { o with paused := o.paused || decide (64 ≤ o.wbuf.length) } s
  else flushTiles g e (setOte g e o s)

/-- The tile of an exposure: raw codes, the benchmark row, 0 (R91). -/
def exposeTile (codes : List Int) (bench : Nat) : List Byte :=
  codes.map (BitVec.ofInt 8 ·) ++ [BitVec.ofNat 8 bench, 0]

/-- One more tile accepted with FAIL, its record at most once per ms; an accumulated record carries TOL and FALLBACK of its newest tile
(R85, R90, log 96). -/
def failTile (g e : Nat) (p : MvmP) (s : State) : State :=
  let o := ote s g e
  let key := 0x8021 * 4096 + g * 4 + e
  let s := countCore g 9 e s
  if rateOk s key 1000000 then
    rateMark key (logCore g 0x21 e (o.failTiles + 1) p.tol p.fallback
      (setOte g e { o with failTiles := 0, failTol := p.tol, failFb := p.fallback } s))
  else setOte g e { o with failTiles := o.failTiles + 1, failTol := p.tol, failFb := p.fallback } s

/-- A tile takes its final result: counts, the tile and its residual word (R58 to R60, R81, R89). `i`: the MVM's place in
the queue, `v` the vector; `tile` its bytes with overflow and underflow counts. -/
def finalTile (g e i v : Nat) (p : MvmP) (held clip fail aged nan : Bool) (src est : Nat) (fell : Bool)
    (tile : List Byte × Nat × Nat) (s : State) : State :=
  let up := fun (q : EngOp) => { q with at_ := s.now, run := { q.run with
    tiles := q.run.tiles + 1, ovf := q.run.ovf + tile.2.1, udf := q.run.udf + tile.2.2, nan := q.run.nan + b2n nan,
    fell := q.run.fell || fell } }
  let s := updOte g e (fun o => { o with queue := o.queue.modify i up }) s
  let s := if clip then countCore g 0x0A e s else s
  let s := if aged then countCore g 0x0B e s else s
  let s := if fail then failTile g e p s else s
  putTile g e held ⟨p.outA + v * p.outStride, tile.1, p.resA + 2 * v, resWord clip fail aged nan src est⟩ s

/-- The LFSR of R101 after a step. -/
def lfsrStep (l : Half16) : Half16 :=
  let b := (l ^^^ (l >>> 2) ^^^ (l >>> 3) ^^^ (l >>> 5)) &&& 1
  (l >>> 1) ||| (b <<< 15)

/-- Whether a stepped LFSR selects the vector at a RATE. -/
def shadowPick (l : Half16) (rate : Nat) : Bool :=
  let n := if rate = 0 then 0 else min 16 (max 6 rate)
  decide (0 < n) && fld l 0 n == 2 ^ n - 1

/-- A first-pass vector offered to the digital shadow (R101). -/
def shadowSelect (g e : Nat) (run : MvmRun) (p : MvmP) (r : VecRes) (s : State) : State :=
  if 6 < p.tol then s
  else
    let o := ote s g e
    let l := lfsrStep o.lfsr
    let s := setOte g e { o with lfsr := l } s
    if shadowPick l (fld (core s g).shadowCfg 0 5) = false then s
    else if 8 ≤ o.shadowQ.length then
      countCore g 0x0D e (updCore g (fun c => { c with shadowDrop := satAdd 0xFFFF c.shadowDrop 1 }) s)
    else
      let ex := exactSums run.plane.codes p.trans r.align
      let rows := (ex.zip r.codes).zipIdx.map fun x => (x.2, x.1.1, x.1.2 * 2 ^ p.g, physOf run.map x.2)
      let vec : ShadowVec := ⟨p.trans, p.k, p.g, rows, (r.all * 1000000000000).floor.toNat⟩
      countCore g 0x0C e (updOte g e (fun o => { o with shadowQ := o.shadowQ ++ [vec] }) s)

/-- SCLK from the input stage to the estimate, with K (R87). -/
def estLag (p : MvmP) : Nat := (if p.trans then 287 else 263) + p.k

/-- How many vectors the input stage has taken when the vector before `next` has its estimate (R87, log 95). -/
def fedNow (p : MvmP) (next : Nat) : Nat := min p.count (next + estLag p / p.k)

/-- A vector joins the reissue list; the 256th stops the feed behind the vectors that are already in the pipeline (R87), so the list never
passes 1,024. -/
def listVec (p : MvmP) (v k : Nat) (aged : Bool) (r : MvmRun) : MvmRun :=
  let l := r.list ++ [(v, k, aged)]
  { r with list := l, fedTo := if r.fedTo.isNone ∧ 256 ≤ l.length then some (fedNow p r.next) else r.fedTo }

/-- What becomes of a first result (R84, R85, R91): final, on the reissue list, or to the DVE. -/
def judgeFirst (g e i v : Nat) (run : MvmRun) (p : MvmP) (held : Bool) (r : VecRes) (s : State) : State :=
  let o := ote s g e
  let rho2 := rhoSq (lambdaDir o p.trans) p.g r.sum
  let est := estCode rho2
  let t := run.plane.codes
  let tile := outTile p.bf16 (tileVals t p.trans r.align p.g 0 r.codes)
  if p.tol = 8 then
    finalTile g e i v p held r.clip false r.aged r.nan 0 est false (exposeTile r.codes run.bench, 0, 0) s
  else if r.nan ∨ tolPass p.tol rho2 r.clip then
    finalTile g e i v p held r.clip false r.aged r.nan 0 est false tile s
  else if p.fallback = 0 ∨ (p.fallback = 1 ∧ (r.clip ∨ 16 ≤ p.k)) then
    finalTile g e i v p held r.clip true r.aged false 0 est false tile s
  else if (p.fallback = 1 ∨ p.fallback = 3) ∧ r.clip = false ∧ p.k < 16 then
    let k := raisedK s g e run p r
    updOte g e (fun o => { o with queue := o.queue.modify i fun q => { q with run := listVec p v k r.aged q.run } }) s
  else
    updOte g e (fun o => { o with queue := o.queue.modify i fun q =>
      { q with run := { q.run with dve := q.run.dve ++ [(v, r.clip, r.aged)] } } }) s

/-- What becomes of a reissued result (R85, R86): passing, kept with FAIL, or to the DVE. -/
def judgeReissue (g e i v : Nat) (run : MvmRun) (p : MvmP) (held aged : Bool) (r : VecRes) (s : State) : State :=
  let rho2 := rhoSq (lambdaDir (ote s g e) p.trans) p.g r.sum
  let tile := outTile p.bf16 (tileVals run.plane.codes p.trans r.align p.g 0 r.codes)
  let aged := aged || r.aged
  if tolPass p.tol rho2 r.clip then
    finalTile g e i v p held false false aged r.nan 1 (estCode rho2) true tile s
  else if p.fallback = 1 then finalTile g e i v p held false true aged r.nan 1 (estCode rho2) true tile s
  else
    updOte g e (fun o => { o with queue := o.queue.modify i fun q =>
      { q with run := { q.run with dve := q.run.dve ++ [(v, false, aged)], fell := true } } }) s

/-- The MVM whose result leaves the pipeline next: reissued vectors first, else the oldest with vectors left. -/
def tileOp (o : Ote) : Option Nat :=
  opIndex o fun q => match q.kind with
    | .mvm p => q.phase == 1 && !q.run.digital && !q.run.skip
        && (if q.run.reissuing then !q.run.list.isEmpty else decide (q.run.next < q.run.fedTo.getD p.count) && q.run.stopAt.isNone)
    | _ => false

/-- The vector that comes next of a running MVM with its integration factor: of the reissue list, or in order. -/
def nextVec (q : EngOp) (p : MvmP) : Nat × Nat × Bool :=
  if q.run.reissuing then q.run.list.headD (0, p.k, false) else (q.run.next, p.k, false)

/-- A running MVM with its next vector taken. -/
def takeVec (q : EngOp) : EngOp :=
  if q.run.reissuing then { q with run := { q.run with list := q.run.list.tail } }
  else { q with run := { q.run with next := q.run.next + 1 } }

/-- A vector whose bytes cannot be read ends the MVM's feed (R128). -/
def stopFeed (i a : Nat) (o : Ote) : Ote :=
  { o with queue := o.queue.modify i fun q => { (if q.run.reissuing then takeVec q else q) with run :=
    { (if q.run.reissuing then takeVec q else q).run with stopAt := some (0x0C, a % 0x1000000) } } }

/-- A vector's result formed: counts, the draw of its 64 codes, and what becomes of it. -/
def formTile (g e i : Nat) (q : EngOp) (p : MvmP) (held : Bool) (s : State) : State :=
  let x := nextVec q p
  let vec := s.mem.readN (sramKey g (p.inA + x.1 * p.inStride)) 66
  let r := optical s g e q.run p x.2.1 vec
  let clips := (r.codes.filter fun c => c = -128 ∨ c = 127).length
  let up := fun (q : EngOp) =>
    let q := takeVec q
    { q with at_ := s.now, run := { q.run with
        clip := q.run.clip + clips, flush := q.run.flush + (if q.run.reissuing then 0 else r.align.flush) } }
  let s := updOte g e (fun o => takeSample (s.freeCtr + 64) p x.2.1 r.align { o with queue := o.queue.modify i up })
    { s with freeCtr := s.freeCtr + 65 }
  let s := countCore g 4 e s
  if q.run.reissuing then judgeReissue g e i x.1 q.run p held x.2.2 r (countCore g 7 e s)
  else shadowSelect g e q.run p r (judgeFirst g e i x.1 q.run p held r s)

/-- An output tile leaves the pipeline (R58, R66, R79 to R89). -/
def execOutputTileReady (g : Core) (e : Eng) (held : Bool) (ecc : Ecc) (s : State) : Out :=
  let o := ote s g e
  match tileOp o with
  | none => .next s
  | some i =>
    match o.queue[i]? with
    | none => .next s
    | some q =>
      match q.kind with
      | .mvm p =>
        if o.paused ∨ o.hoPause then .next s
        else
          let a := sramKey g (p.inA + (nextVec q p).1 * p.inStride)
          let x := applyEcc a ecc s
          match x.1, badByte s a 66 with
          | none, none => .next (formTile g e i q p held x.2)
          | some b, _ => .next (updOte g e (stopFeed i b) x.2)
          | none, some b => .next (eccDouble b (updOte g e (stopFeed i b) x.2))
      | _ => .next s

/-- SRAM takes tiles from the write buffer again: they are written, and the input stage resumes (R65). -/
def execWriteBufferResume (g : Core) (e : Eng) (s : State) : Out := .next (flushTiles g e s)

/-- A 16-bit count as the summary record holds it. -/
def sat16 (n : Nat) : Nat := min 0xFFFF n

/-- The summary record of an MVM (R60). Bit 2 of byte 14 is set where the engine has run K = 2 for 1, so not for an MVM that runs digitally
or not at all (log 99). -/
def summary (p : MvmP) (run : MvmRun) : List Byte :=
  toBytes run.tiles 4 ++ toBytes (sat16 run.clip) 2 ++ toBytes (sat16 run.flush) 2
    ++ toBytes (sat16 run.ovf) 2 ++ toBytes (sat16 run.udf) 2 ++ toBytes (sat16 run.nan) 2
    ++ [BitVec.ofNat 8 (b2n (p.k1t && !run.digital && !run.skip) * 4 + b2n run.plane.codeSat * 2 + b2n run.fell), 0]

/-- Whether every tile of an MVM holds its final result (R89). -/
def mvmDone (p : MvmP) (run : MvmRun) : Bool := allFormed p run && run.list.isEmpty && run.dve.isEmpty

/-- What sampling keeps of a followed MVM that has completed: whether it took a fallback, and the K it ran at (R372). -/
def sampledMvm (pc : Word) (run : MvmRun) (kOf : Nat) (k : CoreSt) : CoreSt :=
  { k with sampTag := k.sampTag.map fun (t : SampTag) =>
      if t.stream = 1 ∧ t.pc = pc then { t with fell := run.fell, k := some (if run.digital || run.skip then 0 else kOf) } else t }

/-- An MVM completes (R60, R89); one that a fault ended reports it (R128). -/
def execMvmComplete (g : Core) (e : Eng) (s : State) : Out :=
  let o := ote s g e
  match opIndex o fun q => !isLoadw q && !isFlip q with
  | none => .next s
  | some i =>
    match o.queue[i]? with
    | none => .next s
    | some q =>
      match q.kind with
      | .mvm p =>
        if q.phase = 1 ∧ mvmDone p q.run ∧ o.wbuf.isEmpty then
          let s := updCore g (sampledMvm q.pc q.run p.k) (updOte g e (fun o => endOp i (boundary s.now o)) (store (sramKey g (summaryOff p)) (summary p q.run) s))
          match q.run.stopAt with
          | some (cause, info) => .next (strFault g 1 cause info false 0x31 q.pc s)
          | none => .next s
        else .next s
      | _ => .next s

/-! ### Reissue (R87) -/

/-- The running MVM that can form a reissue list and whose procedure has not ended. -/
def reissueOp (o : Ote) : Option Nat :=
  opIndex o fun q => match q.kind with
    | .mvm p => q.phase == 1 && canRaise p && !q.run.digital && !q.run.done
    | _ => false

/-- A change to the run of the MVM in reissue. -/
def onReissue (g e : Nat) (s : State) (ok : MvmP → MvmRun → Bool) (f : MvmP → MvmRun → MvmRun) : State :=
  let o := ote s g e
  match reissueOp o with
  | none => s
  | some i =>
    match o.queue[i]? with
    | none => s
    | some q =>
      match q.kind with
      | .mvm p => if ok p q.run then setOte g e (setOp i { q with run := f p q.run } o) s else s
      | _ => s

/-- Whether an MVM is to stop its feed: 256 vectors are listed, or its last one has entered the input stage (R87 step 1). -/
def feedOver (p : MvmP) (r : MvmRun) : Bool :=
  decide (256 ≤ r.list.length) || r.stopAt.isSome || decide (p.count ≤ fedNow p r.next)

/-- The engine stops feeding new vectors (R87 step 1). -/
def execReissueFeedStop (g : Core) (e : Eng) (s : State) : Out :=
  .next (onReissue g e s (fun p r => r.feed && !r.reissuing && feedOver p r) fun p r =>
    { r with feed := false, fedTo := some (r.fedTo.getD (fedNow p r.next)) })

/-- The reissue list in the order of R87 step 3: by K′, then in input order. -/
def sortList (l : List (Nat × Nat × Bool)) : List (Nat × Nat × Bool) :=
  [2, 4, 8, 16].flatMap fun k => l.filter fun x => x.2.1 = k

/-- The last vector fed has its estimate, so the list is complete: its vectors are reissued, or the procedure ends with none (R87 steps 2,
3). -/
def execReissueRun (g : Core) (e : Eng) (s : State) : Out :=
  .next (onReissue g e s (fun p r => !r.feed && !r.reissuing && (r.next == r.fedTo.getD p.count || r.stopAt.isSome)) fun p r =>
    if r.list.isEmpty then { r with feed := true, fedTo := none, done := r.next == p.count || r.stopAt.isSome }
    else { r with list := sortList r.list, reissuing := true })

/-- The engine returns to K and resumes feeding, or has fed its last vector (R87 step 4). -/
def execReissueResume (g : Core) (e : Eng) (s : State) : Out :=
  .next (onReissue g e s (fun _ r => r.reissuing && r.list.isEmpty) fun p r =>
    { r with reissuing := false, feed := true, fedTo := none, done := r.next == p.count || r.stopAt.isSome })

/-! ### The DVE (R88) -/

/-- The MVM whose vector the DVE serves next. -/
def dveOp (o : Ote) : Option Nat :=
  opIndex o fun q => match q.kind with
    | .mvm p => q.phase == 1 && !q.run.skip
        && (!q.run.dve.isEmpty || (q.run.digital && decide (q.run.next < p.count) && q.run.stopAt.isNone))
    | _ => false

/-- An exact result written as the tile's final result (R88): from the digital copy and the input vector as core SRAM holds it now, no ADC
range (log 104). The write buffer's tiles are written with it, which ends a pause (log 104). -/
def dveTile (g e i : Nat) (q : EngOp) (p : MvmP) (s : State) : State :=
  let t := q.run.plane.copy
  let x := q.run.dve.headD (q.run.next, false, false)
  let vec := s.mem.readN (sramKey g (p.inA + x.1 * p.inStride)) 66
  let a := alignVec t p.trans vec
  let tile := outTile p.bf16 (tileVals t p.trans a p.g p.g (exactSums t p.trans a))
  let nan := (List.range 64).any (nanAt t p.trans a)
  let fb := !q.run.dve.isEmpty
  let up := fun (q : EngOp) => { q with run :=
    if fb then { q.run with dve := q.run.dve.tail }
    else { q.run with next := q.run.next + 1, flush := q.run.flush + a.flush } }
  let s := updOte g e (fun o => { o with queue := o.queue.modify i up }) s
  let s := if fb then countCore g 8 e s else s
  finalTile g e i x.1 p false x.2.1 false x.2.2 nan 2 0 fb tile s

/-- The DVE takes the next vector of an MVM: its result is formed, or its bytes may not be readable (R21, R128) and the feed ends. -/
def dveStep (g e i : Nat) (ecc : Ecc) (q : EngOp) (p : MvmP) (s : State) : State :=
  let x := q.run.dve.headD (q.run.next, false, false)
  let a := sramKey g (p.inA + x.1 * p.inStride)
  let stop := fun (b : Nat) (q : EngOp) => { q with run := { q.run with dve := q.run.dve.tail, stopAt := some (0x0C, b % 0x1000000) } }
  let end_ := fun (b : Nat) (s : State) => updOte g e (fun o => { o with queue := o.queue.modify i (stop b) }) s
  let y := applyEcc a ecc s
  match y.1, badByte s a 66 with
  | none, none => dveTile g e i q p y.2
  | some b, _ => end_ b y.2
  | none, some b => eccDouble b (end_ b y.2)

/-- The DVE finishes a fallback or DIGITAL vector (R88). -/
def execDveRecomputeDone (g : Core) (e : Eng) (ecc : Ecc) (s : State) : Out :=
  let o := ote s g e
  match dveOp o with
  | none => .next s
  | some i =>
    match o.queue[i]? with
    | none => .next s
    | some q =>
      match q.kind with
      | .mvm p => .next (dveStep g e i ecc q p s)
      | _ => .next s

/-! ### The digital shadow (R80, R90, R99, R101) -/

/-- Whether a physical row may be flagged as a priority row (R99). -/
def mayFlag (now : Nat) (o : Ote) (row : Nat) : Bool :=
  let r := Tbl.get {} o.rows row
  row != o.bench && !(o.prio.contains row) && !r.retired && decide (1000000 ≤ rowAge now r)

/-- A physical row flagged as a priority row. -/
def flagRow (now row : Nat) (o : Ote) : Ote := if mayFlag now o row then { o with prio := o.prio ++ [row] } else o

/-- One row's gain sums updated by a shadow vector, and the row flagged when its gain error passes 0.2 %. A transpose vector's result `i` counts
for logical row `i` (log 100). -/
def gainRow (now g : Nat) (o : Ote) (x : Nat × Int × Int × Nat) : Ote :=
  let sx := x.2.1
  if 8 * 2 ^ g < sx.natAbs then
    let h := (((x.2.2.1 - sx) * sx, sx.natAbs ^ 2) :: Tbl.get [] o.gain x.1).take 64
    let o := { o with gain := Tbl.set o.gain x.1 h }
    let es : Int := (h.map Prod.fst).foldl (· + ·) 0
    let ss : Nat := (h.map Prod.snd).foldl (· + ·) 0
    if h.length = 64 ∧ 2 * ss < 1000 * es.natAbs then flagRow now x.2.2.2 o else o
  else o

/-- λ × 256 as its register shows it, rounded down (log 101). -/
def lambdaWord (l : Rat) : Half16 := BitVec.ofNat 16 (l * 256).floor.toNat

/-- The DVE finishes a shadow vector (R80, R90, R101). -/
def execShadowVectorDone (g : Core) (e : Eng) (s : State) : Out :=
  let o := ote s g e
  match o.shadowQ with
  | [] => .next s
  | v :: rest =>
    let e2 := (v.rows.map fun x => (x.2.2.1 - x.2.1).natAbs ^ 2).foldl (· + ·) 0 * 1000000000000
    let old := lambdaDir o v.trans
    let o := { o with shadowQ := rest }
    let o := if v.trans then { o with histT := ((e2, v.varSum) :: o.histT).take 64 }
      else { o with histF := ((e2, v.varSum) :: o.histF).take 64 }
    let new := lambdaDir o v.trans
    let o := if v.trans then { o with lambdaT := lambdaWord new } else { o with lambdaF := lambdaWord new }
    let o := v.rows.foldl (gainRow s.now v.g) o
    let s := setOte g e o s
    .next (if old ≤ 2 ∧ 2 < new then
      logRate (0x8020 * 4096 + g.val * 4 + e.val) 10000000 (hcode (coreHalf g) 0x20) g e (b2n v.trans) (lambdaWord new).toNat v.k s
    else s)

/-- The accumulated count of tiles accepted with FAIL is written, at most once per ms (R90). -/
def execFailTileLogFlush (g : Core) (e : Eng) (s : State) : Out :=
  let o := ote s g e
  let key := 0x8021 * 4096 + g.val * 4 + e.val
  if o.failTiles ≠ 0 ∧ rateOk s key 1000000 then
    .next (rateMark key (logCore g 0x21 e o.failTiles o.failTol o.failFb (setOte g e { o with failTiles := 0 } s)))
  else .next s

end Sys2Proof.Machine
end

