-- ==== Sys2Proof/Machine/Calib.lean ====
section
/-! DEFINITION. Benchmark-row rotation, the slew governor and the compute comb hand-over (R93 to R100, R106 to R108,
R25). -/

namespace Sys2Proof.Machine

/-! ### Rotation (R93 to R100) -/

/-- Whether the rotation may take a row next (R93). -/
def qualifies (now : Nat) (o : Ote) (row : Nat) : Bool :=
  let r := Tbl.get {} o.rows row
  !r.retired && row != o.bench && decide (1000000 ≤ rowAge now r)

/-- The row that the rotation pointer comes to (R93). -/
def pointed (now : Nat) (o : Ote) : Option (Nat × Bool) :=
  (((List.range 65).map fun i => (o.ptr + i) % 65).find? (qualifies now o)).map fun x => (x, false)

/-- The next benchmark row: a priority row where the 64 slots before hold fewer than 4, else the first that qualifies from the pointer
(R93, R99); with whether it was a priority slot. -/
def nextRow (now : Nat) (o : Ote) : Option (Nat × Bool) :=
  match o.prio with
  | x :: _ => if (o.slotHist.filter id).length < 4 then some (x, true) else pointed now o
  | [] => pointed now o

/-- The slot ended (phase 15, phase 0 repeating on the row) and a swap made ready, if a row qualifies (R93). -/
def makeReady (now : Nat) (o : Ote) : Ote :=
  let o := if o.phase = 15 then o else newPhase now 15 o
  match nextRow now o with
  | none => o
  | some (x, p) =>
    { o with swapReady := true, readyAt := now, nextBench := x, prio := o.prio.erase x,
             slotHist := (p :: o.slotHist).take 64, ptr := if p then o.ptr else (x + 1) % 65 }

/-- On a core that no context owns, the calibration unit's own LOADW of an all-zero tile and FLIP (R97). -/
def idleLoad (s : State) (g : Nat) (o : Ote) : Ote :=
  if o.swapReady ∧ (core s g).state ≠ .assigned then
    { o with queue := o.queue ++ [{ kind := .loadw 0 false, cal := true }, { kind := .flip, cal := true }] }
  else o

/-- The first condition of R98 that a calibration meets: 1 sc, 2 tuner range, 3 offset range, 4 pilot check. -/
def calCause (m : CalMeas) : Option Nat :=
  if 760 < m.sc.toNat then some 1 else if m.tunerOk = false then some 2
  else if m.offsetOk = false then some 3 else if m.pilotOk = false then some 4 else none

/-- A row's results of R96. `age`: its age at the slot's start, in ns. -/
def rowResult (age : Nat) (m : CalMeas) (r : RowCal) : RowCal :=
  let new := m.gainErr * 1000000 / max 1 age
  { r with sc := m.sc, kappa := m.kappa, rate := BitVec.ofNat 16 (min 0xFFFF (max 50 ((3 * r.rate.toNat + new) / 4))), drive := m.drive,
           fails := 0 }

/-- σ_n(1) with a slot's variance averaged in with weight 1/4 (R96). -/
def sigmaResult (old : Half16) (m : CalMeas) : Half16 :=
  BitVec.ofNat 16 (Nat.sqrt ((3 * old.toNat ^ 2 + m.sigma1.toNat ^ 2) / 4))

/-- A failed row calibration (R98): the first restarts the slot, a second retires the row and fails the engine, which
fences its core. -/
def calFail (g e cause : Nat) (s : State) : State :=
  let o := ote s g e
  let b := o.bench
  let r := Tbl.get {} o.rows b
  let n := min 15 (r.fails + 1)
  let s := logCore g 0x30 e b cause n s
  if n < 2 then setOte g e (newSlot s.now { o with rows := Tbl.set o.rows b { r with fails := n } }) s
  else
    let s := setOte g e { o with rows := Tbl.set o.rows b { r with fails := n, retired := true }, calState := 3 } s
    fenceCore g 4 (coreFault g 3 (logCore g 0x31 e b 0 0 s))

/-- Phase 9 of a rotation slot ends: the results of the benchmark row, and a swap ready for the next (R93, R96). -/
def slotEnd (g e : Nat) (m : CalMeas) (s : State) : State :=
  match calCause m with
  | some cause => calFail g e cause s
  | none =>
    updOte g e (fun o =>
      let r := Tbl.get {} o.rows o.bench
      let o := { o with rows := Tbl.set o.rows o.bench (rowResult (o.slotAt - r.calAt) m r),
                        sigma1 := sigmaResult o.sigma1 m }
      idleLoad s g (makeReady s.now o)) s

/-- One physical row at the end of CAL's slot: its results, or its failure recorded, with whether it is retired (R96, R98, R100). -/
def calRow (g e : Nat) (s : State) (x : CalMeas × Nat) : State :=
  let o := ote s g e
  let r := Tbl.get {} o.rows x.2
  if r.retired then s
  else match calCause x.1 with
  | none =>
    setOte g e { o with rows := Tbl.set o.rows x.2 { rowResult (o.slotAt - r.calAt) x.1 r with calAt := s.now },
                        sigma1 := sigmaResult o.sigma1 x.1 } s
  | some cause =>
    let n := min 15 (r.fails + 1)
    let s := logCore g 0x30 e x.2 cause n (setOte g e { o with rows := Tbl.set o.rows x.2 { r with fails := n, retired := decide (2 ≤ n) } } s)
    if n < 2 then s else logCore g 0x31 e x.2 0 0 s

/-- The single slot of CAL ends: every row takes its results; with a row that failed once the slot repeats, with one retired the engine has
failed and its core is fenced (R98, R100, R400). -/
def calSlotEnd (g e : Nat) (ms : List CalMeas) (s : State) : State :=
  let s := (ms.zipIdx.take 65).foldl (calRow g e) s
  let o := ote s g e
  if o.rows.any fun p => p.2.retired then fenceCore g 4 (coreFault g 3 (setOte g e { newPhase s.now 15 o with calState := 3 } s))
  else if o.rows.any fun p => p.2.fails ≠ 0 then setOte g e (newSlot s.now o) s
  else setOte g e (newPhase s.now 15 o) s

/-- The offset DAC trims that phase 0 has found: of the benchmark row, in CAL of every row (R94, R100). -/
def takeTrims (ms : List CalMeas) (o : Ote) : Ote :=
  if o.calState = 0 then
    (ms.zipIdx.take 65).foldl (fun o x => { o with rows := Tbl.upd {} o.rows x.2 fun r => { r with offTrim := x.1.offTrim } }) o
  else match ms with
    | m :: _ => { o with rows := Tbl.upd {} o.rows o.bench fun r => { r with offTrim := m.offTrim } }
    | [] => o

/-- Whether a phase may end: 25 µs have passed since it began and 512 samples have been taken in it (R94). -/
def phaseOver (now : Nat) (o : Ote) : Bool := decide (o.phaseAt + 25000 ≤ now) && decide (512 ≤ o.samples + exSamples now o)

/-- A calibration phase ends (R94). -/
def execCalPhaseEnd (g : Core) (e : Eng) (ms : List CalMeas) (s : State) : Out :=
  let o := ote s g e
  if o.stopped ∨ o.void ∨ 9 < o.phase ∨ phaseOver s.now o = false then .next s
  else if o.phase < 9 then
    .next (setOte g e (newPhase s.now (o.phase + 1) (if o.phase = 0 then takeTrims ms o else o)) s)
  else if o.calState = 0 then .next (calSlotEnd g e ms s)
  else if o.calState = 1 then
    match ms with
    | m :: _ => .next (slotEnd g e m s)
    | [] => .next s
  else .next s

/-- A swap held because no row qualified becomes ready once one does (R93). -/
def execSwapReadyDeferred (g : Core) (e : Eng) (s : State) : Out :=
  let o := ote s g e
  if o.calState = 1 ∧ o.phase = 15 ∧ o.swapReady = false ∧ o.swapLatched = false then
    .next (setOte g e (idleLoad s g (makeReady s.now o)) s)
  else .next s

/-- A phase has waited 1 ms for samples: a burst of exercise vectors at the next operation boundary (R95). -/
def execExerciseBurst (g : Core) (e : Eng) (s : State) : Out :=
  let o := ote s g e
  if o.phase ≤ 9 ∧ o.stopped = false ∧ o.phaseAt + 1000000 ≤ s.now ∧ o.samples + exSamples s.now o < 512 then
    .next (setOte g e { o with burst := true } s)
  else .next s

/-- A time in ns in units of 10 µs, saturating. -/
def units10 (t : Nat) : Nat := min 0xFFFF (t / 10000)

/-- OTE_CAL_AGE: OLDEST and SWAP_WAIT. -/
def oldestAge (now : Nat) (o : Ote) : Nat :=
  units10 (((List.range 64).map fun i => rowAge now (Tbl.get {} o.rows (physOf o.map i))).foldl max 0)
def swapWait (now : Nat) (o : Ote) : Nat := if o.swapReady ∨ o.swapLatched then units10 (now - o.readyAt) else 0

/-- A swap has waited 16.25 ms (R97, R108). -/
def execSwapWaitAlarm (g : Core) (e : Eng) (s : State) : Out :=
  let o := ote s g e
  if (o.swapReady ∨ o.swapLatched) ∧ o.readyAt + 16250000 ≤ s.now then
    .next (logRate (0x8038 * 4096 + g.val * 4 + e.val) 100000000 (hcode (coreHalf g) 0x38) g e (swapWait s.now o)
      (oldestAge s.now o) 0 s)
  else .next s

/-- What a write to OTE_ROW_SEL latches: OTE_ROW_CAL, OTE_ROW_DRIFT, OTE_ROW_STAT. -/
def rowWords (now : Nat) (o : Ote) (row : Nat) : Word × Word × Word :=
  if 65 ≤ row then (0, 0, 0)
  else
    let r := Tbl.get {} o.rows row
    let logical := if row = o.bench then 127 else ((List.range 64).find? fun i => physOf o.map i = row).getD 127
    (r.sc ++ r.kappa, BitVec.ofNat 32 (units10 (rowAge now r) * 65536 + r.rate.toNat),
      BitVec.ofNat 32 (b2n r.retired * 0x80000000 + b2n r.unlocked * 0x40000000 + b2n (o.prio.contains row) * 0x20000000
        + r.fails * 0x1000000 + r.pilotFails * 65536 + logical))

/-- Offset of an engine's register within its core. -/
def oteOff (e off : Nat) : Nat := 0x1000 + 0x800 * e + off

/-- A write to OTE_ROW_SEL (R96). -/
def execOteRowSelWrite (g : Core) (e : Eng) (v : Word) (s : State) : Out :=
  .next (coreWrite g (oteOff e 0x10) v s (
    let o := ote s g e
    let x := rowWords s.now o (fld v 0 7)
    setOte g e { o with rowSel := v &&& 0x7F, selCal := x.1, selDrift := x.2.1, selStat := x.2.2 } s))

/-- A write to OTE_CHAN_SEL (R107). -/
def execOteChanSelWrite (g : Core) (e : Eng) (v : Word) (s : State) : Out :=
  .next (coreWrite g (oteOff e 0x20) v s (
    let o := ote s g e
    setOte g e { o with chanSel := v &&& 0x3F, selTrim := (o.trims.getD (fld v 0 6) 0).setWidth 32 } s))

/-! ### The slew governor (R106) -/

/-- The engines of a cluster's good, unfenced cores, as (core, engine), lowest first. -/
def govEngines (s : State) (c : Nat) : List (Nat × Nat) :=
  (((List.range 9).map (codeCore c)).filter fun g => inGood s g ∧ (core s g).state ≠ .fenced ∧ (core s g).state ≠ .absent).flatMap
    fun g => (List.range 4).map fun e => (g, e)

/-- SCLK slots of a 1 µs interval over the engines of a cluster's good, unfenced cores. -/
def slots (s : State) (c : Nat) : Nat := 8000 * (govEngines s c).length

/-- Slots that engines asking for `ws` have driven when each has driven up to `l`. -/
def levelSum (ws : List Nat) (l : Nat) : Nat := (ws.map (min l)).foldl (· + ·) 0

/-- The highest level below 2ⁿ above `l` that stays within `top` slots. -/
def waterLevel (ws : List Nat) (top : Nat) : Nat → Nat → Nat
  | 0, l => l
  | n + 1, l => waterLevel ws top n (if levelSum ws (l + 2 ^ n) ≤ top then l + 2 ^ n else l)

/-- The slots granted at a level, with the `r` slots that are left given to the first engines that ask for more. -/
def grantAt (l : Nat) : Nat → List Nat → List Nat
  | _, [] => []
  | r, w :: ws => if l < w ∧ 0 < r then (l + 1) :: grantAt l (r - 1) ws else min w l :: grantAt l r ws

/-- The slots the ceiling grants to engines that ask for `ws`: SCLK by SCLK to all that ask, the lowest core and engine first where fewer
slots remain (R106 item 1, log 102). -/
def granted (ws : List Nat) (top : Nat) : List Nat :=
  if ws.foldl (· + ·) 0 ≤ top then ws
  else
    let l := waterLevel ws top 13 0
    grantAt l (top - levelSum ws l) ws

/-- Idle symbols started to reach the floor, on engines that do not drive, lowest core and engine first (R106 item 2). -/
def idleFill : Nat → List Nat → List Nat
  | _, [] => []
  | need, d :: ds => min need (8000 - d) :: idleFill (need - (8000 - d)) ds

/-- The highest and lowest number of driven slots of `total` that lie within one point of a duty of `d` in `n` slots. -/
def dutyTop (d n total : Nat) : Nat := (100 * d + n) * total / (100 * max 1 n)
def dutyLow (d n total : Nat) : Nat := ((100 * d - n) * total + (100 * max 1 n - 1)) / (100 * max 1 n)

/-- Events of one engine in an interval counted: dark slots as governor stalls, idle symbols (R106, R368). -/
def countGov (s : State) (x : (Nat × Nat) × Nat × Nat) : State :=
  countCoreN x.1.1 6 x.1.2 x.2.1 (countCoreN x.1.1 5 x.1.2 x.2.2 s)

/-- A governor interval ends: the slots driven stay within one point of the duty of the interval before, and as far as that allows under the
half's duty cap (R106, R391). -/
def execGovernorIntervalEnd (c : Clu) (want : List Nat) (s : State) : Out :=
  let k := clu s c
  let es := govEngines s c
  let total := slots s c
  let n := if k.drivenOf = 0 then total else k.drivenOf
  let cap := total * (if c.val < 8 then s.pwr.capA else s.pwr.capB) / 100
  let ws := es.map fun x => min 8000 (want.getD (4 * coreK x.1 + x.2) 0)
  let low := dutyLow k.driven n total
  let top := fun d n => min total (max (dutyLow d n total) (min (dutyTop d n total) cap))
  let gs := granted ws (top k.driven n)
  let got := gs.foldl (· + ·) 0
  let is := idleFill (low - got) gs
  let d := got + is.foldl (· + ·) 0
  let s := (es.zip ((List.zipWith (· - ·) ws gs).zip is)).foldl countGov s
  .next (updClu c (fun k => { k with driven := d, drivenOf := total, duty := d * 1000 / max 1 total,
                                     ceil := min 1000 (top d total * 1000 / max 1 total) }) s)

/-! ### Compute combs (R25, R102, R107) -/

def comb (s : State) (c n : Nat) : CombSt := Tbl.get {} (clu s c).combs n
def updComb (c n : Nat) (f : CombSt → CombSt) (s : State) : State :=
  updClu c (fun k => { k with combs := Tbl.upd {} k.combs n f }) s

/-- The comb in a slot, the standby comb, and the slot that a comb serves. -/
def slotComb (s : State) (c slot : Nat) : Nat := fld (clu s c).combMap (2 * slot) 2
def standby (s : State) (c : Nat) : Option Nat :=
  if bit (clu s c).combMap 8 then some (fld (clu s c).combMap 6 2) else none
def combSlot (s : State) (c n : Nat) : Option Nat := (List.range 3).find? fun j => slotComb s c j = n

/-- The engines (core, engine) that a slot lights. -/
def slotEngines (c slot : Nat) : List (Nat × Nat) :=
  (List.range 3).flatMap fun i => (List.range 4).map fun e => (codeCore c (3 * slot + i), e)
def onSlot (c slot : Nat) (f : Ote → Ote) (s : State) : State :=
  (slotEngines c slot).foldl (fun s p => updOte p.1 p.2 f s) s

/-- A comb slot lost with no working standby: its three cores fenced (R25). -/
def combSlotLost (c slot : Nat) (s : State) : State :=
  let gs := (List.range 3).map fun i => codeCore c (3 * slot + i)
  let gs := gs.filter fun g => (core s g).state ≠ .absent ∧ (core s g).state ≠ .fenced
  let mask := (gs.map fun g => 2 ^ coreK g).foldl (· + ·) 0
  let s := updComb c (slotComb s c slot) (fun k => { k with state := 4 }) s
  logClu c 0x07 slot mask 0 0 (fenceCores gs 6 (cluFault c 3 s))

/-- A hand-over of a slot started: the standby is lit and locked, the slot timers stop (R107 step 1). Without a working
standby a scheduled one is logged, and a forced one loses the slot. -/
def startHandover (c slot : Nat) (forced : Bool) (s : State) : State :=
  match standby s c with
  | none => if forced then combSlotLost c slot s else logClu c 0x37 slot 3 0 0 s
  | some n =>
    let s := updClu c (fun k => { k with handover := some ⟨slot, 1, forced, false, s.now⟩ }) s
    onSlot c slot (fun o => { o with stopped := true }) (updComb c n (fun k => { k with state := 1, relocking := true }) s)

/-- A hand-over called for by the comb's state (R107): one already running on the slot becomes forced when it must; a forced one of another slot
waits for the one that runs (log 103). -/
def callHandover (c slot : Nat) (forced : Bool) (s : State) : State :=
  match (clu s c).handover with
  | some h =>
    if forced = false then s
    else if h.slot = slot then updClu c (fun k => { k with handover := some { h with forced := true } }) s
    else updClu c (fun k => { k with handWait := if k.handWait.contains slot then k.handWait else k.handWait ++ [slot] }) s
  | none => startHandover c slot forced s

/-- A hand-over has ended: the forced ones that wait begin, or lose their slots for want of a standby (R25, R107). -/
def nextHandover (c : Nat) (s : State) : State :=
  (clu s c).handWait.foldl (fun s j =>
    if (clu s c).handover.isSome then s
    else startHandover c j true (updClu c (fun k => { k with handWait := k.handWait.erase j }) s)) s

/-- A comb still unlocked 2 ms after its lock loss (R102). -/
def execCombRelockTimeout (c : Clu) (n : Fin 4) (s : State) : Out :=
  if (comb s c n).unlocked ∧ (comb s c n).lostAt + 2000000 ≤ s.now then
    match combSlot s c n with
    | some j => .next (callHandover c j true s)
    | none => .next s
  else .next s

/-- A comb's powers compared with commissioning: the warning and the hand-over thresholds (R107). -/
def combPower (c n : Nat) (loss : Half16) (line : Fin 64) (lineLoss : Half16) (s : State) : State :=
  let l := loss.toNat
  let s := updComb c n (fun k => { k with loss := loss }) s
  let s := if l < 100 then updComb c n (fun k => { k with warned := false }) s
    else if (comb s c n).warned then s
    else updComb c n (fun k => { k with warned := true }) (logClu c 0x35 n l line lineLoss.toNat s)
  match combSlot s c n with
  | none => s
  | some j =>
    if 250 ≤ l ∨ 300 ≤ lineLoss.toNat then callHandover c j true s
    else if 150 ≤ l ∧ (standby s c).isSome ∧ (clu s c).handover.isNone then callHandover c j false s
    else s

/-- A comb's line power compared with commissioning (R107). -/
def execCombPowerCheck (c : Clu) (n : Fin 4) (loss : Half16) (line : Fin 64) (lineLoss : Half16) (s : State) : Out :=
  .next (combPower c.val n.val loss line lineLoss s)

/-- A write to CLU_COMB_CMD (R107): slot 3, no standby or a hand-over running discards GO. The cause logged for slot 3
is a free value. -/
def execCluCombGo (c : Clu) (v : Word) (s : State) : Out :=
  .next (cluWrite c 0x2020 v s (
    if bit v 31 = false then s
    else
      let j := fld v 0 2
      if j = 3 then
        let x := drawFree 3 s
        logClu c 0x37 3 (x.1 % 0x100000000) 0 0 x.2
      else if (clu s c).handover.isSome then logClu c 0x37 j 4 0 0 s
      else startHandover c j false s))

/-- The hand-over in a step. -/
def handoverAt (s : State) (c step : Nat) : Option Handover :=
  match (clu s c).handover with
  | some h => if h.step = step then some h else none
  | none => none

/-- The hand-over of a cluster moved to a step. -/
def toStep (c step : Nat) (h : Handover) (s : State) : State :=
  updClu c (fun k => { k with handover := some { h with step := step, since := s.now } }) s

/-- The hand-over of a cluster that has stood at a step for a time. -/
def handoverHeld (s : State) (c step ns : Nat) : Option Handover := (handoverAt s c step).filter fun h => decide (h.since + ns ≤ s.now)

/-- The standby is lit, locked and checked: the slot's engines hold at their flip boundaries (R107 step 2). -/
def execHandoverStandbyLocked (c : Clu) (s : State) : Out :=
  match handoverAt s c 1, standby s c with
  | some h, some n =>
    let s := updComb c n (fun k => { k with state := 5, relocking := false, unlocked := false }) (toStep c 2 h s)
    .next (onSlot c h.slot (fun o => { o with held := true, calState := if o.calState = 1 then 2 else o.calState }) s)
  | _, _ => .next s

/-- All engines are held: the switch connects the standby (R107 step 3). -/
def execHandoverEnginesHeld (c : Clu) (s : State) : Out :=
  match handoverAt s c 2 with
  | some h => .next (toStep c 3 h s)
  | none => .next s

/-- The engines of a slot go on as before the hand-over. -/
def resumeSlot (c slot : Nat) (s : State) : State :=
  onSlot c slot (fun o => { o with held := false, stopped := false, hoPause := false,
                                   calState := if o.calState = 2 then 1 else o.calState }) s

/-- Step 2 took more than 2 ms: a scheduled hand-over is abandoned until its retry, a forced one pauses the engines that still run at their
next vector boundary and goes on (R107). -/
def execHandoverHoldTimeout (c : Clu) (s : State) : Out :=
  match handoverHeld s c 2 2000000 with
  | some h =>
    if h.forced then .next (onSlot c h.slot (fun o => { o with hoPause := ringsBusy o }) (toStep c 3 h s))
    else
      let s := match standby s c with
        | some n => updComb c n (fun k => { k with state := 2 }) s
        | none => s
      .next (logClu c 0x37 h.slot 1 0 0 (resumeSlot c h.slot (toStep c 0 h s)))
  | none => .next s

/-- The switch is done: confirmation begins, and any slot in progress is void (R107 step 4). -/
def execHandoverSwitchDone (c : Clu) (s : State) : Out :=
  match handoverAt s c 3 with
  | some h =>
    .next (onSlot c h.slot (fun o => if o.phase ≤ 9 then { newPhase s.now 0 o with slotAt := s.now } else o) (toStep c 4 h s))
  | none => .next s

/-- The slot's new comb in the map, and no standby. -/
def handoverMap (m : Word) (slot new : Nat) : Word := setFld (setFld m (2 * slot) 2 new) 8 1 0

/-- Each engine of a slot takes the trims its confirmation has found (R107 step 4). -/
def setTrims (c slot : Nat) (trims : List (List Half16)) (s : State) : State :=
  ((slotEngines c slot).zip trims).foldl (fun s x => updOte x.1.1 x.1.2 (fun o => { o with trims := x.2 }) s) s

/-- Confirmation ends (R107 steps 4, 5). -/
def execHandoverConfirmEnd (c : Clu) (inRange fitOk : Bool) (trims : List (List Half16)) (s : State) : Out :=
  match handoverAt s c 4, standby s c with
  | some h, some n =>
    let old := slotComb s c h.slot
    if inRange ∧ fitOk then
      let s := updComb c old (fun k => { k with state := 4, unlocked := false }) s
      let s := updComb c n (fun k => { k with state := 3 }) s
      let s := updClu c (fun k => { k with handover := none, combMap := handoverMap k.combMap h.slot n }) s
      let s := setTrims c h.slot trims s
      .next (nextHandover c (logClu c 0x36 h.slot old n (if h.forced then 2 else 1) (resumeSlot c h.slot s)))
    else
      let s := logClu c 0x37 h.slot 2 0 0 (resumeSlot c h.slot s)
      if h.retried then
        let s := updComb c n (fun k => { k with state := 4 }) s
        let s := updClu c (fun k => { k with handover := none, combMap := setFld k.combMap 8 1 0 }) s
        .next (nextHandover c (if h.forced then combSlotLost c h.slot s else s))
      else .next (updComb c n (fun k => { k with state := 2 }) (toStep c 0 { h with retried := true } s))
  | _, _ => .next s

/-- 100 ms after it was abandoned or failed, a hand-over is tried again (R107). -/
def execHandoverRetry (c : Clu) (s : State) : Out :=
  match handoverHeld s c 0 100000000, standby s c with
  | some h, some n =>
    let s := updComb c n (fun k => { k with state := 1, relocking := true }) (toStep c 1 h s)
    .next (onSlot c h.slot (fun o => { o with stopped := true }) s)
  | _, _ => .next s

end Sys2Proof.Machine
end

