-- ==== Sys2Proof/Machine/Ddr.lean ====
section
/-! DEFINITION. DDR: requests and their queues, the patrol scrub, retirement and migration, guard regions (R150 to R161, R167 to
R169). -/

namespace Sys2Proof.Machine

/-- WATCH ends after 24 h with no threshold crossed (R157). -/
def execWatchClearTimeout (ch : Chan) (s : State) : Out :=
  let k := chan s ch.val
  if k.state = 1 ∧ k.crossedAt + 24 * hourNs ≤ s.now ∧ overThreshold s ch.val = false then
    .next (updChan ch.val (fun k => { k with state := 0 }) s)
  else .next s

/-- A device fails training, is reconstructed 16 times within 1 ms, or does not answer for 100 µs. -/
def execDeviceFailed (ch : Chan) (cause : Nat) (s : State) : Out := .next (failDevice ch.val cause s)

/-! ### Requests (R151, R152, R156, R159, R160) -/

/-- Whether a requester may reach a DDR range: below the user limit, or below C for BAR4 reads and hub firmware. -/
def reach (s : State) (req : Requester) (off len : Nat) (write : Bool) : Bool :=
  match req with
  | .uplink _ _ => decide (off + len ≤ userLimit s)
  | .hubCopy _ => decide (off + len ≤ userLimit s)
  | .firmware => decide (off + len ≤ capacity s)
  | .bar4 => decide (off + len ≤ if write then userLimit s else capacity s)

/-- The context of a request. -/
def reqCtx (req : Requester) : Option Nat :=
  match req with
  | .uplink _ c => some c.val
  | .hubCopy c => c.map Fin.val
  | _ => none

/-- The guard check of a context's request: the region that refuses it. -/
def reqGuard (s : State) (req : Requester) (off len : Nat) : Option (Nat × Nat) :=
  (reqCtx req).bind fun c => (guardHit s.hst.force c off len).map fun g => (g, c)


/-- The holder of a request's credit, and its credits in each channel (R160): 0–15 the cluster uplinks. -/
def holder (req : Requester) : Nat × Nat :=
  match req with
  | .uplink k _ => (k.val, 8)
  | .hubCopy _ => (16, 16)
  | .bar4 => (17, 8)
  | .firmware => (18, 8)

/-- Whether a channel serves its writes now: from more than 120 of them until they have fallen to 80 (R160). -/
def servesWrites (k : DdrChan) : Bool :=
  let n := (k.reqs.filter DdrReq.write).length
  if k.serving then decide (80 < n) else decide (120 < n)

/-- The request that a channel serves next: reads ahead of writes, or writes while it serves those; the oldest of its kind (R160). -/
def nextReq (k : DdrChan) : Option DdrReq :=
  let w := servesWrites k
  (k.reqs.find? fun q => q.write == w).orElse fun _ => k.reqs.head?

/-- A channel issues one request to its device: the credit returns, a read comes out as its burst code says. -/
def serveOne (n : Nat) (s : State) : State :=
  let k := chan s n
  match nextReq k with
  | none => s
  | some q =>
    let s := updChan n (fun k => { k with reqs := k.reqs.erase q, serving := servesWrites k }) s
    if q.write then s else readUnit q.unit q.res s

/-- A channel issues every request that it holds. -/
def serveAll (n : Nat) (s : State) : State := (List.range (chan s n).reqs.length).foldl (fun s _ => serveOne n s) s

/-- A request accepted into its channel's queue with a credit of its holder; the channel then serves its queue unless the device takes
nothing now. Without a credit it waits at its sender. -/
def acceptReq (req : Requester) (q : DdrReq) (held : Bool) (s : State) (act : State → State) : State :=
  let n := chanOf s q.unit
  if (holder req).2 ≤ ((chan s n).reqs.filter fun r => r.holder = q.holder).length then s
  else
    let s := act (updChan n (fun k => { k with reqs := k.reqs ++ [q] }) s)
    if held then s else serveAll n s

/-- A request of a range checked: refused with ADDRESS or WINDOW, told to its sender; else carried out, once regions in it that wait are zeroed.
`delayed`: migration or scrub has delayed it (R168). -/
def request (req : Requester) (off len : Nat) (write delayed : Bool) (s : State) (act : State → State) : State :=
  if reach s req off len write = false then send .ddr 2 [off, b2n write] s
  else match reqGuard s req off len with
    | some (g, c) => send .ddr 3 [off, b2n write] (guardLog g c off (b2n write) s)
    | none =>
      let s := if (reqCtx req).isSome then clearFirst off len s else s
      act (if delayed then countDdr (chanOf s (off / 256)) 9 s else s)

/-- A unit read. One held in the gather buffer is served from there. -/
def execDdrReadRequest (req : Requester) (u : Nat) (res : BurstResult) (held delayed : Bool) (s : State) : Out :=
  .next (request req (256 * u) 256 false delayed s fun s =>
    if gathered s u then s
    else acceptReq req { holder := (holder req).1, write := false, unit := u, res := res, since := s.now } held s id)

/-- A unit write request: its bytes are written at once (log 110). -/
def execDdrWriteRequest (req : Requester) (u off : Nat) (data : List Byte) (held delayed : Bool) (s : State) : Out :=
  if 256 < off + data.length then .next s
  else .next (request req (256 * u + off) data.length true delayed s fun s =>
    acceptReq req { holder := (holder req).1, write := true, unit := u, res := .clean, since := s.now } held s
      (store (256 * u + off) data))

/-- 2 µs after its first buffered write, a stripe leaves the gather buffer. -/
def execStripeGatherTimeout (stripe : Nat) (s : State) : Out :=
  match s.ddr.gather.find? fun g => g.stripe = stripe with
  | some g => if g.since + 2000 ≤ s.now then .next (flushStripe g s) else .next s
  | none => .next s

/-- The ECS counts latched at the end of a patrol pass: what each device reports is a free value. -/
def latchEcs (s : State) : State :=
  (inServ s).foldl (fun s n =>
    let x := drawFree 5 s
    updChan n (fun k => { k with ecs := BitVec.ofNat 32 (min x.1 0xFFFFFFFF) }) x.2) s

/-- The patrol scrub reads and checks one unit (R155). It goes through the data units, each stripe's parity after its last one. -/
def execPatrolScrubStep (res : BurstResult) (s : State) : Out :=
  let u := s.ddr.patrol
  let ds := devices s (256 * u)
  let w := ds.length - 1
  let end_ := u % w + 1 = w ∨ capacity s ≤ 256 * (u + 1)
  if s.ddr.patrolPar then
    let s := readParity (stripeOf ds u) ds res s
    let last := decide (capacity s ≤ 256 * (u + 1))
    let s := { s with ddr := { s.ddr with patrol := if last then 0 else u + 1, patrolPar := false } }
    .next (if last then latchEcs s else s)
  else
    let s := readUnit u res s
    .next { s with ddr := { s.ddr with patrol := if end_ then u else u + 1, patrolPar := end_ } }

/-! ### Retirement and migration (R156 to R158) -/

/-- C in units of 10⁶ bytes with `n` devices, and U in 2 MiB units. -/
def capOf (n : Nat) : Nat := if 12 ≤ n then 960000 else if n = 11 then 880000 else 792000
def limitOf (cap : Nat) : Nat := (cap * 1000000 / 0x40000000 - 1) * 512

/-- DDR with its system area moved from `u` to `v` and the user range between discarded. -/
def moveSystem (m : Memory) (u v : Nat) : Memory :=
  if u ≤ v ∨ 0x1000000000000000 < u then m
  else m.filter (fun c => c.1 < v) ++ (m.filter fun c => decide (u ≤ c.1) && decide (c.1 < 0x1000000000000000)).map (fun c => (c.1 - u + v, c.2))
    ++ m.filter fun c => 0x1000000000000000 ≤ c.1

/-- Checkpoints with an armed granule above a new user limit fail with cause CAPACITY (R316). -/
def ckptCapacity (v : Nat) (s : State) : State :=
  (List.range 4).foldl (fun s c => match ckptRun s c with
    | some k => if k.image.sections.any fun x => x.kind ≠ 2 && decide (v < x.addr + x.len) then ckptFail c 6 s else s
    | none => s) s

/-- A retirement begun: C and U lowered, migration started or queued, 0x0B05. -/
def beginRetire (n : Nat) (s : State) : State :=
  let cap := capOf (12 - s.ddr.retired - s.ddr.migChan.length - 1)
  let u := userLimit s
  let v := limitOf cap * 2097152
  let s := updChan n (fun k => { k with state := 4 }) s
  let pois := (s.ddr.poison.filter fun p => 256 * p < v)
    ++ (s.ddr.poison.filter fun p => u ≤ 256 * p).map fun p => p - u / 256 + v / 256
  let d := s.ddr
  let first := d.migChan.isEmpty
  let s := { s with
    mem := moveSystem s.mem u v
    ddr := { d with capMb := cap, limit := limitOf cap, migrating := true, migChan := d.migChan ++ [n], poison := pois,
                    migAt := if first then s.now else d.migAt,
                    watermark := if first then cap * 1000000 else d.watermark } }
  let s := logRec 0x0B05 (ddrSrc n) n (limitOf cap) (max 5 (min 50 (fld s.ddr.share 0 8))) 0 s
  recheckState (ckptCapacity v s)

/-- DDR_RETIRE (R157, R189). -/
def execDdrRetire (r : RingIx) (s : State) : Out :=
  .next (onAdmin r 0x1A s fun e =>
    let n := ent e 8 1
    if 11 < n then complete r e 0x10 [] s
    else if (chan s n).state ≠ 2 ∧ (chan s n).state ≠ 3 then complete r e 0x1A [] s
    else if 2 ≤ s.ddr.retired + s.ddr.migChan.length then
      complete r e 0x19 [] (logRec 0x0B09 (ddrSrc n) n 0 0 0 s)
    else
      let s := beginRetire n s
      complete r e 0 (toBytes s.ddr.limit 4) s)

/-- The end of a migration: the device is RETIRED, 0x0B06, and the next one queued begins. -/
def migrationDone (n : Nat) (s : State) : State :=
  let s := updChan n (fun k => { k with state := 5 }) s
  let d := s.ddr
  let rest := d.migChan.tail
  let ms := (s.now - d.migAt) / 1000000
  let s := { s with ddr := { d with
    inService := d.inService &&& ~~~(BitVec.ofNat 12 (2 ^ n)), retired := d.retired + 1, migChan := rest,
    migrating := !rest.isEmpty, migAt := s.now,
    watermark := if rest.isEmpty then 0 else d.capMb * 1000000 } }
  logRec 0x0B06 (ddrSrc n) n s.ddr.retired ms 0 s

/-- A unit read out of the old layout: from its device, rebuilt where that one has failed, or written poisoned into the new layout. -/
def chunkRead (ds : List Nat) (s : State) (u : Nat) : State :=
  let d := unitDev ds u
  if (chan s d).dead = false ∨ s.ddr.poison.contains u then countDdr d 2 s
  else if stripeWhole s ds (stripeOf ds u) (some u) then rebuild ds d u s
  else poisonUnit u 2 s


/-- One chunk of 256 KiB re-striped, from the top downwards. -/
def execMigrationChunk (s : State) : Out :=
  match s.ddr.migrating, s.ddr.migChan with
  | true, n :: _ =>
    let hi := s.ddr.watermark
    let lo := hi - 262144
    let old := inServ s
    let s := ((List.range ((hi + 255) / 256 - lo / 256)).map fun i => lo / 256 + i).foldl (chunkRead old) (flushIn lo hi s)
    let s := stripeRange (old.filter fun d => d ≠ n) (lo / 256) ((hi + 255) / 256) s
    let s := { s with ddr := { s.ddr with watermark := lo, badParity := s.ddr.badParity.filter fun u => 256 * u < lo } }
    .next (if lo = 0 then migrationDone n s else s)
  | _, _ => .next s

/-! ### Guard regions (R159) -/

/-- The hub zeroes a guard region that waits for it. -/
def execGuardRegionZero (reg : Fin 16) (s : State) : Out :=
  match s.ddr.zeroing.find? fun x => x.1 = reg.val with
  | some x => .next (zeroWaiting x s)
  | none => .next s

end Sys2Proof.Machine
end

