-- ==== Sys2Proof/Machine/Copy.lean ====
section
/-! DEFINITION. The hub and cluster copy engines and their descriptors (R162 to R165, R170, R188). -/

namespace Sys2Proof.Machine

/-! ### Engines and descriptors -/

/-- The descriptors of an engine: 0–3 the hub's, 4–19 the clusters'. -/
def engine (s : State) (e : Nat) : List CopyDesc := Tbl.get [] s.ddr.engines e
def setEngine (e : Nat) (l : List CopyDesc) (s : State) : State :=
  { s with ddr := { s.ddr with engines := Tbl.set s.ddr.engines e l } }

/-- Whether a descriptor's fields are in range (R188). -/
def descOk (e : Entry) : Bool :=
  let used := bytesMask 0 0 + ones 10 8 + bytesMask 2 3 + (payloadMask 2 (entOpcode e)).getD 0
    + (if entToken e then bytesMask 56 56 + ones 459 456 + bytesMask 60 63 else 0)
  (payloadMask 2 (entOpcode e)).isSome && decide (getN e.bytes 0 64 &&& (2 ^ 512 - 1 - used) = 0) && decide (1 ≤ ent e 24 4)
    && (entOpcode e != 0x12 || (decide (ent e 24 4 ≤ 2097152) && decide (1 ≤ ent e 28 4) && decide (ent e 36 4 + ent e 24 4 ≤ 2097152)))

/-- A cluster list's descriptor whose token names no virtual core of its context is out of range as well; a ring's entry has passed that
check at its fetch (R183, R188). -/
def descGood (s : State) (d : CopyDesc) : Bool :=
  descOk d.entry && (d.ring.isSome || !entToken d.entry || match d.ctx with
    | some c => decide (ent d.entry 56 1 < (ctx s c.val).map.length)
    | none => false)

/-- A COPY-ring entry put on its ring's hub engine. -/
def takeCopy (r opc : Nat) (s : State) : State :=
  onEntry r 2 opc s fun e =>
    let en := ringEngine (ring s r)
    let c := (entCtx s r e).map (Fin.ofNat 4)
    startEntry r e (setEngine en (engine s en ++ [{ ring := some r, ctx := c, index := 0, entry := { e with started := true } }]) s)

/-- COPY (R162, R188). -/
def execCopy (r : RingIx) (s : State) : Out := .next (takeCopy r 0x10 s)
/-- FILL (R162, R188). -/
def execFill (r : RingIx) (s : State) : Out := .next (takeCopy r 0x11 s)
/-- PAGED (R162, R165, R188). -/
def execPaged (r : RingIx) (s : State) : Out := .next (takeCopy r 0x12 s)

/-- The requester of a descriptor (R159, R164, R188, R195). -/
def descWho (s : State) (d : CopyDesc) : Who :=
  match d.ring with
  | some r => whoEntry s r d.entry (d.ctx.map Fin.val)
  | none => whoStream s ((d.ctx.map Fin.val).getD 0) d.entry.edition

/-! ### Rows -/

/-- A row: its source (none for a fill), its destination, its length. -/
structure Row where
  src : Option Nat
  dst : Nat
  len : Nat

/-- How many rows a descriptor has. -/
def rowCount (e : Entry) : Nat := if entOpcode e = 0x12 then ent e 28 4 else ent e 28 4 + 1

/-- A refusal of an address check as a copy engine ends with it, and what there is to report (R35, R159, R170). -/
def accFail (a : Nat) (write : Bool) (x : AccErr) : RowFail :=
  { code := accStatus x, addr := a, write := write
    guard := match x with
      | .guard g off => some (g, off)
      | _ => none
    window := match x with
      | .cwindow k off => some (k, off)
      | _ => none }

/-- A failure's reports: a guard region's record, a window fault of the cistern, an uncorrectable line (R21, R22, R35, R159). -/
def rowReport (c : Nat) (f : RowFail) (s : State) : State :=
  let s := match f.guard with
    | some p => guardLog p.1 c p.2 (b2n f.write) s
    | none => s
  let s := match f.window with
    | some p => logClu p.1 0x06 p.1 p.2 c 0 (cluFault p.1 2 s)
    | none => s
  match f.line with
  | some a => eccDouble a s
  | none => s

/-- Whether a page table may lie at an address (R165): DDR or a cistern; else PAGE, unless the address itself breaks R148. -/
def tableSpace (s : State) (w : Who) (a : Nat) : Option Nat :=
  match bits a 60 4 with
  | 0 => none
  | 1 => none
  | 2 => match checkAt s w a 8 false with
    | .error .address => some 2
    | _ => some 5
  | 4 => some 5
  | 8 => some (if bits a 53 2 = 3 then 1 else if innerOk a 8 then 5 else 2)
  | _ => some 1

/-- The page-table entry of page `k`: its page, or the failure (R165). -/
def pageAt (s : State) (w : Who) (e : Entry) (k : Nat) : Except RowFail Nat :=
  let a := ent e 8 8 + 8 * (ent e 32 4 + k)
  if 0x10000000000000000 ≤ a then .error { code := 2, addr := a }
  else match tableSpace s w a with
    | some code => .error { code := code, addr := a }
    | none => match checkAt s w a 8 false with
      | .error x => .error (accFail a false x)
      | .ok (.peer _ _) => .error { code := 5, addr := a }
      | .ok (.here m) =>
        if (badByte s m 8).isSome then .error { code := 4, addr := a, line := some m }
        else
          let v := readNum s m 8
          let sp := bits v 60 4
          if bits v 0 1 = 0 ∨ bits v 1 20 ≠ 0 then .error { code := 5, addr := a }
          else if sp = 0 ∨ (sp = 8 ∧ bits v 53 2 = 0) then .ok (v - v % 2097152) else .error { code := 5, addr := a }

/-- Row `k` of a descriptor, or the failure met on the way to it. -/
def rowAt (s : State) (w : Who) (e : Entry) (k : Nat) : Except RowFail Row :=
  let len := ent e 24 4
  match entOpcode e with
  | 0x10 => .ok ⟨some (ent e 8 8 + k * ent e 32 4), ent e 16 8 + k * ent e 36 4, len⟩
  | 0x11 => .ok ⟨none, ent e 16 8 + k * ent e 36 4, len⟩
  | _ =>
    match pageAt s w e k with
    | .error x => .error x
    | .ok pg =>
      let page := pg + ent e 36 4
      let buf := ent e 16 8 + k * len
      if bits (ent e 40 1) 0 1 = 0 then .ok ⟨some buf, page, len⟩ else .ok ⟨some page, buf, len⟩

/-- The units of a row: (offset, length), 256 bytes aligned on the destination (R170). -/
def unitsFrom (dst len : Nat) : Nat → Nat → List (Nat × Nat)
  | 0, _ => []
  | n + 1, o => if len ≤ o then [] else
    let u := min (256 - (dst + o) % 256) (len - o)
    (o, u) :: unitsFrom dst len n (o + u)
def rowUnits (x : Row) : List (Nat × Nat) := unitsFrom x.dst x.len (x.len / 256 + 2) 0

/-- The bytes of a fill from an offset of its row. -/
def fillBytes (e : Entry) (o n : Nat) : List Byte := (List.range n).map fun i => BitVec.ofNat 8 (ent e (40 + (o + i) % 8) 1)

/-- One side of a unit checked: where it lies, or the failure. -/
def side (s : State) (w : Who) (da n : Nat) (write : Bool) : Except RowFail Place :=
  if 0x10000000000000000 < da + n then .error { code := 2, addr := da, write := write }
  else match checkAt s w da n write with
    | .error x => .error (accFail da write x)
    | .ok p => .ok p

/-- Both sides of a unit checked, the source first; none: a fill has no source. -/
def sides (s : State) (w : Who) (x : Row) (u : Nat × Nat) : Except RowFail (Option Place × Place) :=
  match x.src with
  | none => match side s w (x.dst + u.1) u.2 true with
    | .error y => .error y
    | .ok b => .ok (none, b)
  | some a => match side s w (a + u.1) u.2 false with
    | .error y => .error y
    | .ok p => match side s w (x.dst + u.1) u.2 true with
      | .error y => .error y
      | .ok b => .ok (some p, b)

/-- A place in this module's memory is made ready for a context's access: regions in it that wait are zeroed (R159), and what is read of DDR
comes out as its codes say (R153). -/
def placeReady (w : Who) (p : Place) (len : Nat) (read : Bool) (s : State) : State :=
  match p with
  | .here a =>
    let s := if w.ctx.isSome then clearFirst a len s else s
    if read then readRange a len s else s
  | .peer _ _ => s

/-! ### Moving what lies in this module -/

/-- A descriptor's progress: it, the state, and the failure met. -/
structure Prog where
  d : CopyDesc
  s : State
  bad : Option RowFail := none

/-- Progress by one unit, in state `s`. -/
def unitDone (n : Nat) (p : Prog) (s : State) : Prog := { p with d := { p.d with bytes := p.d.bytes + n, units := p.d.units + 1 }, s := s }

/-- Whether read data of host memory that arrived poisoned lies in a range (R175). -/
def hostPoison (d : CopyDesc) (a n : Nat) : Bool := d.hostBad.any fun b => decide (a ≤ hostKey b ∧ hostKey b < a + n)

/-- One unit moved, unless an earlier one failed. -/
def moveUnit (w : Who) (x : Row) (u : Nat × Nat) (p : Prog) : Prog :=
  match p.bad with
  | some _ => p
  | none => match sides p.s w x u with
    | .error y => { p with bad := some y }
    | .ok (none, .here b) => unitDone u.2 p (store b (fillBytes p.d.entry u.1 u.2) (placeReady w (.here b) u.2 false p.s))
    | .ok (some (.here a), .here b) =>
      let s := placeReady w (.here a) u.2 true (placeReady w (.here b) u.2 false p.s)
      match badByte s a u.2 with
      | some z => { p with s := s, bad := some { code := 4, addr := x.src.getD 0 + u.1, line := some z } }
      | none =>
        if hostPoison p.d a u.2 then { p with s := s, bad := some { code := 4, addr := x.src.getD 0 + u.1 } }
        else unitDone u.2 p (store b (s.mem.readN a u.2) s)
    | .ok _ => p

/-! ### Rows that lie in a peer (R241) -/

/-- Whether a row touches a peer: its first unit tells. -/
def touchesPeer (s : State) (w : Who) (x : Row) : Bool :=
  match sides s w x ((rowUnits x).headD (0, 0)) with
  | .ok (some (.peer _ _), _) => true
  | .ok (_, .peer _ _) => true
  | _ => false

/-- The bytes of a row before its first unit that an address check refuses, and that refusal. -/
def rowGood (s : State) (w : Who) (x : Row) : List (Nat × Nat) → Nat → Nat × Option RowFail
  | [], n => (n, none)
  | u :: t, n => match sides s w x u with
    | .error y => (n, some y)
    | .ok _ => rowGood s w x t (n + u.2)

/-- The pieces of the first `n` bytes of a row that touches a peer. -/
def peerRow (s : State) (w : Who) (e : Entry) (x : Row) (n : Nat) : List Piece :=
  if n = 0 then []
  else
    let srcP := x.src.bind fun a => placeOf s w a n false
    match srcP, placeOf s w x.dst n true with
    | some (.peer m _), some (.here b) => rowPieces m true (bits (x.src.getD 0) 0 55) b n
    | some (.peer m _), some (.peer m' _) =>
      (rowPieces m true (bits (x.src.getD 0) 0 55) 0 n).zipIdx.map fun p =>
        { p.1 with fwd := some (m', bits x.dst 0 55 + 61440 * p.2) }
    | some (.here a), some (.peer m _) => rowPieces m false (bits x.dst 0 55) a n
    | none, some (.peer m _) =>
      (rowPieces m false (bits x.dst 0 55) 0 n).zipIdx.map fun p =>
        { p.1 with data := some (fillBytes e (61440 * p.2) p.1.len) }
    | _, _ => []

/-- The pieces of the rows from row `k` on that touch a peer, up to the first row that does not or the first failure: the pieces, the row
behind them, and the failure. -/
def peerRun (s : State) (w : Who) (e : Entry) : Nat → Nat → List Piece → List Piece × Nat × Option RowFail
  | 0, k, ps => (ps, k, none)
  | n + 1, k, ps =>
    match rowAt s w e k with
    | .error _ => (ps, k, none)
    | .ok x =>
      if touchesPeer s w x = false then (ps, k, none)
      else
        let g := rowGood s w x (rowUnits x) 0
        match g.2 with
        | some y => (ps ++ peerRow s w e x g.1, k, some y)
        | none => peerRun s w e n (k + 1) (ps ++ peerRow s w e x g.1)

/-- The first row's destination, when it lies in a peer: there the descriptor's token goes (R243). -/
def tokenPeer (s : State) (w : Who) (e : Entry) : Option (Nat × Nat) :=
  match rowAt s w e 0 with
  | .ok x => match placeOf s w x.dst 1 true with
    | some (.peer m _) => some (m, bits x.dst 0 55)
    | _ => none
  | .error _ => none

/-- The units that the first `n` bytes of a descriptor's rows from row `k` on make up. -/
def unitsIn (s : State) (w : Who) (e : Entry) : Nat → Nat → Nat → Nat
  | 0, _, _ => 0
  | fuel + 1, k, n =>
    if n = 0 then 0
    else match rowAt s w e k with
      | .error _ => 0
      | .ok x => (rowUnits { x with len := min n x.len }).length + unitsIn s w e fuel (k + 1) (n - x.len)

/-! ### A descriptor driven on (R163, R170) -/

/-- How a drive ends: the descriptor waits for its fabric transfer, or ends with a code at an address. -/
inductive Drive
  | waits (d : CopyDesc) (s : State)
  | ends (d : CopyDesc) (code addr : Nat) (s : State)

/-- A serial fabric transfer of a descriptor begun. -/
def descXfer (d : CopyDesc) (ps : List Piece) (tok : Option (Nat × Nat × Nat × Nat × Word)) (s : State) : CopyDesc × State :=
  let n := newXfer { ctx := d.ctx, gen := d.entry.gen, tc := 0, serial := true, todo := ps, token := tok } s
  ({ d with xfer := n.1 }, n.2)

/-- A descriptor ended by a failure, with what there is to report. -/
def driveFail (w : Who) (d : CopyDesc) (f : RowFail) (s : State) : Drive := .ends d f.code f.addr (rowReport (w.ctx.getD 0) f s)

/-- All rows done: a token for a peer is sent on its own (R243), else the descriptor ends well. -/
def driveEnd (w : Who) (d : CopyDesc) (s : State) : Drive :=
  match (if entToken d.entry ∧ d.told = false then tokenPeer s w d.entry else none) with
  | some p =>
    let tok := (p.1, p.2, ent d.entry 56 1, ent d.entry 57 1 % 16, BitVec.ofNat 32 (ent d.entry 60 4))
    let x := descXfer { d with told := true, behind := d.row } [] (some tok) s
    .waits x.1 x.2
  | none => .ends d 0 0 s

/-- The page table's entry made ready for its read. -/
def tableReady (w : Who) (e : Entry) (k : Nat) (s : State) : State :=
  if entOpcode e = 0x12 then
    match side s w (ent e 8 8 + 8 * (ent e 32 4 + k)) 8 false with
    | .ok p => placeReady w p 8 true s
    | .error _ => s
  else s

/-- The rows from `d.row` on: those of this module are moved, then a run of rows that touch a peer is sent off. -/
def drive (w : Who) : Nat → CopyDesc → State → Drive
  | 0, d, s => driveEnd w d s
  | n + 1, d, s =>
    if rowCount d.entry ≤ d.row then driveEnd w d s
    else
      let s := tableReady w d.entry d.row s
      match rowAt s w d.entry d.row with
      | .error f => driveFail w d f s
      | .ok x =>
        if touchesPeer s w x then
          let g := peerRun s w d.entry (rowCount d.entry - d.row) d.row []
          match g.1, g.2.2 with
          | [], some f => driveFail w d f s
          | ps, bad =>
            let y := descXfer { d with behind := g.2.1, bad := bad } ps none s
            .waits y.1 y.2
        else
          let p := (rowUnits x).foldl (fun p u => moveUnit w x u p) { d := d, s := s }
          match p.bad with
          | some f => driveFail w p.d f p.s
          | none => drive w n { p.d with row := d.row + 1 } p.s

/-- A descriptor driven on from where its fabric transfer, if it had one, has left it. -/
def driveDesc (w : Who) (d : CopyDesc) (s : State) : Drive :=
  let x := xferOf s d.xfer
  let d := { d with bytes := d.bytes + x.wrote, units := d.units + unitsIn s w d.entry (rowCount d.entry - d.row) d.row x.wrote
                    row := if d.xfer = 0 then d.row else d.behind }
  let s := dropXfer d.xfer s
  match x.err, d.bad with
  | some (code, a), _ => .ends d code a s
  | none, some f => driveFail w d f s
  | none, none => drive w (rowCount d.entry) { d with xfer := 0 } s

/-- Whether a descriptor reaches host memory. -/
def touchesHost (e : Entry) : Bool := bits (ent e 16 8) 60 4 == 4 || (entOpcode e == 0x10 && bits (ent e 8 8) 60 4 == 4)

/-- A descriptor begun: where its first rows touch a peer, their transfer is. -/
def beginDesc (d : CopyDesc) (s : State) : CopyDesc × State :=
  let d := { d with running := true }
  let w := descWho s d
  if descGood s d = false ∨ (touchesHost d.entry ∧ canDma s = false) then (d, s)
  else match rowAt s w d.entry 0 with
    | .error _ => (d, s)
    | .ok x =>
      if touchesPeer s w x then
        let g := peerRun s w d.entry (rowCount d.entry) 0 []
        if g.1.isEmpty then (d, s) else descXfer { d with behind := g.2.1, bad := g.2.2 } g.1 none s
      else (d, s)

/-! ### Starting (R163, R164) -/

/-- The byte address of a list's header in its cistern's memory. -/
def listKey (c : Nat) (l : CeList) : Nat := cisternKey c (fld l.reg 0 21 * 64)
def listSize (l : CeList) : Nat := 2 ^ fld l.reg 21 4
/-- A list's tail, or the cistern line of its header that cannot be read. -/
def listTail (s : State) (c : Nat) (l : CeList) : Except Nat Nat :=
  match badByte s (listKey c l) 4 with
  | some a => .error a
  | none => .ok (readNum s (listKey c l) 4)

def ceList (s : State) (c x : Nat) : CeList := Tbl.get {} (clu s c).lists x
def setCeList (c x : Nat) (l : CeList) (s : State) : State := updClu c (fun k => { k with lists := Tbl.set k.lists x l }) s

/-- Descriptors of a list on its engine. -/
def ofList (x : Nat) (l : List CopyDesc) : List CopyDesc := l.filter fun d => d.ctx.map Fin.val = some x

/-- A cluster list stopped: the cause recorded, 0x8050, COPY_LIST_STOPPED. -/
def stopList (c x index cause addr : Nat) (s : State) : State :=
  let s := setCeList c x { ceList s c x with state := 2, err := cause, head := index } s
  let s := setEngine (4 + c) ((engine s (4 + c)).filter fun d => d.ctx.map Fin.val ≠ some x) s
  postEvent 0x0214 (cluSrc c) (some x) c index cause 0 (logClu c 0x50 x index cause addr s)

/-- A list whose header or descriptor lies in a line that cannot be read stops with ECC (R22, R170). -/
def listBad (c x index a : Nat) (s : State) : State := stopList c x index 4 a (eccDouble a s)

/-- The next descriptor of a list not yet on the engine, or the line that keeps it from being read; none as well while a FULL freeze of its
context runs (R308). -/
def nextOfList (s : State) (c x : Nat) : Option (Except Nat CopyDesc) :=
  let l := ceList s c x
  let i := (l.head + (ofList x (engine s (4 + c))).length) % listSize l
  if l.state = 1 ∧ (ckptRun s x).any CkptRun.freezing = false then
    match listTail s c l with
    | .error a => some (.error a)
    | .ok t =>
      if i = t then none
      else match badByte s (listKey c l + 64 + 64 * i) 64 with
        | some a => some (.error a)
        | none =>
          let bs := s.mem.readN (listKey c l + 64 + 64 * i) 64
          let e : Entry := { bytes := bs, edition := s.hst.edition, gen := (ctx s x).gen, started := true }
          some (.ok { ring := none, ctx := some (Fin.ofNat 4 x), index := i, entry := e })
  else none

/-- Whether an engine can start a descriptor behind those it holds: at most four, and a barrier alone. -/
def canStart (run : List CopyDesc) (d : CopyDesc) : Bool :=
  decide (run.length < 4) && (!entBarrier d.entry || run.isEmpty)

/-- An engine starts its next descriptor. -/
def execCopyDescriptorStart (eng : Fin 20) (s : State) : Out :=
  let l := engine s eng.val
  if eng.val < 4 then
    let run := l.takeWhile CopyDesc.running
    match l.dropWhile CopyDesc.running with
    | d :: rest =>
      if canStart run d then
        let x := beginDesc d s
        .next (setEngine eng.val (run ++ x.1 :: rest) x.2)
      else .next s
    | [] => .next s
  else
    match (List.range 4).findSome? fun x => (nextOfList s (eng.val - 4) x).map fun y => (x, y) with
    | some (_, .ok d) =>
      if canStart l d then
        let x := beginDesc d s
        .next (setEngine eng.val (l ++ [x.1]) x.2)
      else .next s
    | some (x, .error a) =>
      if (ofList x l).isEmpty then .next (listBad (eng.val - 4) x (ceList s (eng.val - 4) x).head a s) else .next s
    | none => .next s

/-! ### Completing (R163, R164, R170, R184) -/

/-- A list after its head moved to h, by its tail: idle where the two are equal. -/
def headAt (c x h : Nat) (tail : Except Nat Nat) (s : State) : State :=
  match tail with
  | .error a => listBad c x h a s
  | .ok t => if h = t then setCeList c x { ceList s c x with state := 0 } s else s

/-- A list's head moved to h, and written to its header. -/
def moveHead (c x h : Nat) (l : CeList) (s : State) : State :=
  setCeList c x { l with head := h } (store (listKey c l + 8) (toBytes h 4) s)

/-- A list's head moved past a completed descriptor. -/
def advanceList (c x index : Nat) (s : State) : State :=
  let l := ceList s c x
  let h := (index + 1) % listSize l
  let t := moveHead c x h l s
  headAt c x h (listTail t c l) t

/-- The token of a completed cluster descriptor (R27). -/
def listToken (x : Nat) (e : Entry) (s : State) : State :=
  if entToken e then
    match (ctx s x).map[ent e 56 1]? with
    | some (some g) => remoteToken 2 x e.gen g.val (ent e 57 1 % 16) (BitVec.ofNat 32 (ent e 60 4)) s
    | _ => s
  else s

/-- A hub descriptor's end. -/
def endHub (eng r : Nat) (d : CopyDesc) (status bytes : Nat) (s : State) : State :=
  if status = 0 then
    if d.told then complete r d.entry 0 (toBytes bytes 8) s else succeed 2 r d.entry (toBytes bytes 8) s
  else
    let s := if status ≤ 6 then { s with ddr := { s.ddr with lastErr := Tbl.set s.ddr.lastErr eng status } } else s
    complete r d.entry status (toBytes bytes 8) s

/-- A cluster descriptor's end. -/
def endCluster (c : Nat) (d : CopyDesc) (status addr units : Nat) (s : State) : State :=
  let x := (d.ctx.map Fin.val).getD 0
  let s := countAt (cluBase c + 0x4000) 8 6 0 units false s
  if status = 0 then
    let s := countAt (cluBase c + 0x4000) 8 7 0 1 false s
    advanceList c x d.index (if d.told then s else listToken x d.entry s)
  else stopList c x d.index (if status = 0x10 then 2 else status) addr s

/-- The memory of a descriptor's first source byte. -/
def descSource (s : State) (d : CopyDesc) : Nat :=
  match rowAt s (descWho s d) d.entry d.row with
  | .ok x => match x.src.bind fun a => placeOf s (descWho s d) a 1 false with
    | some (.here a) => a
    | _ => hostKey 0
  | .error _ => hostKey 0

/-- The end of a descriptor reported. -/
def endDesc (eng : Nat) (d : CopyDesc) (status addr : Nat) (s : State) : State :=
  match d.ring with
  | some r => endHub eng r d status d.bytes (countAt 0x061000 32 0x0A eng d.units true s)
  | none => endCluster (eng - 4) d status addr d.units s

/-- The oldest descriptor of an engine goes on: to its next fabric transfer, or to its end, which is reported. A finding of the SEC-DED code in
its source comes first. -/
def finishDesc (eng : Nat) (d : CopyDesc) (ecc : Ecc) (s : State) : State :=
  let rest := (engine s eng).tail
  if descGood s d = false then
    let code := if d.ring.isSome ∧ payloadMask 2 (entOpcode d.entry) = none then 0x1B else 0x10
    endDesc eng d code 0 (setEngine eng rest s)
  else
    let s := (applyEcc (descSource s d) ecc s).2
    match driveDesc (descWho s d) d s with
    | .waits d s => setEngine eng (d :: rest) s
    | .ends d code a s => endDesc eng d code a (setEngine eng rest s)

/-- The oldest descriptor of an engine goes on, once its fabric transfer has ended; host accesses wait while DMA is off. -/
def execCopyDescriptorComplete (eng : Fin 20) (ecc : Ecc) (s : State) : Out :=
  match engine s eng.val with
  | d :: _ =>
    if d.running && xferDone (xferOf s d.xfer) && (canDma s || !touchesHost d.entry) then .next (finishDesc eng.val d ecc s)
    else .next s
  | [] => .next s

/-! ### Waking and restarting a list (R164) -/

/-- A list runs from its head up to its tail, or stops on a tail beyond its size. -/
def runTo (c x : Nat) (l : CeList) (tail : Except Nat Nat) (s : State) : State :=
  match tail with
  | .error a => listBad c x l.head a s
  | .ok t =>
    if listSize l ≤ t then stopList c x l.head 2 (fld l.reg 0 21 * 64) s
    else setCeList c x { l with state := if t = l.head then 0 else 1, err := 0 } s

/-- A list runs. -/
def runList (c x : Nat) (s : State) : State :=
  let l := ceList s c x
  runTo c x l (listTail s c l) s

/-- A write has covered bytes 0–3 of a list's header. -/
def execCopyListWake (c : Clu) (x : Ctx) (s : State) : Out :=
  let l := ceList s c x
  if bit l.reg 31 ∧ l.state ≠ 2 then .next (runList c x s) else .next s

/-- A write to CLU_CE_CTL. -/
def execCopyListRestart (c : Clu) (v : Word) (s : State) : Out :=
  .next (cluWrite c 0x1040 v s ((List.range 4).foldl (fun s x =>
    if bit v x ∧ bit (ceList s c x).reg 31 ∧ (ceList s c x).state = 2 then runList c x s else s) s))

end Sys2Proof.Machine
end

