-- ==== Sys2Proof/Machine/Checkpoint.lean ====
section
/-! DEFINITION. Checkpoints and restores: the CKPT rings, the background copy, commit, drain, restore, the MINI set (R305 to R333). -/

namespace Sys2Proof.Machine

/-- A command of a CKPT ring; without a READY well it completes WELL_ABSENT (R311). -/
def onCkptRing (r opc : Nat) (s : State) (act : Entry → State) : State :=
  onEntry r 4 opc s fun e => if s.ckpt.well ≠ .ready then complete r e 0x204 [] s else act e

/-- A command that names a context in byte 8. -/
def onCkptCtx (r opc : Nat) (s : State) (act : Entry → Nat → State) : State :=
  onCkptRing r opc s fun e => if 3 < ent e 8 1 then complete r e 0x10 [] s else act e (ent e 8 1)

/-- A command that names a context and a slot. -/
def onCkptSlot (r opc : Nat) (s : State) (act : Entry → Nat → Bool → State) : State :=
  onCkptCtx r opc s fun e c => if 1 < ent e 9 1 then complete r e 0x10 [] s else act e c (ent e 9 1 == 1)

/-! ### Templates, BEGIN, ABORT (R307, R308, R310, R331) -/

/-- The template an entry gives. -/
def templateOf (e : Entry) : Template :=
  let f := ent e 9 1
  { auto := bits f 0 1 == 1, full := bits f 1 1 == 1, gate := bits f 2 1 == 1, gateq := ent e 10 1 % 16, job := ent e 12 4, manifest := ent e 16 8,
    mlen := ent e 24 4, stagingUnits := ent e 28 4, staging := ent e 32 8, lbaA := ent e 40 8, lbaB := ent e 48 8 }

/-- REGISTER. -/
def execCkptRegister (r : RingIx) (s : State) : Out :=
  .next (onCkptCtx r 1 s fun e c =>
    if ent e 24 4 % 256 ≠ 0 ∨ 15 < ent e 10 1 then complete r e 0x10 [] s
    else succeed 4 r e [] (onCkpt (fun t => { t with templates := Tbl.set t.templates c (some (templateOf e)) }) s))

/-- BEGIN. -/
def execCkptBegin (r : RingIx) (s : State) : Out :=
  .next (onCkptCtx r 2 s fun e c =>
    let f := ent e 9 1
    let useT := bits f 1 1 == 1
    let step : Word := BitVec.ofNat 32 (ent e 16 4)
    if (ctx s c).created = false then complete r e 0x12 [] s
    else if useT && (template s c).isNone then complete r e 0x205 [] s
    else if (ckptRun s c).isSome || (slotSt s c (chooseSlot s c)).reading then complete r e 0x201 [] s
    else if stepAhead s c step = false then complete r e 0x202 [] s
    else
      let full := if useT then (template s c).elim false Template.full else bits f 0 1 == 1
      acceptCkpt c (BitVec.ofNat 32 (ent e 12 4)) step full (some (r.val, entTag e)) (startEntry r e s))

/-- ABORT. -/
def execAbort (r : RingIx) (s : State) : Out := .next (onCkptCtx r 7 s fun e c => succeed 4 r e [] (ckptFail c 1 s))

/-- PERIOD in minutes. -/
def ckptPeriod (s : State) : Nat := min 10080 (fld s.ckpt.cfg 8 16)

/-- PERIOD minutes after the context's last commit. -/
def execPeriodicCheckpoint (c : Ctx) (s : State) : Out :=
  let at_ := Tbl.get 0 s.ckpt.commitAt c
  if ckptPeriod s ≠ 0 ∧ at_ ≠ 0 ∧ at_ - 1 + ckptPeriod s * 60000000000 ≤ s.now ∧ (ctx s c).created ∧ (template s c).any Template.auto then
    .next (trigger c 3 (nextNumber s c) (nextStep s c) s)
  else .next s

/-! ### Journals (R301, R331) -/

/-- Contexts whose template names a job. -/
def jobCtxs (s : State) (job : Nat) : List Nat := (List.range 4).filter fun c => (template s c).any fun t => t.job == job

/-- A journal entry kept for a context, the last 64, newest first. -/
def keepJournal (bs : List Byte) (s : State) (c : Nat) : State :=
  onCkpt (fun t => { t with journals := Tbl.set t.journals c ((bs :: Tbl.get [] t.journals c).take 64) }) s

/-- The words of a journal entry in a job report: job, step, data position, RNG base, time. -/
def journalWords (bs : List Byte) : List Nat := [getN bs 0 4, getN bs 4 4, getN bs 8 8, getN bs 16 8, getN bs 24 8]

/-- JOURNAL. -/
def execJournal (r : RingIx) (s : State) : Out :=
  .next (onCkptRing r 3 s fun e =>
    let bs := (e.bytes.drop 8).take 32
    let cs := jobCtxs s (getN bs 0 4)
    match cs with
    | [] => complete r e 0x205 [] s
    | _ :: _ =>
      let s := cs.foldl (keepJournal bs) s
      let s := match s.stew.active with
        | some m => ctlSend m 0x210 ([getN bs 0 4, 2] ++ journalWords bs) s
        | none => s
      succeed 4 r e [] s)

/-! ### The freeze of a FULL cut (R308, R309) -/

/-- Whether a context's cluster lists have a descriptor in progress. -/
def listsBusy (s : State) (c : Nat) : Bool :=
  (List.range 16).any fun k => (engine s (4 + k)).any fun d => d.running && decide (d.ctx.map Fin.val = some c)

/-- Whether a stream has stopped with nothing outstanding. -/
def stoppedNow (s : State) (x : Nat × Nat) : Bool :=
  let r := strm s x.1 x.2
  (r.state == .stopped || r.state == .halted || r.state == .faulted) && quiet s x.1 x.2

/-- A stream stopped for a freeze runs again. -/
def thaw (s : State) (x : Nat × Nat) : State := if (strm s x.1 x.2).state = .stopped then startStream x.1 x.2 s else s

/-- The on-chip state written to its staging region; the spec gives its bytes there no layout. -/
def stageChip (k : CkptRun) (s : State) : State :=
  k.stage.elim s fun x => store x.addr (openBytes s.freeCtr x.len) { s with freeCtr := s.freeCtr + 1 }

/-- The on-chip state has been copied: the staging section is armed, the streams and lists resume, the gate token follows. -/
def execFullFreezeComplete (c : Ctx) (us : Nat) (s : State) : Out :=
  match ckptRun s c with
  | none => .next s
  | some k =>
    if k.freezing && k.froze.all (stoppedNow s) && !listsBusy s c then
      let chip := onChip s c k.froze
      let s := stageChip k s
      let k := (ckptRun s c).getD k
      let img := { k.image with chip := some chip, sections := k.image.sections ++ k.stage.toList }
      let s := cutTaken c us { k with image := img } s
      .next (gateTokens c k.step (k.froze.foldl thaw s))
    else .next s

/-! ### The background copy (R313 to R318) -/

/-- Slots reclaimed until `n` extents are free. -/
def makeRoom (n : Nat) : List (Nat × Bool) → State → State
  | [], s => s
  | x :: xs, s => if n ≤ freeExtents s then s else makeRoom n xs (reclaim x.1 x.2 s)

/-- Extents that an image fills. -/
def extentsOf (k : CkptRun) : Nat := (imageBytes k.image.sections k.secBytes + 67108863) / 67108864

/-- A checkpoint's record, its slot grown to what it fills; without an extent to free it fails with cause WELL_FULL. -/
def putRun (c : Nat) (k : CkptRun) (s : State) : State :=
  let have_ := (slotSt s c k.slotB).extents
  let s := onCkpt (fun t => { t with runs := Tbl.set t.runs c (some k) }) s
  let n := extentsOf k - have_
  let s := makeRoom n (reclaimable s c k.slotB) s
  if freeExtents s < n then ckptFail c 2 s else countHub 0x0B 0 false <| setSlot c k.slotB { slotSt s c k.slotB with extents := have_ + n } s


/-- Payload bytes of a granule: none for zeros, the whole granule above 15/16 of it, else what the compressor finds. -/
def stored (zero : Bool) (len free : Nat) : Nat :=
  let n := free % len + 1
  if zero then 0 else if 15 * len < 16 * n then len else n

/-- METHOD of a granule: ZERO, RAW, or the smaller of LZ and LZ_HUF, which the compressor's work decides. -/
def methodOf (zero : Bool) (len n free : Nat) : Nat := if zero then 3 else if n = len then 0 else 1 + free / 65536 % 2

/-- A granule's record stored. -/
def putGranule (i : Nat) (x : Section) (g : Nat) (zero : Bool) (free : Nat) (k : CkptRun) : CkptRun :=
  let st := stored zero (granLen x g) free
  let mark := fun (y : Granule) => if y.sec = i ∧ y.ix = g then { y with method := methodOf zero (granLen x g) st free, stored := st } else y
  { k with done := k.done + 1, secBytes := Tbl.set k.secBytes i (Tbl.get 0 k.secBytes i + (128 + roundUp st 128))
           image := { k.image with grans := k.image.grans.map mark } }

/-- Whether the granule that an image holds for a section is all zeros; the job state is not. -/
def granZero (img : Image) (x : Section) (i g : Nat) : Bool :=
  x.kind != 2 && (img.grans.find? fun y => y.sec == i && y.ix == g).all fun y => y.cells.isEmpty

/-- The scan moved past its granule, and past finished sections. -/
def scanNext (k : CkptRun) : CkptRun :=
  match k.image.sections[k.sec]? with
  | some x => if k.gran + 1 < secGrans x then { k with gran := k.gran + 1 } else { k with sec := k.sec + 1, gran := 0 }
  | none => k

/-- The scan takes its next granule; one copied ahead is skipped. -/
def execGranuleCopy (c : Ctx) (s : State) : Out :=
  match ckptRun s c with
  | none => .next s
  | some k =>
    match k.cut, k.image.sections[k.sec]? with
    | true, some x =>
      if secGrans x = 0 ∨ k.copied.contains (k.sec, k.gran) then .next (onCkpt (fun t => { t with runs := Tbl.set t.runs c (some (scanNext k)) }) s)
      else
        let (free, s) := drawFree 9 s
        let img := if x.kind = 2 then k.image
          else { k.image with grans := k.image.grans ++ [readGranule s.mem s.ddr.poison x k.sec k.gran] }
        .next (putRun c (scanNext (putGranule k.sec x k.gran (granZero img x k.sec k.gran) free { k with image := img })) s)
    | _, _ => .next s

/-- A granule copied ahead is written; its buffer entry is free. -/
def execCopyAheadRelease (c : Ctx) (s : State) : Out :=
  match ckptRun s c with
  | none => .next s
  | some k =>
    match k.buffer with
    | [] => .next s
    | y :: rest =>
      let (free, s) := drawFree 9 s
      match k.image.sections[y.1]? with
      | none => .next s
      | some x => .next (putRun c (putGranule y.1 x y.2 (granZero k.image x y.1 y.2) free { k with buffer := rest }) s)

/-! ### Commit and drain (R312, R324, R327) -/

/-- The template's LBA for a slot. -/
def templateLba (t : Template) (b : Bool) : Nat := if b then t.lbaB else t.lbaA

/-- An image with its sections' digests and ROOT. -/
def sealImage (img : Image) : Image :=
  let img := { img with sums := img.sections.zipIdx.map fun (p : Section × Nat) => sectionSum img p.2 p.1 }
  { img with root := rootOf img }

/-- A slot committed, or its drain begun with AUTODRAIN. -/
def commitSlot (c : Nat) (k : CkptRun) (s : State) : State :=
  let n := imageBytes k.image.sections k.secBytes
  let o := slotSt s c k.slotB
  let t := template s c
  let auto := bit s.ckpt.cfg 25 && t.isSome
  let img := sealImage { k.image with stored := n, secStored := storedOf k.image.sections k.secBytes }
  let new : Slot_ := { state := if auto then .draining else .committed, full := k.full, extents := o.extents, number := k.number, step := k.step,
                       stored := n, image := img, order := s.ckpt.commits + 1, lba := t.elim 0 fun x => templateLba x k.slotB
                       locator := locatorBytes img }
  setSlot c k.slotB new (onCkpt (fun t => { t with
    runs := Tbl.set t.runs c none
    commits := t.commits + 1
    commitAt := Tbl.set t.commitAt c (s.now + 1) }) s)

/-- The locator write completes. -/
def execLocatorWriteComplete (c : Ctx) (ms : Nat) (s : State) : Out :=
  match ckptRun s c with
  | none => .next s
  | some k =>
    if k.cut && decide (k.image.sections.length ≤ k.sec) && k.buffer.isEmpty then
      let n := imageBytes k.image.sections k.secBytes
      let b := k.slotB
      let s := commitSlot c k s
      let s := logRec 0x0902 (0x0900 + c) c (b2n b) k.number.toNat (n / 1000000) s
      let s := postEvent 0x0941 (0x0900 + c) (some c.val) c (b2n b) k.number.toNat k.step.toNat s
      let s := ckptReport c k.number k.step b 2 s
      .next (removeCheck (match k.ring with
      | some (r, tag) =>
        endBy r 2 tag 0 ([BitVec.ofNat 8 (b2n b), 0, 0, 0] ++ toBytes k.number.toNat 4 ++ toBytes n 8 ++ toBytes ms 4 ++ [0]) s
      | none => s))
    else .next s

/-- DRAIN. -/
def execDrain (r : RingIx) (s : State) : Out :=
  .next (onCkptSlot r 4 s fun e c b =>
    let k := slotSt s c b
    if (template s c).isNone then complete r e 0x205 [] s
    else match k.state with
      | .empty => complete r e 0x20B [] s
      | .writing => complete r e 0x201 [] s
      | .draining => complete r e 0x201 [] s
      | _ =>
        if s.ckpt.connected = false then complete r e 0x20A [] s
        else setSlot c b { k with state := .draining, drainer := some (r.val, entTag e), lba := ent e 16 8 } (startEntry r e s))

/-- Whether drains are paused. -/
def drainsPaused (s : State) : Bool := (s.ckpt.slots.any fun p => p.2.state == .writing) && !bit s.ckpt.cfg 26

/-- The drainer of a slot, where an entry waits. -/
def endDrainer (k : Slot_) (status : Nat) (res : List Byte) (s : State) : State :=
  match k.drainer with
  | some (r, tag) => endBy r 4 tag status res s
  | none => s

/-- The target's Flush after the locator completes. -/
def execDrainComplete (c : Ctx) (slotB : Bool) (ms : Nat) (s : State) : Out :=
  let k := slotSt s c slotB
  if k.state = .draining ∧ drainsPaused s = false then
    let s := onCkpt (fun t => { t with images := Tbl.set t.images k.lba k.image }) (setSlot c slotB { k with state := .drained, drainer := none } s)
    let s := logRec 0x0906 (0x0900 + c) c (b2n slotB) k.number.toNat ms s
    let s := postEvent 0x0943 (0x0900 + c) (some c.val) c (b2n slotB) k.number.toNat 0 s
    .next (removeCheck (endDrainer k 0 (toBytes ms 4) (ckptReport c k.number k.step slotB 3 s)))
  else .next s

/-- A drain fails. -/
def drainFail (c : Nat) (b : Bool) (cause nvme : Nat) (s : State) : State :=
  let k := slotSt s c b
  if k.state ≠ .draining then s
  else
    let s := logRec 0x0907 (0x0900 + c) c (b2n b) cause nvme (setSlot c b { k with state := .committed, drainer := none } s)
    removeCheck (endDrainer k 0x20A [] s)

/-- A command of a drain has failed three retries, or 10 s have passed. -/
def execDrainFail (c : Ctx) (slotB : Bool) (cause : Nat) (nvme : Word) (s : State) : Out := .next (drainFail c slotB cause nvme.toNat s)

/-- INVALIDATE. -/
def execInvalidate (r : RingIx) (s : State) : Out :=
  .next (onCkptSlot r 8 s fun e c b =>
    let k := slotSt s c b
    if k.state = .writing ∨ k.state = .draining ∨ k.reading then complete r e 0x201 [] s
    else succeed 4 r e [] (setSlot c b {} s))

/-- TARGET: the record is taken and a connection attempted. -/
def execTarget (r : RingIx) (s : State) : Out :=
  .next (onCkptRing r 6 s fun e =>
    withTable r e (ent e 16 8) 256 s fun bs s =>
      let s := match s.ckpt.target_ with
        | some (q, tag) => completeBy q 6 tag 0x20A [] s
        | none => s
      onCkpt (fun t => { t with target := bs, connected := false, target_ := some (r.val, entTag e) }) (startEntry r e s))

/-- Connect succeeds. -/
def execTargetConnected (r : RingIx) (s : State) : Out :=
  match s.ckpt.target_ with
  | some (q, tag) =>
    if q = r.val then .next (endBy q 6 tag 0 [] (onCkpt (fun t => { t with connected := true, target_ := none }) s)) else .next s
  | none => .next s

/-! ### Restore (R306, R328) -/

/-- Whether every stream of a context is STOPPED, HALTED or FAULTED. -/
def ctxIdle (s : State) (c : Nat) : Bool :=
  (coresOf s c).all fun g => (List.range 4).all fun st =>
    let x := (strm s g st).state
    x == .stopped || x == .halted || x == .faulted

/-- A relocation map: (ID, new address). -/
def relocMap (bs : List Byte) : List (Nat × Nat) := (List.range (bs.length / 16)).map fun i => (getN bs (16 * i) 4, getN bs (16 * i + 8) 8)

/-- The restore a RESTORE entry asks for. -/
def restoreOf (r : Nat) (e : Entry) (map : List (Nat × Nat)) : RestoreRun :=
  let src := ent e 9 1
  let f := ent e 10 1
  { slot := if src = 2 then none else some (src == 1), lba := ent e 16 8, full := bits f 0 1 == 1, start := bits f 1 1 == 1,
    offline := bits f 2 1 == 1, map := map, ring := r, tag := entTag e }

/-- RESTORE accepted: its slot is being read. -/
def beginRestore (r c : Nat) (e : Entry) (map : List (Nat × Nat)) (s : State) : State :=
  let run := restoreOf r e map
  let s := match run.slot with
    | some b => setSlot c b { slotSt s c b with reading := true } s
    | none => s
  onCkpt (fun t => { t with restores := Tbl.set t.restores c (some run) }) (startEntry r e s)

/-- The status a restore is refused with at once. -/
def restoreRefusal (s : State) (c src : Nat) : Option Nat :=
  if (ctx s c).created = false then some 0x12
  else if (Tbl.get none s.ckpt.restores c).isSome then some 0x201
  else if ctxIdle s c = false then some 0x11
  else if src = 2 then (if s.ckpt.connected then none else some 0x20A)
  else match (slotSt s c (src == 1)).state with
    | .empty => some 0x20B
    | .writing => some 0x201
    | _ => none

/-- RESTORE. -/
def execRestore (r : RingIx) (s : State) : Out :=
  .next (onCkptCtx r 5 s fun e c =>
    if 2 < ent e 9 1 then complete r e 0x10 [] s
    else match restoreRefusal s c (ent e 9 1) with
      | some x => complete r e x [] s
      | none =>
        let n := ent e 40 4
        if n = 0 then beginRestore r c e [] s
        else withTable r e (ent e 32 8) (16 * n) s fun bs s => beginRestore r c e (relocMap bs) s)

/-- The order in which sections are restored: the PORTABLE ones, then with FULL the DDR regions. -/
def restoreOrder (img : Image) (full : Bool) : List Nat :=
  let at_ := fun (f : Nat → Bool) => (img.sections.zipIdx.filter fun p => f p.1.kind).map Prod.snd
  at_ (fun k => k == 1 || k == 2) ++ (if full then at_ (fun k => k == 3) else [])

/-- Where a section goes. -/
def sectionTo (run : RestoreRun) (x : Section) : Nat :=
  match run.map.find? fun p => x.kind == 1 && p.1 == x.id with
  | some p => p.2
  | none => x.addr

/-- A granule's bytes other than zero, decoded where its record is another module's. -/
def granCells (x : Section) (y : Granule) : List (Nat × Byte) := match y.coded with
  | some _ => (((granBytes x y).getD []).zipIdx.filter fun p => p.1 ≠ 0).map fun p => (p.2, p.1)
  | none => y.cells

/-- A granule written to DDR, its poisoned units poisoned (R154). -/
def writeGranule (a len : Nat) (y : Granule) (cells : List (Nat × Byte)) (s : State) : State :=
  let s := copyAhead a len s
  let m := cells.foldl (fun m c => if c.1 < len then Memory.write m (a + c.1) c.2 else m) (s.mem.zero a len)
  let s := gatherRange a len { s with mem := m }
  let (why, s) := if y.poison.isEmpty then (0, s) else drawFree 11 s
  y.poison.foldl (fun s u => poisonUnit (a / 256 + u) why s) s

/-- The section of an image whose range a restore may not write: its status and index. -/
def restoreReach (s : State) (run : RestoreRun) (c : Nat) (e : Entry) (img : Image) : Option (Nat × Nat) :=
  (restoreOrder img run.full).findSome? fun i =>
    match img.sections[i]? with
    | some x =>
      if x.kind = 2 then none
      else if 0x10000000000000000 < sectionTo run x + x.len then some (2, i)
      else match checkAt s (whoEntry s run.ring e (some c)) (sectionTo run x) x.len true with
        | .error err => some (accStatus err, i)
        | .ok (.here a) => if a < 0x1000000000000000 then none else some (2, i)
        | .ok (.peer _ _) => some (2, i)
    | none => none

/-- Whether a granule comes before a restore's failing one. -/
def beforeFail (order : List Nat) (sect gran sec ix : Nat) : Bool :=
  order.contains sec && (decide (order.idxOf sec < order.idxOf sect) || (sec == sect && decide (ix < gran)))

/-- The granules that a restore has written, in order, each with its section. -/
def restoredGrans (img : Image) (run : RestoreRun) (ok : Bool) (sect gran : Nat) : List (Granule × Section) :=
  let order := restoreOrder img run.full
  img.grans.filterMap fun y =>
    match img.sections[y.sec]? with
    | some x => if order.contains y.sec && (ok || beforeFail order sect gran y.sec y.ix) then some (y, x) else none
    | none => none

/-- What is wrong with a granule's record: DECODE, DIGEST, or nothing. -/
def granFault (img : Image) (i : Nat) (x : Section) (g : Nat) : Option (Nat × Nat × Nat) := match granAt img i g with
  | none => some (0x20C, i, g)
  | some y => match granBytes x y with
    | none => some (0x20C, i, g)
    | some bs => if sha512 bs = granDigest x y then none else some (0x207, i, g)

/-- What is wrong with a section: a granule's record, or its own digest. -/
def sectionFault (img : Image) (i : Nat) : Option (Nat × Nat × Nat) := match img.sections[i]? with
  | none => none
  | some x =>
    match if x.kind = 2 then none else (List.range (secGrans x)).findSome? (granFault img i x) with
    | some f => some f
    | none => if sectionSum img i x = img.sums.getD i [] then none else some (0x207, i, 0)

/-- The first failure that the checks of an image from the target find (R328): ROOT, then each granule and section in the order of the restore:
status, section, granule. -/
def imageFault (img : Image) (full : Bool) : Option (Nat × Nat × Nat) :=
  if rootOf img ≠ img.root then some (0x208, 0, 0) else (restoreOrder img full).findSome? (sectionFault img)

/-- The shape of a context against an image's FULL delta (R306). -/
def shapeOk (s : State) (c : Nat) (img : Image) : Bool :=
  match img.chip with
  | none => false
  | some k => k.cores.length == (ctx s c).map.length && (k.wins.map fun w => (w.code, w.base, w.size)) == windowsOf s c

/-- A plane reloaded from its digital copy. -/
def planeOf (p : ChipPlane) : PlaneSt :=
  { codes := if p.written && !p.digitalOnly then p.copy else [], copy := p.copy, codeSat := p.codeSat, digitalOnly := p.digitalOnly, written := p.written }

/-- A stream as an image holds it; one that ran is STOPPED. -/
def streamOf (x : ChipStream) : Stream :=
  { state := if x.state = 3 then .halted else if x.state = 4 then .faulted else .stopped, pc := x.pc, wbase := x.pc, sregs := x.sregs, flags := x.flags }

/-- An engine with the planes of an image and λ = 1 (R306). -/
def engineOf (o : Ote) (x : ChipEngine) : Ote :=
  { o with live := planeOf x.live, shadow := planeOf x.shadow, lambdaF := 0x0100, lambdaT := 0x0100, histF := [], histT := [] }

/-- A virtual core restored on its physical core. -/
def restoreCore (x : ChipCore) (g : Nat) (s : State) : State :=
  let m := x.sram.foldl (fun m c => if c.1 < 16777216 then Memory.write m (sramKey g c.1) c.2 else m) (s.mem.zero (sramKey g 0) 16777216)
  let es := fun (o : Tbl Ote) => x.engines.zipIdx.foldl (fun t p => Tbl.set t p.2 (engineOf (Tbl.get {} t p.2) p.1)) o
  let qs := x.queues.zipIdx.map fun p => (p.2, ({ cfg := p.1.cfg, toks := p.1.toks, ovf := p.1.ovf, rej := p.1.rej } : TokQueue))
  updCore g (fun k => { k with ueLines := [], queues := qs, streams := x.streams.zipIdx.map fun p => (p.2, streamOf p.1), engines := es k.engines })
    { s with mem := m }

/-- A cistern window restored. -/
def restoreWin (s : State) (w : ChipWin) : State :=
  let a := cisternKey w.code (w.base * 65536)
  let n := w.size * 65536
  let m := w.cells.foldl (fun m c => if c.1 < n then Memory.write m (a + c.1) c.2 else m) (s.mem.zero a n)
  updClu w.code (fun k => { k with ueLines := k.ueLines.filter fun l => !wholeLine (w.base * 65536) n l }) { s with mem := m }

/-- An engine's calibration record put back on the physical engine it was taken from (R306). -/
def restoreCal (s : State) (x : ChipEngine) : State :=
  updOte x.core.val x.eng.val (fun o => { o with
    lambdaF := x.lambdaF, lambdaT := x.lambdaT, histF := [], histT := [], sigma1 := x.sigma1
    rows := x.rates.foldl (fun t p => Tbl.upd {} t p.1 fun c => { c with rate := p.2 }) o.rows }) s

/-- The on-chip state restored: cisterns and SRAM, planes and queues, streams, then the calibration record. -/
def restoreChip (c : Nat) (img : Image) (k : OnChip) (s : State) : State :=
  let s := k.wins.foldl restoreWin s
  let s := ((ctx s c).map.zip k.cores).foldl (fun s p => match p.1 with
    | some g => restoreCore p.2 g.val s
    | none => s) s
  if img.serial = s.idb.serial then (k.cores.flatMap ChipCore.engines).foldl restoreCal s else s

/-- The streams that ran at an image's freeze started. -/
def restoreStart (c : Nat) (k : OnChip) (s : State) : State :=
  ((ctx s c).map.zip k.cores).foldl (fun s p => match p.1 with
    | some g => (p.2.streams.zipIdx.filter fun x => x.1.state = 1).foldl (fun s x => startStream g.val x.2 s) s
    | none => s) s

/-- The job state of an image put in force: seed, mode edition and table. -/
def restoreJob (c : Nat) (img : Image) (s : State) : State :=
  updCtx c (fun x => { x with seed := img.seed, modeEd := img.modeEd, modeTab := img.modeTab }) s

/-- Logical bytes of the sections that a complete restore brings back. -/
def restoredBytes (img : Image) (full : Bool) : Nat :=
  img.sections.foldl (fun n x => if x.kind = 1 ∨ x.kind = 2 ∨ full then n + x.len else n) 0

/-- A restore ended: logged, its slot no longer read, its entry completed. -/
def endRestore (c : Nat) (run : RestoreRun) (img : Image) (status sect gran bytes ms : Nat) (s : State) : State :=
  let s := match run.slot with
    | some b => setSlot c b { slotSt s c b with reading := false } s
    | none => s
  let s := onCkpt (fun t => { t with restores := Tbl.set t.restores c none }) s
  let s := if status = 0 then logRec 0x0908 (0x0900 + c) c img.number.toNat img.step.toNat (ms % 0x80000000 + b2n img.offline * 0x80000000) s
    else logRec 0x0909 (0x0900 + c) c status sect gran s
  let s := match run.slot with
    | some b => if status = 0x207 ∨ status = 0x20C then ckptReport c img.number img.step b 4 s else s
    | none => s
  endBy run.ring 5 run.tag status
    (toBytes img.number.toNat 4 ++ toBytes img.step.toNat 4 ++ toBytes bytes 8 ++ toBytes ms 4 ++ toBytes sect 4) s

/-- The image a restore reads. -/
def restoreImage (s : State) (c : Nat) (run : RestoreRun) (img : Option Image) : Image :=
  match run.slot with
  | some b => (slotSt s c b).image
  | none => match s.ckpt.images.find? fun p => p.1 = run.lba with
    | some p => p.2
    | none => img.getD {}

/-- The PORTABLE part and the DDR regions that a restore has read before it ended. -/
def restoreDdr (c : Nat) (run : RestoreRun) (img : Image) (ok : Bool) (sect gran : Nat) (s : State) : State :=
  let order := restoreOrder img run.full
  let s := if ok || decide (0 < order.idxOf sect) then restoreJob c img s else s
  (restoredGrans img run ok sect gran).foldl (fun s p => writeGranule (sectionTo run p.2 + p.1.ix * granule) (granLen p.2 p.1.ix) p.1 (granCells p.2 p.1) s) s

/-- Bytes of the granules that a failed restore has written. -/
def failedBytes (img : Image) (run : RestoreRun) (sect gran : Nat) : Nat :=
  (restoredGrans img run false sect gran).foldl (fun n p => n + granLen p.2 p.1.ix) 0

/-- A restore carried out with what its reading and checks found. -/
def finishRestore (c : Nat) (run : RestoreRun) (img : Image) (status sect gran ms : Nat) (s : State) : State :=
  if (ctx s c).created = false then endRestore c run img 0x12 0 0 0 ms s
  else if img.offline ∧ run.offline = false then endRestore c run img 0x209 0 0 0 ms s
  else if status = 0x208 then endRestore c run img status sect gran 0 ms s
  else match (findEntry s run.ring 5 run.tag).bind fun e => restoreReach s run c e img with
    | some x => endRestore c run img x.1 x.2 0 0 ms s
    | none =>
      if status ≠ 0 then
        endRestore c run img status sect gran (failedBytes img run sect gran) ms (restoreDdr c run img false sect gran s)
      else if run.full ∧ shapeOk s c img = false then
        endRestore c run img 0x206 0 0 (restoredBytes img false) ms (restoreDdr c { run with full := false } img true 0 0 s)
      else
        let s := restoreDdr c run img true 0 0 s
        match run.full, img.chip with
        | true, some k =>
          let s := restoreChip c img k s
          let s := if run.start then restoreStart c k (gateTokens c img.step s) else s
          endRestore c run img 0 0 0 (restoredBytes img true) ms s
        | _, _ => endRestore c run img 0 0 0 (restoredBytes img false) ms s

/-- A restore ends: with what its reading found, and for an image from the target with what its bytes show. -/
def execRestoreComplete (c : Ctx) (status : Half16) (sect gran : Nat) (ms : Nat) (img : Option Image) (s : State) : Out :=
  match Tbl.get none s.ckpt.restores c with
  | none => .next s
  | some run =>
    let i := restoreImage s c run img
    let f := if status ≠ 0 ∨ run.slot.isSome then none else imageFault i run.full
    let x := f.getD (status.toNat, sect, gran)
    .next (finishRestore c run i x.1 x.2.1 x.2.2 ms s)

/-! ### The MINI set (R325) -/

/-- What a MINI image holds now, in the half that does not hold the newer one. -/
def miniNow (s : State) : Mini :=
  { half := match s.ckpt.mini with
      | some m => 1 - m.half
      | none => 0
    ring := s.log.ring, head := s.log.head, ledger := if s.stew.role = 0 then [] else s.stew.ledger, chart := s.steer.chart, staged := s.steer.staged,
    gaz := s.steer.gaz, journals := s.ckpt.journals, dir := s.ckpt.slots }

/-- The record that ends a power-fail action, in the MINI image's copy of the ring only (R383). -/
def miniEnd (us volt : Nat) (s : State) (m : Mini) : Mini :=
  let x : LogRec := ⟨s.time.ns, 0x0703, 0x0700, BitVec.ofNat 32 us, BitVec.ofNat 32 volt, 0, 0⟩
  { m with ring := Tbl.set m.ring (m.head.toNat % 65536) (m.head, x), head := m.head + 1 }

/-- The MINI image is written. -/
def execMiniWriteComplete (us : Nat) (s : State) : Out :=
  if s.ckpt.miniBusy then
    let (x, s) := drawFree 9 s
    let m := miniNow s
    let m := if s.pwr.failing.isSome then miniEnd us (x / 128 % 65536) s m else m
    .next (logRec 0x090A 0x0904 (x % 81) us m.half 0 (onCkpt (fun t => { t with mini := some m, miniBusy := false }) s))
  else .next s

end Sys2Proof.Machine
end

