-- ==== Sys2Proof/Machine/Fabric.lean ====
section
/-! DEFINITION. Fabric optics: lanes, taps and located losses, comb fade and hand-overs (R216 to R229), and the training of a pair as
its lanes are lit or lost (R236). -/

namespace Sys2Proof.Machine

/-! ### Pairs and their lanes -/

/-- The pair of a receive lane. -/
def pairOfRx (s : State) (p r : Nat) : Option Nat :=
  ((fab s p).pairs.find? fun q => q.2.assigned && q.2.rxLane == r).map Prod.fst

/-- Whether both lanes of a pair are LIT. -/
def bothLit (s : State) (p l : Nat) : Bool :=
  (txLane s p l).state == .lit && (rxLane s p (pair s p l).rxLane).state == .lit

/-- Both lanes of a pair LIT: it starts, or goes on with, its training (R236). -/
def pairLit (p l : Nat) (s : State) : State :=
  let k := pair s p l
  if k.assigned && bothLit s p l then
    match k.state with
    | .off => sendTrain p l (setPair p l { k with state := .train, attempt := 1, fails := 0, phase := 1, fresh := true } s)
    | .train => if k.phase = 0 then sendTrain p l (setPair p l { k with phase := 1 } s) else s
    | .retrain => if k.phase = 0 then sendTrain p l (setPair p l { k with attempt := 1, fails := 0, phase := 1 } s) else s
    | _ => s
  else s

/-- A pair sent to RETRAIN (R236, R239): the replay buffer, SEQ, acknowledgements and credits are kept. Training waits for LIT. It is
quick where both codes are there to be kept (R234). -/
def toRetrain (p l cause : Nat) (s : State) : State :=
  let k := pair s p l
  let s := setPair p l { k with state := .retrain, quick := decide (k.code ≠ 0 ∧ k.rxcode ≠ 0), attempt := 1, fails := 0,
                                phase := if bothLit s p l then 1 else 0,
                                retrains := satAdd 255 k.retrains 1, retrainAt := s.now :: k.retrainAt.take 15 } s
  sendTrain p l (logFab p 0x12 l k.peer cause k.replays 0 s)

/-- A retrain trigger on a pair in UP or ACTIVE: the peer is asked for it in a last LANE flit (R250). -/
def retrainOn (p l cause : Nat) (s : State) : State :=
  match (pair s p l).state with
  | .up => toRetrain p l cause (issueLane p l true s)
  | .active => toRetrain p l cause (issueLane p l true s)
  | _ => s

/-- A lane of a pair leaves LIT (R236, row "Any but OFF"). -/
def pairLost (p l : Nat) (s : State) : State :=
  let k := pair s p l
  match k.state with
  | .off => s
  | .retrain => setPair p l { k with phase := 0 } s
  | _ => toRetrain p l 5 s

/-! ### Readings (R220) -/

/-- A comb line's launch power at commissioning, or the mean of the comb's (line 32): +0.5 dBm where the identity record holds none. -/
def commission (s : State) (p c line : Nat) : Half16 := Tbl.get 50 s.idb.comm (33 * (2 * p + c) + line)

/-- A tap's key: measurement code and index. -/
def tapKey (code i : Nat) : Nat := 32 * code + i
def tapRead (s : State) (p code i : Nat) : Half16 := Tbl.get 0x8000 (fab s p).taps (tapKey code i)
def tapBase (s : State) (p code i : Nat) : Half16 := Tbl.get 0x8000 (fab s p).bases (tapKey code i)

/-- A reading's fall against its baseline, in 0.01 dB; 0 without a baseline. -/
def tapFall (s : State) (p code i : Nat) : Int :=
  let b := tapBase s p code i
  if b = 0x8000 then 0 else b.toInt - (tapRead s p code i).toInt

/-- Whether a reading has fallen by more than 1.0 dB. -/
def tapFell (s : State) (p code i : Nat) : Bool := decide (100 < tapFall s p code i)

/-- A baseline taken where there is none. -/
def takeBase (p code i : Nat) (s : State) : State :=
  if tapBase s p code i = 0x8000 then
    updFab p (fun f => { f with bases := Tbl.set f.bases (tapKey code i) (Tbl.get 0x8000 f.taps (tapKey code i)) }) s
  else s

/-! ### Lane states (R217) -/

/-- The element number of a lane in records (R229). -/
def laneNo (l : Nat) (rx : Bool) : Nat := if rx then 0x10 + l else l

def laneSt (s : State) (p l : Nat) (rx : Bool) : LaneSt := if rx then rxLane s p l else txLane s p l
def setLane (p l : Nat) (rx : Bool) (k : LaneSt) (s : State) : State := if rx then setRx p l k s else setTx p l k s

/-- The pair of a lane. -/
def lanePair (s : State) (p l : Nat) (rx : Bool) : Option Nat := if rx then pairOfRx s p l else some l

/-- Whether a plane is being surveyed (R257). -/
def surveying (s : State) (p : Nat) : Bool := match s.steer.survey with
  | some v => v.planes.contains p
  | none => false

/-- The step of a plane's hand-over; 0 with none. -/
def handStep (s : State) (p : Nat) : Nat := match (fab s p).hand with
  | some h => h.step
  | none => 0

/-- A lane that has passed its check: LIT, its baselines taken where it is the first time since the survey, and its pair told. Within a hand-over
its pair stays stopped until step 5. -/
def litLane (p l : Nat) (rx : Bool) (s : State) : State :=
  let k := laneSt s p l rx
  let s := setLane p l rx { k with state := .lit, unlocked := false, attempts := 0 } s
  let s := if surveying s p then (if rx then s else sendPhase p l 2 (sendPhase p l 1 s))
    else if rx then takeBase p 5 l (takeBase p 4 k.chan s)
    else takeBase p 3 k.chan (takeBase p 2 l (takeBase p (fab s p).switch_ k.chan s))
  match lanePair s p l rx with
  | some q => pairLit p q (if rx || handStep s p == 4 then s else updPair p q (fun x => { x with held := false }) s)
  | none => s

/-- A lane that leaves LIT. -/
def unlitLane (p l : Nat) (rx : Bool) (st : OptState) (s : State) : State :=
  let k := laneSt s p l rx
  let s := setLane p l rx { k with state := st } s
  if k.state = .lit ∨ k.state = .held then
    match lanePair s p l rx with
    | some q => pairLost p q s
    | none => s
  else s

/-- A lane that enters FAILED, dark and reported to the steward. -/
def failLane (p l : Nat) (rx : Bool) (code : Nat) (ps : List Nat) (s : State) : State :=
  report ([fabSrc p code, fabSrc p (laneNo l rx)] ++ ps) (unlitLane p l rx .failed s)

/-- A retune has ended: the lane locks and is checked. -/
def execLaneRetuneComplete (p : Plane) (l : Lane) (rx : Bool) (s : State) : Out :=
  let k := laneSt s p.val l.val rx
  if k.state = .tuning then .next (setLane p.val l.val rx { k with state := .checking } s) else .next s

/-- A receive lane's power has stayed below −11.0 dBm for 100 ms (R219). -/
def execRxPowerLow (p : Plane) (l : Lane) (cdbm : Half16) (s : State) : Out :=
  let k := rxLane s p.val l.val
  if cdbm.toInt < -1100 ∧ k.state ≠ .dark then
    let b := tapBase s p.val 4 k.chan
    let fall := if b = 0x8000 then 0 else satWord (b.toInt - cdbm.toInt)
    let ps := [4, k.chan, fall, satWord cdbm.toInt]
    .next (report ([fabSrc p.val 8, fabSrc p.val (0x10 + l.val)] ++ ps)
      (logFab p.val 8 (0x10 + l.val) 4 k.chan fall (satWord cdbm.toInt) s))
  else .next s

/-! ### Combs (R222 to R227) -/

def fabComb (s : State) (p c : Nat) : FabComb := Tbl.get {} (fab s p).combs c
def setComb (p c : Nat) (k : FabComb) (s : State) : State := updFab p (fun f => { f with combs := Tbl.set f.combs c k }) s

/-- The comb in service, and whether a working spare remains. -/
def inService (s : State) (p : Nat) : Nat := (fab s p).switch_
def spareOf (s : State) (p : Nat) : Nat := 1 - inService s p
def workingSpare (s : State) (p : Nat) : Bool := s.idb.deviceL && (fabComb s p (spareOf s p)).state != 4

/-- The transmit lanes that carry light or are held. -/
def liveTx (s : State) (p : Nat) : List Nat :=
  (List.range 16).filter fun l => (txLane s p l).state = .lit ∨ (txLane s p l).state = .held

/-- Every pair of a plane may issue again. -/
def unholdAll (p : Nat) (s : State) : State :=
  ((List.range 16).filter fun l => (pair s p l).held).foldl (fun s l =>
    updPair p l (fun k => { k with held := false, laneDue := true }) s) s

/-- Plane transmit retirement (R227): lanes dark, the comb FAILED, 0x04, the steward told, DEGRADED. -/
def planeRetire (p : Nat) (s : State) : State :=
  let c := inService s p
  let k := fabComb s p c
  let lit := (List.range 16).filter fun l => (txLane s p l).state ≠ .dark ∧ (txLane s p l).state ≠ .failed
  let mask := lit.foldl (fun n l => n + 2 ^ l) 0
  let s := unholdAll p (lit.foldl (fun s l => unlitLane p l false .dark s) s)
  let s := setComb p c { k with state := 4, unlocked := false } s
  let s := updFab p (fun f => { f with txRetired := true, hand := none }) s
  let s := logFab p 4 (0x20 + c) c k.loss.toNat mask 0 s
  recheckState (report [fabSrc p 4, fabSrc p (0x20 + c), c, k.loss.toNat, mask, 0] s)

/-- Whether a chart switch is staged or in flight (R225). -/
def switching (s : State) : Bool := s.steer.state == .staged || s.steer.state == .applying

/-- Whether a scheduled hand-over runs on some chiplet (R225). -/
def scheduledRuns (s : State) : Bool :=
  (List.range 16).any fun p => match (fab s p).hand with
    | some h => !h.forced && !h.turn
    | none => false

/-- A plane's hand-over replaced. -/
def setHand (p : Nat) (h : Option FabHand) (s : State) : State := updFab p (fun f => { f with hand := h }) s

/-- The LIT transmit lanes of a plane. -/
def litTx (s : State) (p : Nat) : List Nat := (List.range 16).filter fun l => (txLane s p l).state = .lit

/-- Transmit lanes that carry no new flits; in the states of a hand-over they are HELD. -/
def stopLanes (p : Nat) (held : Bool) (s : State) : State :=
  (litTx s p).foldl (fun s l =>
    updPair p l (fun k => { k with held := true, laneDue := true })
      (if held then setTx p l { txLane s p l with state := .held } s else s)) s

/-- A hand-over put at its first step: the spare to be lit, or, when it is locked already, the wait, with its configuration read, or the switch.
A forced one stops the lanes at once (R224). -/
def enterHand (p : Nat) (h : FabHand) (s : State) : State :=
  let sp := spareOf s p
  let k := fabComb s p sp
  let cfg := (fab s p).handCfg
  let h := { h with turn := false, since := s.now }
  if k.checked && k.state == 2 then
    if h.forced then stopLanes p true (setHand p (some { h with step := 3 }) s)
    else setHand p (some { h with step := 6, low := max 1 (min 90 (fld cfg 16 8)), window := max 1 (min 3600 (fld cfg 0 16)) }) s
  else
    let s := setHand p (some { h with step := 1 }) (setComb p sp { k with state := 1 } s)
    if h.forced then stopLanes p false s else s

/-- A scheduled hand-over asked for: at once, or when its turn comes (R225). -/
def askScheduled (p : Nat) (s : State) : State :=
  if scheduledRuns s || switching s then setHand p (some { step := 0, forced := false, turn := true, asked := s.now }) s
  else enterHand p { step := 1, forced := false, asked := s.now } s

/-- A forced hand-over, or plane transmit retirement with no working spare. One that is under way goes on as a forced one. -/
def askForced (p : Nat) (s : State) : State :=
  if workingSpare s p = false then planeRetire p s
  else match (fab s p).hand with
    | some h =>
      if h.forced then s
      else if h.step = 3 ∨ h.step = 4 then setHand p (some { h with forced := true }) s
      else enterHand p { h with forced := true } s
    | none => enterHand p { step := 1, forced := true, asked := s.now } s

/-- The lowest plane whose scheduled hand-over waits for its turn goes on, when nothing stands before it. -/
def nextTurn (s : State) : State :=
  if scheduledRuns s || switching s then s
  else match (List.range 16).findSome? fun p => match (fab s p).hand with
      | some h => if h.turn then some (p, h) else none
      | none => none with
    | some (p, h) => enterHand p { step := 1, forced := false, asked := h.asked } s
    | none => s

/-- A chart switch has ended: the WINDOW of every hand-over that waited for it runs from now (R225). -/
def switchEnded (s : State) : State :=
  nextTurn ((List.range 16).foldl (fun s p => match (fab s p).hand with
    | some h => if h.turn then setHand p (some { h with asked := s.now }) s else s
    | none => s) s)

/-! ### The comb in service judged (R220, R221, R223) -/

/-- How far a comb line stands below its commissioning value, in 0.01 dB; a line without light is left out. -/
def lineFall (s : State) (p c line : Nat) : Nat :=
  let r := tapRead s p c line
  if r = 0x8000 then 0 else ((commission s p c line).toInt - r.toInt).toNat

/-- The line of a comb that stands furthest below its commissioning value. -/
def worstLine (s : State) (p c : Nat) : Nat :=
  (List.range 32).foldl (fun b line => if lineFall s p c b < lineFall s p c line then line else b) 0

/-- The highest pre-FEC BER over 10 s that a receiving end reports of a lit transmit lane, in 10⁻¹² units; 0 with none. -/
def worstBer (s : State) (p : Nat) : Nat :=
  (litTx s p).foldl (fun n l =>
    let b := (pair s p l).berTx
    if (pair s p l).assigned = false ∨ b = 0xFFFFFFFF then n else max n b.toNat) 0

/-- The comb in service judged against the thresholds of R223. -/
def combThresholds (p : Nat) (s : State) : State :=
  let c := inService s p
  let k := fabComb s p c
  let loss := k.loss.toNat
  let line := worstLine s p c
  let ber := worstBer s p
  let warn := decide (100 ≤ loss) || decide (20000000 < ber)
  let sched := decide (150 ≤ loss)
  let force := decide (250 ≤ loss) || decide (300 ≤ lineFall s p c line)
  let s := setComb p c { k with warned := warn, scheduled := sched, forced := force } s
  let s := if warn && !k.warned then
      let s := logFab p 1 (0x20 + c) c loss line (ber / 1000) s
      let sp := spareOf s p
      if workingSpare s p && (fabComb s p sp).state == 0 then setComb p sp { fabComb s p sp with state := 1 } s else s
    else s
  if force && !k.forced then askForced p s
  else if sched && !k.scheduled && workingSpare s p && (fab s p).hand.isNone then askScheduled p s
  else s

/-- A fault located once (R221): 0x08. -/
def locate (p cause el i : Nat) (fall reading : Int) (s : State) : State :=
  if (fab s p).located.contains (cause, i) then s
  else logFab p 8 el cause i (satWord fall) (satWord reading) (updFab p (fun f => { f with located := (cause, i) :: f.located }) s)

/-- A lane retired for a stage: located by its channel, FAILED, reported. -/
def stageFail (p l : Nat) (rx : Bool) (cause code i : Nat) (s : State) : State :=
  let fall := tapFall s p code i
  let r := (tapRead s p code i).toInt
  let k := (laneSt s p l rx).chan
  failLane p l rx 8 [cause, k, satWord fall, satWord r] (locate p cause (laneNo l rx) k fall r s)

/-- Whether the laser reading of a line has fallen: its own, or the mean (R221). -/
def laserFell (s : State) (p k : Nat) : Bool :=
  decide (100 < (fabComb s p (inService s p)).loss.toNat) || tapFell s p (inService s p) k

/-- The stages behind one lit transmit lane (causes 2 and 3). -/
def checkTx (p l : Nat) (s : State) : State :=
  let k := (txLane s p l).chan
  if tapFell s p 2 l && !laserFell s p k then stageFail p l false 2 2 l s
  else if tapFell s p 3 k && !tapFell s p 2 l then stageFail p l false 3 3 k s
  else s

/-- The stage behind one lit receive lane (cause 8). -/
def checkRx (p l : Nat) (s : State) : State :=
  if tapFell s p 5 l && !tapFell s p 4 (rxLane s p l).chan then stageFail p l true 8 5 l s else s

/-- The transmit lanes that carry a channel. -/
def usedTx (s : State) (p : Nat) : List Nat :=
  (List.range 16).filter fun l => (txLane s p l).state ≠ .dark ∧ (txLane s p l).state ≠ .failed

/-- Losses located on the transmit side of the plane (R221, causes 1, 2, 3 and 5). -/
def locateTx (p : Nat) (s : State) : State :=
  let c := inService s p
  let lit := litTx s p
  let line := worstLine s p c
  let fell := (lit.map fun l => (txLane s p l).chan).filter fun k => tapFell s p c k
  let s := if 100 < (fabComb s p c).loss.toNat then
      locate p 1 (0x20 + c) line (lineFall s p c line) (tapRead s p c line).toInt s
    else match fell with
      | k :: _ => locate p 1 (0x20 + c) k (tapFall s p c k) (tapRead s p c k).toInt s
      | [] => s
  if decide (2 ≤ lit.length) && lit.all fun l => tapFell s p 3 (txLane s p l).chan && !tapFell s p 2 l then
    let l := lit.headD 0
    let k := (txLane s p l).chan
    let f := tapFall s p 3 k
    let r := (tapRead s p 3 k).toInt
    let s := locate p 5 l k f r s
    (usedTx s p).foldl (fun s l => failLane p l false 8 [5, (txLane s p l).chan, satWord f, satWord r] s) s
  else lit.foldl (fun s l => checkTx p l s) s

/-- Losses located on the receive side (cause 8). -/
def locateRx (p : Nat) (s : State) : State :=
  ((List.range 16).filter fun l => (rxLane s p l).state = .lit).foldl (fun s l => checkRx p l s) s

/-- The mean loss of a comb, in 0.01 dB; 0 above its commissioning value (R228). -/
def combLoss (s : State) (p c : Nat) (mean : Half16) : Half16 :=
  BitVec.ofNat 16 (min 0xFFFF ((commission s p c 32).toInt - mean.toInt).toNat)

/-- The taps are refreshed (R220), losses located and the comb in service judged. -/
def execTapRefresh (p : Plane) (reads : List (Fin 6 × Fin 32 × Half16)) (means : List (Fin 2 × Half16)) (s : State) : Out :=
  let s := updFab p.val (fun f => { f with
    taps := reads.foldl (fun t r => Tbl.set t (tapKey r.1.val r.2.1.val) r.2.2) f.taps }) s
  let s := means.foldl (fun s m => setComb p.val m.1.val { fabComb s p.val m.1.val with loss := combLoss s p.val m.1.val m.2 } s) s
  if surveying s p.val then .next s
  else
    let s := locateRx p.val s
    .next (if (fab s p.val).txRetired then s else combThresholds p.val (locateTx p.val s))

/-! ### Hand-over steps (R224, R225) -/

/-- A GO written to FAB_COMB_CMD. -/
def combGo (p : Nat) (s : State) : State :=
  let step := handStep s p
  if (fab s p).hand.isSome then logFab p 3 (0x20 + inService s p) 3 step 0 0 s
  else if workingSpare s p = false then logFab p 3 (0x20 + inService s p) 4 step 0 0 s
  else askScheduled p s

/-- FAB_COMB_CMD.GO takes effect. -/
def execFabCombGo (p : Plane) (s : State) : Out :=
  let off := 0x100020 + 0x10000 * p.val
  if blockHeld s off then .next (heldWrite off 0x80000000 s) else .next (combGo p.val s)

/-- The spare is lit, locked to the etalon and pilot-checked: step 1 ends. -/
def execFabSpareLocked (p : Plane) (s : State) : Out :=
  let sp := spareOf s p.val
  let k := fabComb s p.val sp
  if k.state = 1 then
    let s := setComb p.val sp { k with state := 2, checked := true, unlocked := false, attempts := 0 } s
    match (fab s p.val).hand with
    | some h => if h.step = 1 then .next (enterHand p.val h s) else .next s
    | none => .next s
  else .next s

/-- Step 2 of a scheduled hand-over: every transmit lane is HELD. -/
def beginDrain (p : Nat) (h : FabHand) (s : State) : State := stopLanes p true (setHand p (some { h with step := 2, since := s.now }) s)

/-- A hand-over that stands at a step. -/
def handAt (s : State) (p step : Nat) : Option FabHand := (fab s p).hand.filter fun h => h.step == step

/-- A low-traffic moment ends the wait: the load is below LOWTRAFFIC. -/
def execFabLowTraffic (p : Plane) (load : Nat) (s : State) : Out :=
  match handAt s p.val 6 with
  | some h => .next (if load < h.low then beginDrain p.val h s else s)
  | none => .next s

/-- WINDOW seconds have passed without one. -/
def execFabHandoverWindowExpiry (p : Plane) (s : State) : Out :=
  match handAt s p.val 6 with
  | some h => .next (if h.asked + h.window * 1000000000 ≤ s.now then beginDrain p.val h s else s)
  | none => .next s

/-- Whether nothing is in flight on a plane's held lanes. -/
def drained (s : State) (p : Nat) : Bool :=
  (List.range 16).all fun l => !(pair s p l).held || ((pair s p l).unacked.isEmpty && (pair s p l).replay.isEmpty)

/-- Every flit sent has been acknowledged: step 3. -/
def execFabHandoverDrainDone (p : Plane) (s : State) : Out :=
  match handAt s p.val 2 with
  | some h => .next (if drained s p.val then setHand p.val (some { h with step := 3 }) s else s)
  | none => .next s

/-- HELD lanes back to LIT, undisturbed. A pair that went to RETRAIN meanwhile trains now. -/
def releaseHeldLanes (p : Nat) (s : State) : State :=
  ((List.range 16).filter fun l => (txLane s p l).state = .held).foldl (fun s l =>
    pairLit p l (setTx p l { txLane s p l with state := .lit } s)) (unholdAll p s)

/-- A drain that has not finished within 1 ms is abandoned, to be retried after 100 ms. -/
def drainTimeout (p : Nat) (s : State) : State :=
  match handAt s p 2 with
  | some h =>
    if h.since + 1000000 ≤ s.now then
      let s := setHand p (some { h with step := 0, since := s.now }) (releaseHeldLanes p s)
      logFab p 3 (0x20 + inService s p) 1 2 0 0 s
    else s
  | none => s

/-- The comb switch has moved: step 4, the loops relock to the new comb. -/
def switchDone (p : Nat) (h : FabHand) (s : State) : State :=
  let c := spareOf s p
  let s := setComb p c { fabComb s p c with state := 5 } s
  updFab p (fun f => { f with switch_ := c, hand := some { h with step := 4 } }) s

/-- Transmit lanes sent back to their checks against the comb in service (R217). -/
def recheckLanes (p : Nat) (from_ : List OptState) (s : State) : State :=
  ((List.range 16).filter fun l => from_.contains (txLane s p l).state).foldl (fun s l =>
    unlitLane p l false .checking (setTx p l { txLane s p l with attempts := 0 } s)) s

/-- Step 4 has failed: the switch returns to the old comb and the hand-over is retried once; the second time the new comb is FAILED, and a forced
hand-over retires the plane. -/
def handFailed (p : Nat) (s : State) : State :=
  match handAt s p 4 with
  | none => s
  | some h =>
    let new := inService s p
    let s := updFab p (fun f => { f with switch_ := 1 - new, hand := some { h with step := 0, retried := true, since := s.now } }) s
    let s := setComb p new { fabComb s p new with state := 2 } s
    let s := unholdAll p (recheckLanes p [.lit, .held, .checking, .tuning] s)
    if h.retried = false then s
    else
      let s := setHand p none (setComb p new { fabComb s p new with state := 4, checked := false } s)
      let s := logFab p 3 (0x20 + new) 2 4 0 0 s
      nextTurn (if h.forced then planeRetire p s else s)

/-- Step 5: traffic resumes, the old comb is darkened and FAILED. HELD lanes that have not been checked yet are. -/
def handDone (p : Nat) (h : FabHand) (stallUs : Nat) (s : State) : State :=
  let new := inService s p
  let old := spareOf s p
  let s := unholdAll p (recheckLanes p [.held] s)
  let s := setComb p new { fabComb s p new with state := 3, warned := false, scheduled := false, forced := false } s
  let s := setComb p old { fabComb s p old with state := 4, checked := false, unlocked := false } s
  nextTurn (logFab p 2 (0x20 + new) old new (if h.forced then 2 else 1) stallUs (setHand p none s))

/-- Step 4 ends. -/
def relockDone (p : Nat) (ok : Bool) (stallUs : Nat) (s : State) : State :=
  match handAt s p 4 with
  | some h => if ok then handDone p h stallUs s else handFailed p s
  | none => s

/-- 100 ms after an abandoned or failed hand-over it is tried again. -/
def execFabHandoverRetry (p : Plane) (s : State) : Out :=
  match handAt s p.val 0 with
  | some h => .next (if h.turn = false ∧ h.since + 100000000 ≤ s.now then enterHand p.val h s else s)
  | none => .next s

/-- The comb in service has not relocked within 2 ms (R222). -/
def execFabCombRelockTimeout (p : Plane) (s : State) : Out :=
  let k := fabComb s p.val (inService s p.val)
  if k.unlocked ∧ (fab s p.val).txRetired = false ∧ k.lostAt + 2000000 ≤ s.now then .next (askForced p.val s) else .next s

/-! ### FAB_TAP_SEL (R228) -/

/-- A write to FAB_TAP_SEL latches a reading and its baseline. -/
def execFabTapSelWrite (p : Plane) (v : Word) (s : State) : Out :=
  let off := 0x100200 + 0x10000 * p.val
  if blockHeld s off then .next (heldWrite off v s)
  else
    let v := v &&& 0x0000071F
    let code := fld v 8 3
    let i := fld v 0 5
    let zero := decide (6 ≤ code) || ((code == 2 || code == 5) && decide (16 ≤ i))
    let pwr := if zero then 0 else tapRead s p.val code i
    let base := if zero then 0 else if code < 2 then commission s p.val code i else tapBase s p.val code i
    .next (updFab p.val (fun f => { f with tapSel := v, tapPwr := pwr, tapBase := base }) s)

end Sys2Proof.Machine
end

