-- ==== Sys2Proof/Machine/Locks.lean ====
section
/-! DEFINITION. Lock loops and pilot checks of compute and fabric elements (R102 to R105, R217, R222). -/

namespace Sys2Proof.Machine

/-! ### Elements -/

/-- The lane of a fabric element: plane, lane, receive side. A demultiplexer filter's is the transmit lane lit on its line. -/
def elLane (s : State) : Element → Option (Nat × Nat × Bool)
  | .fabDemux p line =>
    ((List.range 16).find? fun l => (txLane s p.val l).state ≠ .dark ∧ (txLane s p.val l).chan = line.val).map fun l => (p.val, l, false)
  | .fabXbar p l => some (p.val, l.val, false)
  | .fabDrop p l => some (p.val, l.val, true)
  | _ => none

/-- Kind and number of a fabric element in records (R229). -/
def elKind : Element → Nat × Nat × Nat
  | .fabComb p n => (p.val, 1, n.val)
  | .fabDemux p line => (p.val, 2, line.val)
  | .fabXbar p l => (p.val, 3, l.val)
  | .fabDrop p l => (p.val, 4, l.val)
  | _ => (0, 0, 0)

/-- A fabric element's record: kind, line, lane or comb, channel, and a last parameter. -/
def logEl (el : Element) (low last : Nat) (s : State) : State :=
  let k := elKind el
  match el, elLane s el with
  | .fabComb _ n, _ => logFab k.1 low (0x20 + n.val) k.2.1 k.2.2 0 last s
  | _, some (p, l, rx) => logFab k.1 low (laneNo l rx) k.2.1 k.2.2 (laneSt s p l rx).chan last s
  | _, none => logFab k.1 low 0 k.2.1 k.2.2 0 last s

/-- The step of a correction as records give it: channels towards the expected line, or 0x7F. -/
def stepCode : PilotResult → Nat
  | .pass => 0
  | .neighbour d => satWord (-d)
  | .order => 0x7F

/-! ### Lock lost (R102, R222) -/

/-- A row trim loses lock: its row's results count as FS² uncertain, it is flagged, 0x8034. -/
def rowLockLost (g e row : Nat) (s : State) : State :=
  let o := ote s g e
  let r := Tbl.get {} o.rows row
  let s := setOte g e { o with rows := Tbl.set o.rows row { r with unlocked := true } } s
  if row = o.bench then s
  else
    let logical := ((List.range 64).find? fun i => physOf o.map i = row).getD 127
    logCore g 0x34 e row logical 0 (updOte g e (flagRow s.now row) s)

/-- A compute comb in service loses lock: every in-service row that it lights counts as one that has lost lock (R102). -/
def litRowsLost (c slot : Nat) (s : State) : State :=
  ((slotEngines c slot).filter fun x => (core s x.1).state ≠ .absent ∧ (core s x.1).state ≠ .fenced).foldl (fun s x =>
    (List.range 64).foldl (fun s i =>
      let row := physOf (ote s x.1 x.2).map i
      logCore x.1 0x34 x.2 row i 0 (updOte x.1 x.2 (flagRow s.now row) s)) s) s

/-- A compute comb loses lock. -/
def combLockLost (c n : Nat) (s : State) : State :=
  let s := updComb c n (fun k => { k with unlocked := true, relocking := true, lostAt := if k.unlocked then k.lostAt else s.now }) s
  match combSlot s c n with
  | some j => litRowsLost c j s
  | none => s

/-- A demodulated error has stayed above 5 times its locked rms for 2 µs. -/
def execLockLost (el : Element) (s : State) : Out :=
  match el with
  | .rowTrim g e row => .next (rowLockLost g e row s)
  | .compComb c n => .next (combLockLost c n s)
  | .fabComb p n =>
    let k := fabComb s p n
    .next (logEl el 5 0 (setComb p n { k with unlocked := true, checked := false, attempts := 0, lostAt := s.now } s))
  | _ =>
    let s := logEl el 5 0 s
    match elLane s el with
    | some (p, l, rx) =>
      let k := laneSt s p l rx
      let s := setLane p l rx { k with unlocked := true } s
      if k.state = .lit then .next (unlitLane p l rx .tuning s) else .next s
    | none => .next s

/-! ### Relocked (R102, R104) -/

/-- An element has relocked and is to be checked. -/
def execRelockComplete (el : Element) (s : State) : Out :=
  match el with
  | .rowTrim _ _ _ => .next s
  | .compComb c n => .next (updComb c n (fun k => { k with relocking := false }) s)
  | .fabComb _ _ => .next s
  | _ =>
    match elLane s el with
    | some (p, l, rx) =>
      let k := laneSt s p l rx
      if k.state = .tuning then .next (setLane p l rx { k with state := .checking } s)
      else if k.state = .held ∧ handStep s p = 4 then .next (unlitLane p l rx .checking (setLane p l rx { k with attempts := 0 } s))
      else .next s
    | none => .next s

/-! ### Pilot checks (R104, R105) -/

/-- A row that fails its calibration (R98), whichever row it is. -/
def rowCalFail (g e row : Nat) (s : State) : State :=
  let o := ote s g e
  if row = o.bench then calFail g e 4 s
  else
    let r := Tbl.get {} o.rows row
    let n := min 15 (r.fails + 1)
    let s := logCore g 0x30 e row 4 n s
    let s := setOte g e { o with rows := Tbl.set o.rows row { r with fails := n, retired := decide (2 ≤ n) } } s
    if n < 2 then s
    else fenceCore g 4 (coreFault g 3 (logCore g 0x31 e row 0 0 (updOte g e (fun o => { o with calState := 3 }) s)))

/-- A row trim's check ends. -/
def rowPilot (g e row : Nat) (res : PilotResult) (s : State) : State :=
  let o := ote s g e
  let r := Tbl.get {} o.rows row
  let isBench := row == o.bench
  match res with
  | .pass =>
    let o := { o with rows := Tbl.set o.rows row { r with unlocked := false, attempts := 0 } }
    setOte g e (if isBench && o.void then newSlot s.now o else o) s
  | _ =>
    let pf := satAdd 255 r.pilotFails 1
    if 3 ≤ r.attempts then
      let s := setOte g e { o with rows := Tbl.set o.rows row { r with pilotFails := pf, attempts := 0 } } s
      rowCalFail g e row (logCore g 0x33 1 e row 3 s)
    else
      let s := setOte g e { o with rows := Tbl.set o.rows row { r with pilotFails := pf, attempts := r.attempts + 1 },
                                   void := o.void || (isBench && decide (o.phase ≤ 9)) } s
      logCore g 0x32 1 e row (stepCode res) s

/-- A standby comb that is lost: the cluster has none, and a hand-over that needs it ends. -/
def standbyLost (c n : Nat) (s : State) : State :=
  let s := updComb c n (fun k => { k with state := 4 }) s
  let s := updClu c (fun k => { k with combMap := setFld k.combMap 8 1 0 }) s
  match (clu s c).handover with
  | none => s
  | some h =>
    let s := resumeSlot c h.slot (updClu c (fun k => { k with handover := none }) s)
    let s := logClu c 0x37 h.slot 3 0 0 s
    nextHandover c (if h.forced then combSlotLost c h.slot s else s)

/-- A compute comb's check ends. -/
def combPilot (c n : Nat) (res : PilotResult) (s : State) : State :=
  let k := comb s c n
  match res with
  | .pass => updComb c n (fun k => { k with unlocked := false, attempts := 0, relocking := false }) s
  | _ =>
    let pf := satAdd 255 k.pilotFails 1
    if 3 ≤ k.attempts then
      let s := updComb c n (fun k => { k with pilotFails := pf, attempts := 0 }) s
      let s := logClu c 0x33 2 n 0 3 s
      match combSlot s c n with
      | some j => callHandover c j true s
      | none => standbyLost c n s
    else logClu c 0x32 2 n 32 (stepCode res) (updComb c n (fun k => { k with pilotFails := pf, attempts := k.attempts + 1 }) s)

/-- A fabric comb's check ends. -/
def fabCombPilot (p n : Nat) (el : Element) (res : PilotResult) (s : State) : State :=
  let k := fabComb s p n
  match res with
  | .pass => setComb p n { k with unlocked := false, attempts := 0 } s
  | _ =>
    let pf := satAdd 255 k.pilotFails 1
    if 3 ≤ k.attempts then
      let s := logEl el 7 3 (setComb p n { k with pilotFails := pf, attempts := 0 } s)
      if n = inService s p then (if handStep s p = 4 then handFailed p s else askForced p s)
      else
        let s := setComb p n { fabComb s p n with state := 4, checked := false } s
        match (fab s p).hand with
        | some h =>
          let s := updFab p (fun f => { f with hand := none }) s
          nextTurn (if h.forced then planeRetire p s else unholdAll p s)
        | none => s
    else logEl el 6 (stepCode res) (setComb p n { k with pilotFails := pf, attempts := k.attempts + 1 } s)

/-- A fabric lane's check ends (R217). In a survey a receive lane that finds no light is left as it is (R257); a lane's third failure in step 4 of a
hand-over fails the hand-over (R224). -/
def lanePilot (p l : Nat) (rx : Bool) (el : Element) (res : PilotResult) (s : State) : State :=
  let k := laneSt s p l rx
  if k.state ≠ .checking then s
  else match res with
    | .pass => litLane p l rx s
    | _ =>
      let pf := satAdd 255 k.pilotFails 1
      if 3 ≤ k.attempts ∧ rx ∧ surveying s p then setLane p l rx { k with pilotFails := pf } s
      else if 3 ≤ k.attempts ∧ rx = false ∧ handStep s p = 4 then
        handFailed p (logEl el 6 (stepCode res) (setLane p l rx { k with pilotFails := pf } s))
      else if 3 ≤ k.attempts then
        let s := logEl el 7 3 (setLane p l rx { k with pilotFails := pf } s)
        failLane p l rx 7 [(elKind el).2.1, (elKind el).2.2, k.chan, 3] s
      else
        let s := logEl el 6 (stepCode res) s
        setLane p l rx { k with state := .tuning, pilotFails := pf, attempts := k.attempts + 1 } s

/-- A 200 µs pilot check ends. -/
def execPilotCheckEnd (el : Element) (res : PilotResult) (s : State) : Out :=
  match el with
  | .rowTrim g e row => .next (rowPilot g e row res s)
  | .compComb c n => .next (combPilot c n res s)
  | .fabComb p n => .next (fabCombPilot p n el res s)
  | _ =>
    match elLane s el with
    | some (p, l, rx) => .next (lanePilot p l rx el res s)
    | none => .next s

end Sys2Proof.Machine
end

