-- ==== Sys2Proof/Machine/Plan.lean ====
section
/-! DEFINITION. What the active steward decides from the gazetteers (R259), the planner (R264), and the removal state (R439). -/

namespace Sys2Proof.Machine

def onSteer (f : SteerSt → SteerSt) (s : State) : State := { s with steer := f s.steer }
def onStew (f : StewSt → StewSt) (s : State) : State := { s with stew := f s.stew }

/-! ### Pod offsets (R259) -/

/-- A member's gazetteer record of a plane as it reported it. -/
def reported (s : State) (m p : Nat) : Option GazRec := (s.steer.reports.find? fun q => q.1 = m).bind fun q => q.2[p]?

/-- Members of the configuration held. -/
def cfgMembers (s : State) : List Nat := match s.stew.cfg with
  | some c => (List.range 32).filter fun m => bit c.members m
  | none => []

/-- The OFFSETs that SURVEYED members report of a plane. -/
def offsetsOf (s : State) (p : Nat) : List Nat :=
  (s.steer.reports.filter fun q => (cfgMembers s).contains q.1).filterMap fun q => match q.2[p]? with
    | some g => if g.state = 2 then some g.offset.toNat else none
    | none => none

/-- The value most members report; with equal counts the one held, or the lowest. -/
def podOffsetOf (held : Nat) (os : List Nat) : Nat :=
  if os.isEmpty then held
  else
    let best := (List.range 32).foldl (fun n v => max n (os.count v)) 0
    let tops := (List.range 32).filter fun v => os.count v = best
    if tops.contains held then held else tops.headD held

/-- A plane's pod offset, 0xFF when unknown. -/
def podOffset (s : State) (p : Nat) : Nat := Tbl.get 0xFF s.steer.podOffset p

/-- Whether a plane is SURVEYED and consistent at a member (R259, R264). -/
def planeOk (s : State) (m p : Nat) : Bool :=
  match reported s m p with
  | some g => g.state == 2 && g.offset.toNat == podOffset s p
  | none => false

/-! ### Members that are charted -/

/-- The member table's record of a module. -/
def member (s : State) (m : Nat) : Member := Tbl.get {} s.stew.members m

/-- Whether the steward charts a member: it has reported, and is neither excluded nor failed. -/
def chartable (s : State) (m : Nat) : Bool :=
  (s.steer.reports.any fun q => q.1 = m) && !s.steer.wrongSlot.contains m && decide ((member s m).state ≠ 4) && decide ((member s m).state ≠ 5)

/-- The members a new chart lists. -/
def planMembers (s : State) : List Nat := (cfgMembers s).filter (chartable s)

/-- Whether a member has 16 planes. -/
def isWide (s : State) (m : Nat) : Bool := match s.steer.reports.find? fun q => q.1 = m with
  | some q => decide (8 < q.2.length) && q.2.any fun g => decide (g.state ≠ 4)
  | none => false

/-- A set of modules as a mask. -/
def maskOf (ms : List Nat) : Nat := ms.foldl (fun n m => n + 2 ^ m) 0

/-! ### Wishes, floor and shares (R264 steps 1 to 3) -/

/-- Pairs of modules, ascending. -/
def pairsOf (ms : List Nat) : List (Nat × Nat) := ms.flatMap fun a => (ms.filter fun b => a < b).map fun b => (a, b)

/-- Planes that both have. -/
def common (s : State) (a b : Nat) : Nat := if isWide s a && isWide s b then 16 else 8

/-- The wish of a pair: the largest lane count that a context of either module has asked for to the other, or 16 when no demand is in force. -/
def wish (s : State) (a b : Nat) : Nat :=
  let ds := s.steer.demand
  let w := if ds.isEmpty then 16
    else ds.foldl (fun n d => max n (if d.1 / 4 = a then d.2.getD b 0 else if d.1 / 4 = b then d.2.getD a 0 else 0)) 0
  min w (common s a b)

/-- The share of each pair of a module in its remaining lanes, by largest remainder; ties to the lower pair. `ps`: its pairs with their unmet
wishes. -/
def shares (rem : Nat) (ps : List ((Nat × Nat) × Nat)) : List ((Nat × Nat) × Nat) :=
  let total := ps.foldl (fun n p => n + p.2) 0
  if total ≤ rem then ps
  else
    let base := ps.map fun p => (p.1, rem * p.2 / total)
    let left := rem - base.foldl (fun n p => n + p.2) 0
    let rest := ps.map fun p => rem * p.2 % total
    let wins := fun (i : Nat) => decide (((List.range ps.length).filter fun j =>
      decide (rest.getD i 0 < rest.getD j 0) || (rest.getD i 0 == rest.getD j 0 && decide (j < i))).length < left)
    base.zipIdx.map fun p => (p.1.1, p.1.2 + b2n (wins p.2))

/-- Lanes granted to each pair with a wish. -/
def grants (s : State) (ms : List Nat) : List ((Nat × Nat) × Nat) :=
  let ps := ((pairsOf ms).map fun p => (p, wish s p.1 p.2)).filter fun p => 1 ≤ p.2
  let mine := fun m => (ps.filter fun p => p.1.1 == m || p.1.2 == m)
  let share := fun m => shares (16 * (if isWide s m then 16 else 8) - (mine m).length) ((mine m).map fun p => (p.1, p.2 - 1))
  let tab := ms.map fun m => (m, share m)
  let of_ := fun m (p : Nat × Nat) => match tab.find? fun t => t.1 = m with
    | some t => ((t.2.find? fun q => q.1 = p).map Prod.snd).getD 0
    | none => 0
  ps.map fun p => (p.1, 1 + min (of_ p.1.1 p.1) (of_ p.1.2 p.1))

/-! ### Placement (R264 steps 4, 5) -/

/-- Whether a pair may run on a plane. -/
def usablePair (s : State) (p a b : Nat) : Bool :=
  planeOk s a p && planeOk s b p && !s.steer.failedPairs.contains (p, a, b) && (decide (p < 8) || (isWide s a && isWide s b))
    && !s.steer.retiredLanes.contains (p, a) && !s.steer.retiredLanes.contains (p, b)

/-- Lanes of a module in use on a plane. -/
def laneUse (es : List ChEnt) (p m : Nat) : Nat := (es.filter fun e => e.plane == p && (e.a == m || e.b == m)).length

/-- An entry added where both ends have a free lane. -/
def placeOne (e : ChEnt) (es : List ChEnt) : List ChEnt :=
  if laneUse es e.plane e.a < 16 ∧ laneUse es e.plane e.b < 16 ∧ (es.any fun x => x.plane == e.plane && x.a == e.a && x.b == e.b) = false then es ++ [e]
  else es

/-- Entries kept where pairs already run, keeping their FROM. -/
def keepOld (s : State) (prev : List ChEnt) (es : List ChEnt) (g : (Nat × Nat) × Nat) : List ChEnt :=
  let old := (prev.filter fun e => e.a == g.1.1 && e.b == g.1.2 && !e.loop && usablePair s e.plane e.a e.b).take g.2
  old.foldl (fun es e => placeOne e es) es

/-- The rest of a pair's lanes on the lowest planes free at both ends. -/
def placeNew (s : State) (edition : Half16) (es : List ChEnt) (g : (Nat × Nat) × Nat) : List ChEnt :=
  (List.range 16).foldl (fun es p =>
    let have_ := (es.filter fun e => e.a == g.1.1 && e.b == g.1.2).length
    if have_ < g.2 ∧ usablePair s p g.1.1 g.1.2 then placeOne ⟨p, false, g.1.1, g.1.2, edition⟩ es else es) es

/-- Entries in ascending order. -/
def insertEnt (e : ChEnt) : List ChEnt → List ChEnt
  | [] => [e]
  | x :: t => if entKey e ≤ entKey x then e :: x :: t else x :: insertEnt e t
def sortEnts (es : List ChEnt) : List ChEnt := es.foldl (fun l e => insertEnt e l) []

/-- The entries of a new chart. -/
def planEntries (s : State) (ms : List Nat) (prev : List ChEnt) (edition : Half16) : List ChEnt :=
  let gs := grants s ms
  let kept := gs.foldl (keepOld s prev) []
  sortEnts (gs.foldl (placeNew s edition) kept)

/-- Lanes placed and wished by pair of members, as CHART_READ reports them (R264, R273). -/
def lanesPlaced (s : State) (c : List Byte) : List Byte :=
  (pairsOf ((List.range 32).filter (chMember c))).flatMap fun p =>
    [BitVec.ofNat 8 ((chEnts c).filter fun e => e.a == p.1 && e.b == p.2 && !e.loop).length, BitVec.ofNat 8 (wish s p.1 p.2)]

end Sys2Proof.Machine
end

