-- ==== Sys2Proof/Machine/Link.lean ====
section
/-! DEFINITION. The Ullos link: training, replay and credits, flit slots, segments in and out, notices (R230 to R250). -/

namespace Sys2Proof.Machine

/-! ### Segments that a pair takes with it (R244) -/

/-- A transfer ended REMOTE at the sender, with its record. -/
def endRemote (o : SegOut) (cause : Nat) (s : State) : State :=
  let s := { s with link := { s.link with outs := s.link.outs.erase o } }
  logFab o.plane 0x15 o.lane o.peer o.tag cause o.d.sctx.val (xferFail o.xfer 6 o.peer s)

/-- One segment or read of a pair that has gone OFF or DOWN. -/
def moveSeg (o : SegOut) (s : State) : State :=
  if o.kind = 2 then endRemote o 3 s
  else if charted s o.peer = false then endRemote o 2 s
  else if o.resent then s
  else match pickPair s o.peer with
    | none => s
    | some (p, l) =>
      let o' := { o with plane := p, lane := l, resent := true }
      let s := { s with link := { s.link with outs := s.link.outs.map fun x => if x = o then o' else x } }
      enqueue p l (segFlits o.kind o.tc o.d (pieceBytes s o.piece)) s

/-- Every segment and read of a pair without an answer. -/
def pairGone (p l : Nat) (s : State) : State :=
  (s.link.outs.filter fun o => o.plane = p ∧ o.lane = l).foldl (fun s o => moveSeg o s) s

/-- Segments refused or dropped on edition, recorded at most once per ms (0x13). -/
def edDrop (p l n : Nat) (e : Half16) (s : State) : State :=
  if n = 0 then s
  else
    let k := pair s p l
    let c := k.edDrops + n
    let s := countAt (0x104000 + 0x10000 * p) 16 0x0C l n true s
    let key := fabSrc p 0x13 * 4096 + l
    if rateOk s key 1000000 then
      logFab p 0x13 l c e.toNat k.from_.toNat s.steer.edition.toNat (rateMark key (setPair p l { k with edDrops := 0 } s))
    else setPair p l { k with edDrops := c } s

/-- A pair as it goes OFF because a chart removes it (R236): its receive buffer and held segments are dropped and counted, its replay buffer is
cleared. -/
def pairClear (p l : Nat) (s : State) : State :=
  let k := pair s p l
  let held := k.wait.filterMap fun f => match f.body with
    | .seg _ d => some d.edition
    | .rdreq d => some d.edition
    | _ => none
  let s := edDrop p l held.length (held.getLastD 0) s
  setPair p l { retrains := k.retrains, trainFails := k.trainFails, replays := k.replays, discards := k.discards,
                edDrops := (pair s p l).edDrops } s

/-- A pair OFF, and its segments without an answer dealt with. -/
def pairOff (p l : Nat) (s : State) : State := pairGone p l (pairClear p l s)

/-! ### Training (R233 to R236) -/

/-- A training phase has failed: from EQ again, or the third time DOWN. -/
def trainFail (p l cause : Nat) (s : State) : State :=
  let k := pair s p l
  let s := setPair p l { k with trainFails := satAdd 255 k.trainFails 1, fails := k.fails + 1 } s
  if k.fails < 2 then sendTrain p l (updPair p l (fun k => { k with attempt := k.attempt + 1, phase := 1 }) s)
  else
    let s := updPair p l (fun k => { k with state := .down, phase := 0 }) s
    let s := logFab p 0x11 l k.peer k.phase cause (k.fails + 1) s
    pairGone p l (report [fabSrc p 0x11, fabSrc p l, k.peer, k.phase, cause, k.fails + 1] s)

/-- Whether a pair trains now. -/
def training (k : Pair) : Bool := (k.state == .train || k.state == .retrain) && decide (1 ≤ k.phase)

/-- AGREE is complete: UP, with link state begun afresh when it arrives from OFF. -/
def trainDone (p l us : Nat) (peerFrom : Half16) (peerCode : Nat) (s : State) : State :=
  let k := pair s p l
  let k := if k.fresh then { k with next := 0, acked := 0xFFF, unacked := [], replay := [], nakAt := none, expect := 0, nak := false,
                                    cred := (224, 224, 32), peerCr := (0, 0, 0), freed := (0, 0, 0), wait := [], segs := [] }
    else k
  let s := setPair p l { k with state := .up, phase := 0, attempt := 0, fails := 0, fresh := false, quick := false, peerFrom := peerFrom, laneDue := true,
                                timeouts := 0, sameReplays := 0, codeNext := peerCode } s
  logFab p 0x10 l k.peer peerCode k.rxcode us s

/-- A pair that goes on to a phase of its training, and what its lane then sends. -/
def toPhase (p l n : Nat) (s : State) : State := sendTrain p l (updPair p l (fun k => { k with phase := n }) s)

/-- A plane's offset as the gazetteer holds it (R256). -/
def gazOffset (s : State) (p : Nat) : Nat := (Tbl.get {} s.steer.gaz p).offset

/-- A phase of training ends here: EQ when the equaliser has adapted, the others only with a whole training frame of the peer's that shows the
phase or a later one (R234, R235). The pair of a loop test goes from MEASURE back to EQ (R273). -/
def execTrainingPhaseComplete (p : Plane) (l : Lane) (f : TrainFrame) (ber : Word) (us : Nat) (s : State) : Out :=
  let k := pair s p.val l.val
  if training k = false then .next s
  else if k.phase = 1 then .next (toPhase p.val l.val 2 s)
  else if trainGood f = false ∨ f.phase < k.phase then .next s
  else match k.phase with
    | 2 =>
      if trainIdOk f (me s) p.val (rxLane s p.val k.rxLane).chan (gazOffset s p.val) then .next (toPhase p.val l.val (if k.quick then 4 else 3) s)
      else .next (trainFail p.val l.val 3 s)
    | 3 =>
      let short := decide (ber.toNat ≤ 1000000) && bit (fab s p.val).ullCfg 16
      if s.steer.loops.any fun x => x.plane == p.val && x.tx == l.val then
        .next (toPhase p.val l.val 1 (setPair p.val l.val { k with berRx := ber } s))
      else
      .next (toPhase p.val l.val 4 (setPair p.val l.val { k with berRx := ber, rxcode := if short then 2 else 1 } s))
    | _ => if f.code = 0 ∨ f.code = 3 then .next s else .next (trainDone p.val l.val us f.from_ f.code.val s)

/-- The bound of a training phase in ns: EQ, shorter in a quick retrain, LOCK, MEASURE and AGREE (R234). -/
def phaseBound (k : Pair) : Nat := if k.phase = 1 then (if k.quick then 50000 else 250000) else if k.phase = 2 then 50000 else 100000

/-- A phase is over its bound. -/
def execTrainingPhaseTimeout (p : Plane) (l : Lane) (cause : Nat) (s : State) : Out :=
  let k := pair s p.val l.val
  if training k ∧ k.phase ≠ 0 ∧ k.phaseAt + phaseBound k ≤ s.now then .next (trainFail p.val l.val cause s) else .next s

/-- The second superframe after both ends show AGREE: the transmit lane takes the code that its peer chose (R234). -/
def execCodeSwitch (p : Plane) (l : Lane) (s : State) : Out :=
  let k := pair s p.val l.val
  match k.state with
  | .up => .next (setPair p.val l.val { k with code := k.codeNext } s)
  | .active => .next (setPair p.val l.val { k with code := k.codeNext } s)
  | _ => .next s

/-- A lane on RS(272,257) has passed 2 × 10⁻⁵ over 10 s: the pair retrains with RS(544,514). -/
def execShortCodeBerExceeded (p : Plane) (l : Lane) (s : State) : Out :=
  let k := pair s p.val l.val
  if k.rxcode = 2 then .next (retrainOn p.val l.val 7 (setPair p.val l.val { k with rxcode := 1 } s)) else .next s

/-- 8 consecutive uncorrectable codewords (R239). -/
def execCodewordLockLost (p : Plane) (l : Lane) (s : State) : Out :=
  .next (retrainOn p.val l.val 3 (countAt (0x104000 + 0x10000 * p.val) 16 8 (pair s p.val l.val).rxLane 8 true s))

/-- A lane's pre-FEC BER over 1 ms exceeds 2.4 × 10⁻⁴ (R239). -/
def execPreFecBerExceeded (p : Plane) (l : Lane) (s : State) : Out := .next (retrainOn p.val l.val 4 s)

/-- A DOWN pair trains again (R236): attempts 0. -/
def startAgain (p l : Nat) (s : State) : State :=
  sendTrain p l (updPair p l (fun k => { k with state := .train, attempt := 0, fails := 0, quick := false,
                                                phase := if bothLit s p l then 1 else 0 }) s)

/-- RETRAIN bits taking effect in ULL_CTL (R254). -/
def retrainBit (p l : Nat) (s : State) : State :=
  let k := pair s p l
  match k.state with
  | .down => startAgain p l s
  | _ => retrainOn p l 6 s

/-- A write to ULL_CTL taking effect. -/
def execPairRetrainCmd (p : Plane) (mask : Half16) (s : State) : Out :=
  .next (((List.range 16).filter fun l => bit mask l).foldl (fun s l => retrainBit p.val l s) s)

/-! ### Replay (R239) -/

/-- A replay begun from the oldest flit not acknowledged. -/
def startReplay (p l : Nat) (s : State) : State :=
  let k := pair s p l
  let s := setPair p l { k with replay := k.unacked, replays := satAdd 0xFFFF k.replays 1, sameReplays := k.sameReplays + 1 } s
  let s := countFab p 5 l s
  if 8 ≤ k.sameReplays + 1 then retrainOn p l 1 s else s

/-- No advance of ACK for 10 µs with flits outstanding. -/
def execAckTimeout (p : Plane) (l : Lane) (s : State) : Out :=
  let k := pair s p.val l.val
  if k.unacked.isEmpty ∨ s.now < k.ackAt + 10000 then .next s
  else
    let s := startReplay p.val l.val (setPair p.val l.val { k with timeouts := k.timeouts + 1, ackAt := s.now } s)
    .next (if 4 ≤ k.timeouts + 1 then retrainOn p.val l.val 2 s else s)

/-- An acknowledgement taken: flits up to it leave the replay buffer. -/
def takeAck (now ack : Nat) (k : Pair) : Pair :=
  let n := (ack + 4096 - k.acked) % 4096
  if n = 0 ∨ k.unacked.length < n then k
  else
    let left := k.unacked.drop n
    { k with acked := ack, ackAt := now, unacked := left, replay := k.replay.filter fun f => left.any fun g => g.seq == f.seq, timeouts := 0,
             sameReplays := 0, nakAt := none }

/-- Credits taken back for one class. -/
def credBack (depth have_ old new : Nat) : Nat := min depth (have_ + (new + 256 - old) % 256)

/-- The credit counts of a flit taken. -/
def takeCredits (h : FlitHdr) (k : Pair) : Pair :=
  let n := (h.cr0.toNat, h.cr1.toNat, h.cr2.toNat)
  { k with cred := (credBack 224 k.cred.1 k.peerCr.1 n.1, credBack 224 k.cred.2.1 k.peerCr.2.1 n.2.1, credBack 32 k.cred.2.2 k.peerCr.2.2 n.2.2),
           peerCr := n }

/-- The link fields of a good flit. -/
def linkFields (h : FlitHdr) (s : State) : State :=
  let p := h.p.val
  let l := h.l.val
  let s := updPair p l (fun k => takeCredits h (takeAck s.now h.ack.toNat k)) s
  let k := pair s p l
  if h.nak then
    if k.nakAt = some h.ack.toNat ∧ k.replay ≠ [] then s
    else startReplay p l (setPair p l { k with nakAt := some h.ack.toNat } s)
  else s

/-- Whether a pair receives flits. -/
def receiving (k : Pair) : Bool := k.state == .up || k.state == .active

/-- A bad flit: discarded, and every flit then sent asks for a replay. -/
def badFlit (h : FlitHdr) (s : State) : State :=
  let p := h.p.val
  let l := h.l.val
  countFab p 9 (pair s p l).rxLane (updPair p l (fun k => { k with nak := true, discards := k.discards + 1 }) s)

/-- Whether a flit is bad: a bit of it lies in an uncorrectable codeword, or its CRC is wrong (R232, R237). -/
def flitBad (s : State) (h : FlitHdr) (type : Nat) (tag : Nat × Nat × Bool) (payload : List Byte) : Bool :=
  flitLost (decide ((pair s h.p.val h.l.val).rxcode = 2)) h || !crcGood h type tag.1 tag.2.1 tag.2.2 payload

/-- An unsequenced flit. -/
def unsequenced (h : FlitHdr) (type : Nat) (payload : List Byte) (s : State) (act : State → State) : State :=
  if receiving (pair s h.p.val h.l.val) = false then s
  else if flitBad s h type (0, 0, false) payload then badFlit h s
  else act (linkFields h s)

/-- A sequenced flit: accepted in order once, else discarded. -/
def sequenced (h : FlitHdr) (b : FlitBody) (s : State) (act : State → State) : State :=
  let p := h.p.val
  let l := h.l.val
  if receiving (pair s p l) = false then s
  else if flitBad s h (bodyType b) (bodyTag b) (bodyPayload b) then badFlit h s
  else
    let s := linkFields h s
    let k := pair s p l
    if h.seq.toNat = k.expect then
      act (countFab p 3 l (setPair p l { k with expect := (k.expect + 1) % 4096, nak := false } s))
    else
      let behind := (k.expect + 4096 - h.seq.toNat) % 4096
      if 1 ≤ behind ∧ behind ≤ 256 then setPair p l { k with discards := k.discards + 1 } s
      else setPair p l { k with nak := true, discards := k.discards + 1 } s

/-- A flit freed from the receive buffer. -/
def freeFlit (p l tc : Nat) (s : State) : State :=
  updPair p l (fun k => { k with freed :=
    (if tc = 0 then ((k.freed.1 + 1) % 256, k.freed.2.1, k.freed.2.2)
     else if tc = 1 then (k.freed.1, (k.freed.2.1 + 1) % 256, k.freed.2.2)
     else (k.freed.1, k.freed.2.1, (k.freed.2.2 + 1) % 256)) }) s

/-! ### Notices out (R243) -/

/-- Up to 15 waiting notice entries put into a NOTICE flit. -/
def flushNotices (p l : Nat) (s : State) : State :=
  let k := pair s p l
  if k.notices.isEmpty then s
  else setPair p l { k with notices := k.notices.drop 15, noticeAt := s.now,
                            queue := k.queue ++ [{ tc := 2, body := .notice (k.notices.take 15) }] } s

/-- A notice entry added; with 15 waiting they are sent. -/
def addNotice (p l : Nat) (e : NoticeEntry) (s : State) : State :=
  let k := pair s p l
  let s := setPair p l { k with notices := k.notices ++ [e], noticeAt := if k.notices.isEmpty then s.now else k.noticeAt } s
  let s := if e.kind = 2 then countAt (0x104000 + 0x10000 * p) 16 0x0D 0 1 false s else s
  if 15 ≤ k.notices.length + 1 then flushNotices p l s else s

/-- A segment's notice entry. -/
def noticeOf (kind cause : Nat) (d : SegDesc) (bytes : Nat) : NoticeEntry :=
  { kind := kind, cause := BitVec.ofNat 8 cause, sgen := d.sgen, sctx := d.sctx, tag := d.tag, bytes := bytes }

/-- 1 µs after the oldest entry. -/
def execNoticeFlush (p : Plane) (l : Lane) (s : State) : Out := .next (flushNotices p.val l.val s)

/-! ### The checks of R247 -/

/-- What the checks say of a segment or request. -/
inductive Verdict
  | hold | edition | gone | unbound | late
  | refused (x : AccErr)
  | pass (a : Nat)

/-- GENs over 1–255: whether a is older than b, or newer (R246). -/
def genDiff (a b : Byte) : Nat := (a.toNat + 255 - b.toNat % 255) % 255
def genOlder (a b : Byte) : Bool := decide (128 ≤ genDiff a b)
def genNewer (a b : Byte) : Bool := decide (1 ≤ genDiff a b) && decide (genDiff a b ≤ 127)

/-- The requester that an inbound access counts as: its destination context (R247 step 5). -/
def whoPeer (s : State) (c : Nat) : Who := ⟨some c, true, s.hst.force, []⟩

/-- The address of an inbound access checked as R148. -/
def checkIn (s : State) (c : Nat) (da len : Nat) (write : Bool) : Except AccErr Nat :=
  if bits da 53 2 = 3 then .error .space
  else if innerOk da len = false then .error .address
  else match checkLocal s (whoPeer s c) (innerDa da) len write with
    | .error e => .error e
    | .ok (.here a) => .ok a
    | .ok (.peer _ _) => .error .address

/-- Steps 1 to 5, in order. -/
def verdict (s : State) (p l : Nat) (d : SegDesc) (write : Bool) : Verdict :=
  let c := s.steer.edition
  let f := (pair s p l).from_
  if 0 < edDiff d.edition c then .hold
  else if edDiff d.edition f < 0 then .edition
  else if (ctx s d.dctx.val).created = false ∨ (ctx s d.dctx.val).gen ≠ d.dgen then .gone
  else match binding s d.dctx.val d.smod.val with
    | none => .unbound
    | some b =>
      if fld b 8 2 ≠ d.sctx.val then .unbound
      else if genOlder d.sgen (BitVec.ofNat 8 (fld b 0 8)) then .late
      else match checkIn s d.dctx.val d.daddr.toNat d.length write with
        | .error e => .refused e
        | .ok a => .pass a

/-- A newer SGEN taken into the binding (step 4). -/
def takeGen (d : SegDesc) (s : State) : State :=
  let i := 32 * d.dctx.val + d.smod.val
  let b := Tbl.get 0 s.steer.bind i
  if genNewer d.sgen (BitVec.ofNat 8 (fld b 0 8)) then
    { s with steer := { s.steer with bind := Tbl.set s.steer.bind i (setFld b 0 8 d.sgen.toNat) } }
  else s

/-- A late arrival (step 4): dropped, counted and recorded. -/
def lateArrival (p l : Nat) (d : SegDesc) (s : State) : State :=
  let b := Tbl.get 0 s.steer.bind (32 * d.dctx.val + d.smod.val)
  let s := countAt (0x104000 + 0x10000 * p) 16 0x0E 0 1 false s
  let s := { s with rst := { s.rst with lateDrop := incSat s.rst.lateDrop 1, lateSince := s.rst.lateSince + 1 } }
  logFabRate 1000000 p 0x14 l d.smod.val d.sctx.val d.sgen.toNat (fld b 0 8) s

/-- A segment opened on a pair. -/
def openSeg (p l : Nat) (o : OpenSeg) (s : State) : State := updPair p l (fun k => { k with segs := k.segs ++ [o] }) s

/-- A segment whose flits are discarded as they arrive. -/
def openDiscard (p l kind tc : Nat) (d : SegDesc) (s : State) : State :=
  if kind = 2 ∨ d.length = 0 then s else openSeg p l { kind := kind, tc := tc, d := d, place := none } s

/-- What a failed check answers; the data that follows is discarded. -/
def refuse (p l kind tc : Nat) (d : SegDesc) (v : Verdict) (write : Bool) (s : State) : State :=
  let s := openDiscard p l kind tc d s
  match v with
  | .edition => addNotice p l (noticeOf 3 0x11 d 0) (edDrop p l 1 d.edition s)
  | .gone => addNotice p l (noticeOf 2 0 d 0) s
  | .unbound => addNotice p l (noticeOf 3 0x10 d 0) s
  | .late => lateArrival p l d s
  | .refused x => takeGen d (addNotice p l (noticeOf 3 (accStatus x) d 0) (rowReport d.dctx.val (accFail 0 write x) s))
  | _ => s

/-- The core that serves a token's virtual core. -/
def tokenCore (s : State) (d : SegDesc) : Option Nat :=
  match (ctx s d.dctx.val).map[d.tvcore]? with
  | some (some g) => some g.val
  | _ => none

/-- A read request answered on the partner lane (R242). -/
def respond (p l tc : Nat) (d : SegDesc) (a : Nat) (s : State) : State :=
  let s := readRange a d.length (clearFirst a d.length s)
  let bad := badByte s a d.length
  let n := match bad with
    | some b => b - a
    | none => d.length
  let s := match bad with
    | some b => eccDouble b s
    | none => s
  let bs := s.mem.readN a n ++ List.replicate (d.length - n) 0
  let r := { d with smod := Fin.ofNat 32 (me s), poison := bad.isSome, poff := if bad.isSome then n else 0, token := false }
  enqueue p l (segFlits 1 tc r bs) s

/-! ### Transfers' answers (R242, R243) -/

/-- The segment or read of this module that a peer's answer names. -/
def outOf (s : State) (p l : Nat) (tag : Nat) : Option SegOut :=
  s.link.outs.find? fun o => o.peer = (pair s p l).peer ∧ o.tag = tag

def dropOut (o : SegOut) (s : State) : State := { s with link := { s.link with outs := s.link.outs.erase o } }

/-- Whether an answer carries the GEN of the context that asked. -/
def genIsNow (s : State) (c : Ctx) (g : Byte) : Bool := decide ((ctx s c.val).gen = g)

/-- An answered segment: its transfer goes on. -/
def answered (o : SegOut) (bytes : Nat) (s : State) : State :=
  driveX o.xfer (updXfer o.xfer (fun x => { x with live := x.live - 1, wrote := x.wrote + bytes }) (dropOut o s))

/-- One notice entry. -/
def takeNotice (p l : Nat) (s : State) (e : NoticeEntry) : State :=
  match outOf s p l e.tag.toNat with
  | none => s
  | some o =>
    if genIsNow s e.sctx e.sgen = false then lateDrop e.sctx.val e.sgen (dropOut o s)
    else match e.kind with
      | 1 => match o.piece.ends with
        | some x => xferFail o.xfer x.1 x.2 (answered o o.piece.len s)
        | none => answered o (if o.kind = 0 then o.piece.len else 0) s
      | 2 => xferFail o.xfer 6 o.peer (dropOut o s)
      | 3 =>
        let c := e.cause.toNat
        let s := updXfer o.xfer (fun x => { x with wrote := x.wrote + e.bytes }) (dropOut o s)
        if c = 0 ∨ 6 < c then xferFail o.xfer 6 o.peer s else xferFail o.xfer c o.piece.inner s
      | _ => s

/-- The end of a read response. What is to be written on to another peer goes out as a write, of the bytes before a poisoned unit only, with which
the transfer then ends ECC (R242). -/
def readDone (o : SegOut) (g : OpenSeg) (s : State) : State :=
  match o.piece.fwd with
  | none =>
    if g.d.poison then
      xferFail o.xfer 4 o.piece.inner (updXfer o.xfer (fun x => { x with wrote := x.wrote + g.d.poff }) (dropOut o s))
    else answered o o.piece.len s
  | some (m, inner) =>
    if g.d.poison ∧ g.d.poff = 0 then xferFail o.xfer 4 o.piece.inner (dropOut o s)
    else
      let ends := if g.d.poison then some (4, o.piece.inner) else none
      let pc : Piece := { peer := m, read := false, inner := inner, len := g.buf.length, data := some g.buf, ends := ends }
      answered o 0 (updXfer o.xfer (fun x => { x with todo := x.todo ++ [pc] }) s)

/-! ### Flits delivered -/

/-- A READ_RESP matched by tag and GEN (R242). -/
def openResp (p l tc : Nat) (d : SegDesc) (s : State) : State :=
  match outOf s p l d.tag.toNat with
  | none => openDiscard p l 1 tc d s
  | some o =>
    if o.kind ≠ 3 then openDiscard p l 1 tc d s
    else if genIsNow s o.d.sctx d.sgen = false then
      openDiscard p l 1 tc d (lateDrop o.d.sctx.val d.sgen (dropOut o s))
    else openSeg p l { kind := 1, tc := tc, d := d, place := if o.piece.fwd.isSome then none else some o.piece.here } s

/-- A DATA flit of an open segment of its class (R241). -/
def dataIn (p l tc tag index : Nat) (last : Bool) (bytes : List Byte) (s : State) : State :=
  match (pair s p l).segs.find? fun g => g.d.tag.toNat = tag ∧ g.tc = tc with
  | none => updPair p l (fun k => { k with discards := k.discards + 1 }) s
  | some g =>
    let lim := if g.kind = 1 ∧ g.d.poison then g.d.poff else g.d.length
    let bs := bytes.take (lim - 240 * index)
    let s := match g.place with
      | some a => if bs.isEmpty then s else store (a + 240 * index) bs s
      | none => s
    let g' : OpenSeg := { g with got := g.got + bs.length, buf := if g.kind = 1 ∧ g.place.isNone then g.buf ++ bs else g.buf }
    if last then
      let s := updPair p l (fun k => { k with segs := k.segs.erase g }) s
      match g.kind, g.place with
      | 0, some _ => addNotice p l (noticeOf 1 0 g.d g.d.length) s
      | 1, _ => match outOf s p l tag with
        | some o => if o.kind = 3 then readDone o g' s else s
        | none => s
      | _, _ => s
    else updPair p l (fun k => { k with segs := k.segs.map fun x => if x = g then g' else x }) s

/-- Whether the responder has space to build one more response (R242): at least one, and as many more as it has. -/
def respSpace (k : Pair) : Bool :=
  decide ((k.queue.filter fun f => match f.body with
    | .seg 1 _ => true
    | _ => false).length ≤ Config.open_ 16 0)

/-- Whether the edition of a segment or request is still to come here (R248). -/
def editionAhead (s : State) : FlitBody → Bool
  | .seg 1 _ => false
  | .seg _ d => decide (0 < edDiff d.edition s.steer.edition)
  | .rdreq d => decide (0 < edDiff d.edition s.steer.edition)
  | _ => false

/-- A flit processed at the head of its class (CTRL flits wait for nothing, R242, and do not come here); `none` when it must stay there: a segment of an edition to come (R248), or a request without space
for its response (R242). -/
def process (p l : Nat) (f : Flit) (s : State) : Option State :=
  match f.body with
  | .seg 1 d => some (openResp p l f.tc d s)
  | .seg 0 d =>
    match verdict s p l d true with
    | .hold => none
    | .pass a => some (openSeg p l { kind := 0, tc := f.tc, d := d, place := some a } (clearFirst a d.length (takeGen d s)))
    | v => some (refuse p l 0 f.tc d v true s)
  | .seg 2 d =>
    match verdict s p l d true with
    | .hold => none
    | .pass _ =>
      let s := takeGen d s
      if d.token = false then some (addNotice p l (noticeOf 1 0 d 0) s)
      else match tokenCore s d with
        | some g =>
          some (addNotice p l (noticeOf 1 0 d 0) (remoteToken 3 d.dctx.val d.dgen g d.tq.val d.tpayload s))
        | none => some (refuse p l 2 f.tc d (.refused .address) true s)
    | v => some (refuse p l 2 f.tc d v true s)
  | .seg _ d => some (openDiscard p l 0 f.tc d (updPair p l (fun k => { k with discards := k.discards + 1 }) s))
  | .rdreq d =>
    match verdict s p l d false with
    | .hold => none
    | .pass a => if respSpace (pair s p l) then some (respond p l f.tc d a (takeGen d s)) else none
    | v => some (refuse p l 2 f.tc d v false s)
  | .data tag i last bs => some (dataIn p l f.tc tag i last bs s)
  | .notice es => some (es.foldl (takeNotice p l) s)
  | .ctrl _ _ _ _ _ => some s

/-- An accepted flit: it waits behind a waiting flit of its class, stays itself, or is processed and freed. A segment held on its edition is
counted once. -/
def deliver (p l : Nat) (f : Flit) (s : State) : State :=
  if (pair s p l).wait.any fun w => w.tc == f.tc then updPair p l (fun k => { k with wait := k.wait ++ [f] }) s
  else match process p l f s with
    | some s => freeFlit p l f.tc s
    | none =>
      let ahead := editionAhead s f.body
      let s := updPair p l (fun k => { k with wait := k.wait ++ [{ f with held := f.held || ahead }] }) s
      if ahead && !f.held then countFab p 0x0B l s else s

/-- Waiting flits of a pair delivered again, in order (R242, R248). -/
def releaseWait (p l : Nat) (s : State) : State :=
  let w := (pair s p l).wait
  w.foldl (fun s f => deliver p l f s) (updPair p l (fun k => { k with wait := [] }) s)

/-- A flit of TYPE 0 carries nothing; one of TYPE 8 to 15 is discarded and counted (R238). -/
def execIdle (h : FlitHdr) (type : Fin 16) (payload : List Byte) (s : State) : Out :=
  .next (unsequenced h type.val payload s fun s =>
    if type.val < 8 then s else updPair h.p.val h.l.val (fun k => { k with discards := k.discards + 1 }) s)

/-- The class of a flit as its header gives it. -/
def hdrTc (h : FlitHdr) : Nat := h.tc.val

/-- A sequenced flit delivered once its turn in the sequence has come. -/
def flitIn (h : FlitHdr) (tc : Nat) (b : FlitBody) (s : State) : State :=
  sequenced h b s fun s => deliver h.p.val h.l.val { tc := tc, seq := h.seq.toNat, body := b } s

/-- A SEG of kind WRITE, or of a KIND that is none of R241's. -/
def execWriteSegment (h : FlitHdr) (d : SegDesc) (s : State) : Out := .next (flitIn h (hdrTc h) (.seg d.kind.toNat d) s)

/-- A SEG of kind TOKEN_ONLY. -/
def execTokenOnly (h : FlitHdr) (d : SegDesc) (s : State) : Out := .next (flitIn h (hdrTc h) (.seg 2 d) s)

/-- A SEG of kind READ_RESP. -/
def execReadResp (h : FlitHdr) (d : SegDesc) (s : State) : Out := .next (flitIn h (hdrTc h) (.seg 1 d) s)

/-- A DATA flit. -/
def execData (h : FlitHdr) (tag : BitVec 12) (index : Byte) (last : Bool) (bytes : List Byte) (s : State) : Out :=
  .next (flitIn h (hdrTc h) (.data tag.toNat index.toNat last bytes) s)

/-- An RDREQ. -/
def execRdreq (h : FlitHdr) (d : SegDesc) (s : State) : Out := .next (flitIn h (hdrTc h) (.rdreq d) s)

/-- A NOTICE flit. -/
def execNotice (h : FlitHdr) (es : List NoticeEntry) (s : State) : Out := .next (flitIn h 2 (.notice es) s)

/-- A peer's GEN_CHANGE (R246): PGEN in each binding whose peer is the sender and whose PCTX is that context. -/
def genChange (sender pctx : Nat) (newGen : Byte) (s : State) : State :=
  let f := fun (p : Nat × Word) =>
    if p.1 % 32 = sender ∧ bit p.2 31 ∧ fld p.2 8 2 = pctx then (p.1, setFld p.2 0 8 newGen.toNat) else p
  { s with steer := { s.steer with bind := s.steer.bind.map f } }

/-- A GEN_CHANGE delivered. -/
def execGenChange (sender : Modu) (pctx : Ctx) (newGen : Byte) (_oldGen : Byte) (s : State) : Out :=
  .next (genChange sender.val pctx.val newGen s)

/-! ### LANE flits (R236, R250) -/

/-- FROM agreement: UP becomes ACTIVE, ACTIVE becomes UP (R236). -/
def agree (p l : Nat) (s : State) : State :=
  let k := pair s p l
  match k.state with
  | .up => if k.from_ = k.peerFrom ∧ k.loop = false then setPair p l { k with state := .active, laneDue := true } s else s
  | .active => if k.from_ = k.peerFrom then s else setPair p l { k with state := .up, laneDue := true } s
  | _ => s

/-- A LANE flit. -/
def execLane (h : FlitHdr) (rep : LaneReport) (s : State) : Out :=
  .next (unsequenced h 6 (lanePayload rep) s fun s =>
    let p := h.p.val
    let l := h.l.val
    let s := updPair p l (fun k => { k with peerFrom := rep.fromEd, peerEd := rep.edition, berTx := rep.ber10s }) s
    let s := pump (agree p l s)
    if rep.retrain then retrainOn p l 6 s else s)

/-- A LANE flit falls due. -/
def execLaneReportDue (p : Plane) (l : Lane) (ber10s ber1ms : Word) (s : State) : Out :=
  if receiving (pair s p.val l.val) then
    .next (updPair p.val l.val (fun k => { k with laneDue := true, berRx := ber10s, berMs := ber1ms }) s)
  else .next s

/-- A BEACON falls due on the lowest-plane ACTIVE pair of each bond (R251). -/
def execBeaconDue (s : State) : Out :=
  let act := (allPairs s).filter fun x => (pair s x.1 x.2).state = .active
  let peers := (act.map fun x => (pair s x.1 x.2).peer).dedup
  .next (peers.foldl (fun s m =>
    match act.find? fun x => (pair s x.1 x.2).peer = m with
    | some (p, l) => updPair p l (fun k => { k with beaconDue := true }) s
    | none => s) s)

/-! ### Flit slots (R240) -/

/-- Pod time in units of 2⁻³² ns. -/
def podFrac (s : State) : Nat := s.time.ns.toNat * 0x100000000 + s.time.frac.toNat

/-- The credits held for a class. -/
def credOf (k : Pair) (tc : Nat) : Nat := if tc = 0 then k.cred.1 else if tc = 1 then k.cred.2.1 else k.cred.2.2
def useCred (tc : Nat) (k : Pair) : Pair :=
  { k with cred := if tc = 0 then (k.cred.1 - 1, k.cred.2.1, k.cred.2.2) else if tc = 1 then (k.cred.1, k.cred.2.1 - 1, k.cred.2.2)
      else (k.cred.1, k.cred.2.1, k.cred.2.2 - 1) }

/-- The first flit of a class that a credit lets go. -/
def ready (k : Pair) (tc : Nat) : Option Flit := if credOf k tc = 0 then none else k.queue.find? fun f => f.tc = tc

/-- The class that takes the next new flit: TC2 first, then three TC1 to one TC0 while both wait. -/
def nextFlit (k : Pair) : Option Flit :=
  match ready k 2 with
  | some f => some f
  | none => match ready k 1, ready k 0 with
    | some a, some b => if k.turn < 3 then some a else some b
    | some a, none => some a
    | none, b => b

/-- Whether a pair may issue new sequenced flits now: ACTIVE, not held, its comb locked, room in its replay buffer. -/
def mayIssue (s : State) (p l : Nat) : Bool :=
  let k := pair s p l
  k.state == .active && !k.held && !(fabComb s p (inService s p)).unlocked && decide (k.unacked.length < 256)

/-- EDITION set as the flit is sent (R241). -/
def stamp (ed : Half16) : FlitBody → FlitBody
  | .seg k d => .seg k { d with edition := ed }
  | .rdreq d => .rdreq { d with edition := ed }
  | b => b

/-- A flit of a pair sent with its SEQ. -/
def sendBody (p l : Nat) (f : Flit) (s : State) : State := sendFlit p l (bodyType f.body) f.tc f.seq (bodyTag f.body) (bodyPayload f.body) s

/-- The timeout of the segments and reads of a plane, in ms (R254). -/
def segTimeout (s : State) (p : Nat) : Nat := max 1 (min 1000 (fld (fab s p).ullCfg 0 16))

/-- A segment's or read's timeout runs from its first sending (R244). -/
def markSent (p l : Nat) (b : FlitBody) (s : State) : State :=
  let mark := fun (tag : Nat) =>
    let ms := segTimeout s p
    { s with link := { s.link with outs := s.link.outs.map fun o =>
      if o.plane = p ∧ o.lane = l ∧ o.tag = tag ∧ o.since.isNone then { o with since := some s.now, limit := ms } else o } }
  match b with
  | .seg 1 _ => s
  | .seg _ d => mark d.tag.toNat
  | .rdreq d => mark d.tag.toNat
  | _ => s

/-- A new sequenced flit sent. -/
def issueFlit (p l : Nat) (f : Flit) (s : State) : State :=
  let k := pair s p l
  let both := (ready k 1).isSome && (ready k 0).isSome
  let f' := { f with seq := k.next, body := stamp s.steer.edition f.body }
  let s := setPair p l (useCred f.tc { k with queue := k.queue.erase f, next := (k.next + 1) % 4096, unacked := k.unacked ++ [f'],
                                              ackAt := if k.unacked.isEmpty then s.now else k.ackAt
                                              turn := if both && f.tc != 2 then (k.turn + 1) % 4 else k.turn }) s
  let s := markSent p l f'.body (sendBody p l f' s)
  let s := if bodyType f'.body = 2 then countFab p 4 l s else s
  pump (if (pair s p l).wait.isEmpty then s else releaseWait p l s)

/-- A BEACON: its send time, the last beacon received, the time quality and this lane's code (R251). -/
def issueBeacon (p l : Nat) (s : State) : State :=
  let k := pair s p l
  let t := podFrac s
  let e := k.beaconIn.getD (0, 0)
  sendFlit p l 7 3 k.next (0, 0, false) (beaconPayload t e.1 e.2 s.time.quality.toNat k.code)
    (setPair p l { k with beaconDue := false, beaconOut := (t :: k.beaconOut).take 16 } s)

/-- One flit slot of a transmit lane, by the priority of R240. -/
def execFlitSlot (p : Plane) (l : Lane) (s : State) : Out :=
  let k := pair s p.val l.val
  if receiving k = false then .next s
  else if k.beaconDue ∧ k.state = .active then .next (issueBeacon p.val l.val s)
  else if k.laneDue then .next (issueLane p.val l.val false s)
  else match k.replay with
    | f :: rest => .next (countFab p.val 6 l.val (sendBody p.val l.val f (setPair p.val l.val { k with replay := rest } s)))
    | [] =>
      match (if mayIssue s p.val l.val then nextFlit k else none) with
      | some f => .next (issueFlit p.val l.val f s)
      | none => .next (countFab p.val 0x0F l.val (sendFlit p.val l.val 0 0 k.next (0, 0, false) [] s))

/-! ### Timeouts of segments (R244) -/

/-- A segment or read without an answer for SEG_TIMEOUT. -/
def execSegmentTimeout (m : Modu) (tag : BitVec 12) (s : State) : Out :=
  match s.link.outs.find? fun o => o.peer = m.val ∧ o.tag = tag.toNat with
  | some o => match o.since with
    | some t => if t + o.limit * 1000000 ≤ s.now then .next (endRemote o 1 s) else .next s
    | none => .next s
  | none => .next s

end Sys2Proof.Machine
end

