-- ==== Sys2Proof/Machine/Time.lean ====
section
/-! DEFINITION. Pod time: the counter, source selection, the servo's states, beacons, PTP, PPS_IN, alarms and time outputs (R350 to
R362). -/

namespace Sys2Proof.Machine

def onTime (f : TimeSt → TimeSt) (s : State) : State := { s with time := f s.time }

/-! ### The counter (R350 to R352, R359, R361) -/

/-- INCR_ADJ within ±2,147,484 (R350). -/
def clampAdj (x : Int) : Int := if 2147484 < x then 2147484 else if x < -2147484 then -2147484 else x

/-- The counter in units of 2⁻³² ns after one TCLK tick. -/
def ticked (t : TimeSt) : Nat := (((t.ns.toNat * 0x100000000 + t.frac.toNat : Nat) : Int) + 0x100000000 + clampAdj t.incrAdj.toInt).toNat

/-- One TCLK tick of the counter. -/
def podTick (t : TimeSt) : TimeSt := { t with ns := BitVec.ofNat 64 (ticked t / 0x100000000), frac := BitVec.ofNat 32 (ticked t) }

/-- The signed difference of the low 48 bits (R359). -/
def since48 (now target : DWord) : Int := ((now - target).extractLsb' 0 48).toInt

def alarm (s : State) (a : Nat) : Alarm := Tbl.get {} s.time.alarms a
def tod (s : State) (n : Nat) : Tod := Tbl.get {} s.time.tods n
def setTod (n : Nat) (k : Tod) (s : State) : State := onTime (fun t => { t with tods := Tbl.set t.tods n k }) s

/-- Whether an alarm is armed and its target reached. -/
def alarmDue (s : State) (a : Nat) : Bool := (alarm s a).armed && decide (0 ≤ since48 s.time.ns (alarm s a).target)

/-- An alarm fires: disarmed, its bit set, event 0x0440 (R360). -/
def fireAlarm (a : Nat) (s : State) : State :=
  let k := alarm s a
  let s := onTime (fun t => { t with alarms := Tbl.set t.alarms a { k with armed := false }, alarmStat := orBit t.alarmStat a }) s
  postEvent 0x0440 0x0400 none a (fld k.target 0 32) (fld k.target 32 32) 0 s

/-- The first START + k × PERIOD that is not in the past (R361). -/
def todNext (now : Nat) (k : Tod) : Nat :=
  let b := k.start.toNat
  let p := k.period.toNat
  if p = 0 ∨ now ≤ b then b else b + (now - b + p - 1) / p * p

/-- A step (R352): the counter takes its new value, armed targets now reached fire, and the outputs' next pulses follow. -/
def stepTo (v : DWord) (off : Int) (by_ : Nat) (s : State) : State :=
  let s := onTime (fun t => { t with ns := v, frac := 0, tods := t.tods.map fun p => (p.1, { p.2 with
    nextAt := todNext v.toNat p.2, endAt := ((p.2.endAt : Int) + off).toNat }) }) s
  let s := logRec 0x0403 0x0400 (satWord off) by_ 0 0 s
  ((List.range 8).filter (alarmDue s)).foldl (fun s a => fireAlarm a s) s

/-- A read of TIME_NOW_LO (R351). -/
def execTimeNowCapture (s : State) : Out := .next (onTime (fun t => { t with nowNs := t.ns, nowFrac := t.frac }) s)

/-! ### Selection (R353, R354) -/

def stateCode : TimeState → Nat
  | .freerun => 0 | .acquiring => 1 | .locked => 2 | .holdover => 3 | .manual => 4

/-- A quality byte. -/
def mkQuality (cls hops : Nat) : Byte := BitVec.ofNat 8 (cls * 32 + hops)

/-- SRC_EN bits. -/
def srcEn (s : State) (i : Nat) : Bool := bit s.time.cfg (9 + i)

/-- The local source: SOURCE, CLASS. -/
def localSource (s : State) : Nat × Nat :=
  let t := s.time
  let ptp := srcEn s 1 && t.slave != 7
  let pps := srcEn s 2 && t.ppsOk
  if ptp && pps && t.ppsAligned then (4, 4) else if ptp then (2, 3) else if pps then (3, 2) else (0, 0)

/-- A candidate: CLASS, HOPS, module, SOURCE. -/
structure Cand where
  cls : Nat
  hops : Nat
  modu : Nat
  source : Nat

/-- Whether a candidate comes before another: highest CLASS, lowest HOPS, lowest module. -/
def candBefore (a b : Cand) : Bool :=
  decide (b.cls < a.cls) || (a.cls == b.cls && (decide (a.hops < b.hops) || (a.hops == b.hops && decide (a.modu < b.modu))))

/-- The module itself: its local source, or its own counter as it is. -/
def selfCand (s : State) : Cand :=
  let l := localSource s
  if l.1 ≠ 0 then ⟨l.2, 0, me s, l.1⟩
  else if s.time.state = .holdover then ⟨1, fld s.time.quality 0 5, me s, 0⟩
  else if s.time.source = 0 then ⟨fld s.time.quality 5 3, fld s.time.quality 0 5, me s, 0⟩
  else ⟨0, 0, me s, 0⟩

/-- The peers whose beacons arrive on an ACTIVE pair, with HOPS below 15. -/
def peerCands (s : State) : List Cand :=
  if srcEn s 0 then
    ((s.time.beacons.filter fun p => !(bond s p.1).isEmpty && decide (fld p.2.quality 0 5 < 15)).map fun p =>
      ⟨fld p.2.quality 5 3, fld p.2.quality 0 5, p.1, 1⟩)
  else []

/-- The candidate selected; none when only this module's own lost counter is left. -/
def pickCand (s : State) : Option Cand :=
  let c := selfCand s
  let all := (if c.hops < 15 then [c] else []) ++ peerCands s
  match all with
  | [] => none
  | x :: xs => some (xs.foldl (fun b y => if candBefore y b then y else b) x)

/-- The quality advertised while following a candidate (R353). -/
def candQuality (c : Cand) : Byte := if c.source = 1 then mkQuality c.cls (if c.cls = 0 then 0 else c.hops + 1) else mkQuality c.cls c.hops

/-- The mean of INCR_ADJ over the last 10 s. -/
def meanAdj (t : TimeSt) : Word :=
  if t.adjHist.isEmpty then t.incrAdj else BitVec.ofInt 32 (t.adjHist.foldl (· + ·) 0 / (t.adjHist.length : Int))

/-- A new source selected (R354, R355). -/
def follow (c : Cand) (s : State) : State :=
  let from_ := s.time.state
  let s := onTime (fun t => { t with
    source := c.source, peer := if c.source = 1 then c.modu else 0, quality := candQuality c, samples := [],
    state := .acquiring, need := if from_ = .freerun then 8 else 16, closeAt := none,
    adjHist := if from_ = .freerun then [] else t.adjHist,
    incrAdj := if from_ = .locked then meanAdj t else t.incrAdj }) s
  logRec 0x0401 0x0400 c.source s.time.peer s.time.quality.toNat 0 s

/-- Selection, outside MANUAL and the hold-off. -/
def reselect (s : State) : State :=
  let t := s.time
  if t.state = .manual ∨ t.holdoff then s
  else match pickCand s with
    | none => s
    | some c =>
      if c.source = 0 then s
      else if c.source = t.source ∧ (c.source ≠ 1 ∨ c.modu = t.peer) then onTime (fun t => { t with quality := candQuality c }) s
      else follow c s

/-! ### The servo (R355) -/

/-- STEP_LIMIT in ns. -/
def stepLimit (s : State) : Nat := max 1 (fld s.time.cfg 0 9) * 1000

/-- A list with one number put in its place, rising. -/
def insertInt (x : Int) : List Int → List Int
  | [] => [x]
  | y :: t => if x ≤ y then x :: y :: t else y :: insertInt x t

/-- The median of 8 samples: the mean of the middle two. -/
def median8 (xs : List Int) : Int :=
  let l := (xs.take 8).foldl (fun l x => insertInt x l) []
  (l.getD 3 0 + l.getD 4 0) / 2

/-- An offset sample of the selected source. -/
def addSample (x : Int) (s : State) : State := onTime (fun t => { t with samples := (x :: t.samples).take 16 }) s

/-- Every 1 ms: the median of 8 samples, then a step or a new INCR_ADJ. -/
def execServoUpdate (adj : Int) (s : State) : Out :=
  let t := s.time
  if (t.state = .acquiring ∨ t.state = .locked) ∧ t.need ≤ t.samples.length then
    let m := (median8 t.samples).tdiv (0x100000000)
    let s := onTime (fun t => { t with
      offset := BitVec.ofNat 32 (satWord m), samples := [], need := 8
      closeAt := if m.natAbs ≤ 20 then some (t.closeAt.getD s.now) else none }) s
    if (stepLimit s : Int) ≤ m.natAbs then .next (stepTo (t.ns + BitVec.ofInt 64 m) m 1 s)
    else .next (onTime (fun t => { t with incrAdj := BitVec.ofInt 32 (clampAdj adj), adjHist := (clampAdj adj :: t.adjHist).take 10000 }) s)
  else .next s

/-- What the loss of a source takes from the candidates. -/
def forgetSource (s : State) : State :=
  onTime (fun t =>
    if t.source = 1 then { t with beacons := t.beacons.filter fun p => p.1 ≠ t.peer }
    else if t.source = 3 then { t with ppsOk := false, ppsRun := 0 }
    else { t with slave := 7, ports := t.ports.map fun p => if p.1 = t.slave then (p.1, { p.2 with up := false }) else p }) s

/-- The selected source is lost: HOLDOVER, the hold-off begins (R354, R355). -/
def loseSource (s : State) : State :=
  let t := s.time
  if t.state = .acquiring ∨ t.state = .locked then
    let a := meanAdj t
    let s := forgetSource s
    let s := onTime (fun x => { x with state := .holdover, holdoff := true, lostAt := s.now, incrAdj := a, source := 0, peer := 0, samples := [],
                                       quality := mkQuality 1 (if t.source = 1 then 31 else 0) }) s
    logRec 0x0402 0x0400 t.source a.toNat 0 0 s
  else s

/-- Whether a beacon of the selected peer has come within the last 1 ms. -/
def beaconFresh (s : State) : Bool :=
  s.time.source == 1 && s.time.beacons.any fun p => p.1 == s.time.peer && decide (s.now < p.2.at_ + 1000000)

/-- Loss of the selected beacon, PTP or PPS source. -/
def execSourceLost (s : State) : Out := if beaconFresh s then .next s else .next (loseSource s)

/-- 4 ms after a source loss. -/
def execHoldoffEnd (s : State) : Out :=
  if s.time.holdoff ∧ s.time.lostAt + 4000000 ≤ s.now then .next (reselect (onTime (fun t => { t with holdoff := false }) s)) else .next s

/-- The median offset has stayed within ±20 ns for 1 s. -/
def execLockAcquired (s : State) : Out :=
  if s.time.state = .acquiring ∧ s.time.closeAt.any (fun t => decide (t + 1000000000 ≤ s.now)) then
    .next (logRec 0x0407 0x0400 s.time.source s.time.peer s.time.offset.toNat 0 (onTime (fun t => { t with state := .locked }) s))
  else .next s

/-- MANUAL set: the loop stops, software owns the counter. -/
def manualOn (s : State) : State :=
  onTime (fun t => { t with state := .manual, cfg := orBit t.cfg 16, source := 0, peer := 0, holdoff := false, samples := [],
                            quality := mkQuality 0 0 }) s

/-- MANUAL cleared: HOLDOVER. -/
def manualOff (s : State) : State :=
  onTime (fun t => { t with state := .holdover, cfg := t.cfg &&& ~~~(0x10000 : Word), quality := mkQuality 1 0 }) s

def execManualSet (s : State) : Out := if s.time.state = .manual then .next s else .next (manualOn s)
def execManualClear (s : State) : Out := if s.time.state = .manual then .next (manualOff s) else .next s

/-- A discarded TIME_INCR_ADJ or TIME_STEP_CTL write (R362). -/
def notManual (off v : Nat) (s : State) : State := logRec 0x0408 0x0400 off v 0 0 s

/-- GO takes effect (R352). -/
def execTimeStepGo (s : State) : Out :=
  let t := s.time
  if t.state = .manual then
    let v : DWord := t.stepHi ++ t.stepLo
    .next (stepTo v ((v - t.ns).toInt) 2 s)
  else .next (notManual 0x040028 1 s)

/-! ### Beacons (R251, R356) -/

/-- A beacon's offset sample, when its echo names a beacon sent within the last 1 ms. -/
def beaconSample (k : Pair) (b : BeaconMsg) (s : State) : State :=
  if s.time.source = 1 ∧ s.time.peer = k.peer ∧ k.beaconOut.contains b.echoSend ∧ podFrac s ≤ b.echoSend + 1000000 * 0x100000000 then
    addSample ((((b.echoArr : Int) - b.echoSend) - ((b.arrT : Int) - b.sendT)) / 2) s
  else s

/-- A BEACON flit. -/
def execBeacon (h : FlitHdr) (b : BeaconMsg) (s : State) : Out :=
  .next (unsequenced h 7 (beaconPayload b.sendT b.echoArr b.echoSend b.quality.toNat b.code.toNat) s fun s =>
    let p := h.p.val
    let l := h.l.val
    let k := pair s p l
    let s := countHub 0x12 0 false (updPair p l (fun k => { k with beaconIn := some (b.arrT, b.sendT) }) s)
    if k.state ≠ .active then s
    else
      let s := onTime (fun t => { t with beacons := Tbl.set t.beacons k.peer { quality := b.quality, at_ := s.now } }) s
      reselect (beaconSample k b s))

/-! ### PTP (R357) -/

def ptpPort (s : State) (p : Nat) : PtpPortSt := Tbl.get {} s.time.ports p
def setPort (p : Nat) (k : PtpPortSt) (s : State) : State := onTime (fun t => { t with ports := Tbl.set t.ports p k }) s

/-- Whether a port is enabled for PTP; messages of another port are not taken. -/
def onPort (p : Nat) (s : State) (act : PtpPortSt → State) : State := if bit s.time.ptpCfg p then act (ptpPort s p) else s

/-- A delay request leaves, of the mechanism that PEER_DELAY names, with an origin timestamp of 0. -/
def delayReq (p : Nat) (s : State) : State :=
  let s := setPort p { ptpPort s p with reqAt := s.time.ns.toNat } s
  send .eth (if bit s.time.ptpCfg 5 then 0x502 else 0x501) [p, 0] s

/-- A Sync with its origin known: an offset sample when its port is the selected source, and a delay request. -/
def syncSample (p : Nat) (s : State) : State :=
  let k := ptpPort s p
  let s := if s.time.slave = p ∧ s.time.source = 2 then addSample (((k.syncOrigin : Int) + k.delay - k.syncArr) * 0x100000000) s else s
  delayReq p s

/-- A Sync message: origin time, arrival by this module's clock. -/
def execSync (port : PtpPort) (twoStep : Bool) (origin arr : Nat) (s : State) : Out :=
  .next (onPort port.val s fun k =>
    let s := setPort port.val { k with up := true, syncArr := arr, syncOrigin := origin, waiting := twoStep } s
    if twoStep then s else syncSample port.val s)

/-- A Follow_Up of a two-step Sync. -/
def execFollowUp (port : PtpPort) (origin : Nat) (s : State) : Out :=
  .next (onPort port.val s fun k =>
    if k.waiting then syncSample port.val (setPort port.val { k with syncOrigin := origin, waiting := false } s) else s)

/-- A change of grandmaster of the port in SLAVE counts as a better source. -/
def newMaster (p : Nat) (gm : DWord) (s : State) : State :=
  let s := logRec 0x0406 0x0400 (fld gm 0 32) (fld gm 32 32) p 0 s
  if (s.time.source = 2 ∨ s.time.source = 4) ∧ (s.time.state = .locked ∨ s.time.state = .acquiring) then
    onTime (fun t => { t with state := .acquiring, samples := [], need := 16, incrAdj := if t.state = .locked then meanAdj t else t.incrAdj }) s
  else s

/-- An Announce: `better` is the verdict of the best master clock algorithm on this port. -/
def execAnnounce (port : PtpPort) (gm : DWord) (better : Bool) (s : State) : Out :=
  .next (onPort port.val s fun k =>
    let old := s.time.slave
    let first := !k.up && k.gm == 0
    let s := setPort port.val { k with up := true, gm := gm } s
    let s := if better ∨ old = 7 then onTime (fun t => { t with slave := port.val }) s else s
    let moved := s.time.slave != old && old != 7
    let s := if s.time.slave = port.val ∧ (moved ∨ (k.gm ≠ gm ∧ first = false)) then newMaster port.val gm s else s
    reselect s)

/-- A Delay_Resp: the mean path delay (Annex J.3). -/
def execDelayResp (port : PtpPort) (recvT : Nat) (s : State) : Out :=
  .next (onPort port.val s fun k =>
    setPort port.val { k with delay := (((k.syncArr : Int) - k.syncOrigin) + ((recvT : Int) - k.reqAt)) / 2 } s)

/-- A Pdelay_Req answered in two steps: the request's arrival, then the answer's departure. -/
def execPdelayReq (port : PtpPort) (arr : Nat) (s : State) : Out :=
  .next (onPort port.val s fun _ =>
    send .eth 0x50A [port.val, s.time.ns.toNat] (send .eth 0x503 [port.val, arr] s))

/-- A Pdelay_Resp: the request's receipt at the peer, this answer's arrival. -/
def execPdelayResp (port : PtpPort) (reqRecv : Nat) (arr : Nat) (s : State) : Out :=
  .next (onPort port.val s fun k => setPort port.val { k with respRecv := reqRecv, respArr := arr } s)

/-- A Pdelay_Resp_Follow_Up: the peer delay (Annex J.4). -/
def execPdelayRespFollowUp (port : PtpPort) (respSend : Nat) (s : State) : Out :=
  .next (onPort port.val s fun k =>
    setPort port.val { k with delay := (((k.respArr : Int) - k.reqAt) - ((respSend : Int) - k.respRecv)) / 2 } s)

/-! ### PPS_IN (R358) -/

/-- The offset of an edge from the nearest second: the second minus the edge. -/
def ppsOffset (t : Nat) : Int :=
  let r := t % 1000000000
  if r < 500000000 then -(r : Int) else 1000000000 - (r : Int)

/-- An accepted edge. -/
def ppsAccept (t : Nat) (s : State) : State :=
  let run := match s.time.ppsLast with
    | some l => if l + 999000000 ≤ t ∧ t ≤ l + 1001000000 then s.time.ppsRun + 1 else 1
    | none => 1
  let o := ppsOffset t
  let s := onTime (fun x => { x with ppsLast := some t, ppsAt := s.now, ppsRun := run, ppsOk := x.ppsOk || decide (4 ≤ run),
                                     ppsAligned := decide (o.natAbs ≤ 1000) }) s
  reselect (if s.time.source = 3 ∨ s.time.source = 4 then addSample (o * 0x100000000) s else s)

/-- A rising edge after the filter, at pod time `t` ns. -/
def execPpsEdge (t : Nat) (s : State) : Out :=
  let close := match s.time.ppsLast with
    | some l => decide (t < l + 500000000)
    | none => false
  if close then
    let n := satAdd 255 s.time.ppsIgnored 1
    .next (logRate (0x0404 * 4096) 1000000000 0x0404 0x0400 n 0 0 0 (onTime (fun x => { x with ppsIgnored := n }) s))
  else .next (ppsAccept t s)

/-- No accepted edge for 3 s. -/
def execPpsLost (s : State) : Out :=
  match s.time.ppsLast with
  | none => .next s
  | some l =>
    if s.now < s.time.ppsAt + 3000000000 then .next s
    else
    let was := s.time.source
    let s := logRec 0x0405 0x0400 ((s.time.ns.toNat - l) / 1000000000) 0 0 0 s
    let s := onTime (fun x => { x with ppsOk := false, ppsRun := 0, ppsLast := none, ppsAligned := false }) s
    .next (if was = 3 then loseSource s else reselect s)

/-! ### Alarms and time outputs (R359 to R361) -/

/-- TIME_ALARM_a_CTL.ARM. -/
def execAlarmArm (a : Fin 8) (s : State) : Out :=
  .next (onTime (fun t => { t with alarms := Tbl.set t.alarms a.val { Tbl.get {} t.alarms a.val with armed := true } }) s)

/-- The compare of an armed target. -/
def execAlarmFire (a : Fin 8) (s : State) : Out := if alarmDue s a.val then .next (fireAlarm a.val s) else .next s

/-- TOD_n_CTL.ENABLE 1 (R210, R361). -/
def execTodEnable (n : Fin 4) (s : State) : Out :=
  let k := tod s n.val
  if k.enable then .next s
  else if k.high then .next (setTod n.val { k with pending := true } s)
  else .next (setTod n.val { k with enable := true, nextAt := k.start.toNat } s)

/-- TOD_n_CTL.ENABLE 0: a high pulse ends by itself. -/
def execTodDisable (n : Fin 4) (s : State) : Out := .next (setTod n.val { tod s n.val with enable := false, pending := false } s)

/-- The width of a pulse: WIDTH, or PERIOD − 8, or 8 ns. -/
def todWidth (k : Tod) : Nat :=
  let w := if k.width = 0 then 8 else k.width.toNat
  if k.period ≠ 0 ∧ k.period.toNat ≤ w then k.period.toNat - 8 else w

/-- The counter passes the next pulse's time. -/
def execTodPulseStart (n : Fin 4) (s : State) : Out :=
  let k := tod s n.val
  if k.enable ∧ k.high = false ∧ 0 ≤ since48 s.time.ns (BitVec.ofNat 64 k.nextAt) then
    .next (setTod n.val { k with high := true, endAt := k.nextAt + todWidth k, nextAt := k.nextAt + k.period.toNat } s)
  else .next s

/-- A pulse that has lasted its width ends: a one-shot output disables itself, and a waiting enable completes. -/
def execTodPulseEnd (n : Fin 4) (s : State) : Out :=
  let k := tod s n.val
  if k.high = false ∨ since48 s.time.ns (BitVec.ofNat 64 k.endAt) < 0 then .next s
  else if k.enable then .next (setTod n.val { k with high := false, enable := k.period != 0 } s)
  else if k.pending then .next (setTod n.val { k with high := false, pending := false, enable := true, nextAt := k.start.toNat } s)
  else .next (setTod n.val { k with high := false } s)

/-- TIME_STAT, without BUSY. -/
def timeStat (s : State) : Nat :=
  let t := s.time
  stateCode t.state * 0x10000000 + t.source * 0x2000000 + t.peer * 0x100000 + t.quality.toNat * 256 + t.ppsIgnored

/-- CTL_PTP_STAT. -/
def ptpStat (s : State) : Nat :=
  s.time.slave * 32 + (List.range 5).foldl (fun n p => n + b2n (bit s.time.ptpCfg p && (ptpPort s p).up) * 2 ^ p) 0

end Sys2Proof.Machine
end

