-- ==== Sys2Proof/Machine/Stew0.lean ====
section
/-! DEFINITION. What the active steward does: mirror records and what waits for them (R286), charts issued (R264, R268, R270, R272), members
declared failed (R294, R297), spares placed into jobs (R298, R302). -/

namespace Sys2Proof.Machine

/-- Whether this module acts as the active steward: it has the role, and a half controller with the authority to run it (R9, R292). -/
def isSteward (s : State) : Bool := s.stew.role == 5 && hasAuthority s

/-! ### Who this module is (R276) -/

/-- The designated role: 1 ACTIVE, 2 STANDBY, 0 none. -/
def designated (s : State) (m : Nat) : Nat := match s.stew.cfg with
  | some c => if c.active.toNat = m then 1 else if c.standby.toNat = m then 2 else 0
  | none => 0

/-- The other designated module. -/
def partner (s : State) (m : Nat) : Nat := match s.stew.cfg with
  | some c => if c.active.toNat = m then c.standby.toNat else c.active.toNat
  | none => 0xFF

/-- Whether the module is READY or DEGRADED. -/
def inService_ (s : State) : Bool := s.boot.state == .ready || s.boot.state == .degraded

/-- An IDLE designated module that is READY and has its partner ACTIVE on the twin port asks for the state (R288). -/
def startSync (s : State) : State :=
  if s.stew.role = 1 ∧ s.stew.twinUp ∧ designated s (me s) ≠ 0 ∧ s.stew.active = some (partner s (me s)) ∧ inService_ s then
    onStew (fun w => { w with role := 2 }) s
  else s

/-! ### Records and their effect (R286, R300) -/

def updMember (m : Nat) (f : Member → Member) (s : State) : State := onStew (fun w => { w with members := Tbl.upd {} w.members m f }) s
def job (s : State) (j : Nat) : Job := Tbl.get {} s.stew.jobs j
def updJob (j : Nat) (f : Job → Job) (s : State) : State := onStew (fun w => { w with jobs := Tbl.upd {} w.jobs j f }) s

/-- One issued edition changed. -/
def updIssued (ed : Nat) (f : Issued → Issued) (s : State) : State :=
  onSteer (fun t => { t with issued := t.issued.map fun i => if (chEdition i.chart).toNat = ed then f i else i }) s

/-- Slots as a record carries them. -/
def slotsOf : List Nat → List JobSlot
  | m :: c :: g :: t => { modu := m, ctx := c, gen := BitVec.ofNat 8 g } :: slotsOf t
  | _ => []
def slotWords (ss : List JobSlot) : List Nat := ss.flatMap fun x => [x.modu, x.ctx, x.gen.toNat]

/-- A checkpoint's part of a slot recorded; 16 checkpoints are kept. -/
def setPart (number step slot : Nat) (b : Bool) (state : Nat) (full : Bool) (digest : Nat) (cs : List JobCkpt) : List JobCkpt :=
  match cs.find? fun c => c.number = number with
  | some c => cs.map fun x => if x = c then
      { c with slots := Tbl.set c.slots slot (b, state), full := full, digests := Tbl.set c.digests slot digest } else x
  | none => (({ number := number, step := step, slots := [(slot, (b, state))], full := full, digests := [(slot, digest)] } : JobCkpt) :: cs).take 16

/-- A record's change of the steward's state. -/
def applyRecord (r : MirrorRec) (s : State) : State :=
  let s := onStew (fun w => { w with ledger := w.ledger ++ [r] }) s
  match r.kind, r.data with
  | 1, [m, st, wide, risk, level, lost] =>
    updMember m (fun k => { k with state := st, wide := wide == 1, risk := risk, level := level, ctlLost := lost == 1 }) s
  | 2, bytes => onSteer (fun t => { t with issued := ({ chart := bytes.map (BitVec.ofNat 8) } :: t.issued).take 16 }) s
  | 3, [ed, m, 1] => updIssued ed (fun i => { i with applied := (m :: i.applied).dedup }) s
  | 3, [ed, m, 3] => updIssued ed (fun i => { i with contained := (m :: i.contained).dedup }) s
  | 3, [ed, m, 4] => updIssued ed (fun i => { i with staged := (m :: i.staged).dedup }) s
  | 5, j :: ss => updJob j (fun k => { k with slots := slotsOf ss }) s
  | 6, [j, n, step, slot, b, st, full, dig] => updJob j (fun k => { k with ckpts := setPart n step slot (b == 1) st (full == 1) dig k.ckpts }) s
  | 7, [j, step, pos, rng, t] =>
    let e : Journal := ⟨BitVec.ofNat 32 j, BitVec.ofNat 32 step, BitVec.ofNat 64 pos, BitVec.ofNat 64 rng, BitVec.ofNat 64 t⟩
    updJob j (fun k => { k with journals := (k.journals ++ [e]).drop (k.journals.length + 1 - 4096) }) s
  | _, _ => s

/-! ### Charts issued -/

/-- The newest edition issued, or the chart in force. -/
def newest (s : State) : List Byte := match s.steer.issued with
  | i :: _ => i.chart
  | [] => s.steer.chart

/-- The next edition. -/
def nextEdition (s : State) : Half16 :=
  match s.steer.issued with
  | i :: _ => if 0 ≤ edDiff (chEdition i.chart) s.steer.edition then chEdition i.chart + 1 else s.steer.edition + 1
  | [] => s.steer.edition + 1

/-- LEAD in ns (R268). -/
def leadNs (s : State) : Nat := max 10 (min 100 (fld s.steer.cfg 0 7)) * 100000

/-- The parts of a chart, as CHART_PART bodies (R265). -/
def chartBodies (c : List Byte) : List (List Nat) :=
  let n := max 1 ((c.length + 12287) / 12288)
  (List.range n).map fun i => [(chEdition c).toNat, i, n, chCrc c] ++ ((c.drop (12288 * i)).take 12288).map BitVec.toNat

/-- A chart sent to a module on the control network. -/
def sendChart (c : List Byte) (m : Nat) (s : State) : State := (chartBodies c).foldl (fun s b => ctlSend m 0x101 b s) s

/-- A fabric copy of a message (R280). -/
def sendCopy (dst kind id flags : Nat) (body : List Nat) (s : State) : State :=
  if hasAuthority s then sendCtrl dst kind (ctlBytes s dst kind id flags (bodyBytes kind body)) s else s

/-- A chart's parts as TC2 control messages over the bond (R265): copies of the messages sent on the control network, with their MSGIDs, while those
wait for their ACK; else messages of their own. -/
def sendChartFabric (c : List Byte) (m : Nat) (s : State) : State :=
  (chartBodies c).foldl (fun s b =>
    match s.stew.unacked.find? fun u => u.dst = m ∧ u.kind = 0x101 ∧ u.body = b with
    | some u => sendCopy m 0x101 u.msgid 3 b s
    | none =>
      let id := s.stew.msgid
      sendCopy m 0x101 id 2 b (onStew (fun w => { w with msgid := (id + 1) % 65536 }) s)) s

/-- Modules that share a job with one. -/
def sharers (s : State) (m : Nat) : List Nat :=
  ((s.stew.jobs.filter fun j => j.2.slots.any fun x => x.modu == m).flatMap fun j => j.2.slots.map JobSlot.modu).dedup.filter fun x => x ≠ m

/-- The outward effect of a record (R286). -/
def doAct (a : StewAct) (s : State) : State :=
  match a with
  | .none_ => s
  | .chart c _ => ((List.range 32).filter fun m => chMember c m || chMember s.steer.chart m).foldl (fun s m => sendChart c m s) s
  | .bind m c ws => ctlSend m 0x20E (c :: ws) s
  | .jobCtl m j c action step number => ctlSend m 0x20F [j, c, action, 0, step, number] s
  | .event m cause c gen => (sharers s m).foldl (fun s x => ctlSend x 0x20D [m, cause, c, gen] s) s

/-- A record made by the active: applied here, sent to the standby, its effect waiting for the acknowledgement. -/
def record (kind : Nat) (data : List Nat) (a : StewAct) (s : State) : State :=
  if isSteward s = false then s
  else
    let n := s.stew.seq + 1
    let s := applyRecord { seq := n, kind := kind, data := data } (onStew (fun w => { w with seq := n }) s)
    twinSend 0x209 ([n, kind] ++ data) (onStew (fun w => { w with queue := w.queue ++ [(n, a)] }) s)

/-- A member's row of the table recorded. -/
def recordMember (m : Nat) (k : Member) (s : State) : State :=
  record 1 [m, k.state, b2n k.wide, k.risk, k.level, b2n k.ctlLost] .none_ s

/-- A chart issued. -/
def issueChart (flags commit : Nat) (ms : List Nat) (es : List ChEnt) (submit : Option (Nat × Nat)) (s : State) : State :=
  let ed := nextEdition s
  let c := mkChart ed flags commit s.stew.leaseEpoch (maskOf ms) (maskOf (ms.filter (isWide s))) (me s) ((List.range 16).map (podOffset s)) es
  let s := record 2 (c.map BitVec.toNat) (.chart c submit) s
  updIssued ed.toNat (fun i => { i with submit := submit }) s

/-- A chart planned from the demand in force, issued when it differs from the newest (R264). -/
def replan (s : State) : State :=
  if isSteward s = false then s
  else
    let ms := planMembers s
    let prev := chEnts (newest s)
    let es := planEntries s ms prev (nextEdition s)
    if maskOf ms = chMembers (newest s) ∧ es = prev then s else issueChart 0 (s.time.ns.toNat + leadNs s) ms es none s

/-- A REMOVE_ONLY chart: the newest without some members and entries, COMMIT 1 ms after sending (R270, R272, R297). -/
def reduce (gone : List Nat) (drop : ChEnt → Bool) (s : State) : State :=
  if isSteward s = false then s
  else
    let c := newest s
    let ms := (List.range 32).filter fun m => chMember c m && !gone.contains m
    let es := (chEnts c).filter fun e => !drop e && !gone.contains e.a && !gone.contains e.b
    if maskOf ms = chMembers c ∧ es = chEnts c then s else issueChart 1 (s.time.ns.toNat + 1000000) ms es none s

/-! ### Spares (R298, R302) -/

/-- A slot's state in a checkpoint. -/
def partOf (k : JobCkpt) (slot : Nat) : Nat := (Tbl.get (false, 0) k.slots slot).2

/-- Whether the journals hold every step after `k` (R302). -/
def journalsFrom (j : Job) (k : Nat) : Bool :=
  let n := j.journals.foldl (fun n x => max n x.step.toNat) k
  (List.range (n - k)).all fun i => j.journals.any fun x => x.step.toNat == k + 1 + i

/-- Whether a checkpoint can be restored without a slot. -/
def restorable (j : Job) (failed : Nat) (k : JobCkpt) : Bool :=
  ((List.range j.slots.length).all fun i =>
    if i = failed then partOf k i == 3 else (partOf k i == 2 || partOf k i == 3)) && journalsFrom j k.step

/-- The newest checkpoint that can be restored (R302). -/
def chooseCkpt (j : Job) (failed : Nat) : Option JobCkpt :=
  (j.ckpts.filter (restorable j failed)).foldl (fun b k => match b with
    | some x => if x.step < k.step then some k else b
    | none => some k) none

/-- Whether a module is in a job. -/
def inJob (s : State) (m : Nat) : Bool := s.stew.jobs.any fun j => j.2.slots.any fun x => x.modu == m

/-- The spare taken for a job: reserved, or the lowest that is READY and free. -/
def pickSpare (s : State) (j : Job) : Option Nat :=
  match j.reserved with
  | some m => some m
  | none => match s.stew.cfg with
    | some c => (List.range 32).find? fun m => bit c.spares m && ((member s m).up == 4 || (member s m).up == 5) && !inJob s m
        && decide ((member s m).state < 3)
    | none => none

/-- A job ordered about at one slot. -/
def orderSlot (j action step number : Nat) (x : JobSlot) (s : State) : State :=
  record 8 [j, x.modu, action, step, number] (.jobCtl x.modu j x.ctx action step number) s

/-- The bindings of a slot: every other slot of its job (R299), without the modules named. -/
def bindWords (j : Job) (x : JobSlot) (gone : List Nat) : List Nat :=
  (List.range 32).map fun m =>
    if m = x.modu ∨ gone.contains m then 0
    else match j.slots.find? fun y => y.modu = m with
      | some y => 0x8000 + y.ctx * 256 + y.gen.toNat
      | none => 0

/-- BIND to every slot of a job. -/
def bindAll (jn : Nat) (gone : List Nat) (s : State) : State :=
  (job s jn).slots.foldl (fun s x =>
    if gone.contains x.modu then s
    else
      let ws := bindWords (job s jn) x gone
      record 4 (x.modu :: x.ctx :: ws) (.bind x.modu x.ctx ws) s) s

/-- A job whose member is to be replaced: stopped at the survivors, or stalled without a spare (R298 steps 3, 4). -/
def startPlace (jn m : Nat) (s : State) : State :=
  let j := job s jn
  match (List.range j.slots.length).find? fun i => (j.slots.getD i ⟨0, 0, 0⟩).modu = m with
  | none => s
  | some i =>
    let k := chooseCkpt j i
    match pickSpare s j, k with
    | some sp, some k =>
      let s := updJob jn (fun j => { j with place := some { failed := m, slot := i, spare := sp, number := k.number, step := k.step, phase := 3, since := s.now } }) s
      let s := (j.slots.filter fun x => x.modu ≠ m).foldl (fun s x => orderSlot jn 2 0 0 x s) s
      bindAll jn [m] s
    | _, _ =>
      let step := match k with
        | some k => k.step
        | none => 0
      let s := updJob jn (fun j => { j with place := some { failed := m, slot := i, spare := 0xFF, number := 0, step := step, phase := 0, since := s.now } }) s
      logRec 0x2029 (0x2000 + m) jn step 2 0 s

/-- Jobs with a slot on a module. -/
def jobsOn (s : State) (m : Nat) : List Nat := (s.stew.jobs.filter fun j => j.2.slots.any fun x => x.modu == m).map Prod.fst

/-- A member declared failed (R294, R297): 0x2027, MODULE_EVENT, the exclusion chart, its jobs' parts LOST and replaced. -/
def declareFailed (m cause : Nat) (s : State) : State :=
  if (member s m).state = 5 then s
  else
    let js := jobsOn s m
    let s := logRec 0x2027 (0x2000 + m) m cause js.length 0 s
    let s := recordMember m { member s m with state := 5 } s
    let s := updMember m (fun k => { k with probing := false }) s
    let s := record 8 [m, cause] (.event m cause 0xFF 0) s
    let s := if cause = 4 then s else reduce [m] (fun _ => false) s
    js.foldl (fun s j => startPlace j m s) s

/-- A late module contained (R270): the edition without it, 0x2006, and its failure declared. -/
def contain (m : Nat) (s : State) : State :=
  let ed := (chEdition (newest s)).toNat
  let s := record 3 [ed, m, 3] .none_ s
  let s := reduce [m] (fun _ => false) s
  let s := logRec 0x2006 (0x2000 + m) m (chEdition (newest s)).toNat 0 0 s
  declareFailed m 4 (onSteer (fun t => { t with containedCnt := satAdd 0xFFFF t.containedCnt 1 }) s)

/-- Whether every member of the newest edition has applied it or been contained. -/
def settled (s : State) : Bool := match s.steer.issued with
  | i :: _ => (List.range 32).all fun m => !chMember i.chart m || i.applied.contains m || i.contained.contains m
  | [] => true

/-- Whether a slot's context has taken a new GEN since it was registered. -/
def slotStopped (s : State) (x : JobSlot) : Bool := decide ((member s x.modu).gens.getD x.ctx 0 ≠ x.gen)

/-- A replacement taken on (R298 steps 4, 5). -/
def placeGo (jn : Nat) (s : State) : State :=
  let j := job s jn
  match j.place with
  | none => s
  | some p =>
    if p.phase = 3 ∧ (j.slots.all fun x => x.modu == p.failed || slotStopped s x) then
      let s := recordMember p.spare { member s p.spare with state := 1 } s
      let s := record 5 (jn :: slotWords (j.slots.map fun x => if x.modu = p.failed then { x with modu := p.spare } else x)) .none_ s
      replan (updJob jn (fun j => { j with place := some { p with phase := 4 }, reserved := none }) s)
    else if p.phase = 4 ∧ settled s then
      let s := updJob jn (fun j => { j with place := some { p with phase := 5 } }) s
      let s := (job s jn).slots.foldl (fun s x => orderSlot jn 3 p.step p.number x s) s
      logRec 0x2028 (0x2000 + p.failed) jn p.slot p.failed p.spare s
    else s

/-- Every replacement taken on. -/
def placeAll (s : State) : State := if isSteward s then (s.stew.jobs.map Prod.fst).foldl (fun s j => placeGo j s) s else s

/-- A job registered again during its replacement: bound anew and resumed (R298 steps 5, 6). -/
def resumeJob (jn : Nat) (s : State) : State :=
  match (job s jn).place with
  | some p =>
    if p.phase = 5 then
      let s := updJob jn (fun j => { j with place := none }) s
      let s := (job s jn).slots.foldl (fun s x => orderSlot jn 4 p.step p.number x s) s
      logRec 0x2029 (0x2000 + p.spare) jn p.step 1 ((s.now - p.since) / 1000000) s
    else s
  | none => s

/-- The active steward stops every steward action (R288): 0x2021 with its cause, then IDLE. -/
def stopSteward (cause holder : Nat) (s : State) : State :=
  let w := s.stew
  logRec 0x2021 0x2000 w.leaseEpoch cause holder 0
    (onStew (fun w => { w with role := 1, active := none, queue := [], rebuilding := false, returning := false }) s)

/-! ### Messages received (R279 to R281) -/

/-- A message taken: a duplicate of the last 100 ms is discarded, one of a steward below the highest epoch accepted is refused; ACK
where asked. An active steward that hears a higher epoch from a steward stops (R288). -/
def recv (h : Hdr) (kind : Nat) (steward : Bool) (s : State) (act : State → State) : State :=
  let s := countHub 0x10 0 false s
  if steward ∧ h.epoch.toNat < s.steer.epoch.toNat then
    let s := countHub 0x11 0 false (onStew (fun w => { w with discards := w.discards + 1 }) s)
    logRec 0x2021 0x2000 s.steer.epoch.toNat 4 (s.stew.active.getD 0xFF) 0 s
  else
    let s := if h.ackReq then ctlSend h.src 0x200 [h.msgid.toNat] s else s
    let old := s.stew.seen.any fun x => x.1 == h.src && x.2.1 == kind && x.2.2.1 == h.msgid.toNat && decide (s.now < x.2.2.2 + 100000000)
    if old then countHub 0x11 0 false (onStew (fun w => { w with discards := w.discards + 1 }) s)
    else
      let s := onStew (fun w => { w with seen := ((h.src, kind, h.msgid.toNat, s.now) :: w.seen.filter fun x => s.now < x.2.2.2 + 100000000).take 4096 }) s
      let s := if steward ∧ s.stew.role = 5 ∧ s.stew.leaseEpoch < h.epoch.toNat then stopSteward 4 h.src s else s
      act (if steward then onSteer (fun t => { t with epoch := if t.epoch.toNat < h.epoch.toNat ∧ kind ≠ 0x101 then h.epoch else t.epoch }) s else s)

end Sys2Proof.Machine
end

