-- ==== Sys2Proof/Machine/Steering.lean ====
section
/-! DEFINITION. Steering: survey and gazetteer (R256 to R259), charts received and applied (R262 to R268), late modules (R270), the ring
requests (R273, R274). -/

namespace Sys2Proof.Machine

/-! ### Survey (R257, R258) -/

def gaz (s : State) (p : Nat) : Gaz := Tbl.get (if planeCount s ≤ p then { state := 4 } else {}) s.steer.gaz p
def setGaz (p : Nat) (g : Gaz) (s : State) : State := onSteer (fun t => { t with gaz := Tbl.set t.gaz p g }) s

/-- STATE of STEER_STAT. -/
def steerCode : SteerState → Nat
  | .surveying => 0 | .uncharted => 1 | .steady => 2 | .staged => 3 | .applying => 4 | .excluded => 5

/-- Planes of a mask. -/
def planesOf (mask : Nat) : List Nat := (List.range 16).filter fun p => bits mask p 1 = 1

/-- One side of a plane tuned for a sweep (R257): lane l to channel l, or l + 16 in the second sweep of a cycle. FAILED lanes stay dark, and so does
a retired transmit side. -/
def sweepSide (half p : Nat) (rx : Bool) (s : State) : State :=
  if !rx && (fab s p).txRetired then s
  else (List.range 16).foldl (fun s l =>
    let k := laneSt s p l rx
    if k.state = .failed then s else setLane p l rx { k with state := .tuning, chan := l + 16 * half, unlocked := false, attempts := 0 } s) s

/-- A sweep begun on the planes of a survey. -/
def startSweep (planes : List Nat) (half : Nat) (s : State) : State :=
  planes.foldl (fun s p => sweepSide half p true (sweepSide half p false s)) s

/-- The lanes of a plane dark after a survey. -/
def darkPlane (s : State) (p : Nat) : State :=
  (List.range 16).foldl (fun s l => [false, true].foldl (fun s rx =>
    let k := laneSt s p l rx
    if k.state = .failed then s else setLane p l rx { k with state := .dark, unlocked := false, attempts := 0 } s) s) s

/-- A survey begun on planes: their records start afresh, the tap baselines are taken anew, and the first sweep is lit. -/
def startSurvey (planes : List Nat) (ring : Option (Nat × Nat)) (s : State) : State :=
  let s := planes.foldl (fun s p =>
    updFab p (fun f => { f with bases := [], located := [] }) (setGaz p { gaz s p with seen := 0, mismatch := 0, deltas := [] } s)) s
  startSweep planes 0 (onSteer (fun t => { t with state := .surveying, survey := some { planes := planes, ring := ring } }) s)

/-- Whether this module lights a channel on a lane of a plane now. -/
def lights (s : State) (p l k : Nat) : Bool := usedTx s p |>.any fun x => x == l && (txLane s p x).chan == k

/-- One frame filed, on a channel of the sweep: a loop frame when it names the lane this module lit on the channel. -/
def fileFrame (s : State) (v : SurveyRun) (f : SurveyFrame) : SurveyRun :=
  let p := f.plane.val
  if v.planes.contains p = false ∨ f.chan.val / 16 ≠ v.sweeps % 2 then v
  else if f.modu.val = me s ∧ f.txChan = f.chan ∧ lights s p f.txLane.val f.chan.val then
    { v with loops := Tbl.set v.loops p (f.chan.val :: Tbl.get [] v.loops p).dedup }
  else
    { v with others := Tbl.set v.others p (((me s + 64 - f.chan.val - f.modu.val) % 32, f.modu.val, f.chan.val) :: Tbl.get [] v.others p) }

/-- A nonzero δ counted against its sender. -/
def addDelta (m d : Nat) (ds : List (Nat × Nat × Nat)) : List (Nat × Nat × Nat) :=
  match ds.find? fun x => x.1 = m ∧ x.2.1 = d with
  | some x => ds.map fun y => if y = x then (m, d, x.2.2 + 1) else y
  | none => ds ++ [(m, d, 1)]

/-- Another module's frame weighed against the loop frames' offset. -/
def weighFrame (o : Nat) (g : Gaz) (x : Nat × Nat × Nat) : Gaz :=
  if x.1 = o then { g with seen := orBit g.seen x.2.2 }
  else { g with mismatch := satAdd 255 g.mismatch 1, deltas := addDelta x.2.1 ((x.1 + 32 - o) % 32) g.deltas }

/-- A plane's record at the end of its survey. -/
def finishPlane (v : SurveyRun) (s : State) (p : Nat) : State :=
  let g := gaz s p
  match Tbl.get [] v.loops p with
  | [k] =>
    let o := (32 - k) % 32
    setGaz p ((Tbl.get [] v.others p).foldl (weighFrame o) { g with state := 2, offset := o, loopch := k }) s
  | ks =>
    let g := { g with state := if ks.isEmpty then 1 else 3, offset := 0xFF }
    logRec 0x2008 0x2000 p g.state g.offset g.mismatch (setGaz p g s)

/-- The most frequent nonzero δ of a record and its sender. -/
def topDelta (g : Gaz) : Nat × Nat :=
  let b := g.deltas.foldl (fun b x => if b.2.2 < x.2.2 then x else b) (0, 0, 0)
  (b.2.1, b.1)

/-- The body of SURVEY_REPORT (R265): 12 bytes a plane. -/
def surveyBody (s : State) : List Nat :=
  [me s, planeCount s] ++ (List.range (planeCount s)).flatMap fun p =>
    let g := gaz s p
    [g.offset, g.state, g.loopch, g.mismatch, g.seen.toNat, (topDelta g).1, (topDelta g).2, 0]

/-- SURVEY_REPORT sent to the active steward, or to the configuration's designated one. -/
def sendSurvey (s : State) : State :=
  match s.stew.active, s.stew.cfg with
  | some m, _ => ctlSend m 0x104 (surveyBody s) s
  | none, some c => ctlSend c.active.toNat 0x104 (surveyBody s) s
  | none, none => s

/-- SURVEY ends (R401): READY, or DEGRADED with a condition of R403. -/
def leaveSurvey (s : State) : State :=
  if s.boot.state ≠ .survey then s
  else
    let mask := degradeMask s ||| s.boot.fenceMask
    if mask = 0 then startSync { s with boot := { s.boot with state := .ready } }
    else announceState 5 mask (startSync { s with boot := { s.boot with state := .degraded } })

/-- The steering state after a survey (R266). -/
def restState (s : State) : SteerState :=
  if s.steer.staged ≠ [] then .staged else if s.steer.charted = false then .uncharted
  else if chMember s.steer.chart (me s) then .steady else .excluded

/-- A mask of the planes surveyed with a STATE. -/
def planesIn (s : State) (v : SurveyRun) (st : Nat) : Nat := maskOf (v.planes.filter fun p => (gaz s p).state = st)

/-- The survey ends: records, the report, and the entry that asked. -/
def endSurvey (v : SurveyRun) (s : State) : State :=
  let s := v.planes.foldl darkPlane (v.planes.foldl (finishPlane v) s)
  let s := onSteer (fun t => { t with survey := none }) s
  let s := sendSurvey (onSteer (fun t => { t with state := restState s }) s)
  let s := match v.ring with
    | some (r, tag) => completeBy r 1 tag 0 (toBytes (planesIn s v 2) 2 ++ toBytes (planesIn s v 1) 2 ++ toBytes (planesIn s v 3) 2) s
    | none => s
  if s.boot.state = .survey ∧ s.boot.reported = false then
    let s := { s with boot := { s.boot with reported := true, reportAt := s.now } }
    if s.stew.cfg.isNone then leaveSurvey s else s
  else s

/-- A sweep ends: its frames are filed, and after 4 cycles the survey ends. -/
def execSurveySweepEnd (frames : List SurveyFrame) (s : State) : Out :=
  match s.steer.survey with
  | none => .next s
  | some v =>
    let v := frames.foldl (fileFrame s) v
    let v := { v with sweeps := v.sweeps + 1 }
    if 8 ≤ v.sweeps then .next (endSurvey v s)
    else .next (startSweep v.planes (v.sweeps % 2) (onSteer (fun t => { t with survey := some v }) s))

/-- Whether the chart in force holds pairs of this module on a plane, lit or not, or a test runs one there. -/
def planeBusy (s : State) (p : Nat) : Bool :=
  ((fab s p).pairs.any fun q => q.2.assigned) || (entsOf s.steer.chart (me s)).any fun e => e.plane == p

/-- SURVEY_CMD. -/
def execSurveyCmd (h : Hdr) (mask : Half16) (s : State) : Out :=
  .next (recv h 0x105 false s fun s =>
    let ps := planesOf mask.toNat
    let t := s.steer
    if t.state = .staged ∨ t.state = .applying then
      logRec 0x2002 0x2000 t.edition.toNat 0 t.epoch.toNat t.edition.toNat s
    else if t.state = .surveying then s
    else
      let ps := ps.filter fun p => p < planeCount s ∧ planeBusy s p = false
      if ps.isEmpty then s else startSurvey ps none s)

/-- SURVEY ring entry (R273, R274). -/
def execSurvey (r : RingIx) (s : State) : Out :=
  .next (onEntry r 3 1 s fun e =>
    let ps := planesOf (ent e 8 2)
    if ps.any (fun p => decide (planeCount s ≤ p)) then complete r e 0x108 [] s
    else if s.steer.state = .staged ∨ s.steer.state = .applying ∨ s.steer.state = .surveying then complete r e 0x102 [] s
    else if ps.any (planeBusy s) then complete r e 0x103 [] s
    else startSurvey ps (some (r.val, entTag e)) (startEntry r e s))

/-! ### Charts received (R262, R265, R266) -/

/-- The checks of R262: 0 accepted, 8 a repeat of a chart held, else the cause. -/
def checkChart (s : State) (c : List Byte) : Nat :=
  let t := s.steer
  if chFormat c = false then 1
  else if (t.staged ≠ [] ∧ chCore t.staged = chCore c) ∨ (t.chart ≠ [] ∧ chCore t.chart = chCore c) then 8
  else if chEpoch c < t.epoch.toNat then 2
  else if t.charted ∧ edDiff (chEdition c) t.edition ≤ 0 then 3
  else if t.staged ≠ [] ∧ chEdition t.staged = chEdition c then 4
  else if chOrder c = false then 5
  else if chLimit c = false then 6
  else if chFrom c = false then 7
  else 0

/-- STAGED sent. -/
def sendStaged (dst : Nat) (ed : Half16) (cause : Nat) (s : State) : State := ctlSend dst 0x102 [ed.toNat, cause, me s] s

/-- A whole chart checked and staged, or rejected. -/
def takeChart (dst : Nat) (c : List Byte) (s : State) : State :=
  let t := s.steer
  match checkChart s c with
  | 0 =>
    let st := if t.state = .uncharted ∨ t.state = .steady ∨ t.state = .excluded then .staged else t.state
    let s := onSteer (fun t => { t with staged := c, epoch := BitVec.ofNat 32 (chEpoch c), state := st }) s
    sendStaged dst (chEdition c) 0 (logRec 0x2001 0x2000 (chEdition c).toNat (chCommit c % 0x100000000) (chPairs c) (chFlags c) s)
  | 8 => sendStaged dst (chEdition c) 0 s
  | k => sendStaged dst (chEdition c) k (logRec 0x2002 0x2000 (chEdition c).toNat k (chEpoch c) t.edition.toNat s)

/-- The parts collected of an edition, with one more. -/
def addPart (old : Option ChartIn) (edition : Half16) (part parts : Nat) (crc : Word) (bytes : List Byte) : ChartIn :=
  let x := match old with
    | some x => if x.edition = edition ∧ x.crc = crc then x else { edition := edition, crc := crc, parts := parts }
    | none => { edition := edition, crc := crc, parts := parts }
  { x with got := (part, bytes) :: x.got.filter fun p => p.1 ≠ part }

/-- The bytes of a complete collection. -/
def partBytes (x : ChartIn) : List Byte := (List.range x.parts).flatMap fun i => match x.got.find? fun p => p.1 = i with
  | some p => p.2
  | none => []

/-- CHART_PART. -/
def execChartPart (h : Hdr) (edition : Half16) (part parts : Nat) (crc : Word) (bytes : List Byte) (s : State) : Out :=
  .next (recv h 0x101 true s fun s =>
    let old := match s.steer.latestPart with
      | some l => decide (edDiff edition l < 0)
      | none => false
    if old then s
    else
      let x := addPart s.steer.parts edition part parts crc bytes
      let s := onSteer (fun t => { t with latestPart := some edition }) s
      if (List.range x.parts).all fun i => x.got.any fun p => p.1 == i then
        let c := partBytes x
        let s := onSteer (fun t => { t with parts := none }) s
        if chCrc c = crc.toNat then takeChart h.src c s
        else sendStaged h.src edition 1 (logRec 0x2002 0x2000 edition.toNat 1 h.epoch.toNat s.steer.edition.toNat s)
      else onSteer (fun t => { t with parts := some x }) s)

/-! ### Applying (R263, R266, R267, R216) -/

/-- Whether a pair is that of a loop test, outside the chart (R273). -/
def isTest (s : State) (p l : Nat) : Bool := s.steer.loops.any fun x => x.plane == p && x.tx == l

/-- The pair a chart entry already has here, by plane and peer; a loop pair's peer is this module. -/
def pairFor (s : State) (p m : Nat) : Option Nat :=
  ((fab s p).pairs.find? fun q => q.2.assigned && q.2.peer == m && q.2.loop == (m == me s) && !isTest s p q.1).map Prod.fst

/-- Whether an entry may be lit here: its plane SURVEYED, its offset as in the gazetteer. -/
def planeLights (s : State) (c : List Byte) (p : Nat) : Bool := (gaz s p).state == 2 && chOffset c p == (gaz s p).offset

/-- The lowest DARK lane of a side. -/
def darkLane (s : State) (p : Nat) (rx : Bool) : Option Nat := (List.range 16).find? fun l => (laneSt s p l rx).state = .dark

/-- A lane darkened; a FAILED one is released. -/
def darken (p l : Nat) (rx : Bool) (s : State) : State := setLane p l rx { laneSt s p l rx with state := .dark, unlocked := false, attempts := 0 } s

/-- A pair that leaves the chart: OFF, its lanes dark. -/
def clearPair (p l : Nat) (s : State) : State :=
  let r := (pair s p l).rxLane
  darken p r true (darken p l false (pairClear p l s))

/-- A pair that leaves by itself. -/
def leavePair (p l : Nat) (s : State) : State := pairGone p l (clearPair p l s)

/-- A pair lit on the lowest DARK lanes. -/
def lightPair (p peer : Nat) (ch : Nat × Nat) (from_ : Half16) (loop : Bool) (s : State) : State :=
  match darkLane s p false, darkLane s p true with
  | some l, some r =>
    if (fab s p).txRetired then s
    else
      let s := setTx p l { txLane s p l with state := .tuning, chan := ch.1 } s
      let s := setRx p r { rxLane s p r with state := .tuning, chan := ch.2 } s
      let k := pair s p l
      setPair p l { retrains := k.retrains, trainFails := k.trainFails, replays := k.replays, discards := k.discards, edDrops := k.edDrops,
                    assigned := true, peer := peer, rxLane := r, from_ := from_, loop := loop } s
  | _, _ => s

/-- A pair whose FROM has changed leaves and joins in one switch, on its lanes (R263): what it held is dropped, its link state begins anew, and it
retrains, quickly where it has codes; a DOWN pair is added again (R236). -/
def rejoin (p l : Nat) (from_ : Half16) (s : State) : State :=
  let k := pair s p l
  let s := pairClear p l s
  let s := updPair p l (fun n => { n with assigned := true, peer := k.peer, rxLane := k.rxLane, loop := k.loop, from_ := from_, code := k.code,
                                          rxcode := k.rxcode, state := if k.state = .off then .off else .down }) s
  let s := pairGone p l s
  match k.state with
  | .off => s
  | .down => startAgain p l s
  | _ =>
    let x := drawFree 6 s
    if k.code = 0 ∨ k.rxcode = 0 then startAgain p l s else toRetrain p l (x.1 % 0x100000000) x.2

/-- One entry of the new chart taken up (R263): a common pair is untouched and reports the new edition, one with a new FROM leaves and joins, another
joins, or stays unlit (R262). -/
def takeEnt (c : List Byte) (s : State) (e : ChEnt) : State :=
  let m := me s
  let peer := entPeer e m
  match pairFor s e.plane peer with
  | some l =>
    if (pair s e.plane l).from_ = e.from_ then updPair e.plane l (fun k => { k with laneDue := true }) s
    else rejoin e.plane l e.from_ (onSteer (fun t => { t with joining := t.joining ++ [(e.plane, peer)] }) s)
  | none =>
    if planeLights s c e.plane then
      lightPair e.plane peer (entChans e m (chOffset c e.plane)) e.from_ e.loop
        (onSteer (fun t => { t with joining := t.joining ++ [(e.plane, peer)] }) s)
    else onSteer (fun t => { t with unlit := t.unlit ++ [(e.plane, peer)] }) s

/-- Pairs of a plane that the chart does not hold on the same channels; without this module in it, every pair. -/
def leaving (s : State) (c : List Byte) (p : Nat) : List (Nat × Nat) :=
  let es := entsOf c (me s)
  let out := !chMember c (me s)
  ((fab s p).pairs.filter fun q => q.2.assigned && (out || (!isTest s p q.1 && !(es.any fun e =>
    e.plane == p && entPeer e (me s) == q.2.peer && planeLights s c p)))).map fun q => (p, q.1)

/-- The chart in force taken up on some planes: the pairs that leave go OFF, and then those that stay or join are taken in turn. -/
def takePlanes (ps : List Nat) (s : State) : State :=
  let c := s.steer.chart
  let out := ps.flatMap (leaving s c)
  let s := out.foldl (fun s x => clearPair x.1 x.2 s) s
  let s := out.foldl (fun s x => pairGone x.1 x.2 s) s
  ((entsOf c (me s)).filter fun e => ps.contains e.plane).foldl (takeEnt c) s

/-- Whether a plane's change of chart waits for its hand-over's step 4 (R225). -/
def deferred (s : State) (p : Nat) : Bool := handStep s p == 2 || handStep s p == 3

/-- Changes of chart that waited for a hand-over and wait no more. -/
def applyDeferred (s : State) : State :=
  let ps := s.steer.deferred.filter fun p => !deferred s p
  if ps = [] then s
  else takePlanes ps (onSteer (fun t => { t with deferred := t.deferred.filter fun p => !ps.contains p }) s)

/-- Lanes placed from this module for a context's peers. -/
def lanesFor (s : State) (c : Nat) : Nat :=
  let w := Tbl.get [] s.steer.demand (4 * me s + c)
  ((entsOf s.steer.chart (me s)).filter fun e => !e.loop && decide (0 < w.getD (entPeer e (me s)) 0)).length

/-- DEMAND entries that a newly applied chart reflects complete (R273). -/
def completeDemands (s : State) : State :=
  s.steer.demandFor.foldl (fun s d =>
    if 0 < edDiff s.steer.edition (BitVec.ofNat 16 d.2.2.2.1) then
      let s := onSteer (fun t => { t with demandFor := t.demandFor.filter fun x => x ≠ d }) s
      completeBy d.2.1 3 d.2.2.1 0 (toBytes s.steer.edition.toNat 2 ++ toBytes (lanesFor s d.1) 2) s
    else s) s

/-- The staged chart put in force (R266, R267). -/
def applyChart (s : State) : State :=
  let c := s.steer.staged
  let in_ := chMember c (me s)
  let wait := (List.range 16).filter (deferred s)
  let s := onSteer (fun t => { t with chart := c, staged := [], edition := chEdition c, charted := true, unlit := [], joining := [],
                                      deferred := wait, applyAt := s.now, state := if in_ then .applying else .excluded }) s
  let s := takePlanes ((List.range 16).filter fun p => !wait.contains p) s
  let s := if in_ then s else switchEnded (logRec 0x2007 0x2000 (chEdition c).toNat (chEpoch c) (chSteward c) 0 s)
  let s := (allPairs s).foldl (fun s x => releaseWait x.1 x.2 s) s
  removeCheck (pump (completeDemands s))

/-- Pod time has reached COMMIT. -/
def execChartCommit (s : State) : Out :=
  if s.steer.state = .staged ∧ chCommit s.steer.staged ≤ s.time.ns.toNat then .next (applyChart s) else .next s

/-- Why a pair (plane, peer) is not up: 0 it is, 1 training failed, 2 optical FAILED, 3 peer not training, 4 PLANE (R265). -/
def notUpReason (s : State) (x : Nat × Nat) : Nat :=
  if s.steer.unlit.contains x then 4
  else match pairFor s x.1 x.2 with
    | none => 2
    | some l =>
      let k := pair s x.1 l
      if k.state = .up ∨ k.state = .active then 0
      else if (txLane s x.1 l).state = .failed ∨ (rxLane s x.1 k.rxLane).state = .failed then 2
      else if k.state = .down then 1 else 3

/-- The joining pairs not up and those not lit for PLANE, as (plane, peer, reason). -/
def notUps (s : State) : List (Nat × Nat × Nat) :=
  (s.steer.joining ++ s.steer.unlit).filterMap fun x =>
    let r := notUpReason s x
    if r = 0 then none else some (x.1, x.2, r)

/-- APPLIED sent to the active steward. -/
def sendApplied (body : List Nat) (s : State) : State := match s.stew.active with
  | some m => ctlSend m 0x103 body s
  | none => ctlSend (chSteward s.steer.chart) 0x103 body s

/-- Whether a hand-over stands between its steps 2 and 4, or has left a change of chart waiting (R225). -/
def handHolds (s : State) : Bool :=
  !s.steer.deferred.isEmpty || (List.range 16).any fun p => decide (2 ≤ handStep s p ∧ handStep s p ≤ 4)

/-- Whether an edition's switch is over here: every joining pair UP or ACTIVE, or COMMIT + 5 ms. -/
def switchOver (s : State) : Bool :=
  (s.steer.joining.all fun x => notUpReason s x == 0) || decide (chCommit s.steer.chart + 5000000 ≤ s.time.ns.toNat)

/-- The edition reported applied (R266). -/
def finishApply (s : State) : State :=
  let us := min 0xFFFFFF ((s.now - s.steer.applyAt) / 1000)
  let nu := notUps s
  let body := [s.steer.edition.toNat, me s, min 64 nu.length, us] ++ (nu.take 64).flatMap fun x => [x.1, x.2.1, x.2.2, 0]
  let s := onSteer (fun t => { t with notUp := min 255 nu.length, applyUs := us, lastApplied := body,
                                      state := if t.staged = [] then .steady else .staged }) s
  let s := sendApplied body (logRec 0x2003 0x2000 s.steer.edition.toNat us nu.length 0 s)
  let s := switchEnded (leaveSurvey s)
  if s.steer.state = .staged ∧ chCommit s.steer.staged ≤ s.time.ns.toNat then applyChart s else s

/-- Every joining pair is UP or ACTIVE, or COMMIT + 5 ms has come. -/
def execChartApplyDeadline (s : State) : Out :=
  let s := applyDeferred s
  if s.steer.state ≠ .applying ∨ handHolds s ∨ switchOver s = false then .next s else .next (finishApply s)

/-! ### At the steward (R259, R265, R270) -/

/-- A module has not acknowledged a chart within 1 ms: its copy goes over the bond. -/
def execChartControlResend (m : Modu) (s : State) : Out :=
  match s.steer.issued with
  | i :: _ =>
    if isSteward s ∧ chMember i.chart m.val ∧ i.staged.contains m.val = false then .next (sendChartFabric i.chart m.val s) else .next s
  | [] => .next s

/-- STAGED. -/
def execStaged (h : Hdr) (edition : Half16) (cause : Nat) (m : Modu) (s : State) : Out :=
  .next (recv h 0x102 false s fun s => if cause = 0 then record 3 [edition.toNat, m.val, 4] .none_ s else s)

/-- CHART_SUBMIT entries whose edition is settled complete. -/
def completeSubmits (s : State) : State :=
  s.steer.issued.foldl (fun s i =>
    let ok := (List.range 32).all fun m => !chMember i.chart m || i.applied.contains m || i.contained.contains m
    match i.submit with
    | some (r, tag) =>
      if ok then
        completeBy r 4 tag 0 (toBytes (chEdition i.chart).toNat 2) (updIssued (chEdition i.chart).toNat (fun i => { i with submit := none }) s)
      else s
    | none => s) s

/-- A member excluded for its SLOT_ID (R259). -/
def wrongSlot (m d kind p : Nat) (s : State) : State :=
  if s.steer.wrongSlot.contains m then s
  else
    let s := onSteer (fun t => { t with wrongSlot := m :: t.wrongSlot }) s
    let s := logRec 0x2009 (0x2000 + m) m d kind p s
    let s := recordMember m { member s m with state := 4 } s
    reduce [m] (fun _ => false) s

/-- Whether some pair of a member trained under an edition, as its APPLIED says. -/
def someTrained (s : State) (edition : Half16) (m : Nat) (notUp : List NotUp) : Bool :=
  s.steer.issued.any fun i => chEdition i.chart == edition &&
    (entsOf i.chart m).any fun e => !e.loop && !(notUp.any fun x => x.plane.val == e.plane && x.peer.val == entPeer e m)

/-- APPLIED. A joining member three of whose pairs have failed the identity check, and none of whose pairs has ever trained, has a wrong SLOT_ID
(R259). -/
def execApplied (h : Hdr) (edition : Half16) (m : Modu) (_us : Nat) (notUp : List NotUp) (s : State) : Out :=
  .next (recv h 0x103 false s fun s =>
    if isSteward s = false then s
    else
      let s := record 3 [edition.toNat, m.val, 1] .none_ s
      let bad := (notUp.filter fun x => x.reason = 1 ∨ x.reason = 2 ∨ x.reason = 4).map fun x => (x.plane.val, min m.val x.peer.val, max m.val x.peer.val)
      let up := someTrained s edition m.val notUp
      let s := onSteer (fun t => { t with failedPairs := (t.failedPairs ++ bad).dedup, trained := if up then (m.val :: t.trained).dedup else t.trained }) s
      let s := if 3 ≤ (Tbl.get [] s.steer.trainFail3 m.val).length ∧ s.steer.trained.contains m.val = false then wrongSlot m.val 0 1 0 s else s
      placeAll (completeSubmits s))

/-- Members with a wrong SLOT_ID by the reports: (member, δ, plane). -/
def slotSuspects (s : State) : List (Nat × Nat × Nat) :=
  let all := s.steer.reports.flatMap fun q => q.2.zipIdx.filterMap fun g => if g.1.delta = 0 then none else some (q.1, g.1.deltaFrom, g.1.delta, g.2)
  (List.range 32).filterMap fun m =>
    (List.range 32).findSome? fun d =>
      let said := (all.filter fun x => x.1 == m && x.2.2.1 == d && d != 0)
      let heard := (all.filter fun x => x.2.1 == m && x.2.2.1 == d && d != 0)
      if 2 ≤ (said.map fun x => x.2.1).dedup.length then some (m, d, (said.headD (0, 0, 0, 0)).2.2.2)
      else if 2 ≤ (heard.map fun x => x.1).dedup.length then some (m, d, (heard.headD (0, 0, 0, 0)).2.2.2)
      else none

/-- A member's offset of a plane held against the pod's: a disagreement is recorded when it is found. -/
def checkOffset (s : State) (x : Nat × Nat) : State :=
  let m := x.1
  let p := x.2
  match reported s m p with
  | none => s
  | some g =>
    if g.state = 2 ∧ g.offset.toNat ≠ podOffset s p then
      if s.steer.disagree.contains x then s
      else logRec 0x200A (0x2000 + m) m p g.offset.toNat (podOffset s p) (onSteer (fun t => { t with disagree := x :: t.disagree }) s)
    else onSteer (fun t => { t with disagree := t.disagree.filter fun y => y ≠ x }) s

/-- The pod's offsets decided anew, and every member that disagrees recorded (R259). -/
def decideOffsets (s : State) : State :=
  let s := onSteer (fun t => { t with podOffset := (List.range 16).foldl (fun o p => Tbl.set o p (podOffsetOf (podOffset s p) (offsetsOf s p))) t.podOffset }) s
  ((cfgMembers s).flatMap fun m => (List.range 16).map fun p => (m, p)).foldl checkOffset s

/-- Whether a report comes from another module that names the SLOT_ID of one that has reported (R259). -/
def sharedSlot (s : State) (m : Nat) (addr : BitVec 128) : Bool := match s.steer.reporter.find? fun x => x.1 = m with
  | some x => x.2 != addr
  | none => false

/-- SURVEY_REPORT. The second of two modules with one SLOT_ID is recorded and not charted (R259). -/
def execSurveyReport (h : Hdr) (m : Modu) (recs : List GazRec) (addr : BitVec 128) (s : State) : Out :=
  .next (recv h 0x104 false s fun s =>
    if isSteward s ∧ sharedSlot s m.val addr then logRec 0x2009 (0x2000 + m.val) m.val 0 2 0 s
    else
    let s := onSteer (fun t => { t with reports := Tbl.set t.reports m.val recs, reportOrder := t.reportOrder ++ [m.val],
                                        reporter := Tbl.set t.reporter m.val addr }) s
    if isSteward s = false then s
    else
      let s := decideOffsets s
      let s := (slotSuspects s).foldl (fun s x => wrongSlot x.1 x.2.1 1 x.2.2 s) s
      let spare := match s.stew.cfg with
        | some c => bit c.spares m.val
        | none => false
      let k := member s m.val
      let s := recordMember m.val { k with state := if s.steer.wrongSlot.contains m.val then 4 else if spare then 2 else 1, wide := isWide s m.val } s
      let s := replan s
      if s.boot.state = .survey ∧ s.steer.wrongSlot.contains (me s) then enterFenced 5 s else s)

/-- Whether an edition was issued under this steward's epoch (R289). -/
def ownEdition (s : State) (i : Issued) : Bool := chEpoch i.chart == s.stew.leaseEpoch

/-- A retry sent to a late module, or its containment (R270). -/
def retryOrContain (m : Nat) (i : Issued) (s : State) : State :=
  let ed := (chEdition i.chart).toNat
  let n := Tbl.get 0 i.retries m
  if n < fld s.steer.cfg 8 2 ∧ ownEdition s i then
    let head := (i.chart.take 6) ++ toBytes (chFlags i.chart ||| 2) 2 ++ (i.chart.drop 8).take 52
    let c := head ++ toBytes (crc32c (head ++ i.chart.drop 64)) 4 ++ i.chart.drop 64
    let s := updIssued ed (fun i => { i with retries := Tbl.set i.retries m (n + 1), retryAt := Tbl.set i.retryAt m s.now }) s
    logRec 0x2005 (0x2000 + m) m ed (n + 1) 0 (sendChartFabric c m (sendChart c m s))
  else completeSubmits (contain m s)

/-- The newest edition, while this module is the steward and a member has neither applied it nor been contained. -/
def lateIn (s : State) (m : Nat) : Option Issued :=
  match s.steer.issued with
  | i :: _ => if isSteward s ∧ chMember i.chart m ∧ i.applied.contains m = false ∧ i.contained.contains m = false then some i else none
  | [] => none

/-- No APPLIED from a member at COMMIT + 5 ms. -/
def execLateModule (m : Modu) (s : State) : Out :=
  match lateIn s m.val with
  | none => .next s
  | some i =>
    if s.time.ns.toNat < chCommit i.chart + 5000000 ∨ 0 < Tbl.get 0 i.retries m.val then .next s
    else
    let s := logRec 0x2004 (0x2000 + m.val) m.val (chEdition i.chart).toNat (Tbl.get 0 i.retries m.val) 0 s
    .next (retryOrContain m.val i (onSteer (fun t => { t with late := satAdd 0xFFFF t.late 1 }) s))

/-- 5 ms after a retry without APPLIED. -/
def execRetryWaitExpiry (m : Modu) (s : State) : Out :=
  match lateIn s m.val with
  | some i =>
    if 0 < Tbl.get 0 i.retries m.val ∧ Tbl.get 0 i.retryAt m.val + 5000000 ≤ s.now then .next (retryOrContain m.val i s) else .next s
  | none => .next s

/-! ### Ring requests (R273, R274) -/

/-- CHART_READ. -/
def execChartRead (r : RingIx) (s : State) : Out :=
  .next (onEntry r 3 2 s fun e =>
    let which := ent e 8 1
    let c := if which = 0 then s.steer.chart else s.steer.staged
    if 1 < which then complete r e 0x10 [] s
    else if c = [] then complete r e 0x104 [] s
    else
      let bs := c ++ (if isSteward s then lanesPlaced s c else [])
      if ent e 24 4 < bs.length then complete r e 0x109 [] s
      else if tableWaits s (ent e 16 8) then s
      else
        let x := writeTable r e (ent e 16 8) bs s
        complete r e x.1 (if x.1 = 0 then toBytes bs.length 4 ++ toBytes (chEdition c).toNat 2 else []) x.2)

/-- A demand put in force: the planner's wishes of a module's context (R264). -/
def setDemand (m c : Nat) (bs : List Byte) (s : State) : State :=
  onSteer (fun t => { t with demand := Tbl.set t.demand (4 * m + c) (bs.map BitVec.toNat) }) s

/-- A chart issued from the demand in force. -/
def planNow (s : State) : State :=
  let ms := planMembers s
  issueChart 0 (s.time.ns.toNat + leadNs s) ms (planEntries s ms (chEnts (newest s)) (nextEdition s)) none s

/-- DEMAND: the context's wishes replaced and passed to the steward, who plans with them. -/
def execDemand (r : RingIx) (passed : Option (Modu × Ctx × List Byte)) (s : State) : Out :=
  match passed with
  | some (m, c, bs) => .next (if isSteward s then planNow (setDemand m.val c.val bs s) else s)
  | none => .next (onEntry r 3 3 s fun e =>
    let c := ent e 8 1
    if 3 < c then complete r e 0x10 [] s
    else withTable r e (ent e 16 8) 32 s fun bs s =>
        if bs.any fun b => decide (16 < b.toNat) then complete r e 0x10 [] s
        else
          let ed := if isSteward s then (chEdition (newest s)).toNat else s.steer.edition.toNat
          let s := setDemand (me s) c bs (startEntry r e s)
          let s := onSteer (fun t => { t with demandFor := t.demandFor ++ [(c, r.val, entTag e, ed, s.now)] }) s
          if isSteward s then planNow s
          else match s.stew.active with
            | some m => send .ctl 0 ([m, c] ++ bs.map BitVec.toNat) s
            | none => s)

/-- No answer of the steward within 100 ms. -/
def execDemandTimeout (r : RingIx) (s : State) : Out :=
  match s.steer.demandFor.find? fun d => d.2.1 = r.val with
  | some d =>
    if isSteward s ∨ s.now < d.2.2.2.2 + 100000000 then .next s
    else
      let s := onSteer (fun t => { t with demandFor := t.demandFor.filter fun x => x ≠ d }) s
      .next (completeBy r 3 d.2.2.1 0x106 [] s)
  | none => .next s

/-- The FROM of a submitted entry (R263). -/
def fromOf (prev : List ChEnt) (ed : Half16) (e : ChEnt) : ChEnt :=
  match prev.find? fun x => x.plane = e.plane ∧ x.a = e.a ∧ x.b = e.b ∧ x.loop = e.loop with
  | some x => { e with from_ := x.from_ }
  | none => { e with from_ := ed }

/-- CHART_SUBMIT. -/
def execChartSubmit (r : RingIx) (s : State) : Out :=
  .next (onEntry r 3 4 s fun e =>
    if isSteward s = false then complete r e 0x101 [] s
    else withTable r e (ent e 16 8) 64 s fun h s => withTable r e (ent e 16 8) (64 + 8 * chPairs h) s fun c s =>
          let ed := nextEdition s
          let es := (chEnts c).map (fromOf (chEnts (newest s)) ed)
          let commit := s.time.ns.toNat + leadNs s
          let new := mkChart ed (chFlags c) commit s.stew.leaseEpoch (chMembers c) (chWide c) (me s) ((List.range 16).map (chOffset c)) es
          let cause := if chReserved c = false ∨ getN c 0 4 ≠ 0x54524843 then 1
            else if chOrder new = false then 5 else if chLimit new = false then 6 else if chFrom new = false then 7 else 0
          if cause ≠ 0 then complete r e 0x105 ([0, 0, 0, 0, 0, 0, 0, 0] ++ toBytes cause 1) s
          else
            let s := record 2 (new.map BitVec.toNat) (.chart new (some (r.val, entTag e))) (startEntry r e s)
            updIssued ed.toNat (fun i => { i with submit := some (r.val, entTag e) }) s)

/-- LOOP_TEST: the loop-back channel lit as a loop pair outside the chart. -/
def execLoopTest (r : RingIx) (s : State) : Out :=
  .next (onEntry r 3 5 s fun e =>
    let p := ent e 8 1
    let d := ent e 12 4
    if 15 < p ∨ d < 100 ∨ 1000000 < d then complete r e 0x10 [] s
    else if planeCount s ≤ p then complete r e 0x108 [] s
    else if s.steer.loops.any fun x => x.plane == p then complete r e 0x102 [] s
    else match darkLane s p false, darkLane s p true with
      | some l, some x =>
        if (gaz s p).state ≠ 2 ∨ (fab s p).txRetired then complete r e 0x107 [] s
        else
          let k := (gaz s p).loopch
          let s := lightPair p (me s) (k, k) 0 true (startEntry r e s)
          onSteer (fun t => { t with loops := t.loops ++ [{ plane := p, tx := l, rx := x, ring := r.val, tag := entTag e,
                                                            till := s.now + 1000 * d }] }) s
      | _, _ => complete r e 0x107 [] s)

/-- A loop test's duration has passed: the pair is darkened and the entry completes. -/
def execLoopTestEnd (p : Plane) (ber : Word) (unc : Word) (s : State) : Out :=
  match s.steer.loops.find? fun x => x.plane = p.val with
  | none => .next s
  | some x =>
    if s.now < x.till then .next s
    else
    let s := leavePair p.val x.tx (onSteer (fun t => { t with loops := t.loops.erase x }) s)
    .next (completeBy x.ring 5 x.tag 0 (toBytes ber.toNat 4 ++ toBytes unc.toNat 4) s)

end Sys2Proof.Machine
end

