-- ==== Sys2Proof/Machine/Handover.lean ====
section
/-! DEFINITION. The steps of a fabric hand-over that may take up a chart which waited for it (R224, R225). -/

namespace Sys2Proof.Machine

/-- A drain has not finished within 1 ms. -/
def execFabHandoverDrainTimeout (p : Plane) (s : State) : Out := .next (applyDeferred (drainTimeout p.val s))

/-- The comb switch has moved: step 4, which applies the edition that waited. -/
def execFabSwitchDone (p : Plane) (s : State) : Out :=
  match handAt s p.val 3 with
  | some h => .next (applyDeferred (switchDone p.val h s))
  | none => .next s

/-- Step 4 ends: the hand-over completes, or the switch returns to the old comb and the hand-over is retried once. -/
def execFabRelockDone (p : Plane) (ok : Bool) (stallUs : Nat) (s : State) : Out := .next (applyDeferred (relockDone p.val ok stallUs s))

end Sys2Proof.Machine
end

