-- ==== Sys2Proof/Machine/Steward.lean ====
section
/-! DEFINITION. The steward pair, the lease and its arbiter (R276 to R291), heartbeats and detection (R293, R294), risk (R295, R296), jobs and
bindings (R298 to R301), module authority (R292). -/

namespace Sys2Proof.Machine

/-! ### The arbiter's place (R276) -/

/-- Whether the configuration makes this module the arbiter. -/
def namedArbiter (s : State) : Bool := match s.stew.cfg with
  | some c => c.arbiter.toNat == me s
  | none => false

/-- Whether this module acts as the arbiter. -/
def isArbiter (s : State) : Bool := namedArbiter s && hasAuthority s

/-- The arbiter. -/
def arbiter (s : State) : Nat := match s.stew.cfg with
  | some c => c.arbiter.toNat
  | none => 0xFF

def onArb (f : ArbSt → ArbSt) (s : State) : State := onStew (fun w => { w with arb := f w.arb }) s

/-- 1 ms in ns. -/
def msNs : Nat := 1000000

/-! ### The arbiter (R283, R284) -/

/-- A grant: the epoch rises for a holder other than the current one. -/
def arbGrant (m : Nat) (solicited : Bool) (msgid : Nat) (s : State) : State :=
  let a := s.stew.arb
  let new := a.holder ≠ m ∨ a.state ≠ 2
  let ep := if new then max (max a.epoch a.seen) s.steer.epoch.toNat + 1 else a.epoch
  let s := onArb (fun a => { a with state := 2, holder := m, epoch := ep, returning := 0xFF,
                                    expiry := s.now + (if solicited then 20 else 21) * msNs }) s
  let s := if new then logRec 0x2020 0x2000 m ep (if solicited then 1 else 2) (Tbl.get 2 s.stew.arb.mirrorOf m) s else s
  ctlSend m 0x202 [ep, m, b2n solicited, msgid] s

/-- A denial. -/
def arbDeny (m cause : Nat) (s : State) : State :=
  let a := s.stew.arb
  ctlSend m 0x203 [cause, if a.state = 2 ∨ a.state = 3 then a.holder else 0xFF, 0, a.epoch] s

/-- A request of a designated module answered by the lease's state. -/
def arbRequest (h : Hdr) (b : LeaseReq) (s : State) : State :=
  let a := s.stew.arb
  match a.state with
  | 0 => arbDeny h.src 4 s
  | 1 =>
    if designated s h.src = 1 ∨ a.freeAt + 1000 * msNs ≤ s.now then arbGrant h.src true h.msgid.toNat s else arbDeny h.src 5 s
  | 2 =>
    if a.holder = h.src ∧ b.renew then arbGrant h.src true h.msgid.toNat s
    else if b.ret ∧ designated s h.src = 1 ∧ b.mirror = 0 ∧ designated s a.holder = 2 then
      onArb (fun a => { a with state := 3, returning := h.src }) (arbDeny h.src 1 s)
    else arbDeny h.src 1 s
  | _ => if a.holder = h.src ∧ b.renew then ctlSend h.src 0x204 [a.epoch, 1] s else arbDeny h.src 1 s

/-- LEASE_REQ. -/
def execLeaseReq (h : Hdr) (b : LeaseReq) (s : State) : Out :=
  .next (recv h 0x201 false s fun s =>
    if isArbiter s = false then s
    else
      let s := onArb (fun a => { a with seen := max a.seen h.epoch.toNat }) s
      if h.configEpoch.toNat ≠ cfgEpoch s then arbDeny h.src 3 s
      else if designated s h.src = 0 then arbDeny h.src 2 s
      else
        arbRequest h b (onArb (fun a => { a with lastReq := Tbl.set a.lastReq h.src (s.now + 1), mirrorOf := Tbl.set a.mirrorOf h.src b.mirror }) s))

/-- RELEASED at the arbiter: the returning module is granted the lease. -/
def execReleased (h : Hdr) (_epoch : Word) (_finalSeq : Nat) (s : State) : Out :=
  .next (recv h 0x205 false s fun s =>
    let a := s.stew.arb
    if isArbiter s ∧ a.state = 3 ∧ a.holder = h.src then arbGrant a.returning false 0 s else s)

/-- The lease expires at the arbiter. -/
def execArbiterLeaseExpiry (s : State) : Out :=
  let a := s.stew.arb
  if isArbiter s = false ∨ s.now < a.expiry then .next s
  else if a.state = 3 then .next (arbGrant a.returning false 0 s)
  else if a.state = 2 then
    let o := partner s a.holder
    let t := Tbl.get 0 a.lastReq o
    if t ≠ 0 ∧ s.now ≤ t - 1 + 10 * msNs then .next (arbGrant o false 0 s)
    else .next (onArb (fun a => { a with state := 1, holder := 0xFF, freeAt := s.now }) s)
  else .next s

/-- 25 ms after start-up, or after becoming arbiter, the lease is FREE. -/
def execArbiterStartingEnd (s : State) : Out :=
  let a := s.stew.arb
  if isArbiter s ∧ a.state = 0 ∧ a.freeAt + 25 * msNs ≤ s.now then .next (onArb (fun a => { a with state := 1, freeAt := s.now }) s)
  else .next s

/-! ### Requests (R282) -/

/-- A LEASE_REQ sent to the arbiter. -/
def sendReq (flags : Nat) (s : State) : State :=
  let w := s.stew
  if hasAuthority s = false then s
  else ctlSend (arbiter s) 0x201 [flags, designated s (me s), b2n (!w.twinUp), w.mirror, if w.role = 5 then w.seq else w.applied]
    (onStew (fun w => { w with reqAt := s.now }) s)

/-- Every 5 ms the holder renews. -/
def execLeaseRenewDue (s : State) : Out := .next (if isSteward s then sendReq 1 s else s)


/-- Every 5 ms a designated module without the lease asks for it. -/
def execCandidacyDue (s : State) : Out :=
  .next (if designated s (me s) ≠ 0 ∧ isSteward s = false ∧ inService_ s then sendReq 0 s else s)

/-- The holder's own timer ends. -/
def execHolderLeaseTimerEnd (s : State) : Out := .next (if s.stew.role = 5 ∧ s.stew.until_ ≤ s.now then stopSteward 1 (me s) s else s)

/-! ### Takeover (R288, R289) -/

/-- The kind of a takeover: 1 FAST, 2 REBUILD, 3 RETURN, 4 START. -/
def takeKind (s : State) : Nat :=
  let w := s.stew
  if w.role = 3 ∧ w.mirror = 0 then if w.returning then 3 else 1
  else if w.role = 1 ∧ w.active.isNone ∧ s.steer.charted = false then 4 else 2

/-- The pod's members other than none: who is sent to. -/
def sendAll (kind : Nat) (body : List Nat) (s : State) : State := (cfgMembers s).foldl (fun s m => ctlSend m kind body s) s

/-- HOLD left: the queue and the count of dropped reports sent, 0x2024, event 0x2041 (R290). -/
def leaveHold (s : State) : State :=
  let w := s.stew
  if w.hold = false then s
  else
    let ms := (s.now - w.holdAt) / msNs
    let ep := s.steer.epoch.toNat
    let s := onStew (fun w => { w with hold := false, reports := [], dropped := 0 }) s
    let s := match w.active with
      | some m => (w.reports ++ [recordBody s [0x2024, 0x2000, 2, ep, ms, w.dropped]]).foldl (fun s b => ctlSend m 0x20C b s) s
      | none => s
    postEvent 0x2041 0x2000 none ep ms w.dropped 0 (logRec 0x2024 0x2000 2 ep ms w.dropped s)

/-- The role taken on a grant. -/
def takeOver (epoch : Nat) (s : State) : State :=
  let k := takeKind s
  let prev := s.stew.active.getD 0xFF
  let gap := (s.now - s.stew.lastAck) / 1000
  let fresh := fun (p : Nat × Member) => (p.1, { p.2 with heardAt := s.now, probing := false })
  let s := onSteer (fun t => { t with epoch := BitVec.ofNat 32 (max t.epoch.toNat epoch) }) s
  let s := onStew (fun w => { w with role := 5, active := some (me s), leaseEpoch := epoch, returning := false, seq := w.applied,
                                     members := w.members.map fresh, statuses := [], rebuilding := k == 2 || k == 4,
                                     mirror := if w.twinUp then w.mirror else 1 }) s
  let s := sendReq 1 (sendAll 0x206 [epoch, me s, prev, k] s)
  let s := if k = 2 ∨ k = 4 then sendAll 0x211 [1] s else s
  leaveHold (logRec 0x2022 0x2000 epoch prev k gap s)

/-- LEASE_GRANT. -/
def execLeaseGrant (h : Hdr) (epoch : Word) (holder : Nat) (solicited : Bool) (s : State) : Out :=
  .next (recv h 0x202 false s fun s =>
    if hasAuthority s = false ∨ holder ≠ me s ∨ h.src ≠ arbiter s ∨ designated s (me s) = 0 ∨ epoch.toNat < s.steer.epoch.toNat then s
    else
      let basis := if solicited then s.stew.reqAt else s.now
      let s := onStew (fun w => { w with basis := basis, until_ := basis + 19900000 }) s
      if isSteward s ∧ s.stew.leaseEpoch = epoch.toNat then s else takeOver epoch.toNat s)

/-- LEASE_DENY: candidacy goes on; on CONFIG the configuration is asked for. -/
def execLeaseDeny (h : Hdr) (cause : Nat) (_holder : Nat) (_epoch : Word) (s : State) : Out :=
  .next (recv h 0x203 false s fun s => if cause = 3 then ctlSend h.src 0x211 [0] s else s)

/-- LEASE_END: nothing new is issued; RELEASED goes to the arbiter and the returning module. -/
def execLeaseEnd (h : Hdr) (epoch : Word) (_cause : Nat) (s : State) : Out :=
  .next (recv h 0x204 false s fun s =>
    if isSteward s = false then s
    else
      let w := s.stew
      let s := logRec 0x2021 0x2000 w.leaseEpoch 2 (me s) 0 s
      let s := onStew (fun w => { w with role := 2, active := none, applied := w.seq, queue := [], rebuilding := false }) s
      ctlSend (partner s (me s)) 0x205 [epoch.toNat, w.seq] (ctlSend h.src 0x205 [epoch.toNat, w.seq] s))

/-- Reports that wait for their ACK sent to the new steward. -/
def resend (m : Nat) (s : State) : State :=
  let mine := s.stew.unacked.filter fun u => u.kind = 0x20C ∨ u.kind = 0x210 ∨ u.kind = 0x104
  let s := onStew (fun w => { w with unacked := w.unacked.filter fun u => !mine.contains u }) s
  mine.foldl (fun s u => ctlSend m u.kind u.body s) s

/-- TAKEOVER. -/
def execTakeover (h : Hdr) (_epoch : Word) (holder _prev _kind : Nat) (s : State) : Out :=
  .next (recv h 0x206 true s fun s =>
    let s := startSync (onStew (fun w => { w with active := some holder, lastAck := s.now }) s)
    let s := resend holder (leaveHold s)
    if s.steer.lastApplied = [] then s else ctlSend holder 0x103 s.steer.lastApplied s)

/-! ### The twin port (R285 to R287) -/

/-- A record's bytes in the mirror queue. -/
def recordBytes (r : MirrorRec) : Nat := 9 + 8 * r.data.length

/-- MIRROR at the standby: the next record in sequence applied and acknowledged. -/
def execMirror (rec_ : MirrorRec) (s : State) : Out :=
  let w := s.stew
  if w.role = 5 ∨ designated s (me s) = 0 then .next s
  else if rec_.seq = w.applied + 1 then
    let s := applyRecord rec_ s
    let s := onStew (fun w => { w with applied := rec_.seq, mirror := 0, role := if w.role = 2 then 3 else w.role }) s
    .next (twinSend 0x20A [rec_.seq] s)
  else if rec_.seq ≤ w.applied then .next (twinSend 0x20A [rec_.seq] s)
  else .next (onStew (fun w => { w with mirror := 1 }) s)

/-- Whether the queue holds what waits for it longest first: everything to a sequence done. -/
def settleQueue (seq : Nat) (s : State) : State :=
  let done := s.stew.queue.filter fun q => q.1 ≤ seq
  let s := onStew (fun w => { w with queue := w.queue.filter fun q => seq < q.1 }) s
  done.foldl (fun s q => doAct q.2 s) s

/-- MIRROR_ACK. -/
def execMirrorAck (seq : Nat) (s : State) : Out :=
  if isSteward s = false then .next s
  else
    let s := settleQueue seq s
    .next (if s.stew.queue = [] ∧ s.stew.overflow = false then onStew (fun w => { w with mirror := 0, kept := 0 }) s else s)

/-- An acknowledgement 1 ms late: the record takes effect, stays in the mirror queue, and the mirror is LAGGING. -/
def execMirrorAckLate (seq : Nat) (s : State) : Out :=
  if isSteward s = false then .next s
  else
    let acts := s.stew.queue.filter fun q => q.1 ≤ seq
    let n := (s.stew.ledger.filter fun r => acts.any fun q => q.1 == r.seq && q.2 != .none_).foldl (fun n r => n + recordBytes r) 0
    let s := onStew (fun w => { w with mirror := 1, kept := w.kept + n, overflow := w.overflow || decide (67108864 < w.kept + n),
                                       queue := w.queue.map fun q => if q.1 ≤ seq then (q.1, .none_) else q }) s
    .next (acts.foldl (fun s q => doAct q.2 s) s)

/-- SNAPSHOT: the whole steward state, in parts. -/
def execSnapshot (base part parts : Nat) (recs : List MirrorRec) (s : State) : Out :=
  if isSteward s ∨ designated s (me s) = 0 then .next s
  else
    let s := if s.stew.snapParts = [] ∨ s.stew.snapBase ≠ base then
        onStew (fun w => { w with ledger := [], snapParts := [], snapBase := base, members := [], jobs := [] }) (onSteer (fun t => { t with issued := [] }) s)
      else s
    if s.stew.snapParts.contains part then .next s
    else
      let s := recs.foldl (fun s r => applyRecord r s) s
      let got := part :: s.stew.snapParts
      if got.length = parts then
        .next (onStew (fun w => { w with snapParts := [], applied := base, mirror := 0, role := if w.role = 2 then 3 else w.role }) s)
      else .next (onStew (fun w => { w with snapParts := got }) s)

/-- A record as SNAPSHOT carries it. -/
def recordWords (r : MirrorRec) : List Nat := [r.seq, r.kind, r.data.length] ++ r.data

/-- The active brings its standby up to date: by SNAPSHOT when the queue has overflowed or no mirror exists, else by the queue. -/
def syncStandby (s : State) : State :=
  let w := s.stew
  if w.overflow ∨ w.mirror = 2 then
    twinSend 0x20B ([w.seq, 0, 1] ++ w.ledger.flatMap recordWords) (onStew (fun w => { w with overflow := false, kept := 0, mirror := 1 }) s)
  else
    (w.ledger.filter fun r => w.queue.any fun q => q.1 == r.seq).foldl (fun s r => twinSend 0x209 ([r.seq, r.kind] ++ r.data) s) s

/-- The twin is lost. -/
def execTwinLost (flapping : Bool) (s : State) : Out :=
  let w := s.stew
  if designated s (me s) = 0 ∨ w.twinUp = false then .next s
  else
    let s := onStew (fun w => { w with twinUp := false, role := if w.role = 3 then 4 else w.role, mirror := if w.mirror = 0 then 1 else w.mirror }) s
    .next (logRec 0x2023 0x2000 1 (if flapping then 2 else 1) (if w.role = 5 then w.seq else w.applied) 0 s)

/-- The twin is restored. -/
def execTwinRestored (s : State) : Out :=
  let w := s.stew
  if designated s (me s) = 0 ∨ w.twinUp then .next s
  else
    let s := startSync (onStew (fun w => { w with twinUp := true, role := if w.role = 4 then 2 else w.role }) s)
    let s := logRec 0x2023 0x2000 2 0 (if w.role = 5 then w.seq else w.applied) 0 s
    .next (if isSteward s then syncStandby s else s)

/-- Whether the mirror shows a quiet point (R291). -/
def quietPoint (s : State) : Bool :=
  (s.steer.issued.all fun i => decide (chCommit i.chart + 5 * msNs ≤ s.time.ns.toNat))
    && (match s.steer.issued with
      | i :: _ => (List.range 32).all fun m => !chMember i.chart m || i.applied.contains m || i.contained.contains m
      | [] => true)
    && s.stew.jobs.all fun j => j.2.place.isNone

/-- A returning designated active at a quiet point asks for the lease with RETURN. -/
def execQuietPointReturn (s : State) : Out :=
  let w := s.stew
  if w.role = 3 ∧ designated s (me s) = 1 ∧ w.mirror = 0 ∧ w.active = some (partner s (me s)) ∧ quietPoint s then
    .next (sendReq 2 (onStew (fun w => { w with returning := true }) s))
  else .next s

/-! ### HOLD and heartbeats (R290, R293, R294) -/

/-- A member without HEARTBEAT_ACK for 10 ms enters HOLD. -/
def execHoldEntry (s : State) : Out :=
  let w := s.stew
  if w.cfg.isSome ∧ w.hold = false ∧ isSteward s = false ∧ w.lastAck + 10 * msNs ≤ s.now then
    let ep := s.steer.epoch.toNat
    let s := onStew (fun w => { w with hold := true, holdAt := s.now }) s
    .next (postEvent 0x2040 0x2000 none ep 0 0 0 (logRec 0x2024 0x2000 1 ep 0 0 s))
  else .next s

/-- Output and input tap readings that have fallen by 0.5 dB or more. -/
def fallen (s : State) : List Nat :=
  (List.range 16).flatMap fun p => [3, 4].flatMap fun code => (List.range 32).flatMap fun i =>
    let b := Tbl.get 0x8000 (fab s p).bases (32 * code + i)
    let r := Tbl.get 0x8000 (fab s p).taps (32 * code + i)
    let f := b.toInt - r.toInt
    if b = 0x8000 ∨ r = 0x8000 ∨ f < 50 then [] else [p, code - 3, i, f.toNat / 10]

/-- The body of a HEARTBEAT. -/
def heartbeatBody (s : State) : List Nat :=
  let t := fallen s
  [bootCode s.boot.state, steerCode s.steer.state, s.steer.edition.toNat, s.stew.risk] ++ ((List.range 4).map fun c => (ctx s c).gen.toNat)
    ++ [t.length / 4] ++ t

/-- Every 1 ms a member sends HEARTBEAT, from SURVEY on (R401). -/
def execHeartbeatDue (s : State) : Out :=
  match s.stew.cfg, s.stew.active with
  | some _, some m => if 3 ≤ bootCode s.boot.state then .next (ctlSend m 0x207 (heartbeatBody s) s) else .next s
  | _, _ => .next s

/-- HEARTBEAT_ACK. -/
def execHeartbeatAck (h : Hdr) (_edition : Half16) (_cfgFollows : Bool) (s : State) : Out :=
  .next (recv h 0x208 true s fun s =>
    leaveHold (startSync (onStew (fun w => { w with lastAck := s.now, active := some h.src }) s)))

/-- Level from a score and the level before (R296). -/
def levelOf (score old : Nat) : Nat :=
  if 700 ≤ score ∨ (600 ≤ score ∧ old = 2) then 2 else if 400 ≤ score ∨ (300 ≤ score ∧ 1 ≤ old) then 1 else 0

/-- The newest step a job's journals hold. -/
def jobStep (j : Job) : Nat := j.journals.foldl (fun n x => max n x.step.toNat) 0

/-- The number of a job's next checkpoint. -/
def jobNumber (j : Job) : Nat := j.ckpts.foldl (fun n x => max n x.number) 0 + 1

/-- A checkpoint of a job ordered at its next step boundary. -/
def orderCkpt (jn : Nat) (s : State) : State :=
  let j := job s jn
  let n := jobNumber j
  j.slots.foldl (fun s x => orderSlot jn 1 (jobStep j + 1) n x s) s

/-- What the steward does when a member's score reaches WARN: checkpoints, and a spare reserved and loaded for each job. -/
def onWarn (m : Nat) (s : State) : State :=
  let last := (member s m).lastCkpt
  (jobsOn s m).foldl (fun s jn =>
    let s := if last = 0 ∨ last - 1 + 600000 * msNs ≤ s.now then orderCkpt jn s else s
    let j := job s jn
    match j.reserved, pickSpare s j with
    | none, some sp =>
      let s := recordMember sp { member s sp with state := 3 } s
      let s := updJob jn (fun j => { j with reserved := some sp }) s
      match (List.range j.slots.length).find? fun i => (j.slots.getD i ⟨0, 0, 0⟩).modu = m with
      | some i =>
        match (j.ckpts.filter fun k => partOf k i = 3).head? with
        | some k => record 8 [jn, sp, 3, k.step, k.number] (.jobCtl sp jn (j.slots.getD i ⟨0, 0, 0⟩).ctx 3 k.step k.number) s
        | none => s
      | none => s
    | _, _ => s) s

/-- What the steward does at ALERT: with a reserved spare that holds the slot's checkpoint, a checkpoint is ordered and the module then replaced. -/
def onAlert (m : Nat) (s : State) : State :=
  (jobsOn s m).foldl (fun s jn =>
    let j := job s jn
    let held := match (List.range j.slots.length).find? fun i => (j.slots.getD i ⟨0, 0, 0⟩).modu = m with
      | some i => j.ckpts.any fun k => partOf k i == 3
      | none => false
    if j.reserved.isSome && held && j.leaving.isNone && j.place.isNone then
      orderCkpt jn (updJob jn (fun j => { j with leaving := some (m, jobNumber j) }) s)
    else s) s

/-- The steward answers a removal request of a member without a role (R439): every job with a context there is checkpointed and then moves to a
spare, or stalls where none is free; a member without a job is excluded at once. -/
def onRemoval (m : Nat) (s : State) : State :=
  if holdsRole s m then s
  else
    let js := jobsOn s m
    if js.isEmpty then reduce [m] (fun _ => false) (recordMember m { member s m with state := 4 } s)
    else js.foldl (fun s jn =>
      if (job s jn).leaving.isNone && (job s jn).place.isNone then
        orderCkpt jn (updJob jn (fun j => { j with leaving := some (m, jobNumber j) }) s)
      else s) s

/-- A member's risk taken into its record, with the actions of a level that it enters. -/
def takeRisk (m risk : Nat) (s : State) : State :=
  let k := member s m
  let l := levelOf risk k.level
  if k.risk = risk ∧ k.level = l then s
  else
    let s := recordMember m { k with risk := risk, level := l } s
    let s := if k.level < 1 ∧ 1 ≤ l then onWarn m s else s
    if k.level < 2 ∧ l = 2 then onAlert m s else s

/-- A GEN advance of a member's context: the jobs' slots, bindings and the others are told (R294, R299). -/
def peerGen (m c : Nat) (g : Byte) (s : State) : State :=
  let js := s.stew.jobs.filter fun j => j.2.slots.any fun x => x.modu == m && x.ctx == c
  let x := drawFree 7 s
  let s := if js.isEmpty then s else record 8 [m, c, g.toNat] (.event m x.1 c g.toNat) x.2
  js.foldl (fun s j =>
    if j.2.place.isSome then s
    else
      let ss := j.2.slots.map fun x => if x.modu = m ∧ x.ctx = c then { x with gen := g } else x
      bindAll j.1 [] (record 5 (j.1 :: slotWords ss) .none_ s)) s

/-- GENs of a heartbeat against those known. -/
def takeGens (m : Nat) (gs : List Byte) (s : State) : State :=
  let old := (member s m).gens
  let s := updMember m (fun k => { k with gens := gs }) s
  if old = [] then s
  else (List.range 4).foldl (fun s c => if gs.getD c 0 ≠ old.getD c 0 then peerGen m c (gs.getD c 0) s else s) s

/-! ### Losses that span two modules (R221) -/

/-- How far a member's tap has fallen, in 0.1 dB. -/
def memberFall (s : State) (m p : Nat) (input : Bool) (ch : Nat) : Nat :=
  (((member s m).taps.find? fun t => t.1 = p ∧ t.2.1 = input ∧ t.2.2.1 = ch).map fun t => t.2.2.2).getD 0

/-- The entries of a plane that a member receives, as (entry, sender, channel). -/
def inbound (s : State) (m p : Nat) : List (ChEnt × Nat × Nat) :=
  ((entsOf (newest s) m).filter fun e => e.plane == p && !e.loop).map fun e => (e, entPeer e m, (entChans e m (chOffset (newest s) p)).2)

/-- The losses located at a receiver on a plane: stage 6 of one sender, or stage 7 of the whole receive side. Which receive lane takes the channel,
and its reading, no message tells: the source's element and the record's reading are free (log 133). -/
def locateAt (m p : Nat) (s : State) : State :=
  let xs := inbound s m p
  let fell := xs.filter fun x => 10 < memberFall s m p true x.2.2
  let holds := fun (x : ChEnt × Nat × Nat) => decide (memberFall s x.2.1 p false x.2.2 ≤ 10)
  let x1 := drawFree 15 s
  let put := fun (stage ch : Nat) =>
    logFab p 8 (0x10 + Config.open_ 17 s.freeCtr % 16) stage ch (10 * memberFall s m p true ch) (x1.1 % 65536) x1.2
  if fell = [] then s
  else if 2 ≤ xs.length ∧ fell.length = xs.length then
    if fell.all holds ∧ s.steer.retiredLanes.contains (p, m) = false then
      let ch := (xs.headD (⟨0, false, 0, 0, 0⟩, 0, 0)).2.2
      reduce [] (fun e => e.plane == p && (e.a == m || e.b == m)) (onSteer (fun t => { t with retiredLanes := (p, m) :: t.retiredLanes }) (put 7 ch))
    else s
  else
    match fell with
    | [x] =>
      let a := x.2.1
      let others := (cfgMembers s).filter fun q => q ≠ m ∧ q ≠ a
      let lanes := others.all fun q => (inbound s q p).all fun y => y.2.1 != a || decide (memberFall s q p true y.2.2 ≤ 10)
      let key := (p, min a m, max a m)
      if holds x ∧ lanes ∧ s.steer.failedPairs.contains key = false then
        reduce [] (fun e => e.plane == p && e.a == key.2.1 && e.b == key.2.2)
          (onSteer (fun t => { t with failedPairs := key :: t.failedPairs }) (put 6 x.2.2))
      else s
    | _ => s

/-- The POD_CONFIG body of a configuration (R277). -/
def cfgWords (c : PodCfg) : List Nat :=
  [c.epoch.toNat, c.active.toNat, c.standby.toNat, c.arbiter.toNat, 0, c.members.toNat, c.spares.toNat, c.arbAddr.toNat]
    ++ ((c.addrs ++ List.replicate 32 0).take 32).map BitVec.toNat

/-- This module's configuration sent to a sender that holds an older one. -/
def sendCfg (h : Hdr) (s : State) : State := match s.stew.cfg with
  | some c => if h.configEpoch.toNat < c.epoch.toNat then ctlSend h.src 0x213 (cfgWords c) s else s
  | none => s

/-- HEARTBEAT. -/
def execHeartbeat (h : Hdr) (b : HeartbeatBody) (s : State) : Out :=
  .next (recv h 0x207 false s fun s =>
    if isSteward s = false then s
    else
      let m := h.src
      let behind := decide (h.configEpoch.toNat < cfgEpoch s)
      let lost := (member s m).ctlLost
      let s := takeGens m b.gens s
      let s := updMember m (fun k => { k with heardAt := s.now, probing := false, up := b.state, edition := b.edition,
                                              taps := b.taps.map fun t => (t.1.val, t.2.1, t.2.2.1.val, t.2.2.2) }) s
      let s := if lost then recordMember m { member s m with ctlLost := false } s else s
      let s := ctlSend m 0x208 [(chEdition (newest s)).toNat, b2n behind] s
      let s := sendCfg h s
      let s := if b.state = 6 then declareFailed m 3 s else takeRisk m b.risk s
      placeAll ((List.range 16).foldl (fun s p => locateAt m p s) s))

/-- No heartbeat for 10 ms: the member is probed over the fabric. -/
def execMemberSilent (m : Modu) (s : State) : Out :=
  let k := member s m.val
  if isSteward s ∧ (cfgMembers s).contains m.val ∧ m.val ≠ me s ∧ k.state ≠ 5 ∧ k.probing = false ∧ k.heardAt + 10 * msNs ≤ s.now then
    let id := s.stew.msgid
    let s := onStew (fun w => { w with msgid := (id + 1) % 65536,
                                       unacked := w.unacked ++ [{ dst := m.val, kind := 0x214, msgid := id, body := [], tries := 3, at_ := s.now }] }) s
    .next (sendCopy m.val 0x214 id 3 [] (updMember m.val (fun k => { k with probing := true, probeAt := s.now }) s))
  else .next s

/-- No answer to a probe within 2 ms. -/
def execProbeTimeout (m : Modu) (s : State) : Out :=
  let k := member s m.val
  if isSteward s ∧ k.probing ∧ k.probeAt + 2 * msNs ≤ s.now then .next (declareFailed m.val 1 s) else .next s

/-- PROBE: answered with ACK. -/
def execProbe (h : Hdr) (s : State) : Out :=
  .next (recv h 0x214 false s fun s => if h.ackReq then s else ctlSend h.src 0x200 [h.msgid.toNat] s)

/-! ### Acknowledgement (R280) -/

/-- ACK. A probed member that answers is CTL_LOST, not failed. -/
def execAck (h : Hdr) (of : Half16) (s : State) : Out :=
  .next (recv h 0x200 false s fun s =>
    match s.stew.unacked.find? fun u => u.msgid = of.toNat ∧ u.dst = h.src with
    | none => s
    | some u =>
      let s := onStew (fun w => { w with unacked := w.unacked.erase u }) s
      let k := member s h.src
      if u.kind = 0x214 ∧ k.probing then
        let s := updMember h.src (fun k => { k with probing := false }) s
        takeRisk h.src (min 1000 (k.risk + 200)) (recordMember h.src { member s h.src with ctlLost := true } s)
      else s)


/-- No ACK within 1 ms: retransmitted, with a fabric copy, at most 3 times. -/
def execAckRetransmit (of : Half16) (s : State) : Out :=
  match s.stew.unacked.find? fun u => u.msgid = of.toNat with
  | none => .next s
  | some u =>
    if s.now < u.at_ + msNs then .next s
    else if 3 ≤ u.tries then .next (onStew (fun w => { w with unacked := w.unacked.erase u }) s)
    else
      let s := onStew (fun w => { w with unacked := w.unacked.map fun x => if x = u then { u with tries := u.tries + 1, at_ := s.now } else x }) s
      .next (sendCopy u.dst u.kind u.msgid 7 u.body (ctlOut u.dst u.kind u.msgid 5 u.body s))

/-! ### Reports and events (R294, R297) -/

/-- The plane of a record's code, when it is a fabric chiplet's. -/
def codePlane (c : Nat) : Option Nat := if 0x10 ≤ c / 256 ∧ c / 256 < 0x20 then some (c / 256 - 0x10) else none

/-- A pair reported unusable leaves the chart. -/
def dropPair (p a b : Nat) (s : State) : State :=
  let key := (p, min a b, max a b)
  let s := onSteer (fun t => { t with failedPairs := (key :: t.failedPairs).dedup }) s
  reduce [] (fun e => e.plane == p && e.a == key.2.1 && e.b == key.2.2) s

/-- Every lane of a member on a plane leaves the chart. -/
def dropPlane (p m : Nat) (s : State) : State :=
  let s := onSteer (fun t => { t with retiredLanes := ((p, m) :: t.retiredLanes).dedup }) s
  reduce [] (fun e => e.plane == p && (e.a == m || e.b == m)) s

/-- The other end of a member's lane by its channel and the cause located: the receiver of a transmit lane (2, 3), the sender of a receive lane
(4, 8). -/
def lanePeer (o m cause ch : Nat) : Option Nat :=
  if cause = 2 ∨ cause = 3 then some ((ch + m + o) % 32)
  else if cause = 4 ∨ cause = 8 then some ((m + 64 - ch % 32 - o % 32) % 32)
  else none

/-- A chiplet's fault record acted on. -/
def fabricReport (m p : Nat) (f : FaultRec) (s : State) : State :=
  let o := podOffset s p
  match f.code.toNat % 256 with
  | 0x11 =>
    let q := f.p0.toNat
    let s := if f.p2.toNat = 3 then onSteer (fun t =>
        { t with trainFail3 := Tbl.upd [] (Tbl.upd [] t.trainFail3 m fun l => ((p, q) :: l).dedup) q fun l => ((p, m) :: l).dedup }) s else s
    dropPair p m q s
  | 0x07 =>
    if f.p0.toNat = 2 ∨ f.p0.toNat = 3 then dropPair p m ((f.p2.toNat + m + o) % 32) s
    else if f.p0.toNat = 4 then dropPair p m ((m + 64 - f.p2.toNat % 32 - o % 32) % 32) s else s
  | 0x08 =>
    if f.p0.toNat = 5 ∨ f.p0.toNat = 7 then dropPlane p m s
    else match lanePeer o m f.p0.toNat f.p1.toNat with
      | some q => dropPair p m q s
      | none => s
  | 0x04 => dropPlane p m s
  | _ => s

/-- EVENT_REPORT. -/
def execEventReport (h : Hdr) (f : FaultRec) (s : State) : Out :=
  .next (recv h 0x20C false s fun s =>
    if isSteward s = false then s
    else match codePlane f.code.toNat with
      | some p => fabricReport h.src p f s
      | none =>
        if f.code.toNat = 0x0801 ∧ (f.p0.toNat = 6 ∨ f.p0.toNat = 7) then declareFailed h.src 2 s
        else if f.code.toNat = 0x0801 ∧ f.p0.toNat = 4 then
          let x := drawFree 7 s
          record 8 [h.src, 4] (.event h.src x.1 0xFF 0) x.2
        else if f.code.toNat = 0x4004 ∧ f.p1.toNat = 1 then onRemoval h.src s
        else s)

/-- MODULE_EVENT: event 0x2042. -/
def execModuleEvent (h : Hdr) (m : Modu) (cause : Nat) (c : Nat) (newGen : Byte) (s : State) : Out :=
  .next (recv h 0x20D true s fun s => postEvent 0x2042 0x2000 none m.val cause c newGen.toNat s)

/-! ### Jobs (R245, R298 to R301) -/

/-- BIND. -/
def execBind (h : Hdr) (c : Ctx) (bs : List (Bool × Ctx × Byte)) (s : State) : Out :=
  .next (recv h 0x20E true s fun s =>
    onSteer (fun t => { t with bind := (bs.take 32).zipIdx.foldl (fun t x =>
      Tbl.set t (32 * c.val + x.2) (BitVec.ofNat 32 (b2n x.1.1 * 0x80000000 + x.1.2.1.val * 256 + x.1.2.2.toNat))) t.bind }) s)

/-- JOB_CTL. -/
def execJobCtl (h : Hdr) (job : Word) (c : Ctx) (action : Nat) (step number : Word) (s : State) : Out :=
  .next (recv h 0x20F true s fun s =>
    match action with
    | 1 => trigger c.val 1 number (if stepAhead s c.val step then step else nextStep s c.val) s
    | 2 =>
      let s := if (ctx s c.val).created ∧ (ctx s c.val).tearing = false then teardown c.val none s else s
      onSteer (fun t => { t with bind := t.bind.filter fun p => p.1 / 32 ≠ c.val }) s
    | 3 => postEvent 0x2043 0x2000 (some c.val) job.toNat c.val number.toNat step.toNat s
    | _ => s)

/-- Whether every slot of a checkpoint is committed or drained: where no spare is free, the job stalls behind it (R439). -/
def allCommitted (j : Job) (number : Nat) : Bool :=
  j.ckpts.any fun k => k.number == number && (List.range j.slots.length).all fun i => partOf k i == 2 || partOf k i == 3

/-- A module leaves its job once the checkpoint ordered for it can be restored; it is excluded with the last job that leaves it. -/
def checkLeaving (jn : Nat) (s : State) : State :=
  let j := job s jn
  match j.leaving with
  | none => s
  | some (m, n) =>
    match (List.range j.slots.length).find? fun i => (j.slots.getD i ⟨0, 0, 0⟩).modu = m with
    | none => updJob jn (fun j => { j with leaving := none }) s
    | some i =>
      if (chooseCkpt j i).any (fun k => k.number == n) || ((pickSpare s j).isNone && allCommitted j n) then
        let s := updJob jn (fun j => { j with leaving := none }) s
        let more := s.stew.jobs.any fun x => x.2.leaving.any fun y => y.1 == m
        startPlace jn m (if more then s else reduce [m] (fun _ => false) (recordMember m { member s m with state := 4 } s))
      else s

/-- JOB_REPORT. -/
def execJobReport (h : Hdr) (jw : Word) (b : JobBody) (s : State) : Out :=
  .next (recv h 0x210 false s fun s =>
    if isSteward s = false then s
    else
      let jn := jw.toNat
      match b with
      | .register _ _ ms =>
        let s := record 5 (jn :: slotWords (ms.map fun x => { modu := x.1, ctx := x.2.1, gen := x.2.2 })) .none_ s
        resumeJob jn (bindAll jn [] s)
      | .journal _ es =>
        es.foldl (fun s e => record 7 [e.job.toNat, e.step.toNat, e.dataPos.toNat, e.rng.toNat, e.time.toNat] .none_ s) s
      | .checkpoint number step slotOf st full dig =>
        match (List.range (job s jn).slots.length).find? fun i => ((job s jn).slots.getD i ⟨0, 0, 0⟩).modu = h.src with
        | some i =>
          let s := record 6 [jn, number.toNat, step.toNat, i, slotOf, st, b2n full, dig.toNat] .none_ s
          checkLeaving jn (if st = 1 then updMember h.src (fun k => { k with lastCkpt := s.now + 1 }) s else s)
        | none => s)

/-! ### STATUS and REBUILD (R281, R289) -/

/-- A context's well images as STATUS tells them. -/
def ckptWords (s : State) : List Nat :=
  (List.range 4).flatMap fun c => [false, true].flatMap fun b =>
    let k := slotSt s c b
    if slotValid k then [c, b2n b, k.image.job, k.number.toNat, k.step.toNat, if k.state = .drained then 3 else 2, b2n k.full,
      ofBytes (k.image.root.take 8)] else []

/-- The body of STATUS. -/
def statusBody (s : State) (chart : Bool) : List Nat :=
  [s.stew.role, b2n (isArbiter s), s.steer.edition.toNat, if s.steer.staged = [] then 0 else (chEdition s.steer.staged).toNat]
    ++ ((List.range 4).flatMap fun c => [b2n (ctx s c).created, (ctx s c).gen.toNat])
    ++ (s.steer.bind.flatMap fun p => [p.1, p.2.toNat]) ++ ckptWords s
    ++ ((List.range 4).flatMap fun c => (Tbl.get [] s.ckpt.journals c).flatMap fun j => j.map BitVec.toNat)
    ++ (if chart then s.steer.chart.map BitVec.toNat else [])

/-- STATUS_REQ. A requester with an older configuration is sent this module's. -/
def execStatusReq (h : Hdr) (chart : Bool) (s : State) : Out :=
  .next (recv h 0x211 (s.stew.active == some h.src) s fun s =>
    let s := ctlSend h.src 0x212 (statusBody s chart) s
    sendCfg h s)

/-- STATUS at a steward that rebuilds. -/
def execStatus (h : Hdr) (b : StatusBody) (s : State) : Out :=
  .next (recv h 0x212 false s fun s =>
    if isSteward s ∧ s.stew.rebuilding then onStew (fun w => { w with statuses := (h.src, b) :: w.statuses }) s else s)

/-- The newest chart among the replies and this module's own. -/
def newestChart (s : State) : List Byte :=
  s.stew.statuses.foldl (fun c x => if x.2.chart ≠ [] ∧ (c = [] ∨ 0 < edDiff (chEdition x.2.chart) (chEdition c)) then x.2.chart else c) s.steer.chart

/-- What a reply says of checkpoints and journals. -/
def takeStatus (s : State) (x : Nat × StatusBody) : State :=
  let s := updMember x.1 (fun k => { k with edition := x.2.edition, gens := x.2.gens, heardAt := s.now }) s
  let s := x.2.ckpts.foldl (fun s k =>
    match (List.range (job s k.job).slots.length).find? fun i => ((job s k.job).slots.getD i ⟨0, 0, 0⟩).modu = x.1 with
    | some i => record 6 [k.job, k.number, k.step, i, b2n k.slotB, k.state, b2n k.full, k.digest.toNat] .none_ s
    | none => s) s
  x.2.journals.foldl (fun s j => record 7 [j.2.job.toNat, j.2.step.toNat, j.2.dataPos.toNat, j.2.rng.toNat, j.2.time.toNat] .none_ s) s

/-- 10 ms after STATUS_REQ: the highest edition adopted, and the next one issued with every pair kept and REMOVE_ONLY set. -/
def execRebuildStatusWait (s : State) : Out :=
  if isSteward s ∧ s.stew.rebuilding then
    let c := newestChart s
    let s := onStew (fun w => { w with rebuilding := false }) (s.stew.statuses.foldl takeStatus s)
    if c = [] then .next (replan s)
    else
      let s := onSteer (fun t => { t with issued := [{ chart := c, applied := (List.range 32).filter (chMember c) }] }) s
      .next (issueChart 1 (s.time.ns.toNat + msNs) ((List.range 32).filter (chMember c)) (chEnts c) none s)
  else .next s

/-! ### The configuration (R277, R278) -/

/-- Whether a configuration is valid. -/
def cfgOk (c : PodCfg) : Bool :=
  let a := c.active.toNat
  let b := c.standby.toNat
  let r := c.arbiter.toNat
  let isM := fun m => decide (m < 32) && bit c.members m
  a != b && a != r && b != r && isM a && isM b && !bit c.spares a && !bit c.spares b && (r == 0x20 || isM r)
    && (decide (3 ≤ ((List.range 32).filter fun m => bit c.members m).length) || r == 0x20)

/-- The role after a configuration: designated from none starts IDLE, no longer designated stops. The four twin lanes are powered while the
module is designated (R431). -/
def roleAfter (s : State) : State :=
  let d := designated s (me s)
  let s := onStew (fun w => { w with twinPower := d != 0, twinUp := w.twinUp && d != 0 }) s
  if d = 0 then
    let s := if s.stew.role = 5 then stopSteward 3 (me s) s else s
    onStew (fun w => { w with role := 0 }) s
  else if s.stew.role = 0 then onStew (fun w => { w with role := 1 }) s else s

/-- A configuration adopted. -/
def adoptCfg (c : PodCfg) (s : State) : State :=
  let was := namedArbiter s
  let s := roleAfter (onStew (fun w => { w with cfg := some c }) s)
  let s := if namedArbiter s = was then s else onArb (fun a => { epoch := a.epoch, seen := a.seen, freeAt := s.now }) s
  let s := record 9 [c.epoch.toNat] .none_ s
  removeCheck (replan s)

/-- POD_CONFIG. One that is adopted is answered with ACK in any case. -/
def execPodConfig (h : Hdr) (cfg : PodCfg) (s : State) : Out :=
  .next (recv h 0x213 false s fun s =>
    if cfgOk cfg = false then logRec 0x202A 0x2000 cfg.epoch.toNat 2 0 0 s
    else
      let newer := match s.stew.cfg with
        | some c => decide (c.epoch.toNat < cfg.epoch.toNat)
        | none => true
      if newer then
        let s := logRec 0x202A 0x2000 cfg.epoch.toNat 1 0 0 (adoptCfg cfg s)
        if h.ackReq then s else ctlSend h.src 0x200 [h.msgid.toNat] s
      else s)

/-! ### Risk score (R295, R296) -/

/-- A comb warning on a chiplet: 400 with no working spare. -/
def combRisk (s : State) : Nat :=
  (List.range 16).foldl (fun n p =>
    if (fab s p).combs.any fun c => c.2.warned then max n (if workingSpare s p then 200 else 400) else n) 0

/-- What DDR devices contribute. -/
def ddrRisk (s : State) : Nat :=
  if (List.range 12).any fun n => (chan s n).state == 2 || (chan s n).state == 3 then 500
  else if (List.range 12).any fun n => (chan s n).state == 1 then 200 else 0

/-- The contributions now, by table row 1 to 9. -/
def riskInputs (s : State) (berPairs ceCores : Nat) : List (Nat × Nat) :=
  [(1, min 300 (100 * berPairs)), (2, combRisk s), (3, if s.clus.any fun c => c.2.combs.any fun k => k.2.warned then 150 else 0),
   (4, min 300 (100 * ceCores)), (5, ddrRisk s), (6, if s.pwr.temps.any fun t => decide (t.1 < 5 ∧ (10 * max 80 (min 100 (fld s.pwr.cfg 0 7)) : Int) - 50 ≤ t.2.1) then 200 else 0),
   (7, if s.pwr.dropped then 300 else if 3 ≤ (s.pwr.sags.filter fun t => s.now < t + 600000 * msNs).length then 150 else 0), (8, if s.fab.any fun f => f.2.located ≠ [] then 100 else 0),
   (9, if s.stew.ctlLost then 200 else 0)]

/-- A contribution kept: held while its condition holds and for 10 min after. -/
def keepInput (now : Nat) (t : Tbl (Nat × Nat)) (x : Nat × Nat) : Tbl (Nat × Nat) :=
  let old := Tbl.get (0, 0) t x.1
  let was := if now < old.2 then old.1 else 0
  if 0 < x.2 ∧ was ≤ x.2 then Tbl.set t x.1 (x.2, now + 600000 * msNs) else if was = 0 then t.filter fun p => p.1 ≠ x.1 else t

/-- Every 10 ms the module computes its score. -/
def execRiskScoreUpdate (berPairs ceCores : Nat) (s : State) : Out :=
  let t := (riskInputs s berPairs ceCores).foldl (keepInput s.now) s.stew.contrib
  let score := min 1000 (t.foldl (fun n p => n + p.2.1) 0)
  let old := s.stew.level
  let l := levelOf score old
  let top := t.foldl (fun b p => if b.2 < p.2.1 then (p.1, p.2.1) else b) (0, 0)
  let s := onStew (fun w => { w with contrib := t, risk := score, level := l }) s
  let s := if s.boot.state = .ready ∨ s.boot.state = .degraded then { s with pwr := { s.pwr with dropped := false } } else s
  if l = old then .next s
  else
    let s := logRec 0x2026 0x2000 score l top.1 0 s
    .next (if old = 0 ∧ 1 ≤ l then riskTrigger s else s)

/-! ### Module authority (R292) -/

/-- A half controller claims the token by test-and-set; half B no earlier than 10 ms after a MODULE start. -/
def execAuthorityClaim (h : Hlf) (s : State) : Out :=
  match s.stew.authHolder with
  | some _ => .next s
  | none =>
    if h.val = 1 ∧ s.now < s.stew.startAt + 10 * msNs then .next s
    else
    let g := s.stew.authGen + 1
    .next (logRec 0x2025 0x2000 h.val g.toNat 1 0 (onStew (fun w => { w with authHolder := some h.val, authGen := g }) s))

/-- The token released for a cause: 2 without heartbeats, 3 its HALF domain enters reset. -/
def authorityDrop (cause : Nat) (s : State) : State :=
  match s.stew.authHolder with
  | some h => logRec 0x2025 0x2000 h s.stew.authGen.toNat cause 0 (onStew (fun w => { w with authHolder := none }) s)
  | none => s

/-- 2 ms without the holder's heartbeat. -/
def execAuthorityHeartbeatTimeout (s : State) : Out := .next (authorityDrop 2 s)

end Sys2Proof.Machine
end

