-- ==== Sys2Proof/Machine/Deliver.lean ====
section
/-! DEFINITION. Control messages of the fabric (R249): their fragments joined, and a message whole given to the meaning of its kind (R246, R265,
R280, R281). -/

namespace Sys2Proof.Machine

/-! ### A message's bytes (R279) -/

/-- The header of a message in 32 bytes. -/
def hdrOf (bs : List Byte) : Hdr :=
  { src := getN bs 8 1, msgid := BitVec.ofNat 16 (getN bs 6 2), epoch := BitVec.ofNat 32 (getN bs 12 4), configEpoch := BitVec.ofNat 32 (getN bs 16 4),
    ackReq := (getN bs 3 1).testBit 0, fabric := (getN bs 3 1).testBit 1 }

/-- Whether MAGIC, VERSION, LEN and CRC fit. -/
def msgGood (bs : List Byte) : Bool :=
  decide (32 ≤ bs.length) && getN bs 0 2 == 0x4B47 && getN bs 2 1 == 1 && getN bs 10 2 == bs.length - 32 && decide (bs.length ≤ 14848)
    && getN bs 28 4 == crc32c (bs.take 28 ++ bs.drop 32)

/-- Whether a message is for this module. -/
def forMe (s : State) (bs : List Byte) : Bool := getN bs 9 1 == me s || getN bs 9 1 == 0xFF

/-! ### Bodies (R265, R277, R281, R293) -/

def word (b : List Byte) (i : Nat) : Word := BitVec.ofNat 32 (getN b i 4)
def half_ (b : List Byte) (i : Nat) : Half16 := BitVec.ofNat 16 (getN b i 2)
def byte_ (b : List Byte) (i : Nat) : Byte := BitVec.ofNat 8 (getN b i 1)
def dword (b : List Byte) (i : Nat) : DWord := BitVec.ofNat 64 (getN b i 8)
def modu_ (b : List Byte) (i : Nat) : Modu := Fin.ofNat 32 (getN b i 1)
def ctx_ (b : List Byte) (i : Nat) : Ctx := Fin.ofNat 4 (getN b i 1)

/-- Where the records of `n` bytes behind a fixed part begin. -/
def recordsAt (b : List Byte) (start n : Nat) : List Nat := (List.range ((b.length - start) / n)).map fun i => start + n * i

def notUpOf (b : List Byte) (i : Nat) : NotUp :=
  { plane := Fin.ofNat 16 (getN b i 1), peer := modu_ b (i + 1), reason := getN b (i + 2) 1 }

def gazOf (b : List Byte) (i : Nat) : GazRec :=
  { offset := byte_ b i, state := getN b (i + 1) 1, loopch := Fin.ofNat 32 (getN b (i + 2) 1), mismatch := byte_ b (i + 3), seen := word b (i + 4),
    delta := getN b (i + 8) 1, deltaFrom := getN b (i + 9) 1 }

def leaseReqOf (b : List Byte) : LeaseReq :=
  { renew := (getN b 0 1).testBit 0, ret := (getN b 0 1).testBit 1, role := getN b 1 1, twinLost := getN b 2 1 != 0, mirror := getN b 3 1,
    lastSeq := getN b 4 8 }

def tapOf (b : List Byte) (i : Nat) : Plane × Bool × Fin 32 × Nat :=
  (Fin.ofNat 16 (getN b i 1), getN b (i + 1) 1 != 0, Fin.ofNat 32 (getN b (i + 2) 1), getN b (i + 3) 1)

def heartbeatOf (b : List Byte) : HeartbeatBody :=
  { state := getN b 0 1, steer := getN b 1 1, edition := half_ b 2, risk := getN b 4 2, gens := (List.range 4).map fun c => byte_ b (6 + c),
    taps := ((recordsAt b 11 4).take (getN b 10 1)).map (tapOf b) }

/-- A logbook record's 32 bytes: SEQ, TIME, code, source, parameters (R374). -/
def faultOf (b : List Byte) : FaultRec :=
  { code := half_ b 12, source := half_ b 14, p0 := word b 16, p1 := word b 20, p2 := word b 24, p3 := word b 28 }

/-- A binding's 16 bits: VALID, PCTX, PGEN. -/
def bindOf (n : Nat) : Bool × Ctx × Byte := (n.testBit 15, Fin.ofNat 4 (n / 256), BitVec.ofNat 8 n)

def journalOf (b : List Byte) (i : Nat) : Journal :=
  { job := word b i, step := word b (i + 4), dataPos := dword b (i + 8), rng := dword b (i + 16), time := dword b (i + 24) }

def podCfgOf (b : List Byte) : PodCfg :=
  { epoch := word b 0, active := byte_ b 4, standby := byte_ b 5, arbiter := byte_ b 6, members := word b 8, spares := word b 12,
    arbAddr := BitVec.ofNat 128 (getN b 16 16), addrs := (List.range 32).map fun m => BitVec.ofNat 128 (getN b (32 + 16 * m) 16) }

/-! ### Messages whole -/

/-- The control-network address of a module that a report through the fabric comes from: the one it reported from before, else its own. -/
def knownAddr (s : State) (m : Nat) : BitVec 128 := match s.steer.reporter.find? fun x => x.1 = m with
  | some x => x.2
  | none => match s.stew.cfg with
    | some c => c.addrs.getD m 0
    | none => 0

/-- A message counted as one of a kind that is not known (R249). -/
def unknownMsg (s : State) : State := { s with link := { s.link with unknown := s.link.unknown + 1 } }

/-- The meaning of a message of R265. -/
def steerMsg (kind : Nat) (h : Hdr) (b : List Byte) (s : State) : State :=
  match kind with
  | 0x101 => after (execChartPart h (half_ b 0) (getN b 2 1) (getN b 3 1) (word b 4) (b.drop 8) s) s
  | 0x102 => after (execStaged h (half_ b 0) (getN b 2 1) (modu_ b 3) s) s
  | 0x103 => after (execApplied h (half_ b 0) (modu_ b 2) (getN b 4 4) (((recordsAt b 8 4).take (getN b 3 1)).map (notUpOf b)) s) s
  | 0x104 => after (execSurveyReport h (modu_ b 0) (((recordsAt b 2 12).take (getN b 1 1)).map (gazOf b)) (knownAddr s (getN b 0 1)) s) s
  | 0x105 => after (execSurveyCmd h (half_ b 0) s) s
  | _ => unknownMsg s

/-- The meaning of a message of R281 between stewards and their arbiter. -/
def leaseMsg (kind : Nat) (h : Hdr) (b : List Byte) (s : State) : State :=
  match kind with
  | 0x201 => after (execLeaseReq h (leaseReqOf b) s) s
  | 0x202 => after (execLeaseGrant h (word b 0) (getN b 4 1) (getN b 5 1 != 0) s) s
  | 0x203 => after (execLeaseDeny h (getN b 0 1) (getN b 1 1) (word b 4) s) s
  | 0x204 => after (execLeaseEnd h (word b 0) (getN b 4 1) s) s
  | 0x205 => after (execReleased h (word b 0) (getN b 4 8) s) s
  | 0x206 => after (execTakeover h (word b 0) (getN b 4 1) (getN b 5 1) (getN b 6 1) s) s
  | _ => unknownMsg s

/-- The meaning of a message of R281 between the steward and members. JOB_REPORT has a layout for journal entries alone, STATUS none (log 133). -/
def memberMsg (kind : Nat) (h : Hdr) (b : List Byte) (s : State) : State :=
  match kind with
  | 0x200 => after (execAck h (half_ b 0) s) s
  | 0x207 => after (execHeartbeat h (heartbeatOf b) s) s
  | 0x208 => after (execHeartbeatAck h (half_ b 0) ((getN b 2 1).testBit 0) s) s
  | 0x20C => after (execEventReport h (faultOf b) s) s
  | 0x20D => after (execModuleEvent h (modu_ b 0) (getN b 1 1) (getN b 2 1) (byte_ b 3) s) s
  | 0x20E => after (execBind h (ctx_ b 0) ((recordsAt b 1 2).map fun i => bindOf (getN b i 2)) s) s
  | 0x20F => after (execJobCtl h (word b 0) (ctx_ b 4) (getN b 5 1) (word b 8) (word b 12) s) s
  | 0x210 => if getN b 4 1 = 2 then after (execJobReport h (word b 0) (.journal 0 ((recordsAt b 5 32).map (journalOf b))) s) s else unknownMsg s
  | 0x211 => after (execStatusReq h ((getN b 0 1).testBit 0) s) s
  | 0x213 => after (execPodConfig h (podCfgOf b) s) s
  | 0x214 => after (execProbe h s) s
  | _ => unknownMsg s

/-- A message of R279 that has arrived whole. One that fails its checks, or is for another module, is discarded and counted. -/
def message (bs : List Byte) (s : State) : State :=
  if msgGood bs && forMe s bs then
    let k := getN bs 4 2
    let b := bs.drop 32
    if k < 0x200 then steerMsg k (hdrOf bs) b s
    else if 0x201 ≤ k ∧ k ≤ 0x206 then leaseMsg k (hdrOf bs) b s
    else memberMsg k (hdrOf bs) b s
  else countHub 0x11 0 false (onStew (fun w => { w with discards := w.discards + 1 }) s)

/-- Kinds that R249 knows. -/
def ctrlKnown (kind : Nat) : Bool := kind == 1 || (decide (0x100 ≤ kind) && decide (kind < 0x300))

/-- A control message delivered to the hub. -/
def ctrlMsg (peer kind : Nat) (bs : List Byte) (s : State) : State :=
  if ctrlKnown kind = false then unknownMsg s
  else if kind = 1 then genChange peer (getN bs 0 1 % 4) (byte_ bs 1) s
  else message bs s

/-- What has come of a message before this fragment. -/
def fragsOf (k : Pair) (kind msgid : Nat) : List Byte := match k.frags.find? fun f => f.1 = kind ∧ f.2.1 = msgid with
  | some f => f.2.2
  | none => []

/-- A fragment handed to the hub; the last one completes its message. -/
def ctrlIn (p l kind msgid frag : Nat) (last : Bool) (bytes : List Byte) (s : State) : State :=
  let k := pair s p l
  let all := (if frag = 0 then [] else fragsOf k kind msgid) ++ bytes
  let rest := k.frags.filter fun f => !(f.1 == kind && f.2.1 == msgid)
  let s := freeFlit p l 2 (setPair p l { k with frags := if last then rest else rest ++ [(kind, msgid, all)] } s)
  if last then ctrlMsg k.peer kind all s else s

/-- A CTRL flit. -/
def execCtrl (h : FlitHdr) (kind msgid : Half16) (frag : Nat) (lastFrag : Bool) (bytes : List Byte) (s : State) : Out :=
  .next (sequenced h (.ctrl kind.toNat msgid.toNat frag lastFrag bytes) s
    (ctrlIn h.p.val h.l.val kind.toNat msgid.toNat frag lastFrag bytes))

end Sys2Proof.Machine
end

