-- ==== Sys2Proof/Machine/Update.lean ====
section
/-! DEFINITION. Firmware update sessions, the manifest and attestation (R407 to R421). -/

namespace Sys2Proof.Machine

def onUpd (f : UpdSt → UpdSt) (s : State) : State := { s with upd := f s.upd }

/-! ### The manifest (R412) -/

/-- A part entry. -/
def manPart (bs : List Byte) (i : Nat) : FwPart :=
  let o := 64 + 96 * i
  { part := getN bs o 2, ver := getN bs (o + 2) 4, off := getN bs (o + 8) 8, len := getN bs (o + 16) 8, digest := (bs.drop (o + 32)).take 64 }

/-- A manifest's fields. -/
def parseManifest (bs : List Byte) : Manifest :=
  { raw := bs, setVer := getN bs 8 4, secVer := getN bs 12 4, devices := getN bs 16 2, minStep := getN bs 18 1, settingsFmt := getN bs 19 1,
    parts := (List.range (getN bs 6 2)).map (manPart bs) }

/-- Whether the format is that of R412: magic, format, count, reserved bytes, parts rising, and the length. -/
def manifestOk (bs : List Byte) : Bool :=
  let n := getN bs 6 2
  decide (getN bs 0 4 = 0x4E414D55) && decide (getN bs 4 2 = 1) && decide (1 ≤ n ∧ n ≤ 32) && decide (getN bs 20 44 = 0)
    && ascending ((List.range n).map fun i => (manPart bs i).part) && decide (bs.length = 64 + 96 * n + 64 + 3309)

/-- Whether a range of the staging partition lies in written blocks. -/
def inBlocks (bl : List Nat) (off len : Nat) : Bool :=
  decide (0 < len) && decide (off + len ≤ 268431360) && (List.range ((off + len - 1) / 4096 + 1 - off / 4096)).all fun i => bl.contains (off / 4096 + i)

/-! ### Sessions (R408 to R411) -/

/-- UPD_SESSION.STATE. -/
def updState (s : State) : Nat := if s.upd.session.isSome then 1 else if s.upd.staged.isSome then 2 else 0

/-- The session ends without a commit, its bytes discarded: 0x0A02. -/
def endSession (cause : Nat) (s : State) : State :=
  match s.upd.session with
  | none => s
  | some u => logRec 0x0A02 0x0A00 u.id cause s.upd.blocks.length 0
      (onUpd (fun t => { t with session := none, blocks := [], staging := [] }) s)

/-- An update command of a ring. -/
def onUpdate (r opc : Nat) (s : State) (act : Entry → State) : State := onAdmin r opc s act

/-- UPD_OPEN. -/
def execUpdOpen (r : RingIx) (s : State) : Out :=
  .next (onUpdate r 0x20 s fun e =>
    let src := ent e 8 1
    let replace := decide (ent e 9 1 % 2 = 1)
    if src ≠ 1 ∧ src ≠ 2 then complete r e 0x10 [] s
    else if s.ckpt.well ≠ .ready then complete r e 0x307 [] s
    else match s.upd.session with
      | some u => complete r e 0x301 [0, 0, 0, 0, BitVec.ofNat 8 u.source] s
      | none =>
        if s.upd.staged.isSome ∧ replace = false then complete r e 0x302 [] s
        else
          let s := match s.upd.staged with
            | some m => logRec 0x0A02 0x0A00 m.2 7 s.upd.blocks.length m.1.setVer s
            | none => s
          let (x, s) := drawFree 10 s
          let id := x % 0xFFFFFFFF + 1
          let s := onUpd (fun t => { t with staged := none, blocks := [], staging := [],
                                            session := some { id := id, source := src, ring := r.val, lastAt := s.now } }) s
          complete r e 0 (toBytes id 4) (logRec 0x0A01 0x0A00 id src r.val 0 s))

/-- The open session an entry names, or the status it fails with. -/
def sessionOf (s : State) (e : Entry) : Except Nat UpdSession :=
  match s.upd.session with
  | none => .error 0x303
  | some u => if u.id = ent e 8 4 then .ok u else .error 0x304

/-- An accepted command restarts the idle time. -/
def touch (s : State) : State := onUpd (fun t => { t with session := t.session.map fun u => { u with lastAt := s.now } }) s


/-- UPD_WRITE. -/
def execUpdWrite (r : RingIx) (wellOk : Bool) (s : State) : Out :=
  .next (onUpdate r 0x21 s fun e =>
    match sessionOf s e with
    | .error x => complete r e x [] s
    | .ok _ =>
      let off := ent e 12 4
      let len := ent e 16 4
      if off % 4096 ≠ 0 ∨ len = 0 ∨ 1048576 < len ∨ 268431360 < off + len then complete r e 0x305 [] s
      else if bits (ent e 24 8) 60 4 ≠ 4 then complete r e 1 [] s
      else withTable r e (ent e 24 8) len s fun bs s =>
          if wellOk = false then complete r e 0x307 [] (endSession 6 s)
          else
            let new := (List.range ((len + 4095) / 4096)).map fun i => off / 4096 + i
            let s := touch (onUpd (fun t => { t with staging := Memory.writeN t.staging off bs, blocks := (t.blocks ++ new).dedup }) s)
            complete r e 0 (toBytes s.upd.blocks.length 4) s)

/-- UPD_COMMIT. -/
def execUpdCommit (r : RingIx) (wellOk : Bool) (s : State) : Out :=
  .next (onUpdate r 0x22 s fun e =>
    match sessionOf s e with
    | .error x => complete r e x [] s
    | .ok u =>
      if wellOk = false then complete r e 0x307 [] (endSession 6 s)
      else
        let off := ent e 12 4
        let len := ent e 16 4
        if 64 + 96 * 32 + 64 + 3309 < len ∨ len < 64 then complete r e 0x306 [] (touch s)
        else
          let bs := Memory.readN s.upd.staging off len
          let m := parseManifest bs
          if manifestOk bs = false ∨ inBlocks s.upd.blocks off len = false
              ∨ (m.parts.all fun p => inBlocks s.upd.blocks p.off p.len) = false then complete r e 0x306 [] (touch s)
          else
            let s := logRec 0x0A02 0x0A00 u.id 1 s.upd.blocks.length m.setVer s
            let s := onUpd (fun t => { t with session := none, staged := some (m, u.id), stagedSource := u.source, stagedRing := u.ring }) s
            complete r e 0 (toBytes m.setVer 4) s)

/-- UPD_ABORT. -/
def execUpdAbort (r : RingIx) (s : State) : Out :=
  .next (onUpdate r 0x23 s fun e =>
    match sessionOf s e with
    | .error x => complete r e x [] s
    | .ok _ => complete r e 0 [] (endSession 2 s))

/-- UPD_SESSION.SOURCE. -/
def updSource (s : State) : Nat := match s.upd.session with
  | some u => u.source
  | none => if s.upd.staged.isSome then s.upd.stagedSource else 0

/-- UPD_STAGED_VER. -/
def stagedVer (s : State) : Nat := (s.upd.staged.map fun m => m.1.setVer).getD 0

/-- UPD_STATUS. -/
def execUpdStatus (r : RingIx) (s : State) : Out :=
  .next (onUpdate r 0x24 s fun e =>
    complete r e 0 ([BitVec.ofNat 8 (updState s), BitVec.ofNat 8 (updSource s), 0, 0] ++ toBytes (stagedVer s) 4
      ++ toBytes (if s.upd.session.isSome then s.upd.blocks.length else 0) 4) s)

/-- 10 min without an accepted command of the session. -/
def execUpdSessionIdle (s : State) : Out :=
  match s.upd.session with
  | some u => if u.lastAt + 600000000000 ≤ s.now then .next (endSession 3 s) else .next s
  | none => .next s

/-! ### Attestation (R419, R420) -/

/-- The bank in force: the selector's, or the other after a fallback. -/
def bankRun (s : State) : Nat := if s.upd.fallback then 1 - s.upd.selector else s.upd.selector

/-- The bytes of signatures, which keys make that nothing reads. -/
def freeBytes (k n : Nat) (s : State) : List Byte := (List.range n).map fun i => BitVec.ofNat 8 (Config.open_ (1000 + k + i) s.freeCtr)

/-- The attestation report over a nonce, and the state with its draw used. -/
def attestation (nonce : List Byte) (s : State) : List Byte × State :=
  let u := s.upd
  let head := toBytes 0x54544154 4 ++ toBytes s.idb.serial.toNat 8 ++ toBytes s.time.ns.toNat 8 ++ toBytes u.log.length 4
    ++ [BitVec.ofNat 8 u.selector, BitVec.ofNat 8 (b2n u.fallback)] ++ List.replicate 38 0
  let entries := u.log.zipIdx.flatMap fun x =>
    toBytes x.2 2 ++ toBytes x.1.1 2 ++ toBytes x.1.2.1 8 ++ [BitVec.ofNat 8 x.1.2.2.1, 0, 0, 0] ++ x.1.2.2.2
  (head ++ nonce ++ entries ++ freeBytes 4000 (64 + 3309) s, { s with freeCtr := s.freeCtr + 1 })

/-- ATTEST. -/
def execAttest (r : RingIx) (s : State) : Out :=
  .next (onUpdate r 0x28 s fun e =>
    let nonce := (e.bytes.drop 8).take 32
    let x := attestation nonce s
    if ent e 48 4 < x.1.length then complete r e 0x305 [] s
    else if bits (ent e 40 8) 60 4 ≠ 4 then complete r e 1 [] s
    else if tableWaits s (ent e 40 8) then s
    else
      let w := writeTable r e (ent e 40 8) x.1 x.2
      if w.1 ≠ 0 then complete r e w.1 [] s
      else complete r e 0 (toBytes x.1.length 4) (logRec 0x0A07 0x0A00 1 (ofBytes (nonce.take 4)) x.1.length 0 w.2))

end Sys2Proof.Machine
end

