-- ==== Sys2Proof/Machine/Host.lean ====
section
/-! DEFINITION. The PCI Express side of the host interface: resets of it, the link, Bus Master Enable, failed reads, BAR4 (R171 to R178). -/

namespace Sys2Proof.Machine

def onHst (f : HostIf → HostIf) (s : State) : State := { s with hst := f s.hst }

/-! ### Resets of the host interface (R173) -/


/-- Every guard region of the set in force zeroed, and those that waited. -/
def zeroGuards (s : State) : State := (List.range 16).foldl zeroGuard (s.ddr.zeroing.foldl (fun s x => zeroWaiting x s) s)

/-- Contexts that exist, and are not being torn down, torn down as CTX_TEARDOWN does. -/
def tearAll (s : State) : State :=
  ((List.range 4).filter fun c => (ctx s c).created && !(ctx s c).tearing).foldl (fun s c => teardown c none s) s

/-- The host interface itself at its reset values; rate, width and reported errors are the link's, and entries keep their numbers. -/
def freshHost (h : HostIf) : HostIf := { rate10 := h.rate10, width := h.width, resetting := true, aer := h.aer, entSeq := h.entSeq }

/-- Hub copy descriptors of rings forgotten, with what their fabric transfers have not begun. -/
def dropHubCopies (s : State) : State :=
  let hub := s.ddr.engines.filter fun p => p.1 < 4
  let xs := hub.flatMap fun p => p.2.map CopyDesc.xfer
  let s := { s with ddr := { s.ddr with engines := s.ddr.engines.filter fun p => 4 ≤ p.1 } }
  xs.foldl (fun s i => dropXfer i s) s

/-- The counts of refused requests, which start afresh at a reset of the host interface (R200). -/
def clearBusErr (s : State) : State := { s with idb := { s.idb with busErr := 0, busErrLast := 0 } }

/-- A reset of the host interface for a cause of 0x0206. -/
def hostReset (cause : Nat) (s : State) : State :=
  let n := ((List.range 4).filter fun c => (ctx s c).created).length
  let s := endSession 4 (zeroGuards s)
  let s := clearBusErr (onHst freshHost (dropHubCopies s))
  let s := tearAll { s with rst := { s.rst with held := [] } }
  logRec 0x0206 0x00FF cause n 0 0 s

/-- Function Level Reset. -/
def execFunctionLevelReset (s : State) : Out := .next (hostReset 1 s)
/-- Hot Reset. -/
def execHotReset (s : State) : Out := .next (hostReset 2 s)
/-- The link has been down for more than 10 ms. -/
def execLinkDownTimeout (s : State) : Out := .next (hostReset 3 s)

/-- The reset of the host interface completes. -/
def execHostInterfaceResetComplete (s : State) : Out := .next (onHst (fun h => { h with resetting := false }) { s with pins := { s.pins with perst := false } })

/-! ### Link and bus mastering (R172, R174) -/

/-- What the endpoint answers to a Configuration Request: Request Retry Status, or a 32-bit word. -/
inductive ConfigAnswer
  | retry
  | word (v : Nat)
  deriving DecidableEq, Repr

/-- The codes that Device Control gives to sizes in bytes. -/
def sizeCode (n : Nat) : Nat := Nat.log2 (n / 128)

/-- Words of the configuration space that R171 gives: identity, Command, class code and revision; `0x78` Device Control as the PCI Express
capability lays it out (log 111). -/
def configWord (s : State) (off : Nat) : Nat :=
  let c := s.hst.pci
  match off with
  | 0x00 => (if s.idb.deviceL then 0x3216 else 0x3208) * 65536 + s.idb.vendor.toNat
  | 0x04 => b2n s.hst.mse * 2 + b2n s.hst.bme * 4
  | 0x08 => 0x120000 * 256 + (if s.idb.siStep = 0 then 0 else 1)
  | 0x78 => b2n c.relaxed * 16 + sizeCode c.payload * 32 + sizeCode c.readReq * 4096
  | _ => 0

/-- The answer to a Configuration Request: Request Retry Status while a reset of the host interface runs (R173). -/
def configRead (s : State) (off : Nat) : ConfigAnswer := if s.hst.resetting then .retry else .word (configWord s off)

/-- Whether a write of the module sets the relaxed ordering attribute (R171): data writes where Device Control enables it, never entries. -/
def relaxedWrite (s : State) (data : Bool) : Bool := data && s.hst.pci.relaxed

/-- The width that a link trains to: one that can form only x2 trains as x1 (R171). -/
def trainedWidth (width : Nat) : Nat := if width = 2 then 1 else width

/-- The link trains to a rate and a width: 0x0205 below 32 GT/s x8, and at every later change. -/
def execLinkRateOrWidthChange (rate10 formed : Nat) (s : State) : Out :=
  let h := s.hst
  let width := trainedWidth formed
  if h.rate10 = rate10 ∧ h.width = width then .next s
  else
    let s := onHst (fun h => { h with rate10 := rate10, width := width }) s
    if rate10 < 320 ∨ width < 8 ∨ h.rate10 < 320 ∨ h.width < 8 then .next (logRec 0x0205 0x00FF rate10 width 0 0 s) else .next s

/-- Vectors whose PBA bit is set and whose mask is clear are sent once DMA is possible. -/
def flushMsix (s : State) : State :=
  (List.range 128).foldl (fun s v =>
    if bit s.hst.pba v && !bit (msixWord s (16 * v + 12)) 0 && canDma s then
      sendMsix v (onHst (fun h => { h with pba := h.pba &&& ~~~(BitVec.ofNat 128 (2 ^ v)) }) s)
    else s) s

/-- Completion entries that waited for Bus Master Enable are written. -/
def flushCq (s : State) : State :=
  if canDma s then
    s.hst.waitCq.foldl (fun s p => countHub 9 0 false (writeMem p.2.1 p.2.2 s)) (onHst (fun h => { h with waitCq := [] }) s)
  else s

/-- Bus Master Enable, Memory Space Enable, the power state or Device Control changes. -/
def execBusMasterEnableChange (bme d3hot mse : Bool) (ctl : PciCtl) (s : State) : Out :=
  .next (flushMsix (flushCq (onHst (fun h => { h with bme := bme, d3hot := d3hot, mse := mse, pci := ctl }) s)))

/-! ### Host reads that fail (R175) -/

def failCode : HostFail → Nat
  | .timeout => 1 | .unsupported => 2 | .aborted => 3

/-- A read of host memory as AER records it: 128 bytes. -/
def hostRead (cls bus : Nat) : AerRec := ⟨cls, false, bus, 32, 0xF⟩

/-- An instruction whose host read fails ends during execution; which of its destination lines are new is a free value (R128). -/
def breakOp (g st i cause bus : Nat) (s : State) : State :=
  match (strm s g st).outst[i]? with
  | some op =>
    let op' := { op with bad := some (op.bad.getD (cause, bus)) }
    let s := updStrm g st (fun r => { r with outst := r.outst.set i op' }) s
    if fld op.word 0 8 = 0x10 then finishXfer g st op' (getXfer op.sregs op.word) false .clean s id
    else execFault g st op' cause bus s
  | none => s

/-- A host read of the module fails: an ACTIVE ring enters ERROR with cause HOST, a stream's instruction faults with the bus address. -/
def execHostReadFailure (who : HostReader) (why : HostFail) (bus : DWord) (s : State) : Out :=
  let log_ := fun r => logRec 0x0004 0 r (failCode why) (bus.toNat % 0x100000000) (bus.toNat / 0x100000000)
  let s := aer (hostRead (if why = .timeout then 1 else 2) bus.toNat) s
  match who with
  | .ringFetch r => .next (ringError r 3 0 (log_ r s))
  | .ringEntry r => .next (ringError r 3 0 (log_ r s))
  | .stream g st i => .next (breakOp g st i 0x0F bus.toNat (log_ 0xFF s))

/-- The copy descriptor of a ring that runs has met poisoned read data. -/
def poisonEntry (r bus : Nat) (s : State) : State :=
  match (List.range 4).findSome? fun e => ((engine s e).find? fun d => d.ring = some r ∧ d.running).map fun d => (e, d) with
  | some (e, d) => setEngine e ((engine s e).map fun x => if x = d then { d with hostBad := some (d.hostBad.getD bus) } else x) s
  | none => s

/-- A TLP carrying EP: a host write is discarded; read data counts as poisoned. -/
def execPoisonedTlpReceived (who : Option HostReader) (bus : DWord) (s : State) : Out :=
  let s := aer { hostRead 3 bus.toNat with write := who.isNone } s
  match who with
  | some (.stream g st i) => .next (breakOp g st i 0x0C bus.toNat s)
  | some (.ringEntry r) => .next (poisonEntry r bus.toNat s)
  | some (.ringFetch r) => .next (ringError r 3 0 s)
  | none => .next s

/-! ### BAR4 (R178) -/

/-- KEEPER_BAR4 in force: base in bytes, and ENABLE. -/
def bar4 (s : State) : Nat × Bool :=
  let w := Tbl.get 0 s.hst.force 0x0C
  (fld w 0 19 * 2097152, bit w 31)

/-- The header of a BAR4 request. -/
def bar4Hdr (cls : Nat) (write : Bool) (off len : Nat) : AerRec := ⟨cls, write, off, (off % 4 + len + 3) / 4, 0xF⟩

/-- A BAR4 read: the bytes, or Unsupported Request; poison returns EP and is reported through AER (R154). -/
def execBar4Read (off len : Nat) (s : State) : Out :=
  let b := bar4 s
  let a := b.1 + off
  .next (onBar false off len s fun s =>
    if b.2 = false ∨ capacity s < a + len then aer (bar4Hdr 2 false off len) (send .completion 1 [off] s)
    else
      let s := readRange a len s
      let data := off :: (s.mem.readN a len).map BitVec.toNat
      if (badByte s a len).isSome then aer (bar4Hdr 3 false off len) (send .completion 2 data s) else send .completion 0 data s)

/-- A discarded BAR4 write: Unsupported Request where the window is off or the byte beyond C (R175), 0x0003 at most once per ms. -/
def bar4Drop (cause a off len : Nat) (s : State) : State :=
  let s := if cause < 3 then aer (bar4Hdr 2 true off len) s else s
  logRate 0x0003 1000000 0x0003 0 cause (bits a 8 32) 0 0 s

/-- The runs of enabled bytes of a write: where each begins, and its bytes. -/
def enabledRuns : Nat → List (Option Byte) → List (Nat × List Byte)
  | _, [] => []
  | i, none :: t => enabledRuns (i + 1) t
  | i, some b :: t => match enabledRuns (i + 1) t with
    | (j, bs) :: rest => if j = i + 1 then (i, b :: bs) :: rest else (i, [b]) :: (j, bs) :: rest
    | [] => [(i, [b])]

/-- A BAR4 write, with its byte enables: to user space; of a byte of the system area or at or beyond C nothing is written. -/
def execBar4Write (off : Nat) (data : List (Option Byte)) (s : State) : Out :=
  let b := bar4 s
  let a := b.1 + off
  let n := data.length
  if n = 0 then .next s
  else .next (onBar true off n s fun s =>
    if b.2 = false then bar4Drop 1 a off n s
    else if capacity s < a + n then bar4Drop 2 a off n s
    else if userLimit s < a + n then bar4Drop 3 a off n s
    else (enabledRuns 0 data).foldl (fun s p => store (a + p.1) p.2 s) s)

end Sys2Proof.Machine
end

