-- ==== Sys2Proof/Machine/Resets.lean ====
section
/-! DEFINITION. Reset domains and the reset sequence, hang detection, fatal errors and the dump (R334 to R349). -/

namespace Sys2Proof.Machine

def onRst (f : RstSt → RstSt) (s : State) : State := { s with rst := f s.rst }

/-! ### Domains (R334, R338) -/

/-- Whether domain (`k`, `i`) lies inside or equals domain (`kk`, `ii`). -/
def insideDomain (k i kk ii : Nat) : Bool :=
  match kk with
  | 7 => true
  | 6 => k != 7
  | 5 => k == 5 && i == ii
  | 4 => decide (1 ≤ k ∧ k ≤ 4)
  | 3 => (k == 3 && i == ii) || (k == 2 && i / 8 == ii) || (k == 1 && coreHalf i == ii)
  | 2 => (k == 2 && i == ii) || (k == 1 && coreCode i == ii)
  | _ => k == kk && i == ii

/-- Whether an index names a domain of a kind; an ABSENT or FENCED core is none. -/
def domainOk (s : State) (kind index : Nat) : Bool :=
  match kind with
  | 1 => decide (index < 144) && (core s index).state != .absent && (core s index).state != .fenced
  | 2 => decide (index < 16)
  | 3 => decide (index < 2)
  | 5 => decide (index < 16 * planeCount s)
  | _ => index == 0

/-- Source of a reset's records (R348). -/
def resetSrc (kind index : Nat) : Nat := kind * 256 + index % 256

/-- The contexts a reset affects: owners of its cores, for a module reset all, for a pair none (R335). -/
def affected (s : State) (kind index : Nat) : List Nat :=
  if kind = 5 then []
  else if 6 ≤ kind then (List.range 4).filter fun c => (ctx s c).created
  else ownersOf s (domainCores kind index)

/-- One more of a kind in RST_COUNT; 8 counts hang detections. -/
def countReset (kind : Nat) (s : State) : State :=
  onRst (fun t => { t with counts := Tbl.set t.counts kind (satAdd 255 (Tbl.get 0 t.counts kind) 1) }) s

/-! ### Phase 1 (R336, R338) -/

/-- What a module reset ends at its trigger: the update session and every checkpoint in progress (R316, R410). -/
def moduleStops (s : State) : State :=
  let s := endSession 4 ((List.range 4).foldl (fun s c => ckptFail c 4 s) s)
  onHst (fun h => { h with resetting := true }) s

/-- A pair as FABRIC-LANE leaves it: OFF with its assignment kept. -/
def lanePairOff (p l : Nat) (s : State) : State :=
  let k := pair s p l
  updPair p l (fun x => { x with assigned := k.assigned, rxLane := k.rxLane, peer := k.peer, loop := k.loop, from_ := k.from_ }) (pairOff p l s)

/-- A reset begun: the contexts' GEN advances, smaller resets inside it stop where they are. -/
def beginReset (kind index cause : Nat) (s : State) : State :=
  let old := s.rst.runs.filter fun x => insideDomain x.kind x.index kind index
  let own := affected s kind index
  let done := (old.filter fun x => 5 ≤ x.phase).flatMap fun x => domainCores x.kind x.index
  let run : ResetRun := { kind := kind, index := index, cause := cause, phase := if kind = 5 then 5 else 3, at_ := s.now, pod := s.time.ns.toNat,
                          ctxs := (own ++ old.flatMap ResetRun.ctxs).dedup, cores := (domainCores kind index).filter fun g => !done.contains g,
                          remap := (old.flatMap ResetRun.remap).dedup }
  let s := own.foldl (fun s c => genAdvance c s) s
  let s := onRst (fun t => { t with runs := (t.runs.filter fun x => !insideDomain x.kind x.index kind index) ++ [run] }) (countReset kind s)
  let mask := own.foldl (fun n c => n + 2 ^ c) 0
  let s := logRec 0x0801 (resetSrc kind index) kind index cause mask s
  let s := report (recWords 0x0801 (resetSrc kind index) kind index cause mask) s
  if kind = 5 then lanePairOff (index / 16) (index % 16) s else if 6 ≤ kind then moduleStops s else s

/-- A reset requested (R338). -/
def trigReset (kind index cause : Nat) (s : State) : State :=
  if s.boot.state = .off ∨ s.pwr.failing.isSome then s
  else if s.rst.runs.any fun x => insideDomain kind index x.kind x.index then logRec 0x0804 (resetSrc kind index) 1 kind index 0 s
  else if domainOk s kind index = false then logRec 0x0804 (resetSrc kind index) 3 kind index 0 s
  else beginReset kind index cause s

/-- CORE reset. -/
def execCoreReset (g : Core) (cause : Nat) (s : State) : Out := .next (trigReset 1 g cause s)
/-- CLUSTER reset. -/
def execClusterReset (c : Clu) (cause : Nat) (s : State) : Out := .next (trigReset 2 c cause s)
/-- HALF reset. -/
def execHalfReset (h : Hlf) (cause : Nat) (s : State) : Out := .next (trigReset 3 h cause s)
/-- COMPUTE reset. -/
def execComputeReset (cause : Nat) (s : State) : Out := .next (trigReset 4 0 cause s)
/-- FABRIC-LANE reset. -/
def execFabricLaneReset (p : Plane) (l : Lane) (cause : Nat) (s : State) : Out := .next (trigReset 5 (16 * p.val + l.val) cause s)
/-- MODULE-WARM reset. -/
def execModuleWarmReset (cause : Nat) (s : State) : Out := .next (trigReset 6 0 cause s)
/-- MODULE-COLD reset. -/
def execModuleColdReset (cause : Nat) (s : State) : Out := .next (trigReset 7 0 cause s)

/-! ### Phases 3 to 5 (R334, R339, R341) -/

/-- One running reset replaced. -/
def setRun (a b : ResetRun) (s : State) : State := onRst (fun t => { t with runs := t.runs.map fun x => if x = a then b else x }) s

/-- The oldest reset in a phase. -/
def runIn (s : State) (phase : Nat) : Option ResetRun := s.rst.runs.find? fun x => x.phase = phase

/-- Whether nothing of a context's work is in flight: instructions of its cores, ring entries captured under its GEN, fabric transfers. -/
def ctxDrained (s : State) (c : Nat) : Bool :=
  ((coresOf s c).all fun g => (List.range 4).all fun st => quiet s g st) && (copyEntries s c).isEmpty

/-- The drain ends, or 100 µs have passed. -/
def execResetDrainEnd (s : State) : Out :=
  match runIn s 3 with
  | some x =>
    if x.at_ + 100000 ≤ s.now ∨ x.ctxs.all (ctxDrained s) then .next (x.ctxs.foldl (fun s c => disposeCtx c s) (setRun x { x with phase := 4 } s))
    else .next s
  | none => .next s

/-- An engine after a CORE reset: as after a scrub, λ and its history kept. -/
def keepLambda (o n : Ote) : Ote := { n with lambdaF := o.lambdaF, lambdaT := o.lambdaT, histF := o.histF, histT := o.histT }

/-- A core cleared. -/
def clearCore (g : Nat) (s : State) : State :=
  let k := core s g
  if k.state = .absent ∨ k.state = .fenced then s
  else
    updCore g (fun n => { n with
      state := if k.state = .assigned then .assigned else .free
      streams := [], sampTag := k.sampTag.map fun (t : SampTag) => { t with cut := true }, sampNext := none
      engines := n.engines.map fun p => (p.1, keepLambda (Tbl.get {} k.engines p.1) p.2) }) (scrubCore g (disposeCore g s))

/-- A cluster cleared: its cores, router buffers, copy engine and lists, CLU_FAULT. -/
def clearClu (c : Nat) (s : State) : State :=
  let s := (domainCores 2 c).foldl (fun s g => clearCore g s) s
  let one := fun (p : Nat × CeList) => (p.1, { p.2 with head := readNum s (listKey c p.2) 4, state := 0, err := 0 })
  setEngine (4 + c) [] (updClu c (fun k => { k with beats := [], rspRes := [], fault := 0, lists := k.lists.map one }) s)

/-- The HALF block registers of a core at their reset values; error counts and records go on. -/
def freshCoreRegs (k : CoreSt) : CoreSt :=
  let q := fun (p : Nat × TokQueue) => (p.1, { p.2 with cfg := 0 })
  let e := fun (p : Nat × Ote) => (p.1, { p.2 with rowSel := 0, selCal := 0, selDrift := 0, selStat := 0, chanSel := 0, selTrim := 0 })
  { k with fault := 0, queues := k.queues.map q, engines := k.engines.map e, seqCfg := 256, shadowCfg := 8, shadowDrop := 0 }

/-- Whether a counter lies in a half's blocks. -/
def halfCounter (h off : Nat) : Bool := if h = 0 then decide (0x800000 ≤ off ∧ off < 0xC00000) else decide (0xC00000 ≤ off)

/-- A half's counters back to 0 with their CFG reset values (R367). -/
def dropCounters (h : Nat) (s : State) : State :=
  let keep := s.tally.counters.filter fun p => !halfCounter h p.1
  { s with tally := { s.tally with counters := keep } }

/-- A half cleared: its clusters, its registers, its counters; the authority token is released if it holds it. -/
def clearHalf (h : Nat) (s : State) : State :=
  let s := (List.range 8).foldl (fun s k => updClu (8 * h + k) (fun n => { n with ceil := 0, duty := 0 }) (clearClu (8 * h + k) s)) s
  let s := (List.range 72).foldl (fun s k => updCore (72 * h + k) freshCoreRegs s) s
  let s := dropCounters h s
  if s.stew.authHolder = some h then authorityDrop 3 s else s

/-- A domain cleared (R334); a module reset clears at its end. -/
def clearDomain (kind index : Nat) (s : State) : State :=
  match kind with
  | 1 => clearCore index s
  | 2 => clearClu index s
  | 3 => clearHalf index s
  | 4 => zeroGuards (clearHalf 1 (clearHalf 0 s))
  | _ => s

/-- The pre-reset sample is written; the domain is held in reset and cleared. -/
def execResetSampleWritten (s : State) : Out :=
  match runIn s 4 with
  | some x => .next (clearDomain x.kind x.index (setRun x { x with phase := 5 } (sampleSet x.kind x.cause x.index true x.pod x.cores s)))
  | none => .next s

/-! ### Module resets (R334, R336, R396) -/

/-- A comb that is FAILED stays so; every other is dark. -/
def keptCombs (t : Tbl FabComb) : Tbl FabComb := (t.filter fun p => p.2.state = 4).map fun p => (p.1, { state := 4 })
def keptClu (k : CluSt) : CluSt :=
  { cisternCe := k.cisternCe, cisternUe := k.cisternUe, combMap := k.combMap,
    combs := (k.combs.filter fun p => p.2.state = 4).map fun p => (p.1, { state := 4 }) }
/-- A chiplet's switch and FAILED combs. -/
def keptFab (f : FabSt) : FabSt := { combs := keptCombs f.combs, switch_ := f.switch_, txRetired := f.txRetired }

/-- A chiplet through MODULE-WARM: its failed pilot checks count on from power-on (R228). -/
def warmFab (f : FabSt) : FabSt :=
  let lane := fun (p : Nat × LaneSt) => (p.1, ({ pilotFails := p.2.pilotFails } : LaneSt))
  let comb := fun (p : Nat × FabComb) => (p.1, ({ state := if p.2.state = 4 then 4 else 0, pilotFails := p.2.pilotFails } : FabComb))
  { keptFab f with combs := f.combs.map comb, tx := f.tx.map lane, rx := f.rx.map lane }

/-- The well through a module reset: slots and images; a drain that ran ends. -/
def keptWell (t : CkptSt) : CkptSt :=
  { slots := t.slots.map fun p => (p.1, { p.2 with state := if p.2.state = .draining then .committed else p.2.state, drainer := none, reading := false }),
    images := t.images, commits := t.commits, known := t.known, mini := t.mini }

/-- What the settings store keeps of DDR: the states of the devices, the layout in force; a migration that power cut short counts as complete
(R158, R169). -/
def settledDdr (d : DdrSt) : DdrSt :=
  let one := fun (n : Nat) (k : DdrChan) =>
    { state := if d.migChan.contains n then 5 else k.state, dead := k.dead, retirePosted := k.retirePosted : DdrChan }
  { inService := d.migChan.foldl (fun v n => v &&& ~~~(BitVec.ofNat 12 (2 ^ n))) d.inService
    retired := d.retired + d.migChan.length, capMb := d.capMb, limit := d.limit, chans := d.chans.map fun p => (p.1, one p.1 p.2) }

/-- The fields of both module resets: what lies in the well, the settings store and the identity record, the pins and the outside. -/
def bareState (s : State) : State :=
  { State.reset with
    now := s.now, freeCtr := s.freeCtr, sent := s.sent, pending := s.pending, side := s.side
    mem := s.mem.filter fun c => 0x10000000000000000 ≤ c.1
    clus := s.clus.map fun p => (p.1, keptClu { p.2 with cisternCe := 0, cisternUe := 0 })
    fab := s.fab.map fun p => (p.1, keptFab p.2)
    idb := { deviceL := s.idb.deviceL, serial := s.idb.serial, vendor := s.idb.vendor, recFormat := s.idb.recFormat, assyStep := s.idb.assyStep,
             siStep := s.idb.siStep, good := s.idb.good, fenceList := s.idb.fenceList, comm := s.idb.comm, mac := s.idb.mac,
             subIds := s.idb.subIds, sections := s.idb.sections }
    ddr := settledDdr s.ddr
    hst := { resetting := true }
    rst := { counts := s.rst.counts, lastKind := s.rst.lastKind, lastCause := s.rst.lastCause, lastIndex := s.rst.lastIndex,
             dumpWell := s.rst.dumpWell, dumpHalf := s.rst.dumpHalf, dumpCause := s.rst.dumpCause,
             wellDump := s.rst.wellDump }
    steer := { slot := s.steer.slot }
    stew := { cfg := s.stew.cfg, arb := { epoch := s.stew.arb.epoch, freeAt := s.now }, startAt := s.now }
    ckpt := keptWell s.ckpt
    boot := { fenceMask := s.boot.fenceMask }
    pwr := { pwrfail := s.pwr.pwrfail, tripped := s.pwr.tripped, lastCause := s.pwr.lastCause, dropped := s.pwr.dropped, cv := s.pwr.cv, watts := s.pwr.watts }
    upd := { bank0 := s.upd.bank0, bank1 := s.upd.bank1, selector := s.upd.selector, lastAct := s.upd.lastAct, secVer := s.upd.secVer,
             settingsFmt := s.upd.settingsFmt, staged := s.upd.staged, stagedSource := s.upd.stagedSource, stagedRing := s.upd.stagedRing,
             blocks := if s.upd.staged.isSome then s.upd.blocks else [], staging := if s.upd.staged.isSome then s.upd.staging else [] }
    pins := { pwrfailN := s.pins.pwrfailN, attnMasked := s.pins.attnMasked, ejectOpen := s.pins.ejectOpen, slotNow := s.pins.slotNow,
              perst := s.pins.perst, link := s.pins.link }
    eth := s.eth.map fun p => (p.1, { present := p.2.present }) }

/-- After MODULE-COLD, and at power-on: BOOT from its first step. -/
def coldState (s : State) : State := bareState s

/-- A channel through MODULE-WARM: what the device has counted and whether it failed. -/
def warmChan (k : DdrChan) : DdrChan := { k with reqs := [], serving := false }

/-- A core's error counts through MODULE-WARM. -/
def warmCore (k : CoreSt) : CoreSt := { eccCe := k.eccCe, eccUe := k.eccUe, eccAddr := k.eccAddr, ueHist := k.ueHist }

/-- What MODULE-WARM keeps of `s`, over the bare state `b`; `z`: `s` with the guard regions that it clears zeroed. -/
def warmKeep (s z b : State) : State :=
  { b with
    mem := z.mem.filter fun c => decide (c.1 < 0x1000000000000000) || decide (0x10000000000000000 ≤ c.1)
    cores := s.cores.map fun p => (p.1, warmCore p.2)
    clus := s.clus.map fun p => (p.1, keptClu p.2)
    fab := s.fab.map fun p => (p.1, warmFab p.2)
    ctxs := s.ctxs.map fun p => (p.1, { gen := p.2.gen })
    ddr := { b.ddr with
      inService := s.ddr.inService, retired := s.ddr.retired, chans := s.ddr.chans.map fun p => (p.1, warmChan p.2)
      migrating := s.ddr.migrating, migChan := s.ddr.migChan, migAt := s.ddr.migAt, watermark := s.ddr.watermark, poison := z.ddr.poison
      badParity := z.ddr.badParity, patrol := s.ddr.patrol, patrolPar := s.ddr.patrolPar }
    hst := { b.hst with rate10 := s.hst.rate10, width := s.hst.width, aer := s.hst.aer }
    rst := { b.rst with sampleSeq := s.rst.sampleSeq, samplePos := s.rst.samplePos, sampleNext := s.rst.sampleNext, dumpValid := s.rst.dumpValid,
                        dumpSource := s.rst.dumpSource, dumpLen := s.rst.dumpLen }
    log := s.log
    tally := { snapCount := s.tally.snapCount }
    steer := { b.steer with gaz := s.steer.gaz, charted := s.steer.charted }
    ckpt := { b.ckpt with caCount := s.ckpt.caCount, caLong := s.ckpt.caLong }
    time := { ns := s.time.ns, frac := s.time.frac, incrAdj := s.time.incrAdj, quality := s.time.quality, state := .holdover }
    boot := { b.boot with warm := true }
    pwr := { b.pwr with vmax := s.pwr.vmax, vmin := s.pwr.vmin, sag := s.pwr.sag, surge := s.pwr.surge, dropout := s.pwr.dropout, overvolt := s.pwr.overvolt,
                        temps := s.pwr.temps, sags := s.pwr.sags } }

/-- After MODULE-WARM: DDR contents, gazetteer, logbook, pod time and the counts since power-on are kept as well. -/
def warmState (s : State) : State :=
  let z := zeroGuards s
  warmKeep s z (bareState z)

/-! ### Release (R336, R338, R342) -/

/-- A context command that a reset has held carried out; a CTX_START whose table waits for DMA goes back to the front of its ring. -/
def runHeld (s : State) (h : Nat × Entry) : State :=
  if entOpcode h.2 ≠ 0x11 then doTeardown h.1 h.2 s
  else if tableWaits s (ent h.2 16 8) then
    updRing h.1 (fun k => { k with inflight := k.inflight.map fun x => if x.seq = h.2.seq then { x with started := false } else x }) s
  else doStart h.1 h.2 s

/-- The held commands whose context no reset affects any more. -/
def releaseHeld (s : State) : State :=
  let go := s.rst.held.filter fun h => !ctxResets s (ent h.2 8 1)
  go.foldl runHeld (onRst (fun t => { t with held := t.held.filter fun h => ctxResets s (ent h.2 8 1) }) s)

/-- The last reset released, in RST_STAT. -/
def lastReset (x : ResetRun) (s : State) : State :=
  onRst (fun t => { t with runs := t.runs.erase x, lastKind := x.kind, lastCause := x.cause, lastIndex := x.index }) s

/-- A reset of kind 1 to 5 released. -/
def releaseRun (x : ResetRun) (us : Nat) (s : State) : State :=
  let s := lastReset x s
  let s := fenceNow (x.remap.filter fun g => (core s g).state ≠ .absent ∧ (core s g).state ≠ .fenced) (fun g => (Tbl.get 0 s.idb.fenceList g).toNat) s
  let s := if x.kind = 5 then pairLit (x.index / 16) (x.index % 16) s else s
  let s := (x.ctxs.filter fun c => ctxResets s c = false).foldl (fun s c => reportRewound c s) s
  let src := resetSrc x.kind x.index
  let s := logRec 0x0802 src x.kind x.index us s.rst.sampleSeq s
  let s := postEvent 0x0841 src none x.kind x.index x.cause us s
  let s := if x.kind = 1 ∧ x.cause = 2 then updCore x.index (fun k => { k with hangFree := some s.now }) s else s
  recheckState (releaseHeld s)

/-- A module reset's end: its record, then start-up. -/
def releaseModule (x : ResetRun) (us : Nat) (s : State) : State :=
  let s := logRec 0x0802 (resetSrc x.kind x.index) x.kind x.index us s.rst.sampleSeq (lastReset x s)
  if x.kind = 6 then warmState s else coldState s

/-- The clear ends: the oldest reset that is through phase 5 releases; a module reset waits for its dump. -/
def execResetRelease (us : Nat) (s : State) : Out :=
  match s.rst.runs.find? fun x => x.phase = 5 ∧ (x.kind < 6 ∨ s.rst.dumpPending.isNone) with
  | some x => .next (if x.kind < 6 then releaseRun x us s else releaseModule x us s)
  | none => .next s

/-! ### Escalation (R337) -/

/-- The time after which a kind escalates, in ns. -/
def escalateNs (kind : Nat) : Nat :=
  match kind with
  | 1 => 1000000
  | 2 => 1000000
  | 3 => 5000000
  | 4 => 20000000
  | 5 => 10000000
  | _ => 2000000000

/-- The domain a reset escalates to. -/
def nextDomain (kind index : Nat) : Nat × Nat :=
  match kind with
  | 1 => (2, coreCode index)
  | 2 => (3, index / 8)
  | 3 => (4, 0)
  | 4 => (6, 0)
  | _ => (7, 0)

/-- A pair that its reset has not released goes DOWN. -/
def laneDown (x : ResetRun) (s : State) : State :=
  let p := x.index / 16
  let l := x.index % 16
  let s := onRst (fun t => { t with runs := t.runs.erase x }) s
  pairGone p l (updPair p l (fun k => { k with state := .down, phase := 0 }) s)

/-- A reset has not released in time. -/
def execResetEscalation (s : State) : Out :=
  match s.rst.runs.find? fun x => x.kind ≠ 7 ∧ x.at_ + escalateNs x.kind ≤ s.now with
  | none => .next s
  | some x =>
    let s := logRec 0x0804 (resetSrc x.kind x.index) 2 x.kind x.index 0 s
    if x.kind = 5 then .next (laneDown x s)
    else .next (trigReset (nextDomain x.kind x.index).1 (nextDomain x.kind x.index).2 3 s)

/-! ### Hang detection (R342) -/

/-- A limit of RST_HANG_CFG in ms. -/
def hangLimit (s : State) (lo : Nat) : Nat := max 1 (fld s.rst.hangCfg lo 8)

/-- A detection: counted, 0x0803, SEQ_HANG, event 0x0840 of the core's context. -/
def detected (det g st limit : Nat) (s : State) : State :=
  let k := core s g
  let s := coreFault g 4 (countReset 8 s)
  let s := logRec 0x0803 (resetSrc 1 g) det g st limit s
  if k.state = .assigned then postEvent 0x0840 (resetSrc 1 g) (some k.ctx.val) det k.vcore st limit s else s

/-- A hang that a CORE reset clears; within 1 s of the release of one that a hang raised the core is fenced. -/
def hangReset (g : Nat) (s : State) : State :=
  match (core s g).hangFree with
  | some t => if s.now ≤ t + 1000000000 then fenceCore g 5 s else trigReset 1 g 2 s
  | none => trigReset 1 g 2 s

/-- Whether a RUNNING stream has been held by one of these stalls for `ms`. -/
def heldFor (s : State) (g st : Nat) (codes : List Nat) (ms : Nat) : Bool :=
  let r := strm s g st
  r.state == .running && codes.contains r.stall && decide (r.stallAt + ms * 1000000 ≤ s.now)

/-- A stream has held STALL 1 for WAIT_LIMIT. -/
def execStreamWaitHang (g : Core) (st : Str) (s : State) : Out :=
  let ms := hangLimit s 16
  if heldFor s g st [1] ms then
    let act := bit s.rst.hangCfg 24 && (core s g).state == .assigned
    let c := (core s g).ctx.val
    let s := detected 1 g st ms s
    .next (if act then rewind c s else s)
  else .next s

/-- A stream has held another stall for ISSUE_LIMIT. -/
def execStreamIssueHang (g : Core) (st : Str) (s : State) : Out :=
  let ms := hangLimit s 0
  if heldFor s g st [2, 3, 4, 6, 7, 8] ms then
    let act := bit s.rst.hangCfg 25
    let s := detected 2 g st ms s
    .next (if act then hangReset g s else s)
  else .next s

/-- Whether an engine has operations of the stream and none of them has moved for `ms`. -/
def engineHeld (now ms : Nat) (o : Ote) : Bool :=
  let ops := o.queue.filter fun q => !q.cal
  !ops.isEmpty && ops.all fun q => decide (q.at_ + ms * 1000000 ≤ now)

/-- Whether a long instruction of a stream has completed nothing for `ms`: one outstanding for that long, or an engine's operations. -/
def progressHeld (s : State) (g st ms : Nat) : Bool :=
  ((strm s g st).outst.any fun o => decide (o.issuedAt + ms * 1000000 ≤ s.now))
    || (st == 1 && (core s g).engines.any fun p => engineHeld s.now ms p.2)

/-- A long instruction has completed nothing for PROGRESS_LIMIT; HALTED, STOPPED and FAULTED streams are not watched. -/
def execProgressHang (g : Core) (st : Str) (s : State) : Out :=
  let ms := hangLimit s 8
  let r := strm s g st
  if (r.state = .running ∨ r.state = .stopping) ∧ progressHeld s g st ms then
    let act := bit s.rst.hangCfg 25
    let s := detected 3 g st ms s
    .next (if act then hangReset g s else s)
  else .next s

/-- A stream has stayed STOPPING for 1 ms. -/
def execStopHang (g : Core) (st : Str) (s : State) : Out :=
  if (strm s g st).state = .stopping ∧ (strm s g st).stopAt + 1000000 ≤ s.now then .next (hangReset g (detected 4 g st 1 s)) else .next s

/-- A router input buffer class holds beats and none has left for 1 ms. -/
def execRouterHang (c : Clu) (port : Fin 12) (rsp : Bool) (s : State) : Out :=
  if ((beats s c port).any fun b => b.rsp = rsp) ∧ Tbl.get 0 (clu s c).beatAt (2 * port.val + b2n rsp) + 1000000 ≤ s.now then
    .next (trigReset 2 c 2 (logRec 0x0803 (resetSrc 2 c) 5 c (b2n rsp) 1 (countReset 8 s)))
  else .next s

/-- A pair has stayed in RETRAIN, or has started more than 8 retrains within 1 s. -/
def execPairHang (p : Plane) (l : Lane) (s : State) : Out :=
  let k := pair s p l
  let n := 16 * p.val + l.val
  if (k.state = .retrain ∧ k.retrainAt.headD s.now + 10000000 ≤ s.now) ∨ 8 < within s.now 1000000000 k.retrainAt then
    .next (trigReset 5 n 2 (logRec 0x0803 (resetSrc 5 n) 6 n 0 10 (countReset 8 s)))
  else .next s

/-- A chiplet's microcontroller restarts alone; lanes and loops hold. -/
def execChipletWatchdog (p : Plane) (s : State) : Out := .next (logRec 0x0803 0x0800 7 p 0 10 (countReset 8 s))

/-- A half's controller restarts alone; the authority follows R292. -/
def execHalfControllerWatchdog (h : Hlf) (s : State) : Out := .next (logRec 0x0803 (resetSrc 3 h) 8 h 0 10 (countReset 8 s))

/-! ### Fatal errors and the dump (R343 to R345) -/

/-- A fatal error: 0x0806, its dump pending, its module reset. -/
def fatal (cause : Nat) (hpc : Nat) (s : State) : State :=
  let s := logRec 0x0806 0x0800 cause hpc 0 0 s
  let kind := if cause = 4 ∨ cause = 5 then 7 else 6
  trigReset kind 0 5 (onRst (fun t => { t with dumpPending := some cause, dumpWell := 0 }) s)

/-- The hub's processor has not kicked its watchdog for 100 ms. -/
def execHubWatchdog (hpc : Word) (s : State) : Out := .next (fatal 1 hpc.toNat (logRec 0x0803 0x0800 9 0 0 100 (countReset 8 s)))
/-- A firmware exception of the hub. -/
def execHubFirmwareException (hpc : Word) (s : State) : Out := .next (fatal 2 hpc.toNat s)
/-- An uncorrectable error in hub SRAM or the MRAM store. -/
def execHubMemoryUe (hpc : Word) (s : State) : Out := .next (fatal 3 hpc.toNat s)
/-- A DDR controller fault. -/
def execDdrControllerFault (hpc : Word) (s : State) : Out := .next (fatal 5 hpc.toNat s)

/-- The section kinds of a dump: 6 on a designated steward. -/
def dumpKinds (s : State) : List Nat := if s.stew.role = 0 then [1, 2, 3, 4, 5, 7, 8] else [1, 2, 3, 4, 5, 6, 7, 8]

/-- A section descriptor; lengths, offsets and CRCs follow from state the model does not hold. -/
def dumpDesc (d i kind : Nat) : List Byte :=
  let w := fun j n => toBytes (Config.open_ (1200 + 4 * i + j) d) n
  toBytes kind 4 ++ w 0 4 ++ w 1 8 ++ w 2 4 ++ List.replicate 12 0

/-- The dump's header. -/
def dumpHeader (s : State) (cause pod : Nat) : List Byte :=
  let ks := dumpKinds s
  let head := toBytes 0x504D4446 4 ++ toBytes 1 2 ++ toBytes cause 1 ++ toBytes ks.length 1 ++ toBytes pod 8 ++ toBytes s.idb.serial.toNat 8
    ++ toBytes s.idb.setVer.toNat 4 ++ toBytes s.rst.sampleSeq 4 ++ ks.zipIdx.flatMap fun x => dumpDesc s.freeCtr x.2 x.1
  let body := (head ++ List.replicate 4092 0).take 4092
  body ++ toBytes (crc32c body) 4

/-- The largest dump (R343): its header and 116 MiB of sections. -/
def dumpMax : Nat := 4096 + 121634816

/-- A dump of `n` bytes: its header, then sections whose bytes are open. -/
def dumpBytes (s : State) (cause pod n : Nat) : List Byte := dumpHeader s cause pod ++ openBytes s.freeCtr (min n dumpMax - 4096)

/-- Where the dump lies in DDR, in the system area (R156). -/
def dumpBase (s : State) : Nat := userLimit s + 16777216

/-- The module reset that waits for its dump. -/
def dumpRun (s : State) : Option ResetRun := s.rst.runs.find? fun x => 6 ≤ x.kind ∧ x.phase = 5

/-- The DDR dump is complete. Causes 4 and 5 write none. -/
def execDumpWritten (kib us : Nat) (s : State) : Out :=
  match s.rst.dumpPending, dumpRun s with
  | some c, some x =>
    if c = 4 ∨ c = 5 then .next s
    else
      let h := dumpBytes s c x.pod (1024 * kib)
      let s := store (dumpBase s) h { s with freeCtr := s.freeCtr + 1 }
      let s := onRst (fun t => { t with
        dumpPending := none, dumpValid := true, dumpSource := false, dumpWell := 0, dumpCause := c, dumpLen := h.length }) s
      .next (logRec 0x0807 0x0800 kib (dumpKinds s).length us 0 s)
  | _, _ => .next s

/-- What a complete copy leaves in the well: the DDR dump, or one from hub SRAM alone of an open length. -/
def wellImage (alone : Bool) (s : State) : List Byte :=
  if alone then dumpBytes s (s.rst.dumpPending.getD 0) ((dumpRun s).elim 0 ResetRun.pod) (Config.open_ 13 s.freeCtr)
  else s.mem.readN (dumpBase s) s.rst.dumpLen

/-- The copy of a dump into the well ends: 1 complete, 2 abandoned for power, 3 failed. -/
def execDumpWellCopyEnd (result : Nat) (us : Nat) (s : State) : Out :=
  let alone := s.rst.dumpPending = some 4 ∨ s.rst.dumpPending = some 5
  let image := if result = 1 then wellImage alone s else s.rst.wellDump
  if (dumpRun s).isSome ∧ (alone ∨ s.rst.dumpValid) ∧ s.rst.dumpWell = 0 then
    let half := s.rst.dumpHalf
    let s := onRst (fun t => { t with
      dumpWell := result
      dumpHalf := if result = 1 then !half else half
      dumpCause := if alone then t.dumpPending.getD 0 else t.dumpCause
      dumpPending := if alone then none else t.dumpPending
      wellDump := image }) { s with freeCtr := s.freeCtr + 1 }
    .next (logRec 0x0808 0x0800 result (b2n half) us 0 s)
  else .next s

/-- A write to RST_DUMP_CTL. -/
def execDumpClear (v : Word) (s : State) : Out :=
  if blockHeld s 0x80020 then .next (heldWrite 0x80020 v s)
  else if bit v 0 then .next (onRst (fun t => { t with dumpValid := false }) s) else .next s

/-- A write to RST_HANG_CFG. -/
def execRstHangCfgWrite (v : Word) (s : State) : Out :=
  if blockHeld s 0x80008 then .next (heldWrite 0x80008 v s) else .next (onRst (fun t => { t with hangCfg := v &&& 0x03FFFFFF }) s)

end Sys2Proof.Machine
end

