-- ==== Sys2Proof/Machine/Power.lean ====
section
/-! DEFINITION. Power, clocks and heat (R381 to R394). -/

namespace Sys2Proof.Machine

def onPwr (f : PwrSt → PwrSt) (s : State) : State := { s with pwr := f s.pwr }

/-! ### The power-fail action (R383) -/

/-- Every stream and copy engine stopped where it is. -/
def stopWork (s : State) : State :=
  let one := fun (p : Nat × CoreSt) => (p.1, { p.2 with streams := p.2.streams.map fun q => (q.1, haltStream q.2), engines := p.2.engines.map fun q => (q.1, dropOps s.now q.2) })
  { s with cores := s.cores.map one, ddr := { s.ddr with engines := [] } }

/-- Checkpoint writes and drains stopped, their slots failing as R312 states (R325). -/
def stopWell (s : State) : State :=
  let s := (List.range 4).foldl (fun s c => ckptFail c 5 s) s
  (List.range 4).foldl (fun s c => drainFail c true 4 0 (drainFail c false 4 0 s)) s

/-- A dump copy that runs is abandoned (R344), and every reset stops (R338). -/
def stopResets (s : State) : State :=
  let copying := (dumpRun s).isSome && s.rst.dumpValid && s.rst.dumpWell == 0
  let s := if copying then
      let (us, s) := drawFree 12 s
      logRec 0x0808 0x0800 2 (b2n s.rst.dumpHalf) (us % 0x100000000) 0 (onRst (fun t => { t with dumpWell := 2 }) s)
    else s
  onRst (fun t => { t with runs := [], dumpPending := none }) s

/-- Combs, lanes and cages shed. -/
def shed (s : State) : State :=
  let comb := fun (p : Nat × CombSt) => (p.1, if p.2.state = 4 then p.2 else { p.2 with state := 0, unlocked := false, relocking := false })
  let clu := fun (p : Nat × CluSt) => (p.1, { p.2 with combs := p.2.combs.map comb, handover := none })
  let fcomb := fun (p : Nat × FabComb) => (p.1, if p.2.state = 4 then p.2 else { p.2 with state := 0, unlocked := false })
  let s := darkAll s
  { s with clus := s.clus.map clu, fab := s.fab.map fun p => (p.1, { p.2 with combs := p.2.combs.map fcomb })
           eth := s.eth.map fun p => (p.1, { present := p.2.present }) }

/-- The power-fail action begun, unless one runs: 1 PWRFAIL_N, 2 DROPOUT, 3 OVERVOLT, 4 THERMAL. -/
def powerFail (cause : Nat) (s : State) : State :=
  if s.boot.state = .off ∨ s.pwr.failing.isSome then s
  else
    let s := endSession 5 (stopResets (stopWell (stopWork s)))
    let s := onPwr (fun p => { p with failing := some cause, lastCause := cause, dropped := p.dropped || cause == 2 }) s
    let body := recWords 0x0702 0x0700 cause s.pwr.cv (b2n s.pwr.pwrfail) s.pwr.watts
    let s := logRec 0x0702 0x0700 cause s.pwr.cv (b2n s.pwr.pwrfail) s.pwr.watts s
    let s := report body (shed s)
    if s.ckpt.well = .ready then onCkpt (fun t => { t with miniBusy := true }) s else s

/-- The hold-up falls to 36 V: OFF. -/
def execHoldupExhausted (s : State) : Out :=
  if s.pwr.failing.isSome then
    let s := coldState s
    .next { s with boot := { s.boot with state := .off } }
  else .next s

/-- The input has stayed at 48.0 V or more for 100 ms: start-up as after MODULE-COLD. -/
def execInputRestored (s : State) : Out := if s.boot.state = .off ∧ s.pwr.tripped = false then .next (coldState s) else .next s

/-! ### Excursions (R382) -/

/-- The power envelope, and CAP as it acts. -/
def envelope (s : State) : Nat := if s.idb.deviceL then 1800 else 1600
def powerCap (s : State) : Nat := max 800 (min (envelope s) (fld s.pwr.cfg 16 12))

/-- A sample of the input; the power is not 5 % below CAP at times above `overAt` (R387). -/
def inputSample (cv watts : Nat) (s : State) : State :=
  onPwr (fun p => { p with
    cv := cv
    watts := watts
    vmax := BitVec.ofNat 16 (max p.vmax.toNat cv)
    vmin := BitVec.ofNat 16 (min p.vmin.toNat cv)
    overAt := if 95 * powerCap s < 100 * watts then s.now else p.overAt }) s

/-- An excursion logged: its class, extreme, duration and load. -/
def excursion (cls cv us watts : Nat) (s : State) : State := logRec 0x0701 0x0700 cls cv us watts (inputSample cv watts s)

/-- A sag below 46.0 V or a surge above 60.0 V of at least 20 µs ends. -/
def execInputExcursionEnd (cls : Excursion) (extreme : Nat) (us : Nat) (watts : Nat) (s : State) : Out :=
  let out := match cls with
    | .sag => decide (extreme < 4600)
    | .surge => decide (6000 < extreme)
  if s.boot.state = .off ∨ us < 20 ∨ out = false then .next s
  else match cls with
    | .sag => .next (excursion 1 extreme us watts (onPwr (fun p => { p with sag := satAdd 255 p.sag 1, sags := (s.now :: p.sags).take 16 }) s))
    | .surge => .next (excursion 3 extreme us watts (onPwr (fun p => { p with surge := satAdd 255 p.surge 1 }) s))

/-- Below 44.0 V for 100 µs. -/
def execDropout (cv : Nat) (watts : Nat) (s : State) : Out :=
  if s.boot.state = .off ∨ 4400 ≤ cv then .next s
  else .next (powerFail 2 (excursion 2 cv 100 watts (onPwr (fun p => { p with dropout := satAdd 255 p.dropout 1 }) s)))

/-- Above 62.0 V for 100 µs. -/
def execOvervolt (cv : Nat) (watts : Nat) (s : State) : Out :=
  if s.boot.state = .off ∨ cv ≤ 6200 then .next s
  else .next (powerFail 3 (excursion 4 cv 100 watts (onPwr (fun p => { p with overvolt := satAdd 255 p.overvolt 1 }) s)))

/-! ### Throttling (R387, R391) -/

/-- THROTTLE as it acts, in °C. -/
def throttleC (s : State) : Nat := max 80 (min 100 (fld s.pwr.cfg 0 7))

/-- A half's throttle for heat, any throttle of it, and its duty cap. -/
def heat (s : State) (h : Nat) : Bool := if h = 0 then s.pwr.heatA else s.pwr.heatB
def throttled (s : State) (h : Nat) : Bool := heat s h || s.pwr.capped
def dutyCap (s : State) (h : Nat) : Nat := if h = 0 then s.pwr.capA else s.pwr.capB
def setHeat (h : Nat) (b : Bool) (s : State) : State := onPwr (fun p => if h = 0 then { p with heatA := b } else { p with heatB := b }) s
def setCap (h n : Nat) (s : State) : State :=
  onPwr (fun p => if h = 0 then { p with capA := n, capAt := Tbl.set p.capAt h s.now } else { p with capB := n, capAt := Tbl.set p.capAt h s.now }) s

/-- A temperature as a record or register carries it. -/
def tempWord (t : Int) : Nat := (BitVec.ofInt 32 t).toNat
/-- A sensor's last reading. -/
def tempNow (s : State) (i : Nat) : Int := (Tbl.get ((0 : Int), (0 : Int)) s.pwr.temps i).1

/-- Entry into and exit from throttles recorded: 0x0705 for each half whose throttle changed from `was`. -/
def throttleLog (was : Nat → Bool) (s : State) : State :=
  [0, 1].foldl (fun s h =>
    if throttled s h = was h then s
    else logRec 0x0705 0x0700 h (if throttled s h then 1 else 2) (tempWord (tempNow s h)) (dutyCap s h) (setCap h (dutyCap s h) s)) s

/-- A half's throttle for heat after a reading: entered above THROTTLE, left at 3 °C below. -/
def heatCheck (s : State) (h : Nat) : State :=
  let t := tempNow s h
  let lim : Int := 10 * throttleC s
  if lim < t then setHeat h true s else if t ≤ lim - 30 then setHeat h false s else s

/-- The sensors are read. -/
def execDieSensorRead (temps : List Int) (ddr : List Nat) (cv watts : Nat) (s : State) : Out :=
  if s.boot.state = .off then .next s
  else
    let was := throttled s
    let put := fun (t : Tbl (Int × Int)) (p : Int × Nat) => Tbl.set t p.2 (p.1, max p.1 (Tbl.get ((0 : Int), (0 : Int)) t p.2).2)
    let s := onPwr (fun p => { p with temps := (temps.take 8).zipIdx.foldl put p.temps }) (inputSample cv watts s)
    let s := (ddr.take 12).zipIdx.foldl (fun s x => updChan x.2 (fun k => { k with temp := min 255 x.1 }) s) s
    .next (throttleLog was (heatCheck (heatCheck s 0) 1))

/-- Whether a half's throttle tightens now: the power cap is exceeded, or a die still reads above THROTTLE. -/
def tightens (s : State) (h : Nat) : Bool := s.pwr.capped || (heat s h && decide ((10 * throttleC s : Int) < tempNow s h))

/-- A half's duty cap moves: down 10 ms after its throttle or its last move, up after 100 ms without a throttle. -/
def execThrottleStep (h : Hlf) (s : State) : Out :=
  let c := dutyCap s h
  let since := Tbl.get 0 s.pwr.capAt h
  if tightens s h then
    if since + 10000000 ≤ s.now then .next (setCap h (max 20 (c - 5)) s) else .next s
  else if throttled s h = false ∧ since + 100000000 ≤ s.now then .next (setCap h (min 100 (c + 5)) s)
  else .next s

/-- Input power above CAP over 1 ms. -/
def execPowerCapExceeded (watts : Nat) (s : State) : Out :=
  if s.boot.state = .off ∨ watts ≤ powerCap s then .next s
  else
    let s := onPwr (fun p => { p with watts := watts, overAt := s.now }) s
    if s.pwr.capped then .next s
    else
      let was := throttled s
      .next (throttleLog was (onPwr (fun p => { p with capped := true }) (logRec 0x0708 0x0700 watts (powerCap s) 0 0 s)))

/-- The power has stayed 5 % below CAP for 100 ms. -/
def execPowerCapRelease (s : State) : Out :=
  let was := throttled s
  if s.pwr.capped ∧ s.pwr.overAt + 100000000 ≤ s.now then .next (throttleLog was (onPwr (fun p => { p with capped := false }) s)) else .next s

/-! ### Heat and clocks (R389, R390, R392) -/

/-- Whether a reading trips: a die at 105 °C, the coolant inlet at 50 °C. -/
def trips (i : Fin 8) (reading : Int) : Bool :=
  if i.val = 6 then decide (500 ≤ reading) else decide (i.val < 6) && decide (1050 ≤ reading)

/-- A thermal trip. -/
def execThermalTrip (i : Fin 8) (reading : Int) (s : State) : Out :=
  if s.boot.state = .off ∨ trips i reading = false then .next s
  else .next (powerFail 4 (onPwr (fun p => { p with tripped := true }) (logRec 0x0706 0x0700 i (tempWord reading) 0 0 s)))

/-- Every die reads below 70 °C: start-up is allowed again. -/
def execThermalRestart (s : State) : Out :=
  if s.boot.state = .off then .next (onPwr (fun p => { p with tripped := false }) s) else .next s

/-- The coolant has been out of range for 10 s. -/
def execCoolantWarning (rise : Bool) (inlet outlet : Int) (s : State) : Out :=
  let out := if rise then decide (220 < outlet - inlet) else decide (400 < inlet)
  if s.boot.state = .off ∨ out = false then .next s else .next (logRec 0x0707 0x0700 (if rise then 2 else 1) (tempWord inlet) (tempWord outlet) 0 s)

/-- A clock is lost: the root PLL is fatal, a serialiser PLL retrains the lanes it serves. -/
def execClockLost (b : Fin 7) (s : State) : Out :=
  if s.boot.state = .off then .next s
  else
    let s := onPwr (fun p => { p with locks := p.locks &&& ~~~(BitVec.ofNat 7 (2 ^ b.val)) }) (logRec 0x0709 0x0700 b 0 0 0 s)
    if b.val = 0 then
      let (hpc, s) := drawFree 12 s
      .next (fatal 4 (hpc % 0x100000000) s)
    else if b.val = 6 then .next ((allPairs s).foldl (fun s x => retrainOn x.1 x.2 3 s) s)
    else .next s

/-- A write to PWR_CTL. -/
def execClrExtremes (v : Word) (s : State) : Out :=
  if blockHeld s 0x70014 then .next (heldWrite 0x70014 v s)
  else if bit v 0 then .next (onPwr (fun p => { p with vmax := 0, vmin := 0xFFFF }) s) else .next s

end Sys2Proof.Machine
end

