-- ==== Sys2Proof/Machine/Startup.lean ====
section
/-! DEFINITION. Start-up: the steps of BOOT and CAL, firmware activation, the end of SURVEY (R395 to R405, R413 to R416, R345, R378). -/

namespace Sys2Proof.Machine

def onBoot (f : BootSt → BootSt) (s : State) : State := { s with boot := f s.boot }

/-! ### Step 4: the firmware set (R413 to R416, R419) -/

/-- The parts of this ordering code. -/
def partsHere (s : State) : List Nat := List.range 6 ++ (List.range (planeCount s)).map fun n => 16 + n

/-- A part that the manifest lacks. -/
def missingPart (s : State) (m : Manifest) : Option Nat := (partsHere s).find? fun p => !(m.parts.any fun x => x.part == p)

/-- The parts of a manifest that this ordering code has. -/
def ownParts (s : State) (m : Manifest) : List FwPart := m.parts.filter fun p => (partsHere s).contains p.part

/-- A part whose SHA-512 over the staged bytes is not its entry's. -/
def badDigest (s : State) (m : Manifest) : Option FwPart :=
  (ownParts s m).find? fun p => sha512 (Memory.readN s.upd.staging p.off p.len) != p.digest

/-- The refusal of a staged image, in the order of R413: cause and part, the part that a copy failed for being as the boot ROM finds it. -/
def actRefusal (s : State) (m : Manifest) (f : ImageCheck) : Option (Nat × Nat) :=
  if manifestOk m.raw = false then some (1, 0xFF)
  else if f.sigs = false then some (2, 0xFF)
  else if bits m.devices (if s.idb.deviceL then 0 else 1) 1 = 0 ∨ s.idb.siStep.toNat < m.minStep then some (3, 0xFF)
  else if m.secVer < s.upd.secVer.toNat then some (4, 0xFF)
  else match missingPart s m with
    | some p => some (5, p)
    | none => match badDigest s m with
      | some p => some (6, p.part)
      | none => if f.copyOk = false then some (7, Config.open_ 12 s.freeCtr % 256) else none

/-- The configuration records older than a set's SETTINGS_FMT reset to their defaults (R416). -/
def resetSettings (fmt : Nat) (s : State) : State :=
  let old := s.upd.settingsFmt
  if fmt ≤ old then s
  else
    let s := if s.stew.cfg.isSome then
        let (k, s) := drawFree 12 s
        logRec 0x0A06 0x0A00 (k % 0x100000000) old fmt 0 (onStew (fun w => { w with cfg := none }) s)
      else s
    onUpd (fun t => { t with settingsFmt := fmt }) s

/-- A staged image marked consumed (R414). -/
def consumed (act : Nat) (s : State) : State := onUpd (fun t => { t with staged := none, blocks := [], staging := [], lastAct := act }) s

/-- The bank not in force written, and the selector and SECVER in one write: 0x0A03. -/
def activateSet (m : Manifest) (s : State) : State :=
  let to_ := 1 - s.upd.selector
  let (ms, s) := drawFree 12 s
  let s := onUpd (fun t => { t with
    bank0 := if to_ = 0 then m else t.bank0
    bank1 := if to_ = 0 then t.bank1 else m
    selector := to_
    secVer := BitVec.ofNat 32 m.secVer }) s
  logRec 0x0A03 0x0A00 m.setVer m.secVer to_ (ms % 0x100000000) (resetSettings m.settingsFmt (consumed 1 s))

/-- The staged image, if there is one, activated or refused. -/
def tryStaged (f : ImageCheck) (s : State) : State :=
  match s.upd.staged with
  | none => onUpd (fun t => { t with lastAct := 0 }) s
  | some x =>
    match actRefusal s x.1 f with
    | some (cause, p) =>
      let s := { s with freeCtr := s.freeCtr + 1 }
      logRec 0x0A04 0x0A00 x.1.setVer cause p 0 (consumed (cause + 1) s)
    | none => activateSet x.1 s

/-- The set that runs. -/
def setRun_ (s : State) : Manifest := if bankRun s = 0 then s.upd.bank0 else s.upd.bank1

/-- The identity record (R417): the fields held, then from byte 48 its table of sections, the sections and the signatures. -/
def idRecord (i : IdSt) : List Byte :=
  toBytes 0x54444E49 4 ++ [i.recFormat] ++ toBytes (i.siStep.toNat + 16 * i.assyStep.toNat) 1 ++ toBytes i.vendor.toNat 2
    ++ toBytes (if i.deviceL then 0x3216 else 0x3208) 2 ++ toBytes i.subIds.toNat 4 ++ [0, 0] ++ toBytes i.serial.toNat 8 ++ toBytes i.good.toNat 18
    ++ List.replicate 6 0 ++ i.sections

/-- The set in force loaded: its versions shown, the measured boot log extended and fixed. -/
def loadSet (s : State) : State :=
  let m := setRun_ s
  let parts := ownParts s m
  let log := [(1, s.idb.recFormat.toNat, 0, sha512 (idRecord s.idb)), (2, m.setVer, 0, sha512 m.raw)] ++ (parts.map fun p => (3, p.ver, p.part, p.digest))
    ++ [(4, s.upd.settingsFmt, 0, openBytes s.freeCtr 64)]
  let fw := parts.foldl (fun t p => Tbl.set t p.part (BitVec.ofNat 32 p.ver)) ([] : Tbl Word)
  onUpd (fun t => { t with log := log.take 48 })
    { s with freeCtr := s.freeCtr + 1, idb := { s.idb with setVer := BitVec.ofNat 32 m.setVer, fwVer := fw } }

/-- The bank in force fails: the other bank runs (R415). -/
def fallBack (s : State) : State :=
  let (p, s) := drawFree 12 s
  logRec 0x0A05 0x0A00 s.upd.selector (p % 256) 0 0 (onUpd (fun t => { t with fallback := true }) s)

/-! ### Steps 5 to 7 -/

/-- The good-core map and the fence list taken: ABSENT, FENCED and powered cores (R36). -/
def placeCore (s : State) (g : Nat) : State :=
  if inGood s g = false then updCore g (fun k => { k with state := .absent }) s
  else if inFence s g then updCore g (fun k => { k with state := .fenced, fenceCause := Tbl.get 0 s.idb.fenceList g }) s
  else updCore g (fun k => { k with state := .free }) s

/-- DDR training: devices in service that fail (R399). -/
def trainDdr (bad : List Chan) (s : State) : State :=
  (bad.filter fun (n : Chan) => bit s.ddr.inService n.val).foldl (fun s (n : Chan) => failDevice n.val 1 s) s

/-- Whether training left a layout without a copy of every unit. -/
def ddrLost (s : State) (bad : List Chan) : Bool :=
  let n := ((bad.filter fun (c : Chan) => bit s.ddr.inService c.val).map Fin.val).dedup.length
  decide (2 ≤ n) || (decide (1 ≤ n) && decide (2 ≤ s.ddr.retired))

/-- The DDR dump checked; without a good one the well's newest complete image is decoded (R345). -/
def checkDump (ok : Bool) (s : State) : State :=
  if ok then onRst (fun t => { t with dumpValid := true }) s
  else if s.rst.dumpWell = 1 then
    onRst (fun t => { t with dumpValid := true, dumpSource := true, dumpLen := t.wellDump.length }) (store (dumpBase s) s.rst.wellDump s)
  else onRst (fun t => { t with dumpValid := false }) s

/-- CKPT_STAT.WELL. -/
def wellCode : WellState → Nat
  | .absent => 0 | .formatting => 1 | .ready => 2 | .failed => 3 | .unusable => 4

/-- The well's state changed: 0x090B. -/
def setWell (w : WellState) (s : State) : State :=
  if s.ckpt.well = w then s else logRec 0x090B 0x0904 (wellCode s.ckpt.well) (wellCode w) 0 0 (onCkpt (fun t => { t with well := w }) s)

/-- A torn slot freed (R324). -/
def tornSlot (s : State) (x : Ctx × Bool) : State :=
  let k := slotSt s x.1 x.2
  if k.extents = 0 then s else logRec 0x090C (0x0900 + x.1.val) x.1 (b2n x.2) k.extents 0 (setSlot x.1 x.2 {} s)

/-- A slot recorded WRITING that verifies is COMMITTED; one that holds no extents is EMPTY. -/
def settleSlot (k : Slot_) : Slot_ := if k.state = .writing then (if k.extents = 0 then {} else { k with state := .committed }) else k

/-- The well mounted, formatted if it is blank, and its slots verified (R311, R324). -/
def mountWell (bytes : Nat) (blank : Bool) (torn : List (Ctx × Bool)) (s : State) : State :=
  if bytes = 0 then setWell .absent s
  else if bytes < 1000000000000 then setWell .unusable s
  else if blank then setWell .ready (setWell .formatting (onCkpt (fun t => { t with slots := [], mini := none }) s))
  else
    let s := torn.foldl tornSlot s
    setWell .ready (onCkpt (fun t => { t with slots := t.slots.map fun p => (p.1, settleSlot p.2) }) s)

/-- After MODULE-COLD the newest valid MINI image's logbook is placed ahead of the records since, and its ledger is taken (R325, R378). -/
def loadMini (s : State) : State :=
  match s.boot.warm, s.ckpt.mini with
  | false, some m =>
    let l := s.log
    let new := (List.range l.head.toNat).filterMap fun i => (l.ring.find? fun p => p.1 = i % 65536).map fun p => p.2.2
    let s := { s with log := { l with ring := m.ring, head := m.head, restored := true, queue := new ++ l.queue } }
    let s := onStew (fun w => { w with ledger := m.ledger }) s
    logRec 0x0502 0x0500 (m.head - 1).toNat m.half 0 0 s
  | _, _ => s

/-! ### BOOT (R396, R397) -/

/-- FENCED entered in BOOT; the well is mounted so that an image can be loaded (R404). -/
def bootFenced (cause : Nat) (f : BootFinding) (s : State) : State :=
  enterFenced cause (onHst (fun h => { h with resetting := false }) (mountWell f.wellBytes f.wellBlank f.tornSlots s))

/-- CAL entered. -/
def enterCal (s : State) : State := onBoot (fun b => { b with state := .cal, step := 0 }) s

/-- The work of a BOOT step. -/
def bootStep (n : Nat) (f : BootFinding) (s : State) : State :=
  match n with
  | 1 => { s with steer := { s.steer with slot := s.pins.slotNow } }
  | 2 => if f.identityOk then s else bootFenced 1 f s
  | 3 => onHst (fun h => { h with resetting := false }) s
  | 4 =>
    let s := onUpd (fun t => { t with fallback := false }) (tryStaged f.staged s)
    if f.bankOk then loadSet s
    else
      let s := fallBack s
      if f.otherBankOk then loadSet s else bootFenced 2 f s
  | 5 => (List.range 144).foldl placeCore s
  | 6 => let lost := ddrLost s f.trainFail
         let s := trainDdr f.trainFail s
         if lost then bootFenced 3 f s else s
  | 7 => loadMini (mountWell f.wellBytes f.wellBlank f.tornSlots (checkDump f.dumpOk s))
  | _ => s

/-- What follows a step: PWRFAIL_N holds BOOT (R384), the last step ends it. -/
def afterStep (n : Nat) (s : State) : State :=
  if s.boot.state ≠ .boot then s
  else if s.pwr.pwrfail then
    let s := if s.boot.held then s else logRec 0x0704 0x0700 s.pwr.cv 0 0 0 s
    onBoot (fun b => { b with hold := true, held := true }) s
  else if 8 ≤ n then (if usableCores s < 64 then enterFenced 4 s else enterCal s)
  else s

/-- A BOOT step completes. -/
def execBootStepComplete (f : BootFinding) (s : State) : Out :=
  if s.boot.state ≠ .boot ∨ s.boot.hold ∨ s.pwr.failing.isSome ∨ 8 ≤ s.boot.step then .next s
  else
    let n := s.boot.step + 1
    .next (afterStep n (bootStep n f (onBoot (fun b => { b with step := n }) s)))

/-- PWRFAIL_N has stayed deasserted for 100 ms. -/
def execBootPwrfailRelease (s : State) : Out :=
  if s.boot.state = .boot ∧ s.boot.hold then
    let s := onBoot (fun b => { b with hold := false }) (onPwr (fun p => { p with pwrfail := false }) { s with pins := { s.pins with pwrfailN := false } })
    .next (afterStep s.boot.step s)
  else .next s

/-! ### CAL (R400) -/

/-- A compute comb locked, or FAILED. -/
def calComb (bad : List (Clu × Fin 4)) (c : Nat) (s : State) (slot : Nat) : State :=
  let n := slotComb s c slot
  if bad.any fun x => x.1.val = c ∧ x.2.val = n then
    let s := updComb c n (fun k => { k with state := 4 }) s
    match standby s c with
    | some m =>
      let s := updComb c m (fun k => { k with state := 3 }) s
      logClu c 0x36 slot n m 2 (updClu c (fun k => { k with combMap := handoverMap k.combMap slot m }) s)
    | none => combSlotLost c slot s
  else updComb c n (fun k => { k with state := 3 }) s

/-- A fabric comb in service locked, or its plane's transmit side retired. -/
def calFab (bad : List Plane) (s : State) (p : Nat) : State :=
  if bad.any fun x => x.val = p then planeRetire p s
  else if (fab s p).txRetired then s
  else setComb p (inService s p) { fabComb s p (inService s p) with state := 3, unlocked := false } s

/-- The power-on scrub and self-test of a core. -/
def calScrub (bad : List Core) (s : State) (g : Nat) : State :=
  if (core s g).state ≠ .free then s
  else
    let s := scrubCore g s
    if bad.any fun x => x.val = g then fenceCore g 3 (coreFault g 2 s) else s

/-- At the end of CAL an engine rotates: its first slot begins on row 64, on the identity map, every row calibrated just now (R93, R100). -/
def calEngine (g : Nat) (s : State) (e : Nat) : State :=
  let o := ote s g e
  if o.calState = 0 then
    let rows := (List.range 65).foldl (fun t i => Tbl.upd {} t i fun r => { r with calAt := s.now }) o.rows
    setOte g e (newSlot s.now { o with calState := 1, map := [], bench := 64, ptr := 0, rows := rows }) s
  else s

/-- A row retired during the baseline: its engine FAILED, its core fenced with cause OTE (R98). -/
def calRowFail (s : State) (x : Core × Eng × Fin 65) : State :=
  let g := x.1.val
  if (core s g).state ≠ .free ∨ (ote s x.1.val x.2.1.val).calState = 3 then s
  else
    let e := x.2.1.val
    let o := ote s g e
    let r := Tbl.get {} o.rows x.2.2.val
    let s := setOte g e { o with rows := Tbl.set o.rows x.2.2.val { r with retired := true }, calState := 3 } s
    fenceCore g 4 (coreFault g 3 (logCore g 0x31 e x.2.2.val 0 0 s))

/-- SURVEY entered: every plane that is not ABSENT is surveyed; a designated steward becomes a candidate (R401). -/
def enterSurvey (s : State) : State :=
  startSurvey ((List.range (planeCount s)).filter fun p => (gaz s p).state ≠ 4) none (roleAfter (onBoot (fun b => { b with state := .survey, step := 0, reported := false }) s))

/-- The work of a CAL step. -/
def calStep (n : Nat) (f : CalFinding) (s : State) : State :=
  match n with
  | 2 =>
    let s := (List.range 16).foldl (fun s c => (List.range 3).foldl (calComb f.combs c) s) s
    let s := (List.range (planeCount s)).foldl (calFab f.fabCombs) s
    (List.range 144).foldl (calScrub f.selftest) s
  | 3 => f.engines.foldl calRowFail s
  | 4 =>
    let s := f.powers.foldl (fun s x => combPower x.1.val x.2.1.val x.2.2.1 x.2.2.2.1 x.2.2.2.2 s) s
    let s := (List.range (planeCount s)).foldl (fun s p => combThresholds p s) s
    enterSurvey (((List.range 144).filter fun g => (core s g).state = .free).foldl (fun s g => (List.range 4).foldl (calEngine g) s) s)
  | _ => s

/-- A CAL step completes; with fewer than 64 usable cores left the module is FENCED. -/
def execCalStepComplete (f : CalFinding) (s : State) : Out :=
  if s.boot.state ≠ .cal ∨ s.pwr.failing.isSome then .next s
  else
    let n := s.boot.step + 1
    let s := calStep n f (onBoot (fun b => { b with step := n }) s)
    .next (if s.boot.state = .cal ∧ usableCores s < 64 then enterFenced 4 s else s)

/-! ### SURVEY (R401) -/

/-- 2 s after the survey report no chart has come. -/
def execSurveyWaitTimeout (s : State) : Out :=
  if s.boot.state = .survey ∧ s.boot.reported ∧ s.boot.reportAt + 2000000000 ≤ s.now ∧ s.steer.staged = [] ∧ s.steer.state ≠ .applying then
    .next (leaveSurvey s)
  else .next s

end Sys2Proof.Machine
end

