-- ==== Sys2Proof/Machine/Pins.lean ====
section
/-! DEFINITION. The external inputs, removal, the faceplate's ports and LEDs, the control port and the sideband (R428 to R441). -/

namespace Sys2Proof.Machine

def onPins (f : PinSt → PinSt) (s : State) : State := { s with pins := f s.pins }

/-! ### External inputs (R430) -/

/-- PWRFAIL_N asserted, or counted as asserted for toggling: BOOT holds at the end of its step (R384), every other state starts the
power-fail action (R383). -/
def execPwrfailNAssert (toggling : Bool) (edges : Nat) (cv watts : Nat) (s : State) : Out :=
  let s := onPins (fun p => { p with pwrfailN := true }) s
  if s.boot.state = .off then .next (onPwr (fun p => { p with pwrfail := true }) s)
  else
    let s := inputSample cv watts (onPwr (fun p => { p with pwrfail := true }) s)
    let s := if toggling ∧ 2 < edges then logRec 0x4006 0x4000 edges 0 0 0 s else s
    if s.boot.state = .boot then .next s else .next (powerFail 1 s)

/-- ATTN_COUNT: an assertion not posted. -/
def attnCounted (s : State) : State := onPins (fun p => { p with attnCount := satAdd 255 p.attnCount 1 }) s

/-- An assertion of RACK_ATTN_N: event 0x4040 at most once per 10 ms; the others, and those that ATTN_EN 0 keeps back, are counted. -/
def execRackAttn (s : State) : Out :=
  let s := onPins (fun p => { p with attnOn := s.now }) s
  let p := s.pins
  if s.boot.state = .off ∨ p.attnMasked then .next s
  else if bit p.ctlCfg 0 = false ∨ (p.attnAt ≠ 0 ∧ s.now < p.attnAt - 1 + 10000000) then .next (attnCounted s)
  else .next (postEvent 0x4040 0x4000 none p.attnCount 0 0 0 (onPins (fun p => { p with attnAt := s.now + 1 }) s))

/-- RACK_ATTN_N masked after 1 s active, unmasked after 1 s inactive. -/
def execRackAttnMask (masked : Bool) (s : State) : Out :=
  if s.pins.attnMasked = masked ∨ (masked = true ∧ s.now < s.pins.attnOn + 1000000000) then .next s
  else
    let s := onPins (fun p => { p with attnMasked := masked }) s
    if s.boot.state = .off then .next s else .next (logRec 0x4003 0x4000 (if masked then 1 else 2) s.pins.attnCount 0 0 s)

/-- PERST_N asserted: a reset of the host interface with logged cause 3. -/
def execPerstN (s : State) : Out :=
  let s := onPins (fun p => { p with perst := true }) s
  if s.boot.state = .off then .next s else .next (hostReset 3 s)

/-- SLOT_ID pins change: before they are latched the new value is latched at step 1 of BOOT, later it is ignored and logged. -/
def execSlotIdChange (v : Fin 32) (s : State) : Out :=
  let s := onPins (fun p => { p with slotNow := v.val }) s
  if s.boot.state = .off ∨ (s.boot.state = .boot ∧ s.boot.step = 0) then .next s
  else .next (logRec 0x4002 0x4000 (me s) v 0 0 (onPins (fun p => { p with slotChanged := v.val != me s }) s))

/-! ### Removal (R439) -/

/-- The lever opened: removal requested and reported to the active steward; SAFE at once where its conditions hold. -/
def execEjectorOpen (s : State) : Out :=
  let s := onPins (fun p => { p with ejectOpen := true }) s
  if s.boot.state = .off ∨ s.pins.remove ≠ .none_ then .next s
  else .next (removeCheck (report (recWords 0x4004 0x4000 0 1 (ctxMask s) 0) (setRemove .requested s)))

/-- The lever closed. -/
def execEjectorClose (s : State) : Out :=
  let s := onPins (fun p => { p with ejectOpen := false }) s
  if s.boot.state = .off ∨ s.pins.remove = .none_ then .next s else .next (setRemove .none_ s)

/-! ### Faceplate ports (R434, R440) -/

def eth (s : State) (p : Nat) : EthPort := Tbl.get {} s.eth p
def setEth (p : Nat) (k : EthPort) (s : State) : State := { s with eth := Tbl.set s.eth p k }

/-- ETH_PORT_STAT.STATE. -/
def ethCode : EthState → Nat
  | .disabled => 0 | .noModule => 1 | .down => 2 | .up => 3 | .draining => 4

/-- A port moved to a state: 0x3001 where it changes. -/
def ethMove (p : Nat) (to_ : EthState) (s : State) : State :=
  let k := eth s p
  if k.state = to_ then s
  else logRec 0x3001 (0x3000 + p) p (ethCode k.state) (ethCode to_) 0 (setEth p { k with state := to_ } s)

/-- A port put in service: by its module and its FEC lock. -/
def ethOn (p : Nat) (s : State) : State :=
  let k := eth s p
  ethMove p (if k.present = false then .noModule else if k.fecLock then .up else .down) (setEth p { k with pending := false } s)

/-- ENABLE 1 in effect (R210). -/
def ethEnable (p : Nat) (s : State) : State :=
  let k := { eth s p with ctl := orBit (eth s p).ctl 31 }
  match k.state with
  | .disabled => ethOn p (setEth p k s)
  | .draining => setEth p { k with pending := true } s
  | _ => setEth p k s

/-- ENABLE 0 in effect: a port that carries traffic drains. -/
def ethDisable (p : Nat) (s : State) : State :=
  let k := { eth s p with ctl := (eth s p).ctl &&& ~~~(0x80000000 : Word) }
  match k.state with
  | .up => ethMove p .draining (setEth p k s)
  | .draining => setEth p { k with pending := false } s
  | _ => ethMove p .disabled (setEth p k s)

/-- Offset of a port's register. -/
def ethOff (p off : Nat) : Nat := 0x300100 + 0x40 * p + off

/-- ENABLE of ETH_PORT_CTL_p set. -/
def execEthPortEnable (p : Fin 4) (s : State) : Out :=
  if blockHeld s (ethOff p 0) then .next (heldWrite (ethOff p 0) (orBit (eth s p).ctl 31) s) else .next (ethEnable p s)

/-- ENABLE of ETH_PORT_CTL_p cleared. -/
def execEthPortDisable (p : Fin 4) (s : State) : Out :=
  if blockHeld s (ethOff p 0) then .next (heldWrite (ethOff p 0) ((eth s p).ctl &&& 0x7FFFFFFF) s) else .next (ethDisable p s)

/-- The last frame in flight is sent: the transmitters are disabled, and a pending enable takes effect. -/
def execEthPortDrainEnd (p : Fin 4) (s : State) : Out :=
  let k := eth s p
  if k.state ≠ .draining then .next s
  else
    let s := ethMove p .disabled (setEth p { k with pending := false } s)
    .next (if k.pending then ethOn p s else s)

/-- An OSFP module: 0 inserted, 1 removed, 2 CMIS fault. -/
def execOsfpModuleChange (p : Fin 4) (what : Fin 3) (powerClass : Nat) (s : State) : Out :=
  let k := eth s p
  let k := if what.val = 0 then { k with present := true } else if what.val = 1 then { k with present := false, fecLock := false } else k
  let s := setEth p k s
  if s.boot.state = .off then .next s
  else
    let s := logRec 0x3002 (0x3000 + p) p (what + 1) powerClass 0 s
    match k.state with
    | .disabled => .next s
    | .draining => .next s
    | _ => .next (ethOn p s)

/-- A frame discarded and counted: 0x3003 at most once per s. -/
def ethDrop (p : Nat) (s : State) : State :=
  let n := incSat (eth s p).drop 1
  logRate (0x3003 * 4096 + p) 1000000000 0x3003 (0x3000 + p) p n.toNat 0 0 (setEth p { eth s p with drop := n } s)

/-- A frame on a port (R434), FCS included, with the codewords that the FEC has corrected and given up since the last one: one that arrives
shows the port's FEC locked; a bad, short or long one, or a PAUSE frame, is discarded and counted; a PFC frame holds back or releases the
priorities that PFC_RX honours; any other is taken for the front end with the priority of its tag. -/
def execEthernetFrame (p : Fin 4) (frame : List Byte) (ce ue : Nat) (s : State) : Out :=
  let k := eth s p
  if k.state = .disabled ∨ k.present = false ∨ blockHeld s (ethOff p 0) then .next s
  else
    let s := setEth p { k with fecLock := true, feCe := incSat k.feCe ce, feUe := incSat k.feUe ue } s
    let s := if k.state = .draining then s else ethMove p .up s
    let k := eth s p
    if frame.length < 64 ∨ 9216 < frame.length ∨ fcsGood frame = false then .next (ethDrop p s)
    else match macControl frame with
      | some 0x0101 => .next (setEth p { k with pfcHeld := pfcAfter (BitVec.ofNat 8 (fld k.ctl 8 8)) k.pfcHeld frame } s)
      | some 1 => .next (ethDrop p s)
      | _ => .next (setEth p { k with rx := k.rx ++ [(framePrio frame, frame)] } s)

/-! ### The control port and the LEDs (R435, R437) -/

/-- The MAC address of the control port (0) and of cage p (p + 1). -/
def macOf (s : State) (i : Nat) : BitVec 48 := s.idb.mac + BitVec.ofNat 48 i

/-- An IPv6 link-local address by modified EUI-64. -/
def linkLocal (mac : BitVec 48) : BitVec 128 :=
  let m := mac.toNat
  BitVec.ofNat 128 (0xFE80 * 2 ^ 112 + (((m / 2 ^ 24) ^^^ 0x020000) * 2 ^ 16 + 0xFFFE) * 2 ^ 24 + m % 2 ^ 24)

/-- The control port's address: ADDR[SLOT_ID] of the pod configuration held, else its link-local one. -/
def controlAddress (s : State) : BitVec 128 := match s.stew.cfg with
  | some c => c.addrs.getD (me s) 0
  | none => linkLocal (macOf s 0)

/-- The control port's link: 0 down, 1 1000BASE-T, 2 10GBASE-T. -/
def execControlLinkChange (link : Fin 3) (s : State) : Out :=
  if s.pins.link = link.val then .next s
  else
    let s := onPins (fun p => { p with link := link.val }) s
    if s.boot.state = .off then .next s else .next (logRec 0x4001 0x4000 link 0 0 0 s)

/-- A write to CTL_LED in effect. -/
def execLocate (v : Word) (s : State) : Out :=
  if blockHeld s 0x40000C then .next (heldWrite 0x40000C v s) else .next (onPins (fun p => { p with led := v &&& 1 }) s)

/-- Colours of an LED. -/
inductive Led
  | off | amber | amberBlink | amberFast | green | greenBlink | blue | blueBlink | white
  deriving DecidableEq, Repr

/-- STATE. -/
def ledState (s : State) : Led :=
  match s.boot.state with
  | .off => .off | .fenced => .amberBlink | .degraded => .amber | .ready => .green | _ => .greenBlink

/-- FABRIC. -/
def ledFabric (s : State) : Led :=
  let charted := (allPairs s).filter fun x => (pair s x.1 x.2).assigned
  let any := fun (st : PairState) => charted.any fun x => (pair s x.1 x.2).state == st
  if s.steer.state = .uncharted ∨ s.steer.state = .excluded then .off
  else if any .down || s.fab.any (fun p => p.2.txRetired) then .amber
  else if any .train || any .retrain then .greenBlink
  else .green

/-- ROLE. -/
def ledRole (s : State) : Led :=
  if s.stew.role = 5 then .blue
  else match s.stew.cfg with
    | some c => if c.standby.toNat = me s ∨ c.active.toNat = me s then .blueBlink else if c.arbiter.toNat = me s then .white else .off
    | none => .off

/-- SERVICE. -/
def ledService (s : State) : Led :=
  match s.pins.remove with
  | .safe => .blue
  | .requested => .blueBlink
  | .none_ => if bit s.pins.led 0 then .amberFast else .off

/-! ### Sideband (R438) -/

/-- Whether the sideband is served: the module has power and no power-fail action runs. -/
def sideUp (s : State) : Bool := s.boot.state != .off && s.pwr.failing.isNone

/-- Whether PLDM commands complete with ERROR_NOT_READY: a MODULE-WARM reset, and BOOT before step 5 has ended. -/
def pldmBusy (s : State) : Bool :=
  (s.rst.runs.any fun x => x.kind == 6) || (s.boot.state == .boot && (decide (s.boot.step < 5) || s.boot.warm))

/-- SB_ALERT_N released: the controller has been served. -/
def served (s : State) : State := { s with side := { s.side with alert := false } }

/-- An MCTP control response: command, completion code, data. -/
def mctpReply (cmd code : Nat) (data : List Nat) (s : State) : State := send .pldm 0 (cmd :: code :: data) (served s)

/-- A PLDM response: type, command, completion code, data; ERROR_NOT_READY (4) while the module is not ready. -/
def pldmReply (type_ cmd code : Nat) (data : List Nat) (s : State) : State :=
  if sideUp s = false then s
  else send .pldm 1 (if pldmBusy s then [type_, cmd, 4] else type_ :: cmd :: code :: data) (served s)

/-- Set Endpoint ID: the null and broadcast EIDs are refused (2). -/
def execSetEndpointId (eid : Byte) (i3c : Bool) (s : State) : Out :=
  if sideUp s = false then .next s
  else if eid = 0 ∨ eid = 0xFF then .next (mctpReply 1 2 [] s)
  else
    .next (mctpReply 1 0 [0, eid.toNat, 0]
      (logRec 0x4005 0x4000 eid.toNat (if i3c then 2 else 1) 0 0 { s with side := { s.side with eid := eid, i3c := i3c } }))

/-- Get Endpoint ID. -/
def execGetEndpointId (s : State) : Out := if sideUp s then .next (mctpReply 2 0 [s.side.eid.toNat, 0, 0] s) else .next s

/-- Get MCTP Version Support: base specification and control protocol 1.3; PLDM's own version is not stated. -/
def execGetMctpVersionSupport (mtype : Byte) (s : State) : Out :=
  if sideUp s = false then .next s
  else if mtype = 0xFF ∨ mtype = 0 then .next (mctpReply 4 0 [1, 0xF1F3FF00] s)
  else if mtype = 1 then
    let x := drawFree 12 s
    .next (mctpReply 4 0 [1, x.1 % 0x100000000] x.2)
  else .next (mctpReply 4 0x80 [] s)

/-- Get Message Type Support: PLDM and vendor defined, PCI. -/
def execGetMessageTypeSupport (s : State) : Out := if sideUp s then .next (mctpReply 5 0 [2, 1, 0x7E] s) else .next s

/-- Get Vendor Defined Message Support: one set, by PCI Vendor ID. -/
def execGetVendorDefinedMessageSupport (ix : Byte) (s : State) : Out :=
  if sideUp s = false then .next s
  else if ix = 0 then .next (mctpReply 6 0 [0xFF, 0, s.idb.vendor.toNat, 0] s)
  else .next (mctpReply 6 2 [] s)

/-- GetTID. -/
def execGetTid (s : State) : Out := .next (pldmReply 0 2 0 [s.side.tid.toNat] s)

/-- SetTID: 0x00 and 0xFF are refused (2). -/
def execSetTid (tid : Byte) (s : State) : Out :=
  if sideUp s = false ∨ pldmBusy s then .next (pldmReply 0 1 0 [] s)
  else if tid = 0 ∨ tid = 0xFF then .next (pldmReply 0 1 2 [] s)
  else .next (pldmReply 0 1 0 [] { s with side := { s.side with tid := tid } })

/-- The PLDM types supported. -/
def pldmTypes : List Nat := [0, 2, 4]

/-- GetPLDMVersion: the version of a supported type is not stated. -/
def execGetPldmVersion (ptype : Byte) (s : State) : Out :=
  if pldmTypes.contains ptype.toNat then
    let x := drawFree 12 s
    .next (pldmReply 0 3 0 [x.1 % 0x100000000] x.2)
  else .next (pldmReply 0 3 0x83 [] s)

/-- GetPLDMTypes: the types as a mask. -/
def execGetPldmTypes (s : State) : Out := .next (pldmReply 0 4 0 [0x15] s)

/-- The commands of a type as a mask. -/
def pldmCommands (t : Nat) : Nat :=
  if t = 0 then 0x3E else if t = 2 then 2 ^ 0x51 + 2 ^ 0x11 + 2 ^ 0x21 else if t = 4 then 6 else 0

/-- GetPLDMCommands. -/
def execGetPldmCommands (ptype : Byte) (s : State) : Out :=
  if pldmTypes.contains ptype.toNat then .next (pldmReply 0 5 0 [pldmCommands ptype.toNat] s) else .next (pldmReply 0 5 0x83 [] s)

/-- GetPDR: records 1 to 10 describe the numeric sensors, 11 and 12 the state sensors; handle 0 names the first. Answered: the next handle,
this handle, its PDR type, its sensor, and a word for what the record holds beyond that. -/
def execGetPdr (handle : Word) (s : State) : Out :=
  let h := if handle = 0 then 1 else handle.toNat
  if 12 < h then .next (pldmReply 2 0x51 0x82 [] s)
  else
    let x := drawFree 12 s
    .next (pldmReply 2 0x51 0 [if h = 12 then 0 else h + 1, h, if h ≤ 10 then 2 else 4, h, x.1] x.2)

/-- A numeric sensor: 1 to 8 PWR_TEMP_s, 9 the input voltage, 10 the input power. -/
def sensorValue (s : State) (n : Nat) : Option Nat :=
  if 1 ≤ n ∧ n ≤ 8 then some (tempWord (tempNow s (n - 1))) else if n = 9 then some s.pwr.cv else if n = 10 then some s.pwr.watts else none

/-- GetSensorReading. -/
def execGetSensorReading (sensor : Nat) (s : State) : Out :=
  match sensorValue s sensor with
  | some v => .next (pldmReply 2 0x11 0 [v] s)
  | none => .next (pldmReply 2 0x11 0x80 [] s)

/-- GetStateSensorReadings: 11 the start-up state, 12 the removal state. -/
def execGetStateSensorReadings (sensor : Nat) (s : State) : Out :=
  if sensor = 11 then .next (pldmReply 2 0x21 0 [1, bootCode s.boot.state] s)
  else if sensor = 12 then .next (pldmReply 2 0x21 0 [1, removeCode s.pins.remove] s)
  else .next (pldmReply 2 0x21 0x80 [] s)

/-- GetFRURecordTableMetadata: the table's size and sums are not stated. -/
def execGetFruRecordTableMetadata (s : State) : Out :=
  let x := drawFree 12 s
  .next (pldmReply 4 1 0 [x.1] x.2)

/-- GetFRURecordTable: identity record fields; their encoding is not stated. -/
def execGetFruRecordTable (s : State) : Out :=
  let x := drawFree 12 s
  let i := s.idb
  .next (pldmReply 4 2 0 [i.vendor.toNat, if i.deviceL then 0x3216 else 0x3208, i.serial.toNat, i.siStep.toNat, i.assyStep.toNat, x.1] x.2)

/-- An attestation request on the sideband (R420): the report over its nonce. -/
def execSidebandAttest (nonce : List Byte) (s : State) : Out :=
  if sideUp s = false then .next s
  else
    let x := attestation nonce s
    .next (logRec 0x0A07 0x0A00 2 (ofBytes (nonce.take 4)) x.1.length 0 (send .pldm 0x7E (x.1.map BitVec.toNat) x.2))

end Sys2Proof.Machine
end

