-- ==== Sys2Proof/Machine/Vector.lean ====
section
/-! DEFINITION. The VECTOR instructions (R118, R134 to R146): issue checks, and the results at completion. -/

namespace Sys2Proof.Machine

/-- An operand of a VECTOR instruction: base offset, format, rows and elements per row. -/
structure VOp where
  base : DWord
  fmt : Nat
  rows : Nat
  n : Nat

def VOp.size (o : VOp) : Nat := o.rows * rowBytes o.fmt o.n

/-- The fields of a VECTOR instruction with its register operands (R118). -/
structure VIns where
  opc : Nat
  n : Nat
  nBit : Nat
  func : Nat
  rnd : Nat
  glen : Nat
  mm : Nat
  nn : Nat
  kk : Nat
  d : VOp
  srcs : List (Nat × VOp)    -- naming field's format bit, operand

/-- The instruction of a word under a register file. -/
def vIns (t : Tbl DWord) (w : IWord) : VIns :=
  let opc := fld w 0 8
  let reg := fun i => sreg t (fld w i 4)
  let nr := fld w 24 4
  let n := if nr = 0 then fld w 28 24 else (sreg t nr).toNat
  let fa := fld w 52 4
  let fb := fld w 56 4
  let fd := fld w 60 4
  let glen := fld w 72 24
  let mm := fld w 72 12 + 1
  let nn := fld w 84 12 + 1
  let kk := fld w 96 12 + 1
  let d : VOp :=
    if opc = 0x43 then ⟨reg 8, fd, 1, n / glen⟩ else if opc = 0x45 then ⟨reg 8, fd, mm, nn⟩ else ⟨reg 8, fd, 1, n⟩
  let a : Nat × VOp := (52, if opc = 0x45 then ⟨reg 12, fa, mm, kk⟩ else ⟨reg 12, fa, 1, n⟩)
  let b : Nat × VOp := (56, if opc = 0x45 then ⟨reg 16, fb, kk, nn⟩ else ⟨reg 16, fb, 1, n⟩)
  let c : Nat × VOp := (56, ⟨reg 20, fb, 1, n⟩)
  let srcs := if opc = 0x40 ∨ opc = 0x45 then [a, b] else if opc = 0x41 then [a, b, c] else [a]
  ⟨opc, n, if nr = 0 then 28 else 24, fld w 64 4, fld w 68 2, glen, mm, nn, kk, d, srcs⟩

/-- Whether R136 lists the formats of an instruction; the bit position of the first that breaks the combination. -/
def fmtBad (i : VIns) (fa fb fd : Nat) : Option Nat :=
  if 12 ≤ fa then some 52
  else match i.opc with
    | 0x40 | 0x41 =>
      if 12 ≤ fb ∨ isF fa ≠ isF fb then some 56 else if 12 ≤ fd ∨ isF fd ≠ isF fa then some 60 else none
    | 0x42 =>
      if isI fa ∧ i.func ≠ 6 ∧ i.func ≠ 7 then some 52 else if 12 ≤ fd ∨ isF fd ≠ isF fa then some 60 else none
    | 0x43 => if 12 ≤ fd ∨ (isF fa ∧ ¬ isF fd) ∨ (isI fa ∧ fd ≠ 5) then some 60 else none
    | 0x44 => if 12 ≤ fd then some 60 else none
    | _ =>
      let narrow := fun f => f == 2 || f == 3 || isMx f
      if ¬ (narrow fa ∨ fa = 4 ∨ fa = 1 ∨ fa = 0) then some 52
      else if ¬ ((narrow fa ∧ narrow fb) ∨ (¬ narrow fa ∧ fa = fb)) then some 56
      else if 12 ≤ fd ∨ fd = 4 ∨ (fd = 5 ∧ fa ≠ 4) then some 60
      else none

/-- Largest defined FUNC of an instruction (R118). -/
def funcMax (opc : Nat) : Nat :=
  match opc with
  | 0x40 => 4 | 0x42 => 7 | 0x43 => 2 | 0x45 => 1 | _ => 0

/-- Whether two byte ranges overlap without coinciding exactly. -/
def badOverlap (a n b m : Nat) : Bool :=
  decide (a < b + m ∧ b < a + n) && !(a == b && n == m)

/-- The lowest bit position of a breach of the instruction's own fields (R118, R136), in the order of R127. -/
def vOperandBad (i : VIns) (fb : Nat) : Option Nat :=
  let fa := (i.srcs.headD (0, ⟨0, 0, 0, 0⟩)).2.fmt
  let lap := (fmtBad i fa fb i.d.fmt).isNone
    && i.srcs.any fun p => badOverlap i.d.base.toNat i.d.size p.2.base.toNat p.2.size
  let mxBad := (i.srcs ++ [((60, i.d) : Nat × VOp)]).find? fun (p : Nat × VOp) => isMx p.2.fmt && p.2.n % 32 ≠ 0
  let fm := fmtBad i fa fb i.d.fmt
  if lap then some 8
  else if i.opc ≠ 0x45 ∧ (i.n = 0 ∨ 16777215 < i.n) then some i.nBit
  else match fm, mxBad with
    | some b, some p => some (min b p.1)
    | some b, none => some b
    | none, some p => some p.1
    | none, none =>
      if funcMax i.opc < i.func then some 64
      else if 2 ≤ i.rnd ∨ (i.rnd = 1 ∧ isI i.d.fmt) then some 68
      else if i.opc = 0x43 ∧ (i.glen = 0 ∨ i.n % i.glen ≠ 0) then some 72
      else none

/-- The first operand, in the order D, A, B, C, that leaves core SRAM (R110, R118). -/
def vAddressBad (i : VIns) : Option Nat :=
  ((i.d :: i.srcs.map Prod.snd).find? fun o => decide (0x1000000 < o.base.toNat + o.size)).map fun o => o.base.toNat

/-- A VECTOR instruction's issue: checks, then the instruction is outstanding, and with RND = 1 s15 takes the number
of destination elements (R140). -/
def issueVector (opc g st : Nat) (s : State) : State :=
  front opc g st s fun r w =>
    let i := vIns r.sregs w
    match vOperandBad i (fld w 56 4) with
    | some b => strFault g st 4 b true opc r.pc s
    | none => match vAddressBad i with
      | some a => strFault g st 6 a true opc r.pc s
      | none =>
        let op := longOp s g r w
        updStrm g st (fun r =>
          let r := { r with outst := r.outst ++ [op] }
          if i.rnd = 1 then setSreg 15 (sreg r.sregs 15 + BitVec.ofNat 64 (i.d.rows * i.d.n)) r else r) (issued g st s)

/-- VEW (R118, R137). -/
def execVew (g : Core) (st : Str) (s : State) : Out := .next (issueVector 0x40 g st s)
/-- VFMA (R118, R137). -/
def execVfma (g : Core) (st : Str) (s : State) : Out := .next (issueVector 0x41 g st s)
/-- VUN (R118, R137). -/
def execVun (g : Core) (st : Str) (s : State) : Out := .next (issueVector 0x42 g st s)
/-- VRED (R118, R144). -/
def execVred (g : Core) (st : Str) (s : State) : Out := .next (issueVector 0x43 g st s)
/-- VCVT (R118, R143). -/
def execVcvt (g : Core) (st : Str) (s : State) : Out := .next (issueVector 0x44 g st s)
/-- VMM (R118, R145). -/
def execVmm (g : Core) (st : Str) (s : State) : Out := .next (issueVector 0x45 g st s)

/-! ### Results -/

/-- A flagged result with more flags. -/
def withFlags (f : BitVec 6) (x : Flagged) : Flagged := (x.1, x.2 ||| f)

/-- An operand value as it is used: in F widened to FP32, in I as it is (R137). -/
def usedVal (fmt : Nat) (v : Val) : Flagged := if isI fmt then (v, 0) else withFlags (nanIn [v]) (widen v)

/-- The operands of element `j`. -/
def vOperands (m : Memory) (g : Nat) (i : VIns) (j : Nat) : List Val × BitVec 6 :=
  let ws := i.srcs.map fun p => usedVal p.2.fmt (readElem m (sramKey g p.2.base.toNat) p.2.fmt p.2.n j)
  (ws.map Prod.fst, ws.foldl (fun a p => a ||| p.2) 0)

/-- Result element `j` of an elementwise instruction. -/
def elementwise (m : Memory) (g : Nat) (i : VIns) (j : Nat) : Flagged :=
  let o := vOperands m g i j
  let a := o.1.headD .nan
  let b := (o.1.drop 1).headD .nan
  let c := (o.1.drop 2).headD .nan
  withFlags o.2 (match i.opc with
    | 0x40 => vewFn i.func a b
    | 0x41 =>
      let p := mulExact a b
      withFlags p.2 (addExact p.1 c)
    | 0x42 => vunFn i.func a
    | _ => (a, 0))

/-- The integer of an exact value. -/
def valInt : Val → Int
  | .fin n m e => if n then -(shiftZ m e : Int) else shiftZ m e
  | _ => 0

/-- Result group `j` of a VRED (R144). -/
def reduceGroup (m : Memory) (g : Nat) (i : VIns) (j : Nat) : Flagged :=
  match i.srcs with
  | [] => (.nan, 0)
  | (_, o) :: _ =>
    let vs := (List.range i.glen).map fun t => readElem m (sramKey g o.base.toNat) o.fmt o.n (j * i.glen + t)
    if isI o.fmt then
      let xs := vs.map valInt
      (ofInt (match i.func with
        | 0 => xs.foldl (· + ·) 0
        | 1 => xs.max?.getD 0
        | _ => xs.foldl (fun a x => a + x * x) 0) 0, 0)
    else
      let ws := vs.map widen
      withFlags (nanIn vs) (match i.func with
        | 1 => ws.tail.foldl (fun a p => (maxVal a.1 p.1, a.2 ||| p.2)) (ws.headD (.nan, 0))
        | 0 => runSum (.fin false 0 0, 0) ws
        | _ => runSum (.fin false 0 0, 0) (ws.map fun p =>
            let q := roundFp fp32 false .rne (mulExact p.1 p.1).1
            (q.1, p.2 ||| q.2)))

/-- Result element (row `y`, column `x`) of a VMM (R145). -/
def matElem (m : Memory) (g : Nat) (i : VIns) (y x : Nat) : Flagged :=
  match i.srcs with
  | (_, a) :: (_, b) :: _ =>
    let av := fun k => readElem m (sramKey g a.base.toNat + y * rowBytes a.fmt a.n) a.fmt a.n k
    let bv := fun k => readElem m (sramKey g b.base.toNat + k * rowBytes b.fmt b.n) b.fmt b.n x
    let dv := usedVal i.d.fmt (readElem m (sramKey g i.d.base.toNat + y * rowBytes i.d.fmt i.d.n) i.d.fmt i.d.n x)
    if a.fmt = 4 then
      let sum := (List.range i.kk).foldl (fun t k => t + valInt (av k) * valInt (bv k)) 0
      if i.func = 1 then withFlags dv.2 (addExact dv.1 (ofInt sum 0)) else (ofInt sum 0, 0)
    else
      let ps := (List.range i.kk).map fun k =>
        let p := mulExact (av k) (bv k)
        let r := roundFp fp32 false .rne p.1
        (r.1, nanIn [av k, bv k] ||| p.2 ||| r.2)
      runSum (if i.func = 1 then dv else (.fin false 0 0, 0)) ps
  | _ => (.nan, 0)

/-- Number of result elements of an instruction. -/
def resultCount (i : VIns) : Nat := i.d.rows * i.d.n

/-- Result `j`, in row-major order. -/
def vResult (m : Memory) (g : Nat) (i : VIns) (j : Nat) : Flagged :=
  match i.opc with
  | 0x43 => reduceGroup m g i j
  | 0x45 => matElem m g i (j / i.nn) (j % i.nn)
  | _ => elementwise m g i j

/-- The operands that an instruction reads: its sources, and with FUNC 1 of a VMM the destination (R145). -/
def readOps (i : VIns) : List VOp := i.srcs.map Prod.snd ++ (if i.opc = 0x45 ∧ i.func = 1 then [i.d] else [])

/-- The byte ranges (offset, length) that result `j` reads of an operand. -/
def readsOf (i : VIns) (o : VOp) (which j : Nat) : List (Nat × Nat) :=
  let elem := fun row k =>
    let p := elemAt o.fmt o.n k
    let b := o.base.toNat + row * rowBytes o.fmt o.n
    [(b + p.1, (p.2.1 + elemBits o.fmt + 7) / 8)] ++ (if isMx o.fmt then [(b + p.2.2, 1)] else [])
  match i.opc with
  | 0x43 => (List.range i.glen).flatMap fun t => elem 0 (j * i.glen + t)
  | 0x45 =>
    if which = 0 then (List.range i.kk).flatMap fun k => elem (j / i.nn) k
    else if which = 2 then elem (j / i.nn) (j % i.nn)
    else (List.range i.kk).flatMap fun k => elem k (j % i.nn)
  | _ => elem 0 j

/-- The lines of a core's SRAM that read as uncorrectable, with one just found. -/
def badLines (s : State) (g : Nat) (ecc : Ecc) : List Nat :=
  (core s g).ueLines ++ (match ecc with
    | .double off => [off / 128 * 128]
    | _ => [])

/-- The first result that reads one of the lines, with the line (R128). -/
def firstBad (i : VIns) (lines : List Nat) : Option (Nat × Nat) :=
  if lines.isEmpty then none
  else (List.range (resultCount i)).findSome? fun j =>
    ((readOps i).zipIdx.flatMap fun p => readsOf i p.1 p.2 j).findSome? fun r =>
      (lines.find? fun l => r.1 < l + 128 ∧ l < r.1 + r.2).map fun l => (j, l)

/-- The rounding of each result element (R138, R139). -/
def rndOf (s : State) (op : LongOp) (i : VIns) (j : Nat) : Rnd :=
  if i.rnd = 1 then .sto (stoDraw (ctx s op.ctx.val).seed op.vcore (sreg op.sregs 15) j) else .rne

/-- The first `n` results written, row by row; an MX destination only whole blocks of 32 (R128). With the flags each
result raised. -/
def writeResults (s : State) (op : LongOp) (g : Nat) (i : VIns) (n : Nat) : State × List (BitVec 6) :=
  let n := if isMx i.d.fmt then n / 32 * 32 else n
  let vs := (List.range n).map fun j =>
    let x := vResult s.mem g i j
    (x.1, rndOf s op i j, x.2)
  (chunks i.d.n vs).zipIdx.foldl (fun acc p =>
    let w := writeRow i.d.fmt (p.1.map fun x => (x.1, x.2.1))
    (store (sramKey g (i.d.base.toNat + p.2 * rowBytes i.d.fmt i.d.n)) w.1 acc.1,
      acc.2 ++ (p.1.zip w.2).map fun x => x.1.2.2 ||| x.2)) (s, [])

/-- Each element that raised a flag counted (R141). -/
def countFlags (g : Nat) (fs : List (BitVec 6)) (s : State) : State :=
  (List.range 6).foldl (fun s i => countCoreN g (0x10 + i) 0 (fs.filter fun f => bit f i).length s) s

/-- The running VECTOR instruction, the oldest outstanding one, completes: its results are written and its flags kept
(R118, R141), or it faults with ECC at the first line that cannot be read (R128). -/
def execVectorComplete (g : Core) (ecc : Ecc) (s : State) : Out :=
  match (strm s g 2).outst with
  | [] => .next s
  | op :: _ =>
    let i := vIns op.sregs op.word
    let found := firstBad i (badLines s g ecc)
    let n := match found with
      | some p => p.1
      | none => resultCount i
    let w := writeResults s op g i n
    let s := countFlags g w.2 (updStrm g 2 (fun r => { r with flags := w.2.foldl (· ||| ·) r.flags }) w.1)
    match found with
    | none => .next (applyEcc (sramKey g 0) (match ecc with
        | .corrected off => .corrected off
        | _ => .clean) (updStrm g 2 (fun r => { r with outst := r.outst.erase op }) s)).2
    | some p => .next (eccDouble (sramKey g p.2) (execFault g 2 op 0x0C p.2 s))

end Sys2Proof.Machine
end

