-- ==== Sys2Proof/Machine/Tally.lean ====
section
/-! DEFINITION. Counters and snapshots, instruction sampling, the logbook's ring (R364 to R378). -/

namespace Sys2Proof.Machine

def onTally (f : TallySt → TallySt) (s : State) : State := { s with tally := f s.tally }

/-! ### Counters (R364 to R366) -/

/-- The core whose region of a half's BAR0 range an offset lies in; `none` for the cluster's own. -/
def coreOfOff (off : Nat) : Option Nat :=
  let half := if 0xC00000 ≤ off then 1 else 0
  let c := off % 0x400000 / 0x80000
  let k := off % 0x80000 / 0x8000
  if 1 ≤ k ∧ k ≤ 9 then some (codeCore (8 * half + c) (k - 1)) else none

/-- Whether a BAR0 offset is the CFG register of a counter. -/
def isCounter (off : Nat) : Bool :=
  let slot := fun (base n : Nat) => decide (base ≤ off ∧ off < base + 16 * n ∧ off % 16 = 0)
  if 0x800000 ≤ off then
    decide (off < 0x1000000) && decide (0x4000 ≤ off % 0x8000 ∧ off % 0x8000 < 0x4080 ∧ off % 16 = 0 ∧ off % 0x80000 / 0x8000 ≤ 9)
  else if 0x100000 ≤ off then decide (off < 0x200000) && slot (off / 0x10000 * 0x10000 + 0x4000) 16
  else slot 0x061000 32 || ((List.range 12).any fun n => slot (0x062000 + 0x100 * n) 8)

def counter (s : State) (off : Nat) : Counter := Tbl.get {} s.tally.counters off
def setCounter (off : Nat) (c : Counter) (s : State) : State := onTally (fun t => { t with counters := Tbl.set t.counters off c }) s

/-- Whether a core's register answers: the core is powered. -/
def coreDead (s : State) (off : Nat) : Bool :=
  decide (0x800000 ≤ off) && match coreOfOff off with
    | some g => (core s g).state == .absent || (core s g).state == .fenced
    | none => false

/-! ### Condition events (R365, R368) -/

/-- Whether a stream's copy of QUAL names `i`: 31 names all. -/
def qualNames (c : Counter) (i : Nat) : Bool := fld c.cfg 16 5 == 31 || fld c.cfg 16 5 == i

/-- The condition that a core's counter selects: CCLK cycles, a STALL code, the DVE with a VECTOR instruction, the DVE with fallback or shadow
vectors. -/
def coreCond (s : State) (g : Nat) (c : Counter) : Bool :=
  let engines := (core s g).engines
  match fld c.cfg 0 8 with
  | 0x01 => true
  | 0x03 => (List.range 4).any fun st => qualNames c st && (strm s g st).stall != 0
  | 0x0E => (strm s g 2).outst.any fun o => decide (0x40 ≤ fld o.word 0 8 ∧ fld o.word 0 8 ≤ 0x45)
  | 0x0F => engines.any fun p => !p.2.shadowQ.isEmpty || p.2.queue.any fun q => !q.run.dve.isEmpty
  | _ => false

/-- The condition of a cluster router's counter: FCLK cycles; a buffer of the port without a free beat, so that a sender has no credit. -/
def cluCond (s : State) (n : Nat) (c : Counter) : Bool :=
  match fld c.cfg 0 8 with
  | 0x01 => true
  | 0x04 => (List.range 12).any fun p => qualNames c p && (decide (32 ≤ heldBeats s n p false) || decide (32 ≤ heldBeats s n p true))
  | _ => false

/-- The condition of a fabric chiplet's counter: FCLK cycles; a sequenced flit of a transmit lane that waits for a credit (R240). -/
def fabCond (s : State) (p : Nat) (c : Counter) : Bool :=
  match fld c.cfg 0 8 with
  | 0x01 => true
  | 0x0A => (List.range 16).any fun l =>
      let k := pair s p l
      qualNames c l && k.assigned && k.queue.any fun f => credOf k f.tc == 0
  | _ => false

/-- The holders of a group of QUAL, with the credits of each (R160): 0 uplinks, 1 hub copy engines, 2 host, 3 migration and scrub. -/
def holderGroup : Nat → List (Nat × Nat)
  | 0 => (List.range 16).map fun k => (k, 8)
  | 1 => [(16, 16)]
  | 2 => [(17, 8)]
  | 3 => [(18, 8)]
  | _ => []

/-- The condition of a DDR channel's counter: FCLK cycles; no credit left for a holder. Refreshes happen inside the devices. -/
def ddrCond (s : State) (n : Nat) (c : Counter) : Bool :=
  match fld c.cfg 0 8 with
  | 0x01 => true
  | 0x08 => (List.range 4).any fun i => qualNames c i && (holderGroup i).any fun h =>
      decide (h.2 ≤ ((chan s n).reqs.filter fun r => r.holder = h.1).length)
  | _ => false

/-- The condition that the counter at a BAR0 offset selects. A DDR write that copy-ahead holds (hub 0x0D) goes on within its command. -/
def condOf (s : State) (off : Nat) (c : Counter) : Bool :=
  if 0x800000 ≤ off then match coreOfOff off with
    | some g => coreCond s g c
    | none => cluCond s ((if 0xC00000 ≤ off then 8 else 0) + off % 0x400000 / 0x80000) c
  else if 0x100000 ≤ off then fabCond s (off / 0x10000 - 0x10) c
  else if 0x062000 ≤ off then ddrCond s ((off - 0x062000) / 0x100) c
  else fld c.cfg 0 8 == 0x01

/-- Whether the counter at a BAR0 offset selects a condition event. -/
def isCond (off : Nat) (c : Counter) : Bool :=
  let ev := fld c.cfg 0 8
  if 0x800000 ≤ off then if (coreOfOff off).isSome then ev == 1 || ev == 3 || ev == 0x0E || ev == 0x0F else ev == 1 || ev == 4
  else if 0x100000 ≤ off then ev == 1 || ev == 0x0A
  else if 0x062000 ≤ off then ev == 1 || ev == 8
  else ev == 1

/-- Cycles of the counting clock in the nanosecond after `now`: CCLK 1.6 GHz, FCLK 800 MHz, MCLK 400 MHz (R364, R388). -/
def clockCycles (off now : Nat) : Nat :=
  let n := if (0x800000 ≤ off) && (coreOfOff off).isSome then 8 else if 0x062000 ≤ off then 4 else 2
  (now + 1) * n / 5 - now * n / 5

/-- A counter of a condition event through one nanosecond: in level mode it counts the cycles in which the condition holds, in edge mode the
cycle in which it becomes true. -/
def condTick (s : State) (p : Nat × Counter) : Nat × Counter :=
  let c := p.2
  let n := clockCycles p.1 s.now
  if isCond p.1 c = false ∨ n = 0 ∨ blockHeld s p.1 ∨ coreDead s p.1 then p
  else
    let on := condOf s p.1 c
    let d := if on then (if bit c.cfg 8 then n else if c.was then 0 else 1) else 0
    (p.1, { c with was := on, live := (c.live + d) % 0x1000000000000, ovf := c.ovf || decide (0x1000000000000 ≤ c.live + d) })

/-- Every counter of a condition event through one nanosecond. -/
def countCycles (s : State) : State := onTally (fun t => { t with counters := t.counters.map (condTick s) }) s

/-- A write to a counter's CFG: the count and the live overflow bit are cleared; the holding registers keep their capture. -/
def execCounterCfgWrite (off : Nat) (v : Word) (s : State) : Out :=
  if isCounter off = false then .next s
  else if blockHeld s off then .next (heldWrite off v s)
  else if coreDead s off then .next s
  else
    let c := { counter s off with cfg := v &&& 0x001F01FF, live := 0, ovf := false }
    .next (setCounter off { c with was := condOf s off c } s)

/-- A counter that stands at 2⁴⁸ − 1 counts once more. -/
def execCounterWrap (off : Nat) (s : State) : Out :=
  let c := counter s off
  if c.live = 0x1000000000000 - 1 then .next (setCounter off { c with live := 0, ovf := true } s) else .next s

/-! ### Snapshots (R369) -/

/-- Every counter copied into its holding registers. -/
def snapshotAll (s : State) : State :=
  onTally (fun t => { t with
    counters := t.counters.map fun p => (p.1, { p.2 with snap := p.2.live, snapOvf := p.2.ovf })
    snapTime := s.time.ns
    snapCount := t.snapCount + 1 }) s

/-- A write to TALLY_CTL. -/
def execSnapshotCmd (v : Word) (s : State) : Out :=
  if blockHeld s 0x060000 then .next (heldWrite 0x060000 v s) else if bit v 0 then .next (snapshotAll s) else .next s

/-- TALLY_PERIOD in µs as it acts. -/
def snapPeriod (s : State) : Nat := min 1000000 (fld s.tally.period 0 20)

/-- PERIOD µs since the last periodic snapshot. -/
def execPeriodicSnapshot (s : State) : Out :=
  let p := snapPeriod s * 1000
  if p ≠ 0 ∧ s.tally.periodAt + p ≤ s.now then .next (snapshotAll (onTally (fun t => { t with periodAt := t.periodAt + p }) s))
  else .next s

/-! ### Sampling (R370 to R373) -/

/-- N = 2^LOG2N. -/
def sampN (s : State) : Nat := 2 ^ max 8 (min 20 (fld s.tally.sampCfg 0 5))

/-- One step of a core's sampling LFSR, x³² + x²² + x² + x + 1. -/
def sampLfsrStep (l : Word) : Word :=
  let b := (l ^^^ (l >>> 10) ^^^ (l >>> 30) ^^^ (l >>> 31)) &&& 1
  (l >>> 1) ||| (b <<< 31)

/-- The LFSR stepped and the countdown loaded. -/
def sampReload (n : Nat) (k : CoreSt) : CoreSt :=
  let r := sampLfsrStep k.sampLfsr
  { k with sampLfsr := r, sampLeft := n / 2 + r.toNat % n, sampNext := none }

/-- A sample dropped: 1 queue full, 2 ring full, 3 tag busy. -/
def sampDrop (why : Nat) (s : State) : State :=
  let s := countHub 0x14 0 false (onTally (fun t => { t with sampDrop := incSat t.sampDrop 1 }) s)
  logRate (0x0601 * 4096) 1000000000 0x0601 0x0600 s.tally.sampDrop.toNat why 0 0 s

/-- The countdown of a core has reached 0 at an instruction of a stream. -/
def execSampleTag (g : Core) (st : Str) (s : State) : Out :=
  let k := core s g
  match k.sampNext with
  | none => .next s
  | some t =>
    if t.stream ≠ st.val then .next s
    else if k.sampTag.isSome then .next (sampDrop 3 (updCore g (sampReload (sampN s)) s))
    else .next (countCore g 0x1A 0 (updCore g (fun k => sampReload (sampN s) { k with sampTag := some t }) s))

/-- Whether a followed instruction has completed or been abandoned. -/
def tagDone (s : State) (g : Nat) (t : SampTag) : Bool :=
  let k := core s g
  !((strm s g t.stream).outst.any fun o => o.pc = t.pc)
    && !(t.stream == 1 && (List.range 4).any fun e => (Tbl.get {} k.engines e).queue.any fun q => !q.cal && q.pc == t.pc)

/-- Whether it was abandoned: by a reset, its context moved to a new GEN, or its stream faulted at it. -/
def tagAbandoned (s : State) (g : Nat) (t : SampTag) : Bool :=
  let k := core s g
  let r := strm s g t.stream
  t.cut || decide (t.ctx ≠ 0xFF ∧ (k.state ≠ .assigned ∨ k.gen ≠ t.gen)) || (r.state == .faulted && r.faultPc == t.pc)

/-- ENGINE of a sample: the engine, 4 DVE, 5 copy unit, 0xFF none. -/
def tagEngine (w : IWord) : Nat :=
  let o := fld w 0 8
  if o = 0x30 then fld w 12 2 else if o = 0x31 then fld w 72 2 else if o = 0x32 then fld w 8 2
  else if 0x40 ≤ o ∧ o ≤ 0x45 then 4 else if o = 0x10 ∨ o = 0x20 then 5 else 0xFF

/-- UNITS of a sample: bytes, vectors, elements or MAC. -/
def tagUnits (s : State) (g : Nat) (t : SampTag) : Nat :=
  let o := fld t.word 0 8
  let i := vIns t.sregs t.word
  if o = 0x10 then (getXfer t.sregs t.word).len * (getXfer t.sregs t.word).rows
  else if o = 0x20 then (putXfer t.sregs t.word).len * (putXfer t.sregs t.word).rows
  else if o = 0x31 then (mvmParams s g t.sregs t.word).count
  else if o = 0x45 then i.mm * i.nn * i.kk
  else if 0x40 ≤ o ∧ o ≤ 0x44 then resultCount i
  else 0

/-- A time in CCLK of a sample: 0 for the later points of a scalar instruction, else a value that the model's untimed steps leave free. -/
def tagClock (s : State) (scalar : Bool) (i : Nat) : Nat := if scalar then 0 else Config.open_ (1300 + i) s.freeCtr % 0x100000000

/-- The record of a followed instruction without its SEQ. -/
def tagRecord (s : State) (g : Nat) (t : SampTag) : List Byte :=
  let e := tagEngine t.word
  let gone := tagAbandoned s g t
  let fell := t.fell
  let k := if fld t.word 0 8 = 0x31 then t.k.getD (mvmParams s g t.sregs t.word).k else 0
  toBytes g 2 ++ toBytes t.stream 1 ++ toBytes (fld t.word 0 8) 1 ++ toBytes t.pc.toNat 4 ++ toBytes t.ctx 1 ++ [t.gen]
    ++ toBytes (b2n gone + 2 * b2n fell) 1 ++ toBytes t.stall 1 ++ toBytes t.issue 8 ++ toBytes (tagClock s false 0) 4
    ++ (List.range 3).flatMap (fun i => toBytes (tagClock s (e == 0xFF) (1 + i)) 4) ++ toBytes (if gone then 0xFFFFFFFF else tagClock s (e == 0xFF) 4) 4
    ++ toBytes (tagUnits s g t) 4 ++ toBytes e 1 ++ toBytes k 1 ++ List.replicate 14 0

/-- The finished sample of a core put into the hub's queue of 1,024. -/
def queueSample (s : State) (g : Nat) : State :=
  match (core s g).sampTag with
  | none => s
  | some t =>
    if tagDone s g t = false then s
    else
      let bs := tagRecord s g t
      let s := updCore g (fun k => { k with sampTag := none }) { s with freeCtr := s.freeCtr + 1 }
      if 1024 ≤ s.tally.sampQueue.length then sampDrop 1 s
      else onTally (fun x => { x with sampQueue := x.sampQueue ++ [{ bytes := bs }] }) s

/-- Records that the sample ring holds, and where it begins. -/
def sampCap (s : State) : Nat := 32768 * max 1 (fld s.tally.sampSize 0 10)
def sampBaseAt (s : State) : Nat := 2097152 * fld s.tally.sampBase 0 19

/-- The oldest queued record written to the ring, or dropped when the ring is full. -/
def writeSample (s : State) : State :=
  match s.tally.sampQueue with
  | [] => s
  | x :: rest =>
    let t := s.tally
    let s := onTally (fun t => { t with sampQueue := rest }) s
    if sampCap s ≤ (t.sampWrite - t.sampRead).toNat then sampDrop 2 s
    else
      let s := store (sampBaseAt s + 64 * (t.sampWrite.toNat % sampCap s)) (toBytes t.sampSeq.toNat 4 ++ x.bytes) s
      countHub 0x13 0 false (onTally (fun t => { t with sampWrite := t.sampWrite + 1, sampSeq := t.sampSeq + 1 }) s)

/-- Finished samples are queued and the oldest one is written. -/
def execSampleRecordWrite (s : State) : Out := .next (writeSample ((List.range 144).foldl queueSample s))

/-- LOG2N and STREAMS of TALLY_SAMP_CFG. -/
def sampFields : Word := 0x00F0001F

/-- The cores sampled. -/
def sampledCores (s : State) : List Nat := (List.range 144).filter fun g => bit (Tbl.get 0 s.tally.sampCores (g / 32)) (g % 32)

/-- Sampling begun on a core. -/
def seedCore (s : State) (g : Nat) : State :=
  let v := s.tally.sampSeed ^^^ BitVec.ofNat 32 g
  updCore g (fun k => sampReload (sampN s) { k with sampLfsr := if v = 0 then 1 else v, sampTag := none }) s

/-- An enable taken: refused when the ring reaches beyond U. -/
def sampEnable (v : Word) (s : State) : State :=
  if userLimit s < sampBaseAt s + 64 * sampCap s then logRec 0x0602 0x0600 0x060020 v.toNat 1 0 s
  else (sampledCores s).foldl seedCore (onTally (fun t => { t with enabled := true, sampWrite := 0, sampRead := 0, sampSeq := 0 }) s)

/-- A write to TALLY_SAMP_CFG or its like that is discarded while sampling is on or drains. -/
def sampDiscard (off : Nat) (v : Word) (s : State) : State := logRec 0x0602 0x0600 off v.toNat 2 0 s

/-- The LOG2N and STREAMS fields written: at once while sampling is off, else discarded where they differ. -/
def sampFieldsWrite (v : Word) (s : State) : State :=
  if s.tally.enabled || s.tally.draining then
    if v &&& sampFields = s.tally.sampCfg &&& sampFields then s else sampDiscard 0x060020 v s
  else onTally (fun t => { t with sampCfg := v &&& sampFields }) s

/-- TALLY_SAMP_CFG written with ENABLE 1 (R210, R373). -/
def execSamplingEnable (v : Word) (s : State) : Out :=
  if blockHeld s 0x060020 then .next (heldWrite 0x060020 v s)
  else
    let s := sampFieldsWrite v s
    if s.tally.enabled then .next s
    else if s.tally.draining then .next (onTally (fun t => { t with pending := true }) s)
    else .next (sampEnable v s)

/-- TALLY_SAMP_CFG written with ENABLE 0: tagging stops and the queue drains. -/
def execSamplingDisable (v : Word) (s : State) : Out :=
  if blockHeld s 0x060020 then .next (heldWrite 0x060020 v s)
  else
    let s := sampFieldsWrite v s
    if s.tally.enabled then
      .next (onTally (fun t => { t with enabled := false, draining := true }) s)
    else .next (onTally (fun t => { t with pending := false }) s)

/-- The queue is empty and no instruction is followed: the drain ends, and a pending enable takes effect. -/
def execSamplingDrainEnd (s : State) : Out :=
  if s.tally.draining ∧ s.tally.sampQueue = [] ∧ (s.cores.any fun p => p.2.sampTag.isSome) = false then
    let go := s.tally.pending
    let s := onTally (fun t => { t with draining := false, pending := false }) s
    .next (if go then sampEnable (s.tally.sampCfg ||| 0x80000000) s else s)
  else .next s

/-! ### The logbook (R375, R376) -/

/-- The bytes of a record. -/
def logBytes (seq : Word) (x : LogRec) : List Byte :=
  toBytes seq.toNat 4 ++ toBytes x.time.toNat 8 ++ toBytes x.code.toNat 2 ++ toBytes x.source.toNat 2 ++ toBytes x.p0.toNat 4 ++ toBytes x.p1.toNat 4
    ++ toBytes x.p2.toNat 4 ++ toBytes x.p3.toNat 4

/-- A record put into the ring and its mirror. -/
def putLog (x : LogRec) (s : State) : State :=
  let seq := s.log.head
  let slot := seq.toNat % 65536
  let s := store (userLimit s + 268435456 + 32 * slot) (logBytes seq x) s
  countHub 0x0E 0 false { s with log := { s.log with ring := Tbl.set s.log.ring slot (seq, x), head := seq + 1 } }

/-- The record of those lost, once the queue has space. -/
def noteLost (s : State) : State :=
  let n := s.log.lostNow
  if n = 0 then s
  else
    let first := (s.log.head + BitVec.ofNat 32 s.log.queue.length).toNat
    logRec 0x0501 0x0500 n first 0 0 { s with log := { s.log with lostNow := 0 } }

/-- The hub takes the oldest record of its input queue. -/
def execLogbookRecord (s : State) : Out :=
  match s.log.queue with
  | [] => .next s
  | x :: rest => .next (noteLost (putLog x { s with log := { s.log with queue := rest } }))

end Sys2Proof.Machine
end

