-- ==== Sys2Proof/Machine/Registers.lean ====
section
/-! DEFINITION. BAR0: which accesses are accepted, what every register reads, what a write of every register does, and the posted
writes (R199 to R213). -/

namespace Sys2Proof.Machine

/-! ### Places -/

/-- Which of `n` places of `stride` bytes from `base` an offset lies in, and where in it. -/
def place (base stride n o : Nat) : Option (Nat × Nat) :=
  if base ≤ o ∧ o < base + stride * n then some ((o - base) / stride, (o - base) % stride) else none

/-- The posted write of a block that has not taken effect (R205); blocks are told apart by the high byte of their codes. -/
def blockPw (s : State) (off : Nat) : Option PwWrite := s.idb.pw.find? fun w => blockHigh w.off = blockHigh off
/-- BUSY of a block. -/
def busy (s : State) (off : Nat) : Nat := b2n (blockPw s off).isSome

/-- The low or high word of a 64-bit register. -/
def half64 (v : DWord) (hi : Bool) : Nat := if hi then v.toNat / 0x100000000 else v.toNat % 0x100000000

/-- A mask of the numbers below `n` that have a property. -/
def bitMask (n : Nat) (f : Nat → Bool) : Nat := (List.range n).foldl (fun m i => m + b2n (f i) * 2 ^ i) 0

/-! ### Reads of the hub's blocks -/

/-- ID (R213). -/
def readId (s : State) (o : Nat) : Option Nat :=
  let i := s.idb
  let dev := if i.deviceL then 0x3216 else 0x3208
  match o with
  | 0x000 => some (dev * 65536 + i.vendor.toNat)
  | 0x004 => some (i.recFormat.toNat * 0x1000000 + i.assyStep.toNat * 4096 + i.siStep.toNat * 256 + b2n i.deviceL * 128 + planeCount s)
  | 0x008 => some (half64 i.serial false)
  | 0x00C => some (half64 i.serial true)
  | 0x010 => some (usableCores s * 65536 + ((List.range 144).filter (inGood s)).length * 256 + 144)
  | 0x080 => some i.setVer.toNat
  | 0x180 => some i.busErr.toNat
  | 0x184 => some i.busErrLast.toNat
  | 0x200 => some i.testRw.toNat
  | 0x204 => some i.testMw.toNat
  | 0x208 => some i.testRc.toNat
  | 0x20C => some 0
  | _ => match place 0x020 4 5 o, place 0x040 4 5 o, place 0x100 4 32 o with
    | some (w, 0), _, _ => some (bitMask 32 fun b => decide (32 * w + b < 144) && inGood s (32 * w + b))
    | _, some (w, 0), _ => some (bitMask 32 fun b => decide (32 * w + b < 144) && inFence s (32 * w + b))
    | _, _, some (p, 0) => some (Tbl.get 0 i.fwVer p).toNat
    | _, _, _ => none

/-- The implemented bits of a keeper register's staged copy; none where it is not listed. -/
def keeperMask (o : Nat) : Option Word :=
  if o = 0x00C then some 0x8007FFFF
  else match place 0x100 8 16 o, place 0x200 4 64 o, place 0x1000 16 256 o with
    | some (_, 0), _, _ => some 0x0007FFFF
    | some (_, 4), _, _ => some 0xF007FFFF
    | _, some (_, 0), _ => some 0xB1FF00FF
    | _, _, some (_, 0) => some 0xFFFFF000
    | _, _, some (_, 4) => some 0xFFFFFFFF
    | _, _, some (_, 8) => some 0xFFFFFFFF
    | _, _, some (_, 12) => some 0xC00000FF
    | _, _, _ => none

/-- KEEPER: the staged values, and the state of commits (R194). -/
def readKeeper (s : State) (o : Nat) : Option Nat :=
  let h := s.hst
  match o with
  | 0 => some 0
  | 4 => some (h.edition.toNat * 65536 + b2n h.refused * 512 + b2n h.commitPending.isSome * 256 + h.older.length)
  | 8 => some (oldestEdition s).toNat
  | _ => (keeperMask o).map fun _ => (Tbl.get 0 h.staged o).toNat

/-- RING. -/
def readRing (s : State) (o : Nat) : Option Nat :=
  if o = 0x1000 then some s.hst.evtDrop.toNat
  else match place 0 0x40 64 o with
    | none => none
    | some (r, x) =>
      let k := ring s r
      match x with
      | 0x00 => some k.sqLo.toNat
      | 0x04 => some k.sqHi.toNat
      | 0x08 => some k.cqLo.toNat
      | 0x0C => some k.cqHi.toNat
      | 0x10 => some k.cfg.toNat
      | 0x14 => some k.mod.toNat
      | 0x18 => some (b2n k.enable)
      | 0x1C => some (ringCode k.state * 0x20000000 + b2n k.pending * 0x10000000 + k.err * 65536 + k.inflight.length)
      | _ => none

/-- MSIX: the table and the PBA (R177). -/
def readMsix (s : State) (o : Nat) : Option Nat :=
  if o < 0x800 ∧ o % 4 = 0 then some (msixWord s o).toNat
  else match place 0x800 4 4 o with
    | some (w, 0) => some (fld s.hst.pba (32 * w) 32)
    | _ => none

/-- TIME (R362). -/
def readTime (s : State) (o : Nat) : Option Nat :=
  let t := s.time
  match o with
  | 0x000 => some (busy s 0x040000 * 0x80000000 + timeStat s)
  | 0x004 => some (half64 t.nowNs false)
  | 0x008 => some (half64 t.nowNs true)
  | 0x00C => some t.nowFrac.toNat
  | 0x010 => some t.offset.toNat
  | 0x014 => some t.incrAdj.toNat
  | 0x018 => some t.cfg.toNat
  | 0x020 => some t.stepLo.toNat
  | 0x024 => some t.stepHi.toNat
  | 0x028 => some 0
  | 0x02C => some t.alarmStat.toNat
  | _ => match place 0x100 0x10 8 o, place 0x200 0x20 4 o with
    | some (a, 0), _ => some (half64 (alarm s a).target false)
    | some (a, 4), _ => some (half64 (alarm s a).target true)
    | some (a, 8), _ => some (b2n (alarm s a).armed)
    | _, some (n, 0x00) => some (half64 (tod s n).start false)
    | _, some (n, 0x04) => some (half64 (tod s n).start true)
    | _, some (n, 0x08) => some (tod s n).period.toNat
    | _, some (n, 0x0C) => some (tod s n).width.toNat
    | _, some (n, 0x10) => some (b2n (tod s n).pending * 0x80000000 + b2n (tod s n).enable)
    | _, _ => none

/-- LOG (R379). -/
def readLog (s : State) (o : Nat) : Option Nat :=
  match o with
  | 0 => some s.log.head.toNat
  | 4 => some s.log.lost.toNat
  | 8 => some (s.ddr.limit + 128)
  | 12 => some (b2n s.log.restored * 0x80000000 + s.log.queue.length)
  | _ => none

/-- A counter's group of registers at its BAR0 offset (R364). -/
def readCounter (s : State) (off : Nat) : Option Nat :=
  let b := off / 16 * 16
  let c := counter s b
  if isCounter b = false then none
  else match off % 16 with
    | 0 => some c.cfg.toNat
    | 4 => some (c.snap % 0x100000000)
    | 8 => some (b2n c.snapOvf * 0x80000000 + c.snap / 0x100000000)
    | _ => none

/-- TALLY. -/
def readTally (s : State) (o : Nat) : Option Nat :=
  let t := s.tally
  match o with
  | 0x000 => some 0
  | 0x004 => some t.snapCount.toNat
  | 0x008 => some (half64 t.snapTime false)
  | 0x00C => some (half64 t.snapTime true)
  | 0x010 => some t.period.toNat
  | 0x020 => some (b2n (t.enabled || t.pending) * 0x80000000 + b2n t.pending * 0x40000000 + (t.sampCfg &&& sampFields).toNat)
  | 0x024 => some t.sampSeed.toNat
  | 0x028 => some t.sampBase.toNat
  | 0x02C => some t.sampSize.toNat
  | 0x030 => some t.sampWrite.toNat
  | 0x034 => some t.sampRead.toNat
  | 0x038 => some t.sampDrop.toNat
  | _ => match place 0x040 4 5 o with
    | some (w, 0) => some (Tbl.get 0 t.sampCores w).toNat
    | _ => readCounter s (0x060000 + o)

/-- A temperature in 16 bits. -/
def temp16 (t : Int) : Nat := (BitVec.ofInt 16 t).toNat

/-- PWR (R393). -/
def readPwr (s : State) (o : Nat) : Option Nat :=
  let p := s.pwr
  match o with
  | 0x00 => some (busy s 0x070000 * 0x80000000 + b2n p.pwrfail * 0x40000000 + b2n (throttled s 1) * 0x20000000 + b2n (throttled s 0) * 0x10000000 + b2n p.capped * 0x8000000
      + p.lastCause * 0x1000000)
  | 0x04 => some (p.cv * 65536 + p.watts)
  | 0x08 => some (p.vmax.toNat * 65536 + p.vmin.toNat)
  | 0x0C => some (p.overvolt * 0x1000000 + p.dropout * 65536 + p.surge * 256 + p.sag)
  | 0x10 => some p.cfg.toNat
  | 0x14 => some 0
  | 0x18 => some (p.capB * 256 + p.capA)
  | 0x50 => some p.locks.toNat
  | _ => match place 0x20 4 8 o with
    | some (i, 0) =>
      let t := Tbl.get ((0 : Int), (0 : Int)) p.temps i
      some (temp16 t.2 * 65536 + temp16 t.1)
    | _ => none

/-- The largest reset of kind 1 to 5 that runs, and its phase (RST_STAT). -/
def runShown (s : State) : Option ResetRun :=
  (s.rst.runs.filter fun x => x.kind ≤ 5).foldl (fun b x => match b with
    | some y => if y.kind < x.kind then some x else b
    | none => some x) none

/-- RST (R346). -/
def readRst (s : State) (o : Nat) : Option Nat :=
  let t := s.rst
  let n := fun k => Tbl.get 0 t.counts k
  match o with
  | 0x00 => some 0
  | 0x04 =>
    let run := match runShown s with
      | some x => 0x80000000 + x.kind * 0x10000000 + x.phase * 0x2000000
      | none => 0
    some (run + t.lastKind * 0x400000 + t.lastCause * 65536 + t.lastIndex)
  | 0x08 => some t.hangCfg.toNat
  | 0x0C => some (n 4 * 0x1000000 + n 3 * 65536 + n 2 * 256 + n 1)
  | 0x10 => some (n 8 * 0x1000000 + n 7 * 65536 + n 6 * 256 + n 5)
  | 0x14 => some t.lateDrop.toNat
  | 0x18 => some (t.sampleSeq % 4096 * 0x100000 + t.samplePos / 4096 % 4096)
  | 0x1C => some (b2n t.dumpValid * 0x80000000 + b2n t.dumpSource * 0x40000000 + t.dumpWell * 0x10000000 + t.dumpCause)
  | 0x20 => some 0
  | _ => none

/-- CKPT_STAT.WELL. -/
def wellCode_ : WellState → Nat
  | .absent => 0 | .formatting => 1 | .ready => 2 | .failed => 3 | .unusable => 4

/-- CKPT_SLOT_STAT.STATE. -/
def slotCode : SlotState → Nat
  | .empty => 0 | .writing => 1 | .committed => 2 | .draining => 3 | .drained => 4

/-- Granules in the sections of a checkpoint. -/
def granTotal (k : CkptRun) : Nat := totalGrans k.image.sections

/-- CKPT (R332). -/
def readCkpt (s : State) (o : Nat) : Option Nat :=
  let t := s.ckpt
  match o with
  | 0x00 => some (busy s 0x090000 * 0x80000000 + wellCode_ t.well * 0x10000000 + b2n t.mini.isSome * 0x8000000
      + bitMask 4 (fun c => (Tbl.get none t.restores c).isSome) * 0x100000
      + bitMask 4 (fun c => (slotSt s c false).state == .draining || (slotSt s c true).state == .draining) * 65536
      + bitMask 4 (fun c => (ckptRun s c).isSome) * 4096)
  | 0x04 => some t.cfg.toNat
  | 0x08 => some t.drain.toNat
  | 0x0C => some (freeExtents s)
  | 0x10 => some t.caCount.toNat
  | 0x14 => some t.caLong.toNat
  | _ => match place 0x100 0x10 8 o, place 0x200 0x10 4 o with
    | some (i, x), _ =>
      let k := Tbl.get {} t.slots i
      match x with
      | 0 => some (slotCode k.state * 0x20000000 + b2n k.full * 0x10000000 + k.extents)
      | 4 => some k.number.toNat
      | 8 => some k.step.toNat
      | 12 => some (k.stored / 1000000)
      | _ => none
    | _, some (c, x) =>
      let k := (ckptRun s c).getD {}
      match x with
      | 0 => some k.done
      | 4 => some (granTotal k)
      | 8 => some k.ahead
      | _ => none
    | _, _ => none

/-- UPD (R421). -/
def readUpd (s : State) (o : Nat) : Option Nat :=
  let u := s.upd
  match o with
  | 0x00 => some (bootCode s.boot.state * 0x20000000 + s.boot.fenceCause * 0x4000000 + u.selector * 0x2000000 + b2n u.fallback * 0x1000000 + u.lastAct * 0x100000)
  | 0x04 =>
    let r := match u.session with
      | some x => x.ring * 0x400000 + (s.now - x.lastAt) / 1000000000 % 65536
      | none => if u.staged.isSome then u.stagedRing * 0x400000 else 0
    some (updState s * 0x40000000 + updSource s * 0x10000000 + r)
  | 0x08 => some (stagedVer s)
  | 0x0C => some (if u.session.isSome then u.blocks.length else 0)
  | 0x10 => some u.secVer.toNat
  | _ => none

/-- DDR (R166). -/
def readDdr (s : State) (o : Nat) : Option Nat :=
  let d := s.ddr
  match o with
  | 0x00 => some (d.retired * 0x40000000 + b2n d.migrating * 0x20000000 + b2n ((inServ s).any fun n => (chan s n).dead) * 0x10000000 + d.inService.toNat)
  | 0x04 => some d.capMb
  | 0x08 => some d.limit
  | 0x0C => some (if d.migrating then d.watermark / 2097152 else 0)
  | 0x10 => some d.share.toNat
  | _ => match place 0x100 0x20 12 o, place 0x300 0x10 4 o with
    | some (n, x), _ =>
      let k := chan s n
      match x with
      | 0x00 => some (k.state * 0x20000000 + k.temp * 256 + (160 - k.reqs.length))
      | 0x04 => some k.ce.toNat
      | 0x08 => some k.recon.toNat
      | 0x0C => some k.ue.toNat
      | 0x10 => some k.ecs.toNat
      | _ => none
    | _, some (e, 0) =>
      let n := (engine s e).length
      some (b2n (0 < n) * 0x20000000 + min 4 n * 65536 + Tbl.get 0 d.lastErr e)
    | _, _ => none

/-! ### Reads of the fabric, steering, Ethernet and control blocks -/

/-- STATE of a lane. -/
def laneCode : OptState → Nat
  | .dark => 0 | .tuning => 1 | .checking => 2 | .lit => 3 | .held => 4 | .failed => 5

/-- FAB_TX_LANE_l and FAB_RX_LANE_l. -/
def laneWord (k : LaneSt) : Nat :=
  laneCode k.state * 0x20000000 + b2n k.unlocked * 0x10000000 + k.attempts * 0x4000000 + k.pilotFails * 65536 + k.chan

/-- STATE of a pair. -/
def pairCode : PairState → Nat
  | .off => 0 | .train => 1 | .up => 2 | .active => 3 | .retrain => 4 | .down => 5

/-- A pair's registers (R254). -/
def readPair (k : Pair) (x : Nat) : Option Nat :=
  match x with
  | 0x00 => some (pairCode k.state * 0x20000000 + b2n k.held * 0x10000000 + k.code * 0x4000000 + k.rxcode * 0x1000000 + k.phase * 0x200000 + k.attempt * 0x80000
      + k.rxLane * 4096 + k.peer)
  | 0x04 => some (k.peerFrom.toNat * 65536 + k.from_.toNat)
  | 0x08 => some k.berTx.toNat
  | 0x0C => some k.berRx.toNat
  | 0x10 => some (k.retrains * 0x1000000 + k.trainFails * 65536 + k.replays)
  | 0x14 => some (k.cred.2.2 * 0x1000000 + k.cred.2.1 * 65536 + k.cred.1 * 256)
  | 0x18 => some (k.acked * 65536 + k.next)
  | _ => none

/-- FAB n (R228, R254). -/
def readFab (s : State) (p o : Nat) : Option Nat :=
  let f := fab s p
  let comb := fun c =>
    let k := fabComb s p c
    if c = 1 ∧ s.idb.deviceL = false then 0
    else k.state * 0x20000000 + b2n k.unlocked * 0x10000000 + k.pilotFails * 65536 + k.loss.toNat
  match o with
  | 0x000 => some (b2n s.idb.deviceL * 256 + p)
  | 0x004 =>
    let step := (f.hand.map fun h => h.step).getD 0
    some (busy s (0x100000 + 0x10000 * p) * 0x80000000 + b2n f.txRetired * 0x40000000 + b2n f.hand.isSome * 0x20000000 + step * 0x4000000 + f.switch_ * 0x2000000
      + bitMask 16 fun l => (txLane s p l).state == .lit)
  | 0x010 => some (comb 0)
  | 0x014 => some (comb 1)
  | 0x020 => some 0
  | 0x024 => some f.handCfg.toNat
  | 0x200 => some f.tapSel.toNat
  | 0x204 => some f.tapPwr.toNat
  | 0x208 => some f.tapBase.toNat
  | 0x1400 => some f.ullCfg.toNat
  | 0x1404 => some 0
  | _ => match place 0x100 4 16 o, place 0x140 4 16 o, place 0x1000 0x20 16 o with
    | some (l, 0), _, _ => some (laneWord (txLane s p l))
    | _, some (l, 0), _ => some (laneWord (rxLane s p l))
    | _, _, some (l, x) => readPair (pair s p l) x
    | _, _, _ => readCounter s (0x100000 + 0x10000 * p + o)

/-- STEER (R274). -/
def readSteer (s : State) (o : Nat) : Option Nat :=
  let t := s.steer
  let has := !t.staged.isEmpty
  let commit := if has then chCommit t.staged else 0
  match o with
  | 0x00 => some (t.edition.toNat * 65536 + steerCode t.state * 8192 + b2n t.charted * 4096 + b2n (isSteward s) * 2048)
  | 0x04 => some ((if has then (chEdition t.staged).toNat else 0) * 65536 + b2n has * 32768)
  | 0x08 => some (commit % 0x100000000)
  | 0x0C => some (commit / 0x100000000)
  | 0x10 => some (min 255 t.notUp * 0x1000000 + min 0xFFFFFF t.applyUs)
  | 0x14 => some t.epoch.toNat
  | 0x18 => some (if t.chart.isEmpty then 0 else chMembers t.chart)
  | 0x20 => some t.cfg.toNat
  | 0x24 => some (min 0xFFFF t.containedCnt * 65536 + min 0xFFFF t.late)
  | _ => match place 0x100 8 16 o, place 0x1000 0x80 4 o with
    | some (p, 0), _ =>
      let g := Tbl.get {} t.gaz p
      some (g.mismatch * 0x1000000 + g.loopch * 65536 + (if planeCount s ≤ p then 4 else g.state) * 256 + g.offset)
    | some (p, 4), _ => some (Tbl.get {} t.gaz p).seen.toNat
    | _, some (c, x) => if x % 4 = 0 then some (Tbl.get 0 t.bind (32 * c + x / 4)).toNat else none
    | _, _ => none

/-- ETH (R440). -/
def readEth (s : State) (o : Nat) : Option Nat :=
  if o = 0 then some (busy s 0x300000 * 0x80000000)
  else match place 0x100 0x40 4 o with
    | none => none
    | some (p, x) =>
      let k := eth s p
      match x with
      | 0x00 => some k.ctl.toNat
      | 0x04 => some (ethCode k.state * 0x20000000 + b2n k.pending * 0x10000000 + b2n k.present * 0x8000000 + b2n k.fecLock * 0x4000000)
      | 0x08 => some k.feCe.toNat
      | 0x0C => some k.feUe.toNat
      | 0x10 => some k.drop.toNat
      | _ => none

/-- CTL (R362, R440). -/
def readCtl (s : State) (o : Nat) : Option Nat :=
  let p := s.pins
  match o with
  | 0x00 => some (busy s 0x400000 * 0x80000000 + p.link * 0x20000000)
  | 0x04 => some (b2n p.pwrfailN * 0x80000000 + b2n p.attnMasked * 0x40000000 + b2n p.ejectOpen * 0x20000000 + b2n p.slotChanged * 0x10000000 + p.slotNow * 65536
      + p.attnCount * 256 + me s)
  | 0x08 => some p.ctlCfg.toNat
  | 0x0C => some p.led.toNat
  | 0x10 => some (removeCode p.remove * 0x40000000)
  | 0x1000 => some s.time.ptpCfg.toNat
  | 0x1004 => some (ptpStat s)
  | _ => none

/-! ### Reads of the halves -/

/-- A cluster's registers (R42). -/
def readClu (s : State) (c o : Nat) : Option Nat :=
  let k := clu s c
  match o with
  | 0x000 => some c
  | 0x004 => some (bitMask 9 (fun i => (core s (codeCore c i)).state == .fenced) * 65536 + bitMask 9 (fun i => inGood s (codeCore c i)))
  | 0x008 => some k.fault.toNat
  | 0x020 => some k.cisternCe.toNat
  | 0x024 => some k.cisternUe.toNat
  | 0x1040 => some 0
  | 0x2000 => some k.combMap.toNat
  | 0x2020 => some 0
  | 0x2030 => some (k.ceil * 65536 + k.duty)
  | _ => match place 0x010 4 4 o, place 0x100 4 12 o, place 0x1000 0x10 4 o, place 0x2010 4 4 o with
    | some (w, 0), _, _, _ => some (Tbl.get 0 k.cwin w).toNat
    | _, some (p, 0), _, _ =>
      let n := fun rsp => ((beats s c p).filter fun b => b.rsp == rsp).length
      some ((32 - n true) * 256 + (32 - n false))
    | _, _, some (x, 0), _ => some (ceList s c x).reg.toNat
    | _, _, some (x, 4), _ =>
      let l := ceList s c x
      some (l.state * 0x20000000 + l.head * 65536 + l.err)
    | _, _, _, some (n, 0) =>
      let m := comb s c n
      some (m.state * 0x20000000 + b2n m.unlocked * 0x10000000 + m.pilotFails * 65536 + m.loss.toNat)
    | _, _, _, _ => none

/-- A stream's registers (R129). -/
def readStream (s : State) (g st x : Nat) : Option Nat :=
  let r := strm s g st
  match x with
  | 0x00 => some 0
  | 0x04 => some (strStatWord (core s g) st)
  | 0x08 => some r.pc.toNat
  | 0x0C => some r.fault.toNat
  | 0x10 => some r.faultPc.toNat
  | 0x14 => some r.faultInfo.toNat
  | _ => match place 0x40 8 16 x with
    | some (n, 0) => some (half64 (sreg r.sregs n) false)
    | some (n, 4) => some (half64 (sreg r.sregs n) true)
    | _ => none

/-- An engine's registers (R96, R107). -/
def readOte (s : State) (g e x : Nat) : Option Nat :=
  let o := ote s g e
  match x with
  | 0x00 => some (o.phase * 65536 + b2n o.swapLatched * 32768 + b2n (o.swapReady && !o.swapLatched) * 16384 + o.calState * 4096 + o.bench)
  | 0x04 => some (oldestAge s.now o * 65536 + swapWait s.now o)
  | 0x08 => some (o.lambdaT.toNat * 65536 + o.lambdaF.toNat)
  | 0x0C => some o.sigma1.toNat
  | 0x10 => some o.rowSel.toNat
  | 0x14 => some o.selCal.toNat
  | 0x18 => some o.selDrift.toNat
  | 0x1C => some o.selStat.toNat
  | 0x20 => some o.chanSel.toNat
  | 0x24 => some (o.selTrim.toNat % 65536)
  | _ => none

/-- A core's registers (R42). -/
def readCore (s : State) (g o : Nat) : Option Nat :=
  let k := core s g
  match o with
  | 0x000 => some (coreK g * 65536 + coreClu g * 4096 + coreHalf g * 256 + g)
  | 0x004 => some (coreStateWord k)
  | 0x008 => some k.fault.toNat
  | 0x00C => some k.eccCe.toNat
  | 0x010 => some k.eccUe.toNat
  | 0x014 => some k.eccAddr.toNat
  | 0x600 => some k.seqCfg.toNat
  | 0x604 =>
    let owned := k.state = .assigned
    let x := ctx s k.ctx
    some (if owned then x.modeEd.toNat * 65536 + b2n x.staged.isSome * 32768 + b2n (strm s g 1).arrived * 16384 else 0)
  | 0x608 => some (if k.state = .assigned then (Tbl.get 0xFFFFFFFF (ctx s k.ctx).marks k.vcore).toNat else 0xFFFFFFFF)
  | 0x3000 => some k.shadowCfg.toNat
  | 0x3004 => some k.shadowDrop
  | _ => match place 0x100 0x10 16 o, place 0x200 0x100 4 o, place 0x1000 0x800 4 o with
    | some (q, x), _, _ =>
      let t := queue s g q
      match x with
      | 0 => some t.cfg.toNat
      | 4 => some (t.rej * 65536 + t.ovf * 256 + t.toks.length)
      | 8 => some (t.toks.headD 0).toNat
      | 12 => some 0
      | _ => none
    | _, some (st, x), _ => readStream s g st x
    | _, _, some (e, x) => readOte s g e x
    | _, _, _ => none

/-- The halves: a core that is ABSENT or FENCED reads 0 but for CORE_ID and CORE_STATE (R201). -/
def readHalf (s : State) (off : Nat) : Option Nat :=
  let c := (if 0xC00000 ≤ off then 8 else 0) + off % 0x400000 / 0x80000
  let o := off % 0x80000
  let v := match coreOfOff off with
    | some g => readCore s g (o % 0x8000)
    | none => if o < 0x8000 then readClu s c o else none
  let v := match v with
    | some x => some x
    | none => readCounter s off
  if coreDead s off ∧ 8 ≤ o % 0x8000 then v.map fun _ => 0 else v

/-! ### The map (R212) -/

/-- A register's value by its BAR0 offset; none where no register is listed. -/
def readMap (s : State) (off : Nat) : Option Nat :=
  let o := off % 0x10000
  if 0x1000000 ≤ off then none
  else if 0x800000 ≤ off then readHalf s off
  else if 0x500000 ≤ off then none
  else if 0x400000 ≤ off then readCtl s (off - 0x400000)
  else if 0x300000 ≤ off then readEth s (off - 0x300000)
  else if 0x200000 ≤ off then readSteer s (off - 0x200000)
  else if 0x100000 ≤ off then
    let p := off / 0x10000 - 0x10
    if planeCount s ≤ p then none else readFab s p o
  else match off / 0x10000 with
    | 0 => readKeeper s o
    | 1 => readId s o
    | 2 => readRing s o
    | 3 => readMsix s o
    | 4 => readTime s o
    | 5 => readLog s o
    | 6 => readTally s o
    | 7 => readPwr s o
    | 8 => readRst s o
    | 9 => readCkpt s o
    | 10 => readUpd s o
    | 11 => readDdr s o
    | _ => none

/-- The implemented bits of a PW register; none where the register is not PW. -/
def pwMask (off : Nat) : Option Word :=
  if off = 0x40014 then some 0xFFFFFFFF
  else if off = 0x40018 then some 0x00010FFF
  else if off = 0x40020 ∨ off = 0x40024 then some 0xFFFFFFFF
  else if off = 0x40028 then some 1
  else if off = 0x70010 then some 0x0FFF007F
  else if off = 0x90004 then some 0x07FFFFFF
  else if off = 0x90008 then some 0x1F
  else if off = 0x400008 ∨ off = 0x40000C then some 1
  else if 0x100000 ≤ off ∧ off < 0x200000 then
    match off % 0x10000 with
    | 0x0020 => some 0x80000000
    | 0x0024 => some 0x00FFFFFF
    | 0x1400 => some 0x0001FFFF
    | 0x1404 => some 0x0000FFFF
    | _ => none
  else match place 0x40100 0x10 8 off, place 0x40200 0x20 4 off, place 0x300100 0x40 4 off with
    | some (_, 0), _, _ => some 0xFFFFFFFF
    | some (_, 4), _, _ => some 0xFFFFFFFF
    | some (_, 8), _, _ => some 1
    | _, some (_, 0x00), _ => some 0xFFFFFFFF
    | _, some (_, 0x04), _ => some 0xFFFFFFFF
    | _, some (_, 0x08), _ => some 0xFFFFFFFF
    | _, some (_, 0x0C), _ => some 0xFFFFFFFF
    | _, some (_, 0x10), _ => some 1
    | _, _, some (_, 0) => some 0x80FFFF00
    | _, _, _ => none

/-- PW registers whose fields start an action, so that their block holds no value of them (R6): TIME_STEP_CTL, FAB_COMB_CMD, ULL_CTL, and the
enables of the time outputs and of the Ethernet ports. -/
def actionPw (off : Nat) : Bool :=
  off == 0x40028 || (decide (0x100000 ≤ off ∧ off < 0x200000) && (off % 0x10000 == 0x20 || off % 0x10000 == 0x1404))
    || (match place 0x40200 0x20 4 off, place 0x300100 0x40 4 off with
        | some (_, 0x10), _ => true
        | _, some (_, 0) => true
        | _, _ => false)

/-- The state whose registers a block held in reset reads (R201): reset values, cores as the good-core map and the fence list place them. -/
def heldState (s : State) : State :=
  (List.range 144).foldl placeCore { State.reset with idb := { deviceL := s.idb.deviceL, good := s.idb.good, fenceList := s.idb.fenceList } }

/-- A register's value with its PW bits as last accepted: those of a write that waits, or of one whose fields start an action (R6, R205). -/
def withPw (s : State) (off v : Nat) : Nat :=
  match pwMask off, (s.idb.pw.find? fun w => w.off = off), actionPw off with
  | some m, some w, _ => ((BitVec.ofNat 32 v &&& ~~~m) ||| w.value).toNat
  | some m, none, true => ((BitVec.ofNat 32 v &&& ~~~m) ||| Tbl.get 0 s.idb.pwLast off).toNat
  | _, _, _ => v

/-- A read as it returns: the reset value in a block held in reset (R201), PW fields as last accepted. -/
def readReg (s : State) (off : Nat) : Option Nat :=
  if blockHeld s off then readMap (heldState s) off else (readMap s off).map (withPw s off)

/-! ### Acceptance (R199, R200) -/


/-- Whether an access lies in the MSI-X table or the PBA. -/
def inMsix (off : Nat) : Bool := decide (0x30000 ≤ off ∧ off < 0x30810)

/-- Why a request is refused, by cause code; 0: it is accepted. -/
def refusal (s : State) (off lenDw : Nat) (be : BitVec 4) : Nat :=
  if be ≠ 0xF ∨ off % 4 ≠ 0 then 1
  else if lenDw ≠ 1 ∧ ¬ (lenDw = 2 ∧ inMsix off ∧ off % 8 = 0) then 2
  else if 0x100000 ≤ off ∧ off < 0x200000 ∧ planeCount s ≤ off / 0x10000 - 0x10 then 4
  else if (readMap s off).isSome then 0 else 3

/-- A refused request: counted, recorded, logged at most once per ms, reported through AER with its header (R175, R200); a read completes with
Completer Abort. -/
def refuseReq (write : Bool) (off lenDw : Nat) (be : BitVec 4) (cause : Nat) (s : State) : State :=
  let s := countHub 3 0 false { s with idb := { s.idb with
    busErr := incSat s.idb.busErr 1, busErrLast := BitVec.ofNat 32 (b2n write * 0x80000000 + cause * 0x10000000 + off % 0x2000000) } }
  let s := logRate (0x0101 * 4096) 1000000 0x0101 0x0100 off (b2n write) cause lenDw s
  let s := aer ⟨4, write, off, lenDw, be.toNat⟩ s
  if write then s else send .completion 3 [off] s

/-- What a read of an RC register clears, and what a read of TIME_NOW_LO captures. -/
def readEffect (off : Nat) (s : State) : State :=
  if off = 0x10208 then { s with idb := { s.idb with testRc := 0 } }
  else if off = 0x4002C then onTime (fun t => { t with alarmStat := 0 }) s
  else if off = 0x40004 then onTime (fun t => { t with nowNs := t.ns, nowFrac := t.frac }) s
  else if 0x800000 ≤ off ∧ off % 0x8000 = 8 ∧ coreDead s off = false then
    match coreOfOff off with
    | some g => updCore g (fun k => { k with fault := 0 }) s
    | none => updClu ((if 0xC00000 ≤ off then 8 else 0) + off % 0x400000 / 0x80000) (fun k => { k with fault := 0 }) s
  else s

/-- An accepted read of one or two words: TIME_NOW_LO captures first, an RC register is cleared behind the value returned. -/
def serveRead (off lenDw : Nat) (s : State) : State :=
  let s := countHub 2 0 false s
  let s := if off = 0x40004 ∧ blockHeld s off = false then readEffect off s else s
  let vs := (List.range lenDw).map fun i => (readReg s (off + 4 * i)).getD 0
  let s := send .completion 0 (off :: vs) s
  if blockHeld s off then s else readEffect off s

/-- A BAR0 read: refused, or served. -/
def bar0Read (off lenDw : Nat) (be : BitVec 4) (s : State) : State :=
  onBar false off lenDw s fun s =>
    let cause := refusal s off lenDw be
    if cause = 0 then serveRead off lenDw s else refuseReq false off lenDw be cause s

/-- A read: of a register, an RC register in the row's case, of 64 bits of the MSI-X table or PBA (R177), or of a doorbell (R182). -/
def execRcRead (q : ReadReq) (s : State) : Out :=
  match q with
  | .bar0 off lenDw => .next (bar0Read off lenDw 0xF s)
  | .doorbell off size => .next (onBar false off size s fun s => send .completion 0 (off :: doorbellValue s off size) s)

/-- A read that R200 refuses. -/
def execBar0ReadRefused (off lenDw : Nat) (be : BitVec 4) (s : State) : Out := .next (bar0Read off lenDw be s)

/-! ### Posted writes (R205) -/

/-- A block's BUSY bound in µs; that of TIME, 50 ns, reads 0. -/
def pwBound (off : Nat) : Nat :=
  match blockHigh off with
  | 4 => 0 | 7 => 20 | 9 => 10 | 0x30 => 1 | 0x40 => 1 | _ => 5

/-- A write to a PW register: discarded while BUSY, and for TIME_INCR_ADJ and TIME_STEP_CTL outside MANUAL (R362). -/
def pwAccept (off : Nat) (mask v : Word) (s : State) : State :=
  if (blockPw s off).isSome then logRec 0x0102 (blockSrc off) off v.toNat 0 0 s
  else if (off = 0x40014 ∨ off = 0x40028) ∧ s.time.state ≠ .manual then notManual off v.toNat s
  else
    let w : PwWrite := { off := off, value := v &&& mask, before := BitVec.ofNat 32 ((readReg s off).getD 0) &&& mask }
    { s with idb := { s.idb with pw := s.idb.pw ++ [w], pwLast := if actionPw off then Tbl.set s.idb.pwLast off w.value else s.idb.pwLast } }

/-- Whether the selected source is still enabled in SRC_EN. -/
def sourceEnabled (s : State) : Bool :=
  match s.time.source with
  | 0 => true
  | 1 => srcEn s 0
  | 2 => srcEn s 1
  | 3 => srcEn s 2
  | _ => srcEn s 1 && srcEn s 2

/-- TIME_CFG in effect. -/
def timeCfg (v : Word) (s : State) : State :=
  let was := s.time.state = .manual
  let s := onTime (fun t => { t with cfg := v }) s
  if bit v 16 then (if was then s else manualOn s)
  else
    let s := if was then manualOff s else s
    if sourceEnabled s then reselect s else loseSource s

/-- The low or the high word of a 64-bit register replaced. -/
def put64 (old : DWord) (hi : Bool) (v : Word) : DWord :=
  if hi then v ++ old.extractLsb' 0 32 else old.extractLsb' 32 32 ++ v

/-- A TIME register in effect. -/
def timeEffect (o : Nat) (v : Word) (s : State) : State :=
  let onAlarm := fun a (f : Alarm → Alarm) => onTime (fun t => { t with alarms := Tbl.set t.alarms a (f (alarm s a)) }) s
  match o with
  | 0x14 => onTime (fun t => { t with incrAdj := v }) s
  | 0x18 => timeCfg v s
  | 0x20 => onTime (fun t => { t with stepLo := v }) s
  | 0x24 => onTime (fun t => { t with stepHi := v }) s
  | 0x28 => if bit v 0 then after (execTimeStepGo s) s else s
  | _ => match place 0x100 0x10 8 o, place 0x200 0x20 4 o with
    | some (a, 0), _ => onAlarm a fun k => { k with target := put64 k.target false v }
    | some (a, 4), _ => onAlarm a fun k => { k with target := put64 k.target true v }
    | some (a, 8), _ => if bit v 0 then onAlarm a fun k => { k with armed := true } else s
    | _, some (n, 0x00) => setTod n { tod s n with start := put64 (tod s n).start false v } s
    | _, some (n, 0x04) => setTod n { tod s n with start := put64 (tod s n).start true v } s
    | _, some (n, 0x08) => setTod n { tod s n with period := v } s
    | _, some (n, 0x0C) => setTod n { tod s n with width := v } s
    | _, some (n, 0x10) =>
      if bit v 0 then after (execTodEnable (Fin.ofNat 4 n) s) s else after (execTodDisable (Fin.ofNat 4 n) s) s
    | _, _ => s

/-- ETH_PORT_CTL_p in effect. -/
def ethCtl (p : Nat) (v : Word) (s : State) : State :=
  let k := eth s p
  let s := setEth p { k with ctl := (k.ctl &&& 0x80000000) ||| (v &&& 0x00FFFF00) } s
  if bit v 31 then ethEnable p s else if bit k.ctl 31 then ethDisable p s else s

/-- A FAB register in effect. -/
def fabEffect (p o : Nat) (v : Word) (s : State) : State :=
  match o with
  | 0x0020 => if bit v 31 then combGo p s else s
  | 0x0024 => updFab p (fun f => { f with handCfg := v }) s
  | 0x1400 => updFab p (fun f => { f with ullCfg := v }) s
  | 0x1404 => ((List.range 16).filter fun l => bit v l).foldl (fun s l => retrainBit p l s) s
  | _ => s

/-- A posted write takes effect in its block. -/
def pwEffect (off : Nat) (v : Word) (s : State) : State :=
  if 0x400000 ≤ off then
    onPins (fun p => if off = 0x400008 then { p with ctlCfg := v } else { p with led := v }) s
  else if 0x300000 ≤ off then ethCtl ((off - 0x300100) / 0x40) v s
  else if 0x100000 ≤ off then fabEffect (off / 0x10000 - 0x10) (off % 0x10000) v s
  else if off = 0x70010 then onPwr (fun p => { p with cfg := v }) s
  else if off = 0x90004 then onCkpt (fun t => { t with cfg := v }) s
  else if off = 0x90008 then onCkpt (fun t => { t with drain := v }) s
  else timeEffect (off - 0x40000) v s

/-- The write of a register that waits. -/
def takePw (off : Nat) (s : State) : Option (PwWrite × State) :=
  match s.idb.pw.find? fun w => w.off = off with
  | some w => some (w, { s with idb := { s.idb with pw := s.idb.pw.filter fun x => x.off ≠ off } })
  | none => none

/-- The target clock domain applies the value, and BUSY returns to 0. -/
def execPwWriteEffect (off : Nat) (s : State) : Out :=
  match takePw off s with
  | some (w, s) => if blockHeld s off then .next s else .next (pwEffect off w.value s)
  | none => .next s

/-- The target has not applied the value within ten times the bound: 0x0103. -/
def execPwWriteDrop (off : Nat) (s : State) : Out :=
  match takePw off s with
  | some (w, s) =>
    let s := if actionPw off then { s with idb := { s.idb with pwLast := Tbl.set s.idb.pwLast off w.before } } else s
    .next (logRec 0x0103 (blockSrc off) off w.value.toNat (pwBound off) 0 s)
  | none => .next s

/-! ### Other writes -/

/-- ID_TEST_SET. -/
def testSet (v : Word) (s : State) : State := { s with idb := { s.idb with testRc := s.idb.testRc ||| BitVec.ofNat 16 v.toNat } }

/-- A write to ID_TEST_SET. -/
def execIdTestSet (v : Word) (s : State) : Out := .next (testSet v s)

/-- ID_TEST_MW (R207). -/
def testMwWrite (v : Word) (s : State) : State :=
  let m : Half16 := v.extractLsb' 16 16
  let x : Half16 := v.extractLsb' 0 16
  { s with idb := { s.idb with testMw := (s.idb.testMw &&& ~~~m) ||| (x &&& m) } }

/-- A keeper register: the staged copy (R194), COMMIT. -/
def keeperWrite (o : Nat) (v : Word) (s : State) : State :=
  if o = 0 then after (execProtCommit v s) s
  else match keeperMask o with
    | some m => { s with hst := { s.hst with staged := Tbl.set s.hst.staged o (v &&& m) } }
    | none => s

/-- A ring register that may be written only while the ring is DISABLED (R193). -/
def ringConfig (r x : Nat) (v : Word) (s : State) : State :=
  let k := ring s r
  if k.state ≠ .disabled then logRec 0x0202 r r x v.toNat (ringCode k.state) s
  else match x with
    | 0x00 => setRing r { k with sqLo := v &&& 0xFFFFF000 } s
    | 0x04 => setRing r { k with sqHi := v } s
    | 0x08 => setRing r { k with cqLo := v &&& 0xFFFFF000 } s
    | 0x0C => setRing r { k with cqHi := v } s
    | _ => setRing r { k with cfg := v &&& 0x00FF07F7 } s

/-- A ring register. -/
def ringWrite (o : Nat) (v : Word) (s : State) : State :=
  match place 0 0x40 64 o with
  | none => s
  | some (r, x) =>
    if x ≤ 0x10 then ringConfig r x v s
    else if x = 0x14 then updRing r (fun k => { k with mod := v &&& 0x00FFFFFF }) s
    else if x = 0x18 then
      if bit v 0 then after (execRingEnable (Fin.ofNat 64 r) s) s else after (execRingDisable (Fin.ofNat 64 r) s) s
    else s

/-- One word of the MSI-X table; the PBA ignores writes. Vectors that this unmasks are sent. -/
def msixWrite (o : Nat) (v : Word) (s : State) : State :=
  if 0x800 ≤ o then s
  else
    let m : Word := if o % 16 = 0 then 0xFFFFFFFC else if o % 16 = 12 then 1 else 0xFFFFFFFF
    flushMsix { s with hst := { s.hst with msix := Tbl.set s.hst.msix o (v &&& m) } }

/-- A TALLY register. -/
def tallyWrite (o : Nat) (v : Word) (s : State) : State :=
  let off := 0x060000 + o
  let on := s.tally.enabled || s.tally.draining
  match o with
  | 0x000 => after (execSnapshotCmd v s) s
  | 0x010 => onTally (fun t => { t with period := v &&& 0xFFFFF, periodAt := s.now }) s
  | 0x020 => if bit v 31 then after (execSamplingEnable v s) s else after (execSamplingDisable v s) s
  | 0x024 => if on then sampDiscard off v s else onTally (fun t => { t with sampSeed := v }) s
  | 0x028 => if on then sampDiscard off v s else onTally (fun t => { t with sampBase := v &&& 0x7FFFF }) s
  | 0x02C => if on then sampDiscard off v s else onTally (fun t => { t with sampSize := v &&& 0x3FF }) s
  | 0x034 => onTally (fun t => { t with sampRead := v }) s
  | _ => match place 0x040 4 5 o with
    | some (w, 0) =>
      let m : Word := if w = 4 then 0xFFFF else 0xFFFFFFFF
      let was := Tbl.get 0 s.tally.sampCores w
      let s := onTally (fun t => { t with sampCores := Tbl.set t.sampCores w (v &&& m) }) s
      if s.tally.enabled then ((List.range 32).filter fun b => bit (v &&& m) b && !bit was b).foldl (fun s b => seedCore s (32 * w + b)) s else s
    | _ => after (execCounterCfgWrite off v s) s

/-- RST_CMD (R346): a module reset without NODUMP writes a dump first (R343). -/
def rstCmd (v : Word) (s : State) : State :=
  let kind := fld v 20 3
  let index := fld v 0 16
  if kind = 0 then s
  else if 6 ≤ kind then
    if fld v 24 8 ≠ 0x5A ∨ domainOk s kind index = false then logRec 0x0804 (resetSrc kind index) 3 kind index 0 s
    else
      let s := if bit v 23 then s else logRec 0x0806 0x0800 6 0 0 0 (onRst (fun t => { t with dumpPending := some 6, dumpWell := 0 }) s)
      trigReset kind index 1 s
  else trigReset kind index 1 s

/-- An RST register. -/
def rstWrite (o : Nat) (v : Word) (s : State) : State :=
  match o with
  | 0x00 => rstCmd v s
  | 0x08 => after (execRstHangCfgWrite v s) s
  | 0x20 => after (execDumpClear v s) s
  | _ => s

/-- CTL_PTP_CFG: a disabled port stops exchanging messages, and its loss as SLAVE loses the source. -/
def ptpCfgWrite (v : Word) (s : State) : State :=
  let v := v &&& 0xFF3F
  let s := onTime (fun t => { t with ptpCfg := v, ports := t.ports.filter fun p => bit v p.1 }) s
  if s.time.slave < 5 ∧ bit v s.time.slave = false then
    if s.time.source = 2 ∨ s.time.source = 4 then loseSource s else onTime (fun t => { t with slave := 7 }) s
  else s

/-- A write to a register of a stream that may be written only while it neither runs nor stops (R129). -/
def streamWrite (g st x : Nat) (v : Word) (s : State) : State :=
  let r := strm s g st
  let off := 0x200 + 0x100 * st + x
  if x = 0 then
    let s := if bit v 30 then after (execStop (Fin.ofNat 144 g) (Fin.ofNat 4 st) v s) s else s
    if bit v 31 ∧ bit v 30 = false then after (execStart (Fin.ofNat 144 g) (Fin.ofNat 4 st) v s) s else s
  else if x ≠ 8 ∧ x < 0x40 then s
  else if r.state = .running ∨ r.state = .stopping then logCore g 0x41 st off v.toNat (strCode r.state) s
  else if x = 8 then setStrm g st { r with pc := v } s
  else
    let n := (x - 0x40) / 8
    setStrm g st (setSreg n (put64 (sreg r.sregs n) (x % 8 = 4) v) r) s

/-- A core's register. -/
def coreRegWrite (g o : Nat) (v : Word) (s : State) : State :=
  let gi := Fin.ofNat 144 g
  match o with
  | 0x600 => updCore g (fun k => { k with seqCfg := v &&& 0x1FFFF }) s
  | 0x3000 => updCore g (fun k => { k with shadowCfg := v &&& 0x1F }) s
  | _ => match place 0x100 0x10 16 o, place 0x200 0x100 4 o, place 0x1000 0x800 4 o with
    | some (q, 0), _, _ => after (execCoreTqCfgWrite gi (Fin.ofNat 16 q) v s) s
    | some (q, 12), _, _ => after (execTqClear gi (Fin.ofNat 16 q) v s) s
    | _, some (st, x), _ => streamWrite g st x v s
    | _, _, some (e, 0x10) => after (execOteRowSelWrite gi (Fin.ofNat 4 e) v s) s
    | _, _, some (e, 0x20) => after (execOteChanSelWrite gi (Fin.ofNat 4 e) v s) s
    | _, _, _ => s

/-- A register of the halves; an ABSENT or FENCED core ignores writes. -/
def halfWrite (off : Nat) (v : Word) (s : State) : State :=
  let c := (if 0xC00000 ≤ off then 8 else 0) + off % 0x400000 / 0x80000
  if coreDead s off then s
  else if isCounter off then after (execCounterCfgWrite off v s) s
  else match coreOfOff off with
    | some g => coreRegWrite g (off % 0x8000) v s
    | none =>
      if off % 0x80000 = 0x1040 then after (execCopyListRestart (Fin.ofNat 16 c) v s) s
      else if off % 0x80000 = 0x2020 then after (execCluCombGo (Fin.ofNat 16 c) v s) s
      else s

/-- The effect of an accepted 32-bit write by the register's access type; a write of RO, RC, SNAP or reserved fields is ignored. -/
def writeReg (off : Nat) (v : Word) (s : State) : State :=
  let o := off % 0x10000
  if blockHeld s off then heldWrite off v s
  else match pwMask off with
    | some m => pwAccept off m v s
    | none =>
      if 0x800000 ≤ off then halfWrite off v s
      else if off = 0x401000 then ptpCfgWrite v s
      else if off = 0x200020 then { s with steer := { s.steer with cfg := v &&& 0x37F } }
      else if 0x200000 ≤ off then s
      else if 0x100000 ≤ off then
        if o = 0x200 then after (execFabTapSelWrite (Fin.ofNat 16 (off / 0x10000 - 0x10)) v s) s
        else after (execCounterCfgWrite off v s) s
      else match off / 0x10000 with
        | 0 => keeperWrite o v s
        | 1 => if o = 0x200 then { s with idb := { s.idb with testRw := v } } else if o = 0x204 then testMwWrite v s
               else if o = 0x20C then testSet v s else s
        | 2 => ringWrite o v s
        | 3 => msixWrite o v s
        | 6 => tallyWrite o v s
        | 7 => if o = 0x14 then after (execClrExtremes v s) s else s
        | 8 => rstWrite o v s
        | 11 => if o = 0x10 then { s with ddr := { s.ddr with share := v &&& 0xFFFF } } else s
        | _ => s

/-- A BAR0 write: refused, or served. A 64-bit write of the MSI-X table or PBA is two words. -/
def execRegisterWrite (off lenDw : Nat) (be : BitVec 4) (v : DWord) (s : State) : Out :=
  .next (onBar true off lenDw s fun s =>
    let cause := refusal s off lenDw be
    if cause ≠ 0 then refuseReq true off lenDw be cause s
    else
      let s := countHub 2 0 false s
      let s := writeReg off (v.extractLsb' 0 32) s
      if lenDw = 2 then writeReg (off + 4) (v.extractLsb' 32 32) s else s)

end Sys2Proof.Machine
end

