-- ==== Sys2Proof/Machine/Dispatch.lean ====
section
/-! DEFINITION. What each command does: one arm per constructor of Instr. -/

namespace Sys2Proof.Machine

def exec (i : Instr) (s : State) : Host.Outcome State Fault Refusal :=
  match i with
  | .signal g st => Sys2Proof.Machine.execSignal g st s
  | .signalResume g st => Sys2Proof.Machine.execSignalResume g st s
  | .wait g st => Sys2Proof.Machine.execWait g st s
  | .waitResume g st => Sys2Proof.Machine.execWaitResume g st s
  | .remoteTokenArrival src ctx gen g q payload => Sys2Proof.Machine.execRemoteTokenArrival src ctx gen g q payload s
  | .coreTqCfgWrite g q v => Sys2Proof.Machine.execCoreTqCfgWrite g q v s
  | .tqClear g q v => Sys2Proof.Machine.execTqClear g q v s
  | .routerBeat c inp out rsp needs held parity => Sys2Proof.Machine.execRouterBeat c inp out rsp needs held parity s
  | .sramCeRateExpiry g => Sys2Proof.Machine.execSramCeRateExpiry g s
  | .scrubComplete g selftestOk => Sys2Proof.Machine.execScrubComplete g selftestOk s
  | .loadw g st => Sys2Proof.Machine.execLoadw g st s
  | .loadwReadStart g e => Sys2Proof.Machine.execLoadwReadStart g e s
  | .loadwReadEnd g e ecc => Sys2Proof.Machine.execLoadwReadEnd g e ecc s
  | .loadwWriteStart g e => Sys2Proof.Machine.execLoadwWriteStart g e s
  | .loadwComplete g e => Sys2Proof.Machine.execLoadwComplete g e s
  | .flip g st => Sys2Proof.Machine.execFlip g st s
  | .flipStart g e => Sys2Proof.Machine.execFlipStart g e s
  | .flipComplete g e => Sys2Proof.Machine.execFlipComplete g e s
  | .swapCopyEnd g e => Sys2Proof.Machine.execSwapCopyEnd g e s
  | .mvm g st => Sys2Proof.Machine.execMvm g st s
  | .mvmStart g e => Sys2Proof.Machine.execMvmStart g e s
  | .outputTileReady g e held ecc => Sys2Proof.Machine.execOutputTileReady g e held ecc s
  | .writeBufferResume g e => Sys2Proof.Machine.execWriteBufferResume g e s
  | .mvmComplete g e => Sys2Proof.Machine.execMvmComplete g e s
  | .reissueFeedStop g e => Sys2Proof.Machine.execReissueFeedStop g e s
  | .reissueRun g e => Sys2Proof.Machine.execReissueRun g e s
  | .reissueResume g e => Sys2Proof.Machine.execReissueResume g e s
  | .dveRecomputeDone g e ecc => Sys2Proof.Machine.execDveRecomputeDone g e ecc s
  | .shadowVectorDone g e => Sys2Proof.Machine.execShadowVectorDone g e s
  | .failTileLogFlush g e => Sys2Proof.Machine.execFailTileLogFlush g e s
  | .calPhaseEnd g e ms => Sys2Proof.Machine.execCalPhaseEnd g e ms s
  | .swapReadyDeferred g e => Sys2Proof.Machine.execSwapReadyDeferred g e s
  | .exerciseBurst g e => Sys2Proof.Machine.execExerciseBurst g e s
  | .swapWaitAlarm g e => Sys2Proof.Machine.execSwapWaitAlarm g e s
  | .lockLost el => Sys2Proof.Machine.execLockLost el s
  | .relockComplete el => Sys2Proof.Machine.execRelockComplete el s
  | .pilotCheckEnd el res => Sys2Proof.Machine.execPilotCheckEnd el res s
  | .combRelockTimeout c n => Sys2Proof.Machine.execCombRelockTimeout c n s
  | .governorIntervalEnd c want => Sys2Proof.Machine.execGovernorIntervalEnd c want s
  | .combPowerCheck c n loss line lineLoss => Sys2Proof.Machine.execCombPowerCheck c n loss line lineLoss s
  | .cluCombGo c v => Sys2Proof.Machine.execCluCombGo c v s
  | .handoverStandbyLocked c => Sys2Proof.Machine.execHandoverStandbyLocked c s
  | .handoverEnginesHeld c => Sys2Proof.Machine.execHandoverEnginesHeld c s
  | .handoverHoldTimeout c => Sys2Proof.Machine.execHandoverHoldTimeout c s
  | .handoverSwitchDone c => Sys2Proof.Machine.execHandoverSwitchDone c s
  | .handoverConfirmEnd c inRange fitOk trims => Sys2Proof.Machine.execHandoverConfirmEnd c inRange fitOk trims s
  | .handoverRetry c => Sys2Proof.Machine.execHandoverRetry c s
  | .oteRowSelWrite g e v => Sys2Proof.Machine.execOteRowSelWrite g e v s
  | .oteChanSelWrite g e v => Sys2Proof.Machine.execOteChanSelWrite g e v s
  | .nop g st => Sys2Proof.Machine.execNop g st s
  | .halt g st => Sys2Proof.Machine.execHalt g st s
  | .rsignal g st => Sys2Proof.Machine.execRsignal g st s
  | .li g st => Sys2Proof.Machine.execLi g st s
  | .alu g st => Sys2Proof.Machine.execAlu g st s
  | .br g st => Sys2Proof.Machine.execBr g st s
  | .rdsys g st => Sys2Proof.Machine.execRdsys g st s
  | .fence g st => Sys2Proof.Machine.execFence g st s
  | .releaseComplete g st => Sys2Proof.Machine.execReleaseComplete g st s
  | .get g st => Sys2Proof.Machine.execGet g st s
  | .getComplete g ix ecc => Sys2Proof.Machine.execGetComplete g ix ecc s
  | .put g st => Sys2Proof.Machine.execPut g st s
  | .putComplete g ix ecc => Sys2Proof.Machine.execPutComplete g ix ecc s
  | .stepmark g st => Sys2Proof.Machine.execStepmark g st s
  | .modesync g st => Sys2Proof.Machine.execModesync g st s
  | .modeEditionTimeout c => Sys2Proof.Machine.execModeEditionTimeout c s
  | .vew g st => Sys2Proof.Machine.execVew g st s
  | .vfma g st => Sys2Proof.Machine.execVfma g st s
  | .vun g st => Sys2Proof.Machine.execVun g st s
  | .vred g st => Sys2Proof.Machine.execVred g st s
  | .vcvt g st => Sys2Proof.Machine.execVcvt g st s
  | .vmm g st => Sys2Proof.Machine.execVmm g st s
  | .vstat g st => Sys2Proof.Machine.execVstat g st s
  | .vectorComplete g ecc => Sys2Proof.Machine.execVectorComplete g ecc s
  | .fetchFill g st ecc => Sys2Proof.Machine.execFetchFill g st ecc s
  | .start g st v => Sys2Proof.Machine.execStart g st v s
  | .stop g st v => Sys2Proof.Machine.execStop g st v s
  | .streamStopped g st => Sys2Proof.Machine.execStreamStopped g st s
  | .ddrReadRequest req u res held delayed => Sys2Proof.Machine.execDdrReadRequest req u res held delayed s
  | .ddrWriteRequest req u off data held delayed => Sys2Proof.Machine.execDdrWriteRequest req u off data held delayed s
  | .stripeGatherTimeout stripe => Sys2Proof.Machine.execStripeGatherTimeout stripe s
  | .patrolScrubStep res => Sys2Proof.Machine.execPatrolScrubStep res s
  | .watchClearTimeout ch => Sys2Proof.Machine.execWatchClearTimeout ch s
  | .deviceFailed ch cause => Sys2Proof.Machine.execDeviceFailed ch cause s
  | .ddrRetire r => Sys2Proof.Machine.execDdrRetire r s
  | .migrationChunk => Sys2Proof.Machine.execMigrationChunk s
  | .guardRegionZero reg => Sys2Proof.Machine.execGuardRegionZero reg s
  | .copy r => Sys2Proof.Machine.execCopy r s
  | .fill r => Sys2Proof.Machine.execFill r s
  | .paged r => Sys2Proof.Machine.execPaged r s
  | .copyDescriptorStart eng => Sys2Proof.Machine.execCopyDescriptorStart eng s
  | .copyDescriptorComplete eng ecc => Sys2Proof.Machine.execCopyDescriptorComplete eng ecc s
  | .copyListWake c ctx => Sys2Proof.Machine.execCopyListWake c ctx s
  | .copyListRestart c v => Sys2Proof.Machine.execCopyListRestart c v s
  | .functionLevelReset => Sys2Proof.Machine.execFunctionLevelReset s
  | .hotReset => Sys2Proof.Machine.execHotReset s
  | .linkDownTimeout => Sys2Proof.Machine.execLinkDownTimeout s
  | .busMasterEnableChange bme d3hot mse ctl => Sys2Proof.Machine.execBusMasterEnableChange bme d3hot mse ctl s
  | .hostReadFailure who why bus => Sys2Proof.Machine.execHostReadFailure who why bus s
  | .poisonedTlpReceived who bus => Sys2Proof.Machine.execPoisonedTlpReceived who bus s
  | .bar4Read off len => Sys2Proof.Machine.execBar4Read off len s
  | .bar4Write off data => Sys2Proof.Machine.execBar4Write off data s
  | .sqTailDoorbell off size v => Sys2Proof.Machine.execSqTailDoorbell off size v s
  | .cqHeadDoorbell off size v => Sys2Proof.Machine.execCqHeadDoorbell off size v s
  | .ringFetchComplete r => Sys2Proof.Machine.execRingFetchComplete r s
  | .msixTimeExpiry r => Sys2Proof.Machine.execMsixTimeExpiry r s
  | .ringEnable r => Sys2Proof.Machine.execRingEnable r s
  | .ringDisable r => Sys2Proof.Machine.execRingDisable r s
  | .ringDrainComplete r => Sys2Proof.Machine.execRingDrainComplete r s
  | .post r => Sys2Proof.Machine.execPost r s
  | .awaitStep r => Sys2Proof.Machine.execAwaitStep r s
  | .awaitDone r => Sys2Proof.Machine.execAwaitDone r s
  | .ctxCreate r => Sys2Proof.Machine.execCtxCreate r s
  | .ctxStart r => Sys2Proof.Machine.execCtxStart r s
  | .ctxTeardown r => Sys2Proof.Machine.execCtxTeardown r s
  | .teardownComplete c => Sys2Proof.Machine.execTeardownComplete c s
  | .modeStage r => Sys2Proof.Machine.execModeStage r s
  | .coreFence r => Sys2Proof.Machine.execCoreFence r s
  | .fenceClear r => Sys2Proof.Machine.execFenceClear r s
  | .protCommit v => Sys2Proof.Machine.execProtCommit v s
  | .protSetRetire ed => Sys2Proof.Machine.execProtSetRetire ed s
  | .registerWrite off lenDw be v => Sys2Proof.Machine.execRegisterWrite off lenDw be v s
  | .rcRead q => Sys2Proof.Machine.execRcRead q s
  | .pwWriteEffect off => Sys2Proof.Machine.execPwWriteEffect off s
  | .pwWriteDrop off => Sys2Proof.Machine.execPwWriteDrop off s
  | .idTestSet v => Sys2Proof.Machine.execIdTestSet v s
  | .laneRetuneComplete p l rx => Sys2Proof.Machine.execLaneRetuneComplete p l rx s
  | .rxPowerLow p l cdbm => Sys2Proof.Machine.execRxPowerLow p l cdbm s
  | .tapRefresh p reads means => Sys2Proof.Machine.execTapRefresh p reads means s
  | .fabCombGo p => Sys2Proof.Machine.execFabCombGo p s
  | .fabSpareLocked p => Sys2Proof.Machine.execFabSpareLocked p s
  | .fabLowTraffic p load => Sys2Proof.Machine.execFabLowTraffic p load s
  | .fabHandoverWindowExpiry p => Sys2Proof.Machine.execFabHandoverWindowExpiry p s
  | .fabHandoverDrainDone p => Sys2Proof.Machine.execFabHandoverDrainDone p s
  | .fabHandoverDrainTimeout p => Sys2Proof.Machine.execFabHandoverDrainTimeout p s
  | .fabSwitchDone p => Sys2Proof.Machine.execFabSwitchDone p s
  | .fabRelockDone p ok stallUs => Sys2Proof.Machine.execFabRelockDone p ok stallUs s
  | .fabHandoverRetry p => Sys2Proof.Machine.execFabHandoverRetry p s
  | .fabCombRelockTimeout p => Sys2Proof.Machine.execFabCombRelockTimeout p s
  | .fabTapSelWrite p v => Sys2Proof.Machine.execFabTapSelWrite p v s
  | .trainingPhaseComplete p l f ber us => Sys2Proof.Machine.execTrainingPhaseComplete p l f ber us s
  | .trainingPhaseTimeout p l cause => Sys2Proof.Machine.execTrainingPhaseTimeout p l cause s
  | .codeSwitch p l => Sys2Proof.Machine.execCodeSwitch p l s
  | .shortCodeBerExceeded p l => Sys2Proof.Machine.execShortCodeBerExceeded p l s
  | .flitSlot p l => Sys2Proof.Machine.execFlitSlot p l s
  | .idle h type payload => Sys2Proof.Machine.execIdle h type payload s
  | .writeSegment h d => Sys2Proof.Machine.execWriteSegment h d s
  | .tokenOnly h d => Sys2Proof.Machine.execTokenOnly h d s
  | .readResp h d => Sys2Proof.Machine.execReadResp h d s
  | .data h tag index last bytes => Sys2Proof.Machine.execData h tag index last bytes s
  | .rdreq h d => Sys2Proof.Machine.execRdreq h d s
  | .notice h es => Sys2Proof.Machine.execNotice h es s
  | .noticeFlush p l => Sys2Proof.Machine.execNoticeFlush p l s
  | .ctrl h kind msgid frag lastFrag bytes => Sys2Proof.Machine.execCtrl h kind msgid frag lastFrag bytes s
  | .genChange sender pctx newGen oldGen => Sys2Proof.Machine.execGenChange sender pctx newGen oldGen s
  | .lane h rep => Sys2Proof.Machine.execLane h rep s
  | .laneReportDue p l ber10s ber1ms => Sys2Proof.Machine.execLaneReportDue p l ber10s ber1ms s
  | .beacon h b => Sys2Proof.Machine.execBeacon h b s
  | .beaconDue => Sys2Proof.Machine.execBeaconDue s
  | .ackTimeout p l => Sys2Proof.Machine.execAckTimeout p l s
  | .segmentTimeout m tag => Sys2Proof.Machine.execSegmentTimeout m tag s
  | .pairRetrainCmd p mask => Sys2Proof.Machine.execPairRetrainCmd p mask s
  | .surveySweepEnd frames => Sys2Proof.Machine.execSurveySweepEnd frames s
  | .chartPart h edition part parts crc bytes => Sys2Proof.Machine.execChartPart h edition part parts crc bytes s
  | .chartCommit => Sys2Proof.Machine.execChartCommit s
  | .chartApplyDeadline => Sys2Proof.Machine.execChartApplyDeadline s
  | .chartControlResend m => Sys2Proof.Machine.execChartControlResend m s
  | .staged h edition cause m => Sys2Proof.Machine.execStaged h edition cause m s
  | .applied h edition m us notUp => Sys2Proof.Machine.execApplied h edition m us notUp s
  | .surveyReport h m recs addr => Sys2Proof.Machine.execSurveyReport h m recs addr s
  | .surveyCmd h mask => Sys2Proof.Machine.execSurveyCmd h mask s
  | .lateModule m => Sys2Proof.Machine.execLateModule m s
  | .retryWaitExpiry m => Sys2Proof.Machine.execRetryWaitExpiry m s
  | .survey r => Sys2Proof.Machine.execSurvey r s
  | .chartRead r => Sys2Proof.Machine.execChartRead r s
  | .demand r passed => Sys2Proof.Machine.execDemand r passed s
  | .demandTimeout r => Sys2Proof.Machine.execDemandTimeout r s
  | .chartSubmit r => Sys2Proof.Machine.execChartSubmit r s
  | .loopTest r => Sys2Proof.Machine.execLoopTest r s
  | .loopTestEnd p ber unc => Sys2Proof.Machine.execLoopTestEnd p ber unc s
  | .leaseReq h b => Sys2Proof.Machine.execLeaseReq h b s
  | .leaseGrant h epoch holder solicited => Sys2Proof.Machine.execLeaseGrant h epoch holder solicited s
  | .leaseDeny h cause holder epoch => Sys2Proof.Machine.execLeaseDeny h cause holder epoch s
  | .leaseEnd h epoch cause => Sys2Proof.Machine.execLeaseEnd h epoch cause s
  | .released h epoch finalSeq => Sys2Proof.Machine.execReleased h epoch finalSeq s
  | .takeover h epoch holder prev kind => Sys2Proof.Machine.execTakeover h epoch holder prev kind s
  | .heartbeat h b => Sys2Proof.Machine.execHeartbeat h b s
  | .heartbeatAck h edition cfgFollows => Sys2Proof.Machine.execHeartbeatAck h edition cfgFollows s
  | .mirror rec => Sys2Proof.Machine.execMirror rec s
  | .mirrorAck seq => Sys2Proof.Machine.execMirrorAck seq s
  | .mirrorAckLate seq => Sys2Proof.Machine.execMirrorAckLate seq s
  | .snapshot base part parts recs => Sys2Proof.Machine.execSnapshot base part parts recs s
  | .eventReport h f => Sys2Proof.Machine.execEventReport h f s
  | .moduleEvent h m cause ctx newGen => Sys2Proof.Machine.execModuleEvent h m cause ctx newGen s
  | .bind h c bs => Sys2Proof.Machine.execBind h c bs s
  | .jobCtl h job c action step number => Sys2Proof.Machine.execJobCtl h job c action step number s
  | .jobReport h job b => Sys2Proof.Machine.execJobReport h job b s
  | .statusReq h chart => Sys2Proof.Machine.execStatusReq h chart s
  | .status h b => Sys2Proof.Machine.execStatus h b s
  | .podConfig h cfg => Sys2Proof.Machine.execPodConfig h cfg s
  | .probe h => Sys2Proof.Machine.execProbe h s
  | .ack h of => Sys2Proof.Machine.execAck h of s
  | .ackRetransmit of => Sys2Proof.Machine.execAckRetransmit of s
  | .leaseRenewDue => Sys2Proof.Machine.execLeaseRenewDue s
  | .candidacyDue => Sys2Proof.Machine.execCandidacyDue s
  | .holderLeaseTimerEnd => Sys2Proof.Machine.execHolderLeaseTimerEnd s
  | .arbiterLeaseExpiry => Sys2Proof.Machine.execArbiterLeaseExpiry s
  | .arbiterStartingEnd => Sys2Proof.Machine.execArbiterStartingEnd s
  | .rebuildStatusWait => Sys2Proof.Machine.execRebuildStatusWait s
  | .quietPointReturn => Sys2Proof.Machine.execQuietPointReturn s
  | .twinLost flapping => Sys2Proof.Machine.execTwinLost flapping s
  | .twinRestored => Sys2Proof.Machine.execTwinRestored s
  | .holdEntry => Sys2Proof.Machine.execHoldEntry s
  | .heartbeatDue => Sys2Proof.Machine.execHeartbeatDue s
  | .memberSilent m => Sys2Proof.Machine.execMemberSilent m s
  | .probeTimeout m => Sys2Proof.Machine.execProbeTimeout m s
  | .riskScoreUpdate berPairs ceCores => Sys2Proof.Machine.execRiskScoreUpdate berPairs ceCores s
  | .authorityClaim h => Sys2Proof.Machine.execAuthorityClaim h s
  | .authorityHeartbeatTimeout => Sys2Proof.Machine.execAuthorityHeartbeatTimeout s
  | .ckptRegister r => Sys2Proof.Machine.execCkptRegister r s
  | .ckptBegin r => Sys2Proof.Machine.execCkptBegin r s
  | .journal r => Sys2Proof.Machine.execJournal r s
  | .drain r => Sys2Proof.Machine.execDrain r s
  | .restore r => Sys2Proof.Machine.execRestore r s
  | .restoreComplete c status sect gran ms img => Sys2Proof.Machine.execRestoreComplete c status sect gran ms img s
  | .target r => Sys2Proof.Machine.execTarget r s
  | .targetConnected r => Sys2Proof.Machine.execTargetConnected r s
  | .abort r => Sys2Proof.Machine.execAbort r s
  | .invalidate r => Sys2Proof.Machine.execInvalidate r s
  | .fullFreezeComplete c us => Sys2Proof.Machine.execFullFreezeComplete c us s
  | .periodicCheckpoint c => Sys2Proof.Machine.execPeriodicCheckpoint c s
  | .granuleCopy c => Sys2Proof.Machine.execGranuleCopy c s
  | .copyAheadRelease c => Sys2Proof.Machine.execCopyAheadRelease c s
  | .locatorWriteComplete c ms => Sys2Proof.Machine.execLocatorWriteComplete c ms s
  | .drainComplete c slotB ms => Sys2Proof.Machine.execDrainComplete c slotB ms s
  | .drainFail c slotB cause nvme => Sys2Proof.Machine.execDrainFail c slotB cause nvme s
  | .miniWriteComplete us => Sys2Proof.Machine.execMiniWriteComplete us s
  | .coreReset g cause => Sys2Proof.Machine.execCoreReset g cause s
  | .clusterReset c cause => Sys2Proof.Machine.execClusterReset c cause s
  | .halfReset h cause => Sys2Proof.Machine.execHalfReset h cause s
  | .computeReset cause => Sys2Proof.Machine.execComputeReset cause s
  | .fabricLaneReset p l cause => Sys2Proof.Machine.execFabricLaneReset p l cause s
  | .moduleWarmReset cause => Sys2Proof.Machine.execModuleWarmReset cause s
  | .moduleColdReset cause => Sys2Proof.Machine.execModuleColdReset cause s
  | .resetDrainEnd => Sys2Proof.Machine.execResetDrainEnd s
  | .resetSampleWritten => Sys2Proof.Machine.execResetSampleWritten s
  | .resetRelease us => Sys2Proof.Machine.execResetRelease us s
  | .resetEscalation => Sys2Proof.Machine.execResetEscalation s
  | .streamWaitHang g st => Sys2Proof.Machine.execStreamWaitHang g st s
  | .streamIssueHang g st => Sys2Proof.Machine.execStreamIssueHang g st s
  | .progressHang g st => Sys2Proof.Machine.execProgressHang g st s
  | .stopHang g st => Sys2Proof.Machine.execStopHang g st s
  | .routerHang c port rsp => Sys2Proof.Machine.execRouterHang c port rsp s
  | .pairHang p l => Sys2Proof.Machine.execPairHang p l s
  | .chipletWatchdog p => Sys2Proof.Machine.execChipletWatchdog p s
  | .halfControllerWatchdog h => Sys2Proof.Machine.execHalfControllerWatchdog h s
  | .hubWatchdog hpc => Sys2Proof.Machine.execHubWatchdog hpc s
  | .hubFirmwareException hpc => Sys2Proof.Machine.execHubFirmwareException hpc s
  | .hubMemoryUe hpc => Sys2Proof.Machine.execHubMemoryUe hpc s
  | .ddrControllerFault hpc => Sys2Proof.Machine.execDdrControllerFault hpc s
  | .dumpWritten kib us => Sys2Proof.Machine.execDumpWritten kib us s
  | .dumpWellCopyEnd result us => Sys2Proof.Machine.execDumpWellCopyEnd result us s
  | .dumpClear v => Sys2Proof.Machine.execDumpClear v s
  | .rstHangCfgWrite v => Sys2Proof.Machine.execRstHangCfgWrite v s
  | .timeNowCapture => Sys2Proof.Machine.execTimeNowCapture s
  | .servoUpdate adj => Sys2Proof.Machine.execServoUpdate adj s
  | .sourceLost => Sys2Proof.Machine.execSourceLost s
  | .holdoffEnd => Sys2Proof.Machine.execHoldoffEnd s
  | .lockAcquired => Sys2Proof.Machine.execLockAcquired s
  | .sync port twoStep origin arr => Sys2Proof.Machine.execSync port twoStep origin arr s
  | .followUp port origin => Sys2Proof.Machine.execFollowUp port origin s
  | .announce port grandmaster better => Sys2Proof.Machine.execAnnounce port grandmaster better s
  | .delayResp port recvT => Sys2Proof.Machine.execDelayResp port recvT s
  | .pdelayReq port arr => Sys2Proof.Machine.execPdelayReq port arr s
  | .pdelayResp port reqRecv arr => Sys2Proof.Machine.execPdelayResp port reqRecv arr s
  | .pdelayRespFollowUp port respSend => Sys2Proof.Machine.execPdelayRespFollowUp port respSend s
  | .ppsEdge t => Sys2Proof.Machine.execPpsEdge t s
  | .timeStepGo => Sys2Proof.Machine.execTimeStepGo s
  | .manualSet => Sys2Proof.Machine.execManualSet s
  | .manualClear => Sys2Proof.Machine.execManualClear s
  | .alarmArm a => Sys2Proof.Machine.execAlarmArm a s
  | .alarmFire a => Sys2Proof.Machine.execAlarmFire a s
  | .todEnable n => Sys2Proof.Machine.execTodEnable n s
  | .todDisable n => Sys2Proof.Machine.execTodDisable n s
  | .todPulseStart n => Sys2Proof.Machine.execTodPulseStart n s
  | .todPulseEnd n => Sys2Proof.Machine.execTodPulseEnd n s
  | .counterCfgWrite off v => Sys2Proof.Machine.execCounterCfgWrite off v s
  | .counterWrap off => Sys2Proof.Machine.execCounterWrap off s
  | .snapshotCmd v => Sys2Proof.Machine.execSnapshotCmd v s
  | .periodicSnapshot => Sys2Proof.Machine.execPeriodicSnapshot s
  | .sampleTag g st => Sys2Proof.Machine.execSampleTag g st s
  | .sampleRecordWrite => Sys2Proof.Machine.execSampleRecordWrite s
  | .samplingEnable v => Sys2Proof.Machine.execSamplingEnable v s
  | .samplingDisable v => Sys2Proof.Machine.execSamplingDisable v s
  | .samplingDrainEnd => Sys2Proof.Machine.execSamplingDrainEnd s
  | .logbookRecord => Sys2Proof.Machine.execLogbookRecord s
  | .inputExcursionEnd cls extreme us watts => Sys2Proof.Machine.execInputExcursionEnd cls extreme us watts s
  | .dropout cv watts => Sys2Proof.Machine.execDropout cv watts s
  | .overvolt cv watts => Sys2Proof.Machine.execOvervolt cv watts s
  | .holdupExhausted => Sys2Proof.Machine.execHoldupExhausted s
  | .inputRestored => Sys2Proof.Machine.execInputRestored s
  | .powerCapExceeded watts => Sys2Proof.Machine.execPowerCapExceeded watts s
  | .powerCapRelease => Sys2Proof.Machine.execPowerCapRelease s
  | .dieSensorRead temps ddr cv watts => Sys2Proof.Machine.execDieSensorRead temps ddr cv watts s
  | .throttleStep h => Sys2Proof.Machine.execThrottleStep h s
  | .thermalTrip sv reading => Sys2Proof.Machine.execThermalTrip sv reading s
  | .thermalRestart => Sys2Proof.Machine.execThermalRestart s
  | .coolantWarning rise inlet outlet => Sys2Proof.Machine.execCoolantWarning rise inlet outlet s
  | .clockLost bit => Sys2Proof.Machine.execClockLost bit s
  | .clrExtremes v => Sys2Proof.Machine.execClrExtremes v s
  | .bootStepComplete f => Sys2Proof.Machine.execBootStepComplete f s
  | .bootPwrfailRelease => Sys2Proof.Machine.execBootPwrfailRelease s
  | .calStepComplete f => Sys2Proof.Machine.execCalStepComplete f s
  | .surveyWaitTimeout => Sys2Proof.Machine.execSurveyWaitTimeout s
  | .updOpen r => Sys2Proof.Machine.execUpdOpen r s
  | .updWrite r wellOk => Sys2Proof.Machine.execUpdWrite r wellOk s
  | .updCommit r wellOk => Sys2Proof.Machine.execUpdCommit r wellOk s
  | .updAbort r => Sys2Proof.Machine.execUpdAbort r s
  | .updStatus r => Sys2Proof.Machine.execUpdStatus r s
  | .updSessionIdle => Sys2Proof.Machine.execUpdSessionIdle s
  | .attest r => Sys2Proof.Machine.execAttest r s
  | .sidebandAttest nonce => Sys2Proof.Machine.execSidebandAttest nonce s
  | .pwrfailNAssert toggling edges cv watts => Sys2Proof.Machine.execPwrfailNAssert toggling edges cv watts s
  | .rackAttn => Sys2Proof.Machine.execRackAttn s
  | .rackAttnMask masked => Sys2Proof.Machine.execRackAttnMask masked s
  | .perstN => Sys2Proof.Machine.execPerstN s
  | .slotIdChange v => Sys2Proof.Machine.execSlotIdChange v s
  | .ejectorOpen => Sys2Proof.Machine.execEjectorOpen s
  | .ejectorClose => Sys2Proof.Machine.execEjectorClose s
  | .ethPortEnable p => Sys2Proof.Machine.execEthPortEnable p s
  | .ethPortDisable p => Sys2Proof.Machine.execEthPortDisable p s
  | .ethPortDrainEnd p => Sys2Proof.Machine.execEthPortDrainEnd p s
  | .osfpModuleChange p what powerClass => Sys2Proof.Machine.execOsfpModuleChange p what powerClass s
  | .ethernetFrame p frame ce ue => Sys2Proof.Machine.execEthernetFrame p frame ce ue s
  | .controlLinkChange link => Sys2Proof.Machine.execControlLinkChange link s
  | .locate v => Sys2Proof.Machine.execLocate v s
  | .setEndpointId eid i3c => Sys2Proof.Machine.execSetEndpointId eid i3c s
  | .getEndpointId => Sys2Proof.Machine.execGetEndpointId s
  | .getMctpVersionSupport mtype => Sys2Proof.Machine.execGetMctpVersionSupport mtype s
  | .getMessageTypeSupport => Sys2Proof.Machine.execGetMessageTypeSupport s
  | .getVendorDefinedMessageSupport ix => Sys2Proof.Machine.execGetVendorDefinedMessageSupport ix s
  | .getTid => Sys2Proof.Machine.execGetTid s
  | .setTid tid => Sys2Proof.Machine.execSetTid tid s
  | .getPldmVersion ptype => Sys2Proof.Machine.execGetPldmVersion ptype s
  | .getPldmTypes => Sys2Proof.Machine.execGetPldmTypes s
  | .getPldmCommands ptype => Sys2Proof.Machine.execGetPldmCommands ptype s
  | .getPdr handle => Sys2Proof.Machine.execGetPdr handle s
  | .getSensorReading sensor => Sys2Proof.Machine.execGetSensorReading sensor s
  | .getStateSensorReadings sensor => Sys2Proof.Machine.execGetStateSensorReadings sensor s
  | .getFruRecordTableMetadata => Sys2Proof.Machine.execGetFruRecordTableMetadata s
  | .getFruRecordTable => Sys2Proof.Machine.execGetFruRecordTable s
  | .linkRateOrWidthChange rate10 width => Sys2Proof.Machine.execLinkRateOrWidthChange rate10 width s
  | .hostInterfaceResetComplete => Sys2Proof.Machine.execHostInterfaceResetComplete s
  | .bar0ReadRefused off lenDw be => Sys2Proof.Machine.execBar0ReadRefused off lenDw be s
  | .codewordLockLost p l => Sys2Proof.Machine.execCodewordLockLost p l s
  | .preFecBerExceeded p l => Sys2Proof.Machine.execPreFecBerExceeded p l s
  | .ppsLost => Sys2Proof.Machine.execPpsLost s

end Sys2Proof.Machine
end

