-- ==== Sys2Proof/Machine/Step.lean ====
section
/-! DEFINITION. One step of the block: the command at the front of the queue, or a tick of the module's clock. -/

namespace Sys2Proof.Machine

/-- One tick of the module's clock with no command waiting (log 1): 1 ns, in which the counters of condition events count their cycles (R365)
and the pod time counter advances (R350). -/
def tick (s : State) : State :=
  if s.boot.state = .off then s
  else
    let s := countCycles s
    { s with now := s.now + 1, time := podTick s.time }

/-- One step. -/
def step (s : State) : Host.Outcome State Fault Refusal :=
  match s.pending with
  | [] => .next (tick s)
  | c :: rest => exec c { s with pending := rest }

/-- The state with the command that a word spells put at the front of its queue. -/
def State.withFetchWord (s : State) (nbits w : Nat) : State :=
  match Sys2Proof.decodeTableWord nbits w with
  | some c => { s with pending := c :: s.pending }
  | none => s

end Sys2Proof.Machine
end

