-- ==== Sys2Proof/Safety.lean ====
section
/-! DEFINITION. The terms that claims about the block are stated in: that a command completes with an effect, that it leaves a part
of the module as it was, that a stream is ready to issue a word, and the invariant of every step. -/

namespace Sys2Proof.Machine

/-- The command completes: exec answers a next state, and `P` holds of it. -/
def Does (c : Instr) (s : State) (P : State → Prop) : Prop := ∃ t : State, exec c s = .next t ∧ P t

/-- Whatever next state the command has, `P` holds of it. -/
def Keeps (c : Instr) (s : State) (P : State → Prop) : Prop := ∀ t : State, exec c s = .next t → P t

/-- The parts of the state: one for each field of State, and memory in two, the module's own (DDR, cisterns, core SRAM: R147, below 2⁶⁴)
and the host's. -/
inductive Part
  | now | freeCtr | mem | host | cores | clus | ctxs | transit | ddr | hst | idb | rst | tally | log | fab
  | link | steer | stew | ckpt | time | boot | pwr | upd | pins | eth | side | sent | pending
  deriving DecidableEq, Repr

/-- A part of the state is as it was. -/
def Part.Same (s t : State) : Part → Prop
  | .now => t.now = s.now
  | .freeCtr => t.freeCtr = s.freeCtr
  | .mem => ∀ a, a < 0x10000000000000000 → t.mem.read a = s.mem.read a
  | .host => ∀ a, 0x10000000000000000 ≤ a → t.mem.read a = s.mem.read a
  | .cores => t.cores = s.cores
  | .clus => t.clus = s.clus
  | .ctxs => t.ctxs = s.ctxs
  | .transit => t.transit = s.transit
  | .ddr => t.ddr = s.ddr
  | .hst => t.hst = s.hst
  | .idb => t.idb = s.idb
  | .rst => t.rst = s.rst
  | .tally => t.tally = s.tally
  | .log => t.log = s.log
  | .fab => t.fab = s.fab
  | .link => t.link = s.link
  | .steer => t.steer = s.steer
  | .stew => t.stew = s.stew
  | .ckpt => t.ckpt = s.ckpt
  | .time => t.time = s.time
  | .boot => t.boot = s.boot
  | .pwr => t.pwr = s.pwr
  | .upd => t.upd = s.upd
  | .pins => t.pins = s.pins
  | .eth => t.eth = s.eth
  | .side => t.side = s.side
  | .sent => t.sent = s.sent
  | .pending => t.pending = s.pending

/-- Only the parts of a list may differ: every other part of the state is as it was. -/
def OnlyParts (ps : List Part) (s t : State) : Prop := ∀ p, p ∉ ps → p.Same s t

/-- Of the cores only core `g` may differ. -/
def OnlyCore (g : Nat) (s t : State) : Prop := ∀ x, x ≠ g → core t x = core s x

/-- Of core `g` only stream `st` may differ, but for its counts of sampling (R370). -/
def OnlyStream (g st : Nat) (s t : State) : Prop :=
  OnlyCore g s t ∧ (∀ x, x ≠ st → strm t g x = strm s g x) ∧ (∀ q, queue t g q = queue s g q) ∧ (∀ e, ote t g e = ote s g e)
    ∧ (core t g).state = (core s g).state ∧ (core t g).fault = (core s g).fault

/-- Stream `st` of core `g` issues `w` (R111, R126, R127 order 2): it is RUNNING and not stalled, `w` stands in its fetch buffer at its
PC with opcode `o`, the opcode is this stream's or common, and no reserved bit is set. -/
def Issues (s : State) (g st o : Nat) (w : IWord) : Prop :=
  (strm s g st).state = .running ∧ (strm s g st).stall = 0 ∧ fetched (strm s g st) = some w ∧ fld w 0 8 = o
    ∧ (opcodeStream o = none ∨ (opcodeStream o = some st ∧ st < 4)) ∧ reservedSet w = 0

/-- Stream `st` of core `g` is stalled with a STALL code on the word `w` at its PC. -/
def Stalled (s : State) (g st code : Nat) (w : IWord) : Prop :=
  (strm s g st).state = .running ∧ (strm s g st).stall = code ∧ fetched (strm s g st) = some w

/-- The stream has gone on to the next instruction in program order: RUNNING, not stalled, its PC 16 bytes on. -/
def Advanced (s t : State) (g st : Nat) : Prop :=
  (strm t g st).state = .running ∧ (strm t g st).stall = 0 ∧ (strm t g st).pc = pcAdd (strm s g st).pc 1

/-- The stream has faulted at issue (R126, R127): FAULTED, CORE_STR_FAULT with AT_ISSUE, the opcode and the cause, the PC that faulted and
its info. -/
def Faulted (t : State) (g st cause info opc : Nat) (pc : Word) : Prop :=
  (strm t g st).state = .faulted ∧ (strm t g st).fault = BitVec.ofNat 32 (65536 + opc * 256 + cause)
    ∧ (strm t g st).faultPc = pc ∧ (strm t g st).faultInfo = BitVec.ofNat 32 info

/-- A register write reaches core `g`: its block is not held in reset, the core is powered. -/
def CoreOn (s : State) (g off : Nat) : Prop :=
  blockHeld s (coreBase g + off) = false ∧ (core s g).state ≠ .absent ∧ (core s g).state ≠ .fenced

/-- Host accesses to the BARs are served (R173, R174): the module is up, no reset of its host interface runs, Memory Space Enable is set. -/
def BarOpen (s : State) : Prop := s.boot.state ≠ .off ∧ s.hst.resetting = false ∧ s.hst.mse = true

/-- The invariant of every step: memory is in its canonical form. -/
def Inv (s : State) : Prop := s.mem.wf = true

/-- An entry of a ring is next to be carried out (R181, R183): the oldest not begun, of this opcode on a ring of this type, not held; its
completion is not suppressed (NOCQE 0) and DMA is on. -/
def Waits (s : State) (r type opc : Nat) (e : Entry) : Prop :=
  takeEntry s r type opc = some e ∧ bits (entFlags e) 0 1 = 0 ∧ canDma s = true ∧ Inv s

/-- An entry has completed (R183 to R185): it has left the ring, and the next completion slot holds the result, its TAG, the SQ head and the
status. -/
def Completed (s t : State) (r : Nat) (e : Entry) (status : Nat) (result : List Byte) : Prop :=
  (ring t r).inflight = (ring s r).inflight.filter (fun x => x.seq ≠ e.seq) ∧ (ring t r).cqTail = ((ring s r).cqTail + 1) % ringN (ring s r)
    ∧ t.mem.readN (hostKey (ringCqBase (ring s r) + 32 * (ring s r).cqTail)) 30 =
        (result ++ List.replicate 24 0).take 24 ++ toBytes (entTag e) 2 ++ toBytes (ring s r).sqHead 2 ++ toBytes status 2

/-- A flit with this body arrives in order on a pair that receives (R239): good, asking for no replay, the SEQ expected, no flit held before it. -/
def InOrder (s : State) (h : FlitHdr) (b : FlitBody) : Prop :=
  receiving (pair s h.p h.l) = true ∧ flitBad s h (bodyType b) (bodyTag b) (bodyPayload b) = false ∧ h.nak = false ∧ h.seq.toNat = (pair s h.p h.l).expect ∧ (pair s h.p h.l).wait = []

/-- A control message of a kind is taken (R279 to R281): from a steward, its epoch is none below the highest accepted and ends no lease of
this module; it is no duplicate of the last 100 ms. -/
def Fresh (s : State) (h : Hdr) (kind : Nat) (steward : Bool) : Prop :=
  (steward = true → s.steer.epoch.toNat ≤ h.epoch.toNat ∧ (s.stew.role = 5 → h.epoch.toNat ≤ s.stew.leaseEpoch))
    ∧ ∀ x ∈ s.stew.seen, x.1 = h.src → x.2.1 = kind → x.2.2.1 = h.msgid.toNat → x.2.2.2 + 100000000 ≤ s.now

/-- One message has left on the control network (R279): to `dst`, of a kind, with the next MSGID and this body, as the bytes of its datagram. -/
def Tells (s t : State) (dst kind : Nat) (body : List Nat) : Prop :=
  t.sent = ⟨.ctl, kind, dst :: (ctlBytes s dst kind s.stew.msgid (b2n (wantsAck kind)) (bodyBytes kind body)).map BitVec.toNat⟩ :: s.sent

/-- The next event of a context, or of none, has a free completion slot (R191). -/
def EventReady (s : State) (c : Option Nat) (r : Nat) : Prop :=
  eventRing s c = some r ∧ s.hst.evtLost = 0 ∧ 1 ≤ cqFree (ring s r) ∧ canDma s = true ∧ Inv s

/-- An event record stands in the next completion slot of ring `r` (R191). -/
def Posted (s t : State) (r code source : Nat) (c : Option Nat) (p0 p1 p2 p3 : Nat) : Prop :=
  (ring t r).cqTail = ((ring s r).cqTail + 1) % ringN (ring s r)
    ∧ t.mem.readN (hostKey (ringCqBase (ring s r) + 32 * (ring s r).cqTail)) 30
        = eventBytes code source c ((c.map fun i => (ctx s i).gen.toNat).getD 0) p0 p1 p2 p3

/-- A command that requests a reset, with the domain's kind and index (R334) and the cause. -/
def ResetCmd (c : Instr) (kind index cause : Nat) : Prop :=
  (∃ g : Core, c = .coreReset g cause ∧ kind = 1 ∧ index = g) ∨ (∃ k : Clu, c = .clusterReset k cause ∧ kind = 2 ∧ index = k)
    ∨ (∃ h : Hlf, c = .halfReset h cause ∧ kind = 3 ∧ index = h) ∨ (c = .computeReset cause ∧ kind = 4 ∧ index = 0)
    ∨ (∃ (p : Plane) (l : Lane), c = .fabricLaneReset p l cause ∧ kind = 5 ∧ index = 16 * p + l)
    ∨ (c = .moduleWarmReset cause ∧ kind = 6 ∧ index = 0) ∨ (c = .moduleColdReset cause ∧ kind = 7 ∧ index = 0)

/-- A command that reports a hang the module's own state bears out (R342). -/
def HangFound (c : Instr) (s : State) : Prop :=
  (∃ (g : Core) (st : Str), c = .streamWaitHang g st ∧ heldFor s g st [1] (hangLimit s 16) = true)
    ∨ (∃ (g : Core) (st : Str), c = .streamIssueHang g st ∧ heldFor s g st [2, 3, 4, 6, 7, 8] (hangLimit s 0) = true)
    ∨ (∃ (g : Core) (st : Str), c = .progressHang g st ∧ (strm s g st).state = .running ∧ progressHeld s g st (hangLimit s 8) = true)
    ∨ (∃ (g : Core) (st : Str), c = .stopHang g st ∧ (strm s g st).state = .stopping ∧ (strm s g st).stopAt + 1000000 ≤ s.now)
    ∨ (∃ (k : Clu) (port : Fin 12) (rsp : Bool), c = .routerHang k port rsp ∧ (beats s k port).any (fun b => b.rsp = rsp) = true
      ∧ Tbl.get 0 (clu s k).beatAt (2 * port.val + b2n rsp) + 1000000 ≤ s.now)
    ∨ (∃ (p : Plane) (l : Lane), c = .pairHang p l ∧ (((pair s p l).state = .retrain ∧ (pair s p l).retrainAt.headD s.now + 10000000 ≤ s.now)
      ∨ 8 < within s.now 1000000000 (pair s p l).retrainAt))
    ∨ (∃ p : Plane, c = .chipletWatchdog p) ∨ (∃ h : Hlf, c = .halfControllerWatchdog h) ∨ (∃ v : Word, c = .hubWatchdog v)

/-- A row that issues the next word of stream `st` of core `g`, whatever the word is (R111, R127). -/
def WordRow (c : Instr) (g : Core) (st : Str) : Prop :=
  c ∈ [.nop g st, .halt g st, .wait g st, .signal g st, .rsignal g st, .li g st, .alu g st, .br g st, .rdsys g st, .fence g st, .get g st, .put g st,
    .stepmark g st, .loadw g st, .mvm g st, .flip g st, .modesync g st, .vew g st, .vfma g st, .vun g st, .vred g st, .vcvt g st, .vmm g st, .vstat g st]

/-- A row that is a write to the register at BAR0 offset `off`. -/
def WriteRow (c : Instr) (s : State) (off : Nat) (v : Word) : Prop :=
  (∃ (g : Core) (q : Queue), c = .coreTqCfgWrite g q v ∧ off = coreBase g + (0x100 + 0x10 * q))
    ∨ (∃ (g : Core) (q : Queue), c = .tqClear g q v ∧ off = coreBase g + (0x10C + 0x10 * q))
    ∨ (∃ (g : Core) (st : Str), c = .start g st v ∧ off = coreBase g + (0x200 + 0x100 * st))
    ∨ (∃ (g : Core) (st : Str), c = .stop g st v ∧ off = coreBase g + (0x200 + 0x100 * st))
    ∨ (∃ (g : Core) (e : Eng), c = .oteRowSelWrite g e v ∧ off = coreBase g + oteOff e 0x10)
    ∨ (∃ (g : Core) (e : Eng), c = .oteChanSelWrite g e v ∧ off = coreBase g + oteOff e 0x20)
    ∨ (∃ k : Clu, c = .cluCombGo k v ∧ off = cluBase k + 0x2020) ∨ (∃ k : Clu, c = .copyListRestart k v ∧ off = cluBase k + 0x1040)
    ∨ (∃ p : Plane, c = .fabTapSelWrite p v ∧ off = 0x100200 + 0x10000 * p) ∨ (∃ r : RingIx, c = .ringEnable r ∧ off = 0x20018 + 0x40 * r ∧ v = 1)
    ∨ (∃ r : RingIx, c = .ringDisable r ∧ off = 0x20018 + 0x40 * r ∧ v = 0) ∨ (c = .dumpClear v ∧ off = 0x80020)
    ∨ (c = .rstHangCfgWrite v ∧ off = 0x80008) ∨ (c = .clrExtremes v ∧ off = 0x70014) ∨ (c = .locate v ∧ off = 0x40000C)
    ∨ (c = .snapshotCmd v ∧ off = 0x060000) ∨ (c = .samplingEnable v ∧ off = 0x060020) ∨ (c = .samplingDisable v ∧ off = 0x060020)
    ∨ (c = .protCommit v ∧ off = 0)
    ∨ (∃ p : Fin 4, c = .ethPortEnable p ∧ off = ethOff p 0 ∧ v = orBit (eth s p).ctl 31)

/-- The parts that a stream's fault may touch: its core, and the report of it. -/
def faultParts : List Part := [.host, .cores, .hst, .tally, .log, .sent]

/-- What a code of EST is worth, in units of 2⁻²¹ FS (R82). -/
def estUnits (c : Nat) : Nat := if c < 64 then c else (64 + c % 64) * 2 ^ (c / 64 - 1)

/-- Every part but those listed. -/
def allBut (ps : List Part) : List Part :=
  [.now, .freeCtr, .mem, .host, .cores, .clus, .ctxs, .transit, .ddr, .hst, .idb, .rst, .tally, .log, .fab, .link, .steer, .stew, .ckpt, .time,
   .boot, .pwr, .upd, .pins, .eth, .side, .sent, .pending].filter fun p => !ps.contains p

/-- The parts that a command may touch at all, whatever it finds. Every part not listed is as it was. -/
def touches (c : Instr) : List Part :=
  match c with
    | .signal .. | .wait .. | .loadw .. | .flip .. | .mvm .. | .nop .. | .li .. | .alu .. | .br .. | .rdsys .. | .fence .. | .modesync .. |
      .modeEditionTimeout .. | .vew .. | .vfma .. | .vun .. | .vred .. | .vcvt .. | .vmm .. | .vstat .. =>
    [.host, .cores, .ctxs, .hst, .tally, .log, .sent]
    | .signalResume .. | .waitResume .. | .flipStart .. =>
    [.cores, .tally]
    | .remoteTokenArrival .. =>
    [.cores, .transit, .rst, .tally, .log]
    | .coreTqCfgWrite .. | .tqClear .. | .mvmStart .. | .shadowVectorDone .. | .failTileLogFlush .. | .oteRowSelWrite .. | .oteChanSelWrite .. |
      .sampleTag .. | .samplingEnable .. | .samplingDrainEnd =>
    [.cores, .tally, .log]
    | .routerBeat .. =>
    [.host, .cores, .clus, .ctxs, .hst, .tally, .log, .sent]
    | .sramCeRateExpiry .. | .scrubComplete .. | .loadwReadEnd .. | .outputTileReady .. | .dveRecomputeDone .. | .calPhaseEnd .. | .pilotCheckEnd .. | .combRelockTimeout .. | .combPowerCheck .. | .cluCombGo .. | .handoverConfirmEnd .. | .get .. | .getComplete .. | .put .. |
      .putComplete .. | .stepmark .. | .vectorComplete .. | .fetchFill .. | .copyDescriptorStart .. | .copyDescriptorComplete .. | .copyListWake .. | .copyListRestart .. | .hostReadFailure .. | .poisonedTlpReceived .. | .ctxCreate .. | .ctxStart .. | .coreFence .. | .lane .. |
      .restore .. | .target .. =>
    allBut [.now, .transit, .steer, .time, .pwr, .upd, .eth, .pending]
    | .loadwReadStart .. | .loadwWriteStart .. | .loadwComplete .. | .flipComplete .. | .swapCopyEnd .. | .reissueFeedStop .. | .reissueRun .. |
      .reissueResume .. | .swapReadyDeferred .. | .exerciseBurst .. =>
    [.cores]
    | .writeBufferResume .. =>
    [.freeCtr, .mem, .host, .cores, .clus, .ddr, .tally, .ckpt]
    | .mvmComplete .. =>
    [.freeCtr, .mem, .host, .cores, .clus, .ctxs, .ddr, .hst, .tally, .log, .ckpt, .sent]
    | .swapWaitAlarm .. | .counterCfgWrite .. | .snapshotCmd .. | .samplingDisable .. | .coolantWarning .. =>
    [.tally, .log]
    | .lockLost .. =>
    [.cores, .clus, .tally, .log, .fab, .sent]
    | .relockComplete .. =>
    [.clus, .tally, .log, .fab, .sent]
    | .governorIntervalEnd .. =>
    [.clus, .tally]
    | .handoverStandbyLocked .. | .handoverSwitchDone .. | .handoverRetry .. =>
    [.cores, .clus]
    | .handoverEnginesHeld .. =>
    [.clus]
    | .handoverHoldTimeout .. =>
    [.cores, .clus, .tally, .log]
    | .halt .. =>
    [.host, .cores, .ctxs, .hst, .rst, .tally, .log, .sent]
    | .rsignal .. =>
    [.host, .cores, .ctxs, .transit, .hst, .tally, .log, .sent]
    | .releaseComplete .. =>
    allBut [.now, .steer, .time, .pwr, .upd, .eth, .pending]
    | .start .. | .stop .. =>
    [.cores, .ctxs, .tally, .log]
    | .streamStopped .. =>
    [.cores, .ctxs]
    | .ddrReadRequest .. | .ddrWriteRequest .. | .patrolScrubStep .. | .deviceFailed .. | .ddrRetire .. | .migrationChunk | .bar4Read .. |
      .tapRefresh .. | .fabCombRelockTimeout .. =>
    allBut [.now, .transit, .idb, .rst, .steer, .time, .pwr, .upd, .eth, .pending]
    | .stripeGatherTimeout .. =>
    [.freeCtr, .ddr, .tally]
    | .watchClearTimeout .. =>
    [.ddr]
    | .guardRegionZero .. =>
    [.freeCtr, .mem, .host, .ddr, .tally, .ckpt]
    | .copy .. | .fill .. | .paged .. =>
    [.ddr, .hst]
    | .functionLevelReset | .hotReset | .linkDownTimeout | .perstN =>
    allBut [.now, .transit, .steer, .time, .boot, .pwr, .eth, .pending]
    | .busMasterEnableChange .. =>
    [.mem, .host, .hst, .tally, .sent]
    | .bar4Write .. | .attest .. =>
    [.freeCtr, .mem, .host, .cores, .clus, .ddr, .hst, .tally, .log, .ckpt, .sent]
    | .sqTailDoorbell .. | .cqHeadDoorbell .. | .protCommit .. =>
    [.host, .hst, .tally, .log, .sent]
    | .ringFetchComplete .. | .protSetRetire .. | .updStatus .. =>
    [.host, .hst, .tally, .sent]
    | .msixTimeExpiry .. =>
    [.hst, .tally, .sent]
    | .ringEnable .. | .ringDrainComplete .. | .linkRateOrWidthChange .. =>
    [.hst, .tally, .log]
    | .ringDisable .. =>
    [.host, .ctxs, .hst, .tally, .log, .sent]
    | .post .. | .awaitStep .. | .awaitDone .. =>
    [.host, .cores, .hst, .rst, .tally, .log, .sent]
    | .ctxTeardown .. | .resetDrainEnd | .streamWaitHang .. =>
    allBut [.now, .transit, .idb, .steer, .time, .boot, .pwr, .upd, .eth, .pending]
    | .teardownComplete .. =>
    [.mem, .host, .cores, .clus, .ctxs, .ddr, .hst, .tally, .log, .steer, .pins, .side, .sent]
    | .modeStage .. =>
    [.host, .ctxs, .hst, .tally, .sent]
    | .fenceClear .. =>
    [.host, .hst, .idb, .tally, .sent]
    | .registerWrite .. =>
    allBut [.now, .transit, .eth, .pending]
    | .rcRead .. | .bar0ReadRefused .. =>
    [.cores, .clus, .hst, .idb, .tally, .log, .time, .sent]
    | .pwWriteEffect .. =>
    [.host, .hst, .idb, .tally, .log, .fab, .ckpt, .time, .pwr, .pins, .eth, .sent]
    | .pwWriteDrop .. =>
    [.idb, .tally, .log]
    | .idTestSet .. =>
    [.idb]
    | .laneRetuneComplete .. | .fabSpareLocked .. | .fabLowTraffic .. | .fabHandoverWindowExpiry .. | .fabHandoverDrainDone .. |
      .fabHandoverRetry .. | .codeSwitch .. | .noticeFlush .. | .laneReportDue .. | .beaconDue =>
    [.fab]
    | .rxPowerLow .. | .arbiterLeaseExpiry | .twinRestored =>
    [.tally, .log, .stew, .sent]
    | .fabCombGo .. | .fabTapSelWrite .. =>
    [.tally, .log, .fab]
    | .fabHandoverDrainTimeout .. | .fabSwitchDone .. =>
    [.freeCtr, .tally, .log, .fab, .link, .steer, .sent]
    | .fabRelockDone .. | .ctrl .. | .surveyReport .. =>
    allBut [.now, .transit, .idb, .rst, .time, .pwr, .upd, .eth, .pending]
    | .trainingPhaseComplete .. | .trainingPhaseTimeout .. =>
    [.tally, .log, .fab, .link, .stew, .sent]
    | .shortCodeBerExceeded .. | .idle .. | .ackTimeout .. | .pairRetrainCmd .. | .codewordLockLost .. | .preFecBerExceeded .. =>
    [.tally, .log, .fab, .sent]
    | .flitSlot .. | .writeSegment .. | .tokenOnly .. | .readResp .. | .data .. | .rdreq .. | .notice .. | .chartCommit | .chartApplyDeadline |
      .demand .. | .chartSubmit .. | .calStepComplete .. =>
    allBut [.now, .transit, .time, .pwr, .upd, .eth, .pending]
    | .genChange .. =>
    [.steer]
    | .beacon .. =>
    [.tally, .log, .fab, .time, .sent]
    | .segmentTimeout .. =>
    [.tally, .log, .link]
    | .surveySweepEnd .. =>
    [.host, .hst, .tally, .log, .fab, .steer, .stew, .boot, .side, .sent]
    | .chartPart .. | .staged .. | .leaseReq .. | .leaseDeny .. | .leaseEnd .. | .released .. | .bind .. | .jobReport .. | .statusReq .. |
      .status .. | .probe .. | .ack .. | .probeTimeout .. =>
    [.tally, .log, .steer, .stew, .sent]
    | .chartControlResend .. | .memberSilent .. =>
    [.fab, .link, .stew]
    | .applied .. | .leaseGrant .. | .takeover .. | .heartbeatAck .. | .moduleEvent .. =>
    [.host, .hst, .tally, .log, .steer, .stew, .sent]
    | .surveyCmd .. =>
    [.tally, .log, .fab, .steer, .stew, .sent]
    | .lateModule .. | .retryWaitExpiry .. =>
    [.host, .hst, .tally, .log, .fab, .link, .steer, .stew, .sent]
    | .survey .. | .loopTest .. =>
    [.host, .hst, .tally, .fab, .steer, .sent]
    | .chartRead .. =>
    [.freeCtr, .mem, .host, .cores, .clus, .ddr, .hst, .tally, .ckpt, .sent]
    | .demandTimeout .. =>
    [.host, .hst, .tally, .steer, .sent]
    | .loopTestEnd .. =>
    [.host, .hst, .tally, .log, .fab, .link, .steer, .sent]
    | .heartbeat .. | .eventReport .. =>
    [.freeCtr, .tally, .log, .steer, .stew, .sent]
    | .mirror .. | .rebuildStatusWait =>
    [.steer, .stew, .sent]
    | .mirrorAck .. | .mirrorAckLate .. | .leaseRenewDue | .candidacyDue | .quietPointReturn | .heartbeatDue =>
    [.stew, .sent]
    | .snapshot .. =>
    [.steer, .stew]
    | .jobCtl .. =>
    allBut [.now, .transit, .idb, .rst, .time, .boot, .pwr, .upd, .eth, .pending]
    | .podConfig .. =>
    [.host, .hst, .tally, .log, .steer, .stew, .pins, .side, .sent]
    | .ackRetransmit .. =>
    [.fab, .link, .stew, .sent]
    | .holderLeaseTimerEnd | .twinLost .. | .authorityClaim .. | .authorityHeartbeatTimeout =>
    [.tally, .log, .stew]
    | .arbiterStartingEnd =>
    [.stew]
    | .holdEntry =>
    [.host, .hst, .tally, .log, .stew, .sent]
    | .riskScoreUpdate .. =>
    [.host, .hst, .tally, .log, .stew, .ckpt, .pwr, .sent]
    | .ckptRegister .. | .targetConnected .. | .invalidate .. =>
    [.host, .cores, .hst, .rst, .tally, .log, .ckpt, .sent]
    | .ckptBegin .. | .periodicCheckpoint .. =>
    [.host, .hst, .tally, .log, .stew, .ckpt, .sent]
    | .journal .. =>
    [.host, .cores, .hst, .rst, .tally, .log, .stew, .ckpt, .sent]
    | .drain .. =>
    [.host, .hst, .tally, .ckpt, .sent]
    | .restoreComplete .. =>
    [.freeCtr, .mem, .host, .cores, .clus, .ctxs, .ddr, .hst, .rst, .tally, .log, .stew, .ckpt, .sent]
    | .abort .. =>
    [.host, .cores, .ctxs, .hst, .rst, .tally, .log, .stew, .ckpt, .pins, .side, .sent]
    | .fullFreezeComplete .. =>
    [.freeCtr, .mem, .host, .cores, .clus, .ctxs, .ddr, .rst, .tally, .log, .ckpt]
    | .granuleCopy .. | .copyAheadRelease .. =>
    [.freeCtr, .host, .cores, .ctxs, .hst, .tally, .log, .stew, .ckpt, .pins, .side, .sent]
    | .locatorWriteComplete .. | .drainComplete .. =>
    [.host, .cores, .hst, .rst, .tally, .log, .stew, .ckpt, .pins, .side, .sent]
    | .drainFail .. =>
    [.host, .cores, .hst, .rst, .tally, .log, .ckpt, .pins, .side, .sent]
    | .miniWriteComplete .. =>
    [.freeCtr, .tally, .log, .ckpt]
    | .coreReset .. | .clusterReset .. | .halfReset .. | .computeReset .. | .fabricLaneReset .. | .moduleWarmReset .. | .moduleColdReset .. |
      .resetEscalation | .routerHang .. | .pairHang .. | .hubWatchdog .. | .hubFirmwareException .. | .hubMemoryUe .. | .ddrControllerFault .. =>
    allBut [.now, .freeCtr, .mem, .clus, .transit, .ddr, .idb, .steer, .time, .boot, .pwr, .eth, .pending]
    | .resetSampleWritten =>
    [.freeCtr, .mem, .host, .cores, .clus, .ddr, .rst, .tally, .log, .stew, .ckpt]
    | .resetRelease .. =>
    allBut [.now, .pending]
    | .streamIssueHang .. | .progressHang .. | .stopHang .. | .updWrite .. =>
    allBut [.now, .transit, .steer, .time, .pwr, .eth, .pending]
    | .chipletWatchdog .. | .halfControllerWatchdog .. | .dumpClear .. | .rstHangCfgWrite .. =>
    [.rst, .tally, .log]
    | .dumpWritten .. =>
    [.freeCtr, .mem, .host, .cores, .clus, .ddr, .rst, .tally, .log, .ckpt]
    | .dumpWellCopyEnd .. =>
    [.freeCtr, .rst, .tally, .log]
    | .timeNowCapture | .delayResp .. | .pdelayResp .. | .pdelayRespFollowUp .. | .manualSet | .manualClear | .alarmArm .. | .todEnable .. |
      .todDisable .. | .todPulseStart .. | .todPulseEnd .. =>
    [.time]
    | .servoUpdate .. | .timeStepGo =>
    [.host, .hst, .tally, .log, .time, .sent]
    | .sourceLost | .holdoffEnd | .lockAcquired | .announce .. | .ppsEdge .. | .ppsLost =>
    [.tally, .log, .time]
    | .sync .. | .followUp .. =>
    [.time, .sent]
    | .pdelayReq .. =>
    [.sent]
    | .alarmFire .. =>
    [.host, .hst, .tally, .time, .sent]
    | .counterWrap .. | .periodicSnapshot =>
    [.tally]
    | .sampleRecordWrite | .logbookRecord =>
    [.freeCtr, .mem, .host, .cores, .clus, .ddr, .tally, .log, .ckpt]
    | .inputExcursionEnd .. | .powerCapExceeded .. | .powerCapRelease | .clrExtremes .. =>
    [.tally, .log, .pwr]
    | .dropout .. | .overvolt .. | .thermalTrip .. | .pwrfailNAssert .. =>
    allBut [.now, .mem, .transit, .idb, .steer, .time, .boot, .pending]
    | .holdupExhausted | .inputRestored =>
    allBut [.now, .freeCtr, .side, .sent, .pending]
    | .dieSensorRead .. =>
    [.ddr, .tally, .log, .pwr]
    | .throttleStep .. | .thermalRestart =>
    [.pwr]
    | .clockLost .. =>
    allBut [.now, .mem, .clus, .transit, .ddr, .idb, .steer, .time, .boot, .eth, .pending]
    | .bootStepComplete .. =>
    allBut [.now, .transit, .time, .pwr, .eth, .pending]
    | .bootPwrfailRelease =>
    allBut [.now, .transit, .idb, .rst, .steer, .time, .upd, .eth, .pending]
    | .surveyWaitTimeout =>
    [.host, .hst, .tally, .log, .stew, .boot, .side, .sent]
    | .updOpen .. =>
    [.freeCtr, .host, .hst, .tally, .log, .upd, .sent]
    | .updCommit .. | .updAbort .. =>
    [.host, .hst, .tally, .log, .upd, .sent]
    | .updSessionIdle =>
    [.tally, .log, .upd]
    | .sidebandAttest .. =>
    [.freeCtr, .tally, .log, .sent]
    | .rackAttn =>
    [.host, .hst, .tally, .pins, .sent]
    | .rackAttnMask .. | .slotIdChange .. | .controlLinkChange .. | .locate .. =>
    [.tally, .log, .pins]
    | .ejectorOpen =>
    [.host, .hst, .tally, .log, .stew, .pins, .side, .sent]
    | .ejectorClose =>
    [.host, .hst, .tally, .log, .pins, .side, .sent]
    | .ethPortEnable .. | .ethPortDisable .. | .ethPortDrainEnd .. | .osfpModuleChange .. | .ethernetFrame .. =>
    [.tally, .log, .eth]
    | .setEndpointId .. =>
    [.tally, .log, .side, .sent]
    | .getEndpointId | .getMessageTypeSupport | .getVendorDefinedMessageSupport .. | .getTid | .setTid .. | .getPldmTypes | .getPldmCommands .. |
      .getSensorReading .. | .getStateSensorReadings .. =>
    [.side, .sent]
    | .getMctpVersionSupport .. | .getPldmVersion .. | .getPdr .. | .getFruRecordTableMetadata | .getFruRecordTable =>
    [.freeCtr, .side, .sent]
    | .hostInterfaceResetComplete =>
    [.hst, .pins]

end Sys2Proof.Machine
end

