-- ==== Sys2Proof/Certificates/Slice0/Obligations.lean ====
section
/-! DEFINITION. The statements for the provers. Completion statements say where each command has its own effect; what each may
touch at all is the table `touches` of Safety.lean, stated once for every command. -/

open Sys2Proof Sys2Proof.Machine

/-! ### Token queues, the router, cores (02_cores_clusters_queues.md) -/

/-- The commands of chapter 02 complete (R24, R26 to R30, R36, R37): a SIGNAL or a token from outside appends its payload, a WAIT takes
the head token, the configuration and CLEAR writes take effect on a quiet core, a beat leaves its router, a core whose error rate is too
high joins the fence list, a scrubbed core is FREE with its SRAM zero. -/
def Obligations.TokensComplete : Prop :=
  (∀ (s : State) (g : Core) (st : Str) (w : IWord), Issues s g st 3 w → quiet s g st = true
    → bit (queue s g (fld w 12 4)).cfg 31 = true → bit (queue s g (fld w 12 4)).cfg (4 + st) = true → (queue s g (fld w 12 4)).toks.length < 64
    → Does (.signal g st) s fun t => Advanced s t g st ∧ (queue t g (fld w 12 4)).toks = (queue s g (fld w 12 4)).toks
        ++ [if bit w 16 then w.extractLsb' 32 32 else (sreg (strm s g st).sregs (fld w 8 4)).extractLsb' 0 32])
  ∧ (∀ (s : State) (g : Core) (st : Str) (w : IWord), Stalled s g st 2 w → (queue s g (fld w 12 4)).toks.length < 64
    → Does (.signalResume g st) s fun t => Advanced s t g st ∧ (queue t g (fld w 12 4)).toks = (queue s g (fld w 12 4)).toks
        ++ [if bit w 16 then w.extractLsb' 32 32 else (sreg (strm s g st).sregs (fld w 8 4)).extractLsb' 0 32])
  ∧ (∀ (s : State) (g : Core) (st : Str) (w : IWord) (v : Word) (vs : List Word), Issues s g st 2 w
    → bit (queue s g (fld w 12 4)).cfg 31 = true → fld (queue s g (fld w 12 4)).cfg 0 2 = st.val
    → (queue s g (fld w 12 4)).ovfPend = false → (queue s g (fld w 12 4)).toks = v :: vs
    → Does (.wait g st) s fun t => Advanced s t g st ∧ (queue t g (fld w 12 4)).toks = vs
        ∧ sreg (strm t g st).sregs (fld w 8 4) = if fld w 8 4 = 0 then 0 else v.setWidth 64)
  ∧ (∀ (s : State) (g : Core) (st : Str) (w : IWord) (v : Word) (vs : List Word), Stalled s g st 1 w → (queue s g (fld w 12 4)).toks = v :: vs
    → Does (.waitResume g st) s fun t => Advanced s t g st ∧ (queue t g (fld w 12 4)).toks = vs
        ∧ sreg (strm t g st).sregs (fld w 8 4) = if fld w 8 4 = 0 then 0 else v.setWidth 64)
  ∧ (∀ (s : State) (src : TokSrc) (c : Ctx) (gen : Byte) (g : Core) (q : Queue) (v : Word),
    (core s g).state = .assigned → (core s g).ctx = c → (ctx s c).created = true → (ctx s c).gen = gen
    → bit (queue s g q).cfg 31 = true → bit (queue s g q).cfg 8 = true → (queue s g q).toks.length < 64
    → Does (.remoteTokenArrival src c gen g q v) s fun t => (queue t g q).toks = (queue s g q).toks ++ [v])
  ∧ (∀ (s : State) (g : Core) (q : Queue) (v : Word), CoreOn s g (0x100 + 0x10 * q) → coreQuiet s g = true
    → Does (.coreTqCfgWrite g q v) s fun t => (queue t g q).cfg = v &&& 0x807F01F3
        ∧ (bit v 31 = true → bit (queue s g q).cfg 31 = false
          → (queue t g q).toks = (List.range (min 64 (fld v 16 7))).map fun i => BitVec.ofNat 32 i))
  ∧ (∀ (s : State) (g : Core) (q : Queue) (v : Word), CoreOn s g (0x10C + 0x10 * q) → coreQuiet s g = true → bit v 0 = true
    → Does (.tqClear g q v) s fun t => (queue t g q).toks = [] ∧ (queue t g q).ovf = 0 ∧ (queue t g q).rej = 0)
  ∧ (∀ (s : State) (c : Clu) (inp out : Fin 12) (rsp needs : Bool), heldBeats s c inp rsp < 32
    → Does (.routerBeat c inp out rsp needs true none) s fun t => beats t c inp = beats s c inp ++ [⟨out.val, rsp, needs && !rsp⟩])
  ∧ (∀ (s : State) (c : Clu) (inp out : Fin 12) (rsp : Bool), heldBeats s c inp rsp < 32 → (∀ x ∈ beats s c inp, x.needs = false)
    → Does (.routerBeat c inp out rsp false false none) s fun t => beats t c inp = (beats s c inp).filter fun x => !(x.out == out.val && x.rsp == rsp))
  ∧ (∀ (s : State) (g : Core), (core s g).state ≠ .absent → (core s g).state ≠ .fenced
    → Does (.sramCeRateExpiry g) s fun t => Tbl.get 0 t.idb.fenceList g = 2)
  ∧ (∀ (s : State) (g : Core), (core s g).state = .scrub
    → Does (.scrubComplete g true) s fun t => (core t g).state = .free ∧ (core t g).gen = 0
        ∧ (∀ off, off < 0x1000000 → t.mem.read (sramKey g off) = 0) ∧ ∀ q, (queue t g q).toks = [])

/-! ### Stream programs (06_stream_programs.md) -/

/-- The common instructions complete (R110, R113, R114, R116, R119, R126, R141): each with its result, and the stream at the next
instruction. -/
def Obligations.PlainInstructionsComplete : Prop :=
  (∀ (s : State) (g : Core) (st : Str) (w : IWord), Issues s g st 0 w → Does (.nop g st) s fun t => Advanced s t g st)
  ∧ (∀ (s : State) (g : Core) (st : Str) (w : IWord), Issues s g st 1 w → quiet s g st = true
    → Does (.halt g st) s fun t => (strm t g st).state = .halted ∧ (strm t g st).pc = pcAdd (strm s g st).pc 1)
  ∧ (∀ (s : State) (g : Core) (st : Str) (w : IWord) (x : Core), Issues s g st 4 w → quiet s g st = true
    → (ctx s (core s g).ctx).map[fld w 24 8]? = some (some x)
    → Does (.rsignal g st) s fun t => Advanced s t g st ∧ t.transit = s.transit
        ++ [⟨(core s g).ctx, (core s g).gen, x, fld w 12 4, (sreg (strm s g st).sregs (fld w 8 4)).extractLsb' 0 32⟩])
  ∧ (∀ (s : State) (g : Core) (st : Str) (w : IWord), Issues s g st 5 w
    → Does (.li g st) s fun t => Advanced s t g st ∧ sreg (strm t g st).sregs (fld w 8 4) =
        if fld w 8 4 = 0 then 0
        else if bit w 16 then w.extractLsb' 32 32 ++ (sreg (strm s g st).sregs (fld w 8 4)).extractLsb' 0 32
        else (w.extractLsb' 32 32).setWidth 64)
  ∧ (∀ (s : State) (g : Core) (st : Str) (w : IWord) (v : DWord), Issues s g st 7 w
    → aluOp (fld w 20 4) (sreg (strm s g st).sregs (fld w 12 4))
        (if bit w 24 then (w.extractLsb' 32 32).signExtend 64 else sreg (strm s g st).sregs (fld w 16 4)) = some v
    → Does (.alu g st) s fun t => Advanced s t g st ∧ sreg (strm t g st).sregs (fld w 8 4) = if fld w 8 4 = 0 then 0 else v)
  ∧ (∀ (s : State) (g : Core) (st : Str) (w : IWord) (b : Bool), Issues s g st 8 w
    → brCond (fld w 20 4) (sreg (strm s g st).sregs (fld w 12 4)) (sreg (strm s g st).sregs (fld w 16 4)) = some b
    → Does (.br g st) s fun t => (strm t g st).state = .running
        ∧ (strm t g st).pc = pcAdd (strm s g st).pc (if b then (w.extractLsb' 32 32).toInt else 1))
  ∧ (∀ (s : State) (g : Core) (st : Str) (w : IWord) (v : Nat), Issues s g st 9 w → sysValue s g st (fld w 16 8) = some v
    → Does (.rdsys g st) s fun t => Advanced s t g st
        ∧ sreg (strm t g st).sregs (fld w 8 4) = if fld w 8 4 = 0 then 0 else BitVec.ofNat 64 v)
  ∧ (∀ (s : State) (g : Core) (st : Str) (w : IWord), Issues s g st 0x0A w → quiet s g st = true
    → Does (.fence g st) s fun t => Advanced s t g st)
  ∧ (∀ (s : State) (g : Core) (st : Str) (w : IWord), Stalled s g st 3 w → fld w 0 8 = 0x0A → quiet s g st = true
    → Does (.releaseComplete g st) s fun t => Advanced s t g st)
  ∧ (∀ (s : State) (g : Core) (st : Str) (w : IWord), Issues s g st 0x21 w → quiet s g st = true → ckptRun s (core s g).ctx = none
    → Does (.stepmark g st) s fun t => Advanced s t g st
        ∧ Tbl.get 0 (ctx t (core s g).ctx).marks (core s g).vcore = (sreg (strm s g st).sregs (fld w 12 4)).extractLsb' 0 32)
  ∧ (∀ (s : State) (g : Core) (st : Str) (w : IWord), Issues s g st 0x46 w → vstatBad (strm s g st).sregs w = none → quiet s g st = true
    → Does (.vstat g st) s fun t => Advanced s t g st ∧ (strm t g st).flags = 0
        ∧ sreg (strm t g st).sregs (fld w 8 4) = if fld w 8 4 = 0 then 0 else (strm s g st).flags.setWidth 64)

/-- GET, PUT, MODESYNC, the fetch and the stream states complete (R111, R115, R119, R124 to R126): a transfer is outstanding until it
completes, then every byte of a row within the module stands at its destination, as its source reads once a guard region that waits has
been zeroed (R159). -/
def Obligations.TransfersAndStreamsComplete : Prop :=
  (∀ (s : State) (g : Core) (st : Str) (w : IWord) (x : Xfer_), Issues s g st 0x10 w → x = getXfer (strm s g st).sregs w → x.len ≠ 0
    → sramBad x.sramBase x.len x.rows x.sramStride = none
    → checkRows s (whoStream s (core s g).ctx s.hst.edition) (rowAddrs x.da x.rows x.daStride) x.len false = none
    → Does (.get g st) s fun t => Advanced s t g st
        ∧ (strm t g st).outst.map LongOp.word = (strm s g st).outst.map LongOp.word ++ [w])
  ∧ (∀ (s : State) (g : Core) (st : Str) (w : IWord) (x : Xfer_), Issues s g st 0x20 w → x = putXfer (strm s g st).sregs w → x.len ≠ 0
    → (bit w 112 = true → tokenDest s (core s g).ctx x.da = true) → sramBad x.sramBase x.len x.rows x.sramStride = none
    → checkRows s (whoStream s (core s g).ctx s.hst.edition) (rowAddrs x.da x.rows x.daStride) x.len true = none
    → Does (.put g st) s fun t => Advanced s t g st
        ∧ (strm t g st).outst.map LongOp.word = (strm s g st).outst.map LongOp.word ++ [w])
  ∧ (∀ (s e : State) (g : Core) (i a : Nat) (op : LongOp) (x : Xfer_), Inv s → outstAt s g 0 i 0x10 = some op → x = getXfer op.sregs op.word
    → op.bad = none → op.xfer = 0 → (xferOf s 0).err = none → xferDone (xferOf s 0) = true → x.rows = 1 → canDma s = true
    → placeOf s (whoStream s op.ctx op.edition) x.da x.len false = some (.here a)
    → e = ddrReady (xferPairs s (whoStream s op.ctx op.edition) g x false) x.len s → badByte e a x.len = none
    → Does (.getComplete g i .clean) s fun t => (strm t g 0).outst = (strm s g 0).outst.erase op
        ∧ ∀ j, j < x.len → t.mem.read (sramKey g x.sramBase + j) = e.mem.read (a + j))
  ∧ (∀ (s e : State) (g : Core) (i a : Nat) (op : LongOp) (x : Xfer_), Inv s → outstAt s g 3 i 0x20 = some op → x = putXfer op.sregs op.word
    → op.bad = none → op.xfer = 0 → (xferOf s 0).err = none → xferDone (xferOf s 0) = true → x.rows = 1 → canDma s = true
    → placeOf s (whoStream s op.ctx op.edition) x.da x.len true = some (.here a)
    → e = ddrReady (xferPairs s (whoStream s op.ctx op.edition) g x true) x.len s → badByte e (sramKey g x.sramBase) x.len = none
    → Does (.putComplete g i .clean) s fun t => (strm t g 3).outst = (strm s g 3).outst.erase op
        ∧ ∀ j, j < x.len → t.mem.read (a + j) = e.mem.read (sramKey g x.sramBase + j))
  ∧ (∀ (s : State) (g : Core) (st : Str) (w : IWord), Issues s g st 0x33 w → (ctx s (core s g).ctx).staged = none
    → Does (.modesync g st) s fun t => Advanced s t g st ∧ sreg (strm t g st).sregs (fld w 8 4) = 0)
  ∧ (∀ (s : State) (g : Core) (st : Str) (w : IWord) (m : StagedMode), Issues s g st 0x33 w → (ctx s (core s g).ctx).staged = some m
    → (sreg (strm s g st).sregs (fld w 12 4)).extractLsb' 0 32 = m.applyStep → (core s g).vcore ∉ m.arrived
    → (ctx s (core s g).ctx).map.length ≤ m.arrived.length + 1
    → Does (.modesync g st) s fun t => (ctx t (core s g).ctx).modeEd = m.edition ∧ (ctx t (core s g).ctx).modeTab = m.table
        ∧ (ctx t (core s g).ctx).staged = none)
  ∧ (∀ (s : State) (c : Ctx) (m : StagedMode), (ctx s c).staged = some m → m.firstAt.any (fun x => decide (x + m.timeout * 1000 ≤ s.now)) = true
    → Does (.modeEditionTimeout c) s fun t => (ctx t c).staged = none ∧ (ctx t c).modeEd = (ctx s c).modeEd)
  ∧ (∀ (s : State) (g : Core) (st : Str) (p : Word) (a : Nat), (strm s g st).state = .running → nextFetch (strm s g st) = some p
    → fetchAt s g p = .ok a → badByte s a 16 = none
    → Does (.fetchFill g st .clean) s fun t => (strm t g st).fbuf = (strm s g st).fbuf ++ [(p, BitVec.ofNat 128 (readNum s a 16))])
  ∧ (∀ (s : State) (g : Core) (st : Str) (v : Word), CoreOn s g (0x200 + 0x100 * st) → (core s g).state = .assigned
    → (strm s g st).state = .stopped ∨ (strm s g st).state = .halted
    → Does (.start g st v) s fun t => (strm t g st).state = .running ∧ (strm t g st).fault = 0 ∧ (strm t g st).pc = (strm s g st).pc)
  ∧ (∀ (s : State) (g : Core) (st : Str) (v : Word), CoreOn s g (0x200 + 0x100 * st) → (strm s g st).state = .running → (strm s g st).pending = false
    → Does (.stop g st v) s fun t => (strm t g st).state = .stopping)
  ∧ (∀ (s : State) (g : Core) (st : Str), (strm s g st).state = .stopping → (strm s g st).pending = false → quiet s g st = true
    → Does (.streamStopped g st) s fun t => (strm t g st).state = .stopped)

/-! ### The vector engine (07_vector_engine_and_formats.md) -/

/-- A VECTOR instruction whose operands pass the checks of R118 and R136 is issued and outstanding, and the oldest one completes by
writing its results and keeping their flags (R118, R119, R137, R141). -/
def Obligations.VectorComplete : Prop :=
  (∀ (c : Instr) (o : Nat) (s : State) (g : Core) (st : Str) (w : IWord),
    ((c = .vew g st ∧ o = 0x40) ∨ (c = .vfma g st ∧ o = 0x41) ∨ (c = .vun g st ∧ o = 0x42) ∨ (c = .vred g st ∧ o = 0x43)
      ∨ (c = .vcvt g st ∧ o = 0x44) ∨ (c = .vmm g st ∧ o = 0x45))
    → Issues s g st o w → vOperandBad (vIns (strm s g st).sregs w) (fld w 56 4) = none → vAddressBad (vIns (strm s g st).sregs w) = none
    → Does c s fun t => Advanced s t g st ∧ (strm t g st).outst.map LongOp.word = (strm s g st).outst.map LongOp.word ++ [w])
  ∧ (∀ (s : State) (g : Core) (op : LongOp) (ops : List LongOp), (strm s g 2).outst = op :: ops → (core s g).ueLines = []
    → Does (.vectorComplete g .clean) s fun t => (strm t g 2).outst = ops
        ∧ t.mem = (writeResults s op g (vIns op.sregs op.word) (resultCount (vIns op.sregs op.word))).1.mem
        ∧ (strm t g 2).flags = (writeResults s op g (vIns op.sregs op.word) (resultCount (vIns op.sregs op.word))).2.foldl (· ||| ·)
            (strm s g 2).flags)

/-! ### The optical tensor engine (03_optical_tensor_engine.md, 04_error_budget.md) -/

/-- OPTIC instructions with free queue slots and the phases of LOADW, FLIP and MVM complete (R48 to R50, R64, R101, R117, R121, R122):
an issued operation stands last on its engine's queue; the front operation of an engine goes through its phases, ending with the tile on
the shadow plane, the planes exchanged, or the running MVM holding the live plane. -/
def Obligations.OpticLoadsComplete : Prop :=
  (∀ (s : State) (g : Core) (st : Str) (w : IWord) (a : Nat), Issues s g st 0x30 w → a = (sreg (strm s g st).sregs (fld w 8 4)).toNat
    → a % 64 = 0 → a + 4160 ≤ 0x1000000 → (ote s g (fld w 12 2)).queue.length < 4
    → Does (.loadw g st) s fun t => Advanced s t g st ∧ (ote t g (fld w 12 2)).queue.map EngOp.kind = (ote s g (fld w 12 2)).queue.map EngOp.kind
        ++ [.loadw a (bit w 14 && decide (countOf (strm s g st).sregs w 16 20 < min 65536 (fld (core s g).seqCfg 0 17)))])
  ∧ (∀ (s : State) (g : Core) (st : Str) (w : IWord), Issues s g st 0x32 w → (ote s g (fld w 8 2)).queue.length < 4
    → Does (.flip g st) s fun t => Advanced s t g st
        ∧ (ote t g (fld w 8 2)).queue.map EngOp.kind = (ote s g (fld w 8 2)).queue.map EngOp.kind ++ [.flip])
  ∧ (∀ (s : State) (g : Core) (st : Str) (w : IWord) (p : MvmP), Issues s g st 0x31 w → p = mvmParams s g (strm s g st).sregs w
    → mvmBad w p = none → mvmOut p = none → (ote s g (fld w 72 2)).queue.length < 4
    → Does (.mvm g st) s fun t => Advanced s t g st
        ∧ (ote t g (fld w 72 2)).queue.map EngOp.kind = (ote s g (fld w 72 2)).queue.map EngOp.kind ++ [.mvm p])
  ∧ (∀ (s : State) (g : Core) (e : Eng) (q : EngOp) (qs : List EngOp), (ote s g e).queue = q :: qs → isLoadw q = true → q.phase = 0
    → Does (.loadwReadStart g e) s fun t => (ote t g e).queue = { q with phase := 1, at_ := s.now } :: qs)
  ∧ (∀ (s : State) (g : Core) (e : Eng) (q : EngOp) (qs : List EngOp) (a : Nat) (d : Bool), (ote s g e).queue = q :: qs
    → q.kind = .loadw a d → q.phase = 1 → q.cal = false → badByte s (sramKey g a) 4160 = none
    → Does (.loadwReadEnd g e .clean) s fun t =>
        (ote t g e).queue = { q with phase := 2, at_ := s.now, buf := s.mem.readN (sramKey g a) 4160 } :: qs)
  ∧ (∀ (s : State) (g : Core) (e : Eng) (q : EngOp) (qs : List EngOp) (a : Nat), (ote s g e).queue = q :: qs
    → q.kind = .loadw a false → q.phase = 2 → q.failed = false
    → Does (.loadwWriteStart g e) s fun t => (ote t g e).queue = { q with phase := 3, at_ := s.now } :: qs ∧ (ote t g e).swapReady = false
        ∧ (ote t g e).swapLatched = ((ote s g e).swapLatched || (ote s g e).swapReady))
  ∧ (∀ (s : State) (g : Core) (e : Eng) (q : EngOp) (qs : List EngOp), (ote s g e).queue = q :: qs → isLoadw q = true → q.phase = 3
    → q.cal = false → Does (.loadwComplete g e) s fun t => (ote t g e).queue = qs ∧ (ote t g e).shadow.codes = clampTile q.buf
        ∧ (ote t g e).shadow.codeSat = tileSat q.buf ∧ (ote t g e).shadow.digitalOnly = false ∧ (ote t g e).live = (ote s g e).live)
  ∧ (∀ (s : State) (g : Core) (e : Eng) (q : EngOp) (qs : List EngOp), (ote s g e).queue = q :: qs → isFlip q = true → q.phase = 0
    → (ote s g e).copying = false → (ote s g e).held = false
    → Does (.flipStart g e) s fun t => (ote t g e).queue = { q with phase := 1, at_ := s.now } :: qs ∧ (ote t g e).shadowQ = []
        ∧ (core t g).shadowDrop = satAdd 0xFFFF (core s g).shadowDrop (ote s g e).shadowQ.length)
  ∧ (∀ (s : State) (g : Core) (e : Eng) (q : EngOp) (qs : List EngOp), (ote s g e).queue = q :: qs → isFlip q = true → q.phase = 1
    → Does (.flipComplete g e) s fun t => (ote t g e).queue = qs ∧ (ote t g e).live = (ote s g e).shadow ∧ (ote t g e).shadow = (ote s g e).live
        ∧ ((ote s g e).swapLatched = true → (ote t g e).bench = (ote s g e).nextBench ∧ (ote t g e).swapLatched = false
            ∧ (ote t g e).phase = 0 ∧ (ote t g e).copying = true))
  ∧ (∀ (s : State) (g : Core) (e : Eng), Does (.swapCopyEnd g e) s fun t => (ote t g e).copying = false ∧ (ote t g e).queue = (ote s g e).queue)
  ∧ (∀ (s : State) (g : Core) (e : Eng) (q : EngOp) (qs : List EngOp) (p : MvmP), (ote s g e).queue = q :: qs → q.kind = .mvm p
    → q.phase = 0 → (ote s g e).held = false
    → Does (.mvmStart g e) s fun t => ∃ r : MvmRun, (ote t g e).queue = { q with phase := 1, at_ := s.now, run := r } :: qs
        ∧ r.plane = (ote s g e).live ∧ r.map = (ote s g e).map ∧ r.next = 0
        ∧ r.digital = (p.tol == 7 || ((ote s g e).live.digitalOnly && p.tol != 8)) ∧ r.skip = ((ote s g e).live.digitalOnly && p.tol == 8))

/-- Results, the reissue procedure, the DVE and the shadow complete (R55, R60, R65, R80, R87 to R91, R101): a tile goes to the write
buffer, the buffer to SRAM, an MVM ends with its summary record, the reissue steps follow one another, a recomputed tile and a shadow
vector are done. -/
def Obligations.OpticResultsComplete : Prop :=
  (∀ (s : State) (g : Core) (e : Eng) (q : EngOp) (qs : List EngOp) (p : MvmP), (ote s g e).queue = q :: qs → q.kind = .mvm p → q.phase = 1
    → q.run.digital = false → q.run.skip = false → q.run.reissuing = false → q.run.next < p.count → q.run.fedTo = none
    → q.run.stopAt = none → (ote s g e).paused = false → (ote s g e).hoPause = false → badByte s (sramKey g (p.inA + q.run.next * p.inStride)) 66 = none → p.tol = 8
    → Does (.outputTileReady g e true .clean) s fun t => ∃ (r : MvmRun) (codes : List Int) (word : Nat),
        (ote t g e).queue = { q with at_ := s.now, run := r } :: qs ∧ r.next = q.run.next + 1
        ∧ (∀ c ∈ codes, -128 ≤ c ∧ c ≤ 127) ∧ (q.run.plane.written = false → ∀ c ∈ codes, c = 0)
        ∧ (ote t g e).wbuf = (ote s g e).wbuf ++ [⟨p.outA + q.run.next * p.outStride,
            codes.map (BitVec.ofInt 8 ·) ++ [BitVec.ofNat 8 q.run.bench, 0], p.resA + 2 * q.run.next, word⟩])
  ∧ (∀ (s : State) (g : Core) (e : Eng) (x : Tile), Inv s → (ote s g e).wbuf = [x] → x.addr + x.bytes.length ≤ x.wordAddr
    → Does (.writeBufferResume g e) s fun t => (ote t g e).wbuf = [] ∧ (ote t g e).paused = false
        ∧ t.mem.readN (sramKey g x.addr) x.bytes.length = x.bytes ∧ t.mem.readN (sramKey g x.wordAddr) 2 = toBytes x.word 2)
  ∧ (∀ (s : State) (g : Core) (e : Eng) (q : EngOp) (qs : List EngOp) (p : MvmP), Inv s → (ote s g e).queue = q :: qs → q.kind = .mvm p
    → q.phase = 1 → mvmDone p q.run = true → (ote s g e).wbuf = [] → q.run.stopAt = none
    → Does (.mvmComplete g e) s fun t => (ote t g e).queue = qs ∧ t.mem.readN (sramKey g (summaryOff p)) 16 = summary p q.run)
  ∧ (∀ (s : State) (g : Core) (e : Eng) (q : EngOp) (qs : List EngOp) (p : MvmP), (ote s g e).queue = q :: qs → q.kind = .mvm p → q.phase = 1
    → canRaise p = true → q.run.digital = false → q.run.done = false → q.run.feed = true → q.run.reissuing = false → feedOver p q.run = true
    → Does (.reissueFeedStop g e) s fun t =>
        (ote t g e).queue = { q with run := { q.run with feed := false, fedTo := some (q.run.fedTo.getD (fedNow p q.run.next)) } } :: qs)
  ∧ (∀ (s : State) (g : Core) (e : Eng) (q : EngOp) (qs : List EngOp) (p : MvmP), (ote s g e).queue = q :: qs → q.kind = .mvm p → q.phase = 1
    → canRaise p = true → q.run.digital = false → q.run.done = false → q.run.feed = false → q.run.reissuing = false → q.run.list ≠ []
    → q.run.next = q.run.fedTo.getD p.count ∨ q.run.stopAt.isSome = true
    → Does (.reissueRun g e) s fun t =>
        (ote t g e).queue = { q with run := { q.run with list := sortList q.run.list, reissuing := true } } :: qs)
  ∧ (∀ (s : State) (g : Core) (e : Eng) (q : EngOp) (qs : List EngOp) (p : MvmP), (ote s g e).queue = q :: qs → q.kind = .mvm p → q.phase = 1
    → canRaise p = true → q.run.digital = false → q.run.done = false → q.run.reissuing = true → q.run.list = []
    → Does (.reissueResume g e) s fun t => ∃ r : MvmRun, (ote t g e).queue = { q with run := r } :: qs ∧ r.reissuing = false ∧ r.feed = true
        ∧ r.done = (q.run.next == p.count || q.run.stopAt.isSome))
  ∧ (∀ (s : State) (g : Core) (e : Eng) (q : EngOp) (qs : List EngOp) (p : MvmP) (v : Nat) (clip aged : Bool) (xs : List (Nat × Bool × Bool)),
    (ote s g e).queue = q :: qs → q.kind = .mvm p → q.phase = 1 → q.run.skip = false → q.run.dve = (v, clip, aged) :: xs
    → badByte s (sramKey g (p.inA + v * p.inStride)) 66 = none
    → Does (.dveRecomputeDone g e .clean) s fun t => (∃ r : MvmRun, (ote t g e).queue = { q with at_ := s.now, run := r } :: qs ∧ r.dve = xs ∧ r.next = q.run.next
          ∧ r.fell = true) ∧ (ote t g e).wbuf = [] ∧ (ote t g e).paused = false)
  ∧ (∀ (s : State) (g : Core) (e : Eng) (v : ShadowVec) (vs : List ShadowVec), (ote s g e).shadowQ = v :: vs → v.trans = false
    → Does (.shadowVectorDone g e) s fun t => (ote t g e).shadowQ = vs ∧ (ote t g e).histT = (ote s g e).histT
        ∧ (ote t g e).histF = (((v.rows.map fun x => (x.2.2.1 - x.2.1).natAbs ^ 2).foldl (· + ·) 0 * 1000000000000, v.varSum)
            :: (ote s g e).histF).take 64)
  ∧ (∀ (s : State) (g : Core) (e : Eng), (ote s g e).failTiles ≠ 0 → rateOk s (0x8021 * 4096 + g.val * 4 + e.val) 1000000 = true
    → s.log.queue.length < 256
    → Does (.failTileLogFlush g e) s fun t => (ote t g e).failTiles = 0
        ∧ t.log.queue = s.log.queue ++ [⟨s.time.ns, BitVec.ofNat 16 (hcode (coreHalf g) 0x21), BitVec.ofNat 16 g, BitVec.ofNat 32 e,
            BitVec.ofNat 32 (ote s g e).failTiles, BitVec.ofNat 32 (ote s g e).failTol, BitVec.ofNat 32 (ote s g e).failFb⟩])

/-! ### Calibration, locks and the compute combs (05_calibration_and_locking.md) -/

/-- The commands of the benchmark-row rotation and of the lock loops complete (R93 to R98, R102, R104, R107, R108): a phase gives way to the
next, phase 9 ends with the row's new results, a held swap becomes ready, the selected row's and channel's words are latched, a lock loss
and a passed pilot check are kept with the row. -/
def Obligations.CalibrationComplete : Prop :=
  (∀ (s : State) (g : Core) (e : Eng) (ms : List CalMeas), (ote s g e).stopped = false → (ote s g e).void = false → (ote s g e).phase < 9
    → (ote s g e).phaseAt + 25000 ≤ s.now → 512 ≤ (ote s g e).samples + exSamples s.now (ote s g e)
    → Does (.calPhaseEnd g e ms) s fun t => (ote t g e).phase = (ote s g e).phase + 1 ∧ (ote t g e).phaseAt = s.now ∧ (ote t g e).samples = 0)
  ∧ (∀ (s : State) (g : Core) (e : Eng) (m : CalMeas), (ote s g e).stopped = false → (ote s g e).void = false → (ote s g e).phase = 0
    → (ote s g e).calState = 1 → (ote s g e).phaseAt + 25000 ≤ s.now → 512 ≤ (ote s g e).samples + exSamples s.now (ote s g e)
    → Does (.calPhaseEnd g e [m]) s fun t => (Tbl.get {} (ote t g e).rows (ote s g e).bench).offTrim = m.offTrim)
  ∧ (∀ (s : State) (g : Core) (e : Eng) (m : CalMeas), (ote s g e).stopped = false → (ote s g e).void = false → (ote s g e).phase = 9
    → (ote s g e).calState = 1 → calCause m = none
    → (ote s g e).phaseAt + 25000 ≤ s.now → 512 ≤ (ote s g e).samples + exSamples s.now (ote s g e)
    → Does (.calPhaseEnd g e [m]) s fun t => (ote t g e).phase = 15 ∧ (Tbl.get {} (ote t g e).rows (ote s g e).bench).sc = m.sc
        ∧ (Tbl.get {} (ote t g e).rows (ote s g e).bench).kappa = m.kappa ∧ (Tbl.get {} (ote t g e).rows (ote s g e).bench).fails = 0)
  ∧ (∀ (s : State) (g : Core) (e : Eng) (x : Nat) (prio : Bool), (ote s g e).calState = 1 → (ote s g e).phase = 15
    → (ote s g e).swapReady = false → (ote s g e).swapLatched = false → nextRow s.now (ote s g e) = some (x, prio)
    → Does (.swapReadyDeferred g e) s fun t => (ote t g e).swapReady = true ∧ (ote t g e).nextBench = x ∧ (ote t g e).readyAt = s.now)
  ∧ (∀ (s : State) (g : Core) (e : Eng), (ote s g e).phase ≤ 9 → (ote s g e).stopped = false
    → (ote s g e).phaseAt + 1000000 ≤ s.now → (ote s g e).samples + exSamples s.now (ote s g e) < 512
    → Does (.exerciseBurst g e) s fun t => (ote t g e).burst = true)
  ∧ (∀ (s : State) (g : Core) (e : Eng), (ote s g e).swapReady = true ∨ (ote s g e).swapLatched = true
    → (ote s g e).readyAt + 16250000 ≤ s.now → s.log.queue.length < 256
    → rateOk s (0x8038 * 4096 + g.val * 4 + e.val) 100000000 = true
    → Does (.swapWaitAlarm g e) s fun t => t.log.queue = s.log.queue ++ [⟨s.time.ns, BitVec.ofNat 16 (hcode (coreHalf g) 0x38), BitVec.ofNat 16 g,
        BitVec.ofNat 32 e, BitVec.ofNat 32 (swapWait s.now (ote s g e)), BitVec.ofNat 32 (oldestAge s.now (ote s g e)), 0⟩])
  ∧ (∀ (s : State) (g : Core) (e : Eng) (v : Word), CoreOn s g (oteOff e 0x10)
    → Does (.oteRowSelWrite g e v) s fun t => (ote t g e).rowSel = v &&& 0x7F
        ∧ (ote t g e).selCal = if fld v 0 7 < 65 then (Tbl.get {} (ote s g e).rows (fld v 0 7)).sc ++ (Tbl.get {} (ote s g e).rows (fld v 0 7)).kappa
            else 0)
  ∧ (∀ (s : State) (g : Core) (e : Eng) (v : Word), CoreOn s g (oteOff e 0x20)
    → Does (.oteChanSelWrite g e v) s fun t => (ote t g e).chanSel = v &&& 0x3F
        ∧ (ote t g e).selTrim = ((ote s g e).trims.getD (fld v 0 6) 0).setWidth 32)
  ∧ (∀ (s : State) (g : Core) (e : Eng) (row : Fin 65), Does (.lockLost (.rowTrim g e row)) s fun t =>
      (Tbl.get {} (ote t g e).rows row).unlocked = true ∧ (row.val = (ote s g e).bench → (ote t g e).prio = (ote s g e).prio))
  ∧ (∀ (s : State) (c : Clu) (n : Fin 4), Does (.relockComplete (.compComb c n)) s fun t => (comb t c n).relocking = false
      ∧ (comb t c n).unlocked = (comb s c n).unlocked)
  ∧ (∀ (s : State) (g : Core) (e : Eng) (row : Fin 65), Does (.pilotCheckEnd (.rowTrim g e row) .pass) s fun t =>
      (Tbl.get {} (ote t g e).rows row).unlocked = false ∧ (Tbl.get {} (ote t g e).rows row).attempts = 0)
  ∧ (∀ (s : State) (g : Core) (e : Eng) (row : Fin 65), (Tbl.get {} (ote s g e).rows row).attempts < 3
    → Does (.pilotCheckEnd (.rowTrim g e row) .order) s fun t =>
        (Tbl.get {} (ote t g e).rows row).attempts = (Tbl.get {} (ote s g e).rows row).attempts + 1
        ∧ (Tbl.get {} (ote t g e).rows row).pilotFails = satAdd 255 (Tbl.get {} (ote s g e).rows row).pilotFails 1)

/-- The slew governor and the compute comb hand-over complete (R25, R106, R107): the driven slots move by at most one point of the interval
before, and the hand-over goes through its steps in order to the new comb in the map. -/
def Obligations.CombsComplete : Prop :=
  (∀ (s : State) (c : Clu) (n : Fin 4) (j m : Nat), (comb s c n).unlocked = true → combSlot s c n = some j → standby s c = some m
    → (clu s c).handover = none → (comb s c n).lostAt + 2000000 ≤ s.now
    → Does (.combRelockTimeout c n) s fun t => (clu t c).handover = some ⟨j, 1, true, false, s.now⟩)
  ∧ (∀ (s : State) (c : Clu) (want : List Nat) (n : Nat), n = (if (clu s c).drivenOf = 0 then slots s c else (clu s c).drivenOf)
    → (clu s c).driven ≤ n
    → Does (.governorIntervalEnd c want) s fun t => (clu t c).drivenOf = slots s c ∧ (clu t c).driven ≤ slots s c
      ∧ dutyLow (clu s c).driven n (slots s c) ≤ (clu t c).driven
      ∧ (clu t c).driven ≤ max (dutyLow (clu s c).driven n (slots s c)) (min (dutyTop (clu s c).driven n (slots s c))
          (slots s c * (if c.val < 8 then s.pwr.capA else s.pwr.capB) / 100)))
  ∧ (∀ (s : State) (c : Clu) (n : Fin 4) (loss : Half16) (line : Fin 64) (lineLoss : Half16), loss.toNat < 150 → lineLoss.toNat < 300
    → Does (.combPowerCheck c n loss line lineLoss) s fun t => (comb t c n).loss = loss ∧ (comb t c n).warned = decide (100 ≤ loss.toNat)
        ∧ (clu t c).handover = (clu s c).handover)
  ∧ (∀ (s : State) (c : Clu) (v : Word) (n : Nat), blockHeld s (cluBase c + 0x2020) = false → bit v 31 = true → fld v 0 2 ≠ 3
    → standby s c = some n → (clu s c).handover = none
    → Does (.cluCombGo c v) s fun t => (clu t c).handover = some ⟨fld v 0 2, 1, false, false, s.now⟩ ∧ (comb t c n).state = 1
        ∧ ∀ p ∈ slotEngines c (fld v 0 2), (ote t p.1 p.2).stopped = true)
  ∧ (∀ (s : State) (c : Clu) (j n at_ : Nat) (f r : Bool), (clu s c).handover = some ⟨j, 1, f, r, at_⟩ → standby s c = some n
    → Does (.handoverStandbyLocked c) s fun t => (clu t c).handover = some ⟨j, 2, f, r, s.now⟩ ∧ (comb t c n).state = 5
        ∧ ∀ p ∈ slotEngines c j, (ote t p.1 p.2).held = true)
  ∧ (∀ (s : State) (c : Clu) (j at_ : Nat) (f r : Bool), (clu s c).handover = some ⟨j, 2, f, r, at_⟩
    → Does (.handoverEnginesHeld c) s fun t => (clu t c).handover = some ⟨j, 3, f, r, s.now⟩)
  ∧ (∀ (s : State) (c : Clu) (j at_ : Nat) (f r : Bool), (clu s c).handover = some ⟨j, 2, f, r, at_⟩ → at_ + 2000000 ≤ s.now
    → Does (.handoverHoldTimeout c) s fun t => (clu t c).handover = some ⟨j, if f then 3 else 0, f, r, s.now⟩
        ∧ (f = false → ∀ p ∈ slotEngines c j, (ote t p.1 p.2).held = false ∧ (ote t p.1 p.2).stopped = false)
        ∧ (f = true → ∀ p ∈ slotEngines c j, (ote t p.1 p.2).hoPause = ringsBusy (ote s p.1 p.2)))
  ∧ (∀ (s : State) (c : Clu) (j at_ : Nat) (f r : Bool), (clu s c).handover = some ⟨j, 3, f, r, at_⟩
    → Does (.handoverSwitchDone c) s fun t => (clu t c).handover = some ⟨j, 4, f, r, s.now⟩)
  ∧ (∀ (s : State) (c : Clu) (j n at_ : Nat) (f r : Bool) (trims : List (List Half16)), (clu s c).handover = some ⟨j, 4, f, r, at_⟩
    → standby s c = some n → (clu s c).handWait = [] → n ≠ slotComb s c j
    → Does (.handoverConfirmEnd c true true trims) s fun t => (clu t c).handover = none ∧ (comb t c n).state = 3
        ∧ (comb t c (slotComb s c j)).state = 4 ∧ (clu t c).combMap = setFld (setFld (clu s c).combMap (2 * j) 2 n) 8 1 0
        ∧ (∀ p ∈ slotEngines c j, (ote t p.1 p.2).held = false)
        ∧ ∀ x ∈ (slotEngines c j).zip trims, (ote t x.1.1 x.1.2).trims = x.2)
  ∧ (∀ (s : State) (c : Clu) (j n at_ : Nat) (f : Bool) (io fo : Bool) (trims : List (List Half16)),
    (clu s c).handover = some ⟨j, 4, f, false, at_⟩ → standby s c = some n → (io && fo) = false
    → Does (.handoverConfirmEnd c io fo trims) s fun t => (clu t c).handover = some ⟨j, 0, f, true, s.now⟩ ∧ (comb t c n).state = 2
        ∧ (clu t c).combMap = (clu s c).combMap)
  ∧ (∀ (s : State) (c : Clu) (j n at_ : Nat) (f r : Bool), (clu s c).handover = some ⟨j, 0, f, r, at_⟩ → standby s c = some n
    → at_ + 100000000 ≤ s.now
    → Does (.handoverRetry c) s fun t => (clu t c).handover = some ⟨j, 1, f, r, s.now⟩ ∧ (comb t c n).state = 1)
/-! ### DDR and the copy engines (08_memory_system.md) -/

/-- The DDR commands complete (R151 to R159): a clean read changes nothing of DDR, an unrecoverable unit is poisoned, a request waits in its
channel's queue while its holder has a credit, a write is read back, a stripe leaves the gather buffer, the patrol moves on, device states change, DDR_RETIRE and migration chunks move the watermark, a guard
region reads zero. -/
def Obligations.DdrComplete : Prop :=
  (∀ (s : State) (req : Requester) (u : Nat), reach s req (256 * u) 256 false = true → reqGuard s req (256 * u) 256 = none
    → s.ddr.zeroing = [] → gathered s u = false → u ∉ s.ddr.poison → (chan s (chanOf s u)).dead = false → (chan s (chanOf s u)).reqs = []
    → Does (.ddrReadRequest req u .clean false false) s fun t => t.mem = s.mem ∧ t.ddr.poison = s.ddr.poison ∧ (chan t (chanOf s u)).reqs = []
        ∧ (chan t (chanOf s u)).ce = (chan s (chanOf s u)).ce ∧ (chan t (chanOf s u)).ue = (chan s (chanOf s u)).ue)
  ∧ (∀ (s : State) (req : Requester) (u : Nat), reach s req (256 * u) 256 false = true → reqGuard s req (256 * u) 256 = none
    → s.ddr.zeroing = [] → gathered s u = false → u ∉ s.ddr.poison → (chan s (chanOf s u)).dead = false → (chan s (chanOf s u)).reqs = []
    → stripeWhole s (devices s (256 * u)) (stripeOf (devices s (256 * u)) u) (some u) = false
    → Does (.ddrReadRequest req u .bad false false) s fun t => t.ddr.poison = u :: s.ddr.poison
        ∧ (chan t (chanOf s u)).ue = incSat (chan s (chanOf s u)).ue 1)
  ∧ (∀ (s : State) (req : Requester) (u : Nat) (res : BurstResult), reach s req (256 * u) 256 false = true → reqGuard s req (256 * u) 256 = none
    → s.ddr.zeroing = [] → gathered s u = false
    → ((chan s (chanOf s u)).reqs.filter fun q => q.holder = (holder req).1).length < (holder req).2
    → Does (.ddrReadRequest req u res true false) s fun t => (chan t (chanOf s u)).reqs
        = (chan s (chanOf s u)).reqs ++ [⟨(holder req).1, false, u, res, s.now⟩])
  ∧ (∀ (s : State) (req : Requester) (u : Nat) (res : BurstResult) (held : Bool), reach s req (256 * u) 256 false = true
    → reqGuard s req (256 * u) 256 = none → s.ddr.zeroing = [] → gathered s u = false
    → (holder req).2 ≤ ((chan s (chanOf s u)).reqs.filter fun q => q.holder = (holder req).1).length
    → Machine.exec (.ddrReadRequest req u res held false) s = .next s)
  ∧ (∀ (s : State) (req : Requester) (u off : Nat) (data : List Byte), Inv s → off + data.length ≤ 256 → data ≠ []
    → reach s req (256 * u + off) data.length true = true → reqGuard s req (256 * u + off) data.length = none → s.ddr.zeroing = []
    → ((chan s (chanOf s u)).reqs.filter fun q => q.holder = (holder req).1).length < (holder req).2
    → Does (.ddrWriteRequest req u off data false false) s fun t => t.mem.readN (256 * u + off) data.length = data)
  ∧ (∀ (s : State) (g : Gather) (gs : List Gather), s.ddr.gather = g :: gs → g.since + 2000 ≤ s.now
    → Does (.stripeGatherTimeout g.stripe) s fun t => t.ddr.gather = gs)
  ∧ (∀ (s : State) (u w : Nat), u = s.ddr.patrol → w = (devices s (256 * u)).length - 1 → s.ddr.patrolPar = false → u ∉ s.ddr.poison
    → (chan s (chanOf s u)).dead = false
    → Does (.patrolScrubStep .clean) s fun t => (t.ddr.patrolPar = decide (u % w + 1 = w ∨ capacity s ≤ 256 * (u + 1)))
        ∧ t.ddr.patrol = if t.ddr.patrolPar then u else u + 1)
  ∧ (∀ (s : State) (u : Nat) (ds : List Nat), u = s.ddr.patrol → ds = devices s (256 * u) → s.ddr.patrolPar = true
    → stripeOf ds u * (ds.length - 1) ∉ s.ddr.badParity → (chan s (parityDev ds (stripeOf ds u))).dead = false
    → Does (.patrolScrubStep .clean) s fun t => t.ddr.patrolPar = false
        ∧ t.ddr.patrol = if capacity s ≤ 256 * (u + 1) then 0 else u + 1)
  ∧ (∀ (s : State) (ch : Chan), (chan s ch).state = 1 → (chan s ch).crossedAt + 86400000000000 ≤ s.now → overThreshold s ch = false
    → Does (.watchClearTimeout ch) s fun t => (chan t ch).state = 0)
  ∧ (∀ (s : State) (ch : Chan) (cause : Nat), (chan s ch).state < 3 → (chan s ch).dead = false → s.boot.state = .ready → 64 ≤ usableCores s
    → Does (.deviceFailed ch cause) s fun t => (chan t ch).state = 3 ∧ (chan t ch).dead = true ∧ t.boot.state = .degraded)
  ∧ (∀ (s : State) (r : RingIx) (e : Entry), Waits s r 5 0x1A e → ent e 8 1 ≤ 11 → (chan s (ent e 8 1)).state = 2 ∨ (chan s (ent e 8 1)).state = 3
    → s.ddr.retired + s.ddr.migChan.length < 2 → s.ckpt.runs = [] → s.boot.state = .ready → 64 ≤ usableCores s
    → Does (.ddrRetire r) s fun t => (chan t (ent e 8 1)).state = 4 ∧ t.ddr.migChan = s.ddr.migChan ++ [ent e 8 1] ∧ t.ddr.migrating = true
        ∧ t.ddr.limit = limitOf (capOf (11 - s.ddr.retired - s.ddr.migChan.length)))
  ∧ (∀ (s : State) (n : Nat) (ns : List Nat), s.ddr.migrating = true → s.ddr.migChan = n :: ns → (∀ d, (chan s d).dead = false)
    → 262144 < s.ddr.watermark → Does .migrationChunk s fun t => t.ddr.watermark = s.ddr.watermark - 262144 ∧ t.ddr.migChan = n :: ns)
  ∧ (∀ (s : State) (n : Nat), s.ddr.migrating = true → s.ddr.migChan = [n] → (∀ d, (chan s d).dead = false) → s.ddr.watermark ≤ 262144
    → Does .migrationChunk s fun t => (chan t n).state = 5 ∧ t.ddr.migrating = false ∧ t.ddr.retired = s.ddr.retired + 1
        ∧ (n < 12 → bit t.ddr.inService n = false))
  ∧ (∀ (s : State) (reg : Fin 16) (a n : Nat), s.ddr.zeroing.find? (fun x => x.1 = reg.val) = some (reg.val, a, n)
    → Does (.guardRegionZero reg) s fun t => t.ddr.zeroing = s.ddr.zeroing.erase (reg.val, a, n)
      ∧ ∀ i, a ≤ i → i < a + n → t.mem.read i = 0)

/-- The copy engines' commands complete (R162 to R164, R170, R188): an entry is put on its engine, a descriptor starts and completes, a fill
of one row within a unit leaves its pattern in memory, a list runs again from its head. -/
def Obligations.CopyEnginesComplete : Prop :=
  (∀ (c : Instr) (o : Nat) (s : State) (r : RingIx) (e : Entry), ((c = .copy r ∧ o = 0x10) ∨ (c = .fill r ∧ o = 0x11) ∨ (c = .paged r ∧ o = 0x12))
    → takeEntry s r 2 o = some e
    → Does c s fun t => engine t (ringEngine (ring s r)) = engine s (ringEngine (ring s r))
        ++ [{ ring := some r, ctx := (entCtx s r e).map (Fin.ofNat 4), index := 0, entry := { e with started := true } }])
  ∧ (∀ (s : State) (eng : Fin 20) (d : CopyDesc) (ds : List CopyDesc), eng.val < 4 → engine s eng = d :: ds → d.running = false
    → Does (.copyDescriptorStart eng) s fun t => ∃ d' : CopyDesc, engine t eng = d' :: ds ∧ d'.running = true ∧ d'.entry = d.entry ∧ d'.ring = d.ring)
  ∧ (∀ (s : State) (eng : Fin 20) (d : CopyDesc) (ds : List CopyDesc) (r b : Nat), Inv s → eng.val < 4 → engine s eng = d :: ds → d.running = true
    → d.ring = some r → d.xfer = 0 → d.bad = none → d.row = 0 → xfer s 0 = none → canDma s = true → s.ddr.zeroing = []
    → entOpcode d.entry = 0x11 → descOk d.entry = true → entToken d.entry = false → ent d.entry 28 4 = 0
    → ent d.entry 16 8 % 256 + ent d.entry 24 4 ≤ 256 → ent d.entry 16 8 + ent d.entry 24 4 ≤ 0x10000000000000000
    → checkAt s (descWho s d) (ent d.entry 16 8) (ent d.entry 24 4) true = .ok (.here b) → b + ent d.entry 24 4 ≤ 0x10000000000000000
    → Does (.copyDescriptorComplete eng .clean) s fun t => engine t eng = ds ∧ ∀ j, j < ent d.entry 24 4
        → t.mem.read (b + j) = BitVec.ofNat 8 (ent d.entry (40 + j % 8) 1))
  ∧ (∀ (s : State) (c : Clu) (x : Ctx) (n : Nat), bit (ceList s c x).reg 31 = true → (ceList s c x).state ≠ 2
    → listTail s c (ceList s c x) = .ok n → n < listSize (ceList s c x) → n ≠ (ceList s c x).head
    → Does (.copyListWake c x) s fun t => (ceList t c x).state = 1 ∧ (ceList t c x).head = (ceList s c x).head)
  ∧ (∀ (s : State) (c : Clu) (x : Ctx) (v : Word) (n : Nat), blockHeld s (cluBase c + 0x1040) = false → bit v x = true
    → (∀ y : Ctx, y ≠ x → bit v y = false) → bit (ceList s c x).reg 31 = true → (ceList s c x).state = 2
    → listTail s c (ceList s c x) = .ok n → n < listSize (ceList s c x) → n ≠ (ceList s c x).head
    → Does (.copyListRestart c v) s fun t => (ceList t c x).state = 1 ∧ (ceList t c x).err = 0 ∧ (ceList t c x).head = (ceList s c x).head)

/-! ### The host interface and the rings (09_host_interface_and_rings.md) -/

/-- The ring commands and the WORK entries complete (R179 to R187, R192, R193): doorbells move the tail and the head, a fetched entry is in
flight, a ring is enabled, drains and is disabled, an interrupt leaves or waits in the PBA, POST and the AWAITs complete with status 0. -/
def Obligations.RingsComplete : Prop :=
  (∀ (s : State) (r : RingIx) (v : DWord), BarOpen s → (ring s r).state = .active → ringType (ring s r) ≠ 6
    → fld v 0 32 < ringN (ring s r) → ((ring s r).sqTail + ringN (ring s r) - (ring s r).sqHead) % ringN (ring s r)
        ≤ (fld v 0 32 + ringN (ring s r) - (ring s r).sqHead) % ringN (ring s r)
    → Does (.sqTailDoorbell (8 * r) 4 v) s fun t => (ring t r).sqTail = fld v 0 32 ∧ (ring t r).state = .active)
  ∧ (∀ (s : State) (r : RingIx) (v : DWord), BarOpen s → (ring s r).state = .active
    → fld v 0 32 < ringN (ring s r) → (fld v 0 32 + ringN (ring s r) - (ring s r).cqHead) % ringN (ring s r)
        ≤ ((ring s r).cqTail + ringN (ring s r) - (ring s r).cqHead) % ringN (ring s r)
    → Does (.cqHeadDoorbell (8 * r + 4) 4 v) s fun t => (ring t r).cqHead = fld v 0 32 ∧ (ring t r).state = .active)
  ∧ (∀ (s : State) (r : RingIx) (e : Entry), (ring s r).state = .active → ringType (ring s r) ≠ 6 → canDma s = true
    → ((ring s r).sqTail + ringN (ring s r) - (ring s r).sqHead) % ringN (ring s r) = 1 → 1 ≤ cqFree (ring s r)
    → e.bytes = s.mem.readN (hostKey (ringSqBase (ring s r) + 64 * ((ring s r).sqHead % ringN (ring s r)))) 64 → e.edition = s.hst.edition
    → e.gen = ((ringCtx s.hst.force r).map fun c => (ctx s c).gen).getD 0 → e.seq = s.hst.entSeq → e.started = false → entryRefusal s r e = none
    → Does (.ringFetchComplete r) s fun t => (ring t r).inflight = (ring s r).inflight ++ [e]
        ∧ (ring t r).sqHead = ((ring s r).sqHead + 1) % ringN (ring s r))
  ∧ (∀ (s : State) (r : RingIx) (v : Nat), v = fld (ring s r).cfg 16 7 → bit (ring s r).cfg 23 = true → (ring s r).since ≠ 0
    → fld (ring s r).mod 8 16 ≠ 0 → (ring s r).sinceAt + fld (ring s r).mod 8 16 * 1000 ≤ s.now
    → Does (.msixTimeExpiry r) s fun t => (ring t r).since = 0
        ∧ if bit (msixWord s (16 * v + 12)) 0 || !canDma s then bit t.hst.pba v = true
          else t.sent = ⟨.msix, v, [(msixWord s (16 * v)).toNat, (msixWord s (16 * v + 4)).toNat, (msixWord s (16 * v + 8)).toNat]⟩ :: s.sent)
  ∧ (∀ (s : State) (r : RingIx), blockHeld s (0x20018 + 0x40 * r) = false → (ring s r).state = .disabled → ringOk (ring s r) = true
    → Does (.ringEnable r) s fun t => (ring t r).state = .active ∧ (ring t r).enable = true ∧ (ring t r).sqHead = 0 ∧ (ring t r).sqTail = 0
        ∧ (ring t r).cqHead = 0 ∧ (ring t r).cqTail = 0 ∧ (ring t r).pass = true)
  ∧ (∀ (s : State) (r : RingIx), blockHeld s (0x20018 + 0x40 * r) = false → (ring s r).state = .active
    → (∀ e ∈ (ring s r).inflight, drainAborts (ring s r) e = false)
    → Does (.ringDisable r) s fun t => (ring t r).state = .draining ∧ (ring t r).enable = false ∧ (ring t r).inflight = (ring s r).inflight)
  ∧ (∀ (s : State) (r : RingIx), (ring s r).state = .draining → (ring s r).inflight = [] → (ring s r).pending = false
    → (s.hst.waitCq.any fun w => w.1 == r.val) = false
    → Does (.ringDrainComplete r) s fun t => (ring t r).state = .disabled)
  ∧ (∀ (s : State) (r : RingIx) (e : Entry), Waits s r 1 1 e → entToken e = false → Does (.post r) s fun t => Completed s t r e 0 [])
  ∧ (∀ (s : State) (r : RingIx) (e : Entry) (c : Nat), Waits s r 1 2 e → entToken e = false → entCtx s r e = some c
    → lastStep s c ≠ 0xFFFFFFFF → 0 ≤ (lastStep s c - BitVec.ofNat 32 (ent e 8 4)).toInt
    → Does (.awaitStep r) s fun t => Completed s t r e 0 (toBytes (lastStep s c).toNat 4))
  ∧ (∀ (s : State) (r : RingIx) (e : Entry) (c : Nat), Waits s r 1 3 e → entToken e = false → entCtx s r e = some c → ctxComplete s c = true
    → Does (.awaitDone r) s fun t => Completed s t r e 0 (toBytes (lastStep s c).toNat 4))

/-- The ADMIN commands on contexts, cores, mode editions and protection sets complete (R32 to R40, R123, R189, R190, R196, R197, R340). -/
def Obligations.ContextCommandsComplete : Prop :=
  (∀ (s s' : State) (r : RingIx) (e : Entry) (c : Nat) (count : Bool) (bs : List Byte) (tab : CtxTable) (gs : List Nat), Waits s r 5 0x10 e
    → c = ent e 8 1 → c ≤ 3 → count = decide (ent e 9 1 % 2 = 1) → ent e 12 4 ≤ 224 → (count = true → ent e 10 2 ≠ 0)
    → (ent e 12 4 = 0 ∧ s' = s ∧ bs = [] ∨ ent e 12 4 ≠ 0 ∧ s' = tableRead r e (ent e 16 8) (8 * ent e 12 4) s
        ∧ readTable s' r e (ent e 16 8) (8 * ent e 12 4) = .ok bs)
    → canDma s' = true → Inv s'
    → parseTable count bs (ent e 12 4) 0 {} = some tab → (count = true ∨ tab.cores ≠ []) → tab.lists.all (listInside tab) = true
    → createCheck s' c (if count then some (ent e 10 2) else none) tab = .ok gs
    → Does (.ctxCreate r) s fun t => Completed s' t r e 0 (toBytes (nextGen (ctx s' c).gen).toNat 1 ++ [0] ++ toBytes gs.length 2)
        ∧ (ctx t c).created = true ∧ (ctx t c).gen = nextGen (ctx s' c).gen ∧ (ctx t c).map = gs.map (fun g => some (Fin.ofNat 144 g))
        ∧ ∀ g ∈ gs, (core t g).state = .assigned ∧ (core t g).gen = nextGen (ctx s' c).gen)
  ∧ (∀ (s s' : State) (r : RingIx) (e : Entry) (c : Nat) (bs : List Byte), Waits s r 5 0x11 e → c = ent e 8 1 → c ≤ 3 → ctxResets s c = false
    → (ctx s c).created = true → (ctx s c).tearing = false → hasUnmapped s c = false → (coresOf s c).all (coreQuiet s) = true
    → s' = tableRead r e (ent e 16 8) (16 * (ctx s c).map.length) s → canDma s' = true → Inv s'
    → readTable s' r e (ent e 16 8) (16 * (ctx s c).map.length) = .ok bs → (ctx s' c).map.Nodup
    → Does (.ctxStart r) s fun t => Completed s' t r e 0 [] ∧ ∀ (v : Nat) (g : Core) (st : Str), (ctx s' c).map[v]? = some (some g)
        → (strm t g st).state = .running ∧ (strm t g st).pc = BitVec.ofNat 32 (getN bs (16 * v + 4 * st) 4) ∧ (strm t g st).sregs = [])
  ∧ (∀ (s : State) (r : RingIx) (e : Entry) (c : Nat), takeEntry s r 5 0x12 = some e → c = ent e 8 1 → c ≤ 3 → ctxResets s c = false
    → (ctx s c).created = true → (ctx s c).tearing = false
    → Does (.ctxTeardown r) s fun t => (ctx t c).tearing = true ∧ (ctx t c).tearRing = some (r.val, BitVec.ofNat 16 (entTag e), false))
  ∧ (∀ (s : State) (c : Ctx), (ctx s c).tearing = true
    → Does (.teardownComplete c) s fun t => (ctx t c).created = false ∧ (ctx t c).gen = (ctx s c).gen ∧ (ctx t c).map = []
        ∧ ∀ g ∈ coresOf s c, (core t g).state = .scrub)
  ∧ (∀ (s : State) (r : RingIx) (e : Entry) (c : Nat), takeEntry s r 5 0x13 = some e → c = ent e 8 1 → c ≤ 3 → (ctx s c).created = true
    → ent e 10 2 = ((ctx s c).modeEd.toNat + 1) % 65536 → (ctx s c).staged = none
    → (∀ v ∈ modeEntries e, bits v 0 3 < 5 ∧ bits v 3 4 < 8) → 1 ≤ ent e 16 4 → ent e 16 4 ≤ 100000
    → Does (.modeStage r) s fun t => ∃ m : StagedMode, (ctx t c).staged = some m ∧ m.edition = BitVec.ofNat 16 (ent e 10 2)
        ∧ m.applyStep = BitVec.ofNat 32 (ent e 12 4) ∧ m.timeout = ent e 16 4 ∧ m.table = modeEntries e ∧ m.arrived = [])
  ∧ (∀ (s : State) (r : RingIx) (e : Entry), takeEntry s r 5 0x18 = some e → ent e 8 2 < 144 → inGood s (ent e 8 2) = true
    → (core s (ent e 8 2)).state ≠ .absent → (core s (ent e 8 2)).state ≠ .fenced
    → Does (.coreFence r) s fun t => Tbl.get 0 t.idb.fenceList (ent e 8 2) = 7)
  ∧ (∀ (s : State) (r : RingIx) (e : Entry), Waits s r 5 0x19 e → ent e 8 2 < 144
    → Does (.fenceClear r) s fun t => Completed s t r e 0 [] ∧ Tbl.get 0 t.idb.fenceList (ent e 8 2) = 0)
  ∧ (∀ (s : State) (r : RingIx) (e : Entry), Waits s r 5 0x19 e → ent e 8 2 = 0xFFFF
    → Does (.fenceClear r) s fun t => Completed s t r e 0 [] ∧ t.idb.fenceList = [])
  ∧ (∀ (s : State) (v : Word), blockHeld s 0 = false → bit v 0 = true → s.hst.commitPending = none → commitRefusal s s.hst.staged = none
    → s.hst.older.length < 3
    → Does (.protCommit v) s fun t => t.hst.force = s.hst.staged ∧ t.hst.edition = s.hst.edition + 1 ∧ t.hst.refused = false)
  ∧ (∀ (s : State) (ed : Half16), (∃ p ∈ s.hst.older, p.1 = ed) → setUsed s ed = false → s.hst.commitPending = none
    → Does (.protSetRetire ed) s fun t => t.hst.older = s.hst.older.filter fun p => p.1 ≠ ed)

/-- The PCI Express side completes (R171 to R178): a reset of the host interface tears every context down and clears the protection sets,
Bus Master Enable, the link and BAR4 accesses take effect. -/
def Obligations.HostInterfaceComplete : Prop :=
  (∀ (c : Instr) (s : State), (c = .functionLevelReset ∨ c = .hotReset ∨ c = .linkDownTimeout)
    → Does c s fun t => t.hst.resetting = true ∧ t.hst.force = [] ∧ t.hst.staged = [] ∧ t.hst.edition = 0 ∧ t.rst.held = []
        ∧ ∀ x : Ctx, (ctx s x).created = true → (ctx t x).tearing = true)
  ∧ (∀ s : State, Does .hostInterfaceResetComplete s fun t => t.hst.resetting = false ∧ t.pins.perst = false ∧ t.hst.rings = s.hst.rings)
  ∧ (∀ (s : State) (rate10 formed : Nat), Does (.linkRateOrWidthChange rate10 formed) s fun t => t.hst.rate10 = rate10
      ∧ t.hst.width = if formed = 2 then 1 else formed)
  ∧ (∀ (s : State) (bme d3hot mse : Bool) (ctl : PciCtl), Does (.busMasterEnableChange bme d3hot mse ctl) s fun t => t.hst.bme = bme
      ∧ t.hst.d3hot = d3hot ∧ t.hst.mse = mse ∧ t.hst.pci = ctl ∧ (canDma t = true → t.hst.waitCq = []))
  ∧ (∀ (s : State) (r : RingIx) (why : HostFail) (bus : DWord), (ring s r).state = .active
    → Does (.hostReadFailure (.ringFetch r) why bus) s fun t => (ring t r).state = .error ∧ (ring t r).err = 3
        ∧ t.hst.aer = ⟨if why = .timeout then 1 else 2, false, bus.toNat, 32, 0xF⟩ :: s.hst.aer)
  ∧ (∀ (s : State) (g : Core) (st : Str) (i : Nat) (op : LongOp) (why : HostFail) (bus : DWord), (strm s g st).outst[i]? = some op
    → op.bad = none → (strm s g st).state = .running
    → Does (.hostReadFailure (.stream g st i) why bus) s fun t => (strm t g st).state = .faulted ∧ fld (strm t g st).fault 0 8 = 0x0F
        ∧ (strm t g st).faultInfo = BitVec.ofNat 32 bus.toNat)
  ∧ (∀ (s : State) (bus : DWord), Does (.poisonedTlpReceived none bus) s fun t => t.hst.aer = ⟨3, true, bus.toNat, 32, 0xF⟩ :: s.hst.aer
      ∧ t.mem = s.mem)
  ∧ (∀ (s : State) (g : Core) (st : Str) (i : Nat) (op : LongOp) (bus : DWord), (strm s g st).outst[i]? = some op → op.bad = none
    → (strm s g st).state = .running
    → Does (.poisonedTlpReceived (some (.stream g st i)) bus) s fun t => (strm t g st).state = .faulted ∧ fld (strm t g st).fault 0 8 = 0x0C
        ∧ (strm t g st).faultInfo = BitVec.ofNat 32 bus.toNat)
  ∧ (∀ (s : State) (off len : Nat), BarOpen s → (bar4 s).2 = true
    → (bar4 s).1 + off + len ≤ capacity s → badByte (readRange ((bar4 s).1 + off) len s) ((bar4 s).1 + off) len = none
    → Does (.bar4Read off len) s fun t => t.sent.head? = some ⟨.completion, 0, off :: (s.mem.readN ((bar4 s).1 + off) len).map BitVec.toNat⟩
        ∧ t.mem.readN ((bar4 s).1 + off) len = s.mem.readN ((bar4 s).1 + off) len)
  ∧ (∀ (s : State) (off : Nat) (data : List Byte), Inv s → BarOpen s → (bar4 s).2 = true
    → data ≠ [] → (bar4 s).1 + off + data.length ≤ userLimit s → (bar4 s).1 + off + data.length ≤ capacity s
    → Does (.bar4Write off (data.map some)) s fun t => t.mem.readN ((bar4 s).1 + off) data.length = data)
  ∧ (∀ (s : State) (off : Nat) (data : List (Option Byte)), Inv s → BarOpen s
    → (bar4 s).2 = true → data ≠ [] → (bar4 s).1 + off + data.length ≤ userLimit s → (bar4 s).1 + off + data.length ≤ capacity s
    → Does (.bar4Write off data) s fun t => ∀ i, i < data.length
        → t.mem.read ((bar4 s).1 + off + i) = (data.getD i none).getD (s.mem.read ((bar4 s).1 + off + i)))
/-! ### Registers (10_register_conventions_and_map.md), counters, sampling and the logbook (18_counters_sampling_logbook.md) -/

/-- The register accesses complete (R199, R200, R202 to R207): a write reaches ID_TEST_RW, a posted write is accepted and takes effect or is
dropped, a read answers and clears an RC register, a refused access is counted and recorded. -/
def Obligations.RegistersComplete : Prop :=
  (∀ (s : State) (v : DWord), BarOpen s
    → Does (.registerWrite 0x10200 1 0xF v) s fun t => t.idb.testRw = v.extractLsb' 0 32 ∧ t.idb.testMw = s.idb.testMw)
  ∧ (∀ (s : State) (off : Nat) (m : Word) (v : DWord), BarOpen s → refusal s off 1 0xF = 0 → blockHeld s off = false → pwMask off = some m
    → (∀ w ∈ s.idb.pw, blockHigh w.off ≠ blockHigh off) → off ≠ 0x40014 → off ≠ 0x40028
    → Does (.registerWrite off 1 0xF v) s fun t => ∃ w : PwWrite, t.idb.pw = s.idb.pw ++ [w] ∧ w.off = off ∧ w.value = v.extractLsb' 0 32 &&& m)
  ∧ (∀ (s : State) (off lenDw : Nat) (be : BitVec 4) (v : DWord), BarOpen s → refusal s off lenDw be ≠ 0
    → Does (.registerWrite off lenDw be v) s fun t => t.idb.busErr = incSat s.idb.busErr 1 ∧ t.hst.aer = ⟨4, true, off, lenDw, be.toNat⟩ :: s.hst.aer
        ∧ t.idb.busErrLast = BitVec.ofNat 32 (0x80000000 + refusal s off lenDw be * 0x10000000 + off % 0x2000000))
  ∧ (∀ (s : State) (off lenDw : Nat) (be : BitVec 4), BarOpen s → refusal s off lenDw be ≠ 0
    → Does (.bar0ReadRefused off lenDw be) s fun t => t.idb.busErr = incSat s.idb.busErr 1 ∧ t.sent = ⟨.completion, 3, [off]⟩ :: s.sent
        ∧ t.hst.aer = ⟨4, false, off, lenDw, be.toNat⟩ :: s.hst.aer
        ∧ t.idb.busErrLast = BitVec.ofNat 32 (refusal s off lenDw be * 0x10000000 + off % 0x2000000))
  ∧ (∀ (s : State) (off : Nat), BarOpen s → refusal s off 1 0xF = 0
    → Does (.rcRead (.bar0 off 1)) s fun t => ∃ v : Nat, t.sent = ⟨.completion, 0, [off, v]⟩ :: s.sent)
  ∧ (∀ s : State, BarOpen s → s.idb.pw = []
    → Does (.rcRead (.bar0 0x10208 1)) s fun t => t.sent = ⟨.completion, 0, [0x10208, s.idb.testRc.toNat]⟩ :: s.sent ∧ t.idb.testRc = 0)
  ∧ (∀ (s : State) (r : RingIx), BarOpen s → Does (.rcRead (.doorbell (8 * r) 8)) s fun t =>
      t.sent = ⟨.completion, 0, [8 * r.val, (ring s r).sqHead, (ring s r).cqTail]⟩ :: s.sent)
  ∧ (∀ (s : State) (w : PwWrite) (ws : List PwWrite), s.idb.pw = w :: ws → w.off = 0x70010 → blockHeld s 0x70010 = false
    → Does (.pwWriteEffect 0x70010) s fun t => t.pwr.cfg = w.value ∧ t.idb.pw = ws.filter fun x => x.off ≠ 0x70010)
  ∧ (∀ (s : State) (w : PwWrite) (ws : List PwWrite), s.idb.pw = w :: ws → s.log.queue.length < 256
    → Does (.pwWriteDrop w.off) s fun t => t.idb.pw = ws.filter (fun x => x.off ≠ w.off)
        ∧ t.log.queue = s.log.queue ++ [⟨s.time.ns, 0x0103, BitVec.ofNat 16 (blockSrc w.off), BitVec.ofNat 32 w.off, BitVec.ofNat 32 w.value.toNat,
            BitVec.ofNat 32 (pwBound w.off), 0⟩])
  ∧ (∀ (s : State) (v : Word), Does (.idTestSet v) s fun t => t.idb.testRc = s.idb.testRc ||| v.extractLsb' 0 16)

/-- The counter, sampling and logbook commands complete (R364 to R366, R369, R370, R372 to R376). -/
def Obligations.TallyComplete : Prop :=
  (∀ (s : State) (off : Nat) (v : Word), isCounter off = true → blockHeld s off = false → coreDead s off = false
    → Does (.counterCfgWrite off v) s fun t => (counter t off).cfg = v &&& 0x001F01FF ∧ (counter t off).live = 0 ∧ (counter t off).ovf = false
        ∧ (counter t off).snap = (counter s off).snap)
  ∧ (∀ (s : State) (off : Nat), (counter s off).live = 281474976710655
    → Does (.counterWrap off) s fun t => (counter t off).live = 0 ∧ (counter t off).ovf = true)
  ∧ (∀ (s : State) (v : Word), blockHeld s 0x060000 = false → bit v 0 = true
    → Does (.snapshotCmd v) s fun t => t.tally.snapCount = s.tally.snapCount + 1 ∧ t.tally.snapTime = s.time.ns
        ∧ ∀ off, (counter t off).snap = (counter s off).live ∧ (counter t off).snapOvf = (counter s off).ovf ∧ (counter t off).live = (counter s off).live)
  ∧ (∀ s : State, snapPeriod s ≠ 0 → s.tally.periodAt + snapPeriod s * 1000 ≤ s.now
    → Does .periodicSnapshot s fun t => t.tally.snapCount = s.tally.snapCount + 1 ∧ t.tally.periodAt = s.tally.periodAt + snapPeriod s * 1000
        ∧ ∀ off, (counter t off).snap = (counter s off).live)
  ∧ (∀ (s : State) (g : Core) (st : Str) (x : SampTag), (core s g).sampNext = some x → x.stream = st.val → (core s g).sampTag = none
    → Does (.sampleTag g st) s fun t => (core t g).sampTag = some x ∧ (core t g).sampNext = none)
  ∧ (∀ (s : State) (x : SampRec) (xs : List SampRec), Inv s → s.tally.sampQueue = x :: xs → (∀ g, (core s g).sampTag = none)
    → (s.tally.sampWrite - s.tally.sampRead).toNat < sampCap s
    → Does .sampleRecordWrite s fun t => t.tally.sampQueue = xs ∧ t.tally.sampWrite = s.tally.sampWrite + 1 ∧ t.tally.sampSeq = s.tally.sampSeq + 1
        ∧ t.mem.readN (sampBaseAt s + 64 * (s.tally.sampWrite.toNat % sampCap s)) (4 + x.bytes.length) = toBytes s.tally.sampSeq.toNat 4 ++ x.bytes)
  ∧ (∀ (s : State) (v : Word), blockHeld s 0x060020 = false → s.tally.enabled = false → s.tally.draining = false
    → sampBaseAt s + 64 * sampCap s ≤ userLimit s
    → Does (.samplingEnable v) s fun t => t.tally.enabled = true ∧ t.tally.sampCfg = v &&& 0x00F0001F ∧ t.tally.sampWrite = 0
        ∧ t.tally.sampRead = 0 ∧ t.tally.sampSeq = 0)
  ∧ (∀ (s : State) (v : Word), blockHeld s 0x060020 = false → s.tally.enabled = true
    → Does (.samplingDisable v) s fun t => t.tally.enabled = false ∧ t.tally.draining = true)
  ∧ (∀ s : State, s.tally.draining = true → s.tally.sampQueue = [] → (∀ p ∈ s.cores, p.2.sampTag = none) → s.tally.pending = false
    → Does .samplingDrainEnd s fun t => t.tally.draining = false ∧ t.tally.enabled = s.tally.enabled)
  ∧ (∀ (s : State) (x : LogRec) (xs : List LogRec), Inv s → s.log.queue = x :: xs → s.log.lostNow = 0
    → Does .logbookRecord s fun t => t.log.queue = xs ∧ t.log.head = s.log.head + 1
        ∧ Tbl.get (0, x) t.log.ring (s.log.head.toNat % 65536) = (s.log.head, x)
        ∧ t.mem.readN (userLimit s + 268435456 + 32 * (s.log.head.toNat % 65536)) 32 = logBytes s.log.head x)

/-! ### Fabric optics (11_fabric_optics.md) -/

/-- The fabric optics commands complete (R217 to R228): a tuned lane is checked, readings are kept, the comb hand-over goes through its
steps, the selected tap's reading is latched. -/
def Obligations.FabricOpticsComplete : Prop :=
  (∀ (s : State) (p : Plane) (l : Lane) (rx : Bool), (laneSt s p l rx).state = .tuning
    → Does (.laneRetuneComplete p l rx) s fun t => (laneSt t p l rx).state = .checking)
  ∧ (∀ (s : State) (p : Plane) (l : Lane) (cdbm b : Half16) (k : Nat), s.log.queue.length < 256 → cdbm.toInt < -1100
    → (rxLane s p l).state ≠ .dark → k = (rxLane s p l).chan → b = tapBase s p 4 k
    → Does (.rxPowerLow p l cdbm) s fun t => t.log.queue = s.log.queue ++ [⟨s.time.ns, BitVec.ofNat 16 (fabSrc p 8),
        BitVec.ofNat 16 (fabSrc p (0x10 + l)), 4, BitVec.ofNat 32 k,
        BitVec.ofNat 32 (if b = 0x8000 then 0 else satWord (b.toInt - cdbm.toInt)), BitVec.ofNat 32 (satWord cdbm.toInt)⟩])
  ∧ (∀ (s : State) (p : Plane) (c : Fin 6) (i : Fin 32) (v : Half16) (means : List (Fin 2 × Half16)),
    Does (.tapRefresh p [(c, i, v)] means) s fun t => tapRead t p c i = v)
  ∧ (∀ (s : State) (p : Plane) (m : Fin 2) (v : Half16), Does (.tapRefresh p [] [(m, v)]) s fun t =>
      (fabComb t p m).loss = BitVec.ofNat 16 (min 0xFFFF ((commission s p m 32).toInt - v.toInt).toNat))
  ∧ (∀ (s : State) (p : Plane), blockHeld s (0x100020 + 0x10000 * p) = false → (fab s p).hand = none → workingSpare s p = true
    → scheduledRuns s = false → switching s = false → (fabComb s p (spareOf s p)).checked = false
    → Does (.fabCombGo p) s fun t => (fab t p).hand = some { step := 1, forced := false, since := s.now, asked := s.now }
        ∧ (fabComb t p (spareOf s p)).state = 1)
  ∧ (∀ (s : State) (p : Plane) (h : FabHand), (fabComb s p (spareOf s p)).state = 1 → (fab s p).hand = some h → h.step = 1 → h.forced = false
    → Does (.fabSpareLocked p) s fun t => (fab t p).hand = some { h with step := 6, turn := false, since := s.now, low := max 1 (min 90 (fld (fab s p).handCfg 16 8)), window := max 1 (min 3600 (fld (fab s p).handCfg 0 16)) }
        ∧ (fabComb t p (spareOf s p)).state = 2)
  ∧ (∀ (s : State) (p : Plane) (h : FabHand), (fabComb s p (spareOf s p)).state = 1 → (fab s p).hand = some h → h.step = 1 → h.forced = true
    → Does (.fabSpareLocked p) s fun t => (fab t p).hand = some { h with step := 3, turn := false, since := s.now }
        ∧ ∀ l : Lane, (txLane s p l).state = .lit → (txLane t p l).state = .held ∧ (pair t p l).held = true)
  ∧ (∀ (c : Instr) (s : State) (p : Plane) (h : FabHand), (fab s p).hand = some h → h.step = 6
    → ((∃ load : Nat, c = .fabLowTraffic p load ∧ load < h.low) ∨ (c = .fabHandoverWindowExpiry p ∧ h.asked + h.window * 1000000000 ≤ s.now))
    → Does c s fun t => (fab t p).hand = some { h with step := 2, since := s.now }
        ∧ ∀ l : Lane, (txLane s p l).state = .lit → (txLane t p l).state = .held ∧ (pair t p l).held = true)
  ∧ (∀ (s : State) (p : Plane) (h : FabHand), (fab s p).hand = some h → h.step = 2
    → (∀ l : Lane, (pair s p l).held = true → (pair s p l).unacked = [] ∧ (pair s p l).replay = [])
    → Does (.fabHandoverDrainDone p) s fun t => (fab t p).hand = some { h with step := 3 })
  ∧ (∀ (s : State) (p : Plane) (h : FabHand), (fab s p).hand = some h → h.step = 2 → h.since + 1000000 ≤ s.now → s.steer.deferred = []
    → Does (.fabHandoverDrainTimeout p) s fun t => (fab t p).hand = some { h with step := 0, since := s.now }
        ∧ ∀ l : Lane, (txLane s p l).state = .held → (txLane t p l).state = .lit ∧ (pair t p l).held = false)
  ∧ (∀ (s : State) (p : Plane) (h : FabHand), (fab s p).hand = some h → h.step = 3 → s.steer.deferred = []
    → Does (.fabSwitchDone p) s fun t => (fab t p).hand = some { h with step := 4 } ∧ inService t p = spareOf s p
        ∧ (fabComb t p (spareOf s p)).state = 5)
  ∧ (∀ (s : State) (p : Plane) (h : FabHand) (us : Nat), (fab s p).hand = some h → h.step = 4 → s.steer.deferred = []
    → Does (.fabRelockDone p true us) s fun t => (fab t p).hand = none ∧ (fabComb t p (inService s p)).state = 3
        ∧ (fabComb t p (spareOf s p)).state = 4)
  ∧ (∀ (s : State) (p : Plane) (h : FabHand), (fab s p).hand = some h → h.step = 0 → h.turn = false → h.since + 100000000 ≤ s.now
    → (fabComb s p (spareOf s p)).checked = false
    → Does (.fabHandoverRetry p) s fun t => (fab t p).hand = some { h with step := 1, turn := false, since := s.now })
  ∧ (∀ (s : State) (p : Plane), (fabComb s p (inService s p)).unlocked = true → (fabComb s p (inService s p)).lostAt + 2000000 ≤ s.now
    → (fab s p).txRetired = false → workingSpare s p = true → (fab s p).hand = none → (fabComb s p (spareOf s p)).checked = false
    → Does (.fabCombRelockTimeout p) s fun t => (fab t p).hand = some { step := 1, forced := true, since := s.now, asked := s.now })
  ∧ (∀ (s : State) (p : Plane) (v : Word), blockHeld s (0x100200 + 0x10000 * p) = false → fld v 8 3 < 6
    → (fld v 8 3 = 2 ∨ fld v 8 3 = 5 → fld v 0 5 < 16)
    → Does (.fabTapSelWrite p v) s fun t => (fab t p).tapSel = v &&& 0x71F ∧ (fab t p).tapPwr = tapRead s p (fld v 8 3) (fld v 0 5)
        ∧ (fab t p).tapBase = if fld v 8 3 < 2 then commission s p (fld v 8 3) (fld v 0 5) else tapBase s p (fld v 8 3) (fld v 0 5))

/-! ### The Ullos link (12_ullos_link.md) -/

/-- The commands of a pair complete (R233 to R240, R243, R246, R250, R251): training phases, retrains, replays, acknowledgements and credits,
flit slots, LANE flits and what falls due. -/
def Obligations.LinkPairsComplete : Prop :=
  (∀ (s : State) (p : Plane) (l : Lane) (f : TrainFrame) (ber : Word) (us : Nat), training (pair s p l) = true
    → (pair s p l).phase = 1 → Does (.trainingPhaseComplete p l f ber us) s fun t => (pair t p l).phase = 2 ∧ (pair t p l).phaseAt = s.now)
  ∧ (∀ (s : State) (p : Plane) (l : Lane) (f : TrainFrame) (ber : Word) (us : Nat), training (pair s p l) = true → (pair s p l).phase = 2
    → trainGood f = true → 2 ≤ f.phase → trainIdOk f (me s) p (rxLane s p (pair s p l).rxLane).chan (gazOffset s p) = true
    → Does (.trainingPhaseComplete p l f ber us) s fun t => (pair t p l).phase = if (pair s p l).quick then 4 else 3)
  ∧ (∀ (s : State) (p : Plane) (l : Lane) (f : TrainFrame) (ber : Word) (us : Nat), training (pair s p l) = true → (pair s p l).phase = 4
    → (pair s p l).fresh = true → trainGood f = true → 4 ≤ f.phase → f.code ≠ 0 → f.code ≠ 3
    → Does (.trainingPhaseComplete p l f ber us) s fun t => (pair t p l).state = .up ∧ (pair t p l).phase = 0 ∧ (pair t p l).next = 0
        ∧ (pair t p l).acked = 0xFFF ∧ (pair t p l).cred = (224, 224, 32) ∧ (pair t p l).peerFrom = f.from_ ∧ (pair t p l).codeNext = f.code.val
        ∧ (pair t p l).laneDue = true)
  ∧ (∀ (s : State) (p : Plane) (l : Lane) (cause : Nat), training (pair s p l) = true → (pair s p l).fails < 2
    → (pair s p l).phaseAt + phaseBound (pair s p l) ≤ s.now
    → Does (.trainingPhaseTimeout p l cause) s fun t => (pair t p l).attempt = (pair s p l).attempt + 1 ∧ (pair t p l).phase = 1
        ∧ (pair t p l).trainFails = satAdd 255 (pair s p l).trainFails 1)
  ∧ (∀ (s : State) (p : Plane) (l : Lane), (pair s p l).state = .up ∨ (pair s p l).state = .active
    → Does (.codeSwitch p l) s fun t => (pair t p l).code = (pair s p l).codeNext)
  ∧ (∀ (s : State) (p : Plane) (l : Lane), (pair s p l).rxcode = 2 → (pair s p l).state = .up ∨ (pair s p l).state = .active
    → Does (.shortCodeBerExceeded p l) s fun t => (pair t p l).rxcode = 1 ∧ (pair t p l).state = .retrain)
  ∧ (∀ (c : Instr) (s : State) (p : Plane) (l : Lane), (c = .codewordLockLost p l ∨ c = .preFecBerExceeded p l)
    → (pair s p l).state = .up ∨ (pair s p l).state = .active
    → Does c s fun t => (pair t p l).state = .retrain ∧ (pair t p l).unacked = (pair s p l).unacked ∧ (pair t p l).next = (pair s p l).next)
  ∧ (∀ (s : State) (p : Plane) (mask : Half16), Does (.pairRetrainCmd p mask) s fun t => ∀ l : Lane, bit mask l = true
      → (pair s p l).state = .up ∨ (pair s p l).state = .active → (pair t p l).state = .retrain)
  ∧ (∀ (s : State) (p : Plane) (l : Lane) (f : Flit), receiving (pair s p l) = true → (pair s p l).beaconDue = false → (pair s p l).laneDue = false
    → (pair s p l).replay = [] → mayIssue s p l = true → nextFlit (pair s p l) = some f → s.link.xfers = [] → (pair s p l).wait = []
    → Does (.flitSlot p l) s fun t => (pair t p l).next = ((pair s p l).next + 1) % 4096 ∧ (pair t p l).queue = (pair s p l).queue.erase f
        ∧ (pair t p l).unacked = (pair s p l).unacked ++ [{ f with seq := (pair s p l).next, body := stamp s.steer.edition f.body }])
  ∧ (∀ (s : State) (p : Plane) (l : Lane), receiving (pair s p l) = true → (pair s p l).beaconDue = false → (pair s p l).laneDue = true
    → Does (.flitSlot p l) s fun t => (pair t p l).laneDue = false ∧ ∃ m : Msg, m.chan = .flit ∧ m.kind = 6 ∧ t.sent = m :: s.sent)
  ∧ (∀ (s : State) (p : Plane) (l : Lane) (b10 b1 : Word), receiving (pair s p l) = true
    → Does (.laneReportDue p l b10 b1) s fun t => (pair t p l).laneDue = true ∧ (pair t p l).berRx = b10 ∧ (pair t p l).berMs = b1)
  ∧ (∀ (s : State) (p l : Nat) (xs : List (Nat × Nat)), ((allPairs s).filter fun x => (pair s x.1 x.2).state = .active) = (p, l) :: xs
    → Does .beaconDue s fun t => (pair t p l).beaconDue = true)
  ∧ (∀ (s : State) (p : Plane) (l : Lane), (pair s p l).unacked ≠ [] → (pair s p l).sameReplays < 7 → (pair s p l).timeouts < 3
    → (pair s p l).ackAt + 10000 ≤ s.now
    → Does (.ackTimeout p l) s fun t => (pair t p l).replay = (pair s p l).unacked ∧ (pair t p l).timeouts = (pair s p l).timeouts + 1
        ∧ (pair t p l).replays = satAdd 0xFFFF (pair s p l).replays 1)
  ∧ (∀ (s : State) (h : FlitHdr) (type : Fin 16) (payload : List Byte), receiving (pair s h.p h.l) = true
    → flitBad s h type (0, 0, false) payload = false → h.nak = false
    → Does (.idle h type payload) s fun t => (pair t h.p h.l).discards = (pair s h.p h.l).discards + b2n (decide (8 ≤ type.val)) ∧ (pair t h.p h.l).peerCr = (h.cr0.toNat, h.cr1.toNat, h.cr2.toNat)
        ∧ (pair t h.p h.l).unacked = if (pair s h.p h.l).unacked.length < (h.ack.toNat + 4096 - (pair s h.p h.l).acked) % 4096
            then (pair s h.p h.l).unacked else (pair s h.p h.l).unacked.drop ((h.ack.toNat + 4096 - (pair s h.p h.l).acked) % 4096))
  ∧ (∀ (s : State) (h : FlitHdr) (rep : LaneReport), receiving (pair s h.p h.l) = true
    → flitBad s h 6 (0, 0, false) (lanePayload rep) = false → h.nak = false → rep.retrain = false
    → s.link.xfers = []
    → Does (.lane h rep) s fun t => (pair t h.p h.l).peerFrom = rep.fromEd ∧ (pair t h.p h.l).peerEd = rep.edition ∧ (pair t h.p h.l).berTx = rep.ber10s
        ∧ ((pair s h.p h.l).loop = false
            → (pair t h.p h.l).state = if (pair s h.p h.l).from_ = rep.fromEd then .active else .up))
  ∧ (∀ (s : State) (p : Plane) (l : Lane), (pair s p l).notices ≠ []
    → Does (.noticeFlush p l) s fun t => (pair t p l).notices = (pair s p l).notices.drop 15
        ∧ (pair t p l).queue = (pair s p l).queue ++ [{ tc := 2, body := .notice ((pair s p l).notices.take 15) }])
  ∧ (∀ (s : State) (m : Modu) (pctx : Ctx) (new old : Byte), Does (.genChange m pctx new old) s fun t => ∀ c : Ctx,
      bit (Tbl.get 0 s.steer.bind (32 * c + m)) 31 = true → fld (Tbl.get 0 s.steer.bind (32 * c + m)) 8 2 = pctx
      → Tbl.get 0 t.steer.bind (32 * c + m) = setFld (Tbl.get 0 s.steer.bind (32 * c + m)) 0 8 new.toNat)

/-- Segments, their data and their answers complete (R241 to R249): an accepted WRITE is open, its last DATA flit lands, a token reaches its
queue, a read is answered, answers end what they name, a fragment is kept, a timeout ends a segment. -/
def Obligations.LinkSegmentsComplete : Prop :=
  (∀ (s : State) (h : FlitHdr) (d : SegDesc) (a : Nat), d.kind.toNat = 0 → InOrder s h (.seg 0 d) → verdict s h.p h.l d true = .pass a
    → Does (.writeSegment h d) s fun t => (pair t h.p h.l).segs = (pair s h.p h.l).segs ++ [{ kind := 0, tc := hdrTc h, d := d, place := some a }]
        ∧ (pair t h.p h.l).expect = ((pair s h.p h.l).expect + 1) % 4096)
  ∧ (∀ (s : State) (h : FlitHdr) (d : SegDesc) (a g : Nat), InOrder s h (.seg 2 d) → verdict s h.p h.l d true = .pass a → d.token = true
    → tokenCore s d = some g → bit (queue s g d.tq).cfg 31 = true → bit (queue s g d.tq).cfg 8 = true → (queue s g d.tq).toks.length < 64
    → Does (.tokenOnly h d) s fun t => (queue t g d.tq).toks = (queue s g d.tq).toks ++ [d.tpayload])
  ∧ (∀ (s : State) (h : FlitHdr) (d : SegDesc) (o : SegOut), InOrder s h (.seg 1 d) → outOf s h.p h.l d.tag.toNat = some o → o.kind = 3
    → genIsNow s o.d.sctx d.sgen = true → o.piece.fwd = none
    → Does (.readResp h d) s fun t => (pair t h.p h.l).segs
        = (pair s h.p h.l).segs ++ [{ kind := 1, tc := hdrTc h, d := d, place := some o.piece.here }])
  ∧ (∀ (s : State) (h : FlitHdr) (tag : BitVec 12) (ix : Byte) (bytes : List Byte) (g : OpenSeg) (a : Nat), Inv s
    → InOrder s h (.data tag.toNat ix.toNat true bytes)
    → (pair s h.p h.l).segs.find? (fun g => g.d.tag.toNat = tag.toNat ∧ g.tc = hdrTc h) = some g → g.kind = 0 → g.place = some a
    → 240 * ix.toNat + bytes.length ≤ g.d.length
    → Does (.data h tag ix true bytes) s fun t => t.mem.readN (a + 240 * ix.toNat) bytes.length = bytes
        ∧ (pair t h.p h.l).segs = (pair s h.p h.l).segs.erase g)
  ∧ (∀ (s : State) (h : FlitHdr) (d : SegDesc) (a : Nat), InOrder s h (.rdreq d) → verdict s h.p h.l d false = .pass a
    → respSpace (pair s h.p h.l) = true → s.ddr.zeroing = [] → (∀ n, (chan s n).dead = false) → badByte s a d.length = none
    → Does (.rdreq h d) s fun t => (pair t h.p h.l).queue = (pair s h.p h.l).queue
        ++ segFlits 1 (hdrTc h) { d with smod := Fin.ofNat 32 (me s), poison := false, poff := 0, token := false } (s.mem.readN a d.length))
  ∧ (∀ (s : State) (h : FlitHdr) (e : NoticeEntry) (o : SegOut) (x : Xfer), InOrder s h (.notice [e]) → outOf s h.p h.l e.tag.toNat = some o
    → genIsNow s e.sctx e.sgen = true → e.kind = 1 → o.kind = 0 → xfer s o.xfer = some x → x.todo = [] → x.token = none
    → Does (.notice h [e]) s fun t => t.link.outs = s.link.outs.erase o
        ∧ xfer t o.xfer = some { x with live := x.live - 1, wrote := x.wrote + o.piece.len })
  ∧ (∀ (s : State) (h : FlitHdr) (kind msgid : Half16) (bytes : List Byte), InOrder s h (.ctrl kind.toNat msgid.toNat 0 false bytes)
    → Does (.ctrl h kind msgid 0 false bytes) s fun t => (pair t h.p h.l).frags
        = ((pair s h.p h.l).frags.filter fun f => !(f.1 == kind.toNat && f.2.1 == msgid.toNat)) ++ [(kind.toNat, msgid.toNat, bytes)])
  ∧ (∀ (s : State) (m : Modu) (tag : BitVec 12) (o : SegOut) (at_ : Nat), s.link.outs.find? (fun o => o.peer = m.val ∧ o.tag = tag.toNat) = some o
    → o.since = some at_ → at_ + o.limit * 1000000 ≤ s.now
    → Does (.segmentTimeout m tag) s fun t => t.link.outs = s.link.outs.erase o
        ∧ ∀ x, xfer s o.xfer = some x → x.err = none → (xferOf t o.xfer).err = some (6, o.peer))

/-! ### Pod time (17_pod_time.md) -/

/-- The commands of the time sources complete (R353 to R358, R251): the servo adjusts or steps, sources are lost and found, beacons, PTP messages
and PPS edges are taken. -/
def Obligations.TimeSourcesComplete : Prop :=
  (∀ (s : State) (adj m : Int), (s.time.state = .acquiring ∨ s.time.state = .locked) → s.time.need ≤ s.time.samples.length
    → m = (median8 s.time.samples).tdiv 4294967296
    → Does (.servoUpdate adj) s fun t => t.time.samples = [] ∧ t.time.offset = BitVec.ofNat 32 (satWord m)
        ∧ (if m.natAbs < stepLimit s then t.time.incrAdj = BitVec.ofInt 32 (clampAdj adj) ∧ t.time.ns = s.time.ns
           else t.time.ns = s.time.ns + BitVec.ofInt 64 m ∧ t.time.frac = 0))
  ∧ (∀ s : State, (s.time.state = .acquiring ∨ s.time.state = .locked) → beaconFresh s = false
    → Does .sourceLost s fun t => t.time.state = .holdover ∧ t.time.source = 0 ∧ t.time.holdoff = true ∧ t.time.incrAdj = meanAdj s.time)
  ∧ (∀ s : State, s.time.holdoff = true → s.time.lostAt + 4000000 ≤ s.now → Does .holdoffEnd s fun t => t.time.holdoff = false)
  ∧ (∀ (s : State) (at_ : Nat), s.time.state = .acquiring → s.time.closeAt = some at_ → at_ + 1000000000 ≤ s.now → Does .lockAcquired s fun t => t.time.state = .locked ∧ t.time.source = s.time.source)
  ∧ (∀ (s : State) (p : PtpPort) (origin arr : Nat), bit s.time.ptpCfg p = true
    → Does (.sync p false origin arr) s fun t => (ptpPort t p).syncArr = arr ∧ (ptpPort t p).syncOrigin = origin ∧ (ptpPort t p).up = true
        ∧ (ptpPort t p).reqAt = s.time.ns.toNat)
  ∧ (∀ (s : State) (p : PtpPort) (origin : Nat), bit s.time.ptpCfg p = true → (ptpPort s p).waiting = true
    → Does (.followUp p origin) s fun t => (ptpPort t p).waiting = false ∧ (ptpPort t p).syncOrigin = origin)
  ∧ (∀ (s : State) (p : PtpPort) (gm : DWord) (better : Bool), bit s.time.ptpCfg p = true
    → Does (.announce p gm better) s fun t => (ptpPort t p).gm = gm ∧ (ptpPort t p).up = true
        ∧ t.time.slave = if better = true ∨ s.time.slave = 7 then p.val else s.time.slave)
  ∧ (∀ (s : State) (p : PtpPort) (recvT : Nat), bit s.time.ptpCfg p = true
    → Does (.delayResp p recvT) s fun t => (ptpPort t p).delay
        = (((ptpPort s p).syncArr : Int) - (ptpPort s p).syncOrigin + ((recvT : Int) - (ptpPort s p).reqAt)) / 2)
  ∧ (∀ (s : State) (p : PtpPort) (arr : Nat), bit s.time.ptpCfg p = true
    → Does (.pdelayReq p arr) s fun t => t.sent = ⟨.eth, 0x50A, [p.val, s.time.ns.toNat]⟩ :: ⟨.eth, 0x503, [p.val, arr]⟩ :: s.sent)
  ∧ (∀ (s : State) (p : PtpPort) (a b : Nat), bit s.time.ptpCfg p = true
    → Does (.pdelayResp p a b) s fun t => (ptpPort t p).respRecv = a ∧ (ptpPort t p).respArr = b)
  ∧ (∀ (s : State) (p : PtpPort) (x : Nat), bit s.time.ptpCfg p = true
    → Does (.pdelayRespFollowUp p x) s fun t => (ptpPort t p).delay
        = (((ptpPort s p).respArr : Int) - (ptpPort s p).reqAt - ((x : Int) - (ptpPort s p).respRecv)) / 2)
  ∧ (∀ (s : State) (x : Nat), (∀ l, s.time.ppsLast = some l → l + 500000000 ≤ x)
    → Does (.ppsEdge x) s fun t => t.time.ppsLast = some x ∧ t.time.ppsAligned = decide ((ppsOffset x).natAbs ≤ 1000))
  ∧ (∀ (s : State) (l x : Nat), s.time.ppsLast = some l → x < l + 500000000
    → Does (.ppsEdge x) s fun t => t.time.ppsLast = some l ∧ t.time.ppsIgnored = satAdd 255 s.time.ppsIgnored 1)
  ∧ (∀ (s : State) (l : Nat), s.time.ppsLast = some l → s.time.ppsAt + 3000000000 ≤ s.now
    → Does .ppsLost s fun t => t.time.ppsLast = none ∧ t.time.ppsOk = false ∧ t.time.ppsAligned = false)
  ∧ (∀ (s : State) (h : FlitHdr) (b : BeaconMsg), receiving (pair s h.p h.l) = true
    → flitBad s h 7 (0, 0, false) (beaconPayload b.sendT b.echoArr b.echoSend b.quality.toNat b.code.toNat) = false → h.nak = false
    → (pair s h.p h.l).state = .active
    → Does (.beacon h b) s fun t => (Tbl.get {} t.time.beacons (pair s h.p h.l).peer).quality = b.quality
        ∧ (Tbl.get {} t.time.beacons (pair s h.p h.l).peer).at_ = s.now ∧ (pair t h.p h.l).beaconIn = some (b.arrT, b.sendT))

/-- The commands of the counter, the alarms and the time outputs complete (R351, R352, R355, R359 to R361). -/
def Obligations.TimeOutputsComplete : Prop :=
  (∀ s : State, Does .timeNowCapture s fun t => t.time.nowNs = s.time.ns ∧ t.time.nowFrac = s.time.frac ∧ t.time.ns = s.time.ns)
  ∧ (∀ s : State, s.time.state = .manual
    → Does .timeStepGo s fun t => t.time.ns = s.time.stepHi ++ s.time.stepLo ∧ t.time.frac = 0 ∧ t.time.state = .manual)
  ∧ (∀ s : State, s.time.state ≠ .manual
    → Does .manualSet s fun t => t.time.state = .manual ∧ bit t.time.cfg 16 = true ∧ t.time.source = 0 ∧ t.time.ns = s.time.ns)
  ∧ (∀ s : State, s.time.state = .manual
    → Does .manualClear s fun t => t.time.state = .holdover ∧ bit t.time.cfg 16 = false)
  ∧ (∀ (s : State) (a : Fin 8), Does (.alarmArm a) s fun t => (alarm t a).armed = true ∧ (alarm t a).target = (alarm s a).target)
  ∧ (∀ (s : State) (a : Fin 8), (alarm s a).armed = true → 0 ≤ since48 s.time.ns (alarm s a).target
    → Does (.alarmFire a) s fun t => (alarm t a).armed = false ∧ bit t.time.alarmStat a = true)
  ∧ (∀ (s : State) (n : Fin 4), (tod s n).enable = false → (tod s n).high = false
    → Does (.todEnable n) s fun t => (tod t n).enable = true ∧ (tod t n).nextAt = (tod s n).start.toNat)
  ∧ (∀ (s : State) (n : Fin 4), Does (.todDisable n) s fun t => (tod t n).enable = false ∧ (tod t n).pending = false ∧ (tod t n).high = (tod s n).high)
  ∧ (∀ (s : State) (n : Fin 4), (tod s n).enable = true → (tod s n).high = false → 0 ≤ since48 s.time.ns (BitVec.ofNat 64 (tod s n).nextAt)
    → Does (.todPulseStart n) s fun t => (tod t n).high = true ∧ (tod t n).nextAt = (tod s n).nextAt + (tod s n).period.toNat)
  ∧ (∀ (s : State) (n : Fin 4), (tod s n).enable = true → (tod s n).high = true → 0 ≤ since48 s.time.ns (BitVec.ofNat 64 (tod s n).endAt)
    → Does (.todPulseEnd n) s fun t => (tod t n).high = false ∧ (tod t n).enable = ((tod s n).period != 0))

/-! ### Steering (13_steering.md) -/

/-- A module's side of steering completes (R256 to R267): sweeps, surveys ordered, chart parts collected, a chart staged, put in force and
reported applied, the loop test. -/
def Obligations.SteeringComplete : Prop :=
  (∀ (s : State) (fs : List SurveyFrame) (v : SurveyRun), s.steer.survey = some v → v.sweeps < 7
    → Does (.surveySweepEnd fs) s fun t => ∃ v', t.steer.survey = some v' ∧ v'.sweeps = v.sweeps + 1 ∧ v'.planes = v.planes)
  ∧ (∀ (s : State) (v : SurveyRun), s.steer.survey = some v → v.sweeps = 7
    → Does (.surveySweepEnd []) s fun t => t.steer.survey = none ∧ t.steer.state = restState s ∧ ∀ p k, p ∈ v.planes → Tbl.get [] v.loops p = [k]
        → (gaz t p).state = 2 ∧ (gaz t p).offset = (32 - k) % 32 ∧ (gaz t p).loopch = k)
  ∧ (∀ (s : State) (h : Hdr) (mask : Half16) (ps : List Nat), Fresh s h 0x105 false
    → s.steer.state ≠ .staged → s.steer.state ≠ .applying → s.steer.state ≠ .surveying
    → ps = ((planesOf mask.toNat).filter fun p => p < planeCount s ∧ planeBusy s p = false) → ps ≠ []
    → Does (.surveyCmd h mask) s fun t => t.steer.state = .surveying ∧ t.steer.survey = some { planes := ps })
  ∧ (∀ (s : State) (r : RingIx) (e : Entry), takeEntry s r 3 1 = some e → (∀ p ∈ planesOf (ent e 8 2), p < planeCount s ∧ planeBusy s p = false)
    → s.steer.state ≠ .staged → s.steer.state ≠ .applying → s.steer.state ≠ .surveying
    → Does (.survey r) s fun t => t.steer.state = .surveying ∧ t.steer.survey = some { planes := planesOf (ent e 8 2), ring := some (r.val, entTag e) })
  ∧ (∀ (s : State) (h : Hdr) (ed : Half16) (i n : Nat) (crc : Word) (bs : List Byte), Fresh s h 0x101 true → s.steer.parts = none
    → s.steer.latestPart = none → 2 ≤ n
    → Does (.chartPart h ed i n crc bs) s fun t => t.steer.parts = some { edition := ed, crc := crc, parts := n, got := [(i, bs)] }
        ∧ t.steer.latestPart = some ed ∧ t.steer.staged = s.steer.staged)
  ∧ (∀ (s : State) (h : Hdr) (ed : Half16) (crc : Word) (bs : List Byte), Fresh s h 0x101 true → s.steer.parts = none
    → s.steer.latestPart = none → chCrc bs = crc.toNat → checkChart s bs = 0
    → Does (.chartPart h ed 0 1 crc bs) s fun t => t.steer.staged = bs ∧ t.steer.epoch = BitVec.ofNat 32 (chEpoch bs) ∧ t.steer.chart = s.steer.chart
        ∧ (s.steer.state = .steady → t.steer.state = .staged))
  ∧ (∀ s : State, s.steer.state = .staged → chCommit s.steer.staged ≤ s.time.ns.toNat → (∀ p l, (pair s p l).wait = [])
    → Does .chartCommit s fun t => t.steer.chart = s.steer.staged ∧ t.steer.staged = [] ∧ t.steer.edition = chEdition s.steer.staged
        ∧ t.steer.charted = true ∧ t.steer.applyAt = s.now
        ∧ t.steer.state = if chMember s.steer.staged (me s) then .applying else .excluded)
  ∧ (∀ s : State, s.steer.state = .applying → handHolds s = false → switchOver s = true → s.steer.staged = []
    → Does .chartApplyDeadline s fun t => t.steer.state = .steady ∧ t.steer.notUp = min 255 (notUps s).length
        ∧ t.steer.applyUs = min 0xFFFFFF ((s.now - s.steer.applyAt) / 1000))
  ∧ (∀ (s : State) (r : RingIx) (e : Entry) (p l x : Nat), takeEntry s r 3 5 = some e → p = ent e 8 1 → p < planeCount s → p < 16
    → 100 ≤ ent e 12 4 → ent e 12 4 ≤ 1000000 → (∀ y ∈ s.steer.loops, y.plane ≠ p) → darkLane s p false = some l → darkLane s p true = some x
    → (gaz s p).state = 2 → (fab s p).txRetired = false
    → Does (.loopTest r) s fun t => t.steer.loops = s.steer.loops ++ [{ plane := p, tx := l, rx := x, ring := r.val, tag := entTag e, till := s.now + 1000 * ent e 12 4 }]
        ∧ (pair t p l).loop = true ∧ (txLane t p l).state = .tuning ∧ (txLane t p l).chan = (gaz s p).loopch ∧ (rxLane t p x).state = .tuning)
  ∧ (∀ (s : State) (p : Plane) (ber unc : Word) (x : LoopRun) (e : Entry), s.steer.loops.find? (fun x => x.plane = p.val) = some x
    → findEntry s x.ring 5 x.tag = some e → bits (entFlags e) 0 1 = 0 → canDma s = true → Inv s
    → s.link.outs = [] → x.till ≤ s.now
    → Does (.loopTestEnd p ber unc) s fun t => t.steer.loops = s.steer.loops.erase x
        ∧ Completed s t x.ring e 0 (toBytes ber.toNat 4 ++ toBytes unc.toNat 4))

/-- The steward's side of steering and the steering requests complete (R258, R259, R265, R268, R270, R273, R274, R286). -/
def Obligations.ChartIssueComplete : Prop :=
  (∀ (s : State) (m : Modu) (i : Issued) (is : List Issued) (p l : Nat) (b : List Nat), s.steer.issued = i :: is → isSteward s = true
    → chMember i.chart m = true → i.staged.contains m.val = false → pickPair s m = some (p, l) → chartBodies i.chart = [b]
    → (∀ u ∈ s.stew.unacked, u.dst = m.val → u.kind = 0x101 → u.body ≠ b)
    → Does (.chartControlResend m) s fun t => (pair t p l).queue = (pair s p l).queue
        ++ fragments 0x101 s.link.msgid (ctlBytes s m 0x101 s.stew.msgid 2 (bodyBytes 0x101 b)))
  ∧ (∀ (s : State) (h : Hdr) (ed : Half16) (m : Modu), Fresh s h 0x102 false → isSteward s = true
    → Does (.staged h ed 0 m) s fun t => t.stew.ledger = s.stew.ledger ++ [⟨s.stew.seq + 1, 3, [ed.toNat, m.val, 4]⟩] ∧ t.stew.seq = s.stew.seq + 1
        ∧ t.stew.queue = s.stew.queue ++ [(s.stew.seq + 1, .none_)])
  ∧ (∀ (s : State) (h : Hdr) (ed : Half16) (m : Modu) (us : Nat), Fresh s h 0x103 false → isSteward s = true
    → (Tbl.get [] s.steer.trainFail3 m).length < 3 → s.stew.jobs = [] → (∀ i ∈ s.steer.issued, i.submit = none)
    → Does (.applied h ed m us []) s fun t => t.stew.ledger = s.stew.ledger ++ [⟨s.stew.seq + 1, 3, [ed.toNat, m.val, 1]⟩]
        ∧ t.steer.issued = s.steer.issued.map fun i => if (chEdition i.chart).toNat = ed.toNat then { i with applied := (m.val :: i.applied).dedup } else i)
  ∧ (∀ (s : State) (h : Hdr) (m : Modu) (rs : List GazRec) (addr : BitVec 128), Fresh s h 0x104 false → s.boot.state ≠ .survey
    → (isSteward s && sharedSlot s m addr) = false
    → Does (.surveyReport h m rs addr) s fun t => t.steer.reports = Tbl.set s.steer.reports m rs ∧ t.steer.reportOrder = s.steer.reportOrder ++ [m.val]
        ∧ Tbl.get 0 t.steer.reporter m = addr)
  ∧ (∀ (s : State) (h : Hdr) (m : Modu) (rs : List GazRec) (addr : BitVec 128), Fresh s h 0x104 false → isSteward s = true
    → sharedSlot s m addr = true → s.log.queue.length < 256
    → Does (.surveyReport h m rs addr) s fun t => t.steer.reports = s.steer.reports ∧ t.steer.reporter = s.steer.reporter
        ∧ t.log.queue = s.log.queue ++ [⟨s.time.ns, 0x2009, BitVec.ofNat 16 (0x2000 + m), BitVec.ofNat 32 m, 0, 2, 0⟩])
  ∧ (∀ (c : Instr) (s : State) (m : Modu) (i : Issued), (c = .lateModule m ∧ chCommit i.chart + 5000000 ≤ s.time.ns.toNat ∧ Tbl.get 0 i.retries m = 0
      ∨ (c = .retryWaitExpiry m ∧ 0 < Tbl.get 0 i.retries m ∧ Tbl.get 0 i.retryAt m + 5000000 ≤ s.now))
    → lateIn s m = some i → Tbl.get 0 i.retries m < fld s.steer.cfg 8 2 → ownEdition s i = true
    → Does c s fun t => (t.steer.issued.head?.map fun i => Tbl.get 0 i.retries m) = some (Tbl.get 0 i.retries m + 1)
        ∧ (c = .lateModule m → t.steer.late = satAdd 0xFFFF s.steer.late 1))
  ∧ (∀ (s : State) (r : RingIx) (e : Entry) (a : Nat) (c bs : List Byte), Waits s r 3 2 e
    → (ent e 8 1 = 0 ∧ c = s.steer.chart ∨ ent e 8 1 = 1 ∧ c = s.steer.staged) → c ≠ []
    → bs = c ++ (if isSteward s then lanesPlaced s c else []) → bs.length ≤ ent e 24 4
    → ent e 16 8 + bs.length ≤ 0x10000000000000000 → checkAt s (whoEntry s r e none) (ent e 16 8) bs.length true = .ok (.here a)
    → a + bs.length ≤ 0x10000000000000000
    → Does (.chartRead r) s fun t => t.mem.readN a bs.length = bs ∧ Completed s t r e 0 (toBytes bs.length 4 ++ toBytes (chEdition c).toNat 2))
  ∧ (∀ (s s' : State) (r : RingIx) (e : Entry) (bs : List Byte), takeEntry s r 3 3 = some e → isSteward s = false → ent e 8 1 ≤ 3
    → canDma s = true → s' = tableRead r e (ent e 16 8) 32 s → readTable s' r e (ent e 16 8) 32 = .ok bs → (∀ b ∈ bs, b.toNat ≤ 16)
    → Does (.demand r none) s fun t => Tbl.get [] t.steer.demand (4 * me s + ent e 8 1) = bs.map BitVec.toNat
        ∧ t.steer.demandFor = s.steer.demandFor ++ [(ent e 8 1, r.val, entTag e, s.steer.edition.toNat, s.now)])
  ∧ (∀ (s : State) (r : RingIx) (m : Modu) (c : Ctx) (bs : List Byte), isSteward s = true
    → Does (.demand r (some (m, c, bs))) s fun t => Tbl.get [] t.steer.demand (4 * m + c) = bs.map BitVec.toNat)
  ∧ (∀ (s : State) (r : RingIx) (d : Nat × Nat × Nat × Nat × Nat) (e : Entry), s.steer.demandFor.find? (fun d => d.2.1 = r.val) = some d
    → d.2.2.2.2 + 100000000 ≤ s.now → isSteward s = false → findEntry s r 3 d.2.2.1 = some e → bits (entFlags e) 0 1 = 0
    → canDma s = true → Inv s
    → Does (.demandTimeout r) s fun t => t.steer.demandFor = s.steer.demandFor.filter (fun x => x ≠ d) ∧ Completed s t r e 0x106 [])
  ∧ (∀ (s s1 s2 : State) (r : RingIx) (e : Entry) (h c new : List Byte), takeEntry s r 3 4 = some e → isSteward s = true → canDma s = true
    → s1 = tableRead r e (ent e 16 8) 64 s → readTable s1 r e (ent e 16 8) 64 = .ok h → canDma s1 = true
    → s2 = tableRead r e (ent e 16 8) (64 + 8 * chPairs h) s1 → readTable s2 r e (ent e 16 8) (64 + 8 * chPairs h) = .ok c
    → isSteward s2 = true → chReserved c = true → getN c 0 4 = 0x54524843
    → new = mkChart (nextEdition s2) (chFlags c) (s2.time.ns.toNat + leadNs s2) s2.stew.leaseEpoch (chMembers c) (chWide c) (me s2)
        ((List.range 16).map (chOffset c)) ((chEnts c).map (fromOf (chEnts (newest s2)) (nextEdition s2)))
    → chOrder new = true → chLimit new = true → chFrom new = true
    → Does (.chartSubmit r) s fun t => t.stew.ledger = s2.stew.ledger ++ [⟨s2.stew.seq + 1, 2, new.map BitVec.toNat⟩])

/-! ### The steward pair, its lease and its records (14_steward_pair_and_continuity.md) -/

/-- The lease and its holder complete (R276, R282 to R284, R288 to R291): requests, grants, denials and ends, timers, takeovers, the arbiter's
times. -/
def Obligations.LeaseComplete : Prop :=
  (∀ (s : State) (h : Hdr) (b : LeaseReq), Fresh s h 0x201 false → isArbiter s = true → h.configEpoch.toNat = cfgEpoch s → designated s h.src ≠ 0
    → (designated s h.src = 1 ∧ s.stew.arb.state = 1
        → Does (.leaseReq h b) s fun t => t.stew.arb.state = 2 ∧ t.stew.arb.holder = h.src ∧ t.stew.arb.expiry = s.now + 20000000
            ∧ t.stew.arb.epoch = max (max s.stew.arb.epoch (max s.stew.arb.seen h.epoch.toNat)) s.steer.epoch.toNat + 1)
      ∧ (s.stew.arb.state = 2 ∧ s.stew.arb.holder = h.src ∧ b.renew = true
        → Does (.leaseReq h b) s fun t => t.stew.arb.state = 2 ∧ t.stew.arb.holder = h.src ∧ t.stew.arb.expiry = s.now + 20000000
            ∧ t.stew.arb.epoch = s.stew.arb.epoch))
  ∧ (∀ (s : State) (h : Hdr) (ep : Word) (n : Nat), Fresh s h 0x205 false → isArbiter s = true → s.stew.arb.state = 3
    → s.stew.arb.holder = h.src
    → Does (.released h ep n) s fun t => t.stew.arb.state = 2 ∧ t.stew.arb.holder = s.stew.arb.returning ∧ t.stew.arb.expiry = s.now + 21000000
        ∧ t.stew.arb.epoch = max (max s.stew.arb.epoch s.stew.arb.seen) s.steer.epoch.toNat + 1)
  ∧ (∀ s : State, isArbiter s = true → s.stew.arb.expiry ≤ s.now → s.stew.arb.state = 2
    → Tbl.get 0 s.stew.arb.lastReq (partner s s.stew.arb.holder) = 0
    → Does .arbiterLeaseExpiry s fun t => t.stew.arb.state = 1 ∧ t.stew.arb.holder = 0xFF ∧ t.stew.arb.epoch = s.stew.arb.epoch)
  ∧ (∀ s : State, isArbiter s = true → s.stew.arb.state = 0 → s.stew.arb.freeAt + 25000000 ≤ s.now
    → Does .arbiterStartingEnd s fun t => t.stew.arb.state = 1 ∧ t.stew.arb.freeAt = s.now)
  ∧ (∀ s : State, isSteward s = true
    → Does .leaseRenewDue s fun t => Tells s t (arbiter s) 0x201 [1, designated s (me s), b2n (!s.stew.twinUp), s.stew.mirror, s.stew.seq]
        ∧ t.stew.reqAt = s.now)
  ∧ (∀ s : State, designated s (me s) ≠ 0 → hasAuthority s = true → isSteward s = false → inService_ s = true
    → Does .candidacyDue s fun t => Tells s t (arbiter s) 0x201 [0, designated s (me s), b2n (!s.stew.twinUp), s.stew.mirror, s.stew.applied])
  ∧ (∀ s : State, isSteward s = true → s.stew.until_ ≤ s.now
    → Does .holderLeaseTimerEnd s fun t => t.stew.role = 1 ∧ t.stew.active = none ∧ t.stew.queue = [])
  ∧ (∀ (s : State) (h : Hdr) (ep : Word) (sol : Bool), Fresh s h 0x202 false → hasAuthority s = true → h.src = arbiter s → designated s (me s) ≠ 0
    → s.steer.epoch.toNat ≤ ep.toNat
    → Does (.leaseGrant h ep (me s) sol) s fun t => t.stew.role = 5 ∧ t.stew.leaseEpoch = ep.toNat
        ∧ t.stew.until_ = (if sol then s.stew.reqAt else s.now) + 19900000
        ∧ (isSteward s = false → t.stew.active = some (me s) ∧ t.steer.epoch = ep ∧ t.stew.hold = false))
  ∧ (∀ (s : State) (h : Hdr) (m : Nat) (ep : Word), Fresh s h 0x203 false → h.ackReq = false → hasAuthority s = true
    → Does (.leaseDeny h 3 m ep) s fun t => Tells s t h.src 0x211 [0])
  ∧ (∀ (s : State) (h : Hdr) (ep : Word) (k : Nat), Fresh s h 0x204 false → isSteward s = true
    → Does (.leaseEnd h ep k) s fun t => t.stew.role = 2 ∧ t.stew.active = none ∧ t.stew.applied = s.stew.seq
        ∧ (t.sent.take 2).all (fun m => m.kind == 0x205) = true)
  ∧ (∀ (s : State) (h : Hdr) (ep : Word) (m prev k : Nat), Fresh s h 0x206 true
    → Does (.takeover h ep m prev k) s fun t => t.stew.active = some m ∧ t.stew.lastAck = s.now ∧ t.steer.epoch = h.epoch ∧ t.stew.hold = false)
  ∧ (∀ s : State, s.stew.role = 3 → designated s (me s) = 1 → s.stew.mirror = 0 → s.stew.active = some (partner s (me s)) → quietPoint s = true
    → hasAuthority s = true
    → Does .quietPointReturn s fun t => t.stew.returning = true
        ∧ Tells s t (arbiter s) 0x201 [2, 1, b2n (!s.stew.twinUp), 0, s.stew.applied])
  ∧ (∀ (s : State) (h : Hlf), s.stew.authHolder = none → (h = 1 → s.stew.startAt + 10000000 ≤ s.now)
    → Does (.authorityClaim h) s fun t => t.stew.authHolder = some h.val ∧ t.stew.authGen = s.stew.authGen + 1)
  ∧ (∀ (s : State) (h : Nat), s.stew.authHolder = some h
    → Does .authorityHeartbeatTimeout s fun t => t.stew.authHolder = none ∧ t.stew.authGen = s.stew.authGen)

/-- The mirror and the twin, and what a rebuilding steward gathers, complete (R277, R278, R285 to R287, R289). -/
def Obligations.MirrorComplete : Prop :=
  (∀ (s : State) (r : MirrorRec), s.stew.role ≠ 5 → designated s (me s) ≠ 0 → r.seq = s.stew.applied + 1
    → Does (.mirror r) s fun t => t.stew.ledger = s.stew.ledger ++ [r] ∧ t.stew.applied = r.seq ∧ t.stew.mirror = 0
        ∧ t.stew.role = (if s.stew.role = 2 then 3 else s.stew.role)
        ∧ (s.stew.twinPower = true → s.stew.twinUp = true → hasAuthority s = true → t.sent = ⟨.twin, 0x20A, [r.seq]⟩ :: s.sent))
  ∧ (∀ (s : State) (n : Nat), isSteward s = true
    → Does (.mirrorAck n) s fun t => t.stew.queue = (s.stew.queue.filter fun q => n < q.1)
        ∧ (t.stew.queue = [] ∧ s.stew.overflow = false → t.stew.mirror = 0))
  ∧ (∀ (s : State) (n : Nat), isSteward s = true
    → Does (.mirrorAckLate n) s fun t => t.stew.mirror = 1 ∧ t.stew.queue = s.stew.queue.map fun q => if q.1 ≤ n then (q.1, .none_) else q)
  ∧ (∀ (s : State) (base : Nat) (rs : List MirrorRec), isSteward s = false → designated s (me s) ≠ 0 → s.stew.snapParts = []
    → Does (.snapshot base 0 1 rs) s fun t => t.stew.ledger = rs ∧ t.stew.applied = base ∧ t.stew.mirror = 0 ∧ t.stew.snapParts = [])
  ∧ (∀ (s : State) (flap : Bool), designated s (me s) ≠ 0 → s.stew.twinUp = true
    → Does (.twinLost flap) s fun t => t.stew.twinUp = false ∧ t.stew.role = (if s.stew.role = 3 then 4 else s.stew.role)
        ∧ t.stew.mirror = if s.stew.mirror = 0 then 1 else s.stew.mirror)
  ∧ (∀ s : State, designated s (me s) ≠ 0 → s.stew.twinUp = false
    → Does .twinRestored s fun t => t.stew.twinUp = true ∧ (s.stew.role = 4 → t.stew.role = 2)
        ∧ (isSteward s = true ∧ s.stew.mirror = 2 ∧ s.stew.twinPower = true → t.stew.mirror = 1 ∧ ∃ m : Msg, m.chan = .twin ∧ m.kind = 0x20B ∧ t.sent = m :: s.sent))
  ∧ (∀ (s : State) (h : Hdr) (b : StatusBody), Fresh s h 0x212 false → isSteward s = true → s.stew.rebuilding = true
    → Does (.status h b) s fun t => t.stew.statuses = (h.src, b) :: s.stew.statuses)
  ∧ (∀ (s : State) (h : Hdr) (chart : Bool), Fresh s h 0x211 (s.stew.active == some h.src) → h.ackReq = false → cfgEpoch s ≤ h.configEpoch.toNat
    → hasAuthority s = true → h.epoch.toNat ≤ s.steer.epoch.toNat
    → Does (.statusReq h chart) s fun t => Tells s t h.src 0x212 (statusBody s chart))
  ∧ (∀ s : State, isSteward s = true → s.stew.rebuilding = true → s.stew.statuses = [] → s.steer.chart ≠ []
    → Does .rebuildStatusWait s fun t => t.stew.rebuilding = false ∧ t.stew.seq = s.stew.seq + 1)
  ∧ (∀ (s : State) (h : Hdr) (c : PodCfg), Fresh s h 0x213 false → cfgOk c = true → (∀ x, s.stew.cfg = some x → x.epoch.toNat < c.epoch.toNat)
    → Does (.podConfig h c) s fun t => t.stew.cfg = some c)

/-- Heartbeats, detection, reports, jobs and risk complete (R280, R281, R290, R293 to R301). -/
def Obligations.ContinuityComplete : Prop :=
  (∀ (s : State) (m : Nat), s.stew.cfg.isSome = true → s.stew.active = some m → 3 ≤ bootCode s.boot.state → hasAuthority s = true
    → Does .heartbeatDue s fun t => Tells s t m 0x207 (heartbeatBody s))
  ∧ (∀ (s : State) (h : Hdr) (b : HeartbeatBody), Fresh s h 0x207 false → isSteward s = true → s.stew.jobs = [] → b.taps = [] → b.state ≠ 6
    → Does (.heartbeat h b) s fun t => (member t h.src).heardAt = s.now ∧ (member t h.src).up = b.state ∧ (member t h.src).gens = b.gens
        ∧ (member t h.src).probing = false ∧ (member t h.src).risk = b.risk)
  ∧ (∀ (s : State) (h : Hdr) (ed : Half16) (f : Bool), Fresh s h 0x208 true
    → Does (.heartbeatAck h ed f) s fun t => t.stew.active = some h.src ∧ t.stew.lastAck = s.now ∧ t.stew.hold = false)
  ∧ (∀ s : State, s.stew.cfg.isSome = true → s.stew.hold = false → isSteward s = false → s.stew.lastAck + 10000000 ≤ s.now
    → Does .holdEntry s fun t => t.stew.hold = true ∧ t.stew.holdAt = s.now)
  ∧ (∀ (s : State) (m : Modu), isSteward s = true → (cfgMembers s).contains m.val = true → m.val ≠ me s → (member s m).state ≠ 5
    → (member s m).probing = false → (member s m).heardAt + 10000000 ≤ s.now
    → Does (.memberSilent m) s fun t => (member t m).probing = true
        ∧ t.stew.unacked = s.stew.unacked ++ [{ dst := m.val, kind := 0x214, msgid := s.stew.msgid, body := [], tries := 3, at_ := s.now }])
  ∧ (∀ (s : State) (m : Modu), isSteward s = true → (member s m).probing = true → (member s m).state ≠ 5 → s.stew.jobs = []
    → (member s m).probeAt + 2000000 ≤ s.now
    → Does (.probeTimeout m) s fun t => (member t m).state = 5)
  ∧ (∀ (s : State) (h : Hdr), Fresh s h 0x214 false → hasAuthority s = true → Does (.probe h) s fun t => Tells s t h.src 0x200 [h.msgid.toNat])
  ∧ (∀ (s : State) (h : Hdr) (of : Half16) (u : CtlMsg), Fresh s h 0x200 false
    → s.stew.unacked.find? (fun u => u.msgid = of.toNat ∧ u.dst = h.src) = some u
    → (u.kind ≠ 0x214 → Does (.ack h of) s fun t => t.stew.unacked = s.stew.unacked.erase u)
      ∧ (u.kind = 0x214 ∧ (member s h.src).probing = true ∧ isSteward s = true ∧ s.stew.jobs = []
        → Does (.ack h of) s fun t => (member t h.src).probing = false ∧ (member t h.src).ctlLost = true
            ∧ (member t h.src).risk = min 1000 ((member s h.src).risk + 200)))
  ∧ (∀ (s : State) (of : Half16) (u : CtlMsg), s.stew.unacked.find? (fun u => u.msgid = of.toNat) = some u → u.tries < 3 → u.at_ + 1000000 ≤ s.now
    → hasAuthority s = true
    → Does (.ackRetransmit of) s fun t => t.stew.unacked = s.stew.unacked.map (fun x => if x = u then { u with tries := u.tries + 1, at_ := s.now } else x)
        ∧ t.sent = ⟨.ctl, u.kind, u.dst :: (ctlBytes s u.dst u.kind u.msgid 5 (bodyBytes u.kind u.body)).map BitVec.toNat⟩ :: s.sent)
  ∧ (∀ (s : State) (h : Hdr) (f : FaultRec), Fresh s h 0x20C false → isSteward s = true
    → (∀ p < 16, f.code.toNat = 0x1004 + 256 * p → Does (.eventReport h f) s fun t => (p, h.src) ∈ t.steer.retiredLanes)
      ∧ (f.code.toNat = 0x0801 ∧ f.p0.toNat = 6 ∧ (member s h.src).state ≠ 5 ∧ s.stew.jobs = []
        → Does (.eventReport h f) s fun t => (member t h.src).state = 5))
  ∧ (∀ (s : State) (h : Hdr) (m : Modu) (k c : Nat) (g : Byte) (r : Nat), Fresh s h 0x20D true → EventReady s none r
    → Does (.moduleEvent h m k c g) s fun t => Posted s t r 0x2042 0x2000 none m k c g.toNat)
  ∧ (∀ (s : State) (h : Hdr) (c : Ctx) (bs : List (Bool × Ctx × Byte)), Fresh s h 0x20E true → bs.length ≤ 32
    → Does (.bind h c bs) s fun t => ∀ (i : Nat) (x : Bool × Ctx × Byte), bs[i]? = some x
        → Tbl.get 0 t.steer.bind (32 * c + i) = BitVec.ofNat 32 (b2n x.1 * 0x80000000 + x.2.1 * 256 + x.2.2.toNat))
  ∧ (∀ (s : State) (h : Hdr) (j : Word) (c : Ctx) (step n : Word) (r : Nat), Fresh s h 0x20F true → EventReady s (some c.val) r
    → Does (.jobCtl h j c 3 step n) s fun t => Posted s t r 0x2043 0x2000 (some c.val) j.toNat c n.toNat step.toNat)
  ∧ (∀ (s : State) (h : Hdr) (j : Word) (c : Ctx) (step n : Word), Fresh s h 0x20F true → (ctx s c).created = true → (ctx s c).tearing = false
    → Does (.jobCtl h j c 2 step n) s fun t => (ctx t c).tearing = true ∧ t.steer.bind = s.steer.bind.filter fun p => p.1 / 32 ≠ c.val)
  ∧ (∀ (s : State) (h : Hdr) (j : Word) (c : Ctx) (g : Byte) (ms : List (Nat × Nat × Byte)), Fresh s h 0x210 false → isSteward s = true
    → (job s j.toNat).place = none
    → Does (.jobReport h j (.register c g ms)) s fun t => (job t j.toNat).slots = ms.map fun x => { modu := x.1, ctx := x.2.1, gen := x.2.2 })
  ∧ (∀ (s : State) (h : Hdr) (j : Word) (c : Ctx) (e : Journal), Fresh s h 0x210 false → isSteward s = true
    → Does (.jobReport h j (.journal c [e])) s fun t => (job t e.job.toNat).journals
        = ((job s e.job.toNat).journals ++ [e]).drop ((job s e.job.toNat).journals.length + 1 - 4096))
  ∧ (∀ (s : State) (n k : Nat) (t' : Tbl (Nat × Nat)), t' = (riskInputs s n k).foldl (keepInput s.now) s.stew.contrib
    → 0 < s.stew.level ∨ levelOf (min 1000 (t'.foldl (fun n p => n + p.2.1) 0)) s.stew.level = 0
    → Does (.riskScoreUpdate n k) s fun t => t.stew.risk = min 1000 (t'.foldl (fun n p => n + p.2.1) 0)
        ∧ t.stew.level = levelOf t.stew.risk s.stew.level ∧ t.stew.contrib = t')
/-! ### Checkpoint and restore (15_checkpoint_and_restore.md) -/

/-- The entries of the CKPT rings complete (R307, R310, R324, R327, R328, R330, R331). -/
def Obligations.CheckpointEntriesComplete : Prop :=
  (∀ (s : State) (r : RingIx) (e : Entry), Waits s r 4 1 e → entToken e = false → s.ckpt.well = .ready → ent e 8 1 ≤ 3 → ent e 24 4 % 256 = 0 → ent e 10 1 ≤ 15
    → Does (.ckptRegister r) s fun t => template t (ent e 8 1) = some (templateOf e) ∧ Completed s t r e 0 [])
  ∧ (∀ (s : State) (r : RingIx) (e : Entry) (c : Nat), takeEntry s r 4 2 = some e → c = ent e 8 1 → s.ckpt.well = .ready → c ≤ 3
    → (ctx s c).created = true → bits (ent e 9 1) 1 1 = 0 → ckptRun s c = none → (slotSt s c (chooseSlot s c)).reading = false
    → stepAhead s c (BitVec.ofNat 32 (ent e 16 4)) = true
    → Does (.ckptBegin r) s fun t => (slotSt t c (chooseSlot s c)).state = .writing
        ∧ ckptRun t c = some { number := BitVec.ofNat 32 (ent e 12 4), step := BitVec.ofNat 32 (ent e 16 4), full := bits (ent e 9 1) 0 1 == 1,
                               slotB := chooseSlot s c, ring := some (r.val, entTag e) })
  ∧ (∀ (s : State) (r : RingIx) (e : Entry) (bs : List Byte), Waits s r 4 3 e → entToken e = false → s.ckpt.well = .ready → bs = (e.bytes.drop 8).take 32
    → jobCtxs s (getN bs 0 4) ≠ []
    → Does (.journal r) s fun t => Completed s t r e 0 [] ∧ ∀ c ∈ jobCtxs s (getN bs 0 4),
        Tbl.get [] t.ckpt.journals c = (bs :: Tbl.get [] s.ckpt.journals c).take 64)
  ∧ (∀ (s : State) (r : RingIx) (e : Entry) (c : Nat) (b : Bool), takeEntry s r 4 4 = some e → c = ent e 8 1 → s.ckpt.well = .ready → c ≤ 3
    → ent e 9 1 ≤ 1 → b = (ent e 9 1 == 1) → (template s c).isSome = true → ((slotSt s c b).state = .committed ∨ (slotSt s c b).state = .drained)
    → s.ckpt.connected = true
    → Does (.drain r) s fun t => slotSt t c b
        = { slotSt s c b with state := .draining, drainer := some (r.val, entTag e), lba := ent e 16 8 })
  ∧ (∀ (s : State) (r : RingIx) (e : Entry) (c src : Nat), takeEntry s r 4 5 = some e → c = ent e 8 1 → src = ent e 9 1 → s.ckpt.well = .ready
    → c ≤ 3 → src ≤ 2 → restoreRefusal s c src = none → ent e 40 4 = 0
    → Does (.restore r) s fun t => Tbl.get none t.ckpt.restores c = some (restoreOf r e []) ∧ (src ≠ 2 → (slotSt t c (src == 1)).reading = true))
  ∧ (∀ (s s' : State) (r : RingIx) (e : Entry) (bs : List Byte), takeEntry s r 4 6 = some e → s.ckpt.well = .ready → canDma s = true
    → s' = tableRead r e (ent e 16 8) 256 s → readTable s' r e (ent e 16 8) 256 = .ok bs
    → Does (.target r) s fun t => t.ckpt.target = bs ∧ t.ckpt.connected = false ∧ t.ckpt.target_ = some (r.val, entTag e))
  ∧ (∀ (s : State) (r : RingIx) (tag : Nat) (e : Entry), s.ckpt.target_ = some (r.val, tag) → findEntry s r 6 tag = some e → entToken e = false
    → bits (entFlags e) 0 1 = 0 → canDma s = true → Inv s
    → Does (.targetConnected r) s fun t => t.ckpt.connected = true ∧ t.ckpt.target_ = none ∧ Completed s t r e 0 [])
  ∧ (∀ (s : State) (r : RingIx) (e : Entry) (k : CkptRun), takeEntry s r 4 7 = some e → s.ckpt.well = .ready → ent e 8 1 ≤ 3
    → ckptRun s (ent e 8 1) = some k
    → Does (.abort r) s fun t => ckptRun t (ent e 8 1) = none ∧ slotSt t (ent e 8 1) k.slotB = {})
  ∧ (∀ (s : State) (r : RingIx) (e : Entry) (c : Nat) (b : Bool), Waits s r 4 8 e → entToken e = false → c = ent e 8 1 → s.ckpt.well = .ready → c ≤ 3 → ent e 9 1 ≤ 1
    → b = (ent e 9 1 == 1) → (slotSt s c b).state ≠ .writing → (slotSt s c b).state ≠ .draining → (slotSt s c b).reading = false
    → Does (.invalidate r) s fun t => slotSt t c b = {} ∧ Completed s t r e 0 [])

/-- What runs of a checkpoint, a drain or a restore completes (R308 to R318, R324 to R328): the freeze ends, granules are copied, the slot commits or
drains, the restore ends, the MINI image is written. -/
def Obligations.CheckpointEventsComplete : Prop :=
  (∀ (s : State) (c : Ctx) (us : Nat) (k : CkptRun), ckptRun s c = some k → k.freezing = true → k.froze.all (stoppedNow s) = true
    → listsBusy s c = false → k.cut = false
    → Does (.fullFreezeComplete c us) s fun t => ∃ k', ckptRun t c = some k' ∧ k'.cut = true ∧ k'.freezing = false
        ∧ k'.image.sections = k.image.sections ++ k.stage.toList ∧ k'.image.chip = some (onChip s c k.froze))
  ∧ (∀ (s : State) (c : Ctx) (p : Template), ckptPeriod s ≠ 0 → Tbl.get 0 s.ckpt.commitAt c ≠ 0
    → Tbl.get 0 s.ckpt.commitAt c - 1 + ckptPeriod s * 60000000000 ≤ s.now → (ctx s c).created = true → template s c = some p → p.auto = true
    → ckptRun s c = none → s.ckpt.well = .ready → (slotSt s c (chooseSlot s c)).reading = false
    → Does (.periodicCheckpoint c) s fun t => ckptRun t c
        = some { number := nextNumber s c, step := nextStep s c, full := p.full, slotB := chooseSlot s c })
  ∧ (∀ (s : State) (c : Ctx) (k : CkptRun) (x : Section), ckptRun s c = some k → k.cut = true → k.image.sections[k.sec]? = some x
    → k.copied.contains (k.sec, k.gran) = true
    → Does (.granuleCopy c) s fun t => ckptRun t c = some (scanNext k))
  ∧ (∀ (s : State) (c : Ctx) (k : CkptRun) (x : Section), ckptRun s c = some k → k.cut = true → k.image.sections[k.sec]? = some x
    → k.copied.contains (k.sec, k.gran) = false → secGrans x ≠ 0
    → (∀ n ≤ 65664, extentsOf { k with secBytes := Tbl.set k.secBytes k.sec (Tbl.get 0 k.secBytes k.sec + n) }
        ≤ (slotSt s c k.slotB).extents + freeExtents s)
    → Does (.granuleCopy c) s fun t => ∃ k', ckptRun t c = some k' ∧ k'.done = k.done + 1 ∧ k'.sec = (scanNext k).sec ∧ k'.gran = (scanNext k).gran
        ∧ (x.kind ≠ 2 → ∃ y ∈ k'.image.grans, y.sec = k.sec ∧ y.ix = k.gran
            ∧ y.cells = (readGranule s.mem s.ddr.poison x k.sec k.gran).cells ∧ y.poison = (readGranule s.mem s.ddr.poison x k.sec k.gran).poison))
  ∧ (∀ (s : State) (c : Ctx) (k : CkptRun) (y : Nat × Nat) (rest : List (Nat × Nat)) (x : Section), ckptRun s c = some k → k.buffer = y :: rest
    → k.image.sections[y.1]? = some x
    → (∀ n ≤ 65664, extentsOf { k with secBytes := Tbl.set k.secBytes y.1 (Tbl.get 0 k.secBytes y.1 + n) }
        ≤ (slotSt s c k.slotB).extents + freeExtents s)
    → Does (.copyAheadRelease c) s fun t => ∃ k', ckptRun t c = some k' ∧ k'.done = k.done + 1 ∧ k'.buffer = rest)
  ∧ (∀ (s : State) (c : Ctx) (ms : Nat) (k : CkptRun), ckptRun s c = some k → k.cut = true → k.image.sections.length ≤ k.sec → k.buffer = []
    → Does (.locatorWriteComplete c ms) s fun t => ckptRun t c = none ∧ (slotSt t c k.slotB).number = k.number ∧ (slotSt t c k.slotB).step = k.step
        ∧ (slotSt t c k.slotB).state = (if bit s.ckpt.cfg 25 && (template s c).isSome then .draining else .committed)
        ∧ t.ckpt.commits = s.ckpt.commits + 1)
  ∧ (∀ (s : State) (c : Ctx) (b : Bool) (ms : Nat), (slotSt s c b).state = .draining → drainsPaused s = false
    → Does (.drainComplete c b ms) s fun t => slotSt t c b = { slotSt s c b with state := .drained, drainer := none }
        ∧ t.ckpt.images = Tbl.set s.ckpt.images (slotSt s c b).lba (slotSt s c b).image)
  ∧ (∀ (s : State) (c : Ctx) (b : Bool) (cause : Nat) (n : Word), (slotSt s c b).state = .draining
    → Does (.drainFail c b cause n) s fun t => slotSt t c b = { slotSt s c b with state := .committed, drainer := none })
  ∧ (∀ (s : State) (c : Ctx) (sect gran ms : Nat) (img : Option Image) (run : RestoreRun) (b : Bool) (i : Image) (e : Entry),
    Tbl.get none s.ckpt.restores c = some run → run.slot = some b → run.full = false → i = (slotSt s c b).image → i.offline = false
    → (ctx s c).created = true → findEntry s run.ring 5 run.tag = some e → entToken e = false → restoreReach s run c e i = none
    → bits (entFlags e) 0 1 = 0 → canDma s = true → Inv s
    → Does (.restoreComplete c 0 sect gran ms img) s fun t => (slotSt t c b).reading = false ∧ Tbl.get none t.ckpt.restores c = none
        ∧ (ctx t c).seed = i.seed ∧ (ctx t c).modeEd = i.modeEd ∧ (ctx t c).modeTab = i.modeTab
        ∧ Completed s t run.ring e 0 (toBytes i.number.toNat 4 ++ toBytes i.step.toNat 4 ++ toBytes (restoredBytes i false) 8 ++ toBytes ms 4 ++ toBytes 0 4))
  ∧ (∀ (s : State) (us : Nat), s.ckpt.miniBusy = true → s.pwr.failing = none
    → Does (.miniWriteComplete us) s fun t => t.ckpt.miniBusy = false ∧ t.ckpt.mini = some (miniNow s))

/-! ### Resets, hangs and dumps (16_resets_hangs_dumps.md) -/

/-- The reset commands complete (R334 to R338, R341): a reset of any kind begins, drains, clears and releases, or escalates. -/
def Obligations.ResetsComplete : Prop :=
  (∀ (c : Instr) (s : State) (kind index cause : Nat), ResetCmd c kind index cause → s.boot.state ≠ .off → s.pwr.failing = none
    → (s.rst.runs.any fun x => insideDomain kind index x.kind x.index) = false → domainOk s kind index = true → (kind = 5 → s.link.outs = [])
    → Does c s fun t => (∃ x ∈ t.rst.runs, x.kind = kind ∧ x.index = index ∧ x.cause = cause ∧ x.at_ = s.now ∧ x.phase = if kind = 5 then 5 else 3)
        ∧ Tbl.get 0 t.rst.counts kind = satAdd 255 (Tbl.get 0 s.rst.counts kind) 1
        ∧ ∀ x ∈ affected s kind index, ctxResets s x = false → (ctx t x).gen = nextGen (ctx s x).gen)
  ∧ (∀ (s : State) (x : ResetRun), runIn s 3 = some x → (x.at_ + 100000 ≤ s.now ∨ x.ctxs.all (ctxDrained s) = true)
    → Does .resetDrainEnd s fun t => t.rst.runs = s.rst.runs.map fun y => if y = x then { x with phase := 4 } else y)
  ∧ (∀ (s : State) (x : ResetRun), runIn s 4 = some x
    → Does .resetSampleWritten s fun t => t.rst.runs = (s.rst.runs.map fun y => if y = x then { x with phase := 5 } else y)
        ∧ (x.kind = 1 → (core s x.index).state ≠ .absent → (core s x.index).state ≠ .fenced → (core t x.index).streams = [])
        ∧ t.rst.sampleSeq = s.rst.sampleSeq + 1)
  ∧ (∀ (s : State) (us : Nat) (x : ResetRun), s.rst.runs = [x] → x.phase = 5 → x.kind < 6
    → Does (.resetRelease us) s fun t => t.rst.runs = [] ∧ t.rst.lastKind = x.kind ∧ t.rst.lastCause = x.cause ∧ t.rst.lastIndex = x.index)
  ∧ (∀ (s : State) (us : Nat) (x : ResetRun), s.rst.runs = [x] → x.phase = 5 → x.kind = 6 → s.rst.dumpPending = none
    → Does (.resetRelease us) s fun t => t.boot.state = .boot ∧ t.boot.step = 0 ∧ t.boot.warm = true ∧ t.rst.runs = [] ∧ t.rst.lastKind = 6
        ∧ t.time.ns = s.time.ns ∧ t.log.ring = s.log.ring ∧ (∀ c : Ctx, (ctx t c).gen = (ctx s c).gen ∧ (ctx t c).created = false))
  ∧ (∀ (s : State) (us : Nat) (x : ResetRun), s.rst.runs = [x] → x.phase = 5 → x.kind = 7 → s.rst.dumpPending = none
    → Does (.resetRelease us) s fun t => t.boot.state = .boot ∧ t.boot.step = 0 ∧ t.boot.warm = false ∧ t.rst.runs = [] ∧ t.rst.lastKind = 7
        ∧ t.cores = State.reset.cores ∧ t.ctxs = State.reset.ctxs ∧ t.idb.fenceList = s.idb.fenceList ∧ t.upd.selector = s.upd.selector)
  ∧ (∀ (s : State) (x : ResetRun) (d : Nat × Nat), s.rst.runs = [x] → x.kind < 5 → 1 ≤ x.kind → domainOk s x.kind x.index = true
    → x.at_ + escalateNs x.kind ≤ s.now → s.boot.state ≠ .off → s.pwr.failing = none → d = nextDomain x.kind x.index
    → Does .resetEscalation s fun t => ∃ y ∈ t.rst.runs, y.kind = d.1 ∧ y.index = d.2 ∧ y.cause = 3 ∧ y.phase = 3)
  ∧ (∀ (s : State) (x : ResetRun), s.rst.runs = [x] → x.kind = 5 → x.at_ + 10000000 ≤ s.now → s.link.outs = []
    → Does .resetEscalation s fun t => t.rst.runs = [] ∧ (pair t (x.index / 16) (x.index % 16)).state = .down)

/-- Hang detections, fatal errors and the dump commands complete (R342 to R345, R349): a detection is counted, a fatal error leaves its dump pending and
its module reset begun, the dump is written, copied, cleared. -/
def Obligations.HangsAndDumpsComplete : Prop :=
  (∀ (c : Instr) (s : State), HangFound c s → Does c s fun t => Tbl.get 0 t.rst.counts 8 = satAdd 255 (Tbl.get 0 s.rst.counts 8) 1)
  ∧ (∀ (c : Instr) (s : State) (g : Core) (st : Str), (c = .stopHang g st ∧ (strm s g st).state = .stopping ∧ (strm s g st).stopAt + 1000000 ≤ s.now
      ∨ c = .streamIssueHang g st ∧ heldFor s g st [2, 3, 4, 6, 7, 8] (hangLimit s 0) = true ∧ bit s.rst.hangCfg 25 = true)
    → (core s g).hangFree = none → s.rst.runs = [] → s.boot.state ≠ .off → s.pwr.failing = none → domainOk s 1 g = true
    → Does c s fun t => ∃ x ∈ t.rst.runs, x.kind = 1 ∧ x.index = g ∧ x.cause = 2)
  ∧ (∀ (c : Instr) (s : State) (cause : Nat) (hpc : Word), (c = .hubWatchdog hpc ∧ cause = 1 ∨ c = .hubFirmwareException hpc ∧ cause = 2
      ∨ c = .hubMemoryUe hpc ∧ cause = 3 ∨ c = .ddrControllerFault hpc ∧ cause = 5)
    → s.boot.state ≠ .off → s.pwr.failing = none → (∀ x ∈ s.rst.runs, x.kind < 6)
    → Does c s fun t => t.rst.dumpPending = some cause ∧ t.hst.resetting = true
        ∧ ∃ x ∈ t.rst.runs, x.kind = (if cause = 5 then 7 else 6) ∧ x.cause = 5 ∧ x.phase = 3)
  ∧ (∀ (s : State) (kib us cause : Nat), s.rst.dumpPending = some cause → cause ≠ 4 → cause ≠ 5 → (dumpRun s).isSome = true
    → Does (.dumpWritten kib us) s fun t => t.rst.dumpPending = none ∧ t.rst.dumpValid = true ∧ t.rst.dumpCause = cause)
  ∧ (∀ (s : State) (result us : Nat), s.rst.dumpPending = none → s.rst.dumpValid = true → s.rst.dumpWell = 0 → (dumpRun s).isSome = true
    → Does (.dumpWellCopyEnd result us) s fun t => t.rst.dumpWell = result
        ∧ t.rst.dumpHalf = if result = 1 then !s.rst.dumpHalf else s.rst.dumpHalf)
  ∧ (∀ (s : State) (v : Word), blockHeld s 0x80020 = false → bit v 0 = true
    → Does (.dumpClear v) s fun t => t.rst.dumpValid = false ∧ t.rst.dumpWell = s.rst.dumpWell)
  ∧ (∀ (s : State) (v : Word), blockHeld s 0x80008 = false → Does (.rstHangCfgWrite v) s fun t => t.rst.hangCfg = v &&& 0x03FFFFFF)
/-! ### Power, clocks and heat (19_power_clocks_thermal.md) -/

/-- The power, clock and heat events complete (R381 to R393): excursions are counted, the power-fail action begins, throttles and caps move, readings
are kept. -/
def Obligations.PowerComplete : Prop :=
  (∀ (s : State) (x us w : Nat), s.boot.state ≠ .off → 20 ≤ us
    → (x < 4600 → Does (.inputExcursionEnd .sag x us w) s fun t => t.pwr.sag = satAdd 255 s.pwr.sag 1 ∧ t.pwr.cv = x ∧ t.pwr.watts = w)
      ∧ (6000 < x → Does (.inputExcursionEnd .surge x us w) s fun t => t.pwr.surge = satAdd 255 s.pwr.surge 1 ∧ t.pwr.cv = x ∧ t.pwr.watts = w))
  ∧ (∀ (s : State) (cv w : Nat), s.boot.state ≠ .off → s.pwr.failing = none
    → (cv < 4400 → Does (.dropout cv w) s fun t => t.pwr.failing = some 2 ∧ t.pwr.lastCause = 2 ∧ t.pwr.dropout = satAdd 255 s.pwr.dropout 1 ∧ t.rst.runs = [])
      ∧ (6200 < cv → Does (.overvolt cv w) s fun t => t.pwr.failing = some 3 ∧ t.pwr.lastCause = 3 ∧ t.pwr.overvolt = satAdd 255 s.pwr.overvolt 1 ∧ t.rst.runs = []))
  ∧ (∀ (s : State) (i : Fin 8) (x : Int), s.boot.state ≠ .off → s.pwr.failing = none → (i.val < 6 ∧ 1050 ≤ x ∨ i.val = 6 ∧ 500 ≤ x)
    → Does (.thermalTrip i x) s fun t => t.pwr.failing = some 4 ∧ t.pwr.tripped = true ∧ t.rst.runs = [])
  ∧ (∀ (s : State) (tog : Bool) (n cv w : Nat), s.boot.state ≠ .off → s.boot.state ≠ .boot → s.pwr.failing = none
    → Does (.pwrfailNAssert tog n cv w) s fun t => t.pwr.failing = some 1 ∧ t.pins.pwrfailN = true ∧ t.pwr.cv = cv)
  ∧ (∀ s : State, s.pwr.failing.isSome = true → Does .holdupExhausted s fun t => t.boot.state = .off ∧ t.pwr.failing = none)
  ∧ (∀ s : State, s.boot.state = .off → s.pwr.tripped = false
    → Does .inputRestored s fun t => t.boot.state = .boot ∧ t.boot.step = 0 ∧ t.boot.warm = false)
  ∧ (∀ (s : State) (w : Nat), s.boot.state ≠ .off → powerCap s < w → s.pwr.capped = false
    → Does (.powerCapExceeded w) s fun t => t.pwr.capped = true ∧ t.pwr.watts = w)
  ∧ (∀ s : State, s.pwr.capped = true → s.pwr.overAt + 100000000 ≤ s.now → Does .powerCapRelease s fun t => t.pwr.capped = false)
  ∧ (∀ (s : State) (ts : List Int) (ds : List Nat) (cv w : Nat), s.boot.state ≠ .off
    → Does (.dieSensorRead ts ds cv w) s fun t => t.pwr.cv = cv ∧ t.pwr.watts = w ∧ (∀ i < 8, ∀ x, ts[i]? = some x → tempNow t i = x)
        ∧ ∀ h : Hlf, (10 * (throttleC s : Int) < tempNow t h → heat t h = true) ∧ (tempNow t h ≤ 10 * (throttleC s : Int) - 30 → heat t h = false))
  ∧ (∀ (s : State) (h : Hlf), (tightens s h = true → Tbl.get 0 s.pwr.capAt h + 10000000 ≤ s.now
        → Does (.throttleStep h) s fun t => dutyCap t h = max 20 (dutyCap s h - 5) ∧ Tbl.get 0 t.pwr.capAt h = s.now)
      ∧ (throttled s h = false → Tbl.get 0 s.pwr.capAt h + 100000000 ≤ s.now
        → Does (.throttleStep h) s fun t => dutyCap t h = min 100 (dutyCap s h + 5) ∧ Tbl.get 0 t.pwr.capAt h = s.now))
  ∧ (∀ s : State, s.boot.state = .off → Does .thermalRestart s fun t => t.pwr.tripped = false)
  ∧ (∀ (s : State) (rise : Bool) (a b : Int), s.boot.state ≠ .off → s.log.queue.length < 256
    → (rise = true ∧ 220 < b - a ∨ rise = false ∧ 400 < a)
    → Does (.coolantWarning rise a b) s fun t => t.log.queue = s.log.queue ++ [⟨s.time.ns, 0x0707, 0x0700, if rise then 2 else 1,
        BitVec.ofNat 32 (tempWord a), BitVec.ofNat 32 (tempWord b), 0⟩])
  ∧ (∀ (s : State) (b : Fin 7), s.boot.state ≠ .off
    → Does (.clockLost b) s fun t => t.pwr.locks = s.pwr.locks &&& ~~~(BitVec.ofNat 7 (2 ^ b.val)))
  ∧ (∀ (s : State) (v : Word), blockHeld s 0x70014 = false → bit v 0 = true
    → Does (.clrExtremes v) s fun t => t.pwr.vmax = 0 ∧ t.pwr.vmin = 0xFFFF)

/-! ### Start-up (20_startup.md) -/

/-- The steps of BOOT and CAL and the end of SURVEY complete (R395 to R401). -/
def Obligations.StartupComplete : Prop :=
  (∀ (s : State) (f : BootFinding), s.boot.state = .boot → s.boot.hold = false → s.pwr.failing = none
    → (s.boot.step = 0 → Does (.bootStepComplete f) s fun t => t.boot.step = 1 ∧ t.steer.slot = s.pins.slotNow)
      ∧ (s.boot.step = 1 → f.identityOk = false → Does (.bootStepComplete f) s fun t => t.boot.state = .fenced ∧ t.boot.fenceCause = 1)
      ∧ (s.boot.step = 4 → Does (.bootStepComplete f) s fun t => t.boot.step = 5 ∧ ∀ g : Core, (core t g).state
          = if inGood s g = false then .absent else if inFence s g then .fenced else .free)
      ∧ (s.boot.step = 7 → s.pwr.pwrfail = false → 64 ≤ usableCores s
          → Does (.bootStepComplete f) s fun t => t.boot.state = .cal ∧ t.boot.step = 0)
      ∧ (s.boot.step = 7 → s.pwr.pwrfail = false → usableCores s < 64
          → Does (.bootStepComplete f) s fun t => t.boot.state = .fenced ∧ t.boot.fenceCause = 4))
  ∧ (∀ s : State, s.boot.state = .boot → s.boot.hold = true → s.boot.step < 8
    → Does .bootPwrfailRelease s fun t => t.boot.hold = false ∧ t.boot.state = .boot ∧ t.boot.step = s.boot.step ∧ t.pwr.pwrfail = false)
  ∧ (∀ (s : State) (f : CalFinding), s.boot.state = .cal → s.pwr.failing = none
    → (s.boot.step = 0 → 64 ≤ usableCores s → Does (.calStepComplete f) s fun t => t.boot.state = .cal ∧ t.boot.step = 1)
      ∧ (s.boot.step = 3 → 64 ≤ usableCores s → (∀ x ∈ f.powers, x.2.2.1.toNat < 150 ∧ x.2.2.2.2.toNat < 300) → Does (.calStepComplete f) s fun t => t.boot.state = .survey ∧ t.boot.reported = false ∧ t.steer.state = .surveying
          ∧ t.steer.survey.isSome = true))
  ∧ (∀ s : State, s.boot.state = .survey → s.boot.reported = true → s.boot.reportAt + 2000000000 ≤ s.now → s.steer.staged = []
    → s.steer.state ≠ .applying
    → Does .surveyWaitTimeout s fun t => t.boot.state = if degradeMask s ||| s.boot.fenceMask = 0 then .ready else .degraded)

/-! ### Update and identity (21_update_and_identity.md) -/

/-- The update commands complete (R407 to R411, R418, R420): a session opens, takes bytes, commits or ends, its status and the attestation report are given. -/
def Obligations.UpdateComplete : Prop :=
  (∀ (s : State) (r : RingIx) (e : Entry), Waits s r 5 0x20 e → (ent e 8 1 = 1 ∨ ent e 8 1 = 2) → s.ckpt.well = .ready → s.upd.session = none
    → s.upd.staged = none
    → Does (.updOpen r) s fun t => ∃ id, 1 ≤ id ∧ t.upd.session = some { id := id, source := ent e 8 1, ring := r.val, lastAt := s.now }
        ∧ Completed s t r e 0 (toBytes id 4))
  ∧ (∀ (s s' : State) (r : RingIx) (e : Entry) (u : UpdSession) (bs : List Byte), Waits s r 5 0x21 e → s.upd.session = some u → u.id = ent e 8 4
    → ent e 12 4 % 4096 = 0 → 1 ≤ ent e 16 4 → ent e 16 4 ≤ 1048576 → ent e 12 4 + ent e 16 4 ≤ 268431360 → bits (ent e 24 8) 60 4 = 4
    → s' = tableRead r e (ent e 24 8) (ent e 16 4) s → canDma s' = true → Inv s' → readTable s' r e (ent e 24 8) (ent e 16 4) = .ok bs
    → Does (.updWrite r true) s fun t => t.upd.staging = Memory.writeN s'.upd.staging (ent e 12 4) bs
        ∧ (∃ u', t.upd.session = some u' ∧ u'.id = u.id ∧ u'.lastAt = s'.now) ∧ Completed s' t r e 0 (toBytes t.upd.blocks.length 4))
  ∧ (∀ (s : State) (r : RingIx) (e : Entry) (u : UpdSession) (bs : List Byte) (m : Manifest), Waits s r 5 0x22 e → s.upd.session = some u
    → u.id = ent e 8 4 → 64 ≤ ent e 16 4 → ent e 16 4 ≤ 6509 → bs = Memory.readN s.upd.staging (ent e 12 4) (ent e 16 4) → m = parseManifest bs
    → manifestOk bs = true → inBlocks s.upd.blocks (ent e 12 4) (ent e 16 4) = true
    → (m.parts.all fun p => inBlocks s.upd.blocks p.off p.len) = true
    → Does (.updCommit r true) s fun t => t.upd.session = none ∧ t.upd.staged = some (m, u.id) ∧ Completed s t r e 0 (toBytes m.setVer 4))
  ∧ (∀ (s : State) (r : RingIx) (e : Entry) (u : UpdSession), Waits s r 5 0x23 e → s.upd.session = some u → u.id = ent e 8 4
    → Does (.updAbort r) s fun t => t.upd.session = none ∧ t.upd.blocks = [] ∧ Completed s t r e 0 [])
  ∧ (∀ (s : State) (r : RingIx) (e : Entry), Waits s r 5 0x24 e
    → Does (.updStatus r) s fun t => Completed s t r e 0 ([BitVec.ofNat 8 (updState s), BitVec.ofNat 8 (updSource s), 0, 0] ++ toBytes (stagedVer s) 4
        ++ toBytes (if s.upd.session.isSome then s.upd.blocks.length else 0) 4))
  ∧ (∀ (s : State) (u : UpdSession), s.upd.session = some u → u.lastAt + 600000000000 ≤ s.now
    → Does .updSessionIdle s fun t => t.upd.session = none ∧ t.upd.blocks = [])
  ∧ (∀ (s : State) (r : RingIx) (e : Entry) (a n : Nat), Waits s r 5 0x28 e → n = (attestation ((e.bytes.drop 8).take 32) s).1.length → n ≤ ent e 48 4
    → bits (ent e 40 8) 60 4 = 4 → ent e 40 8 + n ≤ 0x10000000000000000 → checkAt s (whoEntry s r e none) (ent e 40 8) n true = .ok (.here a)
    → Does (.attest r) s fun t => Completed s t r e 0 (toBytes n 4))
  ∧ (∀ (s : State) (nonce : List Byte), sideUp s = true
    → Does (.sidebandAttest nonce) s fun t => t.sent = ⟨.pldm, 0x7E, (attestation nonce s).1.map BitVec.toNat⟩ :: s.sent)

/-! ### External interfaces (22_external_interfaces.md) -/

/-- The pins, the removal lever, the faceplate ports and the control port complete (R430, R434, R435, R437, R439, R440). -/
def Obligations.PinsComplete : Prop :=
  (∀ (s : State) (r : Nat), s.boot.state ≠ .off → s.pins.attnMasked = false → bit s.pins.ctlCfg 0 = true → s.pins.attnAt = 0 → EventReady s none r
    → Does .rackAttn s fun t => t.pins.attnAt = s.now + 1 ∧ Posted s t r 0x4040 0x4000 none s.pins.attnCount 0 0 0)
  ∧ (∀ (s : State) (m : Bool), (m = true → s.pins.attnOn + 1000000000 ≤ s.now) → Does (.rackAttnMask m) s fun t => t.pins.attnMasked = m)
  ∧ (∀ s : State, s.boot.state ≠ .off → Does .perstN s fun t => t.pins.perst = true ∧ t.hst.resetting = true)
  ∧ (∀ (s : State) (v : Fin 32), Does (.slotIdChange v) s fun t => t.pins.slotNow = v ∧ t.steer.slot = s.steer.slot)
  ∧ (∀ s : State, s.boot.state ≠ .off → s.pins.remove = .none_
    → Does .ejectorOpen s fun t => t.pins.ejectOpen = true
        ∧ t.pins.remove = if holdsRole s (me s) = false ∧ chMember s.steer.chart (me s) = false ∧ ctxMask s = 0 ∧ slotsBusy s = false then .safe else .requested)
  ∧ (∀ s : State, s.boot.state ≠ .off → Does .ejectorClose s fun t => t.pins.ejectOpen = false ∧ t.pins.remove = .none_)
  ∧ (∀ (s : State) (p : Fin 4), blockHeld s (ethOff p 0) = false → (eth s p).state = .disabled
    → Does (.ethPortEnable p) s fun t => bit (eth t p).ctl 31 = true
        ∧ (eth t p).state = if (eth s p).present = false then .noModule else if (eth s p).fecLock then .up else .down)
  ∧ (∀ (s : State) (p : Fin 4), blockHeld s (ethOff p 0) = false
    → ((eth s p).state = .up → Does (.ethPortDisable p) s fun t => (eth t p).state = .draining ∧ bit (eth t p).ctl 31 = false)
      ∧ ((eth s p).state = .noModule ∨ (eth s p).state = .down
          → Does (.ethPortDisable p) s fun t => (eth t p).state = .disabled ∧ bit (eth t p).ctl 31 = false))
  ∧ (∀ (s : State) (p : Fin 4), (eth s p).state = .draining → (eth s p).pending = false
    → Does (.ethPortDrainEnd p) s fun t => (eth t p).state = .disabled)
  ∧ (∀ (s : State) (p : Fin 4) (w : Nat), s.boot.state ≠ .off → (eth s p).state = .noModule
    → Does (.osfpModuleChange p 0 w) s fun t => (eth t p).present = true ∧ (eth t p).state = if (eth s p).fecLock then .up else .down)
  ∧ (∀ (s : State) (p : Fin 4) (w : Nat), s.boot.state ≠ .off → (eth s p).state = .up
    → Does (.osfpModuleChange p 1 w) s fun t => (eth t p).present = false ∧ (eth t p).state = .noModule)
  ∧ (∀ (s : State) (p : Fin 4) (f : List Byte) (ce ue : Nat), (eth s p).state = .down → (eth s p).present = true → blockHeld s (ethOff p 0) = false
    → (64 ≤ f.length → f.length ≤ 9216 → fcsGood f = true → macControl f = none
        → Does (.ethernetFrame p f ce ue) s fun t => (eth t p).state = .up ∧ (eth t p).drop = (eth s p).drop
            ∧ (eth t p).rx = (eth s p).rx ++ [(framePrio f, f)] ∧ (eth t p).feCe = incSat (eth s p).feCe ce)
      ∧ (f.length < 64 ∨ 9216 < f.length ∨ fcsGood f = false
        → Does (.ethernetFrame p f ce ue) s fun t => (eth t p).state = .up ∧ (eth t p).drop = incSat (eth s p).drop 1 ∧ (eth t p).rx = (eth s p).rx))
  ∧ (∀ (s : State) (l : Fin 3), Does (.controlLinkChange l) s fun t => t.pins.link = l)
  ∧ (∀ (s : State) (v : Word), blockHeld s 0x40000C = false → Does (.locate v) s fun t => t.pins.led = v &&& 1)

/-- The sideband's requests are answered (R438); the layout of the answers is the model's (log 12). -/
def Obligations.SidebandComplete : Prop :=
  (∀ (s : State) (i3c : Bool) (eid : Byte), sideUp s = true → eid ≠ 0 → eid ≠ 0xFF
    → Does (.setEndpointId eid i3c) s fun t => t.side.eid = eid ∧ t.sent = ⟨.pldm, 0, [1, 0, 0, eid.toNat, 0]⟩ :: s.sent)
  ∧ (∀ s : State, sideUp s = true
    → (Does .getEndpointId s fun t => t.sent = ⟨.pldm, 0, [2, 0, s.side.eid.toNat, 0, 0]⟩ :: s.sent)
      ∧ (Does (.getMctpVersionSupport 0) s fun t => t.sent = ⟨.pldm, 0, [4, 0, 1, 0xF1F3FF00]⟩ :: s.sent)
      ∧ (Does .getMessageTypeSupport s fun t => t.sent = ⟨.pldm, 0, [5, 0, 2, 1, 0x7E]⟩ :: s.sent)
      ∧ Does (.getVendorDefinedMessageSupport 0) s fun t => t.sent = ⟨.pldm, 0, [6, 0, 0xFF, 0, s.idb.vendor.toNat, 0]⟩ :: s.sent)
  ∧ (∀ s : State, sideUp s = true → pldmBusy s = false
    → (Does .getTid s fun t => t.sent = ⟨.pldm, 1, [0, 2, 0, s.side.tid.toNat]⟩ :: s.sent)
      ∧ (∀ tid : Byte, tid ≠ 0 → tid ≠ 0xFF → Does (.setTid tid) s fun t => t.side.tid = tid ∧ t.sent = ⟨.pldm, 1, [0, 1, 0]⟩ :: s.sent)
      ∧ (∀ p : Byte, p.toNat ∈ pldmTypes → Does (.getPldmVersion p) s fun t => ∃ v, t.sent = ⟨.pldm, 1, [0, 3, 0, v]⟩ :: s.sent)
      ∧ (Does .getPldmTypes s fun t => t.sent = ⟨.pldm, 1, [0, 4, 0, 0x15]⟩ :: s.sent)
      ∧ (∀ p : Byte, p.toNat ∈ pldmTypes
          → Does (.getPldmCommands p) s fun t => t.sent = ⟨.pldm, 1, [0, 5, 0, pldmCommands p.toNat]⟩ :: s.sent)
      ∧ (∀ h : Word, 1 ≤ h.toNat → h.toNat ≤ 11
          → Does (.getPdr h) s fun t => ∃ v, t.sent = ⟨.pldm, 1, [2, 0x51, 0, h.toNat + 1, h.toNat, if h.toNat ≤ 10 then 2 else 4, h.toNat, v]⟩ :: s.sent)
      ∧ (∀ i < 8, Does (.getSensorReading (i + 1)) s fun t => t.sent = ⟨.pldm, 1, [2, 0x11, 0, tempWord (tempNow s i)]⟩ :: s.sent)
      ∧ (Does (.getStateSensorReadings 11) s fun t => t.sent = ⟨.pldm, 1, [2, 0x21, 0, 1, bootCode s.boot.state]⟩ :: s.sent)
      ∧ (Does (.getStateSensorReadings 12) s fun t => t.sent = ⟨.pldm, 1, [2, 0x21, 0, 1, removeCode s.pins.remove]⟩ :: s.sent)
      ∧ (Does .getFruRecordTableMetadata s fun t => ∃ v, t.sent = ⟨.pldm, 1, [4, 1, 0, v]⟩ :: s.sent)
      ∧ Does .getFruRecordTable s fun t => ∃ v, t.sent = ⟨.pldm, 1, [4, 2, 0, s.idb.vendor.toNat, if s.idb.deviceL then 0x3216 else 0x3208,
          s.idb.serial.toNat, s.idb.siStep.toNat, s.idb.assyStep.toNat, v]⟩ :: s.sent)
  ∧ (∀ s : State, sideUp s = true → pldmBusy s = true → Does .getTid s fun t => t.sent = ⟨.pldm, 1, [0, 2, 4]⟩ :: s.sent)

/-! ### The whole block -/

/-- Every step keeps memory in its canonical form: addresses strictly rising, no entry equal to what an unlisted byte reads as. -/
def Obligations.StepKeepsInvariant : Prop := ∀ s t : State, step s = .next t → Inv s → Inv t

/-- The state right after reset has its memory in canonical form. -/
def Obligations.ResetInvariant : Prop := Inv State.reset

/-- Every command is answered with a next state in every state, and touches at most the parts of the state that `touches` lists for it:
every other part is as it was. No command touches the queue of waiting commands or the module's monotonic clock. -/
def Obligations.EveryCommandAnswers : Prop :=
  ∀ (c : Instr) (s : State), (Does c s fun t => OnlyParts (touches c) s t) ∧ .pending ∉ touches c ∧ .now ∉ touches c

/-- A step with a command at the front of the queue is that command's exec on the state with the queue's rest. -/
def Obligations.StepRunsFrontCommand : Prop :=
  ∀ (c : Instr) (rest : List Instr) (s : State), step { s with pending := c :: rest } = exec c { s with pending := rest }

/-- On an empty queue one tick of the module's clock passes (log 1, the model's choice): 1 ns, the pod time counter advances as R350
says, the counters of condition events count their cycles, nothing else changes; a module that is OFF idles. -/
def Obligations.EmptyQueueTicks : Prop :=
  ∀ s : State, s.pending = [] → ∃ t : State, step s = .next t ∧ OnlyParts [.now, .time, .tally] s t
    ∧ (s.boot.state = .off → t = s)
    ∧ (s.boot.state ≠ .off → t.now = s.now + 1 ∧ t.time = podTick s.time ∧ t.tally = { s.tally with counters := s.tally.counters.map (condTick s) })

/-- Commands leave the queue first in, first out, one a step, and no step adds one. -/
def Obligations.QueueDiscipline : Prop := ∀ s : State, ∃ t : State, step s = .next t ∧ t.pending = s.pending.tail

/-! ### Rules of the spec, each stated whole -/

/-- R26: a token queue is first in, first out, of 64 entries with one consumer stream. A SIGNAL appends one token; a SIGNAL from the same
core to a full queue stalls its stream until an entry frees; a WAIT by the consumer takes the head token into its register; on an empty
queue it stalls until a token arrives; a WAIT by another stream faults. -/
def Obligations.TokenQueueRule : Prop :=
  ∀ (s : State) (g : Core) (st : Str) (w : IWord) (q : Nat), fld w 12 4 = q →
    (Issues s g st 3 w → quiet s g st = true → bit (queue s g q).cfg 31 = true → bit (queue s g q).cfg (4 + st) = true
      → ((queue s g q).toks.length < 64 → Does (.signal g st) s fun t => Advanced s t g st ∧ ∃ v, (queue t g q).toks = (queue s g q).toks ++ [v])
        ∧ (64 ≤ (queue s g q).toks.length → Does (.signal g st) s fun t => (queue t g q).toks = (queue s g q).toks
            ∧ (strm t g st).state = .running ∧ (strm t g st).stall = 2 ∧ (strm t g st).pc = (strm s g st).pc))
    ∧ (Stalled s g st 2 w
      → ((queue s g q).toks.length < 64
          → Does (.signalResume g st) s fun t => Advanced s t g st ∧ ∃ v, (queue t g q).toks = (queue s g q).toks ++ [v])
        ∧ (64 ≤ (queue s g q).toks.length → exec (.signalResume g st) s = .next s))
    ∧ (Issues s g st 2 w → bit (queue s g q).cfg 31 = true → fld (queue s g q).cfg 0 2 = st.val → (queue s g q).ovfPend = false
      → (∀ v vs, (queue s g q).toks = v :: vs → Does (.wait g st) s fun t => Advanced s t g st ∧ (queue t g q).toks = vs
            ∧ sreg (strm t g st).sregs (fld w 8 4) = if fld w 8 4 = 0 then 0 else v.setWidth 64)
        ∧ ((queue s g q).toks = [] → Does (.wait g st) s fun t => (queue t g q).toks = []
            ∧ (strm t g st).state = .running ∧ (strm t g st).stall = 1 ∧ (strm t g st).pc = (strm s g st).pc))
    ∧ (Stalled s g st 1 w
      → (∀ v vs, (queue s g q).toks = v :: vs → Does (.waitResume g st) s fun t => Advanced s t g st ∧ (queue t g q).toks = vs
            ∧ sreg (strm t g st).sregs (fld w 8 4) = if fld w 8 4 = 0 then 0 else v.setWidth 64)
        ∧ ((queue s g q).toks = [] → exec (.waitResume g st) s = .next s))
    ∧ (Issues s g st 2 w → bit (queue s g q).cfg 31 = true → fld (queue s g q).cfg 0 2 ≠ st.val
      → Does (.wait g st) s fun t => Faulted t g st 0x0A q 2 (strm s g st).pc ∧ (queue t g q).toks = (queue s g q).toks)

/-- R28: a token from any source but a stream of the same core never waits and stalls no stream. It passes its GEN check, its source's
enable and the room check in this order, and the first it fails alone decides what is counted, which fault bit is set and what is logged;
after an overflow the consumer faults at its next WAIT. -/
def Obligations.RemoteTokenRule : Prop :=
  (∀ (s : State) (src : TokSrc) (c : Ctx) (gen : Byte) (g : Core) (q : Queue) (v : Word), (core s g).state = .assigned → (core s g).ctx = c →
    (Does (.remoteTokenArrival src c gen g q v) s fun t => ∀ x y, strm t x y = strm s x y)
    ∧ (¬((ctx s c).created = true ∧ (ctx s c).gen = gen) → Does (.remoteTokenArrival src c gen g q v) s fun t =>
        queue t g q = queue s g q ∧ t.rst.lateDrop = incSat s.rst.lateDrop 1 ∧ (core t g).fault = orBit (core s g).fault 9)
    ∧ ((ctx s c).created = true → (ctx s c).gen = gen → ¬(bit (queue s g q).cfg 31 = true ∧ bit (queue s g q).cfg 8 = true)
      → Does (.remoteTokenArrival src c gen g q v) s fun t => (queue t g q).toks = (queue s g q).toks
        ∧ (queue t g q).rej = satAdd 255 (queue s g q).rej 1 ∧ (queue t g q).ovf = (queue s g q).ovf
        ∧ t.rst.lateDrop = s.rst.lateDrop ∧ (core t g).fault = orBit (core s g).fault 8)
    ∧ ((ctx s c).created = true → (ctx s c).gen = gen → bit (queue s g q).cfg 31 = true → bit (queue s g q).cfg 8 = true
      → ((queue s g q).toks.length < 64 → Does (.remoteTokenArrival src c gen g q v) s fun t =>
          (queue t g q).toks = (queue s g q).toks ++ [v] ∧ (core t g).fault = (core s g).fault)
        ∧ (64 ≤ (queue s g q).toks.length → s.log.queue.length < 256 → Does (.remoteTokenArrival src c gen g q v) s fun t =>
            (queue t g q).toks = (queue s g q).toks ∧ (queue t g q).ovf = satAdd 255 (queue s g q).ovf 1
            ∧ (queue t g q).rej = (queue s g q).rej ∧ (core t g).fault = orBit (core s g).fault 7 ∧ (queue t g q).ovfPend = true
            ∧ ∃ x, t.log.queue = s.log.queue ++ [x] ∧ x.code = if coreHalf g = 0 then 0x8003 else 0xC003)))
  ∧ (∀ (s : State) (g : Core) (st : Str) (w : IWord), Issues s g st 2 w → bit (queue s g (fld w 12 4)).cfg 31 = true
    → fld (queue s g (fld w 12 4)).cfg 0 2 = st.val → (queue s g (fld w 12 4)).ovfPend = true
    → Does (.wait g st) s fun t => Faulted t g st 0x0A (fld w 12 4) 2 (strm s g st).pc)

/-- R30: a queue enabled with PRELOAD p holds p tokens with payloads 0 to p − 1. Enabling, configuring and clearing take effect only
while each stream of the core is STOPPED, HALTED or FAULTED with nothing outstanding; a write at any other time changes nothing, and is
logged with code 0x8004 or 0xC004. -/
def Obligations.QueueConfigurationRule : Prop :=
  ∀ (s : State) (g : Core) (q : Queue) (v : Word),
    (CoreOn s g (0x100 + 0x10 * q) → coreQuiet s g = true → Does (.coreTqCfgWrite g q v) s fun t =>
      (queue t g q).cfg = v &&& 0x807F01F3
        ∧ (bit v 31 = true → bit (queue s g q).cfg 31 = false → fld v 16 7 ≤ 64
          → (queue t g q).toks.length = fld v 16 7 ∧ ∀ i, i < fld v 16 7 → (queue t g q).toks[i]? = some (BitVec.ofNat 32 i)))
    ∧ (CoreOn s g (0x10C + 0x10 * q) → coreQuiet s g = true → bit v 0 = true → Does (.tqClear g q v) s fun t => (queue t g q).toks = [])
    ∧ (∀ (c : Instr) (off : Nat), (c = .coreTqCfgWrite g q v ∧ off = 0x100 + 0x10 * q) ∨ (c = .tqClear g q v ∧ off = 0x10C + 0x10 * q ∧ bit v 0 = true)
      → CoreOn s g off → coreQuiet s g = false → s.log.queue.length < 256
      → exec c s = .next { s with log := { s.log with queue := s.log.queue ++ [⟨s.time.ns, if coreHalf g = 0 then 0x8004 else 0xC004,
          BitVec.ofNat 16 g, BitVec.ofNat 32 q, BitVec.ofNat 32 off, v, 0⟩] } })
    ∧ (coreQuiet s g = true ↔ ∀ x, x < 4 → ((strm s g x).state = .stopped ∨ (strm s g x).state = .halted ∨ (strm s g x).state = .faulted)
        ∧ outstanding (core s g) x = 0)

/-- R112: the word at a stream's PC is 16 bytes, little-endian, its opcode in bits 7:0. An opcode that no row of R113 defines faults
ILLEGAL at issue, one of another stream STREAM, a nonzero reserved bit RESERVED, whichever instruction row meets the word. -/
def Obligations.IssueFaultRule : Prop :=
  (∀ (s : State) (g : Core) (st : Str) (p : Word) (a : Nat), (strm s g st).state = .running → nextFetch (strm s g st) = some p
    → fetchAt s g p = .ok a → badByte s a 16 = none
    → Does (.fetchFill g st .clean) s fun t => ∃ w : IWord, (strm t g st).fbuf = (strm s g st).fbuf ++ [(p, w)]
        ∧ ∀ i, i < 16 → fld w (8 * i) 8 = (s.mem.read (a + i)).toNat)
  ∧ ∀ (c : Instr) (s : State) (g : Core) (st : Str) (w : IWord), WordRow c g st → (strm s g st).state = .running
    → (strm s g st).stall ≠ 1 → (strm s g st).stall ≠ 2 → (strm s g st).stall ≠ 3 → (strm s g st).stall ≠ 5 → fetched (strm s g st) = some w
    → (opcodeStream (fld w 0 8) = some 5 → Does c s fun t => Faulted t g st 1 0 (fld w 0 8) (strm s g st).pc)
      ∧ (∀ x, opcodeStream (fld w 0 8) = some x → x ≠ 5 → x ≠ st.val → Does c s fun t => Faulted t g st 2 0 (fld w 0 8) (strm s g st).pc)
      ∧ (opcodeStream (fld w 0 8) = none ∨ opcodeStream (fld w 0 8) = some st.val
        → w.toNat &&& (2 ^ 128 - 1 - namedBits (fld w 0 8)) ≠ 0
        → Does c s fun t => ∃ i, bit w i = true ∧ bits (namedBits (fld w 0 8)) i 1 = 0 ∧ (∀ j, j < i → bit w j = true → bits (namedBits (fld w 0 8)) j 1 = 1)
            ∧ Faulted t g st 3 i (fld w 0 8) (strm s g st).pc)

/-- R172: the module works at any rate and width. While the link runs below 32 GT/s x8 it writes 0x0205, and again at each later change
of rate or width; no other change is logged. A link that can form x2 at most trains as x1 (R171). -/
def Obligations.LinkRateRule : Prop :=
  ∀ (s : State) (rate10 formed width : Nat), width = (if formed = 2 then 1 else formed) →
    (Does (.linkRateOrWidthChange rate10 formed) s fun t => t.hst.rate10 = rate10 ∧ t.hst.width = width)
    ∧ ((s.hst.rate10 ≠ rate10 ∨ s.hst.width ≠ width) → (rate10 < 320 ∨ width < 8 ∨ s.hst.rate10 < 320 ∨ s.hst.width < 8) → s.log.queue.length < 256
      → Does (.linkRateOrWidthChange rate10 formed) s fun t => t.log.queue = s.log.queue
          ++ [⟨s.time.ns, 0x0205, 0x00FF, BitVec.ofNat 32 rate10, BitVec.ofNat 32 width, 0, 0⟩])
    ∧ (320 ≤ rate10 → 8 ≤ width → 320 ≤ s.hst.rate10 → 8 ≤ s.hst.width → Does (.linkRateOrWidthChange rate10 formed) s fun t => t.log = s.log)

/-- R360: each of the eight alarms is one-shot. When it fires it is disarmed, its bit is set and event 0x0440 is posted on the unbound
EVENT ring; re-arming is allowed before that event is read, and the alarm then fires, and posts, again. -/
def Obligations.AlarmRule : Prop :=
  ∀ (s : State) (a : Fin 8),
    (alarmDue s a = true → (Does (.alarmFire a) s fun t => (alarm t a).armed = false ∧ bit t.time.alarmStat a = true)
      ∧ ∀ r, EventReady s none r → Does (.alarmFire a) s fun t => (alarm t a).armed = false ∧ bit t.time.alarmStat a = true
          ∧ Posted s t r 0x0440 0x0400 none a (fld (alarm s a).target 0 32) (fld (alarm s a).target 32 32) 0)
    ∧ ((alarm s a).armed = false → exec (.alarmFire a) s = .next s)
    ∧ (Does (.alarmArm a) s fun t => (alarm t a).armed = true ∧ (alarm t a).target = (alarm s a).target ∧ t.time.ns = s.time.ns
        ∧ t.time.alarmStat = s.time.alarmStat ∧ OnlyParts [.time] s t)

/-- R376: the logbook's input queue holds 256 records. One that finds it full is lost and counted in LOG_LOST; when the queue next has
space a record 0x0501 carries the number lost since the last one; a code's rate limit applies before the queue. -/
def Obligations.LogbookQueueRule : Prop :=
  (∀ (s : State) (code source p0 p1 p2 p3 : Nat),
    (s.log.queue.length < 256 → (logRec code source p0 p1 p2 p3 s).log.queue = s.log.queue
        ++ [⟨s.time.ns, BitVec.ofNat 16 code, BitVec.ofNat 16 source, BitVec.ofNat 32 p0, BitVec.ofNat 32 p1, BitVec.ofNat 32 p2, BitVec.ofNat 32 p3⟩]
      ∧ (logRec code source p0 p1 p2 p3 s).log.lost = s.log.lost)
    ∧ (256 ≤ s.log.queue.length → (logRec code source p0 p1 p2 p3 s).log.queue = s.log.queue
      ∧ (logRec code source p0 p1 p2 p3 s).log.lost = incSat s.log.lost 1 ∧ (logRec code source p0 p1 p2 p3 s).log.lostNow = s.log.lostNow + 1)
    ∧ ∀ key period, rateOk s key period = false → logRate key period code source p0 p1 p2 p3 s = s)
  ∧ (∀ (s : State) (x : LogRec) (rest : List LogRec), s.log.queue = x :: rest → rest.length < 256
    → Does .logbookRecord s fun t =>
        (s.log.lostNow = 0 → t.log.queue = rest)
        ∧ (s.log.lostNow ≠ 0 → t.log.lostNow = 0 ∧ ∃ y, t.log.queue = rest ++ [y] ∧ y.code = 0x0501 ∧ y.p0 = BitVec.ofNat 32 s.log.lostNow))

/-! ### Frames -/

/-- The frame of NOP, LI, ALU, BR and RDSYS that issue and do not fault: of the core only the stream changes, but for sampling's counts; of
the stream only the fetch state, the PC, the stall and the destination register D (none for NOP and BR). s0 reads 0 whatever is written.
No memory, no other core, no queue, no engine, no other register changes. -/
def Obligations.RegisterInstructionFrame : Prop :=
  ∀ (c : Instr) (o : Nat) (s t : State) (g : Core) (st : Str) (w : IWord),
    ((c = .nop g st ∧ o = 0) ∨ (c = .li g st ∧ o = 5) ∨ (c = .alu g st ∧ o = 7) ∨ (c = .br g st ∧ o = 8) ∨ (c = .rdsys g st ∧ o = 9))
    → Issues s g st o w → exec c s = .next t → (strm t g st).state = .running
    → OnlyParts [.cores, .tally] s t ∧ OnlyStream g st s t ∧ (strm t g st).flags = (strm s g st).flags ∧ (strm t g st).outst = (strm s g st).outst
      ∧ (∀ x, o = 0 ∨ o = 8 ∨ x ≠ fld w 8 4 → sreg (strm t g st).sregs x = sreg (strm s g st).sregs x) ∧ sreg (strm t g st).sregs 0 = 0

/-- The frame of SIGNAL and WAIT, and of the stalled ones that go on, when they do not fault: of the core only the stream, the queue the
instruction names and CORE_FAULT change, and sampling's counts; of that queue not its configuration; of the stream no register but a
WAIT's destination. -/
def Obligations.TokenInstructionFrame : Prop :=
  ∀ (c : Instr) (s t : State) (g : Core) (st : Str) (w : IWord),
    (c = .signal g st ∧ Issues s g st 3 w) ∨ (c = .signalResume g st ∧ Stalled s g st 2 w) ∨ (c = .wait g st ∧ Issues s g st 2 w)
      ∨ (c = .waitResume g st ∧ Stalled s g st 1 w)
    → exec c s = .next t → (strm t g st).state = .running
    → OnlyParts [.cores, .tally] s t ∧ OnlyCore g s t ∧ (∀ x, x ≠ st.val → strm t g x = strm s g x) ∧ (∀ q, q ≠ fld w 12 4 → queue t g q = queue s g q)
      ∧ (queue t g (fld w 12 4)).cfg = (queue s g (fld w 12 4)).cfg ∧ (∀ e, ote t g e = ote s g e) ∧ (core t g).state = (core s g).state
      ∧ (strm t g st).flags = (strm s g st).flags ∧ (strm t g st).outst = (strm s g st).outst
      ∧ ∀ x, c = .signal g st ∨ c = .signalResume g st ∨ x ≠ fld w 8 4 → sreg (strm t g st).sregs x = sreg (strm s g st).sregs x

/-- The frame of LOADW, MVM and FLIP at issue, when they do not fault: of the core only the stream, the engine the instruction names and
sampling's counts change; of that engine only its queue of operations; no memory changes before the operation runs. -/
def Obligations.OpticIssueFrame : Prop :=
  ∀ (c : Instr) (o e : Nat) (s t : State) (g : Core) (st : Str) (w : IWord),
    ((c = .loadw g st ∧ o = 0x30 ∧ e = fld w 12 2) ∨ (c = .mvm g st ∧ o = 0x31 ∧ e = fld w 72 2) ∨ (c = .flip g st ∧ o = 0x32 ∧ e = fld w 8 2))
    → Issues s g st o w → exec c s = .next t → (strm t g st).state = .running
    → OnlyParts [.cores, .tally] s t ∧ OnlyCore g s t ∧ (∀ x, x ≠ st.val → strm t g x = strm s g x) ∧ (∀ q, queue t g q = queue s g q)
      ∧ (∀ x, x ≠ e → ote t g x = ote s g x) ∧ (core t g).state = (core s g).state ∧ (core t g).fault = (core s g).fault
      ∧ { ote t g e with queue := [] } = { ote s g e with queue := [] }

/-- The frame of a vector instruction, or of a GET or PUT whose rows lie in this module, that is accepted: nothing changes outside the core's
stream and the counts of counters and sampling; no memory before it completes, no register at all. -/
def Obligations.LongIssueFrame : Prop :=
  ∀ (c : Instr) (o : Nat) (s t : State) (g : Core) (st : Str) (w : IWord),
    ((c = .get g st ∧ o = 0x10 ∧ xferPieces s (whoStream s (core s g).ctx s.hst.edition) g (getXfer (strm s g st).sregs w) false = [])
      ∨ (c = .put g st ∧ o = 0x20 ∧ xferPieces s (whoStream s (core s g).ctx s.hst.edition) g (putXfer (strm s g st).sregs w) true = [])
      ∨ (c = .vew g st ∧ o = 0x40) ∨ (c = .vfma g st ∧ o = 0x41) ∨ (c = .vun g st ∧ o = 0x42)
      ∨ (c = .vred g st ∧ o = 0x43) ∨ (c = .vcvt g st ∧ o = 0x44) ∨ (c = .vmm g st ∧ o = 0x45))
    → Issues s g st o w → exec c s = .next t → (strm t g st).state = .running
    → OnlyParts [.cores, .tally] s t ∧ OnlyStream g st s t ∧ (strm t g st).flags = (strm s g st).flags
      ∧ ∀ x, sreg (strm t g st).sregs x = sreg (strm s g st).sregs x

/-- What the end of a GET or PUT leaves alone, whether it completes or fails, its source readable: every byte of the module's own memory
outside the rows that it stores, each row at the address that `xferPairs` computes for it, and outside guard regions that wait to be
zeroed. -/
def Obligations.TransferMemoryFrame : Prop :=
  ∀ (c : Instr) (s t : State) (g : Core) (i len : Nat) (op : LongOp) (ps : List (Nat × Nat)),
    (c = .getComplete g i .clean ∧ outstAt s g 0 i 0x10 = some op ∧ len = (getXfer op.sregs op.word).len
        ∧ ps = xferPairs s (whoStream s op.ctx op.edition) g (getXfer op.sregs op.word) false
      ∨ c = .putComplete g i .clean ∧ outstAt s g 3 i 0x20 = some op ∧ len = (putXfer op.sregs op.word).len
        ∧ ps = xferPairs s (whoStream s op.ctx op.edition) g (putXfer op.sregs op.word) true)
    → exec c s = .next t → (ps.findSome? fun p => badByte (ddrReady ps len s) p.1 len) = none
    → ∀ a, a < 2 ^ 64 → (∀ p ∈ ps, a < p.2 ∨ p.2 + len ≤ a) → (∀ z ∈ s.ddr.zeroing, a < z.2.1 ∨ z.2.1 + z.2.2 ≤ a)
    → t.mem.read a = s.mem.read a

/-! ### Faults at issue, held writes, encodings of results -/

/-- Operands that an instruction refuses fault its stream at issue, with the cause and the bit position or value that R127 names: an ALU or
BR function and an RDSYS selector without a meaning, a GET or PUT of no bytes, a token asked for where none can go, an RSIGNAL to a core
the context has not. The destination register and memory stay as they were. -/
def Obligations.OperandFaults : Prop :=
  ∀ (s : State) (g : Core) (st : Str) (w : IWord),
    (Issues s g st 7 w → 10 ≤ fld w 20 4 → Does (.alu g st) s fun t => Faulted t g st 4 20 7 (strm s g st).pc ∧ (strm t g st).sregs = (strm s g st).sregs)
    ∧ (Issues s g st 8 w → 7 ≤ fld w 20 4 → Does (.br g st) s fun t => Faulted t g st 4 20 8 (strm s g st).pc)
    ∧ (Issues s g st 9 w → 7 ≤ fld w 16 8 → Does (.rdsys g st) s fun t => Faulted t g st 4 16 9 (strm s g st).pc ∧ (strm t g st).sregs = (strm s g st).sregs)
    ∧ (Issues s g st 0x10 w → fld w 16 24 = 0 → Does (.get g st) s fun t => Faulted t g st 4 16 0x10 (strm s g st).pc ∧ OnlyParts faultParts s t)
    ∧ (Issues s g st 0x20 w → fld w 16 24 = 0 → Does (.put g st) s fun t => Faulted t g st 4 16 0x20 (strm s g st).pc ∧ OnlyParts faultParts s t)
    ∧ (Issues s g st 0x20 w → fld w 16 24 ≠ 0 → bit w 112 = true → tokenDest s (core s g).ctx (putXfer (strm s g st).sregs w).da = false
      → Does (.put g st) s fun t => Faulted t g st 4 112 0x20 (strm s g st).pc ∧ OnlyParts faultParts s t)
    ∧ (Issues s g st 4 w → (ctx s (core s g).ctx).map.length ≤ fld w 24 8
      → Does (.rsignal g st) s fun t => Faulted t g st 9 0 4 (strm s g st).pc ∧ t.transit = s.transit)

/-- A write to a register whose block is held in reset is discarded: a row that is such a write, and a write that arrives at BAR0, leave
everything but the logbook, its rate limits and the counters as it was (R201). -/
def Obligations.HeldWrites : Prop :=
  (∀ (c : Instr) (s : State) (off : Nat) (v : Word), WriteRow c s off v → blockHeld s off = true → exec c s = .next (heldWrite off v s))
  ∧ (∀ (s : State) (off : Nat) (v : DWord), BarOpen s → refusal s off 1 0xF = 0 → blockHeld s off = true
    → Does (.registerWrite off 1 0xF v) s fun t => OnlyParts [.tally, .log] s t)
  ∧ ∀ (s : State) (off : Nat) (v : Word), OnlyParts [.tally, .log] s (heldWrite off v s)

/-- A write to the one MW register, ID_TEST_MW, changes exactly the bits of [15:0] whose mask bit in [31:16] is 1 (R207): a mask of 0
changes nothing and is not logged. -/
def Obligations.MaskedWrite : Prop :=
  ∀ (s : State) (v : DWord), BarOpen s → refusal s 0x10204 1 0xF = 0 → blockHeld s 0x10204 = false
    → Does (.registerWrite 0x10204 1 0xF v) s fun t => OnlyParts [.idb, .tally] s t ∧ t.idb = { s.idb with testMw := t.idb.testMw }
        ∧ ∀ i, i < 16 → bit t.idb.testMw i = if bit v (16 + i) then bit v i else bit s.idb.testMw i

/-- The estimate code of a result (R82): the least code whose value is ρ or more, and 0x3FF where none is. In units of 2⁻²¹ FS code c is worth
c below 64 and (64 + c mod 64) × 2^(c/64 − 1) from there. -/
def Obligations.EstimateCode : Prop :=
  ∀ rho2 : Rat, estCode rho2 ≤ 0x3FF
    ∧ (estCode rho2 < 0x3FF → rho2 * 2 ^ 42 ≤ (estUnits (estCode rho2) : Rat) ^ 2)
    ∧ ∀ c, c < estCode rho2 → (estUnits c : Rat) ^ 2 < rho2 * 2 ^ 42
end

