-- ==== Sys2Proof/Laws/State.lean ====
section
/-! SUPPORT. What each update of State leaves as it was: one lemma per field per update, true by unfolding, so that no proof unfolds a
record update; and what reading back after a write gives. -/

namespace Sys2Proof.Machine

/-! ### setCore -/

@[simp] theorem setCore_now (g : Nat) (k : CoreSt) (s : State) : (setCore g k s).now = s.now := rfl
@[simp] theorem setCore_freeCtr (g : Nat) (k : CoreSt) (s : State) : (setCore g k s).freeCtr = s.freeCtr := rfl
@[simp] theorem setCore_mem (g : Nat) (k : CoreSt) (s : State) : (setCore g k s).mem = s.mem := rfl
@[simp] theorem setCore_clus (g : Nat) (k : CoreSt) (s : State) : (setCore g k s).clus = s.clus := rfl
@[simp] theorem setCore_ctxs (g : Nat) (k : CoreSt) (s : State) : (setCore g k s).ctxs = s.ctxs := rfl
@[simp] theorem setCore_transit (g : Nat) (k : CoreSt) (s : State) : (setCore g k s).transit = s.transit := rfl
@[simp] theorem setCore_ddr (g : Nat) (k : CoreSt) (s : State) : (setCore g k s).ddr = s.ddr := rfl
@[simp] theorem setCore_hst (g : Nat) (k : CoreSt) (s : State) : (setCore g k s).hst = s.hst := rfl
@[simp] theorem setCore_idb (g : Nat) (k : CoreSt) (s : State) : (setCore g k s).idb = s.idb := rfl
@[simp] theorem setCore_rst (g : Nat) (k : CoreSt) (s : State) : (setCore g k s).rst = s.rst := rfl
@[simp] theorem setCore_tally (g : Nat) (k : CoreSt) (s : State) : (setCore g k s).tally = s.tally := rfl
@[simp] theorem setCore_log (g : Nat) (k : CoreSt) (s : State) : (setCore g k s).log = s.log := rfl
@[simp] theorem setCore_fab (g : Nat) (k : CoreSt) (s : State) : (setCore g k s).fab = s.fab := rfl
@[simp] theorem setCore_link (g : Nat) (k : CoreSt) (s : State) : (setCore g k s).link = s.link := rfl
@[simp] theorem setCore_steer (g : Nat) (k : CoreSt) (s : State) : (setCore g k s).steer = s.steer := rfl
@[simp] theorem setCore_stew (g : Nat) (k : CoreSt) (s : State) : (setCore g k s).stew = s.stew := rfl
@[simp] theorem setCore_ckpt (g : Nat) (k : CoreSt) (s : State) : (setCore g k s).ckpt = s.ckpt := rfl
@[simp] theorem setCore_time (g : Nat) (k : CoreSt) (s : State) : (setCore g k s).time = s.time := rfl
@[simp] theorem setCore_boot (g : Nat) (k : CoreSt) (s : State) : (setCore g k s).boot = s.boot := rfl
@[simp] theorem setCore_pwr (g : Nat) (k : CoreSt) (s : State) : (setCore g k s).pwr = s.pwr := rfl
@[simp] theorem setCore_upd (g : Nat) (k : CoreSt) (s : State) : (setCore g k s).upd = s.upd := rfl
@[simp] theorem setCore_pins (g : Nat) (k : CoreSt) (s : State) : (setCore g k s).pins = s.pins := rfl
@[simp] theorem setCore_eth (g : Nat) (k : CoreSt) (s : State) : (setCore g k s).eth = s.eth := rfl
@[simp] theorem setCore_side (g : Nat) (k : CoreSt) (s : State) : (setCore g k s).side = s.side := rfl
@[simp] theorem setCore_sent (g : Nat) (k : CoreSt) (s : State) : (setCore g k s).sent = s.sent := rfl
@[simp] theorem setCore_pending (g : Nat) (k : CoreSt) (s : State) : (setCore g k s).pending = s.pending := rfl

/-! ### setClu -/

@[simp] theorem setClu_now (c : Nat) (k : CluSt) (s : State) : (setClu c k s).now = s.now := rfl
@[simp] theorem setClu_freeCtr (c : Nat) (k : CluSt) (s : State) : (setClu c k s).freeCtr = s.freeCtr := rfl
@[simp] theorem setClu_mem (c : Nat) (k : CluSt) (s : State) : (setClu c k s).mem = s.mem := rfl
@[simp] theorem setClu_cores (c : Nat) (k : CluSt) (s : State) : (setClu c k s).cores = s.cores := rfl
@[simp] theorem setClu_ctxs (c : Nat) (k : CluSt) (s : State) : (setClu c k s).ctxs = s.ctxs := rfl
@[simp] theorem setClu_transit (c : Nat) (k : CluSt) (s : State) : (setClu c k s).transit = s.transit := rfl
@[simp] theorem setClu_ddr (c : Nat) (k : CluSt) (s : State) : (setClu c k s).ddr = s.ddr := rfl
@[simp] theorem setClu_hst (c : Nat) (k : CluSt) (s : State) : (setClu c k s).hst = s.hst := rfl
@[simp] theorem setClu_idb (c : Nat) (k : CluSt) (s : State) : (setClu c k s).idb = s.idb := rfl
@[simp] theorem setClu_rst (c : Nat) (k : CluSt) (s : State) : (setClu c k s).rst = s.rst := rfl
@[simp] theorem setClu_tally (c : Nat) (k : CluSt) (s : State) : (setClu c k s).tally = s.tally := rfl
@[simp] theorem setClu_log (c : Nat) (k : CluSt) (s : State) : (setClu c k s).log = s.log := rfl
@[simp] theorem setClu_fab (c : Nat) (k : CluSt) (s : State) : (setClu c k s).fab = s.fab := rfl
@[simp] theorem setClu_link (c : Nat) (k : CluSt) (s : State) : (setClu c k s).link = s.link := rfl
@[simp] theorem setClu_steer (c : Nat) (k : CluSt) (s : State) : (setClu c k s).steer = s.steer := rfl
@[simp] theorem setClu_stew (c : Nat) (k : CluSt) (s : State) : (setClu c k s).stew = s.stew := rfl
@[simp] theorem setClu_ckpt (c : Nat) (k : CluSt) (s : State) : (setClu c k s).ckpt = s.ckpt := rfl
@[simp] theorem setClu_time (c : Nat) (k : CluSt) (s : State) : (setClu c k s).time = s.time := rfl
@[simp] theorem setClu_boot (c : Nat) (k : CluSt) (s : State) : (setClu c k s).boot = s.boot := rfl
@[simp] theorem setClu_pwr (c : Nat) (k : CluSt) (s : State) : (setClu c k s).pwr = s.pwr := rfl
@[simp] theorem setClu_upd (c : Nat) (k : CluSt) (s : State) : (setClu c k s).upd = s.upd := rfl
@[simp] theorem setClu_pins (c : Nat) (k : CluSt) (s : State) : (setClu c k s).pins = s.pins := rfl
@[simp] theorem setClu_eth (c : Nat) (k : CluSt) (s : State) : (setClu c k s).eth = s.eth := rfl
@[simp] theorem setClu_side (c : Nat) (k : CluSt) (s : State) : (setClu c k s).side = s.side := rfl
@[simp] theorem setClu_sent (c : Nat) (k : CluSt) (s : State) : (setClu c k s).sent = s.sent := rfl
@[simp] theorem setClu_pending (c : Nat) (k : CluSt) (s : State) : (setClu c k s).pending = s.pending := rfl

/-! ### setCtx -/

@[simp] theorem setCtx_now (c : Nat) (k : CtxSt) (s : State) : (setCtx c k s).now = s.now := rfl
@[simp] theorem setCtx_freeCtr (c : Nat) (k : CtxSt) (s : State) : (setCtx c k s).freeCtr = s.freeCtr := rfl
@[simp] theorem setCtx_mem (c : Nat) (k : CtxSt) (s : State) : (setCtx c k s).mem = s.mem := rfl
@[simp] theorem setCtx_cores (c : Nat) (k : CtxSt) (s : State) : (setCtx c k s).cores = s.cores := rfl
@[simp] theorem setCtx_clus (c : Nat) (k : CtxSt) (s : State) : (setCtx c k s).clus = s.clus := rfl
@[simp] theorem setCtx_transit (c : Nat) (k : CtxSt) (s : State) : (setCtx c k s).transit = s.transit := rfl
@[simp] theorem setCtx_ddr (c : Nat) (k : CtxSt) (s : State) : (setCtx c k s).ddr = s.ddr := rfl
@[simp] theorem setCtx_hst (c : Nat) (k : CtxSt) (s : State) : (setCtx c k s).hst = s.hst := rfl
@[simp] theorem setCtx_idb (c : Nat) (k : CtxSt) (s : State) : (setCtx c k s).idb = s.idb := rfl
@[simp] theorem setCtx_rst (c : Nat) (k : CtxSt) (s : State) : (setCtx c k s).rst = s.rst := rfl
@[simp] theorem setCtx_tally (c : Nat) (k : CtxSt) (s : State) : (setCtx c k s).tally = s.tally := rfl
@[simp] theorem setCtx_log (c : Nat) (k : CtxSt) (s : State) : (setCtx c k s).log = s.log := rfl
@[simp] theorem setCtx_fab (c : Nat) (k : CtxSt) (s : State) : (setCtx c k s).fab = s.fab := rfl
@[simp] theorem setCtx_link (c : Nat) (k : CtxSt) (s : State) : (setCtx c k s).link = s.link := rfl
@[simp] theorem setCtx_steer (c : Nat) (k : CtxSt) (s : State) : (setCtx c k s).steer = s.steer := rfl
@[simp] theorem setCtx_stew (c : Nat) (k : CtxSt) (s : State) : (setCtx c k s).stew = s.stew := rfl
@[simp] theorem setCtx_ckpt (c : Nat) (k : CtxSt) (s : State) : (setCtx c k s).ckpt = s.ckpt := rfl
@[simp] theorem setCtx_time (c : Nat) (k : CtxSt) (s : State) : (setCtx c k s).time = s.time := rfl
@[simp] theorem setCtx_boot (c : Nat) (k : CtxSt) (s : State) : (setCtx c k s).boot = s.boot := rfl
@[simp] theorem setCtx_pwr (c : Nat) (k : CtxSt) (s : State) : (setCtx c k s).pwr = s.pwr := rfl
@[simp] theorem setCtx_upd (c : Nat) (k : CtxSt) (s : State) : (setCtx c k s).upd = s.upd := rfl
@[simp] theorem setCtx_pins (c : Nat) (k : CtxSt) (s : State) : (setCtx c k s).pins = s.pins := rfl
@[simp] theorem setCtx_eth (c : Nat) (k : CtxSt) (s : State) : (setCtx c k s).eth = s.eth := rfl
@[simp] theorem setCtx_side (c : Nat) (k : CtxSt) (s : State) : (setCtx c k s).side = s.side := rfl
@[simp] theorem setCtx_sent (c : Nat) (k : CtxSt) (s : State) : (setCtx c k s).sent = s.sent := rfl
@[simp] theorem setCtx_pending (c : Nat) (k : CtxSt) (s : State) : (setCtx c k s).pending = s.pending := rfl

/-! ### setRing -/

@[simp] theorem setRing_now (r : Nat) (k : RingSt) (s : State) : (setRing r k s).now = s.now := rfl
@[simp] theorem setRing_freeCtr (r : Nat) (k : RingSt) (s : State) : (setRing r k s).freeCtr = s.freeCtr := rfl
@[simp] theorem setRing_mem (r : Nat) (k : RingSt) (s : State) : (setRing r k s).mem = s.mem := rfl
@[simp] theorem setRing_cores (r : Nat) (k : RingSt) (s : State) : (setRing r k s).cores = s.cores := rfl
@[simp] theorem setRing_clus (r : Nat) (k : RingSt) (s : State) : (setRing r k s).clus = s.clus := rfl
@[simp] theorem setRing_ctxs (r : Nat) (k : RingSt) (s : State) : (setRing r k s).ctxs = s.ctxs := rfl
@[simp] theorem setRing_transit (r : Nat) (k : RingSt) (s : State) : (setRing r k s).transit = s.transit := rfl
@[simp] theorem setRing_ddr (r : Nat) (k : RingSt) (s : State) : (setRing r k s).ddr = s.ddr := rfl
@[simp] theorem setRing_idb (r : Nat) (k : RingSt) (s : State) : (setRing r k s).idb = s.idb := rfl
@[simp] theorem setRing_rst (r : Nat) (k : RingSt) (s : State) : (setRing r k s).rst = s.rst := rfl
@[simp] theorem setRing_tally (r : Nat) (k : RingSt) (s : State) : (setRing r k s).tally = s.tally := rfl
@[simp] theorem setRing_log (r : Nat) (k : RingSt) (s : State) : (setRing r k s).log = s.log := rfl
@[simp] theorem setRing_fab (r : Nat) (k : RingSt) (s : State) : (setRing r k s).fab = s.fab := rfl
@[simp] theorem setRing_link (r : Nat) (k : RingSt) (s : State) : (setRing r k s).link = s.link := rfl
@[simp] theorem setRing_steer (r : Nat) (k : RingSt) (s : State) : (setRing r k s).steer = s.steer := rfl
@[simp] theorem setRing_stew (r : Nat) (k : RingSt) (s : State) : (setRing r k s).stew = s.stew := rfl
@[simp] theorem setRing_ckpt (r : Nat) (k : RingSt) (s : State) : (setRing r k s).ckpt = s.ckpt := rfl
@[simp] theorem setRing_time (r : Nat) (k : RingSt) (s : State) : (setRing r k s).time = s.time := rfl
@[simp] theorem setRing_boot (r : Nat) (k : RingSt) (s : State) : (setRing r k s).boot = s.boot := rfl
@[simp] theorem setRing_pwr (r : Nat) (k : RingSt) (s : State) : (setRing r k s).pwr = s.pwr := rfl
@[simp] theorem setRing_upd (r : Nat) (k : RingSt) (s : State) : (setRing r k s).upd = s.upd := rfl
@[simp] theorem setRing_pins (r : Nat) (k : RingSt) (s : State) : (setRing r k s).pins = s.pins := rfl
@[simp] theorem setRing_eth (r : Nat) (k : RingSt) (s : State) : (setRing r k s).eth = s.eth := rfl
@[simp] theorem setRing_side (r : Nat) (k : RingSt) (s : State) : (setRing r k s).side = s.side := rfl
@[simp] theorem setRing_sent (r : Nat) (k : RingSt) (s : State) : (setRing r k s).sent = s.sent := rfl
@[simp] theorem setRing_pending (r : Nat) (k : RingSt) (s : State) : (setRing r k s).pending = s.pending := rfl

/-! ### setChan -/

@[simp] theorem setChan_now (n : Nat) (k : DdrChan) (s : State) : (setChan n k s).now = s.now := rfl
@[simp] theorem setChan_freeCtr (n : Nat) (k : DdrChan) (s : State) : (setChan n k s).freeCtr = s.freeCtr := rfl
@[simp] theorem setChan_mem (n : Nat) (k : DdrChan) (s : State) : (setChan n k s).mem = s.mem := rfl
@[simp] theorem setChan_cores (n : Nat) (k : DdrChan) (s : State) : (setChan n k s).cores = s.cores := rfl
@[simp] theorem setChan_clus (n : Nat) (k : DdrChan) (s : State) : (setChan n k s).clus = s.clus := rfl
@[simp] theorem setChan_ctxs (n : Nat) (k : DdrChan) (s : State) : (setChan n k s).ctxs = s.ctxs := rfl
@[simp] theorem setChan_transit (n : Nat) (k : DdrChan) (s : State) : (setChan n k s).transit = s.transit := rfl
@[simp] theorem setChan_hst (n : Nat) (k : DdrChan) (s : State) : (setChan n k s).hst = s.hst := rfl
@[simp] theorem setChan_idb (n : Nat) (k : DdrChan) (s : State) : (setChan n k s).idb = s.idb := rfl
@[simp] theorem setChan_rst (n : Nat) (k : DdrChan) (s : State) : (setChan n k s).rst = s.rst := rfl
@[simp] theorem setChan_tally (n : Nat) (k : DdrChan) (s : State) : (setChan n k s).tally = s.tally := rfl
@[simp] theorem setChan_log (n : Nat) (k : DdrChan) (s : State) : (setChan n k s).log = s.log := rfl
@[simp] theorem setChan_fab (n : Nat) (k : DdrChan) (s : State) : (setChan n k s).fab = s.fab := rfl
@[simp] theorem setChan_link (n : Nat) (k : DdrChan) (s : State) : (setChan n k s).link = s.link := rfl
@[simp] theorem setChan_steer (n : Nat) (k : DdrChan) (s : State) : (setChan n k s).steer = s.steer := rfl
@[simp] theorem setChan_stew (n : Nat) (k : DdrChan) (s : State) : (setChan n k s).stew = s.stew := rfl
@[simp] theorem setChan_ckpt (n : Nat) (k : DdrChan) (s : State) : (setChan n k s).ckpt = s.ckpt := rfl
@[simp] theorem setChan_time (n : Nat) (k : DdrChan) (s : State) : (setChan n k s).time = s.time := rfl
@[simp] theorem setChan_boot (n : Nat) (k : DdrChan) (s : State) : (setChan n k s).boot = s.boot := rfl
@[simp] theorem setChan_pwr (n : Nat) (k : DdrChan) (s : State) : (setChan n k s).pwr = s.pwr := rfl
@[simp] theorem setChan_upd (n : Nat) (k : DdrChan) (s : State) : (setChan n k s).upd = s.upd := rfl
@[simp] theorem setChan_pins (n : Nat) (k : DdrChan) (s : State) : (setChan n k s).pins = s.pins := rfl
@[simp] theorem setChan_eth (n : Nat) (k : DdrChan) (s : State) : (setChan n k s).eth = s.eth := rfl
@[simp] theorem setChan_side (n : Nat) (k : DdrChan) (s : State) : (setChan n k s).side = s.side := rfl
@[simp] theorem setChan_sent (n : Nat) (k : DdrChan) (s : State) : (setChan n k s).sent = s.sent := rfl
@[simp] theorem setChan_pending (n : Nat) (k : DdrChan) (s : State) : (setChan n k s).pending = s.pending := rfl

/-! ### setFab -/

@[simp] theorem setFab_now (p : Nat) (k : FabSt) (s : State) : (setFab p k s).now = s.now := rfl
@[simp] theorem setFab_freeCtr (p : Nat) (k : FabSt) (s : State) : (setFab p k s).freeCtr = s.freeCtr := rfl
@[simp] theorem setFab_mem (p : Nat) (k : FabSt) (s : State) : (setFab p k s).mem = s.mem := rfl
@[simp] theorem setFab_cores (p : Nat) (k : FabSt) (s : State) : (setFab p k s).cores = s.cores := rfl
@[simp] theorem setFab_clus (p : Nat) (k : FabSt) (s : State) : (setFab p k s).clus = s.clus := rfl
@[simp] theorem setFab_ctxs (p : Nat) (k : FabSt) (s : State) : (setFab p k s).ctxs = s.ctxs := rfl
@[simp] theorem setFab_transit (p : Nat) (k : FabSt) (s : State) : (setFab p k s).transit = s.transit := rfl
@[simp] theorem setFab_ddr (p : Nat) (k : FabSt) (s : State) : (setFab p k s).ddr = s.ddr := rfl
@[simp] theorem setFab_hst (p : Nat) (k : FabSt) (s : State) : (setFab p k s).hst = s.hst := rfl
@[simp] theorem setFab_idb (p : Nat) (k : FabSt) (s : State) : (setFab p k s).idb = s.idb := rfl
@[simp] theorem setFab_rst (p : Nat) (k : FabSt) (s : State) : (setFab p k s).rst = s.rst := rfl
@[simp] theorem setFab_tally (p : Nat) (k : FabSt) (s : State) : (setFab p k s).tally = s.tally := rfl
@[simp] theorem setFab_log (p : Nat) (k : FabSt) (s : State) : (setFab p k s).log = s.log := rfl
@[simp] theorem setFab_link (p : Nat) (k : FabSt) (s : State) : (setFab p k s).link = s.link := rfl
@[simp] theorem setFab_steer (p : Nat) (k : FabSt) (s : State) : (setFab p k s).steer = s.steer := rfl
@[simp] theorem setFab_stew (p : Nat) (k : FabSt) (s : State) : (setFab p k s).stew = s.stew := rfl
@[simp] theorem setFab_ckpt (p : Nat) (k : FabSt) (s : State) : (setFab p k s).ckpt = s.ckpt := rfl
@[simp] theorem setFab_time (p : Nat) (k : FabSt) (s : State) : (setFab p k s).time = s.time := rfl
@[simp] theorem setFab_boot (p : Nat) (k : FabSt) (s : State) : (setFab p k s).boot = s.boot := rfl
@[simp] theorem setFab_pwr (p : Nat) (k : FabSt) (s : State) : (setFab p k s).pwr = s.pwr := rfl
@[simp] theorem setFab_upd (p : Nat) (k : FabSt) (s : State) : (setFab p k s).upd = s.upd := rfl
@[simp] theorem setFab_pins (p : Nat) (k : FabSt) (s : State) : (setFab p k s).pins = s.pins := rfl
@[simp] theorem setFab_eth (p : Nat) (k : FabSt) (s : State) : (setFab p k s).eth = s.eth := rfl
@[simp] theorem setFab_side (p : Nat) (k : FabSt) (s : State) : (setFab p k s).side = s.side := rfl
@[simp] theorem setFab_sent (p : Nat) (k : FabSt) (s : State) : (setFab p k s).sent = s.sent := rfl
@[simp] theorem setFab_pending (p : Nat) (k : FabSt) (s : State) : (setFab p k s).pending = s.pending := rfl

/-! ### writeMem -/

@[simp] theorem writeMem_now (a : Nat) (bs : List Byte) (s : State) : (writeMem a bs s).now = s.now := rfl
@[simp] theorem writeMem_freeCtr (a : Nat) (bs : List Byte) (s : State) : (writeMem a bs s).freeCtr = s.freeCtr := rfl
@[simp] theorem writeMem_cores (a : Nat) (bs : List Byte) (s : State) : (writeMem a bs s).cores = s.cores := rfl
@[simp] theorem writeMem_clus (a : Nat) (bs : List Byte) (s : State) : (writeMem a bs s).clus = s.clus := rfl
@[simp] theorem writeMem_ctxs (a : Nat) (bs : List Byte) (s : State) : (writeMem a bs s).ctxs = s.ctxs := rfl
@[simp] theorem writeMem_transit (a : Nat) (bs : List Byte) (s : State) : (writeMem a bs s).transit = s.transit := rfl
@[simp] theorem writeMem_ddr (a : Nat) (bs : List Byte) (s : State) : (writeMem a bs s).ddr = s.ddr := rfl
@[simp] theorem writeMem_hst (a : Nat) (bs : List Byte) (s : State) : (writeMem a bs s).hst = s.hst := rfl
@[simp] theorem writeMem_idb (a : Nat) (bs : List Byte) (s : State) : (writeMem a bs s).idb = s.idb := rfl
@[simp] theorem writeMem_rst (a : Nat) (bs : List Byte) (s : State) : (writeMem a bs s).rst = s.rst := rfl
@[simp] theorem writeMem_tally (a : Nat) (bs : List Byte) (s : State) : (writeMem a bs s).tally = s.tally := rfl
@[simp] theorem writeMem_log (a : Nat) (bs : List Byte) (s : State) : (writeMem a bs s).log = s.log := rfl
@[simp] theorem writeMem_fab (a : Nat) (bs : List Byte) (s : State) : (writeMem a bs s).fab = s.fab := rfl
@[simp] theorem writeMem_link (a : Nat) (bs : List Byte) (s : State) : (writeMem a bs s).link = s.link := rfl
@[simp] theorem writeMem_steer (a : Nat) (bs : List Byte) (s : State) : (writeMem a bs s).steer = s.steer := rfl
@[simp] theorem writeMem_stew (a : Nat) (bs : List Byte) (s : State) : (writeMem a bs s).stew = s.stew := rfl
@[simp] theorem writeMem_ckpt (a : Nat) (bs : List Byte) (s : State) : (writeMem a bs s).ckpt = s.ckpt := rfl
@[simp] theorem writeMem_time (a : Nat) (bs : List Byte) (s : State) : (writeMem a bs s).time = s.time := rfl
@[simp] theorem writeMem_boot (a : Nat) (bs : List Byte) (s : State) : (writeMem a bs s).boot = s.boot := rfl
@[simp] theorem writeMem_pwr (a : Nat) (bs : List Byte) (s : State) : (writeMem a bs s).pwr = s.pwr := rfl
@[simp] theorem writeMem_upd (a : Nat) (bs : List Byte) (s : State) : (writeMem a bs s).upd = s.upd := rfl
@[simp] theorem writeMem_pins (a : Nat) (bs : List Byte) (s : State) : (writeMem a bs s).pins = s.pins := rfl
@[simp] theorem writeMem_eth (a : Nat) (bs : List Byte) (s : State) : (writeMem a bs s).eth = s.eth := rfl
@[simp] theorem writeMem_side (a : Nat) (bs : List Byte) (s : State) : (writeMem a bs s).side = s.side := rfl
@[simp] theorem writeMem_sent (a : Nat) (bs : List Byte) (s : State) : (writeMem a bs s).sent = s.sent := rfl
@[simp] theorem writeMem_pending (a : Nat) (bs : List Byte) (s : State) : (writeMem a bs s).pending = s.pending := rfl

/-! ### send -/

@[simp] theorem send_now (ch : Chan_) (kind : Nat) (args : List Nat) (s : State) : (send ch kind args s).now = s.now := rfl
@[simp] theorem send_freeCtr (ch : Chan_) (kind : Nat) (args : List Nat) (s : State) : (send ch kind args s).freeCtr = s.freeCtr := rfl
@[simp] theorem send_mem (ch : Chan_) (kind : Nat) (args : List Nat) (s : State) : (send ch kind args s).mem = s.mem := rfl
@[simp] theorem send_cores (ch : Chan_) (kind : Nat) (args : List Nat) (s : State) : (send ch kind args s).cores = s.cores := rfl
@[simp] theorem send_clus (ch : Chan_) (kind : Nat) (args : List Nat) (s : State) : (send ch kind args s).clus = s.clus := rfl
@[simp] theorem send_ctxs (ch : Chan_) (kind : Nat) (args : List Nat) (s : State) : (send ch kind args s).ctxs = s.ctxs := rfl
@[simp] theorem send_transit (ch : Chan_) (kind : Nat) (args : List Nat) (s : State) : (send ch kind args s).transit = s.transit := rfl
@[simp] theorem send_ddr (ch : Chan_) (kind : Nat) (args : List Nat) (s : State) : (send ch kind args s).ddr = s.ddr := rfl
@[simp] theorem send_hst (ch : Chan_) (kind : Nat) (args : List Nat) (s : State) : (send ch kind args s).hst = s.hst := rfl
@[simp] theorem send_idb (ch : Chan_) (kind : Nat) (args : List Nat) (s : State) : (send ch kind args s).idb = s.idb := rfl
@[simp] theorem send_rst (ch : Chan_) (kind : Nat) (args : List Nat) (s : State) : (send ch kind args s).rst = s.rst := rfl
@[simp] theorem send_tally (ch : Chan_) (kind : Nat) (args : List Nat) (s : State) : (send ch kind args s).tally = s.tally := rfl
@[simp] theorem send_log (ch : Chan_) (kind : Nat) (args : List Nat) (s : State) : (send ch kind args s).log = s.log := rfl
@[simp] theorem send_fab (ch : Chan_) (kind : Nat) (args : List Nat) (s : State) : (send ch kind args s).fab = s.fab := rfl
@[simp] theorem send_link (ch : Chan_) (kind : Nat) (args : List Nat) (s : State) : (send ch kind args s).link = s.link := rfl
@[simp] theorem send_steer (ch : Chan_) (kind : Nat) (args : List Nat) (s : State) : (send ch kind args s).steer = s.steer := rfl
@[simp] theorem send_stew (ch : Chan_) (kind : Nat) (args : List Nat) (s : State) : (send ch kind args s).stew = s.stew := rfl
@[simp] theorem send_ckpt (ch : Chan_) (kind : Nat) (args : List Nat) (s : State) : (send ch kind args s).ckpt = s.ckpt := rfl
@[simp] theorem send_time (ch : Chan_) (kind : Nat) (args : List Nat) (s : State) : (send ch kind args s).time = s.time := rfl
@[simp] theorem send_boot (ch : Chan_) (kind : Nat) (args : List Nat) (s : State) : (send ch kind args s).boot = s.boot := rfl
@[simp] theorem send_pwr (ch : Chan_) (kind : Nat) (args : List Nat) (s : State) : (send ch kind args s).pwr = s.pwr := rfl
@[simp] theorem send_upd (ch : Chan_) (kind : Nat) (args : List Nat) (s : State) : (send ch kind args s).upd = s.upd := rfl
@[simp] theorem send_pins (ch : Chan_) (kind : Nat) (args : List Nat) (s : State) : (send ch kind args s).pins = s.pins := rfl
@[simp] theorem send_eth (ch : Chan_) (kind : Nat) (args : List Nat) (s : State) : (send ch kind args s).eth = s.eth := rfl
@[simp] theorem send_side (ch : Chan_) (kind : Nat) (args : List Nat) (s : State) : (send ch kind args s).side = s.side := rfl
@[simp] theorem send_pending (ch : Chan_) (kind : Nat) (args : List Nat) (s : State) : (send ch kind args s).pending = s.pending := rfl

/-! ### countAt -/

@[simp] theorem countAt_now (base k ev qual n : Nat) (ranged : Bool) (s : State) : (countAt base k ev qual n ranged s).now = s.now := rfl
@[simp] theorem countAt_freeCtr (base k ev qual n : Nat) (ranged : Bool) (s : State) : (countAt base k ev qual n ranged s).freeCtr = s.freeCtr := rfl
@[simp] theorem countAt_mem (base k ev qual n : Nat) (ranged : Bool) (s : State) : (countAt base k ev qual n ranged s).mem = s.mem := rfl
@[simp] theorem countAt_cores (base k ev qual n : Nat) (ranged : Bool) (s : State) : (countAt base k ev qual n ranged s).cores = s.cores := rfl
@[simp] theorem countAt_clus (base k ev qual n : Nat) (ranged : Bool) (s : State) : (countAt base k ev qual n ranged s).clus = s.clus := rfl
@[simp] theorem countAt_ctxs (base k ev qual n : Nat) (ranged : Bool) (s : State) : (countAt base k ev qual n ranged s).ctxs = s.ctxs := rfl
@[simp] theorem countAt_transit (base k ev qual n : Nat) (ranged : Bool) (s : State) : (countAt base k ev qual n ranged s).transit = s.transit := rfl
@[simp] theorem countAt_ddr (base k ev qual n : Nat) (ranged : Bool) (s : State) : (countAt base k ev qual n ranged s).ddr = s.ddr := rfl
@[simp] theorem countAt_hst (base k ev qual n : Nat) (ranged : Bool) (s : State) : (countAt base k ev qual n ranged s).hst = s.hst := rfl
@[simp] theorem countAt_idb (base k ev qual n : Nat) (ranged : Bool) (s : State) : (countAt base k ev qual n ranged s).idb = s.idb := rfl
@[simp] theorem countAt_rst (base k ev qual n : Nat) (ranged : Bool) (s : State) : (countAt base k ev qual n ranged s).rst = s.rst := rfl
@[simp] theorem countAt_log (base k ev qual n : Nat) (ranged : Bool) (s : State) : (countAt base k ev qual n ranged s).log = s.log := rfl
@[simp] theorem countAt_fab (base k ev qual n : Nat) (ranged : Bool) (s : State) : (countAt base k ev qual n ranged s).fab = s.fab := rfl
@[simp] theorem countAt_link (base k ev qual n : Nat) (ranged : Bool) (s : State) : (countAt base k ev qual n ranged s).link = s.link := rfl
@[simp] theorem countAt_steer (base k ev qual n : Nat) (ranged : Bool) (s : State) : (countAt base k ev qual n ranged s).steer = s.steer := rfl
@[simp] theorem countAt_stew (base k ev qual n : Nat) (ranged : Bool) (s : State) : (countAt base k ev qual n ranged s).stew = s.stew := rfl
@[simp] theorem countAt_ckpt (base k ev qual n : Nat) (ranged : Bool) (s : State) : (countAt base k ev qual n ranged s).ckpt = s.ckpt := rfl
@[simp] theorem countAt_time (base k ev qual n : Nat) (ranged : Bool) (s : State) : (countAt base k ev qual n ranged s).time = s.time := rfl
@[simp] theorem countAt_boot (base k ev qual n : Nat) (ranged : Bool) (s : State) : (countAt base k ev qual n ranged s).boot = s.boot := rfl
@[simp] theorem countAt_pwr (base k ev qual n : Nat) (ranged : Bool) (s : State) : (countAt base k ev qual n ranged s).pwr = s.pwr := rfl
@[simp] theorem countAt_upd (base k ev qual n : Nat) (ranged : Bool) (s : State) : (countAt base k ev qual n ranged s).upd = s.upd := rfl
@[simp] theorem countAt_pins (base k ev qual n : Nat) (ranged : Bool) (s : State) : (countAt base k ev qual n ranged s).pins = s.pins := rfl
@[simp] theorem countAt_eth (base k ev qual n : Nat) (ranged : Bool) (s : State) : (countAt base k ev qual n ranged s).eth = s.eth := rfl
@[simp] theorem countAt_side (base k ev qual n : Nat) (ranged : Bool) (s : State) : (countAt base k ev qual n ranged s).side = s.side := rfl
@[simp] theorem countAt_sent (base k ev qual n : Nat) (ranged : Bool) (s : State) : (countAt base k ev qual n ranged s).sent = s.sent := rfl
@[simp] theorem countAt_pending (base k ev qual n : Nat) (ranged : Bool) (s : State) : (countAt base k ev qual n ranged s).pending = s.pending := rfl

/-! ### rateMark -/

@[simp] theorem rateMark_now (key : Nat) (s : State) : (rateMark key s).now = s.now := rfl
@[simp] theorem rateMark_freeCtr (key : Nat) (s : State) : (rateMark key s).freeCtr = s.freeCtr := rfl
@[simp] theorem rateMark_mem (key : Nat) (s : State) : (rateMark key s).mem = s.mem := rfl
@[simp] theorem rateMark_cores (key : Nat) (s : State) : (rateMark key s).cores = s.cores := rfl
@[simp] theorem rateMark_clus (key : Nat) (s : State) : (rateMark key s).clus = s.clus := rfl
@[simp] theorem rateMark_ctxs (key : Nat) (s : State) : (rateMark key s).ctxs = s.ctxs := rfl
@[simp] theorem rateMark_transit (key : Nat) (s : State) : (rateMark key s).transit = s.transit := rfl
@[simp] theorem rateMark_ddr (key : Nat) (s : State) : (rateMark key s).ddr = s.ddr := rfl
@[simp] theorem rateMark_hst (key : Nat) (s : State) : (rateMark key s).hst = s.hst := rfl
@[simp] theorem rateMark_idb (key : Nat) (s : State) : (rateMark key s).idb = s.idb := rfl
@[simp] theorem rateMark_rst (key : Nat) (s : State) : (rateMark key s).rst = s.rst := rfl
@[simp] theorem rateMark_tally (key : Nat) (s : State) : (rateMark key s).tally = s.tally := rfl
@[simp] theorem rateMark_fab (key : Nat) (s : State) : (rateMark key s).fab = s.fab := rfl
@[simp] theorem rateMark_link (key : Nat) (s : State) : (rateMark key s).link = s.link := rfl
@[simp] theorem rateMark_steer (key : Nat) (s : State) : (rateMark key s).steer = s.steer := rfl
@[simp] theorem rateMark_stew (key : Nat) (s : State) : (rateMark key s).stew = s.stew := rfl
@[simp] theorem rateMark_ckpt (key : Nat) (s : State) : (rateMark key s).ckpt = s.ckpt := rfl
@[simp] theorem rateMark_time (key : Nat) (s : State) : (rateMark key s).time = s.time := rfl
@[simp] theorem rateMark_boot (key : Nat) (s : State) : (rateMark key s).boot = s.boot := rfl
@[simp] theorem rateMark_pwr (key : Nat) (s : State) : (rateMark key s).pwr = s.pwr := rfl
@[simp] theorem rateMark_upd (key : Nat) (s : State) : (rateMark key s).upd = s.upd := rfl
@[simp] theorem rateMark_pins (key : Nat) (s : State) : (rateMark key s).pins = s.pins := rfl
@[simp] theorem rateMark_eth (key : Nat) (s : State) : (rateMark key s).eth = s.eth := rfl
@[simp] theorem rateMark_side (key : Nat) (s : State) : (rateMark key s).side = s.side := rfl
@[simp] theorem rateMark_sent (key : Nat) (s : State) : (rateMark key s).sent = s.sent := rfl
@[simp] theorem rateMark_pending (key : Nat) (s : State) : (rateMark key s).pending = s.pending := rfl

/-! ### drawFree -/

@[simp] theorem drawFree_now (k : Nat) (s : State) : (drawFree k s).2.now = s.now := rfl
@[simp] theorem drawFree_mem (k : Nat) (s : State) : (drawFree k s).2.mem = s.mem := rfl
@[simp] theorem drawFree_cores (k : Nat) (s : State) : (drawFree k s).2.cores = s.cores := rfl
@[simp] theorem drawFree_clus (k : Nat) (s : State) : (drawFree k s).2.clus = s.clus := rfl
@[simp] theorem drawFree_ctxs (k : Nat) (s : State) : (drawFree k s).2.ctxs = s.ctxs := rfl
@[simp] theorem drawFree_transit (k : Nat) (s : State) : (drawFree k s).2.transit = s.transit := rfl
@[simp] theorem drawFree_ddr (k : Nat) (s : State) : (drawFree k s).2.ddr = s.ddr := rfl
@[simp] theorem drawFree_hst (k : Nat) (s : State) : (drawFree k s).2.hst = s.hst := rfl
@[simp] theorem drawFree_idb (k : Nat) (s : State) : (drawFree k s).2.idb = s.idb := rfl
@[simp] theorem drawFree_rst (k : Nat) (s : State) : (drawFree k s).2.rst = s.rst := rfl
@[simp] theorem drawFree_tally (k : Nat) (s : State) : (drawFree k s).2.tally = s.tally := rfl
@[simp] theorem drawFree_log (k : Nat) (s : State) : (drawFree k s).2.log = s.log := rfl
@[simp] theorem drawFree_fab (k : Nat) (s : State) : (drawFree k s).2.fab = s.fab := rfl
@[simp] theorem drawFree_link (k : Nat) (s : State) : (drawFree k s).2.link = s.link := rfl
@[simp] theorem drawFree_steer (k : Nat) (s : State) : (drawFree k s).2.steer = s.steer := rfl
@[simp] theorem drawFree_stew (k : Nat) (s : State) : (drawFree k s).2.stew = s.stew := rfl
@[simp] theorem drawFree_ckpt (k : Nat) (s : State) : (drawFree k s).2.ckpt = s.ckpt := rfl
@[simp] theorem drawFree_time (k : Nat) (s : State) : (drawFree k s).2.time = s.time := rfl
@[simp] theorem drawFree_boot (k : Nat) (s : State) : (drawFree k s).2.boot = s.boot := rfl
@[simp] theorem drawFree_pwr (k : Nat) (s : State) : (drawFree k s).2.pwr = s.pwr := rfl
@[simp] theorem drawFree_upd (k : Nat) (s : State) : (drawFree k s).2.upd = s.upd := rfl
@[simp] theorem drawFree_pins (k : Nat) (s : State) : (drawFree k s).2.pins = s.pins := rfl
@[simp] theorem drawFree_eth (k : Nat) (s : State) : (drawFree k s).2.eth = s.eth := rfl
@[simp] theorem drawFree_side (k : Nat) (s : State) : (drawFree k s).2.side = s.side := rfl
@[simp] theorem drawFree_sent (k : Nat) (s : State) : (drawFree k s).2.sent = s.sent := rfl
@[simp] theorem drawFree_pending (k : Nat) (s : State) : (drawFree k s).2.pending = s.pending := rfl
@[simp] theorem drawFree_freeCtr (k : Nat) (s : State) : (drawFree k s).2.freeCtr = s.freeCtr + 1 := rfl

/-! ### Updates through a function are the plain ones -/

@[simp] theorem updCore_eq (i : Nat) (f : CoreSt → CoreSt) (s : State) : updCore i f s = setCore i (f (core s i)) s := rfl
@[simp] theorem updClu_eq (i : Nat) (f : CluSt → CluSt) (s : State) : updClu i f s = setClu i (f (clu s i)) s := rfl
@[simp] theorem updCtx_eq (i : Nat) (f : CtxSt → CtxSt) (s : State) : updCtx i f s = setCtx i (f (ctx s i)) s := rfl
@[simp] theorem updRing_eq (i : Nat) (f : RingSt → RingSt) (s : State) : updRing i f s = setRing i (f (ring s i)) s := rfl
@[simp] theorem updChan_eq (i : Nat) (f : DdrChan → DdrChan) (s : State) : updChan i f s = setChan i (f (chan s i)) s := rfl
@[simp] theorem updFab_eq (i : Nat) (f : FabSt → FabSt) (s : State) : updFab i f s = setFab i (f (fab s i)) s := rfl
@[simp] theorem setStrm_eq (g st : Nat) (r : Stream) (s : State) :
    setStrm g st r s = setCore g { core s g with streams := Tbl.set (core s g).streams st r } s := rfl
@[simp] theorem updStrm_eq (g st : Nat) (f : Stream → Stream) (s : State) : updStrm g st f s = setStrm g st (f (strm s g st)) s := rfl
@[simp] theorem setQueue_eq (g q : Nat) (k : TokQueue) (s : State) :
    setQueue g q k s = setCore g { core s g with queues := Tbl.set (core s g).queues q k } s := rfl
@[simp] theorem setOte_eq (g e : Nat) (o : Ote) (s : State) :
    setOte g e o s = setCore g { core s g with engines := Tbl.set (core s g).engines e o } s := rfl
@[simp] theorem updOte_eq (g e : Nat) (f : Ote → Ote) (s : State) : updOte g e f s = setOte g e (f (ote s g e)) s := rfl
@[simp] theorem setPair_eq (p l : Nat) (k : Pair) (s : State) :
    setPair p l k s = setFab p { fab s p with pairs := Tbl.set (fab s p).pairs l k } s := rfl
@[simp] theorem updPair_eq (p l : Nat) (f : Pair → Pair) (s : State) : updPair p l f s = setPair p l (f (pair s p l)) s := rfl

/-! ### Tables -/

/-- A written record reads back. -/
@[simp] theorem Tbl.get_set_same {α : Type} (d : α) (t : Tbl α) (k : Nat) (v : α) : Tbl.get d (Tbl.set t k v) k = v := by
  induction t with
  | nil => simp [Tbl.set, Tbl.get]
  | cons a t ih =>
    simp only [Tbl.set]
    split
    · simp [Tbl.get]
    · split
      · simp [Tbl.get]
      · rename_i h; simp [Tbl.get, h, ih]

/-- The other records of a table stay. -/
theorem Tbl.get_set_other {α : Type} (d : α) (t : Tbl α) (k j : Nat) (v : α) (h : j ≠ k) : Tbl.get d (Tbl.set t k v) j = Tbl.get d t j := by
  induction t with
  | nil => simp [Tbl.set, Tbl.get, h]
  | cons a t ih =>
    simp only [Tbl.set]
    split
    · simp [Tbl.get, h]
    · split
      · rename_i e; subst e; simp [Tbl.get, h]
      · simp only [Tbl.get, ih]

/-- Reading at any index after a write. -/
theorem Tbl.get_set {α : Type} (d : α) (t : Tbl α) (k j : Nat) (v : α) :
    Tbl.get d (Tbl.set t k v) j = if j = k then v else Tbl.get d t j := by
  by_cases h : j = k
  · subst h; simp
  · simp [h, Tbl.get_set_other d t k j v h]

/-! ### Reading back -/

@[simp] theorem core_setCore_same (i : Nat) (k : CoreSt) (s : State) : core (setCore i k s) i = k := by simp [core, setCore]
theorem core_setCore_other (i j : Nat) (k : CoreSt) (s : State) (h : j ≠ i) : core (setCore i k s) j = core s j := by
  simp [core, setCore, Tbl.get_set_other _ _ _ _ _ h]
@[simp] theorem clu_setClu_same (i : Nat) (k : CluSt) (s : State) : clu (setClu i k s) i = k := by simp [clu, setClu]
theorem clu_setClu_other (i j : Nat) (k : CluSt) (s : State) (h : j ≠ i) : clu (setClu i k s) j = clu s j := by
  simp [clu, setClu, Tbl.get_set_other _ _ _ _ _ h]
@[simp] theorem ctx_setCtx_same (i : Nat) (k : CtxSt) (s : State) : ctx (setCtx i k s) i = k := by simp [ctx, setCtx]
theorem ctx_setCtx_other (i j : Nat) (k : CtxSt) (s : State) (h : j ≠ i) : ctx (setCtx i k s) j = ctx s j := by
  simp [ctx, setCtx, Tbl.get_set_other _ _ _ _ _ h]
@[simp] theorem ring_setRing_same (i : Nat) (k : RingSt) (s : State) : ring (setRing i k s) i = k := by simp [ring, setRing]
theorem ring_setRing_other (i j : Nat) (k : RingSt) (s : State) (h : j ≠ i) : ring (setRing i k s) j = ring s j := by
  simp [ring, setRing, Tbl.get_set_other _ _ _ _ _ h]
@[simp] theorem chan_setChan_same (i : Nat) (k : DdrChan) (s : State) : chan (setChan i k s) i = k := by simp [chan, setChan]
theorem chan_setChan_other (i j : Nat) (k : DdrChan) (s : State) (h : j ≠ i) : chan (setChan i k s) j = chan s j := by
  simp [chan, setChan, Tbl.get_set_other _ _ _ _ _ h]
@[simp] theorem fab_setFab_same (i : Nat) (k : FabSt) (s : State) : fab (setFab i k s) i = k := by simp [fab, setFab]
theorem fab_setFab_other (i j : Nat) (k : FabSt) (s : State) (h : j ≠ i) : fab (setFab i k s) j = fab s j := by
  simp [fab, setFab, Tbl.get_set_other _ _ _ _ _ h]
@[simp] theorem clu_setCore_acc (g : Nat) (k : CoreSt) (i : Nat) (s : State) : clu (setCore g k s) i = clu s i := rfl
@[simp] theorem ctx_setCore_acc (g : Nat) (k : CoreSt) (i : Nat) (s : State) : ctx (setCore g k s) i = ctx s i := rfl
@[simp] theorem fab_setCore_acc (g : Nat) (k : CoreSt) (i : Nat) (s : State) : fab (setCore g k s) i = fab s i := rfl
@[simp] theorem ring_setCore_acc (g : Nat) (k : CoreSt) (i : Nat) (s : State) : ring (setCore g k s) i = ring s i := rfl
@[simp] theorem chan_setCore_acc (g : Nat) (k : CoreSt) (i : Nat) (s : State) : chan (setCore g k s) i = chan s i := rfl
@[simp] theorem core_setClu_acc (c : Nat) (k : CluSt) (i : Nat) (s : State) : core (setClu c k s) i = core s i := rfl
@[simp] theorem ctx_setClu_acc (c : Nat) (k : CluSt) (i : Nat) (s : State) : ctx (setClu c k s) i = ctx s i := rfl
@[simp] theorem fab_setClu_acc (c : Nat) (k : CluSt) (i : Nat) (s : State) : fab (setClu c k s) i = fab s i := rfl
@[simp] theorem ring_setClu_acc (c : Nat) (k : CluSt) (i : Nat) (s : State) : ring (setClu c k s) i = ring s i := rfl
@[simp] theorem chan_setClu_acc (c : Nat) (k : CluSt) (i : Nat) (s : State) : chan (setClu c k s) i = chan s i := rfl
@[simp] theorem core_setCtx_acc (c : Nat) (k : CtxSt) (i : Nat) (s : State) : core (setCtx c k s) i = core s i := rfl
@[simp] theorem clu_setCtx_acc (c : Nat) (k : CtxSt) (i : Nat) (s : State) : clu (setCtx c k s) i = clu s i := rfl
@[simp] theorem fab_setCtx_acc (c : Nat) (k : CtxSt) (i : Nat) (s : State) : fab (setCtx c k s) i = fab s i := rfl
@[simp] theorem ring_setCtx_acc (c : Nat) (k : CtxSt) (i : Nat) (s : State) : ring (setCtx c k s) i = ring s i := rfl
@[simp] theorem chan_setCtx_acc (c : Nat) (k : CtxSt) (i : Nat) (s : State) : chan (setCtx c k s) i = chan s i := rfl
@[simp] theorem core_setRing_acc (r : Nat) (k : RingSt) (i : Nat) (s : State) : core (setRing r k s) i = core s i := rfl
@[simp] theorem clu_setRing_acc (r : Nat) (k : RingSt) (i : Nat) (s : State) : clu (setRing r k s) i = clu s i := rfl
@[simp] theorem ctx_setRing_acc (r : Nat) (k : RingSt) (i : Nat) (s : State) : ctx (setRing r k s) i = ctx s i := rfl
@[simp] theorem fab_setRing_acc (r : Nat) (k : RingSt) (i : Nat) (s : State) : fab (setRing r k s) i = fab s i := rfl
@[simp] theorem chan_setRing_acc (r : Nat) (k : RingSt) (i : Nat) (s : State) : chan (setRing r k s) i = chan s i := rfl
@[simp] theorem core_setChan_acc (n : Nat) (k : DdrChan) (i : Nat) (s : State) : core (setChan n k s) i = core s i := rfl
@[simp] theorem clu_setChan_acc (n : Nat) (k : DdrChan) (i : Nat) (s : State) : clu (setChan n k s) i = clu s i := rfl
@[simp] theorem ctx_setChan_acc (n : Nat) (k : DdrChan) (i : Nat) (s : State) : ctx (setChan n k s) i = ctx s i := rfl
@[simp] theorem fab_setChan_acc (n : Nat) (k : DdrChan) (i : Nat) (s : State) : fab (setChan n k s) i = fab s i := rfl
@[simp] theorem ring_setChan_acc (n : Nat) (k : DdrChan) (i : Nat) (s : State) : ring (setChan n k s) i = ring s i := rfl
@[simp] theorem core_setFab_acc (p : Nat) (k : FabSt) (i : Nat) (s : State) : core (setFab p k s) i = core s i := rfl
@[simp] theorem clu_setFab_acc (p : Nat) (k : FabSt) (i : Nat) (s : State) : clu (setFab p k s) i = clu s i := rfl
@[simp] theorem ctx_setFab_acc (p : Nat) (k : FabSt) (i : Nat) (s : State) : ctx (setFab p k s) i = ctx s i := rfl
@[simp] theorem ring_setFab_acc (p : Nat) (k : FabSt) (i : Nat) (s : State) : ring (setFab p k s) i = ring s i := rfl
@[simp] theorem chan_setFab_acc (p : Nat) (k : FabSt) (i : Nat) (s : State) : chan (setFab p k s) i = chan s i := rfl
@[simp] theorem core_writeMem_acc (a : Nat) (bs : List Byte) (i : Nat) (s : State) : core (writeMem a bs s) i = core s i := rfl
@[simp] theorem clu_writeMem_acc (a : Nat) (bs : List Byte) (i : Nat) (s : State) : clu (writeMem a bs s) i = clu s i := rfl
@[simp] theorem ctx_writeMem_acc (a : Nat) (bs : List Byte) (i : Nat) (s : State) : ctx (writeMem a bs s) i = ctx s i := rfl
@[simp] theorem fab_writeMem_acc (a : Nat) (bs : List Byte) (i : Nat) (s : State) : fab (writeMem a bs s) i = fab s i := rfl
@[simp] theorem ring_writeMem_acc (a : Nat) (bs : List Byte) (i : Nat) (s : State) : ring (writeMem a bs s) i = ring s i := rfl
@[simp] theorem chan_writeMem_acc (a : Nat) (bs : List Byte) (i : Nat) (s : State) : chan (writeMem a bs s) i = chan s i := rfl
@[simp] theorem core_send_acc (ch : Chan_) (kind : Nat) (args : List Nat) (i : Nat) (s : State) : core (send ch kind args s) i = core s i := rfl
@[simp] theorem clu_send_acc (ch : Chan_) (kind : Nat) (args : List Nat) (i : Nat) (s : State) : clu (send ch kind args s) i = clu s i := rfl
@[simp] theorem ctx_send_acc (ch : Chan_) (kind : Nat) (args : List Nat) (i : Nat) (s : State) : ctx (send ch kind args s) i = ctx s i := rfl
@[simp] theorem fab_send_acc (ch : Chan_) (kind : Nat) (args : List Nat) (i : Nat) (s : State) : fab (send ch kind args s) i = fab s i := rfl
@[simp] theorem ring_send_acc (ch : Chan_) (kind : Nat) (args : List Nat) (i : Nat) (s : State) : ring (send ch kind args s) i = ring s i := rfl
@[simp] theorem chan_send_acc (ch : Chan_) (kind : Nat) (args : List Nat) (i : Nat) (s : State) : chan (send ch kind args s) i = chan s i := rfl
@[simp] theorem core_countAt_acc (base k ev qual n : Nat) (ranged : Bool) (i : Nat) (s : State) : core (countAt base k ev qual n ranged s) i = core s i := rfl
@[simp] theorem clu_countAt_acc (base k ev qual n : Nat) (ranged : Bool) (i : Nat) (s : State) : clu (countAt base k ev qual n ranged s) i = clu s i := rfl
@[simp] theorem ctx_countAt_acc (base k ev qual n : Nat) (ranged : Bool) (i : Nat) (s : State) : ctx (countAt base k ev qual n ranged s) i = ctx s i := rfl
@[simp] theorem fab_countAt_acc (base k ev qual n : Nat) (ranged : Bool) (i : Nat) (s : State) : fab (countAt base k ev qual n ranged s) i = fab s i := rfl
@[simp] theorem ring_countAt_acc (base k ev qual n : Nat) (ranged : Bool) (i : Nat) (s : State) : ring (countAt base k ev qual n ranged s) i = ring s i := rfl
@[simp] theorem chan_countAt_acc (base k ev qual n : Nat) (ranged : Bool) (i : Nat) (s : State) : chan (countAt base k ev qual n ranged s) i = chan s i := rfl
@[simp] theorem core_rateMark_acc (key : Nat) (i : Nat) (s : State) : core (rateMark key s) i = core s i := rfl
@[simp] theorem clu_rateMark_acc (key : Nat) (i : Nat) (s : State) : clu (rateMark key s) i = clu s i := rfl
@[simp] theorem ctx_rateMark_acc (key : Nat) (i : Nat) (s : State) : ctx (rateMark key s) i = ctx s i := rfl
@[simp] theorem fab_rateMark_acc (key : Nat) (i : Nat) (s : State) : fab (rateMark key s) i = fab s i := rfl
@[simp] theorem ring_rateMark_acc (key : Nat) (i : Nat) (s : State) : ring (rateMark key s) i = ring s i := rfl
@[simp] theorem chan_rateMark_acc (key : Nat) (i : Nat) (s : State) : chan (rateMark key s) i = chan s i := rfl
@[simp] theorem strm_setStrm_same (g st : Nat) (r : Stream) (s : State) : strm (setStrm g st r s) g st = r := by simp [strm]
@[simp] theorem queue_setQueue_same (g q : Nat) (k : TokQueue) (s : State) : queue (setQueue g q k s) g q = k := by simp [queue]
@[simp] theorem ote_setOte_same (g e : Nat) (o : Ote) (s : State) : ote (setOte g e o s) g e = o := by simp [ote]
@[simp] theorem pair_setPair_same (p l : Nat) (k : Pair) (s : State) : pair (setPair p l k s) p l = k := by simp [pair]

end Sys2Proof.Machine
end

