-- ==== Sys2Proof/Laws/Memory.lean ====
section
/-! SUPPORT. Memory: what a read gives after a write, and that every memory operation keeps the canonical form. -/

namespace Sys2Proof.Machine

/-- Every address of a memory lies at or above a bound. -/
def Memory.above (a : Nat) (m : Memory) : Prop := ∀ c ∈ m, a < c.1

theorem Memory.wf_cons (a : Nat) (b : Byte) (m : Memory) :
    Memory.wf ((a, b) :: m) = true ↔ b ≠ memDefault ∧ Memory.above a m ∧ Memory.wf m = true := by
  induction m generalizing a b with
  | nil => simp [Memory.wf, Memory.above]
  | cons c m ih =>
    obtain ⟨a', b'⟩ := c
    rw [show Memory.wf ((a, b) :: (a', b') :: m) = (decide (b ≠ memDefault) && decide (a < a') && Memory.wf ((a', b') :: m)) from rfl]
    simp only [Bool.and_eq_true, decide_eq_true_eq]
    constructor
    · rintro ⟨⟨hb, ha⟩, hm⟩
      refine ⟨hb, ?_, hm⟩
      intro c hc
      rcases List.mem_cons.mp hc with rfl | hc
      · exact ha
      · exact lt_trans ha (((ih a' b').mp hm).2.1 c hc)
    · rintro ⟨hb, ha, hm⟩
      exact ⟨⟨hb, ha _ (List.mem_cons_self)⟩, hm⟩

/-- A memory read below its first address gives the default. -/
theorem Memory.read_above {m : Memory} {a : Nat} (h : Memory.above a m) : m.read a = memDefault := by
  induction m with
  | nil => rfl
  | cons c m ih =>
    obtain ⟨a', b'⟩ := c
    have h1 : a ≠ a' := Nat.ne_of_lt (h (a', b') List.mem_cons_self)
    simp only [Memory.read, h1, if_false]
    exact ih fun c hc => h c (List.mem_cons_of_mem _ hc)

/-- A write leaves every address above a bound that it and the memory lie above. -/
theorem Memory.above_write {m : Memory} {x a : Nat} (b : Byte) (h : Memory.above x m) (hx : x < a) : Memory.above x (m.write a b) := by
  induction m with
  | nil =>
    simp only [Memory.write]
    split
    · intro c hc; simp at hc
    · intro c hc; simp only [List.mem_singleton] at hc; subst hc; exact hx
  | cons c m ih =>
    obtain ⟨a', b'⟩ := c
    have hm : Memory.above x m := fun c hc => h c (List.mem_cons_of_mem _ hc)
    have ha : x < a' := h (a', b') List.mem_cons_self
    simp only [Memory.write]
    split
    · split
      · exact h
      · intro c hc
        rcases List.mem_cons.mp hc with rfl | hc
        · exact hx
        · exact h c hc
    · split
      · split
        · exact hm
        · intro c hc
          rcases List.mem_cons.mp hc with rfl | hc
          · exact hx
          · exact hm c hc
      · intro c hc
        rcases List.mem_cons.mp hc with rfl | hc
        · exact ha
        · exact ih hm c hc

/-- A write keeps the canonical form. -/
theorem Memory.wf_write {m : Memory} (a : Nat) (b : Byte) (h : m.wf = true) : (m.write a b).wf = true := by
  induction m with
  | nil => by_cases hb : b = memDefault <;> simp [Memory.write, hb, Memory.wf]
  | cons c m ih =>
    obtain ⟨a', b'⟩ := c
    obtain ⟨hb', ha', hm⟩ := (Memory.wf_cons a' b' m).mp h
    simp only [Memory.write]
    split
    · rename_i hlt
      split
      · exact h
      · rename_i hb
        refine (Memory.wf_cons a b _).mpr ⟨hb, ?_, h⟩
        intro c hc
        rcases List.mem_cons.mp hc with rfl | hc
        · exact hlt
        · exact lt_trans hlt (ha' c hc)
    · split
      · rename_i _ he
        subst he
        split
        · exact hm
        · rename_i hb
          exact (Memory.wf_cons a b m).mpr ⟨hb, ha', hm⟩
      · rename_i h1 h2
        exact (Memory.wf_cons a' b' _).mpr ⟨hb', Memory.above_write b ha' (by omega), ih hm⟩

/-- What a byte reads as after a write, in canonical form. -/
theorem Memory.read_write {m : Memory} (a x : Nat) (b : Byte) (h : m.wf = true) :
    (m.write a b).read x = if x = a then b else m.read x := by
  induction m with
  | nil =>
    simp only [Memory.write]
    split
    · rename_i hb; subst hb; simp [Memory.read]
    · simp [Memory.read]
  | cons c m ih =>
    obtain ⟨a', b'⟩ := c
    obtain ⟨hb', ha', hm⟩ := (Memory.wf_cons a' b' m).mp h
    simp only [Memory.write]
    split
    · rename_i hlt
      split
      · rename_i hb
        split
        · rename_i hx
          subst hx; subst hb
          refine Memory.read_above fun c hc => ?_
          rcases List.mem_cons.mp hc with rfl | hc
          · exact hlt
          · exact lt_trans hlt (ha' c hc)
        · rfl
      · by_cases hx : x = a <;> simp [Memory.read, hx]
    · split
      · rename_i _ he
        subst he
        split
        · rename_i hb
          split
          · rename_i hx; subst hx; subst hb; exact Memory.read_above ha'
          · rename_i hx; simp [Memory.read, hx]
        · by_cases hx : x = a <;> simp [Memory.read, hx]
      · rename_i h1 h2
        by_cases hx : x = a'
        · subst hx; simp [Memory.read, Ne.symm h2]
        · simp only [Memory.read, hx, if_false]; exact ih hm

/-- A store of bytes keeps the canonical form. -/
theorem Memory.wf_writeN {m : Memory} (a : Nat) (bs : List Byte) (h : m.wf = true) : (m.writeN a bs).wf = true := by
  induction bs generalizing m a with
  | nil => exact h
  | cons b bs ih => exact ih (a + 1) (Memory.wf_write a b h)

/-- Every byte outside a store reads as before. -/
theorem Memory.read_writeN_outside {m : Memory} (a x : Nat) (bs : List Byte) (h : m.wf = true) (hx : x < a ∨ a + bs.length ≤ x) :
    (m.writeN a bs).read x = m.read x := by
  induction bs generalizing m a with
  | nil => rfl
  | cons b bs ih =>
    have hn : x ≠ a := by simp only [List.length_cons] at hx; omega
    have hx' : x < a + 1 ∨ a + 1 + bs.length ≤ x := by simp only [List.length_cons] at hx; omega
    rw [Memory.writeN, ih (a + 1) (Memory.wf_write a b h) hx', Memory.read_write a x b h]
    simp [hn]

/-- A store's bytes read back. -/
theorem Memory.read_writeN_inside {m : Memory} (a i : Nat) (bs : List Byte) (h : m.wf = true) (hi : i < bs.length) :
    (m.writeN a bs).read (a + i) = bs.getD i 0 := by
  induction bs generalizing m a i with
  | nil => simp at hi
  | cons b bs ih =>
    have hw := Memory.wf_write a b h
    cases i with
    | zero =>
      have h0 := Memory.read_writeN_outside (a + 1) a bs hw (Or.inl (Nat.lt_succ_self a))
      rw [Memory.read_write a a b h] at h0
      simpa [Memory.writeN] using h0
    | succ i =>
      have := ih (a + 1) i hw (by simpa using hi)
      rw [Memory.writeN, show a + (i + 1) = a + 1 + i by omega, this]
      simp

/-- Taking entries out keeps the canonical form. -/
theorem Memory.wf_filter {m : Memory} (p : Host.Cell → Bool) (h : m.wf = true) : Memory.wf (List.filter p m) = true := by
  induction m with
  | nil => rfl
  | cons c m ih =>
    obtain ⟨a, b⟩ := c
    obtain ⟨hb, ha, hm⟩ := (Memory.wf_cons a b m).mp h
    simp only [List.filter]
    split
    · exact (Memory.wf_cons a b _).mpr ⟨hb, fun c hc => ha c (List.mem_filter.mp hc).1, ih hm⟩
    · exact ih hm

/-- A zeroing keeps the canonical form. -/
theorem Memory.wf_zero {m : Memory} (a n : Nat) (h : m.wf = true) : (m.zero a n).wf = true := Memory.wf_filter _ h

/-- Reading an entry list after entries are taken out by address. -/
theorem Memory.read_filter {m : Memory} (p : Nat → Bool) (x : Nat) :
    Memory.read (List.filter (fun c => p c.1) m) x = if p x then m.read x else memDefault := by
  induction m with
  | nil => simp [Memory.read]
  | cons c m ih =>
    obtain ⟨a, b⟩ := c
    by_cases hp : p a = true
    · simp only [List.filter, hp, Memory.read, ih]
      by_cases hx : x = a
      · subst hx; simp [hp]
      · simp [hx]
    · simp only [List.filter, hp, Memory.read, ih]
      by_cases hx : x = a
      · subst hx; simp [hp]
      · simp [hx]

/-- A zeroed range reads as the default, and every other byte as before. -/
theorem Memory.read_zero {m : Memory} (a n x : Nat) : (m.zero a n).read x = if a ≤ x ∧ x < a + n then memDefault else m.read x := by
  have := Memory.read_filter (m := m) (fun y => decide (y < a) || decide (a + n ≤ y)) x
  unfold Memory.zero
  rw [this]
  by_cases h : a ≤ x ∧ x < a + n
  · have h1 : ¬ x < a := by omega
    have h2 : ¬ a + n ≤ x := by omega
    simp [h, h1, h2]
  · have h1 : x < a ∨ a + n ≤ x := by omega
    simp [h, h1]

/-- Bytes written one by one. -/
theorem Memory.wf_writes (l : List (Nat × Byte)) (k : Nat × Byte → Bool) (a : Nat × Byte → Nat) (m : Memory) (h : m.wf = true) :
    Memory.wf (l.foldl (fun m c => if k c = true then Memory.write m (a c) c.2 else m) m) = true := by
  induction l generalizing m with
  | nil => exact h
  | cons c t ih =>
    refine ih _ ?_
    show Memory.wf (if k c = true then Memory.write m (a c) c.2 else m) = true
    split
    · exact Memory.wf_write _ _ h
    · exact h

/-- Two memories one above the other. -/
theorem Memory.wf_append {m n : Memory} (hm : Memory.wf m = true) (hn : Memory.wf n = true) (h : ∀ c ∈ m, ∀ d ∈ n, c.1 < d.1) :
    Memory.wf (m ++ n) = true := by
  induction m with
  | nil => exact hn
  | cons c m ih =>
    obtain ⟨a, b⟩ := c
    obtain ⟨hb, ha, hw⟩ := (Memory.wf_cons a b m).mp hm
    refine (Memory.wf_cons a b (m ++ n)).mpr ⟨hb, ?_, ih hw fun c hc d hd => h c (List.mem_cons_of_mem _ hc) d hd⟩
    intro d hd
    rcases List.mem_append.mp hd with k | k
    · exact ha d k
    · exact h (a, b) List.mem_cons_self d k

/-- A memory moved down. -/
theorem Memory.wf_shift {m : Memory} (u v : Nat) (hm : Memory.wf m = true) (h : ∀ c ∈ m, u ≤ c.1) :
    Memory.wf (m.map fun c => (c.1 - u + v, c.2)) = true := by
  induction m with
  | nil => rfl
  | cons c m ih =>
    obtain ⟨a, b⟩ := c
    obtain ⟨hb, ha, hw⟩ := (Memory.wf_cons a b m).mp hm
    refine (Memory.wf_cons _ _ _).mpr ⟨hb, ?_, ih hw fun c hc => h c (List.mem_cons_of_mem _ hc)⟩
    intro d hd
    obtain ⟨c, hc, rfl⟩ := List.mem_map.mp hd
    have := ha c hc
    have := h (a, b) List.mem_cons_self
    have := h c (List.mem_cons_of_mem _ hc)
    simp only at *
    omega

/-- A write leaves every other address as it was, in any list. -/
theorem Memory.read_write_ne (m : Memory) (a x : Nat) (b : Byte) (h : x ≠ a) : (m.write a b).read x = m.read x := by
  induction m with
  | nil => by_cases hb : b = memDefault <;> simp [Memory.write, Memory.read, hb, h]
  | cons c m ih =>
    obtain ⟨a', b'⟩ := c
    simp only [Memory.write]
    split
    · split
      · rfl
      · simp [Memory.read, h]
    · split
      · rename_i e
        subst e
        split <;> simp [Memory.read, h]
      · simp only [Memory.read, ih]

/-- Bytes written leave every address outside them as it was, in any list. -/
theorem Memory.read_writeN_ne (m : Memory) (a x : Nat) (bs : List Byte) (h : x < a ∨ a + bs.length ≤ x) : (m.writeN a bs).read x = m.read x := by
  induction bs generalizing m a with
  | nil => rfl
  | cons b bs ih =>
    simp only [List.length_cons] at h
    rw [Memory.writeN, ih _ _ (by omega), Memory.read_write_ne _ _ _ _ (by omega)]

/-- The canonical form of State's memory is kept by writeMem. -/
theorem wf_writeMem (a : Nat) (bs : List Byte) (s : State) (h : s.mem.wf = true) : (writeMem a bs s).mem.wf = true :=
  Memory.wf_writeN a bs h

/-- The memory of the reset state lists nothing. -/
theorem wf_reset : State.reset.mem.wf = true := rfl

end Sys2Proof.Machine
end

