-- ==== Sys2Proof/Laws/Law.lean ====
section
/-! SUPPORT. What a change of the state may do, as a relation that composes: which parts it may touch, and that it keeps memory in its
canonical form. One lemma per operation follows in the other files of Laws/: what it can touch, said once. -/

namespace Sys2Proof.Machine

/-- From `s` to `t` only the parts `L` may differ, and memory in canonical form stays so. -/
def Law (L : List Part) (s t : State) : Prop := OnlyParts L s t ∧ (Inv s → Inv t)

theorem Part.Same.refl (s : State) (p : Part) : p.Same s s := by cases p <;> first | rfl | exact fun _ _ => rfl

theorem Part.Same.trans {s t u : State} {p : Part} (h : p.Same s t) (k : p.Same t u) : p.Same s u := by
  cases p <;> first | exact Eq.trans k h | exact fun a ha => (k a ha).trans (h a ha)

theorem Law.refl (L : List Part) (s : State) : Law L s s := ⟨fun p _ => Part.Same.refl s p, id⟩

theorem Law.trans {L : List Part} {s t u : State} (h : Law L s t) (k : Law L t u) : Law L s u :=
  ⟨fun p hp => (h.1 p hp).trans (k.1 p hp), fun hi => k.2 (h.2 hi)⟩

theorem Law.mono {K L : List Part} {s t : State} (h : Law K s t) (hL : K ⊆ L) : Law L s t := ⟨fun p hp => h.1 p fun hk => hp (hL hk), h.2⟩

/-- A change known to touch `K` after one that touches `L`, which holds `K`. -/
theorem Law.step {K L : List Part} {s x t : State} (k : Law K x t) (hL : K ⊆ L) (h : Law L s x) : Law L s t := h.trans (k.mono hL)

theorem Law.in_sub {K L : List Part} {p : Part} (hL : K ⊆ L) (h : p ∈ K) : p ∈ L := hL h

/-- A fold of changes. -/
theorem Law.foldl {α : Type} {L : List Part} {s : State} (f : State → α → State) (l : List α) (x : State) (h : Law L s x)
    (hf : ∀ (y : State) (a : α), Law L s y → Law L s (f y a)) : Law L s (l.foldl f x) := by
  induction l generalizing x with
  | nil => exact h
  | cons a l ih => exact ih (f x a) (hf x a h)

/-- A change chosen by an option. -/
theorem Law.elim {α : Type} {L : List Part} {s : State} (o : Option α) (a : State) (f : α → State) (ha : Law L s a) (hf : ∀ x, Law L s (f x)) :
    Law L s (o.elim a f) := by
  cases o
  · exact ha
  · exact hf _

/-- The command completes, and what it may touch. -/
def OutLaw (L : List Part) (s : State) (o : Out) : Prop := ∃ t, o = .next t ∧ Law L s t

theorem OutLaw.next {L : List Part} {s t : State} (h : Law L s t) : OutLaw L s (.next t) := ⟨t, rfl, h⟩

/-- A command carried out after a change. -/
theorem OutLaw.step {K L : List Part} {s x : State} {o : Out} (k : OutLaw K x o) (hL : K ⊆ L) (h : Law L s x) : OutLaw L s o := by
  obtain ⟨t, ht, hk⟩ := k
  exact ⟨t, ht, Law.step hk hL h⟩

theorem Law.set_now {L : List Part} {s x : State} (v) (m : Part.now ∈ L) (h : Law L s x) : Law L s { x with now := v } :=
  ⟨fun p hp => by cases p <;> first | exact h.1 _ hp | exact absurd m hp, h.2⟩
theorem Law.set_freeCtr {L : List Part} {s x : State} (v) (m : Part.freeCtr ∈ L) (h : Law L s x) : Law L s { x with freeCtr := v } :=
  ⟨fun p hp => by cases p <;> first | exact h.1 _ hp | exact absurd m hp, h.2⟩
theorem Law.set_cores {L : List Part} {s x : State} (v) (m : Part.cores ∈ L) (h : Law L s x) : Law L s { x with cores := v } :=
  ⟨fun p hp => by cases p <;> first | exact h.1 _ hp | exact absurd m hp, h.2⟩
theorem Law.set_clus {L : List Part} {s x : State} (v) (m : Part.clus ∈ L) (h : Law L s x) : Law L s { x with clus := v } :=
  ⟨fun p hp => by cases p <;> first | exact h.1 _ hp | exact absurd m hp, h.2⟩
theorem Law.set_ctxs {L : List Part} {s x : State} (v) (m : Part.ctxs ∈ L) (h : Law L s x) : Law L s { x with ctxs := v } :=
  ⟨fun p hp => by cases p <;> first | exact h.1 _ hp | exact absurd m hp, h.2⟩
theorem Law.set_transit {L : List Part} {s x : State} (v) (m : Part.transit ∈ L) (h : Law L s x) : Law L s { x with transit := v } :=
  ⟨fun p hp => by cases p <;> first | exact h.1 _ hp | exact absurd m hp, h.2⟩
theorem Law.set_ddr {L : List Part} {s x : State} (v) (m : Part.ddr ∈ L) (h : Law L s x) : Law L s { x with ddr := v } :=
  ⟨fun p hp => by cases p <;> first | exact h.1 _ hp | exact absurd m hp, h.2⟩
theorem Law.set_hst {L : List Part} {s x : State} (v) (m : Part.hst ∈ L) (h : Law L s x) : Law L s { x with hst := v } :=
  ⟨fun p hp => by cases p <;> first | exact h.1 _ hp | exact absurd m hp, h.2⟩
theorem Law.set_idb {L : List Part} {s x : State} (v) (m : Part.idb ∈ L) (h : Law L s x) : Law L s { x with idb := v } :=
  ⟨fun p hp => by cases p <;> first | exact h.1 _ hp | exact absurd m hp, h.2⟩
theorem Law.set_rst {L : List Part} {s x : State} (v) (m : Part.rst ∈ L) (h : Law L s x) : Law L s { x with rst := v } :=
  ⟨fun p hp => by cases p <;> first | exact h.1 _ hp | exact absurd m hp, h.2⟩
theorem Law.set_tally {L : List Part} {s x : State} (v) (m : Part.tally ∈ L) (h : Law L s x) : Law L s { x with tally := v } :=
  ⟨fun p hp => by cases p <;> first | exact h.1 _ hp | exact absurd m hp, h.2⟩
theorem Law.set_log {L : List Part} {s x : State} (v) (m : Part.log ∈ L) (h : Law L s x) : Law L s { x with log := v } :=
  ⟨fun p hp => by cases p <;> first | exact h.1 _ hp | exact absurd m hp, h.2⟩
theorem Law.set_fab {L : List Part} {s x : State} (v) (m : Part.fab ∈ L) (h : Law L s x) : Law L s { x with fab := v } :=
  ⟨fun p hp => by cases p <;> first | exact h.1 _ hp | exact absurd m hp, h.2⟩
theorem Law.set_link {L : List Part} {s x : State} (v) (m : Part.link ∈ L) (h : Law L s x) : Law L s { x with link := v } :=
  ⟨fun p hp => by cases p <;> first | exact h.1 _ hp | exact absurd m hp, h.2⟩
theorem Law.set_steer {L : List Part} {s x : State} (v) (m : Part.steer ∈ L) (h : Law L s x) : Law L s { x with steer := v } :=
  ⟨fun p hp => by cases p <;> first | exact h.1 _ hp | exact absurd m hp, h.2⟩
theorem Law.set_stew {L : List Part} {s x : State} (v) (m : Part.stew ∈ L) (h : Law L s x) : Law L s { x with stew := v } :=
  ⟨fun p hp => by cases p <;> first | exact h.1 _ hp | exact absurd m hp, h.2⟩
theorem Law.set_ckpt {L : List Part} {s x : State} (v) (m : Part.ckpt ∈ L) (h : Law L s x) : Law L s { x with ckpt := v } :=
  ⟨fun p hp => by cases p <;> first | exact h.1 _ hp | exact absurd m hp, h.2⟩
theorem Law.set_time {L : List Part} {s x : State} (v) (m : Part.time ∈ L) (h : Law L s x) : Law L s { x with time := v } :=
  ⟨fun p hp => by cases p <;> first | exact h.1 _ hp | exact absurd m hp, h.2⟩
theorem Law.set_boot {L : List Part} {s x : State} (v) (m : Part.boot ∈ L) (h : Law L s x) : Law L s { x with boot := v } :=
  ⟨fun p hp => by cases p <;> first | exact h.1 _ hp | exact absurd m hp, h.2⟩
theorem Law.set_pwr {L : List Part} {s x : State} (v) (m : Part.pwr ∈ L) (h : Law L s x) : Law L s { x with pwr := v } :=
  ⟨fun p hp => by cases p <;> first | exact h.1 _ hp | exact absurd m hp, h.2⟩
theorem Law.set_upd {L : List Part} {s x : State} (v) (m : Part.upd ∈ L) (h : Law L s x) : Law L s { x with upd := v } :=
  ⟨fun p hp => by cases p <;> first | exact h.1 _ hp | exact absurd m hp, h.2⟩
theorem Law.set_pins {L : List Part} {s x : State} (v) (m : Part.pins ∈ L) (h : Law L s x) : Law L s { x with pins := v } :=
  ⟨fun p hp => by cases p <;> first | exact h.1 _ hp | exact absurd m hp, h.2⟩
theorem Law.set_eth {L : List Part} {s x : State} (v) (m : Part.eth ∈ L) (h : Law L s x) : Law L s { x with eth := v } :=
  ⟨fun p hp => by cases p <;> first | exact h.1 _ hp | exact absurd m hp, h.2⟩
theorem Law.set_side {L : List Part} {s x : State} (v) (m : Part.side ∈ L) (h : Law L s x) : Law L s { x with side := v } :=
  ⟨fun p hp => by cases p <;> first | exact h.1 _ hp | exact absurd m hp, h.2⟩
theorem Law.set_sent {L : List Part} {s x : State} (v) (m : Part.sent ∈ L) (h : Law L s x) : Law L s { x with sent := v } :=
  ⟨fun p hp => by cases p <;> first | exact h.1 _ hp | exact absurd m hp, h.2⟩
theorem Law.set_pending {L : List Part} {s x : State} (v) (m : Part.pending ∈ L) (h : Law L s x) : Law L s { x with pending := v } :=
  ⟨fun p hp => by cases p <;> first | exact h.1 _ hp | exact absurd m hp, h.2⟩
theorem Law.set_mem {L : List Part} {s x : State} (v : Memory) (m : Part.mem ∈ L) (m' : Part.host ∈ L)
    (w : Memory.wf x.mem = true → Memory.wf v = true) (h : Law L s x) : Law L s { x with mem := v } :=
  ⟨fun p hp => by cases p <;> first | exact h.1 _ hp | exact absurd m hp | exact absurd m' hp, fun hi => w (h.2 hi)⟩
/-- Bytes written into host memory. -/
theorem Law.set_host {L : List Part} {s x : State} (a : Nat) (bs : List Byte) (m : Part.host ∈ L) (h : Law L s x) :
    Law L s (writeMem (hostKey a) bs x) :=
  ⟨fun p hp => by
    cases p <;> first
      | exact absurd m hp
      | exact h.1 _ hp
      | exact fun y hy => (Memory.read_writeN_ne _ _ _ _ (.inl (by unfold hostKey; omega))).trans (h.1 _ hp y hy),
   fun hi => Memory.wf_writeN _ _ (h.2 hi)⟩
theorem Law.set_fab_link {L : List Part} {s x : State} (v0) (v1) (m0 : Part.fab ∈ L) (m1 : Part.link ∈ L) (h : Law L s x) :
    Law L s { x with fab := v0, link := v1 } :=
  ⟨fun p hp => by cases p <;> first | exact h.1 _ hp | exact absurd m0 hp | exact absurd m1 hp, h.2⟩
theorem Law.set_now_time {L : List Part} {s x : State} (v0) (v1) (m0 : Part.now ∈ L) (m1 : Part.time ∈ L) (h : Law L s x) :
    Law L s { x with now := v0, time := v1 } :=
  ⟨fun p hp => by cases p <;> first | exact h.1 _ hp | exact absurd m0 hp | exact absurd m1 hp, h.2⟩
theorem Law.set_clus_steer {L : List Part} {s x : State} (v0) (v1) (m0 : Part.clus ∈ L) (m1 : Part.steer ∈ L) (h : Law L s x) :
    Law L s { x with clus := v0, steer := v1 } :=
  ⟨fun p hp => by cases p <;> first | exact h.1 _ hp | exact absurd m0 hp | exact absurd m1 hp, h.2⟩
theorem Law.set_idb_rst {L : List Part} {s x : State} (v0) (v1) (m0 : Part.idb ∈ L) (m1 : Part.rst ∈ L) (h : Law L s x) :
    Law L s { x with idb := v0, rst := v1 } :=
  ⟨fun p hp => by cases p <;> first | exact h.1 _ hp | exact absurd m0 hp | exact absurd m1 hp, h.2⟩
theorem Law.set_clus_fab_eth {L : List Part} {s x : State} (v0) (v1) (v2) (m0 : Part.clus ∈ L) (m1 : Part.fab ∈ L) (m2 : Part.eth ∈ L) (h : Law L s x) :
    Law L s { x with clus := v0, fab := v1, eth := v2 } :=
  ⟨fun p hp => by cases p <;> first | exact h.1 _ hp | exact absurd m0 hp | exact absurd m1 hp | exact absurd m2 hp, h.2⟩
theorem Law.set_cores_ddr {L : List Part} {s x : State} (v0) (v1) (m0 : Part.cores ∈ L) (m1 : Part.ddr ∈ L) (h : Law L s x) :
    Law L s { x with cores := v0, ddr := v1 } :=
  ⟨fun p hp => by cases p <;> first | exact h.1 _ hp | exact absurd m0 hp | exact absurd m1 hp, h.2⟩
theorem Law.set_mem_ddr {L : List Part} {s x : State} (v0 : Memory) (v1) (m0 : Part.mem ∈ L) (m1 : Part.ddr ∈ L) (m2 : Part.host ∈ L)
    (w : Memory.wf x.mem = true → Memory.wf v0 = true) (h : Law L s x) : Law L s { x with mem := v0, ddr := v1 } :=
  ⟨fun p hp => by cases p <;> first | exact h.1 _ hp | exact absurd m0 hp | exact absurd m1 hp | exact absurd m2 hp, fun hi => w (h.2 hi)⟩

end Sys2Proof.Machine
end

