-- ==== Sys2Proof/Laws/Ops.lean ====
section
/-! SUPPORT. What each operation of Machine/Ops.lean may touch, one lemma for each, and that it keeps memory in its canonical form. -/

set_option maxRecDepth 4000
set_option linter.all false

namespace Sys2Proof.Machine

theorem writeMem_law (a : Nat) (bs : List Byte) (s : State) : Law [.mem, .host] s (writeMem a bs s) :=
  Law.set_mem _ (by decide) (by decide) (fun w => Memory.wf_writeN a bs w) (Law.refl _ s)

theorem setCore_law (g : Nat) (c : CoreSt) (s : State) :
    Law [.cores] s (setCore g c s) := by
  unfold setCore
  repeat' (first
    | extract_lets | with_reducible exact Law.refl _ _ | with_reducible assumption | with_reducible refine Law.foldl _ _ _ ?_ ?_
    | (show (_ : List Part) ⊆ _; decide) | (show (_ : List Part) ⊆ _; decide) | (intro _) | split
    | with_reducible refine Law.set_cores _ (by decide) ?_ | (dsimp +zetaDelta only [id]))

theorem updCore_law (g : Nat) (f : CoreSt → CoreSt) (s : State) :
    Law [.cores] s (updCore g f s) := by
  unfold updCore
  repeat' (first
    | extract_lets | with_reducible exact Law.refl _ _ | with_reducible assumption | with_reducible apply Law.step (setCore_law _ _ _)
    | with_reducible refine Law.foldl _ _ _ ?_ ?_ | (show (_ : List Part) ⊆ _; decide) | (show (_ : List Part) ⊆ _; decide) | (intro _)
    | split | (dsimp +zetaDelta only [id]))

theorem setStrm_law (g : Nat) (st : Nat) (r : Stream) (s : State) :
    Law [.cores] s (setStrm g st r s) := by
  unfold setStrm
  repeat' (first
    | extract_lets | with_reducible exact Law.refl _ _ | with_reducible assumption | with_reducible apply Law.step (updCore_law _ _ _)
    | with_reducible refine Law.foldl _ _ _ ?_ ?_ | (show (_ : List Part) ⊆ _; decide) | (show (_ : List Part) ⊆ _; decide) | (intro _)
    | split | (dsimp +zetaDelta only [id]))

theorem updStrm_law (g : Nat) (st : Nat) (f : Stream → Stream) (s : State) :
    Law [.cores] s (updStrm g st f s) := by
  unfold updStrm
  repeat' (first
    | extract_lets | with_reducible exact Law.refl _ _ | with_reducible assumption | with_reducible apply Law.step (setStrm_law _ _ _ _)
    | with_reducible refine Law.foldl _ _ _ ?_ ?_ | (show (_ : List Part) ⊆ _; decide) | (show (_ : List Part) ⊆ _; decide) | (intro _)
    | split | (dsimp +zetaDelta only [id]))

theorem setQueue_law (g : Nat) (q : Nat) (k : TokQueue) (s : State) :
    Law [.cores] s (setQueue g q k s) := by
  unfold setQueue
  repeat' (first
    | extract_lets | with_reducible exact Law.refl _ _ | with_reducible assumption | with_reducible apply Law.step (updCore_law _ _ _)
    | with_reducible refine Law.foldl _ _ _ ?_ ?_ | (show (_ : List Part) ⊆ _; decide) | (show (_ : List Part) ⊆ _; decide) | (intro _)
    | split | (dsimp +zetaDelta only [id]))

theorem setOte_law (g : Nat) (e : Nat) (o : Ote) (s : State) :
    Law [.cores] s (setOte g e o s) := by
  unfold setOte
  repeat' (first
    | extract_lets | with_reducible exact Law.refl _ _ | with_reducible assumption | with_reducible apply Law.step (updCore_law _ _ _)
    | with_reducible refine Law.foldl _ _ _ ?_ ?_ | (show (_ : List Part) ⊆ _; decide) | (show (_ : List Part) ⊆ _; decide) | (intro _)
    | split | (dsimp +zetaDelta only [id]))

theorem updOte_law (g : Nat) (e : Nat) (f : Ote → Ote) (s : State) :
    Law [.cores] s (updOte g e f s) := by
  unfold updOte
  repeat' (first
    | extract_lets | with_reducible exact Law.refl _ _ | with_reducible assumption | with_reducible apply Law.step (setOte_law _ _ _ _)
    | with_reducible refine Law.foldl _ _ _ ?_ ?_ | (show (_ : List Part) ⊆ _; decide) | (show (_ : List Part) ⊆ _; decide) | (intro _)
    | split | (dsimp +zetaDelta only [id]))

theorem setClu_law (c : Nat) (k : CluSt) (s : State) :
    Law [.clus] s (setClu c k s) := by
  unfold setClu
  repeat' (first
    | extract_lets | with_reducible exact Law.refl _ _ | with_reducible assumption | with_reducible refine Law.foldl _ _ _ ?_ ?_
    | (show (_ : List Part) ⊆ _; decide) | (show (_ : List Part) ⊆ _; decide) | (intro _) | split
    | with_reducible refine Law.set_clus _ (by decide) ?_ | (dsimp +zetaDelta only [id]))

theorem updClu_law (c : Nat) (f : CluSt → CluSt) (s : State) :
    Law [.clus] s (updClu c f s) := by
  unfold updClu
  repeat' (first
    | extract_lets | with_reducible exact Law.refl _ _ | with_reducible assumption | with_reducible apply Law.step (setClu_law _ _ _)
    | with_reducible refine Law.foldl _ _ _ ?_ ?_ | (show (_ : List Part) ⊆ _; decide) | (show (_ : List Part) ⊆ _; decide) | (intro _)
    | split | (dsimp +zetaDelta only [id]))

theorem setCtx_law (c : Nat) (x : CtxSt) (s : State) :
    Law [.ctxs] s (setCtx c x s) := by
  unfold setCtx
  repeat' (first
    | extract_lets | with_reducible exact Law.refl _ _ | with_reducible assumption | with_reducible refine Law.foldl _ _ _ ?_ ?_
    | (show (_ : List Part) ⊆ _; decide) | (show (_ : List Part) ⊆ _; decide) | (intro _) | split
    | with_reducible refine Law.set_ctxs _ (by decide) ?_ | (dsimp +zetaDelta only [id]))

theorem updCtx_law (c : Nat) (f : CtxSt → CtxSt) (s : State) :
    Law [.ctxs] s (updCtx c f s) := by
  unfold updCtx
  repeat' (first
    | extract_lets | with_reducible exact Law.refl _ _ | with_reducible assumption | with_reducible apply Law.step (setCtx_law _ _ _)
    | with_reducible refine Law.foldl _ _ _ ?_ ?_ | (show (_ : List Part) ⊆ _; decide) | (show (_ : List Part) ⊆ _; decide) | (intro _)
    | split | (dsimp +zetaDelta only [id]))

theorem setRing_law (r : Nat) (k : RingSt) (s : State) :
    Law [.hst] s (setRing r k s) := by
  unfold setRing
  repeat' (first
    | extract_lets | with_reducible exact Law.refl _ _ | with_reducible assumption | with_reducible refine Law.foldl _ _ _ ?_ ?_
    | (show (_ : List Part) ⊆ _; decide) | (show (_ : List Part) ⊆ _; decide) | (intro _) | split
    | with_reducible refine Law.set_hst _ (by decide) ?_ | (dsimp +zetaDelta only [id]))

theorem updRing_law (r : Nat) (f : RingSt → RingSt) (s : State) :
    Law [.hst] s (updRing r f s) := by
  unfold updRing
  repeat' (first
    | extract_lets | with_reducible exact Law.refl _ _ | with_reducible assumption | with_reducible apply Law.step (setRing_law _ _ _)
    | with_reducible refine Law.foldl _ _ _ ?_ ?_ | (show (_ : List Part) ⊆ _; decide) | (show (_ : List Part) ⊆ _; decide) | (intro _)
    | split | (dsimp +zetaDelta only [id]))

theorem setChan_law (n : Nat) (k : DdrChan) (s : State) :
    Law [.ddr] s (setChan n k s) := by
  unfold setChan
  repeat' (first
    | extract_lets | with_reducible exact Law.refl _ _ | with_reducible assumption | with_reducible refine Law.foldl _ _ _ ?_ ?_
    | (show (_ : List Part) ⊆ _; decide) | (show (_ : List Part) ⊆ _; decide) | (intro _) | split
    | with_reducible refine Law.set_ddr _ (by decide) ?_ | (dsimp +zetaDelta only [id]))

theorem updChan_law (n : Nat) (f : DdrChan → DdrChan) (s : State) :
    Law [.ddr] s (updChan n f s) := by
  unfold updChan
  repeat' (first
    | extract_lets | with_reducible exact Law.refl _ _ | with_reducible assumption | with_reducible apply Law.step (setChan_law _ _ _)
    | with_reducible refine Law.foldl _ _ _ ?_ ?_ | (show (_ : List Part) ⊆ _; decide) | (show (_ : List Part) ⊆ _; decide) | (intro _)
    | split | (dsimp +zetaDelta only [id]))

theorem coreFault_law (g : Nat) (i : Nat) (s : State) :
    Law [.cores] s (coreFault g i s) := by
  unfold coreFault
  repeat' (first
    | extract_lets | with_reducible exact Law.refl _ _ | with_reducible assumption | with_reducible apply Law.step (updCore_law _ _ _)
    | with_reducible refine Law.foldl _ _ _ ?_ ?_ | (show (_ : List Part) ⊆ _; decide) | (show (_ : List Part) ⊆ _; decide) | (intro _)
    | split | (dsimp +zetaDelta only [id]))

theorem cluFault_law (c : Nat) (i : Nat) (s : State) :
    Law [.clus] s (cluFault c i s) := by
  unfold cluFault
  repeat' (first
    | extract_lets | with_reducible exact Law.refl _ _ | with_reducible assumption | with_reducible apply Law.step (updClu_law _ _ _)
    | with_reducible refine Law.foldl _ _ _ ?_ ?_ | (show (_ : List Part) ⊆ _; decide) | (show (_ : List Part) ⊆ _; decide) | (intro _)
    | split | (dsimp +zetaDelta only [id]))

theorem after_law {L : List Part} {s₀ : State} (o : Out) (s : State) (h : OutLaw L s₀ o) : Law L s₀ (after o s) := by
  obtain ⟨t, rfl, h⟩ := h
  exact h

theorem send_law (ch : Chan_) (kind : Nat) (args : List Nat) (s : State) :
    Law [.sent] s (send ch kind args s) := by
  unfold send
  repeat' (first
    | extract_lets | with_reducible exact Law.refl _ _ | with_reducible assumption | with_reducible refine Law.foldl _ _ _ ?_ ?_
    | (show (_ : List Part) ⊆ _; decide) | (show (_ : List Part) ⊆ _; decide) | (intro _) | split
    | with_reducible refine Law.set_sent _ (by decide) ?_ | (dsimp +zetaDelta only [id]))

theorem countAt_law (base : Nat) (k : Nat) (ev : Nat) (qual : Nat) (n : Nat) (ranged : Bool) (s : State) :
    Law [.tally] s (countAt base k ev qual n ranged s) := by
  unfold countAt
  repeat' (first
    | extract_lets | with_reducible exact Law.refl _ _ | with_reducible assumption | with_reducible refine Law.foldl _ _ _ ?_ ?_
    | (show (_ : List Part) ⊆ _; decide) | (show (_ : List Part) ⊆ _; decide) | (intro _) | split
    | with_reducible refine Law.set_tally _ (by decide) ?_ | (dsimp +zetaDelta only [id]))

theorem countCore_law (g : Nat) (ev : Nat) (qual : Nat) (s : State) :
    Law [.tally] s (countCore g ev qual s) := by
  unfold countCore
  repeat' (first
    | extract_lets | with_reducible exact Law.refl _ _ | with_reducible assumption
    | with_reducible apply Law.step (countAt_law _ _ _ _ _ _ _) | with_reducible refine Law.foldl _ _ _ ?_ ?_
    | (show (_ : List Part) ⊆ _; decide) | (show (_ : List Part) ⊆ _; decide) | (intro _) | split | (dsimp +zetaDelta only [id]))

theorem countCoreN_law (g : Nat) (ev : Nat) (qual : Nat) (n : Nat) (s : State) :
    Law [.tally] s (countCoreN g ev qual n s) := by
  unfold countCoreN
  repeat' (first
    | extract_lets | with_reducible exact Law.refl _ _ | with_reducible assumption
    | with_reducible apply Law.step (countAt_law _ _ _ _ _ _ _) | with_reducible refine Law.foldl _ _ _ ?_ ?_
    | (show (_ : List Part) ⊆ _; decide) | (show (_ : List Part) ⊆ _; decide) | (intro _) | split | (dsimp +zetaDelta only [id]))

theorem countClu_law (c : Nat) (ev : Nat) (qual : Nat) (s : State) :
    Law [.tally] s (countClu c ev qual s) := by
  unfold countClu
  repeat' (first
    | extract_lets | with_reducible exact Law.refl _ _ | with_reducible assumption
    | with_reducible apply Law.step (countAt_law _ _ _ _ _ _ _) | with_reducible refine Law.foldl _ _ _ ?_ ?_
    | (show (_ : List Part) ⊆ _; decide) | (show (_ : List Part) ⊆ _; decide) | (intro _) | split | (dsimp +zetaDelta only [id]))

theorem countFab_law (p : Nat) (ev : Nat) (qual : Nat) (s : State) :
    Law [.tally] s (countFab p ev qual s) := by
  unfold countFab
  repeat' (first
    | extract_lets | with_reducible exact Law.refl _ _ | with_reducible assumption
    | with_reducible apply Law.step (countAt_law _ _ _ _ _ _ _) | with_reducible refine Law.foldl _ _ _ ?_ ?_
    | (show (_ : List Part) ⊆ _; decide) | (show (_ : List Part) ⊆ _; decide) | (intro _) | split | (dsimp +zetaDelta only [id]))

theorem countDdr_law (n : Nat) (ev : Nat) (s : State) :
    Law [.tally] s (countDdr n ev s) := by
  unfold countDdr
  repeat' (first
    | extract_lets | with_reducible exact Law.refl _ _ | with_reducible assumption
    | with_reducible apply Law.step (countAt_law _ _ _ _ _ _ _) | with_reducible refine Law.foldl _ _ _ ?_ ?_
    | (show (_ : List Part) ⊆ _; decide) | (show (_ : List Part) ⊆ _; decide) | (intro _) | split | (dsimp +zetaDelta only [id]))

theorem countHub_law (ev : Nat) (qual : Nat) (ranged : Bool) (s : State) :
    Law [.tally] s (countHub ev qual ranged s) := by
  unfold countHub
  repeat' (first
    | extract_lets | with_reducible exact Law.refl _ _ | with_reducible assumption
    | with_reducible apply Law.step (countAt_law _ _ _ _ _ _ _) | with_reducible refine Law.foldl _ _ _ ?_ ?_
    | (show (_ : List Part) ⊆ _; decide) | (show (_ : List Part) ⊆ _; decide) | (intro _) | split | (dsimp +zetaDelta only [id]))

theorem logRec_law (code : Nat) (source : Nat) (p0 : Nat) (p1 : Nat) (p2 : Nat) (p3 : Nat) (s : State) :
    Law [.tally, .log] s (logRec code source p0 p1 p2 p3 s) := by
  unfold logRec
  repeat' (first
    | extract_lets | with_reducible exact Law.refl _ _ | with_reducible assumption | with_reducible apply Law.step (countHub_law _ _ _ _)
    | with_reducible refine Law.foldl _ _ _ ?_ ?_ | (show (_ : List Part) ⊆ _; decide) | (show (_ : List Part) ⊆ _; decide) | (intro _)
    | split | with_reducible refine Law.set_log _ (by decide) ?_ | (dsimp +zetaDelta only [id]))

theorem rateMark_law (key : Nat) (s : State) :
    Law [.log] s (rateMark key s) := by
  unfold rateMark
  repeat' (first
    | extract_lets | with_reducible exact Law.refl _ _ | with_reducible assumption | with_reducible refine Law.foldl _ _ _ ?_ ?_
    | (show (_ : List Part) ⊆ _; decide) | (show (_ : List Part) ⊆ _; decide) | (intro _) | split
    | with_reducible refine Law.set_log _ (by decide) ?_ | (dsimp +zetaDelta only [id]))

theorem logRate_law (key : Nat) (period : Nat) (code : Nat) (source : Nat) (p0 : Nat) (p1 : Nat) (p2 : Nat) (p3 : Nat) (s : State) :
    Law [.tally, .log] s (logRate key period code source p0 p1 p2 p3 s) := by
  unfold logRate
  repeat' (first
    | extract_lets | with_reducible exact Law.refl _ _ | with_reducible assumption
    | with_reducible apply Law.step (logRec_law _ _ _ _ _ _ _) | with_reducible apply Law.step (rateMark_law _ _)
    | with_reducible refine Law.foldl _ _ _ ?_ ?_ | (show (_ : List Part) ⊆ _; decide) | (show (_ : List Part) ⊆ _; decide) | (intro _)
    | split | (dsimp +zetaDelta only [id]))

theorem logCore_law (g : Nat) (low : Nat) (p0 : Nat) (p1 : Nat) (p2 : Nat) (p3 : Nat) (s : State) :
    Law [.tally, .log] s (logCore g low p0 p1 p2 p3 s) := by
  unfold logCore
  repeat' (first
    | extract_lets | with_reducible exact Law.refl _ _ | with_reducible assumption
    | with_reducible apply Law.step (logRec_law _ _ _ _ _ _ _) | with_reducible refine Law.foldl _ _ _ ?_ ?_
    | (show (_ : List Part) ⊆ _; decide) | (show (_ : List Part) ⊆ _; decide) | (intro _) | split | (dsimp +zetaDelta only [id]))

theorem logClu_law (c : Nat) (low : Nat) (p0 : Nat) (p1 : Nat) (p2 : Nat) (p3 : Nat) (s : State) :
    Law [.tally, .log] s (logClu c low p0 p1 p2 p3 s) := by
  unfold logClu
  repeat' (first
    | extract_lets | with_reducible exact Law.refl _ _ | with_reducible assumption
    | with_reducible apply Law.step (logRec_law _ _ _ _ _ _ _) | with_reducible refine Law.foldl _ _ _ ?_ ?_
    | (show (_ : List Part) ⊆ _; decide) | (show (_ : List Part) ⊆ _; decide) | (intro _) | split | (dsimp +zetaDelta only [id]))

theorem sampTick_law (g : Nat) (st : Nat) (r : Stream) (s : State) :
    Law [.cores] s (sampTick g st r s) := by
  unfold sampTick
  repeat' (first
    | extract_lets | with_reducible exact Law.refl _ _ | with_reducible assumption | with_reducible apply Law.step (updCore_law _ _ _)
    | with_reducible refine Law.foldl _ _ _ ?_ ?_ | (show (_ : List Part) ⊆ _; decide) | (show (_ : List Part) ⊆ _; decide) | (intro _)
    | split | (dsimp +zetaDelta only [id]))

theorem issued_law (g : Nat) (st : Nat) (s : State) :
    Law [.cores, .tally] s (issued g st s) := by
  unfold issued
  repeat' (first
    | extract_lets | with_reducible exact Law.refl _ _ | with_reducible assumption | with_reducible apply Law.step (updStrm_law _ _ _ _)
    | with_reducible apply Law.step (countCore_law _ _ _ _) | with_reducible apply Law.step (sampTick_law _ _ _ _)
    | with_reducible refine Law.foldl _ _ _ ?_ ?_ | (show (_ : List Part) ⊆ _; decide) | (show (_ : List Part) ⊆ _; decide) | (intro _)
    | split | (dsimp +zetaDelta only [id]))

theorem enableLost_law (off : Nat) (at_ : Nat) (state : Nat) (s : State) :
    Law [.tally, .log] s (enableLost off at_ state s) := by
  unfold enableLost
  repeat' (first
    | extract_lets | with_reducible exact Law.refl _ _ | with_reducible assumption
    | with_reducible apply Law.step (logRec_law _ _ _ _ _ _ _) | with_reducible refine Law.foldl _ _ _ ?_ ?_
    | (show (_ : List Part) ⊆ _; decide) | (show (_ : List Part) ⊆ _; decide) | (intro _) | split | (dsimp +zetaDelta only [id]))

end Sys2Proof.Machine
end

