-- ==== Sys2Proof/Laws/Link0.lean ====
section
/-! SUPPORT. What each operation of Machine/Link0.lean may touch, one lemma for each, and that it keeps memory in its canonical form. -/

set_option maxRecDepth 4000
set_option linter.all false

namespace Sys2Proof.Machine

theorem setFab_law (p : Nat) (f : FabSt) (s : State) :
    Law [.fab] s (setFab p f s) := by
  unfold setFab
  repeat' (first
    | extract_lets | with_reducible exact Law.refl _ _ | with_reducible assumption | with_reducible refine Law.foldl _ _ _ ?_ ?_
    | (show (_ : List Part) ⊆ _; decide) | (show (_ : List Part) ⊆ _; decide) | (intro _) | split
    | with_reducible refine Law.set_fab _ (by decide) ?_ | (dsimp +zetaDelta only [id]))

theorem updFab_law (p : Nat) (f : FabSt → FabSt) (s : State) :
    Law [.fab] s (updFab p f s) := by
  unfold updFab
  repeat' (first
    | extract_lets | with_reducible exact Law.refl _ _ | with_reducible assumption | with_reducible apply Law.step (setFab_law _ _ _)
    | with_reducible refine Law.foldl _ _ _ ?_ ?_ | (show (_ : List Part) ⊆ _; decide) | (show (_ : List Part) ⊆ _; decide) | (intro _)
    | split | (dsimp +zetaDelta only [id]))

theorem setPair_law (p : Nat) (l : Nat) (k : Pair) (s : State) :
    Law [.fab] s (setPair p l k s) := by
  unfold setPair
  repeat' (first
    | extract_lets | with_reducible exact Law.refl _ _ | with_reducible assumption | with_reducible apply Law.step (updFab_law _ _ _)
    | with_reducible refine Law.foldl _ _ _ ?_ ?_ | (show (_ : List Part) ⊆ _; decide) | (show (_ : List Part) ⊆ _; decide) | (intro _)
    | split | (dsimp +zetaDelta only [id]))

theorem updPair_law (p : Nat) (l : Nat) (f : Pair → Pair) (s : State) :
    Law [.fab] s (updPair p l f s) := by
  unfold updPair
  repeat' (first
    | extract_lets | with_reducible exact Law.refl _ _ | with_reducible assumption | with_reducible apply Law.step (setPair_law _ _ _ _)
    | with_reducible refine Law.foldl _ _ _ ?_ ?_ | (show (_ : List Part) ⊆ _; decide) | (show (_ : List Part) ⊆ _; decide) | (intro _)
    | split | (dsimp +zetaDelta only [id]))

theorem setTx_law (p : Nat) (l : Nat) (k : LaneSt) (s : State) :
    Law [.fab] s (setTx p l k s) := by
  unfold setTx
  repeat' (first
    | extract_lets | with_reducible exact Law.refl _ _ | with_reducible assumption | with_reducible apply Law.step (updFab_law _ _ _)
    | with_reducible refine Law.foldl _ _ _ ?_ ?_ | (show (_ : List Part) ⊆ _; decide) | (show (_ : List Part) ⊆ _; decide) | (intro _)
    | split | (dsimp +zetaDelta only [id]))

theorem setRx_law (p : Nat) (l : Nat) (k : LaneSt) (s : State) :
    Law [.fab] s (setRx p l k s) := by
  unfold setRx
  repeat' (first
    | extract_lets | with_reducible exact Law.refl _ _ | with_reducible assumption | with_reducible apply Law.step (updFab_law _ _ _)
    | with_reducible refine Law.foldl _ _ _ ?_ ?_ | (show (_ : List Part) ⊆ _; decide) | (show (_ : List Part) ⊆ _; decide) | (intro _)
    | split | (dsimp +zetaDelta only [id]))

theorem logFab_law (p : Nat) (low : Nat) (l : Nat) (p0 : Nat) (p1 : Nat) (p2 : Nat) (p3 : Nat) (s : State) :
    Law [.tally, .log] s (logFab p low l p0 p1 p2 p3 s) := by
  unfold logFab
  repeat' (first
    | extract_lets | with_reducible exact Law.refl _ _ | with_reducible assumption
    | with_reducible apply Law.step (logRec_law _ _ _ _ _ _ _) | with_reducible refine Law.foldl _ _ _ ?_ ?_
    | (show (_ : List Part) ⊆ _; decide) | (show (_ : List Part) ⊆ _; decide) | (intro _) | split | (dsimp +zetaDelta only [id]))

theorem logFabRate_law (period : Nat) (p : Nat) (low : Nat) (l : Nat) (p0 : Nat) (p1 : Nat) (p2 : Nat) (p3 : Nat) (s : State) :
    Law [.tally, .log] s (logFabRate period p low l p0 p1 p2 p3 s) := by
  unfold logFabRate
  repeat' (first
    | extract_lets | with_reducible exact Law.refl _ _ | with_reducible assumption
    | with_reducible apply Law.step (logRate_law _ _ _ _ _ _ _ _ _) | with_reducible refine Law.foldl _ _ _ ?_ ?_
    | (show (_ : List Part) ⊆ _; decide) | (show (_ : List Part) ⊆ _; decide) | (intro _) | split | (dsimp +zetaDelta only [id]))

theorem enqueue_law (p : Nat) (l : Nat) (fs : List Flit) (s : State) :
    Law [.fab] s (enqueue p l fs s) := by
  unfold enqueue
  repeat' (first
    | extract_lets | with_reducible exact Law.refl _ _ | with_reducible assumption | with_reducible apply Law.step (updPair_law _ _ _ _)
    | with_reducible refine Law.foldl _ _ _ ?_ ?_ | (show (_ : List Part) ⊆ _; decide) | (show (_ : List Part) ⊆ _; decide) | (intro _)
    | split | (dsimp +zetaDelta only [id]))

theorem sendCtrl_law (m : Nat) (kind : Nat) (bs : List Byte) (s : State) :
    Law [.fab, .link] s (sendCtrl m kind bs s) := by
  unfold sendCtrl
  repeat' (first
    | extract_lets | with_reducible exact Law.refl _ _ | with_reducible assumption | with_reducible apply Law.step (enqueue_law _ _ _ _)
    | with_reducible refine Law.foldl _ _ _ ?_ ?_ | (show (_ : List Part) ⊆ _; decide) | (show (_ : List Part) ⊆ _; decide) | (intro _)
    | split | with_reducible refine Law.set_link _ (by decide) ?_ | (dsimp +zetaDelta only [id]))

theorem sendFlit_law (p : Nat) (l : Nat) (type : Nat) (tc : Nat) (seq : Nat) (tag : Nat × Nat × Bool) (payload : List Byte) (s : State) :
    Law [.tally, .sent] s (sendFlit p l type tc seq tag payload s) := by
  unfold sendFlit
  repeat' (first
    | extract_lets | with_reducible exact Law.refl _ _ | with_reducible assumption | with_reducible apply Law.step (send_law _ _ _ _)
    | with_reducible apply Law.step (countFab_law _ _ _ _) | with_reducible refine Law.foldl _ _ _ ?_ ?_
    | (show (_ : List Part) ⊆ _; decide) | (show (_ : List Part) ⊆ _; decide) | (intro _) | split | (dsimp +zetaDelta only [id]))

theorem issueLane_law (p : Nat) (l : Nat) (retrain : Bool) (s : State) :
    Law [.tally, .fab, .sent] s (issueLane p l retrain s) := by
  unfold issueLane
  repeat' (first
    | extract_lets | with_reducible exact Law.refl _ _ | with_reducible assumption | with_reducible apply Law.step (setPair_law _ _ _ _)
    | with_reducible apply Law.step (sendFlit_law _ _ _ _ _ _ _ _) | with_reducible refine Law.foldl _ _ _ ?_ ?_
    | (show (_ : List Part) ⊆ _; decide) | (show (_ : List Part) ⊆ _; decide) | (intro _) | split | (dsimp +zetaDelta only [id]))

theorem sendPhase_law (p : Nat) (l : Nat) (phase : Nat) (s : State) :
    Law [.sent] s (sendPhase p l phase s) := by
  unfold sendPhase
  repeat' (first
    | extract_lets | with_reducible exact Law.refl _ _ | with_reducible assumption | with_reducible apply Law.step (send_law _ _ _ _)
    | with_reducible refine Law.foldl _ _ _ ?_ ?_ | (show (_ : List Part) ⊆ _; decide) | (show (_ : List Part) ⊆ _; decide) | (intro _)
    | split | (dsimp +zetaDelta only [id]))

theorem sendTrain_law (p : Nat) (l : Nat) (s : State) :
    Law [.fab, .sent] s (sendTrain p l s) := by
  unfold sendTrain
  repeat' (first
    | extract_lets | with_reducible exact Law.refl _ _ | with_reducible assumption | with_reducible apply Law.step (updPair_law _ _ _ _)
    | with_reducible apply Law.step (sendPhase_law _ _ _ _) | with_reducible refine Law.foldl _ _ _ ?_ ?_
    | (show (_ : List Part) ⊆ _; decide) | (show (_ : List Part) ⊆ _; decide) | (intro _) | split | (dsimp +zetaDelta only [id]))

end Sys2Proof.Machine
end

