-- ==== Sys2Proof/Laws/Ctl.lean ====
section
/-! SUPPORT. What each operation of Machine/Ctl.lean may touch, one lemma for each, and that it keeps memory in its canonical form. -/

set_option maxRecDepth 4000
set_option linter.all false

namespace Sys2Proof.Machine

theorem ctlOut_law (dst : Nat) (kind : Nat) (id : Nat) (flags : Nat) (body : List Nat) (s : State) :
    Law [.sent] s (ctlOut dst kind id flags body s) := by
  unfold ctlOut
  repeat' (first
    | extract_lets | with_reducible exact Law.refl _ _ | with_reducible assumption | with_reducible apply Law.step (send_law _ _ _ _)
    | with_reducible refine Law.foldl _ _ _ ?_ ?_ | (show (_ : List Part) ⊆ _; decide) | (show (_ : List Part) ⊆ _; decide) | (intro _)
    | split | (dsimp +zetaDelta only [id]))

theorem ctlSend_law (dst : Nat) (kind : Nat) (body : List Nat) (s : State) :
    Law [.stew, .sent] s (ctlSend dst kind body s) := by
  unfold ctlSend
  repeat' (first
    | extract_lets | with_reducible exact Law.refl _ _ | with_reducible assumption
    | with_reducible apply Law.step (ctlOut_law _ _ _ _ _ _) | with_reducible refine Law.foldl _ _ _ ?_ ?_
    | (show (_ : List Part) ⊆ _; decide) | (show (_ : List Part) ⊆ _; decide) | (intro _) | split
    | with_reducible refine Law.set_stew _ (by decide) ?_ | (dsimp +zetaDelta only [id]))

theorem twinSend_law (kind : Nat) (body : List Nat) (s : State) :
    Law [.sent] s (twinSend kind body s) := by
  unfold twinSend
  repeat' (first
    | extract_lets | with_reducible exact Law.refl _ _ | with_reducible assumption | with_reducible apply Law.step (send_law _ _ _ _)
    | with_reducible refine Law.foldl _ _ _ ?_ ?_ | (show (_ : List Part) ⊆ _; decide) | (show (_ : List Part) ⊆ _; decide) | (intro _)
    | split | (dsimp +zetaDelta only [id]))

theorem report_law (body : List Nat) (s : State) :
    Law [.stew, .sent] s (report body s) := by
  unfold report
  repeat' (first
    | extract_lets | with_reducible exact Law.refl _ _ | with_reducible assumption | with_reducible apply Law.step (ctlSend_law _ _ _ _)
    | with_reducible refine Law.foldl _ _ _ ?_ ?_ | (show (_ : List Part) ⊆ _; decide) | (show (_ : List Part) ⊆ _; decide) | (intro _)
    | split | with_reducible refine Law.set_stew _ (by decide) ?_ | (dsimp +zetaDelta only [id]))

end Sys2Proof.Machine
end

