-- ==== Sys2Proof/Laws/Stripe.lean ====
section
/-! SUPPORT. What each operation of Machine/Stripe.lean may touch, one lemma for each, and that it keeps memory in its canonical form. -/

set_option maxRecDepth 4000
set_option linter.all false

namespace Sys2Proof.Machine

theorem countWrites_law (ds : List Nat) (s : State) :
    Law [.tally] s (countWrites ds s) := by
  unfold countWrites
  repeat' (first
    | extract_lets | with_reducible exact Law.refl _ _ | with_reducible assumption | with_reducible apply Law.step (countDdr_law _ _ _)
    | with_reducible refine Law.foldl _ _ _ ?_ ?_ | (show (_ : List Part) ⊆ _; decide) | (show (_ : List Part) ⊆ _; decide) | (intro _)
    | split | (dsimp +zetaDelta only [id]))

theorem countReads_law (ds : List Nat) (s : State) :
    Law [.tally] s (countReads ds s) := by
  unfold countReads
  repeat' (first
    | extract_lets | with_reducible exact Law.refl _ _ | with_reducible assumption | with_reducible apply Law.step (countDdr_law _ _ _)
    | with_reducible refine Law.foldl _ _ _ ?_ ?_ | (show (_ : List Part) ⊆ _; decide) | (show (_ : List Part) ⊆ _; decide) | (intro _)
    | split | (dsimp +zetaDelta only [id]))

theorem parityGood_law (st : Nat) (ds : List Nat) (s : State) :
    Law [.ddr] s (parityGood st ds s) := by
  unfold parityGood
  repeat' (first
    | extract_lets | with_reducible exact Law.refl _ _ | with_reducible assumption | with_reducible refine Law.foldl _ _ _ ?_ ?_
    | (show (_ : List Part) ⊆ _; decide) | (show (_ : List Part) ⊆ _; decide) | (intro _) | split
    | with_reducible refine Law.set_ddr _ (by decide) ?_ | (dsimp +zetaDelta only [id]))

theorem fullStripe_law (st : Nat) (ds : List Nat) (s : State) :
    Law [.ddr, .tally] s (fullStripe st ds s) := by
  unfold fullStripe
  repeat' (first
    | extract_lets | with_reducible exact Law.refl _ _ | with_reducible assumption | with_reducible apply Law.step (countDdr_law _ _ _)
    | with_reducible apply Law.step (countWrites_law _ _) | with_reducible apply Law.step (parityGood_law _ _ _)
    | with_reducible refine Law.foldl _ _ _ ?_ ?_ | (show (_ : List Part) ⊆ _; decide) | (show (_ : List Part) ⊆ _; decide) | (intro _)
    | split | (dsimp +zetaDelta only [id]))

theorem partialStripe_law (st : Nat) (ds : List Nat) (us : List Nat) (s : State) :
    Law [.freeCtr, .ddr, .tally] s (partialStripe st ds us s) := by
  unfold partialStripe
  dsimp only [drawFree]
  repeat' (first
    | extract_lets | with_reducible exact Law.refl _ _ | with_reducible assumption | with_reducible apply Law.step (countDdr_law _ _ _)
    | with_reducible apply Law.step (countWrites_law _ _) | with_reducible apply Law.step (countReads_law _ _)
    | with_reducible apply Law.step (parityGood_law _ _ _) | with_reducible refine Law.foldl _ _ _ ?_ ?_
    | (show (_ : List Part) ⊆ _; decide) | (show (_ : List Part) ⊆ _; decide) | (intro _) | split
    | with_reducible refine Law.set_freeCtr _ (by decide) ?_ | (dsimp +zetaDelta only [id]))

theorem flushStripe_law (g : Gather) (s : State) :
    Law [.freeCtr, .ddr, .tally] s (flushStripe g s) := by
  unfold flushStripe
  repeat' (first
    | extract_lets | with_reducible exact Law.refl _ _ | with_reducible assumption | with_reducible apply Law.step (fullStripe_law _ _ _)
    | with_reducible apply Law.step (partialStripe_law _ _ _ _) | with_reducible refine Law.foldl _ _ _ ?_ ?_
    | (show (_ : List Part) ⊆ _; decide) | (show (_ : List Part) ⊆ _; decide) | (intro _) | split
    | with_reducible refine Law.set_ddr _ (by decide) ?_ | (dsimp +zetaDelta only [id]))

theorem gatherUnit_law (u : Nat) (mask : Nat) (s : State) :
    Law [.freeCtr, .ddr, .tally] s (gatherUnit u mask s) := by
  unfold gatherUnit
  repeat' (first
    | extract_lets | with_reducible exact Law.refl _ _ | with_reducible assumption | with_reducible apply Law.step (flushStripe_law _ _)
    | with_reducible refine Law.foldl _ _ _ ?_ ?_ | (show (_ : List Part) ⊆ _; decide) | (show (_ : List Part) ⊆ _; decide) | (intro _)
    | split | with_reducible refine Law.set_ddr _ (by decide) ?_ | (dsimp +zetaDelta only [id]))

theorem gatherRange_law (off : Nat) (len : Nat) (s : State) :
    Law [.freeCtr, .ddr, .tally] s (gatherRange off len s) := by
  unfold gatherRange
  repeat' (first
    | extract_lets | with_reducible exact Law.refl _ _ | with_reducible assumption | with_reducible apply Law.step (gatherUnit_law _ _ _)
    | with_reducible refine Law.foldl _ _ _ ?_ ?_ | (show (_ : List Part) ⊆ _; decide) | (show (_ : List Part) ⊆ _; decide) | (intro _)
    | split | with_reducible refine Law.set_ddr _ (by decide) ?_ | (dsimp +zetaDelta only [id]))

theorem stripeRange_law (ds : List Nat) (lo : Nat) (hi : Nat) (s : State) :
    Law [.freeCtr, .ddr, .tally] s (stripeRange ds lo hi s) := by
  unfold stripeRange
  repeat' (first
    | extract_lets | with_reducible exact Law.refl _ _ | with_reducible assumption | with_reducible apply Law.step (fullStripe_law _ _ _)
    | with_reducible apply Law.step (partialStripe_law _ _ _ _) | with_reducible refine Law.foldl _ _ _ ?_ ?_
    | (show (_ : List Part) ⊆ _; decide) | (show (_ : List Part) ⊆ _; decide) | (intro _) | split | (dsimp +zetaDelta only [id]))

end Sys2Proof.Machine
end

