-- ==== Sys2Proof/Laws/Hub.lean ====
section
/-! SUPPORT. What each operation of Machine/Hub.lean may touch, one lemma for each, and that it keeps memory in its canonical form. -/

set_option maxRecDepth 4000
set_option linter.all false

namespace Sys2Proof.Machine

theorem sendMsix_law (v : Nat) (s : State) :
    Law [.hst, .tally, .sent] s (sendMsix v s) := by
  unfold sendMsix
  repeat' (first
    | extract_lets | with_reducible exact Law.refl _ _ | with_reducible assumption | with_reducible apply Law.step (send_law _ _ _ _)
    | with_reducible apply Law.step (countHub_law _ _ _ _) | with_reducible refine Law.foldl _ _ _ ?_ ?_
    | (show (_ : List Part) ⊆ _; decide) | (show (_ : List Part) ⊆ _; decide) | (intro _) | split
    | with_reducible refine Law.set_hst _ (by decide) ?_ | (dsimp +zetaDelta only [id]))

theorem putCq_law (r : Nat) (bs : List Byte) (s : State) : Law [.host, .hst, .tally, .sent] s (putCq r bs s) := by
  unfold putCq
  extract_lets k rec at_ tail h0 s1 n fire k2 s2
  have h1 : Law [.host, .hst, .tally, .sent] s s1 := by
    show Law _ s (if canDma s = true then countHub 9 0 false (writeMem at_ rec s) else _)
    split
    · exact Law.step (countHub_law _ _ _ _) (by decide) (Law.set_host _ _ (by decide) (Law.refl _ _))
    · exact Law.set_hst _ (by decide) (Law.refl _ _)
  have h2 : Law [.host, .hst, .tally, .sent] s s2 := Law.step (countHub_law _ _ _ _) (by decide) (Law.step (setRing_law _ _ _) (by decide) h1)
  clear_value s2
  split
  · exact Law.step (sendMsix_law _ _) (by decide) h2
  · exact h2

theorem complete_law (r : Nat) (e : Entry) (status : Nat) (result : List Byte) (s : State) :
    Law [.host, .hst, .tally, .sent] s (complete r e status result s) := by
  unfold complete
  repeat' (first
    | extract_lets | with_reducible exact Law.refl _ _ | with_reducible assumption | with_reducible apply Law.step (putCq_law _ _ _)
    | with_reducible apply Law.step (updRing_law _ _ _) | with_reducible refine Law.foldl _ _ _ ?_ ?_ | (show (_ : List Part) ⊆ _; decide)
    | (show (_ : List Part) ⊆ _; decide) | (intro _) | split | (dsimp +zetaDelta only [id]))

theorem dropEvent_law (s : State) :
    Law [.hst, .tally] s (dropEvent s) := by
  unfold dropEvent
  repeat' (first
    | extract_lets | with_reducible exact Law.refl _ _ | with_reducible assumption | with_reducible apply Law.step (countHub_law _ _ _ _)
    | with_reducible refine Law.foldl _ _ _ ?_ ?_ | (show (_ : List Part) ⊆ _; decide) | (show (_ : List Part) ⊆ _; decide) | (intro _)
    | split | with_reducible refine Law.set_hst _ (by decide) ?_ | (dsimp +zetaDelta only [id]))

theorem postEvent_law (code : Nat) (source : Nat) (c : Option Nat) (p0 : Nat) (p1 : Nat) (p2 : Nat) (p3 : Nat) (s : State) :
    Law [.host, .hst, .tally, .sent] s (postEvent code source c p0 p1 p2 p3 s) := by
  unfold postEvent
  repeat' (first
    | extract_lets | with_reducible exact Law.refl _ _ | with_reducible assumption | with_reducible apply Law.step (putCq_law _ _ _)
    | with_reducible apply Law.step (dropEvent_law _) | with_reducible refine Law.foldl _ _ _ ?_ ?_ | (show (_ : List Part) ⊆ _; decide)
    | (show (_ : List Part) ⊆ _; decide) | (intro _) | split | with_reducible refine Law.set_hst _ (by decide) ?_
    | (dsimp +zetaDelta only [id]))

theorem platformEvent_law (code : Nat) (s : State) :
    Law [.side, .sent] s (platformEvent code s) := by
  unfold platformEvent
  repeat' (first
    | extract_lets | with_reducible exact Law.refl _ _ | with_reducible assumption | with_reducible apply Law.step (send_law _ _ _ _)
    | with_reducible refine Law.foldl _ _ _ ?_ ?_ | (show (_ : List Part) ⊆ _; decide) | (show (_ : List Part) ⊆ _; decide) | (intro _)
    | split | with_reducible refine Law.set_side _ (by decide) ?_ | (dsimp +zetaDelta only [id]))

theorem announceState_law (code : Nat) (param : Nat) (s : State) :
    Law [.host, .hst, .tally, .log, .side, .sent] s (announceState code param s) := by
  unfold announceState
  repeat' (first
    | extract_lets | with_reducible exact Law.refl _ _ | with_reducible assumption
    | with_reducible apply Law.step (postEvent_law _ _ _ _ _ _ _ _) | with_reducible apply Law.step (platformEvent_law _ _)
    | with_reducible apply Law.step (logRec_law _ _ _ _ _ _ _) | with_reducible refine Law.foldl _ _ _ ?_ ?_
    | (show (_ : List Part) ⊆ _; decide) | (show (_ : List Part) ⊆ _; decide) | (intro _) | split | (dsimp +zetaDelta only [id]))

theorem completeBy_law (r : Nat) (opc : Nat) (tag : Nat) (status : Nat) (result : List Byte) (s : State) :
    Law [.host, .hst, .tally, .sent] s (completeBy r opc tag status result s) := by
  unfold completeBy
  repeat' (first
    | extract_lets | with_reducible exact Law.refl _ _ | with_reducible assumption
    | with_reducible apply Law.step (complete_law _ _ _ _ _) | with_reducible refine Law.foldl _ _ _ ?_ ?_
    | (show (_ : List Part) ⊆ _; decide) | (show (_ : List Part) ⊆ _; decide) | (intro _) | split | (dsimp +zetaDelta only [id]))

theorem completeAwaits_law (c : Nat) (status : Nat) (result : List Byte) (s : State) :
    Law [.host, .hst, .tally, .sent] s (completeAwaits c status result s) := by
  unfold completeAwaits
  repeat' (first
    | extract_lets | with_reducible exact Law.refl _ _ | with_reducible assumption
    | with_reducible apply Law.step (complete_law _ _ _ _ _) | with_reducible refine Law.foldl _ _ _ ?_ ?_
    | (show (_ : List Part) ⊆ _; decide) | (show (_ : List Part) ⊆ _; decide) | (intro _) | split | (dsimp +zetaDelta only [id]))

theorem sendGenChange_law (c : Nat) (new : Byte) (old : Byte) (s : State) :
    Law [.fab, .link] s (sendGenChange c new old s) := by
  unfold sendGenChange
  repeat' (first
    | extract_lets | with_reducible exact Law.refl _ _ | with_reducible assumption | with_reducible apply Law.step (sendCtrl_law _ _ _ _)
    | with_reducible refine Law.foldl _ _ _ ?_ ?_ | (show (_ : List Part) ⊆ _; decide) | (show (_ : List Part) ⊆ _; decide) | (intro _)
    | split | (dsimp +zetaDelta only [id]))

theorem lateDrop_law (c : Nat) (old : Byte) (s : State) :
    Law [.rst, .tally, .log] s (lateDrop c old s) := by
  unfold lateDrop
  repeat' (first
    | extract_lets | with_reducible exact Law.refl _ _ | with_reducible assumption
    | with_reducible apply Law.step (logRec_law _ _ _ _ _ _ _) | with_reducible apply Law.step (rateMark_law _ _)
    | with_reducible refine Law.foldl _ _ _ ?_ ?_ | (show (_ : List Part) ⊆ _; decide) | (show (_ : List Part) ⊆ _; decide) | (intro _)
    | split | with_reducible refine Law.set_rst _ (by decide) ?_ | (dsimp +zetaDelta only [id]))

theorem appendToken_law (g : Nat) (q : Nat) (payload : Word) (s : State) :
    Law [.cores, .tally] s (appendToken g q payload s) := by
  unfold appendToken
  repeat' (first
    | extract_lets | with_reducible exact Law.refl _ _ | with_reducible assumption | with_reducible apply Law.step (setQueue_law _ _ _ _)
    | with_reducible apply Law.step (countCore_law _ _ _ _) | with_reducible refine Law.foldl _ _ _ ?_ ?_
    | (show (_ : List Part) ⊆ _; decide) | (show (_ : List Part) ⊆ _; decide) | (intro _) | split | (dsimp +zetaDelta only [id]))

theorem rejectToken_law (g : Nat) (q : Nat) (s : State) :
    Law [.cores, .tally] s (rejectToken g q s) := by
  unfold rejectToken
  repeat' (first
    | extract_lets | with_reducible exact Law.refl _ _ | with_reducible assumption | with_reducible apply Law.step (setQueue_law _ _ _ _)
    | with_reducible apply Law.step (coreFault_law _ _ _) | with_reducible apply Law.step (countCore_law _ _ _ _)
    | with_reducible refine Law.foldl _ _ _ ?_ ?_ | (show (_ : List Part) ⊆ _; decide) | (show (_ : List Part) ⊆ _; decide) | (intro _)
    | split | (dsimp +zetaDelta only [id]))

theorem remoteToken_law (kind : Nat) (c : Nat) (gen : Byte) (g : Nat) (q : Nat) (payload : Word) (s : State) :
    Law [.cores, .rst, .tally, .log] s (remoteToken kind c gen g q payload s) := by
  unfold remoteToken
  repeat' (first
    | extract_lets | with_reducible exact Law.refl _ _ | with_reducible assumption | with_reducible apply Law.step (lateDrop_law _ _ _)
    | with_reducible apply Law.step (appendToken_law _ _ _ _) | with_reducible apply Law.step (rejectToken_law _ _ _)
    | with_reducible apply Law.step (setQueue_law _ _ _ _) | with_reducible apply Law.step (coreFault_law _ _ _)
    | with_reducible apply Law.step (countCore_law _ _ _ _) | with_reducible apply Law.step (logCore_law _ _ _ _ _ _ _)
    | with_reducible refine Law.foldl _ _ _ ?_ ?_ | (show (_ : List Part) ⊆ _; decide) | (show (_ : List Part) ⊆ _; decide) | (intro _)
    | split | (dsimp +zetaDelta only [id]))

theorem entryToken_law (kind : Nat) (r : Nat) (e : Entry) (s : State) :
    Law [.cores, .rst, .tally, .log] s (entryToken kind r e s).2 := by
  unfold entryToken
  repeat' (first
    | extract_lets | with_reducible exact Law.refl _ _ | with_reducible assumption | with_reducible apply Law.step (lateDrop_law _ _ _)
    | with_reducible apply Law.step (remoteToken_law _ _ _ _ _ _ _) | with_reducible refine Law.foldl _ _ _ ?_ ?_
    | (show (_ : List Part) ⊆ _; decide) | (show (_ : List Part) ⊆ _; decide) | (intro _) | split | (dsimp +zetaDelta only [id]))

theorem succeed_law (kind : Nat) (r : Nat) (e : Entry) (result : List Byte) (s : State) :
    Law [.host, .cores, .hst, .rst, .tally, .log, .sent] s (succeed kind r e result s) := by
  unfold succeed
  repeat' (first
    | extract_lets | with_reducible exact Law.refl _ _ | with_reducible assumption
    | with_reducible apply Law.step (complete_law _ _ _ _ _) | with_reducible apply Law.step (entryToken_law _ _ _ _)
    | with_reducible refine Law.foldl _ _ _ ?_ ?_ | (show (_ : List Part) ⊆ _; decide) | (show (_ : List Part) ⊆ _; decide) | (intro _)
    | split | (dsimp +zetaDelta only [id]))

theorem endBy_law (r : Nat) (opc : Nat) (tag : Nat) (status : Nat) (result : List Byte) (s : State) :
    Law [.host, .cores, .hst, .rst, .tally, .log, .sent] s (endBy r opc tag status result s) := by
  unfold endBy
  repeat' (first
    | extract_lets | with_reducible exact Law.refl _ _ | with_reducible assumption
    | with_reducible apply Law.step (complete_law _ _ _ _ _) | with_reducible apply Law.step (succeed_law _ _ _ _ _)
    | with_reducible refine Law.foldl _ _ _ ?_ ?_ | (show (_ : List Part) ⊆ _; decide) | (show (_ : List Part) ⊆ _; decide) | (intro _)
    | split | (dsimp +zetaDelta only [id]))

theorem satisfyAwaits_law (c : Nat) (s : State) :
    Law [.host, .cores, .hst, .rst, .tally, .log, .sent] s (satisfyAwaits c s) := by
  unfold satisfyAwaits
  repeat' (first
    | extract_lets | with_reducible exact Law.refl _ _ | with_reducible assumption | with_reducible apply Law.step (succeed_law _ _ _ _ _)
    | with_reducible refine Law.foldl _ _ _ ?_ ?_ | (show (_ : List Part) ⊆ _; decide) | (show (_ : List Part) ⊆ _; decide) | (intro _)
    | split | (dsimp +zetaDelta only [id]))

theorem copyAhead_law (a : Nat) (len : Nat) (s : State) :
    Law [.tally, .ckpt] s (copyAhead a len s) := by
  unfold copyAhead
  repeat' (first
    | extract_lets | with_reducible exact Law.refl _ _ | with_reducible assumption
    | with_reducible apply Law.step (countAt_law _ _ _ _ _ _ _) | with_reducible refine Law.foldl _ _ _ ?_ ?_
    | (show (_ : List Part) ⊆ _; decide) | (show (_ : List Part) ⊆ _; decide) | (intro _) | split
    | with_reducible refine Law.set_ckpt _ (by decide) ?_ | (dsimp +zetaDelta only [id]))

theorem store_law (a : Nat) (bs : List Byte) (s : State) :
    Law [.freeCtr, .mem, .host, .cores, .clus, .ddr, .tally, .ckpt] s (store a bs s) := by
  unfold store
  repeat' (first
    | extract_lets | with_reducible exact Law.refl _ _ | with_reducible assumption | with_reducible apply Law.step (copyAhead_law _ _ _)
    | with_reducible apply Law.step (writeMem_law _ _ _) | with_reducible apply Law.step (updCore_law _ _ _)
    | with_reducible apply Law.step (updClu_law _ _ _) | with_reducible apply Law.step (gatherRange_law _ _ _)
    | with_reducible refine Law.foldl _ _ _ ?_ ?_ | (show (_ : List Part) ⊆ _; decide) | (show (_ : List Part) ⊆ _; decide) | (intro _)
    | split | (dsimp +zetaDelta only [id]))

theorem sampleSet_law (kind : Nat) (cause : Nat) (index : Nat) (prev : Bool) (t : Nat) (gs : List Nat) (s : State) :
    Law [.freeCtr, .mem, .host, .cores, .clus, .ddr, .rst, .tally, .ckpt] s (sampleSet kind cause index prev t gs s) := by
  unfold sampleSet
  repeat' (first
    | extract_lets | with_reducible exact Law.refl _ _ | with_reducible assumption | with_reducible apply Law.step (store_law _ _ _)
    | with_reducible refine Law.foldl _ _ _ ?_ ?_ | (show (_ : List Part) ⊆ _; decide) | (show (_ : List Part) ⊆ _; decide) | (intro _)
    | split | with_reducible refine Law.set_rst _ (by decide) ?_ | (dsimp +zetaDelta only [id]))

theorem flushTiles_law (g : Nat) (e : Nat) (s : State) :
    Law [.freeCtr, .mem, .host, .cores, .clus, .ddr, .tally, .ckpt] s (flushTiles g e s) := by
  unfold flushTiles
  repeat' (first
    | extract_lets | with_reducible exact Law.refl _ _ | with_reducible assumption | with_reducible apply Law.step (store_law _ _ _)
    | with_reducible apply Law.step (updOte_law _ _ _ _) | with_reducible refine Law.foldl _ _ _ ?_ ?_
    | (show (_ : List Part) ⊆ _; decide) | (show (_ : List Part) ⊆ _; decide) | (intro _) | split | (dsimp +zetaDelta only [id]))

theorem disposeCore_law (g : Nat) (s : State) :
    Law [.freeCtr, .mem, .host, .cores, .clus, .ddr, .tally, .ckpt] s (disposeCore g s) := by
  unfold disposeCore
  repeat' (first
    | extract_lets | with_reducible exact Law.refl _ _ | with_reducible assumption | with_reducible apply Law.step (flushTiles_law _ _ _)
    | with_reducible apply Law.step (updCore_law _ _ _) | with_reducible refine Law.foldl _ _ _ ?_ ?_ | (show (_ : List Part) ⊆ _; decide)
    | (show (_ : List Part) ⊆ _; decide) | (intro _) | split | (dsimp +zetaDelta only [id]))

theorem disposeCopies_law (c : Nat) (s : State) :
    Law [.host, .clus, .ddr, .hst, .tally, .sent] s (disposeCopies c s) := by
  unfold disposeCopies
  repeat' (first
    | extract_lets | with_reducible exact Law.refl _ _ | with_reducible assumption
    | with_reducible apply Law.step (complete_law _ _ _ _ _) | with_reducible refine Law.foldl _ _ _ ?_ ?_
    | (show (_ : List Part) ⊆ _; decide) | (show (_ : List Part) ⊆ _; decide) | (intro _) | split
    | with_reducible refine Law.set_ddr _ (by decide) ?_ | with_reducible refine Law.set_clus _ (by decide) ?_
    | (dsimp +zetaDelta only [id]))

theorem releaseSync_law (c : Nat) (outcome : Nat) (s : State) :
    Law [.cores, .tally] s (releaseSync c outcome s) := by
  unfold releaseSync
  repeat' (first
    | extract_lets | with_reducible exact Law.refl _ _ | with_reducible assumption | with_reducible apply Law.step (setStrm_law _ _ _ _)
    | with_reducible apply Law.step (issued_law _ _ _) | with_reducible refine Law.foldl _ _ _ ?_ ?_ | (show (_ : List Part) ⊆ _; decide)
    | (show (_ : List Part) ⊆ _; decide) | (intro _) | split | (dsimp +zetaDelta only [id]))

theorem withdrawSync_law (g : Nat) (st : Nat) (s : State) :
    Law [.cores, .ctxs] s (withdrawSync g st s) := by
  unfold withdrawSync
  repeat' (first
    | extract_lets | with_reducible exact Law.refl _ _ | with_reducible assumption | with_reducible apply Law.step (updStrm_law _ _ _ _)
    | with_reducible apply Law.step (updCtx_law _ _ _) | with_reducible refine Law.foldl _ _ _ ?_ ?_ | (show (_ : List Part) ⊆ _; decide)
    | (show (_ : List Part) ⊆ _; decide) | (intro _) | split | (dsimp +zetaDelta only [id]))

theorem completeMode_law (m : StagedMode) (status : Nat) (result : List Byte) (s : State) :
    Law [.host, .hst, .tally, .sent] s (completeMode m status result s) := by
  unfold completeMode
  repeat' (first
    | extract_lets | with_reducible exact Law.refl _ _ | with_reducible assumption
    | with_reducible apply Law.step (complete_law _ _ _ _ _) | with_reducible refine Law.foldl _ _ _ ?_ ?_
    | (show (_ : List Part) ⊆ _; decide) | (show (_ : List Part) ⊆ _; decide) | (intro _) | split | (dsimp +zetaDelta only [id]))

theorem modeAbort_law (c : Nat) (cause : Nat) (s : State) :
    Law [.host, .cores, .ctxs, .hst, .tally, .log, .sent] s (modeAbort c cause s) := by
  unfold modeAbort
  repeat' (first
    | extract_lets | with_reducible exact Law.refl _ _ | with_reducible assumption | with_reducible apply Law.step (releaseSync_law _ _ _)
    | with_reducible apply Law.step (completeMode_law _ _ _ _) | with_reducible apply Law.step (updCtx_law _ _ _)
    | with_reducible apply Law.step (logCore_law _ _ _ _ _ _ _) | with_reducible refine Law.foldl _ _ _ ?_ ?_
    | (show (_ : List Part) ⊆ _; decide) | (show (_ : List Part) ⊆ _; decide) | (intro _) | split | (dsimp +zetaDelta only [id]))

theorem setRemove_law (r : RemoveState) (s : State) :
    Law [.host, .hst, .tally, .log, .pins, .side, .sent] s (setRemove r s) := by
  unfold setRemove
  repeat' (first
    | extract_lets | with_reducible exact Law.refl _ _ | with_reducible assumption
    | with_reducible apply Law.step (postEvent_law _ _ _ _ _ _ _ _) | with_reducible apply Law.step (platformEvent_law _ _)
    | with_reducible apply Law.step (logRec_law _ _ _ _ _ _ _) | with_reducible refine Law.foldl _ _ _ ?_ ?_
    | (show (_ : List Part) ⊆ _; decide) | (show (_ : List Part) ⊆ _; decide) | (intro _) | split
    | with_reducible refine Law.set_pins _ (by decide) ?_ | (dsimp +zetaDelta only [id]))

theorem removeCheck_law (s : State) :
    Law [.host, .hst, .tally, .log, .pins, .side, .sent] s (removeCheck s) := by
  unfold removeCheck
  repeat' (first
    | extract_lets | with_reducible exact Law.refl _ _ | with_reducible assumption | with_reducible apply Law.step (setRemove_law _ _)
    | with_reducible refine Law.foldl _ _ _ ?_ ?_ | (show (_ : List Part) ⊆ _; decide) | (show (_ : List Part) ⊆ _; decide) | (intro _)
    | split | (dsimp +zetaDelta only [id]))

theorem startStream_law (g : Nat) (st : Nat) (s : State) :
    Law [.cores, .ctxs] s (startStream g st s) := by
  unfold startStream
  repeat' (first
    | extract_lets | with_reducible exact Law.refl _ _ | with_reducible assumption | with_reducible apply Law.step (updStrm_law _ _ _ _)
    | with_reducible apply Law.step (updCtx_law _ _ _) | with_reducible refine Law.foldl _ _ _ ?_ ?_ | (show (_ : List Part) ⊆ _; decide)
    | (show (_ : List Part) ⊆ _; decide) | (intro _) | split | (dsimp +zetaDelta only [id]))

theorem stopStream_law (g : Nat) (st : Nat) (s : State) :
    Law [.cores, .ctxs] s (stopStream g st s) := by
  unfold stopStream
  repeat' (first
    | extract_lets | with_reducible exact Law.refl _ _ | with_reducible assumption
    | with_reducible apply Law.step (withdrawSync_law _ _ _) | with_reducible apply Law.step (updStrm_law _ _ _ _)
    | with_reducible refine Law.foldl _ _ _ ?_ ?_ | (show (_ : List Part) ⊆ _; decide) | (show (_ : List Part) ⊆ _; decide) | (intro _)
    | split | (dsimp +zetaDelta only [id]))

theorem onCkpt_law (f : CkptSt → CkptSt) (s : State) :
    Law [.ckpt] s (onCkpt f s) := by
  unfold onCkpt
  repeat' (first
    | extract_lets | with_reducible exact Law.refl _ _ | with_reducible assumption | with_reducible refine Law.foldl _ _ _ ?_ ?_
    | (show (_ : List Part) ⊆ _; decide) | (show (_ : List Part) ⊆ _; decide) | (intro _) | split
    | with_reducible refine Law.set_ckpt _ (by decide) ?_ | (dsimp +zetaDelta only [id]))

theorem setSlot_law (c : Nat) (b : Bool) (k : Slot_) (s : State) :
    Law [.ckpt] s (setSlot c b k s) := by
  unfold setSlot
  repeat' (first
    | extract_lets | with_reducible exact Law.refl _ _ | with_reducible assumption | with_reducible apply Law.step (onCkpt_law _ _)
    | with_reducible refine Law.foldl _ _ _ ?_ ?_ | (show (_ : List Part) ⊆ _; decide) | (show (_ : List Part) ⊆ _; decide) | (intro _)
    | split | (dsimp +zetaDelta only [id]))

theorem ckptReport_law (c : Nat) (number : Word) (step : Word) (b : Bool) (state : Nat) (s : State) :
    Law [.stew, .sent] s (ckptReport c number step b state s) := by
  unfold ckptReport
  repeat' (first
    | extract_lets | with_reducible exact Law.refl _ _ | with_reducible assumption | with_reducible apply Law.step (ctlSend_law _ _ _ _)
    | with_reducible refine Law.foldl _ _ _ ?_ ?_ | (show (_ : List Part) ⊆ _; decide) | (show (_ : List Part) ⊆ _; decide) | (intro _)
    | split | (dsimp +zetaDelta only [id]))

theorem ckptFail_law (c : Nat) (cause : Nat) (s : State) :
    Law [.host, .cores, .ctxs, .hst, .tally, .log, .stew, .ckpt, .pins, .side, .sent] s (ckptFail c cause s) := by
  unfold ckptFail
  repeat' (first
    | extract_lets | with_reducible exact Law.refl _ _ | with_reducible assumption
    | with_reducible apply Law.step (postEvent_law _ _ _ _ _ _ _ _) | with_reducible apply Law.step (completeBy_law _ _ _ _ _ _)
    | with_reducible apply Law.step (removeCheck_law _) | with_reducible apply Law.step (startStream_law _ _ _)
    | with_reducible apply Law.step (onCkpt_law _ _) | with_reducible apply Law.step (setSlot_law _ _ _ _)
    | with_reducible apply Law.step (ckptReport_law _ _ _ _ _ _) | with_reducible apply Law.step (logRec_law _ _ _ _ _ _ _)
    | with_reducible refine Law.foldl _ _ _ ?_ ?_ | (show (_ : List Part) ⊆ _; decide) | (show (_ : List Part) ⊆ _; decide) | (intro _)
    | split | (dsimp +zetaDelta only [id]))

theorem ckptResetBeforeCut_law (c : Nat) (s : State) :
    Law [.host, .cores, .ctxs, .hst, .tally, .log, .stew, .ckpt, .pins, .side, .sent] s (ckptResetBeforeCut c s) := by
  unfold ckptResetBeforeCut
  repeat' (first
    | extract_lets | with_reducible exact Law.refl _ _ | with_reducible assumption | with_reducible apply Law.step (ckptFail_law _ _ _)
    | with_reducible refine Law.foldl _ _ _ ?_ ?_ | (show (_ : List Part) ⊆ _; decide) | (show (_ : List Part) ⊆ _; decide) | (intro _)
    | split | (dsimp +zetaDelta only [id]))

theorem genAdvance_law (c : Nat) (s : State) :
    Law [.cores, .ctxs, .fab, .link] s (genAdvance c s) := by
  unfold genAdvance
  repeat' (first
    | extract_lets | with_reducible exact Law.refl _ _ | with_reducible assumption
    | with_reducible apply Law.step (sendGenChange_law _ _ _ _) | with_reducible apply Law.step (updCore_law _ _ _)
    | with_reducible apply Law.step (updCtx_law _ _ _) | with_reducible refine Law.foldl _ _ _ ?_ ?_ | (show (_ : List Part) ⊆ _; decide)
    | (show (_ : List Part) ⊆ _; decide) | (intro _) | split | (dsimp +zetaDelta only [id]))

theorem dropLink_law (c : Nat) (s : State) :
    Law [.fab, .link] s (dropLink c s) := by
  unfold dropLink
  repeat' (first
    | extract_lets | with_reducible exact Law.refl _ _ | with_reducible assumption | with_reducible apply Law.step (updPair_law _ _ _ _)
    | with_reducible refine Law.foldl _ _ _ ?_ ?_ | (show (_ : List Part) ⊆ _; decide) | (show (_ : List Part) ⊆ _; decide) | (intro _)
    | split | with_reducible refine Law.set_link _ (by decide) ?_ | (dsimp +zetaDelta only [id]))

theorem disposeCtx_law (c : Nat) (s : State) :
    Law [.freeCtr, .mem, .host, .cores, .clus, .ctxs, .ddr, .hst, .tally, .log, .fab, .link, .stew, .ckpt, .pins, .side, .sent] s (disposeCtx c s) := by
  unfold disposeCtx
  repeat' (first
    | extract_lets | with_reducible exact Law.refl _ _ | with_reducible assumption | with_reducible apply Law.step (disposeCore_law _ _)
    | with_reducible apply Law.step (disposeCopies_law _ _) | with_reducible apply Law.step (modeAbort_law _ _ _)
    | with_reducible apply Law.step (ckptResetBeforeCut_law _ _) | with_reducible apply Law.step (dropLink_law _ _)
    | with_reducible refine Law.foldl _ _ _ ?_ ?_ | (show (_ : List Part) ⊆ _; decide) | (show (_ : List Part) ⊆ _; decide) | (intro _)
    | split | (dsimp +zetaDelta only [id]))

theorem reportRewound_law (c : Nat) (s : State) :
    Law [.host, .hst, .tally, .sent] s (reportRewound c s) := by
  unfold reportRewound
  repeat' (first
    | extract_lets | with_reducible exact Law.refl _ _ | with_reducible assumption
    | with_reducible apply Law.step (postEvent_law _ _ _ _ _ _ _ _) | with_reducible apply Law.step (completeAwaits_law _ _ _ _)
    | with_reducible refine Law.foldl _ _ _ ?_ ?_ | (show (_ : List Part) ⊆ _; decide) | (show (_ : List Part) ⊆ _; decide) | (intro _)
    | split | (dsimp +zetaDelta only [id]))

theorem scrubCore_law (g : Nat) (s : State) :
    Law [.mem, .host, .cores] s (scrubCore g s) := by
  unfold scrubCore
  repeat' (first
    | extract_lets | with_reducible exact Law.refl _ _ | with_reducible assumption | with_reducible apply Law.step (updCore_law _ _ _)
    | with_reducible refine Law.foldl _ _ _ ?_ ?_ | (show (_ : List Part) ⊆ _; decide) | (show (_ : List Part) ⊆ _; decide) | (intro _)
    | split | with_reducible refine Law.set_mem _ (by decide) (by decide) (fun w => Memory.wf_writeN _ _ w) ?_
    | with_reducible refine Law.set_mem _ (by decide) (by decide) (fun w => Memory.wf_zero _ _ w) ?_
    | with_reducible refine Law.set_mem _ (by decide) (by decide) (fun w => Memory.wf_filter _ w) ?_
    | with_reducible refine Law.set_mem _ (by decide) (by decide) (fun w => w) ?_ | (dsimp +zetaDelta only [id]))

theorem remap_law (c : Nat) (v : Nat) (g : Nat) (s : State) :
    Law [.mem, .host, .cores, .ctxs, .tally, .log] s (remap c v g s) := by
  unfold remap
  repeat' (first
    | extract_lets | with_reducible exact Law.refl _ _ | with_reducible assumption | with_reducible apply Law.step (scrubCore_law _ _)
    | with_reducible apply Law.step (updCore_law _ _ _) | with_reducible apply Law.step (updCtx_law _ _ _)
    | with_reducible apply Law.step (logCore_law _ _ _ _ _ _ _) | with_reducible refine Law.foldl _ _ _ ?_ ?_
    | (show (_ : List Part) ⊆ _; decide) | (show (_ : List Part) ⊆ _; decide) | (intro _) | split | (dsimp +zetaDelta only [id]))

theorem teardown_law (c : Nat) (by_ : Option (Nat × Half16 × Bool)) (s : State) :
    Law [.freeCtr, .mem, .host, .cores, .clus, .ctxs, .ddr, .hst, .tally, .log, .fab, .link, .stew, .ckpt, .pins, .side, .sent] s (teardown c by_ s) := by
  unfold teardown
  repeat' (first
    | extract_lets | with_reducible exact Law.refl _ _ | with_reducible assumption
    | with_reducible apply Law.step (completeAwaits_law _ _ _ _) | with_reducible apply Law.step (genAdvance_law _ _)
    | with_reducible apply Law.step (disposeCtx_law _ _) | with_reducible apply Law.step (updCtx_law _ _ _)
    | with_reducible refine Law.foldl _ _ _ ?_ ?_ | (show (_ : List Part) ⊆ _; decide) | (show (_ : List Part) ⊆ _; decide) | (intro _)
    | split | (dsimp +zetaDelta only [id]))

theorem darkAll_law (s : State) :
    Law [.fab, .link] s (darkAll s) := by
  unfold darkAll
  repeat' (first
    | extract_lets | with_reducible exact Law.refl _ _ | with_reducible assumption | with_reducible refine Law.foldl _ _ _ ?_ ?_
    | (show (_ : List Part) ⊆ _; decide) | (show (_ : List Part) ⊆ _; decide) | (intro _) | split
    | with_reducible refine Law.set_fab_link _ _ (by decide) (by decide) ?_ | (dsimp +zetaDelta only [id]))

theorem abortHeld_law (s : State) :
    Law [.host, .hst, .tally, .sent] s (abortHeld s) := by
  unfold abortHeld
  repeat' (first
    | extract_lets | with_reducible exact Law.refl _ _ | with_reducible assumption
    | with_reducible apply Law.step (complete_law _ _ _ _ _) | with_reducible refine Law.foldl _ _ _ ?_ ?_
    | (show (_ : List Part) ⊆ _; decide) | (show (_ : List Part) ⊆ _; decide) | (intro _) | split | (dsimp +zetaDelta only [id]))

theorem enterFenced_law (cause : Nat) (s : State) :
    Law [.freeCtr, .mem, .host, .cores, .clus, .ctxs, .ddr, .hst, .tally, .log, .fab, .link, .stew, .ckpt, .boot, .pins, .side, .sent] s (enterFenced cause s) := by
  unfold enterFenced
  repeat' (first
    | extract_lets | with_reducible exact Law.refl _ _ | with_reducible assumption
    | with_reducible apply Law.step (announceState_law _ _ _) | with_reducible apply Law.step (teardown_law _ _ _)
    | with_reducible apply Law.step (darkAll_law _) | with_reducible apply Law.step (abortHeld_law _)
    | with_reducible refine Law.foldl _ _ _ ?_ ?_ | (show (_ : List Part) ⊆ _; decide) | (show (_ : List Part) ⊆ _; decide) | (intro _)
    | split | with_reducible refine Law.set_boot _ (by decide) ?_ | (dsimp +zetaDelta only [id]))

theorem recheckState_law (s : State) :
    Law [.freeCtr, .mem, .host, .cores, .clus, .ctxs, .ddr, .hst, .tally, .log, .fab, .link, .stew, .ckpt, .boot, .pins, .side, .sent] s (recheckState s) := by
  unfold recheckState
  repeat' (first
    | extract_lets | with_reducible exact Law.refl _ _ | with_reducible assumption
    | with_reducible apply Law.step (announceState_law _ _ _) | with_reducible apply Law.step (enterFenced_law _ _)
    | with_reducible refine Law.foldl _ _ _ ?_ ?_ | (show (_ : List Part) ⊆ _; decide) | (show (_ : List Part) ⊆ _; decide) | (intro _)
    | split | with_reducible refine Law.set_boot _ (by decide) ?_ | (dsimp +zetaDelta only [id]))

theorem fenceMark_law (cause : Nat) (k : CoreSt) (g : Nat) (s : State) :
    Law [.freeCtr, .mem, .host, .cores, .clus, .ddr, .idb, .rst, .tally, .log, .ckpt] s (fenceMark cause k g s) := by
  unfold fenceMark
  repeat' (first
    | extract_lets | with_reducible exact Law.refl _ _ | with_reducible assumption
    | with_reducible apply Law.step (sampleSet_law _ _ _ _ _ _ _) | with_reducible apply Law.step (updCore_law _ _ _)
    | with_reducible apply Law.step (logCore_law _ _ _ _ _ _ _) | with_reducible refine Law.foldl _ _ _ ?_ ?_
    | (show (_ : List Part) ⊆ _; decide) | (show (_ : List Part) ⊆ _; decide) | (intro _) | split
    | with_reducible refine Law.set_idb _ (by decide) ?_ | (dsimp +zetaDelta only [id]))

theorem fenceLater_law (cause : Nat) (s : State) (g : Nat) :
    Law [.idb, .rst] s (fenceLater cause s g) := by
  unfold fenceLater
  repeat' (first
    | extract_lets | with_reducible exact Law.refl _ _ | with_reducible assumption | with_reducible refine Law.foldl _ _ _ ?_ ?_
    | (show (_ : List Part) ⊆ _; decide) | (show (_ : List Part) ⊆ _; decide) | (intro _) | split
    | with_reducible refine Law.set_idb_rst _ _ (by decide) (by decide) ?_ | (dsimp +zetaDelta only [id]))

theorem fenceNow_law (gs : List Nat) (cause : Nat → Nat) (s : State) :
    Law [.freeCtr, .mem, .host, .cores, .clus, .ctxs, .ddr, .idb, .rst, .tally, .log, .ckpt] s (fenceNow gs cause s) := by
  unfold fenceNow
  repeat' (first
    | extract_lets | with_reducible exact Law.refl _ _ | with_reducible assumption | with_reducible apply Law.step (disposeCore_law _ _)
    | with_reducible apply Law.step (remap_law _ _ _ _) | with_reducible apply Law.step (fenceMark_law _ _ _ _)
    | with_reducible refine Law.foldl _ _ _ ?_ ?_ | (show (_ : List Part) ⊆ _; decide) | (show (_ : List Part) ⊆ _; decide) | (intro _)
    | split | (dsimp +zetaDelta only [id]))

theorem fenceCores_law (gs : List Nat) (cause : Nat) (s : State) :
    Law [.freeCtr, .mem, .host, .cores, .clus, .ctxs, .ddr, .hst, .idb, .rst, .tally, .log, .fab, .link, .stew, .ckpt, .boot, .pins, .side, .sent] s (fenceCores gs cause s) := by
  unfold fenceCores
  repeat' (first
    | extract_lets | with_reducible exact Law.refl _ _ | with_reducible assumption | with_reducible apply Law.step (genAdvance_law _ _)
    | with_reducible apply Law.step (disposeCtx_law _ _) | with_reducible apply Law.step (reportRewound_law _ _)
    | with_reducible apply Law.step (recheckState_law _) | with_reducible apply Law.step (fenceLater_law _ _ _)
    | with_reducible apply Law.step (fenceNow_law _ _ _) | with_reducible refine Law.foldl _ _ _ ?_ ?_
    | (show (_ : List Part) ⊆ _; decide) | (show (_ : List Part) ⊆ _; decide) | (intro _) | split | (dsimp +zetaDelta only [id]))

theorem fenceCore_law (g : Nat) (cause : Nat) (s : State) :
    Law [.freeCtr, .mem, .host, .cores, .clus, .ctxs, .ddr, .hst, .idb, .rst, .tally, .log, .fab, .link, .stew, .ckpt, .boot, .pins, .side, .sent] s (fenceCore g cause s) := by
  unfold fenceCore
  repeat' (first
    | extract_lets | with_reducible exact Law.refl _ _ | with_reducible assumption | with_reducible apply Law.step (fenceCores_law _ _ _)
    | with_reducible refine Law.foldl _ _ _ ?_ ?_ | (show (_ : List Part) ⊆ _; decide) | (show (_ : List Part) ⊆ _; decide) | (intro _)
    | split | (dsimp +zetaDelta only [id]))

theorem rewind_law (c : Nat) (s : State) :
    Law [.freeCtr, .mem, .host, .cores, .clus, .ctxs, .ddr, .hst, .tally, .log, .fab, .link, .stew, .ckpt, .pins, .side, .sent] s (rewind c s) := by
  unfold rewind
  repeat' (first
    | extract_lets | with_reducible exact Law.refl _ _ | with_reducible assumption | with_reducible apply Law.step (genAdvance_law _ _)
    | with_reducible apply Law.step (disposeCtx_law _ _) | with_reducible apply Law.step (reportRewound_law _ _)
    | with_reducible refine Law.foldl _ _ _ ?_ ?_ | (show (_ : List Part) ⊆ _; decide) | (show (_ : List Part) ⊆ _; decide) | (intro _)
    | split | (dsimp +zetaDelta only [id]))

end Sys2Proof.Machine
end

