-- ==== Sys2Proof/Laws/Protect.lean ====
section
/-! SUPPORT. What each operation of Machine/Protect.lean may touch, one lemma for each, and that it keeps memory in its canonical form. -/

set_option maxRecDepth 4000
set_option linter.all false

namespace Sys2Proof.Machine

theorem retireRequest_law (n : Nat) (s : State) :
    Law [.host, .ddr, .hst, .tally, .sent] s (retireRequest n s) := by
  unfold retireRequest
  repeat' (first
    | extract_lets | with_reducible exact Law.refl _ _ | with_reducible assumption
    | with_reducible apply Law.step (postEvent_law _ _ _ _ _ _ _ _) | with_reducible apply Law.step (updChan_law _ _ _)
    | with_reducible refine Law.foldl _ _ _ ?_ ?_ | (show (_ : List Part) ⊆ _; decide) | (show (_ : List Part) ⊆ _; decide) | (intro _)
    | split | (dsimp +zetaDelta only [id]))

theorem failDevice_law (n : Nat) (cause : Nat) (s : State) :
    Law [.freeCtr, .mem, .host, .cores, .clus, .ctxs, .ddr, .hst, .tally, .log, .fab, .link, .stew, .ckpt, .boot, .pins, .side, .sent] s (failDevice n cause s) := by
  unfold failDevice
  repeat' (first
    | extract_lets | with_reducible exact Law.refl _ _ | with_reducible assumption | with_reducible apply Law.step (recheckState_law _)
    | with_reducible apply Law.step (updChan_law _ _ _) | with_reducible apply Law.step (logRec_law _ _ _ _ _ _ _)
    | with_reducible apply Law.step (retireRequest_law _ _) | with_reducible refine Law.foldl _ _ _ ?_ ?_
    | (show (_ : List Part) ⊆ _; decide) | (show (_ : List Part) ⊆ _; decide) | (intro _) | split | (dsimp +zetaDelta only [id]))

theorem thresholds_law (n : Nat) (s : State) :
    Law [.freeCtr, .mem, .host, .cores, .clus, .ctxs, .ddr, .hst, .tally, .log, .fab, .link, .stew, .ckpt, .boot, .pins, .side, .sent] s (thresholds n s) := by
  unfold thresholds
  repeat' (first
    | extract_lets | with_reducible exact Law.refl _ _ | with_reducible assumption | with_reducible apply Law.step (updChan_law _ _ _)
    | with_reducible apply Law.step (logRec_law _ _ _ _ _ _ _) | with_reducible apply Law.step (retireRequest_law _ _)
    | with_reducible apply Law.step (failDevice_law _ _ _) | with_reducible refine Law.foldl _ _ _ ?_ ?_
    | (show (_ : List Part) ⊆ _; decide) | (show (_ : List Part) ⊆ _; decide) | (intro _) | split | (dsimp +zetaDelta only [id]))

theorem poisonUnit_law (u : Nat) (cause : Nat) (s : State) :
    Law [.ddr, .tally, .log] s (poisonUnit u cause s) := by
  unfold poisonUnit
  repeat' (first
    | extract_lets | with_reducible exact Law.refl _ _ | with_reducible assumption | with_reducible apply Law.step (updChan_law _ _ _)
    | with_reducible apply Law.step (logRec_law _ _ _ _ _ _ _) | with_reducible refine Law.foldl _ _ _ ?_ ?_
    | (show (_ : List Part) ⊆ _; decide) | (show (_ : List Part) ⊆ _; decide) | (intro _) | split
    | with_reducible refine Law.set_ddr _ (by decide) ?_ | (dsimp +zetaDelta only [id]))

theorem poisonParity_law (st : Nat) (ds : List Nat) (s : State) :
    Law [.freeCtr, .ddr, .tally, .log] s (poisonParity st ds s) := by
  unfold poisonParity
  dsimp only [drawFree]
  repeat' (first
    | extract_lets | with_reducible exact Law.refl _ _ | with_reducible assumption | with_reducible apply Law.step (updChan_law _ _ _)
    | with_reducible apply Law.step (logRec_law _ _ _ _ _ _ _) | with_reducible refine Law.foldl _ _ _ ?_ ?_
    | (show (_ : List Part) ⊆ _; decide) | (show (_ : List Part) ⊆ _; decide) | (intro _) | split
    | with_reducible refine Law.set_ddr _ (by decide) ?_ | with_reducible refine Law.set_freeCtr _ (by decide) ?_
    | (dsimp +zetaDelta only [id]))

theorem burstCorrect_law (n : Nat) (s : State) :
    Law [.freeCtr, .mem, .host, .cores, .clus, .ctxs, .ddr, .hst, .tally, .log, .fab, .link, .stew, .ckpt, .boot, .pins, .side, .sent] s (burstCorrect n s) := by
  unfold burstCorrect
  repeat' (first
    | extract_lets | with_reducible exact Law.refl _ _ | with_reducible assumption | with_reducible apply Law.step (updChan_law _ _ _)
    | with_reducible apply Law.step (countDdr_law _ _ _) | with_reducible apply Law.step (thresholds_law _ _)
    | with_reducible refine Law.foldl _ _ _ ?_ ?_ | (show (_ : List Part) ⊆ _; decide) | (show (_ : List Part) ⊆ _; decide) | (intro _)
    | split | (dsimp +zetaDelta only [id]))

theorem rebuild_law (ds : List Nat) (n : Nat) (p1 : Nat) (s : State) :
    Law [.freeCtr, .mem, .host, .cores, .clus, .ctxs, .ddr, .hst, .tally, .log, .fab, .link, .stew, .ckpt, .boot, .pins, .side, .sent] s (rebuild ds n p1 s) := by
  unfold rebuild
  repeat' (first
    | extract_lets | with_reducible exact Law.refl _ _ | with_reducible assumption | with_reducible apply Law.step (updChan_law _ _ _)
    | with_reducible apply Law.step (countDdr_law _ _ _) | with_reducible apply Law.step (logRate_law _ _ _ _ _ _ _ _ _)
    | with_reducible apply Law.step (thresholds_law _ _) | with_reducible apply Law.step (countReads_law _ _)
    | with_reducible refine Law.foldl _ _ _ ?_ ?_ | (show (_ : List Part) ⊆ _; decide) | (show (_ : List Part) ⊆ _; decide) | (intro _)
    | split | (dsimp +zetaDelta only [id]))

theorem unitBad_law (u : Nat) (alone : Bool) (s : State) :
    Law [.freeCtr, .mem, .host, .cores, .clus, .ctxs, .ddr, .hst, .tally, .log, .fab, .link, .stew, .ckpt, .boot, .pins, .side, .sent] s (unitBad u alone s) := by
  unfold unitBad
  repeat' (first
    | extract_lets | with_reducible exact Law.refl _ _ | with_reducible assumption | with_reducible apply Law.step (poisonUnit_law _ _ _)
    | with_reducible apply Law.step (rebuild_law _ _ _ _) | with_reducible refine Law.foldl _ _ _ ?_ ?_
    | (show (_ : List Part) ⊆ _; decide) | (show (_ : List Part) ⊆ _; decide) | (intro _) | split | (dsimp +zetaDelta only [id]))

theorem readUnit_law (u : Nat) (res : BurstResult) (s : State) :
    Law [.freeCtr, .mem, .host, .cores, .clus, .ctxs, .ddr, .hst, .tally, .log, .fab, .link, .stew, .ckpt, .boot, .pins, .side, .sent] s (readUnit u res s) := by
  unfold readUnit
  repeat' (first
    | extract_lets | with_reducible exact Law.refl _ _ | with_reducible assumption | with_reducible apply Law.step (countDdr_law _ _ _)
    | with_reducible apply Law.step (burstCorrect_law _ _) | with_reducible apply Law.step (unitBad_law _ _ _)
    | with_reducible refine Law.foldl _ _ _ ?_ ?_ | (show (_ : List Part) ⊆ _; decide) | (show (_ : List Part) ⊆ _; decide) | (intro _)
    | split | (dsimp +zetaDelta only [id]))

theorem readParity_law (st : Nat) (ds : List Nat) (res : BurstResult) (s : State) :
    Law [.freeCtr, .mem, .host, .cores, .clus, .ctxs, .ddr, .hst, .tally, .log, .fab, .link, .stew, .ckpt, .boot, .pins, .side, .sent] s (readParity st ds res s) := by
  unfold readParity
  dsimp only [drawFree]
  repeat' (first
    | extract_lets | with_reducible exact Law.refl _ _ | with_reducible assumption | with_reducible apply Law.step (countDdr_law _ _ _)
    | with_reducible apply Law.step (poisonParity_law _ _ _) | with_reducible apply Law.step (burstCorrect_law _ _)
    | with_reducible apply Law.step (rebuild_law _ _ _ _) | with_reducible apply Law.step (parityGood_law _ _ _)
    | with_reducible refine Law.foldl _ _ _ ?_ ?_ | (show (_ : List Part) ⊆ _; decide) | (show (_ : List Part) ⊆ _; decide) | (intro _)
    | split | with_reducible refine Law.set_freeCtr _ (by decide) ?_ | (dsimp +zetaDelta only [id]))

theorem guardLog_law (g : Nat) (c : Nat) (off : Nat) (write : Nat) (s : State) :
    Law [.tally, .log] s (guardLog g c off write s) := by
  unfold guardLog
  repeat' (first
    | extract_lets | with_reducible exact Law.refl _ _ | with_reducible assumption
    | with_reducible apply Law.step (logRec_law _ _ _ _ _ _ _) | with_reducible refine Law.foldl _ _ _ ?_ ?_
    | (show (_ : List Part) ⊆ _; decide) | (show (_ : List Part) ⊆ _; decide) | (intro _) | split | (dsimp +zetaDelta only [id]))

theorem flushIn_law (lo : Nat) (hi : Nat) (s : State) :
    Law [.freeCtr, .ddr, .tally] s (flushIn lo hi s) := by
  unfold flushIn
  repeat' (first
    | extract_lets | with_reducible exact Law.refl _ _ | with_reducible assumption | with_reducible apply Law.step (flushStripe_law _ _)
    | with_reducible refine Law.foldl _ _ _ ?_ ?_ | (show (_ : List Part) ⊆ _; decide) | (show (_ : List Part) ⊆ _; decide) | (intro _)
    | split | (dsimp +zetaDelta only [id]))

theorem zeroRange_law (a : Nat) (n : Nat) (s : State) :
    Law [.freeCtr, .mem, .host, .ddr, .tally, .ckpt] s (zeroRange a n s) := by
  unfold zeroRange
  repeat' (first
    | extract_lets | with_reducible exact Law.refl _ _ | with_reducible assumption | with_reducible apply Law.step (copyAhead_law _ _ _)
    | with_reducible apply Law.step (flushIn_law _ _ _) | with_reducible apply Law.step (stripeRange_law _ _ _ _)
    | with_reducible refine Law.foldl _ _ _ ?_ ?_ | (show (_ : List Part) ⊆ _; decide) | (show (_ : List Part) ⊆ _; decide) | (intro _)
    | split | with_reducible refine Law.set_mem_ddr _ _ (by decide) (by decide) (by decide) (fun w => Memory.wf_writeN _ _ w) ?_
    | with_reducible refine Law.set_mem_ddr _ _ (by decide) (by decide) (by decide) (fun w => Memory.wf_zero _ _ w) ?_
    | with_reducible refine Law.set_mem_ddr _ _ (by decide) (by decide) (by decide) (fun w => Memory.wf_filter _ w) ?_
    | with_reducible refine Law.set_mem_ddr _ _ (by decide) (by decide) (by decide) (fun w => w) ?_ | (dsimp +zetaDelta only [id]))

theorem zeroGuard_law (s : State) (g : Nat) :
    Law [.freeCtr, .mem, .host, .ddr, .tally, .ckpt] s (zeroGuard s g) := by
  unfold zeroGuard
  repeat' (first
    | extract_lets | with_reducible exact Law.refl _ _ | with_reducible assumption | with_reducible apply Law.step (zeroRange_law _ _ _)
    | with_reducible refine Law.foldl _ _ _ ?_ ?_ | (show (_ : List Part) ⊆ _; decide) | (show (_ : List Part) ⊆ _; decide) | (intro _)
    | split | (dsimp +zetaDelta only [id]))

theorem zeroWaiting_law (x : Nat × Nat × Nat) (s : State) :
    Law [.freeCtr, .mem, .host, .ddr, .tally, .ckpt] s (zeroWaiting x s) := by
  unfold zeroWaiting
  repeat' (first
    | extract_lets | with_reducible exact Law.refl _ _ | with_reducible assumption | with_reducible apply Law.step (zeroRange_law _ _ _)
    | with_reducible refine Law.foldl _ _ _ ?_ ?_ | (show (_ : List Part) ⊆ _; decide) | (show (_ : List Part) ⊆ _; decide) | (intro _)
    | split | with_reducible refine Law.set_ddr _ (by decide) ?_ | (dsimp +zetaDelta only [id]))

theorem clearFirst_law (a : Nat) (len : Nat) (s : State) :
    Law [.freeCtr, .mem, .host, .ddr, .tally, .ckpt] s (clearFirst a len s) := by
  unfold clearFirst
  repeat' (first
    | extract_lets | with_reducible exact Law.refl _ _ | with_reducible assumption | with_reducible apply Law.step (zeroWaiting_law _ _)
    | with_reducible refine Law.foldl _ _ _ ?_ ?_ | (show (_ : List Part) ⊆ _; decide) | (show (_ : List Part) ⊆ _; decide) | (intro _)
    | split | (dsimp +zetaDelta only [id]))

theorem readRange_law (a : Nat) (len : Nat) (s : State) :
    Law [.freeCtr, .mem, .host, .cores, .clus, .ctxs, .ddr, .hst, .tally, .log, .fab, .link, .stew, .ckpt, .boot, .pins, .side, .sent] s (readRange a len s) := by
  unfold readRange
  repeat' (first
    | extract_lets | with_reducible exact Law.refl _ _ | with_reducible assumption | with_reducible apply Law.step (readUnit_law _ _ _)
    | with_reducible refine Law.foldl _ _ _ ?_ ?_ | (show (_ : List Part) ⊆ _; decide) | (show (_ : List Part) ⊆ _; decide) | (intro _)
    | split | (dsimp +zetaDelta only [id]))

end Sys2Proof.Machine
end

