-- ==== Sys2Proof/Laws/Operands.lean ====
section
/-! SUPPORT. What each operation of Machine/Operands.lean may touch, one lemma for each, and that it keeps memory in its canonical form. -/

set_option maxRecDepth 4000
set_option linter.all false

namespace Sys2Proof.Machine

theorem eccCorrected_law (a : Nat) (s : State) :
    Law [.freeCtr, .mem, .host, .cores, .clus, .ctxs, .ddr, .hst, .tally, .log, .fab, .link, .stew, .ckpt, .boot, .pins, .side, .sent] s (eccCorrected a s) := by
  unfold eccCorrected
  repeat' (first
    | extract_lets | with_reducible exact Law.refl _ _ | with_reducible assumption | with_reducible apply Law.step (updCore_law _ _ _)
    | with_reducible apply Law.step (updClu_law _ _ _) | with_reducible apply Law.step (countCore_law _ _ _ _)
    | with_reducible apply Law.step (burstCorrect_law _ _) | with_reducible refine Law.foldl _ _ _ ?_ ?_
    | (show (_ : List Part) ⊆ _; decide) | (show (_ : List Part) ⊆ _; decide) | (intro _) | split | (dsimp +zetaDelta only [id]))

theorem eccDouble_law (a : Nat) (s : State) :
    Law [.freeCtr, .mem, .host, .cores, .clus, .ctxs, .ddr, .hst, .idb, .rst, .tally, .log, .fab, .link, .stew, .ckpt, .boot, .pins, .side, .sent] s (eccDouble a s) := by
  unfold eccDouble
  repeat' (first
    | extract_lets | with_reducible exact Law.refl _ _ | with_reducible assumption | with_reducible apply Law.step (fenceCore_law _ _ _)
    | with_reducible apply Law.step (setCore_law _ _ _) | with_reducible apply Law.step (setClu_law _ _ _)
    | with_reducible apply Law.step (coreFault_law _ _ _) | with_reducible apply Law.step (cluFault_law _ _ _)
    | with_reducible apply Law.step (logCore_law _ _ _ _ _ _ _) | with_reducible apply Law.step (logClu_law _ _ _ _ _ _ _)
    | with_reducible refine Law.foldl _ _ _ ?_ ?_ | (show (_ : List Part) ⊆ _; decide) | (show (_ : List Part) ⊆ _; decide) | (intro _)
    | split | (dsimp +zetaDelta only [id]))

theorem readNoted_law (a : Nat) (n : Nat) (s : State) :
    Law [.freeCtr, .mem, .host, .cores, .clus, .ctxs, .ddr, .hst, .idb, .rst, .tally, .log, .fab, .link, .stew, .ckpt, .boot, .pins, .side, .sent] s (readNoted a n s) := by
  unfold readNoted
  repeat' (first
    | extract_lets | with_reducible exact Law.refl _ _ | with_reducible assumption | with_reducible apply Law.step (eccDouble_law _ _)
    | with_reducible apply Law.step (readRange_law _ _ _) | with_reducible refine Law.foldl _ _ _ ?_ ?_
    | (show (_ : List Part) ⊆ _; decide) | (show (_ : List Part) ⊆ _; decide) | (intro _) | split | (dsimp +zetaDelta only [id]))

theorem applyEcc_law (a : Nat) (ecc : Ecc) (s : State) :
    Law [.freeCtr, .mem, .host, .cores, .clus, .ctxs, .ddr, .hst, .idb, .rst, .tally, .log, .fab, .link, .stew, .ckpt, .boot, .pins, .side, .sent] s (applyEcc a ecc s).2 := by
  unfold applyEcc
  repeat' (first
    | extract_lets | with_reducible exact Law.refl _ _ | with_reducible assumption | with_reducible apply Law.step (eccCorrected_law _ _)
    | with_reducible apply Law.step (eccDouble_law _ _) | with_reducible apply Law.step (unitBad_law _ _ _)
    | with_reducible refine Law.foldl _ _ _ ?_ ?_ | (show (_ : List Part) ⊆ _; decide) | (show (_ : List Part) ⊆ _; decide) | (intro _)
    | split | (dsimp +zetaDelta only [id]))

theorem strFault_law (g : Nat) (st : Nat) (cause : Nat) (info : Nat) (atIssue : Bool) (opc : Nat) (fpc : Word) (s : State) :
    Law [.host, .cores, .ctxs, .hst, .tally, .log, .sent] s (strFault g st cause info atIssue opc fpc s) := by
  unfold strFault
  repeat' (first
    | extract_lets | with_reducible exact Law.refl _ _ | with_reducible assumption
    | with_reducible apply Law.step (postEvent_law _ _ _ _ _ _ _ _) | with_reducible apply Law.step (completeAwaits_law _ _ _ _)
    | with_reducible apply Law.step (withdrawSync_law _ _ _) | with_reducible apply Law.step (setStrm_law _ _ _ _)
    | with_reducible apply Law.step (logCore_law _ _ _ _ _ _ _) | with_reducible apply Law.step (enableLost_law _ _ _ _)
    | with_reducible refine Law.foldl _ _ _ ?_ ?_ | (show (_ : List Part) ⊆ _; decide) | (show (_ : List Part) ⊆ _; decide) | (intro _)
    | split | (dsimp +zetaDelta only [id]))

theorem accFault_law (g : Nat) (st : Nat) (x : AccErr) (da : Nat) (write : Bool) (opc : Nat) (fpc : Word) (s : State) :
    Law [.host, .cores, .clus, .ctxs, .hst, .tally, .log, .sent] s (accFault g st x da write opc fpc s) := by
  unfold accFault
  repeat' (first
    | extract_lets | with_reducible exact Law.refl _ _ | with_reducible assumption
    | with_reducible apply Law.step (strFault_law _ _ _ _ _ _ _ _) | with_reducible apply Law.step (coreFault_law _ _ _)
    | with_reducible apply Law.step (cluFault_law _ _ _) | with_reducible apply Law.step (logCore_law _ _ _ _ _ _ _)
    | with_reducible apply Law.step (guardLog_law _ _ _ _ _) | with_reducible refine Law.foldl _ _ _ ?_ ?_
    | (show (_ : List Part) ⊆ _; decide) | (show (_ : List Part) ⊆ _; decide) | (intro _) | split | (dsimp +zetaDelta only [id]))

theorem execFault_law (g : Nat) (st : Nat) (op : LongOp) (cause : Nat) (info : Nat) (s : State) :
    Law [.host, .cores, .ctxs, .hst, .tally, .log, .sent] s (execFault g st op cause info s) := by
  unfold execFault
  repeat' (first
    | extract_lets | with_reducible exact Law.refl _ _ | with_reducible assumption
    | with_reducible apply Law.step (strFault_law _ _ _ _ _ _ _ _) | with_reducible apply Law.step (updStrm_law _ _ _ _)
    | with_reducible refine Law.foldl _ _ _ ?_ ?_ | (show (_ : List Part) ⊆ _; decide) | (show (_ : List Part) ⊆ _; decide) | (intro _)
    | split | (dsimp +zetaDelta only [id]))

theorem stallAt_law (g : Nat) (st : Nat) (code : Nat) (q : Nat) (s : State) :
    Law [.cores] s (stallAt g st code q s) := by
  unfold stallAt
  repeat' (first
    | extract_lets | with_reducible exact Law.refl _ _ | with_reducible assumption | with_reducible apply Law.step (updStrm_law _ _ _ _)
    | with_reducible refine Law.foldl _ _ _ ?_ ?_ | (show (_ : List Part) ⊆ _; decide) | (show (_ : List Part) ⊆ _; decide) | (intro _)
    | split | (dsimp +zetaDelta only [id]))

theorem front_law {L : List Part} {s₀ : State} (opc : Nat) (g : Nat) (st : Nat) (s : State) (body : Stream → IWord → State) (h₀ : Law L s₀ s) (h_body : ∀ (y0 : Stream) (y1 : IWord), Law L s₀ (body y0 y1)) (hL : [.host, .cores, .ctxs, .hst, .tally, .log, .sent] ⊆ L) :
    Law L s₀ (front opc g st s body) := by
  unfold front
  repeat' (first
    | extract_lets | with_reducible exact Law.refl _ _ | with_reducible assumption | with_reducible apply h_body
    | with_reducible apply Law.step (strFault_law _ _ _ _ _ _ _ _) | with_reducible apply Law.step (stallAt_law _ _ _ _ _)
    | with_reducible refine Law.foldl _ _ _ ?_ ?_ | (show (_ : List Part) ⊆ _; exact List.Subset.trans (by decide) hL)
    | (show (_ : List Part) ⊆ _; exact List.Subset.trans (by decide) hL) | (intro _) | split | (dsimp +zetaDelta only [id]))

theorem release_law {L : List Part} {s₀ : State} (g : Nat) (st : Nat) (s : State) (act : State) (h₀ : Law L s₀ s) (h_act : Law L s₀ act) (hL : [.cores] ⊆ L) :
    Law L s₀ (release g st s act) := by
  unfold release
  repeat' (first
    | extract_lets | with_reducible exact Law.refl _ _ | with_reducible assumption | with_reducible apply Law.step (stallAt_law _ _ _ _ _)
    | with_reducible refine Law.foldl _ _ _ ?_ ?_ | (show (_ : List Part) ⊆ _; exact List.Subset.trans (by decide) hL)
    | (show (_ : List Part) ⊆ _; exact List.Subset.trans (by decide) hL) | (intro _) | split | (dsimp +zetaDelta only [id]))

end Sys2Proof.Machine
end

