-- ==== Sys2Proof/Laws/Reset0.lean ====
section
/-! SUPPORT. What each operation of Machine/Reset0.lean may touch, one lemma for each, and that it keeps memory in its canonical form. -/

set_option maxRecDepth 4000
set_option linter.all false

namespace Sys2Proof.Machine

theorem heldWrite_law (off : Nat) (v : Word) (s : State) :
    Law [.tally, .log] s (heldWrite off v s) := by
  unfold heldWrite
  repeat' (first
    | extract_lets | with_reducible exact Law.refl _ _ | with_reducible assumption
    | with_reducible apply Law.step (logRate_law _ _ _ _ _ _ _ _ _) | with_reducible refine Law.foldl _ _ _ ?_ ?_
    | (show (_ : List Part) ⊆ _; decide) | (show (_ : List Part) ⊆ _; decide) | (intro _) | split | (dsimp +zetaDelta only [id]))

theorem coreWrite_law {L : List Part} {s₀ : State} (g : Nat) (off : Nat) (v : Word) (s : State) (act : State) (h₀ : Law L s₀ s) (h_act : Law L s₀ act) (hL : [.tally, .log] ⊆ L) :
    Law L s₀ (coreWrite g off v s act) := by
  unfold coreWrite
  repeat' (first
    | extract_lets | with_reducible exact Law.refl _ _ | with_reducible assumption | with_reducible apply Law.step (heldWrite_law _ _ _)
    | with_reducible refine Law.foldl _ _ _ ?_ ?_ | (show (_ : List Part) ⊆ _; exact List.Subset.trans (by decide) hL)
    | (show (_ : List Part) ⊆ _; exact List.Subset.trans (by decide) hL) | (intro _) | split | (dsimp +zetaDelta only [id]))

theorem cluWrite_law {L : List Part} {s₀ : State} (c : Nat) (off : Nat) (v : Word) (s : State) (act : State) (h₀ : Law L s₀ s) (h_act : Law L s₀ act) (hL : [.tally, .log] ⊆ L) :
    Law L s₀ (cluWrite c off v s act) := by
  unfold cluWrite
  repeat' (first
    | extract_lets | with_reducible exact Law.refl _ _ | with_reducible assumption | with_reducible apply Law.step (heldWrite_law _ _ _)
    | with_reducible refine Law.foldl _ _ _ ?_ ?_ | (show (_ : List Part) ⊆ _; exact List.Subset.trans (by decide) hL)
    | (show (_ : List Part) ⊆ _; exact List.Subset.trans (by decide) hL) | (intro _) | split | (dsimp +zetaDelta only [id]))

end Sys2Proof.Machine
end

