-- ==== Sys2Proof/Laws/Peer.lean ====
section
/-! SUPPORT. What each operation of Machine/Peer.lean may touch, one lemma for each, and that it keeps memory in its canonical form. -/

set_option maxRecDepth 4000
set_option linter.all false

namespace Sys2Proof.Machine

theorem setXfer_law (i : Nat) (x : Xfer) (s : State) :
    Law [.link] s (setXfer i x s) := by
  unfold setXfer
  repeat' (first
    | extract_lets | with_reducible exact Law.refl _ _ | with_reducible assumption | with_reducible refine Law.foldl _ _ _ ?_ ?_
    | (show (_ : List Part) ⊆ _; decide) | (show (_ : List Part) ⊆ _; decide) | (intro _) | split
    | with_reducible refine Law.set_link _ (by decide) ?_ | (dsimp +zetaDelta only [id]))

theorem updXfer_law (i : Nat) (f : Xfer → Xfer) (s : State) :
    Law [.link] s (updXfer i f s) := by
  unfold updXfer
  repeat' (first
    | extract_lets | with_reducible exact Law.refl _ _ | with_reducible assumption | with_reducible apply Law.step (setXfer_law _ _ _)
    | with_reducible refine Law.foldl _ _ _ ?_ ?_ | (show (_ : List Part) ⊆ _; decide) | (show (_ : List Part) ⊆ _; decide) | (intro _)
    | split | (dsimp +zetaDelta only [id]))

theorem dropXfer_law (i : Nat) (s : State) :
    Law [.link] s (dropXfer i s) := by
  unfold dropXfer
  repeat' (first
    | extract_lets | with_reducible exact Law.refl _ _ | with_reducible assumption | with_reducible refine Law.foldl _ _ _ ?_ ?_
    | (show (_ : List Part) ⊆ _; decide) | (show (_ : List Part) ⊆ _; decide) | (intro _) | split
    | with_reducible refine Law.set_link _ (by decide) ?_ | (dsimp +zetaDelta only [id]))

theorem xferFail_law (i : Nat) (code : Nat) (info : Nat) (s : State) :
    Law [.link] s (xferFail i code info s) := by
  unfold xferFail
  repeat' (first
    | extract_lets | with_reducible exact Law.refl _ _ | with_reducible assumption | with_reducible apply Law.step (updXfer_law _ _ _)
    | with_reducible refine Law.foldl _ _ _ ?_ ?_ | (show (_ : List Part) ⊆ _; decide) | (show (_ : List Part) ⊆ _; decide) | (intro _)
    | split | (dsimp +zetaDelta only [id]))

theorem sendSeg_law (i : Nat) (kind : Nat) (x : Xfer) (pc : Piece) (d : SegDesc) (at_ : Nat × Nat) (s : State) :
    Law [.fab, .link] s (sendSeg i kind x pc d at_ s) := by
  unfold sendSeg
  repeat' (first
    | extract_lets | with_reducible exact Law.refl _ _ | with_reducible assumption | with_reducible apply Law.step (enqueue_law _ _ _ _)
    | with_reducible refine Law.foldl _ _ _ ?_ ?_ | (show (_ : List Part) ⊆ _; decide) | (show (_ : List Part) ⊆ _; decide) | (intro _)
    | split | with_reducible refine Law.set_link _ (by decide) ?_ | (dsimp +zetaDelta only [id]))

theorem beginPiece_law (i : Nat) (s : State) :
    Law [.freeCtr, .mem, .host, .cores, .clus, .ctxs, .ddr, .hst, .idb, .rst, .tally, .log, .fab, .link, .stew, .ckpt, .boot, .pins, .side, .sent] s (beginPiece i s) := by
  unfold beginPiece
  repeat' (first
    | extract_lets | with_reducible exact Law.refl _ _ | with_reducible assumption | with_reducible apply Law.step (eccDouble_law _ _)
    | with_reducible apply Law.step (setXfer_law _ _ _) | with_reducible apply Law.step (xferFail_law _ _ _ _)
    | with_reducible apply Law.step (sendSeg_law _ _ _ _ _ _ _) | with_reducible apply Law.step (clearFirst_law _ _ _)
    | with_reducible apply Law.step (readRange_law _ _ _) | with_reducible refine Law.foldl _ _ _ ?_ ?_
    | (show (_ : List Part) ⊆ _; decide) | (show (_ : List Part) ⊆ _; decide) | (intro _) | split | (dsimp +zetaDelta only [id]))

theorem beginToken_law (i : Nat) (s : State) :
    Law [.fab, .link] s (beginToken i s) := by
  unfold beginToken
  repeat' (first
    | extract_lets | with_reducible exact Law.refl _ _ | with_reducible assumption | with_reducible apply Law.step (setXfer_law _ _ _)
    | with_reducible apply Law.step (xferFail_law _ _ _ _) | with_reducible apply Law.step (sendSeg_law _ _ _ _ _ _ _)
    | with_reducible refine Law.foldl _ _ _ ?_ ?_ | (show (_ : List Part) ⊆ _; decide) | (show (_ : List Part) ⊆ _; decide) | (intro _)
    | split | (dsimp +zetaDelta only [id]))

theorem driveX_law (i : Nat) (s : State) :
    Law [.freeCtr, .mem, .host, .cores, .clus, .ctxs, .ddr, .hst, .idb, .rst, .tally, .log, .fab, .link, .stew, .ckpt, .boot, .pins, .side, .sent] s (driveX i s) := by
  unfold driveX
  repeat' (first
    | extract_lets | with_reducible exact Law.refl _ _ | with_reducible assumption | with_reducible apply Law.step (beginPiece_law _ _)
    | with_reducible apply Law.step (beginToken_law _ _) | with_reducible refine Law.foldl _ _ _ ?_ ?_
    | (show (_ : List Part) ⊆ _; decide) | (show (_ : List Part) ⊆ _; decide) | (intro _) | split | (dsimp +zetaDelta only [id]))

theorem pump_law (s : State) :
    Law [.freeCtr, .mem, .host, .cores, .clus, .ctxs, .ddr, .hst, .idb, .rst, .tally, .log, .fab, .link, .stew, .ckpt, .boot, .pins, .side, .sent] s (pump s) := by
  unfold pump
  repeat' (first
    | extract_lets | with_reducible exact Law.refl _ _ | with_reducible assumption | with_reducible apply Law.step (driveX_law _ _)
    | with_reducible refine Law.foldl _ _ _ ?_ ?_ | (show (_ : List Part) ⊆ _; decide) | (show (_ : List Part) ⊆ _; decide) | (intro _)
    | split | (dsimp +zetaDelta only [id]))

theorem newXfer_law (x : Xfer) (s : State) :
    Law [.freeCtr, .mem, .host, .cores, .clus, .ctxs, .ddr, .hst, .idb, .rst, .tally, .log, .fab, .link, .stew, .ckpt, .boot, .pins, .side, .sent] s (newXfer x s).2 := by
  unfold newXfer
  repeat' (first
    | extract_lets | with_reducible exact Law.refl _ _ | with_reducible assumption | with_reducible apply Law.step (setXfer_law _ _ _)
    | with_reducible apply Law.step (driveX_law _ _) | with_reducible refine Law.foldl _ _ _ ?_ ?_ | (show (_ : List Part) ⊆ _; decide)
    | (show (_ : List Part) ⊆ _; decide) | (intro _) | split | with_reducible refine Law.set_link _ (by decide) ?_
    | (dsimp +zetaDelta only [id]))

end Sys2Proof.Machine
end

