-- ==== Sys2Proof/Laws/Well.lean ====
section
/-! SUPPORT. What each operation of Machine/Well.lean may touch, one lemma for each, and that it keeps memory in its canonical form. -/

set_option maxRecDepth 4000
set_option linter.all false

namespace Sys2Proof.Machine

theorem reclaim_law (c : Nat) (b : Bool) (s : State) :
    Law [.tally, .log, .stew, .ckpt, .sent] s (reclaim c b s) := by
  unfold reclaim
  repeat' (first
    | extract_lets | with_reducible exact Law.refl _ _ | with_reducible assumption | with_reducible apply Law.step (setSlot_law _ _ _ _)
    | with_reducible apply Law.step (ckptReport_law _ _ _ _ _ _) | with_reducible apply Law.step (logRec_law _ _ _ _ _ _ _)
    | with_reducible refine Law.foldl _ _ _ ?_ ?_ | (show (_ : List Part) ⊆ _; decide) | (show (_ : List Part) ⊆ _; decide) | (intro _)
    | split | (dsimp +zetaDelta only [id]))

theorem dropDrain_law (c : Nat) (b : Bool) (cause : Nat) (s : State) :
    Law [.host, .hst, .tally, .log, .sent] s (dropDrain c b cause s) := by
  unfold dropDrain
  repeat' (first
    | extract_lets | with_reducible exact Law.refl _ _ | with_reducible assumption
    | with_reducible apply Law.step (completeBy_law _ _ _ _ _ _) | with_reducible apply Law.step (logRec_law _ _ _ _ _ _ _)
    | with_reducible refine Law.foldl _ _ _ ?_ ?_ | (show (_ : List Part) ⊆ _; decide) | (show (_ : List Part) ⊆ _; decide) | (intro _)
    | split | (dsimp +zetaDelta only [id]))

theorem acceptCkpt_law (c : Nat) (number : Word) (step : Word) (full : Bool) (ring : Option (Nat × Nat)) (s : State) :
    Law [.host, .hst, .tally, .log, .stew, .ckpt, .sent] s (acceptCkpt c number step full ring s) := by
  unfold acceptCkpt
  repeat' (first
    | extract_lets | with_reducible exact Law.refl _ _ | with_reducible assumption | with_reducible apply Law.step (onCkpt_law _ _)
    | with_reducible apply Law.step (setSlot_law _ _ _ _) | with_reducible apply Law.step (ckptReport_law _ _ _ _ _ _)
    | with_reducible apply Law.step (dropDrain_law _ _ _ _) | with_reducible refine Law.foldl _ _ _ ?_ ?_
    | (show (_ : List Part) ⊆ _; decide) | (show (_ : List Part) ⊆ _; decide) | (intro _) | split | (dsimp +zetaDelta only [id]))

theorem trigger_law (c : Nat) (kind : Nat) (number : Word) (step : Word) (s : State) :
    Law [.host, .hst, .tally, .log, .stew, .ckpt, .sent] s (trigger c kind number step s) := by
  unfold trigger
  repeat' (first
    | extract_lets | with_reducible exact Law.refl _ _ | with_reducible assumption
    | with_reducible apply Law.step (postEvent_law _ _ _ _ _ _ _ _) | with_reducible apply Law.step (logRec_law _ _ _ _ _ _ _)
    | with_reducible apply Law.step (acceptCkpt_law _ _ _ _ _ _) | with_reducible refine Law.foldl _ _ _ ?_ ?_
    | (show (_ : List Part) ⊆ _; decide) | (show (_ : List Part) ⊆ _; decide) | (intro _) | split | (dsimp +zetaDelta only [id]))

theorem riskTrigger_law (s : State) :
    Law [.host, .hst, .tally, .log, .stew, .ckpt, .sent] s (riskTrigger s) := by
  unfold riskTrigger
  repeat' (first
    | extract_lets | with_reducible exact Law.refl _ _ | with_reducible assumption | with_reducible apply Law.step (trigger_law _ _ _ _ _)
    | with_reducible refine Law.foldl _ _ _ ?_ ?_ | (show (_ : List Part) ⊆ _; decide) | (show (_ : List Part) ⊆ _; decide) | (intro _)
    | split | (dsimp +zetaDelta only [id]))

theorem gateTokens_law (c : Nat) (step : Word) (s : State) :
    Law [.cores, .rst, .tally, .log] s (gateTokens c step s) := by
  unfold gateTokens
  repeat' (first
    | extract_lets | with_reducible exact Law.refl _ _ | with_reducible assumption
    | with_reducible apply Law.step (remoteToken_law _ _ _ _ _ _ _) | with_reducible refine Law.foldl _ _ _ ?_ ?_
    | (show (_ : List Part) ⊆ _; decide) | (show (_ : List Part) ⊆ _; decide) | (intro _) | split | (dsimp +zetaDelta only [id]))

theorem cutTaken_law (c : Nat) (us : Nat) (k : CkptRun) (s : State) :
    Law [.tally, .log, .ckpt] s (cutTaken c us k s) := by
  unfold cutTaken
  repeat' (first
    | extract_lets | with_reducible exact Law.refl _ _ | with_reducible assumption | with_reducible apply Law.step (onCkpt_law _ _)
    | with_reducible apply Law.step (logRec_law _ _ _ _ _ _ _) | with_reducible refine Law.foldl _ _ _ ?_ ?_
    | (show (_ : List Part) ⊆ _; decide) | (show (_ : List Part) ⊆ _; decide) | (intro _) | split | (dsimp +zetaDelta only [id]))

theorem beginFreeze_law (c : Nat) (n : Nat) (a : Nat) (k : CkptRun) (s : State) :
    Law [.cores, .ctxs, .ckpt] s (beginFreeze c n a k s) := by
  unfold beginFreeze
  repeat' (first
    | extract_lets | with_reducible exact Law.refl _ _ | with_reducible assumption | with_reducible apply Law.step (stopStream_law _ _ _)
    | with_reducible apply Law.step (onCkpt_law _ _) | with_reducible refine Law.foldl _ _ _ ?_ ?_ | (show (_ : List Part) ⊆ _; decide)
    | (show (_ : List Part) ⊆ _; decide) | (intro _) | split | (dsimp +zetaDelta only [id]))

theorem manifestRead_law (c : Nat) (t : Template) (s : State) :
    Law [.freeCtr, .mem, .host, .cores, .clus, .ctxs, .ddr, .hst, .idb, .rst, .tally, .log, .fab, .link, .stew, .ckpt, .boot, .pins, .side, .sent] s (manifestRead c t s) := by
  unfold manifestRead
  repeat' (first
    | extract_lets | with_reducible exact Law.refl _ _ | with_reducible assumption | with_reducible apply Law.step (readNoted_law _ _ _)
    | with_reducible apply Law.step (clearFirst_law _ _ _) | with_reducible refine Law.foldl _ _ _ ?_ ?_
    | (show (_ : List Part) ⊆ _; decide) | (show (_ : List Part) ⊆ _; decide) | (intro _) | split | (dsimp +zetaDelta only [id]))

theorem fullCut_law (c : Nat) (t : Template) (k : CkptRun) (s : State) :
    Law [.freeCtr, .host, .cores, .ctxs, .hst, .rst, .tally, .log, .stew, .ckpt, .pins, .side, .sent] s (fullCut c t k s) := by
  unfold fullCut
  dsimp only [drawFree]
  repeat' (first
    | extract_lets | with_reducible exact Law.refl _ _ | with_reducible assumption | with_reducible apply Law.step (ckptFail_law _ _ _)
    | with_reducible apply Law.step (gateTokens_law _ _ _) | with_reducible apply Law.step (beginFreeze_law _ _ _ _ _)
    | with_reducible refine Law.foldl _ _ _ ?_ ?_ | with_reducible refine Law.elim _ _ _ ?_ ?_ | (show (_ : List Part) ⊆ _; decide)
    | (show (_ : List Part) ⊆ _; decide) | (intro _) | split | with_reducible refine Law.set_freeCtr _ (by decide) ?_
    | (dsimp +zetaDelta only [id]))

theorem takeCut_law (c : Nat) (k : CkptRun) (s : State) :
    Law [.freeCtr, .mem, .host, .cores, .clus, .ctxs, .ddr, .hst, .idb, .rst, .tally, .log, .fab, .link, .stew, .ckpt, .boot, .pins, .side, .sent] s (takeCut c k s) := by
  unfold takeCut
  repeat' (first
    | extract_lets | with_reducible exact Law.refl _ _ | with_reducible assumption | with_reducible apply Law.step (ckptFail_law _ _ _)
    | with_reducible apply Law.step (gateTokens_law _ _ _) | with_reducible apply Law.step (cutTaken_law _ _ _ _)
    | with_reducible apply Law.step (manifestRead_law _ _ _) | with_reducible apply Law.step (fullCut_law _ _ _ _)
    | with_reducible refine Law.foldl _ _ _ ?_ ?_ | (show (_ : List Part) ⊆ _; decide) | (show (_ : List Part) ⊆ _; decide) | (intro _)
    | split | (dsimp +zetaDelta only [id]))

theorem atStep_law (c : Nat) (step : Word) (s : State) :
    Law [.freeCtr, .mem, .host, .cores, .clus, .ctxs, .ddr, .hst, .idb, .rst, .tally, .log, .fab, .link, .stew, .ckpt, .boot, .pins, .side, .sent] s (atStep c step s) := by
  unfold atStep
  repeat' (first
    | extract_lets | with_reducible exact Law.refl _ _ | with_reducible assumption | with_reducible apply Law.step (gateTokens_law _ _ _)
    | with_reducible apply Law.step (takeCut_law _ _ _) | with_reducible refine Law.foldl _ _ _ ?_ ?_ | (show (_ : List Part) ⊆ _; decide)
    | (show (_ : List Part) ⊆ _; decide) | (intro _) | split | (dsimp +zetaDelta only [id]))

end Sys2Proof.Machine
end

