-- ==== Sys2Proof/Laws/StepHook.lean ====
section
/-! SUPPORT. What each operation of Machine/StepHook.lean may touch, one lemma for each, and that it keeps memory in its canonical form. -/

set_option maxRecDepth 4000
set_option linter.all false

namespace Sys2Proof.Machine

theorem onStep_law (c : Nat) (old : Word) (s : State) :
    Law [.freeCtr, .mem, .host, .cores, .clus, .ctxs, .ddr, .hst, .idb, .rst, .tally, .log, .fab, .link, .stew, .ckpt, .boot, .pins, .side, .sent] s (onStep c old s) := by
  unfold onStep
  repeat' (first
    | extract_lets | with_reducible exact Law.refl _ _ | with_reducible assumption | with_reducible apply Law.step (satisfyAwaits_law _ _)
    | with_reducible apply Law.step (atStep_law _ _ _) | with_reducible refine Law.foldl _ _ _ ?_ ?_ | (show (_ : List Part) ⊆ _; decide)
    | (show (_ : List Part) ⊆ _; decide) | (intro _) | split | (dsimp +zetaDelta only [id]))

theorem checkDone_law (c : Nat) (s : State) :
    Law [.host, .cores, .ctxs, .hst, .rst, .tally, .log, .sent] s (checkDone c s) := by
  unfold checkDone
  repeat' (first
    | extract_lets | with_reducible exact Law.refl _ _ | with_reducible assumption
    | with_reducible apply Law.step (postEvent_law _ _ _ _ _ _ _ _) | with_reducible apply Law.step (succeed_law _ _ _ _ _)
    | with_reducible apply Law.step (updCtx_law _ _ _) | with_reducible refine Law.foldl _ _ _ ?_ ?_ | (show (_ : List Part) ⊆ _; decide)
    | (show (_ : List Part) ⊆ _; decide) | (intro _) | split | (dsimp +zetaDelta only [id]))

end Sys2Proof.Machine
end

