-- ==== Sys2Proof/Laws/Ring.lean ====
section
/-! SUPPORT. What each operation of Machine/Ring.lean may touch, one lemma for each, and that it keeps memory in its canonical form. -/

set_option maxRecDepth 4000
set_option linter.all false

namespace Sys2Proof.Machine

theorem acceptEntry_law (r : Nat) (bs : List Byte) (s : State) :
    Law [.host, .hst, .tally, .sent] s (acceptEntry r bs s) := by
  unfold acceptEntry
  repeat' (first
    | extract_lets | with_reducible exact Law.refl _ _ | with_reducible assumption
    | with_reducible apply Law.step (complete_law _ _ _ _ _) | with_reducible apply Law.step (updRing_law _ _ _)
    | with_reducible apply Law.step (countHub_law _ _ _ _) | with_reducible refine Law.foldl _ _ _ ?_ ?_
    | (show (_ : List Part) ⊆ _; decide) | (show (_ : List Part) ⊆ _; decide) | (intro _) | split
    | with_reducible refine Law.set_hst _ (by decide) ?_ | (dsimp +zetaDelta only [id]))

theorem execRingFetchComplete_law (r : RingIx) (s : State) :
    OutLaw [.host, .hst, .tally, .sent] s (execRingFetchComplete r s) := by
  unfold execRingFetchComplete
  repeat' (first
    | with_reducible refine OutLaw.next ?_ | extract_lets | with_reducible exact Law.refl _ _ | with_reducible assumption
    | with_reducible apply Law.step (countHub_law _ _ _ _) | with_reducible apply Law.step (acceptEntry_law _ _ _)
    | with_reducible refine Law.foldl _ _ _ ?_ ?_ | (show (_ : List Part) ⊆ _; decide) | (show (_ : List Part) ⊆ _; decide) | (intro _)
    | split | (dsimp +zetaDelta only [id]))

theorem turnTaken_law (r : Nat) (type : Nat) (s : State) :
    Law [.hst] s (turnTaken r type s) := by
  unfold turnTaken
  repeat' (first
    | extract_lets | with_reducible exact Law.refl _ _ | with_reducible assumption | with_reducible refine Law.foldl _ _ _ ?_ ?_
    | (show (_ : List Part) ⊆ _; decide) | (show (_ : List Part) ⊆ _; decide) | (intro _) | split
    | with_reducible refine Law.set_hst _ (by decide) ?_ | (dsimp +zetaDelta only [id]))

theorem startEntry_law (r : Nat) (e : Entry) (s : State) :
    Law [.hst] s (startEntry r e s) := by
  unfold startEntry
  repeat' (first
    | extract_lets | with_reducible exact Law.refl _ _ | with_reducible assumption | with_reducible apply Law.step (updRing_law _ _ _)
    | with_reducible refine Law.foldl _ _ _ ?_ ?_ | (show (_ : List Part) ⊆ _; decide) | (show (_ : List Part) ⊆ _; decide) | (intro _)
    | split | (dsimp +zetaDelta only [id]))

theorem onEntry_law {L : List Part} {s₀ : State} (r : Nat) (type : Nat) (opc : Nat) (s : State) (act : Entry → State) (h₀ : Law L s₀ s) (h_act : ∀ (y0 : Entry), Law L s₀ (act y0)) (hL : [.hst] ⊆ L) :
    Law L s₀ (onEntry r type opc s act) := by
  unfold onEntry
  repeat' (first
    | extract_lets | with_reducible exact Law.refl _ _ | with_reducible assumption | with_reducible apply h_act
    | with_reducible apply Law.step (turnTaken_law _ _ _) | with_reducible refine Law.foldl _ _ _ ?_ ?_
    | (show (_ : List Part) ⊆ _; exact List.Subset.trans (by decide) hL)
    | (show (_ : List Part) ⊆ _; exact List.Subset.trans (by decide) hL) | (intro _) | split | (dsimp +zetaDelta only [id]))

theorem execPost_law (r : RingIx) (s : State) :
    OutLaw [.host, .cores, .hst, .rst, .tally, .log, .sent] s (execPost r s) := by
  unfold execPost
  repeat' (first
    | with_reducible refine OutLaw.next ?_ | extract_lets | with_reducible exact Law.refl _ _ | with_reducible assumption
    | with_reducible apply Law.step (succeed_law _ _ _ _ _) | with_reducible apply onEntry_law
    | with_reducible refine Law.foldl _ _ _ ?_ ?_ | (show (_ : List Part) ⊆ _; decide) | (show (_ : List Part) ⊆ _; decide) | (intro _)
    | split | (dsimp +zetaDelta only [id]))

theorem execAwaitStep_law (r : RingIx) (s : State) :
    OutLaw [.host, .cores, .hst, .rst, .tally, .log, .sent] s (execAwaitStep r s) := by
  unfold execAwaitStep
  repeat' (first
    | with_reducible refine OutLaw.next ?_ | extract_lets | with_reducible exact Law.refl _ _ | with_reducible assumption
    | with_reducible apply Law.step (succeed_law _ _ _ _ _) | with_reducible apply Law.step (startEntry_law _ _ _)
    | with_reducible apply onEntry_law | with_reducible refine Law.foldl _ _ _ ?_ ?_ | (show (_ : List Part) ⊆ _; decide)
    | (show (_ : List Part) ⊆ _; decide) | (intro _) | split | (dsimp +zetaDelta only [id]))

theorem execAwaitDone_law (r : RingIx) (s : State) :
    OutLaw [.host, .cores, .hst, .rst, .tally, .log, .sent] s (execAwaitDone r s) := by
  unfold execAwaitDone
  repeat' (first
    | with_reducible refine OutLaw.next ?_ | extract_lets | with_reducible exact Law.refl _ _ | with_reducible assumption
    | with_reducible apply Law.step (succeed_law _ _ _ _ _) | with_reducible apply Law.step (startEntry_law _ _ _)
    | with_reducible apply onEntry_law | with_reducible refine Law.foldl _ _ _ ?_ ?_ | (show (_ : List Part) ⊆ _; decide)
    | (show (_ : List Part) ⊆ _; decide) | (intro _) | split | (dsimp +zetaDelta only [id]))

theorem ringError_law (r : Nat) (err : Nat) (v : Nat) (s : State) :
    Law [.host, .hst, .tally, .log, .sent] s (ringError r err v s) := by
  unfold ringError
  repeat' (first
    | extract_lets | with_reducible exact Law.refl _ _ | with_reducible assumption
    | with_reducible apply Law.step (postEvent_law _ _ _ _ _ _ _ _) | with_reducible apply Law.step (setRing_law _ _ _)
    | with_reducible apply Law.step (logRec_law _ _ _ _ _ _ _) | with_reducible refine Law.foldl _ _ _ ?_ ?_
    | (show (_ : List Part) ⊆ _; decide) | (show (_ : List Part) ⊆ _; decide) | (intro _) | split | (dsimp +zetaDelta only [id]))

theorem activate_law (r : Nat) (s : State) :
    Law [.hst, .tally, .log] s (activate r s) := by
  unfold activate
  repeat' (first
    | extract_lets | with_reducible exact Law.refl _ _ | with_reducible assumption | with_reducible apply Law.step (setRing_law _ _ _)
    | with_reducible apply Law.step (logRec_law _ _ _ _ _ _ _) | with_reducible refine Law.foldl _ _ _ ?_ ?_
    | (show (_ : List Part) ⊆ _; decide) | (show (_ : List Part) ⊆ _; decide) | (intro _) | split | (dsimp +zetaDelta only [id]))

theorem execRingEnable_law (r : RingIx) (s : State) :
    OutLaw [.hst, .tally, .log] s (execRingEnable r s) := by
  unfold execRingEnable
  repeat' (first
    | with_reducible refine OutLaw.next ?_ | extract_lets | with_reducible exact Law.refl _ _ | with_reducible assumption
    | with_reducible apply Law.step (updRing_law _ _ _) | with_reducible apply Law.step (heldWrite_law _ _ _)
    | with_reducible apply Law.step (activate_law _ _) | with_reducible refine Law.foldl _ _ _ ?_ ?_ | (show (_ : List Part) ⊆ _; decide)
    | (show (_ : List Part) ⊆ _; decide) | (intro _) | split | (dsimp +zetaDelta only [id]))

theorem forgetStage_law (r : Nat) (s : State) :
    Law [.ctxs] s (forgetStage r s) := by
  unfold forgetStage
  repeat' (first
    | extract_lets | with_reducible exact Law.refl _ _ | with_reducible assumption | with_reducible apply Law.step (updCtx_law _ _ _)
    | with_reducible refine Law.foldl _ _ _ ?_ ?_ | (show (_ : List Part) ⊆ _; decide) | (show (_ : List Part) ⊆ _; decide) | (intro _)
    | split | (dsimp +zetaDelta only [id]))

theorem execRingDisable_law (r : RingIx) (s : State) :
    OutLaw [.host, .ctxs, .hst, .tally, .log, .sent] s (execRingDisable r s) := by
  unfold execRingDisable
  repeat' (first
    | with_reducible refine OutLaw.next ?_ | extract_lets | with_reducible exact Law.refl _ _ | with_reducible assumption
    | with_reducible apply Law.step (complete_law _ _ _ _ _) | with_reducible apply Law.step (setRing_law _ _ _)
    | with_reducible apply Law.step (heldWrite_law _ _ _) | with_reducible apply Law.step (forgetStage_law _ _)
    | with_reducible refine Law.foldl _ _ _ ?_ ?_ | (show (_ : List Part) ⊆ _; decide) | (show (_ : List Part) ⊆ _; decide) | (intro _)
    | split | (dsimp +zetaDelta only [id]))

theorem execRingDrainComplete_law (r : RingIx) (s : State) :
    OutLaw [.hst, .tally, .log] s (execRingDrainComplete r s) := by
  unfold execRingDrainComplete
  repeat' (first
    | with_reducible refine OutLaw.next ?_ | extract_lets | with_reducible exact Law.refl _ _ | with_reducible assumption
    | with_reducible apply Law.step (setRing_law _ _ _) | with_reducible apply Law.step (activate_law _ _)
    | with_reducible refine Law.foldl _ _ _ ?_ ?_ | (show (_ : List Part) ⊆ _; decide) | (show (_ : List Part) ⊆ _; decide) | (intro _)
    | split | (dsimp +zetaDelta only [id]))

theorem execMsixTimeExpiry_law (r : RingIx) (s : State) :
    OutLaw [.hst, .tally, .sent] s (execMsixTimeExpiry r s) := by
  unfold execMsixTimeExpiry
  repeat' (first
    | with_reducible refine OutLaw.next ?_ | extract_lets | with_reducible exact Law.refl _ _ | with_reducible assumption
    | with_reducible apply Law.step (sendMsix_law _ _) | with_reducible apply Law.step (setRing_law _ _ _)
    | with_reducible refine Law.foldl _ _ _ ?_ ?_ | (show (_ : List Part) ⊆ _; decide) | (show (_ : List Part) ⊆ _; decide) | (intro _)
    | split | (dsimp +zetaDelta only [id]))

theorem aer_law (x : AerRec) (s : State) :
    Law [.hst] s (aer x s) := by
  unfold aer
  repeat' (first
    | extract_lets | with_reducible exact Law.refl _ _ | with_reducible assumption | with_reducible refine Law.foldl _ _ _ ?_ ?_
    | (show (_ : List Part) ⊆ _; decide) | (show (_ : List Part) ⊆ _; decide) | (intro _) | split
    | with_reducible refine Law.set_hst _ (by decide) ?_ | (dsimp +zetaDelta only [id]))

theorem onBar_law {L : List Part} {s₀ : State} (write : Bool) (addr : Nat) (len : Nat) (s : State) (act : State → State) (h₀ : Law L s₀ s) (h_act : ∀ (y0 : State), Law L s₀ y0 → Law L s₀ (act y0)) (hL : [.hst, .sent] ⊆ L) :
    Law L s₀ (onBar write addr len s act) := by
  unfold onBar
  repeat' (first
    | extract_lets | with_reducible exact Law.refl _ _ | with_reducible assumption | with_reducible apply h_act
    | with_reducible apply Law.step (send_law _ _ _ _) | with_reducible apply Law.step (aer_law _ _)
    | with_reducible refine Law.foldl _ _ _ ?_ ?_ | (show (_ : List Part) ⊆ _; exact List.Subset.trans (by decide) hL)
    | (show (_ : List Part) ⊆ _; exact List.Subset.trans (by decide) hL) | (intro _) | split | (dsimp +zetaDelta only [id]))

theorem doorbellDrop_law (off : Nat) (size : Nat) (state : Nat) (s : State) :
    Law [.tally, .log] s (doorbellDrop off size state s) := by
  unfold doorbellDrop
  repeat' (first
    | extract_lets | with_reducible exact Law.refl _ _ | with_reducible assumption
    | with_reducible apply Law.step (logRec_law _ _ _ _ _ _ _) | with_reducible refine Law.foldl _ _ _ ?_ ?_
    | (show (_ : List Part) ⊆ _; decide) | (show (_ : List Part) ⊆ _; decide) | (intro _) | split | (dsimp +zetaDelta only [id]))

theorem sqTail_law (r : Nat) (off : Nat) (size : Nat) (t : Nat) (s : State) :
    Law [.host, .hst, .tally, .log, .sent] s (sqTail r off size t s) := by
  unfold sqTail
  repeat' (first
    | extract_lets | with_reducible exact Law.refl _ _ | with_reducible assumption | with_reducible apply Law.step (setRing_law _ _ _)
    | with_reducible apply Law.step (ringError_law _ _ _ _) | with_reducible apply Law.step (doorbellDrop_law _ _ _ _)
    | with_reducible refine Law.foldl _ _ _ ?_ ?_ | (show (_ : List Part) ⊆ _; decide) | (show (_ : List Part) ⊆ _; decide) | (intro _)
    | split | (dsimp +zetaDelta only [id]))

theorem cqHead_law (r : Nat) (off : Nat) (size : Nat) (c : Nat) (s : State) :
    Law [.host, .hst, .tally, .log, .sent] s (cqHead r off size c s) := by
  unfold cqHead
  repeat' (first
    | extract_lets | with_reducible exact Law.refl _ _ | with_reducible assumption | with_reducible apply Law.step (setRing_law _ _ _)
    | with_reducible apply Law.step (ringError_law _ _ _ _) | with_reducible apply Law.step (doorbellDrop_law _ _ _ _)
    | with_reducible refine Law.foldl _ _ _ ?_ ?_ | (show (_ : List Part) ⊆ _; decide) | (show (_ : List Part) ⊆ _; decide) | (intro _)
    | split | (dsimp +zetaDelta only [id]))

theorem doorbell_law (off : Nat) (size : Nat) (v : DWord) (s : State) :
    Law [.host, .hst, .tally, .log, .sent] s (doorbell off size v s) := by
  unfold doorbell
  repeat' (first
    | extract_lets | with_reducible exact Law.refl _ _ | with_reducible assumption
    | with_reducible apply Law.step (doorbellDrop_law _ _ _ _) | with_reducible apply Law.step (sqTail_law _ _ _ _ _)
    | with_reducible apply Law.step (cqHead_law _ _ _ _ _) | with_reducible refine Law.foldl _ _ _ ?_ ?_
    | (show (_ : List Part) ⊆ _; decide) | (show (_ : List Part) ⊆ _; decide) | (intro _) | split | (dsimp +zetaDelta only [id]))

theorem execSqTailDoorbell_law (off : Nat) (size : Nat) (v : DWord) (s : State) :
    OutLaw [.host, .hst, .tally, .log, .sent] s (execSqTailDoorbell off size v s) := by
  unfold execSqTailDoorbell
  repeat' (first
    | with_reducible refine OutLaw.next ?_ | extract_lets | with_reducible exact Law.refl _ _ | with_reducible assumption
    | with_reducible apply onBar_law | with_reducible apply Law.step (doorbell_law _ _ _ _) | with_reducible refine Law.foldl _ _ _ ?_ ?_
    | (show (_ : List Part) ⊆ _; decide) | (show (_ : List Part) ⊆ _; decide) | (intro _) | split | (dsimp +zetaDelta only [id]))

theorem execCqHeadDoorbell_law (off : Nat) (size : Nat) (v : DWord) (s : State) :
    OutLaw [.host, .hst, .tally, .log, .sent] s (execCqHeadDoorbell off size v s) := by
  unfold execCqHeadDoorbell
  repeat' (first
    | with_reducible refine OutLaw.next ?_ | extract_lets | with_reducible exact Law.refl _ _ | with_reducible assumption
    | with_reducible apply onBar_law | with_reducible apply Law.step (doorbell_law _ _ _ _) | with_reducible refine Law.foldl _ _ _ ?_ ?_
    | (show (_ : List Part) ⊆ _; decide) | (show (_ : List Part) ⊆ _; decide) | (intro _) | split | (dsimp +zetaDelta only [id]))

end Sys2Proof.Machine
end

