-- ==== Sys2Proof/Laws/Tokens.lean ====
section
/-! SUPPORT. What each operation of Machine/Tokens.lean may touch, one lemma for each, and that it keeps memory in its canonical form. -/

set_option maxRecDepth 4000
set_option linter.all false

namespace Sys2Proof.Machine

theorem doSignal_law (g : Nat) (st : Nat) (r : Stream) (w : IWord) (s : State) :
    Law [.cores, .tally] s (doSignal g st r w s) := by
  unfold doSignal
  repeat' (first
    | extract_lets | with_reducible exact Law.refl _ _ | with_reducible assumption
    | with_reducible apply Law.step (appendToken_law _ _ _ _) | with_reducible apply Law.step (rejectToken_law _ _ _)
    | with_reducible apply Law.step (stallAt_law _ _ _ _ _) | with_reducible apply Law.step (issued_law _ _ _)
    | with_reducible refine Law.foldl _ _ _ ?_ ?_ | (show (_ : List Part) ⊆ _; decide) | (show (_ : List Part) ⊆ _; decide) | (intro _)
    | split | (dsimp +zetaDelta only [id]))

theorem execSignal_law (g : Core) (st : Str) (s : State) :
    OutLaw [.host, .cores, .ctxs, .hst, .tally, .log, .sent] s (execSignal g st s) := by
  unfold execSignal
  repeat' (first
    | with_reducible refine OutLaw.next ?_ | extract_lets | with_reducible exact Law.refl _ _ | with_reducible assumption
    | with_reducible apply front_law | with_reducible apply release_law | with_reducible apply Law.step (doSignal_law _ _ _ _ _)
    | with_reducible refine Law.foldl _ _ _ ?_ ?_ | (show (_ : List Part) ⊆ _; decide) | (show (_ : List Part) ⊆ _; decide) | (intro _)
    | split | (dsimp +zetaDelta only [id]))

theorem execSignalResume_law (g : Core) (st : Str) (s : State) :
    OutLaw [.cores, .tally] s (execSignalResume g st s) := by
  unfold execSignalResume
  repeat' (first
    | with_reducible refine OutLaw.next ?_ | extract_lets | with_reducible exact Law.refl _ _ | with_reducible assumption
    | with_reducible apply Law.step (appendToken_law _ _ _ _) | with_reducible apply Law.step (issued_law _ _ _)
    | with_reducible refine Law.foldl _ _ _ ?_ ?_ | (show (_ : List Part) ⊆ _; decide) | (show (_ : List Part) ⊆ _; decide) | (intro _)
    | split | (dsimp +zetaDelta only [id]))

theorem takeToken_law (g : Nat) (st : Nat) (q : Nat) (d : Nat) (s : State) :
    Law [.cores, .tally] s (takeToken g st q d s) := by
  unfold takeToken
  repeat' (first
    | extract_lets | with_reducible exact Law.refl _ _ | with_reducible assumption | with_reducible apply Law.step (updStrm_law _ _ _ _)
    | with_reducible apply Law.step (setQueue_law _ _ _ _) | with_reducible apply Law.step (issued_law _ _ _)
    | with_reducible refine Law.foldl _ _ _ ?_ ?_ | (show (_ : List Part) ⊆ _; decide) | (show (_ : List Part) ⊆ _; decide) | (intro _)
    | split | (dsimp +zetaDelta only [id]))

theorem execWait_law (g : Core) (st : Str) (s : State) :
    OutLaw [.host, .cores, .ctxs, .hst, .tally, .log, .sent] s (execWait g st s) := by
  unfold execWait
  repeat' (first
    | with_reducible refine OutLaw.next ?_ | extract_lets | with_reducible exact Law.refl _ _ | with_reducible assumption
    | with_reducible apply Law.step (strFault_law _ _ _ _ _ _ _ _) | with_reducible apply Law.step (stallAt_law _ _ _ _ _)
    | with_reducible apply front_law | with_reducible apply Law.step (setQueue_law _ _ _ _)
    | with_reducible apply Law.step (takeToken_law _ _ _ _ _) | with_reducible refine Law.foldl _ _ _ ?_ ?_
    | (show (_ : List Part) ⊆ _; decide) | (show (_ : List Part) ⊆ _; decide) | (intro _) | split | (dsimp +zetaDelta only [id]))

theorem execWaitResume_law (g : Core) (st : Str) (s : State) :
    OutLaw [.cores, .tally] s (execWaitResume g st s) := by
  unfold execWaitResume
  repeat' (first
    | with_reducible refine OutLaw.next ?_ | extract_lets | with_reducible exact Law.refl _ _ | with_reducible assumption
    | with_reducible apply Law.step (takeToken_law _ _ _ _ _) | with_reducible refine Law.foldl _ _ _ ?_ ?_
    | (show (_ : List Part) ⊆ _; decide) | (show (_ : List Part) ⊆ _; decide) | (intro _) | split | (dsimp +zetaDelta only [id]))

theorem execRemoteTokenArrival_law (src : TokSrc) (c : Ctx) (gen : Byte) (g : Core) (q : Queue) (payload : Word) (s : State) :
    OutLaw [.cores, .transit, .rst, .tally, .log] s (execRemoteTokenArrival src c gen g q payload s) := by
  unfold execRemoteTokenArrival
  repeat' (first
    | with_reducible refine OutLaw.next ?_ | extract_lets | with_reducible exact Law.refl _ _ | with_reducible assumption
    | with_reducible apply Law.step (lateDrop_law _ _ _) | with_reducible apply Law.step (remoteToken_law _ _ _ _ _ _ _)
    | with_reducible refine Law.foldl _ _ _ ?_ ?_ | (show (_ : List Part) ⊆ _; decide) | (show (_ : List Part) ⊆ _; decide) | (intro _)
    | split | with_reducible refine Law.set_transit _ (by decide) ?_ | (dsimp +zetaDelta only [id]))

theorem execCoreTqCfgWrite_law (g : Core) (q : Queue) (v : Word) (s : State) :
    OutLaw [.cores, .tally, .log] s (execCoreTqCfgWrite g q v s) := by
  unfold execCoreTqCfgWrite
  repeat' (first
    | with_reducible refine OutLaw.next ?_ | extract_lets | with_reducible exact Law.refl _ _ | with_reducible assumption
    | with_reducible apply Law.step (setQueue_law _ _ _ _) | with_reducible apply Law.step (logCore_law _ _ _ _ _ _ _)
    | with_reducible apply coreWrite_law | with_reducible refine Law.foldl _ _ _ ?_ ?_ | (show (_ : List Part) ⊆ _; decide)
    | (show (_ : List Part) ⊆ _; decide) | (intro _) | split | (dsimp +zetaDelta only [id]))

theorem execTqClear_law (g : Core) (q : Queue) (v : Word) (s : State) :
    OutLaw [.cores, .tally, .log] s (execTqClear g q v s) := by
  unfold execTqClear
  repeat' (first
    | with_reducible refine OutLaw.next ?_ | extract_lets | with_reducible exact Law.refl _ _ | with_reducible assumption
    | with_reducible apply Law.step (setQueue_law _ _ _ _) | with_reducible apply Law.step (logCore_law _ _ _ _ _ _ _)
    | with_reducible apply coreWrite_law | with_reducible refine Law.foldl _ _ _ ?_ ?_ | (show (_ : List Part) ⊆ _; decide)
    | (show (_ : List Part) ⊆ _; decide) | (intro _) | split | (dsimp +zetaDelta only [id]))

theorem setBeats_law (c : Nat) (p : Nat) (b : List Beat) (s : State) :
    Law [.clus] s (setBeats c p b s) := by
  unfold setBeats
  repeat' (first
    | extract_lets | with_reducible exact Law.refl _ _ | with_reducible assumption | with_reducible apply Law.step (updClu_law _ _ _)
    | with_reducible refine Law.foldl _ _ _ ?_ ?_ | (show (_ : List Part) ⊆ _; decide) | (show (_ : List Part) ⊆ _; decide) | (intro _)
    | split | (dsimp +zetaDelta only [id]))

theorem setRes_law (c : Nat) (p : Nat) (n : Nat) (s : State) :
    Law [.clus] s (setRes c p n s) := by
  unfold setRes
  repeat' (first
    | extract_lets | with_reducible exact Law.refl _ _ | with_reducible assumption | with_reducible apply Law.step (updClu_law _ _ _)
    | with_reducible refine Law.foldl _ _ _ ?_ ?_ | (show (_ : List Part) ⊆ _; decide) | (show (_ : List Part) ⊆ _; decide) | (intro _)
    | split | (dsimp +zetaDelta only [id]))

theorem beatMoved_law (c : Nat) (inp : Nat) (rsp : Bool) (s : State) :
    Law [.clus] s (beatMoved c inp rsp s) := by
  unfold beatMoved
  repeat' (first
    | extract_lets | with_reducible exact Law.refl _ _ | with_reducible assumption | with_reducible apply Law.step (updClu_law _ _ _)
    | with_reducible refine Law.foldl _ _ _ ?_ ?_ | (show (_ : List Part) ⊆ _; decide) | (show (_ : List Part) ⊆ _; decide) | (intro _)
    | split | (dsimp +zetaDelta only [id]))

theorem routerDrain_law (c : Nat) (inp : Nat) (out : Nat) (rsp : Bool) (s : State) :
    Law [.clus, .tally] s (routerDrain c inp out rsp s) := by
  unfold routerDrain
  repeat' (first
    | extract_lets | with_reducible exact Law.refl _ _ | with_reducible assumption
    | with_reducible apply Law.step (countAt_law _ _ _ _ _ _ _) | with_reducible apply Law.step (setBeats_law _ _ _ _)
    | with_reducible apply Law.step (setRes_law _ _ _ _) | with_reducible apply Law.step (beatMoved_law _ _ _ _)
    | with_reducible refine Law.foldl _ _ _ ?_ ?_ | (show (_ : List Part) ⊆ _; decide) | (show (_ : List Part) ⊆ _; decide) | (intro _)
    | split | (dsimp +zetaDelta only [id]))

theorem enterBeat_law (c : Nat) (inp : Nat) (b : Beat) (s : State) :
    Law [.clus, .tally] s (enterBeat c inp b s) := by
  unfold enterBeat
  repeat' (first
    | extract_lets | with_reducible exact Law.refl _ _ | with_reducible assumption | with_reducible apply Law.step (countClu_law _ _ _ _)
    | with_reducible apply Law.step (setBeats_law _ _ _ _) | with_reducible apply Law.step (setRes_law _ _ _ _)
    | with_reducible apply Law.step (beatMoved_law _ _ _ _) | with_reducible refine Law.foldl _ _ _ ?_ ?_
    | (show (_ : List Part) ⊆ _; decide) | (show (_ : List Part) ⊆ _; decide) | (intro _) | split | (dsimp +zetaDelta only [id]))

theorem execRouterBeat_law (c : Clu) (inp : Fin 12) (out : Fin 12) (rsp : Bool) (needs : Bool) (held : Bool) (parity : Option (Core × Str)) (s : State) :
    OutLaw [.host, .cores, .clus, .ctxs, .hst, .tally, .log, .sent] s (execRouterBeat c inp out rsp needs held parity s) := by
  unfold execRouterBeat
  repeat' (first
    | with_reducible refine OutLaw.next ?_ | extract_lets | with_reducible exact Law.refl _ _ | with_reducible assumption
    | with_reducible apply Law.step (execFault_law _ _ _ _ _ _) | with_reducible apply Law.step (cluFault_law _ _ _)
    | with_reducible apply Law.step (setBeats_law _ _ _ _) | with_reducible apply Law.step (routerDrain_law _ _ _ _ _)
    | with_reducible apply Law.step (enterBeat_law _ _ _ _) | with_reducible refine Law.foldl _ _ _ ?_ ?_
    | (show (_ : List Part) ⊆ _; decide) | (show (_ : List Part) ⊆ _; decide) | (intro _) | split | (dsimp +zetaDelta only [id]))

theorem execSramCeRateExpiry_law (g : Core) (s : State) :
    OutLaw [.freeCtr, .mem, .host, .cores, .clus, .ctxs, .ddr, .hst, .idb, .rst, .tally, .log, .fab, .link, .stew, .ckpt, .boot, .pins, .side, .sent] s (execSramCeRateExpiry g s) := by
  unfold execSramCeRateExpiry
  repeat' (first
    | with_reducible refine OutLaw.next ?_ | extract_lets | with_reducible exact Law.refl _ _ | with_reducible assumption
    | with_reducible apply Law.step (fenceCore_law _ _ _) | with_reducible apply Law.step (coreFault_law _ _ _)
    | with_reducible refine Law.foldl _ _ _ ?_ ?_ | (show (_ : List Part) ⊆ _; decide) | (show (_ : List Part) ⊆ _; decide) | (intro _)
    | split | (dsimp +zetaDelta only [id]))

theorem execScrubComplete_law (g : Core) (selftestOk : Bool) (s : State) :
    OutLaw [.freeCtr, .mem, .host, .cores, .clus, .ctxs, .ddr, .hst, .idb, .rst, .tally, .log, .fab, .link, .stew, .ckpt, .boot, .pins, .side, .sent] s (execScrubComplete g selftestOk s) := by
  unfold execScrubComplete
  repeat' (first
    | with_reducible refine OutLaw.next ?_ | extract_lets | with_reducible exact Law.refl _ _ | with_reducible assumption
    | with_reducible apply Law.step (scrubCore_law _ _) | with_reducible apply Law.step (fenceCore_law _ _ _)
    | with_reducible apply Law.step (updCore_law _ _ _) | with_reducible apply Law.step (coreFault_law _ _ _)
    | with_reducible refine Law.foldl _ _ _ ?_ ?_ | (show (_ : List Part) ⊆ _; decide) | (show (_ : List Part) ⊆ _; decide) | (intro _)
    | split | (dsimp +zetaDelta only [id]))

end Sys2Proof.Machine
end

