-- ==== Sys2Proof/Laws/Sequencer.lean ====
section
/-! SUPPORT. What each operation of Machine/Sequencer.lean may touch, one lemma for each, and that it keeps memory in its canonical form. -/

set_option maxRecDepth 4000
set_option linter.all false

namespace Sys2Proof.Machine

theorem execNop_law (g : Core) (st : Str) (s : State) :
    OutLaw [.host, .cores, .ctxs, .hst, .tally, .log, .sent] s (execNop g st s) := by
  unfold execNop
  repeat' (first
    | with_reducible refine OutLaw.next ?_ | extract_lets | with_reducible exact Law.refl _ _ | with_reducible assumption
    | with_reducible apply front_law | with_reducible apply Law.step (issued_law _ _ _) | with_reducible refine Law.foldl _ _ _ ?_ ?_
    | (show (_ : List Part) ⊆ _; decide) | (show (_ : List Part) ⊆ _; decide) | (intro _) | split | (dsimp +zetaDelta only [id]))

theorem doHalt_law (g : Nat) (st : Nat) (s : State) :
    Law [.host, .cores, .ctxs, .hst, .rst, .tally, .log, .sent] s (doHalt g st s) := by
  unfold doHalt
  repeat' (first
    | extract_lets | with_reducible exact Law.refl _ _ | with_reducible assumption | with_reducible apply Law.step (updStrm_law _ _ _ _)
    | with_reducible apply Law.step (issued_law _ _ _) | with_reducible apply Law.step (checkDone_law _ _)
    | with_reducible refine Law.foldl _ _ _ ?_ ?_ | (show (_ : List Part) ⊆ _; decide) | (show (_ : List Part) ⊆ _; decide) | (intro _)
    | split | (dsimp +zetaDelta only [id]))

theorem execHalt_law (g : Core) (st : Str) (s : State) :
    OutLaw [.host, .cores, .ctxs, .hst, .rst, .tally, .log, .sent] s (execHalt g st s) := by
  unfold execHalt
  repeat' (first
    | with_reducible refine OutLaw.next ?_ | extract_lets | with_reducible exact Law.refl _ _ | with_reducible assumption
    | with_reducible apply front_law | with_reducible apply release_law | with_reducible apply Law.step (doHalt_law _ _ _)
    | with_reducible refine Law.foldl _ _ _ ?_ ?_ | (show (_ : List Part) ⊆ _; decide) | (show (_ : List Part) ⊆ _; decide) | (intro _)
    | split | (dsimp +zetaDelta only [id]))

theorem doRsignal_law (g : Nat) (st : Nat) (r : Stream) (w : IWord) (s : State) :
    Law [.host, .cores, .ctxs, .transit, .hst, .tally, .log, .sent] s (doRsignal g st r w s) := by
  unfold doRsignal
  repeat' (first
    | extract_lets | with_reducible exact Law.refl _ _ | with_reducible assumption
    | with_reducible apply Law.step (strFault_law _ _ _ _ _ _ _ _) | with_reducible apply Law.step (issued_law _ _ _)
    | with_reducible refine Law.foldl _ _ _ ?_ ?_ | (show (_ : List Part) ⊆ _; decide) | (show (_ : List Part) ⊆ _; decide) | (intro _)
    | split | with_reducible refine Law.set_transit _ (by decide) ?_ | (dsimp +zetaDelta only [id]))

theorem execRsignal_law (g : Core) (st : Str) (s : State) :
    OutLaw [.host, .cores, .ctxs, .transit, .hst, .tally, .log, .sent] s (execRsignal g st s) := by
  unfold execRsignal
  repeat' (first
    | with_reducible refine OutLaw.next ?_ | extract_lets | with_reducible exact Law.refl _ _ | with_reducible assumption
    | with_reducible apply Law.step (strFault_law _ _ _ _ _ _ _ _) | with_reducible apply front_law | with_reducible apply release_law
    | with_reducible apply Law.step (coreFault_law _ _ _) | with_reducible apply Law.step (doRsignal_law _ _ _ _ _)
    | with_reducible refine Law.foldl _ _ _ ?_ ?_ | (show (_ : List Part) ⊆ _; decide) | (show (_ : List Part) ⊆ _; decide) | (intro _)
    | split | (dsimp +zetaDelta only [id]))

theorem execLi_law (g : Core) (st : Str) (s : State) :
    OutLaw [.host, .cores, .ctxs, .hst, .tally, .log, .sent] s (execLi g st s) := by
  unfold execLi
  repeat' (first
    | with_reducible refine OutLaw.next ?_ | extract_lets | with_reducible exact Law.refl _ _ | with_reducible assumption
    | with_reducible apply front_law | with_reducible apply Law.step (updStrm_law _ _ _ _)
    | with_reducible apply Law.step (issued_law _ _ _) | with_reducible refine Law.foldl _ _ _ ?_ ?_ | (show (_ : List Part) ⊆ _; decide)
    | (show (_ : List Part) ⊆ _; decide) | (intro _) | split | (dsimp +zetaDelta only [id]))

theorem execAlu_law (g : Core) (st : Str) (s : State) :
    OutLaw [.host, .cores, .ctxs, .hst, .tally, .log, .sent] s (execAlu g st s) := by
  unfold execAlu
  repeat' (first
    | with_reducible refine OutLaw.next ?_ | extract_lets | with_reducible exact Law.refl _ _ | with_reducible assumption
    | with_reducible apply Law.step (strFault_law _ _ _ _ _ _ _ _) | with_reducible apply front_law
    | with_reducible apply Law.step (updStrm_law _ _ _ _) | with_reducible apply Law.step (issued_law _ _ _)
    | with_reducible refine Law.foldl _ _ _ ?_ ?_ | (show (_ : List Part) ⊆ _; decide) | (show (_ : List Part) ⊆ _; decide) | (intro _)
    | split | (dsimp +zetaDelta only [id]))

theorem execBr_law (g : Core) (st : Str) (s : State) :
    OutLaw [.host, .cores, .ctxs, .hst, .tally, .log, .sent] s (execBr g st s) := by
  unfold execBr
  repeat' (first
    | with_reducible refine OutLaw.next ?_ | extract_lets | with_reducible exact Law.refl _ _ | with_reducible assumption
    | with_reducible apply Law.step (strFault_law _ _ _ _ _ _ _ _) | with_reducible apply front_law
    | with_reducible apply Law.step (updStrm_law _ _ _ _) | with_reducible apply Law.step (issued_law _ _ _)
    | with_reducible refine Law.foldl _ _ _ ?_ ?_ | (show (_ : List Part) ⊆ _; decide) | (show (_ : List Part) ⊆ _; decide) | (intro _)
    | split | (dsimp +zetaDelta only [id]))

theorem execRdsys_law (g : Core) (st : Str) (s : State) :
    OutLaw [.host, .cores, .ctxs, .hst, .tally, .log, .sent] s (execRdsys g st s) := by
  unfold execRdsys
  repeat' (first
    | with_reducible refine OutLaw.next ?_ | extract_lets | with_reducible exact Law.refl _ _ | with_reducible assumption
    | with_reducible apply Law.step (strFault_law _ _ _ _ _ _ _ _) | with_reducible apply front_law
    | with_reducible apply Law.step (updStrm_law _ _ _ _) | with_reducible apply Law.step (issued_law _ _ _)
    | with_reducible refine Law.foldl _ _ _ ?_ ?_ | (show (_ : List Part) ⊆ _; decide) | (show (_ : List Part) ⊆ _; decide) | (intro _)
    | split | (dsimp +zetaDelta only [id]))

theorem execFence_law (g : Core) (st : Str) (s : State) :
    OutLaw [.host, .cores, .ctxs, .hst, .tally, .log, .sent] s (execFence g st s) := by
  unfold execFence
  repeat' (first
    | with_reducible refine OutLaw.next ?_ | extract_lets | with_reducible exact Law.refl _ _ | with_reducible assumption
    | with_reducible apply front_law | with_reducible apply release_law | with_reducible apply Law.step (issued_law _ _ _)
    | with_reducible refine Law.foldl _ _ _ ?_ ?_ | (show (_ : List Part) ⊆ _; decide) | (show (_ : List Part) ⊆ _; decide) | (intro _)
    | split | (dsimp +zetaDelta only [id]))

theorem doStepmark_law (g : Nat) (st : Nat) (r : Stream) (w : IWord) (s : State) :
    Law [.freeCtr, .mem, .host, .cores, .clus, .ctxs, .ddr, .hst, .idb, .rst, .tally, .log, .fab, .link, .stew, .ckpt, .boot, .pins, .side, .sent] s (doStepmark g st r w s) := by
  unfold doStepmark
  repeat' (first
    | extract_lets | with_reducible exact Law.refl _ _ | with_reducible assumption | with_reducible apply Law.step (updCtx_law _ _ _)
    | with_reducible apply Law.step (issued_law _ _ _) | with_reducible apply Law.step (onStep_law _ _ _)
    | with_reducible refine Law.foldl _ _ _ ?_ ?_ | (show (_ : List Part) ⊆ _; decide) | (show (_ : List Part) ⊆ _; decide) | (intro _)
    | split | (dsimp +zetaDelta only [id]))

theorem execStepmark_law (g : Core) (st : Str) (s : State) :
    OutLaw [.freeCtr, .mem, .host, .cores, .clus, .ctxs, .ddr, .hst, .idb, .rst, .tally, .log, .fab, .link, .stew, .ckpt, .boot, .pins, .side, .sent] s (execStepmark g st s) := by
  unfold execStepmark
  repeat' (first
    | with_reducible refine OutLaw.next ?_ | extract_lets | with_reducible exact Law.refl _ _ | with_reducible assumption
    | with_reducible apply front_law | with_reducible apply release_law | with_reducible apply Law.step (doStepmark_law _ _ _ _ _)
    | with_reducible refine Law.foldl _ _ _ ?_ ?_ | (show (_ : List Part) ⊆ _; decide) | (show (_ : List Part) ⊆ _; decide) | (intro _)
    | split | (dsimp +zetaDelta only [id]))

theorem doVstat_law (g : Nat) (st : Nat) (r : Stream) (w : IWord) (s : State) :
    Law [.cores, .tally] s (doVstat g st r w s) := by
  unfold doVstat
  repeat' (first
    | extract_lets | with_reducible exact Law.refl _ _ | with_reducible assumption | with_reducible apply Law.step (updStrm_law _ _ _ _)
    | with_reducible apply Law.step (issued_law _ _ _) | with_reducible refine Law.foldl _ _ _ ?_ ?_ | (show (_ : List Part) ⊆ _; decide)
    | (show (_ : List Part) ⊆ _; decide) | (intro _) | split | (dsimp +zetaDelta only [id]))

theorem execVstat_law (g : Core) (st : Str) (s : State) :
    OutLaw [.host, .cores, .ctxs, .hst, .tally, .log, .sent] s (execVstat g st s) := by
  unfold execVstat
  repeat' (first
    | with_reducible refine OutLaw.next ?_ | extract_lets | with_reducible exact Law.refl _ _ | with_reducible assumption
    | with_reducible apply Law.step (strFault_law _ _ _ _ _ _ _ _) | with_reducible apply Law.step (stallAt_law _ _ _ _ _)
    | with_reducible apply front_law | with_reducible apply Law.step (doVstat_law _ _ _ _ _) | with_reducible refine Law.foldl _ _ _ ?_ ?_
    | (show (_ : List Part) ⊆ _; decide) | (show (_ : List Part) ⊆ _; decide) | (intro _) | split | (dsimp +zetaDelta only [id]))

theorem execReleaseComplete_law (g : Core) (st : Str) (s : State) :
    OutLaw [.freeCtr, .mem, .host, .cores, .clus, .ctxs, .transit, .ddr, .hst, .idb, .rst, .tally, .log, .fab, .link, .stew, .ckpt, .boot, .pins, .side, .sent] s (execReleaseComplete g st s) := by
  unfold execReleaseComplete
  repeat' (first
    | with_reducible refine OutLaw.next ?_ | extract_lets | with_reducible exact Law.refl _ _ | with_reducible assumption
    | with_reducible apply Law.step (issued_law _ _ _) | with_reducible apply Law.step (doHalt_law _ _ _)
    | with_reducible apply Law.step (doRsignal_law _ _ _ _ _) | with_reducible apply Law.step (doStepmark_law _ _ _ _ _)
    | with_reducible apply Law.step (doVstat_law _ _ _ _ _) | with_reducible apply Law.step (doSignal_law _ _ _ _ _)
    | with_reducible refine Law.foldl _ _ _ ?_ ?_ | (show (_ : List Part) ⊆ _; decide) | (show (_ : List Part) ⊆ _; decide) | (intro _)
    | split | (dsimp +zetaDelta only [id]))

theorem issueXfer_law (g : Nat) (st : Nat) (w : IWord) (r : Stream) (x : Xfer_) (write : Bool) (s : State) :
    Law [.freeCtr, .mem, .host, .cores, .clus, .ctxs, .ddr, .hst, .idb, .rst, .tally, .log, .fab, .link, .stew, .ckpt, .boot, .pins, .side, .sent] s (issueXfer g st w r x write s) := by
  unfold issueXfer
  repeat' (first
    | extract_lets | with_reducible exact Law.refl _ _ | with_reducible assumption | with_reducible apply Law.step (updStrm_law _ _ _ _)
    | with_reducible apply Law.step (issued_law _ _ _) | with_reducible apply Law.step (newXfer_law _ _)
    | with_reducible refine Law.foldl _ _ _ ?_ ?_ | (show (_ : List Part) ⊆ _; decide) | (show (_ : List Part) ⊆ _; decide) | (intro _)
    | split | (dsimp +zetaDelta only [id]))

theorem execGet_law (g : Core) (st : Str) (s : State) :
    OutLaw [.freeCtr, .mem, .host, .cores, .clus, .ctxs, .ddr, .hst, .idb, .rst, .tally, .log, .fab, .link, .stew, .ckpt, .boot, .pins, .side, .sent] s (execGet g st s) := by
  unfold execGet
  repeat' (first
    | with_reducible refine OutLaw.next ?_ | extract_lets | with_reducible exact Law.refl _ _ | with_reducible assumption
    | with_reducible apply Law.step (strFault_law _ _ _ _ _ _ _ _) | with_reducible apply Law.step (accFault_law _ _ _ _ _ _ _ _)
    | with_reducible apply front_law | with_reducible apply Law.step (issueXfer_law _ _ _ _ _ _ _)
    | with_reducible refine Law.foldl _ _ _ ?_ ?_ | (show (_ : List Part) ⊆ _; decide) | (show (_ : List Part) ⊆ _; decide) | (intro _)
    | split | (dsimp +zetaDelta only [id]))

theorem execPut_law (g : Core) (st : Str) (s : State) :
    OutLaw [.freeCtr, .mem, .host, .cores, .clus, .ctxs, .ddr, .hst, .idb, .rst, .tally, .log, .fab, .link, .stew, .ckpt, .boot, .pins, .side, .sent] s (execPut g st s) := by
  unfold execPut
  repeat' (first
    | with_reducible refine OutLaw.next ?_ | extract_lets | with_reducible exact Law.refl _ _ | with_reducible assumption
    | with_reducible apply Law.step (strFault_law _ _ _ _ _ _ _ _) | with_reducible apply Law.step (accFault_law _ _ _ _ _ _ _ _)
    | with_reducible apply front_law | with_reducible apply Law.step (issueXfer_law _ _ _ _ _ _ _)
    | with_reducible refine Law.foldl _ _ _ ?_ ?_ | (show (_ : List Part) ⊆ _; decide) | (show (_ : List Part) ⊆ _; decide) | (intro _)
    | split | (dsimp +zetaDelta only [id]))

theorem copyRows_law (len : Nat) (l : List (Nat × Nat)) (s : State) : Law [.freeCtr, .mem, .host, .cores, .clus, .ddr, .tally, .ckpt] s (copyRows len l s) := by
  induction l generalizing s with
  | nil => exact Law.refl _ s
  | cons x t ih => exact Law.trans (Law.step (store_law _ _ s) (by decide) (Law.refl _ s)) (ih _)

theorem copyLines_law (keep : Nat → Bool) (len : Nat) (l : List (Nat × Nat)) (s : State) : Law [.freeCtr, .mem, .host, .cores, .clus, .ddr, .tally, .ckpt] s (copyLines keep len l s) := by
  induction l generalizing s with
  | nil => exact Law.refl _ s
  | cons x t ih =>
    exact Law.trans (Law.foldl _ _ _ (Law.refl _ s) fun y p h => Law.step (store_law _ _ y) (by decide) h) (ih _)

theorem ddrReady_law (ps : List (Nat × Nat)) (len : Nat) (s : State) :
    Law [.freeCtr, .mem, .host, .cores, .clus, .ctxs, .ddr, .hst, .tally, .log, .fab, .link, .stew, .ckpt, .boot, .pins, .side, .sent] s (ddrReady ps len s) := by
  unfold ddrReady
  repeat' (first
    | extract_lets | with_reducible exact Law.refl _ _ | with_reducible assumption | with_reducible apply Law.step (clearFirst_law _ _ _)
    | with_reducible apply Law.step (readRange_law _ _ _) | with_reducible refine Law.foldl _ _ _ ?_ ?_
    | (show (_ : List Part) ⊆ _; decide) | (show (_ : List Part) ⊆ _; decide) | (intro _) | split | (dsimp +zetaDelta only [id]))

theorem xferPart_law (ps : List (Nat × Nat)) (len : Nat) (s : State) :
    Law [.freeCtr, .mem, .host, .cores, .clus, .ddr, .tally, .ckpt] s (xferPart ps len s) := by
  unfold xferPart
  dsimp only [drawFree]
  repeat' (first
    | extract_lets | with_reducible exact Law.refl _ _ | with_reducible assumption | with_reducible apply Law.step (copyLines_law _ _ _ _)
    | with_reducible refine Law.foldl _ _ _ ?_ ?_ | (show (_ : List Part) ⊆ _; decide) | (show (_ : List Part) ⊆ _; decide) | (intro _)
    | split | with_reducible refine Law.set_freeCtr _ (by decide) ?_ | (dsimp +zetaDelta only [id]))

theorem finishXfer_law {L : List Part} {s₀ : State} (g : Nat) (st : Nat) (op : LongOp) (x : Xfer_) (write : Bool) (ecc : Ecc) (s : State) (done : State → State) (h₀ : Law L s₀ s) (h_done : ∀ (y0 : State), Law L s₀ y0 → Law L s₀ (done y0)) (hL : [.freeCtr, .mem, .host, .cores, .clus, .ctxs, .ddr, .hst, .idb, .rst, .tally, .log, .fab, .link, .stew, .ckpt, .boot, .pins, .side, .sent] ⊆ L) :
    Law L s₀ (finishXfer g st op x write ecc s done) := by
  unfold finishXfer
  repeat' (first
    | extract_lets | with_reducible exact Law.refl _ _ | with_reducible assumption | with_reducible apply h_done
    | with_reducible apply Law.step (eccDouble_law _ _) | with_reducible apply Law.step (applyEcc_law _ _ _)
    | with_reducible apply Law.step (execFault_law _ _ _ _ _ _) | with_reducible apply Law.step (updStrm_law _ _ _ _)
    | with_reducible apply Law.step (dropXfer_law _ _) | with_reducible apply Law.step (copyRows_law _ _ _)
    | with_reducible apply Law.step (ddrReady_law _ _ _) | with_reducible apply Law.step (xferPart_law _ _ _)
    | with_reducible refine Law.foldl _ _ _ ?_ ?_ | (show (_ : List Part) ⊆ _; exact List.Subset.trans (by decide) hL)
    | (show (_ : List Part) ⊆ _; exact List.Subset.trans (by decide) hL) | (intro _) | split | (dsimp +zetaDelta only [id]))

theorem execGetComplete_law (g : Core) (i : Nat) (ecc : Ecc) (s : State) :
    OutLaw [.freeCtr, .mem, .host, .cores, .clus, .ctxs, .ddr, .hst, .idb, .rst, .tally, .log, .fab, .link, .stew, .ckpt, .boot, .pins, .side, .sent] s (execGetComplete g i ecc s) := by
  unfold execGetComplete
  repeat' (first
    | with_reducible refine OutLaw.next ?_ | extract_lets | with_reducible exact Law.refl _ _ | with_reducible assumption
    | with_reducible apply finishXfer_law | with_reducible refine Law.foldl _ _ _ ?_ ?_ | (show (_ : List Part) ⊆ _; decide)
    | (show (_ : List Part) ⊆ _; decide) | (intro _) | split | (dsimp +zetaDelta only [id]))

theorem putToken_law (op : LongOp) (da : Nat) (s : State) :
    Law [.cores, .rst, .tally, .log] s (putToken op da s) := by
  unfold putToken
  repeat' (first
    | extract_lets | with_reducible exact Law.refl _ _ | with_reducible assumption
    | with_reducible apply Law.step (remoteToken_law _ _ _ _ _ _ _) | with_reducible refine Law.foldl _ _ _ ?_ ?_
    | (show (_ : List Part) ⊆ _; decide) | (show (_ : List Part) ⊆ _; decide) | (intro _) | split | (dsimp +zetaDelta only [id]))

theorem execPutComplete_law (g : Core) (i : Nat) (ecc : Ecc) (s : State) :
    OutLaw [.freeCtr, .mem, .host, .cores, .clus, .ctxs, .ddr, .hst, .idb, .rst, .tally, .log, .fab, .link, .stew, .ckpt, .boot, .pins, .side, .sent] s (execPutComplete g i ecc s) := by
  unfold execPutComplete
  repeat' (first
    | with_reducible refine OutLaw.next ?_ | extract_lets | with_reducible exact Law.refl _ _ | with_reducible assumption
    | with_reducible apply finishXfer_law | with_reducible apply Law.step (putToken_law _ _ _)
    | with_reducible refine Law.foldl _ _ _ ?_ ?_ | (show (_ : List Part) ⊆ _; decide) | (show (_ : List Part) ⊆ _; decide) | (intro _)
    | split | (dsimp +zetaDelta only [id]))

theorem syncDone_law (g : Nat) (st : Nat) (d : Nat) (outcome : Nat) (s : State) :
    Law [.cores, .tally] s (syncDone g st d outcome s) := by
  unfold syncDone
  repeat' (first
    | extract_lets | with_reducible exact Law.refl _ _ | with_reducible assumption | with_reducible apply Law.step (updStrm_law _ _ _ _)
    | with_reducible apply Law.step (issued_law _ _ _) | with_reducible refine Law.foldl _ _ _ ?_ ?_ | (show (_ : List Part) ⊆ _; decide)
    | (show (_ : List Part) ⊆ _; decide) | (intro _) | split | (dsimp +zetaDelta only [id]))

theorem modeApply_law (c : Nat) (m : StagedMode) (s : State) :
    Law [.host, .cores, .ctxs, .hst, .tally, .log, .sent] s (modeApply c m s) := by
  unfold modeApply
  repeat' (first
    | extract_lets | with_reducible exact Law.refl _ _ | with_reducible assumption | with_reducible apply Law.step (releaseSync_law _ _ _)
    | with_reducible apply Law.step (completeMode_law _ _ _ _) | with_reducible apply Law.step (updCtx_law _ _ _)
    | with_reducible apply Law.step (logCore_law _ _ _ _ _ _ _) | with_reducible refine Law.foldl _ _ _ ?_ ?_
    | (show (_ : List Part) ⊆ _; decide) | (show (_ : List Part) ⊆ _; decide) | (intro _) | split | (dsimp +zetaDelta only [id]))

theorem execModesync_law (g : Core) (st : Str) (s : State) :
    OutLaw [.host, .cores, .ctxs, .hst, .tally, .log, .sent] s (execModesync g st s) := by
  unfold execModesync
  repeat' (first
    | with_reducible refine OutLaw.next ?_ | extract_lets | with_reducible exact Law.refl _ _ | with_reducible assumption
    | with_reducible apply Law.step (modeAbort_law _ _ _) | with_reducible apply Law.step (stallAt_law _ _ _ _ _)
    | with_reducible apply front_law | with_reducible apply Law.step (updStrm_law _ _ _ _)
    | with_reducible apply Law.step (updCtx_law _ _ _) | with_reducible apply Law.step (syncDone_law _ _ _ _ _)
    | with_reducible apply Law.step (modeApply_law _ _ _) | with_reducible refine Law.foldl _ _ _ ?_ ?_
    | (show (_ : List Part) ⊆ _; decide) | (show (_ : List Part) ⊆ _; decide) | (intro _) | split | (dsimp +zetaDelta only [id]))

theorem execModeEditionTimeout_law (c : Ctx) (s : State) :
    OutLaw [.host, .cores, .ctxs, .hst, .tally, .log, .sent] s (execModeEditionTimeout c s) := by
  unfold execModeEditionTimeout
  repeat' (first
    | with_reducible refine OutLaw.next ?_ | extract_lets | with_reducible exact Law.refl _ _ | with_reducible assumption
    | with_reducible apply Law.step (modeAbort_law _ _ _) | with_reducible refine Law.foldl _ _ _ ?_ ?_
    | (show (_ : List Part) ⊆ _; decide) | (show (_ : List Part) ⊆ _; decide) | (intro _) | split | (dsimp +zetaDelta only [id]))

theorem fetchFault_law (g : Nat) (st : Nat) (cause : Nat) (pc : Word) (s : State) :
    Law [.freeCtr, .host, .cores, .clus, .ctxs, .hst, .tally, .log, .sent] s (fetchFault g st cause pc s) := by
  unfold fetchFault
  dsimp only [drawFree]
  repeat' (first
    | extract_lets | with_reducible exact Law.refl _ _ | with_reducible assumption
    | with_reducible apply Law.step (strFault_law _ _ _ _ _ _ _ _) | with_reducible apply Law.step (coreFault_law _ _ _)
    | with_reducible apply Law.step (cluFault_law _ _ _) | with_reducible apply Law.step (logCore_law _ _ _ _ _ _ _)
    | with_reducible refine Law.foldl _ _ _ ?_ ?_ | (show (_ : List Part) ⊆ _; decide) | (show (_ : List Part) ⊆ _; decide) | (intro _)
    | split | with_reducible refine Law.set_freeCtr _ (by decide) ?_ | (dsimp +zetaDelta only [id]))

theorem execFetchFill_law (g : Core) (st : Str) (ecc : Ecc) (s : State) :
    OutLaw [.freeCtr, .mem, .host, .cores, .clus, .ctxs, .ddr, .hst, .idb, .rst, .tally, .log, .fab, .link, .stew, .ckpt, .boot, .pins, .side, .sent] s (execFetchFill g st ecc s) := by
  unfold execFetchFill
  repeat' (first
    | with_reducible refine OutLaw.next ?_ | extract_lets | with_reducible exact Law.refl _ _ | with_reducible assumption
    | with_reducible apply Law.step (eccDouble_law _ _) | with_reducible apply Law.step (applyEcc_law _ _ _)
    | with_reducible apply Law.step (updStrm_law _ _ _ _) | with_reducible apply Law.step (fetchFault_law _ _ _ _ _)
    | with_reducible refine Law.foldl _ _ _ ?_ ?_ | (show (_ : List Part) ⊆ _; decide) | (show (_ : List Part) ⊆ _; decide) | (intro _)
    | split | (dsimp +zetaDelta only [id]))

theorem execStart_law (g : Core) (st : Str) (v : Word) (s : State) :
    OutLaw [.cores, .ctxs, .tally, .log] s (execStart g st v s) := by
  unfold execStart
  repeat' (first
    | with_reducible refine OutLaw.next ?_ | extract_lets | with_reducible exact Law.refl _ _ | with_reducible assumption
    | with_reducible apply Law.step (startStream_law _ _ _) | with_reducible apply Law.step (updStrm_law _ _ _ _)
    | with_reducible apply Law.step (logCore_law _ _ _ _ _ _ _) | with_reducible apply coreWrite_law
    | with_reducible refine Law.foldl _ _ _ ?_ ?_ | (show (_ : List Part) ⊆ _; decide) | (show (_ : List Part) ⊆ _; decide) | (intro _)
    | split | (dsimp +zetaDelta only [id]))

theorem execStop_law (g : Core) (st : Str) (v : Word) (s : State) :
    OutLaw [.cores, .ctxs, .tally, .log] s (execStop g st v s) := by
  unfold execStop
  repeat' (first
    | with_reducible refine OutLaw.next ?_ | extract_lets | with_reducible exact Law.refl _ _ | with_reducible assumption
    | with_reducible apply Law.step (stopStream_law _ _ _) | with_reducible apply Law.step (updStrm_law _ _ _ _)
    | with_reducible apply coreWrite_law | with_reducible refine Law.foldl _ _ _ ?_ ?_ | (show (_ : List Part) ⊆ _; decide)
    | (show (_ : List Part) ⊆ _; decide) | (intro _) | split | (dsimp +zetaDelta only [id]))

theorem execStreamStopped_law (g : Core) (st : Str) (s : State) :
    OutLaw [.cores, .ctxs] s (execStreamStopped g st s) := by
  unfold execStreamStopped
  repeat' (first
    | with_reducible refine OutLaw.next ?_ | extract_lets | with_reducible exact Law.refl _ _ | with_reducible assumption
    | with_reducible apply Law.step (startStream_law _ _ _) | with_reducible apply Law.step (updStrm_law _ _ _ _)
    | with_reducible refine Law.foldl _ _ _ ?_ ?_ | (show (_ : List Part) ⊆ _; decide) | (show (_ : List Part) ⊆ _; decide) | (intro _)
    | split | (dsimp +zetaDelta only [id]))

end Sys2Proof.Machine
end

