-- ==== Sys2Proof/Laws/Admin.lean ====
section
/-! SUPPORT. What each operation of Machine/Admin.lean may touch, one lemma for each, and that it keeps memory in its canonical form. -/

set_option maxRecDepth 4000
set_option linter.all false

namespace Sys2Proof.Machine

theorem tableRead_law (r : Nat) (e : Entry) (da : Nat) (n : Nat) (s : State) :
    Law [.freeCtr, .mem, .host, .cores, .clus, .ctxs, .ddr, .hst, .idb, .rst, .tally, .log, .fab, .link, .stew, .ckpt, .boot, .pins, .side, .sent] s (tableRead r e da n s) := by
  unfold tableRead
  repeat' (first
    | extract_lets | with_reducible exact Law.refl _ _ | with_reducible assumption | with_reducible apply Law.step (readNoted_law _ _ _)
    | with_reducible refine Law.foldl _ _ _ ?_ ?_ | (show (_ : List Part) ⊆ _; decide) | (show (_ : List Part) ⊆ _; decide) | (intro _)
    | split | (dsimp +zetaDelta only [id]))

theorem withTable_law {L : List Part} {s₀ : State} (r : Nat) (e : Entry) (da : Nat) (n : Nat) (s : State) (act : List Byte → State → State) (h₀ : Law L s₀ s) (h_act : ∀ (y0 : List Byte) (y1 : State), Law L s₀ y1 → Law L s₀ (act y0 y1)) (hL : [.freeCtr, .mem, .host, .cores, .clus, .ctxs, .ddr, .hst, .idb, .rst, .tally, .log, .fab, .link, .stew, .ckpt, .boot, .pins, .side, .sent] ⊆ L) :
    Law L s₀ (withTable r e da n s act) := by
  unfold withTable
  repeat' (first
    | extract_lets | with_reducible exact Law.refl _ _ | with_reducible assumption | with_reducible apply h_act
    | with_reducible apply Law.step (tableRead_law _ _ _ _ _) | with_reducible apply Law.step (complete_law _ _ _ _ _)
    | with_reducible refine Law.foldl _ _ _ ?_ ?_ | (show (_ : List Part) ⊆ _; exact List.Subset.trans (by decide) hL)
    | (show (_ : List Part) ⊆ _; exact List.Subset.trans (by decide) hL) | (intro _) | split | (dsimp +zetaDelta only [id]))

theorem writeTable_law (r : Nat) (e : Entry) (da : Nat) (bs : List Byte) (s : State) :
    Law [.freeCtr, .mem, .host, .cores, .clus, .ddr, .tally, .ckpt] s (writeTable r e da bs s).2 := by
  unfold writeTable
  repeat' (first
    | extract_lets | with_reducible exact Law.refl _ _ | with_reducible assumption | with_reducible apply Law.step (store_law _ _ _)
    | with_reducible refine Law.foldl _ _ _ ?_ ?_ | (show (_ : List Part) ⊆ _; decide) | (show (_ : List Part) ⊆ _; decide) | (intro _)
    | split | (dsimp +zetaDelta only [id]))

theorem onAdmin_law {L : List Part} {s₀ : State} (r : Nat) (opc : Nat) (s : State) (act : Entry → State) (h₀ : Law L s₀ s) (h_act : ∀ (y0 : Entry), Law L s₀ (act y0)) (hL : [.hst] ⊆ L) :
    Law L s₀ (onAdmin r opc s act) := by
  unfold onAdmin
  repeat' (first
    | extract_lets | with_reducible exact Law.refl _ _ | with_reducible assumption | with_reducible apply h_act
    | with_reducible apply onEntry_law | with_reducible refine Law.foldl _ _ _ ?_ ?_
    | (show (_ : List Part) ⊆ _; exact List.Subset.trans (by decide) hL)
    | (show (_ : List Part) ⊆ _; exact List.Subset.trans (by decide) hL) | (intro _) | split | (dsimp +zetaDelta only [id]))

theorem setWindow_law (c : Nat) (s : State) (w : Nat × Nat × Nat) :
    Law [.clus] s (setWindow c s w) := by
  unfold setWindow
  repeat' (first
    | extract_lets | with_reducible exact Law.refl _ _ | with_reducible assumption | with_reducible apply Law.step (updClu_law _ _ _)
    | with_reducible refine Law.foldl _ _ _ ?_ ?_ | (show (_ : List Part) ⊆ _; decide) | (show (_ : List Part) ⊆ _; decide) | (intro _)
    | split | (dsimp +zetaDelta only [id]))

theorem setList_law (c : Nat) (s : State) (l : Nat × Nat × Nat) :
    Law [.clus] s (setList c s l) := by
  unfold setList
  repeat' (first
    | extract_lets | with_reducible exact Law.refl _ _ | with_reducible assumption | with_reducible apply Law.step (updClu_law _ _ _)
    | with_reducible refine Law.foldl _ _ _ ?_ ?_ | (show (_ : List Part) ⊆ _; decide) | (show (_ : List Part) ⊆ _; decide) | (intro _)
    | split | (dsimp +zetaDelta only [id]))

theorem makeCtx_law (c : Nat) (gs : List Nat) (t : CtxTable) (seed : DWord) (s : State) :
    Law [.cores, .clus, .ctxs] s (makeCtx c gs t seed s) := by
  unfold makeCtx
  repeat' (first
    | extract_lets | with_reducible exact Law.refl _ _ | with_reducible assumption | with_reducible apply Law.step (setWindow_law _ _ _)
    | with_reducible apply Law.step (setList_law _ _ _) | with_reducible apply Law.step (updCore_law _ _ _)
    | with_reducible apply Law.step (setCtx_law _ _ _) | with_reducible refine Law.foldl _ _ _ ?_ ?_ | (show (_ : List Part) ⊆ _; decide)
    | (show (_ : List Part) ⊆ _; decide) | (intro _) | split | (dsimp +zetaDelta only [id]))

theorem doCreate_law (r : Nat) (e : Entry) (s : State) :
    Law [.freeCtr, .mem, .host, .cores, .clus, .ctxs, .ddr, .hst, .idb, .rst, .tally, .log, .fab, .link, .stew, .ckpt, .boot, .pins, .side, .sent] s (doCreate r e s) := by
  unfold doCreate
  repeat' (first
    | extract_lets | with_reducible exact Law.refl _ _ | with_reducible assumption | with_reducible apply withTable_law
    | with_reducible apply Law.step (makeCtx_law _ _ _ _ _) | with_reducible apply Law.step (complete_law _ _ _ _ _)
    | with_reducible refine Law.foldl _ _ _ ?_ ?_ | (show (_ : List Part) ⊆ _; decide) | (show (_ : List Part) ⊆ _; decide) | (intro _)
    | split | (dsimp +zetaDelta only [id]))

theorem execCtxCreate_law (r : RingIx) (s : State) :
    OutLaw [.freeCtr, .mem, .host, .cores, .clus, .ctxs, .ddr, .hst, .idb, .rst, .tally, .log, .fab, .link, .stew, .ckpt, .boot, .pins, .side, .sent] s (execCtxCreate r s) := by
  unfold execCtxCreate
  repeat' (first
    | with_reducible refine OutLaw.next ?_ | extract_lets | with_reducible exact Law.refl _ _ | with_reducible assumption
    | with_reducible apply onAdmin_law | with_reducible apply Law.step (doCreate_law _ _ _) | with_reducible refine Law.foldl _ _ _ ?_ ?_
    | (show (_ : List Part) ⊆ _; decide) | (show (_ : List Part) ⊆ _; decide) | (intro _) | split | (dsimp +zetaDelta only [id]))

theorem startFrom_law (g : Nat) (st : Nat) (pc : Nat) (s : State) :
    Law [.cores, .ctxs] s (startFrom g st pc s) := by
  unfold startFrom
  repeat' (first
    | extract_lets | with_reducible exact Law.refl _ _ | with_reducible assumption | with_reducible apply Law.step (startStream_law _ _ _)
    | with_reducible apply Law.step (updStrm_law _ _ _ _) | with_reducible refine Law.foldl _ _ _ ?_ ?_
    | (show (_ : List Part) ⊆ _; decide) | (show (_ : List Part) ⊆ _; decide) | (intro _) | split | (dsimp +zetaDelta only [id]))

theorem startAll_law (c : Nat) (bs : List Byte) (s : State) :
    Law [.cores, .ctxs] s (startAll c bs s) := by
  unfold startAll
  repeat' (first
    | extract_lets | with_reducible exact Law.refl _ _ | with_reducible assumption | with_reducible apply Law.step (startFrom_law _ _ _ _)
    | with_reducible refine Law.foldl _ _ _ ?_ ?_ | (show (_ : List Part) ⊆ _; decide) | (show (_ : List Part) ⊆ _; decide) | (intro _)
    | split | (dsimp +zetaDelta only [id]))

theorem doStart_law (r : Nat) (e : Entry) (s : State) :
    Law [.freeCtr, .mem, .host, .cores, .clus, .ctxs, .ddr, .hst, .idb, .rst, .tally, .log, .fab, .link, .stew, .ckpt, .boot, .pins, .side, .sent] s (doStart r e s) := by
  unfold doStart
  repeat' (first
    | extract_lets | with_reducible exact Law.refl _ _ | with_reducible assumption | with_reducible apply withTable_law
    | with_reducible apply Law.step (startAll_law _ _ _) | with_reducible apply Law.step (complete_law _ _ _ _ _)
    | with_reducible refine Law.foldl _ _ _ ?_ ?_ | (show (_ : List Part) ⊆ _; decide) | (show (_ : List Part) ⊆ _; decide) | (intro _)
    | split | (dsimp +zetaDelta only [id]))

theorem heldCommand_law {L : List Part} {s₀ : State} (r : Nat) (e : Entry) (s : State) (act : State) (h₀ : Law L s₀ s) (h_act : Law L s₀ act) (hL : [.hst, .rst] ⊆ L) :
    Law L s₀ (heldCommand r e s act) := by
  unfold heldCommand
  repeat' (first
    | extract_lets | with_reducible exact Law.refl _ _ | with_reducible assumption | with_reducible apply Law.step (startEntry_law _ _ _)
    | with_reducible refine Law.foldl _ _ _ ?_ ?_ | (show (_ : List Part) ⊆ _; exact List.Subset.trans (by decide) hL)
    | (show (_ : List Part) ⊆ _; exact List.Subset.trans (by decide) hL) | (intro _) | split
    | with_reducible refine Law.set_rst _ (Law.in_sub hL (by decide)) ?_ | (dsimp +zetaDelta only [id]))

theorem execCtxStart_law (r : RingIx) (s : State) :
    OutLaw [.freeCtr, .mem, .host, .cores, .clus, .ctxs, .ddr, .hst, .idb, .rst, .tally, .log, .fab, .link, .stew, .ckpt, .boot, .pins, .side, .sent] s (execCtxStart r s) := by
  unfold execCtxStart
  repeat' (first
    | with_reducible refine OutLaw.next ?_ | extract_lets | with_reducible exact Law.refl _ _ | with_reducible assumption
    | with_reducible apply onAdmin_law | with_reducible apply Law.step (doStart_law _ _ _) | with_reducible apply heldCommand_law
    | with_reducible refine Law.foldl _ _ _ ?_ ?_ | (show (_ : List Part) ⊆ _; decide) | (show (_ : List Part) ⊆ _; decide) | (intro _)
    | split | (dsimp +zetaDelta only [id]))

theorem doTeardown_law (r : Nat) (e : Entry) (s : State) :
    Law [.freeCtr, .mem, .host, .cores, .clus, .ctxs, .ddr, .hst, .tally, .log, .fab, .link, .stew, .ckpt, .pins, .side, .sent] s (doTeardown r e s) := by
  unfold doTeardown
  repeat' (first
    | extract_lets | with_reducible exact Law.refl _ _ | with_reducible assumption
    | with_reducible apply Law.step (complete_law _ _ _ _ _) | with_reducible apply Law.step (teardown_law _ _ _)
    | with_reducible apply Law.step (startEntry_law _ _ _) | with_reducible refine Law.foldl _ _ _ ?_ ?_
    | (show (_ : List Part) ⊆ _; decide) | (show (_ : List Part) ⊆ _; decide) | (intro _) | split | (dsimp +zetaDelta only [id]))

theorem execCtxTeardown_law (r : RingIx) (s : State) :
    OutLaw [.freeCtr, .mem, .host, .cores, .clus, .ctxs, .ddr, .hst, .rst, .tally, .log, .fab, .link, .stew, .ckpt, .pins, .side, .sent] s (execCtxTeardown r s) := by
  unfold execCtxTeardown
  repeat' (first
    | with_reducible refine OutLaw.next ?_ | extract_lets | with_reducible exact Law.refl _ _ | with_reducible assumption
    | with_reducible apply onAdmin_law | with_reducible apply heldCommand_law | with_reducible apply Law.step (doTeardown_law _ _ _)
    | with_reducible refine Law.foldl _ _ _ ?_ ?_ | (show (_ : List Part) ⊆ _; decide) | (show (_ : List Part) ⊆ _; decide) | (intro _)
    | split | (dsimp +zetaDelta only [id]))

theorem guardsLeft_law (c : Nat) (s : State) :
    Law [.ddr] s (guardsLeft c s) := by
  unfold guardsLeft
  repeat' (first
    | extract_lets | with_reducible exact Law.refl _ _ | with_reducible assumption | with_reducible refine Law.foldl _ _ _ ?_ ?_
    | (show (_ : List Part) ⊆ _; decide) | (show (_ : List Part) ⊆ _; decide) | (intro _) | split
    | with_reducible refine Law.set_ddr _ (by decide) ?_ | (dsimp +zetaDelta only [id]))

theorem releaseCtx_law (c : Nat) (s : State) :
    Law [.clus, .steer] s (releaseCtx c s) := by
  unfold releaseCtx
  repeat' (first
    | extract_lets | with_reducible exact Law.refl _ _ | with_reducible assumption | with_reducible refine Law.foldl _ _ _ ?_ ?_
    | (show (_ : List Part) ⊆ _; decide) | (show (_ : List Part) ⊆ _; decide) | (intro _) | split
    | with_reducible refine Law.set_clus_steer _ _ (by decide) (by decide) ?_ | (dsimp +zetaDelta only [id]))

theorem execTeardownComplete_law (c : Ctx) (s : State) :
    OutLaw [.mem, .host, .cores, .clus, .ctxs, .ddr, .hst, .tally, .log, .steer, .pins, .side, .sent] s (execTeardownComplete c s) := by
  unfold execTeardownComplete
  repeat' (first
    | with_reducible refine OutLaw.next ?_ | extract_lets | with_reducible exact Law.refl _ _ | with_reducible assumption
    | with_reducible apply Law.step (guardsLeft_law _ _) | with_reducible apply Law.step (releaseCtx_law _ _)
    | with_reducible apply Law.step (complete_law _ _ _ _ _) | with_reducible apply Law.step (completeAwaits_law _ _ _ _)
    | with_reducible apply Law.step (removeCheck_law _) | with_reducible apply Law.step (scrubCore_law _ _)
    | with_reducible apply Law.step (updCore_law _ _ _) | with_reducible apply Law.step (setCtx_law _ _ _)
    | with_reducible refine Law.foldl _ _ _ ?_ ?_ | (show (_ : List Part) ⊆ _; decide) | (show (_ : List Part) ⊆ _; decide) | (intro _)
    | split | (dsimp +zetaDelta only [id]))

theorem execModeStage_law (r : RingIx) (s : State) :
    OutLaw [.host, .ctxs, .hst, .tally, .sent] s (execModeStage r s) := by
  unfold execModeStage
  repeat' (first
    | with_reducible refine OutLaw.next ?_ | extract_lets | with_reducible exact Law.refl _ _ | with_reducible assumption
    | with_reducible apply onAdmin_law | with_reducible apply Law.step (complete_law _ _ _ _ _)
    | with_reducible apply Law.step (updCtx_law _ _ _) | with_reducible apply Law.step (startEntry_law _ _ _)
    | with_reducible refine Law.foldl _ _ _ ?_ ?_ | (show (_ : List Part) ⊆ _; decide) | (show (_ : List Part) ⊆ _; decide) | (intro _)
    | split | (dsimp +zetaDelta only [id]))

theorem execCoreFence_law (r : RingIx) (s : State) :
    OutLaw [.freeCtr, .mem, .host, .cores, .clus, .ctxs, .ddr, .hst, .idb, .rst, .tally, .log, .fab, .link, .stew, .ckpt, .boot, .pins, .side, .sent] s (execCoreFence r s) := by
  unfold execCoreFence
  repeat' (first
    | with_reducible refine OutLaw.next ?_ | extract_lets | with_reducible exact Law.refl _ _ | with_reducible assumption
    | with_reducible apply onAdmin_law | with_reducible apply Law.step (complete_law _ _ _ _ _)
    | with_reducible apply Law.step (fenceCore_law _ _ _) | with_reducible refine Law.foldl _ _ _ ?_ ?_
    | (show (_ : List Part) ⊆ _; decide) | (show (_ : List Part) ⊆ _; decide) | (intro _) | split | (dsimp +zetaDelta only [id]))

theorem execFenceClear_law (r : RingIx) (s : State) :
    OutLaw [.host, .hst, .idb, .tally, .sent] s (execFenceClear r s) := by
  unfold execFenceClear
  repeat' (first
    | with_reducible refine OutLaw.next ?_ | extract_lets | with_reducible exact Law.refl _ _ | with_reducible assumption
    | with_reducible apply onAdmin_law | with_reducible apply Law.step (complete_law _ _ _ _ _)
    | with_reducible refine Law.foldl _ _ _ ?_ ?_ | (show (_ : List Part) ⊆ _; decide) | (show (_ : List Part) ⊆ _; decide) | (intro _)
    | split | with_reducible refine Law.set_idb _ (by decide) ?_ | (dsimp +zetaDelta only [id]))

theorem putInForce_law (set : Tbl Word) (s : State) :
    Law [.host, .hst, .tally, .sent] s (putInForce set s) := by
  unfold putInForce
  repeat' (first
    | extract_lets | with_reducible exact Law.refl _ _ | with_reducible assumption
    | with_reducible apply Law.step (postEvent_law _ _ _ _ _ _ _ _) | with_reducible refine Law.foldl _ _ _ ?_ ?_
    | (show (_ : List Part) ⊆ _; decide) | (show (_ : List Part) ⊆ _; decide) | (intro _) | split
    | with_reducible refine Law.set_hst _ (by decide) ?_ | (dsimp +zetaDelta only [id]))

theorem execProtCommit_law (v : Word) (s : State) :
    OutLaw [.host, .hst, .tally, .log, .sent] s (execProtCommit v s) := by
  unfold execProtCommit
  repeat' (first
    | with_reducible refine OutLaw.next ?_ | extract_lets | with_reducible exact Law.refl _ _ | with_reducible assumption
    | with_reducible apply Law.step (putInForce_law _ _) | with_reducible apply Law.step (logRec_law _ _ _ _ _ _ _)
    | with_reducible apply Law.step (heldWrite_law _ _ _) | with_reducible refine Law.foldl _ _ _ ?_ ?_
    | (show (_ : List Part) ⊆ _; decide) | (show (_ : List Part) ⊆ _; decide) | (intro _) | split
    | with_reducible refine Law.set_hst _ (by decide) ?_ | (dsimp +zetaDelta only [id]))

theorem execProtSetRetire_law (ed : Half16) (s : State) :
    OutLaw [.host, .hst, .tally, .sent] s (execProtSetRetire ed s) := by
  unfold execProtSetRetire
  repeat' (first
    | with_reducible refine OutLaw.next ?_ | extract_lets | with_reducible exact Law.refl _ _ | with_reducible assumption
    | with_reducible apply Law.step (putInForce_law _ _) | with_reducible refine Law.foldl _ _ _ ?_ ?_
    | (show (_ : List Part) ⊆ _; decide) | (show (_ : List Part) ⊆ _; decide) | (intro _) | split
    | with_reducible refine Law.set_hst _ (by decide) ?_ | (dsimp +zetaDelta only [id]))

end Sys2Proof.Machine
end

