-- ==== Sys2Proof/Laws/Optic.lean ====
section
/-! SUPPORT. What each operation of Machine/Optic.lean may touch, one lemma for each, and that it keeps memory in its canonical form. -/

set_option maxRecDepth 4000
set_option linter.all false

namespace Sys2Proof.Machine

theorem enqueueOp_law (g : Nat) (st : Nat) (e : Nat) (kind : OpKind) (r : Stream) (after : Stream → Stream) (s : State) :
    Law [.cores, .tally] s (enqueueOp g st e kind r after s) := by
  unfold enqueueOp
  repeat' (first
    | extract_lets | with_reducible exact Law.refl _ _ | with_reducible assumption | with_reducible apply Law.step (stallAt_law _ _ _ _ _)
    | with_reducible apply Law.step (updStrm_law _ _ _ _) | with_reducible apply Law.step (updOte_law _ _ _ _)
    | with_reducible apply Law.step (issued_law _ _ _) | with_reducible refine Law.foldl _ _ _ ?_ ?_ | (show (_ : List Part) ⊆ _; decide)
    | (show (_ : List Part) ⊆ _; decide) | (intro _) | split | (dsimp +zetaDelta only [id]))

theorem execLoadw_law (g : Core) (st : Str) (s : State) :
    OutLaw [.host, .cores, .ctxs, .hst, .tally, .log, .sent] s (execLoadw g st s) := by
  unfold execLoadw
  repeat' (first
    | with_reducible refine OutLaw.next ?_ | extract_lets | with_reducible exact Law.refl _ _ | with_reducible assumption
    | with_reducible apply Law.step (strFault_law _ _ _ _ _ _ _ _) | with_reducible apply front_law
    | with_reducible apply Law.step (enqueueOp_law _ _ _ _ _ _ _) | with_reducible refine Law.foldl _ _ _ ?_ ?_
    | (show (_ : List Part) ⊆ _; decide) | (show (_ : List Part) ⊆ _; decide) | (intro _) | split | (dsimp +zetaDelta only [id]))

theorem execFlip_law (g : Core) (st : Str) (s : State) :
    OutLaw [.host, .cores, .ctxs, .hst, .tally, .log, .sent] s (execFlip g st s) := by
  unfold execFlip
  repeat' (first
    | with_reducible refine OutLaw.next ?_ | extract_lets | with_reducible exact Law.refl _ _ | with_reducible assumption
    | with_reducible apply front_law | with_reducible apply Law.step (enqueueOp_law _ _ _ _ _ _ _)
    | with_reducible refine Law.foldl _ _ _ ?_ ?_ | (show (_ : List Part) ⊆ _; decide) | (show (_ : List Part) ⊆ _; decide) | (intro _)
    | split | (dsimp +zetaDelta only [id]))

theorem execMvm_law (g : Core) (st : Str) (s : State) :
    OutLaw [.host, .cores, .ctxs, .hst, .tally, .log, .sent] s (execMvm g st s) := by
  unfold execMvm
  repeat' (first
    | with_reducible refine OutLaw.next ?_ | extract_lets | with_reducible exact Law.refl _ _ | with_reducible assumption
    | with_reducible apply Law.step (strFault_law _ _ _ _ _ _ _ _) | with_reducible apply front_law
    | with_reducible apply Law.step (enqueueOp_law _ _ _ _ _ _ _) | with_reducible refine Law.foldl _ _ _ ?_ ?_
    | (show (_ : List Part) ⊆ _; decide) | (show (_ : List Part) ⊆ _; decide) | (intro _) | split | (dsimp +zetaDelta only [id]))

theorem execLoadwReadStart_law (g : Core) (e : Eng) (s : State) :
    OutLaw [.cores] s (execLoadwReadStart g e s) := by
  unfold execLoadwReadStart
  repeat' (first
    | with_reducible refine OutLaw.next ?_ | extract_lets | with_reducible exact Law.refl _ _ | with_reducible assumption
    | with_reducible apply Law.step (updOte_law _ _ _ _) | with_reducible refine Law.foldl _ _ _ ?_ ?_
    | (show (_ : List Part) ⊆ _; decide) | (show (_ : List Part) ⊆ _; decide) | (intro _) | split | (dsimp +zetaDelta only [id]))

theorem execLoadwReadEnd_law (g : Core) (e : Eng) (ecc : Ecc) (s : State) :
    OutLaw [.freeCtr, .mem, .host, .cores, .clus, .ctxs, .ddr, .hst, .idb, .rst, .tally, .log, .fab, .link, .stew, .ckpt, .boot, .pins, .side, .sent] s (execLoadwReadEnd g e ecc s) := by
  unfold execLoadwReadEnd
  repeat' (first
    | with_reducible refine OutLaw.next ?_ | extract_lets | with_reducible exact Law.refl _ _ | with_reducible assumption
    | with_reducible apply Law.step (eccDouble_law _ _) | with_reducible apply Law.step (applyEcc_law _ _ _)
    | with_reducible apply Law.step (strFault_law _ _ _ _ _ _ _ _) | with_reducible apply Law.step (updOte_law _ _ _ _)
    | with_reducible refine Law.foldl _ _ _ ?_ ?_ | (show (_ : List Part) ⊆ _; decide) | (show (_ : List Part) ⊆ _; decide) | (intro _)
    | split | (dsimp +zetaDelta only [id]))

theorem execLoadwWriteStart_law (g : Core) (e : Eng) (s : State) :
    OutLaw [.cores] s (execLoadwWriteStart g e s) := by
  unfold execLoadwWriteStart
  repeat' (first
    | with_reducible refine OutLaw.next ?_ | extract_lets | with_reducible exact Law.refl _ _ | with_reducible assumption
    | with_reducible apply Law.step (updOte_law _ _ _ _) | with_reducible refine Law.foldl _ _ _ ?_ ?_
    | (show (_ : List Part) ⊆ _; decide) | (show (_ : List Part) ⊆ _; decide) | (intro _) | split | (dsimp +zetaDelta only [id]))

theorem execLoadwComplete_law (g : Core) (e : Eng) (s : State) :
    OutLaw [.cores] s (execLoadwComplete g e s) := by
  unfold execLoadwComplete
  repeat' (first
    | with_reducible refine OutLaw.next ?_ | extract_lets | with_reducible exact Law.refl _ _ | with_reducible assumption
    | with_reducible apply Law.step (updOte_law _ _ _ _) | with_reducible refine Law.foldl _ _ _ ?_ ?_
    | (show (_ : List Part) ⊆ _; decide) | (show (_ : List Part) ⊆ _; decide) | (intro _) | split | (dsimp +zetaDelta only [id]))

theorem discardShadow_law (g : Nat) (e : Nat) (s : State) :
    Law [.cores, .tally] s (discardShadow g e s) := by
  unfold discardShadow
  repeat' (first
    | extract_lets | with_reducible exact Law.refl _ _ | with_reducible assumption | with_reducible apply Law.step (updCore_law _ _ _)
    | with_reducible apply Law.step (updOte_law _ _ _ _) | with_reducible apply Law.step (countCoreN_law _ _ _ _ _)
    | with_reducible refine Law.foldl _ _ _ ?_ ?_ | (show (_ : List Part) ⊆ _; decide) | (show (_ : List Part) ⊆ _; decide) | (intro _)
    | split | (dsimp +zetaDelta only [id]))

theorem execFlipStart_law (g : Core) (e : Eng) (s : State) :
    OutLaw [.cores, .tally] s (execFlipStart g e s) := by
  unfold execFlipStart
  repeat' (first
    | with_reducible refine OutLaw.next ?_ | extract_lets | with_reducible exact Law.refl _ _ | with_reducible assumption
    | with_reducible apply Law.step (updOte_law _ _ _ _) | with_reducible apply Law.step (discardShadow_law _ _ _)
    | with_reducible refine Law.foldl _ _ _ ?_ ?_ | (show (_ : List Part) ⊆ _; decide) | (show (_ : List Part) ⊆ _; decide) | (intro _)
    | split | (dsimp +zetaDelta only [id]))

theorem execFlipComplete_law (g : Core) (e : Eng) (s : State) :
    OutLaw [.cores] s (execFlipComplete g e s) := by
  unfold execFlipComplete
  repeat' (first
    | with_reducible refine OutLaw.next ?_ | extract_lets | with_reducible exact Law.refl _ _ | with_reducible assumption
    | with_reducible apply Law.step (updOte_law _ _ _ _) | with_reducible refine Law.foldl _ _ _ ?_ ?_
    | (show (_ : List Part) ⊆ _; decide) | (show (_ : List Part) ⊆ _; decide) | (intro _) | split | (dsimp +zetaDelta only [id]))

theorem execSwapCopyEnd_law (g : Core) (e : Eng) (s : State) :
    OutLaw [.cores] s (execSwapCopyEnd g e s) := by
  unfold execSwapCopyEnd
  repeat' (first
    | with_reducible refine OutLaw.next ?_ | extract_lets | with_reducible exact Law.refl _ _ | with_reducible assumption
    | with_reducible apply Law.step (updOte_law _ _ _ _) | with_reducible refine Law.foldl _ _ _ ?_ ?_
    | (show (_ : List Part) ⊆ _; decide) | (show (_ : List Part) ⊆ _; decide) | (intro _) | split | (dsimp +zetaDelta only [id]))

theorem execMvmStart_law (g : Core) (e : Eng) (s : State) :
    OutLaw [.cores, .tally, .log] s (execMvmStart g e s) := by
  unfold execMvmStart
  repeat' (first
    | with_reducible refine OutLaw.next ?_ | extract_lets | with_reducible exact Law.refl _ _ | with_reducible assumption
    | with_reducible apply Law.step (updOte_law _ _ _ _) | with_reducible apply Law.step (logRate_law _ _ _ _ _ _ _ _ _)
    | with_reducible refine Law.foldl _ _ _ ?_ ?_ | (show (_ : List Part) ⊆ _; decide) | (show (_ : List Part) ⊆ _; decide) | (intro _)
    | split | (dsimp +zetaDelta only [id]))

theorem putTile_law (g : Nat) (e : Nat) (held : Bool) (t : Tile) (s : State) :
    Law [.freeCtr, .mem, .host, .cores, .clus, .ddr, .tally, .ckpt] s (putTile g e held t s) := by
  unfold putTile
  repeat' (first
    | extract_lets | with_reducible exact Law.refl _ _ | with_reducible assumption | with_reducible apply Law.step (flushTiles_law _ _ _)
    | with_reducible apply Law.step (setOte_law _ _ _ _) | with_reducible refine Law.foldl _ _ _ ?_ ?_
    | (show (_ : List Part) ⊆ _; decide) | (show (_ : List Part) ⊆ _; decide) | (intro _) | split | (dsimp +zetaDelta only [id]))

theorem failTile_law (g : Nat) (e : Nat) (p : MvmP) (s : State) :
    Law [.cores, .tally, .log] s (failTile g e p s) := by
  unfold failTile
  repeat' (first
    | extract_lets | with_reducible exact Law.refl _ _ | with_reducible assumption | with_reducible apply Law.step (setOte_law _ _ _ _)
    | with_reducible apply Law.step (countCore_law _ _ _ _) | with_reducible apply Law.step (rateMark_law _ _)
    | with_reducible apply Law.step (logCore_law _ _ _ _ _ _ _) | with_reducible refine Law.foldl _ _ _ ?_ ?_
    | (show (_ : List Part) ⊆ _; decide) | (show (_ : List Part) ⊆ _; decide) | (intro _) | split | (dsimp +zetaDelta only [id]))

theorem finalTile_law (g : Nat) (e : Nat) (i : Nat) (v : Nat) (p : MvmP) (held : Bool) (clip : Bool) (fail : Bool) (aged : Bool) (nan : Bool) (src : Nat) (est : Nat) (fell : Bool) (tile : List Byte × Nat × Nat) (s : State) :
    Law [.freeCtr, .mem, .host, .cores, .clus, .ddr, .tally, .log, .ckpt] s (finalTile g e i v p held clip fail aged nan src est fell tile s) := by
  unfold finalTile
  repeat' (first
    | extract_lets | with_reducible exact Law.refl _ _ | with_reducible assumption | with_reducible apply Law.step (updOte_law _ _ _ _)
    | with_reducible apply Law.step (countCore_law _ _ _ _) | with_reducible apply Law.step (putTile_law _ _ _ _ _)
    | with_reducible apply Law.step (failTile_law _ _ _ _) | with_reducible refine Law.foldl _ _ _ ?_ ?_
    | (show (_ : List Part) ⊆ _; decide) | (show (_ : List Part) ⊆ _; decide) | (intro _) | split | (dsimp +zetaDelta only [id]))

theorem shadowSelect_law (g : Nat) (e : Nat) (run : MvmRun) (p : MvmP) (r : VecRes) (s : State) :
    Law [.cores, .tally] s (shadowSelect g e run p r s) := by
  unfold shadowSelect
  repeat' (first
    | extract_lets | with_reducible exact Law.refl _ _ | with_reducible assumption | with_reducible apply Law.step (updCore_law _ _ _)
    | with_reducible apply Law.step (setOte_law _ _ _ _) | with_reducible apply Law.step (updOte_law _ _ _ _)
    | with_reducible apply Law.step (countCore_law _ _ _ _) | with_reducible refine Law.foldl _ _ _ ?_ ?_
    | (show (_ : List Part) ⊆ _; decide) | (show (_ : List Part) ⊆ _; decide) | (intro _) | split | (dsimp +zetaDelta only [id]))

theorem judgeFirst_law (g : Nat) (e : Nat) (i : Nat) (v : Nat) (run : MvmRun) (p : MvmP) (held : Bool) (r : VecRes) (s : State) :
    Law [.freeCtr, .mem, .host, .cores, .clus, .ddr, .tally, .log, .ckpt] s (judgeFirst g e i v run p held r s) := by
  unfold judgeFirst
  repeat' (first
    | extract_lets | with_reducible exact Law.refl _ _ | with_reducible assumption | with_reducible apply Law.step (updOte_law _ _ _ _)
    | with_reducible apply Law.step (finalTile_law _ _ _ _ _ _ _ _ _ _ _ _ _ _ _) | with_reducible refine Law.foldl _ _ _ ?_ ?_
    | (show (_ : List Part) ⊆ _; decide) | (show (_ : List Part) ⊆ _; decide) | (intro _) | split | (dsimp +zetaDelta only [id]))

theorem judgeReissue_law (g : Nat) (e : Nat) (i : Nat) (v : Nat) (run : MvmRun) (p : MvmP) (held : Bool) (aged : Bool) (r : VecRes) (s : State) :
    Law [.freeCtr, .mem, .host, .cores, .clus, .ddr, .tally, .log, .ckpt] s (judgeReissue g e i v run p held aged r s) := by
  unfold judgeReissue
  repeat' (first
    | extract_lets | with_reducible exact Law.refl _ _ | with_reducible assumption | with_reducible apply Law.step (updOte_law _ _ _ _)
    | with_reducible apply Law.step (finalTile_law _ _ _ _ _ _ _ _ _ _ _ _ _ _ _) | with_reducible refine Law.foldl _ _ _ ?_ ?_
    | (show (_ : List Part) ⊆ _; decide) | (show (_ : List Part) ⊆ _; decide) | (intro _) | split | (dsimp +zetaDelta only [id]))

theorem formTile_law (g : Nat) (e : Nat) (i : Nat) (q : EngOp) (p : MvmP) (held : Bool) (s : State) :
    Law [.freeCtr, .mem, .host, .cores, .clus, .ddr, .tally, .log, .ckpt] s (formTile g e i q p held s) := by
  unfold formTile
  repeat' (first
    | extract_lets | with_reducible exact Law.refl _ _ | with_reducible assumption | with_reducible apply Law.step (updOte_law _ _ _ _)
    | with_reducible apply Law.step (countCore_law _ _ _ _) | with_reducible apply Law.step (shadowSelect_law _ _ _ _ _ _)
    | with_reducible apply Law.step (judgeFirst_law _ _ _ _ _ _ _ _ _)
    | with_reducible apply Law.step (judgeReissue_law _ _ _ _ _ _ _ _ _ _) | with_reducible refine Law.foldl _ _ _ ?_ ?_
    | (show (_ : List Part) ⊆ _; decide) | (show (_ : List Part) ⊆ _; decide) | (intro _) | split
    | with_reducible refine Law.set_freeCtr _ (by decide) ?_ | (dsimp +zetaDelta only [id]))

theorem execOutputTileReady_law (g : Core) (e : Eng) (held : Bool) (ecc : Ecc) (s : State) :
    OutLaw [.freeCtr, .mem, .host, .cores, .clus, .ctxs, .ddr, .hst, .idb, .rst, .tally, .log, .fab, .link, .stew, .ckpt, .boot, .pins, .side, .sent] s (execOutputTileReady g e held ecc s) := by
  unfold execOutputTileReady
  repeat' (first
    | with_reducible refine OutLaw.next ?_ | extract_lets | with_reducible exact Law.refl _ _ | with_reducible assumption
    | with_reducible apply Law.step (eccDouble_law _ _) | with_reducible apply Law.step (applyEcc_law _ _ _)
    | with_reducible apply Law.step (updOte_law _ _ _ _) | with_reducible apply Law.step (formTile_law _ _ _ _ _ _ _)
    | with_reducible refine Law.foldl _ _ _ ?_ ?_ | (show (_ : List Part) ⊆ _; decide) | (show (_ : List Part) ⊆ _; decide) | (intro _)
    | split | (dsimp +zetaDelta only [id]))

theorem execWriteBufferResume_law (g : Core) (e : Eng) (s : State) :
    OutLaw [.freeCtr, .mem, .host, .cores, .clus, .ddr, .tally, .ckpt] s (execWriteBufferResume g e s) := by
  unfold execWriteBufferResume
  repeat' (first
    | with_reducible refine OutLaw.next ?_ | extract_lets | with_reducible exact Law.refl _ _ | with_reducible assumption
    | with_reducible apply Law.step (flushTiles_law _ _ _) | with_reducible refine Law.foldl _ _ _ ?_ ?_
    | (show (_ : List Part) ⊆ _; decide) | (show (_ : List Part) ⊆ _; decide) | (intro _) | split | (dsimp +zetaDelta only [id]))

theorem execMvmComplete_law (g : Core) (e : Eng) (s : State) :
    OutLaw [.freeCtr, .mem, .host, .cores, .clus, .ctxs, .ddr, .hst, .tally, .log, .ckpt, .sent] s (execMvmComplete g e s) := by
  unfold execMvmComplete
  repeat' (first
    | with_reducible refine OutLaw.next ?_ | extract_lets | with_reducible exact Law.refl _ _ | with_reducible assumption
    | with_reducible apply Law.step (store_law _ _ _) | with_reducible apply Law.step (strFault_law _ _ _ _ _ _ _ _)
    | with_reducible apply Law.step (updCore_law _ _ _) | with_reducible apply Law.step (updOte_law _ _ _ _)
    | with_reducible refine Law.foldl _ _ _ ?_ ?_ | (show (_ : List Part) ⊆ _; decide) | (show (_ : List Part) ⊆ _; decide) | (intro _)
    | split | (dsimp +zetaDelta only [id]))

theorem onReissue_law (g : Nat) (e : Nat) (s : State) (ok : MvmP → MvmRun → Bool) (f : MvmP → MvmRun → MvmRun) :
    Law [.cores] s (onReissue g e s ok f) := by
  unfold onReissue
  repeat' (first
    | extract_lets | with_reducible exact Law.refl _ _ | with_reducible assumption | with_reducible apply Law.step (setOte_law _ _ _ _)
    | with_reducible refine Law.foldl _ _ _ ?_ ?_ | (show (_ : List Part) ⊆ _; decide) | (show (_ : List Part) ⊆ _; decide) | (intro _)
    | split | (dsimp +zetaDelta only [id]))

theorem execReissueFeedStop_law (g : Core) (e : Eng) (s : State) :
    OutLaw [.cores] s (execReissueFeedStop g e s) := by
  unfold execReissueFeedStop
  repeat' (first
    | with_reducible refine OutLaw.next ?_ | extract_lets | with_reducible exact Law.refl _ _ | with_reducible assumption
    | with_reducible apply Law.step (onReissue_law _ _ _ _ _) | with_reducible refine Law.foldl _ _ _ ?_ ?_
    | (show (_ : List Part) ⊆ _; decide) | (show (_ : List Part) ⊆ _; decide) | (intro _) | split | (dsimp +zetaDelta only [id]))

theorem execReissueRun_law (g : Core) (e : Eng) (s : State) :
    OutLaw [.cores] s (execReissueRun g e s) := by
  unfold execReissueRun
  repeat' (first
    | with_reducible refine OutLaw.next ?_ | extract_lets | with_reducible exact Law.refl _ _ | with_reducible assumption
    | with_reducible apply Law.step (onReissue_law _ _ _ _ _) | with_reducible refine Law.foldl _ _ _ ?_ ?_
    | (show (_ : List Part) ⊆ _; decide) | (show (_ : List Part) ⊆ _; decide) | (intro _) | split | (dsimp +zetaDelta only [id]))

theorem execReissueResume_law (g : Core) (e : Eng) (s : State) :
    OutLaw [.cores] s (execReissueResume g e s) := by
  unfold execReissueResume
  repeat' (first
    | with_reducible refine OutLaw.next ?_ | extract_lets | with_reducible exact Law.refl _ _ | with_reducible assumption
    | with_reducible apply Law.step (onReissue_law _ _ _ _ _) | with_reducible refine Law.foldl _ _ _ ?_ ?_
    | (show (_ : List Part) ⊆ _; decide) | (show (_ : List Part) ⊆ _; decide) | (intro _) | split | (dsimp +zetaDelta only [id]))

theorem dveTile_law (g : Nat) (e : Nat) (i : Nat) (q : EngOp) (p : MvmP) (s : State) :
    Law [.freeCtr, .mem, .host, .cores, .clus, .ddr, .tally, .log, .ckpt] s (dveTile g e i q p s) := by
  unfold dveTile
  repeat' (first
    | extract_lets | with_reducible exact Law.refl _ _ | with_reducible assumption | with_reducible apply Law.step (updOte_law _ _ _ _)
    | with_reducible apply Law.step (countCore_law _ _ _ _) | with_reducible apply Law.step (finalTile_law _ _ _ _ _ _ _ _ _ _ _ _ _ _ _)
    | with_reducible refine Law.foldl _ _ _ ?_ ?_ | (show (_ : List Part) ⊆ _; decide) | (show (_ : List Part) ⊆ _; decide) | (intro _)
    | split | (dsimp +zetaDelta only [id]))

theorem dveStep_law (g : Nat) (e : Nat) (i : Nat) (ecc : Ecc) (q : EngOp) (p : MvmP) (s : State) :
    Law [.freeCtr, .mem, .host, .cores, .clus, .ctxs, .ddr, .hst, .idb, .rst, .tally, .log, .fab, .link, .stew, .ckpt, .boot, .pins, .side, .sent] s (dveStep g e i ecc q p s) := by
  unfold dveStep
  repeat' (first
    | extract_lets | with_reducible exact Law.refl _ _ | with_reducible assumption | with_reducible apply Law.step (eccDouble_law _ _)
    | with_reducible apply Law.step (applyEcc_law _ _ _) | with_reducible apply Law.step (updOte_law _ _ _ _)
    | with_reducible apply Law.step (dveTile_law _ _ _ _ _ _) | with_reducible refine Law.foldl _ _ _ ?_ ?_
    | (show (_ : List Part) ⊆ _; decide) | (show (_ : List Part) ⊆ _; decide) | (intro _) | split | (dsimp +zetaDelta only [id]))

theorem execDveRecomputeDone_law (g : Core) (e : Eng) (ecc : Ecc) (s : State) :
    OutLaw [.freeCtr, .mem, .host, .cores, .clus, .ctxs, .ddr, .hst, .idb, .rst, .tally, .log, .fab, .link, .stew, .ckpt, .boot, .pins, .side, .sent] s (execDveRecomputeDone g e ecc s) := by
  unfold execDveRecomputeDone
  repeat' (first
    | with_reducible refine OutLaw.next ?_ | extract_lets | with_reducible exact Law.refl _ _ | with_reducible assumption
    | with_reducible apply Law.step (dveStep_law _ _ _ _ _ _ _) | with_reducible refine Law.foldl _ _ _ ?_ ?_
    | (show (_ : List Part) ⊆ _; decide) | (show (_ : List Part) ⊆ _; decide) | (intro _) | split | (dsimp +zetaDelta only [id]))

theorem execShadowVectorDone_law (g : Core) (e : Eng) (s : State) :
    OutLaw [.cores, .tally, .log] s (execShadowVectorDone g e s) := by
  unfold execShadowVectorDone
  repeat' (first
    | with_reducible refine OutLaw.next ?_ | extract_lets | with_reducible exact Law.refl _ _ | with_reducible assumption
    | with_reducible apply Law.step (setOte_law _ _ _ _) | with_reducible apply Law.step (logRate_law _ _ _ _ _ _ _ _ _)
    | with_reducible refine Law.foldl _ _ _ ?_ ?_ | (show (_ : List Part) ⊆ _; decide) | (show (_ : List Part) ⊆ _; decide) | (intro _)
    | split | (dsimp +zetaDelta only [id]))

theorem execFailTileLogFlush_law (g : Core) (e : Eng) (s : State) :
    OutLaw [.cores, .tally, .log] s (execFailTileLogFlush g e s) := by
  unfold execFailTileLogFlush
  repeat' (first
    | with_reducible refine OutLaw.next ?_ | extract_lets | with_reducible exact Law.refl _ _ | with_reducible assumption
    | with_reducible apply Law.step (setOte_law _ _ _ _) | with_reducible apply Law.step (rateMark_law _ _)
    | with_reducible apply Law.step (logCore_law _ _ _ _ _ _ _) | with_reducible refine Law.foldl _ _ _ ?_ ?_
    | (show (_ : List Part) ⊆ _; decide) | (show (_ : List Part) ⊆ _; decide) | (intro _) | split | (dsimp +zetaDelta only [id]))

end Sys2Proof.Machine
end

