-- ==== Sys2Proof/Laws/Calib.lean ====
section
/-! SUPPORT. What each operation of Machine/Calib.lean may touch, one lemma for each, and that it keeps memory in its canonical form. -/

set_option maxRecDepth 4000
set_option linter.all false

namespace Sys2Proof.Machine

theorem calFail_law (g : Nat) (e : Nat) (cause : Nat) (s : State) :
    Law [.freeCtr, .mem, .host, .cores, .clus, .ctxs, .ddr, .hst, .idb, .rst, .tally, .log, .fab, .link, .stew, .ckpt, .boot, .pins, .side, .sent] s (calFail g e cause s) := by
  unfold calFail
  repeat' (first
    | extract_lets | with_reducible exact Law.refl _ _ | with_reducible assumption | with_reducible apply Law.step (fenceCore_law _ _ _)
    | with_reducible apply Law.step (setOte_law _ _ _ _) | with_reducible apply Law.step (coreFault_law _ _ _)
    | with_reducible apply Law.step (logCore_law _ _ _ _ _ _ _) | with_reducible refine Law.foldl _ _ _ ?_ ?_
    | (show (_ : List Part) ⊆ _; decide) | (show (_ : List Part) ⊆ _; decide) | (intro _) | split | (dsimp +zetaDelta only [id]))

theorem slotEnd_law (g : Nat) (e : Nat) (m : CalMeas) (s : State) :
    Law [.freeCtr, .mem, .host, .cores, .clus, .ctxs, .ddr, .hst, .idb, .rst, .tally, .log, .fab, .link, .stew, .ckpt, .boot, .pins, .side, .sent] s (slotEnd g e m s) := by
  unfold slotEnd
  repeat' (first
    | extract_lets | with_reducible exact Law.refl _ _ | with_reducible assumption | with_reducible apply Law.step (calFail_law _ _ _ _)
    | with_reducible apply Law.step (updOte_law _ _ _ _) | with_reducible refine Law.foldl _ _ _ ?_ ?_
    | (show (_ : List Part) ⊆ _; decide) | (show (_ : List Part) ⊆ _; decide) | (intro _) | split | (dsimp +zetaDelta only [id]))

theorem calRow_law (g : Nat) (e : Nat) (s : State) (x : CalMeas × Nat) :
    Law [.cores, .tally, .log] s (calRow g e s x) := by
  unfold calRow
  repeat' (first
    | extract_lets | with_reducible exact Law.refl _ _ | with_reducible assumption | with_reducible apply Law.step (setOte_law _ _ _ _)
    | with_reducible apply Law.step (logCore_law _ _ _ _ _ _ _) | with_reducible refine Law.foldl _ _ _ ?_ ?_
    | (show (_ : List Part) ⊆ _; decide) | (show (_ : List Part) ⊆ _; decide) | (intro _) | split | (dsimp +zetaDelta only [id]))

theorem calSlotEnd_law (g : Nat) (e : Nat) (ms : List CalMeas) (s : State) :
    Law [.freeCtr, .mem, .host, .cores, .clus, .ctxs, .ddr, .hst, .idb, .rst, .tally, .log, .fab, .link, .stew, .ckpt, .boot, .pins, .side, .sent] s (calSlotEnd g e ms s) := by
  unfold calSlotEnd
  repeat' (first
    | extract_lets | with_reducible exact Law.refl _ _ | with_reducible assumption | with_reducible apply Law.step (calRow_law _ _ _ _)
    | with_reducible apply Law.step (fenceCore_law _ _ _) | with_reducible apply Law.step (setOte_law _ _ _ _)
    | with_reducible apply Law.step (coreFault_law _ _ _) | with_reducible refine Law.foldl _ _ _ ?_ ?_
    | (show (_ : List Part) ⊆ _; decide) | (show (_ : List Part) ⊆ _; decide) | (intro _) | split | (dsimp +zetaDelta only [id]))

theorem execCalPhaseEnd_law (g : Core) (e : Eng) (ms : List CalMeas) (s : State) :
    OutLaw [.freeCtr, .mem, .host, .cores, .clus, .ctxs, .ddr, .hst, .idb, .rst, .tally, .log, .fab, .link, .stew, .ckpt, .boot, .pins, .side, .sent] s (execCalPhaseEnd g e ms s) := by
  unfold execCalPhaseEnd
  repeat' (first
    | with_reducible refine OutLaw.next ?_ | extract_lets | with_reducible exact Law.refl _ _ | with_reducible assumption
    | with_reducible apply Law.step (slotEnd_law _ _ _ _) | with_reducible apply Law.step (calSlotEnd_law _ _ _ _)
    | with_reducible apply Law.step (setOte_law _ _ _ _) | with_reducible refine Law.foldl _ _ _ ?_ ?_
    | (show (_ : List Part) ⊆ _; decide) | (show (_ : List Part) ⊆ _; decide) | (intro _) | split | (dsimp +zetaDelta only [id]))

theorem execSwapReadyDeferred_law (g : Core) (e : Eng) (s : State) :
    OutLaw [.cores] s (execSwapReadyDeferred g e s) := by
  unfold execSwapReadyDeferred
  repeat' (first
    | with_reducible refine OutLaw.next ?_ | extract_lets | with_reducible exact Law.refl _ _ | with_reducible assumption
    | with_reducible apply Law.step (setOte_law _ _ _ _) | with_reducible refine Law.foldl _ _ _ ?_ ?_
    | (show (_ : List Part) ⊆ _; decide) | (show (_ : List Part) ⊆ _; decide) | (intro _) | split | (dsimp +zetaDelta only [id]))

theorem execExerciseBurst_law (g : Core) (e : Eng) (s : State) :
    OutLaw [.cores] s (execExerciseBurst g e s) := by
  unfold execExerciseBurst
  repeat' (first
    | with_reducible refine OutLaw.next ?_ | extract_lets | with_reducible exact Law.refl _ _ | with_reducible assumption
    | with_reducible apply Law.step (setOte_law _ _ _ _) | with_reducible refine Law.foldl _ _ _ ?_ ?_
    | (show (_ : List Part) ⊆ _; decide) | (show (_ : List Part) ⊆ _; decide) | (intro _) | split | (dsimp +zetaDelta only [id]))

theorem execSwapWaitAlarm_law (g : Core) (e : Eng) (s : State) :
    OutLaw [.tally, .log] s (execSwapWaitAlarm g e s) := by
  unfold execSwapWaitAlarm
  repeat' (first
    | with_reducible refine OutLaw.next ?_ | extract_lets | with_reducible exact Law.refl _ _ | with_reducible assumption
    | with_reducible apply Law.step (logRate_law _ _ _ _ _ _ _ _ _) | with_reducible refine Law.foldl _ _ _ ?_ ?_
    | (show (_ : List Part) ⊆ _; decide) | (show (_ : List Part) ⊆ _; decide) | (intro _) | split | (dsimp +zetaDelta only [id]))

theorem execOteRowSelWrite_law (g : Core) (e : Eng) (v : Word) (s : State) :
    OutLaw [.cores, .tally, .log] s (execOteRowSelWrite g e v s) := by
  unfold execOteRowSelWrite
  repeat' (first
    | with_reducible refine OutLaw.next ?_ | extract_lets | with_reducible exact Law.refl _ _ | with_reducible assumption
    | with_reducible apply Law.step (setOte_law _ _ _ _) | with_reducible apply coreWrite_law
    | with_reducible refine Law.foldl _ _ _ ?_ ?_ | (show (_ : List Part) ⊆ _; decide) | (show (_ : List Part) ⊆ _; decide) | (intro _)
    | split | (dsimp +zetaDelta only [id]))

theorem execOteChanSelWrite_law (g : Core) (e : Eng) (v : Word) (s : State) :
    OutLaw [.cores, .tally, .log] s (execOteChanSelWrite g e v s) := by
  unfold execOteChanSelWrite
  repeat' (first
    | with_reducible refine OutLaw.next ?_ | extract_lets | with_reducible exact Law.refl _ _ | with_reducible assumption
    | with_reducible apply Law.step (setOte_law _ _ _ _) | with_reducible apply coreWrite_law
    | with_reducible refine Law.foldl _ _ _ ?_ ?_ | (show (_ : List Part) ⊆ _; decide) | (show (_ : List Part) ⊆ _; decide) | (intro _)
    | split | (dsimp +zetaDelta only [id]))

theorem countGov_law (s : State) (x : (Nat × Nat) × Nat × Nat) :
    Law [.tally] s (countGov s x) := by
  unfold countGov
  repeat' (first
    | extract_lets | with_reducible exact Law.refl _ _ | with_reducible assumption
    | with_reducible apply Law.step (countCoreN_law _ _ _ _ _) | with_reducible refine Law.foldl _ _ _ ?_ ?_
    | (show (_ : List Part) ⊆ _; decide) | (show (_ : List Part) ⊆ _; decide) | (intro _) | split | (dsimp +zetaDelta only [id]))

theorem execGovernorIntervalEnd_law (c : Clu) (want : List Nat) (s : State) :
    OutLaw [.clus, .tally] s (execGovernorIntervalEnd c want s) := by
  unfold execGovernorIntervalEnd
  repeat' (first
    | with_reducible refine OutLaw.next ?_ | extract_lets | with_reducible exact Law.refl _ _ | with_reducible assumption
    | with_reducible apply Law.step (countGov_law _ _) | with_reducible apply Law.step (updClu_law _ _ _)
    | with_reducible refine Law.foldl _ _ _ ?_ ?_ | (show (_ : List Part) ⊆ _; decide) | (show (_ : List Part) ⊆ _; decide) | (intro _)
    | split | (dsimp +zetaDelta only [id]))

theorem updComb_law (c : Nat) (n : Nat) (f : CombSt → CombSt) (s : State) :
    Law [.clus] s (updComb c n f s) := by
  unfold updComb
  repeat' (first
    | extract_lets | with_reducible exact Law.refl _ _ | with_reducible assumption | with_reducible apply Law.step (updClu_law _ _ _)
    | with_reducible refine Law.foldl _ _ _ ?_ ?_ | (show (_ : List Part) ⊆ _; decide) | (show (_ : List Part) ⊆ _; decide) | (intro _)
    | split | (dsimp +zetaDelta only [id]))

theorem onSlot_law (c : Nat) (slot : Nat) (f : Ote → Ote) (s : State) :
    Law [.cores] s (onSlot c slot f s) := by
  unfold onSlot
  repeat' (first
    | extract_lets | with_reducible exact Law.refl _ _ | with_reducible assumption | with_reducible apply Law.step (updOte_law _ _ _ _)
    | with_reducible refine Law.foldl _ _ _ ?_ ?_ | (show (_ : List Part) ⊆ _; decide) | (show (_ : List Part) ⊆ _; decide) | (intro _)
    | split | (dsimp +zetaDelta only [id]))

theorem combSlotLost_law (c : Nat) (slot : Nat) (s : State) :
    Law [.freeCtr, .mem, .host, .cores, .clus, .ctxs, .ddr, .hst, .idb, .rst, .tally, .log, .fab, .link, .stew, .ckpt, .boot, .pins, .side, .sent] s (combSlotLost c slot s) := by
  unfold combSlotLost
  repeat' (first
    | extract_lets | with_reducible exact Law.refl _ _ | with_reducible assumption | with_reducible apply Law.step (updComb_law _ _ _ _)
    | with_reducible apply Law.step (fenceCores_law _ _ _) | with_reducible apply Law.step (cluFault_law _ _ _)
    | with_reducible apply Law.step (logClu_law _ _ _ _ _ _ _) | with_reducible refine Law.foldl _ _ _ ?_ ?_
    | (show (_ : List Part) ⊆ _; decide) | (show (_ : List Part) ⊆ _; decide) | (intro _) | split | (dsimp +zetaDelta only [id]))

theorem startHandover_law (c : Nat) (slot : Nat) (forced : Bool) (s : State) :
    Law [.freeCtr, .mem, .host, .cores, .clus, .ctxs, .ddr, .hst, .idb, .rst, .tally, .log, .fab, .link, .stew, .ckpt, .boot, .pins, .side, .sent] s (startHandover c slot forced s) := by
  unfold startHandover
  repeat' (first
    | extract_lets | with_reducible exact Law.refl _ _ | with_reducible assumption | with_reducible apply Law.step (updComb_law _ _ _ _)
    | with_reducible apply Law.step (onSlot_law _ _ _ _) | with_reducible apply Law.step (combSlotLost_law _ _ _)
    | with_reducible apply Law.step (updClu_law _ _ _) | with_reducible apply Law.step (logClu_law _ _ _ _ _ _ _)
    | with_reducible refine Law.foldl _ _ _ ?_ ?_ | (show (_ : List Part) ⊆ _; decide) | (show (_ : List Part) ⊆ _; decide) | (intro _)
    | split | (dsimp +zetaDelta only [id]))

theorem callHandover_law (c : Nat) (slot : Nat) (forced : Bool) (s : State) :
    Law [.freeCtr, .mem, .host, .cores, .clus, .ctxs, .ddr, .hst, .idb, .rst, .tally, .log, .fab, .link, .stew, .ckpt, .boot, .pins, .side, .sent] s (callHandover c slot forced s) := by
  unfold callHandover
  repeat' (first
    | extract_lets | with_reducible exact Law.refl _ _ | with_reducible assumption
    | with_reducible apply Law.step (startHandover_law _ _ _ _) | with_reducible apply Law.step (updClu_law _ _ _)
    | with_reducible refine Law.foldl _ _ _ ?_ ?_ | (show (_ : List Part) ⊆ _; decide) | (show (_ : List Part) ⊆ _; decide) | (intro _)
    | split | (dsimp +zetaDelta only [id]))

theorem nextHandover_law (c : Nat) (s : State) :
    Law [.freeCtr, .mem, .host, .cores, .clus, .ctxs, .ddr, .hst, .idb, .rst, .tally, .log, .fab, .link, .stew, .ckpt, .boot, .pins, .side, .sent] s (nextHandover c s) := by
  unfold nextHandover
  repeat' (first
    | extract_lets | with_reducible exact Law.refl _ _ | with_reducible assumption
    | with_reducible apply Law.step (startHandover_law _ _ _ _) | with_reducible apply Law.step (updClu_law _ _ _)
    | with_reducible refine Law.foldl _ _ _ ?_ ?_ | (show (_ : List Part) ⊆ _; decide) | (show (_ : List Part) ⊆ _; decide) | (intro _)
    | split | (dsimp +zetaDelta only [id]))

theorem execCombRelockTimeout_law (c : Clu) (n : Fin 4) (s : State) :
    OutLaw [.freeCtr, .mem, .host, .cores, .clus, .ctxs, .ddr, .hst, .idb, .rst, .tally, .log, .fab, .link, .stew, .ckpt, .boot, .pins, .side, .sent] s (execCombRelockTimeout c n s) := by
  unfold execCombRelockTimeout
  repeat' (first
    | with_reducible refine OutLaw.next ?_ | extract_lets | with_reducible exact Law.refl _ _ | with_reducible assumption
    | with_reducible apply Law.step (callHandover_law _ _ _ _) | with_reducible refine Law.foldl _ _ _ ?_ ?_
    | (show (_ : List Part) ⊆ _; decide) | (show (_ : List Part) ⊆ _; decide) | (intro _) | split | (dsimp +zetaDelta only [id]))

theorem combPower_law (c : Nat) (n : Nat) (loss : Half16) (line : Fin 64) (lineLoss : Half16) (s : State) :
    Law [.freeCtr, .mem, .host, .cores, .clus, .ctxs, .ddr, .hst, .idb, .rst, .tally, .log, .fab, .link, .stew, .ckpt, .boot, .pins, .side, .sent] s (combPower c n loss line lineLoss s) := by
  unfold combPower
  repeat' (first
    | extract_lets | with_reducible exact Law.refl _ _ | with_reducible assumption | with_reducible apply Law.step (updComb_law _ _ _ _)
    | with_reducible apply Law.step (callHandover_law _ _ _ _) | with_reducible apply Law.step (logClu_law _ _ _ _ _ _ _)
    | with_reducible refine Law.foldl _ _ _ ?_ ?_ | (show (_ : List Part) ⊆ _; decide) | (show (_ : List Part) ⊆ _; decide) | (intro _)
    | split | (dsimp +zetaDelta only [id]))

theorem execCombPowerCheck_law (c : Clu) (n : Fin 4) (loss : Half16) (line : Fin 64) (lineLoss : Half16) (s : State) :
    OutLaw [.freeCtr, .mem, .host, .cores, .clus, .ctxs, .ddr, .hst, .idb, .rst, .tally, .log, .fab, .link, .stew, .ckpt, .boot, .pins, .side, .sent] s (execCombPowerCheck c n loss line lineLoss s) := by
  unfold execCombPowerCheck
  repeat' (first
    | with_reducible refine OutLaw.next ?_ | extract_lets | with_reducible exact Law.refl _ _ | with_reducible assumption
    | with_reducible apply Law.step (combPower_law _ _ _ _ _ _) | with_reducible refine Law.foldl _ _ _ ?_ ?_
    | (show (_ : List Part) ⊆ _; decide) | (show (_ : List Part) ⊆ _; decide) | (intro _) | split | (dsimp +zetaDelta only [id]))

theorem execCluCombGo_law (c : Clu) (v : Word) (s : State) :
    OutLaw [.freeCtr, .mem, .host, .cores, .clus, .ctxs, .ddr, .hst, .idb, .rst, .tally, .log, .fab, .link, .stew, .ckpt, .boot, .pins, .side, .sent] s (execCluCombGo c v s) := by
  unfold execCluCombGo
  dsimp only [drawFree]
  repeat' (first
    | with_reducible refine OutLaw.next ?_ | extract_lets | with_reducible exact Law.refl _ _ | with_reducible assumption
    | with_reducible apply Law.step (startHandover_law _ _ _ _) | with_reducible apply Law.step (logClu_law _ _ _ _ _ _ _)
    | with_reducible apply cluWrite_law | with_reducible refine Law.foldl _ _ _ ?_ ?_ | (show (_ : List Part) ⊆ _; decide)
    | (show (_ : List Part) ⊆ _; decide) | (intro _) | split | with_reducible refine Law.set_freeCtr _ (by decide) ?_
    | (dsimp +zetaDelta only [id]))

theorem toStep_law (c : Nat) (step : Nat) (h : Handover) (s : State) :
    Law [.clus] s (toStep c step h s) := by
  unfold toStep
  repeat' (first
    | extract_lets | with_reducible exact Law.refl _ _ | with_reducible assumption | with_reducible apply Law.step (updClu_law _ _ _)
    | with_reducible refine Law.foldl _ _ _ ?_ ?_ | (show (_ : List Part) ⊆ _; decide) | (show (_ : List Part) ⊆ _; decide) | (intro _)
    | split | (dsimp +zetaDelta only [id]))

theorem execHandoverStandbyLocked_law (c : Clu) (s : State) :
    OutLaw [.cores, .clus] s (execHandoverStandbyLocked c s) := by
  unfold execHandoverStandbyLocked
  repeat' (first
    | with_reducible refine OutLaw.next ?_ | extract_lets | with_reducible exact Law.refl _ _ | with_reducible assumption
    | with_reducible apply Law.step (updComb_law _ _ _ _) | with_reducible apply Law.step (onSlot_law _ _ _ _)
    | with_reducible apply Law.step (toStep_law _ _ _ _) | with_reducible refine Law.foldl _ _ _ ?_ ?_
    | (show (_ : List Part) ⊆ _; decide) | (show (_ : List Part) ⊆ _; decide) | (intro _) | split | (dsimp +zetaDelta only [id]))

theorem execHandoverEnginesHeld_law (c : Clu) (s : State) :
    OutLaw [.clus] s (execHandoverEnginesHeld c s) := by
  unfold execHandoverEnginesHeld
  repeat' (first
    | with_reducible refine OutLaw.next ?_ | extract_lets | with_reducible exact Law.refl _ _ | with_reducible assumption
    | with_reducible apply Law.step (toStep_law _ _ _ _) | with_reducible refine Law.foldl _ _ _ ?_ ?_
    | (show (_ : List Part) ⊆ _; decide) | (show (_ : List Part) ⊆ _; decide) | (intro _) | split | (dsimp +zetaDelta only [id]))

theorem resumeSlot_law (c : Nat) (slot : Nat) (s : State) :
    Law [.cores] s (resumeSlot c slot s) := by
  unfold resumeSlot
  repeat' (first
    | extract_lets | with_reducible exact Law.refl _ _ | with_reducible assumption | with_reducible apply Law.step (onSlot_law _ _ _ _)
    | with_reducible refine Law.foldl _ _ _ ?_ ?_ | (show (_ : List Part) ⊆ _; decide) | (show (_ : List Part) ⊆ _; decide) | (intro _)
    | split | (dsimp +zetaDelta only [id]))

theorem execHandoverHoldTimeout_law (c : Clu) (s : State) :
    OutLaw [.cores, .clus, .tally, .log] s (execHandoverHoldTimeout c s) := by
  unfold execHandoverHoldTimeout
  repeat' (first
    | with_reducible refine OutLaw.next ?_ | extract_lets | with_reducible exact Law.refl _ _ | with_reducible assumption
    | with_reducible apply Law.step (updComb_law _ _ _ _) | with_reducible apply Law.step (onSlot_law _ _ _ _)
    | with_reducible apply Law.step (toStep_law _ _ _ _) | with_reducible apply Law.step (resumeSlot_law _ _ _)
    | with_reducible apply Law.step (logClu_law _ _ _ _ _ _ _) | with_reducible refine Law.foldl _ _ _ ?_ ?_
    | (show (_ : List Part) ⊆ _; decide) | (show (_ : List Part) ⊆ _; decide) | (intro _) | split | (dsimp +zetaDelta only [id]))

theorem execHandoverSwitchDone_law (c : Clu) (s : State) :
    OutLaw [.cores, .clus] s (execHandoverSwitchDone c s) := by
  unfold execHandoverSwitchDone
  repeat' (first
    | with_reducible refine OutLaw.next ?_ | extract_lets | with_reducible exact Law.refl _ _ | with_reducible assumption
    | with_reducible apply Law.step (onSlot_law _ _ _ _) | with_reducible apply Law.step (toStep_law _ _ _ _)
    | with_reducible refine Law.foldl _ _ _ ?_ ?_ | (show (_ : List Part) ⊆ _; decide) | (show (_ : List Part) ⊆ _; decide) | (intro _)
    | split | (dsimp +zetaDelta only [id]))

theorem setTrims_law (c : Nat) (slot : Nat) (trims : List (List Half16)) (s : State) :
    Law [.cores] s (setTrims c slot trims s) := by
  unfold setTrims
  repeat' (first
    | extract_lets | with_reducible exact Law.refl _ _ | with_reducible assumption | with_reducible apply Law.step (updOte_law _ _ _ _)
    | with_reducible refine Law.foldl _ _ _ ?_ ?_ | (show (_ : List Part) ⊆ _; decide) | (show (_ : List Part) ⊆ _; decide) | (intro _)
    | split | (dsimp +zetaDelta only [id]))

theorem execHandoverConfirmEnd_law (c : Clu) (inRange : Bool) (fitOk : Bool) (trims : List (List Half16)) (s : State) :
    OutLaw [.freeCtr, .mem, .host, .cores, .clus, .ctxs, .ddr, .hst, .idb, .rst, .tally, .log, .fab, .link, .stew, .ckpt, .boot, .pins, .side, .sent] s (execHandoverConfirmEnd c inRange fitOk trims s) := by
  unfold execHandoverConfirmEnd
  repeat' (first
    | with_reducible refine OutLaw.next ?_ | extract_lets | with_reducible exact Law.refl _ _ | with_reducible assumption
    | with_reducible apply Law.step (updComb_law _ _ _ _) | with_reducible apply Law.step (combSlotLost_law _ _ _)
    | with_reducible apply Law.step (nextHandover_law _ _) | with_reducible apply Law.step (toStep_law _ _ _ _)
    | with_reducible apply Law.step (resumeSlot_law _ _ _) | with_reducible apply Law.step (setTrims_law _ _ _ _)
    | with_reducible apply Law.step (updClu_law _ _ _) | with_reducible apply Law.step (logClu_law _ _ _ _ _ _ _)
    | with_reducible refine Law.foldl _ _ _ ?_ ?_ | (show (_ : List Part) ⊆ _; decide) | (show (_ : List Part) ⊆ _; decide) | (intro _)
    | split | (dsimp +zetaDelta only [id]))

theorem execHandoverRetry_law (c : Clu) (s : State) :
    OutLaw [.cores, .clus] s (execHandoverRetry c s) := by
  unfold execHandoverRetry
  repeat' (first
    | with_reducible refine OutLaw.next ?_ | extract_lets | with_reducible exact Law.refl _ _ | with_reducible assumption
    | with_reducible apply Law.step (updComb_law _ _ _ _) | with_reducible apply Law.step (onSlot_law _ _ _ _)
    | with_reducible apply Law.step (toStep_law _ _ _ _) | with_reducible refine Law.foldl _ _ _ ?_ ?_
    | (show (_ : List Part) ⊆ _; decide) | (show (_ : List Part) ⊆ _; decide) | (intro _) | split | (dsimp +zetaDelta only [id]))

end Sys2Proof.Machine
end

