-- ==== Sys2Proof/Laws/Ddr.lean ====
section
/-! SUPPORT. What each operation of Machine/Ddr.lean may touch, one lemma for each, and that it keeps memory in its canonical form. -/

set_option maxRecDepth 4000
set_option linter.all false

namespace Sys2Proof.Machine

theorem execWatchClearTimeout_law (ch : Chan) (s : State) :
    OutLaw [.ddr] s (execWatchClearTimeout ch s) := by
  unfold execWatchClearTimeout
  repeat' (first
    | with_reducible refine OutLaw.next ?_ | extract_lets | with_reducible exact Law.refl _ _ | with_reducible assumption
    | with_reducible apply Law.step (updChan_law _ _ _) | with_reducible refine Law.foldl _ _ _ ?_ ?_ | (show (_ : List Part) ⊆ _; decide)
    | (show (_ : List Part) ⊆ _; decide) | (intro _) | split | (dsimp +zetaDelta only [id]))

theorem execDeviceFailed_law (ch : Chan) (cause : Nat) (s : State) :
    OutLaw [.freeCtr, .mem, .host, .cores, .clus, .ctxs, .ddr, .hst, .tally, .log, .fab, .link, .stew, .ckpt, .boot, .pins, .side, .sent] s (execDeviceFailed ch cause s) := by
  unfold execDeviceFailed
  repeat' (first
    | with_reducible refine OutLaw.next ?_ | extract_lets | with_reducible exact Law.refl _ _ | with_reducible assumption
    | with_reducible apply Law.step (failDevice_law _ _ _) | with_reducible refine Law.foldl _ _ _ ?_ ?_
    | (show (_ : List Part) ⊆ _; decide) | (show (_ : List Part) ⊆ _; decide) | (intro _) | split | (dsimp +zetaDelta only [id]))

theorem serveOne_law (n : Nat) (s : State) :
    Law [.freeCtr, .mem, .host, .cores, .clus, .ctxs, .ddr, .hst, .tally, .log, .fab, .link, .stew, .ckpt, .boot, .pins, .side, .sent] s (serveOne n s) := by
  unfold serveOne
  repeat' (first
    | extract_lets | with_reducible exact Law.refl _ _ | with_reducible assumption | with_reducible apply Law.step (updChan_law _ _ _)
    | with_reducible apply Law.step (readUnit_law _ _ _) | with_reducible refine Law.foldl _ _ _ ?_ ?_
    | (show (_ : List Part) ⊆ _; decide) | (show (_ : List Part) ⊆ _; decide) | (intro _) | split | (dsimp +zetaDelta only [id]))

theorem serveAll_law (n : Nat) (s : State) :
    Law [.freeCtr, .mem, .host, .cores, .clus, .ctxs, .ddr, .hst, .tally, .log, .fab, .link, .stew, .ckpt, .boot, .pins, .side, .sent] s (serveAll n s) := by
  unfold serveAll
  repeat' (first
    | extract_lets | with_reducible exact Law.refl _ _ | with_reducible assumption | with_reducible apply Law.step (serveOne_law _ _)
    | with_reducible refine Law.foldl _ _ _ ?_ ?_ | (show (_ : List Part) ⊆ _; decide) | (show (_ : List Part) ⊆ _; decide) | (intro _)
    | split | (dsimp +zetaDelta only [id]))

theorem acceptReq_law {L : List Part} {s₀ : State} (req : Requester) (q : DdrReq) (held : Bool) (s : State) (act : State → State) (h₀ : Law L s₀ s) (h_act : ∀ (y0 : State), Law L s₀ y0 → Law L s₀ (act y0)) (hL : [.freeCtr, .mem, .host, .cores, .clus, .ctxs, .ddr, .hst, .tally, .log, .fab, .link, .stew, .ckpt, .boot, .pins, .side, .sent] ⊆ L) :
    Law L s₀ (acceptReq req q held s act) := by
  unfold acceptReq
  repeat' (first
    | extract_lets | with_reducible exact Law.refl _ _ | with_reducible assumption | with_reducible apply h_act
    | with_reducible apply Law.step (serveAll_law _ _) | with_reducible apply Law.step (updChan_law _ _ _)
    | with_reducible refine Law.foldl _ _ _ ?_ ?_ | (show (_ : List Part) ⊆ _; exact List.Subset.trans (by decide) hL)
    | (show (_ : List Part) ⊆ _; exact List.Subset.trans (by decide) hL) | (intro _) | split | (dsimp +zetaDelta only [id]))

theorem request_law {L : List Part} {s₀ : State} (req : Requester) (off : Nat) (len : Nat) (write : Bool) (delayed : Bool) (s : State) (act : State → State) (h₀ : Law L s₀ s) (h_act : ∀ (y0 : State), Law L s₀ y0 → Law L s₀ (act y0)) (hL : [.freeCtr, .mem, .host, .ddr, .tally, .log, .ckpt, .sent] ⊆ L) :
    Law L s₀ (request req off len write delayed s act) := by
  unfold request
  repeat' (first
    | extract_lets | with_reducible exact Law.refl _ _ | with_reducible assumption | with_reducible apply h_act
    | with_reducible apply Law.step (send_law _ _ _ _) | with_reducible apply Law.step (countDdr_law _ _ _)
    | with_reducible apply Law.step (guardLog_law _ _ _ _ _) | with_reducible apply Law.step (clearFirst_law _ _ _)
    | with_reducible refine Law.foldl _ _ _ ?_ ?_ | (show (_ : List Part) ⊆ _; exact List.Subset.trans (by decide) hL)
    | (show (_ : List Part) ⊆ _; exact List.Subset.trans (by decide) hL) | (intro _) | split | (dsimp +zetaDelta only [id]))

theorem execDdrReadRequest_law (req : Requester) (u : Nat) (res : BurstResult) (held : Bool) (delayed : Bool) (s : State) :
    OutLaw [.freeCtr, .mem, .host, .cores, .clus, .ctxs, .ddr, .hst, .tally, .log, .fab, .link, .stew, .ckpt, .boot, .pins, .side, .sent] s (execDdrReadRequest req u res held delayed s) := by
  unfold execDdrReadRequest
  repeat' (first
    | with_reducible refine OutLaw.next ?_ | extract_lets | with_reducible exact Law.refl _ _ | with_reducible assumption
    | with_reducible apply acceptReq_law | with_reducible apply request_law | with_reducible refine Law.foldl _ _ _ ?_ ?_
    | (show (_ : List Part) ⊆ _; decide) | (show (_ : List Part) ⊆ _; decide) | (intro _) | split | (dsimp +zetaDelta only [id]))

theorem execDdrWriteRequest_law (req : Requester) (u : Nat) (off : Nat) (data : List Byte) (held : Bool) (delayed : Bool) (s : State) :
    OutLaw [.freeCtr, .mem, .host, .cores, .clus, .ctxs, .ddr, .hst, .tally, .log, .fab, .link, .stew, .ckpt, .boot, .pins, .side, .sent] s (execDdrWriteRequest req u off data held delayed s) := by
  unfold execDdrWriteRequest
  repeat' (first
    | with_reducible refine OutLaw.next ?_ | extract_lets | with_reducible exact Law.refl _ _ | with_reducible assumption
    | with_reducible apply acceptReq_law | with_reducible apply request_law | with_reducible apply Law.step (store_law _ _ _)
    | with_reducible refine Law.foldl _ _ _ ?_ ?_ | (show (_ : List Part) ⊆ _; decide) | (show (_ : List Part) ⊆ _; decide) | (intro _)
    | split | (dsimp +zetaDelta only [id]))

theorem execStripeGatherTimeout_law (stripe : Nat) (s : State) :
    OutLaw [.freeCtr, .ddr, .tally] s (execStripeGatherTimeout stripe s) := by
  unfold execStripeGatherTimeout
  repeat' (first
    | with_reducible refine OutLaw.next ?_ | extract_lets | with_reducible exact Law.refl _ _ | with_reducible assumption
    | with_reducible apply Law.step (flushStripe_law _ _) | with_reducible refine Law.foldl _ _ _ ?_ ?_
    | (show (_ : List Part) ⊆ _; decide) | (show (_ : List Part) ⊆ _; decide) | (intro _) | split | (dsimp +zetaDelta only [id]))

theorem latchEcs_law (s : State) :
    Law [.freeCtr, .ddr] s (latchEcs s) := by
  unfold latchEcs
  dsimp only [drawFree]
  repeat' (first
    | extract_lets | with_reducible exact Law.refl _ _ | with_reducible assumption | with_reducible apply Law.step (updChan_law _ _ _)
    | with_reducible refine Law.foldl _ _ _ ?_ ?_ | (show (_ : List Part) ⊆ _; decide) | (show (_ : List Part) ⊆ _; decide) | (intro _)
    | split | with_reducible refine Law.set_freeCtr _ (by decide) ?_ | (dsimp +zetaDelta only [id]))

theorem execPatrolScrubStep_law (res : BurstResult) (s : State) :
    OutLaw [.freeCtr, .mem, .host, .cores, .clus, .ctxs, .ddr, .hst, .tally, .log, .fab, .link, .stew, .ckpt, .boot, .pins, .side, .sent] s (execPatrolScrubStep res s) := by
  unfold execPatrolScrubStep
  repeat' (first
    | with_reducible refine OutLaw.next ?_ | extract_lets | with_reducible exact Law.refl _ _ | with_reducible assumption
    | with_reducible apply Law.step (latchEcs_law _) | with_reducible apply Law.step (readUnit_law _ _ _)
    | with_reducible apply Law.step (readParity_law _ _ _ _) | with_reducible refine Law.foldl _ _ _ ?_ ?_
    | (show (_ : List Part) ⊆ _; decide) | (show (_ : List Part) ⊆ _; decide) | (intro _) | split
    | with_reducible refine Law.set_ddr _ (by decide) ?_ | (dsimp +zetaDelta only [id]))

theorem ckptCapacity_law (v : Nat) (s : State) :
    Law [.host, .cores, .ctxs, .hst, .tally, .log, .stew, .ckpt, .pins, .side, .sent] s (ckptCapacity v s) := by
  unfold ckptCapacity
  repeat' (first
    | extract_lets | with_reducible exact Law.refl _ _ | with_reducible assumption | with_reducible apply Law.step (ckptFail_law _ _ _)
    | with_reducible refine Law.foldl _ _ _ ?_ ?_ | (show (_ : List Part) ⊆ _; decide) | (show (_ : List Part) ⊆ _; decide) | (intro _)
    | split | (dsimp +zetaDelta only [id]))

theorem wf_moveSystem (m : Memory) (u v : Nat) (h : m.wf = true) : (moveSystem m u v).wf = true := by
  unfold moveSystem
  split
  · exact h
  · rename_i k
    have k := not_or.mp k
    refine Memory.wf_append (Memory.wf_append (Memory.wf_filter _ h) (Memory.wf_shift u v (Memory.wf_filter _ h) ?_) ?_) (Memory.wf_filter _ h) ?_
    · intro c hc
      simp only [List.mem_filter, Bool.and_eq_true, decide_eq_true_eq] at hc
      exact hc.2.1
    · intro c hc d hd
      obtain ⟨e, he, rfl⟩ := List.mem_map.mp hd
      simp only [List.mem_filter, Bool.and_eq_true, decide_eq_true_eq] at hc he
      omega
    · intro c hc d hd
      simp only [List.mem_filter, decide_eq_true_eq] at hd
      rcases List.mem_append.mp hc with hc | hc
      · simp only [List.mem_filter, decide_eq_true_eq] at hc
        omega
      · obtain ⟨e, he, rfl⟩ := List.mem_map.mp hc
        simp only [List.mem_filter, Bool.and_eq_true, decide_eq_true_eq] at he
        simp only
        omega

theorem beginRetire_law (n : Nat) (s : State) :
    Law [.freeCtr, .mem, .host, .cores, .clus, .ctxs, .ddr, .hst, .tally, .log, .fab, .link, .stew, .ckpt, .boot, .pins, .side, .sent] s (beginRetire n s) := by
  unfold beginRetire
  extract_lets cap u v s1 pois d first s2 s3
  have h2 : Law [.freeCtr, .mem, .host, .cores, .clus, .ctxs, .ddr, .hst, .tally, .log, .fab, .link, .stew, .ckpt, .boot, .pins, .side, .sent] s s2 :=
    Law.set_mem_ddr _ _ (by decide) (by decide) (by decide) (fun w => wf_moveSystem _ _ _ w) (Law.step (updChan_law _ _ _) (by decide) (Law.refl _ s))
  exact Law.step (recheckState_law _) (by decide) (Law.step (ckptCapacity_law _ _) (by decide) (Law.step (logRec_law _ _ _ _ _ _ _) (by decide) h2))

theorem execDdrRetire_law (r : RingIx) (s : State) :
    OutLaw [.freeCtr, .mem, .host, .cores, .clus, .ctxs, .ddr, .hst, .tally, .log, .fab, .link, .stew, .ckpt, .boot, .pins, .side, .sent] s (execDdrRetire r s) := by
  unfold execDdrRetire
  repeat' (first
    | with_reducible refine OutLaw.next ?_ | extract_lets | with_reducible exact Law.refl _ _ | with_reducible assumption
    | with_reducible apply onAdmin_law | with_reducible apply Law.step (beginRetire_law _ _)
    | with_reducible apply Law.step (complete_law _ _ _ _ _) | with_reducible apply Law.step (logRec_law _ _ _ _ _ _ _)
    | with_reducible refine Law.foldl _ _ _ ?_ ?_ | (show (_ : List Part) ⊆ _; decide) | (show (_ : List Part) ⊆ _; decide) | (intro _)
    | split | (dsimp +zetaDelta only [id]))

theorem migrationDone_law (n : Nat) (s : State) :
    Law [.ddr, .tally, .log] s (migrationDone n s) := by
  unfold migrationDone
  repeat' (first
    | extract_lets | with_reducible exact Law.refl _ _ | with_reducible assumption | with_reducible apply Law.step (updChan_law _ _ _)
    | with_reducible apply Law.step (logRec_law _ _ _ _ _ _ _) | with_reducible refine Law.foldl _ _ _ ?_ ?_
    | (show (_ : List Part) ⊆ _; decide) | (show (_ : List Part) ⊆ _; decide) | (intro _) | split
    | with_reducible refine Law.set_ddr _ (by decide) ?_ | (dsimp +zetaDelta only [id]))

theorem chunkRead_law (ds : List Nat) (s : State) (u : Nat) :
    Law [.freeCtr, .mem, .host, .cores, .clus, .ctxs, .ddr, .hst, .tally, .log, .fab, .link, .stew, .ckpt, .boot, .pins, .side, .sent] s (chunkRead ds s u) := by
  unfold chunkRead
  repeat' (first
    | extract_lets | with_reducible exact Law.refl _ _ | with_reducible assumption | with_reducible apply Law.step (countDdr_law _ _ _)
    | with_reducible apply Law.step (poisonUnit_law _ _ _) | with_reducible apply Law.step (rebuild_law _ _ _ _)
    | with_reducible refine Law.foldl _ _ _ ?_ ?_ | (show (_ : List Part) ⊆ _; decide) | (show (_ : List Part) ⊆ _; decide) | (intro _)
    | split | (dsimp +zetaDelta only [id]))

theorem execMigrationChunk_law (s : State) :
    OutLaw [.freeCtr, .mem, .host, .cores, .clus, .ctxs, .ddr, .hst, .tally, .log, .fab, .link, .stew, .ckpt, .boot, .pins, .side, .sent] s (execMigrationChunk s) := by
  unfold execMigrationChunk
  repeat' (first
    | with_reducible refine OutLaw.next ?_ | extract_lets | with_reducible exact Law.refl _ _ | with_reducible assumption
    | with_reducible apply Law.step (migrationDone_law _ _) | with_reducible apply Law.step (chunkRead_law _ _ _)
    | with_reducible apply Law.step (flushIn_law _ _ _) | with_reducible apply Law.step (stripeRange_law _ _ _ _)
    | with_reducible refine Law.foldl _ _ _ ?_ ?_ | (show (_ : List Part) ⊆ _; decide) | (show (_ : List Part) ⊆ _; decide) | (intro _)
    | split | with_reducible refine Law.set_ddr _ (by decide) ?_ | (dsimp +zetaDelta only [id]))

theorem execGuardRegionZero_law (reg : Fin 16) (s : State) :
    OutLaw [.freeCtr, .mem, .host, .ddr, .tally, .ckpt] s (execGuardRegionZero reg s) := by
  unfold execGuardRegionZero
  repeat' (first
    | with_reducible refine OutLaw.next ?_ | extract_lets | with_reducible exact Law.refl _ _ | with_reducible assumption
    | with_reducible apply Law.step (zeroWaiting_law _ _) | with_reducible refine Law.foldl _ _ _ ?_ ?_
    | (show (_ : List Part) ⊆ _; decide) | (show (_ : List Part) ⊆ _; decide) | (intro _) | split | (dsimp +zetaDelta only [id]))

end Sys2Proof.Machine
end

