-- ==== Sys2Proof/Laws/Copy.lean ====
section
/-! SUPPORT. What each operation of Machine/Copy.lean may touch, one lemma for each, and that it keeps memory in its canonical form. -/

set_option maxRecDepth 4000
set_option linter.all false

namespace Sys2Proof.Machine

theorem setEngine_law (e : Nat) (l : List CopyDesc) (s : State) :
    Law [.ddr] s (setEngine e l s) := by
  unfold setEngine
  repeat' (first
    | extract_lets | with_reducible exact Law.refl _ _ | with_reducible assumption | with_reducible refine Law.foldl _ _ _ ?_ ?_
    | (show (_ : List Part) ⊆ _; decide) | (show (_ : List Part) ⊆ _; decide) | (intro _) | split
    | with_reducible refine Law.set_ddr _ (by decide) ?_ | (dsimp +zetaDelta only [id]))

theorem takeCopy_law (r : Nat) (opc : Nat) (s : State) :
    Law [.ddr, .hst] s (takeCopy r opc s) := by
  unfold takeCopy
  repeat' (first
    | extract_lets | with_reducible exact Law.refl _ _ | with_reducible assumption | with_reducible apply Law.step (setEngine_law _ _ _)
    | with_reducible apply Law.step (startEntry_law _ _ _) | with_reducible apply onEntry_law
    | with_reducible refine Law.foldl _ _ _ ?_ ?_ | (show (_ : List Part) ⊆ _; decide) | (show (_ : List Part) ⊆ _; decide) | (intro _)
    | split | (dsimp +zetaDelta only [id]))

theorem execCopy_law (r : RingIx) (s : State) :
    OutLaw [.ddr, .hst] s (execCopy r s) := by
  unfold execCopy
  repeat' (first
    | with_reducible refine OutLaw.next ?_ | extract_lets | with_reducible exact Law.refl _ _ | with_reducible assumption
    | with_reducible apply Law.step (takeCopy_law _ _ _) | with_reducible refine Law.foldl _ _ _ ?_ ?_
    | (show (_ : List Part) ⊆ _; decide) | (show (_ : List Part) ⊆ _; decide) | (intro _) | split | (dsimp +zetaDelta only [id]))

theorem execFill_law (r : RingIx) (s : State) :
    OutLaw [.ddr, .hst] s (execFill r s) := by
  unfold execFill
  repeat' (first
    | with_reducible refine OutLaw.next ?_ | extract_lets | with_reducible exact Law.refl _ _ | with_reducible assumption
    | with_reducible apply Law.step (takeCopy_law _ _ _) | with_reducible refine Law.foldl _ _ _ ?_ ?_
    | (show (_ : List Part) ⊆ _; decide) | (show (_ : List Part) ⊆ _; decide) | (intro _) | split | (dsimp +zetaDelta only [id]))

theorem execPaged_law (r : RingIx) (s : State) :
    OutLaw [.ddr, .hst] s (execPaged r s) := by
  unfold execPaged
  repeat' (first
    | with_reducible refine OutLaw.next ?_ | extract_lets | with_reducible exact Law.refl _ _ | with_reducible assumption
    | with_reducible apply Law.step (takeCopy_law _ _ _) | with_reducible refine Law.foldl _ _ _ ?_ ?_
    | (show (_ : List Part) ⊆ _; decide) | (show (_ : List Part) ⊆ _; decide) | (intro _) | split | (dsimp +zetaDelta only [id]))

theorem rowReport_law (c : Nat) (f : RowFail) (s : State) :
    Law [.freeCtr, .mem, .host, .cores, .clus, .ctxs, .ddr, .hst, .idb, .rst, .tally, .log, .fab, .link, .stew, .ckpt, .boot, .pins, .side, .sent] s (rowReport c f s) := by
  unfold rowReport
  repeat' (first
    | extract_lets | with_reducible exact Law.refl _ _ | with_reducible assumption | with_reducible apply Law.step (eccDouble_law _ _)
    | with_reducible apply Law.step (cluFault_law _ _ _) | with_reducible apply Law.step (logClu_law _ _ _ _ _ _ _)
    | with_reducible apply Law.step (guardLog_law _ _ _ _ _) | with_reducible refine Law.foldl _ _ _ ?_ ?_
    | (show (_ : List Part) ⊆ _; decide) | (show (_ : List Part) ⊆ _; decide) | (intro _) | split | (dsimp +zetaDelta only [id]))

theorem placeReady_law (w : Who) (p : Place) (len : Nat) (read : Bool) (s : State) :
    Law [.freeCtr, .mem, .host, .cores, .clus, .ctxs, .ddr, .hst, .tally, .log, .fab, .link, .stew, .ckpt, .boot, .pins, .side, .sent] s (placeReady w p len read s) := by
  unfold placeReady
  repeat' (first
    | extract_lets | with_reducible exact Law.refl _ _ | with_reducible assumption | with_reducible apply Law.step (clearFirst_law _ _ _)
    | with_reducible apply Law.step (readRange_law _ _ _) | with_reducible refine Law.foldl _ _ _ ?_ ?_
    | (show (_ : List Part) ⊆ _; decide) | (show (_ : List Part) ⊆ _; decide) | (intro _) | split | (dsimp +zetaDelta only [id]))

theorem descXfer_law (d : CopyDesc) (ps : List Piece) (tok : Option (Nat × Nat × Nat × Nat × Word)) (s : State) :
    Law [.freeCtr, .mem, .host, .cores, .clus, .ctxs, .ddr, .hst, .idb, .rst, .tally, .log, .fab, .link, .stew, .ckpt, .boot, .pins, .side, .sent] s (descXfer d ps tok s).2 := by
  unfold descXfer
  repeat' (first
    | extract_lets | with_reducible exact Law.refl _ _ | with_reducible assumption | with_reducible apply Law.step (newXfer_law _ _)
    | with_reducible refine Law.foldl _ _ _ ?_ ?_ | (show (_ : List Part) ⊆ _; decide) | (show (_ : List Part) ⊆ _; decide) | (intro _)
    | split | (dsimp +zetaDelta only [id]))

theorem tableReady_law (w : Who) (e : Entry) (k : Nat) (s : State) :
    Law [.freeCtr, .mem, .host, .cores, .clus, .ctxs, .ddr, .hst, .tally, .log, .fab, .link, .stew, .ckpt, .boot, .pins, .side, .sent] s (tableReady w e k s) := by
  unfold tableReady
  repeat' (first
    | extract_lets | with_reducible exact Law.refl _ _ | with_reducible assumption
    | with_reducible apply Law.step (placeReady_law _ _ _ _ _) | with_reducible refine Law.foldl _ _ _ ?_ ?_
    | (show (_ : List Part) ⊆ _; decide) | (show (_ : List Part) ⊆ _; decide) | (intro _) | split | (dsimp +zetaDelta only [id]))

theorem beginDesc_law (d : CopyDesc) (s : State) :
    Law [.freeCtr, .mem, .host, .cores, .clus, .ctxs, .ddr, .hst, .idb, .rst, .tally, .log, .fab, .link, .stew, .ckpt, .boot, .pins, .side, .sent] s (beginDesc d s).2 := by
  unfold beginDesc
  repeat' (first
    | extract_lets | with_reducible exact Law.refl _ _ | with_reducible assumption | with_reducible apply Law.step (descXfer_law _ _ _ _)
    | with_reducible refine Law.foldl _ _ _ ?_ ?_ | (show (_ : List Part) ⊆ _; decide) | (show (_ : List Part) ⊆ _; decide) | (intro _)
    | split | (dsimp +zetaDelta only [id]))

theorem setCeList_law (c : Nat) (x : Nat) (l : CeList) (s : State) :
    Law [.clus] s (setCeList c x l s) := by
  unfold setCeList
  repeat' (first
    | extract_lets | with_reducible exact Law.refl _ _ | with_reducible assumption | with_reducible apply Law.step (updClu_law _ _ _)
    | with_reducible refine Law.foldl _ _ _ ?_ ?_ | (show (_ : List Part) ⊆ _; decide) | (show (_ : List Part) ⊆ _; decide) | (intro _)
    | split | (dsimp +zetaDelta only [id]))

theorem stopList_law (c : Nat) (x : Nat) (index : Nat) (cause : Nat) (addr : Nat) (s : State) :
    Law [.host, .clus, .ddr, .hst, .tally, .log, .sent] s (stopList c x index cause addr s) := by
  unfold stopList
  repeat' (first
    | extract_lets | with_reducible exact Law.refl _ _ | with_reducible assumption | with_reducible apply Law.step (setEngine_law _ _ _)
    | with_reducible apply Law.step (setCeList_law _ _ _ _) | with_reducible apply Law.step (postEvent_law _ _ _ _ _ _ _ _)
    | with_reducible apply Law.step (logClu_law _ _ _ _ _ _ _) | with_reducible refine Law.foldl _ _ _ ?_ ?_
    | (show (_ : List Part) ⊆ _; decide) | (show (_ : List Part) ⊆ _; decide) | (intro _) | split | (dsimp +zetaDelta only [id]))

theorem listBad_law (c : Nat) (x : Nat) (index : Nat) (a : Nat) (s : State) :
    Law [.freeCtr, .mem, .host, .cores, .clus, .ctxs, .ddr, .hst, .idb, .rst, .tally, .log, .fab, .link, .stew, .ckpt, .boot, .pins, .side, .sent] s (listBad c x index a s) := by
  unfold listBad
  repeat' (first
    | extract_lets | with_reducible exact Law.refl _ _ | with_reducible assumption
    | with_reducible apply Law.step (stopList_law _ _ _ _ _ _) | with_reducible apply Law.step (eccDouble_law _ _)
    | with_reducible refine Law.foldl _ _ _ ?_ ?_ | (show (_ : List Part) ⊆ _; decide) | (show (_ : List Part) ⊆ _; decide) | (intro _)
    | split | (dsimp +zetaDelta only [id]))

theorem execCopyDescriptorStart_law (eng : Fin 20) (s : State) :
    OutLaw [.freeCtr, .mem, .host, .cores, .clus, .ctxs, .ddr, .hst, .idb, .rst, .tally, .log, .fab, .link, .stew, .ckpt, .boot, .pins, .side, .sent] s (execCopyDescriptorStart eng s) := by
  unfold execCopyDescriptorStart
  repeat' (first
    | with_reducible refine OutLaw.next ?_ | extract_lets | with_reducible exact Law.refl _ _ | with_reducible assumption
    | with_reducible apply Law.step (setEngine_law _ _ _) | with_reducible apply Law.step (beginDesc_law _ _)
    | with_reducible apply Law.step (listBad_law _ _ _ _ _) | with_reducible refine Law.foldl _ _ _ ?_ ?_
    | (show (_ : List Part) ⊆ _; decide) | (show (_ : List Part) ⊆ _; decide) | (intro _) | split | (dsimp +zetaDelta only [id]))

theorem headAt_law (c : Nat) (x : Nat) (h : Nat) (tail : Except Nat Nat) (s : State) :
    Law [.freeCtr, .mem, .host, .cores, .clus, .ctxs, .ddr, .hst, .idb, .rst, .tally, .log, .fab, .link, .stew, .ckpt, .boot, .pins, .side, .sent] s (headAt c x h tail s) := by
  unfold headAt
  repeat' (first
    | extract_lets | with_reducible exact Law.refl _ _ | with_reducible assumption | with_reducible apply Law.step (setCeList_law _ _ _ _)
    | with_reducible apply Law.step (listBad_law _ _ _ _ _) | with_reducible refine Law.foldl _ _ _ ?_ ?_
    | (show (_ : List Part) ⊆ _; decide) | (show (_ : List Part) ⊆ _; decide) | (intro _) | split | (dsimp +zetaDelta only [id]))

theorem moveHead_law (c : Nat) (x : Nat) (h : Nat) (l : CeList) (s : State) :
    Law [.freeCtr, .mem, .host, .cores, .clus, .ddr, .tally, .ckpt] s (moveHead c x h l s) := by
  unfold moveHead
  repeat' (first
    | extract_lets | with_reducible exact Law.refl _ _ | with_reducible assumption | with_reducible apply Law.step (setCeList_law _ _ _ _)
    | with_reducible apply Law.step (store_law _ _ _) | with_reducible refine Law.foldl _ _ _ ?_ ?_ | (show (_ : List Part) ⊆ _; decide)
    | (show (_ : List Part) ⊆ _; decide) | (intro _) | split | (dsimp +zetaDelta only [id]))

theorem advanceList_law (c : Nat) (x : Nat) (index : Nat) (s : State) :
    Law [.freeCtr, .mem, .host, .cores, .clus, .ctxs, .ddr, .hst, .idb, .rst, .tally, .log, .fab, .link, .stew, .ckpt, .boot, .pins, .side, .sent] s (advanceList c x index s) := by
  unfold advanceList
  repeat' (first
    | extract_lets | with_reducible exact Law.refl _ _ | with_reducible assumption | with_reducible apply Law.step (headAt_law _ _ _ _ _)
    | with_reducible apply Law.step (moveHead_law _ _ _ _ _) | with_reducible refine Law.foldl _ _ _ ?_ ?_
    | (show (_ : List Part) ⊆ _; decide) | (show (_ : List Part) ⊆ _; decide) | (intro _) | split | (dsimp +zetaDelta only [id]))

theorem listToken_law (x : Nat) (e : Entry) (s : State) :
    Law [.cores, .rst, .tally, .log] s (listToken x e s) := by
  unfold listToken
  repeat' (first
    | extract_lets | with_reducible exact Law.refl _ _ | with_reducible assumption
    | with_reducible apply Law.step (remoteToken_law _ _ _ _ _ _ _) | with_reducible refine Law.foldl _ _ _ ?_ ?_
    | (show (_ : List Part) ⊆ _; decide) | (show (_ : List Part) ⊆ _; decide) | (intro _) | split | (dsimp +zetaDelta only [id]))

theorem endHub_law (eng : Nat) (r : Nat) (d : CopyDesc) (status : Nat) (bytes : Nat) (s : State) :
    Law [.host, .cores, .ddr, .hst, .rst, .tally, .log, .sent] s (endHub eng r d status bytes s) := by
  unfold endHub
  repeat' (first
    | extract_lets | with_reducible exact Law.refl _ _ | with_reducible assumption
    | with_reducible apply Law.step (complete_law _ _ _ _ _) | with_reducible apply Law.step (succeed_law _ _ _ _ _)
    | with_reducible refine Law.foldl _ _ _ ?_ ?_ | (show (_ : List Part) ⊆ _; decide) | (show (_ : List Part) ⊆ _; decide) | (intro _)
    | split | with_reducible refine Law.set_ddr _ (by decide) ?_ | (dsimp +zetaDelta only [id]))

theorem endCluster_law (c : Nat) (d : CopyDesc) (status : Nat) (addr : Nat) (units : Nat) (s : State) :
    Law [.freeCtr, .mem, .host, .cores, .clus, .ctxs, .ddr, .hst, .idb, .rst, .tally, .log, .fab, .link, .stew, .ckpt, .boot, .pins, .side, .sent] s (endCluster c d status addr units s) := by
  unfold endCluster
  repeat' (first
    | extract_lets | with_reducible exact Law.refl _ _ | with_reducible assumption
    | with_reducible apply Law.step (stopList_law _ _ _ _ _ _) | with_reducible apply Law.step (advanceList_law _ _ _ _)
    | with_reducible apply Law.step (listToken_law _ _ _) | with_reducible apply Law.step (countAt_law _ _ _ _ _ _ _)
    | with_reducible refine Law.foldl _ _ _ ?_ ?_ | (show (_ : List Part) ⊆ _; decide) | (show (_ : List Part) ⊆ _; decide) | (intro _)
    | split | (dsimp +zetaDelta only [id]))

theorem endDesc_law (eng : Nat) (d : CopyDesc) (status : Nat) (addr : Nat) (s : State) :
    Law [.freeCtr, .mem, .host, .cores, .clus, .ctxs, .ddr, .hst, .idb, .rst, .tally, .log, .fab, .link, .stew, .ckpt, .boot, .pins, .side, .sent] s (endDesc eng d status addr s) := by
  unfold endDesc
  repeat' (first
    | extract_lets | with_reducible exact Law.refl _ _ | with_reducible assumption
    | with_reducible apply Law.step (endHub_law _ _ _ _ _ _) | with_reducible apply Law.step (endCluster_law _ _ _ _ _ _)
    | with_reducible apply Law.step (countAt_law _ _ _ _ _ _ _) | with_reducible refine Law.foldl _ _ _ ?_ ?_
    | (show (_ : List Part) ⊆ _; decide) | (show (_ : List Part) ⊆ _; decide) | (intro _) | split | (dsimp +zetaDelta only [id]))

theorem moveUnit_law (w : Who) (x : Row) (u : Nat × Nat) (p : Prog) : Law [.freeCtr, .mem, .host, .cores, .clus, .ctxs, .ddr, .hst, .idb, .rst, .tally, .log, .fab, .link, .stew, .ckpt, .boot, .pins, .side, .sent] p.s (moveUnit w x u p).s := by
  unfold moveUnit
  split
  · exact Law.refl _ _
  · split
    · exact Law.refl _ _
    · exact Law.step (store_law _ _ _) (by decide) (Law.step (placeReady_law _ _ _ _ _) (by decide) (Law.refl _ _))
    · extract_lets t
      have ht : Law [.freeCtr, .mem, .host, .cores, .clus, .ctxs, .ddr, .hst, .idb, .rst, .tally, .log, .fab, .link, .stew, .ckpt, .boot, .pins, .side, .sent] p.s t :=
        Law.step (placeReady_law _ _ _ _ _) (by decide) (Law.step (placeReady_law _ _ _ _ _) (by decide) (Law.refl _ _))
      clear_value t
      split
      · exact ht
      · split
        · exact ht
        · exact Law.step (store_law _ _ _) (by decide) ht
    · exact Law.refl _ _

theorem Prog.foldl_law {α : Type} {L : List Part} {s : State} (f : Prog → α → Prog) (l : List α) (p : Prog) (h : Law L s p.s)
    (hf : ∀ (q : Prog) (a : α), Law L s q.s → Law L s (f q a).s) : Law L s (l.foldl f p).s := by
  induction l generalizing p with
  | nil => exact h
  | cons a l ih => exact ih (f p a) (hf p a h)

/-- The state a drive leaves. -/
def Drive.st : Drive → State
  | .waits _ s => s
  | .ends _ _ _ s => s

theorem driveFail_law (w : Who) (d : CopyDesc) (f : RowFail) (s : State) : Law [.freeCtr, .mem, .host, .cores, .clus, .ctxs, .ddr, .hst, .idb, .rst, .tally, .log, .fab, .link, .stew, .ckpt, .boot, .pins, .side, .sent] s (driveFail w d f s).st :=
  Law.step (rowReport_law _ _ _) (by decide) (Law.refl _ s)

theorem driveEnd_law (w : Who) (d : CopyDesc) (s : State) : Law [.freeCtr, .mem, .host, .cores, .clus, .ctxs, .ddr, .hst, .idb, .rst, .tally, .log, .fab, .link, .stew, .ckpt, .boot, .pins, .side, .sent] s (driveEnd w d s).st := by
  unfold driveEnd
  split
  · exact Law.step (descXfer_law _ _ _ _) (by decide) (Law.refl _ s)
  · exact Law.refl _ s

theorem drive_law (w : Who) (n : Nat) (d : CopyDesc) (s : State) : Law [.freeCtr, .mem, .host, .cores, .clus, .ctxs, .ddr, .hst, .idb, .rst, .tally, .log, .fab, .link, .stew, .ckpt, .boot, .pins, .side, .sent] s (drive w n d s).st := by
  induction n generalizing d s with
  | zero => exact driveEnd_law w d s
  | succ n ih =>
    unfold drive
    split
    · exact driveEnd_law w d s
    · extract_lets t
      have ht : Law [.freeCtr, .mem, .host, .cores, .clus, .ctxs, .ddr, .hst, .idb, .rst, .tally, .log, .fab, .link, .stew, .ckpt, .boot, .pins, .side, .sent] s t := Law.step (tableReady_law _ _ _ _) (by decide) (Law.refl _ s)
      clear_value t
      split
      · exact ht.trans (driveFail_law _ _ _ _)
      · split
        · split
          · exact ht.trans (driveFail_law _ _ _ _)
          · exact Law.step (descXfer_law _ _ _ _) (by decide) ht
        · extract_lets p
          have hp : Law [.freeCtr, .mem, .host, .cores, .clus, .ctxs, .ddr, .hst, .idb, .rst, .tally, .log, .fab, .link, .stew, .ckpt, .boot, .pins, .side, .sent] s p.s := Prog.foldl_law _ _ _ ht fun q u h => h.trans (moveUnit_law _ _ _ _)
          clear_value p
          split
          · exact hp.trans (driveFail_law _ _ _ _)
          · exact hp.trans (ih _ _)

theorem driveDesc_law (w : Who) (d : CopyDesc) (s : State) : Law [.freeCtr, .mem, .host, .cores, .clus, .ctxs, .ddr, .hst, .idb, .rst, .tally, .log, .fab, .link, .stew, .ckpt, .boot, .pins, .side, .sent] s (driveDesc w d s).st := by
  unfold driveDesc
  extract_lets x e t
  have ht : Law [.freeCtr, .mem, .host, .cores, .clus, .ctxs, .ddr, .hst, .idb, .rst, .tally, .log, .fab, .link, .stew, .ckpt, .boot, .pins, .side, .sent] s t := Law.step (dropXfer_law _ _) (by decide) (Law.refl _ s)
  clear_value t e x
  split
  · exact ht
  · exact ht.trans (driveFail_law _ _ _ _)
  · exact ht.trans (drive_law _ _ _ _)

theorem finishDesc_law (eng : Nat) (d : CopyDesc) (ecc : Ecc) (s : State) : Law [.freeCtr, .mem, .host, .cores, .clus, .ctxs, .ddr, .hst, .idb, .rst, .tally, .log, .fab, .link, .stew, .ckpt, .boot, .pins, .side, .sent] s (finishDesc eng d ecc s) := by
  unfold finishDesc
  extract_lets rest code t
  split
  · exact Law.step (endDesc_law _ _ _ _ _) (by decide) (Law.step (setEngine_law _ _ _) (by decide) (Law.refl _ s))
  · have ht : Law [.freeCtr, .mem, .host, .cores, .clus, .ctxs, .ddr, .hst, .idb, .rst, .tally, .log, .fab, .link, .stew, .ckpt, .boot, .pins, .side, .sent] s t := Law.step (applyEcc_law _ _ _) (by decide) (Law.refl _ s)
    clear_value t
    have hd := ht.trans (driveDesc_law (descWho t d) d t)
    split
    · rename_i h
      rw [h] at hd
      exact Law.step (setEngine_law _ _ _) (by decide) hd
    · rename_i h
      rw [h] at hd
      exact Law.step (endDesc_law _ _ _ _ _) (by decide) (Law.step (setEngine_law _ _ _) (by decide) hd)

theorem execCopyDescriptorComplete_law (eng : Fin 20) (ecc : Ecc) (s : State) :
    OutLaw [.freeCtr, .mem, .host, .cores, .clus, .ctxs, .ddr, .hst, .idb, .rst, .tally, .log, .fab, .link, .stew, .ckpt, .boot, .pins, .side, .sent] s (execCopyDescriptorComplete eng ecc s) := by
  unfold execCopyDescriptorComplete
  repeat' (first
    | with_reducible refine OutLaw.next ?_ | extract_lets | with_reducible exact Law.refl _ _ | with_reducible assumption
    | with_reducible apply Law.step (finishDesc_law _ _ _ _) | with_reducible refine Law.foldl _ _ _ ?_ ?_
    | (show (_ : List Part) ⊆ _; decide) | (show (_ : List Part) ⊆ _; decide) | (intro _) | split | (dsimp +zetaDelta only [id]))

theorem runTo_law (c : Nat) (x : Nat) (l : CeList) (tail : Except Nat Nat) (s : State) :
    Law [.freeCtr, .mem, .host, .cores, .clus, .ctxs, .ddr, .hst, .idb, .rst, .tally, .log, .fab, .link, .stew, .ckpt, .boot, .pins, .side, .sent] s (runTo c x l tail s) := by
  unfold runTo
  repeat' (first
    | extract_lets | with_reducible exact Law.refl _ _ | with_reducible assumption | with_reducible apply Law.step (setCeList_law _ _ _ _)
    | with_reducible apply Law.step (stopList_law _ _ _ _ _ _) | with_reducible apply Law.step (listBad_law _ _ _ _ _)
    | with_reducible refine Law.foldl _ _ _ ?_ ?_ | (show (_ : List Part) ⊆ _; decide) | (show (_ : List Part) ⊆ _; decide) | (intro _)
    | split | (dsimp +zetaDelta only [id]))

theorem runList_law (c : Nat) (x : Nat) (s : State) :
    Law [.freeCtr, .mem, .host, .cores, .clus, .ctxs, .ddr, .hst, .idb, .rst, .tally, .log, .fab, .link, .stew, .ckpt, .boot, .pins, .side, .sent] s (runList c x s) := by
  unfold runList
  repeat' (first
    | extract_lets | with_reducible exact Law.refl _ _ | with_reducible assumption | with_reducible apply Law.step (runTo_law _ _ _ _ _)
    | with_reducible refine Law.foldl _ _ _ ?_ ?_ | (show (_ : List Part) ⊆ _; decide) | (show (_ : List Part) ⊆ _; decide) | (intro _)
    | split | (dsimp +zetaDelta only [id]))

theorem execCopyListWake_law (c : Clu) (x : Ctx) (s : State) :
    OutLaw [.freeCtr, .mem, .host, .cores, .clus, .ctxs, .ddr, .hst, .idb, .rst, .tally, .log, .fab, .link, .stew, .ckpt, .boot, .pins, .side, .sent] s (execCopyListWake c x s) := by
  unfold execCopyListWake
  repeat' (first
    | with_reducible refine OutLaw.next ?_ | extract_lets | with_reducible exact Law.refl _ _ | with_reducible assumption
    | with_reducible apply Law.step (runList_law _ _ _) | with_reducible refine Law.foldl _ _ _ ?_ ?_ | (show (_ : List Part) ⊆ _; decide)
    | (show (_ : List Part) ⊆ _; decide) | (intro _) | split | (dsimp +zetaDelta only [id]))

theorem execCopyListRestart_law (c : Clu) (v : Word) (s : State) :
    OutLaw [.freeCtr, .mem, .host, .cores, .clus, .ctxs, .ddr, .hst, .idb, .rst, .tally, .log, .fab, .link, .stew, .ckpt, .boot, .pins, .side, .sent] s (execCopyListRestart c v s) := by
  unfold execCopyListRestart
  repeat' (first
    | with_reducible refine OutLaw.next ?_ | extract_lets | with_reducible exact Law.refl _ _ | with_reducible assumption
    | with_reducible apply Law.step (runList_law _ _ _) | with_reducible apply cluWrite_law | with_reducible refine Law.foldl _ _ _ ?_ ?_
    | (show (_ : List Part) ⊆ _; decide) | (show (_ : List Part) ⊆ _; decide) | (intro _) | split | (dsimp +zetaDelta only [id]))

end Sys2Proof.Machine
end

