-- ==== Sys2Proof/Laws/Checkpoint.lean ====
section
/-! SUPPORT. What each operation of Machine/Checkpoint.lean may touch, one lemma for each, and that it keeps memory in its canonical form. -/

set_option maxRecDepth 4000
set_option linter.all false

namespace Sys2Proof.Machine

theorem onCkptRing_law {L : List Part} {s₀ : State} (r : Nat) (opc : Nat) (s : State) (act : Entry → State) (h₀ : Law L s₀ s) (h_act : ∀ (y0 : Entry), Law L s₀ (act y0)) (hL : [.host, .hst, .tally, .sent] ⊆ L) :
    Law L s₀ (onCkptRing r opc s act) := by
  unfold onCkptRing
  repeat' (first
    | extract_lets | with_reducible exact Law.refl _ _ | with_reducible assumption | with_reducible apply h_act
    | with_reducible apply Law.step (complete_law _ _ _ _ _) | with_reducible apply onEntry_law
    | with_reducible refine Law.foldl _ _ _ ?_ ?_ | (show (_ : List Part) ⊆ _; exact List.Subset.trans (by decide) hL)
    | (show (_ : List Part) ⊆ _; exact List.Subset.trans (by decide) hL) | (intro _) | split | (dsimp +zetaDelta only [id]))

theorem onCkptCtx_law {L : List Part} {s₀ : State} (r : Nat) (opc : Nat) (s : State) (act : Entry → Nat → State) (h₀ : Law L s₀ s) (h_act : ∀ (y0 : Entry) (y1 : Nat), Law L s₀ (act y0 y1)) (hL : [.host, .hst, .tally, .sent] ⊆ L) :
    Law L s₀ (onCkptCtx r opc s act) := by
  unfold onCkptCtx
  repeat' (first
    | extract_lets | with_reducible exact Law.refl _ _ | with_reducible assumption | with_reducible apply h_act
    | with_reducible apply onCkptRing_law | with_reducible apply Law.step (complete_law _ _ _ _ _)
    | with_reducible refine Law.foldl _ _ _ ?_ ?_ | (show (_ : List Part) ⊆ _; exact List.Subset.trans (by decide) hL)
    | (show (_ : List Part) ⊆ _; exact List.Subset.trans (by decide) hL) | (intro _) | split | (dsimp +zetaDelta only [id]))

theorem onCkptSlot_law {L : List Part} {s₀ : State} (r : Nat) (opc : Nat) (s : State) (act : Entry → Nat → Bool → State) (h₀ : Law L s₀ s) (h_act : ∀ (y0 : Entry) (y1 : Nat) (y2 : Bool), Law L s₀ (act y0 y1 y2)) (hL : [.host, .hst, .tally, .sent] ⊆ L) :
    Law L s₀ (onCkptSlot r opc s act) := by
  unfold onCkptSlot
  repeat' (first
    | extract_lets | with_reducible exact Law.refl _ _ | with_reducible assumption | with_reducible apply h_act
    | with_reducible apply onCkptCtx_law | with_reducible apply Law.step (complete_law _ _ _ _ _)
    | with_reducible refine Law.foldl _ _ _ ?_ ?_ | (show (_ : List Part) ⊆ _; exact List.Subset.trans (by decide) hL)
    | (show (_ : List Part) ⊆ _; exact List.Subset.trans (by decide) hL) | (intro _) | split | (dsimp +zetaDelta only [id]))

theorem execCkptRegister_law (r : RingIx) (s : State) :
    OutLaw [.host, .cores, .hst, .rst, .tally, .log, .ckpt, .sent] s (execCkptRegister r s) := by
  unfold execCkptRegister
  repeat' (first
    | with_reducible refine OutLaw.next ?_ | extract_lets | with_reducible exact Law.refl _ _ | with_reducible assumption
    | with_reducible apply onCkptCtx_law | with_reducible apply Law.step (complete_law _ _ _ _ _)
    | with_reducible apply Law.step (succeed_law _ _ _ _ _) | with_reducible apply Law.step (onCkpt_law _ _)
    | with_reducible refine Law.foldl _ _ _ ?_ ?_ | (show (_ : List Part) ⊆ _; decide) | (show (_ : List Part) ⊆ _; decide) | (intro _)
    | split | (dsimp +zetaDelta only [id]))

theorem execCkptBegin_law (r : RingIx) (s : State) :
    OutLaw [.host, .hst, .tally, .log, .stew, .ckpt, .sent] s (execCkptBegin r s) := by
  unfold execCkptBegin
  repeat' (first
    | with_reducible refine OutLaw.next ?_ | extract_lets | with_reducible exact Law.refl _ _ | with_reducible assumption
    | with_reducible apply onCkptCtx_law | with_reducible apply Law.step (complete_law _ _ _ _ _)
    | with_reducible apply Law.step (startEntry_law _ _ _) | with_reducible apply Law.step (acceptCkpt_law _ _ _ _ _ _)
    | with_reducible refine Law.foldl _ _ _ ?_ ?_ | with_reducible refine Law.elim _ _ _ ?_ ?_ | (show (_ : List Part) ⊆ _; decide)
    | (show (_ : List Part) ⊆ _; decide) | (intro _) | split | (dsimp +zetaDelta only [id]))

theorem execAbort_law (r : RingIx) (s : State) :
    OutLaw [.host, .cores, .ctxs, .hst, .rst, .tally, .log, .stew, .ckpt, .pins, .side, .sent] s (execAbort r s) := by
  unfold execAbort
  repeat' (first
    | with_reducible refine OutLaw.next ?_ | extract_lets | with_reducible exact Law.refl _ _ | with_reducible assumption
    | with_reducible apply onCkptCtx_law | with_reducible apply Law.step (succeed_law _ _ _ _ _)
    | with_reducible apply Law.step (ckptFail_law _ _ _) | with_reducible refine Law.foldl _ _ _ ?_ ?_
    | (show (_ : List Part) ⊆ _; decide) | (show (_ : List Part) ⊆ _; decide) | (intro _) | split | (dsimp +zetaDelta only [id]))

theorem execPeriodicCheckpoint_law (c : Ctx) (s : State) :
    OutLaw [.host, .hst, .tally, .log, .stew, .ckpt, .sent] s (execPeriodicCheckpoint c s) := by
  unfold execPeriodicCheckpoint
  repeat' (first
    | with_reducible refine OutLaw.next ?_ | extract_lets | with_reducible exact Law.refl _ _ | with_reducible assumption
    | with_reducible apply Law.step (trigger_law _ _ _ _ _) | with_reducible refine Law.foldl _ _ _ ?_ ?_
    | (show (_ : List Part) ⊆ _; decide) | (show (_ : List Part) ⊆ _; decide) | (intro _) | split | (dsimp +zetaDelta only [id]))

theorem keepJournal_law (bs : List Byte) (s : State) (c : Nat) :
    Law [.ckpt] s (keepJournal bs s c) := by
  unfold keepJournal
  repeat' (first
    | extract_lets | with_reducible exact Law.refl _ _ | with_reducible assumption | with_reducible apply Law.step (onCkpt_law _ _)
    | with_reducible refine Law.foldl _ _ _ ?_ ?_ | (show (_ : List Part) ⊆ _; decide) | (show (_ : List Part) ⊆ _; decide) | (intro _)
    | split | (dsimp +zetaDelta only [id]))

theorem execJournal_law (r : RingIx) (s : State) :
    OutLaw [.host, .cores, .hst, .rst, .tally, .log, .stew, .ckpt, .sent] s (execJournal r s) := by
  unfold execJournal
  repeat' (first
    | with_reducible refine OutLaw.next ?_ | extract_lets | with_reducible exact Law.refl _ _ | with_reducible assumption
    | with_reducible apply onCkptRing_law | with_reducible apply Law.step (keepJournal_law _ _ _)
    | with_reducible apply Law.step (ctlSend_law _ _ _ _) | with_reducible apply Law.step (complete_law _ _ _ _ _)
    | with_reducible apply Law.step (succeed_law _ _ _ _ _) | with_reducible refine Law.foldl _ _ _ ?_ ?_
    | (show (_ : List Part) ⊆ _; decide) | (show (_ : List Part) ⊆ _; decide) | (intro _) | split | (dsimp +zetaDelta only [id]))

theorem thaw_law (s : State) (x : Nat × Nat) :
    Law [.cores, .ctxs] s (thaw s x) := by
  unfold thaw
  repeat' (first
    | extract_lets | with_reducible exact Law.refl _ _ | with_reducible assumption | with_reducible apply Law.step (startStream_law _ _ _)
    | with_reducible refine Law.foldl _ _ _ ?_ ?_ | (show (_ : List Part) ⊆ _; decide) | (show (_ : List Part) ⊆ _; decide) | (intro _)
    | split | (dsimp +zetaDelta only [id]))

theorem stageChip_law (k : CkptRun) (s : State) :
    Law [.freeCtr, .mem, .host, .cores, .clus, .ddr, .tally, .ckpt] s (stageChip k s) := by
  unfold stageChip
  repeat' (first
    | extract_lets | with_reducible exact Law.refl _ _ | with_reducible assumption | with_reducible apply Law.step (store_law _ _ _)
    | with_reducible refine Law.foldl _ _ _ ?_ ?_ | with_reducible refine Law.elim _ _ _ ?_ ?_ | (show (_ : List Part) ⊆ _; decide)
    | (show (_ : List Part) ⊆ _; decide) | (intro _) | split | with_reducible refine Law.set_freeCtr _ (by decide) ?_
    | (dsimp +zetaDelta only [id]))

theorem execFullFreezeComplete_law (c : Ctx) (us : Nat) (s : State) :
    OutLaw [.freeCtr, .mem, .host, .cores, .clus, .ctxs, .ddr, .rst, .tally, .log, .ckpt] s (execFullFreezeComplete c us s) := by
  unfold execFullFreezeComplete
  repeat' (first
    | with_reducible refine OutLaw.next ?_ | extract_lets | with_reducible exact Law.refl _ _ | with_reducible assumption
    | with_reducible apply Law.step (thaw_law _ _) | with_reducible apply Law.step (stageChip_law _ _)
    | with_reducible apply Law.step (gateTokens_law _ _ _) | with_reducible apply Law.step (cutTaken_law _ _ _ _)
    | with_reducible refine Law.foldl _ _ _ ?_ ?_ | (show (_ : List Part) ⊆ _; decide) | (show (_ : List Part) ⊆ _; decide) | (intro _)
    | split | (dsimp +zetaDelta only [id]))

theorem makeRoom_law (n : Nat) (l : List (Nat × Bool)) (s : State) : Law [.tally, .log, .stew, .ckpt, .sent] s (makeRoom n l s) := by
  induction l generalizing s with
  | nil => exact Law.refl _ s
  | cons x t ih =>
    unfold makeRoom
    split
    · exact Law.refl _ s
    · exact Law.trans (Law.step (reclaim_law _ _ s) (by decide) (Law.refl _ s)) (ih _)

theorem putRun_law (c : Nat) (k : CkptRun) (s : State) :
    Law [.host, .cores, .ctxs, .hst, .tally, .log, .stew, .ckpt, .pins, .side, .sent] s (putRun c k s) := by
  unfold putRun
  repeat' (first
    | extract_lets | with_reducible exact Law.refl _ _ | with_reducible assumption | with_reducible apply Law.step (makeRoom_law _ _ _)
    | with_reducible apply Law.step (onCkpt_law _ _) | with_reducible apply Law.step (setSlot_law _ _ _ _)
    | with_reducible apply Law.step (ckptFail_law _ _ _) | with_reducible apply Law.step (countHub_law _ _ _ _)
    | with_reducible refine Law.foldl _ _ _ ?_ ?_ | (show (_ : List Part) ⊆ _; decide) | (show (_ : List Part) ⊆ _; decide) | (intro _)
    | split | (dsimp +zetaDelta only [id]))

theorem execGranuleCopy_law (c : Ctx) (s : State) :
    OutLaw [.freeCtr, .host, .cores, .ctxs, .hst, .tally, .log, .stew, .ckpt, .pins, .side, .sent] s (execGranuleCopy c s) := by
  unfold execGranuleCopy
  dsimp only [drawFree]
  repeat' (first
    | with_reducible refine OutLaw.next ?_ | extract_lets | with_reducible exact Law.refl _ _ | with_reducible assumption
    | with_reducible apply Law.step (putRun_law _ _ _) | with_reducible apply Law.step (onCkpt_law _ _)
    | with_reducible refine Law.foldl _ _ _ ?_ ?_ | (show (_ : List Part) ⊆ _; decide) | (show (_ : List Part) ⊆ _; decide) | (intro _)
    | split | with_reducible refine Law.set_freeCtr _ (by decide) ?_ | (dsimp +zetaDelta only [id]))

theorem execCopyAheadRelease_law (c : Ctx) (s : State) :
    OutLaw [.freeCtr, .host, .cores, .ctxs, .hst, .tally, .log, .stew, .ckpt, .pins, .side, .sent] s (execCopyAheadRelease c s) := by
  unfold execCopyAheadRelease
  dsimp only [drawFree]
  repeat' (first
    | with_reducible refine OutLaw.next ?_ | extract_lets | with_reducible exact Law.refl _ _ | with_reducible assumption
    | with_reducible apply Law.step (putRun_law _ _ _) | with_reducible refine Law.foldl _ _ _ ?_ ?_ | (show (_ : List Part) ⊆ _; decide)
    | (show (_ : List Part) ⊆ _; decide) | (intro _) | split | with_reducible refine Law.set_freeCtr _ (by decide) ?_
    | (dsimp +zetaDelta only [id]))

theorem commitSlot_law (c : Nat) (k : CkptRun) (s : State) :
    Law [.ckpt] s (commitSlot c k s) := by
  unfold commitSlot
  repeat' (first
    | extract_lets | with_reducible exact Law.refl _ _ | with_reducible assumption | with_reducible apply Law.step (onCkpt_law _ _)
    | with_reducible apply Law.step (setSlot_law _ _ _ _) | with_reducible refine Law.foldl _ _ _ ?_ ?_
    | with_reducible refine Law.elim _ _ _ ?_ ?_ | (show (_ : List Part) ⊆ _; decide) | (show (_ : List Part) ⊆ _; decide) | (intro _)
    | split | (dsimp +zetaDelta only [id]))

theorem execLocatorWriteComplete_law (c : Ctx) (ms : Nat) (s : State) :
    OutLaw [.host, .cores, .hst, .rst, .tally, .log, .stew, .ckpt, .pins, .side, .sent] s (execLocatorWriteComplete c ms s) := by
  unfold execLocatorWriteComplete
  repeat' (first
    | with_reducible refine OutLaw.next ?_ | extract_lets | with_reducible exact Law.refl _ _ | with_reducible assumption
    | with_reducible apply Law.step (commitSlot_law _ _ _) | with_reducible apply Law.step (postEvent_law _ _ _ _ _ _ _ _)
    | with_reducible apply Law.step (endBy_law _ _ _ _ _ _) | with_reducible apply Law.step (removeCheck_law _)
    | with_reducible apply Law.step (ckptReport_law _ _ _ _ _ _) | with_reducible apply Law.step (logRec_law _ _ _ _ _ _ _)
    | with_reducible refine Law.foldl _ _ _ ?_ ?_ | (show (_ : List Part) ⊆ _; decide) | (show (_ : List Part) ⊆ _; decide) | (intro _)
    | split | (dsimp +zetaDelta only [id]))

theorem execDrain_law (r : RingIx) (s : State) :
    OutLaw [.host, .hst, .tally, .ckpt, .sent] s (execDrain r s) := by
  unfold execDrain
  repeat' (first
    | with_reducible refine OutLaw.next ?_ | extract_lets | with_reducible exact Law.refl _ _ | with_reducible assumption
    | with_reducible apply onCkptSlot_law | with_reducible apply Law.step (complete_law _ _ _ _ _)
    | with_reducible apply Law.step (setSlot_law _ _ _ _) | with_reducible apply Law.step (startEntry_law _ _ _)
    | with_reducible refine Law.foldl _ _ _ ?_ ?_ | (show (_ : List Part) ⊆ _; decide) | (show (_ : List Part) ⊆ _; decide) | (intro _)
    | split | (dsimp +zetaDelta only [id]))

theorem endDrainer_law (k : Slot_) (status : Nat) (res : List Byte) (s : State) :
    Law [.host, .cores, .hst, .rst, .tally, .log, .sent] s (endDrainer k status res s) := by
  unfold endDrainer
  repeat' (first
    | extract_lets | with_reducible exact Law.refl _ _ | with_reducible assumption | with_reducible apply Law.step (endBy_law _ _ _ _ _ _)
    | with_reducible refine Law.foldl _ _ _ ?_ ?_ | (show (_ : List Part) ⊆ _; decide) | (show (_ : List Part) ⊆ _; decide) | (intro _)
    | split | (dsimp +zetaDelta only [id]))

theorem execDrainComplete_law (c : Ctx) (slotB : Bool) (ms : Nat) (s : State) :
    OutLaw [.host, .cores, .hst, .rst, .tally, .log, .stew, .ckpt, .pins, .side, .sent] s (execDrainComplete c slotB ms s) := by
  unfold execDrainComplete
  repeat' (first
    | with_reducible refine OutLaw.next ?_ | extract_lets | with_reducible exact Law.refl _ _ | with_reducible assumption
    | with_reducible apply Law.step (endDrainer_law _ _ _ _) | with_reducible apply Law.step (postEvent_law _ _ _ _ _ _ _ _)
    | with_reducible apply Law.step (removeCheck_law _) | with_reducible apply Law.step (onCkpt_law _ _)
    | with_reducible apply Law.step (setSlot_law _ _ _ _) | with_reducible apply Law.step (ckptReport_law _ _ _ _ _ _)
    | with_reducible apply Law.step (logRec_law _ _ _ _ _ _ _) | with_reducible refine Law.foldl _ _ _ ?_ ?_
    | (show (_ : List Part) ⊆ _; decide) | (show (_ : List Part) ⊆ _; decide) | (intro _) | split | (dsimp +zetaDelta only [id]))

theorem drainFail_law (c : Nat) (b : Bool) (cause : Nat) (nvme : Nat) (s : State) :
    Law [.host, .cores, .hst, .rst, .tally, .log, .ckpt, .pins, .side, .sent] s (drainFail c b cause nvme s) := by
  unfold drainFail
  repeat' (first
    | extract_lets | with_reducible exact Law.refl _ _ | with_reducible assumption
    | with_reducible apply Law.step (endDrainer_law _ _ _ _) | with_reducible apply Law.step (removeCheck_law _)
    | with_reducible apply Law.step (setSlot_law _ _ _ _) | with_reducible apply Law.step (logRec_law _ _ _ _ _ _ _)
    | with_reducible refine Law.foldl _ _ _ ?_ ?_ | (show (_ : List Part) ⊆ _; decide) | (show (_ : List Part) ⊆ _; decide) | (intro _)
    | split | (dsimp +zetaDelta only [id]))

theorem execDrainFail_law (c : Ctx) (slotB : Bool) (cause : Nat) (nvme : Word) (s : State) :
    OutLaw [.host, .cores, .hst, .rst, .tally, .log, .ckpt, .pins, .side, .sent] s (execDrainFail c slotB cause nvme s) := by
  unfold execDrainFail
  repeat' (first
    | with_reducible refine OutLaw.next ?_ | extract_lets | with_reducible exact Law.refl _ _ | with_reducible assumption
    | with_reducible apply Law.step (drainFail_law _ _ _ _ _) | with_reducible refine Law.foldl _ _ _ ?_ ?_
    | (show (_ : List Part) ⊆ _; decide) | (show (_ : List Part) ⊆ _; decide) | (intro _) | split | (dsimp +zetaDelta only [id]))

theorem execInvalidate_law (r : RingIx) (s : State) :
    OutLaw [.host, .cores, .hst, .rst, .tally, .log, .ckpt, .sent] s (execInvalidate r s) := by
  unfold execInvalidate
  repeat' (first
    | with_reducible refine OutLaw.next ?_ | extract_lets | with_reducible exact Law.refl _ _ | with_reducible assumption
    | with_reducible apply onCkptSlot_law | with_reducible apply Law.step (complete_law _ _ _ _ _)
    | with_reducible apply Law.step (succeed_law _ _ _ _ _) | with_reducible apply Law.step (setSlot_law _ _ _ _)
    | with_reducible refine Law.foldl _ _ _ ?_ ?_ | (show (_ : List Part) ⊆ _; decide) | (show (_ : List Part) ⊆ _; decide) | (intro _)
    | split | (dsimp +zetaDelta only [id]))

theorem execTarget_law (r : RingIx) (s : State) :
    OutLaw [.freeCtr, .mem, .host, .cores, .clus, .ctxs, .ddr, .hst, .idb, .rst, .tally, .log, .fab, .link, .stew, .ckpt, .boot, .pins, .side, .sent] s (execTarget r s) := by
  unfold execTarget
  repeat' (first
    | with_reducible refine OutLaw.next ?_ | extract_lets | with_reducible exact Law.refl _ _ | with_reducible assumption
    | with_reducible apply withTable_law | with_reducible apply onCkptRing_law
    | with_reducible apply Law.step (completeBy_law _ _ _ _ _ _) | with_reducible apply Law.step (onCkpt_law _ _)
    | with_reducible apply Law.step (startEntry_law _ _ _) | with_reducible refine Law.foldl _ _ _ ?_ ?_
    | (show (_ : List Part) ⊆ _; decide) | (show (_ : List Part) ⊆ _; decide) | (intro _) | split | (dsimp +zetaDelta only [id]))

theorem execTargetConnected_law (r : RingIx) (s : State) :
    OutLaw [.host, .cores, .hst, .rst, .tally, .log, .ckpt, .sent] s (execTargetConnected r s) := by
  unfold execTargetConnected
  repeat' (first
    | with_reducible refine OutLaw.next ?_ | extract_lets | with_reducible exact Law.refl _ _ | with_reducible assumption
    | with_reducible apply Law.step (endBy_law _ _ _ _ _ _) | with_reducible apply Law.step (onCkpt_law _ _)
    | with_reducible refine Law.foldl _ _ _ ?_ ?_ | (show (_ : List Part) ⊆ _; decide) | (show (_ : List Part) ⊆ _; decide) | (intro _)
    | split | (dsimp +zetaDelta only [id]))

theorem beginRestore_law (r : Nat) (c : Nat) (e : Entry) (map : List (Nat × Nat)) (s : State) :
    Law [.hst, .ckpt] s (beginRestore r c e map s) := by
  unfold beginRestore
  repeat' (first
    | extract_lets | with_reducible exact Law.refl _ _ | with_reducible assumption | with_reducible apply Law.step (onCkpt_law _ _)
    | with_reducible apply Law.step (setSlot_law _ _ _ _) | with_reducible apply Law.step (startEntry_law _ _ _)
    | with_reducible refine Law.foldl _ _ _ ?_ ?_ | (show (_ : List Part) ⊆ _; decide) | (show (_ : List Part) ⊆ _; decide) | (intro _)
    | split | (dsimp +zetaDelta only [id]))

theorem execRestore_law (r : RingIx) (s : State) :
    OutLaw [.freeCtr, .mem, .host, .cores, .clus, .ctxs, .ddr, .hst, .idb, .rst, .tally, .log, .fab, .link, .stew, .ckpt, .boot, .pins, .side, .sent] s (execRestore r s) := by
  unfold execRestore
  repeat' (first
    | with_reducible refine OutLaw.next ?_ | extract_lets | with_reducible exact Law.refl _ _ | with_reducible assumption
    | with_reducible apply withTable_law | with_reducible apply onCkptCtx_law | with_reducible apply Law.step (beginRestore_law _ _ _ _ _)
    | with_reducible apply Law.step (complete_law _ _ _ _ _) | with_reducible refine Law.foldl _ _ _ ?_ ?_
    | (show (_ : List Part) ⊆ _; decide) | (show (_ : List Part) ⊆ _; decide) | (intro _) | split | (dsimp +zetaDelta only [id]))

theorem writeGranule_law (a len : Nat) (y : Granule) (cells : List (Nat × Byte)) (s : State) : Law [.freeCtr, .mem, .host, .ddr, .tally, .log, .ckpt] s (writeGranule a len y cells s) := by
  unfold writeGranule
  extract_lets s1 m2 s2
  have h2 : Law [.freeCtr, .mem, .host, .ddr, .tally, .log, .ckpt] s s2 := by
    refine Law.step (gatherRange_law _ _ _) (by decide) (Law.set_mem _ (by decide) (by decide) (fun w => ?_)
      (Law.step (copyAhead_law _ _ _) (by decide) (Law.refl _ s)))
    have := Memory.wf_writes cells (fun c => decide (c.1 < len)) (fun c => a + c.1) _ (Memory.wf_zero a len w)
    simpa using this
  clear_value s2
  have hf : ∀ (why : Nat) (s3 : State), Law [.freeCtr, .mem, .host, .ddr, .tally, .log, .ckpt] s s3 → Law [.freeCtr, .mem, .host, .ddr, .tally, .log, .ckpt] s (y.poison.foldl (fun s u => poisonUnit (a / 256 + u) why s) s3) :=
    fun why s3 h => Law.foldl _ _ _ h fun z u hz => Law.step (poisonUnit_law _ _ _) (by decide) hz
  by_cases hp : y.poison.isEmpty = true
  · simp only [hp, if_true]
    exact hf _ _ h2
  · simp only [hp, drawFree]
    exact hf _ _ (Law.set_freeCtr _ (by decide) h2)

theorem restoreCore_law (x : ChipCore) (g : Nat) (s : State) : Law [.mem, .host, .cores] s (restoreCore x g s) := by
  unfold restoreCore
  refine Law.step (updCore_law _ _ _) (by decide) ?_
  refine Law.set_mem _ (by decide) (by decide) (fun w => ?_) (Law.refl _ s)
  have := Memory.wf_writes x.sram (fun c => decide (c.1 < 16777216)) (fun c => sramKey g c.1) _ (Memory.wf_zero (sramKey g 0) 16777216 w)
  simpa using this

theorem restoreWin_law (s : State) (x : ChipWin) : Law [.mem, .host, .clus] s (restoreWin s x) := by
  unfold restoreWin
  refine Law.step (updClu_law _ _ _) (by decide) ?_
  refine Law.set_mem _ (by decide) (by decide) (fun w => ?_) (Law.refl _ s)
  have := Memory.wf_writes x.cells (fun c => decide (c.1 < x.size * 65536)) (fun c => cisternKey x.code (x.base * 65536) + c.1) _
    (Memory.wf_zero (cisternKey x.code (x.base * 65536)) (x.size * 65536) w)
  simpa using this

theorem restoreCal_law (s : State) (x : ChipEngine) :
    Law [.cores] s (restoreCal s x) := by
  unfold restoreCal
  repeat' (first
    | extract_lets | with_reducible exact Law.refl _ _ | with_reducible assumption | with_reducible apply Law.step (updOte_law _ _ _ _)
    | with_reducible refine Law.foldl _ _ _ ?_ ?_ | (show (_ : List Part) ⊆ _; decide) | (show (_ : List Part) ⊆ _; decide) | (intro _)
    | split | (dsimp +zetaDelta only [id]))

theorem restoreChip_law (c : Nat) (img : Image) (k : OnChip) (s : State) :
    Law [.mem, .host, .cores, .clus] s (restoreChip c img k s) := by
  unfold restoreChip
  repeat' (first
    | extract_lets | with_reducible exact Law.refl _ _ | with_reducible assumption | with_reducible apply Law.step (restoreCore_law _ _ _)
    | with_reducible apply Law.step (restoreWin_law _ _) | with_reducible apply Law.step (restoreCal_law _ _)
    | with_reducible refine Law.foldl _ _ _ ?_ ?_ | (show (_ : List Part) ⊆ _; decide) | (show (_ : List Part) ⊆ _; decide) | (intro _)
    | split | (dsimp +zetaDelta only [id]))

theorem restoreStart_law (c : Nat) (k : OnChip) (s : State) :
    Law [.cores, .ctxs] s (restoreStart c k s) := by
  unfold restoreStart
  repeat' (first
    | extract_lets | with_reducible exact Law.refl _ _ | with_reducible assumption | with_reducible apply Law.step (startStream_law _ _ _)
    | with_reducible refine Law.foldl _ _ _ ?_ ?_ | (show (_ : List Part) ⊆ _; decide) | (show (_ : List Part) ⊆ _; decide) | (intro _)
    | split | (dsimp +zetaDelta only [id]))

theorem restoreJob_law (c : Nat) (img : Image) (s : State) :
    Law [.ctxs] s (restoreJob c img s) := by
  unfold restoreJob
  repeat' (first
    | extract_lets | with_reducible exact Law.refl _ _ | with_reducible assumption | with_reducible apply Law.step (updCtx_law _ _ _)
    | with_reducible refine Law.foldl _ _ _ ?_ ?_ | (show (_ : List Part) ⊆ _; decide) | (show (_ : List Part) ⊆ _; decide) | (intro _)
    | split | (dsimp +zetaDelta only [id]))

theorem endRestore_law (c : Nat) (run : RestoreRun) (img : Image) (status : Nat) (sect : Nat) (gran : Nat) (bytes : Nat) (ms : Nat) (s : State) :
    Law [.host, .cores, .hst, .rst, .tally, .log, .stew, .ckpt, .sent] s (endRestore c run img status sect gran bytes ms s) := by
  unfold endRestore
  repeat' (first
    | extract_lets | with_reducible exact Law.refl _ _ | with_reducible assumption | with_reducible apply Law.step (endBy_law _ _ _ _ _ _)
    | with_reducible apply Law.step (onCkpt_law _ _) | with_reducible apply Law.step (setSlot_law _ _ _ _)
    | with_reducible apply Law.step (ckptReport_law _ _ _ _ _ _) | with_reducible apply Law.step (logRec_law _ _ _ _ _ _ _)
    | with_reducible refine Law.foldl _ _ _ ?_ ?_ | (show (_ : List Part) ⊆ _; decide) | (show (_ : List Part) ⊆ _; decide) | (intro _)
    | split | (dsimp +zetaDelta only [id]))

theorem restoreDdr_law (c : Nat) (run : RestoreRun) (img : Image) (ok : Bool) (sect : Nat) (gran : Nat) (s : State) :
    Law [.freeCtr, .mem, .host, .ctxs, .ddr, .tally, .log, .ckpt] s (restoreDdr c run img ok sect gran s) := by
  unfold restoreDdr
  repeat' (first
    | extract_lets | with_reducible exact Law.refl _ _ | with_reducible assumption
    | with_reducible apply Law.step (writeGranule_law _ _ _ _ _) | with_reducible apply Law.step (restoreJob_law _ _ _)
    | with_reducible refine Law.foldl _ _ _ ?_ ?_ | (show (_ : List Part) ⊆ _; decide) | (show (_ : List Part) ⊆ _; decide) | (intro _)
    | split | (dsimp +zetaDelta only [id]))

theorem finishRestore_law (c : Nat) (run : RestoreRun) (img : Image) (status : Nat) (sect : Nat) (gran : Nat) (ms : Nat) (s : State) :
    Law [.freeCtr, .mem, .host, .cores, .clus, .ctxs, .ddr, .hst, .rst, .tally, .log, .stew, .ckpt, .sent] s (finishRestore c run img status sect gran ms s) := by
  unfold finishRestore
  repeat' (first
    | extract_lets | with_reducible exact Law.refl _ _ | with_reducible assumption
    | with_reducible apply Law.step (restoreChip_law _ _ _ _) | with_reducible apply Law.step (restoreStart_law _ _ _)
    | with_reducible apply Law.step (endRestore_law _ _ _ _ _ _ _ _ _) | with_reducible apply Law.step (restoreDdr_law _ _ _ _ _ _ _)
    | with_reducible apply Law.step (gateTokens_law _ _ _) | with_reducible refine Law.foldl _ _ _ ?_ ?_
    | (show (_ : List Part) ⊆ _; decide) | (show (_ : List Part) ⊆ _; decide) | (intro _) | split | (dsimp +zetaDelta only [id]))

theorem execRestoreComplete_law (c : Ctx) (status : Half16) (sect : Nat) (gran : Nat) (ms : Nat) (img : Option Image) (s : State) :
    OutLaw [.freeCtr, .mem, .host, .cores, .clus, .ctxs, .ddr, .hst, .rst, .tally, .log, .stew, .ckpt, .sent] s (execRestoreComplete c status sect gran ms img s) := by
  unfold execRestoreComplete
  repeat' (first
    | with_reducible refine OutLaw.next ?_ | extract_lets | with_reducible exact Law.refl _ _ | with_reducible assumption
    | with_reducible apply Law.step (finishRestore_law _ _ _ _ _ _ _ _) | with_reducible refine Law.foldl _ _ _ ?_ ?_
    | (show (_ : List Part) ⊆ _; decide) | (show (_ : List Part) ⊆ _; decide) | (intro _) | split | (dsimp +zetaDelta only [id]))

theorem execMiniWriteComplete_law (us : Nat) (s : State) :
    OutLaw [.freeCtr, .tally, .log, .ckpt] s (execMiniWriteComplete us s) := by
  unfold execMiniWriteComplete
  dsimp only [drawFree]
  repeat' (first
    | with_reducible refine OutLaw.next ?_ | extract_lets | with_reducible exact Law.refl _ _ | with_reducible assumption
    | with_reducible apply Law.step (onCkpt_law _ _) | with_reducible apply Law.step (logRec_law _ _ _ _ _ _ _)
    | with_reducible refine Law.foldl _ _ _ ?_ ?_ | (show (_ : List Part) ⊆ _; decide) | (show (_ : List Part) ⊆ _; decide) | (intro _)
    | split | with_reducible refine Law.set_freeCtr _ (by decide) ?_ | (dsimp +zetaDelta only [id]))

end Sys2Proof.Machine
end

