-- ==== Sys2Proof/Laws/Fabric.lean ====
section
/-! SUPPORT. What each operation of Machine/Fabric.lean may touch, one lemma for each, and that it keeps memory in its canonical form. -/

set_option maxRecDepth 4000
set_option linter.all false

namespace Sys2Proof.Machine

theorem pairLit_law (p : Nat) (l : Nat) (s : State) :
    Law [.fab, .sent] s (pairLit p l s) := by
  unfold pairLit
  repeat' (first
    | extract_lets | with_reducible exact Law.refl _ _ | with_reducible assumption | with_reducible apply Law.step (setPair_law _ _ _ _)
    | with_reducible apply Law.step (sendTrain_law _ _ _) | with_reducible refine Law.foldl _ _ _ ?_ ?_
    | (show (_ : List Part) ⊆ _; decide) | (show (_ : List Part) ⊆ _; decide) | (intro _) | split | (dsimp +zetaDelta only [id]))

theorem toRetrain_law (p : Nat) (l : Nat) (cause : Nat) (s : State) :
    Law [.tally, .log, .fab, .sent] s (toRetrain p l cause s) := by
  unfold toRetrain
  repeat' (first
    | extract_lets | with_reducible exact Law.refl _ _ | with_reducible assumption | with_reducible apply Law.step (setPair_law _ _ _ _)
    | with_reducible apply Law.step (logFab_law _ _ _ _ _ _ _ _) | with_reducible apply Law.step (sendTrain_law _ _ _)
    | with_reducible refine Law.foldl _ _ _ ?_ ?_ | (show (_ : List Part) ⊆ _; decide) | (show (_ : List Part) ⊆ _; decide) | (intro _)
    | split | (dsimp +zetaDelta only [id]))

theorem retrainOn_law (p : Nat) (l : Nat) (cause : Nat) (s : State) :
    Law [.tally, .log, .fab, .sent] s (retrainOn p l cause s) := by
  unfold retrainOn
  repeat' (first
    | extract_lets | with_reducible exact Law.refl _ _ | with_reducible assumption | with_reducible apply Law.step (toRetrain_law _ _ _ _)
    | with_reducible apply Law.step (issueLane_law _ _ _ _) | with_reducible refine Law.foldl _ _ _ ?_ ?_
    | (show (_ : List Part) ⊆ _; decide) | (show (_ : List Part) ⊆ _; decide) | (intro _) | split | (dsimp +zetaDelta only [id]))

theorem pairLost_law (p : Nat) (l : Nat) (s : State) :
    Law [.tally, .log, .fab, .sent] s (pairLost p l s) := by
  unfold pairLost
  repeat' (first
    | extract_lets | with_reducible exact Law.refl _ _ | with_reducible assumption | with_reducible apply Law.step (toRetrain_law _ _ _ _)
    | with_reducible apply Law.step (setPair_law _ _ _ _) | with_reducible refine Law.foldl _ _ _ ?_ ?_
    | (show (_ : List Part) ⊆ _; decide) | (show (_ : List Part) ⊆ _; decide) | (intro _) | split | (dsimp +zetaDelta only [id]))

theorem takeBase_law (p : Nat) (code : Nat) (i : Nat) (s : State) :
    Law [.fab] s (takeBase p code i s) := by
  unfold takeBase
  repeat' (first
    | extract_lets | with_reducible exact Law.refl _ _ | with_reducible assumption | with_reducible apply Law.step (updFab_law _ _ _)
    | with_reducible refine Law.foldl _ _ _ ?_ ?_ | (show (_ : List Part) ⊆ _; decide) | (show (_ : List Part) ⊆ _; decide) | (intro _)
    | split | (dsimp +zetaDelta only [id]))

theorem setLane_law (p : Nat) (l : Nat) (rx : Bool) (k : LaneSt) (s : State) :
    Law [.fab] s (setLane p l rx k s) := by
  unfold setLane
  repeat' (first
    | extract_lets | with_reducible exact Law.refl _ _ | with_reducible assumption | with_reducible apply Law.step (setTx_law _ _ _ _)
    | with_reducible apply Law.step (setRx_law _ _ _ _) | with_reducible refine Law.foldl _ _ _ ?_ ?_ | (show (_ : List Part) ⊆ _; decide)
    | (show (_ : List Part) ⊆ _; decide) | (intro _) | split | (dsimp +zetaDelta only [id]))

theorem litLane_law (p : Nat) (l : Nat) (rx : Bool) (s : State) :
    Law [.fab, .sent] s (litLane p l rx s) := by
  unfold litLane
  repeat' (first
    | extract_lets | with_reducible exact Law.refl _ _ | with_reducible assumption | with_reducible apply Law.step (pairLit_law _ _ _)
    | with_reducible apply Law.step (takeBase_law _ _ _ _) | with_reducible apply Law.step (setLane_law _ _ _ _ _)
    | with_reducible apply Law.step (updPair_law _ _ _ _) | with_reducible apply Law.step (sendPhase_law _ _ _ _)
    | with_reducible refine Law.foldl _ _ _ ?_ ?_ | (show (_ : List Part) ⊆ _; decide) | (show (_ : List Part) ⊆ _; decide) | (intro _)
    | split | (dsimp +zetaDelta only [id]))

theorem unlitLane_law (p : Nat) (l : Nat) (rx : Bool) (st : OptState) (s : State) :
    Law [.tally, .log, .fab, .sent] s (unlitLane p l rx st s) := by
  unfold unlitLane
  repeat' (first
    | extract_lets | with_reducible exact Law.refl _ _ | with_reducible assumption | with_reducible apply Law.step (pairLost_law _ _ _)
    | with_reducible apply Law.step (setLane_law _ _ _ _ _) | with_reducible refine Law.foldl _ _ _ ?_ ?_
    | (show (_ : List Part) ⊆ _; decide) | (show (_ : List Part) ⊆ _; decide) | (intro _) | split | (dsimp +zetaDelta only [id]))

theorem failLane_law (p : Nat) (l : Nat) (rx : Bool) (code : Nat) (ps : List Nat) (s : State) :
    Law [.tally, .log, .fab, .stew, .sent] s (failLane p l rx code ps s) := by
  unfold failLane
  repeat' (first
    | extract_lets | with_reducible exact Law.refl _ _ | with_reducible assumption | with_reducible apply Law.step (report_law _ _)
    | with_reducible apply Law.step (unlitLane_law _ _ _ _ _) | with_reducible refine Law.foldl _ _ _ ?_ ?_
    | (show (_ : List Part) ⊆ _; decide) | (show (_ : List Part) ⊆ _; decide) | (intro _) | split | (dsimp +zetaDelta only [id]))

theorem execLaneRetuneComplete_law (p : Plane) (l : Lane) (rx : Bool) (s : State) :
    OutLaw [.fab] s (execLaneRetuneComplete p l rx s) := by
  unfold execLaneRetuneComplete
  repeat' (first
    | with_reducible refine OutLaw.next ?_ | extract_lets | with_reducible exact Law.refl _ _ | with_reducible assumption
    | with_reducible apply Law.step (setLane_law _ _ _ _ _) | with_reducible refine Law.foldl _ _ _ ?_ ?_
    | (show (_ : List Part) ⊆ _; decide) | (show (_ : List Part) ⊆ _; decide) | (intro _) | split | (dsimp +zetaDelta only [id]))

theorem execRxPowerLow_law (p : Plane) (l : Lane) (cdbm : Half16) (s : State) :
    OutLaw [.tally, .log, .stew, .sent] s (execRxPowerLow p l cdbm s) := by
  unfold execRxPowerLow
  repeat' (first
    | with_reducible refine OutLaw.next ?_ | extract_lets | with_reducible exact Law.refl _ _ | with_reducible assumption
    | with_reducible apply Law.step (report_law _ _) | with_reducible apply Law.step (logFab_law _ _ _ _ _ _ _ _)
    | with_reducible refine Law.foldl _ _ _ ?_ ?_ | (show (_ : List Part) ⊆ _; decide) | (show (_ : List Part) ⊆ _; decide) | (intro _)
    | split | (dsimp +zetaDelta only [id]))

theorem setComb_law (p : Nat) (c : Nat) (k : FabComb) (s : State) :
    Law [.fab] s (setComb p c k s) := by
  unfold setComb
  repeat' (first
    | extract_lets | with_reducible exact Law.refl _ _ | with_reducible assumption | with_reducible apply Law.step (updFab_law _ _ _)
    | with_reducible refine Law.foldl _ _ _ ?_ ?_ | (show (_ : List Part) ⊆ _; decide) | (show (_ : List Part) ⊆ _; decide) | (intro _)
    | split | (dsimp +zetaDelta only [id]))

theorem unholdAll_law (p : Nat) (s : State) :
    Law [.fab] s (unholdAll p s) := by
  unfold unholdAll
  repeat' (first
    | extract_lets | with_reducible exact Law.refl _ _ | with_reducible assumption | with_reducible apply Law.step (updPair_law _ _ _ _)
    | with_reducible refine Law.foldl _ _ _ ?_ ?_ | (show (_ : List Part) ⊆ _; decide) | (show (_ : List Part) ⊆ _; decide) | (intro _)
    | split | (dsimp +zetaDelta only [id]))

theorem planeRetire_law (p : Nat) (s : State) :
    Law [.freeCtr, .mem, .host, .cores, .clus, .ctxs, .ddr, .hst, .tally, .log, .fab, .link, .stew, .ckpt, .boot, .pins, .side, .sent] s (planeRetire p s) := by
  unfold planeRetire
  repeat' (first
    | extract_lets | with_reducible exact Law.refl _ _ | with_reducible assumption | with_reducible apply Law.step (report_law _ _)
    | with_reducible apply Law.step (unlitLane_law _ _ _ _ _) | with_reducible apply Law.step (setComb_law _ _ _ _)
    | with_reducible apply Law.step (unholdAll_law _ _) | with_reducible apply Law.step (recheckState_law _)
    | with_reducible apply Law.step (updFab_law _ _ _) | with_reducible apply Law.step (logFab_law _ _ _ _ _ _ _ _)
    | with_reducible refine Law.foldl _ _ _ ?_ ?_ | (show (_ : List Part) ⊆ _; decide) | (show (_ : List Part) ⊆ _; decide) | (intro _)
    | split | (dsimp +zetaDelta only [id]))

theorem setHand_law (p : Nat) (h : Option FabHand) (s : State) :
    Law [.fab] s (setHand p h s) := by
  unfold setHand
  repeat' (first
    | extract_lets | with_reducible exact Law.refl _ _ | with_reducible assumption | with_reducible apply Law.step (updFab_law _ _ _)
    | with_reducible refine Law.foldl _ _ _ ?_ ?_ | (show (_ : List Part) ⊆ _; decide) | (show (_ : List Part) ⊆ _; decide) | (intro _)
    | split | (dsimp +zetaDelta only [id]))

theorem stopLanes_law (p : Nat) (held : Bool) (s : State) :
    Law [.fab] s (stopLanes p held s) := by
  unfold stopLanes
  repeat' (first
    | extract_lets | with_reducible exact Law.refl _ _ | with_reducible assumption | with_reducible apply Law.step (updPair_law _ _ _ _)
    | with_reducible apply Law.step (setTx_law _ _ _ _) | with_reducible refine Law.foldl _ _ _ ?_ ?_ | (show (_ : List Part) ⊆ _; decide)
    | (show (_ : List Part) ⊆ _; decide) | (intro _) | split | (dsimp +zetaDelta only [id]))

theorem enterHand_law (p : Nat) (h : FabHand) (s : State) :
    Law [.fab] s (enterHand p h s) := by
  unfold enterHand
  repeat' (first
    | extract_lets | with_reducible exact Law.refl _ _ | with_reducible assumption | with_reducible apply Law.step (setComb_law _ _ _ _)
    | with_reducible apply Law.step (setHand_law _ _ _) | with_reducible apply Law.step (stopLanes_law _ _ _)
    | with_reducible refine Law.foldl _ _ _ ?_ ?_ | (show (_ : List Part) ⊆ _; decide) | (show (_ : List Part) ⊆ _; decide) | (intro _)
    | split | (dsimp +zetaDelta only [id]))

theorem askScheduled_law (p : Nat) (s : State) :
    Law [.fab] s (askScheduled p s) := by
  unfold askScheduled
  repeat' (first
    | extract_lets | with_reducible exact Law.refl _ _ | with_reducible assumption | with_reducible apply Law.step (setHand_law _ _ _)
    | with_reducible apply Law.step (enterHand_law _ _ _) | with_reducible refine Law.foldl _ _ _ ?_ ?_
    | (show (_ : List Part) ⊆ _; decide) | (show (_ : List Part) ⊆ _; decide) | (intro _) | split | (dsimp +zetaDelta only [id]))

theorem askForced_law (p : Nat) (s : State) :
    Law [.freeCtr, .mem, .host, .cores, .clus, .ctxs, .ddr, .hst, .tally, .log, .fab, .link, .stew, .ckpt, .boot, .pins, .side, .sent] s (askForced p s) := by
  unfold askForced
  repeat' (first
    | extract_lets | with_reducible exact Law.refl _ _ | with_reducible assumption | with_reducible apply Law.step (planeRetire_law _ _)
    | with_reducible apply Law.step (setHand_law _ _ _) | with_reducible apply Law.step (enterHand_law _ _ _)
    | with_reducible refine Law.foldl _ _ _ ?_ ?_ | (show (_ : List Part) ⊆ _; decide) | (show (_ : List Part) ⊆ _; decide) | (intro _)
    | split | (dsimp +zetaDelta only [id]))

theorem nextTurn_law (s : State) :
    Law [.fab] s (nextTurn s) := by
  unfold nextTurn
  repeat' (first
    | extract_lets | with_reducible exact Law.refl _ _ | with_reducible assumption | with_reducible apply Law.step (enterHand_law _ _ _)
    | with_reducible refine Law.foldl _ _ _ ?_ ?_ | (show (_ : List Part) ⊆ _; decide) | (show (_ : List Part) ⊆ _; decide) | (intro _)
    | split | (dsimp +zetaDelta only [id]))

theorem switchEnded_law (s : State) :
    Law [.fab] s (switchEnded s) := by
  unfold switchEnded
  repeat' (first
    | extract_lets | with_reducible exact Law.refl _ _ | with_reducible assumption | with_reducible apply Law.step (setHand_law _ _ _)
    | with_reducible apply Law.step (nextTurn_law _) | with_reducible refine Law.foldl _ _ _ ?_ ?_ | (show (_ : List Part) ⊆ _; decide)
    | (show (_ : List Part) ⊆ _; decide) | (intro _) | split | (dsimp +zetaDelta only [id]))

theorem combThresholds_law (p : Nat) (s : State) :
    Law [.freeCtr, .mem, .host, .cores, .clus, .ctxs, .ddr, .hst, .tally, .log, .fab, .link, .stew, .ckpt, .boot, .pins, .side, .sent] s (combThresholds p s) := by
  unfold combThresholds
  repeat' (first
    | extract_lets | with_reducible exact Law.refl _ _ | with_reducible assumption | with_reducible apply Law.step (setComb_law _ _ _ _)
    | with_reducible apply Law.step (askScheduled_law _ _) | with_reducible apply Law.step (askForced_law _ _)
    | with_reducible apply Law.step (logFab_law _ _ _ _ _ _ _ _) | with_reducible refine Law.foldl _ _ _ ?_ ?_
    | (show (_ : List Part) ⊆ _; decide) | (show (_ : List Part) ⊆ _; decide) | (intro _) | split | (dsimp +zetaDelta only [id]))

theorem locate_law (p : Nat) (cause : Nat) (el : Nat) (i : Nat) (fall : ℤ) (reading : ℤ) (s : State) :
    Law [.tally, .log, .fab] s (locate p cause el i fall reading s) := by
  unfold locate
  repeat' (first
    | extract_lets | with_reducible exact Law.refl _ _ | with_reducible assumption | with_reducible apply Law.step (updFab_law _ _ _)
    | with_reducible apply Law.step (logFab_law _ _ _ _ _ _ _ _) | with_reducible refine Law.foldl _ _ _ ?_ ?_
    | (show (_ : List Part) ⊆ _; decide) | (show (_ : List Part) ⊆ _; decide) | (intro _) | split | (dsimp +zetaDelta only [id]))

theorem stageFail_law (p : Nat) (l : Nat) (rx : Bool) (cause : Nat) (code : Nat) (i : Nat) (s : State) :
    Law [.tally, .log, .fab, .stew, .sent] s (stageFail p l rx cause code i s) := by
  unfold stageFail
  repeat' (first
    | extract_lets | with_reducible exact Law.refl _ _ | with_reducible assumption
    | with_reducible apply Law.step (failLane_law _ _ _ _ _ _) | with_reducible apply Law.step (locate_law _ _ _ _ _ _ _)
    | with_reducible refine Law.foldl _ _ _ ?_ ?_ | (show (_ : List Part) ⊆ _; decide) | (show (_ : List Part) ⊆ _; decide) | (intro _)
    | split | (dsimp +zetaDelta only [id]))

theorem checkTx_law (p : Nat) (l : Nat) (s : State) :
    Law [.tally, .log, .fab, .stew, .sent] s (checkTx p l s) := by
  unfold checkTx
  repeat' (first
    | extract_lets | with_reducible exact Law.refl _ _ | with_reducible assumption
    | with_reducible apply Law.step (stageFail_law _ _ _ _ _ _ _) | with_reducible refine Law.foldl _ _ _ ?_ ?_
    | (show (_ : List Part) ⊆ _; decide) | (show (_ : List Part) ⊆ _; decide) | (intro _) | split | (dsimp +zetaDelta only [id]))

theorem checkRx_law (p : Nat) (l : Nat) (s : State) :
    Law [.tally, .log, .fab, .stew, .sent] s (checkRx p l s) := by
  unfold checkRx
  repeat' (first
    | extract_lets | with_reducible exact Law.refl _ _ | with_reducible assumption
    | with_reducible apply Law.step (stageFail_law _ _ _ _ _ _ _) | with_reducible refine Law.foldl _ _ _ ?_ ?_
    | (show (_ : List Part) ⊆ _; decide) | (show (_ : List Part) ⊆ _; decide) | (intro _) | split | (dsimp +zetaDelta only [id]))

theorem locateTx_law (p : Nat) (s : State) :
    Law [.tally, .log, .fab, .stew, .sent] s (locateTx p s) := by
  unfold locateTx
  repeat' (first
    | extract_lets | with_reducible exact Law.refl _ _ | with_reducible assumption
    | with_reducible apply Law.step (failLane_law _ _ _ _ _ _) | with_reducible apply Law.step (locate_law _ _ _ _ _ _ _)
    | with_reducible apply Law.step (checkTx_law _ _ _) | with_reducible refine Law.foldl _ _ _ ?_ ?_ | (show (_ : List Part) ⊆ _; decide)
    | (show (_ : List Part) ⊆ _; decide) | (intro _) | split | (dsimp +zetaDelta only [id]))

theorem locateRx_law (p : Nat) (s : State) :
    Law [.tally, .log, .fab, .stew, .sent] s (locateRx p s) := by
  unfold locateRx
  repeat' (first
    | extract_lets | with_reducible exact Law.refl _ _ | with_reducible assumption | with_reducible apply Law.step (checkRx_law _ _ _)
    | with_reducible refine Law.foldl _ _ _ ?_ ?_ | (show (_ : List Part) ⊆ _; decide) | (show (_ : List Part) ⊆ _; decide) | (intro _)
    | split | (dsimp +zetaDelta only [id]))

theorem execTapRefresh_law (p : Plane) (reads : List (Fin 6 × Fin 32 × Half16)) (means : List (Fin 2 × Half16)) (s : State) :
    OutLaw [.freeCtr, .mem, .host, .cores, .clus, .ctxs, .ddr, .hst, .tally, .log, .fab, .link, .stew, .ckpt, .boot, .pins, .side, .sent] s (execTapRefresh p reads means s) := by
  unfold execTapRefresh
  repeat' (first
    | with_reducible refine OutLaw.next ?_ | extract_lets | with_reducible exact Law.refl _ _ | with_reducible assumption
    | with_reducible apply Law.step (setComb_law _ _ _ _) | with_reducible apply Law.step (combThresholds_law _ _)
    | with_reducible apply Law.step (locateTx_law _ _) | with_reducible apply Law.step (locateRx_law _ _)
    | with_reducible apply Law.step (updFab_law _ _ _) | with_reducible refine Law.foldl _ _ _ ?_ ?_ | (show (_ : List Part) ⊆ _; decide)
    | (show (_ : List Part) ⊆ _; decide) | (intro _) | split | (dsimp +zetaDelta only [id]))

theorem combGo_law (p : Nat) (s : State) :
    Law [.tally, .log, .fab] s (combGo p s) := by
  unfold combGo
  repeat' (first
    | extract_lets | with_reducible exact Law.refl _ _ | with_reducible assumption | with_reducible apply Law.step (askScheduled_law _ _)
    | with_reducible apply Law.step (logFab_law _ _ _ _ _ _ _ _) | with_reducible refine Law.foldl _ _ _ ?_ ?_
    | (show (_ : List Part) ⊆ _; decide) | (show (_ : List Part) ⊆ _; decide) | (intro _) | split | (dsimp +zetaDelta only [id]))

theorem execFabCombGo_law (p : Plane) (s : State) :
    OutLaw [.tally, .log, .fab] s (execFabCombGo p s) := by
  unfold execFabCombGo
  repeat' (first
    | with_reducible refine OutLaw.next ?_ | extract_lets | with_reducible exact Law.refl _ _ | with_reducible assumption
    | with_reducible apply Law.step (combGo_law _ _) | with_reducible apply Law.step (heldWrite_law _ _ _)
    | with_reducible refine Law.foldl _ _ _ ?_ ?_ | (show (_ : List Part) ⊆ _; decide) | (show (_ : List Part) ⊆ _; decide) | (intro _)
    | split | (dsimp +zetaDelta only [id]))

theorem execFabSpareLocked_law (p : Plane) (s : State) :
    OutLaw [.fab] s (execFabSpareLocked p s) := by
  unfold execFabSpareLocked
  repeat' (first
    | with_reducible refine OutLaw.next ?_ | extract_lets | with_reducible exact Law.refl _ _ | with_reducible assumption
    | with_reducible apply Law.step (setComb_law _ _ _ _) | with_reducible apply Law.step (enterHand_law _ _ _)
    | with_reducible refine Law.foldl _ _ _ ?_ ?_ | (show (_ : List Part) ⊆ _; decide) | (show (_ : List Part) ⊆ _; decide) | (intro _)
    | split | (dsimp +zetaDelta only [id]))

theorem beginDrain_law (p : Nat) (h : FabHand) (s : State) :
    Law [.fab] s (beginDrain p h s) := by
  unfold beginDrain
  repeat' (first
    | extract_lets | with_reducible exact Law.refl _ _ | with_reducible assumption | with_reducible apply Law.step (setHand_law _ _ _)
    | with_reducible apply Law.step (stopLanes_law _ _ _) | with_reducible refine Law.foldl _ _ _ ?_ ?_
    | (show (_ : List Part) ⊆ _; decide) | (show (_ : List Part) ⊆ _; decide) | (intro _) | split | (dsimp +zetaDelta only [id]))

theorem execFabLowTraffic_law (p : Plane) (load : Nat) (s : State) :
    OutLaw [.fab] s (execFabLowTraffic p load s) := by
  unfold execFabLowTraffic
  repeat' (first
    | with_reducible refine OutLaw.next ?_ | extract_lets | with_reducible exact Law.refl _ _ | with_reducible assumption
    | with_reducible apply Law.step (beginDrain_law _ _ _) | with_reducible refine Law.foldl _ _ _ ?_ ?_
    | (show (_ : List Part) ⊆ _; decide) | (show (_ : List Part) ⊆ _; decide) | (intro _) | split | (dsimp +zetaDelta only [id]))

theorem execFabHandoverWindowExpiry_law (p : Plane) (s : State) :
    OutLaw [.fab] s (execFabHandoverWindowExpiry p s) := by
  unfold execFabHandoverWindowExpiry
  repeat' (first
    | with_reducible refine OutLaw.next ?_ | extract_lets | with_reducible exact Law.refl _ _ | with_reducible assumption
    | with_reducible apply Law.step (beginDrain_law _ _ _) | with_reducible refine Law.foldl _ _ _ ?_ ?_
    | (show (_ : List Part) ⊆ _; decide) | (show (_ : List Part) ⊆ _; decide) | (intro _) | split | (dsimp +zetaDelta only [id]))

theorem execFabHandoverDrainDone_law (p : Plane) (s : State) :
    OutLaw [.fab] s (execFabHandoverDrainDone p s) := by
  unfold execFabHandoverDrainDone
  repeat' (first
    | with_reducible refine OutLaw.next ?_ | extract_lets | with_reducible exact Law.refl _ _ | with_reducible assumption
    | with_reducible apply Law.step (setHand_law _ _ _) | with_reducible refine Law.foldl _ _ _ ?_ ?_ | (show (_ : List Part) ⊆ _; decide)
    | (show (_ : List Part) ⊆ _; decide) | (intro _) | split | (dsimp +zetaDelta only [id]))

theorem releaseHeldLanes_law (p : Nat) (s : State) :
    Law [.fab, .sent] s (releaseHeldLanes p s) := by
  unfold releaseHeldLanes
  repeat' (first
    | extract_lets | with_reducible exact Law.refl _ _ | with_reducible assumption | with_reducible apply Law.step (pairLit_law _ _ _)
    | with_reducible apply Law.step (unholdAll_law _ _) | with_reducible apply Law.step (setTx_law _ _ _ _)
    | with_reducible refine Law.foldl _ _ _ ?_ ?_ | (show (_ : List Part) ⊆ _; decide) | (show (_ : List Part) ⊆ _; decide) | (intro _)
    | split | (dsimp +zetaDelta only [id]))

theorem drainTimeout_law (p : Nat) (s : State) :
    Law [.tally, .log, .fab, .sent] s (drainTimeout p s) := by
  unfold drainTimeout
  repeat' (first
    | extract_lets | with_reducible exact Law.refl _ _ | with_reducible assumption | with_reducible apply Law.step (setHand_law _ _ _)
    | with_reducible apply Law.step (releaseHeldLanes_law _ _) | with_reducible apply Law.step (logFab_law _ _ _ _ _ _ _ _)
    | with_reducible refine Law.foldl _ _ _ ?_ ?_ | (show (_ : List Part) ⊆ _; decide) | (show (_ : List Part) ⊆ _; decide) | (intro _)
    | split | (dsimp +zetaDelta only [id]))

theorem switchDone_law (p : Nat) (h : FabHand) (s : State) :
    Law [.fab] s (switchDone p h s) := by
  unfold switchDone
  repeat' (first
    | extract_lets | with_reducible exact Law.refl _ _ | with_reducible assumption | with_reducible apply Law.step (setComb_law _ _ _ _)
    | with_reducible apply Law.step (updFab_law _ _ _) | with_reducible refine Law.foldl _ _ _ ?_ ?_ | (show (_ : List Part) ⊆ _; decide)
    | (show (_ : List Part) ⊆ _; decide) | (intro _) | split | (dsimp +zetaDelta only [id]))

theorem recheckLanes_law (p : Nat) (from_ : List OptState) (s : State) :
    Law [.tally, .log, .fab, .sent] s (recheckLanes p from_ s) := by
  unfold recheckLanes
  repeat' (first
    | extract_lets | with_reducible exact Law.refl _ _ | with_reducible assumption
    | with_reducible apply Law.step (unlitLane_law _ _ _ _ _) | with_reducible apply Law.step (setTx_law _ _ _ _)
    | with_reducible refine Law.foldl _ _ _ ?_ ?_ | (show (_ : List Part) ⊆ _; decide) | (show (_ : List Part) ⊆ _; decide) | (intro _)
    | split | (dsimp +zetaDelta only [id]))

theorem handFailed_law (p : Nat) (s : State) :
    Law [.freeCtr, .mem, .host, .cores, .clus, .ctxs, .ddr, .hst, .tally, .log, .fab, .link, .stew, .ckpt, .boot, .pins, .side, .sent] s (handFailed p s) := by
  unfold handFailed
  repeat' (first
    | extract_lets | with_reducible exact Law.refl _ _ | with_reducible assumption | with_reducible apply Law.step (setComb_law _ _ _ _)
    | with_reducible apply Law.step (unholdAll_law _ _) | with_reducible apply Law.step (planeRetire_law _ _)
    | with_reducible apply Law.step (setHand_law _ _ _) | with_reducible apply Law.step (nextTurn_law _)
    | with_reducible apply Law.step (recheckLanes_law _ _ _) | with_reducible apply Law.step (updFab_law _ _ _)
    | with_reducible apply Law.step (logFab_law _ _ _ _ _ _ _ _) | with_reducible refine Law.foldl _ _ _ ?_ ?_
    | (show (_ : List Part) ⊆ _; decide) | (show (_ : List Part) ⊆ _; decide) | (intro _) | split | (dsimp +zetaDelta only [id]))

theorem handDone_law (p : Nat) (h : FabHand) (stallUs : Nat) (s : State) :
    Law [.tally, .log, .fab, .sent] s (handDone p h stallUs s) := by
  unfold handDone
  repeat' (first
    | extract_lets | with_reducible exact Law.refl _ _ | with_reducible assumption | with_reducible apply Law.step (setComb_law _ _ _ _)
    | with_reducible apply Law.step (unholdAll_law _ _) | with_reducible apply Law.step (setHand_law _ _ _)
    | with_reducible apply Law.step (nextTurn_law _) | with_reducible apply Law.step (recheckLanes_law _ _ _)
    | with_reducible apply Law.step (logFab_law _ _ _ _ _ _ _ _) | with_reducible refine Law.foldl _ _ _ ?_ ?_
    | (show (_ : List Part) ⊆ _; decide) | (show (_ : List Part) ⊆ _; decide) | (intro _) | split | (dsimp +zetaDelta only [id]))

theorem relockDone_law (p : Nat) (ok : Bool) (stallUs : Nat) (s : State) :
    Law [.freeCtr, .mem, .host, .cores, .clus, .ctxs, .ddr, .hst, .tally, .log, .fab, .link, .stew, .ckpt, .boot, .pins, .side, .sent] s (relockDone p ok stallUs s) := by
  unfold relockDone
  repeat' (first
    | extract_lets | with_reducible exact Law.refl _ _ | with_reducible assumption | with_reducible apply Law.step (handFailed_law _ _)
    | with_reducible apply Law.step (handDone_law _ _ _ _) | with_reducible refine Law.foldl _ _ _ ?_ ?_
    | (show (_ : List Part) ⊆ _; decide) | (show (_ : List Part) ⊆ _; decide) | (intro _) | split | (dsimp +zetaDelta only [id]))

theorem execFabHandoverRetry_law (p : Plane) (s : State) :
    OutLaw [.fab] s (execFabHandoverRetry p s) := by
  unfold execFabHandoverRetry
  repeat' (first
    | with_reducible refine OutLaw.next ?_ | extract_lets | with_reducible exact Law.refl _ _ | with_reducible assumption
    | with_reducible apply Law.step (enterHand_law _ _ _) | with_reducible refine Law.foldl _ _ _ ?_ ?_
    | (show (_ : List Part) ⊆ _; decide) | (show (_ : List Part) ⊆ _; decide) | (intro _) | split | (dsimp +zetaDelta only [id]))

theorem execFabCombRelockTimeout_law (p : Plane) (s : State) :
    OutLaw [.freeCtr, .mem, .host, .cores, .clus, .ctxs, .ddr, .hst, .tally, .log, .fab, .link, .stew, .ckpt, .boot, .pins, .side, .sent] s (execFabCombRelockTimeout p s) := by
  unfold execFabCombRelockTimeout
  repeat' (first
    | with_reducible refine OutLaw.next ?_ | extract_lets | with_reducible exact Law.refl _ _ | with_reducible assumption
    | with_reducible apply Law.step (askForced_law _ _) | with_reducible refine Law.foldl _ _ _ ?_ ?_ | (show (_ : List Part) ⊆ _; decide)
    | (show (_ : List Part) ⊆ _; decide) | (intro _) | split | (dsimp +zetaDelta only [id]))

theorem execFabTapSelWrite_law (p : Plane) (v : Word) (s : State) :
    OutLaw [.tally, .log, .fab] s (execFabTapSelWrite p v s) := by
  unfold execFabTapSelWrite
  repeat' (first
    | with_reducible refine OutLaw.next ?_ | extract_lets | with_reducible exact Law.refl _ _ | with_reducible assumption
    | with_reducible apply Law.step (updFab_law _ _ _) | with_reducible apply Law.step (heldWrite_law _ _ _)
    | with_reducible refine Law.foldl _ _ _ ?_ ?_ | (show (_ : List Part) ⊆ _; decide) | (show (_ : List Part) ⊆ _; decide) | (intro _)
    | split | (dsimp +zetaDelta only [id]))

end Sys2Proof.Machine
end

