-- ==== Sys2Proof/Laws/Locks.lean ====
section
/-! SUPPORT. What each operation of Machine/Locks.lean may touch, one lemma for each, and that it keeps memory in its canonical form. -/

set_option maxRecDepth 4000
set_option linter.all false

namespace Sys2Proof.Machine

theorem logEl_law (el : Element) (low : Nat) (last : Nat) (s : State) :
    Law [.tally, .log] s (logEl el low last s) := by
  unfold logEl
  repeat' (first
    | extract_lets | with_reducible exact Law.refl _ _ | with_reducible assumption
    | with_reducible apply Law.step (logFab_law _ _ _ _ _ _ _ _) | with_reducible refine Law.foldl _ _ _ ?_ ?_
    | (show (_ : List Part) ⊆ _; decide) | (show (_ : List Part) ⊆ _; decide) | (intro _) | split | (dsimp +zetaDelta only [id]))

theorem rowLockLost_law (g : Nat) (e : Nat) (row : Nat) (s : State) :
    Law [.cores, .tally, .log] s (rowLockLost g e row s) := by
  unfold rowLockLost
  repeat' (first
    | extract_lets | with_reducible exact Law.refl _ _ | with_reducible assumption | with_reducible apply Law.step (setOte_law _ _ _ _)
    | with_reducible apply Law.step (updOte_law _ _ _ _) | with_reducible apply Law.step (logCore_law _ _ _ _ _ _ _)
    | with_reducible refine Law.foldl _ _ _ ?_ ?_ | (show (_ : List Part) ⊆ _; decide) | (show (_ : List Part) ⊆ _; decide) | (intro _)
    | split | (dsimp +zetaDelta only [id]))

theorem litRowsLost_law (c : Nat) (slot : Nat) (s : State) :
    Law [.cores, .tally, .log] s (litRowsLost c slot s) := by
  unfold litRowsLost
  repeat' (first
    | extract_lets | with_reducible exact Law.refl _ _ | with_reducible assumption | with_reducible apply Law.step (updOte_law _ _ _ _)
    | with_reducible apply Law.step (logCore_law _ _ _ _ _ _ _) | with_reducible refine Law.foldl _ _ _ ?_ ?_
    | (show (_ : List Part) ⊆ _; decide) | (show (_ : List Part) ⊆ _; decide) | (intro _) | split | (dsimp +zetaDelta only [id]))

theorem combLockLost_law (c : Nat) (n : Nat) (s : State) :
    Law [.cores, .clus, .tally, .log] s (combLockLost c n s) := by
  unfold combLockLost
  repeat' (first
    | extract_lets | with_reducible exact Law.refl _ _ | with_reducible assumption | with_reducible apply Law.step (updComb_law _ _ _ _)
    | with_reducible apply Law.step (litRowsLost_law _ _ _) | with_reducible refine Law.foldl _ _ _ ?_ ?_
    | (show (_ : List Part) ⊆ _; decide) | (show (_ : List Part) ⊆ _; decide) | (intro _) | split | (dsimp +zetaDelta only [id]))

theorem execLockLost_law (el : Element) (s : State) :
    OutLaw [.cores, .clus, .tally, .log, .fab, .sent] s (execLockLost el s) := by
  unfold execLockLost
  repeat' (first
    | with_reducible refine OutLaw.next ?_ | extract_lets | with_reducible exact Law.refl _ _ | with_reducible assumption
    | with_reducible apply Law.step (setLane_law _ _ _ _ _) | with_reducible apply Law.step (unlitLane_law _ _ _ _ _)
    | with_reducible apply Law.step (setComb_law _ _ _ _) | with_reducible apply Law.step (logEl_law _ _ _ _)
    | with_reducible apply Law.step (rowLockLost_law _ _ _ _) | with_reducible apply Law.step (combLockLost_law _ _ _)
    | with_reducible refine Law.foldl _ _ _ ?_ ?_ | (show (_ : List Part) ⊆ _; decide) | (show (_ : List Part) ⊆ _; decide) | (intro _)
    | split | (dsimp +zetaDelta only [id]))

theorem execRelockComplete_law (el : Element) (s : State) :
    OutLaw [.clus, .tally, .log, .fab, .sent] s (execRelockComplete el s) := by
  unfold execRelockComplete
  repeat' (first
    | with_reducible refine OutLaw.next ?_ | extract_lets | with_reducible exact Law.refl _ _ | with_reducible assumption
    | with_reducible apply Law.step (updComb_law _ _ _ _) | with_reducible apply Law.step (setLane_law _ _ _ _ _)
    | with_reducible apply Law.step (unlitLane_law _ _ _ _ _) | with_reducible refine Law.foldl _ _ _ ?_ ?_
    | (show (_ : List Part) ⊆ _; decide) | (show (_ : List Part) ⊆ _; decide) | (intro _) | split | (dsimp +zetaDelta only [id]))

theorem rowCalFail_law (g : Nat) (e : Nat) (row : Nat) (s : State) :
    Law [.freeCtr, .mem, .host, .cores, .clus, .ctxs, .ddr, .hst, .idb, .rst, .tally, .log, .fab, .link, .stew, .ckpt, .boot, .pins, .side, .sent] s (rowCalFail g e row s) := by
  unfold rowCalFail
  repeat' (first
    | extract_lets | with_reducible exact Law.refl _ _ | with_reducible assumption | with_reducible apply Law.step (calFail_law _ _ _ _)
    | with_reducible apply Law.step (fenceCore_law _ _ _) | with_reducible apply Law.step (setOte_law _ _ _ _)
    | with_reducible apply Law.step (updOte_law _ _ _ _) | with_reducible apply Law.step (coreFault_law _ _ _)
    | with_reducible apply Law.step (logCore_law _ _ _ _ _ _ _) | with_reducible refine Law.foldl _ _ _ ?_ ?_
    | (show (_ : List Part) ⊆ _; decide) | (show (_ : List Part) ⊆ _; decide) | (intro _) | split | (dsimp +zetaDelta only [id]))

theorem rowPilot_law (g : Nat) (e : Nat) (row : Nat) (res : PilotResult) (s : State) :
    Law [.freeCtr, .mem, .host, .cores, .clus, .ctxs, .ddr, .hst, .idb, .rst, .tally, .log, .fab, .link, .stew, .ckpt, .boot, .pins, .side, .sent] s (rowPilot g e row res s) := by
  unfold rowPilot
  repeat' (first
    | extract_lets | with_reducible exact Law.refl _ _ | with_reducible assumption
    | with_reducible apply Law.step (rowCalFail_law _ _ _ _) | with_reducible apply Law.step (setOte_law _ _ _ _)
    | with_reducible apply Law.step (logCore_law _ _ _ _ _ _ _) | with_reducible refine Law.foldl _ _ _ ?_ ?_
    | (show (_ : List Part) ⊆ _; decide) | (show (_ : List Part) ⊆ _; decide) | (intro _) | split | (dsimp +zetaDelta only [id]))

theorem standbyLost_law (c : Nat) (n : Nat) (s : State) :
    Law [.freeCtr, .mem, .host, .cores, .clus, .ctxs, .ddr, .hst, .idb, .rst, .tally, .log, .fab, .link, .stew, .ckpt, .boot, .pins, .side, .sent] s (standbyLost c n s) := by
  unfold standbyLost
  repeat' (first
    | extract_lets | with_reducible exact Law.refl _ _ | with_reducible assumption | with_reducible apply Law.step (updComb_law _ _ _ _)
    | with_reducible apply Law.step (combSlotLost_law _ _ _) | with_reducible apply Law.step (nextHandover_law _ _)
    | with_reducible apply Law.step (resumeSlot_law _ _ _) | with_reducible apply Law.step (updClu_law _ _ _)
    | with_reducible apply Law.step (logClu_law _ _ _ _ _ _ _) | with_reducible refine Law.foldl _ _ _ ?_ ?_
    | (show (_ : List Part) ⊆ _; decide) | (show (_ : List Part) ⊆ _; decide) | (intro _) | split | (dsimp +zetaDelta only [id]))

theorem combPilot_law (c : Nat) (n : Nat) (res : PilotResult) (s : State) :
    Law [.freeCtr, .mem, .host, .cores, .clus, .ctxs, .ddr, .hst, .idb, .rst, .tally, .log, .fab, .link, .stew, .ckpt, .boot, .pins, .side, .sent] s (combPilot c n res s) := by
  unfold combPilot
  repeat' (first
    | extract_lets | with_reducible exact Law.refl _ _ | with_reducible assumption | with_reducible apply Law.step (updComb_law _ _ _ _)
    | with_reducible apply Law.step (callHandover_law _ _ _ _) | with_reducible apply Law.step (standbyLost_law _ _ _)
    | with_reducible apply Law.step (logClu_law _ _ _ _ _ _ _) | with_reducible refine Law.foldl _ _ _ ?_ ?_
    | (show (_ : List Part) ⊆ _; decide) | (show (_ : List Part) ⊆ _; decide) | (intro _) | split | (dsimp +zetaDelta only [id]))

theorem fabCombPilot_law (p : Nat) (n : Nat) (el : Element) (res : PilotResult) (s : State) :
    Law [.freeCtr, .mem, .host, .cores, .clus, .ctxs, .ddr, .hst, .tally, .log, .fab, .link, .stew, .ckpt, .boot, .pins, .side, .sent] s (fabCombPilot p n el res s) := by
  unfold fabCombPilot
  repeat' (first
    | extract_lets | with_reducible exact Law.refl _ _ | with_reducible assumption | with_reducible apply Law.step (setComb_law _ _ _ _)
    | with_reducible apply Law.step (unholdAll_law _ _) | with_reducible apply Law.step (planeRetire_law _ _)
    | with_reducible apply Law.step (askForced_law _ _) | with_reducible apply Law.step (nextTurn_law _)
    | with_reducible apply Law.step (handFailed_law _ _) | with_reducible apply Law.step (updFab_law _ _ _)
    | with_reducible apply Law.step (logEl_law _ _ _ _) | with_reducible refine Law.foldl _ _ _ ?_ ?_ | (show (_ : List Part) ⊆ _; decide)
    | (show (_ : List Part) ⊆ _; decide) | (intro _) | split | (dsimp +zetaDelta only [id]))

theorem lanePilot_law (p : Nat) (l : Nat) (rx : Bool) (el : Element) (res : PilotResult) (s : State) :
    Law [.freeCtr, .mem, .host, .cores, .clus, .ctxs, .ddr, .hst, .tally, .log, .fab, .link, .stew, .ckpt, .boot, .pins, .side, .sent] s (lanePilot p l rx el res s) := by
  unfold lanePilot
  repeat' (first
    | extract_lets | with_reducible exact Law.refl _ _ | with_reducible assumption | with_reducible apply Law.step (setLane_law _ _ _ _ _)
    | with_reducible apply Law.step (litLane_law _ _ _ _) | with_reducible apply Law.step (failLane_law _ _ _ _ _ _)
    | with_reducible apply Law.step (handFailed_law _ _) | with_reducible apply Law.step (logEl_law _ _ _ _)
    | with_reducible refine Law.foldl _ _ _ ?_ ?_ | (show (_ : List Part) ⊆ _; decide) | (show (_ : List Part) ⊆ _; decide) | (intro _)
    | split | (dsimp +zetaDelta only [id]))

theorem execPilotCheckEnd_law (el : Element) (res : PilotResult) (s : State) :
    OutLaw [.freeCtr, .mem, .host, .cores, .clus, .ctxs, .ddr, .hst, .idb, .rst, .tally, .log, .fab, .link, .stew, .ckpt, .boot, .pins, .side, .sent] s (execPilotCheckEnd el res s) := by
  unfold execPilotCheckEnd
  repeat' (first
    | with_reducible refine OutLaw.next ?_ | extract_lets | with_reducible exact Law.refl _ _ | with_reducible assumption
    | with_reducible apply Law.step (rowPilot_law _ _ _ _ _) | with_reducible apply Law.step (combPilot_law _ _ _ _)
    | with_reducible apply Law.step (fabCombPilot_law _ _ _ _ _) | with_reducible apply Law.step (lanePilot_law _ _ _ _ _ _)
    | with_reducible refine Law.foldl _ _ _ ?_ ?_ | (show (_ : List Part) ⊆ _; decide) | (show (_ : List Part) ⊆ _; decide) | (intro _)
    | split | (dsimp +zetaDelta only [id]))

end Sys2Proof.Machine
end

