-- ==== Sys2Proof/Laws/Plan.lean ====
section
/-! SUPPORT. What each operation of Machine/Plan.lean may touch, one lemma for each, and that it keeps memory in its canonical form. -/

set_option maxRecDepth 4000
set_option linter.all false

namespace Sys2Proof.Machine

theorem onSteer_law (f : SteerSt → SteerSt) (s : State) :
    Law [.steer] s (onSteer f s) := by
  unfold onSteer
  repeat' (first
    | extract_lets | with_reducible exact Law.refl _ _ | with_reducible assumption | with_reducible refine Law.foldl _ _ _ ?_ ?_
    | (show (_ : List Part) ⊆ _; decide) | (show (_ : List Part) ⊆ _; decide) | (intro _) | split
    | with_reducible refine Law.set_steer _ (by decide) ?_ | (dsimp +zetaDelta only [id]))

theorem onStew_law (f : StewSt → StewSt) (s : State) :
    Law [.stew] s (onStew f s) := by
  unfold onStew
  repeat' (first
    | extract_lets | with_reducible exact Law.refl _ _ | with_reducible assumption | with_reducible refine Law.foldl _ _ _ ?_ ?_
    | (show (_ : List Part) ⊆ _; decide) | (show (_ : List Part) ⊆ _; decide) | (intro _) | split
    | with_reducible refine Law.set_stew _ (by decide) ?_ | (dsimp +zetaDelta only [id]))

end Sys2Proof.Machine
end

