-- ==== Sys2Proof/Laws/Link.lean ====
section
/-! SUPPORT. What each operation of Machine/Link.lean may touch, one lemma for each, and that it keeps memory in its canonical form. -/

set_option maxRecDepth 4000
set_option linter.all false

namespace Sys2Proof.Machine

theorem endRemote_law (o : SegOut) (cause : Nat) (s : State) :
    Law [.tally, .log, .link] s (endRemote o cause s) := by
  unfold endRemote
  repeat' (first
    | extract_lets | with_reducible exact Law.refl _ _ | with_reducible assumption
    | with_reducible apply Law.step (logFab_law _ _ _ _ _ _ _ _) | with_reducible apply Law.step (xferFail_law _ _ _ _)
    | with_reducible refine Law.foldl _ _ _ ?_ ?_ | (show (_ : List Part) ⊆ _; decide) | (show (_ : List Part) ⊆ _; decide) | (intro _)
    | split | with_reducible refine Law.set_link _ (by decide) ?_ | (dsimp +zetaDelta only [id]))

theorem moveSeg_law (o : SegOut) (s : State) :
    Law [.tally, .log, .fab, .link] s (moveSeg o s) := by
  unfold moveSeg
  repeat' (first
    | extract_lets | with_reducible exact Law.refl _ _ | with_reducible assumption | with_reducible apply Law.step (endRemote_law _ _ _)
    | with_reducible apply Law.step (enqueue_law _ _ _ _) | with_reducible refine Law.foldl _ _ _ ?_ ?_
    | (show (_ : List Part) ⊆ _; decide) | (show (_ : List Part) ⊆ _; decide) | (intro _) | split
    | with_reducible refine Law.set_link _ (by decide) ?_ | (dsimp +zetaDelta only [id]))

theorem pairGone_law (p : Nat) (l : Nat) (s : State) :
    Law [.tally, .log, .fab, .link] s (pairGone p l s) := by
  unfold pairGone
  repeat' (first
    | extract_lets | with_reducible exact Law.refl _ _ | with_reducible assumption | with_reducible apply Law.step (moveSeg_law _ _)
    | with_reducible refine Law.foldl _ _ _ ?_ ?_ | (show (_ : List Part) ⊆ _; decide) | (show (_ : List Part) ⊆ _; decide) | (intro _)
    | split | (dsimp +zetaDelta only [id]))

theorem edDrop_law (p : Nat) (l : Nat) (n : Nat) (e : Half16) (s : State) :
    Law [.tally, .log, .fab] s (edDrop p l n e s) := by
  unfold edDrop
  repeat' (first
    | extract_lets | with_reducible exact Law.refl _ _ | with_reducible assumption | with_reducible apply Law.step (setPair_law _ _ _ _)
    | with_reducible apply Law.step (logFab_law _ _ _ _ _ _ _ _) | with_reducible apply Law.step (countAt_law _ _ _ _ _ _ _)
    | with_reducible apply Law.step (rateMark_law _ _) | with_reducible refine Law.foldl _ _ _ ?_ ?_ | (show (_ : List Part) ⊆ _; decide)
    | (show (_ : List Part) ⊆ _; decide) | (intro _) | split | (dsimp +zetaDelta only [id]))

theorem pairClear_law (p : Nat) (l : Nat) (s : State) :
    Law [.tally, .log, .fab] s (pairClear p l s) := by
  unfold pairClear
  repeat' (first
    | extract_lets | with_reducible exact Law.refl _ _ | with_reducible assumption | with_reducible apply Law.step (edDrop_law _ _ _ _ _)
    | with_reducible apply Law.step (setPair_law _ _ _ _) | with_reducible refine Law.foldl _ _ _ ?_ ?_
    | (show (_ : List Part) ⊆ _; decide) | (show (_ : List Part) ⊆ _; decide) | (intro _) | split | (dsimp +zetaDelta only [id]))

theorem pairOff_law (p : Nat) (l : Nat) (s : State) :
    Law [.tally, .log, .fab, .link] s (pairOff p l s) := by
  unfold pairOff
  repeat' (first
    | extract_lets | with_reducible exact Law.refl _ _ | with_reducible assumption | with_reducible apply Law.step (pairGone_law _ _ _)
    | with_reducible apply Law.step (pairClear_law _ _ _) | with_reducible refine Law.foldl _ _ _ ?_ ?_
    | (show (_ : List Part) ⊆ _; decide) | (show (_ : List Part) ⊆ _; decide) | (intro _) | split | (dsimp +zetaDelta only [id]))

theorem trainFail_law (p : Nat) (l : Nat) (cause : Nat) (s : State) :
    Law [.tally, .log, .fab, .link, .stew, .sent] s (trainFail p l cause s) := by
  unfold trainFail
  repeat' (first
    | extract_lets | with_reducible exact Law.refl _ _ | with_reducible assumption | with_reducible apply Law.step (report_law _ _)
    | with_reducible apply Law.step (pairGone_law _ _ _) | with_reducible apply Law.step (setPair_law _ _ _ _)
    | with_reducible apply Law.step (updPair_law _ _ _ _) | with_reducible apply Law.step (logFab_law _ _ _ _ _ _ _ _)
    | with_reducible apply Law.step (sendTrain_law _ _ _) | with_reducible refine Law.foldl _ _ _ ?_ ?_
    | (show (_ : List Part) ⊆ _; decide) | (show (_ : List Part) ⊆ _; decide) | (intro _) | split | (dsimp +zetaDelta only [id]))

theorem trainDone_law (p : Nat) (l : Nat) (us : Nat) (peerFrom : Half16) (peerCode : Nat) (s : State) :
    Law [.tally, .log, .fab] s (trainDone p l us peerFrom peerCode s) := by
  unfold trainDone
  repeat' (first
    | extract_lets | with_reducible exact Law.refl _ _ | with_reducible assumption | with_reducible apply Law.step (setPair_law _ _ _ _)
    | with_reducible apply Law.step (logFab_law _ _ _ _ _ _ _ _) | with_reducible refine Law.foldl _ _ _ ?_ ?_
    | (show (_ : List Part) ⊆ _; decide) | (show (_ : List Part) ⊆ _; decide) | (intro _) | split | (dsimp +zetaDelta only [id]))

theorem toPhase_law (p : Nat) (l : Nat) (n : Nat) (s : State) :
    Law [.fab, .sent] s (toPhase p l n s) := by
  unfold toPhase
  repeat' (first
    | extract_lets | with_reducible exact Law.refl _ _ | with_reducible assumption | with_reducible apply Law.step (updPair_law _ _ _ _)
    | with_reducible apply Law.step (sendTrain_law _ _ _) | with_reducible refine Law.foldl _ _ _ ?_ ?_
    | (show (_ : List Part) ⊆ _; decide) | (show (_ : List Part) ⊆ _; decide) | (intro _) | split | (dsimp +zetaDelta only [id]))

theorem execTrainingPhaseComplete_law (p : Plane) (l : Lane) (f : TrainFrame) (ber : Word) (us : Nat) (s : State) :
    OutLaw [.tally, .log, .fab, .link, .stew, .sent] s (execTrainingPhaseComplete p l f ber us s) := by
  unfold execTrainingPhaseComplete
  repeat' (first
    | with_reducible refine OutLaw.next ?_ | extract_lets | with_reducible exact Law.refl _ _ | with_reducible assumption
    | with_reducible apply Law.step (trainFail_law _ _ _ _) | with_reducible apply Law.step (trainDone_law _ _ _ _ _ _)
    | with_reducible apply Law.step (toPhase_law _ _ _ _) | with_reducible apply Law.step (setPair_law _ _ _ _)
    | with_reducible refine Law.foldl _ _ _ ?_ ?_ | (show (_ : List Part) ⊆ _; decide) | (show (_ : List Part) ⊆ _; decide) | (intro _)
    | split | (dsimp +zetaDelta only [id]))

theorem execTrainingPhaseTimeout_law (p : Plane) (l : Lane) (cause : Nat) (s : State) :
    OutLaw [.tally, .log, .fab, .link, .stew, .sent] s (execTrainingPhaseTimeout p l cause s) := by
  unfold execTrainingPhaseTimeout
  repeat' (first
    | with_reducible refine OutLaw.next ?_ | extract_lets | with_reducible exact Law.refl _ _ | with_reducible assumption
    | with_reducible apply Law.step (trainFail_law _ _ _ _) | with_reducible refine Law.foldl _ _ _ ?_ ?_
    | (show (_ : List Part) ⊆ _; decide) | (show (_ : List Part) ⊆ _; decide) | (intro _) | split | (dsimp +zetaDelta only [id]))

theorem execCodeSwitch_law (p : Plane) (l : Lane) (s : State) :
    OutLaw [.fab] s (execCodeSwitch p l s) := by
  unfold execCodeSwitch
  repeat' (first
    | with_reducible refine OutLaw.next ?_ | extract_lets | with_reducible exact Law.refl _ _ | with_reducible assumption
    | with_reducible apply Law.step (setPair_law _ _ _ _) | with_reducible refine Law.foldl _ _ _ ?_ ?_
    | (show (_ : List Part) ⊆ _; decide) | (show (_ : List Part) ⊆ _; decide) | (intro _) | split | (dsimp +zetaDelta only [id]))

theorem execShortCodeBerExceeded_law (p : Plane) (l : Lane) (s : State) :
    OutLaw [.tally, .log, .fab, .sent] s (execShortCodeBerExceeded p l s) := by
  unfold execShortCodeBerExceeded
  repeat' (first
    | with_reducible refine OutLaw.next ?_ | extract_lets | with_reducible exact Law.refl _ _ | with_reducible assumption
    | with_reducible apply Law.step (retrainOn_law _ _ _ _) | with_reducible apply Law.step (setPair_law _ _ _ _)
    | with_reducible refine Law.foldl _ _ _ ?_ ?_ | (show (_ : List Part) ⊆ _; decide) | (show (_ : List Part) ⊆ _; decide) | (intro _)
    | split | (dsimp +zetaDelta only [id]))

theorem execCodewordLockLost_law (p : Plane) (l : Lane) (s : State) :
    OutLaw [.tally, .log, .fab, .sent] s (execCodewordLockLost p l s) := by
  unfold execCodewordLockLost
  repeat' (first
    | with_reducible refine OutLaw.next ?_ | extract_lets | with_reducible exact Law.refl _ _ | with_reducible assumption
    | with_reducible apply Law.step (retrainOn_law _ _ _ _) | with_reducible apply Law.step (countAt_law _ _ _ _ _ _ _)
    | with_reducible refine Law.foldl _ _ _ ?_ ?_ | (show (_ : List Part) ⊆ _; decide) | (show (_ : List Part) ⊆ _; decide) | (intro _)
    | split | (dsimp +zetaDelta only [id]))

theorem execPreFecBerExceeded_law (p : Plane) (l : Lane) (s : State) :
    OutLaw [.tally, .log, .fab, .sent] s (execPreFecBerExceeded p l s) := by
  unfold execPreFecBerExceeded
  repeat' (first
    | with_reducible refine OutLaw.next ?_ | extract_lets | with_reducible exact Law.refl _ _ | with_reducible assumption
    | with_reducible apply Law.step (retrainOn_law _ _ _ _) | with_reducible refine Law.foldl _ _ _ ?_ ?_
    | (show (_ : List Part) ⊆ _; decide) | (show (_ : List Part) ⊆ _; decide) | (intro _) | split | (dsimp +zetaDelta only [id]))

theorem startAgain_law (p : Nat) (l : Nat) (s : State) :
    Law [.fab, .sent] s (startAgain p l s) := by
  unfold startAgain
  repeat' (first
    | extract_lets | with_reducible exact Law.refl _ _ | with_reducible assumption | with_reducible apply Law.step (updPair_law _ _ _ _)
    | with_reducible apply Law.step (sendTrain_law _ _ _) | with_reducible refine Law.foldl _ _ _ ?_ ?_
    | (show (_ : List Part) ⊆ _; decide) | (show (_ : List Part) ⊆ _; decide) | (intro _) | split | (dsimp +zetaDelta only [id]))

theorem retrainBit_law (p : Nat) (l : Nat) (s : State) :
    Law [.tally, .log, .fab, .sent] s (retrainBit p l s) := by
  unfold retrainBit
  repeat' (first
    | extract_lets | with_reducible exact Law.refl _ _ | with_reducible assumption | with_reducible apply Law.step (retrainOn_law _ _ _ _)
    | with_reducible apply Law.step (startAgain_law _ _ _) | with_reducible refine Law.foldl _ _ _ ?_ ?_
    | (show (_ : List Part) ⊆ _; decide) | (show (_ : List Part) ⊆ _; decide) | (intro _) | split | (dsimp +zetaDelta only [id]))

theorem execPairRetrainCmd_law (p : Plane) (mask : Half16) (s : State) :
    OutLaw [.tally, .log, .fab, .sent] s (execPairRetrainCmd p mask s) := by
  unfold execPairRetrainCmd
  repeat' (first
    | with_reducible refine OutLaw.next ?_ | extract_lets | with_reducible exact Law.refl _ _ | with_reducible assumption
    | with_reducible apply Law.step (retrainBit_law _ _ _) | with_reducible refine Law.foldl _ _ _ ?_ ?_
    | (show (_ : List Part) ⊆ _; decide) | (show (_ : List Part) ⊆ _; decide) | (intro _) | split | (dsimp +zetaDelta only [id]))

theorem startReplay_law (p : Nat) (l : Nat) (s : State) :
    Law [.tally, .log, .fab, .sent] s (startReplay p l s) := by
  unfold startReplay
  repeat' (first
    | extract_lets | with_reducible exact Law.refl _ _ | with_reducible assumption | with_reducible apply Law.step (retrainOn_law _ _ _ _)
    | with_reducible apply Law.step (setPair_law _ _ _ _) | with_reducible apply Law.step (countFab_law _ _ _ _)
    | with_reducible refine Law.foldl _ _ _ ?_ ?_ | (show (_ : List Part) ⊆ _; decide) | (show (_ : List Part) ⊆ _; decide) | (intro _)
    | split | (dsimp +zetaDelta only [id]))

theorem execAckTimeout_law (p : Plane) (l : Lane) (s : State) :
    OutLaw [.tally, .log, .fab, .sent] s (execAckTimeout p l s) := by
  unfold execAckTimeout
  repeat' (first
    | with_reducible refine OutLaw.next ?_ | extract_lets | with_reducible exact Law.refl _ _ | with_reducible assumption
    | with_reducible apply Law.step (retrainOn_law _ _ _ _) | with_reducible apply Law.step (startReplay_law _ _ _)
    | with_reducible apply Law.step (setPair_law _ _ _ _) | with_reducible refine Law.foldl _ _ _ ?_ ?_
    | (show (_ : List Part) ⊆ _; decide) | (show (_ : List Part) ⊆ _; decide) | (intro _) | split | (dsimp +zetaDelta only [id]))

theorem linkFields_law (h : FlitHdr) (s : State) :
    Law [.tally, .log, .fab, .sent] s (linkFields h s) := by
  unfold linkFields
  repeat' (first
    | extract_lets | with_reducible exact Law.refl _ _ | with_reducible assumption | with_reducible apply Law.step (startReplay_law _ _ _)
    | with_reducible apply Law.step (setPair_law _ _ _ _) | with_reducible apply Law.step (updPair_law _ _ _ _)
    | with_reducible refine Law.foldl _ _ _ ?_ ?_ | (show (_ : List Part) ⊆ _; decide) | (show (_ : List Part) ⊆ _; decide) | (intro _)
    | split | (dsimp +zetaDelta only [id]))

theorem badFlit_law (h : FlitHdr) (s : State) :
    Law [.tally, .fab] s (badFlit h s) := by
  unfold badFlit
  repeat' (first
    | extract_lets | with_reducible exact Law.refl _ _ | with_reducible assumption | with_reducible apply Law.step (updPair_law _ _ _ _)
    | with_reducible apply Law.step (countFab_law _ _ _ _) | with_reducible refine Law.foldl _ _ _ ?_ ?_
    | (show (_ : List Part) ⊆ _; decide) | (show (_ : List Part) ⊆ _; decide) | (intro _) | split | (dsimp +zetaDelta only [id]))

theorem unsequenced_law {L : List Part} {s₀ : State} (h : FlitHdr) (type : Nat) (payload : List Byte) (s : State) (act : State → State) (h₀ : Law L s₀ s) (h_act : ∀ (y0 : State), Law L s₀ y0 → Law L s₀ (act y0)) (hL : [.tally, .log, .fab, .sent] ⊆ L) :
    Law L s₀ (unsequenced h type payload s act) := by
  unfold unsequenced
  repeat' (first
    | extract_lets | with_reducible exact Law.refl _ _ | with_reducible assumption | with_reducible apply h_act
    | with_reducible apply Law.step (linkFields_law _ _) | with_reducible apply Law.step (badFlit_law _ _)
    | with_reducible refine Law.foldl _ _ _ ?_ ?_ | (show (_ : List Part) ⊆ _; exact List.Subset.trans (by decide) hL)
    | (show (_ : List Part) ⊆ _; exact List.Subset.trans (by decide) hL) | (intro _) | split | (dsimp +zetaDelta only [id]))

theorem sequenced_law {L : List Part} {s₀ : State} (h : FlitHdr) (b : FlitBody) (s : State) (act : State → State) (h₀ : Law L s₀ s) (h_act : ∀ (y0 : State), Law L s₀ y0 → Law L s₀ (act y0)) (hL : [.tally, .log, .fab, .sent] ⊆ L) :
    Law L s₀ (sequenced h b s act) := by
  unfold sequenced
  repeat' (first
    | extract_lets | with_reducible exact Law.refl _ _ | with_reducible assumption | with_reducible apply h_act
    | with_reducible apply Law.step (linkFields_law _ _) | with_reducible apply Law.step (badFlit_law _ _)
    | with_reducible apply Law.step (setPair_law _ _ _ _) | with_reducible apply Law.step (countFab_law _ _ _ _)
    | with_reducible refine Law.foldl _ _ _ ?_ ?_ | (show (_ : List Part) ⊆ _; exact List.Subset.trans (by decide) hL)
    | (show (_ : List Part) ⊆ _; exact List.Subset.trans (by decide) hL) | (intro _) | split | (dsimp +zetaDelta only [id]))

theorem freeFlit_law (p : Nat) (l : Nat) (tc : Nat) (s : State) :
    Law [.fab] s (freeFlit p l tc s) := by
  unfold freeFlit
  repeat' (first
    | extract_lets | with_reducible exact Law.refl _ _ | with_reducible assumption | with_reducible apply Law.step (updPair_law _ _ _ _)
    | with_reducible refine Law.foldl _ _ _ ?_ ?_ | (show (_ : List Part) ⊆ _; decide) | (show (_ : List Part) ⊆ _; decide) | (intro _)
    | split | (dsimp +zetaDelta only [id]))

theorem flushNotices_law (p : Nat) (l : Nat) (s : State) :
    Law [.fab] s (flushNotices p l s) := by
  unfold flushNotices
  repeat' (first
    | extract_lets | with_reducible exact Law.refl _ _ | with_reducible assumption | with_reducible apply Law.step (setPair_law _ _ _ _)
    | with_reducible refine Law.foldl _ _ _ ?_ ?_ | (show (_ : List Part) ⊆ _; decide) | (show (_ : List Part) ⊆ _; decide) | (intro _)
    | split | (dsimp +zetaDelta only [id]))

theorem addNotice_law (p : Nat) (l : Nat) (e : NoticeEntry) (s : State) :
    Law [.tally, .fab] s (addNotice p l e s) := by
  unfold addNotice
  repeat' (first
    | extract_lets | with_reducible exact Law.refl _ _ | with_reducible assumption
    | with_reducible apply Law.step (flushNotices_law _ _ _) | with_reducible apply Law.step (setPair_law _ _ _ _)
    | with_reducible apply Law.step (countAt_law _ _ _ _ _ _ _) | with_reducible refine Law.foldl _ _ _ ?_ ?_
    | (show (_ : List Part) ⊆ _; decide) | (show (_ : List Part) ⊆ _; decide) | (intro _) | split | (dsimp +zetaDelta only [id]))

theorem execNoticeFlush_law (p : Plane) (l : Lane) (s : State) :
    OutLaw [.fab] s (execNoticeFlush p l s) := by
  unfold execNoticeFlush
  repeat' (first
    | with_reducible refine OutLaw.next ?_ | extract_lets | with_reducible exact Law.refl _ _ | with_reducible assumption
    | with_reducible apply Law.step (flushNotices_law _ _ _) | with_reducible refine Law.foldl _ _ _ ?_ ?_
    | (show (_ : List Part) ⊆ _; decide) | (show (_ : List Part) ⊆ _; decide) | (intro _) | split | (dsimp +zetaDelta only [id]))

theorem takeGen_law (d : SegDesc) (s : State) :
    Law [.steer] s (takeGen d s) := by
  unfold takeGen
  repeat' (first
    | extract_lets | with_reducible exact Law.refl _ _ | with_reducible assumption | with_reducible refine Law.foldl _ _ _ ?_ ?_
    | (show (_ : List Part) ⊆ _; decide) | (show (_ : List Part) ⊆ _; decide) | (intro _) | split
    | with_reducible refine Law.set_steer _ (by decide) ?_ | (dsimp +zetaDelta only [id]))

theorem lateArrival_law (p : Nat) (l : Nat) (d : SegDesc) (s : State) :
    Law [.rst, .tally, .log] s (lateArrival p l d s) := by
  unfold lateArrival
  repeat' (first
    | extract_lets | with_reducible exact Law.refl _ _ | with_reducible assumption
    | with_reducible apply Law.step (logFabRate_law _ _ _ _ _ _ _ _ _) | with_reducible apply Law.step (countAt_law _ _ _ _ _ _ _)
    | with_reducible refine Law.foldl _ _ _ ?_ ?_ | (show (_ : List Part) ⊆ _; decide) | (show (_ : List Part) ⊆ _; decide) | (intro _)
    | split | with_reducible refine Law.set_rst _ (by decide) ?_ | (dsimp +zetaDelta only [id]))

theorem openSeg_law (p : Nat) (l : Nat) (o : OpenSeg) (s : State) :
    Law [.fab] s (openSeg p l o s) := by
  unfold openSeg
  repeat' (first
    | extract_lets | with_reducible exact Law.refl _ _ | with_reducible assumption | with_reducible apply Law.step (updPair_law _ _ _ _)
    | with_reducible refine Law.foldl _ _ _ ?_ ?_ | (show (_ : List Part) ⊆ _; decide) | (show (_ : List Part) ⊆ _; decide) | (intro _)
    | split | (dsimp +zetaDelta only [id]))

theorem openDiscard_law (p : Nat) (l : Nat) (kind : Nat) (tc : Nat) (d : SegDesc) (s : State) :
    Law [.fab] s (openDiscard p l kind tc d s) := by
  unfold openDiscard
  repeat' (first
    | extract_lets | with_reducible exact Law.refl _ _ | with_reducible assumption | with_reducible apply Law.step (openSeg_law _ _ _ _)
    | with_reducible refine Law.foldl _ _ _ ?_ ?_ | (show (_ : List Part) ⊆ _; decide) | (show (_ : List Part) ⊆ _; decide) | (intro _)
    | split | (dsimp +zetaDelta only [id]))

theorem refuse_law (p l kind tc : Nat) (d : SegDesc) (v : Verdict) (write : Bool) (s : State) : Law [.freeCtr, .mem, .host, .cores, .clus, .ctxs, .ddr, .hst, .idb, .rst, .tally, .log, .fab, .link, .steer, .stew, .ckpt, .boot, .pins, .side, .sent] s (refuse p l kind tc d v write s) := by
  unfold refuse
  extract_lets t
  have ht : Law [.freeCtr, .mem, .host, .cores, .clus, .ctxs, .ddr, .hst, .idb, .rst, .tally, .log, .fab, .link, .steer, .stew, .ckpt, .boot, .pins, .side, .sent] s t := Law.step (openDiscard_law _ _ _ _ _ _) (by decide) (Law.refl _ s)
  clear_value t
  split
  · exact Law.step (addNotice_law _ _ _ _) (by decide) (Law.step (edDrop_law _ _ _ _ _) (by decide) ht)
  · exact Law.step (addNotice_law _ _ _ _) (by decide) ht
  · exact Law.step (addNotice_law _ _ _ _) (by decide) ht
  · exact Law.step (lateArrival_law _ _ _ _) (by decide) ht
  · exact Law.step (takeGen_law _ _) (by decide) (Law.step (addNotice_law _ _ _ _) (by decide) (Law.step (rowReport_law _ _ _) (by decide) ht))
  · exact ht

theorem respond_law (p : Nat) (l : Nat) (tc : Nat) (d : SegDesc) (a : Nat) (s : State) :
    Law [.freeCtr, .mem, .host, .cores, .clus, .ctxs, .ddr, .hst, .idb, .rst, .tally, .log, .fab, .link, .stew, .ckpt, .boot, .pins, .side, .sent] s (respond p l tc d a s) := by
  unfold respond
  repeat' (first
    | extract_lets | with_reducible exact Law.refl _ _ | with_reducible assumption | with_reducible apply Law.step (enqueue_law _ _ _ _)
    | with_reducible apply Law.step (eccDouble_law _ _) | with_reducible apply Law.step (clearFirst_law _ _ _)
    | with_reducible apply Law.step (readRange_law _ _ _) | with_reducible refine Law.foldl _ _ _ ?_ ?_
    | (show (_ : List Part) ⊆ _; decide) | (show (_ : List Part) ⊆ _; decide) | (intro _) | split | (dsimp +zetaDelta only [id]))

theorem dropOut_law (o : SegOut) (s : State) :
    Law [.link] s (dropOut o s) := by
  unfold dropOut
  repeat' (first
    | extract_lets | with_reducible exact Law.refl _ _ | with_reducible assumption | with_reducible refine Law.foldl _ _ _ ?_ ?_
    | (show (_ : List Part) ⊆ _; decide) | (show (_ : List Part) ⊆ _; decide) | (intro _) | split
    | with_reducible refine Law.set_link _ (by decide) ?_ | (dsimp +zetaDelta only [id]))

theorem answered_law (o : SegOut) (bytes : Nat) (s : State) :
    Law [.freeCtr, .mem, .host, .cores, .clus, .ctxs, .ddr, .hst, .idb, .rst, .tally, .log, .fab, .link, .stew, .ckpt, .boot, .pins, .side, .sent] s (answered o bytes s) := by
  unfold answered
  repeat' (first
    | extract_lets | with_reducible exact Law.refl _ _ | with_reducible assumption | with_reducible apply Law.step (dropOut_law _ _)
    | with_reducible apply Law.step (updXfer_law _ _ _) | with_reducible apply Law.step (driveX_law _ _)
    | with_reducible refine Law.foldl _ _ _ ?_ ?_ | (show (_ : List Part) ⊆ _; decide) | (show (_ : List Part) ⊆ _; decide) | (intro _)
    | split | (dsimp +zetaDelta only [id]))

theorem takeNotice_law (p : Nat) (l : Nat) (s : State) (e : NoticeEntry) :
    Law [.freeCtr, .mem, .host, .cores, .clus, .ctxs, .ddr, .hst, .idb, .rst, .tally, .log, .fab, .link, .stew, .ckpt, .boot, .pins, .side, .sent] s (takeNotice p l s e) := by
  unfold takeNotice
  repeat' (first
    | extract_lets | with_reducible exact Law.refl _ _ | with_reducible assumption | with_reducible apply Law.step (lateDrop_law _ _ _)
    | with_reducible apply Law.step (dropOut_law _ _) | with_reducible apply Law.step (answered_law _ _ _)
    | with_reducible apply Law.step (updXfer_law _ _ _) | with_reducible apply Law.step (xferFail_law _ _ _ _)
    | with_reducible refine Law.foldl _ _ _ ?_ ?_ | (show (_ : List Part) ⊆ _; decide) | (show (_ : List Part) ⊆ _; decide) | (intro _)
    | split | (dsimp +zetaDelta only [id]))

theorem readDone_law (o : SegOut) (g : OpenSeg) (s : State) :
    Law [.freeCtr, .mem, .host, .cores, .clus, .ctxs, .ddr, .hst, .idb, .rst, .tally, .log, .fab, .link, .stew, .ckpt, .boot, .pins, .side, .sent] s (readDone o g s) := by
  unfold readDone
  repeat' (first
    | extract_lets | with_reducible exact Law.refl _ _ | with_reducible assumption | with_reducible apply Law.step (dropOut_law _ _)
    | with_reducible apply Law.step (answered_law _ _ _) | with_reducible apply Law.step (updXfer_law _ _ _)
    | with_reducible apply Law.step (xferFail_law _ _ _ _) | with_reducible refine Law.foldl _ _ _ ?_ ?_
    | (show (_ : List Part) ⊆ _; decide) | (show (_ : List Part) ⊆ _; decide) | (intro _) | split | (dsimp +zetaDelta only [id]))

theorem openResp_law (p : Nat) (l : Nat) (tc : Nat) (d : SegDesc) (s : State) :
    Law [.rst, .tally, .log, .fab, .link] s (openResp p l tc d s) := by
  unfold openResp
  repeat' (first
    | extract_lets | with_reducible exact Law.refl _ _ | with_reducible assumption | with_reducible apply Law.step (lateDrop_law _ _ _)
    | with_reducible apply Law.step (openSeg_law _ _ _ _) | with_reducible apply Law.step (openDiscard_law _ _ _ _ _ _)
    | with_reducible apply Law.step (dropOut_law _ _) | with_reducible refine Law.foldl _ _ _ ?_ ?_ | (show (_ : List Part) ⊆ _; decide)
    | (show (_ : List Part) ⊆ _; decide) | (intro _) | split | (dsimp +zetaDelta only [id]))

theorem dataIn_law (p : Nat) (l : Nat) (tc : Nat) (tag : Nat) (index : Nat) (last : Bool) (bytes : List Byte) (s : State) :
    Law [.freeCtr, .mem, .host, .cores, .clus, .ctxs, .ddr, .hst, .idb, .rst, .tally, .log, .fab, .link, .stew, .ckpt, .boot, .pins, .side, .sent] s (dataIn p l tc tag index last bytes s) := by
  unfold dataIn
  repeat' (first
    | extract_lets | with_reducible exact Law.refl _ _ | with_reducible assumption | with_reducible apply Law.step (store_law _ _ _)
    | with_reducible apply Law.step (addNotice_law _ _ _ _) | with_reducible apply Law.step (readDone_law _ _ _)
    | with_reducible apply Law.step (updPair_law _ _ _ _) | with_reducible refine Law.foldl _ _ _ ?_ ?_
    | (show (_ : List Part) ⊆ _; decide) | (show (_ : List Part) ⊆ _; decide) | (intro _) | split | (dsimp +zetaDelta only [id]))

theorem process_law (p l : Nat) (f : Flit) (s t : State) (h : process p l f s = some t) : Law [.freeCtr, .mem, .host, .cores, .clus, .ctxs, .ddr, .hst, .idb, .rst, .tally, .log, .fab, .link, .steer, .stew, .ckpt, .boot, .pins, .side, .sent] s t := by
  unfold process at h
  repeat' (first | (split at h) | (dsimp only at h; split at h))
  all_goals try (cases h; done)
  all_goals
    injection h with h
    subst h
  all_goals
    repeat' (first
      | with_reducible exact Law.refl _ _
      | with_reducible assumption
      | with_reducible apply Law.step (openResp_law _ _ _ _ _)
      | with_reducible apply Law.step (openSeg_law _ _ _ _)
      | with_reducible apply Law.step (clearFirst_law _ _ _)
      | with_reducible apply Law.step (takeGen_law _ _)
      | with_reducible apply Law.step (refuse_law _ _ _ _ _ _ _ _)
      | with_reducible apply Law.step (addNotice_law _ _ _ _)
      | with_reducible apply Law.step (remoteToken_law _ _ _ _ _ _ _)
      | with_reducible apply Law.step (openDiscard_law _ _ _ _ _ _)
      | with_reducible apply Law.step (updPair_law _ _ _ _)
      | with_reducible apply Law.step (respond_law _ _ _ _ _ _)
      | with_reducible apply Law.step (dataIn_law _ _ _ _ _ _ _ _)
      | with_reducible apply Law.step (takeNotice_law _ _ _ _)
      | with_reducible refine Law.foldl _ _ _ ?_ ?_
      | (show (_ : List Part) ⊆ _; decide)
      | (intro _))

theorem deliver_law (p l : Nat) (f : Flit) (s : State) : Law [.freeCtr, .mem, .host, .cores, .clus, .ctxs, .ddr, .hst, .idb, .rst, .tally, .log, .fab, .link, .steer, .stew, .ckpt, .boot, .pins, .side, .sent] s (deliver p l f s) := by
  unfold deliver
  split
  · exact Law.step (updPair_law _ _ _ _) (by decide) (Law.refl _ _)
  · split
    · rename_i t h
      exact Law.step (freeFlit_law _ _ _ _) (by decide) (process_law p l f s t h)
    · extract_lets ahead t
      have ht : Law [.freeCtr, .mem, .host, .cores, .clus, .ctxs, .ddr, .hst, .idb, .rst, .tally, .log, .fab, .link, .steer, .stew, .ckpt, .boot, .pins, .side, .sent] s t := Law.step (updPair_law _ _ _ _) (by decide) (Law.refl _ _)
      clear_value ahead t
      split
      · exact Law.step (countFab_law _ _ _ _) (by decide) ht
      · exact ht

theorem releaseWait_law (p : Nat) (l : Nat) (s : State) :
    Law [.freeCtr, .mem, .host, .cores, .clus, .ctxs, .ddr, .hst, .idb, .rst, .tally, .log, .fab, .link, .steer, .stew, .ckpt, .boot, .pins, .side, .sent] s (releaseWait p l s) := by
  unfold releaseWait
  repeat' (first
    | extract_lets | with_reducible exact Law.refl _ _ | with_reducible assumption | with_reducible apply Law.step (deliver_law _ _ _ _)
    | with_reducible apply Law.step (updPair_law _ _ _ _) | with_reducible refine Law.foldl _ _ _ ?_ ?_
    | (show (_ : List Part) ⊆ _; decide) | (show (_ : List Part) ⊆ _; decide) | (intro _) | split | (dsimp +zetaDelta only [id]))

theorem execIdle_law (h : FlitHdr) (type : Fin 16) (payload : List Byte) (s : State) :
    OutLaw [.tally, .log, .fab, .sent] s (execIdle h type payload s) := by
  unfold execIdle
  repeat' (first
    | with_reducible refine OutLaw.next ?_ | extract_lets | with_reducible exact Law.refl _ _ | with_reducible assumption
    | with_reducible apply unsequenced_law | with_reducible apply Law.step (updPair_law _ _ _ _)
    | with_reducible refine Law.foldl _ _ _ ?_ ?_ | (show (_ : List Part) ⊆ _; decide) | (show (_ : List Part) ⊆ _; decide) | (intro _)
    | split | (dsimp +zetaDelta only [id]))

theorem flitIn_law (h : FlitHdr) (tc : Nat) (b : FlitBody) (s : State) :
    Law [.freeCtr, .mem, .host, .cores, .clus, .ctxs, .ddr, .hst, .idb, .rst, .tally, .log, .fab, .link, .steer, .stew, .ckpt, .boot, .pins, .side, .sent] s (flitIn h tc b s) := by
  unfold flitIn
  repeat' (first
    | extract_lets | with_reducible exact Law.refl _ _ | with_reducible assumption | with_reducible apply sequenced_law
    | with_reducible apply Law.step (deliver_law _ _ _ _) | with_reducible refine Law.foldl _ _ _ ?_ ?_
    | (show (_ : List Part) ⊆ _; decide) | (show (_ : List Part) ⊆ _; decide) | (intro _) | split | (dsimp +zetaDelta only [id]))

theorem execWriteSegment_law (h : FlitHdr) (d : SegDesc) (s : State) :
    OutLaw [.freeCtr, .mem, .host, .cores, .clus, .ctxs, .ddr, .hst, .idb, .rst, .tally, .log, .fab, .link, .steer, .stew, .ckpt, .boot, .pins, .side, .sent] s (execWriteSegment h d s) := by
  unfold execWriteSegment
  repeat' (first
    | with_reducible refine OutLaw.next ?_ | extract_lets | with_reducible exact Law.refl _ _ | with_reducible assumption
    | with_reducible apply Law.step (flitIn_law _ _ _ _) | with_reducible refine Law.foldl _ _ _ ?_ ?_
    | (show (_ : List Part) ⊆ _; decide) | (show (_ : List Part) ⊆ _; decide) | (intro _) | split | (dsimp +zetaDelta only [id]))

theorem execTokenOnly_law (h : FlitHdr) (d : SegDesc) (s : State) :
    OutLaw [.freeCtr, .mem, .host, .cores, .clus, .ctxs, .ddr, .hst, .idb, .rst, .tally, .log, .fab, .link, .steer, .stew, .ckpt, .boot, .pins, .side, .sent] s (execTokenOnly h d s) := by
  unfold execTokenOnly
  repeat' (first
    | with_reducible refine OutLaw.next ?_ | extract_lets | with_reducible exact Law.refl _ _ | with_reducible assumption
    | with_reducible apply Law.step (flitIn_law _ _ _ _) | with_reducible refine Law.foldl _ _ _ ?_ ?_
    | (show (_ : List Part) ⊆ _; decide) | (show (_ : List Part) ⊆ _; decide) | (intro _) | split | (dsimp +zetaDelta only [id]))

theorem execReadResp_law (h : FlitHdr) (d : SegDesc) (s : State) :
    OutLaw [.freeCtr, .mem, .host, .cores, .clus, .ctxs, .ddr, .hst, .idb, .rst, .tally, .log, .fab, .link, .steer, .stew, .ckpt, .boot, .pins, .side, .sent] s (execReadResp h d s) := by
  unfold execReadResp
  repeat' (first
    | with_reducible refine OutLaw.next ?_ | extract_lets | with_reducible exact Law.refl _ _ | with_reducible assumption
    | with_reducible apply Law.step (flitIn_law _ _ _ _) | with_reducible refine Law.foldl _ _ _ ?_ ?_
    | (show (_ : List Part) ⊆ _; decide) | (show (_ : List Part) ⊆ _; decide) | (intro _) | split | (dsimp +zetaDelta only [id]))

theorem execData_law (h : FlitHdr) (tag : BitVec 12) (index : Byte) (last : Bool) (bytes : List Byte) (s : State) :
    OutLaw [.freeCtr, .mem, .host, .cores, .clus, .ctxs, .ddr, .hst, .idb, .rst, .tally, .log, .fab, .link, .steer, .stew, .ckpt, .boot, .pins, .side, .sent] s (execData h tag index last bytes s) := by
  unfold execData
  repeat' (first
    | with_reducible refine OutLaw.next ?_ | extract_lets | with_reducible exact Law.refl _ _ | with_reducible assumption
    | with_reducible apply Law.step (flitIn_law _ _ _ _) | with_reducible refine Law.foldl _ _ _ ?_ ?_
    | (show (_ : List Part) ⊆ _; decide) | (show (_ : List Part) ⊆ _; decide) | (intro _) | split | (dsimp +zetaDelta only [id]))

theorem execRdreq_law (h : FlitHdr) (d : SegDesc) (s : State) :
    OutLaw [.freeCtr, .mem, .host, .cores, .clus, .ctxs, .ddr, .hst, .idb, .rst, .tally, .log, .fab, .link, .steer, .stew, .ckpt, .boot, .pins, .side, .sent] s (execRdreq h d s) := by
  unfold execRdreq
  repeat' (first
    | with_reducible refine OutLaw.next ?_ | extract_lets | with_reducible exact Law.refl _ _ | with_reducible assumption
    | with_reducible apply Law.step (flitIn_law _ _ _ _) | with_reducible refine Law.foldl _ _ _ ?_ ?_
    | (show (_ : List Part) ⊆ _; decide) | (show (_ : List Part) ⊆ _; decide) | (intro _) | split | (dsimp +zetaDelta only [id]))

theorem execNotice_law (h : FlitHdr) (es : List NoticeEntry) (s : State) :
    OutLaw [.freeCtr, .mem, .host, .cores, .clus, .ctxs, .ddr, .hst, .idb, .rst, .tally, .log, .fab, .link, .steer, .stew, .ckpt, .boot, .pins, .side, .sent] s (execNotice h es s) := by
  unfold execNotice
  repeat' (first
    | with_reducible refine OutLaw.next ?_ | extract_lets | with_reducible exact Law.refl _ _ | with_reducible assumption
    | with_reducible apply Law.step (flitIn_law _ _ _ _) | with_reducible refine Law.foldl _ _ _ ?_ ?_
    | (show (_ : List Part) ⊆ _; decide) | (show (_ : List Part) ⊆ _; decide) | (intro _) | split | (dsimp +zetaDelta only [id]))

theorem genChange_law (sender : Nat) (pctx : Nat) (newGen : Byte) (s : State) :
    Law [.steer] s (genChange sender pctx newGen s) := by
  unfold genChange
  repeat' (first
    | extract_lets | with_reducible exact Law.refl _ _ | with_reducible assumption | with_reducible refine Law.foldl _ _ _ ?_ ?_
    | (show (_ : List Part) ⊆ _; decide) | (show (_ : List Part) ⊆ _; decide) | (intro _) | split
    | with_reducible refine Law.set_steer _ (by decide) ?_ | (dsimp +zetaDelta only [id]))

theorem execGenChange_law (sender : Modu) (pctx : Ctx) (newGen : Byte) (_oldGen : Byte) (s : State) :
    OutLaw [.steer] s (execGenChange sender pctx newGen _oldGen s) := by
  unfold execGenChange
  repeat' (first
    | with_reducible refine OutLaw.next ?_ | extract_lets | with_reducible exact Law.refl _ _ | with_reducible assumption
    | with_reducible apply Law.step (genChange_law _ _ _ _) | with_reducible refine Law.foldl _ _ _ ?_ ?_
    | (show (_ : List Part) ⊆ _; decide) | (show (_ : List Part) ⊆ _; decide) | (intro _) | split | (dsimp +zetaDelta only [id]))

theorem agree_law (p : Nat) (l : Nat) (s : State) :
    Law [.fab] s (agree p l s) := by
  unfold agree
  repeat' (first
    | extract_lets | with_reducible exact Law.refl _ _ | with_reducible assumption | with_reducible apply Law.step (setPair_law _ _ _ _)
    | with_reducible refine Law.foldl _ _ _ ?_ ?_ | (show (_ : List Part) ⊆ _; decide) | (show (_ : List Part) ⊆ _; decide) | (intro _)
    | split | (dsimp +zetaDelta only [id]))

theorem execLane_law (h : FlitHdr) (rep : LaneReport) (s : State) :
    OutLaw [.freeCtr, .mem, .host, .cores, .clus, .ctxs, .ddr, .hst, .idb, .rst, .tally, .log, .fab, .link, .stew, .ckpt, .boot, .pins, .side, .sent] s (execLane h rep s) := by
  unfold execLane
  repeat' (first
    | with_reducible refine OutLaw.next ?_ | extract_lets | with_reducible exact Law.refl _ _ | with_reducible assumption
    | with_reducible apply Law.step (retrainOn_law _ _ _ _) | with_reducible apply unsequenced_law
    | with_reducible apply Law.step (agree_law _ _ _) | with_reducible apply Law.step (updPair_law _ _ _ _)
    | with_reducible apply Law.step (pump_law _) | with_reducible refine Law.foldl _ _ _ ?_ ?_ | (show (_ : List Part) ⊆ _; decide)
    | (show (_ : List Part) ⊆ _; decide) | (intro _) | split | (dsimp +zetaDelta only [id]))

theorem execLaneReportDue_law (p : Plane) (l : Lane) (ber10s : Word) (ber1ms : Word) (s : State) :
    OutLaw [.fab] s (execLaneReportDue p l ber10s ber1ms s) := by
  unfold execLaneReportDue
  repeat' (first
    | with_reducible refine OutLaw.next ?_ | extract_lets | with_reducible exact Law.refl _ _ | with_reducible assumption
    | with_reducible apply Law.step (updPair_law _ _ _ _) | with_reducible refine Law.foldl _ _ _ ?_ ?_
    | (show (_ : List Part) ⊆ _; decide) | (show (_ : List Part) ⊆ _; decide) | (intro _) | split | (dsimp +zetaDelta only [id]))

theorem execBeaconDue_law (s : State) :
    OutLaw [.fab] s (execBeaconDue s) := by
  unfold execBeaconDue
  repeat' (first
    | with_reducible refine OutLaw.next ?_ | extract_lets | with_reducible exact Law.refl _ _ | with_reducible assumption
    | with_reducible apply Law.step (updPair_law _ _ _ _) | with_reducible refine Law.foldl _ _ _ ?_ ?_
    | (show (_ : List Part) ⊆ _; decide) | (show (_ : List Part) ⊆ _; decide) | (intro _) | split | (dsimp +zetaDelta only [id]))

theorem sendBody_law (p : Nat) (l : Nat) (f : Flit) (s : State) :
    Law [.tally, .sent] s (sendBody p l f s) := by
  unfold sendBody
  repeat' (first
    | extract_lets | with_reducible exact Law.refl _ _ | with_reducible assumption
    | with_reducible apply Law.step (sendFlit_law _ _ _ _ _ _ _ _) | with_reducible refine Law.foldl _ _ _ ?_ ?_
    | (show (_ : List Part) ⊆ _; decide) | (show (_ : List Part) ⊆ _; decide) | (intro _) | split | (dsimp +zetaDelta only [id]))

theorem markSent_law (p : Nat) (l : Nat) (b : FlitBody) (s : State) :
    Law [.link] s (markSent p l b s) := by
  unfold markSent
  repeat' (first
    | extract_lets | with_reducible exact Law.refl _ _ | with_reducible assumption | with_reducible refine Law.foldl _ _ _ ?_ ?_
    | (show (_ : List Part) ⊆ _; decide) | (show (_ : List Part) ⊆ _; decide) | (intro _) | split
    | with_reducible refine Law.set_link _ (by decide) ?_ | (dsimp +zetaDelta only [id]))

theorem issueFlit_law (p : Nat) (l : Nat) (f : Flit) (s : State) :
    Law [.freeCtr, .mem, .host, .cores, .clus, .ctxs, .ddr, .hst, .idb, .rst, .tally, .log, .fab, .link, .steer, .stew, .ckpt, .boot, .pins, .side, .sent] s (issueFlit p l f s) := by
  unfold issueFlit
  repeat' (first
    | extract_lets | with_reducible exact Law.refl _ _ | with_reducible assumption | with_reducible apply Law.step (releaseWait_law _ _ _)
    | with_reducible apply Law.step (sendBody_law _ _ _ _) | with_reducible apply Law.step (markSent_law _ _ _ _)
    | with_reducible apply Law.step (setPair_law _ _ _ _) | with_reducible apply Law.step (countFab_law _ _ _ _)
    | with_reducible apply Law.step (pump_law _) | with_reducible refine Law.foldl _ _ _ ?_ ?_ | (show (_ : List Part) ⊆ _; decide)
    | (show (_ : List Part) ⊆ _; decide) | (intro _) | split | (dsimp +zetaDelta only [id]))

theorem issueBeacon_law (p : Nat) (l : Nat) (s : State) :
    Law [.tally, .fab, .sent] s (issueBeacon p l s) := by
  unfold issueBeacon
  repeat' (first
    | extract_lets | with_reducible exact Law.refl _ _ | with_reducible assumption | with_reducible apply Law.step (setPair_law _ _ _ _)
    | with_reducible apply Law.step (sendFlit_law _ _ _ _ _ _ _ _) | with_reducible refine Law.foldl _ _ _ ?_ ?_
    | (show (_ : List Part) ⊆ _; decide) | (show (_ : List Part) ⊆ _; decide) | (intro _) | split | (dsimp +zetaDelta only [id]))

theorem execFlitSlot_law (p : Plane) (l : Lane) (s : State) :
    OutLaw [.freeCtr, .mem, .host, .cores, .clus, .ctxs, .ddr, .hst, .idb, .rst, .tally, .log, .fab, .link, .steer, .stew, .ckpt, .boot, .pins, .side, .sent] s (execFlitSlot p l s) := by
  unfold execFlitSlot
  repeat' (first
    | with_reducible refine OutLaw.next ?_ | extract_lets | with_reducible exact Law.refl _ _ | with_reducible assumption
    | with_reducible apply Law.step (sendBody_law _ _ _ _) | with_reducible apply Law.step (issueFlit_law _ _ _ _)
    | with_reducible apply Law.step (issueBeacon_law _ _ _) | with_reducible apply Law.step (setPair_law _ _ _ _)
    | with_reducible apply Law.step (sendFlit_law _ _ _ _ _ _ _ _) | with_reducible apply Law.step (issueLane_law _ _ _ _)
    | with_reducible apply Law.step (countFab_law _ _ _ _) | with_reducible refine Law.foldl _ _ _ ?_ ?_
    | (show (_ : List Part) ⊆ _; decide) | (show (_ : List Part) ⊆ _; decide) | (intro _) | split | (dsimp +zetaDelta only [id]))

theorem execSegmentTimeout_law (m : Modu) (tag : BitVec 12) (s : State) :
    OutLaw [.tally, .log, .link] s (execSegmentTimeout m tag s) := by
  unfold execSegmentTimeout
  repeat' (first
    | with_reducible refine OutLaw.next ?_ | extract_lets | with_reducible exact Law.refl _ _ | with_reducible assumption
    | with_reducible apply Law.step (endRemote_law _ _ _) | with_reducible refine Law.foldl _ _ _ ?_ ?_
    | (show (_ : List Part) ⊆ _; decide) | (show (_ : List Part) ⊆ _; decide) | (intro _) | split | (dsimp +zetaDelta only [id]))

end Sys2Proof.Machine
end

