-- ==== Sys2Proof/Laws/Time.lean ====
section
/-! SUPPORT. What each operation of Machine/Time.lean may touch, one lemma for each, and that it keeps memory in its canonical form. -/

set_option maxRecDepth 4000
set_option linter.all false

namespace Sys2Proof.Machine

theorem onTime_law (f : TimeSt → TimeSt) (s : State) :
    Law [.time] s (onTime f s) := by
  unfold onTime
  repeat' (first
    | extract_lets | with_reducible exact Law.refl _ _ | with_reducible assumption | with_reducible refine Law.foldl _ _ _ ?_ ?_
    | (show (_ : List Part) ⊆ _; decide) | (show (_ : List Part) ⊆ _; decide) | (intro _) | split
    | with_reducible refine Law.set_time _ (by decide) ?_ | (dsimp +zetaDelta only [id]))

theorem setTod_law (n : Nat) (k : Tod) (s : State) :
    Law [.time] s (setTod n k s) := by
  unfold setTod
  repeat' (first
    | extract_lets | with_reducible exact Law.refl _ _ | with_reducible assumption | with_reducible apply Law.step (onTime_law _ _)
    | with_reducible refine Law.foldl _ _ _ ?_ ?_ | (show (_ : List Part) ⊆ _; decide) | (show (_ : List Part) ⊆ _; decide) | (intro _)
    | split | (dsimp +zetaDelta only [id]))

theorem fireAlarm_law (a : Nat) (s : State) :
    Law [.host, .hst, .tally, .time, .sent] s (fireAlarm a s) := by
  unfold fireAlarm
  repeat' (first
    | extract_lets | with_reducible exact Law.refl _ _ | with_reducible assumption
    | with_reducible apply Law.step (postEvent_law _ _ _ _ _ _ _ _) | with_reducible apply Law.step (onTime_law _ _)
    | with_reducible refine Law.foldl _ _ _ ?_ ?_ | (show (_ : List Part) ⊆ _; decide) | (show (_ : List Part) ⊆ _; decide) | (intro _)
    | split | (dsimp +zetaDelta only [id]))

theorem stepTo_law (v : DWord) (off : ℤ) (by_ : Nat) (s : State) :
    Law [.host, .hst, .tally, .log, .time, .sent] s (stepTo v off by_ s) := by
  unfold stepTo
  repeat' (first
    | extract_lets | with_reducible exact Law.refl _ _ | with_reducible assumption
    | with_reducible apply Law.step (logRec_law _ _ _ _ _ _ _) | with_reducible apply Law.step (onTime_law _ _)
    | with_reducible apply Law.step (fireAlarm_law _ _) | with_reducible refine Law.foldl _ _ _ ?_ ?_ | (show (_ : List Part) ⊆ _; decide)
    | (show (_ : List Part) ⊆ _; decide) | (intro _) | split | (dsimp +zetaDelta only [id]))

theorem execTimeNowCapture_law (s : State) :
    OutLaw [.time] s (execTimeNowCapture s) := by
  unfold execTimeNowCapture
  repeat' (first
    | with_reducible refine OutLaw.next ?_ | extract_lets | with_reducible exact Law.refl _ _ | with_reducible assumption
    | with_reducible apply Law.step (onTime_law _ _) | with_reducible refine Law.foldl _ _ _ ?_ ?_ | (show (_ : List Part) ⊆ _; decide)
    | (show (_ : List Part) ⊆ _; decide) | (intro _) | split | (dsimp +zetaDelta only [id]))

theorem follow_law (c : Cand) (s : State) :
    Law [.tally, .log, .time] s (follow c s) := by
  unfold follow
  repeat' (first
    | extract_lets | with_reducible exact Law.refl _ _ | with_reducible assumption
    | with_reducible apply Law.step (logRec_law _ _ _ _ _ _ _) | with_reducible apply Law.step (onTime_law _ _)
    | with_reducible refine Law.foldl _ _ _ ?_ ?_ | (show (_ : List Part) ⊆ _; decide) | (show (_ : List Part) ⊆ _; decide) | (intro _)
    | split | (dsimp +zetaDelta only [id]))

theorem reselect_law (s : State) :
    Law [.tally, .log, .time] s (reselect s) := by
  unfold reselect
  repeat' (first
    | extract_lets | with_reducible exact Law.refl _ _ | with_reducible assumption | with_reducible apply Law.step (onTime_law _ _)
    | with_reducible apply Law.step (follow_law _ _) | with_reducible refine Law.foldl _ _ _ ?_ ?_ | (show (_ : List Part) ⊆ _; decide)
    | (show (_ : List Part) ⊆ _; decide) | (intro _) | split | (dsimp +zetaDelta only [id]))

theorem addSample_law (x : ℤ) (s : State) :
    Law [.time] s (addSample x s) := by
  unfold addSample
  repeat' (first
    | extract_lets | with_reducible exact Law.refl _ _ | with_reducible assumption | with_reducible apply Law.step (onTime_law _ _)
    | with_reducible refine Law.foldl _ _ _ ?_ ?_ | (show (_ : List Part) ⊆ _; decide) | (show (_ : List Part) ⊆ _; decide) | (intro _)
    | split | (dsimp +zetaDelta only [id]))

theorem execServoUpdate_law (adj : ℤ) (s : State) :
    OutLaw [.host, .hst, .tally, .log, .time, .sent] s (execServoUpdate adj s) := by
  unfold execServoUpdate
  repeat' (first
    | with_reducible refine OutLaw.next ?_ | extract_lets | with_reducible exact Law.refl _ _ | with_reducible assumption
    | with_reducible apply Law.step (onTime_law _ _) | with_reducible apply Law.step (stepTo_law _ _ _ _)
    | with_reducible refine Law.foldl _ _ _ ?_ ?_ | (show (_ : List Part) ⊆ _; decide) | (show (_ : List Part) ⊆ _; decide) | (intro _)
    | split | (dsimp +zetaDelta only [id]))

theorem forgetSource_law (s : State) :
    Law [.time] s (forgetSource s) := by
  unfold forgetSource
  repeat' (first
    | extract_lets | with_reducible exact Law.refl _ _ | with_reducible assumption | with_reducible apply Law.step (onTime_law _ _)
    | with_reducible refine Law.foldl _ _ _ ?_ ?_ | (show (_ : List Part) ⊆ _; decide) | (show (_ : List Part) ⊆ _; decide) | (intro _)
    | split | (dsimp +zetaDelta only [id]))

theorem loseSource_law (s : State) :
    Law [.tally, .log, .time] s (loseSource s) := by
  unfold loseSource
  repeat' (first
    | extract_lets | with_reducible exact Law.refl _ _ | with_reducible assumption
    | with_reducible apply Law.step (logRec_law _ _ _ _ _ _ _) | with_reducible apply Law.step (onTime_law _ _)
    | with_reducible apply Law.step (forgetSource_law _) | with_reducible refine Law.foldl _ _ _ ?_ ?_
    | (show (_ : List Part) ⊆ _; decide) | (show (_ : List Part) ⊆ _; decide) | (intro _) | split | (dsimp +zetaDelta only [id]))

theorem execSourceLost_law (s : State) :
    OutLaw [.tally, .log, .time] s (execSourceLost s) := by
  unfold execSourceLost
  repeat' (first
    | with_reducible refine OutLaw.next ?_ | extract_lets | with_reducible exact Law.refl _ _ | with_reducible assumption
    | with_reducible apply Law.step (loseSource_law _) | with_reducible refine Law.foldl _ _ _ ?_ ?_ | (show (_ : List Part) ⊆ _; decide)
    | (show (_ : List Part) ⊆ _; decide) | (intro _) | split | (dsimp +zetaDelta only [id]))

theorem execHoldoffEnd_law (s : State) :
    OutLaw [.tally, .log, .time] s (execHoldoffEnd s) := by
  unfold execHoldoffEnd
  repeat' (first
    | with_reducible refine OutLaw.next ?_ | extract_lets | with_reducible exact Law.refl _ _ | with_reducible assumption
    | with_reducible apply Law.step (onTime_law _ _) | with_reducible apply Law.step (reselect_law _)
    | with_reducible refine Law.foldl _ _ _ ?_ ?_ | (show (_ : List Part) ⊆ _; decide) | (show (_ : List Part) ⊆ _; decide) | (intro _)
    | split | (dsimp +zetaDelta only [id]))

theorem execLockAcquired_law (s : State) :
    OutLaw [.tally, .log, .time] s (execLockAcquired s) := by
  unfold execLockAcquired
  repeat' (first
    | with_reducible refine OutLaw.next ?_ | extract_lets | with_reducible exact Law.refl _ _ | with_reducible assumption
    | with_reducible apply Law.step (logRec_law _ _ _ _ _ _ _) | with_reducible apply Law.step (onTime_law _ _)
    | with_reducible refine Law.foldl _ _ _ ?_ ?_ | (show (_ : List Part) ⊆ _; decide) | (show (_ : List Part) ⊆ _; decide) | (intro _)
    | split | (dsimp +zetaDelta only [id]))

theorem manualOn_law (s : State) :
    Law [.time] s (manualOn s) := by
  unfold manualOn
  repeat' (first
    | extract_lets | with_reducible exact Law.refl _ _ | with_reducible assumption | with_reducible apply Law.step (onTime_law _ _)
    | with_reducible refine Law.foldl _ _ _ ?_ ?_ | (show (_ : List Part) ⊆ _; decide) | (show (_ : List Part) ⊆ _; decide) | (intro _)
    | split | (dsimp +zetaDelta only [id]))

theorem manualOff_law (s : State) :
    Law [.time] s (manualOff s) := by
  unfold manualOff
  repeat' (first
    | extract_lets | with_reducible exact Law.refl _ _ | with_reducible assumption | with_reducible apply Law.step (onTime_law _ _)
    | with_reducible refine Law.foldl _ _ _ ?_ ?_ | (show (_ : List Part) ⊆ _; decide) | (show (_ : List Part) ⊆ _; decide) | (intro _)
    | split | (dsimp +zetaDelta only [id]))

theorem execManualSet_law (s : State) :
    OutLaw [.time] s (execManualSet s) := by
  unfold execManualSet
  repeat' (first
    | with_reducible refine OutLaw.next ?_ | extract_lets | with_reducible exact Law.refl _ _ | with_reducible assumption
    | with_reducible apply Law.step (manualOn_law _) | with_reducible refine Law.foldl _ _ _ ?_ ?_ | (show (_ : List Part) ⊆ _; decide)
    | (show (_ : List Part) ⊆ _; decide) | (intro _) | split | (dsimp +zetaDelta only [id]))

theorem execManualClear_law (s : State) :
    OutLaw [.time] s (execManualClear s) := by
  unfold execManualClear
  repeat' (first
    | with_reducible refine OutLaw.next ?_ | extract_lets | with_reducible exact Law.refl _ _ | with_reducible assumption
    | with_reducible apply Law.step (manualOff_law _) | with_reducible refine Law.foldl _ _ _ ?_ ?_ | (show (_ : List Part) ⊆ _; decide)
    | (show (_ : List Part) ⊆ _; decide) | (intro _) | split | (dsimp +zetaDelta only [id]))

theorem notManual_law (off : Nat) (v : Nat) (s : State) :
    Law [.tally, .log] s (notManual off v s) := by
  unfold notManual
  repeat' (first
    | extract_lets | with_reducible exact Law.refl _ _ | with_reducible assumption
    | with_reducible apply Law.step (logRec_law _ _ _ _ _ _ _) | with_reducible refine Law.foldl _ _ _ ?_ ?_
    | (show (_ : List Part) ⊆ _; decide) | (show (_ : List Part) ⊆ _; decide) | (intro _) | split | (dsimp +zetaDelta only [id]))

theorem execTimeStepGo_law (s : State) :
    OutLaw [.host, .hst, .tally, .log, .time, .sent] s (execTimeStepGo s) := by
  unfold execTimeStepGo
  repeat' (first
    | with_reducible refine OutLaw.next ?_ | extract_lets | with_reducible exact Law.refl _ _ | with_reducible assumption
    | with_reducible apply Law.step (stepTo_law _ _ _ _) | with_reducible apply Law.step (notManual_law _ _ _)
    | with_reducible refine Law.foldl _ _ _ ?_ ?_ | (show (_ : List Part) ⊆ _; decide) | (show (_ : List Part) ⊆ _; decide) | (intro _)
    | split | (dsimp +zetaDelta only [id]))

theorem beaconSample_law (k : Pair) (b : BeaconMsg) (s : State) :
    Law [.time] s (beaconSample k b s) := by
  unfold beaconSample
  repeat' (first
    | extract_lets | with_reducible exact Law.refl _ _ | with_reducible assumption | with_reducible apply Law.step (addSample_law _ _)
    | with_reducible refine Law.foldl _ _ _ ?_ ?_ | (show (_ : List Part) ⊆ _; decide) | (show (_ : List Part) ⊆ _; decide) | (intro _)
    | split | (dsimp +zetaDelta only [id]))

theorem execBeacon_law (h : FlitHdr) (b : BeaconMsg) (s : State) :
    OutLaw [.tally, .log, .fab, .time, .sent] s (execBeacon h b s) := by
  unfold execBeacon
  repeat' (first
    | with_reducible refine OutLaw.next ?_ | extract_lets | with_reducible exact Law.refl _ _ | with_reducible assumption
    | with_reducible apply unsequenced_law | with_reducible apply Law.step (updPair_law _ _ _ _)
    | with_reducible apply Law.step (countHub_law _ _ _ _) | with_reducible apply Law.step (onTime_law _ _)
    | with_reducible apply Law.step (reselect_law _) | with_reducible apply Law.step (beaconSample_law _ _ _)
    | with_reducible refine Law.foldl _ _ _ ?_ ?_ | (show (_ : List Part) ⊆ _; decide) | (show (_ : List Part) ⊆ _; decide) | (intro _)
    | split | (dsimp +zetaDelta only [id]))

theorem setPort_law (p : Nat) (k : PtpPortSt) (s : State) :
    Law [.time] s (setPort p k s) := by
  unfold setPort
  repeat' (first
    | extract_lets | with_reducible exact Law.refl _ _ | with_reducible assumption | with_reducible apply Law.step (onTime_law _ _)
    | with_reducible refine Law.foldl _ _ _ ?_ ?_ | (show (_ : List Part) ⊆ _; decide) | (show (_ : List Part) ⊆ _; decide) | (intro _)
    | split | (dsimp +zetaDelta only [id]))

theorem onPort_law {L : List Part} {s₀ : State} (p : Nat) (s : State) (act : PtpPortSt → State) (h₀ : Law L s₀ s) (h_act : ∀ (y0 : PtpPortSt), Law L s₀ (act y0)) (hL : [] ⊆ L) :
    Law L s₀ (onPort p s act) := by
  unfold onPort
  repeat' (first
    | extract_lets | with_reducible exact Law.refl _ _ | with_reducible assumption | with_reducible apply h_act
    | with_reducible refine Law.foldl _ _ _ ?_ ?_ | (show (_ : List Part) ⊆ _; exact List.Subset.trans (by decide) hL)
    | (show (_ : List Part) ⊆ _; exact List.Subset.trans (by decide) hL) | (intro _) | split | (dsimp +zetaDelta only [id]))

theorem delayReq_law (p : Nat) (s : State) :
    Law [.time, .sent] s (delayReq p s) := by
  unfold delayReq
  repeat' (first
    | extract_lets | with_reducible exact Law.refl _ _ | with_reducible assumption | with_reducible apply Law.step (send_law _ _ _ _)
    | with_reducible apply Law.step (setPort_law _ _ _) | with_reducible refine Law.foldl _ _ _ ?_ ?_ | (show (_ : List Part) ⊆ _; decide)
    | (show (_ : List Part) ⊆ _; decide) | (intro _) | split | (dsimp +zetaDelta only [id]))

theorem syncSample_law (p : Nat) (s : State) :
    Law [.time, .sent] s (syncSample p s) := by
  unfold syncSample
  repeat' (first
    | extract_lets | with_reducible exact Law.refl _ _ | with_reducible assumption | with_reducible apply Law.step (addSample_law _ _)
    | with_reducible apply Law.step (delayReq_law _ _) | with_reducible refine Law.foldl _ _ _ ?_ ?_ | (show (_ : List Part) ⊆ _; decide)
    | (show (_ : List Part) ⊆ _; decide) | (intro _) | split | (dsimp +zetaDelta only [id]))

theorem execSync_law (port : PtpPort) (twoStep : Bool) (origin : Nat) (arr : Nat) (s : State) :
    OutLaw [.time, .sent] s (execSync port twoStep origin arr s) := by
  unfold execSync
  repeat' (first
    | with_reducible refine OutLaw.next ?_ | extract_lets | with_reducible exact Law.refl _ _ | with_reducible assumption
    | with_reducible apply Law.step (setPort_law _ _ _) | with_reducible apply onPort_law
    | with_reducible apply Law.step (syncSample_law _ _) | with_reducible refine Law.foldl _ _ _ ?_ ?_
    | (show (_ : List Part) ⊆ _; decide) | (show (_ : List Part) ⊆ _; decide) | (intro _) | split | (dsimp +zetaDelta only [id]))

theorem execFollowUp_law (port : PtpPort) (origin : Nat) (s : State) :
    OutLaw [.time, .sent] s (execFollowUp port origin s) := by
  unfold execFollowUp
  repeat' (first
    | with_reducible refine OutLaw.next ?_ | extract_lets | with_reducible exact Law.refl _ _ | with_reducible assumption
    | with_reducible apply Law.step (setPort_law _ _ _) | with_reducible apply onPort_law
    | with_reducible apply Law.step (syncSample_law _ _) | with_reducible refine Law.foldl _ _ _ ?_ ?_
    | (show (_ : List Part) ⊆ _; decide) | (show (_ : List Part) ⊆ _; decide) | (intro _) | split | (dsimp +zetaDelta only [id]))

theorem newMaster_law (p : Nat) (gm : DWord) (s : State) :
    Law [.tally, .log, .time] s (newMaster p gm s) := by
  unfold newMaster
  repeat' (first
    | extract_lets | with_reducible exact Law.refl _ _ | with_reducible assumption
    | with_reducible apply Law.step (logRec_law _ _ _ _ _ _ _) | with_reducible apply Law.step (onTime_law _ _)
    | with_reducible refine Law.foldl _ _ _ ?_ ?_ | (show (_ : List Part) ⊆ _; decide) | (show (_ : List Part) ⊆ _; decide) | (intro _)
    | split | (dsimp +zetaDelta only [id]))

theorem execAnnounce_law (port : PtpPort) (gm : DWord) (better : Bool) (s : State) :
    OutLaw [.tally, .log, .time] s (execAnnounce port gm better s) := by
  unfold execAnnounce
  repeat' (first
    | with_reducible refine OutLaw.next ?_ | extract_lets | with_reducible exact Law.refl _ _ | with_reducible assumption
    | with_reducible apply Law.step (onTime_law _ _) | with_reducible apply Law.step (reselect_law _)
    | with_reducible apply Law.step (setPort_law _ _ _) | with_reducible apply onPort_law
    | with_reducible apply Law.step (newMaster_law _ _ _) | with_reducible refine Law.foldl _ _ _ ?_ ?_
    | (show (_ : List Part) ⊆ _; decide) | (show (_ : List Part) ⊆ _; decide) | (intro _) | split | (dsimp +zetaDelta only [id]))

theorem execDelayResp_law (port : PtpPort) (recvT : Nat) (s : State) :
    OutLaw [.time] s (execDelayResp port recvT s) := by
  unfold execDelayResp
  repeat' (first
    | with_reducible refine OutLaw.next ?_ | extract_lets | with_reducible exact Law.refl _ _ | with_reducible assumption
    | with_reducible apply Law.step (setPort_law _ _ _) | with_reducible apply onPort_law | with_reducible refine Law.foldl _ _ _ ?_ ?_
    | (show (_ : List Part) ⊆ _; decide) | (show (_ : List Part) ⊆ _; decide) | (intro _) | split | (dsimp +zetaDelta only [id]))

theorem execPdelayReq_law (port : PtpPort) (arr : Nat) (s : State) :
    OutLaw [.sent] s (execPdelayReq port arr s) := by
  unfold execPdelayReq
  repeat' (first
    | with_reducible refine OutLaw.next ?_ | extract_lets | with_reducible exact Law.refl _ _ | with_reducible assumption
    | with_reducible apply Law.step (send_law _ _ _ _) | with_reducible apply onPort_law | with_reducible refine Law.foldl _ _ _ ?_ ?_
    | (show (_ : List Part) ⊆ _; decide) | (show (_ : List Part) ⊆ _; decide) | (intro _) | split | (dsimp +zetaDelta only [id]))

theorem execPdelayResp_law (port : PtpPort) (reqRecv : Nat) (arr : Nat) (s : State) :
    OutLaw [.time] s (execPdelayResp port reqRecv arr s) := by
  unfold execPdelayResp
  repeat' (first
    | with_reducible refine OutLaw.next ?_ | extract_lets | with_reducible exact Law.refl _ _ | with_reducible assumption
    | with_reducible apply Law.step (setPort_law _ _ _) | with_reducible apply onPort_law | with_reducible refine Law.foldl _ _ _ ?_ ?_
    | (show (_ : List Part) ⊆ _; decide) | (show (_ : List Part) ⊆ _; decide) | (intro _) | split | (dsimp +zetaDelta only [id]))

theorem execPdelayRespFollowUp_law (port : PtpPort) (respSend : Nat) (s : State) :
    OutLaw [.time] s (execPdelayRespFollowUp port respSend s) := by
  unfold execPdelayRespFollowUp
  repeat' (first
    | with_reducible refine OutLaw.next ?_ | extract_lets | with_reducible exact Law.refl _ _ | with_reducible assumption
    | with_reducible apply Law.step (setPort_law _ _ _) | with_reducible apply onPort_law | with_reducible refine Law.foldl _ _ _ ?_ ?_
    | (show (_ : List Part) ⊆ _; decide) | (show (_ : List Part) ⊆ _; decide) | (intro _) | split | (dsimp +zetaDelta only [id]))

theorem ppsAccept_law (t : Nat) (s : State) :
    Law [.tally, .log, .time] s (ppsAccept t s) := by
  unfold ppsAccept
  repeat' (first
    | extract_lets | with_reducible exact Law.refl _ _ | with_reducible assumption | with_reducible apply Law.step (onTime_law _ _)
    | with_reducible apply Law.step (reselect_law _) | with_reducible apply Law.step (addSample_law _ _)
    | with_reducible refine Law.foldl _ _ _ ?_ ?_ | (show (_ : List Part) ⊆ _; decide) | (show (_ : List Part) ⊆ _; decide) | (intro _)
    | split | (dsimp +zetaDelta only [id]))

theorem execPpsEdge_law (t : Nat) (s : State) :
    OutLaw [.tally, .log, .time] s (execPpsEdge t s) := by
  unfold execPpsEdge
  repeat' (first
    | with_reducible refine OutLaw.next ?_ | extract_lets | with_reducible exact Law.refl _ _ | with_reducible assumption
    | with_reducible apply Law.step (logRate_law _ _ _ _ _ _ _ _ _) | with_reducible apply Law.step (onTime_law _ _)
    | with_reducible apply Law.step (ppsAccept_law _ _) | with_reducible refine Law.foldl _ _ _ ?_ ?_ | (show (_ : List Part) ⊆ _; decide)
    | (show (_ : List Part) ⊆ _; decide) | (intro _) | split | (dsimp +zetaDelta only [id]))

theorem execPpsLost_law (s : State) :
    OutLaw [.tally, .log, .time] s (execPpsLost s) := by
  unfold execPpsLost
  repeat' (first
    | with_reducible refine OutLaw.next ?_ | extract_lets | with_reducible exact Law.refl _ _ | with_reducible assumption
    | with_reducible apply Law.step (logRec_law _ _ _ _ _ _ _) | with_reducible apply Law.step (onTime_law _ _)
    | with_reducible apply Law.step (reselect_law _) | with_reducible apply Law.step (loseSource_law _)
    | with_reducible refine Law.foldl _ _ _ ?_ ?_ | (show (_ : List Part) ⊆ _; decide) | (show (_ : List Part) ⊆ _; decide) | (intro _)
    | split | (dsimp +zetaDelta only [id]))

theorem execAlarmArm_law (a : Fin 8) (s : State) :
    OutLaw [.time] s (execAlarmArm a s) := by
  unfold execAlarmArm
  repeat' (first
    | with_reducible refine OutLaw.next ?_ | extract_lets | with_reducible exact Law.refl _ _ | with_reducible assumption
    | with_reducible apply Law.step (onTime_law _ _) | with_reducible refine Law.foldl _ _ _ ?_ ?_ | (show (_ : List Part) ⊆ _; decide)
    | (show (_ : List Part) ⊆ _; decide) | (intro _) | split | (dsimp +zetaDelta only [id]))

theorem execAlarmFire_law (a : Fin 8) (s : State) :
    OutLaw [.host, .hst, .tally, .time, .sent] s (execAlarmFire a s) := by
  unfold execAlarmFire
  repeat' (first
    | with_reducible refine OutLaw.next ?_ | extract_lets | with_reducible exact Law.refl _ _ | with_reducible assumption
    | with_reducible apply Law.step (fireAlarm_law _ _) | with_reducible refine Law.foldl _ _ _ ?_ ?_ | (show (_ : List Part) ⊆ _; decide)
    | (show (_ : List Part) ⊆ _; decide) | (intro _) | split | (dsimp +zetaDelta only [id]))

theorem execTodEnable_law (n : Fin 4) (s : State) :
    OutLaw [.time] s (execTodEnable n s) := by
  unfold execTodEnable
  repeat' (first
    | with_reducible refine OutLaw.next ?_ | extract_lets | with_reducible exact Law.refl _ _ | with_reducible assumption
    | with_reducible apply Law.step (setTod_law _ _ _) | with_reducible refine Law.foldl _ _ _ ?_ ?_ | (show (_ : List Part) ⊆ _; decide)
    | (show (_ : List Part) ⊆ _; decide) | (intro _) | split | (dsimp +zetaDelta only [id]))

theorem execTodDisable_law (n : Fin 4) (s : State) :
    OutLaw [.time] s (execTodDisable n s) := by
  unfold execTodDisable
  repeat' (first
    | with_reducible refine OutLaw.next ?_ | extract_lets | with_reducible exact Law.refl _ _ | with_reducible assumption
    | with_reducible apply Law.step (setTod_law _ _ _) | with_reducible refine Law.foldl _ _ _ ?_ ?_ | (show (_ : List Part) ⊆ _; decide)
    | (show (_ : List Part) ⊆ _; decide) | (intro _) | split | (dsimp +zetaDelta only [id]))

theorem execTodPulseStart_law (n : Fin 4) (s : State) :
    OutLaw [.time] s (execTodPulseStart n s) := by
  unfold execTodPulseStart
  repeat' (first
    | with_reducible refine OutLaw.next ?_ | extract_lets | with_reducible exact Law.refl _ _ | with_reducible assumption
    | with_reducible apply Law.step (setTod_law _ _ _) | with_reducible refine Law.foldl _ _ _ ?_ ?_ | (show (_ : List Part) ⊆ _; decide)
    | (show (_ : List Part) ⊆ _; decide) | (intro _) | split | (dsimp +zetaDelta only [id]))

theorem execTodPulseEnd_law (n : Fin 4) (s : State) :
    OutLaw [.time] s (execTodPulseEnd n s) := by
  unfold execTodPulseEnd
  repeat' (first
    | with_reducible refine OutLaw.next ?_ | extract_lets | with_reducible exact Law.refl _ _ | with_reducible assumption
    | with_reducible apply Law.step (setTod_law _ _ _) | with_reducible refine Law.foldl _ _ _ ?_ ?_ | (show (_ : List Part) ⊆ _; decide)
    | (show (_ : List Part) ⊆ _; decide) | (intro _) | split | (dsimp +zetaDelta only [id]))

end Sys2Proof.Machine
end

