-- ==== Sys2Proof/Laws/Stew0.lean ====
section
/-! SUPPORT. What each operation of Machine/Stew0.lean may touch, one lemma for each, and that it keeps memory in its canonical form. -/

set_option maxRecDepth 4000
set_option linter.all false

namespace Sys2Proof.Machine

theorem startSync_law (s : State) :
    Law [.stew] s (startSync s) := by
  unfold startSync
  repeat' (first
    | extract_lets | with_reducible exact Law.refl _ _ | with_reducible assumption | with_reducible apply Law.step (onStew_law _ _)
    | with_reducible refine Law.foldl _ _ _ ?_ ?_ | (show (_ : List Part) ⊆ _; decide) | (show (_ : List Part) ⊆ _; decide) | (intro _)
    | split | (dsimp +zetaDelta only [id]))

theorem updMember_law (m : Nat) (f : Member → Member) (s : State) :
    Law [.stew] s (updMember m f s) := by
  unfold updMember
  repeat' (first
    | extract_lets | with_reducible exact Law.refl _ _ | with_reducible assumption | with_reducible apply Law.step (onStew_law _ _)
    | with_reducible refine Law.foldl _ _ _ ?_ ?_ | (show (_ : List Part) ⊆ _; decide) | (show (_ : List Part) ⊆ _; decide) | (intro _)
    | split | (dsimp +zetaDelta only [id]))

theorem updJob_law (j : Nat) (f : Job → Job) (s : State) :
    Law [.stew] s (updJob j f s) := by
  unfold updJob
  repeat' (first
    | extract_lets | with_reducible exact Law.refl _ _ | with_reducible assumption | with_reducible apply Law.step (onStew_law _ _)
    | with_reducible refine Law.foldl _ _ _ ?_ ?_ | (show (_ : List Part) ⊆ _; decide) | (show (_ : List Part) ⊆ _; decide) | (intro _)
    | split | (dsimp +zetaDelta only [id]))

theorem updIssued_law (ed : Nat) (f : Issued → Issued) (s : State) :
    Law [.steer] s (updIssued ed f s) := by
  unfold updIssued
  repeat' (first
    | extract_lets | with_reducible exact Law.refl _ _ | with_reducible assumption | with_reducible apply Law.step (onSteer_law _ _)
    | with_reducible refine Law.foldl _ _ _ ?_ ?_ | (show (_ : List Part) ⊆ _; decide) | (show (_ : List Part) ⊆ _; decide) | (intro _)
    | split | (dsimp +zetaDelta only [id]))

theorem applyRecord_law (r : MirrorRec) (s : State) :
    Law [.steer, .stew] s (applyRecord r s) := by
  unfold applyRecord
  repeat' (first
    | extract_lets | with_reducible exact Law.refl _ _ | with_reducible assumption | with_reducible apply Law.step (onSteer_law _ _)
    | with_reducible apply Law.step (onStew_law _ _) | with_reducible apply Law.step (updMember_law _ _ _)
    | with_reducible apply Law.step (updJob_law _ _ _) | with_reducible apply Law.step (updIssued_law _ _ _)
    | with_reducible refine Law.foldl _ _ _ ?_ ?_ | (show (_ : List Part) ⊆ _; decide) | (show (_ : List Part) ⊆ _; decide) | (intro _)
    | split | (dsimp +zetaDelta only [id]))

theorem sendChart_law (c : List Byte) (m : Nat) (s : State) :
    Law [.stew, .sent] s (sendChart c m s) := by
  unfold sendChart
  repeat' (first
    | extract_lets | with_reducible exact Law.refl _ _ | with_reducible assumption | with_reducible apply Law.step (ctlSend_law _ _ _ _)
    | with_reducible refine Law.foldl _ _ _ ?_ ?_ | (show (_ : List Part) ⊆ _; decide) | (show (_ : List Part) ⊆ _; decide) | (intro _)
    | split | (dsimp +zetaDelta only [id]))

theorem sendCopy_law (dst : Nat) (kind : Nat) (id : Nat) (flags : Nat) (body : List Nat) (s : State) :
    Law [.fab, .link] s (sendCopy dst kind id flags body s) := by
  unfold sendCopy
  repeat' (first
    | extract_lets | with_reducible exact Law.refl _ _ | with_reducible assumption | with_reducible apply Law.step (sendCtrl_law _ _ _ _)
    | with_reducible refine Law.foldl _ _ _ ?_ ?_ | (show (_ : List Part) ⊆ _; decide) | (show (_ : List Part) ⊆ _; decide) | (intro _)
    | split | (dsimp +zetaDelta only [id]))

theorem sendChartFabric_law (c : List Byte) (m : Nat) (s : State) :
    Law [.fab, .link, .stew] s (sendChartFabric c m s) := by
  unfold sendChartFabric
  repeat' (first
    | extract_lets | with_reducible exact Law.refl _ _ | with_reducible assumption | with_reducible apply Law.step (onStew_law _ _)
    | with_reducible apply Law.step (sendCopy_law _ _ _ _ _ _) | with_reducible refine Law.foldl _ _ _ ?_ ?_
    | (show (_ : List Part) ⊆ _; decide) | (show (_ : List Part) ⊆ _; decide) | (intro _) | split | (dsimp +zetaDelta only [id]))

theorem doAct_law (a : StewAct) (s : State) :
    Law [.stew, .sent] s (doAct a s) := by
  unfold doAct
  repeat' (first
    | extract_lets | with_reducible exact Law.refl _ _ | with_reducible assumption | with_reducible apply Law.step (ctlSend_law _ _ _ _)
    | with_reducible apply Law.step (sendChart_law _ _ _) | with_reducible refine Law.foldl _ _ _ ?_ ?_
    | (show (_ : List Part) ⊆ _; decide) | (show (_ : List Part) ⊆ _; decide) | (intro _) | split | (dsimp +zetaDelta only [id]))

theorem record_law (kind : Nat) (data : List Nat) (a : StewAct) (s : State) :
    Law [.steer, .stew, .sent] s (record kind data a s) := by
  unfold record
  repeat' (first
    | extract_lets | with_reducible exact Law.refl _ _ | with_reducible assumption | with_reducible apply Law.step (twinSend_law _ _ _)
    | with_reducible apply Law.step (onStew_law _ _) | with_reducible apply Law.step (applyRecord_law _ _)
    | with_reducible refine Law.foldl _ _ _ ?_ ?_ | (show (_ : List Part) ⊆ _; decide) | (show (_ : List Part) ⊆ _; decide) | (intro _)
    | split | (dsimp +zetaDelta only [id]))

theorem recordMember_law (m : Nat) (k : Member) (s : State) :
    Law [.steer, .stew, .sent] s (recordMember m k s) := by
  unfold recordMember
  repeat' (first
    | extract_lets | with_reducible exact Law.refl _ _ | with_reducible assumption | with_reducible apply Law.step (record_law _ _ _ _)
    | with_reducible refine Law.foldl _ _ _ ?_ ?_ | (show (_ : List Part) ⊆ _; decide) | (show (_ : List Part) ⊆ _; decide) | (intro _)
    | split | (dsimp +zetaDelta only [id]))

theorem issueChart_law (flags : Nat) (commit : Nat) (ms : List Nat) (es : List ChEnt) (submit : Option (Nat × Nat)) (s : State) :
    Law [.steer, .stew, .sent] s (issueChart flags commit ms es submit s) := by
  unfold issueChart
  repeat' (first
    | extract_lets | with_reducible exact Law.refl _ _ | with_reducible assumption | with_reducible apply Law.step (updIssued_law _ _ _)
    | with_reducible apply Law.step (record_law _ _ _ _) | with_reducible refine Law.foldl _ _ _ ?_ ?_
    | (show (_ : List Part) ⊆ _; decide) | (show (_ : List Part) ⊆ _; decide) | (intro _) | split | (dsimp +zetaDelta only [id]))

theorem replan_law (s : State) :
    Law [.steer, .stew, .sent] s (replan s) := by
  unfold replan
  repeat' (first
    | extract_lets | with_reducible exact Law.refl _ _ | with_reducible assumption
    | with_reducible apply Law.step (issueChart_law _ _ _ _ _ _) | with_reducible refine Law.foldl _ _ _ ?_ ?_
    | (show (_ : List Part) ⊆ _; decide) | (show (_ : List Part) ⊆ _; decide) | (intro _) | split | (dsimp +zetaDelta only [id]))

theorem reduce_law (gone : List Nat) (drop : ChEnt → Bool) (s : State) :
    Law [.steer, .stew, .sent] s (reduce gone drop s) := by
  unfold reduce
  repeat' (first
    | extract_lets | with_reducible exact Law.refl _ _ | with_reducible assumption
    | with_reducible apply Law.step (issueChart_law _ _ _ _ _ _) | with_reducible refine Law.foldl _ _ _ ?_ ?_
    | (show (_ : List Part) ⊆ _; decide) | (show (_ : List Part) ⊆ _; decide) | (intro _) | split | (dsimp +zetaDelta only [id]))

theorem orderSlot_law (j : Nat) (action : Nat) (step : Nat) (number : Nat) (x : JobSlot) (s : State) :
    Law [.steer, .stew, .sent] s (orderSlot j action step number x s) := by
  unfold orderSlot
  repeat' (first
    | extract_lets | with_reducible exact Law.refl _ _ | with_reducible assumption | with_reducible apply Law.step (record_law _ _ _ _)
    | with_reducible refine Law.foldl _ _ _ ?_ ?_ | (show (_ : List Part) ⊆ _; decide) | (show (_ : List Part) ⊆ _; decide) | (intro _)
    | split | (dsimp +zetaDelta only [id]))

theorem bindAll_law (jn : Nat) (gone : List Nat) (s : State) :
    Law [.steer, .stew, .sent] s (bindAll jn gone s) := by
  unfold bindAll
  repeat' (first
    | extract_lets | with_reducible exact Law.refl _ _ | with_reducible assumption | with_reducible apply Law.step (record_law _ _ _ _)
    | with_reducible refine Law.foldl _ _ _ ?_ ?_ | (show (_ : List Part) ⊆ _; decide) | (show (_ : List Part) ⊆ _; decide) | (intro _)
    | split | (dsimp +zetaDelta only [id]))

theorem startPlace_law (jn : Nat) (m : Nat) (s : State) :
    Law [.tally, .log, .steer, .stew, .sent] s (startPlace jn m s) := by
  unfold startPlace
  repeat' (first
    | extract_lets | with_reducible exact Law.refl _ _ | with_reducible assumption
    | with_reducible apply Law.step (logRec_law _ _ _ _ _ _ _) | with_reducible apply Law.step (updJob_law _ _ _)
    | with_reducible apply Law.step (orderSlot_law _ _ _ _ _ _) | with_reducible apply Law.step (bindAll_law _ _ _)
    | with_reducible refine Law.foldl _ _ _ ?_ ?_ | (show (_ : List Part) ⊆ _; decide) | (show (_ : List Part) ⊆ _; decide) | (intro _)
    | split | (dsimp +zetaDelta only [id]))

theorem declareFailed_law (m : Nat) (cause : Nat) (s : State) :
    Law [.tally, .log, .steer, .stew, .sent] s (declareFailed m cause s) := by
  unfold declareFailed
  repeat' (first
    | extract_lets | with_reducible exact Law.refl _ _ | with_reducible assumption
    | with_reducible apply Law.step (logRec_law _ _ _ _ _ _ _) | with_reducible apply Law.step (updMember_law _ _ _)
    | with_reducible apply Law.step (record_law _ _ _ _) | with_reducible apply Law.step (recordMember_law _ _ _)
    | with_reducible apply Law.step (reduce_law _ _ _) | with_reducible apply Law.step (startPlace_law _ _ _)
    | with_reducible refine Law.foldl _ _ _ ?_ ?_ | (show (_ : List Part) ⊆ _; decide) | (show (_ : List Part) ⊆ _; decide) | (intro _)
    | split | (dsimp +zetaDelta only [id]))

theorem contain_law (m : Nat) (s : State) :
    Law [.tally, .log, .steer, .stew, .sent] s (contain m s) := by
  unfold contain
  repeat' (first
    | extract_lets | with_reducible exact Law.refl _ _ | with_reducible assumption
    | with_reducible apply Law.step (logRec_law _ _ _ _ _ _ _) | with_reducible apply Law.step (onSteer_law _ _)
    | with_reducible apply Law.step (record_law _ _ _ _) | with_reducible apply Law.step (reduce_law _ _ _)
    | with_reducible apply Law.step (declareFailed_law _ _ _) | with_reducible refine Law.foldl _ _ _ ?_ ?_
    | (show (_ : List Part) ⊆ _; decide) | (show (_ : List Part) ⊆ _; decide) | (intro _) | split | (dsimp +zetaDelta only [id]))

theorem placeGo_law (jn : Nat) (s : State) :
    Law [.tally, .log, .steer, .stew, .sent] s (placeGo jn s) := by
  unfold placeGo
  repeat' (first
    | extract_lets | with_reducible exact Law.refl _ _ | with_reducible assumption
    | with_reducible apply Law.step (logRec_law _ _ _ _ _ _ _) | with_reducible apply Law.step (updJob_law _ _ _)
    | with_reducible apply Law.step (record_law _ _ _ _) | with_reducible apply Law.step (recordMember_law _ _ _)
    | with_reducible apply Law.step (replan_law _) | with_reducible apply Law.step (orderSlot_law _ _ _ _ _ _)
    | with_reducible refine Law.foldl _ _ _ ?_ ?_ | (show (_ : List Part) ⊆ _; decide) | (show (_ : List Part) ⊆ _; decide) | (intro _)
    | split | (dsimp +zetaDelta only [id]))

theorem placeAll_law (s : State) :
    Law [.tally, .log, .steer, .stew, .sent] s (placeAll s) := by
  unfold placeAll
  repeat' (first
    | extract_lets | with_reducible exact Law.refl _ _ | with_reducible assumption | with_reducible apply Law.step (placeGo_law _ _)
    | with_reducible refine Law.foldl _ _ _ ?_ ?_ | (show (_ : List Part) ⊆ _; decide) | (show (_ : List Part) ⊆ _; decide) | (intro _)
    | split | (dsimp +zetaDelta only [id]))

theorem resumeJob_law (jn : Nat) (s : State) :
    Law [.tally, .log, .steer, .stew, .sent] s (resumeJob jn s) := by
  unfold resumeJob
  repeat' (first
    | extract_lets | with_reducible exact Law.refl _ _ | with_reducible assumption
    | with_reducible apply Law.step (logRec_law _ _ _ _ _ _ _) | with_reducible apply Law.step (updJob_law _ _ _)
    | with_reducible apply Law.step (orderSlot_law _ _ _ _ _ _) | with_reducible refine Law.foldl _ _ _ ?_ ?_
    | (show (_ : List Part) ⊆ _; decide) | (show (_ : List Part) ⊆ _; decide) | (intro _) | split | (dsimp +zetaDelta only [id]))

theorem stopSteward_law (cause : Nat) (holder : Nat) (s : State) :
    Law [.tally, .log, .stew] s (stopSteward cause holder s) := by
  unfold stopSteward
  repeat' (first
    | extract_lets | with_reducible exact Law.refl _ _ | with_reducible assumption
    | with_reducible apply Law.step (logRec_law _ _ _ _ _ _ _) | with_reducible apply Law.step (onStew_law _ _)
    | with_reducible refine Law.foldl _ _ _ ?_ ?_ | (show (_ : List Part) ⊆ _; decide) | (show (_ : List Part) ⊆ _; decide) | (intro _)
    | split | (dsimp +zetaDelta only [id]))

theorem recv_law {L : List Part} {s₀ : State} (h : Hdr) (kind : Nat) (steward : Bool) (s : State) (act : State → State) (h₀ : Law L s₀ s) (h_act : ∀ (y0 : State), Law L s₀ y0 → Law L s₀ (act y0)) (hL : [.tally, .log, .steer, .stew, .sent] ⊆ L) :
    Law L s₀ (recv h kind steward s act) := by
  unfold recv
  repeat' (first
    | extract_lets | with_reducible exact Law.refl _ _ | with_reducible assumption | with_reducible apply h_act
    | with_reducible apply Law.step (ctlSend_law _ _ _ _) | with_reducible apply Law.step (countHub_law _ _ _ _)
    | with_reducible apply Law.step (logRec_law _ _ _ _ _ _ _) | with_reducible apply Law.step (onSteer_law _ _)
    | with_reducible apply Law.step (onStew_law _ _) | with_reducible apply Law.step (stopSteward_law _ _ _)
    | with_reducible refine Law.foldl _ _ _ ?_ ?_ | (show (_ : List Part) ⊆ _; exact List.Subset.trans (by decide) hL)
    | (show (_ : List Part) ⊆ _; exact List.Subset.trans (by decide) hL) | (intro _) | split | (dsimp +zetaDelta only [id]))

end Sys2Proof.Machine
end

