-- ==== Sys2Proof/Laws/Steering.lean ====
section
/-! SUPPORT. What each operation of Machine/Steering.lean may touch, one lemma for each, and that it keeps memory in its canonical form. -/

set_option maxRecDepth 4000
set_option linter.all false

namespace Sys2Proof.Machine

theorem setGaz_law (p : Nat) (g : Gaz) (s : State) :
    Law [.steer] s (setGaz p g s) := by
  unfold setGaz
  repeat' (first
    | extract_lets | with_reducible exact Law.refl _ _ | with_reducible assumption | with_reducible apply Law.step (onSteer_law _ _)
    | with_reducible refine Law.foldl _ _ _ ?_ ?_ | (show (_ : List Part) ⊆ _; decide) | (show (_ : List Part) ⊆ _; decide) | (intro _)
    | split | (dsimp +zetaDelta only [id]))

theorem sweepSide_law (half : Nat) (p : Nat) (rx : Bool) (s : State) :
    Law [.fab] s (sweepSide half p rx s) := by
  unfold sweepSide
  repeat' (first
    | extract_lets | with_reducible exact Law.refl _ _ | with_reducible assumption | with_reducible apply Law.step (setLane_law _ _ _ _ _)
    | with_reducible refine Law.foldl _ _ _ ?_ ?_ | (show (_ : List Part) ⊆ _; decide) | (show (_ : List Part) ⊆ _; decide) | (intro _)
    | split | (dsimp +zetaDelta only [id]))

theorem startSweep_law (planes : List Nat) (half : Nat) (s : State) :
    Law [.fab] s (startSweep planes half s) := by
  unfold startSweep
  repeat' (first
    | extract_lets | with_reducible exact Law.refl _ _ | with_reducible assumption | with_reducible apply Law.step (sweepSide_law _ _ _ _)
    | with_reducible refine Law.foldl _ _ _ ?_ ?_ | (show (_ : List Part) ⊆ _; decide) | (show (_ : List Part) ⊆ _; decide) | (intro _)
    | split | (dsimp +zetaDelta only [id]))

theorem darkPlane_law (s : State) (p : Nat) :
    Law [.fab] s (darkPlane s p) := by
  unfold darkPlane
  repeat' (first
    | extract_lets | with_reducible exact Law.refl _ _ | with_reducible assumption | with_reducible apply Law.step (setLane_law _ _ _ _ _)
    | with_reducible refine Law.foldl _ _ _ ?_ ?_ | (show (_ : List Part) ⊆ _; decide) | (show (_ : List Part) ⊆ _; decide) | (intro _)
    | split | (dsimp +zetaDelta only [id]))

theorem startSurvey_law (planes : List Nat) (ring : Option (Nat × Nat)) (s : State) :
    Law [.fab, .steer] s (startSurvey planes ring s) := by
  unfold startSurvey
  repeat' (first
    | extract_lets | with_reducible exact Law.refl _ _ | with_reducible assumption | with_reducible apply Law.step (updFab_law _ _ _)
    | with_reducible apply Law.step (onSteer_law _ _) | with_reducible apply Law.step (setGaz_law _ _ _)
    | with_reducible apply Law.step (startSweep_law _ _ _) | with_reducible refine Law.foldl _ _ _ ?_ ?_
    | (show (_ : List Part) ⊆ _; decide) | (show (_ : List Part) ⊆ _; decide) | (intro _) | split | (dsimp +zetaDelta only [id]))

theorem finishPlane_law (v : SurveyRun) (s : State) (p : Nat) :
    Law [.tally, .log, .steer] s (finishPlane v s p) := by
  unfold finishPlane
  repeat' (first
    | extract_lets | with_reducible exact Law.refl _ _ | with_reducible assumption
    | with_reducible apply Law.step (logRec_law _ _ _ _ _ _ _) | with_reducible apply Law.step (setGaz_law _ _ _)
    | with_reducible refine Law.foldl _ _ _ ?_ ?_ | (show (_ : List Part) ⊆ _; decide) | (show (_ : List Part) ⊆ _; decide) | (intro _)
    | split | (dsimp +zetaDelta only [id]))

theorem sendSurvey_law (s : State) :
    Law [.stew, .sent] s (sendSurvey s) := by
  unfold sendSurvey
  repeat' (first
    | extract_lets | with_reducible exact Law.refl _ _ | with_reducible assumption | with_reducible apply Law.step (ctlSend_law _ _ _ _)
    | with_reducible refine Law.foldl _ _ _ ?_ ?_ | (show (_ : List Part) ⊆ _; decide) | (show (_ : List Part) ⊆ _; decide) | (intro _)
    | split | (dsimp +zetaDelta only [id]))

theorem leaveSurvey_law (s : State) :
    Law [.host, .hst, .tally, .log, .stew, .boot, .side, .sent] s (leaveSurvey s) := by
  unfold leaveSurvey
  repeat' (first
    | extract_lets | with_reducible exact Law.refl _ _ | with_reducible assumption
    | with_reducible apply Law.step (announceState_law _ _ _) | with_reducible apply Law.step (startSync_law _)
    | with_reducible refine Law.foldl _ _ _ ?_ ?_ | (show (_ : List Part) ⊆ _; decide) | (show (_ : List Part) ⊆ _; decide) | (intro _)
    | split | with_reducible refine Law.set_boot _ (by decide) ?_ | (dsimp +zetaDelta only [id]))

theorem endSurvey_law (v : SurveyRun) (s : State) :
    Law [.host, .hst, .tally, .log, .fab, .steer, .stew, .boot, .side, .sent] s (endSurvey v s) := by
  unfold endSurvey
  repeat' (first
    | extract_lets | with_reducible exact Law.refl _ _ | with_reducible assumption
    | with_reducible apply Law.step (completeBy_law _ _ _ _ _ _) | with_reducible apply Law.step (onSteer_law _ _)
    | with_reducible apply Law.step (darkPlane_law _ _) | with_reducible apply Law.step (finishPlane_law _ _ _)
    | with_reducible apply Law.step (sendSurvey_law _) | with_reducible apply Law.step (leaveSurvey_law _)
    | with_reducible refine Law.foldl _ _ _ ?_ ?_ | (show (_ : List Part) ⊆ _; decide) | (show (_ : List Part) ⊆ _; decide) | (intro _)
    | split | with_reducible refine Law.set_boot _ (by decide) ?_ | (dsimp +zetaDelta only [id]))

theorem execSurveySweepEnd_law (frames : List SurveyFrame) (s : State) :
    OutLaw [.host, .hst, .tally, .log, .fab, .steer, .stew, .boot, .side, .sent] s (execSurveySweepEnd frames s) := by
  unfold execSurveySweepEnd
  repeat' (first
    | with_reducible refine OutLaw.next ?_ | extract_lets | with_reducible exact Law.refl _ _ | with_reducible assumption
    | with_reducible apply Law.step (onSteer_law _ _) | with_reducible apply Law.step (startSweep_law _ _ _)
    | with_reducible apply Law.step (endSurvey_law _ _) | with_reducible refine Law.foldl _ _ _ ?_ ?_ | (show (_ : List Part) ⊆ _; decide)
    | (show (_ : List Part) ⊆ _; decide) | (intro _) | split | (dsimp +zetaDelta only [id]))

theorem execSurveyCmd_law (h : Hdr) (mask : Half16) (s : State) :
    OutLaw [.tally, .log, .fab, .steer, .stew, .sent] s (execSurveyCmd h mask s) := by
  unfold execSurveyCmd
  repeat' (first
    | with_reducible refine OutLaw.next ?_ | extract_lets | with_reducible exact Law.refl _ _ | with_reducible assumption
    | with_reducible apply Law.step (logRec_law _ _ _ _ _ _ _) | with_reducible apply Law.step (startSurvey_law _ _ _)
    | with_reducible apply recv_law | with_reducible refine Law.foldl _ _ _ ?_ ?_ | (show (_ : List Part) ⊆ _; decide)
    | (show (_ : List Part) ⊆ _; decide) | (intro _) | split | (dsimp +zetaDelta only [id]))

theorem execSurvey_law (r : RingIx) (s : State) :
    OutLaw [.host, .hst, .tally, .fab, .steer, .sent] s (execSurvey r s) := by
  unfold execSurvey
  repeat' (first
    | with_reducible refine OutLaw.next ?_ | extract_lets | with_reducible exact Law.refl _ _ | with_reducible assumption
    | with_reducible apply Law.step (complete_law _ _ _ _ _) | with_reducible apply Law.step (startEntry_law _ _ _)
    | with_reducible apply onEntry_law | with_reducible apply Law.step (startSurvey_law _ _ _)
    | with_reducible refine Law.foldl _ _ _ ?_ ?_ | (show (_ : List Part) ⊆ _; decide) | (show (_ : List Part) ⊆ _; decide) | (intro _)
    | split | (dsimp +zetaDelta only [id]))

theorem sendStaged_law (dst : Nat) (ed : Half16) (cause : Nat) (s : State) :
    Law [.stew, .sent] s (sendStaged dst ed cause s) := by
  unfold sendStaged
  repeat' (first
    | extract_lets | with_reducible exact Law.refl _ _ | with_reducible assumption | with_reducible apply Law.step (ctlSend_law _ _ _ _)
    | with_reducible refine Law.foldl _ _ _ ?_ ?_ | (show (_ : List Part) ⊆ _; decide) | (show (_ : List Part) ⊆ _; decide) | (intro _)
    | split | (dsimp +zetaDelta only [id]))

theorem takeChart_law (dst : Nat) (c : List Byte) (s : State) :
    Law [.tally, .log, .steer, .stew, .sent] s (takeChart dst c s) := by
  unfold takeChart
  repeat' (first
    | extract_lets | with_reducible exact Law.refl _ _ | with_reducible assumption
    | with_reducible apply Law.step (logRec_law _ _ _ _ _ _ _) | with_reducible apply Law.step (onSteer_law _ _)
    | with_reducible apply Law.step (sendStaged_law _ _ _ _) | with_reducible refine Law.foldl _ _ _ ?_ ?_
    | (show (_ : List Part) ⊆ _; decide) | (show (_ : List Part) ⊆ _; decide) | (intro _) | split | (dsimp +zetaDelta only [id]))

theorem execChartPart_law (h : Hdr) (edition : Half16) (part : Nat) (parts : Nat) (crc : Word) (bytes : List Byte) (s : State) :
    OutLaw [.tally, .log, .steer, .stew, .sent] s (execChartPart h edition part parts crc bytes s) := by
  unfold execChartPart
  repeat' (first
    | with_reducible refine OutLaw.next ?_ | extract_lets | with_reducible exact Law.refl _ _ | with_reducible assumption
    | with_reducible apply Law.step (logRec_law _ _ _ _ _ _ _) | with_reducible apply Law.step (onSteer_law _ _)
    | with_reducible apply Law.step (sendStaged_law _ _ _ _) | with_reducible apply Law.step (takeChart_law _ _ _)
    | with_reducible apply recv_law | with_reducible refine Law.foldl _ _ _ ?_ ?_ | (show (_ : List Part) ⊆ _; decide)
    | (show (_ : List Part) ⊆ _; decide) | (intro _) | split | (dsimp +zetaDelta only [id]))

theorem darken_law (p : Nat) (l : Nat) (rx : Bool) (s : State) :
    Law [.fab] s (darken p l rx s) := by
  unfold darken
  repeat' (first
    | extract_lets | with_reducible exact Law.refl _ _ | with_reducible assumption | with_reducible apply Law.step (setLane_law _ _ _ _ _)
    | with_reducible refine Law.foldl _ _ _ ?_ ?_ | (show (_ : List Part) ⊆ _; decide) | (show (_ : List Part) ⊆ _; decide) | (intro _)
    | split | (dsimp +zetaDelta only [id]))

theorem clearPair_law (p : Nat) (l : Nat) (s : State) :
    Law [.tally, .log, .fab] s (clearPair p l s) := by
  unfold clearPair
  repeat' (first
    | extract_lets | with_reducible exact Law.refl _ _ | with_reducible assumption | with_reducible apply Law.step (pairClear_law _ _ _)
    | with_reducible apply Law.step (darken_law _ _ _ _) | with_reducible refine Law.foldl _ _ _ ?_ ?_
    | (show (_ : List Part) ⊆ _; decide) | (show (_ : List Part) ⊆ _; decide) | (intro _) | split | (dsimp +zetaDelta only [id]))

theorem leavePair_law (p : Nat) (l : Nat) (s : State) :
    Law [.tally, .log, .fab, .link] s (leavePair p l s) := by
  unfold leavePair
  repeat' (first
    | extract_lets | with_reducible exact Law.refl _ _ | with_reducible assumption | with_reducible apply Law.step (pairGone_law _ _ _)
    | with_reducible apply Law.step (clearPair_law _ _ _) | with_reducible refine Law.foldl _ _ _ ?_ ?_
    | (show (_ : List Part) ⊆ _; decide) | (show (_ : List Part) ⊆ _; decide) | (intro _) | split | (dsimp +zetaDelta only [id]))

theorem lightPair_law (p : Nat) (peer : Nat) (ch : Nat × Nat) (from_ : Half16) (loop : Bool) (s : State) :
    Law [.fab] s (lightPair p peer ch from_ loop s) := by
  unfold lightPair
  repeat' (first
    | extract_lets | with_reducible exact Law.refl _ _ | with_reducible assumption | with_reducible apply Law.step (setPair_law _ _ _ _)
    | with_reducible apply Law.step (setTx_law _ _ _ _) | with_reducible apply Law.step (setRx_law _ _ _ _)
    | with_reducible refine Law.foldl _ _ _ ?_ ?_ | (show (_ : List Part) ⊆ _; decide) | (show (_ : List Part) ⊆ _; decide) | (intro _)
    | split | (dsimp +zetaDelta only [id]))

theorem rejoin_law (p : Nat) (l : Nat) (from_ : Half16) (s : State) :
    Law [.freeCtr, .tally, .log, .fab, .link, .sent] s (rejoin p l from_ s) := by
  unfold rejoin
  dsimp only [drawFree]
  repeat' (first
    | extract_lets | with_reducible exact Law.refl _ _ | with_reducible assumption | with_reducible apply Law.step (toRetrain_law _ _ _ _)
    | with_reducible apply Law.step (pairGone_law _ _ _) | with_reducible apply Law.step (pairClear_law _ _ _)
    | with_reducible apply Law.step (startAgain_law _ _ _) | with_reducible apply Law.step (updPair_law _ _ _ _)
    | with_reducible refine Law.foldl _ _ _ ?_ ?_ | (show (_ : List Part) ⊆ _; decide) | (show (_ : List Part) ⊆ _; decide) | (intro _)
    | split | with_reducible refine Law.set_freeCtr _ (by decide) ?_ | (dsimp +zetaDelta only [id]))

theorem takeEnt_law (c : List Byte) (s : State) (e : ChEnt) :
    Law [.freeCtr, .tally, .log, .fab, .link, .steer, .sent] s (takeEnt c s e) := by
  unfold takeEnt
  repeat' (first
    | extract_lets | with_reducible exact Law.refl _ _ | with_reducible assumption | with_reducible apply Law.step (updPair_law _ _ _ _)
    | with_reducible apply Law.step (onSteer_law _ _) | with_reducible apply Law.step (lightPair_law _ _ _ _ _ _)
    | with_reducible apply Law.step (rejoin_law _ _ _ _) | with_reducible refine Law.foldl _ _ _ ?_ ?_
    | (show (_ : List Part) ⊆ _; decide) | (show (_ : List Part) ⊆ _; decide) | (intro _) | split | (dsimp +zetaDelta only [id]))

theorem takePlanes_law (ps : List Nat) (s : State) :
    Law [.freeCtr, .tally, .log, .fab, .link, .steer, .sent] s (takePlanes ps s) := by
  unfold takePlanes
  repeat' (first
    | extract_lets | with_reducible exact Law.refl _ _ | with_reducible assumption | with_reducible apply Law.step (pairGone_law _ _ _)
    | with_reducible apply Law.step (clearPair_law _ _ _) | with_reducible apply Law.step (takeEnt_law _ _ _)
    | with_reducible refine Law.foldl _ _ _ ?_ ?_ | (show (_ : List Part) ⊆ _; decide) | (show (_ : List Part) ⊆ _; decide) | (intro _)
    | split | (dsimp +zetaDelta only [id]))

theorem applyDeferred_law (s : State) :
    Law [.freeCtr, .tally, .log, .fab, .link, .steer, .sent] s (applyDeferred s) := by
  unfold applyDeferred
  repeat' (first
    | extract_lets | with_reducible exact Law.refl _ _ | with_reducible assumption | with_reducible apply Law.step (onSteer_law _ _)
    | with_reducible apply Law.step (takePlanes_law _ _) | with_reducible refine Law.foldl _ _ _ ?_ ?_
    | (show (_ : List Part) ⊆ _; decide) | (show (_ : List Part) ⊆ _; decide) | (intro _) | split | (dsimp +zetaDelta only [id]))

theorem completeDemands_law (s : State) :
    Law [.host, .hst, .tally, .steer, .sent] s (completeDemands s) := by
  unfold completeDemands
  repeat' (first
    | extract_lets | with_reducible exact Law.refl _ _ | with_reducible assumption
    | with_reducible apply Law.step (completeBy_law _ _ _ _ _ _) | with_reducible apply Law.step (onSteer_law _ _)
    | with_reducible refine Law.foldl _ _ _ ?_ ?_ | (show (_ : List Part) ⊆ _; decide) | (show (_ : List Part) ⊆ _; decide) | (intro _)
    | split | (dsimp +zetaDelta only [id]))

theorem applyChart_law (s : State) :
    Law [.freeCtr, .mem, .host, .cores, .clus, .ctxs, .ddr, .hst, .idb, .rst, .tally, .log, .fab, .link, .steer, .stew, .ckpt, .boot, .pins, .side, .sent] s (applyChart s) := by
  unfold applyChart
  repeat' (first
    | extract_lets | with_reducible exact Law.refl _ _ | with_reducible assumption | with_reducible apply Law.step (switchEnded_law _)
    | with_reducible apply Law.step (removeCheck_law _) | with_reducible apply Law.step (releaseWait_law _ _ _)
    | with_reducible apply Law.step (logRec_law _ _ _ _ _ _ _) | with_reducible apply Law.step (pump_law _)
    | with_reducible apply Law.step (onSteer_law _ _) | with_reducible apply Law.step (takePlanes_law _ _)
    | with_reducible apply Law.step (completeDemands_law _) | with_reducible refine Law.foldl _ _ _ ?_ ?_
    | (show (_ : List Part) ⊆ _; decide) | (show (_ : List Part) ⊆ _; decide) | (intro _) | split | (dsimp +zetaDelta only [id]))

theorem execChartCommit_law (s : State) :
    OutLaw [.freeCtr, .mem, .host, .cores, .clus, .ctxs, .ddr, .hst, .idb, .rst, .tally, .log, .fab, .link, .steer, .stew, .ckpt, .boot, .pins, .side, .sent] s (execChartCommit s) := by
  unfold execChartCommit
  repeat' (first
    | with_reducible refine OutLaw.next ?_ | extract_lets | with_reducible exact Law.refl _ _ | with_reducible assumption
    | with_reducible apply Law.step (applyChart_law _) | with_reducible refine Law.foldl _ _ _ ?_ ?_ | (show (_ : List Part) ⊆ _; decide)
    | (show (_ : List Part) ⊆ _; decide) | (intro _) | split | (dsimp +zetaDelta only [id]))

theorem sendApplied_law (body : List Nat) (s : State) :
    Law [.stew, .sent] s (sendApplied body s) := by
  unfold sendApplied
  repeat' (first
    | extract_lets | with_reducible exact Law.refl _ _ | with_reducible assumption | with_reducible apply Law.step (ctlSend_law _ _ _ _)
    | with_reducible refine Law.foldl _ _ _ ?_ ?_ | (show (_ : List Part) ⊆ _; decide) | (show (_ : List Part) ⊆ _; decide) | (intro _)
    | split | (dsimp +zetaDelta only [id]))

theorem finishApply_law (s : State) :
    Law [.freeCtr, .mem, .host, .cores, .clus, .ctxs, .ddr, .hst, .idb, .rst, .tally, .log, .fab, .link, .steer, .stew, .ckpt, .boot, .pins, .side, .sent] s (finishApply s) := by
  unfold finishApply
  repeat' (first
    | extract_lets | with_reducible exact Law.refl _ _ | with_reducible assumption | with_reducible apply Law.step (switchEnded_law _)
    | with_reducible apply Law.step (logRec_law _ _ _ _ _ _ _) | with_reducible apply Law.step (onSteer_law _ _)
    | with_reducible apply Law.step (leaveSurvey_law _) | with_reducible apply Law.step (applyChart_law _)
    | with_reducible apply Law.step (sendApplied_law _ _) | with_reducible refine Law.foldl _ _ _ ?_ ?_
    | (show (_ : List Part) ⊆ _; decide) | (show (_ : List Part) ⊆ _; decide) | (intro _) | split | (dsimp +zetaDelta only [id]))

theorem execChartApplyDeadline_law (s : State) :
    OutLaw [.freeCtr, .mem, .host, .cores, .clus, .ctxs, .ddr, .hst, .idb, .rst, .tally, .log, .fab, .link, .steer, .stew, .ckpt, .boot, .pins, .side, .sent] s (execChartApplyDeadline s) := by
  unfold execChartApplyDeadline
  repeat' (first
    | with_reducible refine OutLaw.next ?_ | extract_lets | with_reducible exact Law.refl _ _ | with_reducible assumption
    | with_reducible apply Law.step (applyDeferred_law _) | with_reducible apply Law.step (finishApply_law _)
    | with_reducible refine Law.foldl _ _ _ ?_ ?_ | (show (_ : List Part) ⊆ _; decide) | (show (_ : List Part) ⊆ _; decide) | (intro _)
    | split | (dsimp +zetaDelta only [id]))

theorem execChartControlResend_law (m : Modu) (s : State) :
    OutLaw [.fab, .link, .stew] s (execChartControlResend m s) := by
  unfold execChartControlResend
  repeat' (first
    | with_reducible refine OutLaw.next ?_ | extract_lets | with_reducible exact Law.refl _ _ | with_reducible assumption
    | with_reducible apply Law.step (sendChartFabric_law _ _ _) | with_reducible refine Law.foldl _ _ _ ?_ ?_
    | (show (_ : List Part) ⊆ _; decide) | (show (_ : List Part) ⊆ _; decide) | (intro _) | split | (dsimp +zetaDelta only [id]))

theorem execStaged_law (h : Hdr) (edition : Half16) (cause : Nat) (m : Modu) (s : State) :
    OutLaw [.tally, .log, .steer, .stew, .sent] s (execStaged h edition cause m s) := by
  unfold execStaged
  repeat' (first
    | with_reducible refine OutLaw.next ?_ | extract_lets | with_reducible exact Law.refl _ _ | with_reducible assumption
    | with_reducible apply Law.step (record_law _ _ _ _) | with_reducible apply recv_law | with_reducible refine Law.foldl _ _ _ ?_ ?_
    | (show (_ : List Part) ⊆ _; decide) | (show (_ : List Part) ⊆ _; decide) | (intro _) | split | (dsimp +zetaDelta only [id]))

theorem completeSubmits_law (s : State) :
    Law [.host, .hst, .tally, .steer, .sent] s (completeSubmits s) := by
  unfold completeSubmits
  repeat' (first
    | extract_lets | with_reducible exact Law.refl _ _ | with_reducible assumption
    | with_reducible apply Law.step (completeBy_law _ _ _ _ _ _) | with_reducible apply Law.step (updIssued_law _ _ _)
    | with_reducible refine Law.foldl _ _ _ ?_ ?_ | (show (_ : List Part) ⊆ _; decide) | (show (_ : List Part) ⊆ _; decide) | (intro _)
    | split | (dsimp +zetaDelta only [id]))

theorem wrongSlot_law (m : Nat) (d : Nat) (kind : Nat) (p : Nat) (s : State) :
    Law [.tally, .log, .steer, .stew, .sent] s (wrongSlot m d kind p s) := by
  unfold wrongSlot
  repeat' (first
    | extract_lets | with_reducible exact Law.refl _ _ | with_reducible assumption
    | with_reducible apply Law.step (logRec_law _ _ _ _ _ _ _) | with_reducible apply Law.step (onSteer_law _ _)
    | with_reducible apply Law.step (recordMember_law _ _ _) | with_reducible apply Law.step (reduce_law _ _ _)
    | with_reducible refine Law.foldl _ _ _ ?_ ?_ | (show (_ : List Part) ⊆ _; decide) | (show (_ : List Part) ⊆ _; decide) | (intro _)
    | split | (dsimp +zetaDelta only [id]))

theorem execApplied_law (h : Hdr) (edition : Half16) (m : Modu) (_us : Nat) (notUp : List NotUp) (s : State) :
    OutLaw [.host, .hst, .tally, .log, .steer, .stew, .sent] s (execApplied h edition m _us notUp s) := by
  unfold execApplied
  repeat' (first
    | with_reducible refine OutLaw.next ?_ | extract_lets | with_reducible exact Law.refl _ _ | with_reducible assumption
    | with_reducible apply Law.step (onSteer_law _ _) | with_reducible apply Law.step (completeSubmits_law _)
    | with_reducible apply Law.step (wrongSlot_law _ _ _ _ _) | with_reducible apply Law.step (record_law _ _ _ _)
    | with_reducible apply Law.step (placeAll_law _) | with_reducible apply recv_law | with_reducible refine Law.foldl _ _ _ ?_ ?_
    | (show (_ : List Part) ⊆ _; decide) | (show (_ : List Part) ⊆ _; decide) | (intro _) | split | (dsimp +zetaDelta only [id]))

theorem checkOffset_law (s : State) (x : Nat × Nat) :
    Law [.tally, .log, .steer] s (checkOffset s x) := by
  unfold checkOffset
  repeat' (first
    | extract_lets | with_reducible exact Law.refl _ _ | with_reducible assumption
    | with_reducible apply Law.step (logRec_law _ _ _ _ _ _ _) | with_reducible apply Law.step (onSteer_law _ _)
    | with_reducible refine Law.foldl _ _ _ ?_ ?_ | (show (_ : List Part) ⊆ _; decide) | (show (_ : List Part) ⊆ _; decide) | (intro _)
    | split | (dsimp +zetaDelta only [id]))

theorem decideOffsets_law (s : State) :
    Law [.tally, .log, .steer] s (decideOffsets s) := by
  unfold decideOffsets
  repeat' (first
    | extract_lets | with_reducible exact Law.refl _ _ | with_reducible assumption | with_reducible apply Law.step (onSteer_law _ _)
    | with_reducible apply Law.step (checkOffset_law _ _) | with_reducible refine Law.foldl _ _ _ ?_ ?_
    | (show (_ : List Part) ⊆ _; decide) | (show (_ : List Part) ⊆ _; decide) | (intro _) | split | (dsimp +zetaDelta only [id]))

theorem execSurveyReport_law (h : Hdr) (m : Modu) (recs : List GazRec) (addr : BitVec 128) (s : State) :
    OutLaw [.freeCtr, .mem, .host, .cores, .clus, .ctxs, .ddr, .hst, .tally, .log, .fab, .link, .steer, .stew, .ckpt, .boot, .pins, .side, .sent] s (execSurveyReport h m recs addr s) := by
  unfold execSurveyReport
  repeat' (first
    | with_reducible refine OutLaw.next ?_ | extract_lets | with_reducible exact Law.refl _ _ | with_reducible assumption
    | with_reducible apply Law.step (enterFenced_law _ _) | with_reducible apply Law.step (logRec_law _ _ _ _ _ _ _)
    | with_reducible apply Law.step (onSteer_law _ _) | with_reducible apply Law.step (wrongSlot_law _ _ _ _ _)
    | with_reducible apply Law.step (decideOffsets_law _) | with_reducible apply Law.step (recordMember_law _ _ _)
    | with_reducible apply Law.step (replan_law _) | with_reducible apply recv_law | with_reducible refine Law.foldl _ _ _ ?_ ?_
    | (show (_ : List Part) ⊆ _; decide) | (show (_ : List Part) ⊆ _; decide) | (intro _) | split | (dsimp +zetaDelta only [id]))

theorem retryOrContain_law (m : Nat) (i : Issued) (s : State) :
    Law [.host, .hst, .tally, .log, .fab, .link, .steer, .stew, .sent] s (retryOrContain m i s) := by
  unfold retryOrContain
  repeat' (first
    | extract_lets | with_reducible exact Law.refl _ _ | with_reducible assumption
    | with_reducible apply Law.step (logRec_law _ _ _ _ _ _ _) | with_reducible apply Law.step (completeSubmits_law _)
    | with_reducible apply Law.step (updIssued_law _ _ _) | with_reducible apply Law.step (sendChart_law _ _ _)
    | with_reducible apply Law.step (sendChartFabric_law _ _ _) | with_reducible apply Law.step (contain_law _ _)
    | with_reducible refine Law.foldl _ _ _ ?_ ?_ | (show (_ : List Part) ⊆ _; decide) | (show (_ : List Part) ⊆ _; decide) | (intro _)
    | split | (dsimp +zetaDelta only [id]))

theorem execLateModule_law (m : Modu) (s : State) :
    OutLaw [.host, .hst, .tally, .log, .fab, .link, .steer, .stew, .sent] s (execLateModule m s) := by
  unfold execLateModule
  repeat' (first
    | with_reducible refine OutLaw.next ?_ | extract_lets | with_reducible exact Law.refl _ _ | with_reducible assumption
    | with_reducible apply Law.step (logRec_law _ _ _ _ _ _ _) | with_reducible apply Law.step (onSteer_law _ _)
    | with_reducible apply Law.step (retryOrContain_law _ _ _) | with_reducible refine Law.foldl _ _ _ ?_ ?_
    | (show (_ : List Part) ⊆ _; decide) | (show (_ : List Part) ⊆ _; decide) | (intro _) | split | (dsimp +zetaDelta only [id]))

theorem execRetryWaitExpiry_law (m : Modu) (s : State) :
    OutLaw [.host, .hst, .tally, .log, .fab, .link, .steer, .stew, .sent] s (execRetryWaitExpiry m s) := by
  unfold execRetryWaitExpiry
  repeat' (first
    | with_reducible refine OutLaw.next ?_ | extract_lets | with_reducible exact Law.refl _ _ | with_reducible assumption
    | with_reducible apply Law.step (retryOrContain_law _ _ _) | with_reducible refine Law.foldl _ _ _ ?_ ?_
    | (show (_ : List Part) ⊆ _; decide) | (show (_ : List Part) ⊆ _; decide) | (intro _) | split | (dsimp +zetaDelta only [id]))

theorem execChartRead_law (r : RingIx) (s : State) :
    OutLaw [.freeCtr, .mem, .host, .cores, .clus, .ddr, .hst, .tally, .ckpt, .sent] s (execChartRead r s) := by
  unfold execChartRead
  repeat' (first
    | with_reducible refine OutLaw.next ?_ | extract_lets | with_reducible exact Law.refl _ _ | with_reducible assumption
    | with_reducible apply Law.step (writeTable_law _ _ _ _ _) | with_reducible apply Law.step (complete_law _ _ _ _ _)
    | with_reducible apply onEntry_law | with_reducible refine Law.foldl _ _ _ ?_ ?_ | (show (_ : List Part) ⊆ _; decide)
    | (show (_ : List Part) ⊆ _; decide) | (intro _) | split | (dsimp +zetaDelta only [id]))

theorem setDemand_law (m : Nat) (c : Nat) (bs : List Byte) (s : State) :
    Law [.steer] s (setDemand m c bs s) := by
  unfold setDemand
  repeat' (first
    | extract_lets | with_reducible exact Law.refl _ _ | with_reducible assumption | with_reducible apply Law.step (onSteer_law _ _)
    | with_reducible refine Law.foldl _ _ _ ?_ ?_ | (show (_ : List Part) ⊆ _; decide) | (show (_ : List Part) ⊆ _; decide) | (intro _)
    | split | (dsimp +zetaDelta only [id]))

theorem planNow_law (s : State) :
    Law [.steer, .stew, .sent] s (planNow s) := by
  unfold planNow
  repeat' (first
    | extract_lets | with_reducible exact Law.refl _ _ | with_reducible assumption
    | with_reducible apply Law.step (issueChart_law _ _ _ _ _ _) | with_reducible refine Law.foldl _ _ _ ?_ ?_
    | (show (_ : List Part) ⊆ _; decide) | (show (_ : List Part) ⊆ _; decide) | (intro _) | split | (dsimp +zetaDelta only [id]))

theorem execDemand_law (r : RingIx) (passed : Option (Modu × Ctx × List Byte)) (s : State) :
    OutLaw [.freeCtr, .mem, .host, .cores, .clus, .ctxs, .ddr, .hst, .idb, .rst, .tally, .log, .fab, .link, .steer, .stew, .ckpt, .boot, .pins, .side, .sent] s (execDemand r passed s) := by
  unfold execDemand
  repeat' (first
    | with_reducible refine OutLaw.next ?_ | extract_lets | with_reducible exact Law.refl _ _ | with_reducible assumption
    | with_reducible apply withTable_law | with_reducible apply Law.step (complete_law _ _ _ _ _)
    | with_reducible apply Law.step (send_law _ _ _ _) | with_reducible apply Law.step (onSteer_law _ _)
    | with_reducible apply Law.step (startEntry_law _ _ _) | with_reducible apply onEntry_law
    | with_reducible apply Law.step (setDemand_law _ _ _ _) | with_reducible apply Law.step (planNow_law _)
    | with_reducible refine Law.foldl _ _ _ ?_ ?_ | (show (_ : List Part) ⊆ _; decide) | (show (_ : List Part) ⊆ _; decide) | (intro _)
    | split | (dsimp +zetaDelta only [id]))

theorem execDemandTimeout_law (r : RingIx) (s : State) :
    OutLaw [.host, .hst, .tally, .steer, .sent] s (execDemandTimeout r s) := by
  unfold execDemandTimeout
  repeat' (first
    | with_reducible refine OutLaw.next ?_ | extract_lets | with_reducible exact Law.refl _ _ | with_reducible assumption
    | with_reducible apply Law.step (completeBy_law _ _ _ _ _ _) | with_reducible apply Law.step (onSteer_law _ _)
    | with_reducible refine Law.foldl _ _ _ ?_ ?_ | (show (_ : List Part) ⊆ _; decide) | (show (_ : List Part) ⊆ _; decide) | (intro _)
    | split | (dsimp +zetaDelta only [id]))

theorem execChartSubmit_law (r : RingIx) (s : State) :
    OutLaw [.freeCtr, .mem, .host, .cores, .clus, .ctxs, .ddr, .hst, .idb, .rst, .tally, .log, .fab, .link, .steer, .stew, .ckpt, .boot, .pins, .side, .sent] s (execChartSubmit r s) := by
  unfold execChartSubmit
  repeat' (first
    | with_reducible refine OutLaw.next ?_ | extract_lets | with_reducible exact Law.refl _ _ | with_reducible assumption
    | with_reducible apply withTable_law | with_reducible apply Law.step (complete_law _ _ _ _ _)
    | with_reducible apply Law.step (startEntry_law _ _ _) | with_reducible apply onEntry_law
    | with_reducible apply Law.step (updIssued_law _ _ _) | with_reducible apply Law.step (record_law _ _ _ _)
    | with_reducible refine Law.foldl _ _ _ ?_ ?_ | (show (_ : List Part) ⊆ _; decide) | (show (_ : List Part) ⊆ _; decide) | (intro _)
    | split | (dsimp +zetaDelta only [id]))

theorem execLoopTest_law (r : RingIx) (s : State) :
    OutLaw [.host, .hst, .tally, .fab, .steer, .sent] s (execLoopTest r s) := by
  unfold execLoopTest
  repeat' (first
    | with_reducible refine OutLaw.next ?_ | extract_lets | with_reducible exact Law.refl _ _ | with_reducible assumption
    | with_reducible apply Law.step (complete_law _ _ _ _ _) | with_reducible apply Law.step (onSteer_law _ _)
    | with_reducible apply Law.step (startEntry_law _ _ _) | with_reducible apply onEntry_law
    | with_reducible apply Law.step (lightPair_law _ _ _ _ _ _) | with_reducible refine Law.foldl _ _ _ ?_ ?_
    | (show (_ : List Part) ⊆ _; decide) | (show (_ : List Part) ⊆ _; decide) | (intro _) | split | (dsimp +zetaDelta only [id]))

theorem execLoopTestEnd_law (p : Plane) (ber : Word) (unc : Word) (s : State) :
    OutLaw [.host, .hst, .tally, .log, .fab, .link, .steer, .sent] s (execLoopTestEnd p ber unc s) := by
  unfold execLoopTestEnd
  repeat' (first
    | with_reducible refine OutLaw.next ?_ | extract_lets | with_reducible exact Law.refl _ _ | with_reducible assumption
    | with_reducible apply Law.step (completeBy_law _ _ _ _ _ _) | with_reducible apply Law.step (onSteer_law _ _)
    | with_reducible apply Law.step (leavePair_law _ _ _) | with_reducible refine Law.foldl _ _ _ ?_ ?_
    | (show (_ : List Part) ⊆ _; decide) | (show (_ : List Part) ⊆ _; decide) | (intro _) | split | (dsimp +zetaDelta only [id]))

end Sys2Proof.Machine
end

