-- ==== Sys2Proof/Laws/Handover.lean ====
section
/-! SUPPORT. What each operation of Machine/Handover.lean may touch, one lemma for each, and that it keeps memory in its canonical form. -/

set_option maxRecDepth 4000
set_option linter.all false

namespace Sys2Proof.Machine

theorem execFabHandoverDrainTimeout_law (p : Plane) (s : State) :
    OutLaw [.freeCtr, .tally, .log, .fab, .link, .steer, .sent] s (execFabHandoverDrainTimeout p s) := by
  unfold execFabHandoverDrainTimeout
  repeat' (first
    | with_reducible refine OutLaw.next ?_ | extract_lets | with_reducible exact Law.refl _ _ | with_reducible assumption
    | with_reducible apply Law.step (drainTimeout_law _ _) | with_reducible apply Law.step (applyDeferred_law _)
    | with_reducible refine Law.foldl _ _ _ ?_ ?_ | (show (_ : List Part) ⊆ _; decide) | (show (_ : List Part) ⊆ _; decide) | (intro _)
    | split | (dsimp +zetaDelta only [id]))

theorem execFabSwitchDone_law (p : Plane) (s : State) :
    OutLaw [.freeCtr, .tally, .log, .fab, .link, .steer, .sent] s (execFabSwitchDone p s) := by
  unfold execFabSwitchDone
  repeat' (first
    | with_reducible refine OutLaw.next ?_ | extract_lets | with_reducible exact Law.refl _ _ | with_reducible assumption
    | with_reducible apply Law.step (switchDone_law _ _ _) | with_reducible apply Law.step (applyDeferred_law _)
    | with_reducible refine Law.foldl _ _ _ ?_ ?_ | (show (_ : List Part) ⊆ _; decide) | (show (_ : List Part) ⊆ _; decide) | (intro _)
    | split | (dsimp +zetaDelta only [id]))

theorem execFabRelockDone_law (p : Plane) (ok : Bool) (stallUs : Nat) (s : State) :
    OutLaw [.freeCtr, .mem, .host, .cores, .clus, .ctxs, .ddr, .hst, .tally, .log, .fab, .link, .steer, .stew, .ckpt, .boot, .pins, .side, .sent] s (execFabRelockDone p ok stallUs s) := by
  unfold execFabRelockDone
  repeat' (first
    | with_reducible refine OutLaw.next ?_ | extract_lets | with_reducible exact Law.refl _ _ | with_reducible assumption
    | with_reducible apply Law.step (relockDone_law _ _ _ _) | with_reducible apply Law.step (applyDeferred_law _)
    | with_reducible refine Law.foldl _ _ _ ?_ ?_ | (show (_ : List Part) ⊆ _; decide) | (show (_ : List Part) ⊆ _; decide) | (intro _)
    | split | (dsimp +zetaDelta only [id]))

end Sys2Proof.Machine
end

