-- ==== Sys2Proof/Laws/Steward.lean ====
section
/-! SUPPORT. What each operation of Machine/Steward.lean may touch, one lemma for each, and that it keeps memory in its canonical form. -/

set_option maxRecDepth 4000
set_option linter.all false

namespace Sys2Proof.Machine

theorem onArb_law (f : ArbSt → ArbSt) (s : State) :
    Law [.stew] s (onArb f s) := by
  unfold onArb
  repeat' (first
    | extract_lets | with_reducible exact Law.refl _ _ | with_reducible assumption | with_reducible apply Law.step (onStew_law _ _)
    | with_reducible refine Law.foldl _ _ _ ?_ ?_ | (show (_ : List Part) ⊆ _; decide) | (show (_ : List Part) ⊆ _; decide) | (intro _)
    | split | (dsimp +zetaDelta only [id]))

theorem arbGrant_law (m : Nat) (solicited : Bool) (msgid : Nat) (s : State) :
    Law [.tally, .log, .stew, .sent] s (arbGrant m solicited msgid s) := by
  unfold arbGrant
  repeat' (first
    | extract_lets | with_reducible exact Law.refl _ _ | with_reducible assumption | with_reducible apply Law.step (ctlSend_law _ _ _ _)
    | with_reducible apply Law.step (logRec_law _ _ _ _ _ _ _) | with_reducible apply Law.step (onArb_law _ _)
    | with_reducible refine Law.foldl _ _ _ ?_ ?_ | (show (_ : List Part) ⊆ _; decide) | (show (_ : List Part) ⊆ _; decide) | (intro _)
    | split | (dsimp +zetaDelta only [id]))

theorem arbDeny_law (m : Nat) (cause : Nat) (s : State) :
    Law [.stew, .sent] s (arbDeny m cause s) := by
  unfold arbDeny
  repeat' (first
    | extract_lets | with_reducible exact Law.refl _ _ | with_reducible assumption | with_reducible apply Law.step (ctlSend_law _ _ _ _)
    | with_reducible refine Law.foldl _ _ _ ?_ ?_ | (show (_ : List Part) ⊆ _; decide) | (show (_ : List Part) ⊆ _; decide) | (intro _)
    | split | (dsimp +zetaDelta only [id]))

theorem arbRequest_law (h : Hdr) (b : LeaseReq) (s : State) :
    Law [.tally, .log, .stew, .sent] s (arbRequest h b s) := by
  unfold arbRequest
  repeat' (first
    | extract_lets | with_reducible exact Law.refl _ _ | with_reducible assumption | with_reducible apply Law.step (ctlSend_law _ _ _ _)
    | with_reducible apply Law.step (onArb_law _ _) | with_reducible apply Law.step (arbGrant_law _ _ _ _)
    | with_reducible apply Law.step (arbDeny_law _ _ _) | with_reducible refine Law.foldl _ _ _ ?_ ?_ | (show (_ : List Part) ⊆ _; decide)
    | (show (_ : List Part) ⊆ _; decide) | (intro _) | split | (dsimp +zetaDelta only [id]))

theorem execLeaseReq_law (h : Hdr) (b : LeaseReq) (s : State) :
    OutLaw [.tally, .log, .steer, .stew, .sent] s (execLeaseReq h b s) := by
  unfold execLeaseReq
  repeat' (first
    | with_reducible refine OutLaw.next ?_ | extract_lets | with_reducible exact Law.refl _ _ | with_reducible assumption
    | with_reducible apply recv_law | with_reducible apply Law.step (onArb_law _ _) | with_reducible apply Law.step (arbDeny_law _ _ _)
    | with_reducible apply Law.step (arbRequest_law _ _ _) | with_reducible refine Law.foldl _ _ _ ?_ ?_
    | (show (_ : List Part) ⊆ _; decide) | (show (_ : List Part) ⊆ _; decide) | (intro _) | split | (dsimp +zetaDelta only [id]))

theorem execReleased_law (h : Hdr) (_epoch : Word) (_finalSeq : Nat) (s : State) :
    OutLaw [.tally, .log, .steer, .stew, .sent] s (execReleased h _epoch _finalSeq s) := by
  unfold execReleased
  repeat' (first
    | with_reducible refine OutLaw.next ?_ | extract_lets | with_reducible exact Law.refl _ _ | with_reducible assumption
    | with_reducible apply recv_law | with_reducible apply Law.step (arbGrant_law _ _ _ _) | with_reducible refine Law.foldl _ _ _ ?_ ?_
    | (show (_ : List Part) ⊆ _; decide) | (show (_ : List Part) ⊆ _; decide) | (intro _) | split | (dsimp +zetaDelta only [id]))

theorem execArbiterLeaseExpiry_law (s : State) :
    OutLaw [.tally, .log, .stew, .sent] s (execArbiterLeaseExpiry s) := by
  unfold execArbiterLeaseExpiry
  repeat' (first
    | with_reducible refine OutLaw.next ?_ | extract_lets | with_reducible exact Law.refl _ _ | with_reducible assumption
    | with_reducible apply Law.step (onArb_law _ _) | with_reducible apply Law.step (arbGrant_law _ _ _ _)
    | with_reducible refine Law.foldl _ _ _ ?_ ?_ | (show (_ : List Part) ⊆ _; decide) | (show (_ : List Part) ⊆ _; decide) | (intro _)
    | split | (dsimp +zetaDelta only [id]))

theorem execArbiterStartingEnd_law (s : State) :
    OutLaw [.stew] s (execArbiterStartingEnd s) := by
  unfold execArbiterStartingEnd
  repeat' (first
    | with_reducible refine OutLaw.next ?_ | extract_lets | with_reducible exact Law.refl _ _ | with_reducible assumption
    | with_reducible apply Law.step (onArb_law _ _) | with_reducible refine Law.foldl _ _ _ ?_ ?_ | (show (_ : List Part) ⊆ _; decide)
    | (show (_ : List Part) ⊆ _; decide) | (intro _) | split | (dsimp +zetaDelta only [id]))

theorem sendReq_law (flags : Nat) (s : State) :
    Law [.stew, .sent] s (sendReq flags s) := by
  unfold sendReq
  repeat' (first
    | extract_lets | with_reducible exact Law.refl _ _ | with_reducible assumption | with_reducible apply Law.step (ctlSend_law _ _ _ _)
    | with_reducible apply Law.step (onStew_law _ _) | with_reducible refine Law.foldl _ _ _ ?_ ?_ | (show (_ : List Part) ⊆ _; decide)
    | (show (_ : List Part) ⊆ _; decide) | (intro _) | split | (dsimp +zetaDelta only [id]))

theorem execLeaseRenewDue_law (s : State) :
    OutLaw [.stew, .sent] s (execLeaseRenewDue s) := by
  unfold execLeaseRenewDue
  repeat' (first
    | with_reducible refine OutLaw.next ?_ | extract_lets | with_reducible exact Law.refl _ _ | with_reducible assumption
    | with_reducible apply Law.step (sendReq_law _ _) | with_reducible refine Law.foldl _ _ _ ?_ ?_ | (show (_ : List Part) ⊆ _; decide)
    | (show (_ : List Part) ⊆ _; decide) | (intro _) | split | (dsimp +zetaDelta only [id]))

theorem execCandidacyDue_law (s : State) :
    OutLaw [.stew, .sent] s (execCandidacyDue s) := by
  unfold execCandidacyDue
  repeat' (first
    | with_reducible refine OutLaw.next ?_ | extract_lets | with_reducible exact Law.refl _ _ | with_reducible assumption
    | with_reducible apply Law.step (sendReq_law _ _) | with_reducible refine Law.foldl _ _ _ ?_ ?_ | (show (_ : List Part) ⊆ _; decide)
    | (show (_ : List Part) ⊆ _; decide) | (intro _) | split | (dsimp +zetaDelta only [id]))

theorem execHolderLeaseTimerEnd_law (s : State) :
    OutLaw [.tally, .log, .stew] s (execHolderLeaseTimerEnd s) := by
  unfold execHolderLeaseTimerEnd
  repeat' (first
    | with_reducible refine OutLaw.next ?_ | extract_lets | with_reducible exact Law.refl _ _ | with_reducible assumption
    | with_reducible apply Law.step (stopSteward_law _ _ _) | with_reducible refine Law.foldl _ _ _ ?_ ?_
    | (show (_ : List Part) ⊆ _; decide) | (show (_ : List Part) ⊆ _; decide) | (intro _) | split | (dsimp +zetaDelta only [id]))

theorem sendAll_law (kind : Nat) (body : List Nat) (s : State) :
    Law [.stew, .sent] s (sendAll kind body s) := by
  unfold sendAll
  repeat' (first
    | extract_lets | with_reducible exact Law.refl _ _ | with_reducible assumption | with_reducible apply Law.step (ctlSend_law _ _ _ _)
    | with_reducible refine Law.foldl _ _ _ ?_ ?_ | (show (_ : List Part) ⊆ _; decide) | (show (_ : List Part) ⊆ _; decide) | (intro _)
    | split | (dsimp +zetaDelta only [id]))

theorem leaveHold_law (s : State) :
    Law [.host, .hst, .tally, .log, .stew, .sent] s (leaveHold s) := by
  unfold leaveHold
  repeat' (first
    | extract_lets | with_reducible exact Law.refl _ _ | with_reducible assumption | with_reducible apply Law.step (ctlSend_law _ _ _ _)
    | with_reducible apply Law.step (postEvent_law _ _ _ _ _ _ _ _) | with_reducible apply Law.step (logRec_law _ _ _ _ _ _ _)
    | with_reducible apply Law.step (onStew_law _ _) | with_reducible refine Law.foldl _ _ _ ?_ ?_ | (show (_ : List Part) ⊆ _; decide)
    | (show (_ : List Part) ⊆ _; decide) | (intro _) | split | (dsimp +zetaDelta only [id]))

theorem takeOver_law (epoch : Nat) (s : State) :
    Law [.host, .hst, .tally, .log, .steer, .stew, .sent] s (takeOver epoch s) := by
  unfold takeOver
  repeat' (first
    | extract_lets | with_reducible exact Law.refl _ _ | with_reducible assumption
    | with_reducible apply Law.step (logRec_law _ _ _ _ _ _ _) | with_reducible apply Law.step (onSteer_law _ _)
    | with_reducible apply Law.step (onStew_law _ _) | with_reducible apply Law.step (sendReq_law _ _)
    | with_reducible apply Law.step (sendAll_law _ _ _) | with_reducible apply Law.step (leaveHold_law _)
    | with_reducible refine Law.foldl _ _ _ ?_ ?_ | (show (_ : List Part) ⊆ _; decide) | (show (_ : List Part) ⊆ _; decide) | (intro _)
    | split | (dsimp +zetaDelta only [id]))

theorem execLeaseGrant_law (h : Hdr) (epoch : Word) (holder : Nat) (solicited : Bool) (s : State) :
    OutLaw [.host, .hst, .tally, .log, .steer, .stew, .sent] s (execLeaseGrant h epoch holder solicited s) := by
  unfold execLeaseGrant
  repeat' (first
    | with_reducible refine OutLaw.next ?_ | extract_lets | with_reducible exact Law.refl _ _ | with_reducible assumption
    | with_reducible apply Law.step (onStew_law _ _) | with_reducible apply recv_law | with_reducible apply Law.step (takeOver_law _ _)
    | with_reducible refine Law.foldl _ _ _ ?_ ?_ | (show (_ : List Part) ⊆ _; decide) | (show (_ : List Part) ⊆ _; decide) | (intro _)
    | split | (dsimp +zetaDelta only [id]))

theorem execLeaseDeny_law (h : Hdr) (cause : Nat) (_holder : Nat) (_epoch : Word) (s : State) :
    OutLaw [.tally, .log, .steer, .stew, .sent] s (execLeaseDeny h cause _holder _epoch s) := by
  unfold execLeaseDeny
  repeat' (first
    | with_reducible refine OutLaw.next ?_ | extract_lets | with_reducible exact Law.refl _ _ | with_reducible assumption
    | with_reducible apply Law.step (ctlSend_law _ _ _ _) | with_reducible apply recv_law | with_reducible refine Law.foldl _ _ _ ?_ ?_
    | (show (_ : List Part) ⊆ _; decide) | (show (_ : List Part) ⊆ _; decide) | (intro _) | split | (dsimp +zetaDelta only [id]))

theorem execLeaseEnd_law (h : Hdr) (epoch : Word) (_cause : Nat) (s : State) :
    OutLaw [.tally, .log, .steer, .stew, .sent] s (execLeaseEnd h epoch _cause s) := by
  unfold execLeaseEnd
  repeat' (first
    | with_reducible refine OutLaw.next ?_ | extract_lets | with_reducible exact Law.refl _ _ | with_reducible assumption
    | with_reducible apply Law.step (ctlSend_law _ _ _ _) | with_reducible apply Law.step (logRec_law _ _ _ _ _ _ _)
    | with_reducible apply Law.step (onStew_law _ _) | with_reducible apply recv_law | with_reducible refine Law.foldl _ _ _ ?_ ?_
    | (show (_ : List Part) ⊆ _; decide) | (show (_ : List Part) ⊆ _; decide) | (intro _) | split | (dsimp +zetaDelta only [id]))

theorem resend_law (m : Nat) (s : State) :
    Law [.stew, .sent] s (resend m s) := by
  unfold resend
  repeat' (first
    | extract_lets | with_reducible exact Law.refl _ _ | with_reducible assumption | with_reducible apply Law.step (ctlSend_law _ _ _ _)
    | with_reducible apply Law.step (onStew_law _ _) | with_reducible refine Law.foldl _ _ _ ?_ ?_ | (show (_ : List Part) ⊆ _; decide)
    | (show (_ : List Part) ⊆ _; decide) | (intro _) | split | (dsimp +zetaDelta only [id]))

theorem execTakeover_law (h : Hdr) (_epoch : Word) (holder : Nat) (_prev : Nat) (_kind : Nat) (s : State) :
    OutLaw [.host, .hst, .tally, .log, .steer, .stew, .sent] s (execTakeover h _epoch holder _prev _kind s) := by
  unfold execTakeover
  repeat' (first
    | with_reducible refine OutLaw.next ?_ | extract_lets | with_reducible exact Law.refl _ _ | with_reducible assumption
    | with_reducible apply Law.step (ctlSend_law _ _ _ _) | with_reducible apply Law.step (onStew_law _ _)
    | with_reducible apply Law.step (startSync_law _) | with_reducible apply recv_law | with_reducible apply Law.step (leaveHold_law _)
    | with_reducible apply Law.step (resend_law _ _) | with_reducible refine Law.foldl _ _ _ ?_ ?_ | (show (_ : List Part) ⊆ _; decide)
    | (show (_ : List Part) ⊆ _; decide) | (intro _) | split | (dsimp +zetaDelta only [id]))

theorem execMirror_law (rec_ : MirrorRec) (s : State) :
    OutLaw [.steer, .stew, .sent] s (execMirror rec_ s) := by
  unfold execMirror
  repeat' (first
    | with_reducible refine OutLaw.next ?_ | extract_lets | with_reducible exact Law.refl _ _ | with_reducible assumption
    | with_reducible apply Law.step (twinSend_law _ _ _) | with_reducible apply Law.step (onStew_law _ _)
    | with_reducible apply Law.step (applyRecord_law _ _) | with_reducible refine Law.foldl _ _ _ ?_ ?_
    | (show (_ : List Part) ⊆ _; decide) | (show (_ : List Part) ⊆ _; decide) | (intro _) | split | (dsimp +zetaDelta only [id]))

theorem settleQueue_law (seq : Nat) (s : State) :
    Law [.stew, .sent] s (settleQueue seq s) := by
  unfold settleQueue
  repeat' (first
    | extract_lets | with_reducible exact Law.refl _ _ | with_reducible assumption | with_reducible apply Law.step (onStew_law _ _)
    | with_reducible apply Law.step (doAct_law _ _) | with_reducible refine Law.foldl _ _ _ ?_ ?_ | (show (_ : List Part) ⊆ _; decide)
    | (show (_ : List Part) ⊆ _; decide) | (intro _) | split | (dsimp +zetaDelta only [id]))

theorem execMirrorAck_law (seq : Nat) (s : State) :
    OutLaw [.stew, .sent] s (execMirrorAck seq s) := by
  unfold execMirrorAck
  repeat' (first
    | with_reducible refine OutLaw.next ?_ | extract_lets | with_reducible exact Law.refl _ _ | with_reducible assumption
    | with_reducible apply Law.step (onStew_law _ _) | with_reducible apply Law.step (settleQueue_law _ _)
    | with_reducible refine Law.foldl _ _ _ ?_ ?_ | (show (_ : List Part) ⊆ _; decide) | (show (_ : List Part) ⊆ _; decide) | (intro _)
    | split | (dsimp +zetaDelta only [id]))

theorem execMirrorAckLate_law (seq : Nat) (s : State) :
    OutLaw [.stew, .sent] s (execMirrorAckLate seq s) := by
  unfold execMirrorAckLate
  repeat' (first
    | with_reducible refine OutLaw.next ?_ | extract_lets | with_reducible exact Law.refl _ _ | with_reducible assumption
    | with_reducible apply Law.step (onStew_law _ _) | with_reducible apply Law.step (doAct_law _ _)
    | with_reducible refine Law.foldl _ _ _ ?_ ?_ | (show (_ : List Part) ⊆ _; decide) | (show (_ : List Part) ⊆ _; decide) | (intro _)
    | split | (dsimp +zetaDelta only [id]))

theorem execSnapshot_law (base : Nat) (part : Nat) (parts : Nat) (recs : List MirrorRec) (s : State) :
    OutLaw [.steer, .stew] s (execSnapshot base part parts recs s) := by
  unfold execSnapshot
  repeat' (first
    | with_reducible refine OutLaw.next ?_ | extract_lets | with_reducible exact Law.refl _ _ | with_reducible assumption
    | with_reducible apply Law.step (onSteer_law _ _) | with_reducible apply Law.step (onStew_law _ _)
    | with_reducible apply Law.step (applyRecord_law _ _) | with_reducible refine Law.foldl _ _ _ ?_ ?_
    | (show (_ : List Part) ⊆ _; decide) | (show (_ : List Part) ⊆ _; decide) | (intro _) | split | (dsimp +zetaDelta only [id]))

theorem syncStandby_law (s : State) :
    Law [.stew, .sent] s (syncStandby s) := by
  unfold syncStandby
  repeat' (first
    | extract_lets | with_reducible exact Law.refl _ _ | with_reducible assumption | with_reducible apply Law.step (twinSend_law _ _ _)
    | with_reducible apply Law.step (onStew_law _ _) | with_reducible refine Law.foldl _ _ _ ?_ ?_ | (show (_ : List Part) ⊆ _; decide)
    | (show (_ : List Part) ⊆ _; decide) | (intro _) | split | (dsimp +zetaDelta only [id]))

theorem execTwinLost_law (flapping : Bool) (s : State) :
    OutLaw [.tally, .log, .stew] s (execTwinLost flapping s) := by
  unfold execTwinLost
  repeat' (first
    | with_reducible refine OutLaw.next ?_ | extract_lets | with_reducible exact Law.refl _ _ | with_reducible assumption
    | with_reducible apply Law.step (logRec_law _ _ _ _ _ _ _) | with_reducible apply Law.step (onStew_law _ _)
    | with_reducible refine Law.foldl _ _ _ ?_ ?_ | (show (_ : List Part) ⊆ _; decide) | (show (_ : List Part) ⊆ _; decide) | (intro _)
    | split | (dsimp +zetaDelta only [id]))

theorem execTwinRestored_law (s : State) :
    OutLaw [.tally, .log, .stew, .sent] s (execTwinRestored s) := by
  unfold execTwinRestored
  repeat' (first
    | with_reducible refine OutLaw.next ?_ | extract_lets | with_reducible exact Law.refl _ _ | with_reducible assumption
    | with_reducible apply Law.step (logRec_law _ _ _ _ _ _ _) | with_reducible apply Law.step (onStew_law _ _)
    | with_reducible apply Law.step (startSync_law _) | with_reducible apply Law.step (syncStandby_law _)
    | with_reducible refine Law.foldl _ _ _ ?_ ?_ | (show (_ : List Part) ⊆ _; decide) | (show (_ : List Part) ⊆ _; decide) | (intro _)
    | split | (dsimp +zetaDelta only [id]))

theorem execQuietPointReturn_law (s : State) :
    OutLaw [.stew, .sent] s (execQuietPointReturn s) := by
  unfold execQuietPointReturn
  repeat' (first
    | with_reducible refine OutLaw.next ?_ | extract_lets | with_reducible exact Law.refl _ _ | with_reducible assumption
    | with_reducible apply Law.step (onStew_law _ _) | with_reducible apply Law.step (sendReq_law _ _)
    | with_reducible refine Law.foldl _ _ _ ?_ ?_ | (show (_ : List Part) ⊆ _; decide) | (show (_ : List Part) ⊆ _; decide) | (intro _)
    | split | (dsimp +zetaDelta only [id]))

theorem execHoldEntry_law (s : State) :
    OutLaw [.host, .hst, .tally, .log, .stew, .sent] s (execHoldEntry s) := by
  unfold execHoldEntry
  repeat' (first
    | with_reducible refine OutLaw.next ?_ | extract_lets | with_reducible exact Law.refl _ _ | with_reducible assumption
    | with_reducible apply Law.step (postEvent_law _ _ _ _ _ _ _ _) | with_reducible apply Law.step (logRec_law _ _ _ _ _ _ _)
    | with_reducible apply Law.step (onStew_law _ _) | with_reducible refine Law.foldl _ _ _ ?_ ?_ | (show (_ : List Part) ⊆ _; decide)
    | (show (_ : List Part) ⊆ _; decide) | (intro _) | split | (dsimp +zetaDelta only [id]))

theorem execHeartbeatDue_law (s : State) :
    OutLaw [.stew, .sent] s (execHeartbeatDue s) := by
  unfold execHeartbeatDue
  repeat' (first
    | with_reducible refine OutLaw.next ?_ | extract_lets | with_reducible exact Law.refl _ _ | with_reducible assumption
    | with_reducible apply Law.step (ctlSend_law _ _ _ _) | with_reducible refine Law.foldl _ _ _ ?_ ?_
    | (show (_ : List Part) ⊆ _; decide) | (show (_ : List Part) ⊆ _; decide) | (intro _) | split | (dsimp +zetaDelta only [id]))

theorem execHeartbeatAck_law (h : Hdr) (_edition : Half16) (_cfgFollows : Bool) (s : State) :
    OutLaw [.host, .hst, .tally, .log, .steer, .stew, .sent] s (execHeartbeatAck h _edition _cfgFollows s) := by
  unfold execHeartbeatAck
  repeat' (first
    | with_reducible refine OutLaw.next ?_ | extract_lets | with_reducible exact Law.refl _ _ | with_reducible assumption
    | with_reducible apply Law.step (onStew_law _ _) | with_reducible apply Law.step (startSync_law _) | with_reducible apply recv_law
    | with_reducible apply Law.step (leaveHold_law _) | with_reducible refine Law.foldl _ _ _ ?_ ?_ | (show (_ : List Part) ⊆ _; decide)
    | (show (_ : List Part) ⊆ _; decide) | (intro _) | split | (dsimp +zetaDelta only [id]))

theorem orderCkpt_law (jn : Nat) (s : State) :
    Law [.steer, .stew, .sent] s (orderCkpt jn s) := by
  unfold orderCkpt
  repeat' (first
    | extract_lets | with_reducible exact Law.refl _ _ | with_reducible assumption
    | with_reducible apply Law.step (orderSlot_law _ _ _ _ _ _) | with_reducible refine Law.foldl _ _ _ ?_ ?_
    | (show (_ : List Part) ⊆ _; decide) | (show (_ : List Part) ⊆ _; decide) | (intro _) | split | (dsimp +zetaDelta only [id]))

theorem onWarn_law (m : Nat) (s : State) :
    Law [.steer, .stew, .sent] s (onWarn m s) := by
  unfold onWarn
  repeat' (first
    | extract_lets | with_reducible exact Law.refl _ _ | with_reducible assumption | with_reducible apply Law.step (updJob_law _ _ _)
    | with_reducible apply Law.step (record_law _ _ _ _) | with_reducible apply Law.step (recordMember_law _ _ _)
    | with_reducible apply Law.step (orderCkpt_law _ _) | with_reducible refine Law.foldl _ _ _ ?_ ?_ | (show (_ : List Part) ⊆ _; decide)
    | (show (_ : List Part) ⊆ _; decide) | (intro _) | split | (dsimp +zetaDelta only [id]))

theorem onAlert_law (m : Nat) (s : State) :
    Law [.steer, .stew, .sent] s (onAlert m s) := by
  unfold onAlert
  repeat' (first
    | extract_lets | with_reducible exact Law.refl _ _ | with_reducible assumption | with_reducible apply Law.step (updJob_law _ _ _)
    | with_reducible apply Law.step (orderCkpt_law _ _) | with_reducible refine Law.foldl _ _ _ ?_ ?_ | (show (_ : List Part) ⊆ _; decide)
    | (show (_ : List Part) ⊆ _; decide) | (intro _) | split | (dsimp +zetaDelta only [id]))

theorem onRemoval_law (m : Nat) (s : State) :
    Law [.steer, .stew, .sent] s (onRemoval m s) := by
  unfold onRemoval
  repeat' (first
    | extract_lets | with_reducible exact Law.refl _ _ | with_reducible assumption | with_reducible apply Law.step (updJob_law _ _ _)
    | with_reducible apply Law.step (recordMember_law _ _ _) | with_reducible apply Law.step (reduce_law _ _ _)
    | with_reducible apply Law.step (orderCkpt_law _ _) | with_reducible refine Law.foldl _ _ _ ?_ ?_ | (show (_ : List Part) ⊆ _; decide)
    | (show (_ : List Part) ⊆ _; decide) | (intro _) | split | (dsimp +zetaDelta only [id]))

theorem takeRisk_law (m : Nat) (risk : Nat) (s : State) :
    Law [.steer, .stew, .sent] s (takeRisk m risk s) := by
  unfold takeRisk
  repeat' (first
    | extract_lets | with_reducible exact Law.refl _ _ | with_reducible assumption
    | with_reducible apply Law.step (recordMember_law _ _ _) | with_reducible apply Law.step (onWarn_law _ _)
    | with_reducible apply Law.step (onAlert_law _ _) | with_reducible refine Law.foldl _ _ _ ?_ ?_ | (show (_ : List Part) ⊆ _; decide)
    | (show (_ : List Part) ⊆ _; decide) | (intro _) | split | (dsimp +zetaDelta only [id]))

theorem peerGen_law (m : Nat) (c : Nat) (g : Byte) (s : State) :
    Law [.freeCtr, .steer, .stew, .sent] s (peerGen m c g s) := by
  unfold peerGen
  dsimp only [drawFree]
  repeat' (first
    | extract_lets | with_reducible exact Law.refl _ _ | with_reducible assumption | with_reducible apply Law.step (record_law _ _ _ _)
    | with_reducible apply Law.step (bindAll_law _ _ _) | with_reducible refine Law.foldl _ _ _ ?_ ?_ | (show (_ : List Part) ⊆ _; decide)
    | (show (_ : List Part) ⊆ _; decide) | (intro _) | split | with_reducible refine Law.set_freeCtr _ (by decide) ?_
    | (dsimp +zetaDelta only [id]))

theorem takeGens_law (m : Nat) (gs : List Byte) (s : State) :
    Law [.freeCtr, .steer, .stew, .sent] s (takeGens m gs s) := by
  unfold takeGens
  repeat' (first
    | extract_lets | with_reducible exact Law.refl _ _ | with_reducible assumption | with_reducible apply Law.step (updMember_law _ _ _)
    | with_reducible apply Law.step (peerGen_law _ _ _ _) | with_reducible refine Law.foldl _ _ _ ?_ ?_
    | (show (_ : List Part) ⊆ _; decide) | (show (_ : List Part) ⊆ _; decide) | (intro _) | split | (dsimp +zetaDelta only [id]))

theorem locateAt_law (m : Nat) (p : Nat) (s : State) :
    Law [.freeCtr, .tally, .log, .steer, .stew, .sent] s (locateAt m p s) := by
  unfold locateAt
  dsimp only [drawFree]
  repeat' (first
    | extract_lets | with_reducible exact Law.refl _ _ | with_reducible assumption
    | with_reducible apply Law.step (logFab_law _ _ _ _ _ _ _ _) | with_reducible apply Law.step (onSteer_law _ _)
    | with_reducible apply Law.step (reduce_law _ _ _) | with_reducible refine Law.foldl _ _ _ ?_ ?_ | (show (_ : List Part) ⊆ _; decide)
    | (show (_ : List Part) ⊆ _; decide) | (intro _) | split | with_reducible refine Law.set_freeCtr _ (by decide) ?_
    | (dsimp +zetaDelta only [id]))

theorem sendCfg_law (h : Hdr) (s : State) :
    Law [.stew, .sent] s (sendCfg h s) := by
  unfold sendCfg
  repeat' (first
    | extract_lets | with_reducible exact Law.refl _ _ | with_reducible assumption | with_reducible apply Law.step (ctlSend_law _ _ _ _)
    | with_reducible refine Law.foldl _ _ _ ?_ ?_ | (show (_ : List Part) ⊆ _; decide) | (show (_ : List Part) ⊆ _; decide) | (intro _)
    | split | (dsimp +zetaDelta only [id]))

theorem execHeartbeat_law (h : Hdr) (b : HeartbeatBody) (s : State) :
    OutLaw [.freeCtr, .tally, .log, .steer, .stew, .sent] s (execHeartbeat h b s) := by
  unfold execHeartbeat
  repeat' (first
    | with_reducible refine OutLaw.next ?_ | extract_lets | with_reducible exact Law.refl _ _ | with_reducible assumption
    | with_reducible apply Law.step (ctlSend_law _ _ _ _) | with_reducible apply Law.step (updMember_law _ _ _)
    | with_reducible apply Law.step (recordMember_law _ _ _) | with_reducible apply Law.step (declareFailed_law _ _ _)
    | with_reducible apply Law.step (placeAll_law _) | with_reducible apply recv_law | with_reducible apply Law.step (takeRisk_law _ _ _)
    | with_reducible apply Law.step (takeGens_law _ _ _) | with_reducible apply Law.step (locateAt_law _ _ _)
    | with_reducible apply Law.step (sendCfg_law _ _) | with_reducible refine Law.foldl _ _ _ ?_ ?_ | (show (_ : List Part) ⊆ _; decide)
    | (show (_ : List Part) ⊆ _; decide) | (intro _) | split | (dsimp +zetaDelta only [id]))

theorem execMemberSilent_law (m : Modu) (s : State) :
    OutLaw [.fab, .link, .stew] s (execMemberSilent m s) := by
  unfold execMemberSilent
  repeat' (first
    | with_reducible refine OutLaw.next ?_ | extract_lets | with_reducible exact Law.refl _ _ | with_reducible assumption
    | with_reducible apply Law.step (onStew_law _ _) | with_reducible apply Law.step (updMember_law _ _ _)
    | with_reducible apply Law.step (sendCopy_law _ _ _ _ _ _) | with_reducible refine Law.foldl _ _ _ ?_ ?_
    | (show (_ : List Part) ⊆ _; decide) | (show (_ : List Part) ⊆ _; decide) | (intro _) | split | (dsimp +zetaDelta only [id]))

theorem execProbeTimeout_law (m : Modu) (s : State) :
    OutLaw [.tally, .log, .steer, .stew, .sent] s (execProbeTimeout m s) := by
  unfold execProbeTimeout
  repeat' (first
    | with_reducible refine OutLaw.next ?_ | extract_lets | with_reducible exact Law.refl _ _ | with_reducible assumption
    | with_reducible apply Law.step (declareFailed_law _ _ _) | with_reducible refine Law.foldl _ _ _ ?_ ?_
    | (show (_ : List Part) ⊆ _; decide) | (show (_ : List Part) ⊆ _; decide) | (intro _) | split | (dsimp +zetaDelta only [id]))

theorem execProbe_law (h : Hdr) (s : State) :
    OutLaw [.tally, .log, .steer, .stew, .sent] s (execProbe h s) := by
  unfold execProbe
  repeat' (first
    | with_reducible refine OutLaw.next ?_ | extract_lets | with_reducible exact Law.refl _ _ | with_reducible assumption
    | with_reducible apply Law.step (ctlSend_law _ _ _ _) | with_reducible apply recv_law | with_reducible refine Law.foldl _ _ _ ?_ ?_
    | (show (_ : List Part) ⊆ _; decide) | (show (_ : List Part) ⊆ _; decide) | (intro _) | split | (dsimp +zetaDelta only [id]))

theorem execAck_law (h : Hdr) (of : Half16) (s : State) :
    OutLaw [.tally, .log, .steer, .stew, .sent] s (execAck h of s) := by
  unfold execAck
  repeat' (first
    | with_reducible refine OutLaw.next ?_ | extract_lets | with_reducible exact Law.refl _ _ | with_reducible assumption
    | with_reducible apply Law.step (onStew_law _ _) | with_reducible apply Law.step (updMember_law _ _ _)
    | with_reducible apply Law.step (recordMember_law _ _ _) | with_reducible apply recv_law
    | with_reducible apply Law.step (takeRisk_law _ _ _) | with_reducible refine Law.foldl _ _ _ ?_ ?_
    | (show (_ : List Part) ⊆ _; decide) | (show (_ : List Part) ⊆ _; decide) | (intro _) | split | (dsimp +zetaDelta only [id]))

theorem execAckRetransmit_law (of : Half16) (s : State) :
    OutLaw [.fab, .link, .stew, .sent] s (execAckRetransmit of s) := by
  unfold execAckRetransmit
  repeat' (first
    | with_reducible refine OutLaw.next ?_ | extract_lets | with_reducible exact Law.refl _ _ | with_reducible assumption
    | with_reducible apply Law.step (ctlOut_law _ _ _ _ _ _) | with_reducible apply Law.step (onStew_law _ _)
    | with_reducible apply Law.step (sendCopy_law _ _ _ _ _ _) | with_reducible refine Law.foldl _ _ _ ?_ ?_
    | (show (_ : List Part) ⊆ _; decide) | (show (_ : List Part) ⊆ _; decide) | (intro _) | split | (dsimp +zetaDelta only [id]))

theorem dropPair_law (p : Nat) (a : Nat) (b : Nat) (s : State) :
    Law [.steer, .stew, .sent] s (dropPair p a b s) := by
  unfold dropPair
  repeat' (first
    | extract_lets | with_reducible exact Law.refl _ _ | with_reducible assumption | with_reducible apply Law.step (onSteer_law _ _)
    | with_reducible apply Law.step (reduce_law _ _ _) | with_reducible refine Law.foldl _ _ _ ?_ ?_ | (show (_ : List Part) ⊆ _; decide)
    | (show (_ : List Part) ⊆ _; decide) | (intro _) | split | (dsimp +zetaDelta only [id]))

theorem dropPlane_law (p : Nat) (m : Nat) (s : State) :
    Law [.steer, .stew, .sent] s (dropPlane p m s) := by
  unfold dropPlane
  repeat' (first
    | extract_lets | with_reducible exact Law.refl _ _ | with_reducible assumption | with_reducible apply Law.step (onSteer_law _ _)
    | with_reducible apply Law.step (reduce_law _ _ _) | with_reducible refine Law.foldl _ _ _ ?_ ?_ | (show (_ : List Part) ⊆ _; decide)
    | (show (_ : List Part) ⊆ _; decide) | (intro _) | split | (dsimp +zetaDelta only [id]))

theorem fabricReport_law (m : Nat) (p : Nat) (f : FaultRec) (s : State) :
    Law [.steer, .stew, .sent] s (fabricReport m p f s) := by
  unfold fabricReport
  repeat' (first
    | extract_lets | with_reducible exact Law.refl _ _ | with_reducible assumption | with_reducible apply Law.step (onSteer_law _ _)
    | with_reducible apply Law.step (dropPair_law _ _ _ _) | with_reducible apply Law.step (dropPlane_law _ _ _)
    | with_reducible refine Law.foldl _ _ _ ?_ ?_ | (show (_ : List Part) ⊆ _; decide) | (show (_ : List Part) ⊆ _; decide) | (intro _)
    | split | (dsimp +zetaDelta only [id]))

theorem execEventReport_law (h : Hdr) (f : FaultRec) (s : State) :
    OutLaw [.freeCtr, .tally, .log, .steer, .stew, .sent] s (execEventReport h f s) := by
  unfold execEventReport
  dsimp only [drawFree]
  repeat' (first
    | with_reducible refine OutLaw.next ?_ | extract_lets | with_reducible exact Law.refl _ _ | with_reducible assumption
    | with_reducible apply Law.step (record_law _ _ _ _) | with_reducible apply Law.step (declareFailed_law _ _ _)
    | with_reducible apply recv_law | with_reducible apply Law.step (onRemoval_law _ _)
    | with_reducible apply Law.step (fabricReport_law _ _ _ _) | with_reducible refine Law.foldl _ _ _ ?_ ?_
    | (show (_ : List Part) ⊆ _; decide) | (show (_ : List Part) ⊆ _; decide) | (intro _) | split
    | with_reducible refine Law.set_freeCtr _ (by decide) ?_ | (dsimp +zetaDelta only [id]))

theorem execModuleEvent_law (h : Hdr) (m : Modu) (cause : Nat) (c : Nat) (newGen : Byte) (s : State) :
    OutLaw [.host, .hst, .tally, .log, .steer, .stew, .sent] s (execModuleEvent h m cause c newGen s) := by
  unfold execModuleEvent
  repeat' (first
    | with_reducible refine OutLaw.next ?_ | extract_lets | with_reducible exact Law.refl _ _ | with_reducible assumption
    | with_reducible apply Law.step (postEvent_law _ _ _ _ _ _ _ _) | with_reducible apply recv_law
    | with_reducible refine Law.foldl _ _ _ ?_ ?_ | (show (_ : List Part) ⊆ _; decide) | (show (_ : List Part) ⊆ _; decide) | (intro _)
    | split | (dsimp +zetaDelta only [id]))

theorem execBind_law (h : Hdr) (c : Ctx) (bs : List (Bool × Ctx × Byte)) (s : State) :
    OutLaw [.tally, .log, .steer, .stew, .sent] s (execBind h c bs s) := by
  unfold execBind
  repeat' (first
    | with_reducible refine OutLaw.next ?_ | extract_lets | with_reducible exact Law.refl _ _ | with_reducible assumption
    | with_reducible apply Law.step (onSteer_law _ _) | with_reducible apply recv_law | with_reducible refine Law.foldl _ _ _ ?_ ?_
    | (show (_ : List Part) ⊆ _; decide) | (show (_ : List Part) ⊆ _; decide) | (intro _) | split | (dsimp +zetaDelta only [id]))

theorem execJobCtl_law (h : Hdr) (job : Word) (c : Ctx) (action : Nat) (step : Word) (number : Word) (s : State) :
    OutLaw [.freeCtr, .mem, .host, .cores, .clus, .ctxs, .ddr, .hst, .tally, .log, .fab, .link, .steer, .stew, .ckpt, .pins, .side, .sent] s (execJobCtl h job c action step number s) := by
  unfold execJobCtl
  repeat' (first
    | with_reducible refine OutLaw.next ?_ | extract_lets | with_reducible exact Law.refl _ _ | with_reducible assumption
    | with_reducible apply Law.step (postEvent_law _ _ _ _ _ _ _ _) | with_reducible apply Law.step (teardown_law _ _ _)
    | with_reducible apply Law.step (onSteer_law _ _) | with_reducible apply recv_law
    | with_reducible apply Law.step (trigger_law _ _ _ _ _) | with_reducible refine Law.foldl _ _ _ ?_ ?_
    | (show (_ : List Part) ⊆ _; decide) | (show (_ : List Part) ⊆ _; decide) | (intro _) | split | (dsimp +zetaDelta only [id]))

theorem checkLeaving_law (jn : Nat) (s : State) :
    Law [.tally, .log, .steer, .stew, .sent] s (checkLeaving jn s) := by
  unfold checkLeaving
  repeat' (first
    | extract_lets | with_reducible exact Law.refl _ _ | with_reducible assumption | with_reducible apply Law.step (updJob_law _ _ _)
    | with_reducible apply Law.step (recordMember_law _ _ _) | with_reducible apply Law.step (reduce_law _ _ _)
    | with_reducible apply Law.step (startPlace_law _ _ _) | with_reducible refine Law.foldl _ _ _ ?_ ?_
    | (show (_ : List Part) ⊆ _; decide) | (show (_ : List Part) ⊆ _; decide) | (intro _) | split | (dsimp +zetaDelta only [id]))

theorem execJobReport_law (h : Hdr) (jw : Word) (b : JobBody) (s : State) :
    OutLaw [.tally, .log, .steer, .stew, .sent] s (execJobReport h jw b s) := by
  unfold execJobReport
  repeat' (first
    | with_reducible refine OutLaw.next ?_ | extract_lets | with_reducible exact Law.refl _ _ | with_reducible assumption
    | with_reducible apply Law.step (updMember_law _ _ _) | with_reducible apply Law.step (record_law _ _ _ _)
    | with_reducible apply Law.step (bindAll_law _ _ _) | with_reducible apply Law.step (resumeJob_law _ _)
    | with_reducible apply recv_law | with_reducible apply Law.step (checkLeaving_law _ _) | with_reducible refine Law.foldl _ _ _ ?_ ?_
    | (show (_ : List Part) ⊆ _; decide) | (show (_ : List Part) ⊆ _; decide) | (intro _) | split | (dsimp +zetaDelta only [id]))

theorem execStatusReq_law (h : Hdr) (chart : Bool) (s : State) :
    OutLaw [.tally, .log, .steer, .stew, .sent] s (execStatusReq h chart s) := by
  unfold execStatusReq
  repeat' (first
    | with_reducible refine OutLaw.next ?_ | extract_lets | with_reducible exact Law.refl _ _ | with_reducible assumption
    | with_reducible apply Law.step (ctlSend_law _ _ _ _) | with_reducible apply recv_law
    | with_reducible apply Law.step (sendCfg_law _ _) | with_reducible refine Law.foldl _ _ _ ?_ ?_ | (show (_ : List Part) ⊆ _; decide)
    | (show (_ : List Part) ⊆ _; decide) | (intro _) | split | (dsimp +zetaDelta only [id]))

theorem execStatus_law (h : Hdr) (b : StatusBody) (s : State) :
    OutLaw [.tally, .log, .steer, .stew, .sent] s (execStatus h b s) := by
  unfold execStatus
  repeat' (first
    | with_reducible refine OutLaw.next ?_ | extract_lets | with_reducible exact Law.refl _ _ | with_reducible assumption
    | with_reducible apply Law.step (onStew_law _ _) | with_reducible apply recv_law | with_reducible refine Law.foldl _ _ _ ?_ ?_
    | (show (_ : List Part) ⊆ _; decide) | (show (_ : List Part) ⊆ _; decide) | (intro _) | split | (dsimp +zetaDelta only [id]))

theorem takeStatus_law (s : State) (x : Nat × StatusBody) :
    Law [.steer, .stew, .sent] s (takeStatus s x) := by
  unfold takeStatus
  repeat' (first
    | extract_lets | with_reducible exact Law.refl _ _ | with_reducible assumption | with_reducible apply Law.step (updMember_law _ _ _)
    | with_reducible apply Law.step (record_law _ _ _ _) | with_reducible refine Law.foldl _ _ _ ?_ ?_
    | (show (_ : List Part) ⊆ _; decide) | (show (_ : List Part) ⊆ _; decide) | (intro _) | split | (dsimp +zetaDelta only [id]))

theorem execRebuildStatusWait_law (s : State) :
    OutLaw [.steer, .stew, .sent] s (execRebuildStatusWait s) := by
  unfold execRebuildStatusWait
  repeat' (first
    | with_reducible refine OutLaw.next ?_ | extract_lets | with_reducible exact Law.refl _ _ | with_reducible assumption
    | with_reducible apply Law.step (onSteer_law _ _) | with_reducible apply Law.step (onStew_law _ _)
    | with_reducible apply Law.step (issueChart_law _ _ _ _ _ _) | with_reducible apply Law.step (replan_law _)
    | with_reducible apply Law.step (takeStatus_law _ _) | with_reducible refine Law.foldl _ _ _ ?_ ?_
    | (show (_ : List Part) ⊆ _; decide) | (show (_ : List Part) ⊆ _; decide) | (intro _) | split | (dsimp +zetaDelta only [id]))

theorem roleAfter_law (s : State) :
    Law [.tally, .log, .stew] s (roleAfter s) := by
  unfold roleAfter
  repeat' (first
    | extract_lets | with_reducible exact Law.refl _ _ | with_reducible assumption | with_reducible apply Law.step (onStew_law _ _)
    | with_reducible apply Law.step (stopSteward_law _ _ _) | with_reducible refine Law.foldl _ _ _ ?_ ?_
    | (show (_ : List Part) ⊆ _; decide) | (show (_ : List Part) ⊆ _; decide) | (intro _) | split | (dsimp +zetaDelta only [id]))

theorem adoptCfg_law (c : PodCfg) (s : State) :
    Law [.host, .hst, .tally, .log, .steer, .stew, .pins, .side, .sent] s (adoptCfg c s) := by
  unfold adoptCfg
  repeat' (first
    | extract_lets | with_reducible exact Law.refl _ _ | with_reducible assumption | with_reducible apply Law.step (removeCheck_law _)
    | with_reducible apply Law.step (onStew_law _ _) | with_reducible apply Law.step (record_law _ _ _ _)
    | with_reducible apply Law.step (replan_law _) | with_reducible apply Law.step (onArb_law _ _)
    | with_reducible apply Law.step (roleAfter_law _) | with_reducible refine Law.foldl _ _ _ ?_ ?_ | (show (_ : List Part) ⊆ _; decide)
    | (show (_ : List Part) ⊆ _; decide) | (intro _) | split | (dsimp +zetaDelta only [id]))

theorem execPodConfig_law (h : Hdr) (cfg : PodCfg) (s : State) :
    OutLaw [.host, .hst, .tally, .log, .steer, .stew, .pins, .side, .sent] s (execPodConfig h cfg s) := by
  unfold execPodConfig
  repeat' (first
    | with_reducible refine OutLaw.next ?_ | extract_lets | with_reducible exact Law.refl _ _ | with_reducible assumption
    | with_reducible apply Law.step (ctlSend_law _ _ _ _) | with_reducible apply Law.step (logRec_law _ _ _ _ _ _ _)
    | with_reducible apply recv_law | with_reducible apply Law.step (adoptCfg_law _ _) | with_reducible refine Law.foldl _ _ _ ?_ ?_
    | (show (_ : List Part) ⊆ _; decide) | (show (_ : List Part) ⊆ _; decide) | (intro _) | split | (dsimp +zetaDelta only [id]))

theorem execRiskScoreUpdate_law (berPairs : Nat) (ceCores : Nat) (s : State) :
    OutLaw [.host, .hst, .tally, .log, .stew, .ckpt, .pwr, .sent] s (execRiskScoreUpdate berPairs ceCores s) := by
  unfold execRiskScoreUpdate
  repeat' (first
    | with_reducible refine OutLaw.next ?_ | extract_lets | with_reducible exact Law.refl _ _ | with_reducible assumption
    | with_reducible apply Law.step (logRec_law _ _ _ _ _ _ _) | with_reducible apply Law.step (onStew_law _ _)
    | with_reducible apply Law.step (riskTrigger_law _) | with_reducible refine Law.foldl _ _ _ ?_ ?_ | (show (_ : List Part) ⊆ _; decide)
    | (show (_ : List Part) ⊆ _; decide) | (intro _) | split | with_reducible refine Law.set_pwr _ (by decide) ?_
    | (dsimp +zetaDelta only [id]))

theorem execAuthorityClaim_law (h : Hlf) (s : State) :
    OutLaw [.tally, .log, .stew] s (execAuthorityClaim h s) := by
  unfold execAuthorityClaim
  repeat' (first
    | with_reducible refine OutLaw.next ?_ | extract_lets | with_reducible exact Law.refl _ _ | with_reducible assumption
    | with_reducible apply Law.step (logRec_law _ _ _ _ _ _ _) | with_reducible apply Law.step (onStew_law _ _)
    | with_reducible refine Law.foldl _ _ _ ?_ ?_ | (show (_ : List Part) ⊆ _; decide) | (show (_ : List Part) ⊆ _; decide) | (intro _)
    | split | (dsimp +zetaDelta only [id]))

theorem authorityDrop_law (cause : Nat) (s : State) :
    Law [.tally, .log, .stew] s (authorityDrop cause s) := by
  unfold authorityDrop
  repeat' (first
    | extract_lets | with_reducible exact Law.refl _ _ | with_reducible assumption
    | with_reducible apply Law.step (logRec_law _ _ _ _ _ _ _) | with_reducible apply Law.step (onStew_law _ _)
    | with_reducible refine Law.foldl _ _ _ ?_ ?_ | (show (_ : List Part) ⊆ _; decide) | (show (_ : List Part) ⊆ _; decide) | (intro _)
    | split | (dsimp +zetaDelta only [id]))

theorem execAuthorityHeartbeatTimeout_law (s : State) :
    OutLaw [.tally, .log, .stew] s (execAuthorityHeartbeatTimeout s) := by
  unfold execAuthorityHeartbeatTimeout
  repeat' (first
    | with_reducible refine OutLaw.next ?_ | extract_lets | with_reducible exact Law.refl _ _ | with_reducible assumption
    | with_reducible apply Law.step (authorityDrop_law _ _) | with_reducible refine Law.foldl _ _ _ ?_ ?_
    | (show (_ : List Part) ⊆ _; decide) | (show (_ : List Part) ⊆ _; decide) | (intro _) | split | (dsimp +zetaDelta only [id]))

end Sys2Proof.Machine
end

