-- ==== Sys2Proof/Laws/Deliver.lean ====
section
/-! SUPPORT. What each operation of Machine/Deliver.lean may touch, one lemma for each, and that it keeps memory in its canonical form. -/

set_option maxRecDepth 4000
set_option linter.all false

namespace Sys2Proof.Machine

theorem unknownMsg_law (s : State) :
    Law [.link] s (unknownMsg s) := by
  unfold unknownMsg
  repeat' (first
    | extract_lets | with_reducible exact Law.refl _ _ | with_reducible assumption | with_reducible refine Law.foldl _ _ _ ?_ ?_
    | (show (_ : List Part) ⊆ _; decide) | (show (_ : List Part) ⊆ _; decide) | (intro _) | split
    | with_reducible refine Law.set_link _ (by decide) ?_ | (dsimp +zetaDelta only [id]))

theorem steerMsg_law (kind : Nat) (h : Hdr) (b : List Byte) (s : State) :
    Law [.freeCtr, .mem, .host, .cores, .clus, .ctxs, .ddr, .hst, .tally, .log, .fab, .link, .steer, .stew, .ckpt, .boot, .pins, .side, .sent] s (steerMsg kind h b s) := by
  unfold steerMsg
  repeat' (first
    | extract_lets | with_reducible exact Law.refl _ _ | with_reducible assumption | with_reducible apply Law.step (unknownMsg_law _)
    | with_reducible apply after_law | with_reducible apply OutLaw.step (execSurveyCmd_law _ _ _)
    | with_reducible apply OutLaw.step (execChartPart_law _ _ _ _ _ _ _) | with_reducible apply OutLaw.step (execStaged_law _ _ _ _ _)
    | with_reducible apply OutLaw.step (execApplied_law _ _ _ _ _ _) | with_reducible apply OutLaw.step (execSurveyReport_law _ _ _ _ _)
    | with_reducible refine Law.foldl _ _ _ ?_ ?_ | (show (_ : List Part) ⊆ _; decide) | (show (_ : List Part) ⊆ _; decide) | (intro _)
    | split | (dsimp +zetaDelta only [id]))

theorem leaseMsg_law (kind : Nat) (h : Hdr) (b : List Byte) (s : State) :
    Law [.host, .hst, .tally, .log, .link, .steer, .stew, .sent] s (leaseMsg kind h b s) := by
  unfold leaseMsg
  repeat' (first
    | extract_lets | with_reducible exact Law.refl _ _ | with_reducible assumption | with_reducible apply Law.step (unknownMsg_law _)
    | with_reducible apply after_law | with_reducible apply OutLaw.step (execLeaseReq_law _ _ _)
    | with_reducible apply OutLaw.step (execReleased_law _ _ _ _) | with_reducible apply OutLaw.step (execLeaseGrant_law _ _ _ _ _)
    | with_reducible apply OutLaw.step (execLeaseDeny_law _ _ _ _ _) | with_reducible apply OutLaw.step (execLeaseEnd_law _ _ _ _)
    | with_reducible apply OutLaw.step (execTakeover_law _ _ _ _ _ _) | with_reducible refine Law.foldl _ _ _ ?_ ?_
    | (show (_ : List Part) ⊆ _; decide) | (show (_ : List Part) ⊆ _; decide) | (intro _) | split | (dsimp +zetaDelta only [id]))

theorem memberMsg_law (kind : Nat) (h : Hdr) (b : List Byte) (s : State) :
    Law [.freeCtr, .mem, .host, .cores, .clus, .ctxs, .ddr, .hst, .tally, .log, .fab, .link, .steer, .stew, .ckpt, .pins, .side, .sent] s (memberMsg kind h b s) := by
  unfold memberMsg
  repeat' (first
    | extract_lets | with_reducible exact Law.refl _ _ | with_reducible assumption | with_reducible apply Law.step (unknownMsg_law _)
    | with_reducible apply after_law | with_reducible apply OutLaw.step (execHeartbeatAck_law _ _ _ _)
    | with_reducible apply OutLaw.step (execHeartbeat_law _ _ _) | with_reducible apply OutLaw.step (execProbe_law _ _)
    | with_reducible apply OutLaw.step (execAck_law _ _ _) | with_reducible apply OutLaw.step (execEventReport_law _ _ _)
    | with_reducible apply OutLaw.step (execModuleEvent_law _ _ _ _ _ _) | with_reducible apply OutLaw.step (execBind_law _ _ _ _)
    | with_reducible apply OutLaw.step (execJobCtl_law _ _ _ _ _ _ _) | with_reducible apply OutLaw.step (execJobReport_law _ _ _ _)
    | with_reducible apply OutLaw.step (execStatusReq_law _ _ _) | with_reducible apply OutLaw.step (execPodConfig_law _ _ _)
    | with_reducible refine Law.foldl _ _ _ ?_ ?_ | (show (_ : List Part) ⊆ _; decide) | (show (_ : List Part) ⊆ _; decide) | (intro _)
    | split | (dsimp +zetaDelta only [id]))

theorem message_law (bs : List Byte) (s : State) :
    Law [.freeCtr, .mem, .host, .cores, .clus, .ctxs, .ddr, .hst, .tally, .log, .fab, .link, .steer, .stew, .ckpt, .boot, .pins, .side, .sent] s (message bs s) := by
  unfold message
  repeat' (first
    | extract_lets | with_reducible exact Law.refl _ _ | with_reducible assumption | with_reducible apply Law.step (steerMsg_law _ _ _ _)
    | with_reducible apply Law.step (leaseMsg_law _ _ _ _) | with_reducible apply Law.step (memberMsg_law _ _ _ _)
    | with_reducible apply Law.step (countHub_law _ _ _ _) | with_reducible apply Law.step (onStew_law _ _)
    | with_reducible refine Law.foldl _ _ _ ?_ ?_ | (show (_ : List Part) ⊆ _; decide) | (show (_ : List Part) ⊆ _; decide) | (intro _)
    | split | (dsimp +zetaDelta only [id]))

theorem ctrlMsg_law (peer : Nat) (kind : Nat) (bs : List Byte) (s : State) :
    Law [.freeCtr, .mem, .host, .cores, .clus, .ctxs, .ddr, .hst, .tally, .log, .fab, .link, .steer, .stew, .ckpt, .boot, .pins, .side, .sent] s (ctrlMsg peer kind bs s) := by
  unfold ctrlMsg
  repeat' (first
    | extract_lets | with_reducible exact Law.refl _ _ | with_reducible assumption | with_reducible apply Law.step (unknownMsg_law _)
    | with_reducible apply Law.step (message_law _ _) | with_reducible apply Law.step (genChange_law _ _ _ _)
    | with_reducible refine Law.foldl _ _ _ ?_ ?_ | (show (_ : List Part) ⊆ _; decide) | (show (_ : List Part) ⊆ _; decide) | (intro _)
    | split | (dsimp +zetaDelta only [id]))

theorem ctrlIn_law (p : Nat) (l : Nat) (kind : Nat) (msgid : Nat) (frag : Nat) (last : Bool) (bytes : List Byte) (s : State) :
    Law [.freeCtr, .mem, .host, .cores, .clus, .ctxs, .ddr, .hst, .tally, .log, .fab, .link, .steer, .stew, .ckpt, .boot, .pins, .side, .sent] s (ctrlIn p l kind msgid frag last bytes s) := by
  unfold ctrlIn
  repeat' (first
    | extract_lets | with_reducible exact Law.refl _ _ | with_reducible assumption | with_reducible apply Law.step (ctrlMsg_law _ _ _ _)
    | with_reducible apply Law.step (freeFlit_law _ _ _ _) | with_reducible apply Law.step (setPair_law _ _ _ _)
    | with_reducible refine Law.foldl _ _ _ ?_ ?_ | (show (_ : List Part) ⊆ _; decide) | (show (_ : List Part) ⊆ _; decide) | (intro _)
    | split | (dsimp +zetaDelta only [id]))

theorem execCtrl_law (h : FlitHdr) (kind : Half16) (msgid : Half16) (frag : Nat) (lastFrag : Bool) (bytes : List Byte) (s : State) :
    OutLaw [.freeCtr, .mem, .host, .cores, .clus, .ctxs, .ddr, .hst, .tally, .log, .fab, .link, .steer, .stew, .ckpt, .boot, .pins, .side, .sent] s (execCtrl h kind msgid frag lastFrag bytes s) := by
  unfold execCtrl
  repeat' (first
    | with_reducible refine OutLaw.next ?_ | extract_lets | with_reducible exact Law.refl _ _ | with_reducible assumption
    | with_reducible apply Law.step (ctrlIn_law _ _ _ _ _ _ _ _) | with_reducible apply sequenced_law
    | with_reducible refine Law.foldl _ _ _ ?_ ?_ | (show (_ : List Part) ⊆ _; decide) | (show (_ : List Part) ⊆ _; decide) | (intro _)
    | split | (dsimp +zetaDelta only [id]))

end Sys2Proof.Machine
end

