-- ==== Sys2Proof/Laws/Update.lean ====
section
/-! SUPPORT. What each operation of Machine/Update.lean may touch, one lemma for each, and that it keeps memory in its canonical form. -/

set_option maxRecDepth 4000
set_option linter.all false

namespace Sys2Proof.Machine

theorem onUpd_law (f : UpdSt → UpdSt) (s : State) :
    Law [.upd] s (onUpd f s) := by
  unfold onUpd
  repeat' (first
    | extract_lets | with_reducible exact Law.refl _ _ | with_reducible assumption | with_reducible refine Law.foldl _ _ _ ?_ ?_
    | (show (_ : List Part) ⊆ _; decide) | (show (_ : List Part) ⊆ _; decide) | (intro _) | split
    | with_reducible refine Law.set_upd _ (by decide) ?_ | (dsimp +zetaDelta only [id]))

theorem endSession_law (cause : Nat) (s : State) :
    Law [.tally, .log, .upd] s (endSession cause s) := by
  unfold endSession
  repeat' (first
    | extract_lets | with_reducible exact Law.refl _ _ | with_reducible assumption
    | with_reducible apply Law.step (logRec_law _ _ _ _ _ _ _) | with_reducible apply Law.step (onUpd_law _ _)
    | with_reducible refine Law.foldl _ _ _ ?_ ?_ | (show (_ : List Part) ⊆ _; decide) | (show (_ : List Part) ⊆ _; decide) | (intro _)
    | split | (dsimp +zetaDelta only [id]))

theorem onUpdate_law {L : List Part} {s₀ : State} (r : Nat) (opc : Nat) (s : State) (act : Entry → State) (h₀ : Law L s₀ s) (h_act : ∀ (y0 : Entry), Law L s₀ (act y0)) (hL : [.hst] ⊆ L) :
    Law L s₀ (onUpdate r opc s act) := by
  unfold onUpdate
  repeat' (first
    | extract_lets | with_reducible exact Law.refl _ _ | with_reducible assumption | with_reducible apply h_act
    | with_reducible apply onAdmin_law | with_reducible refine Law.foldl _ _ _ ?_ ?_
    | (show (_ : List Part) ⊆ _; exact List.Subset.trans (by decide) hL)
    | (show (_ : List Part) ⊆ _; exact List.Subset.trans (by decide) hL) | (intro _) | split | (dsimp +zetaDelta only [id]))

theorem execUpdOpen_law (r : RingIx) (s : State) :
    OutLaw [.freeCtr, .host, .hst, .tally, .log, .upd, .sent] s (execUpdOpen r s) := by
  unfold execUpdOpen
  dsimp only [drawFree]
  repeat' (first
    | with_reducible refine OutLaw.next ?_ | extract_lets | with_reducible exact Law.refl _ _ | with_reducible assumption
    | with_reducible apply Law.step (complete_law _ _ _ _ _) | with_reducible apply Law.step (logRec_law _ _ _ _ _ _ _)
    | with_reducible apply Law.step (onUpd_law _ _) | with_reducible apply onUpdate_law | with_reducible refine Law.foldl _ _ _ ?_ ?_
    | (show (_ : List Part) ⊆ _; decide) | (show (_ : List Part) ⊆ _; decide) | (intro _) | split
    | with_reducible refine Law.set_freeCtr _ (by decide) ?_ | (dsimp +zetaDelta only [id]))

theorem touch_law (s : State) :
    Law [.upd] s (touch s) := by
  unfold touch
  repeat' (first
    | extract_lets | with_reducible exact Law.refl _ _ | with_reducible assumption | with_reducible apply Law.step (onUpd_law _ _)
    | with_reducible refine Law.foldl _ _ _ ?_ ?_ | (show (_ : List Part) ⊆ _; decide) | (show (_ : List Part) ⊆ _; decide) | (intro _)
    | split | (dsimp +zetaDelta only [id]))

theorem execUpdWrite_law (r : RingIx) (wellOk : Bool) (s : State) :
    OutLaw [.freeCtr, .mem, .host, .cores, .clus, .ctxs, .ddr, .hst, .idb, .rst, .tally, .log, .fab, .link, .stew, .ckpt, .boot, .upd, .pins, .side, .sent] s (execUpdWrite r wellOk s) := by
  unfold execUpdWrite
  repeat' (first
    | with_reducible refine OutLaw.next ?_ | extract_lets | with_reducible exact Law.refl _ _ | with_reducible assumption
    | with_reducible apply withTable_law | with_reducible apply Law.step (complete_law _ _ _ _ _)
    | with_reducible apply Law.step (onUpd_law _ _) | with_reducible apply Law.step (endSession_law _ _)
    | with_reducible apply onUpdate_law | with_reducible apply Law.step (touch_law _) | with_reducible refine Law.foldl _ _ _ ?_ ?_
    | (show (_ : List Part) ⊆ _; decide) | (show (_ : List Part) ⊆ _; decide) | (intro _) | split | (dsimp +zetaDelta only [id]))

theorem execUpdCommit_law (r : RingIx) (wellOk : Bool) (s : State) :
    OutLaw [.host, .hst, .tally, .log, .upd, .sent] s (execUpdCommit r wellOk s) := by
  unfold execUpdCommit
  repeat' (first
    | with_reducible refine OutLaw.next ?_ | extract_lets | with_reducible exact Law.refl _ _ | with_reducible assumption
    | with_reducible apply Law.step (complete_law _ _ _ _ _) | with_reducible apply Law.step (logRec_law _ _ _ _ _ _ _)
    | with_reducible apply Law.step (onUpd_law _ _) | with_reducible apply Law.step (endSession_law _ _)
    | with_reducible apply onUpdate_law | with_reducible apply Law.step (touch_law _) | with_reducible refine Law.foldl _ _ _ ?_ ?_
    | (show (_ : List Part) ⊆ _; decide) | (show (_ : List Part) ⊆ _; decide) | (intro _) | split | (dsimp +zetaDelta only [id]))

theorem execUpdAbort_law (r : RingIx) (s : State) :
    OutLaw [.host, .hst, .tally, .log, .upd, .sent] s (execUpdAbort r s) := by
  unfold execUpdAbort
  repeat' (first
    | with_reducible refine OutLaw.next ?_ | extract_lets | with_reducible exact Law.refl _ _ | with_reducible assumption
    | with_reducible apply Law.step (complete_law _ _ _ _ _) | with_reducible apply Law.step (endSession_law _ _)
    | with_reducible apply onUpdate_law | with_reducible refine Law.foldl _ _ _ ?_ ?_ | (show (_ : List Part) ⊆ _; decide)
    | (show (_ : List Part) ⊆ _; decide) | (intro _) | split | (dsimp +zetaDelta only [id]))

theorem execUpdStatus_law (r : RingIx) (s : State) :
    OutLaw [.host, .hst, .tally, .sent] s (execUpdStatus r s) := by
  unfold execUpdStatus
  repeat' (first
    | with_reducible refine OutLaw.next ?_ | extract_lets | with_reducible exact Law.refl _ _ | with_reducible assumption
    | with_reducible apply Law.step (complete_law _ _ _ _ _) | with_reducible apply onUpdate_law
    | with_reducible refine Law.foldl _ _ _ ?_ ?_ | (show (_ : List Part) ⊆ _; decide) | (show (_ : List Part) ⊆ _; decide) | (intro _)
    | split | (dsimp +zetaDelta only [id]))

theorem execUpdSessionIdle_law (s : State) :
    OutLaw [.tally, .log, .upd] s (execUpdSessionIdle s) := by
  unfold execUpdSessionIdle
  repeat' (first
    | with_reducible refine OutLaw.next ?_ | extract_lets | with_reducible exact Law.refl _ _ | with_reducible assumption
    | with_reducible apply Law.step (endSession_law _ _) | with_reducible refine Law.foldl _ _ _ ?_ ?_
    | (show (_ : List Part) ⊆ _; decide) | (show (_ : List Part) ⊆ _; decide) | (intro _) | split | (dsimp +zetaDelta only [id]))

theorem attestation_law (nonce : List Byte) (s : State) :
    Law [.freeCtr] s (attestation nonce s).2 := by
  unfold attestation
  repeat' (first
    | extract_lets | with_reducible exact Law.refl _ _ | with_reducible assumption | with_reducible refine Law.foldl _ _ _ ?_ ?_
    | (show (_ : List Part) ⊆ _; decide) | (show (_ : List Part) ⊆ _; decide) | (intro _) | split
    | with_reducible refine Law.set_freeCtr _ (by decide) ?_ | (dsimp +zetaDelta only [id]))

theorem execAttest_law (r : RingIx) (s : State) :
    OutLaw [.freeCtr, .mem, .host, .cores, .clus, .ddr, .hst, .tally, .log, .ckpt, .sent] s (execAttest r s) := by
  unfold execAttest
  repeat' (first
    | with_reducible refine OutLaw.next ?_ | extract_lets | with_reducible exact Law.refl _ _ | with_reducible assumption
    | with_reducible apply Law.step (writeTable_law _ _ _ _ _) | with_reducible apply Law.step (complete_law _ _ _ _ _)
    | with_reducible apply Law.step (logRec_law _ _ _ _ _ _ _) | with_reducible apply onUpdate_law
    | with_reducible apply Law.step (attestation_law _ _) | with_reducible refine Law.foldl _ _ _ ?_ ?_
    | (show (_ : List Part) ⊆ _; decide) | (show (_ : List Part) ⊆ _; decide) | (intro _) | split | (dsimp +zetaDelta only [id]))

end Sys2Proof.Machine
end

