-- ==== Sys2Proof/Laws/Host.lean ====
section
/-! SUPPORT. What each operation of Machine/Host.lean may touch, one lemma for each, and that it keeps memory in its canonical form. -/

set_option maxRecDepth 4000
set_option linter.all false

namespace Sys2Proof.Machine

theorem onHst_law (f : HostIf → HostIf) (s : State) :
    Law [.hst] s (onHst f s) := by
  unfold onHst
  repeat' (first
    | extract_lets | with_reducible exact Law.refl _ _ | with_reducible assumption | with_reducible refine Law.foldl _ _ _ ?_ ?_
    | (show (_ : List Part) ⊆ _; decide) | (show (_ : List Part) ⊆ _; decide) | (intro _) | split
    | with_reducible refine Law.set_hst _ (by decide) ?_ | (dsimp +zetaDelta only [id]))

theorem zeroGuards_law (s : State) :
    Law [.freeCtr, .mem, .host, .ddr, .tally, .ckpt] s (zeroGuards s) := by
  unfold zeroGuards
  repeat' (first
    | extract_lets | with_reducible exact Law.refl _ _ | with_reducible assumption | with_reducible apply Law.step (zeroGuard_law _ _)
    | with_reducible apply Law.step (zeroWaiting_law _ _) | with_reducible refine Law.foldl _ _ _ ?_ ?_
    | (show (_ : List Part) ⊆ _; decide) | (show (_ : List Part) ⊆ _; decide) | (intro _) | split | (dsimp +zetaDelta only [id]))

theorem tearAll_law (s : State) :
    Law [.freeCtr, .mem, .host, .cores, .clus, .ctxs, .ddr, .hst, .tally, .log, .fab, .link, .stew, .ckpt, .pins, .side, .sent] s (tearAll s) := by
  unfold tearAll
  repeat' (first
    | extract_lets | with_reducible exact Law.refl _ _ | with_reducible assumption | with_reducible apply Law.step (teardown_law _ _ _)
    | with_reducible refine Law.foldl _ _ _ ?_ ?_ | (show (_ : List Part) ⊆ _; decide) | (show (_ : List Part) ⊆ _; decide) | (intro _)
    | split | (dsimp +zetaDelta only [id]))

theorem dropHubCopies_law (s : State) :
    Law [.ddr, .link] s (dropHubCopies s) := by
  unfold dropHubCopies
  repeat' (first
    | extract_lets | with_reducible exact Law.refl _ _ | with_reducible assumption | with_reducible apply Law.step (dropXfer_law _ _)
    | with_reducible refine Law.foldl _ _ _ ?_ ?_ | (show (_ : List Part) ⊆ _; decide) | (show (_ : List Part) ⊆ _; decide) | (intro _)
    | split | with_reducible refine Law.set_ddr _ (by decide) ?_ | (dsimp +zetaDelta only [id]))

theorem clearBusErr_law (s : State) :
    Law [.idb] s (clearBusErr s) := by
  unfold clearBusErr
  repeat' (first
    | extract_lets | with_reducible exact Law.refl _ _ | with_reducible assumption | with_reducible refine Law.foldl _ _ _ ?_ ?_
    | (show (_ : List Part) ⊆ _; decide) | (show (_ : List Part) ⊆ _; decide) | (intro _) | split
    | with_reducible refine Law.set_idb _ (by decide) ?_ | (dsimp +zetaDelta only [id]))

theorem hostReset_law (cause : Nat) (s : State) :
    Law [.freeCtr, .mem, .host, .cores, .clus, .ctxs, .ddr, .hst, .idb, .rst, .tally, .log, .fab, .link, .stew, .ckpt, .upd, .pins, .side, .sent] s (hostReset cause s) := by
  unfold hostReset
  repeat' (first
    | extract_lets | with_reducible exact Law.refl _ _ | with_reducible assumption | with_reducible apply Law.step (onHst_law _ _)
    | with_reducible apply Law.step (zeroGuards_law _) | with_reducible apply Law.step (tearAll_law _)
    | with_reducible apply Law.step (dropHubCopies_law _) | with_reducible apply Law.step (clearBusErr_law _)
    | with_reducible apply Law.step (logRec_law _ _ _ _ _ _ _) | with_reducible apply Law.step (endSession_law _ _)
    | with_reducible refine Law.foldl _ _ _ ?_ ?_ | (show (_ : List Part) ⊆ _; decide) | (show (_ : List Part) ⊆ _; decide) | (intro _)
    | split | with_reducible refine Law.set_rst _ (by decide) ?_ | (dsimp +zetaDelta only [id]))

theorem execFunctionLevelReset_law (s : State) :
    OutLaw [.freeCtr, .mem, .host, .cores, .clus, .ctxs, .ddr, .hst, .idb, .rst, .tally, .log, .fab, .link, .stew, .ckpt, .upd, .pins, .side, .sent] s (execFunctionLevelReset s) := by
  unfold execFunctionLevelReset
  repeat' (first
    | with_reducible refine OutLaw.next ?_ | extract_lets | with_reducible exact Law.refl _ _ | with_reducible assumption
    | with_reducible apply Law.step (hostReset_law _ _) | with_reducible refine Law.foldl _ _ _ ?_ ?_ | (show (_ : List Part) ⊆ _; decide)
    | (show (_ : List Part) ⊆ _; decide) | (intro _) | split | (dsimp +zetaDelta only [id]))

theorem execHotReset_law (s : State) :
    OutLaw [.freeCtr, .mem, .host, .cores, .clus, .ctxs, .ddr, .hst, .idb, .rst, .tally, .log, .fab, .link, .stew, .ckpt, .upd, .pins, .side, .sent] s (execHotReset s) := by
  unfold execHotReset
  repeat' (first
    | with_reducible refine OutLaw.next ?_ | extract_lets | with_reducible exact Law.refl _ _ | with_reducible assumption
    | with_reducible apply Law.step (hostReset_law _ _) | with_reducible refine Law.foldl _ _ _ ?_ ?_ | (show (_ : List Part) ⊆ _; decide)
    | (show (_ : List Part) ⊆ _; decide) | (intro _) | split | (dsimp +zetaDelta only [id]))

theorem execLinkDownTimeout_law (s : State) :
    OutLaw [.freeCtr, .mem, .host, .cores, .clus, .ctxs, .ddr, .hst, .idb, .rst, .tally, .log, .fab, .link, .stew, .ckpt, .upd, .pins, .side, .sent] s (execLinkDownTimeout s) := by
  unfold execLinkDownTimeout
  repeat' (first
    | with_reducible refine OutLaw.next ?_ | extract_lets | with_reducible exact Law.refl _ _ | with_reducible assumption
    | with_reducible apply Law.step (hostReset_law _ _) | with_reducible refine Law.foldl _ _ _ ?_ ?_ | (show (_ : List Part) ⊆ _; decide)
    | (show (_ : List Part) ⊆ _; decide) | (intro _) | split | (dsimp +zetaDelta only [id]))

theorem execHostInterfaceResetComplete_law (s : State) :
    OutLaw [.hst, .pins] s (execHostInterfaceResetComplete s) := by
  unfold execHostInterfaceResetComplete
  repeat' (first
    | with_reducible refine OutLaw.next ?_ | extract_lets | with_reducible exact Law.refl _ _ | with_reducible assumption
    | with_reducible apply Law.step (onHst_law _ _) | with_reducible refine Law.foldl _ _ _ ?_ ?_ | (show (_ : List Part) ⊆ _; decide)
    | (show (_ : List Part) ⊆ _; decide) | (intro _) | split | with_reducible refine Law.set_pins _ (by decide) ?_
    | (dsimp +zetaDelta only [id]))

theorem execLinkRateOrWidthChange_law (rate10 : Nat) (formed : Nat) (s : State) :
    OutLaw [.hst, .tally, .log] s (execLinkRateOrWidthChange rate10 formed s) := by
  unfold execLinkRateOrWidthChange
  repeat' (first
    | with_reducible refine OutLaw.next ?_ | extract_lets | with_reducible exact Law.refl _ _ | with_reducible assumption
    | with_reducible apply Law.step (onHst_law _ _) | with_reducible apply Law.step (logRec_law _ _ _ _ _ _ _)
    | with_reducible refine Law.foldl _ _ _ ?_ ?_ | (show (_ : List Part) ⊆ _; decide) | (show (_ : List Part) ⊆ _; decide) | (intro _)
    | split | (dsimp +zetaDelta only [id]))

theorem flushMsix_law (s : State) :
    Law [.hst, .tally, .sent] s (flushMsix s) := by
  unfold flushMsix
  repeat' (first
    | extract_lets | with_reducible exact Law.refl _ _ | with_reducible assumption | with_reducible apply Law.step (onHst_law _ _)
    | with_reducible apply Law.step (sendMsix_law _ _) | with_reducible refine Law.foldl _ _ _ ?_ ?_ | (show (_ : List Part) ⊆ _; decide)
    | (show (_ : List Part) ⊆ _; decide) | (intro _) | split | (dsimp +zetaDelta only [id]))

theorem flushCq_law (s : State) :
    Law [.mem, .host, .hst, .tally] s (flushCq s) := by
  unfold flushCq
  repeat' (first
    | extract_lets | with_reducible exact Law.refl _ _ | with_reducible assumption | with_reducible apply Law.step (onHst_law _ _)
    | with_reducible apply Law.step (writeMem_law _ _ _) | with_reducible apply Law.step (countHub_law _ _ _ _)
    | with_reducible refine Law.foldl _ _ _ ?_ ?_ | (show (_ : List Part) ⊆ _; decide) | (show (_ : List Part) ⊆ _; decide) | (intro _)
    | split | (dsimp +zetaDelta only [id]))

theorem execBusMasterEnableChange_law (bme : Bool) (d3hot : Bool) (mse : Bool) (ctl : PciCtl) (s : State) :
    OutLaw [.mem, .host, .hst, .tally, .sent] s (execBusMasterEnableChange bme d3hot mse ctl s) := by
  unfold execBusMasterEnableChange
  repeat' (first
    | with_reducible refine OutLaw.next ?_ | extract_lets | with_reducible exact Law.refl _ _ | with_reducible assumption
    | with_reducible apply Law.step (onHst_law _ _) | with_reducible apply Law.step (flushMsix_law _)
    | with_reducible apply Law.step (flushCq_law _) | with_reducible refine Law.foldl _ _ _ ?_ ?_ | (show (_ : List Part) ⊆ _; decide)
    | (show (_ : List Part) ⊆ _; decide) | (intro _) | split | (dsimp +zetaDelta only [id]))

theorem breakOp_law (g : Nat) (st : Nat) (i : Nat) (cause : Nat) (bus : Nat) (s : State) :
    Law [.freeCtr, .mem, .host, .cores, .clus, .ctxs, .ddr, .hst, .idb, .rst, .tally, .log, .fab, .link, .stew, .ckpt, .boot, .pins, .side, .sent] s (breakOp g st i cause bus s) := by
  unfold breakOp
  repeat' (first
    | extract_lets | with_reducible exact Law.refl _ _ | with_reducible assumption
    | with_reducible apply Law.step (execFault_law _ _ _ _ _ _) | with_reducible apply Law.step (updStrm_law _ _ _ _)
    | with_reducible apply finishXfer_law | with_reducible refine Law.foldl _ _ _ ?_ ?_ | (show (_ : List Part) ⊆ _; decide)
    | (show (_ : List Part) ⊆ _; decide) | (intro _) | split | (dsimp +zetaDelta only [id]))

theorem execHostReadFailure_law (who : HostReader) (why : HostFail) (bus : DWord) (s : State) :
    OutLaw [.freeCtr, .mem, .host, .cores, .clus, .ctxs, .ddr, .hst, .idb, .rst, .tally, .log, .fab, .link, .stew, .ckpt, .boot, .pins, .side, .sent] s (execHostReadFailure who why bus s) := by
  unfold execHostReadFailure
  repeat' (first
    | with_reducible refine OutLaw.next ?_ | extract_lets | with_reducible exact Law.refl _ _ | with_reducible assumption
    | with_reducible apply Law.step (breakOp_law _ _ _ _ _ _) | with_reducible apply Law.step (logRec_law _ _ _ _ _ _ _)
    | with_reducible apply Law.step (ringError_law _ _ _ _) | with_reducible apply Law.step (aer_law _ _)
    | with_reducible refine Law.foldl _ _ _ ?_ ?_ | (show (_ : List Part) ⊆ _; decide) | (show (_ : List Part) ⊆ _; decide) | (intro _)
    | split | (dsimp +zetaDelta only [id]))

theorem poisonEntry_law (r : Nat) (bus : Nat) (s : State) :
    Law [.ddr] s (poisonEntry r bus s) := by
  unfold poisonEntry
  repeat' (first
    | extract_lets | with_reducible exact Law.refl _ _ | with_reducible assumption | with_reducible apply Law.step (setEngine_law _ _ _)
    | with_reducible refine Law.foldl _ _ _ ?_ ?_ | (show (_ : List Part) ⊆ _; decide) | (show (_ : List Part) ⊆ _; decide) | (intro _)
    | split | (dsimp +zetaDelta only [id]))

theorem execPoisonedTlpReceived_law (who : Option HostReader) (bus : DWord) (s : State) :
    OutLaw [.freeCtr, .mem, .host, .cores, .clus, .ctxs, .ddr, .hst, .idb, .rst, .tally, .log, .fab, .link, .stew, .ckpt, .boot, .pins, .side, .sent] s (execPoisonedTlpReceived who bus s) := by
  unfold execPoisonedTlpReceived
  repeat' (first
    | with_reducible refine OutLaw.next ?_ | extract_lets | with_reducible exact Law.refl _ _ | with_reducible assumption
    | with_reducible apply Law.step (breakOp_law _ _ _ _ _ _) | with_reducible apply Law.step (poisonEntry_law _ _ _)
    | with_reducible apply Law.step (ringError_law _ _ _ _) | with_reducible apply Law.step (aer_law _ _)
    | with_reducible refine Law.foldl _ _ _ ?_ ?_ | (show (_ : List Part) ⊆ _; decide) | (show (_ : List Part) ⊆ _; decide) | (intro _)
    | split | (dsimp +zetaDelta only [id]))

theorem execBar4Read_law (off : Nat) (len : Nat) (s : State) :
    OutLaw [.freeCtr, .mem, .host, .cores, .clus, .ctxs, .ddr, .hst, .tally, .log, .fab, .link, .stew, .ckpt, .boot, .pins, .side, .sent] s (execBar4Read off len s) := by
  unfold execBar4Read
  repeat' (first
    | with_reducible refine OutLaw.next ?_ | extract_lets | with_reducible exact Law.refl _ _ | with_reducible assumption
    | with_reducible apply Law.step (send_law _ _ _ _) | with_reducible apply Law.step (readRange_law _ _ _)
    | with_reducible apply Law.step (aer_law _ _) | with_reducible apply onBar_law | with_reducible refine Law.foldl _ _ _ ?_ ?_
    | (show (_ : List Part) ⊆ _; decide) | (show (_ : List Part) ⊆ _; decide) | (intro _) | split | (dsimp +zetaDelta only [id]))

theorem bar4Drop_law (cause : Nat) (a : Nat) (off : Nat) (len : Nat) (s : State) :
    Law [.hst, .tally, .log] s (bar4Drop cause a off len s) := by
  unfold bar4Drop
  repeat' (first
    | extract_lets | with_reducible exact Law.refl _ _ | with_reducible assumption
    | with_reducible apply Law.step (logRate_law _ _ _ _ _ _ _ _ _) | with_reducible apply Law.step (aer_law _ _)
    | with_reducible refine Law.foldl _ _ _ ?_ ?_ | (show (_ : List Part) ⊆ _; decide) | (show (_ : List Part) ⊆ _; decide) | (intro _)
    | split | (dsimp +zetaDelta only [id]))

theorem execBar4Write_law (off : Nat) (data : List (Option Byte)) (s : State) :
    OutLaw [.freeCtr, .mem, .host, .cores, .clus, .ddr, .hst, .tally, .log, .ckpt, .sent] s (execBar4Write off data s) := by
  unfold execBar4Write
  repeat' (first
    | with_reducible refine OutLaw.next ?_ | extract_lets | with_reducible exact Law.refl _ _ | with_reducible assumption
    | with_reducible apply Law.step (bar4Drop_law _ _ _ _ _) | with_reducible apply Law.step (store_law _ _ _)
    | with_reducible apply onBar_law | with_reducible refine Law.foldl _ _ _ ?_ ?_ | (show (_ : List Part) ⊆ _; decide)
    | (show (_ : List Part) ⊆ _; decide) | (intro _) | split | (dsimp +zetaDelta only [id]))

end Sys2Proof.Machine
end

