-- ==== Sys2Proof/Laws/Resets.lean ====
section
/-! SUPPORT. What each operation of Machine/Resets.lean may touch, one lemma for each, and that it keeps memory in its canonical form. -/

set_option maxRecDepth 4000
set_option linter.all false

namespace Sys2Proof.Machine

theorem onRst_law (f : RstSt → RstSt) (s : State) :
    Law [.rst] s (onRst f s) := by
  unfold onRst
  repeat' (first
    | extract_lets | with_reducible exact Law.refl _ _ | with_reducible assumption | with_reducible refine Law.foldl _ _ _ ?_ ?_
    | (show (_ : List Part) ⊆ _; decide) | (show (_ : List Part) ⊆ _; decide) | (intro _) | split
    | with_reducible refine Law.set_rst _ (by decide) ?_ | (dsimp +zetaDelta only [id]))

theorem countReset_law (kind : Nat) (s : State) :
    Law [.rst] s (countReset kind s) := by
  unfold countReset
  repeat' (first
    | extract_lets | with_reducible exact Law.refl _ _ | with_reducible assumption | with_reducible apply Law.step (onRst_law _ _)
    | with_reducible refine Law.foldl _ _ _ ?_ ?_ | (show (_ : List Part) ⊆ _; decide) | (show (_ : List Part) ⊆ _; decide) | (intro _)
    | split | (dsimp +zetaDelta only [id]))

theorem moduleStops_law (s : State) :
    Law [.host, .cores, .ctxs, .hst, .tally, .log, .stew, .ckpt, .upd, .pins, .side, .sent] s (moduleStops s) := by
  unfold moduleStops
  repeat' (first
    | extract_lets | with_reducible exact Law.refl _ _ | with_reducible assumption | with_reducible apply Law.step (onHst_law _ _)
    | with_reducible apply Law.step (ckptFail_law _ _ _) | with_reducible apply Law.step (endSession_law _ _)
    | with_reducible refine Law.foldl _ _ _ ?_ ?_ | (show (_ : List Part) ⊆ _; decide) | (show (_ : List Part) ⊆ _; decide) | (intro _)
    | split | (dsimp +zetaDelta only [id]))

theorem lanePairOff_law (p : Nat) (l : Nat) (s : State) :
    Law [.tally, .log, .fab, .link] s (lanePairOff p l s) := by
  unfold lanePairOff
  repeat' (first
    | extract_lets | with_reducible exact Law.refl _ _ | with_reducible assumption | with_reducible apply Law.step (pairOff_law _ _ _)
    | with_reducible apply Law.step (updPair_law _ _ _ _) | with_reducible refine Law.foldl _ _ _ ?_ ?_
    | (show (_ : List Part) ⊆ _; decide) | (show (_ : List Part) ⊆ _; decide) | (intro _) | split | (dsimp +zetaDelta only [id]))

theorem beginReset_law (kind : Nat) (index : Nat) (cause : Nat) (s : State) :
    Law [.host, .cores, .ctxs, .hst, .rst, .tally, .log, .fab, .link, .stew, .ckpt, .upd, .pins, .side, .sent] s (beginReset kind index cause s) := by
  unfold beginReset
  repeat' (first
    | extract_lets | with_reducible exact Law.refl _ _ | with_reducible assumption | with_reducible apply Law.step (report_law _ _)
    | with_reducible apply Law.step (genAdvance_law _ _) | with_reducible apply Law.step (logRec_law _ _ _ _ _ _ _)
    | with_reducible apply Law.step (onRst_law _ _) | with_reducible apply Law.step (countReset_law _ _)
    | with_reducible apply Law.step (moduleStops_law _) | with_reducible apply Law.step (lanePairOff_law _ _ _)
    | with_reducible refine Law.foldl _ _ _ ?_ ?_ | (show (_ : List Part) ⊆ _; decide) | (show (_ : List Part) ⊆ _; decide) | (intro _)
    | split | (dsimp +zetaDelta only [id]))

theorem trigReset_law (kind : Nat) (index : Nat) (cause : Nat) (s : State) :
    Law [.host, .cores, .ctxs, .hst, .rst, .tally, .log, .fab, .link, .stew, .ckpt, .upd, .pins, .side, .sent] s (trigReset kind index cause s) := by
  unfold trigReset
  repeat' (first
    | extract_lets | with_reducible exact Law.refl _ _ | with_reducible assumption
    | with_reducible apply Law.step (logRec_law _ _ _ _ _ _ _) | with_reducible apply Law.step (beginReset_law _ _ _ _)
    | with_reducible refine Law.foldl _ _ _ ?_ ?_ | (show (_ : List Part) ⊆ _; decide) | (show (_ : List Part) ⊆ _; decide) | (intro _)
    | split | (dsimp +zetaDelta only [id]))

theorem execCoreReset_law (g : Core) (cause : Nat) (s : State) :
    OutLaw [.host, .cores, .ctxs, .hst, .rst, .tally, .log, .fab, .link, .stew, .ckpt, .upd, .pins, .side, .sent] s (execCoreReset g cause s) := by
  unfold execCoreReset
  repeat' (first
    | with_reducible refine OutLaw.next ?_ | extract_lets | with_reducible exact Law.refl _ _ | with_reducible assumption
    | with_reducible apply Law.step (trigReset_law _ _ _ _) | with_reducible refine Law.foldl _ _ _ ?_ ?_
    | (show (_ : List Part) ⊆ _; decide) | (show (_ : List Part) ⊆ _; decide) | (intro _) | split | (dsimp +zetaDelta only [id]))

theorem execClusterReset_law (c : Clu) (cause : Nat) (s : State) :
    OutLaw [.host, .cores, .ctxs, .hst, .rst, .tally, .log, .fab, .link, .stew, .ckpt, .upd, .pins, .side, .sent] s (execClusterReset c cause s) := by
  unfold execClusterReset
  repeat' (first
    | with_reducible refine OutLaw.next ?_ | extract_lets | with_reducible exact Law.refl _ _ | with_reducible assumption
    | with_reducible apply Law.step (trigReset_law _ _ _ _) | with_reducible refine Law.foldl _ _ _ ?_ ?_
    | (show (_ : List Part) ⊆ _; decide) | (show (_ : List Part) ⊆ _; decide) | (intro _) | split | (dsimp +zetaDelta only [id]))

theorem execHalfReset_law (h : Hlf) (cause : Nat) (s : State) :
    OutLaw [.host, .cores, .ctxs, .hst, .rst, .tally, .log, .fab, .link, .stew, .ckpt, .upd, .pins, .side, .sent] s (execHalfReset h cause s) := by
  unfold execHalfReset
  repeat' (first
    | with_reducible refine OutLaw.next ?_ | extract_lets | with_reducible exact Law.refl _ _ | with_reducible assumption
    | with_reducible apply Law.step (trigReset_law _ _ _ _) | with_reducible refine Law.foldl _ _ _ ?_ ?_
    | (show (_ : List Part) ⊆ _; decide) | (show (_ : List Part) ⊆ _; decide) | (intro _) | split | (dsimp +zetaDelta only [id]))

theorem execComputeReset_law (cause : Nat) (s : State) :
    OutLaw [.host, .cores, .ctxs, .hst, .rst, .tally, .log, .fab, .link, .stew, .ckpt, .upd, .pins, .side, .sent] s (execComputeReset cause s) := by
  unfold execComputeReset
  repeat' (first
    | with_reducible refine OutLaw.next ?_ | extract_lets | with_reducible exact Law.refl _ _ | with_reducible assumption
    | with_reducible apply Law.step (trigReset_law _ _ _ _) | with_reducible refine Law.foldl _ _ _ ?_ ?_
    | (show (_ : List Part) ⊆ _; decide) | (show (_ : List Part) ⊆ _; decide) | (intro _) | split | (dsimp +zetaDelta only [id]))

theorem execFabricLaneReset_law (p : Plane) (l : Lane) (cause : Nat) (s : State) :
    OutLaw [.host, .cores, .ctxs, .hst, .rst, .tally, .log, .fab, .link, .stew, .ckpt, .upd, .pins, .side, .sent] s (execFabricLaneReset p l cause s) := by
  unfold execFabricLaneReset
  repeat' (first
    | with_reducible refine OutLaw.next ?_ | extract_lets | with_reducible exact Law.refl _ _ | with_reducible assumption
    | with_reducible apply Law.step (trigReset_law _ _ _ _) | with_reducible refine Law.foldl _ _ _ ?_ ?_
    | (show (_ : List Part) ⊆ _; decide) | (show (_ : List Part) ⊆ _; decide) | (intro _) | split | (dsimp +zetaDelta only [id]))

theorem execModuleWarmReset_law (cause : Nat) (s : State) :
    OutLaw [.host, .cores, .ctxs, .hst, .rst, .tally, .log, .fab, .link, .stew, .ckpt, .upd, .pins, .side, .sent] s (execModuleWarmReset cause s) := by
  unfold execModuleWarmReset
  repeat' (first
    | with_reducible refine OutLaw.next ?_ | extract_lets | with_reducible exact Law.refl _ _ | with_reducible assumption
    | with_reducible apply Law.step (trigReset_law _ _ _ _) | with_reducible refine Law.foldl _ _ _ ?_ ?_
    | (show (_ : List Part) ⊆ _; decide) | (show (_ : List Part) ⊆ _; decide) | (intro _) | split | (dsimp +zetaDelta only [id]))

theorem execModuleColdReset_law (cause : Nat) (s : State) :
    OutLaw [.host, .cores, .ctxs, .hst, .rst, .tally, .log, .fab, .link, .stew, .ckpt, .upd, .pins, .side, .sent] s (execModuleColdReset cause s) := by
  unfold execModuleColdReset
  repeat' (first
    | with_reducible refine OutLaw.next ?_ | extract_lets | with_reducible exact Law.refl _ _ | with_reducible assumption
    | with_reducible apply Law.step (trigReset_law _ _ _ _) | with_reducible refine Law.foldl _ _ _ ?_ ?_
    | (show (_ : List Part) ⊆ _; decide) | (show (_ : List Part) ⊆ _; decide) | (intro _) | split | (dsimp +zetaDelta only [id]))

theorem setRun_law (a : ResetRun) (b : ResetRun) (s : State) :
    Law [.rst] s (setRun a b s) := by
  unfold setRun
  repeat' (first
    | extract_lets | with_reducible exact Law.refl _ _ | with_reducible assumption | with_reducible apply Law.step (onRst_law _ _)
    | with_reducible refine Law.foldl _ _ _ ?_ ?_ | (show (_ : List Part) ⊆ _; decide) | (show (_ : List Part) ⊆ _; decide) | (intro _)
    | split | (dsimp +zetaDelta only [id]))

theorem execResetDrainEnd_law (s : State) :
    OutLaw [.freeCtr, .mem, .host, .cores, .clus, .ctxs, .ddr, .hst, .rst, .tally, .log, .fab, .link, .stew, .ckpt, .pins, .side, .sent] s (execResetDrainEnd s) := by
  unfold execResetDrainEnd
  repeat' (first
    | with_reducible refine OutLaw.next ?_ | extract_lets | with_reducible exact Law.refl _ _ | with_reducible assumption
    | with_reducible apply Law.step (disposeCtx_law _ _) | with_reducible apply Law.step (setRun_law _ _ _)
    | with_reducible refine Law.foldl _ _ _ ?_ ?_ | (show (_ : List Part) ⊆ _; decide) | (show (_ : List Part) ⊆ _; decide) | (intro _)
    | split | (dsimp +zetaDelta only [id]))

theorem clearCore_law (g : Nat) (s : State) :
    Law [.freeCtr, .mem, .host, .cores, .clus, .ddr, .tally, .ckpt] s (clearCore g s) := by
  unfold clearCore
  repeat' (first
    | extract_lets | with_reducible exact Law.refl _ _ | with_reducible assumption | with_reducible apply Law.step (disposeCore_law _ _)
    | with_reducible apply Law.step (scrubCore_law _ _) | with_reducible apply Law.step (updCore_law _ _ _)
    | with_reducible refine Law.foldl _ _ _ ?_ ?_ | (show (_ : List Part) ⊆ _; decide) | (show (_ : List Part) ⊆ _; decide) | (intro _)
    | split | (dsimp +zetaDelta only [id]))

theorem clearClu_law (c : Nat) (s : State) :
    Law [.freeCtr, .mem, .host, .cores, .clus, .ddr, .tally, .ckpt] s (clearClu c s) := by
  unfold clearClu
  repeat' (first
    | extract_lets | with_reducible exact Law.refl _ _ | with_reducible assumption | with_reducible apply Law.step (setEngine_law _ _ _)
    | with_reducible apply Law.step (updClu_law _ _ _) | with_reducible apply Law.step (clearCore_law _ _)
    | with_reducible refine Law.foldl _ _ _ ?_ ?_ | (show (_ : List Part) ⊆ _; decide) | (show (_ : List Part) ⊆ _; decide) | (intro _)
    | split | (dsimp +zetaDelta only [id]))

theorem dropCounters_law (h : Nat) (s : State) :
    Law [.tally] s (dropCounters h s) := by
  unfold dropCounters
  repeat' (first
    | extract_lets | with_reducible exact Law.refl _ _ | with_reducible assumption | with_reducible refine Law.foldl _ _ _ ?_ ?_
    | (show (_ : List Part) ⊆ _; decide) | (show (_ : List Part) ⊆ _; decide) | (intro _) | split
    | with_reducible refine Law.set_tally _ (by decide) ?_ | (dsimp +zetaDelta only [id]))

theorem clearHalf_law (h : Nat) (s : State) :
    Law [.freeCtr, .mem, .host, .cores, .clus, .ddr, .tally, .log, .stew, .ckpt] s (clearHalf h s) := by
  unfold clearHalf
  repeat' (first
    | extract_lets | with_reducible exact Law.refl _ _ | with_reducible assumption | with_reducible apply Law.step (updCore_law _ _ _)
    | with_reducible apply Law.step (updClu_law _ _ _) | with_reducible apply Law.step (clearClu_law _ _)
    | with_reducible apply Law.step (dropCounters_law _ _) | with_reducible apply Law.step (authorityDrop_law _ _)
    | with_reducible refine Law.foldl _ _ _ ?_ ?_ | (show (_ : List Part) ⊆ _; decide) | (show (_ : List Part) ⊆ _; decide) | (intro _)
    | split | (dsimp +zetaDelta only [id]))

theorem clearDomain_law (kind : Nat) (index : Nat) (s : State) :
    Law [.freeCtr, .mem, .host, .cores, .clus, .ddr, .tally, .log, .stew, .ckpt] s (clearDomain kind index s) := by
  unfold clearDomain
  repeat' (first
    | extract_lets | with_reducible exact Law.refl _ _ | with_reducible assumption | with_reducible apply Law.step (zeroGuards_law _)
    | with_reducible apply Law.step (clearCore_law _ _) | with_reducible apply Law.step (clearClu_law _ _)
    | with_reducible apply Law.step (clearHalf_law _ _) | with_reducible refine Law.foldl _ _ _ ?_ ?_ | (show (_ : List Part) ⊆ _; decide)
    | (show (_ : List Part) ⊆ _; decide) | (intro _) | split | (dsimp +zetaDelta only [id]))

theorem execResetSampleWritten_law (s : State) :
    OutLaw [.freeCtr, .mem, .host, .cores, .clus, .ddr, .rst, .tally, .log, .stew, .ckpt] s (execResetSampleWritten s) := by
  unfold execResetSampleWritten
  repeat' (first
    | with_reducible refine OutLaw.next ?_ | extract_lets | with_reducible exact Law.refl _ _ | with_reducible assumption
    | with_reducible apply Law.step (sampleSet_law _ _ _ _ _ _ _) | with_reducible apply Law.step (setRun_law _ _ _)
    | with_reducible apply Law.step (clearDomain_law _ _ _) | with_reducible refine Law.foldl _ _ _ ?_ ?_
    | (show (_ : List Part) ⊆ _; decide) | (show (_ : List Part) ⊆ _; decide) | (intro _) | split | (dsimp +zetaDelta only [id]))

theorem bareState_law (s : State) :
    Law [.mem, .host, .cores, .clus, .ctxs, .transit, .ddr, .hst, .idb, .rst, .tally, .log, .fab, .link, .steer, .stew, .ckpt, .time, .boot, .pwr, .upd, .pins, .eth] s (bareState s) :=
  ⟨fun p hp => by cases p <;> first | exact absurd (by decide) hp | rfl, fun h => Memory.wf_filter _ h⟩

theorem coldState_law (s : State) :
    Law [.mem, .host, .cores, .clus, .ctxs, .transit, .ddr, .hst, .idb, .rst, .tally, .log, .fab, .link, .steer, .stew, .ckpt, .time, .boot, .pwr, .upd, .pins, .eth] s (coldState s) := by
  unfold coldState
  repeat' (first
    | extract_lets | with_reducible exact Law.refl _ _ | with_reducible assumption | with_reducible apply Law.step (bareState_law _)
    | with_reducible refine Law.foldl _ _ _ ?_ ?_ | (show (_ : List Part) ⊆ _; decide) | (show (_ : List Part) ⊆ _; decide) | (intro _)
    | split | (dsimp +zetaDelta only [id]))

theorem warmKeep_law (L : List Part) (hL : L = [.freeCtr, .mem, .host, .cores, .clus, .ctxs, .transit, .ddr, .hst, .idb, .rst, .tally, .log, .fab, .link, .steer, .stew, .ckpt, .time, .boot, .pwr, .upd, .pins, .eth]) (s z : State) (hz : Law [.freeCtr, .mem, .host, .ddr, .tally, .ckpt] s z) : OnlyParts L s (warmKeep s z (bareState z)) := by
  intro p hp
  subst hL
  cases p
  case now => exact (hz.1 .now (by decide) : z.now = s.now)
  case side => exact (hz.1 .side (by decide) : z.side = s.side)
  case sent => exact (hz.1 .sent (by decide) : z.sent = s.sent)
  case pending => exact (hz.1 .pending (by decide) : z.pending = s.pending)
  all_goals exact absurd (by decide) hp
theorem warmKeep_inv (s z : State) (h : Inv z) : Inv (warmKeep s z (bareState z)) := Memory.wf_filter (m := z.mem) _ h
theorem warmState_eq (s : State) : warmState s = warmKeep s (zeroGuards s) (bareState (zeroGuards s)) := rfl
theorem warmState_law (s : State) :
    Law [.freeCtr, .mem, .host, .cores, .clus, .ctxs, .transit, .ddr, .hst, .idb, .rst, .tally, .log, .fab, .link, .steer, .stew, .ckpt, .time, .boot, .pwr, .upd, .pins, .eth] s (warmState s) := by
  have hz := zeroGuards_law s
  rw [warmState_eq]
  exact ⟨warmKeep_law _ rfl s _ hz, fun h => warmKeep_inv s _ (hz.2 h)⟩

theorem runHeld_law (s : State) (h : Nat × Entry) :
    Law [.freeCtr, .mem, .host, .cores, .clus, .ctxs, .ddr, .hst, .idb, .rst, .tally, .log, .fab, .link, .stew, .ckpt, .boot, .pins, .side, .sent] s (runHeld s h) := by
  unfold runHeld
  repeat' (first
    | extract_lets | with_reducible exact Law.refl _ _ | with_reducible assumption | with_reducible apply Law.step (doStart_law _ _ _)
    | with_reducible apply Law.step (doTeardown_law _ _ _) | with_reducible apply Law.step (updRing_law _ _ _)
    | with_reducible refine Law.foldl _ _ _ ?_ ?_ | (show (_ : List Part) ⊆ _; decide) | (show (_ : List Part) ⊆ _; decide) | (intro _)
    | split | (dsimp +zetaDelta only [id]))

theorem releaseHeld_law (s : State) :
    Law [.freeCtr, .mem, .host, .cores, .clus, .ctxs, .ddr, .hst, .idb, .rst, .tally, .log, .fab, .link, .stew, .ckpt, .boot, .pins, .side, .sent] s (releaseHeld s) := by
  unfold releaseHeld
  repeat' (first
    | extract_lets | with_reducible exact Law.refl _ _ | with_reducible assumption | with_reducible apply Law.step (onRst_law _ _)
    | with_reducible apply Law.step (runHeld_law _ _) | with_reducible refine Law.foldl _ _ _ ?_ ?_ | (show (_ : List Part) ⊆ _; decide)
    | (show (_ : List Part) ⊆ _; decide) | (intro _) | split | (dsimp +zetaDelta only [id]))

theorem lastReset_law (x : ResetRun) (s : State) :
    Law [.rst] s (lastReset x s) := by
  unfold lastReset
  repeat' (first
    | extract_lets | with_reducible exact Law.refl _ _ | with_reducible assumption | with_reducible apply Law.step (onRst_law _ _)
    | with_reducible refine Law.foldl _ _ _ ?_ ?_ | (show (_ : List Part) ⊆ _; decide) | (show (_ : List Part) ⊆ _; decide) | (intro _)
    | split | (dsimp +zetaDelta only [id]))

theorem releaseRun_law (x : ResetRun) (us : Nat) (s : State) :
    Law [.freeCtr, .mem, .host, .cores, .clus, .ctxs, .ddr, .hst, .idb, .rst, .tally, .log, .fab, .link, .stew, .ckpt, .boot, .pins, .side, .sent] s (releaseRun x us s) := by
  unfold releaseRun
  repeat' (first
    | extract_lets | with_reducible exact Law.refl _ _ | with_reducible assumption | with_reducible apply Law.step (pairLit_law _ _ _)
    | with_reducible apply Law.step (postEvent_law _ _ _ _ _ _ _ _) | with_reducible apply Law.step (reportRewound_law _ _)
    | with_reducible apply Law.step (recheckState_law _) | with_reducible apply Law.step (fenceNow_law _ _ _)
    | with_reducible apply Law.step (updCore_law _ _ _) | with_reducible apply Law.step (logRec_law _ _ _ _ _ _ _)
    | with_reducible apply Law.step (releaseHeld_law _) | with_reducible apply Law.step (lastReset_law _ _)
    | with_reducible refine Law.foldl _ _ _ ?_ ?_ | (show (_ : List Part) ⊆ _; decide) | (show (_ : List Part) ⊆ _; decide) | (intro _)
    | split | (dsimp +zetaDelta only [id]))

theorem releaseModule_law (x : ResetRun) (us : Nat) (s : State) :
    Law [.freeCtr, .mem, .host, .cores, .clus, .ctxs, .transit, .ddr, .hst, .idb, .rst, .tally, .log, .fab, .link, .steer, .stew, .ckpt, .time, .boot, .pwr, .upd, .pins, .eth] s (releaseModule x us s) := by
  unfold releaseModule
  repeat' (first
    | extract_lets | with_reducible exact Law.refl _ _ | with_reducible assumption
    | with_reducible apply Law.step (logRec_law _ _ _ _ _ _ _) | with_reducible apply Law.step (coldState_law _)
    | with_reducible apply Law.step (warmState_law _) | with_reducible apply Law.step (lastReset_law _ _)
    | with_reducible refine Law.foldl _ _ _ ?_ ?_ | (show (_ : List Part) ⊆ _; decide) | (show (_ : List Part) ⊆ _; decide) | (intro _)
    | split | (dsimp +zetaDelta only [id]))

theorem execResetRelease_law (us : Nat) (s : State) :
    OutLaw [.freeCtr, .mem, .host, .cores, .clus, .ctxs, .transit, .ddr, .hst, .idb, .rst, .tally, .log, .fab, .link, .steer, .stew, .ckpt, .time, .boot, .pwr, .upd, .pins, .eth, .side, .sent] s (execResetRelease us s) := by
  unfold execResetRelease
  repeat' (first
    | with_reducible refine OutLaw.next ?_ | extract_lets | with_reducible exact Law.refl _ _ | with_reducible assumption
    | with_reducible apply Law.step (releaseRun_law _ _ _) | with_reducible apply Law.step (releaseModule_law _ _ _)
    | with_reducible refine Law.foldl _ _ _ ?_ ?_ | (show (_ : List Part) ⊆ _; decide) | (show (_ : List Part) ⊆ _; decide) | (intro _)
    | split | (dsimp +zetaDelta only [id]))

theorem laneDown_law (x : ResetRun) (s : State) :
    Law [.rst, .tally, .log, .fab, .link] s (laneDown x s) := by
  unfold laneDown
  repeat' (first
    | extract_lets | with_reducible exact Law.refl _ _ | with_reducible assumption | with_reducible apply Law.step (pairGone_law _ _ _)
    | with_reducible apply Law.step (updPair_law _ _ _ _) | with_reducible apply Law.step (onRst_law _ _)
    | with_reducible refine Law.foldl _ _ _ ?_ ?_ | (show (_ : List Part) ⊆ _; decide) | (show (_ : List Part) ⊆ _; decide) | (intro _)
    | split | (dsimp +zetaDelta only [id]))

theorem execResetEscalation_law (s : State) :
    OutLaw [.host, .cores, .ctxs, .hst, .rst, .tally, .log, .fab, .link, .stew, .ckpt, .upd, .pins, .side, .sent] s (execResetEscalation s) := by
  unfold execResetEscalation
  repeat' (first
    | with_reducible refine OutLaw.next ?_ | extract_lets | with_reducible exact Law.refl _ _ | with_reducible assumption
    | with_reducible apply Law.step (logRec_law _ _ _ _ _ _ _) | with_reducible apply Law.step (trigReset_law _ _ _ _)
    | with_reducible apply Law.step (laneDown_law _ _) | with_reducible refine Law.foldl _ _ _ ?_ ?_ | (show (_ : List Part) ⊆ _; decide)
    | (show (_ : List Part) ⊆ _; decide) | (intro _) | split | (dsimp +zetaDelta only [id]))

theorem detected_law (det : Nat) (g : Nat) (st : Nat) (limit : Nat) (s : State) :
    Law [.host, .cores, .hst, .rst, .tally, .log, .sent] s (detected det g st limit s) := by
  unfold detected
  repeat' (first
    | extract_lets | with_reducible exact Law.refl _ _ | with_reducible assumption
    | with_reducible apply Law.step (postEvent_law _ _ _ _ _ _ _ _) | with_reducible apply Law.step (coreFault_law _ _ _)
    | with_reducible apply Law.step (logRec_law _ _ _ _ _ _ _) | with_reducible apply Law.step (countReset_law _ _)
    | with_reducible refine Law.foldl _ _ _ ?_ ?_ | (show (_ : List Part) ⊆ _; decide) | (show (_ : List Part) ⊆ _; decide) | (intro _)
    | split | (dsimp +zetaDelta only [id]))

theorem hangReset_law (g : Nat) (s : State) :
    Law [.freeCtr, .mem, .host, .cores, .clus, .ctxs, .ddr, .hst, .idb, .rst, .tally, .log, .fab, .link, .stew, .ckpt, .boot, .upd, .pins, .side, .sent] s (hangReset g s) := by
  unfold hangReset
  repeat' (first
    | extract_lets | with_reducible exact Law.refl _ _ | with_reducible assumption | with_reducible apply Law.step (fenceCore_law _ _ _)
    | with_reducible apply Law.step (trigReset_law _ _ _ _) | with_reducible refine Law.foldl _ _ _ ?_ ?_
    | (show (_ : List Part) ⊆ _; decide) | (show (_ : List Part) ⊆ _; decide) | (intro _) | split | (dsimp +zetaDelta only [id]))

theorem execStreamWaitHang_law (g : Core) (st : Str) (s : State) :
    OutLaw [.freeCtr, .mem, .host, .cores, .clus, .ctxs, .ddr, .hst, .rst, .tally, .log, .fab, .link, .stew, .ckpt, .pins, .side, .sent] s (execStreamWaitHang g st s) := by
  unfold execStreamWaitHang
  repeat' (first
    | with_reducible refine OutLaw.next ?_ | extract_lets | with_reducible exact Law.refl _ _ | with_reducible assumption
    | with_reducible apply Law.step (rewind_law _ _) | with_reducible apply Law.step (detected_law _ _ _ _ _)
    | with_reducible refine Law.foldl _ _ _ ?_ ?_ | (show (_ : List Part) ⊆ _; decide) | (show (_ : List Part) ⊆ _; decide) | (intro _)
    | split | (dsimp +zetaDelta only [id]))

theorem execStreamIssueHang_law (g : Core) (st : Str) (s : State) :
    OutLaw [.freeCtr, .mem, .host, .cores, .clus, .ctxs, .ddr, .hst, .idb, .rst, .tally, .log, .fab, .link, .stew, .ckpt, .boot, .upd, .pins, .side, .sent] s (execStreamIssueHang g st s) := by
  unfold execStreamIssueHang
  repeat' (first
    | with_reducible refine OutLaw.next ?_ | extract_lets | with_reducible exact Law.refl _ _ | with_reducible assumption
    | with_reducible apply Law.step (detected_law _ _ _ _ _) | with_reducible apply Law.step (hangReset_law _ _)
    | with_reducible refine Law.foldl _ _ _ ?_ ?_ | (show (_ : List Part) ⊆ _; decide) | (show (_ : List Part) ⊆ _; decide) | (intro _)
    | split | (dsimp +zetaDelta only [id]))

theorem execProgressHang_law (g : Core) (st : Str) (s : State) :
    OutLaw [.freeCtr, .mem, .host, .cores, .clus, .ctxs, .ddr, .hst, .idb, .rst, .tally, .log, .fab, .link, .stew, .ckpt, .boot, .upd, .pins, .side, .sent] s (execProgressHang g st s) := by
  unfold execProgressHang
  repeat' (first
    | with_reducible refine OutLaw.next ?_ | extract_lets | with_reducible exact Law.refl _ _ | with_reducible assumption
    | with_reducible apply Law.step (detected_law _ _ _ _ _) | with_reducible apply Law.step (hangReset_law _ _)
    | with_reducible refine Law.foldl _ _ _ ?_ ?_ | (show (_ : List Part) ⊆ _; decide) | (show (_ : List Part) ⊆ _; decide) | (intro _)
    | split | (dsimp +zetaDelta only [id]))

theorem execStopHang_law (g : Core) (st : Str) (s : State) :
    OutLaw [.freeCtr, .mem, .host, .cores, .clus, .ctxs, .ddr, .hst, .idb, .rst, .tally, .log, .fab, .link, .stew, .ckpt, .boot, .upd, .pins, .side, .sent] s (execStopHang g st s) := by
  unfold execStopHang
  repeat' (first
    | with_reducible refine OutLaw.next ?_ | extract_lets | with_reducible exact Law.refl _ _ | with_reducible assumption
    | with_reducible apply Law.step (detected_law _ _ _ _ _) | with_reducible apply Law.step (hangReset_law _ _)
    | with_reducible refine Law.foldl _ _ _ ?_ ?_ | (show (_ : List Part) ⊆ _; decide) | (show (_ : List Part) ⊆ _; decide) | (intro _)
    | split | (dsimp +zetaDelta only [id]))

theorem execRouterHang_law (c : Clu) (port : Fin 12) (rsp : Bool) (s : State) :
    OutLaw [.host, .cores, .ctxs, .hst, .rst, .tally, .log, .fab, .link, .stew, .ckpt, .upd, .pins, .side, .sent] s (execRouterHang c port rsp s) := by
  unfold execRouterHang
  repeat' (first
    | with_reducible refine OutLaw.next ?_ | extract_lets | with_reducible exact Law.refl _ _ | with_reducible assumption
    | with_reducible apply Law.step (logRec_law _ _ _ _ _ _ _) | with_reducible apply Law.step (countReset_law _ _)
    | with_reducible apply Law.step (trigReset_law _ _ _ _) | with_reducible refine Law.foldl _ _ _ ?_ ?_
    | (show (_ : List Part) ⊆ _; decide) | (show (_ : List Part) ⊆ _; decide) | (intro _) | split | (dsimp +zetaDelta only [id]))

theorem execPairHang_law (p : Plane) (l : Lane) (s : State) :
    OutLaw [.host, .cores, .ctxs, .hst, .rst, .tally, .log, .fab, .link, .stew, .ckpt, .upd, .pins, .side, .sent] s (execPairHang p l s) := by
  unfold execPairHang
  repeat' (first
    | with_reducible refine OutLaw.next ?_ | extract_lets | with_reducible exact Law.refl _ _ | with_reducible assumption
    | with_reducible apply Law.step (logRec_law _ _ _ _ _ _ _) | with_reducible apply Law.step (countReset_law _ _)
    | with_reducible apply Law.step (trigReset_law _ _ _ _) | with_reducible refine Law.foldl _ _ _ ?_ ?_
    | (show (_ : List Part) ⊆ _; decide) | (show (_ : List Part) ⊆ _; decide) | (intro _) | split | (dsimp +zetaDelta only [id]))

theorem execChipletWatchdog_law (p : Plane) (s : State) :
    OutLaw [.rst, .tally, .log] s (execChipletWatchdog p s) := by
  unfold execChipletWatchdog
  repeat' (first
    | with_reducible refine OutLaw.next ?_ | extract_lets | with_reducible exact Law.refl _ _ | with_reducible assumption
    | with_reducible apply Law.step (logRec_law _ _ _ _ _ _ _) | with_reducible apply Law.step (countReset_law _ _)
    | with_reducible refine Law.foldl _ _ _ ?_ ?_ | (show (_ : List Part) ⊆ _; decide) | (show (_ : List Part) ⊆ _; decide) | (intro _)
    | split | (dsimp +zetaDelta only [id]))

theorem execHalfControllerWatchdog_law (h : Hlf) (s : State) :
    OutLaw [.rst, .tally, .log] s (execHalfControllerWatchdog h s) := by
  unfold execHalfControllerWatchdog
  repeat' (first
    | with_reducible refine OutLaw.next ?_ | extract_lets | with_reducible exact Law.refl _ _ | with_reducible assumption
    | with_reducible apply Law.step (logRec_law _ _ _ _ _ _ _) | with_reducible apply Law.step (countReset_law _ _)
    | with_reducible refine Law.foldl _ _ _ ?_ ?_ | (show (_ : List Part) ⊆ _; decide) | (show (_ : List Part) ⊆ _; decide) | (intro _)
    | split | (dsimp +zetaDelta only [id]))

theorem fatal_law (cause : Nat) (hpc : Nat) (s : State) :
    Law [.host, .cores, .ctxs, .hst, .rst, .tally, .log, .fab, .link, .stew, .ckpt, .upd, .pins, .side, .sent] s (fatal cause hpc s) := by
  unfold fatal
  repeat' (first
    | extract_lets | with_reducible exact Law.refl _ _ | with_reducible assumption
    | with_reducible apply Law.step (logRec_law _ _ _ _ _ _ _) | with_reducible apply Law.step (onRst_law _ _)
    | with_reducible apply Law.step (trigReset_law _ _ _ _) | with_reducible refine Law.foldl _ _ _ ?_ ?_
    | (show (_ : List Part) ⊆ _; decide) | (show (_ : List Part) ⊆ _; decide) | (intro _) | split | (dsimp +zetaDelta only [id]))

theorem execHubWatchdog_law (hpc : Word) (s : State) :
    OutLaw [.host, .cores, .ctxs, .hst, .rst, .tally, .log, .fab, .link, .stew, .ckpt, .upd, .pins, .side, .sent] s (execHubWatchdog hpc s) := by
  unfold execHubWatchdog
  repeat' (first
    | with_reducible refine OutLaw.next ?_ | extract_lets | with_reducible exact Law.refl _ _ | with_reducible assumption
    | with_reducible apply Law.step (logRec_law _ _ _ _ _ _ _) | with_reducible apply Law.step (countReset_law _ _)
    | with_reducible apply Law.step (fatal_law _ _ _) | with_reducible refine Law.foldl _ _ _ ?_ ?_ | (show (_ : List Part) ⊆ _; decide)
    | (show (_ : List Part) ⊆ _; decide) | (intro _) | split | (dsimp +zetaDelta only [id]))

theorem execHubFirmwareException_law (hpc : Word) (s : State) :
    OutLaw [.host, .cores, .ctxs, .hst, .rst, .tally, .log, .fab, .link, .stew, .ckpt, .upd, .pins, .side, .sent] s (execHubFirmwareException hpc s) := by
  unfold execHubFirmwareException
  repeat' (first
    | with_reducible refine OutLaw.next ?_ | extract_lets | with_reducible exact Law.refl _ _ | with_reducible assumption
    | with_reducible apply Law.step (fatal_law _ _ _) | with_reducible refine Law.foldl _ _ _ ?_ ?_ | (show (_ : List Part) ⊆ _; decide)
    | (show (_ : List Part) ⊆ _; decide) | (intro _) | split | (dsimp +zetaDelta only [id]))

theorem execHubMemoryUe_law (hpc : Word) (s : State) :
    OutLaw [.host, .cores, .ctxs, .hst, .rst, .tally, .log, .fab, .link, .stew, .ckpt, .upd, .pins, .side, .sent] s (execHubMemoryUe hpc s) := by
  unfold execHubMemoryUe
  repeat' (first
    | with_reducible refine OutLaw.next ?_ | extract_lets | with_reducible exact Law.refl _ _ | with_reducible assumption
    | with_reducible apply Law.step (fatal_law _ _ _) | with_reducible refine Law.foldl _ _ _ ?_ ?_ | (show (_ : List Part) ⊆ _; decide)
    | (show (_ : List Part) ⊆ _; decide) | (intro _) | split | (dsimp +zetaDelta only [id]))

theorem execDdrControllerFault_law (hpc : Word) (s : State) :
    OutLaw [.host, .cores, .ctxs, .hst, .rst, .tally, .log, .fab, .link, .stew, .ckpt, .upd, .pins, .side, .sent] s (execDdrControllerFault hpc s) := by
  unfold execDdrControllerFault
  repeat' (first
    | with_reducible refine OutLaw.next ?_ | extract_lets | with_reducible exact Law.refl _ _ | with_reducible assumption
    | with_reducible apply Law.step (fatal_law _ _ _) | with_reducible refine Law.foldl _ _ _ ?_ ?_ | (show (_ : List Part) ⊆ _; decide)
    | (show (_ : List Part) ⊆ _; decide) | (intro _) | split | (dsimp +zetaDelta only [id]))

theorem execDumpWritten_law (kib : Nat) (us : Nat) (s : State) :
    OutLaw [.freeCtr, .mem, .host, .cores, .clus, .ddr, .rst, .tally, .log, .ckpt] s (execDumpWritten kib us s) := by
  unfold execDumpWritten
  repeat' (first
    | with_reducible refine OutLaw.next ?_ | extract_lets | with_reducible exact Law.refl _ _ | with_reducible assumption
    | with_reducible apply Law.step (store_law _ _ _) | with_reducible apply Law.step (logRec_law _ _ _ _ _ _ _)
    | with_reducible apply Law.step (onRst_law _ _) | with_reducible refine Law.foldl _ _ _ ?_ ?_ | (show (_ : List Part) ⊆ _; decide)
    | (show (_ : List Part) ⊆ _; decide) | (intro _) | split | with_reducible refine Law.set_freeCtr _ (by decide) ?_
    | (dsimp +zetaDelta only [id]))

theorem execDumpWellCopyEnd_law (result : Nat) (us : Nat) (s : State) :
    OutLaw [.freeCtr, .rst, .tally, .log] s (execDumpWellCopyEnd result us s) := by
  unfold execDumpWellCopyEnd
  repeat' (first
    | with_reducible refine OutLaw.next ?_ | extract_lets | with_reducible exact Law.refl _ _ | with_reducible assumption
    | with_reducible apply Law.step (logRec_law _ _ _ _ _ _ _) | with_reducible apply Law.step (onRst_law _ _)
    | with_reducible refine Law.foldl _ _ _ ?_ ?_ | (show (_ : List Part) ⊆ _; decide) | (show (_ : List Part) ⊆ _; decide) | (intro _)
    | split | with_reducible refine Law.set_freeCtr _ (by decide) ?_ | (dsimp +zetaDelta only [id]))

theorem execDumpClear_law (v : Word) (s : State) :
    OutLaw [.rst, .tally, .log] s (execDumpClear v s) := by
  unfold execDumpClear
  repeat' (first
    | with_reducible refine OutLaw.next ?_ | extract_lets | with_reducible exact Law.refl _ _ | with_reducible assumption
    | with_reducible apply Law.step (heldWrite_law _ _ _) | with_reducible apply Law.step (onRst_law _ _)
    | with_reducible refine Law.foldl _ _ _ ?_ ?_ | (show (_ : List Part) ⊆ _; decide) | (show (_ : List Part) ⊆ _; decide) | (intro _)
    | split | (dsimp +zetaDelta only [id]))

theorem execRstHangCfgWrite_law (v : Word) (s : State) :
    OutLaw [.rst, .tally, .log] s (execRstHangCfgWrite v s) := by
  unfold execRstHangCfgWrite
  repeat' (first
    | with_reducible refine OutLaw.next ?_ | extract_lets | with_reducible exact Law.refl _ _ | with_reducible assumption
    | with_reducible apply Law.step (heldWrite_law _ _ _) | with_reducible apply Law.step (onRst_law _ _)
    | with_reducible refine Law.foldl _ _ _ ?_ ?_ | (show (_ : List Part) ⊆ _; decide) | (show (_ : List Part) ⊆ _; decide) | (intro _)
    | split | (dsimp +zetaDelta only [id]))

end Sys2Proof.Machine
end

