-- ==== Sys2Proof/Laws/Power.lean ====
section
/-! SUPPORT. What each operation of Machine/Power.lean may touch, one lemma for each, and that it keeps memory in its canonical form. -/

set_option maxRecDepth 4000
set_option linter.all false

namespace Sys2Proof.Machine

theorem onPwr_law (f : PwrSt → PwrSt) (s : State) :
    Law [.pwr] s (onPwr f s) := by
  unfold onPwr
  repeat' (first
    | extract_lets | with_reducible exact Law.refl _ _ | with_reducible assumption | with_reducible refine Law.foldl _ _ _ ?_ ?_
    | (show (_ : List Part) ⊆ _; decide) | (show (_ : List Part) ⊆ _; decide) | (intro _) | split
    | with_reducible refine Law.set_pwr _ (by decide) ?_ | (dsimp +zetaDelta only [id]))

theorem stopWork_law (s : State) :
    Law [.cores, .ddr] s (stopWork s) := by
  unfold stopWork
  repeat' (first
    | extract_lets | with_reducible exact Law.refl _ _ | with_reducible assumption | with_reducible refine Law.foldl _ _ _ ?_ ?_
    | (show (_ : List Part) ⊆ _; decide) | (show (_ : List Part) ⊆ _; decide) | (intro _) | split
    | with_reducible refine Law.set_cores_ddr _ _ (by decide) (by decide) ?_ | (dsimp +zetaDelta only [id]))

theorem stopWell_law (s : State) : Law [.host, .cores, .ctxs, .hst, .rst, .tally, .log, .stew, .ckpt, .pins, .side, .sent] s (stopWell s) := by
  unfold stopWell
  extract_lets t
  have ht : Law [.host, .cores, .ctxs, .hst, .rst, .tally, .log, .stew, .ckpt, .pins, .side, .sent] s t := Law.foldl _ _ _ (Law.refl _ s) fun _ _ h => Law.step (ckptFail_law _ _ _) (by decide) h
  exact Law.foldl _ _ _ ht fun _ _ h => Law.step (drainFail_law _ _ _ _ _) (by decide) (Law.step (drainFail_law _ _ _ _ _) (by decide) h)

theorem stopResets_law (s : State) : Law [.freeCtr, .rst, .tally, .log] s (stopResets s) := by
  unfold stopResets
  extract_lets copying
  clear_value copying
  refine Law.step (onRst_law _ _) (by decide) ?_
  cases copying
  · exact Law.refl _ s
  · exact Law.step (logRec_law _ _ _ _ _ _ _) (by decide) (Law.step (onRst_law _ _) (by decide) (Law.set_freeCtr _ (by decide) (Law.refl _ s)))

theorem shed_law (s : State) :
    Law [.clus, .fab, .link, .eth] s (shed s) := by
  unfold shed
  repeat' (first
    | extract_lets | with_reducible exact Law.refl _ _ | with_reducible assumption | with_reducible apply Law.step (darkAll_law _)
    | with_reducible refine Law.foldl _ _ _ ?_ ?_ | (show (_ : List Part) ⊆ _; decide) | (show (_ : List Part) ⊆ _; decide) | (intro _)
    | split | with_reducible refine Law.set_clus_fab_eth _ _ _ (by decide) (by decide) (by decide) ?_ | (dsimp +zetaDelta only [id]))

theorem powerFail_law (cause : Nat) (s : State) :
    Law [.freeCtr, .host, .cores, .clus, .ctxs, .ddr, .hst, .rst, .tally, .log, .fab, .link, .stew, .ckpt, .pwr, .upd, .pins, .eth, .side, .sent] s (powerFail cause s) := by
  unfold powerFail
  repeat' (first
    | extract_lets | with_reducible exact Law.refl _ _ | with_reducible assumption | with_reducible apply Law.step (report_law _ _)
    | with_reducible apply Law.step (onCkpt_law _ _) | with_reducible apply Law.step (logRec_law _ _ _ _ _ _ _)
    | with_reducible apply Law.step (onPwr_law _ _) | with_reducible apply Law.step (stopWork_law _)
    | with_reducible apply Law.step (stopWell_law _) | with_reducible apply Law.step (stopResets_law _)
    | with_reducible apply Law.step (shed_law _) | with_reducible apply Law.step (endSession_law _ _)
    | with_reducible refine Law.foldl _ _ _ ?_ ?_ | (show (_ : List Part) ⊆ _; decide) | (show (_ : List Part) ⊆ _; decide) | (intro _)
    | split | (dsimp +zetaDelta only [id]))

theorem execHoldupExhausted_law (s : State) : OutLaw [.mem, .host, .cores, .clus, .ctxs, .transit, .ddr, .hst, .idb, .rst, .tally, .log, .fab, .link, .steer, .stew, .ckpt, .time, .boot, .pwr, .upd, .pins, .eth] s (execHoldupExhausted s) := by
  unfold execHoldupExhausted
  split
  · exact OutLaw.next (Law.set_boot _ (by decide) (Law.step (coldState_law _) (by decide) (Law.refl _ s)))
  · exact OutLaw.next (Law.refl _ s)

theorem execInputRestored_law (s : State) : OutLaw [.mem, .host, .cores, .clus, .ctxs, .transit, .ddr, .hst, .idb, .rst, .tally, .log, .fab, .link, .steer, .stew, .ckpt, .time, .boot, .pwr, .upd, .pins, .eth] s (execInputRestored s) := by
  unfold execInputRestored
  split
  · exact OutLaw.next (Law.step (coldState_law _) (by decide) (Law.refl _ s))
  · exact OutLaw.next (Law.refl _ s)

theorem inputSample_law (cv : Nat) (watts : Nat) (s : State) :
    Law [.pwr] s (inputSample cv watts s) := by
  unfold inputSample
  repeat' (first
    | extract_lets | with_reducible exact Law.refl _ _ | with_reducible assumption | with_reducible apply Law.step (onPwr_law _ _)
    | with_reducible refine Law.foldl _ _ _ ?_ ?_ | (show (_ : List Part) ⊆ _; decide) | (show (_ : List Part) ⊆ _; decide) | (intro _)
    | split | (dsimp +zetaDelta only [id]))

theorem excursion_law (cls : Nat) (cv : Nat) (us : Nat) (watts : Nat) (s : State) :
    Law [.tally, .log, .pwr] s (excursion cls cv us watts s) := by
  unfold excursion
  repeat' (first
    | extract_lets | with_reducible exact Law.refl _ _ | with_reducible assumption
    | with_reducible apply Law.step (logRec_law _ _ _ _ _ _ _) | with_reducible apply Law.step (inputSample_law _ _ _)
    | with_reducible refine Law.foldl _ _ _ ?_ ?_ | (show (_ : List Part) ⊆ _; decide) | (show (_ : List Part) ⊆ _; decide) | (intro _)
    | split | (dsimp +zetaDelta only [id]))

theorem execInputExcursionEnd_law (cls : Excursion) (extreme : Nat) (us : Nat) (watts : Nat) (s : State) :
    OutLaw [.tally, .log, .pwr] s (execInputExcursionEnd cls extreme us watts s) := by
  unfold execInputExcursionEnd
  repeat' (first
    | with_reducible refine OutLaw.next ?_ | extract_lets | with_reducible exact Law.refl _ _ | with_reducible assumption
    | with_reducible apply Law.step (onPwr_law _ _) | with_reducible apply Law.step (excursion_law _ _ _ _ _)
    | with_reducible refine Law.foldl _ _ _ ?_ ?_ | (show (_ : List Part) ⊆ _; decide) | (show (_ : List Part) ⊆ _; decide) | (intro _)
    | split | (dsimp +zetaDelta only [id]))

theorem execDropout_law (cv : Nat) (watts : Nat) (s : State) :
    OutLaw [.freeCtr, .host, .cores, .clus, .ctxs, .ddr, .hst, .rst, .tally, .log, .fab, .link, .stew, .ckpt, .pwr, .upd, .pins, .eth, .side, .sent] s (execDropout cv watts s) := by
  unfold execDropout
  repeat' (first
    | with_reducible refine OutLaw.next ?_ | extract_lets | with_reducible exact Law.refl _ _ | with_reducible assumption
    | with_reducible apply Law.step (onPwr_law _ _) | with_reducible apply Law.step (powerFail_law _ _)
    | with_reducible apply Law.step (excursion_law _ _ _ _ _) | with_reducible refine Law.foldl _ _ _ ?_ ?_
    | (show (_ : List Part) ⊆ _; decide) | (show (_ : List Part) ⊆ _; decide) | (intro _) | split | (dsimp +zetaDelta only [id]))

theorem execOvervolt_law (cv : Nat) (watts : Nat) (s : State) :
    OutLaw [.freeCtr, .host, .cores, .clus, .ctxs, .ddr, .hst, .rst, .tally, .log, .fab, .link, .stew, .ckpt, .pwr, .upd, .pins, .eth, .side, .sent] s (execOvervolt cv watts s) := by
  unfold execOvervolt
  repeat' (first
    | with_reducible refine OutLaw.next ?_ | extract_lets | with_reducible exact Law.refl _ _ | with_reducible assumption
    | with_reducible apply Law.step (onPwr_law _ _) | with_reducible apply Law.step (powerFail_law _ _)
    | with_reducible apply Law.step (excursion_law _ _ _ _ _) | with_reducible refine Law.foldl _ _ _ ?_ ?_
    | (show (_ : List Part) ⊆ _; decide) | (show (_ : List Part) ⊆ _; decide) | (intro _) | split | (dsimp +zetaDelta only [id]))

theorem setHeat_law (h : Nat) (b : Bool) (s : State) :
    Law [.pwr] s (setHeat h b s) := by
  unfold setHeat
  repeat' (first
    | extract_lets | with_reducible exact Law.refl _ _ | with_reducible assumption | with_reducible apply Law.step (onPwr_law _ _)
    | with_reducible refine Law.foldl _ _ _ ?_ ?_ | (show (_ : List Part) ⊆ _; decide) | (show (_ : List Part) ⊆ _; decide) | (intro _)
    | split | (dsimp +zetaDelta only [id]))

theorem setCap_law (h : Nat) (n : Nat) (s : State) :
    Law [.pwr] s (setCap h n s) := by
  unfold setCap
  repeat' (first
    | extract_lets | with_reducible exact Law.refl _ _ | with_reducible assumption | with_reducible apply Law.step (onPwr_law _ _)
    | with_reducible refine Law.foldl _ _ _ ?_ ?_ | (show (_ : List Part) ⊆ _; decide) | (show (_ : List Part) ⊆ _; decide) | (intro _)
    | split | (dsimp +zetaDelta only [id]))

theorem throttleLog_law (was : Nat → Bool) (s : State) :
    Law [.tally, .log, .pwr] s (throttleLog was s) := by
  unfold throttleLog
  repeat' (first
    | extract_lets | with_reducible exact Law.refl _ _ | with_reducible assumption
    | with_reducible apply Law.step (logRec_law _ _ _ _ _ _ _) | with_reducible apply Law.step (setCap_law _ _ _)
    | with_reducible refine Law.foldl _ _ _ ?_ ?_ | (show (_ : List Part) ⊆ _; decide) | (show (_ : List Part) ⊆ _; decide) | (intro _)
    | split | (dsimp +zetaDelta only [id]))

theorem heatCheck_law (s : State) (h : Nat) :
    Law [.pwr] s (heatCheck s h) := by
  unfold heatCheck
  repeat' (first
    | extract_lets | with_reducible exact Law.refl _ _ | with_reducible assumption | with_reducible apply Law.step (setHeat_law _ _ _)
    | with_reducible refine Law.foldl _ _ _ ?_ ?_ | (show (_ : List Part) ⊆ _; decide) | (show (_ : List Part) ⊆ _; decide) | (intro _)
    | split | (dsimp +zetaDelta only [id]))

theorem execDieSensorRead_law (temps : List ℤ) (ddr : List Nat) (cv : Nat) (watts : Nat) (s : State) :
    OutLaw [.ddr, .tally, .log, .pwr] s (execDieSensorRead temps ddr cv watts s) := by
  unfold execDieSensorRead
  repeat' (first
    | with_reducible refine OutLaw.next ?_ | extract_lets | with_reducible exact Law.refl _ _ | with_reducible assumption
    | with_reducible apply Law.step (updChan_law _ _ _) | with_reducible apply Law.step (onPwr_law _ _)
    | with_reducible apply Law.step (inputSample_law _ _ _) | with_reducible apply Law.step (throttleLog_law _ _)
    | with_reducible apply Law.step (heatCheck_law _ _) | with_reducible refine Law.foldl _ _ _ ?_ ?_ | (show (_ : List Part) ⊆ _; decide)
    | (show (_ : List Part) ⊆ _; decide) | (intro _) | split | (dsimp +zetaDelta only [id]))

theorem execThrottleStep_law (h : Hlf) (s : State) :
    OutLaw [.pwr] s (execThrottleStep h s) := by
  unfold execThrottleStep
  repeat' (first
    | with_reducible refine OutLaw.next ?_ | extract_lets | with_reducible exact Law.refl _ _ | with_reducible assumption
    | with_reducible apply Law.step (setCap_law _ _ _) | with_reducible refine Law.foldl _ _ _ ?_ ?_ | (show (_ : List Part) ⊆ _; decide)
    | (show (_ : List Part) ⊆ _; decide) | (intro _) | split | (dsimp +zetaDelta only [id]))

theorem execPowerCapExceeded_law (watts : Nat) (s : State) :
    OutLaw [.tally, .log, .pwr] s (execPowerCapExceeded watts s) := by
  unfold execPowerCapExceeded
  repeat' (first
    | with_reducible refine OutLaw.next ?_ | extract_lets | with_reducible exact Law.refl _ _ | with_reducible assumption
    | with_reducible apply Law.step (logRec_law _ _ _ _ _ _ _) | with_reducible apply Law.step (onPwr_law _ _)
    | with_reducible apply Law.step (throttleLog_law _ _) | with_reducible refine Law.foldl _ _ _ ?_ ?_
    | (show (_ : List Part) ⊆ _; decide) | (show (_ : List Part) ⊆ _; decide) | (intro _) | split | (dsimp +zetaDelta only [id]))

theorem execPowerCapRelease_law (s : State) :
    OutLaw [.tally, .log, .pwr] s (execPowerCapRelease s) := by
  unfold execPowerCapRelease
  repeat' (first
    | with_reducible refine OutLaw.next ?_ | extract_lets | with_reducible exact Law.refl _ _ | with_reducible assumption
    | with_reducible apply Law.step (onPwr_law _ _) | with_reducible apply Law.step (throttleLog_law _ _)
    | with_reducible refine Law.foldl _ _ _ ?_ ?_ | (show (_ : List Part) ⊆ _; decide) | (show (_ : List Part) ⊆ _; decide) | (intro _)
    | split | (dsimp +zetaDelta only [id]))

theorem execThermalTrip_law (i : Fin 8) (reading : ℤ) (s : State) :
    OutLaw [.freeCtr, .host, .cores, .clus, .ctxs, .ddr, .hst, .rst, .tally, .log, .fab, .link, .stew, .ckpt, .pwr, .upd, .pins, .eth, .side, .sent] s (execThermalTrip i reading s) := by
  unfold execThermalTrip
  repeat' (first
    | with_reducible refine OutLaw.next ?_ | extract_lets | with_reducible exact Law.refl _ _ | with_reducible assumption
    | with_reducible apply Law.step (logRec_law _ _ _ _ _ _ _) | with_reducible apply Law.step (onPwr_law _ _)
    | with_reducible apply Law.step (powerFail_law _ _) | with_reducible refine Law.foldl _ _ _ ?_ ?_ | (show (_ : List Part) ⊆ _; decide)
    | (show (_ : List Part) ⊆ _; decide) | (intro _) | split | (dsimp +zetaDelta only [id]))

theorem execThermalRestart_law (s : State) :
    OutLaw [.pwr] s (execThermalRestart s) := by
  unfold execThermalRestart
  repeat' (first
    | with_reducible refine OutLaw.next ?_ | extract_lets | with_reducible exact Law.refl _ _ | with_reducible assumption
    | with_reducible apply Law.step (onPwr_law _ _) | with_reducible refine Law.foldl _ _ _ ?_ ?_ | (show (_ : List Part) ⊆ _; decide)
    | (show (_ : List Part) ⊆ _; decide) | (intro _) | split | (dsimp +zetaDelta only [id]))

theorem execCoolantWarning_law (rise : Bool) (inlet : ℤ) (outlet : ℤ) (s : State) :
    OutLaw [.tally, .log] s (execCoolantWarning rise inlet outlet s) := by
  unfold execCoolantWarning
  repeat' (first
    | with_reducible refine OutLaw.next ?_ | extract_lets | with_reducible exact Law.refl _ _ | with_reducible assumption
    | with_reducible apply Law.step (logRec_law _ _ _ _ _ _ _) | with_reducible refine Law.foldl _ _ _ ?_ ?_
    | (show (_ : List Part) ⊆ _; decide) | (show (_ : List Part) ⊆ _; decide) | (intro _) | split | (dsimp +zetaDelta only [id]))

theorem execClockLost_law (b : Fin 7) (s : State) : OutLaw [.freeCtr, .host, .cores, .ctxs, .hst, .rst, .tally, .log, .fab, .link, .stew, .ckpt, .pwr, .upd, .pins, .side, .sent] s (execClockLost b s) := by
  unfold execClockLost
  split
  · exact OutLaw.next (Law.refl _ s)
  · extract_lets t
    have ht : Law [.freeCtr, .host, .cores, .ctxs, .hst, .rst, .tally, .log, .fab, .link, .stew, .ckpt, .pwr, .upd, .pins, .side, .sent] s t := Law.step (onPwr_law _ _) (by decide) (Law.step (logRec_law _ _ _ _ _ _ _) (by decide) (Law.refl _ s))
    clear_value t
    split
    · exact OutLaw.next (Law.step (fatal_law _ _ _) (by decide) (Law.set_freeCtr _ (by decide) ht))
    · split
      · exact OutLaw.next (Law.foldl _ _ _ ht fun _ _ h => Law.step (retrainOn_law _ _ _ _) (by decide) h)
      · exact OutLaw.next ht

theorem execClrExtremes_law (v : Word) (s : State) :
    OutLaw [.tally, .log, .pwr] s (execClrExtremes v s) := by
  unfold execClrExtremes
  repeat' (first
    | with_reducible refine OutLaw.next ?_ | extract_lets | with_reducible exact Law.refl _ _ | with_reducible assumption
    | with_reducible apply Law.step (onPwr_law _ _) | with_reducible apply Law.step (heldWrite_law _ _ _)
    | with_reducible refine Law.foldl _ _ _ ?_ ?_ | (show (_ : List Part) ⊆ _; decide) | (show (_ : List Part) ⊆ _; decide) | (intro _)
    | split | (dsimp +zetaDelta only [id]))

end Sys2Proof.Machine
end

