-- ==== Sys2Proof/Laws/Startup.lean ====
section
/-! SUPPORT. What each operation of Machine/Startup.lean may touch, one lemma for each, and that it keeps memory in its canonical form. -/

set_option maxRecDepth 4000
set_option linter.all false

namespace Sys2Proof.Machine

theorem onBoot_law (f : BootSt → BootSt) (s : State) :
    Law [.boot] s (onBoot f s) := by
  unfold onBoot
  repeat' (first
    | extract_lets | with_reducible exact Law.refl _ _ | with_reducible assumption | with_reducible refine Law.foldl _ _ _ ?_ ?_
    | (show (_ : List Part) ⊆ _; decide) | (show (_ : List Part) ⊆ _; decide) | (intro _) | split
    | with_reducible refine Law.set_boot _ (by decide) ?_ | (dsimp +zetaDelta only [id]))

theorem resetSettings_law (fmt : Nat) (s : State) :
    Law [.freeCtr, .tally, .log, .stew, .upd] s (resetSettings fmt s) := by
  unfold resetSettings
  dsimp only [drawFree]
  repeat' (first
    | extract_lets | with_reducible exact Law.refl _ _ | with_reducible assumption
    | with_reducible apply Law.step (logRec_law _ _ _ _ _ _ _) | with_reducible apply Law.step (onStew_law _ _)
    | with_reducible apply Law.step (onUpd_law _ _) | with_reducible refine Law.foldl _ _ _ ?_ ?_ | (show (_ : List Part) ⊆ _; decide)
    | (show (_ : List Part) ⊆ _; decide) | (intro _) | split | with_reducible refine Law.set_freeCtr _ (by decide) ?_
    | (dsimp +zetaDelta only [id]))

theorem consumed_law (act : Nat) (s : State) :
    Law [.upd] s (consumed act s) := by
  unfold consumed
  repeat' (first
    | extract_lets | with_reducible exact Law.refl _ _ | with_reducible assumption | with_reducible apply Law.step (onUpd_law _ _)
    | with_reducible refine Law.foldl _ _ _ ?_ ?_ | (show (_ : List Part) ⊆ _; decide) | (show (_ : List Part) ⊆ _; decide) | (intro _)
    | split | (dsimp +zetaDelta only [id]))

theorem activateSet_law (m : Manifest) (s : State) :
    Law [.freeCtr, .tally, .log, .stew, .upd] s (activateSet m s) := by
  unfold activateSet
  dsimp only [drawFree]
  repeat' (first
    | extract_lets | with_reducible exact Law.refl _ _ | with_reducible assumption
    | with_reducible apply Law.step (logRec_law _ _ _ _ _ _ _) | with_reducible apply Law.step (resetSettings_law _ _)
    | with_reducible apply Law.step (consumed_law _ _) | with_reducible apply Law.step (onUpd_law _ _)
    | with_reducible refine Law.foldl _ _ _ ?_ ?_ | (show (_ : List Part) ⊆ _; decide) | (show (_ : List Part) ⊆ _; decide) | (intro _)
    | split | with_reducible refine Law.set_freeCtr _ (by decide) ?_ | (dsimp +zetaDelta only [id]))

theorem tryStaged_law (f : ImageCheck) (s : State) :
    Law [.freeCtr, .tally, .log, .stew, .upd] s (tryStaged f s) := by
  unfold tryStaged
  repeat' (first
    | extract_lets | with_reducible exact Law.refl _ _ | with_reducible assumption
    | with_reducible apply Law.step (logRec_law _ _ _ _ _ _ _) | with_reducible apply Law.step (consumed_law _ _)
    | with_reducible apply Law.step (activateSet_law _ _) | with_reducible apply Law.step (onUpd_law _ _)
    | with_reducible refine Law.foldl _ _ _ ?_ ?_ | (show (_ : List Part) ⊆ _; decide) | (show (_ : List Part) ⊆ _; decide) | (intro _)
    | split | with_reducible refine Law.set_freeCtr _ (by decide) ?_ | (dsimp +zetaDelta only [id]))

theorem loadSet_law (s : State) : Law [.freeCtr, .idb, .upd] s (loadSet s) := by
  unfold loadSet
  extract_lets m parts log fw
  refine Law.step (onUpd_law _ _) (by decide) (Law.set_idb (x := { s with freeCtr := s.freeCtr + 1 }) _ (by decide) ?_)
  exact Law.set_freeCtr _ (by decide) (Law.refl _ s)

theorem fallBack_law (s : State) :
    Law [.freeCtr, .tally, .log, .upd] s (fallBack s) := by
  unfold fallBack
  dsimp only [drawFree]
  repeat' (first
    | extract_lets | with_reducible exact Law.refl _ _ | with_reducible assumption
    | with_reducible apply Law.step (logRec_law _ _ _ _ _ _ _) | with_reducible apply Law.step (onUpd_law _ _)
    | with_reducible refine Law.foldl _ _ _ ?_ ?_ | (show (_ : List Part) ⊆ _; decide) | (show (_ : List Part) ⊆ _; decide) | (intro _)
    | split | with_reducible refine Law.set_freeCtr _ (by decide) ?_ | (dsimp +zetaDelta only [id]))

theorem placeCore_law (s : State) (g : Nat) :
    Law [.cores] s (placeCore s g) := by
  unfold placeCore
  repeat' (first
    | extract_lets | with_reducible exact Law.refl _ _ | with_reducible assumption | with_reducible apply Law.step (updCore_law _ _ _)
    | with_reducible refine Law.foldl _ _ _ ?_ ?_ | (show (_ : List Part) ⊆ _; decide) | (show (_ : List Part) ⊆ _; decide) | (intro _)
    | split | (dsimp +zetaDelta only [id]))

theorem trainDdr_law (bad : List Chan) (s : State) :
    Law [.freeCtr, .mem, .host, .cores, .clus, .ctxs, .ddr, .hst, .tally, .log, .fab, .link, .stew, .ckpt, .boot, .pins, .side, .sent] s (trainDdr bad s) := by
  unfold trainDdr
  repeat' (first
    | extract_lets | with_reducible exact Law.refl _ _ | with_reducible assumption | with_reducible apply Law.step (failDevice_law _ _ _)
    | with_reducible refine Law.foldl _ _ _ ?_ ?_ | (show (_ : List Part) ⊆ _; decide) | (show (_ : List Part) ⊆ _; decide) | (intro _)
    | split | (dsimp +zetaDelta only [id]))

theorem checkDump_law (ok : Bool) (s : State) : Law [.freeCtr, .mem, .host, .cores, .clus, .ddr, .rst, .tally, .ckpt] s (checkDump ok s) := by
  unfold checkDump
  split
  · exact Law.step (onRst_law _ _) (by decide) (Law.refl _ s)
  · split
    · exact Law.step (onRst_law _ _) (by decide) (Law.step (store_law _ _ _) (by decide) (Law.refl _ s))
    · exact Law.step (onRst_law _ _) (by decide) (Law.refl _ s)

theorem setWell_law (w : WellState) (s : State) :
    Law [.tally, .log, .ckpt] s (setWell w s) := by
  unfold setWell
  repeat' (first
    | extract_lets | with_reducible exact Law.refl _ _ | with_reducible assumption | with_reducible apply Law.step (onCkpt_law _ _)
    | with_reducible apply Law.step (logRec_law _ _ _ _ _ _ _) | with_reducible refine Law.foldl _ _ _ ?_ ?_
    | (show (_ : List Part) ⊆ _; decide) | (show (_ : List Part) ⊆ _; decide) | (intro _) | split | (dsimp +zetaDelta only [id]))

theorem tornSlot_law (s : State) (x : Ctx × Bool) :
    Law [.tally, .log, .ckpt] s (tornSlot s x) := by
  unfold tornSlot
  repeat' (first
    | extract_lets | with_reducible exact Law.refl _ _ | with_reducible assumption | with_reducible apply Law.step (setSlot_law _ _ _ _)
    | with_reducible apply Law.step (logRec_law _ _ _ _ _ _ _) | with_reducible refine Law.foldl _ _ _ ?_ ?_
    | (show (_ : List Part) ⊆ _; decide) | (show (_ : List Part) ⊆ _; decide) | (intro _) | split | (dsimp +zetaDelta only [id]))

theorem mountWell_law (bytes : Nat) (blank : Bool) (torn : List (Ctx × Bool)) (s : State) :
    Law [.tally, .log, .ckpt] s (mountWell bytes blank torn s) := by
  unfold mountWell
  repeat' (first
    | extract_lets | with_reducible exact Law.refl _ _ | with_reducible assumption | with_reducible apply Law.step (onCkpt_law _ _)
    | with_reducible apply Law.step (setWell_law _ _) | with_reducible apply Law.step (tornSlot_law _ _)
    | with_reducible refine Law.foldl _ _ _ ?_ ?_ | (show (_ : List Part) ⊆ _; decide) | (show (_ : List Part) ⊆ _; decide) | (intro _)
    | split | (dsimp +zetaDelta only [id]))

theorem loadMini_law (s : State) :
    Law [.tally, .log, .stew] s (loadMini s) := by
  unfold loadMini
  repeat' (first
    | extract_lets | with_reducible exact Law.refl _ _ | with_reducible assumption
    | with_reducible apply Law.step (logRec_law _ _ _ _ _ _ _) | with_reducible apply Law.step (onStew_law _ _)
    | with_reducible refine Law.foldl _ _ _ ?_ ?_ | (show (_ : List Part) ⊆ _; decide) | (show (_ : List Part) ⊆ _; decide) | (intro _)
    | split | with_reducible refine Law.set_log _ (by decide) ?_ | (dsimp +zetaDelta only [id]))

theorem bootFenced_law (cause : Nat) (f : BootFinding) (s : State) :
    Law [.freeCtr, .mem, .host, .cores, .clus, .ctxs, .ddr, .hst, .tally, .log, .fab, .link, .stew, .ckpt, .boot, .pins, .side, .sent] s (bootFenced cause f s) := by
  unfold bootFenced
  repeat' (first
    | extract_lets | with_reducible exact Law.refl _ _ | with_reducible assumption | with_reducible apply Law.step (onHst_law _ _)
    | with_reducible apply Law.step (enterFenced_law _ _) | with_reducible apply Law.step (mountWell_law _ _ _ _)
    | with_reducible refine Law.foldl _ _ _ ?_ ?_ | (show (_ : List Part) ⊆ _; decide) | (show (_ : List Part) ⊆ _; decide) | (intro _)
    | split | (dsimp +zetaDelta only [id]))

theorem enterCal_law (s : State) :
    Law [.boot] s (enterCal s) := by
  unfold enterCal
  repeat' (first
    | extract_lets | with_reducible exact Law.refl _ _ | with_reducible assumption | with_reducible apply Law.step (onBoot_law _ _)
    | with_reducible refine Law.foldl _ _ _ ?_ ?_ | (show (_ : List Part) ⊆ _; decide) | (show (_ : List Part) ⊆ _; decide) | (intro _)
    | split | (dsimp +zetaDelta only [id]))

theorem bootStep_law (n : Nat) (f : BootFinding) (s : State) :
    Law [.freeCtr, .mem, .host, .cores, .clus, .ctxs, .ddr, .hst, .idb, .rst, .tally, .log, .fab, .link, .steer, .stew, .ckpt, .boot, .upd, .pins, .side, .sent] s (bootStep n f s) := by
  unfold bootStep
  repeat' (first
    | extract_lets | with_reducible exact Law.refl _ _ | with_reducible assumption | with_reducible apply Law.step (onHst_law _ _)
    | with_reducible apply Law.step (tryStaged_law _ _) | with_reducible apply Law.step (loadSet_law _)
    | with_reducible apply Law.step (fallBack_law _) | with_reducible apply Law.step (placeCore_law _ _)
    | with_reducible apply Law.step (trainDdr_law _ _) | with_reducible apply Law.step (checkDump_law _ _)
    | with_reducible apply Law.step (mountWell_law _ _ _ _) | with_reducible apply Law.step (loadMini_law _)
    | with_reducible apply Law.step (bootFenced_law _ _ _) | with_reducible apply Law.step (onUpd_law _ _)
    | with_reducible refine Law.foldl _ _ _ ?_ ?_ | (show (_ : List Part) ⊆ _; decide) | (show (_ : List Part) ⊆ _; decide) | (intro _)
    | split | with_reducible refine Law.set_steer _ (by decide) ?_ | (dsimp +zetaDelta only [id]))

theorem afterStep_law (n : Nat) (s : State) :
    Law [.freeCtr, .mem, .host, .cores, .clus, .ctxs, .ddr, .hst, .tally, .log, .fab, .link, .stew, .ckpt, .boot, .pins, .side, .sent] s (afterStep n s) := by
  unfold afterStep
  repeat' (first
    | extract_lets | with_reducible exact Law.refl _ _ | with_reducible assumption | with_reducible apply Law.step (enterFenced_law _ _)
    | with_reducible apply Law.step (logRec_law _ _ _ _ _ _ _) | with_reducible apply Law.step (onBoot_law _ _)
    | with_reducible apply Law.step (enterCal_law _) | with_reducible refine Law.foldl _ _ _ ?_ ?_ | (show (_ : List Part) ⊆ _; decide)
    | (show (_ : List Part) ⊆ _; decide) | (intro _) | split | (dsimp +zetaDelta only [id]))

theorem execBootStepComplete_law (f : BootFinding) (s : State) :
    OutLaw [.freeCtr, .mem, .host, .cores, .clus, .ctxs, .ddr, .hst, .idb, .rst, .tally, .log, .fab, .link, .steer, .stew, .ckpt, .boot, .upd, .pins, .side, .sent] s (execBootStepComplete f s) := by
  unfold execBootStepComplete
  repeat' (first
    | with_reducible refine OutLaw.next ?_ | extract_lets | with_reducible exact Law.refl _ _ | with_reducible assumption
    | with_reducible apply Law.step (onBoot_law _ _) | with_reducible apply Law.step (bootStep_law _ _ _)
    | with_reducible apply Law.step (afterStep_law _ _) | with_reducible refine Law.foldl _ _ _ ?_ ?_ | (show (_ : List Part) ⊆ _; decide)
    | (show (_ : List Part) ⊆ _; decide) | (intro _) | split | (dsimp +zetaDelta only [id]))

theorem execBootPwrfailRelease_law (s : State) :
    OutLaw [.freeCtr, .mem, .host, .cores, .clus, .ctxs, .ddr, .hst, .tally, .log, .fab, .link, .stew, .ckpt, .boot, .pwr, .pins, .side, .sent] s (execBootPwrfailRelease s) := by
  unfold execBootPwrfailRelease
  repeat' (first
    | with_reducible refine OutLaw.next ?_ | extract_lets | with_reducible exact Law.refl _ _ | with_reducible assumption
    | with_reducible apply Law.step (onPwr_law _ _) | with_reducible apply Law.step (onBoot_law _ _)
    | with_reducible apply Law.step (afterStep_law _ _) | with_reducible refine Law.foldl _ _ _ ?_ ?_ | (show (_ : List Part) ⊆ _; decide)
    | (show (_ : List Part) ⊆ _; decide) | (intro _) | split | with_reducible refine Law.set_pins _ (by decide) ?_
    | (dsimp +zetaDelta only [id]))

theorem calComb_law (bad : List (Clu × Fin 4)) (c : Nat) (s : State) (slot : Nat) :
    Law [.freeCtr, .mem, .host, .cores, .clus, .ctxs, .ddr, .hst, .idb, .rst, .tally, .log, .fab, .link, .stew, .ckpt, .boot, .pins, .side, .sent] s (calComb bad c s slot) := by
  unfold calComb
  repeat' (first
    | extract_lets | with_reducible exact Law.refl _ _ | with_reducible assumption | with_reducible apply Law.step (updComb_law _ _ _ _)
    | with_reducible apply Law.step (combSlotLost_law _ _ _) | with_reducible apply Law.step (updClu_law _ _ _)
    | with_reducible apply Law.step (logClu_law _ _ _ _ _ _ _) | with_reducible refine Law.foldl _ _ _ ?_ ?_
    | (show (_ : List Part) ⊆ _; decide) | (show (_ : List Part) ⊆ _; decide) | (intro _) | split | (dsimp +zetaDelta only [id]))

theorem calFab_law (bad : List Plane) (s : State) (p : Nat) :
    Law [.freeCtr, .mem, .host, .cores, .clus, .ctxs, .ddr, .hst, .tally, .log, .fab, .link, .stew, .ckpt, .boot, .pins, .side, .sent] s (calFab bad s p) := by
  unfold calFab
  repeat' (first
    | extract_lets | with_reducible exact Law.refl _ _ | with_reducible assumption | with_reducible apply Law.step (setComb_law _ _ _ _)
    | with_reducible apply Law.step (planeRetire_law _ _) | with_reducible refine Law.foldl _ _ _ ?_ ?_
    | (show (_ : List Part) ⊆ _; decide) | (show (_ : List Part) ⊆ _; decide) | (intro _) | split | (dsimp +zetaDelta only [id]))

theorem calScrub_law (bad : List Core) (s : State) (g : Nat) :
    Law [.freeCtr, .mem, .host, .cores, .clus, .ctxs, .ddr, .hst, .idb, .rst, .tally, .log, .fab, .link, .stew, .ckpt, .boot, .pins, .side, .sent] s (calScrub bad s g) := by
  unfold calScrub
  repeat' (first
    | extract_lets | with_reducible exact Law.refl _ _ | with_reducible assumption | with_reducible apply Law.step (scrubCore_law _ _)
    | with_reducible apply Law.step (fenceCore_law _ _ _) | with_reducible apply Law.step (coreFault_law _ _ _)
    | with_reducible refine Law.foldl _ _ _ ?_ ?_ | (show (_ : List Part) ⊆ _; decide) | (show (_ : List Part) ⊆ _; decide) | (intro _)
    | split | (dsimp +zetaDelta only [id]))

theorem calEngine_law (g : Nat) (s : State) (e : Nat) :
    Law [.cores] s (calEngine g s e) := by
  unfold calEngine
  repeat' (first
    | extract_lets | with_reducible exact Law.refl _ _ | with_reducible assumption | with_reducible apply Law.step (setOte_law _ _ _ _)
    | with_reducible refine Law.foldl _ _ _ ?_ ?_ | (show (_ : List Part) ⊆ _; decide) | (show (_ : List Part) ⊆ _; decide) | (intro _)
    | split | (dsimp +zetaDelta only [id]))

theorem calRowFail_law (s : State) (x : Core × Eng × Fin 65) :
    Law [.freeCtr, .mem, .host, .cores, .clus, .ctxs, .ddr, .hst, .idb, .rst, .tally, .log, .fab, .link, .stew, .ckpt, .boot, .pins, .side, .sent] s (calRowFail s x) := by
  unfold calRowFail
  repeat' (first
    | extract_lets | with_reducible exact Law.refl _ _ | with_reducible assumption | with_reducible apply Law.step (fenceCore_law _ _ _)
    | with_reducible apply Law.step (setOte_law _ _ _ _) | with_reducible apply Law.step (coreFault_law _ _ _)
    | with_reducible apply Law.step (logCore_law _ _ _ _ _ _ _) | with_reducible refine Law.foldl _ _ _ ?_ ?_
    | (show (_ : List Part) ⊆ _; decide) | (show (_ : List Part) ⊆ _; decide) | (intro _) | split | (dsimp +zetaDelta only [id]))

theorem enterSurvey_law (s : State) :
    Law [.tally, .log, .fab, .steer, .stew, .boot] s (enterSurvey s) := by
  unfold enterSurvey
  repeat' (first
    | extract_lets | with_reducible exact Law.refl _ _ | with_reducible assumption | with_reducible apply Law.step (onBoot_law _ _)
    | with_reducible apply Law.step (startSurvey_law _ _ _) | with_reducible apply Law.step (roleAfter_law _)
    | with_reducible refine Law.foldl _ _ _ ?_ ?_ | (show (_ : List Part) ⊆ _; decide) | (show (_ : List Part) ⊆ _; decide) | (intro _)
    | split | (dsimp +zetaDelta only [id]))

theorem calStep_law (n : Nat) (f : CalFinding) (s : State) :
    Law [.freeCtr, .mem, .host, .cores, .clus, .ctxs, .ddr, .hst, .idb, .rst, .tally, .log, .fab, .link, .steer, .stew, .ckpt, .boot, .pins, .side, .sent] s (calStep n f s) := by
  unfold calStep
  repeat' (first
    | extract_lets | with_reducible exact Law.refl _ _ | with_reducible assumption
    | with_reducible apply Law.step (combPower_law _ _ _ _ _ _) | with_reducible apply Law.step (combThresholds_law _ _)
    | with_reducible apply Law.step (calComb_law _ _ _ _) | with_reducible apply Law.step (calFab_law _ _ _)
    | with_reducible apply Law.step (calScrub_law _ _ _) | with_reducible apply Law.step (calEngine_law _ _ _)
    | with_reducible apply Law.step (calRowFail_law _ _) | with_reducible apply Law.step (enterSurvey_law _)
    | with_reducible refine Law.foldl _ _ _ ?_ ?_ | (show (_ : List Part) ⊆ _; decide) | (show (_ : List Part) ⊆ _; decide) | (intro _)
    | split | (dsimp +zetaDelta only [id]))

theorem execCalStepComplete_law (f : CalFinding) (s : State) :
    OutLaw [.freeCtr, .mem, .host, .cores, .clus, .ctxs, .ddr, .hst, .idb, .rst, .tally, .log, .fab, .link, .steer, .stew, .ckpt, .boot, .pins, .side, .sent] s (execCalStepComplete f s) := by
  unfold execCalStepComplete
  repeat' (first
    | with_reducible refine OutLaw.next ?_ | extract_lets | with_reducible exact Law.refl _ _ | with_reducible assumption
    | with_reducible apply Law.step (enterFenced_law _ _) | with_reducible apply Law.step (onBoot_law _ _)
    | with_reducible apply Law.step (calStep_law _ _ _) | with_reducible refine Law.foldl _ _ _ ?_ ?_ | (show (_ : List Part) ⊆ _; decide)
    | (show (_ : List Part) ⊆ _; decide) | (intro _) | split | (dsimp +zetaDelta only [id]))

theorem execSurveyWaitTimeout_law (s : State) :
    OutLaw [.host, .hst, .tally, .log, .stew, .boot, .side, .sent] s (execSurveyWaitTimeout s) := by
  unfold execSurveyWaitTimeout
  repeat' (first
    | with_reducible refine OutLaw.next ?_ | extract_lets | with_reducible exact Law.refl _ _ | with_reducible assumption
    | with_reducible apply Law.step (leaveSurvey_law _) | with_reducible refine Law.foldl _ _ _ ?_ ?_ | (show (_ : List Part) ⊆ _; decide)
    | (show (_ : List Part) ⊆ _; decide) | (intro _) | split | (dsimp +zetaDelta only [id]))

end Sys2Proof.Machine
end

