-- ==== Sys2Proof/Laws/Pins.lean ====
section
/-! SUPPORT. What each operation of Machine/Pins.lean may touch, one lemma for each, and that it keeps memory in its canonical form. -/

set_option maxRecDepth 4000
set_option linter.all false

namespace Sys2Proof.Machine

theorem onPins_law (f : PinSt → PinSt) (s : State) :
    Law [.pins] s (onPins f s) := by
  unfold onPins
  repeat' (first
    | extract_lets | with_reducible exact Law.refl _ _ | with_reducible assumption | with_reducible refine Law.foldl _ _ _ ?_ ?_
    | (show (_ : List Part) ⊆ _; decide) | (show (_ : List Part) ⊆ _; decide) | (intro _) | split
    | with_reducible refine Law.set_pins _ (by decide) ?_ | (dsimp +zetaDelta only [id]))

theorem execPwrfailNAssert_law (toggling : Bool) (edges : Nat) (cv : Nat) (watts : Nat) (s : State) :
    OutLaw [.freeCtr, .host, .cores, .clus, .ctxs, .ddr, .hst, .rst, .tally, .log, .fab, .link, .stew, .ckpt, .pwr, .upd, .pins, .eth, .side, .sent] s (execPwrfailNAssert toggling edges cv watts s) := by
  unfold execPwrfailNAssert
  repeat' (first
    | with_reducible refine OutLaw.next ?_ | extract_lets | with_reducible exact Law.refl _ _ | with_reducible assumption
    | with_reducible apply Law.step (logRec_law _ _ _ _ _ _ _) | with_reducible apply Law.step (onPins_law _ _)
    | with_reducible apply Law.step (onPwr_law _ _) | with_reducible apply Law.step (powerFail_law _ _)
    | with_reducible apply Law.step (inputSample_law _ _ _) | with_reducible refine Law.foldl _ _ _ ?_ ?_
    | (show (_ : List Part) ⊆ _; decide) | (show (_ : List Part) ⊆ _; decide) | (intro _) | split | (dsimp +zetaDelta only [id]))

theorem attnCounted_law (s : State) :
    Law [.pins] s (attnCounted s) := by
  unfold attnCounted
  repeat' (first
    | extract_lets | with_reducible exact Law.refl _ _ | with_reducible assumption | with_reducible apply Law.step (onPins_law _ _)
    | with_reducible refine Law.foldl _ _ _ ?_ ?_ | (show (_ : List Part) ⊆ _; decide) | (show (_ : List Part) ⊆ _; decide) | (intro _)
    | split | (dsimp +zetaDelta only [id]))

theorem execRackAttn_law (s : State) :
    OutLaw [.host, .hst, .tally, .pins, .sent] s (execRackAttn s) := by
  unfold execRackAttn
  repeat' (first
    | with_reducible refine OutLaw.next ?_ | extract_lets | with_reducible exact Law.refl _ _ | with_reducible assumption
    | with_reducible apply Law.step (postEvent_law _ _ _ _ _ _ _ _) | with_reducible apply Law.step (onPins_law _ _)
    | with_reducible apply Law.step (attnCounted_law _) | with_reducible refine Law.foldl _ _ _ ?_ ?_ | (show (_ : List Part) ⊆ _; decide)
    | (show (_ : List Part) ⊆ _; decide) | (intro _) | split | (dsimp +zetaDelta only [id]))

theorem execRackAttnMask_law (masked : Bool) (s : State) :
    OutLaw [.tally, .log, .pins] s (execRackAttnMask masked s) := by
  unfold execRackAttnMask
  repeat' (first
    | with_reducible refine OutLaw.next ?_ | extract_lets | with_reducible exact Law.refl _ _ | with_reducible assumption
    | with_reducible apply Law.step (logRec_law _ _ _ _ _ _ _) | with_reducible apply Law.step (onPins_law _ _)
    | with_reducible refine Law.foldl _ _ _ ?_ ?_ | (show (_ : List Part) ⊆ _; decide) | (show (_ : List Part) ⊆ _; decide) | (intro _)
    | split | (dsimp +zetaDelta only [id]))

theorem execPerstN_law (s : State) :
    OutLaw [.freeCtr, .mem, .host, .cores, .clus, .ctxs, .ddr, .hst, .idb, .rst, .tally, .log, .fab, .link, .stew, .ckpt, .upd, .pins, .side, .sent] s (execPerstN s) := by
  unfold execPerstN
  repeat' (first
    | with_reducible refine OutLaw.next ?_ | extract_lets | with_reducible exact Law.refl _ _ | with_reducible assumption
    | with_reducible apply Law.step (hostReset_law _ _) | with_reducible apply Law.step (onPins_law _ _)
    | with_reducible refine Law.foldl _ _ _ ?_ ?_ | (show (_ : List Part) ⊆ _; decide) | (show (_ : List Part) ⊆ _; decide) | (intro _)
    | split | (dsimp +zetaDelta only [id]))

theorem execSlotIdChange_law (v : Fin 32) (s : State) :
    OutLaw [.tally, .log, .pins] s (execSlotIdChange v s) := by
  unfold execSlotIdChange
  repeat' (first
    | with_reducible refine OutLaw.next ?_ | extract_lets | with_reducible exact Law.refl _ _ | with_reducible assumption
    | with_reducible apply Law.step (logRec_law _ _ _ _ _ _ _) | with_reducible apply Law.step (onPins_law _ _)
    | with_reducible refine Law.foldl _ _ _ ?_ ?_ | (show (_ : List Part) ⊆ _; decide) | (show (_ : List Part) ⊆ _; decide) | (intro _)
    | split | (dsimp +zetaDelta only [id]))

theorem execEjectorOpen_law (s : State) :
    OutLaw [.host, .hst, .tally, .log, .stew, .pins, .side, .sent] s (execEjectorOpen s) := by
  unfold execEjectorOpen
  repeat' (first
    | with_reducible refine OutLaw.next ?_ | extract_lets | with_reducible exact Law.refl _ _ | with_reducible assumption
    | with_reducible apply Law.step (report_law _ _) | with_reducible apply Law.step (setRemove_law _ _)
    | with_reducible apply Law.step (removeCheck_law _) | with_reducible apply Law.step (onPins_law _ _)
    | with_reducible refine Law.foldl _ _ _ ?_ ?_ | (show (_ : List Part) ⊆ _; decide) | (show (_ : List Part) ⊆ _; decide) | (intro _)
    | split | (dsimp +zetaDelta only [id]))

theorem execEjectorClose_law (s : State) :
    OutLaw [.host, .hst, .tally, .log, .pins, .side, .sent] s (execEjectorClose s) := by
  unfold execEjectorClose
  repeat' (first
    | with_reducible refine OutLaw.next ?_ | extract_lets | with_reducible exact Law.refl _ _ | with_reducible assumption
    | with_reducible apply Law.step (setRemove_law _ _) | with_reducible apply Law.step (onPins_law _ _)
    | with_reducible refine Law.foldl _ _ _ ?_ ?_ | (show (_ : List Part) ⊆ _; decide) | (show (_ : List Part) ⊆ _; decide) | (intro _)
    | split | (dsimp +zetaDelta only [id]))

theorem setEth_law (p : Nat) (k : EthPort) (s : State) :
    Law [.eth] s (setEth p k s) := by
  unfold setEth
  repeat' (first
    | extract_lets | with_reducible exact Law.refl _ _ | with_reducible assumption | with_reducible refine Law.foldl _ _ _ ?_ ?_
    | (show (_ : List Part) ⊆ _; decide) | (show (_ : List Part) ⊆ _; decide) | (intro _) | split
    | with_reducible refine Law.set_eth _ (by decide) ?_ | (dsimp +zetaDelta only [id]))

theorem ethMove_law (p : Nat) (to_ : EthState) (s : State) :
    Law [.tally, .log, .eth] s (ethMove p to_ s) := by
  unfold ethMove
  repeat' (first
    | extract_lets | with_reducible exact Law.refl _ _ | with_reducible assumption
    | with_reducible apply Law.step (logRec_law _ _ _ _ _ _ _) | with_reducible apply Law.step (setEth_law _ _ _)
    | with_reducible refine Law.foldl _ _ _ ?_ ?_ | (show (_ : List Part) ⊆ _; decide) | (show (_ : List Part) ⊆ _; decide) | (intro _)
    | split | (dsimp +zetaDelta only [id]))

theorem ethOn_law (p : Nat) (s : State) :
    Law [.tally, .log, .eth] s (ethOn p s) := by
  unfold ethOn
  repeat' (first
    | extract_lets | with_reducible exact Law.refl _ _ | with_reducible assumption | with_reducible apply Law.step (setEth_law _ _ _)
    | with_reducible apply Law.step (ethMove_law _ _ _) | with_reducible refine Law.foldl _ _ _ ?_ ?_ | (show (_ : List Part) ⊆ _; decide)
    | (show (_ : List Part) ⊆ _; decide) | (intro _) | split | (dsimp +zetaDelta only [id]))

theorem ethEnable_law (p : Nat) (s : State) :
    Law [.tally, .log, .eth] s (ethEnable p s) := by
  unfold ethEnable
  repeat' (first
    | extract_lets | with_reducible exact Law.refl _ _ | with_reducible assumption | with_reducible apply Law.step (setEth_law _ _ _)
    | with_reducible apply Law.step (ethOn_law _ _) | with_reducible refine Law.foldl _ _ _ ?_ ?_ | (show (_ : List Part) ⊆ _; decide)
    | (show (_ : List Part) ⊆ _; decide) | (intro _) | split | (dsimp +zetaDelta only [id]))

theorem ethDisable_law (p : Nat) (s : State) :
    Law [.tally, .log, .eth] s (ethDisable p s) := by
  unfold ethDisable
  repeat' (first
    | extract_lets | with_reducible exact Law.refl _ _ | with_reducible assumption | with_reducible apply Law.step (setEth_law _ _ _)
    | with_reducible apply Law.step (ethMove_law _ _ _) | with_reducible refine Law.foldl _ _ _ ?_ ?_ | (show (_ : List Part) ⊆ _; decide)
    | (show (_ : List Part) ⊆ _; decide) | (intro _) | split | (dsimp +zetaDelta only [id]))

theorem execEthPortEnable_law (p : Fin 4) (s : State) :
    OutLaw [.tally, .log, .eth] s (execEthPortEnable p s) := by
  unfold execEthPortEnable
  repeat' (first
    | with_reducible refine OutLaw.next ?_ | extract_lets | with_reducible exact Law.refl _ _ | with_reducible assumption
    | with_reducible apply Law.step (ethEnable_law _ _) | with_reducible apply Law.step (heldWrite_law _ _ _)
    | with_reducible refine Law.foldl _ _ _ ?_ ?_ | (show (_ : List Part) ⊆ _; decide) | (show (_ : List Part) ⊆ _; decide) | (intro _)
    | split | (dsimp +zetaDelta only [id]))

theorem execEthPortDisable_law (p : Fin 4) (s : State) :
    OutLaw [.tally, .log, .eth] s (execEthPortDisable p s) := by
  unfold execEthPortDisable
  repeat' (first
    | with_reducible refine OutLaw.next ?_ | extract_lets | with_reducible exact Law.refl _ _ | with_reducible assumption
    | with_reducible apply Law.step (ethDisable_law _ _) | with_reducible apply Law.step (heldWrite_law _ _ _)
    | with_reducible refine Law.foldl _ _ _ ?_ ?_ | (show (_ : List Part) ⊆ _; decide) | (show (_ : List Part) ⊆ _; decide) | (intro _)
    | split | (dsimp +zetaDelta only [id]))

theorem execEthPortDrainEnd_law (p : Fin 4) (s : State) :
    OutLaw [.tally, .log, .eth] s (execEthPortDrainEnd p s) := by
  unfold execEthPortDrainEnd
  repeat' (first
    | with_reducible refine OutLaw.next ?_ | extract_lets | with_reducible exact Law.refl _ _ | with_reducible assumption
    | with_reducible apply Law.step (setEth_law _ _ _) | with_reducible apply Law.step (ethMove_law _ _ _)
    | with_reducible apply Law.step (ethOn_law _ _) | with_reducible refine Law.foldl _ _ _ ?_ ?_ | (show (_ : List Part) ⊆ _; decide)
    | (show (_ : List Part) ⊆ _; decide) | (intro _) | split | (dsimp +zetaDelta only [id]))

theorem execOsfpModuleChange_law (p : Fin 4) (what : Fin 3) (powerClass : Nat) (s : State) :
    OutLaw [.tally, .log, .eth] s (execOsfpModuleChange p what powerClass s) := by
  unfold execOsfpModuleChange
  repeat' (first
    | with_reducible refine OutLaw.next ?_ | extract_lets | with_reducible exact Law.refl _ _ | with_reducible assumption
    | with_reducible apply Law.step (logRec_law _ _ _ _ _ _ _) | with_reducible apply Law.step (setEth_law _ _ _)
    | with_reducible apply Law.step (ethOn_law _ _) | with_reducible refine Law.foldl _ _ _ ?_ ?_ | (show (_ : List Part) ⊆ _; decide)
    | (show (_ : List Part) ⊆ _; decide) | (intro _) | split | (dsimp +zetaDelta only [id]))

theorem ethDrop_law (p : Nat) (s : State) :
    Law [.tally, .log, .eth] s (ethDrop p s) := by
  unfold ethDrop
  repeat' (first
    | extract_lets | with_reducible exact Law.refl _ _ | with_reducible assumption
    | with_reducible apply Law.step (logRate_law _ _ _ _ _ _ _ _ _) | with_reducible apply Law.step (setEth_law _ _ _)
    | with_reducible refine Law.foldl _ _ _ ?_ ?_ | (show (_ : List Part) ⊆ _; decide) | (show (_ : List Part) ⊆ _; decide) | (intro _)
    | split | (dsimp +zetaDelta only [id]))

theorem execEthernetFrame_law (p : Fin 4) (frame : List Byte) (ce : Nat) (ue : Nat) (s : State) :
    OutLaw [.tally, .log, .eth] s (execEthernetFrame p frame ce ue s) := by
  unfold execEthernetFrame
  repeat' (first
    | with_reducible refine OutLaw.next ?_ | extract_lets | with_reducible exact Law.refl _ _ | with_reducible assumption
    | with_reducible apply Law.step (setEth_law _ _ _) | with_reducible apply Law.step (ethMove_law _ _ _)
    | with_reducible apply Law.step (ethDrop_law _ _) | with_reducible refine Law.foldl _ _ _ ?_ ?_ | (show (_ : List Part) ⊆ _; decide)
    | (show (_ : List Part) ⊆ _; decide) | (intro _) | split | (dsimp +zetaDelta only [id]))

theorem execControlLinkChange_law (link : Fin 3) (s : State) :
    OutLaw [.tally, .log, .pins] s (execControlLinkChange link s) := by
  unfold execControlLinkChange
  repeat' (first
    | with_reducible refine OutLaw.next ?_ | extract_lets | with_reducible exact Law.refl _ _ | with_reducible assumption
    | with_reducible apply Law.step (logRec_law _ _ _ _ _ _ _) | with_reducible apply Law.step (onPins_law _ _)
    | with_reducible refine Law.foldl _ _ _ ?_ ?_ | (show (_ : List Part) ⊆ _; decide) | (show (_ : List Part) ⊆ _; decide) | (intro _)
    | split | (dsimp +zetaDelta only [id]))

theorem execLocate_law (v : Word) (s : State) :
    OutLaw [.tally, .log, .pins] s (execLocate v s) := by
  unfold execLocate
  repeat' (first
    | with_reducible refine OutLaw.next ?_ | extract_lets | with_reducible exact Law.refl _ _ | with_reducible assumption
    | with_reducible apply Law.step (onPins_law _ _) | with_reducible apply Law.step (heldWrite_law _ _ _)
    | with_reducible refine Law.foldl _ _ _ ?_ ?_ | (show (_ : List Part) ⊆ _; decide) | (show (_ : List Part) ⊆ _; decide) | (intro _)
    | split | (dsimp +zetaDelta only [id]))

theorem served_law (s : State) :
    Law [.side] s (served s) := by
  unfold served
  repeat' (first
    | extract_lets | with_reducible exact Law.refl _ _ | with_reducible assumption | with_reducible refine Law.foldl _ _ _ ?_ ?_
    | (show (_ : List Part) ⊆ _; decide) | (show (_ : List Part) ⊆ _; decide) | (intro _) | split
    | with_reducible refine Law.set_side _ (by decide) ?_ | (dsimp +zetaDelta only [id]))

theorem mctpReply_law (cmd : Nat) (code : Nat) (data : List Nat) (s : State) :
    Law [.side, .sent] s (mctpReply cmd code data s) := by
  unfold mctpReply
  repeat' (first
    | extract_lets | with_reducible exact Law.refl _ _ | with_reducible assumption | with_reducible apply Law.step (send_law _ _ _ _)
    | with_reducible apply Law.step (served_law _) | with_reducible refine Law.foldl _ _ _ ?_ ?_ | (show (_ : List Part) ⊆ _; decide)
    | (show (_ : List Part) ⊆ _; decide) | (intro _) | split | (dsimp +zetaDelta only [id]))

theorem pldmReply_law (type_ : Nat) (cmd : Nat) (code : Nat) (data : List Nat) (s : State) :
    Law [.side, .sent] s (pldmReply type_ cmd code data s) := by
  unfold pldmReply
  repeat' (first
    | extract_lets | with_reducible exact Law.refl _ _ | with_reducible assumption | with_reducible apply Law.step (send_law _ _ _ _)
    | with_reducible apply Law.step (served_law _) | with_reducible refine Law.foldl _ _ _ ?_ ?_ | (show (_ : List Part) ⊆ _; decide)
    | (show (_ : List Part) ⊆ _; decide) | (intro _) | split | (dsimp +zetaDelta only [id]))

theorem execSetEndpointId_law (eid : Byte) (i3c : Bool) (s : State) :
    OutLaw [.tally, .log, .side, .sent] s (execSetEndpointId eid i3c s) := by
  unfold execSetEndpointId
  repeat' (first
    | with_reducible refine OutLaw.next ?_ | extract_lets | with_reducible exact Law.refl _ _ | with_reducible assumption
    | with_reducible apply Law.step (logRec_law _ _ _ _ _ _ _) | with_reducible apply Law.step (mctpReply_law _ _ _ _)
    | with_reducible refine Law.foldl _ _ _ ?_ ?_ | (show (_ : List Part) ⊆ _; decide) | (show (_ : List Part) ⊆ _; decide) | (intro _)
    | split | with_reducible refine Law.set_side _ (by decide) ?_ | (dsimp +zetaDelta only [id]))

theorem execGetEndpointId_law (s : State) :
    OutLaw [.side, .sent] s (execGetEndpointId s) := by
  unfold execGetEndpointId
  repeat' (first
    | with_reducible refine OutLaw.next ?_ | extract_lets | with_reducible exact Law.refl _ _ | with_reducible assumption
    | with_reducible apply Law.step (mctpReply_law _ _ _ _) | with_reducible refine Law.foldl _ _ _ ?_ ?_
    | (show (_ : List Part) ⊆ _; decide) | (show (_ : List Part) ⊆ _; decide) | (intro _) | split | (dsimp +zetaDelta only [id]))

theorem execGetMctpVersionSupport_law (mtype : Byte) (s : State) :
    OutLaw [.freeCtr, .side, .sent] s (execGetMctpVersionSupport mtype s) := by
  unfold execGetMctpVersionSupport
  dsimp only [drawFree]
  repeat' (first
    | with_reducible refine OutLaw.next ?_ | extract_lets | with_reducible exact Law.refl _ _ | with_reducible assumption
    | with_reducible apply Law.step (mctpReply_law _ _ _ _) | with_reducible refine Law.foldl _ _ _ ?_ ?_
    | (show (_ : List Part) ⊆ _; decide) | (show (_ : List Part) ⊆ _; decide) | (intro _) | split
    | with_reducible refine Law.set_freeCtr _ (by decide) ?_ | (dsimp +zetaDelta only [id]))

theorem execGetMessageTypeSupport_law (s : State) :
    OutLaw [.side, .sent] s (execGetMessageTypeSupport s) := by
  unfold execGetMessageTypeSupport
  repeat' (first
    | with_reducible refine OutLaw.next ?_ | extract_lets | with_reducible exact Law.refl _ _ | with_reducible assumption
    | with_reducible apply Law.step (mctpReply_law _ _ _ _) | with_reducible refine Law.foldl _ _ _ ?_ ?_
    | (show (_ : List Part) ⊆ _; decide) | (show (_ : List Part) ⊆ _; decide) | (intro _) | split | (dsimp +zetaDelta only [id]))

theorem execGetVendorDefinedMessageSupport_law (ix : Byte) (s : State) :
    OutLaw [.side, .sent] s (execGetVendorDefinedMessageSupport ix s) := by
  unfold execGetVendorDefinedMessageSupport
  repeat' (first
    | with_reducible refine OutLaw.next ?_ | extract_lets | with_reducible exact Law.refl _ _ | with_reducible assumption
    | with_reducible apply Law.step (mctpReply_law _ _ _ _) | with_reducible refine Law.foldl _ _ _ ?_ ?_
    | (show (_ : List Part) ⊆ _; decide) | (show (_ : List Part) ⊆ _; decide) | (intro _) | split | (dsimp +zetaDelta only [id]))

theorem execGetTid_law (s : State) :
    OutLaw [.side, .sent] s (execGetTid s) := by
  unfold execGetTid
  repeat' (first
    | with_reducible refine OutLaw.next ?_ | extract_lets | with_reducible exact Law.refl _ _ | with_reducible assumption
    | with_reducible apply Law.step (pldmReply_law _ _ _ _ _) | with_reducible refine Law.foldl _ _ _ ?_ ?_
    | (show (_ : List Part) ⊆ _; decide) | (show (_ : List Part) ⊆ _; decide) | (intro _) | split | (dsimp +zetaDelta only [id]))

theorem execSetTid_law (tid : Byte) (s : State) :
    OutLaw [.side, .sent] s (execSetTid tid s) := by
  unfold execSetTid
  repeat' (first
    | with_reducible refine OutLaw.next ?_ | extract_lets | with_reducible exact Law.refl _ _ | with_reducible assumption
    | with_reducible apply Law.step (pldmReply_law _ _ _ _ _) | with_reducible refine Law.foldl _ _ _ ?_ ?_
    | (show (_ : List Part) ⊆ _; decide) | (show (_ : List Part) ⊆ _; decide) | (intro _) | split
    | with_reducible refine Law.set_side _ (by decide) ?_ | (dsimp +zetaDelta only [id]))

theorem execGetPldmVersion_law (ptype : Byte) (s : State) :
    OutLaw [.freeCtr, .side, .sent] s (execGetPldmVersion ptype s) := by
  unfold execGetPldmVersion
  dsimp only [drawFree]
  repeat' (first
    | with_reducible refine OutLaw.next ?_ | extract_lets | with_reducible exact Law.refl _ _ | with_reducible assumption
    | with_reducible apply Law.step (pldmReply_law _ _ _ _ _) | with_reducible refine Law.foldl _ _ _ ?_ ?_
    | (show (_ : List Part) ⊆ _; decide) | (show (_ : List Part) ⊆ _; decide) | (intro _) | split
    | with_reducible refine Law.set_freeCtr _ (by decide) ?_ | (dsimp +zetaDelta only [id]))

theorem execGetPldmTypes_law (s : State) :
    OutLaw [.side, .sent] s (execGetPldmTypes s) := by
  unfold execGetPldmTypes
  repeat' (first
    | with_reducible refine OutLaw.next ?_ | extract_lets | with_reducible exact Law.refl _ _ | with_reducible assumption
    | with_reducible apply Law.step (pldmReply_law _ _ _ _ _) | with_reducible refine Law.foldl _ _ _ ?_ ?_
    | (show (_ : List Part) ⊆ _; decide) | (show (_ : List Part) ⊆ _; decide) | (intro _) | split | (dsimp +zetaDelta only [id]))

theorem execGetPldmCommands_law (ptype : Byte) (s : State) :
    OutLaw [.side, .sent] s (execGetPldmCommands ptype s) := by
  unfold execGetPldmCommands
  repeat' (first
    | with_reducible refine OutLaw.next ?_ | extract_lets | with_reducible exact Law.refl _ _ | with_reducible assumption
    | with_reducible apply Law.step (pldmReply_law _ _ _ _ _) | with_reducible refine Law.foldl _ _ _ ?_ ?_
    | (show (_ : List Part) ⊆ _; decide) | (show (_ : List Part) ⊆ _; decide) | (intro _) | split | (dsimp +zetaDelta only [id]))

theorem execGetPdr_law (handle : Word) (s : State) :
    OutLaw [.freeCtr, .side, .sent] s (execGetPdr handle s) := by
  unfold execGetPdr
  dsimp only [drawFree]
  repeat' (first
    | with_reducible refine OutLaw.next ?_ | extract_lets | with_reducible exact Law.refl _ _ | with_reducible assumption
    | with_reducible apply Law.step (pldmReply_law _ _ _ _ _) | with_reducible refine Law.foldl _ _ _ ?_ ?_
    | (show (_ : List Part) ⊆ _; decide) | (show (_ : List Part) ⊆ _; decide) | (intro _) | split
    | with_reducible refine Law.set_freeCtr _ (by decide) ?_ | (dsimp +zetaDelta only [id]))

theorem execGetSensorReading_law (sensor : Nat) (s : State) :
    OutLaw [.side, .sent] s (execGetSensorReading sensor s) := by
  unfold execGetSensorReading
  repeat' (first
    | with_reducible refine OutLaw.next ?_ | extract_lets | with_reducible exact Law.refl _ _ | with_reducible assumption
    | with_reducible apply Law.step (pldmReply_law _ _ _ _ _) | with_reducible refine Law.foldl _ _ _ ?_ ?_
    | (show (_ : List Part) ⊆ _; decide) | (show (_ : List Part) ⊆ _; decide) | (intro _) | split | (dsimp +zetaDelta only [id]))

theorem execGetStateSensorReadings_law (sensor : Nat) (s : State) :
    OutLaw [.side, .sent] s (execGetStateSensorReadings sensor s) := by
  unfold execGetStateSensorReadings
  repeat' (first
    | with_reducible refine OutLaw.next ?_ | extract_lets | with_reducible exact Law.refl _ _ | with_reducible assumption
    | with_reducible apply Law.step (pldmReply_law _ _ _ _ _) | with_reducible refine Law.foldl _ _ _ ?_ ?_
    | (show (_ : List Part) ⊆ _; decide) | (show (_ : List Part) ⊆ _; decide) | (intro _) | split | (dsimp +zetaDelta only [id]))

theorem execGetFruRecordTableMetadata_law (s : State) :
    OutLaw [.freeCtr, .side, .sent] s (execGetFruRecordTableMetadata s) := by
  unfold execGetFruRecordTableMetadata
  dsimp only [drawFree]
  repeat' (first
    | with_reducible refine OutLaw.next ?_ | extract_lets | with_reducible exact Law.refl _ _ | with_reducible assumption
    | with_reducible apply Law.step (pldmReply_law _ _ _ _ _) | with_reducible refine Law.foldl _ _ _ ?_ ?_
    | (show (_ : List Part) ⊆ _; decide) | (show (_ : List Part) ⊆ _; decide) | (intro _) | split
    | with_reducible refine Law.set_freeCtr _ (by decide) ?_ | (dsimp +zetaDelta only [id]))

theorem execGetFruRecordTable_law (s : State) :
    OutLaw [.freeCtr, .side, .sent] s (execGetFruRecordTable s) := by
  unfold execGetFruRecordTable
  dsimp only [drawFree]
  repeat' (first
    | with_reducible refine OutLaw.next ?_ | extract_lets | with_reducible exact Law.refl _ _ | with_reducible assumption
    | with_reducible apply Law.step (pldmReply_law _ _ _ _ _) | with_reducible refine Law.foldl _ _ _ ?_ ?_
    | (show (_ : List Part) ⊆ _; decide) | (show (_ : List Part) ⊆ _; decide) | (intro _) | split
    | with_reducible refine Law.set_freeCtr _ (by decide) ?_ | (dsimp +zetaDelta only [id]))

theorem execSidebandAttest_law (nonce : List Byte) (s : State) :
    OutLaw [.freeCtr, .tally, .log, .sent] s (execSidebandAttest nonce s) := by
  unfold execSidebandAttest
  repeat' (first
    | with_reducible refine OutLaw.next ?_ | extract_lets | with_reducible exact Law.refl _ _ | with_reducible assumption
    | with_reducible apply Law.step (send_law _ _ _ _) | with_reducible apply Law.step (logRec_law _ _ _ _ _ _ _)
    | with_reducible apply Law.step (attestation_law _ _) | with_reducible refine Law.foldl _ _ _ ?_ ?_
    | (show (_ : List Part) ⊆ _; decide) | (show (_ : List Part) ⊆ _; decide) | (intro _) | split | (dsimp +zetaDelta only [id]))

end Sys2Proof.Machine
end

