-- ==== Sys2Proof/Laws/Vector.lean ====
section
/-! SUPPORT. What each operation of Machine/Vector.lean may touch, one lemma for each, and that it keeps memory in its canonical form. -/

set_option maxRecDepth 4000
set_option linter.all false

namespace Sys2Proof.Machine

theorem issueVector_law (opc : Nat) (g : Nat) (st : Nat) (s : State) :
    Law [.host, .cores, .ctxs, .hst, .tally, .log, .sent] s (issueVector opc g st s) := by
  unfold issueVector
  repeat' (first
    | extract_lets | with_reducible exact Law.refl _ _ | with_reducible assumption
    | with_reducible apply Law.step (strFault_law _ _ _ _ _ _ _ _) | with_reducible apply front_law
    | with_reducible apply Law.step (updStrm_law _ _ _ _) | with_reducible apply Law.step (issued_law _ _ _)
    | with_reducible refine Law.foldl _ _ _ ?_ ?_ | (show (_ : List Part) ⊆ _; decide) | (show (_ : List Part) ⊆ _; decide) | (intro _)
    | split | (dsimp +zetaDelta only [id]))

theorem execVew_law (g : Core) (st : Str) (s : State) :
    OutLaw [.host, .cores, .ctxs, .hst, .tally, .log, .sent] s (execVew g st s) := by
  unfold execVew
  repeat' (first
    | with_reducible refine OutLaw.next ?_ | extract_lets | with_reducible exact Law.refl _ _ | with_reducible assumption
    | with_reducible apply Law.step (issueVector_law _ _ _ _) | with_reducible refine Law.foldl _ _ _ ?_ ?_
    | (show (_ : List Part) ⊆ _; decide) | (show (_ : List Part) ⊆ _; decide) | (intro _) | split | (dsimp +zetaDelta only [id]))

theorem execVfma_law (g : Core) (st : Str) (s : State) :
    OutLaw [.host, .cores, .ctxs, .hst, .tally, .log, .sent] s (execVfma g st s) := by
  unfold execVfma
  repeat' (first
    | with_reducible refine OutLaw.next ?_ | extract_lets | with_reducible exact Law.refl _ _ | with_reducible assumption
    | with_reducible apply Law.step (issueVector_law _ _ _ _) | with_reducible refine Law.foldl _ _ _ ?_ ?_
    | (show (_ : List Part) ⊆ _; decide) | (show (_ : List Part) ⊆ _; decide) | (intro _) | split | (dsimp +zetaDelta only [id]))

theorem execVun_law (g : Core) (st : Str) (s : State) :
    OutLaw [.host, .cores, .ctxs, .hst, .tally, .log, .sent] s (execVun g st s) := by
  unfold execVun
  repeat' (first
    | with_reducible refine OutLaw.next ?_ | extract_lets | with_reducible exact Law.refl _ _ | with_reducible assumption
    | with_reducible apply Law.step (issueVector_law _ _ _ _) | with_reducible refine Law.foldl _ _ _ ?_ ?_
    | (show (_ : List Part) ⊆ _; decide) | (show (_ : List Part) ⊆ _; decide) | (intro _) | split | (dsimp +zetaDelta only [id]))

theorem execVred_law (g : Core) (st : Str) (s : State) :
    OutLaw [.host, .cores, .ctxs, .hst, .tally, .log, .sent] s (execVred g st s) := by
  unfold execVred
  repeat' (first
    | with_reducible refine OutLaw.next ?_ | extract_lets | with_reducible exact Law.refl _ _ | with_reducible assumption
    | with_reducible apply Law.step (issueVector_law _ _ _ _) | with_reducible refine Law.foldl _ _ _ ?_ ?_
    | (show (_ : List Part) ⊆ _; decide) | (show (_ : List Part) ⊆ _; decide) | (intro _) | split | (dsimp +zetaDelta only [id]))

theorem execVcvt_law (g : Core) (st : Str) (s : State) :
    OutLaw [.host, .cores, .ctxs, .hst, .tally, .log, .sent] s (execVcvt g st s) := by
  unfold execVcvt
  repeat' (first
    | with_reducible refine OutLaw.next ?_ | extract_lets | with_reducible exact Law.refl _ _ | with_reducible assumption
    | with_reducible apply Law.step (issueVector_law _ _ _ _) | with_reducible refine Law.foldl _ _ _ ?_ ?_
    | (show (_ : List Part) ⊆ _; decide) | (show (_ : List Part) ⊆ _; decide) | (intro _) | split | (dsimp +zetaDelta only [id]))

theorem execVmm_law (g : Core) (st : Str) (s : State) :
    OutLaw [.host, .cores, .ctxs, .hst, .tally, .log, .sent] s (execVmm g st s) := by
  unfold execVmm
  repeat' (first
    | with_reducible refine OutLaw.next ?_ | extract_lets | with_reducible exact Law.refl _ _ | with_reducible assumption
    | with_reducible apply Law.step (issueVector_law _ _ _ _) | with_reducible refine Law.foldl _ _ _ ?_ ?_
    | (show (_ : List Part) ⊆ _; decide) | (show (_ : List Part) ⊆ _; decide) | (intro _) | split | (dsimp +zetaDelta only [id]))

theorem writeResults_law (s : State) (op : LongOp) (g : Nat) (i : VIns) (n : Nat) :
    Law [.freeCtr, .mem, .host, .cores, .clus, .ddr, .tally, .ckpt] s (writeResults s op g i n).1 := by
  unfold writeResults
  extract_lets n' vs
  generalize (chunks i.d.n vs).zipIdx = l
  have : ∀ (l : List (List (Val × Rnd × BitVec 6) × Nat)) (acc : State × List (BitVec 6)), Law [.freeCtr, .mem, .host, .cores, .clus, .ddr, .tally, .ckpt] s acc.1 →
      Law [.freeCtr, .mem, .host, .cores, .clus, .ddr, .tally, .ckpt] s (l.foldl (fun (acc : State × List (BitVec 6)) p =>
    let w := writeRow i.d.fmt (p.1.map fun x => (x.1, x.2.1))
    (store (sramKey g (i.d.base.toNat + p.2 * rowBytes i.d.fmt i.d.n)) w.1 acc.1,
      acc.2 ++ (p.1.zip w.2).map fun x => x.1.2.2 ||| x.2)) acc).1 := by
    intro l
    induction l with
    | nil => exact fun acc h => h
    | cons p l ih => exact fun acc h => ih _ (Law.step (store_law _ _ _) (by decide) h)
  exact this l (s, []) (Law.refl _ s)

theorem countFlags_law (g : Nat) (fs : List (BitVec 6)) (s : State) :
    Law [.tally] s (countFlags g fs s) := by
  unfold countFlags
  repeat' (first
    | extract_lets | with_reducible exact Law.refl _ _ | with_reducible assumption
    | with_reducible apply Law.step (countCoreN_law _ _ _ _ _) | with_reducible refine Law.foldl _ _ _ ?_ ?_
    | (show (_ : List Part) ⊆ _; decide) | (show (_ : List Part) ⊆ _; decide) | (intro _) | split | (dsimp +zetaDelta only [id]))

theorem execVectorComplete_law (g : Core) (ecc : Ecc) (s : State) :
    OutLaw [.freeCtr, .mem, .host, .cores, .clus, .ctxs, .ddr, .hst, .idb, .rst, .tally, .log, .fab, .link, .stew, .ckpt, .boot, .pins, .side, .sent] s (execVectorComplete g ecc s) := by
  unfold execVectorComplete
  repeat' (first
    | with_reducible refine OutLaw.next ?_ | extract_lets | with_reducible exact Law.refl _ _ | with_reducible assumption
    | with_reducible apply Law.step (eccDouble_law _ _) | with_reducible apply Law.step (applyEcc_law _ _ _)
    | with_reducible apply Law.step (execFault_law _ _ _ _ _ _) | with_reducible apply Law.step (updStrm_law _ _ _ _)
    | with_reducible apply Law.step (writeResults_law _ _ _ _ _) | with_reducible apply Law.step (countFlags_law _ _ _)
    | with_reducible refine Law.foldl _ _ _ ?_ ?_ | (show (_ : List Part) ⊆ _; decide) | (show (_ : List Part) ⊆ _; decide) | (intro _)
    | split | (dsimp +zetaDelta only [id]))

end Sys2Proof.Machine
end

