-- ==== Sys2Proof/Laws/Tally.lean ====
section
/-! SUPPORT. What each operation of Machine/Tally.lean may touch, one lemma for each, and that it keeps memory in its canonical form. -/

set_option maxRecDepth 4000
set_option linter.all false

namespace Sys2Proof.Machine

theorem onTally_law (f : TallySt → TallySt) (s : State) :
    Law [.tally] s (onTally f s) := by
  unfold onTally
  repeat' (first
    | extract_lets | with_reducible exact Law.refl _ _ | with_reducible assumption | with_reducible refine Law.foldl _ _ _ ?_ ?_
    | (show (_ : List Part) ⊆ _; decide) | (show (_ : List Part) ⊆ _; decide) | (intro _) | split
    | with_reducible refine Law.set_tally _ (by decide) ?_ | (dsimp +zetaDelta only [id]))

theorem setCounter_law (off : Nat) (c : Counter) (s : State) :
    Law [.tally] s (setCounter off c s) := by
  unfold setCounter
  repeat' (first
    | extract_lets | with_reducible exact Law.refl _ _ | with_reducible assumption | with_reducible apply Law.step (onTally_law _ _)
    | with_reducible refine Law.foldl _ _ _ ?_ ?_ | (show (_ : List Part) ⊆ _; decide) | (show (_ : List Part) ⊆ _; decide) | (intro _)
    | split | (dsimp +zetaDelta only [id]))

theorem countCycles_law (s : State) :
    Law [.tally] s (countCycles s) := by
  unfold countCycles
  repeat' (first
    | extract_lets | with_reducible exact Law.refl _ _ | with_reducible assumption | with_reducible apply Law.step (onTally_law _ _)
    | with_reducible refine Law.foldl _ _ _ ?_ ?_ | (show (_ : List Part) ⊆ _; decide) | (show (_ : List Part) ⊆ _; decide) | (intro _)
    | split | (dsimp +zetaDelta only [id]))

theorem execCounterCfgWrite_law (off : Nat) (v : Word) (s : State) :
    OutLaw [.tally, .log] s (execCounterCfgWrite off v s) := by
  unfold execCounterCfgWrite
  repeat' (first
    | with_reducible refine OutLaw.next ?_ | extract_lets | with_reducible exact Law.refl _ _ | with_reducible assumption
    | with_reducible apply Law.step (heldWrite_law _ _ _) | with_reducible apply Law.step (setCounter_law _ _ _)
    | with_reducible refine Law.foldl _ _ _ ?_ ?_ | (show (_ : List Part) ⊆ _; decide) | (show (_ : List Part) ⊆ _; decide) | (intro _)
    | split | (dsimp +zetaDelta only [id]))

theorem execCounterWrap_law (off : Nat) (s : State) :
    OutLaw [.tally] s (execCounterWrap off s) := by
  unfold execCounterWrap
  repeat' (first
    | with_reducible refine OutLaw.next ?_ | extract_lets | with_reducible exact Law.refl _ _ | with_reducible assumption
    | with_reducible apply Law.step (setCounter_law _ _ _) | with_reducible refine Law.foldl _ _ _ ?_ ?_
    | (show (_ : List Part) ⊆ _; decide) | (show (_ : List Part) ⊆ _; decide) | (intro _) | split | (dsimp +zetaDelta only [id]))

theorem snapshotAll_law (s : State) :
    Law [.tally] s (snapshotAll s) := by
  unfold snapshotAll
  repeat' (first
    | extract_lets | with_reducible exact Law.refl _ _ | with_reducible assumption | with_reducible apply Law.step (onTally_law _ _)
    | with_reducible refine Law.foldl _ _ _ ?_ ?_ | (show (_ : List Part) ⊆ _; decide) | (show (_ : List Part) ⊆ _; decide) | (intro _)
    | split | (dsimp +zetaDelta only [id]))

theorem execSnapshotCmd_law (v : Word) (s : State) :
    OutLaw [.tally, .log] s (execSnapshotCmd v s) := by
  unfold execSnapshotCmd
  repeat' (first
    | with_reducible refine OutLaw.next ?_ | extract_lets | with_reducible exact Law.refl _ _ | with_reducible assumption
    | with_reducible apply Law.step (heldWrite_law _ _ _) | with_reducible apply Law.step (snapshotAll_law _)
    | with_reducible refine Law.foldl _ _ _ ?_ ?_ | (show (_ : List Part) ⊆ _; decide) | (show (_ : List Part) ⊆ _; decide) | (intro _)
    | split | (dsimp +zetaDelta only [id]))

theorem execPeriodicSnapshot_law (s : State) :
    OutLaw [.tally] s (execPeriodicSnapshot s) := by
  unfold execPeriodicSnapshot
  repeat' (first
    | with_reducible refine OutLaw.next ?_ | extract_lets | with_reducible exact Law.refl _ _ | with_reducible assumption
    | with_reducible apply Law.step (onTally_law _ _) | with_reducible apply Law.step (snapshotAll_law _)
    | with_reducible refine Law.foldl _ _ _ ?_ ?_ | (show (_ : List Part) ⊆ _; decide) | (show (_ : List Part) ⊆ _; decide) | (intro _)
    | split | (dsimp +zetaDelta only [id]))

theorem sampDrop_law (why : Nat) (s : State) :
    Law [.tally, .log] s (sampDrop why s) := by
  unfold sampDrop
  repeat' (first
    | extract_lets | with_reducible exact Law.refl _ _ | with_reducible assumption | with_reducible apply Law.step (countHub_law _ _ _ _)
    | with_reducible apply Law.step (logRate_law _ _ _ _ _ _ _ _ _) | with_reducible apply Law.step (onTally_law _ _)
    | with_reducible refine Law.foldl _ _ _ ?_ ?_ | (show (_ : List Part) ⊆ _; decide) | (show (_ : List Part) ⊆ _; decide) | (intro _)
    | split | (dsimp +zetaDelta only [id]))

theorem execSampleTag_law (g : Core) (st : Str) (s : State) :
    OutLaw [.cores, .tally, .log] s (execSampleTag g st s) := by
  unfold execSampleTag
  repeat' (first
    | with_reducible refine OutLaw.next ?_ | extract_lets | with_reducible exact Law.refl _ _ | with_reducible assumption
    | with_reducible apply Law.step (updCore_law _ _ _) | with_reducible apply Law.step (countCore_law _ _ _ _)
    | with_reducible apply Law.step (sampDrop_law _ _) | with_reducible refine Law.foldl _ _ _ ?_ ?_ | (show (_ : List Part) ⊆ _; decide)
    | (show (_ : List Part) ⊆ _; decide) | (intro _) | split | (dsimp +zetaDelta only [id]))

theorem queueSample_law (s : State) (g : Nat) :
    Law [.freeCtr, .cores, .tally, .log] s (queueSample s g) := by
  unfold queueSample
  repeat' (first
    | extract_lets | with_reducible exact Law.refl _ _ | with_reducible assumption | with_reducible apply Law.step (updCore_law _ _ _)
    | with_reducible apply Law.step (onTally_law _ _) | with_reducible apply Law.step (sampDrop_law _ _)
    | with_reducible refine Law.foldl _ _ _ ?_ ?_ | (show (_ : List Part) ⊆ _; decide) | (show (_ : List Part) ⊆ _; decide) | (intro _)
    | split | with_reducible refine Law.set_freeCtr _ (by decide) ?_ | (dsimp +zetaDelta only [id]))

theorem writeSample_law (s : State) :
    Law [.freeCtr, .mem, .host, .cores, .clus, .ddr, .tally, .log, .ckpt] s (writeSample s) := by
  unfold writeSample
  repeat' (first
    | extract_lets | with_reducible exact Law.refl _ _ | with_reducible assumption | with_reducible apply Law.step (store_law _ _ _)
    | with_reducible apply Law.step (countHub_law _ _ _ _) | with_reducible apply Law.step (onTally_law _ _)
    | with_reducible apply Law.step (sampDrop_law _ _) | with_reducible refine Law.foldl _ _ _ ?_ ?_ | (show (_ : List Part) ⊆ _; decide)
    | (show (_ : List Part) ⊆ _; decide) | (intro _) | split | (dsimp +zetaDelta only [id]))

theorem execSampleRecordWrite_law (s : State) :
    OutLaw [.freeCtr, .mem, .host, .cores, .clus, .ddr, .tally, .log, .ckpt] s (execSampleRecordWrite s) := by
  unfold execSampleRecordWrite
  repeat' (first
    | with_reducible refine OutLaw.next ?_ | extract_lets | with_reducible exact Law.refl _ _ | with_reducible assumption
    | with_reducible apply Law.step (queueSample_law _ _) | with_reducible apply Law.step (writeSample_law _)
    | with_reducible refine Law.foldl _ _ _ ?_ ?_ | (show (_ : List Part) ⊆ _; decide) | (show (_ : List Part) ⊆ _; decide) | (intro _)
    | split | (dsimp +zetaDelta only [id]))

theorem seedCore_law (s : State) (g : Nat) :
    Law [.cores] s (seedCore s g) := by
  unfold seedCore
  repeat' (first
    | extract_lets | with_reducible exact Law.refl _ _ | with_reducible assumption | with_reducible apply Law.step (updCore_law _ _ _)
    | with_reducible refine Law.foldl _ _ _ ?_ ?_ | (show (_ : List Part) ⊆ _; decide) | (show (_ : List Part) ⊆ _; decide) | (intro _)
    | split | (dsimp +zetaDelta only [id]))

theorem sampEnable_law (v : Word) (s : State) :
    Law [.cores, .tally, .log] s (sampEnable v s) := by
  unfold sampEnable
  repeat' (first
    | extract_lets | with_reducible exact Law.refl _ _ | with_reducible assumption
    | with_reducible apply Law.step (logRec_law _ _ _ _ _ _ _) | with_reducible apply Law.step (onTally_law _ _)
    | with_reducible apply Law.step (seedCore_law _ _) | with_reducible refine Law.foldl _ _ _ ?_ ?_ | (show (_ : List Part) ⊆ _; decide)
    | (show (_ : List Part) ⊆ _; decide) | (intro _) | split | (dsimp +zetaDelta only [id]))

theorem sampDiscard_law (off : Nat) (v : Word) (s : State) :
    Law [.tally, .log] s (sampDiscard off v s) := by
  unfold sampDiscard
  repeat' (first
    | extract_lets | with_reducible exact Law.refl _ _ | with_reducible assumption
    | with_reducible apply Law.step (logRec_law _ _ _ _ _ _ _) | with_reducible refine Law.foldl _ _ _ ?_ ?_
    | (show (_ : List Part) ⊆ _; decide) | (show (_ : List Part) ⊆ _; decide) | (intro _) | split | (dsimp +zetaDelta only [id]))

theorem sampFieldsWrite_law (v : Word) (s : State) :
    Law [.tally, .log] s (sampFieldsWrite v s) := by
  unfold sampFieldsWrite
  repeat' (first
    | extract_lets | with_reducible exact Law.refl _ _ | with_reducible assumption | with_reducible apply Law.step (onTally_law _ _)
    | with_reducible apply Law.step (sampDiscard_law _ _ _) | with_reducible refine Law.foldl _ _ _ ?_ ?_
    | (show (_ : List Part) ⊆ _; decide) | (show (_ : List Part) ⊆ _; decide) | (intro _) | split | (dsimp +zetaDelta only [id]))

theorem execSamplingEnable_law (v : Word) (s : State) :
    OutLaw [.cores, .tally, .log] s (execSamplingEnable v s) := by
  unfold execSamplingEnable
  repeat' (first
    | with_reducible refine OutLaw.next ?_ | extract_lets | with_reducible exact Law.refl _ _ | with_reducible assumption
    | with_reducible apply Law.step (heldWrite_law _ _ _) | with_reducible apply Law.step (onTally_law _ _)
    | with_reducible apply Law.step (sampEnable_law _ _) | with_reducible apply Law.step (sampFieldsWrite_law _ _)
    | with_reducible refine Law.foldl _ _ _ ?_ ?_ | (show (_ : List Part) ⊆ _; decide) | (show (_ : List Part) ⊆ _; decide) | (intro _)
    | split | (dsimp +zetaDelta only [id]))

theorem execSamplingDisable_law (v : Word) (s : State) :
    OutLaw [.tally, .log] s (execSamplingDisable v s) := by
  unfold execSamplingDisable
  repeat' (first
    | with_reducible refine OutLaw.next ?_ | extract_lets | with_reducible exact Law.refl _ _ | with_reducible assumption
    | with_reducible apply Law.step (heldWrite_law _ _ _) | with_reducible apply Law.step (onTally_law _ _)
    | with_reducible apply Law.step (sampFieldsWrite_law _ _) | with_reducible refine Law.foldl _ _ _ ?_ ?_
    | (show (_ : List Part) ⊆ _; decide) | (show (_ : List Part) ⊆ _; decide) | (intro _) | split | (dsimp +zetaDelta only [id]))

theorem execSamplingDrainEnd_law (s : State) :
    OutLaw [.cores, .tally, .log] s (execSamplingDrainEnd s) := by
  unfold execSamplingDrainEnd
  repeat' (first
    | with_reducible refine OutLaw.next ?_ | extract_lets | with_reducible exact Law.refl _ _ | with_reducible assumption
    | with_reducible apply Law.step (onTally_law _ _) | with_reducible apply Law.step (sampEnable_law _ _)
    | with_reducible refine Law.foldl _ _ _ ?_ ?_ | (show (_ : List Part) ⊆ _; decide) | (show (_ : List Part) ⊆ _; decide) | (intro _)
    | split | (dsimp +zetaDelta only [id]))

theorem putLog_law (x : LogRec) (s : State) :
    Law [.freeCtr, .mem, .host, .cores, .clus, .ddr, .tally, .log, .ckpt] s (putLog x s) := by
  unfold putLog
  repeat' (first
    | extract_lets | with_reducible exact Law.refl _ _ | with_reducible assumption | with_reducible apply Law.step (store_law _ _ _)
    | with_reducible apply Law.step (countHub_law _ _ _ _) | with_reducible refine Law.foldl _ _ _ ?_ ?_
    | (show (_ : List Part) ⊆ _; decide) | (show (_ : List Part) ⊆ _; decide) | (intro _) | split
    | with_reducible refine Law.set_log _ (by decide) ?_ | (dsimp +zetaDelta only [id]))

theorem noteLost_law (s : State) :
    Law [.tally, .log] s (noteLost s) := by
  unfold noteLost
  repeat' (first
    | extract_lets | with_reducible exact Law.refl _ _ | with_reducible assumption
    | with_reducible apply Law.step (logRec_law _ _ _ _ _ _ _) | with_reducible refine Law.foldl _ _ _ ?_ ?_
    | (show (_ : List Part) ⊆ _; decide) | (show (_ : List Part) ⊆ _; decide) | (intro _) | split
    | with_reducible refine Law.set_log _ (by decide) ?_ | (dsimp +zetaDelta only [id]))

theorem execLogbookRecord_law (s : State) :
    OutLaw [.freeCtr, .mem, .host, .cores, .clus, .ddr, .tally, .log, .ckpt] s (execLogbookRecord s) := by
  unfold execLogbookRecord
  repeat' (first
    | with_reducible refine OutLaw.next ?_ | extract_lets | with_reducible exact Law.refl _ _ | with_reducible assumption
    | with_reducible apply Law.step (putLog_law _ _) | with_reducible apply Law.step (noteLost_law _)
    | with_reducible refine Law.foldl _ _ _ ?_ ?_ | (show (_ : List Part) ⊆ _; decide) | (show (_ : List Part) ⊆ _; decide) | (intro _)
    | split | with_reducible refine Law.set_log _ (by decide) ?_ | (dsimp +zetaDelta only [id]))

end Sys2Proof.Machine
end

