-- ==== Sys2Proof/Laws/Registers.lean ====
section
/-! SUPPORT. What each operation of Machine/Registers.lean may touch, one lemma for each, and that it keeps memory in its canonical form. -/

set_option maxRecDepth 4000
set_option linter.all false

namespace Sys2Proof.Machine

theorem refuseReq_law (write : Bool) (off : Nat) (lenDw : Nat) (be : BitVec 4) (cause : Nat) (s : State) :
    Law [.hst, .idb, .tally, .log, .sent] s (refuseReq write off lenDw be cause s) := by
  unfold refuseReq
  repeat' (first
    | extract_lets | with_reducible exact Law.refl _ _ | with_reducible assumption | with_reducible apply Law.step (send_law _ _ _ _)
    | with_reducible apply Law.step (countHub_law _ _ _ _) | with_reducible apply Law.step (logRate_law _ _ _ _ _ _ _ _ _)
    | with_reducible apply Law.step (aer_law _ _) | with_reducible refine Law.foldl _ _ _ ?_ ?_ | (show (_ : List Part) ⊆ _; decide)
    | (show (_ : List Part) ⊆ _; decide) | (intro _) | split | with_reducible refine Law.set_idb _ (by decide) ?_
    | (dsimp +zetaDelta only [id]))

theorem readEffect_law (off : Nat) (s : State) :
    Law [.cores, .clus, .idb, .time] s (readEffect off s) := by
  unfold readEffect
  repeat' (first
    | extract_lets | with_reducible exact Law.refl _ _ | with_reducible assumption | with_reducible apply Law.step (updCore_law _ _ _)
    | with_reducible apply Law.step (updClu_law _ _ _) | with_reducible apply Law.step (onTime_law _ _)
    | with_reducible refine Law.foldl _ _ _ ?_ ?_ | (show (_ : List Part) ⊆ _; decide) | (show (_ : List Part) ⊆ _; decide) | (intro _)
    | split | with_reducible refine Law.set_idb _ (by decide) ?_ | (dsimp +zetaDelta only [id]))

theorem serveRead_law (off : Nat) (lenDw : Nat) (s : State) :
    Law [.cores, .clus, .idb, .tally, .time, .sent] s (serveRead off lenDw s) := by
  unfold serveRead
  repeat' (first
    | extract_lets | with_reducible exact Law.refl _ _ | with_reducible assumption | with_reducible apply Law.step (send_law _ _ _ _)
    | with_reducible apply Law.step (countHub_law _ _ _ _) | with_reducible apply Law.step (readEffect_law _ _)
    | with_reducible refine Law.foldl _ _ _ ?_ ?_ | (show (_ : List Part) ⊆ _; decide) | (show (_ : List Part) ⊆ _; decide) | (intro _)
    | split | (dsimp +zetaDelta only [id]))

theorem bar0Read_law (off : Nat) (lenDw : Nat) (be : BitVec 4) (s : State) :
    Law [.cores, .clus, .hst, .idb, .tally, .log, .time, .sent] s (bar0Read off lenDw be s) := by
  unfold bar0Read
  repeat' (first
    | extract_lets | with_reducible exact Law.refl _ _ | with_reducible assumption
    | with_reducible apply Law.step (refuseReq_law _ _ _ _ _ _) | with_reducible apply Law.step (serveRead_law _ _ _)
    | with_reducible apply onBar_law | with_reducible refine Law.foldl _ _ _ ?_ ?_ | (show (_ : List Part) ⊆ _; decide)
    | (show (_ : List Part) ⊆ _; decide) | (intro _) | split | (dsimp +zetaDelta only [id]))

theorem execRcRead_law (q : ReadReq) (s : State) :
    OutLaw [.cores, .clus, .hst, .idb, .tally, .log, .time, .sent] s (execRcRead q s) := by
  unfold execRcRead
  repeat' (first
    | with_reducible refine OutLaw.next ?_ | extract_lets | with_reducible exact Law.refl _ _ | with_reducible assumption
    | with_reducible apply Law.step (send_law _ _ _ _) | with_reducible apply Law.step (bar0Read_law _ _ _ _)
    | with_reducible apply onBar_law | with_reducible refine Law.foldl _ _ _ ?_ ?_ | (show (_ : List Part) ⊆ _; decide)
    | (show (_ : List Part) ⊆ _; decide) | (intro _) | split | (dsimp +zetaDelta only [id]))

theorem execBar0ReadRefused_law (off : Nat) (lenDw : Nat) (be : BitVec 4) (s : State) :
    OutLaw [.cores, .clus, .hst, .idb, .tally, .log, .time, .sent] s (execBar0ReadRefused off lenDw be s) := by
  unfold execBar0ReadRefused
  repeat' (first
    | with_reducible refine OutLaw.next ?_ | extract_lets | with_reducible exact Law.refl _ _ | with_reducible assumption
    | with_reducible apply Law.step (bar0Read_law _ _ _ _) | with_reducible refine Law.foldl _ _ _ ?_ ?_
    | (show (_ : List Part) ⊆ _; decide) | (show (_ : List Part) ⊆ _; decide) | (intro _) | split | (dsimp +zetaDelta only [id]))

theorem pwAccept_law (off : Nat) (mask : Word) (v : Word) (s : State) :
    Law [.cores, .idb, .tally, .log] s (pwAccept off mask v s) := by
  unfold pwAccept
  repeat' (first
    | extract_lets | with_reducible exact Law.refl _ _ | with_reducible assumption
    | with_reducible apply Law.step (logRec_law _ _ _ _ _ _ _) | with_reducible apply Law.step (notManual_law _ _ _)
    | with_reducible refine Law.foldl _ _ _ ?_ ?_ | (show (_ : List Part) ⊆ _; decide) | (show (_ : List Part) ⊆ _; decide) | (intro _)
    | split | with_reducible refine Law.set_idb _ (by decide) ?_ | (dsimp +zetaDelta only [id]))

theorem timeCfg_law (v : Word) (s : State) :
    Law [.tally, .log, .time] s (timeCfg v s) := by
  unfold timeCfg
  repeat' (first
    | extract_lets | with_reducible exact Law.refl _ _ | with_reducible assumption | with_reducible apply Law.step (onTime_law _ _)
    | with_reducible apply Law.step (reselect_law _) | with_reducible apply Law.step (loseSource_law _)
    | with_reducible apply Law.step (manualOn_law _) | with_reducible apply Law.step (manualOff_law _)
    | with_reducible refine Law.foldl _ _ _ ?_ ?_ | (show (_ : List Part) ⊆ _; decide) | (show (_ : List Part) ⊆ _; decide) | (intro _)
    | split | (dsimp +zetaDelta only [id]))

theorem timeEffect_law (o : Nat) (v : Word) (s : State) :
    Law [.host, .hst, .tally, .log, .time, .sent] s (timeEffect o v s) := by
  unfold timeEffect
  repeat' (first
    | extract_lets | with_reducible exact Law.refl _ _ | with_reducible assumption | with_reducible apply after_law
    | with_reducible apply Law.step (timeCfg_law _ _) | with_reducible apply Law.step (onTime_law _ _)
    | with_reducible apply Law.step (setTod_law _ _ _) | with_reducible apply OutLaw.step (execTimeStepGo_law _)
    | with_reducible apply OutLaw.step (execTodEnable_law _ _) | with_reducible apply OutLaw.step (execTodDisable_law _ _)
    | with_reducible refine Law.foldl _ _ _ ?_ ?_ | (show (_ : List Part) ⊆ _; decide) | (show (_ : List Part) ⊆ _; decide) | (intro _)
    | split | (dsimp +zetaDelta only [id]))

theorem ethCtl_law (p : Nat) (v : Word) (s : State) :
    Law [.tally, .log, .eth] s (ethCtl p v s) := by
  unfold ethCtl
  repeat' (first
    | extract_lets | with_reducible exact Law.refl _ _ | with_reducible assumption | with_reducible apply Law.step (setEth_law _ _ _)
    | with_reducible apply Law.step (ethEnable_law _ _) | with_reducible apply Law.step (ethDisable_law _ _)
    | with_reducible refine Law.foldl _ _ _ ?_ ?_ | (show (_ : List Part) ⊆ _; decide) | (show (_ : List Part) ⊆ _; decide) | (intro _)
    | split | (dsimp +zetaDelta only [id]))

theorem fabEffect_law (p : Nat) (o : Nat) (v : Word) (s : State) :
    Law [.tally, .log, .fab, .sent] s (fabEffect p o v s) := by
  unfold fabEffect
  repeat' (first
    | extract_lets | with_reducible exact Law.refl _ _ | with_reducible assumption | with_reducible apply Law.step (combGo_law _ _)
    | with_reducible apply Law.step (retrainBit_law _ _ _) | with_reducible apply Law.step (updFab_law _ _ _)
    | with_reducible refine Law.foldl _ _ _ ?_ ?_ | (show (_ : List Part) ⊆ _; decide) | (show (_ : List Part) ⊆ _; decide) | (intro _)
    | split | (dsimp +zetaDelta only [id]))

theorem pwEffect_law (off : Nat) (v : Word) (s : State) :
    Law [.host, .hst, .tally, .log, .fab, .ckpt, .time, .pwr, .pins, .eth, .sent] s (pwEffect off v s) := by
  unfold pwEffect
  repeat' (first
    | extract_lets | with_reducible exact Law.refl _ _ | with_reducible assumption | with_reducible apply Law.step (onCkpt_law _ _)
    | with_reducible apply Law.step (onPins_law _ _) | with_reducible apply Law.step (onPwr_law _ _)
    | with_reducible apply Law.step (timeEffect_law _ _ _) | with_reducible apply Law.step (ethCtl_law _ _ _)
    | with_reducible apply Law.step (fabEffect_law _ _ _ _) | with_reducible refine Law.foldl _ _ _ ?_ ?_
    | (show (_ : List Part) ⊆ _; decide) | (show (_ : List Part) ⊆ _; decide) | (intro _) | split | (dsimp +zetaDelta only [id]))

theorem takePw_law (off : Nat) (s : State) (w : PwWrite) (t : State) (h : takePw off s = some (w, t)) : Law [.idb] s t := by
  unfold takePw at h
  split at h
  · injection h with h
    injection h with _ h
    subst h
    exact Law.set_idb _ (by decide) (Law.refl _ _)
  · cases h

theorem execPwWriteEffect_law (off : Nat) (s : State) : OutLaw [.mem, .host, .hst, .idb, .tally, .log, .fab, .ckpt, .time, .pwr, .pins, .eth, .sent] s (execPwWriteEffect off s) := by
  unfold execPwWriteEffect
  split
  · rename_i w t h
    have h := Law.mono (L := [.mem, .host, .hst, .idb, .tally, .log, .fab, .ckpt, .time, .pwr, .pins, .eth, .sent]) (takePw_law off s w t h) (by decide)
    split
    · exact OutLaw.next h
    · exact OutLaw.next (Law.step (pwEffect_law _ _ _) (by decide) h)
  · exact OutLaw.next (Law.refl _ _)

theorem execPwWriteDrop_law (off : Nat) (s : State) : OutLaw [.idb, .tally, .log] s (execPwWriteDrop off s) := by
  unfold execPwWriteDrop
  split
  · rename_i w t h
    have ht : Law [.idb, .tally, .log] s t := Law.mono (takePw_law off s w t h) (by decide)
    extract_lets _ u
    have hu : Law [.idb, .tally, .log] s u := by
      show Law _ _ (if _ then _ else _)
      split
      · exact Law.set_idb _ (by decide) ht
      · exact ht
    exact OutLaw.next (Law.step (logRec_law _ _ _ _ _ _ _) (by decide) hu)
  · exact OutLaw.next (Law.refl _ _)

theorem testSet_law (v : Word) (s : State) :
    Law [.idb] s (testSet v s) := by
  unfold testSet
  repeat' (first
    | extract_lets | with_reducible exact Law.refl _ _ | with_reducible assumption | with_reducible refine Law.foldl _ _ _ ?_ ?_
    | (show (_ : List Part) ⊆ _; decide) | (show (_ : List Part) ⊆ _; decide) | (intro _) | split
    | with_reducible refine Law.set_idb _ (by decide) ?_ | (dsimp +zetaDelta only [id]))

theorem execIdTestSet_law (v : Word) (s : State) :
    OutLaw [.idb] s (execIdTestSet v s) := by
  unfold execIdTestSet
  repeat' (first
    | with_reducible refine OutLaw.next ?_ | extract_lets | with_reducible exact Law.refl _ _ | with_reducible assumption
    | with_reducible apply Law.step (testSet_law _ _) | with_reducible refine Law.foldl _ _ _ ?_ ?_ | (show (_ : List Part) ⊆ _; decide)
    | (show (_ : List Part) ⊆ _; decide) | (intro _) | split | (dsimp +zetaDelta only [id]))

theorem testMwWrite_law (v : Word) (s : State) :
    Law [.idb] s (testMwWrite v s) := by
  unfold testMwWrite
  repeat' (first
    | extract_lets | with_reducible exact Law.refl _ _ | with_reducible assumption | with_reducible refine Law.foldl _ _ _ ?_ ?_
    | (show (_ : List Part) ⊆ _; decide) | (show (_ : List Part) ⊆ _; decide) | (intro _) | split
    | with_reducible refine Law.set_idb _ (by decide) ?_ | (dsimp +zetaDelta only [id]))

theorem keeperWrite_law (o : Nat) (v : Word) (s : State) :
    Law [.host, .hst, .tally, .log, .sent] s (keeperWrite o v s) := by
  unfold keeperWrite
  repeat' (first
    | extract_lets | with_reducible exact Law.refl _ _ | with_reducible assumption
    | with_reducible apply OutLaw.step (execProtCommit_law _ _) | with_reducible apply after_law
    | with_reducible refine Law.foldl _ _ _ ?_ ?_ | (show (_ : List Part) ⊆ _; decide) | (show (_ : List Part) ⊆ _; decide) | (intro _)
    | split | with_reducible refine Law.set_hst _ (by decide) ?_ | (dsimp +zetaDelta only [id]))

theorem ringConfig_law (r : Nat) (x : Nat) (v : Word) (s : State) :
    Law [.hst, .tally, .log] s (ringConfig r x v s) := by
  unfold ringConfig
  repeat' (first
    | extract_lets | with_reducible exact Law.refl _ _ | with_reducible assumption | with_reducible apply Law.step (setRing_law _ _ _)
    | with_reducible apply Law.step (logRec_law _ _ _ _ _ _ _) | with_reducible refine Law.foldl _ _ _ ?_ ?_
    | (show (_ : List Part) ⊆ _; decide) | (show (_ : List Part) ⊆ _; decide) | (intro _) | split | (dsimp +zetaDelta only [id]))

theorem ringWrite_law (o : Nat) (v : Word) (s : State) :
    Law [.host, .ctxs, .hst, .tally, .log, .sent] s (ringWrite o v s) := by
  unfold ringWrite
  repeat' (first
    | extract_lets | with_reducible exact Law.refl _ _ | with_reducible assumption | with_reducible apply Law.step (updRing_law _ _ _)
    | with_reducible apply after_law | with_reducible apply Law.step (ringConfig_law _ _ _ _)
    | with_reducible apply OutLaw.step (execRingEnable_law _ _) | with_reducible apply OutLaw.step (execRingDisable_law _ _)
    | with_reducible refine Law.foldl _ _ _ ?_ ?_ | (show (_ : List Part) ⊆ _; decide) | (show (_ : List Part) ⊆ _; decide) | (intro _)
    | split | (dsimp +zetaDelta only [id]))

theorem msixWrite_law (o : Nat) (v : Word) (s : State) :
    Law [.hst, .tally, .sent] s (msixWrite o v s) := by
  unfold msixWrite
  repeat' (first
    | extract_lets | with_reducible exact Law.refl _ _ | with_reducible assumption | with_reducible apply Law.step (flushMsix_law _)
    | with_reducible refine Law.foldl _ _ _ ?_ ?_ | (show (_ : List Part) ⊆ _; decide) | (show (_ : List Part) ⊆ _; decide) | (intro _)
    | split | with_reducible refine Law.set_hst _ (by decide) ?_ | (dsimp +zetaDelta only [id]))

theorem tallyWrite_law (o : Nat) (v : Word) (s : State) :
    Law [.cores, .tally, .log] s (tallyWrite o v s) := by
  unfold tallyWrite
  repeat' (first
    | extract_lets | with_reducible exact Law.refl _ _ | with_reducible assumption | with_reducible apply after_law
    | with_reducible apply Law.step (onTally_law _ _) | with_reducible apply OutLaw.step (execCounterCfgWrite_law _ _ _)
    | with_reducible apply OutLaw.step (execSnapshotCmd_law _ _) | with_reducible apply Law.step (seedCore_law _ _)
    | with_reducible apply Law.step (sampDiscard_law _ _ _) | with_reducible apply OutLaw.step (execSamplingEnable_law _ _)
    | with_reducible apply OutLaw.step (execSamplingDisable_law _ _) | with_reducible refine Law.foldl _ _ _ ?_ ?_
    | (show (_ : List Part) ⊆ _; decide) | (show (_ : List Part) ⊆ _; decide) | (intro _) | split | (dsimp +zetaDelta only [id]))

theorem rstCmd_law (v : Word) (s : State) : Law [.host, .cores, .ctxs, .hst, .rst, .tally, .log, .fab, .link, .stew, .ckpt, .upd, .pins, .side, .sent] s (rstCmd v s) := by
  unfold rstCmd
  extract_lets kind index t
  have ht : Law [.host, .cores, .ctxs, .hst, .rst, .tally, .log, .fab, .link, .stew, .ckpt, .upd, .pins, .side, .sent] s t := by
    show Law _ _ (if _ then _ else _)
    split
    · exact Law.refl _ s
    · exact Law.step (logRec_law _ _ _ _ _ _ _) (by decide) (Law.step (onRst_law _ _) (by decide) (Law.refl _ s))
  clear_value t
  split
  · exact Law.refl _ s
  · split
    · split
      · exact Law.step (logRec_law _ _ _ _ _ _ _) (by decide) (Law.refl _ s)
      · exact Law.step (trigReset_law _ _ _ _) (by decide) ht
    · exact Law.step (trigReset_law _ _ _ _) (by decide) (Law.refl _ s)

theorem rstWrite_law (o : Nat) (v : Word) (s : State) : Law [.host, .cores, .ctxs, .hst, .rst, .tally, .log, .fab, .link, .stew, .ckpt, .upd, .pins, .side, .sent] s (rstWrite o v s) := by
  unfold rstWrite
  split
  · exact Law.step (rstCmd_law _ _) (by decide) (Law.refl _ s)
  · exact after_law _ _ (OutLaw.step (execRstHangCfgWrite_law _ _) (by decide) (Law.refl _ s))
  · exact after_law _ _ (OutLaw.step (execDumpClear_law _ _) (by decide) (Law.refl _ s))
  · exact Law.refl _ s

theorem ptpCfgWrite_law (v : Word) (s : State) :
    Law [.tally, .log, .time] s (ptpCfgWrite v s) := by
  unfold ptpCfgWrite
  repeat' (first
    | extract_lets | with_reducible exact Law.refl _ _ | with_reducible assumption | with_reducible apply Law.step (onTime_law _ _)
    | with_reducible apply Law.step (loseSource_law _) | with_reducible refine Law.foldl _ _ _ ?_ ?_ | (show (_ : List Part) ⊆ _; decide)
    | (show (_ : List Part) ⊆ _; decide) | (intro _) | split | (dsimp +zetaDelta only [id]))

theorem streamWrite_law (g : Nat) (st : Nat) (x : Nat) (v : Word) (s : State) :
    Law [.cores, .ctxs, .tally, .log] s (streamWrite g st x v s) := by
  unfold streamWrite
  repeat' (first
    | extract_lets | with_reducible exact Law.refl _ _ | with_reducible assumption | with_reducible apply Law.step (setStrm_law _ _ _ _)
    | with_reducible apply after_law | with_reducible apply Law.step (logCore_law _ _ _ _ _ _ _)
    | with_reducible apply OutLaw.step (execStart_law _ _ _ _) | with_reducible apply OutLaw.step (execStop_law _ _ _ _)
    | with_reducible refine Law.foldl _ _ _ ?_ ?_ | (show (_ : List Part) ⊆ _; decide) | (show (_ : List Part) ⊆ _; decide) | (intro _)
    | split | (dsimp +zetaDelta only [id]))

theorem coreRegWrite_law (g : Nat) (o : Nat) (v : Word) (s : State) :
    Law [.cores, .ctxs, .tally, .log] s (coreRegWrite g o v s) := by
  unfold coreRegWrite
  repeat' (first
    | extract_lets | with_reducible exact Law.refl _ _ | with_reducible assumption
    | with_reducible apply OutLaw.step (execOteRowSelWrite_law _ _ _ _)
    | with_reducible apply OutLaw.step (execOteChanSelWrite_law _ _ _ _) | with_reducible apply Law.step (updCore_law _ _ _)
    | with_reducible apply after_law | with_reducible apply Law.step (streamWrite_law _ _ _ _ _)
    | with_reducible apply OutLaw.step (execCoreTqCfgWrite_law _ _ _ _) | with_reducible apply OutLaw.step (execTqClear_law _ _ _ _)
    | with_reducible refine Law.foldl _ _ _ ?_ ?_ | (show (_ : List Part) ⊆ _; decide) | (show (_ : List Part) ⊆ _; decide) | (intro _)
    | split | (dsimp +zetaDelta only [id]))

theorem halfWrite_law (off : Nat) (v : Word) (s : State) :
    Law [.freeCtr, .mem, .host, .cores, .clus, .ctxs, .ddr, .hst, .idb, .rst, .tally, .log, .fab, .link, .stew, .ckpt, .boot, .pins, .side, .sent] s (halfWrite off v s) := by
  unfold halfWrite
  repeat' (first
    | extract_lets | with_reducible exact Law.refl _ _ | with_reducible assumption
    | with_reducible apply OutLaw.step (execCluCombGo_law _ _ _) | with_reducible apply OutLaw.step (execCopyListRestart_law _ _ _)
    | with_reducible apply after_law | with_reducible apply Law.step (coreRegWrite_law _ _ _ _)
    | with_reducible apply OutLaw.step (execCounterCfgWrite_law _ _ _) | with_reducible refine Law.foldl _ _ _ ?_ ?_
    | (show (_ : List Part) ⊆ _; decide) | (show (_ : List Part) ⊆ _; decide) | (intro _) | split | (dsimp +zetaDelta only [id]))

theorem writeReg_law (off : Nat) (v : Word) (s : State) :
    Law [.freeCtr, .mem, .host, .cores, .clus, .ctxs, .ddr, .hst, .idb, .rst, .tally, .log, .fab, .link, .steer, .stew, .ckpt, .time, .boot, .pwr, .upd, .pins, .side, .sent] s (writeReg off v s) := by
  unfold writeReg
  repeat' (first
    | extract_lets | with_reducible exact Law.refl _ _ | with_reducible assumption
    | with_reducible apply OutLaw.step (execFabTapSelWrite_law _ _ _) | with_reducible apply after_law
    | with_reducible apply OutLaw.step (execClrExtremes_law _ _) | with_reducible apply Law.step (pwAccept_law _ _ _ _)
    | with_reducible apply Law.step (testSet_law _ _) | with_reducible apply Law.step (testMwWrite_law _ _)
    | with_reducible apply Law.step (keeperWrite_law _ _ _) | with_reducible apply Law.step (ringWrite_law _ _ _)
    | with_reducible apply Law.step (msixWrite_law _ _ _) | with_reducible apply Law.step (tallyWrite_law _ _ _)
    | with_reducible apply Law.step (rstWrite_law _ _ _) | with_reducible apply Law.step (ptpCfgWrite_law _ _)
    | with_reducible apply Law.step (halfWrite_law _ _ _) | with_reducible apply Law.step (heldWrite_law _ _ _)
    | with_reducible apply OutLaw.step (execCounterCfgWrite_law _ _ _) | with_reducible refine Law.foldl _ _ _ ?_ ?_
    | (show (_ : List Part) ⊆ _; decide) | (show (_ : List Part) ⊆ _; decide) | (intro _) | split
    | with_reducible refine Law.set_steer _ (by decide) ?_ | with_reducible refine Law.set_idb _ (by decide) ?_
    | with_reducible refine Law.set_ddr _ (by decide) ?_ | (dsimp +zetaDelta only [id]))

theorem execRegisterWrite_law (off : Nat) (lenDw : Nat) (be : BitVec 4) (v : DWord) (s : State) :
    OutLaw [.freeCtr, .mem, .host, .cores, .clus, .ctxs, .ddr, .hst, .idb, .rst, .tally, .log, .fab, .link, .steer, .stew, .ckpt, .time, .boot, .pwr, .upd, .pins, .side, .sent] s (execRegisterWrite off lenDw be v s) := by
  unfold execRegisterWrite
  repeat' (first
    | with_reducible refine OutLaw.next ?_ | extract_lets | with_reducible exact Law.refl _ _ | with_reducible assumption
    | with_reducible apply Law.step (countHub_law _ _ _ _) | with_reducible apply Law.step (refuseReq_law _ _ _ _ _ _)
    | with_reducible apply Law.step (writeReg_law _ _ _) | with_reducible apply onBar_law | with_reducible refine Law.foldl _ _ _ ?_ ?_
    | (show (_ : List Part) ⊆ _; decide) | (show (_ : List Part) ⊆ _; decide) | (intro _) | split | (dsimp +zetaDelta only [id]))

end Sys2Proof.Machine
end

