-- ==== Sys2Proof/Laws/Frames.lean ====
section
/-! SUPPORT. What the operations that most commands share leave as it was, one lemma per field, so that simp reads a field through them. -/

set_option linter.all false

namespace Sys2Proof.Machine

/-! ### countCore -/

@[simp] theorem countCore_now (g : Nat) (ev : Nat) (qual : Nat) (s : State) : (countCore g ev qual s).now = s.now :=
  (countCore_law ..).1 .now (by decide)
@[simp] theorem countCore_freeCtr (g : Nat) (ev : Nat) (qual : Nat) (s : State) : (countCore g ev qual s).freeCtr = s.freeCtr :=
  (countCore_law ..).1 .freeCtr (by decide)
@[simp] theorem countCore_mem (g : Nat) (ev : Nat) (qual : Nat) (s : State) : (countCore g ev qual s).mem = s.mem := by
  first | rfl | (unfold countCore; (try dsimp only); (repeat' split) <;> (try rfl) <;> simp)
@[simp] theorem countCore_cores (g : Nat) (ev : Nat) (qual : Nat) (s : State) : (countCore g ev qual s).cores = s.cores :=
  (countCore_law ..).1 .cores (by decide)
@[simp] theorem countCore_clus (g : Nat) (ev : Nat) (qual : Nat) (s : State) : (countCore g ev qual s).clus = s.clus :=
  (countCore_law ..).1 .clus (by decide)
@[simp] theorem countCore_ctxs (g : Nat) (ev : Nat) (qual : Nat) (s : State) : (countCore g ev qual s).ctxs = s.ctxs :=
  (countCore_law ..).1 .ctxs (by decide)
@[simp] theorem countCore_transit (g : Nat) (ev : Nat) (qual : Nat) (s : State) : (countCore g ev qual s).transit = s.transit :=
  (countCore_law ..).1 .transit (by decide)
@[simp] theorem countCore_ddr (g : Nat) (ev : Nat) (qual : Nat) (s : State) : (countCore g ev qual s).ddr = s.ddr :=
  (countCore_law ..).1 .ddr (by decide)
@[simp] theorem countCore_hst (g : Nat) (ev : Nat) (qual : Nat) (s : State) : (countCore g ev qual s).hst = s.hst :=
  (countCore_law ..).1 .hst (by decide)
@[simp] theorem countCore_idb (g : Nat) (ev : Nat) (qual : Nat) (s : State) : (countCore g ev qual s).idb = s.idb :=
  (countCore_law ..).1 .idb (by decide)
@[simp] theorem countCore_rst (g : Nat) (ev : Nat) (qual : Nat) (s : State) : (countCore g ev qual s).rst = s.rst :=
  (countCore_law ..).1 .rst (by decide)
@[simp] theorem countCore_log (g : Nat) (ev : Nat) (qual : Nat) (s : State) : (countCore g ev qual s).log = s.log :=
  (countCore_law ..).1 .log (by decide)
@[simp] theorem countCore_fab (g : Nat) (ev : Nat) (qual : Nat) (s : State) : (countCore g ev qual s).fab = s.fab :=
  (countCore_law ..).1 .fab (by decide)
@[simp] theorem countCore_link (g : Nat) (ev : Nat) (qual : Nat) (s : State) : (countCore g ev qual s).link = s.link :=
  (countCore_law ..).1 .link (by decide)
@[simp] theorem countCore_steer (g : Nat) (ev : Nat) (qual : Nat) (s : State) : (countCore g ev qual s).steer = s.steer :=
  (countCore_law ..).1 .steer (by decide)
@[simp] theorem countCore_stew (g : Nat) (ev : Nat) (qual : Nat) (s : State) : (countCore g ev qual s).stew = s.stew :=
  (countCore_law ..).1 .stew (by decide)
@[simp] theorem countCore_ckpt (g : Nat) (ev : Nat) (qual : Nat) (s : State) : (countCore g ev qual s).ckpt = s.ckpt :=
  (countCore_law ..).1 .ckpt (by decide)
@[simp] theorem countCore_time (g : Nat) (ev : Nat) (qual : Nat) (s : State) : (countCore g ev qual s).time = s.time :=
  (countCore_law ..).1 .time (by decide)
@[simp] theorem countCore_boot (g : Nat) (ev : Nat) (qual : Nat) (s : State) : (countCore g ev qual s).boot = s.boot :=
  (countCore_law ..).1 .boot (by decide)
@[simp] theorem countCore_pwr (g : Nat) (ev : Nat) (qual : Nat) (s : State) : (countCore g ev qual s).pwr = s.pwr :=
  (countCore_law ..).1 .pwr (by decide)
@[simp] theorem countCore_upd (g : Nat) (ev : Nat) (qual : Nat) (s : State) : (countCore g ev qual s).upd = s.upd :=
  (countCore_law ..).1 .upd (by decide)
@[simp] theorem countCore_pins (g : Nat) (ev : Nat) (qual : Nat) (s : State) : (countCore g ev qual s).pins = s.pins :=
  (countCore_law ..).1 .pins (by decide)
@[simp] theorem countCore_eth (g : Nat) (ev : Nat) (qual : Nat) (s : State) : (countCore g ev qual s).eth = s.eth :=
  (countCore_law ..).1 .eth (by decide)
@[simp] theorem countCore_side (g : Nat) (ev : Nat) (qual : Nat) (s : State) : (countCore g ev qual s).side = s.side :=
  (countCore_law ..).1 .side (by decide)
@[simp] theorem countCore_sent (g : Nat) (ev : Nat) (qual : Nat) (s : State) : (countCore g ev qual s).sent = s.sent :=
  (countCore_law ..).1 .sent (by decide)
@[simp] theorem countCore_pending (g : Nat) (ev : Nat) (qual : Nat) (s : State) : (countCore g ev qual s).pending = s.pending :=
  (countCore_law ..).1 .pending (by decide)

/-! ### countCoreN -/

@[simp] theorem countCoreN_now (g : Nat) (ev : Nat) (qual : Nat) (n : Nat) (s : State) : (countCoreN g ev qual n s).now = s.now :=
  (countCoreN_law ..).1 .now (by decide)
@[simp] theorem countCoreN_freeCtr (g : Nat) (ev : Nat) (qual : Nat) (n : Nat) (s : State) : (countCoreN g ev qual n s).freeCtr = s.freeCtr :=
  (countCoreN_law ..).1 .freeCtr (by decide)
@[simp] theorem countCoreN_mem (g : Nat) (ev : Nat) (qual : Nat) (n : Nat) (s : State) : (countCoreN g ev qual n s).mem = s.mem := by
  first | rfl | (unfold countCoreN; (try dsimp only); (repeat' split) <;> (try rfl) <;> simp)
@[simp] theorem countCoreN_cores (g : Nat) (ev : Nat) (qual : Nat) (n : Nat) (s : State) : (countCoreN g ev qual n s).cores = s.cores :=
  (countCoreN_law ..).1 .cores (by decide)
@[simp] theorem countCoreN_clus (g : Nat) (ev : Nat) (qual : Nat) (n : Nat) (s : State) : (countCoreN g ev qual n s).clus = s.clus :=
  (countCoreN_law ..).1 .clus (by decide)
@[simp] theorem countCoreN_ctxs (g : Nat) (ev : Nat) (qual : Nat) (n : Nat) (s : State) : (countCoreN g ev qual n s).ctxs = s.ctxs :=
  (countCoreN_law ..).1 .ctxs (by decide)
@[simp] theorem countCoreN_transit (g : Nat) (ev : Nat) (qual : Nat) (n : Nat) (s : State) : (countCoreN g ev qual n s).transit = s.transit :=
  (countCoreN_law ..).1 .transit (by decide)
@[simp] theorem countCoreN_ddr (g : Nat) (ev : Nat) (qual : Nat) (n : Nat) (s : State) : (countCoreN g ev qual n s).ddr = s.ddr :=
  (countCoreN_law ..).1 .ddr (by decide)
@[simp] theorem countCoreN_hst (g : Nat) (ev : Nat) (qual : Nat) (n : Nat) (s : State) : (countCoreN g ev qual n s).hst = s.hst :=
  (countCoreN_law ..).1 .hst (by decide)
@[simp] theorem countCoreN_idb (g : Nat) (ev : Nat) (qual : Nat) (n : Nat) (s : State) : (countCoreN g ev qual n s).idb = s.idb :=
  (countCoreN_law ..).1 .idb (by decide)
@[simp] theorem countCoreN_rst (g : Nat) (ev : Nat) (qual : Nat) (n : Nat) (s : State) : (countCoreN g ev qual n s).rst = s.rst :=
  (countCoreN_law ..).1 .rst (by decide)
@[simp] theorem countCoreN_log (g : Nat) (ev : Nat) (qual : Nat) (n : Nat) (s : State) : (countCoreN g ev qual n s).log = s.log :=
  (countCoreN_law ..).1 .log (by decide)
@[simp] theorem countCoreN_fab (g : Nat) (ev : Nat) (qual : Nat) (n : Nat) (s : State) : (countCoreN g ev qual n s).fab = s.fab :=
  (countCoreN_law ..).1 .fab (by decide)
@[simp] theorem countCoreN_link (g : Nat) (ev : Nat) (qual : Nat) (n : Nat) (s : State) : (countCoreN g ev qual n s).link = s.link :=
  (countCoreN_law ..).1 .link (by decide)
@[simp] theorem countCoreN_steer (g : Nat) (ev : Nat) (qual : Nat) (n : Nat) (s : State) : (countCoreN g ev qual n s).steer = s.steer :=
  (countCoreN_law ..).1 .steer (by decide)
@[simp] theorem countCoreN_stew (g : Nat) (ev : Nat) (qual : Nat) (n : Nat) (s : State) : (countCoreN g ev qual n s).stew = s.stew :=
  (countCoreN_law ..).1 .stew (by decide)
@[simp] theorem countCoreN_ckpt (g : Nat) (ev : Nat) (qual : Nat) (n : Nat) (s : State) : (countCoreN g ev qual n s).ckpt = s.ckpt :=
  (countCoreN_law ..).1 .ckpt (by decide)
@[simp] theorem countCoreN_time (g : Nat) (ev : Nat) (qual : Nat) (n : Nat) (s : State) : (countCoreN g ev qual n s).time = s.time :=
  (countCoreN_law ..).1 .time (by decide)
@[simp] theorem countCoreN_boot (g : Nat) (ev : Nat) (qual : Nat) (n : Nat) (s : State) : (countCoreN g ev qual n s).boot = s.boot :=
  (countCoreN_law ..).1 .boot (by decide)
@[simp] theorem countCoreN_pwr (g : Nat) (ev : Nat) (qual : Nat) (n : Nat) (s : State) : (countCoreN g ev qual n s).pwr = s.pwr :=
  (countCoreN_law ..).1 .pwr (by decide)
@[simp] theorem countCoreN_upd (g : Nat) (ev : Nat) (qual : Nat) (n : Nat) (s : State) : (countCoreN g ev qual n s).upd = s.upd :=
  (countCoreN_law ..).1 .upd (by decide)
@[simp] theorem countCoreN_pins (g : Nat) (ev : Nat) (qual : Nat) (n : Nat) (s : State) : (countCoreN g ev qual n s).pins = s.pins :=
  (countCoreN_law ..).1 .pins (by decide)
@[simp] theorem countCoreN_eth (g : Nat) (ev : Nat) (qual : Nat) (n : Nat) (s : State) : (countCoreN g ev qual n s).eth = s.eth :=
  (countCoreN_law ..).1 .eth (by decide)
@[simp] theorem countCoreN_side (g : Nat) (ev : Nat) (qual : Nat) (n : Nat) (s : State) : (countCoreN g ev qual n s).side = s.side :=
  (countCoreN_law ..).1 .side (by decide)
@[simp] theorem countCoreN_sent (g : Nat) (ev : Nat) (qual : Nat) (n : Nat) (s : State) : (countCoreN g ev qual n s).sent = s.sent :=
  (countCoreN_law ..).1 .sent (by decide)
@[simp] theorem countCoreN_pending (g : Nat) (ev : Nat) (qual : Nat) (n : Nat) (s : State) : (countCoreN g ev qual n s).pending = s.pending :=
  (countCoreN_law ..).1 .pending (by decide)

/-! ### countClu -/

@[simp] theorem countClu_now (c : Nat) (ev : Nat) (qual : Nat) (s : State) : (countClu c ev qual s).now = s.now :=
  (countClu_law ..).1 .now (by decide)
@[simp] theorem countClu_freeCtr (c : Nat) (ev : Nat) (qual : Nat) (s : State) : (countClu c ev qual s).freeCtr = s.freeCtr :=
  (countClu_law ..).1 .freeCtr (by decide)
@[simp] theorem countClu_mem (c : Nat) (ev : Nat) (qual : Nat) (s : State) : (countClu c ev qual s).mem = s.mem := by
  first | rfl | (unfold countClu; (try dsimp only); (repeat' split) <;> (try rfl) <;> simp)
@[simp] theorem countClu_cores (c : Nat) (ev : Nat) (qual : Nat) (s : State) : (countClu c ev qual s).cores = s.cores :=
  (countClu_law ..).1 .cores (by decide)
@[simp] theorem countClu_clus (c : Nat) (ev : Nat) (qual : Nat) (s : State) : (countClu c ev qual s).clus = s.clus :=
  (countClu_law ..).1 .clus (by decide)
@[simp] theorem countClu_ctxs (c : Nat) (ev : Nat) (qual : Nat) (s : State) : (countClu c ev qual s).ctxs = s.ctxs :=
  (countClu_law ..).1 .ctxs (by decide)
@[simp] theorem countClu_transit (c : Nat) (ev : Nat) (qual : Nat) (s : State) : (countClu c ev qual s).transit = s.transit :=
  (countClu_law ..).1 .transit (by decide)
@[simp] theorem countClu_ddr (c : Nat) (ev : Nat) (qual : Nat) (s : State) : (countClu c ev qual s).ddr = s.ddr :=
  (countClu_law ..).1 .ddr (by decide)
@[simp] theorem countClu_hst (c : Nat) (ev : Nat) (qual : Nat) (s : State) : (countClu c ev qual s).hst = s.hst :=
  (countClu_law ..).1 .hst (by decide)
@[simp] theorem countClu_idb (c : Nat) (ev : Nat) (qual : Nat) (s : State) : (countClu c ev qual s).idb = s.idb :=
  (countClu_law ..).1 .idb (by decide)
@[simp] theorem countClu_rst (c : Nat) (ev : Nat) (qual : Nat) (s : State) : (countClu c ev qual s).rst = s.rst :=
  (countClu_law ..).1 .rst (by decide)
@[simp] theorem countClu_log (c : Nat) (ev : Nat) (qual : Nat) (s : State) : (countClu c ev qual s).log = s.log :=
  (countClu_law ..).1 .log (by decide)
@[simp] theorem countClu_fab (c : Nat) (ev : Nat) (qual : Nat) (s : State) : (countClu c ev qual s).fab = s.fab :=
  (countClu_law ..).1 .fab (by decide)
@[simp] theorem countClu_link (c : Nat) (ev : Nat) (qual : Nat) (s : State) : (countClu c ev qual s).link = s.link :=
  (countClu_law ..).1 .link (by decide)
@[simp] theorem countClu_steer (c : Nat) (ev : Nat) (qual : Nat) (s : State) : (countClu c ev qual s).steer = s.steer :=
  (countClu_law ..).1 .steer (by decide)
@[simp] theorem countClu_stew (c : Nat) (ev : Nat) (qual : Nat) (s : State) : (countClu c ev qual s).stew = s.stew :=
  (countClu_law ..).1 .stew (by decide)
@[simp] theorem countClu_ckpt (c : Nat) (ev : Nat) (qual : Nat) (s : State) : (countClu c ev qual s).ckpt = s.ckpt :=
  (countClu_law ..).1 .ckpt (by decide)
@[simp] theorem countClu_time (c : Nat) (ev : Nat) (qual : Nat) (s : State) : (countClu c ev qual s).time = s.time :=
  (countClu_law ..).1 .time (by decide)
@[simp] theorem countClu_boot (c : Nat) (ev : Nat) (qual : Nat) (s : State) : (countClu c ev qual s).boot = s.boot :=
  (countClu_law ..).1 .boot (by decide)
@[simp] theorem countClu_pwr (c : Nat) (ev : Nat) (qual : Nat) (s : State) : (countClu c ev qual s).pwr = s.pwr :=
  (countClu_law ..).1 .pwr (by decide)
@[simp] theorem countClu_upd (c : Nat) (ev : Nat) (qual : Nat) (s : State) : (countClu c ev qual s).upd = s.upd :=
  (countClu_law ..).1 .upd (by decide)
@[simp] theorem countClu_pins (c : Nat) (ev : Nat) (qual : Nat) (s : State) : (countClu c ev qual s).pins = s.pins :=
  (countClu_law ..).1 .pins (by decide)
@[simp] theorem countClu_eth (c : Nat) (ev : Nat) (qual : Nat) (s : State) : (countClu c ev qual s).eth = s.eth :=
  (countClu_law ..).1 .eth (by decide)
@[simp] theorem countClu_side (c : Nat) (ev : Nat) (qual : Nat) (s : State) : (countClu c ev qual s).side = s.side :=
  (countClu_law ..).1 .side (by decide)
@[simp] theorem countClu_sent (c : Nat) (ev : Nat) (qual : Nat) (s : State) : (countClu c ev qual s).sent = s.sent :=
  (countClu_law ..).1 .sent (by decide)
@[simp] theorem countClu_pending (c : Nat) (ev : Nat) (qual : Nat) (s : State) : (countClu c ev qual s).pending = s.pending :=
  (countClu_law ..).1 .pending (by decide)

/-! ### countFab -/

@[simp] theorem countFab_now (p : Nat) (ev : Nat) (qual : Nat) (s : State) : (countFab p ev qual s).now = s.now :=
  (countFab_law ..).1 .now (by decide)
@[simp] theorem countFab_freeCtr (p : Nat) (ev : Nat) (qual : Nat) (s : State) : (countFab p ev qual s).freeCtr = s.freeCtr :=
  (countFab_law ..).1 .freeCtr (by decide)
@[simp] theorem countFab_mem (p : Nat) (ev : Nat) (qual : Nat) (s : State) : (countFab p ev qual s).mem = s.mem := by
  first | rfl | (unfold countFab; (try dsimp only); (repeat' split) <;> (try rfl) <;> simp)
@[simp] theorem countFab_cores (p : Nat) (ev : Nat) (qual : Nat) (s : State) : (countFab p ev qual s).cores = s.cores :=
  (countFab_law ..).1 .cores (by decide)
@[simp] theorem countFab_clus (p : Nat) (ev : Nat) (qual : Nat) (s : State) : (countFab p ev qual s).clus = s.clus :=
  (countFab_law ..).1 .clus (by decide)
@[simp] theorem countFab_ctxs (p : Nat) (ev : Nat) (qual : Nat) (s : State) : (countFab p ev qual s).ctxs = s.ctxs :=
  (countFab_law ..).1 .ctxs (by decide)
@[simp] theorem countFab_transit (p : Nat) (ev : Nat) (qual : Nat) (s : State) : (countFab p ev qual s).transit = s.transit :=
  (countFab_law ..).1 .transit (by decide)
@[simp] theorem countFab_ddr (p : Nat) (ev : Nat) (qual : Nat) (s : State) : (countFab p ev qual s).ddr = s.ddr :=
  (countFab_law ..).1 .ddr (by decide)
@[simp] theorem countFab_hst (p : Nat) (ev : Nat) (qual : Nat) (s : State) : (countFab p ev qual s).hst = s.hst :=
  (countFab_law ..).1 .hst (by decide)
@[simp] theorem countFab_idb (p : Nat) (ev : Nat) (qual : Nat) (s : State) : (countFab p ev qual s).idb = s.idb :=
  (countFab_law ..).1 .idb (by decide)
@[simp] theorem countFab_rst (p : Nat) (ev : Nat) (qual : Nat) (s : State) : (countFab p ev qual s).rst = s.rst :=
  (countFab_law ..).1 .rst (by decide)
@[simp] theorem countFab_log (p : Nat) (ev : Nat) (qual : Nat) (s : State) : (countFab p ev qual s).log = s.log :=
  (countFab_law ..).1 .log (by decide)
@[simp] theorem countFab_fab (p : Nat) (ev : Nat) (qual : Nat) (s : State) : (countFab p ev qual s).fab = s.fab :=
  (countFab_law ..).1 .fab (by decide)
@[simp] theorem countFab_link (p : Nat) (ev : Nat) (qual : Nat) (s : State) : (countFab p ev qual s).link = s.link :=
  (countFab_law ..).1 .link (by decide)
@[simp] theorem countFab_steer (p : Nat) (ev : Nat) (qual : Nat) (s : State) : (countFab p ev qual s).steer = s.steer :=
  (countFab_law ..).1 .steer (by decide)
@[simp] theorem countFab_stew (p : Nat) (ev : Nat) (qual : Nat) (s : State) : (countFab p ev qual s).stew = s.stew :=
  (countFab_law ..).1 .stew (by decide)
@[simp] theorem countFab_ckpt (p : Nat) (ev : Nat) (qual : Nat) (s : State) : (countFab p ev qual s).ckpt = s.ckpt :=
  (countFab_law ..).1 .ckpt (by decide)
@[simp] theorem countFab_time (p : Nat) (ev : Nat) (qual : Nat) (s : State) : (countFab p ev qual s).time = s.time :=
  (countFab_law ..).1 .time (by decide)
@[simp] theorem countFab_boot (p : Nat) (ev : Nat) (qual : Nat) (s : State) : (countFab p ev qual s).boot = s.boot :=
  (countFab_law ..).1 .boot (by decide)
@[simp] theorem countFab_pwr (p : Nat) (ev : Nat) (qual : Nat) (s : State) : (countFab p ev qual s).pwr = s.pwr :=
  (countFab_law ..).1 .pwr (by decide)
@[simp] theorem countFab_upd (p : Nat) (ev : Nat) (qual : Nat) (s : State) : (countFab p ev qual s).upd = s.upd :=
  (countFab_law ..).1 .upd (by decide)
@[simp] theorem countFab_pins (p : Nat) (ev : Nat) (qual : Nat) (s : State) : (countFab p ev qual s).pins = s.pins :=
  (countFab_law ..).1 .pins (by decide)
@[simp] theorem countFab_eth (p : Nat) (ev : Nat) (qual : Nat) (s : State) : (countFab p ev qual s).eth = s.eth :=
  (countFab_law ..).1 .eth (by decide)
@[simp] theorem countFab_side (p : Nat) (ev : Nat) (qual : Nat) (s : State) : (countFab p ev qual s).side = s.side :=
  (countFab_law ..).1 .side (by decide)
@[simp] theorem countFab_sent (p : Nat) (ev : Nat) (qual : Nat) (s : State) : (countFab p ev qual s).sent = s.sent :=
  (countFab_law ..).1 .sent (by decide)
@[simp] theorem countFab_pending (p : Nat) (ev : Nat) (qual : Nat) (s : State) : (countFab p ev qual s).pending = s.pending :=
  (countFab_law ..).1 .pending (by decide)

/-! ### countDdr -/

@[simp] theorem countDdr_now (n : Nat) (ev : Nat) (s : State) : (countDdr n ev s).now = s.now :=
  (countDdr_law ..).1 .now (by decide)
@[simp] theorem countDdr_freeCtr (n : Nat) (ev : Nat) (s : State) : (countDdr n ev s).freeCtr = s.freeCtr :=
  (countDdr_law ..).1 .freeCtr (by decide)
@[simp] theorem countDdr_mem (n : Nat) (ev : Nat) (s : State) : (countDdr n ev s).mem = s.mem := by
  first | rfl | (unfold countDdr; (try dsimp only); (repeat' split) <;> (try rfl) <;> simp)
@[simp] theorem countDdr_cores (n : Nat) (ev : Nat) (s : State) : (countDdr n ev s).cores = s.cores :=
  (countDdr_law ..).1 .cores (by decide)
@[simp] theorem countDdr_clus (n : Nat) (ev : Nat) (s : State) : (countDdr n ev s).clus = s.clus :=
  (countDdr_law ..).1 .clus (by decide)
@[simp] theorem countDdr_ctxs (n : Nat) (ev : Nat) (s : State) : (countDdr n ev s).ctxs = s.ctxs :=
  (countDdr_law ..).1 .ctxs (by decide)
@[simp] theorem countDdr_transit (n : Nat) (ev : Nat) (s : State) : (countDdr n ev s).transit = s.transit :=
  (countDdr_law ..).1 .transit (by decide)
@[simp] theorem countDdr_ddr (n : Nat) (ev : Nat) (s : State) : (countDdr n ev s).ddr = s.ddr :=
  (countDdr_law ..).1 .ddr (by decide)
@[simp] theorem countDdr_hst (n : Nat) (ev : Nat) (s : State) : (countDdr n ev s).hst = s.hst :=
  (countDdr_law ..).1 .hst (by decide)
@[simp] theorem countDdr_idb (n : Nat) (ev : Nat) (s : State) : (countDdr n ev s).idb = s.idb :=
  (countDdr_law ..).1 .idb (by decide)
@[simp] theorem countDdr_rst (n : Nat) (ev : Nat) (s : State) : (countDdr n ev s).rst = s.rst :=
  (countDdr_law ..).1 .rst (by decide)
@[simp] theorem countDdr_log (n : Nat) (ev : Nat) (s : State) : (countDdr n ev s).log = s.log :=
  (countDdr_law ..).1 .log (by decide)
@[simp] theorem countDdr_fab (n : Nat) (ev : Nat) (s : State) : (countDdr n ev s).fab = s.fab :=
  (countDdr_law ..).1 .fab (by decide)
@[simp] theorem countDdr_link (n : Nat) (ev : Nat) (s : State) : (countDdr n ev s).link = s.link :=
  (countDdr_law ..).1 .link (by decide)
@[simp] theorem countDdr_steer (n : Nat) (ev : Nat) (s : State) : (countDdr n ev s).steer = s.steer :=
  (countDdr_law ..).1 .steer (by decide)
@[simp] theorem countDdr_stew (n : Nat) (ev : Nat) (s : State) : (countDdr n ev s).stew = s.stew :=
  (countDdr_law ..).1 .stew (by decide)
@[simp] theorem countDdr_ckpt (n : Nat) (ev : Nat) (s : State) : (countDdr n ev s).ckpt = s.ckpt :=
  (countDdr_law ..).1 .ckpt (by decide)
@[simp] theorem countDdr_time (n : Nat) (ev : Nat) (s : State) : (countDdr n ev s).time = s.time :=
  (countDdr_law ..).1 .time (by decide)
@[simp] theorem countDdr_boot (n : Nat) (ev : Nat) (s : State) : (countDdr n ev s).boot = s.boot :=
  (countDdr_law ..).1 .boot (by decide)
@[simp] theorem countDdr_pwr (n : Nat) (ev : Nat) (s : State) : (countDdr n ev s).pwr = s.pwr :=
  (countDdr_law ..).1 .pwr (by decide)
@[simp] theorem countDdr_upd (n : Nat) (ev : Nat) (s : State) : (countDdr n ev s).upd = s.upd :=
  (countDdr_law ..).1 .upd (by decide)
@[simp] theorem countDdr_pins (n : Nat) (ev : Nat) (s : State) : (countDdr n ev s).pins = s.pins :=
  (countDdr_law ..).1 .pins (by decide)
@[simp] theorem countDdr_eth (n : Nat) (ev : Nat) (s : State) : (countDdr n ev s).eth = s.eth :=
  (countDdr_law ..).1 .eth (by decide)
@[simp] theorem countDdr_side (n : Nat) (ev : Nat) (s : State) : (countDdr n ev s).side = s.side :=
  (countDdr_law ..).1 .side (by decide)
@[simp] theorem countDdr_sent (n : Nat) (ev : Nat) (s : State) : (countDdr n ev s).sent = s.sent :=
  (countDdr_law ..).1 .sent (by decide)
@[simp] theorem countDdr_pending (n : Nat) (ev : Nat) (s : State) : (countDdr n ev s).pending = s.pending :=
  (countDdr_law ..).1 .pending (by decide)

/-! ### countHub -/

@[simp] theorem countHub_now (ev : Nat) (qual : Nat) (ranged : Bool) (s : State) : (countHub ev qual ranged s).now = s.now :=
  (countHub_law ..).1 .now (by decide)
@[simp] theorem countHub_freeCtr (ev : Nat) (qual : Nat) (ranged : Bool) (s : State) : (countHub ev qual ranged s).freeCtr = s.freeCtr :=
  (countHub_law ..).1 .freeCtr (by decide)
@[simp] theorem countHub_mem (ev : Nat) (qual : Nat) (ranged : Bool) (s : State) : (countHub ev qual ranged s).mem = s.mem := by
  first | rfl | (unfold countHub; (try dsimp only); (repeat' split) <;> (try rfl) <;> simp)
@[simp] theorem countHub_cores (ev : Nat) (qual : Nat) (ranged : Bool) (s : State) : (countHub ev qual ranged s).cores = s.cores :=
  (countHub_law ..).1 .cores (by decide)
@[simp] theorem countHub_clus (ev : Nat) (qual : Nat) (ranged : Bool) (s : State) : (countHub ev qual ranged s).clus = s.clus :=
  (countHub_law ..).1 .clus (by decide)
@[simp] theorem countHub_ctxs (ev : Nat) (qual : Nat) (ranged : Bool) (s : State) : (countHub ev qual ranged s).ctxs = s.ctxs :=
  (countHub_law ..).1 .ctxs (by decide)
@[simp] theorem countHub_transit (ev : Nat) (qual : Nat) (ranged : Bool) (s : State) : (countHub ev qual ranged s).transit = s.transit :=
  (countHub_law ..).1 .transit (by decide)
@[simp] theorem countHub_ddr (ev : Nat) (qual : Nat) (ranged : Bool) (s : State) : (countHub ev qual ranged s).ddr = s.ddr :=
  (countHub_law ..).1 .ddr (by decide)
@[simp] theorem countHub_hst (ev : Nat) (qual : Nat) (ranged : Bool) (s : State) : (countHub ev qual ranged s).hst = s.hst :=
  (countHub_law ..).1 .hst (by decide)
@[simp] theorem countHub_idb (ev : Nat) (qual : Nat) (ranged : Bool) (s : State) : (countHub ev qual ranged s).idb = s.idb :=
  (countHub_law ..).1 .idb (by decide)
@[simp] theorem countHub_rst (ev : Nat) (qual : Nat) (ranged : Bool) (s : State) : (countHub ev qual ranged s).rst = s.rst :=
  (countHub_law ..).1 .rst (by decide)
@[simp] theorem countHub_log (ev : Nat) (qual : Nat) (ranged : Bool) (s : State) : (countHub ev qual ranged s).log = s.log :=
  (countHub_law ..).1 .log (by decide)
@[simp] theorem countHub_fab (ev : Nat) (qual : Nat) (ranged : Bool) (s : State) : (countHub ev qual ranged s).fab = s.fab :=
  (countHub_law ..).1 .fab (by decide)
@[simp] theorem countHub_link (ev : Nat) (qual : Nat) (ranged : Bool) (s : State) : (countHub ev qual ranged s).link = s.link :=
  (countHub_law ..).1 .link (by decide)
@[simp] theorem countHub_steer (ev : Nat) (qual : Nat) (ranged : Bool) (s : State) : (countHub ev qual ranged s).steer = s.steer :=
  (countHub_law ..).1 .steer (by decide)
@[simp] theorem countHub_stew (ev : Nat) (qual : Nat) (ranged : Bool) (s : State) : (countHub ev qual ranged s).stew = s.stew :=
  (countHub_law ..).1 .stew (by decide)
@[simp] theorem countHub_ckpt (ev : Nat) (qual : Nat) (ranged : Bool) (s : State) : (countHub ev qual ranged s).ckpt = s.ckpt :=
  (countHub_law ..).1 .ckpt (by decide)
@[simp] theorem countHub_time (ev : Nat) (qual : Nat) (ranged : Bool) (s : State) : (countHub ev qual ranged s).time = s.time :=
  (countHub_law ..).1 .time (by decide)
@[simp] theorem countHub_boot (ev : Nat) (qual : Nat) (ranged : Bool) (s : State) : (countHub ev qual ranged s).boot = s.boot :=
  (countHub_law ..).1 .boot (by decide)
@[simp] theorem countHub_pwr (ev : Nat) (qual : Nat) (ranged : Bool) (s : State) : (countHub ev qual ranged s).pwr = s.pwr :=
  (countHub_law ..).1 .pwr (by decide)
@[simp] theorem countHub_upd (ev : Nat) (qual : Nat) (ranged : Bool) (s : State) : (countHub ev qual ranged s).upd = s.upd :=
  (countHub_law ..).1 .upd (by decide)
@[simp] theorem countHub_pins (ev : Nat) (qual : Nat) (ranged : Bool) (s : State) : (countHub ev qual ranged s).pins = s.pins :=
  (countHub_law ..).1 .pins (by decide)
@[simp] theorem countHub_eth (ev : Nat) (qual : Nat) (ranged : Bool) (s : State) : (countHub ev qual ranged s).eth = s.eth :=
  (countHub_law ..).1 .eth (by decide)
@[simp] theorem countHub_side (ev : Nat) (qual : Nat) (ranged : Bool) (s : State) : (countHub ev qual ranged s).side = s.side :=
  (countHub_law ..).1 .side (by decide)
@[simp] theorem countHub_sent (ev : Nat) (qual : Nat) (ranged : Bool) (s : State) : (countHub ev qual ranged s).sent = s.sent :=
  (countHub_law ..).1 .sent (by decide)
@[simp] theorem countHub_pending (ev : Nat) (qual : Nat) (ranged : Bool) (s : State) : (countHub ev qual ranged s).pending = s.pending :=
  (countHub_law ..).1 .pending (by decide)

/-! ### logRec -/

@[simp] theorem logRec_now (code : Nat) (source : Nat) (p0 : Nat) (p1 : Nat) (p2 : Nat) (p3 : Nat) (s : State) : (logRec code source p0 p1 p2 p3 s).now = s.now :=
  (logRec_law ..).1 .now (by decide)
@[simp] theorem logRec_freeCtr (code : Nat) (source : Nat) (p0 : Nat) (p1 : Nat) (p2 : Nat) (p3 : Nat) (s : State) : (logRec code source p0 p1 p2 p3 s).freeCtr = s.freeCtr :=
  (logRec_law ..).1 .freeCtr (by decide)
@[simp] theorem logRec_mem (code : Nat) (source : Nat) (p0 : Nat) (p1 : Nat) (p2 : Nat) (p3 : Nat) (s : State) : (logRec code source p0 p1 p2 p3 s).mem = s.mem := by
  first | rfl | (unfold logRec; (try dsimp only); (repeat' split) <;> (try rfl) <;> simp)
@[simp] theorem logRec_cores (code : Nat) (source : Nat) (p0 : Nat) (p1 : Nat) (p2 : Nat) (p3 : Nat) (s : State) : (logRec code source p0 p1 p2 p3 s).cores = s.cores :=
  (logRec_law ..).1 .cores (by decide)
@[simp] theorem logRec_clus (code : Nat) (source : Nat) (p0 : Nat) (p1 : Nat) (p2 : Nat) (p3 : Nat) (s : State) : (logRec code source p0 p1 p2 p3 s).clus = s.clus :=
  (logRec_law ..).1 .clus (by decide)
@[simp] theorem logRec_ctxs (code : Nat) (source : Nat) (p0 : Nat) (p1 : Nat) (p2 : Nat) (p3 : Nat) (s : State) : (logRec code source p0 p1 p2 p3 s).ctxs = s.ctxs :=
  (logRec_law ..).1 .ctxs (by decide)
@[simp] theorem logRec_transit (code : Nat) (source : Nat) (p0 : Nat) (p1 : Nat) (p2 : Nat) (p3 : Nat) (s : State) : (logRec code source p0 p1 p2 p3 s).transit = s.transit :=
  (logRec_law ..).1 .transit (by decide)
@[simp] theorem logRec_ddr (code : Nat) (source : Nat) (p0 : Nat) (p1 : Nat) (p2 : Nat) (p3 : Nat) (s : State) : (logRec code source p0 p1 p2 p3 s).ddr = s.ddr :=
  (logRec_law ..).1 .ddr (by decide)
@[simp] theorem logRec_hst (code : Nat) (source : Nat) (p0 : Nat) (p1 : Nat) (p2 : Nat) (p3 : Nat) (s : State) : (logRec code source p0 p1 p2 p3 s).hst = s.hst :=
  (logRec_law ..).1 .hst (by decide)
@[simp] theorem logRec_idb (code : Nat) (source : Nat) (p0 : Nat) (p1 : Nat) (p2 : Nat) (p3 : Nat) (s : State) : (logRec code source p0 p1 p2 p3 s).idb = s.idb :=
  (logRec_law ..).1 .idb (by decide)
@[simp] theorem logRec_rst (code : Nat) (source : Nat) (p0 : Nat) (p1 : Nat) (p2 : Nat) (p3 : Nat) (s : State) : (logRec code source p0 p1 p2 p3 s).rst = s.rst :=
  (logRec_law ..).1 .rst (by decide)
@[simp] theorem logRec_fab (code : Nat) (source : Nat) (p0 : Nat) (p1 : Nat) (p2 : Nat) (p3 : Nat) (s : State) : (logRec code source p0 p1 p2 p3 s).fab = s.fab :=
  (logRec_law ..).1 .fab (by decide)
@[simp] theorem logRec_link (code : Nat) (source : Nat) (p0 : Nat) (p1 : Nat) (p2 : Nat) (p3 : Nat) (s : State) : (logRec code source p0 p1 p2 p3 s).link = s.link :=
  (logRec_law ..).1 .link (by decide)
@[simp] theorem logRec_steer (code : Nat) (source : Nat) (p0 : Nat) (p1 : Nat) (p2 : Nat) (p3 : Nat) (s : State) : (logRec code source p0 p1 p2 p3 s).steer = s.steer :=
  (logRec_law ..).1 .steer (by decide)
@[simp] theorem logRec_stew (code : Nat) (source : Nat) (p0 : Nat) (p1 : Nat) (p2 : Nat) (p3 : Nat) (s : State) : (logRec code source p0 p1 p2 p3 s).stew = s.stew :=
  (logRec_law ..).1 .stew (by decide)
@[simp] theorem logRec_ckpt (code : Nat) (source : Nat) (p0 : Nat) (p1 : Nat) (p2 : Nat) (p3 : Nat) (s : State) : (logRec code source p0 p1 p2 p3 s).ckpt = s.ckpt :=
  (logRec_law ..).1 .ckpt (by decide)
@[simp] theorem logRec_time (code : Nat) (source : Nat) (p0 : Nat) (p1 : Nat) (p2 : Nat) (p3 : Nat) (s : State) : (logRec code source p0 p1 p2 p3 s).time = s.time :=
  (logRec_law ..).1 .time (by decide)
@[simp] theorem logRec_boot (code : Nat) (source : Nat) (p0 : Nat) (p1 : Nat) (p2 : Nat) (p3 : Nat) (s : State) : (logRec code source p0 p1 p2 p3 s).boot = s.boot :=
  (logRec_law ..).1 .boot (by decide)
@[simp] theorem logRec_pwr (code : Nat) (source : Nat) (p0 : Nat) (p1 : Nat) (p2 : Nat) (p3 : Nat) (s : State) : (logRec code source p0 p1 p2 p3 s).pwr = s.pwr :=
  (logRec_law ..).1 .pwr (by decide)
@[simp] theorem logRec_upd (code : Nat) (source : Nat) (p0 : Nat) (p1 : Nat) (p2 : Nat) (p3 : Nat) (s : State) : (logRec code source p0 p1 p2 p3 s).upd = s.upd :=
  (logRec_law ..).1 .upd (by decide)
@[simp] theorem logRec_pins (code : Nat) (source : Nat) (p0 : Nat) (p1 : Nat) (p2 : Nat) (p3 : Nat) (s : State) : (logRec code source p0 p1 p2 p3 s).pins = s.pins :=
  (logRec_law ..).1 .pins (by decide)
@[simp] theorem logRec_eth (code : Nat) (source : Nat) (p0 : Nat) (p1 : Nat) (p2 : Nat) (p3 : Nat) (s : State) : (logRec code source p0 p1 p2 p3 s).eth = s.eth :=
  (logRec_law ..).1 .eth (by decide)
@[simp] theorem logRec_side (code : Nat) (source : Nat) (p0 : Nat) (p1 : Nat) (p2 : Nat) (p3 : Nat) (s : State) : (logRec code source p0 p1 p2 p3 s).side = s.side :=
  (logRec_law ..).1 .side (by decide)
@[simp] theorem logRec_sent (code : Nat) (source : Nat) (p0 : Nat) (p1 : Nat) (p2 : Nat) (p3 : Nat) (s : State) : (logRec code source p0 p1 p2 p3 s).sent = s.sent :=
  (logRec_law ..).1 .sent (by decide)
@[simp] theorem logRec_pending (code : Nat) (source : Nat) (p0 : Nat) (p1 : Nat) (p2 : Nat) (p3 : Nat) (s : State) : (logRec code source p0 p1 p2 p3 s).pending = s.pending :=
  (logRec_law ..).1 .pending (by decide)

/-! ### logRate -/

@[simp] theorem logRate_now (key : Nat) (period : Nat) (code : Nat) (source : Nat) (p0 : Nat) (p1 : Nat) (p2 : Nat) (p3 : Nat) (s : State) : (logRate key period code source p0 p1 p2 p3 s).now = s.now :=
  (logRate_law ..).1 .now (by decide)
@[simp] theorem logRate_freeCtr (key : Nat) (period : Nat) (code : Nat) (source : Nat) (p0 : Nat) (p1 : Nat) (p2 : Nat) (p3 : Nat) (s : State) : (logRate key period code source p0 p1 p2 p3 s).freeCtr = s.freeCtr :=
  (logRate_law ..).1 .freeCtr (by decide)
@[simp] theorem logRate_mem (key : Nat) (period : Nat) (code : Nat) (source : Nat) (p0 : Nat) (p1 : Nat) (p2 : Nat) (p3 : Nat) (s : State) : (logRate key period code source p0 p1 p2 p3 s).mem = s.mem := by
  first | rfl | (unfold logRate; (try dsimp only); (repeat' split) <;> (try rfl) <;> simp)
@[simp] theorem logRate_cores (key : Nat) (period : Nat) (code : Nat) (source : Nat) (p0 : Nat) (p1 : Nat) (p2 : Nat) (p3 : Nat) (s : State) : (logRate key period code source p0 p1 p2 p3 s).cores = s.cores :=
  (logRate_law ..).1 .cores (by decide)
@[simp] theorem logRate_clus (key : Nat) (period : Nat) (code : Nat) (source : Nat) (p0 : Nat) (p1 : Nat) (p2 : Nat) (p3 : Nat) (s : State) : (logRate key period code source p0 p1 p2 p3 s).clus = s.clus :=
  (logRate_law ..).1 .clus (by decide)
@[simp] theorem logRate_ctxs (key : Nat) (period : Nat) (code : Nat) (source : Nat) (p0 : Nat) (p1 : Nat) (p2 : Nat) (p3 : Nat) (s : State) : (logRate key period code source p0 p1 p2 p3 s).ctxs = s.ctxs :=
  (logRate_law ..).1 .ctxs (by decide)
@[simp] theorem logRate_transit (key : Nat) (period : Nat) (code : Nat) (source : Nat) (p0 : Nat) (p1 : Nat) (p2 : Nat) (p3 : Nat) (s : State) : (logRate key period code source p0 p1 p2 p3 s).transit = s.transit :=
  (logRate_law ..).1 .transit (by decide)
@[simp] theorem logRate_ddr (key : Nat) (period : Nat) (code : Nat) (source : Nat) (p0 : Nat) (p1 : Nat) (p2 : Nat) (p3 : Nat) (s : State) : (logRate key period code source p0 p1 p2 p3 s).ddr = s.ddr :=
  (logRate_law ..).1 .ddr (by decide)
@[simp] theorem logRate_hst (key : Nat) (period : Nat) (code : Nat) (source : Nat) (p0 : Nat) (p1 : Nat) (p2 : Nat) (p3 : Nat) (s : State) : (logRate key period code source p0 p1 p2 p3 s).hst = s.hst :=
  (logRate_law ..).1 .hst (by decide)
@[simp] theorem logRate_idb (key : Nat) (period : Nat) (code : Nat) (source : Nat) (p0 : Nat) (p1 : Nat) (p2 : Nat) (p3 : Nat) (s : State) : (logRate key period code source p0 p1 p2 p3 s).idb = s.idb :=
  (logRate_law ..).1 .idb (by decide)
@[simp] theorem logRate_rst (key : Nat) (period : Nat) (code : Nat) (source : Nat) (p0 : Nat) (p1 : Nat) (p2 : Nat) (p3 : Nat) (s : State) : (logRate key period code source p0 p1 p2 p3 s).rst = s.rst :=
  (logRate_law ..).1 .rst (by decide)
@[simp] theorem logRate_fab (key : Nat) (period : Nat) (code : Nat) (source : Nat) (p0 : Nat) (p1 : Nat) (p2 : Nat) (p3 : Nat) (s : State) : (logRate key period code source p0 p1 p2 p3 s).fab = s.fab :=
  (logRate_law ..).1 .fab (by decide)
@[simp] theorem logRate_link (key : Nat) (period : Nat) (code : Nat) (source : Nat) (p0 : Nat) (p1 : Nat) (p2 : Nat) (p3 : Nat) (s : State) : (logRate key period code source p0 p1 p2 p3 s).link = s.link :=
  (logRate_law ..).1 .link (by decide)
@[simp] theorem logRate_steer (key : Nat) (period : Nat) (code : Nat) (source : Nat) (p0 : Nat) (p1 : Nat) (p2 : Nat) (p3 : Nat) (s : State) : (logRate key period code source p0 p1 p2 p3 s).steer = s.steer :=
  (logRate_law ..).1 .steer (by decide)
@[simp] theorem logRate_stew (key : Nat) (period : Nat) (code : Nat) (source : Nat) (p0 : Nat) (p1 : Nat) (p2 : Nat) (p3 : Nat) (s : State) : (logRate key period code source p0 p1 p2 p3 s).stew = s.stew :=
  (logRate_law ..).1 .stew (by decide)
@[simp] theorem logRate_ckpt (key : Nat) (period : Nat) (code : Nat) (source : Nat) (p0 : Nat) (p1 : Nat) (p2 : Nat) (p3 : Nat) (s : State) : (logRate key period code source p0 p1 p2 p3 s).ckpt = s.ckpt :=
  (logRate_law ..).1 .ckpt (by decide)
@[simp] theorem logRate_time (key : Nat) (period : Nat) (code : Nat) (source : Nat) (p0 : Nat) (p1 : Nat) (p2 : Nat) (p3 : Nat) (s : State) : (logRate key period code source p0 p1 p2 p3 s).time = s.time :=
  (logRate_law ..).1 .time (by decide)
@[simp] theorem logRate_boot (key : Nat) (period : Nat) (code : Nat) (source : Nat) (p0 : Nat) (p1 : Nat) (p2 : Nat) (p3 : Nat) (s : State) : (logRate key period code source p0 p1 p2 p3 s).boot = s.boot :=
  (logRate_law ..).1 .boot (by decide)
@[simp] theorem logRate_pwr (key : Nat) (period : Nat) (code : Nat) (source : Nat) (p0 : Nat) (p1 : Nat) (p2 : Nat) (p3 : Nat) (s : State) : (logRate key period code source p0 p1 p2 p3 s).pwr = s.pwr :=
  (logRate_law ..).1 .pwr (by decide)
@[simp] theorem logRate_upd (key : Nat) (period : Nat) (code : Nat) (source : Nat) (p0 : Nat) (p1 : Nat) (p2 : Nat) (p3 : Nat) (s : State) : (logRate key period code source p0 p1 p2 p3 s).upd = s.upd :=
  (logRate_law ..).1 .upd (by decide)
@[simp] theorem logRate_pins (key : Nat) (period : Nat) (code : Nat) (source : Nat) (p0 : Nat) (p1 : Nat) (p2 : Nat) (p3 : Nat) (s : State) : (logRate key period code source p0 p1 p2 p3 s).pins = s.pins :=
  (logRate_law ..).1 .pins (by decide)
@[simp] theorem logRate_eth (key : Nat) (period : Nat) (code : Nat) (source : Nat) (p0 : Nat) (p1 : Nat) (p2 : Nat) (p3 : Nat) (s : State) : (logRate key period code source p0 p1 p2 p3 s).eth = s.eth :=
  (logRate_law ..).1 .eth (by decide)
@[simp] theorem logRate_side (key : Nat) (period : Nat) (code : Nat) (source : Nat) (p0 : Nat) (p1 : Nat) (p2 : Nat) (p3 : Nat) (s : State) : (logRate key period code source p0 p1 p2 p3 s).side = s.side :=
  (logRate_law ..).1 .side (by decide)
@[simp] theorem logRate_sent (key : Nat) (period : Nat) (code : Nat) (source : Nat) (p0 : Nat) (p1 : Nat) (p2 : Nat) (p3 : Nat) (s : State) : (logRate key period code source p0 p1 p2 p3 s).sent = s.sent :=
  (logRate_law ..).1 .sent (by decide)
@[simp] theorem logRate_pending (key : Nat) (period : Nat) (code : Nat) (source : Nat) (p0 : Nat) (p1 : Nat) (p2 : Nat) (p3 : Nat) (s : State) : (logRate key period code source p0 p1 p2 p3 s).pending = s.pending :=
  (logRate_law ..).1 .pending (by decide)

/-! ### logCore -/

@[simp] theorem logCore_now (g : Nat) (low : Nat) (p0 : Nat) (p1 : Nat) (p2 : Nat) (p3 : Nat) (s : State) : (logCore g low p0 p1 p2 p3 s).now = s.now :=
  (logCore_law ..).1 .now (by decide)
@[simp] theorem logCore_freeCtr (g : Nat) (low : Nat) (p0 : Nat) (p1 : Nat) (p2 : Nat) (p3 : Nat) (s : State) : (logCore g low p0 p1 p2 p3 s).freeCtr = s.freeCtr :=
  (logCore_law ..).1 .freeCtr (by decide)
@[simp] theorem logCore_mem (g : Nat) (low : Nat) (p0 : Nat) (p1 : Nat) (p2 : Nat) (p3 : Nat) (s : State) : (logCore g low p0 p1 p2 p3 s).mem = s.mem := by
  first | rfl | (unfold logCore; (try dsimp only); (repeat' split) <;> (try rfl) <;> simp)
@[simp] theorem logCore_cores (g : Nat) (low : Nat) (p0 : Nat) (p1 : Nat) (p2 : Nat) (p3 : Nat) (s : State) : (logCore g low p0 p1 p2 p3 s).cores = s.cores :=
  (logCore_law ..).1 .cores (by decide)
@[simp] theorem logCore_clus (g : Nat) (low : Nat) (p0 : Nat) (p1 : Nat) (p2 : Nat) (p3 : Nat) (s : State) : (logCore g low p0 p1 p2 p3 s).clus = s.clus :=
  (logCore_law ..).1 .clus (by decide)
@[simp] theorem logCore_ctxs (g : Nat) (low : Nat) (p0 : Nat) (p1 : Nat) (p2 : Nat) (p3 : Nat) (s : State) : (logCore g low p0 p1 p2 p3 s).ctxs = s.ctxs :=
  (logCore_law ..).1 .ctxs (by decide)
@[simp] theorem logCore_transit (g : Nat) (low : Nat) (p0 : Nat) (p1 : Nat) (p2 : Nat) (p3 : Nat) (s : State) : (logCore g low p0 p1 p2 p3 s).transit = s.transit :=
  (logCore_law ..).1 .transit (by decide)
@[simp] theorem logCore_ddr (g : Nat) (low : Nat) (p0 : Nat) (p1 : Nat) (p2 : Nat) (p3 : Nat) (s : State) : (logCore g low p0 p1 p2 p3 s).ddr = s.ddr :=
  (logCore_law ..).1 .ddr (by decide)
@[simp] theorem logCore_hst (g : Nat) (low : Nat) (p0 : Nat) (p1 : Nat) (p2 : Nat) (p3 : Nat) (s : State) : (logCore g low p0 p1 p2 p3 s).hst = s.hst :=
  (logCore_law ..).1 .hst (by decide)
@[simp] theorem logCore_idb (g : Nat) (low : Nat) (p0 : Nat) (p1 : Nat) (p2 : Nat) (p3 : Nat) (s : State) : (logCore g low p0 p1 p2 p3 s).idb = s.idb :=
  (logCore_law ..).1 .idb (by decide)
@[simp] theorem logCore_rst (g : Nat) (low : Nat) (p0 : Nat) (p1 : Nat) (p2 : Nat) (p3 : Nat) (s : State) : (logCore g low p0 p1 p2 p3 s).rst = s.rst :=
  (logCore_law ..).1 .rst (by decide)
@[simp] theorem logCore_fab (g : Nat) (low : Nat) (p0 : Nat) (p1 : Nat) (p2 : Nat) (p3 : Nat) (s : State) : (logCore g low p0 p1 p2 p3 s).fab = s.fab :=
  (logCore_law ..).1 .fab (by decide)
@[simp] theorem logCore_link (g : Nat) (low : Nat) (p0 : Nat) (p1 : Nat) (p2 : Nat) (p3 : Nat) (s : State) : (logCore g low p0 p1 p2 p3 s).link = s.link :=
  (logCore_law ..).1 .link (by decide)
@[simp] theorem logCore_steer (g : Nat) (low : Nat) (p0 : Nat) (p1 : Nat) (p2 : Nat) (p3 : Nat) (s : State) : (logCore g low p0 p1 p2 p3 s).steer = s.steer :=
  (logCore_law ..).1 .steer (by decide)
@[simp] theorem logCore_stew (g : Nat) (low : Nat) (p0 : Nat) (p1 : Nat) (p2 : Nat) (p3 : Nat) (s : State) : (logCore g low p0 p1 p2 p3 s).stew = s.stew :=
  (logCore_law ..).1 .stew (by decide)
@[simp] theorem logCore_ckpt (g : Nat) (low : Nat) (p0 : Nat) (p1 : Nat) (p2 : Nat) (p3 : Nat) (s : State) : (logCore g low p0 p1 p2 p3 s).ckpt = s.ckpt :=
  (logCore_law ..).1 .ckpt (by decide)
@[simp] theorem logCore_time (g : Nat) (low : Nat) (p0 : Nat) (p1 : Nat) (p2 : Nat) (p3 : Nat) (s : State) : (logCore g low p0 p1 p2 p3 s).time = s.time :=
  (logCore_law ..).1 .time (by decide)
@[simp] theorem logCore_boot (g : Nat) (low : Nat) (p0 : Nat) (p1 : Nat) (p2 : Nat) (p3 : Nat) (s : State) : (logCore g low p0 p1 p2 p3 s).boot = s.boot :=
  (logCore_law ..).1 .boot (by decide)
@[simp] theorem logCore_pwr (g : Nat) (low : Nat) (p0 : Nat) (p1 : Nat) (p2 : Nat) (p3 : Nat) (s : State) : (logCore g low p0 p1 p2 p3 s).pwr = s.pwr :=
  (logCore_law ..).1 .pwr (by decide)
@[simp] theorem logCore_upd (g : Nat) (low : Nat) (p0 : Nat) (p1 : Nat) (p2 : Nat) (p3 : Nat) (s : State) : (logCore g low p0 p1 p2 p3 s).upd = s.upd :=
  (logCore_law ..).1 .upd (by decide)
@[simp] theorem logCore_pins (g : Nat) (low : Nat) (p0 : Nat) (p1 : Nat) (p2 : Nat) (p3 : Nat) (s : State) : (logCore g low p0 p1 p2 p3 s).pins = s.pins :=
  (logCore_law ..).1 .pins (by decide)
@[simp] theorem logCore_eth (g : Nat) (low : Nat) (p0 : Nat) (p1 : Nat) (p2 : Nat) (p3 : Nat) (s : State) : (logCore g low p0 p1 p2 p3 s).eth = s.eth :=
  (logCore_law ..).1 .eth (by decide)
@[simp] theorem logCore_side (g : Nat) (low : Nat) (p0 : Nat) (p1 : Nat) (p2 : Nat) (p3 : Nat) (s : State) : (logCore g low p0 p1 p2 p3 s).side = s.side :=
  (logCore_law ..).1 .side (by decide)
@[simp] theorem logCore_sent (g : Nat) (low : Nat) (p0 : Nat) (p1 : Nat) (p2 : Nat) (p3 : Nat) (s : State) : (logCore g low p0 p1 p2 p3 s).sent = s.sent :=
  (logCore_law ..).1 .sent (by decide)
@[simp] theorem logCore_pending (g : Nat) (low : Nat) (p0 : Nat) (p1 : Nat) (p2 : Nat) (p3 : Nat) (s : State) : (logCore g low p0 p1 p2 p3 s).pending = s.pending :=
  (logCore_law ..).1 .pending (by decide)

/-! ### logClu -/

@[simp] theorem logClu_now (c : Nat) (low : Nat) (p0 : Nat) (p1 : Nat) (p2 : Nat) (p3 : Nat) (s : State) : (logClu c low p0 p1 p2 p3 s).now = s.now :=
  (logClu_law ..).1 .now (by decide)
@[simp] theorem logClu_freeCtr (c : Nat) (low : Nat) (p0 : Nat) (p1 : Nat) (p2 : Nat) (p3 : Nat) (s : State) : (logClu c low p0 p1 p2 p3 s).freeCtr = s.freeCtr :=
  (logClu_law ..).1 .freeCtr (by decide)
@[simp] theorem logClu_mem (c : Nat) (low : Nat) (p0 : Nat) (p1 : Nat) (p2 : Nat) (p3 : Nat) (s : State) : (logClu c low p0 p1 p2 p3 s).mem = s.mem := by
  first | rfl | (unfold logClu; (try dsimp only); (repeat' split) <;> (try rfl) <;> simp)
@[simp] theorem logClu_cores (c : Nat) (low : Nat) (p0 : Nat) (p1 : Nat) (p2 : Nat) (p3 : Nat) (s : State) : (logClu c low p0 p1 p2 p3 s).cores = s.cores :=
  (logClu_law ..).1 .cores (by decide)
@[simp] theorem logClu_clus (c : Nat) (low : Nat) (p0 : Nat) (p1 : Nat) (p2 : Nat) (p3 : Nat) (s : State) : (logClu c low p0 p1 p2 p3 s).clus = s.clus :=
  (logClu_law ..).1 .clus (by decide)
@[simp] theorem logClu_ctxs (c : Nat) (low : Nat) (p0 : Nat) (p1 : Nat) (p2 : Nat) (p3 : Nat) (s : State) : (logClu c low p0 p1 p2 p3 s).ctxs = s.ctxs :=
  (logClu_law ..).1 .ctxs (by decide)
@[simp] theorem logClu_transit (c : Nat) (low : Nat) (p0 : Nat) (p1 : Nat) (p2 : Nat) (p3 : Nat) (s : State) : (logClu c low p0 p1 p2 p3 s).transit = s.transit :=
  (logClu_law ..).1 .transit (by decide)
@[simp] theorem logClu_ddr (c : Nat) (low : Nat) (p0 : Nat) (p1 : Nat) (p2 : Nat) (p3 : Nat) (s : State) : (logClu c low p0 p1 p2 p3 s).ddr = s.ddr :=
  (logClu_law ..).1 .ddr (by decide)
@[simp] theorem logClu_hst (c : Nat) (low : Nat) (p0 : Nat) (p1 : Nat) (p2 : Nat) (p3 : Nat) (s : State) : (logClu c low p0 p1 p2 p3 s).hst = s.hst :=
  (logClu_law ..).1 .hst (by decide)
@[simp] theorem logClu_idb (c : Nat) (low : Nat) (p0 : Nat) (p1 : Nat) (p2 : Nat) (p3 : Nat) (s : State) : (logClu c low p0 p1 p2 p3 s).idb = s.idb :=
  (logClu_law ..).1 .idb (by decide)
@[simp] theorem logClu_rst (c : Nat) (low : Nat) (p0 : Nat) (p1 : Nat) (p2 : Nat) (p3 : Nat) (s : State) : (logClu c low p0 p1 p2 p3 s).rst = s.rst :=
  (logClu_law ..).1 .rst (by decide)
@[simp] theorem logClu_fab (c : Nat) (low : Nat) (p0 : Nat) (p1 : Nat) (p2 : Nat) (p3 : Nat) (s : State) : (logClu c low p0 p1 p2 p3 s).fab = s.fab :=
  (logClu_law ..).1 .fab (by decide)
@[simp] theorem logClu_link (c : Nat) (low : Nat) (p0 : Nat) (p1 : Nat) (p2 : Nat) (p3 : Nat) (s : State) : (logClu c low p0 p1 p2 p3 s).link = s.link :=
  (logClu_law ..).1 .link (by decide)
@[simp] theorem logClu_steer (c : Nat) (low : Nat) (p0 : Nat) (p1 : Nat) (p2 : Nat) (p3 : Nat) (s : State) : (logClu c low p0 p1 p2 p3 s).steer = s.steer :=
  (logClu_law ..).1 .steer (by decide)
@[simp] theorem logClu_stew (c : Nat) (low : Nat) (p0 : Nat) (p1 : Nat) (p2 : Nat) (p3 : Nat) (s : State) : (logClu c low p0 p1 p2 p3 s).stew = s.stew :=
  (logClu_law ..).1 .stew (by decide)
@[simp] theorem logClu_ckpt (c : Nat) (low : Nat) (p0 : Nat) (p1 : Nat) (p2 : Nat) (p3 : Nat) (s : State) : (logClu c low p0 p1 p2 p3 s).ckpt = s.ckpt :=
  (logClu_law ..).1 .ckpt (by decide)
@[simp] theorem logClu_time (c : Nat) (low : Nat) (p0 : Nat) (p1 : Nat) (p2 : Nat) (p3 : Nat) (s : State) : (logClu c low p0 p1 p2 p3 s).time = s.time :=
  (logClu_law ..).1 .time (by decide)
@[simp] theorem logClu_boot (c : Nat) (low : Nat) (p0 : Nat) (p1 : Nat) (p2 : Nat) (p3 : Nat) (s : State) : (logClu c low p0 p1 p2 p3 s).boot = s.boot :=
  (logClu_law ..).1 .boot (by decide)
@[simp] theorem logClu_pwr (c : Nat) (low : Nat) (p0 : Nat) (p1 : Nat) (p2 : Nat) (p3 : Nat) (s : State) : (logClu c low p0 p1 p2 p3 s).pwr = s.pwr :=
  (logClu_law ..).1 .pwr (by decide)
@[simp] theorem logClu_upd (c : Nat) (low : Nat) (p0 : Nat) (p1 : Nat) (p2 : Nat) (p3 : Nat) (s : State) : (logClu c low p0 p1 p2 p3 s).upd = s.upd :=
  (logClu_law ..).1 .upd (by decide)
@[simp] theorem logClu_pins (c : Nat) (low : Nat) (p0 : Nat) (p1 : Nat) (p2 : Nat) (p3 : Nat) (s : State) : (logClu c low p0 p1 p2 p3 s).pins = s.pins :=
  (logClu_law ..).1 .pins (by decide)
@[simp] theorem logClu_eth (c : Nat) (low : Nat) (p0 : Nat) (p1 : Nat) (p2 : Nat) (p3 : Nat) (s : State) : (logClu c low p0 p1 p2 p3 s).eth = s.eth :=
  (logClu_law ..).1 .eth (by decide)
@[simp] theorem logClu_side (c : Nat) (low : Nat) (p0 : Nat) (p1 : Nat) (p2 : Nat) (p3 : Nat) (s : State) : (logClu c low p0 p1 p2 p3 s).side = s.side :=
  (logClu_law ..).1 .side (by decide)
@[simp] theorem logClu_sent (c : Nat) (low : Nat) (p0 : Nat) (p1 : Nat) (p2 : Nat) (p3 : Nat) (s : State) : (logClu c low p0 p1 p2 p3 s).sent = s.sent :=
  (logClu_law ..).1 .sent (by decide)
@[simp] theorem logClu_pending (c : Nat) (low : Nat) (p0 : Nat) (p1 : Nat) (p2 : Nat) (p3 : Nat) (s : State) : (logClu c low p0 p1 p2 p3 s).pending = s.pending :=
  (logClu_law ..).1 .pending (by decide)

/-! ### logFab -/

@[simp] theorem logFab_now (p : Nat) (low : Nat) (l : Nat) (p0 : Nat) (p1 : Nat) (p2 : Nat) (p3 : Nat) (s : State) : (logFab p low l p0 p1 p2 p3 s).now = s.now :=
  (logFab_law ..).1 .now (by decide)
@[simp] theorem logFab_freeCtr (p : Nat) (low : Nat) (l : Nat) (p0 : Nat) (p1 : Nat) (p2 : Nat) (p3 : Nat) (s : State) : (logFab p low l p0 p1 p2 p3 s).freeCtr = s.freeCtr :=
  (logFab_law ..).1 .freeCtr (by decide)
@[simp] theorem logFab_mem (p : Nat) (low : Nat) (l : Nat) (p0 : Nat) (p1 : Nat) (p2 : Nat) (p3 : Nat) (s : State) : (logFab p low l p0 p1 p2 p3 s).mem = s.mem := by
  first | rfl | (unfold logFab; (try dsimp only); (repeat' split) <;> (try rfl) <;> simp)
@[simp] theorem logFab_cores (p : Nat) (low : Nat) (l : Nat) (p0 : Nat) (p1 : Nat) (p2 : Nat) (p3 : Nat) (s : State) : (logFab p low l p0 p1 p2 p3 s).cores = s.cores :=
  (logFab_law ..).1 .cores (by decide)
@[simp] theorem logFab_clus (p : Nat) (low : Nat) (l : Nat) (p0 : Nat) (p1 : Nat) (p2 : Nat) (p3 : Nat) (s : State) : (logFab p low l p0 p1 p2 p3 s).clus = s.clus :=
  (logFab_law ..).1 .clus (by decide)
@[simp] theorem logFab_ctxs (p : Nat) (low : Nat) (l : Nat) (p0 : Nat) (p1 : Nat) (p2 : Nat) (p3 : Nat) (s : State) : (logFab p low l p0 p1 p2 p3 s).ctxs = s.ctxs :=
  (logFab_law ..).1 .ctxs (by decide)
@[simp] theorem logFab_transit (p : Nat) (low : Nat) (l : Nat) (p0 : Nat) (p1 : Nat) (p2 : Nat) (p3 : Nat) (s : State) : (logFab p low l p0 p1 p2 p3 s).transit = s.transit :=
  (logFab_law ..).1 .transit (by decide)
@[simp] theorem logFab_ddr (p : Nat) (low : Nat) (l : Nat) (p0 : Nat) (p1 : Nat) (p2 : Nat) (p3 : Nat) (s : State) : (logFab p low l p0 p1 p2 p3 s).ddr = s.ddr :=
  (logFab_law ..).1 .ddr (by decide)
@[simp] theorem logFab_hst (p : Nat) (low : Nat) (l : Nat) (p0 : Nat) (p1 : Nat) (p2 : Nat) (p3 : Nat) (s : State) : (logFab p low l p0 p1 p2 p3 s).hst = s.hst :=
  (logFab_law ..).1 .hst (by decide)
@[simp] theorem logFab_idb (p : Nat) (low : Nat) (l : Nat) (p0 : Nat) (p1 : Nat) (p2 : Nat) (p3 : Nat) (s : State) : (logFab p low l p0 p1 p2 p3 s).idb = s.idb :=
  (logFab_law ..).1 .idb (by decide)
@[simp] theorem logFab_rst (p : Nat) (low : Nat) (l : Nat) (p0 : Nat) (p1 : Nat) (p2 : Nat) (p3 : Nat) (s : State) : (logFab p low l p0 p1 p2 p3 s).rst = s.rst :=
  (logFab_law ..).1 .rst (by decide)
@[simp] theorem logFab_fab (p : Nat) (low : Nat) (l : Nat) (p0 : Nat) (p1 : Nat) (p2 : Nat) (p3 : Nat) (s : State) : (logFab p low l p0 p1 p2 p3 s).fab = s.fab :=
  (logFab_law ..).1 .fab (by decide)
@[simp] theorem logFab_link (p : Nat) (low : Nat) (l : Nat) (p0 : Nat) (p1 : Nat) (p2 : Nat) (p3 : Nat) (s : State) : (logFab p low l p0 p1 p2 p3 s).link = s.link :=
  (logFab_law ..).1 .link (by decide)
@[simp] theorem logFab_steer (p : Nat) (low : Nat) (l : Nat) (p0 : Nat) (p1 : Nat) (p2 : Nat) (p3 : Nat) (s : State) : (logFab p low l p0 p1 p2 p3 s).steer = s.steer :=
  (logFab_law ..).1 .steer (by decide)
@[simp] theorem logFab_stew (p : Nat) (low : Nat) (l : Nat) (p0 : Nat) (p1 : Nat) (p2 : Nat) (p3 : Nat) (s : State) : (logFab p low l p0 p1 p2 p3 s).stew = s.stew :=
  (logFab_law ..).1 .stew (by decide)
@[simp] theorem logFab_ckpt (p : Nat) (low : Nat) (l : Nat) (p0 : Nat) (p1 : Nat) (p2 : Nat) (p3 : Nat) (s : State) : (logFab p low l p0 p1 p2 p3 s).ckpt = s.ckpt :=
  (logFab_law ..).1 .ckpt (by decide)
@[simp] theorem logFab_time (p : Nat) (low : Nat) (l : Nat) (p0 : Nat) (p1 : Nat) (p2 : Nat) (p3 : Nat) (s : State) : (logFab p low l p0 p1 p2 p3 s).time = s.time :=
  (logFab_law ..).1 .time (by decide)
@[simp] theorem logFab_boot (p : Nat) (low : Nat) (l : Nat) (p0 : Nat) (p1 : Nat) (p2 : Nat) (p3 : Nat) (s : State) : (logFab p low l p0 p1 p2 p3 s).boot = s.boot :=
  (logFab_law ..).1 .boot (by decide)
@[simp] theorem logFab_pwr (p : Nat) (low : Nat) (l : Nat) (p0 : Nat) (p1 : Nat) (p2 : Nat) (p3 : Nat) (s : State) : (logFab p low l p0 p1 p2 p3 s).pwr = s.pwr :=
  (logFab_law ..).1 .pwr (by decide)
@[simp] theorem logFab_upd (p : Nat) (low : Nat) (l : Nat) (p0 : Nat) (p1 : Nat) (p2 : Nat) (p3 : Nat) (s : State) : (logFab p low l p0 p1 p2 p3 s).upd = s.upd :=
  (logFab_law ..).1 .upd (by decide)
@[simp] theorem logFab_pins (p : Nat) (low : Nat) (l : Nat) (p0 : Nat) (p1 : Nat) (p2 : Nat) (p3 : Nat) (s : State) : (logFab p low l p0 p1 p2 p3 s).pins = s.pins :=
  (logFab_law ..).1 .pins (by decide)
@[simp] theorem logFab_eth (p : Nat) (low : Nat) (l : Nat) (p0 : Nat) (p1 : Nat) (p2 : Nat) (p3 : Nat) (s : State) : (logFab p low l p0 p1 p2 p3 s).eth = s.eth :=
  (logFab_law ..).1 .eth (by decide)
@[simp] theorem logFab_side (p : Nat) (low : Nat) (l : Nat) (p0 : Nat) (p1 : Nat) (p2 : Nat) (p3 : Nat) (s : State) : (logFab p low l p0 p1 p2 p3 s).side = s.side :=
  (logFab_law ..).1 .side (by decide)
@[simp] theorem logFab_sent (p : Nat) (low : Nat) (l : Nat) (p0 : Nat) (p1 : Nat) (p2 : Nat) (p3 : Nat) (s : State) : (logFab p low l p0 p1 p2 p3 s).sent = s.sent :=
  (logFab_law ..).1 .sent (by decide)
@[simp] theorem logFab_pending (p : Nat) (low : Nat) (l : Nat) (p0 : Nat) (p1 : Nat) (p2 : Nat) (p3 : Nat) (s : State) : (logFab p low l p0 p1 p2 p3 s).pending = s.pending :=
  (logFab_law ..).1 .pending (by decide)

/-! ### logFabRate -/

@[simp] theorem logFabRate_now (period : Nat) (p : Nat) (low : Nat) (l : Nat) (p0 : Nat) (p1 : Nat) (p2 : Nat) (p3 : Nat) (s : State) : (logFabRate period p low l p0 p1 p2 p3 s).now = s.now :=
  (logFabRate_law ..).1 .now (by decide)
@[simp] theorem logFabRate_freeCtr (period : Nat) (p : Nat) (low : Nat) (l : Nat) (p0 : Nat) (p1 : Nat) (p2 : Nat) (p3 : Nat) (s : State) : (logFabRate period p low l p0 p1 p2 p3 s).freeCtr = s.freeCtr :=
  (logFabRate_law ..).1 .freeCtr (by decide)
@[simp] theorem logFabRate_mem (period : Nat) (p : Nat) (low : Nat) (l : Nat) (p0 : Nat) (p1 : Nat) (p2 : Nat) (p3 : Nat) (s : State) : (logFabRate period p low l p0 p1 p2 p3 s).mem = s.mem := by
  first | rfl | (unfold logFabRate; (try dsimp only); (repeat' split) <;> (try rfl) <;> simp)
@[simp] theorem logFabRate_cores (period : Nat) (p : Nat) (low : Nat) (l : Nat) (p0 : Nat) (p1 : Nat) (p2 : Nat) (p3 : Nat) (s : State) : (logFabRate period p low l p0 p1 p2 p3 s).cores = s.cores :=
  (logFabRate_law ..).1 .cores (by decide)
@[simp] theorem logFabRate_clus (period : Nat) (p : Nat) (low : Nat) (l : Nat) (p0 : Nat) (p1 : Nat) (p2 : Nat) (p3 : Nat) (s : State) : (logFabRate period p low l p0 p1 p2 p3 s).clus = s.clus :=
  (logFabRate_law ..).1 .clus (by decide)
@[simp] theorem logFabRate_ctxs (period : Nat) (p : Nat) (low : Nat) (l : Nat) (p0 : Nat) (p1 : Nat) (p2 : Nat) (p3 : Nat) (s : State) : (logFabRate period p low l p0 p1 p2 p3 s).ctxs = s.ctxs :=
  (logFabRate_law ..).1 .ctxs (by decide)
@[simp] theorem logFabRate_transit (period : Nat) (p : Nat) (low : Nat) (l : Nat) (p0 : Nat) (p1 : Nat) (p2 : Nat) (p3 : Nat) (s : State) : (logFabRate period p low l p0 p1 p2 p3 s).transit = s.transit :=
  (logFabRate_law ..).1 .transit (by decide)
@[simp] theorem logFabRate_ddr (period : Nat) (p : Nat) (low : Nat) (l : Nat) (p0 : Nat) (p1 : Nat) (p2 : Nat) (p3 : Nat) (s : State) : (logFabRate period p low l p0 p1 p2 p3 s).ddr = s.ddr :=
  (logFabRate_law ..).1 .ddr (by decide)
@[simp] theorem logFabRate_hst (period : Nat) (p : Nat) (low : Nat) (l : Nat) (p0 : Nat) (p1 : Nat) (p2 : Nat) (p3 : Nat) (s : State) : (logFabRate period p low l p0 p1 p2 p3 s).hst = s.hst :=
  (logFabRate_law ..).1 .hst (by decide)
@[simp] theorem logFabRate_idb (period : Nat) (p : Nat) (low : Nat) (l : Nat) (p0 : Nat) (p1 : Nat) (p2 : Nat) (p3 : Nat) (s : State) : (logFabRate period p low l p0 p1 p2 p3 s).idb = s.idb :=
  (logFabRate_law ..).1 .idb (by decide)
@[simp] theorem logFabRate_rst (period : Nat) (p : Nat) (low : Nat) (l : Nat) (p0 : Nat) (p1 : Nat) (p2 : Nat) (p3 : Nat) (s : State) : (logFabRate period p low l p0 p1 p2 p3 s).rst = s.rst :=
  (logFabRate_law ..).1 .rst (by decide)
@[simp] theorem logFabRate_fab (period : Nat) (p : Nat) (low : Nat) (l : Nat) (p0 : Nat) (p1 : Nat) (p2 : Nat) (p3 : Nat) (s : State) : (logFabRate period p low l p0 p1 p2 p3 s).fab = s.fab :=
  (logFabRate_law ..).1 .fab (by decide)
@[simp] theorem logFabRate_link (period : Nat) (p : Nat) (low : Nat) (l : Nat) (p0 : Nat) (p1 : Nat) (p2 : Nat) (p3 : Nat) (s : State) : (logFabRate period p low l p0 p1 p2 p3 s).link = s.link :=
  (logFabRate_law ..).1 .link (by decide)
@[simp] theorem logFabRate_steer (period : Nat) (p : Nat) (low : Nat) (l : Nat) (p0 : Nat) (p1 : Nat) (p2 : Nat) (p3 : Nat) (s : State) : (logFabRate period p low l p0 p1 p2 p3 s).steer = s.steer :=
  (logFabRate_law ..).1 .steer (by decide)
@[simp] theorem logFabRate_stew (period : Nat) (p : Nat) (low : Nat) (l : Nat) (p0 : Nat) (p1 : Nat) (p2 : Nat) (p3 : Nat) (s : State) : (logFabRate period p low l p0 p1 p2 p3 s).stew = s.stew :=
  (logFabRate_law ..).1 .stew (by decide)
@[simp] theorem logFabRate_ckpt (period : Nat) (p : Nat) (low : Nat) (l : Nat) (p0 : Nat) (p1 : Nat) (p2 : Nat) (p3 : Nat) (s : State) : (logFabRate period p low l p0 p1 p2 p3 s).ckpt = s.ckpt :=
  (logFabRate_law ..).1 .ckpt (by decide)
@[simp] theorem logFabRate_time (period : Nat) (p : Nat) (low : Nat) (l : Nat) (p0 : Nat) (p1 : Nat) (p2 : Nat) (p3 : Nat) (s : State) : (logFabRate period p low l p0 p1 p2 p3 s).time = s.time :=
  (logFabRate_law ..).1 .time (by decide)
@[simp] theorem logFabRate_boot (period : Nat) (p : Nat) (low : Nat) (l : Nat) (p0 : Nat) (p1 : Nat) (p2 : Nat) (p3 : Nat) (s : State) : (logFabRate period p low l p0 p1 p2 p3 s).boot = s.boot :=
  (logFabRate_law ..).1 .boot (by decide)
@[simp] theorem logFabRate_pwr (period : Nat) (p : Nat) (low : Nat) (l : Nat) (p0 : Nat) (p1 : Nat) (p2 : Nat) (p3 : Nat) (s : State) : (logFabRate period p low l p0 p1 p2 p3 s).pwr = s.pwr :=
  (logFabRate_law ..).1 .pwr (by decide)
@[simp] theorem logFabRate_upd (period : Nat) (p : Nat) (low : Nat) (l : Nat) (p0 : Nat) (p1 : Nat) (p2 : Nat) (p3 : Nat) (s : State) : (logFabRate period p low l p0 p1 p2 p3 s).upd = s.upd :=
  (logFabRate_law ..).1 .upd (by decide)
@[simp] theorem logFabRate_pins (period : Nat) (p : Nat) (low : Nat) (l : Nat) (p0 : Nat) (p1 : Nat) (p2 : Nat) (p3 : Nat) (s : State) : (logFabRate period p low l p0 p1 p2 p3 s).pins = s.pins :=
  (logFabRate_law ..).1 .pins (by decide)
@[simp] theorem logFabRate_eth (period : Nat) (p : Nat) (low : Nat) (l : Nat) (p0 : Nat) (p1 : Nat) (p2 : Nat) (p3 : Nat) (s : State) : (logFabRate period p low l p0 p1 p2 p3 s).eth = s.eth :=
  (logFabRate_law ..).1 .eth (by decide)
@[simp] theorem logFabRate_side (period : Nat) (p : Nat) (low : Nat) (l : Nat) (p0 : Nat) (p1 : Nat) (p2 : Nat) (p3 : Nat) (s : State) : (logFabRate period p low l p0 p1 p2 p3 s).side = s.side :=
  (logFabRate_law ..).1 .side (by decide)
@[simp] theorem logFabRate_sent (period : Nat) (p : Nat) (low : Nat) (l : Nat) (p0 : Nat) (p1 : Nat) (p2 : Nat) (p3 : Nat) (s : State) : (logFabRate period p low l p0 p1 p2 p3 s).sent = s.sent :=
  (logFabRate_law ..).1 .sent (by decide)
@[simp] theorem logFabRate_pending (period : Nat) (p : Nat) (low : Nat) (l : Nat) (p0 : Nat) (p1 : Nat) (p2 : Nat) (p3 : Nat) (s : State) : (logFabRate period p low l p0 p1 p2 p3 s).pending = s.pending :=
  (logFabRate_law ..).1 .pending (by decide)

/-! ### coreFault -/

@[simp] theorem coreFault_now (g : Nat) (i : Nat) (s : State) : (coreFault g i s).now = s.now :=
  (coreFault_law ..).1 .now (by decide)
@[simp] theorem coreFault_freeCtr (g : Nat) (i : Nat) (s : State) : (coreFault g i s).freeCtr = s.freeCtr :=
  (coreFault_law ..).1 .freeCtr (by decide)
@[simp] theorem coreFault_mem (g : Nat) (i : Nat) (s : State) : (coreFault g i s).mem = s.mem := by
  first | rfl | (unfold coreFault; (try dsimp only); (repeat' split) <;> (try rfl) <;> simp)
@[simp] theorem coreFault_clus (g : Nat) (i : Nat) (s : State) : (coreFault g i s).clus = s.clus :=
  (coreFault_law ..).1 .clus (by decide)
@[simp] theorem coreFault_ctxs (g : Nat) (i : Nat) (s : State) : (coreFault g i s).ctxs = s.ctxs :=
  (coreFault_law ..).1 .ctxs (by decide)
@[simp] theorem coreFault_transit (g : Nat) (i : Nat) (s : State) : (coreFault g i s).transit = s.transit :=
  (coreFault_law ..).1 .transit (by decide)
@[simp] theorem coreFault_ddr (g : Nat) (i : Nat) (s : State) : (coreFault g i s).ddr = s.ddr :=
  (coreFault_law ..).1 .ddr (by decide)
@[simp] theorem coreFault_hst (g : Nat) (i : Nat) (s : State) : (coreFault g i s).hst = s.hst :=
  (coreFault_law ..).1 .hst (by decide)
@[simp] theorem coreFault_idb (g : Nat) (i : Nat) (s : State) : (coreFault g i s).idb = s.idb :=
  (coreFault_law ..).1 .idb (by decide)
@[simp] theorem coreFault_rst (g : Nat) (i : Nat) (s : State) : (coreFault g i s).rst = s.rst :=
  (coreFault_law ..).1 .rst (by decide)
@[simp] theorem coreFault_tally (g : Nat) (i : Nat) (s : State) : (coreFault g i s).tally = s.tally :=
  (coreFault_law ..).1 .tally (by decide)
@[simp] theorem coreFault_log (g : Nat) (i : Nat) (s : State) : (coreFault g i s).log = s.log :=
  (coreFault_law ..).1 .log (by decide)
@[simp] theorem coreFault_fab (g : Nat) (i : Nat) (s : State) : (coreFault g i s).fab = s.fab :=
  (coreFault_law ..).1 .fab (by decide)
@[simp] theorem coreFault_link (g : Nat) (i : Nat) (s : State) : (coreFault g i s).link = s.link :=
  (coreFault_law ..).1 .link (by decide)
@[simp] theorem coreFault_steer (g : Nat) (i : Nat) (s : State) : (coreFault g i s).steer = s.steer :=
  (coreFault_law ..).1 .steer (by decide)
@[simp] theorem coreFault_stew (g : Nat) (i : Nat) (s : State) : (coreFault g i s).stew = s.stew :=
  (coreFault_law ..).1 .stew (by decide)
@[simp] theorem coreFault_ckpt (g : Nat) (i : Nat) (s : State) : (coreFault g i s).ckpt = s.ckpt :=
  (coreFault_law ..).1 .ckpt (by decide)
@[simp] theorem coreFault_time (g : Nat) (i : Nat) (s : State) : (coreFault g i s).time = s.time :=
  (coreFault_law ..).1 .time (by decide)
@[simp] theorem coreFault_boot (g : Nat) (i : Nat) (s : State) : (coreFault g i s).boot = s.boot :=
  (coreFault_law ..).1 .boot (by decide)
@[simp] theorem coreFault_pwr (g : Nat) (i : Nat) (s : State) : (coreFault g i s).pwr = s.pwr :=
  (coreFault_law ..).1 .pwr (by decide)
@[simp] theorem coreFault_upd (g : Nat) (i : Nat) (s : State) : (coreFault g i s).upd = s.upd :=
  (coreFault_law ..).1 .upd (by decide)
@[simp] theorem coreFault_pins (g : Nat) (i : Nat) (s : State) : (coreFault g i s).pins = s.pins :=
  (coreFault_law ..).1 .pins (by decide)
@[simp] theorem coreFault_eth (g : Nat) (i : Nat) (s : State) : (coreFault g i s).eth = s.eth :=
  (coreFault_law ..).1 .eth (by decide)
@[simp] theorem coreFault_side (g : Nat) (i : Nat) (s : State) : (coreFault g i s).side = s.side :=
  (coreFault_law ..).1 .side (by decide)
@[simp] theorem coreFault_sent (g : Nat) (i : Nat) (s : State) : (coreFault g i s).sent = s.sent :=
  (coreFault_law ..).1 .sent (by decide)
@[simp] theorem coreFault_pending (g : Nat) (i : Nat) (s : State) : (coreFault g i s).pending = s.pending :=
  (coreFault_law ..).1 .pending (by decide)

/-! ### cluFault -/

@[simp] theorem cluFault_now (c : Nat) (i : Nat) (s : State) : (cluFault c i s).now = s.now :=
  (cluFault_law ..).1 .now (by decide)
@[simp] theorem cluFault_freeCtr (c : Nat) (i : Nat) (s : State) : (cluFault c i s).freeCtr = s.freeCtr :=
  (cluFault_law ..).1 .freeCtr (by decide)
@[simp] theorem cluFault_mem (c : Nat) (i : Nat) (s : State) : (cluFault c i s).mem = s.mem := by
  first | rfl | (unfold cluFault; (try dsimp only); (repeat' split) <;> (try rfl) <;> simp)
@[simp] theorem cluFault_cores (c : Nat) (i : Nat) (s : State) : (cluFault c i s).cores = s.cores :=
  (cluFault_law ..).1 .cores (by decide)
@[simp] theorem cluFault_ctxs (c : Nat) (i : Nat) (s : State) : (cluFault c i s).ctxs = s.ctxs :=
  (cluFault_law ..).1 .ctxs (by decide)
@[simp] theorem cluFault_transit (c : Nat) (i : Nat) (s : State) : (cluFault c i s).transit = s.transit :=
  (cluFault_law ..).1 .transit (by decide)
@[simp] theorem cluFault_ddr (c : Nat) (i : Nat) (s : State) : (cluFault c i s).ddr = s.ddr :=
  (cluFault_law ..).1 .ddr (by decide)
@[simp] theorem cluFault_hst (c : Nat) (i : Nat) (s : State) : (cluFault c i s).hst = s.hst :=
  (cluFault_law ..).1 .hst (by decide)
@[simp] theorem cluFault_idb (c : Nat) (i : Nat) (s : State) : (cluFault c i s).idb = s.idb :=
  (cluFault_law ..).1 .idb (by decide)
@[simp] theorem cluFault_rst (c : Nat) (i : Nat) (s : State) : (cluFault c i s).rst = s.rst :=
  (cluFault_law ..).1 .rst (by decide)
@[simp] theorem cluFault_tally (c : Nat) (i : Nat) (s : State) : (cluFault c i s).tally = s.tally :=
  (cluFault_law ..).1 .tally (by decide)
@[simp] theorem cluFault_log (c : Nat) (i : Nat) (s : State) : (cluFault c i s).log = s.log :=
  (cluFault_law ..).1 .log (by decide)
@[simp] theorem cluFault_fab (c : Nat) (i : Nat) (s : State) : (cluFault c i s).fab = s.fab :=
  (cluFault_law ..).1 .fab (by decide)
@[simp] theorem cluFault_link (c : Nat) (i : Nat) (s : State) : (cluFault c i s).link = s.link :=
  (cluFault_law ..).1 .link (by decide)
@[simp] theorem cluFault_steer (c : Nat) (i : Nat) (s : State) : (cluFault c i s).steer = s.steer :=
  (cluFault_law ..).1 .steer (by decide)
@[simp] theorem cluFault_stew (c : Nat) (i : Nat) (s : State) : (cluFault c i s).stew = s.stew :=
  (cluFault_law ..).1 .stew (by decide)
@[simp] theorem cluFault_ckpt (c : Nat) (i : Nat) (s : State) : (cluFault c i s).ckpt = s.ckpt :=
  (cluFault_law ..).1 .ckpt (by decide)
@[simp] theorem cluFault_time (c : Nat) (i : Nat) (s : State) : (cluFault c i s).time = s.time :=
  (cluFault_law ..).1 .time (by decide)
@[simp] theorem cluFault_boot (c : Nat) (i : Nat) (s : State) : (cluFault c i s).boot = s.boot :=
  (cluFault_law ..).1 .boot (by decide)
@[simp] theorem cluFault_pwr (c : Nat) (i : Nat) (s : State) : (cluFault c i s).pwr = s.pwr :=
  (cluFault_law ..).1 .pwr (by decide)
@[simp] theorem cluFault_upd (c : Nat) (i : Nat) (s : State) : (cluFault c i s).upd = s.upd :=
  (cluFault_law ..).1 .upd (by decide)
@[simp] theorem cluFault_pins (c : Nat) (i : Nat) (s : State) : (cluFault c i s).pins = s.pins :=
  (cluFault_law ..).1 .pins (by decide)
@[simp] theorem cluFault_eth (c : Nat) (i : Nat) (s : State) : (cluFault c i s).eth = s.eth :=
  (cluFault_law ..).1 .eth (by decide)
@[simp] theorem cluFault_side (c : Nat) (i : Nat) (s : State) : (cluFault c i s).side = s.side :=
  (cluFault_law ..).1 .side (by decide)
@[simp] theorem cluFault_sent (c : Nat) (i : Nat) (s : State) : (cluFault c i s).sent = s.sent :=
  (cluFault_law ..).1 .sent (by decide)
@[simp] theorem cluFault_pending (c : Nat) (i : Nat) (s : State) : (cluFault c i s).pending = s.pending :=
  (cluFault_law ..).1 .pending (by decide)

/-! ### sendMsix -/

@[simp] theorem sendMsix_now (v : Nat) (s : State) : (sendMsix v s).now = s.now :=
  (sendMsix_law ..).1 .now (by decide)
@[simp] theorem sendMsix_freeCtr (v : Nat) (s : State) : (sendMsix v s).freeCtr = s.freeCtr :=
  (sendMsix_law ..).1 .freeCtr (by decide)
@[simp] theorem sendMsix_mem (v : Nat) (s : State) : (sendMsix v s).mem = s.mem := by
  first | rfl | (unfold sendMsix; (try dsimp only); (repeat' split) <;> (try rfl) <;> simp)
@[simp] theorem sendMsix_cores (v : Nat) (s : State) : (sendMsix v s).cores = s.cores :=
  (sendMsix_law ..).1 .cores (by decide)
@[simp] theorem sendMsix_clus (v : Nat) (s : State) : (sendMsix v s).clus = s.clus :=
  (sendMsix_law ..).1 .clus (by decide)
@[simp] theorem sendMsix_ctxs (v : Nat) (s : State) : (sendMsix v s).ctxs = s.ctxs :=
  (sendMsix_law ..).1 .ctxs (by decide)
@[simp] theorem sendMsix_transit (v : Nat) (s : State) : (sendMsix v s).transit = s.transit :=
  (sendMsix_law ..).1 .transit (by decide)
@[simp] theorem sendMsix_ddr (v : Nat) (s : State) : (sendMsix v s).ddr = s.ddr :=
  (sendMsix_law ..).1 .ddr (by decide)
@[simp] theorem sendMsix_idb (v : Nat) (s : State) : (sendMsix v s).idb = s.idb :=
  (sendMsix_law ..).1 .idb (by decide)
@[simp] theorem sendMsix_rst (v : Nat) (s : State) : (sendMsix v s).rst = s.rst :=
  (sendMsix_law ..).1 .rst (by decide)
@[simp] theorem sendMsix_log (v : Nat) (s : State) : (sendMsix v s).log = s.log :=
  (sendMsix_law ..).1 .log (by decide)
@[simp] theorem sendMsix_fab (v : Nat) (s : State) : (sendMsix v s).fab = s.fab :=
  (sendMsix_law ..).1 .fab (by decide)
@[simp] theorem sendMsix_link (v : Nat) (s : State) : (sendMsix v s).link = s.link :=
  (sendMsix_law ..).1 .link (by decide)
@[simp] theorem sendMsix_steer (v : Nat) (s : State) : (sendMsix v s).steer = s.steer :=
  (sendMsix_law ..).1 .steer (by decide)
@[simp] theorem sendMsix_stew (v : Nat) (s : State) : (sendMsix v s).stew = s.stew :=
  (sendMsix_law ..).1 .stew (by decide)
@[simp] theorem sendMsix_ckpt (v : Nat) (s : State) : (sendMsix v s).ckpt = s.ckpt :=
  (sendMsix_law ..).1 .ckpt (by decide)
@[simp] theorem sendMsix_time (v : Nat) (s : State) : (sendMsix v s).time = s.time :=
  (sendMsix_law ..).1 .time (by decide)
@[simp] theorem sendMsix_boot (v : Nat) (s : State) : (sendMsix v s).boot = s.boot :=
  (sendMsix_law ..).1 .boot (by decide)
@[simp] theorem sendMsix_pwr (v : Nat) (s : State) : (sendMsix v s).pwr = s.pwr :=
  (sendMsix_law ..).1 .pwr (by decide)
@[simp] theorem sendMsix_upd (v : Nat) (s : State) : (sendMsix v s).upd = s.upd :=
  (sendMsix_law ..).1 .upd (by decide)
@[simp] theorem sendMsix_pins (v : Nat) (s : State) : (sendMsix v s).pins = s.pins :=
  (sendMsix_law ..).1 .pins (by decide)
@[simp] theorem sendMsix_eth (v : Nat) (s : State) : (sendMsix v s).eth = s.eth :=
  (sendMsix_law ..).1 .eth (by decide)
@[simp] theorem sendMsix_side (v : Nat) (s : State) : (sendMsix v s).side = s.side :=
  (sendMsix_law ..).1 .side (by decide)
@[simp] theorem sendMsix_pending (v : Nat) (s : State) : (sendMsix v s).pending = s.pending :=
  (sendMsix_law ..).1 .pending (by decide)

/-! ### putCq -/

@[simp] theorem putCq_now (r : Nat) (bs : List Byte) (s : State) : (putCq r bs s).now = s.now :=
  (putCq_law ..).1 .now (by decide)
@[simp] theorem putCq_freeCtr (r : Nat) (bs : List Byte) (s : State) : (putCq r bs s).freeCtr = s.freeCtr :=
  (putCq_law ..).1 .freeCtr (by decide)
@[simp] theorem putCq_cores (r : Nat) (bs : List Byte) (s : State) : (putCq r bs s).cores = s.cores :=
  (putCq_law ..).1 .cores (by decide)
@[simp] theorem putCq_clus (r : Nat) (bs : List Byte) (s : State) : (putCq r bs s).clus = s.clus :=
  (putCq_law ..).1 .clus (by decide)
@[simp] theorem putCq_ctxs (r : Nat) (bs : List Byte) (s : State) : (putCq r bs s).ctxs = s.ctxs :=
  (putCq_law ..).1 .ctxs (by decide)
@[simp] theorem putCq_transit (r : Nat) (bs : List Byte) (s : State) : (putCq r bs s).transit = s.transit :=
  (putCq_law ..).1 .transit (by decide)
@[simp] theorem putCq_ddr (r : Nat) (bs : List Byte) (s : State) : (putCq r bs s).ddr = s.ddr :=
  (putCq_law ..).1 .ddr (by decide)
@[simp] theorem putCq_idb (r : Nat) (bs : List Byte) (s : State) : (putCq r bs s).idb = s.idb :=
  (putCq_law ..).1 .idb (by decide)
@[simp] theorem putCq_rst (r : Nat) (bs : List Byte) (s : State) : (putCq r bs s).rst = s.rst :=
  (putCq_law ..).1 .rst (by decide)
@[simp] theorem putCq_log (r : Nat) (bs : List Byte) (s : State) : (putCq r bs s).log = s.log :=
  (putCq_law ..).1 .log (by decide)
@[simp] theorem putCq_fab (r : Nat) (bs : List Byte) (s : State) : (putCq r bs s).fab = s.fab :=
  (putCq_law ..).1 .fab (by decide)
@[simp] theorem putCq_link (r : Nat) (bs : List Byte) (s : State) : (putCq r bs s).link = s.link :=
  (putCq_law ..).1 .link (by decide)
@[simp] theorem putCq_steer (r : Nat) (bs : List Byte) (s : State) : (putCq r bs s).steer = s.steer :=
  (putCq_law ..).1 .steer (by decide)
@[simp] theorem putCq_stew (r : Nat) (bs : List Byte) (s : State) : (putCq r bs s).stew = s.stew :=
  (putCq_law ..).1 .stew (by decide)
@[simp] theorem putCq_ckpt (r : Nat) (bs : List Byte) (s : State) : (putCq r bs s).ckpt = s.ckpt :=
  (putCq_law ..).1 .ckpt (by decide)
@[simp] theorem putCq_time (r : Nat) (bs : List Byte) (s : State) : (putCq r bs s).time = s.time :=
  (putCq_law ..).1 .time (by decide)
@[simp] theorem putCq_boot (r : Nat) (bs : List Byte) (s : State) : (putCq r bs s).boot = s.boot :=
  (putCq_law ..).1 .boot (by decide)
@[simp] theorem putCq_pwr (r : Nat) (bs : List Byte) (s : State) : (putCq r bs s).pwr = s.pwr :=
  (putCq_law ..).1 .pwr (by decide)
@[simp] theorem putCq_upd (r : Nat) (bs : List Byte) (s : State) : (putCq r bs s).upd = s.upd :=
  (putCq_law ..).1 .upd (by decide)
@[simp] theorem putCq_pins (r : Nat) (bs : List Byte) (s : State) : (putCq r bs s).pins = s.pins :=
  (putCq_law ..).1 .pins (by decide)
@[simp] theorem putCq_eth (r : Nat) (bs : List Byte) (s : State) : (putCq r bs s).eth = s.eth :=
  (putCq_law ..).1 .eth (by decide)
@[simp] theorem putCq_side (r : Nat) (bs : List Byte) (s : State) : (putCq r bs s).side = s.side :=
  (putCq_law ..).1 .side (by decide)
@[simp] theorem putCq_pending (r : Nat) (bs : List Byte) (s : State) : (putCq r bs s).pending = s.pending :=
  (putCq_law ..).1 .pending (by decide)

/-! ### complete -/

@[simp] theorem complete_now (r : Nat) (e : Entry) (status : Nat) (result : List Byte) (s : State) : (complete r e status result s).now = s.now :=
  (complete_law ..).1 .now (by decide)
@[simp] theorem complete_freeCtr (r : Nat) (e : Entry) (status : Nat) (result : List Byte) (s : State) : (complete r e status result s).freeCtr = s.freeCtr :=
  (complete_law ..).1 .freeCtr (by decide)
@[simp] theorem complete_cores (r : Nat) (e : Entry) (status : Nat) (result : List Byte) (s : State) : (complete r e status result s).cores = s.cores :=
  (complete_law ..).1 .cores (by decide)
@[simp] theorem complete_clus (r : Nat) (e : Entry) (status : Nat) (result : List Byte) (s : State) : (complete r e status result s).clus = s.clus :=
  (complete_law ..).1 .clus (by decide)
@[simp] theorem complete_ctxs (r : Nat) (e : Entry) (status : Nat) (result : List Byte) (s : State) : (complete r e status result s).ctxs = s.ctxs :=
  (complete_law ..).1 .ctxs (by decide)
@[simp] theorem complete_transit (r : Nat) (e : Entry) (status : Nat) (result : List Byte) (s : State) : (complete r e status result s).transit = s.transit :=
  (complete_law ..).1 .transit (by decide)
@[simp] theorem complete_ddr (r : Nat) (e : Entry) (status : Nat) (result : List Byte) (s : State) : (complete r e status result s).ddr = s.ddr :=
  (complete_law ..).1 .ddr (by decide)
@[simp] theorem complete_idb (r : Nat) (e : Entry) (status : Nat) (result : List Byte) (s : State) : (complete r e status result s).idb = s.idb :=
  (complete_law ..).1 .idb (by decide)
@[simp] theorem complete_rst (r : Nat) (e : Entry) (status : Nat) (result : List Byte) (s : State) : (complete r e status result s).rst = s.rst :=
  (complete_law ..).1 .rst (by decide)
@[simp] theorem complete_log (r : Nat) (e : Entry) (status : Nat) (result : List Byte) (s : State) : (complete r e status result s).log = s.log :=
  (complete_law ..).1 .log (by decide)
@[simp] theorem complete_fab (r : Nat) (e : Entry) (status : Nat) (result : List Byte) (s : State) : (complete r e status result s).fab = s.fab :=
  (complete_law ..).1 .fab (by decide)
@[simp] theorem complete_link (r : Nat) (e : Entry) (status : Nat) (result : List Byte) (s : State) : (complete r e status result s).link = s.link :=
  (complete_law ..).1 .link (by decide)
@[simp] theorem complete_steer (r : Nat) (e : Entry) (status : Nat) (result : List Byte) (s : State) : (complete r e status result s).steer = s.steer :=
  (complete_law ..).1 .steer (by decide)
@[simp] theorem complete_stew (r : Nat) (e : Entry) (status : Nat) (result : List Byte) (s : State) : (complete r e status result s).stew = s.stew :=
  (complete_law ..).1 .stew (by decide)
@[simp] theorem complete_ckpt (r : Nat) (e : Entry) (status : Nat) (result : List Byte) (s : State) : (complete r e status result s).ckpt = s.ckpt :=
  (complete_law ..).1 .ckpt (by decide)
@[simp] theorem complete_time (r : Nat) (e : Entry) (status : Nat) (result : List Byte) (s : State) : (complete r e status result s).time = s.time :=
  (complete_law ..).1 .time (by decide)
@[simp] theorem complete_boot (r : Nat) (e : Entry) (status : Nat) (result : List Byte) (s : State) : (complete r e status result s).boot = s.boot :=
  (complete_law ..).1 .boot (by decide)
@[simp] theorem complete_pwr (r : Nat) (e : Entry) (status : Nat) (result : List Byte) (s : State) : (complete r e status result s).pwr = s.pwr :=
  (complete_law ..).1 .pwr (by decide)
@[simp] theorem complete_upd (r : Nat) (e : Entry) (status : Nat) (result : List Byte) (s : State) : (complete r e status result s).upd = s.upd :=
  (complete_law ..).1 .upd (by decide)
@[simp] theorem complete_pins (r : Nat) (e : Entry) (status : Nat) (result : List Byte) (s : State) : (complete r e status result s).pins = s.pins :=
  (complete_law ..).1 .pins (by decide)
@[simp] theorem complete_eth (r : Nat) (e : Entry) (status : Nat) (result : List Byte) (s : State) : (complete r e status result s).eth = s.eth :=
  (complete_law ..).1 .eth (by decide)
@[simp] theorem complete_side (r : Nat) (e : Entry) (status : Nat) (result : List Byte) (s : State) : (complete r e status result s).side = s.side :=
  (complete_law ..).1 .side (by decide)
@[simp] theorem complete_pending (r : Nat) (e : Entry) (status : Nat) (result : List Byte) (s : State) : (complete r e status result s).pending = s.pending :=
  (complete_law ..).1 .pending (by decide)

/-! ### dropEvent -/

@[simp] theorem dropEvent_now (s : State) : (dropEvent s).now = s.now :=
  (dropEvent_law ..).1 .now (by decide)
@[simp] theorem dropEvent_freeCtr (s : State) : (dropEvent s).freeCtr = s.freeCtr :=
  (dropEvent_law ..).1 .freeCtr (by decide)
@[simp] theorem dropEvent_mem (s : State) : (dropEvent s).mem = s.mem := by
  first | rfl | (unfold dropEvent; (try dsimp only); (repeat' split) <;> (try rfl) <;> simp)
@[simp] theorem dropEvent_cores (s : State) : (dropEvent s).cores = s.cores :=
  (dropEvent_law ..).1 .cores (by decide)
@[simp] theorem dropEvent_clus (s : State) : (dropEvent s).clus = s.clus :=
  (dropEvent_law ..).1 .clus (by decide)
@[simp] theorem dropEvent_ctxs (s : State) : (dropEvent s).ctxs = s.ctxs :=
  (dropEvent_law ..).1 .ctxs (by decide)
@[simp] theorem dropEvent_transit (s : State) : (dropEvent s).transit = s.transit :=
  (dropEvent_law ..).1 .transit (by decide)
@[simp] theorem dropEvent_ddr (s : State) : (dropEvent s).ddr = s.ddr :=
  (dropEvent_law ..).1 .ddr (by decide)
@[simp] theorem dropEvent_idb (s : State) : (dropEvent s).idb = s.idb :=
  (dropEvent_law ..).1 .idb (by decide)
@[simp] theorem dropEvent_rst (s : State) : (dropEvent s).rst = s.rst :=
  (dropEvent_law ..).1 .rst (by decide)
@[simp] theorem dropEvent_log (s : State) : (dropEvent s).log = s.log :=
  (dropEvent_law ..).1 .log (by decide)
@[simp] theorem dropEvent_fab (s : State) : (dropEvent s).fab = s.fab :=
  (dropEvent_law ..).1 .fab (by decide)
@[simp] theorem dropEvent_link (s : State) : (dropEvent s).link = s.link :=
  (dropEvent_law ..).1 .link (by decide)
@[simp] theorem dropEvent_steer (s : State) : (dropEvent s).steer = s.steer :=
  (dropEvent_law ..).1 .steer (by decide)
@[simp] theorem dropEvent_stew (s : State) : (dropEvent s).stew = s.stew :=
  (dropEvent_law ..).1 .stew (by decide)
@[simp] theorem dropEvent_ckpt (s : State) : (dropEvent s).ckpt = s.ckpt :=
  (dropEvent_law ..).1 .ckpt (by decide)
@[simp] theorem dropEvent_time (s : State) : (dropEvent s).time = s.time :=
  (dropEvent_law ..).1 .time (by decide)
@[simp] theorem dropEvent_boot (s : State) : (dropEvent s).boot = s.boot :=
  (dropEvent_law ..).1 .boot (by decide)
@[simp] theorem dropEvent_pwr (s : State) : (dropEvent s).pwr = s.pwr :=
  (dropEvent_law ..).1 .pwr (by decide)
@[simp] theorem dropEvent_upd (s : State) : (dropEvent s).upd = s.upd :=
  (dropEvent_law ..).1 .upd (by decide)
@[simp] theorem dropEvent_pins (s : State) : (dropEvent s).pins = s.pins :=
  (dropEvent_law ..).1 .pins (by decide)
@[simp] theorem dropEvent_eth (s : State) : (dropEvent s).eth = s.eth :=
  (dropEvent_law ..).1 .eth (by decide)
@[simp] theorem dropEvent_side (s : State) : (dropEvent s).side = s.side :=
  (dropEvent_law ..).1 .side (by decide)
@[simp] theorem dropEvent_sent (s : State) : (dropEvent s).sent = s.sent :=
  (dropEvent_law ..).1 .sent (by decide)
@[simp] theorem dropEvent_pending (s : State) : (dropEvent s).pending = s.pending :=
  (dropEvent_law ..).1 .pending (by decide)

/-! ### postEvent -/

@[simp] theorem postEvent_now (code : Nat) (source : Nat) (c : Option Nat) (p0 : Nat) (p1 : Nat) (p2 : Nat) (p3 : Nat) (s : State) : (postEvent code source c p0 p1 p2 p3 s).now = s.now :=
  (postEvent_law ..).1 .now (by decide)
@[simp] theorem postEvent_freeCtr (code : Nat) (source : Nat) (c : Option Nat) (p0 : Nat) (p1 : Nat) (p2 : Nat) (p3 : Nat) (s : State) : (postEvent code source c p0 p1 p2 p3 s).freeCtr = s.freeCtr :=
  (postEvent_law ..).1 .freeCtr (by decide)
@[simp] theorem postEvent_cores (code : Nat) (source : Nat) (c : Option Nat) (p0 : Nat) (p1 : Nat) (p2 : Nat) (p3 : Nat) (s : State) : (postEvent code source c p0 p1 p2 p3 s).cores = s.cores :=
  (postEvent_law ..).1 .cores (by decide)
@[simp] theorem postEvent_clus (code : Nat) (source : Nat) (c : Option Nat) (p0 : Nat) (p1 : Nat) (p2 : Nat) (p3 : Nat) (s : State) : (postEvent code source c p0 p1 p2 p3 s).clus = s.clus :=
  (postEvent_law ..).1 .clus (by decide)
@[simp] theorem postEvent_ctxs (code : Nat) (source : Nat) (c : Option Nat) (p0 : Nat) (p1 : Nat) (p2 : Nat) (p3 : Nat) (s : State) : (postEvent code source c p0 p1 p2 p3 s).ctxs = s.ctxs :=
  (postEvent_law ..).1 .ctxs (by decide)
@[simp] theorem postEvent_transit (code : Nat) (source : Nat) (c : Option Nat) (p0 : Nat) (p1 : Nat) (p2 : Nat) (p3 : Nat) (s : State) : (postEvent code source c p0 p1 p2 p3 s).transit = s.transit :=
  (postEvent_law ..).1 .transit (by decide)
@[simp] theorem postEvent_ddr (code : Nat) (source : Nat) (c : Option Nat) (p0 : Nat) (p1 : Nat) (p2 : Nat) (p3 : Nat) (s : State) : (postEvent code source c p0 p1 p2 p3 s).ddr = s.ddr :=
  (postEvent_law ..).1 .ddr (by decide)
@[simp] theorem postEvent_idb (code : Nat) (source : Nat) (c : Option Nat) (p0 : Nat) (p1 : Nat) (p2 : Nat) (p3 : Nat) (s : State) : (postEvent code source c p0 p1 p2 p3 s).idb = s.idb :=
  (postEvent_law ..).1 .idb (by decide)
@[simp] theorem postEvent_rst (code : Nat) (source : Nat) (c : Option Nat) (p0 : Nat) (p1 : Nat) (p2 : Nat) (p3 : Nat) (s : State) : (postEvent code source c p0 p1 p2 p3 s).rst = s.rst :=
  (postEvent_law ..).1 .rst (by decide)
@[simp] theorem postEvent_log (code : Nat) (source : Nat) (c : Option Nat) (p0 : Nat) (p1 : Nat) (p2 : Nat) (p3 : Nat) (s : State) : (postEvent code source c p0 p1 p2 p3 s).log = s.log :=
  (postEvent_law ..).1 .log (by decide)
@[simp] theorem postEvent_fab (code : Nat) (source : Nat) (c : Option Nat) (p0 : Nat) (p1 : Nat) (p2 : Nat) (p3 : Nat) (s : State) : (postEvent code source c p0 p1 p2 p3 s).fab = s.fab :=
  (postEvent_law ..).1 .fab (by decide)
@[simp] theorem postEvent_link (code : Nat) (source : Nat) (c : Option Nat) (p0 : Nat) (p1 : Nat) (p2 : Nat) (p3 : Nat) (s : State) : (postEvent code source c p0 p1 p2 p3 s).link = s.link :=
  (postEvent_law ..).1 .link (by decide)
@[simp] theorem postEvent_steer (code : Nat) (source : Nat) (c : Option Nat) (p0 : Nat) (p1 : Nat) (p2 : Nat) (p3 : Nat) (s : State) : (postEvent code source c p0 p1 p2 p3 s).steer = s.steer :=
  (postEvent_law ..).1 .steer (by decide)
@[simp] theorem postEvent_stew (code : Nat) (source : Nat) (c : Option Nat) (p0 : Nat) (p1 : Nat) (p2 : Nat) (p3 : Nat) (s : State) : (postEvent code source c p0 p1 p2 p3 s).stew = s.stew :=
  (postEvent_law ..).1 .stew (by decide)
@[simp] theorem postEvent_ckpt (code : Nat) (source : Nat) (c : Option Nat) (p0 : Nat) (p1 : Nat) (p2 : Nat) (p3 : Nat) (s : State) : (postEvent code source c p0 p1 p2 p3 s).ckpt = s.ckpt :=
  (postEvent_law ..).1 .ckpt (by decide)
@[simp] theorem postEvent_time (code : Nat) (source : Nat) (c : Option Nat) (p0 : Nat) (p1 : Nat) (p2 : Nat) (p3 : Nat) (s : State) : (postEvent code source c p0 p1 p2 p3 s).time = s.time :=
  (postEvent_law ..).1 .time (by decide)
@[simp] theorem postEvent_boot (code : Nat) (source : Nat) (c : Option Nat) (p0 : Nat) (p1 : Nat) (p2 : Nat) (p3 : Nat) (s : State) : (postEvent code source c p0 p1 p2 p3 s).boot = s.boot :=
  (postEvent_law ..).1 .boot (by decide)
@[simp] theorem postEvent_pwr (code : Nat) (source : Nat) (c : Option Nat) (p0 : Nat) (p1 : Nat) (p2 : Nat) (p3 : Nat) (s : State) : (postEvent code source c p0 p1 p2 p3 s).pwr = s.pwr :=
  (postEvent_law ..).1 .pwr (by decide)
@[simp] theorem postEvent_upd (code : Nat) (source : Nat) (c : Option Nat) (p0 : Nat) (p1 : Nat) (p2 : Nat) (p3 : Nat) (s : State) : (postEvent code source c p0 p1 p2 p3 s).upd = s.upd :=
  (postEvent_law ..).1 .upd (by decide)
@[simp] theorem postEvent_pins (code : Nat) (source : Nat) (c : Option Nat) (p0 : Nat) (p1 : Nat) (p2 : Nat) (p3 : Nat) (s : State) : (postEvent code source c p0 p1 p2 p3 s).pins = s.pins :=
  (postEvent_law ..).1 .pins (by decide)
@[simp] theorem postEvent_eth (code : Nat) (source : Nat) (c : Option Nat) (p0 : Nat) (p1 : Nat) (p2 : Nat) (p3 : Nat) (s : State) : (postEvent code source c p0 p1 p2 p3 s).eth = s.eth :=
  (postEvent_law ..).1 .eth (by decide)
@[simp] theorem postEvent_side (code : Nat) (source : Nat) (c : Option Nat) (p0 : Nat) (p1 : Nat) (p2 : Nat) (p3 : Nat) (s : State) : (postEvent code source c p0 p1 p2 p3 s).side = s.side :=
  (postEvent_law ..).1 .side (by decide)
@[simp] theorem postEvent_pending (code : Nat) (source : Nat) (c : Option Nat) (p0 : Nat) (p1 : Nat) (p2 : Nat) (p3 : Nat) (s : State) : (postEvent code source c p0 p1 p2 p3 s).pending = s.pending :=
  (postEvent_law ..).1 .pending (by decide)

/-! ### announceState -/

@[simp] theorem announceState_now (code : Nat) (param : Nat) (s : State) : (announceState code param s).now = s.now :=
  (announceState_law ..).1 .now (by decide)
@[simp] theorem announceState_freeCtr (code : Nat) (param : Nat) (s : State) : (announceState code param s).freeCtr = s.freeCtr :=
  (announceState_law ..).1 .freeCtr (by decide)
@[simp] theorem announceState_cores (code : Nat) (param : Nat) (s : State) : (announceState code param s).cores = s.cores :=
  (announceState_law ..).1 .cores (by decide)
@[simp] theorem announceState_clus (code : Nat) (param : Nat) (s : State) : (announceState code param s).clus = s.clus :=
  (announceState_law ..).1 .clus (by decide)
@[simp] theorem announceState_ctxs (code : Nat) (param : Nat) (s : State) : (announceState code param s).ctxs = s.ctxs :=
  (announceState_law ..).1 .ctxs (by decide)
@[simp] theorem announceState_transit (code : Nat) (param : Nat) (s : State) : (announceState code param s).transit = s.transit :=
  (announceState_law ..).1 .transit (by decide)
@[simp] theorem announceState_ddr (code : Nat) (param : Nat) (s : State) : (announceState code param s).ddr = s.ddr :=
  (announceState_law ..).1 .ddr (by decide)
@[simp] theorem announceState_idb (code : Nat) (param : Nat) (s : State) : (announceState code param s).idb = s.idb :=
  (announceState_law ..).1 .idb (by decide)
@[simp] theorem announceState_rst (code : Nat) (param : Nat) (s : State) : (announceState code param s).rst = s.rst :=
  (announceState_law ..).1 .rst (by decide)
@[simp] theorem announceState_fab (code : Nat) (param : Nat) (s : State) : (announceState code param s).fab = s.fab :=
  (announceState_law ..).1 .fab (by decide)
@[simp] theorem announceState_link (code : Nat) (param : Nat) (s : State) : (announceState code param s).link = s.link :=
  (announceState_law ..).1 .link (by decide)
@[simp] theorem announceState_steer (code : Nat) (param : Nat) (s : State) : (announceState code param s).steer = s.steer :=
  (announceState_law ..).1 .steer (by decide)
@[simp] theorem announceState_stew (code : Nat) (param : Nat) (s : State) : (announceState code param s).stew = s.stew :=
  (announceState_law ..).1 .stew (by decide)
@[simp] theorem announceState_ckpt (code : Nat) (param : Nat) (s : State) : (announceState code param s).ckpt = s.ckpt :=
  (announceState_law ..).1 .ckpt (by decide)
@[simp] theorem announceState_time (code : Nat) (param : Nat) (s : State) : (announceState code param s).time = s.time :=
  (announceState_law ..).1 .time (by decide)
@[simp] theorem announceState_boot (code : Nat) (param : Nat) (s : State) : (announceState code param s).boot = s.boot :=
  (announceState_law ..).1 .boot (by decide)
@[simp] theorem announceState_pwr (code : Nat) (param : Nat) (s : State) : (announceState code param s).pwr = s.pwr :=
  (announceState_law ..).1 .pwr (by decide)
@[simp] theorem announceState_upd (code : Nat) (param : Nat) (s : State) : (announceState code param s).upd = s.upd :=
  (announceState_law ..).1 .upd (by decide)
@[simp] theorem announceState_pins (code : Nat) (param : Nat) (s : State) : (announceState code param s).pins = s.pins :=
  (announceState_law ..).1 .pins (by decide)
@[simp] theorem announceState_eth (code : Nat) (param : Nat) (s : State) : (announceState code param s).eth = s.eth :=
  (announceState_law ..).1 .eth (by decide)
@[simp] theorem announceState_pending (code : Nat) (param : Nat) (s : State) : (announceState code param s).pending = s.pending :=
  (announceState_law ..).1 .pending (by decide)

/-! ### completeBy -/

@[simp] theorem completeBy_now (r : Nat) (opc : Nat) (tag : Nat) (status : Nat) (result : List Byte) (s : State) : (completeBy r opc tag status result s).now = s.now :=
  (completeBy_law ..).1 .now (by decide)
@[simp] theorem completeBy_freeCtr (r : Nat) (opc : Nat) (tag : Nat) (status : Nat) (result : List Byte) (s : State) : (completeBy r opc tag status result s).freeCtr = s.freeCtr :=
  (completeBy_law ..).1 .freeCtr (by decide)
@[simp] theorem completeBy_cores (r : Nat) (opc : Nat) (tag : Nat) (status : Nat) (result : List Byte) (s : State) : (completeBy r opc tag status result s).cores = s.cores :=
  (completeBy_law ..).1 .cores (by decide)
@[simp] theorem completeBy_clus (r : Nat) (opc : Nat) (tag : Nat) (status : Nat) (result : List Byte) (s : State) : (completeBy r opc tag status result s).clus = s.clus :=
  (completeBy_law ..).1 .clus (by decide)
@[simp] theorem completeBy_ctxs (r : Nat) (opc : Nat) (tag : Nat) (status : Nat) (result : List Byte) (s : State) : (completeBy r opc tag status result s).ctxs = s.ctxs :=
  (completeBy_law ..).1 .ctxs (by decide)
@[simp] theorem completeBy_transit (r : Nat) (opc : Nat) (tag : Nat) (status : Nat) (result : List Byte) (s : State) : (completeBy r opc tag status result s).transit = s.transit :=
  (completeBy_law ..).1 .transit (by decide)
@[simp] theorem completeBy_ddr (r : Nat) (opc : Nat) (tag : Nat) (status : Nat) (result : List Byte) (s : State) : (completeBy r opc tag status result s).ddr = s.ddr :=
  (completeBy_law ..).1 .ddr (by decide)
@[simp] theorem completeBy_idb (r : Nat) (opc : Nat) (tag : Nat) (status : Nat) (result : List Byte) (s : State) : (completeBy r opc tag status result s).idb = s.idb :=
  (completeBy_law ..).1 .idb (by decide)
@[simp] theorem completeBy_rst (r : Nat) (opc : Nat) (tag : Nat) (status : Nat) (result : List Byte) (s : State) : (completeBy r opc tag status result s).rst = s.rst :=
  (completeBy_law ..).1 .rst (by decide)
@[simp] theorem completeBy_log (r : Nat) (opc : Nat) (tag : Nat) (status : Nat) (result : List Byte) (s : State) : (completeBy r opc tag status result s).log = s.log :=
  (completeBy_law ..).1 .log (by decide)
@[simp] theorem completeBy_fab (r : Nat) (opc : Nat) (tag : Nat) (status : Nat) (result : List Byte) (s : State) : (completeBy r opc tag status result s).fab = s.fab :=
  (completeBy_law ..).1 .fab (by decide)
@[simp] theorem completeBy_link (r : Nat) (opc : Nat) (tag : Nat) (status : Nat) (result : List Byte) (s : State) : (completeBy r opc tag status result s).link = s.link :=
  (completeBy_law ..).1 .link (by decide)
@[simp] theorem completeBy_steer (r : Nat) (opc : Nat) (tag : Nat) (status : Nat) (result : List Byte) (s : State) : (completeBy r opc tag status result s).steer = s.steer :=
  (completeBy_law ..).1 .steer (by decide)
@[simp] theorem completeBy_stew (r : Nat) (opc : Nat) (tag : Nat) (status : Nat) (result : List Byte) (s : State) : (completeBy r opc tag status result s).stew = s.stew :=
  (completeBy_law ..).1 .stew (by decide)
@[simp] theorem completeBy_ckpt (r : Nat) (opc : Nat) (tag : Nat) (status : Nat) (result : List Byte) (s : State) : (completeBy r opc tag status result s).ckpt = s.ckpt :=
  (completeBy_law ..).1 .ckpt (by decide)
@[simp] theorem completeBy_time (r : Nat) (opc : Nat) (tag : Nat) (status : Nat) (result : List Byte) (s : State) : (completeBy r opc tag status result s).time = s.time :=
  (completeBy_law ..).1 .time (by decide)
@[simp] theorem completeBy_boot (r : Nat) (opc : Nat) (tag : Nat) (status : Nat) (result : List Byte) (s : State) : (completeBy r opc tag status result s).boot = s.boot :=
  (completeBy_law ..).1 .boot (by decide)
@[simp] theorem completeBy_pwr (r : Nat) (opc : Nat) (tag : Nat) (status : Nat) (result : List Byte) (s : State) : (completeBy r opc tag status result s).pwr = s.pwr :=
  (completeBy_law ..).1 .pwr (by decide)
@[simp] theorem completeBy_upd (r : Nat) (opc : Nat) (tag : Nat) (status : Nat) (result : List Byte) (s : State) : (completeBy r opc tag status result s).upd = s.upd :=
  (completeBy_law ..).1 .upd (by decide)
@[simp] theorem completeBy_pins (r : Nat) (opc : Nat) (tag : Nat) (status : Nat) (result : List Byte) (s : State) : (completeBy r opc tag status result s).pins = s.pins :=
  (completeBy_law ..).1 .pins (by decide)
@[simp] theorem completeBy_eth (r : Nat) (opc : Nat) (tag : Nat) (status : Nat) (result : List Byte) (s : State) : (completeBy r opc tag status result s).eth = s.eth :=
  (completeBy_law ..).1 .eth (by decide)
@[simp] theorem completeBy_side (r : Nat) (opc : Nat) (tag : Nat) (status : Nat) (result : List Byte) (s : State) : (completeBy r opc tag status result s).side = s.side :=
  (completeBy_law ..).1 .side (by decide)
@[simp] theorem completeBy_pending (r : Nat) (opc : Nat) (tag : Nat) (status : Nat) (result : List Byte) (s : State) : (completeBy r opc tag status result s).pending = s.pending :=
  (completeBy_law ..).1 .pending (by decide)

/-! ### ctlOut -/

@[simp] theorem ctlOut_now (dst : Nat) (kind : Nat) (id : Nat) (flags : Nat) (body : List Nat) (s : State) : (ctlOut dst kind id flags body s).now = s.now :=
  (ctlOut_law ..).1 .now (by decide)
@[simp] theorem ctlOut_freeCtr (dst : Nat) (kind : Nat) (id : Nat) (flags : Nat) (body : List Nat) (s : State) : (ctlOut dst kind id flags body s).freeCtr = s.freeCtr :=
  (ctlOut_law ..).1 .freeCtr (by decide)
@[simp] theorem ctlOut_mem (dst : Nat) (kind : Nat) (id : Nat) (flags : Nat) (body : List Nat) (s : State) : (ctlOut dst kind id flags body s).mem = s.mem := by
  first | rfl | (unfold ctlOut; (try dsimp only); (repeat' split) <;> (try rfl) <;> simp)
@[simp] theorem ctlOut_cores (dst : Nat) (kind : Nat) (id : Nat) (flags : Nat) (body : List Nat) (s : State) : (ctlOut dst kind id flags body s).cores = s.cores :=
  (ctlOut_law ..).1 .cores (by decide)
@[simp] theorem ctlOut_clus (dst : Nat) (kind : Nat) (id : Nat) (flags : Nat) (body : List Nat) (s : State) : (ctlOut dst kind id flags body s).clus = s.clus :=
  (ctlOut_law ..).1 .clus (by decide)
@[simp] theorem ctlOut_ctxs (dst : Nat) (kind : Nat) (id : Nat) (flags : Nat) (body : List Nat) (s : State) : (ctlOut dst kind id flags body s).ctxs = s.ctxs :=
  (ctlOut_law ..).1 .ctxs (by decide)
@[simp] theorem ctlOut_transit (dst : Nat) (kind : Nat) (id : Nat) (flags : Nat) (body : List Nat) (s : State) : (ctlOut dst kind id flags body s).transit = s.transit :=
  (ctlOut_law ..).1 .transit (by decide)
@[simp] theorem ctlOut_ddr (dst : Nat) (kind : Nat) (id : Nat) (flags : Nat) (body : List Nat) (s : State) : (ctlOut dst kind id flags body s).ddr = s.ddr :=
  (ctlOut_law ..).1 .ddr (by decide)
@[simp] theorem ctlOut_hst (dst : Nat) (kind : Nat) (id : Nat) (flags : Nat) (body : List Nat) (s : State) : (ctlOut dst kind id flags body s).hst = s.hst :=
  (ctlOut_law ..).1 .hst (by decide)
@[simp] theorem ctlOut_idb (dst : Nat) (kind : Nat) (id : Nat) (flags : Nat) (body : List Nat) (s : State) : (ctlOut dst kind id flags body s).idb = s.idb :=
  (ctlOut_law ..).1 .idb (by decide)
@[simp] theorem ctlOut_rst (dst : Nat) (kind : Nat) (id : Nat) (flags : Nat) (body : List Nat) (s : State) : (ctlOut dst kind id flags body s).rst = s.rst :=
  (ctlOut_law ..).1 .rst (by decide)
@[simp] theorem ctlOut_tally (dst : Nat) (kind : Nat) (id : Nat) (flags : Nat) (body : List Nat) (s : State) : (ctlOut dst kind id flags body s).tally = s.tally :=
  (ctlOut_law ..).1 .tally (by decide)
@[simp] theorem ctlOut_log (dst : Nat) (kind : Nat) (id : Nat) (flags : Nat) (body : List Nat) (s : State) : (ctlOut dst kind id flags body s).log = s.log :=
  (ctlOut_law ..).1 .log (by decide)
@[simp] theorem ctlOut_fab (dst : Nat) (kind : Nat) (id : Nat) (flags : Nat) (body : List Nat) (s : State) : (ctlOut dst kind id flags body s).fab = s.fab :=
  (ctlOut_law ..).1 .fab (by decide)
@[simp] theorem ctlOut_link (dst : Nat) (kind : Nat) (id : Nat) (flags : Nat) (body : List Nat) (s : State) : (ctlOut dst kind id flags body s).link = s.link :=
  (ctlOut_law ..).1 .link (by decide)
@[simp] theorem ctlOut_steer (dst : Nat) (kind : Nat) (id : Nat) (flags : Nat) (body : List Nat) (s : State) : (ctlOut dst kind id flags body s).steer = s.steer :=
  (ctlOut_law ..).1 .steer (by decide)
@[simp] theorem ctlOut_stew (dst : Nat) (kind : Nat) (id : Nat) (flags : Nat) (body : List Nat) (s : State) : (ctlOut dst kind id flags body s).stew = s.stew :=
  (ctlOut_law ..).1 .stew (by decide)
@[simp] theorem ctlOut_ckpt (dst : Nat) (kind : Nat) (id : Nat) (flags : Nat) (body : List Nat) (s : State) : (ctlOut dst kind id flags body s).ckpt = s.ckpt :=
  (ctlOut_law ..).1 .ckpt (by decide)
@[simp] theorem ctlOut_time (dst : Nat) (kind : Nat) (id : Nat) (flags : Nat) (body : List Nat) (s : State) : (ctlOut dst kind id flags body s).time = s.time :=
  (ctlOut_law ..).1 .time (by decide)
@[simp] theorem ctlOut_boot (dst : Nat) (kind : Nat) (id : Nat) (flags : Nat) (body : List Nat) (s : State) : (ctlOut dst kind id flags body s).boot = s.boot :=
  (ctlOut_law ..).1 .boot (by decide)
@[simp] theorem ctlOut_pwr (dst : Nat) (kind : Nat) (id : Nat) (flags : Nat) (body : List Nat) (s : State) : (ctlOut dst kind id flags body s).pwr = s.pwr :=
  (ctlOut_law ..).1 .pwr (by decide)
@[simp] theorem ctlOut_upd (dst : Nat) (kind : Nat) (id : Nat) (flags : Nat) (body : List Nat) (s : State) : (ctlOut dst kind id flags body s).upd = s.upd :=
  (ctlOut_law ..).1 .upd (by decide)
@[simp] theorem ctlOut_pins (dst : Nat) (kind : Nat) (id : Nat) (flags : Nat) (body : List Nat) (s : State) : (ctlOut dst kind id flags body s).pins = s.pins :=
  (ctlOut_law ..).1 .pins (by decide)
@[simp] theorem ctlOut_eth (dst : Nat) (kind : Nat) (id : Nat) (flags : Nat) (body : List Nat) (s : State) : (ctlOut dst kind id flags body s).eth = s.eth :=
  (ctlOut_law ..).1 .eth (by decide)
@[simp] theorem ctlOut_side (dst : Nat) (kind : Nat) (id : Nat) (flags : Nat) (body : List Nat) (s : State) : (ctlOut dst kind id flags body s).side = s.side :=
  (ctlOut_law ..).1 .side (by decide)
@[simp] theorem ctlOut_pending (dst : Nat) (kind : Nat) (id : Nat) (flags : Nat) (body : List Nat) (s : State) : (ctlOut dst kind id flags body s).pending = s.pending :=
  (ctlOut_law ..).1 .pending (by decide)

/-! ### ctlSend -/

@[simp] theorem ctlSend_now (dst : Nat) (kind : Nat) (body : List Nat) (s : State) : (ctlSend dst kind body s).now = s.now :=
  (ctlSend_law ..).1 .now (by decide)
@[simp] theorem ctlSend_freeCtr (dst : Nat) (kind : Nat) (body : List Nat) (s : State) : (ctlSend dst kind body s).freeCtr = s.freeCtr :=
  (ctlSend_law ..).1 .freeCtr (by decide)
@[simp] theorem ctlSend_mem (dst : Nat) (kind : Nat) (body : List Nat) (s : State) : (ctlSend dst kind body s).mem = s.mem := by
  first | rfl | (unfold ctlSend; (try dsimp only); (repeat' split) <;> (try rfl) <;> simp)
@[simp] theorem ctlSend_cores (dst : Nat) (kind : Nat) (body : List Nat) (s : State) : (ctlSend dst kind body s).cores = s.cores :=
  (ctlSend_law ..).1 .cores (by decide)
@[simp] theorem ctlSend_clus (dst : Nat) (kind : Nat) (body : List Nat) (s : State) : (ctlSend dst kind body s).clus = s.clus :=
  (ctlSend_law ..).1 .clus (by decide)
@[simp] theorem ctlSend_ctxs (dst : Nat) (kind : Nat) (body : List Nat) (s : State) : (ctlSend dst kind body s).ctxs = s.ctxs :=
  (ctlSend_law ..).1 .ctxs (by decide)
@[simp] theorem ctlSend_transit (dst : Nat) (kind : Nat) (body : List Nat) (s : State) : (ctlSend dst kind body s).transit = s.transit :=
  (ctlSend_law ..).1 .transit (by decide)
@[simp] theorem ctlSend_ddr (dst : Nat) (kind : Nat) (body : List Nat) (s : State) : (ctlSend dst kind body s).ddr = s.ddr :=
  (ctlSend_law ..).1 .ddr (by decide)
@[simp] theorem ctlSend_hst (dst : Nat) (kind : Nat) (body : List Nat) (s : State) : (ctlSend dst kind body s).hst = s.hst :=
  (ctlSend_law ..).1 .hst (by decide)
@[simp] theorem ctlSend_idb (dst : Nat) (kind : Nat) (body : List Nat) (s : State) : (ctlSend dst kind body s).idb = s.idb :=
  (ctlSend_law ..).1 .idb (by decide)
@[simp] theorem ctlSend_rst (dst : Nat) (kind : Nat) (body : List Nat) (s : State) : (ctlSend dst kind body s).rst = s.rst :=
  (ctlSend_law ..).1 .rst (by decide)
@[simp] theorem ctlSend_tally (dst : Nat) (kind : Nat) (body : List Nat) (s : State) : (ctlSend dst kind body s).tally = s.tally :=
  (ctlSend_law ..).1 .tally (by decide)
@[simp] theorem ctlSend_log (dst : Nat) (kind : Nat) (body : List Nat) (s : State) : (ctlSend dst kind body s).log = s.log :=
  (ctlSend_law ..).1 .log (by decide)
@[simp] theorem ctlSend_fab (dst : Nat) (kind : Nat) (body : List Nat) (s : State) : (ctlSend dst kind body s).fab = s.fab :=
  (ctlSend_law ..).1 .fab (by decide)
@[simp] theorem ctlSend_link (dst : Nat) (kind : Nat) (body : List Nat) (s : State) : (ctlSend dst kind body s).link = s.link :=
  (ctlSend_law ..).1 .link (by decide)
@[simp] theorem ctlSend_steer (dst : Nat) (kind : Nat) (body : List Nat) (s : State) : (ctlSend dst kind body s).steer = s.steer :=
  (ctlSend_law ..).1 .steer (by decide)
@[simp] theorem ctlSend_ckpt (dst : Nat) (kind : Nat) (body : List Nat) (s : State) : (ctlSend dst kind body s).ckpt = s.ckpt :=
  (ctlSend_law ..).1 .ckpt (by decide)
@[simp] theorem ctlSend_time (dst : Nat) (kind : Nat) (body : List Nat) (s : State) : (ctlSend dst kind body s).time = s.time :=
  (ctlSend_law ..).1 .time (by decide)
@[simp] theorem ctlSend_boot (dst : Nat) (kind : Nat) (body : List Nat) (s : State) : (ctlSend dst kind body s).boot = s.boot :=
  (ctlSend_law ..).1 .boot (by decide)
@[simp] theorem ctlSend_pwr (dst : Nat) (kind : Nat) (body : List Nat) (s : State) : (ctlSend dst kind body s).pwr = s.pwr :=
  (ctlSend_law ..).1 .pwr (by decide)
@[simp] theorem ctlSend_upd (dst : Nat) (kind : Nat) (body : List Nat) (s : State) : (ctlSend dst kind body s).upd = s.upd :=
  (ctlSend_law ..).1 .upd (by decide)
@[simp] theorem ctlSend_pins (dst : Nat) (kind : Nat) (body : List Nat) (s : State) : (ctlSend dst kind body s).pins = s.pins :=
  (ctlSend_law ..).1 .pins (by decide)
@[simp] theorem ctlSend_eth (dst : Nat) (kind : Nat) (body : List Nat) (s : State) : (ctlSend dst kind body s).eth = s.eth :=
  (ctlSend_law ..).1 .eth (by decide)
@[simp] theorem ctlSend_side (dst : Nat) (kind : Nat) (body : List Nat) (s : State) : (ctlSend dst kind body s).side = s.side :=
  (ctlSend_law ..).1 .side (by decide)
@[simp] theorem ctlSend_pending (dst : Nat) (kind : Nat) (body : List Nat) (s : State) : (ctlSend dst kind body s).pending = s.pending :=
  (ctlSend_law ..).1 .pending (by decide)

/-! ### report -/

@[simp] theorem report_now (body : List Nat) (s : State) : (report body s).now = s.now :=
  (report_law ..).1 .now (by decide)
@[simp] theorem report_freeCtr (body : List Nat) (s : State) : (report body s).freeCtr = s.freeCtr :=
  (report_law ..).1 .freeCtr (by decide)
@[simp] theorem report_mem (body : List Nat) (s : State) : (report body s).mem = s.mem := by
  first | rfl | (unfold report; (try dsimp only); (repeat' split) <;> (try rfl) <;> simp)
@[simp] theorem report_cores (body : List Nat) (s : State) : (report body s).cores = s.cores :=
  (report_law ..).1 .cores (by decide)
@[simp] theorem report_clus (body : List Nat) (s : State) : (report body s).clus = s.clus :=
  (report_law ..).1 .clus (by decide)
@[simp] theorem report_ctxs (body : List Nat) (s : State) : (report body s).ctxs = s.ctxs :=
  (report_law ..).1 .ctxs (by decide)
@[simp] theorem report_transit (body : List Nat) (s : State) : (report body s).transit = s.transit :=
  (report_law ..).1 .transit (by decide)
@[simp] theorem report_ddr (body : List Nat) (s : State) : (report body s).ddr = s.ddr :=
  (report_law ..).1 .ddr (by decide)
@[simp] theorem report_hst (body : List Nat) (s : State) : (report body s).hst = s.hst :=
  (report_law ..).1 .hst (by decide)
@[simp] theorem report_idb (body : List Nat) (s : State) : (report body s).idb = s.idb :=
  (report_law ..).1 .idb (by decide)
@[simp] theorem report_rst (body : List Nat) (s : State) : (report body s).rst = s.rst :=
  (report_law ..).1 .rst (by decide)
@[simp] theorem report_tally (body : List Nat) (s : State) : (report body s).tally = s.tally :=
  (report_law ..).1 .tally (by decide)
@[simp] theorem report_log (body : List Nat) (s : State) : (report body s).log = s.log :=
  (report_law ..).1 .log (by decide)
@[simp] theorem report_fab (body : List Nat) (s : State) : (report body s).fab = s.fab :=
  (report_law ..).1 .fab (by decide)
@[simp] theorem report_link (body : List Nat) (s : State) : (report body s).link = s.link :=
  (report_law ..).1 .link (by decide)
@[simp] theorem report_steer (body : List Nat) (s : State) : (report body s).steer = s.steer :=
  (report_law ..).1 .steer (by decide)
@[simp] theorem report_ckpt (body : List Nat) (s : State) : (report body s).ckpt = s.ckpt :=
  (report_law ..).1 .ckpt (by decide)
@[simp] theorem report_time (body : List Nat) (s : State) : (report body s).time = s.time :=
  (report_law ..).1 .time (by decide)
@[simp] theorem report_boot (body : List Nat) (s : State) : (report body s).boot = s.boot :=
  (report_law ..).1 .boot (by decide)
@[simp] theorem report_pwr (body : List Nat) (s : State) : (report body s).pwr = s.pwr :=
  (report_law ..).1 .pwr (by decide)
@[simp] theorem report_upd (body : List Nat) (s : State) : (report body s).upd = s.upd :=
  (report_law ..).1 .upd (by decide)
@[simp] theorem report_pins (body : List Nat) (s : State) : (report body s).pins = s.pins :=
  (report_law ..).1 .pins (by decide)
@[simp] theorem report_eth (body : List Nat) (s : State) : (report body s).eth = s.eth :=
  (report_law ..).1 .eth (by decide)
@[simp] theorem report_side (body : List Nat) (s : State) : (report body s).side = s.side :=
  (report_law ..).1 .side (by decide)
@[simp] theorem report_pending (body : List Nat) (s : State) : (report body s).pending = s.pending :=
  (report_law ..).1 .pending (by decide)

/-! ### sendCtrl -/

@[simp] theorem sendCtrl_now (m : Nat) (kind : Nat) (bs : List Byte) (s : State) : (sendCtrl m kind bs s).now = s.now :=
  (sendCtrl_law ..).1 .now (by decide)
@[simp] theorem sendCtrl_freeCtr (m : Nat) (kind : Nat) (bs : List Byte) (s : State) : (sendCtrl m kind bs s).freeCtr = s.freeCtr :=
  (sendCtrl_law ..).1 .freeCtr (by decide)
@[simp] theorem sendCtrl_mem (m : Nat) (kind : Nat) (bs : List Byte) (s : State) : (sendCtrl m kind bs s).mem = s.mem := by
  first | rfl | (unfold sendCtrl; (try dsimp only); (repeat' split) <;> (try rfl) <;> simp)
@[simp] theorem sendCtrl_cores (m : Nat) (kind : Nat) (bs : List Byte) (s : State) : (sendCtrl m kind bs s).cores = s.cores :=
  (sendCtrl_law ..).1 .cores (by decide)
@[simp] theorem sendCtrl_clus (m : Nat) (kind : Nat) (bs : List Byte) (s : State) : (sendCtrl m kind bs s).clus = s.clus :=
  (sendCtrl_law ..).1 .clus (by decide)
@[simp] theorem sendCtrl_ctxs (m : Nat) (kind : Nat) (bs : List Byte) (s : State) : (sendCtrl m kind bs s).ctxs = s.ctxs :=
  (sendCtrl_law ..).1 .ctxs (by decide)
@[simp] theorem sendCtrl_transit (m : Nat) (kind : Nat) (bs : List Byte) (s : State) : (sendCtrl m kind bs s).transit = s.transit :=
  (sendCtrl_law ..).1 .transit (by decide)
@[simp] theorem sendCtrl_ddr (m : Nat) (kind : Nat) (bs : List Byte) (s : State) : (sendCtrl m kind bs s).ddr = s.ddr :=
  (sendCtrl_law ..).1 .ddr (by decide)
@[simp] theorem sendCtrl_hst (m : Nat) (kind : Nat) (bs : List Byte) (s : State) : (sendCtrl m kind bs s).hst = s.hst :=
  (sendCtrl_law ..).1 .hst (by decide)
@[simp] theorem sendCtrl_idb (m : Nat) (kind : Nat) (bs : List Byte) (s : State) : (sendCtrl m kind bs s).idb = s.idb :=
  (sendCtrl_law ..).1 .idb (by decide)
@[simp] theorem sendCtrl_rst (m : Nat) (kind : Nat) (bs : List Byte) (s : State) : (sendCtrl m kind bs s).rst = s.rst :=
  (sendCtrl_law ..).1 .rst (by decide)
@[simp] theorem sendCtrl_tally (m : Nat) (kind : Nat) (bs : List Byte) (s : State) : (sendCtrl m kind bs s).tally = s.tally :=
  (sendCtrl_law ..).1 .tally (by decide)
@[simp] theorem sendCtrl_log (m : Nat) (kind : Nat) (bs : List Byte) (s : State) : (sendCtrl m kind bs s).log = s.log :=
  (sendCtrl_law ..).1 .log (by decide)
@[simp] theorem sendCtrl_steer (m : Nat) (kind : Nat) (bs : List Byte) (s : State) : (sendCtrl m kind bs s).steer = s.steer :=
  (sendCtrl_law ..).1 .steer (by decide)
@[simp] theorem sendCtrl_stew (m : Nat) (kind : Nat) (bs : List Byte) (s : State) : (sendCtrl m kind bs s).stew = s.stew :=
  (sendCtrl_law ..).1 .stew (by decide)
@[simp] theorem sendCtrl_ckpt (m : Nat) (kind : Nat) (bs : List Byte) (s : State) : (sendCtrl m kind bs s).ckpt = s.ckpt :=
  (sendCtrl_law ..).1 .ckpt (by decide)
@[simp] theorem sendCtrl_time (m : Nat) (kind : Nat) (bs : List Byte) (s : State) : (sendCtrl m kind bs s).time = s.time :=
  (sendCtrl_law ..).1 .time (by decide)
@[simp] theorem sendCtrl_boot (m : Nat) (kind : Nat) (bs : List Byte) (s : State) : (sendCtrl m kind bs s).boot = s.boot :=
  (sendCtrl_law ..).1 .boot (by decide)
@[simp] theorem sendCtrl_pwr (m : Nat) (kind : Nat) (bs : List Byte) (s : State) : (sendCtrl m kind bs s).pwr = s.pwr :=
  (sendCtrl_law ..).1 .pwr (by decide)
@[simp] theorem sendCtrl_upd (m : Nat) (kind : Nat) (bs : List Byte) (s : State) : (sendCtrl m kind bs s).upd = s.upd :=
  (sendCtrl_law ..).1 .upd (by decide)
@[simp] theorem sendCtrl_pins (m : Nat) (kind : Nat) (bs : List Byte) (s : State) : (sendCtrl m kind bs s).pins = s.pins :=
  (sendCtrl_law ..).1 .pins (by decide)
@[simp] theorem sendCtrl_eth (m : Nat) (kind : Nat) (bs : List Byte) (s : State) : (sendCtrl m kind bs s).eth = s.eth :=
  (sendCtrl_law ..).1 .eth (by decide)
@[simp] theorem sendCtrl_side (m : Nat) (kind : Nat) (bs : List Byte) (s : State) : (sendCtrl m kind bs s).side = s.side :=
  (sendCtrl_law ..).1 .side (by decide)
@[simp] theorem sendCtrl_sent (m : Nat) (kind : Nat) (bs : List Byte) (s : State) : (sendCtrl m kind bs s).sent = s.sent :=
  (sendCtrl_law ..).1 .sent (by decide)
@[simp] theorem sendCtrl_pending (m : Nat) (kind : Nat) (bs : List Byte) (s : State) : (sendCtrl m kind bs s).pending = s.pending :=
  (sendCtrl_law ..).1 .pending (by decide)

/-! ### stallAt -/

@[simp] theorem stallAt_now (g : Nat) (st : Nat) (code : Nat) (q : Nat) (s : State) : (stallAt g st code q s).now = s.now :=
  (stallAt_law ..).1 .now (by decide)
@[simp] theorem stallAt_freeCtr (g : Nat) (st : Nat) (code : Nat) (q : Nat) (s : State) : (stallAt g st code q s).freeCtr = s.freeCtr :=
  (stallAt_law ..).1 .freeCtr (by decide)
@[simp] theorem stallAt_mem (g : Nat) (st : Nat) (code : Nat) (q : Nat) (s : State) : (stallAt g st code q s).mem = s.mem := by
  first | rfl | (unfold stallAt; (try dsimp only); (repeat' split) <;> (try rfl) <;> simp)
@[simp] theorem stallAt_clus (g : Nat) (st : Nat) (code : Nat) (q : Nat) (s : State) : (stallAt g st code q s).clus = s.clus :=
  (stallAt_law ..).1 .clus (by decide)
@[simp] theorem stallAt_ctxs (g : Nat) (st : Nat) (code : Nat) (q : Nat) (s : State) : (stallAt g st code q s).ctxs = s.ctxs :=
  (stallAt_law ..).1 .ctxs (by decide)
@[simp] theorem stallAt_transit (g : Nat) (st : Nat) (code : Nat) (q : Nat) (s : State) : (stallAt g st code q s).transit = s.transit :=
  (stallAt_law ..).1 .transit (by decide)
@[simp] theorem stallAt_ddr (g : Nat) (st : Nat) (code : Nat) (q : Nat) (s : State) : (stallAt g st code q s).ddr = s.ddr :=
  (stallAt_law ..).1 .ddr (by decide)
@[simp] theorem stallAt_hst (g : Nat) (st : Nat) (code : Nat) (q : Nat) (s : State) : (stallAt g st code q s).hst = s.hst :=
  (stallAt_law ..).1 .hst (by decide)
@[simp] theorem stallAt_idb (g : Nat) (st : Nat) (code : Nat) (q : Nat) (s : State) : (stallAt g st code q s).idb = s.idb :=
  (stallAt_law ..).1 .idb (by decide)
@[simp] theorem stallAt_rst (g : Nat) (st : Nat) (code : Nat) (q : Nat) (s : State) : (stallAt g st code q s).rst = s.rst :=
  (stallAt_law ..).1 .rst (by decide)
@[simp] theorem stallAt_tally (g : Nat) (st : Nat) (code : Nat) (q : Nat) (s : State) : (stallAt g st code q s).tally = s.tally :=
  (stallAt_law ..).1 .tally (by decide)
@[simp] theorem stallAt_log (g : Nat) (st : Nat) (code : Nat) (q : Nat) (s : State) : (stallAt g st code q s).log = s.log :=
  (stallAt_law ..).1 .log (by decide)
@[simp] theorem stallAt_fab (g : Nat) (st : Nat) (code : Nat) (q : Nat) (s : State) : (stallAt g st code q s).fab = s.fab :=
  (stallAt_law ..).1 .fab (by decide)
@[simp] theorem stallAt_link (g : Nat) (st : Nat) (code : Nat) (q : Nat) (s : State) : (stallAt g st code q s).link = s.link :=
  (stallAt_law ..).1 .link (by decide)
@[simp] theorem stallAt_steer (g : Nat) (st : Nat) (code : Nat) (q : Nat) (s : State) : (stallAt g st code q s).steer = s.steer :=
  (stallAt_law ..).1 .steer (by decide)
@[simp] theorem stallAt_stew (g : Nat) (st : Nat) (code : Nat) (q : Nat) (s : State) : (stallAt g st code q s).stew = s.stew :=
  (stallAt_law ..).1 .stew (by decide)
@[simp] theorem stallAt_ckpt (g : Nat) (st : Nat) (code : Nat) (q : Nat) (s : State) : (stallAt g st code q s).ckpt = s.ckpt :=
  (stallAt_law ..).1 .ckpt (by decide)
@[simp] theorem stallAt_time (g : Nat) (st : Nat) (code : Nat) (q : Nat) (s : State) : (stallAt g st code q s).time = s.time :=
  (stallAt_law ..).1 .time (by decide)
@[simp] theorem stallAt_boot (g : Nat) (st : Nat) (code : Nat) (q : Nat) (s : State) : (stallAt g st code q s).boot = s.boot :=
  (stallAt_law ..).1 .boot (by decide)
@[simp] theorem stallAt_pwr (g : Nat) (st : Nat) (code : Nat) (q : Nat) (s : State) : (stallAt g st code q s).pwr = s.pwr :=
  (stallAt_law ..).1 .pwr (by decide)
@[simp] theorem stallAt_upd (g : Nat) (st : Nat) (code : Nat) (q : Nat) (s : State) : (stallAt g st code q s).upd = s.upd :=
  (stallAt_law ..).1 .upd (by decide)
@[simp] theorem stallAt_pins (g : Nat) (st : Nat) (code : Nat) (q : Nat) (s : State) : (stallAt g st code q s).pins = s.pins :=
  (stallAt_law ..).1 .pins (by decide)
@[simp] theorem stallAt_eth (g : Nat) (st : Nat) (code : Nat) (q : Nat) (s : State) : (stallAt g st code q s).eth = s.eth :=
  (stallAt_law ..).1 .eth (by decide)
@[simp] theorem stallAt_side (g : Nat) (st : Nat) (code : Nat) (q : Nat) (s : State) : (stallAt g st code q s).side = s.side :=
  (stallAt_law ..).1 .side (by decide)
@[simp] theorem stallAt_sent (g : Nat) (st : Nat) (code : Nat) (q : Nat) (s : State) : (stallAt g st code q s).sent = s.sent :=
  (stallAt_law ..).1 .sent (by decide)
@[simp] theorem stallAt_pending (g : Nat) (st : Nat) (code : Nat) (q : Nat) (s : State) : (stallAt g st code q s).pending = s.pending :=
  (stallAt_law ..).1 .pending (by decide)

/-! ### sampTick -/

@[simp] theorem sampTick_now (g : Nat) (st : Nat) (r : Stream) (s : State) : (sampTick g st r s).now = s.now :=
  (sampTick_law ..).1 .now (by decide)
@[simp] theorem sampTick_freeCtr (g : Nat) (st : Nat) (r : Stream) (s : State) : (sampTick g st r s).freeCtr = s.freeCtr :=
  (sampTick_law ..).1 .freeCtr (by decide)
@[simp] theorem sampTick_mem (g : Nat) (st : Nat) (r : Stream) (s : State) : (sampTick g st r s).mem = s.mem := by
  first | rfl | (unfold sampTick; (try dsimp only); (repeat' split) <;> (try rfl) <;> simp)
@[simp] theorem sampTick_clus (g : Nat) (st : Nat) (r : Stream) (s : State) : (sampTick g st r s).clus = s.clus :=
  (sampTick_law ..).1 .clus (by decide)
@[simp] theorem sampTick_ctxs (g : Nat) (st : Nat) (r : Stream) (s : State) : (sampTick g st r s).ctxs = s.ctxs :=
  (sampTick_law ..).1 .ctxs (by decide)
@[simp] theorem sampTick_transit (g : Nat) (st : Nat) (r : Stream) (s : State) : (sampTick g st r s).transit = s.transit :=
  (sampTick_law ..).1 .transit (by decide)
@[simp] theorem sampTick_ddr (g : Nat) (st : Nat) (r : Stream) (s : State) : (sampTick g st r s).ddr = s.ddr :=
  (sampTick_law ..).1 .ddr (by decide)
@[simp] theorem sampTick_hst (g : Nat) (st : Nat) (r : Stream) (s : State) : (sampTick g st r s).hst = s.hst :=
  (sampTick_law ..).1 .hst (by decide)
@[simp] theorem sampTick_idb (g : Nat) (st : Nat) (r : Stream) (s : State) : (sampTick g st r s).idb = s.idb :=
  (sampTick_law ..).1 .idb (by decide)
@[simp] theorem sampTick_rst (g : Nat) (st : Nat) (r : Stream) (s : State) : (sampTick g st r s).rst = s.rst :=
  (sampTick_law ..).1 .rst (by decide)
@[simp] theorem sampTick_tally (g : Nat) (st : Nat) (r : Stream) (s : State) : (sampTick g st r s).tally = s.tally :=
  (sampTick_law ..).1 .tally (by decide)
@[simp] theorem sampTick_log (g : Nat) (st : Nat) (r : Stream) (s : State) : (sampTick g st r s).log = s.log :=
  (sampTick_law ..).1 .log (by decide)
@[simp] theorem sampTick_fab (g : Nat) (st : Nat) (r : Stream) (s : State) : (sampTick g st r s).fab = s.fab :=
  (sampTick_law ..).1 .fab (by decide)
@[simp] theorem sampTick_link (g : Nat) (st : Nat) (r : Stream) (s : State) : (sampTick g st r s).link = s.link :=
  (sampTick_law ..).1 .link (by decide)
@[simp] theorem sampTick_steer (g : Nat) (st : Nat) (r : Stream) (s : State) : (sampTick g st r s).steer = s.steer :=
  (sampTick_law ..).1 .steer (by decide)
@[simp] theorem sampTick_stew (g : Nat) (st : Nat) (r : Stream) (s : State) : (sampTick g st r s).stew = s.stew :=
  (sampTick_law ..).1 .stew (by decide)
@[simp] theorem sampTick_ckpt (g : Nat) (st : Nat) (r : Stream) (s : State) : (sampTick g st r s).ckpt = s.ckpt :=
  (sampTick_law ..).1 .ckpt (by decide)
@[simp] theorem sampTick_time (g : Nat) (st : Nat) (r : Stream) (s : State) : (sampTick g st r s).time = s.time :=
  (sampTick_law ..).1 .time (by decide)
@[simp] theorem sampTick_boot (g : Nat) (st : Nat) (r : Stream) (s : State) : (sampTick g st r s).boot = s.boot :=
  (sampTick_law ..).1 .boot (by decide)
@[simp] theorem sampTick_pwr (g : Nat) (st : Nat) (r : Stream) (s : State) : (sampTick g st r s).pwr = s.pwr :=
  (sampTick_law ..).1 .pwr (by decide)
@[simp] theorem sampTick_upd (g : Nat) (st : Nat) (r : Stream) (s : State) : (sampTick g st r s).upd = s.upd :=
  (sampTick_law ..).1 .upd (by decide)
@[simp] theorem sampTick_pins (g : Nat) (st : Nat) (r : Stream) (s : State) : (sampTick g st r s).pins = s.pins :=
  (sampTick_law ..).1 .pins (by decide)
@[simp] theorem sampTick_eth (g : Nat) (st : Nat) (r : Stream) (s : State) : (sampTick g st r s).eth = s.eth :=
  (sampTick_law ..).1 .eth (by decide)
@[simp] theorem sampTick_side (g : Nat) (st : Nat) (r : Stream) (s : State) : (sampTick g st r s).side = s.side :=
  (sampTick_law ..).1 .side (by decide)
@[simp] theorem sampTick_sent (g : Nat) (st : Nat) (r : Stream) (s : State) : (sampTick g st r s).sent = s.sent :=
  (sampTick_law ..).1 .sent (by decide)
@[simp] theorem sampTick_pending (g : Nat) (st : Nat) (r : Stream) (s : State) : (sampTick g st r s).pending = s.pending :=
  (sampTick_law ..).1 .pending (by decide)

/-! ### issued -/

@[simp] theorem issued_now (g : Nat) (st : Nat) (s : State) : (issued g st s).now = s.now :=
  (issued_law ..).1 .now (by decide)
@[simp] theorem issued_freeCtr (g : Nat) (st : Nat) (s : State) : (issued g st s).freeCtr = s.freeCtr :=
  (issued_law ..).1 .freeCtr (by decide)
@[simp] theorem issued_mem (g : Nat) (st : Nat) (s : State) : (issued g st s).mem = s.mem := by
  first | rfl | (unfold issued; (try dsimp only); (repeat' split) <;> (try rfl) <;> simp)
@[simp] theorem issued_clus (g : Nat) (st : Nat) (s : State) : (issued g st s).clus = s.clus :=
  (issued_law ..).1 .clus (by decide)
@[simp] theorem issued_ctxs (g : Nat) (st : Nat) (s : State) : (issued g st s).ctxs = s.ctxs :=
  (issued_law ..).1 .ctxs (by decide)
@[simp] theorem issued_transit (g : Nat) (st : Nat) (s : State) : (issued g st s).transit = s.transit :=
  (issued_law ..).1 .transit (by decide)
@[simp] theorem issued_ddr (g : Nat) (st : Nat) (s : State) : (issued g st s).ddr = s.ddr :=
  (issued_law ..).1 .ddr (by decide)
@[simp] theorem issued_hst (g : Nat) (st : Nat) (s : State) : (issued g st s).hst = s.hst :=
  (issued_law ..).1 .hst (by decide)
@[simp] theorem issued_idb (g : Nat) (st : Nat) (s : State) : (issued g st s).idb = s.idb :=
  (issued_law ..).1 .idb (by decide)
@[simp] theorem issued_rst (g : Nat) (st : Nat) (s : State) : (issued g st s).rst = s.rst :=
  (issued_law ..).1 .rst (by decide)
@[simp] theorem issued_log (g : Nat) (st : Nat) (s : State) : (issued g st s).log = s.log :=
  (issued_law ..).1 .log (by decide)
@[simp] theorem issued_fab (g : Nat) (st : Nat) (s : State) : (issued g st s).fab = s.fab :=
  (issued_law ..).1 .fab (by decide)
@[simp] theorem issued_link (g : Nat) (st : Nat) (s : State) : (issued g st s).link = s.link :=
  (issued_law ..).1 .link (by decide)
@[simp] theorem issued_steer (g : Nat) (st : Nat) (s : State) : (issued g st s).steer = s.steer :=
  (issued_law ..).1 .steer (by decide)
@[simp] theorem issued_stew (g : Nat) (st : Nat) (s : State) : (issued g st s).stew = s.stew :=
  (issued_law ..).1 .stew (by decide)
@[simp] theorem issued_ckpt (g : Nat) (st : Nat) (s : State) : (issued g st s).ckpt = s.ckpt :=
  (issued_law ..).1 .ckpt (by decide)
@[simp] theorem issued_time (g : Nat) (st : Nat) (s : State) : (issued g st s).time = s.time :=
  (issued_law ..).1 .time (by decide)
@[simp] theorem issued_boot (g : Nat) (st : Nat) (s : State) : (issued g st s).boot = s.boot :=
  (issued_law ..).1 .boot (by decide)
@[simp] theorem issued_pwr (g : Nat) (st : Nat) (s : State) : (issued g st s).pwr = s.pwr :=
  (issued_law ..).1 .pwr (by decide)
@[simp] theorem issued_upd (g : Nat) (st : Nat) (s : State) : (issued g st s).upd = s.upd :=
  (issued_law ..).1 .upd (by decide)
@[simp] theorem issued_pins (g : Nat) (st : Nat) (s : State) : (issued g st s).pins = s.pins :=
  (issued_law ..).1 .pins (by decide)
@[simp] theorem issued_eth (g : Nat) (st : Nat) (s : State) : (issued g st s).eth = s.eth :=
  (issued_law ..).1 .eth (by decide)
@[simp] theorem issued_side (g : Nat) (st : Nat) (s : State) : (issued g st s).side = s.side :=
  (issued_law ..).1 .side (by decide)
@[simp] theorem issued_sent (g : Nat) (st : Nat) (s : State) : (issued g st s).sent = s.sent :=
  (issued_law ..).1 .sent (by decide)
@[simp] theorem issued_pending (g : Nat) (st : Nat) (s : State) : (issued g st s).pending = s.pending :=
  (issued_law ..).1 .pending (by decide)

/-! ### lateDrop -/

@[simp] theorem lateDrop_now (c : Nat) (old : Byte) (s : State) : (lateDrop c old s).now = s.now :=
  (lateDrop_law ..).1 .now (by decide)
@[simp] theorem lateDrop_freeCtr (c : Nat) (old : Byte) (s : State) : (lateDrop c old s).freeCtr = s.freeCtr :=
  (lateDrop_law ..).1 .freeCtr (by decide)
@[simp] theorem lateDrop_mem (c : Nat) (old : Byte) (s : State) : (lateDrop c old s).mem = s.mem := by
  first | rfl | (unfold lateDrop; (try dsimp only); (repeat' split) <;> (try rfl) <;> simp)
@[simp] theorem lateDrop_cores (c : Nat) (old : Byte) (s : State) : (lateDrop c old s).cores = s.cores :=
  (lateDrop_law ..).1 .cores (by decide)
@[simp] theorem lateDrop_clus (c : Nat) (old : Byte) (s : State) : (lateDrop c old s).clus = s.clus :=
  (lateDrop_law ..).1 .clus (by decide)
@[simp] theorem lateDrop_ctxs (c : Nat) (old : Byte) (s : State) : (lateDrop c old s).ctxs = s.ctxs :=
  (lateDrop_law ..).1 .ctxs (by decide)
@[simp] theorem lateDrop_transit (c : Nat) (old : Byte) (s : State) : (lateDrop c old s).transit = s.transit :=
  (lateDrop_law ..).1 .transit (by decide)
@[simp] theorem lateDrop_ddr (c : Nat) (old : Byte) (s : State) : (lateDrop c old s).ddr = s.ddr :=
  (lateDrop_law ..).1 .ddr (by decide)
@[simp] theorem lateDrop_hst (c : Nat) (old : Byte) (s : State) : (lateDrop c old s).hst = s.hst :=
  (lateDrop_law ..).1 .hst (by decide)
@[simp] theorem lateDrop_idb (c : Nat) (old : Byte) (s : State) : (lateDrop c old s).idb = s.idb :=
  (lateDrop_law ..).1 .idb (by decide)
@[simp] theorem lateDrop_fab (c : Nat) (old : Byte) (s : State) : (lateDrop c old s).fab = s.fab :=
  (lateDrop_law ..).1 .fab (by decide)
@[simp] theorem lateDrop_link (c : Nat) (old : Byte) (s : State) : (lateDrop c old s).link = s.link :=
  (lateDrop_law ..).1 .link (by decide)
@[simp] theorem lateDrop_steer (c : Nat) (old : Byte) (s : State) : (lateDrop c old s).steer = s.steer :=
  (lateDrop_law ..).1 .steer (by decide)
@[simp] theorem lateDrop_stew (c : Nat) (old : Byte) (s : State) : (lateDrop c old s).stew = s.stew :=
  (lateDrop_law ..).1 .stew (by decide)
@[simp] theorem lateDrop_ckpt (c : Nat) (old : Byte) (s : State) : (lateDrop c old s).ckpt = s.ckpt :=
  (lateDrop_law ..).1 .ckpt (by decide)
@[simp] theorem lateDrop_time (c : Nat) (old : Byte) (s : State) : (lateDrop c old s).time = s.time :=
  (lateDrop_law ..).1 .time (by decide)
@[simp] theorem lateDrop_boot (c : Nat) (old : Byte) (s : State) : (lateDrop c old s).boot = s.boot :=
  (lateDrop_law ..).1 .boot (by decide)
@[simp] theorem lateDrop_pwr (c : Nat) (old : Byte) (s : State) : (lateDrop c old s).pwr = s.pwr :=
  (lateDrop_law ..).1 .pwr (by decide)
@[simp] theorem lateDrop_upd (c : Nat) (old : Byte) (s : State) : (lateDrop c old s).upd = s.upd :=
  (lateDrop_law ..).1 .upd (by decide)
@[simp] theorem lateDrop_pins (c : Nat) (old : Byte) (s : State) : (lateDrop c old s).pins = s.pins :=
  (lateDrop_law ..).1 .pins (by decide)
@[simp] theorem lateDrop_eth (c : Nat) (old : Byte) (s : State) : (lateDrop c old s).eth = s.eth :=
  (lateDrop_law ..).1 .eth (by decide)
@[simp] theorem lateDrop_side (c : Nat) (old : Byte) (s : State) : (lateDrop c old s).side = s.side :=
  (lateDrop_law ..).1 .side (by decide)
@[simp] theorem lateDrop_sent (c : Nat) (old : Byte) (s : State) : (lateDrop c old s).sent = s.sent :=
  (lateDrop_law ..).1 .sent (by decide)
@[simp] theorem lateDrop_pending (c : Nat) (old : Byte) (s : State) : (lateDrop c old s).pending = s.pending :=
  (lateDrop_law ..).1 .pending (by decide)

/-! ### heldWrite -/

@[simp] theorem heldWrite_now (off : Nat) (v : Word) (s : State) : (heldWrite off v s).now = s.now :=
  (heldWrite_law ..).1 .now (by decide)
@[simp] theorem heldWrite_freeCtr (off : Nat) (v : Word) (s : State) : (heldWrite off v s).freeCtr = s.freeCtr :=
  (heldWrite_law ..).1 .freeCtr (by decide)
@[simp] theorem heldWrite_mem (off : Nat) (v : Word) (s : State) : (heldWrite off v s).mem = s.mem := by
  first | rfl | (unfold heldWrite; (try dsimp only); (repeat' split) <;> (try rfl) <;> simp)
@[simp] theorem heldWrite_cores (off : Nat) (v : Word) (s : State) : (heldWrite off v s).cores = s.cores :=
  (heldWrite_law ..).1 .cores (by decide)
@[simp] theorem heldWrite_clus (off : Nat) (v : Word) (s : State) : (heldWrite off v s).clus = s.clus :=
  (heldWrite_law ..).1 .clus (by decide)
@[simp] theorem heldWrite_ctxs (off : Nat) (v : Word) (s : State) : (heldWrite off v s).ctxs = s.ctxs :=
  (heldWrite_law ..).1 .ctxs (by decide)
@[simp] theorem heldWrite_transit (off : Nat) (v : Word) (s : State) : (heldWrite off v s).transit = s.transit :=
  (heldWrite_law ..).1 .transit (by decide)
@[simp] theorem heldWrite_ddr (off : Nat) (v : Word) (s : State) : (heldWrite off v s).ddr = s.ddr :=
  (heldWrite_law ..).1 .ddr (by decide)
@[simp] theorem heldWrite_hst (off : Nat) (v : Word) (s : State) : (heldWrite off v s).hst = s.hst :=
  (heldWrite_law ..).1 .hst (by decide)
@[simp] theorem heldWrite_idb (off : Nat) (v : Word) (s : State) : (heldWrite off v s).idb = s.idb :=
  (heldWrite_law ..).1 .idb (by decide)
@[simp] theorem heldWrite_rst (off : Nat) (v : Word) (s : State) : (heldWrite off v s).rst = s.rst :=
  (heldWrite_law ..).1 .rst (by decide)
@[simp] theorem heldWrite_fab (off : Nat) (v : Word) (s : State) : (heldWrite off v s).fab = s.fab :=
  (heldWrite_law ..).1 .fab (by decide)
@[simp] theorem heldWrite_link (off : Nat) (v : Word) (s : State) : (heldWrite off v s).link = s.link :=
  (heldWrite_law ..).1 .link (by decide)
@[simp] theorem heldWrite_steer (off : Nat) (v : Word) (s : State) : (heldWrite off v s).steer = s.steer :=
  (heldWrite_law ..).1 .steer (by decide)
@[simp] theorem heldWrite_stew (off : Nat) (v : Word) (s : State) : (heldWrite off v s).stew = s.stew :=
  (heldWrite_law ..).1 .stew (by decide)
@[simp] theorem heldWrite_ckpt (off : Nat) (v : Word) (s : State) : (heldWrite off v s).ckpt = s.ckpt :=
  (heldWrite_law ..).1 .ckpt (by decide)
@[simp] theorem heldWrite_time (off : Nat) (v : Word) (s : State) : (heldWrite off v s).time = s.time :=
  (heldWrite_law ..).1 .time (by decide)
@[simp] theorem heldWrite_boot (off : Nat) (v : Word) (s : State) : (heldWrite off v s).boot = s.boot :=
  (heldWrite_law ..).1 .boot (by decide)
@[simp] theorem heldWrite_pwr (off : Nat) (v : Word) (s : State) : (heldWrite off v s).pwr = s.pwr :=
  (heldWrite_law ..).1 .pwr (by decide)
@[simp] theorem heldWrite_upd (off : Nat) (v : Word) (s : State) : (heldWrite off v s).upd = s.upd :=
  (heldWrite_law ..).1 .upd (by decide)
@[simp] theorem heldWrite_pins (off : Nat) (v : Word) (s : State) : (heldWrite off v s).pins = s.pins :=
  (heldWrite_law ..).1 .pins (by decide)
@[simp] theorem heldWrite_eth (off : Nat) (v : Word) (s : State) : (heldWrite off v s).eth = s.eth :=
  (heldWrite_law ..).1 .eth (by decide)
@[simp] theorem heldWrite_side (off : Nat) (v : Word) (s : State) : (heldWrite off v s).side = s.side :=
  (heldWrite_law ..).1 .side (by decide)
@[simp] theorem heldWrite_sent (off : Nat) (v : Word) (s : State) : (heldWrite off v s).sent = s.sent :=
  (heldWrite_law ..).1 .sent (by decide)
@[simp] theorem heldWrite_pending (off : Nat) (v : Word) (s : State) : (heldWrite off v s).pending = s.pending :=
  (heldWrite_law ..).1 .pending (by decide)

/-! ### onRst -/

@[simp] theorem onRst_now (f : RstSt → RstSt) (s : State) : (onRst f s).now = s.now :=
  (onRst_law ..).1 .now (by decide)
@[simp] theorem onRst_freeCtr (f : RstSt → RstSt) (s : State) : (onRst f s).freeCtr = s.freeCtr :=
  (onRst_law ..).1 .freeCtr (by decide)
@[simp] theorem onRst_mem (f : RstSt → RstSt) (s : State) : (onRst f s).mem = s.mem := by
  first | rfl | (unfold onRst; (try dsimp only); (repeat' split) <;> (try rfl) <;> simp)
@[simp] theorem onRst_cores (f : RstSt → RstSt) (s : State) : (onRst f s).cores = s.cores :=
  (onRst_law ..).1 .cores (by decide)
@[simp] theorem onRst_clus (f : RstSt → RstSt) (s : State) : (onRst f s).clus = s.clus :=
  (onRst_law ..).1 .clus (by decide)
@[simp] theorem onRst_ctxs (f : RstSt → RstSt) (s : State) : (onRst f s).ctxs = s.ctxs :=
  (onRst_law ..).1 .ctxs (by decide)
@[simp] theorem onRst_transit (f : RstSt → RstSt) (s : State) : (onRst f s).transit = s.transit :=
  (onRst_law ..).1 .transit (by decide)
@[simp] theorem onRst_ddr (f : RstSt → RstSt) (s : State) : (onRst f s).ddr = s.ddr :=
  (onRst_law ..).1 .ddr (by decide)
@[simp] theorem onRst_hst (f : RstSt → RstSt) (s : State) : (onRst f s).hst = s.hst :=
  (onRst_law ..).1 .hst (by decide)
@[simp] theorem onRst_idb (f : RstSt → RstSt) (s : State) : (onRst f s).idb = s.idb :=
  (onRst_law ..).1 .idb (by decide)
@[simp] theorem onRst_tally (f : RstSt → RstSt) (s : State) : (onRst f s).tally = s.tally :=
  (onRst_law ..).1 .tally (by decide)
@[simp] theorem onRst_log (f : RstSt → RstSt) (s : State) : (onRst f s).log = s.log :=
  (onRst_law ..).1 .log (by decide)
@[simp] theorem onRst_fab (f : RstSt → RstSt) (s : State) : (onRst f s).fab = s.fab :=
  (onRst_law ..).1 .fab (by decide)
@[simp] theorem onRst_link (f : RstSt → RstSt) (s : State) : (onRst f s).link = s.link :=
  (onRst_law ..).1 .link (by decide)
@[simp] theorem onRst_steer (f : RstSt → RstSt) (s : State) : (onRst f s).steer = s.steer :=
  (onRst_law ..).1 .steer (by decide)
@[simp] theorem onRst_stew (f : RstSt → RstSt) (s : State) : (onRst f s).stew = s.stew :=
  (onRst_law ..).1 .stew (by decide)
@[simp] theorem onRst_ckpt (f : RstSt → RstSt) (s : State) : (onRst f s).ckpt = s.ckpt :=
  (onRst_law ..).1 .ckpt (by decide)
@[simp] theorem onRst_time (f : RstSt → RstSt) (s : State) : (onRst f s).time = s.time :=
  (onRst_law ..).1 .time (by decide)
@[simp] theorem onRst_boot (f : RstSt → RstSt) (s : State) : (onRst f s).boot = s.boot :=
  (onRst_law ..).1 .boot (by decide)
@[simp] theorem onRst_pwr (f : RstSt → RstSt) (s : State) : (onRst f s).pwr = s.pwr :=
  (onRst_law ..).1 .pwr (by decide)
@[simp] theorem onRst_upd (f : RstSt → RstSt) (s : State) : (onRst f s).upd = s.upd :=
  (onRst_law ..).1 .upd (by decide)
@[simp] theorem onRst_pins (f : RstSt → RstSt) (s : State) : (onRst f s).pins = s.pins :=
  (onRst_law ..).1 .pins (by decide)
@[simp] theorem onRst_eth (f : RstSt → RstSt) (s : State) : (onRst f s).eth = s.eth :=
  (onRst_law ..).1 .eth (by decide)
@[simp] theorem onRst_side (f : RstSt → RstSt) (s : State) : (onRst f s).side = s.side :=
  (onRst_law ..).1 .side (by decide)
@[simp] theorem onRst_sent (f : RstSt → RstSt) (s : State) : (onRst f s).sent = s.sent :=
  (onRst_law ..).1 .sent (by decide)
@[simp] theorem onRst_pending (f : RstSt → RstSt) (s : State) : (onRst f s).pending = s.pending :=
  (onRst_law ..).1 .pending (by decide)

/-! ### onTally -/

@[simp] theorem onTally_now (f : TallySt → TallySt) (s : State) : (onTally f s).now = s.now :=
  (onTally_law ..).1 .now (by decide)
@[simp] theorem onTally_freeCtr (f : TallySt → TallySt) (s : State) : (onTally f s).freeCtr = s.freeCtr :=
  (onTally_law ..).1 .freeCtr (by decide)
@[simp] theorem onTally_mem (f : TallySt → TallySt) (s : State) : (onTally f s).mem = s.mem := by
  first | rfl | (unfold onTally; (try dsimp only); (repeat' split) <;> (try rfl) <;> simp)
@[simp] theorem onTally_cores (f : TallySt → TallySt) (s : State) : (onTally f s).cores = s.cores :=
  (onTally_law ..).1 .cores (by decide)
@[simp] theorem onTally_clus (f : TallySt → TallySt) (s : State) : (onTally f s).clus = s.clus :=
  (onTally_law ..).1 .clus (by decide)
@[simp] theorem onTally_ctxs (f : TallySt → TallySt) (s : State) : (onTally f s).ctxs = s.ctxs :=
  (onTally_law ..).1 .ctxs (by decide)
@[simp] theorem onTally_transit (f : TallySt → TallySt) (s : State) : (onTally f s).transit = s.transit :=
  (onTally_law ..).1 .transit (by decide)
@[simp] theorem onTally_ddr (f : TallySt → TallySt) (s : State) : (onTally f s).ddr = s.ddr :=
  (onTally_law ..).1 .ddr (by decide)
@[simp] theorem onTally_hst (f : TallySt → TallySt) (s : State) : (onTally f s).hst = s.hst :=
  (onTally_law ..).1 .hst (by decide)
@[simp] theorem onTally_idb (f : TallySt → TallySt) (s : State) : (onTally f s).idb = s.idb :=
  (onTally_law ..).1 .idb (by decide)
@[simp] theorem onTally_rst (f : TallySt → TallySt) (s : State) : (onTally f s).rst = s.rst :=
  (onTally_law ..).1 .rst (by decide)
@[simp] theorem onTally_log (f : TallySt → TallySt) (s : State) : (onTally f s).log = s.log :=
  (onTally_law ..).1 .log (by decide)
@[simp] theorem onTally_fab (f : TallySt → TallySt) (s : State) : (onTally f s).fab = s.fab :=
  (onTally_law ..).1 .fab (by decide)
@[simp] theorem onTally_link (f : TallySt → TallySt) (s : State) : (onTally f s).link = s.link :=
  (onTally_law ..).1 .link (by decide)
@[simp] theorem onTally_steer (f : TallySt → TallySt) (s : State) : (onTally f s).steer = s.steer :=
  (onTally_law ..).1 .steer (by decide)
@[simp] theorem onTally_stew (f : TallySt → TallySt) (s : State) : (onTally f s).stew = s.stew :=
  (onTally_law ..).1 .stew (by decide)
@[simp] theorem onTally_ckpt (f : TallySt → TallySt) (s : State) : (onTally f s).ckpt = s.ckpt :=
  (onTally_law ..).1 .ckpt (by decide)
@[simp] theorem onTally_time (f : TallySt → TallySt) (s : State) : (onTally f s).time = s.time :=
  (onTally_law ..).1 .time (by decide)
@[simp] theorem onTally_boot (f : TallySt → TallySt) (s : State) : (onTally f s).boot = s.boot :=
  (onTally_law ..).1 .boot (by decide)
@[simp] theorem onTally_pwr (f : TallySt → TallySt) (s : State) : (onTally f s).pwr = s.pwr :=
  (onTally_law ..).1 .pwr (by decide)
@[simp] theorem onTally_upd (f : TallySt → TallySt) (s : State) : (onTally f s).upd = s.upd :=
  (onTally_law ..).1 .upd (by decide)
@[simp] theorem onTally_pins (f : TallySt → TallySt) (s : State) : (onTally f s).pins = s.pins :=
  (onTally_law ..).1 .pins (by decide)
@[simp] theorem onTally_eth (f : TallySt → TallySt) (s : State) : (onTally f s).eth = s.eth :=
  (onTally_law ..).1 .eth (by decide)
@[simp] theorem onTally_side (f : TallySt → TallySt) (s : State) : (onTally f s).side = s.side :=
  (onTally_law ..).1 .side (by decide)
@[simp] theorem onTally_sent (f : TallySt → TallySt) (s : State) : (onTally f s).sent = s.sent :=
  (onTally_law ..).1 .sent (by decide)
@[simp] theorem onTally_pending (f : TallySt → TallySt) (s : State) : (onTally f s).pending = s.pending :=
  (onTally_law ..).1 .pending (by decide)

/-! ### onSteer -/

@[simp] theorem onSteer_now (f : SteerSt → SteerSt) (s : State) : (onSteer f s).now = s.now :=
  (onSteer_law ..).1 .now (by decide)
@[simp] theorem onSteer_freeCtr (f : SteerSt → SteerSt) (s : State) : (onSteer f s).freeCtr = s.freeCtr :=
  (onSteer_law ..).1 .freeCtr (by decide)
@[simp] theorem onSteer_mem (f : SteerSt → SteerSt) (s : State) : (onSteer f s).mem = s.mem := by
  first | rfl | (unfold onSteer; (try dsimp only); (repeat' split) <;> (try rfl) <;> simp)
@[simp] theorem onSteer_cores (f : SteerSt → SteerSt) (s : State) : (onSteer f s).cores = s.cores :=
  (onSteer_law ..).1 .cores (by decide)
@[simp] theorem onSteer_clus (f : SteerSt → SteerSt) (s : State) : (onSteer f s).clus = s.clus :=
  (onSteer_law ..).1 .clus (by decide)
@[simp] theorem onSteer_ctxs (f : SteerSt → SteerSt) (s : State) : (onSteer f s).ctxs = s.ctxs :=
  (onSteer_law ..).1 .ctxs (by decide)
@[simp] theorem onSteer_transit (f : SteerSt → SteerSt) (s : State) : (onSteer f s).transit = s.transit :=
  (onSteer_law ..).1 .transit (by decide)
@[simp] theorem onSteer_ddr (f : SteerSt → SteerSt) (s : State) : (onSteer f s).ddr = s.ddr :=
  (onSteer_law ..).1 .ddr (by decide)
@[simp] theorem onSteer_hst (f : SteerSt → SteerSt) (s : State) : (onSteer f s).hst = s.hst :=
  (onSteer_law ..).1 .hst (by decide)
@[simp] theorem onSteer_idb (f : SteerSt → SteerSt) (s : State) : (onSteer f s).idb = s.idb :=
  (onSteer_law ..).1 .idb (by decide)
@[simp] theorem onSteer_rst (f : SteerSt → SteerSt) (s : State) : (onSteer f s).rst = s.rst :=
  (onSteer_law ..).1 .rst (by decide)
@[simp] theorem onSteer_tally (f : SteerSt → SteerSt) (s : State) : (onSteer f s).tally = s.tally :=
  (onSteer_law ..).1 .tally (by decide)
@[simp] theorem onSteer_log (f : SteerSt → SteerSt) (s : State) : (onSteer f s).log = s.log :=
  (onSteer_law ..).1 .log (by decide)
@[simp] theorem onSteer_fab (f : SteerSt → SteerSt) (s : State) : (onSteer f s).fab = s.fab :=
  (onSteer_law ..).1 .fab (by decide)
@[simp] theorem onSteer_link (f : SteerSt → SteerSt) (s : State) : (onSteer f s).link = s.link :=
  (onSteer_law ..).1 .link (by decide)
@[simp] theorem onSteer_stew (f : SteerSt → SteerSt) (s : State) : (onSteer f s).stew = s.stew :=
  (onSteer_law ..).1 .stew (by decide)
@[simp] theorem onSteer_ckpt (f : SteerSt → SteerSt) (s : State) : (onSteer f s).ckpt = s.ckpt :=
  (onSteer_law ..).1 .ckpt (by decide)
@[simp] theorem onSteer_time (f : SteerSt → SteerSt) (s : State) : (onSteer f s).time = s.time :=
  (onSteer_law ..).1 .time (by decide)
@[simp] theorem onSteer_boot (f : SteerSt → SteerSt) (s : State) : (onSteer f s).boot = s.boot :=
  (onSteer_law ..).1 .boot (by decide)
@[simp] theorem onSteer_pwr (f : SteerSt → SteerSt) (s : State) : (onSteer f s).pwr = s.pwr :=
  (onSteer_law ..).1 .pwr (by decide)
@[simp] theorem onSteer_upd (f : SteerSt → SteerSt) (s : State) : (onSteer f s).upd = s.upd :=
  (onSteer_law ..).1 .upd (by decide)
@[simp] theorem onSteer_pins (f : SteerSt → SteerSt) (s : State) : (onSteer f s).pins = s.pins :=
  (onSteer_law ..).1 .pins (by decide)
@[simp] theorem onSteer_eth (f : SteerSt → SteerSt) (s : State) : (onSteer f s).eth = s.eth :=
  (onSteer_law ..).1 .eth (by decide)
@[simp] theorem onSteer_side (f : SteerSt → SteerSt) (s : State) : (onSteer f s).side = s.side :=
  (onSteer_law ..).1 .side (by decide)
@[simp] theorem onSteer_sent (f : SteerSt → SteerSt) (s : State) : (onSteer f s).sent = s.sent :=
  (onSteer_law ..).1 .sent (by decide)
@[simp] theorem onSteer_pending (f : SteerSt → SteerSt) (s : State) : (onSteer f s).pending = s.pending :=
  (onSteer_law ..).1 .pending (by decide)

/-! ### onStew -/

@[simp] theorem onStew_now (f : StewSt → StewSt) (s : State) : (onStew f s).now = s.now :=
  (onStew_law ..).1 .now (by decide)
@[simp] theorem onStew_freeCtr (f : StewSt → StewSt) (s : State) : (onStew f s).freeCtr = s.freeCtr :=
  (onStew_law ..).1 .freeCtr (by decide)
@[simp] theorem onStew_mem (f : StewSt → StewSt) (s : State) : (onStew f s).mem = s.mem := by
  first | rfl | (unfold onStew; (try dsimp only); (repeat' split) <;> (try rfl) <;> simp)
@[simp] theorem onStew_cores (f : StewSt → StewSt) (s : State) : (onStew f s).cores = s.cores :=
  (onStew_law ..).1 .cores (by decide)
@[simp] theorem onStew_clus (f : StewSt → StewSt) (s : State) : (onStew f s).clus = s.clus :=
  (onStew_law ..).1 .clus (by decide)
@[simp] theorem onStew_ctxs (f : StewSt → StewSt) (s : State) : (onStew f s).ctxs = s.ctxs :=
  (onStew_law ..).1 .ctxs (by decide)
@[simp] theorem onStew_transit (f : StewSt → StewSt) (s : State) : (onStew f s).transit = s.transit :=
  (onStew_law ..).1 .transit (by decide)
@[simp] theorem onStew_ddr (f : StewSt → StewSt) (s : State) : (onStew f s).ddr = s.ddr :=
  (onStew_law ..).1 .ddr (by decide)
@[simp] theorem onStew_hst (f : StewSt → StewSt) (s : State) : (onStew f s).hst = s.hst :=
  (onStew_law ..).1 .hst (by decide)
@[simp] theorem onStew_idb (f : StewSt → StewSt) (s : State) : (onStew f s).idb = s.idb :=
  (onStew_law ..).1 .idb (by decide)
@[simp] theorem onStew_rst (f : StewSt → StewSt) (s : State) : (onStew f s).rst = s.rst :=
  (onStew_law ..).1 .rst (by decide)
@[simp] theorem onStew_tally (f : StewSt → StewSt) (s : State) : (onStew f s).tally = s.tally :=
  (onStew_law ..).1 .tally (by decide)
@[simp] theorem onStew_log (f : StewSt → StewSt) (s : State) : (onStew f s).log = s.log :=
  (onStew_law ..).1 .log (by decide)
@[simp] theorem onStew_fab (f : StewSt → StewSt) (s : State) : (onStew f s).fab = s.fab :=
  (onStew_law ..).1 .fab (by decide)
@[simp] theorem onStew_link (f : StewSt → StewSt) (s : State) : (onStew f s).link = s.link :=
  (onStew_law ..).1 .link (by decide)
@[simp] theorem onStew_steer (f : StewSt → StewSt) (s : State) : (onStew f s).steer = s.steer :=
  (onStew_law ..).1 .steer (by decide)
@[simp] theorem onStew_ckpt (f : StewSt → StewSt) (s : State) : (onStew f s).ckpt = s.ckpt :=
  (onStew_law ..).1 .ckpt (by decide)
@[simp] theorem onStew_time (f : StewSt → StewSt) (s : State) : (onStew f s).time = s.time :=
  (onStew_law ..).1 .time (by decide)
@[simp] theorem onStew_boot (f : StewSt → StewSt) (s : State) : (onStew f s).boot = s.boot :=
  (onStew_law ..).1 .boot (by decide)
@[simp] theorem onStew_pwr (f : StewSt → StewSt) (s : State) : (onStew f s).pwr = s.pwr :=
  (onStew_law ..).1 .pwr (by decide)
@[simp] theorem onStew_upd (f : StewSt → StewSt) (s : State) : (onStew f s).upd = s.upd :=
  (onStew_law ..).1 .upd (by decide)
@[simp] theorem onStew_pins (f : StewSt → StewSt) (s : State) : (onStew f s).pins = s.pins :=
  (onStew_law ..).1 .pins (by decide)
@[simp] theorem onStew_eth (f : StewSt → StewSt) (s : State) : (onStew f s).eth = s.eth :=
  (onStew_law ..).1 .eth (by decide)
@[simp] theorem onStew_side (f : StewSt → StewSt) (s : State) : (onStew f s).side = s.side :=
  (onStew_law ..).1 .side (by decide)
@[simp] theorem onStew_sent (f : StewSt → StewSt) (s : State) : (onStew f s).sent = s.sent :=
  (onStew_law ..).1 .sent (by decide)
@[simp] theorem onStew_pending (f : StewSt → StewSt) (s : State) : (onStew f s).pending = s.pending :=
  (onStew_law ..).1 .pending (by decide)

/-! ### onTime -/

@[simp] theorem onTime_now (f : TimeSt → TimeSt) (s : State) : (onTime f s).now = s.now :=
  (onTime_law ..).1 .now (by decide)
@[simp] theorem onTime_freeCtr (f : TimeSt → TimeSt) (s : State) : (onTime f s).freeCtr = s.freeCtr :=
  (onTime_law ..).1 .freeCtr (by decide)
@[simp] theorem onTime_mem (f : TimeSt → TimeSt) (s : State) : (onTime f s).mem = s.mem := by
  first | rfl | (unfold onTime; (try dsimp only); (repeat' split) <;> (try rfl) <;> simp)
@[simp] theorem onTime_cores (f : TimeSt → TimeSt) (s : State) : (onTime f s).cores = s.cores :=
  (onTime_law ..).1 .cores (by decide)
@[simp] theorem onTime_clus (f : TimeSt → TimeSt) (s : State) : (onTime f s).clus = s.clus :=
  (onTime_law ..).1 .clus (by decide)
@[simp] theorem onTime_ctxs (f : TimeSt → TimeSt) (s : State) : (onTime f s).ctxs = s.ctxs :=
  (onTime_law ..).1 .ctxs (by decide)
@[simp] theorem onTime_transit (f : TimeSt → TimeSt) (s : State) : (onTime f s).transit = s.transit :=
  (onTime_law ..).1 .transit (by decide)
@[simp] theorem onTime_ddr (f : TimeSt → TimeSt) (s : State) : (onTime f s).ddr = s.ddr :=
  (onTime_law ..).1 .ddr (by decide)
@[simp] theorem onTime_hst (f : TimeSt → TimeSt) (s : State) : (onTime f s).hst = s.hst :=
  (onTime_law ..).1 .hst (by decide)
@[simp] theorem onTime_idb (f : TimeSt → TimeSt) (s : State) : (onTime f s).idb = s.idb :=
  (onTime_law ..).1 .idb (by decide)
@[simp] theorem onTime_rst (f : TimeSt → TimeSt) (s : State) : (onTime f s).rst = s.rst :=
  (onTime_law ..).1 .rst (by decide)
@[simp] theorem onTime_tally (f : TimeSt → TimeSt) (s : State) : (onTime f s).tally = s.tally :=
  (onTime_law ..).1 .tally (by decide)
@[simp] theorem onTime_log (f : TimeSt → TimeSt) (s : State) : (onTime f s).log = s.log :=
  (onTime_law ..).1 .log (by decide)
@[simp] theorem onTime_fab (f : TimeSt → TimeSt) (s : State) : (onTime f s).fab = s.fab :=
  (onTime_law ..).1 .fab (by decide)
@[simp] theorem onTime_link (f : TimeSt → TimeSt) (s : State) : (onTime f s).link = s.link :=
  (onTime_law ..).1 .link (by decide)
@[simp] theorem onTime_steer (f : TimeSt → TimeSt) (s : State) : (onTime f s).steer = s.steer :=
  (onTime_law ..).1 .steer (by decide)
@[simp] theorem onTime_stew (f : TimeSt → TimeSt) (s : State) : (onTime f s).stew = s.stew :=
  (onTime_law ..).1 .stew (by decide)
@[simp] theorem onTime_ckpt (f : TimeSt → TimeSt) (s : State) : (onTime f s).ckpt = s.ckpt :=
  (onTime_law ..).1 .ckpt (by decide)
@[simp] theorem onTime_boot (f : TimeSt → TimeSt) (s : State) : (onTime f s).boot = s.boot :=
  (onTime_law ..).1 .boot (by decide)
@[simp] theorem onTime_pwr (f : TimeSt → TimeSt) (s : State) : (onTime f s).pwr = s.pwr :=
  (onTime_law ..).1 .pwr (by decide)
@[simp] theorem onTime_upd (f : TimeSt → TimeSt) (s : State) : (onTime f s).upd = s.upd :=
  (onTime_law ..).1 .upd (by decide)
@[simp] theorem onTime_pins (f : TimeSt → TimeSt) (s : State) : (onTime f s).pins = s.pins :=
  (onTime_law ..).1 .pins (by decide)
@[simp] theorem onTime_eth (f : TimeSt → TimeSt) (s : State) : (onTime f s).eth = s.eth :=
  (onTime_law ..).1 .eth (by decide)
@[simp] theorem onTime_side (f : TimeSt → TimeSt) (s : State) : (onTime f s).side = s.side :=
  (onTime_law ..).1 .side (by decide)
@[simp] theorem onTime_sent (f : TimeSt → TimeSt) (s : State) : (onTime f s).sent = s.sent :=
  (onTime_law ..).1 .sent (by decide)
@[simp] theorem onTime_pending (f : TimeSt → TimeSt) (s : State) : (onTime f s).pending = s.pending :=
  (onTime_law ..).1 .pending (by decide)

/-! ### onPwr -/

@[simp] theorem onPwr_now (f : PwrSt → PwrSt) (s : State) : (onPwr f s).now = s.now :=
  (onPwr_law ..).1 .now (by decide)
@[simp] theorem onPwr_freeCtr (f : PwrSt → PwrSt) (s : State) : (onPwr f s).freeCtr = s.freeCtr :=
  (onPwr_law ..).1 .freeCtr (by decide)
@[simp] theorem onPwr_mem (f : PwrSt → PwrSt) (s : State) : (onPwr f s).mem = s.mem := by
  first | rfl | (unfold onPwr; (try dsimp only); (repeat' split) <;> (try rfl) <;> simp)
@[simp] theorem onPwr_cores (f : PwrSt → PwrSt) (s : State) : (onPwr f s).cores = s.cores :=
  (onPwr_law ..).1 .cores (by decide)
@[simp] theorem onPwr_clus (f : PwrSt → PwrSt) (s : State) : (onPwr f s).clus = s.clus :=
  (onPwr_law ..).1 .clus (by decide)
@[simp] theorem onPwr_ctxs (f : PwrSt → PwrSt) (s : State) : (onPwr f s).ctxs = s.ctxs :=
  (onPwr_law ..).1 .ctxs (by decide)
@[simp] theorem onPwr_transit (f : PwrSt → PwrSt) (s : State) : (onPwr f s).transit = s.transit :=
  (onPwr_law ..).1 .transit (by decide)
@[simp] theorem onPwr_ddr (f : PwrSt → PwrSt) (s : State) : (onPwr f s).ddr = s.ddr :=
  (onPwr_law ..).1 .ddr (by decide)
@[simp] theorem onPwr_hst (f : PwrSt → PwrSt) (s : State) : (onPwr f s).hst = s.hst :=
  (onPwr_law ..).1 .hst (by decide)
@[simp] theorem onPwr_idb (f : PwrSt → PwrSt) (s : State) : (onPwr f s).idb = s.idb :=
  (onPwr_law ..).1 .idb (by decide)
@[simp] theorem onPwr_rst (f : PwrSt → PwrSt) (s : State) : (onPwr f s).rst = s.rst :=
  (onPwr_law ..).1 .rst (by decide)
@[simp] theorem onPwr_tally (f : PwrSt → PwrSt) (s : State) : (onPwr f s).tally = s.tally :=
  (onPwr_law ..).1 .tally (by decide)
@[simp] theorem onPwr_log (f : PwrSt → PwrSt) (s : State) : (onPwr f s).log = s.log :=
  (onPwr_law ..).1 .log (by decide)
@[simp] theorem onPwr_fab (f : PwrSt → PwrSt) (s : State) : (onPwr f s).fab = s.fab :=
  (onPwr_law ..).1 .fab (by decide)
@[simp] theorem onPwr_link (f : PwrSt → PwrSt) (s : State) : (onPwr f s).link = s.link :=
  (onPwr_law ..).1 .link (by decide)
@[simp] theorem onPwr_steer (f : PwrSt → PwrSt) (s : State) : (onPwr f s).steer = s.steer :=
  (onPwr_law ..).1 .steer (by decide)
@[simp] theorem onPwr_stew (f : PwrSt → PwrSt) (s : State) : (onPwr f s).stew = s.stew :=
  (onPwr_law ..).1 .stew (by decide)
@[simp] theorem onPwr_ckpt (f : PwrSt → PwrSt) (s : State) : (onPwr f s).ckpt = s.ckpt :=
  (onPwr_law ..).1 .ckpt (by decide)
@[simp] theorem onPwr_time (f : PwrSt → PwrSt) (s : State) : (onPwr f s).time = s.time :=
  (onPwr_law ..).1 .time (by decide)
@[simp] theorem onPwr_boot (f : PwrSt → PwrSt) (s : State) : (onPwr f s).boot = s.boot :=
  (onPwr_law ..).1 .boot (by decide)
@[simp] theorem onPwr_upd (f : PwrSt → PwrSt) (s : State) : (onPwr f s).upd = s.upd :=
  (onPwr_law ..).1 .upd (by decide)
@[simp] theorem onPwr_pins (f : PwrSt → PwrSt) (s : State) : (onPwr f s).pins = s.pins :=
  (onPwr_law ..).1 .pins (by decide)
@[simp] theorem onPwr_eth (f : PwrSt → PwrSt) (s : State) : (onPwr f s).eth = s.eth :=
  (onPwr_law ..).1 .eth (by decide)
@[simp] theorem onPwr_side (f : PwrSt → PwrSt) (s : State) : (onPwr f s).side = s.side :=
  (onPwr_law ..).1 .side (by decide)
@[simp] theorem onPwr_sent (f : PwrSt → PwrSt) (s : State) : (onPwr f s).sent = s.sent :=
  (onPwr_law ..).1 .sent (by decide)
@[simp] theorem onPwr_pending (f : PwrSt → PwrSt) (s : State) : (onPwr f s).pending = s.pending :=
  (onPwr_law ..).1 .pending (by decide)

/-! ### onBoot -/

@[simp] theorem onBoot_now (f : BootSt → BootSt) (s : State) : (onBoot f s).now = s.now :=
  (onBoot_law ..).1 .now (by decide)
@[simp] theorem onBoot_freeCtr (f : BootSt → BootSt) (s : State) : (onBoot f s).freeCtr = s.freeCtr :=
  (onBoot_law ..).1 .freeCtr (by decide)
@[simp] theorem onBoot_mem (f : BootSt → BootSt) (s : State) : (onBoot f s).mem = s.mem := by
  first | rfl | (unfold onBoot; (try dsimp only); (repeat' split) <;> (try rfl) <;> simp)
@[simp] theorem onBoot_cores (f : BootSt → BootSt) (s : State) : (onBoot f s).cores = s.cores :=
  (onBoot_law ..).1 .cores (by decide)
@[simp] theorem onBoot_clus (f : BootSt → BootSt) (s : State) : (onBoot f s).clus = s.clus :=
  (onBoot_law ..).1 .clus (by decide)
@[simp] theorem onBoot_ctxs (f : BootSt → BootSt) (s : State) : (onBoot f s).ctxs = s.ctxs :=
  (onBoot_law ..).1 .ctxs (by decide)
@[simp] theorem onBoot_transit (f : BootSt → BootSt) (s : State) : (onBoot f s).transit = s.transit :=
  (onBoot_law ..).1 .transit (by decide)
@[simp] theorem onBoot_ddr (f : BootSt → BootSt) (s : State) : (onBoot f s).ddr = s.ddr :=
  (onBoot_law ..).1 .ddr (by decide)
@[simp] theorem onBoot_hst (f : BootSt → BootSt) (s : State) : (onBoot f s).hst = s.hst :=
  (onBoot_law ..).1 .hst (by decide)
@[simp] theorem onBoot_idb (f : BootSt → BootSt) (s : State) : (onBoot f s).idb = s.idb :=
  (onBoot_law ..).1 .idb (by decide)
@[simp] theorem onBoot_rst (f : BootSt → BootSt) (s : State) : (onBoot f s).rst = s.rst :=
  (onBoot_law ..).1 .rst (by decide)
@[simp] theorem onBoot_tally (f : BootSt → BootSt) (s : State) : (onBoot f s).tally = s.tally :=
  (onBoot_law ..).1 .tally (by decide)
@[simp] theorem onBoot_log (f : BootSt → BootSt) (s : State) : (onBoot f s).log = s.log :=
  (onBoot_law ..).1 .log (by decide)
@[simp] theorem onBoot_fab (f : BootSt → BootSt) (s : State) : (onBoot f s).fab = s.fab :=
  (onBoot_law ..).1 .fab (by decide)
@[simp] theorem onBoot_link (f : BootSt → BootSt) (s : State) : (onBoot f s).link = s.link :=
  (onBoot_law ..).1 .link (by decide)
@[simp] theorem onBoot_steer (f : BootSt → BootSt) (s : State) : (onBoot f s).steer = s.steer :=
  (onBoot_law ..).1 .steer (by decide)
@[simp] theorem onBoot_stew (f : BootSt → BootSt) (s : State) : (onBoot f s).stew = s.stew :=
  (onBoot_law ..).1 .stew (by decide)
@[simp] theorem onBoot_ckpt (f : BootSt → BootSt) (s : State) : (onBoot f s).ckpt = s.ckpt :=
  (onBoot_law ..).1 .ckpt (by decide)
@[simp] theorem onBoot_time (f : BootSt → BootSt) (s : State) : (onBoot f s).time = s.time :=
  (onBoot_law ..).1 .time (by decide)
@[simp] theorem onBoot_pwr (f : BootSt → BootSt) (s : State) : (onBoot f s).pwr = s.pwr :=
  (onBoot_law ..).1 .pwr (by decide)
@[simp] theorem onBoot_upd (f : BootSt → BootSt) (s : State) : (onBoot f s).upd = s.upd :=
  (onBoot_law ..).1 .upd (by decide)
@[simp] theorem onBoot_pins (f : BootSt → BootSt) (s : State) : (onBoot f s).pins = s.pins :=
  (onBoot_law ..).1 .pins (by decide)
@[simp] theorem onBoot_eth (f : BootSt → BootSt) (s : State) : (onBoot f s).eth = s.eth :=
  (onBoot_law ..).1 .eth (by decide)
@[simp] theorem onBoot_side (f : BootSt → BootSt) (s : State) : (onBoot f s).side = s.side :=
  (onBoot_law ..).1 .side (by decide)
@[simp] theorem onBoot_sent (f : BootSt → BootSt) (s : State) : (onBoot f s).sent = s.sent :=
  (onBoot_law ..).1 .sent (by decide)
@[simp] theorem onBoot_pending (f : BootSt → BootSt) (s : State) : (onBoot f s).pending = s.pending :=
  (onBoot_law ..).1 .pending (by decide)

/-! ### onUpd -/

@[simp] theorem onUpd_now (f : UpdSt → UpdSt) (s : State) : (onUpd f s).now = s.now :=
  (onUpd_law ..).1 .now (by decide)
@[simp] theorem onUpd_freeCtr (f : UpdSt → UpdSt) (s : State) : (onUpd f s).freeCtr = s.freeCtr :=
  (onUpd_law ..).1 .freeCtr (by decide)
@[simp] theorem onUpd_mem (f : UpdSt → UpdSt) (s : State) : (onUpd f s).mem = s.mem := by
  first | rfl | (unfold onUpd; (try dsimp only); (repeat' split) <;> (try rfl) <;> simp)
@[simp] theorem onUpd_cores (f : UpdSt → UpdSt) (s : State) : (onUpd f s).cores = s.cores :=
  (onUpd_law ..).1 .cores (by decide)
@[simp] theorem onUpd_clus (f : UpdSt → UpdSt) (s : State) : (onUpd f s).clus = s.clus :=
  (onUpd_law ..).1 .clus (by decide)
@[simp] theorem onUpd_ctxs (f : UpdSt → UpdSt) (s : State) : (onUpd f s).ctxs = s.ctxs :=
  (onUpd_law ..).1 .ctxs (by decide)
@[simp] theorem onUpd_transit (f : UpdSt → UpdSt) (s : State) : (onUpd f s).transit = s.transit :=
  (onUpd_law ..).1 .transit (by decide)
@[simp] theorem onUpd_ddr (f : UpdSt → UpdSt) (s : State) : (onUpd f s).ddr = s.ddr :=
  (onUpd_law ..).1 .ddr (by decide)
@[simp] theorem onUpd_hst (f : UpdSt → UpdSt) (s : State) : (onUpd f s).hst = s.hst :=
  (onUpd_law ..).1 .hst (by decide)
@[simp] theorem onUpd_idb (f : UpdSt → UpdSt) (s : State) : (onUpd f s).idb = s.idb :=
  (onUpd_law ..).1 .idb (by decide)
@[simp] theorem onUpd_rst (f : UpdSt → UpdSt) (s : State) : (onUpd f s).rst = s.rst :=
  (onUpd_law ..).1 .rst (by decide)
@[simp] theorem onUpd_tally (f : UpdSt → UpdSt) (s : State) : (onUpd f s).tally = s.tally :=
  (onUpd_law ..).1 .tally (by decide)
@[simp] theorem onUpd_log (f : UpdSt → UpdSt) (s : State) : (onUpd f s).log = s.log :=
  (onUpd_law ..).1 .log (by decide)
@[simp] theorem onUpd_fab (f : UpdSt → UpdSt) (s : State) : (onUpd f s).fab = s.fab :=
  (onUpd_law ..).1 .fab (by decide)
@[simp] theorem onUpd_link (f : UpdSt → UpdSt) (s : State) : (onUpd f s).link = s.link :=
  (onUpd_law ..).1 .link (by decide)
@[simp] theorem onUpd_steer (f : UpdSt → UpdSt) (s : State) : (onUpd f s).steer = s.steer :=
  (onUpd_law ..).1 .steer (by decide)
@[simp] theorem onUpd_stew (f : UpdSt → UpdSt) (s : State) : (onUpd f s).stew = s.stew :=
  (onUpd_law ..).1 .stew (by decide)
@[simp] theorem onUpd_ckpt (f : UpdSt → UpdSt) (s : State) : (onUpd f s).ckpt = s.ckpt :=
  (onUpd_law ..).1 .ckpt (by decide)
@[simp] theorem onUpd_time (f : UpdSt → UpdSt) (s : State) : (onUpd f s).time = s.time :=
  (onUpd_law ..).1 .time (by decide)
@[simp] theorem onUpd_boot (f : UpdSt → UpdSt) (s : State) : (onUpd f s).boot = s.boot :=
  (onUpd_law ..).1 .boot (by decide)
@[simp] theorem onUpd_pwr (f : UpdSt → UpdSt) (s : State) : (onUpd f s).pwr = s.pwr :=
  (onUpd_law ..).1 .pwr (by decide)
@[simp] theorem onUpd_pins (f : UpdSt → UpdSt) (s : State) : (onUpd f s).pins = s.pins :=
  (onUpd_law ..).1 .pins (by decide)
@[simp] theorem onUpd_eth (f : UpdSt → UpdSt) (s : State) : (onUpd f s).eth = s.eth :=
  (onUpd_law ..).1 .eth (by decide)
@[simp] theorem onUpd_side (f : UpdSt → UpdSt) (s : State) : (onUpd f s).side = s.side :=
  (onUpd_law ..).1 .side (by decide)
@[simp] theorem onUpd_sent (f : UpdSt → UpdSt) (s : State) : (onUpd f s).sent = s.sent :=
  (onUpd_law ..).1 .sent (by decide)
@[simp] theorem onUpd_pending (f : UpdSt → UpdSt) (s : State) : (onUpd f s).pending = s.pending :=
  (onUpd_law ..).1 .pending (by decide)

/-! ### onPins -/

@[simp] theorem onPins_now (f : PinSt → PinSt) (s : State) : (onPins f s).now = s.now :=
  (onPins_law ..).1 .now (by decide)
@[simp] theorem onPins_freeCtr (f : PinSt → PinSt) (s : State) : (onPins f s).freeCtr = s.freeCtr :=
  (onPins_law ..).1 .freeCtr (by decide)
@[simp] theorem onPins_mem (f : PinSt → PinSt) (s : State) : (onPins f s).mem = s.mem := by
  first | rfl | (unfold onPins; (try dsimp only); (repeat' split) <;> (try rfl) <;> simp)
@[simp] theorem onPins_cores (f : PinSt → PinSt) (s : State) : (onPins f s).cores = s.cores :=
  (onPins_law ..).1 .cores (by decide)
@[simp] theorem onPins_clus (f : PinSt → PinSt) (s : State) : (onPins f s).clus = s.clus :=
  (onPins_law ..).1 .clus (by decide)
@[simp] theorem onPins_ctxs (f : PinSt → PinSt) (s : State) : (onPins f s).ctxs = s.ctxs :=
  (onPins_law ..).1 .ctxs (by decide)
@[simp] theorem onPins_transit (f : PinSt → PinSt) (s : State) : (onPins f s).transit = s.transit :=
  (onPins_law ..).1 .transit (by decide)
@[simp] theorem onPins_ddr (f : PinSt → PinSt) (s : State) : (onPins f s).ddr = s.ddr :=
  (onPins_law ..).1 .ddr (by decide)
@[simp] theorem onPins_hst (f : PinSt → PinSt) (s : State) : (onPins f s).hst = s.hst :=
  (onPins_law ..).1 .hst (by decide)
@[simp] theorem onPins_idb (f : PinSt → PinSt) (s : State) : (onPins f s).idb = s.idb :=
  (onPins_law ..).1 .idb (by decide)
@[simp] theorem onPins_rst (f : PinSt → PinSt) (s : State) : (onPins f s).rst = s.rst :=
  (onPins_law ..).1 .rst (by decide)
@[simp] theorem onPins_tally (f : PinSt → PinSt) (s : State) : (onPins f s).tally = s.tally :=
  (onPins_law ..).1 .tally (by decide)
@[simp] theorem onPins_log (f : PinSt → PinSt) (s : State) : (onPins f s).log = s.log :=
  (onPins_law ..).1 .log (by decide)
@[simp] theorem onPins_fab (f : PinSt → PinSt) (s : State) : (onPins f s).fab = s.fab :=
  (onPins_law ..).1 .fab (by decide)
@[simp] theorem onPins_link (f : PinSt → PinSt) (s : State) : (onPins f s).link = s.link :=
  (onPins_law ..).1 .link (by decide)
@[simp] theorem onPins_steer (f : PinSt → PinSt) (s : State) : (onPins f s).steer = s.steer :=
  (onPins_law ..).1 .steer (by decide)
@[simp] theorem onPins_stew (f : PinSt → PinSt) (s : State) : (onPins f s).stew = s.stew :=
  (onPins_law ..).1 .stew (by decide)
@[simp] theorem onPins_ckpt (f : PinSt → PinSt) (s : State) : (onPins f s).ckpt = s.ckpt :=
  (onPins_law ..).1 .ckpt (by decide)
@[simp] theorem onPins_time (f : PinSt → PinSt) (s : State) : (onPins f s).time = s.time :=
  (onPins_law ..).1 .time (by decide)
@[simp] theorem onPins_boot (f : PinSt → PinSt) (s : State) : (onPins f s).boot = s.boot :=
  (onPins_law ..).1 .boot (by decide)
@[simp] theorem onPins_pwr (f : PinSt → PinSt) (s : State) : (onPins f s).pwr = s.pwr :=
  (onPins_law ..).1 .pwr (by decide)
@[simp] theorem onPins_upd (f : PinSt → PinSt) (s : State) : (onPins f s).upd = s.upd :=
  (onPins_law ..).1 .upd (by decide)
@[simp] theorem onPins_eth (f : PinSt → PinSt) (s : State) : (onPins f s).eth = s.eth :=
  (onPins_law ..).1 .eth (by decide)
@[simp] theorem onPins_side (f : PinSt → PinSt) (s : State) : (onPins f s).side = s.side :=
  (onPins_law ..).1 .side (by decide)
@[simp] theorem onPins_sent (f : PinSt → PinSt) (s : State) : (onPins f s).sent = s.sent :=
  (onPins_law ..).1 .sent (by decide)
@[simp] theorem onPins_pending (f : PinSt → PinSt) (s : State) : (onPins f s).pending = s.pending :=
  (onPins_law ..).1 .pending (by decide)

/-! ### onHst -/

@[simp] theorem onHst_now (f : HostIf → HostIf) (s : State) : (onHst f s).now = s.now :=
  (onHst_law ..).1 .now (by decide)
@[simp] theorem onHst_freeCtr (f : HostIf → HostIf) (s : State) : (onHst f s).freeCtr = s.freeCtr :=
  (onHst_law ..).1 .freeCtr (by decide)
@[simp] theorem onHst_mem (f : HostIf → HostIf) (s : State) : (onHst f s).mem = s.mem := by
  first | rfl | (unfold onHst; (try dsimp only); (repeat' split) <;> (try rfl) <;> simp)
@[simp] theorem onHst_cores (f : HostIf → HostIf) (s : State) : (onHst f s).cores = s.cores :=
  (onHst_law ..).1 .cores (by decide)
@[simp] theorem onHst_clus (f : HostIf → HostIf) (s : State) : (onHst f s).clus = s.clus :=
  (onHst_law ..).1 .clus (by decide)
@[simp] theorem onHst_ctxs (f : HostIf → HostIf) (s : State) : (onHst f s).ctxs = s.ctxs :=
  (onHst_law ..).1 .ctxs (by decide)
@[simp] theorem onHst_transit (f : HostIf → HostIf) (s : State) : (onHst f s).transit = s.transit :=
  (onHst_law ..).1 .transit (by decide)
@[simp] theorem onHst_ddr (f : HostIf → HostIf) (s : State) : (onHst f s).ddr = s.ddr :=
  (onHst_law ..).1 .ddr (by decide)
@[simp] theorem onHst_idb (f : HostIf → HostIf) (s : State) : (onHst f s).idb = s.idb :=
  (onHst_law ..).1 .idb (by decide)
@[simp] theorem onHst_rst (f : HostIf → HostIf) (s : State) : (onHst f s).rst = s.rst :=
  (onHst_law ..).1 .rst (by decide)
@[simp] theorem onHst_tally (f : HostIf → HostIf) (s : State) : (onHst f s).tally = s.tally :=
  (onHst_law ..).1 .tally (by decide)
@[simp] theorem onHst_log (f : HostIf → HostIf) (s : State) : (onHst f s).log = s.log :=
  (onHst_law ..).1 .log (by decide)
@[simp] theorem onHst_fab (f : HostIf → HostIf) (s : State) : (onHst f s).fab = s.fab :=
  (onHst_law ..).1 .fab (by decide)
@[simp] theorem onHst_link (f : HostIf → HostIf) (s : State) : (onHst f s).link = s.link :=
  (onHst_law ..).1 .link (by decide)
@[simp] theorem onHst_steer (f : HostIf → HostIf) (s : State) : (onHst f s).steer = s.steer :=
  (onHst_law ..).1 .steer (by decide)
@[simp] theorem onHst_stew (f : HostIf → HostIf) (s : State) : (onHst f s).stew = s.stew :=
  (onHst_law ..).1 .stew (by decide)
@[simp] theorem onHst_ckpt (f : HostIf → HostIf) (s : State) : (onHst f s).ckpt = s.ckpt :=
  (onHst_law ..).1 .ckpt (by decide)
@[simp] theorem onHst_time (f : HostIf → HostIf) (s : State) : (onHst f s).time = s.time :=
  (onHst_law ..).1 .time (by decide)
@[simp] theorem onHst_boot (f : HostIf → HostIf) (s : State) : (onHst f s).boot = s.boot :=
  (onHst_law ..).1 .boot (by decide)
@[simp] theorem onHst_pwr (f : HostIf → HostIf) (s : State) : (onHst f s).pwr = s.pwr :=
  (onHst_law ..).1 .pwr (by decide)
@[simp] theorem onHst_upd (f : HostIf → HostIf) (s : State) : (onHst f s).upd = s.upd :=
  (onHst_law ..).1 .upd (by decide)
@[simp] theorem onHst_pins (f : HostIf → HostIf) (s : State) : (onHst f s).pins = s.pins :=
  (onHst_law ..).1 .pins (by decide)
@[simp] theorem onHst_eth (f : HostIf → HostIf) (s : State) : (onHst f s).eth = s.eth :=
  (onHst_law ..).1 .eth (by decide)
@[simp] theorem onHst_side (f : HostIf → HostIf) (s : State) : (onHst f s).side = s.side :=
  (onHst_law ..).1 .side (by decide)
@[simp] theorem onHst_sent (f : HostIf → HostIf) (s : State) : (onHst f s).sent = s.sent :=
  (onHst_law ..).1 .sent (by decide)
@[simp] theorem onHst_pending (f : HostIf → HostIf) (s : State) : (onHst f s).pending = s.pending :=
  (onHst_law ..).1 .pending (by decide)

/-! ### onCkpt -/

@[simp] theorem onCkpt_now (f : CkptSt → CkptSt) (s : State) : (onCkpt f s).now = s.now :=
  (onCkpt_law ..).1 .now (by decide)
@[simp] theorem onCkpt_freeCtr (f : CkptSt → CkptSt) (s : State) : (onCkpt f s).freeCtr = s.freeCtr :=
  (onCkpt_law ..).1 .freeCtr (by decide)
@[simp] theorem onCkpt_mem (f : CkptSt → CkptSt) (s : State) : (onCkpt f s).mem = s.mem := by
  first | rfl | (unfold onCkpt; (try dsimp only); (repeat' split) <;> (try rfl) <;> simp)
@[simp] theorem onCkpt_cores (f : CkptSt → CkptSt) (s : State) : (onCkpt f s).cores = s.cores :=
  (onCkpt_law ..).1 .cores (by decide)
@[simp] theorem onCkpt_clus (f : CkptSt → CkptSt) (s : State) : (onCkpt f s).clus = s.clus :=
  (onCkpt_law ..).1 .clus (by decide)
@[simp] theorem onCkpt_ctxs (f : CkptSt → CkptSt) (s : State) : (onCkpt f s).ctxs = s.ctxs :=
  (onCkpt_law ..).1 .ctxs (by decide)
@[simp] theorem onCkpt_transit (f : CkptSt → CkptSt) (s : State) : (onCkpt f s).transit = s.transit :=
  (onCkpt_law ..).1 .transit (by decide)
@[simp] theorem onCkpt_ddr (f : CkptSt → CkptSt) (s : State) : (onCkpt f s).ddr = s.ddr :=
  (onCkpt_law ..).1 .ddr (by decide)
@[simp] theorem onCkpt_hst (f : CkptSt → CkptSt) (s : State) : (onCkpt f s).hst = s.hst :=
  (onCkpt_law ..).1 .hst (by decide)
@[simp] theorem onCkpt_idb (f : CkptSt → CkptSt) (s : State) : (onCkpt f s).idb = s.idb :=
  (onCkpt_law ..).1 .idb (by decide)
@[simp] theorem onCkpt_rst (f : CkptSt → CkptSt) (s : State) : (onCkpt f s).rst = s.rst :=
  (onCkpt_law ..).1 .rst (by decide)
@[simp] theorem onCkpt_tally (f : CkptSt → CkptSt) (s : State) : (onCkpt f s).tally = s.tally :=
  (onCkpt_law ..).1 .tally (by decide)
@[simp] theorem onCkpt_log (f : CkptSt → CkptSt) (s : State) : (onCkpt f s).log = s.log :=
  (onCkpt_law ..).1 .log (by decide)
@[simp] theorem onCkpt_fab (f : CkptSt → CkptSt) (s : State) : (onCkpt f s).fab = s.fab :=
  (onCkpt_law ..).1 .fab (by decide)
@[simp] theorem onCkpt_link (f : CkptSt → CkptSt) (s : State) : (onCkpt f s).link = s.link :=
  (onCkpt_law ..).1 .link (by decide)
@[simp] theorem onCkpt_steer (f : CkptSt → CkptSt) (s : State) : (onCkpt f s).steer = s.steer :=
  (onCkpt_law ..).1 .steer (by decide)
@[simp] theorem onCkpt_stew (f : CkptSt → CkptSt) (s : State) : (onCkpt f s).stew = s.stew :=
  (onCkpt_law ..).1 .stew (by decide)
@[simp] theorem onCkpt_time (f : CkptSt → CkptSt) (s : State) : (onCkpt f s).time = s.time :=
  (onCkpt_law ..).1 .time (by decide)
@[simp] theorem onCkpt_boot (f : CkptSt → CkptSt) (s : State) : (onCkpt f s).boot = s.boot :=
  (onCkpt_law ..).1 .boot (by decide)
@[simp] theorem onCkpt_pwr (f : CkptSt → CkptSt) (s : State) : (onCkpt f s).pwr = s.pwr :=
  (onCkpt_law ..).1 .pwr (by decide)
@[simp] theorem onCkpt_upd (f : CkptSt → CkptSt) (s : State) : (onCkpt f s).upd = s.upd :=
  (onCkpt_law ..).1 .upd (by decide)
@[simp] theorem onCkpt_pins (f : CkptSt → CkptSt) (s : State) : (onCkpt f s).pins = s.pins :=
  (onCkpt_law ..).1 .pins (by decide)
@[simp] theorem onCkpt_eth (f : CkptSt → CkptSt) (s : State) : (onCkpt f s).eth = s.eth :=
  (onCkpt_law ..).1 .eth (by decide)
@[simp] theorem onCkpt_side (f : CkptSt → CkptSt) (s : State) : (onCkpt f s).side = s.side :=
  (onCkpt_law ..).1 .side (by decide)
@[simp] theorem onCkpt_sent (f : CkptSt → CkptSt) (s : State) : (onCkpt f s).sent = s.sent :=
  (onCkpt_law ..).1 .sent (by decide)
@[simp] theorem onCkpt_pending (f : CkptSt → CkptSt) (s : State) : (onCkpt f s).pending = s.pending :=
  (onCkpt_law ..).1 .pending (by decide)

end Sys2Proof.Machine
end

