-- ==== Sys2Proof/Laws/Read.lean ====
section
/-! SUPPORT. Reading a core's streams, queues and engines back through the operations that every instruction goes through, and what the
front of an instruction does with a word that issues. -/

namespace Sys2Proof.Machine

/-! ### A core written -/

@[simp] theorem core_setCore (g x : Nat) (k : CoreSt) (s : State) : core (setCore g k s) x = if x = g then k else core s x := by
  unfold core setCore
  simp only [Tbl.get_set]

@[simp] theorem strm_setCore (g x st : Nat) (k : CoreSt) (s : State) :
    strm (setCore g k s) x st = if x = g then Tbl.get {} k.streams st else strm s x st := by
  unfold strm
  rw [core_setCore]
  split <;> rfl

@[simp] theorem queue_setCore (g x q : Nat) (k : CoreSt) (s : State) :
    queue (setCore g k s) x q = if x = g then Tbl.get {} k.queues q else queue s x q := by
  unfold queue
  rw [core_setCore]
  split <;> rfl

@[simp] theorem ote_setCore (g x e : Nat) (k : CoreSt) (s : State) :
    ote (setCore g k s) x e = if x = g then Tbl.get {} k.engines e else ote s x e := by
  unfold ote
  rw [core_setCore]
  split <;> rfl

/-! ### Cores that are as they were -/

theorem core_of_cores {s t : State} (h : t.cores = s.cores) (x : Nat) : core t x = core s x := by unfold core; rw [h]
theorem strm_of_cores {s t : State} (h : t.cores = s.cores) (x y : Nat) : strm t x y = strm s x y := by unfold strm; rw [core_of_cores h]
theorem queue_of_cores {s t : State} (h : t.cores = s.cores) (x y : Nat) : queue t x y = queue s x y := by unfold queue; rw [core_of_cores h]
theorem ote_of_cores {s t : State} (h : t.cores = s.cores) (x y : Nat) : ote t x y = ote s x y := by unfold ote; rw [core_of_cores h]

@[simp] theorem core_countCore (g ev q x : Nat) (s : State) : core (countCore g ev q s) x = core s x := core_of_cores (by simp) x
@[simp] theorem strm_countCore (g ev q x y : Nat) (s : State) : strm (countCore g ev q s) x y = strm s x y := strm_of_cores (by simp) x y
@[simp] theorem queue_countCore (g ev q x y : Nat) (s : State) : queue (countCore g ev q s) x y = queue s x y := queue_of_cores (by simp) x y
@[simp] theorem ote_countCore (g ev q x y : Nat) (s : State) : ote (countCore g ev q s) x y = ote s x y := ote_of_cores (by simp) x y

/-! ### One field of a core -/

@[simp] theorem strm_setStrm (g st x y : Nat) (r : Stream) (s : State) : strm (setStrm g st r s) x y = if x = g ∧ y = st then r else strm s x y := by
  simp only [setStrm_eq, strm_setCore, Tbl.get_set]
  by_cases hx : x = g <;> by_cases hy : y = st <;> simp [hx, hy, strm]

@[simp] theorem queue_setStrm (g st x y : Nat) (r : Stream) (s : State) : queue (setStrm g st r s) x y = queue s x y := by
  simp only [setStrm_eq, queue_setCore]
  by_cases hx : x = g <;> simp [hx, queue]

@[simp] theorem ote_setStrm (g st x y : Nat) (r : Stream) (s : State) : ote (setStrm g st r s) x y = ote s x y := by
  simp only [setStrm_eq, ote_setCore]
  by_cases hx : x = g <;> simp [hx, ote]

@[simp] theorem strm_setQueue (g q x y : Nat) (k : TokQueue) (s : State) : strm (setQueue g q k s) x y = strm s x y := by
  simp only [setQueue_eq, strm_setCore]
  by_cases hx : x = g <;> simp [hx, strm]

@[simp] theorem queue_setQueue (g q x y : Nat) (k : TokQueue) (s : State) : queue (setQueue g q k s) x y = if x = g ∧ y = q then k else queue s x y := by
  simp only [setQueue_eq, queue_setCore, Tbl.get_set]
  by_cases hx : x = g <;> by_cases hy : y = q <;> simp [hx, hy, queue]

@[simp] theorem ote_setQueue (g q x y : Nat) (k : TokQueue) (s : State) : ote (setQueue g q k s) x y = ote s x y := by
  simp only [setQueue_eq, ote_setCore]
  by_cases hx : x = g <;> simp [hx, ote]

@[simp] theorem strm_setOte (g e x y : Nat) (k : Ote) (s : State) : strm (setOte g e k s) x y = strm s x y := by
  simp only [setOte_eq, strm_setCore]
  by_cases hx : x = g <;> simp [hx, strm]

@[simp] theorem queue_setOte (g e x y : Nat) (k : Ote) (s : State) : queue (setOte g e k s) x y = queue s x y := by
  simp only [setOte_eq, queue_setCore]
  by_cases hx : x = g <;> simp [hx, queue]

@[simp] theorem ote_setOte (g e x y : Nat) (k : Ote) (s : State) : ote (setOte g e k s) x y = if x = g ∧ y = e then k else ote s x y := by
  simp only [setOte_eq, ote_setCore, Tbl.get_set]
  by_cases hx : x = g <;> by_cases hy : y = e <;> simp [hx, hy, ote]

@[simp] theorem strm_coreFault (g i x y : Nat) (s : State) : strm (coreFault g i s) x y = strm s x y := by
  unfold coreFault
  simp only [updCore_eq, strm_setCore]
  by_cases hx : x = g <;> simp [hx, strm]

@[simp] theorem queue_coreFault (g i x y : Nat) (s : State) : queue (coreFault g i s) x y = queue s x y := by
  unfold coreFault
  simp only [updCore_eq, queue_setCore]
  by_cases hx : x = g <;> simp [hx, queue]

@[simp] theorem ote_coreFault (g i x y : Nat) (s : State) : ote (coreFault g i s) x y = ote s x y := by
  unfold coreFault
  simp only [updCore_eq, ote_setCore]
  by_cases hx : x = g <;> simp [hx, ote]

/-- A core but for its streams, queues, engines and counts of sampling: what no instruction's issue changes by itself. -/
theorem core_setStrm (g st x : Nat) (r : Stream) (s : State) :
    core (setStrm g st r s) x = if x = g then { core s g with streams := Tbl.set (core s g).streams st r } else core s x := by
  simp only [setStrm_eq, core_setCore]

theorem core_setQueue (g q x : Nat) (k : TokQueue) (s : State) :
    core (setQueue g q k s) x = if x = g then { core s g with queues := Tbl.set (core s g).queues q k } else core s x := by
  simp only [setQueue_eq, core_setCore]

theorem core_setOte (g e x : Nat) (k : Ote) (s : State) :
    core (setOte g e k s) x = if x = g then { core s g with engines := Tbl.set (core s g).engines e k } else core s x := by
  simp only [setOte_eq, core_setCore]

/-! ### An instruction issued -/

/-- Sampling's countdown changes two counts of one core. -/
theorem core_sampTick (g x st : Nat) (r : Stream) (s : State) : core (sampTick g st r s) x =
    if x = g then { core s g with sampLeft := (core (sampTick g st r s) g).sampLeft, sampNext := (core (sampTick g st r s) g).sampNext }
    else core s x := by
  unfold sampTick
  split
  · simp only [updCore_eq, core_setCore]
    split <;> simp_all
  · split <;> simp_all

@[simp] theorem strm_sampTick (g x st y : Nat) (r : Stream) (s : State) : strm (sampTick g st r s) x y = strm s x y := by
  unfold strm
  rw [core_sampTick]
  split <;> simp_all

@[simp] theorem queue_sampTick (g x st y : Nat) (r : Stream) (s : State) : queue (sampTick g st r s) x y = queue s x y := by
  unfold queue
  rw [core_sampTick]
  split <;> simp_all

@[simp] theorem ote_sampTick (g x st y : Nat) (r : Stream) (s : State) : ote (sampTick g st r s) x y = ote s x y := by
  unfold ote
  rw [core_sampTick]
  split <;> simp_all

/-- The stream that issued has gone on; no other has. -/
@[simp] theorem strm_issued (g x st y : Nat) (s : State) : strm (issued g st s) x y =
    if x = g ∧ y = st then slide (pcAdd (strm s g st).pc 1) { strm s g st with stall := 0, stallQ := 0, stall0 := 0 } else strm s x y := by
  unfold issued
  simp only [strm_sampTick, strm_countCore, updStrm_eq, strm_setStrm]

@[simp] theorem queue_issued (g x st y : Nat) (s : State) : queue (issued g st s) x y = queue s x y := by
  unfold issued
  simp only [queue_sampTick, queue_countCore, updStrm_eq, queue_setStrm]

@[simp] theorem ote_issued (g x st y : Nat) (s : State) : ote (issued g st s) x y = ote s x y := by
  unfold issued
  simp only [ote_sampTick, ote_countCore, updStrm_eq, ote_setStrm]

theorem core_issued_ne (g x st : Nat) (s : State) (h : x ≠ g) : core (issued g st s) x = core s x := by
  unfold issued
  rw [core_sampTick, if_neg h, core_countCore, updStrm_eq, core_setStrm, if_neg h]

@[simp] theorem issued_core_state (g x st : Nat) (s : State) : (core (issued g st s) x).state = (core s x).state := by
  unfold issued
  rw [core_sampTick]
  split
  · rename_i h
    subst h
    simp only [core_countCore, updStrm_eq, core_setStrm, if_true]
  · rename_i h
    rw [core_countCore, updStrm_eq, core_setStrm, if_neg h]

@[simp] theorem issued_core_fault (g x st : Nat) (s : State) : (core (issued g st s) x).fault = (core s x).fault := by
  unfold issued
  rw [core_sampTick]
  split
  · rename_i h
    subst h
    simp only [core_countCore, updStrm_eq, core_setStrm, if_true]
  · rename_i h
    rw [core_countCore, updStrm_eq, core_setStrm, if_neg h]

/-! ### The fetch state of a stream -/

@[simp] theorem slide_state (p : Word) (r : Stream) : (slide p r).state = r.state := rfl
@[simp] theorem slide_pc (p : Word) (r : Stream) : (slide p r).pc = p := rfl
@[simp] theorem slide_stall (p : Word) (r : Stream) : (slide p r).stall = r.stall := rfl
@[simp] theorem slide_sregs (p : Word) (r : Stream) : (slide p r).sregs = r.sregs := rfl
@[simp] theorem slide_flags (p : Word) (r : Stream) : (slide p r).flags = r.flags := rfl
@[simp] theorem slide_outst (p : Word) (r : Stream) : (slide p r).outst = r.outst := rfl

/-! ### Scalar registers -/

@[simp] theorem setSreg_state (n : Nat) (v : DWord) (r : Stream) : (setSreg n v r).state = r.state := by unfold setSreg; split <;> rfl
@[simp] theorem setSreg_pc (n : Nat) (v : DWord) (r : Stream) : (setSreg n v r).pc = r.pc := by unfold setSreg; split <;> rfl
@[simp] theorem setSreg_flags (n : Nat) (v : DWord) (r : Stream) : (setSreg n v r).flags = r.flags := by unfold setSreg; split <;> rfl
@[simp] theorem setSreg_outst (n : Nat) (v : DWord) (r : Stream) : (setSreg n v r).outst = r.outst := by unfold setSreg; split <;> rfl
@[simp] theorem setSreg_stall (n : Nat) (v : DWord) (r : Stream) : (setSreg n v r).stall = r.stall := by unfold setSreg; split <;> rfl

/-- A scalar register read after one is written: s0 reads 0. -/
theorem sreg_setSreg (n m : Nat) (v : DWord) (r : Stream) :
    sreg (setSreg n v r).sregs m = if m = 0 then 0 else if m = n then v else sreg r.sregs m := by
  unfold setSreg sreg
  by_cases hm : m = 0
  · simp [hm]
  · by_cases hn : n = 0
    · subst hn; simp [hm]
    · simp [hm, hn, Tbl.get_set]

@[simp] theorem sreg_zero (t : Tbl DWord) : sreg t 0 = 0 := rfl

/-- A table read is the accessor (simp writes a zero default as 0#w). -/
@[simp] theorem get_streams (s : State) (g x : Nat) :
    Tbl.get { pc := 0#32, fault := 0#32, faultPc := 0#32, faultInfo := 0#32, wbase := 0#32, flags := 0#6 } (core s g).streams x = strm s g x := rfl
@[simp] theorem get_queues (s : State) (g x : Nat) : Tbl.get { cfg := 0#32 } (core s g).queues x = queue s g x := rfl
@[simp] theorem get_engines (s : State) (g x : Nat) :
    Tbl.get { sigma1 := 1190#16, lambdaF := 256#16, lambdaT := 256#16, lfsr := 65535#16, rowSel := 0#32, selCal := 0#32, selDrift := 0#32,
              selStat := 0#32, chanSel := 0#32, selTrim := 0#32 } (core s g).engines x = ote s g x := rfl

/-! ### The front of an instruction -/

/-- A word that issues reaches its instruction's own effect. -/
theorem front_of_issues {s : State} {g st o : Nat} {w : IWord} (h : Issues s g st o w) (body : Stream → IWord → State) :
    front o g st s body = body (strm s g st) w := by
  obtain ⟨h1, h2, h3, h4, h5, h6⟩ := h
  have h7 : opcodeStream o ≠ some 5 := by
    rcases h5 with h | ⟨h, k⟩ <;> rw [h] <;> simp
    omega
  have h8 : ¬ (opcodeStream o ≠ none ∧ opcodeStream o ≠ some st) := by
    rcases h5 with h | ⟨h, k⟩ <;> simp [h]
  unfold front
  simp only [h1, h2, h3, h6, h4]
  rw [if_neg (by decide), if_neg h7, if_neg h8, if_neg (by simp), if_neg (by simp)]

/-! ### A stream's fault -/

/-- A stream that waits no longer at MODESYNC (R125) is otherwise as it was. -/
theorem strm_withdrawSync (g st : Nat) (s : State) (x y : Nat) :
    strm (withdrawSync g st s) x y = if x = g ∧ y = st then { strm s g st with arrived := false } else strm s x y := by
  unfold withdrawSync
  dsimp only
  split
  · rw [updStrm_eq, strm_setStrm]
    rfl
  · rename_i h
    split
    · rename_i h'
      obtain ⟨rfl, rfl⟩ := h'
      cases e : strm s x y
      simp_all
    · rfl

/-- A fault of a stream that has not faulted yet (R126, R127). -/
theorem strm_strFault (g st cause info : Nat) (b : Bool) (opc : Nat) (pc : Word) (s : State) (x y : Nat) (h : (strm s g st).state ≠ .faulted) :
    strm (strFault g st cause info b opc pc s) x y = if x = g ∧ y = st then { strm s g st with
        state := .faulted, pending := false, stall := 0, stallQ := 0, arrived := false,
        fault := BitVec.ofNat 32 (b2n b * 65536 + opc * 256 + cause), faultPc := pc, faultInfo := BitVec.ofNat 32 info } else strm s x y := by
  have w := strm_withdrawSync g st s
  have l : ∀ x y, strm (logCore g 64 st cause pc.toNat info (withdrawSync g st s)) x y = strm (withdrawSync g st s) x y := strm_of_cores (by simp)
  have m : ∀ x y, strm (if (strm (withdrawSync g st s) g st).pending then enableLost (coreBase g + 0x200 + 0x100 * st) 31 4
      (logCore g 64 st cause pc.toNat info (withdrawSync g st s)) else logCore g 64 st cause pc.toNat info (withdrawSync g st s)) x y
      = strm (withdrawSync g st s) x y := by
    intro x y
    split
    · unfold enableLost
      exact (strm_of_cores (by simp) x y).trans (l x y)
    · exact l x y
  have n : (strm (withdrawSync g st s) g st).state ≠ .faulted := by rw [w, if_pos ⟨rfl, rfl⟩]; exact h
  unfold strFault
  dsimp only
  rw [if_neg n]
  revert m
  generalize (if (strm (withdrawSync g st s) g st).pending = true then _ else _) = z
  intro m
  split
  · rw [strm_of_cores ((postEvent_law ..).1 .cores (by decide)), strm_of_cores ((completeAwaits_law ..).1 .cores (by decide)), strm_setStrm, m, w, w]
    split <;> simp_all
  · rw [strm_setStrm, m, w, w]
    split <;> simp_all

/-- What AT_ISSUE faults leave in CORE_STR_FAULT and beside it. -/
theorem faulted_strFault (g st cause info opc : Nat) (pc : Word) (s : State) (h : (strm s g st).state ≠ .faulted) :
    Faulted (strFault g st cause info true opc pc s) g st cause info opc pc := by
  unfold Faulted
  rw [strm_strFault _ _ _ _ _ _ _ _ _ _ h]
  simp [b2n]

/-! ### The logbook -/

/-- What taking a record into the ring does to the logbook: the record at its slot, the next SEQ. -/
theorem putLog_log (x : LogRec) (s : State) : (putLog x s).log =
    { s.log with ring := Tbl.set s.log.ring (s.log.head.toNat % 65536) (s.log.head, x), head := s.log.head + 1 } := by
  unfold putLog
  dsimp only
  rw [(countHub_law ..).1 .log (by decide)]
  dsimp only
  rw [(store_law ..).1 .log (by decide)]

end Sys2Proof.Machine
end

