-- ==== Sys2Proof/Laws/Step.lean ====
section
/-! SUPPORT. What each operation of Machine/Step.lean may touch, one lemma for each, and that it keeps memory in its canonical form. -/

set_option maxRecDepth 4000
set_option linter.all false

namespace Sys2Proof.Machine

theorem tick_law (s : State) :
    Law [.now, .tally, .time] s (tick s) := by
  unfold tick
  repeat' (first
    | extract_lets | with_reducible exact Law.refl _ _ | with_reducible assumption | with_reducible apply Law.step (countCycles_law _)
    | with_reducible refine Law.foldl _ _ _ ?_ ?_ | (show (_ : List Part) ⊆ _; decide) | (show (_ : List Part) ⊆ _; decide) | (intro _)
    | split | with_reducible refine Law.set_now_time _ _ (by decide) (by decide) ?_ | (dsimp +zetaDelta only [id]))

end Sys2Proof.Machine
end

