-- ==== Sys2Proof/WellFormed.lean ====
section
/-! DEFINITION. Which commands are well formed: operands whose type is wider than what the row's rule allows. A command outside
these bounds is nothing that the hardware can meet; exec answers it all the same. -/

namespace Sys2Proof

/-- A number within bounds. -/
def inRange (n lo hi : Nat) : Bool := decide (lo ≤ n ∧ n ≤ hi)

/-- An offset in BAR0 (R176: 32 MiB). -/
def bar0Off (off : Nat) : Bool := decide (off < 33554432)

/-- Units of 256 bytes in the largest DDR capacity (R150: 960 × 10⁹ bytes). -/
def unitMax : Nat := 3750000000

/-- The offset of a memory error lies inside the largest of the memories, a cistern of 96 MiB (R22). -/
def Ecc.wf : Ecc → Bool
  | .clean => true
  | .corrected off => decide (off < 100663296)
  | .double off => decide (off < 100663296)

/-- A control message's sender: a module, the external arbiter or the operator tool (R279). -/
def Hdr.wf (h : Hdr) : Bool := decide (h.src ≤ 0x21)

/-- A segment's length and virtual core (R241). -/
def SegDesc.wf (d : SegDesc) : Bool := decide (d.length ≤ 61440) && decide (d.tvcore < 256) && decide (d.poff < 65536)

/-- Whether a command is well formed. -/
def Instr.wf : Instr → Bool
  | .signal _ _ => true
  | .signalResume _ _ => true
  | .wait _ _ => true
  | .waitResume _ _ => true
  | .remoteTokenArrival _ _ _ _ _ _ => true
  | .coreTqCfgWrite _ _ _ => true
  | .tqClear _ _ _ => true
  | .routerBeat _ _ _ _ _ _ _ => true
  | .sramCeRateExpiry _ => true
  | .scrubComplete _ _ => true
  | .loadw _ _ => true
  | .loadwReadStart _ _ => true
  | .loadwReadEnd _ _ ecc => ecc.wf
  | .loadwWriteStart _ _ => true
  | .loadwComplete _ _ => true
  | .flip _ _ => true
  | .flipStart _ _ => true
  | .flipComplete _ _ => true
  | .swapCopyEnd _ _ => true
  | .mvm _ _ => true
  | .mvmStart _ _ => true
  | .outputTileReady _ _ _ ecc => ecc.wf
  | .writeBufferResume _ _ => true
  | .mvmComplete _ _ => true
  | .reissueFeedStop _ _ => true
  | .reissueRun _ _ => true
  | .reissueResume _ _ => true
  | .dveRecomputeDone _ _ ecc => ecc.wf
  | .shadowVectorDone _ _ => true
  | .failTileLogFlush _ _ => true
  | .calPhaseEnd _ _ ms => ms.length == 1 || ms.length == 65
  | .swapReadyDeferred _ _ => true
  | .exerciseBurst _ _ => true
  | .swapWaitAlarm _ _ => true
  | .lockLost _ => true
  | .relockComplete _ => true
  | .pilotCheckEnd _ _ => true
  | .combRelockTimeout _ _ => true
  | .governorIntervalEnd _ want => want.length == 36 && want.all (decide <| · ≤ 8000)
  | .combPowerCheck _ _ _ _ _ => true
  | .cluCombGo _ _ => true
  | .handoverStandbyLocked _ => true
  | .handoverEnginesHeld _ => true
  | .handoverHoldTimeout _ => true
  | .handoverSwitchDone _ => true
  | .handoverConfirmEnd _ _ _ trims => trims.length == 12 && trims.all (·.length == 64)
  | .handoverRetry _ => true
  | .oteRowSelWrite _ _ _ => true
  | .oteChanSelWrite _ _ _ => true
  | .nop _ _ => true
  | .halt _ _ => true
  | .rsignal _ _ => true
  | .li _ _ => true
  | .alu _ _ => true
  | .br _ _ => true
  | .rdsys _ _ => true
  | .fence _ _ => true
  | .releaseComplete _ _ => true
  | .get _ _ => true
  | .getComplete _ _ ecc => ecc.wf
  | .put _ _ => true
  | .putComplete _ _ ecc => ecc.wf
  | .stepmark _ _ => true
  | .modesync _ _ => true
  | .modeEditionTimeout _ => true
  | .vew _ _ => true
  | .vfma _ _ => true
  | .vun _ _ => true
  | .vred _ _ => true
  | .vcvt _ _ => true
  | .vmm _ _ => true
  | .vstat _ _ => true
  | .vectorComplete _ ecc => ecc.wf
  | .fetchFill _ _ ecc => ecc.wf
  | .start _ _ v => v.getLsbD 31 && !v.getLsbD 30
  | .stop _ _ v => v.getLsbD 30
  | .streamStopped _ _ => true
  | .ddrReadRequest _ u _ _ _ => decide (u < unitMax)
  | .ddrWriteRequest _ u off dat _ _ => decide (u < unitMax) && decide (0 < dat.length ∧ off + dat.length ≤ 256)
  | .stripeGatherTimeout _ => true
  | .patrolScrubStep _ => true
  | .watchClearTimeout _ => true
  | .deviceFailed _ cause => inRange cause 1 3
  | .ddrRetire _ => true
  | .migrationChunk => true
  | .guardRegionZero _ => true
  | .copy _ => true
  | .fill _ => true
  | .paged _ => true
  | .copyDescriptorStart _ => true
  | .copyDescriptorComplete _ ecc => ecc.wf
  | .copyListWake _ _ => true
  | .copyListRestart _ _ => true
  | .functionLevelReset => true
  | .hotReset => true
  | .linkDownTimeout => true
  | .busMasterEnableChange _ _ _ c => [128, 256, 512].contains c.payload && [128, 256, 512, 1024, 2048, 4096].contains c.readReq && decide (c.ctoRange < 16)
  | .hostReadFailure _ _ _ => true
  | .poisonedTlpReceived _ _ => true
  | .bar4Read off len => decide (0 < len ∧ off + len ≤ 1073741824)
  | .bar4Write off dat => decide (0 < dat.length ∧ off + dat.length ≤ 1073741824)
  | .sqTailDoorbell off size _ => decide (off + size ≤ 65536) && decide (0 < size)
  | .cqHeadDoorbell off size _ => decide (off + size ≤ 65536) && decide (0 < size)
  | .ringFetchComplete _ => true
  | .msixTimeExpiry _ => true
  | .ringEnable _ => true
  | .ringDisable _ => true
  | .ringDrainComplete _ => true
  | .post _ => true
  | .awaitStep _ => true
  | .awaitDone _ => true
  | .ctxCreate _ => true
  | .ctxStart _ => true
  | .ctxTeardown _ => true
  | .teardownComplete _ => true
  | .modeStage _ => true
  | .coreFence _ => true
  | .fenceClear _ => true
  | .protCommit _ => true
  | .protSetRetire _ => true
  | .registerWrite off lenDw _ _ => bar0Off off && decide (0 < lenDw)
  | .rcRead (.bar0 off lenDw) => bar0Off off && (lenDw == 1 || lenDw == 2)
  | .rcRead (.doorbell off size) => decide (off + size ≤ 65536) && (size == 1 || size == 2 || size == 4 || size == 8)
  | .pwWriteEffect off => bar0Off off
  | .pwWriteDrop off => bar0Off off
  | .idTestSet _ => true
  | .laneRetuneComplete _ _ _ => true
  | .rxPowerLow _ _ _ => true
  | .tapRefresh _ reads _ => reads.all fun x => (x.1.val != 2 && x.1.val != 5) || decide (x.2.1.val < 16)
  | .fabCombGo _ => true
  | .fabSpareLocked _ => true
  | .fabLowTraffic _ load => decide (load ≤ 100)
  | .fabHandoverWindowExpiry _ => true
  | .fabHandoverDrainDone _ => true
  | .fabHandoverDrainTimeout _ => true
  | .fabSwitchDone _ => true
  | .fabRelockDone _ _ _ => true
  | .fabHandoverRetry _ => true
  | .fabCombRelockTimeout _ => true
  | .fabTapSelWrite _ _ => true
  | .trainingPhaseComplete _ _ f _ _ => inRange f.phase 1 4
  | .trainingPhaseTimeout _ _ cause => inRange cause 1 4
  | .codeSwitch _ _ => true
  | .shortCodeBerExceeded _ _ => true
  | .flitSlot _ _ => true
  | .idle _ type payload => (decide (type.val = 0) && payload.isEmpty) || (decide (8 ≤ type.val) && decide (payload.length ≤ 240))
  | .writeSegment _ d => d.wf && decide (1 ≤ d.length) && (d.kind == 0 || decide (2 < d.kind.toNat))
  | .tokenOnly _ d => d.wf && d.kind == 2
  | .readResp _ d => d.wf && decide (d.poff ≤ d.length) && d.kind == 1
  | .data _ _ _ _ bytes => decide (0 < bytes.length ∧ bytes.length ≤ 240)
  | .rdreq _ d => d.wf && decide (1 ≤ d.length) && d.kind == 3
  | .notice _ es => decide (es.length ≤ 15) && es.all fun e => inRange e.kind 1 3
  | .noticeFlush _ _ => true
  | .ctrl _ _ _ frag _ bytes => decide (frag ≤ 63 ∧ 1 ≤ bytes.length ∧ bytes.length ≤ 232)
  | .genChange _ _ _ _ => true
  | .lane _ _ => true
  | .laneReportDue _ _ _ _ => true
  | .beacon _ _ => true
  | .beaconDue => true
  | .ackTimeout _ _ => true
  | .segmentTimeout _ _ => true
  | .pairRetrainCmd _ _ => true
  | .surveySweepEnd _ => true
  | .chartPart h _ part parts _ bytes => h.wf && inRange parts 1 3 && decide (part < parts) && decide (bytes.length ≤ 12288)
  | .chartCommit => true
  | .chartApplyDeadline => true
  | .chartControlResend _ => true
  | .staged h _ cause _ => h.wf && inRange cause 0 7
  | .applied h _ _ _ notUp => h.wf && decide (notUp.length ≤ 64) && notUp.all fun x => inRange x.reason 1 4
  | .surveyReport h _ recs _ => h.wf && (recs.length == 16 || recs.length == 8)
  | .surveyCmd h _ => h.wf
  | .lateModule _ => true
  | .retryWaitExpiry _ => true
  | .survey _ => true
  | .chartRead _ => true
  | .demand _ none => true
  | .demand _ (some x) => decide (x.2.2.length = 32) && x.2.2.all fun b => decide (b.toNat ≤ 16)
  | .demandTimeout _ => true
  | .chartSubmit _ => true
  | .loopTest _ => true
  | .loopTestEnd _ _ _ => true
  | .leaseReq h b => h.wf && inRange b.role 1 2 && inRange b.mirror 0 2
  | .leaseGrant h _ _ _ => h.wf
  | .leaseDeny h cause _ _ => h.wf && inRange cause 1 5
  | .leaseEnd h _ cause => h.wf && cause == 1
  | .released h _ _ => h.wf
  | .takeover h _ _ _ kind => h.wf && inRange kind 1 4
  | .heartbeat h b => h.wf && b.gens.length == 4
  | .heartbeatAck h _ _ => h.wf
  | .mirror rec => inRange rec.kind 1 9
  | .mirrorAck _ => true
  | .mirrorAckLate _ => true
  | .snapshot _ part parts _ => decide (part < parts)
  | .eventReport h _ => h.wf
  | .moduleEvent h _ _ _ _ => h.wf
  | .bind h _ bs => h.wf && bs.length == 32
  | .jobCtl h _ _ action _ _ => h.wf && inRange action 1 4
  | .jobReport h _ _ => h.wf
  | .statusReq h _ => h.wf
  | .status h b => h.wf && b.gens.length == 4
  | .podConfig h cfg => h.wf && cfg.addrs.length == 32
  | .probe h => h.wf
  | .ack h _ => h.wf
  | .ackRetransmit _ => true
  | .leaseRenewDue => true
  | .candidacyDue => true
  | .holderLeaseTimerEnd => true
  | .arbiterLeaseExpiry => true
  | .arbiterStartingEnd => true
  | .rebuildStatusWait => true
  | .quietPointReturn => true
  | .twinLost _ => true
  | .twinRestored => true
  | .holdEntry => true
  | .heartbeatDue => true
  | .memberSilent _ => true
  | .probeTimeout _ => true
  | .riskScoreUpdate _ _ => true
  | .authorityClaim _ => true
  | .authorityHeartbeatTimeout => true
  | .ckptRegister _ => true
  | .ckptBegin _ => true
  | .journal _ => true
  | .drain _ => true
  | .restore _ => true
  | .restoreComplete _ _ _ _ _ _ => true
  | .target _ => true
  | .targetConnected _ => true
  | .abort _ => true
  | .invalidate _ => true
  | .fullFreezeComplete _ _ => true
  | .periodicCheckpoint _ => true
  | .granuleCopy _ => true
  | .copyAheadRelease _ => true
  | .locatorWriteComplete _ _ => true
  | .drainComplete _ _ _ => true
  | .drainFail _ _ cause _ => inRange cause 1 4
  | .miniWriteComplete _ => true
  | .coreReset _ cause => inRange cause 1 6
  | .clusterReset _ cause => inRange cause 1 6
  | .halfReset _ cause => inRange cause 1 6
  | .computeReset cause => inRange cause 1 6
  | .fabricLaneReset _ _ cause => inRange cause 1 6
  | .moduleWarmReset cause => inRange cause 1 6
  | .moduleColdReset cause => inRange cause 1 6
  | .resetDrainEnd => true
  | .resetSampleWritten => true
  | .resetRelease _ => true
  | .resetEscalation => true
  | .streamWaitHang _ _ => true
  | .streamIssueHang _ _ => true
  | .progressHang _ _ => true
  | .stopHang _ _ => true
  | .routerHang _ _ _ => true
  | .pairHang _ _ => true
  | .chipletWatchdog _ => true
  | .halfControllerWatchdog _ => true
  | .hubWatchdog _ => true
  | .hubFirmwareException _ => true
  | .hubMemoryUe _ => true
  | .ddrControllerFault _ => true
  | .dumpWritten _ _ => true
  | .dumpWellCopyEnd result _ => inRange result 1 3
  | .dumpClear _ => true
  | .rstHangCfgWrite _ => true
  | .timeNowCapture => true
  | .servoUpdate _ => true
  | .sourceLost => true
  | .holdoffEnd => true
  | .lockAcquired => true
  | .sync _ _ _ _ => true
  | .followUp _ _ => true
  | .announce _ _ _ => true
  | .delayResp _ _ => true
  | .pdelayReq _ _ => true
  | .pdelayResp _ _ _ => true
  | .pdelayRespFollowUp _ _ => true
  | .ppsEdge _ => true
  | .timeStepGo => true
  | .manualSet => true
  | .manualClear => true
  | .alarmArm _ => true
  | .alarmFire _ => true
  | .todEnable _ => true
  | .todDisable _ => true
  | .todPulseStart _ => true
  | .todPulseEnd _ => true
  | .counterCfgWrite off _ => bar0Off off
  | .counterWrap off => bar0Off off
  | .snapshotCmd _ => true
  | .periodicSnapshot => true
  | .sampleTag _ _ => true
  | .sampleRecordWrite => true
  | .samplingEnable _ => true
  | .samplingDisable _ => true
  | .samplingDrainEnd => true
  | .logbookRecord => true
  | .inputExcursionEnd _ extreme _ _ => decide (extreme < 65536)
  | .dropout cv _ => decide (cv < 65536)
  | .overvolt cv _ => decide (cv < 65536)
  | .holdupExhausted => true
  | .inputRestored => true
  | .powerCapExceeded _ => true
  | .powerCapRelease => true
  | .dieSensorRead temps ddr _ _ => temps.length == 8 && ddr.length == 12
  | .throttleStep _ => true
  | .thermalTrip _ _ => true
  | .thermalRestart => true
  | .coolantWarning _ _ _ => true
  | .clockLost _ => true
  | .clrExtremes _ => true
  | .bootStepComplete _ => true
  | .bootPwrfailRelease => true
  | .calStepComplete _ => true
  | .surveyWaitTimeout => true
  | .updOpen _ => true
  | .updWrite _ _ => true
  | .updCommit _ _ => true
  | .updAbort _ => true
  | .updStatus _ => true
  | .updSessionIdle => true
  | .attest _ => true
  | .sidebandAttest nonce => nonce.length == 32
  | .pwrfailNAssert _ _ _ _ => true
  | .rackAttn => true
  | .rackAttnMask _ => true
  | .perstN => true
  | .slotIdChange _ => true
  | .ejectorOpen => true
  | .ejectorClose => true
  | .ethPortEnable _ => true
  | .ethPortDisable _ => true
  | .ethPortDrainEnd _ => true
  | .osfpModuleChange _ _ powerClass => decide (powerClass ≤ 8)
  | .ethernetFrame _ frame _ _ => decide (0 < frame.length)
  | .controlLinkChange _ => true
  | .locate _ => true
  | .setEndpointId _ _ => true
  | .getEndpointId => true
  | .getMctpVersionSupport _ => true
  | .getMessageTypeSupport => true
  | .getVendorDefinedMessageSupport _ => true
  | .getTid => true
  | .setTid _ => true
  | .getPldmVersion _ => true
  | .getPldmTypes => true
  | .getPldmCommands _ => true
  | .getPdr _ => true
  | .getSensorReading _ => true
  | .getStateSensorReadings _ => true
  | .getFruRecordTableMetadata => true
  | .getFruRecordTable => true
  | .linkRateOrWidthChange rate10 width => [25, 50, 80, 160, 320].contains rate10 && [1, 2, 4, 8].contains width
  | .hostInterfaceResetComplete => true
  | .bar0ReadRefused off lenDw _ => bar0Off off && decide (0 < lenDw)
  | .codewordLockLost _ _ => true
  | .preFecBerExceeded _ _ => true
  | .ppsLost => true

end Sys2Proof
end

