-- ==== Sys2Proof/Tests/Slice0.lean ====
section
/-! SUPPORT. The row's own tests: for each obligation with hypotheses a concrete state and operands that meet them, clause by clause
(witness_…); the spec's worked examples and ill-formed terms (test_…). -/

open Sys2Proof Sys2Proof.Machine
namespace Sys2Proof.Machine.Tests
set_option Elab.async false

/-! ### States -/

/-- The module in operation. -/
def up : State := { State.reset with boot := { state := .ready } }
/-- Core 0 as given. -/
def withCore (c : CoreSt) : State := setCore 0 c up
/-- A stream of core 0 as given. -/
def withStream (st : Nat) (r : Stream) : State := withCore { state := .assigned, streams := [(st, r)] }
/-- A stream with a word at its PC. -/
def atWord (w : IWord) : Stream := { state := .running, pc := 0x1000, fbuf := [(0x1000, w)], wbase := 0x1000 }
/-- A stream stalled on a word. -/
def heldAt (code : Nat) (w : IWord) : Stream := { atWord w with stall := code }
/-- Engine 0 of core 0 as given. -/
def withEngine (o : Ote) : State := withCore { state := .assigned, engines := [(0, o)] }
/-- Cluster 0 as given. -/
def withClu (k : CluSt) : State := setClu 0 k up
/-- Ring 0 as given. -/
def withRing (k : RingSt) : State := setRing 0 k up
/-- A ring entry by its 512 bits. -/
def numEntry (n : Nat) : Entry := { bytes := toBytes n 64, edition := 0, gen := 0 }
/-- A state at a later time. -/
def clockAt (n : Nat) (s : State) : State := { s with now := n }
/-- The header of a flit on lane 0 of plane 0 that carries this, with its CRC. -/
def hdrOf (type : Nat) (tag : Nat × Nat × Bool) (payload : List Byte) : FlitHdr :=
  { p := 0, l := 0, slot := 0, lost := [], tc := 0, seq := 0, ack := 0xFFF, nak := false, cr0 := 9, cr1 := 9, cr2 := 9,
    crc := BitVec.ofNat 32 (crc32c (flitImage (flitHead type 0 0 0xFFF false (9, 9, 9) tag.1 tag.2.1 tag.2.2) payload)) }
def hdrFor (b : FlitBody) : FlitHdr := hdrOf (bodyType b) (bodyTag b) (bodyPayload b)
/-- A training frame of module 1 to module 0 on channel 0 of plane 0, with its CRC. -/
def trainOf (phase : Nat) (code : Fin 4) : TrainFrame :=
  let f : TrainFrame := { mark := 0x554C4C4F, phase := phase, modu := 1, plane := 0, chan := 0, txLane := 0, code := code, from_ := 0, ber := 0, cwidx := 0, crc := 0 }
  { f with crc := BitVec.ofNat 32 (crc32c (trainImage f)) }
/-- A frame of `n` zero bytes and its FCS. -/
def ethFrame (n : Nat) : List Byte := List.replicate n 0 ++ toBytes (fcs32 (List.replicate n 0)) 4
/-- An active ring of 64 entries, of a type, with these in flight; its completions go to bus address 0x10000. -/
def ringOf (type : Nat) (es : List Entry) : RingSt :=
  { cfg := BitVec.ofNat 32 (type + 0x60), enable := true, state := .active, inflight := es, sqHead := es.length, sqTail := es.length, cqLo := 0x10000 }
/-- Context 0 as given, with ring 0 bound to it. -/
def bound (x : CtxSt) (s : State) : State := setCtx 0 x { s with hst := { s.hst with force := [(0x200, 0x80000000)] } }
/-- Core 0 with every stream halted, and ring 0 as given. -/
def withHalted (k : RingSt) : State :=
  setCore 0 { state := .assigned, streams := [(0, { state := .halted }), (1, { state := .halted }), (2, { state := .halted }), (3, { state := .halted })] }
    (withRing k)
/-- Memory as given. -/
def upDdr (d : DdrSt) : State := { up with ddr := d }
/-- The counter units as given. -/
def upTally (t : TallySt) : State := { up with tally := t }
/-- BAR4 open at device address 0. -/
def bar : State := { up with hst := { up.hst with force := [(0x0C, 0x80000000)] } }
/-- A pod configuration: modules 0 to 3, designated active 0, standby 1, arbiter 2. -/
def pod : PodCfg := ⟨1, 0, 1, 2, 15, 0, 0, []⟩
/-- The next state of an outcome. -/
def nextOf (o : Host.Outcome State Fault Refusal) (s : State) : State :=
  match o with
  | .next t => t
  | _ => s
/-- An access check that answers an address of this module. -/
def isHere (x : Except AccErr Place) (a : Nat) : Bool :=
  match x with
  | .ok (.here b) => b == a
  | _ => false
theorem ok_here (x : Except AccErr Place) (a : Nat) (h : isHere x a = true) : x = .ok (.here a) := by
  unfold isHere at h
  split at h
  · rw [eq_of_beq h]
  · cases h
/-- A segment's verdict that lets it pass to an address. -/
def isPass (x : Verdict) (a : Nat) : Bool :=
  match x with
  | .pass b => b == a
  | _ => false
theorem is_pass (x : Verdict) (a : Nat) (h : isPass x a = true) : x = .pass a := by
  unfold isPass at h
  split at h
  · rw [eq_of_beq h]
  · cases h
/-- The outcome is a next state. -/
def isNext (o : Host.Outcome State Fault Refusal) : Bool :=
  match o with
  | .next _ => true
  | _ => false
theorem next_of (o : Host.Outcome State Fault Refusal) (s : State) (h : isNext o = true) : o = .next (nextOf o s) := by
  cases o with
  | next t => rfl
  | fault f => cases h
  | refused f => cases h

/-! ### Witnesses that need more than one stream or alarm -/

theorem witness_IssueFaultRule :
    ((fun (s : State) (g : Core) (st : Str) (p : Word) (a : Nat) =>
      (strm s g st).state = .running
      ∧ nextFetch (strm s g st) = some p
      ∧ fetchAt s g p = .ok a
      ∧ badByte s a 16 = none) (withStream 0 { state := .running, pc := 0xFFFFF0, wbase := 0xFFFFF0 }) 0 0 0xFFFFF0 (sramKey 0 0xFFFFF0))
    ∧ ((fun (c : Instr) (s : State) (g : Core) (st : Str) (w : IWord) =>
      WordRow c g st
      ∧ (strm s g st).state = .running
      ∧ (strm s g st).stall ≠ 1 ∧ (strm s g st).stall ≠ 2 ∧ (strm s g st).stall ≠ 3 ∧ (strm s g st).stall ≠ 5
      ∧ fetched (strm s g st) = some w
      ∧ opcodeStream (fld w 0 8) = some 5) (.nop 0 0) (withStream 0 (atWord 6)) 0 0 6)
    ∧ ((fun (c : Instr) (s : State) (g : Core) (st : Str) (w : IWord) (x : Nat) =>
      WordRow c g st
      ∧ (strm s g st).state = .running
      ∧ (strm s g st).stall ≠ 1 ∧ (strm s g st).stall ≠ 2 ∧ (strm s g st).stall ≠ 3 ∧ (strm s g st).stall ≠ 5
      ∧ fetched (strm s g st) = some w
      ∧ opcodeStream (fld w 0 8) = some x ∧ x ≠ 5 ∧ x ≠ st.val) (.vstat 0 0) (withStream 0 (atWord 0x20)) 0 0 0x20 3)
    ∧ ((fun (c : Instr) (s : State) (g : Core) (st : Str) (w : IWord) =>
      WordRow c g st
      ∧ (strm s g st).state = .running
      ∧ (strm s g st).stall ≠ 1 ∧ (strm s g st).stall ≠ 2 ∧ (strm s g st).stall ≠ 3 ∧ (strm s g st).stall ≠ 5
      ∧ fetched (strm s g st) = some w
      ∧ (opcodeStream (fld w 0 8) = none ∨ opcodeStream (fld w 0 8) = some st.val)
      ∧ w.toNat &&& (2 ^ 128 - 1 - namedBits (fld w 0 8)) ≠ 0) (.nop 0 0) (withStream 0 (atWord 0x100)) 0 0 0x100) := by
  refine ⟨⟨by decide +kernel, by decide +kernel, by decide +kernel, by decide +kernel⟩, ⟨by simp [WordRow], ?_⟩, ⟨by simp [WordRow], ?_⟩,
    ⟨by simp [WordRow], ?_⟩⟩
  · decide +kernel
  · decide +kernel
  · decide +kernel

/-- An alarm armed at time 0. -/
def armedNow : State := { withRing (ringOf 6 []) with time := { up.time with alarms := [(7, { armed := true })] } }

theorem witness_AlarmRule :
    ((fun (s : State) (a : Fin 8) => alarmDue s a = true) armedNow 7)
    ∧ ((fun (s : State) (a : Fin 8) (r : Nat) => alarmDue s a = true ∧ EventReady s none r) armedNow 7 0)
    ∧ ((fun (s : State) (a : Fin 8) => (alarm s a).armed = false) up 7) :=
  ⟨by decide +kernel, ⟨by decide +kernel, by unfold EventReady Machine.Inv; decide +kernel⟩, by decide +kernel⟩

/-- ρ = 1/4 FS: code 0x380. -/
theorem est_quarter : estCode (1 / 16) = 0x380 := by
  have h : Nat.sqrt (0x80000 * 0x80000) = 0x80000 := Nat.sqrt_eq _
  have hx : ((1 / 16 : Rat) * 0x40000000000).ceil.toNat = 0x80000 * 0x80000 := by decide +kernel
  simp only [estCode, hx, h]
  decide +kernel

theorem witness_EstimateCode :
    ((fun (r : Rat) => estCode r < 0x3FF) (1 / 16)) ∧ ((fun (r : Rat) (c : Nat) => c < estCode r) (1 / 16) 0x37F) := by
  show estCode (1 / 16) < 0x3FF ∧ 0x37F < estCode (1 / 16)
  rw [est_quarter]
  decide

/-! ### The spec's worked examples, and words written out from its encodings -/

/-- R42's example: the registers of core B6.2 start at 0x0F1_8000. -/
theorem test_core_region : coreBase 128 = 0xF18000 := by decide

/-- R14's example, plane P3 with o_3 = 7: M5 to M20 on f8, M28 to M3 on f0, loop-back on f25. -/
theorem test_plane_channel :
    chanTo 5 20 7 = 8 ∧ chanTo 28 3 7 = 0 ∧ chanTo 5 5 7 = 25 := by decide

/-- R30's example: enabled with PRELOAD 2, a queue holds payloads 0 and 1. -/
theorem test_preload :
    (queue (nextOf (exec (.coreTqCfgWrite 0 1 0x80020011) (withCore {})) up) 0 1).toks = [0, 1] := by decide +kernel

/-- R151's example: unit 285,212,672 lies in stripe 25,928,424 at position 8; parity on channel 0, positions 8 to 10 on channels 9 to 11;
chunk 1 starts at position 0 of stripe 25,928,448. -/
theorem test_stripe :
    let ds := List.range 12
    stripeOf ds 285212672 = 25928424 ∧ 285212672 % 11 = 8 ∧ parityDev ds 25928424 = 0
      ∧ [285212672, 285212673, 285212674].map (unitDev ds) = [9, 10, 11] ∧ stripeOf ds 285212928 = 25928448 ∧ 285212928 % 11 = 0 := by
  decide +kernel

/-- R139's example: 0x3F80_5000 rounds to 0x3F81 when r ≥ 11,534,336 and to 0x3F80 otherwise; to nearest even always to 0x3F80. -/
theorem test_stochastic_rounding :
    let v := decodeFp fp32 true false 0x3F805000
    encodeFp bf16 (roundFp bf16 false (.sto 11534336) v).1 = 0x3F81 ∧ encodeFp bf16 (roundFp bf16 false (.sto 11534335) v).1 = 0x3F80
      ∧ encodeFp bf16 (roundFp bf16 false .rne v).1 = 0x3F80 := by decide +kernel

/-- R112: a word of opcode 0x05 with D = 3 in bits 11:8 and an immediate from bit 32 is LI s3. -/
theorem test_li_word :
    sreg (strm (nextOf (exec (.li 0 0) (withStream 0 (atWord 0x123400000305))) up) 0 0).sregs 3 = 0x1234 := by decide +kernel

/-- s0 discards what is written to it. -/
theorem test_li_s0 :
    sreg (strm (nextOf (exec (.li 0 0) (withStream 0 (atWord 0x123400000005))) up) 0 0).sregs 0 = 0 := by decide +kernel

/-- A SIGNAL to a full queue stalls its stream with reason 2. -/
theorem test_signal_full :
    (strm (nextOf (exec (.signal 0 0) (withCore { state := .assigned, streams := [(0, atWord 3)], queues := [(0, { cfg := 0x800000F0, toks := List.replicate 64 0 })] })) up) 0 0).stall = 2 := by decide +kernel

/-- The table gives no row any bits. -/
theorem test_no_word (nbits w : Nat) : decodeTableWord nbits w = none := rfl

/-- A memory read after a write gives the byte written; writing 0, what an unlisted address reads as, removes the entry. -/
theorem test_memory_write :
    ((Memory.write [] 5 7).read 5).toNat = 7 ∧ Memory.write (Memory.write [] 5 7) 5 0 = [] := by decide

/-- R319: one literal, a match of 7 bytes at offset 1 that overlaps its own output, an empty last sequence; an offset beyond the output
is a decode error. -/
theorem test_lz :
    lzDecode 8 [0x13, 0x61, 1, 0, 0] = some (List.replicate 8 0x61) ∧ lzDecode 8 [0x13, 0x61, 2, 0, 0] = none := by decide +kernel

/-- R320: symbols 5 and 16 have codes of one bit, 0 and 1; T is 2; the bits 1, 0 are the LZ payload 0x10, 0x05. A Kraft sum of 3/2 is a decode
error. -/
theorem test_lz_huf :
    let lens := fun (z : Byte) => [0, 0, 0x10, z, 0, 0, 0, 0, 1] ++ List.replicate 119 0
    lzHufDecode 1 (lens 0 ++ [2, 0, 0, 0, 1]) = some [5] ∧ lzHufDecode 1 (lens 1 ++ [2, 0, 0, 0, 1]) = none := by decide +kernel

/-- R232: a codeword of RS(272,257) is divisible by (x − αⁱ), i = 0 to 13. -/
theorem test_rs_roots :
    ((List.range 14).map fun i => (([5, 1023, 7] ++ rsParity 7 [5, 1023, 7]).foldl (fun r m => gfMul r (gfPow i) ^^^ m) 0)) = List.replicate 14 0 := by
  decide +kernel

/-- The check values of CRC-32C (R237) and of the Ethernet FCS (R434) for the digits 1 to 9. -/
theorem test_crc :
    let d : List Byte := [0x31, 0x32, 0x33, 0x34, 0x35, 0x36, 0x37, 0x38, 0x39]
    crc32c d = 0xE3069283 ∧ fcs32 d = 0xCBF43926 := by decide +kernel

/-- SHA-512 of the bytes a, b, c begins DDAF35A1 93617ABA (the standard's own example). -/
theorem test_sha512 : (sha512 [0x61, 0x62, 0x63]).take 8 = [0xDD, 0xAF, 0x35, 0xA1, 0x93, 0x61, 0x7A, 0xBA] := by decide +kernel

/-! ### WellFormed -/

/-- A header, a segment of a kind and a flit as given. -/
def fromSrc (src : Nat) : Hdr := ⟨src, 0, 0, 0, false, false⟩
def segOf (kind : Byte) (len : Nat) (vcore : Nat) (poff : Nat) : SegDesc := ⟨kind, 0, 0, 0, 0, 0, 0, len, 0, 0, false, poff, false, vcore, 0, 0⟩
def flit : FlitHdr := ⟨0, 0, 0, [], 0, 0, 0, false, 0, 0, 0, 0⟩
/-- Commands that none of the lists holds are refused. -/
def refused (cs : List Instr) : Bool := cs.all fun c => !c.wf

theorem test_refused_memory_errors :
    refused [.loadwReadEnd 0 0 (.double 100663296), .outputTileReady 0 0 false (.corrected 100663296), .dveRecomputeDone 0 0 (.double 100663296),
      .getComplete 0 0 (.double 100663296), .putComplete 0 0 (.double 100663296), .vectorComplete 0 (.double 100663296),
      .fetchFill 0 0 (.double 100663296), .copyDescriptorComplete 0 (.double 100663296)] = true := by decide +kernel

theorem test_refused_core_and_cluster :
    refused [.calPhaseEnd 0 0 [], .governorIntervalEnd 0 (List.replicate 36 8001), .governorIntervalEnd 0 [], .handoverConfirmEnd 0 true true [],
      .handoverConfirmEnd 0 true true (List.replicate 12 []), .start 0 0 0x40000000, .stop 0 0 0x80000000] = true := by decide +kernel

theorem test_refused_ddr_and_host :
    refused [.ddrReadRequest .firmware unitMax .clean false false, .ddrWriteRequest .firmware unitMax 0 [0] false false,
      .ddrWriteRequest .firmware 0 0 [] false false, .ddrWriteRequest .firmware 0 256 [0] false false, .deviceFailed 0 0, .deviceFailed 0 4,
      .busMasterEnableChange true false true { payload := 64 }, .busMasterEnableChange true false true { readReq := 8192 },
      .busMasterEnableChange true false true { ctoRange := 16 }, .bar4Read 0 0, .bar4Read 1073741824 1, .bar4Write 0 [],
      .bar4Write 1073741824 [some 0], .sqTailDoorbell 65536 1 0, .sqTailDoorbell 0 0 0, .cqHeadDoorbell 65536 1 0, .cqHeadDoorbell 0 0 0,
      .registerWrite 33554432 1 0 0, .registerWrite 0 0 0 0, .rcRead (.bar0 33554432 1), .rcRead (.bar0 0 3), .rcRead (.doorbell 65536 1),
      .rcRead (.doorbell 0 3), .pwWriteEffect 33554432, .pwWriteDrop 33554432, .bar0ReadRefused 33554432 1 0, .bar0ReadRefused 0 0 0,
      .counterCfgWrite 33554432 0, .counterWrap 33554432, .linkRateOrWidthChange 0 8, .linkRateOrWidthChange 320 3] = true := by decide +kernel

theorem test_refused_fabric :
    refused [.tapRefresh 0 [(2, 16, 0)] [], .fabLowTraffic 0 101, .trainingPhaseComplete 0 0 (trainOf 5 1) 0 0, .trainingPhaseTimeout 0 0 0,
      .trainingPhaseTimeout 0 0 5, .idle flit 1 [], .idle flit 0 [0], .idle flit 8 (List.replicate 241 0), .writeSegment flit (segOf 0 0 0 0),
      .writeSegment flit (segOf 1 1 0 0), .writeSegment flit (segOf 0 61441 0 0), .tokenOnly flit (segOf 2 0 256 0), .tokenOnly flit (segOf 0 0 0 0),
      .readResp flit (segOf 1 1 0 2), .readResp flit (segOf 1 61440 0 65536), .readResp flit (segOf 0 1 0 0), .data flit 0 0 true [],
      .data flit 0 0 true (List.replicate 241 0), .rdreq flit (segOf 3 0 0 0), .rdreq flit (segOf 0 1 0 0), .notice flit [⟨0, 0, 0, 0, 0, 0⟩],
      .notice flit (List.replicate 16 ⟨1, 0, 0, 0, 0, 0⟩), .ctrl flit 0 0 64 true [0], .ctrl flit 0 0 0 true [],
      .ctrl flit 0 0 0 true (List.replicate 233 0)] = true := by decide +kernel

theorem test_refused_messages :
    refused [.chartPart (fromSrc 34) 0 0 1 0 [], .chartPart (fromSrc 0) 0 1 1 0 [], .chartPart (fromSrc 0) 0 0 4 0 [], .staged (fromSrc 34) 0 0 0,
      .staged (fromSrc 0) 0 8 0, .applied (fromSrc 34) 0 0 0 [], .applied (fromSrc 0) 0 0 0 [⟨0, 0, 0⟩], .surveyReport (fromSrc 0) 0 [] 0,
      .surveyCmd (fromSrc 34) 0, .demand 0 (some (0, 0, [])), .demand 0 (some (0, 0, List.replicate 32 17)),
      .leaseReq (fromSrc 0) ⟨false, false, 0, false, 0, 0⟩, .leaseReq (fromSrc 0) ⟨false, false, 1, false, 3, 0⟩,
      .leaseGrant (fromSrc 34) 0 0 true, .leaseDeny (fromSrc 0) 0 0 0, .leaseEnd (fromSrc 0) 0 2, .released (fromSrc 34) 0 0, .takeover (fromSrc 0) 0 0 0 5,
      .heartbeat (fromSrc 0) ⟨0, 0, 0, 0, [], []⟩, .heartbeatAck (fromSrc 34) 0 false, .mirror ⟨0, 0, []⟩, .snapshot 0 1 1 [],
      .eventReport (fromSrc 34) ⟨0, 0, 0, 0, 0, 0⟩, .moduleEvent (fromSrc 34) 0 0 0 0, .bind (fromSrc 0) 0 [], .jobCtl (fromSrc 0) 0 0 0 0 0,
      .jobReport (fromSrc 34) 0 (.journal 0 []), .statusReq (fromSrc 34) false, .status (fromSrc 0) ⟨0, 0, [], [], [], []⟩,
      .podConfig (fromSrc 0) pod, .probe (fromSrc 34), .ack (fromSrc 34) 0] = true := by decide +kernel

theorem test_refused_resets_and_sensors :
    refused [.drainFail 0 false 0 0, .coreReset 0 0, .clusterReset 0 7, .halfReset 0 0, .computeReset 7, .fabricLaneReset 0 0 0,
      .moduleWarmReset 7, .moduleColdReset 0, .dumpWellCopyEnd 0 0, .inputExcursionEnd .sag 65536 0 0, .dropout 65536 0, .overvolt 65536 0,
      .dieSensorRead [] [] 0 0, .sidebandAttest [], .osfpModuleChange 0 0 9, .ethernetFrame 0 [] 0 0] = true := by decide +kernel

/-- Terms at the bounds are accepted. -/
theorem test_accepted :
    [Instr.loadwReadEnd 0 0 (.double 100663295), .governorIntervalEnd 0 (List.replicate 36 8000), .deviceFailed 0 3, .bar4Read 1073741823 1,
      .writeSegment flit (segOf 0 61440 255 65535), .readResp flit (segOf 1 61440 0 61440), .data flit 0 0 true (List.replicate 240 0),
      .ack (fromSrc 33) 0, .coreReset 160 6, .linkRateOrWidthChange 320 8, .mirror ⟨0, 9, []⟩, .idle flit 15 (List.replicate 240 0),
      .ctrl flit 0 0 63 true (List.replicate 232 0)].all Instr.wf = true := by decide +kernel

/-! ### Witnesses, in the order of the obligations -/

theorem witness_TokensComplete :
    ((fun (s : State) (g : Core) (st : Str) (w : IWord) =>
      Issues s g st 3 w
      ∧ quiet s g st = true
      ∧ bit (queue s g (fld w 12 4)).cfg 31 = true
      ∧ bit (queue s g (fld w 12 4)).cfg (4 + st) = true
      ∧ (queue s g (fld w 12 4)).toks.length < 64) (withCore { state := .assigned, streams := [(0, atWord 3)], queues := [(0, { cfg := 0x800000F0 })] }) 0 0 3)
    ∧ ((fun (s : State) (g : Core) (st : Str) (w : IWord) =>
      Stalled s g st 2 w
      ∧ (queue s g (fld w 12 4)).toks.length < 64) (withCore { state := .assigned, streams := [(0, heldAt 2 3)], queues := [(0, { cfg := 0x800000F0 })] }) 0 0 3)
    ∧ ((fun (s : State) (g : Core) (st : Str) (w : IWord) (v : Word) (vs : List Word) =>
      Issues s g st 2 w
      ∧ bit (queue s g (fld w 12 4)).cfg 31 = true
      ∧ fld (queue s g (fld w 12 4)).cfg 0 2 = st.val
      ∧ (queue s g (fld w 12 4)).ovfPend = false
      ∧ (queue s g (fld w 12 4)).toks = v :: vs) (withCore { state := .assigned, streams := [(0, atWord 2)], queues := [(0, { cfg := 0x800000F0, toks := [7] })] }) 0 0 2 7 ([]))
    ∧ ((fun (s : State) (g : Core) (st : Str) (w : IWord) (v : Word) (vs : List Word) =>
      Stalled s g st 1 w
      ∧ (queue s g (fld w 12 4)).toks = v :: vs) (withCore { state := .assigned, streams := [(0, heldAt 1 2)], queues := [(0, { cfg := 0x800000F0, toks := [7] })] }) 0 0 2 7 ([]))
    ∧ ((fun (s : State) (c : Ctx) (gen : Byte) (g : Core) (q : Queue) =>
      (core s g).state = .assigned
      ∧ (core s g).ctx = c
      ∧ (ctx s c).created = true
      ∧ (ctx s c).gen = gen
      ∧ bit (queue s g q).cfg 31 = true
      ∧ bit (queue s g q).cfg 8 = true
      ∧ (queue s g q).toks.length < 64) (setCtx 0 { created := true } (withCore { state := .assigned, queues := [(0, { cfg := 0x80000100 })] })) 0 0 0 0)
    ∧ ((fun (s : State) (g : Core) (q : Queue) =>
      CoreOn s g (0x100 + 0x10 * q)
      ∧ coreQuiet s g = true) (withCore {}) 0 15)
    ∧ ((fun (s : State) (g : Core) (q : Queue) (v : Word) =>
      CoreOn s g (0x10C + 0x10 * q)
      ∧ coreQuiet s g = true
      ∧ bit v 0 = true) (withCore {}) 0 15 1)
    ∧ ((fun (s : State) (c : Clu) (inp : Fin 12) (rsp : Bool) =>
      heldBeats s c inp rsp < 32) up 0 11 true)
    ∧ ((fun (s : State) (c : Clu) (inp : Fin 12) (rsp : Bool) =>
      heldBeats s c inp rsp < 32
      ∧ (∀ x ∈ beats s c inp, x.needs = false)) (withClu { beats := [(1, [⟨2, true, false⟩])] }) 0 1 true)
    ∧ ((fun (s : State) (g : Core) =>
      (core s g).state ≠ .absent
      ∧ (core s g).state ≠ .fenced) (withCore {}) 0)
    ∧ ((fun (s : State) (g : Core) =>
      (core s g).state = .scrub) (withCore { state := .scrub }) 0) := by
  refine ⟨by refine ⟨by unfold Issues; decide +kernel, ?_, ?_, ?_, ?_⟩ <;> decide +kernel,
    ⟨by unfold Stalled; decide +kernel, by decide +kernel⟩,
    by refine ⟨by unfold Issues; decide +kernel, ?_, ?_, ?_, ?_⟩ <;> decide +kernel,
    ⟨by unfold Stalled; decide +kernel, by decide +kernel⟩,
    ?_,
    ⟨by unfold CoreOn; decide +kernel, by decide +kernel⟩,
    ⟨by unfold CoreOn; decide +kernel, by decide +kernel, by decide +kernel⟩,
    ?_,
    ?_,
    ?_,
    ?_⟩ <;> and_intros <;> decide +kernel

theorem witness_PlainInstructionsComplete :
    ((fun (s : State) (g : Core) (st : Str) (w : IWord) =>
      Issues s g st 0 w) (withStream 0 (atWord 0)) 0 0 0)
    ∧ ((fun (s : State) (g : Core) (st : Str) (w : IWord) =>
      Issues s g st 1 w
      ∧ quiet s g st = true) (withStream 0 (atWord 1)) 0 0 1)
    ∧ ((fun (s : State) (g : Core) (st : Str) (w : IWord) (x : Core) =>
      Issues s g st 4 w
      ∧ quiet s g st = true
      ∧ (ctx s (core s g).ctx).map[fld w 24 8]? = some (some x)) (setCtx 0 { created := true, map := [some 0] } (withStream 0 (atWord 4))) 0 0 4 0)
    ∧ ((fun (s : State) (g : Core) (st : Str) (w : IWord) =>
      Issues s g st 5 w) (withStream 0 (atWord 0x100000105)) 0 0 0x100000105)
    ∧ ((fun (s : State) (g : Core) (st : Str) (w : IWord) (v : DWord) =>
      Issues s g st 7 w
      ∧ aluOp (fld w 20 4) (sreg (strm s g st).sregs (fld w 12 4)) (if bit w 24 then (w.extractLsb' 32 32).signExtend 64 else sreg (strm s g st).sregs (fld w 16 4)) = some v) (withStream 0 (atWord 0x100000107)) 0 0 0x100000107 0)
    ∧ ((fun (s : State) (g : Core) (st : Str) (w : IWord) (b : Bool) =>
      Issues s g st 8 w
      ∧ brCond (fld w 20 4) (sreg (strm s g st).sregs (fld w 12 4)) (sreg (strm s g st).sregs (fld w 16 4)) = some b) (withStream 0 (atWord 8)) 0 0 8 true)
    ∧ ((fun (s : State) (g : Core) (st : Str) (w : IWord) (v : Nat) =>
      Issues s g st 9 w
      ∧ sysValue s g st (fld w 16 8) = some v) (withStream 0 (atWord 0x060009)) 0 0 0x060009 0)
    ∧ ((fun (s : State) (g : Core) (st : Str) (w : IWord) =>
      Issues s g st 0x0A w
      ∧ quiet s g st = true) (withStream 0 (atWord 0x0A)) 0 0 0x0A)
    ∧ ((fun (s : State) (g : Core) (st : Str) (w : IWord) =>
      Stalled s g st 3 w
      ∧ fld w 0 8 = 0x0A
      ∧ quiet s g st = true) (withStream 0 (heldAt 3 0x0A)) 0 0 0x0A)
    ∧ ((fun (s : State) (g : Core) (st : Str) (w : IWord) =>
      Issues s g st 0x21 w
      ∧ quiet s g st = true
      ∧ ckptRun s (core s g).ctx = none) (withStream 3 (atWord 0x21)) 0 3 0x21)
    ∧ ((fun (s : State) (g : Core) (st : Str) (w : IWord) =>
      Issues s g st 0x46 w
      ∧ vstatBad (strm s g st).sregs w = none
      ∧ quiet s g st = true) (withStream 2 (atWord 0x10000046)) 0 2 0x10000046) := by
  refine ⟨by unfold Issues; decide +kernel,
    ⟨by unfold Issues; decide +kernel, by decide +kernel⟩,
    ⟨by unfold Issues; decide +kernel, by decide +kernel, by decide +kernel⟩,
    by unfold Issues; decide +kernel,
    ⟨by unfold Issues; decide +kernel, by decide +kernel⟩,
    ⟨by unfold Issues; decide +kernel, by decide +kernel⟩,
    ⟨by unfold Issues; decide +kernel, by decide +kernel⟩,
    ⟨by unfold Issues; decide +kernel, by decide +kernel⟩,
    ⟨by unfold Stalled; decide +kernel, by decide +kernel, by decide +kernel⟩,
    ⟨by unfold Issues; decide +kernel, by decide +kernel, by decide +kernel⟩,
    ⟨by unfold Issues; decide +kernel, by decide +kernel, by decide +kernel⟩⟩

theorem witness_TransfersAndStreamsComplete :
    ((fun (s : State) (g : Core) (st : Str) (w : IWord) (x : Xfer_) =>
      Issues s g st 0x10 w
      ∧ x = getXfer (strm s g st).sregs w
      ∧ x.len ≠ 0
      ∧ sramBad x.sramBase x.len x.rows x.sramStride = none
      ∧ checkRows s (whoStream s (core s g).ctx s.hst.edition) (rowAddrs x.da x.rows x.daStride) x.len false = none) (withStream 0 (atWord (0x10 + 16 * 65536))) 0 0 (0x10 + 16 * 65536) (getXfer (strm (withStream 0 (atWord (0x10 + 16 * 65536))) 0 0).sregs (0x10 + 16 * 65536)))
    ∧ ((fun (s : State) (g : Core) (st : Str) (w : IWord) (x : Xfer_) =>
      Issues s g st 0x20 w
      ∧ x = putXfer (strm s g st).sregs w
      ∧ x.len ≠ 0
      ∧ (bit w 112 = true → tokenDest s (core s g).ctx x.da = true)
      ∧ sramBad x.sramBase x.len x.rows x.sramStride = none
      ∧ checkRows s (whoStream s (core s g).ctx s.hst.edition) (rowAddrs x.da x.rows x.daStride) x.len true = none) (withStream 3 (atWord (0x20 + 16 * 65536))) 0 3 (0x20 + 16 * 65536) (putXfer (strm (withStream 3 (atWord (0x20 + 16 * 65536))) 0 3).sregs (0x20 + 16 * 65536)))
    ∧ ((fun (s : State) (e : State) (g : Core) (i : Nat) (a : Nat) (op : LongOp) (x : Xfer_) =>
      Inv s
      ∧ outstAt s g 0 i 0x10 = some op
      ∧ x = getXfer op.sregs op.word
      ∧ op.bad = none
      ∧ op.xfer = 0
      ∧ (xferOf s 0).err = none
      ∧ xferDone (xferOf s 0) = true
      ∧ x.rows = 1
      ∧ canDma s = true
      ∧ placeOf s (whoStream s op.ctx op.edition) x.da x.len false = some (.here a)
      ∧ e = ddrReady (xferPairs s (whoStream s op.ctx op.edition) g x false) x.len s
      ∧ badByte e a x.len = none) (withStream 0 { state := .running, outst := [⟨0x10 + 16 * 65536, 0x1000, [], 0, 0, 0, 0, 0, 0, none⟩] }) (ddrReady (xferPairs (withStream 0 { state := .running, outst := [⟨0x10 + 16 * 65536, 0x1000, [], 0, 0, 0, 0, 0, 0, none⟩] }) (whoStream (withStream 0 { state := .running, outst := [⟨0x10 + 16 * 65536, 0x1000, [], 0, 0, 0, 0, 0, 0, none⟩] }) 0 0) 0 (getXfer [] (0x10 + 16 * 65536)) false) 16 (withStream 0 { state := .running, outst := [⟨0x10 + 16 * 65536, 0x1000, [], 0, 0, 0, 0, 0, 0, none⟩] })) 0 0 0 (⟨0x10 + 16 * 65536, 0x1000, [], 0, 0, 0, 0, 0, 0, none⟩) (getXfer [] (0x10 + 16 * 65536)))
    ∧ ((fun (s : State) (e : State) (g : Core) (i : Nat) (a : Nat) (op : LongOp) (x : Xfer_) =>
      Inv s
      ∧ outstAt s g 3 i 0x20 = some op
      ∧ x = putXfer op.sregs op.word
      ∧ op.bad = none
      ∧ op.xfer = 0
      ∧ (xferOf s 0).err = none
      ∧ xferDone (xferOf s 0) = true
      ∧ x.rows = 1
      ∧ canDma s = true
      ∧ placeOf s (whoStream s op.ctx op.edition) x.da x.len true = some (.here a)
      ∧ e = ddrReady (xferPairs s (whoStream s op.ctx op.edition) g x true) x.len s
      ∧ badByte e (sramKey g x.sramBase) x.len = none) (withStream 3 { state := .running, outst := [⟨0x20 + 16 * 65536, 0x1000, [], 0, 0, 0, 0, 0, 0, none⟩] }) (ddrReady (xferPairs (withStream 3 { state := .running, outst := [⟨0x20 + 16 * 65536, 0x1000, [], 0, 0, 0, 0, 0, 0, none⟩] }) (whoStream (withStream 3 { state := .running, outst := [⟨0x20 + 16 * 65536, 0x1000, [], 0, 0, 0, 0, 0, 0, none⟩] }) 0 0) 0 (putXfer [] (0x20 + 16 * 65536)) true) 16 (withStream 3 { state := .running, outst := [⟨0x20 + 16 * 65536, 0x1000, [], 0, 0, 0, 0, 0, 0, none⟩] })) 0 0 0 (⟨0x20 + 16 * 65536, 0x1000, [], 0, 0, 0, 0, 0, 0, none⟩) (putXfer [] (0x20 + 16 * 65536)))
    ∧ ((fun (s : State) (g : Core) (st : Str) (w : IWord) =>
      Issues s g st 0x33 w
      ∧ (ctx s (core s g).ctx).staged = none) (withStream 1 (atWord 0x33)) 0 1 0x33)
    ∧ ((fun (s : State) (g : Core) (st : Str) (w : IWord) (m : StagedMode) =>
      Issues s g st 0x33 w
      ∧ (ctx s (core s g).ctx).staged = some m
      ∧ (sreg (strm s g st).sregs (fld w 12 4)).extractLsb' 0 32 = m.applyStep
      ∧ (core s g).vcore ∉ m.arrived
      ∧ (ctx s (core s g).ctx).map.length ≤ m.arrived.length + 1) (setCtx 0 { created := true, map := [some 0], staged := some ⟨1, 0, 1, [], [], none, none⟩ } (withStream 1 (atWord 0x33))) 0 1 0x33 (⟨1, 0, 1, [], [], none, none⟩))
    ∧ ((fun (s : State) (c : Ctx) (m : StagedMode) =>
      (ctx s c).staged = some m
      ∧ m.firstAt.any (fun x => decide (x + m.timeout * 1000 ≤ s.now)) = true) (clockAt 1000 (setCtx 0 { staged := some ⟨1, 0, 1, [], [], some 0, none⟩ } up)) 0 (⟨1, 0, 1, [], [], some 0, none⟩))
    ∧ ((fun (s : State) (g : Core) (st : Str) (p : Word) (a : Nat) =>
      (strm s g st).state = .running
      ∧ nextFetch (strm s g st) = some p
      ∧ fetchAt s g p = .ok a
      ∧ badByte s a 16 = none) (withStream 0 { state := .running, pc := 0x1000, wbase := 0x1000 }) 0 0 0x1000 (sramKey 0 0x1000))
    ∧ ((fun (s : State) (g : Core) (st : Str) =>
      CoreOn s g (0x200 + 0x100 * st)
      ∧ (core s g).state = .assigned
      ∧ ((strm s g st).state = .stopped ∨ (strm s g st).state = .halted)) (withStream 0 {}) 0 0)
    ∧ ((fun (s : State) (g : Core) (st : Str) =>
      CoreOn s g (0x200 + 0x100 * st)
      ∧ (strm s g st).state = .running
      ∧ (strm s g st).pending = false) (withStream 0 { state := .running }) 0 0)
    ∧ ((fun (s : State) (g : Core) (st : Str) =>
      (strm s g st).state = .stopping
      ∧ (strm s g st).pending = false
      ∧ quiet s g st = true) (withStream 0 { state := .stopping }) 0 0) := by
  refine ⟨by refine ⟨by unfold Issues; decide +kernel, by rfl, ?_, ?_, ?_⟩ <;> decide +kernel,
    by refine ⟨by unfold Issues; decide +kernel, by rfl, ?_, ?_, ?_, ?_⟩ <;> decide +kernel,
    by refine ⟨by unfold Machine.Inv; decide +kernel, ?_, by rfl, ?_, ?_, ?_, ?_, ?_, ?_, by rfl, by rfl, ?_⟩ <;> decide +kernel,
    by refine ⟨by unfold Machine.Inv; decide +kernel, ?_, by rfl, ?_, ?_, ?_, ?_, ?_, ?_, by rfl, by rfl, ?_⟩ <;> decide +kernel,
    ⟨by unfold Issues; decide +kernel, by decide +kernel⟩,
    by refine ⟨by unfold Issues; decide +kernel, ?_, ?_, ?_, ?_⟩ <;> decide +kernel,
    ?_,
    ?_,
    ⟨by unfold CoreOn; decide +kernel, by decide +kernel, by decide +kernel⟩,
    ⟨by unfold CoreOn; decide +kernel, by decide +kernel, by decide +kernel⟩,
    ?_⟩ <;> and_intros <;> decide +kernel

theorem witness_VectorComplete :
    ((fun (c : Instr) (o : Nat) (s : State) (g : Core) (st : Str) (w : IWord) =>
      ((c = .vew g st ∧ o = 0x40) ∨ (c = .vfma g st ∧ o = 0x41) ∨ (c = .vun g st ∧ o = 0x42) ∨ (c = .vred g st ∧ o = 0x43) ∨ (c = .vcvt g st ∧ o = 0x44) ∨ (c = .vmm g st ∧ o = 0x45))
      ∧ Issues s g st o w
      ∧ vOperandBad (vIns (strm s g st).sregs w) (fld w 56 4) = none
      ∧ vAddressBad (vIns (strm s g st).sregs w) = none) (.vew 0 2) 0x40 (withStream 2 (atWord (0x10000040))) 0 2 0x10000040)
    ∧ ((fun (c : Instr) (o : Nat) (s : State) (g : Core) (st : Str) (w : IWord) =>
      ((c = .vew g st ∧ o = 0x40) ∨ (c = .vfma g st ∧ o = 0x41) ∨ (c = .vun g st ∧ o = 0x42) ∨ (c = .vred g st ∧ o = 0x43) ∨ (c = .vcvt g st ∧ o = 0x44) ∨ (c = .vmm g st ∧ o = 0x45))
      ∧ Issues s g st o w
      ∧ vOperandBad (vIns (strm s g st).sregs w) (fld w 56 4) = none
      ∧ vAddressBad (vIns (strm s g st).sregs w) = none) (.vfma 0 2) 0x41 (withStream 2 (atWord (0x10000041))) 0 2 0x10000041)
    ∧ ((fun (c : Instr) (o : Nat) (s : State) (g : Core) (st : Str) (w : IWord) =>
      ((c = .vew g st ∧ o = 0x40) ∨ (c = .vfma g st ∧ o = 0x41) ∨ (c = .vun g st ∧ o = 0x42) ∨ (c = .vred g st ∧ o = 0x43) ∨ (c = .vcvt g st ∧ o = 0x44) ∨ (c = .vmm g st ∧ o = 0x45))
      ∧ Issues s g st o w
      ∧ vOperandBad (vIns (strm s g st).sregs w) (fld w 56 4) = none
      ∧ vAddressBad (vIns (strm s g st).sregs w) = none) (.vun 0 2) 0x42 (withStream 2 (atWord (0x10000042))) 0 2 0x10000042)
    ∧ ((fun (c : Instr) (o : Nat) (s : State) (g : Core) (st : Str) (w : IWord) =>
      ((c = .vew g st ∧ o = 0x40) ∨ (c = .vfma g st ∧ o = 0x41) ∨ (c = .vun g st ∧ o = 0x42) ∨ (c = .vred g st ∧ o = 0x43) ∨ (c = .vcvt g st ∧ o = 0x44) ∨ (c = .vmm g st ∧ o = 0x45))
      ∧ Issues s g st o w
      ∧ vOperandBad (vIns (strm s g st).sregs w) (fld w 56 4) = none
      ∧ vAddressBad (vIns (strm s g st).sregs w) = none) (.vred 0 2) 0x43 (withStream 2 (atWord (0x10000043 + 2 ^ 72))) 0 2 (0x10000043 + 2 ^ 72))
    ∧ ((fun (c : Instr) (o : Nat) (s : State) (g : Core) (st : Str) (w : IWord) =>
      ((c = .vew g st ∧ o = 0x40) ∨ (c = .vfma g st ∧ o = 0x41) ∨ (c = .vun g st ∧ o = 0x42) ∨ (c = .vred g st ∧ o = 0x43) ∨ (c = .vcvt g st ∧ o = 0x44) ∨ (c = .vmm g st ∧ o = 0x45))
      ∧ Issues s g st o w
      ∧ vOperandBad (vIns (strm s g st).sregs w) (fld w 56 4) = none
      ∧ vAddressBad (vIns (strm s g st).sregs w) = none) (.vcvt 0 2) 0x44 (withStream 2 (atWord (0x10000044))) 0 2 0x10000044)
    ∧ ((fun (c : Instr) (o : Nat) (s : State) (g : Core) (st : Str) (w : IWord) =>
      ((c = .vew g st ∧ o = 0x40) ∨ (c = .vfma g st ∧ o = 0x41) ∨ (c = .vun g st ∧ o = 0x42) ∨ (c = .vred g st ∧ o = 0x43) ∨ (c = .vcvt g st ∧ o = 0x44) ∨ (c = .vmm g st ∧ o = 0x45))
      ∧ Issues s g st o w
      ∧ vOperandBad (vIns (strm s g st).sregs w) (fld w 56 4) = none
      ∧ vAddressBad (vIns (strm s g st).sregs w) = none) (.vmm 0 2) 0x45 (withStream 2 (atWord (0x45))) 0 2 0x45)
    ∧ ((fun (s : State) (g : Core) (op : LongOp) (ops : List LongOp) =>
      (strm s g 2).outst = op :: ops
      ∧ (core s g).ueLines = []) (withStream 2 { state := .running, outst := [⟨0x10000040, 0x1000, [], 0, 0, 0, 0, 0, 0, none⟩] }) 0 (⟨0x10000040, 0x1000, [], 0, 0, 0, 0, 0, 0, none⟩) ([])) := by
  refine ⟨⟨(Or.inl ⟨rfl, by decide +kernel⟩), by unfold Issues; decide +kernel, by decide +kernel, by decide +kernel⟩,
    ⟨(Or.inr (Or.inl ⟨rfl, by decide +kernel⟩)), by unfold Issues; decide +kernel, by decide +kernel, by decide +kernel⟩,
    ⟨(Or.inr (Or.inr (Or.inl ⟨rfl, by decide +kernel⟩))), by unfold Issues; decide +kernel, by decide +kernel, by decide +kernel⟩,
    ⟨(Or.inr (Or.inr (Or.inr (Or.inl ⟨rfl, by decide +kernel⟩)))), by unfold Issues; decide +kernel, by decide +kernel, by decide +kernel⟩,
    ⟨(Or.inr (Or.inr (Or.inr (Or.inr (Or.inl ⟨rfl, by decide +kernel⟩))))), by unfold Issues; decide +kernel, by decide +kernel, by decide +kernel⟩,
    ⟨(Or.inr (Or.inr (Or.inr (Or.inr (Or.inr ⟨rfl, by decide +kernel⟩))))), by unfold Issues; decide +kernel, by decide +kernel, by decide +kernel⟩,
    ?_⟩ <;> and_intros <;> decide +kernel

theorem witness_OpticLoadsComplete :
    ((fun (s : State) (g : Core) (st : Str) (w : IWord) (a : Nat) =>
      Issues s g st 0x30 w
      ∧ a = (sreg (strm s g st).sregs (fld w 8 4)).toNat
      ∧ a % 64 = 0
      ∧ a + 4160 ≤ 0x1000000
      ∧ (ote s g (fld w 12 2)).queue.length < 4) (withStream 1 (atWord 0x30)) 0 1 0x30 0)
    ∧ ((fun (s : State) (g : Core) (st : Str) (w : IWord) =>
      Issues s g st 0x32 w
      ∧ (ote s g (fld w 8 2)).queue.length < 4) (withStream 1 (atWord 0x32)) 0 1 0x32)
    ∧ ((fun (s : State) (g : Core) (st : Str) (w : IWord) (p : MvmP) =>
      Issues s g st 0x31 w
      ∧ p = mvmParams s g (strm s g st).sregs w
      ∧ mvmBad w p = none
      ∧ mvmOut p = none
      ∧ (ote s g (fld w 72 2)).queue.length < 4) (withStream 1 (atWord (0x31 + 2 ^ 24 + 66 * 2 ^ 40 + 128 * 2 ^ 56 + 8 * 2 ^ 78))) 0 1 (0x31 + 2 ^ 24 + 66 * 2 ^ 40 + 128 * 2 ^ 56 + 8 * 2 ^ 78) (mvmParams (withStream 1 (atWord (0x31 + 2 ^ 24 + 66 * 2 ^ 40 + 128 * 2 ^ 56 + 8 * 2 ^ 78))) 0 [] (0x31 + 2 ^ 24 + 66 * 2 ^ 40 + 128 * 2 ^ 56 + 8 * 2 ^ 78)))
    ∧ ((fun (s : State) (g : Core) (e : Eng) (q : EngOp) (qs : List EngOp) =>
      (ote s g e).queue = q :: qs
      ∧ isLoadw q = true
      ∧ q.phase = 0) (withEngine { queue := [{ kind := .loadw 0 false, phase := 0 }] }) 0 0 ({ kind := .loadw 0 false, phase := 0 }) ([]))
    ∧ ((fun (s : State) (g : Core) (e : Eng) (q : EngOp) (qs : List EngOp) (a : Nat) (d : Bool) =>
      (ote s g e).queue = q :: qs
      ∧ q.kind = .loadw a d
      ∧ q.phase = 1
      ∧ q.cal = false
      ∧ badByte s (sramKey g a) 4160 = none) (withEngine { queue := [{ kind := .loadw 0 false, phase := 1 }] }) 0 0 ({ kind := .loadw 0 false, phase := 1 }) ([]) 0 false)
    ∧ ((fun (s : State) (g : Core) (e : Eng) (q : EngOp) (qs : List EngOp) (a : Nat) =>
      (ote s g e).queue = q :: qs
      ∧ q.kind = .loadw a false
      ∧ q.phase = 2
      ∧ q.failed = false) (withEngine { queue := [{ kind := .loadw 0 false, phase := 2 }] }) 0 0 ({ kind := .loadw 0 false, phase := 2 }) ([]) 0)
    ∧ ((fun (s : State) (g : Core) (e : Eng) (q : EngOp) (qs : List EngOp) =>
      (ote s g e).queue = q :: qs
      ∧ isLoadw q = true
      ∧ q.phase = 3
      ∧ q.cal = false) (withEngine { queue := [{ kind := .loadw 0 false, phase := 3 }] }) 0 0 ({ kind := .loadw 0 false, phase := 3 }) ([]))
    ∧ ((fun (s : State) (g : Core) (e : Eng) (q : EngOp) (qs : List EngOp) =>
      (ote s g e).queue = q :: qs
      ∧ isFlip q = true
      ∧ q.phase = 0
      ∧ (ote s g e).copying = false
      ∧ (ote s g e).held = false) (withEngine { queue := [{ kind := .flip, phase := 0 }] }) 0 0 ({ kind := .flip, phase := 0 }) ([]))
    ∧ ((fun (s : State) (g : Core) (e : Eng) (q : EngOp) (qs : List EngOp) =>
      (ote s g e).queue = q :: qs
      ∧ isFlip q = true
      ∧ q.phase = 1) (withEngine { queue := [{ kind := .flip, phase := 1 }] }) 0 0 ({ kind := .flip, phase := 1 }) ([]))
    ∧ ((fun (s : State) (g : Core) (e : Eng) (q : EngOp) (qs : List EngOp) (p : MvmP) =>
      (ote s g e).queue = q :: qs
      ∧ q.kind = .mvm p
      ∧ q.phase = 0
      ∧ (ote s g e).held = false) (withEngine { queue := [{ kind := .mvm ⟨false, 1, false, 8, 1, 0, 66, false, 0, 66, 0x1000, 8, 0⟩, phase := 0, run := { next := 0 } }] }) 0 0 ({ kind := .mvm ⟨false, 1, false, 8, 1, 0, 66, false, 0, 66, 0x1000, 8, 0⟩, phase := 0, run := { next := 0 } }) ([]) (⟨false, 1, false, 8, 1, 0, 66, false, 0, 66, 0x1000, 8, 0⟩)) := by
  refine ⟨by refine ⟨by unfold Issues; decide +kernel, ?_, ?_, ?_, ?_⟩ <;> decide +kernel,
    ⟨by unfold Issues; decide +kernel, by decide +kernel⟩,
    by refine ⟨by unfold Issues; decide +kernel, by rfl, ?_, ?_, ?_⟩ <;> decide +kernel,
    ?_,
    ?_,
    ?_,
    ?_,
    ?_,
    ?_,
    ?_⟩ <;> and_intros <;> decide +kernel

theorem witness_OpticResultsComplete :
    ((fun (s : State) (g : Core) (e : Eng) (q : EngOp) (qs : List EngOp) (p : MvmP) =>
      (ote s g e).queue = q :: qs
      ∧ q.kind = .mvm p
      ∧ q.phase = 1
      ∧ q.run.digital = false
      ∧ q.run.skip = false
      ∧ q.run.reissuing = false
      ∧ q.run.next < p.count
      ∧ q.run.fedTo = none
      ∧ q.run.stopAt = none
      ∧ (ote s g e).paused = false
      ∧ (ote s g e).hoPause = false
      ∧ badByte s (sramKey g (p.inA + q.run.next * p.inStride)) 66 = none
      ∧ p.tol = 8) (withEngine { queue := [{ kind := .mvm ⟨false, 1, false, 8, 1, 0, 66, false, 0, 66, 0x1000, 8, 0⟩, phase := 1, run := { next := 0 } }] }) 0 0 ({ kind := .mvm ⟨false, 1, false, 8, 1, 0, 66, false, 0, 66, 0x1000, 8, 0⟩, phase := 1, run := { next := 0 } }) ([]) (⟨false, 1, false, 8, 1, 0, 66, false, 0, 66, 0x1000, 8, 0⟩))
    ∧ ((fun (s : State) (g : Core) (e : Eng) (x : Tile) =>
      Inv s
      ∧ (ote s g e).wbuf = [x]
      ∧ x.addr + x.bytes.length ≤ x.wordAddr) (withEngine { wbuf := [⟨0, [1, 2], 2, 3⟩] }) 0 0 (⟨0, [1, 2], 2, 3⟩))
    ∧ ((fun (s : State) (g : Core) (e : Eng) (q : EngOp) (qs : List EngOp) (p : MvmP) =>
      Inv s
      ∧ (ote s g e).queue = q :: qs
      ∧ q.kind = .mvm p
      ∧ q.phase = 1
      ∧ mvmDone p q.run = true
      ∧ (ote s g e).wbuf = []
      ∧ q.run.stopAt = none) (withEngine { queue := [{ kind := .mvm ⟨false, 1, false, 8, 1, 0, 66, false, 0, 66, 0x1000, 8, 0⟩, phase := 1, run := { next := 1 } }] }) 0 0 ({ kind := .mvm ⟨false, 1, false, 8, 1, 0, 66, false, 0, 66, 0x1000, 8, 0⟩, phase := 1, run := { next := 1 } }) ([]) (⟨false, 1, false, 8, 1, 0, 66, false, 0, 66, 0x1000, 8, 0⟩))
    ∧ ((fun (s : State) (g : Core) (e : Eng) (q : EngOp) (qs : List EngOp) (p : MvmP) =>
      (ote s g e).queue = q :: qs
      ∧ q.kind = .mvm p
      ∧ q.phase = 1
      ∧ canRaise p = true
      ∧ q.run.digital = false
      ∧ q.run.done = false
      ∧ q.run.feed = true
      ∧ q.run.reissuing = false
      ∧ feedOver p q.run = true) (withEngine { queue := [{ kind := .mvm ⟨false, 1, false, 8, 2, 0, 66, false, 0, 66, 0x1000, 1, 1⟩, phase := 1, run := { next := 2 } }] }) 0 0 ({ kind := .mvm ⟨false, 1, false, 8, 2, 0, 66, false, 0, 66, 0x1000, 1, 1⟩, phase := 1, run := { next := 2 } }) ([]) (⟨false, 1, false, 8, 2, 0, 66, false, 0, 66, 0x1000, 1, 1⟩))
    ∧ ((fun (s : State) (g : Core) (e : Eng) (q : EngOp) (qs : List EngOp) (p : MvmP) =>
      (ote s g e).queue = q :: qs
      ∧ q.kind = .mvm p
      ∧ q.phase = 1
      ∧ canRaise p = true
      ∧ q.run.digital = false
      ∧ q.run.done = false
      ∧ q.run.feed = false
      ∧ q.run.reissuing = false
      ∧ q.run.list ≠ []
      ∧ (q.run.next = q.run.fedTo.getD p.count ∨ q.run.stopAt.isSome = true)) (withEngine { queue := [{ kind := .mvm ⟨false, 1, false, 8, 2, 0, 66, false, 0, 66, 0x1000, 1, 1⟩, phase := 1, run := { next := 2, feed := false, fedTo := some 2, list := [(0, 2, false)] } }] }) 0 0 ({ kind := .mvm ⟨false, 1, false, 8, 2, 0, 66, false, 0, 66, 0x1000, 1, 1⟩, phase := 1, run := { next := 2, feed := false, fedTo := some 2, list := [(0, 2, false)] } }) ([]) (⟨false, 1, false, 8, 2, 0, 66, false, 0, 66, 0x1000, 1, 1⟩))
    ∧ ((fun (s : State) (g : Core) (e : Eng) (q : EngOp) (qs : List EngOp) (p : MvmP) =>
      (ote s g e).queue = q :: qs
      ∧ q.kind = .mvm p
      ∧ q.phase = 1
      ∧ canRaise p = true
      ∧ q.run.digital = false
      ∧ q.run.done = false
      ∧ q.run.reissuing = true
      ∧ q.run.list = []) (withEngine { queue := [{ kind := .mvm ⟨false, 1, false, 8, 2, 0, 66, false, 0, 66, 0x1000, 1, 1⟩, phase := 1, run := { next := 2, reissuing := true } }] }) 0 0 ({ kind := .mvm ⟨false, 1, false, 8, 2, 0, 66, false, 0, 66, 0x1000, 1, 1⟩, phase := 1, run := { next := 2, reissuing := true } }) ([]) (⟨false, 1, false, 8, 2, 0, 66, false, 0, 66, 0x1000, 1, 1⟩))
    ∧ ((fun (s : State) (g : Core) (e : Eng) (q : EngOp) (qs : List EngOp) (p : MvmP) (v : Nat) (clip : Bool) (aged : Bool) (xs : List (Nat × Bool × Bool)) =>
      (ote s g e).queue = q :: qs
      ∧ q.kind = .mvm p
      ∧ q.phase = 1
      ∧ q.run.skip = false
      ∧ q.run.dve = (v, clip, aged) :: xs
      ∧ badByte s (sramKey g (p.inA + v * p.inStride)) 66 = none) (withEngine { queue := [{ kind := .mvm ⟨false, 1, false, 8, 2, 0, 66, false, 0, 66, 0x1000, 1, 1⟩, phase := 1, run := { next := 0, dve := [(0, false, false)] } }] }) 0 0 ({ kind := .mvm ⟨false, 1, false, 8, 2, 0, 66, false, 0, 66, 0x1000, 1, 1⟩, phase := 1, run := { next := 0, dve := [(0, false, false)] } }) ([]) (⟨false, 1, false, 8, 2, 0, 66, false, 0, 66, 0x1000, 1, 1⟩) 0 false false ([]))
    ∧ ((fun (s : State) (g : Core) (e : Eng) (v : ShadowVec) (vs : List ShadowVec) =>
      (ote s g e).shadowQ = v :: vs
      ∧ v.trans = false) (withEngine { shadowQ := [⟨false, 1, 8, [(0, 1, 2, 0)], 4⟩] }) 0 0 (⟨false, 1, 8, [(0, 1, 2, 0)], 4⟩) ([]))
    ∧ ((fun (s : State) (g : Core) (e : Eng) =>
      (ote s g e).failTiles ≠ 0
      ∧ rateOk s (0x8021 * 4096 + g.val * 4 + e.val) 1000000 = true
      ∧ s.log.queue.length < 256) (withEngine { failTiles := 3 }) 0 0) := by
  refine ⟨?_,
    ⟨by unfold Machine.Inv; decide +kernel, by decide +kernel, by decide +kernel⟩,
    by refine ⟨by unfold Machine.Inv; decide +kernel, ?_, ?_, ?_, ?_, ?_, ?_⟩ <;> decide +kernel,
    ?_,
    ?_,
    ?_,
    ?_,
    ?_,
    ?_⟩ <;> and_intros <;> decide +kernel

theorem witness_CalibrationComplete :
    ((fun (s : State) (g : Core) (e : Eng) =>
      (ote s g e).stopped = false
      ∧ (ote s g e).void = false
      ∧ (ote s g e).phase < 9
      ∧ (ote s g e).phaseAt + 25000 ≤ s.now
      ∧ 512 ≤ (ote s g e).samples + exSamples s.now (ote s g e)) (clockAt 25000 (withEngine { phase := 8, samples := 512 })) 0 0)
    ∧ ((fun (s : State) (g : Core) (e : Eng) =>
      (ote s g e).stopped = false
      ∧ (ote s g e).void = false
      ∧ (ote s g e).phase = 0
      ∧ (ote s g e).calState = 1
      ∧ (ote s g e).phaseAt + 25000 ≤ s.now
      ∧ 512 ≤ (ote s g e).samples + exSamples s.now (ote s g e)) (clockAt 25000 (withEngine { phase := 0, calState := 1, samples := 512 })) 0 0)
    ∧ ((fun (s : State) (g : Core) (e : Eng) (m : CalMeas) =>
      (ote s g e).stopped = false
      ∧ (ote s g e).void = false
      ∧ (ote s g e).phase = 9
      ∧ (ote s g e).calState = 1
      ∧ calCause m = none
      ∧ (ote s g e).phaseAt + 25000 ≤ s.now
      ∧ 512 ≤ (ote s g e).samples + exSamples s.now (ote s g e)) (clockAt 25000 (withEngine { phase := 9, calState := 1, samples := 512 })) 0 0 (⟨760, 0, 0, 1000, true, true, 5, [], true⟩))
    ∧ ((fun (s : State) (g : Core) (e : Eng) (x : Nat) (prio : Bool) =>
      (ote s g e).calState = 1
      ∧ (ote s g e).phase = 15
      ∧ (ote s g e).swapReady = false
      ∧ (ote s g e).swapLatched = false
      ∧ nextRow s.now (ote s g e) = some (x, prio)) (withEngine { phase := 15, calState := 1, prio := [5] }) 0 0 5 true)
    ∧ ((fun (s : State) (g : Core) (e : Eng) =>
      (ote s g e).phase ≤ 9
      ∧ (ote s g e).stopped = false
      ∧ (ote s g e).phaseAt + 1000000 ≤ s.now
      ∧ (ote s g e).samples + exSamples s.now (ote s g e) < 512) (clockAt 1000000 (withEngine { phase := 9, idleAt := 1000000 })) 0 0)
    ∧ ((fun (s : State) (g : Core) (e : Eng) =>
      ((ote s g e).swapReady = true ∨ (ote s g e).swapLatched = true)
      ∧ (ote s g e).readyAt + 16250000 ≤ s.now
      ∧ s.log.queue.length < 256
      ∧ rateOk s (0x8038 * 4096 + g.val * 4 + e.val) 100000000 = true) (clockAt 16250000 (withEngine { swapReady := true })) 0 0)
    ∧ ((fun (s : State) (g : Core) (e : Eng) =>
      CoreOn s g (oteOff e 0x10)) (withCore {}) 0 3)
    ∧ ((fun (s : State) (g : Core) (e : Eng) =>
      CoreOn s g (oteOff e 0x20)) (withCore {}) 0 3)
    ∧ ((fun (s : State) (g : Core) (e : Eng) (row : Fin 65) =>
      (Tbl.get {} (ote s g e).rows row).attempts < 3) (withEngine { rows := [(0, { attempts := 2 })] }) 0 0 0) := by
  refine ⟨?_,
    ?_,
    ?_,
    ?_,
    ?_,
    ?_,
    by unfold CoreOn; decide +kernel,
    by unfold CoreOn; decide +kernel,
    ?_⟩ <;> and_intros <;> decide +kernel

theorem witness_CombsComplete :
    ((fun (s : State) (c : Clu) (n : Fin 4) (j : Nat) (m : Nat) =>
      (comb s c n).unlocked = true
      ∧ combSlot s c n = some j
      ∧ standby s c = some m
      ∧ (clu s c).handover = none
      ∧ (comb s c n).lostAt + 2000000 ≤ s.now) (clockAt 2000000 (withClu { combs := [(1, { unlocked := true })] })) 0 1 1 3)
    ∧ ((fun (s : State) (c : Clu) (n : Nat) =>
      n = (if (clu s c).drivenOf = 0 then slots s c else (clu s c).drivenOf)
      ∧ (clu s c).driven ≤ n) (withClu {}) 0 (slots (withClu {}) (0)))
    ∧ ((fun (loss : Half16) (lineLoss : Half16) =>
      loss.toNat < 150
      ∧ lineLoss.toNat < 300) 149 299)
    ∧ ((fun (s : State) (c : Clu) (v : Word) (n : Nat) =>
      blockHeld s (cluBase c + 0x2020) = false
      ∧ bit v 31 = true
      ∧ fld v 0 2 ≠ 3
      ∧ standby s c = some n
      ∧ (clu s c).handover = none) (withClu {}) 0 0x80000001 3)
    ∧ ((fun (s : State) (c : Clu) (j : Nat) (n : Nat) (at_ : Nat) (f : Bool) (r : Bool) =>
      (clu s c).handover = some ⟨j, 1, f, r, at_⟩
      ∧ standby s c = some n) (withClu { handover := some ⟨1, 1, false, false, 0⟩ }) 0 1 3 0 false false)
    ∧ ((fun (s : State) (c : Clu) (j : Nat) (at_ : Nat) (f : Bool) (r : Bool) =>
      (clu s c).handover = some ⟨j, 2, f, r, at_⟩) (withClu { handover := some ⟨1, 2, false, false, 0⟩ }) 0 1 0 false false)
    ∧ ((fun (s : State) (c : Clu) (j : Nat) (at_ : Nat) (f : Bool) (r : Bool) =>
      (clu s c).handover = some ⟨j, 2, f, r, at_⟩
      ∧ at_ + 2000000 ≤ s.now) (clockAt 2000000 (withClu { handover := some ⟨1, 2, false, false, 0⟩ })) 0 1 0 false false)
    ∧ ((fun (s : State) (c : Clu) (j : Nat) (at_ : Nat) (f : Bool) (r : Bool) =>
      (clu s c).handover = some ⟨j, 3, f, r, at_⟩) (withClu { handover := some ⟨1, 3, false, false, 0⟩ }) 0 1 0 false false)
    ∧ ((fun (s : State) (c : Clu) (j : Nat) (n : Nat) (at_ : Nat) (f : Bool) (r : Bool) =>
      (clu s c).handover = some ⟨j, 4, f, r, at_⟩
      ∧ standby s c = some n
      ∧ (clu s c).handWait = []
      ∧ n ≠ slotComb s c j) (withClu { handover := some ⟨1, 4, false, false, 0⟩ }) 0 1 3 0 false false)
    ∧ ((fun (s : State) (c : Clu) (j : Nat) (n : Nat) (at_ : Nat) (f : Bool) (io : Bool) (fo : Bool) =>
      (clu s c).handover = some ⟨j, 4, f, false, at_⟩
      ∧ standby s c = some n
      ∧ (io && fo) = false) (withClu { handover := some ⟨1, 4, false, false, 0⟩ }) 0 1 3 0 false true false)
    ∧ ((fun (s : State) (c : Clu) (j : Nat) (n : Nat) (at_ : Nat) (f : Bool) (r : Bool) =>
      (clu s c).handover = some ⟨j, 0, f, r, at_⟩
      ∧ standby s c = some n
      ∧ at_ + 100000000 ≤ s.now) (clockAt 100000000 (withClu { handover := some ⟨1, 0, false, true, 0⟩ })) 0 1 3 0 false true) := by
  refine ⟨?_,
    ⟨by rfl, by decide +kernel⟩,
    ?_,
    ?_,
    ?_,
    ?_,
    ?_,
    ?_,
    ?_,
    ?_,
    ?_⟩ <;> and_intros <;> decide +kernel

theorem witness_DdrComplete :
    ((fun (s : State) (req : Requester) (u : Nat) =>
      reach s req (256 * u) 256 false = true
      ∧ reqGuard s req (256 * u) 256 = none
      ∧ s.ddr.zeroing = []
      ∧ gathered s u = false
      ∧ u ∉ s.ddr.poison
      ∧ (chan s (chanOf s u)).dead = false
      ∧ (chan s (chanOf s u)).reqs = []) up (.uplink 0 0) 0)
    ∧ ((fun (s : State) (req : Requester) (u : Nat) =>
      reach s req (256 * u) 256 false = true
      ∧ reqGuard s req (256 * u) 256 = none
      ∧ s.ddr.zeroing = []
      ∧ gathered s u = false
      ∧ u ∉ s.ddr.poison
      ∧ (chan s (chanOf s u)).dead = false
      ∧ (chan s (chanOf s u)).reqs = []
      ∧ stripeWhole s (devices s (256 * u)) (stripeOf (devices s (256 * u)) u) (some u) = false) (upDdr { chans := [(11, { state := 3, dead := true })] }) .firmware 0)
    ∧ ((fun (s : State) (req : Requester) (u : Nat) =>
      reach s req (256 * u) 256 false = true
      ∧ reqGuard s req (256 * u) 256 = none
      ∧ s.ddr.zeroing = []
      ∧ gathered s u = false
      ∧ ((chan s (chanOf s u)).reqs.filter fun q => q.holder = (holder req).1).length < (holder req).2) up (.uplink 0 0) 0)
    ∧ ((fun (s : State) (req : Requester) (u : Nat) =>
      reach s req (256 * u) 256 false = true
      ∧ reqGuard s req (256 * u) 256 = none
      ∧ s.ddr.zeroing = []
      ∧ gathered s u = false
      ∧ (holder req).2 ≤ ((chan s (chanOf s u)).reqs.filter fun q => q.holder = (holder req).1).length) (upDdr { chans := (List.range 12).map fun i => (i, { reqs := List.replicate 8 ⟨0, false, 0, .clean, 0⟩ }) }) (.uplink 0 0) 0)
    ∧ ((fun (s : State) (req : Requester) (u : Nat) (off : Nat) (data : List Byte) =>
      Inv s
      ∧ off + data.length ≤ 256
      ∧ data ≠ []
      ∧ reach s req (256 * u + off) data.length true = true
      ∧ reqGuard s req (256 * u + off) data.length = none
      ∧ s.ddr.zeroing = []
      ∧ ((chan s (chanOf s u)).reqs.filter fun q => q.holder = (holder req).1).length < (holder req).2) up .bar4 0 192 (List.replicate 64 1))
    ∧ ((fun (s : State) (g : Gather) (gs : List Gather) =>
      s.ddr.gather = g :: gs
      ∧ g.since + 2000 ≤ s.now) (clockAt 2000 (upDdr { gather := [⟨0, [], 0⟩] })) (⟨0, [], 0⟩) ([]))
    ∧ ((fun (s : State) (u : Nat) (w : Nat) =>
      u = s.ddr.patrol
      ∧ w = (devices s (256 * u)).length - 1
      ∧ s.ddr.patrolPar = false
      ∧ u ∉ s.ddr.poison
      ∧ (chan s (chanOf s u)).dead = false) up 0 ((devices up 0).length - 1))
    ∧ ((fun (s : State) (u : Nat) (ds : List Nat) =>
      u = s.ddr.patrol
      ∧ ds = devices s (256 * u)
      ∧ s.ddr.patrolPar = true
      ∧ stripeOf ds u * (ds.length - 1) ∉ s.ddr.badParity
      ∧ (chan s (parityDev ds (stripeOf ds u))).dead = false) (upDdr { patrolPar := true }) 0 (devices (upDdr { patrolPar := true }) 0))
    ∧ ((fun (s : State) (ch : Chan) =>
      (chan s ch).state = 1
      ∧ (chan s ch).crossedAt + 86400000000000 ≤ s.now
      ∧ overThreshold s ch = false) (clockAt 86400000000000 (upDdr { chans := [(11, { state := 1 })] })) 11)
    ∧ ((fun (s : State) (ch : Chan) =>
      (chan s ch).state < 3
      ∧ (chan s ch).dead = false
      ∧ s.boot.state = .ready
      ∧ 64 ≤ usableCores s) up 11)
    ∧ ((fun (s : State) (r : RingIx) (e : Entry) =>
      Waits s r 5 0x1A e
      ∧ ent e 8 1 ≤ 11
      ∧ ((chan s (ent e 8 1)).state = 2 ∨ (chan s (ent e 8 1)).state = 3)
      ∧ s.ddr.retired + s.ddr.migChan.length < 2
      ∧ s.ckpt.runs = []
      ∧ s.boot.state = .ready
      ∧ 64 ≤ usableCores s) (setChan 3 { state := 2 } (withRing (ringOf 5 [numEntry (0x1A + 3 * 2 ^ 64)]))) 0 (numEntry (0x1A + 3 * 2 ^ 64)))
    ∧ ((fun (s : State) (n : Nat) (ns : List Nat) =>
      s.ddr.migrating = true
      ∧ s.ddr.migChan = n :: ns
      ∧ (∀ d, (chan s d).dead = false)
      ∧ 262144 < s.ddr.watermark) (upDdr { migrating := true, migChan := [3], watermark := 262145 }) 3 ([]))
    ∧ ((fun (s : State) (n : Nat) =>
      s.ddr.migrating = true
      ∧ s.ddr.migChan = [n]
      ∧ (∀ d, (chan s d).dead = false)
      ∧ s.ddr.watermark ≤ 262144) (upDdr { migrating := true, migChan := [3], watermark := 262144 }) 3)
    ∧ ((fun (s : State) (reg : Fin 16) (a : Nat) (n : Nat) =>
      s.ddr.zeroing.find? (fun x => x.1 = reg.val) = some (reg.val, a, n)) (upDdr { zeroing := [(15, 0, 16)] }) 15 0 16) := by
  refine ⟨?_,
    ?_,
    ?_,
    ?_,
    by refine ⟨by unfold Machine.Inv; decide +kernel, ?_, ?_, ?_, ?_, ?_, ?_⟩ <;> decide +kernel,
    ?_,
    ?_,
    ?_,
    ?_,
    ?_,
    by refine ⟨by unfold Waits Machine.Inv; decide +kernel, ?_, ?_, ?_, ?_, ?_, ?_⟩ <;> decide +kernel,
    by refine ⟨?_, ?_, by intros; rfl, ?_⟩ <;> decide +kernel,
    by refine ⟨?_, ?_, by intros; rfl, ?_⟩ <;> decide +kernel,
    ?_⟩ <;> and_intros <;> decide +kernel

theorem witness_CopyEnginesComplete :
    ((fun (c : Instr) (o : Nat) (s : State) (r : RingIx) (e : Entry) =>
      ((c = .copy r ∧ o = 0x10) ∨ (c = .fill r ∧ o = 0x11) ∨ (c = .paged r ∧ o = 0x12))
      ∧ takeEntry s r 2 o = some e) (.copy 0) 0x10 (withRing (ringOf 2 [numEntry 16])) 0 (numEntry 16))
    ∧ ((fun (c : Instr) (o : Nat) (s : State) (r : RingIx) (e : Entry) =>
      ((c = .copy r ∧ o = 0x10) ∨ (c = .fill r ∧ o = 0x11) ∨ (c = .paged r ∧ o = 0x12))
      ∧ takeEntry s r 2 o = some e) (.fill 0) 0x11 (withRing (ringOf 2 [numEntry 17])) 0 (numEntry 17))
    ∧ ((fun (c : Instr) (o : Nat) (s : State) (r : RingIx) (e : Entry) =>
      ((c = .copy r ∧ o = 0x10) ∨ (c = .fill r ∧ o = 0x11) ∨ (c = .paged r ∧ o = 0x12))
      ∧ takeEntry s r 2 o = some e) (.paged 0) 0x12 (withRing (ringOf 2 [numEntry 18])) 0 (numEntry 18))
    ∧ ((fun (s : State) (eng : Fin 20) (d : CopyDesc) (ds : List CopyDesc) =>
      eng.val < 4
      ∧ engine s eng = d :: ds
      ∧ d.running = false) (upDdr { engines := [(3, [{ ring := some 0, ctx := none, index := 0, entry := numEntry (0x11 + 256 * 2 ^ 192) }])] }) 3 ({ ring := some 0, ctx := none, index := 0, entry := numEntry (0x11 + 256 * 2 ^ 192) }) ([]))
    ∧ ((fun (s : State) (eng : Fin 20) (d : CopyDesc) (ds : List CopyDesc) (r : Nat) (b : Nat) =>
      Inv s
      ∧ eng.val < 4
      ∧ engine s eng = d :: ds
      ∧ d.running = true
      ∧ d.ring = some r
      ∧ d.xfer = 0
      ∧ d.bad = none
      ∧ d.row = 0
      ∧ xfer s 0 = none
      ∧ canDma s = true
      ∧ s.ddr.zeroing = []
      ∧ entOpcode d.entry = 0x11
      ∧ descOk d.entry = true
      ∧ entToken d.entry = false
      ∧ ent d.entry 28 4 = 0
      ∧ ent d.entry 16 8 % 256 + ent d.entry 24 4 ≤ 256
      ∧ ent d.entry 16 8 + ent d.entry 24 4 ≤ 0x10000000000000000
      ∧ checkAt s (descWho s d) (ent d.entry 16 8) (ent d.entry 24 4) true = .ok (.here b)
      ∧ b + ent d.entry 24 4 ≤ 0x10000000000000000) (upDdr { engines := [(3, [{ ring := some 0, ctx := none, index := 0, entry := numEntry (0x11 + 256 * 2 ^ 192), running := true }])] }) 3 ({ ring := some 0, ctx := none, index := 0, entry := numEntry (0x11 + 256 * 2 ^ 192), running := true }) ([]) 0 0)
    ∧ ((fun (s : State) (c : Clu) (x : Ctx) (n : Nat) =>
      bit (ceList s c x).reg 31 = true
      ∧ (ceList s c x).state ≠ 2
      ∧ listTail s c (ceList s c x) = .ok n
      ∧ n < listSize (ceList s c x)
      ∧ n ≠ (ceList s c x).head) ({ up with clus := [(0, { lists := [(0, { reg := 0x80200000, state := 0 })] })], mem := [⟨cisternKey 0 0, 1⟩] }) 0 0 1)
    ∧ ((fun (s : State) (c : Clu) (x : Ctx) (v : Word) (n : Nat) =>
      blockHeld s (cluBase c + 0x1040) = false
      ∧ bit v x = true
      ∧ (∀ y : Ctx, y ≠ x → bit v y = false)
      ∧ bit (ceList s c x).reg 31 = true
      ∧ (ceList s c x).state = 2
      ∧ listTail s c (ceList s c x) = .ok n
      ∧ n < listSize (ceList s c x)
      ∧ n ≠ (ceList s c x).head) ({ up with clus := [(0, { lists := [(0, { reg := 0x80200000, state := 2 })] })], mem := [⟨cisternKey 0 0, 1⟩] }) 0 0 1 1) := by
  refine ⟨⟨(Or.inl ⟨rfl, by decide +kernel⟩), by decide +kernel⟩,
    ⟨(Or.inr (Or.inl ⟨rfl, by decide +kernel⟩)), by decide +kernel⟩,
    ⟨(Or.inr (Or.inr ⟨rfl, by decide +kernel⟩)), by decide +kernel⟩,
    ?_,
    by refine ⟨by unfold Machine.Inv; decide +kernel, ?_, ?_, ?_, ?_, ?_, ?_, ?_, ?_, ?_, ?_, ?_, ?_, ?_, ?_, ?_, ?_, ok_here _ _ (by decide +kernel), ?_⟩ <;> decide +kernel,
    ?_,
    ?_⟩ <;> and_intros <;> decide +kernel

theorem witness_RingsComplete :
    ((fun (s : State) (r : RingIx) (v : DWord) =>
      BarOpen s
      ∧ (ring s r).state = .active
      ∧ ringType (ring s r) ≠ 6
      ∧ fld v 0 32 < ringN (ring s r)
      ∧ ((ring s r).sqTail + ringN (ring s r) - (ring s r).sqHead) % ringN (ring s r) ≤ (fld v 0 32 + ringN (ring s r) - (ring s r).sqHead) % ringN (ring s r)) (withRing (ringOf 1 [])) 0 63)
    ∧ ((fun (s : State) (r : RingIx) (v : DWord) =>
      BarOpen s
      ∧ (ring s r).state = .active
      ∧ fld v 0 32 < ringN (ring s r)
      ∧ (fld v 0 32 + ringN (ring s r) - (ring s r).cqHead) % ringN (ring s r) ≤ ((ring s r).cqTail + ringN (ring s r) - (ring s r).cqHead) % ringN (ring s r)) (withRing { ringOf 1 [] with cqTail := 63 }) 0 63)
    ∧ ((fun (s : State) (r : RingIx) (e : Entry) =>
      (ring s r).state = .active
      ∧ ringType (ring s r) ≠ 6
      ∧ canDma s = true
      ∧ ((ring s r).sqTail + ringN (ring s r) - (ring s r).sqHead) % ringN (ring s r) = 1
      ∧ 1 ≤ cqFree (ring s r)
      ∧ e.bytes = s.mem.readN (hostKey (ringSqBase (ring s r) + 64 * ((ring s r).sqHead % ringN (ring s r)))) 64
      ∧ e.edition = s.hst.edition
      ∧ e.gen = ((ringCtx s.hst.force r).map fun c => (ctx s c).gen).getD 0
      ∧ e.seq = s.hst.entSeq
      ∧ e.started = false
      ∧ entryRefusal s r e = none) ({ bound { created := true } (withRing { ringOf 1 [] with sqTail := 1 }) with mem := [⟨hostKey 0, 1⟩] }) 0 ({ bytes := 1 :: List.replicate 63 0, edition := 0, gen := 0 }))
    ∧ ((fun (s : State) (r : RingIx) (v : Nat) =>
      v = fld (ring s r).cfg 16 7
      ∧ bit (ring s r).cfg 23 = true
      ∧ (ring s r).since ≠ 0
      ∧ fld (ring s r).mod 8 16 ≠ 0
      ∧ (ring s r).sinceAt + fld (ring s r).mod 8 16 * 1000 ≤ s.now) (clockAt 1000 (withRing { ringOf 1 [] with cfg := 0x00830061, since := 1, mod := 0x100 })) 0 3)
    ∧ ((fun (s : State) (r : RingIx) =>
      blockHeld s (0x20018 + 0x40 * r) = false
      ∧ (ring s r).state = .disabled
      ∧ ringOk (ring s r) = true) (withRing { cfg := 0x61 }) 0)
    ∧ ((fun (s : State) (r : RingIx) =>
      blockHeld s (0x20018 + 0x40 * r) = false
      ∧ (ring s r).state = .active
      ∧ (∀ e ∈ (ring s r).inflight, drainAborts (ring s r) e = false)) (withRing (ringOf 1 [])) 0)
    ∧ ((fun (s : State) (r : RingIx) =>
      (ring s r).state = .draining
      ∧ (ring s r).inflight = []
      ∧ (ring s r).pending = false
      ∧ (s.hst.waitCq.any fun w => w.1 == r.val) = false) (withRing { cfg := 0x61, state := .draining }) 0)
    ∧ ((fun (s : State) (r : RingIx) (e : Entry) =>
      Waits s r 1 1 e
      ∧ entToken e = false) (bound ({ created := true }) (withRing (ringOf 1 [numEntry 1]))) 0 (numEntry 1))
    ∧ ((fun (s : State) (r : RingIx) (e : Entry) (c : Nat) =>
      Waits s r 1 2 e
      ∧ entToken e = false
      ∧ entCtx s r e = some c
      ∧ lastStep s c ≠ 0xFFFFFFFF
      ∧ 0 ≤ (lastStep s c - BitVec.ofNat 32 (ent e 8 4)).toInt) (bound ({ created := true, map := [some 0], marks := [(0, 5)] }) (withRing (ringOf 1 [numEntry 2]))) 0 (numEntry 2) 0)
    ∧ ((fun (s : State) (r : RingIx) (e : Entry) (c : Nat) =>
      Waits s r 1 3 e
      ∧ entToken e = false
      ∧ entCtx s r e = some c
      ∧ ctxComplete s c = true) (bound { created := true, map := [some 0] } (withHalted (ringOf 1 [numEntry 3]))) 0 (numEntry 3) 0) := by
  refine ⟨by refine ⟨by unfold BarOpen; decide +kernel, ?_, ?_, ?_, ?_⟩ <;> decide +kernel,
    by refine ⟨by unfold BarOpen; decide +kernel, ?_, ?_, ?_⟩ <;> decide +kernel,
    ?_,
    ?_,
    ?_,
    ?_,
    ?_,
    ⟨by unfold Waits Machine.Inv; decide +kernel, by decide +kernel⟩,
    by refine ⟨by unfold Waits Machine.Inv; decide +kernel, ?_, ?_, ?_, ?_⟩ <;> decide +kernel,
    by refine ⟨by unfold Waits Machine.Inv; decide +kernel, ?_, ?_, ?_⟩ <;> decide +kernel⟩ <;> and_intros <;> decide +kernel

theorem witness_ContextCommandsComplete :
    ((fun (s : State) (s' : State) (r : RingIx) (e : Entry) (c : Nat) (count : Bool) (bs : List Byte) (tab : CtxTable) (gs : List Nat) =>
      Waits s r 5 0x10 e
      ∧ c = ent e 8 1
      ∧ c ≤ 3
      ∧ count = decide (ent e 9 1 % 2 = 1)
      ∧ ent e 12 4 ≤ 224
      ∧ (count = true → ent e 10 2 ≠ 0)
      ∧ (ent e 12 4 = 0 ∧ s' = s ∧ bs = [] ∨ ent e 12 4 ≠ 0 ∧ s' = tableRead r e (ent e 16 8) (8 * ent e 12 4) s ∧ readTable s' r e (ent e 16 8) (8 * ent e 12 4) = .ok bs)
      ∧ canDma s' = true
      ∧ Inv s'
      ∧ parseTable count bs (ent e 12 4) 0 {} = some tab
      ∧ (count = true ∨ tab.cores ≠ [])
      ∧ tab.lists.all (listInside tab) = true
      ∧ createCheck s' c (if count then some (ent e 10 2) else none) tab = .ok gs) (withRing (ringOf 5 [numEntry (0x10 + 1 * 2 ^ 72 + 1 * 2 ^ 80)])) (withRing (ringOf 5 [numEntry (0x10 + 1 * 2 ^ 72 + 1 * 2 ^ 80)])) 0 (numEntry (0x10 + 1 * 2 ^ 72 + 1 * 2 ^ 80)) 0 true ([]) ({}) ([0]))
    ∧ ((fun (s : State) (s' : State) (r : RingIx) (e : Entry) (c : Nat) (bs : List Byte) =>
      Waits s r 5 0x11 e
      ∧ c = ent e 8 1
      ∧ c ≤ 3
      ∧ ctxResets s c = false
      ∧ (ctx s c).created = true
      ∧ (ctx s c).tearing = false
      ∧ hasUnmapped s c = false
      ∧ (coresOf s c).all (coreQuiet s) = true
      ∧ s' = tableRead r e (ent e 16 8) (16 * (ctx s c).map.length) s
      ∧ canDma s' = true
      ∧ Inv s'
      ∧ readTable s' r e (ent e 16 8) (16 * (ctx s c).map.length) = .ok bs
      ∧ (ctx s' c).map.Nodup) (setCtx 0 { created := true, map := [some 0] } (withRing (ringOf 5 [numEntry 0x11]))) (tableRead 0 (numEntry 0x11) 0 16 (setCtx 0 { created := true, map := [some 0] } (withRing (ringOf 5 [numEntry 0x11])))) 0 (numEntry 0x11) 0 (List.replicate 16 0))
    ∧ ((fun (s : State) (r : RingIx) (e : Entry) (c : Nat) =>
      takeEntry s r 5 0x12 = some e
      ∧ c = ent e 8 1
      ∧ c ≤ 3
      ∧ ctxResets s c = false
      ∧ (ctx s c).created = true
      ∧ (ctx s c).tearing = false) (setCtx 0 { created := true } (withRing (ringOf 5 [numEntry 0x12]))) 0 (numEntry 0x12) 0)
    ∧ ((fun (s : State) (c : Ctx) =>
      (ctx s c).tearing = true) (setCtx 0 { created := true, tearing := true, map := [some 0] } (withCore { state := .assigned })) 0)
    ∧ ((fun (s : State) (r : RingIx) (e : Entry) (c : Nat) =>
      takeEntry s r 5 0x13 = some e
      ∧ c = ent e 8 1
      ∧ c ≤ 3
      ∧ (ctx s c).created = true
      ∧ ent e 10 2 = ((ctx s c).modeEd.toNat + 1) % 65536
      ∧ (ctx s c).staged = none
      ∧ (∀ v ∈ modeEntries e, bits v 0 3 < 5 ∧ bits v 3 4 < 8)
      ∧ 1 ≤ ent e 16 4
      ∧ ent e 16 4 ≤ 100000) (setCtx 0 { created := true } (withRing (ringOf 5 [numEntry (0x13 + 2 ^ 80 + 2 ^ 128)]))) 0 (numEntry (0x13 + 2 ^ 80 + 2 ^ 128)) 0)
    ∧ ((fun (s : State) (r : RingIx) (e : Entry) =>
      takeEntry s r 5 0x18 = some e
      ∧ ent e 8 2 < 144
      ∧ inGood s (ent e 8 2) = true
      ∧ (core s (ent e 8 2)).state ≠ .absent
      ∧ (core s (ent e 8 2)).state ≠ .fenced) (withRing (ringOf 5 [numEntry (0x18 + 143 * 2 ^ 64)])) 0 (numEntry (0x18 + 143 * 2 ^ 64)))
    ∧ ((fun (s : State) (r : RingIx) (e : Entry) =>
      Waits s r 5 0x19 e
      ∧ ent e 8 2 < 144) (withRing (ringOf 5 [numEntry (0x19 + 143 * 2 ^ 64)])) 0 (numEntry (0x19 + 143 * 2 ^ 64)))
    ∧ ((fun (s : State) (r : RingIx) (e : Entry) =>
      Waits s r 5 0x19 e
      ∧ ent e 8 2 = 0xFFFF) (withRing (ringOf 5 [numEntry (0x19 + 0xFFFF * 2 ^ 64)])) 0 (numEntry (0x19 + 0xFFFF * 2 ^ 64)))
    ∧ ((fun (s : State) (v : Word) =>
      blockHeld s 0 = false
      ∧ bit v 0 = true
      ∧ s.hst.commitPending = none
      ∧ commitRefusal s s.hst.staged = none
      ∧ s.hst.older.length < 3) up 1)
    ∧ ((fun (s : State) (ed : Half16) =>
      (∃ p ∈ s.hst.older, p.1 = ed)
      ∧ setUsed s ed = false
      ∧ s.hst.commitPending = none) ({ up with hst := { up.hst with edition := 2, older := [(1, [])] } }) 1) := by
  refine ⟨by refine ⟨by unfold Waits Machine.Inv; decide +kernel, ?_, ?_, ?_, ?_, ?_, by left; exact ⟨by decide +kernel, rfl, rfl⟩, ?_, by unfold Machine.Inv; decide +kernel, by rfl, ?_, ?_, ?_⟩ <;> decide +kernel,
    by refine ⟨by unfold Waits Machine.Inv; decide +kernel, ?_, ?_, ?_, ?_, ?_, ?_, ?_, by rfl, ?_, by unfold Machine.Inv; decide +kernel, ?_, ?_⟩ <;> decide +kernel,
    ?_,
    ?_,
    ?_,
    ?_,
    ⟨by unfold Waits Machine.Inv; decide +kernel, by decide +kernel⟩,
    ⟨by unfold Waits Machine.Inv; decide +kernel, by decide +kernel⟩,
    ?_,
    ?_⟩ <;> and_intros <;> decide +kernel

theorem witness_HostInterfaceComplete :
    ((fun (c : Instr) =>
      (c = .functionLevelReset ∨ c = .hotReset ∨ c = .linkDownTimeout)) .functionLevelReset)
    ∧ ((fun (c : Instr) =>
      (c = .functionLevelReset ∨ c = .hotReset ∨ c = .linkDownTimeout)) .hotReset)
    ∧ ((fun (c : Instr) =>
      (c = .functionLevelReset ∨ c = .hotReset ∨ c = .linkDownTimeout)) .linkDownTimeout)
    ∧ ((fun (s : State) (r : RingIx) =>
      (ring s r).state = .active) (withRing (ringOf 1 [])) 0)
    ∧ ((fun (s : State) (g : Core) (st : Str) (i : Nat) (op : LongOp) =>
      (strm s g st).outst[i]? = some op
      ∧ op.bad = none
      ∧ (strm s g st).state = .running) (withStream 0 { state := .running, outst := [⟨0x10 + 16 * 65536, 0x1000, [], 0, 0, 0, 0, 0, 0, none⟩] }) 0 0 0 (⟨0x10 + 16 * 65536, 0x1000, [], 0, 0, 0, 0, 0, 0, none⟩))
    ∧ ((fun (s : State) (g : Core) (st : Str) (i : Nat) (op : LongOp) =>
      (strm s g st).outst[i]? = some op
      ∧ op.bad = none
      ∧ (strm s g st).state = .running) (withStream 0 { state := .running, outst := [⟨0x10 + 16 * 65536, 0x1000, [], 0, 0, 0, 0, 0, 0, none⟩] }) 0 0 0 (⟨0x10 + 16 * 65536, 0x1000, [], 0, 0, 0, 0, 0, 0, none⟩))
    ∧ ((fun (s : State) (off : Nat) (len : Nat) =>
      BarOpen s
      ∧ (bar4 s).2 = true
      ∧ (bar4 s).1 + off + len ≤ capacity s
      ∧ badByte (readRange ((bar4 s).1 + off) len s) ((bar4 s).1 + off) len = none) bar 0 8)
    ∧ ((fun (s : State) (off : Nat) (data : List Byte) =>
      Inv s
      ∧ BarOpen s
      ∧ (bar4 s).2 = true
      ∧ data ≠ []
      ∧ (bar4 s).1 + off + data.length ≤ userLimit s
      ∧ (bar4 s).1 + off + data.length ≤ capacity s) bar 0 ([1, 2]))
    ∧ ((fun (s : State) (off : Nat) (data : List (Option Byte)) =>
      Inv s
      ∧ BarOpen s
      ∧ (bar4 s).2 = true
      ∧ data ≠ []
      ∧ (bar4 s).1 + off + data.length ≤ userLimit s
      ∧ (bar4 s).1 + off + data.length ≤ capacity s) bar 0 ([some 1, none])) := by
  refine ⟨(Or.inl rfl),
    (Or.inr (Or.inl rfl)),
    (Or.inr (Or.inr rfl)),
    ?_,
    ?_,
    ?_,
    by refine ⟨by unfold BarOpen; decide +kernel, ?_, ?_, ?_⟩ <;> decide +kernel,
    by refine ⟨by unfold Machine.Inv; decide +kernel, by unfold BarOpen; decide +kernel, ?_, ?_, ?_, ?_⟩ <;> decide +kernel,
    by refine ⟨by unfold Machine.Inv; decide +kernel, by unfold BarOpen; decide +kernel, ?_, ?_, ?_, ?_⟩ <;> decide +kernel⟩ <;> and_intros <;> decide +kernel

theorem witness_RegistersComplete :
    ((fun (s : State) =>
      BarOpen s) up)
    ∧ ((fun (s : State) (off : Nat) (m : Word) =>
      BarOpen s
      ∧ refusal s off 1 0xF = 0
      ∧ blockHeld s off = false
      ∧ pwMask off = some m
      ∧ (∀ w ∈ s.idb.pw, blockHigh w.off ≠ blockHigh off)
      ∧ off ≠ 0x40014
      ∧ off ≠ 0x40028) up 0x40018 0x00010FFF)
    ∧ ((fun (s : State) (off : Nat) (lenDw : Nat) (be : BitVec 4) =>
      BarOpen s
      ∧ refusal s off lenDw be ≠ 0) up 0x10204 1 0xE)
    ∧ ((fun (s : State) (off : Nat) (lenDw : Nat) (be : BitVec 4) =>
      BarOpen s
      ∧ refusal s off lenDw be ≠ 0) up 0x10204 1 0xE)
    ∧ ((fun (s : State) (off : Nat) =>
      BarOpen s
      ∧ refusal s off 1 0xF = 0) up 0x10200)
    ∧ ((fun (s : State) =>
      BarOpen s
      ∧ s.idb.pw = []) up)
    ∧ ((fun (s : State) =>
      BarOpen s) up)
    ∧ ((fun (s : State) (w : PwWrite) (ws : List PwWrite) =>
      s.idb.pw = w :: ws
      ∧ w.off = 0x70010
      ∧ blockHeld s 0x70010 = false) ({ up with idb := { up.idb with pw := [⟨0x70010, 5, 0⟩] } }) (⟨0x70010, 5, 0⟩) ([]))
    ∧ ((fun (s : State) (w : PwWrite) (ws : List PwWrite) =>
      s.idb.pw = w :: ws
      ∧ s.log.queue.length < 256) ({ up with idb := { up.idb with pw := [⟨0x70010, 5, 0⟩] } }) (⟨0x70010, 5, 0⟩) ([])) := by
  refine ⟨by unfold BarOpen; decide +kernel,
    by refine ⟨by unfold BarOpen; decide +kernel, ?_, ?_, ?_, ?_, ?_, ?_⟩ <;> decide +kernel,
    ⟨by unfold BarOpen; decide +kernel, by decide +kernel⟩,
    ⟨by unfold BarOpen; decide +kernel, by decide +kernel⟩,
    ⟨by unfold BarOpen; decide +kernel, by decide +kernel⟩,
    ⟨by unfold BarOpen; decide +kernel, by decide +kernel⟩,
    by unfold BarOpen; decide +kernel,
    ?_,
    ?_⟩ <;> and_intros <;> decide +kernel

theorem witness_TallyComplete :
    ((fun (s : State) (off : Nat) =>
      isCounter off = true
      ∧ blockHeld s off = false
      ∧ coreDead s off = false) up 0x80C000)
    ∧ ((fun (s : State) (off : Nat) =>
      (counter s off).live = 281474976710655) (upTally { counters := [(0x80C000, { live := 281474976710655 })] }) 0x80C000)
    ∧ ((fun (s : State) (v : Word) =>
      blockHeld s 0x060000 = false
      ∧ bit v 0 = true) up 1)
    ∧ ((fun (s : State) =>
      snapPeriod s ≠ 0
      ∧ s.tally.periodAt + snapPeriod s * 1000 ≤ s.now) ({ upTally { period := 1 } with now := 1000 }))
    ∧ ((fun (s : State) (g : Core) (st : Str) (x : SampTag) =>
      (core s g).sampNext = some x
      ∧ x.stream = st.val
      ∧ (core s g).sampTag = none) (withCore { sampNext := some { stream := 3, word := 0, sregs := [], pc := 0, ctx := 0, gen := 0, stall := 0, issue := 0 } }) 0 3 ({ stream := 3, word := 0, sregs := [], pc := 0, ctx := 0, gen := 0, stall := 0, issue := 0 }))
    ∧ ((fun (s : State) (x : SampRec) (xs : List SampRec) =>
      Inv s
      ∧ s.tally.sampQueue = x :: xs
      ∧ (∀ g, (core s g).sampTag = none)
      ∧ (s.tally.sampWrite - s.tally.sampRead).toNat < sampCap s) (upTally { sampQueue := [⟨[1, 2]⟩] }) (⟨[1, 2]⟩) ([]))
    ∧ ((fun (s : State) =>
      blockHeld s 0x060020 = false
      ∧ s.tally.enabled = false
      ∧ s.tally.draining = false
      ∧ sampBaseAt s + 64 * sampCap s ≤ userLimit s) up)
    ∧ ((fun (s : State) =>
      blockHeld s 0x060020 = false
      ∧ s.tally.enabled = true) (upTally { enabled := true }))
    ∧ ((fun (s : State) =>
      s.tally.draining = true
      ∧ s.tally.sampQueue = []
      ∧ (∀ p ∈ s.cores, p.2.sampTag = none)
      ∧ s.tally.pending = false) (upTally { draining := true }))
    ∧ ((fun (s : State) (x : LogRec) (xs : List LogRec) =>
      Inv s
      ∧ s.log.queue = x :: xs
      ∧ s.log.lostNow = 0) ({ up with log := { up.log with queue := [⟨1, 2, 3, 4, 5, 6, 7⟩] } }) (⟨1, 2, 3, 4, 5, 6, 7⟩) ([])) := by
  refine ⟨?_,
    ?_,
    ?_,
    ?_,
    ?_,
    ⟨by unfold Machine.Inv; decide +kernel, by decide +kernel, by intros; rfl, by decide +kernel⟩,
    ?_,
    ?_,
    ?_,
    ⟨by unfold Machine.Inv; decide +kernel, by decide +kernel, by decide +kernel⟩⟩ <;> and_intros <;> decide +kernel

theorem witness_FabricOpticsComplete :
    ((fun (s : State) (p : Plane) (l : Lane) (rx : Bool) =>
      (laneSt s p l rx).state = .tuning) (setTx 0 15 { state := .tuning } up) 0 15 false)
    ∧ ((fun (s : State) (p : Plane) (l : Lane) (cdbm : Half16) (b : Half16) (k : Nat) =>
      s.log.queue.length < 256
      ∧ cdbm.toInt < -1100
      ∧ (rxLane s p l).state ≠ .dark
      ∧ k = (rxLane s p l).chan
      ∧ b = tapBase s p 4 k) (setRx 0 0 { state := .lit } up) 0 0 (BitVec.ofInt 16 (-1101)) (tapBase (setRx 0 0 { state := .lit } up) 0 4 0) 0)
    ∧ ((fun (s : State) (p : Plane) =>
      blockHeld s (0x100020 + 0x10000 * p) = false
      ∧ (fab s p).hand = none
      ∧ workingSpare s p = true
      ∧ scheduledRuns s = false
      ∧ switching s = false
      ∧ (fabComb s p (spareOf s p)).checked = false) up 0)
    ∧ ((fun (s : State) (p : Plane) (h : FabHand) =>
      (fabComb s p (spareOf s p)).state = 1
      ∧ (fab s p).hand = some h
      ∧ h.step = 1
      ∧ h.forced = false) (setFab 0 { hand := some { step := 1, forced := false }, combs := [(1, { state := 1 })] } up) 0 ({ step := 1, forced := false }))
    ∧ ((fun (s : State) (p : Plane) (h : FabHand) =>
      (fabComb s p (spareOf s p)).state = 1
      ∧ (fab s p).hand = some h
      ∧ h.step = 1
      ∧ h.forced = true) (setFab 0 { hand := some { step := 1, forced := true }, combs := [(1, { state := 1 })] } up) 0 ({ step := 1, forced := true }))
    ∧ ((fun (c : Instr) (s : State) (p : Plane) (h : FabHand) =>
      (fab s p).hand = some h
      ∧ h.step = 6
      ∧ ((∃ load : Nat, c = .fabLowTraffic p load ∧ load < h.low) ∨ (c = .fabHandoverWindowExpiry p ∧ h.asked + h.window * 1000000000 ≤ s.now))) (.fabLowTraffic 0 5) (setFab 0 { hand := some { step := 6, forced := false }, tx := [(0, { state := .lit })] } up) 0 ({ step := 6, forced := false }))
    ∧ ((fun (c : Instr) (s : State) (p : Plane) (h : FabHand) =>
      (fab s p).hand = some h
      ∧ h.step = 6
      ∧ ((∃ load : Nat, c = .fabLowTraffic p load ∧ load < h.low) ∨ (c = .fabHandoverWindowExpiry p ∧ h.asked + h.window * 1000000000 ≤ s.now))) (.fabHandoverWindowExpiry 0) (clockAt 60000000000 (setFab 0 { hand := some { step := 6, forced := false }, tx := [(0, { state := .lit })] } up)) 0 ({ step := 6, forced := false }))
    ∧ ((fun (s : State) (p : Plane) (h : FabHand) =>
      (fab s p).hand = some h
      ∧ h.step = 2
      ∧ (∀ l : Lane, (pair s p l).held = true → (pair s p l).unacked = [] ∧ (pair s p l).replay = [])) (setFab 0 { hand := some { step := 2, forced := false } } up) 0 ({ step := 2, forced := false }))
    ∧ ((fun (s : State) (p : Plane) (h : FabHand) =>
      (fab s p).hand = some h
      ∧ h.step = 2
      ∧ h.since + 1000000 ≤ s.now
      ∧ s.steer.deferred = []) (clockAt 1000000 (setFab 0 { hand := some { step := 2, forced := false } } up)) 0 ({ step := 2, forced := false }))
    ∧ ((fun (s : State) (p : Plane) (h : FabHand) =>
      (fab s p).hand = some h
      ∧ h.step = 3
      ∧ s.steer.deferred = []) (setFab 0 { hand := some { step := 3, forced := false } } up) 0 ({ step := 3, forced := false }))
    ∧ ((fun (s : State) (p : Plane) (h : FabHand) =>
      (fab s p).hand = some h
      ∧ h.step = 4
      ∧ s.steer.deferred = []) (setFab 0 { hand := some { step := 4, forced := false } } up) 0 ({ step := 4, forced := false }))
    ∧ ((fun (s : State) (p : Plane) (h : FabHand) =>
      (fab s p).hand = some h
      ∧ h.step = 0
      ∧ h.turn = false
      ∧ h.since + 100000000 ≤ s.now
      ∧ (fabComb s p (spareOf s p)).checked = false) (clockAt 100000000 (setFab 0 { hand := some { step := 0, forced := false } } up)) 0 ({ step := 0, forced := false }))
    ∧ ((fun (s : State) (p : Plane) =>
      (fabComb s p (inService s p)).unlocked = true
      ∧ (fabComb s p (inService s p)).lostAt + 2000000 ≤ s.now
      ∧ (fab s p).txRetired = false
      ∧ workingSpare s p = true
      ∧ (fab s p).hand = none
      ∧ (fabComb s p (spareOf s p)).checked = false) (clockAt 2000000 (setFab 0 { combs := [(0, { unlocked := true })] } up)) 0)
    ∧ ((fun (s : State) (p : Plane) (v : Word) =>
      blockHeld s (0x100200 + 0x10000 * p) = false
      ∧ fld v 8 3 < 6
      ∧ (fld v 8 3 = 2 ∨ fld v 8 3 = 5 → fld v 0 5 < 16)) up 0 0x20F) := by
  refine ⟨?_,
    by refine ⟨?_, ?_, ?_, ?_, by rfl⟩ <;> decide +kernel,
    ?_,
    ?_,
    ?_,
    ⟨by decide +kernel, by decide +kernel, (Or.inl ⟨5, rfl, by decide⟩)⟩,
    ⟨by decide +kernel, by decide +kernel, (Or.inr ⟨rfl, by decide +kernel⟩)⟩,
    ?_,
    ?_,
    ?_,
    ?_,
    ?_,
    ?_,
    ?_⟩ <;> and_intros <;> decide +kernel

theorem witness_LinkPairsComplete :
    ((fun (s : State) (p : Plane) (l : Lane) =>
      training (pair s p l) = true
      ∧ (pair s p l).phase = 1) (setPair 0 0 { state := .train, phase := 1 } up) 0 0)
    ∧ ((fun (s : State) (p : Plane) (l : Lane) (f : TrainFrame) =>
      training (pair s p l) = true
      ∧ (pair s p l).phase = 2
      ∧ trainGood f = true
      ∧ 2 ≤ f.phase
      ∧ trainIdOk f (me s) p (rxLane s p (pair s p l).rxLane).chan (gazOffset s p) = true) (setPair 0 0 { state := .train, phase := 2 } up) 0 0 (trainOf 2 1))
    ∧ ((fun (s : State) (p : Plane) (l : Lane) (f : TrainFrame) =>
      training (pair s p l) = true
      ∧ (pair s p l).phase = 4
      ∧ (pair s p l).fresh = true
      ∧ trainGood f = true
      ∧ 4 ≤ f.phase
      ∧ f.code ≠ 0
      ∧ f.code ≠ 3) (setPair 0 0 { state := .train, phase := 4 } up) 0 0 (trainOf 4 1))
    ∧ ((fun (s : State) (p : Plane) (l : Lane) =>
      training (pair s p l) = true
      ∧ (pair s p l).fails < 2
      ∧ (pair s p l).phaseAt + phaseBound (pair s p l) ≤ s.now) (clockAt 1000000000 (setPair 0 0 { state := .retrain, phase := 2, attempt := 2 } up)) 0 0)
    ∧ ((fun (s : State) (p : Plane) (l : Lane) =>
      ((pair s p l).state = .up ∨ (pair s p l).state = .active)) (setPair 0 0 { state := .active, codeNext := 2 } up) 0 0)
    ∧ ((fun (s : State) (p : Plane) (l : Lane) =>
      (pair s p l).rxcode = 2
      ∧ ((pair s p l).state = .up ∨ (pair s p l).state = .active)) (setPair 0 0 { state := .active, rxcode := 2 } up) 0 0)
    ∧ ((fun (c : Instr) (s : State) (p : Plane) (l : Lane) =>
      (c = .codewordLockLost p l ∨ c = .preFecBerExceeded p l)
      ∧ ((pair s p l).state = .up ∨ (pair s p l).state = .active)) (.codewordLockLost 0 0) (setPair 0 0 { state := .active } up) 0 0)
    ∧ ((fun (c : Instr) (s : State) (p : Plane) (l : Lane) =>
      (c = .codewordLockLost p l ∨ c = .preFecBerExceeded p l)
      ∧ ((pair s p l).state = .up ∨ (pair s p l).state = .active)) (.preFecBerExceeded 0 0) (setPair 0 0 { state := .active } up) 0 0)
    ∧ ((fun (s : State) (p : Plane) (l : Lane) (f : Flit) =>
      receiving (pair s p l) = true
      ∧ (pair s p l).beaconDue = false
      ∧ (pair s p l).laneDue = false
      ∧ (pair s p l).replay = []
      ∧ mayIssue s p l = true
      ∧ nextFlit (pair s p l) = some f
      ∧ s.link.xfers = []
      ∧ (pair s p l).wait = []) (setPair 0 0 { state := .active, queue := [⟨0, 5, false, .ctrl 0x200 0 0 true []⟩], peerCr := (9, 9, 9), cred := (224, 224, 32) } up) 0 0 (⟨0, 5, false, .ctrl 0x200 0 0 true []⟩))
    ∧ ((fun (s : State) (p : Plane) (l : Lane) =>
      receiving (pair s p l) = true
      ∧ (pair s p l).beaconDue = false
      ∧ (pair s p l).laneDue = true) (setPair 0 0 { state := .active, laneDue := true } up) 0 0)
    ∧ ((fun (s : State) (p : Plane) (l : Lane) =>
      receiving (pair s p l) = true) (setPair 0 0 { state := .active } up) 0 0)
    ∧ ((fun (s : State) (p : Nat) (l : Nat) (xs : List (Nat × Nat)) =>
      ((allPairs s).filter fun x => (pair s x.1 x.2).state = .active) = (p, l) :: xs) (setPair 0 0 { state := .active } up) 0 0 ([]))
    ∧ ((fun (s : State) (p : Plane) (l : Lane) =>
      (pair s p l).unacked ≠ []
      ∧ (pair s p l).sameReplays < 7
      ∧ (pair s p l).timeouts < 3
      ∧ (pair s p l).ackAt + 10000 ≤ s.now) (clockAt 10000 (setPair 0 0 { state := .active, unacked := [⟨0, 5, false, .ctrl 0x200 0 0 true []⟩], sameReplays := 6, timeouts := 2 } up)) 0 0)
    ∧ ((fun (s : State) (h : FlitHdr) (type : Fin 16) (payload : List Byte) =>
      receiving (pair s h.p h.l) = true
      ∧ flitBad s h type (0, 0, false) payload = false
      ∧ h.nak = false) (setPair 0 0 { state := .active } up) (hdrOf 0 (0, 0, false) []) 0 ([]))
    ∧ ((fun (s : State) (h : FlitHdr) (rep : LaneReport) =>
      receiving (pair s h.p h.l) = true
      ∧ flitBad s h 6 (0, 0, false) (lanePayload rep) = false
      ∧ h.nak = false
      ∧ rep.retrain = false
      ∧ s.link.xfers = []) (setPair 0 0 { state := .up } up) (hdrOf 6 (0, 0, false) (lanePayload ⟨1, 2, 3, 4, false, false⟩)) (⟨1, 2, 3, 4, false, false⟩))
    ∧ ((fun (s : State) (p : Plane) (l : Lane) =>
      (pair s p l).notices ≠ []) (setPair 0 0 { state := .active, notices := [⟨1, 0, 0, 0, 5, 16⟩] } up) 0 0) := by
  refine ⟨?_,
    ?_,
    ?_,
    ?_,
    ?_,
    ?_,
    ⟨(Or.inl rfl), by decide +kernel⟩,
    ⟨(Or.inr rfl), by decide +kernel⟩,
    ?_,
    ?_,
    ?_,
    ?_,
    ?_,
    ?_,
    ?_,
    ?_⟩ <;> and_intros <;> decide +kernel

theorem witness_LinkSegmentsComplete :
    ((fun (s : State) (h : FlitHdr) (d : SegDesc) (a : Nat) =>
      d.kind.toNat = 0
      ∧ InOrder s h (.seg 0 d)
      ∧ verdict s h.p h.l d true = .pass a) ({ setCtx 0 { created := true, map := [some 0] } (setPair 0 0 { state := .active, peer := 1 } up) with steer := { up.steer with bind := [(1, 0x80000000)] } }) (hdrFor (.seg 0 ⟨0, 0, 0, 0, 0, 1, 0, 16, 5, 0, false, 0, false, 0, 0, 0⟩)) (⟨0, 0, 0, 0, 0, 1, 0, 16, 5, 0, false, 0, false, 0, 0, 0⟩) 0)
    ∧ ((fun (s : State) (h : FlitHdr) (d : SegDesc) (a : Nat) (g : Nat) =>
      InOrder s h (.seg 2 d)
      ∧ verdict s h.p h.l d true = .pass a
      ∧ d.token = true
      ∧ tokenCore s d = some g
      ∧ bit (queue s g d.tq).cfg 31 = true
      ∧ bit (queue s g d.tq).cfg 8 = true
      ∧ (queue s g d.tq).toks.length < 64) ({ setCore 0 { state := .assigned, queues := [(3, { cfg := 0x80000100 })] } (setCtx 0 { created := true, map := [some 0] } (setPair 0 0 { state := .active, peer := 1 } up)) with steer := { up.steer with bind := [(1, 0x80000000)] } }) (hdrFor (.seg 2 ⟨0, 0, 0, 0, 0, 1, 0, 16, 5, 0, false, 0, true, 0, 3, 7⟩)) (⟨0, 0, 0, 0, 0, 1, 0, 16, 5, 0, false, 0, true, 0, 3, 7⟩) 0 0)
    ∧ ((fun (s : State) (h : FlitHdr) (d : SegDesc) (o : SegOut) =>
      InOrder s h (.seg 1 d)
      ∧ outOf s h.p h.l d.tag.toNat = some o
      ∧ o.kind = 3
      ∧ genIsNow s o.d.sctx d.sgen = true
      ∧ o.piece.fwd = none) ({ setCtx 0 { created := true, map := [some 0] } (setPair 0 0 { state := .active, peer := 1 } up) with link := { outs := [⟨1, 5, 0, 0, 3, 0, ⟨1, true, 0, 16, 0, none, none, none⟩, ⟨0, 0, 0, 0, 0, 1, 0, 16, 5, 0, false, 0, false, 0, 0, 0⟩, 1, false, none, 20⟩] } }) (hdrFor (.seg 1 ⟨0, 0, 0, 0, 0, 1, 0, 16, 5, 0, false, 0, false, 0, 0, 0⟩)) (⟨0, 0, 0, 0, 0, 1, 0, 16, 5, 0, false, 0, false, 0, 0, 0⟩) (⟨1, 5, 0, 0, 3, 0, ⟨1, true, 0, 16, 0, none, none, none⟩, ⟨0, 0, 0, 0, 0, 1, 0, 16, 5, 0, false, 0, false, 0, 0, 0⟩, 1, false, none, 20⟩))
    ∧ ((fun (s : State) (h : FlitHdr) (tag : BitVec 12) (ix : Byte) (bytes : List Byte) (g : OpenSeg) (a : Nat) =>
      Inv s
      ∧ InOrder s h (.data tag.toNat ix.toNat true bytes)
      ∧ (pair s h.p h.l).segs.find? (fun g => g.d.tag.toNat = tag.toNat ∧ g.tc = hdrTc h) = some g
      ∧ g.kind = 0
      ∧ g.place = some a
      ∧ 240 * ix.toNat + bytes.length ≤ g.d.length) (setPair 0 0 { state := .active, peer := 1, segs := [⟨0, 0, ⟨0, 0, 0, 0, 0, 1, 0, 16, 5, 0, false, 0, false, 0, 0, 0⟩, some 0, 0, []⟩] } up) (hdrFor (.data 5 0 true (List.replicate 16 3))) 5 0 (List.replicate 16 3) (⟨0, 0, ⟨0, 0, 0, 0, 0, 1, 0, 16, 5, 0, false, 0, false, 0, 0, 0⟩, some 0, 0, []⟩) 0)
    ∧ ((fun (s : State) (h : FlitHdr) (d : SegDesc) (a : Nat) =>
      InOrder s h (.rdreq d)
      ∧ verdict s h.p h.l d false = .pass a
      ∧ respSpace (pair s h.p h.l) = true
      ∧ s.ddr.zeroing = []
      ∧ (∀ n, (chan s n).dead = false)
      ∧ badByte s a d.length = none) ({ setCtx 0 { created := true, map := [some 0] } (setPair 0 0 { state := .active, peer := 1 } up) with steer := { up.steer with bind := [(1, 0x80000000)] } }) (hdrFor (.rdreq ⟨0, 0, 0, 0, 0, 1, 0, 16, 5, 0, false, 0, false, 0, 0, 0⟩)) (⟨0, 0, 0, 0, 0, 1, 0, 16, 5, 0, false, 0, false, 0, 0, 0⟩) 0)
    ∧ ((fun (s : State) (h : FlitHdr) (e : NoticeEntry) (o : SegOut) (x : Xfer) =>
      InOrder s h (.notice [e])
      ∧ outOf s h.p h.l e.tag.toNat = some o
      ∧ genIsNow s e.sctx e.sgen = true
      ∧ e.kind = 1
      ∧ o.kind = 0
      ∧ xfer s o.xfer = some x
      ∧ x.todo = []
      ∧ x.token = none) ({ setCtx 0 { created := true, map := [some 0] } (setPair 0 0 { state := .active, peer := 1 } up) with link := { outs := [⟨1, 5, 0, 0, 0, 0, ⟨1, false, 0, 16, 0, none, none, none⟩, ⟨0, 0, 0, 0, 0, 1, 0, 16, 5, 0, false, 0, false, 0, 0, 0⟩, 1, false, none, 20⟩], xfers := [(1, ⟨none, 0, 0, [], false, 1, none, none, 0⟩)] } }) (hdrFor (.notice [⟨1, 0, 0, 0, 5, 16⟩])) (⟨1, 0, 0, 0, 5, 16⟩) (⟨1, 5, 0, 0, 0, 0, ⟨1, false, 0, 16, 0, none, none, none⟩, ⟨0, 0, 0, 0, 0, 1, 0, 16, 5, 0, false, 0, false, 0, 0, 0⟩, 1, false, none, 20⟩) (⟨none, 0, 0, [], false, 1, none, none, 0⟩))
    ∧ ((fun (s : State) (h : FlitHdr) (kind : Half16) (msgid : Half16) (bytes : List Byte) =>
      InOrder s h (.ctrl kind.toNat msgid.toNat 0 false bytes)) (setCtx 0 { created := true, map := [some 0] } (setPair 0 0 { state := .active, peer := 1 } up)) (hdrFor (.ctrl 0x200 4 0 false [1, 2])) 0x200 4 ([1, 2]))
    ∧ ((fun (s : State) (m : Modu) (tag : BitVec 12) (o : SegOut) (at_ : Nat) =>
      s.link.outs.find? (fun o => o.peer = m.val ∧ o.tag = tag.toNat) = some o
      ∧ o.since = some at_
      ∧ at_ + o.limit * 1000000 ≤ s.now) (clockAt 20000000 ({ up with link := { outs := [⟨1, 5, 0, 0, 0, 0, ⟨1, false, 0, 16, 0, none, none, none⟩, ⟨0, 0, 0, 0, 0, 1, 0, 16, 5, 0, false, 0, false, 0, 0, 0⟩, 1, false, some 0, 20⟩], xfers := [(1, ⟨none, 0, 0, [], false, 1, none, none, 0⟩)] } })) 1 5 (⟨1, 5, 0, 0, 0, 0, ⟨1, false, 0, 16, 0, none, none, none⟩, ⟨0, 0, 0, 0, 0, 1, 0, 16, 5, 0, false, 0, false, 0, 0, 0⟩, 1, false, some 0, 20⟩) 0) := by
  refine ⟨⟨by decide +kernel, by unfold InOrder; decide +kernel, is_pass _ _ (by decide +kernel)⟩,
    by refine ⟨by unfold InOrder; decide +kernel, is_pass _ _ (by decide +kernel), ?_, ?_, ?_, ?_, ?_⟩ <;> decide +kernel,
    by refine ⟨by unfold InOrder; decide +kernel, ?_, ?_, ?_, ?_⟩ <;> decide +kernel,
    by refine ⟨by unfold Machine.Inv; decide +kernel, by unfold InOrder; decide +kernel, ?_, ?_, ?_, ?_⟩ <;> decide +kernel,
    by refine ⟨by unfold InOrder; decide +kernel, is_pass _ _ (by decide +kernel), ?_, ?_, by intros; rfl, ?_⟩ <;> decide +kernel,
    by refine ⟨by unfold InOrder; decide +kernel, ?_, ?_, ?_, ?_, ?_, ?_, ?_⟩ <;> decide +kernel,
    by unfold InOrder; decide +kernel,
    ?_⟩ <;> and_intros <;> decide +kernel

theorem witness_TimeSourcesComplete :
    ((fun (s : State) (m : Int) =>
      (s.time.state = .acquiring ∨ s.time.state = .locked)
      ∧ s.time.need ≤ s.time.samples.length
      ∧ m = (median8 s.time.samples).tdiv 4294967296) ({ up with time := { state := .locked, need := 8, samples := List.replicate 8 (4294967296 * 9999) } }) 9999)
    ∧ ((fun (s : State) (m : Int) =>
      (s.time.state = .acquiring ∨ s.time.state = .locked)
      ∧ s.time.need ≤ s.time.samples.length
      ∧ m = (median8 s.time.samples).tdiv 4294967296) ({ up with time := { state := .locked, need := 8, samples := List.replicate 8 (4294967296 * 10000) } }) 10000)
    ∧ ((fun (s : State) =>
      (s.time.state = .acquiring ∨ s.time.state = .locked)
      ∧ beaconFresh s = false) ({ up with time := { state := .locked } }))
    ∧ ((fun (s : State) =>
      s.time.holdoff = true
      ∧ s.time.lostAt + 4000000 ≤ s.now) (clockAt 4000000 ({ up with time := { holdoff := true } })))
    ∧ ((fun (s : State) (at_ : Nat) =>
      s.time.state = .acquiring
      ∧ s.time.closeAt = some at_
      ∧ at_ + 1000000000 ≤ s.now) (clockAt 1000000000 ({ up with time := { state := .acquiring, closeAt := some 0 } })) 0)
    ∧ ((fun (s : State) (p : PtpPort) =>
      bit s.time.ptpCfg p = true) up 0)
    ∧ ((fun (s : State) (p : PtpPort) =>
      bit s.time.ptpCfg p = true
      ∧ (ptpPort s p).waiting = true) ({ up with time := { ports := [(0, { waiting := true })] } }) 0)
    ∧ ((fun (s : State) (p : PtpPort) =>
      bit s.time.ptpCfg p = true) up 0)
    ∧ ((fun (s : State) (p : PtpPort) =>
      bit s.time.ptpCfg p = true) up 0)
    ∧ ((fun (s : State) (p : PtpPort) =>
      bit s.time.ptpCfg p = true) ({ up with time := { ports := [(0, { syncArr := 10, syncOrigin := 4, reqAt := 20 })] } }) 0)
    ∧ ((fun (s : State) (p : PtpPort) =>
      bit s.time.ptpCfg p = true) up 0)
    ∧ ((fun (s : State) (p : PtpPort) =>
      bit s.time.ptpCfg p = true) up 0)
    ∧ ((fun (s : State) (p : PtpPort) =>
      bit s.time.ptpCfg p = true) up 0)
    ∧ ((fun (s : State) (x : Nat) =>
      (∀ l, s.time.ppsLast = some l → l + 500000000 ≤ x)) ({ up with time := { ppsLast := some 0 } }) 500000000)
    ∧ ((fun (s : State) (l : Nat) (x : Nat) =>
      s.time.ppsLast = some l
      ∧ x < l + 500000000) ({ up with time := { ppsLast := some 0 } }) 0 499999999)
    ∧ ((fun (s : State) (l : Nat) =>
      s.time.ppsLast = some l
      ∧ s.time.ppsAt + 3000000000 ≤ s.now) ({ up with now := 3000000000, time := { ppsLast := some 5 } }) 5)
    ∧ ((fun (s : State) (h : FlitHdr) (b : BeaconMsg) =>
      receiving (pair s h.p h.l) = true
      ∧ flitBad s h 7 (0, 0, false) (beaconPayload b.sendT b.echoArr b.echoSend b.quality.toNat b.code.toNat) = false
      ∧ h.nak = false
      ∧ (pair s h.p h.l).state = .active) (setPair 0 0 { state := .active } up) (hdrOf 7 (0, 0, false) (beaconPayload 1 2 3 4 0)) (⟨1, 2, 3, 4, 0, 5⟩)) := by
  refine ⟨?_,
    ?_,
    ?_,
    ?_,
    ?_,
    ?_,
    ?_,
    ?_,
    ?_,
    ?_,
    ?_,
    ?_,
    ?_,
    by intro l h; cases h; decide,
    ?_,
    ?_,
    ?_⟩ <;> and_intros <;> decide +kernel

theorem witness_TimeOutputsComplete :
    ((fun (s : State) =>
      s.time.state = .manual) ({ up with time := { state := .manual } }))
    ∧ ((fun (s : State) =>
      s.time.state ≠ .manual) up)
    ∧ ((fun (s : State) =>
      s.time.state = .manual) ({ up with time := { state := .manual } }))
    ∧ ((fun (s : State) (a : Fin 8) =>
      (alarm s a).armed = true
      ∧ 0 ≤ since48 s.time.ns (alarm s a).target) ({ up with time := { alarms := [(7, { armed := true })] } }) 7)
    ∧ ((fun (s : State) (n : Fin 4) =>
      (tod s n).enable = false
      ∧ (tod s n).high = false) up 3)
    ∧ ((fun (s : State) (n : Fin 4) =>
      (tod s n).enable = true
      ∧ (tod s n).high = false
      ∧ 0 ≤ since48 s.time.ns (BitVec.ofNat 64 (tod s n).nextAt)) ({ up with time := { tods := [(3, { enable := true })] } }) 3)
    ∧ ((fun (s : State) (n : Fin 4) =>
      (tod s n).enable = true
      ∧ (tod s n).high = true
      ∧ 0 ≤ since48 s.time.ns (BitVec.ofNat 64 (tod s n).endAt)) ({ up with time := { tods := [(3, { enable := true, high := true })] } }) 3) := by
  and_intros <;> decide +kernel

theorem witness_SteeringComplete :
    ((fun (s : State) (v : SurveyRun) =>
      s.steer.survey = some v
      ∧ v.sweeps < 7) ({ up with steer := { state := .surveying, survey := some ⟨[0], 6, [], [], none⟩ } }) (⟨[0], 6, [], [], none⟩))
    ∧ ((fun (s : State) (v : SurveyRun) =>
      s.steer.survey = some v
      ∧ v.sweeps = 7) ({ up with steer := { state := .surveying, survey := some ⟨[0], 7, [], [], none⟩ } }) (⟨[0], 7, [], [], none⟩))
    ∧ ((fun (s : State) (h : Hdr) (mask : Half16) (ps : List Nat) =>
      Fresh s h 0x105 false
      ∧ s.steer.state ≠ .staged
      ∧ s.steer.state ≠ .applying
      ∧ s.steer.state ≠ .surveying
      ∧ ps = ((planesOf mask.toNat).filter fun p => p < planeCount s ∧ planeBusy s p = false)
      ∧ ps ≠ []) ({ up with steer := { state := .steady } }) (⟨1, 7, 0, 1, false, false⟩) 1 ([0]))
    ∧ ((fun (s : State) (r : RingIx) (e : Entry) =>
      takeEntry s r 3 1 = some e
      ∧ (∀ p ∈ planesOf (ent e 8 2), p < planeCount s ∧ planeBusy s p = false)
      ∧ s.steer.state ≠ .staged
      ∧ s.steer.state ≠ .applying
      ∧ s.steer.state ≠ .surveying) ({ withRing (ringOf 3 [numEntry (1 + 2 ^ 64)]) with steer := { state := .steady, gaz := [(0, { state := 2, loopch := 4 })] } }) 0 (numEntry (1 + 2 ^ 64)))
    ∧ ((fun (s : State) (h : Hdr) (n : Nat) =>
      Fresh s h 0x101 true
      ∧ s.steer.parts = none
      ∧ s.steer.latestPart = none
      ∧ 2 ≤ n) up (⟨1, 7, 0, 1, false, false⟩) 2)
    ∧ ((fun (s : State) (h : Hdr) (crc : Word) (bs : List Byte) =>
      Fresh s h 0x101 true
      ∧ s.steer.parts = none
      ∧ s.steer.latestPart = none
      ∧ chCrc bs = crc.toNat
      ∧ checkChart s bs = 0) ({ up with steer := { state := .steady } }) (⟨1, 7, 0, 1, false, false⟩) (BitVec.ofNat 32 (chCrc (mkChart 1 0 0 0 3 0 0 [] []))) (mkChart 1 0 0 0 3 0 0 [] []))
    ∧ ((fun (s : State) =>
      s.steer.state = .staged
      ∧ chCommit s.steer.staged ≤ s.time.ns.toNat
      ∧ (∀ p l, (pair s p l).wait = [])) ({ up with steer := { state := .staged, staged := mkChart 1 0 0 0 1 0 0 [] [] } }))
    ∧ ((fun (s : State) =>
      s.steer.state = .applying
      ∧ handHolds s = false
      ∧ switchOver s = true
      ∧ s.steer.staged = []) ({ up with steer := { state := .applying } }))
    ∧ ((fun (s : State) (r : RingIx) (e : Entry) (p : Nat) (l : Nat) (x : Nat) =>
      takeEntry s r 3 5 = some e
      ∧ p = ent e 8 1
      ∧ p < planeCount s
      ∧ p < 16
      ∧ 100 ≤ ent e 12 4
      ∧ ent e 12 4 ≤ 1000000
      ∧ (∀ y ∈ s.steer.loops, y.plane ≠ p)
      ∧ darkLane s p false = some l
      ∧ darkLane s p true = some x
      ∧ (gaz s p).state = 2
      ∧ (fab s p).txRetired = false) ({ withRing (ringOf 3 [numEntry (5 + 1000000 * 2 ^ 96)]) with steer := { state := .steady, gaz := [(0, { state := 2, loopch := 4 })] } }) 0 (numEntry (5 + 1000000 * 2 ^ 96)) 0 0 0)
    ∧ ((fun (s : State) (p : Plane) (x : LoopRun) (e : Entry) =>
      s.steer.loops.find? (fun x => x.plane = p.val) = some x
      ∧ findEntry s x.ring 5 x.tag = some e
      ∧ bits (entFlags e) 0 1 = 0
      ∧ canDma s = true
      ∧ Inv s
      ∧ s.link.outs = []
      ∧ x.till ≤ s.now) ({ withRing (ringOf 3 [{ numEntry (5 + 7 * 2 ^ 16) with started := true }]) with steer := { loops := [⟨0, 0, 0, 0, 7, 0⟩] } }) 0 (⟨0, 0, 0, 0, 7, 0⟩) ({ numEntry (5 + 7 * 2 ^ 16) with started := true })) := by
  refine ⟨?_,
    ?_,
    by refine ⟨by unfold Fresh; decide +kernel, ?_, ?_, ?_, by rfl, ?_⟩ <;> decide +kernel,
    ?_,
    by refine ⟨by unfold Fresh; decide +kernel, ?_, ?_, ?_⟩ <;> decide +kernel,
    by refine ⟨by unfold Fresh; decide +kernel, ?_, ?_, ?_, ?_⟩ <;> decide +kernel,
    ⟨by decide +kernel, by decide +kernel, by intros; rfl⟩,
    ?_,
    ?_,
    by refine ⟨?_, ?_, ?_, ?_, by unfold Machine.Inv; decide +kernel, ?_, ?_⟩ <;> decide +kernel⟩ <;> and_intros <;> decide +kernel

theorem witness_ChartIssueComplete :
    ((fun (s : State) (m : Modu) (i : Issued) (is : List Issued) (p : Nat) (l : Nat) (b : List Nat) =>
      s.steer.issued = i :: is
      ∧ isSteward s = true
      ∧ chMember i.chart m = true
      ∧ i.staged.contains m.val = false
      ∧ pickPair s m = some (p, l)
      ∧ chartBodies i.chart = [b]
      ∧ (∀ u ∈ s.stew.unacked, u.dst = m.val → u.kind = 0x101 → u.body ≠ b)) (setPair 0 0 { state := .active, peer := 1 } ({ up with steer := { issued := [⟨mkChart 1 0 0 0 2 0 0 [] [], [], [], [], [], [], none⟩] }, stew := { cfg := some pod, role := 5, authHolder := some 0 } })) 1 (⟨mkChart 1 0 0 0 2 0 0 [] [], [], [], [], [], [], none⟩) ([]) 0 0 ((chartBodies (mkChart 1 0 0 0 2 0 0 [] [])).headD []))
    ∧ ((fun (s : State) (h : Hdr) =>
      Fresh s h 0x102 false
      ∧ isSteward s = true) ({ up with steer := {  }, stew := { cfg := some pod, role := 5, authHolder := some 0 } }) (⟨1, 7, 0, 1, false, false⟩))
    ∧ ((fun (s : State) (h : Hdr) (m : Modu) =>
      Fresh s h 0x103 false
      ∧ isSteward s = true
      ∧ (Tbl.get [] s.steer.trainFail3 m).length < 3
      ∧ s.stew.jobs = []
      ∧ (∀ i ∈ s.steer.issued, i.submit = none)) ({ up with steer := { issued := [⟨mkChart 1 0 0 0 2 0 0 [] [], [], [], [], [], [], none⟩] }, stew := { cfg := some pod, role := 5, authHolder := some 0 } }) (⟨1, 7, 0, 1, false, false⟩) 1)
    ∧ ((fun (s : State) (h : Hdr) (m : Modu) (addr : BitVec 128) =>
      Fresh s h 0x104 false
      ∧ s.boot.state ≠ .survey
      ∧ (isSteward s && sharedSlot s m addr) = false) up (⟨1, 7, 0, 1, false, false⟩) 1 6)
    ∧ ((fun (s : State) (h : Hdr) (m : Modu) (addr : BitVec 128) =>
      Fresh s h 0x104 false
      ∧ isSteward s = true
      ∧ sharedSlot s m addr = true
      ∧ s.log.queue.length < 256) ({ up with steer := { reporter := [(1, 5)] }, stew := { cfg := some pod, role := 5, authHolder := some 0 } }) (⟨3, 7, 0, 1, false, false⟩) 1 6)
    ∧ ((fun (c : Instr) (s : State) (m : Modu) (i : Issued) =>
      (c = .lateModule m ∧ chCommit i.chart + 5000000 ≤ s.time.ns.toNat ∧ Tbl.get 0 i.retries m = 0 ∨ (c = .retryWaitExpiry m ∧ 0 < Tbl.get 0 i.retries m ∧ Tbl.get 0 i.retryAt m + 5000000 ≤ s.now))
      ∧ lateIn s m = some i
      ∧ Tbl.get 0 i.retries m < fld s.steer.cfg 8 2
      ∧ ownEdition s i = true) (.lateModule 1) ({ up with steer := { issued := [⟨mkChart 1 0 0 0 2 0 0 [] [], [], [], [], [], [], none⟩] }, stew := { cfg := some pod, role := 5, authHolder := some 0 } , time := { ns := 5000000 } }) 1 (⟨mkChart 1 0 0 0 2 0 0 [] [], [], [], [], [], [], none⟩))
    ∧ ((fun (c : Instr) (s : State) (m : Modu) (i : Issued) =>
      (c = .lateModule m ∧ chCommit i.chart + 5000000 ≤ s.time.ns.toNat ∧ Tbl.get 0 i.retries m = 0 ∨ (c = .retryWaitExpiry m ∧ 0 < Tbl.get 0 i.retries m ∧ Tbl.get 0 i.retryAt m + 5000000 ≤ s.now))
      ∧ lateIn s m = some i
      ∧ Tbl.get 0 i.retries m < fld s.steer.cfg 8 2
      ∧ ownEdition s i = true) (.retryWaitExpiry 1) (clockAt 5000000 ({ up with steer := { cfg := 0x21E, issued := [⟨mkChart 1 0 0 0 2 0 0 [] [], [], [], [], [(1, 1)], [], none⟩] }, stew := { cfg := some pod, role := 5, authHolder := some 0 } })) 1 (⟨mkChart 1 0 0 0 2 0 0 [] [], [], [], [], [(1, 1)], [], none⟩))
    ∧ ((fun (s : State) (r : RingIx) (e : Entry) (a : Nat) (c : List Byte) (bs : List Byte) =>
      Waits s r 3 2 e
      ∧ (ent e 8 1 = 0 ∧ c = s.steer.chart ∨ ent e 8 1 = 1 ∧ c = s.steer.staged)
      ∧ c ≠ []
      ∧ bs = c ++ (if isSteward s then lanesPlaced s c else [])
      ∧ bs.length ≤ ent e 24 4
      ∧ ent e 16 8 + bs.length ≤ 0x10000000000000000
      ∧ checkAt s (whoEntry s r e none) (ent e 16 8) bs.length true = .ok (.here a)
      ∧ a + bs.length ≤ 0x10000000000000000) ({ withRing (ringOf 3 [numEntry (2 + 64 * 2 ^ 192)]) with steer := { chart := mkChart 1 0 0 0 1 0 0 [] [] } }) 0 (numEntry (2 + 64 * 2 ^ 192)) 0 (mkChart 1 0 0 0 1 0 0 [] []) (mkChart 1 0 0 0 1 0 0 [] []))
    ∧ ((fun (s : State) (s' : State) (r : RingIx) (e : Entry) (bs : List Byte) =>
      takeEntry s r 3 3 = some e
      ∧ isSteward s = false
      ∧ ent e 8 1 ≤ 3
      ∧ canDma s = true
      ∧ s' = tableRead r e (ent e 16 8) 32 s
      ∧ readTable s' r e (ent e 16 8) 32 = .ok bs
      ∧ (∀ b ∈ bs, b.toNat ≤ 16)) (withRing (ringOf 3 [numEntry 3])) (tableRead 0 (numEntry 3) 0 32 (withRing (ringOf 3 [numEntry 3]))) 0 (numEntry 3) (List.replicate 32 0))
    ∧ ((fun (s : State) =>
      isSteward s = true) ({ up with steer := {  }, stew := { cfg := some pod, role := 5, authHolder := some 0 } }))
    ∧ ((fun (s : State) (r : RingIx) (d : Nat × Nat × Nat × Nat × Nat) (e : Entry) =>
      s.steer.demandFor.find? (fun d => d.2.1 = r.val) = some d
      ∧ d.2.2.2.2 + 100000000 ≤ s.now
      ∧ isSteward s = false
      ∧ findEntry s r 3 d.2.2.1 = some e
      ∧ bits (entFlags e) 0 1 = 0
      ∧ canDma s = true
      ∧ Inv s) (clockAt 100000000 ({ withRing (ringOf 3 [{ numEntry 3 with started := true }]) with steer := { demandFor := [(0, 0, 0, 0, 0)] } })) 0 ((0, 0, 0, 0, 0)) ({ numEntry 3 with started := true }))
    ∧ ((fun (s : State) (s1 : State) (s2 : State) (r : RingIx) (e : Entry) (h : List Byte) (c : List Byte) (new : List Byte) =>
      takeEntry s r 3 4 = some e
      ∧ isSteward s = true
      ∧ canDma s = true
      ∧ s1 = tableRead r e (ent e 16 8) 64 s
      ∧ readTable s1 r e (ent e 16 8) 64 = .ok h
      ∧ canDma s1 = true
      ∧ s2 = tableRead r e (ent e 16 8) (64 + 8 * chPairs h) s1
      ∧ readTable s2 r e (ent e 16 8) (64 + 8 * chPairs h) = .ok c
      ∧ isSteward s2 = true
      ∧ chReserved c = true
      ∧ getN c 0 4 = 0x54524843
      ∧ new = mkChart (nextEdition s2) (chFlags c) (s2.time.ns.toNat + leadNs s2) s2.stew.leaseEpoch (chMembers c) (chWide c) (me s2) ((List.range 16).map (chOffset c)) ((chEnts c).map (fromOf (chEnts (newest s2)) (nextEdition s2)))
      ∧ chOrder new = true
      ∧ chLimit new = true
      ∧ chFrom new = true) ({ withRing (ringOf 3 [numEntry 4]) with stew := { role := 5, authHolder := some 0 }, mem := Memory.writeN [] 0 (mkChart 1 0 0 0 3 0 0 [] []) }) (tableRead 0 (numEntry 4) (ent (numEntry 4) 16 8) 64 ({ withRing (ringOf 3 [numEntry 4]) with stew := { role := 5, authHolder := some 0 }, mem := Memory.writeN [] 0 (mkChart 1 0 0 0 3 0 0 [] []) })) (tableRead 0 (numEntry 4) (ent (numEntry 4) 16 8) (64 + 8 * chPairs (Memory.readN ({ withRing (ringOf 3 [numEntry 4]) with stew := { role := 5, authHolder := some 0 }, mem := Memory.writeN [] 0 (mkChart 1 0 0 0 3 0 0 [] []) }).mem 0 64)) (tableRead 0 (numEntry 4) (ent (numEntry 4) 16 8) 64 ({ withRing (ringOf 3 [numEntry 4]) with stew := { role := 5, authHolder := some 0 }, mem := Memory.writeN [] 0 (mkChart 1 0 0 0 3 0 0 [] []) }))) 0 (numEntry 4) (Memory.readN ({ withRing (ringOf 3 [numEntry 4]) with stew := { role := 5, authHolder := some 0 }, mem := Memory.writeN [] 0 (mkChart 1 0 0 0 3 0 0 [] []) }).mem 0 64) (mkChart 1 0 0 0 3 0 0 [] []) (mkChart 1 0 3000000 0 3 0 0 ((List.range 16).map fun _ => 255) [])) := by
  refine ⟨?_,
    ⟨by unfold Fresh; decide +kernel, by decide +kernel⟩,
    by refine ⟨by unfold Fresh; decide +kernel, ?_, ?_, ?_, ?_⟩ <;> decide +kernel,
    ⟨by unfold Fresh; decide +kernel, by decide +kernel, by decide +kernel⟩,
    by refine ⟨by unfold Fresh; decide +kernel, ?_, ?_, ?_⟩ <;> decide +kernel,
    by refine ⟨(Or.inl ⟨rfl, by decide +kernel, by decide +kernel⟩), ?_, ?_, ?_⟩ <;> decide +kernel,
    by refine ⟨(Or.inr ⟨rfl, by decide +kernel, by decide +kernel⟩), ?_, ?_, ?_⟩ <;> decide +kernel,
    by refine ⟨by unfold Waits Machine.Inv; decide +kernel, ?_, ?_, ?_, ?_, ?_, ok_here _ _ (by decide +kernel), ?_⟩ <;> decide +kernel,
    by refine ⟨?_, ?_, ?_, ?_, by rfl, ?_, ?_⟩ <;> decide +kernel,
    ?_,
    by refine ⟨?_, ?_, ?_, ?_, ?_, ?_, by unfold Machine.Inv; decide +kernel⟩ <;> decide +kernel,
    by refine ⟨?_, ?_, ?_, by rfl, ?_, ?_, by rfl, ?_, ?_, ?_, ?_, ?_, ?_, ?_, ?_⟩ <;> decide +kernel⟩ <;> and_intros <;> decide +kernel

theorem witness_LeaseComplete :
    ((fun (s : State) (h : Hdr) =>
      Fresh s h 0x201 false
      ∧ isArbiter s = true
      ∧ h.configEpoch.toNat = cfgEpoch s
      ∧ designated s h.src ≠ 0
      ∧ designated s h.src = 1 ∧ s.stew.arb.state = 1) ({ up with steer := { slot := 2, state := .steady }, stew := { cfg := some pod, authHolder := some 0, arb := { state := 1 } } }) (⟨0, 7, 0, 1, false, false⟩))
    ∧ ((fun (s : State) (h : Hdr) (b : LeaseReq) =>
      Fresh s h 0x201 false
      ∧ isArbiter s = true
      ∧ h.configEpoch.toNat = cfgEpoch s
      ∧ designated s h.src ≠ 0
      ∧ s.stew.arb.state = 2 ∧ s.stew.arb.holder = h.src ∧ b.renew = true) ({ up with steer := { slot := 2, state := .steady }, stew := { cfg := some pod, authHolder := some 0, arb := { state := 2, holder := 0 } } }) (⟨0, 7, 0, 1, false, false⟩) (⟨true, false, 1, false, 0, 0⟩))
    ∧ ((fun (s : State) (h : Hdr) =>
      Fresh s h 0x205 false
      ∧ isArbiter s = true
      ∧ s.stew.arb.state = 3
      ∧ s.stew.arb.holder = h.src) ({ up with steer := { slot := 2, state := .steady }, stew := { cfg := some pod, authHolder := some 0, arb := { state := 3, holder := 0, returning := 1 } } }) (⟨0, 7, 0, 1, false, false⟩))
    ∧ ((fun (s : State) =>
      isArbiter s = true
      ∧ s.stew.arb.expiry ≤ s.now
      ∧ s.stew.arb.state = 2
      ∧ Tbl.get 0 s.stew.arb.lastReq (partner s s.stew.arb.holder) = 0) ({ up with steer := { slot := 2, state := .steady }, stew := { cfg := some pod, authHolder := some 0, arb := { state := 2, holder := 0 } } }))
    ∧ ((fun (s : State) =>
      isArbiter s = true
      ∧ s.stew.arb.state = 0
      ∧ s.stew.arb.freeAt + 25000000 ≤ s.now) ({ up with steer := { slot := 2, state := .steady }, stew := { cfg := some pod, authHolder := some 0, arb := {} }, now := 25000000 }))
    ∧ ((fun (s : State) =>
      isSteward s = true) ({ up with steer := { slot := 0, state := .steady }, stew := { cfg := some pod, authHolder := some 0, role := 5 } }))
    ∧ ((fun (s : State) =>
      designated s (me s) ≠ 0
      ∧ hasAuthority s = true
      ∧ isSteward s = false
      ∧ inService_ s = true) ({ up with steer := { slot := 1, state := .steady }, stew := { cfg := some pod, authHolder := some 0, role := 3 } }))
    ∧ ((fun (s : State) =>
      isSteward s = true
      ∧ s.stew.until_ ≤ s.now) ({ up with steer := { slot := 0, state := .steady }, stew := { cfg := some pod, authHolder := some 0, role := 5 } }))
    ∧ ((fun (s : State) (h : Hdr) (ep : Word) =>
      Fresh s h 0x202 false
      ∧ hasAuthority s = true
      ∧ h.src = arbiter s
      ∧ designated s (me s) ≠ 0
      ∧ s.steer.epoch.toNat ≤ ep.toNat) ({ up with steer := { slot := 0, state := .steady }, stew := { cfg := some pod, authHolder := some 0, role := 1 } }) (⟨2, 7, 0, 1, false, false⟩) 4)
    ∧ ((fun (s : State) (h : Hdr) (ep : Word) =>
      Fresh s h 0x202 false
      ∧ hasAuthority s = true
      ∧ h.src = arbiter s
      ∧ designated s (me s) ≠ 0
      ∧ s.steer.epoch.toNat ≤ ep.toNat) ({ up with steer := { slot := 0, state := .steady }, stew := { cfg := some pod, authHolder := some 0, role := 5 } }) (⟨2, 7, 0, 1, false, false⟩) 4)
    ∧ ((fun (s : State) (h : Hdr) =>
      Fresh s h 0x203 false
      ∧ h.ackReq = false
      ∧ hasAuthority s = true) ({ up with steer := { slot := 0, state := .steady }, stew := { cfg := some pod, authHolder := some 0, role := 1 } }) (⟨2, 7, 0, 1, false, false⟩))
    ∧ ((fun (s : State) (h : Hdr) =>
      Fresh s h 0x204 false
      ∧ isSteward s = true) ({ up with steer := { slot := 0, state := .steady }, stew := { cfg := some pod, authHolder := some 0, role := 5 } }) (⟨2, 7, 0, 1, false, false⟩))
    ∧ ((fun (s : State) (h : Hdr) =>
      Fresh s h 0x206 true) up (⟨0, 7, 0, 1, false, false⟩))
    ∧ ((fun (s : State) =>
      s.stew.role = 3
      ∧ designated s (me s) = 1
      ∧ s.stew.mirror = 0
      ∧ s.stew.active = some (partner s (me s))
      ∧ quietPoint s = true
      ∧ hasAuthority s = true) ({ up with steer := { slot := 0, state := .steady }, stew := { cfg := some pod, authHolder := some 0, role := 3, mirror := 0, active := some 1 } }))
    ∧ ((fun (s : State) (h : Hlf) =>
      s.stew.authHolder = none
      ∧ (h = 1 → s.stew.startAt + 10000000 ≤ s.now)) up 0)
    ∧ ((fun (s : State) (h : Hlf) =>
      s.stew.authHolder = none
      ∧ (h = 1 → s.stew.startAt + 10000000 ≤ s.now)) (clockAt 10000000 (up)) 1)
    ∧ ((fun (s : State) (h : Nat) =>
      s.stew.authHolder = some h) ({ up with stew := { authHolder := some 1 } }) 1) := by
  refine ⟨by refine ⟨by unfold Fresh; decide +kernel, ?_, ?_, ?_, ?_⟩ <;> decide +kernel,
    by refine ⟨by unfold Fresh; decide +kernel, ?_, ?_, ?_, ?_⟩ <;> decide +kernel,
    by refine ⟨by unfold Fresh; decide +kernel, ?_, ?_, ?_⟩ <;> decide +kernel,
    ?_,
    ?_,
    ?_,
    ?_,
    ?_,
    by refine ⟨by unfold Fresh; decide +kernel, ?_, ?_, ?_, ?_⟩ <;> decide +kernel,
    by refine ⟨by unfold Fresh; decide +kernel, ?_, ?_, ?_, ?_⟩ <;> decide +kernel,
    ⟨by unfold Fresh; decide +kernel, by decide +kernel, by decide +kernel⟩,
    ⟨by unfold Fresh; decide +kernel, by decide +kernel⟩,
    by unfold Fresh; decide +kernel,
    ?_,
    ?_,
    ?_,
    ?_⟩ <;> and_intros <;> decide +kernel

theorem witness_MirrorComplete :
    ((fun (s : State) (r : MirrorRec) =>
      s.stew.role ≠ 5
      ∧ designated s (me s) ≠ 0
      ∧ r.seq = s.stew.applied + 1) ({ up with steer := { slot := 1, state := .steady }, stew := { cfg := some pod, authHolder := some 0, role := 2 } }) (⟨1, 2, []⟩))
    ∧ ((fun (s : State) =>
      isSteward s = true) ({ up with steer := { slot := 0, state := .steady }, stew := { cfg := some pod, authHolder := some 0, role := 5, mirror := 1, queue := [(4, .none_)] } }))
    ∧ ((fun (s : State) =>
      isSteward s = true) ({ up with steer := { slot := 0, state := .steady }, stew := { cfg := some pod, authHolder := some 0, role := 5, mirror := 1, queue := [(4, .none_)] } }))
    ∧ ((fun (s : State) =>
      isSteward s = true) ({ up with steer := { slot := 0, state := .steady }, stew := { cfg := some pod, authHolder := some 0, role := 5, queue := [(4, .none_)] } }))
    ∧ ((fun (s : State) =>
      isSteward s = false
      ∧ designated s (me s) ≠ 0
      ∧ s.stew.snapParts = []) ({ up with steer := { slot := 1, state := .steady }, stew := { cfg := some pod, authHolder := some 0, role := 2 } }))
    ∧ ((fun (s : State) =>
      designated s (me s) ≠ 0
      ∧ s.stew.twinUp = true) ({ up with steer := { slot := 1, state := .steady }, stew := { cfg := some pod, authHolder := some 0, role := 3, twinUp := true, mirror := 0 } }))
    ∧ ((fun (s : State) =>
      designated s (me s) ≠ 0
      ∧ s.stew.twinUp = false) ({ up with steer := { slot := 1, state := .steady }, stew := { cfg := some pod, authHolder := some 0, role := 4 } }))
    ∧ ((fun (s : State) =>
      designated s (me s) ≠ 0
      ∧ s.stew.twinUp = false) ({ up with steer := { slot := 0, state := .steady }, stew := { cfg := some pod, authHolder := some 0, role := 5, mirror := 2 } }))
    ∧ ((fun (s : State) (h : Hdr) =>
      Fresh s h 0x212 false
      ∧ isSteward s = true
      ∧ s.stew.rebuilding = true) ({ up with steer := { slot := 0, state := .steady }, stew := { cfg := some pod, authHolder := some 0, role := 5, rebuilding := true } }) (⟨3, 7, 0, 1, false, false⟩))
    ∧ ((fun (s : State) (h : Hdr) =>
      Fresh s h 0x211 (s.stew.active == some h.src)
      ∧ h.ackReq = false
      ∧ cfgEpoch s ≤ h.configEpoch.toNat
      ∧ hasAuthority s = true
      ∧ h.epoch.toNat ≤ s.steer.epoch.toNat) ({ up with steer := { slot := 1, state := .steady }, stew := { cfg := some pod, authHolder := some 0, role := 3, active := some 0 } }) (⟨0, 7, 0, 1, false, false⟩))
    ∧ ((fun (s : State) =>
      isSteward s = true
      ∧ s.stew.rebuilding = true
      ∧ s.stew.statuses = []
      ∧ s.steer.chart ≠ []) ({ up with steer := { chart := mkChart 1 0 0 0 1 0 0 [] [] }, stew := { cfg := some pod, authHolder := some 0, role := 5, rebuilding := true } }))
    ∧ ((fun (s : State) (h : Hdr) (c : PodCfg) =>
      Fresh s h 0x213 false
      ∧ cfgOk c = true
      ∧ (∀ x, s.stew.cfg = some x → x.epoch.toNat < c.epoch.toNat)) up (⟨33, 7, 0, 1, false, false⟩) (⟨2, 0, 1, 2, 15, 0, 0, []⟩)) := by
  refine ⟨?_,
    ?_,
    ?_,
    ?_,
    ?_,
    ?_,
    ?_,
    ?_,
    ⟨by unfold Fresh; decide +kernel, by decide +kernel, by decide +kernel⟩,
    by refine ⟨by unfold Fresh; decide +kernel, ?_, ?_, ?_, ?_⟩ <;> decide +kernel,
    ?_,
    ⟨by unfold Fresh; decide +kernel, by decide +kernel, by intro x h; cases h⟩⟩ <;> and_intros <;> decide +kernel

theorem witness_ContinuityComplete :
    ((fun (s : State) (m : Nat) =>
      s.stew.cfg.isSome = true
      ∧ s.stew.active = some m
      ∧ 3 ≤ bootCode s.boot.state
      ∧ hasAuthority s = true) ({ up with steer := { slot := 3, state := .steady }, stew := { cfg := some pod, authHolder := some 0, active := some 0 } }) 0)
    ∧ ((fun (s : State) (h : Hdr) (b : HeartbeatBody) =>
      Fresh s h 0x207 false
      ∧ isSteward s = true
      ∧ s.stew.jobs = []
      ∧ b.taps = []
      ∧ b.state ≠ 6) ({ up with steer := { slot := 0, state := .steady }, stew := { cfg := some pod, authHolder := some 0, role := 5, members := [(3, { probing := true })] } }) (⟨3, 7, 0, 1, false, false⟩) (⟨4, 0, 0, 5, [1, 2, 3, 4], []⟩))
    ∧ ((fun (s : State) (h : Hdr) =>
      Fresh s h 0x208 true) up (⟨0, 7, 0, 1, false, false⟩))
    ∧ ((fun (s : State) =>
      s.stew.cfg.isSome = true
      ∧ s.stew.hold = false
      ∧ isSteward s = false
      ∧ s.stew.lastAck + 10000000 ≤ s.now) ({ up with steer := { slot := 3, state := .steady }, stew := { cfg := some pod, authHolder := some 0, role := 0 }, now := 10000000 }))
    ∧ ((fun (s : State) (m : Modu) =>
      isSteward s = true
      ∧ (cfgMembers s).contains m.val = true
      ∧ m.val ≠ me s
      ∧ (member s m).state ≠ 5
      ∧ (member s m).probing = false
      ∧ (member s m).heardAt + 10000000 ≤ s.now) ({ up with steer := { slot := 0, state := .steady }, stew := { cfg := some pod, authHolder := some 0, role := 5 }, now := 10000000 }) 3)
    ∧ ((fun (s : State) (m : Modu) =>
      isSteward s = true
      ∧ (member s m).probing = true
      ∧ (member s m).state ≠ 5
      ∧ s.stew.jobs = []
      ∧ (member s m).probeAt + 2000000 ≤ s.now) (clockAt 2000000 ({ up with steer := { slot := 0, state := .steady }, stew := { cfg := some pod, authHolder := some 0, role := 5, members := [(3, { probing := true })] } })) 3)
    ∧ ((fun (s : State) (h : Hdr) =>
      Fresh s h 0x214 false
      ∧ hasAuthority s = true) ({ up with steer := { slot := 3, state := .steady }, stew := { cfg := some pod, authHolder := some 0, role := 0 } }) (⟨0, 7, 0, 1, false, false⟩))
    ∧ ((fun (s : State) (h : Hdr) (of : Half16) (u : CtlMsg) =>
      Fresh s h 0x200 false
      ∧ s.stew.unacked.find? (fun u => u.msgid = of.toNat ∧ u.dst = h.src) = some u
      ∧ u.kind ≠ 0x214) ({ up with steer := { slot := 0, state := .steady }, stew := { cfg := some pod, authHolder := some 0, role := 5, unacked := [⟨1, 0x201, 0, [], 2, 0⟩] } }) (⟨1, 7, 0, 1, false, false⟩) 0 (⟨1, 0x201, 0, [], 2, 0⟩))
    ∧ ((fun (s : State) (h : Hdr) (of : Half16) (u : CtlMsg) =>
      Fresh s h 0x200 false
      ∧ s.stew.unacked.find? (fun u => u.msgid = of.toNat ∧ u.dst = h.src) = some u
      ∧ u.kind = 0x214 ∧ (member s h.src).probing = true ∧ isSteward s = true ∧ s.stew.jobs = []) ({ up with steer := { slot := 0, state := .steady }, stew := { cfg := some pod, authHolder := some 0, role := 5, members := [(3, { probing := true })], unacked := [⟨3, 0x214, 0, [], 3, 0⟩] } }) (⟨3, 7, 0, 1, false, false⟩) 0 (⟨3, 0x214, 0, [], 3, 0⟩))
    ∧ ((fun (s : State) (of : Half16) (u : CtlMsg) =>
      s.stew.unacked.find? (fun u => u.msgid = of.toNat) = some u
      ∧ u.tries < 3
      ∧ u.at_ + 1000000 ≤ s.now
      ∧ hasAuthority s = true) (clockAt 1000000 ({ up with stew := { authHolder := some 0, unacked := [⟨1, 0x201, 0, [], 2, 0⟩] } })) 0 (⟨1, 0x201, 0, [], 2, 0⟩))
    ∧ ((fun (s : State) (h : Hdr) (f : FaultRec) (p : Nat) =>
      Fresh s h 0x20C false
      ∧ isSteward s = true
      ∧ p < 16
      ∧ f.code.toNat = 0x1004 + 256 * p) ({ up with steer := { slot := 0, state := .steady }, stew := { cfg := some pod, authHolder := some 0, role := 5, members := [(3, {  })] } }) (⟨3, 7, 0, 1, false, false⟩) (⟨0x1F04, 0, 0, 0, 0, 0⟩) 15)
    ∧ ((fun (s : State) (h : Hdr) (f : FaultRec) =>
      Fresh s h 0x20C false
      ∧ isSteward s = true
      ∧ f.code.toNat = 0x0801 ∧ f.p0.toNat = 6 ∧ (member s h.src).state ≠ 5 ∧ s.stew.jobs = []) ({ up with steer := { slot := 0, state := .steady }, stew := { cfg := some pod, authHolder := some 0, role := 5, members := [(3, {  })] } }) (⟨3, 7, 0, 1, false, false⟩) (⟨0x0801, 0, 6, 0, 0, 0⟩))
    ∧ ((fun (s : State) (h : Hdr) (r : Nat) =>
      Fresh s h 0x20D true
      ∧ EventReady s none r) (withRing (ringOf 6 [])) (⟨0, 7, 0, 1, false, false⟩) 0)
    ∧ ((fun (s : State) (h : Hdr) (bs : List (Bool × Ctx × Byte)) =>
      Fresh s h 0x20E true
      ∧ bs.length ≤ 32) up (⟨0, 7, 0, 1, false, false⟩) ([(true, 2, 7), (false, 0, 0)]))
    ∧ ((fun (s : State) (h : Hdr) (c : Ctx) (r : Nat) =>
      Fresh s h 0x20F true
      ∧ EventReady s (some c.val) r) (bound {} (withRing (ringOf 6 []))) (⟨0, 7, 0, 1, false, false⟩) 0 0)
    ∧ ((fun (s : State) (h : Hdr) (c : Ctx) =>
      Fresh s h 0x20F true
      ∧ (ctx s c).created = true
      ∧ (ctx s c).tearing = false) (setCtx 1 { created := true } up) (⟨0, 7, 0, 1, false, false⟩) 1)
    ∧ ((fun (s : State) (h : Hdr) (j : Word) =>
      Fresh s h 0x210 false
      ∧ isSteward s = true
      ∧ (job s j.toNat).place = none) ({ up with steer := { slot := 0, state := .steady }, stew := { cfg := some pod, authHolder := some 0, role := 5 } }) (⟨3, 7, 0, 1, false, false⟩) 9)
    ∧ ((fun (s : State) (h : Hdr) =>
      Fresh s h 0x210 false
      ∧ isSteward s = true) ({ up with steer := { slot := 0, state := .steady }, stew := { cfg := some pod, authHolder := some 0, role := 5 } }) (⟨3, 7, 0, 1, false, false⟩))
    ∧ ((fun (s : State) (n : Nat) (k : Nat) (t' : Tbl (Nat × Nat)) =>
      t' = (riskInputs s n k).foldl (keepInput s.now) s.stew.contrib
      ∧ (0 < s.stew.level ∨ levelOf (min 1000 (t'.foldl (fun n p => n + p.2.1) 0)) s.stew.level = 0)) up 0 0 ((riskInputs (up) (0) (0)).foldl (keepInput (up).now) (up).stew.contrib)) := by
  refine ⟨?_,
    by refine ⟨by unfold Fresh; decide +kernel, ?_, ?_, ?_, ?_⟩ <;> decide +kernel,
    by unfold Fresh; decide +kernel,
    ?_,
    ?_,
    ?_,
    ⟨by unfold Fresh; decide +kernel, by decide +kernel⟩,
    ⟨by unfold Fresh; decide +kernel, by decide +kernel, by decide +kernel⟩,
    ⟨by unfold Fresh; decide +kernel, by decide +kernel, by decide +kernel⟩,
    ?_,
    by refine ⟨by unfold Fresh; decide +kernel, ?_, ?_, ?_⟩ <;> decide +kernel,
    ⟨by unfold Fresh; decide +kernel, by decide +kernel, by decide +kernel⟩,
    ⟨by unfold Fresh; decide +kernel, by unfold EventReady Machine.Inv; decide +kernel⟩,
    ⟨by unfold Fresh; decide +kernel, by decide +kernel⟩,
    ⟨by unfold Fresh; decide +kernel, by unfold EventReady Machine.Inv; decide +kernel⟩,
    ⟨by unfold Fresh; decide +kernel, by decide +kernel, by decide +kernel⟩,
    ⟨by unfold Fresh; decide +kernel, by decide +kernel, by decide +kernel⟩,
    ⟨by unfold Fresh; decide +kernel, by decide +kernel⟩,
    ?_⟩ <;> and_intros <;> decide +kernel

theorem witness_CheckpointEntriesComplete :
    ((fun (s : State) (r : RingIx) (e : Entry) =>
      Waits s r 4 1 e
      ∧ entToken e = false
      ∧ s.ckpt.well = .ready
      ∧ ent e 8 1 ≤ 3
      ∧ ent e 24 4 % 256 = 0
      ∧ ent e 10 1 ≤ 15) ({ withRing (ringOf 4 [numEntry (1)]) with ckpt := { well := .ready } }) 0 (numEntry (1)))
    ∧ ((fun (s : State) (r : RingIx) (e : Entry) (c : Nat) =>
      takeEntry s r 4 2 = some e
      ∧ c = ent e 8 1
      ∧ s.ckpt.well = .ready
      ∧ c ≤ 3
      ∧ (ctx s c).created = true
      ∧ bits (ent e 9 1) 1 1 = 0
      ∧ ckptRun s c = none
      ∧ (slotSt s c (chooseSlot s c)).reading = false
      ∧ stepAhead s c (BitVec.ofNat 32 (ent e 16 4)) = true) (setCtx 0 { created := true } ({ withRing (ringOf 4 [numEntry (2)]) with ckpt := { well := .ready } })) 0 (numEntry (2)) 0)
    ∧ ((fun (s : State) (r : RingIx) (e : Entry) (bs : List Byte) =>
      Waits s r 4 3 e
      ∧ entToken e = false
      ∧ s.ckpt.well = .ready
      ∧ bs = (e.bytes.drop 8).take 32
      ∧ jobCtxs s (getN bs 0 4) ≠ []) ({ withRing (ringOf 4 [numEntry (3)]) with ckpt := { well := .ready, templates := [(0, some ⟨false, false, false, 0, 0, 0, 0, 0, 0, 0, 0⟩)] } }) 0 (numEntry (3)) (((numEntry 3).bytes.drop 8).take 32))
    ∧ ((fun (s : State) (r : RingIx) (e : Entry) (c : Nat) (b : Bool) =>
      takeEntry s r 4 4 = some e
      ∧ c = ent e 8 1
      ∧ s.ckpt.well = .ready
      ∧ c ≤ 3
      ∧ ent e 9 1 ≤ 1
      ∧ b = (ent e 9 1 == 1)
      ∧ (template s c).isSome = true
      ∧ ((slotSt s c b).state = .committed ∨ (slotSt s c b).state = .drained)
      ∧ s.ckpt.connected = true) ({ withRing (ringOf 4 [numEntry (4 + 0 * 2 ^ 72)]) with ckpt := { well := .ready, connected := true, templates := [(0, some ⟨false, false, false, 0, 0, 0, 0, 0, 0, 0, 0⟩)], slots := [(0, { state := .committed })] } }) 0 (numEntry (4 + 0 * 2 ^ 72)) 0 false)
    ∧ ((fun (s : State) (r : RingIx) (e : Entry) (c : Nat) (b : Bool) =>
      takeEntry s r 4 4 = some e
      ∧ c = ent e 8 1
      ∧ s.ckpt.well = .ready
      ∧ c ≤ 3
      ∧ ent e 9 1 ≤ 1
      ∧ b = (ent e 9 1 == 1)
      ∧ (template s c).isSome = true
      ∧ ((slotSt s c b).state = .committed ∨ (slotSt s c b).state = .drained)
      ∧ s.ckpt.connected = true) ({ withRing (ringOf 4 [numEntry (4 + 1 * 2 ^ 72)]) with ckpt := { well := .ready, connected := true, templates := [(0, some ⟨false, false, false, 0, 0, 0, 0, 0, 0, 0, 0⟩)], slots := [(1, { state := .drained })] } }) 0 (numEntry (4 + 1 * 2 ^ 72)) 0 true)
    ∧ ((fun (s : State) (r : RingIx) (e : Entry) (c : Nat) (src : Nat) =>
      takeEntry s r 4 5 = some e
      ∧ c = ent e 8 1
      ∧ src = ent e 9 1
      ∧ s.ckpt.well = .ready
      ∧ c ≤ 3
      ∧ src ≤ 2
      ∧ restoreRefusal s c src = none
      ∧ ent e 40 4 = 0) (setCtx 0 { created := true } ({ withRing (ringOf 4 [numEntry (5)]) with ckpt := { well := .ready, slots := [(0, { state := .committed })] } })) 0 (numEntry (5)) 0 0)
    ∧ ((fun (s : State) (r : RingIx) (e : Entry) (c : Nat) (src : Nat) =>
      takeEntry s r 4 5 = some e
      ∧ c = ent e 8 1
      ∧ src = ent e 9 1
      ∧ s.ckpt.well = .ready
      ∧ c ≤ 3
      ∧ src ≤ 2
      ∧ restoreRefusal s c src = none
      ∧ ent e 40 4 = 0) (setCtx 0 { created := true } ({ withRing (ringOf 4 [numEntry (5 + 2 * 2 ^ 72)]) with ckpt := { well := .ready, connected := true } })) 0 (numEntry (5 + 2 * 2 ^ 72)) 0 2)
    ∧ ((fun (s : State) (s' : State) (r : RingIx) (e : Entry) (bs : List Byte) =>
      takeEntry s r 4 6 = some e
      ∧ s.ckpt.well = .ready
      ∧ canDma s = true
      ∧ s' = tableRead r e (ent e 16 8) 256 s
      ∧ readTable s' r e (ent e 16 8) 256 = .ok bs) ({ withRing (ringOf 4 [numEntry (6)]) with ckpt := { well := .ready } }) (tableRead 0 (numEntry (6)) 0 256 ({ withRing (ringOf 4 [numEntry (6)]) with ckpt := { well := .ready } })) 0 (numEntry (6)) (List.replicate 256 0))
    ∧ ((fun (s : State) (r : RingIx) (tag : Nat) (e : Entry) =>
      s.ckpt.target_ = some (r.val, tag)
      ∧ findEntry s r 6 tag = some e
      ∧ entToken e = false
      ∧ bits (entFlags e) 0 1 = 0
      ∧ canDma s = true
      ∧ Inv s) ({ withRing (ringOf 4 [{ numEntry 6 with started := true }]) with ckpt := { well := .ready, target_ := some (0, 0) } }) 0 0 ({ numEntry 6 with started := true }))
    ∧ ((fun (s : State) (r : RingIx) (e : Entry) (k : CkptRun) =>
      takeEntry s r 4 7 = some e
      ∧ s.ckpt.well = .ready
      ∧ ent e 8 1 ≤ 3
      ∧ ckptRun s (ent e 8 1) = some k) ({ withRing (ringOf 4 [numEntry (7)]) with ckpt := { well := .ready, runs := [(0, some {})] } }) 0 (numEntry (7)) ({}))
    ∧ ((fun (s : State) (r : RingIx) (e : Entry) (c : Nat) (b : Bool) =>
      Waits s r 4 8 e
      ∧ entToken e = false
      ∧ c = ent e 8 1
      ∧ s.ckpt.well = .ready
      ∧ c ≤ 3
      ∧ ent e 9 1 ≤ 1
      ∧ b = (ent e 9 1 == 1)
      ∧ (slotSt s c b).state ≠ .writing
      ∧ (slotSt s c b).state ≠ .draining
      ∧ (slotSt s c b).reading = false) ({ withRing (ringOf 4 [numEntry (8 + 2 ^ 72)]) with ckpt := { well := .ready } }) 0 (numEntry (8 + 2 ^ 72)) 0 true) := by
  refine ⟨by refine ⟨by unfold Waits Machine.Inv; decide +kernel, ?_, ?_, ?_, ?_, ?_⟩ <;> decide +kernel,
    ?_,
    by refine ⟨by unfold Waits Machine.Inv; decide +kernel, ?_, ?_, ?_, ?_⟩ <;> decide +kernel,
    ?_,
    ?_,
    ?_,
    ?_,
    by refine ⟨?_, ?_, ?_, by rfl, ?_⟩ <;> decide +kernel,
    by refine ⟨?_, ?_, ?_, ?_, ?_, by unfold Machine.Inv; decide +kernel⟩ <;> decide +kernel,
    ?_,
    by refine ⟨by unfold Waits Machine.Inv; decide +kernel, ?_, ?_, ?_, ?_, ?_, ?_, ?_, ?_, ?_⟩ <;> decide +kernel⟩ <;> and_intros <;> decide +kernel

theorem witness_CheckpointEventsComplete :
    ((fun (s : State) (c : Ctx) (k : CkptRun) =>
      ckptRun s c = some k
      ∧ k.freezing = true
      ∧ k.froze.all (stoppedNow s) = true
      ∧ listsBusy s c = false
      ∧ k.cut = false) ({ up with ckpt := { well := .ready, runs := [(0, some { freezing := true })] } }) 0 ({ freezing := true }))
    ∧ ((fun (s : State) (c : Ctx) (p : Template) =>
      ckptPeriod s ≠ 0
      ∧ Tbl.get 0 s.ckpt.commitAt c ≠ 0
      ∧ Tbl.get 0 s.ckpt.commitAt c - 1 + ckptPeriod s * 60000000000 ≤ s.now
      ∧ (ctx s c).created = true
      ∧ template s c = some p
      ∧ p.auto = true
      ∧ ckptRun s c = none
      ∧ s.ckpt.well = .ready
      ∧ (slotSt s c (chooseSlot s c)).reading = false) (setCtx 0 { created := true } { up with now := 60000000000, ckpt := { well := .ready, cfg := 0x0200010A, commitAt := [(0, 1)], templates := [(0, some ⟨true, false, false, 0, 0, 0, 0, 0, 0, 0, 0⟩)] } }) 0 (⟨true, false, false, 0, 0, 0, 0, 0, 0, 0, 0⟩))
    ∧ ((fun (s : State) (c : Ctx) (k : CkptRun) (x : Section) =>
      ckptRun s c = some k
      ∧ k.cut = true
      ∧ k.image.sections[k.sec]? = some x
      ∧ k.copied.contains (k.sec, k.gran) = true) ({ up with ckpt := { well := .ready, runs := [(0, some { cut := true, copied := [(0, 0)], image := { sections := [⟨1, 0, 0, 65536⟩] } })] } }) 0 ({ cut := true, copied := [(0, 0)], image := { sections := [⟨1, 0, 0, 65536⟩] } }) (⟨1, 0, 0, 65536⟩))
    ∧ ((fun (s : State) (c : Ctx) (k : CkptRun) (x : Section) =>
      ckptRun s c = some k
      ∧ k.cut = true
      ∧ k.image.sections[k.sec]? = some x
      ∧ k.copied.contains (k.sec, k.gran) = false
      ∧ secGrans x ≠ 0
      ∧ (∀ n ≤ 65664, extentsOf { k with secBytes := Tbl.set k.secBytes k.sec (Tbl.get 0 k.secBytes k.sec + n) } ≤ (slotSt s c k.slotB).extents + freeExtents s)) ({ up with ckpt := { well := .ready, runs := [(0, some { cut := true, image := { sections := [⟨1, 0, 0, 65536⟩] } })] } }) 0 ({ cut := true, image := { sections := [⟨1, 0, 0, 65536⟩] } }) (⟨1, 0, 0, 65536⟩))
    ∧ ((fun (s : State) (c : Ctx) (k : CkptRun) (y : Nat × Nat) (rest : List (Nat × Nat)) (x : Section) =>
      ckptRun s c = some k
      ∧ k.buffer = y :: rest
      ∧ k.image.sections[y.1]? = some x
      ∧ (∀ n ≤ 65664, extentsOf { k with secBytes := Tbl.set k.secBytes y.1 (Tbl.get 0 k.secBytes y.1 + n) } ≤ (slotSt s c k.slotB).extents + freeExtents s)) ({ up with ckpt := { well := .ready, runs := [(0, some { cut := true, buffer := [(0, 0)], image := { sections := [⟨1, 0, 0, 65536⟩] } })] } }) 0 ({ cut := true, buffer := [(0, 0)], image := { sections := [⟨1, 0, 0, 65536⟩] } }) ((0, 0)) ([]) (⟨1, 0, 0, 65536⟩))
    ∧ ((fun (s : State) (c : Ctx) (k : CkptRun) =>
      ckptRun s c = some k
      ∧ k.cut = true
      ∧ k.image.sections.length ≤ k.sec
      ∧ k.buffer = []) ({ up with ckpt := { well := .ready, runs := [(0, some { cut := true })] } }) 0 ({ cut := true }))
    ∧ ((fun (s : State) (c : Ctx) (b : Bool) =>
      (slotSt s c b).state = .draining
      ∧ drainsPaused s = false) ({ up with ckpt := { well := .ready, slots := [(1, { state := .draining, lba := 7 })] } }) 0 true)
    ∧ ((fun (s : State) (c : Ctx) (b : Bool) =>
      (slotSt s c b).state = .draining) ({ up with ckpt := { well := .ready, slots := [(1, { state := .draining })] } }) 0 true)
    ∧ ((fun (s : State) (c : Ctx) (run : RestoreRun) (b : Bool) (i : Image) (e : Entry) =>
      Tbl.get none s.ckpt.restores c = some run
      ∧ run.slot = some b
      ∧ run.full = false
      ∧ i = (slotSt s c b).image
      ∧ i.offline = false
      ∧ (ctx s c).created = true
      ∧ findEntry s run.ring 5 run.tag = some e
      ∧ entToken e = false
      ∧ restoreReach s run c e i = none
      ∧ bits (entFlags e) 0 1 = 0
      ∧ canDma s = true
      ∧ Inv s) (setCtx 0 { created := true } ({ withRing (ringOf 4 [{ numEntry 5 with started := true }]) with ckpt := { well := .ready, restores := [(0, some ⟨some false, 0, false, false, false, [], 0, 0⟩)], slots := [(0, { state := .committed, reading := true })] } })) 0 (⟨some false, 0, false, false, false, [], 0, 0⟩) false ({}) ({ numEntry 5 with started := true }))
    ∧ ((fun (s : State) =>
      s.ckpt.miniBusy = true
      ∧ s.pwr.failing = none) ({ up with ckpt := { well := .ready, miniBusy := true } })) := by
  refine ⟨?_,
    ?_,
    ?_,
    by refine ⟨?_, ?_, ?_, ?_, ?_, by intro n hn; simp [extentsOf, imageBytes, storedOf, sectionAt, trailerLen, List.range, List.range.loop, roundUp, Tbl.set, Tbl.get, slotSt, freeExtents]; omega⟩ <;> decide +kernel,
    by refine ⟨?_, ?_, ?_, by intro n hn; simp [extentsOf, imageBytes, storedOf, sectionAt, trailerLen, List.range, List.range.loop, roundUp, Tbl.set, Tbl.get, slotSt, freeExtents]; omega⟩ <;> decide +kernel,
    ?_,
    ?_,
    ?_,
    by refine ⟨?_, ?_, ?_, ?_, ?_, ?_, ?_, ?_, ?_, ?_, ?_, by unfold Machine.Inv; decide +kernel⟩ <;> decide +kernel,
    ?_⟩ <;> and_intros <;> decide +kernel

theorem witness_ResetsComplete :
    ((fun (c : Instr) (s : State) (kind : Nat) (index : Nat) (cause : Nat) =>
      ResetCmd c kind index cause
      ∧ s.boot.state ≠ .off
      ∧ s.pwr.failing = none
      ∧ (s.rst.runs.any fun x => insideDomain kind index x.kind x.index) = false
      ∧ domainOk s kind index = true
      ∧ (kind = 5 → s.link.outs = [])) (.coreReset 143 2) up 1 143 2)
    ∧ ((fun (c : Instr) (s : State) (kind : Nat) (index : Nat) (cause : Nat) =>
      ResetCmd c kind index cause
      ∧ s.boot.state ≠ .off
      ∧ s.pwr.failing = none
      ∧ (s.rst.runs.any fun x => insideDomain kind index x.kind x.index) = false
      ∧ domainOk s kind index = true
      ∧ (kind = 5 → s.link.outs = [])) (.clusterReset 15 2) up 2 15 2)
    ∧ ((fun (c : Instr) (s : State) (kind : Nat) (index : Nat) (cause : Nat) =>
      ResetCmd c kind index cause
      ∧ s.boot.state ≠ .off
      ∧ s.pwr.failing = none
      ∧ (s.rst.runs.any fun x => insideDomain kind index x.kind x.index) = false
      ∧ domainOk s kind index = true
      ∧ (kind = 5 → s.link.outs = [])) (.halfReset 1 2) up 3 1 2)
    ∧ ((fun (c : Instr) (s : State) (kind : Nat) (index : Nat) (cause : Nat) =>
      ResetCmd c kind index cause
      ∧ s.boot.state ≠ .off
      ∧ s.pwr.failing = none
      ∧ (s.rst.runs.any fun x => insideDomain kind index x.kind x.index) = false
      ∧ domainOk s kind index = true
      ∧ (kind = 5 → s.link.outs = [])) (.computeReset 2) up 4 0 2)
    ∧ ((fun (c : Instr) (s : State) (kind : Nat) (index : Nat) (cause : Nat) =>
      ResetCmd c kind index cause
      ∧ s.boot.state ≠ .off
      ∧ s.pwr.failing = none
      ∧ (s.rst.runs.any fun x => insideDomain kind index x.kind x.index) = false
      ∧ domainOk s kind index = true
      ∧ (kind = 5 → s.link.outs = [])) (.fabricLaneReset 15 15 2) up 5 255 2)
    ∧ ((fun (c : Instr) (s : State) (kind : Nat) (index : Nat) (cause : Nat) =>
      ResetCmd c kind index cause
      ∧ s.boot.state ≠ .off
      ∧ s.pwr.failing = none
      ∧ (s.rst.runs.any fun x => insideDomain kind index x.kind x.index) = false
      ∧ domainOk s kind index = true
      ∧ (kind = 5 → s.link.outs = [])) (.moduleWarmReset 2) up 6 0 2)
    ∧ ((fun (c : Instr) (s : State) (kind : Nat) (index : Nat) (cause : Nat) =>
      ResetCmd c kind index cause
      ∧ s.boot.state ≠ .off
      ∧ s.pwr.failing = none
      ∧ (s.rst.runs.any fun x => insideDomain kind index x.kind x.index) = false
      ∧ domainOk s kind index = true
      ∧ (kind = 5 → s.link.outs = [])) (.moduleColdReset 2) up 7 0 2)
    ∧ ((fun (s : State) (x : ResetRun) =>
      runIn s 3 = some x
      ∧ (x.at_ + 100000 ≤ s.now ∨ x.ctxs.all (ctxDrained s) = true)) ({ up with rst := { runs := [⟨1, 0, 2, 3, 0, 0, [], [], []⟩] } }) (⟨1, 0, 2, 3, 0, 0, [], [], []⟩))
    ∧ ((fun (s : State) (x : ResetRun) =>
      runIn s 4 = some x) ({ up with rst := { runs := [⟨1, 0, 2, 4, 0, 0, [], [], []⟩] } }) (⟨1, 0, 2, 4, 0, 0, [], [], []⟩))
    ∧ ((fun (s : State) (x : ResetRun) =>
      s.rst.runs = [x]
      ∧ x.phase = 5
      ∧ x.kind < 6) ({ up with rst := { runs := [⟨1, 0, 2, 5, 0, 0, [], [], []⟩] } }) (⟨1, 0, 2, 5, 0, 0, [], [], []⟩))
    ∧ ((fun (s : State) (x : ResetRun) =>
      s.rst.runs = [x]
      ∧ x.phase = 5
      ∧ x.kind = 6
      ∧ s.rst.dumpPending = none) ({ up with rst := { runs := [⟨6, 0, 2, 5, 0, 0, [], [], []⟩] } }) (⟨6, 0, 2, 5, 0, 0, [], [], []⟩))
    ∧ ((fun (s : State) (x : ResetRun) =>
      s.rst.runs = [x]
      ∧ x.phase = 5
      ∧ x.kind = 7
      ∧ s.rst.dumpPending = none) ({ up with rst := { runs := [⟨7, 0, 2, 5, 0, 0, [], [], []⟩] } }) (⟨7, 0, 2, 5, 0, 0, [], [], []⟩))
    ∧ ((fun (s : State) (x : ResetRun) (d : Nat × Nat) =>
      s.rst.runs = [x]
      ∧ x.kind < 5
      ∧ 1 ≤ x.kind
      ∧ domainOk s x.kind x.index = true
      ∧ x.at_ + escalateNs x.kind ≤ s.now
      ∧ s.boot.state ≠ .off
      ∧ s.pwr.failing = none
      ∧ d = nextDomain x.kind x.index) ({ up with rst := { runs := [⟨1, 0, 2, 3, 0, 0, [], [], []⟩] }, now := 1000000 }) (⟨1, 0, 2, 3, 0, 0, [], [], []⟩) (nextDomain 1 0))
    ∧ ((fun (s : State) (x : ResetRun) (d : Nat × Nat) =>
      s.rst.runs = [x]
      ∧ x.kind < 5
      ∧ 1 ≤ x.kind
      ∧ domainOk s x.kind x.index = true
      ∧ x.at_ + escalateNs x.kind ≤ s.now
      ∧ s.boot.state ≠ .off
      ∧ s.pwr.failing = none
      ∧ d = nextDomain x.kind x.index) ({ up with rst := { runs := [⟨2, 0, 2, 3, 0, 0, [], [], []⟩] }, now := 1000000 }) (⟨2, 0, 2, 3, 0, 0, [], [], []⟩) (nextDomain 2 0))
    ∧ ((fun (s : State) (x : ResetRun) (d : Nat × Nat) =>
      s.rst.runs = [x]
      ∧ x.kind < 5
      ∧ 1 ≤ x.kind
      ∧ domainOk s x.kind x.index = true
      ∧ x.at_ + escalateNs x.kind ≤ s.now
      ∧ s.boot.state ≠ .off
      ∧ s.pwr.failing = none
      ∧ d = nextDomain x.kind x.index) ({ up with rst := { runs := [⟨3, 0, 2, 3, 0, 0, [], [], []⟩] }, now := 5000000 }) (⟨3, 0, 2, 3, 0, 0, [], [], []⟩) (nextDomain 3 0))
    ∧ ((fun (s : State) (x : ResetRun) (d : Nat × Nat) =>
      s.rst.runs = [x]
      ∧ x.kind < 5
      ∧ 1 ≤ x.kind
      ∧ domainOk s x.kind x.index = true
      ∧ x.at_ + escalateNs x.kind ≤ s.now
      ∧ s.boot.state ≠ .off
      ∧ s.pwr.failing = none
      ∧ d = nextDomain x.kind x.index) ({ up with rst := { runs := [⟨4, 0, 2, 3, 0, 0, [], [], []⟩] }, now := 20000000 }) (⟨4, 0, 2, 3, 0, 0, [], [], []⟩) (nextDomain 4 0))
    ∧ ((fun (s : State) (x : ResetRun) =>
      s.rst.runs = [x]
      ∧ x.kind = 5
      ∧ x.at_ + 10000000 ≤ s.now
      ∧ s.link.outs = []) ({ up with rst := { runs := [⟨5, 0, 2, 5, 0, 0, [], [], []⟩] }, now := 10000000 }) (⟨5, 0, 2, 5, 0, 0, [], [], []⟩)) := by
  refine ⟨by refine ⟨by simp [ResetCmd], ?_, ?_, ?_, ?_, ?_⟩ <;> decide +kernel,
    by refine ⟨by simp [ResetCmd], ?_, ?_, ?_, ?_, ?_⟩ <;> decide +kernel,
    by refine ⟨by simp [ResetCmd], ?_, ?_, ?_, ?_, ?_⟩ <;> decide +kernel,
    by refine ⟨by simp [ResetCmd], ?_, ?_, ?_, ?_, ?_⟩ <;> decide +kernel,
    by refine ⟨by simp [ResetCmd], ?_, ?_, ?_, ?_, ?_⟩ <;> decide +kernel,
    by refine ⟨by simp [ResetCmd], ?_, ?_, ?_, ?_, ?_⟩ <;> decide +kernel,
    by refine ⟨by simp [ResetCmd], ?_, ?_, ?_, ?_, ?_⟩ <;> decide +kernel,
    ?_,
    ?_,
    ?_,
    ?_,
    ?_,
    ?_,
    ?_,
    ?_,
    ?_,
    ?_⟩ <;> and_intros <;> decide +kernel

theorem witness_HangsAndDumpsComplete :
    ((fun (c : Instr) (s : State) =>
      HangFound c s) (.streamWaitHang 0 0) ({ withStream 0 (heldAt 1 2) with now := 50000000 }))
    ∧ ((fun (c : Instr) (s : State) =>
      HangFound c s) (.streamIssueHang 0 0) ({ withStream 0 (heldAt 2 3) with now := 10000000 }))
    ∧ ((fun (c : Instr) (s : State) =>
      HangFound c s) (.progressHang 0 0) ({ withStream 0 { state := .running, outst := [⟨0x10, 0x1000, [], 0, 0, 0, 0, 0, 0, none⟩] } with now := 25000000 }))
    ∧ ((fun (c : Instr) (s : State) =>
      HangFound c s) (.stopHang 0 0) (clockAt 1000000 (withStream 0 { state := .stopping })))
    ∧ ((fun (c : Instr) (s : State) =>
      HangFound c s) (.routerHang 0 0 false) (clockAt 1000000 (withClu { beats := [(0, [⟨1, false, false⟩])] })))
    ∧ ((fun (c : Instr) (s : State) =>
      HangFound c s) (.pairHang 0 0) (clockAt 10000000 (setPair 0 0 { state := .retrain, retrainAt := [0] } up)))
    ∧ ((fun (c : Instr) (s : State) =>
      HangFound c s) (.chipletWatchdog 0) up)
    ∧ ((fun (c : Instr) (s : State) =>
      HangFound c s) (.halfControllerWatchdog 0) up)
    ∧ ((fun (c : Instr) (s : State) =>
      HangFound c s) (.hubWatchdog 0) up)
    ∧ ((fun (c : Instr) (s : State) (g : Core) (st : Str) =>
      (c = .stopHang g st ∧ (strm s g st).state = .stopping ∧ (strm s g st).stopAt + 1000000 ≤ s.now ∨ c = .streamIssueHang g st ∧ heldFor s g st [2, 3, 4, 6, 7, 8] (hangLimit s 0) = true ∧ bit s.rst.hangCfg 25 = true)
      ∧ (core s g).hangFree = none
      ∧ s.rst.runs = []
      ∧ s.boot.state ≠ .off
      ∧ s.pwr.failing = none
      ∧ domainOk s 1 g = true) (.stopHang 0 0) (clockAt 1000000 (withStream 0 { state := .stopping })) 0 0)
    ∧ ((fun (c : Instr) (s : State) (g : Core) (st : Str) =>
      (c = .stopHang g st ∧ (strm s g st).state = .stopping ∧ (strm s g st).stopAt + 1000000 ≤ s.now ∨ c = .streamIssueHang g st ∧ heldFor s g st [2, 3, 4, 6, 7, 8] (hangLimit s 0) = true ∧ bit s.rst.hangCfg 25 = true)
      ∧ (core s g).hangFree = none
      ∧ s.rst.runs = []
      ∧ s.boot.state ≠ .off
      ∧ s.pwr.failing = none
      ∧ domainOk s 1 g = true) (.streamIssueHang 0 0) ({ withStream 0 (heldAt 2 3) with now := 10000000 }) 0 0)
    ∧ ((fun (c : Instr) (s : State) (cause : Nat) (hpc : Word) =>
      (c = .hubWatchdog hpc ∧ cause = 1 ∨ c = .hubFirmwareException hpc ∧ cause = 2 ∨ c = .hubMemoryUe hpc ∧ cause = 3 ∨ c = .ddrControllerFault hpc ∧ cause = 5)
      ∧ s.boot.state ≠ .off
      ∧ s.pwr.failing = none
      ∧ (∀ x ∈ s.rst.runs, x.kind < 6)) (.hubWatchdog 5) up 1 5)
    ∧ ((fun (c : Instr) (s : State) (cause : Nat) (hpc : Word) =>
      (c = .hubWatchdog hpc ∧ cause = 1 ∨ c = .hubFirmwareException hpc ∧ cause = 2 ∨ c = .hubMemoryUe hpc ∧ cause = 3 ∨ c = .ddrControllerFault hpc ∧ cause = 5)
      ∧ s.boot.state ≠ .off
      ∧ s.pwr.failing = none
      ∧ (∀ x ∈ s.rst.runs, x.kind < 6)) (.hubFirmwareException 5) up 2 5)
    ∧ ((fun (c : Instr) (s : State) (cause : Nat) (hpc : Word) =>
      (c = .hubWatchdog hpc ∧ cause = 1 ∨ c = .hubFirmwareException hpc ∧ cause = 2 ∨ c = .hubMemoryUe hpc ∧ cause = 3 ∨ c = .ddrControllerFault hpc ∧ cause = 5)
      ∧ s.boot.state ≠ .off
      ∧ s.pwr.failing = none
      ∧ (∀ x ∈ s.rst.runs, x.kind < 6)) (.hubMemoryUe 5) up 3 5)
    ∧ ((fun (c : Instr) (s : State) (cause : Nat) (hpc : Word) =>
      (c = .hubWatchdog hpc ∧ cause = 1 ∨ c = .hubFirmwareException hpc ∧ cause = 2 ∨ c = .hubMemoryUe hpc ∧ cause = 3 ∨ c = .ddrControllerFault hpc ∧ cause = 5)
      ∧ s.boot.state ≠ .off
      ∧ s.pwr.failing = none
      ∧ (∀ x ∈ s.rst.runs, x.kind < 6)) (.ddrControllerFault 5) up 5 5)
    ∧ ((fun (s : State) (cause : Nat) =>
      s.rst.dumpPending = some cause
      ∧ cause ≠ 4
      ∧ cause ≠ 5
      ∧ (dumpRun s).isSome = true) ({ up with rst := { runs := [⟨6, 0, 2, 5, 0, 0, [], [], []⟩], dumpPending := some 1 } }) 1)
    ∧ ((fun (s : State) =>
      s.rst.dumpPending = none
      ∧ s.rst.dumpValid = true
      ∧ s.rst.dumpWell = 0
      ∧ (dumpRun s).isSome = true) ({ up with rst := { runs := [⟨6, 0, 2, 5, 0, 0, [], [], []⟩], dumpValid := true } }))
    ∧ ((fun (s : State) =>
      s.rst.dumpPending = none
      ∧ s.rst.dumpValid = true
      ∧ s.rst.dumpWell = 0
      ∧ (dumpRun s).isSome = true) ({ up with rst := { runs := [⟨6, 0, 2, 5, 0, 0, [], [], []⟩], dumpValid := true } }))
    ∧ ((fun (s : State) (v : Word) =>
      blockHeld s 0x80020 = false
      ∧ bit v 0 = true) up 1)
    ∧ ((fun (s : State) =>
      blockHeld s 0x80008 = false) up) := by
  refine ⟨by unfold HangFound; exact (Or.inl ⟨0, 0, rfl, by decide +kernel⟩),
    by unfold HangFound; exact (Or.inr (Or.inl ⟨0, 0, rfl, by decide +kernel⟩)),
    by unfold HangFound; exact (Or.inr (Or.inr (Or.inl ⟨0, 0, rfl, by decide +kernel, by decide +kernel⟩))),
    by unfold HangFound; exact (Or.inr (Or.inr (Or.inr (Or.inl ⟨0, 0, rfl, by decide +kernel, by decide +kernel⟩)))),
    by unfold HangFound; exact (Or.inr (Or.inr (Or.inr (Or.inr (Or.inl ⟨0, 0, false, rfl, by decide +kernel, by decide +kernel⟩))))),
    by unfold HangFound; exact (Or.inr (Or.inr (Or.inr (Or.inr (Or.inr (Or.inl ⟨0, 0, rfl, by decide +kernel⟩)))))),
    by unfold HangFound; exact (Or.inr (Or.inr (Or.inr (Or.inr (Or.inr (Or.inr (Or.inl ⟨0, rfl⟩))))))),
    by unfold HangFound; exact (Or.inr (Or.inr (Or.inr (Or.inr (Or.inr (Or.inr (Or.inr (Or.inl ⟨0, rfl⟩)))))))),
    by unfold HangFound; exact (Or.inr (Or.inr (Or.inr (Or.inr (Or.inr (Or.inr (Or.inr (Or.inr ⟨0, rfl⟩)))))))),
    by refine ⟨(Or.inl ⟨rfl, by decide +kernel, by decide +kernel⟩), ?_, ?_, ?_, ?_, ?_⟩ <;> decide +kernel,
    by refine ⟨(Or.inr ⟨rfl, by decide +kernel, by decide +kernel⟩), ?_, ?_, ?_, ?_, ?_⟩ <;> decide +kernel,
    by refine ⟨(Or.inl ⟨rfl, by decide +kernel⟩), ?_, ?_, ?_⟩ <;> decide +kernel,
    by refine ⟨(Or.inr (Or.inl ⟨rfl, by decide +kernel⟩)), ?_, ?_, ?_⟩ <;> decide +kernel,
    by refine ⟨(Or.inr (Or.inr (Or.inl ⟨rfl, by decide +kernel⟩))), ?_, ?_, ?_⟩ <;> decide +kernel,
    by refine ⟨(Or.inr (Or.inr (Or.inr ⟨rfl, by decide +kernel⟩))), ?_, ?_, ?_⟩ <;> decide +kernel,
    ?_,
    ?_,
    ?_,
    ?_,
    ?_⟩ <;> and_intros <;> decide +kernel

theorem witness_PowerComplete :
    ((fun (s : State) (x : Nat) (us : Nat) =>
      s.boot.state ≠ .off
      ∧ 20 ≤ us
      ∧ x < 4600) up 4599 20)
    ∧ ((fun (s : State) (x : Nat) (us : Nat) =>
      s.boot.state ≠ .off
      ∧ 20 ≤ us
      ∧ 6000 < x) up 6001 20)
    ∧ ((fun (s : State) (cv : Nat) =>
      s.boot.state ≠ .off
      ∧ s.pwr.failing = none
      ∧ cv < 4400) up 4399)
    ∧ ((fun (s : State) (cv : Nat) =>
      s.boot.state ≠ .off
      ∧ s.pwr.failing = none
      ∧ 6200 < cv) up 6201)
    ∧ ((fun (s : State) (i : Fin 8) (x : Int) =>
      s.boot.state ≠ .off
      ∧ s.pwr.failing = none
      ∧ (i.val < 6 ∧ 1050 ≤ x ∨ i.val = 6 ∧ 500 ≤ x)) up 5 1050)
    ∧ ((fun (s : State) (i : Fin 8) (x : Int) =>
      s.boot.state ≠ .off
      ∧ s.pwr.failing = none
      ∧ (i.val < 6 ∧ 1050 ≤ x ∨ i.val = 6 ∧ 500 ≤ x)) up 6 500)
    ∧ ((fun (s : State) =>
      s.boot.state ≠ .off
      ∧ s.boot.state ≠ .boot
      ∧ s.pwr.failing = none) up)
    ∧ ((fun (s : State) =>
      s.pwr.failing.isSome = true) ({ up with pwr := { failing := some 1 } }))
    ∧ ((fun (s : State) =>
      s.boot.state = .off
      ∧ s.pwr.tripped = false) ({ up with boot := { state := .off } }))
    ∧ ((fun (s : State) (w : Nat) =>
      s.boot.state ≠ .off
      ∧ powerCap s < w
      ∧ s.pwr.capped = false) up 100000)
    ∧ ((fun (s : State) =>
      s.pwr.capped = true
      ∧ s.pwr.overAt + 100000000 ≤ s.now) (clockAt 100000000 ({ up with pwr := { capped := true } })))
    ∧ ((fun (s : State) =>
      s.boot.state ≠ .off) up)
    ∧ ((fun (s : State) (h : Hlf) =>
      tightens s h = true
      ∧ Tbl.get 0 s.pwr.capAt h + 10000000 ≤ s.now) (clockAt 10000000 ({ up with pwr := { capped := true, capA := 22 } })) 0)
    ∧ ((fun (s : State) (h : Hlf) =>
      throttled s h = false
      ∧ Tbl.get 0 s.pwr.capAt h + 100000000 ≤ s.now) (clockAt 100000000 (up)) 0)
    ∧ ((fun (s : State) =>
      s.boot.state = .off) ({ up with boot := { state := .off } }))
    ∧ ((fun (s : State) (rise : Bool) (a : Int) (b : Int) =>
      s.boot.state ≠ .off
      ∧ s.log.queue.length < 256
      ∧ (rise = true ∧ 220 < b - a ∨ rise = false ∧ 400 < a)) up true 5 226)
    ∧ ((fun (s : State) (rise : Bool) (a : Int) (b : Int) =>
      s.boot.state ≠ .off
      ∧ s.log.queue.length < 256
      ∧ (rise = true ∧ 220 < b - a ∨ rise = false ∧ 400 < a)) up false 401 0)
    ∧ ((fun (s : State) =>
      s.boot.state ≠ .off) up)
    ∧ ((fun (s : State) (v : Word) =>
      blockHeld s 0x70014 = false
      ∧ bit v 0 = true) up 1) := by
  and_intros <;> decide +kernel

theorem witness_StartupComplete :
    ((fun (s : State) =>
      s.boot.state = .boot
      ∧ s.boot.hold = false
      ∧ s.pwr.failing = none
      ∧ s.boot.step = 0) State.reset)
    ∧ ((fun (s : State) (f : BootFinding) =>
      s.boot.state = .boot
      ∧ s.boot.hold = false
      ∧ s.pwr.failing = none
      ∧ s.boot.step = 1
      ∧ f.identityOk = false) ({ State.reset with boot := { step := 1 } }) (⟨false, ⟨true, true⟩, true, true, [], 0, false, [], true⟩))
    ∧ ((fun (s : State) =>
      s.boot.state = .boot
      ∧ s.boot.hold = false
      ∧ s.pwr.failing = none
      ∧ s.boot.step = 4) ({ State.reset with boot := { step := 4 } }))
    ∧ ((fun (s : State) =>
      s.boot.state = .boot
      ∧ s.boot.hold = false
      ∧ s.pwr.failing = none
      ∧ s.boot.step = 7
      ∧ s.pwr.pwrfail = false
      ∧ 64 ≤ usableCores s) ({ State.reset with boot := { step := 7 } }))
    ∧ ((fun (s : State) =>
      s.boot.state = .boot
      ∧ s.boot.hold = false
      ∧ s.pwr.failing = none
      ∧ s.boot.step = 7
      ∧ s.pwr.pwrfail = false
      ∧ usableCores s < 64) ({ State.reset with boot := { step := 7 }, idb := { good := 0x7FFFFFFFFFFFFFFF } }))
    ∧ ((fun (s : State) =>
      s.boot.state = .boot
      ∧ s.boot.hold = true
      ∧ s.boot.step < 8) ({ State.reset with boot := { step := 7, hold := true } }))
    ∧ ((fun (s : State) =>
      s.boot.state = .cal
      ∧ s.pwr.failing = none
      ∧ s.boot.step = 0
      ∧ 64 ≤ usableCores s) ({ State.reset with boot := { state := .cal } }))
    ∧ ((fun (s : State) (f : CalFinding) =>
      s.boot.state = .cal
      ∧ s.pwr.failing = none
      ∧ s.boot.step = 3
      ∧ 64 ≤ usableCores s
      ∧ (∀ x ∈ f.powers, x.2.2.1.toNat < 150 ∧ x.2.2.2.2.toNat < 300)) ({ State.reset with boot := { state := .cal, step := 3 } }) (⟨[], [], [], [], []⟩))
    ∧ ((fun (s : State) =>
      s.boot.state = .survey
      ∧ s.boot.reported = true
      ∧ s.boot.reportAt + 2000000000 ≤ s.now
      ∧ s.steer.staged = []
      ∧ s.steer.state ≠ .applying) (clockAt 2000000000 ({ State.reset with boot := { state := .survey, reported := true } }))) := by
  refine ⟨?_,
    ?_,
    ?_,
    ?_,
    ?_,
    ?_,
    ?_,
    by refine ⟨?_, ?_, ?_, ?_, by intro x h; cases h⟩ <;> decide +kernel,
    ?_⟩ <;> and_intros <;> decide +kernel

theorem witness_UpdateComplete :
    ((fun (s : State) (r : RingIx) (e : Entry) =>
      Waits s r 5 0x20 e
      ∧ (ent e 8 1 = 1 ∨ ent e 8 1 = 2)
      ∧ s.ckpt.well = .ready
      ∧ s.upd.session = none
      ∧ s.upd.staged = none) ({ withRing (ringOf 5 [numEntry (0x20 + 2 * 2 ^ 64)]) with ckpt := { well := .ready }, upd := {  } }) 0 (numEntry (0x20 + 2 * 2 ^ 64)))
    ∧ ((fun (s : State) (s' : State) (r : RingIx) (e : Entry) (u : UpdSession) (bs : List Byte) =>
      Waits s r 5 0x21 e
      ∧ s.upd.session = some u
      ∧ u.id = ent e 8 4
      ∧ ent e 12 4 % 4096 = 0
      ∧ 1 ≤ ent e 16 4
      ∧ ent e 16 4 ≤ 1048576
      ∧ ent e 12 4 + ent e 16 4 ≤ 268431360
      ∧ bits (ent e 24 8) 60 4 = 4
      ∧ s' = tableRead r e (ent e 24 8) (ent e 16 4) s
      ∧ canDma s' = true
      ∧ Inv s'
      ∧ readTable s' r e (ent e 24 8) (ent e 16 4) = .ok bs) ({ withRing (ringOf 5 [numEntry (0x21 + 2 ^ 64 + 16 * 2 ^ 128 + 4 * 2 ^ 252)]) with ckpt := { well := .ready }, upd := { session := some ⟨1, 1, 0, 0⟩ }, hst := { (withRing (ringOf 5 [numEntry (0x21 + 2 ^ 64 + 16 * 2 ^ 128 + 4 * 2 ^ 252)])).hst with force := [(0x200, 0x10000), (0x1000, 0), (0x1008, 16), (0x100C, 0xC0000000)] } }) (tableRead 0 (numEntry (0x21 + 2 ^ 64 + 16 * 2 ^ 128 + 4 * 2 ^ 252)) (ent (numEntry (0x21 + 2 ^ 64 + 16 * 2 ^ 128 + 4 * 2 ^ 252)) 24 8) (ent (numEntry (0x21 + 2 ^ 64 + 16 * 2 ^ 128 + 4 * 2 ^ 252)) 16 4) ({ withRing (ringOf 5 [numEntry (0x21 + 2 ^ 64 + 16 * 2 ^ 128 + 4 * 2 ^ 252)]) with ckpt := { well := .ready }, upd := { session := some ⟨1, 1, 0, 0⟩ }, hst := { (withRing (ringOf 5 [numEntry (0x21 + 2 ^ 64 + 16 * 2 ^ 128 + 4 * 2 ^ 252)])).hst with force := [(0x200, 0x10000), (0x1000, 0), (0x1008, 16), (0x100C, 0xC0000000)] } })) 0 (numEntry (0x21 + 2 ^ 64 + 16 * 2 ^ 128 + 4 * 2 ^ 252)) (⟨1, 1, 0, 0⟩) (List.replicate 16 0))
    ∧ ((fun (s : State) (r : RingIx) (e : Entry) (u : UpdSession) (bs : List Byte) (m : Manifest) =>
      Waits s r 5 0x22 e
      ∧ s.upd.session = some u
      ∧ u.id = ent e 8 4
      ∧ 64 ≤ ent e 16 4
      ∧ ent e 16 4 ≤ 6509
      ∧ bs = Memory.readN s.upd.staging (ent e 12 4) (ent e 16 4)
      ∧ m = parseManifest bs
      ∧ manifestOk bs = true
      ∧ inBlocks s.upd.blocks (ent e 12 4) (ent e 16 4) = true
      ∧ (m.parts.all fun p => inBlocks s.upd.blocks p.off p.len) = true) ({ withRing (ringOf 5 [numEntry (0x22 + 2 ^ 64 + 3533 * 2 ^ 128)]) with ckpt := { well := .ready }, upd := { session := some ⟨1, 1, 0, 0⟩, blocks := [0], staging := Memory.writeN [] 0 (toBytes 0x100014E414D55 8 ++ toBytes 7 4 ++ List.replicate 52 0 ++ toBytes 1 8 ++ toBytes 64 8 ++ toBytes 8 8) } }) 0 (numEntry (0x22 + 2 ^ 64 + 3533 * 2 ^ 128)) (⟨1, 1, 0, 0⟩) (Memory.readN ({ withRing (ringOf 5 [numEntry (0x22 + 2 ^ 64 + 3533 * 2 ^ 128)]) with ckpt := { well := .ready }, upd := { session := some ⟨1, 1, 0, 0⟩, blocks := [0], staging := Memory.writeN [] 0 (toBytes 0x100014E414D55 8 ++ toBytes 7 4 ++ List.replicate 52 0 ++ toBytes 1 8 ++ toBytes 64 8 ++ toBytes 8 8) } }).upd.staging 0 3533) (parseManifest (Memory.readN ({ withRing (ringOf 5 [numEntry (0x22 + 2 ^ 64 + 3533 * 2 ^ 128)]) with ckpt := { well := .ready }, upd := { session := some ⟨1, 1, 0, 0⟩, blocks := [0], staging := Memory.writeN [] 0 (toBytes 0x100014E414D55 8 ++ toBytes 7 4 ++ List.replicate 52 0 ++ toBytes 1 8 ++ toBytes 64 8 ++ toBytes 8 8) } }).upd.staging 0 3533)))
    ∧ ((fun (s : State) (r : RingIx) (e : Entry) (u : UpdSession) =>
      Waits s r 5 0x23 e
      ∧ s.upd.session = some u
      ∧ u.id = ent e 8 4) ({ withRing (ringOf 5 [numEntry (0x23 + 2 ^ 64)]) with ckpt := { well := .ready }, upd := { session := some ⟨1, 1, 0, 0⟩ } }) 0 (numEntry (0x23 + 2 ^ 64)) (⟨1, 1, 0, 0⟩))
    ∧ ((fun (s : State) (r : RingIx) (e : Entry) =>
      Waits s r 5 0x24 e) ({ withRing (ringOf 5 [numEntry (0x24)]) with ckpt := { well := .ready }, upd := {  } }) 0 (numEntry (0x24)))
    ∧ ((fun (s : State) (u : UpdSession) =>
      s.upd.session = some u
      ∧ u.lastAt + 600000000000 ≤ s.now) ({ up with upd := { session := some ⟨1, 1, 0, 0⟩ }, now := 600000000000 }) (⟨1, 1, 0, 0⟩))
    ∧ ((fun (s : State) (r : RingIx) (e : Entry) (a : Nat) (n : Nat) =>
      Waits s r 5 0x28 e
      ∧ n = (attestation ((e.bytes.drop 8).take 32) s).1.length
      ∧ n ≤ ent e 48 4
      ∧ bits (ent e 40 8) 60 4 = 4
      ∧ ent e 40 8 + n ≤ 0x10000000000000000
      ∧ checkAt s (whoEntry s r e none) (ent e 40 8) n true = .ok (.here a)) ({ withRing (ringOf 5 [numEntry (0x28 + (4 * 2 ^ 124 + 4096 * 2 ^ 128) * (2 ^ 128 * 2 ^ 128))]) with ckpt := { well := .ready }, upd := {  }, hst := { (withRing (ringOf 5 [numEntry (0x28 + (4 * 2 ^ 124 + 4096 * 2 ^ 128) * (2 ^ 128 * 2 ^ 128))])).hst with force := [(0x200, 0x10000), (0x1000, 0), (0x1008, 16), (0x100C, 0xC0000000)] } }) 0 (numEntry (0x28 + (4 * 2 ^ 124 + 4096 * 2 ^ 128) * (2 ^ 128 * 2 ^ 128))) (hostKey 0) ((attestation (((numEntry (0x28 + (4 * 2 ^ 124 + 4096 * 2 ^ 128) * (2 ^ 128 * 2 ^ 128))).bytes.drop 8).take 32) ({ withRing (ringOf 5 [numEntry (0x28 + (4 * 2 ^ 124 + 4096 * 2 ^ 128) * (2 ^ 128 * 2 ^ 128))]) with ckpt := { well := .ready }, upd := {  }, hst := { (withRing (ringOf 5 [numEntry (0x28 + (4 * 2 ^ 124 + 4096 * 2 ^ 128) * (2 ^ 128 * 2 ^ 128))])).hst with force := [(0x200, 0x10000), (0x1000, 0), (0x1008, 16), (0x100C, 0xC0000000)] } })).1.length))
    ∧ ((fun (s : State) =>
      sideUp s = true) up) := by
  refine ⟨by refine ⟨by unfold Waits Machine.Inv; decide +kernel, ?_, ?_, ?_, ?_⟩ <;> decide +kernel,
    by refine ⟨by unfold Waits Machine.Inv; decide +kernel, ?_, ?_, ?_, ?_, ?_, ?_, ?_, by rfl, ?_, by unfold Machine.Inv; decide +kernel, ?_⟩ <;> decide +kernel,
    by refine ⟨by unfold Waits Machine.Inv; decide +kernel, ?_, ?_, ?_, ?_, ?_, by rfl, ?_, ?_, ?_⟩ <;> decide +kernel,
    ⟨by unfold Waits Machine.Inv; decide +kernel, by decide +kernel, by decide +kernel⟩,
    by unfold Waits Machine.Inv; decide +kernel,
    ?_,
    by refine ⟨by unfold Waits Machine.Inv; decide +kernel, ?_, ?_, ?_, ?_, ok_here _ _ (by decide +kernel)⟩ <;> decide +kernel,
    ?_⟩ <;> and_intros <;> decide +kernel

theorem witness_PinsComplete :
    ((fun (s : State) (r : Nat) =>
      s.boot.state ≠ .off
      ∧ s.pins.attnMasked = false
      ∧ bit s.pins.ctlCfg 0 = true
      ∧ s.pins.attnAt = 0
      ∧ EventReady s none r) (withRing (ringOf 6 [])) 0)
    ∧ ((fun (s : State) (m : Bool) =>
      (m = true → s.pins.attnOn + 1000000000 ≤ s.now)) (clockAt 1000000000 up) true)
    ∧ ((fun (s : State) (m : Bool) =>
      (m = true → s.pins.attnOn + 1000000000 ≤ s.now)) up false)
    ∧ ((fun (s : State) =>
      s.boot.state ≠ .off) up)
    ∧ ((fun (s : State) =>
      s.boot.state ≠ .off
      ∧ s.pins.remove = .none_) up)
    ∧ ((fun (s : State) =>
      s.boot.state ≠ .off) up)
    ∧ ((fun (s : State) (p : Fin 4) =>
      blockHeld s (ethOff p 0) = false
      ∧ (eth s p).state = .disabled) ({ up with eth := [(3, { present := false, fecLock := false })] }) 3)
    ∧ ((fun (s : State) (p : Fin 4) =>
      blockHeld s (ethOff p 0) = false
      ∧ (eth s p).state = .disabled) ({ up with eth := [(3, { present := true, fecLock := false })] }) 3)
    ∧ ((fun (s : State) (p : Fin 4) =>
      blockHeld s (ethOff p 0) = false
      ∧ (eth s p).state = .disabled) ({ up with eth := [(3, { present := true, fecLock := true })] }) 3)
    ∧ ((fun (s : State) (p : Fin 4) =>
      blockHeld s (ethOff p 0) = false
      ∧ (eth s p).state = .up) ({ up with eth := [(3, { state := .up })] }) 3)
    ∧ ((fun (s : State) (p : Fin 4) =>
      blockHeld s (ethOff p 0) = false
      ∧ ((eth s p).state = .noModule ∨ (eth s p).state = .down)) ({ up with eth := [(3, { state := .noModule })] }) 3)
    ∧ ((fun (s : State) (p : Fin 4) =>
      blockHeld s (ethOff p 0) = false
      ∧ ((eth s p).state = .noModule ∨ (eth s p).state = .down)) ({ up with eth := [(3, { state := .down })] }) 3)
    ∧ ((fun (s : State) (p : Fin 4) =>
      (eth s p).state = .draining
      ∧ (eth s p).pending = false) ({ up with eth := [(3, { state := .draining })] }) 3)
    ∧ ((fun (s : State) (p : Fin 4) =>
      s.boot.state ≠ .off
      ∧ (eth s p).state = .noModule) ({ up with eth := [(3, { state := .noModule })] }) 3)
    ∧ ((fun (s : State) (p : Fin 4) =>
      s.boot.state ≠ .off
      ∧ (eth s p).state = .up) ({ up with eth := [(3, { state := .up, present := true })] }) 3)
    ∧ ((fun (s : State) (p : Fin 4) (f : List Byte) =>
      (eth s p).state = .down
      ∧ (eth s p).present = true
      ∧ blockHeld s (ethOff p 0) = false
      ∧ 64 ≤ f.length
      ∧ f.length ≤ 9216
      ∧ fcsGood f = true
      ∧ macControl f = none) ({ up with eth := [(3, { state := .down, present := true })] }) 3 (ethFrame 60))
    ∧ ((fun (s : State) (p : Fin 4) (f : List Byte) =>
      (eth s p).state = .down
      ∧ (eth s p).present = true
      ∧ blockHeld s (ethOff p 0) = false
      ∧ 64 ≤ f.length
      ∧ f.length ≤ 9216
      ∧ fcsGood f = true
      ∧ macControl f = none) ({ up with eth := [(3, { state := .down, present := true })] }) 3 (ethFrame 61))
    ∧ ((fun (s : State) (p : Fin 4) (f : List Byte) =>
      (eth s p).state = .down
      ∧ (eth s p).present = true
      ∧ blockHeld s (ethOff p 0) = false
      ∧ (f.length < 64 ∨ 9216 < f.length ∨ fcsGood f = false)) ({ up with eth := [(3, { state := .down, present := true })] }) 3 (ethFrame 59))
    ∧ ((fun (s : State) (p : Fin 4) (f : List Byte) =>
      (eth s p).state = .down
      ∧ (eth s p).present = true
      ∧ blockHeld s (ethOff p 0) = false
      ∧ (f.length < 64 ∨ 9216 < f.length ∨ fcsGood f = false)) ({ up with eth := [(3, { state := .down, present := true })] }) 3 (List.replicate 9217 0))
    ∧ ((fun (s : State) (p : Fin 4) (f : List Byte) =>
      (eth s p).state = .down
      ∧ (eth s p).present = true
      ∧ blockHeld s (ethOff p 0) = false
      ∧ (f.length < 64 ∨ 9216 < f.length ∨ fcsGood f = false)) ({ up with eth := [(3, { state := .down, present := true })] }) 3 (List.replicate 64 0))
    ∧ ((fun (s : State) =>
      blockHeld s 0x40000C = false) up) := by
  refine ⟨by refine ⟨?_, ?_, ?_, ?_, by unfold EventReady Machine.Inv; decide +kernel⟩ <;> decide +kernel,
    ?_,
    ?_,
    ?_,
    ?_,
    ?_,
    ?_,
    ?_,
    ?_,
    ?_,
    ?_,
    ?_,
    ?_,
    ?_,
    ?_,
    ?_,
    ?_,
    ?_,
    by refine ⟨?_, ?_, ?_, Or.inr (Or.inl (by rw [List.length_replicate]; decide))⟩ <;> decide +kernel,
    ?_,
    ?_⟩ <;> and_intros <;> decide +kernel

theorem witness_SidebandComplete :
    ((fun (s : State) (eid : Byte) =>
      sideUp s = true
      ∧ eid ≠ 0
      ∧ eid ≠ 0xFF) up 0xFE)
    ∧ ((fun (s : State) =>
      sideUp s = true) up)
    ∧ ((fun (s : State) =>
      sideUp s = true) up)
    ∧ ((fun (s : State) =>
      sideUp s = true) up)
    ∧ ((fun (s : State) =>
      sideUp s = true) up)
    ∧ ((fun (s : State) =>
      sideUp s = true
      ∧ pldmBusy s = false) up)
    ∧ ((fun (s : State) (tid : Byte) =>
      sideUp s = true
      ∧ pldmBusy s = false
      ∧ tid ≠ 0
      ∧ tid ≠ 0xFF) up 0xFE)
    ∧ ((fun (s : State) (p : Byte) =>
      sideUp s = true
      ∧ pldmBusy s = false
      ∧ p.toNat ∈ pldmTypes) up 0)
    ∧ ((fun (s : State) (p : Byte) =>
      sideUp s = true
      ∧ pldmBusy s = false
      ∧ p.toNat ∈ pldmTypes) up 2)
    ∧ ((fun (s : State) (p : Byte) =>
      sideUp s = true
      ∧ pldmBusy s = false
      ∧ p.toNat ∈ pldmTypes) up 4)
    ∧ ((fun (s : State) =>
      sideUp s = true
      ∧ pldmBusy s = false) up)
    ∧ ((fun (s : State) (p : Byte) =>
      sideUp s = true
      ∧ pldmBusy s = false
      ∧ p.toNat ∈ pldmTypes) up 0)
    ∧ ((fun (s : State) (p : Byte) =>
      sideUp s = true
      ∧ pldmBusy s = false
      ∧ p.toNat ∈ pldmTypes) up 2)
    ∧ ((fun (s : State) (p : Byte) =>
      sideUp s = true
      ∧ pldmBusy s = false
      ∧ p.toNat ∈ pldmTypes) up 4)
    ∧ ((fun (s : State) (h : Word) =>
      sideUp s = true
      ∧ pldmBusy s = false
      ∧ 1 ≤ h.toNat
      ∧ h.toNat ≤ 11) up 1)
    ∧ ((fun (s : State) (h : Word) =>
      sideUp s = true
      ∧ pldmBusy s = false
      ∧ 1 ≤ h.toNat
      ∧ h.toNat ≤ 11) up 10)
    ∧ ((fun (s : State) (h : Word) =>
      sideUp s = true
      ∧ pldmBusy s = false
      ∧ 1 ≤ h.toNat
      ∧ h.toNat ≤ 11) up 11)
    ∧ ((fun (s : State) (i : Nat) =>
      sideUp s = true
      ∧ pldmBusy s = false
      ∧ i < 8) up 0)
    ∧ ((fun (s : State) (i : Nat) =>
      sideUp s = true
      ∧ pldmBusy s = false
      ∧ i < 8) up 7)
    ∧ ((fun (s : State) =>
      sideUp s = true
      ∧ pldmBusy s = false) up)
    ∧ ((fun (s : State) =>
      sideUp s = true
      ∧ pldmBusy s = false) up)
    ∧ ((fun (s : State) =>
      sideUp s = true
      ∧ pldmBusy s = false) up)
    ∧ ((fun (s : State) =>
      sideUp s = true
      ∧ pldmBusy s = false) up)
    ∧ ((fun (s : State) =>
      sideUp s = true
      ∧ pldmBusy s = true) State.reset) := by
  and_intros <;> decide +kernel

theorem witness_StepKeepsInvariant :
    (fun (s : State) (t : State) =>
      step s = .next t
      ∧ Inv s) up (nextOf (step up) up) := by
  exact ⟨next_of _ _ (by decide +kernel), by unfold Machine.Inv; decide +kernel⟩

theorem witness_EmptyQueueTicks :
    (fun (s : State) =>
      s.pending = []) up := by
  and_intros <;> decide +kernel

theorem witness_TokenQueueRule :
    ((fun (s : State) (g : Core) (st : Str) (w : IWord) (q : Nat) =>
      fld w 12 4 = q
      ∧ Issues s g st 3 w
      ∧ quiet s g st = true
      ∧ bit (queue s g q).cfg 31 = true
      ∧ bit (queue s g q).cfg (4 + st) = true
      ∧ (queue s g q).toks.length < 64) (withCore { state := .assigned, streams := [(0, atWord 0xF003)], queues := [(15, { cfg := 0x800000F0, toks := List.replicate 63 0 })] }) 0 0 0xF003 15)
    ∧ ((fun (s : State) (g : Core) (st : Str) (w : IWord) (q : Nat) =>
      fld w 12 4 = q
      ∧ Issues s g st 3 w
      ∧ quiet s g st = true
      ∧ bit (queue s g q).cfg 31 = true
      ∧ bit (queue s g q).cfg (4 + st) = true
      ∧ 64 ≤ (queue s g q).toks.length) (withCore { state := .assigned, streams := [(0, atWord 0xF003)], queues := [(15, { cfg := 0x800000F0, toks := List.replicate 64 0 })] }) 0 0 0xF003 15)
    ∧ ((fun (s : State) (g : Core) (st : Str) (w : IWord) (q : Nat) =>
      fld w 12 4 = q
      ∧ Stalled s g st 2 w
      ∧ (queue s g q).toks.length < 64) (withCore { state := .assigned, streams := [(0, heldAt 2 0xF003)], queues := [(15, { cfg := 0x800000F0, toks := List.replicate 63 0 })] }) 0 0 0xF003 15)
    ∧ ((fun (s : State) (g : Core) (st : Str) (w : IWord) (q : Nat) =>
      fld w 12 4 = q
      ∧ Stalled s g st 2 w
      ∧ 64 ≤ (queue s g q).toks.length) (withCore { state := .assigned, streams := [(0, heldAt 2 0xF003)], queues := [(15, { cfg := 0x800000F0, toks := List.replicate 64 0 })] }) 0 0 0xF003 15)
    ∧ ((fun (s : State) (g : Core) (st : Str) (w : IWord) (q : Nat) (v : Word) (vs : List Word) =>
      fld w 12 4 = q
      ∧ Issues s g st 2 w
      ∧ bit (queue s g q).cfg 31 = true
      ∧ fld (queue s g q).cfg 0 2 = st.val
      ∧ (queue s g q).ovfPend = false
      ∧ (queue s g q).toks = v :: vs) (withCore { state := .assigned, streams := [(0, atWord 0xF102)], queues := [(15, { cfg := 0x800000F0, toks := [7] })] }) 0 0 0xF102 15 7 ([]))
    ∧ ((fun (s : State) (g : Core) (st : Str) (w : IWord) (q : Nat) =>
      fld w 12 4 = q
      ∧ Issues s g st 2 w
      ∧ bit (queue s g q).cfg 31 = true
      ∧ fld (queue s g q).cfg 0 2 = st.val
      ∧ (queue s g q).ovfPend = false
      ∧ (queue s g q).toks = []) (withCore { state := .assigned, streams := [(0, atWord 0xF102)], queues := [(15, { cfg := 0x800000F0 })] }) 0 0 0xF102 15)
    ∧ ((fun (s : State) (g : Core) (st : Str) (w : IWord) (q : Nat) (v : Word) (vs : List Word) =>
      fld w 12 4 = q
      ∧ Stalled s g st 1 w
      ∧ (queue s g q).toks = v :: vs) (withCore { state := .assigned, streams := [(0, heldAt 1 0xF102)], queues := [(15, { cfg := 0x800000F0, toks := [7] })] }) 0 0 0xF102 15 7 ([]))
    ∧ ((fun (s : State) (g : Core) (st : Str) (w : IWord) (q : Nat) =>
      fld w 12 4 = q
      ∧ Stalled s g st 1 w
      ∧ (queue s g q).toks = []) (withCore { state := .assigned, streams := [(0, heldAt 1 0xF102)], queues := [(15, { cfg := 0x800000F0 })] }) 0 0 0xF102 15)
    ∧ ((fun (s : State) (g : Core) (st : Str) (w : IWord) (q : Nat) =>
      fld w 12 4 = q
      ∧ Issues s g st 2 w
      ∧ bit (queue s g q).cfg 31 = true
      ∧ fld (queue s g q).cfg 0 2 ≠ st.val) (withCore { state := .assigned, streams := [(0, atWord 0xF102)], queues := [(15, { cfg := 0x800000F1, toks := [7] })] }) 0 0 0xF102 15) := by
  refine ⟨by refine ⟨?_, by unfold Issues; decide +kernel, ?_, ?_, ?_, ?_⟩ <;> decide +kernel,
    by refine ⟨?_, by unfold Issues; decide +kernel, ?_, ?_, ?_, ?_⟩ <;> decide +kernel,
    ⟨by decide +kernel, by unfold Stalled; decide +kernel, by decide +kernel⟩,
    ⟨by decide +kernel, by unfold Stalled; decide +kernel, by decide +kernel⟩,
    by refine ⟨?_, by unfold Issues; decide +kernel, ?_, ?_, ?_, ?_⟩ <;> decide +kernel,
    by refine ⟨?_, by unfold Issues; decide +kernel, ?_, ?_, ?_, ?_⟩ <;> decide +kernel,
    ⟨by decide +kernel, by unfold Stalled; decide +kernel, by decide +kernel⟩,
    ⟨by decide +kernel, by unfold Stalled; decide +kernel, by decide +kernel⟩,
    by refine ⟨?_, by unfold Issues; decide +kernel, ?_, ?_⟩ <;> decide +kernel⟩

theorem witness_RemoteTokenRule :
    ((fun (s : State) (c : Ctx) (g : Core) =>
      (core s g).state = .assigned
      ∧ (core s g).ctx = c) (setCtx 0 { created := true } (withCore { state := .assigned, queues := [(15, { cfg := 0x80000100 })] })) 0 0)
    ∧ ((fun (s : State) (c : Ctx) (gen : Byte) (g : Core) =>
      (core s g).state = .assigned
      ∧ (core s g).ctx = c
      ∧ ¬((ctx s c).created = true ∧ (ctx s c).gen = gen)) (setCtx 0 { created := true } (withCore { state := .assigned, queues := [(15, { cfg := 0x80000100 })] })) 0 1 0)
    ∧ ((fun (s : State) (c : Ctx) (gen : Byte) (g : Core) =>
      (core s g).state = .assigned
      ∧ (core s g).ctx = c
      ∧ ¬((ctx s c).created = true ∧ (ctx s c).gen = gen)) (setCtx 0 {} (withCore { state := .assigned, queues := [(15, { cfg := 0x80000100 })] })) 0 0 0)
    ∧ ((fun (s : State) (c : Ctx) (gen : Byte) (g : Core) (q : Queue) =>
      (core s g).state = .assigned
      ∧ (core s g).ctx = c
      ∧ (ctx s c).created = true
      ∧ (ctx s c).gen = gen
      ∧ ¬(bit (queue s g q).cfg 31 = true ∧ bit (queue s g q).cfg 8 = true)) (setCtx 0 { created := true } (withCore { state := .assigned, queues := [(15, { cfg := 0x80000000 })] })) 0 0 0 15)
    ∧ ((fun (s : State) (c : Ctx) (gen : Byte) (g : Core) (q : Queue) =>
      (core s g).state = .assigned
      ∧ (core s g).ctx = c
      ∧ (ctx s c).created = true
      ∧ (ctx s c).gen = gen
      ∧ ¬(bit (queue s g q).cfg 31 = true ∧ bit (queue s g q).cfg 8 = true)) (setCtx 0 { created := true } (withCore { state := .assigned, queues := [(15, { cfg := 0x100, ovf := 255, rej := 254 })] })) 0 0 0 15)
    ∧ ((fun (s : State) (c : Ctx) (gen : Byte) (g : Core) (q : Queue) =>
      (core s g).state = .assigned
      ∧ (core s g).ctx = c
      ∧ (ctx s c).created = true
      ∧ (ctx s c).gen = gen
      ∧ bit (queue s g q).cfg 31 = true
      ∧ bit (queue s g q).cfg 8 = true
      ∧ (queue s g q).toks.length < 64) (setCtx 0 { created := true } (withCore { state := .assigned, queues := [(15, { cfg := 0x80000100, toks := List.replicate 63 0 })] })) 0 0 0 15)
    ∧ ((fun (s : State) (c : Ctx) (gen : Byte) (g : Core) (q : Queue) =>
      (core s g).state = .assigned
      ∧ (core s g).ctx = c
      ∧ (ctx s c).created = true
      ∧ (ctx s c).gen = gen
      ∧ bit (queue s g q).cfg 31 = true
      ∧ bit (queue s g q).cfg 8 = true
      ∧ 64 ≤ (queue s g q).toks.length
      ∧ s.log.queue.length < 256) (setCtx 0 { created := true } (withCore { state := .assigned, queues := [(15, { cfg := 0x80000100, toks := List.replicate 64 0 })] })) 0 0 0 15)
    ∧ ((fun (s : State) (g : Core) (st : Str) (w : IWord) =>
      Issues s g st 2 w
      ∧ bit (queue s g (fld w 12 4)).cfg 31 = true
      ∧ fld (queue s g (fld w 12 4)).cfg 0 2 = st.val
      ∧ (queue s g (fld w 12 4)).ovfPend = true) (withCore { state := .assigned, streams := [(0, atWord 0xF102)], queues := [(15, { cfg := 0x80000000, toks := [7], ovfPend := true })] }) 0 0 0xF102) := by
  refine ⟨?_,
    ?_,
    ?_,
    ?_,
    ?_,
    ?_,
    ?_,
    by refine ⟨by unfold Issues; decide +kernel, ?_, ?_, ?_⟩ <;> decide +kernel⟩ <;> and_intros <;> decide +kernel

theorem witness_QueueConfigurationRule :
    ((fun (s : State) (g : Core) (q : Queue) =>
      CoreOn s g (0x100 + 0x10 * q)
      ∧ coreQuiet s g = true) (withCore {}) 0 15)
    ∧ ((fun (s : State) (g : Core) (q : Queue) =>
      CoreOn s g (0x100 + 0x10 * q)
      ∧ coreQuiet s g = true) (withCore {}) 0 15)
    ∧ ((fun (s : State) (g : Core) (q : Queue) (v : Word) =>
      CoreOn s g (0x10C + 0x10 * q)
      ∧ coreQuiet s g = true
      ∧ bit v 0 = true) (withCore { queues := [(15, { toks := [7] })] }) 0 15 1)
    ∧ ((fun (s : State) (g : Core) (q : Queue) (v : Word) (c : Instr) (off : Nat) =>
      ((c = .coreTqCfgWrite g q v ∧ off = 0x100 + 0x10 * q) ∨ (c = .tqClear g q v ∧ off = 0x10C + 0x10 * q ∧ bit v 0 = true))
      ∧ CoreOn s g off
      ∧ coreQuiet s g = false
      ∧ s.log.queue.length < 256) (withStream 0 { state := .running }) 0 15 0x80400000 (.coreTqCfgWrite 0 15 0x80400000) 0x1F0)
    ∧ ((fun (s : State) (g : Core) (q : Queue) (v : Word) (c : Instr) (off : Nat) =>
      ((c = .coreTqCfgWrite g q v ∧ off = 0x100 + 0x10 * q) ∨ (c = .tqClear g q v ∧ off = 0x10C + 0x10 * q ∧ bit v 0 = true))
      ∧ CoreOn s g off
      ∧ coreQuiet s g = false
      ∧ s.log.queue.length < 256) (withStream 0 { state := .running }) 0 15 1 (.tqClear 0 15 1) 0x1FC) := by
  refine ⟨⟨by unfold CoreOn; decide +kernel, by decide +kernel⟩,
    ⟨by unfold CoreOn; decide +kernel, by decide +kernel⟩,
    ⟨by unfold CoreOn; decide +kernel, by decide +kernel, by decide +kernel⟩,
    ⟨(Or.inl ⟨rfl, by decide +kernel⟩), by unfold CoreOn; decide +kernel, by decide +kernel, by decide +kernel⟩,
    ⟨(Or.inr ⟨rfl, by decide +kernel, by decide +kernel⟩), by unfold CoreOn; decide +kernel, by decide +kernel, by decide +kernel⟩⟩

theorem witness_LinkRateRule :
    ((fun (formed : Nat) (width : Nat) =>
      width = (if formed = 2 then 1 else formed)) 8 8)
    ∧ ((fun (formed : Nat) (width : Nat) =>
      width = (if formed = 2 then 1 else formed)) 2 1)
    ∧ ((fun (s : State) (rate10 : Nat) (formed : Nat) (width : Nat) =>
      width = (if formed = 2 then 1 else formed)
      ∧ (s.hst.rate10 ≠ rate10 ∨ s.hst.width ≠ width)
      ∧ (rate10 < 320 ∨ width < 8 ∨ s.hst.rate10 < 320 ∨ s.hst.width < 8)
      ∧ s.log.queue.length < 256) up 160 8 8)
    ∧ ((fun (s : State) (rate10 : Nat) (formed : Nat) (width : Nat) =>
      width = (if formed = 2 then 1 else formed)
      ∧ (s.hst.rate10 ≠ rate10 ∨ s.hst.width ≠ width)
      ∧ (rate10 < 320 ∨ width < 8 ∨ s.hst.rate10 < 320 ∨ s.hst.width < 8)
      ∧ s.log.queue.length < 256) up 320 4 4)
    ∧ ((fun (s : State) (rate10 : Nat) (formed : Nat) (width : Nat) =>
      width = (if formed = 2 then 1 else formed)
      ∧ (s.hst.rate10 ≠ rate10 ∨ s.hst.width ≠ width)
      ∧ (rate10 < 320 ∨ width < 8 ∨ s.hst.rate10 < 320 ∨ s.hst.width < 8)
      ∧ s.log.queue.length < 256) up 320 2 1)
    ∧ ((fun (s : State) (rate10 : Nat) (formed : Nat) (width : Nat) =>
      width = (if formed = 2 then 1 else formed)
      ∧ (s.hst.rate10 ≠ rate10 ∨ s.hst.width ≠ width)
      ∧ (rate10 < 320 ∨ width < 8 ∨ s.hst.rate10 < 320 ∨ s.hst.width < 8)
      ∧ s.log.queue.length < 256) ({ up with hst := { up.hst with rate10 := 160 } }) 320 8 8)
    ∧ ((fun (s : State) (rate10 : Nat) (formed : Nat) (width : Nat) =>
      width = (if formed = 2 then 1 else formed)
      ∧ 320 ≤ rate10
      ∧ 8 ≤ width
      ∧ 320 ≤ s.hst.rate10
      ∧ 8 ≤ s.hst.width) up 640 16 16) := by
  and_intros <;> decide +kernel

theorem witness_LogbookQueueRule :
    ((fun (s : State) (x : LogRec) (rest : List LogRec) =>
      s.log.queue = x :: rest
      ∧ rest.length < 256) ({ up with log := { lostNow := 0, queue := List.replicate 256 ⟨1, 2, 3, 4, 5, 6, 7⟩ } }) (⟨1, 2, 3, 4, 5, 6, 7⟩) (List.replicate 255 ⟨1, 2, 3, 4, 5, 6, 7⟩))
    ∧ ((fun (s : State) (x : LogRec) (rest : List LogRec) =>
      s.log.queue = x :: rest
      ∧ rest.length < 256) ({ up with log := { lostNow := 3, queue := List.replicate 256 ⟨1, 2, 3, 4, 5, 6, 7⟩ } }) (⟨1, 2, 3, 4, 5, 6, 7⟩) (List.replicate 255 ⟨1, 2, 3, 4, 5, 6, 7⟩)) := by
  and_intros <;> decide +kernel

theorem witness_RegisterInstructionFrame :
    ((fun (c : Instr) (o : Nat) (s : State) (t : State) (g : Core) (st : Str) (w : IWord) =>
      ((c = .nop g st ∧ o = 0) ∨ (c = .li g st ∧ o = 5) ∨ (c = .alu g st ∧ o = 7) ∨ (c = .br g st ∧ o = 8) ∨ (c = .rdsys g st ∧ o = 9))
      ∧ Issues s g st o w
      ∧ exec c s = .next t
      ∧ (strm t g st).state = .running) (.nop 0 0) 0 (withStream 0 (atWord (0))) (nextOf (exec (.nop 0 0) (withStream 0 (atWord (0)))) (withStream 0 (atWord (0)))) 0 0 0)
    ∧ ((fun (c : Instr) (o : Nat) (s : State) (t : State) (g : Core) (st : Str) (w : IWord) =>
      ((c = .nop g st ∧ o = 0) ∨ (c = .li g st ∧ o = 5) ∨ (c = .alu g st ∧ o = 7) ∨ (c = .br g st ∧ o = 8) ∨ (c = .rdsys g st ∧ o = 9))
      ∧ Issues s g st o w
      ∧ exec c s = .next t
      ∧ (strm t g st).state = .running) (.li 0 0) 5 (withStream 0 (atWord (0x100000105))) (nextOf (exec (.li 0 0) (withStream 0 (atWord (0x100000105)))) (withStream 0 (atWord (0x100000105)))) 0 0 0x100000105)
    ∧ ((fun (c : Instr) (o : Nat) (s : State) (t : State) (g : Core) (st : Str) (w : IWord) =>
      ((c = .nop g st ∧ o = 0) ∨ (c = .li g st ∧ o = 5) ∨ (c = .alu g st ∧ o = 7) ∨ (c = .br g st ∧ o = 8) ∨ (c = .rdsys g st ∧ o = 9))
      ∧ Issues s g st o w
      ∧ exec c s = .next t
      ∧ (strm t g st).state = .running) (.alu 0 0) 7 (withStream 0 (atWord (0x1000107))) (nextOf (exec (.alu 0 0) (withStream 0 (atWord (0x1000107)))) (withStream 0 (atWord (0x1000107)))) 0 0 0x1000107)
    ∧ ((fun (c : Instr) (o : Nat) (s : State) (t : State) (g : Core) (st : Str) (w : IWord) =>
      ((c = .nop g st ∧ o = 0) ∨ (c = .li g st ∧ o = 5) ∨ (c = .alu g st ∧ o = 7) ∨ (c = .br g st ∧ o = 8) ∨ (c = .rdsys g st ∧ o = 9))
      ∧ Issues s g st o w
      ∧ exec c s = .next t
      ∧ (strm t g st).state = .running) (.br 0 0) 8 (withStream 0 (atWord (8))) (nextOf (exec (.br 0 0) (withStream 0 (atWord (8)))) (withStream 0 (atWord (8)))) 0 0 8)
    ∧ ((fun (c : Instr) (o : Nat) (s : State) (t : State) (g : Core) (st : Str) (w : IWord) =>
      ((c = .nop g st ∧ o = 0) ∨ (c = .li g st ∧ o = 5) ∨ (c = .alu g st ∧ o = 7) ∨ (c = .br g st ∧ o = 8) ∨ (c = .rdsys g st ∧ o = 9))
      ∧ Issues s g st o w
      ∧ exec c s = .next t
      ∧ (strm t g st).state = .running) (.rdsys 0 0) 9 (withStream 0 (atWord (0x60109))) (nextOf (exec (.rdsys 0 0) (withStream 0 (atWord (0x60109)))) (withStream 0 (atWord (0x60109)))) 0 0 0x60109) := by
  refine ⟨⟨(Or.inl ⟨rfl, by decide +kernel⟩), by unfold Issues; decide +kernel, next_of _ _ (by decide +kernel), by decide +kernel⟩,
    ⟨(Or.inr (Or.inl ⟨rfl, by decide +kernel⟩)), by unfold Issues; decide +kernel, next_of _ _ (by decide +kernel), by decide +kernel⟩,
    ⟨(Or.inr (Or.inr (Or.inl ⟨rfl, by decide +kernel⟩))), by unfold Issues; decide +kernel, next_of _ _ (by decide +kernel), by decide +kernel⟩,
    ⟨(Or.inr (Or.inr (Or.inr (Or.inl ⟨rfl, by decide +kernel⟩)))), by unfold Issues; decide +kernel, next_of _ _ (by decide +kernel), by decide +kernel⟩,
    ⟨(Or.inr (Or.inr (Or.inr (Or.inr ⟨rfl, by decide +kernel⟩)))), by unfold Issues; decide +kernel, next_of _ _ (by decide +kernel), by decide +kernel⟩⟩

theorem witness_TokenInstructionFrame :
    ((fun (c : Instr) (s : State) (t : State) (g : Core) (st : Str) (w : IWord) =>
      ((c = .signal g st ∧ Issues s g st 3 w) ∨ (c = .signalResume g st ∧ Stalled s g st 2 w) ∨ (c = .wait g st ∧ Issues s g st 2 w) ∨ (c = .waitResume g st ∧ Stalled s g st 1 w))
      ∧ exec c s = .next t
      ∧ (strm t g st).state = .running) (.signal 0 0) (withCore { state := .assigned, streams := [(0, atWord 0xF003)], queues := [(15, { cfg := 0x800000F0, toks := List.replicate 63 0 })] }) (nextOf (exec (.signal 0 0) (withCore { state := .assigned, streams := [(0, atWord 0xF003)], queues := [(15, { cfg := 0x800000F0, toks := List.replicate 63 0 })] })) (withCore { state := .assigned, streams := [(0, atWord 0xF003)], queues := [(15, { cfg := 0x800000F0, toks := List.replicate 63 0 })] })) 0 0 0xF003)
    ∧ ((fun (c : Instr) (s : State) (t : State) (g : Core) (st : Str) (w : IWord) =>
      ((c = .signal g st ∧ Issues s g st 3 w) ∨ (c = .signalResume g st ∧ Stalled s g st 2 w) ∨ (c = .wait g st ∧ Issues s g st 2 w) ∨ (c = .waitResume g st ∧ Stalled s g st 1 w))
      ∧ exec c s = .next t
      ∧ (strm t g st).state = .running) (.signalResume 0 0) (withCore { state := .assigned, streams := [(0, heldAt 2 0xF003)], queues := [(15, { cfg := 0x800000F0 })] }) (nextOf (exec (.signalResume 0 0) (withCore { state := .assigned, streams := [(0, heldAt 2 0xF003)], queues := [(15, { cfg := 0x800000F0 })] })) (withCore { state := .assigned, streams := [(0, heldAt 2 0xF003)], queues := [(15, { cfg := 0x800000F0 })] })) 0 0 0xF003)
    ∧ ((fun (c : Instr) (s : State) (t : State) (g : Core) (st : Str) (w : IWord) =>
      ((c = .signal g st ∧ Issues s g st 3 w) ∨ (c = .signalResume g st ∧ Stalled s g st 2 w) ∨ (c = .wait g st ∧ Issues s g st 2 w) ∨ (c = .waitResume g st ∧ Stalled s g st 1 w))
      ∧ exec c s = .next t
      ∧ (strm t g st).state = .running) (.wait 0 0) (withCore { state := .assigned, streams := [(0, atWord 0xF102)], queues := [(15, { cfg := 0x800000F0, toks := [7] })] }) (nextOf (exec (.wait 0 0) (withCore { state := .assigned, streams := [(0, atWord 0xF102)], queues := [(15, { cfg := 0x800000F0, toks := [7] })] })) (withCore { state := .assigned, streams := [(0, atWord 0xF102)], queues := [(15, { cfg := 0x800000F0, toks := [7] })] })) 0 0 0xF102)
    ∧ ((fun (c : Instr) (s : State) (t : State) (g : Core) (st : Str) (w : IWord) =>
      ((c = .signal g st ∧ Issues s g st 3 w) ∨ (c = .signalResume g st ∧ Stalled s g st 2 w) ∨ (c = .wait g st ∧ Issues s g st 2 w) ∨ (c = .waitResume g st ∧ Stalled s g st 1 w))
      ∧ exec c s = .next t
      ∧ (strm t g st).state = .running) (.waitResume 0 0) (withCore { state := .assigned, streams := [(0, heldAt 1 0xF102)], queues := [(15, { cfg := 0x800000F0, toks := [7] })] }) (nextOf (exec (.waitResume 0 0) (withCore { state := .assigned, streams := [(0, heldAt 1 0xF102)], queues := [(15, { cfg := 0x800000F0, toks := [7] })] })) (withCore { state := .assigned, streams := [(0, heldAt 1 0xF102)], queues := [(15, { cfg := 0x800000F0, toks := [7] })] })) 0 0 0xF102) := by
  refine ⟨⟨(Or.inl ⟨rfl, by unfold Issues; decide +kernel⟩), next_of _ _ (by decide +kernel), by decide +kernel⟩,
    ⟨(Or.inr (Or.inl ⟨rfl, by unfold Stalled; decide +kernel⟩)), next_of _ _ (by decide +kernel), by decide +kernel⟩,
    ⟨(Or.inr (Or.inr (Or.inl ⟨rfl, by unfold Issues; decide +kernel⟩))), next_of _ _ (by decide +kernel), by decide +kernel⟩,
    ⟨(Or.inr (Or.inr (Or.inr ⟨rfl, by unfold Stalled; decide +kernel⟩))), next_of _ _ (by decide +kernel), by decide +kernel⟩⟩

theorem witness_OpticIssueFrame :
    ((fun (c : Instr) (o : Nat) (e : Nat) (s : State) (t : State) (g : Core) (st : Str) (w : IWord) =>
      ((c = .loadw g st ∧ o = 0x30 ∧ e = fld w 12 2) ∨ (c = .mvm g st ∧ o = 0x31 ∧ e = fld w 72 2) ∨ (c = .flip g st ∧ o = 0x32 ∧ e = fld w 8 2))
      ∧ Issues s g st o w
      ∧ exec c s = .next t
      ∧ (strm t g st).state = .running) (.loadw 0 1) 48 3 (withStream 1 (atWord (0x3030))) (nextOf (exec (.loadw 0 1) (withStream 1 (atWord (0x3030)))) (withStream 1 (atWord (0x3030)))) 0 1 0x3030)
    ∧ ((fun (c : Instr) (o : Nat) (e : Nat) (s : State) (t : State) (g : Core) (st : Str) (w : IWord) =>
      ((c = .loadw g st ∧ o = 0x30 ∧ e = fld w 12 2) ∨ (c = .mvm g st ∧ o = 0x31 ∧ e = fld w 72 2) ∨ (c = .flip g st ∧ o = 0x32 ∧ e = fld w 8 2))
      ∧ Issues s g st o w
      ∧ exec c s = .next t
      ∧ (strm t g st).state = .running) (.mvm 0 1) 49 3 (withStream 1 (atWord (0x31 + 3 * 2 ^ 72 + 2 ^ 24 + 66 * 2 ^ 40 + 128 * 2 ^ 56 + 8 * 2 ^ 78))) (nextOf (exec (.mvm 0 1) (withStream 1 (atWord (0x31 + 3 * 2 ^ 72 + 2 ^ 24 + 66 * 2 ^ 40 + 128 * 2 ^ 56 + 8 * 2 ^ 78)))) (withStream 1 (atWord (0x31 + 3 * 2 ^ 72 + 2 ^ 24 + 66 * 2 ^ 40 + 128 * 2 ^ 56 + 8 * 2 ^ 78)))) 0 1 (0x31 + 3 * 2 ^ 72 + 2 ^ 24 + 66 * 2 ^ 40 + 128 * 2 ^ 56 + 8 * 2 ^ 78))
    ∧ ((fun (c : Instr) (o : Nat) (e : Nat) (s : State) (t : State) (g : Core) (st : Str) (w : IWord) =>
      ((c = .loadw g st ∧ o = 0x30 ∧ e = fld w 12 2) ∨ (c = .mvm g st ∧ o = 0x31 ∧ e = fld w 72 2) ∨ (c = .flip g st ∧ o = 0x32 ∧ e = fld w 8 2))
      ∧ Issues s g st o w
      ∧ exec c s = .next t
      ∧ (strm t g st).state = .running) (.flip 0 1) 50 3 (withStream 1 (atWord (0x332))) (nextOf (exec (.flip 0 1) (withStream 1 (atWord (0x332)))) (withStream 1 (atWord (0x332)))) 0 1 0x332) := by
  refine ⟨⟨(Or.inl ⟨rfl, by decide +kernel, by decide +kernel⟩), by unfold Issues; decide +kernel, next_of _ _ (by decide +kernel), by decide +kernel⟩,
    ⟨(Or.inr (Or.inl ⟨rfl, by decide +kernel, by decide +kernel⟩)), by unfold Issues; decide +kernel, next_of _ _ (by decide +kernel), by decide +kernel⟩,
    ⟨(Or.inr (Or.inr ⟨rfl, by decide +kernel, by decide +kernel⟩)), by unfold Issues; decide +kernel, next_of _ _ (by decide +kernel), by decide +kernel⟩⟩

theorem witness_LongIssueFrame :
    ((fun (c : Instr) (o : Nat) (s : State) (t : State) (g : Core) (st : Str) (w : IWord) =>
      ((c = .get g st ∧ o = 0x10 ∧ xferPieces s (whoStream s (core s g).ctx s.hst.edition) g (getXfer (strm s g st).sregs w) false = []) ∨ (c = .put g st ∧ o = 0x20 ∧ xferPieces s (whoStream s (core s g).ctx s.hst.edition) g (putXfer (strm s g st).sregs w) true = []) ∨ (c = .vew g st ∧ o = 0x40) ∨ (c = .vfma g st ∧ o = 0x41) ∨ (c = .vun g st ∧ o = 0x42) ∨ (c = .vred g st ∧ o = 0x43) ∨ (c = .vcvt g st ∧ o = 0x44) ∨ (c = .vmm g st ∧ o = 0x45))
      ∧ Issues s g st o w
      ∧ exec c s = .next t
      ∧ (strm t g st).state = .running) (.get 0 0) 16 (withStream 0 (atWord (0x10 + 16 * 65536))) (nextOf (exec (.get 0 0) (withStream 0 (atWord (0x10 + 16 * 65536)))) (withStream 0 (atWord (0x10 + 16 * 65536)))) 0 0 (0x10 + 16 * 65536))
    ∧ ((fun (c : Instr) (o : Nat) (s : State) (t : State) (g : Core) (st : Str) (w : IWord) =>
      ((c = .get g st ∧ o = 0x10 ∧ xferPieces s (whoStream s (core s g).ctx s.hst.edition) g (getXfer (strm s g st).sregs w) false = []) ∨ (c = .put g st ∧ o = 0x20 ∧ xferPieces s (whoStream s (core s g).ctx s.hst.edition) g (putXfer (strm s g st).sregs w) true = []) ∨ (c = .vew g st ∧ o = 0x40) ∨ (c = .vfma g st ∧ o = 0x41) ∨ (c = .vun g st ∧ o = 0x42) ∨ (c = .vred g st ∧ o = 0x43) ∨ (c = .vcvt g st ∧ o = 0x44) ∨ (c = .vmm g st ∧ o = 0x45))
      ∧ Issues s g st o w
      ∧ exec c s = .next t
      ∧ (strm t g st).state = .running) (.put 0 3) 32 (withStream 3 (atWord (0x20 + 16 * 65536))) (nextOf (exec (.put 0 3) (withStream 3 (atWord (0x20 + 16 * 65536)))) (withStream 3 (atWord (0x20 + 16 * 65536)))) 0 3 (0x20 + 16 * 65536))
    ∧ ((fun (c : Instr) (o : Nat) (s : State) (t : State) (g : Core) (st : Str) (w : IWord) =>
      ((c = .get g st ∧ o = 0x10 ∧ xferPieces s (whoStream s (core s g).ctx s.hst.edition) g (getXfer (strm s g st).sregs w) false = []) ∨ (c = .put g st ∧ o = 0x20 ∧ xferPieces s (whoStream s (core s g).ctx s.hst.edition) g (putXfer (strm s g st).sregs w) true = []) ∨ (c = .vew g st ∧ o = 0x40) ∨ (c = .vfma g st ∧ o = 0x41) ∨ (c = .vun g st ∧ o = 0x42) ∨ (c = .vred g st ∧ o = 0x43) ∨ (c = .vcvt g st ∧ o = 0x44) ∨ (c = .vmm g st ∧ o = 0x45))
      ∧ Issues s g st o w
      ∧ exec c s = .next t
      ∧ (strm t g st).state = .running) (.vew 0 2) 64 (withStream 2 (atWord (0x10000040))) (nextOf (exec (.vew 0 2) (withStream 2 (atWord (0x10000040)))) (withStream 2 (atWord (0x10000040)))) 0 2 0x10000040)
    ∧ ((fun (c : Instr) (o : Nat) (s : State) (t : State) (g : Core) (st : Str) (w : IWord) =>
      ((c = .get g st ∧ o = 0x10 ∧ xferPieces s (whoStream s (core s g).ctx s.hst.edition) g (getXfer (strm s g st).sregs w) false = []) ∨ (c = .put g st ∧ o = 0x20 ∧ xferPieces s (whoStream s (core s g).ctx s.hst.edition) g (putXfer (strm s g st).sregs w) true = []) ∨ (c = .vew g st ∧ o = 0x40) ∨ (c = .vfma g st ∧ o = 0x41) ∨ (c = .vun g st ∧ o = 0x42) ∨ (c = .vred g st ∧ o = 0x43) ∨ (c = .vcvt g st ∧ o = 0x44) ∨ (c = .vmm g st ∧ o = 0x45))
      ∧ Issues s g st o w
      ∧ exec c s = .next t
      ∧ (strm t g st).state = .running) (.vfma 0 2) 65 (withStream 2 (atWord (0x10000041))) (nextOf (exec (.vfma 0 2) (withStream 2 (atWord (0x10000041)))) (withStream 2 (atWord (0x10000041)))) 0 2 0x10000041)
    ∧ ((fun (c : Instr) (o : Nat) (s : State) (t : State) (g : Core) (st : Str) (w : IWord) =>
      ((c = .get g st ∧ o = 0x10 ∧ xferPieces s (whoStream s (core s g).ctx s.hst.edition) g (getXfer (strm s g st).sregs w) false = []) ∨ (c = .put g st ∧ o = 0x20 ∧ xferPieces s (whoStream s (core s g).ctx s.hst.edition) g (putXfer (strm s g st).sregs w) true = []) ∨ (c = .vew g st ∧ o = 0x40) ∨ (c = .vfma g st ∧ o = 0x41) ∨ (c = .vun g st ∧ o = 0x42) ∨ (c = .vred g st ∧ o = 0x43) ∨ (c = .vcvt g st ∧ o = 0x44) ∨ (c = .vmm g st ∧ o = 0x45))
      ∧ Issues s g st o w
      ∧ exec c s = .next t
      ∧ (strm t g st).state = .running) (.vun 0 2) 66 (withStream 2 (atWord (0x10000042))) (nextOf (exec (.vun 0 2) (withStream 2 (atWord (0x10000042)))) (withStream 2 (atWord (0x10000042)))) 0 2 0x10000042)
    ∧ ((fun (c : Instr) (o : Nat) (s : State) (t : State) (g : Core) (st : Str) (w : IWord) =>
      ((c = .get g st ∧ o = 0x10 ∧ xferPieces s (whoStream s (core s g).ctx s.hst.edition) g (getXfer (strm s g st).sregs w) false = []) ∨ (c = .put g st ∧ o = 0x20 ∧ xferPieces s (whoStream s (core s g).ctx s.hst.edition) g (putXfer (strm s g st).sregs w) true = []) ∨ (c = .vew g st ∧ o = 0x40) ∨ (c = .vfma g st ∧ o = 0x41) ∨ (c = .vun g st ∧ o = 0x42) ∨ (c = .vred g st ∧ o = 0x43) ∨ (c = .vcvt g st ∧ o = 0x44) ∨ (c = .vmm g st ∧ o = 0x45))
      ∧ Issues s g st o w
      ∧ exec c s = .next t
      ∧ (strm t g st).state = .running) (.vred 0 2) 67 (withStream 2 (atWord (0x10000043 + 2 ^ 72))) (nextOf (exec (.vred 0 2) (withStream 2 (atWord (0x10000043 + 2 ^ 72)))) (withStream 2 (atWord (0x10000043 + 2 ^ 72)))) 0 2 (0x10000043 + 2 ^ 72))
    ∧ ((fun (c : Instr) (o : Nat) (s : State) (t : State) (g : Core) (st : Str) (w : IWord) =>
      ((c = .get g st ∧ o = 0x10 ∧ xferPieces s (whoStream s (core s g).ctx s.hst.edition) g (getXfer (strm s g st).sregs w) false = []) ∨ (c = .put g st ∧ o = 0x20 ∧ xferPieces s (whoStream s (core s g).ctx s.hst.edition) g (putXfer (strm s g st).sregs w) true = []) ∨ (c = .vew g st ∧ o = 0x40) ∨ (c = .vfma g st ∧ o = 0x41) ∨ (c = .vun g st ∧ o = 0x42) ∨ (c = .vred g st ∧ o = 0x43) ∨ (c = .vcvt g st ∧ o = 0x44) ∨ (c = .vmm g st ∧ o = 0x45))
      ∧ Issues s g st o w
      ∧ exec c s = .next t
      ∧ (strm t g st).state = .running) (.vcvt 0 2) 68 (withStream 2 (atWord (0x10000044))) (nextOf (exec (.vcvt 0 2) (withStream 2 (atWord (0x10000044)))) (withStream 2 (atWord (0x10000044)))) 0 2 0x10000044)
    ∧ ((fun (c : Instr) (o : Nat) (s : State) (t : State) (g : Core) (st : Str) (w : IWord) =>
      ((c = .get g st ∧ o = 0x10 ∧ xferPieces s (whoStream s (core s g).ctx s.hst.edition) g (getXfer (strm s g st).sregs w) false = []) ∨ (c = .put g st ∧ o = 0x20 ∧ xferPieces s (whoStream s (core s g).ctx s.hst.edition) g (putXfer (strm s g st).sregs w) true = []) ∨ (c = .vew g st ∧ o = 0x40) ∨ (c = .vfma g st ∧ o = 0x41) ∨ (c = .vun g st ∧ o = 0x42) ∨ (c = .vred g st ∧ o = 0x43) ∨ (c = .vcvt g st ∧ o = 0x44) ∨ (c = .vmm g st ∧ o = 0x45))
      ∧ Issues s g st o w
      ∧ exec c s = .next t
      ∧ (strm t g st).state = .running) (.vmm 0 2) 69 (withStream 2 (atWord (0x45))) (nextOf (exec (.vmm 0 2) (withStream 2 (atWord (0x45)))) (withStream 2 (atWord (0x45)))) 0 2 0x45) := by
  refine ⟨⟨(Or.inl ⟨rfl, by decide +kernel, by decide +kernel⟩), by unfold Issues; decide +kernel, next_of _ _ (by decide +kernel), by decide +kernel⟩,
    ⟨(Or.inr (Or.inl ⟨rfl, by decide +kernel, by decide +kernel⟩)), by unfold Issues; decide +kernel, next_of _ _ (by decide +kernel), by decide +kernel⟩,
    ⟨(Or.inr (Or.inr (Or.inl ⟨rfl, by decide +kernel⟩))), by unfold Issues; decide +kernel, next_of _ _ (by decide +kernel), by decide +kernel⟩,
    ⟨(Or.inr (Or.inr (Or.inr (Or.inl ⟨rfl, by decide +kernel⟩)))), by unfold Issues; decide +kernel, next_of _ _ (by decide +kernel), by decide +kernel⟩,
    ⟨(Or.inr (Or.inr (Or.inr (Or.inr (Or.inl ⟨rfl, by decide +kernel⟩))))), by unfold Issues; decide +kernel, next_of _ _ (by decide +kernel), by decide +kernel⟩,
    ⟨(Or.inr (Or.inr (Or.inr (Or.inr (Or.inr (Or.inl ⟨rfl, by decide +kernel⟩)))))), by unfold Issues; decide +kernel, next_of _ _ (by decide +kernel), by decide +kernel⟩,
    ⟨(Or.inr (Or.inr (Or.inr (Or.inr (Or.inr (Or.inr (Or.inl ⟨rfl, by decide +kernel⟩))))))), by unfold Issues; decide +kernel, next_of _ _ (by decide +kernel), by decide +kernel⟩,
    ⟨(Or.inr (Or.inr (Or.inr (Or.inr (Or.inr (Or.inr (Or.inr ⟨rfl, by decide +kernel⟩))))))), by unfold Issues; decide +kernel, next_of _ _ (by decide +kernel), by decide +kernel⟩⟩

theorem witness_TransferMemoryFrame :
    ((fun (c : Instr) (s : State) (t : State) (g : Core) (i : Nat) (len : Nat) (op : LongOp) (ps : List (Nat × Nat)) (a : Nat) =>
      (c = .getComplete g i .clean ∧ outstAt s g 0 i 0x10 = some op ∧ len = (getXfer op.sregs op.word).len ∧ ps = xferPairs s (whoStream s op.ctx op.edition) g (getXfer op.sregs op.word) false ∨ c = .putComplete g i .clean ∧ outstAt s g 3 i 0x20 = some op ∧ len = (putXfer op.sregs op.word).len ∧ ps = xferPairs s (whoStream s op.ctx op.edition) g (putXfer op.sregs op.word) true)
      ∧ exec c s = .next t
      ∧ (ps.findSome? fun p => badByte (ddrReady ps len s) p.1 len) = none
      ∧ a < 2 ^ 64
      ∧ (∀ p ∈ ps, a < p.2 ∨ p.2 + len ≤ a)
      ∧ (∀ z ∈ s.ddr.zeroing, a < z.2.1 ∨ z.2.1 + z.2.2 ≤ a)) (.getComplete 0 0 .clean) (withStream 0 { state := .running, outst := [⟨0x10 + 16 * 65536, 0x1000, [], 0, 0, 0, 0, 0, 0, none⟩] }) (nextOf (exec (.getComplete 0 0 .clean) (withStream 0 { state := .running, outst := [⟨0x10 + 16 * 65536, 0x1000, [], 0, 0, 0, 0, 0, 0, none⟩] })) (withStream 0 { state := .running, outst := [⟨0x10 + 16 * 65536, 0x1000, [], 0, 0, 0, 0, 0, 0, none⟩] })) 0 0 16 (⟨0x10 + 16 * 65536, 0x1000, [], 0, 0, 0, 0, 0, 0, none⟩) (xferPairs (withStream 0 { state := .running, outst := [⟨0x10 + 16 * 65536, 0x1000, [], 0, 0, 0, 0, 0, 0, none⟩] }) (whoStream (withStream 0 { state := .running, outst := [⟨0x10 + 16 * 65536, 0x1000, [], 0, 0, 0, 0, 0, 0, none⟩] }) 0 0) 0 (getXfer [] (0x10 + 16 * 65536)) false) 0x1000)
    ∧ ((fun (c : Instr) (s : State) (t : State) (g : Core) (i : Nat) (len : Nat) (op : LongOp) (ps : List (Nat × Nat)) (a : Nat) =>
      (c = .getComplete g i .clean ∧ outstAt s g 0 i 0x10 = some op ∧ len = (getXfer op.sregs op.word).len ∧ ps = xferPairs s (whoStream s op.ctx op.edition) g (getXfer op.sregs op.word) false ∨ c = .putComplete g i .clean ∧ outstAt s g 3 i 0x20 = some op ∧ len = (putXfer op.sregs op.word).len ∧ ps = xferPairs s (whoStream s op.ctx op.edition) g (putXfer op.sregs op.word) true)
      ∧ exec c s = .next t
      ∧ (ps.findSome? fun p => badByte (ddrReady ps len s) p.1 len) = none
      ∧ a < 2 ^ 64
      ∧ (∀ p ∈ ps, a < p.2 ∨ p.2 + len ≤ a)
      ∧ (∀ z ∈ s.ddr.zeroing, a < z.2.1 ∨ z.2.1 + z.2.2 ≤ a)) (.putComplete 0 0 .clean) (withStream 3 { state := .running, outst := [⟨0x20 + 16 * 65536, 0x1000, [], 0, 0, 0, 0, 0, 0, none⟩] }) (nextOf (exec (.putComplete 0 0 .clean) (withStream 3 { state := .running, outst := [⟨0x20 + 16 * 65536, 0x1000, [], 0, 0, 0, 0, 0, 0, none⟩] })) (withStream 3 { state := .running, outst := [⟨0x20 + 16 * 65536, 0x1000, [], 0, 0, 0, 0, 0, 0, none⟩] })) 0 0 16 (⟨0x20 + 16 * 65536, 0x1000, [], 0, 0, 0, 0, 0, 0, none⟩) (xferPairs (withStream 3 { state := .running, outst := [⟨0x20 + 16 * 65536, 0x1000, [], 0, 0, 0, 0, 0, 0, none⟩] }) (whoStream (withStream 3 { state := .running, outst := [⟨0x20 + 16 * 65536, 0x1000, [], 0, 0, 0, 0, 0, 0, none⟩] }) 0 0) 0 (putXfer [] (0x20 + 16 * 65536)) true) 0x1000) := by
  refine ⟨by refine ⟨(Or.inl ⟨rfl, by decide +kernel, by decide +kernel, by rfl⟩), next_of _ _ (by decide +kernel), ?_, ?_, ?_, ?_⟩ <;> decide +kernel,
    by refine ⟨(Or.inr ⟨rfl, by decide +kernel, by decide +kernel, by rfl⟩), next_of _ _ (by decide +kernel), ?_, ?_, ?_, ?_⟩ <;> decide +kernel⟩

theorem witness_OperandFaults :
    ((fun (s : State) (g : Core) (st : Str) (w : IWord) =>
      Issues s g st 7 w
      ∧ 10 ≤ fld w 20 4) (withStream 0 (atWord (0xA00007))) 0 0 0xA00007)
    ∧ ((fun (s : State) (g : Core) (st : Str) (w : IWord) =>
      Issues s g st 8 w
      ∧ 7 ≤ fld w 20 4) (withStream 0 (atWord (0x700008))) 0 0 0x700008)
    ∧ ((fun (s : State) (g : Core) (st : Str) (w : IWord) =>
      Issues s g st 9 w
      ∧ 7 ≤ fld w 16 8) (withStream 0 (atWord (0x70009))) 0 0 0x70009)
    ∧ ((fun (s : State) (g : Core) (st : Str) (w : IWord) =>
      Issues s g st 0x10 w
      ∧ fld w 16 24 = 0) (withStream 0 (atWord (0x10))) 0 0 0x10)
    ∧ ((fun (s : State) (g : Core) (st : Str) (w : IWord) =>
      Issues s g st 0x20 w
      ∧ fld w 16 24 = 0) (withStream 3 (atWord (0x20))) 0 3 0x20)
    ∧ ((fun (s : State) (g : Core) (st : Str) (w : IWord) =>
      Issues s g st 0x20 w
      ∧ fld w 16 24 ≠ 0
      ∧ bit w 112 = true
      ∧ tokenDest s (core s g).ctx (putXfer (strm s g st).sregs w).da = false) (withStream 3 (atWord (0x20 + 65536 + 2 ^ 112))) 0 3 (0x20 + 65536 + 2 ^ 112))
    ∧ ((fun (s : State) (g : Core) (st : Str) (w : IWord) =>
      Issues s g st 4 w
      ∧ (ctx s (core s g).ctx).map.length ≤ fld w 24 8) (withStream 0 (atWord (4))) 0 0 4) := by
  refine ⟨⟨by unfold Issues; decide +kernel, by decide +kernel⟩,
    ⟨by unfold Issues; decide +kernel, by decide +kernel⟩,
    ⟨by unfold Issues; decide +kernel, by decide +kernel⟩,
    ⟨by unfold Issues; decide +kernel, by decide +kernel⟩,
    ⟨by unfold Issues; decide +kernel, by decide +kernel⟩,
    by refine ⟨by unfold Issues; decide +kernel, ?_, ?_, ?_⟩ <;> decide +kernel,
    ⟨by unfold Issues; decide +kernel, by decide +kernel⟩⟩

theorem witness_HeldWrites :
    ((fun (c : Instr) (s : State) (off : Nat) (v : Word) =>
      WriteRow c s off v
      ∧ blockHeld s off = true) (.coreTqCfgWrite 0 0 5) State.reset (coreBase 0 + 0x100) 5)
    ∧ ((fun (c : Instr) (s : State) (off : Nat) (v : Word) =>
      WriteRow c s off v
      ∧ blockHeld s off = true) (.tqClear 0 0 1) State.reset (coreBase 0 + 0x10C) 1)
    ∧ ((fun (c : Instr) (s : State) (off : Nat) (v : Word) =>
      WriteRow c s off v
      ∧ blockHeld s off = true) (.start 0 0 0x80000000) State.reset (coreBase 0 + 0x200) 0x80000000)
    ∧ ((fun (c : Instr) (s : State) (off : Nat) (v : Word) =>
      WriteRow c s off v
      ∧ blockHeld s off = true) (.stop 0 0 0x40000000) State.reset (coreBase 0 + 0x200) 0x40000000)
    ∧ ((fun (c : Instr) (s : State) (off : Nat) (v : Word) =>
      WriteRow c s off v
      ∧ blockHeld s off = true) (.oteRowSelWrite 0 0 5) State.reset (coreBase 0 + oteOff 0 0x10) 5)
    ∧ ((fun (c : Instr) (s : State) (off : Nat) (v : Word) =>
      WriteRow c s off v
      ∧ blockHeld s off = true) (.oteChanSelWrite 0 0 5) State.reset (coreBase 0 + oteOff 0 0x20) 5)
    ∧ ((fun (c : Instr) (s : State) (off : Nat) (v : Word) =>
      WriteRow c s off v
      ∧ blockHeld s off = true) (.cluCombGo 0 5) State.reset (cluBase 0 + 0x2020) 5)
    ∧ ((fun (c : Instr) (s : State) (off : Nat) (v : Word) =>
      WriteRow c s off v
      ∧ blockHeld s off = true) (.copyListRestart 0 5) State.reset (cluBase 0 + 0x1040) 5)
    ∧ ((fun (c : Instr) (s : State) (off : Nat) (v : Word) =>
      WriteRow c s off v
      ∧ blockHeld s off = true) (.fabTapSelWrite 0 5) State.reset 0x100200 5)
    ∧ ((fun (c : Instr) (s : State) (off : Nat) (v : Word) =>
      WriteRow c s off v
      ∧ blockHeld s off = true) (.ringEnable 0) State.reset 0x20018 1)
    ∧ ((fun (c : Instr) (s : State) (off : Nat) (v : Word) =>
      WriteRow c s off v
      ∧ blockHeld s off = true) (.ringDisable 0) State.reset 0x20018 0)
    ∧ ((fun (c : Instr) (s : State) (off : Nat) (v : Word) =>
      WriteRow c s off v
      ∧ blockHeld s off = true) (.dumpClear 1) State.reset 0x80020 1)
    ∧ ((fun (c : Instr) (s : State) (off : Nat) (v : Word) =>
      WriteRow c s off v
      ∧ blockHeld s off = true) (.rstHangCfgWrite 5) State.reset 0x80008 5)
    ∧ ((fun (c : Instr) (s : State) (off : Nat) (v : Word) =>
      WriteRow c s off v
      ∧ blockHeld s off = true) (.clrExtremes 1) State.reset 0x70014 1)
    ∧ ((fun (c : Instr) (s : State) (off : Nat) (v : Word) =>
      WriteRow c s off v
      ∧ blockHeld s off = true) (.locate 1) State.reset 0x40000C 1)
    ∧ ((fun (c : Instr) (s : State) (off : Nat) (v : Word) =>
      WriteRow c s off v
      ∧ blockHeld s off = true) (.snapshotCmd 1) State.reset 0x060000 1)
    ∧ ((fun (c : Instr) (s : State) (off : Nat) (v : Word) =>
      WriteRow c s off v
      ∧ blockHeld s off = true) (.samplingEnable 1) State.reset 0x060020 1)
    ∧ ((fun (c : Instr) (s : State) (off : Nat) (v : Word) =>
      WriteRow c s off v
      ∧ blockHeld s off = true) (.samplingDisable 0) State.reset 0x060020 0)
    ∧ ((fun (c : Instr) (s : State) (off : Nat) (v : Word) =>
      WriteRow c s off v
      ∧ blockHeld s off = true) (.protCommit 1) State.reset 0 1)
    ∧ ((fun (c : Instr) (s : State) (off : Nat) (v : Word) =>
      WriteRow c s off v
      ∧ blockHeld s off = true) (.ethPortEnable 0) State.reset (ethOff 0 0) (orBit (eth State.reset 0).ctl 31))
    ∧ ((fun (s : State) (off : Nat) =>
      BarOpen s
      ∧ refusal s off 1 0xF = 0
      ∧ blockHeld s off = true) State.reset 0x20018) := by
  refine ⟨⟨by simp [WriteRow], by decide +kernel⟩,
    ⟨by simp [WriteRow], by decide +kernel⟩,
    ⟨by simp [WriteRow], by decide +kernel⟩,
    ⟨by simp [WriteRow], by decide +kernel⟩,
    ⟨by simp [WriteRow], by decide +kernel⟩,
    ⟨by simp [WriteRow], by decide +kernel⟩,
    ⟨by simp [WriteRow], by decide +kernel⟩,
    ⟨by simp [WriteRow], by decide +kernel⟩,
    ⟨by simp [WriteRow], by decide +kernel⟩,
    ⟨by simp [WriteRow], by decide +kernel⟩,
    ⟨by simp [WriteRow], by decide +kernel⟩,
    ⟨by simp [WriteRow], by decide +kernel⟩,
    ⟨by simp [WriteRow], by decide +kernel⟩,
    ⟨by simp [WriteRow], by decide +kernel⟩,
    ⟨by simp [WriteRow], by decide +kernel⟩,
    ⟨by simp [WriteRow], by decide +kernel⟩,
    ⟨by simp [WriteRow], by decide +kernel⟩,
    ⟨by simp [WriteRow], by decide +kernel⟩,
    ⟨by simp [WriteRow], by decide +kernel⟩,
    ⟨by simp [WriteRow], by decide +kernel⟩,
    ⟨by unfold BarOpen; decide +kernel, by decide +kernel, by decide +kernel⟩⟩

theorem witness_MaskedWrite :
    ((fun (s : State) =>
      BarOpen s
      ∧ refusal s 0x10204 1 0xF = 0
      ∧ blockHeld s 0x10204 = false) up)
    ∧ ((fun (s : State) =>
      BarOpen s
      ∧ refusal s 0x10204 1 0xF = 0
      ∧ blockHeld s 0x10204 = false) up) := by
  refine ⟨⟨by unfold BarOpen; decide +kernel, by decide +kernel, by decide +kernel⟩,
    ⟨by unfold BarOpen; decide +kernel, by decide +kernel, by decide +kernel⟩⟩

end Sys2Proof.Machine.Tests
end

section
/-! Token queues (02_cores_clusters_queues.md, R26 to R30): what the operations on a queue leave in it and in the streams, what each row of
the queues answers, and the three statements of the chapter's rules. -/

namespace Sys2Proof.Machine

/-! ### Reading a core back through a fault bit, a record and a stall -/

theorem core_coreFault_same (g i : Nat) (s : State) :
    core (coreFault g i s) g = { core s g with fault := orBit (core s g).fault i } := by
  unfold coreFault
  simp only [updCore_eq, core_setCore, if_true]

theorem core_fault_setQueue (g q x : Nat) (k : TokQueue) (s : State) : (core (setQueue g q k s) x).fault = (core s x).fault := by
  rw [core_setQueue]
  split
  · rename_i h; rw [h]
  · rfl

@[simp] theorem core_logCore (g low p0 p1 p2 p3 x : Nat) (s : State) : core (logCore g low p0 p1 p2 p3 s) x = core s x :=
  core_of_cores (by simp) x
@[simp] theorem strm_logCore (g low p0 p1 p2 p3 x y : Nat) (s : State) : strm (logCore g low p0 p1 p2 p3 s) x y = strm s x y :=
  strm_of_cores (by simp) x y
@[simp] theorem queue_logCore (g low p0 p1 p2 p3 x y : Nat) (s : State) : queue (logCore g low p0 p1 p2 p3 s) x y = queue s x y :=
  queue_of_cores (by simp) x y

@[simp] theorem core_lateDrop (c x : Nat) (gen : Byte) (s : State) : core (lateDrop c gen s) x = core s x := core_of_cores (by simp) x
@[simp] theorem strm_lateDrop (c x y : Nat) (gen : Byte) (s : State) : strm (lateDrop c gen s) x y = strm s x y := strm_of_cores (by simp) x y
@[simp] theorem queue_lateDrop (c x y : Nat) (gen : Byte) (s : State) : queue (lateDrop c gen s) x y = queue s x y := queue_of_cores (by simp) x y

theorem strm_stallAt_same (g st code q : Nat) (s : State) : strm (stallAt g st code q s) g st = { strm s g st with
    stall := code, stallQ := q, stallAt := if (strm s g st).stall = code then (strm s g st).stallAt else s.now,
    stall0 := if (strm s g st).stall0 = 0 then code else (strm s g st).stall0 } := by
  unfold stallAt
  rw [updStrm_eq, strm_setStrm_same]

@[simp] theorem queue_stallAt (g st code q x y : Nat) (s : State) : queue (stallAt g st code q s) x y = queue s x y := by
  unfold stallAt
  rw [updStrm_eq, queue_setStrm]

@[simp] theorem queue_withdrawSync (g st x y : Nat) (s : State) : queue (withdrawSync g st s) x y = queue s x y := by
  unfold withdrawSync
  dsimp only
  split
  · rw [updStrm_eq, queue_setStrm, updCtx_eq]
    exact queue_of_cores rfl x y
  · rfl

@[simp] theorem queue_enableLost (off at_ state x y : Nat) (s : State) : queue (enableLost off at_ state s) x y = queue s x y :=
  queue_of_cores ((logRec_law ..).1 .cores (by decide)) x y
@[simp] theorem queue_completeAwaits (c status x y : Nat) (result : List Byte) (s : State) : queue (completeAwaits c status result s) x y = queue s x y :=
  queue_of_cores ((completeAwaits_law ..).1 .cores (by decide)) x y
@[simp] theorem queue_postEvent (code source : Nat) (c : Option Nat) (p0 p1 p2 p3 x y : Nat) (s : State) :
    queue (postEvent code source c p0 p1 p2 p3 s) x y = queue s x y := queue_of_cores (by simp) x y

/-- A stream's fault leaves every token queue as it was (R126). -/
@[simp] theorem queue_strFault (g st cause info : Nat) (atIssue : Bool) (opc : Nat) (pc : Word) (s : State) (x y : Nat) :
    queue (strFault g st cause info atIssue opc pc s) x y = queue s x y := by
  unfold strFault
  dsimp only
  split_ifs <;> simp only [queue_postEvent, queue_completeAwaits, queue_setStrm, queue_enableLost, queue_logCore, queue_withdrawSync]

/-! ### A record that the logbook's input queue has room for (R376) -/

theorem logRec_of_room (code source p0 p1 p2 p3 : Nat) (s : State) (h : s.log.queue.length < 256) :
    logRec code source p0 p1 p2 p3 s = { s with log := { s.log with queue := s.log.queue ++
      [⟨s.time.ns, BitVec.ofNat 16 code, BitVec.ofNat 16 source, BitVec.ofNat 32 p0, BitVec.ofNat 32 p1, BitVec.ofNat 32 p2, BitVec.ofNat 32 p3⟩] } } := by
  unfold logRec
  exact if_pos h

/-- The code of an event by its half (R43). -/
theorem ofNat_hcode (half low : Nat) :
    BitVec.ofNat 16 (hcode half low) = if half = 0 then BitVec.ofNat 16 (0x8000 + low) else BitVec.ofNat 16 (0xC000 + low) := by
  unfold hcode
  split <;> rfl

/-- A record of a core event whose queue held `l` before stands behind `l`, with the code of the core's half (R43). -/
theorem logCore_appends (g low p0 p1 p2 p3 : Nat) {l : LogSt} {s : State} (hsame : s.log = l) (hroom : l.queue.length < 256) :
    ∃ x, (logCore g low p0 p1 p2 p3 s).log.queue = l.queue ++ [x]
      ∧ x.code = if coreHalf g = 0 then BitVec.ofNat 16 (0x8000 + low) else BitVec.ofNat 16 (0xC000 + low) := by
  subst hsame
  unfold logCore
  rw [logRec_of_room _ _ _ _ _ _ _ hroom]
  exact ⟨_, rfl, ofNat_hcode ..⟩

theorem lateDrop_count (c : Nat) (gen : Byte) (s : State) : (lateDrop c gen s).rst.lateDrop = incSat s.rst.lateDrop 1 := by
  unfold lateDrop
  dsimp only
  split
  · rw [logRec_rst, rateMark_rst]
  · rfl

/-! ### Tokens put into a queue and taken out of it (R26, R28) -/

theorem queue_appendToken_same (g q : Nat) (v : Word) (s : State) :
    queue (appendToken g q v s) g q = { queue s g q with toks := (queue s g q).toks ++ [v] } := by
  unfold appendToken
  rw [queue_countCore, queue_setQueue_same]

@[simp] theorem strm_appendToken (g q x y : Nat) (v : Word) (s : State) : strm (appendToken g q v s) x y = strm s x y := by
  unfold appendToken
  rw [strm_countCore, strm_setQueue]

@[simp] theorem core_fault_appendToken (g q x : Nat) (v : Word) (s : State) : (core (appendToken g q v s) x).fault = (core s x).fault := by
  unfold appendToken
  rw [core_countCore, core_fault_setQueue]

theorem queue_rejectToken_same (g q : Nat) (s : State) :
    queue (rejectToken g q s) g q = { queue s g q with rej := satAdd 255 (queue s g q).rej 1 } := by
  unfold rejectToken
  rw [queue_coreFault, queue_countCore, queue_setQueue_same]

@[simp] theorem strm_rejectToken (g q x y : Nat) (s : State) : strm (rejectToken g q s) x y = strm s x y := by
  unfold rejectToken
  rw [strm_coreFault, strm_countCore, strm_setQueue]

theorem core_fault_rejectToken (g q : Nat) (s : State) : (core (rejectToken g q s) g).fault = orBit (core s g).fault 8 := by
  unfold rejectToken
  rw [core_coreFault_same, core_countCore, core_fault_setQueue]

@[simp] theorem rejectToken_rst (g q : Nat) (s : State) : (rejectToken g q s).rst = s.rst := by
  unfold rejectToken
  simp

/-- A stream that runs goes on by one instruction, whatever its instruction did besides. -/
theorem advanced_issued {s u : State} {g st : Nat} (hrun : (strm u g st).state = .running) (hpc : (strm u g st).pc = (strm s g st).pc) :
    Advanced s (issued g st u) g st := by
  unfold Advanced
  simp [hrun, hpc]

/-- A token appended by the stream itself: it goes on, the token is the queue's last. -/
theorem issued_appendToken {s : State} {g st : Nat} (hrun : (strm s g st).state = .running) (q : Nat) (v : Word) :
    Advanced s (issued g st (appendToken g q v s)) g st
      ∧ (queue (issued g st (appendToken g q v s)) g q).toks = (queue s g q).toks ++ [v] := by
  have hstrm := strm_appendToken g q g st v s
  exact ⟨advanced_issued (by rw [hstrm, hrun]) (by rw [hstrm]), by rw [queue_issued, queue_appendToken_same]⟩

/-- The head token taken: the stream goes on, the rest of the queue stays, s[D] holds the token (s0 stays 0). -/
theorem takeToken_of_cons {s : State} {g st q d : Nat} {v : Word} {vs : List Word} (hrun : (strm s g st).state = .running)
    (htoks : (queue s g q).toks = v :: vs) :
    Advanced s (takeToken g st q d s) g st ∧ (queue (takeToken g st q d s) g q).toks = vs
      ∧ sreg (strm (takeToken g st q d s) g st).sregs d = if d = 0 then 0 else v.setWidth 64 := by
  unfold takeToken
  dsimp only
  rw [htoks, List.headD_cons, List.tail_cons, updStrm_eq, strm_setQueue]
  refine ⟨advanced_issued ?_ ?_, ?_, ?_⟩
  · rw [strm_setStrm_same, setSreg_state, hrun]
  · rw [strm_setStrm_same, setSreg_pc]
  · rw [queue_issued, queue_setStrm, queue_setQueue_same]
  · rw [strm_issued, if_pos ⟨rfl, rfl⟩, slide_sregs, strm_setStrm_same, sreg_setSreg, if_pos rfl]

/-- A stream held at issue stays RUNNING at its PC with the STALL code. -/
theorem stallAt_holds {s : State} {g st : Nat} (hrun : (strm s g st).state = .running) (code q : Nat) :
    (strm (stallAt g st code q s) g st).state = .running ∧ (strm (stallAt g st code q s) g st).stall = code
      ∧ (strm (stallAt g st code q s) g st).pc = (strm s g st).pc := by
  rw [strm_stallAt_same]
  exact ⟨hrun, rfl, rfl⟩

/-! ### SIGNAL and WAIT, case by case (R26, R28) -/

section
variable {s : State} {g : Core} {st : Str} {w : IWord}

theorem exec_signal_of_issues (h : Issues s g st 3 w) (hquiet : quiet s g st = true) :
    exec (.signal g st) s = .next (doSignal g st (strm s g st) w s) := by
  change execSignal g st s = _
  unfold execSignal release
  rw [front_of_issues h, if_pos hquiet]

theorem doSignal_of_room (r : Stream) (hon : bit (queue s g (fld w 12 4)).cfg 31 = true) (hprod : bit (queue s g (fld w 12 4)).cfg (4 + st) = true)
    (hroom : (queue s g (fld w 12 4)).toks.length < 64) :
    doSignal g st r w s = issued g st (appendToken g (fld w 12 4) (signalPayload r w) s) := by
  unfold doSignal signalQ
  dsimp only
  rw [if_neg (not_not_intro ⟨hon, hprod⟩), if_neg (Nat.not_le.mpr hroom)]

theorem doSignal_of_full (r : Stream) (hon : bit (queue s g (fld w 12 4)).cfg 31 = true) (hprod : bit (queue s g (fld w 12 4)).cfg (4 + st) = true)
    (hfull : 64 ≤ (queue s g (fld w 12 4)).toks.length) : doSignal g st r w s = stallAt g st 2 (fld w 12 4) s := by
  unfold doSignal signalQ
  dsimp only
  rw [if_neg (not_not_intro ⟨hon, hprod⟩), if_pos hfull]

theorem exec_signalResume_of_stalled (h : Stalled s g st 2 w) : exec (.signalResume g st) s =
    .next (if (queue s g (fld w 12 4)).toks.length < 64 then issued g st (appendToken g (fld w 12 4) (signalPayload (strm s g st) w) s) else s) := by
  obtain ⟨hrun, hstall, hword⟩ := h
  change execSignalResume g st s = _
  unfold execSignalResume signalQ
  simp only [hrun, hstall, hword, true_and]
  split <;> rfl

theorem exec_wait_of_other (h : Issues s g st 2 w)
    (hother : ¬ (bit (queue s g (fld w 12 4)).cfg 31 = true ∧ fld (queue s g (fld w 12 4)).cfg 0 2 = st.val)) :
    exec (.wait g st) s = .next (strFault g st 0x0A (fld w 12 4) true 2 (strm s g st).pc s) := by
  change execWait g st s = _
  unfold execWait
  rw [front_of_issues h, if_pos hother]

theorem exec_wait_of_overflow (h : Issues s g st 2 w) (hon : bit (queue s g (fld w 12 4)).cfg 31 = true)
    (hcons : fld (queue s g (fld w 12 4)).cfg 0 2 = st.val) (hovf : (queue s g (fld w 12 4)).ovfPend = true) :
    exec (.wait g st) s = .next (strFault g st 0x0A (fld w 12 4) true 2 (strm s g st).pc
      (setQueue g (fld w 12 4) { queue s g (fld w 12 4) with ovfPend := false } s)) := by
  change execWait g st s = _
  unfold execWait
  rw [front_of_issues h, if_neg (not_not_intro ⟨hon, hcons⟩), if_pos hovf]

theorem exec_wait_of_consumer (h : Issues s g st 2 w) (hon : bit (queue s g (fld w 12 4)).cfg 31 = true)
    (hcons : fld (queue s g (fld w 12 4)).cfg 0 2 = st.val) (hovf : (queue s g (fld w 12 4)).ovfPend = false) :
    exec (.wait g st) s = .next (if (queue s g (fld w 12 4)).toks = [] then stallAt g st 1 (fld w 12 4) s
      else takeToken g st (fld w 12 4) (fld w 8 4) s) := by
  change execWait g st s = _
  unfold execWait
  rw [front_of_issues h, if_neg (not_not_intro ⟨hon, hcons⟩), if_neg (by rw [hovf]; decide)]
  simp only [List.isEmpty_iff]

theorem exec_waitResume_of_stalled (h : Stalled s g st 1 w) : exec (.waitResume g st) s =
    .next (if (queue s g (fld w 12 4)).toks = [] then s else takeToken g st (fld w 12 4) (fld w 8 4) s) := by
  obtain ⟨hrun, hstall, hword⟩ := h
  change execWaitResume g st s = _
  unfold execWaitResume
  simp only [hrun, hstall, hword, true_and]
  by_cases hempty : (queue s g (fld w 12 4)).toks = [] <;> simp [hempty]

end

/-- Settles O41: each row of a token queue by the state of its queue, the cases of R26. -/
theorem tokenQueueRule : Obligations.TokenQueueRule := by
  unfold Obligations.TokenQueueRule
  rintro s g st w _ rfl
  refine ⟨fun h hquiet hon hprod => ⟨fun hroom => ?_, fun hfull => ?_⟩, fun h => ⟨fun hroom => ?_, fun hfull => ?_⟩,
    fun h hon hcons hovf => ⟨fun v vs htoks => ?_, fun hempty => ?_⟩, fun h => ⟨fun v vs htoks => ?_, fun hempty => ?_⟩, fun h _ hother => ?_⟩
  · obtain ⟨hadv, htoks⟩ := issued_appendToken h.1 (fld w 12 4) (signalPayload (strm s g st) w)
    exact ⟨_, by rw [exec_signal_of_issues h hquiet, doSignal_of_room _ hon hprod hroom], hadv, _, htoks⟩
  · exact ⟨_, by rw [exec_signal_of_issues h hquiet, doSignal_of_full _ hon hprod hfull], by rw [queue_stallAt], stallAt_holds h.1 2 _⟩
  · obtain ⟨hadv, htoks⟩ := issued_appendToken h.1 (fld w 12 4) (signalPayload (strm s g st) w)
    exact ⟨_, by rw [exec_signalResume_of_stalled h, if_pos hroom], hadv, _, htoks⟩
  · rw [exec_signalResume_of_stalled h, if_neg (Nat.not_lt.mpr hfull)]
  · exact ⟨_, by rw [exec_wait_of_consumer h hon hcons hovf, if_neg (by simp [htoks])], takeToken_of_cons h.1 htoks⟩
  · exact ⟨_, by rw [exec_wait_of_consumer h hon hcons hovf, if_pos hempty], by rw [queue_stallAt, hempty], stallAt_holds h.1 1 _⟩
  · exact ⟨_, by rw [exec_waitResume_of_stalled h, if_neg (by simp [htoks])], takeToken_of_cons h.1 htoks⟩
  · rw [exec_waitResume_of_stalled h, if_pos hempty]
  · exact ⟨_, exec_wait_of_other h fun hc => hother hc.2, faulted_strFault _ _ _ _ _ _ _ (by simp [h.1]), by rw [queue_strFault]⟩

/-! ### A token from outside the core (R28) -/

/-- A token for a core that its context owns leaves transit and goes through the checks of R28. -/
theorem exec_remoteTokenArrival_of_owner {s : State} {c : Ctx} {g : Core} (src : TokSrc) (gen : Byte) (q : Queue) (v : Word)
    (hstate : (core s g).state = .assigned) (hctx : (core s g).ctx = c) : exec (.remoteTokenArrival src c gen g q v) s =
      .next (remoteToken (srcKind src) c gen g q v { s with transit := s.transit.erase ⟨c.val, gen, g.val, q.val, v⟩ }) := by
  change execRemoteTokenArrival src c gen g q v s = _
  unfold execRemoteTokenArrival
  exact if_pos ⟨hstate, hctx⟩

@[simp] theorem strm_remoteToken (kind c g q x y : Nat) (gen : Byte) (v : Word) (s : State) : strm (remoteToken kind c gen g q v s) x y = strm s x y := by
  unfold remoteToken
  dsimp only
  split_ifs <;> simp only [strm_coreFault, strm_countCore, strm_lateDrop, strm_rejectToken, strm_logCore, strm_setQueue, strm_appendToken]

section
variable {s : State} {c g q : Nat} {gen : Byte}

/-- A token that fails the GEN check is counted in LATE_DROP and sets CORE_FAULT bit 9; its queue is as it was. -/
theorem remoteToken_of_stale (kind : Nat) (v : Word) (hstale : ¬ ((ctx s c).created = true ∧ (ctx s c).gen = gen)) :
    let t := remoteToken kind c gen g q v s
    queue t g q = queue s g q ∧ t.rst.lateDrop = incSat s.rst.lateDrop 1 ∧ (core t g).fault = orBit (core s g).fault 9 := by
  have heq : remoteToken kind c gen g q v s = coreFault g 9 (countCore g 0x19 q (lateDrop c gen s)) := by
    unfold remoteToken
    exact if_pos hstale
  rw [heq]
  exact ⟨by rw [queue_coreFault, queue_countCore, queue_lateDrop], by rw [coreFault_rst, countCore_rst, lateDrop_count],
    by rw [core_coreFault_same, core_countCore, core_lateDrop]⟩

/-- With the GEN check passed, a token whose source is not enabled is rejected: the queue's REJ counts it, CORE_FAULT bit 8. -/
theorem remoteToken_of_disabled (kind : Nat) (v : Word) (hcreated : (ctx s c).created = true) (hgen : (ctx s c).gen = gen)
    (hoff : ¬ (bit (queue s g q).cfg 31 = true ∧ bit (queue s g q).cfg 8 = true)) :
    let t := remoteToken kind c gen g q v s
    (queue t g q).toks = (queue s g q).toks ∧ (queue t g q).rej = satAdd 255 (queue s g q).rej 1 ∧ (queue t g q).ovf = (queue s g q).ovf
      ∧ t.rst.lateDrop = s.rst.lateDrop ∧ (core t g).fault = orBit (core s g).fault 8 := by
  have heq : remoteToken kind c gen g q v s = rejectToken g q s := by
    unfold remoteToken
    exact (if_neg (not_not_intro ⟨hcreated, hgen⟩)).trans (if_pos hoff)
  rw [heq]
  dsimp only
  rw [queue_rejectToken_same, rejectToken_rst, core_fault_rejectToken]
  exact ⟨rfl, rfl, rfl, rfl, rfl⟩

/-- With the GEN check and the source's enable passed, the room decides: a token that finds it is appended. -/
theorem remoteToken_of_room (kind : Nat) (v : Word) (hcreated : (ctx s c).created = true) (hgen : (ctx s c).gen = gen)
    (hon : bit (queue s g q).cfg 31 = true) (hen : bit (queue s g q).cfg 8 = true) (hroom : (queue s g q).toks.length < 64) :
    let t := remoteToken kind c gen g q v s
    (queue t g q).toks = (queue s g q).toks ++ [v] ∧ (core t g).fault = (core s g).fault := by
  have heq : remoteToken kind c gen g q v s = appendToken g q v s := by
    unfold remoteToken
    exact (if_neg (not_not_intro ⟨hcreated, hgen⟩)).trans ((if_neg (not_not_intro ⟨hon, hen⟩)).trans (if_neg (Nat.not_le.mpr hroom)))
  rw [heq]
  dsimp only
  rw [queue_appendToken_same, core_fault_appendToken]
  exact ⟨rfl, rfl⟩

/-- A token that finds no room is dropped and counted, marks the consumer's next WAIT, sets CORE_FAULT bit 7 and is logged. -/
theorem remoteToken_of_full (kind : Nat) (v : Word) (hcreated : (ctx s c).created = true) (hgen : (ctx s c).gen = gen)
    (hon : bit (queue s g q).cfg 31 = true) (hen : bit (queue s g q).cfg 8 = true) (hfull : 64 ≤ (queue s g q).toks.length)
    (hlog : s.log.queue.length < 256) :
    let t := remoteToken kind c gen g q v s
    (queue t g q).toks = (queue s g q).toks ∧ (queue t g q).ovf = satAdd 255 (queue s g q).ovf 1 ∧ (queue t g q).rej = (queue s g q).rej
      ∧ (core t g).fault = orBit (core s g).fault 7 ∧ (queue t g q).ovfPend = true
      ∧ ∃ x, t.log.queue = s.log.queue ++ [x] ∧ x.code = if coreHalf g = 0 then 0x8003 else 0xC003 := by
  intro t
  have ht : t = logCore g 0x03 q kind v.toNat (satAdd 255 (queue s g q).ovf 1) (coreFault g 7
      (countCore g 0x19 q (setQueue g q { queue s g q with ovf := satAdd 255 (queue s g q).ovf 1, ovfPend := true } s))) := by
    unfold t remoteToken
    exact (if_neg (not_not_intro ⟨hcreated, hgen⟩)).trans ((if_neg (not_not_intro ⟨hon, hen⟩)).trans (if_pos hfull))
  have hqueue : queue t g q = { queue s g q with ovf := satAdd 255 (queue s g q).ovf 1, ovfPend := true } := by
    rw [ht, queue_logCore, queue_coreFault, queue_countCore, queue_setQueue_same]
  have hfault : (core t g).fault = orBit (core s g).fault 7 := by
    rw [ht, core_logCore, core_coreFault_same, core_countCore, core_fault_setQueue]
  rw [hqueue]
  exact ⟨rfl, rfl, rfl, hfault, rfl, ht ▸ logCore_appends g 0x03 _ _ _ _ (by simp) hlog⟩

end

/-- Settles O42: the three checks of R28 in their order, and the WAIT after an overflow. -/
theorem remoteTokenRule : Obligations.RemoteTokenRule := by
  unfold Obligations.RemoteTokenRule
  refine ⟨fun s src c gen g q v hstate hctx => ?_, fun s g st w h hon hcons hovf => ?_⟩
  · have hexec := exec_remoteTokenArrival_of_owner src gen q v hstate hctx
    exact ⟨⟨_, hexec, fun x y => strm_remoteToken ..⟩, fun hstale => ⟨_, hexec, remoteToken_of_stale _ _ hstale⟩,
      fun hcreated hgen hoff => ⟨_, hexec, remoteToken_of_disabled _ _ hcreated hgen hoff⟩,
      fun hcreated hgen hon hen => ⟨fun hroom => ⟨_, hexec, remoteToken_of_room _ _ hcreated hgen hon hen hroom⟩,
        fun hfull hlog => ⟨_, hexec, remoteToken_of_full _ _ hcreated hgen hon hen hfull hlog⟩⟩⟩
  · refine ⟨_, exec_wait_of_overflow h hon hcons hovf, ?_⟩
    have hstrm := strm_setQueue g (fld w 12 4) g st { queue s g (fld w 12 4) with ovfPend := false } s
    exact faulted_strFault _ _ _ _ _ _ _ (by rw [hstrm, h.1]; decide)

/-! ### Configuring a queue (R30) -/

theorem coreWrite_of_coreOn {s : State} {g off : Nat} (v : Word) (act : State) (h : CoreOn s g off) : coreWrite g off v s act = act := by
  obtain ⟨hheld, habsent, hfenced⟩ := h
  unfold coreWrite
  rw [if_neg (by simp [hheld]), if_neg (by simp [habsent, hfenced])]

/-- CORE_TQ_CFG keeps its ENABLE and its PRELOAD field (R7). -/
theorem bit_and_tqCfgMask (v : Word) : bit (v &&& tqCfgMask) 31 = bit v 31 := by
  unfold bit
  rw [BitVec.getLsbD_and, show tqCfgMask.getLsbD 31 = true by decide, Bool.and_true]

theorem fld_and_tqCfgMask (v : Word) : fld (v &&& tqCfgMask) 16 7 = fld v 16 7 := by
  have hmask : ∀ i < 7, tqCfgMask.toNat.testBit (16 + i) = true := by decide
  unfold fld bits
  refine Nat.eq_of_testBit_eq fun i => ?_
  rw [Nat.testBit_mod_two_pow, Nat.testBit_mod_two_pow, Nat.testBit_shiftRight, Nat.testBit_shiftRight, BitVec.toNat_and, Nat.testBit_and]
  by_cases hi : i < 7
  · rw [hmask i hi, Bool.and_true]
  · simp [hi]

/-- PRELOAD p of at most 64 gives tokens 0 to p − 1. -/
theorem preload_tokens (v : Word) (h : fld v 16 7 ≤ 64) : (preload (v &&& tqCfgMask)).length = fld v 16 7
    ∧ ∀ i, i < fld v 16 7 → (preload (v &&& tqCfgMask))[i]? = some (BitVec.ofNat 32 i) := by
  unfold preload
  rw [fld_and_tqCfgMask, min_eq_right h]
  exact ⟨by simp, fun i hi => by simp [hi]⟩

/-- R30's condition, stream by stream. -/
theorem coreQuiet_iff (s : State) (g : Nat) : coreQuiet s g = true ↔ ∀ x, x < 4 →
    ((strm s g x).state = .stopped ∨ (strm s g x).state = .halted ∨ (strm s g x).state = .faulted) ∧ outstanding (core s g) x = 0 := by
  unfold coreQuiet
  simp [or_assoc]

section
variable {s : State} {g : Core} {q : Queue} {v : Word}

theorem exec_coreTqCfgWrite_of_coreOn (h : CoreOn s g (0x100 + 0x10 * q)) : exec (.coreTqCfgWrite g q v) s =
    .next (if coreQuiet s g = true then setQueue g q { queue s g q with
        cfg := v &&& tqCfgMask,
        toks := if bit (v &&& tqCfgMask) 31 && !bit (queue s g q).cfg 31 then preload (v &&& tqCfgMask) else (queue s g q).toks } s
      else logCore g 0x04 q (0x100 + 0x10 * q) v.toNat 0 s) := by
  change execCoreTqCfgWrite g q v s = _
  unfold execCoreTqCfgWrite
  dsimp only
  rw [coreWrite_of_coreOn _ _ h]

theorem exec_tqClear_of_coreOn (h : CoreOn s g (0x10C + 0x10 * q)) (hclear : bit v 0 = true) : exec (.tqClear g q v) s =
    .next (if coreQuiet s g = true then setQueue g q { queue s g q with toks := [], ovf := 0, rej := 0 } s
      else logCore g 0x04 q (0x10C + 0x10 * q) v.toNat 0 s) := by
  change execTqClear g q v s = _
  unfold execTqClear
  dsimp only
  rw [coreWrite_of_coreOn _ _ h, if_neg (by simp [hclear])]

end

/-- A write to a queue that comes while its core is not quiet: one record, and nothing else (R30). -/
theorem logCore_configRefused (g q off : Nat) (v : Word) (s : State) (hroom : s.log.queue.length < 256) :
    logCore g 0x04 q off v.toNat 0 s = { s with log := { s.log with queue := s.log.queue ++ [⟨s.time.ns, if coreHalf g = 0 then 0x8004 else 0xC004,
      BitVec.ofNat 16 g, BitVec.ofNat 32 q, BitVec.ofNat 32 off, v, 0⟩] } } := by
  unfold logCore
  rw [logRec_of_room _ _ _ _ _ _ _ hroom, ofNat_hcode, BitVec.ofNat_toNat, BitVec.setWidth_eq]
  rfl

/-- Settles O43: on a quiet core the write takes effect, on another it is the record alone. -/
theorem queueConfigurationRule : Obligations.QueueConfigurationRule := by
  unfold Obligations.QueueConfigurationRule
  intro s g q v
  refine ⟨fun hcore hquiet => ⟨_, by rw [exec_coreTqCfgWrite_of_coreOn hcore, if_pos hquiet], ?_⟩,
    fun hcore hquiet hclear => ⟨_, by rw [exec_tqClear_of_coreOn hcore hclear, if_pos hquiet], congrArg TokQueue.toks (queue_setQueue_same ..)⟩,
    fun cmd off hcmd hcore hbusy hroom => ?_, coreQuiet_iff s g⟩
  · dsimp only
    rw [queue_setQueue_same]
    refine ⟨rfl, fun hon hwas hfield => ?_⟩
    dsimp only
    rw [if_pos (by rw [bit_and_tqCfgMask, hon, hwas]; rfl)]
    exact preload_tokens v hfield
  · rw [← logCore_configRefused g q off v s hroom]
    rcases hcmd with ⟨rfl, rfl⟩ | ⟨rfl, rfl, hclear⟩
    · rw [exec_coreTqCfgWrite_of_coreOn hcore, if_neg (by simp [hbusy])]
    · rw [exec_tqClear_of_coreOn hcore hclear, if_neg (by simp [hbusy])]

end Sys2Proof.Machine
end

section
/-! Instruction words at issue (06_stream_programs.md, R111 to R113, R127): the bytes of the word that a fetch puts into the buffer, the
lowest reserved bit that is set, and the checks that every instruction row makes of the word at its stream's PC. -/

namespace Sys2Proof.Machine

/-! ### The bytes of a number read from memory (R4) -/

theorem readNum_succ (s : State) (a n : Nat) : readNum s a (n + 1) = (s.mem.read a).toNat + 256 * readNum s (a + 1) n := rfl

theorem readNum_lt (s : State) (a n : Nat) : readNum s a n < 2 ^ (8 * n) := by
  induction n generalizing a with
  | zero => exact Nat.one_pos
  | succ n ih =>
    have hbyte := (s.mem.read a).isLt
    have hrest := ih (a + 1)
    rw [readNum_succ, Nat.mul_succ, pow_add]
    omega

/-- Byte `i` of a number read little-endian is the byte at address `a + i`. -/
theorem bits_readNum (s : State) (a n i : Nat) (hi : i < n) : bits (readNum s a n) (8 * i) 8 = (s.mem.read (a + i)).toNat := by
  induction n generalizing a i with
  | zero => omega
  | succ n ih =>
    have hbyte := (s.mem.read a).isLt
    unfold bits at ih ⊢
    rw [readNum_succ]
    cases i with
    | zero =>
      rw [Nat.mul_zero, Nat.shiftRight_zero, Nat.add_zero a]
      omega
    | succ i =>
      have hshift : ((s.mem.read a).toNat + 256 * readNum s (a + 1) n) >>> 8 = readNum s (a + 1) n := by
        rw [Nat.shiftRight_eq_div_pow]
        omega
      rw [Nat.mul_succ, Nat.add_comm (8 * i) 8, Nat.shiftRight_add, hshift, ih (a + 1) i (by omega), Nat.add_right_comm, Nat.add_assoc]

/-- The bytes of a fetched word are the 16 bytes in memory, in rising order. -/
theorem fld_ofNat_readNum (s : State) (a i : Nat) (hi : i < 16) :
    fld (BitVec.ofNat 128 (readNum s a 16)) (8 * i) 8 = (s.mem.read (a + i)).toNat := by
  unfold fld
  rw [BitVec.toNat_ofNat, Nat.mod_eq_of_lt (readNum_lt s a 16), bits_readNum s a 16 i hi]

/-! ### A fetch that meets no error (R111) -/

theorem applyEcc_clean (a : Nat) (s : State) : applyEcc a .clean s = (none, s) := by
  unfold applyEcc
  cases memOf a <;> rfl

theorem exec_fetchFill_of_clean {s : State} {g : Core} {st : Str} {p : Word} {a : Nat} (hrun : (strm s g st).state = .running)
    (hnext : nextFetch (strm s g st) = some p) (haddr : fetchAt s g p = .ok a) (hgood : badByte s a 16 = none) :
    exec (.fetchFill g st .clean) s = .next (setStrm g st { strm s g st with
      fbuf := (strm s g st).fbuf ++ [(p, BitVec.ofNat 128 (readNum s a 16))],
      stall := if (strm s g st).stall = 6 then 0 else (strm s g st).stall } s) := by
  change execFetchFill g st .clean s = _
  unfold execFetchFill
  simp only [hrun, hnext, haddr, applyEcc_clean, hgood, ne_eq, not_true_eq_false, if_false, updStrm_eq]

/-! ### Reserved bits (R112, R127) -/

theorem bits_one (v i : Nat) : bits v i 1 = (v.testBit i).toNat := by
  unfold bits
  rw [Nat.toNat_testBit, Nat.shiftRight_eq_div_pow, pow_one]

theorem bit_eq_testBit {n : Nat} (v : BitVec n) (i : Nat) : bit v i = v.toNat.testBit i := BitVec.testBit_toNat v |>.symm

theorem bits_one_eq_one (v i : Nat) : bits v i 1 = 1 ↔ v.testBit i = true := by rw [bits_one, Bool.toNat_eq_one]

/-- A number that is not 0 has a lowest set bit. -/
theorem lowestBit_spec {v : Nat} (hlt : v < 2 ^ 128) (hne : v ≠ 0) :
    v.testBit (lowestBit v) = true ∧ ∀ j < lowestBit v, v.testBit j = false := by
  have hsome : ((List.range 128).find? fun i => bits v i 1 = 1) = some (lowestBit v) := by
    obtain ⟨i, hi⟩ := Nat.exists_testBit_of_ne_zero hne
    have hi128 : i < 128 := (Nat.pow_lt_pow_iff_right (by decide)).mp ((Nat.ge_two_pow_of_testBit hi).trans_lt hlt)
    have hfound : ((List.range 128).find? fun i => bits v i 1 = 1).isSome = true := by
      rw [List.find?_isSome]
      exact ⟨i, List.mem_range.mpr hi128, decide_eq_true ((bits_one_eq_one v i).mpr hi)⟩
    obtain ⟨k, hk⟩ := Option.isSome_iff_exists.mp hfound
    unfold lowestBit
    rw [hk, Option.getD_some]
  obtain ⟨hset, -, hbelow⟩ := List.find?_range_eq_some.mp hsome
  refine ⟨(bits_one_eq_one _ _).mp (of_decide_eq_true hset), fun j hj => ?_⟩
  simpa [bits_one_eq_one] using hbelow j hj

/-- An opcode's field map names bits of the 128 only. -/
theorem namedBits_lt (o : Nat) : namedBits o < 2 ^ 128 := by
  unfold namedBits
  repeat' refine iteInduction (motive := (· < 2 ^ 128)) (fun _ => ?_) (fun _ => ?_)
  all_goals decide

/-- A reserved bit that is set: a bit of the word that the opcode's field map does not name. -/
theorem testBit_reservedSet (w : IWord) (i : Nat) :
    (reservedSet w).testBit i = (bit w i && !(namedBits (fld w 0 8)).testBit i) := by
  have hmask : (2 ^ 128 - 1 - namedBits (fld w 0 8)).testBit i = (decide (i < 128) && !(namedBits (fld w 0 8)).testBit i) := by
    rw [Nat.sub_sub, Nat.add_comm 1]
    exact Nat.testBit_two_pow_sub_succ (namedBits_lt _) i
  unfold reservedSet
  rw [Nat.testBit_and, hmask, bit_eq_testBit]
  by_cases hi : i < 128
  · rw [decide_eq_true hi, Bool.true_and]
  · rw [Nat.testBit_lt_two_pow (w.isLt.trans_le (Nat.pow_le_pow_right (by decide) (Nat.not_lt.mp hi))), Bool.false_and, Bool.false_and]

/-- The info of a RESERVED fault is the lowest bit of the word that is set and has no name. -/
theorem lowestBit_reservedSet {w : IWord} (hres : reservedSet w ≠ 0) :
    bit w (lowestBit (reservedSet w)) = true ∧ bits (namedBits (fld w 0 8)) (lowestBit (reservedSet w)) 1 = 0
      ∧ ∀ j, j < lowestBit (reservedSet w) → bit w j = true → bits (namedBits (fld w 0 8)) j 1 = 1 := by
  obtain ⟨hset, hbelow⟩ := lowestBit_spec (v := reservedSet w) (Nat.and_le_left.trans_lt w.isLt) hres
  rw [testBit_reservedSet, Bool.and_eq_true, Bool.not_eq_true'] at hset
  obtain ⟨hword, hunnamed⟩ := hset
  refine ⟨hword, by rw [bits_one, hunnamed]; rfl, fun j hj hbit => (bits_one_eq_one _ _).mpr ?_⟩
  have hclear := hbelow j hj
  rwa [testBit_reservedSet, hbit, Bool.true_and, Bool.not_eq_false'] at hclear

/-! ### The checks at issue (R112, R127) -/

/-- An instruction row is the front of every instruction with its own opcode and effect. -/
theorem exec_eq_front_of_wordRow {c : Instr} {g : Core} {st : Str} (hrow : WordRow c g st) (s : State) :
    ∃ opc body, exec c s = .next (front opc g st s body) := by
  unfold WordRow at hrow
  simp only [List.mem_cons, List.not_mem_nil, or_false] at hrow
  rcases hrow with rfl | rfl | rfl | rfl | rfl | rfl | rfl | rfl | rfl | rfl | rfl | rfl | rfl | rfl | rfl | rfl | rfl | rfl | rfl | rfl | rfl | rfl
    | rfl | rfl
  all_goals exact ⟨_, _, rfl⟩

/-- A stream takes the word `w` at its PC to issue (R111): it is RUNNING, in no stall that a row of its own ends, and has fetched `w`. -/
def Presents (s : State) (g st : Nat) (w : IWord) : Prop :=
  (strm s g st).state = .running ∧ ¬ ((strm s g st).stall = 1 ∨ (strm s g st).stall = 2 ∨ (strm s g st).stall = 3 ∨ (strm s g st).stall = 5)
    ∧ fetched (strm s g st) = some w

section
variable {s : State} {g st : Nat} {w : IWord} (opc : Nat) (body : Stream → IWord → State)

/-- The checks in their order, on the word that the stream presents. -/
theorem front_of_presents (h : Presents s g st w) : front opc g st s body =
    if opcodeStream (fld w 0 8) = some 5 then strFault g st 1 0 true (fld w 0 8) (strm s g st).pc s
    else if opcodeStream (fld w 0 8) ≠ none ∧ opcodeStream (fld w 0 8) ≠ some st then strFault g st 2 0 true (fld w 0 8) (strm s g st).pc s
    else if reservedSet w ≠ 0 then strFault g st 3 (lowestBit (reservedSet w)) true (fld w 0 8) (strm s g st).pc s
    else if fld w 0 8 ≠ opc then s
    else body (strm s g st) w := by
  obtain ⟨hrun, hfree, hword⟩ := h
  unfold front
  dsimp only
  rw [if_neg (not_or.mpr ⟨not_not_intro hrun, hfree⟩), hword]

theorem Presents.ne_faulted (h : Presents s g st w) : (strm s g st).state ≠ .faulted := by
  rw [h.1]
  decide

theorem faulted_front_of_undefined (h : Presents s g st w) (hundef : opcodeStream (fld w 0 8) = some 5) :
    Faulted (front opc g st s body) g st 1 0 (fld w 0 8) (strm s g st).pc := by
  rw [front_of_presents opc body h, if_pos hundef]
  exact faulted_strFault _ _ _ _ _ _ _ h.ne_faulted

theorem faulted_front_of_otherStream (h : Presents s g st w) {x : Nat} (hstream : opcodeStream (fld w 0 8) = some x) (hdef : x ≠ 5)
    (hother : x ≠ st) : Faulted (front opc g st s body) g st 2 0 (fld w 0 8) (strm s g st).pc := by
  rw [front_of_presents opc body h, hstream, if_neg (by simpa using hdef), if_pos (by simpa using hother)]
  exact faulted_strFault _ _ _ _ _ _ _ h.ne_faulted

theorem faulted_front_of_reserved (h : Presents s g st w) (hst : st < 4)
    (hown : opcodeStream (fld w 0 8) = none ∨ opcodeStream (fld w 0 8) = some st) (hres : reservedSet w ≠ 0) :
    Faulted (front opc g st s body) g st 3 (lowestBit (reservedSet w)) (fld w 0 8) (strm s g st).pc := by
  have hdef : opcodeStream (fld w 0 8) ≠ some 5 := by
    rcases hown with hown | hown
    · simp [hown]
    · rw [hown, ne_eq, Option.some_inj]
      omega
  rw [front_of_presents opc body h, if_neg hdef, if_neg (by tauto), if_pos hres]
  exact faulted_strFault _ _ _ _ _ _ _ h.ne_faulted

end

/-- Settles O44: the fetched word byte by byte; then every instruction row is the front, which makes R112's three checks in their order. -/
theorem issueFaultRule : Obligations.IssueFaultRule := by
  unfold Obligations.IssueFaultRule
  refine ⟨fun s g st p a hrun hnext haddr hgood => ?_, fun c s g st w hrow hrun h1 h2 h3 h5 hword => ?_⟩
  · exact ⟨_, exec_fetchFill_of_clean hrun hnext haddr hgood, BitVec.ofNat 128 (readNum s a 16), by rw [strm_setStrm_same],
      fld_ofNat_readNum s a⟩
  · obtain ⟨opc, body, hexec⟩ := exec_eq_front_of_wordRow hrow s
    have hpres : Presents s g st w := ⟨hrun, by simp only [h1, h2, h3, h5, or_self, not_false_eq_true], hword⟩
    refine ⟨fun hundef => ⟨_, hexec, faulted_front_of_undefined opc body hpres hundef⟩,
      fun x hstream hdef hother => ⟨_, hexec, faulted_front_of_otherStream opc body hpres hstream hdef hother⟩, fun hown hres => ?_⟩
    obtain ⟨hbit, hunnamed, hlowest⟩ := lowestBit_reservedSet hres
    exact ⟨_, hexec, _, hbit, hunnamed, hlowest, faulted_front_of_reserved opc body hpres st.isLt hown hres⟩

end Sys2Proof.Machine
end

section
/-! The rate and the width of the host link (09_host_interface_and_rings.md, R171, R172): the state after a training, when a training is
logged, and the record that it writes (R198). -/

namespace Sys2Proof.Machine

/-- The host link at a rate and a width. -/
def linkTrained (rate10 width : Nat) (s : State) : State := onHst (fun h => { h with rate10 := rate10, width := width }) s

@[simp] theorem linkTrained_rate10 (rate10 width : Nat) (s : State) : (linkTrained rate10 width s).hst.rate10 = rate10 := rfl
@[simp] theorem linkTrained_width (rate10 width : Nat) (s : State) : (linkTrained rate10 width s).hst.width = width := rfl
@[simp] theorem linkTrained_log (rate10 width : Nat) (s : State) : (linkTrained rate10 width s).log = s.log := onHst_log _ s
@[simp] theorem linkTrained_time (rate10 width : Nat) (s : State) : (linkTrained rate10 width s).time = s.time := onHst_time _ s

theorem linkTrained_of_same {rate10 width : Nat} {s : State} (hrate : s.hst.rate10 = rate10) (hwidth : s.hst.width = width) :
    linkTrained rate10 width s = s := by
  subst hrate hwidth
  rfl

/-- The trainings that R172 logs: the rate or the width changes, and the link is below 32 GT/s x8 before or after. -/
def LinkChangeLogged (rate10 width : Nat) (s : State) : Prop :=
  (s.hst.rate10 ≠ rate10 ∨ s.hst.width ≠ width) ∧ (rate10 < 320 ∨ width < 8 ∨ s.hst.rate10 < 320 ∨ s.hst.width < 8)

section
variable {rate10 formed : Nat} {s : State}

theorem exec_linkRateOrWidthChange_of_logged (h : LinkChangeLogged rate10 (trainedWidth formed) s) :
    exec (.linkRateOrWidthChange rate10 formed) s = .next
      (logRec 0x0205 0x00FF rate10 (trainedWidth formed) 0 0 (linkTrained rate10 (trainedWidth formed) s)) := by
  obtain ⟨hchange, hbelow⟩ := h
  change execLinkRateOrWidthChange rate10 formed s = _
  unfold execLinkRateOrWidthChange
  dsimp only
  rw [if_neg (by tauto), if_pos hbelow]
  rfl

theorem exec_linkRateOrWidthChange_of_not_logged (h : ¬ LinkChangeLogged rate10 (trainedWidth formed) s) :
    exec (.linkRateOrWidthChange rate10 formed) s = .next (linkTrained rate10 (trainedWidth formed) s) := by
  change execLinkRateOrWidthChange rate10 formed s = _
  unfold execLinkRateOrWidthChange
  dsimp only
  split
  case isTrue hsame => rw [linkTrained_of_same hsame.1 hsame.2]
  case isFalse hchange =>
    rw [if_neg fun hbelow => h ⟨by tauto, hbelow⟩]
    rfl

/-- Whether or not a training is logged, the link runs at the rate and the width that it reached. -/
theorem does_linkRateOrWidthChange (rate10 formed : Nat) (s : State) : Does (.linkRateOrWidthChange rate10 formed) s fun t =>
    t.hst.rate10 = rate10 ∧ t.hst.width = trainedWidth formed := by
  by_cases hlog : LinkChangeLogged rate10 (trainedWidth formed) s
  · exact ⟨_, exec_linkRateOrWidthChange_of_logged hlog, by rw [logRec_hst, linkTrained_rate10], by rw [logRec_hst, linkTrained_width]⟩
  · exact ⟨_, exec_linkRateOrWidthChange_of_not_logged hlog, linkTrained_rate10 .., linkTrained_width ..⟩

end

/-- Settles O45: a logged training leaves one record and any other none; the width of the statement is `trainedWidth`. -/
theorem linkRateRule : Obligations.LinkRateRule := by
  unfold Obligations.LinkRateRule
  rintro s rate10 formed width rfl
  refine ⟨does_linkRateOrWidthChange rate10 formed s,
    fun hchange hbelow hroom => ⟨_, exec_linkRateOrWidthChange_of_logged ⟨hchange, hbelow⟩, ?_⟩,
    fun hrate hwidth hrate' hwidth' => ⟨_, exec_linkRateOrWidthChange_of_not_logged ?_, linkTrained_log ..⟩⟩
  · rw [logRec_of_room _ _ _ _ _ _ _ (by rwa [linkTrained_log]), linkTrained_log, linkTrained_time]
    rfl
  · rintro ⟨-, hbelow⟩
    change 8 ≤ trainedWidth formed at hwidth
    omega

end Sys2Proof.Machine
end

section
/-! Events in a completion ring (09_host_interface_and_rings.md, R184, R191): the record that a post leaves in the next free slot, for every
event, and what a change of pod time leaves of it. -/

namespace Sys2Proof.Machine

/-! ### Bytes stored and read back -/

/-- The first bytes of a store read back, in memory in canonical form. -/
theorem Memory.readN_writeN {m : Memory} (a n : Nat) (bs : List Byte) (h : m.wf = true) (hn : n ≤ bs.length) :
    (m.writeN a bs).readN a n = bs.take n := by
  induction bs generalizing m a n with
  | nil =>
    obtain rfl := Nat.le_zero.mp hn
    rfl
  | cons b bs ih =>
    cases n with
    | zero => rfl
    | succ n =>
      have hhead : (m.writeN a (b :: bs)).read a = b := Memory.read_writeN_inside a 0 (b :: bs) h (Nat.succ_pos _)
      have htail : (m.writeN a (b :: bs)).readN (a + 1) n = bs.take n :=
        ih (a + 1) n (Memory.wf_write a b h) (Nat.le_of_succ_le_succ hn)
      rw [Memory.readN, hhead, htail, List.take_succ_cons]

@[simp] theorem length_toBytes (v n : Nat) : (toBytes v n).length = n := by
  induction n generalizing v with
  | zero => rfl
  | succ n ih => rw [toBytes, List.length_cons, ih]

/-- The bytes of an event record before its PHASE. -/
@[simp] theorem length_eventBytes (code source : Nat) (c : Option Nat) (gen p0 p1 p2 p3 : Nat) :
    (eventBytes code source c gen p0 p1 p2 p3).length = 30 := by
  simp [eventBytes]

/-! ### A record put into a completion ring (R184, R192) -/

@[simp] theorem ring_countHub (ev qual : Nat) (ranged : Bool) (r : Nat) (s : State) : ring (countHub ev qual ranged s) r = ring s r :=
  ring_countAt_acc ..

/-- An interrupt, sent or kept in the PBA, leaves the rings. -/
@[simp] theorem ring_sendMsix (v r : Nat) (s : State) : ring (sendMsix v s) r = ring s r := by
  unfold sendMsix
  split
  · rfl
  · rw [ring_countHub, ring_send_acc]

theorem ring_putCq_cqTail (r : Nat) (bs : List Byte) (s : State) :
    (ring (putCq r bs s) r).cqTail = ((ring s r).cqTail + 1) % ringN (ring s r) := by
  unfold putCq
  dsimp only
  split
  · rw [ring_sendMsix, ring_countHub, ring_setRing_same]
  · rw [ring_countHub, ring_setRing_same]

/-- While DMA is on the record's 30 bytes and its PHASE go to the slot at the ring's tail at once (R174, R184). -/
theorem putCq_mem_of_canDma {s : State} (hdma : canDma s = true) (r : Nat) (bs : List Byte) :
    (putCq r bs s).mem = s.mem.writeN (hostKey (ringCqBase (ring s r) + 32 * (ring s r).cqTail))
      (bs.take 30 ++ [if (ring s r).pass then 1 else 0, 0]) := by
  unfold putCq
  dsimp only
  rw [if_pos hdma]
  split
  · rw [sendMsix_mem, countHub_mem, setRing_mem, countHub_mem]
    rfl
  · rw [countHub_mem, setRing_mem, countHub_mem]
    rfl

theorem readN_putCq {s : State} (hdma : canDma s = true) (hinv : Inv s) (r : Nat) {bs : List Byte} (hlen : bs.length = 30) :
    (putCq r bs s).mem.readN (hostKey (ringCqBase (ring s r) + 32 * (ring s r).cqTail)) 30 = bs := by
  rw [putCq_mem_of_canDma hdma, Memory.readN_writeN _ _ _ hinv (by simp [hlen]), List.take_of_length_le hlen.le, ← hlen, List.take_left]

/-! ### Posting an event (R191) -/

/-- A ring that is ready takes the event's record alone: no EVENTS_LOST record goes before it. -/
theorem postEvent_of_ready {s : State} {c : Option Nat} {r : Nat} (h : EventReady s c r) (code source p0 p1 p2 p3 : Nat) :
    postEvent code source c p0 p1 p2 p3 s =
      putCq r (eventBytes code source c ((c.map fun i => (ctx s i).gen.toNat).getD 0) p0 p1 p2 p3) s := by
  obtain ⟨hring, hlost, hfree, -, -⟩ := h
  unfold postEvent
  rw [hring]
  dsimp only
  rw [if_pos hlost, if_pos hfree]
  cases c <;> rfl

theorem posted_postEvent {s : State} {c : Option Nat} {r : Nat} (h : EventReady s c r) (code source p0 p1 p2 p3 : Nat) :
    Posted s (postEvent code source c p0 p1 p2 p3 s) r code source c p0 p1 p2 p3 := by
  have ⟨_, _, _, hdma, hinv⟩ := h
  rw [postEvent_of_ready h]
  exact ⟨ring_putCq_cqTail .., readN_putCq hdma hinv r (length_eventBytes ..)⟩

theorem eventReady_onTime {f : TimeSt → TimeSt} {s : State} {c : Option Nat} {r : Nat} : EventReady (onTime f s) c r ↔ EventReady s c r :=
  Iff.rfl

theorem posted_onTime {f : TimeSt → TimeSt} {s t : State} {r code source p0 p1 p2 p3 : Nat} {c : Option Nat} :
    Posted (onTime f s) t r code source c p0 p1 p2 p3 ↔ Posted s t r code source c p0 p1 p2 p3 := Iff.rfl

end Sys2Proof.Machine
end

section
/-! The alarms of pod time (17_pod_time.md, R359, R360): the state in which a fired alarm is disarmed with its bit set, and the two rows of
an alarm. -/

namespace Sys2Proof.Machine

theorem bit_orBit_self {n : Nat} (v : BitVec n) {i : Nat} (hi : i < n) : bit (orBit v i) i = true := by
  unfold bit orBit
  rw [BitVec.getLsbD_or, BitVec.getLsbD_ofNat, Nat.testBit_two_pow_self, decide_eq_true hi, Bool.and_self, Bool.or_true]

theorem alarm_of_time {s t : State} (h : t.time = s.time) (a : Nat) : alarm t a = alarm s a := by
  unfold alarm
  rw [h]

/-! ### A due alarm fires (R360) -/

/-- Alarm `a` disarmed and its bit in TIME_ALARM_STAT set, before the event is posted. -/
def alarmSpent (a : Nat) (s : State) : State :=
  onTime (fun t => { t with alarms := Tbl.set t.alarms a { alarm s a with armed := false }, alarmStat := orBit t.alarmStat a }) s

theorem fireAlarm_eq (a : Nat) (s : State) : fireAlarm a s =
    postEvent 0x0440 0x0400 none a (fld (alarm s a).target 0 32) (fld (alarm s a).target 32 32) 0 (alarmSpent a s) := rfl

theorem alarm_alarmSpent (a : Nat) (s : State) : alarm (alarmSpent a s) a = { alarm s a with armed := false } := Tbl.get_set_same ..

/-- Whether its event is posted or dropped, a fired alarm is disarmed. -/
theorem alarm_fireAlarm (a : Nat) (s : State) : alarm (fireAlarm a s) a = { alarm s a with armed := false } := by
  rw [fireAlarm_eq, alarm_of_time (postEvent_time ..), alarm_alarmSpent]

theorem bit_alarmStat_fireAlarm (a : Fin 8) (s : State) : bit (fireAlarm a s).time.alarmStat a = true := by
  rw [fireAlarm_eq, postEvent_time]
  exact bit_orBit_self _ a.isLt

theorem posted_fireAlarm {s : State} {r : Nat} (h : EventReady s none r) (a : Nat) :
    Posted s (fireAlarm a s) r 0x0440 0x0400 none a (fld (alarm s a).target 0 32) (fld (alarm s a).target 32 32) 0 :=
  posted_onTime.mp (posted_postEvent (eventReady_onTime.mpr h) ..)

/-! ### The rows ALARM_FIRE and ALARM_ARM -/

theorem exec_alarmFire_of_due {s : State} {a : Fin 8} (h : alarmDue s a = true) : exec (.alarmFire a) s = .next (fireAlarm a s) :=
  if_pos h

theorem not_alarmDue_of_disarmed {s : State} {a : Nat} (h : (alarm s a).armed = false) : ¬ alarmDue s a = true := by
  simp [alarmDue, h]

theorem exec_alarmFire_of_not_due {s : State} {a : Fin 8} (h : ¬ alarmDue s a = true) : exec (.alarmFire a) s = .next s := if_neg h

/-- Alarm `a` armed, its target as it stands. -/
def alarmArmed (a : Nat) (s : State) : State :=
  onTime (fun t => { t with alarms := Tbl.set t.alarms a { Tbl.get {} t.alarms a with armed := true } }) s

theorem exec_alarmArm (a : Fin 8) (s : State) : exec (.alarmArm a) s = .next (alarmArmed a s) := rfl

theorem alarm_alarmArmed (a : Nat) (s : State) : alarm (alarmArmed a s) a = { alarm s a with armed := true } := Tbl.get_set_same ..

theorem onlyParts_alarmArmed (a : Nat) (s : State) : OnlyParts [.time] s (alarmArmed a s) := (onTime_law ..).1

/-- Settles O46: a due alarm is spent and its event posted, a disarmed one is never due, and arming leaves its target. -/
theorem alarmRule : Obligations.AlarmRule := by
  unfold Obligations.AlarmRule
  intro s a
  refine ⟨fun hdue => ?_, fun hoff => exec_alarmFire_of_not_due (not_alarmDue_of_disarmed hoff),
    ⟨_, exec_alarmArm a s, ?_, ?_, rfl, rfl, onlyParts_alarmArmed a s⟩⟩
  · have hexec := exec_alarmFire_of_due hdue
    have hoff : (alarm (fireAlarm a s) a).armed = false := by rw [alarm_fireAlarm]
    have hbit := bit_alarmStat_fireAlarm a s
    exact ⟨⟨_, hexec, hoff, hbit⟩, fun r hready => ⟨_, hexec, hoff, hbit, posted_fireAlarm hready a⟩⟩
  · rw [alarm_alarmArmed]
  · rw [alarm_alarmArmed]

end Sys2Proof.Machine
end

section
/-! The logbook's input queue (18_counters_sampling_logbook.md, R376): a record offered to a full queue, the record 0x0501 of those lost,
and the row LOGBOOK_RECORD, which makes the space for it. A record that finds room is `logRec_of_room`. -/

namespace Sys2Proof.Machine

/-! ### A record offered to the queue -/

theorem logRec_log_of_full (code source p0 p1 p2 p3 : Nat) {s : State} (hfull : 256 ≤ s.log.queue.length) :
    (logRec code source p0 p1 p2 p3 s).log = { s.log with lost := incSat s.log.lost 1, lostNow := s.log.lostNow + 1 } := by
  unfold logRec
  dsimp only
  rw [if_neg (Nat.not_lt.mpr hfull), countHub_log]

/-- A record that its code's rate limit holds back does not reach the queue. -/
theorem logRate_of_not_rateOk {s : State} {key period : Nat} (hrate : rateOk s key period = false) (code source p0 p1 p2 p3 : Nat) :
    logRate key period code source p0 p1 p2 p3 s = s :=
  if_neg (by rw [hrate]; decide)

/-! ### The record 0x0501 -/

theorem noteLost_of_none_lost {s : State} (hnone : s.log.lostNow = 0) : noteLost s = s := if_pos hnone

/-- The record 0x0501 of the records lost so far; the first SEQ after the loss (R380) is the one it gets itself, behind the queue. -/
def lostRecord (s : State) : LogRec :=
  ⟨s.time.ns, 0x0501, 0x0500, BitVec.ofNat 32 s.log.lostNow,
    BitVec.ofNat 32 (s.log.head + BitVec.ofNat 32 s.log.queue.length).toNat, 0, 0⟩

theorem noteLost_log_of_room {s : State} (hlost : s.log.lostNow ≠ 0) (hroom : s.log.queue.length < 256) :
    (noteLost s).log = { s.log with lostNow := 0, queue := s.log.queue ++ [lostRecord s] } := by
  unfold noteLost
  dsimp only
  rw [if_neg hlost, logRec_of_room]
  · rfl
  · exact hroom

/-! ### The row LOGBOOK_RECORD -/

/-- The record `x` taken out of the queue, of which `rest` is left, and put into the ring. -/
def recordTaken (x : LogRec) (rest : List LogRec) (s : State) : State := putLog x { s with log := { s.log with queue := rest } }

@[simp] theorem recordTaken_log_queue (x : LogRec) (rest : List LogRec) (s : State) : (recordTaken x rest s).log.queue = rest := by
  rw [recordTaken, putLog_log]

@[simp] theorem recordTaken_log_lostNow (x : LogRec) (rest : List LogRec) (s : State) :
    (recordTaken x rest s).log.lostNow = s.log.lostNow := by
  rw [recordTaken, putLog_log]

theorem exec_logbookRecord_of_cons {s : State} {x : LogRec} {rest : List LogRec} (hqueue : s.log.queue = x :: rest) :
    exec .logbookRecord s = .next (noteLost (recordTaken x rest s)) := by
  change execLogbookRecord s = _
  rw [execLogbookRecord, hqueue]
  rfl

/-- Settles O47: a record offered at a length below 256 and at 256 or more; then what the hub's taking of one does, with and without
records lost before. -/
theorem logbookQueueRule : Obligations.LogbookQueueRule := by
  unfold Obligations.LogbookQueueRule
  refine ⟨fun s code source p0 p1 p2 p3 => ⟨fun hroom => ?_, fun hfull => ?_, fun key period hrate => ?_⟩,
    fun s x rest hqueue hrest => ⟨_, exec_logbookRecord_of_cons hqueue, fun hnone => ?_, fun hlost => ?_⟩⟩
  · rw [logRec_of_room _ _ _ _ _ _ _ hroom]
    exact ⟨rfl, rfl⟩
  · rw [logRec_log_of_full _ _ _ _ _ _ hfull]
    exact ⟨rfl, rfl, rfl⟩
  · exact logRate_of_not_rateOk hrate ..
  · rw [noteLost_of_none_lost (by simpa using hnone), recordTaken_log_queue]
  · have hlog := noteLost_log_of_room (s := recordTaken x rest s) (by simpa using hlost) (by simpa using hrest)
    rw [hlog, recordTaken_log_queue]
    exact ⟨rfl, lostRecord (recordTaken x rest s), rfl, rfl, by simp [lostRecord]⟩

end Sys2Proof.Machine
end

section
/-! The whole block (95_what_each_step_holds.md): every command answers within the parts that `touches` lists for it, every step keeps memory in
its canonical form, and what a step does with the queue of waiting commands. -/

namespace Sys2Proof.Machine

/-! ### Every command answers, within its parts -/

/-- What a command may touch, widened to a list that holds it. -/
theorem OutLaw.within {K L : List Part} {s : State} {o : Out} (k : OutLaw K s o) (hL : K.all (L.contains ·) = true) : OutLaw L s o := by
  obtain ⟨t, ht, h⟩ := k
  exact ⟨t, ht, h.mono fun p hp => by simpa using List.all_eq_true.mp hL p hp⟩

/-- A posted write that takes effect leaves the module's own memory as it was. -/
theorem execPwWriteEffect_law_without_mem (off : Nat) (s : State) :
    OutLaw [.host, .hst, .idb, .tally, .log, .fab, .ckpt, .time, .pwr, .pins, .eth, .sent] s (execPwWriteEffect off s) := by
  unfold execPwWriteEffect
  split
  · rename_i w t htake
    have ht := takePw_law off s w t htake
    split
    · exact OutLaw.next (ht.mono (by decide))
    · exact OutLaw.next (Law.step (pwEffect_law _ _ _) (by decide) (ht.mono (by decide)))
  · exact OutLaw.next (Law.refl _ _)

/-- The law of `exec`, command by command: it answers a next state, changes only the parts that `touches` lists, and keeps memory in
its canonical form. -/
theorem exec_law (c : Instr) (s : State) : OutLaw (touches c) s (exec c s) :=
  match c with
  | .signal g st => (execSignal_law g st s).within rfl
  | .signalResume g st => (execSignalResume_law g st s).within rfl
  | .wait g st => (execWait_law g st s).within rfl
  | .waitResume g st => (execWaitResume_law g st s).within rfl
  | .remoteTokenArrival src ctx gen g q payload => (execRemoteTokenArrival_law src ctx gen g q payload s).within rfl
  | .coreTqCfgWrite g q v => (execCoreTqCfgWrite_law g q v s).within rfl
  | .tqClear g q v => (execTqClear_law g q v s).within rfl
  | .routerBeat c inp out rsp needs held parity => (execRouterBeat_law c inp out rsp needs held parity s).within rfl
  | .sramCeRateExpiry g => (execSramCeRateExpiry_law g s).within rfl
  | .scrubComplete g selftestOk => (execScrubComplete_law g selftestOk s).within rfl
  | .loadw g st => (execLoadw_law g st s).within rfl
  | .loadwReadStart g e => (execLoadwReadStart_law g e s).within rfl
  | .loadwReadEnd g e ecc => (execLoadwReadEnd_law g e ecc s).within rfl
  | .loadwWriteStart g e => (execLoadwWriteStart_law g e s).within rfl
  | .loadwComplete g e => (execLoadwComplete_law g e s).within rfl
  | .flip g st => (execFlip_law g st s).within rfl
  | .flipStart g e => (execFlipStart_law g e s).within rfl
  | .flipComplete g e => (execFlipComplete_law g e s).within rfl
  | .swapCopyEnd g e => (execSwapCopyEnd_law g e s).within rfl
  | .mvm g st => (execMvm_law g st s).within rfl
  | .mvmStart g e => (execMvmStart_law g e s).within rfl
  | .outputTileReady g e held ecc => (execOutputTileReady_law g e held ecc s).within rfl
  | .writeBufferResume g e => (execWriteBufferResume_law g e s).within rfl
  | .mvmComplete g e => (execMvmComplete_law g e s).within rfl
  | .reissueFeedStop g e => (execReissueFeedStop_law g e s).within rfl
  | .reissueRun g e => (execReissueRun_law g e s).within rfl
  | .reissueResume g e => (execReissueResume_law g e s).within rfl
  | .dveRecomputeDone g e ecc => (execDveRecomputeDone_law g e ecc s).within rfl
  | .shadowVectorDone g e => (execShadowVectorDone_law g e s).within rfl
  | .failTileLogFlush g e => (execFailTileLogFlush_law g e s).within rfl
  | .calPhaseEnd g e ms => (execCalPhaseEnd_law g e ms s).within rfl
  | .swapReadyDeferred g e => (execSwapReadyDeferred_law g e s).within rfl
  | .exerciseBurst g e => (execExerciseBurst_law g e s).within rfl
  | .swapWaitAlarm g e => (execSwapWaitAlarm_law g e s).within rfl
  | .lockLost el => (execLockLost_law el s).within rfl
  | .relockComplete el => (execRelockComplete_law el s).within rfl
  | .pilotCheckEnd el res => (execPilotCheckEnd_law el res s).within rfl
  | .combRelockTimeout c n => (execCombRelockTimeout_law c n s).within rfl
  | .governorIntervalEnd c want => (execGovernorIntervalEnd_law c want s).within rfl
  | .combPowerCheck c n loss line lineLoss => (execCombPowerCheck_law c n loss line lineLoss s).within rfl
  | .cluCombGo c v => (execCluCombGo_law c v s).within rfl
  | .handoverStandbyLocked c => (execHandoverStandbyLocked_law c s).within rfl
  | .handoverEnginesHeld c => (execHandoverEnginesHeld_law c s).within rfl
  | .handoverHoldTimeout c => (execHandoverHoldTimeout_law c s).within rfl
  | .handoverSwitchDone c => (execHandoverSwitchDone_law c s).within rfl
  | .handoverConfirmEnd c inRange fitOk trims => (execHandoverConfirmEnd_law c inRange fitOk trims s).within rfl
  | .handoverRetry c => (execHandoverRetry_law c s).within rfl
  | .oteRowSelWrite g e v => (execOteRowSelWrite_law g e v s).within rfl
  | .oteChanSelWrite g e v => (execOteChanSelWrite_law g e v s).within rfl
  | .nop g st => (execNop_law g st s).within rfl
  | .halt g st => (execHalt_law g st s).within rfl
  | .rsignal g st => (execRsignal_law g st s).within rfl
  | .li g st => (execLi_law g st s).within rfl
  | .alu g st => (execAlu_law g st s).within rfl
  | .br g st => (execBr_law g st s).within rfl
  | .rdsys g st => (execRdsys_law g st s).within rfl
  | .fence g st => (execFence_law g st s).within rfl
  | .releaseComplete g st => (execReleaseComplete_law g st s).within rfl
  | .get g st => (execGet_law g st s).within rfl
  | .getComplete g ix ecc => (execGetComplete_law g ix ecc s).within rfl
  | .put g st => (execPut_law g st s).within rfl
  | .putComplete g ix ecc => (execPutComplete_law g ix ecc s).within rfl
  | .stepmark g st => (execStepmark_law g st s).within rfl
  | .modesync g st => (execModesync_law g st s).within rfl
  | .modeEditionTimeout c => (execModeEditionTimeout_law c s).within rfl
  | .vew g st => (execVew_law g st s).within rfl
  | .vfma g st => (execVfma_law g st s).within rfl
  | .vun g st => (execVun_law g st s).within rfl
  | .vred g st => (execVred_law g st s).within rfl
  | .vcvt g st => (execVcvt_law g st s).within rfl
  | .vmm g st => (execVmm_law g st s).within rfl
  | .vstat g st => (execVstat_law g st s).within rfl
  | .vectorComplete g ecc => (execVectorComplete_law g ecc s).within rfl
  | .fetchFill g st ecc => (execFetchFill_law g st ecc s).within rfl
  | .start g st v => (execStart_law g st v s).within rfl
  | .stop g st v => (execStop_law g st v s).within rfl
  | .streamStopped g st => (execStreamStopped_law g st s).within rfl
  | .ddrReadRequest req u res held delayed => (execDdrReadRequest_law req u res held delayed s).within rfl
  | .ddrWriteRequest req u off data held delayed => (execDdrWriteRequest_law req u off data held delayed s).within rfl
  | .stripeGatherTimeout stripe => (execStripeGatherTimeout_law stripe s).within rfl
  | .patrolScrubStep res => (execPatrolScrubStep_law res s).within rfl
  | .watchClearTimeout ch => (execWatchClearTimeout_law ch s).within rfl
  | .deviceFailed ch cause => (execDeviceFailed_law ch cause s).within rfl
  | .ddrRetire r => (execDdrRetire_law r s).within rfl
  | .migrationChunk => (execMigrationChunk_law s).within rfl
  | .guardRegionZero reg => (execGuardRegionZero_law reg s).within rfl
  | .copy r => (execCopy_law r s).within rfl
  | .fill r => (execFill_law r s).within rfl
  | .paged r => (execPaged_law r s).within rfl
  | .copyDescriptorStart eng => (execCopyDescriptorStart_law eng s).within rfl
  | .copyDescriptorComplete eng ecc => (execCopyDescriptorComplete_law eng ecc s).within rfl
  | .copyListWake c ctx => (execCopyListWake_law c ctx s).within rfl
  | .copyListRestart c v => (execCopyListRestart_law c v s).within rfl
  | .functionLevelReset => (execFunctionLevelReset_law s).within rfl
  | .hotReset => (execHotReset_law s).within rfl
  | .linkDownTimeout => (execLinkDownTimeout_law s).within rfl
  | .busMasterEnableChange bme d3hot mse ctl => (execBusMasterEnableChange_law bme d3hot mse ctl s).within rfl
  | .hostReadFailure who why bus => (execHostReadFailure_law who why bus s).within rfl
  | .poisonedTlpReceived who bus => (execPoisonedTlpReceived_law who bus s).within rfl
  | .bar4Read off len => (execBar4Read_law off len s).within rfl
  | .bar4Write off data => (execBar4Write_law off data s).within rfl
  | .sqTailDoorbell off size v => (execSqTailDoorbell_law off size v s).within rfl
  | .cqHeadDoorbell off size v => (execCqHeadDoorbell_law off size v s).within rfl
  | .ringFetchComplete r => (execRingFetchComplete_law r s).within rfl
  | .msixTimeExpiry r => (execMsixTimeExpiry_law r s).within rfl
  | .ringEnable r => (execRingEnable_law r s).within rfl
  | .ringDisable r => (execRingDisable_law r s).within rfl
  | .ringDrainComplete r => (execRingDrainComplete_law r s).within rfl
  | .post r => (execPost_law r s).within rfl
  | .awaitStep r => (execAwaitStep_law r s).within rfl
  | .awaitDone r => (execAwaitDone_law r s).within rfl
  | .ctxCreate r => (execCtxCreate_law r s).within rfl
  | .ctxStart r => (execCtxStart_law r s).within rfl
  | .ctxTeardown r => (execCtxTeardown_law r s).within rfl
  | .teardownComplete c => (execTeardownComplete_law c s).within rfl
  | .modeStage r => (execModeStage_law r s).within rfl
  | .coreFence r => (execCoreFence_law r s).within rfl
  | .fenceClear r => (execFenceClear_law r s).within rfl
  | .protCommit v => (execProtCommit_law v s).within rfl
  | .protSetRetire ed => (execProtSetRetire_law ed s).within rfl
  | .registerWrite off lenDw be v => (execRegisterWrite_law off lenDw be v s).within rfl
  | .rcRead q => (execRcRead_law q s).within rfl
  | .pwWriteEffect off => (execPwWriteEffect_law_without_mem off s).within rfl
  | .pwWriteDrop off => (execPwWriteDrop_law off s).within rfl
  | .idTestSet v => (execIdTestSet_law v s).within rfl
  | .laneRetuneComplete p l rx => (execLaneRetuneComplete_law p l rx s).within rfl
  | .rxPowerLow p l cdbm => (execRxPowerLow_law p l cdbm s).within rfl
  | .tapRefresh p reads means => (execTapRefresh_law p reads means s).within rfl
  | .fabCombGo p => (execFabCombGo_law p s).within rfl
  | .fabSpareLocked p => (execFabSpareLocked_law p s).within rfl
  | .fabLowTraffic p load => (execFabLowTraffic_law p load s).within rfl
  | .fabHandoverWindowExpiry p => (execFabHandoverWindowExpiry_law p s).within rfl
  | .fabHandoverDrainDone p => (execFabHandoverDrainDone_law p s).within rfl
  | .fabHandoverDrainTimeout p => (execFabHandoverDrainTimeout_law p s).within rfl
  | .fabSwitchDone p => (execFabSwitchDone_law p s).within rfl
  | .fabRelockDone p ok stallUs => (execFabRelockDone_law p ok stallUs s).within rfl
  | .fabHandoverRetry p => (execFabHandoverRetry_law p s).within rfl
  | .fabCombRelockTimeout p => (execFabCombRelockTimeout_law p s).within rfl
  | .fabTapSelWrite p v => (execFabTapSelWrite_law p v s).within rfl
  | .trainingPhaseComplete p l f ber us => (execTrainingPhaseComplete_law p l f ber us s).within rfl
  | .trainingPhaseTimeout p l cause => (execTrainingPhaseTimeout_law p l cause s).within rfl
  | .codeSwitch p l => (execCodeSwitch_law p l s).within rfl
  | .shortCodeBerExceeded p l => (execShortCodeBerExceeded_law p l s).within rfl
  | .flitSlot p l => (execFlitSlot_law p l s).within rfl
  | .idle h type payload => (execIdle_law h type payload s).within rfl
  | .writeSegment h d => (execWriteSegment_law h d s).within rfl
  | .tokenOnly h d => (execTokenOnly_law h d s).within rfl
  | .readResp h d => (execReadResp_law h d s).within rfl
  | .data h tag index last bytes => (execData_law h tag index last bytes s).within rfl
  | .rdreq h d => (execRdreq_law h d s).within rfl
  | .notice h es => (execNotice_law h es s).within rfl
  | .noticeFlush p l => (execNoticeFlush_law p l s).within rfl
  | .ctrl h kind msgid frag lastFrag bytes => (execCtrl_law h kind msgid frag lastFrag bytes s).within rfl
  | .genChange sender pctx newGen oldGen => (execGenChange_law sender pctx newGen oldGen s).within rfl
  | .lane h rep => (execLane_law h rep s).within rfl
  | .laneReportDue p l ber10s ber1ms => (execLaneReportDue_law p l ber10s ber1ms s).within rfl
  | .beacon h b => (execBeacon_law h b s).within rfl
  | .beaconDue => (execBeaconDue_law s).within rfl
  | .ackTimeout p l => (execAckTimeout_law p l s).within rfl
  | .segmentTimeout m tag => (execSegmentTimeout_law m tag s).within rfl
  | .pairRetrainCmd p mask => (execPairRetrainCmd_law p mask s).within rfl
  | .surveySweepEnd frames => (execSurveySweepEnd_law frames s).within rfl
  | .chartPart h edition part parts crc bytes => (execChartPart_law h edition part parts crc bytes s).within rfl
  | .chartCommit => (execChartCommit_law s).within rfl
  | .chartApplyDeadline => (execChartApplyDeadline_law s).within rfl
  | .chartControlResend m => (execChartControlResend_law m s).within rfl
  | .staged h edition cause m => (execStaged_law h edition cause m s).within rfl
  | .applied h edition m us notUp => (execApplied_law h edition m us notUp s).within rfl
  | .surveyReport h m recs addr => (execSurveyReport_law h m recs addr s).within rfl
  | .surveyCmd h mask => (execSurveyCmd_law h mask s).within rfl
  | .lateModule m => (execLateModule_law m s).within rfl
  | .retryWaitExpiry m => (execRetryWaitExpiry_law m s).within rfl
  | .survey r => (execSurvey_law r s).within rfl
  | .chartRead r => (execChartRead_law r s).within rfl
  | .demand r passed => (execDemand_law r passed s).within rfl
  | .demandTimeout r => (execDemandTimeout_law r s).within rfl
  | .chartSubmit r => (execChartSubmit_law r s).within rfl
  | .loopTest r => (execLoopTest_law r s).within rfl
  | .loopTestEnd p ber unc => (execLoopTestEnd_law p ber unc s).within rfl
  | .leaseReq h b => (execLeaseReq_law h b s).within rfl
  | .leaseGrant h epoch holder solicited => (execLeaseGrant_law h epoch holder solicited s).within rfl
  | .leaseDeny h cause holder epoch => (execLeaseDeny_law h cause holder epoch s).within rfl
  | .leaseEnd h epoch cause => (execLeaseEnd_law h epoch cause s).within rfl
  | .released h epoch finalSeq => (execReleased_law h epoch finalSeq s).within rfl
  | .takeover h epoch holder prev kind => (execTakeover_law h epoch holder prev kind s).within rfl
  | .heartbeat h b => (execHeartbeat_law h b s).within rfl
  | .heartbeatAck h edition cfgFollows => (execHeartbeatAck_law h edition cfgFollows s).within rfl
  | .mirror rec => (execMirror_law rec s).within rfl
  | .mirrorAck seq => (execMirrorAck_law seq s).within rfl
  | .mirrorAckLate seq => (execMirrorAckLate_law seq s).within rfl
  | .snapshot base part parts recs => (execSnapshot_law base part parts recs s).within rfl
  | .eventReport h f => (execEventReport_law h f s).within rfl
  | .moduleEvent h m cause ctx newGen => (execModuleEvent_law h m cause ctx newGen s).within rfl
  | .bind h c bs => (execBind_law h c bs s).within rfl
  | .jobCtl h job c action step number => (execJobCtl_law h job c action step number s).within rfl
  | .jobReport h job b => (execJobReport_law h job b s).within rfl
  | .statusReq h chart => (execStatusReq_law h chart s).within rfl
  | .status h b => (execStatus_law h b s).within rfl
  | .podConfig h cfg => (execPodConfig_law h cfg s).within rfl
  | .probe h => (execProbe_law h s).within rfl
  | .ack h of => (execAck_law h of s).within rfl
  | .ackRetransmit of => (execAckRetransmit_law of s).within rfl
  | .leaseRenewDue => (execLeaseRenewDue_law s).within rfl
  | .candidacyDue => (execCandidacyDue_law s).within rfl
  | .holderLeaseTimerEnd => (execHolderLeaseTimerEnd_law s).within rfl
  | .arbiterLeaseExpiry => (execArbiterLeaseExpiry_law s).within rfl
  | .arbiterStartingEnd => (execArbiterStartingEnd_law s).within rfl
  | .rebuildStatusWait => (execRebuildStatusWait_law s).within rfl
  | .quietPointReturn => (execQuietPointReturn_law s).within rfl
  | .twinLost flapping => (execTwinLost_law flapping s).within rfl
  | .twinRestored => (execTwinRestored_law s).within rfl
  | .holdEntry => (execHoldEntry_law s).within rfl
  | .heartbeatDue => (execHeartbeatDue_law s).within rfl
  | .memberSilent m => (execMemberSilent_law m s).within rfl
  | .probeTimeout m => (execProbeTimeout_law m s).within rfl
  | .riskScoreUpdate berPairs ceCores => (execRiskScoreUpdate_law berPairs ceCores s).within rfl
  | .authorityClaim h => (execAuthorityClaim_law h s).within rfl
  | .authorityHeartbeatTimeout => (execAuthorityHeartbeatTimeout_law s).within rfl
  | .ckptRegister r => (execCkptRegister_law r s).within rfl
  | .ckptBegin r => (execCkptBegin_law r s).within rfl
  | .journal r => (execJournal_law r s).within rfl
  | .drain r => (execDrain_law r s).within rfl
  | .restore r => (execRestore_law r s).within rfl
  | .restoreComplete c status sect gran ms img => (execRestoreComplete_law c status sect gran ms img s).within rfl
  | .target r => (execTarget_law r s).within rfl
  | .targetConnected r => (execTargetConnected_law r s).within rfl
  | .abort r => (execAbort_law r s).within rfl
  | .invalidate r => (execInvalidate_law r s).within rfl
  | .fullFreezeComplete c us => (execFullFreezeComplete_law c us s).within rfl
  | .periodicCheckpoint c => (execPeriodicCheckpoint_law c s).within rfl
  | .granuleCopy c => (execGranuleCopy_law c s).within rfl
  | .copyAheadRelease c => (execCopyAheadRelease_law c s).within rfl
  | .locatorWriteComplete c ms => (execLocatorWriteComplete_law c ms s).within rfl
  | .drainComplete c slotB ms => (execDrainComplete_law c slotB ms s).within rfl
  | .drainFail c slotB cause nvme => (execDrainFail_law c slotB cause nvme s).within rfl
  | .miniWriteComplete us => (execMiniWriteComplete_law us s).within rfl
  | .coreReset g cause => (execCoreReset_law g cause s).within rfl
  | .clusterReset c cause => (execClusterReset_law c cause s).within rfl
  | .halfReset h cause => (execHalfReset_law h cause s).within rfl
  | .computeReset cause => (execComputeReset_law cause s).within rfl
  | .fabricLaneReset p l cause => (execFabricLaneReset_law p l cause s).within rfl
  | .moduleWarmReset cause => (execModuleWarmReset_law cause s).within rfl
  | .moduleColdReset cause => (execModuleColdReset_law cause s).within rfl
  | .resetDrainEnd => (execResetDrainEnd_law s).within rfl
  | .resetSampleWritten => (execResetSampleWritten_law s).within rfl
  | .resetRelease us => (execResetRelease_law us s).within rfl
  | .resetEscalation => (execResetEscalation_law s).within rfl
  | .streamWaitHang g st => (execStreamWaitHang_law g st s).within rfl
  | .streamIssueHang g st => (execStreamIssueHang_law g st s).within rfl
  | .progressHang g st => (execProgressHang_law g st s).within rfl
  | .stopHang g st => (execStopHang_law g st s).within rfl
  | .routerHang c port rsp => (execRouterHang_law c port rsp s).within rfl
  | .pairHang p l => (execPairHang_law p l s).within rfl
  | .chipletWatchdog p => (execChipletWatchdog_law p s).within rfl
  | .halfControllerWatchdog h => (execHalfControllerWatchdog_law h s).within rfl
  | .hubWatchdog hpc => (execHubWatchdog_law hpc s).within rfl
  | .hubFirmwareException hpc => (execHubFirmwareException_law hpc s).within rfl
  | .hubMemoryUe hpc => (execHubMemoryUe_law hpc s).within rfl
  | .ddrControllerFault hpc => (execDdrControllerFault_law hpc s).within rfl
  | .dumpWritten kib us => (execDumpWritten_law kib us s).within rfl
  | .dumpWellCopyEnd result us => (execDumpWellCopyEnd_law result us s).within rfl
  | .dumpClear v => (execDumpClear_law v s).within rfl
  | .rstHangCfgWrite v => (execRstHangCfgWrite_law v s).within rfl
  | .timeNowCapture => (execTimeNowCapture_law s).within rfl
  | .servoUpdate adj => (execServoUpdate_law adj s).within rfl
  | .sourceLost => (execSourceLost_law s).within rfl
  | .holdoffEnd => (execHoldoffEnd_law s).within rfl
  | .lockAcquired => (execLockAcquired_law s).within rfl
  | .sync port twoStep origin arr => (execSync_law port twoStep origin arr s).within rfl
  | .followUp port origin => (execFollowUp_law port origin s).within rfl
  | .announce port grandmaster better => (execAnnounce_law port grandmaster better s).within rfl
  | .delayResp port recvT => (execDelayResp_law port recvT s).within rfl
  | .pdelayReq port arr => (execPdelayReq_law port arr s).within rfl
  | .pdelayResp port reqRecv arr => (execPdelayResp_law port reqRecv arr s).within rfl
  | .pdelayRespFollowUp port respSend => (execPdelayRespFollowUp_law port respSend s).within rfl
  | .ppsEdge t => (execPpsEdge_law t s).within rfl
  | .timeStepGo => (execTimeStepGo_law s).within rfl
  | .manualSet => (execManualSet_law s).within rfl
  | .manualClear => (execManualClear_law s).within rfl
  | .alarmArm a => (execAlarmArm_law a s).within rfl
  | .alarmFire a => (execAlarmFire_law a s).within rfl
  | .todEnable n => (execTodEnable_law n s).within rfl
  | .todDisable n => (execTodDisable_law n s).within rfl
  | .todPulseStart n => (execTodPulseStart_law n s).within rfl
  | .todPulseEnd n => (execTodPulseEnd_law n s).within rfl
  | .counterCfgWrite off v => (execCounterCfgWrite_law off v s).within rfl
  | .counterWrap off => (execCounterWrap_law off s).within rfl
  | .snapshotCmd v => (execSnapshotCmd_law v s).within rfl
  | .periodicSnapshot => (execPeriodicSnapshot_law s).within rfl
  | .sampleTag g st => (execSampleTag_law g st s).within rfl
  | .sampleRecordWrite => (execSampleRecordWrite_law s).within rfl
  | .samplingEnable v => (execSamplingEnable_law v s).within rfl
  | .samplingDisable v => (execSamplingDisable_law v s).within rfl
  | .samplingDrainEnd => (execSamplingDrainEnd_law s).within rfl
  | .logbookRecord => (execLogbookRecord_law s).within rfl
  | .inputExcursionEnd cls extreme us watts => (execInputExcursionEnd_law cls extreme us watts s).within rfl
  | .dropout cv watts => (execDropout_law cv watts s).within rfl
  | .overvolt cv watts => (execOvervolt_law cv watts s).within rfl
  | .holdupExhausted => (execHoldupExhausted_law s).within rfl
  | .inputRestored => (execInputRestored_law s).within rfl
  | .powerCapExceeded watts => (execPowerCapExceeded_law watts s).within rfl
  | .powerCapRelease => (execPowerCapRelease_law s).within rfl
  | .dieSensorRead temps ddr cv watts => (execDieSensorRead_law temps ddr cv watts s).within rfl
  | .throttleStep h => (execThrottleStep_law h s).within rfl
  | .thermalTrip sv reading => (execThermalTrip_law sv reading s).within rfl
  | .thermalRestart => (execThermalRestart_law s).within rfl
  | .coolantWarning rise inlet outlet => (execCoolantWarning_law rise inlet outlet s).within rfl
  | .clockLost bit => (execClockLost_law bit s).within rfl
  | .clrExtremes v => (execClrExtremes_law v s).within rfl
  | .bootStepComplete f => (execBootStepComplete_law f s).within rfl
  | .bootPwrfailRelease => (execBootPwrfailRelease_law s).within rfl
  | .calStepComplete f => (execCalStepComplete_law f s).within rfl
  | .surveyWaitTimeout => (execSurveyWaitTimeout_law s).within rfl
  | .updOpen r => (execUpdOpen_law r s).within rfl
  | .updWrite r wellOk => (execUpdWrite_law r wellOk s).within rfl
  | .updCommit r wellOk => (execUpdCommit_law r wellOk s).within rfl
  | .updAbort r => (execUpdAbort_law r s).within rfl
  | .updStatus r => (execUpdStatus_law r s).within rfl
  | .updSessionIdle => (execUpdSessionIdle_law s).within rfl
  | .attest r => (execAttest_law r s).within rfl
  | .sidebandAttest nonce => (execSidebandAttest_law nonce s).within rfl
  | .pwrfailNAssert toggling edges cv watts => (execPwrfailNAssert_law toggling edges cv watts s).within rfl
  | .rackAttn => (execRackAttn_law s).within rfl
  | .rackAttnMask masked => (execRackAttnMask_law masked s).within rfl
  | .perstN => (execPerstN_law s).within rfl
  | .slotIdChange v => (execSlotIdChange_law v s).within rfl
  | .ejectorOpen => (execEjectorOpen_law s).within rfl
  | .ejectorClose => (execEjectorClose_law s).within rfl
  | .ethPortEnable p => (execEthPortEnable_law p s).within rfl
  | .ethPortDisable p => (execEthPortDisable_law p s).within rfl
  | .ethPortDrainEnd p => (execEthPortDrainEnd_law p s).within rfl
  | .osfpModuleChange p what powerClass => (execOsfpModuleChange_law p what powerClass s).within rfl
  | .ethernetFrame p frame ce ue => (execEthernetFrame_law p frame ce ue s).within rfl
  | .controlLinkChange link => (execControlLinkChange_law link s).within rfl
  | .locate v => (execLocate_law v s).within rfl
  | .setEndpointId eid i3c => (execSetEndpointId_law eid i3c s).within rfl
  | .getEndpointId => (execGetEndpointId_law s).within rfl
  | .getMctpVersionSupport mtype => (execGetMctpVersionSupport_law mtype s).within rfl
  | .getMessageTypeSupport => (execGetMessageTypeSupport_law s).within rfl
  | .getVendorDefinedMessageSupport ix => (execGetVendorDefinedMessageSupport_law ix s).within rfl
  | .getTid => (execGetTid_law s).within rfl
  | .setTid tid => (execSetTid_law tid s).within rfl
  | .getPldmVersion ptype => (execGetPldmVersion_law ptype s).within rfl
  | .getPldmTypes => (execGetPldmTypes_law s).within rfl
  | .getPldmCommands ptype => (execGetPldmCommands_law ptype s).within rfl
  | .getPdr handle => (execGetPdr_law handle s).within rfl
  | .getSensorReading sensor => (execGetSensorReading_law sensor s).within rfl
  | .getStateSensorReadings sensor => (execGetStateSensorReadings_law sensor s).within rfl
  | .getFruRecordTableMetadata => (execGetFruRecordTableMetadata_law s).within rfl
  | .getFruRecordTable => (execGetFruRecordTable_law s).within rfl
  | .linkRateOrWidthChange rate10 width => (execLinkRateOrWidthChange_law rate10 width s).within rfl
  | .hostInterfaceResetComplete => (execHostInterfaceResetComplete_law s).within rfl
  | .bar0ReadRefused off lenDw be => (execBar0ReadRefused_law off lenDw be s).within rfl
  | .codewordLockLost p l => (execCodewordLockLost_law p l s).within rfl
  | .preFecBerExceeded p l => (execPreFecBerExceeded_law p l s).within rfl
  | .ppsLost => (execPpsLost_law s).within rfl

theorem pending_not_touched (c : Instr) : .pending ∉ touches c := by
  cases c <;> exact of_decide_eq_true rfl

theorem now_not_touched (c : Instr) : .now ∉ touches c := by
  cases c <;> exact of_decide_eq_true rfl

theorem exec_keeps_pending {c : Instr} {s t : State} (h : exec c s = .next t) : t.pending = s.pending := by
  obtain ⟨u, hu, hlaw⟩ := exec_law c s
  obtain rfl : u = t := by simpa [hu] using h
  exact hlaw.1 .pending (pending_not_touched c)

theorem exec_keeps_inv {c : Instr} {s t : State} (h : exec c s = .next t) (hs : Inv s) : Inv t := by
  obtain ⟨u, hu, hlaw⟩ := exec_law c s
  obtain rfl : u = t := by simpa [hu] using h
  exact hlaw.2 hs

/-! ### A step -/

theorem step_of_pending_nil {s : State} (h : s.pending = []) : step s = .next (tick s) := by
  rw [step, h]

theorem step_of_pending_cons {s : State} {c : Instr} {rest : List Instr} (h : s.pending = c :: rest) :
    step s = exec c { s with pending := rest } := by
  rw [step, h]

theorem tick_of_off {s : State} (h : s.boot.state = .off) : tick s = s := if_pos h

theorem tick_of_up {s : State} (h : s.boot.state ≠ .off) :
    tick s = { countCycles s with now := (countCycles s).now + 1, time := podTick (countCycles s).time } := if_neg h

/-- Settles O37: the law of `exec`, and the table's two rows that no command lists. -/
theorem everyCommandAnswers : Obligations.EveryCommandAnswers := by
  unfold Obligations.EveryCommandAnswers
  intro c s
  obtain ⟨t, ht, hlaw⟩ := exec_law c s
  exact ⟨⟨t, ht, hlaw.1⟩, pending_not_touched c, now_not_touched c⟩

/-- Settles O35: a tick and every command keep the canonical form. -/
theorem stepKeepsInvariant : Obligations.StepKeepsInvariant := by
  unfold Obligations.StepKeepsInvariant
  intro s t hstep hs
  cases hp : s.pending with
  | nil =>
    obtain rfl : tick s = t := by simpa [step_of_pending_nil hp] using hstep
    exact (tick_law s).2 hs
  | cons c rest => exact exec_keeps_inv ((step_of_pending_cons hp).symm.trans hstep) hs

/-- Settles O36: the reset memory lists nothing. -/
theorem resetInvariant : Obligations.ResetInvariant := wf_reset

/-- Settles O38. -/
theorem stepRunsFrontCommand : Obligations.StepRunsFrontCommand :=
  fun _ _ _ => step_of_pending_cons rfl

/-- Settles O40: a tick leaves the empty queue, a command the queue's rest. -/
theorem queueDiscipline : Obligations.QueueDiscipline := by
  unfold Obligations.QueueDiscipline
  intro s
  cases hp : s.pending with
  | nil => exact ⟨_, step_of_pending_nil hp, by rw [(tick_law s).1 .pending (by decide), hp]; rfl⟩
  | cons c rest =>
    obtain ⟨t, ht, -⟩ := exec_law c { s with pending := rest }
    exact ⟨t, (step_of_pending_cons hp).trans ht, exec_keeps_pending ht⟩

/-- Settles O39: the module that is OFF idles, any other counts its cycles and advances its two clocks. -/
theorem emptyQueueTicks : Obligations.EmptyQueueTicks := by
  unfold Obligations.EmptyQueueTicks
  intro s hp
  refine ⟨tick s, step_of_pending_nil hp, fun p hmem => (tick_law s).1 p (by simpa [and_comm, or_comm, or_left_comm] using hmem),
    tick_of_off, fun hup => ?_⟩
  rw [tick_of_up hup]
  exact ⟨rfl, rfl, rfl⟩

end Sys2Proof.Machine
end

section
/-! The common instructions (06_stream_programs.md, R110 to R119, R126, R141): what each does when its word issues, which fields of the core it
leaves as they were, and the faults of operands that it refuses. -/

namespace Sys2Proof.Machine

/-! ### The fields of one core, as `Part` has the parts of the state -/

/-- The fields of a core that instructions write: its streams, queues and engines one by one, its state, its CORE_FAULT. -/
inductive Field
  | strm (st : Nat) | queue (q : Nat) | ote (e : Nat) | state | fault
  deriving DecidableEq

/-- A field of core `g` is as it was. -/
def Field.Same (g : Nat) (s t : State) : Field → Prop
  | .strm st => Machine.strm t g st = Machine.strm s g st
  | .queue q => Machine.queue t g q = Machine.queue s g q
  | .ote e => Machine.ote t g e = Machine.ote s g e
  | .state => (core t g).state = (core s g).state
  | .fault => (core t g).fault = (core s g).fault

/-- Only the listed fields of core `g` may differ, besides sampling's counts and the counters. -/
def OnlyFields (g : Nat) (fs : List Field) (s t : State) : Prop :=
  OnlyParts [.cores, .tally] s t ∧ OnlyCore g s t ∧ ∀ f, f ∉ fs → f.Same g s t

theorem Field.Same.trans {g : Nat} {f : Field} {s t u : State} (h : f.Same g s t) (k : f.Same g t u) : f.Same g s u := by
  cases f <;> exact Eq.trans k h

namespace OnlyFields

variable {g : Nat} {fs gs : List Field} {s t u : State}

theorem refl (g : Nat) (fs : List Field) (s : State) : OnlyFields g fs s s :=
  ⟨(Law.refl _ s).1, fun _ _ => rfl, fun f _ => by cases f <;> rfl⟩

theorem trans (h : OnlyFields g fs s t) (k : OnlyFields g fs t u) : OnlyFields g fs s u :=
  ⟨fun p hp => (h.1 p hp).trans (k.1 p hp), fun x hx => (k.2.1 x hx).trans (h.2.1 x hx), fun f hf => (h.2.2 f hf).trans (k.2.2 f hf)⟩

theorem mono (h : OnlyFields g fs s t) (hsub : fs ⊆ gs) : OnlyFields g gs s t :=
  ⟨h.1, h.2.1, fun f hf => h.2.2 f fun hin => hf (hsub hin)⟩

theorem updStrm (g st : Nat) (f : Stream → Stream) (s : State) : OnlyFields g [.strm st] s (updStrm g st f s) := by
  refine ⟨((updStrm_law g st f s).mono (by decide)).1, fun x hx => ?_, fun fd hfd => ?_⟩
  · rw [updStrm_eq, core_setStrm, if_neg hx]
  · cases fd <;> simp only [List.mem_singleton, Field.strm.injEq] at hfd <;> simp only [Field.Same, updStrm_eq]
    case strm x => rw [strm_setStrm, if_neg (by simp [hfd])]
    case queue => rw [queue_setStrm]
    case ote => rw [ote_setStrm]
    all_goals rw [core_setStrm, if_pos rfl]

theorem setQueue (g q : Nat) (k : TokQueue) (s : State) : OnlyFields g [.queue q] s (setQueue g q k s) := by
  refine ⟨((setQueue_law g q k s).mono (by decide)).1, fun x hx => ?_, fun fd hfd => ?_⟩
  · rw [core_setQueue, if_neg hx]
  · cases fd <;> simp only [List.mem_singleton, Field.queue.injEq] at hfd <;> simp only [Field.Same]
    case strm => rw [strm_setQueue]
    case queue x => rw [queue_setQueue, if_neg (by simp [hfd])]
    case ote => rw [ote_setQueue]
    all_goals rw [core_setQueue, if_pos rfl]

theorem setOte (g e : Nat) (k : Ote) (s : State) : OnlyFields g [.ote e] s (setOte g e k s) := by
  refine ⟨((setOte_law g e k s).mono (by decide)).1, fun x hx => ?_, fun fd hfd => ?_⟩
  · rw [core_setOte, if_neg hx]
  · cases fd <;> simp only [List.mem_singleton, Field.ote.injEq] at hfd <;> simp only [Field.Same]
    case strm => rw [strm_setOte]
    case queue => rw [queue_setOte]
    case ote x => rw [ote_setOte, if_neg (by simp [hfd])]
    all_goals rw [core_setOte, if_pos rfl]

theorem coreFault (g i : Nat) (s : State) : OnlyFields g [.fault] s (coreFault g i s) := by
  refine ⟨((coreFault_law g i s).mono (by decide)).1, fun x hx => ?_, fun fd hfd => ?_⟩
  · unfold Machine.coreFault
    rw [updCore_eq, core_setCore, if_neg hx]
  · cases fd <;> simp only [List.mem_singleton, not_true_eq_false] at hfd <;> simp only [Field.Same]
    case strm => rw [strm_coreFault]
    case queue => rw [queue_coreFault]
    case ote => rw [ote_coreFault]
    case state => rw [core_coreFault_same]

/-- A change that leaves the cores as they were and touches the counters at most. -/
theorem of_cores (hlaw : OnlyParts [.tally] s t) : OnlyFields g fs s t := by
  have hcores : t.cores = s.cores := hlaw .cores (by decide)
  refine ⟨fun p hp => hlaw p fun h => hp (by simp_all), fun x _ => core_of_cores hcores x, fun f _ => ?_⟩
  cases f <;> simp only [Field.Same]
  case strm => exact strm_of_cores hcores ..
  case queue => exact queue_of_cores hcores ..
  case ote => exact ote_of_cores hcores ..
  all_goals rw [core_of_cores hcores]

theorem countCore (g ev qual : Nat) (s : State) : OnlyFields g fs s (countCore g ev qual s) := of_cores (countCore_law ..).1

theorem issued (g st : Nat) (s : State) : OnlyFields g [.strm st] s (issued g st s) := by
  refine ⟨(issued_law g st s).1, fun x hx => core_issued_ne g x st s hx, fun f hf => ?_⟩
  cases f <;> simp only [List.mem_singleton, Field.strm.injEq] at hf <;> simp only [Field.Same]
  case strm x => rw [strm_issued, if_neg (by simp [hf])]
  case queue => rw [queue_issued]
  case ote => rw [ote_issued]
  case state => rw [issued_core_state]
  case fault => rw [issued_core_fault]

theorem stallAt (g st code q : Nat) (s : State) : OnlyFields g [.strm st] s (stallAt g st code q s) := updStrm g st _ s

/-- Of core `g` only one stream differs. -/
theorem onlyStream {st : Nat} (h : OnlyFields g [.strm st] s t) : OnlyStream g st s t :=
  ⟨h.2.1, fun x hx => h.2.2 (.strm x) (by simp [hx]), fun q => h.2.2 (.queue q) (by simp), fun e => h.2.2 (.ote e) (by simp),
    h.2.2 .state (by simp), h.2.2 .fault (by simp)⟩

end OnlyFields

/-! ### A jump -/

@[simp] theorem jump_state (t : Word) (r : Stream) : (jump t r).state = r.state := by unfold jump; split <;> rfl
@[simp] theorem jump_pc (t : Word) (r : Stream) : (jump t r).pc = t := by unfold jump; split <;> rfl
@[simp] theorem jump_sregs (t : Word) (r : Stream) : (jump t r).sregs = r.sregs := by unfold jump; split <;> rfl
@[simp] theorem jump_flags (t : Word) (r : Stream) : (jump t r).flags = r.flags := by unfold jump; split <;> rfl
@[simp] theorem jump_outst (t : Word) (r : Stream) : (jump t r).outst = r.outst := by unfold jump; split <;> rfl

/-! ### NOP, LI, ALU, BR and RDSYS, case by case (R113, R114) -/

/-- The stream's instruction writes `v` to register `d`, and the stream goes on. -/
def wroteReg (g st d : Nat) (v : DWord) (s : State) : State := issued g st (updStrm g st (setSreg d v) s)

/-- LI's result: the immediate, over the high half of the destination or over all of it. -/
def liValue (r : Stream) (w : IWord) : DWord :=
  if bit w 16 then imm32 w ++ (sreg r.sregs (fld w 8 4)).extractLsb' 0 32 else (imm32 w).setWidth 64

/-- ALU's second operand. -/
def aluB (r : Stream) (w : IWord) : DWord := if bit w 24 then (imm32 w).signExtend 64 else sreg r.sregs (fld w 16 4)

/-- What a taken branch leaves: the stream issued, its fetch state moved to the target. -/
def branched (g st : Nat) (w : IWord) (s : State) : State :=
  updStrm g st (fun r' => jump (pcAdd (strm s g st).pc (imm32 w).toInt) { r' with wbase := (strm s g st).wbase, fbuf := (strm s g st).fbuf })
    (issued g st s)

section
variable {s : State} {g : Core} {st : Str} {w : IWord}

theorem exec_nop_of_issues (h : Issues s g st 0 w) : exec (.nop g st) s = .next (issued g st s) := by
  change execNop g st s = _
  rw [execNop, front_of_issues h]

theorem exec_li_of_issues (h : Issues s g st 5 w) :
    exec (.li g st) s = .next (wroteReg g st (fld w 8 4) (liValue (strm s g st) w) s) := by
  change execLi g st s = _
  rw [execLi, front_of_issues h]
  rfl

theorem exec_alu_of_issues (h : Issues s g st 7 w) : exec (.alu g st) s =
    .next ((aluOp (fld w 20 4) (sreg (strm s g st).sregs (fld w 12 4)) (aluB (strm s g st) w)).elim
      (strFault g st 4 20 true 7 (strm s g st).pc s) fun v => wroteReg g st (fld w 8 4) v s) := by
  change execAlu g st s = _
  rw [execAlu, front_of_issues h]
  unfold aluB
  dsimp only
  split <;> rename_i hop <;> rw [hop] <;> rfl

theorem exec_br_of_issues (h : Issues s g st 8 w) : exec (.br g st) s =
    .next ((brCond (fld w 20 4) (sreg (strm s g st).sregs (fld w 12 4)) (sreg (strm s g st).sregs (fld w 16 4))).elim
      (strFault g st 4 20 true 8 (strm s g st).pc s) fun taken => if taken then branched g st w s else issued g st s) := by
  change execBr g st s = _
  rw [execBr, front_of_issues h]
  split <;> rename_i hcond <;> rw [hcond] <;> rfl

theorem exec_rdsys_of_issues (h : Issues s g st 9 w) : exec (.rdsys g st) s =
    .next ((sysValue s g st (fld w 16 8)).elim (strFault g st 4 16 true 9 (strm s g st).pc s)
      fun v => wroteReg g st (fld w 8 4) (BitVec.ofNat 64 v) s) := by
  change execRdsys g st s = _
  rw [execRdsys, front_of_issues h]
  split <;> rename_i hsel <;> rw [hsel] <;> rfl

theorem Issues.ne_faulted {o : Nat} (h : Issues s g st o w) : (strm s g st).state ≠ .faulted := by
  rw [h.1]; decide

end

/-! ### What they leave in the stream -/

section
variable {s : State} {g st : Nat}

theorem strm_wroteReg (d : Nat) (v : DWord) : strm (wroteReg g st d v s) g st =
    slide (pcAdd (strm s g st).pc 1) { setSreg d v (strm s g st) with stall := 0, stallQ := 0, stall0 := 0 } := by
  simp [wroteReg]

theorem advanced_wroteReg (hrun : (strm s g st).state = .running) (d : Nat) (v : DWord) : Advanced s (wroteReg g st d v s) g st := by
  simp [Advanced, strm_wroteReg, hrun]

theorem sreg_wroteReg (d x : Nat) (v : DWord) : sreg (strm (wroteReg g st d v s) g st).sregs x =
    if x = 0 then 0 else if x = d then v else sreg (strm s g st).sregs x := by
  rw [strm_wroteReg, slide_sregs]
  exact sreg_setSreg d x v _

theorem sreg_wroteReg_same (d : Nat) (v : DWord) : sreg (strm (wroteReg g st d v s) g st).sregs d = if d = 0 then 0 else v := by
  rw [sreg_wroteReg, if_pos rfl]

theorem strm_branched (w : IWord) : strm (branched g st w s) g st = jump (pcAdd (strm s g st).pc (imm32 w).toInt)
    { slide (pcAdd (strm s g st).pc 1) { strm s g st with stall := 0, stallQ := 0, stall0 := 0 } with
        wbase := (strm s g st).wbase, fbuf := (strm s g st).fbuf } := by
  simp [branched]

theorem onlyFields_wroteReg (d : Nat) (v : DWord) : OnlyFields g [.strm st] s (wroteReg g st d v s) :=
  (OnlyFields.updStrm ..).trans (.issued ..)

theorem onlyFields_branched (w : IWord) : OnlyFields g [.strm st] s (branched g st w s) :=
  (OnlyFields.issued ..).trans (.updStrm ..)

/-- The frame of an instruction that writes at most register `d` of its own stream. -/
def WritesReg (g st d : Nat) (s t : State) : Prop :=
  OnlyFields g [.strm st] s t ∧ (strm t g st).flags = (strm s g st).flags ∧ (strm t g st).outst = (strm s g st).outst
    ∧ ∀ x, x ≠ d → sreg (strm t g st).sregs x = sreg (strm s g st).sregs x

theorem writesReg_wroteReg (d : Nat) (v : DWord) : WritesReg g st d s (wroteReg g st d v s) := by
  refine ⟨onlyFields_wroteReg d v, ?_, ?_, fun x hx => ?_⟩
  · simp [strm_wroteReg]
  · simp [strm_wroteReg]
  · rw [sreg_wroteReg, if_neg hx]
    split
    · rename_i h0; rw [h0, sreg_zero]
    · rfl

theorem writesReg_issued (d : Nat) : WritesReg g st d s (issued g st s) :=
  ⟨.issued .., by simp, by simp, fun _ _ => by simp⟩

theorem writesReg_branched (d : Nat) (w : IWord) : WritesReg g st d s (branched g st w s) :=
  ⟨onlyFields_branched w, by simp [strm_branched], by simp [strm_branched], fun _ _ => by simp [strm_branched]⟩

end

theorem strm_state_strFault {s : State} {g st : Nat} (h : (strm s g st).state ≠ .faulted) (cause info opc : Nat) (b : Bool) (pc : Word) :
    (strm (strFault g st cause info b opc pc s) g st).state = .faulted := by
  rw [strm_strFault _ _ _ _ _ _ _ _ _ _ h, if_pos ⟨rfl, rfl⟩]

theorem not_running_strFault {s : State} {g st : Nat} (h : (strm s g st).state ≠ .faulted) (cause info opc : Nat) (b : Bool) (pc : Word) :
    (strm (strFault g st cause info b opc pc s) g st).state ≠ .running := by
  rw [strm_state_strFault h]; decide

section
variable {s t : State} {g : Core} {st : Str} {w : IWord} {d : Nat}

/-- An instruction that writes a register or, its operand refused, faults: unless it faults it writes at most that register. -/
theorem writesReg_of_elim {α : Type} {o cause info opc : Nat} {b : Bool} {pc : Word} (h : Issues s g st o w) {x : Option α} {f : α → State}
    (hf : ∀ a, WritesReg g st d s (f a)) (hexec : Host.Outcome.next (x.elim (strFault g st cause info b opc pc s) f) = (.next t : Out))
    (hrun : (strm t g st).state = .running) : WritesReg g st d s t := by
  injection hexec with hexec
  subst hexec
  cases x with
  | none => exact (not_running_strFault h.ne_faulted _ _ _ _ _ hrun).elim
  | some a => exact hf a

end

/-- Settles O48: each of the five either faults or writes at most its destination register, NOP and BR no register. -/
theorem registerInstructionFrame : Obligations.RegisterInstructionFrame := by
  unfold Obligations.RegisterInstructionFrame
  intro c o s t g st w hrow h hexec hrun
  have key : ∀ d, (o = 0 ∨ o = 8 ∨ d = fld w 8 4) → WritesReg g st d s t := by
    intro d hd
    rcases hrow with ⟨rfl, rfl⟩ | ⟨rfl, rfl⟩ | ⟨rfl, rfl⟩ | ⟨rfl, rfl⟩ | ⟨rfl, rfl⟩
    · obtain rfl : issued g st s = t := by simpa [exec_nop_of_issues h] using hexec
      exact writesReg_issued d
    · obtain rfl : d = fld w 8 4 := by simpa using hd
      obtain rfl : wroteReg g st (fld w 8 4) (liValue (strm s g st) w) s = t := by simpa [exec_li_of_issues h] using hexec
      exact writesReg_wroteReg ..
    · obtain rfl : d = fld w 8 4 := by simpa using hd
      exact writesReg_of_elim h (fun v => writesReg_wroteReg _ v) ((exec_alu_of_issues h).symm.trans hexec) hrun
    · refine writesReg_of_elim h (fun taken => ?_) ((exec_br_of_issues h).symm.trans hexec) hrun
      cases taken
      · exact writesReg_issued d
      · exact writesReg_branched d w
    · obtain rfl : d = fld w 8 4 := by simpa using hd
      exact writesReg_of_elim h (fun v => writesReg_wroteReg _ _) ((exec_rdsys_of_issues h).symm.trans hexec) hrun
  obtain ⟨hfields, hflags, houtst, hregs⟩ := key _ (.inr (.inr rfl))
  refine ⟨hfields.1, hfields.onlyStream, hflags, houtst, fun x hx => ?_, rfl⟩
  rcases hx with h0 | h8 | hx
  · exact (key (x + 1) (.inl h0)).2.2.2 x (by omega)
  · exact (key (x + 1) (.inr (.inl h8))).2.2.2 x (by omega)
  · exact hregs x hx

end Sys2Proof.Machine
end

section
/-! HALT, RSIGNAL, FENCE, STEPMARK and VSTAT (06_stream_programs.md, R113, R114, R116, R119, R126, R141), and the operands that fault at issue
(R127). -/

namespace Sys2Proof.Machine

/-! ### What reports and tokens leave in the streams -/

/-- A reading that every change of a list leaves as it was. -/
theorem foldl_keeps {σ α β : Type} {read : σ → β} {f : σ → α → σ} (h : ∀ x a, read (f x a) = read x) (l : List α) (s : σ) :
    read (l.foldl f s) = read s := by
  induction l generalizing s with
  | nil => rfl
  | cons a l ih => rw [List.foldl_cons, ih, h]

@[simp] theorem strm_complete (r status x y : Nat) (e : Entry) (result : List Byte) (s : State) :
    strm (complete r e status result s) x y = strm s x y := strm_of_cores ((complete_law ..).1 .cores (by decide)) x y

@[simp] theorem strm_entryToken (kind r x y : Nat) (e : Entry) (s : State) : strm (entryToken kind r e s).2 x y = strm s x y := by
  unfold entryToken
  repeat' split
  all_goals simp

@[simp] theorem strm_succeed (kind r x y : Nat) (e : Entry) (result : List Byte) (s : State) :
    strm (succeed kind r e result s) x y = strm s x y := by
  unfold succeed
  rw [strm_complete, strm_entryToken]

@[simp] theorem strm_satisfyAwaits (c x y : Nat) (s : State) : strm (satisfyAwaits c s) x y = strm s x y := by
  unfold satisfyAwaits
  dsimp only
  split
  · rfl
  · refine foldl_keeps (read := fun s => strm s x y) (fun s p => ?_) _ s
    split
    · exact strm_succeed ..
    · rfl

@[simp] theorem strm_gateTokens (c x y : Nat) (step : Word) (s : State) : strm (gateTokens c step s) x y = strm s x y := by
  unfold gateTokens
  split
  · split
    · exact foldl_keeps (read := fun s => strm s x y) (fun s g => strm_remoteToken ..) _ s
    · rfl
  · rfl

@[simp] theorem strm_postEvent (code source : Nat) (c : Option Nat) (p0 p1 p2 p3 x y : Nat) (s : State) :
    strm (postEvent code source c p0 p1 p2 p3 s) x y = strm s x y := strm_of_cores (by simp) x y

@[simp] theorem strm_setCtx (c : Nat) (k : CtxSt) (x y : Nat) (s : State) : strm (setCtx c k s) x y = strm s x y := rfl

@[simp] theorem strm_checkDone (c x y : Nat) (s : State) : strm (checkDone c s) x y = strm s x y := by
  unfold checkDone
  split
  · dsimp only
    rw [strm_postEvent]
    refine foldl_keeps (read := fun s => strm s x y) (fun s p => ?_) _ _
    split
    · exact strm_succeed ..
    · rfl
  · rfl

/-! ### A context read after a step mark -/

theorem ctx_of_ctxs {s t : State} (h : t.ctxs = s.ctxs) (c : Nat) : ctx t c = ctx s c := by unfold ctx; rw [h]

theorem ckptRun_of_ckpt {s t : State} (h : t.ckpt = s.ckpt) (c : Nat) : ckptRun t c = ckptRun s c := by unfold ckptRun; rw [h]

/-- A change of the last completed step in a context with no checkpoint under way: AWAIT_STEP entries, then the gate tokens (R187, R307). -/
theorem onStep_of_no_run {c : Nat} {s : State} (h : ckptRun s c = none) (old : Word) :
    onStep c old s = if lastStep s c = old then s else gateTokens c (lastStep s c) (satisfyAwaits c s) := by
  have hrun : ckptRun (satisfyAwaits c s) c = none := (ckptRun_of_ckpt ((satisfyAwaits_law ..).1 .ckpt (by decide)) c).trans h
  unfold onStep atStep
  rw [hrun]

theorem strm_onStep_of_no_run {c : Nat} {s : State} (h : ckptRun s c = none) (old : Word) (x y : Nat) :
    strm (onStep c old s) x y = strm s x y := by
  rw [onStep_of_no_run h]
  split
  · rfl
  · rw [strm_gateTokens, strm_satisfyAwaits]

theorem ctx_onStep_of_no_run {c : Nat} {s : State} (h : ckptRun s c = none) (old : Word) (x : Nat) :
    ctx (onStep c old s) x = ctx s x := by
  rw [onStep_of_no_run h]
  split
  · rfl
  · exact (ctx_of_ctxs ((gateTokens_law ..).1 .ctxs (by decide)) x).trans (ctx_of_ctxs ((satisfyAwaits_law ..).1 .ctxs (by decide)) x)

/-! ### The rows, case by case -/

section
variable {s : State} {g : Core} {st : Str} {w : IWord}

theorem exec_halt_of_quiet (h : Issues s g st 1 w) (hquiet : quiet s g st = true) : exec (.halt g st) s = .next (doHalt g st s) := by
  change execHalt g st s = _
  rw [execHalt, front_of_issues h, release, if_pos hquiet]

theorem exec_rsignal_of_mapped (h : Issues s g st 4 w) (hquiet : quiet s g st = true) {x : Core}
    (hmap : (ctx s (core s g).ctx).map[fld w 24 8]? = some (some x)) : exec (.rsignal g st) s =
      .next (issued g st { s with transit := s.transit ++
        [⟨(core s g).ctx, (core s g).gen, x, fld w 12 4, (sreg (strm s g st).sregs (fld w 8 4)).extractLsb' 0 32⟩] }) := by
  have hin : ¬ (ctx s (core s g).ctx).map.length ≤ fld w 24 8 := by
    have := (List.getElem?_eq_some_iff.mp hmap).1
    omega
  change execRsignal g st s = _
  rw [execRsignal, front_of_issues h, if_neg hin, release, if_pos hquiet, doRsignal]
  simp only [hmap]

theorem exec_fence_of_quiet (h : Issues s g st 0x0A w) (hquiet : quiet s g st = true) : exec (.fence g st) s = .next (issued g st s) := by
  change execFence g st s = _
  rw [execFence, front_of_issues h, release, if_pos hquiet]

theorem exec_releaseComplete_of_fence (h : Stalled s g st 3 w) (hop : fld w 0 8 = 0x0A) (hquiet : quiet s g st = true) :
    exec (.releaseComplete g st) s = .next (issued g st s) := by
  obtain ⟨hrun, hstall, hword⟩ := h
  change execReleaseComplete g st s = _
  rw [execReleaseComplete]
  simp only [hrun, hstall, hquiet, true_or, and_self, if_true, hword, hop]

theorem exec_stepmark_of_quiet (h : Issues s g st 0x21 w) (hquiet : quiet s g st = true) :
    exec (.stepmark g st) s = .next (doStepmark g st (strm s g st) w s) := by
  change execStepmark g st s = _
  rw [execStepmark, front_of_issues h, release, if_pos hquiet]

theorem exec_vstat_of_quiet (h : Issues s g st 0x46 w) (hok : vstatBad (strm s g st).sregs w = none) (hquiet : quiet s g st = true) :
    exec (.vstat g st) s = .next (doVstat g st (strm s g st) w s) := by
  change execVstat g st s = _
  rw [execVstat, front_of_issues h, hok]
  dsimp only
  rw [if_pos hquiet]

theorem exec_get_of_empty (h : Issues s g st 0x10 w) (hlen : fld w 16 24 = 0) :
    exec (.get g st) s = .next (strFault g st 4 16 true 0x10 (strm s g st).pc s) := by
  change execGet g st s = _
  rw [execGet, front_of_issues h]
  exact congrArg _ (if_pos hlen)

/-- HALT leaves its stream HALTED behind it. -/
theorem halted_doHalt (g st : Nat) (s : State) :
    (strm (doHalt g st s) g st).state = .halted ∧ (strm (doHalt g st s) g st).pc = pcAdd (strm s g st).pc 1 := by
  simp [doHalt]

/-- STEPMARK of a context with no checkpoint under way: the stream goes on, the mark of its virtual core is s[A] (R116). -/
theorem marked_doStepmark (hrun : (strm s g st).state = .running) (hckpt : ckptRun s (core s g).ctx = none) :
    Advanced s (doStepmark g st (strm s g st) w s) g st
      ∧ Tbl.get 0 (ctx (doStepmark g st (strm s g st) w s) (core s g).ctx).marks (core s g).vcore
          = (sreg (strm s g st).sregs (fld w 12 4)).extractLsb' 0 32 := by
  unfold doStepmark
  dsimp only
  have hnone : ∀ k, ckptRun (setCtx (core s g).ctx.val k (issued g st s)) (core s g).ctx = none := fun k =>
    (ckptRun_of_ckpt ((issued_law ..).1 .ckpt (by decide)) _).trans hckpt
  rw [updCtx_eq]
  constructor
  · unfold Advanced
    rw [strm_onStep_of_no_run (hnone _), strm_setCtx]
    exact advanced_issued hrun rfl
  · rw [ctx_onStep_of_no_run (hnone _), ctx_setCtx_same, Tbl.get_set_same]

/-- VSTAT's stream goes on with its flags cleared and read into s[D] (R141). -/
theorem cleared_doVstat (hrun : (strm s g st).state = .running) :
    Advanced s (doVstat g st (strm s g st) w s) g st ∧ (strm (doVstat g st (strm s g st) w s) g st).flags = 0
      ∧ sreg (strm (doVstat g st (strm s g st) w s) g st).sregs (fld w 8 4)
          = if fld w 8 4 = 0 then 0 else (strm s g st).flags.setWidth 64 := by
  unfold doVstat
  refine ⟨advanced_issued (by simp [hrun]) (by simp), by simp, ?_⟩
  rw [strm_issued, if_pos ⟨rfl, rfl⟩, slide_sregs, updStrm_eq, strm_setStrm_same, sreg_setSreg, if_pos rfl]

end

/-- Settles O2: each row's result, and the stream at the next instruction. -/
theorem plainInstructionsComplete : Obligations.PlainInstructionsComplete := by
  unfold Obligations.PlainInstructionsComplete
  refine ⟨fun s g st w h => ?nop, fun s g st w h hquiet => ?halt, fun s g st w x h hquiet hmap => ?rsignal, fun s g st w h => ?li,
    fun s g st w v h hop => ?alu, fun s g st w b h hcond => ?br, fun s g st w v h hsel => ?rdsys, fun s g st w h hquiet => ?fence,
    fun s g st w h hop hquiet => ?release, fun s g st w h hquiet hckpt => ?stepmark, fun s g st w h hok hquiet => ?vstat⟩
  case nop => exact ⟨_, exec_nop_of_issues h, advanced_issued h.1 rfl⟩
  case halt => exact ⟨_, exec_halt_of_quiet h hquiet, halted_doHalt ..⟩
  case rsignal => exact ⟨_, exec_rsignal_of_mapped h hquiet hmap, advanced_issued h.1 rfl, (issued_law ..).1 .transit (by decide)⟩
  case li => exact ⟨_, exec_li_of_issues h, advanced_wroteReg h.1 .., sreg_wroteReg_same ..⟩
  case alu =>
    have hop : aluOp (fld w 20 4) (sreg (strm s g st).sregs (fld w 12 4)) (aluB (strm s g st) w) = some v := hop
    exact ⟨_, by rw [exec_alu_of_issues h, hop]; rfl, advanced_wroteReg h.1 .., sreg_wroteReg_same ..⟩
  case br =>
    refine ⟨_, by rw [exec_br_of_issues h, hcond, Option.elim_some], ?_⟩
    cases b
    · exact ⟨by simp [h.1], by simp⟩
    · simp [strm_branched, h.1, imm32]
  case rdsys => exact ⟨_, by rw [exec_rdsys_of_issues h, hsel]; rfl, advanced_wroteReg h.1 .., sreg_wroteReg_same ..⟩
  case fence => exact ⟨_, exec_fence_of_quiet h hquiet, advanced_issued h.1 rfl⟩
  case release => exact ⟨_, exec_releaseComplete_of_fence h hop hquiet, advanced_issued h.1 rfl⟩
  case stepmark => exact ⟨_, exec_stepmark_of_quiet h hquiet, marked_doStepmark h.1 hckpt⟩
  case vstat => exact ⟨_, exec_vstat_of_quiet h hok hquiet, cleared_doVstat h.1⟩

/-! ### A fault of a stream that MODESYNC lists as arrived -/

/-- A stream on the word of a GET of no bytes, listed as arrived at the staged edition of its context. -/
def arrivedAtEmptyGet : State :=
  { State.reset with
    cores := [(0, { streams := [(0, { state := .running, fbuf := [(0, 0x10)], arrived := true })] })]
    ctxs := [(0, { staged := some { edition := 1, applyStep := 0, timeout := 0, table := [], arrived := [0] } })] }

theorem issues_arrivedAtEmptyGet : Issues arrivedAtEmptyGet (0 : Core) (0 : Str) 0x10 0x10 := by
  unfold Issues
  decide

theorem completeAwaits_ctxs (c status : Nat) (result : List Byte) (s : State) : (completeAwaits c status result s).ctxs = s.ctxs :=
  (completeAwaits_law ..).1 .ctxs (by decide)

theorem enableLost_ctxs (off at_ state : Nat) (s : State) : (enableLost off at_ state s).ctxs = s.ctxs :=
  (logRec_law ..).1 .ctxs (by decide)

/-- A fault of an arrived stream withdraws its arrival (R125): the contexts change. -/
theorem ctxs_strFault (g st cause info : Nat) (b : Bool) (opc : Nat) (pc : Word) (s : State) :
    (strFault g st cause info b opc pc s).ctxs = (withdrawSync g st s).ctxs := by
  unfold strFault
  dsimp only
  split_ifs <;> simp only [postEvent_ctxs, completeAwaits_ctxs, setStrm_eq, setCore_ctxs, enableLost_ctxs, logCore_ctxs]

/-- Refutes O53: a GET of no bytes by a stream that the staged mode edition lists as arrived withdraws the arrival (R125), so the contexts
change, which `faultParts` does not list. -/
theorem not_operandFaults : ¬ Obligations.OperandFaults := by
  unfold Obligations.OperandFaults
  intro h
  obtain ⟨t, hexec, -, hparts⟩ := (h arrivedAtEmptyGet 0 0 0x10).2.2.2.1 issues_arrivedAtEmptyGet (by decide)
  rw [exec_get_of_empty issues_arrivedAtEmptyGet (by decide)] at hexec
  injection hexec with hexec
  have hsame : t.ctxs = arrivedAtEmptyGet.ctxs := hparts .ctxs (by decide)
  rw [← hexec, ctxs_strFault] at hsame
  exact absurd hsame (by decide)

end Sys2Proof.Machine
end

section
/-! The frames of SIGNAL and WAIT, of LOADW, MVM and FLIP at issue, and a vector instruction that moves s15 at issue (02_cores_clusters_queues.md,
06_stream_programs.md, R26, R64, R117, R140). -/

namespace Sys2Proof.Machine

/-! ### SIGNAL and WAIT -/

/-- The frame of a token instruction: its stream but for its flags, its long instructions and every register but `d`; the queue it names but for
the configuration; CORE_FAULT. -/
def TouchesQueue (g st q d : Nat) (s t : State) : Prop :=
  OnlyFields g [.strm st, .queue q, .fault] s t ∧ (queue t g q).cfg = (queue s g q).cfg ∧ (strm t g st).flags = (strm s g st).flags
    ∧ (strm t g st).outst = (strm s g st).outst ∧ ∀ x, x ≠ d → sreg (strm t g st).sregs x = sreg (strm s g st).sregs x

section
variable {g st q d : Nat} {s : State}

theorem TouchesQueue.refl : TouchesQueue g st q d s s := ⟨.refl .., rfl, rfl, rfl, fun _ _ => rfl⟩

theorem OnlyFields.appendToken (g q : Nat) (v : Word) (s : State) : OnlyFields g [.queue q] s (appendToken g q v s) :=
  (OnlyFields.setQueue ..).trans (.countCore ..)

theorem OnlyFields.rejectToken (g q : Nat) (s : State) : OnlyFields g [.queue q, .fault] s (rejectToken g q s) :=
  ((OnlyFields.setQueue ..).trans (.countCore ..)).mono (by simp) |>.trans ((OnlyFields.coreFault ..).mono (by simp))

/-- A change of the queue that leaves its configuration and the streams, then the instruction issued. -/
theorem touchesQueue_issued {u : State} (hfields : OnlyFields g [.queue q, .fault] s u) (hcfg : (queue u g q).cfg = (queue s g q).cfg) :
    TouchesQueue g st q d s (issued g st u) := by
  have hstrm : strm u g st = strm s g st := hfields.2.2 (.strm st) (by simp)
  refine ⟨(hfields.mono (by simp)).trans ((OnlyFields.issued ..).mono (by simp)), by rw [queue_issued, hcfg], ?_, ?_, fun x _ => ?_⟩ <;>
    simp [hstrm]

theorem touchesQueue_issued_appendToken (v : Word) : TouchesQueue g st q d s (issued g st (appendToken g q v s)) :=
  touchesQueue_issued ((OnlyFields.appendToken ..).mono (by simp)) (by rw [queue_appendToken_same])

theorem touchesQueue_stallAt (code n : Nat) : TouchesQueue g st q d s (stallAt g st code n s) := by
  refine ⟨(OnlyFields.stallAt ..).mono (by simp), by rw [queue_stallAt], ?_, ?_, fun x _ => ?_⟩ <;> rw [strm_stallAt_same]

theorem touchesQueue_doSignal (r : Stream) (w : IWord) : TouchesQueue g st (fld w 12 4) d s (doSignal g st r w s) := by
  unfold doSignal signalQ
  dsimp only
  split_ifs
  · exact touchesQueue_stallAt ..
  · exact touchesQueue_issued_appendToken _
  · exact touchesQueue_issued (.rejectToken ..) (by rw [queue_rejectToken_same])

theorem touchesQueue_takeToken : TouchesQueue g st q d s (takeToken g st q d s) := by
  unfold takeToken
  dsimp only
  refine ⟨(((OnlyFields.setQueue ..).mono (by simp)).trans ((OnlyFields.updStrm ..).mono (by simp))).trans ((OnlyFields.issued ..).mono (by simp)),
    by simp, by simp, by simp, fun x hx => ?_⟩
  simp only [strm_issued, and_self, if_true, slide_sregs, updStrm_eq, strm_setStrm, strm_setQueue, sreg_setSreg, if_neg hx]
  split
  · rename_i h0; rw [h0, sreg_zero]
  · rfl

end

section
variable {s t : State} {g : Core} {st : Str} {w : IWord}

theorem touchesQueue_signal (h : Issues s g st 3 w) (hexec : exec (.signal g st) s = .next t) (d : Nat) :
    TouchesQueue g st (fld w 12 4) d s t := by
  change execSignal g st s = _ at hexec
  rw [execSignal, front_of_issues h, release] at hexec
  injection hexec with hexec
  subst hexec
  split_ifs
  · exact touchesQueue_doSignal ..
  · exact touchesQueue_stallAt ..

theorem touchesQueue_signalResume (h : Stalled s g st 2 w) (hexec : exec (.signalResume g st) s = .next t) (d : Nat) :
    TouchesQueue g st (fld w 12 4) d s t := by
  rw [exec_signalResume_of_stalled h] at hexec
  injection hexec with hexec
  subst hexec
  split_ifs
  · exact touchesQueue_issued_appendToken _
  · exact .refl

theorem touchesQueue_wait (h : Issues s g st 2 w) (hexec : exec (.wait g st) s = .next t) (hrun : (strm t g st).state = .running) :
    TouchesQueue g st (fld w 12 4) (fld w 8 4) s t := by
  change execWait g st s = _ at hexec
  rw [execWait, front_of_issues h] at hexec
  injection hexec with hexec
  subst hexec
  have hfault : (strm (setQueue g (fld w 12 4) { queue s g (fld w 12 4) with ovfPend := false } s) g st).state ≠ .faulted := by
    rw [strm_setQueue]; exact h.ne_faulted
  dsimp only at hrun ⊢
  split_ifs at hrun ⊢
  · exact (not_running_strFault hfault _ _ _ _ _ hrun).elim
  · exact touchesQueue_stallAt ..
  · exact touchesQueue_takeToken
  · exact (not_running_strFault h.ne_faulted _ _ _ _ _ hrun).elim

theorem touchesQueue_waitResume (h : Stalled s g st 1 w) (hexec : exec (.waitResume g st) s = .next t) :
    TouchesQueue g st (fld w 12 4) (fld w 8 4) s t := by
  rw [exec_waitResume_of_stalled h] at hexec
  injection hexec with hexec
  subst hexec
  split_ifs
  · exact .refl
  · exact touchesQueue_takeToken

end

/-- Settles O49: each of the four rows touches its stream, its queue and CORE_FAULT at most. -/
theorem tokenInstructionFrame : Obligations.TokenInstructionFrame := by
  unfold Obligations.TokenInstructionFrame
  intro c s t g st w hrow hexec hrun
  have key : ∀ d, (c = .signal g st ∨ c = .signalResume g st ∨ d = fld w 8 4) → TouchesQueue g st (fld w 12 4) d s t := by
    intro d hd
    rcases hrow with ⟨rfl, h⟩ | ⟨rfl, h⟩ | ⟨rfl, h⟩ | ⟨rfl, h⟩
    · exact touchesQueue_signal h hexec d
    · exact touchesQueue_signalResume h hexec d
    · obtain rfl : d = fld w 8 4 := by simpa using hd
      exact touchesQueue_wait h hexec hrun
    · obtain rfl : d = fld w 8 4 := by simpa using hd
      exact touchesQueue_waitResume h hexec
  obtain ⟨hfields, hcfg, hflags, houtst, hregs⟩ := key _ (.inr (.inr rfl))
  refine ⟨hfields.1, hfields.2.1, fun x hx => hfields.2.2 (.strm x) (by simp [hx]), fun q hq => hfields.2.2 (.queue q) (by simp [hq]),
    hcfg, fun e => hfields.2.2 (.ote e) (by simp), hfields.2.2 .state (by simp), hflags, houtst, fun x hx => ?_⟩
  rcases hx with hc | hc | hx
  · exact (key (x + 1) (.inl hc)).2.2.2.2 x (by omega)
  · exact (key (x + 1) (.inr (.inl hc))).2.2.2.2 x (by omega)
  · exact hregs x hx

/-! ### LOADW, MVM and FLIP at issue -/

section
variable {s : State} {g : Core} {st : Str} {w : IWord}

/-- The kind of a LOADW operation (R117, R120). -/
def loadwKind (s : State) (g : Nat) (r : Stream) (w : IWord) : OpKind :=
  .loadw (sreg r.sregs (fld w 8 4)).toNat (bit w 14 && decide (countOf r.sregs w 16 20 < autoMin (core s g)))

/-- What AINC of a LOADW leaves in the registers (R117). -/
def loadwAinc (w : IWord) (a : Nat) (r : Stream) : Stream :=
  if bit w 15 then setSreg (fld w 8 4) (BitVec.ofNat 64 (a + 4160)) r else r

theorem exec_loadw_of_issues (h : Issues s g st 0x30 w) : exec (.loadw g st) s = .next (
    if (sreg (strm s g st).sregs (fld w 8 4)).toNat % 64 ≠ 0 then strFault g st 5 0 true 0x30 (strm s g st).pc s
    else if 0x1000000 < (sreg (strm s g st).sregs (fld w 8 4)).toNat + 4160 then
      strFault g st 6 (sreg (strm s g st).sregs (fld w 8 4)).toNat true 0x30 (strm s g st).pc s
    else enqueueOp g st (fld w 12 2) (loadwKind s g (strm s g st) w) (strm s g st)
      (loadwAinc w (sreg (strm s g st).sregs (fld w 8 4)).toNat) s) := by
  change execLoadw g st s = _
  rw [execLoadw, front_of_issues h]
  rfl

theorem exec_flip_of_issues (h : Issues s g st 0x32 w) :
    exec (.flip g st) s = .next (enqueueOp g st (fld w 8 2) .flip (strm s g st) id s) := by
  change execFlip g st s = _
  rw [execFlip, front_of_issues h]

/-- The registers after an MVM's AINC, when its word asks for it (R117). -/
def mvmAfter (s : State) (g st : Nat) (w : IWord) (r : Stream) : Stream :=
  if bit w 95 then mvmAinc w (mvmParams s g (strm s g st).sregs w) r else r

theorem exec_mvm_of_issues (h : Issues s g st 0x31 w) : exec (.mvm g st) s = .next (
    match mvmBad w (mvmParams s g (strm s g st).sregs w) with
    | some (cause, info) => strFault g st cause info true 0x31 (strm s g st).pc s
    | none => match mvmOut (mvmParams s g (strm s g st).sregs w) with
      | some a => strFault g st 6 a true 0x31 (strm s g st).pc s
      | none => enqueueOp g st (fld w 72 2) (.mvm (mvmParams s g (strm s g st).sregs w)) (strm s g st) (mvmAfter s g st w) s) := by
  change execMvm g st s = _
  rw [execMvm, front_of_issues h]
  rfl

theorem onlyFields_enqueueOp (e : Nat) (kind : OpKind) (r : Stream) (f : Stream → Stream) :
    OnlyFields g [.strm st, .ote e] s (enqueueOp g st e kind r f s) := by
  unfold enqueueOp
  dsimp only
  split_ifs
  · exact (OnlyFields.stallAt ..).mono (by simp)
  · exact (((OnlyFields.setOte ..).mono (by simp)).trans ((OnlyFields.updStrm ..).mono (by simp))).trans ((OnlyFields.issued ..).mono (by simp))

/-- Of its engine an issued operation changes the queue alone. -/
theorem ote_enqueueOp (e : Nat) (kind : OpKind) (r : Stream) (f : Stream → Stream) :
    ote (enqueueOp g st e kind r f s) g e = { ote s g e with queue := (ote (enqueueOp g st e kind r f s) g e).queue } := by
  unfold enqueueOp
  dsimp only
  split_ifs
  · simp only [stallAt, updStrm_eq, ote_setStrm]
  · simp

end

/-- Settles O50: each row that does not fault is `enqueueOp`, which changes the stream and the queue of the engine it names. -/
theorem opticIssueFrame : Obligations.OpticIssueFrame := by
  unfold Obligations.OpticIssueFrame
  intro c o e s t g st w hrow h hexec hrun
  have key : ∃ kind f, t = enqueueOp g st e kind (strm s g st) f s := by
    rcases hrow with ⟨rfl, rfl, rfl⟩ | ⟨rfl, rfl, rfl⟩ | ⟨rfl, rfl, rfl⟩
    · rw [exec_loadw_of_issues h] at hexec
      injection hexec with hexec
      subst hexec
      split_ifs at hrun ⊢
      · exact (not_running_strFault h.ne_faulted _ _ _ _ _ hrun).elim
      · exact (not_running_strFault h.ne_faulted _ _ _ _ _ hrun).elim
      · exact ⟨_, _, rfl⟩
    · rw [exec_mvm_of_issues h] at hexec
      injection hexec with hexec
      subst hexec
      split at hrun
      · exact (not_running_strFault h.ne_faulted _ _ _ _ _ hrun).elim
      · split at hrun
        · exact (not_running_strFault h.ne_faulted _ _ _ _ _ hrun).elim
        · exact ⟨_, _, rfl⟩
    · rw [exec_flip_of_issues h] at hexec
      injection hexec with hexec
      exact ⟨_, _, hexec.symm⟩
  obtain ⟨kind, f, rfl⟩ := key
  have hfields := onlyFields_enqueueOp (s := s) (g := g) (st := st) e kind (strm s g st) f
  refine ⟨hfields.1, hfields.2.1, fun x hx => hfields.2.2 (.strm x) (by simp [hx]), fun q => hfields.2.2 (.queue q) (by simp),
    fun x hx => hfields.2.2 (.ote x) (by simp [hx]), hfields.2.2 .state (by simp), hfields.2.2 .fault (by simp), ?_⟩
  rw [ote_enqueueOp]

/-! ### A vector instruction with stochastic rounding -/

/-- What the issue of a VECTOR instruction leaves: it is outstanding, and with RND 1 s15 has moved (R140). -/
def vectorIssued (g st : Nat) (w : IWord) (s : State) : State :=
  updStrm g st (fun r =>
    let r' := { r with outst := r.outst ++ [longOp s g (strm s g st) w] }
    if (vIns (strm s g st).sregs w).rnd = 1 then
      setSreg 15 (sreg r'.sregs 15 + BitVec.ofNat 64 ((vIns (strm s g st).sregs w).d.rows * (vIns (strm s g st).sregs w).d.n)) r'
    else r') (issued g st s)

theorem issueVector_of_accepted {s : State} {g st o : Nat} {w : IWord} (h : Issues s g st o w)
    (hops : vOperandBad (vIns (strm s g st).sregs w) (fld w 56 4) = none) (haddr : vAddressBad (vIns (strm s g st).sregs w) = none) :
    issueVector o g st s = vectorIssued g st w s := by
  unfold issueVector
  rw [front_of_issues h]
  simp only [hops, haddr]
  rfl

/-- A VEW over one FP32 element with RND 1. -/
def stochasticVew : IWord := 0x100000000010000040

/-- A stream 2 whose next word is that VEW. -/
def atStochasticVew : State :=
  { State.reset with cores := [(0, { streams := [(2, { state := .running, fbuf := [(0, stochasticVew)] })] })] }

theorem issues_atStochasticVew : Issues atStochasticVew (0 : Core) (2 : Str) 0x40 stochasticVew := by
  unfold Issues
  decide

theorem exec_vew_atStochasticVew : exec (.vew 0 2) atStochasticVew = .next (vectorIssued 0 2 stochasticVew atStochasticVew) :=
  congrArg _ (issueVector_of_accepted issues_atStochasticVew (by decide) (by decide))

theorem strm_atStochasticVew_issued : strm (vectorIssued 0 2 stochasticVew atStochasticVew) 0 2 =
    setSreg 15 1 { strm (issued 0 2 atStochasticVew) 0 2 with
      outst := (strm (issued 0 2 atStochasticVew) 0 2).outst ++ [longOp atStochasticVew 0 (strm atStochasticVew 0 2) stochasticVew] } := by
  unfold vectorIssued
  rw [updStrm_eq, strm_setStrm_same]
  exact if_pos (by decide)

/-- Refutes O51: an accepted VEW with RND 1 adds the count of its destination elements to s15 at its issue (R140), and the statement says that
no register changes. -/
theorem not_longIssueFrame : ¬ Obligations.LongIssueFrame := by
  unfold Obligations.LongIssueFrame
  intro h
  have hstrm := strm_atStochasticVew_issued
  have hsame := (h (.vew 0 2) 0x40 atStochasticVew _ 0 2 stochasticVew (by simp) issues_atStochasticVew exec_vew_atStochasticVew
    ((congrArg Stream.state hstrm).trans (by simp; rfl))).2.2.2 15
  have hmoved : sreg (strm (vectorIssued 0 2 stochasticVew atStochasticVew) 0 2).sregs 15 = 1 := by rw [hstrm, sreg_setSreg]; rfl
  exact absurd (hmoved.symm.trans hsame) (by decide)

end Sys2Proof.Machine
end

section
/-! The code of an error estimate (04_error_budget.md, R82): a code is at most `c` exactly where `c` is worth the estimate or more. -/

namespace Sys2Proof.Machine

/-! ### The least number whose square is at least `x` -/

/-- The square root rounded up. -/
def sqrtUp (x : Nat) : Nat := if Nat.sqrt x * Nat.sqrt x = x then Nat.sqrt x else Nat.sqrt x + 1

theorem sqrtUp_le_iff (x m : Nat) : sqrtUp x ≤ m ↔ x ≤ m * m := by
  unfold sqrtUp
  split
  · rename_i hsq
    rw [← Nat.mul_self_le_mul_self_iff, hsq]
  · rename_i hsq
    rw [Nat.succ_le_iff, Nat.sqrt_lt]
    refine ⟨Nat.le_of_lt, fun hle => Nat.lt_of_le_of_ne hle fun heq => hsq ?_⟩
    rw [heq, Nat.sqrt_eq]

/-! ### Codes and what they are worth -/

/-- The least code that is worth `n` or more, without the limit 0x3FF. -/
def leastCode (n : Nat) : Nat :=
  if n < 64 then n else 64 * (Nat.log2 n - 5) + ((n + 2 ^ (Nat.log2 n - 5 - 1) - 1) / 2 ^ (Nat.log2 n - 5 - 1) - 64)

theorem estUnits_of_small {c : Nat} (h : c < 64) : estUnits c = c := if_pos h

theorem estUnits_of_large {c : Nat} (h : 64 ≤ c) : estUnits c = (64 + c % 64) * 2 ^ (c / 64 - 1) := if_neg (Nat.not_lt.mpr h)

theorem le_estUnits_of_large {c : Nat} (h : 64 ≤ c) : 64 ≤ estUnits c := by
  rw [estUnits_of_large h]
  exact Nat.le_trans (Nat.le_add_right ..) (Nat.le_mul_of_pos_right _ (Nat.two_pow_pos _))

/-- The exponent of a number from 64 on: `n` lies in [64, 128) × 2^(e − 1). -/
theorem exponent_spec {n : Nat} (h : 64 ≤ n) :
    ∃ e, Nat.log2 n - 5 = e + 1 ∧ 64 * 2 ^ e ≤ n ∧ n < 128 * 2 ^ e := by
  have hne : n ≠ 0 := by omega
  have hlog : 6 ≤ Nat.log2 n := (Nat.le_log2 hne).mpr h
  obtain ⟨e, he⟩ := Nat.exists_eq_add_of_le hlog
  refine ⟨e, by omega, ?_, ?_⟩
  · have := Nat.log2_self_le hne
    rwa [he, pow_add] at this
  · have := Nat.lt_log2_self (n := n)
    rwa [he, show 6 + e + 1 = 7 + e by omega, pow_add] at this

/-- The codes of one exponent and of the others, against a number of the exponent `e + 1`. -/
theorem le_units_iff {n e : Nat} (hlo : 64 * 2 ^ e ≤ n) (hhi : n < 128 * 2 ^ e) {q m : Nat} (hm : m < 64) :
    n ≤ (64 + m) * 2 ^ q ↔ 64 * (e + 1) + ((n + 2 ^ e - 1) / 2 ^ e - 64) ≤ 64 * (q + 1) + m := by
  have hpos : 0 < 2 ^ e := Nat.two_pow_pos e
  have hceil : ∀ k, (n + 2 ^ e - 1) / 2 ^ e ≤ k ↔ n ≤ k * 2 ^ e := fun k => by
    rw [← Nat.ceilDiv_eq_add_pred_div, ceilDiv_le_iff_le_mul hpos, Nat.mul_comm]
  have hle128 : (n + 2 ^ e - 1) / 2 ^ e ≤ 128 := (hceil 128).mpr hhi.le
  rcases Nat.lt_trichotomy q e with hlt | rfl | hgt
  · have hpow : 2 * 2 ^ q ≤ 2 ^ e := by
      rw [← pow_succ']; exact Nat.pow_le_pow_right (by decide) hlt
    have hsmall : (64 + m) * 2 ^ q < n :=
      calc (64 + m) * 2 ^ q < 128 * 2 ^ q := Nat.mul_lt_mul_of_pos_right (by omega) (Nat.two_pow_pos q)
        _ = 64 * (2 * 2 ^ q) := by ring
        _ ≤ 64 * 2 ^ e := Nat.mul_le_mul_left _ hpow
        _ ≤ n := hlo
    omega
  · rw [← hceil]
    omega
  · have hpow : 2 * 2 ^ e ≤ 2 ^ q := by
      rw [← pow_succ']; exact Nat.pow_le_pow_right (by decide) hgt
    have hlarge : n ≤ (64 + m) * 2 ^ q :=
      calc n ≤ 64 * (2 * 2 ^ e) := by omega
        _ ≤ 64 * 2 ^ q := Nat.mul_le_mul_left _ hpow
        _ ≤ (64 + m) * 2 ^ q := Nat.mul_le_mul_right _ (Nat.le_add_right ..)
    omega

/-- The codes rise with what they are worth. -/
theorem leastCode_le_iff (n c : Nat) : leastCode n ≤ c ↔ n ≤ estUnits c := by
  unfold leastCode
  split
  · rename_i hn
    rcases Nat.lt_or_ge c 64 with hc | hc
    · rw [estUnits_of_small hc]
    · have := le_estUnits_of_large hc
      omega
  · rename_i hn
    obtain ⟨e, he, hlo, hhi⟩ := exponent_spec (Nat.not_lt.mp hn)
    rw [he, Nat.add_sub_cancel]
    rcases Nat.lt_or_ge c 64 with hc | hc
    · rw [estUnits_of_small hc]
      omega
    · obtain ⟨q, hq⟩ : ∃ q, c / 64 = q + 1 := ⟨c / 64 - 1, by omega⟩
      have hc' : c = 64 * (q + 1) + c % 64 := by omega
      rw [estUnits_of_large hc, hq, Nat.add_sub_cancel, le_units_iff hlo hhi (Nat.mod_lt c (by decide)), ← hc']

/-! ### The code of ρ² -/

/-- ρ in units of 2⁻²¹ FS, rounded up. -/
def rhoUnits (rho2 : Rat) : Nat := sqrtUp (rho2 * 0x40000000000).ceil.toNat

theorem rhoUnits_le_iff (rho2 : Rat) (m : Nat) : rhoUnits rho2 ≤ m ↔ rho2 * 2 ^ 42 ≤ (m : Rat) ^ 2 := by
  have hunit : (0x40000000000 : Rat) = 2 ^ 42 := by norm_num
  rw [rhoUnits, sqrtUp_le_iff, Int.toNat_le, hunit, Rat.ceil_le_iff, pow_two]
  push_cast
  rfl

theorem estCode_eq (rho2 : Rat) : estCode rho2 = min 0x3FF (leastCode (rhoUnits rho2)) := by
  unfold estCode leastCode
  change (if rhoUnits rho2 < 64 then rhoUnits rho2 else _) = _
  split
  · omega
  · rfl

/-- Settles O56: below the limit the code is `leastCode`, and a code is worth ρ or more exactly from there on. -/
theorem estimateCode : Obligations.EstimateCode := by
  unfold Obligations.EstimateCode
  intro rho2
  rw [estCode_eq]
  refine ⟨Nat.min_le_left .., fun hlt => ?_, fun c hc => ?_⟩
  · rw [min_eq_right (by omega), ← rhoUnits_le_iff, ← leastCode_le_iff]
  · have hbelow : ¬ leastCode (rhoUnits rho2) ≤ c := Nat.not_le.mpr (hc.trans_le (Nat.min_le_right ..))
    rwa [leastCode_le_iff, rhoUnits_le_iff, not_le] at hbelow

end Sys2Proof.Machine
end

section
/-! BAR0 accesses (10_register_conventions_and_map.md, R199 to R207): the acceptance of a request, what each kind of write and read leaves, and the
writes that meet a block held in reset. -/

namespace Sys2Proof.Machine

/-! ### A request that BAR0 takes -/

section
variable {s : State}

theorem onBar_of_barOpen (h : BarOpen s) (write : Bool) (addr len : Nat) (act : State → State) : onBar write addr len s act = act s := by
  obtain ⟨hup, hreset, hmse⟩ := h
  unfold onBar
  rw [if_neg (by simp [hup, hreset]), if_pos hmse]

/-- The registers of ID are never held while the module is up (R201, R397, R404). -/
theorem blockHeld_id (hup : s.boot.state ≠ .off) {off : Nat} (hid : off / 0x10000 = 1) : blockHeld s off = false := by
  have hlow : ¬ 0x800000 ≤ off := by omega
  have hfab : ¬ 0x100000 ≤ off := by omega
  unfold blockHeld pairHeld
  rw [hid]
  cases hstate : s.boot.state <;> simp_all

theorem blockHeld_of_parts {t : State} (hboot : t.boot = s.boot) (hrst : t.rst = s.rst) (hpwr : t.pwr = s.pwr) (off : Nat) :
    blockHeld t off = blockHeld s off := by
  unfold blockHeld domainHeld pairHeld
  rw [hboot, hrst, hpwr]

@[simp] theorem blockHeld_countHub (ev qual : Nat) (ranged : Bool) (off : Nat) (s : State) :
    blockHeld (countHub ev qual ranged s) off = blockHeld s off := blockHeld_of_parts (by simp) (by simp) (by simp) off

theorem refusal_eq_zero_iff (off lenDw : Nat) (be : BitVec 4) : refusal s off lenDw be = 0 ↔
    (be = 0xF ∧ off % 4 = 0) ∧ (lenDw = 1 ∨ lenDw = 2 ∧ inMsix off = true ∧ off % 8 = 0)
      ∧ ¬ (0x100000 ≤ off ∧ off < 0x200000 ∧ planeCount s ≤ off / 0x10000 - 0x10) ∧ (readMap s off).isSome = true := by
  unfold refusal
  split_ifs with hword hlen hplane hread
  · simp only [false_iff]
    rintro ⟨⟨hbe, hoff⟩, -⟩
    simp [hbe, hoff] at hword
  · simp only [false_iff]
    rintro ⟨-, hlen' | hlen', -⟩ <;> simp [hlen'] at hlen
  · simp [hplane]
  · simp only [not_or, not_not, ne_eq, not_and_or] at hword hlen
    exact iff_of_true rfl ⟨hword, by tauto, hplane, hread⟩
  · simp [hread]

/-- An accepted access of one word to ID. -/
theorem refusal_id {off : Nat} (hid : off / 0x10000 = 1) (hword : off % 4 = 0) (hread : (readId s (off % 0x10000)).isSome = true) :
    refusal s off 1 0xF = 0 := by
  have hlow : ¬ 0x100000 ≤ off := by omega
  refine (refusal_eq_zero_iff ..).mpr ⟨⟨rfl, hword⟩, .inl rfl, fun h => hlow h.1, ?_⟩
  unfold readMap
  dsimp only
  rw [hid, if_neg (by omega), if_neg (by omega), if_neg (by omega), if_neg (by omega), if_neg (by omega), if_neg (by omega), if_neg hlow]
  exact hread

/-- An accepted write of one word is counted and takes its register's effect. -/
theorem exec_registerWrite_of_accepted {off : Nat} (hopen : BarOpen s) (hacc : refusal s off 1 0xF = 0) (v : DWord) :
    exec (.registerWrite off 1 0xF v) s = .next (writeReg off (v.extractLsb' 0 32) (countHub 2 0 false s)) := by
  change execRegisterWrite off 1 0xF v s = _
  rw [execRegisterWrite, onBar_of_barOpen hopen]
  dsimp only
  rw [if_neg (not_not_intro hacc), if_neg (by decide)]

theorem exec_registerWrite_of_refused {off lenDw : Nat} {be : BitVec 4} (hopen : BarOpen s) (href : refusal s off lenDw be ≠ 0) (v : DWord) :
    exec (.registerWrite off lenDw be v) s = .next (refuseReq true off lenDw be (refusal s off lenDw be) s) := by
  change execRegisterWrite off lenDw be v s = _
  rw [execRegisterWrite, onBar_of_barOpen hopen]
  dsimp only
  rw [if_pos href]

theorem bar0Read_of_refused {off lenDw : Nat} {be : BitVec 4} (hopen : BarOpen s) (href : refusal s off lenDw be ≠ 0) :
    bar0Read off lenDw be s = refuseReq false off lenDw be (refusal s off lenDw be) s := by
  rw [bar0Read, onBar_of_barOpen hopen]
  dsimp only
  rw [if_neg href]

theorem bar0Read_of_accepted {off lenDw : Nat} {be : BitVec 4} (hopen : BarOpen s) (hacc : refusal s off lenDw be = 0) :
    bar0Read off lenDw be s = serveRead off lenDw s := by
  rw [bar0Read, onBar_of_barOpen hopen]
  dsimp only
  rw [if_pos hacc]

/-! ### What a refused request leaves (R200) -/

theorem refuseReq_idb (write : Bool) (off lenDw cause : Nat) (be : BitVec 4) : (refuseReq write off lenDw be cause s).idb = { s.idb with
    busErr := incSat s.idb.busErr 1,
    busErrLast := BitVec.ofNat 32 (b2n write * 0x80000000 + cause * 0x10000000 + off % 0x2000000) } := by
  cases write <;> simp [refuseReq, aer]

theorem refuseReq_aer (write : Bool) (off lenDw cause : Nat) (be : BitVec 4) :
    (refuseReq write off lenDw be cause s).hst.aer = ⟨4, write, off, lenDw, be.toNat⟩ :: s.hst.aer := by
  cases write <;> simp [refuseReq, aer]

theorem refuseReq_read_sent (off lenDw cause : Nat) (be : BitVec 4) :
    (refuseReq false off lenDw be cause s).sent = ⟨.completion, 3, [off]⟩ :: s.sent := by
  simp [refuseReq, aer, send]

/-! ### A served read (R202) -/

@[simp] theorem readEffect_sent (off : Nat) (s : State) : (readEffect off s).sent = s.sent := (readEffect_law ..).1 .sent (by decide)

@[simp] theorem send_sent (ch : Chan_) (kind : Nat) (args : List Nat) (s : State) : (send ch kind args s).sent = ⟨ch, kind, args⟩ :: s.sent := rfl

/-- The state that a read returns a value of: TIME_NOW_LO captures first. -/
def readCaptured (off : Nat) (s : State) : State :=
  if off = 0x40004 ∧ blockHeld (countHub 2 0 false s) off = false then readEffect off (countHub 2 0 false s) else countHub 2 0 false s

/-- A read's answer on its way. -/
def readAnswered (off n : Nat) (s : State) : State :=
  send .completion 0 (off :: (List.range n).map fun i => (readReg (readCaptured off s) (off + 4 * i)).getD 0) (readCaptured off s)

theorem serveRead_eq (off n : Nat) (s : State) :
    serveRead off n s = if blockHeld (readAnswered off n s) off then readAnswered off n s else readEffect off (readAnswered off n s) := rfl

theorem serveRead_sent_eq (off n : Nat) (s : State) : (serveRead off n s).sent = (readAnswered off n s).sent := by
  rw [serveRead_eq]
  split
  · rfl
  · rw [readEffect_sent]

theorem readCaptured_sent (off : Nat) (s : State) : (readCaptured off s).sent = s.sent := by
  unfold readCaptured
  split <;> simp

/-- One word read is answered by one completion. -/
theorem serveRead_sent (off : Nat) (s : State) : ∃ v : Nat, (serveRead off 1 s).sent = ⟨.completion, 0, [off, v]⟩ :: s.sent :=
  ⟨_, by rw [serveRead_sent_eq, readAnswered, send_sent, readCaptured_sent]; rfl⟩

/-- What a read of ID_TEST_RC returns (R206). -/
theorem readReg_testRc (hup : s.boot.state ≠ .off) : readReg s 0x10208 = some s.idb.testRc.toNat := by
  unfold readReg
  rw [blockHeld_id hup (by decide), if_neg (by decide)]
  rfl

/-- A read of ID_TEST_RC answers its value and clears it (R206). -/
theorem serveRead_testRc (hup : s.boot.state ≠ .off) :
    (serveRead 0x10208 1 s).sent = ⟨.completion, 0, [0x10208, s.idb.testRc.toNat]⟩ :: s.sent ∧ (serveRead 0x10208 1 s).idb.testRc = 0 := by
  have hcap : readCaptured 0x10208 s = countHub 2 0 false s := if_neg fun h => absurd h.1 (by decide)
  have hread : readReg (countHub 2 0 false s) 0x10208 = some s.idb.testRc.toNat := readReg_testRc (s := countHub 2 0 false s) hup
  constructor
  · rw [serveRead_sent_eq, readAnswered, send_sent, readCaptured_sent, hcap]
    exact congrArg (fun v => (⟨.completion, 0, [0x10208, v]⟩ : Msg) :: s.sent) (congrArg (·.getD 0) hread)
  · have hheld : blockHeld (readAnswered 0x10208 1 s) 0x10208 = false := by
      refine blockHeld_id ?_ (by decide)
      rwa [readAnswered, send_boot, hcap, countHub_boot]
    rw [serveRead_eq, hheld]
    rfl

/-! ### Accepted writes (R203 to R207) -/

theorem writeReg_of_held {off : Nat} (hheld : blockHeld s off = true) (v : Word) : writeReg off v s = heldWrite off v s := by
  unfold writeReg
  dsimp only
  rw [if_pos hheld]

theorem writeReg_of_pw {off : Nat} {m : Word} (hheld : blockHeld s off = false) (hmask : pwMask off = some m) (v : Word) :
    writeReg off v s = pwAccept off m v s := by
  unfold writeReg
  dsimp only
  rw [hheld, if_neg (by decide), hmask]

theorem writeReg_testRw (hup : s.boot.state ≠ .off) (v : Word) : writeReg 0x10200 v s = { s with idb := { s.idb with testRw := v } } := by
  unfold writeReg
  rw [blockHeld_id hup (by decide)]
  rfl

theorem writeReg_testMw (hheld : blockHeld s 0x10204 = false) (v : Word) : writeReg 0x10204 v s = testMwWrite v s := by
  unfold writeReg
  rw [hheld]
  rfl

/-- A posted write that meets no other of its block waits in it with the implemented bits (R205). -/
theorem pwAccept_of_free {off : Nat} (hfree : ∀ w ∈ s.idb.pw, blockHigh w.off ≠ blockHigh off) (hincr : off ≠ 0x40014) (hstep : off ≠ 0x40028)
    (m v : Word) : ∃ w : PwWrite, (pwAccept off m v s).idb.pw = s.idb.pw ++ [w] ∧ w.off = off ∧ w.value = v &&& m := by
  have hnone : blockPw s off = none := by simpa [blockPw, List.find?_eq_none] using hfree
  unfold pwAccept
  rw [hnone, if_neg (by decide), if_neg (by simp [hincr, hstep])]
  exact ⟨_, rfl, rfl, rfl⟩

/-- The bits of ID_TEST_MW after a write (R207). -/
theorem bit_testMwWrite (v : Word) (i : Nat) (hi : i < 16) :
    bit (testMwWrite v s).idb.testMw i = if bit v (16 + i) then bit v i else bit s.idb.testMw i := by
  simp only [testMwWrite, bit, BitVec.getLsbD_or, BitVec.getLsbD_and, BitVec.getLsbD_not, BitVec.getLsbD_extractLsb', hi, decide_true, Bool.true_and,
    Nat.zero_add]
  by_cases hmask : v.getLsbD (16 + i) = true <;> simp [hmask]

/-- A posted write taken from its block's list. -/
theorem takePw_of_head {w : PwWrite} {ws : List PwWrite} (h : s.idb.pw = w :: ws) :
    takePw w.off s = some (w, { s with idb := { s.idb with pw := ws.filter fun x => x.off ≠ w.off } }) := by
  unfold takePw
  simp [h]

theorem exec_pwWriteEffect_of_head {w : PwWrite} {ws : List PwWrite} (h : s.idb.pw = w :: ws) (hheld : blockHeld s w.off = false) :
    exec (.pwWriteEffect w.off) s =
      .next (pwEffect w.off w.value { s with idb := { s.idb with pw := ws.filter fun x => x.off ≠ w.off } }) := by
  change execPwWriteEffect w.off s = _
  rw [execPwWriteEffect, takePw_of_head h]
  exact if_neg (Bool.eq_false_iff.mp ((blockHeld_of_parts rfl rfl rfl _).trans hheld))

theorem exec_pwWriteDrop_of_head {w : PwWrite} {ws : List PwWrite} (h : s.idb.pw = w :: ws) : ∃ u : State,
    exec (.pwWriteDrop w.off) s = .next (logRec 0x0103 (blockSrc w.off) w.off w.value.toNat (pwBound w.off) 0 u)
      ∧ u.idb.pw = ws.filter (fun x => x.off ≠ w.off) ∧ u.log = s.log ∧ u.time = s.time := by
  change ∃ u, execPwWriteDrop w.off s = _ ∧ _
  unfold execPwWriteDrop
  rw [takePw_of_head h]
  refine ⟨_, rfl, ?_, ?_, ?_⟩ <;> split_ifs <;> rfl

end

/-! ### Writes that meet a held block (R201) -/

theorem onlyParts_heldWrite (off : Nat) (v : Word) (s : State) : OnlyParts [.tally, .log] s (heldWrite off v s) := (heldWrite_law off v s).1

theorem coreWrite_of_held {s : State} {g off : Nat} (h : blockHeld s (coreBase g + off) = true) (v : Word) (act : State) :
    coreWrite g off v s act = heldWrite (coreBase g + off) v s := if_pos h

theorem cluWrite_of_held {s : State} {c off : Nat} (h : blockHeld s (cluBase c + off) = true) (v : Word) (act : State) :
    cluWrite c off v s act = heldWrite (cluBase c + off) v s := if_pos h

/-- Every row that is a register write discards it in a held block. -/
theorem exec_writeRow_of_held {c : Instr} {s : State} {off : Nat} {v : Word} (hrow : WriteRow c s off v) (hheld : blockHeld s off = true) :
    exec c s = .next (heldWrite off v s) := by
  unfold WriteRow at hrow
  rcases hrow with ⟨g, q, rfl, rfl⟩ | ⟨g, q, rfl, rfl⟩ | ⟨g, st, rfl, rfl⟩ | ⟨g, st, rfl, rfl⟩ | ⟨g, e, rfl, rfl⟩ | ⟨g, e, rfl, rfl⟩ | ⟨k, rfl, rfl⟩
    | ⟨k, rfl, rfl⟩ | ⟨p, rfl, rfl⟩ | ⟨r, rfl, rfl, rfl⟩ | ⟨r, rfl, rfl, rfl⟩ | ⟨rfl, rfl⟩ | ⟨rfl, rfl⟩ | ⟨rfl, rfl⟩ | ⟨rfl, rfl⟩ | ⟨rfl, rfl⟩ | ⟨rfl, rfl⟩
    | ⟨rfl, rfl⟩ | ⟨rfl, rfl⟩ | ⟨p, rfl, rfl, rfl⟩
  case inl | inr.inl | inr.inr.inl | inr.inr.inr.inl | inr.inr.inr.inr.inl | inr.inr.inr.inr.inr.inl =>
    exact congrArg _ (coreWrite_of_held hheld ..)
  case inr.inr.inr.inr.inr.inr.inl | inr.inr.inr.inr.inr.inr.inr.inl => exact congrArg _ (cluWrite_of_held hheld ..)
  case inr.inr.inr.inr.inr.inr.inr.inr.inr.inl | inr.inr.inr.inr.inr.inr.inr.inr.inr.inr.inl =>
    have hoff : 0x20018 + 0x40 * (r : Nat) = ringOff r 0x18 := by unfold ringOff; omega
    rw [hoff] at hheld ⊢
    exact if_pos hheld
  all_goals exact if_pos hheld

/-- Settles O54: the rows one by one, and a write that arrives at BAR0, which is counted besides. -/
theorem heldWrites : Obligations.HeldWrites := by
  unfold Obligations.HeldWrites
  refine ⟨fun c s off v => exec_writeRow_of_held, fun s off v hopen hacc hheld => ?_, fun s off v => onlyParts_heldWrite off v s⟩
  refine ⟨_, exec_registerWrite_of_accepted hopen hacc v, ?_⟩
  rw [writeReg_of_held (by rw [blockHeld_countHub, hheld])]
  exact fun p hp => ((countHub_law 2 0 false s).mono (by decide)).1 p hp |>.trans (onlyParts_heldWrite _ _ _ p hp)

/-- Settles O55: the write is `testMwWrite`, whose bits are the mask's choice. -/
theorem maskedWrite : Obligations.MaskedWrite := by
  unfold Obligations.MaskedWrite
  intro s v hopen hacc hheld
  refine ⟨_, exec_registerWrite_of_accepted hopen hacc v, ?_⟩
  rw [writeReg_testMw (by rw [blockHeld_countHub, hheld])]
  refine ⟨?_, ?_, fun i hi => ?_⟩
  · exact (Law.set_idb _ (by decide) ((countHub_law 2 0 false s).mono (by decide))).1
  · simp [testMwWrite]
  · rw [bit_testMwWrite _ i hi]
    have h1 : 16 + i < 32 := by omega
    have h2 : i < 32 := by omega
    simp only [bit, BitVec.getLsbD_extractLsb', Nat.zero_add, h1, h2, decide_true, Bool.true_and]
    rfl

/-- Settles O14: each access by what BAR0 makes of it. -/
theorem registersComplete : Obligations.RegistersComplete := by
  unfold Obligations.RegistersComplete
  refine ⟨fun s v hopen => ?testRw, fun s off m v hopen hacc hheld hmask hfree hincr hstep => ?posted, fun s off lenDw be v hopen href => ?refusedWrite,
    fun s off lenDw be hopen href => ?refusedRead, fun s off hopen hacc => ?read, fun s hopen _ => ?testRc, fun s r hopen => ?doorbell,
    fun s w ws hpw hoff hheld => ?effect, fun s w ws hpw hroom => ?drop, fun s v => ?testSet⟩
  case testRw =>
    refine ⟨_, exec_registerWrite_of_accepted hopen (refusal_id (by decide) (by decide) rfl) v, ?_⟩
    dsimp only
    rw [writeReg_testRw (s := countHub 2 0 false s) hopen.1]
    exact ⟨rfl, rfl⟩
  case posted =>
    refine ⟨_, exec_registerWrite_of_accepted hopen hacc v, ?_⟩
    rw [writeReg_of_pw (by rw [blockHeld_countHub, hheld]) hmask]
    exact pwAccept_of_free (s := countHub 2 0 false s) hfree hincr hstep m _
  case refusedWrite =>
    refine ⟨_, exec_registerWrite_of_refused hopen href v, ?_, refuseReq_aer .., ?_⟩ <;> rw [refuseReq_idb]
    simp [b2n]
  case refusedRead =>
    refine ⟨_, congrArg Host.Outcome.next (bar0Read_of_refused hopen href), ?_, refuseReq_read_sent .., refuseReq_aer .., ?_⟩ <;> rw [refuseReq_idb]
    simp [b2n]
  case read => exact ⟨_, congrArg Host.Outcome.next (bar0Read_of_accepted hopen hacc), serveRead_sent off s⟩
  case testRc =>
    exact ⟨_, congrArg Host.Outcome.next (bar0Read_of_accepted hopen (refusal_id (off := 0x10208) (by decide) (by decide) rfl)), serveRead_testRc hopen.1⟩
  case doorbell =>
    refine ⟨_, congrArg Host.Outcome.next (onBar_of_barOpen hopen ..), ?_⟩
    have hr : ¬ 0x200 ≤ 8 * (r : Nat) := by omega
    simp [doorbellValue, send, hr]
  case effect =>
    have hexec := exec_pwWriteEffect_of_head hpw (by rwa [hoff])
    rw [hoff] at hexec
    exact ⟨_, hexec, rfl, rfl⟩
  case drop =>
    obtain ⟨u, hexec, hpw', hlog, htime⟩ := exec_pwWriteDrop_of_head hpw
    refine ⟨_, hexec, by rw [logRec_idb, hpw'], ?_⟩
    rw [logRec_of_room _ _ _ _ _ _ _ (by rw [hlog]; exact hroom)]
    simp only [hlog, htime]
    rfl
  case testSet => exact ⟨_, rfl, rfl⟩

end Sys2Proof.Machine
end

section
/-! The rings (09_host_interface_and_rings.md): what completing an entry leaves in its ring and its completion queue, the turn an entry is taken in,
and the ring commands with the WORK entries (R179 to R187, R192, R193). -/

namespace Sys2Proof.Machine

theorem Does.of_exec {c : Instr} {s t : State} {P : State → Prop} (h : exec c s = .next t) (hP : P t) : Does c s P := ⟨t, h, hP⟩

theorem Does.mono {c : Instr} {s : State} {P Q : State → Prop} (h : Does c s P) (hPQ : ∀ t, P t → Q t) : Does c s Q := by
  obtain ⟨t, hexec, hP⟩ := h
  exact ⟨t, hexec, hPQ t hP⟩

/-! ### The completion of an entry (R183 to R185) -/

section
variable {s t u : State} {r : Nat} {e : Entry} {status : Nat} {result : List Byte}

theorem ring_of_hst (h : t.hst = s.hst) (i : Nat) : ring t i = ring s i := by rw [ring, ring, h]

theorem inflight_putCq (r : Nat) (bs : List Byte) (s : State) : (ring (putCq r bs s) r).inflight = (ring s r).inflight := by
  unfold putCq
  dsimp only
  split
  · rw [ring_sendMsix, ring_countHub, ring_setRing_same]
  · rw [ring_countHub, ring_setRing_same]

/-- The bytes that every completion with a result of 24 bytes puts before its PHASE. -/
theorem length_completionBytes (result : List Byte) (tag head status : Nat) :
    ((result ++ List.replicate 24 0).take 24 ++ toBytes tag 2 ++ toBytes head 2 ++ toBytes status 2).length = 30 := by
  simp

/-- An entry with NOCQE 0 leaves its ring and its completion is put into the queue. -/
theorem complete_of_cqe (hcqe : bits (entFlags e) 0 1 = 0) : complete r e status result u =
    putCq r ((result ++ List.replicate 24 0).take 24 ++ toBytes (entTag e) 2 ++ toBytes (ring u r).sqHead 2 ++ toBytes status 2)
      (updRing r (fun k => { k with inflight := k.inflight.filter fun x => x.seq ≠ e.seq }) u) := by
  unfold complete
  dsimp only
  rw [if_neg (by omega), updRing, ring_setRing_same]

theorem completed_complete (hring : ring u r = ring s r) (hdma : canDma u = true) (hinv : Inv u) (hcqe : bits (entFlags e) 0 1 = 0) :
    Completed s (complete r e status result u) r e status result := by
  rw [complete_of_cqe hcqe]
  refine ⟨?inflight, ?tail, ?record⟩
  case inflight => rw [inflight_putCq, updRing, ring_setRing_same, hring]
  case tail => rw [ring_putCq_cqTail, updRing, ring_setRing_same, hring]; rfl
  case record =>
    have hread := readN_putCq (s := updRing r (fun k => { k with inflight := k.inflight.filter fun x => x.seq ≠ e.seq }) u)
      hdma hinv r (length_completionBytes result (entTag e) (ring u r).sqHead status)
    rw [updRing, ring_setRing_same, hring] at hread
    rw [updRing, hring]
    exact hread

theorem completed_of_same (hring : ring u r = ring t r) (hmem : u.mem = t.mem) (h : Completed s t r e status result) :
    Completed s u r e status result := by
  unfold Completed at h ⊢
  rwa [hring, hmem]

/-- An entry that asks for no token succeeds with its completion alone (R185). -/
theorem succeed_of_no_token (htoken : entToken e = false) (kind : Nat) (s : State) : succeed kind r e result s = complete r e 0 result s := by
  simp [succeed, entryToken, htoken]

/-! ### The turn of an entry (R181, R189) -/

@[simp] theorem ring_turnTaken (r' type i : Nat) (s : State) : ring (turnTaken r' type s) i = ring s i := by
  unfold turnTaken
  split_ifs <;> rfl

@[simp] theorem turnTaken_mem (r' type : Nat) (s : State) : (turnTaken r' type s).mem = s.mem := by
  unfold turnTaken
  split_ifs <;> rfl

theorem completed_turnTaken (r' type : Nat) (h : Completed s t r e status result) : Completed s (turnTaken r' type t) r e status result :=
  completed_of_same (ring_turnTaken ..) (turnTaken_mem ..) h

/-- Work on the entry that is next, with whatever the turn's record does not touch. -/
theorem onEntry_holds {type opc : Nat} {act : Entry → State} {P : State → Prop} (htake : takeEntry s r type opc = some e)
    (hturn : ∀ t, P t → P (turnTaken r type t)) (hact : P (act e)) : P (onEntry r type opc s act) := by
  unfold onEntry
  rw [htake]
  dsimp only
  split_ifs
  · exact hact
  · exact hturn _ hact

/-- An entry that is next and completes at once without a token. -/
theorem completed_succeed_onEntry {type opc kind : Nat} {act : Entry → State} (h : Waits s r type opc e) (htoken : entToken e = false)
    (hact : act e = succeed kind r e result s) : Completed s (onEntry r type opc s act) r e 0 result := by
  obtain ⟨htake, hcqe, hdma, hinv⟩ := h
  refine onEntry_holds (P := fun t => Completed s t r e 0 result) htake (fun _ => completed_turnTaken r type) ?_
  rw [hact, succeed_of_no_token htoken]
  exact completed_complete rfl hdma hinv hcqe

/-- An entry that is next and completes at once with a status. -/
theorem completed_complete_onEntry {type opc : Nat} {act : Entry → State} (h : Waits s r type opc e)
    (hact : act e = complete r e status result s) : Completed s (onEntry r type opc s act) r e status result := by
  obtain ⟨htake, hcqe, hdma, hinv⟩ := h
  refine onEntry_holds (P := fun t => Completed s t r e status result) htake (fun _ => completed_turnTaken r type) ?_
  rw [hact]
  exact completed_complete rfl hdma hinv hcqe

end

/-! ### Doorbells (R182) -/

section
variable {s : State} {r : RingIx} {v : DWord}

theorem doorbell_sqTail (r : RingIx) (v : DWord) (s : State) : doorbell (8 * r) 4 v s = sqTail r (8 * r) 4 (fld v 0 32) s := by
  have := r.isLt
  unfold doorbell
  dsimp only
  rw [if_neg (by omega), if_neg (by omega), if_pos (by omega), show 8 * r.val / 8 = r by omega]

theorem doorbell_cqHead (r : RingIx) (v : DWord) (s : State) : doorbell (8 * r + 4) 4 v s = cqHead r (8 * r + 4) 4 (fld v 0 32) s := by
  have := r.isLt
  unfold doorbell
  dsimp only
  rw [if_neg (by omega), if_neg (by omega), if_neg (by omega), if_pos (by omega), show (8 * r.val + 4) / 8 = r by omega]

theorem does_sqTailDoorbell (hopen : BarOpen s) (hstate : (ring s r).state = .active) (htype : ringType (ring s r) ≠ 6)
    (hlt : fld v 0 32 < ringN (ring s r)) (hle : ((ring s r).sqTail + ringN (ring s r) - (ring s r).sqHead) % ringN (ring s r)
      ≤ (fld v 0 32 + ringN (ring s r) - (ring s r).sqHead) % ringN (ring s r)) :
    Does (.sqTailDoorbell (8 * r) 4 v) s fun t => (ring t r).sqTail = fld v 0 32 ∧ (ring t r).state = .active := by
  refine ⟨_, rfl, ?_⟩
  rw [onBar_of_barOpen hopen, doorbell_sqTail]
  unfold sqTail
  dsimp only
  rw [hstate]
  dsimp only
  rw [if_neg htype, if_pos ⟨hlt, hle⟩, ring_setRing_same]
  exact ⟨rfl, rfl⟩

theorem does_cqHeadDoorbell (hopen : BarOpen s) (hstate : (ring s r).state = .active)
    (hlt : fld v 0 32 < ringN (ring s r)) (hle : (fld v 0 32 + ringN (ring s r) - (ring s r).cqHead) % ringN (ring s r)
      ≤ ((ring s r).cqTail + ringN (ring s r) - (ring s r).cqHead) % ringN (ring s r)) :
    Does (.cqHeadDoorbell (8 * r + 4) 4 v) s fun t => (ring t r).cqHead = fld v 0 32 ∧ (ring t r).state = .active := by
  refine ⟨_, rfl, ?_⟩
  rw [onBar_of_barOpen hopen, doorbell_cqHead]
  unfold cqHead
  dsimp only
  rw [hstate]
  dsimp only
  rw [if_pos ⟨hlt, hle⟩, ring_setRing_same]
  exact ⟨rfl, rfl⟩

end

/-! ### Fetch, enable, disable and drain (R179 to R181, R193) -/

/-- The entry that the bytes at the SQ head become. -/
def entryAt (s : State) (r : Nat) (bs : List Byte) : Entry :=
  { bytes := bs, edition := s.hst.edition, gen := ((ringCtx s.hst.force r).map fun c => (ctx s c).gen).getD 0, seq := s.hst.entSeq }

/-- The refusal of an entry looks at the type of its ring alone, the contexts, the protection sets and the start-up state (R183). -/
theorem entryRefusal_of_parts {s t : State} (hctxs : t.ctxs = s.ctxs) (hboot : t.boot = s.boot) (hforce : t.hst.force = s.hst.force)
    (hedition : t.hst.edition = s.hst.edition) (holder : t.hst.older = s.hst.older) {r : Nat} (hcfg : (ring t r).cfg = (ring s r).cfg) (e : Entry) :
    entryRefusal t r e = entryRefusal s r e := by
  have hctx (i : Nat) : ctx t i = ctx s i := by rw [ctx, ctx, hctxs]
  have htype : ringType (ring t r) = ringType (ring s r) := by rw [ringType, ringType, hcfg]
  have hent : entCtx t r e = entCtx s r e := by rw [entCtx, entCtx, protSet, protSet, hforce, hedition, holder]
  unfold entryRefusal
  rw [hent, htype, hboot]
  simp only [hctx]

/-- An entry that is not refused is placed in flight, the SQ head one on (R181). -/
theorem ring_acceptEntry {s : State} {r : Nat} {bs : List Byte} (hok : entryRefusal s r (entryAt s r bs) = none) :
    ring (acceptEntry r bs s) r = { ring s r with
      sqHead := ((ring s r).sqHead + 1) % ringN (ring s r), inflight := (ring s r).inflight ++ [entryAt s r bs] } := by
  have hentry : entryAt s r bs = { bytes := bs, edition := s.hst.edition, seq := s.hst.entSeq, gen := match ringCtx s.hst.force r with
      | some c => (ctx s c).gen
      | none => 0 } := by
    unfold entryAt
    cases ringCtx s.hst.force r <;> rfl
  rw [hentry] at hok ⊢
  unfold acceptEntry
  dsimp only
  rw [entryRefusal_of_parts (s := s) (by rw [countHub_ctxs]; rfl) (by rw [countHub_boot]; rfl) (by rw [countHub_hst]; rfl)
    (by rw [countHub_hst]; rfl) (by rw [countHub_hst]; rfl) (by rw [ring_countHub, updRing, ring_setRing_same]; rfl)]
  split
  next st hst => exact absurd (hst.symm.trans hok) (by simp)
  next =>
    rw [ring_countHub, updRing, ring_setRing_same]
    rfl

theorem does_ringFetchComplete {s : State} {r : RingIx} {e : Entry} (hstate : (ring s r).state = .active) (htype : ringType (ring s r) ≠ 6)
    (hdma : canDma s = true) (hone : ((ring s r).sqTail + ringN (ring s r) - (ring s r).sqHead) % ringN (ring s r) = 1)
    (hfree : 1 ≤ cqFree (ring s r))
    (hbytes : e.bytes = s.mem.readN (hostKey (ringSqBase (ring s r) + 64 * ((ring s r).sqHead % ringN (ring s r)))) 64)
    (hedition : e.edition = s.hst.edition) (hgen : e.gen = ((ringCtx s.hst.force r).map fun c => (ctx s c).gen).getD 0)
    (hseq : e.seq = s.hst.entSeq) (hstarted : e.started = false) (hok : entryRefusal s r e = none) :
    Does (.ringFetchComplete r) s fun t => (ring t r).inflight = (ring s r).inflight ++ [e]
      ∧ (ring t r).sqHead = ((ring s r).sqHead + 1) % ringN (ring s r) := by
  have he : e = entryAt s r (s.mem.readN (hostKey (ringSqBase (ring s r) + 64 * ((ring s r).sqHead % ringN (ring s r)))) 64) := by
    cases e
    simp_all [entryAt]
  refine ⟨_, if_pos ⟨hstate, htype, hdma⟩, ?_⟩
  have hn : min 16 (min (((ring s r).sqTail + ringN (ring s r) - (ring s r).sqHead) % ringN (ring s r)) (cqFree (ring s r))) = 1 := by omega
  beta_reduce
  rw [hn, if_neg Nat.one_ne_zero, List.range_one, List.foldl_cons, List.foldl_nil, countHub_mem, Nat.add_zero, ring_acceptEntry]
  · rw [ring_countHub, he]
    unfold entryAt
    rw [countHub_hst]
    exact ⟨rfl, rfl⟩
  · rw [entryRefusal_of_parts (s := s) (by simp) (by simp) (by simp) (by simp) (by simp) (by simp)]
    rw [he] at hok
    exact hok

theorem does_ringEnable {s : State} {r : RingIx} (hheld : blockHeld s (0x20018 + 0x40 * r) = false) (hstate : (ring s r).state = .disabled)
    (hok : ringOk (ring s r) = true) : Does (.ringEnable r) s fun t => (ring t r).state = .active ∧ (ring t r).enable = true
      ∧ (ring t r).sqHead = 0 ∧ (ring t r).sqTail = 0 ∧ (ring t r).cqHead = 0 ∧ (ring t r).cqTail = 0 ∧ (ring t r).pass = true := by
  have hoff : blockHeld s (ringOff r 0x18) = false := by rwa [show ringOff r 0x18 = 0x20018 + 0x40 * r by unfold ringOff; omega]
  refine ⟨activate r s, ?_, ?_⟩
  · change execRingEnable r s = _
    rw [execRingEnable, if_neg (by simp [hoff]), hstate]
  · unfold activate
    dsimp only
    rw [if_pos hok, ring_setRing_same]
    simp

@[simp] theorem ring_forgetStage (r i : Nat) (s : State) : ring (forgetStage r s) i = ring s i :=
  ring_of_hst ((forgetStage_law r s).1 .hst (by decide)) i

theorem does_ringDisable {s : State} {r : RingIx} (hheld : blockHeld s (0x20018 + 0x40 * r) = false) (hstate : (ring s r).state = .active)
    (hkept : ∀ e ∈ (ring s r).inflight, drainAborts (ring s r) e = false) : Does (.ringDisable r) s fun t => (ring t r).state = .draining
      ∧ (ring t r).enable = false ∧ (ring t r).inflight = (ring s r).inflight := by
  have hoff : blockHeld s (ringOff r 0x18) = false := by rwa [show ringOff r 0x18 = 0x20018 + 0x40 * r by unfold ringOff; omega]
  have hnone : (ring s r).inflight.filter (drainAborts (ring s r)) = [] := by simpa using hkept
  refine ⟨forgetStage r (setRing r { ring s r with state := .draining, enable := false, pending := false } s), ?_, ?_⟩
  · change execRingDisable r s = _
    rw [execRingDisable, if_neg (by simp [hoff])]
    dsimp only
    rw [if_pos (.inl hstate), hnone, List.foldl_nil]
  · beta_reduce
    rw [ring_forgetStage, ring_setRing_same]
    exact ⟨rfl, rfl, rfl⟩

theorem does_ringDrainComplete {s : State} {r : RingIx} (hstate : (ring s r).state = .draining) (hempty : (ring s r).inflight = [])
    (hpending : (ring s r).pending = false) (hwait : (s.hst.waitCq.any fun w => w.1 == r.val) = false) :
    Does (.ringDrainComplete r) s fun t => (ring t r).state = .disabled := by
  refine ⟨setRing r { ring s r with state := .disabled } s, ?_, by beta_reduce; rw [ring_setRing_same]⟩
  change execRingDrainComplete r s = _
  rw [execRingDrainComplete]
  dsimp only
  rw [if_pos ⟨hstate, by simp [hempty], hwait⟩, if_neg (by simp [hpending])]

/-! ### Interrupts (R192) -/

/-- A vector that is masked, or asked for while DMA is off, waits in the PBA; another leaves. -/
theorem sendMsix_leaves_or_waits {v : Nat} (hv : v < 128) (s : State) :
    if bit (msixWord s (16 * v + 12)) 0 || !canDma s then bit (sendMsix v s).hst.pba v = true
    else (sendMsix v s).sent = ⟨.msix, v, [(msixWord s (16 * v)).toNat, (msixWord s (16 * v + 4)).toNat, (msixWord s (16 * v + 8)).toNat]⟩ :: s.sent := by
  unfold sendMsix
  split
  · exact bit_orBit_self _ hv
  · rw [countHub_sent, send_sent]

theorem does_msixTimeExpiry {s : State} {r : RingIx} {v : Nat} (hv : v = fld (ring s r).cfg 16 7) (hon : bit (ring s r).cfg 23 = true)
    (hsince : (ring s r).since ≠ 0) (htime : fld (ring s r).mod 8 16 ≠ 0)
    (hdue : (ring s r).sinceAt + fld (ring s r).mod 8 16 * 1000 ≤ s.now) :
    Does (.msixTimeExpiry r) s fun t => (ring t r).since = 0
      ∧ if bit (msixWord s (16 * v + 12)) 0 || !canDma s then bit t.hst.pba v = true
        else t.sent = ⟨.msix, v, [(msixWord s (16 * v)).toNat, (msixWord s (16 * v + 4)).toNat, (msixWord s (16 * v + 8)).toNat]⟩ :: s.sent := by
  refine ⟨sendMsix v (setRing r { ring s r with since := 0 } s), ?_, by rw [ring_sendMsix, ring_setRing_same], ?_⟩
  · change execMsixTimeExpiry r s = _
    rw [execMsixTimeExpiry]
    dsimp only
    rw [if_pos ⟨hon, hsince, htime, hdue⟩, hv]
  · exact sendMsix_leaves_or_waits (hv ▸ Nat.mod_lt _ (by decide)) (setRing r { ring s r with since := 0 } s)

/-! ### WORK entries (R187) -/

section
variable {s : State} {r : RingIx} {e : Entry} {c : Nat}

theorem does_post (h : Waits s r 1 1 e) (htoken : entToken e = false) : Does (.post r) s fun t => Completed s t r e 0 [] :=
  ⟨_, rfl, completed_succeed_onEntry h htoken rfl⟩

theorem does_awaitStep (h : Waits s r 1 2 e) (htoken : entToken e = false) (hctx : entCtx s r e = some c) (hmarked : lastStep s c ≠ 0xFFFFFFFF)
    (hreached : 0 ≤ (lastStep s c - BitVec.ofNat 32 (ent e 8 4)).toInt) :
    Does (.awaitStep r) s fun t => Completed s t r e 0 (toBytes (lastStep s c).toNat 4) := by
  refine ⟨_, rfl, completed_succeed_onEntry (kind := 4) h htoken ?_⟩
  rw [hctx]
  exact if_pos ⟨hmarked, hreached⟩

theorem does_awaitDone (h : Waits s r 1 3 e) (htoken : entToken e = false) (hctx : entCtx s r e = some c) (hdone : ctxComplete s c = true) :
    Does (.awaitDone r) s fun t => Completed s t r e 0 (toBytes (lastStep s c).toNat 4) := by
  refine ⟨_, rfl, completed_succeed_onEntry (kind := 4) h htoken ?_⟩
  rw [hctx]
  exact if_pos hdone

end

/-- Settles O11, a lemma for each row. -/
theorem ringsComplete : Obligations.RingsComplete :=
  ⟨fun _ _ _ => does_sqTailDoorbell, fun _ _ _ => does_cqHeadDoorbell, fun _ _ _ => does_ringFetchComplete, fun _ _ _ => does_msixTimeExpiry,
    fun _ _ => does_ringEnable, fun _ _ => does_ringDisable, fun _ _ => does_ringDrainComplete, fun _ _ _ => does_post, fun _ _ _ _ => does_awaitStep,
    fun _ _ _ _ => does_awaitDone⟩

end Sys2Proof.Machine
end

section
/-! What completions, events, interrupts and the disposal of contexts leave of the host interface (09_host_interface_and_rings.md) and of the pins
(23_connectors_and_signals.md): they touch the rings, the records that wait, the PBA and the counts of events, and of the pins the removal state. -/

namespace Sys2Proof.Machine

/-- The host interface without what completions, events and interrupts move: the rings, the records that wait, the PBA, the counts of events. -/
def hostSettings (s : State) : HostIf := { s.hst with rings := [], waitCq := [], pba := 0, evtDrop := 0, evtLost := 0 }

/-- The pins without the removal state. -/
def pinSettings (s : State) : PinSt := { s.pins with remove := .none_ }

section
variable {s t : State}

theorem hostSettings_of_hst (h : t.hst = s.hst) : hostSettings t = hostSettings s := by rw [hostSettings, hostSettings, h]

theorem hostSettings_of_law {L : List Part} (h : Law L s t) (hL : .hst ∉ L) : hostSettings t = hostSettings s := hostSettings_of_hst (h.1 .hst hL)

theorem pinSettings_of_law {L : List Part} (h : Law L s t) (hL : .pins ∉ L) : pinSettings t = pinSettings s :=
  congrArg (fun p : PinSt => { p with remove := .none_ }) (h.1 .pins hL)

theorem force_of_hostSettings (h : hostSettings t = hostSettings s) : t.hst.force = s.hst.force := (congrArg HostIf.force h :)

theorem edition_of_hostSettings (h : hostSettings t = hostSettings s) : t.hst.edition = s.hst.edition := (congrArg HostIf.edition h :)

theorem refused_of_hostSettings (h : hostSettings t = hostSettings s) : t.hst.refused = s.hst.refused := (congrArg HostIf.refused h :)

theorem perst_of_pinSettings (h : pinSettings t = pinSettings s) : t.pins.perst = s.pins.perst := (congrArg PinSt.perst h :)

theorem ejectOpen_of_pinSettings (h : pinSettings t = pinSettings s) : t.pins.ejectOpen = s.pins.ejectOpen := (congrArg PinSt.ejectOpen h :)

end

/-! ### Interrupts, completions and events -/

section
variable (s : State)

@[simp] theorem hostSettings_setRing (r : Nat) (k : RingSt) : hostSettings (setRing r k s) = hostSettings s := rfl

@[simp] theorem hostSettings_updCtx (c : Nat) (f : CtxSt → CtxSt) : hostSettings (updCtx c f s) = hostSettings s := rfl

@[simp] theorem pinSettings_updCtx (c : Nat) (f : CtxSt → CtxSt) : pinSettings (updCtx c f s) = pinSettings s := rfl

@[simp] theorem hostSettings_countHub (ev qual : Nat) (ranged : Bool) : hostSettings (countHub ev qual ranged s) = hostSettings s :=
  hostSettings_of_hst (countHub_hst ..)

@[simp] theorem hostSettings_logRec (code source p0 p1 p2 p3 : Nat) : hostSettings (logRec code source p0 p1 p2 p3 s) = hostSettings s :=
  hostSettings_of_hst (logRec_hst ..)

@[simp] theorem hostSettings_logCore (g code p0 p1 p2 p3 : Nat) : hostSettings (logCore g code p0 p1 p2 p3 s) = hostSettings s :=
  hostSettings_of_hst (logCore_hst ..)

@[simp] theorem hostSettings_sendMsix (v : Nat) : hostSettings (sendMsix v s) = hostSettings s := by
  unfold sendMsix
  split
  · rfl
  · rw [hostSettings_countHub]
    rfl

@[simp] theorem hostSettings_putCq (r : Nat) (bs : List Byte) : hostSettings (putCq r bs s) = hostSettings s := by
  have hwrite : hostSettings (if canDma s = true then countHub 9 0 false (writeMem (hostKey (ringCqBase (ring s r) + 32 * (ring s r).cqTail))
      (bs.take 30 ++ [if (ring s r).pass then 1 else 0, 0]) s)
      else { s with hst := { s.hst with waitCq := s.hst.waitCq ++ [(r, hostKey (ringCqBase (ring s r) + 32 * (ring s r).cqTail),
        bs.take 30 ++ [if (ring s r).pass then 1 else 0, 0])] } }) = hostSettings s := by
    split
    · rw [hostSettings_countHub]
      rfl
    · rfl
  unfold putCq
  dsimp only
  split
  · rw [hostSettings_sendMsix, hostSettings_countHub, hostSettings_setRing, hwrite]
  · rw [hostSettings_countHub, hostSettings_setRing, hwrite]

@[simp] theorem hostSettings_complete (r status : Nat) (e : Entry) (result : List Byte) :
    hostSettings (complete r e status result s) = hostSettings s := by
  unfold complete
  dsimp only
  split
  · rfl
  · rw [hostSettings_putCq]
    rfl

@[simp] theorem hostSettings_completeBy (r opc tag status : Nat) (result : List Byte) :
    hostSettings (completeBy r opc tag status result s) = hostSettings s := by
  unfold completeBy
  split
  · rw [hostSettings_complete]
  · rfl

@[simp] theorem hostSettings_completeAwaits (c status : Nat) (result : List Byte) :
    hostSettings (completeAwaits c status result s) = hostSettings s :=
  foldl_keeps (α := Nat × Entry) (fun x p => hostSettings_complete x p.1 status p.2 result) ..

@[simp] theorem hostSettings_dropEvent : hostSettings (dropEvent s) = hostSettings s := by
  rw [dropEvent, hostSettings_countHub]
  rfl

@[simp] theorem hostSettings_postEvent (code source : Nat) (c : Option Nat) (p0 p1 p2 p3 : Nat) :
    hostSettings (postEvent code source c p0 p1 p2 p3 s) = hostSettings s := by
  unfold postEvent
  split
  · rw [hostSettings_dropEvent]
  · dsimp only
    split_ifs
    · rw [hostSettings_putCq]
    · rw [hostSettings_dropEvent]
    · rw [hostSettings_putCq]
      exact hostSettings_putCq ..
    · rw [hostSettings_dropEvent]

/-! ### Contexts disposed of and torn down -/

@[simp] theorem hostSettings_completeMode (m : StagedMode) (status : Nat) (result : List Byte) :
    hostSettings (completeMode m status result s) = hostSettings s := by
  unfold completeMode
  split
  · split
    · rw [hostSettings_complete]
    · rfl
  · rfl

@[simp] theorem hostSettings_modeAbort (c cause : Nat) : hostSettings (modeAbort c cause s) = hostSettings s := by
  unfold modeAbort
  split
  · rfl
  · dsimp only
    rw [hostSettings_logCore, hostSettings_completeMode, hostSettings_of_law (releaseSync_law ..) (by decide)]
    rfl

@[simp] theorem hostSettings_disposeCopies (c : Nat) : hostSettings (disposeCopies c s) = hostSettings s := by
  unfold disposeCopies
  exact foldl_keeps (α := Nat × Entry) (fun x p => hostSettings_complete x p.1 0x1C p.2 []) ..

@[simp] theorem hostSettings_platformEvent (code : Nat) : hostSettings (platformEvent code s) = hostSettings s := by
  unfold platformEvent
  split <;> rfl

@[simp] theorem hostSettings_setRemove (r : RemoveState) : hostSettings (setRemove r s) = hostSettings s := by
  rw [setRemove, hostSettings_platformEvent, hostSettings_postEvent, hostSettings_logRec]
  rfl

@[simp] theorem pinSettings_setRemove (r : RemoveState) : pinSettings (setRemove r s) = pinSettings s := by
  rw [setRemove, pinSettings, pinSettings, (platformEvent_law ..).1 .pins (by decide), postEvent_pins, logRec_pins]

@[simp] theorem hostSettings_removeCheck : hostSettings (removeCheck s) = hostSettings s := by
  unfold removeCheck
  split
  · rw [hostSettings_setRemove]
  · rfl

@[simp] theorem pinSettings_removeCheck : pinSettings (removeCheck s) = pinSettings s := by
  unfold removeCheck
  split
  · rw [pinSettings_setRemove]
  · rfl

theorem hostSettings_foldl_startStream (l : List (Nat × Nat)) :
    hostSettings (l.foldl (fun s x => startStream x.1 x.2 s) s) = hostSettings s :=
  foldl_keeps (fun _ _ => hostSettings_of_law (startStream_law ..) (by decide)) ..

theorem pinSettings_foldl_startStream (l : List (Nat × Nat)) :
    pinSettings (l.foldl (fun s x => startStream x.1 x.2 s) s) = pinSettings s :=
  foldl_keeps (fun _ _ => pinSettings_of_law (startStream_law ..) (by decide)) ..

theorem hostSettings_ckptReport (c : Nat) (number step : Word) (b : Bool) (state : Nat) :
    hostSettings (ckptReport c number step b state s) = hostSettings s := hostSettings_of_law (ckptReport_law ..) (by decide)

@[simp] theorem hostSettings_ckptFail (c cause : Nat) : hostSettings (ckptFail c cause s) = hostSettings s := by
  unfold ckptFail
  split
  · rfl
  next k hk =>
    dsimp only
    rw [hostSettings_removeCheck]
    have hbody (x : State) (hx : hostSettings x = hostSettings s) :
        hostSettings (if k.freezing = true ∧ cause ≠ 4 then k.froze.foldl (fun s x => startStream x.1 x.2 s) x else x) = hostSettings s := by
      split
      · rw [hostSettings_foldl_startStream, hx]
      · exact hx
    split
    · rw [hostSettings_completeBy]
      apply hbody
      rw [hostSettings_ckptReport, hostSettings_postEvent, hostSettings_logRec]
      rfl
    · apply hbody
      rw [hostSettings_ckptReport, hostSettings_postEvent, hostSettings_logRec]
      rfl

@[simp] theorem pinSettings_ckptFail (c cause : Nat) : pinSettings (ckptFail c cause s) = pinSettings s := by
  unfold ckptFail
  split
  · rfl
  next k hk =>
    dsimp only
    rw [pinSettings_removeCheck]
    have hbody (x : State) (hx : pinSettings x = pinSettings s) :
        pinSettings (if k.freezing = true ∧ cause ≠ 4 then k.froze.foldl (fun s x => startStream x.1 x.2 s) x else x) = pinSettings s := by
      split
      · rw [pinSettings_foldl_startStream, hx]
      · exact hx
    split
    · rw [pinSettings_of_law (completeBy_law ..) (by decide)]
      apply hbody
      rw [pinSettings_of_law (ckptReport_law ..) (by decide), pinSettings_of_law (postEvent_law ..) (by decide),
        pinSettings_of_law (logRec_law ..) (by decide)]
      rfl
    · apply hbody
      rw [pinSettings_of_law (ckptReport_law ..) (by decide), pinSettings_of_law (postEvent_law ..) (by decide),
        pinSettings_of_law (logRec_law ..) (by decide)]
      rfl

@[simp] theorem hostSettings_ckptResetBeforeCut (c : Nat) : hostSettings (ckptResetBeforeCut c s) = hostSettings s := by
  unfold ckptResetBeforeCut
  split
  · split
    · rfl
    · rw [hostSettings_ckptFail]
  · rfl

@[simp] theorem pinSettings_ckptResetBeforeCut (c : Nat) : pinSettings (ckptResetBeforeCut c s) = pinSettings s := by
  unfold ckptResetBeforeCut
  split
  · split
    · rfl
    · rw [pinSettings_ckptFail]
  · rfl

theorem hostSettings_disposeCores (l : List Nat) : hostSettings (l.foldl (fun s g => disposeCore g s) s) = hostSettings s :=
  foldl_keeps (fun _ _ => hostSettings_of_law (disposeCore_law ..) (by decide)) ..

theorem pinSettings_disposeCores (l : List Nat) : pinSettings (l.foldl (fun s g => disposeCore g s) s) = pinSettings s :=
  foldl_keeps (fun _ _ => pinSettings_of_law (disposeCore_law ..) (by decide)) ..

@[simp] theorem hostSettings_disposeCtx (c : Nat) : hostSettings (disposeCtx c s) = hostSettings s := by
  unfold disposeCtx
  dsimp only
  rw [hostSettings_of_law (dropLink_law ..) (by decide), hostSettings_ckptResetBeforeCut, hostSettings_disposeCopies,
    hostSettings_disposeCores, hostSettings_modeAbort]

@[simp] theorem pinSettings_disposeCtx (c : Nat) : pinSettings (disposeCtx c s) = pinSettings s := by
  unfold disposeCtx
  dsimp only
  rw [pinSettings_of_law (dropLink_law ..) (by decide), pinSettings_ckptResetBeforeCut, pinSettings_of_law (disposeCopies_law ..) (by decide),
    pinSettings_disposeCores, pinSettings_of_law (modeAbort_law ..) (by decide)]

@[simp] theorem hostSettings_teardown (c : Nat) (by_ : Option (Nat × Half16 × Bool)) : hostSettings (teardown c by_ s) = hostSettings s := by
  unfold teardown
  dsimp only
  rw [hostSettings_updCtx, hostSettings_completeAwaits, hostSettings_disposeCtx, hostSettings_of_law (genAdvance_law ..) (by decide)]

@[simp] theorem pinSettings_teardown (c : Nat) (by_ : Option (Nat × Half16 × Bool)) : pinSettings (teardown c by_ s) = pinSettings s := by
  unfold teardown
  dsimp only
  rw [pinSettings_updCtx, pinSettings_of_law (completeAwaits_law ..) (by decide), pinSettings_disposeCtx, pinSettings_of_law (genAdvance_law ..) (by decide)]

@[simp] theorem hostSettings_tearAll : hostSettings (tearAll s) = hostSettings s := foldl_keeps (fun x c => hostSettings_teardown x c none) ..

@[simp] theorem pinSettings_tearAll : pinSettings (tearAll s) = pinSettings s := foldl_keeps (fun x c => pinSettings_teardown x c none) ..

/-! ### A reset of the host interface (R173) -/

/-- What a reset of the host interface tears the contexts down in. -/
def hostCleared (s : State) : State :=
  let s := clearBusErr (onHst freshHost (dropHubCopies (endSession 4 (zeroGuards s))))
  { s with rst := { s.rst with held := [] } }

theorem hostReset_eq (cause : Nat) : hostReset cause s =
    logRec 0x0206 0x00FF cause ((List.range 4).filter fun c => (ctx s c).created).length 0 0 (tearAll (hostCleared s)) := rfl

theorem hostCleared_hst : (hostCleared s).hst = freshHost s.hst := by
  have hold : (dropHubCopies (endSession 4 (zeroGuards s))).hst = s.hst := by
    rw [(dropHubCopies_law ..).1 .hst (by decide), (endSession_law ..).1 .hst (by decide), (zeroGuards_law ..).1 .hst (by decide)]
  rw [← hold]
  rfl

theorem hostCleared_pins : (hostCleared s).pins = s.pins := by
  have hold : (dropHubCopies (endSession 4 (zeroGuards s))).pins = s.pins := by
    rw [(dropHubCopies_law ..).1 .pins (by decide), (endSession_law ..).1 .pins (by decide), (zeroGuards_law ..).1 .pins (by decide)]
  rw [← hold]
  dsimp only [hostCleared, clearBusErr, onHst]

theorem hostSettings_hostReset (cause : Nat) : hostSettings (hostReset cause s) = freshHost s.hst := by
  rw [hostReset_eq, hostSettings_logRec, hostSettings_tearAll, hostSettings, hostCleared_hst]
  rfl

theorem resetting_hostReset (cause : Nat) : (hostReset cause s).hst.resetting = true := by
  have hreset {t : State} {k : HostIf} (h : hostSettings t = k) : t.hst.resetting = k.resetting := (congrArg HostIf.resetting h :)
  exact hreset (hostSettings_hostReset ..)

theorem pinSettings_hostReset (cause : Nat) : pinSettings (hostReset cause s) = pinSettings s := by
  rw [hostReset_eq, pinSettings_of_law (logRec_law ..) (by decide), pinSettings_tearAll, pinSettings, hostCleared_pins]
  rfl

end

end Sys2Proof.Machine
end

section
/-! The pins, removal, the faceplate ports and the sideband (23_connectors_and_signals.md, R430, R434 to R440): what each command leaves. -/

namespace Sys2Proof.Machine

/-! ### External inputs (R430) -/

section
variable {s : State}

theorem does_rackAttn {r : Nat} (hup : s.boot.state ≠ .off) (hmask : s.pins.attnMasked = false) (hen : bit s.pins.ctlCfg 0 = true)
    (hfirst : s.pins.attnAt = 0) (hready : EventReady s none r) : Does .rackAttn s fun t =>
      t.pins.attnAt = s.now + 1 ∧ Posted s t r 0x4040 0x4000 none s.pins.attnCount 0 0 0 := by
  have hmarked : EventReady (onPins (fun p => { p with attnAt := s.now + 1 }) (onPins (fun p => { p with attnOn := s.now }) s)) none r := hready
  refine ⟨_, (if_neg (by simp [onPins, hup, hmask])).trans (if_neg (by simp [onPins, hen, hfirst])), ?_, posted_postEvent hmarked ..⟩
  rw [postEvent_pins]
  rfl

theorem does_rackAttnMask {m : Bool} (hheld : m = true → s.pins.attnOn + 1000000000 ≤ s.now) :
    Does (.rackAttnMask m) s fun t => t.pins.attnMasked = m := by
  by_cases hsame : s.pins.attnMasked = m
  · exact ⟨s, if_pos (.inl hsame), hsame⟩
  · have hchange : ¬ (s.pins.attnMasked = m ∨ (m = true ∧ s.now < s.pins.attnOn + 1000000000)) := by
      rintro (h | ⟨hm, hlt⟩)
      · exact hsame h
      · have := hheld hm
        omega
    by_cases hoff : s.boot.state = .off
    · exact ⟨onPins (fun p => { p with attnMasked := m }) s, (if_neg hchange).trans (if_pos hoff), rfl⟩
    · refine .of_exec ((if_neg hchange).trans (if_neg hoff)) ?_
      rw [logRec_pins]
      rfl

theorem does_perstN (hup : s.boot.state ≠ .off) : Does .perstN s fun t => t.pins.perst = true ∧ t.hst.resetting = true := by
  refine ⟨hostReset 3 (onPins (fun p => { p with perst := true }) s), if_neg hup, ?perst, ?resetting⟩
  case perst => exact perst_of_pinSettings (pinSettings_hostReset ..)
  case resetting => exact resetting_hostReset ..

theorem does_slotIdChange (v : Fin 32) : Does (.slotIdChange v) s fun t => t.pins.slotNow = v ∧ t.steer.slot = s.steer.slot := by
  have hexec : exec (.slotIdChange v) s = if s.boot.state = .off ∨ (s.boot.state = .boot ∧ s.boot.step = 0) then
      .next (onPins (fun p => { p with slotNow := v.val }) s)
      else .next (logRec 0x4002 0x4000 (me s) v 0 0 (onPins (fun p => { p with slotChanged := v.val != me s })
        (onPins (fun p => { p with slotNow := v.val }) s))) := rfl
  by_cases hearly : s.boot.state = .off ∨ (s.boot.state = .boot ∧ s.boot.step = 0)
  · exact ⟨_, hexec.trans (if_pos hearly), rfl, rfl⟩
  · refine .of_exec (hexec.trans (if_neg hearly)) ⟨?_, ?_⟩
    · rw [logRec_pins]
      rfl
    · rw [logRec_steer]
      rfl

/-! ### Removal (R439) -/

@[simp] theorem remove_setRemove (r : RemoveState) (s : State) : (setRemove r s).pins.remove = r := by
  rw [setRemove, (platformEvent_law ..).1 .pins (by decide), postEvent_pins, logRec_pins]

theorem ejectOpen_setRemove (r : RemoveState) (s : State) : (setRemove r s).pins.ejectOpen = s.pins.ejectOpen :=
  ejectOpen_of_pinSettings (pinSettings_setRemove s r)

theorem ejectOpen_removeCheck (s : State) : (removeCheck s).pins.ejectOpen = s.pins.ejectOpen :=
  ejectOpen_of_pinSettings (pinSettings_removeCheck s)

@[simp] theorem ctlSend_cfg (dst kind : Nat) (body : List Nat) (s : State) : (ctlSend dst kind body s).stew.cfg = s.stew.cfg := by
  unfold ctlSend
  dsimp only
  rw [ctlOut_stew]

@[simp] theorem report_cfg (body : List Nat) (s : State) : (report body s).stew.cfg = s.stew.cfg := by
  unfold report
  dsimp only
  split
  · split <;> rfl
  · split
    · rw [ctlSend_cfg]
    · rfl

/-- The conditions of SAFE (R439): no role, no member of the chart, no context, no slot that is written or drained. -/
abbrev removable (s : State) : Prop :=
  holdsRole s (me s) = false ∧ chMember s.steer.chart (me s) = false ∧ ctxMask s = 0 ∧ slotsBusy s = false

theorem removable_of_parts {t : State} (hcfg : t.stew.cfg = s.stew.cfg) (hsteer : t.steer = s.steer) (hctxs : t.ctxs = s.ctxs)
    (hckpt : t.ckpt = s.ckpt) : removable t ↔ removable s := by
  have hctx (c : Nat) : ctx t c = ctx s c := by rw [ctx, ctx, hctxs]
  simp only [removable, holdsRole, me, ctxMask, slotsBusy, hcfg, hsteer, hckpt, hctx]

theorem remove_removeCheck (h : s.pins.remove = .requested) :
    (removeCheck s).pins.remove = if removable s then .safe else .requested := by
  unfold removeCheck
  split_ifs with hcond hsafe hsafe
  · exact remove_setRemove ..
  · exact absurd hcond.2 hsafe
  · exact absurd ⟨h, hsafe⟩ hcond
  · exact h

theorem does_ejectorOpen (hup : s.boot.state ≠ .off) (hnone : s.pins.remove = .none_) : Does .ejectorOpen s fun t => t.pins.ejectOpen = true
    ∧ t.pins.remove = if holdsRole s (me s) = false ∧ chMember s.steer.chart (me s) = false ∧ ctxMask s = 0 ∧ slotsBusy s = false
        then .safe else .requested := by
  refine .of_exec (if_neg (not_or.mpr ⟨hup, not_not.mpr hnone⟩)) ⟨?_, ?_⟩
  · rw [ejectOpen_removeCheck, report_pins, ejectOpen_setRemove]
    rfl
  · rw [remove_removeCheck (by rw [report_pins, remove_setRemove])]
    refine if_congr (removable_of_parts (s := s) ?_ ?_ ?_ ?_) rfl rfl
    · rw [report_cfg, (setRemove_law ..).1 .stew (by decide)]
      rfl
    · rw [report_steer, (setRemove_law ..).1 .steer (by decide)]
      rfl
    · rw [report_ctxs, (setRemove_law ..).1 .ctxs (by decide)]
      rfl
    · rw [report_ckpt, (setRemove_law ..).1 .ckpt (by decide)]
      rfl

theorem does_ejectorClose (hup : s.boot.state ≠ .off) : Does .ejectorClose s fun t => t.pins.ejectOpen = false ∧ t.pins.remove = .none_ := by
  by_cases hnone : s.pins.remove = .none_
  · exact ⟨onPins (fun p => { p with ejectOpen := false }) s, if_pos (.inr hnone), rfl, hnone⟩
  · refine ⟨setRemove .none_ (onPins (fun p => { p with ejectOpen := false }) s), if_neg (not_or.mpr ⟨hup, hnone⟩), ?_, remove_setRemove ..⟩
    rw [ejectOpen_setRemove]
    rfl

/-! ### Faceplate ports (R434, R440) -/

@[simp] theorem boot_setEth (p : Nat) (k : EthPort) (s : State) : (setEth p k s).boot = s.boot := rfl

@[simp] theorem eth_setEth (p : Nat) (k : EthPort) (s : State) : eth (setEth p k s) p = k := Tbl.get_set_same ..

theorem eth_of_eth {t : State} (h : t.eth = s.eth) (p : Nat) : eth t p = eth s p := by rw [eth, eth, h]

@[simp] theorem eth_logRec (code source p0 p1 p2 p3 p : Nat) (s : State) : eth (logRec code source p0 p1 p2 p3 s) p = eth s p :=
  eth_of_eth (logRec_eth ..) p

@[simp] theorem eth_logRate (key gap code source p0 p1 p2 p3 p : Nat) (s : State) :
    eth (logRate key gap code source p0 p1 p2 p3 s) p = eth s p := eth_of_eth (logRate_eth ..) p

@[simp] theorem eth_ethMove (p : Nat) (to_ : EthState) (s : State) : eth (ethMove p to_ s) p = { eth s p with state := to_ } := by
  unfold ethMove
  dsimp only
  split
  next h => rw [← h]
  next => rw [eth_logRec, eth_setEth]

theorem eth_ethOn (p : Nat) (s : State) : eth (ethOn p s) p = { eth s p with
    pending := false, state := if (eth s p).present = false then .noModule else if (eth s p).fecLock then .up else .down } := by
  rw [ethOn, eth_ethMove, eth_setEth]

theorem eth_ethDrop (p : Nat) (s : State) : eth (ethDrop p s) p = { eth s p with drop := incSat (eth s p).drop 1 } := by
  rw [ethDrop, eth_logRate, eth_setEth]

variable {p : Fin 4}

/-- Clearing ENABLE clears it. -/
theorem bit_enable_cleared (v : Word) : bit (v &&& ~~~(0x80000000 : Word)) 31 = false := by
  rw [bit, BitVec.getLsbD_and, show (~~~(0x80000000 : Word)).getLsbD 31 = false by decide, Bool.and_false]

theorem does_ethPortEnable (hheld : blockHeld s (ethOff p 0) = false) (hstate : (eth s p).state = .disabled) :
    Does (.ethPortEnable p) s fun t => bit (eth t p).ctl 31 = true
      ∧ (eth t p).state = if (eth s p).present = false then .noModule else if (eth s p).fecLock then .up else .down := by
  refine .of_exec (if_neg (by simp [hheld])) ?_
  unfold ethEnable
  dsimp only
  rw [hstate, eth_ethOn, eth_setEth]
  exact ⟨bit_orBit_self _ (by decide), rfl⟩

theorem does_ethPortDisable (hheld : blockHeld s (ethOff p 0) = false) :
    ((eth s p).state = .up → Does (.ethPortDisable p) s fun t => (eth t p).state = .draining ∧ bit (eth t p).ctl 31 = false)
      ∧ ((eth s p).state = .noModule ∨ (eth s p).state = .down
          → Does (.ethPortDisable p) s fun t => (eth t p).state = .disabled ∧ bit (eth t p).ctl 31 = false) := by
  constructor
  · intro hup
    refine .of_exec (if_neg (by simp [hheld])) ?_
    unfold ethDisable
    dsimp only
    rw [hup, eth_ethMove, eth_setEth]
    exact ⟨rfl, bit_enable_cleared _⟩
  · rintro (hstate | hstate)
    all_goals
      refine .of_exec (if_neg (by simp [hheld])) ?_
      unfold ethDisable
      dsimp only
      rw [hstate, eth_ethMove, eth_setEth]
      exact ⟨rfl, bit_enable_cleared _⟩

theorem does_ethPortDrainEnd (hstate : (eth s p).state = .draining) (hpending : (eth s p).pending = false) :
    Does (.ethPortDrainEnd p) s fun t => (eth t p).state = .disabled := by
  refine .of_exec (if_neg (not_not.mpr hstate)) ?_
  rw [if_neg (by simp [hpending]), eth_ethMove]

theorem does_osfpModuleChange_inserted (w : Nat) (hup : s.boot.state ≠ .off) (hstate : (eth s p).state = .noModule) :
    Does (.osfpModuleChange p 0 w) s fun t => (eth t p).present = true ∧ (eth t p).state = if (eth s p).fecLock then .up else .down := by
  have hexec : exec (.osfpModuleChange p 0 w) s = .next (ethOn p (logRec 0x3002 (0x3000 + p) p 1 w 0 (setEth p { eth s p with present := true } s))) := by
    change execOsfpModuleChange p 0 w s = _
    simp [execOsfpModuleChange, hup, hstate]
  refine .of_exec hexec ?_
  rw [eth_ethOn, eth_logRec, eth_setEth]
  exact ⟨rfl, rfl⟩

theorem does_osfpModuleChange_removed (w : Nat) (hup : s.boot.state ≠ .off) (hstate : (eth s p).state = .up) :
    Does (.osfpModuleChange p 1 w) s fun t => (eth t p).present = false ∧ (eth t p).state = .noModule := by
  have hexec : exec (.osfpModuleChange p 1 w) s = .next (ethOn p (logRec 0x3002 (0x3000 + p) p 2 w 0
      (setEth p { eth s p with present := false, fecLock := false } s))) := by
    change execOsfpModuleChange p 1 w s = _
    simp [execOsfpModuleChange, hup, hstate]
  refine .of_exec hexec ?_
  rw [eth_ethOn, eth_logRec, eth_setEth]
  exact ⟨rfl, rfl⟩

/-- A frame shows the FEC locked: the port comes up and its counts move (R434). -/
def frameSeen (p : Fin 4) (ce ue : Nat) (s : State) : State :=
  ethMove p .up (setEth p { eth s p with fecLock := true, feCe := incSat (eth s p).feCe ce, feUe := incSat (eth s p).feUe ue } s)

theorem exec_ethernetFrame_of_down (f : List Byte) (ce ue : Nat) (hstate : (eth s p).state = .down) (hpresent : (eth s p).present = true)
    (hheld : blockHeld s (ethOff p 0) = false) : exec (.ethernetFrame p f ce ue) s =
      if f.length < 64 ∨ 9216 < f.length ∨ fcsGood f = false then .next (ethDrop p (frameSeen p ce ue s))
      else match macControl f with
        | some 0x0101 => .next (setEth p { eth (frameSeen p ce ue s) p with
            pfcHeld := pfcAfter (BitVec.ofNat 8 (fld (eth (frameSeen p ce ue s) p).ctl 8 8)) (eth (frameSeen p ce ue s) p).pfcHeld f } (frameSeen p ce ue s))
        | some 1 => .next (ethDrop p (frameSeen p ce ue s))
        | _ => .next (setEth p { eth (frameSeen p ce ue s) p with rx := (eth (frameSeen p ce ue s) p).rx ++ [(framePrio f, f)] } (frameSeen p ce ue s)) := by
  change execEthernetFrame p f ce ue s = _
  unfold execEthernetFrame
  dsimp only
  rw [if_neg (by simp [hstate, hpresent, hheld]), if_neg (show ¬ (eth s p).state = .draining by simp [hstate])]
  rfl

theorem does_ethernetFrame (f : List Byte) (ce ue : Nat) (hstate : (eth s p).state = .down) (hpresent : (eth s p).present = true)
    (hheld : blockHeld s (ethOff p 0) = false) :
    (64 ≤ f.length → f.length ≤ 9216 → fcsGood f = true → macControl f = none
      → Does (.ethernetFrame p f ce ue) s fun t => (eth t p).state = .up ∧ (eth t p).drop = (eth s p).drop
          ∧ (eth t p).rx = (eth s p).rx ++ [(framePrio f, f)] ∧ (eth t p).feCe = incSat (eth s p).feCe ce)
    ∧ (f.length < 64 ∨ 9216 < f.length ∨ fcsGood f = false
      → Does (.ethernetFrame p f ce ue) s fun t => (eth t p).state = .up ∧ (eth t p).drop = incSat (eth s p).drop 1 ∧ (eth t p).rx = (eth s p).rx) := by
  have hexec := exec_ethernetFrame_of_down f ce ue hstate hpresent hheld
  constructor
  · intro hmin hmax hfcs hplain
    rw [if_neg (by simp [hmin, hmax, hfcs]), hplain] at hexec
    refine .of_exec hexec ?_
    rw [eth_setEth, frameSeen, eth_ethMove, eth_setEth]
    exact ⟨rfl, rfl, rfl, rfl⟩
  · intro hbad
    rw [if_pos hbad] at hexec
    refine .of_exec hexec ?_
    rw [eth_ethDrop, frameSeen, eth_ethMove, eth_setEth]
    exact ⟨rfl, rfl, rfl⟩

/-! ### The control port and the LEDs (R435, R437) -/

theorem does_controlLinkChange (l : Fin 3) : Does (.controlLinkChange l) s fun t => t.pins.link = l := by
  by_cases hsame : s.pins.link = l.val
  · exact ⟨s, if_pos hsame, hsame⟩
  · by_cases hoff : s.boot.state = .off
    · exact ⟨onPins (fun p => { p with link := l.val }) s, (if_neg hsame).trans (if_pos hoff), rfl⟩
    · refine .of_exec ((if_neg hsame).trans (if_neg hoff)) ?_
      rw [logRec_pins]
      rfl

theorem does_locate (v : Word) (hheld : blockHeld s 0x40000C = false) : Does (.locate v) s fun t => t.pins.led = v &&& 1 :=
  ⟨onPins (fun p => { p with led := v &&& 1 }) s, if_neg (by simp [hheld]), rfl⟩

end

/-- Settles O33, a lemma for each row. -/
theorem pinsComplete : Obligations.PinsComplete :=
  ⟨fun _ _ => does_rackAttn, fun _ _ => does_rackAttnMask, fun _ => does_perstN, fun _ => does_slotIdChange, fun _ => does_ejectorOpen,
    fun _ => does_ejectorClose, fun _ _ => does_ethPortEnable, fun _ _ => does_ethPortDisable, fun _ _ => does_ethPortDrainEnd,
    fun _ _ => does_osfpModuleChange_inserted, fun _ _ => does_osfpModuleChange_removed, fun _ _ => does_ethernetFrame,
    fun _ => does_controlLinkChange, fun _ => does_locate⟩

/-! ### Sideband (R438) -/

section
variable {s : State}

@[simp] theorem sent_served (s : State) : (served s).sent = s.sent := rfl

@[simp] theorem sent_mctpReply (cmd code : Nat) (data : List Nat) (s : State) :
    (mctpReply cmd code data s).sent = ⟨.pldm, 0, cmd :: code :: data⟩ :: s.sent := by
  rw [mctpReply, send_sent, sent_served]

/-- A PLDM request is answered with its response, or with ERROR_NOT_READY while the module is not ready. -/
theorem sent_pldmReply (hup : sideUp s = true) (type_ cmd code : Nat) (data : List Nat) : (pldmReply type_ cmd code data s).sent =
    ⟨.pldm, 1, if pldmBusy s then [type_, cmd, 4] else type_ :: cmd :: code :: data⟩ :: s.sent := by
  rw [pldmReply, if_neg (by simp [hup]), send_sent, sent_served]

theorem sent_pldmReply_of_ready (hup : sideUp s = true) (hready : pldmBusy s = false) (type_ cmd code : Nat) (data : List Nat) :
    (pldmReply type_ cmd code data s).sent = ⟨.pldm, 1, type_ :: cmd :: code :: data⟩ :: s.sent := by
  rw [sent_pldmReply hup, if_neg (by simp [hready])]

@[simp] theorem tid_pldmReply (type_ cmd code : Nat) (data : List Nat) (s : State) : (pldmReply type_ cmd code data s).side.tid = s.side.tid := by
  unfold pldmReply
  split <;> rfl

theorem does_setEndpointId (i3c : Bool) {eid : Byte} (hup : sideUp s = true) (hnull : eid ≠ 0) (hbroadcast : eid ≠ 0xFF) :
    Does (.setEndpointId eid i3c) s fun t => t.side.eid = eid ∧ t.sent = ⟨.pldm, 0, [1, 0, 0, eid.toNat, 0]⟩ :: s.sent := by
  refine .of_exec ((if_neg (by simp [hup])).trans (if_neg (not_or.mpr ⟨hnull, hbroadcast⟩))) ⟨?_, ?_⟩
  · change (logRec ..).side.eid = _
    rw [logRec_side]
  · rw [sent_mctpReply, logRec_sent]

theorem does_mctp (hup : sideUp s = true) :
    (Does .getEndpointId s fun t => t.sent = ⟨.pldm, 0, [2, 0, s.side.eid.toNat, 0, 0]⟩ :: s.sent)
      ∧ (Does (.getMctpVersionSupport 0) s fun t => t.sent = ⟨.pldm, 0, [4, 0, 1, 0xF1F3FF00]⟩ :: s.sent)
      ∧ (Does .getMessageTypeSupport s fun t => t.sent = ⟨.pldm, 0, [5, 0, 2, 1, 0x7E]⟩ :: s.sent)
      ∧ Does (.getVendorDefinedMessageSupport 0) s fun t => t.sent = ⟨.pldm, 0, [6, 0, 0xFF, 0, s.idb.vendor.toNat, 0]⟩ :: s.sent :=
  ⟨⟨_, if_pos hup, sent_mctpReply ..⟩, ⟨_, (if_neg (by simp [hup])).trans (if_pos (.inr rfl)), sent_mctpReply ..⟩,
    ⟨_, if_pos hup, sent_mctpReply ..⟩, ⟨_, (if_neg (by simp [hup])).trans (if_pos rfl), sent_mctpReply ..⟩⟩

variable (hup : sideUp s = true) (hready : pldmBusy s = false)

include hup hready

theorem does_setTid (tid : Byte) (hnull : tid ≠ 0) (hbroadcast : tid ≠ 0xFF) :
    Does (.setTid tid) s fun t => t.side.tid = tid ∧ t.sent = ⟨.pldm, 1, [0, 1, 0]⟩ :: s.sent := by
  exact ⟨_, (if_neg (by simp [hup, hready])).trans (if_neg (not_or.mpr ⟨hnull, hbroadcast⟩)), tid_pldmReply ..,
    sent_pldmReply_of_ready (s := { s with side := { s.side with tid := tid } }) hup hready ..⟩

/-- A reply with a value that the specification leaves open. -/
theorem sent_pldmReply_drawFree (type_ cmd code n : Nat) (data : Nat → List Nat) :
    (pldmReply type_ cmd code (data (drawFree n s).1) (drawFree n s).2).sent = ⟨.pldm, 1, type_ :: cmd :: code :: data (drawFree n s).1⟩ :: s.sent :=
  sent_pldmReply_of_ready (s := (drawFree n s).2) hup hready ..

theorem does_getPldmVersion (p : Byte) (hp : p.toNat ∈ pldmTypes) :
    Does (.getPldmVersion p) s fun t => ∃ v, t.sent = ⟨.pldm, 1, [0, 3, 0, v]⟩ :: s.sent :=
  ⟨_, if_pos (List.contains_iff_mem.mpr hp), _, sent_pldmReply_drawFree hup hready 0 3 0 12 fun v => [v % 0x100000000]⟩

theorem does_getPldmCommands (p : Byte) (hp : p.toNat ∈ pldmTypes) :
    Does (.getPldmCommands p) s fun t => t.sent = ⟨.pldm, 1, [0, 5, 0, pldmCommands p.toNat]⟩ :: s.sent :=
  ⟨_, if_pos (List.contains_iff_mem.mpr hp), sent_pldmReply_of_ready hup hready ..⟩

theorem does_getPdr (h : Word) (hmin : 1 ≤ h.toNat) (hmax : h.toNat ≤ 11) : Does (.getPdr h) s fun t =>
    ∃ v, t.sent = ⟨.pldm, 1, [2, 0x51, 0, h.toNat + 1, h.toNat, if h.toNat ≤ 10 then 2 else 4, h.toNat, v]⟩ :: s.sent := by
  have hne : h ≠ 0 := by
    rintro rfl
    exact absurd hmin (by decide)
  have hexec : exec (.getPdr h) s = .next (pldmReply 2 0x51 0 [h.toNat + 1, h.toNat, if h.toNat ≤ 10 then 2 else 4, h.toNat, (drawFree 12 s).1]
      (drawFree 12 s).2) := by
    change execGetPdr h s = _
    unfold execGetPdr
    dsimp only
    rw [if_neg hne, if_neg (by omega), if_neg (by omega)]
  exact ⟨_, hexec, _, sent_pldmReply_drawFree hup hready 2 0x51 0 12 fun v => [h.toNat + 1, h.toNat, if h.toNat ≤ 10 then 2 else 4, h.toNat, v]⟩

theorem does_getSensorReading (i : Nat) (hi : i < 8) :
    Does (.getSensorReading (i + 1)) s fun t => t.sent = ⟨.pldm, 1, [2, 0x11, 0, tempWord (tempNow s i)]⟩ :: s.sent := by
  have hvalue : sensorValue s (i + 1) = some (tempWord (tempNow s i)) := by
    rw [sensorValue, if_pos ⟨by omega, by omega⟩, Nat.add_sub_cancel]
  refine ⟨_, ?_, sent_pldmReply_of_ready hup hready ..⟩
  change execGetSensorReading (i + 1) s = _
  rw [execGetSensorReading, hvalue]

end

/-- Settles O34: each request is answered with its response, or with ERROR_NOT_READY while the module is not ready. -/
theorem sidebandComplete : Obligations.SidebandComplete := by
  refine ⟨fun _ => does_setEndpointId, fun _ => does_mctp, fun s hup hready => ?ready, fun s hup hbusy => ?busy⟩
  case ready =>
    exact ⟨⟨_, rfl, sent_pldmReply_of_ready hup hready ..⟩, does_setTid hup hready, does_getPldmVersion hup hready,
      ⟨_, rfl, sent_pldmReply_of_ready hup hready ..⟩, does_getPldmCommands hup hready, does_getPdr hup hready, does_getSensorReading hup hready,
      ⟨_, rfl, sent_pldmReply_of_ready hup hready ..⟩, ⟨_, rfl, sent_pldmReply_of_ready hup hready ..⟩,
      ⟨_, rfl, _, sent_pldmReply_drawFree hup hready 4 1 0 12 fun v => [v]⟩,
      ⟨_, rfl, _, sent_pldmReply_drawFree hup hready 4 2 0 12 fun v => [s.idb.vendor.toNat, if s.idb.deviceL then 0x3216 else 0x3208,
        s.idb.serial.toNat, s.idb.siStep.toNat, s.idb.assyStep.toNat, v]⟩⟩
  case busy => exact ⟨_, rfl, (sent_pldmReply hup 0 2 0 _).trans (by rw [if_pos hbusy])⟩

end Sys2Proof.Machine
end

section
/-! Pod time (17_pod_time.md, R350 to R362): the counter, the alarms and time outputs, and the commands of the time sources. -/

namespace Sys2Proof.Machine

/-! ### Reading the time part -/

section
variable {s : State}

@[simp] theorem time_onTime (f : TimeSt → TimeSt) (s : State) : (onTime f s).time = f s.time := rfl

@[simp] theorem tod_setTod (n : Nat) (k : Tod) (s : State) : tod (setTod n k s) n = k := Tbl.get_set_same ..

@[simp] theorem ptpPort_setPort (p : Nat) (k : PtpPortSt) (s : State) : ptpPort (setPort p k s) p = k := Tbl.get_set_same ..

/-! ### The counter, MANUAL and the time outputs (R351, R352, R355, R361) -/

/-- An alarm that fires leaves all of pod time but the alarms and their bits. -/
theorem time_fireAlarm (a : Nat) (s : State) : (fireAlarm a s).time =
    { s.time with alarms := Tbl.set s.time.alarms a { alarm s a with armed := false }, alarmStat := orBit s.time.alarmStat a } := by
  rw [fireAlarm_eq, postEvent_time]
  rfl

/-- Alarms that fire leave the counter and the state. -/
theorem counter_fireAlarms (l : List Nat) (s : State) : ((l.foldl (fun s a => fireAlarm a s) s).time.ns = s.time.ns)
    ∧ (l.foldl (fun s a => fireAlarm a s) s).time.frac = s.time.frac ∧ (l.foldl (fun s a => fireAlarm a s) s).time.state = s.time.state
    ∧ (l.foldl (fun s a => fireAlarm a s) s).time.samples = s.time.samples ∧ (l.foldl (fun s a => fireAlarm a s) s).time.offset = s.time.offset := by
  induction l generalizing s with
  | nil => exact ⟨rfl, rfl, rfl, rfl, rfl⟩
  | cons a l ih =>
    have h := ih (fireAlarm a s)
    rw [time_fireAlarm] at h
    exact h

/-- A step puts the counter to its new value (R352). -/
theorem counter_stepTo (v : DWord) (off : Int) (by_ : Nat) (s : State) : (stepTo v off by_ s).time.ns = v ∧ (stepTo v off by_ s).time.frac = 0
    ∧ (stepTo v off by_ s).time.state = s.time.state ∧ (stepTo v off by_ s).time.samples = s.time.samples
    ∧ (stepTo v off by_ s).time.offset = s.time.offset := by
  unfold stepTo
  dsimp only
  have h := counter_fireAlarms ((List.range 8).filter (alarmDue (logRec 0x0403 0x0400 (satWord off) by_ 0 0 (onTime (fun t => { t with
    ns := v, frac := 0, tods := t.tods.map fun p => (p.1, { p.2 with nextAt := todNext v.toNat p.2, endAt := ((p.2.endAt : Int) + off).toNat }) }) s))))
    (logRec 0x0403 0x0400 (satWord off) by_ 0 0 (onTime (fun t => { t with
    ns := v, frac := 0, tods := t.tods.map fun p => (p.1, { p.2 with nextAt := todNext v.toNat p.2, endAt := ((p.2.endAt : Int) + off).toNat }) }) s))
  rw [logRec_time] at h
  exact h

theorem does_timeStepGo (h : s.time.state = .manual) :
    Does .timeStepGo s fun t => t.time.ns = s.time.stepHi ++ s.time.stepLo ∧ t.time.frac = 0 ∧ t.time.state = .manual := by
  obtain ⟨hns, hfrac, hstate, -⟩ := counter_stepTo (s.time.stepHi ++ s.time.stepLo) ((s.time.stepHi ++ s.time.stepLo - s.time.ns).toInt) 2 s
  exact ⟨_, if_pos h, hns, hfrac, hstate.trans h⟩

theorem does_manualSet (h : s.time.state ≠ .manual) :
    Does .manualSet s fun t => t.time.state = .manual ∧ bit t.time.cfg 16 = true ∧ t.time.source = 0 ∧ t.time.ns = s.time.ns :=
  ⟨manualOn s, if_neg h, rfl, bit_orBit_self _ (by decide), rfl, rfl⟩

theorem does_manualClear (h : s.time.state = .manual) :
    Does .manualClear s fun t => t.time.state = .holdover ∧ bit t.time.cfg 16 = false := by
  refine ⟨manualOff s, if_pos h, rfl, ?_⟩
  change bit (s.time.cfg &&& ~~~(0x10000 : Word)) 16 = false
  rw [bit, BitVec.getLsbD_and, show (~~~(0x10000 : Word)).getLsbD 16 = false by decide, Bool.and_false]

theorem does_alarmFire {a : Fin 8} (harmed : (alarm s a).armed = true) (hdue : 0 ≤ since48 s.time.ns (alarm s a).target) :
    Does (.alarmFire a) s fun t => (alarm t a).armed = false ∧ bit t.time.alarmStat a = true :=
  ⟨_, exec_alarmFire_of_due (by simp [alarmDue, harmed, hdue]), by rw [alarm_fireAlarm], bit_alarmStat_fireAlarm a s⟩

variable {n : Fin 4}

theorem does_todEnable (hen : (tod s n).enable = false) (hlow : (tod s n).high = false) :
    Does (.todEnable n) s fun t => (tod t n).enable = true ∧ (tod t n).nextAt = (tod s n).start.toNat := by
  refine .of_exec ((if_neg (by simp [hen])).trans (if_neg (by simp [hlow]))) ?_
  rw [tod_setTod]
  exact ⟨rfl, rfl⟩

theorem does_todDisable (n : Fin 4) : Does (.todDisable n) s fun t =>
    (tod t n).enable = false ∧ (tod t n).pending = false ∧ (tod t n).high = (tod s n).high := by
  refine .of_exec rfl ?_
  rw [tod_setTod]
  exact ⟨rfl, rfl, rfl⟩

theorem does_todPulseStart (hen : (tod s n).enable = true) (hlow : (tod s n).high = false)
    (hdue : 0 ≤ since48 s.time.ns (BitVec.ofNat 64 (tod s n).nextAt)) :
    Does (.todPulseStart n) s fun t => (tod t n).high = true ∧ (tod t n).nextAt = (tod s n).nextAt + (tod s n).period.toNat := by
  refine .of_exec (if_pos ⟨hen, hlow, hdue⟩) ?_
  rw [tod_setTod]
  exact ⟨rfl, rfl⟩

theorem does_todPulseEnd (hen : (tod s n).enable = true) (hhigh : (tod s n).high = true)
    (hdue : 0 ≤ since48 s.time.ns (BitVec.ofNat 64 (tod s n).endAt)) :
    Does (.todPulseEnd n) s fun t => (tod t n).high = false ∧ (tod t n).enable = ((tod s n).period != 0) := by
  refine .of_exec ((if_neg (by simp [hhigh, hdue])).trans (if_pos hen)) ?_
  rw [tod_setTod]
  exact ⟨rfl, rfl⟩

end

/-- Settles O20, a lemma for each row. -/
theorem timeOutputsComplete : Obligations.TimeOutputsComplete :=
  ⟨fun _ => ⟨_, rfl, rfl, rfl, rfl⟩, fun _ => does_timeStepGo, fun _ => does_manualSet, fun _ => does_manualClear,
    fun s a => ⟨_, exec_alarmArm a s, by rw [alarm_alarmArmed], by rw [alarm_alarmArmed]⟩, fun _ _ => does_alarmFire, fun _ _ => does_todEnable,
    fun _ => does_todDisable, fun _ _ => does_todPulseStart, fun _ _ => does_todPulseEnd⟩

/-! ### Selection of a source (R353, R354) -/

/-- What selection may change of pod time: the source and its quality, and the loop's state, samples and adjustment. -/
def Reselected (t u : TimeSt) : Prop :=
  ∃ source peer quality samples state need closeAt adjHist incrAdj, u = { t with
    source := source, peer := peer, quality := quality, samples := samples, state := state, need := need, closeAt := closeAt,
    adjHist := adjHist, incrAdj := incrAdj }

section
variable {s : State}

theorem Reselected.refl (t : TimeSt) : Reselected t t := ⟨_, _, _, _, _, _, _, _, _, rfl⟩

theorem Reselected.trans {t u v : TimeSt} (h : Reselected t u) (k : Reselected u v) : Reselected t v := by
  obtain ⟨_, _, _, _, _, _, _, _, _, rfl⟩ := h
  obtain ⟨_, _, _, _, _, _, _, _, _, rfl⟩ := k
  exact ⟨_, _, _, _, _, _, _, _, _, rfl⟩

theorem reselected_follow (c : Cand) (s : State) : Reselected s.time (follow c s).time := by
  unfold follow
  dsimp only
  rw [logRec_time]
  exact ⟨_, _, _, _, _, _, _, _, _, rfl⟩

theorem reselected_reselect (s : State) : Reselected s.time (reselect s).time := by
  unfold reselect
  dsimp only
  split
  · exact .refl _
  · split
    · exact .refl _
    · split_ifs
      · exact .refl _
      · exact ⟨_, _, _, _, _, _, _, _, _, rfl⟩
      · exact reselected_follow ..

theorem reselected_addSample (x : Int) (s : State) : Reselected s.time (addSample x s).time := ⟨_, _, _, _, _, _, _, _, _, rfl⟩

theorem reselected_newMaster (p : Nat) (gm : DWord) (s : State) : Reselected s.time (newMaster p gm s).time := by
  unfold newMaster
  dsimp only
  split
  · rw [time_onTime, logRec_time]
    exact ⟨_, _, _, _, _, _, _, _, _, rfl⟩
  · rw [logRec_time]
    exact .refl _

/-! ### The servo and the loss of a source (R354, R355) -/

/-- The loop's measurement taken: its samples are spent, the median is the offset (R355). -/
def servoMeasured (m : Int) (s : State) : State :=
  onTime (fun t => { t with
    offset := BitVec.ofNat 32 (satWord m), samples := [], need := 8
    closeAt := if m.natAbs ≤ 20 then some (t.closeAt.getD s.now) else none }) s

theorem exec_servoUpdate_of_enough {adj m : Int} (hstate : s.time.state = .acquiring ∨ s.time.state = .locked)
    (hneed : s.time.need ≤ s.time.samples.length) (hm : m = (median8 s.time.samples).tdiv 4294967296) :
    exec (.servoUpdate adj) s = if (stepLimit s : Int) ≤ m.natAbs then .next (stepTo (s.time.ns + BitVec.ofInt 64 m) m 1 (servoMeasured m s))
      else .next (onTime (fun t => { t with
        incrAdj := BitVec.ofInt 32 (clampAdj adj), adjHist := (clampAdj adj :: t.adjHist).take 10000 }) (servoMeasured m s)) := by
  subst hm
  exact if_pos ⟨hstate, hneed⟩

theorem does_servoUpdate {adj m : Int} (hstate : s.time.state = .acquiring ∨ s.time.state = .locked) (hneed : s.time.need ≤ s.time.samples.length)
    (hm : m = (median8 s.time.samples).tdiv 4294967296) :
    Does (.servoUpdate adj) s fun t => t.time.samples = [] ∧ t.time.offset = BitVec.ofNat 32 (satWord m)
      ∧ (if m.natAbs < stepLimit s then t.time.incrAdj = BitVec.ofInt 32 (clampAdj adj) ∧ t.time.ns = s.time.ns
         else t.time.ns = s.time.ns + BitVec.ofInt 64 m ∧ t.time.frac = 0) := by
  have hexec := exec_servoUpdate_of_enough (adj := adj) hstate hneed hm
  by_cases hsmall : m.natAbs < stepLimit s
  · refine .of_exec (hexec.trans (if_neg (by omega))) ⟨rfl, rfl, ?_⟩
    rw [if_pos hsmall]
    exact ⟨rfl, rfl⟩
  · refine .of_exec (hexec.trans (if_pos (by omega))) ?_
    obtain ⟨hns, hfrac, -, hsamples, hoffset⟩ := counter_stepTo (s.time.ns + BitVec.ofInt 64 m) m 1 (servoMeasured m s)
    rw [if_neg hsmall]
    exact ⟨hsamples, hoffset, hns, hfrac⟩

/-- The loss of a source from a following loop (R354, R355). -/
theorem time_loseSource (hstate : s.time.state = .acquiring ∨ s.time.state = .locked) : (loseSource s).time =
    { (forgetSource s).time with state := .holdover, holdoff := true, lostAt := s.now, incrAdj := meanAdj s.time, source := 0, peer := 0,
                                 samples := [], quality := mkQuality 1 (if s.time.source = 1 then 31 else 0) } := by
  unfold loseSource
  dsimp only
  rw [if_pos hstate, logRec_time]
  rfl

theorem does_sourceLost (hstate : s.time.state = .acquiring ∨ s.time.state = .locked) (hlost : beaconFresh s = false) :
    Does .sourceLost s fun t => t.time.state = .holdover ∧ t.time.source = 0 ∧ t.time.holdoff = true ∧ t.time.incrAdj = meanAdj s.time := by
  refine .of_exec (if_neg (by simp [hlost])) ?_
  rw [time_loseSource hstate]
  exact ⟨rfl, rfl, rfl, rfl⟩

theorem does_holdoffEnd (hhold : s.time.holdoff = true) (hdue : s.time.lostAt + 4000000 ≤ s.now) :
    Does .holdoffEnd s fun t => t.time.holdoff = false := by
  have hexec : exec .holdoffEnd s = .next (reselect (onTime (fun t => { t with holdoff := false }) s)) := by
    change execHoldoffEnd s = _
    rw [execHoldoffEnd, if_pos ⟨hhold, hdue⟩]
  refine .of_exec hexec ?_
  obtain ⟨_, _, _, _, _, _, _, _, _, h⟩ := reselected_reselect (onTime (fun t => { t with holdoff := false }) s)
  rw [h]
  rfl

theorem does_lockAcquired {at_ : Nat} (hstate : s.time.state = .acquiring) (hclose : s.time.closeAt = some at_) (hdue : at_ + 1000000000 ≤ s.now) :
    Does .lockAcquired s fun t => t.time.state = .locked ∧ t.time.source = s.time.source := by
  have hexec : exec .lockAcquired s = .next (logRec 0x0407 0x0400 s.time.source s.time.peer s.time.offset.toNat 0
      (onTime (fun t => { t with state := .locked }) s)) := by
    change execLockAcquired s = _
    rw [execLockAcquired, if_pos ⟨hstate, by rw [hclose, Option.any_some, decide_eq_true hdue]⟩]
  refine .of_exec hexec ?_
  rw [logRec_time]
  exact ⟨rfl, rfl⟩

/-! ### PTP (R357) -/

variable {p : PtpPort}

theorem onPort_of_enabled {p : Nat} (hen : bit s.time.ptpCfg p = true) (act : PtpPortSt → State) : onPort p s act = act (ptpPort s p) := if_pos hen

/-- A Sync sample leaves of its port all but the time of the delay request. -/
theorem ptpPort_syncSample (p : Nat) (s : State) : ptpPort (syncSample p s) p = { ptpPort s p with reqAt := s.time.ns.toNat } := by
  have hdelay (u : State) : ptpPort (delayReq p u) p = { ptpPort u p with reqAt := u.time.ns.toNat } := by
    exact ptpPort_setPort p { ptpPort u p with reqAt := u.time.ns.toNat } u
  unfold syncSample
  dsimp only
  rw [hdelay]
  split <;> rfl

theorem does_sync (hen : bit s.time.ptpCfg p = true) (origin arr : Nat) : Does (.sync p false origin arr) s fun t =>
    (ptpPort t p).syncArr = arr ∧ (ptpPort t p).syncOrigin = origin ∧ (ptpPort t p).up = true ∧ (ptpPort t p).reqAt = s.time.ns.toNat := by
  refine .of_exec (congrArg Host.Outcome.next (onPort_of_enabled hen _)) ?_
  rw [if_neg (by decide), ptpPort_syncSample, ptpPort_setPort]
  exact ⟨rfl, rfl, rfl, rfl⟩

theorem does_followUp (hen : bit s.time.ptpCfg p = true) (hwait : (ptpPort s p).waiting = true) (origin : Nat) :
    Does (.followUp p origin) s fun t => (ptpPort t p).waiting = false ∧ (ptpPort t p).syncOrigin = origin := by
  refine .of_exec (congrArg Host.Outcome.next (onPort_of_enabled hen _)) ?_
  rw [if_pos hwait, ptpPort_syncSample, ptpPort_setPort]
  exact ⟨rfl, rfl⟩

/-- An Announce kept with its port, which goes to SLAVE where it is the better one or there is none. -/
def slaveTaken (p : Nat) (gm : DWord) (better : Bool) (s : State) : State :=
  let s' := setPort p { ptpPort s p with up := true, gm := gm } s
  if better ∨ s.time.slave = 7 then onTime (fun t => { t with slave := p }) s' else s'

theorem time_slaveTaken (p : Nat) (gm : DWord) (better : Bool) (s : State) : (slaveTaken p gm better s).time =
    { s.time with ports := Tbl.set s.time.ports p { ptpPort s p with up := true, gm := gm },
                  slave := if better = true ∨ s.time.slave = 7 then p else s.time.slave } := by
  unfold slaveTaken
  dsimp only
  split <;> rfl

/-- An Announce taken, before selection. -/
def announced (p : Nat) (gm : DWord) (better : Bool) (s : State) : State :=
  let s' := slaveTaken p gm better s
  if s'.time.slave = p ∧ ((s'.time.slave != s.time.slave && s.time.slave != 7) = true
    ∨ ((ptpPort s p).gm ≠ gm ∧ (!(ptpPort s p).up && (ptpPort s p).gm == 0) = false)) then newMaster p gm s' else s'

theorem reselected_announced (p : Nat) (gm : DWord) (better : Bool) (s : State) :
    Reselected (slaveTaken p gm better s).time (announced p gm better s).time := by
  unfold announced
  dsimp only
  split
  · exact reselected_newMaster ..
  · exact .refl _

theorem does_announce (hen : bit s.time.ptpCfg p = true) (gm : DWord) (better : Bool) : Does (.announce p gm better) s fun t =>
    (ptpPort t p).gm = gm ∧ (ptpPort t p).up = true ∧ t.time.slave = if better = true ∨ s.time.slave = 7 then p.val else s.time.slave := by
  have hexec : exec (.announce p gm better) s = .next (reselect (announced p gm better s)) := congrArg Host.Outcome.next (onPort_of_enabled hen _)
  obtain ⟨_, _, _, _, _, _, _, _, _, h⟩ := (reselected_announced p gm better s).trans (reselected_reselect _)
  refine .of_exec hexec ?_
  rw [ptpPort, h, time_slaveTaken, Tbl.get_set_same]
  exact ⟨rfl, rfl, rfl⟩

theorem does_delayResp (hen : bit s.time.ptpCfg p = true) (recvT : Nat) : Does (.delayResp p recvT) s fun t => (ptpPort t p).delay
    = (((ptpPort s p).syncArr : Int) - (ptpPort s p).syncOrigin + ((recvT : Int) - (ptpPort s p).reqAt)) / 2 := by
  refine .of_exec (congrArg Host.Outcome.next (onPort_of_enabled hen _)) ?_
  rw [ptpPort_setPort]

theorem does_pdelayReq (hen : bit s.time.ptpCfg p = true) (arr : Nat) : Does (.pdelayReq p arr) s fun t =>
    t.sent = ⟨.eth, 0x50A, [p.val, s.time.ns.toNat]⟩ :: ⟨.eth, 0x503, [p.val, arr]⟩ :: s.sent := by
  refine .of_exec (congrArg Host.Outcome.next (onPort_of_enabled hen _)) ?_
  rw [send_sent, send_sent]

theorem does_pdelayResp (hen : bit s.time.ptpCfg p = true) (a b : Nat) : Does (.pdelayResp p a b) s fun t =>
    (ptpPort t p).respRecv = a ∧ (ptpPort t p).respArr = b := by
  refine .of_exec (congrArg Host.Outcome.next (onPort_of_enabled hen _)) ?_
  rw [ptpPort_setPort]
  exact ⟨rfl, rfl⟩

theorem does_pdelayRespFollowUp (hen : bit s.time.ptpCfg p = true) (x : Nat) : Does (.pdelayRespFollowUp p x) s fun t => (ptpPort t p).delay
    = (((ptpPort s p).respArr : Int) - (ptpPort s p).reqAt - ((x : Int) - (ptpPort s p).respRecv)) / 2 := by
  refine .of_exec (congrArg Host.Outcome.next (onPort_of_enabled hen _)) ?_
  rw [ptpPort_setPort]

/-! ### PPS_IN (R358) -/

/-- An edge that is taken is the last one, and its offset says whether the counter is aligned. -/
theorem pps_ppsAccept (x : Nat) (s : State) : (ppsAccept x s).time.ppsLast = some x
    ∧ (ppsAccept x s).time.ppsAligned = decide ((ppsOffset x).natAbs ≤ 1000) := by
  unfold ppsAccept
  dsimp only
  split_ifs
  · obtain ⟨_, _, _, _, _, _, _, _, _, h⟩ := (reselected_addSample (ppsOffset x * 4294967296) _).trans (reselected_reselect _)
    rw [h]
    exact ⟨rfl, rfl⟩
  · obtain ⟨_, _, _, _, _, _, _, _, _, h⟩ := reselected_reselect (onTime _ s)
    rw [h]
    exact ⟨rfl, rfl⟩

theorem does_ppsEdge_far {x : Nat} (hfar : ∀ l, s.time.ppsLast = some l → l + 500000000 ≤ x) :
    Does (.ppsEdge x) s fun t => t.time.ppsLast = some x ∧ t.time.ppsAligned = decide ((ppsOffset x).natAbs ≤ 1000) := by
  refine .of_exec (if_neg ?_) (pps_ppsAccept x s)
  split
  next l hl => simp [hfar l hl]
  next => simp

theorem does_ppsEdge_close {l x : Nat} (hlast : s.time.ppsLast = some l) (hclose : x < l + 500000000) :
    Does (.ppsEdge x) s fun t => t.time.ppsLast = some l ∧ t.time.ppsIgnored = satAdd 255 s.time.ppsIgnored 1 := by
  refine .of_exec (if_pos ?_) ?_
  · rw [hlast]
    exact decide_eq_true hclose
  · rw [logRate_time]
    exact ⟨hlast, rfl⟩

/-- Losing the source takes no edge back. -/
theorem pps_loseSource (s : State) : (loseSource s).time.ppsLast = s.time.ppsLast ∧ (loseSource s).time.ppsAligned = s.time.ppsAligned
    ∧ (s.time.ppsOk = false → (loseSource s).time.ppsOk = false) := by
  by_cases hstate : s.time.state = .acquiring ∨ s.time.state = .locked
  · rw [time_loseSource hstate, forgetSource, time_onTime]
    split_ifs
    · exact ⟨rfl, rfl, id⟩
    · exact ⟨rfl, rfl, fun _ => rfl⟩
    · exact ⟨rfl, rfl, id⟩
  · rw [loseSource, if_neg hstate]
    exact ⟨rfl, rfl, id⟩

theorem does_ppsLost {l : Nat} (hlast : s.time.ppsLast = some l) (hdue : s.time.ppsAt + 3000000000 ≤ s.now) :
    Does .ppsLost s fun t => t.time.ppsLast = none ∧ t.time.ppsOk = false ∧ t.time.ppsAligned = false := by
  have hexec : exec .ppsLost s = .next (if s.time.source = 3 then
      loseSource (onTime (fun x => { x with ppsOk := false, ppsRun := 0, ppsLast := none, ppsAligned := false })
        (logRec 0x0405 0x0400 ((s.time.ns.toNat - l) / 1000000000) 0 0 0 s))
      else reselect (onTime (fun x => { x with ppsOk := false, ppsRun := 0, ppsLast := none, ppsAligned := false })
        (logRec 0x0405 0x0400 ((s.time.ns.toNat - l) / 1000000000) 0 0 0 s))) := by
    change execPpsLost s = _
    rw [execPpsLost, hlast]
    exact if_neg (by omega)
  refine .of_exec hexec ?_
  split
  · obtain ⟨hl, ha, ho⟩ := pps_loseSource (onTime (fun x => { x with ppsOk := false, ppsRun := 0, ppsLast := none, ppsAligned := false })
      (logRec 0x0405 0x0400 ((s.time.ns.toNat - l) / 1000000000) 0 0 0 s))
    exact ⟨hl, ho rfl, ha⟩
  · obtain ⟨_, _, _, _, _, _, _, _, _, h⟩ := reselected_reselect (onTime (fun x =>
      { x with ppsOk := false, ppsRun := 0, ppsLast := none, ppsAligned := false }) (logRec 0x0405 0x0400 ((s.time.ns.toNat - l) / 1000000000) 0 0 0 s))
    rw [h]
    exact ⟨rfl, rfl, rfl⟩

end

/-! ### Beacons (R251, R356) -/

section
variable {s : State} {h : FlitHdr}

@[simp] theorem state_takeAck (now ack : Nat) (k : Pair) : (takeAck now ack k).state = k.state := by
  unfold takeAck
  dsimp only
  split <;> rfl

@[simp] theorem peer_takeAck (now ack : Nat) (k : Pair) : (takeAck now ack k).peer = k.peer := by
  unfold takeAck
  dsimp only
  split <;> rfl

@[simp] theorem pair_updPair (p l : Nat) (f : Pair → Pair) (s : State) : pair (updPair p l f s) p l = f (pair s p l) := pair_setPair_same ..

theorem pair_of_fab {t : State} (h : t.fab = s.fab) (p l : Nat) : pair t p l = pair s p l := by rw [pair, pair, fab, fab, h]

/-- The link fields of a flit that asks for no replay: its acknowledgement and its credits. -/
theorem linkFields_of_no_nak (hnak : h.nak = false) (s : State) :
    linkFields h s = updPair h.p h.l (fun k => takeCredits h (takeAck s.now h.ack.toNat k)) s := if_neg (by simp [hnak])

/-- A good unsequenced flit on a pair that receives. -/
theorem unsequenced_of_good {type : Nat} {payload : List Byte} (hrecv : receiving (pair s h.p h.l) = true)
    (hgood : flitBad s h type (0, 0, false) payload = false) (hnak : h.nak = false) (act : State → State) :
    unsequenced h type payload s act = act (updPair h.p h.l (fun k => takeCredits h (takeAck s.now h.ack.toNat k)) s) := by
  rw [unsequenced, if_neg (by simp [hrecv]), if_neg (by simp [hgood]), linkFields_of_no_nak hnak]

/-- Selection and a beacon's sample leave the beacons. -/
theorem beacons_beaconSample (k : Pair) (b : BeaconMsg) (s : State) : (reselect (beaconSample k b s)).time.beacons = s.time.beacons := by
  have hsample : (beaconSample k b s).time.beacons = s.time.beacons := by
    unfold beaconSample
    split <;> rfl
  obtain ⟨_, _, _, _, _, _, _, _, _, h⟩ := reselected_reselect (beaconSample k b s)
  rw [h, ← hsample]

theorem fab_beaconSample (k : Pair) (b : BeaconMsg) (s : State) : (reselect (beaconSample k b s)).fab = s.fab := by
  rw [(reselect_law _).1 .fab (by decide)]
  unfold beaconSample
  split <;> rfl

theorem does_beacon {b : BeaconMsg} (hrecv : receiving (pair s h.p h.l) = true)
    (hgood : flitBad s h 7 (0, 0, false) (beaconPayload b.sendT b.echoArr b.echoSend b.quality.toNat b.code.toNat) = false) (hnak : h.nak = false)
    (hactive : (pair s h.p h.l).state = .active) :
    Does (.beacon h b) s fun t => (Tbl.get {} t.time.beacons (pair s h.p h.l).peer).quality = b.quality
      ∧ (Tbl.get {} t.time.beacons (pair s h.p h.l).peer).at_ = s.now ∧ (pair t h.p h.l).beaconIn = some (b.arrT, b.sendT) := by
  refine .of_exec (congrArg Host.Outcome.next (unsequenced_of_good hrecv hgood hnak _)) ?_
  dsimp only
  rw [pair_updPair, if_neg (by simp [takeCredits, hactive]), pair_of_fab (fab_beaconSample ..), beacons_beaconSample]
  have hpeer : (takeCredits h (takeAck s.now h.ack.toNat (pair s h.p h.l))).peer = (pair s h.p h.l).peer := peer_takeAck ..
  rw [hpeer, time_onTime, Tbl.get_set_same, pair_of_fab (s := updPair h.p h.l (fun k => { k with beaconIn := some (b.arrT, b.sendT) })
    (updPair h.p h.l (fun k => takeCredits h (takeAck s.now h.ack.toNat k)) s)) (by rw [onTime_fab, countHub_fab]), pair_updPair]
  refine ⟨rfl, ?_, rfl⟩
  rw [countHub_now]
  rfl

end

/-- Settles O19, a lemma for each row. -/
theorem timeSourcesComplete : Obligations.TimeSourcesComplete :=
  ⟨fun _ _ _ => does_servoUpdate, fun _ => does_sourceLost, fun _ => does_holdoffEnd, fun _ _ => does_lockAcquired,
    fun _ _ origin arr hen => does_sync hen origin arr, fun _ _ origin hen hwait => does_followUp hen hwait origin,
    fun _ _ gm better hen => does_announce hen gm better, fun _ _ x hen => does_delayResp hen x, fun _ _ x hen => does_pdelayReq hen x,
    fun _ _ a b hen => does_pdelayResp hen a b, fun _ _ x hen => does_pdelayRespFollowUp hen x, fun _ _ => does_ppsEdge_far,
    fun _ _ _ => does_ppsEdge_close, fun _ _ => does_ppsLost, fun _ _ _ => does_beacon⟩

end Sys2Proof.Machine
end

section
/-! Bytes stored and read through the module's memory (08_memory_system.md, R147, R152), then the counters, snapshots, sampling and the logbook
(18_counters_sampling_logbook.md, R364 to R376). -/

namespace Sys2Proof.Machine

/-! ### Bytes in memory -/

/-- A command that may touch no memory reads as before, at every address. -/
theorem read_of_law {L : List Part} {s t : State} (h : Law L s t) (hmem : .mem ∉ L) (hhost : .host ∉ L) (a : Nat) :
    t.mem.read a = s.mem.read a := by
  rcases Nat.lt_or_ge a 0x10000000000000000 with ha | ha
  · exact h.1 .mem hmem a ha
  · exact h.1 .host hhost a ha

theorem Memory.readN_congr {m m' : Memory} {a n : Nat} (h : ∀ i < n, m.read (a + i) = m'.read (a + i)) : m.readN a n = m'.readN a n := by
  induction n generalizing a with
  | zero => rfl
  | succ n ih =>
    have htail : m.readN (a + 1) n = m'.readN (a + 1) n := ih fun i hi => by
      have := h (i + 1) (by omega)
      rwa [show a + 1 + i = a + (i + 1) by omega]
    have hhead : m.read a = m'.read a := h 0 (by omega)
    rw [Memory.readN, Memory.readN, hhead, htail]

@[simp] theorem copyAhead_mem (a n : Nat) (s : State) : (copyAhead a n s).mem = s.mem := by
  unfold copyAhead
  dsimp only
  split_ifs <;> rfl

/-- Wherever its bytes go, a store leaves memory with them written. -/
theorem read_store (a x : Nat) (bs : List Byte) (s : State) : (store a bs s).mem.read x = (s.mem.writeN a bs).read x := by
  unfold store
  dsimp only
  split
  · rw [read_of_law (gatherRange_law ..) (by decide) (by decide), writeMem, copyAhead_mem]
  · rfl
  · rfl
  · rfl

theorem readN_store {s : State} (hinv : Inv s) (a : Nat) (bs : List Byte) : (store a bs s).mem.readN a bs.length = bs := by
  rw [Memory.readN_congr fun i _ => read_store a (a + i) bs s, Memory.readN_writeN a _ bs hinv le_rfl, List.take_length]

theorem read_store_outside (a x : Nat) (bs : List Byte) (s : State) (hx : x < a ∨ a + bs.length ≤ x) :
    (store a bs s).mem.read x = s.mem.read x := by rw [read_store, Memory.read_writeN_ne _ _ _ _ hx]

/-! ### What a store leaves of the tally -/

/-- The tally without its counters. -/
def tallySettings (s : State) : TallySt := { s.tally with counters := [] }

section
variable (s : State)

@[simp] theorem tallySettings_countAt (base k ev qual n : Nat) (ranged : Bool) : tallySettings (countAt base k ev qual n ranged s) = tallySettings s := rfl

@[simp] theorem tallySettings_countHub (ev qual : Nat) (ranged : Bool) : tallySettings (countHub ev qual ranged s) = tallySettings s := rfl

@[simp] theorem tallySettings_countDdrs (ds : List Nat) (ev : Nat) : tallySettings (ds.foldl (fun s d => countDdr d ev s) s) = tallySettings s :=
  foldl_keeps (fun _ _ => tallySettings_countAt ..) ..

@[simp] theorem tallySettings_fullStripe (st : Nat) (ds : List Nat) : tallySettings (fullStripe st ds s) = tallySettings s :=
  tallySettings_countDdrs s ds 3

@[simp] theorem tallySettings_partialStripe (st : Nat) (ds us : List Nat) : tallySettings (partialStripe st ds us s) = tallySettings s := by
  unfold partialStripe
  dsimp only
  exact (tallySettings_countDdrs ..).trans (tallySettings_countDdrs ..)

@[simp] theorem tallySettings_flushStripe (g : Gather) : tallySettings (flushStripe g s) = tallySettings s := by
  unfold flushStripe
  dsimp only
  split
  · rw [tallySettings_fullStripe]
    rfl
  · rw [tallySettings_partialStripe]
    rfl

@[simp] theorem tallySettings_gatherUnit (u mask : Nat) : tallySettings (gatherUnit u mask s) = tallySettings s := by
  unfold gatherUnit
  dsimp only
  split
  · split
    · rw [tallySettings_flushStripe]
      rfl
    · rfl
  · split
    · split
      · exact tallySettings_flushStripe ..
      · rfl
    · rfl

@[simp] theorem tallySettings_copyAhead (a n : Nat) : tallySettings (copyAhead a n s) = tallySettings s := by
  unfold copyAhead
  dsimp only
  split_ifs <;> rfl

@[simp] theorem tallySettings_store (a : Nat) (bs : List Byte) : tallySettings (store a bs s) = tallySettings s := by
  unfold store
  dsimp only
  split
  · unfold gatherRange
    dsimp only
    rw [foldl_keeps (α := Nat × Nat) fun x p => tallySettings_gatherUnit x p.1 p.2]
    exact tallySettings_copyAhead ..
  · rfl
  · rfl
  · rfl

end

/-! ### Counters and snapshots (R364 to R366, R369) -/

section
variable {s : State}

@[simp] theorem counter_setCounter (off : Nat) (c : Counter) (s : State) : counter (setCounter off c s) off = c := Tbl.get_set_same ..

/-- A table's entry after a map that keeps its keys and its default. -/
theorem Tbl.get_map {α : Type} (d : α) (f : α → α) (hf : f d = d) (t : Tbl α) (k : Nat) :
    Tbl.get d (t.map fun p => (p.1, f p.2)) k = f (Tbl.get d t k) := by
  induction t with
  | nil => exact hf.symm
  | cons p t ih =>
    by_cases h : k = p.1
    · simp [Tbl.get, h]
    · simp only [List.map_cons, Tbl.get, h] at ih ⊢
      simpa [h] using ih

theorem counter_snapshotAll (off : Nat) (s : State) :
    counter (snapshotAll s) off = { counter s off with snap := (counter s off).live, snapOvf := (counter s off).ovf } :=
  Tbl.get_map ({} : Counter) (fun c => { c with snap := c.live, snapOvf := c.ovf }) rfl s.tally.counters off

theorem does_counterCfgWrite {off : Nat} (v : Word) (hcounter : isCounter off = true) (hheld : blockHeld s off = false)
    (hdead : coreDead s off = false) : Does (.counterCfgWrite off v) s fun t => (counter t off).cfg = v &&& 0x001F01FF
      ∧ (counter t off).live = 0 ∧ (counter t off).ovf = false ∧ (counter t off).snap = (counter s off).snap := by
  refine .of_exec ((if_neg (by simp [hcounter])).trans ((if_neg (by simp [hheld])).trans (if_neg (by simp [hdead])))) ?_
  rw [counter_setCounter]
  exact ⟨rfl, rfl, rfl, rfl⟩

theorem does_counterWrap {off : Nat} (hfull : (counter s off).live = 281474976710655) :
    Does (.counterWrap off) s fun t => (counter t off).live = 0 ∧ (counter t off).ovf = true := by
  have hexec : exec (.counterWrap off) s = .next (setCounter off { counter s off with live := 0, ovf := true } s) := by
    change execCounterWrap off s = _
    rw [execCounterWrap]
    exact if_pos hfull
  refine .of_exec hexec ?_
  rw [counter_setCounter]
  exact ⟨rfl, rfl⟩

theorem does_snapshotCmd {v : Word} (hheld : blockHeld s 0x060000 = false) (hgo : bit v 0 = true) :
    Does (.snapshotCmd v) s fun t => t.tally.snapCount = s.tally.snapCount + 1 ∧ t.tally.snapTime = s.time.ns
      ∧ ∀ off, (counter t off).snap = (counter s off).live ∧ (counter t off).snapOvf = (counter s off).ovf ∧ (counter t off).live = (counter s off).live := by
  refine .of_exec ((if_neg (by simp [hheld])).trans (if_pos hgo)) ⟨rfl, rfl, fun off => ?_⟩
  rw [counter_snapshotAll]
  exact ⟨rfl, rfl, rfl⟩

theorem does_periodicSnapshot (hperiod : snapPeriod s ≠ 0) (hdue : s.tally.periodAt + snapPeriod s * 1000 ≤ s.now) :
    Does .periodicSnapshot s fun t => t.tally.snapCount = s.tally.snapCount + 1 ∧ t.tally.periodAt = s.tally.periodAt + snapPeriod s * 1000
      ∧ ∀ off, (counter t off).snap = (counter s off).live := by
  refine .of_exec (if_pos ⟨by omega, hdue⟩) ⟨rfl, rfl, fun off => ?_⟩
  rw [counter_snapshotAll]
  rfl

/-! ### Sampling (R370 to R373) -/

theorem does_sampleTag {g : Core} {st : Str} {x : SampTag} (hnext : (core s g).sampNext = some x) (hstream : x.stream = st.val)
    (hfree : (core s g).sampTag = none) : Does (.sampleTag g st) s fun t => (core t g).sampTag = some x ∧ (core t g).sampNext = none := by
  have hexec : exec (.sampleTag g st) s = .next (countCore g 0x1A 0 (updCore g (fun k => sampReload (sampN s) { k with sampTag := some x }) s)) := by
    change execSampleTag g st s = _
    rw [execSampleTag, hnext]
    dsimp only
    rw [if_neg (not_not.mpr hstream), if_neg (by simp [hfree])]
  refine .of_exec hexec ?_
  rw [countCore, core_countAt_acc, updCore_eq, core_setCore_same]
  exact ⟨rfl, rfl⟩

/-- With no instruction followed no sample is finished. -/
theorem queueSamples_of_no_tag (hnone : ∀ g, (core s g).sampTag = none) (l : List Nat) : l.foldl queueSample s = s := by
  induction l with
  | nil => rfl
  | cons g l ih =>
    have hkeep : queueSample s g = s := by
      unfold queueSample
      rw [hnone g]
    rw [List.foldl_cons, hkeep, ih]

/-- The oldest queued sample goes to the ring while it has room. -/
theorem writeSample_of_room {x : SampRec} {xs : List SampRec} (hqueue : s.tally.sampQueue = x :: xs)
    (hroom : (s.tally.sampWrite - s.tally.sampRead).toNat < sampCap s) : writeSample s =
      countHub 0x13 0 false (onTally (fun t => { t with sampWrite := t.sampWrite + 1, sampSeq := t.sampSeq + 1 })
        (store (sampBaseAt s + 64 * (s.tally.sampWrite.toNat % sampCap s)) (toBytes s.tally.sampSeq.toNat 4 ++ x.bytes)
          (onTally (fun t => { t with sampQueue := xs }) s))) := by
  unfold writeSample
  rw [hqueue]
  exact if_neg (not_le.mpr hroom)

theorem does_sampleRecordWrite {x : SampRec} {xs : List SampRec} (hinv : Inv s) (hqueue : s.tally.sampQueue = x :: xs)
    (hnone : ∀ g, (core s g).sampTag = none) (hroom : (s.tally.sampWrite - s.tally.sampRead).toNat < sampCap s) :
    Does .sampleRecordWrite s fun t => t.tally.sampQueue = xs ∧ t.tally.sampWrite = s.tally.sampWrite + 1 ∧ t.tally.sampSeq = s.tally.sampSeq + 1
      ∧ t.mem.readN (sampBaseAt s + 64 * (s.tally.sampWrite.toNat % sampCap s)) (4 + x.bytes.length) = toBytes s.tally.sampSeq.toNat 4 ++ x.bytes := by
  have hexec : exec .sampleRecordWrite s = .next (writeSample s) := by
    change Host.Outcome.next (writeSample ((List.range 144).foldl queueSample s)) = _
    rw [queueSamples_of_no_tag hnone]
  have htally := tallySettings_store (onTally (fun t => { t with sampQueue := xs }) s)
    (sampBaseAt s + 64 * (s.tally.sampWrite.toNat % sampCap s)) (toBytes s.tally.sampSeq.toNat 4 ++ x.bytes)
  have hbytes := readN_store (s := onTally (fun t => { t with sampQueue := xs }) s) hinv
    (sampBaseAt s + 64 * (s.tally.sampWrite.toNat % sampCap s)) (toBytes s.tally.sampSeq.toNat 4 ++ x.bytes)
  rw [List.length_append, length_toBytes] at hbytes
  refine .of_exec hexec ?_
  rw [writeSample_of_room hqueue hroom]
  generalize store _ _ (onTally _ s) = u at htally hbytes ⊢
  have hqueue' : u.tally.sampQueue = xs := (congrArg TallySt.sampQueue htally :)
  have hwrite : u.tally.sampWrite = s.tally.sampWrite := (congrArg TallySt.sampWrite htally :)
  have hseq : u.tally.sampSeq = s.tally.sampSeq := (congrArg TallySt.sampSeq htally :)
  refine ⟨hqueue', ?_, ?_, ?_⟩
  · rw [← hwrite]
    rfl
  · rw [← hseq]
    rfl
  · rw [countHub_mem]
    exact hbytes

/-- Sampling begun on cores leaves the tally. -/
theorem seedCores_tally (l : List Nat) (s : State) : (l.foldl seedCore s).tally = s.tally := foldl_keeps (read := State.tally) (f := seedCore) (fun _ _ => rfl) l s

theorem sampEnable_of_fits (v : Word) (hfits : sampBaseAt s + 64 * sampCap s ≤ userLimit s) : sampEnable v s =
    (sampledCores s).foldl seedCore (onTally (fun t => { t with enabled := true, sampWrite := 0, sampRead := 0, sampSeq := 0 }) s) :=
  if_neg (not_lt.mpr hfits)

theorem does_samplingEnable {v : Word} (hheld : blockHeld s 0x060020 = false) (hoff : s.tally.enabled = false) (hdry : s.tally.draining = false)
    (hfits : sampBaseAt s + 64 * sampCap s ≤ userLimit s) : Does (.samplingEnable v) s fun t => t.tally.enabled = true
      ∧ t.tally.sampCfg = v &&& 0x00F0001F ∧ t.tally.sampWrite = 0 ∧ t.tally.sampRead = 0 ∧ t.tally.sampSeq = 0 := by
  have hfields : sampFieldsWrite v s = onTally (fun t => { t with sampCfg := v &&& sampFields }) s := if_neg (by simp [hoff, hdry])
  have hexec : exec (.samplingEnable v) s = .next (sampEnable v (onTally (fun t => { t with sampCfg := v &&& sampFields }) s)) := by
    change execSamplingEnable v s = _
    rw [execSamplingEnable, if_neg (by simp [hheld]), hfields]
    exact (if_neg (by simp [onTally, hoff])).trans (if_neg (by simp [onTally, hdry]))
  refine .of_exec hexec ?_
  rw [sampEnable_of_fits (s := onTally (fun t => { t with sampCfg := v &&& sampFields }) s) v hfits, seedCores_tally]
  exact ⟨rfl, rfl, rfl, rfl, rfl⟩

theorem enabled_sampFieldsWrite (v : Word) (s : State) : (sampFieldsWrite v s).tally.enabled = s.tally.enabled := by
  have hlog (code source p0 p1 p2 p3 : Nat) : (logRec code source p0 p1 p2 p3 s).tally.enabled = s.tally.enabled := by
    unfold logRec
    dsimp only
    split <;> rfl
  unfold sampFieldsWrite sampDiscard
  split_ifs
  · rfl
  · exact hlog ..
  · rfl

theorem does_samplingDisable {v : Word} (hheld : blockHeld s 0x060020 = false) (hon : s.tally.enabled = true) :
    Does (.samplingDisable v) s fun t => t.tally.enabled = false ∧ t.tally.draining = true :=
  .of_exec ((if_neg (by simp [hheld])).trans (if_pos ((enabled_sampFieldsWrite v s).trans hon))) ⟨rfl, rfl⟩

theorem does_samplingDrainEnd (hdrain : s.tally.draining = true) (hempty : s.tally.sampQueue = []) (hnone : ∀ p ∈ s.cores, p.2.sampTag = none)
    (hpending : s.tally.pending = false) : Does .samplingDrainEnd s fun t => t.tally.draining = false ∧ t.tally.enabled = s.tally.enabled := by
  have hany : (s.cores.any fun p => p.2.sampTag.isSome) = false := by
    simpa using fun a k h => hnone (a, k) h
  refine .of_exec (if_pos ⟨hdrain, hempty, hany⟩) ?_
  rw [if_neg (by simp [hpending])]
  exact ⟨rfl, rfl⟩

/-! ### The logbook (R375, R376) -/

@[simp] theorem length_logBytes (seq : Word) (x : LogRec) : (logBytes seq x).length = 32 := by simp [logBytes]

/-- A record put into the ring, its mirror at any address. -/
def logPut (a : Nat) (x : LogRec) (s : State) : State :=
  let s' := store a (logBytes s.log.head x) s
  countHub 0x0E 0 false { s' with log := { s'.log with
    ring := Tbl.set s'.log.ring (s.log.head.toNat % 65536) (s.log.head, x), head := s.log.head + 1 } }

theorem putLog_eq (x : LogRec) (s : State) :
    putLog x s = logPut (userLimit s + 268435456 + 32 * (s.log.head.toNat % 65536)) x s := rfl

theorem readN_logPut (hinv : Inv s) (a : Nat) (x : LogRec) : (logPut a x s).mem.readN a 32 = logBytes s.log.head x := by
  have hbytes := readN_store hinv a (logBytes s.log.head x)
  rw [length_logBytes] at hbytes
  rw [logPut, countHub_mem]
  exact hbytes

theorem readN_putLog (hinv : Inv s) (x : LogRec) {limit : Nat} (hlimit : userLimit s = limit) {n : Word} (hhead : s.log.head = n) :
    (putLog x s).mem.readN (limit + 268435456 + 32 * (n.toNat % 65536)) 32 = logBytes n x := by
  subst hlimit hhead
  rw [putLog_eq]
  exact readN_logPut hinv _ x

theorem does_logbookRecord {x : LogRec} {xs : List LogRec} (hinv : Inv s) (hqueue : s.log.queue = x :: xs) (hlost : s.log.lostNow = 0) :
    Does .logbookRecord s fun t => t.log.queue = xs ∧ t.log.head = s.log.head + 1
      ∧ Tbl.get (0, x) t.log.ring (s.log.head.toNat % 65536) = (s.log.head, x)
      ∧ t.mem.readN (userLimit s + 268435456 + 32 * (s.log.head.toNat % 65536)) 32 = logBytes s.log.head x := by
  refine .of_exec (exec_logbookRecord_of_cons hqueue) ?_
  rw [noteLost_of_none_lost (by simpa using hlost), recordTaken, putLog_log]
  exact ⟨rfl, rfl, Tbl.get_set_same .., readN_putLog (s := { s with log := { s.log with queue := xs } }) hinv x rfl rfl⟩

end

/-- Settles O15, a lemma for each row. -/
theorem tallyComplete : Obligations.TallyComplete :=
  ⟨fun _ _ => does_counterCfgWrite, fun _ _ => does_counterWrap, fun _ _ => does_snapshotCmd, fun _ => does_periodicSnapshot,
    fun _ _ _ _ => does_sampleTag, fun _ _ _ => does_sampleRecordWrite, fun _ _ => does_samplingEnable, fun _ _ => does_samplingDisable,
    fun _ => does_samplingDrainEnd, fun _ _ _ => does_logbookRecord⟩

end Sys2Proof.Machine
end

section
/-! Power, clocks and heat (19_power_clocks_thermal.md, R381 to R393): samples, the power-fail action, throttles and readings. -/

namespace Sys2Proof.Machine

section
variable {s : State}

@[simp] theorem pwr_onPwr (f : PwrSt → PwrSt) (s : State) : (onPwr f s).pwr = f s.pwr := rfl

/-! ### The power-fail action (R383) -/

/-- The work of the module stopped: streams, copies, the well, resets, an update session. -/
def workStopped (s : State) : State := endSession 5 (stopResets (stopWell (stopWork s)))

theorem workStopped_pwr (s : State) : (workStopped s).pwr = s.pwr := by
  rw [workStopped, (endSession_law ..).1 .pwr (by decide), (stopResets_law ..).1 .pwr (by decide), (stopWell_law ..).1 .pwr (by decide),
    (stopWork_law ..).1 .pwr (by decide)]

theorem workStopped_runs (s : State) : (workStopped s).rst.runs = [] := by
  rw [workStopped, (endSession_law ..).1 .rst (by decide)]
  rfl

theorem pinSettings_drainFail (c : Nat) (b : Bool) (cause nvme : Nat) (s : State) : pinSettings (drainFail c b cause nvme s) = pinSettings s := by
  unfold drainFail
  dsimp only
  split
  · rfl
  · rw [pinSettings_removeCheck, pinSettings_of_law (endDrainer_law ..) (by decide), pinSettings_of_law (logRec_law ..) (by decide)]
    rfl

theorem pinSettings_stopWell (s : State) : pinSettings (stopWell s) = pinSettings s := by
  unfold stopWell
  dsimp only
  rw [foldl_keeps (read := pinSettings) fun x c => (pinSettings_drainFail c true 4 0 _).trans (pinSettings_drainFail c false 4 0 x),
    foldl_keeps (read := pinSettings) fun x c => pinSettings_ckptFail x c 5]

theorem pinSettings_workStopped (s : State) : pinSettings (workStopped s) = pinSettings s := by
  rw [workStopped, pinSettings_of_law (endSession_law ..) (by decide), pinSettings_of_law (stopResets_law ..) (by decide), pinSettings_stopWell,
    pinSettings_of_law (stopWork_law ..) (by decide)]

/-- The cause of a power failure kept. -/
def failed (cause : Nat) (s : State) : State :=
  onPwr (fun p => { p with failing := some cause, lastCause := cause, dropped := p.dropped || cause == 2 }) s

/-- What follows the work's end: the record and the report of the failure, the MINI image where the well is ready. -/
def failTold (cause : Nat) (s : State) : State :=
  let body := recWords 0x0702 0x0700 cause s.pwr.cv (b2n s.pwr.pwrfail) s.pwr.watts
  let s := logRec 0x0702 0x0700 cause s.pwr.cv (b2n s.pwr.pwrfail) s.pwr.watts s
  let s := report body (shed s)
  if s.ckpt.well = .ready then onCkpt (fun t => { t with miniBusy := true }) s else s

theorem powerFail_of_up (hup : s.boot.state ≠ .off) (hfirst : s.pwr.failing = none) (cause : Nat) :
    powerFail cause s = failTold cause (failed cause (workStopped s)) := by
  unfold powerFail failTold failed workStopped
  exact if_neg (by simp [hup, hfirst])

theorem failTold_law (cause : Nat) (s : State) :
    Law [.clus, .tally, .log, .fab, .link, .stew, .ckpt, .eth, .sent] s (failTold cause s) := by
  unfold failTold
  dsimp only
  split
  · exact .step (onCkpt_law ..) (by decide) (.step (report_law ..) (by decide) (.step (shed_law ..) (by decide) ((logRec_law ..).mono (by decide))))
  · exact .step (report_law ..) (by decide) (.step (shed_law ..) (by decide) ((logRec_law ..).mono (by decide)))

/-- The power-fail action begun: its cause is kept, every reset has stopped. -/
theorem pwr_powerFail (hup : s.boot.state ≠ .off) (hfirst : s.pwr.failing = none) (cause : Nat) : (powerFail cause s).pwr =
    { s.pwr with failing := some cause, lastCause := cause, dropped := s.pwr.dropped || cause == 2 } := by
  rw [powerFail_of_up hup hfirst, (failTold_law ..).1 .pwr (by decide), failed, pwr_onPwr, workStopped_pwr]

theorem runs_powerFail (hup : s.boot.state ≠ .off) (hfirst : s.pwr.failing = none) (cause : Nat) : (powerFail cause s).rst.runs = [] := by
  rw [powerFail_of_up hup hfirst, (failTold_law ..).1 .rst (by decide), failed, onPwr_rst, workStopped_runs]

theorem pinSettings_powerFail (hup : s.boot.state ≠ .off) (hfirst : s.pwr.failing = none) (cause : Nat) :
    pinSettings (powerFail cause s) = pinSettings s := by
  rw [powerFail_of_up hup hfirst, pinSettings_of_law (failTold_law ..) (by decide), failed, pinSettings_of_law (onPwr_law ..) (by decide),
    pinSettings_workStopped]

/-! ### Excursions (R382) -/

@[simp] theorem boot_excursion (cls cv us watts : Nat) (s : State) : (excursion cls cv us watts s).boot = s.boot := by
  rw [excursion, logRec_boot]
  rfl

@[simp] theorem pwr_excursion (cls cv us watts : Nat) (s : State) : (excursion cls cv us watts s).pwr = (inputSample cv watts s).pwr := by
  rw [excursion, logRec_pwr]

variable {x us w cv : Nat}

theorem does_inputExcursionEnd (hup : s.boot.state ≠ .off) (hlong : 20 ≤ us) :
    (x < 4600 → Does (.inputExcursionEnd .sag x us w) s fun t => t.pwr.sag = satAdd 255 s.pwr.sag 1 ∧ t.pwr.cv = x ∧ t.pwr.watts = w)
      ∧ (6000 < x → Does (.inputExcursionEnd .surge x us w) s fun t => t.pwr.surge = satAdd 255 s.pwr.surge 1 ∧ t.pwr.cv = x ∧ t.pwr.watts = w) := by
  constructor
  · intro hx
    refine .of_exec (if_neg (by simp [hup, hlong, hx])) ?_
    rw [pwr_excursion]
    exact ⟨rfl, rfl, rfl⟩
  · intro hx
    refine .of_exec (if_neg (by simp [hup, hlong, hx])) ?_
    rw [pwr_excursion]
    exact ⟨rfl, rfl, rfl⟩

theorem does_dropout (hup : s.boot.state ≠ .off) (hfirst : s.pwr.failing = none) (hlow : cv < 4400) : Does (.dropout cv w) s fun t =>
    t.pwr.failing = some 2 ∧ t.pwr.lastCause = 2 ∧ t.pwr.dropout = satAdd 255 s.pwr.dropout 1 ∧ t.rst.runs = [] := by
  have hup' : (excursion 2 cv 100 w (onPwr (fun p => { p with dropout := satAdd 255 p.dropout 1 }) s)).boot.state ≠ .off := by
    rwa [boot_excursion]
  have hfirst' : (excursion 2 cv 100 w (onPwr (fun p => { p with dropout := satAdd 255 p.dropout 1 }) s)).pwr.failing = none := by
    rwa [pwr_excursion]
  refine .of_exec (if_neg (by simp [hup, hlow])) ?_
  rw [pwr_powerFail hup' hfirst', pwr_excursion]
  exact ⟨rfl, rfl, rfl, runs_powerFail hup' hfirst' 2⟩

theorem does_overvolt (hup : s.boot.state ≠ .off) (hfirst : s.pwr.failing = none) (hhigh : 6200 < cv) : Does (.overvolt cv w) s fun t =>
    t.pwr.failing = some 3 ∧ t.pwr.lastCause = 3 ∧ t.pwr.overvolt = satAdd 255 s.pwr.overvolt 1 ∧ t.rst.runs = [] := by
  have hup' : (excursion 4 cv 100 w (onPwr (fun p => { p with overvolt := satAdd 255 p.overvolt 1 }) s)).boot.state ≠ .off := by
    rwa [boot_excursion]
  have hfirst' : (excursion 4 cv 100 w (onPwr (fun p => { p with overvolt := satAdd 255 p.overvolt 1 }) s)).pwr.failing = none := by
    rwa [pwr_excursion]
  refine .of_exec (if_neg (by simp [hup, hhigh])) ?_
  rw [pwr_powerFail hup' hfirst', pwr_excursion]
  exact ⟨rfl, rfl, rfl, runs_powerFail hup' hfirst' 3⟩

theorem does_thermalTrip {i : Fin 8} {y : Int} (hup : s.boot.state ≠ .off) (hfirst : s.pwr.failing = none)
    (hhot : i.val < 6 ∧ 1050 ≤ y ∨ i.val = 6 ∧ 500 ≤ y) :
    Does (.thermalTrip i y) s fun t => t.pwr.failing = some 4 ∧ t.pwr.tripped = true ∧ t.rst.runs = [] := by
  have htrip : trips i y = true := by
    rcases hhot with ⟨hdie, hy⟩ | ⟨hinlet, hy⟩
    · simp [trips, hdie, hy, hdie.ne]
    · simp [trips, hinlet, hy]
  have hup' : (onPwr (fun p => { p with tripped := true }) (logRec 0x0706 0x0700 i (tempWord y) 0 0 s)).boot.state ≠ .off := by
    rwa [onPwr_boot, logRec_boot]
  have hpwr : (onPwr (fun p => { p with tripped := true }) (logRec 0x0706 0x0700 i (tempWord y) 0 0 s)).pwr = { s.pwr with tripped := true } := by
    rw [pwr_onPwr, logRec_pwr]
  have hfirst' : (onPwr (fun p => { p with tripped := true }) (logRec 0x0706 0x0700 i (tempWord y) 0 0 s)).pwr.failing = none := by
    rwa [hpwr]
  refine .of_exec (if_neg (by simp [hup, htrip])) ?_
  rw [pwr_powerFail hup' hfirst', hpwr]
  exact ⟨rfl, rfl, runs_powerFail hup' hfirst' 4⟩

theorem does_pwrfailNAssert (tog : Bool) (n : Nat) (hup : s.boot.state ≠ .off) (hboot : s.boot.state ≠ .boot) (hfirst : s.pwr.failing = none) :
    Does (.pwrfailNAssert tog n cv w) s fun t => t.pwr.failing = some 1 ∧ t.pins.pwrfailN = true ∧ t.pwr.cv = cv := by
  obtain ⟨u, hexec, hparts⟩ : ∃ u, exec (.pwrfailNAssert tog n cv w) s = .next (powerFail 1 u) ∧ u.boot = s.boot
      ∧ u.pwr = (inputSample cv w (onPwr (fun p => { p with pwrfail := true }) s)).pwr ∧ u.pins = { s.pins with pwrfailN := true } := by
    refine ⟨if tog = true ∧ 2 < n then logRec 0x4006 0x4000 n 0 0 0 (inputSample cv w (onPwr (fun p => { p with pwrfail := true })
      (onPins (fun p => { p with pwrfailN := true }) s))) else inputSample cv w (onPwr (fun p => { p with pwrfail := true })
      (onPins (fun p => { p with pwrfailN := true }) s)), (if_neg hup).trans (if_neg ?_), ?_, ?_, ?_⟩
    · split
      · rwa [logRec_boot]
      · exact hboot
    · split
      · rw [logRec_boot]
        rfl
      · rfl
    · split
      · rw [logRec_pwr]
        rfl
      · rfl
    · split
      · rw [logRec_pins]
        rfl
      · rfl
  obtain ⟨hub, hup', hpins⟩ := hparts
  have hu : u.boot.state ≠ .off := by rwa [hub]
  have hf : u.pwr.failing = none := by rwa [hup']
  refine .of_exec hexec ?_
  rw [pwr_powerFail hu hf, hup']
  have hpin : (powerFail 1 u).pins.pwrfailN = u.pins.pwrfailN := by
    have hkeep {t : State} (h : pinSettings t = pinSettings u) : t.pins.pwrfailN = u.pins.pwrfailN := (congrArg PinSt.pwrfailN h :)
    exact hkeep (pinSettings_powerFail hu hf 1)
  exact ⟨rfl, hpin.trans (by rw [hpins]), rfl⟩

theorem does_holdupExhausted (hfail : s.pwr.failing.isSome = true) :
    Does .holdupExhausted s fun t => t.boot.state = .off ∧ t.pwr.failing = none := ⟨_, if_pos hfail, rfl, rfl⟩

theorem does_inputRestored (hoff : s.boot.state = .off) (htrip : s.pwr.tripped = false) :
    Does .inputRestored s fun t => t.boot.state = .boot ∧ t.boot.step = 0 ∧ t.boot.warm = false := ⟨_, if_pos ⟨hoff, htrip⟩, rfl, rfl, rfl⟩

/-! ### Throttles and caps (R387, R391) -/

/-- The record of a throttle that changes leaves its power settings but when a cap last moved. -/
theorem throttleLog_pwr (was : Nat → Bool) (s : State) : ∃ at_, (throttleLog was s).pwr = { s.pwr with capAt := at_ } := by
  have hcap (h : Nat) (u : State) (hh : h = 0 ∨ h = 1) : ∃ at_, (setCap h (dutyCap u h) u).pwr = { u.pwr with capAt := at_ } := by
    rcases hh with rfl | rfl <;> exact ⟨_, rfl⟩
  have hone (h : Nat) (hh : h = 0 ∨ h = 1) (u : State) : ∃ at_, (if throttled u h = was h then u
      else logRec 0x0705 0x0700 h (if throttled u h then 1 else 2) (tempWord (tempNow u h)) (dutyCap u h) (setCap h (dutyCap u h) u)).pwr
        = { u.pwr with capAt := at_ } := by
    split
    · exact ⟨_, rfl⟩
    · rw [logRec_pwr]
      exact hcap h u hh
  obtain ⟨a, ha⟩ := hone 0 (.inl rfl) s
  obtain ⟨b, hb⟩ := hone 1 (.inr rfl) (if throttled s 0 = was 0 then s
      else logRec 0x0705 0x0700 0 (if throttled s 0 then 1 else 2) (tempWord (tempNow s 0)) (dutyCap s 0) (setCap 0 (dutyCap s 0) s))
  rw [ha] at hb
  exact ⟨b, hb⟩

theorem does_powerCapExceeded (hup : s.boot.state ≠ .off) (hover : powerCap s < w) (hfree : s.pwr.capped = false) :
    Does (.powerCapExceeded w) s fun t => t.pwr.capped = true ∧ t.pwr.watts = w := by
  have hcapped : ¬ (onPwr (fun p => { p with watts := w, overAt := s.now }) s).pwr.capped = true := by simp [onPwr, hfree]
  refine .of_exec ((if_neg (by simp [hup, hover])).trans (if_neg hcapped)) ?_
  obtain ⟨_, h⟩ := throttleLog_pwr (throttled (onPwr (fun p => { p with watts := w, overAt := s.now }) s))
    (onPwr (fun p => { p with capped := true }) (logRec 0x0708 0x0700 w (powerCap (onPwr (fun p => { p with watts := w, overAt := s.now }) s)) 0 0
      (onPwr (fun p => { p with watts := w, overAt := s.now }) s)))
  rw [h, pwr_onPwr, logRec_pwr]
  exact ⟨rfl, rfl⟩

theorem does_powerCapRelease (hcapped : s.pwr.capped = true) (hdue : s.pwr.overAt + 100000000 ≤ s.now) :
    Does .powerCapRelease s fun t => t.pwr.capped = false := by
  refine .of_exec (if_pos ⟨hcapped, hdue⟩) ?_
  obtain ⟨_, h⟩ := throttleLog_pwr (throttled s) (onPwr (fun p => { p with capped := false }) s)
  rw [h]
  rfl

theorem does_throttleStep (h : Hlf) : (tightens s h = true → Tbl.get 0 s.pwr.capAt h + 10000000 ≤ s.now
      → Does (.throttleStep h) s fun t => dutyCap t h = max 20 (dutyCap s h - 5) ∧ Tbl.get 0 t.pwr.capAt h = s.now)
    ∧ (throttled s h = false → Tbl.get 0 s.pwr.capAt h + 100000000 ≤ s.now
      → Does (.throttleStep h) s fun t => dutyCap t h = min 100 (dutyCap s h + 5) ∧ Tbl.get 0 t.pwr.capAt h = s.now) := by
  have hcap (n : Nat) : dutyCap (setCap h n s) h = n ∧ Tbl.get 0 (setCap h n s).pwr.capAt h = s.now := by
    unfold dutyCap setCap
    rw [pwr_onPwr]
    split
    · exact ⟨rfl, Tbl.get_set_same ..⟩
    · exact ⟨rfl, Tbl.get_set_same ..⟩
  constructor
  · intro htight hdue
    have hexec : exec (.throttleStep h) s = .next (setCap h (max 20 (dutyCap s h - 5)) s) := by
      change execThrottleStep h s = _
      rw [execThrottleStep]
      rw [if_pos htight, if_pos hdue]
    exact ⟨_, hexec, hcap _⟩
  · intro hfree hdue
    have hloose : ¬ tightens s h = true := by
      unfold throttled at hfree
      rw [Bool.or_eq_false_iff] at hfree
      simp [tightens, hfree]
    have hexec : exec (.throttleStep h) s = .next (setCap h (min 100 (dutyCap s h + 5)) s) := by
      change execThrottleStep h s = _
      rw [execThrottleStep]
      rw [if_neg hloose, if_pos ⟨hfree, hdue⟩]
    exact ⟨_, hexec, hcap _⟩

/-! ### Readings (R390) -/

/-- A reading put with its sensor, and the maximum since the last clear. -/
def putTemp (t : Tbl (Int × Int)) (p : Int × Nat) : Tbl (Int × Int) :=
  Tbl.set t p.2 (p.1, max p.1 (Tbl.get ((0 : Int), (0 : Int)) t p.2).2)

theorem get_foldl_putTemp (l : List Int) (k : Nat) (t : Tbl (Int × Int)) (i : Nat) :
    (Tbl.get ((0 : Int), (0 : Int)) ((l.zipIdx k).foldl putTemp t) i).1
      = if k ≤ i then l.getD (i - k) (Tbl.get ((0 : Int), (0 : Int)) t i).1 else (Tbl.get ((0 : Int), (0 : Int)) t i).1 := by
  induction l generalizing k t with
  | nil => simp
  | cons x l ih =>
    rw [List.zipIdx_cons, List.foldl_cons, ih (k + 1), putTemp]
    rcases Nat.lt_trichotomy i k with h | rfl | h
    · rw [if_neg (by omega), if_neg (by omega), Tbl.get_set_other _ _ _ _ _ (by omega)]
    · rw [if_neg (by omega), if_pos le_rfl, Tbl.get_set_same]
      simp
    · rw [if_pos (by omega), if_pos (by omega), Tbl.get_set_other _ _ _ _ _ (by omega), show i - k = (i - (k + 1)) + 1 by omega, List.getD_cons_succ]

/-- A half's throttle after its reading: entered above THROTTLE, left 3 °C below; the other half's is as it was. -/
theorem heatCheck_pwr (h : Nat) (s : State) : ∃ b, (heatCheck s h).pwr = (setHeat h b s).pwr
    ∧ (10 * (throttleC s : Int) < tempNow s h → b = true) ∧ (tempNow s h ≤ 10 * (throttleC s : Int) - 30 → b = false) := by
  unfold heatCheck
  dsimp only
  split_ifs with hhot hcool
  · exact ⟨true, rfl, fun _ => rfl, fun hle => absurd hle (by omega)⟩
  · exact ⟨false, rfl, fun hlt => absurd hlt hhot, fun _ => rfl⟩
  · refine ⟨heat s h, ?_, fun hlt => absurd hlt hhot, fun hle => absurd hle hcool⟩
    unfold setHeat heat
    rw [pwr_onPwr]
    split <;> rfl

/-- A DDR device's reading put with its channel. -/
def putChanTemp (s : State) (x : Nat × Nat) : State := updChan x.2 (fun k => { k with temp := min 255 x.1 }) s

/-- The sensors read into the module, before the throttles follow. -/
def sensorsRead (ts : List Int) (ds : List Nat) (cv w : Nat) (s : State) : State :=
  (ds.take 12).zipIdx.foldl putChanTemp
    (onPwr (fun p => { p with temps := (ts.take 8).zipIdx.foldl putTemp p.temps }) (inputSample cv w s))

theorem sensorsRead_pwr (ts : List Int) (ds : List Nat) (cv w : Nat) (s : State) : (sensorsRead ts ds cv w s).pwr =
    { (inputSample cv w s).pwr with temps := (ts.take 8).zipIdx.foldl putTemp s.pwr.temps } := by
  unfold sensorsRead
  rw [foldl_keeps (read := State.pwr) (f := putChanTemp) fun _ _ => rfl]
  rfl

theorem tempNow_sensorsRead {ts : List Int} (ds : List Nat) (cv w : Nat) (s : State) {i : Nat} (hi : i < 8) {y : Int} (hy : ts[i]? = some y) :
    tempNow (sensorsRead ts ds cv w s) i = y := by
  unfold tempNow
  rw [sensorsRead_pwr]
  dsimp only
  rw [get_foldl_putTemp, if_pos (Nat.zero_le i), Nat.sub_zero]
  simp [List.getD_eq_getElem?_getD, hi, hy]

theorem does_dieSensorRead (ts : List Int) (ds : List Nat) (cv w : Nat) (hup : s.boot.state ≠ .off) :
    Does (.dieSensorRead ts ds cv w) s fun t => t.pwr.cv = cv ∧ t.pwr.watts = w ∧ (∀ i < 8, ∀ x, ts[i]? = some x → tempNow t i = x)
      ∧ ∀ h : Hlf, (10 * (throttleC s : Int) < tempNow t h → heat t h = true) ∧ (tempNow t h ≤ 10 * (throttleC s : Int) - 30 → heat t h = false) := by
  have hexec : exec (.dieSensorRead ts ds cv w) s =
      .next (throttleLog (throttled s) (heatCheck (heatCheck (sensorsRead ts ds cv w s) 0) 1)) := if_neg hup
  obtain ⟨_, hlog⟩ := throttleLog_pwr (throttled s) (heatCheck (heatCheck (sensorsRead ts ds cv w s) 0) 1)
  obtain ⟨b, hb, hbhot, hbcool⟩ := heatCheck_pwr 1 (heatCheck (sensorsRead ts ds cv w s) 0)
  obtain ⟨a, ha, hahot, hacool⟩ := heatCheck_pwr 0 (sensorsRead ts ds cv w s)
  have hpwr0 : (heatCheck (sensorsRead ts ds cv w s) 0).pwr = { (sensorsRead ts ds cv w s).pwr with heatA := a } := ha
  have hpwr1 : (heatCheck (heatCheck (sensorsRead ts ds cv w s) 0) 1).pwr = { (sensorsRead ts ds cv w s).pwr with heatA := a, heatB := b } := by
    rw [hb, setHeat, pwr_onPwr, hpwr0]
    rfl
  have htemp (t : State) (ht : t.pwr.temps = (sensorsRead ts ds cv w s).pwr.temps) (i : Nat) :
      tempNow t i = tempNow (sensorsRead ts ds cv w s) i := by rw [tempNow, tempNow, ht]
  have hlimit (t : State) (ht : t.pwr.cfg = s.pwr.cfg) : throttleC t = throttleC s := by rw [throttleC, throttleC, ht]
  have hcfg : (sensorsRead ts ds cv w s).pwr.cfg = s.pwr.cfg := by rw [sensorsRead_pwr]; rfl
  rw [hlimit _ hcfg] at hahot hacool
  rw [hlimit _ (by rw [hpwr0]; exact hcfg), htemp _ (by rw [hpwr0]) 1] at hbhot hbcool
  refine .of_exec hexec ?_
  have hall := htemp (throttleLog (throttled s) (heatCheck (heatCheck (sensorsRead ts ds cv w s) 0) 1)) (by rw [hlog, hpwr1])
  have hheat (h : Hlf) : heat (throttleLog (throttled s) (heatCheck (heatCheck (sensorsRead ts ds cv w s) 0) 1)) h = if h = 0 then a else b := by
    rw [heat, hlog, hpwr1]
    fin_cases h <;> rfl
  refine ⟨?volts, ?power, fun i hi y hy => (hall i).trans (tempNow_sensorsRead ds cv w s hi hy), fun h => ?heat⟩
  case volts =>
    rw [hlog, hpwr1, sensorsRead_pwr]
    rfl
  case power =>
    rw [hlog, hpwr1, sensorsRead_pwr]
    rfl
  case heat =>
    rw [hheat, hall]
    fin_cases h
    · exact ⟨hahot, hacool⟩
    · exact ⟨hbhot, hbcool⟩

/-! ### Coolant and clocks (R389, R392) -/

theorem does_coolantWarning {rise : Bool} {a b : Int} (hup : s.boot.state ≠ .off) (hroom : s.log.queue.length < 256)
    (hout : rise = true ∧ 220 < b - a ∨ rise = false ∧ 400 < a) :
    Does (.coolantWarning rise a b) s fun t => t.log.queue = s.log.queue ++ [⟨s.time.ns, 0x0707, 0x0700, if rise then 2 else 1,
      BitVec.ofNat 32 (tempWord a), BitVec.ofNat 32 (tempWord b), 0⟩] := by
  rcases hout with ⟨rfl, hrise⟩ | ⟨rfl, hhot⟩
  · refine .of_exec (if_neg (by simp [hup, hrise])) ?_
    rw [logRec_of_room _ _ _ _ _ _ _ hroom]
    rfl
  · refine .of_exec (if_neg (by simp [hup, hhot])) ?_
    rw [logRec_of_room _ _ _ _ _ _ _ hroom]
    rfl

theorem does_clockLost (b : Fin 7) (hup : s.boot.state ≠ .off) :
    Does (.clockLost b) s fun t => t.pwr.locks = s.pwr.locks &&& ~~~(BitVec.ofNat 7 (2 ^ b.val)) := by
  have hlost (p0 : Nat) : (onPwr (fun p => { p with locks := p.locks &&& ~~~(BitVec.ofNat 7 (2 ^ b.val)) }) (logRec 0x0709 0x0700 p0 0 0 0 s)).pwr
      = { s.pwr with locks := s.pwr.locks &&& ~~~(BitVec.ofNat 7 (2 ^ b.val)) } := by rw [pwr_onPwr, logRec_pwr]
  by_cases hroot : b.val = 0
  · refine .of_exec ((if_neg hup).trans (if_pos hroot)) ?_
    rw [(fatal_law ..).1 .pwr (by decide)]
    exact congrArg PwrSt.locks (hlost b)
  · by_cases hser : b.val = 6
    · refine .of_exec ((if_neg hup).trans ((if_neg hroot).trans (if_pos hser))) ?_
      rw [foldl_keeps (read := State.pwr) (α := Nat × Nat) fun x p => (retrainOn_law p.1 p.2 3 x).1 .pwr (by decide), hlost]
    · refine .of_exec ((if_neg hup).trans ((if_neg hroot).trans (if_neg hser))) ?_
      rw [hlost]

theorem does_clrExtremes {v : Word} (hheld : blockHeld s 0x70014 = false) (hgo : bit v 0 = true) :
    Does (.clrExtremes v) s fun t => t.pwr.vmax = 0 ∧ t.pwr.vmin = 0xFFFF :=
  ⟨_, (if_neg (by simp [hheld])).trans (if_pos hgo), rfl, rfl⟩

end

/-- Settles O30, a lemma for each row. -/
theorem powerComplete : Obligations.PowerComplete :=
  ⟨fun _ _ _ _ => does_inputExcursionEnd, fun _ _ _ hup hfirst => ⟨does_dropout hup hfirst, does_overvolt hup hfirst⟩, fun _ _ _ => does_thermalTrip,
    fun _ tog n _ _ => does_pwrfailNAssert tog n, fun _ => does_holdupExhausted, fun _ => does_inputRestored, fun _ _ => does_powerCapExceeded,
    fun _ => does_powerCapRelease, fun _ => does_dieSensorRead, fun _ => does_throttleStep, fun _ hoff => ⟨_, if_pos hoff, rfl⟩,
    fun _ _ _ _ => does_coolantWarning, fun _ => does_clockLost, fun _ _ => does_clrExtremes⟩

end Sys2Proof.Machine
end

section
/-! Start-up (20_startup.md, R395 to R401): the steps of BOOT and CAL, the release of PWRFAIL_N and the end of SURVEY. -/

namespace Sys2Proof.Machine

section
variable {s : State}

/-! ### BOOT (R396, R397) -/

/-- FENCED is a state of start-up with its cause (R404). -/
theorem boot_enterFenced (cause : Nat) (s : State) : (enterFenced cause s).boot = { s.boot with state := .fenced, fenceCause := cause } := by
  unfold enterFenced
  dsimp only
  rw [announceState_boot, (abortHeld_law ..).1 .boot (by decide), (darkAll_law ..).1 .boot (by decide)]
  dsimp only
  rw [foldl_keeps (read := State.boot) fun x c => (teardown_law c none x).1 .boot (by decide)]

/-- Before its last step PWRFAIL_N may hold BOOT; else nothing follows a step. -/
theorem afterStep_of_early {n : Nat} (hn : n < 8) (s : State) :
    Law [.tally, .log, .boot] s (afterStep n s) ∧ ∃ hold held, (afterStep n s).boot = { s.boot with hold := hold, held := held } := by
  unfold afterStep
  split
  · exact ⟨.refl .., _, _, rfl⟩
  · split
    · split
      · exact ⟨(onBoot_law ..).mono (by decide), _, _, rfl⟩
      · refine ⟨.step (onBoot_law ..) (by decide) ((logRec_law ..).mono (by decide)), true, true, ?_⟩
        change { (logRec ..).boot with hold := true, held := true } = _
        rw [logRec_boot]
    · rw [if_neg (by omega)]
      exact ⟨.refl .., _, _, rfl⟩

/-- A step of BOOT that may run: its work, then what follows it. -/
theorem exec_bootStepComplete_of_running {n : Nat} (hstate : s.boot.state = .boot) (hhold : s.boot.hold = false) (hpower : s.pwr.failing = none)
    (hstep : s.boot.step = n) (hn : n < 8) (f : BootFinding) : exec (.bootStepComplete f) s =
      .next (afterStep (n + 1) (bootStep (n + 1) f (onBoot (fun b => { b with step := n + 1 }) s))) := by
  subst hstep
  change execBootStepComplete f s = _
  rw [execBootStepComplete, if_neg (by simp [hstate, hhold, hpower]; omega)]

theorem does_bootStep_slot (hstate : s.boot.state = .boot) (hhold : s.boot.hold = false) (hpower : s.pwr.failing = none) (f : BootFinding)
    (hstep : s.boot.step = 0) : Does (.bootStepComplete f) s fun t => t.boot.step = 1 ∧ t.steer.slot = s.pins.slotNow := by
  refine .of_exec (exec_bootStepComplete_of_running hstate hhold hpower hstep (by decide) f) ?_
  obtain ⟨hlaw, _, _, hboot⟩ := afterStep_of_early (n := 1) (by decide) (bootStep 1 f (onBoot (fun b => { b with step := 1 }) s))
  rw [hboot, hlaw.1 .steer (by decide)]
  exact ⟨rfl, rfl⟩

theorem does_bootStep_identity (hstate : s.boot.state = .boot) (hhold : s.boot.hold = false) (hpower : s.pwr.failing = none) (f : BootFinding)
    (hstep : s.boot.step = 1) (hbad : f.identityOk = false) :
    Does (.bootStepComplete f) s fun t => t.boot.state = .fenced ∧ t.boot.fenceCause = 1 := by
  refine .of_exec (exec_bootStepComplete_of_running hstate hhold hpower hstep (by decide) f) ?_
  obtain ⟨-, _, _, hboot⟩ := afterStep_of_early (n := 2) (by decide) (bootStep 2 f (onBoot (fun b => { b with step := 2 }) s))
  have hwork : bootStep 2 f (onBoot (fun b => { b with step := 2 }) s) = bootFenced 1 f (onBoot (fun b => { b with step := 2 }) s) :=
    if_neg (by simp [hbad])
  rw [hboot, hwork, bootFenced, boot_enterFenced]
  exact ⟨rfl, rfl⟩

/-- The state a core is placed in from the good-core map and the fence list (R36). -/
def placedState (s : State) (g : Nat) : CState := if inGood s g = false then .absent else if inFence s g then .fenced else .free

theorem core_state_placeCore (s : State) (g i : Nat) :
    (core (placeCore s g) i).state = if i = g then placedState s g else (core s i).state := by
  unfold placeCore placedState
  split_ifs with hgood hi hfence hi hi <;> simp [core_setCore, hi]

theorem placedState_placeCore (s : State) (g i : Nat) : placedState (placeCore s g) i = placedState s i := by
  have hidb : (placeCore s g).idb = s.idb := (placeCore_law ..).1 .idb (by decide)
  rw [placedState, placedState, inGood, inGood, inFence, inFence, hidb]

theorem core_state_placeCores (n : Nat) (s : State) (i : Nat) :
    (core ((List.range n).foldl placeCore s) i).state = if i < n then placedState s i else (core s i).state := by
  have hplaced (n : Nat) : placedState ((List.range n).foldl placeCore s) i = placedState s i :=
    foldl_keeps (read := fun u => placedState u i) (fun x g => placedState_placeCore x g i) ..
  induction n with
  | zero => rfl
  | succ n ih =>
    rw [List.range_succ, List.foldl_append, List.foldl_cons, List.foldl_nil, core_state_placeCore, ih]
    by_cases hi : i = n
    · subst hi
      rw [if_pos rfl, if_pos (by omega), hplaced]
    · rw [if_neg hi]
      by_cases hlt : i < n
      · rw [if_pos hlt, if_pos (by omega)]
      · rw [if_neg hlt, if_neg (by omega)]

theorem does_bootStep_cores (hstate : s.boot.state = .boot) (hhold : s.boot.hold = false) (hpower : s.pwr.failing = none) (f : BootFinding)
    (hstep : s.boot.step = 4) : Does (.bootStepComplete f) s fun t => t.boot.step = 5 ∧ ∀ g : Core, (core t g).state
      = if inGood s g = false then .absent else if inFence s g then .fenced else .free := by
  refine .of_exec (exec_bootStepComplete_of_running hstate hhold hpower hstep (by decide) f) ?_
  obtain ⟨hlaw, _, _, hboot⟩ := afterStep_of_early (n := 5) (by decide) (bootStep 5 f (onBoot (fun b => { b with step := 5 }) s))
  rw [hboot]
  refine ⟨?_, fun g => ?_⟩
  · change ((List.range 144).foldl placeCore (onBoot (fun b => { b with step := 5 }) s)).boot.step = 5
    rw [foldl_keeps (read := State.boot) fun x g => (placeCore_law x g).1 .boot (by decide)]
    rfl
  · rw [core, hlaw.1 .cores (by decide)]
    exact (core_state_placeCores 144 (onBoot (fun b => { b with step := 5 }) s) g).trans (if_pos g.isLt)

theorem does_bootStep_last (hstate : s.boot.state = .boot) (hhold : s.boot.hold = false) (hpower : s.pwr.failing = none) (f : BootFinding)
    (hstep : s.boot.step = 7) (hpin : s.pwr.pwrfail = false) :
    (64 ≤ usableCores s → Does (.bootStepComplete f) s fun t => t.boot.state = .cal ∧ t.boot.step = 0)
      ∧ (usableCores s < 64 → Does (.bootStepComplete f) s fun t => t.boot.state = .fenced ∧ t.boot.fenceCause = 4) := by
  have hexec : exec (.bootStepComplete f) s = .next (if usableCores s < 64 then enterFenced 4 (onBoot (fun b => { b with step := 8 }) s)
      else enterCal (onBoot (fun b => { b with step := 8 }) s)) := by
    rw [exec_bootStepComplete_of_running hstate hhold hpower hstep (by decide) f]
    exact congrArg Host.Outcome.next ((if_neg (not_not.mpr hstate)).trans ((if_neg (show ¬ s.pwr.pwrfail = true by simp [hpin])).trans (if_pos le_rfl)))
  constructor
  · intro hcores
    rw [if_neg (by omega)] at hexec
    exact ⟨_, hexec, rfl, rfl⟩
  · intro hcores
    rw [if_pos hcores] at hexec
    refine .of_exec hexec ?_
    rw [boot_enterFenced]
    exact ⟨rfl, rfl⟩

theorem does_bootPwrfailRelease (hstate : s.boot.state = .boot) (hhold : s.boot.hold = true) (hstep : s.boot.step < 8) :
    Does .bootPwrfailRelease s fun t => t.boot.hold = false ∧ t.boot.state = .boot ∧ t.boot.step = s.boot.step ∧ t.pwr.pwrfail = false := by
  have hexec : exec .bootPwrfailRelease s = .next (onBoot (fun b => { b with hold := false })
      (onPwr (fun p => { p with pwrfail := false }) { s with pins := { s.pins with pwrfailN := false } })) := by
    change execBootPwrfailRelease s = _
    rw [execBootPwrfailRelease, if_pos ⟨hstate, hhold⟩]
    exact congrArg Host.Outcome.next ((if_neg (not_not.mpr hstate)).trans ((if_neg fun h => Bool.false_ne_true h).trans (if_neg (not_le.mpr hstep))))
  exact ⟨_, hexec, rfl, hstate, rfl, rfl⟩

/-! ### CAL (R400) -/

theorem does_calStep_first (hstate : s.boot.state = .cal) (hpower : s.pwr.failing = none) (f : CalFinding) (hstep : s.boot.step = 0)
    (hcores : 64 ≤ usableCores s) : Does (.calStepComplete f) s fun t => t.boot.state = .cal ∧ t.boot.step = 1 := by
  have hexec : exec (.calStepComplete f) s = .next (onBoot (fun b => { b with step := 1 }) s) := by
    change execCalStepComplete f s = _
    rw [execCalStepComplete, if_neg (by simp [hstate, hpower]), hstep]
    exact congrArg Host.Outcome.next (if_neg fun h => absurd h.2 (not_lt.mpr hcores))
  exact ⟨_, hexec, hstate, rfl⟩

/-- SURVEY entered (R401): its sweep is ordered and nothing is reported yet. -/
theorem enterSurvey_state (s : State) : (enterSurvey s).boot.state = .survey ∧ (enterSurvey s).boot.reported = false
    ∧ (enterSurvey s).steer.state = .surveying ∧ (enterSurvey s).steer.survey.isSome = true := by
  have hboot : (enterSurvey s).boot = { s.boot with state := .survey, step := 0, reported := false } := by
    rw [enterSurvey, (startSurvey_law ..).1 .boot (by decide), (roleAfter_law ..).1 .boot (by decide)]
    rfl
  have hsteer : (enterSurvey s).steer.state = .surveying ∧ (enterSurvey s).steer.survey.isSome = true := by
    unfold enterSurvey startSurvey
    dsimp only
    rw [(startSweep_law ..).1 .steer (by decide)]
    exact ⟨rfl, rfl⟩
  rw [hboot]
  exact ⟨rfl, rfl, hsteer⟩

/-- The comb powers measured and the engines that rotate started, before SURVEY is entered. -/
def calibrated (f : CalFinding) (s : State) : State :=
  let s := f.powers.foldl (fun s x => combPower x.1.val x.2.1.val x.2.2.1 x.2.2.2.1 x.2.2.2.2 s) s
  let s := (List.range (planeCount s)).foldl (fun s p => combThresholds p s) s
  ((List.range 144).filter fun g => (core s g).state = .free).foldl (fun s g => (List.range 4).foldl (calEngine g) s) s

theorem calStep_four (f : CalFinding) (s : State) : calStep 4 f s = enterSurvey (calibrated f s) := rfl

theorem does_calStep_last (hstate : s.boot.state = .cal) (hpower : s.pwr.failing = none) (f : CalFinding) (hstep : s.boot.step = 3) :
    Does (.calStepComplete f) s fun t => t.boot.state = .survey ∧ t.boot.reported = false ∧ t.steer.state = .surveying
      ∧ t.steer.survey.isSome = true := by
  have hexec : exec (.calStepComplete f) s = .next (if (calStep 4 f (onBoot (fun b => { b with step := 4 }) s)).boot.state = .cal
      ∧ usableCores (calStep 4 f (onBoot (fun b => { b with step := 4 }) s)) < 64
      then enterFenced 4 (calStep 4 f (onBoot (fun b => { b with step := 4 }) s)) else calStep 4 f (onBoot (fun b => { b with step := 4 }) s)) := by
    change execCalStepComplete f s = _
    rw [execCalStepComplete, if_neg (by simp [hstate, hpower]), hstep]
  rw [calStep_four] at hexec
  obtain ⟨hsurvey, hrest⟩ := enterSurvey_state (calibrated f (onBoot (fun b => { b with step := 4 }) s))
  rw [if_neg (by simp [hsurvey])] at hexec
  exact ⟨_, hexec, hsurvey, hrest⟩

/-! ### SURVEY (R401) -/

theorem does_surveyWaitTimeout (hstate : s.boot.state = .survey) (hreported : s.boot.reported = true)
    (hdue : s.boot.reportAt + 2000000000 ≤ s.now) (hstaged : s.steer.staged = []) (happly : s.steer.state ≠ .applying) :
    Does .surveyWaitTimeout s fun t => t.boot.state = if degradeMask s ||| s.boot.fenceMask = 0 then .ready else .degraded := by
  refine .of_exec (if_pos ⟨hstate, hreported, hdue, hstaged, happly⟩) ?_
  unfold leaveSurvey
  rw [if_neg (not_not.mpr hstate)]
  dsimp only
  split_ifs
  · rw [(startSync_law ..).1 .boot (by decide)]
  · rw [announceState_boot, (startSync_law ..).1 .boot (by decide)]

end

/-- Settles O31, a lemma for each step that the statement names. -/
theorem startupComplete : Obligations.StartupComplete := by
  refine ⟨fun s f hstate hhold hpower => ?boot, fun _ => does_bootPwrfailRelease, fun s f hstate hpower => ?cal, fun _ => does_surveyWaitTimeout⟩
  case boot =>
    exact ⟨does_bootStep_slot hstate hhold hpower f, does_bootStep_identity hstate hhold hpower f, does_bootStep_cores hstate hhold hpower f,
      fun hstep hpin => (does_bootStep_last hstate hhold hpower f hstep hpin).1, fun hstep hpin => (does_bootStep_last hstate hhold hpower f hstep hpin).2⟩
  case cal => exact ⟨does_calStep_first hstate hpower f, fun hstep _ _ => does_calStep_last hstate hpower f hstep⟩

end Sys2Proof.Machine
end

section
/-! Firmware update sessions and attestation (21_update_and_identity.md, R407 to R420), and what an ADMIN command that completes leaves. -/

namespace Sys2Proof.Machine

/-! ### ADMIN commands that complete (R183 to R185, R189) -/

section
variable {s u : State} {r : Nat} {e : Entry} {status : Nat} {result : List Byte}

theorem canDma_of_hst {t : State} (h : t.hst = s.hst) : canDma t = canDma s := by rw [canDma, canDma, h]

/-- A completion after work that leaves the host interface. -/
theorem completed_of_law {L : List Part} (h : Law L s u) (hL : .hst ∉ L) (hcqe : bits (entFlags e) 0 1 = 0) (hdma : canDma s = true) (hinv : Inv s) :
    Completed s (complete r e status result u) r e status result :=
  completed_complete (ring_of_hst (h.1 .hst hL) r) ((canDma_of_hst (h.1 .hst hL)).trans hdma) (h.2 hinv) hcqe

/-- An ADMIN command that completes after work that leaves the host interface, with what a reading shows of that work. -/
theorem onAdmin_completes {L : List Part} {opc : Nat} {act : Entry → State} {α : Type} {read : State → α} (h : Waits s r 5 opc e)
    (hact : act e = complete r e status result u) (hlaw : Law L s u) (hL : .hst ∉ L)
    (hread : ∀ t t' : State, Law [.host, .hst, .tally, .sent] t t' → read t' = read t) :
    read (onAdmin r opc s act) = read u ∧ Completed s (onAdmin r opc s act) r e status result := by
  obtain ⟨htake, hcqe, hdma, hinv⟩ := h
  refine onEntry_holds (P := fun t => read t = read u ∧ Completed s t r e status result) htake (fun t ht => ?_) ?_
  · exact ⟨(hread _ _ ((turnTaken_law r 5 t).mono (by decide))).trans ht.1, completed_turnTaken r 5 ht.2⟩
  · rw [hact]
    exact ⟨hread _ _ (complete_law ..), completed_of_law hlaw hL hcqe hdma hinv⟩

end

/-! ### Sessions (R408 to R411) -/

section
variable {s : State} {r : RingIx} {e : Entry} {u : UpdSession}

@[simp] theorem upd_onUpd (f : UpdSt → UpdSt) (s : State) : (onUpd f s).upd = f s.upd := rfl

theorem upd_of_law {L : List Part} (hL : .upd ∉ L) (t t' : State) (h : Law L t t') : t'.upd = t.upd := h.1 .upd hL

/-- An update command that completes, with what its work leaves of the update part. -/
theorem does_onUpdate {c : Instr} {L : List Part} {opc status : Nat} {result : List Byte} {act : Entry → State} {x : State} {Q : UpdSt → Prop}
    (hexec : exec c s = .next (onUpdate r opc s act)) (h : Waits s r 5 opc e) (hact : act e = complete r e status result x) (hlaw : Law L s x)
    (hL : .hst ∉ L) (hQ : Q x.upd) : Does c s fun t => Q t.upd ∧ Completed s t r e status result := by
  obtain ⟨hupd, hdone⟩ := onAdmin_completes (read := State.upd) h hact hlaw hL (upd_of_law (by decide))
  exact .of_exec hexec ⟨hupd ▸ hQ, hdone⟩

theorem sessionOf_of_named (hsession : s.upd.session = some u) (hid : u.id = ent e 8 4) : sessionOf s e = .ok u := by
  rw [sessionOf, hsession]
  exact if_pos hid

/-- A session opened with a number. -/
def sessionOpened (id src ring : Nat) (s : State) : State :=
  logRec 0x0A01 0x0A00 id src ring 0
    (onUpd (fun t => { t with staged := none, blocks := [], staging := [], session := some { id := id, source := src, ring := ring, lastAt := s.now } })
      { s with freeCtr := s.freeCtr + 1 })

theorem sessionOpened_law (id src ring : Nat) (s : State) : Law [.freeCtr, .tally, .log, .upd] s (sessionOpened id src ring s) :=
  .step (logRec_law ..) (by decide) (.step (onUpd_law ..) (by decide) (.set_freeCtr _ (by decide) (.refl ..)))

theorem does_updOpen (h : Waits s r 5 0x20 e) (hsource : ent e 8 1 = 1 ∨ ent e 8 1 = 2) (hwell : s.ckpt.well = .ready)
    (hfree : s.upd.session = none) (hstaged : s.upd.staged = none) :
    Does (.updOpen r) s fun t => ∃ id, 1 ≤ id ∧ t.upd.session = some { id := id, source := ent e 8 1, ring := r.val, lastAt := s.now }
      ∧ Completed s t r e 0 (toBytes id 4) := by
  set id := (drawFree 10 s).1 % 0xFFFFFFFF + 1 with hid
  refine (does_onUpdate (Q := fun v => v.session = some { id := id, source := ent e 8 1, ring := r.val, lastAt := s.now }) (status := 0)
    (result := toBytes id 4) (x := sessionOpened id (ent e 8 1) r s) rfl h ?act (sessionOpened_law ..) (by decide) ?opened).mono
    fun t ht => ⟨id, Nat.succ_pos _, ht⟩
  case act =>
    rw [if_neg (by omega), if_neg (by simp [hwell]), hfree]
    dsimp only
    rw [if_neg (by simp [hstaged]), hstaged]
    rfl
  case opened =>
    rw [sessionOpened, logRec_upd]
    rfl

theorem does_updWrite {s' : State} {bs : List Byte} (h : Waits s r 5 0x21 e) (hsession : s.upd.session = some u) (hid : u.id = ent e 8 4)
    (hblock : ent e 12 4 % 4096 = 0) (hmin : 1 ≤ ent e 16 4) (hmax : ent e 16 4 ≤ 1048576) (hfits : ent e 12 4 + ent e 16 4 ≤ 268431360)
    (hhost : bits (ent e 24 8) 60 4 = 4) (hread : s' = tableRead r e (ent e 24 8) (ent e 16 4) s) (hdma : canDma s' = true) (hinv : Inv s')
    (hbytes : readTable s' r e (ent e 24 8) (ent e 16 4) = .ok bs) :
    Does (.updWrite r true) s fun t => t.upd.staging = Memory.writeN s'.upd.staging (ent e 12 4) bs
      ∧ (∃ u', t.upd.session = some u' ∧ u'.id = u.id ∧ u'.lastAt = s'.now) ∧ Completed s' t r e 0 (toBytes t.upd.blocks.length 4) := by
  obtain ⟨htake, hcqe, hdma0, -⟩ := h
  have hupd' : s'.upd = s.upd := by rw [hread, (tableRead_law ..).1 .upd (by decide)]
  set written := onUpd (fun t => { t with
    staging := Memory.writeN t.staging (ent e 12 4) bs
    blocks := (t.blocks ++ (List.range ((ent e 16 4 + 4095) / 4096)).map fun i => ent e 12 4 / 4096 + i).dedup }) s' with hwritten
  have hlaw : Law [.upd] s' (touch written) := .step (onUpd_law ..) (by decide) (onUpd_law ..)
  have hdone : Completed s' (complete r e 0 (toBytes (touch written).upd.blocks.length 4) (touch written)) r e 0
      (toBytes (touch written).upd.blocks.length 4) := completed_of_law hlaw (by decide) hcqe hdma hinv
  refine .of_exec rfl (onEntry_holds (P := fun t : State => t.upd.staging = Memory.writeN s'.upd.staging (ent e 12 4) bs
    ∧ (∃ u', t.upd.session = some u' ∧ u'.id = u.id ∧ u'.lastAt = s'.now) ∧ Completed s' t r e 0 (toBytes t.upd.blocks.length 4)) htake
      (fun t ht => ?turn) ?act)
  case turn =>
    rw [(turnTaken_law ..).1 .upd (by decide)]
    exact ⟨ht.1, ht.2.1, completed_turnTaken r 5 ht.2.2⟩
  case act =>
    rw [sessionOf_of_named hsession hid]
    dsimp only
    rw [if_neg (by omega), if_neg (not_not.mpr hhost), withTable, if_neg (by simp [tableWaits, hdma0]), ← hread]
    dsimp only
    rw [hbytes]
    dsimp only
    rw [if_neg (by decide), ← hwritten, (complete_law ..).1 .upd (by decide)]
    refine ⟨rfl, ⟨{ u with lastAt := s'.now }, ?_, rfl, rfl⟩, hdone⟩
    change Option.map _ s'.upd.session = _
    rw [hupd', hsession]
    rfl

theorem does_updCommit {bs : List Byte} {m : Manifest} (h : Waits s r 5 0x22 e) (hsession : s.upd.session = some u) (hid : u.id = ent e 8 4)
    (hmin : 64 ≤ ent e 16 4) (hmax : ent e 16 4 ≤ 6509) (hbs : bs = Memory.readN s.upd.staging (ent e 12 4) (ent e 16 4)) (hm : m = parseManifest bs)
    (hok : manifestOk bs = true) (hblocks : inBlocks s.upd.blocks (ent e 12 4) (ent e 16 4) = true)
    (hparts : (m.parts.all fun p => inBlocks s.upd.blocks p.off p.len) = true) :
    Does (.updCommit r true) s fun t => t.upd.session = none ∧ t.upd.staged = some (m, u.id) ∧ Completed s t r e 0 (toBytes m.setVer 4) := by
  subst hm hbs
  set m := parseManifest (Memory.readN s.upd.staging (ent e 12 4) (ent e 16 4)) with hm
  refine (does_onUpdate (Q := fun v => v.session = none ∧ v.staged = some (m, u.id)) (L := [.tally, .log, .upd]) (status := 0)
    (result := toBytes m.setVer 4) (x := onUpd (fun t => { t with
      session := none, staged := some (m, u.id), stagedSource := u.source, stagedRing := u.ring })
      (logRec 0x0A02 0x0A00 u.id 1 s.upd.blocks.length m.setVer s)) rfl h ?act
    (.step (onUpd_law ..) (by decide) ((logRec_law ..).mono (by decide))) (by decide) ⟨rfl, rfl⟩).mono fun t ht => ⟨ht.1.1, ht.1.2, ht.2⟩
  rw [sessionOf_of_named hsession hid]
  dsimp only
  rw [if_neg (by decide), if_neg (by omega), if_neg (by simp [hok, hblocks, ← hm, hparts])]

/-- A session that ends leaves none and no bytes. -/
theorem upd_endSession (hsession : s.upd.session = some u) (cause : Nat) :
    (endSession cause s).upd.session = none ∧ (endSession cause s).upd.blocks = [] := by
  unfold endSession
  rw [hsession]
  dsimp only
  rw [logRec_upd]
  exact ⟨rfl, rfl⟩

theorem does_updAbort (h : Waits s r 5 0x23 e) (hsession : s.upd.session = some u) (hid : u.id = ent e 8 4) :
    Does (.updAbort r) s fun t => t.upd.session = none ∧ t.upd.blocks = [] ∧ Completed s t r e 0 [] := by
  refine (does_onUpdate (Q := fun v => v.session = none ∧ v.blocks = []) (status := 0) (result := []) (x := endSession 2 s) rfl h ?act
    (endSession_law ..) (by decide) (upd_endSession hsession 2)).mono fun t ht => ⟨ht.1.1, ht.1.2, ht.2⟩
  rw [sessionOf_of_named hsession hid]

theorem does_updStatus (h : Waits s r 5 0x24 e) : Does (.updStatus r) s fun t => Completed s t r e 0
    ([BitVec.ofNat 8 (updState s), BitVec.ofNat 8 (updSource s), 0, 0] ++ toBytes (stagedVer s) 4
      ++ toBytes (if s.upd.session.isSome then s.upd.blocks.length else 0) 4) :=
  ⟨_, rfl, completed_complete_onEntry h rfl⟩

theorem does_updSessionIdle (hsession : s.upd.session = some u) (hdue : u.lastAt + 600000000000 ≤ s.now) :
    Does .updSessionIdle s fun t => t.upd.session = none ∧ t.upd.blocks = [] := by
  have hexec : exec .updSessionIdle s = .next (endSession 3 s) := by
    change execUpdSessionIdle s = _
    rw [execUpdSessionIdle, hsession]
    exact if_pos hdue
  exact ⟨_, hexec, upd_endSession hsession 3⟩

/-! ### Attestation (R419, R420) -/

theorem does_attest {a n : Nat} (h : Waits s r 5 0x28 e) (hn : n = (attestation ((e.bytes.drop 8).take 32) s).1.length) (hroom : n ≤ ent e 48 4)
    (hhost : bits (ent e 40 8) 60 4 = 4) (hfits : ent e 40 8 + n ≤ 0x10000000000000000)
    (hplace : checkAt s (whoEntry s r e none) (ent e 40 8) n true = .ok (.here a)) :
    Does (.attest r) s fun t => Completed s t r e 0 (toBytes n 4) := by
  subst hn
  set x := attestation ((e.bytes.drop 8).take 32) s with hx
  have hwrite : writeTable r e (ent e 40 8) x.1 x.2 = (0, store a x.1 x.2) := by
    have hplace' : checkAt x.2 (whoEntry x.2 r e none) (ent e 40 8) x.1.length true = .ok (.here a) := hplace
    rw [writeTable, if_neg (by omega), hplace']
  have hlaw : Law [.freeCtr, .mem, .host, .cores, .clus, .ddr, .tally, .ckpt, .log] s
      (logRec 0x0A07 0x0A00 1 (ofBytes (((e.bytes.drop 8).take 32).take 4)) x.1.length 0 (store a x.1 x.2)) :=
    .step (logRec_law ..) (by decide) (.step (store_law ..) (by decide) (.set_freeCtr _ (by decide) (.refl ..)))
  refine .of_exec rfl ?_
  refine (onAdmin_completes (read := fun _ => ()) h ?_ hlaw (by decide) fun _ _ _ => rfl).2
  dsimp only
  rw [← hx, if_neg (by omega), if_neg (not_not.mpr hhost), if_neg (by simp [tableWaits, h.2.2.1]), hwrite]
  exact if_neg (by simp)

theorem does_sidebandAttest (nonce : List Byte) (hup : sideUp s = true) :
    Does (.sidebandAttest nonce) s fun t => t.sent = ⟨.pldm, 0x7E, (attestation nonce s).1.map BitVec.toNat⟩ :: s.sent := by
  refine .of_exec (if_neg (by simp [hup])) ?_
  rw [logRec_sent, send_sent]
  rfl

end

/-- Settles O32, a lemma for each row. -/
theorem updateComplete : Obligations.UpdateComplete :=
  ⟨fun _ _ _ => does_updOpen, fun _ _ _ _ _ _ => does_updWrite, fun _ _ _ _ _ _ => does_updCommit, fun _ _ _ _ => does_updAbort,
    fun _ _ _ => does_updStatus, fun _ _ => does_updSessionIdle, fun _ _ _ _ _ => does_attest, fun _ => does_sidebandAttest⟩

end Sys2Proof.Machine
end

section
/-! ### Router buffers, the fence list and a scrubbed core (R24, R36, R37) -/

namespace Sys2Proof.Machine

@[simp] theorem clu_updClu_same (c : Nat) (f : CluSt → CluSt) (s : State) : clu (updClu c f s) c = f (clu s c) := by simp [updClu]

@[simp] theorem beats_setBeats (c p : Nat) (b : List Beat) (s : State) : beats (setBeats c p b s) c p = b := by
  unfold beats setBeats
  simp

@[simp] theorem beats_setRes (c p n x : Nat) (s : State) : beats (setRes c p n s) c x = beats s c x := by
  unfold beats setRes
  simp

@[simp] theorem beats_beatMoved (c p x : Nat) (rsp : Bool) (s : State) : beats (beatMoved c p rsp s) c x = beats s c x := by
  unfold beats beatMoved
  simp

@[simp] theorem beats_countAt (base k ev qual n c p : Nat) (ranged : Bool) (s : State) : beats (countAt base k ev qual n ranged s) c p = beats s c p := rfl

/-- A beat that enters stands last in its input port. -/
theorem beats_enterBeat (c p : Nat) (b : Beat) (s : State) : beats (enterBeat c p b s) c p = beats s c p ++ [b] := by
  unfold enterBeat countClu
  dsimp only
  split_ifs <;> simp

theorem beats_routerDrain (c p out : Nat) (rsp : Bool) (s : State) :
    beats (routerDrain c p out rsp s) c p = (drainBeats out rsp (rspRoom s c out) (beats s c p)).1 := by
  unfold routerDrain
  simp

/-- Where no beat needs a response, every beat of the class for the output leaves. -/
theorem drainBeats_of_needless (out room : Nat) (rsp : Bool) (bs : List Beat) (h : ∀ x ∈ bs, x.needs = false) :
    (drainBeats out rsp room bs).1 = bs.filter fun x => !(x.out == out && x.rsp == rsp) := by
  induction bs with
  | nil => rfl
  | cons b bs ih =>
    have hb := h b List.mem_cons_self
    have hbs := ih fun x hx => h x (List.mem_cons_of_mem _ hx)
    by_cases hleaves : b.out = out ∧ b.rsp = rsp
    · simp [drainBeats, hleaves, hb, hbs]
    · have hstays : (!(b.out == out && b.rsp == rsp)) = true := by simpa [-not_and, not_and_or] using hleaves
      rw [drainBeats, if_neg hleaves, List.filter_cons]
      simp only [hstays, if_true, hbs]

/-- The beats of one class for one output leave a router whose beats need no response, and the one that comes leaves with them. -/
theorem exec_routerBeat_of_needless {s : State} {c : Clu} {inp out : Fin 12} {rsp : Bool} (hroom : heldBeats s c inp rsp < 32)
    (hneeds : ∀ x ∈ beats s c inp, x.needs = false) : Does (.routerBeat c inp out rsp false false none) s fun t =>
      beats t c inp = (beats s c inp).filter fun x => !(x.out == out.val && x.rsp == rsp) := by
  have hfirst : beats (routerDrain c inp out rsp s) c inp = (beats s c inp).filter fun x => !(x.out == out.val && x.rsp == rsp) := by
    rw [beats_routerDrain, drainBeats_of_needless _ _ _ _ hneeds]
  have hheld : heldBeats (routerDrain c inp out rsp s) c inp rsp < 32 := by
    refine lt_of_le_of_lt ?_ hroom
    unfold heldBeats
    rw [hfirst]
    exact (List.filter_sublist.filter _).length_le
  refine .of_exec (if_neg (Nat.not_le.mpr hheld)) ?_
  rw [beats_routerDrain, drainBeats_of_needless, beats_enterBeat]
  · change ((beats (routerDrain c inp out rsp s) c inp ++ _).filter _) = _
    rw [hfirst]
    simp
  · intro x hx
    rw [beats_enterBeat] at hx
    change x ∈ beats (routerDrain c inp out rsp s) c inp ++ _ at hx
    rw [hfirst, List.mem_append, List.mem_filter, List.mem_singleton] at hx
    rcases hx with hx | rfl
    · exact hneeds x hx.1
    · rfl

/-! The fence list -/

theorem fenceList_fenceMark (cause g : Nat) (k : CoreSt) (s : State) :
    (fenceMark cause k g s).idb.fenceList = Tbl.set s.idb.fenceList g (BitVec.ofNat 8 cause) := by
  have hsample : (sampleSet 0 4 g (decide (k.state = .assigned)) s.time.ns.toNat [g] s).idb = s.idb := (sampleSet_law ..).1 .idb (by decide)
  have hmark : ∀ (p1 p2 : Nat) (u : State) (f : CoreSt → CoreSt), (logCore g 0x01 cause p1 p2 0 { updCore g f u with
      idb := { (updCore g f u).idb with fenceList := Tbl.set (updCore g f u).idb.fenceList g (BitVec.ofNat 8 cause) } }).idb.fenceList =
        Tbl.set u.idb.fenceList g (BitVec.ofNat 8 cause) := fun p1 p2 u f => by
    rw [(logCore_law ..).1 .idb (by decide)]
    rfl
  unfold fenceMark
  exact (hmark _ _ _ _).trans (by rw [hsample])

/-- Every core that is fenced now stands on the fence list with its cause, and the others' entries stay. -/
theorem fenceList_fenceNow (gs : List Nat) (cause g : Nat) (s : State) : Tbl.get 0 (fenceNow gs (fun _ => cause) s).idb.fenceList g =
    if g ∈ gs then BitVec.ofNat 8 cause else Tbl.get 0 s.idb.fenceList g := by
  have hremap : ∀ (s : State) (p : Nat × CoreSt), (remap p.2.ctx.val p.2.vcore p.1 s).idb = s.idb := fun s p => (remap_law ..).1 .idb (by decide)
  have hmarks : ∀ (was : List (Nat × CoreSt)) (u : State),
      Tbl.get 0 (was.foldl (fun s p => fenceMark cause p.2 p.1 (disposeCore p.1 s)) u).idb.fenceList g =
        if g ∈ was.map Prod.fst then BitVec.ofNat 8 cause else Tbl.get 0 u.idb.fenceList g := by
    intro was
    induction was with
    | nil => intro u; rfl
    | cons p was ih =>
      intro u
      have hdispose : (disposeCore p.1 u).idb = u.idb := (disposeCore_law ..).1 .idb (by decide)
      rw [List.foldl_cons, ih, fenceList_fenceMark, hdispose, Tbl.get_set, List.map_cons]
      by_cases hg : g = p.1
      · simp [hg]
      · rw [if_neg hg, if_congr (List.mem_cons.trans (or_iff_right hg)) rfl rfl]
  unfold fenceNow
  dsimp only
  rw [foldl_keeps (read := State.idb) hremap, hmarks]
  simp [Function.comp_def]

/-- A core that is neither absent nor fenced stands on the fence list with its cause once it is to be fenced, at once or when its
domain's reset ends. -/
theorem fenceList_fenceCore {s : State} {g : Nat} (cause : Nat) (habsent : (core s g).state ≠ .absent) (hfenced : (core s g).state ≠ .fenced) :
    Tbl.get 0 (fenceCore g cause s).idb.fenceList g = BitVec.ofNat 8 cause := by
  have hrecheck : ∀ (b : Bool) (u : State), (if b = true then u else recheckState u).idb = u.idb := by
    intro b u
    split
    · rfl
    · exact (recheckState_law u).1 .idb (by decide)
  have hreport : ∀ (u : State) (c : Nat), (reportRewound c u).idb = u.idb := fun u c => (reportRewound_law ..).1 .idb (by decide)
  have hdispose : ∀ (u : State) (c : Nat), (disposeCtx c (genAdvance c u)).idb = u.idb := fun u c => by
    have hgen : (genAdvance c u).idb = u.idb := (genAdvance_law c u).1 .idb (by decide)
    rw [← hgen]
    exact (disposeCtx_law c (genAdvance c u)).1 .idb (by decide)
  have hfence : [g].filter (fun g => decide ((core s g).state ≠ .absent ∧ (core s g).state ≠ .fenced)) = [g] := by
    simp [habsent, hfenced]
  unfold fenceCore fenceCores
  dsimp only
  rw [hfence, hrecheck, foldl_keeps (read := State.idb) hreport, fenceList_fenceNow, foldl_keeps (read := State.idb) hdispose]
  by_cases hresets : coreResets s g = true
  · have hlater : Tbl.get 0 (fenceLater cause s g).idb.fenceList g = BitVec.ofNat 8 cause := by
      simp [fenceLater]
    rw [List.filter_cons_of_pos hresets, List.filter_nil, List.foldl_cons, List.foldl_nil, hlater, ite_self]
  · simp [hresets]

/-! A scrubbed core -/

/-- The scrub empties every queue of its core. -/
theorem queue_scrubCore_toks (g q : Nat) (s : State) : (queue (scrubCore g s) g q).toks = [] := by
  unfold scrubCore
  rw [queue, updCore, core_setCore_same]
  exact congrArg TokQueue.toks (Tbl.get_map {} (fun k : TokQueue => { k with toks := [], ovf := 0, rej := 0, ovfPend := false }) rfl _ q)

/-- The scrub leaves the core's SRAM zero. -/
theorem read_scrubCore (g off : Nat) (s : State) (h : off < 0x1000000) : (scrubCore g s).mem.read (sramKey g off) = 0 := by
  have hkey : sramKey g off = sramKey g 0 + off := by
    unfold sramKey
    omega
  change (s.mem.zero (sramKey g 0) 16777216).read (sramKey g off) = 0
  rw [Memory.read_zero, hkey, if_pos ⟨Nat.le_add_right .., Nat.add_lt_add_left h _⟩]
  rfl

/-- Settles O1: each row of chapter 02 by the lemma of its operation. -/
theorem tokensComplete : Obligations.TokensComplete := by
  unfold Obligations.TokensComplete
  refine ⟨fun s g st w h hquiet hon hprod hroom => ?_, fun s g st w h hroom => ?_, fun s g st w v vs h hon hcons hovf htoks => ?_,
    fun s g st w v vs h htoks => ?_, fun s src c gen g q v hstate hctx hcreated hgen hon hen hroom => ?_, fun s g q v hcore hquiet => ?_,
    fun s g q v hcore hquiet hclear => ?_, fun s c inp out rsp needs hroom => ?_, fun s c inp out rsp hroom hneeds => ?_,
    fun s g habsent hfenced => ?_, fun s g hscrub => ?_⟩
  · exact .of_exec ((exec_signal_of_issues h hquiet).trans (congrArg _ (doSignal_of_room _ hon hprod hroom))) (issued_appendToken h.1 _ _)
  · exact .of_exec ((exec_signalResume_of_stalled h).trans (congrArg _ (if_pos hroom))) (issued_appendToken h.1 _ _)
  · exact .of_exec (by rw [exec_wait_of_consumer h hon hcons hovf, if_neg (by simp [htoks])]) (takeToken_of_cons h.1 htoks)
  · exact .of_exec (by rw [exec_waitResume_of_stalled h, if_neg (by simp [htoks])]) (takeToken_of_cons h.1 htoks)
  · refine .of_exec (exec_remoteTokenArrival_of_owner src gen q v hstate hctx) ?_
    exact (remoteToken_of_room (s := { s with transit := s.transit.erase ⟨c.val, gen, g.val, q.val, v⟩ }) _ _ hcreated hgen hon hen hroom).1
  · refine .of_exec (by rw [exec_coreTqCfgWrite_of_coreOn hcore, if_pos hquiet]) ?_
    rw [queue_setQueue_same]
    refine ⟨rfl, fun hnew hold => ?_⟩
    dsimp only
    rw [bit_and_tqCfgMask, hnew, hold, preload, fld_and_tqCfgMask]
    rfl
  · refine .of_exec (by rw [exec_tqClear_of_coreOn hcore hclear, if_pos hquiet]) ?_
    rw [queue_setQueue_same]
    exact ⟨rfl, rfl, rfl⟩
  · exact .of_exec ((if_neg (Nat.not_le.mpr hroom)).trans (if_pos rfl)) (beats_enterBeat ..)
  · exact exec_routerBeat_of_needless hroom hneeds
  · refine .of_exec (if_neg (by simp [habsent, hfenced])) (fenceList_fenceCore 2 ?_ ?_)
    all_goals simpa [core_coreFault_same]
  · refine .of_exec ((if_pos hscrub).trans (if_pos rfl)) ⟨?_, ?_, fun off h => read_scrubCore g off s h, fun q => ?_⟩
    · simp [updCore]
    · simp [updCore]
    · have hqueue := queue_scrubCore_toks g q s
      unfold updCore
      rwa [queue, core_setCore_same]

end Sys2Proof.Machine
end

section
/-! ### The slew governor and the compute comb hand-over (R106, R107) -/

namespace Sys2Proof.Machine

/-! Readings of a cluster and of its combs -/

theorem clu_of_clus {s t : State} (h : t.clus = s.clus) (x : Nat) : clu t x = clu s x := by unfold clu; rw [h]

@[simp] theorem clus_setOte (g e : Nat) (o : Ote) (s : State) : (setOte g e o s).clus = s.clus := rfl

@[simp] theorem clus_onSlot (c j : Nat) (f : Ote → Ote) (s : State) : (onSlot c j f s).clus = s.clus := (onSlot_law ..).1 .clus (by decide)

@[simp] theorem clus_resumeSlot (c j : Nat) (s : State) : (resumeSlot c j s).clus = s.clus := clus_onSlot ..

@[simp] theorem clus_setTrims (c j : Nat) (trims : List (List Half16)) (s : State) : (setTrims c j trims s).clus = s.clus :=
  (setTrims_law ..).1 .clus (by decide)

@[simp] theorem clu_onSlot (c j x : Nat) (f : Ote → Ote) (s : State) : clu (onSlot c j f s) x = clu s x := clu_of_clus (by simp) x

@[simp] theorem clu_logClu (c low p0 p1 p2 p3 x : Nat) (s : State) : clu (logClu c low p0 p1 p2 p3 s) x = clu s x := clu_of_clus (by simp) x

theorem comb_of_clus {s t : State} (h : t.clus = s.clus) (c n : Nat) : comb t c n = comb s c n := by
  unfold comb
  rw [clu_of_clus h]

@[simp] theorem comb_onSlot (c j x n : Nat) (f : Ote → Ote) (s : State) : comb (onSlot c j f s) x n = comb s x n := comb_of_clus (by simp) ..

@[simp] theorem comb_logClu (c low p0 p1 p2 p3 x n : Nat) (s : State) : comb (logClu c low p0 p1 p2 p3 s) x n = comb s x n :=
  comb_of_clus (by simp) ..

@[simp] theorem comb_updComb (c n x : Nat) (f : CombSt → CombSt) (s : State) :
    comb (updComb c n f s) c x = if x = n then f (comb s c n) else comb s c x := by
  unfold comb updComb
  rw [clu_updClu_same]
  exact Tbl.get_set ..

@[simp] theorem handover_updComb (c n : Nat) (f : CombSt → CombSt) (s : State) : (clu (updComb c n f s) c).handover = (clu s c).handover := by
  simp [updComb]

@[simp] theorem combMap_updComb (c n : Nat) (f : CombSt → CombSt) (s : State) : (clu (updComb c n f s) c).combMap = (clu s c).combMap := by
  simp [updComb]

@[simp] theorem handWait_updComb (c n : Nat) (f : CombSt → CombSt) (s : State) : (clu (updComb c n f s) c).handWait = (clu s c).handWait := by
  simp [updComb]

theorem comb_updClu {f : CluSt → CluSt} (hf : ∀ k, (f k).combs = k.combs) (c n : Nat) (s : State) : comb (updClu c f s) c n = comb s c n := by
  unfold comb
  rw [clu_updClu_same, hf]

@[simp] theorem comb_toStep (c step n : Nat) (h : Handover) (s : State) : comb (toStep c step h s) c n = comb s c n := by
  unfold toStep
  exact comb_updClu (f := fun k => { k with handover := some { h with step := step, since := s.now } }) (fun _ => rfl) c n s

@[simp] theorem handover_toStep (c step : Nat) (h : Handover) (s : State) :
    (clu (toStep c step h s) c).handover = some { h with step := step, since := s.now } := by
  simp [toStep]

@[simp] theorem combMap_toStep (c step : Nat) (h : Handover) (s : State) : (clu (toStep c step h s) c).combMap = (clu s c).combMap := by
  simp [toStep]

@[simp] theorem now_updComb (c n : Nat) (f : CombSt → CombSt) (s : State) : (updComb c n f s).now = s.now := rfl

@[simp] theorem now_onSlot (c j : Nat) (f : Ote → Ote) (s : State) : (onSlot c j f s).now = s.now := (onSlot_law ..).1 .now (by decide)

/-! The engines of a slot -/

theorem nodup_slotEngines (c j : Nat) : (slotEngines c j).Nodup := by
  unfold slotEngines codeCore
  simp only [show List.range 3 = [0, 1, 2] from rfl, show List.range 4 = [0, 1, 2, 3] from rfl, List.flatMap_cons, List.flatMap_nil, List.map_cons,
    List.map_nil, List.append_nil, List.cons_append, List.nil_append, List.nodup_cons, List.mem_cons, Prod.mk.injEq, List.not_mem_nil]
  simp

/-- A change made to each engine of a list reaches exactly those engines. -/
theorem ote_foldl_updOte (f : Ote → Ote) (l : List (Nat × Nat)) (h : l.Nodup) (x y : Nat) (s : State) :
    ote (l.foldl (fun s p => updOte p.1 p.2 f s) s) x y = if (x, y) ∈ l then f (ote s x y) else ote s x y := by
  induction l generalizing s with
  | nil => simp
  | cons p l ih =>
    obtain ⟨hp, hl⟩ := List.nodup_cons.mp h
    rw [List.foldl_cons, ih hl, updOte_eq, ote_setOte]
    obtain ⟨g, e⟩ := p
    by_cases heq : x = g ∧ y = e
    · obtain ⟨rfl, rfl⟩ := heq
      simp [hp]
    · have hne : (x, y) ≠ (g, e) := fun h => heq (by simpa using h)
      simp [heq]

theorem ote_onSlot (c j : Nat) (f : Ote → Ote) (x y : Nat) (s : State) :
    ote (onSlot c j f s) x y = if (x, y) ∈ slotEngines c j then f (ote s x y) else ote s x y :=
  ote_foldl_updOte f _ (nodup_slotEngines c j) x y s

theorem ote_onSlot_mem {c j : Nat} {p : Nat × Nat} (hp : p ∈ slotEngines c j) (f : Ote → Ote) (s : State) :
    ote (onSlot c j f s) p.1 p.2 = f (ote s p.1 p.2) := by
  rw [ote_onSlot, if_pos hp]

@[simp] theorem ote_setClu (c x y : Nat) (k : CluSt) (s : State) : ote (setClu c k s) x y = ote s x y := rfl

@[simp] theorem ote_updClu (c x y : Nat) (f : CluSt → CluSt) (s : State) : ote (updClu c f s) x y = ote s x y := rfl

@[simp] theorem ote_updComb (c n x y : Nat) (f : CombSt → CombSt) (s : State) : ote (updComb c n f s) x y = ote s x y := rfl

@[simp] theorem ote_toStep (c step x y : Nat) (h : Handover) (s : State) : ote (toStep c step h s) x y = ote s x y := rfl

@[simp] theorem ote_logClu (c low p0 p1 p2 p3 x y : Nat) (s : State) : ote (logClu c low p0 p1 p2 p3 s) x y = ote s x y :=
  ote_of_cores (by simp) x y

/-- Each engine of a list paired with trims takes its own. -/
theorem trims_foldl {es : List (Nat × Nat)} {trims : List (List Half16)} (h : es.Nodup) (s : State) : ∀ x ∈ es.zip trims,
    (ote ((es.zip trims).foldl (fun s x => updOte x.1.1 x.1.2 (fun o => { o with trims := x.2 }) s) s) x.1.1 x.1.2).trims = x.2 := by
  have hother : ∀ (l : List ((Nat × Nat) × List Half16)) (p : Nat × Nat) (s : State), p ∉ l.map Prod.fst →
      ote (l.foldl (fun s x => updOte x.1.1 x.1.2 (fun o => { o with trims := x.2 }) s) s) p.1 p.2 = ote s p.1 p.2 := by
    intro l p
    induction l with
    | nil => exact fun s _ => rfl
    | cons x l ih =>
      intro s hp
      obtain ⟨hx, hl⟩ := not_or.mp (List.mem_cons.not.mp hp)
      rw [List.foldl_cons, ih _ hl, updOte_eq, ote_setOte, if_neg fun h => hx (Prod.ext h.1 h.2)]
  induction es generalizing trims s with
  | nil => simp
  | cons p es ih =>
    obtain ⟨hp, hes⟩ := List.nodup_cons.mp h
    cases trims with
    | nil => simp
    | cons v trims =>
      rw [List.zip_cons_cons, List.foldl_cons]
      intro x hx
      rcases List.mem_cons.mp hx with rfl | hx
      · rw [hother _ p _ fun hmem => hp ?_, updOte_eq, ote_setOte_same]
        obtain ⟨y, hy, rfl⟩ := List.mem_map.mp hmem
        exact (List.of_mem_zip hy).1
      · exact ih hes _ x hx

/-! The slots that the governor grants (R106) -/

theorem levelSum_eq_sum (ws : List Nat) (l : Nat) : levelSum ws l = (ws.map (min l)).sum := (List.sum_eq_foldl ..).symm

theorem levelSum_waterLevel_le (ws : List Nat) (top n l : Nat) (h : levelSum ws l ≤ top) : levelSum ws (waterLevel ws top n l) ≤ top := by
  induction n generalizing l with
  | zero => exact h
  | succ n ih =>
    rw [waterLevel]
    split
    · next hfits => exact ih _ hfits
    · exact ih _ h

@[simp] theorem length_grantAt (l r : Nat) (ws : List Nat) : (grantAt l r ws).length = ws.length := by
  induction ws generalizing r with
  | nil => rfl
  | cons w ws ih =>
    rw [grantAt]
    split <;> simp [ih]

theorem sum_grantAt_le (l r : Nat) (ws : List Nat) : (grantAt l r ws).sum ≤ (ws.map (min l)).sum + r := by
  induction ws generalizing r with
  | nil => exact Nat.zero_le _
  | cons w ws ih =>
    rw [grantAt]
    split
    · have hrest := ih (r - 1)
      simp only [List.sum_cons, List.map_cons]
      omega
    · have hrest := ih r
      simp only [List.sum_cons, List.map_cons]
      omega

theorem grantAt_le {b : Nat} (l r : Nat) (ws : List Nat) (h : ∀ w ∈ ws, w ≤ b) : ∀ x ∈ grantAt l r ws, x ≤ b := by
  induction ws generalizing r with
  | nil => simp [grantAt]
  | cons w ws ih =>
    have hw := h w List.mem_cons_self
    have hrest := fun r => ih r fun w hw => h w (List.mem_cons_of_mem _ hw)
    rw [grantAt]
    split <;> simp only [List.mem_cons, forall_eq_or_imp] <;> exact ⟨by omega, hrest _⟩

@[simp] theorem length_granted (ws : List Nat) (top : Nat) : (granted ws top).length = ws.length := by
  unfold granted
  split <;> simp

theorem sum_granted_le (ws : List Nat) (top : Nat) : (granted ws top).sum ≤ top := by
  unfold granted
  split
  · next hfits => rwa [List.sum_eq_foldl]
  · have hzero : levelSum ws 0 = 0 := by
      rw [levelSum_eq_sum, show min 0 = fun _ : Nat => 0 from funext Nat.zero_min]
      simp
    have hlevel := levelSum_waterLevel_le ws top 13 0 (by rw [hzero]; exact Nat.zero_le _)
    have hsum := sum_grantAt_le (waterLevel ws top 13 0) (top - levelSum ws (waterLevel ws top 13 0)) ws
    rw [← levelSum_eq_sum] at hsum
    dsimp only
    omega

theorem granted_le {b : Nat} (ws : List Nat) (top : Nat) (h : ∀ w ∈ ws, w ≤ b) : ∀ x ∈ granted ws top, x ≤ b := by
  unfold granted
  split
  · exact h
  · exact grantAt_le _ _ _ h

/-- The idle symbols reach the floor as far as the engines' slots allow. -/
theorem sum_idleFill (need : Nat) (ds : List Nat) (h : ∀ d ∈ ds, d ≤ 8000) : (idleFill need ds).sum = min need (8000 * ds.length - ds.sum)
    ∧ ds.sum ≤ 8000 * ds.length := by
  induction ds generalizing need with
  | nil => simp [idleFill]
  | cons d ds ih =>
    have hd := h d List.mem_cons_self
    obtain ⟨hrest, hle⟩ := ih (need - (8000 - d)) fun d hd => h d (List.mem_cons_of_mem _ hd)
    rw [idleFill, List.sum_cons, hrest, List.length_cons, List.sum_cons]
    omega

/-- The floor lies within the interval's slots. -/
theorem dutyLow_le {d n : Nat} (total : Nat) (h : d ≤ n) : dutyLow d n total ≤ total := by
  unfold dutyLow
  rcases Nat.eq_zero_or_pos n with rfl | hn
  · obtain rfl := Nat.le_zero.mp h
    simp
  · rw [max_eq_right hn]
    refine Nat.le_of_lt_succ (Nat.div_lt_of_lt_mul ?_)
    have hduty : 100 * d - n ≤ 99 * n := by omega
    have hmul := Nat.mul_le_mul_right total hduty
    calc (100 * d - n) * total + (100 * n - 1) ≤ 99 * n * total + (100 * n - 1) := by omega
      _ < 100 * n * total + 100 * n := by
        have : 99 * n * total ≤ 100 * n * total := Nat.mul_le_mul_right _ (by omega)
        omega
      _ = 100 * n * (total + 1) := by ring

@[simp] theorem clus_countGov (s : State) (x : (Nat × Nat) × Nat × Nat) : (countGov s x).clus = s.clus := rfl

/-- The slots driven in an interval: the grant under the ceiling, raised to the floor. -/
theorem driven_governorIntervalEnd (total low top : Nat) (ws : List Nat) (hlen : total = 8000 * ws.length) (hws : ∀ w ∈ ws, w ≤ 8000) (hlow : low ≤ total) :
    let gs := granted ws (min total top)
    let d := gs.foldl (· + ·) 0 + (idleFill (low - gs.foldl (· + ·) 0) gs).foldl (· + ·) 0
    d ≤ total ∧ low ≤ d ∧ d ≤ max low top := by
  intro gs d
  have hsum : gs.sum ≤ min total top := sum_granted_le ..
  obtain ⟨hidle, -⟩ := sum_idleFill (low - gs.sum) gs (granted_le _ _ hws)
  have hgs : gs.length = ws.length := length_granted ..
  have hd : d = gs.sum + (idleFill (low - gs.sum) gs).sum := by
    unfold d
    rw [← List.sum_eq_foldl, ← List.sum_eq_foldl]
  rw [hgs, ← hlen] at hidle
  omega

/-! The rows of the hand-over -/

/-- A hand-over starts where a standby is there: step 1, the standby is lit, the slot's engines stop their timers. -/
theorem startHandover_of_standby {s : State} {c n : Nat} (j : Nat) (forced : Bool) (hstandby : standby s c = some n) :
    (clu (startHandover c j forced s) c).handover = some ⟨j, 1, forced, false, s.now⟩ ∧ (comb (startHandover c j forced s) c n).state = 1
      ∧ ∀ p ∈ slotEngines c j, (ote (startHandover c j forced s) p.1 p.2).stopped = true := by
  unfold startHandover
  rw [hstandby]
  exact ⟨by simp, by simp, fun p hp => by rw [ote_onSlot_mem hp]⟩

theorem handoverAt_of_some {s : State} {c : Nat} {h : Handover} (hhand : (clu s c).handover = some h) : handoverAt s c h.step = some h := by
  unfold handoverAt
  rw [hhand]
  exact if_pos rfl

theorem handoverHeld_of_some {s : State} {c ns : Nat} {h : Handover} (hhand : (clu s c).handover = some h) (hdue : h.since + ns ≤ s.now) :
    handoverHeld s c h.step ns = some h := by
  unfold handoverHeld
  rw [handoverAt_of_some hhand, Option.filter_some, if_pos (decide_eq_true hdue)]

theorem ote_resumeSlot_mem {c j : Nat} {p : Nat × Nat} (hp : p ∈ slotEngines c j) (s : State) :
    (ote (resumeSlot c j s) p.1 p.2).held = false ∧ (ote (resumeSlot c j s) p.1 p.2).stopped = false
      ∧ (ote (resumeSlot c j s) p.1 p.2).trims = (ote s p.1 p.2).trims := by
  unfold resumeSlot
  rw [ote_onSlot_mem hp]
  exact ⟨rfl, rfl, rfl⟩

theorem nextHandover_of_none {s : State} {c : Nat} (h : (clu s c).handWait = []) : nextHandover c s = s := by
  unfold nextHandover
  rw [h]
  rfl

/-- A comb's powers kept with its warning, before any hand-over that they call for (R107). -/
def measured (c n : Nat) (loss : Half16) (line : Fin 64) (lineLoss : Half16) (s : State) : State :=
  let s := updComb c n (fun k => { k with loss := loss }) s
  if loss.toNat < 100 then updComb c n (fun k => { k with warned := false }) s
  else if (comb s c n).warned then s
  else updComb c n (fun k => { k with warned := true }) (logClu c 0x35 n loss.toNat line lineLoss.toNat s)

theorem measured_reads (c n : Nat) (loss : Half16) (line : Fin 64) (lineLoss : Half16) (s : State) :
    (comb (measured c n loss line lineLoss s) c n).loss = loss
      ∧ (comb (measured c n loss line lineLoss s) c n).warned = decide (100 ≤ loss.toNat)
      ∧ (clu (measured c n loss line lineLoss s) c).handover = (clu s c).handover := by
  unfold measured
  by_cases hlow : loss.toNat < 100
  · simp [hlow]
  · by_cases hwarned : (comb s c n).warned = true <;> simp [hlow, hwarned, Nat.le_of_not_lt hlow]

/-- The standby locked: the engines of the slot hold (R107 step 2). -/
theorem does_handoverStandbyLocked {s : State} {c : Clu} {j n at_ : Nat} {f r : Bool} (hhand : (clu s c).handover = some ⟨j, 1, f, r, at_⟩)
    (hstandby : standby s c = some n) : Does (.handoverStandbyLocked c) s fun t =>
      (clu t c).handover = some ⟨j, 2, f, r, s.now⟩ ∧ (comb t c n).state = 5 ∧ ∀ p ∈ slotEngines c j, (ote t p.1 p.2).held = true := by
  have hexec : exec (.handoverStandbyLocked c) s = .next (onSlot c j (fun o => { o with held := true, calState := if o.calState = 1 then 2 else o.calState })
      (updComb c n (fun k => { k with state := 5, relocking := false, unlocked := false }) (toStep c 2 ⟨j, 1, f, r, at_⟩ s))) := by
    change execHandoverStandbyLocked c s = _
    rw [execHandoverStandbyLocked, handoverAt_of_some hhand, hstandby]
  exact .of_exec hexec ⟨by simp, by simp, fun p hp => by rw [ote_onSlot_mem hp]⟩

/-- Step 2 took too long, in a forced hand-over: the engines that still run pause, and the switch goes on. -/
theorem does_handoverHoldTimeout_of_forced {s : State} {c : Clu} {j at_ : Nat} {r : Bool} (hhand : (clu s c).handover = some ⟨j, 2, true, r, at_⟩)
    (hdue : at_ + 2000000 ≤ s.now) : Does (.handoverHoldTimeout c) s fun t =>
      (clu t c).handover = some ⟨j, 3, true, r, s.now⟩ ∧ ∀ p ∈ slotEngines c j, (ote t p.1 p.2).hoPause = ringsBusy (ote s p.1 p.2) := by
  refine .of_exec (by
      change execHandoverHoldTimeout c s = _
      rw [execHandoverHoldTimeout, handoverHeld_of_some hhand hdue]
      exact if_pos rfl) ?_
  exact ⟨by simp, fun p hp => by rw [ote_onSlot_mem hp, ote_toStep]⟩

/-- Step 2 took too long, in a scheduled hand-over: it is abandoned until its retry. -/
theorem does_handoverHoldTimeout_of_scheduled {s : State} {c : Clu} {j at_ : Nat} {r : Bool} (hhand : (clu s c).handover = some ⟨j, 2, false, r, at_⟩)
    (hdue : at_ + 2000000 ≤ s.now) : Does (.handoverHoldTimeout c) s fun t => (clu t c).handover = some ⟨j, 0, false, r, s.now⟩
      ∧ ∀ p ∈ slotEngines c j, (ote t p.1 p.2).held = false ∧ (ote t p.1 p.2).stopped = false := by
  refine .of_exec (by
      change execHandoverHoldTimeout c s = _
      rw [execHandoverHoldTimeout, handoverHeld_of_some hhand hdue]
      exact if_neg Bool.false_ne_true) ?_
  refine ⟨?_, fun p hp => ?_⟩
  · rw [clu_logClu]
    split <;> simp [resumeSlot]
  · rw [ote_logClu]
    obtain ⟨hheld, hstopped, -⟩ := ote_resumeSlot_mem hp _
    exact ⟨hheld, hstopped⟩

/-- The state before the engines of a confirmed hand-over go on: the old comb off, the new one in service and in the map. -/
def confirmed (c old n j : Nat) (s : State) : State :=
  updClu c (fun k => { k with handover := none, combMap := handoverMap k.combMap j n })
    (updComb c n (fun k => { k with state := 3 }) (updComb c old (fun k => { k with state := 4, unlocked := false }) s))

theorem clu_confirmed (c old n j : Nat) (s : State) : (clu (confirmed c old n j s) c).handover = none
    ∧ (clu (confirmed c old n j s) c).combMap = handoverMap (clu s c).combMap j n ∧ (clu (confirmed c old n j s) c).handWait = (clu s c).handWait := by
  simp [confirmed]

theorem comb_confirmed (c old n j x : Nat) (s : State) : (comb (confirmed c old n j s) c x).state =
    if x = n then 3 else if x = old then 4 else (comb s c x).state := by
  unfold confirmed
  rw [comb_updClu (by intro k; rfl), comb_updComb, comb_updComb, comb_updComb]
  split_ifs <;> rfl

/-- A confirmation that passes ends the hand-over (R107 step 5). -/
theorem does_handoverConfirmEnd_of_passed {s : State} {c : Clu} {j n at_ : Nat} {f r : Bool} (trims : List (List Half16))
    (hhand : (clu s c).handover = some ⟨j, 4, f, r, at_⟩) (hstandby : standby s c = some n) (hwait : (clu s c).handWait = [])
    (hne : n ≠ slotComb s c j) : Does (.handoverConfirmEnd c true true trims) s fun t => (clu t c).handover = none ∧ (comb t c n).state = 3
      ∧ (comb t c (slotComb s c j)).state = 4 ∧ (clu t c).combMap = setFld (setFld (clu s c).combMap (2 * j) 2 n) 8 1 0
      ∧ (∀ p ∈ slotEngines c j, (ote t p.1 p.2).held = false)
      ∧ ∀ x ∈ (slotEngines c j).zip trims, (ote t x.1.1 x.1.2).trims = x.2 := by
  have hexec : exec (.handoverConfirmEnd c true true trims) s = .next (nextHandover c (logClu c 0x36 j (slotComb s c j) n (if f then 2 else 1)
      (resumeSlot c j (setTrims c j trims (confirmed c (slotComb s c j) n j s))))) := by
    change execHandoverConfirmEnd c true true trims s = _
    rw [execHandoverConfirmEnd, handoverAt_of_some hhand, hstandby]
    rfl
  obtain ⟨hnone, hmap, hkept⟩ := clu_confirmed c (slotComb s c j) n j s
  have hclus : (logClu c 0x36 j (slotComb s c j) n (if f then 2 else 1)
      (resumeSlot c j (setTrims c j trims (confirmed c (slotComb s c j) n j s)))).clus = (confirmed c (slotComb s c j) n j s).clus := by simp
  refine .of_exec hexec ?_
  rw [nextHandover_of_none (by rw [clu_of_clus hclus, hkept, hwait]), clu_of_clus hclus, comb_of_clus hclus, comb_of_clus hclus, comb_confirmed, comb_confirmed]
  refine ⟨hnone, if_pos rfl, (if_neg hne.symm).trans (if_pos rfl), hmap, fun p hp => ?_, fun x hx => ?_⟩
  · rw [ote_logClu]
    exact (ote_resumeSlot_mem hp _).1
  · rw [ote_logClu, (ote_resumeSlot_mem (List.of_mem_zip hx).1 _).2.2]
    exact trims_foldl (nodup_slotEngines c j) _ x hx

/-- A confirmation that fails once leaves the hand-over to its retry. -/
theorem does_handoverConfirmEnd_of_failed {s : State} {c : Clu} {j n at_ : Nat} {f io fo : Bool} (trims : List (List Half16))
    (hhand : (clu s c).handover = some ⟨j, 4, f, false, at_⟩) (hstandby : standby s c = some n) (hfails : (io && fo) = false) :
    Does (.handoverConfirmEnd c io fo trims) s fun t => (clu t c).handover = some ⟨j, 0, f, true, s.now⟩ ∧ (comb t c n).state = 2
      ∧ (clu t c).combMap = (clu s c).combMap := by
  refine .of_exec (by
      change execHandoverConfirmEnd c io fo trims s = _
      rw [execHandoverConfirmEnd, handoverAt_of_some hhand, hstandby]
      exact (if_neg fun h => by simp [h] at hfails).trans (if_neg Bool.false_ne_true)) ?_
  exact ⟨by simp [resumeSlot], by simp, by simp [resumeSlot]⟩

/-- Settles O8: the governor's grant lies between floor and ceiling, and each step of the hand-over follows from the step before. -/
theorem combsComplete : Obligations.CombsComplete := by
  unfold Obligations.CombsComplete
  refine ⟨fun s c n j m hunlocked hslot hstandby hnone hdue => ?_, fun s c want n hn hdriven => ?_, fun s c n loss line lineLoss hloss hline => ?_,
    fun s c v n hheld hgo hslot hstandby hnone => ?_, fun s c j n at_ f r hhand hstandby => does_handoverStandbyLocked hhand hstandby,
    fun s c j at_ f r hhand => ?_, fun s c j at_ f r hhand hdue => ?_, fun s c j at_ f r hhand => ?_,
    fun s c j n at_ f r trims hhand hstandby hwait hne => does_handoverConfirmEnd_of_passed trims hhand hstandby hwait hne,
    fun s c j n at_ f io fo trims hhand hstandby hfails => does_handoverConfirmEnd_of_failed trims hhand hstandby hfails,
    fun s c j n at_ f r hhand hstandby hdue => ?_⟩
  · have hcall : callHandover c j true s = startHandover c j true s := by
      unfold callHandover
      rw [hnone]
    refine .of_exec ((if_pos ⟨hunlocked, hdue⟩).trans ?_) (startHandover_of_standby j true hstandby).1
    rw [hslot, ← hcall]
  · have hes : ((govEngines s c).map fun x => min 8000 (want.getD (4 * coreK x.1 + x.2) 0)).length = (govEngines s c).length := List.length_map ..
    have hgrant := driven_governorIntervalEnd (slots s c) (dutyLow (clu s c).driven n (slots s c))
      (max (dutyLow (clu s c).driven n (slots s c)) (min (dutyTop (clu s c).driven n (slots s c))
        (slots s c * (if c.val < 8 then s.pwr.capA else s.pwr.capB) / 100)))
      ((govEngines s c).map fun x => min 8000 (want.getD (4 * coreK x.1 + x.2) 0)) (by rw [hes]; rfl)
      (fun w hw => by obtain ⟨x, -, rfl⟩ := List.mem_map.mp hw; exact min_le_left ..) (dutyLow_le _ hdriven)
    subst hn
    refine .of_exec rfl ?_
    rw [clu_updClu_same]
    exact ⟨rfl, hgrant.1, hgrant.2.1, hgrant.2.2.trans (by omega)⟩
  · have hpower : combPower c n loss line lineLoss s = measured c n loss line lineLoss s := by
      unfold combPower measured
      dsimp only
      split
      · rfl
      · exact (if_neg (by omega)).trans (if_neg (by omega))
    refine .of_exec rfl ?_
    rw [hpower]
    exact measured_reads ..
  · refine .of_exec ?_ (startHandover_of_standby _ false hstandby)
    change Host.Outcome.next (cluWrite c 0x2020 v s _) = _
    rw [cluWrite, hheld, if_neg Bool.false_ne_true, if_neg (by simp [hgo]), if_neg hslot, hnone]
    rfl
  · refine .of_exec (by
        change execHandoverEnginesHeld c s = _
        rw [execHandoverEnginesHeld, handoverAt_of_some hhand]) ?_
    rw [handover_toStep]
  · cases f with
    | true =>
      obtain ⟨t, hexec, hhand', hpause⟩ := does_handoverHoldTimeout_of_forced hhand hdue
      exact .of_exec hexec ⟨hhand', nofun, fun _ => hpause⟩
    | false =>
      obtain ⟨t, hexec, hhand', hgo⟩ := does_handoverHoldTimeout_of_scheduled hhand hdue
      exact .of_exec hexec ⟨hhand', fun _ => hgo, nofun⟩
  · refine .of_exec (by
        change execHandoverSwitchDone c s = _
        rw [execHandoverSwitchDone, handoverAt_of_some hhand]) ?_
    rw [clu_onSlot, handover_toStep]
  · refine .of_exec (by
        change execHandoverRetry c s = _
        rw [execHandoverRetry, handoverHeld_of_some hhand hdue, hstandby]) ?_
    exact ⟨by simp, by simp⟩

end Sys2Proof.Machine
end

section
/-! ### The benchmark-row rotation and the lock loops (R93 to R98, R102, R104, R107) -/

namespace Sys2Proof.Machine

section
variable {s : State} {g : Core} {e : Eng}

theorem phaseOver_of_due {now : Nat} {o : Ote} (hdue : o.phaseAt + 25000 ≤ now) (hsamples : 512 ≤ o.samples + exSamples now o) :
    phaseOver now o = true := by
  unfold phaseOver
  rw [decide_eq_true hdue, decide_eq_true hsamples]
  rfl

/-- A phase before phase 9 that is over gives way to the next (R94). -/
theorem exec_calPhaseEnd_of_early (ms : List CalMeas) (hstopped : (ote s g e).stopped = false) (hvoid : (ote s g e).void = false)
    (hphase : (ote s g e).phase < 9) (hover : phaseOver s.now (ote s g e) = true) : exec (.calPhaseEnd g e ms) s =
      .next (setOte g e (newPhase s.now ((ote s g e).phase + 1) (if (ote s g e).phase = 0 then takeTrims ms (ote s g e) else ote s g e)) s) :=
  (if_neg (by simp [hstopped, hvoid, hover]; omega)).trans (if_pos hphase)

/-- The end of phase 9 of a rotation slot (R96). -/
theorem exec_calPhaseEnd_of_last (m : CalMeas) (hstopped : (ote s g e).stopped = false) (hvoid : (ote s g e).void = false)
    (hphase : (ote s g e).phase = 9) (hcal : (ote s g e).calState = 1) (hover : phaseOver s.now (ote s g e) = true) :
    exec (.calPhaseEnd g e [m]) s = .next (slotEnd g e m s) :=
  (if_neg (by simp [hstopped, hvoid, hover, hphase])).trans ((if_neg (by simp [hphase])).trans ((if_neg (by simp [hcal])).trans (if_pos hcal)))

end

/-- The rows as they stand do not depend on the next swap. -/
theorem makeReady_rows (now : Nat) (o : Ote) : (makeReady now o).rows = o.rows := by
  unfold makeReady
  dsimp only
  by_cases hphase : o.phase = 15
  · simp only [hphase, if_true]
    split <;> rfl
  · simp only [hphase, if_false]
    split <;> rfl

theorem makeReady_phase (now : Nat) (o : Ote) : (makeReady now o).phase = 15 := by
  unfold makeReady
  dsimp only
  by_cases hphase : o.phase = 15
  · simp only [hphase, if_true]
    split
    · exact hphase
    · rfl
  · simp only [hphase, if_false]
    split <;> rfl

/-- A held swap becomes ready with the row that qualifies (R93). -/
theorem makeReady_of_next {now x : Nat} {prio : Bool} {o : Ote} (hphase : o.phase = 15) (hnext : nextRow now o = some (x, prio)) :
    (makeReady now o).swapReady = true ∧ (makeReady now o).nextBench = x ∧ (makeReady now o).readyAt = now := by
  unfold makeReady
  dsimp only
  rw [if_pos hphase, hnext]
  exact ⟨rfl, rfl, rfl⟩

/-- The calibration unit's own LOADW and FLIP go only on the engine's queue (R97). -/
theorem idleLoad_eq (s : State) (g : Nat) (o : Ote) : idleLoad s g o = { o with queue := (idleLoad s g o).queue } := by
  unfold idleLoad
  split <;> rfl

/-- A row flagged goes only on the priority list (R93). -/
theorem flagRow_rows (now row : Nat) (o : Ote) : (flagRow now row o).rows = o.rows := by
  unfold flagRow
  split <;> rfl

@[simp] theorem ote_logCore (g low p0 p1 p2 p3 x y : Nat) (s : State) : ote (logCore g low p0 p1 p2 p3 s) x y = ote s x y := ote_of_cores (by simp) x y

/-- Settles O7: each row by the branch of its command. -/
theorem calibrationComplete : Obligations.CalibrationComplete := by
  unfold Obligations.CalibrationComplete
  refine ⟨fun s g e ms hstopped hvoid hphase hdue hsamples => ?_, fun s g e m hstopped hvoid hphase hcal hdue hsamples => ?_,
    fun s g e m hstopped hvoid hphase hcal hcause hdue hsamples => ?_, fun s g e x prio hcal hphase hready hlatched hnext => ?_,
    fun s g e hphase hstopped hdue hsamples => ?_, fun s g e hswap hdue hroom hrate => ?_, fun s g e v hcore => ?_, fun s g e v hcore => ?_,
    fun s g e row => ?_, fun s c n => ?_, fun s g e row => ?_, fun s g e row hattempts => ?_⟩
  · refine .of_exec (exec_calPhaseEnd_of_early ms hstopped hvoid hphase (phaseOver_of_due hdue hsamples)) ?_
    rw [ote_setOte_same]
    exact ⟨rfl, rfl, rfl⟩
  · refine .of_exec (exec_calPhaseEnd_of_early [m] hstopped hvoid (by omega) (phaseOver_of_due hdue hsamples)) ?_
    have htrims : takeTrims [m] (ote s g e) = { ote s g e with
        rows := Tbl.upd {} (ote s g e).rows (ote s g e).bench fun r => { r with offTrim := m.offTrim } } := if_neg (by simp [hcal])
    rw [ote_setOte_same, if_pos hphase, htrims]
    exact congrArg RowCal.offTrim (Tbl.get_set_same ..)
  · refine .of_exec (exec_calPhaseEnd_of_last m hstopped hvoid hphase hcal (phaseOver_of_due hdue hsamples)) ?_
    unfold slotEnd
    rw [hcause]
    dsimp only
    rw [updOte_eq, ote_setOte_same, idleLoad_eq, makeReady_rows, makeReady_phase]
    rw [Tbl.get_set_same]
    exact ⟨rfl, rfl, rfl, rfl⟩
  · refine .of_exec (if_pos ⟨hcal, hphase, hready, hlatched⟩) ?_
    rw [ote_setOte_same, idleLoad_eq]
    exact makeReady_of_next hphase hnext
  · refine .of_exec (if_pos ⟨hphase, hstopped, hdue, hsamples⟩) ?_
    rw [ote_setOte_same]
  · refine .of_exec (if_pos ⟨hswap, hdue⟩) ?_
    unfold logRate
    rw [if_pos hrate, logRec_of_room _ _ _ _ _ _ (rateMark _ s) hroom]
    rfl
  · refine .of_exec (congrArg Host.Outcome.next (coreWrite_of_coreOn _ _ hcore)) ?_
    rw [ote_setOte_same]
    refine ⟨rfl, ?_⟩
    dsimp only [rowWords]
    by_cases hrow : fld v 0 7 < 65
    · rw [if_neg (Nat.not_le.mpr hrow), if_pos hrow]
    · rw [if_pos (Nat.le_of_not_lt hrow), if_neg hrow]
  · refine .of_exec (congrArg Host.Outcome.next (coreWrite_of_coreOn _ _ hcore)) ?_
    rw [ote_setOte_same]
    exact ⟨rfl, rfl⟩
  · refine .of_exec rfl ?_
    unfold rowLockLost
    dsimp only
    split
    · rw [ote_setOte_same, Tbl.get_set_same]
      exact ⟨rfl, fun _ => rfl⟩
    · next hbench =>
      rw [ote_logCore, updOte_eq, ote_setOte_same, flagRow_rows, ote_setOte_same, Tbl.get_set_same]
      exact ⟨rfl, fun h => absurd h hbench⟩
  · refine .of_exec rfl ?_
    rw [comb_updComb, if_pos rfl]
    exact ⟨rfl, rfl⟩
  · refine .of_exec rfl ?_
    unfold rowPilot
    dsimp only
    rw [ote_setOte_same]
    split <;> exact ⟨congrArg RowCal.unlocked (Tbl.get_set_same ..), congrArg RowCal.attempts (Tbl.get_set_same ..)⟩
  · refine .of_exec rfl ?_
    unfold rowPilot
    dsimp only
    rw [if_neg (Nat.not_le.mpr hattempts), ote_logCore, ote_setOte_same, Tbl.get_set_same]
    exact ⟨rfl, rfl⟩

end Sys2Proof.Machine
end

section
/-! ### OPTIC operations with room, and the phases of loads, flips and an MVM start (R48 to R50, R64, R101, R121, R122) -/

namespace Sys2Proof.Machine

/-- An operation with room on its engine's queue stands last there, and the stream goes on. -/
theorem enqueueOp_of_room {s : State} {g st e : Nat} (kind : OpKind) {f : Stream → Stream} (hrun : (strm s g st).state = .running)
    (hstate : ∀ r, (f r).state = r.state) (hpc : ∀ r, (f r).pc = r.pc) (hroom : (ote s g e).queue.length < 4) :
    Advanced s (enqueueOp g st e kind (strm s g st) f s) g st
      ∧ (ote (enqueueOp g st e kind (strm s g st) f s) g e).queue.map EngOp.kind = (ote s g e).queue.map EngOp.kind ++ [kind] := by
  unfold enqueueOp
  dsimp only
  rw [if_neg (Nat.not_le.mpr hroom)]
  constructor
  · refine advanced_issued ?_ ?_
    · rw [updStrm_eq, strm_setStrm_same, hstate, updOte_eq, strm_setOte, hrun]
    · rw [updStrm_eq, strm_setStrm_same, hpc, updOte_eq, strm_setOte]
  · simp

section
variable {w : IWord}

@[simp] theorem loadwAinc_state (a : Nat) (r : Stream) : (loadwAinc w a r).state = r.state := by
  unfold loadwAinc
  split <;> simp

@[simp] theorem loadwAinc_pc (a : Nat) (r : Stream) : (loadwAinc w a r).pc = r.pc := by
  unfold loadwAinc
  split <;> simp

@[simp] theorem mvmAfter_state (s : State) (g st : Nat) (r : Stream) : (mvmAfter s g st w r).state = r.state := by
  unfold mvmAfter mvmAinc
  split <;> simp

@[simp] theorem mvmAfter_pc (s : State) (g st : Nat) (r : Stream) : (mvmAfter s g st w r).pc = r.pc := by
  unfold mvmAfter mvmAinc
  split <;> simp

end

/-! The front operation of an engine -/

section
variable {s : State} {g : Core} {e : Eng} {q : EngOp} {qs : List EngOp}

theorem opIndex_front {o : Ote} (hqueue : o.queue = q :: qs) {f : EngOp → Bool} (hf : f q = true) : opIndex o f = some 0 := by
  unfold opIndex
  rw [hqueue, List.findIdx?_cons, if_pos hf]

theorem opAt_front {o : Ote} (hqueue : o.queue = q :: qs) : o.queue[0]? = some q := by
  rw [hqueue]
  rfl

theorem queue_setOp_front {o : Ote} (hqueue : o.queue = q :: qs) (x : EngOp) : (setOp 0 x o).queue = x :: qs := by
  unfold setOp
  rw [hqueue]
  rfl

theorem queue_endOp_front {o : Ote} (hqueue : o.queue = q :: qs) : (endOp 0 o).queue = qs := by
  unfold endOp
  rw [hqueue]
  rfl

theorem exec_loadwReadStart_of_front (hqueue : (ote s g e).queue = q :: qs) (hload : isLoadw q = true) (hphase : q.phase = 0) :
    exec (.loadwReadStart g e) s =
      .next (updOte g e (fun o => { o with queue := o.queue.modify 0 fun q => { q with phase := 1, at_ := s.now } }) s) := by
  change execLoadwReadStart g e s = _
  unfold execLoadwReadStart
  dsimp only
  rw [opIndex_front hqueue (by rw [hload, hphase]; rfl)]
  rfl

theorem exec_loadwReadEnd_of_front {a : Nat} {d : Bool} (hqueue : (ote s g e).queue = q :: qs) (hkind : q.kind = .loadw a d)
    (hphase : q.phase = 1) (hcal : q.cal = false) (hgood : badByte s (sramKey g a) 4160 = none) : exec (.loadwReadEnd g e .clean) s =
      .next (updOte g e (setOp 0 { q with phase := 2, at_ := s.now, buf := s.mem.readN (sramKey g a) 4160 }) s) := by
  change execLoadwReadEnd g e .clean s = _
  unfold execLoadwReadEnd
  rw [opIndex_front hqueue (by simp [isLoadw, hkind, hphase])]
  dsimp only
  rw [opAt_front hqueue]
  dsimp only
  rw [hkind]
  dsimp only
  rw [if_neg (by simp [hcal]), applyEcc_clean, hgood]

theorem exec_loadwWriteStart_of_front {a : Nat} (hqueue : (ote s g e).queue = q :: qs) (hkind : q.kind = .loadw a false)
    (hphase : q.phase = 2) (hfailed : q.failed = false) : exec (.loadwWriteStart g e) s =
      .next (updOte g e (fun o => { setOp 0 { q with phase := 3, at_ := s.now } o with
        swapLatched := o.swapLatched || o.swapReady, swapReady := false }) s) := by
  change execLoadwWriteStart g e s = _
  unfold execLoadwWriteStart
  dsimp only
  rw [opIndex_front hqueue (by simp [isLoadw, hkind])]
  dsimp only
  rw [opAt_front hqueue]
  dsimp only
  rw [hkind]
  exact (if_neg (not_not_intro hphase)).trans ((if_neg (by simp [hfailed])).trans (if_neg Bool.false_ne_true))

theorem exec_loadwComplete_of_front (hqueue : (ote s g e).queue = q :: qs) (hload : isLoadw q = true) (hphase : q.phase = 3) :
    exec (.loadwComplete g e) s = .next (updOte g e (fun o => { endOp 0 o with shadow := loadedPlane (ote s g e) q }) s) := by
  change execLoadwComplete g e s = _
  unfold execLoadwComplete
  dsimp only
  rw [opIndex_front hqueue (by simp [hload, hphase])]
  dsimp only
  rw [opAt_front hqueue]
  rfl

theorem exec_flipStart_of_front (hqueue : (ote s g e).queue = q :: qs) (hflip : isFlip q = true) (hphase : q.phase = 0)
    (hcopy : (ote s g e).copying = false) (hheld : (ote s g e).held = false) : exec (.flipStart g e) s =
      .next (discardShadow g e (updOte g e (setOp 0 { q with phase := 1, at_ := s.now }) s)) := by
  change execFlipStart g e s = _
  unfold execFlipStart
  dsimp only
  rw [opIndex_front hqueue hflip]
  dsimp only
  rw [opAt_front hqueue]
  exact if_pos ⟨hphase, hcopy, hheld, rfl, rfl⟩

/-- Shadow vectors not yet started go, and are counted (R101). -/
theorem discardShadow_reads (g e : Nat) (s : State) : (ote (discardShadow g e s) g e).queue = (ote s g e).queue
    ∧ (ote (discardShadow g e s) g e).shadowQ = []
    ∧ (core (discardShadow g e s) g).shadowDrop = satAdd 0xFFFF (core s g).shadowDrop (ote s g e).shadowQ.length := by
  unfold discardShadow
  dsimp only
  have hcores := fun (n : Nat) (u : State) => countCoreN_cores g 0x0D e n u
  rw [ote_of_cores (hcores _ _), core_of_cores (hcores _ _)]
  simp [updCore, ote]

theorem exec_flipComplete_of_front (hqueue : (ote s g e).queue = q :: qs) (hflip : isFlip q = true) (hphase : q.phase = 1) :
    exec (.flipComplete g e) s = .next (updOte g e (fun o =>
      if o.swapLatched then applySwap s.now { endOp 0 o with live := o.shadow, shadow := o.live }
      else { endOp 0 o with live := o.shadow, shadow := o.live }) s) := by
  change execFlipComplete g e s = _
  unfold execFlipComplete
  dsimp only
  rw [opIndex_front hqueue (by simp [hflip, hphase])]
  rfl

/-- The run of an MVM as it starts: the live plane and the row map as they are (R64, R122). -/
def startedRun (o : Ote) (p : MvmP) : MvmRun :=
  { plane := o.live, map := o.map, bench := o.bench, digital := p.tol == 7 || (o.live.digitalOnly && p.tol != 8),
    skip := o.live.digitalOnly && p.tol == 8 }

/-- The engine as an MVM starts on it. -/
def startedOte (now : Nat) (q : EngOp) (p : MvmP) (o : Ote) : Ote :=
  { setOp 0 { q with phase := 1, at_ := now, run := startedRun o p } (boundary now o) with digMvms := o.digMvms + b2n o.live.digitalOnly }

theorem exec_mvmStart_of_front {p : MvmP} (hqueue : (ote s g e).queue = q :: qs) (hkind : q.kind = .mvm p) (hphase : q.phase = 0)
    (hheld : (ote s g e).held = false) : exec (.mvmStart g e) s =
      .next (if (ote s g e).live.digitalOnly then
          logRate (0x8044 * 4096 + g.val * 4 + e.val) 10000000 (hcode (coreHalf g) 0x44) g e p.tol p.count 0
            (setOte g e (startedOte s.now q p (ote s g e)) s)
        else setOte g e (startedOte s.now q p (ote s g e)) s) := by
  change execMvmStart g e s = _
  unfold execMvmStart
  dsimp only
  rw [opIndex_front hqueue (by simp [isLoadw, hkind, hphase])]
  dsimp only
  rw [opAt_front hqueue]
  dsimp only
  rw [hkind]
  dsimp only
  rw [if_neg, ← hkind]
  · rfl
  rintro (h | h | ⟨h, -⟩)
  · exact Bool.false_ne_true h
  · exact Bool.false_ne_true h.symm
  · exact Bool.false_ne_true (hheld.symm.trans h)

end

/-- Settles O5: an issue with room, then each phase of the engine's front operation. -/
theorem opticLoadsComplete : Obligations.OpticLoadsComplete := by
  unfold Obligations.OpticLoadsComplete
  refine ⟨fun s g st w a h ha halign hfits hroom => ?_, fun s g st w h hroom => ?_, fun s g st w p h hp hbad hout hroom => ?_,
    fun s g e q qs hqueue hload hphase => ?_, fun s g e q qs a d hqueue hkind hphase hcal hgood => ?_,
    fun s g e q qs a hqueue hkind hphase hfailed => ?_, fun s g e q qs hqueue hload hphase hcal => ?_,
    fun s g e q qs hqueue hflip hphase hcopy hheld => ?_, fun s g e q qs hqueue hflip hphase => ?_, fun s g e => ?_,
    fun s g e q qs p hqueue hkind hphase hheld => ?_⟩
  · subst ha
    exact .of_exec ((exec_loadw_of_issues h).trans (congrArg Host.Outcome.next ((if_neg (not_not_intro halign)).trans (if_neg (Nat.not_lt.mpr hfits)))))
      (enqueueOp_of_room _ h.1 (fun r => loadwAinc_state _ r) (fun r => loadwAinc_pc _ r) hroom)
  · exact .of_exec (exec_flip_of_issues h) (enqueueOp_of_room _ h.1 (fun _ => rfl) (fun _ => rfl) hroom)
  · subst hp
    refine .of_exec ((exec_mvm_of_issues h).trans (by rw [hbad, hout]))
      (enqueueOp_of_room _ h.1 (fun r => mvmAfter_state s g st r) (fun r => mvmAfter_pc s g st r) hroom)
  · refine .of_exec (exec_loadwReadStart_of_front hqueue hload hphase) ?_
    rw [updOte_eq, ote_setOte_same]
    dsimp only
    rw [hqueue]
    rfl
  · refine .of_exec (exec_loadwReadEnd_of_front hqueue hkind hphase hcal hgood) ?_
    rw [updOte_eq, ote_setOte_same, queue_setOp_front hqueue]
  · refine .of_exec (exec_loadwWriteStart_of_front hqueue hkind hphase hfailed) ?_
    rw [updOte_eq, ote_setOte_same]
    exact ⟨queue_setOp_front hqueue _, rfl, rfl⟩
  · refine .of_exec (exec_loadwComplete_of_front hqueue hload hphase) ?_
    rw [updOte_eq, ote_setOte_same, loadedPlane, if_neg (by simp [hcal])]
    exact ⟨queue_endOp_front hqueue, rfl, rfl, rfl, rfl⟩
  · refine .of_exec (exec_flipStart_of_front hqueue hflip hphase hcopy hheld) ?_
    obtain ⟨hq, hshadow, hdrop⟩ := discardShadow_reads g e (updOte g e (setOp 0 { q with phase := 1, at_ := s.now }) s)
    rw [hq, hshadow, hdrop, updOte_eq, ote_setOte_same, core_setOte, if_pos rfl]
    exact ⟨queue_setOp_front hqueue _, rfl, rfl⟩
  · refine .of_exec (exec_flipComplete_of_front hqueue hflip hphase) ?_
    rw [updOte_eq, ote_setOte_same]
    split
    · exact ⟨queue_endOp_front hqueue, rfl, rfl, fun _ => ⟨rfl, rfl, rfl, rfl⟩⟩
    · next hlatched => exact ⟨queue_endOp_front hqueue, rfl, rfl, fun h => absurd h hlatched⟩
  · refine .of_exec rfl ?_
    rw [updOte_eq, ote_setOte_same]
    exact ⟨rfl, rfl⟩
  · refine .of_exec (exec_mvmStart_of_front hqueue hkind hphase hheld) ⟨startedRun (ote s g e) p, ?_, rfl, rfl, rfl, rfl, rfl⟩
    have hote : ∀ u : State, ote (if (ote s g e).live.digitalOnly then
        logRate (0x8044 * 4096 + g.val * 4 + e.val) 10000000 (hcode (coreHalf g) 0x44) g e p.tol p.count 0 u else u) g e = ote u g e := by
      intro u
      split
      · exact ote_of_cores (by simp) ..
      · rfl
    rw [hote, ote_setOte_same]
    exact queue_setOp_front (o := boundary s.now (ote s g e)) hqueue _

end Sys2Proof.Machine
end

section
/-! ### Results, the reissue procedure, the DVE and the digital shadow (R55, R60, R65, R80, R87 to R91, R101) -/

namespace Sys2Proof.Machine

/-! Stores and the write buffer -/

@[simp] theorem ote_store (a : Nat) (bs : List Byte) (g e : Nat) (s : State) : ote (store a bs s) g e = ote s g e := by
  have hcopy : ∀ n, (copyAhead a n s).cores = s.cores := fun n => (copyAhead_law ..).1 .cores (by decide)
  have hgather : ∀ (n : Nat) (u : State), (gatherRange a n u).cores = u.cores := fun n u => (gatherRange_law ..).1 .cores (by decide)
  unfold store
  dsimp only
  split
  · have hwrite : ∀ u : State, (writeMem a bs u).cores = u.cores := fun _ => rfl
    exact ote_of_cores ((hgather _ _).trans ((hwrite _).trans (hcopy _))) g e
  · rfl
  · rw [updCore, ote_setCore]
    split
    · next hg => rw [hg]; rfl
    · rfl
  · rfl

theorem inv_store {s : State} (h : Inv s) (a : Nat) (bs : List Byte) : Inv (store a bs s) := (store_law ..).2 h

theorem flushTiles_buffer (g e : Nat) (s : State) : (ote (flushTiles g e s) g e).wbuf = [] ∧ (ote (flushTiles g e s) g e).paused = false := by
  unfold flushTiles
  rw [updOte_eq, ote_setOte_same]
  exact ⟨rfl, rfl⟩

/-- Of its engine a flush changes the write buffer and the pause alone. -/
theorem flushTiles_queue (g e : Nat) (s : State) : (ote (flushTiles g e s) g e).queue = (ote s g e).queue := by
  have hfold : ote ((ote s g e).wbuf.foldl (fun s t =>
      store (sramKey g t.wordAddr) (toBytes t.word 2) (store (sramKey g t.addr) t.bytes s)) s) g e = ote s g e :=
    foldl_keeps (read := fun u : State => ote u g e) (f := fun s (t : Tile) =>
      store (sramKey g t.wordAddr) (toBytes t.word 2) (store (sramKey g t.addr) t.bytes s)) (fun u t => by simp only [ote_store]) _ _
  unfold flushTiles
  dsimp only
  rw [updOte_eq, ote_setOte_same, hfold]

/-- The one tile of the write buffer stands in SRAM with its residual word. -/
theorem flushTiles_of_one {s : State} {g e : Nat} {x : Tile} (hinv : Inv s) (hbuf : (ote s g e).wbuf = [x]) (hapart : x.addr + x.bytes.length ≤ x.wordAddr) :
    (flushTiles g e s).mem.readN (sramKey g x.addr) x.bytes.length = x.bytes
      ∧ (flushTiles g e s).mem.readN (sramKey g x.wordAddr) 2 = toBytes x.word 2 := by
  have hmem : (flushTiles g e s).mem = (store (sramKey g x.wordAddr) (toBytes x.word 2) (store (sramKey g x.addr) x.bytes s)).mem := by
    have hset : ∀ (o : Ote) (u : State), (setOte g e o u).mem = u.mem := fun _ _ => rfl
    unfold flushTiles
    rw [hbuf, updOte_eq, hset, List.foldl_cons, List.foldl_nil]
  have hkeys : sramKey g x.addr + x.bytes.length ≤ sramKey g x.wordAddr := by
    unfold sramKey
    omega
  rw [hmem]
  generalize sramKey g x.addr = a at hkeys ⊢
  generalize sramKey g x.wordAddr = b at hkeys ⊢
  constructor
  · rw [Memory.readN_congr fun i hi => read_store_outside b (a + i) (toBytes x.word 2) _ (.inl (by omega))]
    exact readN_store hinv a x.bytes
  · have hword := readN_store (inv_store hinv a x.bytes) b (toBytes x.word 2)
    rwa [length_toBytes] at hword

/-! A tile's final result -/

/-- What a final result leaves of its MVM's operation (R60, R89). -/
def finalOp (now : Nat) (nan fell : Bool) (tile : List Byte × Nat × Nat) (q : EngOp) : EngOp :=
  { q with at_ := now, run := { q.run with
    tiles := q.run.tiles + 1, ovf := q.run.ovf + tile.2.1, udf := q.run.udf + tile.2.2, nan := q.run.nan + b2n nan, fell := q.run.fell || fell } }

/-- The engine before the tile of an accepted result is handed to the write buffer. -/
theorem finalTile_of_accepted (g e i v : Nat) (p : MvmP) (held clip aged nan : Bool) (src est : Nat) (fell : Bool) (tile : List Byte × Nat × Nat) (s : State) :
    ∃ u : State, ote u g e = { ote s g e with queue := (ote s g e).queue.modify i (finalOp s.now nan fell tile) }
      ∧ finalTile g e i v p held clip false aged nan src est fell tile s =
        putTile g e held ⟨p.outA + v * p.outStride, tile.1, p.resA + 2 * v, resWord clip false aged nan src est⟩ u := by
  refine ⟨_, ?_, rfl⟩
  dsimp only
  rw [if_neg Bool.false_ne_true]
  split <;> split <;> simp only [ote_countCore, updOte_eq, ote_setOte_same] <;> rfl

/-- A tile that SRAM does not take waits in the write buffer. -/
theorem putTile_held (g e : Nat) (t : Tile) (s : State) : (ote (putTile g e true t s) g e).queue = (ote s g e).queue
    ∧ (ote (putTile g e true t s) g e).wbuf = (ote s g e).wbuf ++ [t] := by
  unfold putTile
  simp

/-- A tile that SRAM takes is written behind the buffered ones. -/
theorem putTile_taken (g e : Nat) (t : Tile) (s : State) : (ote (putTile g e false t s) g e).queue = (ote s g e).queue
    ∧ (ote (putTile g e false t s) g e).wbuf = [] ∧ (ote (putTile g e false t s) g e).paused = false := by
  unfold putTile
  dsimp only
  rw [if_neg Bool.false_ne_true, flushTiles_queue, ote_setOte_same]
  exact ⟨rfl, flushTiles_buffer ..⟩

section
variable (g e i v : Nat) (p : MvmP) (clip aged nan : Bool) (src est : Nat) (fell : Bool) (tile : List Byte × Nat × Nat) (s : State)

theorem finalTile_held_queue : (ote (finalTile g e i v p true clip false aged nan src est fell tile s) g e).queue =
    (ote s g e).queue.modify i (finalOp s.now nan fell tile) := by
  obtain ⟨u, hu, hfinal⟩ := finalTile_of_accepted g e i v p true clip aged nan src est fell tile s
  rw [hfinal, (putTile_held ..).1, hu]

theorem finalTile_held_wbuf : (ote (finalTile g e i v p true clip false aged nan src est fell tile s) g e).wbuf =
    (ote s g e).wbuf ++ [⟨p.outA + v * p.outStride, tile.1, p.resA + 2 * v, resWord clip false aged nan src est⟩] := by
  obtain ⟨u, hu, hfinal⟩ := finalTile_of_accepted g e i v p true clip aged nan src est fell tile s
  rw [hfinal, (putTile_held ..).2, hu]

theorem finalTile_taken : (ote (finalTile g e i v p false clip false aged nan src est fell tile s) g e).queue =
      (ote s g e).queue.modify i (finalOp s.now nan fell tile)
    ∧ (ote (finalTile g e i v p false clip false aged nan src est fell tile s) g e).wbuf = []
    ∧ (ote (finalTile g e i v p false clip false aged nan src est fell tile s) g e).paused = false := by
  obtain ⟨u, hu, hfinal⟩ := finalTile_of_accepted g e i v p false clip aged nan src est fell tile s
  obtain ⟨hqueue, hbuf⟩ := putTile_taken g e ⟨p.outA + v * p.outStride, tile.1, p.resA + 2 * v, resWord clip false aged nan src est⟩ u
  rw [hfinal, hqueue, hu]
  exact ⟨rfl, hbuf⟩

end

/-! The result of a vector (R55, R56) -/

theorem adcOf_range (draw : Nat) (exact : Int) (g : Nat) : -128 ≤ adcOf draw exact g ∧ adcOf draw exact g ≤ 127 := by
  unfold adcOf
  split_ifs <;> omega

/-- The codes of an optical result lie in the ADC's range, and are 0 on a plane that no LOADW has written. -/
theorem optical_codes (s : State) (g e : Nat) (run : MvmRun) (p : MvmP) (k : Nat) (vec : List Byte) :
    (∀ c ∈ (optical s g e run p k vec).codes, -128 ≤ c ∧ c ≤ 127)
      ∧ (run.plane.written = false → ∀ c ∈ (optical s g e run p k vec).codes, c = 0) := by
  unfold optical
  dsimp only
  constructor
  · intro c hc
    obtain ⟨x, -, rfl⟩ := List.mem_map.mp hc
    split
    · exact adcOf_range ..
    · decide
  · intro hwritten c hc
    obtain ⟨x, -, rfl⟩ := List.mem_map.mp hc
    exact if_neg (by simp [hwritten])

/-- A sample of the calibration unit changes neither the operations nor the write buffer (R94). -/
theorem takeSample_keeps (draw : Nat) (p : MvmP) (k : Nat) (a : Aligned) (o : Ote) :
    (takeSample draw p k a o).queue = o.queue ∧ (takeSample draw p k a o).wbuf = o.wbuf := by
  unfold takeSample
  dsimp only
  split_ifs <;> exact ⟨rfl, rfl⟩

section
variable {s : State} {g : Core} {e : Eng} {q : EngOp} {qs : List EngOp} {p : MvmP}

theorem exec_outputTileReady_of_front (hqueue : (ote s g e).queue = q :: qs) (hkind : q.kind = .mvm p) (htile : tileOp (ote s g e) = some 0)
    (hpaused : (ote s g e).paused = false) (hpause : (ote s g e).hoPause = false)
    (hgood : badByte s (sramKey g (p.inA + (nextVec q p).1 * p.inStride)) 66 = none) (held : Bool) :
    exec (.outputTileReady g e held .clean) s = .next (formTile g e 0 q p held s) := by
  change execOutputTileReady g e held .clean s = _
  unfold execOutputTileReady
  dsimp only
  rw [htile]
  dsimp only
  rw [opAt_front hqueue]
  dsimp only
  rw [hkind]
  dsimp only
  rw [if_neg (by simp [hpaused, hpause]), applyEcc_clean, hgood]

/-- The run of an MVM whose next vector, in order, has its first result. -/
def formedRun (clips flush : Nat) (r : MvmRun) : MvmRun := { r with next := r.next + 1, clip := r.clip + clips, flush := r.flush + flush }

/-- The exposure's tile is handed to the write buffer, whatever the estimate's code. -/
theorem finalTile_of_exposure {u : State} {now clips flush : Nat} {buf : List Tile} {codes : List Int} (clip aged nan : Bool) (est : Nat)
    (hnow : u.now = now) (hqueue : (ote u g e).queue = { q with at_ := now, run := formedRun clips flush q.run } :: qs)
    (hbuf : (ote u g e).wbuf = buf) (hrange : ∀ c ∈ codes, -128 ≤ c ∧ c ≤ 127) (hzero : q.run.plane.written = false → ∀ c ∈ codes, c = 0) :
    ∃ (r : MvmRun) (codes' : List Int) (word : Nat),
      (ote (finalTile g e 0 q.run.next p true clip false aged nan 0 est false (exposeTile codes q.run.bench, 0, 0) u) g e).queue =
        { q with at_ := now, run := r } :: qs
      ∧ r.next = q.run.next + 1 ∧ (∀ c ∈ codes', -128 ≤ c ∧ c ≤ 127) ∧ (q.run.plane.written = false → ∀ c ∈ codes', c = 0)
      ∧ (ote (finalTile g e 0 q.run.next p true clip false aged nan 0 est false (exposeTile codes q.run.bench, 0, 0) u) g e).wbuf =
        buf ++ [⟨p.outA + q.run.next * p.outStride, codes'.map (BitVec.ofInt 8 ·) ++ [BitVec.ofNat 8 q.run.bench, 0],
          p.resA + 2 * q.run.next, word⟩] := by
  refine ⟨(finalOp now nan false (exposeTile codes q.run.bench, 0, 0) { q with at_ := now, run := formedRun clips flush q.run }).run,
    codes, resWord clip false aged nan 0 est, ?_, rfl, hrange, hzero, ?_⟩
  · rw [finalTile_held_queue, hqueue, hnow]
    rfl
  · rw [finalTile_held_wbuf, hbuf]
    rfl

/-- An exposure's vector leaves its raw codes with the number of the benchmark row in the write buffer (R91). -/
theorem formTile_of_exposure (hqueue : (ote s g e).queue = q :: qs) (hreissuing : q.run.reissuing = false) (htol : p.tol = 8) :
    ∃ (r : MvmRun) (codes : List Int) (word : Nat), (ote (formTile g e 0 q p true s) g e).queue = { q with at_ := s.now, run := r } :: qs
      ∧ r.next = q.run.next + 1 ∧ (∀ c ∈ codes, -128 ≤ c ∧ c ≤ 127) ∧ (q.run.plane.written = false → ∀ c ∈ codes, c = 0)
      ∧ (ote (formTile g e 0 q p true s) g e).wbuf = (ote s g e).wbuf ++ [⟨p.outA + q.run.next * p.outStride,
          codes.map (BitVec.ofInt 8 ·) ++ [BitVec.ofNat 8 q.run.bench, 0], p.resA + 2 * q.run.next, word⟩] := by
  have hvec : nextVec q p = (q.run.next, p.k, false) := if_neg (by simp [hreissuing])
  have htake : takeVec q = { q with run := { q.run with next := q.run.next + 1 } } := if_neg (by simp [hreissuing])
  unfold formTile
  rw [hvec]
  dsimp only
  obtain ⟨hrange, hzero⟩ := optical_codes s g e q.run p p.k (s.mem.readN (sramKey g (p.inA + q.run.next * p.inStride)) 66)
  generalize optical s g e q.run p p.k (s.mem.readN (sramKey g (p.inA + q.run.next * p.inStride)) 66) = r at hrange hzero ⊢
  rw [if_neg (by simp [hreissuing]), shadowSelect, if_pos (by rw [htol]; decide), judgeFirst]
  dsimp only
  rw [if_pos htol]
  refine finalTile_of_exposure (clips := (r.codes.filter fun c => c = -128 ∨ c = 127).length) (flush := r.align.flush) _ _ _ _ ?_ ?_ ?_ hrange hzero
  · simp
  · have hfront : (ote s g e).queue.modify 0 = (q :: qs).modify 0 := by rw [hqueue]
    rw [ote_countCore, updOte_eq, ote_setOte_same, (takeSample_keeps ..).1]
    change (ote s g e).queue.modify 0 _ = _
    rw [hfront, List.modify_zero_cons, htake]
    dsimp only
    rw [if_neg (by simp [hreissuing])]
    rfl
  · rw [ote_countCore, updOte_eq, ote_setOte_same, (takeSample_keeps ..).2]
    rfl

/-- An MVM whose tiles all hold their final results ends with its summary record in SRAM (R60). -/
theorem does_mvmComplete_of_front (hinv : Inv s) (hqueue : (ote s g e).queue = q :: qs) (hkind : q.kind = .mvm p) (hphase : q.phase = 1)
    (hdone : mvmDone p q.run = true) (hbuf : (ote s g e).wbuf = []) (hstop : q.run.stopAt = none) :
    Does (.mvmComplete g e) s fun t => (ote t g e).queue = qs ∧ t.mem.readN (sramKey g (summaryOff p)) 16 = summary p q.run := by
  have hexec : exec (.mvmComplete g e) s = .next (updCore g (sampledMvm q.pc q.run p.k)
      (updOte g e (fun o => endOp 0 (boundary s.now o)) (store (sramKey g (summaryOff p)) (summary p q.run) s))) := by
    change execMvmComplete g e s = _
    unfold execMvmComplete
    dsimp only
    rw [opIndex_front hqueue (by simp [isLoadw, isFlip, hkind])]
    dsimp only
    rw [opAt_front hqueue]
    dsimp only
    rw [hkind]
    dsimp only
    rw [if_pos ⟨hphase, hdone, by rw [hbuf]; rfl⟩, hstop]
  have hlength : (summary p q.run).length = 16 := by simp [summary]
  have hmem : ∀ (f : CoreSt → CoreSt) (h : Ote → Ote) (u : State), (updCore g f (updOte g e h u)).mem = u.mem := fun _ _ _ => rfl
  refine .of_exec hexec ⟨?_, ?_⟩
  · have hsampled : ∀ u : State, ote (updCore g (sampledMvm q.pc q.run p.k) u) g e = ote u g e := fun u => by
      rw [updCore, ote_setCore, if_pos rfl]
      rfl
    rw [hsampled, updOte_eq, ote_setOte_same, ote_store]
    exact queue_endOp_front (o := boundary s.now (ote s g e)) hqueue
  · have hread := readN_store hinv (sramKey g (summaryOff p)) (summary p q.run)
    rwa [hlength, ← hmem] at hread

/-! The reissue procedure (R87) -/

theorem onReissue_front (hqueue : (ote s g e).queue = q :: qs) (hkind : q.kind = .mvm p) (hphase : q.phase = 1) (hraise : canRaise p = true)
    (hdigital : q.run.digital = false) (hdone : q.run.done = false) {ok : MvmP → MvmRun → Bool} (hok : ok p q.run = true)
    (f : MvmP → MvmRun → MvmRun) : (ote (onReissue g e s ok f) g e).queue = { q with run := f p q.run } :: qs := by
  have hindex : reissueOp (ote s g e) = some 0 := opIndex_front hqueue (by simp [hkind, hphase, hraise, hdigital, hdone])
  unfold onReissue
  dsimp only
  rw [hindex]
  dsimp only
  rw [opAt_front hqueue]
  dsimp only
  rw [hkind]
  dsimp only
  rw [if_pos hok, ote_setOte_same, ← hkind]
  exact queue_setOp_front hqueue _

/-! The DVE (R88) -/

/-- The tile of a fallback vector goes to SRAM with those that wait, whatever its bytes. -/
theorem finalTile_of_recomputed {u : State} {now : Nat} {xs : List (Nat × Bool × Bool)} (hnow : u.now = now)
    (hqueue : (ote u g e).queue = { q with run := { q.run with dve := xs } } :: qs) (v src est : Nat) (clip aged nan : Bool)
    (tile : List Byte × Nat × Nat) {fell : Bool} (hfell : fell = true) :
    (∃ r : MvmRun, (ote (finalTile g e 0 v p false clip false aged nan src est fell tile u) g e).queue = { q with at_ := now, run := r } :: qs
      ∧ r.dve = xs ∧ r.next = q.run.next ∧ r.fell = true)
    ∧ (ote (finalTile g e 0 v p false clip false aged nan src est fell tile u) g e).wbuf = []
    ∧ (ote (finalTile g e 0 v p false clip false aged nan src est fell tile u) g e).paused = false := by
  obtain ⟨hq, hbuffer⟩ := finalTile_taken g e 0 v p clip aged nan src est fell tile u
  refine ⟨⟨(finalOp now nan fell tile { q with run := { q.run with dve := xs } }).run, ?_, rfl, rfl, ?_⟩, hbuffer⟩
  · rw [hq, hqueue, hnow]
    rfl
  · subst hfell
    exact Bool.or_true _

/-- The DVE forms the result of a vector whose bytes can be read. -/
theorem dveStep_of_readable {i : Nat} (hgood : badByte s (sramKey g (p.inA + (q.run.dve.headD (q.run.next, false, false)).1 * p.inStride)) 66 = none) :
    dveStep g e i .clean q p s = dveTile g e i q p s := by
  rw [dveStep, applyEcc_clean, hgood]

/-- A vector that fell back to the DVE ends with its exact result, and the write buffer empties with it. -/
theorem does_dveRecomputeDone_of_front {v : Nat} {clip aged : Bool} {xs : List (Nat × Bool × Bool)} (hqueue : (ote s g e).queue = q :: qs)
    (hkind : q.kind = .mvm p) (hphase : q.phase = 1) (hskip : q.run.skip = false) (hdve : q.run.dve = (v, clip, aged) :: xs)
    (hgood : badByte s (sramKey g (p.inA + v * p.inStride)) 66 = none) :
    Does (.dveRecomputeDone g e .clean) s fun t => (∃ r : MvmRun, (ote t g e).queue = { q with at_ := s.now, run := r } :: qs ∧ r.dve = xs
      ∧ r.next = q.run.next ∧ r.fell = true) ∧ (ote t g e).wbuf = [] ∧ (ote t g e).paused = false := by
  have hindex : dveOp (ote s g e) = some 0 := opIndex_front hqueue (by simp [hkind, hphase, hskip, hdve])
  refine .of_exec (t := dveTile g e 0 q p s) ?_ ?_
  · change execDveRecomputeDone g e .clean s = _
    unfold execDveRecomputeDone
    dsimp only
    rw [hindex]
    dsimp only
    rw [opAt_front hqueue]
    dsimp only
    rw [hkind]
    dsimp only
    rw [dveStep_of_readable (by rw [hdve]; exact hgood)]
  · unfold dveTile
    dsimp only
    rw [show (!q.run.dve.isEmpty) = true by simp [hdve], if_pos rfl]
    refine finalTile_of_recomputed (xs := xs) ?_ ?_ _ _ _ _ _ _ _ rfl
    · simp
    · have hfront : (ote s g e).queue.modify 0 = (q :: qs).modify 0 := by rw [hqueue]
      rw [ote_countCore, updOte_eq, ote_setOte_same]
      dsimp only
      rw [hfront, List.modify_zero_cons, hdve]
      rfl

end

/-! The digital shadow (R80, R101) -/

/-- What the shadow keeps of its vectors: those that wait, and the two histories. -/
def shadowState (o : Ote) : List ShadowVec × List (Nat × Nat) × List (Nat × Nat) := (o.shadowQ, o.histF, o.histT)

theorem shadowState_gainRow (now g : Nat) (o : Ote) (x : Nat × Int × Int × Nat) : shadowState (gainRow now g o x) = shadowState o := by
  unfold gainRow flagRow
  dsimp only
  split_ifs <;> rfl

/-- A forward vector that the DVE has finished joins the history of its direction. -/
theorem does_shadowVectorDone_of_forward {s : State} {g : Core} {e : Eng} {v : ShadowVec} {vs : List ShadowVec} (hqueue : (ote s g e).shadowQ = v :: vs)
    (hforward : v.trans = false) : Does (.shadowVectorDone g e) s fun t => (ote t g e).shadowQ = vs ∧ (ote t g e).histT = (ote s g e).histT
      ∧ (ote t g e).histF = (((v.rows.map fun x => (x.2.2.1 - x.2.1).natAbs ^ 2).foldl (· + ·) 0 * 1000000000000, v.varSum)
          :: (ote s g e).histF).take 64 := by
  have hlog : ∀ (c : Prop) [Decidable c] (p1 p2 p3 : Nat) (u : State), ote (if c then
      logRate (0x8020 * 4096 + g.val * 4 + e.val) 10000000 (hcode (coreHalf g) 0x20) g e p1 p2 p3 u else u) g e = ote u g e := by
    intro c _ p1 p2 p3 u
    split
    · exact ote_of_cores (by simp) ..
    · rfl
  have hgain : ∀ o : Ote, shadowState (v.rows.foldl (gainRow s.now v.g) o) = shadowState o := fun o =>
    foldl_keeps (read := shadowState) (shadowState_gainRow s.now v.g) v.rows o
  refine .of_exec (by
    change execShadowVectorDone g e s = _
    rw [execShadowVectorDone, hqueue]) ?_
  rw [hlog, ote_setOte_same]
  simp only [hforward, Bool.false_eq_true, if_false]
  exact ⟨congrArg (fun x => x.1) (hgain _), congrArg (fun x => x.2.2) (hgain _), congrArg (fun x => x.2.1) (hgain _)⟩

/-- Settles O6: each row from the front operation of its engine, the shadow's and the record's from the engine alone. -/
theorem opticResultsComplete : Obligations.OpticResultsComplete := by
  unfold Obligations.OpticResultsComplete
  refine ⟨fun s g e q qs p hqueue hkind hphase hdigital hskip hreissuing hnext hfed hstop hpaused hpause hgood htol => ?_,
    fun s g e x hinv hbuf hapart => ?_,
    fun s g e q qs p hinv hqueue hkind hphase hdone hbuf hstop => does_mvmComplete_of_front hinv hqueue hkind hphase hdone hbuf hstop,
    fun s g e q qs p hqueue hkind hphase hraise hdigital hdone hfeed hreissuing hover => ?_,
    fun s g e q qs p hqueue hkind hphase hraise hdigital hdone hfeed hreissuing hlist hfed => ?_,
    fun s g e q qs p hqueue hkind hphase hraise hdigital hdone hreissuing hlist => ?_,
    fun s g e q qs p v clip aged xs hqueue hkind hphase hskip hdve hgood => does_dveRecomputeDone_of_front hqueue hkind hphase hskip hdve hgood,
    fun s g e v vs hqueue hforward => does_shadowVectorDone_of_forward hqueue hforward, fun s g e hfails hrate hroom => ?_⟩
  · have hvec : nextVec q p = (q.run.next, p.k, false) := if_neg (by simp [hreissuing])
    have htile : tileOp (ote s g e) = some 0 :=
      opIndex_front hqueue (by simp [hkind, hphase, hdigital, hskip, hreissuing, hnext, hfed, hstop])
    exact .of_exec (exec_outputTileReady_of_front hqueue hkind htile hpaused hpause (by rw [hvec]; exact hgood) true)
      (formTile_of_exposure hqueue hreissuing htol)
  · obtain ⟨hempty, hgo⟩ := flushTiles_buffer g e s
    exact .of_exec rfl ⟨hempty, hgo, flushTiles_of_one hinv hbuf hapart⟩
  · exact .of_exec rfl (onReissue_front hqueue hkind hphase hraise hdigital hdone (by simp [hfeed, hreissuing, hover]) _)
  · refine .of_exec rfl ?_
    rw [onReissue_front hqueue hkind hphase hraise hdigital hdone (by simpa [hfeed, hreissuing] using hfed), if_neg (by simpa using hlist)]
  · refine .of_exec rfl ⟨_, onReissue_front hqueue hkind hphase hraise hdigital hdone (by simp [hreissuing, hlist]) _, rfl, rfl, rfl⟩
  · refine .of_exec (if_pos ⟨hfails, hrate⟩) ⟨?_, ?_⟩
    · have hmark : ∀ (k : Nat) (u : State), ote (rateMark k u) g e = ote u g e := fun _ _ => rfl
      rw [hmark, ote_logCore, ote_setOte_same]
    · change (logCore _ _ _ _ _ _ _).log.queue = _
      unfold logCore
      rw [logRec_of_room _ _ _ _ _ _ (setOte g e _ s) hroom]
      rfl

end Sys2Proof.Machine
end

section
/-! ### A write request whose bytes an event record covers (R160, R184) -/

namespace Sys2Proof.Machine

/-- The unit whose first byte has the key of host memory's first byte. -/
def farUnit : Nat := 0x100000000000000

/-- A DDR capacity past the keys of host memory, a read of the far unit that waits at its channel and will need its stripe, the channel's
device 15 reconstructions into its last millisecond, and an event ring that stands at bus address 0. -/
def atFarUnit : State :=
  { State.reset with
    ddr := { State.reset.ddr with
      capMb := 0x1000000000000000
      chans := [(3, { reqs := [⟨0, false, farUnit, .bad, 0⟩], reconAt := List.replicate 15 0 })] }
    hst := { State.reset.hst with bme := true, rings := [(0, { state := .active, cfg := 0x46 })] } }

/-- The byte that a write of [1] to the far unit leaves there. -/
def byteAtFarUnit : List Byte :=
  match exec (.ddrWriteRequest .firmware farUnit 0 [1] false false) atFarUnit with
  | .next t => t.mem.readN (256 * farUnit) 1
  | _ => []

/-- The channel serves the waiting read behind the write: the 16th reconstruction fails the device, and the event that asks for its
retirement goes over the byte written. -/
theorem byteAtFarUnit_eq : byteAtFarUnit = [0x13] := by decide +kernel

/-- Refutes O9, in its write clause: the request's range is checked against a capacity that the state does not bound, so at the keys of host
memory the channel, which serves its queue in the same step, may post an event over the bytes just written. -/
theorem not_ddrComplete : ¬ Obligations.DdrComplete := by
  unfold Obligations.DdrComplete
  rintro ⟨-, -, -, -, hwrite, -⟩
  obtain ⟨t, hexec, hread⟩ := hwrite atFarUnit .firmware farUnit 0 [1] rfl (by decide) (by decide) (by decide) rfl rfl (by decide)
  have hbyte : byteAtFarUnit = t.mem.readN (256 * farUnit) 1 := by
    unfold byteAtFarUnit
    rw [hexec]
  rw [byteAtFarUnit_eq] at hbyte
  exact absurd (hbyte.trans hread) (by decide)

end Sys2Proof.Machine
end

section
/-! ### A BAR4 read whose range reaches host memory (R151, R157, R184) -/

namespace Sys2Proof.Machine

/-- Reads of as many bytes agree byte by byte. -/
theorem Memory.read_of_readN {m m' : Memory} {a n i : Nat} (h : m.readN a n = m'.readN a n) (hi : i < n) : m.read (a + i) = m'.read (a + i) := by
  induction n generalizing a i with
  | zero => omega
  | succ n ih =>
    obtain ⟨hhead, htail⟩ := List.cons.inj h
    cases i with
    | zero => exact hhead
    | succ i =>
      have hrest := ih htail (Nat.lt_of_succ_lt_succ hi)
      rwa [Nat.add_assoc, Nat.add_comm 1] at hrest

/-- One device in service, and it is dead; an event record stands in host memory at bus address 0. -/
structure OneDeadDevice (s : State) : Prop where
  migrating : s.ddr.migrating = false
  inService : s.ddr.inService = 1
  poison : s.ddr.poison = []
  badParity : s.ddr.badParity = []
  dead : (chan s 0).dead = true
  state : (chan s 0).state = 2
  record : s.mem.read 0x10000000000000000 = 0x13

namespace OneDeadDevice
variable {s : State}

theorem devices_eq (h : OneDeadDevice s) (off : Nat) : devices s off = [0] := by
  have hinServ : inServ s = [0] := by
    unfold inServ
    rw [h.inService]
    decide
  unfold devices
  rw [h.migrating, hinServ]

theorem chanOf_eq (h : OneDeadDevice s) (u : Nat) : chanOf s u = 0 := by
  unfold chanOf unitDev
  rw [h.devices_eq]
  simp [Nat.mod_one]

theorem stripeWhole_eq (h : OneDeadDevice s) (u st : Nat) : stripeWhole s [0] st (some u) = true := by
  unfold stripeWhole unitDev stripeUnits
  simp [h.badParity, Nat.mod_one]

/-- What only counts, logs or changes a channel's reconstruction history leaves the device as it is. -/
theorem of_eq {t : State} (h : OneDeadDevice s) (hmem : t.mem = s.mem) (hddr : t.ddr = { s.ddr with chans := t.ddr.chans })
    (hchan : (chan t 0).dead = (chan s 0).dead ∧ (chan t 0).state = (chan s 0).state) : OneDeadDevice t where
  migrating := by rw [hddr]; exact h.migrating
  inService := by rw [hddr]; exact h.inService
  poison := by rw [hddr]; exact h.poison
  badParity := by rw [hddr]; exact h.badParity
  dead := by rw [hchan.1, h.dead]
  state := by rw [hchan.2, h.state]
  record := by rw [hmem, h.record]

theorem updChan (h : OneDeadDevice s) {f : DdrChan → DdrChan} (hdead : ∀ k, (f k).dead = k.dead) (hstate : ∀ k, (f k).state = k.state) :
    OneDeadDevice (updChan 0 f s) :=
  h.of_eq rfl rfl ⟨by simp [Machine.updChan, hdead], by simp [Machine.updChan, hstate]⟩

/-- The device that is dead already asks for nothing more. -/
theorem thresholds (h : OneDeadDevice s) : OneDeadDevice (thresholds 0 s) := by
  have hcrossed : OneDeadDevice (Machine.updChan 0 (fun k => { k with crossedAt := s.now }) s) := h.updChan (fun _ => rfl) (fun _ => rfl)
  unfold Machine.thresholds
  dsimp only
  split_ifs
  · unfold failDevice
    rwa [if_pos (.inr h.dead)]
  · next hstate => exact absurd (h.state ▸ hstate) (by decide)
  · exact hcrossed
  · next hstate => exact absurd (h.state ▸ hstate) (by decide)
  · exact hcrossed
  · exact h

theorem rebuild (h : OneDeadDevice s) (u : Nat) : OneDeadDevice (rebuild [0] 0 u s) := by
  have hcount : OneDeadDevice (countDdr 0 3 (countReads [] s)) := h.of_eq rfl rfl ⟨rfl, rfl⟩
  have hrecon := hcount.updChan (f := fun k => { k with
    recon := incSat k.recon 1, reconAt := s.now :: k.reconAt.filter fun t => s.now < t + 24 * hourNs }) (fun _ => rfl) (fun _ => rfl)
  refine OneDeadDevice.thresholds ?_
  refine hrecon.of_eq ?_ ?_ ?_
  · rw [logRate_mem]
    rfl
  · rw [logRate_ddr]
    rfl
  · unfold chan
    rw [logRate_ddr]
    exact ⟨rfl, rfl⟩

/-- A unit read is rebuilt from a stripe that has no other device. -/
theorem readUnit (h : OneDeadDevice s) (u : Nat) : OneDeadDevice (readUnit u .clean s) := by
  unfold Machine.readUnit
  dsimp only
  rw [h.chanOf_eq, h.poison, if_neg (by simp), if_pos h.dead, unitBad, h.devices_eq, h.stripeWhole_eq, h.chanOf_eq, if_pos ⟨rfl, rfl⟩]
  exact h.rebuild u

/-- Every later unit of a range leaves the device as it is. -/
theorem foldl_readUnit (h : OneDeadDevice s) (ps : List (Nat × Nat)) :
    OneDeadDevice (ps.foldl (fun s p => if gathered s p.1 then s else Machine.readUnit p.1 .clean s) s) := by
  induction ps generalizing s with
  | nil => exact h
  | cons p ps ih =>
    rw [List.foldl_cons]
    refine ih ?_
    split
    · exact h
    · exact h.readUnit p.1

end OneDeadDevice

/-- BAR4 at offset 0 with a capacity past the keys of host memory; one device in service, dead, with 15 reconstructions of its last day; an
event ring that stands at bus address 0. -/
def atDeadDevice : State :=
  { State.reset with
    now := 2000000
    boot := { State.reset.boot with state := .ready }
    ddr := { State.reset.ddr with
      capMb := 0x1000000000000000
      inService := 1
      chans := [(0, { dead := true, reconAt := List.replicate 15 0 })] }
    hst := { State.reset.hst with bme := true, mse := true, force := [(0x0C, 0x80000000)], rings := [(0, { state := .active, cfg := 0x46 })] } }

/-- The first unit's rebuild is the 16th: it asks for the device's retirement, and the event's record stands at bus address 0. -/
theorem oneDeadDevice_first : OneDeadDevice (readUnit 0 .clean atDeadDevice) where
  migrating := by decide +kernel
  inService := by decide +kernel
  poison := by decide +kernel
  badParity := by decide +kernel
  dead := by decide +kernel
  state := by decide +kernel
  record := by decide +kernel

theorem oneDeadDevice_readRange {len : Nat} (hlen : 0 < len) : OneDeadDevice (readRange 0 len atDeadDevice) := by
  have hunits : ∃ ps : List (Nat × Nat), ∃ m, rangeUnits 0 len = (0, m) :: ps := by
    unfold rangeUnits
    rw [if_neg (Nat.pos_iff_ne_zero.mp hlen), Nat.zero_div, Nat.sub_zero, List.range_succ_eq_map, List.map_cons]
    exact ⟨_, _, rfl⟩
  obtain ⟨ps, m, hunits⟩ := hunits
  change OneDeadDevice ((rangeUnits 0 len).foldl (fun s p => if gathered s p.1 then s else readUnit p.1 .clean s) atDeadDevice)
  rw [hunits, List.foldl_cons, if_neg (show ¬ gathered atDeadDevice 0 = true by decide)]
  exact oneDeadDevice_first.foldl_readUnit ps

/-- A BAR4 read that fits and meets no bad byte answers with the bytes as they are after the read of its units (R178). -/
theorem exec_bar4Read_of_fits {s : State} {len : Nat} (hopen : BarOpen s) (hbar : bar4 s = (0, true)) (hfits : len ≤ capacity s)
    (hgood : badByte (readRange 0 len s) 0 len = none) : exec (.bar4Read 0 len) s =
      .next (send .completion 0 (0 :: ((readRange 0 len s).mem.readN 0 len).map BitVec.toNat) (readRange 0 len s)) := by
  obtain ⟨hboot, hresetting, hmse⟩ := hopen
  change execBar4Read 0 len s = _
  rw [execBar4Read, onBar, hbar, if_neg (by simp [hboot, hresetting]), if_pos hmse, if_neg (by simpa using hfits)]
  dsimp only
  rw [hgood]
  rfl

/-- Refutes O13, in its clause on BAR4 reads: a range past the first 2⁶⁴ keys, which the capacity of a state does not exclude, takes in host
memory, and the read of the range's units may post an event there before the bytes are taken. -/
theorem not_hostInterfaceComplete : ¬ Obligations.HostInterfaceComplete := by
  unfold Obligations.HostInterfaceComplete
  rintro ⟨-, -, -, -, -, -, -, -, hread, -⟩
  have hbar : bar4 atDeadDevice = (0, true) := by decide +kernel
  have hopen : BarOpen atDeadDevice := ⟨by decide, by decide, by decide⟩
  obtain ⟨len, hlong, hfits⟩ : ∃ len, 0x10000000000000000 < len ∧ len ≤ capacity atDeadDevice := ⟨0x10000000000000001, by decide, by decide⟩
  have hread := hread atDeadDevice 0 len hopen (by rw [hbar]) (by rw [hbar]; simpa using hfits)
  rw [hbar] at hread
  have hdevice : OneDeadDevice (readRange 0 len atDeadDevice) := oneDeadDevice_readRange (by omega)
  have hgood : badByte (readRange 0 len atDeadDevice) 0 len = none := by
    change ((((readRange 0 len atDeadDevice).ddr.poison.filter _).map _).min?) = none
    rw [hdevice.poison]
    rfl
  obtain ⟨t, hexec, -, hsame⟩ := hread hgood
  have hmem : t.mem = (readRange 0 len atDeadDevice).mem := by
    rw [exec_bar4Read_of_fits hopen hbar hfits hgood] at hexec
    injection hexec with hexec
    rw [← hexec]
    rfl
  have hbyte := Memory.read_of_readN hsame hlong
  rw [hmem] at hbyte
  exact absurd (hdevice.record.symm.trans hbyte) (by decide)

end Sys2Proof.Machine
end

section
/-! ### A PUT into a peer whose source the SRAM cannot read (R21, R115) -/

namespace Sys2Proof.Machine

/-- PUT of 2 bytes at core SRAM s[1] to the address in s[2]. -/
def peerPut : IWord := 0x21220

/-- Core 0 at a PUT into module 1, to which it is bound and paired; of its SRAM an uncorrectable line is kept at an offset that is no line's,
and the line that it lies in has met one before. -/
def atPeerPut : State :=
  { State.reset with
    cores := [(0, { state := .assigned, ueLines := [1], ueHist := [(0, 0)],
                    streams := [(3, { state := .running, fbuf := [(0, peerPut)], sregs := [(2, 0x8080000000000000)] })] })]
    steer := { State.reset.steer with bind := [(1, 0x80000000)] }
    fab := [(0, { pairs := [(0, { state := .up, peer := 1 })] })] }

/-- The state of the stream after its PUT. -/
def streamAfterPeerPut : Option StrState :=
  match exec (.put 0 3) atPeerPut with
  | .next t => some (strm t 0 3).state
  | _ => none

/-- The transfer's first piece meets the line at the issue, a second time, so the core is fenced and its streams stop. -/
theorem streamAfterPeerPut_eq : streamAfterPeerPut = some .stopped := by decide +kernel

/-- Refutes O3, in its PUT clause: a row in a peer is read when the PUT is issued, and an uncorrectable line found there may fence the core. -/
theorem not_transfersAndStreamsComplete : ¬ Obligations.TransfersAndStreamsComplete := by
  unfold Obligations.TransfersAndStreamsComplete
  rintro ⟨-, hput, -⟩
  have hissues : Issues atPeerPut (0 : Core) (3 : Str) 0x20 peerPut := ⟨by decide, by decide, by decide, by decide, by decide, by decide⟩
  obtain ⟨t, hexec, ⟨hrun, -⟩, -⟩ := hput atPeerPut 0 3 peerPut _ hissues rfl (by decide) (by decide) (by decide) (by decide)
  have hstopped := streamAfterPeerPut_eq
  unfold streamAfterPeerPut at hstopped
  rw [hexec] at hstopped
  exact absurd ((Option.some.inj hstopped).symm.trans hrun) (by decide)

end Sys2Proof.Machine
end

section
/-! ### A byte of the module's memory outside what a transfer stores (R153, R159, R128) -/

namespace Sys2Proof.Machine

/-- A byte stays, and no region waits for its zeroing that did not wait before. -/
structure KeepsByte (a : Nat) (s t : State) : Prop where
  byte : t.mem.read a = s.mem.read a
  waiting : t.ddr.zeroing ⊆ s.ddr.zeroing

namespace KeepsByte
variable {a : Nat} {s t u : State}

theorem refl (a : Nat) (s : State) : KeepsByte a s s := ⟨rfl, fun _ h => h⟩

theorem trans (h : KeepsByte a s t) (h' : KeepsByte a t u) : KeepsByte a s u := ⟨h'.byte.trans h.byte, fun _ hz => h.waiting (h'.waiting hz)⟩

theorem foldl {α : Type} {f : State → α → State} (h : ∀ s x, KeepsByte a s (f s x)) (l : List α) (s : State) : KeepsByte a s (l.foldl f s) := by
  induction l generalizing s with
  | nil => exact refl a s
  | cons x l ih => exact (h s x).trans (ih _)

end KeepsByte

/-- What changes host memory at most keeps every byte of the module's own. -/
theorem read_of_law_below {L : List Part} {s t : State} {a : Nat} (h : Law L s t) (hmem : .mem ∉ L) (ha : a < 2 ^ 64) : t.mem.read a = s.mem.read a :=
  h.1 .mem hmem a ha

theorem KeepsByte.of_law {L : List Part} {a : Nat} {s t : State} (h : Law L s t) (ha : a < 2 ^ 64) (hmem : .mem ∉ L) (hddr : .ddr ∉ L) : KeepsByte a s t where
  byte := read_of_law_below h hmem ha
  waiting := by
    have hsame : t.ddr = s.ddr := h.1 .ddr hddr
    rw [hsame]
    exact fun _ hz => hz

theorem KeepsByte.updChan (a n : Nat) (f : DdrChan → DdrChan) (s : State) : KeepsByte a s (updChan n f s) := ⟨rfl, fun _ hz => hz⟩

/-! Regions that wait for their zeroing are DDR state that only a zeroing takes away. -/

theorem zeroing_fullStripe (st : Nat) (ds : List Nat) (s : State) : (fullStripe st ds s).ddr.zeroing = s.ddr.zeroing := by
  have hwrites : (countWrites ds s).ddr = s.ddr := (countWrites_law ds s).1 .ddr (by decide)
  change (countWrites ds s).ddr.zeroing = _
  rw [hwrites]

theorem zeroing_partialStripe (st : Nat) (ds us : List Nat) (s : State) : (partialStripe st ds us s).ddr.zeroing = s.ddr.zeroing := by
  have hwrites : ∀ (l : List Nat) (u : State), (countWrites l u).ddr = u.ddr := fun l u => (countWrites_law l u).1 .ddr (by decide)
  have hreads : ∀ (l : List Nat) (u : State), (countReads l u).ddr = u.ddr := fun l u => (countReads_law l u).1 .ddr (by decide)
  change (countWrites _ (countReads _ (drawFree 4 s).2)).ddr.zeroing = _
  rw [hwrites, hreads]
  rfl

theorem zeroing_flushStripe (g : Gather) (s : State) : (flushStripe g s).ddr.zeroing = s.ddr.zeroing := by
  unfold flushStripe
  dsimp only
  split
  · rw [zeroing_fullStripe]
  · rw [zeroing_partialStripe]

theorem zeroing_flushIn (lo hi : Nat) (s : State) : (flushIn lo hi s).ddr.zeroing = s.ddr.zeroing :=
  foldl_keeps (read := fun u : State => u.ddr.zeroing) (fun u g => zeroing_flushStripe g u) _ _

/-- One stripe of a range written anew. -/
theorem zeroing_stripeRange (ds : List Nat) (lo hi : Nat) (s : State) : (stripeRange ds lo hi s).ddr.zeroing = s.ddr.zeroing := by
  unfold stripeRange
  split
  · rfl
  · refine foldl_keeps (read := fun u : State => u.ddr.zeroing) (fun u i => ?_) _ _
    dsimp only
    split
    · exact zeroing_fullStripe ..
    · exact zeroing_partialStripe ..

theorem keepsByte_zeroWaiting {a : Nat} {x : Nat × Nat × Nat} (s : State) (hx : a < x.2.1 ∨ x.2.1 + x.2.2 ≤ a) : KeepsByte a s (zeroWaiting x s) := by
  have hcopy : ∀ u : State, (copyAhead x.2.1 x.2.2 u).ddr = u.ddr := fun u => (copyAhead_law ..).1 .ddr (by decide)
  have hstripe : ∀ (ds : List Nat) (lo hi : Nat) (u : State), (stripeRange ds lo hi u).mem.read a = u.mem.read a := fun ds lo hi u =>
    read_of_law (stripeRange_law ..) (by decide) (by decide) a
  have hflush : ∀ (lo hi : Nat) (u : State), (flushIn lo hi u).mem.read a = u.mem.read a := fun lo hi u =>
    read_of_law (flushIn_law ..) (by decide) (by decide) a
  unfold zeroWaiting zeroRange
  constructor
  · dsimp only
    rw [Memory.read_zero, if_neg (by omega), hstripe, hflush, copyAhead_mem]
  · dsimp only
    rw [zeroing_stripeRange, zeroing_flushIn, hcopy]
    exact List.erase_subset

/-- Before an access the regions in its range that wait are zeroed, and no other byte changes (R159). -/
theorem keepsByte_clearFirst {a : Nat} {s : State} (b len : Nat) (h : ∀ z ∈ s.ddr.zeroing, a < z.2.1 ∨ z.2.1 + z.2.2 ≤ a) :
    KeepsByte a s (clearFirst b len s) := by
  have hzero : ∀ (l : List (Nat × Nat × Nat)) (u : State), (∀ z ∈ l, a < z.2.1 ∨ z.2.1 + z.2.2 ≤ a) →
      KeepsByte a u (l.foldl (fun s x => zeroWaiting x s) u) := by
    intro l
    induction l with
    | nil => exact fun u _ => .refl a u
    | cons x l ih =>
      intro u hl
      exact (keepsByte_zeroWaiting u (hl x List.mem_cons_self)).trans (ih _ fun z hz => hl z (List.mem_cons_of_mem _ hz))
  unfold clearFirst
  split
  · exact hzero _ s fun z hz => h z (List.mem_of_mem_filter hz)
  · exact .refl a s

/-! A unit that is read without an error of its burst -/

theorem chan_of_ddr {s t : State} (h : t.ddr = s.ddr) (n : Nat) : chan t n = chan s n := by
  unfold chan
  rw [h]

theorem chan_countDdr (m ev n : Nat) (s : State) : chan (countDdr m ev s) n = chan s n := rfl

theorem chan_updChan_same (n : Nat) (f : DdrChan → DdrChan) (s : State) : chan (updChan n f s) n = f (chan s n) := Tbl.get_set_same ..

section
variable {a : Nat} (ha : a < 2 ^ 64)
include ha

/-- A device asks for its retirement in an event, whose record stands in host memory. -/
theorem keepsByte_retireRequest (n : Nat) (s : State) : KeepsByte a s (retireRequest n s) := by
  unfold retireRequest
  split
  · exact .refl a s
  · exact (KeepsByte.updChan a n _ s).trans (.of_law (postEvent_law ..) ha (by decide) (by decide))

/-- A device that is dead already is not failed again. -/
theorem keepsByte_thresholds {n : Nat} {s : State} (hdead : (chan s n).dead = true) : KeepsByte a s (thresholds n s) := by
  have hlog : ∀ (code r c : Nat) (u : State), KeepsByte a u (logRec code (ddrSrc n) n r c 0 u) := fun code r c u =>
    .of_law (logRec_law ..) ha (by decide) (by decide)
  unfold thresholds
  dsimp only
  split_ifs
  · unfold failDevice
    rw [if_pos (.inr hdead)]
    exact .refl a s
  · exact (KeepsByte.updChan a n _ _).trans ((KeepsByte.updChan a n _ _).trans ((hlog ..).trans (keepsByte_retireRequest ha n _)))
  · exact .updChan a n _ s
  · exact (KeepsByte.updChan a n _ _).trans ((KeepsByte.updChan a n _ _).trans (hlog ..))
  · exact .updChan a n _ s
  · exact .refl a s

theorem keepsByte_rebuild {n : Nat} {s : State} (ds : List Nat) (u : Nat) (hdead : (chan s n).dead = true) : KeepsByte a s (rebuild ds n u s) := by
  have hreads : ∀ l : List Nat, (countReads l s).ddr = s.ddr := fun l => (countReads_law l s).1 .ddr (by decide)
  have hcount : ∀ (ev : Nat) (u : State), KeepsByte a u (countDdr n ev u) := fun ev u => .of_law (countDdr_law ..) ha (by decide) (by decide)
  unfold rebuild
  dsimp only
  refine .trans (.trans (.trans (.trans (.trans ?_ (hcount 3 _)) (.updChan a n _ _)) (hcount 7 _)) (.of_law (logRate_law ..) ha (by decide) (by decide)))
    (keepsByte_thresholds ha ?_)
  · exact .of_law (countReads_law ..) ha (by decide) (by decide)
  · have hchan : chan (countReads (ds.filter fun d => d ≠ n) s) n = chan s n := chan_of_ddr (hreads _) n
    rw [chan_of_ddr (logRate_ddr ..), chan_countDdr, chan_updChan_same, chan_countDdr, hchan]
    exact hdead

/-- A unit whose burst is clean is read, rebuilt or poisoned, and its bytes stay. -/
theorem keepsByte_readUnit_clean (u : Nat) (s : State) : KeepsByte a s (readUnit u .clean s) := by
  have hcount : ∀ n, KeepsByte a s (countDdr n 2 s) := fun n => .of_law (countDdr_law ..) ha (by decide) (by decide)
  unfold readUnit
  dsimp only
  split
  · exact hcount _
  · split
    · next hdead =>
      unfold unitBad
      dsimp only
      split
      · exact keepsByte_rebuild ha _ u hdead
      · refine ⟨read_of_law_below (poisonUnit_law ..) (by decide) ha, ?_⟩
        unfold poisonUnit
        split
        · exact fun _ hz => hz
        · dsimp only
          rw [logRec_ddr]
          exact fun _ hz => hz
    · exact hcount _

theorem keepsByte_readRange (b len : Nat) (s : State) : KeepsByte a s (readRange b len s) := by
  unfold readRange
  split
  · refine KeepsByte.foldl (fun u p => ?_) _ s
    split
    · exact .refl a u
    · exact keepsByte_readUnit_clean ha p.1 u
  · exact .refl a s

/-- Before rows are read or written, no byte changes but those of the regions that wait (R153, R159). -/
theorem keepsByte_ddrReady (ps : List (Nat × Nat)) (len : Nat) {s : State} (h : ∀ z ∈ s.ddr.zeroing, a < z.2.1 ∨ z.2.1 + z.2.2 ≤ a) :
    KeepsByte a s (ddrReady ps len s) := by
  induction ps generalizing s with
  | nil => exact .refl a s
  | cons p ps ih =>
    have hfirst := keepsByte_clearFirst p.1 len h
    have hboth := hfirst.trans (keepsByte_clearFirst p.2 len fun z hz => h z (hfirst.waiting hz))
    have hread := hboth.trans (keepsByte_readRange ha p.1 len _)
    exact hread.trans (ih fun z hz => h z (hread.waiting hz))

end

/-! What the rows and the pieces of rows store -/

theorem length_readN (m : Memory) (a n : Nat) : (m.readN a n).length = n := by
  induction n generalizing a with
  | zero => rfl
  | succ n ih => simp [Memory.readN, ih]

theorem read_copyRows {a len : Nat} {ps : List (Nat × Nat)} (h : ∀ p ∈ ps, a < p.2 ∨ p.2 + len ≤ a) (s : State) :
    (copyRows len ps s).mem.read a = s.mem.read a := by
  induction ps generalizing s with
  | nil => rfl
  | cons p ps ih =>
    obtain ⟨hp, hps⟩ := List.forall_mem_cons.mp h
    rw [copyRows, ih hps, read_store_outside _ _ _ _ (by rwa [length_readN])]

/-- Every piece lies in its row. -/
theorem linePieces_inside (keep : Nat → Bool) (dst len : Nat) : ∀ p ∈ linePieces keep dst len, p.1 + p.2 ≤ len := by
  unfold linePieces
  refine List.foldlRecOn (motive := fun ps : List (Nat × Nat) => ∀ p ∈ ps, p.1 + p.2 ≤ len) _ _ (by simp) fun ps hps i hi => ?_
  have hline : max dst (128 * (dst / 128 + i)) - dst
      + (min (dst + len) (128 * (dst / 128 + i) + 128) - dst - (max dst (128 * (dst / 128 + i)) - dst)) ≤ len := by
    have hi := List.mem_range.mp hi
    omega
  dsimp only
  split
  · exact hps
  · split
    · split
      · next hjoin =>
        intro p hp
        rcases List.mem_append.mp hp with hp | hp
        · exact hps p (List.mem_of_mem_dropLast hp)
        · obtain rfl := List.mem_singleton.mp hp
          omega
      · intro p hp
        rcases List.mem_append.mp hp with hp | hp
        · exact hps p hp
        · obtain rfl := List.mem_singleton.mp hp
          exact hline
    · intro p hp
      obtain rfl := List.mem_singleton.mp hp
      exact hline

theorem read_copyLines {a len : Nat} (keep : Nat → Bool) {ps : List (Nat × Nat)} (h : ∀ p ∈ ps, a < p.2 ∨ p.2 + len ≤ a) (s : State) :
    (copyLines keep len ps s).mem.read a = s.mem.read a := by
  induction ps generalizing s with
  | nil => rfl
  | cons p ps ih =>
    obtain ⟨hp, hps⟩ := List.forall_mem_cons.mp h
    have hpieces : ∀ (l : List (Nat × Nat)) (u : State), (∀ x ∈ l, x.1 + x.2 ≤ len) →
        (l.foldl (fun s x => store (p.2 + x.1) (s.mem.readN (p.1 + x.1) x.2) s) u).mem.read a = u.mem.read a := by
      intro l
      induction l with
      | nil => exact fun _ _ => rfl
      | cons x l ihl =>
        intro u hl
        obtain ⟨hx, hl⟩ := List.forall_mem_cons.mp hl
        rw [List.foldl_cons, ihl _ hl, read_store_outside _ _ _ _ (by rw [length_readN]; omega)]
    rw [copyLines, ih hps, hpieces _ _ (linePieces_inside keep p.2 len)]

theorem read_xferPart {a len : Nat} {ps : List (Nat × Nat)} (h : ∀ p ∈ ps, a < p.2 ∨ p.2 + len ≤ a) (s : State) :
    (xferPart ps len s).mem.read a = s.mem.read a := read_copyLines _ h _

/-- The end of a transfer, whether its copying completes, fails or waits. -/
theorem read_finishXfer {a : Nat} (ha : a < 2 ^ 64) {s : State} {g st : Nat} {op : LongOp} {x : Xfer_} {write : Bool} {ps : List (Nat × Nat)}
    {done : State → State} (hps : ps = xferPairs s (whoStream s op.ctx.val op.edition) g x write)
    (hgood : (ps.findSome? fun p => badByte (ddrReady ps x.len s) p.1 x.len) = none) (hrows : ∀ p ∈ ps, a < p.2 ∨ p.2 + x.len ≤ a)
    (hwaiting : ∀ z ∈ s.ddr.zeroing, a < z.2.1 ∨ z.2.1 + z.2.2 ≤ a) (hdone : ∀ u, (done u).mem.read a = u.mem.read a) :
    (finishXfer g st op x write .clean s done).mem.read a = s.mem.read a := by
  have hready : (ddrReady ps x.len s).mem.read a = s.mem.read a := (keepsByte_ddrReady ha ps x.len hwaiting).byte
  have hfault : ∀ (cause info : Nat) (u : State), (dropXfer op.xfer (execFault g st op cause info u)).mem.read a = u.mem.read a := fun cause info u =>
    (read_of_law_below (dropXfer_law ..) (by decide) ha).trans (read_of_law_below (execFault_law ..) (by decide) ha)
  have hend : ∀ u : State, (dropXfer op.xfer (updStrm g st (fun r => { r with outst := r.outst.erase op }) u)).mem.read a = u.mem.read a := fun u =>
    (read_of_law_below (dropXfer_law ..) (by decide) ha).trans (read_of_law_below (updStrm_law ..) (by decide) ha)
  subst hps
  unfold finishXfer
  dsimp only
  split
  · rw [hfault, read_xferPart hrows, hready]
  · split
    · rfl
    · rw [applyEcc_clean]
      dsimp only [Option.orElse]
      split
      · next hbad => rw [hgood] at hbad; cases hbad
      · rw [hdone, hend, read_copyRows hrows, hready]

/-- Settles O52: before the copying only waiting regions change, and each store lies in its row. -/
theorem transferMemoryFrame : Obligations.TransferMemoryFrame := by
  unfold Obligations.TransferMemoryFrame
  rintro c s t g i len op ps (⟨rfl, hop, rfl, hps⟩ | ⟨rfl, hop, rfl, hps⟩) hexec hgood a ha hrows hwaiting
  · change execGetComplete g i .clean s = _ at hexec
    rw [execGetComplete, hop] at hexec
    injection hexec with hexec
    rw [← hexec]
    exact read_finishXfer ha hps hgood hrows hwaiting fun _ => rfl
  · have htoken : ∀ (d : Nat) (u : State), (if bits d 60 4 = 2 then putToken op d u else u).mem.read a = u.mem.read a := by
      intro d u
      split
      · exact read_of_law_below (putToken_law ..) (by decide) ha
      · rfl
    change execPutComplete g i .clean s = _ at hexec
    rw [execPutComplete, hop] at hexec
    injection hexec with hexec
    rw [← hexec]
    exact read_finishXfer ha hps hgood hrows hwaiting (htoken _)

end Sys2Proof.Machine
end

section
/-! ### VECTOR instructions (R118, R119, R141) -/

namespace Sys2Proof.Machine

@[simp] theorem strm_store (a : Nat) (bs : List Byte) (g st : Nat) (s : State) : strm (store a bs s) g st = strm s g st := by
  have hcopy : ∀ n, (copyAhead a n s).cores = s.cores := fun n => (copyAhead_law ..).1 .cores (by decide)
  have hgather : ∀ (n : Nat) (u : State), (gatherRange a n u).cores = u.cores := fun n u => (gatherRange_law ..).1 .cores (by decide)
  have hwrite : ∀ u : State, (writeMem a bs u).cores = u.cores := fun _ => rfl
  unfold store
  dsimp only
  split
  · exact strm_of_cores ((hgather _ _).trans ((hwrite _).trans (hcopy _))) g st
  · rfl
  · rw [updCore, strm_setCore]
    split
    · next hg => rw [hg]; rfl
    · rfl
  · rfl

/-- The results of a VECTOR instruction are stored, and no stream changes. -/
theorem strm_writeResults (s : State) (op : LongOp) (g : Nat) (i : VIns) (n x y : Nat) : strm (writeResults s op g i n).1 x y = strm s x y := by
  have hfold : ∀ (l : List (List (Val × Rnd × BitVec 6) × Nat)) (acc : State × List (BitVec 6)),
      strm (l.foldl (fun acc p =>
        let w := writeRow i.d.fmt (p.1.map fun x => (x.1, x.2.1))
        (store (sramKey g (i.d.base.toNat + p.2 * rowBytes i.d.fmt i.d.n)) w.1 acc.1,
          acc.2 ++ (p.1.zip w.2).map fun x => x.1.2.2 ||| x.2)) acc).1 x y = strm acc.1 x y := by
    intro l
    induction l with
    | nil => exact fun _ => rfl
    | cons p l ih =>
      intro acc
      rw [List.foldl_cons, ih, strm_store]
  unfold writeResults
  exact hfold _ _

section
variable {s : State} {g : Core} {st : Str} {w : IWord}

/-- An accepted VECTOR instruction is outstanding, and its stream goes on. -/
theorem vectorIssued_reads (hrun : (strm s g st).state = .running) : Advanced s (vectorIssued g st w s) g st
    ∧ (strm (vectorIssued g st w s) g st).outst.map LongOp.word = (strm s g st).outst.map LongOp.word ++ [w] := by
  unfold vectorIssued
  rw [updStrm_eq, Advanced, strm_setStrm_same, strm_issued, if_pos (And.intro rfl rfl)]
  split
  all_goals simp [hrun, longOp, setSreg]

theorem does_issueVector {c : Instr} {o : Nat} (hexec : exec c s = .next (issueVector o g st s)) (h : Issues s g st o w)
    (hops : vOperandBad (vIns (strm s g st).sregs w) (fld w 56 4) = none) (haddr : vAddressBad (vIns (strm s g st).sregs w) = none) :
    Does c s fun t => Advanced s t g st ∧ (strm t g st).outst.map LongOp.word = (strm s g st).outst.map LongOp.word ++ [w] :=
  .of_exec (hexec.trans (congrArg _ (issueVector_of_accepted h hops haddr))) (vectorIssued_reads h.1)

end

section
variable {s : State} {g : Core} {op : LongOp} {ops : List LongOp}

/-- What stands once the oldest VECTOR instruction has written all its results. -/
def vectorDone (g : Core) (op : LongOp) (s : State) : State :=
  let w := writeResults s op g (vIns op.sregs op.word) (resultCount (vIns op.sregs op.word))
  updStrm g 2 (fun r => { r with outst := r.outst.erase op })
    (countFlags g w.2 (updStrm g 2 (fun r => { r with flags := w.2.foldl (· ||| ·) r.flags }) w.1))

/-- With no unreadable line the oldest VECTOR instruction completes. -/
theorem exec_vectorComplete_clean (hout : (strm s g 2).outst = op :: ops) (hlines : (core s g).ueLines = []) :
    exec (.vectorComplete g .clean) s = .next (vectorDone g op s) := by
  change execVectorComplete g .clean s = _
  have hbad : firstBad (vIns op.sregs op.word) (badLines s g .clean) = none := by
    unfold badLines
    rw [hlines]
    rfl
  unfold execVectorComplete
  rw [hout]
  simp only [hbad]
  rw [applyEcc_clean]
  rfl

theorem strm_countFlags (fs : List (BitVec 6)) (x y : Nat) : strm (countFlags g fs s) x y = strm s x y :=
  strm_of_cores ((countFlags_law ..).1 .cores (by decide)) x y

theorem strm_vectorDone (hout : (strm s g 2).outst = op :: ops) :
    (strm (vectorDone g op s) g 2).outst = ops
    ∧ (strm (vectorDone g op s) g 2).flags
      = (writeResults s op g (vIns op.sregs op.word) (resultCount (vIns op.sregs op.word))).2.foldl (· ||| ·) (strm s g 2).flags := by
  simp only [vectorDone, updStrm_eq, strm_setStrm_same, strm_countFlags, strm_writeResults, hout, List.erase_cons_head, and_self]

theorem countFlags_mem (fs : List (BitVec 6)) : (countFlags g fs s).mem = s.mem := by
  unfold countFlags
  refine List.foldlRecOn (motive := fun t : State => t.mem = s.mem) _ _ rfl fun t ht i _ => ?_
  rw [countCoreN_mem]
  exact ht

theorem mem_vectorDone : (vectorDone g op s).mem
    = (writeResults s op g (vIns op.sregs op.word) (resultCount (vIns op.sregs op.word))).1.mem := by
  have hupd : ∀ (f : Stream → Stream) (u : State), (updStrm g 2 f u).mem = u.mem := fun _ _ => rfl
  exact (hupd ..).trans ((countFlags_mem _).trans (hupd ..))

end

/-- Settles O4: an accepted VECTOR instruction is queued by `vectorIssued`, and the oldest one ends by `vectorDone`. -/
theorem vectorComplete : Obligations.VectorComplete := by
  unfold Obligations.VectorComplete
  refine ⟨?issue, ?complete⟩
  case issue =>
    intro c o s g st w hrow h hops haddr
    obtain ⟨rfl, rfl⟩ | ⟨rfl, rfl⟩ | ⟨rfl, rfl⟩ | ⟨rfl, rfl⟩ | ⟨rfl, rfl⟩ | ⟨rfl, rfl⟩ := hrow
    all_goals exact does_issueVector rfl h hops haddr
  case complete =>
    intro s g op ops hout hlines
    obtain ⟨houtst, hflags⟩ := strm_vectorDone hout
    exact .of_exec (exec_vectorComplete_clean hout hlines) ⟨houtst, mem_vectorDone, hflags⟩

end Sys2Proof.Machine
end

section
/-! ### Copy engines and copy lists (08_memory_system.md R162 to R164, R170; 09_host_interface_and_rings.md R188) -/

namespace Sys2Proof.Machine

@[simp] theorem engine_setEngine_same (e : Nat) (l : List CopyDesc) (s : State) : engine (setEngine e l s) e = l := Tbl.get_set_same ..

theorem engine_of_ddr {s t : State} (h : t.ddr = s.ddr) (e : Nat) : engine t e = engine s e := by rw [engine, engine, h]

/-! ### Entries -/

section
variable {s : State} {r : RingIx} {e : Entry}

theorem engine_takeCopy {opc : Nat} (htake : takeEntry s r 2 opc = some e) :
    engine (takeCopy r opc s) (ringEngine (ring s r)) = engine s (ringEngine (ring s r))
      ++ [{ ring := some r, ctx := (entCtx s r e).map (Fin.ofNat 4), index := 0, entry := { e with started := true } }] := by
  refine onEntry_holds (P := fun t => engine t (ringEngine (ring s r)) = _) htake (fun t ht => ?_) ?_
  · have hddr : (turnTaken r 2 t).ddr = t.ddr := (turnTaken_law ..).1 .ddr (by decide)
    exact (engine_of_ddr hddr _).trans ht
  · have hddr : ∀ u : State, (startEntry r e u).ddr = u.ddr := fun u => (startEntry_law ..).1 .ddr (by decide)
    exact (engine_of_ddr (hddr _) _).trans (engine_setEngine_same ..)

end

/-! ### A hub descriptor's start -/

section
variable {s : State} {d : CopyDesc} {ds : List CopyDesc}

/-- A descriptor begun is the one it was, running. -/
theorem beginDesc_reads (d : CopyDesc) (s : State) :
    (beginDesc d s).1.running = true ∧ (beginDesc d s).1.entry = d.entry ∧ (beginDesc d s).1.ring = d.ring := by
  unfold beginDesc
  dsimp only
  repeat' split
  all_goals exact ⟨rfl, rfl, rfl⟩

theorem does_copyDescriptorStart {eng : Fin 20} (heng : eng.val < 4) (hqueue : engine s eng = d :: ds) (hwaits : d.running = false) :
    Does (.copyDescriptorStart eng) s fun t =>
      ∃ d' : CopyDesc, engine t eng = d' :: ds ∧ d'.running = true ∧ d'.entry = d.entry ∧ d'.ring = d.ring := by
  have hexec : exec (.copyDescriptorStart eng) s = .next (setEngine eng.val ((beginDesc d s).1 :: ds) (beginDesc d s).2) := by
    change execCopyDescriptorStart eng s = _
    have hrun : (d :: ds).takeWhile CopyDesc.running = [] := by simp [hwaits]
    have hrest : (d :: ds).dropWhile CopyDesc.running = d :: ds := by simp [hwaits]
    have hroom : canStart [] d = true := by simp [canStart]
    unfold execCopyDescriptorStart
    rw [if_pos heng, hqueue]
    simp only [hrun, hrest, hroom, if_true, List.nil_append]
  exact .of_exec hexec ⟨_, engine_setEngine_same .., beginDesc_reads d s⟩

end

/-! ### A fill of one unit -/

section
variable {s : State} {d : CopyDesc} {w : Who} {b : Nat}

/-- The one row of a fill that is not repeated. -/
def fillRow (e : Entry) : Row := ⟨none, ent e 16 8, ent e 24 4⟩

theorem rowAt_fill {e : Entry} (hop : entOpcode e = 0x11) : rowAt s w e 0 = .ok (fillRow e) := by
  unfold rowAt
  simp [hop, fillRow]

/-- A row that lies within 256 aligned bytes is one unit. -/
theorem rowUnits_single {x : Row} (hlen : 1 ≤ x.len) (hunit : x.dst % 256 + x.len ≤ 256) : rowUnits x = [(0, x.len)] := by
  have hrest : ∀ n, unitsFrom x.dst x.len n x.len = [] := fun n => by cases n <;> simp [unitsFrom]
  have hmin : min (256 - (x.dst + 0) % 256) (x.len - 0) = x.len := by omega
  rw [rowUnits, unitsFrom, if_neg (by omega)]
  simp only [hmin, Nat.zero_add, hrest]

theorem sides_fill {e : Entry} (hend : ent e 16 8 + ent e 24 4 ≤ 0x10000000000000000)
    (hcheck : checkAt s w (ent e 16 8) (ent e 24 4) true = .ok (.here b)) :
    sides s w (fillRow e) (0, ent e 24 4) = .ok (none, .here b) := by
  have hside : side s w (ent e 16 8 + 0) (ent e 24 4) true = .ok (.here b) := by
    rw [Nat.add_zero, side, if_neg (by omega), hcheck]
  unfold sides fillRow
  simp only [hside]

theorem clearFirst_of_none (hzero : s.ddr.zeroing = []) (a len : Nat) : clearFirst a len s = s := by
  unfold clearFirst
  split
  · rw [hzero]; rfl
  · rfl

theorem placeReady_write_of_none (hzero : s.ddr.zeroing = []) (len : Nat) : placeReady w (.here b) len false s = s := by
  unfold placeReady
  simp [clearFirst_of_none hzero]

/-- A fill of one unit, driven on, ends well with its pattern stored. -/
theorem drive_fill (hzero : s.ddr.zeroing = []) (hbad : rowCount d.entry = 1) (hop : entOpcode d.entry = 0x11) (htoken : entToken d.entry = false)
    (hrow : d.row = 0) (hlen : 1 ≤ ent d.entry 24 4) (hunit : ent d.entry 16 8 % 256 + ent d.entry 24 4 ≤ 256)
    (hend : ent d.entry 16 8 + ent d.entry 24 4 ≤ 0x10000000000000000)
    (hcheck : checkAt s w (ent d.entry 16 8) (ent d.entry 24 4) true = .ok (.here b)) :
    drive w 1 d s = .ends { d with bytes := d.bytes + ent d.entry 24 4, units := d.units + 1, row := 1 } 0 0
      (store b (fillBytes d.entry 0 (ent d.entry 24 4)) s) := by
  have hunits : rowUnits (fillRow d.entry) = [(0, ent d.entry 24 4)] := rowUnits_single hlen hunit
  have hsides := sides_fill hend hcheck
  have hhere : touchesPeer s w (fillRow d.entry) = false := by
    rw [touchesPeer, hunits]
    simp only [List.headD_cons, hsides]
  have htable : tableReady w d.entry 0 s = s := by simp [tableReady, hop]
  have hmove : moveUnit w (fillRow d.entry) (0, ent d.entry 24 4) { d := d, s := s }
      = unitDone (ent d.entry 24 4) { d := d, s := s } (store b (fillBytes d.entry 0 (ent d.entry 24 4)) s) := by
    unfold moveUnit
    simp only [hsides, placeReady_write_of_none hzero]
  rw [drive, if_neg (by omega), hrow]
  simp only [htable, rowAt_fill hop, hhere, hunits, List.foldl_cons, List.foldl_nil, hmove, Bool.false_eq_true, if_false]
  simp [unitDone, drive, driveEnd, htoken]

end

section
variable {s : State} {d : CopyDesc} {ds : List CopyDesc} {b r : Nat} {eng : Fin 20}

theorem dropXfer_of_none {i : Nat} (hnone : xfer s i = none) : dropXfer i s = s := by
  have hkeep : (s.link.xfers.filter fun p => p.1 ≠ i) = s.link.xfers := by
    refine List.filter_eq_self.mpr fun p hp => ?_
    have hfind := List.find?_eq_none.mp (Option.map_eq_none_iff.mp hnone) p hp
    simpa using hfind
  unfold dropXfer
  rw [hkeep]

/-- A store leaves the bytes it was given, wherever they go. -/
theorem read_store_inside (hinv : Inv s) {a j : Nat} {bs : List Byte} (hj : j < bs.length) : (store a bs s).mem.read (a + j) = bs[j] := by
  rw [read_store, Memory.read_writeN_inside a j bs hinv hj]
  simp [hj]

/-- What stands once a fill of one unit has ended. -/
def fillEnded (eng : Nat) (d : CopyDesc) (b : Nat) (ds : List CopyDesc) (s : State) : State :=
  endDesc eng { d with xfer := 0, bytes := d.bytes + ent d.entry 24 4, units := d.units + 1, row := 1 } 0 0
    (setEngine eng ds (store b (fillBytes d.entry 0 (ent d.entry 24 4)) s))

theorem driveDesc_unsent {w : Who} (hxfer : d.xfer = 0) (hnone : xfer s 0 = none) (hbad : d.bad = none) :
    driveDesc w d s = drive w (rowCount d.entry) d s := by
  obtain ⟨ring, ctx, index, entry, running, row, bytes, units, x, behind, bad, told, hostBad⟩ := d
  dsimp only at hxfer hbad
  subst hxfer hbad
  have hxf : xferOf s 0 = { ctx := none, gen := 0, tc := 0 } := by rw [xferOf, hnone]; rfl
  have hzero : ∀ (e : Entry) (fuel k : Nat), unitsIn s w e fuel k 0 = 0 := fun e fuel k => by cases fuel <;> simp [unitsIn]
  unfold driveDesc
  simp only [hxf, hzero, if_true, dropXfer_of_none hnone, Nat.add_zero]

theorem exec_copyDescriptorComplete_fill (hqueue : engine s eng = d :: ds) (hrun : d.running = true) (hring : d.ring = some r) (hxfer : d.xfer = 0)
    (hbad : d.bad = none) (hrow : d.row = 0) (hnone : xfer s 0 = none) (hdma : canDma s = true) (hzero : s.ddr.zeroing = [])
    (hop : entOpcode d.entry = 0x11) (hok : descOk d.entry = true) (htoken : entToken d.entry = false) (honce : ent d.entry 28 4 = 0)
    (hunit : ent d.entry 16 8 % 256 + ent d.entry 24 4 ≤ 256) (hend : ent d.entry 16 8 + ent d.entry 24 4 ≤ 0x10000000000000000)
    (hcheck : checkAt s (descWho s d) (ent d.entry 16 8) (ent d.entry 24 4) true = .ok (.here b)) :
    exec (.copyDescriptorComplete eng .clean) s = .next (fillEnded eng d b ds s) := by
  have hdone : xferDone (xferOf s d.xfer) = true := by rw [xferOf, hxfer, hnone]; rfl
  have hgood : descGood s d = true := by simp [descGood, hok, hring]
  have hcount : rowCount d.entry = 1 := by simp [rowCount, hop, honce]
  have hlen : 1 ≤ ent d.entry 24 4 := by
    have h := hok
    unfold descOk at h
    simp only [Bool.and_eq_true, decide_eq_true_eq] at h
    exact h.1.2
  have hdrive := drive_fill hzero hcount hop htoken hrow hlen hunit hend hcheck
  have hfinish : finishDesc eng d .clean s = fillEnded eng d b ds s := by
    unfold finishDesc
    rw [if_neg (by simp [hgood]), applyEcc_clean, hqueue]
    simp only [driveDesc_unsent hxfer hnone hbad, hcount, hdrive]
    simp only [fillEnded, hxfer, List.tail_cons]
  change execCopyDescriptorComplete eng .clean s = _
  unfold execCopyDescriptorComplete
  rw [hqueue]
  simp only [hrun, hdone, hdma, Bool.true_or, Bool.and_self, if_true, hfinish]

theorem fillEnded_law (hring : d.ring = some r) (htoken : entToken d.entry = false) :
    Law [.host, .hst, .tally, .sent] (setEngine eng ds (store b (fillBytes d.entry 0 (ent d.entry 24 4)) s)) (fillEnded eng d b ds s) := by
  unfold fillEnded endDesc
  simp only [hring]
  rw [endHub, if_pos rfl]
  have hcount := fun u : State => countAt_law 0x061000 32 0x0A eng (d.units + 1) true u
  split
  · exact .step (complete_law ..) (List.Subset.refl _) ((hcount _).mono (by decide))
  · rw [succeed_of_no_token htoken]
    exact .step (complete_law ..) (List.Subset.refl _) ((hcount _).mono (by decide))

/-- A completed fill has left its engine, and its pattern stands in memory. -/
theorem fillEnded_reads (hinv : Inv s) (hring : d.ring = some r) (htoken : entToken d.entry = false)
    (hfits : b + ent d.entry 24 4 ≤ 0x10000000000000000) : engine (fillEnded eng d b ds s) eng = ds ∧ ∀ j, j < ent d.entry 24 4
        → (fillEnded eng d b ds s).mem.read (b + j) = BitVec.ofNat 8 (ent d.entry (40 + j % 8) 1) := by
  have hlaw := fillEnded_law (s := s) (d := d) (ds := ds) (b := b) (eng := eng) hring htoken
  constructor
  · exact (engine_of_ddr (hlaw.1 .ddr (by decide)) _).trans (engine_setEngine_same ..)
  · intro j hj
    have hlen : (fillBytes d.entry 0 (ent d.entry 24 4)).length = ent d.entry 24 4 := by simp [fillBytes]
    rw [read_of_law_below hlaw (by decide) (by omega)]
    change (store b _ s).mem.read (b + j) = _
    rw [read_store_inside hinv (hj.trans_eq hlen.symm)]
    simp [fillBytes]

end

/-! ### Copy lists -/

section
variable {s : State} {c : Clu} {x : Ctx} {n : Nat}

theorem lists_setCeList (c x : Nat) (l : CeList) (s : State) : (clu (setCeList c x l s) c).lists = Tbl.set (clu s c).lists x l := by
  rw [setCeList, clu_updClu_same]

@[simp] theorem ceList_setCeList (c x y : Nat) (l : CeList) (s : State) : ceList (setCeList c x l s) c y = if y = x then l else ceList s c y := by
  rw [ceList, lists_setCeList]
  exact Tbl.get_set ..

/-- A list whose tail is within its size and beyond its head runs. -/
theorem runList_of_tail (htail : listTail s c (ceList s c x) = .ok n) (hsize : n < listSize (ceList s c x)) (hmore : n ≠ (ceList s c x).head) :
    runList c x s = setCeList c x { ceList s c x with state := 1, err := 0 } s := by
  rw [runList, htail, runTo, if_neg (by omega), if_neg hmore]

theorem does_copyListWake (hon : bit (ceList s c x).reg 31 = true) (hlive : (ceList s c x).state ≠ 2)
    (htail : listTail s c (ceList s c x) = .ok n) (hsize : n < listSize (ceList s c x)) (hmore : n ≠ (ceList s c x).head) :
    Does (.copyListWake c x) s fun t => (ceList t c x).state = 1 ∧ (ceList t c x).head = (ceList s c x).head := by
  have hexec : exec (.copyListWake c x) s = .next (runList c x s) := by
    change execCopyListWake c x s = _
    exact if_pos ⟨hon, hlive⟩
  refine .of_exec hexec ?_
  rw [runList_of_tail htail hsize hmore, ceList_setCeList, if_pos rfl]
  exact ⟨rfl, rfl⟩

theorem does_copyListRestart {v : Word} (hheld : blockHeld s (cluBase c + 0x1040) = false) (hbit : bit v x = true)
    (honly : ∀ y : Ctx, y ≠ x → bit v y = false) (hon : bit (ceList s c x).reg 31 = true) (hstopped : (ceList s c x).state = 2)
    (htail : listTail s c (ceList s c x) = .ok n) (hsize : n < listSize (ceList s c x)) (hmore : n ≠ (ceList s c x).head) :
    Does (.copyListRestart c v) s fun t =>
      (ceList t c x).state = 1 ∧ (ceList t c x).err = 0 ∧ (ceList t c x).head = (ceList s c x).head := by
  have hfold : (List.range 4).foldl (fun s x => if bit v x ∧ bit (ceList s c x).reg 31 ∧ (ceList s c x).state = 2 then runList c x s else s) s
      = runList c x s := by
    obtain ⟨x, hx⟩ := x
    have hother : ∀ y : Ctx, y.val ≠ x → bit v y.val = false := fun y hy => honly y fun h => hy (congrArg Fin.val h)
    have h0 := hother 0
    have h1 := hother 1
    have h2 := hother 2
    have h3 := hother 3
    simp only [Fin.isValue, Fin.coe_ofNat_eq_mod, Nat.reduceMod] at h0 h1 h2 h3
    simp only [List.range_succ, List.range_zero, List.nil_append, List.cons_append, List.foldl_cons, List.foldl_nil]
    interval_cases x <;> simp_all
  have hexec : exec (.copyListRestart c v) s = .next (runList c x s) := by
    change execCopyListRestart c v s = _
    unfold execCopyListRestart
    rw [hfold, cluWrite, if_neg (by simp [hheld])]
  refine .of_exec hexec ?_
  rw [runList_of_tail htail hsize hmore, ceList_setCeList, if_pos rfl]
  exact ⟨rfl, rfl, rfl⟩

end

/-- Settles O10: entries by `takeCopy`, a fill by `fillEnded`, a list by `runList`. -/
theorem copyEnginesComplete : Obligations.CopyEnginesComplete := by
  unfold Obligations.CopyEnginesComplete
  refine ⟨?entry, ?start, ?fill, ?wake, ?restart⟩
  case entry =>
    intro c o s r e hrow htake
    obtain ⟨rfl, rfl⟩ | ⟨rfl, rfl⟩ | ⟨rfl, rfl⟩ := hrow
    all_goals exact .of_exec rfl (engine_takeCopy htake)
  case start => exact fun s eng d ds heng hqueue hwaits => does_copyDescriptorStart heng hqueue hwaits
  case fill =>
    intro s eng d ds r b hinv _ hqueue hrun hring hxfer hbad hrow hnone hdma hzero hop hok htoken honce hunit hend hcheck hfits
    exact .of_exec (exec_copyDescriptorComplete_fill hqueue hrun hring hxfer hbad hrow hnone hdma hzero hop hok htoken honce hunit hend hcheck)
      (fillEnded_reads hinv hring htoken hfits)
  case wake => exact fun s c x n hon hlive htail hsize hmore => does_copyListWake hon hlive htail hsize hmore
  case restart =>
    exact fun s c x v n hheld hbit honly hon hstopped htail hsize hmore =>
      does_copyListRestart hheld hbit honly hon hstopped htail hsize hmore

end Sys2Proof.Machine
end

section
/-! ### Contexts, cores, mode editions and protection sets (02 R32 to R40; 06 R123; 09 R189, R190, R196, R197; 16 R340) -/

namespace Sys2Proof.Machine

/-- What one element of a fold brings about and no other element undoes stands at its end. -/
theorem foldl_reaches {σ α : Type} {f : σ → α → σ} {P : σ → Prop} {l : List α} {a : α} (ha : a ∈ l) (hset : ∀ x, P (f x a))
    (hkeep : ∀ b ∈ l, b ≠ a → ∀ x, P x → P (f x b)) (s : σ) : P (l.foldl f s) := by
  induction l generalizing s with
  | nil => simp at ha
  | cons b l ih =>
    rw [List.foldl_cons]
    by_cases hmem : a ∈ l
    · exact ih hmem (fun c hc => hkeep c (List.mem_cons_of_mem b hc)) _
    · obtain rfl : a = b := (List.mem_cons.mp ha).resolve_right hmem
      refine List.foldlRecOn (motive := P) l f (hset s) fun x hx c hc => ?_
      exact hkeep c (List.mem_cons_of_mem a hc) (fun h => hmem (h ▸ hc)) x hx

@[simp] theorem core_updCore (g x : Nat) (f : CoreSt → CoreSt) (s : State) :
    core (updCore g f s) x = if x = g then f (core s g) else core s x := core_setCore ..

@[simp] theorem core_updCtx (c x : Nat) (f : CtxSt → CtxSt) (s : State) : core (updCtx c f s) x = core s x := rfl

@[simp] theorem ctx_updCtx_same (c : Nat) (f : CtxSt → CtxSt) (s : State) : ctx (updCtx c f s) c = f (ctx s c) := ctx_setCtx_same ..

section
variable {s s' : State} {r : RingIx} {e : Entry} {c : Nat}

theorem withTable_of_read {da n : Nat} {act : List Byte → State → State} {bs : List Byte} (hdma : canDma s = true)
    (hread : readTable (tableRead r e da n s) r e da n = .ok bs) : withTable r e da n s act = act bs (tableRead r e da n s) := by
  rw [withTable, if_neg (by simp [tableWaits, hdma])]
  simp only [hread]

/-! ### CTX_CREATE -/

section
variable {gs : List Nat} {tab : CtxTable} {seed : DWord}

/-- Windows and lists belong to clusters: no context and no core changes. -/
theorem tables_law (c : Nat) (tab : CtxTable) (s : State) : Law [.clus] s (tab.lists.foldl (setList c) (tab.wins.foldl (setWindow c) s)) :=
  Law.foldl _ _ _ (Law.foldl _ _ _ (Law.refl _ _) fun y w h => h.trans (setWindow_law c y w)) fun y l h => h.trans (setList_law c y l)

theorem ctx_makeCtx (c : Nat) (gs : List Nat) (tab : CtxTable) (seed : DWord) (s : State) : ctx (makeCtx c gs tab seed s) c =
    { created := true, gen := nextGen (ctx s c).gen, map := gs.map fun g => some (Fin.ofNat 144 g), seed := seed } := by
  have hcores : ∀ (f : State → Nat × Nat → CoreSt → CoreSt) (l : List (Nat × Nat)) (t : State),
      ctx (l.foldl (fun s p => updCore p.1 (f s p) s) t) c = ctx t c := fun f l t =>
    foldl_keeps (read := fun t => ctx t c) (f := fun (s : State) (p : Nat × Nat) => updCore p.1 (f s p) s) (fun _ _ => rfl) l t
  unfold makeCtx
  dsimp only
  rw [ctx_of_ctxs ((tables_law ..).1 .ctxs (by decide))]
  exact (hcores _ _ _).trans (ctx_setCtx_same ..)

/-- Every core granted is assigned, in the context's new generation. -/
theorem core_makeCtx {g : Nat} (hg : g ∈ gs) : (core (makeCtx c gs tab seed s) g).state = .assigned
    ∧ (core (makeCtx c gs tab seed s) g).gen = nextGen (ctx s c).gen := by
  unfold makeCtx
  dsimp only
  rw [core_of_cores ((tables_law ..).1 .cores (by decide))]
  obtain ⟨i, hi⟩ := List.getElem?_of_mem hg
  refine foldl_reaches (P := fun t => (core t g).state = .assigned ∧ (core t g).gen = nextGen (ctx s c).gen)
    (a := (g, i)) (List.mem_zipIdx_iff_getElem?.mpr hi) (fun x => ?_) (fun p _ _ x hx => ?_) _
  · simp
  · rw [core_updCore]
    split
    · exact ⟨rfl, rfl⟩
    · exact hx

end

/-! ### CTX_START -/

section
variable {bs : List Byte}

/-- A stream as CTX_START leaves it. -/
def StartedAt (r : Stream) (pc : Nat) : Prop := r.state = .running ∧ r.pc = BitVec.ofNat 32 pc ∧ r.sregs = []

@[simp] theorem strm_updCtx (c x y : Nat) (f : CtxSt → CtxSt) (s : State) : strm (updCtx c f s) x y = strm s x y := rfl

theorem strm_startFrom (g st pc x y : Nat) (s : State) : strm (startFrom g st pc s) x y = if x = g ∧ y = st then
    { strm s g st with
      sregs := [], flags := 0, pc := BitVec.ofNat 32 pc, state := .running, pending := false, stall := 0, stall0 := 0, fault := 0
      fbuf := [], wbase := BitVec.ofNat 32 pc } else strm s x y := by
  rw [startFrom, startStream, updStrm_eq, strm_setStrm, strm_updCtx, strm_updCtx, updStrm_eq, strm_setStrm_same, strm_setStrm]
  split <;> rfl

/-- The four streams of a core started: each is at its entry of the table, and no other core's stream changes. -/
theorem startCore_reads (g : Nat) (pcs : Nat → Nat) (s : State) :
    (∀ st : Str, StartedAt (strm ((List.range 4).foldl (fun s st => startFrom g st (pcs st) s) s) g st) (pcs st))
    ∧ ∀ x y, x ≠ g → strm ((List.range 4).foldl (fun s st => startFrom g st (pcs st) s) s) x y = strm s x y := by
  constructor
  · intro st
    refine foldl_reaches (P := fun t => StartedAt (strm t g st) (pcs st)) (a := st.val) (List.mem_range.mpr st.isLt) (fun x => ?_)
      (fun st' _ hne x hx => ?_) s
    · rw [strm_startFrom, if_pos ⟨rfl, rfl⟩]
      exact ⟨rfl, rfl, rfl⟩
    · rw [strm_startFrom, if_neg fun h => hne h.2.symm]
      exact hx
  · intro x y hx
    refine foldl_keeps (read := fun t => strm t x y) (f := fun (s : State) (st : Nat) => startFrom g st (pcs st) s) (fun u st => ?_) _ s
    rw [strm_startFrom, if_neg fun h => hx h.1]

theorem strm_startAll {v : Nat} {g : Core} (hnodup : (ctx s c).map.Nodup) (hmap : (ctx s c).map[v]? = some (some g)) (st : Str) :
    StartedAt (strm (startAll c bs s) g st) (getN bs (16 * v + 4 * st) 4) := by
  unfold startAll
  refine foldl_reaches (P := fun t => StartedAt (strm t g st) (getN bs (16 * v + 4 * st) 4)) (a := (some g, v))
    (List.mem_zipIdx_iff_getElem?.mpr hmap) (fun x => ?_) (fun p hp hne x hx => ?_) s
  · exact (startCore_reads g (fun st => getN bs (16 * v + 4 * st) 4) x).1 st
  · obtain ⟨g', v'⟩ := p
    cases g' with
    | none => exact hx
    | some g' =>
      have hother : g ≠ g' := by
        rintro rfl
        have hindex : v = v' := (List.getElem?_inj (List.getElem?_eq_some_iff.mp hmap).1 hnodup).mp
          (hmap.trans (List.mem_zipIdx_iff_getElem?.mp hp).symm)
        exact hne (by rw [hindex])
      dsimp only
      rw [(startCore_reads g' (fun st => getN bs (16 * v' + 4 * st) 4) x).2 g st fun h => hother (Fin.ext h)]
      exact hx

end

/-! ### CTX_TEARDOWN -/

theorem ctx_teardown (c : Nat) (by_ : Option (Nat × Half16 × Bool)) (s : State) :
    (ctx (teardown c by_ s) c).tearing = true ∧ (ctx (teardown c by_ s) c).tearRing = by_ := by
  rw [teardown, ctx_updCtx_same]
  exact ⟨rfl, rfl⟩

/-- A command whose context no reset affects is carried out. -/
theorem heldCommand_of_free {act : State} (h : ctxResets s (ent e 8 1) = false) : heldCommand r e s act = act := if_neg (by simp [h])

/-- A context removed: nothing is left of it but its generation, and its cores go to the scrub. -/
structure Removed (s t : State) (c : Nat) : Prop where
  created : (ctx t c).created = false
  gen : (ctx t c).gen = (ctx s c).gen
  map : (ctx t c).map = []
  cores : ∀ g ∈ coresOf s c, (core t g).state = .scrub

theorem Removed.of_law {L : List Part} {t u : State} (h : Removed s t c) (hlaw : Law L t u) (hctxs : .ctxs ∉ L) (hcores : .cores ∉ L) :
    Removed s u c := by
  have hctx : ctx u c = ctx t c := ctx_of_ctxs (hlaw.1 .ctxs hctxs) c
  have hcore : ∀ g, core u g = core t g := core_of_cores (hlaw.1 .cores hcores)
  exact ⟨hctx ▸ h.created, hctx ▸ h.gen, hctx ▸ h.map, fun g hg => (hcore g).symm ▸ h.cores g hg⟩

theorem coresOf_of_ctxs {t : State} (h : t.ctxs = s.ctxs) (c : Nat) : coresOf t c = coresOf s c := by rw [coresOf, coresOf, ctx_of_ctxs h]

/-- The scrub of a context's cores and its release. -/
def scrubbedCtx (c : Nat) (s : State) : State :=
  let t := completeAwaits c 0x1C [] s
  guardsLeft c (releaseCtx c (setCtx c { gen := (ctx s c).gen }
    ((coresOf t c).foldl (fun s g => updCore g (fun k => { k with state := .scrub }) (scrubCore g s)) t)))

theorem removed_scrubbedCtx (c : Nat) (s : State) : Removed s (scrubbedCtx c s) c := by
  have hawaits : (completeAwaits c 0x1C [] s).ctxs = s.ctxs := (completeAwaits_law ..).1 .ctxs (by decide)
  have hset : ∀ u : State, (∀ g ∈ coresOf s c, (core u g).state = .scrub) → Removed s (setCtx c { gen := (ctx s c).gen } u) c := fun u hu =>
    ⟨by rw [ctx_setCtx_same], by rw [ctx_setCtx_same], by rw [ctx_setCtx_same], hu⟩
  unfold scrubbedCtx
  dsimp only
  refine ((hset _ fun g hg => ?_).of_law (releaseCtx_law ..) (by decide) (by decide)).of_law (guardsLeft_law ..) (by decide) (by decide)
  refine foldl_reaches (P := fun t => (core t g).state = .scrub) (coresOf_of_ctxs hawaits c ▸ hg) (fun x => ?_) (fun b _ hne x hx => ?_) _
  · simp
  · have hscrub : core (scrubCore b x) g = core x g := by
      rw [scrubCore, core_updCore, if_neg (Ne.symm hne)]
      rfl
    rw [core_updCore, if_neg (Ne.symm hne), hscrub]
    exact hx

theorem does_teardownComplete {c : Ctx} (htearing : (ctx s c).tearing = true) : Does (.teardownComplete c) s fun t => Removed s t c := by
  have hdone := removed_scrubbedCtx c.val s
  have hexec : exec (.teardownComplete c) s = .next (removeCheck (scrubbedCtx c s))
      ∨ ∃ r e, exec (.teardownComplete c) s = .next (removeCheck (complete r e 0 (toBytes (lastStep s c).toNat 4) (scrubbedCtx c s))) := by
    change execTeardownComplete c s = _ ∨ ∃ r e, execTeardownComplete c s = _
    unfold execTeardownComplete
    rw [if_pos htearing]
    dsimp only
    split
    · split
      · exact .inr ⟨_, _, rfl⟩
      · exact .inl rfl
    · exact .inl rfl
  rcases hexec with hexec | ⟨r, e, hexec⟩
  · exact .of_exec hexec (hdone.of_law (removeCheck_law ..) (by decide) (by decide))
  · exact .of_exec hexec ((hdone.of_law (complete_law ..) (by decide) (by decide)).of_law (removeCheck_law ..) (by decide) (by decide))

end

/-! ### Protection sets -/

section
variable {s : State}

theorem hostSettings_putInForce (set : Tbl Word) : (putInForce set s).hst.force = set ∧ (putInForce set s).hst.edition = s.hst.edition + 1
    ∧ (putInForce set s).hst.refused = false := by
  have hpost : hostSettings (putInForce set s) = hostSettings { s with hst := { s.hst with
      edition := s.hst.edition + 1, force := set
      older := if setUsed s s.hst.edition then s.hst.older ++ [(s.hst.edition, s.hst.force)] else s.hst.older
      refused := false, commitPending := none } } := hostSettings_postEvent ..
  exact ⟨force_of_hostSettings hpost, edition_of_hostSettings hpost, refused_of_hostSettings hpost⟩

theorem does_protCommit {v : Word} (hheld : blockHeld s 0 = false) (hgo : bit v 0 = true) (hpend : s.hst.commitPending = none)
    (hok : commitRefusal s s.hst.staged = none) (hroom : s.hst.older.length < 3) :
    Does (.protCommit v) s fun t => t.hst.force = s.hst.staged ∧ t.hst.edition = s.hst.edition + 1 ∧ t.hst.refused = false := by
  have hexec : exec (.protCommit v) s = .next (putInForce s.hst.staged s) := by
    change execProtCommit v s = _
    unfold execProtCommit
    rw [if_neg (by simp [hheld]), if_neg (by simp [hgo]), if_neg (by simp [hpend]), hok]
    exact if_neg (by omega)
  exact .of_exec hexec (hostSettings_putInForce _)

theorem does_protSetRetire {ed : Half16} (hold : ∃ p ∈ s.hst.older, p.1 = ed) (hfree : setUsed s ed = false)
    (hpend : s.hst.commitPending = none) :
    Does (.protSetRetire ed) s fun t => t.hst.older = s.hst.older.filter fun p => p.1 ≠ ed := by
  have hexec : exec (.protSetRetire ed) s = .next { s with hst := { s.hst with older := s.hst.older.filter fun p => p.1 ≠ ed } } := by
    change execProtSetRetire ed s = _
    unfold execProtSetRetire
    rw [if_pos ⟨by simpa using hold, hfree⟩]
    simp only [hpend]
  exact .of_exec hexec rfl

end

/-! ### The ADMIN entries -/

section
variable {s s' : State} {r : RingIx} {e : Entry} {c : Nat} {bs : List Byte}

theorem ctxs_turnTaken (r' type : Nat) (t : State) : (turnTaken r' type t).ctxs = t.ctxs := (turnTaken_law ..).1 .ctxs (by decide)

theorem cores_turnTaken (r' type : Nat) (t : State) : (turnTaken r' type t).cores = t.cores := (turnTaken_law ..).1 .cores (by decide)

/-- What stands once CTX_CREATE has made its context. -/
def createdCtx (r : Nat) (e : Entry) (c : Nat) (gs : List Nat) (tab : CtxTable) (s : State) : State :=
  let t := makeCtx c gs tab (BitVec.ofNat 64 (ent e 24 8)) s
  complete r e 0 (toBytes (ctx t c).gen.toNat 1 ++ [0] ++ toBytes gs.length 2) t

theorem doCreate_of_granted {count : Bool} {tab : CtxTable} {gs : List Nat} (hc : c = ent e 8 1) (hlow : c ≤ 3)
    (hcount : count = decide (ent e 9 1 % 2 = 1)) (hn : ent e 12 4 ≤ 224) (hsome : count = true → ent e 10 2 ≠ 0) (hdma : canDma s = true)
    (htable : ent e 12 4 = 0 ∧ s' = s ∧ bs = [] ∨ ent e 12 4 ≠ 0 ∧ s' = tableRead r e (ent e 16 8) (8 * ent e 12 4) s
      ∧ readTable s' r e (ent e 16 8) (8 * ent e 12 4) = .ok bs)
    (hparse : parseTable count bs (ent e 12 4) 0 {} = some tab) (hcores : count = true ∨ tab.cores ≠ [])
    (hlists : tab.lists.all (listInside tab) = true)
    (hgrant : createCheck s' c (if count then some (ent e 10 2) else none) tab = .ok gs) :
    doCreate r e s = createdCtx r e c gs tab s' := by
  subst hc hcount
  have hform : ¬(3 < ent e 8 1 ∨ 224 < ent e 12 4 ∨ (ent e 9 1 % 2 = 1 ∧ ent e 10 2 = 0)) := by
    have h := fun h => hsome (decide_eq_true h)
    rintro (h | h | ⟨h1, h2⟩)
    · omega
    · omega
    · exact h h1 h2
  have hlist : ¬(¬ent e 9 1 % 2 = 1 ∧ tab.cores.isEmpty = true ∨ tab.lists.all (listInside tab) = false) := by
    rintro (⟨h1, h2⟩ | h)
    · exact hcores.elim (fun h => h1 (of_decide_eq_true h)) (fun h => h (by simpa using h2))
    · simp [hlists] at h
  unfold doCreate
  rw [if_neg hform]
  simp only [decide_eq_true_eq] at hgrant
  obtain ⟨h0, rfl, rfl⟩ | ⟨h0, rfl, hread⟩ := htable
  · rw [if_pos h0]
    dsimp only
    rw [hparse]
    dsimp only
    rw [if_neg (by simpa using hlist), hgrant]
    rfl
  · rw [if_neg h0, withTable_of_read hdma hread]
    dsimp only
    rw [hparse]
    dsimp only
    rw [if_neg (by simpa using hlist), hgrant]
    rfl

theorem createdCtx_reads {tab : CtxTable} {gs : List Nat} (hcqe : bits (entFlags e) 0 1 = 0) (hdma : canDma s = true) (hinv : Inv s) :
    Completed s (createdCtx r e c gs tab s) r e 0 (toBytes (nextGen (ctx s c).gen).toNat 1 ++ [0] ++ toBytes gs.length 2)
    ∧ (ctx (createdCtx r e c gs tab s) c).created = true ∧ (ctx (createdCtx r e c gs tab s) c).gen = nextGen (ctx s c).gen
    ∧ (ctx (createdCtx r e c gs tab s) c).map = gs.map (fun g => some (Fin.ofNat 144 g))
    ∧ ∀ g ∈ gs, (core (createdCtx r e c gs tab s) g).state = .assigned ∧ (core (createdCtx r e c gs tab s) g).gen = nextGen (ctx s c).gen := by
  unfold createdCtx
  dsimp only
  have hctxs := fun (x : List Byte) (t : State) => (complete_law r e 0 x t).1 .ctxs (by decide)
  have hkeep := fun (x : List Byte) (t : State) => (complete_law r e 0 x t).1 .cores (by decide)
  rw [ctx_of_ctxs (hctxs _ _), ctx_makeCtx]
  refine ⟨completed_of_law (makeCtx_law ..) (by decide) hcqe hdma hinv, rfl, rfl, rfl, fun g hg => ?_⟩
  rw [core_of_cores (hkeep _ _)]
  exact core_makeCtx hg

theorem does_ctxCreate {count : Bool} {tab : CtxTable} {gs : List Nat} (h : Waits s r 5 0x10 e) (hc : c = ent e 8 1) (hlow : c ≤ 3)
    (hcount : count = decide (ent e 9 1 % 2 = 1)) (hn : ent e 12 4 ≤ 224) (hsome : count = true → ent e 10 2 ≠ 0)
    (htable : ent e 12 4 = 0 ∧ s' = s ∧ bs = [] ∨ ent e 12 4 ≠ 0 ∧ s' = tableRead r e (ent e 16 8) (8 * ent e 12 4) s
      ∧ readTable s' r e (ent e 16 8) (8 * ent e 12 4) = .ok bs) (hdma : canDma s' = true) (hinv : Inv s')
    (hparse : parseTable count bs (ent e 12 4) 0 {} = some tab) (hcores : count = true ∨ tab.cores ≠ [])
    (hlists : tab.lists.all (listInside tab) = true)
    (hgrant : createCheck s' c (if count then some (ent e 10 2) else none) tab = .ok gs) :
    Does (.ctxCreate r) s fun t => Completed s' t r e 0 (toBytes (nextGen (ctx s' c).gen).toNat 1 ++ [0] ++ toBytes gs.length 2)
      ∧ (ctx t c).created = true ∧ (ctx t c).gen = nextGen (ctx s' c).gen ∧ (ctx t c).map = gs.map (fun g => some (Fin.ofNat 144 g))
      ∧ ∀ g ∈ gs, (core t g).state = .assigned ∧ (core t g).gen = nextGen (ctx s' c).gen := by
  obtain ⟨htake, hcqe, hdma₀, _⟩ := h
  refine .of_exec (t := onAdmin r 0x10 s fun e => doCreate r e s) rfl (onEntry_holds (P := fun t => Completed s' t r e 0 _ ∧ (ctx t c).created = true
    ∧ (ctx t c).gen = nextGen (ctx s' c).gen ∧ (ctx t c).map = gs.map (fun g => some (Fin.ofNat 144 g))
    ∧ ∀ g ∈ gs, (core t g).state = .assigned ∧ (core t g).gen = nextGen (ctx s' c).gen) htake (fun t ht => ?_) ?_)
  · simp only [ctx_of_ctxs (ctxs_turnTaken r 5 t), core_of_cores (cores_turnTaken r 5 t)]
    exact ⟨completed_turnTaken r 5 ht.1, ht.2⟩
  · rw [doCreate_of_granted hc hlow hcount hn hsome hdma₀ htable hparse hcores hlists hgrant]
    exact createdCtx_reads hcqe hdma hinv

theorem does_ctxStart (h : Waits s r 5 0x11 e) (hc : c = ent e 8 1) (hlow : c ≤ 3) (hfree : ctxResets s c = false)
    (hcreated : (ctx s c).created = true) (hwhole : (ctx s c).tearing = false) (hmapped : hasUnmapped s c = false)
    (hquiet : (coresOf s c).all (coreQuiet s) = true) (hs' : s' = tableRead r e (ent e 16 8) (16 * (ctx s c).map.length) s)
    (hdma : canDma s' = true) (hinv : Inv s') (hread : readTable s' r e (ent e 16 8) (16 * (ctx s c).map.length) = .ok bs)
    (hnodup : (ctx s' c).map.Nodup) :
    Does (.ctxStart r) s fun t => Completed s' t r e 0 [] ∧ ∀ (v : Nat) (g : Core) (st : Str), (ctx s' c).map[v]? = some (some g)
      → StartedAt (strm t g st) (getN bs (16 * v + 4 * st) 4) := by
  obtain ⟨htake, hcqe, hdma₀, _⟩ := h
  subst hc hs'
  refine .of_exec (t := onAdmin r 0x11 s fun e => heldCommand r e s (doStart r e s)) rfl (onEntry_holds
    (P := fun t => Completed _ t r e 0 [] ∧ ∀ (v : Nat) (g : Core) (st : Str), (ctx _ (ent e 8 1)).map[v]? = some (some g)
      → StartedAt (strm t g st) (getN bs (16 * v + 4 * st) 4)) htake (fun t ht => ?_) ?_)
  · simp only [strm_of_cores (cores_turnTaken r 5 t)]
    exact ⟨completed_turnTaken r 5 ht.1, ht.2⟩
  · rw [heldCommand_of_free hfree, doStart]
    rw [if_neg (by omega), if_neg (by simp [hcreated, hwhole]), if_neg (by simp [hmapped]), if_neg (by simp [hquiet]),
      withTable_of_read hdma₀ hread]
    refine ⟨completed_of_law (startAll_law ..) (by decide) hcqe hdma hinv, fun v g st hv => ?_⟩
    have hkeep : ∀ t : State, (complete r e 0 [] t).cores = t.cores := fun t => (complete_law ..).1 .cores (by decide)
    rw [strm_of_cores (hkeep _)]
    exact strm_startAll hnodup hv st

theorem does_ctxTeardown (htake : takeEntry s r 5 0x12 = some e) (hc : c = ent e 8 1) (hlow : c ≤ 3) (hfree : ctxResets s c = false)
    (hcreated : (ctx s c).created = true) (hwhole : (ctx s c).tearing = false) :
    Does (.ctxTeardown r) s fun t => (ctx t c).tearing = true ∧ (ctx t c).tearRing = some (r.val, BitVec.ofNat 16 (entTag e), false) := by
  subst hc
  refine .of_exec (t := onAdmin r 0x12 s fun e => heldCommand r e s (doTeardown r e s)) rfl (onEntry_holds (P := fun t => (ctx t (ent e 8 1)).tearing = true
    ∧ (ctx t (ent e 8 1)).tearRing = some (r.val, BitVec.ofNat 16 (entTag e), false)) htake (fun t ht => ?_) ?_)
  · rw [ctx_of_ctxs (ctxs_turnTaken r 5 t)]
    exact ht
  · rw [heldCommand_of_free hfree, doTeardown]
    rw [if_neg (by omega), if_neg (by simp [hcreated, hwhole])]
    exact ctx_teardown ..

theorem does_modeStage (htake : takeEntry s r 5 0x13 = some e) (hc : c = ent e 8 1) (hlow : c ≤ 3) (hcreated : (ctx s c).created = true)
    (hnext : ent e 10 2 = ((ctx s c).modeEd.toNat + 1) % 65536) (hnone : (ctx s c).staged = none)
    (htable : ∀ v ∈ modeEntries e, bits v 0 3 < 5 ∧ bits v 3 4 < 8) (hwait : 1 ≤ ent e 16 4) (hmost : ent e 16 4 ≤ 100000) :
    Does (.modeStage r) s fun t => ∃ m : StagedMode, (ctx t c).staged = some m ∧ m.edition = BitVec.ofNat 16 (ent e 10 2)
        ∧ m.applyStep = BitVec.ofNat 32 (ent e 12 4) ∧ m.timeout = ent e 16 4 ∧ m.table = modeEntries e ∧ m.arrived = [] := by
  subst hc
  have hgood : (modeEntries e).any (fun v => decide (5 ≤ bits v 0 3) || decide (8 ≤ bits v 3 4)) = false := by
    refine List.any_eq_false.mpr fun v hv => ?_
    have := htable v hv
    simp
    omega
  refine .of_exec rfl (onEntry_holds (P := fun t => ∃ m : StagedMode, (ctx t (ent e 8 1)).staged = some m ∧ m.edition = BitVec.ofNat 16 (ent e 10 2)
        ∧ m.applyStep = BitVec.ofNat 32 (ent e 12 4) ∧ m.timeout = ent e 16 4 ∧ m.table = modeEntries e ∧ m.arrived = []) htake (fun t ht => ?_) ?_)
  · rw [ctx_of_ctxs (ctxs_turnTaken r 5 t)]
    exact ht
  · dsimp only
    rw [if_neg (by omega), if_neg (by simp [hcreated]), if_neg (by simp [hnext]), if_neg (by simp [hnone]),
      if_neg (by simp [hgood]; omega), ctx_updCtx_same]
    exact ⟨_, rfl, rfl, rfl, rfl, rfl, rfl⟩

theorem fenceList_onAdmin {opc : Nat} {act : Entry → State} {P : Tbl Byte → Prop} (htake : takeEntry s r 5 opc = some e)
    (h : P (act e).idb.fenceList) : P (onAdmin r opc s act).idb.fenceList := by
  refine onEntry_holds (P := fun t => P t.idb.fenceList) htake (fun t ht => ?_) h
  rw [(turnTaken_law ..).1 .idb (by decide)]
  exact ht

theorem does_coreFence (htake : takeEntry s r 5 0x18 = some e) (hg : ent e 8 2 < 144) (hgood : inGood s (ent e 8 2) = true)
    (habsent : (core s (ent e 8 2)).state ≠ .absent) (hfenced : (core s (ent e 8 2)).state ≠ .fenced) :
    Does (.coreFence r) s fun t => Tbl.get 0 t.idb.fenceList (ent e 8 2) = 7 := by
  refine .of_exec rfl (fenceList_onAdmin (P := fun l => Tbl.get 0 l (ent e 8 2) = 7) htake ?_)
  rw [if_neg (by simp [hgood]; omega), (complete_law ..).1 .idb (by decide)]
  exact fenceList_fenceCore 7 habsent hfenced

/-- FENCE_CLEAR carried out. -/
def clearedFence (r : Nat) (s : State) (e : Entry) : State :=
  if ent e 8 2 = 0xFFFF then complete r e 0 [] { s with idb := { s.idb with fenceList := [] } }
  else if 144 ≤ ent e 8 2 then complete r e 0x10 [] s
  else complete r e 0 [] { s with idb := { s.idb with fenceList := s.idb.fenceList.filter fun p => p.1 ≠ ent e 8 2 } }

theorem exec_fenceClear (r : RingIx) (s : State) : exec (.fenceClear r) s = .next (onAdmin r 0x19 s (clearedFence r s)) := rfl

/-- The fence list with entries taken off, and the command completed. -/
theorem does_fenceClear {list : Tbl Byte} (h : Waits s r 5 0x19 e)
    (hact : clearedFence r s e = complete r e 0 [] { s with idb := { s.idb with fenceList := list } }) :
    Does (.fenceClear r) s fun t => Completed s t r e 0 [] ∧ t.idb.fenceList = list := by
  have hlaw : Law [.idb] s { s with idb := { s.idb with fenceList := list } } := Law.set_idb _ (by decide) (Law.refl _ _)
  obtain ⟨hidb, hdone⟩ := onAdmin_completes (read := fun t => t.idb.fenceList) h hact hlaw (by decide) fun t t' hl =>
    congrArg _ (hl.1 .idb (by decide))
  exact .of_exec (exec_fenceClear r s) ⟨hdone, hidb⟩

theorem Tbl.get_erase {α : Type} (d : α) (t : Tbl α) (k : Nat) : Tbl.get d (t.filter fun p => p.1 ≠ k) k = d := by
  induction t with
  | nil => rfl
  | cons p t ih =>
    obtain ⟨k', v⟩ := p
    by_cases h : k' = k
    · simpa [h] using ih
    · simpa [h, Tbl.get, Ne.symm h] using ih

end

/-- Settles O12. -/
theorem contextCommandsComplete : Obligations.ContextCommandsComplete := by
  unfold Obligations.ContextCommandsComplete
  refine ⟨?create, ?start, ?teardown, ?removed, ?mode, ?fence, ?clear, ?clearAll, ?commit, ?retire⟩
  case create =>
    intro s s' r e c count bs tab gs h hc hlow hcount hn hsome htable hdma hinv hparse hcores hlists hgrant
    exact does_ctxCreate h hc hlow hcount hn hsome htable hdma hinv hparse hcores hlists hgrant
  case start =>
    intro s s' r e c bs h hc hlow hfree hcreated hwhole hmapped hquiet hs' hdma hinv hread hnodup
    exact does_ctxStart h hc hlow hfree hcreated hwhole hmapped hquiet hs' hdma hinv hread hnodup
  case teardown => exact fun s r e c htake hc hlow hfree hcreated hwhole => does_ctxTeardown htake hc hlow hfree hcreated hwhole
  case removed => exact fun s c htearing => (does_teardownComplete htearing).mono fun t h => ⟨h.created, h.gen, h.map, h.cores⟩
  case mode =>
    exact fun s r e c htake hc hlow hcreated hnext hnone htable hwait hmost => does_modeStage htake hc hlow hcreated hnext hnone htable hwait hmost
  case fence => exact fun s r e htake hg hgood habsent hfenced => does_coreFence htake hg hgood habsent hfenced
  case clear =>
    intro s r e h hg
    refine (does_fenceClear h ((if_neg (by omega)).trans (if_neg (by omega)))).mono fun t ht => ⟨ht.1, ?_⟩
    rw [ht.2]
    exact Tbl.get_erase ..
  case clearAll => exact fun s r e h hall => does_fenceClear h (if_pos hall)
  case commit => exact fun s v hheld hgo hpend hok hroom => does_protCommit hheld hgo hpend hok hroom
  case retire => exact fun s ed hold hfree hpend => does_protSetRetire hold hfree hpend

end Sys2Proof.Machine
end

section
/-! ### Fabric optics: what the lanes' and pairs' changes leave of a plane (11_fabric_optics.md R217 to R228) -/

namespace Sys2Proof.Machine

/-- A plane without its lanes and pairs: its combs, its switch, its hand-over and its readings. -/
def plane (s : State) (p : Nat) : FabSt := { fab s p with tx := [], rx := [], pairs := [] }

/-- What is read of a plane through its record without lanes and pairs. -/
theorem hand_of_plane {s t : State} {p : Nat} (h : plane t p = plane s p) : (fab t p).hand = (fab s p).hand := (congrArg FabSt.hand h :)
theorem combs_of_plane {s t : State} {p : Nat} (h : plane t p = plane s p) : (fab t p).combs = (fab s p).combs := (congrArg FabSt.combs h :)
theorem taps_of_plane {s t : State} {p : Nat} (h : plane t p = plane s p) : (fab t p).taps = (fab s p).taps := (congrArg FabSt.taps h :)

theorem fabComb_of_plane {s t : State} {p : Nat} (h : plane t p = plane s p) (c : Nat) : fabComb t p c = fabComb s p c := by
  rw [fabComb, fabComb, combs_of_plane h]

theorem fab_of_fab {s t : State} (h : t.fab = s.fab) (p : Nat) : fab t p = fab s p := by rw [fab, fab, h]

theorem plane_of_fab {s t : State} (h : t.fab = s.fab) (p : Nat) : plane t p = plane s p := by rw [plane, plane, fab_of_fab h]

theorem fab_updFab (p q : Nat) (f : FabSt → FabSt) (s : State) : fab (updFab p f s) q = if q = p then f (fab s p) else fab s q := by
  rw [fab, updFab, setFab, Tbl.get_set]
  rfl

theorem fab_updFab_same (p : Nat) (f : FabSt → FabSt) (s : State) : fab (updFab p f s) p = f (fab s p) := by rw [fab_updFab, if_pos rfl]

/-- A change of a plane that does not show without its lanes and pairs. -/
theorem plane_updFab {f : FabSt → FabSt} (hf : ∀ k : FabSt, { f k with tx := [], rx := [], pairs := [] } = { k with tx := [], rx := [], pairs := [] })
    (p q : Nat) (s : State) : plane (updFab p f s) q = plane s q := by
  rw [plane, plane, fab_updFab]
  split
  · next h => rw [hf, h]
  · rfl

section
variable (s : State) (p l q m : Nat)

@[simp] theorem plane_setPair (k : Pair) : plane (setPair p l k s) q = plane s q :=
  plane_updFab (f := fun f => { f with pairs := Tbl.set f.pairs l k }) (fun _ => rfl) ..

@[simp] theorem plane_updPair (f : Pair → Pair) : plane (updPair p l f s) q = plane s q := plane_setPair ..

@[simp] theorem plane_setTx (k : LaneSt) : plane (setTx p l k s) q = plane s q :=
  plane_updFab (f := fun f => { f with tx := Tbl.set f.tx l k }) (fun _ => rfl) ..

@[simp] theorem plane_setRx (k : LaneSt) : plane (setRx p l k s) q = plane s q :=
  plane_updFab (f := fun f => { f with rx := Tbl.set f.rx l k }) (fun _ => rfl) ..

@[simp] theorem plane_setLane (rx : Bool) (k : LaneSt) : plane (setLane p l rx k s) q = plane s q := by
  cases rx
  · exact plane_setTx ..
  · exact plane_setRx ..

@[simp] theorem plane_send (ch : Chan_) (kind : Nat) (args : List Nat) : plane (send ch kind args s) q = plane s q := rfl

@[simp] theorem plane_sendPhase (phase : Nat) : plane (sendPhase p l phase s) q = plane s q := by
  unfold sendPhase
  split
  · rfl
  · exact plane_send ..

@[simp] theorem plane_sendTrain : plane (sendTrain p l s) q = plane s q := by rw [sendTrain, plane_sendPhase, plane_updPair]

@[simp] theorem plane_logFab (low el p0 p1 p2 p3 : Nat) : plane (logFab p low el p0 p1 p2 p3 s) q = plane s q := plane_of_fab (logFab_fab ..) q

@[simp] theorem plane_toRetrain (cause : Nat) : plane (toRetrain p l cause s) q = plane s q := by
  rw [toRetrain, plane_sendTrain, plane_logFab, plane_setPair]

@[simp] theorem plane_pairLost : plane (pairLost p l s) q = plane s q := by
  unfold pairLost
  dsimp only
  split
  · rfl
  · exact plane_setPair ..
  · exact plane_toRetrain ..

@[simp] theorem plane_pairLit : plane (pairLit p l s) q = plane s q := by
  unfold pairLit
  dsimp only
  split
  · split
    · rw [plane_sendTrain, plane_setPair]
    · split
      · rw [plane_sendTrain, plane_setPair]
      · rfl
    · split
      · rw [plane_sendTrain, plane_setPair]
      · rfl
    · rfl
  · rfl

@[simp] theorem plane_unlitLane (rx : Bool) (st : OptState) : plane (unlitLane p l rx st s) q = plane s q := by
  unfold unlitLane
  dsimp only
  split
  · split
    · rw [plane_pairLost, plane_setLane]
    · exact plane_setLane ..
  · exact plane_setLane ..

theorem plane_unholdAll : plane (unholdAll p s) q = plane s q := by
  unfold unholdAll
  exact foldl_keeps (read := fun t => plane t q) (f := fun (s : State) (l : Nat) => updPair p l (fun k => { k with held := false, laneDue := true }) s)
    (fun t l => plane_updPair t p l q _) _ s

theorem plane_stopLanes (held : Bool) : plane (stopLanes p held s) q = plane s q := by
  unfold stopLanes
  refine foldl_keeps (read := fun t => plane t q) (f := fun (s : State) (l : Nat) => updPair p l (fun k => { k with held := true, laneDue := true })
    (if held then setTx p l { txLane s p l with state := .held } s else s)) (fun t l => ?_) _ s
  split
  · exact (plane_updPair ..).trans (plane_setTx ..)
  · exact plane_updPair ..

end

/-! ### Combs and hand-overs -/

section
variable (s : State) (p q : Nat)

theorem fab_setHand (h : Option FabHand) : fab (setHand p h s) p = { fab s p with hand := h } := fab_updFab_same ..

theorem fab_setHand_other (h : Option FabHand) (hq : q ≠ p) : fab (setHand p h s) q = fab s q := by rw [setHand, fab_updFab, if_neg hq]

theorem fab_setComb (c : Nat) (k : FabComb) : fab (setComb p c k s) p = { fab s p with combs := Tbl.set (fab s p).combs c k } := fab_updFab_same ..

theorem fabComb_setComb (c d : Nat) (k : FabComb) : fabComb (setComb p c k s) p d = if d = c then k else fabComb s p d := by
  rw [fabComb, fab_setComb, Tbl.get_set]
  rfl

theorem fabComb_setHand (h : Option FabHand) (c : Nat) : fabComb (setHand p h s) p c = fabComb s p c := by rw [fabComb, fab_setHand]; rfl

end

/-! ### The lanes of a plane stopped and let go -/

section
variable (s : State) (p l q m : Nat)

theorem txLane_setTx (k : LaneSt) : txLane (setTx p l k s) p m = if m = l then k else txLane s p m := by
  rw [txLane, setTx, fab_updFab_same, Tbl.get_set]
  rfl

theorem txLane_setPair (k : Pair) : txLane (setPair p l k s) p m = txLane s p m := by
  rw [txLane, setPair, fab_updFab_same]
  rfl

theorem txLane_updPair (f : Pair → Pair) : txLane (updPair p l f s) p m = txLane s p m := txLane_setPair ..

theorem pair_setPair (k : Pair) : pair (setPair p l k s) p m = if m = l then k else pair s p m := by
  rw [pair, setPair, fab_updFab_same, Tbl.get_set]
  rfl

theorem pair_updPair_at (f : Pair → Pair) : pair (updPair p l f s) p m = if m = l then f (pair s p l) else pair s p m := pair_setPair ..

theorem pair_setTx (k : LaneSt) : pair (setTx p l k s) p m = pair s p m := by
  rw [pair, setTx, fab_updFab_same]
  rfl

theorem txLane_of_fab {t : State} (h : t.fab = s.fab) : txLane t p m = txLane s p m := by rw [txLane, txLane, fab_of_fab h]

theorem fab_sendPhase (phase : Nat) : (sendPhase p l phase s).fab = s.fab := by
  unfold sendPhase
  split <;> rfl

theorem txLane_sendTrain : txLane (sendTrain p l s) p m = txLane s p m := by
  rw [sendTrain, txLane_of_fab _ _ _ (fab_sendPhase ..), txLane_updPair]

theorem held_sendTrain : (pair (sendTrain p l s) p m).held = (pair s p m).held := by
  rw [sendTrain, pair_of_fab (fab_sendPhase ..), pair_updPair_at]
  split
  · next h => rw [h]
  · rfl

/-- A pair that starts its training changes no transmit lane and no pair's hold. -/
theorem pairLit_keeps : txLane (pairLit p l s) p m = txLane s p m ∧ (pair (pairLit p l s) p m).held = (pair s p m).held := by
  have hset : ∀ k : Pair, k.held = (pair s p l).held → txLane (sendTrain p l (setPair p l k s)) p m = txLane s p m
      ∧ (pair (sendTrain p l (setPair p l k s)) p m).held = (pair s p m).held := by
    intro k hk
    rw [txLane_sendTrain, txLane_setPair, held_sendTrain, pair_setPair]
    refine ⟨rfl, ?_⟩
    split
    · next h => rw [hk, h]
    · rfl
  unfold pairLit
  dsimp only
  split
  · split
    · exact hset _ rfl
    · split
      · exact hset _ rfl
      · exact ⟨rfl, rfl⟩
    · split
      · exact hset _ rfl
      · exact ⟨rfl, rfl⟩
    · exact ⟨rfl, rfl⟩
  · exact ⟨rfl, rfl⟩

end

section
variable {s : State} {p : Nat} {l : Lane}

theorem mem_lanes (l : Lane) : l.val ∈ List.range 16 := List.mem_range.mpr l.isLt

/-- The lit lanes of a plane held, and their pairs stopped. -/
theorem stopLanes_reads (hlit : (txLane s p l).state = .lit) :
    (txLane (stopLanes p true s) p l).state = .held ∧ (pair (stopLanes p true s) p l).held = true := by
  unfold stopLanes
  refine foldl_reaches (P := fun t => (txLane t p l).state = .held ∧ (pair t p l).held = true) (a := l.val)
    (List.mem_filter.mpr ⟨mem_lanes l, by simpa using hlit⟩) (fun x => ?_) (fun b _ hne x hx => ?_) s
  · rw [if_pos rfl, txLane_updPair, txLane_setTx, pair_updPair_at, if_pos rfl, if_pos rfl]
    exact ⟨rfl, rfl⟩
  · rw [if_pos rfl, txLane_updPair, txLane_setTx, pair_updPair_at, if_neg (Ne.symm hne), if_neg (Ne.symm hne), pair_setTx]
    exact hx

theorem held_unholdAll (s : State) (p : Nat) (l : Lane) : (pair (unholdAll p s) p l).held = false := by
  unfold unholdAll
  have hother : ∀ b, b ≠ l.val → ∀ x : State, pair (updPair p b (fun k => { k with held := false, laneDue := true }) x) p l = pair x p l :=
    fun b hne x => by rw [pair_updPair_at, if_neg (Ne.symm hne)]
  by_cases hheld : (pair s p l).held = true
  · refine foldl_reaches (P := fun t => (pair t p l).held = false) (a := l.val) (List.mem_filter.mpr ⟨mem_lanes l, hheld⟩) (fun x => ?_)
      (fun b _ hne x hx => ?_) s
    · rw [pair_updPair]
    · rw [hother b hne]
      exact hx
  · refine List.foldlRecOn (motive := fun t : State => (pair t p l).held = false) _ _ (by simpa using hheld) fun x hx b hb => ?_
    have hne : b ≠ l.val := fun h => hheld (h ▸ (List.mem_filter.mp hb).2)
    rw [hother b hne]
    exact hx

/-- Held lanes are lit again, and no pair of the plane is stopped. -/
theorem releaseHeldLanes_reads (hheld : (txLane s p l).state = .held) :
    (txLane (releaseHeldLanes p s) p l).state = .lit ∧ (pair (releaseHeldLanes p s) p l).held = false := by
  unfold releaseHeldLanes
  constructor
  · refine foldl_reaches (P := fun t => (txLane t p l).state = .lit) (a := l.val)
      (List.mem_filter.mpr ⟨mem_lanes l, by simpa using hheld⟩) (fun x => ?_) (fun b _ hne x hx => ?_) _
    · rw [(pairLit_keeps ..).1, txLane_setTx, if_pos rfl]
    · rw [(pairLit_keeps ..).1, txLane_setTx, if_neg (Ne.symm hne)]
      exact hx
  · rw [← held_unholdAll s p l]
    refine foldl_keeps (read := fun t => (pair t p l).held) (f := fun (s : State) (l : Nat) =>
      pairLit p l (setTx p l { txLane s p l with state := .lit } s)) (fun t b => ?_) _ _
    exact (pairLit_keeps ..).2.trans (by rw [pair_setTx])

end

end Sys2Proof.Machine
end

section
/-! ### Readings of the taps and of the combs (11_fabric_optics.md R220 to R223), then the fabric commands -/

namespace Sys2Proof.Machine

/-- A plane gone dark: its lanes and pairs as they then are, and no hand-over. -/
def darkened (f : FabSt) : FabSt :=
  { f with
    tx := f.tx.map fun q => (q.1, if q.2.state = .failed then q.2 else { q.2 with state := .dark })
    rx := f.rx.map fun q => (q.1, if q.2.state = .failed then q.2 else { q.2 with state := .dark })
    pairs := f.pairs.map fun q => (q.1, ({ retrains := q.2.retrains, trainFails := q.2.trainFails, replays := q.2.replays,
                                           discards := q.2.discards } : Pair))
    hand := none }

theorem fab_darkAll (s : State) : (darkAll s).fab = s.fab.map fun p => (p.1, darkened p.2) := rfl

/-- Every tap and every comb's mean loss read as before. -/
structure SameReadings (s t : State) : Prop where
  taps : ∀ p, (fab t p).taps = (fab s p).taps
  loss : ∀ p c, (fabComb t p c).loss = (fabComb s p c).loss

namespace SameReadings
variable {s t u : State}

theorem refl (s : State) : SameReadings s s := ⟨fun _ => rfl, fun _ _ => rfl⟩

theorem trans (h : SameReadings s t) (k : SameReadings t u) : SameReadings s u :=
  ⟨fun p => (k.taps p).trans (h.taps p), fun p c => (k.loss p c).trans (h.loss p c)⟩

theorem foldl {α : Type} {f : State → α → State} (h : ∀ x a, SameReadings x (f x a)) (l : List α) (s : State) : SameReadings s (l.foldl f s) := by
  induction l generalizing s with
  | nil => exact refl s
  | cons a l ih => exact (h s a).trans (ih _)

theorem of_plane (h : ∀ p, plane t p = plane s p) : SameReadings s t :=
  ⟨fun p => taps_of_plane (h p), fun p c => by rw [fabComb_of_plane (h p)]⟩

theorem of_fab (h : t.fab = s.fab) : SameReadings s t := of_plane fun p => plane_of_fab h p

theorem updFab (p : Nat) {f : FabSt → FabSt} (htaps : ∀ k, (f k).taps = k.taps)
    (hloss : ∀ c, (Tbl.get {} (f (fab s p)).combs c).loss = (Tbl.get {} (fab s p).combs c).loss) : SameReadings s (updFab p f s) where
  taps q := by
    rw [fab_updFab]
    split
    · next h => rw [htaps, h]
    · rfl
  loss q c := by
    rw [fabComb, fab_updFab, fabComb]
    split
    · next h => rw [hloss, h]
    · rfl

theorem setComb (p c : Nat) {k : FabComb} (hk : k.loss = (fabComb s p c).loss) : SameReadings s (setComb p c k s) :=
  updFab p (fun _ => rfl) fun d => by
    rw [Tbl.get_set]
    split
    · next h => rw [hk, h, fabComb]
    · rfl

theorem setHand (p : Nat) (h : Option FabHand) (s : State) : SameReadings s (setHand p h s) := updFab p (fun _ => rfl) fun _ => rfl

theorem logFab (p low el p0 p1 p2 p3 : Nat) (s : State) : SameReadings s (logFab p low el p0 p1 p2 p3 s) := of_fab (logFab_fab ..)

theorem report (body : List Nat) (s : State) : SameReadings s (report body s) := of_fab ((report_law ..).1 .fab (by decide))

theorem enqueue (p l : Nat) (fs : List Flit) (s : State) : SameReadings s (enqueue p l fs s) := of_plane fun _ => plane_updPair ..

theorem sendCtrl (m kind : Nat) (bs : List Byte) (s : State) : SameReadings s (sendCtrl m kind bs s) := by
  unfold Machine.sendCtrl
  split
  · have hlink : ∀ l : LinkSt, SameReadings s { s with link := l } := fun _ => of_fab rfl
    exact (hlink _).trans (enqueue ..)
  · exact refl s

/-! A context torn down -/

theorem genAdvance (c : Nat) (s : State) : SameReadings s (genAdvance c s) := by
  unfold Machine.genAdvance
  split
  · exact refl s
  · dsimp only
    rw [sendGenChange]
    have hctx : ∀ f, SameReadings s (updCtx c f s) := fun _ => of_fab rfl
    refine ((hctx _).trans (foldl (fun x g => ?core) _ _)).trans (foldl (fun x m => ?send) _ _)
    case core => exact of_fab rfl
    case send =>
      split
      · exact sendCtrl ..
      · exact refl x

theorem dropLink (c : Nat) (s : State) : SameReadings s (dropLink c s) := by
  have hdrop : ∀ (x : State) (q : Nat × Nat), SameReadings x (updPair q.1 q.2 (dropWaiting c) x) := fun x q => of_plane fun _ => plane_updPair ..
  unfold Machine.dropLink
  exact trans (foldl hdrop _ _) (of_fab rfl)

theorem disposeCtx (c : Nat) (s : State) : SameReadings s (disposeCtx c s) := by
  have hmode : SameReadings s (modeAbort c 3 s) := of_fab ((modeAbort_law ..).1 .fab (by decide))
  have hcore : ∀ (x : State) (g : Nat), SameReadings x (disposeCore g x) := fun x g => of_fab ((disposeCore_law g x).1 .fab (by decide))
  have hcopies : ∀ x, SameReadings x (disposeCopies c x) := fun x => of_fab ((disposeCopies_law c x).1 .fab (by decide))
  have hckpt : ∀ x, SameReadings x (ckptResetBeforeCut c x) := fun x => of_fab ((ckptResetBeforeCut_law c x).1 .fab (by decide))
  unfold Machine.disposeCtx
  exact ((((hmode.trans (foldl hcore _ _)).trans (hcopies _)).trans (hckpt _)).trans (dropLink ..))

theorem teardown (c : Nat) (by_ : Option (Nat × Half16 × Bool)) (s : State) : SameReadings s (teardown c by_ s) := by
  have hawaits : ∀ x, SameReadings x (completeAwaits c 0x1C [] x) := fun x => of_fab ((completeAwaits_law c 0x1C [] x).1 .fab (by decide))
  have hctx : ∀ x f, SameReadings x (updCtx c f x) := fun _ _ => of_fab rfl
  unfold Machine.teardown
  exact (((genAdvance c s).trans (disposeCtx ..)).trans (hawaits _)).trans (hctx _ _)

theorem darkAll (s : State) : SameReadings s (darkAll s) := by
  have hplane : ∀ p, fab (Machine.darkAll s) p = darkened (fab s p) := fun p => by
    rw [fab, fab_darkAll, Tbl.get_map {} darkened rfl, fab]
  exact ⟨fun p => by rw [hplane]; rfl, fun p c => by rw [fabComb, hplane]; rfl⟩

theorem enterFenced (cause : Nat) (s : State) : SameReadings s (enterFenced cause s) := by
  have habort : ∀ x, SameReadings x (abortHeld x) := fun x => of_fab ((abortHeld_law x).1 .fab (by decide))
  have hannounce : ∀ x, SameReadings x (announceState 6 cause x) := fun x => of_fab ((announceState_law 6 cause x).1 .fab (by decide))
  unfold Machine.enterFenced
  have hboot : ∀ (x : State) (b : BootSt), SameReadings x { x with boot := b } := fun _ _ => of_fab rfl
  exact ((((foldl (fun x c => teardown c none x) _ s).trans (hboot _ _)).trans (darkAll _)).trans (habort _)).trans (hannounce _)

theorem recheckState (s : State) : SameReadings s (recheckState s) := by
  have hannounce : ∀ x, SameReadings x (announceState 5 (degradeMask s) x) := fun x => of_fab ((announceState_law 5 _ x).1 .fab (by decide))
  unfold Machine.recheckState
  split
  · exact enterFenced ..
  · split
    · have hboot : ∀ b : BootSt, SameReadings s { s with boot := b } := fun _ => of_fab rfl
      exact (hboot _).trans (hannounce _)
    · exact refl s

/-! Lanes lost, losses located, the comb judged -/

theorem planeRetire (p : Nat) (s : State) : SameReadings s (planeRetire p s) := by
  have hunlit : ∀ (x : State) (l : Nat), SameReadings x (unlitLane p l false .dark x) := fun x l => of_plane fun _ => plane_unlitLane ..
  have hunhold : ∀ x, SameReadings x (unholdAll p x) := fun x => of_plane fun _ => plane_unholdAll ..
  have hret : ∀ x, SameReadings x (Machine.updFab p (fun f => { f with txRetired := true, hand := none }) x) := fun x =>
    updFab p (fun _ => rfl) fun _ => rfl
  have hlanes := (foldl hunlit ((List.range 16).filter fun l => (txLane s p l).state ≠ .dark ∧ (txLane s p l).state ≠ .failed) s).trans (hunhold _)
  unfold Machine.planeRetire
  extract_lets
  refine trans ?_ (recheckState _)
  refine trans ?_ (report ..)
  refine trans ?_ (logFab ..)
  refine trans ?_ (hret _)
  refine trans hlanes (setComb p _ ?_)
  exact (hlanes.loss p _).symm

theorem stopLanes (p : Nat) (held : Bool) (s : State) : SameReadings s (stopLanes p held s) := of_plane fun _ => plane_stopLanes ..

theorem enterHand (p : Nat) (h : FabHand) (s : State) : SameReadings s (enterHand p h s) := by
  unfold Machine.enterHand
  dsimp only
  split
  · split
    · exact (setHand ..).trans (stopLanes ..)
    · exact setHand ..
  · have hnext := (setComb (s := s) p (spareOf s p) (k := { fabComb s p (spareOf s p) with state := 1 }) rfl).trans
      (setHand p (some { h with step := 1, turn := false, since := s.now }) _)
    split
    · exact hnext.trans (stopLanes ..)
    · exact hnext

theorem askScheduled (p : Nat) (s : State) : SameReadings s (askScheduled p s) := by
  unfold Machine.askScheduled
  split
  · exact setHand ..
  · exact enterHand ..

theorem askForced (p : Nat) (s : State) : SameReadings s (askForced p s) := by
  unfold Machine.askForced
  split
  · exact planeRetire ..
  · split
    · split
      · exact refl s
      · split
        · exact setHand ..
        · exact enterHand ..
    · exact enterHand ..

theorem combThresholds (p : Nat) (s : State) : SameReadings s (combThresholds p s) := by
  unfold Machine.combThresholds
  extract_lets c k loss line ber warn sched force s1 slog sp ksp s2
  have h1 : SameReadings s s1 := setComb p c rfl
  have h2 : SameReadings s s2 := by
    dsimp only [s2]
    split
    · split
      · exact (h1.trans (logFab ..)).trans (setComb p sp rfl)
      · exact h1.trans (logFab ..)
    · exact h1
  split
  · exact h2.trans (askForced ..)
  · split
    · exact h2.trans (askScheduled ..)
    · exact h2

theorem locate (p cause el i : Nat) (fall reading : Int) (s : State) : SameReadings s (locate p cause el i fall reading s) := by
  unfold Machine.locate
  split
  · exact refl s
  · exact (updFab p (f := fun f => { f with located := (cause, i) :: f.located }) (fun _ => rfl) fun _ => rfl).trans (logFab ..)

theorem failLane (p l : Nat) (rx : Bool) (code : Nat) (ps : List Nat) (s : State) : SameReadings s (failLane p l rx code ps s) := by
  have hunlit : SameReadings s (unlitLane p l rx .failed s) := of_plane fun _ => plane_unlitLane ..
  exact hunlit.trans (report ..)

theorem stageFail (p l : Nat) (rx : Bool) (cause code i : Nat) (s : State) : SameReadings s (stageFail p l rx cause code i s) :=
  (locate ..).trans (failLane ..)

theorem checkTx (p l : Nat) (s : State) : SameReadings s (checkTx p l s) := by
  unfold Machine.checkTx
  dsimp only
  split
  · exact stageFail ..
  · split
    · exact stageFail ..
    · exact refl s

theorem checkRx (p l : Nat) (s : State) : SameReadings s (checkRx p l s) := by
  unfold Machine.checkRx
  split
  · exact stageFail ..
  · exact refl s

theorem locateTx (p : Nat) (s : State) : SameReadings s (locateTx p s) := by
  unfold Machine.locateTx
  extract_lets c lit line fell s1
  have h1 : SameReadings s s1 := by
    dsimp only [s1]
    clear_value fell
    split
    · exact locate ..
    · split
      · exact locate ..
      · exact refl s
  split
  · exact (h1.trans (locate ..)).trans (foldl (fun _ _ => failLane ..) _ _)
  · exact h1.trans (foldl (fun x l => checkTx p l x) _ _)

theorem locateRx (p : Nat) (s : State) : SameReadings s (locateRx p s) := foldl (fun x l => checkRx p l x) _ _

end SameReadings

end Sys2Proof.Machine
end

section
/-! ### The fabric commands (11_fabric_optics.md R217 to R228) -/

namespace Sys2Proof.Machine

section
variable {s : State} {p : Plane} {l : Lane}

/-! ### Lanes and readings -/

theorem laneSt_setLane_same (s : State) (p l : Nat) (rx : Bool) (k : LaneSt) : laneSt (setLane p l rx k s) p l rx = k := by
  cases rx
  · exact (txLane_setTx ..).trans (if_pos rfl)
  · change rxLane (setRx p l k s) p l = k
    rw [rxLane, setRx, fab_updFab_same, Tbl.get_set_same]

theorem does_laneRetuneComplete {rx : Bool} (htuning : (laneSt s p l rx).state = .tuning) :
    Does (.laneRetuneComplete p l rx) s fun t => (laneSt t p l rx).state = .checking := by
  have hexec : exec (.laneRetuneComplete p l rx) s = .next (setLane p l rx { laneSt s p l rx with state := .checking } s) := if_pos htuning
  refine .of_exec hexec ?_
  rw [laneSt_setLane_same]

theorem queue_logRec_of_room {code source p0 p1 p2 p3 : Nat} (hroom : s.log.queue.length < 256) :
    (logRec code source p0 p1 p2 p3 s).log.queue = s.log.queue ++ [⟨s.time.ns, BitVec.ofNat 16 code, BitVec.ofNat 16 source, BitVec.ofNat 32 p0,
      BitVec.ofNat 32 p1, BitVec.ofNat 32 p2, BitVec.ofNat 32 p3⟩] := by
  unfold logRec
  rw [if_pos hroom]

theorem does_rxPowerLow {cdbm : Half16} (hroom : s.log.queue.length < 256) (hlow : cdbm.toInt < -1100) (hlit : (rxLane s p l).state ≠ .dark) :
    Does (.rxPowerLow p l cdbm) s fun t => t.log.queue = s.log.queue ++ [⟨s.time.ns, BitVec.ofNat 16 (fabSrc p 8),
        BitVec.ofNat 16 (fabSrc p (0x10 + l)), 4, BitVec.ofNat 32 (rxLane s p l).chan,
        BitVec.ofNat 32 (if tapBase s p 4 (rxLane s p l).chan = 0x8000 then 0 else satWord ((tapBase s p 4 (rxLane s p l).chan).toInt - cdbm.toInt)),
        BitVec.ofNat 32 (satWord cdbm.toInt)⟩] := by
  have hreport : ∀ (body : List Nat) (t : State), (report body t).log = t.log := fun body t => (report_law body t).1 .log (by decide)
  refine .of_exec (if_pos ⟨hlow, hlit⟩) ?_
  rw [hreport]
  exact queue_logRec_of_room hroom

/-- The taps and the comb means of a refresh taken, before anything is judged. -/
def refreshed (p : Nat) (reads : List (Fin 6 × Fin 32 × Half16)) (means : List (Fin 2 × Half16)) (s : State) : State :=
  means.foldl (fun s m => setComb p m.1.val { fabComb s p m.1.val with loss := combLoss s p m.1.val m.2 } s)
    (updFab p (fun f => { f with taps := reads.foldl (fun t r => Tbl.set t (tapKey r.1.val r.2.1.val) r.2.2) f.taps }) s)

/-- What a refresh does beyond its readings changes no reading. -/
theorem exec_tapRefresh (reads : List (Fin 6 × Fin 32 × Half16)) (means : List (Fin 2 × Half16)) :
    ∃ t, exec (.tapRefresh p reads means) s = .next t ∧ SameReadings (refreshed p reads means s) t := by
  change ∃ t, execTapRefresh p reads means s = .next t ∧ _
  change ∃ t, (if surveying (refreshed p reads means s) p.val then Host.Outcome.next (refreshed p reads means s) else
    let u := locateRx p.val (refreshed p reads means s)
    .next (if (fab u p.val).txRetired then u else combThresholds p.val (locateTx p.val u))) = .next t ∧ _
  split
  · exact ⟨_, rfl, SameReadings.refl _⟩
  · refine ⟨_, rfl, ?_⟩
    split
    · exact SameReadings.locateRx ..
    · exact ((SameReadings.locateRx ..).trans (.locateTx ..)).trans (.combThresholds ..)

theorem does_tapRefresh_tap {c : Fin 6} {i : Fin 32} {v : Half16} (means : List (Fin 2 × Half16)) :
    Does (.tapRefresh p [(c, i, v)] means) s fun t => tapRead t p c i = v := by
  obtain ⟨t, hexec, hsame⟩ := exec_tapRefresh (s := s) (p := p) [(c, i, v)] means
  refine .of_exec hexec ?_
  have hmeans : ∀ (l : List (Fin 2 × Half16)) (u : State), (fab (l.foldl (fun s m => setComb p m.1.val
      { fabComb s p m.1.val with loss := combLoss s p m.1.val m.2 } s) u) p).taps = (fab u p).taps := fun l u =>
    foldl_keeps (read := fun t => (fab t p).taps) (f := fun (s : State) (m : Fin 2 × Half16) => setComb p m.1.val
      { fabComb s p m.1.val with loss := combLoss s p m.1.val m.2 } s) (fun t m => by rw [fab_setComb]) l u
  rw [tapRead, hsame.taps, refreshed, hmeans, fab_updFab_same]
  exact Tbl.get_set_same ..

theorem does_tapRefresh_mean {m : Fin 2} {v : Half16} : Does (.tapRefresh p [] [(m, v)]) s fun t =>
    (fabComb t p m).loss = BitVec.ofNat 16 (min 0xFFFF ((commission s p m 32).toInt - v.toInt).toNat) := by
  obtain ⟨t, hexec, hsame⟩ := exec_tapRefresh (s := s) (p := p) [] [(m, v)]
  refine .of_exec hexec ?_
  rw [hsame.loss, refreshed, List.foldl_cons, List.foldl_nil, fabComb_setComb, if_pos rfl]
  rfl

/-- A mask that holds a field's bits leaves the field as it was. -/
theorem fld_and_of_mask {v m : Word} {lo n : Nat} (hm : ∀ i < n, m.toNat.testBit (lo + i) = true) : fld (v &&& m) lo n = fld v lo n := by
  refine Nat.eq_of_testBit_eq fun i => ?_
  simp only [fld, bits, BitVec.toNat_and, Nat.testBit_mod_two_pow, Nat.testBit_shiftRight, Nat.testBit_and]
  by_cases hi : i < n
  · rw [hm i hi, Bool.and_true]
  · simp [hi]

theorem does_fabTapSelWrite {v : Word} (hheld : blockHeld s (0x100200 + 0x10000 * p) = false) (hcode : fld v 8 3 < 6)
    (hlane : fld v 8 3 = 2 ∨ fld v 8 3 = 5 → fld v 0 5 < 16) :
    Does (.fabTapSelWrite p v) s fun t => (fab t p).tapSel = v &&& 0x71F ∧ (fab t p).tapPwr = tapRead s p (fld v 8 3) (fld v 0 5)
        ∧ (fab t p).tapBase = if fld v 8 3 < 2 then commission s p (fld v 8 3) (fld v 0 5) else tapBase s p (fld v 8 3) (fld v 0 5) := by
  have hcodes : fld (v &&& 0x0000071F) 8 3 = fld v 8 3 := fld_and_of_mask fun i hi => by interval_cases i <;> rfl
  have hindex : fld (v &&& 0x0000071F) 0 5 = fld v 0 5 := fld_and_of_mask fun i hi => by interval_cases i <;> rfl
  have hzero : (decide (6 ≤ fld v 8 3) || ((fld v 8 3 == 2 || fld v 8 3 == 5) && decide (16 ≤ fld v 0 5))) = false := by
    by_cases h : fld v 8 3 = 2 ∨ fld v 8 3 = 5
    · have := hlane h
      simp
      omega
    · simp
      omega
  have hexec : exec (.fabTapSelWrite p v) s = .next (updFab p (fun f => { f with
      tapSel := v &&& 0x71F, tapPwr := tapRead s p (fld v 8 3) (fld v 0 5)
      tapBase := if fld v 8 3 < 2 then commission s p (fld v 8 3) (fld v 0 5) else tapBase s p (fld v 8 3) (fld v 0 5) }) s) := by
    change execFabTapSelWrite p v s = _
    unfold execFabTapSelWrite
    simp only [hheld, hcodes, hindex, hzero, Bool.false_eq_true, if_false]
  refine .of_exec hexec ?_
  rw [fab_updFab_same]
  exact ⟨rfl, rfl, rfl⟩

end

/-! ### Hand-overs -/

section
variable {s : State} {p : Plane} {h : FabHand}

/-- A hand-over whose spare is not locked waits for it, its lanes stopped where it is forced. -/
theorem enterHand_of_unlocked (hspare : (fabComb s p (spareOf s p)).checked = false) :
    (fab (enterHand p h s) p).hand = some { h with step := 1, turn := false, since := s.now }
    ∧ (fabComb (enterHand p h s) p (spareOf s p)).state = 1 := by
  unfold enterHand
  dsimp only
  rw [if_neg (by simp [hspare])]
  split
  · rw [hand_of_plane (plane_stopLanes ..), fabComb_of_plane (plane_stopLanes ..), fab_setHand, fabComb_setHand, fabComb_setComb, if_pos rfl]
    exact ⟨rfl, rfl⟩
  · rw [fab_setHand, fabComb_setHand, fabComb_setComb, if_pos rfl]
    exact ⟨rfl, rfl⟩

/-- Nothing but its own plane changes as a hand-over begins. -/
theorem fab_stopLanes_other {p q : Nat} (held : Bool) (s : State) (hq : q ≠ p) : fab (stopLanes p held s) q = fab s q := by
  unfold stopLanes
  refine foldl_keeps (read := fun t => fab t q) (f := fun (s : State) (l : Nat) => updPair p l (fun k => { k with held := true, laneDue := true })
    (if held then setTx p l { txLane s p l with state := .held } s else s)) (fun t l => ?_) _ s
  have hpair : ∀ (f : Pair → Pair) (x : State), fab (updPair p l f x) q = fab x q := fun f x => by
    rw [updPair, setPair, fab_updFab, if_neg hq]
  rw [hpair]
  split
  · rw [setTx, fab_updFab, if_neg hq]
  · rfl

theorem fab_enterHand_other {p q : Nat} (h : FabHand) (s : State) (hq : q ≠ p) : fab (enterHand p h s) q = fab s q := by
  have hcomb : ∀ (c : Nat) (k : FabComb) (x : State), fab (setComb p c k x) q = fab x q := fun c k x => by rw [setComb, fab_updFab, if_neg hq]
  unfold enterHand
  dsimp only
  split
  · split
    · rw [fab_stopLanes_other _ _ hq, fab_setHand_other _ _ _ _ hq]
    · rw [fab_setHand_other _ _ _ _ hq]
  · split
    · rw [fab_stopLanes_other _ _ hq, fab_setHand_other _ _ _ _ hq, hcomb]
    · rw [fab_setHand_other _ _ _ _ hq, hcomb]

/-- A plane without a hand-over waits for no turn. -/
theorem fab_nextTurn_of_none {p : Nat} (hnone : (fab s p).hand = none) : fab (nextTurn s) p = fab s p := by
  unfold nextTurn
  split
  · rfl
  · split
    · next q h hfind =>
      obtain ⟨q', _, hq'⟩ := List.exists_of_findSome?_eq_some hfind
      refine fab_enterHand_other _ _ ?_
      rintro rfl
      split at hq'
      · next k hk =>
        split at hq'
        · obtain ⟨rfl, rfl⟩ : q' = p ∧ k = h := by simpa using hq'
          rw [hnone] at hk
          exact absurd hk (by simp)
        · exact absurd hq' (by simp)
      · exact absurd hq' (by simp)
    · rfl

theorem handAt_of_step {n : Nat} (hhand : (fab s p).hand = some h) (hstep : h.step = n) : handAt s p n = some h := by
  simp [handAt, hhand, hstep]

theorem applyDeferred_of_none (hnone : s.steer.deferred = []) : applyDeferred s = s := by
  simp [applyDeferred, hnone]

theorem does_fabCombGo (hheld : blockHeld s (0x100020 + 0x10000 * p) = false) (hnone : (fab s p).hand = none) (hspare : workingSpare s p = true)
    (hruns : scheduledRuns s = false) (hswitch : switching s = false) (hunlocked : (fabComb s p (spareOf s p)).checked = false) :
    Does (.fabCombGo p) s fun t => (fab t p).hand = some { step := 1, forced := false, since := s.now, asked := s.now }
        ∧ (fabComb t p (spareOf s p)).state = 1 := by
  have hexec : exec (.fabCombGo p) s = .next (enterHand p { step := 1, forced := false, asked := s.now } s) := by
    change execFabCombGo p s = _
    unfold execFabCombGo combGo askScheduled
    simp [hheld, hnone, hspare, hruns, hswitch]
  exact .of_exec hexec (enterHand_of_unlocked hunlocked)

/-- The spare locked: its comb is ready, and the hand-over goes on. -/
theorem exec_fabSpareLocked (hlight : (fabComb s p (spareOf s p)).state = 1) (hhand : (fab s p).hand = some h) (hstep : h.step = 1) :
    ∃ k : FabComb, k.checked = true ∧ k.state = 2 ∧ exec (.fabSpareLocked p) s = .next (enterHand p h (setComb p (spareOf s p) k s)) := by
  refine ⟨{ fabComb s p (spareOf s p) with state := 2, checked := true, unlocked := false, attempts := 0 }, rfl, rfl, ?_⟩
  change execFabSpareLocked p s = _
  unfold execFabSpareLocked
  dsimp only
  have hsame : ∀ c k, (fab (setComb p c k s) p).hand = some h := fun c k => by rw [fab_setComb]; exact hhand
  rw [if_pos hlight, hsame]
  exact if_pos hstep

theorem does_fabSpareLocked_scheduled (hlight : (fabComb s p (spareOf s p)).state = 1) (hhand : (fab s p).hand = some h) (hstep : h.step = 1)
    (hforced : h.forced = false) : Does (.fabSpareLocked p) s fun t => (fab t p).hand = some { h with step := 6, turn := false, since := s.now, low := max 1 (min 90 (fld (fab s p).handCfg 16 8)), window := max 1 (min 3600 (fld (fab s p).handCfg 0 16)) }
        ∧ (fabComb t p (spareOf s p)).state = 2 := by
  obtain ⟨k, hchecked, hready, hexec⟩ := exec_fabSpareLocked hlight hhand hstep
  have hspare : spareOf (setComb p (spareOf s p) k s) p = spareOf s p := by rw [spareOf, spareOf, inService, inService, fab_setComb]
  have hcomb : fabComb (setComb p (spareOf s p) k s) p (spareOf s p) = k := (fabComb_setComb ..).trans (if_pos rfl)
  refine .of_exec hexec ?_
  unfold enterHand
  dsimp only
  rw [hspare, hcomb, if_pos (by simp [hchecked, hready]), if_neg (by simp [hforced]), fab_setHand, fabComb_setHand, hcomb, fab_setComb]
  exact ⟨rfl, hready⟩

theorem does_fabSpareLocked_forced (hlight : (fabComb s p (spareOf s p)).state = 1) (hhand : (fab s p).hand = some h) (hstep : h.step = 1)
    (hforced : h.forced = true) : Does (.fabSpareLocked p) s fun t => (fab t p).hand = some { h with step := 3, turn := false, since := s.now }
        ∧ ∀ l : Lane, (txLane s p l).state = .lit → (txLane t p l).state = .held ∧ (pair t p l).held = true := by
  obtain ⟨k, hchecked, hready, hexec⟩ := exec_fabSpareLocked hlight hhand hstep
  have hspare : spareOf (setComb p (spareOf s p) k s) p = spareOf s p := by rw [spareOf, spareOf, inService, inService, fab_setComb]
  have hcomb : fabComb (setComb p (spareOf s p) k s) p (spareOf s p) = k := (fabComb_setComb ..).trans (if_pos rfl)
  have hlane : ∀ (u : State) (x : Option FabHand) (l : Nat), txLane (setHand p x (setComb p (spareOf s p) k s)) p l = txLane s p l := fun u x l => by
    rw [txLane, fab_setHand, fab_setComb, txLane]
  refine .of_exec hexec ?_
  unfold enterHand
  dsimp only
  rw [hspare, hcomb, if_pos (by simp [hchecked, hready]), if_pos hforced, hand_of_plane (plane_stopLanes ..), fab_setHand]
  exact ⟨rfl, fun l hl => stopLanes_reads (by rw [hlane s]; exact hl)⟩

/-- The drain of a hand-over: its step, and every lit lane held. -/
theorem beginDrain_reads (h : FabHand) : (fab (beginDrain p h s) p).hand = some { h with step := 2, since := s.now }
    ∧ ∀ l : Lane, (txLane s p l).state = .lit → (txLane (beginDrain p h s) p l).state = .held ∧ (pair (beginDrain p h s) p l).held = true := by
  have hlane : ∀ (x : Option FabHand) (l : Nat), txLane (setHand p x s) p l = txLane s p l := fun x l => by rw [txLane, fab_setHand, txLane]
  unfold beginDrain
  rw [hand_of_plane (plane_stopLanes ..), fab_setHand]
  exact ⟨rfl, fun l hl => stopLanes_reads (by rw [hlane]; exact hl)⟩

theorem does_fabLowTraffic {load : Nat} (hhand : (fab s p).hand = some h) (hstep : h.step = 6) (hlow : load < h.low) :
    Does (.fabLowTraffic p load) s fun t => (fab t p).hand = some { h with step := 2, since := s.now }
        ∧ ∀ l : Lane, (txLane s p l).state = .lit → (txLane t p l).state = .held ∧ (pair t p l).held = true := by
  have hexec : exec (.fabLowTraffic p load) s = .next (beginDrain p h s) := by
    change execFabLowTraffic p load s = _
    unfold execFabLowTraffic
    rw [handAt_of_step hhand hstep]
    exact congrArg _ (if_pos hlow)
  exact .of_exec hexec (beginDrain_reads h)

theorem does_fabHandoverWindowExpiry (hhand : (fab s p).hand = some h) (hstep : h.step = 6) (hpast : h.asked + h.window * 1000000000 ≤ s.now) :
    Does (.fabHandoverWindowExpiry p) s fun t => (fab t p).hand = some { h with step := 2, since := s.now }
        ∧ ∀ l : Lane, (txLane s p l).state = .lit → (txLane t p l).state = .held ∧ (pair t p l).held = true := by
  have hexec : exec (.fabHandoverWindowExpiry p) s = .next (beginDrain p h s) := by
    change execFabHandoverWindowExpiry p s = _
    unfold execFabHandoverWindowExpiry
    rw [handAt_of_step hhand hstep]
    exact congrArg _ (if_pos hpast)
  exact .of_exec hexec (beginDrain_reads h)

theorem does_fabHandoverDrainDone (hhand : (fab s p).hand = some h) (hstep : h.step = 2)
    (hempty : ∀ l : Lane, (pair s p l).held = true → (pair s p l).unacked = [] ∧ (pair s p l).replay = []) :
    Does (.fabHandoverDrainDone p) s fun t => (fab t p).hand = some { h with step := 3 } := by
  have hdrained : drained s p = true := by
    refine List.all_eq_true.mpr fun l hl => ?_
    have hlane := hempty ⟨l, List.mem_range.mp hl⟩
    by_cases hheld : (pair s p l).held = true
    · simp [hheld, hlane hheld]
    · simp [hheld]
  have hexec : exec (.fabHandoverDrainDone p) s = .next (setHand p (some { h with step := 3 }) s) := by
    change execFabHandoverDrainDone p s = _
    unfold execFabHandoverDrainDone
    rw [handAt_of_step hhand hstep]
    exact congrArg _ (if_pos hdrained)
  refine .of_exec hexec ?_
  rw [fab_setHand]

theorem does_fabHandoverDrainTimeout (hhand : (fab s p).hand = some h) (hstep : h.step = 2) (hlate : h.since + 1000000 ≤ s.now)
    (hnone : s.steer.deferred = []) : Does (.fabHandoverDrainTimeout p) s fun t => (fab t p).hand = some { h with step := 0, since := s.now }
        ∧ ∀ l : Lane, (txLane s p l).state = .held → (txLane t p l).state = .lit ∧ (pair t p l).held = false := by
  have hsteer : (drainTimeout p s).steer = s.steer := (drainTimeout_law ..).1 .steer (by decide)
  refine .of_exec (t := drainTimeout p s) (congrArg Host.Outcome.next (applyDeferred_of_none (by rw [hsteer]; exact hnone))) ?_
  have hnow : (releaseHeldLanes p s).now = s.now := (releaseHeldLanes_law ..).1 .now (by decide)
  have hpair : ∀ (x : Option FabHand) (u : State) (l : Nat), pair (setHand p x u) p l = pair u p l := fun x u l => by rw [pair, fab_setHand, pair]
  have hlane : ∀ (x : Option FabHand) (u : State) (l : Nat), txLane (setHand p x u) p l = txLane u p l := fun x u l => by
    rw [txLane, fab_setHand, txLane]
  unfold drainTimeout
  rw [handAt_of_step hhand hstep]
  dsimp only
  rw [if_pos hlate, fab_of_fab (logFab_fab ..), fab_setHand]
  refine ⟨rfl, fun l hl => ?_⟩
  rw [txLane_of_fab _ _ _ (logFab_fab ..), pair_of_fab (logFab_fab ..), hlane, hpair]
  exact releaseHeldLanes_reads hl

theorem fabComb_updFab_same (p c : Nat) (f : FabSt → FabSt) (s : State) : fabComb (updFab p f s) p c = Tbl.get {} (f (fab s p)).combs c := by
  rw [fabComb, fab_updFab_same]

theorem does_fabSwitchDone (hhand : (fab s p).hand = some h) (hstep : h.step = 3) (hnone : s.steer.deferred = []) :
    Does (.fabSwitchDone p) s fun t => (fab t p).hand = some { h with step := 4 } ∧ inService t p = spareOf s p
        ∧ (fabComb t p (spareOf s p)).state = 5 := by
  have hsteer : (switchDone p h s).steer = s.steer := (switchDone_law ..).1 .steer (by decide)
  have hexec : exec (.fabSwitchDone p) s = .next (switchDone p h s) := by
    change execFabSwitchDone p s = _
    unfold execFabSwitchDone
    rw [handAt_of_step hhand hstep]
    exact congrArg Host.Outcome.next (applyDeferred_of_none (by rw [hsteer]; exact hnone))
  refine .of_exec hexec ?_
  unfold switchDone
  dsimp only
  rw [inService, fabComb_updFab_same, fab_updFab_same, fab_setComb, Tbl.get_set_same]
  exact ⟨rfl, rfl, rfl⟩

/-- The end of a hand-over: no hand-over, the new comb in service, the old one failed. -/
theorem handDone_reads (h : FabHand) (us : Nat) (s : State) : (fab (handDone p h us s) p).hand = none
    ∧ (fabComb (handDone p h us s) p (inService s p)).state = 3 ∧ (fabComb (handDone p h us s) p (spareOf s p)).state = 4 := by
  have hother : inService s p ≠ spareOf s p := by
    unfold spareOf
    omega
  unfold handDone
  extract_lets new old s1 k1 s2 k2 s3
  have hlog : ∀ x : State, fab (logFab p 2 (0x20 + new) old new (if h.forced then 2 else 1) us x) p = fab x p := fun x => fab_of_fab (logFab_fab ..) p
  have hnone : (fab (logFab p 2 (0x20 + new) old new (if h.forced then 2 else 1) us (setHand p none s3)) p).hand = none := by rw [hlog, fab_setHand]
  have hcomb : ∀ c, fabComb (nextTurn (logFab p 2 (0x20 + new) old new (if h.forced then 2 else 1) us (setHand p none s3))) p c = fabComb s3 p c := by
    intro c
    rw [← fabComb_setHand s3 p none c, fabComb, fab_nextTurn_of_none hnone, hlog, fabComb]
  refine ⟨?_, ?_, ?_⟩
  · rw [fab_nextTurn_of_none hnone, hnone]
  · rw [hcomb]
    dsimp only [s3, s2]
    rw [fabComb_setComb, if_neg hother, fabComb_setComb, if_pos rfl]
  · rw [hcomb]
    dsimp only [s3]
    rw [fabComb_setComb, if_pos rfl]

theorem does_fabRelockDone {us : Nat} (hhand : (fab s p).hand = some h) (hstep : h.step = 4) (hnone : s.steer.deferred = []) :
    Does (.fabRelockDone p true us) s fun t => (fab t p).hand = none ∧ (fabComb t p (inService s p)).state = 3
        ∧ (fabComb t p (spareOf s p)).state = 4 := by
  have hsteer : (handDone p h us s).steer = s.steer := (handDone_law ..).1 .steer (by decide)
  have hexec : exec (.fabRelockDone p true us) s = .next (handDone p h us s) := by
    change execFabRelockDone p true us s = _
    unfold execFabRelockDone relockDone
    rw [handAt_of_step hhand hstep]
    dsimp only
    rw [if_pos rfl, applyDeferred_of_none (hsteer ▸ hnone)]
  exact .of_exec hexec (handDone_reads h us s)

theorem does_fabHandoverRetry (hhand : (fab s p).hand = some h) (hstep : h.step = 0) (hturn : h.turn = false)
    (hlate : h.since + 100000000 ≤ s.now) (hunlocked : (fabComb s p (spareOf s p)).checked = false) :
    Does (.fabHandoverRetry p) s fun t => (fab t p).hand = some { h with step := 1, turn := false, since := s.now } := by
  have hexec : exec (.fabHandoverRetry p) s = .next (enterHand p h s) := by
    change execFabHandoverRetry p s = _
    unfold execFabHandoverRetry
    rw [handAt_of_step hhand hstep]
    exact congrArg _ (if_pos ⟨hturn, hlate⟩)
  exact .of_exec hexec (enterHand_of_unlocked hunlocked).1

theorem does_fabCombRelockTimeout (hlost : (fabComb s p (inService s p)).unlocked = true)
    (hlate : (fabComb s p (inService s p)).lostAt + 2000000 ≤ s.now) (hlive : (fab s p).txRetired = false) (hspare : workingSpare s p = true)
    (hnone : (fab s p).hand = none) (hunlocked : (fabComb s p (spareOf s p)).checked = false) :
    Does (.fabCombRelockTimeout p) s fun t => (fab t p).hand = some { step := 1, forced := true, since := s.now, asked := s.now } := by
  have hexec : exec (.fabCombRelockTimeout p) s = .next (enterHand p { step := 1, forced := true, asked := s.now } s) := by
    change execFabCombRelockTimeout p s = _
    unfold execFabCombRelockTimeout askForced
    dsimp only
    rw [if_pos ⟨hlost, hlive, hlate⟩, if_neg (by simp [hspare]), hnone]
  exact .of_exec hexec (enterHand_of_unlocked hunlocked).1

end

/-- Settles O16. -/
theorem fabricOpticsComplete : Obligations.FabricOpticsComplete := by
  unfold Obligations.FabricOpticsComplete
  refine ⟨?retune, ?low, ?tap, ?mean, ?go, ?scheduled, ?forced, ?drain, ?drained, ?timeout, ?switched, ?relocked, ?retry, ?relock, ?sel⟩
  case retune => exact fun s p l rx htuning => does_laneRetuneComplete htuning
  case low =>
    rintro s p l cdbm b k hroom hlow hlit rfl rfl
    exact does_rxPowerLow hroom hlow hlit
  case tap => exact fun s p c i v means => does_tapRefresh_tap means
  case mean => exact fun s p m v => does_tapRefresh_mean
  case go => exact fun s p hheld hnone hspare hruns hswitch hunlocked => does_fabCombGo hheld hnone hspare hruns hswitch hunlocked
  case scheduled => exact fun s p h hlight hhand hstep hforced => does_fabSpareLocked_scheduled hlight hhand hstep hforced
  case forced => exact fun s p h hlight hhand hstep hforced => does_fabSpareLocked_forced hlight hhand hstep hforced
  case drain =>
    rintro c s p h hhand hstep (⟨load, rfl, hlow⟩ | ⟨rfl, hpast⟩)
    · exact does_fabLowTraffic hhand hstep hlow
    · exact does_fabHandoverWindowExpiry hhand hstep hpast
  case drained => exact fun s p h hhand hstep hempty => does_fabHandoverDrainDone hhand hstep hempty
  case timeout => exact fun s p h hhand hstep hlate hnone => does_fabHandoverDrainTimeout hhand hstep hlate hnone
  case switched => exact fun s p h hhand hstep hnone => does_fabSwitchDone hhand hstep hnone
  case relocked => exact fun s p h us hhand hstep hnone => does_fabRelockDone hhand hstep hnone
  case retry => exact fun s p h hhand hstep hturn hlate hunlocked => does_fabHandoverRetry hhand hstep hturn hlate hunlocked
  case relock =>
    exact fun s p hlost hlate hlive hspare hnone hunlocked => does_fabCombRelockTimeout hlost hlate hlive hspare hnone hunlocked
  case sel => exact fun s p v hheld hcode hlane => does_fabTapSelWrite hheld hcode hlane

end Sys2Proof.Machine
end

section
/-! ### Pairs of the Ullos link: training, replay, credits and flit slots (12_ullos_link.md R233 to R240, R243, R246, R250, R251) -/

namespace Sys2Proof.Machine

section
variable (s : State) (p l q m : Nat)

theorem pair_setPair_at (k : Pair) : pair (setPair p l k s) q m = if q = p ∧ m = l then k else pair s q m := by
  by_cases hq : q = p
  · subst hq
    simp only [pair_setPair, true_and]
  · rw [if_neg fun h => hq h.1, pair, setPair, fab_updFab, if_neg hq, pair]

theorem pair_updPair_ne (f : Pair → Pair) (h : ¬(q = p ∧ m = l)) : pair (updPair p l f s) q m = pair s q m := by
  rw [updPair, pair_setPair_at, if_neg h]

/-! ### What a pair sends leaves of it -/

/-- A pair without what a training frame's or a flit's sending writes into it. -/
theorem pair_sendTrain : pair (sendTrain p l s) q m = if q = p ∧ m = l then { pair s p l with phaseAt := s.now } else pair s q m := by
  rw [sendTrain, pair_of_fab (fab_sendPhase ..), updPair, pair_setPair_at]

theorem fab_sendFlit (type tc seq : Nat) (tag : Nat × Nat × Bool) (payload : List Byte) : (sendFlit p l type tc seq tag payload s).fab = s.fab :=
  (countFab_fab ..).trans rfl

theorem pair_issueLane (b : Bool) : pair (issueLane p l b s) q m = if q = p ∧ m = l then { pair s p l with laneDue := false } else pair s q m := by
  rw [issueLane, pair_of_fab (fab_sendFlit ..), pair_setPair_at]

theorem pair_logFab (low el p0 p1 p2 p3 : Nat) : pair (logFab p low el p0 p1 p2 p3 s) q m = pair s q m := pair_of_fab (logFab_fab ..) q m

theorem pair_countFab (ev qual : Nat) : pair (countFab p ev qual s) q m = pair s q m := pair_of_fab (countFab_fab ..) q m

/-! ### Retraining -/

/-- A pair as it goes to RETRAIN. -/
def retrained (s : State) (p l : Nat) (k : Pair) : Pair :=
  { k with state := .retrain, quick := decide (k.code ≠ 0 ∧ k.rxcode ≠ 0), attempt := 1, fails := 0, phase := if bothLit s p l then 1 else 0
           retrains := satAdd 255 k.retrains 1, retrainAt := s.now :: k.retrainAt.take 15, phaseAt := s.now }

theorem pair_toRetrain (cause : Nat) :
    pair (toRetrain p l cause s) q m = if q = p ∧ m = l then retrained s p l (pair s p l) else pair s q m := by
  rw [toRetrain, pair_sendTrain, pair_logFab, pair_logFab, pair_setPair_same, pair_setPair_at, logFab_now]
  split <;> rfl

/-- A retrain trigger on a pair in UP or ACTIVE: it retrains, with what it was sending kept. -/
theorem retrainOn_reads (cause : Nat) (hup : (pair s p l).state = .up ∨ (pair s p l).state = .active) :
    (pair (retrainOn p l cause s) p l).state = .retrain ∧ (pair (retrainOn p l cause s) p l).unacked = (pair s p l).unacked
    ∧ (pair (retrainOn p l cause s) p l).next = (pair s p l).next ∧ (pair (retrainOn p l cause s) p l).rxcode = (pair s p l).rxcode := by
  have heq : retrainOn p l cause s = toRetrain p l cause (issueLane p l true s) := by
    unfold retrainOn
    obtain h | h := hup <;> rw [h]
  rw [heq, pair_toRetrain, if_pos ⟨rfl, rfl⟩, pair_issueLane, if_pos ⟨rfl, rfl⟩]
  exact ⟨rfl, rfl, rfl, rfl⟩

theorem pair_retrainOn_other (cause : Nat) (h : ¬(q = p ∧ m = l)) : pair (retrainOn p l cause s) q m = pair s q m := by
  have heq : pair (toRetrain p l cause (issueLane p l true s)) q m = pair s q m := by rw [pair_toRetrain, if_neg h, pair_issueLane, if_neg h]
  unfold retrainOn
  split
  · exact heq
  · exact heq
  · rfl

end

/-- `foldl_reaches` from a start at which something stands that every element keeps. -/
theorem foldl_reaches_from {σ α : Type} {f : σ → α → σ} {P Q : σ → Prop} {l : List α} {a : α} (ha : a ∈ l) (hQ : ∀ b ∈ l, ∀ x, Q x → Q (f x b))
    (hset : ∀ x, Q x → P (f x a)) (hkeep : ∀ b ∈ l, b ≠ a → ∀ x, P x → P (f x b)) {s : σ} (hs : Q s) : P (l.foldl f s) := by
  induction l generalizing s with
  | nil => simp at ha
  | cons b l ih =>
    rw [List.foldl_cons]
    by_cases hmem : a ∈ l
    · exact ih hmem (fun c hc => hQ c (List.mem_cons_of_mem b hc)) (fun c hc => hkeep c (List.mem_cons_of_mem b hc)) (hQ b List.mem_cons_self s hs)
    · obtain rfl : a = b := (List.mem_cons.mp ha).resolve_right hmem
      exact List.foldlRecOn (motive := P) l f (hset s hs) fun x hx c hc => hkeep c (List.mem_cons_of_mem a hc) (fun h => hmem (h ▸ hc)) x hx

section
variable {s : State} {p : Plane} {l : Lane}

/-! ### Training -/

theorem does_trainingPhase_eq {f : TrainFrame} {ber : Word} {us : Nat} (htrain : training (pair s p l) = true) (hphase : (pair s p l).phase = 1) :
    Does (.trainingPhaseComplete p l f ber us) s fun t => (pair t p l).phase = 2 ∧ (pair t p l).phaseAt = s.now := by
  have hexec : exec (.trainingPhaseComplete p l f ber us) s = .next (toPhase p l 2 s) := by
    change execTrainingPhaseComplete p l f ber us s = _
    unfold execTrainingPhaseComplete
    dsimp only
    rw [if_neg (by simp [htrain]), if_pos hphase]
  refine .of_exec hexec ?_
  rw [toPhase, pair_sendTrain, if_pos ⟨rfl, rfl⟩, pair_updPair]
  exact ⟨rfl, rfl⟩

theorem does_trainingPhase_lock {f : TrainFrame} {ber : Word} {us : Nat} (htrain : training (pair s p l) = true) (hphase : (pair s p l).phase = 2)
    (hgood : trainGood f = true) (hpeer : 2 ≤ f.phase) (hid : trainIdOk f (me s) p (rxLane s p (pair s p l).rxLane).chan (gazOffset s p) = true) :
    Does (.trainingPhaseComplete p l f ber us) s fun t => (pair t p l).phase = if (pair s p l).quick then 4 else 3 := by
  have hexec : exec (.trainingPhaseComplete p l f ber us) s = .next (toPhase p l (if (pair s p l).quick then 4 else 3) s) := by
    change execTrainingPhaseComplete p l f ber us s = _
    unfold execTrainingPhaseComplete
    dsimp only
    rw [if_neg (by simp [htrain]), if_neg (by omega), if_neg (by rw [hgood, hphase]; simp; omega), hphase]
    exact if_pos hid
  refine .of_exec hexec ?_
  rw [toPhase, pair_sendTrain, if_pos ⟨rfl, rfl⟩, pair_updPair]

theorem does_trainingPhase_agree {f : TrainFrame} {ber : Word} {us : Nat} (htrain : training (pair s p l) = true) (hphase : (pair s p l).phase = 4)
    (hfresh : (pair s p l).fresh = true) (hgood : trainGood f = true) (hpeer : 4 ≤ f.phase) (hcode : f.code ≠ 0) (hknown : f.code ≠ 3) :
    Does (.trainingPhaseComplete p l f ber us) s fun t => (pair t p l).state = .up ∧ (pair t p l).phase = 0 ∧ (pair t p l).next = 0
        ∧ (pair t p l).acked = 0xFFF ∧ (pair t p l).cred = (224, 224, 32) ∧ (pair t p l).peerFrom = f.from_ ∧ (pair t p l).codeNext = f.code.val
        ∧ (pair t p l).laneDue = true := by
  have hexec : exec (.trainingPhaseComplete p l f ber us) s = .next (trainDone p l us f.from_ f.code.val s) := by
    change execTrainingPhaseComplete p l f ber us s = _
    unfold execTrainingPhaseComplete
    dsimp only
    rw [if_neg (by simp [htrain]), if_neg (by omega), if_neg (by rw [hgood, hphase]; simp; omega), hphase]
    exact if_neg (by simp [hcode, hknown])
  refine .of_exec hexec ?_
  unfold trainDone
  rw [pair_logFab, pair_setPair_same, if_pos hfresh]
  exact ⟨rfl, rfl, rfl, rfl, rfl, rfl, rfl, rfl⟩

theorem does_trainingPhaseTimeout {cause : Nat} (htrain : training (pair s p l) = true) (hfails : (pair s p l).fails < 2)
    (hlate : (pair s p l).phaseAt + phaseBound (pair s p l) ≤ s.now) :
    Does (.trainingPhaseTimeout p l cause) s fun t => (pair t p l).attempt = (pair s p l).attempt + 1 ∧ (pair t p l).phase = 1
        ∧ (pair t p l).trainFails = satAdd 255 (pair s p l).trainFails 1 := by
  have hphase : (pair s p l).phase ≠ 0 := by
    unfold training at htrain
    simp at htrain
    omega
  have hexec : exec (.trainingPhaseTimeout p l cause) s = .next (trainFail p l cause s) := by
    change execTrainingPhaseTimeout p l cause s = _
    exact if_pos ⟨htrain, hphase, hlate⟩
  refine .of_exec hexec ?_
  unfold trainFail
  dsimp only
  rw [if_pos hfails, pair_sendTrain, if_pos ⟨rfl, rfl⟩, pair_updPair, pair_setPair_same]
  exact ⟨rfl, rfl, rfl⟩

theorem does_codeSwitch (hup : (pair s p l).state = .up ∨ (pair s p l).state = .active) :
    Does (.codeSwitch p l) s fun t => (pair t p l).code = (pair s p l).codeNext := by
  have hexec : exec (.codeSwitch p l) s = .next (setPair p l { pair s p l with code := (pair s p l).codeNext } s) := by
    change execCodeSwitch p l s = _
    unfold execCodeSwitch
    dsimp only
    obtain h | h := hup <;> rw [h]
  refine .of_exec hexec ?_
  rw [pair_setPair_same]

theorem does_shortCodeBerExceeded (hcode : (pair s p l).rxcode = 2) (hup : (pair s p l).state = .up ∨ (pair s p l).state = .active) :
    Does (.shortCodeBerExceeded p l) s fun t => (pair t p l).rxcode = 1 ∧ (pair t p l).state = .retrain := by
  have hexec : exec (.shortCodeBerExceeded p l) s = .next (retrainOn p l 7 (setPair p l { pair s p l with rxcode := 1 } s)) := if_pos hcode
  have hup' : (pair (setPair p l { pair s p l with rxcode := 1 } s) p l).state = .up ∨ (pair (setPair p l { pair s p l with rxcode := 1 } s) p l).state = .active := by
    rw [pair_setPair_same]
    exact hup
  obtain ⟨hstate, _, _, hrx⟩ := retrainOn_reads _ p l 7 hup'
  refine .of_exec hexec ⟨?_, hstate⟩
  rw [hrx, pair_setPair_same]

theorem does_codewordLockLost (hup : (pair s p l).state = .up ∨ (pair s p l).state = .active) : Does (.codewordLockLost p l) s fun t =>
    (pair t p l).state = .retrain ∧ (pair t p l).unacked = (pair s p l).unacked ∧ (pair t p l).next = (pair s p l).next := by
  obtain ⟨hstate, hkept, hnext, _⟩ := retrainOn_reads (countAt (0x104000 + 0x10000 * p.val) 16 8 (pair s p l).rxLane 8 true s) p l 3 hup
  exact .of_exec rfl ⟨hstate, hkept, hnext⟩

theorem does_preFecBerExceeded (hup : (pair s p l).state = .up ∨ (pair s p l).state = .active) : Does (.preFecBerExceeded p l) s fun t =>
    (pair t p l).state = .retrain ∧ (pair t p l).unacked = (pair s p l).unacked ∧ (pair t p l).next = (pair s p l).next := by
  obtain ⟨hstate, hkept, hnext, _⟩ := retrainOn_reads s p l 4 hup
  exact .of_exec rfl ⟨hstate, hkept, hnext⟩

theorem retrainBit_of_up (hup : (pair s p l).state = .up ∨ (pair s p l).state = .active) : (pair (retrainBit p l s) p l).state = .retrain := by
  have heq : retrainBit p l s = retrainOn p l 6 s := by
    unfold retrainBit
    dsimp only
    obtain h | h := hup <;> rw [h]
  rw [heq]
  exact (retrainOn_reads s p l 6 hup).1

theorem retrainBit_of_retrain (hstate : (pair s p l).state = .retrain) : retrainBit p l s = s := by
  unfold retrainBit
  dsimp only
  rw [hstate]
  dsimp only
  unfold retrainOn
  rw [hstate]

theorem pair_retrainBit_other {b : Nat} (hne : b ≠ l) (s : State) : pair (retrainBit p b s) p l = pair s p l := by
  have hother : ¬((p : Nat) = p ∧ (l : Nat) = b) := fun h => hne h.2.symm
  unfold retrainBit startAgain
  dsimp only
  split
  · rw [pair_sendTrain, if_neg hother, pair_updPair_ne _ _ _ _ _ _ hother]
  · exact pair_retrainOn_other _ _ _ _ _ _ hother

theorem does_pairRetrainCmd {mask : Half16} : Does (.pairRetrainCmd p mask) s fun t => ∀ l : Lane, bit mask l = true
      → (pair s p l).state = .up ∨ (pair s p l).state = .active → (pair t p l).state = .retrain := by
  refine .of_exec rfl fun l hbit hup => ?_
  refine foldl_reaches_from (P := fun t => (pair t p l).state = .retrain)
    (Q := fun t => ((pair t p l).state = .up ∨ (pair t p l).state = .active) ∨ (pair t p l).state = .retrain) (a := l.val)
    (List.mem_filter.mpr ⟨mem_lanes l, hbit⟩) (fun b _ x hx => ?_) (fun x hx => ?_) (fun b _ hne x hx => ?_) (.inl hup)
  · by_cases hne : b = l
    · subst hne
      exact hx.elim (fun h => .inr (retrainBit_of_up h)) (fun h => .inr (by rw [retrainBit_of_retrain h]; exact h))
    · rw [pair_retrainBit_other hne]
      exact hx
  · exact hx.elim retrainBit_of_up (fun h => by rw [retrainBit_of_retrain h]; exact h)
  · rw [pair_retrainBit_other hne]
    exact hx

end

/-! ### Flit slots -/

section
variable {s : State} {p : Plane} {l : Lane}

theorem pump_of_none (hnone : s.link.xfers = []) : pump s = s := by rw [pump, hnone, List.map_nil, List.foldl_nil]

theorem markSent_keeps (p l : Nat) (b : FlitBody) (s : State) : (markSent p l b s).fab = s.fab ∧ (markSent p l b s).link.xfers = s.link.xfers := by
  unfold markSent
  dsimp only
  split <;> exact ⟨rfl, rfl⟩

/-- A new flit leaves its queue with the next SEQ, and is kept until it is acknowledged. -/
theorem pair_issueFlit {f : Flit} (hnone : s.link.xfers = []) (hwait : (pair s p l).wait = []) :
    (pair (issueFlit p l f s) p l).next = ((pair s p l).next + 1) % 4096 ∧ (pair (issueFlit p l f s) p l).queue = (pair s p l).queue.erase f
    ∧ (pair (issueFlit p l f s) p l).unacked = (pair s p l).unacked ++ [{ f with seq := (pair s p l).next, body := stamp s.steer.edition f.body }] := by
  unfold issueFlit
  extract_lets k both f' s1 s2 s3
  have hlink : ∀ x : State, (sendBody p l f' x).link = x.link := fun x => countFab_link ..
  have h2 : s2.fab = s1.fab ∧ s2.link.xfers = [] := by
    obtain ⟨hfab, hxfers⟩ := markSent_keeps p l f'.body (sendBody p l f' s1)
    exact ⟨hfab.trans (fab_sendFlit ..), by rw [hxfers, hlink]; exact hnone⟩
  have h3 : s3.fab = s1.fab ∧ s3.link.xfers = [] := by
    dsimp only [s3]
    split
    · rw [countFab_fab, countFab_link]
      exact h2
    · exact h2
  have hpair : pair s3 p l = pair s1 p l := pair_of_fab h3.1 p l
  have hfree : (pair s3 p l).wait = [] := by
    rw [hpair]
    dsimp only [s1]
    rw [pair_setPair_same]
    exact hwait
  rw [hfree, if_pos List.isEmpty_nil, pump_of_none h3.2, hpair]
  dsimp only [s1]
  rw [pair_setPair_same]
  exact ⟨rfl, rfl, rfl⟩

theorem does_flitSlot_new {f : Flit} (hrecv : receiving (pair s p l) = true) (hbeacon : (pair s p l).beaconDue = false)
    (hlane : (pair s p l).laneDue = false) (hreplay : (pair s p l).replay = []) (hmay : mayIssue s p l = true)
    (hnext : nextFlit (pair s p l) = some f) (hnone : s.link.xfers = []) (hwait : (pair s p l).wait = []) :
    Does (.flitSlot p l) s fun t => (pair t p l).next = ((pair s p l).next + 1) % 4096 ∧ (pair t p l).queue = (pair s p l).queue.erase f
        ∧ (pair t p l).unacked = (pair s p l).unacked ++ [{ f with seq := (pair s p l).next, body := stamp s.steer.edition f.body }] := by
  have hexec : exec (.flitSlot p l) s = .next (issueFlit p l f s) := by
    change execFlitSlot p l s = _
    unfold execFlitSlot
    dsimp only
    rw [if_neg (by simp [hrecv]), if_neg (by simp [hbeacon]), if_neg (by simp [hlane]), hreplay, if_pos hmay, hnext]
  exact .of_exec hexec (pair_issueFlit hnone hwait)

theorem does_flitSlot_lane (hrecv : receiving (pair s p l) = true) (hbeacon : (pair s p l).beaconDue = false) (hlane : (pair s p l).laneDue = true) :
    Does (.flitSlot p l) s fun t => (pair t p l).laneDue = false ∧ ∃ m : Msg, m.chan = .flit ∧ m.kind = 6 ∧ t.sent = m :: s.sent := by
  have hexec : exec (.flitSlot p l) s = .next (issueLane p l false s) := by
    change execFlitSlot p l s = _
    unfold execFlitSlot
    dsimp only
    rw [if_neg (by simp [hrecv]), if_neg (by simp [hbeacon]), if_pos hlane]
  refine .of_exec hexec ⟨?_, ?_⟩
  · rw [pair_issueLane, if_pos ⟨rfl, rfl⟩]
  · unfold issueLane sendFlit
    dsimp only
    rw [countFab_sent]
    exact ⟨_, rfl, rfl, rfl⟩

theorem does_laneReportDue {b10 b1 : Word} (hrecv : receiving (pair s p l) = true) : Does (.laneReportDue p l b10 b1) s fun t =>
    (pair t p l).laneDue = true ∧ (pair t p l).berRx = b10 ∧ (pair t p l).berMs = b1 := by
  refine .of_exec (if_pos hrecv) ?_
  rw [pair_updPair]
  exact ⟨rfl, rfl, rfl⟩

theorem does_beaconDue {p l : Nat} {xs : List (Nat × Nat)}
    (hact : ((allPairs s).filter fun x => (pair s x.1 x.2).state = .active) = (p, l) :: xs) :
    Does .beaconDue s fun t => (pair t p l).beaconDue = true := by
  have hset : ∀ (q k : Nat) (x : State), (∀ a b, (pair (updPair q k (fun k => { k with beaconDue := true }) x) a b).peer = (pair x a b).peer)
      ∧ ((pair x p l).beaconDue = true → (pair (updPair q k (fun k => { k with beaconDue := true }) x) p l).beaconDue = true) := by
    intro q k x
    constructor
    · intro a b
      rw [updPair, pair_setPair_at]
      split
      · next h => rw [h.1, h.2]
      · rfl
    · intro h
      rw [updPair, pair_setPair_at]
      split
      · rfl
      · exact h
  refine .of_exec rfl ?_
  rw [hact]
  refine foldl_reaches_from (P := fun t => (pair t p l).beaconDue = true) (Q := fun t => ∀ a b, (pair t a b).peer = (pair s a b).peer)
    (a := (pair s p l).peer) ?_ (fun m _ x hx => ?_) (fun x hx => ?_) (fun m _ _ x hx => ?_) fun _ _ => rfl
  · rw [List.mem_dedup]
    exact List.mem_cons_self
  · split
    · exact fun a b => ((hset _ _ x).1 a b).trans (hx a b)
    · exact hx
  · rw [List.find?_cons_of_pos (by simpa using hx p l)]
    dsimp only
    rw [pair_updPair]
  · split
    · exact (hset _ _ x).2 hx
    · exact hx

theorem does_ackTimeout (hwaits : (pair s p l).unacked ≠ []) (hsame : (pair s p l).sameReplays < 7) (hfew : (pair s p l).timeouts < 3)
    (hlate : (pair s p l).ackAt + 10000 ≤ s.now) :
    Does (.ackTimeout p l) s fun t => (pair t p l).replay = (pair s p l).unacked ∧ (pair t p l).timeouts = (pair s p l).timeouts + 1
        ∧ (pair t p l).replays = satAdd 0xFFFF (pair s p l).replays 1 := by
  have hexec : exec (.ackTimeout p l) s = .next (startReplay p l (setPair p l { pair s p l with
      timeouts := (pair s p l).timeouts + 1, ackAt := s.now } s)) := by
    change execAckTimeout p l s = _
    unfold execAckTimeout
    dsimp only
    rw [if_neg (by simp [hwaits]; omega), if_neg (by omega)]
  refine .of_exec hexec ?_
  unfold startReplay
  rw [pair_setPair_same]
  dsimp only
  rw [if_neg (by omega), pair_countFab, pair_setPair_same]
  exact ⟨rfl, rfl, rfl⟩

/-! ### Flits taken in -/

section
variable {h : FlitHdr}

/-- The acknowledgement of a flit taken: what it covers leaves the replay buffer. -/
theorem unacked_takeAck (now ack : Nat) (k : Pair) : (takeAck now ack k).unacked =
    if k.unacked.length < (ack + 4096 - k.acked) % 4096 then k.unacked else k.unacked.drop ((ack + 4096 - k.acked) % 4096) := by
  unfold takeAck
  dsimp only
  split
  · next hcase =>
    obtain hzero | hmore := hcase
    · rw [hzero, if_neg (by omega), List.drop_zero]
    · rw [if_pos hmore]
  · next hcase => rw [if_neg fun h => hcase (.inr h)]

@[simp] theorem discards_takeAck (now ack : Nat) (k : Pair) : (takeAck now ack k).discards = k.discards := by
  unfold takeAck
  dsimp only
  split <;> rfl

theorem takeAck_keeps (now ack : Nat) (k : Pair) : (takeAck now ack k).from_ = k.from_ ∧ (takeAck now ack k).loop = k.loop := by
  unfold takeAck
  dsimp only
  split <;> exact ⟨rfl, rfl⟩

theorem does_idle {type : Fin 16} {payload : List Byte} (hrecv : receiving (pair s h.p h.l) = true)
    (hgood : flitBad s h type (0, 0, false) payload = false) (hnak : h.nak = false) :
    Does (.idle h type payload) s fun t => (pair t h.p h.l).discards = (pair s h.p h.l).discards + b2n (decide (8 ≤ type.val))
        ∧ (pair t h.p h.l).peerCr = (h.cr0.toNat, h.cr1.toNat, h.cr2.toNat)
        ∧ (pair t h.p h.l).unacked = if (pair s h.p h.l).unacked.length < (h.ack.toNat + 4096 - (pair s h.p h.l).acked) % 4096
            then (pair s h.p h.l).unacked else (pair s h.p h.l).unacked.drop ((h.ack.toNat + 4096 - (pair s h.p h.l).acked) % 4096) := by
  refine .of_exec (congrArg Host.Outcome.next (unsequenced_of_good hrecv hgood hnak _)) ?_
  rw [← unacked_takeAck s.now]
  split
  · next hlow =>
    rw [pair_updPair]
    refine ⟨?_, rfl, rfl⟩
    rw [show b2n (decide (8 ≤ type.val)) = 0 by simp [b2n]; omega]
    exact discards_takeAck ..
  · next hhigh =>
    rw [pair_updPair, pair_updPair]
    refine ⟨?_, rfl, rfl⟩
    rw [show b2n (decide (8 ≤ type.val)) = 1 by simp [b2n]; omega]
    exact congrArg (· + 1) (discards_takeAck s.now h.ack.toNat (pair s h.p h.l))

/-- What a pair's agreement on FROM leaves of it, and the state it is then in. -/
theorem agree_reads (s : State) (p l : Nat) (hrecv : (pair s p l).state = .up ∨ (pair s p l).state = .active) :
    (pair (agree p l s) p l).peerFrom = (pair s p l).peerFrom ∧ (pair (agree p l s) p l).peerEd = (pair s p l).peerEd
    ∧ (pair (agree p l s) p l).berTx = (pair s p l).berTx
    ∧ ((pair s p l).loop = false → (pair (agree p l s) p l).state = if (pair s p l).from_ = (pair s p l).peerFrom then .active else .up) := by
  unfold agree
  dsimp only
  obtain hup | hactive := hrecv
  · rw [hup]
    dsimp only
    by_cases hsame : (pair s p l).from_ = (pair s p l).peerFrom ∧ (pair s p l).loop = false
    · rw [if_pos hsame, pair_setPair_same]
      exact ⟨rfl, rfl, rfl, fun _ => (if_pos hsame.1).symm⟩
    · rw [if_neg hsame]
      refine ⟨rfl, rfl, rfl, fun hloop => ?_⟩
      rw [if_neg fun h => hsame ⟨h, hloop⟩, hup]
  · rw [hactive]
    dsimp only
    by_cases hsame : (pair s p l).from_ = (pair s p l).peerFrom
    · rw [if_pos hsame]
      exact ⟨rfl, rfl, rfl, fun _ => by rw [if_pos hsame, hactive]⟩
    · rw [if_neg hsame, pair_setPair_same]
      exact ⟨rfl, rfl, rfl, fun _ => (if_neg hsame).symm⟩

theorem agree_link (s : State) (p l : Nat) : (agree p l s).link = s.link := by
  unfold agree
  dsimp only
  split
  · split <;> rfl
  · split <;> rfl
  · rfl

theorem does_lane {rep : LaneReport} (hrecv : receiving (pair s h.p h.l) = true)
    (hgood : flitBad s h 6 (0, 0, false) (lanePayload rep) = false) (hnak : h.nak = false) (hquiet : rep.retrain = false) (hnone : s.link.xfers = []) :
    Does (.lane h rep) s fun t => (pair t h.p h.l).peerFrom = rep.fromEd ∧ (pair t h.p h.l).peerEd = rep.edition ∧ (pair t h.p h.l).berTx = rep.ber10s
        ∧ ((pair s h.p h.l).loop = false
            → (pair t h.p h.l).state = if (pair s h.p h.l).from_ = rep.fromEd then .active else .up) := by
  refine .of_exec (congrArg Host.Outcome.next (unsequenced_of_good hrecv hgood hnak _)) ?_
  dsimp only
  obtain ⟨hfrom, hloop⟩ := takeAck_keeps s.now h.ack.toNat (pair s h.p h.l)
  have hstate := state_takeAck s.now h.ack.toNat (pair s h.p h.l)
  rw [if_neg (by simp [hquiet]), pump_of_none (by rw [agree_link]; exact hnone)]
  obtain ⟨h1, h2, h3, h4⟩ := agree_reads (updPair h.p h.l (fun k => { k with peerFrom := rep.fromEd, peerEd := rep.edition, berTx := rep.ber10s })
    (updPair h.p h.l (fun k => takeCredits h (takeAck s.now h.ack.toNat k)) s)) h.p h.l (by
      rw [pair_updPair, pair_updPair]
      simpa [receiving, takeCredits] using hrecv)
  rw [pair_updPair, pair_updPair] at h1 h2 h3 h4
  refine ⟨h1, h2, h3, fun hnoloop => ?_⟩
  rw [h4 (hloop.trans hnoloop), ← hfrom]
  rfl

end

theorem does_noticeFlush (hwait : (pair s p l).notices ≠ []) :
    Does (.noticeFlush p l) s fun t => (pair t p l).notices = (pair s p l).notices.drop 15
        ∧ (pair t p l).queue = (pair s p l).queue ++ [{ tc := 2, body := .notice ((pair s p l).notices.take 15) }] := by
  refine .of_exec rfl ?_
  unfold flushNotices
  dsimp only
  rw [if_neg (by simpa using hwait), pair_setPair_same]
  exact ⟨rfl, rfl⟩

end

/-! ### GEN_CHANGE -/

/-- A table's entries each changed by their own key. -/
theorem Tbl.get_map_keyed {α : Type} (d : α) (f : Nat → α → α) (t : Tbl α) (k : Nat) (hk : Tbl.get d t k ≠ d ∨ f k d = d) :
    Tbl.get d (t.map fun p => (p.1, f p.1 p.2)) k = f k (Tbl.get d t k) := by
  induction t with
  | nil => exact (hk.resolve_left fun h => h rfl).symm
  | cons p t ih =>
    obtain ⟨k', v⟩ := p
    by_cases h : k = k'
    · simp [Tbl.get, h]
    · simp only [Tbl.get, h, if_false, List.map_cons] at hk ⊢
      exact ih hk

/-- A binding's word after a GEN_CHANGE of its peer's context. -/
def genTaken (sender pctx : Nat) (gen : Byte) (k : Nat) (w : Word) : Word :=
  if k % 32 = sender ∧ bit w 31 ∧ fld w 8 2 = pctx then setFld w 0 8 gen.toNat else w

theorem bind_genChange (sender pctx : Nat) (gen : Byte) (s : State) :
    (genChange sender pctx gen s).steer.bind = s.steer.bind.map fun p => (p.1, genTaken sender pctx gen p.1 p.2) := by
  unfold genChange genTaken
  refine List.map_congr_left fun p _ => ?_
  split <;> rfl

theorem does_genChange {s : State} {m : Modu} {pctx : Ctx} {new old : Byte} : Does (.genChange m pctx new old) s fun t => ∀ c : Ctx,
      bit (Tbl.get 0 s.steer.bind (32 * c + m)) 31 = true → fld (Tbl.get 0 s.steer.bind (32 * c + m)) 8 2 = pctx
      → Tbl.get 0 t.steer.bind (32 * c + m) = setFld (Tbl.get 0 s.steer.bind (32 * c + m)) 0 8 new.toNat := by
  refine .of_exec rfl fun c hbound hpeer => ?_
  have hzero : genTaken m pctx new (32 * c + m) (0 : Word) = 0 := if_neg (by simp [bit])
  rw [bind_genChange, Tbl.get_map_keyed 0 (genTaken m pctx new) _ _ (.inr hzero)]
  exact if_pos ⟨by omega, hbound, hpeer⟩

/-- Settles O17, a lemma for each row. -/
theorem linkPairsComplete : Obligations.LinkPairsComplete := by
  unfold Obligations.LinkPairsComplete
  refine ⟨?eq, ?lock, ?agree, ?timeout, ?code, ?short, ?lost, ?cmd, ?slot, ?lane, ?report, ?beacon, ?ack, ?idle, ?laneIn, ?flush, ?gen⟩
  case eq => exact fun s p l f ber us htrain hphase => does_trainingPhase_eq htrain hphase
  case lock => exact fun s p l f ber us htrain hphase hgood hpeer hid => does_trainingPhase_lock htrain hphase hgood hpeer hid
  case agree =>
    exact fun s p l f ber us htrain hphase hfresh hgood hpeer hcode hknown =>
      does_trainingPhase_agree htrain hphase hfresh hgood hpeer hcode hknown
  case timeout => exact fun s p l cause htrain hfails hlate => does_trainingPhaseTimeout htrain hfails hlate
  case code => exact fun s p l hup => does_codeSwitch hup
  case short => exact fun s p l hcode hup => does_shortCodeBerExceeded hcode hup
  case lost =>
    rintro c s p l (rfl | rfl) hup
    · exact does_codewordLockLost hup
    · exact does_preFecBerExceeded hup
  case cmd => exact fun s p mask => does_pairRetrainCmd
  case slot =>
    exact fun s p l f hrecv hbeacon hlane hreplay hmay hnext hnone hwait => does_flitSlot_new hrecv hbeacon hlane hreplay hmay hnext hnone hwait
  case lane => exact fun s p l hrecv hbeacon hlane => does_flitSlot_lane hrecv hbeacon hlane
  case report => exact fun s p l b10 b1 hrecv => does_laneReportDue hrecv
  case beacon => exact fun s p l xs hact => does_beaconDue hact
  case ack => exact fun s p l hwaits hsame hfew hlate => does_ackTimeout hwaits hsame hfew hlate
  case idle => exact fun s h type payload hrecv hgood hnak => does_idle hrecv hgood hnak
  case laneIn => exact fun s h rep hrecv hgood hnak hquiet hnone => does_lane hrecv hgood hnak hquiet hnone
  case flush => exact fun s p l hwait => does_noticeFlush hwait
  case gen => exact fun s m pctx new old => does_genChange

end Sys2Proof.Machine
end

section
/-! ### A write that forwards what a poisoned read brought, and its notice (12_ullos_link.md R242, R243) -/

namespace Sys2Proof.Machine

/-- The entry that tells of the write's arrival. -/
def arrivedEntry : NoticeEntry := { kind := 1, cause := 0, sgen := 0, sctx := 0, tag := 0, bytes := 0 }

/-- The NOTICE flit's header, with the CRC of its image. -/
def arrivedHdr : FlitHdr :=
  { p := 0, l := 0, slot := 0, lost := [], tc := 2, seq := 0, ack := 0, nak := false, cr0 := 0, cr1 := 0, cr2 := 0, crc := 1202278129 }

/-- The write: of the 256 bytes before a unit that its read found poisoned, so with its notice the transfer ends with ECC. -/
def forwardedWrite : SegOut :=
  { peer := 0, tag := 0, plane := 0, lane := 0, kind := 0, tc := 0
    piece := { peer := 0, read := false, inner := 0, len := 256, data := some [], ends := some (4, 0) }
    d := { sgen := 0, dgen := 0, sctx := 0, dctx := 0, smod := 0, edition := 0, length := 256, tag := 0, daddr := 0, poison := false, poff := 0
           token := false, tvcore := 0, tq := 0, tpayload := 0 }
    xfer := 0 }

/-- The transfer: nothing else of it is to be sent. -/
def forwardingXfer : Xfer := { ctx := some 0, gen := 0, tc := 0, live := 1 }

/-- A pair that receives, and the write that waits for its notice. -/
def atForwardedWrite : State :=
  { State.reset with
    fab := [(0, { pairs := [(0, { state := .up })] })]
    link := { State.reset.link with outs := [forwardedWrite], xfers := [(0, forwardingXfer)] } }

/-- The transfer's end after the notice. -/
def errAfterNotice : Option (Option (Nat × Nat)) :=
  match exec (.notice arrivedHdr [arrivedEntry]) atForwardedWrite with
  | .next t => (xfer t 0).map Xfer.err
  | _ => none

theorem errAfterNotice_eq : errAfterNotice = some (some (4, 0)) := by decide +kernel

/-- Refutes O18, in its NOTICE clause: a write that forwards the good bytes of a poisoned read ends its transfer with ECC as its notice comes. -/
theorem not_linkSegmentsComplete : ¬ Obligations.LinkSegmentsComplete := by
  unfold Obligations.LinkSegmentsComplete
  rintro ⟨-, -, -, -, -, hnotice, -, -⟩
  have horder : InOrder atForwardedWrite arrivedHdr (.notice [arrivedEntry]) := ⟨rfl, by decide +kernel, rfl, rfl, rfl⟩
  obtain ⟨t, hexec, -, hxfer⟩ := hnotice atForwardedWrite arrivedHdr arrivedEntry forwardedWrite forwardingXfer horder (by decide) (by decide) rfl
    rfl (by decide) rfl rfl
  have herr := errAfterNotice_eq
  unfold errAfterNotice at herr
  rw [hexec] at herr
  have hnone : (xfer t 0).map Xfer.err = some none := (congrArg (Option.map Xfer.err) hxfer).trans rfl
  exact absurd (herr.symm.trans hnone) (by decide)

end Sys2Proof.Machine
end

section
/-! ### Control messages received (14_pod_steward_and_continuity.md R279 to R281) -/

namespace Sys2Proof.Machine

/-- A message counted, and acknowledged where that is asked. -/
def acked (h : Hdr) (s : State) : State :=
  if h.ackReq then ctlSend h.src 0x200 [h.msgid.toNat] (countHub 0x10 0 false s) else countHub 0x10 0 false s

/-- A fresh message noted: counted, acknowledged, remembered. -/
def noted (h : Hdr) (kind : Nat) (s : State) : State :=
  onStew (fun w => { w with seen := ((h.src, kind, h.msgid.toNat, (acked h s).now)
    :: w.seen.filter fun x => (acked h s).now < x.2.2.2 + 100000000).take 4096 }) (acked h s)

/-- A fresh message noted, a steward's with its epoch. -/
def heard (h : Hdr) (kind : Nat) (steward : Bool) (s : State) : State :=
  if steward then onSteer (fun t => { t with epoch := if t.epoch.toNat < h.epoch.toNat ∧ kind ≠ 0x101 then h.epoch else t.epoch }) (noted h kind s)
  else noted h kind s

section
variable {s : State} {h : Hdr} {kind : Nat} {steward : Bool}

theorem stew_ctlOut (dst kind id flags : Nat) (body : List Nat) (s : State) : (ctlOut dst kind id flags body s).stew = s.stew := by
  unfold ctlOut
  split <;> rfl

/-- A message sent on the control network: its MSGID is used, and it may wait for its ACK. -/
theorem stew_ctlSend (dst kind : Nat) (body : List Nat) (s : State) : ∃ id us, (ctlSend dst kind body s).stew = { s.stew with msgid := id, unacked := us } := by
  unfold ctlSend
  dsimp only
  rw [stew_ctlOut]
  exact ⟨_, _, rfl⟩

theorem acked_law (h : Hdr) (s : State) : Law [.tally, .stew, .sent] s (acked h s) := by
  have hcount : Law [.tally, .stew, .sent] s (countHub 0x10 0 false s) := (countHub_law ..).mono (by decide)
  unfold acked
  split
  · exact .step (ctlSend_law ..) (by decide) hcount
  · exact hcount

theorem stew_acked (h : Hdr) (s : State) : ∃ id us, (acked h s).stew = { s.stew with msgid := id, unacked := us } := by
  unfold acked
  split
  · obtain ⟨id, us, hstew⟩ := stew_ctlSend h.src 0x200 [h.msgid.toNat] (countHub 0x10 0 false s)
    exact ⟨id, us, hstew.trans (by rw [countHub_stew])⟩
  · exact ⟨_, _, countHub_stew ..⟩

theorem noted_law (h : Hdr) (kind : Nat) (s : State) : Law [.tally, .stew, .sent] s (noted h kind s) :=
  .step (onStew_law ..) (by decide) (acked_law h s)

theorem stew_noted (h : Hdr) (kind : Nat) (s : State) :
    ∃ id us seen, (noted h kind s).stew = { s.stew with msgid := id, unacked := us, seen := seen } := by
  obtain ⟨id, us, hstew⟩ := stew_acked h s
  rw [noted, onStew, hstew]
  exact ⟨id, us, _, rfl⟩

theorem heard_law (h : Hdr) (kind : Nat) (steward : Bool) (s : State) : Law [.tally, .stew, .steer, .sent] s (heard h kind steward s) := by
  have hnoted : Law [.tally, .stew, .steer, .sent] s (noted h kind s) := (noted_law ..).mono (by decide)
  unfold heard
  split
  · exact .step (onSteer_law ..) (by decide) hnoted
  · exact hnoted

theorem stew_heard (h : Hdr) (kind : Nat) (steward : Bool) (s : State) :
    ∃ id us seen, (heard h kind steward s).stew = { s.stew with msgid := id, unacked := us, seen := seen } := by
  have hepoch : (heard h kind steward s).stew = (noted h kind s).stew := by
    unfold heard
    split <;> rfl
  rw [hepoch]
  exact stew_noted ..

theorem steer_heard (h : Hdr) (kind : Nat) (s : State) : (heard h kind false s).steer = s.steer := (noted_law h kind s).1 .steer (by decide)

/-- A steward's message changes the epoch of steering at most. -/
theorem steer_heard_steward (h : Hdr) (kind : Nat) (s : State) : ∃ e, (heard h kind true s).steer = { s.steer with epoch := e } := by
  have hsteer : (noted h kind s).steer = s.steer := (noted_law h kind s).1 .steer (by decide)
  rw [heard, if_pos rfl, onSteer, hsteer]
  exact ⟨_, rfl⟩

/-- A CHART_PART's epoch is taken with the chart, not with the message. -/
theorem steer_heard_part (h : Hdr) (s : State) : (heard h 0x101 true s).steer = s.steer := by
  have hsteer : (noted h 0x101 s).steer = s.steer := (noted_law h 0x101 s).1 .steer (by decide)
  rw [heard, if_pos rfl, onSteer, hsteer]
  simp only [ne_eq, not_true_eq_false, and_false, if_false]

/-- A fresh message is acted on. -/
theorem recv_of_fresh (hfresh : Fresh s h kind steward) (act : State → State) : recv h kind steward s act = act (heard h kind steward s) := by
  obtain ⟨hepoch, hseen⟩ := hfresh
  obtain ⟨id, us, hstew⟩ := stew_acked h s
  have hnow : (acked h s).now = s.now := (acked_law h s).1 .now (by decide)
  have hcurrent : ¬(steward = true ∧ h.epoch.toNat < (countHub 0x10 0 false s).steer.epoch.toNat) := by
    rw [countHub_steer]
    exact fun hold => absurd hold.2 (Nat.not_lt.mpr (hepoch hold.1).1)
  have hnew : ((acked h s).stew.seen.any fun x => x.1 == h.src && x.2.1 == kind && x.2.2.1 == h.msgid.toNat
      && decide ((acked h s).now < x.2.2.2 + 100000000)) = false := by
    rw [hstew, hnow]
    refine List.any_eq_false.mpr fun x hx => ?_
    have hlate := hseen x hx
    simp only [Bool.and_eq_true, beq_iff_eq, decide_eq_true_eq, not_and, not_lt]
    exact fun h => hlate h.1.1 h.1.2 h.2
  have hholder : ¬(steward = true ∧ (noted h kind s).stew.role = 5 ∧ (noted h kind s).stew.leaseEpoch < h.epoch.toNat) := by
    obtain ⟨_, _, _, hnoted⟩ := stew_noted h kind s
    rw [hnoted]
    exact fun hstop => absurd hstop.2.2 (Nat.not_lt.mpr ((hepoch hstop.1).2 hstop.2.1))
  have hnew : ¬(((acked h s).stew.seen.any fun x => x.1 == h.src && x.2.1 == kind && x.2.2.1 == h.msgid.toNat
      && decide ((acked h s).now < x.2.2.2 + 100000000)) = true) := by rw [hnew]; exact Bool.false_ne_true
  unfold recv
  dsimp only
  rw [if_neg hcurrent]
  change (if ((acked h s).stew.seen.any fun x => x.1 == h.src && x.2.1 == kind && x.2.2.1 == h.msgid.toNat
      && decide ((acked h s).now < x.2.2.2 + 100000000)) = true then _ else
    act (if steward then onSteer _ (if steward = true ∧ (noted h kind s).stew.role = 5 ∧ (noted h kind s).stew.leaseEpoch < h.epoch.toNat
      then stopSteward 4 h.src (noted h kind s) else noted h kind s)
      else (if steward = true ∧ (noted h kind s).stew.role = 5 ∧ (noted h kind s).stew.leaseEpoch < h.epoch.toNat
      then stopSteward 4 h.src (noted h kind s) else noted h kind s))) = _
  rw [if_neg hnew, if_neg hholder]
  rfl

end

end Sys2Proof.Machine
end

section
/-! ### Charts (13_steering_charts.md R256 to R267, R273) -/

namespace Sys2Proof.Machine

/-- What of steering the pairs and their flits leave alone: all but bindings, and the pairs and demands that wait for a chart. -/
def inChart (s : State) : SteerSt := { s.steer with bind := [], unlit := [], joining := [], deferred := [], demandFor := [] }

theorem inChart_of_law {L : List Part} {s t : State} (h : Law L s t) (hL : .steer ∉ L) : inChart t = inChart s := by
  have hsteer : t.steer = s.steer := h.1 .steer hL
  rw [inChart, inChart, hsteer]

section
variable (s : State) (p l : Nat)

theorem inChart_takeGen (d : SegDesc) : inChart (takeGen d s) = inChart s := by
  unfold takeGen
  dsimp only
  split <;> rfl

theorem inChart_refuse (kind tc : Nat) (d : SegDesc) (v : Verdict) (write : Bool) : inChart (refuse p l kind tc d v write s) = inChart s := by
  have hopen : inChart (openDiscard p l kind tc d s) = inChart s := inChart_of_law (openDiscard_law ..) (by decide)
  unfold refuse
  dsimp only
  split
  · exact (inChart_of_law (addNotice_law ..) (by decide)).trans ((inChart_of_law (edDrop_law ..) (by decide)).trans hopen)
  · exact (inChart_of_law (addNotice_law ..) (by decide)).trans hopen
  · exact (inChart_of_law (addNotice_law ..) (by decide)).trans hopen
  · exact (inChart_of_law (lateArrival_law ..) (by decide)).trans hopen
  · exact (inChart_takeGen ..).trans ((inChart_of_law (addNotice_law ..) (by decide)).trans ((inChart_of_law (rowReport_law ..) (by decide)).trans hopen))
  · exact hopen

/-- A flit that is dealt with changes bindings at most. -/
theorem inChart_process {f : Flit} {s t : State} (h : process p l f s = some t) : inChart t = inChart s := by
  unfold process at h
  split at h
  · cases h
    exact inChart_of_law (openResp_law ..) (by decide)
  · split at h
    · cases h
    · cases h
      exact (inChart_of_law (openSeg_law ..) (by decide)).trans ((inChart_of_law (clearFirst_law ..) (by decide)).trans (inChart_takeGen ..))
    · cases h
      exact inChart_refuse ..
  · split at h
    · cases h
    · dsimp only at h
      split at h
      · cases h
        exact (inChart_of_law (addNotice_law ..) (by decide)).trans (inChart_takeGen ..)
      · split at h
        · cases h
          exact (inChart_of_law (addNotice_law ..) (by decide)).trans ((inChart_of_law (remoteToken_law ..) (by decide)).trans (inChart_takeGen ..))
        · cases h
          exact (inChart_refuse ..).trans (inChart_takeGen ..)
    · cases h
      exact inChart_refuse ..
  · cases h
    exact (inChart_of_law (openDiscard_law ..) (by decide)).trans (inChart_of_law (updPair_law ..) (by decide))
  · split at h
    · cases h
    · split at h
      · cases h
        exact (inChart_of_law (respond_law ..) (by decide)).trans (inChart_takeGen ..)
      · cases h
    · cases h
      exact inChart_refuse ..
  · cases h
    exact inChart_of_law (dataIn_law ..) (by decide)
  · cases h
    exact foldl_keeps (read := inChart) (f := takeNotice p l) (fun s e => inChart_of_law (takeNotice_law ..) (by decide)) _ s
  · cases h
    rfl

theorem inChart_deliver (f : Flit) : inChart (deliver p l f s) = inChart s := by
  unfold deliver
  split
  · exact inChart_of_law (updPair_law ..) (by decide)
  · split
    next t h => exact (inChart_of_law (freeFlit_law ..) (by decide)).trans (inChart_process p l h)
    next =>
      dsimp only
      split
      · exact (inChart_of_law (countFab_law ..) (by decide)).trans (inChart_of_law (updPair_law ..) (by decide))
      · exact inChart_of_law (updPair_law ..) (by decide)

theorem inChart_releaseWait : inChart (releaseWait p l s) = inChart s :=
  (foldl_keeps (read := inChart) (f := fun (s : State) (f : Flit) => deliver p l f s) (fun s f => inChart_deliver s p l f) _ _).trans
    (inChart_of_law (updPair_law ..) (by decide))

theorem inChart_joining (xs : List (Nat × Nat)) : inChart (onSteer (fun t => { t with joining := t.joining ++ xs }) s) = inChart s := rfl

theorem inChart_takeEnt (c : List Byte) (e : ChEnt) : inChart (takeEnt c s e) = inChart s := by
  unfold takeEnt
  dsimp only
  split
  · split
    · exact inChart_of_law (updPair_law ..) (by decide)
    · exact (inChart_of_law (rejoin_law ..) (by decide)).trans (inChart_joining ..)
  · split
    · exact (inChart_of_law (lightPair_law ..) (by decide)).trans (inChart_joining ..)
    · rfl

theorem inChart_takePlanes (ps : List Nat) : inChart (takePlanes ps s) = inChart s := by
  unfold takePlanes
  dsimp only
  refine (foldl_keeps (read := inChart) (f := takeEnt s.steer.chart) (fun s e => inChart_takeEnt s _ e) _ _).trans ?_
  refine (foldl_keeps (read := inChart) (f := fun (s : State) (x : Nat × Nat) => pairGone x.1 x.2 s) (fun s x => inChart_of_law (pairGone_law ..) (by decide)) _ _).trans ?_
  exact foldl_keeps (read := inChart) (f := fun (s : State) (x : Nat × Nat) => clearPair x.1 x.2 s) (fun s x => inChart_of_law (clearPair_law ..) (by decide)) _ _

theorem inChart_completeDemands : inChart (completeDemands s) = inChart s := by
  refine foldl_keeps (read := inChart) (fun x d => ?_) _ s
  have hdone : inChart (onSteer (fun t => { t with demandFor := t.demandFor.filter fun x => x ≠ d }) x) = inChart x := rfl
  dsimp only
  split
  · exact (inChart_of_law (completeBy_law ..) (by decide)).trans hdone
  · rfl

/-- The staged chart in force, its pairs not yet taken. -/
def chartForced (s : State) : State :=
  onSteer (fun t => { t with
    chart := s.steer.staged, staged := [], edition := chEdition s.steer.staged, charted := true, unlit := [], joining := [],
    deferred := (List.range 16).filter (deferred s), applyAt := s.now, state := if chMember s.steer.staged (me s) then .applying else .excluded }) s

/-- A chart put in force: what follows changes bindings, pairs that wait and demands at most. -/
theorem inChart_applyChart : inChart (applyChart s) = inChart (chartForced s) := by
  have htake : ∀ ps, inChart (takePlanes ps (chartForced s)) = inChart (chartForced s) := fun ps => inChart_takePlanes ..
  rw [applyChart]
  refine (inChart_of_law (removeCheck_law ..) (by decide)).trans ((inChart_of_law (pump_law ..) (by decide)).trans ((inChart_completeDemands _).trans ?_))
  refine (foldl_keeps (read := inChart) (f := fun (s : State) (x : Nat × Nat) => releaseWait x.1 x.2 s) (fun s x => inChart_releaseWait s _ _) _ _).trans ?_
  change inChart (if chMember s.steer.staged (me s) then takePlanes _ (chartForced s)
    else switchEnded (logRec _ _ _ _ _ _ (takePlanes _ (chartForced s)))) = _
  split
  · exact htake _
  · exact (inChart_of_law (switchEnded_law ..) (by decide)).trans ((inChart_of_law (logRec_law ..) (by decide)).trans (htake _))

end

theorem does_chartCommit {s : State} (hstaged : s.steer.state = .staged) (hdue : chCommit s.steer.staged ≤ s.time.ns.toNat) :
    Does .chartCommit s fun t => t.steer.chart = s.steer.staged ∧ t.steer.staged = [] ∧ t.steer.edition = chEdition s.steer.staged
        ∧ t.steer.charted = true ∧ t.steer.applyAt = s.now
        ∧ t.steer.state = if chMember s.steer.staged (me s) then .applying else .excluded := by
  have h := inChart_applyChart s
  refine .of_exec (if_pos ⟨hstaged, hdue⟩) ?_
  generalize applyChart s = t at h ⊢
  exact ⟨(congrArg SteerSt.chart h :), (congrArg SteerSt.staged h :), (congrArg SteerSt.edition h :), (congrArg SteerSt.charted h :),
    (congrArg SteerSt.applyAt h :), (congrArg SteerSt.state h :)⟩

end Sys2Proof.Machine
end

section
/-! ### Surveys, chart parts and loop tests (R256 to R265, R273) -/

namespace Sys2Proof.Machine

section
variable {s : State}

theorem fileFrame_keeps (s : State) (v : SurveyRun) (f : SurveyFrame) :
    (fileFrame s v f).sweeps = v.sweeps ∧ (fileFrame s v f).planes = v.planes := by
  unfold fileFrame
  dsimp only
  split
  · exact ⟨rfl, rfl⟩
  · split <;> exact ⟨rfl, rfl⟩

theorem does_surveySweepEnd {v : SurveyRun} (fs : List SurveyFrame) (hsurvey : s.steer.survey = some v) (hfew : v.sweeps < 7) :
    Does (.surveySweepEnd fs) s fun t => ∃ v', t.steer.survey = some v' ∧ v'.sweeps = v.sweeps + 1 ∧ v'.planes = v.planes := by
  have hsweeps : (fs.foldl (fileFrame s) v).sweeps = v.sweeps := foldl_keeps (read := SurveyRun.sweeps) (fun v f => (fileFrame_keeps s v f).1) fs v
  have hplanes : (fs.foldl (fileFrame s) v).planes = v.planes := foldl_keeps (read := SurveyRun.planes) (fun v f => (fileFrame_keeps s v f).2) fs v
  generalize hv : fs.foldl (fileFrame s) v = w at hsweeps hplanes
  have hexec : exec (.surveySweepEnd fs) s = .next (startSweep w.planes ((w.sweeps + 1) % 2)
      (onSteer (fun t => { t with survey := some { w with sweeps := w.sweeps + 1 } }) s)) := by
    change execSurveySweepEnd fs s = _
    unfold execSurveySweepEnd
    rw [hsurvey]
    dsimp only
    rw [hv, if_neg (by rw [hsweeps]; omega)]
  refine .of_exec hexec ?_
  rw [show ∀ t, (startSweep w.planes ((w.sweeps + 1) % 2) t).steer = t.steer from fun t => (startSweep_law ..).1 .steer (by decide)]
  exact ⟨_, rfl, congrArg (· + 1) hsweeps, hplanes⟩

/-! ### The end of a survey -/

theorem gaz_of_reads {t : State} (hgaz : t.steer.gaz = s.steer.gaz) (hidb : t.idb = s.idb) (p : Nat) : gaz t p = gaz s p := by
  rw [gaz, gaz, planeCount, planeCount, hgaz, hidb]

theorem gaz_setGaz (p q : Nat) (g : Gaz) (s : State) : gaz (setGaz p g s) q = if q = p then g else gaz s q := by
  rw [gaz, setGaz, onSteer]
  exact Tbl.get_set ..

theorem weighFrames_keep (o : Nat) (xs : List (Nat × Nat × Nat)) (g : Gaz) : (xs.foldl (weighFrame o) g).state = g.state
    ∧ (xs.foldl (weighFrame o) g).offset = g.offset ∧ (xs.foldl (weighFrame o) g).loopch = g.loopch := by
  have hone : ∀ g x, (weighFrame o g x).state = g.state ∧ (weighFrame o g x).offset = g.offset ∧ (weighFrame o g x).loopch = g.loopch := by
    intro g x
    unfold weighFrame
    split <;> exact ⟨rfl, rfl, rfl⟩
  exact ⟨foldl_keeps (read := Gaz.state) (fun g x => (hone g x).1) xs g, foldl_keeps (read := Gaz.offset) (fun g x => (hone g x).2.1) xs g,
    foldl_keeps (read := Gaz.loopch) (fun g x => (hone g x).2.2) xs g⟩

/-- A plane whose own light came back on one channel. -/
def Located (k : Nat) (g : Gaz) : Prop := g.state = 2 ∧ g.offset = (32 - k) % 32 ∧ g.loopch = k

theorem located_finishPlane {v : SurveyRun} {p k : Nat} (hloop : Tbl.get [] v.loops p = [k]) (s : State) : Located k (gaz (finishPlane v s p) p) := by
  obtain ⟨hstate, hoffset, hloopch⟩ := weighFrames_keep ((32 - k) % 32) (Tbl.get [] v.others p)
    { gaz s p with state := 2, offset := (32 - k) % 32, loopch := k }
  have hfinish : finishPlane v s p = setGaz p ((Tbl.get [] v.others p).foldl (weighFrame ((32 - k) % 32))
      { gaz s p with state := 2, offset := (32 - k) % 32, loopch := k }) s := by
    unfold finishPlane
    rw [hloop]
  rw [hfinish, gaz_setGaz, if_pos rfl]
  exact ⟨hstate, hoffset, hloopch⟩

/-- What of steering the end of a survey reads and leaves: all but the planes' results. -/
def besideGaz (s : State) : SteerSt := { s.steer with gaz := [] }

theorem besideGaz_finishPlane (v : SurveyRun) (s : State) (p : Nat) : besideGaz (finishPlane v s p) = besideGaz s := by
  unfold finishPlane
  dsimp only
  split
  · rfl
  · have hlog : ∀ c s' a b d e (t : State), besideGaz (logRec c s' a b d e t) = besideGaz t := fun _ _ _ _ _ _ _ => by
      rw [besideGaz, besideGaz, logRec_steer]
    exact hlog ..

theorem gaz_finishPlane_other {v : SurveyRun} {p q : Nat} (hne : q ≠ p) (s : State) : gaz (finishPlane v s p) q = gaz s q := by
  have hset : ∀ g, gaz (setGaz p g s) q = gaz s q := fun g => (gaz_setGaz ..).trans (if_neg hne)
  unfold finishPlane
  dsimp only
  split
  · exact hset _
  · exact (gaz_of_reads (congrArg SteerSt.gaz (logRec_steer ..)) ((logRec_law ..).1 .idb (by decide)) q).trans (hset _)

/-- The planes' results stand, and their lights are out. -/
def surveyed (v : SurveyRun) (s : State) : State := v.planes.foldl darkPlane (v.planes.foldl (finishPlane v) s)

theorem besideGaz_surveyed (v : SurveyRun) (s : State) : besideGaz (surveyed v s) = besideGaz s :=
  (foldl_keeps (read := besideGaz) (fun s p => by rw [besideGaz, besideGaz, show (darkPlane s p).steer = s.steer from (darkPlane_law ..).1 .steer (by decide)]) _ _).trans
    (foldl_keeps (read := besideGaz) (besideGaz_finishPlane v) _ s)

theorem located_surveyed {v : SurveyRun} {p k : Nat} (hmem : p ∈ v.planes) (hloop : Tbl.get [] v.loops p = [k]) (s : State) :
    Located k (gaz (surveyed v s) p) := by
  have hdark : gaz (surveyed v s) p = gaz (v.planes.foldl (finishPlane v) s) p :=
    foldl_keeps (read := fun s => gaz s p) (fun s q => gaz_of_reads (congrArg SteerSt.gaz ((darkPlane_law ..).1 .steer (by decide)))
      ((darkPlane_law ..).1 .idb (by decide)) p) _ _
  rw [hdark]
  exact foldl_reaches (P := fun s => Located k (gaz s p)) hmem (located_finishPlane hloop)
    (fun q _ hne x h => by rw [gaz_finishPlane_other (Ne.symm hne)]; exact h) s

/-- The survey over, its state taken back. -/
def surveyOver (v : SurveyRun) (s : State) : State :=
  onSteer (fun t => { t with state := restState (onSteer (fun t => { t with survey := none }) (surveyed v s)) })
    (onSteer (fun t => { t with survey := none }) (surveyed v s))

/-- The request for a survey answered. -/
def surveyAnswered (v : SurveyRun) (s : State) : State :=
  match v.ring with
  | some (r, tag) => completeBy r 1 tag 0 (toBytes (planesIn s v 2) 2 ++ toBytes (planesIn s v 1) 2 ++ toBytes (planesIn s v 3) 2) s
  | none => s

theorem surveyAnswered_law (v : SurveyRun) (s : State) : Law [.host, .hst, .tally, .sent] s (surveyAnswered v s) := by
  unfold surveyAnswered
  split
  · exact completeBy_law ..
  · exact Law.refl ..

theorem endSurvey_tail (v : SurveyRun) (s : State) :
    Law [.host, .hst, .tally, .log, .stew, .boot, .side, .sent] (surveyOver v s) (endSurvey v s) := by
  have hsend : Law [.host, .hst, .tally, .log, .stew, .boot, .side, .sent] (surveyOver v s) (surveyAnswered v (sendSurvey (surveyOver v s))) :=
    .step (surveyAnswered_law ..) (by decide) ((sendSurvey_law ..).mono (by decide))
  have htail : ∀ u : State, Law [.host, .hst, .tally, .log, .stew, .boot, .side, .sent] u
      (if u.boot.state = .survey ∧ u.boot.reported = false then
        if u.stew.cfg.isNone then leaveSurvey { u with boot := { u.boot with reported := true, reportAt := u.now } }
        else { u with boot := { u.boot with reported := true, reportAt := u.now } }
      else u) := by
    intro u
    have hboot : Law [.host, .hst, .tally, .log, .stew, .boot, .side, .sent] u { u with boot := { u.boot with reported := true, reportAt := u.now } } :=
      .set_boot _ (by decide) (.refl ..)
    split
    · split
      · exact .step (leaveSurvey_law ..) (by decide) hboot
      · exact hboot
    · exact Law.refl ..
  exact hsend.trans (htail _)

theorem restState_of_besideGaz {t : State} (h : besideGaz t = besideGaz s) : restState t = restState s := by
  have hstaged : t.steer.staged = s.steer.staged := (congrArg SteerSt.staged h :)
  have hcharted : t.steer.charted = s.steer.charted := (congrArg SteerSt.charted h :)
  have hchart : t.steer.chart = s.steer.chart := (congrArg SteerSt.chart h :)
  have hslot : t.steer.slot = s.steer.slot := (congrArg SteerSt.slot h :)
  rw [restState, restState, me, me, hstaged, hcharted, hchart, hslot]

theorem does_surveySweepEnd_last {v : SurveyRun} (hsurvey : s.steer.survey = some v) (hseven : v.sweeps = 7) :
    Does (.surveySweepEnd []) s fun t => t.steer.survey = none ∧ t.steer.state = restState s ∧ ∀ p k, p ∈ v.planes → Tbl.get [] v.loops p = [k]
        → (gaz t p).state = 2 ∧ (gaz t p).offset = (32 - k) % 32 ∧ (gaz t p).loopch = k := by
  have hexec : exec (.surveySweepEnd []) s = .next (endSurvey { v with sweeps := v.sweeps + 1 } s) := by
    change execSurveySweepEnd [] s = _
    unfold execSurveySweepEnd
    rw [hsurvey]
    exact if_pos (by rw [List.foldl_nil, hseven])
  obtain ⟨htail, -⟩ := endSurvey_tail { v with sweeps := v.sweeps + 1 } s
  have hsteer : (endSurvey { v with sweeps := v.sweeps + 1 } s).steer = (surveyOver { v with sweeps := v.sweeps + 1 } s).steer := htail .steer (by decide)
  have hidb : (endSurvey { v with sweeps := v.sweeps + 1 } s).idb = (surveyOver { v with sweeps := v.sweeps + 1 } s).idb := htail .idb (by decide)
  refine .of_exec hexec ⟨?_, ?_, fun p k hmem hloop => ?_⟩
  · rw [hsteer]
    rfl
  · have hforget : ∀ u : State, restState (onSteer (fun t => { t with survey := none }) u) = restState u := fun _ => rfl
    rw [hsteer]
    exact (hforget _).trans <| restState_of_besideGaz (besideGaz_surveyed { v with sweeps := v.sweeps + 1 } s)
  · have hgaz : gaz (endSurvey { v with sweeps := v.sweeps + 1 } s) p = gaz (surveyed { v with sweeps := v.sweeps + 1 } s) p :=
      (gaz_of_reads (congrArg SteerSt.gaz hsteer) hidb p).trans (gaz_of_reads rfl rfl p)
    rw [hgaz]
    exact located_surveyed (v := { v with sweeps := v.sweeps + 1 }) hmem hloop s

/-! ### Surveys ordered -/

theorem startSurvey_reads (ps : List Nat) (ring : Option (Nat × Nat)) (s : State) :
    (startSurvey ps ring s).steer.state = .surveying ∧ (startSurvey ps ring s).steer.survey = some { planes := ps, ring := ring } := by
  have hsweep : ∀ u : State, (startSweep ps 0 u).steer = u.steer := fun u => (startSweep_law ..).1 .steer (by decide)
  unfold startSurvey
  dsimp only
  rw [hsweep]
  exact ⟨rfl, rfl⟩

theorem planeBusy_of_reads {t : State} (hfab : t.fab = s.fab) (hsteer : t.steer = s.steer) (p : Nat) : planeBusy t p = planeBusy s p := by
  rw [planeBusy, planeBusy, fab_of_fab hfab, me, me, hsteer]

theorem does_surveyCmd {h : Hdr} {mask : Half16} {ps : List Nat} (hfresh : Fresh s h 0x105 false) (hstaged : s.steer.state ≠ .staged)
    (happlying : s.steer.state ≠ .applying) (hsurveying : s.steer.state ≠ .surveying)
    (hps : ps = ((planesOf mask.toNat).filter fun p => p < planeCount s ∧ planeBusy s p = false)) (hsome : ps ≠ []) :
    Does (.surveyCmd h mask) s fun t => t.steer.state = .surveying ∧ t.steer.survey = some { planes := ps } := by
  have hsteer : (heard h 0x105 false s).steer = s.steer := steer_heard ..
  have hfab : (heard h 0x105 false s).fab = s.fab := (heard_law ..).1 .fab (by decide)
  have hidb : (heard h 0x105 false s).idb = s.idb := (heard_law ..).1 .idb (by decide)
  have hplanes : ((planesOf mask.toNat).filter fun p => p < planeCount (heard h 0x105 false s) ∧ planeBusy (heard h 0x105 false s) p = false) = ps := by
    rw [hps]
    refine List.filter_congr fun p _ => ?_
    rw [planeBusy_of_reads hfab hsteer, planeCount, planeCount, hidb]
  have hexec : exec (.surveyCmd h mask) s = .next (startSurvey ps none (heard h 0x105 false s)) := by
    change execSurveyCmd h mask s = _
    unfold execSurveyCmd
    rw [recv_of_fresh hfresh]
    dsimp only
    rw [hsteer, if_neg (not_or.mpr ⟨hstaged, happlying⟩), if_neg hsurveying, hplanes, if_neg (by rw [List.isEmpty_iff]; exact hsome)]
  exact .of_exec hexec (startSurvey_reads ..)

theorem does_survey {r : RingIx} {e : Entry} (htake : takeEntry s r 3 1 = some e)
    (hfree : ∀ p ∈ planesOf (ent e 8 2), p < planeCount s ∧ planeBusy s p = false) (hstaged : s.steer.state ≠ .staged)
    (happlying : s.steer.state ≠ .applying) (hsurveying : s.steer.state ≠ .surveying) : Does (.survey r) s fun t =>
      t.steer.state = .surveying ∧ t.steer.survey = some { planes := planesOf (ent e 8 2), ring := some (r.val, entTag e) } := by
  have hplanes : ¬((planesOf (ent e 8 2)).any (fun p => decide (planeCount s ≤ p)) = true) := by
    simp only [List.any_eq_true, decide_eq_true_eq, not_exists, not_and, not_le]
    exact fun p hp => (hfree p hp).1
  have hbusy : ¬((planesOf (ent e 8 2)).any (planeBusy s) = true) := by
    simp only [List.any_eq_true, not_exists, not_and, Bool.not_eq_true]
    exact fun p hp => (hfree p hp).2
  have hstate : ¬(s.steer.state = .staged ∨ s.steer.state = .applying ∨ s.steer.state = .surveying) :=
    not_or.mpr ⟨hstaged, not_or.mpr ⟨happlying, hsurveying⟩⟩
  refine .of_exec rfl (onEntry_holds (P := fun t => t.steer.state = .surveying
    ∧ t.steer.survey = some { planes := planesOf (ent e 8 2), ring := some (r.val, entTag e) }) htake (fun t h => ?_) ?_)
  · have hsteer : (turnTaken r 3 t).steer = t.steer := (turnTaken_law ..).1 .steer (by decide)
    rw [hsteer]
    exact h
  · dsimp only
    rw [if_neg hplanes, if_neg hstate, if_neg hbusy]
    exact startSurvey_reads ..

/-! ### Chart parts (R265) -/

section
variable {h : Hdr} {ed : Half16} {crc : Word} {bs : List Byte}

/-- Part `i` of `n` of a chart of which nothing else came. -/
theorem addPart_first (i n : Nat) : addPart none ed i n crc bs = { edition := ed, crc := crc, parts := n, got := [(i, bs)] } := rfl

theorem does_chartPart_first {i n : Nat} (hfresh : Fresh s h 0x101 true) (hparts : s.steer.parts = none) (hlatest : s.steer.latestPart = none)
    (htwo : 2 ≤ n) : Does (.chartPart h ed i n crc bs) s fun t => t.steer.parts = some { edition := ed, crc := crc, parts := n, got := [(i, bs)] }
        ∧ t.steer.latestPart = some ed ∧ t.steer.staged = s.steer.staged := by
  have hsteer := steer_heard_part h s
  have hmore : ¬(((List.range n).all fun j => [(i, bs)].any fun p => p.1 == j) = true) := by
    intro hall
    rw [List.all_eq_true] at hall
    have hzero := hall 0 (List.mem_range.mpr (by omega))
    have hone := hall 1 (List.mem_range.mpr (by omega))
    simp only [List.any_cons, List.any_nil, Bool.or_false, beq_iff_eq] at hzero hone
    omega
  have hexec : exec (.chartPart h ed i n crc bs) s = .next (onSteer (fun t => { t with parts := some (addPart none ed i n crc bs) })
      (onSteer (fun t => { t with latestPart := some ed }) (heard h 0x101 true s))) := by
    change execChartPart h ed i n crc bs s = _
    unfold execChartPart
    rw [recv_of_fresh hfresh]
    dsimp only
    rw [hsteer, hlatest, hparts]
    dsimp only
    rw [if_neg Bool.false_ne_true]
    exact congrArg _ (if_neg hmore)
  refine .of_exec hexec ⟨rfl, rfl, ?_⟩
  exact (congrArg SteerSt.staged hsteer :)

theorem checkChart_of_chartView {t : State} (hstaged : t.steer.staged = s.steer.staged) (hchart : t.steer.chart = s.steer.chart)
    (hepoch : t.steer.epoch = s.steer.epoch) (hcharted : t.steer.charted = s.steer.charted) (hed : t.steer.edition = s.steer.edition) (c : List Byte) :
    checkChart t c = checkChart s c := by
  rw [checkChart, checkChart, hstaged, hchart, hepoch, hcharted, hed]

theorem takeChart_reads {dst : Nat} (hcheck : checkChart s bs = 0) : (takeChart dst bs s).steer = { s.steer with
    staged := bs, epoch := BitVec.ofNat 32 (chEpoch bs),
    state := if s.steer.state = .uncharted ∨ s.steer.state = .steady ∨ s.steer.state = .excluded then .staged else s.steer.state } := by
  have hsend : ∀ e (u : State), (sendStaged dst e 0 u).steer = u.steer := fun _ _ => (sendStaged_law ..).1 .steer (by decide)
  unfold takeChart
  dsimp only
  rw [hcheck]
  exact (hsend ..).trans (logRec_steer ..)

theorem does_chartPart_whole (hfresh : Fresh s h 0x101 true) (hparts : s.steer.parts = none) (hlatest : s.steer.latestPart = none)
    (hcrc : chCrc bs = crc.toNat) (hcheck : checkChart s bs = 0) : Does (.chartPart h ed 0 1 crc bs) s fun t => t.steer.staged = bs
        ∧ t.steer.epoch = BitVec.ofNat 32 (chEpoch bs) ∧ t.steer.chart = s.steer.chart ∧ (s.steer.state = .steady → t.steer.state = .staged) := by
  have hsteer := steer_heard_part h s
  have hbytes : partBytes (addPart none ed 0 1 crc bs) = bs := by
    rw [addPart_first]
    exact List.append_nil bs
  have hexec : exec (.chartPart h ed 0 1 crc bs) s = .next (takeChart h.src bs (onSteer (fun t => { t with parts := none })
      (onSteer (fun t => { t with latestPart := some ed }) (heard h 0x101 true s)))) := by
    change execChartPart h ed 0 1 crc bs s = _
    unfold execChartPart
    rw [recv_of_fresh hfresh]
    dsimp only
    rw [hsteer, hlatest, hparts]
    dsimp only
    rw [if_neg Bool.false_ne_true, hbytes, if_pos hcrc]
    exact congrArg _ (if_pos rfl)
  have hcheck' : checkChart (onSteer (fun t => { t with parts := none })
      (onSteer (fun t => { t with latestPart := some ed }) (heard h 0x101 true s))) bs = 0 :=
    (checkChart_of_chartView (congrArg SteerSt.staged hsteer :) (congrArg SteerSt.chart hsteer :) (congrArg SteerSt.epoch hsteer :)
      (congrArg SteerSt.charted hsteer :) (congrArg SteerSt.edition hsteer :) bs).trans hcheck
  refine .of_exec hexec ?_
  rw [takeChart_reads hcheck']
  refine ⟨rfl, rfl, (congrArg SteerSt.chart hsteer :), fun hsteady => ?_⟩
  have hstate : (heard h 0x101 true s).steer.state = .steady := (congrArg SteerSt.state hsteer).trans hsteady
  exact if_pos (.inr (.inl hstate))

end

/-! ### A chart applied (R262) -/

/-- The chart reported applied. -/
def chartApplied (s : State) : State :=
  onSteer (fun t => { t with
    notUp := min 255 (notUps s).length, applyUs := min 0xFFFFFF ((s.now - s.steer.applyAt) / 1000),
    lastApplied := [s.steer.edition.toNat, me s, min 64 (notUps s).length, min 0xFFFFFF ((s.now - s.steer.applyAt) / 1000)]
      ++ ((notUps s).take 64).flatMap fun x => [x.1, x.2.1, x.2.2, 0],
    state := if t.staged = [] then .steady else .staged }) s

/-- The reports of the chart's application sent, the planes' turns taken up again. -/
def chartReported (s : State) : State :=
  switchEnded (leaveSurvey (sendApplied ([s.steer.edition.toNat, me s, min 64 (notUps s).length, min 0xFFFFFF ((s.now - s.steer.applyAt) / 1000)]
      ++ ((notUps s).take 64).flatMap fun x => [x.1, x.2.1, x.2.2, 0])
    (logRec 0x2003 0x2000 (chartApplied s).steer.edition.toNat (min 0xFFFFFF ((s.now - s.steer.applyAt) / 1000)) (notUps s).length 0 (chartApplied s))))

theorem finishApply_eq (s : State) : finishApply s = if (chartReported s).steer.state = .staged
    ∧ chCommit (chartReported s).steer.staged ≤ (chartReported s).time.ns.toNat then applyChart (chartReported s) else chartReported s := by
  unfold finishApply chartReported chartApplied
  with_reducible rfl

theorem steer_chartReported (s : State) : (chartReported s).steer = (chartApplied s).steer := by
  have hended : ∀ u : State, (switchEnded u).steer = u.steer := fun _ => (switchEnded_law ..).1 .steer (by decide)
  have hleave : ∀ u : State, (leaveSurvey u).steer = u.steer := fun _ => (leaveSurvey_law ..).1 .steer (by decide)
  have hsent : ∀ b (u : State), (sendApplied b u).steer = u.steer := fun _ _ => (sendApplied_law ..).1 .steer (by decide)
  rw [chartReported, hended, hleave, hsent, logRec_steer]

/-- With no further chart staged a chart's application ends there. -/
theorem finishApply_steer (hnone : s.steer.staged = []) : (finishApply s).steer = (chartApplied s).steer := by
  have hsteady : (chartApplied s).steer.state = .steady := if_pos hnone
  rw [finishApply_eq, if_neg (by rw [steer_chartReported, hsteady]; exact fun h => absurd h.1 (by decide)), steer_chartReported]

theorem does_chartApplyDeadline (happlying : s.steer.state = .applying) (hhand : handHolds s = false) (hover : switchOver s = true)
    (hnone : s.steer.staged = []) : Does .chartApplyDeadline s fun t => t.steer.state = .steady ∧ t.steer.notUp = min 255 (notUps s).length
        ∧ t.steer.applyUs = min 0xFFFFFF ((s.now - s.steer.applyAt) / 1000) := by
  have hdeferred : s.steer.deferred = [] := by
    rw [handHolds, Bool.or_eq_false_iff] at hhand
    simpa using hhand.1
  have hexec : exec .chartApplyDeadline s = .next (finishApply s) := by
    change execChartApplyDeadline s = _
    unfold execChartApplyDeadline
    dsimp only
    rw [applyDeferred_of_none hdeferred, if_neg (by rw [hhand, hover, happlying]; decide)]
  have hsteer := finishApply_steer hnone
  generalize finishApply s = t at hexec hsteer
  refine .of_exec hexec ?_
  rw [hsteer]
  exact ⟨if_pos hnone, rfl, rfl⟩

/-! ### Loop tests (R273) -/

theorem rxLane_setRx (p l m : Nat) (k : LaneSt) (s : State) : rxLane (setRx p l k s) p m = if m = l then k else rxLane s p m := by
  rw [rxLane, setRx, fab_updFab_same]
  exact Tbl.get_set ..

theorem rxLane_setPair (p l m : Nat) (k : Pair) (s : State) : rxLane (setPair p l k s) p m = rxLane s p m := by
  rw [rxLane, setPair, fab_updFab_same, rxLane]

theorem txLane_setRx (p l m : Nat) (k : LaneSt) (s : State) : txLane (setRx p l k s) p m = txLane s p m := by
  rw [txLane, setRx, fab_updFab_same, txLane]

theorem lightPair_reads {p peer l x : Nat} {ch : Nat × Nat} {from_ : Half16} {loop : Bool} (htx : darkLane s p false = some l)
    (hrx : darkLane s p true = some x) (hin : (fab s p).txRetired = false) : (pair (lightPair p peer ch from_ loop s) p l).loop = loop
    ∧ (txLane (lightPair p peer ch from_ loop s) p l).state = .tuning ∧ (txLane (lightPair p peer ch from_ loop s) p l).chan = ch.1
    ∧ (rxLane (lightPair p peer ch from_ loop s) p x).state = .tuning := by
  unfold lightPair
  rw [htx, hrx]
  dsimp only
  rw [if_neg (by rw [hin]; exact Bool.false_ne_true)]
  refine ⟨?_, ?_, ?_, ?_⟩
  · rw [pair_setPair, if_pos rfl]
  · rw [txLane_setPair, txLane_setRx, txLane_setTx, if_pos rfl]
  · rw [txLane_setPair, txLane_setRx, txLane_setTx, if_pos rfl]
  · rw [rxLane_setPair, rxLane_setRx, if_pos rfl]

theorem laneSt_of_fab {t : State} (h : t.fab = s.fab) (p l : Nat) (rx : Bool) : laneSt t p l rx = laneSt s p l rx := by
  rw [laneSt, laneSt, txLane, txLane, rxLane, rxLane, fab_of_fab h]

theorem darkLane_of_fab {t : State} (h : t.fab = s.fab) (p : Nat) (rx : Bool) : darkLane t p rx = darkLane s p rx := by
  rw [darkLane, darkLane]
  simp only [laneSt_of_fab h]

/-- A loop test begun on a plane. -/
def LoopBegun (s : State) (p l x : Nat) (k : LoopRun) (t : State) : Prop :=
  t.steer.loops = s.steer.loops ++ [k] ∧ (pair t p l).loop = true ∧ (txLane t p l).state = .tuning
    ∧ (txLane t p l).chan = (gaz s p).loopch ∧ (rxLane t p x).state = .tuning

theorem LoopBegun.of_law {p l x : Nat} {k : LoopRun} {t u : State} {L : List Part} (h : LoopBegun s p l x k t) (hlaw : Law L t u) (hfab : .fab ∉ L)
    (hsteer : .steer ∉ L) : LoopBegun s p l x k u := by
  have hfab' : u.fab = t.fab := hlaw.1 .fab hfab
  have hsteer' : u.steer = t.steer := hlaw.1 .steer hsteer
  obtain ⟨hloops, hpair, htx, hchan, hrx⟩ := h
  refine ⟨by rw [hsteer']; exact hloops, ?_, ?_, ?_, ?_⟩
  · rw [pair, fab_of_fab hfab']; exact hpair
  · rw [txLane, fab_of_fab hfab']; exact htx
  · rw [txLane, fab_of_fab hfab']; exact hchan
  · rw [rxLane, fab_of_fab hfab']; exact hrx

theorem does_loopTest {r : RingIx} {e : Entry} {p l x : Nat} (htake : takeEntry s r 3 5 = some e) (hp : p = ent e 8 1) (hhas : p < planeCount s)
    (hplane : p < 16) (hmin : 100 ≤ ent e 12 4) (hmax : ent e 12 4 ≤ 1000000) (hfree : ∀ y ∈ s.steer.loops, y.plane ≠ p)
    (htx : darkLane s p false = some l) (hrx : darkLane s p true = some x) (hlocated : (gaz s p).state = 2) (hin : (fab s p).txRetired = false) :
    Does (.loopTest r) s fun t => LoopBegun s p l x
      { plane := p, tx := l, rx := x, ring := r.val, tag := entTag e, till := s.now + 1000 * ent e 12 4 } t := by
  refine .of_exec rfl (onEntry_holds (P := LoopBegun s p l x
      { plane := p, tx := l, rx := x, ring := r.val, tag := entTag e, till := s.now + 1000 * ent e 12 4 }) htake
    (fun t h => h.of_law (turnTaken_law ..) (by decide) (by decide)) ?_)
  have hfab : (startEntry r e s).fab = s.fab := (startEntry_law ..).1 .fab (by decide)
  have hlight : Law [.hst, .fab] s (lightPair p (me s) ((gaz s p).loopch, (gaz s p).loopch) 0 true (startEntry r e s)) :=
    .step (lightPair_law ..) (by decide) ((startEntry_law ..).mono (by decide))
  have hsteer : (lightPair p (me s) ((gaz s p).loopch, (gaz s p).loopch) 0 true (startEntry r e s)).steer = s.steer := hlight.1 .steer (by decide)
  have hnow : (lightPair p (me s) ((gaz s p).loopch, (gaz s p).loopch) 0 true (startEntry r e s)).now = s.now := hlight.1 .now (by decide)
  have hreads := lightPair_reads (s := startEntry r e s) (peer := me s) (ch := ((gaz s p).loopch, (gaz s p).loopch)) (from_ := 0) (loop := true)
    ((darkLane_of_fab hfab p false).trans htx) ((darkLane_of_fab hfab p true).trans hrx) (by rw [fab_of_fab hfab]; exact hin)
  have hany : ¬((s.steer.loops.any fun y => y.plane == p) = true) := by
    simp only [List.any_eq_true, beq_iff_eq, not_exists, not_and]
    exact hfree
  dsimp only
  rw [← hp, if_neg (by omega), if_neg (by omega), if_neg hany, htx, hrx]
  dsimp only
  rw [if_neg (by rw [hlocated, hin]; decide)]
  generalize lightPair p (me s) ((gaz s p).loopch, (gaz s p).loopch) 0 true (startEntry r e s) = t at hsteer hnow hreads ⊢
  refine ⟨?_, hreads⟩
  rw [hnow, onSteer, hsteer]

theorem does_loopTestEnd {p : Plane} {ber unc : Word} {x : LoopRun} {e : Entry} (hloop : s.steer.loops.find? (fun x => x.plane = p.val) = some x)
    (hentry : findEntry s x.ring 5 x.tag = some e) (hcqe : bits (entFlags e) 0 1 = 0) (hdma : canDma s = true) (hinv : Inv s) (hdue : x.till ≤ s.now) :
    Does (.loopTestEnd p ber unc) s fun t => t.steer.loops = s.steer.loops.erase x
        ∧ Completed s t x.ring e 0 (toBytes ber.toNat 4 ++ toBytes unc.toNat 4) := by
  have hlaw : Law [.tally, .log, .fab, .link, .steer] s (leavePair p.val x.tx (onSteer (fun t => { t with loops := t.loops.erase x }) s)) :=
    .step (leavePair_law ..) (by decide) ((onSteer_law ..).mono (by decide))
  have hsteer : (leavePair p.val x.tx (onSteer (fun t => { t with loops := t.loops.erase x }) s)).steer.loops = s.steer.loops.erase x :=
    congrArg SteerSt.loops ((leavePair_law ..).1 .steer (by decide))
  have hhst : (leavePair p.val x.tx (onSteer (fun t => { t with loops := t.loops.erase x }) s)).hst = s.hst := hlaw.1 .hst (by decide)
  have hexec : exec (.loopTestEnd p ber unc) s = .next (complete x.ring e 0 (toBytes ber.toNat 4 ++ toBytes unc.toNat 4)
      (leavePair p.val x.tx (onSteer (fun t => { t with loops := t.loops.erase x }) s))) := by
    change execLoopTestEnd p ber unc s = _
    unfold execLoopTestEnd
    rw [hloop]
    dsimp only
    rw [if_neg (Nat.not_lt.mpr hdue), completeBy, findEntry, ring_of_hst hhst]
    rw [findEntry] at hentry
    rw [hentry]
  refine .of_exec hexec ⟨?_, completed_of_law hlaw (by decide) hcqe hdma hinv⟩
  exact (congrArg SteerSt.loops ((complete_law ..).1 .steer (by decide))).trans hsteer

end

/-- Settles O21, a lemma for each row. -/
theorem steeringComplete : Obligations.SteeringComplete :=
  ⟨fun _ fs _ => does_surveySweepEnd fs, fun _ _ => does_surveySweepEnd_last, fun _ _ _ _ => does_surveyCmd, fun _ _ _ => does_survey,
    fun _ _ _ _ _ _ _ => does_chartPart_first, fun _ _ _ _ _ => does_chartPart_whole, fun _ hstaged hdue _ => does_chartCommit hstaged hdue,
    fun _ => does_chartApplyDeadline, fun _ _ _ _ _ _ => does_loopTest,
    fun _ _ _ _ _ _ hloop hentry hcqe hdma hinv _ hdue => does_loopTestEnd hloop hentry hcqe hdma hinv hdue⟩

end Sys2Proof.Machine
end

section
/-! ### The office of steward through memory errors and teardowns -/

namespace Sys2Proof.Machine

/-- What of the pod's offices a report leaves alone: all but the reports kept, and the control messages sent. -/
def office (s : State) : StewSt := { s.stew with reports := [], dropped := 0, msgid := 0, unacked := [] }

theorem office_of_law {L : List Part} {s t : State} (h : Law L s t) (hL : .stew ∉ L) : office t = office s := by
  have hstew : t.stew = s.stew := h.1 .stew hL
  rw [office, office, hstew]

theorem role_of_office {s t : State} (h : office t = office s) : t.stew.role = s.stew.role := (congrArg StewSt.role h :)

theorem isSteward_of_office {s t : State} (h : office t = office s) : isSteward t = isSteward s := by
  have hauth : t.stew.authHolder = s.stew.authHolder := (congrArg StewSt.authHolder h :)
  rw [isSteward, isSteward, hasAuthority, hasAuthority, role_of_office h, hauth]

section
variable (s : State)

theorem office_ctlSend (dst kind : Nat) (body : List Nat) : office (ctlSend dst kind body s) = office s := by
  obtain ⟨id, us, hstew⟩ := stew_ctlSend dst kind body s
  rw [office, office, hstew]

theorem office_ckptReport (c : Nat) (number step : Word) (b : Bool) (state : Nat) : office (ckptReport c number step b state s) = office s := by
  unfold ckptReport
  split
  · exact office_ctlSend ..
  · rfl

theorem office_ckptFail (c cause : Nat) : office (ckptFail c cause s) = office s := by
  unfold ckptFail
  split
  · rfl
  next k _ =>
    have hslot : ∀ x : State, office (setSlot c k.slotB {} (onCkpt (fun t => { t with runs := Tbl.set t.runs c none }) x)) = office x := fun _ => rfl
    have hlogged : ∀ x : State, office (ckptReport c k.number k.step k.slotB 4 (postEvent 0x0942 (0x0900 + c) (some c) c k.number.toNat cause 0
        (logRec 0x0903 (0x0900 + c) c k.number.toNat cause k.done x))) = office x := fun x =>
      (office_ckptReport ..).trans ((office_of_law (postEvent_law ..) (by decide)).trans (office_of_law (logRec_law ..) (by decide)))
    have hstart : ∀ x : State, office (if k.freezing ∧ cause ≠ 4 then k.froze.foldl (fun s x => startStream x.1 x.2 s) x else x) = office x := fun x => by
      split
      · exact foldl_keeps (read := office) (f := fun (s : State) (x : Nat × Nat) => startStream x.1 x.2 s) (fun s x => office_of_law (startStream_law ..) (by decide)) _ x
      · rfl
    have hdone : ∀ (x : State) (bs : List Byte), office (match k.ring with
        | some (r, tag) => completeBy r 2 tag 0x203 bs x
        | none => x) = office x := fun x bs => by
      split
      · exact office_of_law (completeBy_law ..) (by decide)
      · rfl
    exact (office_of_law (removeCheck_law ..) (by decide)).trans ((hdone ..).trans ((hstart _).trans ((hlogged _).trans (hslot s))))

theorem office_ckptResetBeforeCut (c : Nat) : office (ckptResetBeforeCut c s) = office s := by
  unfold ckptResetBeforeCut
  split
  · split
    · rfl
    · exact office_ckptFail ..
  · rfl

theorem office_disposeCtx (c : Nat) : office (disposeCtx c s) = office s := by
  have hcores : ∀ (gs : List Nat) (x : State), office (gs.foldl (fun s g => disposeCore g s) x) = office x := fun gs x =>
    foldl_keeps (read := office) (f := fun (s : State) (g : Nat) => disposeCore g s) (fun s g => office_of_law (disposeCore_law g s) (by decide)) gs x
  unfold disposeCtx
  exact (office_of_law (dropLink_law ..) (by decide)).trans ((office_ckptResetBeforeCut ..).trans ((office_of_law (disposeCopies_law ..) (by decide)).trans
    ((hcores ..).trans (office_of_law (modeAbort_law ..) (by decide)))))

theorem office_teardown (c : Nat) (by_ : Option (Nat × Half16 × Bool)) : office (teardown c by_ s) = office s := by
  have hctx : ∀ x f, office (updCtx c f x) = office x := fun _ _ => rfl
  unfold teardown
  exact (hctx ..).trans ((office_of_law (completeAwaits_law ..) (by decide)).trans ((office_disposeCtx ..).trans (office_of_law (genAdvance_law ..) (by decide))))

theorem office_enterFenced (cause : Nat) : office (enterFenced cause s) = office s := by
  have hboot : ∀ (x : State) (b : BootSt), office { x with boot := b } = office x := fun _ _ => rfl
  have htear : ∀ (cs : List Nat) (x : State), office (cs.foldl (fun s c => teardown c none s) x) = office x := fun cs x =>
    foldl_keeps (read := office) (f := fun (s : State) (c : Nat) => teardown c none s) (fun s c => office_teardown s c none) cs x
  unfold enterFenced
  exact (office_of_law (announceState_law ..) (by decide)).trans ((office_of_law (abortHeld_law ..) (by decide)).trans ((office_of_law (darkAll_law ..) (by decide)).trans
    ((hboot ..).trans (htear ..))))

theorem office_recheckState : office (recheckState s) = office s := by
  have hboot : ∀ (x : State) (b : BootSt), office { x with boot := b } = office x := fun _ _ => rfl
  unfold recheckState
  split
  · exact office_enterFenced ..
  · split
    · exact (office_of_law (announceState_law ..) (by decide)).trans (hboot ..)
    · rfl

theorem office_fenceCores (gs : List Nat) (cause : Nat) : office (fenceCores gs cause s) = office s := by
  have hlater : ∀ (l : List Nat) (x : State), office (l.foldl (fenceLater cause) x) = office x := fun l x =>
    foldl_keeps (read := office) (fun s g => office_of_law (fenceLater_law ..) (by decide)) l x
  have hdispose : ∀ (l : List Nat) (x : State), office (l.foldl (fun s c => disposeCtx c (genAdvance c s)) x) = office x := fun l x =>
    foldl_keeps (read := office) (f := fun (s : State) (c : Nat) => disposeCtx c (genAdvance c s))
      (fun s c => (office_disposeCtx ..).trans (office_of_law (genAdvance_law ..) (by decide))) l x
  have hrewound : ∀ (l : List Nat) (x : State), office (l.foldl (fun s c => reportRewound c s) x) = office x := fun l x =>
    foldl_keeps (read := office) (f := fun (s : State) (c : Nat) => reportRewound c s) (fun s c => office_of_law (reportRewound_law ..) (by decide)) l x
  have hfence : ∀ (l : List Nat) (f : Nat → Nat) (x : State), office (fenceNow l f x) = office x := fun l f x => office_of_law (fenceNow_law ..) (by decide)
  unfold fenceCores
  dsimp only
  split
  · rw [hrewound, hfence, hdispose, hlater]
  · rw [office_recheckState, hrewound, hfence, hdispose, hlater]

theorem office_eccDouble (a : Nat) : office (eccDouble a s) = office s := by
  have hcore : ∀ g k (x : State), office (setCore g k x) = office x := fun _ _ _ => rfl
  have hclu : ∀ c k (x : State), office (setClu c k x) = office x := fun _ _ _ => rfl
  have hlogCore : ∀ g a b c d e (x : State), office (logCore g a b c d e x) = office x := fun _ _ _ _ _ _ _ => office_of_law (logRec_law ..) (by decide)
  have hlogClu : ∀ g a b c d e (x : State), office (logClu g a b c d e x) = office x := fun _ _ _ _ _ _ _ => office_of_law (logRec_law ..) (by decide)
  unfold eccDouble
  split
  · dsimp only
    split
    · exact office_of_law (coreFault_law ..) (by decide)
    · split
      · exact (office_fenceCores ..).trans ((hlogCore ..).trans ((hcore ..).trans (office_of_law (coreFault_law ..) (by decide))))
      · exact (hlogCore ..).trans ((hcore ..).trans (office_of_law (coreFault_law ..) (by decide)))
  · dsimp only
    split
    · exact office_of_law (cluFault_law ..) (by decide)
    · exact (hlogClu ..).trans ((hclu ..).trans (office_of_law (cluFault_law ..) (by decide)))
  · rfl

theorem office_failDevice (n cause : Nat) : office (failDevice n cause s) = office s := by
  have hchan : ∀ f (x : State), office (updChan n f x) = office x := fun _ _ => office_of_law (updChan_law ..) (by decide)
  unfold failDevice
  split
  · rfl
  · split
    · exact hchan ..
    · exact (office_recheckState ..).trans ((office_of_law (retireRequest_law ..) (by decide)).trans ((office_of_law (logRec_law ..) (by decide)).trans (hchan ..)))

theorem office_thresholds (n : Nat) : office (thresholds n s) = office s := by
  have hchan : ∀ f (x : State), office (updChan n f x) = office x := fun _ _ => office_of_law (updChan_law ..) (by decide)
  unfold thresholds
  dsimp only
  split
  · exact office_failDevice ..
  · split
    · split
      · exact (office_of_law (retireRequest_law ..) (by decide)).trans ((office_of_law (logRec_law ..) (by decide)).trans ((hchan ..).trans (hchan ..)))
      · exact hchan ..
    · split
      · split
        · exact (office_of_law (logRec_law ..) (by decide)).trans ((hchan ..).trans (hchan ..))
        · exact hchan ..
      · rfl

theorem office_rebuild (ds : List Nat) (n p1 : Nat) : office (rebuild ds n p1 s) = office s := by
  unfold rebuild
  exact (office_thresholds ..).trans ((office_of_law (logRate_law ..) (by decide)).trans ((office_of_law (countDdr_law ..) (by decide)).trans
    ((office_of_law (updChan_law ..) (by decide)).trans ((office_of_law (countDdr_law ..) (by decide)).trans (office_of_law (countReads_law ..) (by decide))))))

theorem office_unitBad (u : Nat) (alone : Bool) : office (unitBad u alone s) = office s := by
  unfold unitBad
  dsimp only
  split
  · exact office_rebuild ..
  · exact office_of_law (poisonUnit_law ..) (by decide)

theorem office_readUnit_clean (u : Nat) : office (readUnit u .clean s) = office s := by
  unfold readUnit
  dsimp only
  split
  · exact office_of_law (countDdr_law ..) (by decide)
  · split
    · exact office_unitBad ..
    · exact office_of_law (countDdr_law ..) (by decide)

theorem office_readRange (a len : Nat) : office (readRange a len s) = office s := by
  unfold readRange
  split
  · refine foldl_keeps (read := office) (fun s p => ?_) _ s
    split
    · rfl
    · exact office_readUnit_clean ..
  · rfl

theorem office_readNoted (a n : Nat) : office (readNoted a n s) = office s := by
  unfold readNoted
  dsimp only
  split
  · exact (office_eccDouble ..).trans (office_readRange ..)
  · exact office_readRange ..

/-- A table read for an entry leaves the pod's offices as they were. -/
theorem office_tableRead (r : Nat) (e : Entry) (da n : Nat) : office (tableRead r e da n s) = office s := by
  unfold tableRead
  split
  · exact office_readNoted ..
  · rfl

end

end Sys2Proof.Machine
end

section
/-! ### Charts issued by a steward (13_steering_charts.md R258 to R274), and what a steward records (14_pod_steward_and_continuity.md R286) -/

namespace Sys2Proof.Machine

section
variable {s : State}

/-! ### Records -/

theorem isSteward_of_reads {t : State} (hrole : t.stew.role = s.stew.role) (hauth : t.stew.authHolder = s.stew.authHolder) : isSteward t = isSteward s := by
  rw [isSteward, isSteward, hasAuthority, hasAuthority, hrole, hauth]

theorem isSteward_heard (h : Hdr) (kind : Nat) (steward : Bool) (s : State) : isSteward (heard h kind steward s) = isSteward s := by
  obtain ⟨_, _, _, hstew⟩ := stew_heard (h := h) (kind := kind) (steward := steward) (s := s)
  exact isSteward_of_reads (by rw [hstew]) (by rw [hstew])

/-- A record applied: the ledger grows, and members and jobs follow it. -/
theorem stew_applyRecord (r : MirrorRec) (s : State) :
    ∃ ms js, (applyRecord r s).stew = { s.stew with ledger := s.stew.ledger ++ [r], members := ms, jobs := js } := by
  unfold applyRecord
  dsimp only
  split
  all_goals exact ⟨_, _, rfl⟩

theorem steer_applyRecord (r : MirrorRec) (s : State) : ∃ is, (applyRecord r s).steer = { s.steer with issued := is } := by
  unfold applyRecord
  dsimp only
  split
  all_goals exact ⟨_, rfl⟩

theorem record_of_steward {kind : Nat} {data : List Nat} {a : StewAct} (hsteward : isSteward s = true) : record kind data a s =
    twinSend 0x209 ([s.stew.seq + 1, kind] ++ data) (onStew (fun w => { w with queue := w.queue ++ [(s.stew.seq + 1, a)] })
      (applyRecord { seq := s.stew.seq + 1, kind := kind, data := data } (onStew (fun w => { w with seq := s.stew.seq + 1 }) s))) :=
  if_neg (by rw [hsteward]; decide)

theorem stew_record {kind : Nat} {data : List Nat} {a : StewAct} (hsteward : isSteward s = true) : ∃ ms js, (record kind data a s).stew =
    { s.stew with
      seq := s.stew.seq + 1, ledger := s.stew.ledger ++ [⟨s.stew.seq + 1, kind, data⟩], members := ms, jobs := js,
      queue := s.stew.queue ++ [(s.stew.seq + 1, a)] } := by
  obtain ⟨ms, js, hstew⟩ := stew_applyRecord ⟨s.stew.seq + 1, kind, data⟩ (onStew (fun w => { w with seq := s.stew.seq + 1 }) s)
  have htwin : ∀ k b (u : State), (twinSend k b u).stew = u.stew := fun _ _ _ => (twinSend_law ..).1 .stew (by decide)
  rw [record_of_steward hsteward, htwin, onStew, hstew]
  exact ⟨ms, js, rfl⟩

theorem steer_record_of_steward {kind : Nat} {data : List Nat} {a : StewAct} (hsteward : isSteward s = true) : (record kind data a s).steer =
    (applyRecord { seq := s.stew.seq + 1, kind := kind, data := data } (onStew (fun w => { w with seq := s.stew.seq + 1 }) s)).steer := by
  have htwin : ∀ k b (u : State), (twinSend k b u).steer = u.steer := fun _ _ _ => (twinSend_law ..).1 .steer (by decide)
  rw [record_of_steward hsteward, htwin]
  rfl

theorem does_staged {h : Hdr} {ed : Half16} {m : Modu} (hfresh : Fresh s h 0x102 false) (hsteward : isSteward s = true) :
    Does (.staged h ed 0 m) s fun t => t.stew.ledger = s.stew.ledger ++ [⟨s.stew.seq + 1, 3, [ed.toNat, m.val, 4]⟩] ∧ t.stew.seq = s.stew.seq + 1
        ∧ t.stew.queue = s.stew.queue ++ [(s.stew.seq + 1, .none_)] := by
  obtain ⟨_, _, _, hheard⟩ := stew_heard (h := h) (kind := 0x102) (steward := false) (s := s)
  obtain ⟨_, _, hstew⟩ := stew_record (kind := 3) (data := [ed.toNat, m.val, 4]) (a := .none_) ((isSteward_heard h 0x102 false s).trans hsteward)
  have hexec : exec (.staged h ed 0 m) s = .next (record 3 [ed.toNat, m.val, 4] .none_ (heard h 0x102 false s)) := by
    change execStaged h ed 0 m s = _
    unfold execStaged
    rw [recv_of_fresh hfresh, if_pos rfl]
  refine .of_exec hexec ?_
  rw [hstew, hheard]
  exact ⟨rfl, rfl, rfl⟩

/-! ### APPLIED -/

/-- A record that module `m` has applied edition `ed`. -/
theorem record_applied {ed m : Nat} (hsteward : isSteward s = true) : (record 3 [ed, m, 1] .none_ s).steer =
    { s.steer with issued := s.steer.issued.map fun i => if (chEdition i.chart).toNat = ed then { i with applied := (m :: i.applied).dedup } else i }
    ∧ (record 3 [ed, m, 1] .none_ s).stew = { s.stew with
        seq := s.stew.seq + 1, ledger := s.stew.ledger ++ [⟨s.stew.seq + 1, 3, [ed, m, 1]⟩], queue := s.stew.queue ++ [(s.stew.seq + 1, .none_)] } := by
  have htwin : ∀ k b (u : State), (twinSend k b u).stew = u.stew := fun _ _ _ => (twinSend_law ..).1 .stew (by decide)
  refine ⟨steer_record_of_steward hsteward, ?_⟩
  rw [record_of_steward hsteward, htwin]
  rfl

theorem completeSubmits_of_none (hnone : ∀ i ∈ s.steer.issued, i.submit = none) : completeSubmits s = s := by
  have hfold : ∀ is : List Issued, (∀ i ∈ is, i.submit = none) → is.foldl (fun s i =>
      let ok := (List.range 32).all fun m => !chMember i.chart m || i.applied.contains m || i.contained.contains m
      match i.submit with
      | some (r, tag) =>
        if ok then
          completeBy r 4 tag 0 (toBytes (chEdition i.chart).toNat 2) (updIssued (chEdition i.chart).toNat (fun i => { i with submit := none }) s)
        else s
      | none => s) s = s := by
    intro is his
    induction is with
    | nil => rfl
    | cons i is ih =>
      rw [List.foldl_cons]
      dsimp only
      rw [his i (List.mem_cons_self ..)]
      exact ih fun j hj => his j (List.mem_cons_of_mem _ hj)
  exact hfold _ hnone

theorem placeAll_of_no_jobs (hjobs : s.stew.jobs = []) : placeAll s = s := by
  rw [placeAll, hjobs, List.map_nil, List.foldl_nil, ite_self]

/-- With no third training failure, no job to place and no chart submitted, a module's report ends there. -/
theorem applied_settled {m : Nat} (hfails : (Tbl.get [] s.steer.trainFail3 m).length < 3) (hjobs : s.stew.jobs = [])
    (hnone : ∀ i ∈ s.steer.issued, i.submit = none) : placeAll (completeSubmits
      (if 3 ≤ (Tbl.get [] s.steer.trainFail3 m).length ∧ s.steer.trained.contains m = false then wrongSlot m 0 1 0 s else s)) = s := by
  rw [if_neg fun hthree => absurd hthree.1 (Nat.not_le.mpr hfails), completeSubmits_of_none hnone, placeAll_of_no_jobs hjobs]

theorem does_applied {h : Hdr} {ed : Half16} {m : Modu} {us : Nat} (hfresh : Fresh s h 0x103 false) (hsteward : isSteward s = true)
    (hfails : (Tbl.get [] s.steer.trainFail3 m).length < 3) (hjobs : s.stew.jobs = []) (hnone : ∀ i ∈ s.steer.issued, i.submit = none) :
    Does (.applied h ed m us []) s fun t => t.stew.ledger = s.stew.ledger ++ [⟨s.stew.seq + 1, 3, [ed.toNat, m.val, 1]⟩]
        ∧ t.steer.issued = s.steer.issued.map fun i => if (chEdition i.chart).toNat = ed.toNat then { i with applied := (m.val :: i.applied).dedup } else i := by
  have hsteward' : isSteward (heard h 0x103 false s) = true := (isSteward_heard ..).trans hsteward
  have hsteer' : (heard h 0x103 false s).steer = s.steer := steer_heard ..
  obtain ⟨_, _, _, hheard⟩ := stew_heard (h := h) (kind := 0x103) (steward := false) (s := s)
  obtain ⟨hsteer, hstew⟩ := record_applied (ed := ed.toNat) (m := m.val) hsteward'
  rw [hheard] at hstew
  rw [hsteer'] at hsteer
  have hexec : exec (.applied h ed m us []) s = execApplied h ed m us [] s := rfl
  unfold execApplied at hexec
  rw [recv_of_fresh hfresh] at hexec
  dsimp only at hexec
  rw [if_neg (by rw [hsteward']; decide)] at hexec
  generalize record 3 [ed.toNat, m.val, 1] .none_ (heard h 0x103 false s) = u at hsteer hstew hexec
  rw [applied_settled] at hexec
  · refine .of_exec hexec ⟨?_, ?_⟩
    · rw [onSteer, hstew]
    · rw [onSteer, hsteer]
  · rw [onSteer, hsteer]
    exact hfails
  · rw [onSteer, hstew]
    exact hjobs
  · rw [onSteer, hsteer]
    intro i hi
    obtain ⟨j, hj, rfl⟩ := List.mem_map.mp hi
    split <;> exact hnone j hj

end

end Sys2Proof.Machine
end

section
/-! ### Charts sent, late modules and survey reports (13_steering_charts.md R258, R264 to R268) -/

namespace Sys2Proof.Machine

section
variable {s : State}

/-! ### CHART_CONTROL_RESEND -/

theorem pickPair_of_fab {t : State} (h : t.fab = s.fab) (m : Nat) : pickPair t m = pickPair s m := by
  have hpair : ∀ p l, pair t p l = pair s p l := fun p l => by rw [pair, pair, fab_of_fab h]
  have hbond : bond t m = bond s m := by
    rw [bond, bond, allPairs, allPairs]
    simp only [hpair, fab_of_fab h]
  rw [pickPair, pickPair, hbond]
  simp only [hpair]

theorem queue_enqueue (p l : Nat) (fs : List Flit) (s : State) : (pair (enqueue p l fs s) p l).queue = (pair s p l).queue ++ fs := by
  rw [enqueue, pair_updPair_at, if_pos rfl]

theorem queue_sendCtrl {m kind p l : Nat} {bs : List Byte} (hpick : pickPair s m = some (p, l)) :
    (pair (sendCtrl m kind bs s) p l).queue = (pair s p l).queue ++ fragments kind s.link.msgid bs := by
  unfold sendCtrl
  rw [hpick]
  exact queue_enqueue ..

theorem authority_of_steward (h : isSteward s = true) : hasAuthority s = true := by
  rw [isSteward, Bool.and_eq_true] at h
  exact h.2

theorem does_chartControlResend {m : Modu} {i : Issued} {is : List Issued} {p l : Nat} {b : List Nat} (hissued : s.steer.issued = i :: is)
    (hsteward : isSteward s = true) (hmember : chMember i.chart m = true) (hstaged : i.staged.contains m.val = false)
    (hpick : pickPair s m = some (p, l)) (hbodies : chartBodies i.chart = [b])
    (hnew : ∀ u ∈ s.stew.unacked, u.dst = m.val → u.kind = 0x101 → u.body ≠ b) :
    Does (.chartControlResend m) s fun t => (pair t p l).queue = (pair s p l).queue
        ++ fragments 0x101 s.link.msgid (ctlBytes s m 0x101 s.stew.msgid 2 (bodyBytes 0x101 b)) := by
  have hnone : (s.stew.unacked.find? fun u => u.dst = m.val ∧ u.kind = 0x101 ∧ u.body = b) = none := by
    rw [List.find?_eq_none]
    intro u hu
    simp only [decide_eq_true_eq, not_and]
    exact hnew u hu
  have hexec : exec (.chartControlResend m) s = .next (sendCtrl m 0x101 (ctlBytes s m 0x101 s.stew.msgid 2 (bodyBytes 0x101 b))
      (onStew (fun w => { w with msgid := (s.stew.msgid + 1) % 65536 }) s)) := by
    change execChartControlResend m s = _
    unfold execChartControlResend
    rw [hissued]
    dsimp only
    rw [if_pos ⟨hsteward, hmember, hstaged⟩, sendChartFabric, hbodies, List.foldl_cons, List.foldl_nil, hnone]
    exact congrArg _ (if_pos (authority_of_steward hsteward))
  refine .of_exec hexec ?_
  exact queue_sendCtrl (s := onStew (fun w => { w with msgid := (s.stew.msgid + 1) % 65536 }) s) ((pickPair_of_fab rfl _).trans hpick)

/-! ### LATE_MODULE and RETRY_WAIT_EXPIRY -/

/-- A late module's retry noted with the chart issued. -/
def retryNoted (m : Nat) (i : Issued) (s : State) : State :=
  updIssued (chEdition i.chart).toNat
    (fun k => { k with retries := Tbl.set k.retries m (Tbl.get 0 i.retries m + 1), retryAt := Tbl.set k.retryAt m s.now }) s

theorem steer_retryOrContain {m : Nat} {i : Issued} (hfew : Tbl.get 0 i.retries m < fld s.steer.cfg 8 2) (hown : ownEdition s i = true) :
    (retryOrContain m i s).steer = (retryNoted m i s).steer := by
  have hfabric : ∀ c (u : State), (sendChartFabric c m u).steer = u.steer := fun _ _ => (sendChartFabric_law ..).1 .steer (by decide)
  have hsent : ∀ c (u : State), (sendChart c m u).steer = u.steer := fun _ _ => (sendChart_law ..).1 .steer (by decide)
  unfold retryOrContain
  dsimp only
  rw [if_pos ⟨hfew, hown⟩, logRec_steer, hfabric, hsent, retryNoted]

theorem issued_of_lateIn {m : Nat} {i : Issued} (hlate : lateIn s m = some i) : ∃ is, s.steer.issued = i :: is := by
  unfold lateIn at hlate
  split at hlate
  next k is hissued =>
    split at hlate
    · cases hlate
      exact ⟨is, hissued⟩
    · cases hlate
  next => cases hlate

theorem head_retryNoted {m : Nat} {i : Issued} {is : List Issued} (hissued : s.steer.issued = i :: is) :
    ((retryNoted m i s).steer.issued.head?.map fun i => Tbl.get 0 i.retries m) = some (Tbl.get 0 i.retries m + 1) := by
  have hmap : (retryNoted m i s).steer.issued = s.steer.issued.map fun k => if (chEdition k.chart).toNat = (chEdition i.chart).toNat then
      { k with retries := Tbl.set k.retries m (Tbl.get 0 i.retries m + 1), retryAt := Tbl.set k.retryAt m s.now } else k := rfl
  rw [hmap, hissued, List.map_cons, if_pos rfl, List.head?_cons, Option.map_some, Tbl.get_set_same]

theorem does_lateRetry {c : Instr} {m : Modu} {i : Issued}
    (hc : c = .lateModule m ∧ chCommit i.chart + 5000000 ≤ s.time.ns.toNat ∧ Tbl.get 0 i.retries m = 0
      ∨ (c = .retryWaitExpiry m ∧ 0 < Tbl.get 0 i.retries m ∧ Tbl.get 0 i.retryAt m + 5000000 ≤ s.now))
    (hlate : lateIn s m = some i) (hfew : Tbl.get 0 i.retries m < fld s.steer.cfg 8 2) (hown : ownEdition s i = true) :
    Does c s fun t => (t.steer.issued.head?.map fun i => Tbl.get 0 i.retries m) = some (Tbl.get 0 i.retries m + 1)
        ∧ (c = .lateModule m → t.steer.late = satAdd 0xFFFF s.steer.late 1) := by
  obtain ⟨is, hissued⟩ := issued_of_lateIn hlate
  rcases hc with ⟨rfl, hdue, hfirst⟩ | ⟨rfl, hretried, hdue⟩
  · have hexec : exec (.lateModule m) s = .next (retryOrContain m i (onSteer (fun t => { t with late := satAdd 0xFFFF t.late 1 })
        (logRec 0x2004 (0x2000 + m) m (chEdition i.chart).toNat (Tbl.get 0 i.retries m) 0 s))) := by
      change execLateModule m s = _
      unfold execLateModule
      rw [hlate]
      exact if_neg (by omega)
    have hsteer : (onSteer (fun t => { t with late := satAdd 0xFFFF t.late 1 })
        (logRec 0x2004 (0x2000 + m) m (chEdition i.chart).toNat (Tbl.get 0 i.retries m) 0 s)).steer = { s.steer with late := satAdd 0xFFFF s.steer.late 1 } := by
      rw [onSteer, logRec_steer]
    have hown' : ownEdition (onSteer (fun t => { t with late := satAdd 0xFFFF t.late 1 })
        (logRec 0x2004 (0x2000 + m) m (chEdition i.chart).toNat (Tbl.get 0 i.retries m) 0 s)) i = true := by
      rw [ownEdition, onSteer, logRec_stew]
      exact hown
    refine .of_exec hexec ?_
    generalize onSteer (fun t => { t with late := satAdd 0xFFFF t.late 1 })
      (logRec 0x2004 (0x2000 + m) m (chEdition i.chart).toNat (Tbl.get 0 i.retries m) 0 s) = u at hsteer hown' ⊢
    rw [steer_retryOrContain (by rw [hsteer]; exact hfew) hown']
    refine ⟨head_retryNoted (is := is) (by rw [hsteer]; exact hissued), fun _ => ?_⟩
    exact (congrArg SteerSt.late hsteer :)
  · have hexec : exec (.retryWaitExpiry m) s = .next (retryOrContain m i s) := by
      change execRetryWaitExpiry m s = _
      unfold execRetryWaitExpiry
      rw [hlate]
      exact if_pos ⟨hretried, hdue⟩
    refine .of_exec hexec ?_
    rw [steer_retryOrContain hfew hown]
    exact ⟨head_retryNoted hissued, fun h => by cases h⟩

/-! ### SURVEY_REPORT -/

/-- What of steering a plan leaves alone: all but the charts issued and what is held against slots. -/
def besidePlan (s : State) : SteerSt := { s.steer with issued := [], podOffset := [], disagree := [], wrongSlot := [] }

theorem besidePlan_of_law {L : List Part} {s t : State} (h : Law L s t) (hL : .steer ∉ L) : besidePlan t = besidePlan s := by
  have hsteer : t.steer = s.steer := h.1 .steer hL
  rw [besidePlan, besidePlan, hsteer]

theorem besidePlan_record (kind : Nat) (data : List Nat) (a : StewAct) (s : State) : besidePlan (record kind data a s) = besidePlan s := by
  cases hsteward : isSteward s
  · rw [record, if_pos hsteward]
  · obtain ⟨is, hsteer⟩ := steer_applyRecord ⟨s.stew.seq + 1, kind, data⟩ (onStew (fun w => { w with seq := s.stew.seq + 1 }) s)
    rw [besidePlan, steer_record_of_steward hsteward, hsteer]
    rfl

theorem besidePlan_issueChart (flags commit : Nat) (ms : List Nat) (es : List ChEnt) (submit : Option (Nat × Nat)) (s : State) :
    besidePlan (issueChart flags commit ms es submit s) = besidePlan s := by
  have hupd : ∀ ed f (u : State), besidePlan (updIssued ed f u) = besidePlan u := fun _ _ _ => rfl
  unfold issueChart
  exact (hupd ..).trans (besidePlan_record ..)

theorem besidePlan_planNow (s : State) : besidePlan (planNow s) = besidePlan s := besidePlan_issueChart ..

theorem besidePlan_replan (s : State) : besidePlan (replan s) = besidePlan s := by
  unfold replan
  split
  · rfl
  · dsimp only
    split
    · rfl
    · exact besidePlan_issueChart ..

theorem besidePlan_reduce (gone : List Nat) (drop : ChEnt → Bool) (s : State) : besidePlan (reduce gone drop s) = besidePlan s := by
  unfold reduce
  split
  · rfl
  · dsimp only
    split
    · rfl
    · exact besidePlan_issueChart ..

theorem besidePlan_wrongSlot (m d kind p : Nat) (s : State) : besidePlan (wrongSlot m d kind p s) = besidePlan s := by
  have hheld : besidePlan (onSteer (fun t => { t with wrongSlot := m :: t.wrongSlot }) s) = besidePlan s := rfl
  unfold wrongSlot
  split
  · rfl
  · exact (besidePlan_reduce ..).trans ((besidePlan_record ..).trans ((besidePlan_of_law (logRec_law ..) (by decide)).trans hheld))

theorem besidePlan_checkOffset (s : State) (x : Nat × Nat) : besidePlan (checkOffset s x) = besidePlan s := by
  have hset : ∀ f : List (Nat × Nat) → List (Nat × Nat), besidePlan (onSteer (fun t => { t with disagree := f t.disagree }) s) = besidePlan s := fun _ => rfl
  unfold checkOffset
  dsimp only
  split
  · rfl
  · split
    · split
      · rfl
      · exact (besidePlan_of_law (logRec_law ..) (by decide)).trans (hset fun d => x :: d)
    · exact hset fun d => d.filter fun y => y ≠ x

theorem besidePlan_decideOffsets (s : State) : besidePlan (decideOffsets s) = besidePlan s :=
  foldl_keeps (read := besidePlan) besidePlan_checkOffset _ _

theorem sharedSlot_of_steer {t : State} (h : t.steer = s.steer) (m : Nat) (addr : BitVec 128) : sharedSlot t m addr = sharedSlot s m addr := by
  rw [sharedSlot, sharedSlot, h]

/-- A survey report taken. -/
def reportTaken (m : Nat) (rs : List GazRec) (addr : BitVec 128) (s : State) : State :=
  onSteer (fun t => { t with
    reports := Tbl.set t.reports m rs, reportOrder := t.reportOrder ++ [m], reporter := Tbl.set t.reporter m addr }) s

theorem besidePlan_recordMember (m : Nat) (k : Member) (s : State) : besidePlan (recordMember m k s) = besidePlan s := besidePlan_record ..

theorem besidePlan_wrongSlots (l : List (Nat × Nat × Nat)) (s : State) :
    besidePlan (l.foldl (fun s x => wrongSlot x.1 x.2.1 1 x.2.2 s) s) = besidePlan s :=
  foldl_keeps (read := besidePlan) (f := fun (s : State) (x : Nat × Nat × Nat) => wrongSlot x.1 x.2.1 1 x.2.2 s) (fun _ _ => besidePlan_wrongSlot ..) l s

theorem boot_wrongSlots (l : List (Nat × Nat × Nat)) (s : State) : (l.foldl (fun s x => wrongSlot x.1 x.2.1 1 x.2.2 s) s).boot = s.boot :=
  foldl_keeps (read := State.boot) (f := fun (s : State) (x : Nat × Nat × Nat) => wrongSlot x.1 x.2.1 1 x.2.2 s)
    (fun _ _ => (wrongSlot_law ..).1 .boot (by decide)) l s

/-- Where no survey of the start runs, a report weighed fences nothing. -/
theorem besidePlan_weighed {P Q : Prop} [Decidable P] [Decidable Q] {u x y : State} (hx : besidePlan x = besidePlan u) (hboot : x.boot.state ≠ .survey) :
    besidePlan (if P then u else if x.boot.state = .survey ∧ Q then y else x) = besidePlan u := by
  split
  · rfl
  · rw [if_neg fun h => hboot h.1]
    exact hx

section
variable {h : Hdr} {m : Modu} {rs : List GazRec} {addr : BitVec 128}

theorem does_surveyReport (hfresh : Fresh s h 0x104 false) (hboot : s.boot.state ≠ .survey) (hslot : (isSteward s && sharedSlot s m addr) = false) :
    Does (.surveyReport h m rs addr) s fun t => t.steer.reports = Tbl.set s.steer.reports m rs ∧ t.steer.reportOrder = s.steer.reportOrder ++ [m.val]
        ∧ Tbl.get 0 t.steer.reporter m = addr := by
  have hsteer : (heard h 0x104 false s).steer = s.steer := steer_heard ..
  have hsteward := isSteward_heard h 0x104 false s
  have hshared : ¬(isSteward (heard h 0x104 false s) = true ∧ sharedSlot (heard h 0x104 false s) m addr = true) := by
    rw [hsteward, sharedSlot_of_steer hsteer, ← Bool.and_eq_true, hslot]
    exact Bool.false_ne_true
  have hbooted : (heard h 0x104 false s).boot = s.boot := (heard_law ..).1 .boot (by decide)
  have hexec : exec (.surveyReport h m rs addr) s = execSurveyReport h m rs addr s := rfl
  unfold execSurveyReport at hexec
  rw [recv_of_fresh hfresh] at hexec
  dsimp only at hexec
  rw [if_neg hshared] at hexec
  refine .of_exec hexec ?_
  have hkept : ∀ t, besidePlan t = besidePlan (reportTaken m rs addr (heard h 0x104 false s)) → t.steer.reports = Tbl.set s.steer.reports m rs
      ∧ t.steer.reportOrder = s.steer.reportOrder ++ [m.val] ∧ Tbl.get 0 t.steer.reporter m = addr := by
    intro t ht
    have hreports : t.steer.reports = Tbl.set (heard h 0x104 false s).steer.reports m rs := (congrArg SteerSt.reports ht :)
    have horder : t.steer.reportOrder = (heard h 0x104 false s).steer.reportOrder ++ [m.val] := (congrArg SteerSt.reportOrder ht :)
    have hreporter : t.steer.reporter = Tbl.set (heard h 0x104 false s).steer.reporter m addr := (congrArg SteerSt.reporter ht :)
    rw [hreports, horder, hreporter, hsteer]
    exact ⟨rfl, rfl, Tbl.get_set_same ..⟩
  refine hkept _ (besidePlan_weighed ?_ ?_)
  · rw [besidePlan_replan, besidePlan_recordMember, besidePlan_wrongSlots, besidePlan_decideOffsets]
  · rw [(replan_law _).1 .boot (by decide), (recordMember_law ..).1 .boot (by decide), boot_wrongSlots, (decideOffsets_law _).1 .boot (by decide)]
    rw [onSteer, hbooted]
    exact hboot

theorem does_surveyReport_shared (hfresh : Fresh s h 0x104 false) (hsteward : isSteward s = true) (hshared : sharedSlot s m addr = true)
    (hroom : s.log.queue.length < 256) : Does (.surveyReport h m rs addr) s fun t => t.steer.reports = s.steer.reports ∧ t.steer.reporter = s.steer.reporter
        ∧ t.log.queue = s.log.queue ++ [⟨s.time.ns, 0x2009, BitVec.ofNat 16 (0x2000 + m), BitVec.ofNat 32 m, 0, 2, 0⟩] := by
  have hsteer : (heard h 0x104 false s).steer = s.steer := steer_heard ..
  have hlog : (heard h 0x104 false s).log = s.log := (heard_law ..).1 .log (by decide)
  have htime : (heard h 0x104 false s).time = s.time := (heard_law ..).1 .time (by decide)
  have hexec : exec (.surveyReport h m rs addr) s = .next (logRec 0x2009 (0x2000 + m) m 0 2 0 (heard h 0x104 false s)) := by
    change execSurveyReport h m rs addr s = _
    unfold execSurveyReport
    rw [recv_of_fresh hfresh]
    dsimp only
    rw [if_pos ⟨(isSteward_heard ..).trans hsteward, (sharedSlot_of_steer hsteer ..).trans hshared⟩]
  refine .of_exec hexec ?_
  rw [logRec_steer, hsteer, queue_logRec_of_room (by rw [hlog]; exact hroom), hlog, htime]
  exact ⟨rfl, rfl, rfl⟩

end

end

end Sys2Proof.Machine
end

section
/-! ### The entries of the STEER rings that read, demand and submit charts (13_steering_charts.md R268 to R274) -/

namespace Sys2Proof.Machine

section
variable {s : State} {r : RingIx} {e : Entry}

theorem readN_of_law_below {L : List Part} {t : State} {a n : Nat} (h : Law L s t) (hmem : .mem ∉ L) (hfits : a + n ≤ 0x10000000000000000) :
    t.mem.readN a n = s.mem.readN a n := Memory.readN_congr fun i hi => read_of_law_below h hmem (by omega)

theorem writeTable_of_here {da a : Nat} {bs : List Byte} (hfits : da + bs.length ≤ 0x10000000000000000)
    (hplace : checkAt s (whoEntry s r e none) da bs.length true = .ok (.here a)) : writeTable r e da bs s = (0, store a bs s) := by
  rw [writeTable, if_neg (by omega), hplace]

theorem does_chartRead {a : Nat} {c bs : List Byte} (h : Waits s r 3 2 e)
    (hwhich : ent e 8 1 = 0 ∧ c = s.steer.chart ∨ ent e 8 1 = 1 ∧ c = s.steer.staged) (hsome : c ≠ [])
    (hbs : bs = c ++ (if isSteward s then lanesPlaced s c else [])) (hroom : bs.length ≤ ent e 24 4)
    (hfits : ent e 16 8 + bs.length ≤ 0x10000000000000000) (hplace : checkAt s (whoEntry s r e none) (ent e 16 8) bs.length true = .ok (.here a))
    (hbelow : a + bs.length ≤ 0x10000000000000000) : Does (.chartRead r) s fun t =>
      t.mem.readN a bs.length = bs ∧ Completed s t r e 0 (toBytes bs.length 4 ++ toBytes (chEdition c).toNat 2) := by
  obtain ⟨htake, hcqe, hdma, hinv⟩ := h
  have hchart : (if ent e 8 1 = 0 then s.steer.chart else s.steer.staged) = c := by
    rcases hwhich with ⟨hzero, hc⟩ | ⟨hone, hc⟩
    · rw [if_pos hzero, hc]
    · rw [if_neg (by omega), hc]
  refine .of_exec rfl (onEntry_holds (P := fun t => t.mem.readN a bs.length = bs
    ∧ Completed s t r e 0 (toBytes bs.length 4 ++ toBytes (chEdition c).toNat 2)) htake (fun t ht => ?_) ?_)
  · exact ⟨(readN_of_law_below (turnTaken_law ..) (by decide) hbelow).trans ht.1, completed_turnTaken r 3 ht.2⟩
  · dsimp only
    rw [if_neg (by omega), hchart, if_neg hsome, ← hbs, if_neg (by omega), if_neg (by simp [tableWaits, hdma]), writeTable_of_here hfits hplace]
    dsimp only
    rw [if_pos rfl]
    refine ⟨?_, completed_of_law (store_law a bs s) (by decide) hcqe hdma hinv⟩
    exact (readN_of_law_below (complete_law ..) (by decide) hbelow).trans (readN_store hinv a bs)

/-! ### DEMAND -/

theorem does_demand {s' : State} {bs : List Byte} (htake : takeEntry s r 3 3 = some e) (hsteward : isSteward s = false) (hctx : ent e 8 1 ≤ 3)
    (hdma : canDma s = true) (hs' : s' = tableRead r e (ent e 16 8) 32 s) (hread : readTable s' r e (ent e 16 8) 32 = .ok bs)
    (hlanes : ∀ b ∈ bs, b.toNat ≤ 16) : Does (.demand r none) s fun t => Tbl.get [] t.steer.demand (4 * me s + ent e 8 1) = bs.map BitVec.toNat
        ∧ t.steer.demandFor = s.steer.demandFor ++ [(ent e 8 1, r.val, entTag e, s.steer.edition.toNat, s.now)] := by
  have hsteer : s'.steer = s.steer := by rw [hs']; exact (tableRead_law ..).1 .steer (by decide)
  have hnow : s'.now = s.now := by rw [hs']; exact (tableRead_law ..).1 .now (by decide)
  have hsteward' : isSteward s' = false := by rw [hs', isSteward_of_office (office_tableRead ..), hsteward]
  have hany : ¬((bs.any fun b => decide (16 < b.toNat)) = true) := by
    simp only [List.any_eq_true, decide_eq_true_eq, not_exists, not_and, not_lt]
    exact hlanes
  have hstarted : (startEntry r e s').steer = s.steer := Eq.trans ((startEntry_law r e s').1 .steer (by decide)) hsteer
  have hstarted' : (startEntry r e s').now = s.now := Eq.trans ((startEntry_law r e s').1 .now (by decide)) hnow
  have hoffice : isSteward (startEntry r e s') = false :=
    (isSteward_of_office (office_of_law (startEntry_law ..) (by decide))).trans hsteward'
  have hme : me s' = me s := by rw [me, me, hsteer]
  refine .of_exec rfl (onEntry_holds (P := fun t => Tbl.get [] t.steer.demand (4 * me s + ent e 8 1) = bs.map BitVec.toNat
    ∧ t.steer.demandFor = s.steer.demandFor ++ [(ent e 8 1, r.val, entTag e, s.steer.edition.toNat, s.now)]) htake (fun t ht => ?_) ?_)
  · rw [show (turnTaken r 3 t).steer = t.steer from (turnTaken_law ..).1 .steer (by decide)]
    exact ht
  · dsimp only
    rw [if_neg (by omega), withTable_of_read hdma (by rw [← hs']; exact hread), ← hs']
    rw [if_neg hany, hsteward', if_neg Bool.false_ne_true, hsteer, hme]
    have htaken : ∀ u : State, u.steer = s.steer → u.now = s.now → Tbl.get [] (onSteer (fun t => { t with
          demandFor := t.demandFor ++ [(ent e 8 1, r.val, entTag e, s.steer.edition.toNat, (setDemand (me s) (ent e 8 1) bs u).now)] })
          (setDemand (me s) (ent e 8 1) bs u)).steer.demand (4 * me s + ent e 8 1) = bs.map BitVec.toNat
        ∧ (onSteer (fun t => { t with
          demandFor := t.demandFor ++ [(ent e 8 1, r.val, entTag e, s.steer.edition.toNat, (setDemand (me s) (ent e 8 1) bs u).now)] })
          (setDemand (me s) (ent e 8 1) bs u)).steer.demandFor
          = s.steer.demandFor ++ [(ent e 8 1, r.val, entTag e, s.steer.edition.toNat, s.now)] := by
      intro u husteer hunow
      refine ⟨Tbl.get_set_same .., ?_⟩
      change u.steer.demandFor ++ [(ent e 8 1, r.val, entTag e, s.steer.edition.toNat, u.now)] = _
      rw [husteer, hunow]
    have hsent : ∀ b (u : State), (send .ctl 0 b u).steer = u.steer := fun _ _ => rfl
    have hnot : ¬(isSteward (onSteer (fun t => { t with
        demandFor := t.demandFor ++ [(ent e 8 1, r.val, entTag e, s.steer.edition.toNat, (setDemand (me s) (ent e 8 1) bs (startEntry r e s')).now)] })
        (setDemand (me s) (ent e 8 1) bs (startEntry r e s'))) = true) := by
      rw [Bool.not_eq_true]
      exact hoffice
    rw [if_neg hnot]
    split
    · rw [hsent]
      exact htaken _ hstarted hstarted'
    · exact htaken _ hstarted hstarted'

theorem does_demand_passed {m : Modu} {c : Ctx} {bs : List Byte} (hsteward : isSteward s = true) :
    Does (.demand r (some (m, c, bs))) s fun t => Tbl.get [] t.steer.demand (4 * m + c) = bs.map BitVec.toNat := by
  have hexec : exec (.demand r (some (m, c, bs))) s = .next (planNow (setDemand m.val c.val bs s)) := congrArg Host.Outcome.next (if_pos hsteward)
  refine .of_exec hexec ?_
  have hplan : (planNow (setDemand m.val c.val bs s)).steer.demand = (setDemand m.val c.val bs s).steer.demand :=
    (congrArg SteerSt.demand (besidePlan_planNow (setDemand m.val c.val bs s)) :)
  rw [hplan]
  exact Tbl.get_set_same ..

theorem does_demandTimeout {d : Nat × Nat × Nat × Nat × Nat} (hfind : s.steer.demandFor.find? (fun d => d.2.1 = r.val) = some d)
    (hdue : d.2.2.2.2 + 100000000 ≤ s.now) (hsteward : isSteward s = false) (hentry : findEntry s r 3 d.2.2.1 = some e)
    (hcqe : bits (entFlags e) 0 1 = 0) (hdma : canDma s = true) (hinv : Inv s) : Does (.demandTimeout r) s fun t =>
      t.steer.demandFor = s.steer.demandFor.filter (fun x => x ≠ d) ∧ Completed s t r e 0x106 [] := by
  have hexec : exec (.demandTimeout r) s = .next (complete r e 0x106 [] (onSteer (fun t => { t with demandFor := t.demandFor.filter fun x => x ≠ d }) s)) := by
    change execDemandTimeout r s = _
    have hentry' : findEntry (onSteer (fun t => { t with demandFor := t.demandFor.filter fun x => x ≠ d }) s) r 3 d.2.2.1 = some e := hentry
    unfold execDemandTimeout
    rw [hfind]
    dsimp only
    rw [if_neg (by rw [hsteward]; exact not_or.mpr ⟨Bool.false_ne_true, Nat.not_lt.mpr hdue⟩), completeBy, hentry']
  refine .of_exec hexec ⟨?_, completed_of_law (onSteer_law ..) (by decide) hcqe hdma hinv⟩
  rw [show ∀ x st b (u : State), (complete r x st b u).steer = u.steer from fun _ _ _ _ => (complete_law ..).1 .steer (by decide)]
  rfl

/-! ### CHART_SUBMIT -/

theorem does_chartSubmit {s1 s2 : State} {h c new : List Byte} (htake : takeEntry s r 3 4 = some e) (hsteward : isSteward s = true)
    (hdma : canDma s = true) (hs1 : s1 = tableRead r e (ent e 16 8) 64 s) (hhead : readTable s1 r e (ent e 16 8) 64 = .ok h)
    (hdma1 : canDma s1 = true) (hs2 : s2 = tableRead r e (ent e 16 8) (64 + 8 * chPairs h) s1)
    (hchart : readTable s2 r e (ent e 16 8) (64 + 8 * chPairs h) = .ok c) (hsteward2 : isSteward s2 = true) (hreserved : chReserved c = true)
    (hmagic : getN c 0 4 = 0x54524843)
    (hnew : new = mkChart (nextEdition s2) (chFlags c) (s2.time.ns.toNat + leadNs s2) s2.stew.leaseEpoch (chMembers c) (chWide c) (me s2)
        ((List.range 16).map (chOffset c)) ((chEnts c).map (fromOf (chEnts (newest s2)) (nextEdition s2))))
    (horder : chOrder new = true) (hlimit : chLimit new = true) (hfrom : chFrom new = true) :
    Does (.chartSubmit r) s fun t => t.stew.ledger = s2.stew.ledger ++ [⟨s2.stew.seq + 1, 2, new.map BitVec.toNat⟩] := by
  have hstarted : (startEntry r e s2).stew = s2.stew := (startEntry_law ..).1 .stew (by decide)
  have hoffice : isSteward (startEntry r e s2) = true :=
    (isSteward_of_office (office_of_law (startEntry_law ..) (by decide))).trans hsteward2
  refine .of_exec rfl (onEntry_holds (P := fun t => t.stew.ledger = s2.stew.ledger ++ [⟨s2.stew.seq + 1, 2, new.map BitVec.toNat⟩]) htake
    (fun t ht => ?_) ?_)
  · rw [show (turnTaken r 3 t).stew = t.stew from (turnTaken_law ..).1 .stew (by decide)]
    exact ht
  · dsimp only
    rw [if_neg (by rw [hsteward]; decide), withTable_of_read hdma (by rw [← hs1]; exact hhead), ← hs1,
      withTable_of_read hdma1 (by rw [← hs2]; exact hchart), ← hs2]
    rw [← hnew, if_neg (by rw [hreserved, hmagic, horder, hlimit, hfrom]; decide)]
    obtain ⟨_, _, hstew⟩ := stew_record (kind := 2) (data := new.map BitVec.toNat) (a := .chart new (some (r.val, entTag e))) hoffice
    rw [hstarted] at hstew
    exact (congrArg StewSt.ledger hstew :)

end

/-- Settles O22, a lemma for each row. -/
theorem chartIssueComplete : Obligations.ChartIssueComplete :=
  ⟨fun _ _ _ _ _ _ _ => does_chartControlResend, fun _ _ _ _ => does_staged, fun _ _ _ _ _ => does_applied, fun _ _ _ _ _ => does_surveyReport,
    fun _ _ _ _ _ => does_surveyReport_shared, fun _ _ _ _ => does_lateRetry, fun _ _ _ _ _ _ => does_chartRead, fun _ _ _ _ _ => does_demand,
    fun _ _ _ _ _ => does_demand_passed, fun _ _ _ _ => does_demandTimeout, fun _ _ _ _ _ _ _ _ => does_chartSubmit⟩

end Sys2Proof.Machine
end

section
/-! ### The lease, its arbiter and its holder (14_pod_steward_and_continuity.md R276, R282 to R292) -/

namespace Sys2Proof.Machine

section
variable {s : State}

/-! ### What is sent, and the lease's readings -/

/-- A control message sent by a module with authority. -/
theorem tells_ctlSend (hauth : hasAuthority s = true) (dst kind : Nat) (body : List Nat) : Tells s (ctlSend dst kind body s) dst kind body :=
  congrArg State.sent (if_pos hauth)

theorem Tells.of_same {s' t : State} {dst kind : Nat} {body : List Nat} (h : Tells s' t dst kind body) (hsent : s'.sent = s.sent)
    (hsteer : s'.steer = s.steer) (htime : s'.time = s.time) (hcfg : s'.stew.cfg = s.stew.cfg) (hid : s'.stew.msgid = s.stew.msgid) :
    Tells s t dst kind body := by
  rw [Tells, ctlBytes, me, cfgEpoch, hsent, hsteer, htime, hcfg, hid] at h
  exact h

theorem arb_of_office {t : State} (h : office t = office s) : t.stew.arb = s.stew.arb := (congrArg StewSt.arb h :)

theorem office_sendAll (kind : Nat) (body : List Nat) (s : State) : office (sendAll kind body s) = office s :=
  foldl_keeps (read := office) (f := fun (s : State) (m : Nat) => ctlSend m kind body s) (fun _ _ => office_ctlSend ..) _ s

theorem designated_heard (h : Hdr) (kind : Nat) (steward : Bool) (m : Nat) : designated (heard h kind steward s) m = designated s m := by
  obtain ⟨_, _, _, hstew⟩ := stew_heard (h := h) (kind := kind) (steward := steward) (s := s)
  rw [designated, designated, hstew]

theorem cfgEpoch_heard (h : Hdr) (kind : Nat) (steward : Bool) : cfgEpoch (heard h kind steward s) = cfgEpoch s := by
  obtain ⟨_, _, _, hstew⟩ := stew_heard (h := h) (kind := kind) (steward := steward) (s := s)
  rw [cfgEpoch, cfgEpoch, hstew]

theorem hasAuthority_heard (h : Hdr) (kind : Nat) (steward : Bool) : hasAuthority (heard h kind steward s) = hasAuthority s := by
  obtain ⟨_, _, _, hstew⟩ := stew_heard (h := h) (kind := kind) (steward := steward) (s := s)
  rw [hasAuthority, hasAuthority, hstew]

theorem me_heard (h : Hdr) (kind : Nat) : me (heard h kind false s) = me s := by rw [me, me, steer_heard]

theorem isArbiter_heard (h : Hdr) (kind : Nat) : isArbiter (heard h kind false s) = isArbiter s := by
  obtain ⟨_, _, _, hstew⟩ := stew_heard (h := h) (kind := kind) (steward := false) (s := s)
  rw [isArbiter, isArbiter, namedArbiter, namedArbiter, hasAuthority_heard, me_heard, hstew]

theorem now_heard (h : Hdr) (kind : Nat) (steward : Bool) : (heard h kind steward s).now = s.now := (heard_law ..).1 .now (by decide)

theorem arb_heard (h : Hdr) (kind : Nat) (steward : Bool) : (heard h kind steward s).stew.arb = s.stew.arb := by
  obtain ⟨_, _, _, hstew⟩ := stew_heard (h := h) (kind := kind) (steward := steward) (s := s)
  rw [hstew]

/-! ### The arbiter -/

/-- A grant to one that does not hold the lease: the epoch rises. -/
theorem arb_arbGrant_new {m : Nat} {sol : Bool} {id : Nat} (hnew : s.stew.arb.holder ≠ m ∨ s.stew.arb.state ≠ 2) : (arbGrant m sol id s).stew.arb =
    { s.stew.arb with
      state := 2, holder := m, epoch := max (max s.stew.arb.epoch s.stew.arb.seen) s.steer.epoch.toNat + 1, returning := 0xFF,
      expiry := s.now + (if sol then 20 else 21) * msNs } := by
  unfold arbGrant
  dsimp only
  rw [arb_of_office (office_ctlSend ..), if_pos hnew, logRec_stew]
  simp only [onArb, onStew, if_pos hnew]

/-- A grant to the holder: the epoch stands. -/
theorem arb_arbGrant_renew {m : Nat} {sol : Bool} {id : Nat} (hholder : s.stew.arb.holder = m) (hstate : s.stew.arb.state = 2) :
    (arbGrant m sol id s).stew.arb = { s.stew.arb with
      state := 2, holder := m, returning := 0xFF, expiry := s.now + (if sol then 20 else 21) * msNs } := by
  have hold : ¬(s.stew.arb.holder ≠ m ∨ s.stew.arb.state ≠ 2) := by simp [hholder, hstate]
  unfold arbGrant
  dsimp only
  rw [arb_of_office (office_ctlSend ..), if_neg hold]
  simp only [onArb, onStew, if_neg hold]

/-- The arbiter's notes of a request. -/
def requested (h : Hdr) (b : LeaseReq) (s : State) : State :=
  onArb (fun a => { a with lastReq := Tbl.set a.lastReq h.src (s.now + 1), mirrorOf := Tbl.set a.mirrorOf h.src b.mirror })
    (onArb (fun a => { a with seen := max a.seen h.epoch.toNat }) s)

section
variable {h : Hdr} {b : LeaseReq}

theorem exec_leaseReq (hfresh : Fresh s h 0x201 false) (harb : isArbiter s = true) (hcfg : h.configEpoch.toNat = cfgEpoch s)
    (hdesignated : designated s h.src ≠ 0) : exec (.leaseReq h b) s = .next (arbRequest h b (requested h b (heard h 0x201 false s))) := by
  change execLeaseReq h b s = _
  unfold execLeaseReq
  rw [recv_of_fresh hfresh, if_neg (by rw [isArbiter_heard, harb]; decide)]
  dsimp only
  rw [if_neg, if_neg]
  · rfl
  · exact fun h0 => hdesignated ((designated_heard ..).symm.trans h0)
  · exact not_not.mpr (hcfg.trans (cfgEpoch_heard ..).symm)

theorem arb_requested : (requested h b (heard h 0x201 false s)).stew.arb = { s.stew.arb with
    seen := max s.stew.arb.seen h.epoch.toNat, lastReq := Tbl.set s.stew.arb.lastReq h.src (s.now + 1),
    mirrorOf := Tbl.set s.stew.arb.mirrorOf h.src b.mirror } := by
  have hform : ∀ u : State, (requested h b u).stew.arb = { u.stew.arb with
    seen := max u.stew.arb.seen h.epoch.toNat, lastReq := Tbl.set u.stew.arb.lastReq h.src (u.now + 1),
    mirrorOf := Tbl.set u.stew.arb.mirrorOf h.src b.mirror } := fun _ => rfl
  rw [hform, arb_heard, now_heard]

theorem requested_reads (u : State) : designated (requested h b u) h.src = designated u h.src ∧ (requested h b u).now = u.now
    ∧ (requested h b u).steer = u.steer := ⟨rfl, rfl, rfl⟩

theorem does_leaseReq_free (hfresh : Fresh s h 0x201 false) (harb : isArbiter s = true) (hcfg : h.configEpoch.toNat = cfgEpoch s)
    (hdesignated : designated s h.src = 1) (hfree : s.stew.arb.state = 1) :
    Does (.leaseReq h b) s fun t => t.stew.arb.state = 2 ∧ t.stew.arb.holder = h.src ∧ t.stew.arb.expiry = s.now + 20000000
            ∧ t.stew.arb.epoch = max (max s.stew.arb.epoch (max s.stew.arb.seen h.epoch.toNat)) s.steer.epoch.toNat + 1 := by
  obtain ⟨hdes, hnow, hsteer⟩ := requested_reads (h := h) (b := b) (heard h 0x201 false s)
  rw [designated_heard, hdesignated] at hdes
  rw [now_heard] at hnow
  rw [steer_heard] at hsteer
  have hreq := arb_requested (h := h) (b := b) (s := s)
  refine .of_exec (exec_leaseReq hfresh harb hcfg (by rw [hdesignated]; decide)) ?_
  generalize requested h b (heard h 0x201 false s) = u at hdes hnow hsteer hreq ⊢
  have hstate : u.stew.arb.state = 1 := by rw [hreq]; exact hfree
  have hgrant : arbRequest h b u = arbGrant h.src true h.msgid.toNat u := by
    unfold arbRequest
    dsimp only
    rw [hstate]
    exact if_pos (.inl hdes)
  rw [hgrant, arb_arbGrant_new (.inr (by rw [hstate]; decide)), hreq, hnow, hsteer]
  exact ⟨rfl, rfl, rfl, rfl⟩

theorem does_leaseReq_renew (hfresh : Fresh s h 0x201 false) (harb : isArbiter s = true) (hcfg : h.configEpoch.toNat = cfgEpoch s)
    (hdesignated : designated s h.src ≠ 0) (hheld : s.stew.arb.state = 2) (hholder : s.stew.arb.holder = h.src) (hrenew : b.renew = true) :
    Does (.leaseReq h b) s fun t => t.stew.arb.state = 2 ∧ t.stew.arb.holder = h.src ∧ t.stew.arb.expiry = s.now + 20000000
            ∧ t.stew.arb.epoch = s.stew.arb.epoch := by
  obtain ⟨-, hnow, -⟩ := requested_reads (h := h) (b := b) (heard h 0x201 false s)
  rw [now_heard] at hnow
  have hreq := arb_requested (h := h) (b := b) (s := s)
  refine .of_exec (exec_leaseReq hfresh harb hcfg hdesignated) ?_
  generalize requested h b (heard h 0x201 false s) = u at hnow hreq ⊢
  have hstate : u.stew.arb.state = 2 := by rw [hreq]; exact hheld
  have hholder' : u.stew.arb.holder = h.src := by rw [hreq]; exact hholder
  have hgrant : arbRequest h b u = arbGrant h.src true h.msgid.toNat u := by
    unfold arbRequest
    dsimp only
    rw [hstate]
    exact if_pos ⟨hholder', hrenew⟩
  rw [hgrant, arb_arbGrant_renew hholder' hstate, hreq, hnow]
  exact ⟨rfl, rfl, rfl, rfl⟩

end

theorem does_released {h : Hdr} {ep : Word} {n : Nat} (hfresh : Fresh s h 0x205 false) (harb : isArbiter s = true) (hstate : s.stew.arb.state = 3)
    (hholder : s.stew.arb.holder = h.src) : Does (.released h ep n) s fun t =>
      t.stew.arb.state = 2 ∧ t.stew.arb.holder = s.stew.arb.returning ∧ t.stew.arb.expiry = s.now + 21000000
        ∧ t.stew.arb.epoch = max (max s.stew.arb.epoch s.stew.arb.seen) s.steer.epoch.toNat + 1 := by
  have hexec : exec (.released h ep n) s = .next (arbGrant s.stew.arb.returning false 0 (heard h 0x205 false s)) := by
    change execReleased h ep n s = _
    unfold execReleased
    rw [recv_of_fresh hfresh]
    dsimp only
    rw [if_pos ⟨(isArbiter_heard ..).trans harb, by rw [arb_heard]; exact hstate, by rw [arb_heard]; exact hholder⟩, arb_heard]
  refine .of_exec hexec ?_
  rw [arb_arbGrant_new (.inr (by rw [arb_heard, hstate]; decide)), arb_heard, now_heard, steer_heard]
  exact ⟨rfl, rfl, rfl, rfl⟩

theorem does_arbiterLeaseExpiry (harb : isArbiter s = true) (hdue : s.stew.arb.expiry ≤ s.now) (hstate : s.stew.arb.state = 2)
    (hquiet : Tbl.get 0 s.stew.arb.lastReq (partner s s.stew.arb.holder) = 0) :
    Does .arbiterLeaseExpiry s fun t => t.stew.arb.state = 1 ∧ t.stew.arb.holder = 0xFF ∧ t.stew.arb.epoch = s.stew.arb.epoch := by
  have hexec : exec .arbiterLeaseExpiry s = .next (onArb (fun a => { a with state := 1, holder := 0xFF, freeAt := s.now }) s) := by
    change execArbiterLeaseExpiry s = _
    unfold execArbiterLeaseExpiry
    dsimp only
    rw [if_neg (by rw [harb]; exact not_or.mpr ⟨by decide, Nat.not_lt.mpr hdue⟩), if_neg (by rw [hstate]; decide), if_pos hstate, hquiet]
    exact if_neg fun h => h.1 rfl
  exact .of_exec hexec ⟨rfl, rfl, rfl⟩

theorem does_arbiterStartingEnd (harb : isArbiter s = true) (hstate : s.stew.arb.state = 0) (hdue : s.stew.arb.freeAt + 25000000 ≤ s.now) :
    Does .arbiterStartingEnd s fun t => t.stew.arb.state = 1 ∧ t.stew.arb.freeAt = s.now :=
  .of_exec (if_pos ⟨harb, hstate, hdue⟩) ⟨rfl, rfl⟩

/-! ### The holder and the candidates -/

theorem role_of_steward (hsteward : isSteward s = true) : s.stew.role = 5 := by
  rw [isSteward, Bool.and_eq_true, beq_iff_eq] at hsteward
  exact hsteward.1

theorem role_of_not_steward (hsteward : isSteward s = false) (hauth : hasAuthority s = true) : s.stew.role ≠ 5 := by
  rw [isSteward, hauth, Bool.and_true, beq_eq_false_iff_ne] at hsteward
  exact hsteward

/-- A request for the lease as `sendReq` sends it. -/
theorem tells_sendReq {flags : Nat} (hauth : hasAuthority s = true) : Tells s (sendReq flags s) (arbiter s) 0x201
    [flags, designated s (me s), b2n (!s.stew.twinUp), s.stew.mirror, if s.stew.role = 5 then s.stew.seq else s.stew.applied] := by
  unfold sendReq
  dsimp only
  rw [if_neg (by rw [hauth]; decide)]
  exact tells_ctlSend (s := onStew (fun w => { w with reqAt := s.now }) s) hauth _ _ _

theorem office_sendReq {flags : Nat} (hauth : hasAuthority s = true) : office (sendReq flags s) = { office s with reqAt := s.now } := by
  unfold sendReq
  dsimp only
  rw [if_neg (by rw [hauth]; decide)]
  exact office_ctlSend ..

theorem does_leaseRenewDue (hsteward : isSteward s = true) : Does .leaseRenewDue s fun t =>
    Tells s t (arbiter s) 0x201 [1, designated s (me s), b2n (!s.stew.twinUp), s.stew.mirror, s.stew.seq] ∧ t.stew.reqAt = s.now := by
  have hauth := authority_of_steward hsteward
  have htells := tells_sendReq (flags := 1) hauth
  rw [if_pos (role_of_steward hsteward)] at htells
  have hexec : exec .leaseRenewDue s = .next (sendReq 1 s) := congrArg Host.Outcome.next (if_pos hsteward)
  exact .of_exec hexec ⟨htells, (congrArg StewSt.reqAt (office_sendReq (flags := 1) hauth) :)⟩

theorem does_candidacyDue (hdesignated : designated s (me s) ≠ 0) (hauth : hasAuthority s = true) (hsteward : isSteward s = false)
    (hservice : inService_ s = true) : Does .candidacyDue s fun t =>
      Tells s t (arbiter s) 0x201 [0, designated s (me s), b2n (!s.stew.twinUp), s.stew.mirror, s.stew.applied] := by
  have htells := tells_sendReq (flags := 0) hauth
  rw [if_neg (role_of_not_steward hsteward hauth)] at htells
  have hexec : exec .candidacyDue s = .next (sendReq 0 s) := congrArg Host.Outcome.next (if_pos ⟨hdesignated, hsteward, hservice⟩)
  exact .of_exec hexec htells

theorem does_holderLeaseTimerEnd (hsteward : isSteward s = true) (hdue : s.stew.until_ ≤ s.now) :
    Does .holderLeaseTimerEnd s fun t => t.stew.role = 1 ∧ t.stew.active = none ∧ t.stew.queue = [] := by
  have hexec : exec .holderLeaseTimerEnd s = .next (stopSteward 1 (me s) s) := congrArg Host.Outcome.next (if_pos ⟨role_of_steward hsteward, hdue⟩)
  refine .of_exec hexec ?_
  rw [stopSteward, logRec_stew]
  exact ⟨rfl, rfl, rfl⟩

end

end Sys2Proof.Machine
end

section
/-! ### The lease granted, ended and taken over (14_pod_steward_and_continuity.md R288 to R292) -/

namespace Sys2Proof.Machine

section
variable {s : State}

/-- HOLD left: of the office, only that it is left. -/
theorem office_leaveHold (s : State) : office (leaveHold s) = { office s with hold := false } := by
  have hsend : ∀ (m : Nat) (l : List (List Nat)) (u : State), office (l.foldl (fun s b => ctlSend m 0x20C b s) u) = office u := fun m l u =>
    foldl_keeps (read := office) (f := fun (s : State) (b : List Nat) => ctlSend m 0x20C b s) (fun _ _ => office_ctlSend ..) l u
  have hpost : ∀ a b c d e f g (u : State), office (postEvent a b c d e f g u) = office u := fun _ _ _ _ _ _ _ _ => office_of_law (postEvent_law ..) (by decide)
  have hlog : ∀ a b c d e f (u : State), office (logRec a b c d e f u) = office u := fun _ _ _ _ _ _ _ => office_of_law (logRec_law ..) (by decide)
  have hleft : office (onStew (fun w => { w with hold := false, reports := [], dropped := 0 }) s) = { office s with hold := false } := rfl
  unfold leaveHold
  dsimp only
  split
  next hnone =>
    rw [office]
    cases hstew : s.stew
    rw [hstew] at hnone
    simp only at hnone
    subst hnone
    rfl
  next =>
    rw [hpost, hlog, ← hleft]
    split
    · exact hsend ..
    · rfl

theorem steer_leaveHold (s : State) : (leaveHold s).steer = s.steer := (leaveHold_law ..).1 .steer (by decide)

/-- The role taken, before any module is told. -/
def tookRole (epoch : Nat) (k : Nat) (s : State) : State :=
  onStew (fun w => { w with
      role := 5, active := some (me s), leaseEpoch := epoch, returning := false, seq := w.applied,
      members := w.members.map fun (p : Nat × Member) => (p.1, { p.2 with heardAt := s.now, probing := false }), statuses := [],
      rebuilding := k == 2 || k == 4, mirror := if w.twinUp then w.mirror else 1 })
    (onSteer (fun t => { t with epoch := BitVec.ofNat 32 (max t.epoch.toNat epoch) }) s)

theorem takeOver_reads (epoch : Nat) (hauth : hasAuthority s = true) : ∃ k,
    office (takeOver epoch s) = { office (tookRole epoch k s) with reqAt := s.now, hold := false }
    ∧ (takeOver epoch s).steer = { s.steer with epoch := BitVec.ofNat 32 (max s.steer.epoch.toNat epoch) } := by
  have hlog : ∀ a b c d e f (u : State), office (logRec a b c d e f u) = office u := fun _ _ _ _ _ _ _ => office_of_law (logRec_law ..) (by decide)
  have hall : ∀ k b (u : State), (sendAll k b u).steer = u.steer := fun _ _ _ => (sendAll_law ..).1 .steer (by decide)
  have hreq : ∀ f (u : State), (sendReq f u).steer = u.steer := fun _ _ => (sendReq_law ..).1 .steer (by decide)
  have hnow : ∀ k b (u : State), (sendAll k b u).now = u.now := fun _ _ _ => (sendAll_law ..).1 .now (by decide)
  have htook : ∀ k, (tookRole epoch k s).steer = { s.steer with epoch := BitVec.ofNat 32 (max s.steer.epoch.toNat epoch) } := fun _ => rfl
  have hauth' : ∀ k b, hasAuthority (sendAll 0x206 b (tookRole epoch k s)) = true := by
    intro k b
    have hkept : (sendAll 0x206 b (tookRole epoch k s)).stew.authHolder = (tookRole epoch k s).stew.authHolder :=
      (congrArg StewSt.authHolder (office_sendAll 0x206 b (tookRole epoch k s)) :)
    rw [hasAuthority, hkept]
    exact hauth
  unfold takeOver
  dsimp only
  change ∃ k, office (leaveHold (logRec _ _ _ _ _ _ (if takeKind s = 2 ∨ takeKind s = 4
    then sendAll 0x211 [1] (sendReq 1 (sendAll 0x206 _ (tookRole epoch (takeKind s) s)))
    else sendReq 1 (sendAll 0x206 _ (tookRole epoch (takeKind s) s))))) = _ ∧ _
  refine ⟨takeKind s, ?_, ?_⟩
  · rw [office_leaveHold, hlog]
    split
    · rw [office_sendAll, office_sendReq (hauth' _ _), office_sendAll, hnow]
      rfl
    · rw [office_sendReq (hauth' _ _), office_sendAll, hnow]
      rfl
  · rw [steer_leaveHold, logRec_steer]
    split
    · rw [hall, hreq, hall]
      exact htook _
    · rw [hreq, hall]
      exact htook _

section
variable {h : Hdr} {ep : Word}

/-- A grant's basis noted. -/
def leaseGranted (at_ : Nat) (s : State) : State := onStew (fun w => { w with basis := at_, until_ := at_ + 19900000 }) s

theorem does_leaseGrant {sol : Bool} (hfresh : Fresh s h 0x202 false) (hauth : hasAuthority s = true) (hsrc : h.src = arbiter s)
    (hdesignated : designated s (me s) ≠ 0) (hep : s.steer.epoch.toNat ≤ ep.toNat) : Does (.leaseGrant h ep (me s) sol) s fun t =>
      t.stew.role = 5 ∧ t.stew.leaseEpoch = ep.toNat ∧ t.stew.until_ = (if sol then s.stew.reqAt else s.now) + 19900000
        ∧ (isSteward s = false → t.stew.active = some (me s) ∧ t.steer.epoch = ep ∧ t.stew.hold = false) := by
  obtain ⟨_, _, _, hheard⟩ := stew_heard (h := h) (kind := 0x202) (steward := false) (s := s)
  have hsteer : (heard h 0x202 false s).steer = s.steer := steer_heard ..
  have harb : arbiter (heard h 0x202 false s) = arbiter s := by rw [arbiter, arbiter, hheard]
  have hreq : (heard h 0x202 false s).stew.reqAt = s.stew.reqAt := by rw [hheard]
  have hexec : exec (.leaseGrant h ep (me s) sol) s = .next (if isSteward (leaseGranted (if sol then s.stew.reqAt else s.now) (heard h 0x202 false s))
        ∧ (leaseGranted (if sol then s.stew.reqAt else s.now) (heard h 0x202 false s)).stew.leaseEpoch = ep.toNat
      then leaseGranted (if sol then s.stew.reqAt else s.now) (heard h 0x202 false s)
      else takeOver ep.toNat (leaseGranted (if sol then s.stew.reqAt else s.now) (heard h 0x202 false s))) := by
    change execLeaseGrant h ep (me s) sol s = _
    unfold execLeaseGrant
    rw [recv_of_fresh hfresh]
    dsimp only
    rw [hasAuthority_heard, hauth, me_heard, harb, designated_heard, hsteer, hreq, now_heard, if_neg]
    · rfl
    · simp only [Bool.true_eq_false, ne_eq, not_true_eq_false, hsrc, hdesignated, false_or, not_lt]
      exact hep
  have hsteward : isSteward (leaseGranted (if sol then s.stew.reqAt else s.now) (heard h 0x202 false s)) = isSteward s := isSteward_heard h 0x202 false s
  have hauth' : hasAuthority (leaseGranted (if sol then s.stew.reqAt else s.now) (heard h 0x202 false s)) = true :=
    (hasAuthority_heard h 0x202 false).trans hauth
  have huntil : (leaseGranted (if sol then s.stew.reqAt else s.now) (heard h 0x202 false s)).stew.until_ = (if sol then s.stew.reqAt else s.now) + 19900000 := rfl
  have hme : me (leaseGranted (if sol then s.stew.reqAt else s.now) (heard h 0x202 false s)) = me s := me_heard h 0x202
  have hsteer' : (leaseGranted (if sol then s.stew.reqAt else s.now) (heard h 0x202 false s)).steer = s.steer := hsteer
  refine .of_exec hexec ?_
  generalize leaseGranted (if sol then s.stew.reqAt else s.now) (heard h 0x202 false s) = u at hsteward hauth' huntil hme hsteer' ⊢
  split
  next hheld =>
    refine ⟨role_of_steward hheld.1, hheld.2, huntil, fun hnot => ?_⟩
    rw [hsteward, hnot] at hheld
    exact absurd hheld.1 Bool.false_ne_true
  next =>
    obtain ⟨k, hoffice, hepoch⟩ := takeOver_reads ep.toNat hauth'
    refine ⟨(congrArg StewSt.role hoffice :), (congrArg StewSt.leaseEpoch hoffice :), (congrArg StewSt.until_ hoffice :).trans huntil, fun _ =>
      ⟨(congrArg StewSt.active hoffice :).trans (by rw [← hme]; rfl), ?_, (congrArg StewSt.hold hoffice :)⟩⟩
    rw [hepoch, hsteer', Nat.max_eq_right hep]
    exact (BitVec.ofNat_toNat 32 ep).trans (BitVec.setWidth_eq ep)

theorem does_leaseDeny {m : Nat} (hfresh : Fresh s h 0x203 false) (hquiet : h.ackReq = false) (hauth : hasAuthority s = true) :
    Does (.leaseDeny h 3 m ep) s fun t => Tells s t h.src 0x211 [0] := by
  have hexec : exec (.leaseDeny h 3 m ep) s = .next (ctlSend h.src 0x211 [0] (heard h 0x203 false s)) := by
    change execLeaseDeny h 3 m ep s = _
    unfold execLeaseDeny
    rw [recv_of_fresh hfresh, if_pos rfl]
  have hacked : acked h s = countHub 0x10 0 false s := if_neg (by rw [hquiet]; decide)
  have hstew : (heard h 0x203 false s).stew.cfg = s.stew.cfg ∧ (heard h 0x203 false s).stew.msgid = s.stew.msgid := by
    rw [heard, if_neg Bool.false_ne_true, noted, onStew, hacked, countHub_stew]
    exact ⟨rfl, rfl⟩
  have hsent : (heard h 0x203 false s).sent = s.sent := by
    rw [heard, if_neg Bool.false_ne_true, noted, onStew, hacked, countHub_sent]
  refine .of_exec hexec ?_
  exact (tells_ctlSend ((hasAuthority_heard ..).trans hauth) _ _ _).of_same hsent (steer_heard ..) ((heard_law ..).1 .time (by decide)) hstew.1 hstew.2

theorem does_leaseEnd {k : Nat} (hfresh : Fresh s h 0x204 false) (hsteward : isSteward s = true) : Does (.leaseEnd h ep k) s fun t =>
    t.stew.role = 2 ∧ t.stew.active = none ∧ t.stew.applied = s.stew.seq ∧ (t.sent.take 2).all (fun m => m.kind == 0x205) = true := by
  obtain ⟨_, _, _, hheard⟩ := stew_heard (h := h) (kind := 0x204) (steward := false) (s := s)
  have hexec : ∃ dst le sq, exec (.leaseEnd h ep k) s = .next (ctlSend dst 0x205 [ep.toNat, sq] (ctlSend h.src 0x205 [ep.toNat, sq]
      (onStew (fun w => { w with role := 2, active := none, applied := w.seq, queue := [], rebuilding := false })
        (logRec 0x2021 0x2000 le 2 (me (heard h 0x204 false s)) 0 (heard h 0x204 false s))))) := by
    change ∃ dst le sq, execLeaseEnd h ep k s = _
    unfold execLeaseEnd
    rw [recv_of_fresh hfresh, if_neg (by rw [isSteward_heard, hsteward]; decide)]
    exact ⟨_, _, _, rfl⟩
  obtain ⟨dst, le, sq, hexec⟩ := hexec
  refine .of_exec hexec ?_
  have hended : (onStew (fun w => { w with role := 2, active := none, applied := w.seq, queue := [], rebuilding := false })
      (logRec 0x2021 0x2000 le 2 (me (heard h 0x204 false s)) 0 (heard h 0x204 false s))).stew =
      { (heard h 0x204 false s).stew with
        role := 2, active := none, applied := (heard h 0x204 false s).stew.seq, queue := [], rebuilding := false } := by
    rw [onStew, logRec_stew]
  generalize onStew (fun w => { w with role := 2, active := none, applied := w.seq, queue := [], rebuilding := false })
      (logRec 0x2021 0x2000 le 2 (me (heard h 0x204 false s)) 0 (heard h 0x204 false s)) = u at hended ⊢
  have hauth : hasAuthority u = true := by
    rw [hasAuthority, hended]
    exact (hasAuthority_heard h 0x204 false).trans (authority_of_steward hsteward)
  have hoffice : office (ctlSend dst 0x205 [ep.toNat, sq] (ctlSend h.src 0x205 [ep.toNat, sq] u)) = office u :=
    (office_ctlSend ..).trans (office_ctlSend ..)
  have hauth' : hasAuthority (ctlSend h.src 0x205 [ep.toNat, sq] u) = true := by
    have hkept : (ctlSend h.src 0x205 [ep.toNat, sq] u).stew.authHolder = u.stew.authHolder :=
      (congrArg StewSt.authHolder (office_ctlSend u h.src 0x205 [ep.toNat, sq]) :)
    rw [hasAuthority, hkept]
    exact hauth
  have hfirst := tells_ctlSend hauth h.src 0x205 [ep.toNat, sq]
  have hsecond := tells_ctlSend hauth' dst 0x205 [ep.toNat, sq]
  have hrole : (ctlSend dst 0x205 [ep.toNat, sq] (ctlSend h.src 0x205 [ep.toNat, sq] u)).stew.role = u.stew.role := (congrArg StewSt.role hoffice :)
  have hactive : (ctlSend dst 0x205 [ep.toNat, sq] (ctlSend h.src 0x205 [ep.toNat, sq] u)).stew.active = u.stew.active := (congrArg StewSt.active hoffice :)
  have happlied : (ctlSend dst 0x205 [ep.toNat, sq] (ctlSend h.src 0x205 [ep.toNat, sq] u)).stew.applied = u.stew.applied :=
    (congrArg StewSt.applied hoffice :)
  rw [hrole, hactive, happlied, hended, hheard, hsecond, hfirst]
  exact ⟨rfl, rfl, rfl, rfl⟩

/-! ### TAKEOVER and the return -/

theorem office_startSync (s : State) : ∃ r, office (startSync s) = { office s with role := r } := by
  unfold startSync
  split
  · exact ⟨2, rfl⟩
  · exact ⟨s.stew.role, rfl⟩

theorem office_resend (m : Nat) (s : State) : office (resend m s) = office s := by
  have hdrop : ∀ f : List CtlMsg → List CtlMsg, office (onStew (fun w => { w with unacked := f w.unacked }) s) = office s := fun _ => rfl
  unfold resend
  dsimp only
  refine (foldl_keeps (read := office) (f := fun (s : State) (u : CtlMsg) => ctlSend m u.kind u.body s) (fun _ _ => office_ctlSend ..) _ _).trans ?_
  exact hdrop _

theorem epoch_heard_steward {kind : Nat} (hfresh : Fresh s h kind true) (hkind : kind ≠ 0x101) : (heard h kind true s).steer.epoch = h.epoch := by
  have hle := (hfresh.1 rfl).1
  have hsteer : (noted h kind s).steer = s.steer := (noted_law h kind s).1 .steer (by decide)
  rw [heard, if_pos rfl, onSteer, hsteer]
  dsimp only
  split
  · rfl
  next hnot =>
    have heq : s.steer.epoch.toNat = h.epoch.toNat := le_antisymm hle (Nat.not_lt.mp fun hlt => hnot ⟨hlt, hkind⟩)
    exact BitVec.eq_of_toNat_eq heq

theorem does_takeover {m prev k : Nat} (hfresh : Fresh s h 0x206 true) : Does (.takeover h ep m prev k) s fun t =>
    t.stew.active = some m ∧ t.stew.lastAck = s.now ∧ t.steer.epoch = h.epoch ∧ t.stew.hold = false := by
  set u := resend m (leaveHold (startSync (onStew (fun w => { w with active := some m, lastAck := (heard h 0x206 true s).now }) (heard h 0x206 true s)))) with hu
  have hexec : exec (.takeover h ep m prev k) s = .next (if u.steer.lastApplied = [] then u else ctlSend m 0x103 u.steer.lastApplied u) := by
    change execTakeover h ep m prev k s = _
    unfold execTakeover
    rw [recv_of_fresh hfresh]
  have hsteer : u.steer = (heard h 0x206 true s).steer := by
    rw [hu, (resend_law ..).1 .steer (by decide), steer_leaveHold, (startSync_law _).1 .steer (by decide)]
    rfl
  have hoffice : ∃ r, office u = { office (heard h 0x206 true s) with active := some m, lastAck := s.now, role := r, hold := false } := by
    obtain ⟨r, hsync⟩ := office_startSync (onStew (fun w => { w with active := some m, lastAck := (heard h 0x206 true s).now }) (heard h 0x206 true s))
    refine ⟨r, ?_⟩
    rw [hu, office_resend, office_leaveHold, hsync, now_heard]
    rfl
  obtain ⟨r, hoffice⟩ := hoffice
  clear_value u
  have hend : office (if u.steer.lastApplied = [] then u else ctlSend m 0x103 u.steer.lastApplied u) = office u
      ∧ (if u.steer.lastApplied = [] then u else ctlSend m 0x103 u.steer.lastApplied u).steer = u.steer := by
    split
    · exact ⟨rfl, rfl⟩
    · exact ⟨office_ctlSend .., (ctlSend_law ..).1 .steer (by decide)⟩
  obtain ⟨hoffice', hsteer'⟩ := hend
  have hall := hoffice'.trans hoffice
  refine .of_exec hexec ⟨(congrArg StewSt.active hall :), (congrArg StewSt.lastAck hall :), ?_, (congrArg StewSt.hold hall :)⟩
  rw [hsteer', hsteer]
  exact epoch_heard_steward hfresh (by decide)

end

theorem does_quietPointReturn (hrole : s.stew.role = 3) (hdesignated : designated s (me s) = 1) (hmirror : s.stew.mirror = 0)
    (hactive : s.stew.active = some (partner s (me s))) (hquiet : quietPoint s = true) (hauth : hasAuthority s = true) :
    Does .quietPointReturn s fun t => t.stew.returning = true ∧ Tells s t (arbiter s) 0x201 [2, 1, b2n (!s.stew.twinUp), 0, s.stew.applied] := by
  have hauth' : hasAuthority (onStew (fun w => { w with returning := true }) s) = true := hauth
  have htells := tells_sendReq (flags := 2) hauth'
  have hoffice := office_sendReq (flags := 2) hauth'
  refine .of_exec (if_pos ⟨hrole, hdesignated, hmirror, hactive, hquiet⟩) ⟨(congrArg StewSt.returning hoffice :), ?_⟩
  have hbody : [2, designated s (me s), b2n (!s.stew.twinUp), s.stew.mirror, if s.stew.role = 5 then s.stew.seq else s.stew.applied]
      = [2, 1, b2n (!s.stew.twinUp), 0, s.stew.applied] := by rw [hdesignated, hmirror, if_neg (by rw [hrole]; decide)]
  rw [← hbody]
  exact htells

theorem does_authorityClaim {h : Hlf} (hnone : s.stew.authHolder = none) (hdue : h = 1 → s.stew.startAt + 10000000 ≤ s.now) :
    Does (.authorityClaim h) s fun t => t.stew.authHolder = some h.val ∧ t.stew.authGen = s.stew.authGen + 1 := by
  have hwait : ¬(h.val = 1 ∧ s.now < s.stew.startAt + 10 * msNs) := fun hearly =>
    absurd hearly.2 (Nat.not_lt.mpr (hdue (Fin.ext hearly.1)))
  have hexec : exec (.authorityClaim h) s = .next (logRec 0x2025 0x2000 h.val (s.stew.authGen + 1).toNat 1 0
      (onStew (fun w => { w with authHolder := some h.val, authGen := s.stew.authGen + 1 }) s)) := by
    change execAuthorityClaim h s = _
    unfold execAuthorityClaim
    rw [hnone]
    exact if_neg hwait
  refine .of_exec hexec ?_
  rw [logRec_stew]
  exact ⟨rfl, rfl⟩

theorem does_authorityHeartbeatTimeout {h : Nat} (hheld : s.stew.authHolder = some h) :
    Does .authorityHeartbeatTimeout s fun t => t.stew.authHolder = none ∧ t.stew.authGen = s.stew.authGen := by
  have hexec : exec .authorityHeartbeatTimeout s = .next (logRec 0x2025 0x2000 h s.stew.authGen.toNat 2 0 (onStew (fun w => { w with authHolder := none }) s)) := by
    change Host.Outcome.next (authorityDrop 2 s) = _
    rw [authorityDrop, hheld]
  refine .of_exec hexec ?_
  rw [logRec_stew]
  exact ⟨rfl, rfl⟩

end

/-- Settles O23, a lemma for each row. -/
theorem leaseComplete : Obligations.LeaseComplete :=
  ⟨fun _ _ _ hfresh harb hcfg hdes => ⟨fun ⟨hone, hfree⟩ => does_leaseReq_free hfresh harb hcfg hone hfree,
      fun ⟨hheld, hholder, hrenew⟩ => does_leaseReq_renew hfresh harb hcfg hdes hheld hholder hrenew⟩,
    fun _ _ _ _ => does_released, fun _ => does_arbiterLeaseExpiry, fun _ => does_arbiterStartingEnd, fun _ => does_leaseRenewDue,
    fun _ => does_candidacyDue, fun _ => does_holderLeaseTimerEnd, fun _ _ _ _ => does_leaseGrant, fun _ _ _ _ => does_leaseDeny,
    fun _ _ _ _ => does_leaseEnd, fun _ _ _ _ _ _ => does_takeover, fun _ => does_quietPointReturn, fun _ _ => does_authorityClaim,
    fun _ _ => does_authorityHeartbeatTimeout⟩

end Sys2Proof.Machine
end

section
/-! ### The mirror, the twin and what a rebuilding steward gathers (14_pod_steward_and_continuity.md R277, R278, R285 to R289) -/

namespace Sys2Proof.Machine

section
variable {s : State}

/-! ### The mirror -/

theorem sent_applyRecord (r : MirrorRec) (s : State) : (applyRecord r s).sent = s.sent := (applyRecord_law ..).1 .sent (by decide)

theorem stew_twinSend (kind : Nat) (body : List Nat) (s : State) : (twinSend kind body s).stew = s.stew := (twinSend_law ..).1 .stew (by decide)

theorem sent_twinSend {kind : Nat} {body : List Nat} (hpower : s.stew.twinPower = true) (hup : s.stew.twinUp = true) (hauth : hasAuthority s = true) :
    (twinSend kind body s).sent = ⟨.twin, kind, body⟩ :: s.sent := by
  rw [twinSend, if_pos ⟨hpower, hup, hauth⟩]
  rfl

theorem does_mirror {r : MirrorRec} (hrole : s.stew.role ≠ 5) (hdesignated : designated s (me s) ≠ 0) (hseq : r.seq = s.stew.applied + 1) :
    Does (.mirror r) s fun t => t.stew.ledger = s.stew.ledger ++ [r] ∧ t.stew.applied = r.seq ∧ t.stew.mirror = 0
        ∧ t.stew.role = (if s.stew.role = 2 then 3 else s.stew.role)
        ∧ (s.stew.twinPower = true → s.stew.twinUp = true → hasAuthority s = true → t.sent = ⟨.twin, 0x20A, [r.seq]⟩ :: s.sent) := by
  obtain ⟨ms, js, hstew⟩ := stew_applyRecord r s
  have hexec : exec (.mirror r) s = .next (twinSend 0x20A [r.seq]
      (onStew (fun w => { w with applied := r.seq, mirror := 0, role := if w.role = 2 then 3 else w.role }) (applyRecord r s))) := by
    change execMirror r s = _
    unfold execMirror
    dsimp only
    rw [if_neg (not_or.mpr ⟨hrole, hdesignated⟩), if_pos hseq]
  refine .of_exec hexec ?_
  have hmirrored : (onStew (fun w => { w with applied := r.seq, mirror := 0, role := if w.role = 2 then 3 else w.role }) (applyRecord r s)).stew =
      { s.stew with
        ledger := s.stew.ledger ++ [r], members := ms, jobs := js, applied := r.seq, mirror := 0,
        role := if s.stew.role = 2 then 3 else s.stew.role } := by rw [onStew, hstew]
  have hsent : (onStew (fun w => { w with applied := r.seq, mirror := 0, role := if w.role = 2 then 3 else w.role }) (applyRecord r s)).sent = s.sent :=
    sent_applyRecord r s
  generalize onStew (fun w => { w with applied := r.seq, mirror := 0, role := if w.role = 2 then 3 else w.role }) (applyRecord r s) = u at hmirrored hsent ⊢
  rw [stew_twinSend, hmirrored]
  refine ⟨rfl, rfl, rfl, rfl, fun hpower hup hauth => ?_⟩
  have hauth' : hasAuthority u = true := by rw [hasAuthority, hmirrored]; exact hauth
  rw [sent_twinSend (by rw [hmirrored]; exact hpower) (by rw [hmirrored]; exact hup) hauth', hsent]

/-- What a record lets out is sent, and no more. -/
theorem office_doAct (a : StewAct) (s : State) : office (doAct a s) = office s := by
  have hchart : ∀ c m (u : State), office (sendChart c m u) = office u := fun c m u =>
    foldl_keeps (read := office) (f := fun (s : State) (b : List Nat) => ctlSend m 0x101 b s) (fun _ _ => office_ctlSend ..) _ u
  unfold doAct
  split
  · rfl
  next c _ =>
    exact foldl_keeps (read := office) (f := fun (s : State) (m : Nat) => sendChart c m s) (fun _ _ => hchart ..) _ s
  · exact office_ctlSend ..
  · exact office_ctlSend ..
  next m cause c gen =>
    exact foldl_keeps (read := office) (f := fun (s : State) (x : Nat) => ctlSend x 0x20D [m, cause, c, gen] s) (fun _ _ => office_ctlSend ..) _ s

theorem office_doActs (l : List (Nat × StewAct)) (s : State) : office (l.foldl (fun s q => doAct q.2 s) s) = office s :=
  foldl_keeps (read := office) (f := fun (s : State) (q : Nat × StewAct) => doAct q.2 s) (fun _ _ => office_doAct ..) l s

theorem does_mirrorAck {n : Nat} (hsteward : isSteward s = true) : Does (.mirrorAck n) s fun t =>
    t.stew.queue = (s.stew.queue.filter fun q => n < q.1) ∧ (t.stew.queue = [] ∧ s.stew.overflow = false → t.stew.mirror = 0) := by
  have hexec : exec (.mirrorAck n) s = .next (if (settleQueue n s).stew.queue = [] ∧ (settleQueue n s).stew.overflow = false
      then onStew (fun w => { w with mirror := 0, kept := 0 }) (settleQueue n s) else settleQueue n s) := if_neg (by rw [hsteward]; decide)
  have hoffice : office (settleQueue n s) = office (onStew (fun w => { w with queue := w.queue.filter fun q => n < q.1 }) s) := office_doActs ..
  have hqueue : (settleQueue n s).stew.queue = s.stew.queue.filter fun q => n < q.1 := (congrArg StewSt.queue hoffice :)
  have hover : (settleQueue n s).stew.overflow = s.stew.overflow := (congrArg StewSt.overflow hoffice :)
  refine .of_exec hexec ?_
  generalize settleQueue n s = u at hqueue hover ⊢
  split
  · exact ⟨hqueue, fun _ => rfl⟩
  next hnot => exact ⟨hqueue, fun hdone => absurd ⟨hdone.1, hover.trans hdone.2⟩ hnot⟩

theorem does_mirrorAckLate {n : Nat} (hsteward : isSteward s = true) : Does (.mirrorAckLate n) s fun t =>
    t.stew.mirror = 1 ∧ t.stew.queue = s.stew.queue.map fun q => if q.1 ≤ n then (q.1, .none_) else q := by
  have hexec : ∃ (l : List (Nat × StewAct)) (k : Nat) (o : Bool), exec (.mirrorAckLate n) s = .next (l.foldl (fun s (q : Nat × StewAct) => doAct q.2 s)
      (onStew (fun w => { w with mirror := 1, kept := k, overflow := o, queue := w.queue.map fun q => if q.1 ≤ n then (q.1, .none_) else q }) s)) := by
    change ∃ (l : List (Nat × StewAct)) (k : Nat) (o : Bool), execMirrorAckLate n s = _
    unfold execMirrorAckLate
    rw [if_neg (by rw [hsteward]; decide)]
    exact ⟨_, _, _, rfl⟩
  obtain ⟨l, k, o, hexec⟩ := hexec
  have hoffice := office_doActs l
    (onStew (fun w => { w with mirror := 1, kept := k, overflow := o, queue := w.queue.map fun q => if q.1 ≤ n then (q.1, .none_) else q }) s)
  exact .of_exec hexec ⟨(congrArg StewSt.mirror hoffice :), (congrArg StewSt.queue hoffice :)⟩

/-! ### SNAPSHOT -/

theorem stew_applyRecords (rs : List MirrorRec) (s : State) :
    ∃ ms js, (rs.foldl (fun s r => applyRecord r s) s).stew = { s.stew with ledger := s.stew.ledger ++ rs, members := ms, jobs := js } := by
  induction rs generalizing s with
  | nil => exact ⟨s.stew.members, s.stew.jobs, by rw [List.append_nil]; rfl⟩
  | cons r rs ih =>
    obtain ⟨ms, js, hrest⟩ := ih (applyRecord r s)
    obtain ⟨_, _, hfirst⟩ := stew_applyRecord r s
    refine ⟨ms, js, ?_⟩
    rw [List.foldl_cons, hrest, hfirst]
    simp only [List.append_assoc, List.singleton_append]

theorem does_snapshot {base : Nat} {rs : List MirrorRec} (hsteward : isSteward s = false) (hdesignated : designated s (me s) ≠ 0)
    (hnone : s.stew.snapParts = []) : Does (.snapshot base 0 1 rs) s fun t =>
      t.stew.ledger = rs ∧ t.stew.applied = base ∧ t.stew.mirror = 0 ∧ t.stew.snapParts = [] := by
  set u := onStew (fun w => { w with ledger := [], snapParts := [], snapBase := base, members := [], jobs := [] })
    (onSteer (fun t => { t with issued := [] }) s) with hu
  have hparts : u.stew.snapParts = [] := rfl
  have hledger : u.stew.ledger = [] := rfl
  obtain ⟨ms, js, hstew⟩ := stew_applyRecords rs u
  have hexec : exec (.snapshot base 0 1 rs) s = .next (onStew (fun w => { w with
      snapParts := [], applied := base, mirror := 0, role := if w.role = 2 then 3 else w.role }) (rs.foldl (fun s r => applyRecord r s) u)) := by
    change execSnapshot base 0 1 rs s = _
    unfold execSnapshot
    rw [if_neg (by rw [hsteward]; exact not_or.mpr ⟨Bool.false_ne_true, hdesignated⟩)]
    have hreset : s.stew.snapParts = [] ∨ s.stew.snapBase ≠ base := .inl hnone
    dsimp only
    rw [if_pos hreset, ← hu, hparts, if_neg (by decide), hstew, hparts]
    rfl
  refine .of_exec hexec ?_
  rw [onStew, hstew, hledger]
  exact ⟨rfl, rfl, rfl, rfl⟩

/-! ### The twin -/

theorem does_twinLost {flap : Bool} (hdesignated : designated s (me s) ≠ 0) (hup : s.stew.twinUp = true) : Does (.twinLost flap) s fun t =>
    t.stew.twinUp = false ∧ t.stew.role = (if s.stew.role = 3 then 4 else s.stew.role) ∧ t.stew.mirror = if s.stew.mirror = 0 then 1 else s.stew.mirror := by
  have hexec : ∃ a b c, exec (.twinLost flap) s = .next (logRec 0x2023 0x2000 1 a b c
      (onStew (fun w => { w with twinUp := false, role := if w.role = 3 then 4 else w.role, mirror := if w.mirror = 0 then 1 else w.mirror }) s)) :=
    ⟨_, _, _, if_neg (by rw [hup]; exact not_or.mpr ⟨hdesignated, by decide⟩)⟩
  obtain ⟨a, b, c, hexec⟩ := hexec
  refine .of_exec hexec ?_
  rw [logRec_stew]
  exact ⟨rfl, rfl, rfl⟩

theorem does_twinRestored (hdesignated : designated s (me s) ≠ 0) (hdown : s.stew.twinUp = false) : Does .twinRestored s fun t =>
    t.stew.twinUp = true ∧ (s.stew.role = 4 → t.stew.role = 2) ∧ (isSteward s = true ∧ s.stew.mirror = 2 ∧ s.stew.twinPower = true →
      t.stew.mirror = 1 ∧ ∃ m : Msg, m.chan = .twin ∧ m.kind = 0x20B ∧ t.sent = m :: s.sent) := by
  set u := onStew (fun w => { w with twinUp := true, role := if w.role = 4 then 2 else w.role }) s with hu
  have hexec : ∃ a, exec .twinRestored s = .next (if isSteward (logRec 0x2023 0x2000 2 0 a 0 (startSync u))
      then syncStandby (logRec 0x2023 0x2000 2 0 a 0 (startSync u)) else logRec 0x2023 0x2000 2 0 a 0 (startSync u)) :=
    ⟨_, if_neg (by rw [hdown]; exact not_or.mpr ⟨hdesignated, Bool.false_ne_true⟩)⟩
  obtain ⟨a, hexec⟩ := hexec
  have hsent : (logRec 0x2023 0x2000 2 0 a 0 (startSync u)).sent = s.sent := by
    rw [logRec_sent, (startSync_law u).1 .sent (by decide)]
    rfl
  have hstew : ∃ r, (logRec 0x2023 0x2000 2 0 a 0 (startSync u)).stew = { u.stew with role := r } ∧ (s.stew.role = 4 → r = 2) ∧ (s.stew.role = 5 → r = 5) := by
    rw [logRec_stew]
    unfold startSync
    split
    next hidle =>
      have hone : (if s.stew.role = 4 then 2 else s.stew.role) = 1 := hidle.1
      refine ⟨2, rfl, fun _ => rfl, fun hfive => ?_⟩
      rw [hfive] at hone
      exact absurd hone (by decide)
    next =>
      refine ⟨u.stew.role, rfl, fun hfour => ?_, fun hfive => ?_⟩
      · exact if_pos hfour
      · exact (if_neg (by rw [hfive]; decide)).trans hfive
  obtain ⟨r, hstew, hfour, hfive⟩ := hstew
  refine .of_exec hexec ?_
  generalize logRec 0x2023 0x2000 2 0 a 0 (startSync u) = v at hsent hstew ⊢
  have hother : ∀ t : State, t.stew.twinUp = v.stew.twinUp → t.stew.role = v.stew.role → t.stew.twinUp = true ∧ (s.stew.role = 4 → t.stew.role = 2) := by
    intro t htwin hrole
    rw [htwin, hrole, hstew]
    exact ⟨rfl, hfour⟩
  have hsynced : (syncStandby v).stew.twinUp = v.stew.twinUp ∧ (syncStandby v).stew.role = v.stew.role := by
    unfold syncStandby
    dsimp only
    split
    · rw [stew_twinSend]
      exact ⟨rfl, rfl⟩
    · rw [foldl_keeps (read := State.stew) (f := fun (s : State) (r : MirrorRec) => twinSend 0x209 ([r.seq, r.kind] ++ r.data) s)
        (fun _ _ => stew_twinSend ..)]
      exact ⟨rfl, rfl⟩
  split
  next =>
    obtain ⟨htwin, hrole⟩ := hother _ hsynced.1 hsynced.2
    refine ⟨htwin, hrole, fun ⟨hsteward, hmirror, hpower⟩ => ?_⟩
    have hmirror' : v.stew.mirror = 2 := by rw [hstew]; exact hmirror
    have hauth : hasAuthority v = true := by
      rw [hasAuthority, hstew]
      exact (authority_of_steward hsteward :)
    have hpower' : v.stew.twinPower = true := by rw [hstew]; exact hpower
    have hup : v.stew.twinUp = true := by
      rw [hstew]
      rfl
    have hsync : syncStandby v = twinSend 0x20B ([v.stew.seq, 0, 1] ++ v.stew.ledger.flatMap recordWords)
        (onStew (fun w => { w with overflow := false, kept := 0, mirror := 1 }) v) := if_pos (.inr hmirror')
    rw [hsync, stew_twinSend, sent_twinSend (s := onStew (fun w => { w with overflow := false, kept := 0, mirror := 1 }) v) hpower' hup hauth, ← hsent]
    exact ⟨rfl, _, rfl, rfl, rfl⟩
  next hnot =>
    obtain ⟨htwin, hrole⟩ := hother v rfl rfl
    refine ⟨htwin, hrole, fun ⟨hsteward, _, _⟩ => absurd ?_ hnot⟩
    rw [isSteward, hasAuthority, hstew, hfive (role_of_steward hsteward)]
    exact (authority_of_steward hsteward :)

/-! ### STATUS, the rebuild and the configuration -/

section
variable {h : Hdr}

theorem does_status {b : StatusBody} (hfresh : Fresh s h 0x212 false) (hsteward : isSteward s = true) (hrebuild : s.stew.rebuilding = true) :
    Does (.status h b) s fun t => t.stew.statuses = (h.src, b) :: s.stew.statuses := by
  obtain ⟨_, _, _, hheard⟩ := stew_heard (h := h) (kind := 0x212) (steward := false) (s := s)
  have hexec : exec (.status h b) s = .next (onStew (fun w => { w with statuses := (h.src, b) :: w.statuses }) (heard h 0x212 false s)) := by
    change execStatus h b s = _
    unfold execStatus
    rw [recv_of_fresh hfresh, if_pos ⟨(isSteward_heard ..).trans hsteward, by rw [hheard]; exact hrebuild⟩]
  refine .of_exec hexec ?_
  rw [onStew, hheard]

theorem noted_of_quiet {kind : Nat} (hquiet : h.ackReq = false) : ∃ seen, (noted h kind s).stew = { s.stew with seen := seen } ∧ (noted h kind s).sent = s.sent := by
  have hacked : acked h s = countHub 0x10 0 false s := if_neg (by rw [hquiet]; decide)
  rw [noted, onStew, hacked, countHub_stew, countHub_sent]
  exact ⟨_, rfl, rfl⟩

/-- A message that asks for no acknowledgement and brings no later epoch leaves all but the hub's counts and the messages seen. -/
theorem heard_of_quiet {kind : Nat} {steward : Bool} (hquiet : h.ackReq = false) (hepoch : h.epoch.toNat ≤ s.steer.epoch.toNat) :
    ∃ seen, (heard h kind steward s).stew = { s.stew with seen := seen } ∧ (heard h kind steward s).sent = s.sent
      ∧ (heard h kind steward s).steer = s.steer := by
  obtain ⟨seen, hstew, hsent⟩ := noted_of_quiet (s := s) (kind := kind) hquiet
  have hsteer : (noted h kind s).steer = s.steer := (noted_law h kind s).1 .steer (by decide)
  refine ⟨seen, ?_⟩
  unfold heard
  split
  · refine ⟨hstew, hsent, ?_⟩
    rw [onSteer, hsteer, if_neg fun hlater => absurd hlater.1 (Nat.not_lt.mpr hepoch)]
  · exact ⟨hstew, hsent, hsteer⟩

theorem does_statusReq {chart : Bool} (hfresh : Fresh s h 0x211 (s.stew.active == some h.src)) (hquiet : h.ackReq = false)
    (hcfg : cfgEpoch s ≤ h.configEpoch.toNat) (hauth : hasAuthority s = true) (hepoch : h.epoch.toNat ≤ s.steer.epoch.toNat) :
    Does (.statusReq h chart) s fun t => Tells s t h.src 0x212 (statusBody s chart) := by
  obtain ⟨seen, hstew, hsent, hsteer⟩ := heard_of_quiet (s := s) (kind := 0x211) (steward := s.stew.active == some h.src) hquiet hepoch
  have hlaw := heard_law h 0x211 (s.stew.active == some h.src) s
  have hctxs : (heard h 0x211 (s.stew.active == some h.src) s).ctxs = s.ctxs := hlaw.1 .ctxs (by decide)
  have hckpt : (heard h 0x211 (s.stew.active == some h.src) s).ckpt = s.ckpt := hlaw.1 .ckpt (by decide)
  have htime : (heard h 0x211 (s.stew.active == some h.src) s).time = s.time := hlaw.1 .time (by decide)
  have hexec : exec (.statusReq h chart) s = .next (sendCfg h (ctlSend h.src 0x212
      (statusBody (heard h 0x211 (s.stew.active == some h.src) s) chart) (heard h 0x211 (s.stew.active == some h.src) s))) := by
    change execStatusReq h chart s = _
    unfold execStatusReq
    rw [recv_of_fresh hfresh]
  generalize heard h 0x211 (s.stew.active == some h.src) s = u at hexec hstew hsent hsteer hctxs hckpt htime
  have hbody : statusBody u chart = statusBody s chart := by
    have hctx : ∀ c, ctx u c = ctx s c := fun c => ctx_of_ctxs hctxs c
    have hslot : ∀ c b, slotSt u c b = slotSt s c b := fun c b => by rw [slotSt, slotSt, hckpt]
    simp only [statusBody, ckptWords, isArbiter, namedArbiter, hasAuthority, me, hctx, hslot, hckpt, hsteer, hstew]
  have hcfg' : sendCfg h (ctlSend h.src 0x212 (statusBody s chart) u) = ctlSend h.src 0x212 (statusBody s chart) u := by
    have hsame : (ctlSend h.src 0x212 (statusBody s chart) u).stew.cfg = s.stew.cfg :=
      (congrArg StewSt.cfg (office_ctlSend u h.src 0x212 (statusBody s chart)) :).trans (congrArg StewSt.cfg hstew :)
    unfold sendCfg
    rw [hsame]
    rw [cfgEpoch] at hcfg
    cases hc : s.stew.cfg with
    | none => rfl
    | some c =>
      rw [hc] at hcfg
      exact if_neg (Nat.not_lt.mpr hcfg)
  rw [hbody, hcfg'] at hexec
  have hauth' : hasAuthority u = true := by
    rw [hasAuthority, hstew]
    exact hauth
  exact .of_exec hexec ((tells_ctlSend hauth' _ _ _).of_same hsent hsteer htime (congrArg StewSt.cfg hstew :) (congrArg StewSt.msgid hstew :))

theorem does_rebuildStatusWait (hsteward : isSteward s = true) (hrebuild : s.stew.rebuilding = true) (hnone : s.stew.statuses = [])
    (hchart : s.steer.chart ≠ []) : Does .rebuildStatusWait s fun t => t.stew.rebuilding = false ∧ t.stew.seq = s.stew.seq + 1 := by
  have hnewest : newestChart s = s.steer.chart := by rw [newestChart, hnone, List.foldl_nil]
  have hexec : ∃ is commit ms es, exec .rebuildStatusWait s = .next (issueChart 1 commit ms es none
      (onSteer (fun t => { t with issued := is }) (onStew (fun w => { w with rebuilding := false }) s))) := by
    change ∃ is commit ms es, execRebuildStatusWait s = _
    unfold execRebuildStatusWait
    rw [if_pos ⟨hsteward, hrebuild⟩, hnewest, hnone, List.foldl_nil, if_neg hchart]
    exact ⟨_, _, _, _, rfl⟩
  obtain ⟨is, commit, ms, es, hexec⟩ := hexec
  have hissued : ∀ kind data a ed f, ∃ ms js, (updIssued ed f (record kind data a (onSteer (fun t => { t with issued := is })
      (onStew (fun w => { w with rebuilding := false }) s)))).stew = { s.stew with
        rebuilding := false, seq := s.stew.seq + 1, ledger := s.stew.ledger ++ [⟨s.stew.seq + 1, kind, data⟩], members := ms, jobs := js,
        queue := s.stew.queue ++ [(s.stew.seq + 1, a)] } := fun kind data a ed f =>
    stew_record (s := onSteer (fun t => { t with issued := is }) (onStew (fun w => { w with rebuilding := false }) s)) hsteward
  refine .of_exec hexec ?_
  unfold issueChart
  dsimp only
  obtain ⟨_, _, hstew⟩ := hissued 2 _ _ _ _
  rw [hstew]
  exact ⟨rfl, rfl⟩

theorem cfg_record (kind : Nat) (data : List Nat) (a : StewAct) (s : State) : (record kind data a s).stew.cfg = s.stew.cfg := by
  cases hsteward : isSteward s
  · rw [record, if_pos hsteward]
  · obtain ⟨_, _, hstew⟩ := stew_record (kind := kind) (data := data) (a := a) hsteward
    rw [hstew]

theorem cfg_replan (s : State) : (replan s).stew.cfg = s.stew.cfg := by
  have hissue : ∀ a b ms es, (issueChart a b ms es none s).stew.cfg = s.stew.cfg := fun _ _ _ _ => cfg_record ..
  unfold replan
  split
  · rfl
  · dsimp only
    split
    · rfl
    · exact hissue ..

theorem cfg_roleAfter (s : State) : (roleAfter s).stew.cfg = s.stew.cfg := by
  unfold roleAfter
  dsimp only
  split
  · split
    · rw [stopSteward, onStew, logRec_stew]
      rfl
    · rfl
  · split <;> rfl

theorem cfg_adoptCfg (c : PodCfg) (s : State) : (adoptCfg c s).stew.cfg = some c := by
  have harb : ∀ f (u : State), (onArb f u).stew.cfg = u.stew.cfg := fun _ _ => rfl
  have hrole : (roleAfter (onStew (fun w => { w with cfg := some c }) s)).stew.cfg = some c := cfg_roleAfter _
  unfold adoptCfg
  dsimp only
  rw [(removeCheck_law _).1 .stew (by decide), cfg_replan, cfg_record]
  split
  · exact hrole
  · rw [harb, hrole]

theorem does_podConfig {c : PodCfg} (hfresh : Fresh s h 0x213 false) (hok : cfgOk c = true)
    (hnewer : ∀ x, s.stew.cfg = some x → x.epoch.toNat < c.epoch.toNat) : Does (.podConfig h c) s fun t => t.stew.cfg = some c := by
  obtain ⟨_, _, _, hheard⟩ := stew_heard (h := h) (kind := 0x213) (steward := false) (s := s)
  have hcfg : (heard h 0x213 false s).stew.cfg = s.stew.cfg := by rw [hheard]
  have hexec : exec (.podConfig h c) s = .next (if h.ackReq then logRec 0x202A 0x2000 c.epoch.toNat 1 0 0 (adoptCfg c (heard h 0x213 false s))
      else ctlSend h.src 0x200 [h.msgid.toNat] (logRec 0x202A 0x2000 c.epoch.toNat 1 0 0 (adoptCfg c (heard h 0x213 false s)))) := by
    change execPodConfig h c s = _
    unfold execPodConfig
    rw [recv_of_fresh hfresh]
    dsimp only
    rw [hcfg, if_neg (by rw [hok]; decide)]
    cases hc : s.stew.cfg with
    | none => rfl
    | some x => exact congrArg _ (if_pos (decide_eq_true (hnewer x hc)))
  have hadopted : (logRec 0x202A 0x2000 c.epoch.toNat 1 0 0 (adoptCfg c (heard h 0x213 false s))).stew.cfg = some c := by
    rw [logRec_stew]
    exact cfg_adoptCfg ..
  refine .of_exec hexec ?_
  generalize logRec 0x202A 0x2000 c.epoch.toNat 1 0 0 (adoptCfg c (heard h 0x213 false s)) = u at hadopted ⊢
  split
  · exact hadopted
  · exact (congrArg StewSt.cfg (office_ctlSend u h.src 0x200 [h.msgid.toNat]) :).trans hadopted

end

end

/-- Settles O24, a lemma for each row. -/
theorem mirrorComplete : Obligations.MirrorComplete :=
  ⟨fun _ _ => does_mirror, fun _ _ => does_mirrorAck, fun _ _ => does_mirrorAckLate, fun _ _ _ => does_snapshot, fun _ _ => does_twinLost,
    fun _ => does_twinRestored, fun _ _ _ => does_status, fun _ _ _ => does_statusReq, fun _ => does_rebuildStatusWait, fun _ _ _ => does_podConfig⟩

end Sys2Proof.Machine
end

section
/-! ### The member table (14_pod_steward_and_continuity.md R286, R293 to R297) -/

namespace Sys2Proof.Machine

section
variable {s : State}

/-! ### What records leave of the members and the jobs -/

theorem members_applyRecord {r : MirrorRec} (hkind : r.kind ≠ 1) (s : State) : (applyRecord r s).stew.members = s.stew.members := by
  unfold applyRecord
  dsimp only
  split
  · next h _ => exact absurd h hkind
  all_goals rfl

theorem jobs_applyRecord {r : MirrorRec} (hslots : r.kind ≠ 5) (hparts : r.kind ≠ 6) (hjournals : r.kind ≠ 7) (s : State) :
    (applyRecord r s).stew.jobs = s.stew.jobs := by
  unfold applyRecord
  dsimp only
  split
  case h_6 h _ => exact absurd h hslots
  case h_7 h _ => exact absurd h hparts
  case h_8 h _ => exact absurd h hjournals
  all_goals rfl

theorem stew_record_applied {kind : Nat} {data : List Nat} {a : StewAct} (hsteward : isSteward s = true) :
    (record kind data a s).stew.members = (applyRecord ⟨s.stew.seq + 1, kind, data⟩ (onStew (fun w => { w with seq := s.stew.seq + 1 }) s)).stew.members
    ∧ (record kind data a s).stew.jobs = (applyRecord ⟨s.stew.seq + 1, kind, data⟩ (onStew (fun w => { w with seq := s.stew.seq + 1 }) s)).stew.jobs := by
  rw [record_of_steward hsteward, stew_twinSend]
  exact ⟨rfl, rfl⟩

theorem isSteward_record (kind : Nat) (data : List Nat) (a : StewAct) (s : State) : isSteward (record kind data a s) = isSteward s := by
  cases hsteward : isSteward s
  · rw [record, if_pos hsteward, hsteward]
  · obtain ⟨_, _, hstew⟩ := stew_record (kind := kind) (data := data) (a := a) hsteward
    rw [← hsteward]
    exact isSteward_of_reads (by rw [hstew]) (by rw [hstew])

theorem members_record {kind : Nat} (hkind : kind ≠ 1) (data : List Nat) (a : StewAct) (s : State) :
    (record kind data a s).stew.members = s.stew.members := by
  cases hsteward : isSteward s
  · rw [record, if_pos hsteward]
  · rw [(stew_record_applied hsteward).1, members_applyRecord hkind]
    rfl

theorem jobs_record {kind : Nat} (hslots : kind ≠ 5) (hparts : kind ≠ 6) (hjournals : kind ≠ 7) (data : List Nat) (a : StewAct) (s : State) :
    (record kind data a s).stew.jobs = s.stew.jobs := by
  cases hsteward : isSteward s
  · rw [record, if_pos hsteward]
  · rw [(stew_record_applied hsteward).2, jobs_applyRecord hslots hparts hjournals]
    rfl

theorem members_issueChart (flags commit : Nat) (ms : List Nat) (es : List ChEnt) (submit : Option (Nat × Nat)) (s : State) :
    (issueChart flags commit ms es submit s).stew.members = s.stew.members := members_record (by decide) ..

theorem members_reduce (gone : List Nat) (drop : ChEnt → Bool) (s : State) : (reduce gone drop s).stew.members = s.stew.members := by
  unfold reduce
  split
  · rfl
  · dsimp only
    split
    · rfl
    · exact members_issueChart ..

theorem member_of_members {t : State} (h : t.stew.members = s.stew.members) (m : Nat) : member t m = member s m := by rw [member, member, h]

theorem member_of_office {t : State} (h : office t = office s) (m : Nat) : member t m = member s m :=
  member_of_members (congrArg StewSt.members h :) m

theorem member_updMember (m : Nat) (f : Member → Member) (s : State) : member (updMember m f s) m = f (member s m) := Tbl.get_set_same ..

theorem b2n_beq_one (b : Bool) : (b2n b == 1) = b := by cases b <;> rfl

/-- A member's row recorded by the steward. -/
theorem member_recordMember {m : Nat} {k : Member} (hsteward : isSteward s = true) : member (recordMember m k s) m =
    { member s m with state := k.state, wide := k.wide, risk := k.risk, level := k.level, ctlLost := k.ctlLost } := by
  have hrow : (applyRecord ⟨s.stew.seq + 1, 1, [m, k.state, b2n k.wide, k.risk, k.level, b2n k.ctlLost]⟩
      (onStew (fun w => { w with seq := s.stew.seq + 1 }) s)).stew.members = Tbl.set s.stew.members m
        { member s m with state := k.state, wide := b2n k.wide == 1, risk := k.risk, level := k.level, ctlLost := b2n k.ctlLost == 1 } := rfl
  rw [member, recordMember, (stew_record_applied hsteward).1, hrow, Tbl.get_set_same, b2n_beq_one, b2n_beq_one]

theorem jobs_recordMember (m : Nat) (k : Member) (s : State) : (recordMember m k s).stew.jobs = s.stew.jobs :=
  jobs_record (by decide) (by decide) (by decide) ..

theorem isSteward_recordMember (m : Nat) (k : Member) (s : State) : isSteward (recordMember m k s) = isSteward s := isSteward_record ..

/-! ### Without a job, the member alone -/

theorem jobsOn_of_no_jobs (hjobs : s.stew.jobs = []) (m : Nat) : jobsOn s m = [] := by rw [jobsOn, hjobs]; rfl

theorem onWarn_of_no_jobs (hjobs : s.stew.jobs = []) (m : Nat) : onWarn m s = s := by rw [onWarn, jobsOn_of_no_jobs hjobs, List.foldl_nil]

theorem onAlert_of_no_jobs (hjobs : s.stew.jobs = []) (m : Nat) : onAlert m s = s := by rw [onAlert, jobsOn_of_no_jobs hjobs, List.foldl_nil]

/-- A risk taken, with no job to move: the member's row at most is recorded. -/
theorem takeRisk_of_no_jobs {m risk : Nat} (hjobs : s.stew.jobs = []) : takeRisk m risk s =
    if (member s m).risk = risk ∧ (member s m).level = levelOf risk (member s m).level then s
    else recordMember m { member s m with risk := risk, level := levelOf risk (member s m).level } s := by
  have hjobs' : ∀ k, (recordMember m k s).stew.jobs = [] := fun k => (jobs_recordMember ..).trans hjobs
  unfold takeRisk
  dsimp only
  rw [onWarn_of_no_jobs (hjobs' _), ite_self, onAlert_of_no_jobs (hjobs' _), ite_self]

theorem takeRisk_reads {m risk : Nat} (hjobs : s.stew.jobs = []) (hsteward : isSteward s = true) :
    (∃ l, member (takeRisk m risk s) m = { member s m with risk := risk, level := l }) ∧ (takeRisk m risk s).stew.jobs = []
      ∧ isSteward (takeRisk m risk s) = true := by
  rw [takeRisk_of_no_jobs hjobs]
  split
  next hsame =>
    refine ⟨⟨(member s m).level, ?_⟩, hjobs, hsteward⟩
    rw [← hsame.1]
  next =>
    refine ⟨⟨levelOf risk (member s m).level, ?_⟩, (jobs_recordMember ..).trans hjobs, (isSteward_recordMember ..).trans hsteward⟩
    rw [member_recordMember hsteward]

/-- A member declared failed, with no job to move. -/
theorem state_declareFailed {m cause : Nat} (hsteward : isSteward s = true) (hjobs : s.stew.jobs = []) (hup : (member s m).state ≠ 5) :
    (member (declareFailed m cause s) m).state = 5 := by
  have hsteward' : isSteward (logRec 0x2027 (0x2000 + m) m cause 0 0 s) = true := by
    rw [isSteward, hasAuthority, logRec_stew]
    exact hsteward
  unfold declareFailed
  rw [if_neg hup, jobsOn_of_no_jobs hjobs]
  dsimp only
  rw [List.foldl_nil, List.length_nil]
  have hreduced : ∀ u : State, (if cause = 4 then u else reduce [m] (fun _ => false) u).stew.members = u.stew.members := by
    intro u
    split
    · rfl
    · exact members_reduce ..
  rw [member_of_members (hreduced _), member_of_members (members_record (by decide) ..), member_updMember, member_recordMember hsteward']

end

end Sys2Proof.Machine
end

section
/-! ### Heartbeats, detection and acknowledgements (14_pod_steward_and_continuity.md R280, R290, R293 to R297) -/

namespace Sys2Proof.Machine

section
variable {s : State}

theorem does_heartbeatDue {m : Nat} (hcfg : s.stew.cfg.isSome = true) (hactive : s.stew.active = some m) (hboot : 3 ≤ bootCode s.boot.state)
    (hauth : hasAuthority s = true) : Does .heartbeatDue s fun t => Tells s t m 0x207 (heartbeatBody s) := by
  obtain ⟨c, hcfg⟩ := Option.isSome_iff_exists.mp hcfg
  have hexec : exec .heartbeatDue s = .next (ctlSend m 0x207 (heartbeatBody s) s) := by
    change execHeartbeatDue s = _
    unfold execHeartbeatDue
    rw [hcfg, hactive]
    exact if_pos hboot
  exact .of_exec hexec (tells_ctlSend hauth ..)

/-! ### HEARTBEAT -/

theorem takeGens_of_no_jobs {m : Nat} {gs : List Byte} (hjobs : s.stew.jobs = []) : takeGens m gs s = updMember m (fun k => { k with gens := gs }) s := by
  have hpeer : ∀ c g, peerGen m c g (updMember m (fun k => { k with gens := gs }) s) = updMember m (fun k => { k with gens := gs }) s := by
    intro c g
    have hnone : (updMember m (fun k => { k with gens := gs }) s).stew.jobs = [] := hjobs
    unfold peerGen
    rw [hnone]
    rfl
  have hfold : ∀ (old : List Byte) (l : List Nat), l.foldl (fun s c => if gs.getD c 0 ≠ old.getD c 0 then peerGen m c (gs.getD c 0) s else s)
      (updMember m (fun k => { k with gens := gs }) s) = updMember m (fun k => { k with gens := gs }) s := by
    intro old l
    induction l with
    | nil => rfl
    | cons c l ih => rw [List.foldl_cons, hpeer, ite_self, ih]
  unfold takeGens
  dsimp only
  split
  · rfl
  · exact hfold _ _

/-- A member whose taps have not fallen shows no loss. -/
theorem locateAt_of_no_taps {m p : Nat} (htaps : (member s m).taps = []) : locateAt m p s = s := by
  have hfall : ∀ i ch, memberFall s m p i ch = 0 := fun i ch => by rw [memberFall, htaps]; rfl
  have hnone : ((inbound s m p).filter fun x => 10 < memberFall s m p true x.2.2) = [] := by
    rw [List.filter_eq_nil_iff]
    intro x _
    rw [hfall]
    decide
  unfold locateAt
  exact if_pos hnone

/-- What a heartbeat leaves of its sender's row. -/
structure HeartTaken (s : State) (m : Nat) (b : HeartbeatBody) (now : Nat) : Prop where
  jobs : s.stew.jobs = []
  steward : isSteward s = true
  heardAt : (member s m).heardAt = now
  up : (member s m).up = b.state
  gens : (member s m).gens = b.gens
  probing : (member s m).probing = false
  taps : (member s m).taps = []

theorem HeartTaken.of_office {t : State} {m now : Nat} {b : HeartbeatBody} (h : HeartTaken s m b now) (hoffice : office t = office s) :
    HeartTaken t m b now := by
  have hm := member_of_office hoffice m
  exact ⟨(congrArg StewSt.jobs hoffice :).trans h.jobs, (isSteward_of_office hoffice).trans h.steward, hm ▸ h.heardAt, hm ▸ h.up, hm ▸ h.gens,
    hm ▸ h.probing, hm ▸ h.taps⟩

theorem HeartTaken.recordMember {m now : Nat} {b : HeartbeatBody} {k : Member} (h : HeartTaken s m b now) : HeartTaken (recordMember m k s) m b now := by
  have hm := member_recordMember (m := m) (k := k) h.steward
  exact ⟨(jobs_recordMember ..).trans h.jobs, (isSteward_recordMember ..).trans h.steward, by rw [hm]; exact h.heardAt, by rw [hm]; exact h.up,
    by rw [hm]; exact h.gens, by rw [hm]; exact h.probing, by rw [hm]; exact h.taps⟩

theorem HeartTaken.takeRisk {m now risk : Nat} {b : HeartbeatBody} (h : HeartTaken s m b now) : HeartTaken (takeRisk m risk s) m b now := by
  rw [takeRisk_of_no_jobs h.jobs]
  split
  · exact h
  · exact h.recordMember

theorem office_sendCfg (h : Hdr) (s : State) : office (sendCfg h s) = office s := by
  unfold sendCfg
  split
  · split
    · exact office_ctlSend ..
    · rfl
  · rfl

theorem does_heartbeat {h : Hdr} {b : HeartbeatBody} (hfresh : Fresh s h 0x207 false) (hsteward : isSteward s = true) (hjobs : s.stew.jobs = [])
    (htaps : b.taps = []) (hrun : b.state ≠ 6) : Does (.heartbeat h b) s fun t => (member t h.src).heardAt = s.now ∧ (member t h.src).up = b.state
      ∧ (member t h.src).gens = b.gens ∧ (member t h.src).probing = false ∧ (member t h.src).risk = b.risk := by
  obtain ⟨_, _, _, hheard⟩ := stew_heard (h := h) (kind := 0x207) (steward := false) (s := s)
  have hsteward' : isSteward (heard h 0x207 false s) = true := (isSteward_heard ..).trans hsteward
  have hjobs' : (heard h 0x207 false s).stew.jobs = [] := by rw [hheard]; exact hjobs
  have hnow := now_heard (s := s) h 0x207 false
  have hexec : exec (.heartbeat h b) s = execHeartbeat h b s := rfl
  unfold execHeartbeat at hexec
  rw [recv_of_fresh hfresh, if_neg (by rw [hsteward']; decide)] at hexec
  dsimp only at hexec
  generalize heard h 0x207 false s = u at hsteward' hjobs' hnow hexec
  rw [takeGens_of_no_jobs hjobs', if_neg hrun] at hexec
  have htaken : HeartTaken (updMember h.src (fun k => { k with
      heardAt := (updMember h.src (fun k => { k with gens := b.gens }) u).now, probing := false, up := b.state, edition := b.edition,
      taps := b.taps.map fun t => (t.1.val, t.2.1, t.2.2.1.val, t.2.2.2) }) (updMember h.src (fun k => { k with gens := b.gens }) u)) h.src b s.now := by
    refine ⟨hjobs', hsteward', ?_, ?_, ?_, ?_, ?_⟩
    · rw [member_updMember]
      exact hnow
    · rw [member_updMember]
    · rw [member_updMember, member_updMember]
    · rw [member_updMember]
    · rw [member_updMember, htaps]
      rfl
  generalize updMember h.src (fun k => { k with
      heardAt := (updMember h.src (fun k => { k with gens := b.gens }) u).now, probing := false, up := b.state, edition := b.edition,
      taps := b.taps.map fun t => (t.1.val, t.2.1, t.2.2.1.val, t.2.2.2) }) (updMember h.src (fun k => { k with gens := b.gens }) u) = v at htaken hexec
  have hlost : HeartTaken (if (member u h.src).ctlLost = true then recordMember h.src { member v h.src with ctlLost := false } v else v) h.src b s.now := by
    split
    · exact htaken.recordMember
    · exact htaken
  generalize (if (member u h.src).ctlLost = true then recordMember h.src { member v h.src with ctlLost := false } v else v) = w at hlost hexec
  have hsent := hlost.of_office ((office_sendCfg h _).trans (office_ctlSend w h.src 0x208 [(chEdition (newest w)).toNat, b2n (decide (h.configEpoch.toNat < cfgEpoch u))]))
  generalize sendCfg h (ctlSend h.src 0x208 [(chEdition (newest w)).toNat, b2n (decide (h.configEpoch.toNat < cfgEpoch u))] w) = x at hsent hexec
  have hrisk := hsent.takeRisk (risk := b.risk)
  obtain ⟨⟨l, hl⟩, -, -⟩ := takeRisk_reads (m := h.src) (risk := b.risk) hsent.jobs hsent.steward
  generalize takeRisk h.src b.risk x = y at hrisk hl hexec
  have hlocate : ∀ l : List Nat, l.foldl (fun s p => locateAt h.src p s) y = y := by
    intro l
    induction l with
    | nil => rfl
    | cons p l ih => rw [List.foldl_cons, locateAt_of_no_taps hrisk.taps, ih]
  rw [hlocate, placeAll_of_no_jobs hrisk.jobs] at hexec
  exact .of_exec hexec ⟨hrisk.heardAt, hrisk.up, hrisk.gens, hrisk.probing, by rw [hl]⟩

theorem does_heartbeatAck {h : Hdr} {ed : Half16} {f : Bool} (hfresh : Fresh s h 0x208 true) : Does (.heartbeatAck h ed f) s fun t =>
    t.stew.active = some h.src ∧ t.stew.lastAck = s.now ∧ t.stew.hold = false := by
  have hexec : exec (.heartbeatAck h ed f) s = .next (leaveHold (startSync
      (onStew (fun w => { w with lastAck := (heard h 0x208 true s).now, active := some h.src }) (heard h 0x208 true s)))) := by
    change execHeartbeatAck h ed f s = _
    unfold execHeartbeatAck
    rw [recv_of_fresh hfresh]
  obtain ⟨r, hsync⟩ := office_startSync (onStew (fun w => { w with lastAck := (heard h 0x208 true s).now, active := some h.src }) (heard h 0x208 true s))
  have hoffice := office_leaveHold (startSync (onStew (fun w => { w with lastAck := (heard h 0x208 true s).now, active := some h.src }) (heard h 0x208 true s)))
  rw [hsync, now_heard] at hoffice
  rw [now_heard] at hexec
  exact .of_exec hexec ⟨(congrArg StewSt.active hoffice :), (congrArg StewSt.lastAck hoffice :), (congrArg StewSt.hold hoffice :)⟩

theorem does_holdEntry (hcfg : s.stew.cfg.isSome = true) (hhold : s.stew.hold = false) (hsteward : isSteward s = false)
    (hdue : s.stew.lastAck + 10000000 ≤ s.now) : Does .holdEntry s fun t => t.stew.hold = true ∧ t.stew.holdAt = s.now := by
  refine .of_exec (if_pos ⟨hcfg, hhold, hsteward, hdue⟩) ?_
  rw [(postEvent_law ..).1 .stew (by decide), logRec_stew]
  exact ⟨rfl, rfl⟩

/-! ### Silence, probes and acknowledgements -/

theorem stew_sendCopy (dst kind id flags : Nat) (body : List Nat) (s : State) : (sendCopy dst kind id flags body s).stew = s.stew :=
  (sendCopy_law ..).1 .stew (by decide)

theorem does_memberSilent {m : Modu} (hsteward : isSteward s = true) (hmember : (cfgMembers s).contains m.val = true) (hother : m.val ≠ me s)
    (hup : (member s m).state ≠ 5) (hquiet : (member s m).probing = false) (hdue : (member s m).heardAt + 10000000 ≤ s.now) :
    Does (.memberSilent m) s fun t => (member t m).probing = true
        ∧ t.stew.unacked = s.stew.unacked ++ [{ dst := m.val, kind := 0x214, msgid := s.stew.msgid, body := [], tries := 3, at_ := s.now }] := by
  refine .of_exec (if_pos ⟨hsteward, hmember, hother, hup, hquiet, hdue⟩) ?_
  rw [member, stew_sendCopy]
  exact ⟨congrArg Member.probing (member_updMember m.val (fun k => { k with probing := true, probeAt := s.now }) _), rfl⟩

theorem does_probeTimeout {m : Modu} (hsteward : isSteward s = true) (hprobing : (member s m).probing = true) (hup : (member s m).state ≠ 5)
    (hjobs : s.stew.jobs = []) (hdue : (member s m).probeAt + 2000000 ≤ s.now) : Does (.probeTimeout m) s fun t => (member t m).state = 5 :=
  .of_exec (if_pos ⟨hsteward, hprobing, hdue⟩) (state_declareFailed hsteward hjobs hup)

theorem does_probe {h : Hdr} (hfresh : Fresh s h 0x214 false) (hauth : hasAuthority s = true) :
    Does (.probe h) s fun t => Tells s t h.src 0x200 [h.msgid.toNat] := by
  have hexec : exec (.probe h) s = .next (if h.ackReq then heard h 0x214 false s else ctlSend h.src 0x200 [h.msgid.toNat] (heard h 0x214 false s)) := by
    change execProbe h s = _
    unfold execProbe
    rw [recv_of_fresh hfresh]
  have hcounted : hasAuthority (countHub 0x10 0 false s) = true := by rw [hasAuthority, countHub_stew]; exact hauth
  refine .of_exec hexec ?_
  cases hack : h.ackReq
  · have hacked : acked h s = countHub 0x10 0 false s := if_neg (by rw [hack]; decide)
    obtain ⟨seen, hstew, hsent⟩ := noted_of_quiet (s := s) (h := h) (kind := 0x214) hack
    rw [if_neg Bool.false_ne_true]
    exact (tells_ctlSend ((hasAuthority_heard ..).trans hauth) _ _ _).of_same hsent (steer_heard ..) ((heard_law ..).1 .time (by decide))
      (congrArg StewSt.cfg hstew :) (congrArg StewSt.msgid hstew :)
  · have hacked : acked h s = ctlSend h.src 0x200 [h.msgid.toNat] (countHub 0x10 0 false s) := if_pos hack
    have hsent : (heard h 0x214 false s).sent = (ctlSend h.src 0x200 [h.msgid.toNat] (countHub 0x10 0 false s)).sent := by
      rw [heard, if_neg Bool.false_ne_true, noted, onStew, hacked]
    have htells := (tells_ctlSend hcounted h.src 0x200 [h.msgid.toNat]).of_same (s := s) (countHub_sent ..) (countHub_steer ..) (countHub_time ..)
      (by rw [countHub_stew]) (by rw [countHub_stew])
    rw [if_pos rfl, Tells, hsent]
    exact htells

theorem unacked_ctlSend_ack (dst : Nat) (body : List Nat) (s : State) : (ctlSend dst 0x200 body s).stew.unacked = s.stew.unacked := by
  unfold ctlSend
  dsimp only
  rw [stew_ctlOut]
  rfl

/-- What an ACK leaves of the messages that wait for theirs. -/
theorem unacked_heard (h : Hdr) (kind : Nat) (s : State) : (heard h kind false s).stew.unacked = s.stew.unacked := by
  have hacked : (acked h s).stew.unacked = s.stew.unacked := by
    unfold acked
    split
    · rw [unacked_ctlSend_ack, countHub_stew]
    · rw [countHub_stew]
  exact hacked

theorem member_heard (h : Hdr) (kind : Nat) (m : Nat) : member (heard h kind false s) m = member s m := by
  obtain ⟨_, _, _, hheard⟩ := stew_heard (h := h) (kind := kind) (steward := false) (s := s)
  rw [member, member, hheard]

section
variable {h : Hdr} {of : Half16} {u : CtlMsg}

/-- An acknowledged message waits no more. -/
def ackTaken (u : CtlMsg) (s : State) : State := onStew (fun w => { w with unacked := w.unacked.erase u }) s

/-- An acknowledged probe is over. -/
def probeTaken (m : Nat) (u : CtlMsg) (s : State) : State := updMember m (fun k => { k with probing := false }) (ackTaken u s)

theorem probeTaken_reads (m : Nat) (u : CtlMsg) (s : State) : isSteward (probeTaken m u s) = isSteward s
    ∧ (probeTaken m u s).stew.jobs = s.stew.jobs ∧ (member (probeTaken m u s) m).probing = false :=
  ⟨rfl, rfl, congrArg Member.probing (member_updMember m (fun k => { k with probing := false }) (ackTaken u s))⟩

theorem exec_ack (hfresh : Fresh s h 0x200 false) (hfind : s.stew.unacked.find? (fun u => u.msgid = of.toNat ∧ u.dst = h.src) = some u) :
    exec (.ack h of) s = .next (if u.kind = 0x214 ∧ (member s h.src).probing = true
      then takeRisk h.src (min 1000 ((member s h.src).risk + 200)) (recordMember h.src
        { member (probeTaken h.src u (heard h 0x200 false s)) h.src with ctlLost := true } (probeTaken h.src u (heard h 0x200 false s)))
      else ackTaken u (heard h 0x200 false s)) := by
  have hm : ∀ v : State, member (onStew (fun w => { w with unacked := w.unacked.erase u }) v) h.src = member v h.src := fun _ => rfl
  change execAck h of s = _
  unfold execAck
  rw [recv_of_fresh hfresh, unacked_heard, hfind]
  dsimp only
  rw [hm, member_heard]
  rfl

theorem does_ack (hfresh : Fresh s h 0x200 false) (hfind : s.stew.unacked.find? (fun u => u.msgid = of.toNat ∧ u.dst = h.src) = some u)
    (hkind : u.kind ≠ 0x214) : Does (.ack h of) s fun t => t.stew.unacked = s.stew.unacked.erase u := by
  refine .of_exec (exec_ack hfresh hfind) ?_
  rw [if_neg fun hp => hkind hp.1, ackTaken, onStew, unacked_heard]

theorem does_ack_probed (hfresh : Fresh s h 0x200 false) (hfind : s.stew.unacked.find? (fun u => u.msgid = of.toNat ∧ u.dst = h.src) = some u)
    (hkind : u.kind = 0x214) (hprobing : (member s h.src).probing = true) (hsteward : isSteward s = true) (hjobs : s.stew.jobs = []) :
    Does (.ack h of) s fun t => (member t h.src).probing = false ∧ (member t h.src).ctlLost = true
            ∧ (member t h.src).risk = min 1000 ((member s h.src).risk + 200) := by
  obtain ⟨_, _, _, hheard⟩ := stew_heard (h := h) (kind := 0x200) (steward := false) (s := s)
  have hexec := exec_ack hfresh hfind
  rw [if_pos ⟨hkind, hprobing⟩] at hexec
  obtain ⟨hsteward', hjobs', hprobed⟩ := probeTaken_reads h.src u (heard h 0x200 false s)
  rw [isSteward_heard, hsteward] at hsteward'
  rw [hheard, hjobs] at hjobs'
  generalize probeTaken h.src u (heard h 0x200 false s) = v at hsteward' hjobs' hprobed hexec
  have hrow := member_recordMember (m := h.src) (k := { member v h.src with ctlLost := true }) hsteward'
  obtain ⟨⟨l, hl⟩, -, -⟩ := takeRisk_reads (m := h.src) (risk := min 1000 ((member s h.src).risk + 200))
    (s := recordMember h.src { member v h.src with ctlLost := true } v) ((jobs_recordMember ..).trans hjobs') ((isSteward_recordMember ..).trans hsteward')
  refine .of_exec hexec ?_
  rw [hl, hrow]
  exact ⟨hprobed, rfl, rfl⟩

end

theorem sent_sendCopy (dst kind id flags : Nat) (body : List Nat) (s : State) : (sendCopy dst kind id flags body s).sent = s.sent :=
  (sendCopy_law ..).1 .sent (by decide)

theorem does_ackRetransmit {of : Half16} {u : CtlMsg} (hfind : s.stew.unacked.find? (fun u => u.msgid = of.toNat) = some u) (hfew : u.tries < 3)
    (hdue : u.at_ + 1000000 ≤ s.now) (hauth : hasAuthority s = true) : Does (.ackRetransmit of) s fun t =>
      t.stew.unacked = s.stew.unacked.map (fun x => if x = u then { u with tries := u.tries + 1, at_ := s.now } else x)
        ∧ t.sent = ⟨.ctl, u.kind, u.dst :: (ctlBytes s u.dst u.kind u.msgid 5 (bodyBytes u.kind u.body)).map BitVec.toNat⟩ :: s.sent := by
  have hexec : exec (.ackRetransmit of) s = .next (sendCopy u.dst u.kind u.msgid 7 u.body (ctlOut u.dst u.kind u.msgid 5 u.body
      (onStew (fun w => { w with unacked := w.unacked.map fun x => if x = u then { u with tries := u.tries + 1, at_ := s.now } else x }) s))) := by
    change execAckRetransmit of s = _
    unfold execAckRetransmit
    have hlate : ¬s.now < u.at_ + msNs := Nat.not_lt.mpr hdue
    rw [hfind]
    dsimp only
    rw [if_neg hlate, if_neg (by omega)]
  refine .of_exec hexec ?_
  rw [stew_sendCopy, stew_ctlOut, sent_sendCopy]
  exact ⟨rfl, congrArg State.sent (if_pos hauth)⟩

end

end Sys2Proof.Machine
end

section
/-! ### Reports, jobs and risk (14_pod_steward_and_continuity.md R294 to R301) -/

namespace Sys2Proof.Machine

section
variable {s : State} {h : Hdr}

/-! ### EVENT_REPORT and MODULE_EVENT -/

theorem exec_eventReport {f : FaultRec} (hfresh : Fresh s h 0x20C false) (hsteward : isSteward s = true) :
    exec (.eventReport h f) s = .next (match codePlane f.code.toNat with
      | some p => fabricReport h.src p f (heard h 0x20C false s)
      | none =>
        if f.code.toNat = 0x0801 ∧ (f.p0.toNat = 6 ∨ f.p0.toNat = 7) then declareFailed h.src 2 (heard h 0x20C false s)
        else if f.code.toNat = 0x0801 ∧ f.p0.toNat = 4 then
          record 8 [h.src, 4] (.event h.src (drawFree 7 (heard h 0x20C false s)).1 0xFF 0) (drawFree 7 (heard h 0x20C false s)).2
        else if f.code.toNat = 0x4004 ∧ f.p1.toNat = 1 then onRemoval h.src (heard h 0x20C false s)
        else heard h 0x20C false s) := by
  change execEventReport h f s = _
  unfold execEventReport
  rw [recv_of_fresh hfresh]
  exact congrArg Host.Outcome.next (if_neg (by rw [isSteward_heard, hsteward]; decide))

theorem retiredLanes_dropPlane (p m : Nat) (s : State) : (p, m) ∈ (dropPlane p m s).steer.retiredLanes := by
  have hkept : (dropPlane p m s).steer.retiredLanes = ((p, m) :: s.steer.retiredLanes).dedup := by
    have hreduce := besidePlan_reduce [] (fun e => e.plane == p && (e.a == m || e.b == m))
      (onSteer (fun t => { t with retiredLanes := ((p, m) :: t.retiredLanes).dedup }) s)
    exact (congrArg SteerSt.retiredLanes hreduce :)
  rw [hkept, List.mem_dedup]
  exact List.mem_cons_self ..

theorem does_eventReport_plane {f : FaultRec} {p : Nat} (hfresh : Fresh s h 0x20C false) (hsteward : isSteward s = true) (hp : p < 16)
    (hcode : f.code.toNat = 0x1004 + 256 * p) : Does (.eventReport h f) s fun t => (p, h.src) ∈ t.steer.retiredLanes := by
  have hexec := exec_eventReport (f := f) hfresh hsteward
  have hplane : codePlane f.code.toNat = some p := by
    unfold codePlane
    rw [hcode, if_pos (by omega)]
    congr 1
    omega
  have hlow : f.code.toNat % 256 = 4 := by omega
  have hreport : ∀ u, fabricReport h.src p f u = dropPlane p h.src u := by
    intro u
    unfold fabricReport
    dsimp only
    rw [hlow]
    rfl
  rw [hplane] at hexec
  refine .of_exec hexec ?_
  dsimp only
  rw [hreport]
  exact retiredLanes_dropPlane ..

theorem does_eventReport_fenced {f : FaultRec} (hfresh : Fresh s h 0x20C false) (hsteward : isSteward s = true) (hcode : f.code.toNat = 0x0801)
    (hfenced : f.p0.toNat = 6) (hup : (member s h.src).state ≠ 5) (hjobs : s.stew.jobs = []) :
    Does (.eventReport h f) s fun t => (member t h.src).state = 5 := by
  obtain ⟨_, _, _, hheard⟩ := stew_heard (h := h) (kind := 0x20C) (steward := false) (s := s)
  have hexec := exec_eventReport (f := f) hfresh hsteward
  have hplane : codePlane f.code.toNat = none := by rw [hcode]; decide
  rw [hplane] at hexec
  dsimp only at hexec
  rw [if_pos ⟨hcode, .inl hfenced⟩] at hexec
  exact .of_exec hexec (state_declareFailed ((isSteward_heard ..).trans hsteward) (by rw [hheard]; exact hjobs) (by rw [member_heard]; exact hup))

theorem eventReady_of_reads {t : State} {c : Option Nat} {r : Nat} (hready : EventReady s c r) (hhst : t.hst = s.hst) (hinv : Inv t) : EventReady t c r := by
  obtain ⟨hring, hlost, hfree, hdma, -⟩ := hready
  have hsame : ∀ i, ring t i = ring s i := ring_of_hst hhst
  refine ⟨?_, by rw [hhst]; exact hlost, by rw [hsame]; exact hfree, (canDma_of_hst hhst).trans hdma, hinv⟩
  rw [eventRing] at hring ⊢
  rw [hhst]
  simp only [hsame]
  exact hring

theorem posted_of_reads {s' t : State} {r code source p0 p1 p2 p3 : Nat} {c : Option Nat} (h : Posted s' t r code source c p0 p1 p2 p3)
    (hhst : s'.hst = s.hst) (hctxs : s'.ctxs = s.ctxs) : Posted s t r code source c p0 p1 p2 p3 := by
  rw [Posted, ring_of_hst hhst] at h
  simp only [ctx_of_ctxs hctxs] at h
  exact h

theorem does_moduleEvent {m : Modu} {k c : Nat} {g : Byte} {r : Nat} (hfresh : Fresh s h 0x20D true) (hready : EventReady s none r) :
    Does (.moduleEvent h m k c g) s fun t => Posted s t r 0x2042 0x2000 none m k c g.toNat := by
  have hlaw := heard_law h 0x20D true s
  have hexec : exec (.moduleEvent h m k c g) s = .next (postEvent 0x2042 0x2000 none m.val k c g.toNat (heard h 0x20D true s)) := by
    change execModuleEvent h m k c g s = _
    unfold execModuleEvent
    rw [recv_of_fresh hfresh]
  have hready' := eventReady_of_reads hready (hlaw.1 .hst (by decide)) (hlaw.2 hready.2.2.2.2)
  exact .of_exec hexec (posted_of_reads (posted_postEvent hready' ..) (hlaw.1 .hst (by decide)) (hlaw.1 .ctxs (by decide)))

/-! ### BIND and JOB_CTL -/

/-- A row of the binding table as BIND writes it. -/
def bindWord (x : Bool × Ctx × Byte) : Word := BitVec.ofNat 32 (b2n x.1 * 0x80000000 + x.2.1.val * 256 + x.2.2.toNat)

theorem get_bindFold (base : Nat) (bs : List (Bool × Ctx × Byte)) (k i : Nat) (t : Tbl Word) :
    Tbl.get 0 ((bs.zipIdx k).foldl (fun t x => Tbl.set t (base + x.2) (bindWord x.1)) t) (base + i)
      = if k ≤ i then (match bs[i - k]? with
        | some x => bindWord x
        | none => Tbl.get 0 t (base + i)) else Tbl.get 0 t (base + i) := by
  induction bs generalizing k t with
  | nil => simp
  | cons b bs ih =>
    rw [List.zipIdx_cons, List.foldl_cons, ih (k + 1), Tbl.get_set]
    rcases Nat.lt_trichotomy i k with hlt | rfl | hgt
    · rw [if_neg (by omega), if_neg (by omega), if_neg (by omega)]
    · rw [if_neg (by omega), if_pos rfl, if_pos le_rfl, Nat.sub_self]
      rfl
    · have hne : base + i ≠ base + k := by omega
      have hat : i - k = i - (k + 1) + 1 := by omega
      rw [if_pos (Nat.succ_le_of_lt hgt), if_neg hne, if_pos (Nat.le_of_lt hgt), hat, List.getElem?_cons_succ]

theorem does_bind {c : Ctx} {bs : List (Bool × Ctx × Byte)} (hfresh : Fresh s h 0x20E true) (hfits : bs.length ≤ 32) :
    Does (.bind h c bs) s fun t => ∀ (i : Nat) (x : Bool × Ctx × Byte), bs[i]? = some x
      → Tbl.get 0 t.steer.bind (32 * c + i) = BitVec.ofNat 32 (b2n x.1 * 0x80000000 + x.2.1 * 256 + x.2.2.toNat) := by
  have hexec : exec (.bind h c bs) s = .next (onSteer (fun t => { t with
      bind := (bs.zipIdx 0).foldl (fun t x => Tbl.set t (32 * c.val + x.2) (bindWord x.1)) t.bind }) (heard h 0x20E true s)) := by
    change execBind h c bs s = _
    unfold execBind
    rw [recv_of_fresh hfresh, List.take_of_length_le hfits]
    rfl
  refine .of_exec hexec fun i x hx => ?_
  have hget := get_bindFold (32 * c.val) bs 0 i (heard h 0x20E true s).steer.bind
  rw [if_pos (Nat.zero_le i), Nat.sub_zero, hx] at hget
  exact hget

section
variable {j : Word} {c : Ctx} {step n : Word}

theorem does_jobCtl_load {r : Nat} (hfresh : Fresh s h 0x20F true) (hready : EventReady s (some c.val) r) :
    Does (.jobCtl h j c 3 step n) s fun t => Posted s t r 0x2043 0x2000 (some c.val) j.toNat c n.toNat step.toNat := by
  have hlaw := heard_law h 0x20F true s
  have hexec : exec (.jobCtl h j c 3 step n) s = .next (postEvent 0x2043 0x2000 (some c.val) j.toNat c.val n.toNat step.toNat (heard h 0x20F true s)) := by
    change execJobCtl h j c 3 step n s = _
    unfold execJobCtl
    rw [recv_of_fresh hfresh]
    rfl
  have hready' := eventReady_of_reads hready (hlaw.1 .hst (by decide)) (hlaw.2 hready.2.2.2.2)
  exact .of_exec hexec (posted_of_reads (posted_postEvent hready' ..) (hlaw.1 .hst (by decide)) (hlaw.1 .ctxs (by decide)))

theorem does_jobCtl_stop (hfresh : Fresh s h 0x20F true) (hcreated : (ctx s c).created = true) (hrun : (ctx s c).tearing = false) :
    Does (.jobCtl h j c 2 step n) s fun t => (ctx t c).tearing = true ∧ t.steer.bind = s.steer.bind.filter fun p => p.1 / 32 ≠ c.val := by
  have hctx : ctx (heard h 0x20F true s) c = ctx s c := ctx_of_ctxs ((heard_law ..).1 .ctxs (by decide)) _
  obtain ⟨e, hsteer⟩ := steer_heard_steward h 0x20F s
  have hbind : (teardown c.val none (heard h 0x20F true s)).steer.bind = s.steer.bind := by
    rw [(teardown_law ..).1 .steer (by decide), hsteer]
  have htearing := (ctx_teardown c.val none (heard h 0x20F true s)).1
  have hexec : exec (.jobCtl h j c 2 step n) s = .next (onSteer (fun t => { t with bind := t.bind.filter fun p => p.1 / 32 ≠ c.val })
      (if (ctx (heard h 0x20F true s) c).created = true ∧ (ctx (heard h 0x20F true s) c).tearing = false then teardown c.val none (heard h 0x20F true s)
        else heard h 0x20F true s)) := by
    change execJobCtl h j c 2 step n s = _
    unfold execJobCtl
    rw [recv_of_fresh hfresh]
    rfl
  rw [hctx, if_pos ⟨hcreated, hrun⟩] at hexec
  refine .of_exec hexec ?_
  generalize teardown c.val none (heard h 0x20F true s) = u at hbind htearing ⊢
  exact ⟨htearing, congrArg (List.filter fun p : Nat × Word => p.1 / 32 ≠ c.val) hbind⟩

end

/-! ### JOB_REPORT -/

theorem slotsOf_slotWords (xs : List JobSlot) : slotsOf (slotWords xs) = xs := by
  induction xs with
  | nil => rfl
  | cons x xs ih =>
    have hwords : slotWords (x :: xs) = x.modu :: x.ctx :: x.gen.toNat :: slotWords xs := rfl
    rw [hwords, slotsOf, ih, BitVec.ofNat_toNat, BitVec.setWidth_eq]

theorem job_updJob (j : Nat) (f : Job → Job) (s : State) : job (updJob j f s) j = f (job s j) := Tbl.get_set_same ..

theorem job_of_jobs {t : State} (h : t.stew.jobs = s.stew.jobs) (j : Nat) : job t j = job s j := by rw [job, job, h]

/-- A job's slots recorded. -/
theorem job_record_slots {j : Nat} {xs : List JobSlot} (hsteward : isSteward s = true) :
    job (record 5 (j :: slotWords xs) .none_ s) j = { job s j with slots := xs } := by
  have hrow : (applyRecord ⟨s.stew.seq + 1, 5, j :: slotWords xs⟩ (onStew (fun w => { w with seq := s.stew.seq + 1 }) s)).stew.jobs =
      (updJob j (fun k => { k with slots := slotsOf (slotWords xs) }) s).stew.jobs := rfl
  rw [job_of_jobs ((stew_record_applied hsteward).2.trans hrow), job_updJob, slotsOf_slotWords]

theorem jobs_bindAll (j : Nat) (gone : List Nat) (s : State) : (bindAll j gone s).stew.jobs = s.stew.jobs := by
  refine foldl_keeps (read := fun s : State => s.stew.jobs) (fun x k => ?_) _ s
  dsimp only
  split
  · rfl
  · exact jobs_record (by decide) (by decide) (by decide) ..

theorem exec_jobReport {j : Word} {b : JobBody} (hfresh : Fresh s h 0x210 false) (hsteward : isSteward s = true) : exec (.jobReport h j b) s =
    .next (match b with
      | .register _ _ ms =>
        resumeJob j.toNat (bindAll j.toNat [] (record 5 (j.toNat :: slotWords (ms.map fun x => { modu := x.1, ctx := x.2.1, gen := x.2.2 })) .none_
          (heard h 0x210 false s)))
      | .journal _ es => es.foldl (fun s e => record 7 [e.job.toNat, e.step.toNat, e.dataPos.toNat, e.rng.toNat, e.time.toNat] .none_ s) (heard h 0x210 false s)
      | .checkpoint number step slotOf st full dig =>
        match (List.range (job (heard h 0x210 false s) j.toNat).slots.length).find? fun i =>
            ((job (heard h 0x210 false s) j.toNat).slots.getD i ⟨0, 0, 0⟩).modu = h.src with
        | some i =>
          let s := record 6 [j.toNat, number.toNat, step.toNat, i, slotOf, st, b2n full, dig.toNat] .none_ (heard h 0x210 false s)
          checkLeaving j.toNat (if st = 1 then updMember h.src (fun k => { k with lastCkpt := s.now + 1 }) s else s)
        | none => heard h 0x210 false s) := by
  change execJobReport h j b s = _
  unfold execJobReport
  rw [recv_of_fresh hfresh]
  exact congrArg Host.Outcome.next (if_neg (by rw [isSteward_heard, hsteward]; decide))

theorem jobs_heard (h : Hdr) (kind : Nat) : (heard h kind false s).stew.jobs = s.stew.jobs := by
  obtain ⟨_, _, _, hheard⟩ := stew_heard (h := h) (kind := kind) (steward := false) (s := s)
  rw [hheard]

theorem does_jobReport_register {j : Word} {c : Ctx} {g : Byte} {ms : List (Nat × Nat × Byte)} (hfresh : Fresh s h 0x210 false)
    (hsteward : isSteward s = true) (hplace : (job s j.toNat).place = none) : Does (.jobReport h j (.register c g ms)) s fun t =>
      (job t j.toNat).slots = ms.map fun x => { modu := x.1, ctx := x.2.1, gen := x.2.2 } := by
  have hsteward' : isSteward (heard h 0x210 false s) = true := (isSteward_heard ..).trans hsteward
  have hbound : job (bindAll j.toNat [] (record 5 (j.toNat :: slotWords (ms.map fun x => { modu := x.1, ctx := x.2.1, gen := x.2.2 })) .none_
      (heard h 0x210 false s))) j.toNat = { job s j.toNat with slots := ms.map fun x => { modu := x.1, ctx := x.2.1, gen := x.2.2 } } := by
    rw [job_of_jobs (jobs_bindAll ..), job_record_slots hsteward', job_of_jobs (jobs_heard ..)]
  refine .of_exec (exec_jobReport hfresh hsteward) ?_
  dsimp only
  generalize bindAll j.toNat [] (record 5 (j.toNat :: slotWords (ms.map fun x => { modu := x.1, ctx := x.2.1, gen := x.2.2 })) .none_
      (heard h 0x210 false s)) = u at hbound ⊢
  have hresume : resumeJob j.toNat u = u := by
    unfold resumeJob
    rw [hbound, hplace]
  rw [hresume, hbound]

/-- A journal of a job recorded: 4096 are kept. -/
theorem job_record_journal {e : Journal} (hsteward : isSteward s = true) :
    (job (record 7 [e.job.toNat, e.step.toNat, e.dataPos.toNat, e.rng.toNat, e.time.toNat] .none_ s) e.job.toNat).journals
      = ((job s e.job.toNat).journals ++ [e]).drop ((job s e.job.toNat).journals.length + 1 - 4096) := by
  have hrow : (applyRecord ⟨s.stew.seq + 1, 7, [e.job.toNat, e.step.toNat, e.dataPos.toNat, e.rng.toNat, e.time.toNat]⟩
      (onStew (fun w => { w with seq := s.stew.seq + 1 }) s)).stew.jobs =
      (updJob e.job.toNat (fun k => { k with journals := (k.journals ++ [(⟨BitVec.ofNat 32 e.job.toNat, BitVec.ofNat 32 e.step.toNat,
        BitVec.ofNat 64 e.dataPos.toNat, BitVec.ofNat 64 e.rng.toNat, BitVec.ofNat 64 e.time.toNat⟩ : Journal)]).drop (k.journals.length + 1 - 4096) }) s).stew.jobs := rfl
  rw [job_of_jobs ((stew_record_applied hsteward).2.trans hrow), job_updJob]
  simp only [BitVec.ofNat_toNat, BitVec.setWidth_eq]

theorem does_jobReport_journal {j : Word} {c : Ctx} {e : Journal} (hfresh : Fresh s h 0x210 false) (hsteward : isSteward s = true) :
    Does (.jobReport h j (.journal c [e])) s fun t => (job t e.job.toNat).journals
        = ((job s e.job.toNat).journals ++ [e]).drop ((job s e.job.toNat).journals.length + 1 - 4096) := by
  refine .of_exec (exec_jobReport hfresh hsteward) ?_
  dsimp only
  rw [List.foldl_cons, List.foldl_nil, job_record_journal ((isSteward_heard ..).trans hsteward), job_of_jobs (jobs_heard ..)]

/-! ### RISK_SCORE_UPDATE -/

theorem does_riskScoreUpdate {n k : Nat} {t' : Tbl (Nat × Nat)} (ht' : t' = (riskInputs s n k).foldl (keepInput s.now) s.stew.contrib)
    (hquiet : 0 < s.stew.level ∨ levelOf (min 1000 (t'.foldl (fun n p => n + p.2.1) 0)) s.stew.level = 0) :
    Does (.riskScoreUpdate n k) s fun t => t.stew.risk = min 1000 (t'.foldl (fun n p => n + p.2.1) 0)
        ∧ t.stew.level = levelOf t.stew.risk s.stew.level ∧ t.stew.contrib = t' := by
  set score := min 1000 (t'.foldl (fun n p => n + p.2.1) 0) with hscore
  have hkept : ∀ u : State, u.stew = { s.stew with contrib := t', risk := score, level := levelOf score s.stew.level } →
      u.stew.risk = score ∧ u.stew.level = levelOf u.stew.risk s.stew.level ∧ u.stew.contrib = t' := by
    intro u hu
    rw [hu]
    exact ⟨rfl, rfl, rfl⟩
  have hboot : ∀ u : State, (if s.boot.state = .ready ∨ s.boot.state = .degraded then { u with pwr := { u.pwr with dropped := false } } else u).stew = u.stew := by
    intro u
    split <;> rfl
  have hexec : ∃ top, exec (.riskScoreUpdate n k) s = if levelOf score s.stew.level = s.stew.level
      then .next (if s.boot.state = .ready ∨ s.boot.state = .degraded then
          { onStew (fun w => { w with contrib := t', risk := score, level := levelOf score s.stew.level }) s with pwr := { s.pwr with dropped := false } }
        else onStew (fun w => { w with contrib := t', risk := score, level := levelOf score s.stew.level }) s)
      else .next (logRec 0x2026 0x2000 score (levelOf score s.stew.level) top 0
        (if s.boot.state = .ready ∨ s.boot.state = .degraded then
          { onStew (fun w => { w with contrib := t', risk := score, level := levelOf score s.stew.level }) s with pwr := { s.pwr with dropped := false } }
        else onStew (fun w => { w with contrib := t', risk := score, level := levelOf score s.stew.level }) s)) := by
    have hnot : ¬(s.stew.level = 0 ∧ 1 ≤ levelOf score s.stew.level) := by omega
    change ∃ top, execRiskScoreUpdate n k s = _
    unfold execRiskScoreUpdate
    dsimp only
    rw [← ht', ← hscore, if_neg hnot]
    exact ⟨_, rfl⟩
  obtain ⟨top, hexec⟩ := hexec
  split at hexec
  · refine .of_exec hexec (hkept _ ?_)
    exact hboot (onStew (fun w => { w with contrib := t', risk := score, level := levelOf score s.stew.level }) s)
  · refine .of_exec hexec (hkept _ ?_)
    rw [logRec_stew]
    exact hboot (onStew (fun w => { w with contrib := t', risk := score, level := levelOf score s.stew.level }) s)

end

/-- Settles O25, a lemma for each row. -/
theorem continuityComplete : Obligations.ContinuityComplete :=
  ⟨fun _ _ => does_heartbeatDue, fun _ _ _ => does_heartbeat, fun _ _ _ _ => does_heartbeatAck, fun _ => does_holdEntry, fun _ _ => does_memberSilent,
    fun _ _ => does_probeTimeout, fun _ _ => does_probe, fun _ _ _ _ hfresh hfind => ⟨does_ack hfresh hfind, fun ⟨hkind, hprobing, hsteward, hjobs⟩ =>
      does_ack_probed hfresh hfind hkind hprobing hsteward hjobs⟩, fun _ _ _ => does_ackRetransmit,
    fun _ _ _ hfresh hsteward => ⟨fun _ hp hcode => does_eventReport_plane hfresh hsteward hp hcode, fun ⟨hcode, hfenced, hup, hjobs⟩ =>
      does_eventReport_fenced hfresh hsteward hcode hfenced hup hjobs⟩, fun _ _ _ _ _ _ _ => does_moduleEvent, fun _ _ _ _ => does_bind,
    fun _ _ _ _ _ _ _ => does_jobCtl_load, fun _ _ _ _ _ _ => does_jobCtl_stop, fun _ _ _ _ _ _ => does_jobReport_register,
    fun _ _ _ _ _ => does_jobReport_journal, fun _ _ _ _ => does_riskScoreUpdate⟩

end Sys2Proof.Machine
end

section
/-! ### The entries of the CKPT rings (15_checkpoint_and_restore.md R307, R310, R324, R327 to R331) -/

namespace Sys2Proof.Machine

section
variable {s t : State} {r : RingIx} {e : Entry} {c : Nat}

/-! ### Slots, runs and templates -/

theorem slotSt_of_ckpt (h : t.ckpt = s.ckpt) (c : Nat) (b : Bool) : slotSt t c b = slotSt s c b := by rw [slotSt, slotSt, h]

@[simp] theorem slotSt_setSlot_same (c : Nat) (b : Bool) (k : Slot_) (s : State) : slotSt (setSlot c b k s) c b = k := Tbl.get_set_same ..

theorem ckpt_of_law {L : List Part} (h : Law L s t) (hL : .ckpt ∉ L) : t.ckpt = s.ckpt := h.1 .ckpt hL

/-- The run of a context entered. -/
theorem ckptRun_set (c : Nat) (k : Option CkptRun) (s : State) : ckptRun (onCkpt (fun t => { t with runs := Tbl.set t.runs c k }) s) c = k :=
  Tbl.get_set_same ..

/-- A context's slot of a run that fails is EMPTY, and its run is gone; nothing else of the checkpoints changes. -/
theorem ckpt_ckptFail {k : CkptRun} (hrun : ckptRun s c = some k) (cause : Nat) : (ckptFail c cause s).ckpt =
    (setSlot c k.slotB {} (onCkpt (fun t => { t with runs := Tbl.set t.runs c none }) s)).ckpt := by
  have hlogged : ∀ x : State, (ckptReport c k.number k.step k.slotB 4 (postEvent 0x0942 (0x0900 + c) (some c) c k.number.toNat cause 0
      (logRec 0x0903 (0x0900 + c) c k.number.toNat cause k.done x))).ckpt = x.ckpt := fun x =>
    (ckpt_of_law (ckptReport_law ..) (by decide)).trans ((ckpt_of_law (postEvent_law ..) (by decide)).trans (ckpt_of_law (logRec_law ..) (by decide)))
  have hstart : ∀ x : State, (if k.freezing ∧ cause ≠ 4 then k.froze.foldl (fun s x => startStream x.1 x.2 s) x else x).ckpt = x.ckpt := fun x => by
    split
    · exact foldl_keeps (read := State.ckpt) (f := fun (s : State) (x : Nat × Nat) => startStream x.1 x.2 s) (fun s x => ckpt_of_law (startStream_law ..) (by decide)) _ x
    · rfl
  have hdone : ∀ (x : State) (bs : List Byte), (match k.ring with
      | some (r, tag) => completeBy r 2 tag 0x203 bs x
      | none => x).ckpt = x.ckpt := fun x bs => by
    split
    · exact ckpt_of_law (completeBy_law ..) (by decide)
    · rfl
  unfold ckptFail
  rw [hrun]
  exact (ckpt_of_law (removeCheck_law ..) (by decide)).trans ((hdone ..).trans ((hstart _).trans (hlogged _)))

/-- A checkpoint accepted: its slot is being written, its run begun. -/
theorem acceptCkpt_reads (c : Nat) (number step : Word) (full : Bool) (ring : Option (Nat × Nat)) (s : State) :
    (slotSt (acceptCkpt c number step full ring s) c (chooseSlot s c)).state = .writing
      ∧ ckptRun (acceptCkpt c number step full ring s) c = some { number := number, step := step, full := full, slotB := chooseSlot s c, ring := ring } := by
  have hreport : ∀ u : State, (ckptReport c number step (chooseSlot s c) 1 u).ckpt = u.ckpt := fun u => ckpt_of_law (ckptReport_law ..) (by decide)
  unfold acceptCkpt
  dsimp only
  constructor
  · rw [slotSt_of_ckpt (hreport _)]
    exact congrArg Slot_.state (slotSt_setSlot_same c (chooseSlot s c) _ (dropDrain c (chooseSlot s c) 3 s))
  · rw [ckptRun_of_ckpt (hreport _)]
    exact Tbl.get_set_same ..

theorem chooseSlot_of_ckpt (h : t.ckpt = s.ckpt) (c : Nat) : chooseSlot t c = chooseSlot s c := by
  unfold chooseSlot
  rw [slotSt_of_ckpt h, slotSt_of_ckpt h]

@[simp] theorem ckpt_startEntry (r : Nat) (e : Entry) (s : State) : (startEntry r e s).ckpt = s.ckpt := ckpt_of_law (startEntry_law ..) (by decide)

/-! ### The turn of a CKPT entry -/

/-- What a CKPT command leaves: what its work leaves, where the turn's record does not touch it. -/
theorem onCkptRing_holds {opc : Nat} {act : Entry → State} {P : State → Prop} (htake : takeEntry s r 4 opc = some e) (hwell : s.ckpt.well = .ready)
    (hturn : ∀ t, P t → P (turnTaken r 4 t)) (hact : P (act e)) : P (onCkptRing r opc s act) := by
  refine onEntry_holds htake hturn ?_
  rw [if_neg (not_not_intro hwell)]
  exact hact

theorem onCkptCtx_holds {opc : Nat} {act : Entry → Nat → State} {P : State → Prop} (htake : takeEntry s r 4 opc = some e) (hwell : s.ckpt.well = .ready)
    (hc : ent e 8 1 ≤ 3) (hturn : ∀ t, P t → P (turnTaken r 4 t)) (hact : P (act e (ent e 8 1))) : P (onCkptCtx r opc s act) := by
  refine onCkptRing_holds htake hwell hturn ?_
  rw [if_neg (by omega)]
  exact hact

theorem onCkptSlot_holds {opc : Nat} {act : Entry → Nat → Bool → State} {P : State → Prop} (htake : takeEntry s r 4 opc = some e)
    (hwell : s.ckpt.well = .ready) (hc : ent e 8 1 ≤ 3) (hb : ent e 9 1 ≤ 1) (hturn : ∀ t, P t → P (turnTaken r 4 t))
    (hact : P (act e (ent e 8 1) (ent e 9 1 == 1))) : P (onCkptSlot r opc s act) := by
  refine onCkptCtx_holds htake hwell hc hturn ?_
  rw [if_neg (by omega)]
  exact hact

/-- What is read of the checkpoints alone stands through the turn's record. -/
theorem turn_keeps_ckpt (Q : CkptSt → Prop) (t : State) (h : Q t.ckpt) : Q (turnTaken r 4 t).ckpt := by
  rw [ckpt_of_law (turnTaken_law ..) (by decide)]
  exact h

theorem turn_keeps_ckpt_completed {status : Nat} {result : List Byte} (Q : CkptSt → Prop) (t : State) (h : Q t.ckpt ∧ Completed s t r e status result) :
    Q (turnTaken r 4 t).ckpt ∧ Completed s (turnTaken r 4 t) r e status result :=
  ⟨turn_keeps_ckpt Q t h.1, completed_turnTaken _ _ h.2⟩

/-- An entry completed after work on the checkpoints. -/
theorem succeeds_with {L : List Part} {u : State} (Q : CkptSt → Prop) (hlaw : Law L s u) (hL : .hst ∉ L) (htoken : entToken e = false)
    (hcqe : bits (entFlags e) 0 1 = 0) (hdma : canDma s = true) (hinv : Inv s) (hQ : Q u.ckpt) :
    Q (succeed 4 r e [] u).ckpt ∧ Completed s (succeed 4 r e [] u) r e 0 [] := by
  rw [succeed_of_no_token htoken]
  refine ⟨?_, completed_of_law hlaw hL hcqe hdma hinv⟩
  rw [ckpt_of_law (complete_law ..) (by decide)]
  exact hQ

/-! ### The commands -/

theorem does_ckptRegister (h : Waits s r 4 1 e) (htoken : entToken e = false) (hwell : s.ckpt.well = .ready) (hc : ent e 8 1 ≤ 3)
    (hlen : ent e 24 4 % 256 = 0) (hgate : ent e 10 1 ≤ 15) :
    Does (.ckptRegister r) s fun t => template t (ent e 8 1) = some (templateOf e) ∧ Completed s t r e 0 [] := by
  obtain ⟨htake, hcqe, hdma, hinv⟩ := h
  refine .of_exec rfl (onCkptCtx_holds htake hwell hc (turn_keeps_ckpt_completed fun k => Tbl.get none k.templates (ent e 8 1) = some (templateOf e)) ?_)
  rw [if_neg (by omega)]
  exact succeeds_with (fun k => Tbl.get none k.templates (ent e 8 1) = some (templateOf e)) (onCkpt_law ..) (by decide) htoken hcqe hdma hinv
    (Tbl.get_set_same ..)

/-- The run that a BEGIN entry without its context's template asks for. -/
def begunRun (r : Nat) (e : Entry) (b : Bool) : CkptRun :=
  { number := BitVec.ofNat 32 (ent e 12 4), step := BitVec.ofNat 32 (ent e 16 4), full := bits (ent e 9 1) 0 1 == 1, slotB := b, ring := some (r, entTag e) }

theorem does_ckptBegin (htake : takeEntry s r 4 2 = some e) (hc : c = ent e 8 1) (hwell : s.ckpt.well = .ready) (hlow : c ≤ 3)
    (hcreated : (ctx s c).created = true) (huse : bits (ent e 9 1) 1 1 = 0) (hrun : ckptRun s c = none)
    (hreading : (slotSt s c (chooseSlot s c)).reading = false) (hahead : stepAhead s c (BitVec.ofNat 32 (ent e 16 4)) = true) :
    Does (.ckptBegin r) s fun t => (slotSt t c (chooseSlot s c)).state = .writing
        ∧ ckptRun t c = some { number := BitVec.ofNat 32 (ent e 12 4), step := BitVec.ofNat 32 (ent e 16 4), full := bits (ent e 9 1) 0 1 == 1,
                               slotB := chooseSlot s c, ring := some (r.val, entTag e) } := by
  subst hc
  have huse' : (bits (ent e 9 1) 1 1 == 1) = false := by rw [huse]; rfl
  have hreads := acceptCkpt_reads (ent e 8 1) (BitVec.ofNat 32 (ent e 12 4)) (BitVec.ofNat 32 (ent e 16 4)) (bits (ent e 9 1) 0 1 == 1)
    (some (r.val, entTag e)) (startEntry r e s)
  rw [chooseSlot_of_ckpt (ckpt_startEntry ..)] at hreads
  refine .of_exec rfl (onCkptCtx_holds htake hwell hlow (turn_keeps_ckpt fun k => (Tbl.get {} k.slots (2 * ent e 8 1 + b2n (chooseSlot s (ent e 8 1)))).state = .writing
    ∧ Tbl.get none k.runs (ent e 8 1) = some (begunRun r e (chooseSlot s (ent e 8 1)))) ?_)
  dsimp only
  rw [huse', hcreated, hrun, hreading, hahead]
  exact hreads

/-- A journal kept by each of some contexts. -/
theorem journals_keepJournal (bs : List Byte) {cs : List Nat} (hnodup : cs.Nodup) (s : State) (c : Nat) :
    Tbl.get [] (cs.foldl (keepJournal bs) s).ckpt.journals c
      = if c ∈ cs then (bs :: Tbl.get [] s.ckpt.journals c).take 64 else Tbl.get [] s.ckpt.journals c := by
  induction cs generalizing s with
  | nil => simp
  | cons d cs ih =>
    obtain ⟨hnot, hnodup⟩ := List.nodup_cons.mp hnodup
    have hkept : Tbl.get [] (keepJournal bs s d).ckpt.journals c
        = if c = d then (bs :: Tbl.get [] s.ckpt.journals d).take 64 else Tbl.get [] s.ckpt.journals c := Tbl.get_set ..
    rw [List.foldl_cons, ih hnodup, hkept]
    by_cases hcd : c = d
    · subst hcd
      simp [hnot]
    · simp [hcd]

/-- What JOURNAL leaves of the journals: the entry in front at each context of its job. -/
def JournalsKept (s : State) (bs : List Byte) (k : CkptSt) : Prop :=
  ∀ c ∈ jobCtxs s (getN bs 0 4), Tbl.get [] k.journals c = (bs :: Tbl.get [] s.ckpt.journals c).take 64

/-- The steward told of a journal entry. -/
def toldJournal (bs : List Byte) (u : State) : State :=
  match u.stew.active with
  | some m => ctlSend m 0x210 ([getN bs 0 4, 2] ++ journalWords bs) u
  | none => u

theorem toldJournal_law (bs : List Byte) (u : State) : Law [.stew, .sent] u (toldJournal bs u) := by
  unfold toldJournal
  split
  · exact ctlSend_law ..
  · exact Law.refl _ _

theorem does_journal {bs : List Byte} (h : Waits s r 4 3 e) (htoken : entToken e = false) (hwell : s.ckpt.well = .ready)
    (hbs : bs = (e.bytes.drop 8).take 32) (hsome : jobCtxs s (getN bs 0 4) ≠ []) :
    Does (.journal r) s fun t => Completed s t r e 0 [] ∧ ∀ c ∈ jobCtxs s (getN bs 0 4),
        Tbl.get [] t.ckpt.journals c = (bs :: Tbl.get [] s.ckpt.journals c).take 64 := by
  obtain ⟨htake, hcqe, hdma, hinv⟩ := h
  have hnodup : (jobCtxs s (getN bs 0 4)).Nodup := List.nodup_range.filter _
  have hkeep : Law [.ckpt, .stew, .sent] s ((jobCtxs s (getN bs 0 4)).foldl (keepJournal bs) s) :=
    Law.foldl _ _ _ (Law.refl _ _) fun y c hy => hy.trans ((onCkpt_law ..).mono (by decide))
  have hgot := journals_keepJournal bs hnodup s
  have hact : ∀ u : State, Law [.ckpt, .stew, .sent] s u → (∀ c ∈ jobCtxs s (getN bs 0 4), Tbl.get [] u.ckpt.journals c = (bs :: Tbl.get [] s.ckpt.journals c).take 64)
      → JournalsKept s bs (succeed 4 r e [] (toldJournal bs u)).ckpt ∧ Completed s (succeed 4 r e [] (toldJournal bs u)) r e 0 [] := fun u hlaw hu =>
    succeeds_with (JournalsKept s bs) (hlaw.trans ((toldJournal_law bs u).mono (by decide))) (by decide) htoken hcqe hdma hinv
      (by rw [JournalsKept, ckpt_of_law (toldJournal_law bs u) (by decide)]; exact hu)
  have hexec : exec (.journal r) s = .next (onCkptRing r 3 s fun e =>
      match jobCtxs s (getN ((e.bytes.drop 8).take 32) 0 4) with
      | [] => complete r e 0x205 [] s
      | _ :: _ => succeed 4 r e [] (toldJournal ((e.bytes.drop 8).take 32)
          ((jobCtxs s (getN ((e.bytes.drop 8).take 32) 0 4)).foldl (keepJournal ((e.bytes.drop 8).take 32)) s))) := rfl
  refine .of_exec hexec (And.symm (onCkptRing_holds (P := fun t => JournalsKept s bs t.ckpt ∧ Completed s t r e 0 []) htake hwell
    (turn_keeps_ckpt_completed (JournalsKept s bs)) ?_))
  rw [← hbs]
  obtain ⟨c, cs, hcs⟩ := List.exists_cons_of_ne_nil hsome
  rw [hcs]
  dsimp only
  rw [← hcs]
  exact hact _ hkeep fun c hc => by rw [hgot, if_pos hc]

theorem does_drain {b : Bool} (htake : takeEntry s r 4 4 = some e) (hc : c = ent e 8 1) (hwell : s.ckpt.well = .ready) (hlow : c ≤ 3)
    (hslot : ent e 9 1 ≤ 1) (hb : b = (ent e 9 1 == 1)) (htemplate : (template s c).isSome = true)
    (hstate : (slotSt s c b).state = .committed ∨ (slotSt s c b).state = .drained) (hconnected : s.ckpt.connected = true) :
    Does (.drain r) s fun t => slotSt t c b
        = { slotSt s c b with state := .draining, drainer := some (r.val, entTag e), lba := ent e 16 8 } := by
  subst hc hb
  refine .of_exec rfl (onCkptSlot_holds htake hwell hlow hslot (turn_keeps_ckpt fun k => Tbl.get {} k.slots (2 * ent e 8 1 + b2n (ent e 9 1 == 1)) = _) ?_)
  have hsome : (template s (ent e 8 1)).isNone = false := by rw [← Option.not_isSome, htemplate]; rfl
  rcases hstate with hstate | hstate
  all_goals
    simp only [hsome, hstate, hconnected]
    exact slotSt_setSlot_same ..

/-- A restore begun: it is entered, and the slot it reads is marked. -/
theorem beginRestore_reads (c : Nat) (map : List (Nat × Nat)) (s : State) :
    Tbl.get none (beginRestore r c e map s).ckpt.restores c = some (restoreOf r e map)
      ∧ (ent e 9 1 ≠ 2 → (slotSt (beginRestore r c e map s) c (ent e 9 1 == 1)).reading = true) := by
  refine ⟨Tbl.get_set_same .., fun hsrc => ?_⟩
  have hslot : (restoreOf r e map).slot = some (ent e 9 1 == 1) := if_neg hsrc
  unfold beginRestore
  dsimp only
  rw [hslot]
  exact congrArg Slot_.reading (slotSt_setSlot_same c (ent e 9 1 == 1) { slotSt s c (ent e 9 1 == 1) with reading := true } s)

theorem does_restore {src : Nat} (htake : takeEntry s r 4 5 = some e) (hc : c = ent e 8 1) (hsrc : src = ent e 9 1) (hwell : s.ckpt.well = .ready)
    (hlow : c ≤ 3) (hslot : src ≤ 2) (hok : restoreRefusal s c src = none) (hmap : ent e 40 4 = 0) :
    Does (.restore r) s fun t => Tbl.get none t.ckpt.restores c = some (restoreOf r e []) ∧ (src ≠ 2 → (slotSt t c (src == 1)).reading = true) := by
  subst hc hsrc
  refine .of_exec rfl (onCkptCtx_holds htake hwell hlow (turn_keeps_ckpt fun k => Tbl.get none k.restores (ent e 8 1) = some (restoreOf r e [])
    ∧ (ent e 9 1 ≠ 2 → (Tbl.get {} k.slots (2 * ent e 8 1 + b2n (ent e 9 1 == 1))).reading = true)) ?_)
  rw [if_neg (by omega), hok]
  dsimp only
  rw [if_pos hmap]
  exact beginRestore_reads (ent e 8 1) [] s

theorem does_target {s' : State} {bs : List Byte} (htake : takeEntry s r 4 6 = some e) (hwell : s.ckpt.well = .ready) (hdma : canDma s = true)
    (hs' : s' = tableRead r e (ent e 16 8) 256 s) (hread : readTable s' r e (ent e 16 8) 256 = .ok bs) :
    Does (.target r) s fun t => t.ckpt.target = bs ∧ t.ckpt.connected = false ∧ t.ckpt.target_ = some (r.val, entTag e) := by
  subst hs'
  refine .of_exec rfl (onCkptRing_holds htake hwell (turn_keeps_ckpt fun k => k.target = bs ∧ k.connected = false ∧ k.target_ = some (r.val, entTag e)) ?_)
  rw [withTable_of_read hdma hread]
  exact ⟨rfl, rfl, rfl⟩

theorem does_targetConnected {tag : Nat} (htarget : s.ckpt.target_ = some (r.val, tag)) (hfind : findEntry s r 6 tag = some e)
    (htoken : entToken e = false) (hcqe : bits (entFlags e) 0 1 = 0) (hdma : canDma s = true) (hinv : Inv s) :
    Does (.targetConnected r) s fun t => t.ckpt.connected = true ∧ t.ckpt.target_ = none ∧ Completed s t r e 0 [] := by
  have hexec : exec (.targetConnected r) s = .next (succeed 4 r e [] (onCkpt (fun t => { t with connected := true, target_ := none }) s)) := by
    change execTargetConnected r s = _
    unfold execTargetConnected
    have hfind' : findEntry (onCkpt (fun t => { t with connected := true, target_ := none }) s) r 6 tag = some e := hfind
    rw [htarget]
    simp only [endBy, hfind', if_true]
  obtain ⟨⟨hconnected, htarget'⟩, hdone⟩ := succeeds_with (r := r) (fun k => k.connected = true ∧ k.target_ = none)
    (onCkpt_law (fun t => { t with connected := true, target_ := none }) s) (by decide) htoken hcqe hdma hinv ⟨rfl, rfl⟩
  exact .of_exec hexec ⟨hconnected, htarget', hdone⟩

theorem does_abort {k : CkptRun} (htake : takeEntry s r 4 7 = some e) (hwell : s.ckpt.well = .ready) (hc : ent e 8 1 ≤ 3)
    (hrun : ckptRun s (ent e 8 1) = some k) :
    Does (.abort r) s fun t => ckptRun t (ent e 8 1) = none ∧ slotSt t (ent e 8 1) k.slotB = {} := by
  have hckpt : (succeed 4 r e [] (ckptFail (ent e 8 1) 1 s)).ckpt
      = (setSlot (ent e 8 1) k.slotB {} (onCkpt (fun t => { t with runs := Tbl.set t.runs (ent e 8 1) none }) s)).ckpt :=
    (ckpt_of_law (succeed_law ..) (by decide)).trans (ckpt_ckptFail hrun 1)
  refine .of_exec rfl (onCkptCtx_holds htake hwell hc (turn_keeps_ckpt fun x => Tbl.get none x.runs (ent e 8 1) = none
    ∧ Tbl.get {} x.slots (2 * ent e 8 1 + b2n k.slotB) = {}) ?_)
  rw [hckpt]
  exact ⟨Tbl.get_set_same .., Tbl.get_set_same ..⟩

theorem does_invalidate {b : Bool} (h : Waits s r 4 8 e) (htoken : entToken e = false) (hc : c = ent e 8 1) (hwell : s.ckpt.well = .ready) (hlow : c ≤ 3)
    (hslot : ent e 9 1 ≤ 1) (hb : b = (ent e 9 1 == 1)) (hwriting : (slotSt s c b).state ≠ .writing) (hdraining : (slotSt s c b).state ≠ .draining)
    (hreading : (slotSt s c b).reading = false) :
    Does (.invalidate r) s fun t => slotSt t c b = {} ∧ Completed s t r e 0 [] := by
  subst hc hb
  obtain ⟨htake, hcqe, hdma, hinv⟩ := h
  refine .of_exec rfl (onCkptSlot_holds htake hwell hlow hslot
    (turn_keeps_ckpt_completed fun k => Tbl.get {} k.slots (2 * ent e 8 1 + b2n (ent e 9 1 == 1)) = {}) ?_)
  rw [if_neg (by simp [hwriting, hdraining, hreading])]
  exact succeeds_with (fun k => Tbl.get {} k.slots (2 * ent e 8 1 + b2n (ent e 9 1 == 1)) = {}) (setSlot_law ..) (by decide) htoken hcqe hdma hinv
    (Tbl.get_set_same ..)

end

/-- Settles O26, a lemma for each row. -/
theorem checkpointEntriesComplete : Obligations.CheckpointEntriesComplete :=
  ⟨fun _ _ _ => does_ckptRegister, fun _ _ _ _ => does_ckptBegin, fun _ _ _ _ => does_journal, fun _ _ _ _ _ => does_drain,
    fun _ _ _ _ _ => does_restore, fun _ _ _ _ _ => does_target, fun _ _ _ _ => does_targetConnected, fun _ _ _ _ => does_abort,
    fun _ _ _ _ _ => does_invalidate⟩

end Sys2Proof.Machine
end

section
/-! ### The freeze, the background copy, the commit and the drain (15_checkpoint_and_restore.md R308 to R318, R324, R327) -/

namespace Sys2Proof.Machine

section
variable {s t : State} {c : Ctx} {k : CkptRun}

/-! ### What copying ahead leaves of a run -/

/-- What the cut has fixed of a run: its sections and its staging region. -/
def cutPlan (k : CkptRun) : List Section × Option Section := (k.image.sections, k.stage)

theorem cutPlan_copyGranule (mem : Memory) (poison : List Nat) (i : Nat) (x : Section) (g : Nat) (k : CkptRun) :
    cutPlan (copyGranule mem poison i x g k) = cutPlan k := by
  unfold copyGranule
  split <;> rfl

theorem cutPlan_aheadOf (mem : Memory) (poison : List Nat) (a len : Nat) (k : CkptRun) : cutPlan (aheadOf mem poison a len k) = cutPlan k := by
  refine foldl_keeps (read := cutPlan) (fun k p => ?_) _ k
  dsimp only
  split
  · exact foldl_keeps (read := cutPlan) (fun k j => cutPlan_copyGranule ..) _ k
  · rfl

theorem runs_copyAhead (a len c : Nat) (s : State) : (ckptRun (copyAhead a len s) c).map cutPlan = (ckptRun s c).map cutPlan := by
  have hmapped : (Tbl.get none (s.ckpt.runs.map fun p => (p.1, p.2.map (aheadOf s.mem s.ddr.poison a len))) c).map cutPlan = (ckptRun s c).map cutPlan := by
    rw [Tbl.get_map none (Option.map (aheadOf s.mem s.ddr.poison a len)) rfl, Option.map_map]
    exact congrArg (fun f => (ckptRun s c).map f) (funext fun k => cutPlan_aheadOf ..)
  unfold copyAhead
  dsimp only
  split
  · rfl
  · split
    · exact hmapped
    · rw [ckptRun_of_ckpt (ckpt_of_law (countAt_law ..) (by decide))]
      exact hmapped

theorem runs_store (a : Nat) (bs : List Byte) (c : Nat) (s : State) : (ckptRun (store a bs s) c).map cutPlan = (ckptRun s c).map cutPlan := by
  unfold store
  dsimp only
  split
  · rw [ckptRun_of_ckpt (ckpt_of_law (gatherRange_law ..) (by decide)), ckptRun_of_ckpt (ckpt_of_law (writeMem_law ..) (by decide))]
    exact runs_copyAhead ..
  all_goals rfl

theorem runs_stageChip (k : CkptRun) (c : Nat) (s : State) : (ckptRun (stageChip k s) c).map cutPlan = (ckptRun s c).map cutPlan := by
  unfold stageChip
  cases k.stage with
  | none => rfl
  | some x => exact runs_store ..

/-! ### The freeze and the period -/

theorem does_fullFreezeComplete {us : Nat} (hrun : ckptRun s c = some k) (hfreezing : k.freezing = true) (hstopped : k.froze.all (stoppedNow s) = true)
    (hlists : listsBusy s c = false) : Does (.fullFreezeComplete c us) s fun t => ∃ k', ckptRun t c = some k' ∧ k'.cut = true ∧ k'.freezing = false
        ∧ k'.image.sections = k.image.sections ++ k.stage.toList ∧ k'.image.chip = some (onChip s c k.froze) := by
  have hplan := runs_stageChip k c s
  rw [hrun] at hplan
  obtain ⟨k1, hk1, hplan⟩ := Option.map_eq_some_iff.mp hplan
  have hsections : k1.image.sections = k.image.sections := congrArg Prod.fst hplan
  have hstage : k1.stage = k.stage := congrArg Prod.snd hplan
  have hexec : exec (.fullFreezeComplete c us) s = .next (gateTokens c k1.step (k1.froze.foldl thaw (cutTaken c us
      { k1 with image := { k1.image with chip := some (onChip s c k.froze), sections := k1.image.sections ++ k1.stage.toList } } (stageChip k s)))) := by
    change execFullFreezeComplete c us s = _
    unfold execFullFreezeComplete
    rw [hrun]
    dsimp only
    rw [if_pos (by rw [hfreezing, hstopped, hlists]; rfl), hk1]
    rfl
  have hckpt : ∀ u : State, (gateTokens c k1.step (k1.froze.foldl thaw u)).ckpt = u.ckpt := fun u =>
    (ckpt_of_law (gateTokens_law ..) (by decide)).trans (foldl_keeps (read := State.ckpt) (fun u x => ckpt_of_law (thaw_law u x) (by decide)) _ u)
  have hcut : ∀ (k' : CkptRun) (u : State), ckptRun (cutTaken c us k' u) c = some { k' with cut := true, freezing := false } := fun k' u => by
    unfold cutTaken
    rw [ckptRun_of_ckpt (ckpt_of_law (logRec_law ..) (by decide))]
    exact ckptRun_set ..
  refine .of_exec hexec ⟨_, (ckptRun_of_ckpt (hckpt _) c).trans (hcut _ _), rfl, rfl, ?_, rfl⟩
  dsimp only
  rw [hsections, hstage]

theorem does_periodicCheckpoint {p : Template} (hperiod : ckptPeriod s ≠ 0) (hcommit : Tbl.get 0 s.ckpt.commitAt c ≠ 0)
    (hdue : Tbl.get 0 s.ckpt.commitAt c - 1 + ckptPeriod s * 60000000000 ≤ s.now) (hcreated : (ctx s c).created = true)
    (htemplate : template s c = some p) (hauto : p.auto = true) (hrun : ckptRun s c = none) (hwell : s.ckpt.well = .ready)
    (hreading : (slotSt s c (chooseSlot s c)).reading = false) :
    Does (.periodicCheckpoint c) s fun t => ckptRun t c
        = some { number := nextNumber s c, step := nextStep s c, full := p.full, slotB := chooseSlot s c } := by
  have hexec : exec (.periodicCheckpoint c) s = .next (acceptCkpt c (nextNumber s c) (nextStep s c) p.full none s) := by
    change execPeriodicCheckpoint c s = _
    unfold execPeriodicCheckpoint trigger
    dsimp only
    rw [if_pos ⟨hperiod, hcommit, hdue, hcreated, by rw [htemplate]; exact hauto⟩, htemplate]
    dsimp only
    rw [if_neg (by simp [hauto]), hrun]
    dsimp only
    rw [if_neg (by simp [hwell, hcreated]), if_neg (by simp [hreading])]
  exact .of_exec hexec (acceptCkpt_reads ..).2

/-! ### The background copy -/

theorem does_granuleCopy_copied {x : Section} (hrun : ckptRun s c = some k) (hcut : k.cut = true) (hsection : k.image.sections[k.sec]? = some x)
    (hcopied : k.copied.contains (k.sec, k.gran) = true) : Does (.granuleCopy c) s fun t => ckptRun t c = some (scanNext k) := by
  have hexec : exec (.granuleCopy c) s = .next (onCkpt (fun t => { t with runs := Tbl.set t.runs c (some (scanNext k)) }) s) := by
    change execGranuleCopy c s = _
    unfold execGranuleCopy
    rw [hrun]
    dsimp only
    rw [hcut, hsection]
    exact if_pos (.inr hcopied)
  exact .of_exec hexec (ckptRun_set ..)

theorem roundUp_128_le {n : Nat} (h : n ≤ 65536) : roundUp n 128 ≤ 65536 := by
  unfold roundUp
  omega

theorem stored_le (zero : Bool) {len : Nat} (free : Nat) (h : len ≤ 65536) : stored zero len free ≤ 65536 := by
  unfold stored
  dsimp only
  split
  · omega
  · split
    · exact h
    next hlow =>
      rcases Nat.eq_zero_or_pos len with rfl | hpos
      · omega
      · have := Nat.mod_lt free hpos
        omega

theorem granLen_le (x : Section) (g : Nat) : granLen x g ≤ 65536 := Nat.min_le_left ..

theorem extentsOf_of_parts {j : CkptRun} (hsections : j.image.sections = k.image.sections) (hbytes : j.secBytes = k.secBytes) : extentsOf j = extentsOf k := by
  rw [extentsOf, extentsOf, hsections, hbytes]

/-- Room for one more granule of a section, however well it compresses. -/
def RoomFor (s : State) (c : Nat) (k : CkptRun) (i : Nat) : Prop :=
  ∀ n ≤ 65664, extentsOf { k with secBytes := Tbl.set k.secBytes i (Tbl.get 0 k.secBytes i + n) } ≤ (slotSt s c k.slotB).extents + freeExtents s

/-- A run put in force with room for it. -/
theorem ckptRun_putRun {c : Nat} (hroom : extentsOf k ≤ (slotSt s c k.slotB).extents + freeExtents s) : ckptRun (putRun c k s) c = some k := by
  have hfree : ∀ u : State, u.ckpt.slots = s.ckpt.slots → freeExtents u = freeExtents s := fun u hu => by rw [freeExtents, freeExtents, hu]
  have hmake : ∀ (n : Nat) (l : List (Nat × Bool)) (u : State), n ≤ freeExtents u → makeRoom n l u = u := fun n l u hn => by
    cases l with
    | nil => rfl
    | cons x l => rw [makeRoom, if_pos hn]
  have hrun := ckptRun_set c (some k) s
  have hfree' := hfree (onCkpt (fun t => { t with runs := Tbl.set t.runs c (some k) }) s) rfl
  unfold putRun
  dsimp only
  generalize onCkpt (fun t => { t with runs := Tbl.set t.runs c (some k) }) s = u at hrun hfree' ⊢
  rw [hmake _ _ u (by omega), if_neg (by omega), ckptRun_of_ckpt (ckpt_of_law (countHub_law ..) (by decide))]
  exact hrun

/-- A granule's record stored takes at most 65664 bytes of its section. -/
theorem extentsOf_putGranule {c i : Nat} {j : CkptRun} (hroom : RoomFor s c k i) (hsections : j.image.sections = k.image.sections)
    (hbytes : j.secBytes = k.secBytes) (x : Section) (g : Nat) (zero : Bool) (free : Nat) :
    extentsOf (putGranule i x g zero free j) ≤ (slotSt s c k.slotB).extents + freeExtents s := by
  have hlen : 128 + roundUp (stored zero (granLen x g) free) 128 ≤ 65664 := by
    have := roundUp_128_le (stored_le zero free (granLen_le x g))
    omega
  have hput : (putGranule i x g zero free j).secBytes
      = Tbl.set k.secBytes i (Tbl.get 0 k.secBytes i + (128 + roundUp (stored zero (granLen x g) free) 128)) := by
    unfold putGranule
    dsimp only
    rw [hbytes]
  have hput' : (putGranule i x g zero free j).image.sections = k.image.sections := by
    unfold putGranule
    exact hsections
  rw [extentsOf_of_parts (k := { k with secBytes := Tbl.set k.secBytes i (Tbl.get 0 k.secBytes i
    + (128 + roundUp (stored zero (granLen x g) free) 128)) }) hput' hput]
  exact hroom _ hlen

theorem scanNext_reads (k : CkptRun) : (scanNext k).image = k.image ∧ (scanNext k).secBytes = k.secBytes ∧ (scanNext k).done = k.done
    ∧ (scanNext k).slotB = k.slotB := by
  unfold scanNext
  split
  · split <;> exact ⟨rfl, rfl, rfl, rfl⟩
  · exact ⟨rfl, rfl, rfl, rfl⟩

theorem scanNext_place {j : CkptRun} (hsections : j.image.sections = k.image.sections) (hsec : j.sec = k.sec) (hgran : j.gran = k.gran) :
    (scanNext j).sec = (scanNext k).sec ∧ (scanNext j).gran = (scanNext k).gran := by
  unfold scanNext
  rw [hsections, hsec, hgran]
  split
  · split
    · exact ⟨rfl, rfl⟩
    · exact ⟨rfl, rfl⟩
  · exact ⟨hsec, hgran⟩

/-- The image with a granule of the section being copied; that of the job state is in the image already. -/
def withGranule (s : State) (k : CkptRun) (x : Section) : Image :=
  if x.kind = 2 then k.image else { k.image with grans := k.image.grans ++ [readGranule s.mem s.ddr.poison x k.sec k.gran] }

theorem sections_withGranule (s : State) (k : CkptRun) (x : Section) : (withGranule s k x).sections = k.image.sections := by
  unfold withGranule
  split <;> rfl

/-- A granule's record stored keeps what the granule holds. -/
theorem putGranule_grans (i : Nat) (x : Section) (g : Nat) (zero : Bool) (free : Nat) {y : Granule} (hy : y ∈ k.image.grans) :
    ∃ z ∈ (putGranule i x g zero free k).image.grans, z.sec = y.sec ∧ z.ix = y.ix ∧ z.cells = y.cells ∧ z.poison = y.poison := by
  refine ⟨_, List.mem_map_of_mem hy, ?_⟩
  split <;> exact ⟨rfl, rfl, rfl, rfl⟩

theorem putGranule_keeps (i : Nat) (x : Section) (g : Nat) (zero : Bool) (free : Nat) (k : CkptRun) : (putGranule i x g zero free k).done = k.done + 1
    ∧ (putGranule i x g zero free k).slotB = k.slotB ∧ (putGranule i x g zero free k).sec = k.sec ∧ (putGranule i x g zero free k).gran = k.gran
    ∧ (putGranule i x g zero free k).image.sections = k.image.sections := ⟨rfl, rfl, rfl, rfl, rfl⟩

theorem does_granuleCopy {x : Section} (hrun : ckptRun s c = some k) (hcut : k.cut = true) (hsection : k.image.sections[k.sec]? = some x)
    (hnew : k.copied.contains (k.sec, k.gran) = false) (hsome : secGrans x ≠ 0) (hroom : RoomFor s c k k.sec) :
    Does (.granuleCopy c) s fun t => ∃ k', ckptRun t c = some k' ∧ k'.done = k.done + 1 ∧ k'.sec = (scanNext k).sec ∧ k'.gran = (scanNext k).gran
        ∧ (x.kind ≠ 2 → ∃ y ∈ k'.image.grans, y.sec = k.sec ∧ y.ix = k.gran
            ∧ y.cells = (readGranule s.mem s.ddr.poison x k.sec k.gran).cells ∧ y.poison = (readGranule s.mem s.ddr.poison x k.sec k.gran).poison) := by
  have hexec : ∃ zero free, exec (.granuleCopy c) s = .next (putRun c (scanNext (putGranule k.sec x k.gran zero free { k with image := withGranule s k x }))
      { s with freeCtr := s.freeCtr + 1 }) := by
    change ∃ zero free, execGranuleCopy c s = _
    unfold execGranuleCopy
    rw [hrun]
    dsimp only
    rw [hcut, hsection]
    dsimp only
    rw [if_neg (by rw [hnew]; simp [hsome])]
    dsimp only [drawFree]
    exact ⟨_, _, rfl⟩
  obtain ⟨zero, free, hexec⟩ := hexec
  have hsections := sections_withGranule s k x
  have hgrans := fun y => putGranule_grans (k := { k with image := withGranule s k x }) (y := y) k.sec x k.gran zero free
  have hroom' := extentsOf_putGranule (j := { k with image := withGranule s k x }) hroom hsections rfl x k.gran zero free
  obtain ⟨hdone, hslot, hsec, hgran, hsections'⟩ := putGranule_keeps k.sec x k.gran zero free { k with image := withGranule s k x }
  have hplace := scanNext_place (k := k) (hsections'.trans hsections) hsec hgran
  generalize putGranule k.sec x k.gran zero free { k with image := withGranule s k x } = j at hexec hgrans hroom' hplace hdone hslot
  obtain ⟨himage, hbytes, hdone', hslot'⟩ := scanNext_reads j
  refine .of_exec hexec ⟨scanNext j, ckptRun_putRun ?_, hdone'.trans hdone, hplace.1, hplace.2, fun hkind => ?_⟩
  · rw [hslot', hslot, extentsOf_of_parts (congrArg Image.sections himage) hbytes]
    exact hroom'
  · have hmem : readGranule s.mem s.ddr.poison x k.sec k.gran ∈ (withGranule s k x).grans := by
      rw [withGranule, if_neg hkind]
      exact List.mem_append_right _ (List.mem_singleton.mpr rfl)
    obtain ⟨z, hz, hsec, hix, hcells, hpoison⟩ := hgrans _ hmem
    exact ⟨z, by rw [himage]; exact hz, hsec, hix, hcells, hpoison⟩

theorem does_copyAheadRelease {y : Nat × Nat} {rest : List (Nat × Nat)} {x : Section} (hrun : ckptRun s c = some k) (hbuffer : k.buffer = y :: rest)
    (hsection : k.image.sections[y.1]? = some x) (hroom : RoomFor s c k y.1) :
    Does (.copyAheadRelease c) s fun t => ∃ k', ckptRun t c = some k' ∧ k'.done = k.done + 1 ∧ k'.buffer = rest := by
  have hexec : ∃ zero free, exec (.copyAheadRelease c) s = .next (putRun c (putGranule y.1 x y.2 zero free { k with buffer := rest })
      { s with freeCtr := s.freeCtr + 1 }) := by
    change ∃ zero free, execCopyAheadRelease c s = _
    unfold execCopyAheadRelease
    rw [hrun]
    dsimp only
    rw [hbuffer]
    dsimp only [drawFree]
    rw [hsection]
    exact ⟨_, _, rfl⟩
  obtain ⟨zero, free, hexec⟩ := hexec
  have hroom' := extentsOf_putGranule (j := { k with buffer := rest }) hroom rfl rfl x y.2 zero free
  exact .of_exec hexec ⟨_, ckptRun_putRun hroom', rfl, rfl⟩

/-! ### Commit and drain -/

/-- A slot as its commit leaves it. -/
theorem commitSlot_reads (c : Nat) (k : CkptRun) (s : State) : ckptRun (commitSlot c k s) c = none
    ∧ (slotSt (commitSlot c k s) c k.slotB).number = k.number ∧ (slotSt (commitSlot c k s) c k.slotB).step = k.step
    ∧ (slotSt (commitSlot c k s) c k.slotB).state = (if bit s.ckpt.cfg 25 && (template s c).isSome then .draining else .committed)
    ∧ (commitSlot c k s).ckpt.commits = s.ckpt.commits + 1 := by
  unfold commitSlot
  dsimp only
  rw [slotSt_setSlot_same]
  exact ⟨Tbl.get_set_same .., rfl, rfl, rfl, rfl⟩

theorem does_locatorWriteComplete {ms : Nat} (hrun : ckptRun s c = some k) (hcut : k.cut = true) (hend : k.image.sections.length ≤ k.sec)
    (hbuffer : k.buffer = []) :
    Does (.locatorWriteComplete c ms) s fun t => ckptRun t c = none ∧ (slotSt t c k.slotB).number = k.number ∧ (slotSt t c k.slotB).step = k.step
        ∧ (slotSt t c k.slotB).state = (if bit s.ckpt.cfg 25 && (template s c).isSome then .draining else .committed)
        ∧ t.ckpt.commits = s.ckpt.commits + 1 := by
  have hexec : ∃ (n : Nat) (res : List Byte), exec (.locatorWriteComplete c ms) s = .next (removeCheck (match k.ring with
      | some (r, tag) => endBy r 2 tag 0 res (ckptReport c k.number k.step k.slotB 2 (postEvent 0x0941 (0x0900 + c) (some c.val) c (b2n k.slotB)
          k.number.toNat k.step.toNat (logRec 0x0902 (0x0900 + c) c (b2n k.slotB) k.number.toNat n (commitSlot c k s))))
      | none => ckptReport c k.number k.step k.slotB 2 (postEvent 0x0941 (0x0900 + c) (some c.val) c (b2n k.slotB)
          k.number.toNat k.step.toNat (logRec 0x0902 (0x0900 + c) c (b2n k.slotB) k.number.toNat n (commitSlot c k s))))) := by
    change ∃ (n : Nat) (res : List Byte), execLocatorWriteComplete c ms s = _
    unfold execLocatorWriteComplete
    rw [hrun]
    dsimp only
    rw [if_pos (by simp [hcut, hend, hbuffer])]
    exact ⟨_, _, rfl⟩
  obtain ⟨n, res, hexec⟩ := hexec
  have htold : ∀ u : State, (ckptReport c k.number k.step k.slotB 2 (postEvent 0x0941 (0x0900 + c) (some c.val) c (b2n k.slotB)
      k.number.toNat k.step.toNat (logRec 0x0902 (0x0900 + c) c (b2n k.slotB) k.number.toNat n u))).ckpt = u.ckpt := fun u =>
    (ckpt_of_law (ckptReport_law ..) (by decide)).trans ((ckpt_of_law (postEvent_law ..) (by decide)).trans (ckpt_of_law (logRec_law ..) (by decide)))
  have hended : ∀ u : State, (removeCheck (match k.ring with
      | some (r, tag) => endBy r 2 tag 0 res u
      | none => u)).ckpt = u.ckpt := fun u => by
    refine (ckpt_of_law (removeCheck_law ..) (by decide)).trans ?_
    split
    · exact ckpt_of_law (endBy_law ..) (by decide)
    · rfl
  have hreads := commitSlot_reads c k s
  refine .of_exec hexec ?_
  have hckpt := (hended _).trans (htold (commitSlot c k s))
  rw [ckptRun_of_ckpt hckpt, slotSt_of_ckpt hckpt, hckpt]
  exact hreads

theorem ckpt_endDrainer (k : Slot_) (status : Nat) (res : List Byte) (s : State) : (endDrainer k status res s).ckpt = s.ckpt :=
  ckpt_of_law (endDrainer_law ..) (by decide)

theorem does_drainComplete {b : Bool} {ms : Nat} (hdraining : (slotSt s c b).state = .draining) (hgo : drainsPaused s = false) :
    Does (.drainComplete c b ms) s fun t => slotSt t c b = { slotSt s c b with state := .drained, drainer := none }
        ∧ t.ckpt.images = Tbl.set s.ckpt.images (slotSt s c b).lba (slotSt s c b).image := by
  have hexec : exec (.drainComplete c b ms) s = .next (removeCheck (endDrainer (slotSt s c b) 0 (toBytes ms 4) (ckptReport c (slotSt s c b).number
      (slotSt s c b).step b 3 (postEvent 0x0943 (0x0900 + c) (some c.val) c (b2n b) (slotSt s c b).number.toNat 0
      (logRec 0x0906 (0x0900 + c) c (b2n b) (slotSt s c b).number.toNat ms
      (onCkpt (fun t => { t with images := Tbl.set t.images (slotSt s c b).lba (slotSt s c b).image })
        (setSlot c b { slotSt s c b with state := .drained, drainer := none } s))))))) := by
    change execDrainComplete c b ms s = _
    unfold execDrainComplete
    dsimp only
    exact if_pos ⟨hdraining, hgo⟩
  have hckpt : ∀ u : State, (removeCheck (endDrainer (slotSt s c b) 0 (toBytes ms 4) (ckptReport c (slotSt s c b).number
      (slotSt s c b).step b 3 (postEvent 0x0943 (0x0900 + c) (some c.val) c (b2n b) (slotSt s c b).number.toNat 0
      (logRec 0x0906 (0x0900 + c) c (b2n b) (slotSt s c b).number.toNat ms u))))).ckpt = u.ckpt := fun u =>
    (ckpt_of_law (removeCheck_law ..) (by decide)).trans ((ckpt_endDrainer ..).trans ((ckpt_of_law (ckptReport_law ..) (by decide)).trans
      ((ckpt_of_law (postEvent_law ..) (by decide)).trans (ckpt_of_law (logRec_law ..) (by decide)))))
  refine .of_exec hexec ?_
  rw [slotSt_of_ckpt (hckpt _), hckpt]
  exact ⟨Tbl.get_set_same .., rfl⟩

theorem does_drainFail {b : Bool} {cause : Nat} {n : Word} (hdraining : (slotSt s c b).state = .draining) :
    Does (.drainFail c b cause n) s fun t => slotSt t c b = { slotSt s c b with state := .committed, drainer := none } := by
  have hexec : exec (.drainFail c b cause n) s = .next (removeCheck (endDrainer (slotSt s c b) 0x20A [] (logRec 0x0907 (0x0900 + c) c (b2n b) cause n.toNat
      (setSlot c b { slotSt s c b with state := .committed, drainer := none } s)))) := by
    change execDrainFail c b cause n s = _
    unfold execDrainFail drainFail
    dsimp only
    exact congrArg Host.Outcome.next (if_neg (not_not_intro hdraining))
  refine .of_exec hexec ?_
  rw [slotSt_of_ckpt ((ckpt_of_law (removeCheck_law ..) (by decide)).trans ((ckpt_endDrainer ..).trans (ckpt_of_law (logRec_law ..) (by decide))))]
  exact slotSt_setSlot_same ..

/-! ### The restore's end and the MINI image -/

/-- A restore that ends complete: its slot is free, its run gone, its entry completed. -/
theorem endRestore_reads {s' : State} {run : RestoreRun} {img : Image} {b : Bool} {e : Entry} {bytes ms : Nat} {c : Nat} {L : List Part} (hlaw : Law L s s') (hL : .hst ∉ L)
    (hslot : run.slot = some b) (hfind : findEntry s run.ring 5 run.tag = some e) (htoken : entToken e = false)
    (hcqe : bits (entFlags e) 0 1 = 0) (hdma : canDma s = true) (hinv : Inv s) (t : State) (ht : t = endRestore c run img 0 0 0 bytes ms s') :
    (slotSt t c b).reading = false ∧ Tbl.get none t.ckpt.restores c = none ∧ t.ctxs = s'.ctxs
      ∧ Completed s t run.ring e 0 (toBytes img.number.toNat 4 ++ toBytes img.step.toNat 4 ++ toBytes bytes 8 ++ toBytes ms 4 ++ toBytes 0 4) := by
  have hend : ∃ u, t = endBy run.ring 5 run.tag 0 (toBytes img.number.toNat 4 ++ toBytes img.step.toNat 4 ++ toBytes bytes 8 ++ toBytes ms 4
      ++ toBytes 0 4) u ∧ Law [.tally, .log, .ckpt] s' u ∧ (slotSt u c b).reading = false ∧ Tbl.get none u.ckpt.restores c = none := by
    subst ht
    unfold endRestore
    rw [hslot]
    dsimp only
    rw [if_pos rfl, if_neg (by decide)]
    have hlog : ∀ x p0 p1 p2, (logRec 0x0908 (0x0900 + c) x p0 p1 p2 (onCkpt (fun t => { t with restores := Tbl.set t.restores c none })
        (setSlot c b { slotSt s' c b with reading := false } s'))).ckpt = (onCkpt (fun t => { t with restores := Tbl.set t.restores c none })
        (setSlot c b { slotSt s' c b with reading := false } s')).ckpt := fun _ _ _ _ => ckpt_of_law (logRec_law ..) (by decide)
    refine ⟨_, rfl, ?_, ?_, ?_⟩
    · exact Law.step (logRec_law ..) (by decide) (Law.step (onCkpt_law ..) (by decide) ((setSlot_law ..).mono (by decide)))
    · rw [slotSt_of_ckpt (hlog ..)]
      exact congrArg Slot_.reading (slotSt_setSlot_same c b { slotSt s' c b with reading := false } s')
    · rw [hlog]
      exact Tbl.get_set_same ..
  obtain ⟨u, ht, hlaw', hreading, hrestores⟩ := hend
  have hhst : u.hst = s.hst := Eq.trans (hlaw'.1 .hst (by decide)) (hlaw.1 .hst hL)
  have hfind' : findEntry u run.ring 5 run.tag = some e := by
    rw [findEntry, ring_of_hst hhst]
    exact hfind
  rw [endBy, hfind'] at ht
  dsimp only at ht
  rw [if_pos rfl, succeed_of_no_token htoken] at ht
  subst ht
  have hdone := complete_law run.ring e 0 (toBytes img.number.toNat 4 ++ toBytes img.step.toNat 4 ++ toBytes bytes 8 ++ toBytes ms 4 ++ toBytes 0 4) u
  refine ⟨?_, ?_, ?_, ?_⟩
  · rw [slotSt_of_ckpt (ckpt_of_law hdone (by decide))]
    exact hreading
  · rw [ckpt_of_law hdone (by decide)]
    exact hrestores
  · exact Eq.trans (hdone.1 .ctxs (by decide)) (hlaw'.1 .ctxs (by decide))
  · exact completed_complete (ring_of_hst hhst _) ((canDma_of_hst hhst).trans hdma) (hlaw'.2 (hlaw.2 hinv)) hcqe

/-- A restore of the PORTABLE part that nothing stops. -/
theorem finishRestore_of_portable {run : RestoreRun} {i : Image} {e : Entry} {c sect gran ms : Nat} (hportable : run.full = false) (honline : i.offline = false)
    (hcreated : (ctx s c).created = true) (hfind : findEntry s run.ring 5 run.tag = some e) (hreach : restoreReach s run c e i = none) :
    finishRestore c run i 0 sect gran ms s = endRestore c run i 0 0 0 (restoredBytes i false) ms (restoreDdr c run i true 0 0 s) := by
  have hbind : ((findEntry s run.ring 5 run.tag).bind fun e => restoreReach s run c e i) = none := by rw [hfind]; exact hreach
  unfold finishRestore
  rw [if_neg (by simp [hcreated]), if_neg (by simp [honline]), if_neg (by decide), hbind]
  dsimp only
  rw [if_neg (not_not_intro rfl), if_neg (by simp [hportable]), hportable]

theorem does_restoreComplete {sect gran ms : Nat} {img : Option Image} {run : RestoreRun} {b : Bool} {i : Image} {e : Entry}
    (hrun : Tbl.get none s.ckpt.restores c = some run) (hslot : run.slot = some b) (hportable : run.full = false) (hi : i = (slotSt s c b).image)
    (honline : i.offline = false) (hcreated : (ctx s c).created = true) (hfind : findEntry s run.ring 5 run.tag = some e) (htoken : entToken e = false)
    (hreach : restoreReach s run c e i = none) (hcqe : bits (entFlags e) 0 1 = 0) (hdma : canDma s = true) (hinv : Inv s) :
    Does (.restoreComplete c 0 sect gran ms img) s fun t => (slotSt t c b).reading = false ∧ Tbl.get none t.ckpt.restores c = none
        ∧ (ctx t c).seed = i.seed ∧ (ctx t c).modeEd = i.modeEd ∧ (ctx t c).modeTab = i.modeTab
        ∧ Completed s t run.ring e 0 (toBytes i.number.toNat 4 ++ toBytes i.step.toNat 4 ++ toBytes (restoredBytes i false) 8 ++ toBytes ms 4 ++ toBytes 0 4) := by
  have himage : restoreImage s c run img = i := by
    unfold restoreImage
    rw [hslot, hi]
  have hexec : exec (.restoreComplete c 0 sect gran ms img) s
      = .next (endRestore c run i 0 0 0 (restoredBytes i false) ms (restoreDdr c run i true 0 0 s)) := by
    change execRestoreComplete c 0 sect gran ms img s = _
    unfold execRestoreComplete
    rw [hrun]
    dsimp only
    rw [himage, if_pos (.inr (by rw [hslot]; rfl))]
    exact congrArg Host.Outcome.next (finishRestore_of_portable hportable honline hcreated hfind hreach)
  have hjob : (restoreDdr c run i true 0 0 s).ctxs = (restoreJob c i s).ctxs := by
    exact foldl_keeps (read := State.ctxs) (f := fun (s : State) (p : Granule × Section) =>
      writeGranule (sectionTo run p.2 + p.1.ix * granule) (granLen p.2 p.1.ix) p.1 (granCells p.2 p.1) s)
      (fun _ _ => (writeGranule_law ..).1 .ctxs (by decide)) _ (restoreJob c i s)
  obtain ⟨hreading, hrestores, hctxs, hdone⟩ := endRestore_reads (c := c) (bytes := restoredBytes i false) (ms := ms) (restoreDdr_law c run i true 0 0 s) (by decide)
    hslot hfind htoken hcqe hdma hinv _ rfl
  refine .of_exec hexec ⟨hreading, hrestores, ?_⟩
  rw [ctx_of_ctxs (hctxs.trans hjob), restoreJob, ctx_updCtx_same]
  exact ⟨rfl, rfl, rfl, hdone⟩

theorem does_miniWriteComplete {us : Nat} (hbusy : s.ckpt.miniBusy = true) (hpower : s.pwr.failing = none) :
    Does (.miniWriteComplete us) s fun t => t.ckpt.miniBusy = false ∧ t.ckpt.mini = some (miniNow s) := by
  have hexec : ∃ x h, exec (.miniWriteComplete us) s = .next (logRec 0x090A 0x0904 x us h 0 (onCkpt (fun t => { t with mini := some (miniNow s), miniBusy := false })
      { s with freeCtr := s.freeCtr + 1 })) := by
    change ∃ x h, execMiniWriteComplete us s = _
    unfold execMiniWriteComplete
    rw [if_pos hbusy]
    dsimp only [drawFree]
    rw [hpower]
    exact ⟨_, _, rfl⟩
  obtain ⟨x, h, hexec⟩ := hexec
  refine .of_exec hexec ?_
  rw [ckpt_of_law (logRec_law ..) (by decide)]
  exact ⟨rfl, rfl⟩

end

/-- Settles O27, a lemma for each row. -/
theorem checkpointEventsComplete : Obligations.CheckpointEventsComplete :=
  ⟨fun _ _ _ _ hrun hfreezing hstopped hlists _ => does_fullFreezeComplete hrun hfreezing hstopped hlists, fun _ _ _ => does_periodicCheckpoint,
    fun _ _ _ _ => does_granuleCopy_copied, fun _ _ _ _ => does_granuleCopy, fun _ _ _ _ _ _ => does_copyAheadRelease,
    fun _ _ _ _ => does_locatorWriteComplete, fun _ _ _ _ => does_drainComplete, fun _ _ _ _ _ => does_drainFail,
    fun _ _ _ _ _ _ _ _ _ _ => does_restoreComplete, fun _ _ => does_miniWriteComplete⟩

end Sys2Proof.Machine
end

section
/-! ### What fencing and table reads leave of the resets (16_reset_and_recovery.md R338, R341) -/

namespace Sys2Proof.Machine

/-- A run without the cores fenced while it goes on. -/
def plainRun (x : ResetRun) : ResetRun := { x with remap := [] }

/-- The resets but for the cores fenced while they go on, the commands held and the samples written. -/
def resetView (s : State) : RstSt :=
  { s.rst with runs := s.rst.runs.map plainRun, held := [], sampleSeq := 0, samplePos := 0, sampleNext := 0 }

section
variable {s t : State}

theorem counts_of_view (h : resetView t = resetView s) : t.rst.counts = s.rst.counts := (congrArg RstSt.counts h :)

theorem last_of_view (h : resetView t = resetView s) : t.rst.lastKind = s.rst.lastKind ∧ t.rst.lastCause = s.rst.lastCause ∧ t.rst.lastIndex = s.rst.lastIndex :=
  ⟨(congrArg RstSt.lastKind h :), (congrArg RstSt.lastCause h :), (congrArg RstSt.lastIndex h :)⟩

theorem no_runs_of_view (h : resetView t = resetView s) (hnone : s.rst.runs = []) : t.rst.runs = [] := by
  have hruns : t.rst.runs.map plainRun = s.rst.runs.map plainRun := (congrArg RstSt.runs h :)
  rw [hnone] at hruns
  exact List.map_eq_nil_iff.mp hruns

theorem resetView_of_rst (h : t.rst = s.rst) : resetView t = resetView s := by rw [resetView, resetView, h]

theorem resetView_of_law {L : List Part} (h : Law L s t) (hL : .rst ∉ L) : resetView t = resetView s := resetView_of_rst (h.1 .rst hL)

/-! ### Fencing -/

theorem resetView_fenceLater (cause : Nat) (s : State) (g : Nat) : resetView (fenceLater cause s g) = resetView s := by
  have hplain : ∀ x : ResetRun, plainRun (if (domainCores x.kind x.index).contains g then { x with remap := (g :: x.remap).dedup } else x) = plainRun x :=
    fun x => by split <;> rfl
  have hruns : (fenceLater cause s g).rst.runs.map plainRun = s.rst.runs.map plainRun := by
    unfold fenceLater
    dsimp only
    rw [List.map_map]
    exact congrArg (fun f => s.rst.runs.map f) (funext hplain)
  rw [resetView, resetView, hruns]
  rfl

theorem rst_store (a : Nat) (bs : List Byte) (s : State) : (store a bs s).rst = s.rst := (store_law ..).1 .rst (by decide)

/-- A sample written counts one more; nothing else of the resets changes but where samples lie. -/
theorem rst_sampleSet (kind cause index : Nat) (prev : Bool) (t : Nat) (gs : List Nat) (s : State) :
    ∃ pos next, (sampleSet kind cause index prev t gs s).rst = { s.rst with sampleSeq := s.rst.sampleSeq + 1, samplePos := pos, sampleNext := next } := by
  unfold sampleSet
  dsimp only
  rw [rst_store]
  exact ⟨_, _, rfl⟩

theorem resetView_fenceMark (cause : Nat) (k : CoreSt) (g : Nat) (s : State) : resetView (fenceMark cause k g s) = resetView s := by
  have hmark : ∀ (u : State) f l, resetView { updCore g f u with idb := l } = resetView u := fun _ _ _ => rfl
  unfold fenceMark
  dsimp only
  rw [resetView_of_law (logCore_law ..) (by decide), hmark]
  obtain ⟨pos, next, hrst⟩ := rst_sampleSet 0 4 g (decide (k.state = .assigned)) s.time.ns.toNat [g] s
  rw [resetView, hrst]
  rfl

theorem resetView_fenceNow (gs : List Nat) (cause : Nat → Nat) (s : State) : resetView (fenceNow gs cause s) = resetView s := by
  have hmarks : ∀ (l : List (Nat × CoreSt)) (u : State), resetView (l.foldl (fun s p => fenceMark (cause p.1) p.2 p.1 (disposeCore p.1 s)) u) = resetView u :=
    fun l u => foldl_keeps (read := resetView) (f := fun (s : State) (p : Nat × CoreSt) => fenceMark (cause p.1) p.2 p.1 (disposeCore p.1 s))
      (fun s p => (resetView_fenceMark ..).trans (resetView_of_law (disposeCore_law ..) (by decide))) l u
  have hremaps : ∀ (l : List (Nat × CoreSt)) (u : State), resetView (l.foldl (fun s p => remap p.2.ctx.val p.2.vcore p.1 s) u) = resetView u :=
    fun l u => foldl_keeps (read := resetView) (f := fun (s : State) (p : Nat × CoreSt) => remap p.2.ctx.val p.2.vcore p.1 s)
      (fun s p => resetView_of_law (remap_law ..) (by decide)) l u
  exact (hremaps ..).trans (hmarks ..)

theorem resetView_rewound (l : List Nat) (s : State) : resetView (l.foldl (fun s c => reportRewound c s) s) = resetView s :=
  foldl_keeps (read := resetView) (f := fun (s : State) (c : Nat) => reportRewound c s) (fun _ _ => resetView_of_law (reportRewound_law ..) (by decide)) l s

theorem resetView_recheckState (s : State) : resetView (recheckState s) = resetView s := resetView_of_law (recheckState_law ..) (by decide)

theorem resetView_fenceCores (gs : List Nat) (cause : Nat) (s : State) : resetView (fenceCores gs cause s) = resetView s := by
  have hlater : ∀ (l : List Nat) (u : State), resetView (l.foldl (fenceLater cause) u) = resetView u := fun l u =>
    foldl_keeps (read := resetView) (fun s g => resetView_fenceLater ..) l u
  have hdispose : ∀ (l : List Nat) (u : State), resetView (l.foldl (fun s c => disposeCtx c (genAdvance c s)) u) = resetView u := fun l u =>
    foldl_keeps (read := resetView) (f := fun (s : State) (c : Nat) => disposeCtx c (genAdvance c s))
      (fun _ _ => (resetView_of_law (disposeCtx_law ..) (by decide)).trans (resetView_of_law (genAdvance_law ..) (by decide))) l u
  unfold fenceCores
  dsimp only
  split
  · rw [resetView_rewound, resetView_fenceNow, hdispose, hlater]
  · rw [resetView_recheckState, resetView_rewound, resetView_fenceNow, hdispose, hlater]

theorem resetView_fenceCore (g cause : Nat) (s : State) : resetView (fenceCore g cause s) = resetView s := resetView_fenceCores ..

/-! ### Memory errors and table reads -/

theorem resetView_eccDouble (a : Nat) (s : State) : resetView (eccDouble a s) = resetView s := by
  have hcore : ∀ g k (u : State), resetView (setCore g k u) = resetView u := fun _ _ _ => rfl
  have hclu : ∀ c k (u : State), resetView (setClu c k u) = resetView u := fun _ _ _ => rfl
  have hlogCore : ∀ g a b c d e (u : State), resetView (logCore g a b c d e u) = resetView u := fun _ _ _ _ _ _ _ => resetView_of_law (logCore_law ..) (by decide)
  have hlogClu : ∀ g a b c d e (u : State), resetView (logClu g a b c d e u) = resetView u := fun _ _ _ _ _ _ _ => resetView_of_law (logRec_law ..) (by decide)
  have hfault : ∀ g i (u : State), resetView (coreFault g i u) = resetView u := fun _ _ _ => resetView_of_law (coreFault_law ..) (by decide)
  have hcluFault : ∀ c i (u : State), resetView (cluFault c i u) = resetView u := fun _ _ _ => resetView_of_law (cluFault_law ..) (by decide)
  unfold eccDouble
  split
  · dsimp only
    split
    · exact hfault ..
    · split
      · exact (resetView_fenceCore ..).trans ((hlogCore ..).trans ((hcore ..).trans (hfault ..)))
      · exact (hlogCore ..).trans ((hcore ..).trans (hfault ..))
  · dsimp only
    split
    · exact hcluFault ..
    · exact (hlogClu ..).trans ((hclu ..).trans (hcluFault ..))
  · rfl

theorem resetView_readNoted (a n : Nat) (s : State) : resetView (readNoted a n s) = resetView s := by
  have hread : resetView (readRange a n s) = resetView s := resetView_of_law (readRange_law ..) (by decide)
  unfold readNoted
  dsimp only
  split
  · exact (resetView_eccDouble ..).trans hread
  · exact hread

theorem resetView_tableRead (r : Nat) (e : Entry) (da n : Nat) (s : State) : resetView (tableRead r e da n s) = resetView s := by
  unfold tableRead
  split
  · exact resetView_readNoted ..
  · rfl

/-! ### The commands held -/

theorem resetView_complete (r : Nat) (e : Entry) (status : Nat) (result : List Byte) (s : State) : resetView (complete r e status result s) = resetView s :=
  resetView_of_law (complete_law ..) (by decide)

theorem resetView_doStart (r : Nat) (e : Entry) (s : State) : resetView (doStart r e s) = resetView s := by
  have htable : ∀ da n (act : List Byte → State → State), (∀ bs u, resetView (act bs u) = resetView u) → resetView (withTable r e da n s act) = resetView s := by
    intro da n act hact
    unfold withTable
    dsimp only
    split
    · rfl
    · split
      · exact (resetView_complete ..).trans (resetView_tableRead ..)
      · exact (hact ..).trans (resetView_tableRead ..)
  unfold doStart
  dsimp only
  split
  · exact resetView_complete ..
  split
  · exact resetView_complete ..
  split
  · exact resetView_complete ..
  split
  · exact resetView_complete ..
  exact htable _ _ _ fun bs u => (resetView_complete ..).trans (resetView_of_law (startAll_law ..) (by decide))

theorem resetView_runHeld (s : State) (h : Nat × Entry) : resetView (runHeld s h) = resetView s := by
  unfold runHeld
  split
  · exact resetView_of_law (doTeardown_law ..) (by decide)
  · split
    · rfl
    · exact resetView_doStart ..

theorem resetView_releaseHeld (s : State) : resetView (releaseHeld s) = resetView s := by
  have hheld : ∀ l : RstSt → List (Nat × Entry), resetView (onRst (fun t => { t with held := l t }) s) = resetView s := fun _ => rfl
  exact (foldl_keeps (read := resetView) resetView_runHeld _ _).trans (hheld _)

end

end Sys2Proof.Machine
end

section
/-! ### Resets begin, drain, clear, release and escalate (16_reset_and_recovery.md R334 to R341) -/

namespace Sys2Proof.Machine

section
variable {s t : State}

theorem rst_of_law {L : List Part} (h : Law L s t) (hL : .rst ∉ L) : t.rst = s.rst := h.1 .rst hL

/-! ### The trigger -/

/-- A checkpoint that a module reset ends starts no stream. -/
theorem ctxs_ckptFail_reset (c : Nat) (s : State) : (ckptFail c 4 s).ctxs = s.ctxs := by
  unfold ckptFail
  split
  · rfl
  next k _ =>
    have hslot : ∀ u : State, (setSlot c k.slotB {} (onCkpt (fun t => { t with runs := Tbl.set t.runs c none }) u)).ctxs = u.ctxs := fun _ => rfl
    have hlogged : ∀ u : State, (ckptReport c k.number k.step k.slotB 4 (postEvent 0x0942 (0x0900 + c) (some c) c k.number.toNat 4 0
        (logRec 0x0903 (0x0900 + c) c k.number.toNat 4 k.done u))).ctxs = u.ctxs := fun u =>
      Eq.trans ((ckptReport_law ..).1 .ctxs (by decide)) (Eq.trans ((postEvent_law ..).1 .ctxs (by decide)) ((logRec_law ..).1 .ctxs (by decide)))
    have hdone : ∀ (u : State) (bs : List Byte), (match k.ring with
        | some (r, tag) => completeBy r 2 tag 0x203 bs u
        | none => u).ctxs = u.ctxs := fun u bs => by
      split
      · exact (completeBy_law ..).1 .ctxs (by decide)
      · rfl
    dsimp only
    rw [if_neg (by simp)]
    exact Eq.trans ((removeCheck_law ..).1 .ctxs (by decide)) ((hdone ..).trans ((hlogged _).trans (hslot s)))

theorem ctxs_moduleStops (s : State) : (moduleStops s).ctxs = s.ctxs :=
  Eq.trans ((onHst_law ..).1 .ctxs (by decide)) (Eq.trans ((endSession_law ..).1 .ctxs (by decide))
    (foldl_keeps (read := State.ctxs) (f := fun (s : State) (c : Nat) => ckptFail c 4 s) (fun s c => ctxs_ckptFail_reset c s) _ s))

/-- The work a reset ends at its trigger. -/
def stopped (kind index : Nat) (s : State) : State :=
  if kind = 5 then lanePairOff (index / 16) (index % 16) s else if 6 ≤ kind then moduleStops s else s

theorem rst_stopped (kind index : Nat) (s : State) : (stopped kind index s).rst = s.rst := by
  unfold stopped
  split
  · exact rst_of_law (lanePairOff_law ..) (by decide)
  · split
    · exact rst_of_law (moduleStops_law ..) (by decide)
    · rfl

theorem ctxs_stopped (kind index : Nat) (s : State) : (stopped kind index s).ctxs = s.ctxs := by
  unfold stopped
  split
  · exact (lanePairOff_law ..).1 .ctxs (by decide)
  · split
    · exact ctxs_moduleStops s
    · rfl

/-- The generations of the contexts advanced. -/
def advanced (cs : List Nat) (s : State) : State := cs.foldl (fun s c => genAdvance c s) s

theorem rst_advanced (cs : List Nat) (s : State) : (advanced cs s).rst = s.rst :=
  foldl_keeps (read := State.rst) (f := fun (s : State) (c : Nat) => genAdvance c s) (fun _ _ => rst_of_law (genAdvance_law ..) (by decide)) cs s

theorem ctxResets_of_rst (h : t.rst = s.rst) (c : Nat) : ctxResets t c = ctxResets s c := by rw [ctxResets, ctxResets, h]

theorem gen_genAdvance (c d : Nat) (s : State) :
    (ctx (genAdvance c s) d).gen = if d = c ∧ ctxResets s c = false then nextGen (ctx s c).gen else (ctx s d).gen := by
  have hcores : ∀ (l : List Nat) (f : CoreSt → CoreSt) (u : State), (l.foldl (fun s g => updCore g f s) u).ctxs = u.ctxs := fun l f u =>
    foldl_keeps (read := State.ctxs) (f := fun (s : State) (g : Nat) => updCore g f s) (fun _ _ => rfl) l u
  have hsent : ∀ (u : State) (l : List Nat) (f : CoreSt → CoreSt) (new old : Byte),
      ctx (sendGenChange c new old (l.foldl (fun s g => updCore g f s) u)) d = ctx u d := fun u l f new old =>
    ctx_of_ctxs (Eq.trans ((sendGenChange_law ..).1 .ctxs (by decide)) (hcores l f u)) d
  unfold genAdvance
  split
  next hheld => rw [if_neg (by simp [hheld])]
  next hfree =>
    dsimp only
    rw [hsent]
    by_cases hd : d = c
    · subst hd
      rw [ctx_updCtx_same, if_pos ⟨rfl, by simpa using hfree⟩]
    · rw [updCtx, ctx_setCtx_other _ _ _ _ hd, if_neg (by simp [hd])]

/-- A reset advances the generation of each of its contexts that no other reset holds. -/
theorem gen_advanced {cs : List Nat} (hnodup : cs.Nodup) (s : State) (c : Nat) :
    (ctx (advanced cs s) c).gen = if c ∈ cs ∧ ctxResets s c = false then nextGen (ctx s c).gen else (ctx s c).gen := by
  induction cs generalizing s with
  | nil => simp [advanced]
  | cons d cs ih =>
    obtain ⟨hnot, hnodup⟩ := List.nodup_cons.mp hnodup
    have hnext := ih hnodup (genAdvance d s)
    rw [ctxResets_of_rst (rst_of_law (genAdvance_law ..) (by decide)), gen_genAdvance] at hnext
    refine Eq.trans (b := (ctx (advanced cs (genAdvance d s)) c).gen) rfl (hnext.trans ?_)
    by_cases hcd : c = d
    · subst hcd
      simp [hnot]
    · simp [hcd]

theorem nodup_affected (s : State) (kind index : Nat) : (affected s kind index).Nodup := by
  unfold affected
  split
  · exact List.nodup_nil
  · split
    · exact List.nodup_range.filter _
    · exact List.nodup_dedup _

/-- A reset begun: its run stands last, its kind is counted, its contexts' generations have advanced. -/
theorem beginReset_reads (kind index cause : Nat) (s : State) :
    (∃ run, (beginReset kind index cause s).rst.runs = (s.rst.runs.filter fun x => !insideDomain x.kind x.index kind index) ++ [run]
        ∧ run.kind = kind ∧ run.index = index ∧ run.cause = cause ∧ run.at_ = s.now ∧ run.phase = if kind = 5 then 5 else 3)
    ∧ (beginReset kind index cause s).rst.counts = Tbl.set s.rst.counts kind (satAdd 255 (Tbl.get 0 s.rst.counts kind) 1)
    ∧ (beginReset kind index cause s).rst.dumpPending = s.rst.dumpPending
    ∧ (beginReset kind index cause s).ctxs = (advanced (affected s kind index) s).ctxs := by
  have hshape : ∃ run mask, beginReset kind index cause s = stopped kind index (report (recWords 0x0801 (resetSrc kind index) kind index cause mask)
        (logRec 0x0801 (resetSrc kind index) kind index cause mask
        (onRst (fun t => { t with runs := (t.runs.filter fun x => !insideDomain x.kind x.index kind index) ++ [run] })
          (countReset kind (advanced (affected s kind index) s)))))
      ∧ run.kind = kind ∧ run.index = index ∧ run.cause = cause ∧ run.at_ = s.now ∧ run.phase = if kind = 5 then 5 else 3 :=
    ⟨_, _, rfl, rfl, rfl, rfl, rfl, rfl⟩
  obtain ⟨run, mask, hshape, hrun⟩ := hshape
  have hrst : ∀ u : State, (stopped kind index (report (recWords 0x0801 (resetSrc kind index) kind index cause mask)
      (logRec 0x0801 (resetSrc kind index) kind index cause mask u))).rst = u.rst := fun u =>
    (rst_stopped ..).trans ((rst_of_law (report_law ..) (by decide)).trans (rst_of_law (logRec_law ..) (by decide)))
  have hctxs : ∀ u : State, (stopped kind index (report (recWords 0x0801 (resetSrc kind index) kind index cause mask)
      (logRec 0x0801 (resetSrc kind index) kind index cause mask u))).ctxs = u.ctxs := fun u =>
    (ctxs_stopped ..).trans (Eq.trans ((report_law ..).1 .ctxs (by decide)) ((logRec_law ..).1 .ctxs (by decide)))
  have hcounted : (onRst (fun t => { t with runs := (t.runs.filter fun x => !insideDomain x.kind x.index kind index) ++ [run] })
      (countReset kind (advanced (affected s kind index) s))).rst
      = { s.rst with counts := Tbl.set s.rst.counts kind (satAdd 255 (Tbl.get 0 s.rst.counts kind) 1)
                     runs := (s.rst.runs.filter fun x => !insideDomain x.kind x.index kind index) ++ [run] } := by
    unfold onRst countReset onRst
    dsimp only
    rw [rst_advanced]
  rw [hshape, hrst, hctxs, hcounted]
  exact ⟨⟨run, rfl, hrun⟩, rfl, rfl, rfl⟩

/-- A reset that nothing stands against begins. -/
theorem trigReset_begins {kind index cause : Nat} (hon : s.boot.state ≠ .off) (hpower : s.pwr.failing = none)
    (hnone : (s.rst.runs.any fun x => insideDomain kind index x.kind x.index) = false) (hok : domainOk s kind index = true) :
    trigReset kind index cause s = beginReset kind index cause s := by
  unfold trigReset
  rw [if_neg (by simp [hon, hpower]), if_neg (by simp [hnone]), if_neg (by simp [hok])]

theorem exec_resetCmd {c : Instr} {kind index cause : Nat} (h : ResetCmd c kind index cause) (s : State) : exec c s = .next (trigReset kind index cause s) := by
  rcases h with ⟨_, rfl, rfl, rfl⟩ | ⟨_, rfl, rfl, rfl⟩ | ⟨_, rfl, rfl, rfl⟩ | ⟨rfl, rfl, rfl⟩ | ⟨_, _, rfl, rfl, rfl⟩ | ⟨rfl, rfl, rfl⟩ | ⟨rfl, rfl, rfl⟩
  all_goals rfl

theorem does_resetCmd {c : Instr} {kind index cause : Nat} (h : ResetCmd c kind index cause) (hon : s.boot.state ≠ .off) (hpower : s.pwr.failing = none)
    (hnone : (s.rst.runs.any fun x => insideDomain kind index x.kind x.index) = false) (hok : domainOk s kind index = true) :
    Does c s fun t => (∃ x ∈ t.rst.runs, x.kind = kind ∧ x.index = index ∧ x.cause = cause ∧ x.at_ = s.now ∧ x.phase = if kind = 5 then 5 else 3)
        ∧ Tbl.get 0 t.rst.counts kind = satAdd 255 (Tbl.get 0 s.rst.counts kind) 1
        ∧ ∀ x ∈ affected s kind index, ctxResets s x = false → (ctx t x).gen = nextGen (ctx s x).gen := by
  obtain ⟨⟨run, hruns, hrun⟩, hcounts, -, hctxs⟩ := beginReset_reads kind index cause s
  have hexec := exec_resetCmd h s
  rw [trigReset_begins hon hpower hnone hok] at hexec
  refine .of_exec hexec ⟨⟨run, ?_, hrun⟩, ?_, fun x hx hfree => ?_⟩
  · rw [hruns]
    exact List.mem_append_right _ (List.mem_singleton.mpr rfl)
  · rw [hcounts, Tbl.get_set_same]
  · rw [ctx_of_ctxs hctxs, gen_advanced (nodup_affected ..), if_pos ⟨hx, hfree⟩]

/-! ### The drain and the clear -/

theorem does_resetDrainEnd {x : ResetRun} (hrun : runIn s 3 = some x) (hdone : x.at_ + 100000 ≤ s.now ∨ x.ctxs.all (ctxDrained s) = true) :
    Does .resetDrainEnd s fun t => t.rst.runs = s.rst.runs.map fun y => if y = x then { x with phase := 4 } else y := by
  have hexec : exec .resetDrainEnd s = .next (x.ctxs.foldl (fun s c => disposeCtx c s) (setRun x { x with phase := 4 } s)) := by
    change execResetDrainEnd s = _
    unfold execResetDrainEnd
    rw [hrun]
    exact if_pos hdone
  have hrst : ∀ (l : List Nat) (u : State), (l.foldl (fun s c => disposeCtx c s) u).rst = u.rst := fun l u =>
    foldl_keeps (read := State.rst) (f := fun (s : State) (c : Nat) => disposeCtx c s) (fun _ _ => rst_of_law (disposeCtx_law ..) (by decide)) l u
  refine .of_exec hexec ?_
  rw [hrst]
  rfl

theorem coreState_store (a : Nat) (bs : List Byte) (g : Nat) (s : State) : (core (store a bs s) g).state = (core s g).state := by
  have hcopy : ∀ n, (copyAhead a n s).cores = s.cores := fun n => (copyAhead_law ..).1 .cores (by decide)
  have hgather : ∀ (n : Nat) (u : State), (gatherRange a n u).cores = u.cores := fun n u => (gatherRange_law ..).1 .cores (by decide)
  have hwrite : ∀ u : State, (writeMem a bs u).cores = u.cores := fun _ => rfl
  unfold store
  dsimp only
  split
  · exact congrArg CoreSt.state (core_of_cores ((hgather _ _).trans ((hwrite _).trans (hcopy _))) g)
  · rfl
  · rw [core_updCore]
    split
    · next hg => rw [hg]; rfl
    · rfl
  · rfl

theorem coreState_sampleSet (kind cause index : Nat) (prev : Bool) (pod : Nat) (gs : List Nat) (g : Nat) (s : State) :
    (core (sampleSet kind cause index prev pod gs s) g).state = (core s g).state := by
  have hset : ∀ (u : State) (r : RstSt), core { u with rst := r } g = core u g := fun _ _ => rfl
  unfold sampleSet
  dsimp only
  rw [hset]
  exact coreState_store ..

theorem streams_clearCore {g : Nat} (habsent : (core s g).state ≠ .absent) (hfenced : (core s g).state ≠ .fenced) :
    (core (clearCore g s) g).streams = [] := by
  unfold clearCore
  dsimp only
  rw [if_neg (by simp [habsent, hfenced]), core_updCore, if_pos rfl]

theorem streams_clearDomain {kind index : Nat} (hkind : kind = 1) (habsent : (core s index).state ≠ .absent) (hfenced : (core s index).state ≠ .fenced) :
    (core (clearDomain kind index s) index).streams = [] := by
  subst hkind
  unfold clearDomain
  exact streams_clearCore habsent hfenced

theorem streams_cleared {u : State} {x y : ResetRun} (hstate : (core u x.index).state = (core s x.index).state) (hkind : x.kind = 1)
    (habsent : (core s x.index).state ≠ .absent) (hfenced : (core s x.index).state ≠ .fenced) :
    (core (clearDomain x.kind x.index (setRun x y u)) x.index).streams = [] := by
  have hcore : ∀ v : State, core (setRun x y v) x.index = core v x.index := fun _ => rfl
  exact streams_clearDomain hkind (by rw [hcore, hstate]; exact habsent) (by rw [hcore, hstate]; exact hfenced)

theorem does_resetSampleWritten {x : ResetRun} (hrun : runIn s 4 = some x) : Does .resetSampleWritten s fun t =>
    t.rst.runs = (s.rst.runs.map fun y => if y = x then { x with phase := 5 } else y)
        ∧ (x.kind = 1 → (core s x.index).state ≠ .absent → (core s x.index).state ≠ .fenced → (core t x.index).streams = [])
        ∧ t.rst.sampleSeq = s.rst.sampleSeq + 1 := by
  have hexec : exec .resetSampleWritten s = .next (clearDomain x.kind x.index (setRun x { x with phase := 5 }
      (sampleSet x.kind x.cause x.index true x.pod x.cores s))) := by
    change execResetSampleWritten s = _
    unfold execResetSampleWritten
    rw [hrun]
  obtain ⟨pos, next, hsample⟩ := rst_sampleSet x.kind x.cause x.index true x.pod x.cores s
  have hstate := coreState_sampleSet x.kind x.cause x.index true x.pod x.cores x.index s
  generalize sampleSet x.kind x.cause x.index true x.pod x.cores s = u at hexec hsample hstate
  have hrst : (clearDomain x.kind x.index (setRun x { x with phase := 5 } u)).rst
      = { u.rst with runs := u.rst.runs.map fun y => if y = x then { x with phase := 5 } else y } := rst_of_law (clearDomain_law ..) (by decide)
  have hruns : (clearDomain x.kind x.index (setRun x { x with phase := 5 } u)).rst.runs
      = s.rst.runs.map fun y => if y = x then { x with phase := 5 } else y := by rw [hrst, hsample]
  have hseq : (clearDomain x.kind x.index (setRun x { x with phase := 5 } u)).rst.sampleSeq = s.rst.sampleSeq + 1 := by rw [hrst, hsample]
  exact .of_exec hexec ⟨hruns, streams_cleared hstate, hseq⟩

/-! ### The release -/

/-- What stands of the resets after the last one's release, whatever goes on from there. -/
theorem released_of_view {u : State} {x : ResetRun} (hview : resetView t = resetView u) (hnone : u.rst.runs = [])
    (hlast : u.rst.lastKind = x.kind ∧ u.rst.lastCause = x.cause ∧ u.rst.lastIndex = x.index) :
    t.rst.runs = [] ∧ t.rst.lastKind = x.kind ∧ t.rst.lastCause = x.cause ∧ t.rst.lastIndex = x.index := by
  obtain ⟨hkind, hcause, hindex⟩ := last_of_view hview
  exact ⟨no_runs_of_view hview hnone, hkind.trans hlast.1, hcause.trans hlast.2.1, hindex.trans hlast.2.2⟩

theorem resetView_releaseRun (x : ResetRun) (us : Nat) (s : State) : resetView (releaseRun x us s) = resetView (lastReset x s) := by
  have hlit : ∀ u : State, resetView (if x.kind = 5 then pairLit (x.index / 16) (x.index % 16) u else u) = resetView u := fun u => by
    split
    · exact resetView_of_law (pairLit_law ..) (by decide)
    · rfl
  have hfree : ∀ u : State, resetView (if x.kind = 1 ∧ x.cause = 2 then updCore x.index (fun k => { k with hangFree := some u.now }) u else u) = resetView u :=
    fun u => by split <;> rfl
  have hposted : ∀ (u : State) seq, resetView (postEvent 0x0841 (resetSrc x.kind x.index) none x.kind x.index x.cause us
      (logRec 0x0802 (resetSrc x.kind x.index) x.kind x.index us seq u)) = resetView u := fun u seq =>
    (resetView_of_law (postEvent_law ..) (by decide)).trans (resetView_of_law (logRec_law ..) (by decide))
  unfold releaseRun
  dsimp only
  rw [resetView_recheckState, resetView_releaseHeld, hfree, hposted, resetView_rewound, hlit, resetView_fenceNow]

/-- The release of the only reset. -/
theorem exec_resetRelease {us : Nat} {x : ResetRun} (hruns : s.rst.runs = [x]) (hphase : x.phase = 5) (hready : x.kind < 6 ∨ s.rst.dumpPending = none) :
    exec (.resetRelease us) s = .next (if x.kind < 6 then releaseRun x us s else releaseModule x us s) := by
  have hfind : (s.rst.runs.find? fun x => x.phase = 5 ∧ (x.kind < 6 ∨ s.rst.dumpPending.isNone)) = some x := by
    rw [hruns]
    exact List.find?_cons_of_pos (by simpa [hphase] using hready)
  change execResetRelease us s = _
  unfold execResetRelease
  rw [hfind]

theorem lastReset_reads {x : ResetRun} (hruns : s.rst.runs = [x]) : (lastReset x s).rst.runs = [] ∧ (lastReset x s).rst.lastKind = x.kind
    ∧ (lastReset x s).rst.lastCause = x.cause ∧ (lastReset x s).rst.lastIndex = x.index := by
  refine ⟨?_, rfl, rfl, rfl⟩
  change s.rst.runs.erase x = []
  rw [hruns]
  exact List.erase_cons_head ..

theorem does_resetRelease {us : Nat} {x : ResetRun} (hruns : s.rst.runs = [x]) (hphase : x.phase = 5) (hkind : x.kind < 6) :
    Does (.resetRelease us) s fun t => t.rst.runs = [] ∧ t.rst.lastKind = x.kind ∧ t.rst.lastCause = x.cause ∧ t.rst.lastIndex = x.index := by
  have hexec := exec_resetRelease (us := us) hruns hphase (.inl hkind)
  rw [if_pos hkind] at hexec
  obtain ⟨hnone, hlast⟩ := lastReset_reads hruns
  exact .of_exec hexec (released_of_view (resetView_releaseRun x us s) hnone hlast)

/-- What a module reset's release logs. -/
def loggedRelease (x : ResetRun) (us : Nat) (s : State) : State :=
  logRec 0x0802 (resetSrc x.kind x.index) x.kind x.index us (lastReset x s).rst.sampleSeq (lastReset x s)

theorem exec_resetRelease_module {us : Nat} {x : ResetRun} (hruns : s.rst.runs = [x]) (hphase : x.phase = 5) (hkind : 6 ≤ x.kind)
    (hdump : s.rst.dumpPending = none) :
    exec (.resetRelease us) s = .next (if x.kind = 6 then warmState (loggedRelease x us s) else coldState (loggedRelease x us s)) := by
  have hexec := exec_resetRelease (us := us) hruns hphase (.inr hdump)
  rw [if_neg (by omega)] at hexec
  exact hexec

/-- What both module resets clear, and what they keep of the resets. -/
theorem bareState_reads (s : State) : (bareState s).boot.state = .boot ∧ (bareState s).boot.step = 0 ∧ (bareState s).boot.warm = false
    ∧ (bareState s).rst.runs = [] ∧ (bareState s).rst.lastKind = s.rst.lastKind ∧ (bareState s).cores = State.reset.cores
    ∧ (bareState s).ctxs = State.reset.ctxs ∧ (bareState s).idb.fenceList = s.idb.fenceList ∧ (bareState s).upd.selector = s.upd.selector :=
  ⟨rfl, rfl, rfl, rfl, rfl, rfl, rfl, rfl, rfl⟩

/-- What MODULE-WARM keeps over the bare state. -/
theorem warmKeep_reads (s z b : State) : (warmKeep s z b).boot = { b.boot with warm := true } ∧ (warmKeep s z b).rst.runs = b.rst.runs
    ∧ (warmKeep s z b).rst.lastKind = b.rst.lastKind ∧ (warmKeep s z b).time.ns = s.time.ns ∧ (warmKeep s z b).log = s.log
    ∧ (warmKeep s z b).ctxs = s.ctxs.map fun p => (p.1, { gen := p.2.gen }) := ⟨rfl, rfl, rfl, rfl, rfl, rfl⟩

/-- What MODULE-WARM keeps and clears. -/
theorem warmState_reads (s : State) : (warmState s).boot.state = .boot ∧ (warmState s).boot.step = 0 ∧ (warmState s).boot.warm = true
    ∧ (warmState s).rst.runs = [] ∧ (warmState s).rst.lastKind = s.rst.lastKind ∧ (warmState s).time.ns = s.time.ns ∧ (warmState s).log = s.log
    ∧ ∀ c, (ctx (warmState s) c).gen = (ctx s c).gen ∧ (ctx (warmState s) c).created = false := by
  have hguards : (zeroGuards s).rst.lastKind = s.rst.lastKind := congrArg RstSt.lastKind (rst_of_law (zeroGuards_law s) (by decide))
  obtain ⟨hstate, hstep, -, hnone, hlast, -⟩ := bareState_reads (zeroGuards s)
  obtain ⟨hboot, hruns, hlast', hns, hlog, hctxs⟩ := warmKeep_reads s (zeroGuards s) (bareState (zeroGuards s))
  have hwarm : warmState s = warmKeep s (zeroGuards s) (bareState (zeroGuards s)) := rfl
  rw [hwarm, hboot, hruns, hlast', hns, hlog, hnone, hlast, hguards]
  refine ⟨hstate, hstep, rfl, rfl, rfl, rfl, rfl, fun c => ?_⟩
  have hctx : ctx (warmKeep s (zeroGuards s) (bareState (zeroGuards s))) c = { gen := (ctx s c).gen } := by
    rw [ctx, hctxs]
    exact Tbl.get_map ({} : CtxSt) (fun k => { gen := k.gen }) rfl s.ctxs c
  rw [hctx]
  exact ⟨rfl, rfl⟩

theorem log_ring_logRec (code source p0 p1 p2 p3 : Nat) (s : State) : (logRec code source p0 p1 p2 p3 s).log.ring = s.log.ring := by
  unfold logRec
  dsimp only
  split
  · rfl
  · exact Eq.trans (congrArg LogSt.ring ((countHub_law 0x0F 0 false _).1 .log (by decide))) rfl

theorem does_resetRelease_warm {us : Nat} {x : ResetRun} (hruns : s.rst.runs = [x]) (hphase : x.phase = 5) (hkind : x.kind = 6)
    (hdump : s.rst.dumpPending = none) :
    Does (.resetRelease us) s fun t => t.boot.state = .boot ∧ t.boot.step = 0 ∧ t.boot.warm = true ∧ t.rst.runs = [] ∧ t.rst.lastKind = 6
        ∧ t.time.ns = s.time.ns ∧ t.log.ring = s.log.ring ∧ (∀ c : Ctx, (ctx t c).gen = (ctx s c).gen ∧ (ctx t c).created = false) := by
  have hexec := exec_resetRelease_module (us := us) hruns hphase (by omega) hdump
  rw [if_pos hkind] at hexec
  have hlogged : Law [.rst, .tally, .log] s (loggedRelease x us s) := Law.step (logRec_law ..) (by decide) ((lastReset_law ..).mono (by decide))
  have hkind' : (loggedRelease x us s).rst.lastKind = 6 :=
    (congrArg RstSt.lastKind (rst_of_law (logRec_law ..) (by decide))).trans hkind
  have hring : (loggedRelease x us s).log.ring = s.log.ring := log_ring_logRec ..
  obtain ⟨hstate, hstep, hwarm, hnone, hlast, hns, hlog, hctx⟩ := warmState_reads (loggedRelease x us s)
  refine .of_exec hexec ⟨hstate, hstep, hwarm, hnone, hlast.trans hkind', ?_, ?_, fun c => ?_⟩
  · rw [hns, hlogged.1 .time (by decide)]
  · rw [hlog, hring]
  · obtain ⟨hgen, hcreated⟩ := hctx c
    exact ⟨by rw [hgen, ctx_of_ctxs (hlogged.1 .ctxs (by decide))], hcreated⟩

theorem does_resetRelease_cold {us : Nat} {x : ResetRun} (hruns : s.rst.runs = [x]) (hphase : x.phase = 5) (hkind : x.kind = 7)
    (hdump : s.rst.dumpPending = none) :
    Does (.resetRelease us) s fun t => t.boot.state = .boot ∧ t.boot.step = 0 ∧ t.boot.warm = false ∧ t.rst.runs = [] ∧ t.rst.lastKind = 7
        ∧ t.cores = State.reset.cores ∧ t.ctxs = State.reset.ctxs ∧ t.idb.fenceList = s.idb.fenceList ∧ t.upd.selector = s.upd.selector := by
  have hexec := exec_resetRelease_module (us := us) hruns hphase (by omega) hdump
  rw [if_neg (by omega)] at hexec
  have hlogged : Law [.rst, .tally, .log] s (loggedRelease x us s) := Law.step (logRec_law ..) (by decide) ((lastReset_law ..).mono (by decide))
  have hkind' : (loggedRelease x us s).rst.lastKind = 7 :=
    (congrArg RstSt.lastKind (rst_of_law (logRec_law ..) (by decide))).trans hkind
  have hidb : (loggedRelease x us s).idb = s.idb := hlogged.1 .idb (by decide)
  have hupd : (loggedRelease x us s).upd = s.upd := hlogged.1 .upd (by decide)
  generalize loggedRelease x us s = u at hexec hkind' hidb hupd
  obtain ⟨hstate, hstep, hwarm, hnone, hlast, hcores, hctxs, hfence, hselector⟩ := bareState_reads u
  exact .of_exec hexec ⟨hstate, hstep, hwarm, hnone, hlast.trans hkind', hcores, hctxs, hfence.trans (congrArg IdSt.fenceList hidb),
    hselector.trans (congrArg UpdSt.selector hupd)⟩

/-! ### The escalation -/

theorem domainOk_of_parts (hcores : t.cores = s.cores) (hidb : t.idb = s.idb) (kind index : Nat) : domainOk t kind index = domainOk s kind index := by
  have hplanes : planeCount t = planeCount s := by rw [planeCount, planeCount, hidb]
  unfold domainOk
  rw [core_of_cores hcores, hplanes]

theorem coreCode_lt {g : Nat} (h : g < 144) : coreCode g < 16 := by
  unfold coreCode coreHalf coreClu
  omega

/-- The domain that a compute reset escalates to lies outside its own and exists. -/
theorem nextDomain_ok {x : ResetRun} (hlow : 1 ≤ x.kind) (hhigh : x.kind < 5) (hok : domainOk s x.kind x.index = true) :
    insideDomain (nextDomain x.kind x.index).1 (nextDomain x.kind x.index).2 x.kind x.index = false
      ∧ domainOk s (nextDomain x.kind x.index).1 (nextDomain x.kind x.index).2 = true ∧ (nextDomain x.kind x.index).1 ≠ 5 := by
  obtain ⟨kind, index, _, _, _, _, _, _, _⟩ := x
  dsimp only at hlow hhigh hok ⊢
  have hkind : kind = 1 ∨ kind = 2 ∨ kind = 3 ∨ kind = 4 := by omega
  rcases hkind with rfl | rfl | rfl | rfl
  · have hindex : index < 144 := by
      simp only [domainOk, Bool.and_eq_true, decide_eq_true_eq] at hok
      exact hok.1.1
    exact ⟨rfl, decide_eq_true (coreCode_lt hindex), by simp [nextDomain]⟩
  · have hindex : index < 16 := of_decide_eq_true hok
    have hhalf : index / 8 < 2 := by omega
    exact ⟨rfl, decide_eq_true hhalf, by simp [nextDomain]⟩
  · exact ⟨rfl, rfl, by simp [nextDomain]⟩
  · exact ⟨rfl, rfl, by simp [nextDomain]⟩

/-- The escalation of the only reset. -/
theorem exec_resetEscalation {x : ResetRun} (hruns : s.rst.runs = [x]) (hkind : x.kind ≠ 7) (hlate : x.at_ + escalateNs x.kind ≤ s.now) :
    exec .resetEscalation s = .next (if x.kind = 5 then laneDown x (logRec 0x0804 (resetSrc x.kind x.index) 2 x.kind x.index 0 s)
      else trigReset (nextDomain x.kind x.index).1 (nextDomain x.kind x.index).2 3 (logRec 0x0804 (resetSrc x.kind x.index) 2 x.kind x.index 0 s)) := by
  have hfind : (s.rst.runs.find? fun x => x.kind ≠ 7 ∧ x.at_ + escalateNs x.kind ≤ s.now) = some x := by
    rw [hruns]
    exact List.find?_cons_of_pos (decide_eq_true ⟨hkind, hlate⟩)
  change execResetEscalation s = _
  unfold execResetEscalation
  rw [hfind]
  dsimp only
  split <;> rfl

theorem does_resetEscalation {x : ResetRun} {d : Nat × Nat} (hruns : s.rst.runs = [x]) (hhigh : x.kind < 5) (hlow : 1 ≤ x.kind)
    (hok : domainOk s x.kind x.index = true) (hlate : x.at_ + escalateNs x.kind ≤ s.now) (hon : s.boot.state ≠ .off) (hpower : s.pwr.failing = none)
    (hd : d = nextDomain x.kind x.index) :
    Does .resetEscalation s fun t => ∃ y ∈ t.rst.runs, y.kind = d.1 ∧ y.index = d.2 ∧ y.cause = 3 ∧ y.phase = 3 := by
  subst hd
  have hlaw := logRec_law 0x0804 (resetSrc x.kind x.index) 2 x.kind x.index 0 s
  have hexec := exec_resetEscalation hruns (by omega) hlate
  rw [if_neg (by omega)] at hexec
  generalize logRec 0x0804 (resetSrc x.kind x.index) 2 x.kind x.index 0 s = u at hlaw hexec
  have hcores : u.cores = s.cores := hlaw.1 .cores (by decide)
  have hruns' : u.rst.runs = [x] := (congrArg RstSt.runs (rst_of_law hlaw (by decide))).trans hruns
  have hok' : domainOk u x.kind x.index = true := by
    rw [domainOk_of_parts hcores (hlaw.1 .idb (by decide))]
    exact hok
  obtain ⟨houtside, hnext, hpair⟩ := nextDomain_ok hlow hhigh hok'
  rw [trigReset_begins (by rw [hlaw.1 .boot (by decide)]; exact hon) (by rw [hlaw.1 .pwr (by decide)]; exact hpower)
    (by rw [hruns', List.any_cons, houtside]; rfl) hnext] at hexec
  obtain ⟨⟨run, hbegun, hkind, hindex, hcause, -, hphase⟩, -⟩ := beginReset_reads (nextDomain x.kind x.index).1 (nextDomain x.kind x.index).2 3 u
  refine .of_exec hexec ⟨run, ?_, hkind, hindex, hcause, hphase.trans (if_neg hpair)⟩
  rw [hbegun]
  exact List.mem_append_right _ (List.mem_singleton.mpr rfl)

theorem pairGone_of_no_outs {p l : Nat} (h : s.link.outs = []) : pairGone p l s = s := by
  unfold pairGone
  rw [h]
  rfl

theorem laneDown_of_no_outs (x : ResetRun) (h : s.link.outs = []) : laneDown x s = updPair (x.index / 16) (x.index % 16)
    (fun k => { k with state := .down, phase := 0 }) (onRst (fun t => { t with runs := t.runs.erase x }) s) := pairGone_of_no_outs h

theorem does_resetEscalation_lane {x : ResetRun} (hruns : s.rst.runs = [x]) (hkind : x.kind = 5) (hlate : x.at_ + 10000000 ≤ s.now)
    (houts : s.link.outs = []) :
    Does .resetEscalation s fun t => t.rst.runs = [] ∧ (pair t (x.index / 16) (x.index % 16)).state = .down := by
  have hlaw := logRec_law 0x0804 (resetSrc x.kind x.index) 2 x.kind x.index 0 s
  have hexec := exec_resetEscalation hruns (by omega) (by rw [hkind]; exact hlate)
  rw [if_pos hkind] at hexec
  generalize logRec 0x0804 (resetSrc x.kind x.index) 2 x.kind x.index 0 s = u at hlaw hexec
  have houts' : u.link.outs = [] := (congrArg LinkSt.outs (hlaw.1 .link (by decide))).trans houts
  have hruns' : u.rst.runs.erase x = [] := by
    rw [rst_of_law hlaw (by decide), hruns]
    exact List.erase_cons_head ..
  rw [laneDown_of_no_outs x houts'] at hexec
  refine .of_exec hexec ⟨hruns', ?_⟩
  rw [pair_updPair]

end

/-- Settles O28, a lemma for each row. -/
theorem resetsComplete : Obligations.ResetsComplete :=
  ⟨fun _ _ _ _ _ hcmd hon hpower hnone hok _ => does_resetCmd hcmd hon hpower hnone hok, fun _ _ => does_resetDrainEnd, fun _ _ => does_resetSampleWritten,
    fun _ _ _ => does_resetRelease, fun _ _ _ => does_resetRelease_warm, fun _ _ _ => does_resetRelease_cold, fun _ _ _ => does_resetEscalation,
    fun _ _ => does_resetEscalation_lane⟩

end Sys2Proof.Machine
end

section
/-! ### Hangs, fatal errors and the dump (16_reset_and_recovery.md R342 to R345, R349) -/

namespace Sys2Proof.Machine

section
variable {s t : State}

/-! ### Hang detections counted -/

/-- The hang detections counted. -/
def hangs (s : State) : Nat := Tbl.get 0 s.rst.counts 8

theorem hangs_of_rst (h : t.rst = s.rst) : hangs t = hangs s := by rw [hangs, hangs, h]

theorem hangs_of_law {L : List Part} (h : Law L s t) (hL : .rst ∉ L) : hangs t = hangs s := hangs_of_rst (rst_of_law h hL)

theorem hangs_countReset (s : State) : hangs (countReset 8 s) = satAdd 255 (hangs s) 1 := Tbl.get_set_same ..

theorem hangs_trigReset {kind : Nat} (hkind : kind ≠ 8) (index cause : Nat) (s : State) : hangs (trigReset kind index cause s) = hangs s := by
  have hlog : ∀ a b c d e f, hangs (logRec a b c d e f s) = hangs s := fun _ _ _ _ _ _ => hangs_of_law (logRec_law ..) (by decide)
  unfold trigReset
  split
  · rfl
  split
  · exact hlog ..
  split
  · exact hlog ..
  · rw [hangs, (beginReset_reads kind index cause s).2.1, Tbl.get_set, if_neg hkind.symm]
    rfl

theorem hangs_hangReset (g : Nat) (s : State) : hangs (hangReset g s) = hangs s := by
  unfold hangReset
  split
  · split
    · rw [hangs, hangs, counts_of_view (resetView_fenceCore ..)]
    · exact hangs_trigReset (by decide) ..
  · exact hangs_trigReset (by decide) ..

/-- A detection is one more in the count; nothing else of the resets changes. -/
theorem rst_detected (det g st limit : Nat) (s : State) : (detected det g st limit s).rst = (countReset 8 s).rst := by
  have hlogged : (logRec 0x0803 (resetSrc 1 g) det g st limit (coreFault g 4 (countReset 8 s))).rst = (countReset 8 s).rst :=
    (rst_of_law (logRec_law ..) (by decide)).trans (rst_of_law (coreFault_law ..) (by decide))
  unfold detected
  dsimp only
  split
  · exact (rst_of_law (postEvent_law ..) (by decide)).trans hlogged
  · exact hlogged

theorem hangs_detected (det g st limit : Nat) (s : State) : hangs (detected det g st limit s) = satAdd 255 (hangs s) 1 :=
  (hangs_of_rst (rst_detected ..)).trans (hangs_countReset s)

theorem hangs_logged (a b c d e f : Nat) (s : State) : hangs (logRec a b c d e f (countReset 8 s)) = satAdd 255 (hangs s) 1 :=
  (hangs_of_law (logRec_law ..) (by decide)).trans (hangs_countReset s)

theorem hangs_fatal (cause hpc : Nat) (s : State) : hangs (fatal cause hpc s) = hangs s := by
  have hmarked : hangs (onRst (fun t => { t with dumpPending := some cause, dumpWell := 0 }) (logRec 0x0806 0x0800 cause hpc 0 0 s)) = hangs s :=
    hangs_of_law (s := s) (t := logRec 0x0806 0x0800 cause hpc 0 0 s) (logRec_law ..) (by decide)
  exact (hangs_trigReset (by split <;> decide) ..).trans hmarked

theorem exec_streamIssueHang {g : Core} {st : Str} (hheld : heldFor s g st [2, 3, 4, 6, 7, 8] (hangLimit s 0) = true) :
    exec (.streamIssueHang g st) s = .next (if bit s.rst.hangCfg 25 then hangReset g (detected 2 g st (hangLimit s 0) s)
      else detected 2 g st (hangLimit s 0) s) := if_pos hheld

theorem exec_stopHang {g : Core} {st : Str} (hstopping : (strm s g st).state = .stopping) (hlong : (strm s g st).stopAt + 1000000 ≤ s.now) :
    exec (.stopHang g st) s = .next (hangReset g (detected 4 g st 1 s)) := if_pos ⟨hstopping, hlong⟩

/-- A command that finds a hang counts it. -/
theorem does_hangFound {c : Instr} (h : HangFound c s) : Does c s fun t => hangs t = satAdd 255 (hangs s) 1 := by
  have hreset : ∀ (b : Bool) (g : Nat) (u : State), hangs (if b then hangReset g u else u) = hangs u := fun b g u => by
    split
    · exact hangs_hangReset ..
    · rfl
  have hrewind : ∀ (b : Bool) (c : Nat) (u : State), hangs (if b then rewind c u else u) = hangs u := fun b c u => by
    split
    · exact hangs_of_law (rewind_law ..) (by decide)
    · rfl
  rcases h with ⟨g, st, rfl, hheld⟩ | ⟨g, st, rfl, hheld⟩ | ⟨g, st, rfl, hrunning, hheld⟩ | ⟨g, st, rfl, hstopping, hlong⟩ | ⟨k, port, rsp, rfl, hbeats, hlong⟩
    | ⟨p, l, rfl, hlong⟩ | ⟨p, rfl⟩ | ⟨h, rfl⟩ | ⟨v, rfl⟩
  · exact .of_exec (if_pos hheld) ((hrewind ..).trans (hangs_detected ..))
  · exact .of_exec (exec_streamIssueHang hheld) ((hreset ..).trans (hangs_detected ..))
  · exact .of_exec (if_pos ⟨.inl hrunning, hheld⟩) ((hreset ..).trans (hangs_detected ..))
  · exact .of_exec (exec_stopHang hstopping hlong) ((hangs_hangReset ..).trans (hangs_detected ..))
  · exact .of_exec (if_pos ⟨hbeats, hlong⟩) ((hangs_trigReset (by decide) ..).trans (hangs_logged ..))
  · exact .of_exec (if_pos hlong) ((hangs_trigReset (by decide) ..).trans (hangs_logged ..))
  · exact .of_exec rfl (hangs_logged ..)
  · exact .of_exec rfl (hangs_logged ..)
  · exact .of_exec rfl ((hangs_fatal ..).trans (hangs_logged ..))

/-! ### The CORE reset of a hang -/

/-- A reset that nothing stands against has its run. -/
theorem run_trigReset {kind index cause : Nat} (hon : s.boot.state ≠ .off) (hpower : s.pwr.failing = none)
    (hnone : (s.rst.runs.any fun x => insideDomain kind index x.kind x.index) = false) (hok : domainOk s kind index = true) :
    ∃ x ∈ (trigReset kind index cause s).rst.runs, x.kind = kind ∧ x.index = index ∧ x.cause = cause ∧ x.phase = if kind = 5 then 5 else 3 := by
  rw [trigReset_begins hon hpower hnone hok]
  obtain ⟨⟨run, hruns, hkind, hindex, hcause, -, hphase⟩, -⟩ := beginReset_reads kind index cause s
  refine ⟨run, ?_, hkind, hindex, hcause, hphase⟩
  rw [hruns]
  exact List.mem_append_right _ (List.mem_singleton.mpr rfl)

/-- What a detection leaves of its core. -/
theorem core_detected (det g st limit : Nat) (s : State) : (core (detected det g st limit s) g).hangFree = (core s g).hangFree
    ∧ (core (detected det g st limit s) g).state = (core s g).state := by
  have hfault : ∀ u : State, (core (coreFault g 4 u) g).hangFree = (core u g).hangFree ∧ (core (coreFault g 4 u) g).state = (core u g).state := fun u => by
    rw [coreFault, core_updCore, if_pos rfl]
    exact ⟨rfl, rfl⟩
  have hlogged : core (logRec 0x0803 (resetSrc 1 g) det g st limit (coreFault g 4 (countReset 8 s))) g = core (coreFault g 4 (countReset 8 s)) g :=
    core_of_cores ((logRec_law ..).1 .cores (by decide)) g
  have hcore : core (detected det g st limit s) g = core (coreFault g 4 (countReset 8 s)) g := by
    unfold detected
    dsimp only
    split
    · exact (core_of_cores ((postEvent_law ..).1 .cores (by decide)) g).trans hlogged
    · exact hlogged
  rw [hcore]
  exact hfault (countReset 8 s)

theorem run_hangReset {det g st limit : Nat} (hfree : (core s g).hangFree = none) (hnone : s.rst.runs = []) (hon : s.boot.state ≠ .off)
    (hpower : s.pwr.failing = none) (hok : domainOk s 1 g = true) :
    ∃ x ∈ (hangReset g (detected det g st limit s)).rst.runs, x.kind = 1 ∧ x.index = g ∧ x.cause = 2 := by
  have hlaw := detected_law det g st limit s
  have hrst := rst_detected det g st limit s
  obtain ⟨hfree', hstate⟩ := core_detected det g st limit s
  generalize detected det g st limit s = u at hlaw hrst hfree' hstate ⊢
  have hruns : u.rst.runs = [] := (congrArg RstSt.runs hrst).trans hnone
  have hok' : domainOk u 1 g = true := by
    unfold domainOk at hok ⊢
    rw [hstate]
    exact hok
  have hreset : hangReset g u = trigReset 1 g 2 u := by
    unfold hangReset
    rw [hfree', hfree]
  rw [hreset]
  obtain ⟨x, hx, hkind, hindex, hcause, -⟩ := run_trigReset (s := u) (cause := 2) (by rw [hlaw.1 .boot (by decide)]; exact hon)
    (by rw [hlaw.1 .pwr (by decide)]; exact hpower) (by rw [hruns]; rfl) hok'
  exact ⟨x, hx, hkind, hindex, hcause⟩

theorem does_coreHang {c : Instr} {g : Core} {st : Str} (hc : c = .stopHang g st ∧ (strm s g st).state = .stopping ∧ (strm s g st).stopAt + 1000000 ≤ s.now
      ∨ c = .streamIssueHang g st ∧ heldFor s g st [2, 3, 4, 6, 7, 8] (hangLimit s 0) = true ∧ bit s.rst.hangCfg 25 = true)
    (hfree : (core s g).hangFree = none) (hnone : s.rst.runs = []) (hon : s.boot.state ≠ .off) (hpower : s.pwr.failing = none)
    (hok : domainOk s 1 g = true) : Does c s fun t => ∃ x ∈ t.rst.runs, x.kind = 1 ∧ x.index = g ∧ x.cause = 2 := by
  rcases hc with ⟨rfl, hstopping, hlong⟩ | ⟨rfl, hheld, hact⟩
  · exact .of_exec (exec_stopHang hstopping hlong) (run_hangReset hfree hnone hon hpower hok)
  · have hexec := exec_streamIssueHang hheld
    rw [if_pos hact] at hexec
    exact .of_exec hexec (run_hangReset hfree hnone hon hpower hok)

/-! ### Fatal errors -/

/-- No smaller domain holds the module. -/
theorem insideDomain_module {k kk : Nat} (hk : 6 ≤ k) (hkk : kk < 6) (i ii : Nat) : insideDomain k i kk ii = false := by
  have h1 : (k == 1) = false := beq_false_of_ne (by omega)
  have h2 : (k == 2) = false := beq_false_of_ne (by omega)
  have h3 : (k == 3) = false := beq_false_of_ne (by omega)
  have h5 : (k == 5) = false := beq_false_of_ne (by omega)
  have h4 : decide (1 ≤ k ∧ k ≤ 4) = false := decide_eq_false (by omega)
  have h0 : (k == 0) = false := beq_false_of_ne (by omega)
  have hkinds : kk = 0 ∨ kk = 1 ∨ kk = 2 ∨ kk = 3 ∨ kk = 4 ∨ kk = 5 := by omega
  rcases hkinds with rfl | rfl | rfl | rfl | rfl | rfl
  all_goals simp only [insideDomain, h0, h1, h2, h3, h4, h5, Bool.false_and, Bool.or_self]

theorem resetting_beginReset {kind : Nat} (hkind : 6 ≤ kind) (index cause : Nat) (s : State) : (beginReset kind index cause s).hst.resetting = true := by
  unfold beginReset
  dsimp only
  rw [if_neg (by omega), if_pos hkind]
  rfl

/-- A fatal error leaves its dump pending and its module reset begun. -/
theorem fatal_reads {cause : Nat} (hpc : Nat) (hon : s.boot.state ≠ .off) (hpower : s.pwr.failing = none) (hsmall : ∀ x ∈ s.rst.runs, x.kind < 6) :
    (fatal cause hpc s).rst.dumpPending = some cause ∧ (fatal cause hpc s).hst.resetting = true
      ∧ ∃ x ∈ (fatal cause hpc s).rst.runs, x.kind = (if cause = 4 ∨ cause = 5 then 7 else 6) ∧ x.cause = 5 ∧ x.phase = 3 := by
  have hlaw := logRec_law 0x0806 0x0800 cause hpc 0 0 s
  have hfatal : fatal cause hpc s = trigReset (if cause = 4 ∨ cause = 5 then 7 else 6) 0 5
      (onRst (fun t => { t with dumpPending := some cause, dumpWell := 0 }) (logRec 0x0806 0x0800 cause hpc 0 0 s)) := rfl
  have hmodule : ∀ k, k = (if cause = 4 ∨ cause = 5 then 7 else 6) → k = 6 ∨ k = 7 := fun k hk => by
    split at hk
    · exact .inr hk
    · exact .inl hk
  rw [hfatal]
  generalize hk : (if cause = 4 ∨ cause = 5 then 7 else 6) = k
  have hkind := hmodule k hk.symm
  generalize logRec 0x0806 0x0800 cause hpc 0 0 s = u at hlaw
  have hmarked : (onRst (fun t => { t with dumpPending := some cause, dumpWell := 0 }) u).rst.dumpPending = some cause := rfl
  have hruns : (onRst (fun t => { t with dumpPending := some cause, dumpWell := 0 }) u).rst.runs = s.rst.runs := by
    have hkept : u.rst.runs = s.rst.runs := congrArg RstSt.runs (rst_of_law hlaw (by decide))
    exact hkept
  have hboot : (onRst (fun t => { t with dumpPending := some cause, dumpWell := 0 }) u).boot = s.boot := hlaw.1 .boot (by decide)
  have hpwr : (onRst (fun t => { t with dumpPending := some cause, dumpWell := 0 }) u).pwr = s.pwr := hlaw.1 .pwr (by decide)
  generalize onRst (fun t => { t with dumpPending := some cause, dumpWell := 0 }) u = v at hmarked hruns hboot hpwr
  have hnone : (v.rst.runs.any fun x => insideDomain k 0 x.kind x.index) = false := by
    rw [hruns, List.any_eq_false]
    intro x hx
    rw [insideDomain_module (by omega) (hsmall x hx)]
    decide
  have hok : domainOk v k 0 = true := by rcases hkind with rfl | rfl <;> rfl
  have hon' : v.boot.state ≠ .off := by rw [hboot]; exact hon
  have hpower' : v.pwr.failing = none := by rw [hpwr]; exact hpower
  obtain ⟨x, hx, hxkind, -, hxcause, hxphase⟩ := run_trigReset (cause := 5) hon' hpower' hnone hok
  rw [if_neg (by omega)] at hxphase
  refine ⟨?_, ?_, x, hx, hxkind, hxcause, hxphase⟩
  · rw [trigReset_begins hon' hpower' hnone hok, (beginReset_reads ..).2.2.1]
    exact hmarked
  · rw [trigReset_begins hon' hpower' hnone hok]
    exact resetting_beginReset (by omega) ..

theorem does_fatal {c : Instr} {cause : Nat} {hpc : Word} (hc : c = .hubWatchdog hpc ∧ cause = 1 ∨ c = .hubFirmwareException hpc ∧ cause = 2
      ∨ c = .hubMemoryUe hpc ∧ cause = 3 ∨ c = .ddrControllerFault hpc ∧ cause = 5)
    (hon : s.boot.state ≠ .off) (hpower : s.pwr.failing = none) (hsmall : ∀ x ∈ s.rst.runs, x.kind < 6) :
    Does c s fun t => t.rst.dumpPending = some cause ∧ t.hst.resetting = true
        ∧ ∃ x ∈ t.rst.runs, x.kind = (if cause = 5 then 7 else 6) ∧ x.cause = 5 ∧ x.phase = 3 := by
  rcases hc with ⟨rfl, rfl⟩ | ⟨rfl, rfl⟩ | ⟨rfl, rfl⟩ | ⟨rfl, rfl⟩
  · have hlaw : Law [.rst, .tally, .log] s (logRec 0x0803 0x0800 9 0 0 100 (countReset 8 s)) :=
      Law.step (logRec_law ..) (by decide) ((countReset_law ..).mono (by decide))
    have hruns : (logRec 0x0803 0x0800 9 0 0 100 (countReset 8 s)).rst.runs = s.rst.runs := by
      have hkept : (logRec 0x0803 0x0800 9 0 0 100 (countReset 8 s)).rst.runs = (countReset 8 s).rst.runs :=
        congrArg RstSt.runs (rst_of_law (logRec_law ..) (by decide))
      exact hkept
    exact .of_exec rfl (fatal_reads (cause := 1) hpc.toNat (by rw [hlaw.1 .boot (by decide)]; exact hon) (by rw [hlaw.1 .pwr (by decide)]; exact hpower)
      (by rw [hruns]; exact hsmall))
  · exact .of_exec rfl (fatal_reads (cause := 2) hpc.toNat hon hpower hsmall)
  · exact .of_exec rfl (fatal_reads (cause := 3) hpc.toNat hon hpower hsmall)
  · exact .of_exec rfl (fatal_reads (cause := 5) hpc.toNat hon hpower hsmall)

/-! ### The dump -/

theorem does_dumpWritten {kib us cause : Nat} (hpending : s.rst.dumpPending = some cause) (hnot4 : cause ≠ 4) (hnot5 : cause ≠ 5)
    (hrun : (dumpRun s).isSome = true) :
    Does (.dumpWritten kib us) s fun t => t.rst.dumpPending = none ∧ t.rst.dumpValid = true ∧ t.rst.dumpCause = cause := by
  obtain ⟨x, hx⟩ := Option.isSome_iff_exists.mp hrun
  have hexec : ∃ kinds len u, exec (.dumpWritten kib us) s = .next (logRec 0x0807 0x0800 kib kinds us 0 (onRst (fun t => { t with
      dumpPending := none, dumpValid := true, dumpSource := false, dumpWell := 0, dumpCause := cause, dumpLen := len }) u)) := by
    change ∃ kinds len u, execDumpWritten kib us s = _
    unfold execDumpWritten
    rw [hpending, hx]
    dsimp only
    rw [if_neg (by omega)]
    exact ⟨_, _, _, rfl⟩
  obtain ⟨kinds, len, u, hexec⟩ := hexec
  refine .of_exec hexec ?_
  rw [rst_of_law (logRec_law ..) (by decide)]
  exact ⟨rfl, rfl, rfl⟩

theorem does_dumpWellCopyEnd {result us : Nat} (hvalid : s.rst.dumpValid = true) (hwell : s.rst.dumpWell = 0)
    (hrun : (dumpRun s).isSome = true) :
    Does (.dumpWellCopyEnd result us) s fun t => t.rst.dumpWell = result
        ∧ t.rst.dumpHalf = if result = 1 then !s.rst.dumpHalf else s.rst.dumpHalf := by
  have hexec : ∃ (cause : RstSt → Nat) (pending : RstSt → Option Nat) (image : List Byte), exec (.dumpWellCopyEnd result us) s = .next (logRec 0x0808 0x0800 result (b2n s.rst.dumpHalf) us 0
      (onRst (fun t => { t with dumpWell := result, dumpHalf := if result = 1 then !s.rst.dumpHalf else s.rst.dumpHalf
                                dumpCause := cause t, dumpPending := pending t, wellDump := image }) { s with freeCtr := s.freeCtr + 1 })) := by
    change ∃ (cause : RstSt → Nat) (pending : RstSt → Option Nat) (image : List Byte), execDumpWellCopyEnd result us s = _
    unfold execDumpWellCopyEnd
    dsimp only
    rw [if_pos ⟨hrun, .inr hvalid, hwell⟩]
    exact ⟨_, _, _, rfl⟩
  obtain ⟨cause, pending, image, hexec⟩ := hexec
  refine .of_exec hexec ?_
  rw [rst_of_law (logRec_law ..) (by decide)]
  exact ⟨rfl, rfl⟩

theorem does_dumpClear {v : Word} (hfree : blockHeld s 0x80020 = false) (hclear : bit v 0 = true) :
    Does (.dumpClear v) s fun t => t.rst.dumpValid = false ∧ t.rst.dumpWell = s.rst.dumpWell := by
  have hexec : exec (.dumpClear v) s = .next (onRst (fun t => { t with dumpValid := false }) s) := by
    change execDumpClear v s = _
    unfold execDumpClear
    rw [if_neg (by simp [hfree]), if_pos hclear]
  exact .of_exec hexec ⟨rfl, rfl⟩

theorem does_rstHangCfgWrite {v : Word} (hfree : blockHeld s 0x80008 = false) :
    Does (.rstHangCfgWrite v) s fun t => t.rst.hangCfg = v &&& 0x03FFFFFF := by
  have hexec : exec (.rstHangCfgWrite v) s = .next (onRst (fun t => { t with hangCfg := v &&& 0x03FFFFFF }) s) := by
    change execRstHangCfgWrite v s = _
    unfold execRstHangCfgWrite
    rw [if_neg (by simp [hfree])]
  exact .of_exec hexec rfl

end

/-- Settles O29, a lemma for each row. -/
theorem hangsAndDumpsComplete : Obligations.HangsAndDumpsComplete :=
  ⟨fun _ _ => does_hangFound, fun _ _ _ _ => does_coreHang, fun _ _ _ _ => does_fatal, fun _ _ _ _ => does_dumpWritten,
    fun _ _ _ _ => does_dumpWellCopyEnd, fun _ _ => does_dumpClear, fun _ _ => does_rstHangCfgWrite⟩

end Sys2Proof.Machine
end
